-- ==== Sys2Proof/Word.lean ====
section
/-! DEFINITION. The word types of the SH-4840 and their plainest arithmetic. -/

namespace Sys2Proof

/-- A register word: 32 bits (R38). -/
abbrev Word := BitVec 32

/-- One byte of memory. -/
abbrev Byte := BitVec 8

/-- A physical address: 40 bits (R36). -/
abbrev Addr := BitVec 40

/-- Sparse data by key: pairs in one canonical form, keys strictly rising (see `SMap.wf`). -/
abbrev SMap (α : Type) := List (Nat × α)

end Sys2Proof
end

