-- ==== Sys2Proof/Syntax.lean ====
section
/-! DEFINITION. The commands of the SH-4840: one constructor of `Instr` for each row of spec/opcode_table.json, with the
operands that come from outside the device at that moment. -/

namespace Sys2Proof

/-- The requesters of R42; the microcoded engines in the order of the engine table. -/
inductive Requester where
  | cox
  | stroke (n : Fin 4)
  | rudder (n : Fin 4)
  | keel
  | powerManager
  | debugPort
  | engine (n : Fin 48)
  deriving DecidableEq, Repr

/-- The width of a bus access (R38). -/
inductive AccessWidth where
  | byte | half | word | double
  deriving DecidableEq, Repr

/-- The hardware queues of R91. -/
inductive QueueId where
  | intake
  | firmware (core : Fin 4)
  | gate (act : Fin 4)
  | oarJob (oar : Fin 16)
  | oarDone (oar : Fin 16)
  | stripe
  | xact (engine : Fin 2)
  deriving DecidableEq, Repr

/-- A fetch of a microcoded engine (R303 to R305): the bits of the word found, and of its two parity bits above them, that read inverted; the
condition that the word names; the operand that a DISPATCH selects. -/
structure MicroFetch where
  flips : BitVec 130
  cond : Bool
  operand : Nat
  deriving DecidableEq, Repr

/-- A write of Q_PORT that pops (R104): the value, and whether the item popped then fails its word parity. -/
structure PopWrite where
  v : Word
  parityBad : Bool
  deriving DecidableEq, Repr

/-- The address mark of a wedge (R230): symbols in error, and its distance from the predicted place in ns. -/
structure WedgeMark where
  symErrors : Nat
  skewNs : Nat
  deriving DecidableEq, Repr

/-- The amplitudes of a wedge's null bursts (R231). -/
structure NullBursts where
  n1 : Int
  n2 : Int
  deriving DecidableEq, Repr

/-- What the rigger die measures of an actuator's coil: its voltage in mV and its current in mA (R200). -/
structure CoilSense where
  coilMv : Int
  coilMa : Int
  deriving DecidableEq, Repr

/-- An upset that strikes one copy (0 A, 1 B, 2 C) of one critical word: the bits of `flips` invert; or one of that
copy's parity sets. -/
structure CritUpset where
  copy : Fin 3
  word : Fin 32
  flips : Word
  rowFlips : Word
  colFlips : Word
  deriving DecidableEq, Repr

/-- What the rigger die's side of a bridge frame mirrors into the DRV page (R14, R143). -/
structure RiggerMirror where
  busMv : Nat
  chopMa : Nat
  tempDeciC : Int
  deriving DecidableEq, Repr

/-- What Keel's control law asks for in one PWM period: its numbers no rule states. Modulation index in percent, torque current in
mA, negative when regenerating, the speed of the forced field of OPEN_LOOP in rpm, the d-axis current in mA, the duty word, and the values its three integrators would take (log entry 137). -/
structure KeelAsk where
  modPct : Nat
  iqMa : Int
  fieldRpm : Nat
  idMa : Int
  duty : Word
  modInt : Int
  iqInt : Int
  regenInt : Int
  deriving DecidableEq, Repr

/-- What Keel samples in one PWM period (R109 to R117). -/
structure PwmSample where
  delivered : Bool      -- the duty word reached the rigger die within 10 µs
  residualMa : Nat      -- magnitude of measured minus predicted current
  speed : Word          -- present speed, 2^-16 rpm
  idMa : Int
  iqMa : Int
  uMa : Int             -- in-line currents of phases U and V
  vMa : Int
  shuntUMa : Int        -- the same, reconstructed from the shunt
  shuntVMa : Int
  supplyMa : Nat        -- supply current averaged over the period, on the shunt
  inlineMa : Nat        -- the same from the in-line currents weighted by the duty words
  dragMw : Nat
  periodDegE : Nat      -- electrical degrees the rotor turned in this period
  pulse : Option (Option Nat) -- in DETECT: a position pulse has ended, and the rotor angle it and those before give
  ask : KeelAsk
  angle : Nat           -- electrical angle of the estimate, 1/65,536 revolution
  deriving DecidableEq, Repr

/-- What a port's probe meets (R157): PFAULT_N low when it is sampled, and what the line carries back for each frame sent, in order: of a
read the data and the CRC-8, of a write the acknowledgement in the low byte. A line that nothing drives carries ones. -/
structure ProbeReply where
  pfault : Bool
  tails : List (BitVec 24)
  deriving DecidableEq, Repr

/-- What meets a Rudder at a wedge sample instant (R172, R173, R200). -/
structure WedgeIn where
  thirdLate : List Bool -- by slot: its third-stage word misses its deadline
  late : Bool           -- the coil and milliactuator word misses its deadline
  coilMv : Int          -- coil voltage and current as the rigger die measures them
  coilMa : Int
  bankParity : Bool     -- the active bank's parity fails, and fails on its re-read
  bankReread : Bool     -- the active bank's parity fails, and a re-read passes
  deriving DecidableEq, Repr

/-- What meets one slot at a sub-sample end (R177, R178, R236): the amplitudes of its two readers in 1/16 LSB, whether the window crossed a
wedge or a sector gap, the self-sensing sample in mV, and whether its third-stage word misses its deadline. -/
structure SubSlotIn where
  amp0 : Nat
  amp1 : Nat
  crossed : Bool
  ssMv : Int
  late : Bool
  deriving DecidableEq, Repr

/-- What meets a Rudder at a sub-sample end, by slot. -/
structure SubIn where
  slots : List SubSlotIn
  deriving DecidableEq, Repr

/-- One head of a group (R182): the actuator-local head, the target track centre in 1/4,096 track, read or write, the zone. -/
structure GroupSlot where
  head : Nat
  centre : Nat
  write : Bool
  zone : Nat
  deriving DecidableEq, Repr

/-- What the front end delivers of a wedge (R230). -/
structure WedgeResult where
  mark : Bool
  wedge : Nat
  track : Nat
  burst : Nat
  deriving DecidableEq, Repr



/-- One sync search of a read (R232, R235): bits in which its best match differs, that match's distance from the expected place in bits,
and the largest shift of a reader's baseline within 8 samples while it searches, in ADC LSB. -/
structure SyncSearch where
  errors : Nat
  offset : Int
  shift : Nat
  deriving DecidableEq, Repr

/-- A shift of a reader's baseline within 8 samples of a codeword (R235): its size in ADC LSB, the codeword bit at which it is complete,
and the one at which the baseline has returned. -/
structure Baseline where
  shift : Nat
  first : Nat
  back : Nat
  deriving DecidableEq, Repr

/-- The samples of the two readers for one bit, interpolated to the bit rate, and the error of the equalised sample against the target as
the front end judges it (R233). -/
structure EqSample where
  raw0 : Int
  raw1 : Int
  error : Int
  deriving DecidableEq, Repr

/-- What a passage of a sector under the head delivers (R232 to R235): its sync searches in order; the baseline shifts in its codeword; the
longest run of bits over which the timing loop's phase error stays above a quarter of a bit, as first bit and length; the readers' samples
of the preamble and of each codeword bit; the gains that its preamble gives. -/
structure ReadPass where
  syncs : List SyncSearch
  shifts : List Baseline
  slip : Nat × Nat
  preamble : List EqSample
  samples : List EqSample
  gain0 : Nat
  gain1 : Nat
  deriving DecidableEq, Repr

/-- What meets a pass or slice of a decoder lane (R264, R266): the soft outputs of its detector for the 38,912 bits, in LLR LSB, one list
for each iteration; and the bits that invert as the hard decisions leave the lane, 8 to a byte, the first the most significant. -/
structure DecodeEnd where
  soft : List (List Int)
  flips : List Byte
  deriving DecidableEq, Repr

/-- The master words of an engine's restore (R307): good, good on the re-read, or bad twice. -/
inductive MasterParity where
  | good | transient | lasting
  deriving DecidableEq, Repr

/-- A 64-byte beat with its poison tag (R76, R78). -/
structure Beat where
  data : List Byte
  poison : Bool
  deriving DecidableEq, Repr

/-- An upset that strikes one granule of buffer DRAM: the bits of its 64 bytes and of its 8 check bytes that invert. -/
structure DramStrike where
  granule : Nat
  data : BitVec 512
  check : BitVec 64
  deriving DecidableEq, Repr

/-- What disturbs the DRAM reads of a command: upsets that stay in the cells, and granules whose first read alone is disturbed. -/
structure DramNoise where
  strikes : List DramStrike
  first : List Nat
  deriving DecidableEq, Repr

/-- What a DRAM port's initialisation meets (R315): the first and the second training, GiB found, and step 3's duration. -/
structure TrainResult where
  first : Bool
  second : Bool
  capacity : Nat
  trainMs : Nat
  deriving DecidableEq, Repr

/-- A parity error that the range engine meets (R333): none, in a dirty line's data, or in a way's tag or state. -/
inductive RangeParity where
  | none | dirty | tag
  deriving DecidableEq, Repr

/-- A parity error that an access to memory meets (R69, R83). -/
inductive CacheParity where
  /-- No error. -/
  | none
  /-- In the data, or in the tag and state, of a line of the buffer cache (R333). -/
  | data | tag
  /-- In a line of the core's own L1 cache. -/
  | l1
  /-- In the dirty line of the buffer cache that the access evicts (R72). -/
  | victim
  /-- The same three in the second line of an access that crosses a line. -/
  | data2 | tag2 | victim2
  /-- In a byte of an on-die SRAM; whether the one re-read fails too. -/
  | sram (again : Bool)
  deriving DecidableEq, Repr


/-- A COMMAND frame as received (SAS-4): LUN field, additional CDB length in dwords, tag, task attribute, TASK PRIORITY and CDB. -/
structure CommandFrame where
  lun : List (BitVec 8)
  addLen : Nat
  tag : Nat
  attr : Nat
  prio : Nat
  cdb : List (BitVec 8)
  deriving DecidableEq, Repr

/-- A task management frame as received: its LUN, its tag, and the tag of the task to be managed. -/
structure TaskMgmtFrame where
  lun : Nat
  tag : Nat
  managed : Nat
  deriving DecidableEq, Repr

/-- What the ONFI parameter page of the safe-store NAND says (R470, R485): blocks, page code (1 4 KiB, 2 8 KiB, 3 16 KiB), dies
minus 1, pages per block, and the blocks that carry the factory mark. -/
structure NandChip where
  blocks : Nat
  page : Nat
  dies : Nat
  perBlock : Nat
  bad : List Nat
  deriving DecidableEq, Repr

/-- The outcome of a health check (R471): good, good at the repeat, or failed twice. -/
inductive HealthEnd where
  | good | goodAgain | failed
  deriving DecidableEq, Repr

/-- What the boot chain meets (R487, R491): OTP fields whose shadow read fails, by the order of R487's table, and whether the
repeat fails too; the containers read from the boot flash at BOOT_A and BOOT_B, none where one cannot be read; and what the
training of DRAM ports 0 and 1 meets (R315). -/
structure BootInputs where
  otpBad : List (Nat × Bool)
  imageA : Option (List Byte)
  imageB : Option (List Byte)
  train0 : TrainResult
  train1 : TrainResult
  deriving DecidableEq, Repr

/-- The two ports of the TAP (R523). -/
inductive TapPort where
  | ieee1149_1 | ieee1149_7
  deriving DecidableEq, Repr

/-- What outside supplies when a write takes the effect of a row of its own (a write by REGISTER_WRITE, DBG_ACCESS or MEM_WRITE, or
a held write): each field is the operand of that name of the register's own command. -/
structure Outside where
  rotorRpm : Nat := 0
  chopMa : Nat := 0
  boot : BootInputs := ⟨[], none, none, ⟨false, false, 0, 0⟩, ⟨false, false, 0, 0⟩⟩
  train : TrainResult := ⟨false, false, 0, 0⟩
  chip : Option NandChip := none
  health : HealthEnd := .good
  pc : Nat := 0
  /-- What the mask ROM or the flash holds. -/
  rom : BitVec 64 := 0#64
  /-- A record of Umpire's window fails its parity, and on its re-read (R515). -/
  parityBad : Bool := false
  rereadBad : Bool := false
  cache : CacheParity := .none
  noise : DramNoise := ⟨[], []⟩
  deriving DecidableEq, Repr


/-- The commands of the device: one constructor for each row of spec/opcode_table.json. -/
inductive Instr where
  /-- REGISTER_WRITE (R45): a write of `v` at `addr` by `req`. -/
  | registerWrite (req : Requester) (addr : BitVec 40) (width : AccessWidth) (v : Word) (o : Outside)
  /-- BUS_TIMEOUT (R25): the access of `req` at `addr` has had no completion for 50 µs. -/
  | busTimeout (req : Requester) (addr : BitVec 40) (write : Bool)
  /-- LATCHED_READ (R39): a register read of `req` at `addr`. -/
  | latchedRead (req : Requester) (addr : BitVec 40) (width : AccessWidth)
  /-- FENCE_DRAIN (R24): a write of the FENCE register of a core page. -/
  | fenceDrain (req : Requester) (page : Nat) (v : Word)
  /-- FENCE_DRAIN_DONE (R24): the last earlier write of the core is acknowledged. -/
  | fenceDrainDone (core : Requester) (o : Outside)
  /-- SOFT_RESET (R44): a write of CTRL with SOFT_RESET 1. -/
  | softReset (req : Requester) (page : Nat) (v : Word)
  /-- SOFT_RESET_DONE (R44): the reset of the page's block has completed. -/
  | softResetDone (page : Nat)
  /-- BLOCK_DISABLE (R44): a write of CTRL with EN 0 and SOFT_RESET 0. -/
  | blockDisable (req : Requester) (page : Nat) (v : Word)
  /-- EV_FORCE (R61): a write of EV_FORCE. -/
  | evForce (req : Requester) (page : Nat) (v : Word)
  /-- PAGE_LOCK (R48): a write of LOCK. -/
  | pageLock (req : Requester) (page : Nat) (v : Word)
  /-- CLAIM (R50): the CLAIM_REQ writes that arrive in one cycle, at least one of them a claim. -/
  | claim (arrivals : List (Requester × Word))
  /-- RELEASE (R51): a CLAIM_REQ write with RELEASE 1. -/
  | release (req : Requester) (v : Word)
  /-- DEV_RESET (R55): a write of DEV_RESET; `boot` is what the boot chain meets if it runs. -/
  | devReset (req : Requester) (v : Word) (boot : BootInputs)
  /-- RESET_N (R543): RESET_N has been low for `lowNs` ns. -/
  | resetN (lowNs : Nat) (boot : BootInputs)
  /-- POWER_ON (R541): both inputs have stood at their thresholds for `goodMs` ms. -/
  | powerOn (goodMs : Nat) (boot : BootInputs)
  /-- RAIL_START_FAIL (R541): a rail stands at `percent` % after 2 ms. -/
  | railStartFail (rail : Nat) (percent : Nat)
  /-- RAIL_LOW (R542): a rail has been more than 8 % low for `lowNs` ns. -/
  | railLow (rail : Nat) (lowNs : Nat)
  /-- REFCLK_LOSS (R542): REFCLK has had no edge for `quietNs` ns. -/
  | refclkLoss (quietNs : Nat)
  /-- UART_CONTAINER (R492): a recovery container received whole on the UART. -/
  | uartContainer (bytes : List Byte)
  /-- ISLAND_CLOCK_STOP (R56): the island's PLL loses lock, or its oscillator leaves ±2 %. -/
  | islandClockStop (island : Nat)
  /-- CLOCK_RELOCK (R56): the island's clock runs again. -/
  | clockRelock (island : Nat) (o : Outside)
  /-- CLOCK_RELOCK_TIMEOUT (R56): the island has not relocked in 50 µs. -/
  | clockRelockTimeout (island : Nat)
  /-- REF_GLITCH (R56): a REFCLK period outside 40 ns ± 1 %. -/
  | refGlitch
  /-- SOFT_IRQ (R57): a write of STROKEn.SOFT_IRQ. -/
  | softIrq (req : Requester) (core : Nat) (v : Word)
  /-- TIMER_COMPARE (R57): the time base stands at or above TIMECMP of the core. -/
  | timerCompare (core : Nat)
  /-- WDT_CONFIG (R57): a write of WDT_CFG. -/
  | wdtConfig (req : Requester) (core : Nat) (v : Word)
  /-- WDT_KICK (R57): a write of WDT_KICK. -/
  | wdtKick (req : Requester) (core : Nat) (v : Word)
  /-- WATCHDOG (R58): the watchdog period of the core has passed. -/
  | watchdog (core : Nat)
  /-- MICROCODE_FAULT (R305): the fetch of the engine with this requester code at microaddress `addr`, at which a check fails. -/
  | microcodeFault (engine : Nat) (addr : Nat) (x : MicroFetch)
  /-- POLL_TIMEOUT (R305): 128 micro-cycles of the engine with this requester code without POLL, WAIT or HALT. -/
  | pollTimeout (engine : Nat) (addr : Nat)
  /-- EVENT_MESSAGE (R62): the oldest message on its way reaches the fabric or the always-on path. -/
  | eventMessage
  /-- BUCKET_LEAK (R67): the time base stands at a multiple of the source's leak period. -/
  | bucketLeak (source : Nat)
  /-- TARGET_POP (R65): a write of EVF.POP_t. -/
  | targetPop (req : Requester) (t : Nat) (v : Word)
  /-- CRIT_READ (R86): a read of an RWT register; `upsets` struck the store before it. -/
  | critRead (req : Requester) (addr : BitVec 40) (upsets : List CritUpset)
  /-- CRIT_WRITE (R84): a write of an RWT register. -/
  | critWrite (req : Requester) (addr : BitVec 40) (v : Word)
  /-- CRIT_SWEEP (R88): the sweep at a multiple of 1 ms; `upsets` struck the store before it. -/
  | critSweep (upsets : List CritUpset)
  /-- QUEUE_PUSH (R94): the producer at port `port` (its requester code) writes packet words; no word: word LEN is written again after a refusal FULL. -/
  | queuePush (q : QueueId) (port : Nat) (words : List Word)
  /-- QUEUE_POP (R96): the consumer takes an item, whose parity the read side finds bad or good. -/
  | queuePop (q : QueueId) (parityBad : Bool)
  /-- QUEUE_AGE_PROMOTE (R97): AGE_US have passed for an item at its level. -/
  | queueAgePromote (q : QueueId)
  /-- FLUSH (R98): a write of Q_FLUSH. -/
  | flush (req : Requester) (q : QueueId) (v : Word)
  /-- FLUSH_TAKES_EFFECT (R99): the packets partial at the flush point are resolved. -/
  | flushTakesEffect (q : QueueId)
  /-- POINTER_MISMATCH (R100): the two sets of pointers of the queue differ. -/
  | pointerMismatch (q : QueueId)
  /-- QUEUE_RESET_DONE (R100): 8 island cycles have passed since the queue's reset began. -/
  | queueResetDone (q : QueueId)
  /-- FW_QUEUE_PUSH (R104): a write of Q_PORT with PUSH 1. -/
  | fwQueuePush (req : Requester) (q : QueueId) (v : Word)
  /-- FW_QUEUE_POP (R104): a write of Q_PORT with POP 1 and PUSH 0. -/
  | fwQueuePop (req : Requester) (q : QueueId) (x : PopWrite)
  /-- BRIDGE_FRAME (R15): a bridge frame arrives with a good or bad CRC; `m` is what a frame to the core die mirrors. -/
  | bridgeFrame (toRigger crcOk : Bool) (m : RiggerMirror)
  /-- RIGGER_FRAME_TIMEOUT (R16): the rigger die has received no good frame for `quietNs` ns. -/
  | riggerFrameTimeout (quietNs : Nat)
  /-- BRIDGE_RESUME (R16): a write of DRV.BRIDGE_CTRL with RESUME 1. -/
  | bridgeResume (req : Requester) (v : Word)
  /-- RIG_FAULT (R147): the rigger die detects over-current (1), over-temperature (2) or a low gate-drive supply (3). -/
  | rigFault (code : Nat)
  /-- PWR_FAIL (R465): the inputs stand at `v12` and `v5` mV, one of them below its fail threshold for `lowNs` ns. -/
  | pwrFail (v12 v5 lowNs : Nat)
  /-- NAND_PROGRAM_DONE (R476): the program of the dump's present page ends, well or badly. -/
  | nandProgramDone (good : Bool)
  /-- DUMP_DONE (R477): the dump-complete mark is written. -/
  | dumpDone
  /-- BUS_COLLAPSE (R467): the bus stands at `busMv` mV after PWR_FAIL. -/
  | busCollapse (busMv : Nat)
  /-- POWER_RETURN (R466): the inputs have stood at `v12` and `v5` mV, and POWER_DISABLE as `disable` says, for `goodMs` ms. -/
  | powerReturn (v12 v5 goodMs : Nat) (disable : Bool) (boot : BootInputs)
  /-- SUPPLY_WARN (R465): a frame of the rigger die brings the inputs at `v12` and `v5` mV. -/
  | supplyWarn (v12 v5 : Nat)
  /-- KEEL_RUN (R121): a write of KEEL.CMD with code 1; `rotorRpm` is what the comparators show in the first 2 ms, `chopMa` the chopper self-test's current. -/
  | keelRun (req : Requester) (v : Word) (rotorRpm chopMa : Nat)
  /-- KEEL_STOP (R132): a write of KEEL.CMD with code 2. -/
  | keelStop (req : Requester) (v : Word)
  /-- KEEL_COAST (R119): a write of KEEL.CMD with code 3. -/
  | keelCoast (req : Requester) (v : Word)
  /-- CHOP_TEST (R144): a write of KEEL.CMD with code 4; `chopMa` is the current sensed within 20 µs. -/
  | chopTest (req : Requester) (v : Word) (chopMa : Nat)
  /-- KEEL_RESUME (R119): a write of KEEL.CMD with code 5. -/
  | keelResume (req : Requester) (v : Word)
  /-- KEEL_CMD_UNLISTED (R119): a write of KEEL.CMD with another code. -/
  | keelCmdUnlisted (req : Requester) (v : Word)
  /-- SPD_TARGET_WRITE (R120): a write of critical word 5 through the view at `addr`. -/
  | spdTargetWrite (req : Requester) (addr : BitVec 40) (v : Word)
  /-- REF_ENABLE (R125): a write of KEEL.REF_CFG with EN 1. -/
  | refEnable (req : Requester) (v : Word)
  /-- PWM_PERIOD (R109): one PWM period ends. -/
  | pwmPeriod (p : PwmSample)
  /-- SPINDLE_LOCKED (R117): the lock conditions have held for QUAL periods. -/
  | spindleLocked
  /-- PHASE_WORD (R115): one microsecond ends; the estimate stands in this sixth of the electrical period, at `frac` of 65,536 within it. -/
  | phaseWord (sextant : Fin 6) (frac : BitVec 16)
  /-- CS_MISMATCH (R111): in-line and shunt currents have disagreed for 8 periods. -/
  | csMismatch
  /-- CS_CHECK (R111): the 8 periods of the recomputed comparison have ended. -/
  | csCheck
  /-- OBSERVER_HANDOVER (R121): the residual has stayed within RESID_MA for 16 periods in OPEN_LOOP. -/
  | observerHandover
  /-- OPEN_LOOP_TIMEOUT (R121): 2 s of OPEN_LOOP have passed. -/
  | openLoopTimeout
  /-- SPINUP_FAIL (R122): TIMEOUT_S have passed since RUN without lock. -/
  | spinupFail
  /-- ESTIMATE_LOST (R129): three periods in a row above the residual threshold. -/
  | estimateLost
  /-- REACQ_OK (R129): the residual has stayed within RESID_MA for one electrical period after resumption. -/
  | reacqOk
  /-- REACQ_FAIL (R129): the attempt has not succeeded within its limit. -/
  | reacqFail
  /-- SHORT_BRAKE (R132): short braking begins. -/
  | shortBrake
  /-- STOPPED (R132): the phase comparators have shown no zero crossing for `quietMs` ms. -/
  | stopped (quietMs : Nat)
  /-- GEN_FLOOR (R138): the speed falls to FLOOR_RPM in GENERATOR. -/
  | genFloor
  /-- RESERVE_UPDATE (R140): a mechanical revolution ends, or 100 ms have passed. -/
  | reserveUpdate (revolution : Bool)
  /-- REF_EDGE (R126, R128): the reference edge that CT3 captured `agoNs` ago, `periodNs` after the last, the input having been high for `highNs`. -/
  | refEdge (periodNs highNs agoNs : Nat)
  /-- REF_LOST (R126): no reference edge for the allowed time. -/
  | refLost
  /-- CHOP_ENGAGE (R133): the bus stands at `busMv`, above V_CHOP_ON. -/
  | chopEngage (busMv : Nat)
  /-- CHOP_RELEASE (R133): the bus stands at `busMv`, below V_CHOP_ON less the hysteresis. -/
  | chopRelease (busMv : Nat)
  /-- CHOP_FAULT (R133): the sensed chopper current 5 µs after engagement and the bus 50 µs after it. -/
  | chopFault (chopMa busMv : Nat)
  /-- V_CRIT_TRIP (R135): the bus stands at `busMv`, above V_CRIT. -/
  | vCritTrip (busMv : Nat)
  /-- CLEAR_TRIP (R135): a write of DRV.BRIDGE_CTRL with CLEAR_TRIP 1. -/
  | clearTrip (req : Requester) (v : Word)
  /-- THRESH_WRITE (R136): a write of critical word 7, 8 or 9 through the view at `addr`. -/
  | threshWrite (req : Requester) (addr : BitVec 40) (v : Word)
  /-- PRE_FW_READ (R151): a write of FW_CMD with GO 1 and READ 1. -/
  | preFwRead (req : Requester) (port : Nat) (v : Word)
  /-- PRE_FW_WRITE (R151): a write of FW_CMD with GO 1 and READ 0. -/
  | preFwWrite (req : Requester) (port : Nat) (v : Word)
  /-- SERIAL_FRAME_DONE (R149, R150): the frame in progress ends; the line brought the data of a read, and the CRC-8 after them or the
  acknowledgement of a write. -/
  | serialFrameDone (port : Nat) (data : BitVec 16) (last : BitVec 8)
  /-- PFAULT_ASSERT (R160): PFAULT_N falls; FAULT_STATUS reads `status`. -/
  | pfaultAssert (port : Nat) (status : BitVec 16)
  /-- PFAULT_SETTLE (R160): the watch ends: PFAULT_N was released within 10 µs and stayed high for 1 ms, or not, and FAULT_STATUS then holds `status`. -/
  | pfaultSettle (port : Nat) (released : Bool) (status : BitVec 16)
  /-- FAULT_STATUS_POLL (R154): the 1 ms read of FAULT_STATUS while the hold is released. -/
  | faultStatusPoll (port : Nat) (status : BitVec 16)
  /-- DISCOVER (R157): a write of HDA.CMD. -/
  | discover (req : Requester) (v : Word)
  /-- DISCOVERY_DONE (R157): the probes of the ports end with these replies. -/
  | discoveryDone (replies : List ProbeReply)
  /-- ACTUATOR_RETIRE (R159): a write of critical word 3 through the view at `addr`. -/
  | actuatorRetire (req : Requester) (addr : BitVec 40) (v : Word)
  /-- TEMP_UPDATE (R162): the 1 ms readings of the two diodes, 0.1 °C. -/
  | tempUpdate (d0 d1 : Int)
  /-- TLI_UPDATE (R163): the 1 ms update; `lowNs` is the time that write gates stood low within sectors
  being written (over the wedges a sector straddles) in the last 100 ms. -/
  | tliUpdate (lowNs : Nat)
  /-- CAL_LOAD (R165): a write of CAL.CMD with LOAD 1. -/
  | calLoad (req : Requester) (v : Word)
  /-- CAL_LOAD_DONE (R165): the load ends; the records of these indices were disturbed in their first fetch. -/
  | calLoadDone (firstBad : List Nat)
  /-- ENVELOPE_CHECK (R166): the check of the record that the track job of Oar `oar` uses. -/
  | envelopeCheck (oar : Nat)
  /-- WEDGE_DEMOD (R230, R231): a wedge passes under slot `k` of actuator `a`: its address mark, the wedge number, the Gray track
  identifier and the null bursts. -/
  | wedgeDemod (a k : Nat) (mark : WedgeMark) (wedge gray : Nat) (bursts : NullBursts)
  /-- WEDGE_SAMPLE (R172): the wedge sample instant W_n of Rudder `a`. -/
  | wedgeSample (a : Nat) (w : WedgeIn)
  /-- SUBSAMPLE (R172): the end of a sub-sample of Rudder `a`. -/
  | subsample (a : Nat) (w : SubIn)
  /-- SS_FAULT (R179): the self-sensing residual of slot `k` has been beyond range for 16 sub-samples. -/
  | ssFault (a k : Nat)
  /-- TIMING_FAIL (R173): eight consecutive W_n of Rudder `a` were missed. -/
  | timingFail (a : Nat)
  /-- POSITION_LOST (R181): no used slot has had a valid wedge for POS_LOST_N intervals. -/
  | positionLost (a : Nat)
  /-- REACQUIRE_DONE (R181): four consistent valid wedges have arrived. -/
  | reacquireDone (a : Nat)
  /-- REACQUIRE_TIMEOUT (R181): 64 intervals have passed. -/
  | reacquireTimeout (a : Nat)
  /-- RUDDER_GROUP (R182): Gate hands Rudder `a` the group it has formed. -/
  | rudderGroup (a : Nat)
  /-- ON_TRACK (R185): slot `k` has been within SETTLE_WIN for SETTLE_N wedges. -/
  | onTrack (a k : Nat)
  /-- SEEK_FAIL (R186): SEEK_TIMEOUT_MS have passed. -/
  | seekFail (a : Nat)
  /-- WF_CLEAR (R187): WF_QUAL clean sample ends have passed on slot `k`. -/
  | wfClear (a k : Nat)
  /-- PES_WINDOW (R189): a PES window ends. -/
  | pesWindow (a : Nat)
  /-- COUPLE_WORD (R191, R193): a coupling word of `sender` reaches Rudder `a`; the parity of the bytes of its head (number and index), of its
  coil command and of its milliactuator command holds or not. -/
  | coupleWord (a sender : Nat) (headOk coilOk milliOk : Bool)
  /-- SNS_SAMPLE (R194): COUPLE samples input `n`. -/
  | snsSample (n : Nat) (sample : BitVec 14)
  /-- SHOCK_HOLD_END (R194): SHOCK_HOLD_US have passed since the last shock sample. -/
  | shockHoldEnd
  /-- SENSOR_FAULT (R196): input `n` has been stuck for 10 ms. -/
  | sensorFault (n : Nat)
  /-- RUDDER_LOAD (R199): a write of RUDDERa.CMD with code 1. -/
  | rudderLoad (req : Requester) (a : Nat) (v : Word)
  /-- LOAD_TIMEOUT (R199): LOAD_TIMEOUT_MS have passed. -/
  | loadTimeout (a : Nat)
  /-- RUDDER_UNLOAD (R198): a write of RUDDERa.CMD with code 2. -/
  | rudderUnload (req : Requester) (a : Nat) (v : Word)
  /-- RUDDER_RETRACT (R201): a write of RUDDERa.CMD with code 3. -/
  | rudderRetract (req : Requester) (a : Nat) (v : Word)
  /-- RUDDER_CLEAR (R198): a write of RUDDERa.CMD with code 4. -/
  | rudderClear (req : Requester) (a : Nat) (v : Word)
  /-- RUDDER_CMD_UNLISTED (R198): a write of RUDDERa.CMD with another code. -/
  | rudderCmdUnlisted (req : Requester) (a : Nat) (v : Word)
  /-- PARK_DETECT (R200): for `heldUs` µs the rigger die has measured the coil so. -/
  | parkDetect (a : Nat) (coil : CoilSense) (heldUs : Nat)
  /-- RETRACT_TIMEOUT (R201): 300 ms have passed since the retract or unload started. -/
  | retractTimeout (a : Nat)
  /-- RETRACT_CURRENT_END (R201): the 100 ms of retract current have passed. -/
  | retractCurrentEnd (a : Nat)
  /-- COEF_LOAD (R203): a write of COEF_CTRL with LOAD 1. -/
  | coefLoad (req : Requester) (a : Nat) (v : Word)
  /-- COEF_LOAD_DONE (R203): the fetch ends; its first pass was disturbed. -/
  | coefLoadDone (a : Nat) (firstBad : Bool)
  /-- COEF_SWITCH (R203): a write of COEF_CTRL with SWITCH 1. -/
  | coefSwitch (req : Requester) (a : Nat) (v : Word)
  /-- COEF_SWITCHED (R203): the switch takes effect; the bank's parity fails twice. -/
  | coefSwitched (a : Nat) (parityBad : Bool)
  /-- TUNE_MODE (R209): a write of TR_CTRL with a MODE. -/
  | tuneMode (req : Requester) (page : Nat) (v : Word)
  /-- TUNE_GO (R220): a write of TR_CTRL with GO 1. -/
  | tuneGo (req : Requester) (page : Nat) (v : Word)
  /-- TUNE_STOP (R216): a write of TR_CTRL with STOP 1. -/
  | tuneStop (req : Requester) (page : Nat) (v : Word)
  /-- TUNE_FORCE (R215): a write of TR_CTRL with FORCE 1. -/
  | tuneForce (req : Requester) (page : Nat) (v : Word)
  /-- TRACE_DONE (R216): the records after the trigger are complete. -/
  | traceDone (page : Nat)
  /-- SINE_POINT_END (R221): the measurement cycles of `point` end. -/
  | sinePointEnd (page point : Nat)
  /-- INJECTION_END (R221): INJ_TIME has passed or the buffer is full. -/
  | injectionEnd (page : Nat)
  /-- SECTOR_READ (R232): the sector of an entry, to be read, passes under the head of Oar `oar`. -/
  | sectorRead (oar entry : Nat) (x : ReadPass)
  /-- SECTOR_WRITE (R246): the sector of an entry, to be written, comes under the head; in a servo job `entry` is the wedge. -/
  | sectorWrite (oar entry : Nat)
  /-- ZONE_TABLE_LOAD (R252): a write of ZT_CTRL with LOAD 1. -/
  | zoneTableLoad (req : Requester) (oar : Nat) (v : Word)
  /-- ZONE_TABLE_DONE (R252): the fetch of the zone table ends; the first fetch was disturbed or not. -/
  | zoneTableDone (oar : Nat) (firstBad : Bool)
  /-- LANE_DISPATCH (R271): a free lane takes work, whose slot loads with good or bad parity. -/
  | laneDispatch (lane : Nat) (parityBad : Bool)
  /-- DECODE_END (R266): the first pass of a lane ends. -/
  | decodeEnd (lane : Nat) (r : DecodeEnd)
  /-- SLICE_END (R271): the slice of a lane ends. -/
  | sliceEnd (lane : Nat) (r : DecodeEnd)
  /-- REEQUALISE (R277): re-equalised input `input` (0 to 3) of the slot arrives. -/
  | reequalise (slot input : Nat)
  /-- LADDER_TIMEOUT (R278): RECOV_LIMIT has passed since the slot's sector entered the ladder. -/
  | ladderTimeout (slot : Nat)
  /-- LANE_EN_WRITE (R282): a write of LANE_EN. -/
  | laneEnWrite (req : Requester) (v : Word)
  /-- RUN_ADMIT (R437): Gate `a` takes the run at the read side of its admission queue. -/
  | runAdmit (a : Nat)
  /-- GATE_PICK (R439): slot `k` of actuator `a` is free for a track job. -/
  | gatePick (a k : Nat)
  /-- RUN_AGE (R439): a run of Gate `a` has waited AGE_MS at its level. -/
  | runAge (a : Nat)
  /-- TRACK_JOB_START (R290): the Oar takes the track job at the read side of its queue. -/
  | trackJobStart (oar : Nat)
  /-- LANDING_ACK (R293): Boathouse acknowledges the landing of an entry. -/
  | landingAck (oar entry : Nat)
  /-- TRACK_JOB_END (R291): no sector of the track job remains to be taken. -/
  | trackJobEnd (oar : Nat)
  /-- RUN_END (R442): every sector job of a run of Gate `a` has ended. -/
  | runEnd (a : Nat)
  /-- RELOC_TABLE_LOAD (R297): a write of RT_CTRL with LOAD 1. -/
  | relocTableLoad (req : Requester) (oar : Nat) (v : Word)
  /-- RELOC_TABLE_DONE (R297): the fetch of the relocation table ends; the first fetch was disturbed or not. -/
  | relocTableDone (oar : Nat) (firstBad : Bool)
  /-- RT_ADD (R298): a write of RT_ADD3. -/
  | rtAdd (req : Requester) (oar : Nat) (v : Word)
  /-- SW_ARM_WRITE (R301): a write of SW_CTRL. -/
  | swArmWrite (req : Requester) (oar : Nat) (v : Word)
  /-- UCODE_WORD_WRITE (R311): a write of UC_DATA3. -/
  | ucodeWordWrite (req : Requester) (v : Word)
  /-- UCODE_COMMIT (R308): a write of UC_CTRL with COMMIT 1. -/
  | ucodeCommit (req : Requester) (v : Word)
  /-- UCODE_RESTORE_DONE (R307): the restore of the engine with requester code `code` ends. -/
  | ucodeRestoreDone (code : Nat) (parity : MasterParity)
  /-- DRAM_INIT (R315): a write of DRAM_CMD with INIT 1; `r` is what the initialisation meets. -/
  | dramInit (req : Requester) (port : Nat) (v : Word) (r : TrainResult)
  /-- INIT_DONE (R315): the port's zero fill ends. -/
  | initDone (port : Nat)
  /-- SR_ENTER (R319): a write of DRAM_CMD with SR_ENTER 1. -/
  | srEnter (req : Requester) (port : Nat) (v : Word)
  /-- SELF_REFRESH (R319): the wanted entry or exit takes effect. -/
  | selfRefresh (port : Nat)
  /-- SR_EXIT (R319): a write of DRAM_CMD with SR_EXIT 1. -/
  | srExit (req : Requester) (port : Nat) (v : Word)
  /-- MR4_POLL (R318): MR4 of the port's dies reports `rate`, or a die above its range. -/
  | mr4Poll (port : Nat) (rate : Nat) (overTemp : Bool)
  /-- XACT_READ (R323): the engine serving queue `q` carries out the READ it takes next. -/
  | xactRead (q : Fin 2) (noise : DramNoise)
  /-- XACT_WRITE (R323): likewise a WRITE of the requester's beats. -/
  | xactWrite (q : Fin 2) (beats : List Beat)
  /-- XACT_COPY (R323): likewise a COPY. -/
  | xactCopy (q : Fin 2) (noise : DramNoise)
  /-- XACT_FILL (R323): likewise a FILL. -/
  | xactFill (q : Fin 2)
  /-- XACT_MERGE (R325): likewise a MERGE of the requester's beat. -/
  | xactMerge (q : Fin 2) (beat : Beat) (noise : DramNoise)
  /-- XACT_DONE (R323): the transaction of the producer `port` with this TAG completes. -/
  | xactDone (port : Nat) (tag : Nat)
  /-- DIRTY_RESERVE (R327): Slipway asks for `granules` for a host task. -/
  | dirtyReserve (task : Nat) (granules : Nat)
  /-- DIRTY_GRANT (R327): the longest-waiting reservation is looked at again. -/
  | dirtyGrant
  /-- DIRTY_ADJ_RESERVE (R328): a write of DIRTY_ADJ with RELEASE 0. -/
  | dirtyAdjReserve (req : Requester) (v : Word)
  /-- DIRTY_ADJ_RELEASE (R328): a write of DIRTY_ADJ with RELEASE 1. -/
  | dirtyAdjRelease (req : Requester) (v : Word)
  /-- DIRTY_LIMIT_WRITE (R329): a write of critical word 21 through the view at `addr`. -/
  | dirtyLimitWrite (req : Requester) (addr : BitVec 40) (v : Word)
  /-- WB_REQUEST_WRITE (R469): a write of critical word 22 through the view at `addr`. -/
  | wbRequestWrite (req : Requester) (addr : BitVec 40) (v : Word)
  /-- WB_ACTIVATE (R469): the conditions of write-back have held for QUAL_MS. -/
  | wbActivate
  /-- CACHE_ACCESS (R331): a load or store of `req` in the DRAM window; `parity` is what its line's parity shows. -/
  | cacheAccess (req : Requester) (write : Bool) (addr : BitVec 40) (width : AccessWidth) (v : BitVec 64) (parity : CacheParity) (noise : DramNoise)
  /-- LOCK_MASK_WRITE (R335): a write of LOCK_MASK. -/
  | lockMaskWrite (req : Requester) (v : Word)
  /-- RANGE_CLEAN (R336): a write of RANGE_CTRL with GO 1 and OP 1. -/
  | rangeClean (req : Requester) (v : Word)
  /-- RANGE_INVALIDATE (R336): a write of RANGE_CTRL with GO 1 and OP 2. -/
  | rangeInvalidate (req : Requester) (v : Word)
  /-- RANGE_CLEAN_INVALIDATE (R336): a write of RANGE_CTRL with GO 1 and OP 3. -/
  | rangeCleanInvalidate (req : Requester) (v : Word)
  /-- RANGE_ZERO (R336): a write of RANGE_CTRL with GO 1 and OP 4. -/
  | rangeZero (req : Requester) (v : Word)
  /-- RANGE_LOCK_FILL (R336): a write of RANGE_CTRL with GO 1 and OP 5. -/
  | rangeLockFill (req : Requester) (v : Word)
  /-- RANGE_STOP (R338): a write of RANGE_CTRL with STOP 1. -/
  | rangeStop (req : Requester) (v : Word)
  /-- RANGE_DONE (R338): the write-backs of the operation are acknowledged; or a dirty line's parity failed. -/
  | rangeDone (parity : RangeParity)
  /-- SCRUB_STEP (R340): the next group's port has had no other request for `quiet100ns` × 100 ns. -/
  | scrubStep (quiet100ns : Nat) (noise : DramNoise)
  /-- SCRUB_LOG_CLEAR (R350): a write of LOG_CTRL. -/
  | scrubLogClear (req : Requester) (v : Word)
  /-- BAND_ENABLE (R355): a write of BAND_CMD with OP 1. -/
  | bandEnable (req : Requester) (v : Word)
  /-- BAND_DISABLE (R385): a write of BAND_CMD with OP 2. -/
  | bandDisable (req : Requester) (v : Word)
  /-- BAND_DISABLE_DONE (R385): no job of a closing band remains. -/
  | bandDisableDone (band : Nat)
  /-- BAND_START (R376): a write of BAND_CMD with OP 3. -/
  | bandStart (req : Requester) (v : Word)
  /-- BAND_PAUSE (R388): a write of BAND_CMD with OP 4. -/
  | bandPause (req : Requester) (v : Word)
  /-- BAND_RESYNC (R374): a write of BAND_CMD with OP 5. -/
  | bandResync (req : Requester) (v : Word)
  /-- BAND_RESHAPE (R382): a write of BAND_CMD with OP 6. -/
  | bandReshape (req : Requester) (v : Word)
  /-- BAND_COMMIT (R384): a write of BAND_CMD with OP 7. -/
  | bandCommit (req : Requester) (v : Word)
  /-- STRIPE_WRITE (R364): a Crew engine goes on with its WRITE jobs and takes the next. -/
  | stripeWrite (engine : Nat)
  /-- STRIPE_READ (R375): a Crew engine goes on with its READ jobs and takes the next. -/
  | stripeRead (engine : Nat)
  /-- STRIPE_REPAIR (R366): a Crew engine goes on with its REPAIR jobs and takes the next. -/
  | stripeRepair (engine : Nat)
  /-- STRIPE_DONE (R362): the stripe job with this credit index has done all its rows. -/
  | stripeDone (job : Nat)
  /-- JOURNAL_SECTOR_WRITE (R368): a Crew engine looks whether a journal sector is due. -/
  | journalSectorWrite (engine : Nat)
  /-- JOURNAL_WRITTEN (R364): both runs of the journal sector have ended. -/
  | journalWritten
  /-- JRNL_START (R371): a write of JRNL.CMD with START 1. -/
  | jrnlStart (req : Requester) (v : Word)
  /-- JRNL_CLOSE (R371): a write of JRNL.CMD with CLOSE 1. -/
  | jrnlClose (req : Requester) (v : Word)
  /-- JRNL_CLOSED (R371): no record is open and no journal sector is being written. -/
  | jrnlClosed
  /-- JRNL_REPLAY (R372): a write of JRNL.CMD with REPLAY 1. -/
  | jrnlReplay (req : Requester) (v : Word)
  /-- REPLAY_DONE (R372): replay proceeds, and ends once nothing of it is left. -/
  | replayDone
  /-- MEMBER_FAIL_WRITE (R388): a write of critical word 4 through the view at `addr`. -/
  | memberFailWrite (req : Requester) (addr : BitVec 40) (v : Word)
  /-- REBUILD_STEP (R376): a Crew engine goes on with the rebuild into a spare slot of a band. -/
  | rebuildStep (engine band slot : Nat)
  /-- RESYNC_STEP (R374): a Crew engine goes on with the resynchronisation of a band. -/
  | resyncStep (engine band : Nat)
  /-- PATROL_STEP (R379): a Crew engine goes on with the patrol. -/
  | patrolStep (engine : Nat)
  /-- RESHAPE_STEP (R382): a Crew engine goes on with the reshape. -/
  | reshapeStep (engine : Nat)
  /-- RESHAPE_SWITCH (R383): the copy is done and no work of the band is in flight. -/
  | reshapeSwitch
  /-- LOSS_OF_SYNC (R394): A lane loses dword synchronisation and runs a link reset. -/
  | lossOfSync (lane : Nat)
  /-- LINK_RESET_REQUEST (R423): A write of LINK_CFG.RESET starts a link reset. -/
  | linkResetRequest (req : Requester) (lane : Nat) (v : Word)
  /-- LINK_UP (R393): Speed negotiation completes and the lane comes up. -/
  | linkUp (lane rate : Nat) (addr : BitVec 64)
  /-- LINK_RESET_TIMEOUT (R394): The lane is not up within 500 ms and stays down. -/
  | linkResetTimeout (lane : Nat)
  /-- CODEWORD_UNCORRECTABLE (R393): An uncorrectable FEC codeword or a CRC error NAKs the frame and is counted. -/
  | codewordUncorrectable (lane corrected uncorrectable : Nat) (frame : Bool)
  /-- FRAME_ACK (R394): An ACK for a frame Slipway sent is received. -/
  | frameAck (lane : Nat)
  /-- FRAME_NAK (R394): A NAK is received and the frame is sent once more or the task ends. -/
  | frameNak (lane : Nat)
  /-- ACK_NAK_TIMEOUT (R394): No ACK or NAK arrives in time and the frame is sent once more or the task ends. -/
  | ackNakTimeout (lane : Nat)
  /-- OPEN_CONNECTION (R398): An initiator opens a connection and a nexus entry is found, created or refused. -/
  | openConnection (lane : Nat) (addr : BitVec 64)
  /-- HARD_RESET (R399): A hard reset ends every nexus of the port and sets unit attention. -/
  | hardReset (lane : Nat)
  /-- NEXUS_LOSS (R399): OPENs to an initiator fail for LOSS_MS and its nexus ends. -/
  | nexusLoss (n : Nat)
  /-- POWER_STATE_REQUEST (R395): A host request for partial or slumber is accepted or refused. -/
  | powerStateRequest (lane state : Nat)
  /-- POWER_DISABLE (R396): POWER_DISABLE has been high for `highUs` µs. -/
  | powerDisable (highUs : Nat)
  /-- COMMAND_FRAME (R400): A COMMAND frame is checked, takes a host-task credit and enters the intake queue. -/
  | commandFrame (lane n : Nat) (f : CommandFrame)
  /-- FAST_PATH_DECODE (R404): The fast path decodes a command, completes it, serves it or hands it to firmware. -/
  | fastPathDecode (lutBad : Bool) (haz : Option (Nat × Bool))
  /-- HOST_BUFFER_ALLOC (R406): A waiting command's buffer now fits and is allocated. -/
  | hostBufferAlloc
  /-- XFER_RDY (R407): Slipway sends an XFER_RDY for the next burst of a write. -/
  | xferRdy (task : Nat)
  /-- DATA_FRAME (R408): A received DATA frame is landed in whole granules, or discarded. -/
  | dataFrame (lane n tag offset : Nat) (data : List (BitVec 8))
  /-- SEND_DATA (R409): Slipway sends a DATA frame once its granules have landed and passed checks. -/
  | sendData (task : Nat)
  /-- SEND_RESPONSE (R410): Slipway sends a RESPONSE frame, committing the task, unless it is aborted. -/
  | sendResponse (task : Nat)
  /-- ABORT_TASK (R411): ABORT TASK ends the named task. -/
  | abortTask (lane n : Nat) (f : TaskMgmtFrame)
  /-- ABORT_TASK_SET (R411): ABORT TASK SET ends this nexus's tasks on the LU. -/
  | abortTaskSet (lane n : Nat) (f : TaskMgmtFrame)
  /-- CLEAR_TASK_SET (R411): CLEAR TASK SET ends every nexus's tasks on the LU. -/
  | clearTaskSet (lane n : Nat) (f : TaskMgmtFrame)
  /-- LOGICAL_UNIT_RESET (R411): LOGICAL UNIT RESET ends every task on the LU and sets unit attention. -/
  | logicalUnitReset (lane n : Nat) (f : TaskMgmtFrame)
  /-- I_T_NEXUS_RESET (R411): I_T NEXUS RESET ends this nexus's tasks on every LU. -/
  | iTNexusReset (lane n : Nat) (f : TaskMgmtFrame)
  /-- QUERY_TASK (R411): QUERY TASK reports whether the named task is held and uncommitted. -/
  | queryTask (lane n : Nat) (f : TaskMgmtFrame)
  /-- QUERY_TASK_SET (R411): QUERY TASK SET reports whether the nexus holds an uncommitted task on the LU. -/
  | queryTaskSet (lane n : Nat) (f : TaskMgmtFrame)
  /-- QUERY_ASYNCHRONOUS_EVENT (R411): QUERY ASYNCHRONOUS EVENT reports the unit-attention bit. -/
  | queryAsynchronousEvent (lane n : Nat) (f : TaskMgmtFrame)
  /-- TM_FUNCTION_NOT_SUPPORTED (R411): Any other task management function is answered FUNCTION NOT SUPPORTED. -/
  | tmFunctionNotSupported (lane n code : Nat) (f : TaskMgmtFrame)
  /-- SVC_DATA_IN (R416): Firmware's DATA_IN sends data from DRAM to the host. -/
  | svcDataIn (req : Requester) (core : Nat) (v : Word)
  /-- SVC_DATA_OUT (R416): Firmware's DATA_OUT requests and lands write data. -/
  | svcDataOut (req : Requester) (core : Nat) (v : Word)
  /-- SVC_RESPOND (R416): Firmware's RESPOND sends a task's RESPONSE. -/
  | svcRespond (req : Requester) (core : Nat) (v : Word)
  /-- SVC_DONE (R416): A service operation ends with its outcome. -/
  | svcDone (core : Nat)
  /-- UA_CTRL (R403): A write of UA_CTRL sets or clears unit-attention bits. -/
  | uaCtrl (req : Requester) (v : Word)
  /-- LU_CREATE (R417): LUT CREATE fetches and checks an LU entry and enables the LU. -/
  | luCreate (req : Requester) (v : Word)
  /-- LU_DELETE (R420): LUT DELETE marks the LU deleting. -/
  | luDelete (req : Requester) (v : Word)
  /-- LU_DELETE_DONE (R420): No task remains for the deleting LU and it becomes free. -/
  | luDeleteDone (n : Nat)
  /-- LU_UPDATE (R420): LUT UPDATE reloads an enabled LU entry with permitted changes. -/
  | luUpdate (req : Requester) (v : Word)
  /-- PROGRESS_CHECK (R449): Slipway checks held tasks against PROGRESS_LIMIT at least every 10 ms. -/
  | progressCheck
  /-- HAZ_ENTER (R436): Firmware's ENTER makes a hazard entry that is entered, waiting or refused. -/
  | hazEnter (req : Requester) (v : Word)
  /-- HAZ_RELEASE (R432): Firmware's RELEASE frees a hazard entry. -/
  | hazRelease (req : Requester) (v : Word)
  /-- FW_READY (R436): Every earlier overlapping entry is released and a waiting firmware entry becomes ready. -/
  | fwReady
  /-- RESERVE_WRITE (R446): A write of SYS.RES_* sets class reservations, or is refused. -/
  | reserveWrite (req : Requester) (reg : Nat) (v : Word)
  /-- MODE_TARGET_WRITE (R456): a write of critical word 1 through the view at `addr`. -/
  | modeTargetWrite (req : Requester) (addr : BitVec 40) (v : Word)
  /-- IDLE_TIMER (R460): the power manager looks at the idle timers. -/
  | idleTimer
  /-- LEVEL_ENTERED (R461): the power manager goes on with the entry of a level, as far as its steps can be taken. -/
  | levelEntered
  /-- LEVEL_EXIT (R462): the power manager acts on an exit trigger. -/
  | levelExit
  /-- LEVEL_EXIT_DONE (R462): the power manager goes on with the exit of a level, as far as its steps can be taken; `chopMa` is the current of the chopper self-test, where Keel starts. -/
  | levelExitDone (chopMa : Nat)
  /-- DOMAIN_SWITCH_ON (R459): a write of DOMAIN_REQ with OFF 0. -/
  | domainSwitchOn (req : Requester) (v : Word)
  /-- DOMAIN_SWITCH_OFF (R459): a write of DOMAIN_REQ with OFF 1. -/
  | domainSwitchOff (req : Requester) (v : Word)
  /-- DOMAIN_FAULT (R484): the domain is not on 20 µs after its switch-on. -/
  | domainFault (domain : Nat)
  /-- SAFE_ENTER (R480): the oldest cause of SAFE reaches the power manager. -/
  | safeEnter
  /-- SAFE_SCAN (R470): a write of SAFE.CMD with SCAN; `chip` is what the parameter page says, none where no NAND answers, and `health` how the test ends. -/
  | safeScan (req : Requester) (v : Word) (chip : Option NandChip) (health : HealthEnd)
  /-- SAFE_PREPARE (R471): a write of SAFE.CMD with PREPARE. -/
  | safePrepare (req : Requester) (v : Word)
  /-- SAFE_RESTORE (R479): a write of SAFE.CMD with RESTORE. -/
  | safeRestore (req : Requester) (v : Word)
  /-- RESTORE_DONE (R479): the restore ends; the pages with these indices in the stream were uncorrectable. -/
  | restoreDone (badPages : List Nat)
  /-- SAFE_REWRITE_CUT (R479): a write of SAFE.CMD with REWRITE_CUT. -/
  | safeRewriteCut (req : Requester) (v : Word)
  /-- CUT_REWRITTEN (R479): the restored in-flight sectors have been written. -/
  | cutRewritten
  /-- SAFE_RELEASE (R477): a write of SAFE.CMD with RELEASE. -/
  | safeRelease (req : Requester) (v : Word)
  /-- HEALTH_TEST (R471): a write of SAFE.CMD with HEALTH, and how the test ends. -/
  | healthTest (req : Requester) (v : Word) (health : HealthEnd)
  /-- HEALTH_PERIOD (R471): PERIOD_MIN minutes have passed since the last test, and how the next one ends. -/
  | healthPeriod (health : HealthEnd)
  /-- SAFE_CMD_UNLISTED (R485): a write of SAFE.CMD with another code. -/
  | safeCmdUnlisted (req : Requester) (v : Word)
  /-- KEY_LOAD (R497): a write of KEYS.CMD with operation 1. -/
  | keyLoad (req : Requester) (v : Word)
  /-- KEY_CLEAR (R500): a write of KEYS.CMD with operation 2. -/
  | keyClear (req : Requester) (v : Word)
  /-- KEY_WRAP (R499): a write of KEYS.CMD with operation 3. -/
  | keyWrap (req : Requester) (v : Word)
  /-- KEY_ERASE (R498): a write of KEYS.CMD with operation 4. -/
  | keyErase (req : Requester) (v : Word)
  /-- IMAGE_VERIFY (R493): a write of KEYS.CMD with operation 5. -/
  | imageVerify (req : Requester) (v : Word)
  /-- PATCH_LOAD (R494): a write of KEYS.CMD with operation 6. -/
  | patchLoad (req : Requester) (v : Word)
  /-- MEASURE (R495): a write of KEYS.CMD with operation 7. -/
  | measure (req : Requester) (v : Word)
  /-- ATTEST (R496): a write of KEYS.CMD with operation 8. -/
  | attest (req : Requester) (v : Word)
  /-- DEBUG_UNLOCK (R501): a write of KEYS.CMD with operation 9. -/
  | debugUnlock (req : Requester) (v : Word)
  /-- ROLLBACK_SET (R503): a write of KEYS.CMD with operation 10. -/
  | rollbackSet (req : Requester) (v : Word)
  /-- OTP_WRITE (R488): a write of KEYS.CMD with operation 11. -/
  | otpWrite (req : Requester) (v : Word)
  /-- GEN_ID (R496): a write of KEYS.CMD with operation 12. -/
  | genId (req : Requester) (v : Word)
  /-- CHALLENGE (R503): a write of KEYS.CMD with operation 13. -/
  | challenge (req : Requester) (v : Word)
  /-- KEYS_CMD_UNLISTED (R503): a write of KEYS.CMD with another operation code. -/
  | keysCmdUnlisted (req : Requester) (v : Word)
  /-- KEYS_OP_DONE (R503): the key store's operation completes. -/
  | keysOpDone
  /-- STROKE_RELEASE (R505): a write of COX.STROKE_CTRL. -/
  | strokeRelease (req : Requester) (v : Word)
  /-- UMPIRE_RECORD (R511): Umpire takes the message at the head of its FIFO. -/
  | umpireRecord
  /-- FREEZE (R516): a write of UMP_CTRL with FREEZE 1. -/
  | freeze (req : Requester) (v : Word)
  /-- UNFREEZE (R516): a write of UMP_CTRL with FREEZE 0. -/
  | unfreeze (req : Requester) (v : Word)
  /-- FREEZE_TIMEOUT (R516): FREEZE has been 1 for FREEZE_MAX ms. -/
  | freezeTimeout
  /-- UMPIRE_CLEAR (R517): a write of UMP_CTRL with CLEAR 1. -/
  | umpireClear (req : Requester) (v : Word)
  /-- UMPIRE_COPY (R518): a write of UMP_CTRL with COPY 1. -/
  | umpireCopy (req : Requester) (v : Word)
  /-- COPY_DONE (R518): the last transaction of the copy has completed. -/
  | copyDone
  /-- UMPIRE_WINDOW_READ (R515): a read of WINn; the SRAM's parity fails, and fails again on the re-read. -/
  | umpireWindowRead (req : Requester) (n : Nat) (parityBad rereadBad : Bool)
  /-- CHAL_REQ (R525): a write of CERT_CTRL with CHAL_REQ 1. -/
  | chalReq (req : Requester) (v : Word)
  /-- CERT_SUBMIT (R525): a write of CERT_CTRL with SUBMIT 1. -/
  | certSubmit (req : Requester) (v : Word)
  /-- ENGINE_HALT (R527): a write of ENG_CTRL with HALT 1. -/
  | engineHalt (req : Requester) (v : Word)
  /-- HALTED (R526): the engine with this requester code reaches its boundary at `pc`. -/
  | halted (engine : Nat) (pc : Nat)
  /-- ENGINE_RESUME (R526): a write of ENG_CTRL with RESUME 1. -/
  | engineResume (req : Requester) (v : Word)
  /-- ENGINE_STEP (R526): a write of ENG_CTRL with STEP 1, after which the engine stands at `pc`. -/
  | engineStep (req : Requester) (v : Word) (pc : Nat)
  /-- BREAKPOINT (R528): the engine is about to execute the instruction or microword at `pc`. -/
  | breakpoint (engine : Nat) (pc : Nat)
  /-- REG_DATA_ACCESS (R529): a read or write of REG_DATA_LO or REG_DATA_HI. -/
  | regDataAccess (req : Requester) (write : Bool) (high : Bool) (v : Word)
  /-- MEM_READ (R529): a write of MEM_CTRL with READ 1. -/
  | memRead (req : Requester) (v : Word) (o : Outside)
  /-- MEM_WRITE (R529): a write of MEM_CTRL with WRITE 1. -/
  | memWrite (req : Requester) (v : Word) (o : Outside)
  /-- IDCODE (R523): the TAP instruction IDCODE. -/
  | idcode (port : TapPort)
  /-- BYPASS (R523): `bits` pass through the bypass bit. -/
  | bypass (port : TapPort) (bits : List Bool)
  /-- SAMPLE_PRELOAD (R524): the chain captures the balls and is loaded. -/
  | samplePreload (port : TapPort) (capture : List Bool) (load : List Bool)
  /-- EXTEST (R524): the TAP instruction EXTEST. -/
  | extest (port : TapPort)
  /-- DBG_ACCESS (R523): a 32-bit register-page access of the debug port. -/
  | dbgAccess (port : TapPort) (write : Bool) (addr : BitVec 40) (v : Word) (o : Outside)
  /-- ATB_SELECT (R535): a write of ATB0_SEL (false) or ATB1_SEL (true). -/
  | atbSelect (req : Requester) (bus : Bool) (v : Word)
  /-- SMBUS_PART (R547): SMBus command 0x00. -/
  | smbusPart
  /-- SMBUS_MODE (R547): SMBus command 0x01. -/
  | smbusMode
  /-- SMBUS_DRIVE_TEMP (R547): SMBus command 0x02. -/
  | smbusDriveTemp
  /-- SMBUS_CORE_TEMP (R547): SMBus command 0x03; the core-die sensor reads `deciC`. -/
  | smbusCoreTemp (deciC : Int)
  /-- SMBUS_RIG_TEMP (R547): SMBus command 0x04. -/
  | smbusRigTemp
  /-- SMBUS_STATUS (R547): SMBus command 0x05. -/
  | smbusStatus
  /-- SMBUS_SERIAL (R547): SMBus command 0x06. -/
  | smbusSerial
  /-- SMBUS_NACK (R547): any other SMBus command, or a write. -/
  | smbusNack (command : BitVec 8) (write : Bool)
  /-- SMBUS_TIMEOUT (R547): SCL has been low for `lowMs` ms. -/
  | smbusTimeout (lowMs : Nat)
  /-- ACT_STRETCH_END (R397): ACT_STRETCH_MS after an assertion of ACTIVITY with no host task held, the ACTIVITY output deasserts. -/
  | actStretchEnd
  /-- REF_ANALOG_SAMPLE (R126): the 1 kHz sample of SPDL_REF, 4,095 for 1.8 V. -/
  | refAnalogSample (sample : BitVec 12)
  /-- LUT_CMD_UNLISTED (R427): A write of LUT.CMD with an OP other than CREATE, DELETE or UPDATE is refused with code 4. -/
  | lutCmdUnlisted (req : Requester) (v : Word)
  /-- BAND_CMD_UNLISTED (R388): a write of BAND_CMD with another OP. -/
  | bandCmdUnlisted (req : Requester) (v : Word)
  /-- HAZ_FW_CMD_UNLISTED (R453): A write of HAZ.FW_CMD with an OP other than ENTER or RELEASE is refused. -/
  | hazFwCmdUnlisted (req : Requester) (v : Word)
  /-- REFCLK_RETURN (R542): REFCLK edges return after a loss. -/
  | refclkReturn (boot : BootInputs)
  /-- RAIL_RETURN (R542): the rail that fell low returns within range. -/
  | railReturn (boot : BootInputs)
  /-- SAFE_PREPARE_DONE (R471): the erase of the released areas ends, the blocks in `worn` having failed; `health` is how the test ends. -/
  | safePrepareDone (worn : List Nat) (health : HealthEnd)
  /-- ADAPTER_ACTIVATION (R523): the IEEE 1149.7 adapter is activated. -/
  | adapterActivation (classT4 oscan1 : Bool)
  /-- ADAPTER_RESET (R523): the IEEE 1149.7 adapter is reset. -/
  | adapterReset
  deriving DecidableEq, Repr

end Sys2Proof
end

