-- ==== Sys2Proof/Config.lean ====
section
/-! DEFINITION. What an implementation fixes and the free values: results the spec leaves open, and the cryptographic functions
that the spec names by their standards. None has a body, so nothing can be proved of their values. -/

namespace Sys2Proof

/-- A free 32-bit value: the `n`-th value that the spec leaves open in a run (log entry 3). -/
opaque Config.freeWord : Nat → BitVec 32

/-- A free byte: byte `i` of the `n`-th sequence of bytes that the spec leaves open in a run (log entry 3). -/
opaque Config.freeByte : Nat → Nat → BitVec 8

/-- AES-256-XTS of one data unit: encrypt (true) or decrypt, the 64 key bytes, the 128-bit tweak, the data (R245; log entry 15). -/
opaque Config.xts : Bool → List Byte → Nat → List Byte → List Byte

/-- Size of the speed correction that steers a phase error of so many ns, parts per thousand million (R128; log entry 138). -/
opaque Config.phaseSteer : Nat → Nat

/-- The value of a float32 coefficient that is an infinity or no number (R202; log entry 146). -/
opaque Config.notFinite : BitVec 32 → Rat

/-- The estimator's input, of the coil command in mA and the milliactuator and third-stage commands in mV (R180; log entry 146). -/
opaque Config.estInput : Int → Int → Int → Rat

/-- The four-state estimate with which a head begins at a position in 1/4,096 track (R180; log entry 146). -/
opaque Config.estSeed : Int → List Rat

/-- Displacement of the milliactuator in tracks, of the stroke limit's word and the command in mV (R190, R202; log entry 146). -/
opaque Config.milliDisp : BitVec 32 → Int → Rat

/-- A bin's reference trajectory (R184): of the bin's words, the signed distance in 1/4,096 track and the time since the start in ns,
the distance still to go and the current in mA (log entry 146). -/
opaque Config.trajectory : List (BitVec 32) → Int → Nat → Int × Int

/-- Coil current in mA of the velocity control on back-EMF, of the velocity wanted and the one measured, in µm/s (R197, R200; log
entry 146). -/
opaque Config.velocityDrive : Int → Int → Int

/-- Distance of the heads from the pivot, in µm (R200; log entry 146). -/
opaque Config.headRadius : Nat

/-- Velocity measured with KE 0, of the back-EMF in µV (log entry 146). -/
opaque Config.velocityNoKe : Int → Int

/-- Third-stage command in mV for a displacement in 1/4,096 track where TS_GAIN is 0 (log entry 146). -/
opaque Config.thirdNoGain : Rat → Rat

/-- The data-aided ratio of two amplitudes that are both 0 (R177; log entry 146). -/
opaque Config.daNoAmplitude : Rat

/-- The fraction of a track in 1/4,096 where both null bursts have no amplitude (R230; log entry 151). -/
opaque Config.burstNone : Nat

/-- The two symbols of a bit in the bi-phase code of wedge and track numbers (R229; log entry 151). -/
opaque Config.biphase : Bool → Bool × Bool

/-- The ROM microword of a kind of engine at an address (R303, R304; log entry 152). -/
opaque Config.microRom : Nat → Nat → BitVec 128

/-- SHA-384 (R489; log entry 15). -/
opaque Config.sha384 : List Byte → List Byte

/-- ECDSA P-384: the signature over a digest holds under a key (R489; log entry 15). -/
opaque Config.ecdsaHolds : List Byte → List Byte → List Byte → Bool

/-- ECDSA P-384: the signature of a digest by a private key, with the n-th random value (R496; log entry 15). -/
opaque Config.ecdsaSign : List Byte → List Byte → Nat → List Byte

/-- The public key of a private key. -/
opaque Config.publicKey : List Byte → List Byte

/-- AES-256-GCM: the ciphertext and tag of a plaintext under key, IV and additional data (log entry 15). -/
opaque Config.gcmSeal : List Byte → List Byte → List Byte → List Byte → List Byte × List Byte

/-- AES-256-GCM: the plaintext when the tag holds. -/
opaque Config.gcmOpen : List Byte → List Byte → List Byte → List Byte → List Byte → Option (List Byte)

/-- KDF in counter mode with HMAC-SHA-384: secret, label and context (R494, R498; log entry 15). -/
opaque Config.kdf : List Byte → List Byte → List Byte → List Byte

/-- The key under which the payload of an encrypted container of a type other than 3 stands, from OTP_SECRET: the spec names no label
for it (log entry 29). -/
opaque Config.imageKey : List Byte → Nat → List Byte

/-- Bytes of the entropy source: `n` bytes at draw `k`. -/
opaque Config.entropy : Nat → Nat → List Byte

/-- The serial number of the device, written at wafer test (R487; log entry 23). -/
opaque Config.serial : Nat

/-- Grade L (R487; log entry 23). -/
opaque Config.gradeL : Bool

/-- VENDOR_KEY_HASH and VENDOR_DEBUG_HASH, written at wafer test (R487; log entry 23). -/
opaque Config.vendorKeyHash : List Byte

opaque Config.vendorDebugHash : List Byte

/-- The number by which OTP_WRITE and OTP_ERROR name each field of R487's table, in the order of the table (log entry 24). -/
opaque Config.otpFieldCode : Nat → Nat

/-- Felvajan's JEP106 identity (R523; log entry 25). -/
opaque Config.jep106 : BitVec 11

end Sys2Proof
end

