-- ==== Sys2Proof/Machine/Store.lean ====
section
/-! DEFINITION. Sparse maps in canonical form, and the bit-field arithmetic of register words. -/

namespace Sys2Proof

/-- The value at key `k`; a key that is not listed holds `d k`. -/
def SMap.get {α : Type} (d : Nat → α) : SMap α → Nat → α
  | [], k => d k
  | (j, v) :: m, k => if k = j then v else SMap.get d m k

/-- Remove key `k`. -/
def SMap.erase {α : Type} : SMap α → Nat → SMap α
  | [], _ => []
  | (j, v) :: m, k => if k = j then SMap.erase m k else (j, v) :: SMap.erase m k

/-- Put `v` at key `k` of a map whose keys rise strictly, in its place. -/
def SMap.insert {α : Type} : SMap α → Nat → α → SMap α
  | [], k, v => [(k, v)]
  | (j, w) :: m, k, v =>
    if k < j then (k, v) :: (j, w) :: m
    else if k = j then (k, v) :: m
    else (j, w) :: SMap.insert m k v

/-- Write `v` at key `k`: the value an unlisted key holds removes the entry, so equal contents are equal lists. -/
def SMap.set {α : Type} [DecidableEq α] (d : Nat → α) (m : SMap α) (k : Nat) (v : α) : SMap α :=
  if v = d k then SMap.erase m k else SMap.insert m k v

/-- The canonical form: keys strictly rising, and no entry equal to what an unlisted key holds. -/
def SMap.wf {α : Type} [DecidableEq α] (d : Nat → α) : SMap α → Bool
  | [] => true
  | (j, v) :: m => decide (v ≠ d j) && m.all (fun p => decide (j < p.1)) && SMap.wf d m

/-- Keep the entries whose key satisfies `p`. -/
def SMap.keep {α : Type} (p : Nat → Bool) (m : SMap α) : SMap α := m.filter (fun e => p e.1)

/-- Bits [hi:lo] of a word, as a number. -/
def fld (w : Word) (hi lo : Nat) : Nat := w.toNat / 2 ^ lo % 2 ^ (hi + 1 - lo)

/-- Bit `i` of a word. -/
def bit (w : Word) (i : Nat) : Bool := w.getLsbD i

/-- The word with ones in bits [hi:lo]. -/
def maskOf (hi lo : Nat) : Word := BitVec.ofNat 32 ((2 ^ (hi + 1 - lo) - 1) * 2 ^ lo)

/-- `w` with bits [hi:lo] replaced by the low bits of `v`. -/
def setFld (w : Word) (hi lo v : Nat) : Word :=
  (w &&& ~~~ maskOf hi lo) ||| BitVec.ofNat 32 (v % 2 ^ (hi + 1 - lo) * 2 ^ lo)

/-- `w` with bit `i` set to `b`. -/
def setBit (w : Word) (i : Nat) (b : Bool) : Word := setFld w i i (if b then 1 else 0)

/-- A number as a register word, its low 32 bits. -/
def word (n : Nat) : Word := BitVec.ofNat 32 n

/-- A signed number as a register word, two's complement. -/
def sword (i : Int) : Word := BitVec.ofInt 32 i

/-- The low word of a 64-bit quantity (R39). -/
def loWord (n : Nat) : Word := word n

/-- The high word of a 64-bit quantity (R39). -/
def hiWord (n : Nat) : Word := word (n / 2 ^ 32)

/-- The number that two words spell, low word first. -/
def ofWords (lo hi : Word) : Nat := hi.toNat * 2 ^ 32 + lo.toNat

/-- A signed field: two's complement of `n` bits. -/
def signedOf (n v : Nat) : Int := if v < 2 ^ (n - 1) then (v : Int) else (v : Int) - 2 ^ n

/-- A signed number in the low `n` bits of a field. -/
def toField (n : Nat) (i : Int) : Nat := (i % (2 ^ n : Int)).toNat

/-- A count that stops at `max`. -/
def satAdd (max v k : Nat) : Nat := min max (v + k)

/-- `v` held within `lo` and `hi`. -/
def clampNat (lo hi v : Nat) : Nat := if v < lo then lo else if hi < v then hi else v

/-- A number held within two bounds. -/
def clampInt (lo hi v : Int) : Int := if v < lo then lo else if hi < v then hi else v

/-- Odd parity of a word: true when the number of ones is odd. -/
def xorBits (w : Word) : Bool :=
  (List.range 32).foldl (fun p i => xor p (w.getLsbD i)) false

/-- Replace the first element that satisfies `p`. -/
def replaceFirst {α : Type} (p : α → Bool) (f : α → α) : List α → List α
  | [] => []
  | x :: xs => if p x then f x :: xs else x :: replaceFirst p f xs

end Sys2Proof
end

