-- ==== Sys2Proof/Machine/Law.lean ====
section
/-! DEFINITION. The arithmetic of Rudder's control law, exact: float32 coefficients, biquad cascades, estimators (R180, R202; log
entry 146). -/

namespace Sys2Proof.Machine

/-- The value of a float32 word (R202). -/
def f32 (w : Word) : Rat :=
  let e := fld w 30 23
  let m := fld w 22 0
  if e = 255 then Config.notFinite w
  else
    let size : Rat := if e = 0 then mkRat m (2 ^ 149) else if e < 150 then mkRat (m + 2 ^ 23) (2 ^ (150 - e)) else ((m + 2 ^ 23) * 2 ^ (e - 150) : Nat)
    if bit w 31 then -size else size

/-- One biquad section b0, b1, b2, a1, a2 at an input: its output, and what it then holds. -/
def biquad (c : List Rat) (z : Rat × Rat) (x : Rat) : Rat × (Rat × Rat) :=
  let y := c.getD 0 0 * x + z.1
  (y, (c.getD 1 0 * x - c.getD 3 0 * y + z.2, c.getD 2 0 * x - c.getD 4 0 * y))

/-- Sections in cascade. -/
def cascade : List (List Rat) → List (Rat × Rat) → Rat → Rat × List (Rat × Rat)
  | [], _, x => (x, [])
  | c :: cs, zs, x =>
    let (y, z) := biquad c (zs.headD (0, 0)) x
    let (o, rest) := cascade cs zs.tail y
    (o, z :: rest)

/-- The sum of the products of two rows. -/
def dot (xs ys : List Rat) : Rat := ((xs.zip ys).map fun p => p.1 * p.2).sum

/-- An estimator's 28 coefficients predict: transition of the four states, and input. -/
def estPredict (c x : List Rat) (u : Rat) : List Rat :=
  (List.range 4).map fun i => dot ((c.drop (4 * i)).take 4) x + c.getD (16 + i) 0 * u

/-- The output of an estimate: what its mode measures. -/
def estOut (c x : List Rat) : Rat := dot ((c.drop 20).take 4) x

/-- An estimate corrected by a measurement. -/
def estCorrect (c x : List Rat) (z : Rat) : List Rat :=
  let e := z - estOut c x
  (List.range 4).map fun i => x.getD i 0 + c.getD (24 + i) 0 * e

/-- A loop's integrator after an update with error `e`: held while the loop's output is at its limit (R190). -/
def integrate (gain : Rat) (held : Bool) (i e : Rat) : Rat := if held then i else i + gain * e

/-! ### Waveforms and angles (R221, R230; log entry 165) -/

/-- A number cut to 64 binary places. -/
def cut64 (x : Rat) : Rat := mkRat (x * 2 ^ 64).floor (2 ^ 64)

/-- The sum of a series: each term is the one before it times `-x² / ((n + 1) (n + 2))`. -/
def waveSeries (x2 : Rat) : Nat → Nat → Rat → Rat
  | 0, _, _ => 0
  | f + 1, n, t => t + waveSeries x2 f (n + 2) (cut64 (-t * x2 / ((n + 1) * (n + 2) : Nat)))

/-- Half of π. -/
def halfPi : Rat := 15707963267948966192313 / 10000000000000000000000

/-- cos and sin of `r` quarter turns, `r` at most one half. -/
def cosQuarter (r : Rat) : Rat := let x := cut64 (r * halfPi); waveSeries (x * x) 10 0 1
def sinQuarter (r : Rat) : Rat := let x := cut64 (r * halfPi); waveSeries (x * x) 10 1 x

/-- cos of an angle in turns. -/
def cosTurn (x : Rat) : Rat :=
  let u := 4 * (x - x.floor)
  let r := u - u.floor
  let c := if r ≤ 1 / 2 then cosQuarter r else sinQuarter (1 - r)
  let s := if r ≤ 1 / 2 then sinQuarter r else cosQuarter (1 - r)
  match u.floor.toNat with
  | 0 => c
  | 1 => -s
  | 2 => -c
  | _ => s

/-- Natural logarithm of 2. -/
def ln2 : Rat := 6931471805599453094172 / 10000000000000000000000

/-- The sum z + z³/3 + z⁵/5 + … -/
def atanhSeries (z2 : Rat) : Nat → Nat → Rat → Rat
  | 0, _, _ => 0
  | f + 1, n, t => t / n + atanhSeries z2 f (n + 2) (cut64 (t * z2))

/-- Natural logarithm of `a / b`. -/
def lnRatio (a b : Nat) : Rat :=
  let part := fun n : Nat => let m := mkRat n (2 ^ n.log2); let z := cut64 ((m - 1) / (m + 1)); 2 * atanhSeries (z * z) 20 1 z
  ((a.log2 : Int) - b.log2 : Int) * ln2 + part a - part b

/-- The angle whose tangent is `t`, 0 to 1, in quarter turns. -/
def atanQuarter (t : Rat) : Rat :=
  let small := fun z : Rat => atanhSeries (-(z * z)) 30 1 z / halfPi
  if 2 / 5 < t then 1 / 2 - small (cut64 ((1 - t) / (1 + t))) else small (cut64 t)

/-- The four-quadrant arctangent of `y` over `x`, in quarter turns, 0 to 4; 0 where both are 0. -/
def quarterTurns (y x : Int) : Rat :=
  let q := fun a b : Int => atanQuarter (mkRat a.natAbs b.natAbs)
  let a := if y.natAbs ≤ x.natAbs then q y x else 1 - q x y
  if 0 ≤ x then (if 0 ≤ y then a else 4 - a) else if 0 ≤ y then 2 - a else 2 + a

/-- The sum 1 + x + x²/2 + … -/
def expSeries (x : Rat) : Nat → Nat → Rat → Rat
  | 0, _, _ => 0
  | f + 1, n, t => t + expSeries x f (n + 1) (cut64 (t * x / (n + 1 : Nat)))

/-- The exponential function. -/
def expOf (x : Rat) : Rat :=
  let k := (x / ln2).floor
  let y := expSeries (cut64 (x - k * ln2)) 22 0 1
  if k < 0 then y / (2 ^ k.natAbs : Nat) else y * (2 ^ k.natAbs : Nat)

/-- The angle in turns at time `t` of a frequency that rises logarithmically from `f0` to `f1`, in 1/16 Hz, over `ms`: the integral of
f0 (f1 / f0)^(t / T). -/
def chirpTurn (f0 f1 ms : Nat) (t : Rat) : Rat :=
  if f0 = f1 ∨ f0 = 0 ∨ f1 = 0 then mkRat f0 16 * t
  else
    let l := lnRatio f1 f0
    mkRat f0 16 * mkRat ms 1000 / l * (expOf (cut64 (l * t * 1000 / (ms : Nat))) - 1)

end Sys2Proof.Machine
end

