-- ==== Sys2Proof/Machine/RegMap.lean ====
section
/-! DEFINITION. The register pages: page numbers (R40), the offset of every register, and for each register its access
code (R45), its reset value, the bits a write stores and the ranges a write is held to. -/

namespace Sys2Proof

/-- The key of the register at offset `off` of page `page` in the register store. -/
abbrev regKey (page off : Nat) : Nat := page * 0x1000 + off

/-- The access codes of R45. -/
inductive Access where
  | rw | ro | wo | w1c | w1s | rwl | rwt
  deriving DecidableEq, Repr

/-- How a write of bits [hi:lo] outside `min` to `max` is stored: below as `below`, above as `above`. -/
structure Clip where
  hi : Nat
  lo : Nat
  min : Nat
  max : Nat
  below : Nat
  above : Nat
  deriving DecidableEq, Repr

/-- One row of a register map: `count` registers from `off`, 4 bytes apart. -/
structure RegRow where
  off : Nat
  count : Nat
  access : Access
  reset : Word
  wmask : Word
  clips : List Clip
  deriving DecidableEq, Repr

/-! ### Pages (R40) -/

abbrev Page.SYS : Nat := 0x000
abbrev Page.PWR : Nat := 0x001
abbrev Page.CLK : Nat := 0x002
abbrev Page.CLAIM : Nat := 0x003
abbrev Page.EVF : Nat := 0x004
abbrev Page.CRIT : Nat := 0x005
abbrev Page.COX : Nat := 0x010
abbrev Page.STROKE (n : Nat) : Nat := 0x011 + n
abbrev Page.RUDDER (n : Nat) : Nat := 0x020 + n
abbrev Page.COUPLE : Nat := 0x024
abbrev Page.KEEL : Nat := 0x028
abbrev Page.OAR (n : Nat) : Nat := 0x030 + n
abbrev Page.GATE (n : Nat) : Nat := 0x040 + n
abbrev Page.HAZ : Nat := 0x044
abbrev Page.SWEEP : Nat := 0x048
abbrev Page.CREW (n : Nat) : Nat := 0x050 + n
abbrev Page.CREWG : Nat := 0x058
abbrev Page.JRNL : Nat := 0x059
abbrev Page.SLIP (n : Nat) : Nat := 0x060 + n
abbrev Page.SLIPC : Nat := 0x064
abbrev Page.LUT : Nat := 0x065
abbrev Page.BOAT : Nat := 0x070
abbrev Page.CACHE : Nat := 0x071
abbrev Page.DRAM (n : Nat) : Nat := 0x072 + n
abbrev Page.SCRUB : Nat := 0x074
abbrev Page.CRYPTO (n : Nat) : Nat := 0x078 + n
abbrev Page.KEYS : Nat := 0x07A
abbrev Page.UMP : Nat := 0x080
abbrev Page.DBG : Nat := 0x081
abbrev Page.ATB : Nat := 0x082
abbrev Page.PRE (n : Nat) : Nat := 0x088 + n
abbrev Page.HDA : Nat := 0x08C
abbrev Page.CAL : Nat := 0x08D
abbrev Page.DRV : Nat := 0x090
abbrev Page.SAFE : Nat := 0x091
abbrev Page.UCODE : Nat := 0x098
abbrev Page.EVSRC (n : Nat) : Nat := 0x008 + n

/-! ### Header registers (R43) -/

abbrev Reg.ID (page : Nat) : Nat := page * 0x1000 + 0x000
abbrev Reg.REV (page : Nat) : Nat := page * 0x1000 + 0x004
abbrev Reg.CTRL (page : Nat) : Nat := page * 0x1000 + 0x008
abbrev Reg.STATUS (page : Nat) : Nat := page * 0x1000 + 0x00C
abbrev Reg.EV_RAW (page : Nat) : Nat := page * 0x1000 + 0x010
abbrev Reg.EV_ENABLE (page : Nat) : Nat := page * 0x1000 + 0x014
abbrev Reg.EV_PEND (page : Nat) : Nat := page * 0x1000 + 0x018
abbrev Reg.EV_FORCE (page : Nat) : Nat := page * 0x1000 + 0x01C
abbrev Reg.FAULT_CODE (page : Nat) : Nat := page * 0x1000 + 0x020
abbrev Reg.LOCK (page : Nat) : Nat := page * 0x1000 + 0x024
abbrev Reg.DOMAIN (page : Nat) : Nat := page * 0x1000 + 0x028

/-! ### CLAIM -/

abbrev Reg.CLAIM.CLAIM_REQ : Nat := 0x03040
abbrev Reg.CLAIM.LAST_CONFLICT : Nat := 0x03044
abbrev Reg.CLAIM.CONFLICT_COUNT : Nat := 0x03048
abbrev Reg.CLAIM.CLAIM_STATE (i : Nat) : Nat := 0x03080 + 4 * i

/-! ### SYS -/

abbrev Reg.SYS.DEV_RESET : Nat := 0x00040
abbrev Reg.SYS.RESET_REASON : Nat := 0x00044
abbrev Reg.SYS.BOOT_COUNT : Nat := 0x00048
abbrev Reg.SYS.RESET_CFG : Nat := 0x0004C
abbrev Reg.SYS.RESET_TIME_LO : Nat := 0x00050
abbrev Reg.SYS.RESET_TIME_HI : Nat := 0x00054
abbrev Reg.SYS.ERR_INFO : Nat := 0x00058
abbrev Reg.SYS.ERR_ADDR_LO : Nat := 0x0005C
abbrev Reg.SYS.ERR_ADDR_HI : Nat := 0x00060
abbrev Reg.SYS.ERR_COUNT : Nat := 0x00064
abbrev Reg.SYS.MCHK_STATE : Nat := 0x00068
abbrev Reg.SYS.PROGRESS_LIMIT : Nat := 0x00100
abbrev Reg.SYS.PROGRESS_CFG : Nat := 0x00104
abbrev Reg.SYS.PROGRESS_STATUS : Nat := 0x00108
abbrev Reg.SYS.PROGRESS_COUNT : Nat := 0x0010C
abbrev Reg.SYS.OLDEST_TASK : Nat := 0x00110
abbrev Reg.SYS.CEIL_HOST : Nat := 0x00120
abbrev Reg.SYS.CEIL_STRIPE : Nat := 0x00124
abbrev Reg.SYS.CEIL_SECTOR : Nat := 0x00128
abbrev Reg.SYS.CEIL_XACT : Nat := 0x0012C
abbrev Reg.SYS.CEIL_SLOT : Nat := 0x00130
abbrev Reg.SYS.RES_STRIPE_LO : Nat := 0x00140
abbrev Reg.SYS.RES_STRIPE_HI : Nat := 0x00144
abbrev Reg.SYS.RES_SECTOR_LO : Nat := 0x00148
abbrev Reg.SYS.RES_SECTOR_HI : Nat := 0x0014C
abbrev Reg.SYS.RES_XACT_LO : Nat := 0x00150
abbrev Reg.SYS.RES_XACT_HI : Nat := 0x00154

/-! ### CLK -/

abbrev Reg.CLK.LOCK_STATUS : Nat := 0x02040
abbrev Reg.CLK.REF_STATUS : Nat := 0x02044
abbrev Reg.CLK.LOCK_LOSS_COUNT : Nat := 0x02048
abbrev Reg.CLK.ISLAND (i : Nat) : Nat := 0x02080 + 4 * i

/-! ### STROKE -/

abbrev Reg.STROKE.FENCE (p : Nat) : Nat := (0x011 + p) * 0x1000 + 0x040
abbrev Reg.STROKE.CORE_STATUS (p : Nat) : Nat := (0x011 + p) * 0x1000 + 0x044
abbrev Reg.STROKE.SOFT_IRQ (p : Nat) : Nat := (0x011 + p) * 0x1000 + 0x048
abbrev Reg.STROKE.TIMECMP_LO (p : Nat) : Nat := (0x011 + p) * 0x1000 + 0x04C
abbrev Reg.STROKE.TIMECMP_HI (p : Nat) : Nat := (0x011 + p) * 0x1000 + 0x050
abbrev Reg.STROKE.WDT_CFG (p : Nat) : Nat := (0x011 + p) * 0x1000 + 0x054
abbrev Reg.STROKE.WDT_KICK (p : Nat) : Nat := (0x011 + p) * 0x1000 + 0x058
abbrev Reg.STROKE.L1_PARITY_COUNT (p : Nat) : Nat := (0x011 + p) * 0x1000 + 0x05C
abbrev Reg.STROKE.SRAM_PARITY_COUNT (p : Nat) : Nat := (0x011 + p) * 0x1000 + 0x060
abbrev Reg.STROKE.FAULT_ADDR_LO (p : Nat) : Nat := (0x011 + p) * 0x1000 + 0x064
abbrev Reg.STROKE.FAULT_ADDR_HI (p : Nat) : Nat := (0x011 + p) * 0x1000 + 0x068

/-! ### EVF -/

abbrev Reg.EVF.TGT_IE : Nat := 0x04040

/-! ### CRIT -/

abbrev Reg.CRIT.CRIT_STATUS : Nat := 0x05040
abbrev Reg.CRIT.VOTE_REPAIRS : Nat := 0x05044
abbrev Reg.CRIT.PARITY_MENDS : Nat := 0x05048
abbrev Reg.CRIT.SWEEP_CTRL : Nat := 0x0504C
abbrev Reg.CRIT.WORD (i : Nat) : Nat := 0x05080 + 4 * i

/-! ### KEEL -/

abbrev Reg.KEEL.FENCE : Nat := 0x28040
abbrev Reg.KEEL.CMD : Nat := 0x28044
abbrev Reg.KEEL.SPD_TARGET : Nat := 0x28048
abbrev Reg.KEEL.SPD_SRC : Nat := 0x2804C
abbrev Reg.KEEL.REF_CFG : Nat := 0x28050
abbrev Reg.KEEL.REF_PHASE : Nat := 0x28054
abbrev Reg.KEEL.LOCK_CFG : Nat := 0x28058
abbrev Reg.KEEL.PWM_CFG : Nat := 0x2805C
abbrev Reg.KEEL.SPINUP_CFG : Nat := 0x28060
abbrev Reg.KEEL.SPINUP_CFG2 : Nat := 0x28064
abbrev Reg.KEEL.MOTOR_R : Nat := 0x28068
abbrev Reg.KEEL.MOTOR_L : Nat := 0x2806C
abbrev Reg.KEEL.MOTOR_FLUX : Nat := 0x28070
abbrev Reg.KEEL.OBS_CFG : Nat := 0x28074
abbrev Reg.KEEL.DECEL_CFG : Nat := 0x28078
abbrev Reg.KEEL.DECEL_CFG2 : Nat := 0x2807C
abbrev Reg.KEEL.GEN_CFG : Nat := 0x28080
abbrev Reg.KEEL.RESERVE_CFG : Nat := 0x28084
abbrev Reg.KEEL.RESERVE_GUARD : Nat := 0x28088
abbrev Reg.KEEL.INERTIA : Nat := 0x2808C
abbrev Reg.KEEL.SPEED : Nat := 0x28090
abbrev Reg.KEEL.PHASE : Nat := 0x28094
abbrev Reg.KEEL.PHASE_ERR : Nat := 0x28098
abbrev Reg.KEEL.RESERVE_MJ : Nat := 0x2809C
abbrev Reg.KEEL.DRAG_MW : Nat := 0x280A0
abbrev Reg.KEEL.CURRENT : Nat := 0x280A4
abbrev Reg.KEEL.MISSED_COUNT : Nat := 0x280A8
abbrev Reg.KEEL.REACQ_COUNT : Nat := 0x280AC
abbrev Reg.KEEL.CS_CFG : Nat := 0x280B0
abbrev Reg.KEEL.PA_CFG : Nat := 0x280B4
abbrev Reg.KEEL.PA_TABLE (i : Nat) : Nat := 0x280C0 + 4 * i

/-! ### DRV -/

abbrev Reg.DRV.V_REGEN_LIMIT : Nat := 0x90040
abbrev Reg.DRV.V_CHOP_ON : Nat := 0x90044
abbrev Reg.DRV.V_CRIT : Nat := 0x90048
abbrev Reg.DRV.BUS_V : Nat := 0x9004C
abbrev Reg.DRV.CHOP_CFG : Nat := 0x90050
abbrev Reg.DRV.CHOP_STATUS : Nat := 0x90054
abbrev Reg.DRV.BRIDGE_CTRL : Nat := 0x90058
abbrev Reg.DRV.BRIDGE_STAT : Nat := 0x9005C
abbrev Reg.DRV.RETRACT (i : Nat) : Nat := 0x90060 + 4 * i
abbrev Reg.DRV.RIG_TEMP : Nat := 0x90070

/-! ### PRE -/

abbrev Reg.PRE.SER_CFG (p : Nat) : Nat := (0x088 + p) * 0x1000 + 0x040
abbrev Reg.PRE.FW_CMD (p : Nat) : Nat := (0x088 + p) * 0x1000 + 0x044
abbrev Reg.PRE.FW_WDATA (p : Nat) : Nat := (0x088 + p) * 0x1000 + 0x048
abbrev Reg.PRE.FW_RESULT (p : Nat) : Nat := (0x088 + p) * 0x1000 + 0x04C
abbrev Reg.PRE.SLOT_MAP (p : Nat) : Nat := (0x088 + p) * 0x1000 + 0x050
abbrev Reg.PRE.FAULT (p : Nat) : Nat := (0x088 + p) * 0x1000 + 0x054
abbrev Reg.PRE.HEAD_FAIL (p : Nat) : Nat := (0x088 + p) * 0x1000 + 0x058
abbrev Reg.PRE.CRC_COUNT (p : Nat) : Nat := (0x088 + p) * 0x1000 + 0x05C
abbrev Reg.PRE.CAP (p i : Nat) : Nat := (0x088 + p) * 0x1000 + 0x080 + 4 * i

/-! ### HDA -/

abbrev Reg.HDA.CMD : Nat := 0x8C040
abbrev Reg.HDA.ACT_POP : Nat := 0x8C044
abbrev Reg.HDA.TEMP : Nat := 0x8C048
abbrev Reg.HDA.DIODE0 : Nat := 0x8C04C
abbrev Reg.HDA.DIODE1 : Nat := 0x8C050
abbrev Reg.HDA.TLI : Nat := 0x8C054
abbrev Reg.HDA.DISC_STATUS : Nat := 0x8C058

/-! ### CAL -/

abbrev Reg.CAL.CMD : Nat := 0x8D040
abbrev Reg.CAL.LOAD_ADDR_LO : Nat := 0x8D044
abbrev Reg.CAL.LOAD_ADDR_HI : Nat := 0x8D048
abbrev Reg.CAL.LOAD_COUNT : Nat := 0x8D04C
abbrev Reg.CAL.SOFT_ENV : Nat := 0x8D050
abbrev Reg.CAL.HARD_ENV : Nat := 0x8D054
abbrev Reg.CAL.STALE_HEADS : Nat := 0x8D058
abbrev Reg.CAL.STALE_COUNT : Nat := 0x8D05C
abbrev Reg.CAL.LAST_STALE : Nat := 0x8D060
abbrev Reg.CAL.HARD_HEADS : Nat := 0x8D064
abbrev Reg.CAL.REC_COUNT : Nat := 0x8D068
abbrev Reg.CAL.DEFAULT_GUARD : Nat := 0x8D06C
abbrev Reg.CAL.DEFAULT (i : Nat) : Nat := 0x8D070 + 4 * i
abbrev Reg.CAL.WIN_SEL : Nat := 0x8D080
abbrev Reg.CAL.WIN (i : Nat) : Nat := 0x8D0C0 + 4 * i

/-! ### RUDDER -/

abbrev Reg.RUDDER.FENCE (p : Nat) : Nat := (0x020 + p) * 0x1000 + 0x040
abbrev Reg.RUDDER.CMD (p : Nat) : Nat := (0x020 + p) * 0x1000 + 0x044
abbrev Reg.RUDDER.LOAD_TRACK (p : Nat) : Nat := (0x020 + p) * 0x1000 + 0x048
abbrev Reg.RUDDER.COIL_CFG (p : Nat) : Nat := (0x020 + p) * 0x1000 + 0x04C
abbrev Reg.RUDDER.COIL_PARAM (p : Nat) : Nat := (0x020 + p) * 0x1000 + 0x050
abbrev Reg.RUDDER.DRIVE_LIM (p : Nat) : Nat := (0x020 + p) * 0x1000 + 0x054
abbrev Reg.RUDDER.WF_CFG (p : Nat) : Nat := (0x020 + p) * 0x1000 + 0x058
abbrev Reg.RUDDER.RD_CFG (p : Nat) : Nat := (0x020 + p) * 0x1000 + 0x05C
abbrev Reg.RUDDER.SETTLE_CFG (p : Nat) : Nat := (0x020 + p) * 0x1000 + 0x060
abbrev Reg.RUDDER.LOAD_CFG (p : Nat) : Nat := (0x020 + p) * 0x1000 + 0x064
abbrev Reg.RUDDER.POS_CFG (p : Nat) : Nat := (0x020 + p) * 0x1000 + 0x068
abbrev Reg.RUDDER.PES_CFG (p : Nat) : Nat := (0x020 + p) * 0x1000 + 0x06C
abbrev Reg.RUDDER.COEF_ADDR_LO (p : Nat) : Nat := (0x020 + p) * 0x1000 + 0x070
abbrev Reg.RUDDER.COEF_ADDR_HI (p : Nat) : Nat := (0x020 + p) * 0x1000 + 0x074
abbrev Reg.RUDDER.COEF_CTRL (p : Nat) : Nat := (0x020 + p) * 0x1000 + 0x078
abbrev Reg.RUDDER.COEF_ID (p : Nat) : Nat := (0x020 + p) * 0x1000 + 0x07C
abbrev Reg.RUDDER.ARM_POS_LO (p : Nat) : Nat := (0x020 + p) * 0x1000 + 0x080
abbrev Reg.RUDDER.ARM_POS_HI (p : Nat) : Nat := (0x020 + p) * 0x1000 + 0x084
abbrev Reg.RUDDER.ARM_PES (p : Nat) : Nat := (0x020 + p) * 0x1000 + 0x088
abbrev Reg.RUDDER.DRIVE_OUT (p : Nat) : Nat := (0x020 + p) * 0x1000 + 0x08C
abbrev Reg.RUDDER.SLOT (p i : Nat) : Nat := (0x020 + p) * 0x1000 + 0x090 + 4 * i
abbrev Reg.RUDDER.PES (p i : Nat) : Nat := (0x020 + p) * 0x1000 + 0x0A0 + 4 * i
abbrev Reg.RUDDER.PES3S (p i : Nat) : Nat := (0x020 + p) * 0x1000 + 0x0B0 + 4 * i
abbrev Reg.RUDDER.TS_OUT (p i : Nat) : Nat := (0x020 + p) * 0x1000 + 0x0C0 + 4 * i
abbrev Reg.RUDDER.MISSED_COUNT (p : Nat) : Nat := (0x020 + p) * 0x1000 + 0x0D0
abbrev Reg.RUDDER.BAD_WEDGE_COUNT (p : Nat) : Nat := (0x020 + p) * 0x1000 + 0x0D4
abbrev Reg.RUDDER.DA_REJECT_COUNT (p : Nat) : Nat := (0x020 + p) * 0x1000 + 0x0D8
abbrev Reg.RUDDER.WF_COUNT (p : Nat) : Nat := (0x020 + p) * 0x1000 + 0x0DC
abbrev Reg.RUDDER.SEEK_LAST (p : Nat) : Nat := (0x020 + p) * 0x1000 + 0x0E0
abbrev Reg.RUDDER.PARK_CAUSE (p : Nat) : Nat := (0x020 + p) * 0x1000 + 0x0E4

/-! ### COUPLE -/

abbrev Reg.COUPLE.CPL_CFG : Nat := 0x24040
abbrev Reg.COUPLE.CPL_STATUS : Nat := 0x24044
abbrev Reg.COUPLE.CPL_ERRORS : Nat := 0x24048
abbrev Reg.COUPLE.SNS_CFG : Nat := 0x2404C
abbrev Reg.COUPLE.SNS_EN : Nat := 0x24050
abbrev Reg.COUPLE.SNS_STATUS : Nat := 0x24054
abbrev Reg.COUPLE.SHOCK_COUNT : Nat := 0x24058
abbrev Reg.COUPLE.SHOCK_TIME_LO : Nat := 0x2405C
abbrev Reg.COUPLE.SHOCK_TIME_HI : Nat := 0x24060
abbrev Reg.COUPLE.SNS (i : Nat) : Nat := 0x24070 + 4 * i

/-! ### TUNE -/

abbrev Reg.TUNE.TR_CTRL (page : Nat) : Nat := page * 0x1000 + 0x100
abbrev Reg.TUNE.TR_STATUS (page : Nat) : Nat := page * 0x1000 + 0x104
abbrev Reg.TUNE.TR_NODES_LO (page : Nat) : Nat := page * 0x1000 + 0x108
abbrev Reg.TUNE.TR_NODES_HI (page : Nat) : Nat := page * 0x1000 + 0x10C
abbrev Reg.TUNE.TR_FMT (page : Nat) : Nat := page * 0x1000 + 0x110
abbrev Reg.TUNE.TR_TRIG (page : Nat) : Nat := page * 0x1000 + 0x114
abbrev Reg.TUNE.TR_LEVEL (page : Nat) : Nat := page * 0x1000 + 0x118
abbrev Reg.TUNE.TR_PRE (page : Nat) : Nat := page * 0x1000 + 0x11C
abbrev Reg.TUNE.TR_DEPTH (page : Nat) : Nat := page * 0x1000 + 0x120
abbrev Reg.TUNE.TR_TRIG_IDX (page : Nat) : Nat := page * 0x1000 + 0x124
abbrev Reg.TUNE.TR_TRIG_TIME_LO (page : Nat) : Nat := page * 0x1000 + 0x128
abbrev Reg.TUNE.TR_TRIG_TIME_HI (page : Nat) : Nat := page * 0x1000 + 0x12C
abbrev Reg.TUNE.INJ_CFG (page : Nat) : Nat := page * 0x1000 + 0x130
abbrev Reg.TUNE.INJ_AMP (page : Nat) : Nat := page * 0x1000 + 0x134
abbrev Reg.TUNE.INJ_F0 (page : Nat) : Nat := page * 0x1000 + 0x138
abbrev Reg.TUNE.INJ_F1 (page : Nat) : Nat := page * 0x1000 + 0x13C
abbrev Reg.TUNE.INJ_TIME (page : Nat) : Nat := page * 0x1000 + 0x140
abbrev Reg.TUNE.INJ_POINTS (page : Nat) : Nat := page * 0x1000 + 0x144
abbrev Reg.TUNE.INJ_PROGRESS (page : Nat) : Nat := page * 0x1000 + 0x148
abbrev Reg.TUNE.AMP_LIMIT (page : Nat) : Nat := page * 0x1000 + 0x14C
abbrev Reg.TUNE.GUARD (page : Nat) : Nat := page * 0x1000 + 0x150
abbrev Reg.TUNE.TRIP_INFO (page : Nat) : Nat := page * 0x1000 + 0x154
abbrev Reg.TUNE.TR_WIN_SEL (page : Nat) : Nat := page * 0x1000 + 0x180
abbrev Reg.TUNE.TR_WIN (page i : Nat) : Nat := page * 0x1000 + 0x1C0 + 4 * i

/-! ### OAR -/

abbrev Reg.OAR.FE_CTRL (p : Nat) : Nat := (0x030 + p) * 0x1000 + 0x400
abbrev Reg.OAR.FE_STATUS (p : Nat) : Nat := (0x030 + p) * 0x1000 + 0x404
abbrev Reg.OAR.SYNC_CFG (p : Nat) : Nat := (0x030 + p) * 0x1000 + 0x408
abbrev Reg.OAR.WG_CFG (p : Nat) : Nat := (0x030 + p) * 0x1000 + 0x40C
abbrev Reg.OAR.DA_CFG (p : Nat) : Nat := (0x030 + p) * 0x1000 + 0x410
abbrev Reg.OAR.TA_CFG (p : Nat) : Nat := (0x030 + p) * 0x1000 + 0x414
abbrev Reg.OAR.VERIFY_CFG (p : Nat) : Nat := (0x030 + p) * 0x1000 + 0x418
abbrev Reg.OAR.TAP_SEL (p : Nat) : Nat := (0x030 + p) * 0x1000 + 0x41C
abbrev Reg.OAR.TAP_DATA (p : Nat) : Nat := (0x030 + p) * 0x1000 + 0x420
abbrev Reg.OAR.VGA (p : Nat) : Nat := (0x030 + p) * 0x1000 + 0x424
abbrev Reg.OAR.SYNC_MISS_COUNT (p : Nat) : Nat := (0x030 + p) * 0x1000 + 0x428
abbrev Reg.OAR.TA_COUNT (p : Nat) : Nat := (0x030 + p) * 0x1000 + 0x42C
abbrev Reg.OAR.ID_MISMATCH_COUNT (p : Nat) : Nat := (0x030 + p) * 0x1000 + 0x430
abbrev Reg.OAR.VERIFY_COUNT (p : Nat) : Nat := (0x030 + p) * 0x1000 + 0x434
abbrev Reg.OAR.VERIFY_FAIL_COUNT (p : Nat) : Nat := (0x030 + p) * 0x1000 + 0x438
abbrev Reg.OAR.ZT_CTRL (p : Nat) : Nat := (0x030 + p) * 0x1000 + 0x500
abbrev Reg.OAR.ZT_STATUS (p : Nat) : Nat := (0x030 + p) * 0x1000 + 0x504
abbrev Reg.OAR.ZT_ADDR_LO (p : Nat) : Nat := (0x030 + p) * 0x1000 + 0x508
abbrev Reg.OAR.ZT_ADDR_HI (p : Nat) : Nat := (0x030 + p) * 0x1000 + 0x50C
abbrev Reg.OAR.ZT_RPM (p : Nat) : Nat := (0x030 + p) * 0x1000 + 0x510
abbrev Reg.OAR.ZT_ID (p : Nat) : Nat := (0x030 + p) * 0x1000 + 0x514
abbrev Reg.OAR.ZT_WIN_SEL (p : Nat) : Nat := (0x030 + p) * 0x1000 + 0x518
abbrev Reg.OAR.ZT_WIN (p i : Nat) : Nat := (0x030 + p) * 0x1000 + 0x520 + 4 * i
abbrev Reg.OAR.JOB_CFG (p : Nat) : Nat := (0x030 + p) * 0x1000 + 0x040
abbrev Reg.OAR.JOB_STATE (p : Nat) : Nat := (0x030 + p) * 0x1000 + 0x044
abbrev Reg.OAR.JOB_HEAD (p : Nat) : Nat := (0x030 + p) * 0x1000 + 0x048
abbrev Reg.OAR.JOB_TRACK (p : Nat) : Nat := (0x030 + p) * 0x1000 + 0x04C
abbrev Reg.OAR.ENTRY_COUNT (p : Nat) : Nat := (0x030 + p) * 0x1000 + 0x050
abbrev Reg.OAR.ENTRY_HWM (p : Nat) : Nat := (0x030 + p) * 0x1000 + 0x054
abbrev Reg.OAR.ENTRY_SEL (p : Nat) : Nat := (0x030 + p) * 0x1000 + 0x058
abbrev Reg.OAR.ENTRY_VIEW (p : Nat) : Nat := (0x030 + p) * 0x1000 + 0x05C
abbrev Reg.OAR.SECTORS_READ (p : Nat) : Nat := (0x030 + p) * 0x1000 + 0x060
abbrev Reg.OAR.SECTORS_WRITTEN (p : Nat) : Nat := (0x030 + p) * 0x1000 + 0x064
abbrev Reg.OAR.CUT_COUNT (p : Nat) : Nat := (0x030 + p) * 0x1000 + 0x068
abbrev Reg.OAR.REREAD_COUNT (p : Nat) : Nat := (0x030 + p) * 0x1000 + 0x06C
abbrev Reg.OAR.RELOC_HIT_COUNT (p : Nat) : Nat := (0x030 + p) * 0x1000 + 0x070
abbrev Reg.OAR.STAGE_LATE_COUNT (p : Nat) : Nat := (0x030 + p) * 0x1000 + 0x074
abbrev Reg.OAR.LASTING_COUNT (p : Nat) : Nat := (0x030 + p) * 0x1000 + 0x078
abbrev Reg.OAR.SW_CTRL (p : Nat) : Nat := (0x030 + p) * 0x1000 + 0x080
abbrev Reg.OAR.SW_STATUS (p : Nat) : Nat := (0x030 + p) * 0x1000 + 0x084
abbrev Reg.OAR.RT_CTRL (p : Nat) : Nat := (0x030 + p) * 0x1000 + 0x540
abbrev Reg.OAR.RT_STATUS (p : Nat) : Nat := (0x030 + p) * 0x1000 + 0x544
abbrev Reg.OAR.RT_ADDR_LO (p : Nat) : Nat := (0x030 + p) * 0x1000 + 0x548
abbrev Reg.OAR.RT_ADDR_HI (p : Nat) : Nat := (0x030 + p) * 0x1000 + 0x54C
abbrev Reg.OAR.RT_ADD (p i : Nat) : Nat := (0x030 + p) * 0x1000 + 0x550 + 4 * i
abbrev Reg.OAR.RT_RESULT (p : Nat) : Nat := (0x030 + p) * 0x1000 + 0x560
abbrev Reg.OAR.RT_WIN_SEL (p : Nat) : Nat := (0x030 + p) * 0x1000 + 0x564
abbrev Reg.OAR.RT_WIN (p i : Nat) : Nat := (0x030 + p) * 0x1000 + 0x570 + 4 * i

/-! ### SWEEP -/

abbrev Reg.SWEEP.LANE_EN : Nat := 0x48040
abbrev Reg.SWEEP.ITER_CFG : Nat := 0x48044
abbrev Reg.SWEEP.SLOT_CFG : Nat := 0x48048
abbrev Reg.SWEEP.SCHED_CFG : Nat := 0x4804C
abbrev Reg.SWEEP.RECOV_CFG : Nat := 0x48050
abbrev Reg.SWEEP.RECOV_LIMIT : Nat := 0x48054
abbrev Reg.SWEEP.MS_CFG : Nat := 0x48058
abbrev Reg.SWEEP.SLOT_STATE : Nat := 0x48060
abbrev Reg.SWEEP.SLOT_HWM : Nat := 0x48064
abbrev Reg.SWEEP.QUEUE_STATE : Nat := 0x48068
abbrev Reg.SWEEP.FIRST_OK : Nat := 0x48080
abbrev Reg.SWEEP.FIRST_FAIL : Nat := 0x48084
abbrev Reg.SWEEP.RUNG_OK (i : Nat) : Nat := 0x48088 + 4 * i
abbrev Reg.SWEEP.UNREADABLE_COUNT : Nat := 0x48098
abbrev Reg.SWEEP.CRC_FAIL_COUNT : Nat := 0x4809C
abbrev Reg.SWEEP.SLOT_SLIP_COUNT : Nat := 0x480A0
abbrev Reg.SWEEP.LANE_CHECK_COUNT : Nat := 0x480A4
abbrev Reg.SWEEP.SLOT_PARITY_COUNT : Nat := 0x480A8
abbrev Reg.SWEEP.ITER_HIST (i : Nat) : Nat := 0x480C0 + 4 * i
abbrev Reg.SWEEP.LANE_BUSY (i : Nat) : Nat := 0x48100 + 4 * i

/-! ### UCODE -/

abbrev Reg.UCODE.UC_SEL : Nat := 0x98040
abbrev Reg.UCODE.UC_ADDR : Nat := 0x98044
abbrev Reg.UCODE.UC_DATA (i : Nat) : Nat := 0x98048 + 4 * i
abbrev Reg.UCODE.UC_CTRL : Nat := 0x98058
abbrev Reg.UCODE.UC_STATE : Nat := 0x9805C
abbrev Reg.UCODE.UC_ID : Nat := 0x98060
abbrev Reg.UCODE.RESTORE_COUNT : Nat := 0x98064
abbrev Reg.UCODE.MATCH (i : Nat) : Nat := 0x98080 + 4 * i

/-! ### BOAT -/

abbrev Reg.BOAT.USABLE_LO : Nat := 0x70040
abbrev Reg.BOAT.USABLE_HI : Nat := 0x70044
abbrev Reg.BOAT.DIRTY_LIMIT : Nat := 0x70048
abbrev Reg.BOAT.WB_STATE : Nat := 0x7004C
abbrev Reg.BOAT.DIRTY_COUNT : Nat := 0x70050
abbrev Reg.BOAT.DIRTY_WAITING : Nat := 0x70054
abbrev Reg.BOAT.DIRTY_ADJ : Nat := 0x70058
abbrev Reg.BOAT.DIRTY_ADJ_RESULT : Nat := 0x7005C
abbrev Reg.BOAT.XACT_STATE : Nat := 0x70060
abbrev Reg.BOAT.ENGINE_STATE : Nat := 0x70064
abbrev Reg.BOAT.GRAN_TRANSIENT : Nat := 0x70068
abbrev Reg.BOAT.GRAN_LASTING : Nat := 0x7006C
abbrev Reg.BOAT.POISON_SET_COUNT : Nat := 0x70070
abbrev Reg.BOAT.LAST_BAD_LO : Nat := 0x70074
abbrev Reg.BOAT.LAST_BAD_HI : Nat := 0x70078

/-! ### CACHE -/

abbrev Reg.CACHE.LOCK_MASK : Nat := 0x71040
abbrev Reg.CACHE.RANGE_CTRL : Nat := 0x71044
abbrev Reg.CACHE.RANGE_BASE_LO : Nat := 0x71048
abbrev Reg.CACHE.RANGE_BASE_HI : Nat := 0x7104C
abbrev Reg.CACHE.RANGE_LINES : Nat := 0x71050
abbrev Reg.CACHE.RANGE_RESULT : Nat := 0x71054
abbrev Reg.CACHE.RANGE_DONE_LINES : Nat := 0x71058
abbrev Reg.CACHE.SKIPPED : Nat := 0x7105C
abbrev Reg.CACHE.FIRST_SKIP_LO : Nat := 0x71060
abbrev Reg.CACHE.FIRST_SKIP_HI : Nat := 0x71064
abbrev Reg.CACHE.WRITEBACKS : Nat := 0x71068
abbrev Reg.CACHE.DISCARDED : Nat := 0x7106C
abbrev Reg.CACHE.VALID_LINES : Nat := 0x71070
abbrev Reg.CACHE.DIRTY_LINES : Nat := 0x71074
abbrev Reg.CACHE.LOCKED_LINES : Nat := 0x71078
abbrev Reg.CACHE.HIT_COUNT : Nat := 0x71080
abbrev Reg.CACHE.MISS_COUNT : Nat := 0x71084
abbrev Reg.CACHE.EVICT_COUNT : Nat := 0x71088
abbrev Reg.CACHE.CLEAN_PARITY_COUNT : Nat := 0x7108C
abbrev Reg.CACHE.HOST_BASE (i : Nat) : Nat := 0x710C0 + 8 * i
abbrev Reg.CACHE.HOST_LIMIT (i : Nat) : Nat := 0x710C4 + 8 * i

/-! ### DRAM -/

abbrev Reg.DRAM.DRAM_CFG (p : Nat) : Nat := (0x072 + p) * 0x1000 + 0x040
abbrev Reg.DRAM.DRAM_CMD (p : Nat) : Nat := (0x072 + p) * 0x1000 + 0x044
abbrev Reg.DRAM.DRAM_STATUS (p : Nat) : Nat := (0x072 + p) * 0x1000 + 0x048
abbrev Reg.DRAM.RD_BEATS (p : Nat) : Nat := (0x072 + p) * 0x1000 + 0x04C
abbrev Reg.DRAM.WR_BEATS (p : Nat) : Nat := (0x072 + p) * 0x1000 + 0x050
abbrev Reg.DRAM.TRAIN_RETRIES (p : Nat) : Nat := (0x072 + p) * 0x1000 + 0x054

/-! ### SCRUB -/

abbrev Reg.SCRUB.SCRUB_CFG : Nat := 0x74040
abbrev Reg.SCRUB.LAP_LIMIT : Nat := 0x74044
abbrev Reg.SCRUB.POSITION : Nat := 0x74048
abbrev Reg.SCRUB.LAST_LAP : Nat := 0x7404C
abbrev Reg.SCRUB.LAP_COUNT : Nat := 0x74050
abbrev Reg.SCRUB.SCRUB_TRANSIENT : Nat := 0x74054
abbrev Reg.SCRUB.SCRUB_LASTING : Nat := 0x74058
abbrev Reg.SCRUB.LOG_CTRL : Nat := 0x7405C
abbrev Reg.SCRUB.LOG (i : Nat) : Nat := 0x74080 + 4 * i

/-! ### CREW -/

abbrev Reg.CREW.JOB_STATE (p : Nat) : Nat := (0x050 + p) * 0x1000 + 0x040
abbrev Reg.CREW.JOBS_DONE (p : Nat) : Nat := (0x050 + p) * 0x1000 + 0x044
abbrev Reg.CREW.ROWS_REBUILT (p : Nat) : Nat := (0x050 + p) * 0x1000 + 0x048
abbrev Reg.CREW.PARITY_KIB (p : Nat) : Nat := (0x050 + p) * 0x1000 + 0x04C

/-! ### CREWG -/

abbrev Reg.CREWG.BAND_TABLE_LO : Nat := 0x58040
abbrev Reg.CREWG.BAND_TABLE_HI : Nat := 0x58044
abbrev Reg.CREWG.SCRATCH_LO : Nat := 0x58048
abbrev Reg.CREWG.SCRATCH_HI : Nat := 0x5804C
abbrev Reg.CREWG.SCRATCH_SIZE : Nat := 0x58050
abbrev Reg.CREWG.MEMBER_FAIL : Nat := 0x58054
abbrev Reg.CREWG.BAND_SWITCH : Nat := 0x58058
abbrev Reg.CREWG.LOST_MAP_ROOT : Nat := 0x5805C
abbrev Reg.CREWG.LOST_CFG : Nat := 0x58060
abbrev Reg.CREWG.LOST_COUNT : Nat := 0x58064
abbrev Reg.CREWG.BAND_CMD : Nat := 0x58068
abbrev Reg.CREWG.BAND_CMD_RESULT : Nat := 0x5806C
abbrev Reg.CREWG.RESHAPE_DESC_LO : Nat := 0x58070
abbrev Reg.CREWG.RESHAPE_DESC_HI : Nat := 0x58074
abbrev Reg.CREWG.RESHAPE_WM : Nat := 0x58078
abbrev Reg.CREWG.REBUILD_CFG : Nat := 0x5807C
abbrev Reg.CREWG.PATROL_CFG : Nat := 0x58080
abbrev Reg.CREWG.PATROL_POS : Nat := 0x58084
abbrev Reg.CREWG.PATROL_STRIPE : Nat := 0x58088
abbrev Reg.CREWG.PATROL_LAP_LAST : Nat := 0x5808C
abbrev Reg.CREWG.PATROL_LAP_LIMIT : Nat := 0x58090
abbrev Reg.CREWG.JOBS_IN_USE : Nat := 0x58094
abbrev Reg.CREWG.STALE_COUNT : Nat := 0x58098

/-! ### JRNL -/

abbrev Reg.JRNL.LOC : Nat := 0x59040
abbrev Reg.JRNL.STATE : Nat := 0x59044
abbrev Reg.JRNL.JRNL_CFG : Nat := 0x59048
abbrev Reg.JRNL.BATCH_US : Nat := 0x5904C
abbrev Reg.JRNL.DRAM_BASE_LO : Nat := 0x59050
abbrev Reg.JRNL.DRAM_BASE_HI : Nat := 0x59054
abbrev Reg.JRNL.CMD : Nat := 0x59058
abbrev Reg.JRNL.REPLAY_RESULT : Nat := 0x5905C
abbrev Reg.JRNL.NEXT_JSEQ_LO : Nat := 0x59060
abbrev Reg.JRNL.NEXT_JSEQ_HI : Nat := 0x59064
abbrev Reg.JRNL.OPEN_RECORDS : Nat := 0x59068
abbrev Reg.JRNL.RING_USE : Nat := 0x5906C
abbrev Reg.JRNL.COPY_WRITES : Nat := 0x59070

/-! ### SLIP -/

abbrev Reg.SLIP.LINK_CFG (p : Nat) : Nat := (0x060 + p) * 0x1000 + 0x040
abbrev Reg.SLIP.LINK_STATUS (p : Nat) : Nat := (0x060 + p) * 0x1000 + 0x044
abbrev Reg.SLIP.ATT_ADDR_LO (p : Nat) : Nat := (0x060 + p) * 0x1000 + 0x048
abbrev Reg.SLIP.ATT_ADDR_HI (p : Nat) : Nat := (0x060 + p) * 0x1000 + 0x04C
abbrev Reg.SLIP.FEC_CORR (p : Nat) : Nat := (0x060 + p) * 0x1000 + 0x050
abbrev Reg.SLIP.FEC_UNCORR (p : Nat) : Nat := (0x060 + p) * 0x1000 + 0x054
abbrev Reg.SLIP.RX_CRC (p : Nat) : Nat := (0x060 + p) * 0x1000 + 0x058
abbrev Reg.SLIP.TX_RETRY (p : Nat) : Nat := (0x060 + p) * 0x1000 + 0x05C
abbrev Reg.SLIP.LINK_RESETS (p : Nat) : Nat := (0x060 + p) * 0x1000 + 0x060
abbrev Reg.SLIP.FEC_CFG (p : Nat) : Nat := (0x060 + p) * 0x1000 + 0x064

/-! ### SLIPC -/

abbrev Reg.SLIPC.SAS_ADDR_A_LO : Nat := 0x64040
abbrev Reg.SLIPC.SAS_ADDR_A_HI : Nat := 0x64044
abbrev Reg.SLIPC.SAS_ADDR_B_LO : Nat := 0x64048
abbrev Reg.SLIPC.SAS_ADDR_B_HI : Nat := 0x6404C
abbrev Reg.SLIPC.PORT_CFG : Nat := 0x64050
abbrev Reg.SLIPC.INTAKE_CFG : Nat := 0x64054
abbrev Reg.SLIPC.NEXUS_CFG : Nat := 0x64058
abbrev Reg.SLIPC.HBUF_BASE_LO : Nat := 0x6405C
abbrev Reg.SLIPC.HBUF_BASE_HI : Nat := 0x64060
abbrev Reg.SLIPC.HBUF_SIZE : Nat := 0x64064
abbrev Reg.SLIPC.TASKS : Nat := 0x64068
abbrev Reg.SLIPC.NEXUS_SEL : Nat := 0x6406C
abbrev Reg.SLIPC.NEXUS_ADDR_LO : Nat := 0x64070
abbrev Reg.SLIPC.NEXUS_ADDR_HI : Nat := 0x64074
abbrev Reg.SLIPC.NEXUS_STATE : Nat := 0x64078
abbrev Reg.SLIPC.UA_CTRL : Nat := 0x6407C
abbrev Reg.SLIPC.FW_ROUTE (i : Nat) : Nat := 0x64080 + 4 * i
abbrev Reg.SLIPC.SIDEBAND : Nat := 0x64090
abbrev Reg.SLIPC.TASK_SET_FULL_COUNT : Nat := 0x64094
abbrev Reg.SLIPC.POISON_STOP_COUNT : Nat := 0x64098
abbrev Reg.SLIPC.PI_STOP_COUNT : Nat := 0x6409C
abbrev Reg.SLIPC.UA_LO : Nat := 0x640A0
abbrev Reg.SLIPC.UA_HI : Nat := 0x640A4
abbrev Reg.SLIPC.SVC_TASK (core : Nat) : Nat := 0x64000 + 0x400 + 0x40 * core + 0x00
abbrev Reg.SLIPC.SVC_CTRL (core : Nat) : Nat := 0x64000 + 0x400 + 0x40 * core + 0x04
abbrev Reg.SLIPC.SVC_ADDR_LO (core : Nat) : Nat := 0x64000 + 0x400 + 0x40 * core + 0x08
abbrev Reg.SLIPC.SVC_ADDR_HI (core : Nat) : Nat := 0x64000 + 0x400 + 0x40 * core + 0x0C
abbrev Reg.SLIPC.SVC_BYTES (core : Nat) : Nat := 0x64000 + 0x400 + 0x40 * core + 0x10
abbrev Reg.SLIPC.SVC_OFFSET (core : Nat) : Nat := 0x64000 + 0x400 + 0x40 * core + 0x14
abbrev Reg.SLIPC.SVC_RESULT (core : Nat) : Nat := 0x64000 + 0x400 + 0x40 * core + 0x18

/-! ### LUT -/

abbrev Reg.LUT.ROOT_LO : Nat := 0x65040
abbrev Reg.LUT.ROOT_HI : Nat := 0x65044
abbrev Reg.LUT.GEN : Nat := 0x65048
abbrev Reg.LUT.CMD : Nat := 0x6504C
abbrev Reg.LUT.CMD_RESULT : Nat := 0x65050
abbrev Reg.LUT.ENABLED_LO : Nat := 0x65054
abbrev Reg.LUT.ENABLED_HI : Nat := 0x65058
abbrev Reg.LUT.MAX_XFER : Nat := 0x6505C
abbrev Reg.LUT.EXT_USED : Nat := 0x65060
abbrev Reg.LUT.WIN_SEL : Nat := 0x65064
abbrev Reg.LUT.WIN (i : Nat) : Nat := 0x65080 + 4 * i

/-! ### GATE -/

abbrev Reg.GATE.SCHED_CFG (p : Nat) : Nat := (0x040 + p) * 0x1000 + 0x040
abbrev Reg.GATE.GROUP_CFG (p : Nat) : Nat := (0x040 + p) * 0x1000 + 0x044
abbrev Reg.GATE.POOL (p : Nat) : Nat := (0x040 + p) * 0x1000 + 0x048
abbrev Reg.GATE.GROUP_STATE (p : Nat) : Nat := (0x040 + p) * 0x1000 + 0x04C
abbrev Reg.GATE.SLOT_AVAIL (p : Nat) : Nat := (0x040 + p) * 0x1000 + 0x050
abbrev Reg.GATE.WAIT_MAX (p : Nat) : Nat := (0x040 + p) * 0x1000 + 0x054
abbrev Reg.GATE.RUNS_DONE (p : Nat) : Nat := (0x040 + p) * 0x1000 + 0x058
abbrev Reg.GATE.AGED_COUNT (p : Nat) : Nat := (0x040 + p) * 0x1000 + 0x05C
abbrev Reg.GATE.STROKE_RETRY_COUNT (p : Nat) : Nat := (0x040 + p) * 0x1000 + 0x060
abbrev Reg.GATE.REFUSED_COUNT (p : Nat) : Nat := (0x040 + p) * 0x1000 + 0x064
abbrev Reg.GATE.SEEK_TAB (p i : Nat) : Nat := (0x040 + p) * 0x1000 + 0x080 + 4 * i

/-! ### HAZ -/

abbrev Reg.HAZ.HAZ_STATUS : Nat := 0x44040
abbrev Reg.HAZ.HAZ_HWM : Nat := 0x44044
abbrev Reg.HAZ.FW_LBA_LO : Nat := 0x44048
abbrev Reg.HAZ.FW_LBA_HI : Nat := 0x4404C
abbrev Reg.HAZ.FW_COUNT : Nat := 0x44050
abbrev Reg.HAZ.FW_CMD : Nat := 0x44054
abbrev Reg.HAZ.FW_RESULT : Nat := 0x44058
abbrev Reg.HAZ.WIN_SEL : Nat := 0x4405C
abbrev Reg.HAZ.WIN (i : Nat) : Nat := 0x44060 + 4 * i
abbrev Reg.HAZ.WAIT_COUNT : Nat := 0x44070

/-! ### PWR -/

abbrev Reg.PWR.FENCE : Nat := 0x01040
abbrev Reg.PWR.MODE : Nat := 0x01044
abbrev Reg.PWR.MODE_TARGET : Nat := 0x01048
abbrev Reg.PWR.MODE_RESULT : Nat := 0x0104C
abbrev Reg.PWR.IDLE_CFG : Nat := 0x01050
abbrev Reg.PWR.IDLE_T0 : Nat := 0x01054
abbrev Reg.PWR.IDLE_T1 : Nat := 0x01058
abbrev Reg.PWR.IDLE_T2 : Nat := 0x0105C
abbrev Reg.PWR.SUPPLY_CFG : Nat := 0x01060
abbrev Reg.PWR.SUPPLY_CFG2 : Nat := 0x01064
abbrev Reg.PWR.SUPPLY_V : Nat := 0x01068
abbrev Reg.PWR.PWR_STATUS : Nat := 0x0106C
abbrev Reg.PWR.DOMAINS : Nat := 0x01070
abbrev Reg.PWR.RESUME_VEC_LO : Nat := 0x01074
abbrev Reg.PWR.RESUME_VEC_HI : Nat := 0x01078
abbrev Reg.PWR.SAVED_TARGET : Nat := 0x0107C
abbrev Reg.PWR.RESUME_HEADS : Nat := 0x01080
abbrev Reg.PWR.DUMP_COST : Nat := 0x01084
abbrev Reg.PWR.COVER : Nat := 0x01088
abbrev Reg.PWR.WB_CFG : Nat := 0x0108C
abbrev Reg.PWR.EXIT_ADV_I1 : Nat := 0x01090
abbrev Reg.PWR.EXIT_ADV_I2 : Nat := 0x01094
abbrev Reg.PWR.EXIT_ADV_I3 : Nat := 0x01098
abbrev Reg.PWR.EXIT_ADV_S1 : Nat := 0x0109C
abbrev Reg.PWR.EXIT_ADV_S2 : Nat := 0x010A0
abbrev Reg.PWR.EXIT_MAX_I1 : Nat := 0x010B0
abbrev Reg.PWR.EXIT_MAX_I2 : Nat := 0x010B4
abbrev Reg.PWR.EXIT_MAX_I3 : Nat := 0x010B8
abbrev Reg.PWR.EXIT_MAX_S1 : Nat := 0x010BC
abbrev Reg.PWR.EXIT_MAX_S2 : Nat := 0x010C0
abbrev Reg.PWR.DOMAIN_REQ : Nat := 0x010C4
abbrev Reg.PWR.CTX_BASE_LO : Nat := 0x010C8
abbrev Reg.PWR.CTX_BASE_HI : Nat := 0x010CC

/-! ### SAFE -/

abbrev Reg.SAFE.AREA_A : Nat := 0x91040
abbrev Reg.SAFE.AREA_B : Nat := 0x91044
abbrev Reg.SAFE.ACTIVE : Nat := 0x91048
abbrev Reg.SAFE.DUMP_STATE : Nat := 0x9104C
abbrev Reg.SAFE.AREA_SIZE : Nat := 0x91050
abbrev Reg.SAFE.CMD : Nat := 0x91054
abbrev Reg.SAFE.CMD_RESULT : Nat := 0x91058
abbrev Reg.SAFE.HEALTH_STATUS : Nat := 0x9105C
abbrev Reg.SAFE.HEALTH_CFG : Nat := 0x91060
abbrev Reg.SAFE.NAND_INFO : Nat := 0x91064
abbrev Reg.SAFE.DTAB_BASE_LO : Nat := 0x91068
abbrev Reg.SAFE.DTAB_BASE_HI : Nat := 0x9106C
abbrev Reg.SAFE.INFLIGHT_BASE_LO : Nat := 0x91070
abbrev Reg.SAFE.INFLIGHT_BASE_HI : Nat := 0x91074
abbrev Reg.SAFE.DUMP_LAST_MS : Nat := 0x91078
abbrev Reg.SAFE.DUMP_LAST_MIB : Nat := 0x9107C
abbrev Reg.SAFE.RESTORE_POISONED : Nat := 0x91080
abbrev Reg.SAFE.DIR_SEL : Nat := 0x91084
abbrev Reg.SAFE.DIR_WIN (i : Nat) : Nat := 0x91090 + 4 * i
abbrev Reg.SAFE.CRIT_WIN (i : Nat) : Nat := 0x910C0 + 4 * i

/-! ### COX -/

abbrev Reg.COX.FENCE : Nat := 0x10040
abbrev Reg.COX.BOOT_STATUS : Nat := 0x10044
abbrev Reg.COX.FW_IMAGE : Nat := 0x10048
abbrev Reg.COX.STROKE_CTRL : Nat := 0x1004C
abbrev Reg.COX.RESET_VEC_LO : Nat := 0x10050
abbrev Reg.COX.RESET_VEC_HI : Nat := 0x10054
abbrev Reg.COX.FLASH_CTRL : Nat := 0x10058
abbrev Reg.COX.SEC_STATUS : Nat := 0x1005C
abbrev Reg.COX.SERIAL_LO : Nat := 0x10060
abbrev Reg.COX.SERIAL_HI : Nat := 0x10064
abbrev Reg.COX.LOG_COUNT : Nat := 0x10068
abbrev Reg.COX.ID_PUB (i : Nat) : Nat := 0x10080 + 4 * i
abbrev Reg.COX.LOG_SEL : Nat := 0x10100
abbrev Reg.COX.LOG_WIN (i : Nat) : Nat := 0x10140 + 4 * i

/-! ### KEYS -/

abbrev Reg.KEYS.CMD : Nat := 0x7A040
abbrev Reg.KEYS.CMD_RESULT : Nat := 0x7A044
abbrev Reg.KEYS.SRC_LO : Nat := 0x7A048
abbrev Reg.KEYS.SRC_HI : Nat := 0x7A04C
abbrev Reg.KEYS.DST_LO : Nat := 0x7A050
abbrev Reg.KEYS.DST_HI : Nat := 0x7A054
abbrev Reg.KEYS.SEL_LO : Nat := 0x7A058
abbrev Reg.KEYS.SEL_HI : Nat := 0x7A05C
abbrev Reg.KEYS.SLOT_STATE (i : Nat) : Nat := 0x7A060 + 4 * i
abbrev Reg.KEYS.KEY_COUNT : Nat := 0x7A070

/-! ### UMP -/

abbrev Reg.UMP.UMP_CTRL : Nat := 0x80040
abbrev Reg.UMP.UMP_STATUS : Nat := 0x80044
abbrev Reg.UMP.REPEAT_WINDOW : Nat := 0x80048
abbrev Reg.UMP.FROZEN_COUNT : Nat := 0x8004C
abbrev Reg.UMP.LOST_COUNT : Nat := 0x80050
abbrev Reg.UMP.CURSOR : Nat := 0x80054
abbrev Reg.UMP.MEDIA_PTR : Nat := 0x80058
abbrev Reg.UMP.MEDIA_SEQ : Nat := 0x8005C
abbrev Reg.UMP.COPY_ADDR_LO : Nat := 0x80060
abbrev Reg.UMP.COPY_ADDR_HI : Nat := 0x80064
abbrev Reg.UMP.COPY_THRESH : Nat := 0x80068
abbrev Reg.UMP.SAVE_ADDR_LO : Nat := 0x8006C
abbrev Reg.UMP.SAVE_ADDR_HI : Nat := 0x80070
abbrev Reg.UMP.FREEZE_MAX : Nat := 0x80074
abbrev Reg.UMP.WIN (i : Nat) : Nat := 0x80080 + 4 * i

/-! ### DBG -/

abbrev Reg.DBG.CERT_CTRL : Nat := 0x81040
abbrev Reg.DBG.CERT_STATUS : Nat := 0x81044
abbrev Reg.DBG.ENG_SEL : Nat := 0x81048
abbrev Reg.DBG.ENG_CTRL : Nat := 0x8104C
abbrev Reg.DBG.ENG_STATUS : Nat := 0x81050
abbrev Reg.DBG.ENG_PC_LO : Nat := 0x81054
abbrev Reg.DBG.ENG_PC_HI : Nat := 0x81058
abbrev Reg.DBG.REG_SEL : Nat := 0x8105C
abbrev Reg.DBG.REG_DATA_LO : Nat := 0x81060
abbrev Reg.DBG.REG_DATA_HI : Nat := 0x81064
abbrev Reg.DBG.BP0_LO : Nat := 0x81070
abbrev Reg.DBG.BP0_HI : Nat := 0x81074
abbrev Reg.DBG.BP1_LO : Nat := 0x81078
abbrev Reg.DBG.BP1_HI : Nat := 0x8107C
abbrev Reg.DBG.BP2_LO : Nat := 0x81080
abbrev Reg.DBG.BP2_HI : Nat := 0x81084
abbrev Reg.DBG.BP3_LO : Nat := 0x81088
abbrev Reg.DBG.BP3_HI : Nat := 0x8108C
abbrev Reg.DBG.MEM_ADDR_LO : Nat := 0x81090
abbrev Reg.DBG.MEM_ADDR_HI : Nat := 0x81094
abbrev Reg.DBG.MEM_DATA : Nat := 0x81098
abbrev Reg.DBG.MEM_CTRL : Nat := 0x8109C
abbrev Reg.DBG.CHAL (i : Nat) : Nat := 0x810A0 + 4 * i
abbrev Reg.DBG.CERT (i : Nat) : Nat := 0x81100 + 4 * i

/-! ### ATB -/

abbrev Reg.ATB.ATB0_SEL : Nat := 0x82040
abbrev Reg.ATB.ATB1_SEL : Nat := 0x82044
abbrev Reg.ATB.ATB_STATUS : Nat := 0x82048

/-! ### CRYPTO -/

abbrev Reg.CRYPTO.SECTORS_ENC (p : Nat) : Nat := (0x078 + p) * 0x1000 + 0x040
abbrev Reg.CRYPTO.SECTORS_DEC (p : Nat) : Nat := (0x078 + p) * 0x1000 + 0x044
abbrev Reg.CRYPTO.KEY_ENDED (p : Nat) : Nat := (0x078 + p) * 0x1000 + 0x048

/-! ### Register maps -/

/-- Register map of CLAIM, part 1. -/
def rows_claim0 : List RegRow := [
  ⟨0x040, 1, .wo, 0x00000000#32, 0x00000000#32, []⟩,
  ⟨0x044, 1, .ro, 0x00000000#32, 0x00000000#32, []⟩,
  ⟨0x048, 1, .w1c, 0x00000000#32, 0x0000FFFF#32, []⟩,
  ⟨0x080, 8, .ro, 0x00000000#32, 0x00000000#32, []⟩]

/-- Register map of CLAIM (R53). -/
def rows_claim : List RegRow := rows_claim0

/-- Register map of SYS, part 1. -/
def rows_sys0 : List RegRow := [
  ⟨0x040, 1, .wo, 0x00000000#32, 0x00000000#32, []⟩,
  ⟨0x044, 1, .rwt, 0x00000000#32, 0x00000000#32, []⟩,
  ⟨0x048, 1, .rwt, 0x00000000#32, 0x00000000#32, []⟩,
  ⟨0x04C, 1, .rwl, 0x00000000#32, 0x00000001#32, []⟩,
  ⟨0x050, 1, .ro, 0x00000000#32, 0x00000000#32, []⟩,
  ⟨0x054, 1, .ro, 0x00000000#32, 0x00000000#32, []⟩,
  ⟨0x058, 1, .ro, 0x00000000#32, 0x00000000#32, []⟩,
  ⟨0x05C, 1, .ro, 0x00000000#32, 0x00000000#32, []⟩,
  ⟨0x060, 1, .ro, 0x00000000#32, 0x00000000#32, []⟩,
  ⟨0x064, 1, .w1c, 0x00000000#32, 0xFFFFFFFF#32, []⟩,
  ⟨0x068, 1, .ro, 0x00000000#32, 0x00000000#32, []⟩,
  ⟨0x100, 1, .rwt, 0x0000001E#32, 0x00000000#32, []⟩,
  ⟨0x104, 1, .rw, 0x00000001#32, 0x00000001#32, []⟩,
  ⟨0x108, 1, .ro, 0x00000000#32, 0x00000000#32, []⟩,
  ⟨0x10C, 1, .w1c, 0x00000000#32, 0xFFFFFFFF#32, []⟩,
  ⟨0x110, 1, .ro, 0x00000000#32, 0x00000000#32, []⟩,
  ⟨0x120, 1, .ro, 0x00000000#32, 0x00000000#32, []⟩,
  ⟨0x124, 1, .ro, 0x00000000#32, 0x00000000#32, []⟩,
  ⟨0x128, 1, .ro, 0x00000000#32, 0x00000000#32, []⟩,
  ⟨0x12C, 1, .ro, 0x00000000#32, 0x00000000#32, []⟩,
  ⟨0x130, 1, .ro, 0x00000000#32, 0x00000000#32, []⟩,
  ⟨0x140, 1, .rw, 0x00400100#32, 0xFFFFFFFF#32, []⟩,
  ⟨0x144, 1, .rw, 0x00000040#32, 0xFFFFFFFF#32, []⟩,
  ⟨0x148, 1, .rw, 0x01000400#32, 0xFFFFFFFF#32, []⟩]

/-- Register map of SYS, part 2. -/
def rows_sys1 : List RegRow := [
  ⟨0x14C, 1, .rw, 0x01000100#32, 0xFFFFFFFF#32, []⟩,
  ⟨0x150, 1, .rw, 0x01000080#32, 0xFFFFFFFF#32, []⟩,
  ⟨0x154, 1, .rw, 0x00200040#32, 0xFFFFFFFF#32, []⟩]

/-- Register map of SYS (R450, R54). -/
def rows_sys : List RegRow := rows_sys0 ++ rows_sys1

/-- Register map of CLK, part 1. -/
def rows_clk0 : List RegRow := [
  ⟨0x040, 1, .ro, 0x00000000#32, 0x00000000#32, []⟩,
  ⟨0x044, 1, .ro, 0x00000001#32, 0x00000000#32, []⟩,
  ⟨0x048, 1, .w1c, 0x00000000#32, 0xFFFFFFFF#32, []⟩,
  ⟨0x080, 26, .ro, 0x00000000#32, 0x00000000#32, []⟩]

/-- Register map of CLK (R56). -/
def rows_clk : List RegRow := rows_clk0

/-- Register map of STROKE, part 1. -/
def rows_stroke0 : List RegRow := [
  ⟨0x040, 1, .w1s, 0x00000000#32, 0x00000000#32, []⟩,
  ⟨0x044, 1, .ro, 0x00000000#32, 0x00000000#32, []⟩,
  ⟨0x048, 1, .rw, 0x00000000#32, 0x00000001#32, []⟩,
  ⟨0x04C, 1, .rw, 0xFFFFFFFF#32, 0xFFFFFFFF#32, []⟩,
  ⟨0x050, 1, .rw, 0xFFFFFFFF#32, 0xFFFFFFFF#32, []⟩,
  ⟨0x054, 1, .rw, 0x00000000#32, 0x0000FFFF#32, []⟩,
  ⟨0x058, 1, .wo, 0x00000000#32, 0x00000000#32, []⟩,
  ⟨0x05C, 1, .w1c, 0x00000000#32, 0xFFFFFFFF#32, []⟩,
  ⟨0x060, 1, .w1c, 0x00000000#32, 0xFFFFFFFF#32, []⟩,
  ⟨0x064, 1, .ro, 0x00000000#32, 0x00000000#32, []⟩,
  ⟨0x068, 1, .ro, 0x00000000#32, 0x00000000#32, []⟩]

/-- Register map of STROKE (R57). -/
def rows_stroke : List RegRow := rows_stroke0

/-- Register map of EVF, part 1. -/
def rows_evf0 : List RegRow := [
  ⟨0x040, 1, .rw, 0x0000003F#32, 0x0000003F#32, []⟩]

/-- Register map of EVF (R65). -/
def rows_evf : List RegRow := rows_evf0

/-- Register map of CRIT, part 1. -/
def rows_crit0 : List RegRow := [
  ⟨0x040, 1, .ro, 0x00000000#32, 0x00000000#32, []⟩,
  ⟨0x044, 1, .w1c, 0x00000000#32, 0xFFFFFFFF#32, []⟩,
  ⟨0x048, 1, .w1c, 0x00000000#32, 0xFFFFFFFF#32, []⟩,
  ⟨0x04C, 1, .rw, 0x00000001#32, 0x00000001#32, []⟩,
  ⟨0x080, 32, .rwt, 0x00000000#32, 0x00000000#32, []⟩]

/-- Register map of CRIT (R90). -/
def rows_crit : List RegRow := rows_crit0

/-- Register map of Q, part 1. -/
def rows_q0 : List RegRow := [
  ⟨0x000, 1, .rwl, 0x00000000#32, 0x0001FFFF#32, [⟨15, 0, 1, 65535, 1, 65535⟩]⟩,
  ⟨0x004, 1, .ro, 0x00020000#32, 0x00000000#32, []⟩,
  ⟨0x008, 1, .ro, 0x00000000#32, 0x00000000#32, []⟩,
  ⟨0x00C, 1, .w1s, 0x00000000#32, 0x00000000#32, []⟩,
  ⟨0x010, 1, .ro, 0x00000000#32, 0x00000000#32, []⟩,
  ⟨0x014, 1, .rw, 0x00000000#32, 0x000007FF#32, []⟩,
  ⟨0x018, 1, .w1c, 0x00000000#32, 0xFFFFFFFF#32, []⟩,
  ⟨0x01C, 1, .w1c, 0x00000000#32, 0xFFFFFFFF#32, []⟩,
  ⟨0x020, 1, .ro, 0x00000000#32, 0x00000000#32, []⟩,
  ⟨0x024, 1, .wo, 0x00000000#32, 0x00000000#32, []⟩,
  ⟨0x040, 16, .rw, 0x00000000#32, 0xFFFFFFFF#32, []⟩]

/-- Register map of Q (R103). -/
def rows_q : List RegRow := rows_q0

/-- Register map of KEEL, part 1. -/
def rows_keel0 : List RegRow := [
  ⟨0x040, 1, .w1s, 0x00000000#32, 0x00000000#32, []⟩,
  ⟨0x044, 1, .wo, 0x00000000#32, 0x00000000#32, []⟩,
  ⟨0x048, 1, .rwt, 0x00000000#32, 0x00000000#32, []⟩,
  ⟨0x04C, 1, .rwt, 0x00000000#32, 0x00000000#32, []⟩,
  ⟨0x050, 1, .rw, 0x00000004#32, 0x00000FFF#32, [⟨11, 2, 1, 640, 1, 1⟩]⟩,
  ⟨0x054, 1, .rw, 0x00000000#32, 0xFFFFFC00#32, [⟨31, 22, 0, 639, 0, 639⟩]⟩,
  ⟨0x058, 1, .rw, 0x405000C8#32, 0xFFFF3FFF#32, [⟨13, 0, 1, 16383, 1, 16383⟩, ⟨23, 16, 1, 255, 1, 255⟩, ⟨31, 24, 1, 255, 1, 255⟩]⟩,
  ⟨0x05C, 1, .rwl, 0x00000A28#32, 0x0000FF7F#32, [⟨6, 0, 20, 80, 20, 80⟩, ⟨15, 8, 5, 50, 5, 50⟩]⟩,
  ⟨0x060, 1, .rw, 0x07D009C4#32, 0xFFFFFFFF#32, [⟨15, 0, 500, 4000, 500, 4000⟩, ⟨31, 16, 200, 4000, 200, 4000⟩]⟩,
  ⟨0x064, 1, .rw, 0x0028012C#32, 0x00FF0FFF#32, [⟨11, 0, 100, 1000, 100, 1000⟩, ⟨23, 16, 1, 255, 1, 255⟩]⟩,
  ⟨0x068, 1, .rwl, 0x00000000#32, 0x0000FFFF#32, []⟩,
  ⟨0x06C, 1, .rwl, 0x00000000#32, 0x0000FFFF#32, []⟩,
  ⟨0x070, 1, .rwl, 0x00040000#32, 0x000FFFFF#32, []⟩,
  ⟨0x074, 1, .rw, 0x03E800C8#32, 0x0FFF0FFF#32, [⟨11, 0, 20, 4000, 20, 4000⟩, ⟨27, 16, 500, 4000, 500, 4000⟩]⟩,
  ⟨0x078, 1, .rw, 0x012C0258#32, 0x0FFFFFFF#32, [⟨15, 0, 50, 3000, 50, 3000⟩, ⟨27, 16, 100, 1000, 100, 1000⟩]⟩,
  ⟨0x07C, 1, .rw, 0x000005DC#32, 0x0000FFFF#32, [⟨15, 0, 500, 3000, 500, 3000⟩]⟩,
  ⟨0x080, 1, .rw, 0x09C42EE0#32, 0x0FFFFFFF#32, [⟨15, 0, 10000, 13000, 10000, 13000⟩, ⟨27, 16, 1500, 4000, 1500, 4000⟩]⟩,
  ⟨0x084, 1, .rw, 0x09C4004B#32, 0xFFFF007F#32, [⟨6, 0, 50, 90, 50, 90⟩]⟩,
  ⟨0x088, 1, .rw, 0x000009C4#32, 0x0000FFFF#32, []⟩,
  ⟨0x08C, 1, .rwl, 0x00000000#32, 0xFFFFFFFF#32, []⟩,
  ⟨0x090, 1, .ro, 0x00000000#32, 0x00000000#32, []⟩,
  ⟨0x094, 1, .ro, 0x00000000#32, 0x00000000#32, []⟩,
  ⟨0x098, 1, .ro, 0x00000000#32, 0x00000000#32, []⟩,
  ⟨0x09C, 1, .ro, 0x00000000#32, 0x00000000#32, []⟩]

/-- Register map of KEEL, part 2. -/
def rows_keel1 : List RegRow := [
  ⟨0x0A0, 1, .ro, 0x00000000#32, 0x00000000#32, []⟩,
  ⟨0x0A4, 1, .ro, 0x00000000#32, 0x00000000#32, []⟩,
  ⟨0x0A8, 1, .w1c, 0x00000000#32, 0xFFFFFFFF#32, []⟩,
  ⟨0x0AC, 1, .w1c, 0x00000000#32, 0xFFFFFFFF#32, []⟩,
  ⟨0x0B0, 1, .rw, 0x00000096#32, 0x00070FFF#32, [⟨11, 0, 20, 2000, 20, 2000⟩, ⟨18, 16, 0, 4, 0, 0⟩]⟩,
  ⟨0x0B4, 1, .rw, 0x000A555C#32, 0x00FF7F7F#32, [⟨6, 0, 50, 100, 50, 100⟩, ⟨23, 16, 1, 255, 1, 255⟩]⟩,
  ⟨0x0C0, 16, .rw, 0x00000000#32, 0x0FFFFFFF#32, []⟩]

/-- Register map of KEEL (R142). -/
def rows_keel : List RegRow := rows_keel0 ++ rows_keel1

/-- Register map of DRV, part 1. -/
def rows_drv0 : List RegRow := [
  ⟨0x040, 1, .rwt, 0x00003390#32, 0x00000000#32, []⟩,
  ⟨0x044, 1, .rwt, 0x00003520#32, 0x00000000#32, []⟩,
  ⟨0x048, 1, .rwt, 0x00003A98#32, 0x00000000#32, []⟩,
  ⟨0x04C, 1, .ro, 0x00000000#32, 0x00000000#32, []⟩,
  ⟨0x050, 1, .rwl, 0x001401F4#32, 0x00FFFFFF#32, [⟨15, 0, 100, 5000, 100, 5000⟩, ⟨23, 16, 5, 50, 5, 50⟩]⟩,
  ⟨0x054, 1, .ro, 0x00000000#32, 0x00000000#32, []⟩,
  ⟨0x058, 1, .wo, 0x00000000#32, 0x00000000#32, []⟩,
  ⟨0x05C, 1, .ro, 0x00000000#32, 0x00000000#32, []⟩,
  ⟨0x060, 4, .rwl, 0x00000000#32, 0x0000FFFF#32, []⟩,
  ⟨0x070, 1, .ro, 0x00000000#32, 0x00000000#32, []⟩]

/-- Register map of DRV (R143). -/
def rows_drv : List RegRow := rows_drv0

/-- Register map of PRE, part 1. -/
def rows_pre0 : List RegRow := [
  ⟨0x040, 1, .rw, 0x00000010#32, 0x0000007F#32, [⟨6, 0, 4, 64, 4, 64⟩]⟩,
  ⟨0x044, 1, .wo, 0x00000000#32, 0x00000000#32, []⟩,
  ⟨0x048, 1, .rw, 0x00000000#32, 0xFFFFFFFF#32, []⟩,
  ⟨0x04C, 1, .ro, 0x00000000#32, 0x00000000#32, []⟩,
  ⟨0x050, 1, .ro, 0x00000000#32, 0x00000000#32, []⟩,
  ⟨0x054, 1, .ro, 0x00000000#32, 0x00000000#32, []⟩,
  ⟨0x058, 1, .ro, 0x00000000#32, 0x00000000#32, []⟩,
  ⟨0x05C, 1, .w1c, 0x00000000#32, 0x0000FFFF#32, []⟩,
  ⟨0x080, 11, .ro, 0x00000000#32, 0x00000000#32, []⟩]

/-- Register map of PRE (R168). -/
def rows_pre : List RegRow := rows_pre0

/-- Register map of HDA, part 1. -/
def rows_hda0 : List RegRow := [
  ⟨0x040, 1, .wo, 0x00000000#32, 0x00000000#32, []⟩,
  ⟨0x044, 1, .rwt, 0x00000000#32, 0x00000000#32, []⟩,
  ⟨0x048, 1, .ro, 0x00000000#32, 0x00000000#32, []⟩,
  ⟨0x04C, 1, .ro, 0x00000000#32, 0x00000000#32, []⟩,
  ⟨0x050, 1, .ro, 0x00000000#32, 0x00000000#32, []⟩,
  ⟨0x054, 1, .ro, 0x00000000#32, 0x00000000#32, []⟩,
  ⟨0x058, 1, .ro, 0x00000000#32, 0x00000000#32, []⟩]

/-- Register map of HDA (R169). -/
def rows_hda : List RegRow := rows_hda0

/-- Register map of CAL, part 1. -/
def rows_cal0 : List RegRow := [
  ⟨0x040, 1, .wo, 0x00000000#32, 0x00000000#32, []⟩,
  ⟨0x044, 1, .rw, 0x00000000#32, 0xFFFFFFC0#32, []⟩,
  ⟨0x048, 1, .rw, 0x00000000#32, 0xFFFFFFFF#32, []⟩,
  ⟨0x04C, 1, .rw, 0x00000000#32, 0x000007FF#32, [⟨10, 0, 1, 1536, 1, 1536⟩]⟩,
  ⟨0x050, 1, .rw, 0x012C3032#32, 0xFFFFFFFF#32, []⟩,
  ⟨0x054, 1, .rw, 0x03E80096#32, 0xFFFF00FF#32, []⟩,
  ⟨0x058, 1, .ro, 0x00000000#32, 0x00000000#32, []⟩,
  ⟨0x05C, 1, .ro, 0x00000000#32, 0x00000000#32, []⟩,
  ⟨0x060, 1, .ro, 0x00000000#32, 0x00000000#32, []⟩,
  ⟨0x064, 1, .ro, 0x00000000#32, 0x00000000#32, []⟩,
  ⟨0x068, 1, .ro, 0x00000000#32, 0x00000000#32, []⟩,
  ⟨0x06C, 1, .rw, 0x00000000#32, 0x0FFF0FFF#32, []⟩,
  ⟨0x070, 4, .rw, 0x00000000#32, 0xFFFFFFFF#32, []⟩,
  ⟨0x080, 1, .rw, 0x00000000#32, 0x000007FF#32, []⟩,
  ⟨0x0C0, 16, .ro, 0x00000000#32, 0x00000000#32, []⟩]

/-- Register map of CAL (R170). -/
def rows_cal : List RegRow := rows_cal0

/-- Register map of RUDDER, part 1. -/
def rows_rudder0 : List RegRow := [
  ⟨0x040, 1, .w1s, 0x00000000#32, 0x00000000#32, []⟩,
  ⟨0x044, 1, .wo, 0x00000000#32, 0x00000000#32, []⟩,
  ⟨0x048, 1, .rw, 0x00000000#32, 0x00FFFFFF#32, []⟩,
  ⟨0x04C, 1, .rw, 0x000004B0#32, 0x00000FFF#32, [⟨11, 0, 100, 2000, 100, 2000⟩]⟩,
  ⟨0x050, 1, .rwl, 0x00000000#32, 0xFFFFFFFF#32, []⟩,
  ⟨0x054, 1, .rw, 0x0000121E#32, 0x00001F3F#32, [⟨5, 0, 1, 32, 1, 32⟩, ⟨12, 8, 1, 20, 1, 20⟩]⟩,
  ⟨0x058, 1, .rw, 0x2001019A#32, 0xFF0F0FFF#32, [⟨11, 0, 41, 2048, 41, 2048⟩, ⟨19, 16, 0, 3, 0, 3⟩, ⟨31, 24, 1, 255, 1, 255⟩]⟩,
  ⟨0x05C, 1, .rw, 0x00000333#32, 0x00000FFF#32, [⟨11, 0, 41, 4095, 41, 4095⟩]⟩,
  ⟨0x060, 1, .rw, 0x320400F6#32, 0xFF0F0FFF#32, [⟨11, 0, 41, 2048, 41, 2048⟩, ⟨19, 16, 1, 15, 1, 15⟩, ⟨31, 24, 1, 255, 1, 255⟩]⟩,
  ⟨0x064, 1, .rw, 0x00C801F4#32, 0xFFFFFFFF#32, [⟨15, 0, 50, 2000, 50, 2000⟩, ⟨31, 16, 50, 400, 50, 400⟩]⟩,
  ⟨0x068, 1, .rw, 0x04000008#32, 0x0FFF000F#32, [⟨3, 0, 2, 15, 2, 15⟩, ⟨27, 16, 64, 2048, 64, 2048⟩]⟩,
  ⟨0x06C, 1, .rw, 0x000C00A4#32, 0x000F0FFF#32, [⟨11, 0, 1, 4095, 1, 4095⟩, ⟨19, 16, 8, 15, 8, 15⟩]⟩,
  ⟨0x070, 1, .rw, 0x00000000#32, 0xFFFFFFC0#32, []⟩,
  ⟨0x074, 1, .rw, 0x00000000#32, 0xFFFFFFFF#32, []⟩,
  ⟨0x078, 1, .rw, 0x00000000#32, 0x00000000#32, []⟩,
  ⟨0x07C, 1, .ro, 0x00000000#32, 0x00000000#32, []⟩,
  ⟨0x080, 1, .ro, 0x00000000#32, 0x00000000#32, []⟩,
  ⟨0x084, 1, .ro, 0x00000000#32, 0x00000000#32, []⟩,
  ⟨0x088, 1, .ro, 0x00000000#32, 0x00000000#32, []⟩,
  ⟨0x08C, 1, .ro, 0x00000000#32, 0x00000000#32, []⟩,
  ⟨0x090, 4, .ro, 0x00000000#32, 0x00000000#32, []⟩,
  ⟨0x0A0, 4, .ro, 0x00000000#32, 0x00000000#32, []⟩,
  ⟨0x0B0, 4, .ro, 0x00000000#32, 0x00000000#32, []⟩,
  ⟨0x0C0, 4, .ro, 0x00000000#32, 0x00000000#32, []⟩]

/-- Register map of RUDDER, part 2. -/
def rows_rudder1 : List RegRow := [
  ⟨0x0D0, 1, .w1c, 0x00000000#32, 0xFFFFFFFF#32, []⟩,
  ⟨0x0D4, 1, .w1c, 0x00000000#32, 0xFFFFFFFF#32, []⟩,
  ⟨0x0D8, 1, .w1c, 0x00000000#32, 0xFFFFFFFF#32, []⟩,
  ⟨0x0DC, 1, .w1c, 0x00000000#32, 0xFFFFFFFF#32, []⟩,
  ⟨0x0E0, 1, .ro, 0x00000000#32, 0x00000000#32, []⟩,
  ⟨0x0E4, 1, .ro, 0x00000000#32, 0x00000000#32, []⟩]

/-- Register map of RUDDER (R205). -/
def rows_rudder : List RegRow := rows_rudder0 ++ rows_rudder1

/-- Register map of COUPLE, part 1. -/
def rows_couple0 : List RegRow := [
  ⟨0x040, 1, .rw, 0x0000001F#32, 0x0000001F#32, []⟩,
  ⟨0x044, 1, .ro, 0x00000000#32, 0x00000000#32, []⟩,
  ⟨0x048, 1, .w1c, 0x00000000#32, 0xFFFFFFFF#32, []⟩,
  ⟨0x04C, 1, .rw, 0x01F40800#32, 0x0FFF1FFF#32, [⟨12, 0, 64, 8191, 64, 8191⟩, ⟨27, 16, 10, 4000, 10, 4000⟩]⟩,
  ⟨0x050, 1, .rw, 0x00000000#32, 0x0000000F#32, []⟩,
  ⟨0x054, 1, .ro, 0x00000000#32, 0x00000000#32, []⟩,
  ⟨0x058, 1, .w1c, 0x00000000#32, 0xFFFFFFFF#32, []⟩,
  ⟨0x05C, 1, .ro, 0x00000000#32, 0x00000000#32, []⟩,
  ⟨0x060, 1, .ro, 0x00000000#32, 0x00000000#32, []⟩,
  ⟨0x070, 4, .ro, 0x00000000#32, 0x00000000#32, []⟩]

/-- Register map of COUPLE (R207). -/
def rows_couple : List RegRow := rows_couple0

/-- Register map of TUNE, part 1. -/
def rows_tune0 : List RegRow := [
  ⟨0x100, 1, .rw, 0x00000000#32, 0x00000003#32, [⟨1, 0, 0, 2, 0, 0⟩]⟩,
  ⟨0x104, 1, .ro, 0x00000000#32, 0x00000000#32, []⟩,
  ⟨0x108, 1, .rw, 0x00000000#32, 0xFFFFFFFF#32, []⟩,
  ⟨0x10C, 1, .rw, 0x00000000#32, 0xFFFFFFFF#32, []⟩,
  ⟨0x110, 1, .rw, 0x00000000#32, 0x0000FFFF#32, []⟩,
  ⟨0x114, 1, .rw, 0x00000000#32, 0x00000077#32, []⟩,
  ⟨0x118, 1, .rw, 0x00000000#32, 0xFFFFFFFF#32, []⟩,
  ⟨0x11C, 1, .rw, 0x00000000#32, 0x00003FFF#32, []⟩,
  ⟨0x120, 1, .ro, 0x00004000#32, 0x00000000#32, []⟩,
  ⟨0x124, 1, .ro, 0x00000000#32, 0x00000000#32, []⟩,
  ⟨0x128, 1, .ro, 0x00000000#32, 0x00000000#32, []⟩,
  ⟨0x12C, 1, .ro, 0x00000000#32, 0x00000000#32, []⟩,
  ⟨0x130, 1, .rw, 0x00000000#32, 0x00000337#32, []⟩,
  ⟨0x134, 1, .rw, 0x00000000#32, 0x0000FFFF#32, []⟩,
  ⟨0x138, 1, .rw, 0x00000000#32, 0x00FFFFFF#32, []⟩,
  ⟨0x13C, 1, .rw, 0x00000000#32, 0x00FFFFFF#32, []⟩,
  ⟨0x140, 1, .rw, 0x000003E8#32, 0x0000FFFF#32, [⟨15, 0, 1, 65535, 1, 65535⟩]⟩,
  ⟨0x144, 1, .rw, 0x00000000#32, 0x000001FF#32, []⟩,
  ⟨0x148, 1, .ro, 0x00000000#32, 0x00000000#32, []⟩,
  ⟨0x14C, 1, .rwl, 0x00004000#32, 0x0000FFFF#32, []⟩,
  ⟨0x150, 1, .rwl, 0x00100800#32, 0x00FF3FFF#32, [⟨11, 0, 64, 4095, 64, 4095⟩, ⟨13, 0, 10, 10000, 10, 10000⟩, ⟨23, 16, 1, 255, 1, 255⟩]⟩,
  ⟨0x154, 1, .ro, 0x00000000#32, 0x00000000#32, []⟩,
  ⟨0x180, 1, .rw, 0x00000000#32, 0x000001FF#32, []⟩,
  ⟨0x1C0, 16, .rw, 0x00000000#32, 0xFFFFFFFF#32, []⟩]

/-- Register map of TUNE (R224). -/
def rows_tune : List RegRow := rows_tune0

/-- Register map of OAR, part 1. -/
def rows_oar0 : List RegRow := [
  ⟨0x400, 1, .rw, 0x0000000F#32, 0x0000000F#32, []⟩,
  ⟨0x404, 1, .ro, 0x00000000#32, 0x00000000#32, []⟩,
  ⟨0x408, 1, .rw, 0x00004003#32, 0x0000FF0F#32, [⟨3, 0, 0, 8, 0, 8⟩, ⟨15, 8, 16, 255, 16, 255⟩]⟩,
  ⟨0x40C, 1, .rw, 0x00001018#32, 0x00003F3F#32, [⟨5, 0, 20, 63, 20, 63⟩]⟩,
  ⟨0x410, 1, .rw, 0x00000100#32, 0x00000FFF#32, []⟩,
  ⟨0x414, 1, .rw, 0x00004018#32, 0x0000FF7F#32, [⟨6, 0, 4, 63, 4, 63⟩]⟩,
  ⟨0x418, 1, .rw, 0x00000600#32, 0x00000F01#32, [⟨11, 8, 1, 15, 1, 15⟩]⟩,
  ⟨0x41C, 1, .rw, 0x00000000#32, 0x000000FF#32, []⟩,
  ⟨0x420, 1, .ro, 0x00000000#32, 0x00000000#32, []⟩,
  ⟨0x424, 1, .ro, 0x00000000#32, 0x00000000#32, []⟩,
  ⟨0x428, 1, .w1c, 0x00000000#32, 0xFFFFFFFF#32, []⟩,
  ⟨0x42C, 1, .w1c, 0x00000000#32, 0xFFFFFFFF#32, []⟩,
  ⟨0x430, 1, .w1c, 0x00000000#32, 0xFFFFFFFF#32, []⟩,
  ⟨0x434, 1, .w1c, 0x00000000#32, 0xFFFFFFFF#32, []⟩,
  ⟨0x438, 1, .w1c, 0x00000000#32, 0xFFFFFFFF#32, []⟩,
  ⟨0x500, 1, .w1s, 0x00000000#32, 0x00000000#32, []⟩,
  ⟨0x504, 1, .ro, 0x00000000#32, 0x00000000#32, []⟩,
  ⟨0x508, 1, .rw, 0x00000000#32, 0xFFFFFFC0#32, []⟩,
  ⟨0x50C, 1, .rw, 0x00000000#32, 0xFFFFFFFF#32, []⟩,
  ⟨0x510, 1, .ro, 0x00000000#32, 0x00000000#32, []⟩,
  ⟨0x514, 1, .ro, 0x00000000#32, 0x00000000#32, []⟩,
  ⟨0x518, 1, .rw, 0x00000000#32, 0x000001FF#32, []⟩,
  ⟨0x520, 8, .ro, 0x00000000#32, 0x00000000#32, []⟩,
  ⟨0x040, 1, .rw, 0x00140002#32, 0x00FF000F#32, [⟨3, 0, 1, 4, 1, 4⟩, ⟨23, 16, 5, 100, 5, 100⟩]⟩]

/-- Register map of OAR, part 2. -/
def rows_oar1 : List RegRow := [
  ⟨0x044, 1, .ro, 0x00000000#32, 0x00000000#32, []⟩,
  ⟨0x048, 1, .ro, 0x00000000#32, 0x00000000#32, []⟩,
  ⟨0x04C, 1, .ro, 0x00000000#32, 0x00000000#32, []⟩,
  ⟨0x050, 1, .ro, 0x00000000#32, 0x00000000#32, []⟩,
  ⟨0x054, 1, .rw, 0x00000000#32, 0x00000FFF#32, []⟩,
  ⟨0x058, 1, .rw, 0x00000000#32, 0x000007FF#32, []⟩,
  ⟨0x05C, 1, .ro, 0x00000000#32, 0x00000000#32, []⟩,
  ⟨0x060, 1, .w1c, 0x00000000#32, 0xFFFFFFFF#32, []⟩,
  ⟨0x064, 1, .w1c, 0x00000000#32, 0xFFFFFFFF#32, []⟩,
  ⟨0x068, 1, .w1c, 0x00000000#32, 0xFFFFFFFF#32, []⟩,
  ⟨0x06C, 1, .w1c, 0x00000000#32, 0xFFFFFFFF#32, []⟩,
  ⟨0x070, 1, .w1c, 0x00000000#32, 0xFFFFFFFF#32, []⟩,
  ⟨0x074, 1, .w1c, 0x00000000#32, 0xFFFFFFFF#32, []⟩,
  ⟨0x078, 1, .w1c, 0x00000000#32, 0xFFFFFFFF#32, []⟩,
  ⟨0x080, 1, .rw, 0x00000000#32, 0x00000001#32, []⟩,
  ⟨0x084, 1, .ro, 0x00000000#32, 0x00000000#32, []⟩,
  ⟨0x540, 1, .w1s, 0x00000000#32, 0x00000000#32, []⟩,
  ⟨0x544, 1, .ro, 0x00000000#32, 0x00000000#32, []⟩,
  ⟨0x548, 1, .rw, 0x00000000#32, 0xFFFFFFC0#32, []⟩,
  ⟨0x54C, 1, .rw, 0x00000000#32, 0xFFFFFFFF#32, []⟩,
  ⟨0x550, 4, .wo, 0x00000000#32, 0x00000000#32, []⟩,
  ⟨0x560, 1, .ro, 0x00000000#32, 0x00000000#32, []⟩,
  ⟨0x564, 1, .rw, 0x00000000#32, 0x00000FFF#32, []⟩,
  ⟨0x570, 4, .ro, 0x00000000#32, 0x00000000#32, []⟩]

/-- Register map of OAR (R259, R260, R309). -/
def rows_oar : List RegRow := rows_oar0 ++ rows_oar1

/-- Register map of SWEEP, part 1. -/
def rows_sweep0 : List RegRow := [
  ⟨0x040, 1, .rw, 0x00000FFF#32, 0x00000FFF#32, []⟩,
  ⟨0x044, 1, .rw, 0x0008300C#32, 0x001FFF1F#32, [⟨4, 0, 1, 31, 1, 31⟩, ⟨20, 16, 1, 31, 1, 31⟩]⟩,
  ⟨0x048, 1, .rw, 0x01000008#32, 0x01FF001F#32, [⟨4, 0, 2, 24, 2, 24⟩, ⟨24, 16, 16, 448, 16, 448⟩]⟩,
  ⟨0x04C, 1, .rw, 0x00C80004#32, 0xFFFF000F#32, [⟨3, 0, 0, 11, 0, 11⟩, ⟨31, 16, 10, 65535, 10, 65535⟩]⟩,
  ⟨0x050, 1, .rw, 0x0000CDC3#32, 0x000FFFFF#32, [⟨6, 4, 0, 4, 0, 4⟩, ⟨19, 8, 41, 2048, 41, 2048⟩]⟩,
  ⟨0x054, 1, .rw, 0x000001F4#32, 0x0000FFFF#32, [⟨15, 0, 50, 5000, 50, 5000⟩]⟩,
  ⟨0x058, 1, .rw, 0x00000032#32, 0x000000FF#32, []⟩,
  ⟨0x060, 1, .ro, 0x00000000#32, 0x00000000#32, []⟩,
  ⟨0x064, 1, .rw, 0x00000000#32, 0x000003FF#32, []⟩,
  ⟨0x068, 1, .ro, 0x00000000#32, 0x00000000#32, []⟩,
  ⟨0x080, 1, .w1c, 0x00000000#32, 0xFFFFFFFF#32, []⟩,
  ⟨0x084, 1, .w1c, 0x00000000#32, 0xFFFFFFFF#32, []⟩,
  ⟨0x088, 4, .w1c, 0x00000000#32, 0xFFFFFFFF#32, []⟩,
  ⟨0x098, 1, .w1c, 0x00000000#32, 0xFFFFFFFF#32, []⟩,
  ⟨0x09C, 1, .w1c, 0x00000000#32, 0xFFFFFFFF#32, []⟩,
  ⟨0x0A0, 1, .w1c, 0x00000000#32, 0xFFFFFFFF#32, []⟩,
  ⟨0x0A4, 1, .w1c, 0x00000000#32, 0xFFFFFFFF#32, []⟩,
  ⟨0x0A8, 1, .w1c, 0x00000000#32, 0xFFFFFFFF#32, []⟩,
  ⟨0x0C0, 16, .w1c, 0x00000000#32, 0xFFFFFFFF#32, []⟩,
  ⟨0x100, 12, .w1c, 0x00000000#32, 0xFFFFFFFF#32, []⟩]

/-- Register map of SWEEP (R282). -/
def rows_sweep : List RegRow := rows_sweep0

/-- Register map of UCODE, part 1. -/
def rows_ucode0 : List RegRow := [
  ⟨0x040, 1, .rw, 0x00000000#32, 0x00000007#32, [⟨2, 0, 0, 6, 0, 6⟩]⟩,
  ⟨0x044, 1, .rw, 0x00000000#32, 0x000001FF#32, []⟩,
  ⟨0x048, 4, .rw, 0x00000000#32, 0xFFFFFFFF#32, []⟩,
  ⟨0x058, 1, .w1s, 0x00000000#32, 0x00000000#32, []⟩,
  ⟨0x05C, 1, .ro, 0x00000000#32, 0x00000000#32, []⟩,
  ⟨0x060, 1, .rw, 0x00000000#32, 0xFFFFFFFF#32, []⟩,
  ⟨0x064, 1, .w1c, 0x00000000#32, 0xFFFFFFFF#32, []⟩,
  ⟨0x080, 16, .rw, 0x00000000#32, 0x81FF3FFF#32, []⟩]

/-- Register map of UCODE (R311). -/
def rows_ucode : List RegRow := rows_ucode0

/-- Register map of BOAT, part 1. -/
def rows_boat0 : List RegRow := [
  ⟨0x040, 1, .ro, 0x00000000#32, 0x00000000#32, []⟩,
  ⟨0x044, 1, .ro, 0x00000000#32, 0x00000000#32, []⟩,
  ⟨0x048, 1, .rwt, 0x00000400#32, 0x00000000#32, []⟩,
  ⟨0x04C, 1, .rwt, 0x00000000#32, 0x00000000#32, []⟩,
  ⟨0x050, 1, .ro, 0x00000000#32, 0x00000000#32, []⟩,
  ⟨0x054, 1, .ro, 0x00000000#32, 0x00000000#32, []⟩,
  ⟨0x058, 1, .wo, 0x00000000#32, 0x00000000#32, []⟩,
  ⟨0x05C, 1, .ro, 0x00000000#32, 0x00000000#32, []⟩,
  ⟨0x060, 1, .ro, 0x00000000#32, 0x00000000#32, []⟩,
  ⟨0x064, 1, .ro, 0x00000000#32, 0x00000000#32, []⟩,
  ⟨0x068, 1, .w1c, 0x00000000#32, 0xFFFFFFFF#32, []⟩,
  ⟨0x06C, 1, .w1c, 0x00000000#32, 0xFFFFFFFF#32, []⟩,
  ⟨0x070, 1, .w1c, 0x00000000#32, 0xFFFFFFFF#32, []⟩,
  ⟨0x074, 1, .ro, 0x00000000#32, 0x00000000#32, []⟩,
  ⟨0x078, 1, .ro, 0x00000000#32, 0x00000000#32, []⟩]

/-- Register map of BOAT (R344). -/
def rows_boat : List RegRow := rows_boat0

/-- Register map of CACHE, part 1. -/
def rows_cache0 : List RegRow := [
  ⟨0x040, 1, .rw, 0x00000000#32, 0x0000FFFF#32, []⟩,
  ⟨0x044, 1, .rw, 0x00000000#32, 0x00000017#32, []⟩,
  ⟨0x048, 1, .rw, 0x00000000#32, 0xFFFFFFC0#32, []⟩,
  ⟨0x04C, 1, .rw, 0x00000000#32, 0x000000FF#32, []⟩,
  ⟨0x050, 1, .rw, 0x00000000#32, 0x3FFFFFFF#32, []⟩,
  ⟨0x054, 1, .ro, 0x00000000#32, 0x00000000#32, []⟩,
  ⟨0x058, 1, .ro, 0x00000000#32, 0x00000000#32, []⟩,
  ⟨0x05C, 1, .ro, 0x00000000#32, 0x00000000#32, []⟩,
  ⟨0x060, 1, .ro, 0x00000000#32, 0x00000000#32, []⟩,
  ⟨0x064, 1, .ro, 0x00000000#32, 0x00000000#32, []⟩,
  ⟨0x068, 1, .ro, 0x00000000#32, 0x00000000#32, []⟩,
  ⟨0x06C, 1, .ro, 0x00000000#32, 0x00000000#32, []⟩,
  ⟨0x070, 1, .ro, 0x00000000#32, 0x00000000#32, []⟩,
  ⟨0x074, 1, .ro, 0x00000000#32, 0x00000000#32, []⟩,
  ⟨0x078, 1, .ro, 0x00000000#32, 0x00000000#32, []⟩,
  ⟨0x080, 1, .w1c, 0x00000000#32, 0xFFFFFFFF#32, []⟩,
  ⟨0x084, 1, .w1c, 0x00000000#32, 0xFFFFFFFF#32, []⟩,
  ⟨0x088, 1, .w1c, 0x00000000#32, 0xFFFFFFFF#32, []⟩,
  ⟨0x08C, 1, .w1c, 0x00000000#32, 0xFFFFFFFF#32, []⟩,
  ⟨0x0C0, 1, .rw, 0#32, 0x80FFFFFF#32, []⟩,
  ⟨0x0C4, 1, .rw, 0#32, 0x00FFFFFF#32, []⟩,
  ⟨0x0C8, 1, .rw, 0#32, 0x80FFFFFF#32, []⟩,
  ⟨0x0CC, 1, .rw, 0#32, 0x00FFFFFF#32, []⟩,
  ⟨0x0D0, 1, .rw, 0#32, 0x80FFFFFF#32, []⟩]

/-- Register map of CACHE, part 2. -/
def rows_cache1 : List RegRow := [
  ⟨0x0D4, 1, .rw, 0#32, 0x00FFFFFF#32, []⟩,
  ⟨0x0D8, 1, .rw, 0#32, 0x80FFFFFF#32, []⟩,
  ⟨0x0DC, 1, .rw, 0#32, 0x00FFFFFF#32, []⟩,
  ⟨0x0E0, 1, .rw, 0#32, 0x80FFFFFF#32, []⟩,
  ⟨0x0E4, 1, .rw, 0#32, 0x00FFFFFF#32, []⟩,
  ⟨0x0E8, 1, .rw, 0#32, 0x80FFFFFF#32, []⟩,
  ⟨0x0EC, 1, .rw, 0#32, 0x00FFFFFF#32, []⟩,
  ⟨0x0F0, 1, .rw, 0#32, 0x80FFFFFF#32, []⟩,
  ⟨0x0F4, 1, .rw, 0#32, 0x00FFFFFF#32, []⟩,
  ⟨0x0F8, 1, .rw, 0#32, 0x80FFFFFF#32, []⟩,
  ⟨0x0FC, 1, .rw, 0#32, 0x00FFFFFF#32, []⟩]

/-- Register map of CACHE (R346). -/
def rows_cache : List RegRow := rows_cache0 ++ rows_cache1

/-- Register map of DRAM, part 1. -/
def rows_dram0 : List RegRow := [
  ⟨0x040, 1, .rwl, 0x00000002#32, 0x00000003#32, [⟨1, 0, 0, 2, 0, 2⟩]⟩,
  ⟨0x044, 1, .wo, 0x00000000#32, 0x00000000#32, []⟩,
  ⟨0x048, 1, .ro, 0x00000000#32, 0x00000000#32, []⟩,
  ⟨0x04C, 1, .w1c, 0x00000000#32, 0xFFFFFFFF#32, []⟩,
  ⟨0x050, 1, .w1c, 0x00000000#32, 0xFFFFFFFF#32, []⟩,
  ⟨0x054, 1, .w1c, 0x00000000#32, 0xFFFFFFFF#32, []⟩]

/-- Register map of DRAM (R348). -/
def rows_dram : List RegRow := rows_dram0

/-- Register map of SCRUB, part 1. -/
def rows_scrub0 : List RegRow := [
  ⟨0x040, 1, .rw, 0x000A1401#32, 0x00FFFF01#32, [⟨15, 8, 2, 255, 2, 255⟩, ⟨23, 16, 1, 255, 1, 255⟩]⟩,
  ⟨0x044, 1, .rw, 0x00000E10#32, 0x0000FFFF#32, [⟨15, 0, 60, 65535, 60, 65535⟩]⟩,
  ⟨0x048, 1, .ro, 0x00000000#32, 0x00000000#32, []⟩,
  ⟨0x04C, 1, .ro, 0x00000000#32, 0x00000000#32, []⟩,
  ⟨0x050, 1, .w1c, 0x00000000#32, 0xFFFFFFFF#32, []⟩,
  ⟨0x054, 1, .w1c, 0x00000000#32, 0xFFFFFFFF#32, []⟩,
  ⟨0x058, 1, .w1c, 0x00000000#32, 0xFFFFFFFF#32, []⟩,
  ⟨0x05C, 1, .w1s, 0x00000000#32, 0x00000000#32, []⟩,
  ⟨0x080, 16, .ro, 0x00000000#32, 0x00000000#32, []⟩]

/-- Register map of SCRUB (R350). -/
def rows_scrub : List RegRow := rows_scrub0

/-- Register map of CREW, part 1. -/
def rows_crew0 : List RegRow := [
  ⟨0x040, 1, .ro, 0x00000000#32, 0x00000000#32, []⟩,
  ⟨0x044, 1, .w1c, 0x00000000#32, 0xFFFFFFFF#32, []⟩,
  ⟨0x048, 1, .w1c, 0x00000000#32, 0xFFFFFFFF#32, []⟩,
  ⟨0x04C, 1, .w1c, 0x00000000#32, 0xFFFFFFFF#32, []⟩]

/-- Register map of CREW (R386). -/
def rows_crew : List RegRow := rows_crew0

/-- Register map of CREWG, part 1. -/
def rows_crewg0 : List RegRow := [
  ⟨0x040, 1, .rwl, 0x00000000#32, 0xFFFFFFC0#32, []⟩,
  ⟨0x044, 1, .rwl, 0x00000000#32, 0xFFFFFFFF#32, []⟩,
  ⟨0x048, 1, .rwl, 0x00000000#32, 0xFFFFFFC0#32, []⟩,
  ⟨0x04C, 1, .rwl, 0x00000000#32, 0xFFFFFFFF#32, []⟩,
  ⟨0x050, 1, .rwl, 0x00000040#32, 0x0000FFFF#32, [⟨15, 0, 2, 4096, 2, 4096⟩]⟩,
  ⟨0x054, 1, .rwt, 0x00000000#32, 0x00000000#32, []⟩,
  ⟨0x058, 1, .rwt, 0x00000000#32, 0x00000000#32, []⟩,
  ⟨0x05C, 1, .rwt, 0x00000000#32, 0x00000000#32, []⟩,
  ⟨0x060, 1, .rwl, 0x00001000#32, 0x0001FFFF#32, [⟨16, 0, 256, 65536, 256, 65536⟩]⟩,
  ⟨0x064, 1, .ro, 0x00000000#32, 0x00000000#32, []⟩,
  ⟨0x068, 1, .wo, 0x00000000#32, 0x00000000#32, []⟩,
  ⟨0x06C, 1, .ro, 0x00000000#32, 0x00000000#32, []⟩,
  ⟨0x070, 1, .rw, 0x00000000#32, 0xFFFFFFC0#32, []⟩,
  ⟨0x074, 1, .rw, 0x00000000#32, 0xFFFFFFFF#32, []⟩,
  ⟨0x078, 1, .rw, 0x00000000#32, 0x00FFFFFF#32, []⟩,
  ⟨0x07C, 1, .rw, 0x00020401#32, 0x00071F01#32, [⟨12, 8, 1, 16, 1, 16⟩]⟩,
  ⟨0x080, 1, .rw, 0x01F40001#32, 0xFFFF0001#32, [⟨31, 16, 10, 65535, 10, 65535⟩]⟩,
  ⟨0x084, 1, .ro, 0x00000000#32, 0x00000000#32, []⟩,
  ⟨0x088, 1, .ro, 0x00000000#32, 0x00000000#32, []⟩,
  ⟨0x08C, 1, .ro, 0x00000000#32, 0x00000000#32, []⟩,
  ⟨0x090, 1, .rw, 0x00093A80#32, 0xFFFFFFFF#32, []⟩,
  ⟨0x094, 1, .ro, 0x00000000#32, 0x00000000#32, []⟩,
  ⟨0x098, 1, .ro, 0x00000000#32, 0x00000000#32, []⟩]

/-- Register map of CREWG (R388). -/
def rows_crewg : List RegRow := rows_crewg0

/-- Register map of JRNL, part 1. -/
def rows_jrnl0 : List RegRow := [
  ⟨0x040, 1, .rwt, 0x00000000#32, 0x00000000#32, []⟩,
  ⟨0x044, 1, .rwt, 0x00000000#32, 0x00000000#32, []⟩,
  ⟨0x048, 1, .rwl, 0x00100004#32, 0x007F007F#32, [⟨6, 0, 1, 64, 1, 64⟩, ⟨22, 16, 1, 65, 1, 65⟩]⟩,
  ⟨0x04C, 1, .rw, 0x00000032#32, 0x0000FFFF#32, [⟨15, 0, 1, 10000, 1, 10000⟩]⟩,
  ⟨0x050, 1, .rwl, 0x00000000#32, 0xFFFFFFC0#32, []⟩,
  ⟨0x054, 1, .rwl, 0x00000000#32, 0xFFFFFFFF#32, []⟩,
  ⟨0x058, 1, .wo, 0x00000000#32, 0x00000000#32, []⟩,
  ⟨0x05C, 1, .ro, 0x00000000#32, 0x00000000#32, []⟩,
  ⟨0x060, 1, .ro, 0x00000000#32, 0x00000000#32, []⟩,
  ⟨0x064, 1, .ro, 0x00000000#32, 0x00000000#32, []⟩,
  ⟨0x068, 1, .ro, 0x00000000#32, 0x00000000#32, []⟩,
  ⟨0x06C, 1, .ro, 0x00000000#32, 0x00000000#32, []⟩,
  ⟨0x070, 1, .w1c, 0x00000000#32, 0xFFFFFFFF#32, []⟩]

/-- Register map of JRNL (R390). -/
def rows_jrnl : List RegRow := rows_jrnl0

/-- Register map of SLIP, part 1. -/
def rows_slip0 : List RegRow := [
  ⟨0x040, 1, .rw, 0x04000072#32, 0x07FF0073#32, [⟨1, 0, 0, 2, 0, 2⟩, ⟨26, 16, 64, 1024, 64, 1024⟩]⟩,
  ⟨0x044, 1, .ro, 0x00000000#32, 0x00000000#32, []⟩,
  ⟨0x048, 1, .ro, 0x00000000#32, 0x00000000#32, []⟩,
  ⟨0x04C, 1, .ro, 0x00000000#32, 0x00000000#32, []⟩,
  ⟨0x050, 1, .w1c, 0x00000000#32, 0xFFFFFFFF#32, []⟩,
  ⟨0x054, 1, .w1c, 0x00000000#32, 0xFFFFFFFF#32, []⟩,
  ⟨0x058, 1, .w1c, 0x00000000#32, 0xFFFFFFFF#32, []⟩,
  ⟨0x05C, 1, .w1c, 0x00000000#32, 0xFFFFFFFF#32, []⟩,
  ⟨0x060, 1, .w1c, 0x00000000#32, 0xFFFFFFFF#32, []⟩,
  ⟨0x064, 1, .rw, 0x00000010#32, 0x0000FFFF#32, [⟨15, 0, 1, 65535, 1, 65535⟩]⟩]

/-- Register map of SLIP (R423). -/
def rows_slip : List RegRow := rows_slip0

/-- Register map of SLIPC, part 1. -/
def rows_slipc0 : List RegRow := [
  ⟨0x040, 1, .rwl, 0x00000000#32, 0xFFFFFFFF#32, []⟩,
  ⟨0x044, 1, .rwl, 0x00000000#32, 0xFFFFFFFF#32, []⟩,
  ⟨0x048, 1, .rwl, 0x00000000#32, 0xFFFFFFFF#32, []⟩,
  ⟨0x04C, 1, .rwl, 0x00000000#32, 0xFFFFFFFF#32, []⟩,
  ⟨0x050, 1, .rw, 0x00000000#32, 0x00000003#32, []⟩,
  ⟨0x054, 1, .rw, 0x01004003#32, 0xFFFFFF37#32, [⟨15, 8, 1, 255, 1, 255⟩, ⟨31, 16, 4, 1024, 4, 1024⟩]⟩,
  ⟨0x058, 1, .rw, 0x000007D0#32, 0x0000FFFF#32, []⟩,
  ⟨0x05C, 1, .rwl, 0x00000000#32, 0xFFFF0000#32, []⟩,
  ⟨0x060, 1, .rwl, 0x00000000#32, 0xFFFFFFFF#32, []⟩,
  ⟨0x064, 1, .rwl, 0x00000000#32, 0x0000FFFF#32, []⟩,
  ⟨0x068, 1, .ro, 0x00000000#32, 0x00000000#32, []⟩,
  ⟨0x06C, 1, .rw, 0x00000000#32, 0x0000003F#32, []⟩,
  ⟨0x070, 1, .ro, 0x00000000#32, 0x00000000#32, []⟩,
  ⟨0x074, 1, .ro, 0x00000000#32, 0x00000000#32, []⟩,
  ⟨0x078, 1, .ro, 0x00000000#32, 0x00000000#32, []⟩,
  ⟨0x07C, 1, .wo, 0x00000000#32, 0x00000000#32, []⟩,
  ⟨0x080, 4, .rw, 0x00000000#32, 0xFFFFFFFF#32, []⟩,
  ⟨0x090, 1, .rw, 0x00003200#32, 0x0000FF00#32, [⟨15, 8, 1, 255, 1, 255⟩]⟩,
  ⟨0x094, 1, .w1c, 0x00000000#32, 0xFFFFFFFF#32, []⟩,
  ⟨0x098, 1, .w1c, 0x00000000#32, 0xFFFFFFFF#32, []⟩,
  ⟨0x09C, 1, .w1c, 0x00000000#32, 0xFFFFFFFF#32, []⟩,
  ⟨0x0A0, 1, .ro, 0x00000000#32, 0x00000000#32, []⟩,
  ⟨0x0A4, 1, .ro, 0x00000000#32, 0x00000000#32, []⟩,
  ⟨0x400, 1, .rw, 0x00000000#32, 0x00001FFF#32, []⟩]

/-- Register map of SLIPC, part 2. -/
def rows_slipc1 : List RegRow := [
  ⟨0x404, 1, .rw, 0x00000000#32, 0x00FFFF03#32, []⟩,
  ⟨0x408, 1, .rw, 0x00000000#32, 0xFFFFFFC0#32, []⟩,
  ⟨0x40C, 1, .rw, 0x00000000#32, 0xFFFFFFFF#32, []⟩,
  ⟨0x410, 1, .rw, 0x00000000#32, 0x01FFFFFF#32, []⟩,
  ⟨0x414, 1, .rw, 0x00000000#32, 0xFFFFFFFF#32, []⟩,
  ⟨0x418, 1, .ro, 0x00000000#32, 0x00000000#32, []⟩,
  ⟨0x440, 1, .rw, 0x00000000#32, 0x00001FFF#32, []⟩,
  ⟨0x444, 1, .rw, 0x00000000#32, 0x00FFFF03#32, []⟩,
  ⟨0x448, 1, .rw, 0x00000000#32, 0xFFFFFFC0#32, []⟩,
  ⟨0x44C, 1, .rw, 0x00000000#32, 0xFFFFFFFF#32, []⟩,
  ⟨0x450, 1, .rw, 0x00000000#32, 0x01FFFFFF#32, []⟩,
  ⟨0x454, 1, .rw, 0x00000000#32, 0xFFFFFFFF#32, []⟩,
  ⟨0x458, 1, .ro, 0x00000000#32, 0x00000000#32, []⟩,
  ⟨0x480, 1, .rw, 0x00000000#32, 0x00001FFF#32, []⟩,
  ⟨0x484, 1, .rw, 0x00000000#32, 0x00FFFF03#32, []⟩,
  ⟨0x488, 1, .rw, 0x00000000#32, 0xFFFFFFC0#32, []⟩,
  ⟨0x48C, 1, .rw, 0x00000000#32, 0xFFFFFFFF#32, []⟩,
  ⟨0x490, 1, .rw, 0x00000000#32, 0x01FFFFFF#32, []⟩,
  ⟨0x494, 1, .rw, 0x00000000#32, 0xFFFFFFFF#32, []⟩,
  ⟨0x498, 1, .ro, 0x00000000#32, 0x00000000#32, []⟩,
  ⟨0x4C0, 1, .rw, 0x00000000#32, 0x00001FFF#32, []⟩,
  ⟨0x4C4, 1, .rw, 0x00000000#32, 0x00FFFF03#32, []⟩,
  ⟨0x4C8, 1, .rw, 0x00000000#32, 0xFFFFFFC0#32, []⟩,
  ⟨0x4CC, 1, .rw, 0x00000000#32, 0xFFFFFFFF#32, []⟩]

/-- Register map of SLIPC, part 3. -/
def rows_slipc2 : List RegRow := [
  ⟨0x4D0, 1, .rw, 0x00000000#32, 0x01FFFFFF#32, []⟩,
  ⟨0x4D4, 1, .rw, 0x00000000#32, 0xFFFFFFFF#32, []⟩,
  ⟨0x4D8, 1, .ro, 0x00000000#32, 0x00000000#32, []⟩]

/-- Register map of SLIPC (R425). -/
def rows_slipc : List RegRow := rows_slipc0 ++ rows_slipc1 ++ rows_slipc2

/-- Register map of LUT, part 1. -/
def rows_lut0 : List RegRow := [
  ⟨0x040, 1, .rwt, 0x00000000#32, 0x00000000#32, []⟩,
  ⟨0x044, 1, .rwt, 0x00000000#32, 0x00000000#32, []⟩,
  ⟨0x048, 1, .rwt, 0x00000000#32, 0x00000000#32, []⟩,
  ⟨0x04C, 1, .wo, 0x00000000#32, 0x00000000#32, []⟩,
  ⟨0x050, 1, .ro, 0x00000000#32, 0x00000000#32, []⟩,
  ⟨0x054, 1, .ro, 0x00000000#32, 0x00000000#32, []⟩,
  ⟨0x058, 1, .ro, 0x00000000#32, 0x00000000#32, []⟩,
  ⟨0x05C, 1, .rw, 0x00004000#32, 0x0001FFFF#32, [⟨16, 0, 1, 65536, 1, 65536⟩]⟩,
  ⟨0x060, 1, .ro, 0x00000000#32, 0x00000000#32, []⟩,
  ⟨0x064, 1, .rw, 0x00000000#32, 0x0000003F#32, []⟩,
  ⟨0x080, 16, .ro, 0x00000000#32, 0x00000000#32, []⟩]

/-- Register map of LUT (R427). -/
def rows_lut : List RegRow := rows_lut0

/-- Register map of GATE, part 1. -/
def rows_gate0 : List RegRow := [
  ⟨0x040, 1, .rw, 0x00320240#32, 0xFFFF07FF#32, [⟨7, 0, 1, 255, 1, 255⟩, ⟨10, 8, 1, 4, 1, 4⟩, ⟨31, 16, 1, 65535, 1, 65535⟩]⟩,
  ⟨0x044, 1, .rw, 0x00000460#32, 0x000007FF#32, [⟨10, 8, 1, 4, 1, 4⟩]⟩,
  ⟨0x048, 1, .ro, 0x00000000#32, 0x00000000#32, []⟩,
  ⟨0x04C, 1, .ro, 0x00000000#32, 0x00000000#32, []⟩,
  ⟨0x050, 1, .ro, 0x0000000F#32, 0x00000000#32, []⟩,
  ⟨0x054, 1, .rw, 0x00000000#32, 0xFFFFFFFF#32, []⟩,
  ⟨0x058, 1, .w1c, 0x00000000#32, 0xFFFFFFFF#32, []⟩,
  ⟨0x05C, 1, .w1c, 0x00000000#32, 0xFFFFFFFF#32, []⟩,
  ⟨0x060, 1, .w1c, 0x00000000#32, 0xFFFFFFFF#32, []⟩,
  ⟨0x064, 1, .w1c, 0x00000000#32, 0xFFFFFFFF#32, []⟩,
  ⟨0x080, 16, .rw, 0x00000000#32, 0x0000FFFF#32, []⟩]

/-- Register map of GATE (R451). -/
def rows_gate : List RegRow := rows_gate0

/-- Register map of HAZ, part 1. -/
def rows_haz0 : List RegRow := [
  ⟨0x040, 1, .ro, 0x00000000#32, 0x00000000#32, []⟩,
  ⟨0x044, 1, .rw, 0x00000000#32, 0x00001FFF#32, []⟩,
  ⟨0x048, 1, .rw, 0x00000000#32, 0xFFFFFFFF#32, []⟩,
  ⟨0x04C, 1, .rw, 0x00000000#32, 0xFFFFFFFF#32, []⟩,
  ⟨0x050, 1, .rw, 0x00000000#32, 0xFFFFFFFF#32, []⟩,
  ⟨0x054, 1, .wo, 0x00000000#32, 0x00000000#32, []⟩,
  ⟨0x058, 1, .ro, 0x00000000#32, 0x00000000#32, []⟩,
  ⟨0x05C, 1, .rw, 0x00000000#32, 0x00000FFF#32, []⟩,
  ⟨0x060, 4, .ro, 0x00000000#32, 0x00000000#32, []⟩,
  ⟨0x070, 1, .w1c, 0x00000000#32, 0xFFFFFFFF#32, []⟩]

/-- Register map of HAZ (R453). -/
def rows_haz : List RegRow := rows_haz0

/-- Register map of PWR, part 1. -/
def rows_pwr0 : List RegRow := [
  ⟨0x040, 1, .w1s, 0x00000000#32, 0x00000000#32, []⟩,
  ⟨0x044, 1, .rwt, 0x00000000#32, 0x00000000#32, []⟩,
  ⟨0x048, 1, .rwt, 0x00000000#32, 0x00000000#32, []⟩,
  ⟨0x04C, 1, .ro, 0x00000000#32, 0x00000000#32, []⟩,
  ⟨0x050, 1, .rw, 0x00000003#32, 0x00000003#32, []⟩,
  ⟨0x054, 1, .rw, 0x00000001#32, 0xFFFFFFFF#32, []⟩,
  ⟨0x058, 1, .rw, 0x00000000#32, 0xFFFFFFFF#32, []⟩,
  ⟨0x05C, 1, .rw, 0x00000000#32, 0x0000FFFF#32, []⟩,
  ⟨0x060, 1, .rwl, 0x2A3027D8#32, 0xFFFFFFFF#32, [⟨15, 0, 9600, 11400, 9600, 11400⟩]⟩,
  ⟨0x064, 1, .rwl, 0x128E1194#32, 0xFFFFFFFF#32, [⟨15, 0, 4300, 4750, 4300, 4750⟩]⟩,
  ⟨0x068, 1, .ro, 0x00000000#32, 0x00000000#32, []⟩,
  ⟨0x06C, 1, .ro, 0x00000000#32, 0x00000000#32, []⟩,
  ⟨0x070, 1, .ro, 0x000C0003#32, 0x00000000#32, []⟩,
  ⟨0x074, 1, .rwl, 0x00000000#32, 0xFFFFFFFC#32, []⟩,
  ⟨0x078, 1, .rwl, 0x00000000#32, 0x000000FF#32, []⟩,
  ⟨0x07C, 1, .ro, 0x00000000#32, 0x00000000#32, []⟩,
  ⟨0x080, 1, .rw, 0x00000000#32, 0x0000FFFF#32, []⟩,
  ⟨0x084, 1, .rw, 0x15D80514#32, 0xFFFFFFFF#32, [⟨31, 16, 1000, 65535, 1000, 65535⟩]⟩,
  ⟨0x088, 1, .ro, 0x00000000#32, 0x00000000#32, []⟩,
  ⟨0x08C, 1, .rw, 0x000003E8#32, 0x0000FFFF#32, [⟨15, 0, 1, 65535, 1, 65535⟩]⟩,
  ⟨0x090, 1, .ro, 0x00000032#32, 0x00000000#32, []⟩,
  ⟨0x094, 1, .ro, 0x000927C0#32, 0x00000000#32, []⟩,
  ⟨0x098, 1, .ro, 0x003D0900#32, 0x00000000#32, []⟩,
  ⟨0x09C, 1, .ro, 0x0112A880#32, 0x00000000#32, []⟩]

/-- Register map of PWR, part 2. -/
def rows_pwr1 : List RegRow := [
  ⟨0x0A0, 1, .ro, 0x01312D00#32, 0x00000000#32, []⟩,
  ⟨0x0B0, 1, .rw, 0x00000000#32, 0xFFFFFFFF#32, []⟩,
  ⟨0x0B4, 1, .rw, 0x00000000#32, 0xFFFFFFFF#32, []⟩,
  ⟨0x0B8, 1, .rw, 0x00000000#32, 0xFFFFFFFF#32, []⟩,
  ⟨0x0BC, 1, .rw, 0x00000000#32, 0xFFFFFFFF#32, []⟩,
  ⟨0x0C0, 1, .rw, 0x00000000#32, 0xFFFFFFFF#32, []⟩,
  ⟨0x0C4, 1, .wo, 0x00000000#32, 0x00000000#32, []⟩,
  ⟨0x0C8, 1, .rwl, 0x00000000#32, 0xFFFFF000#32, []⟩,
  ⟨0x0CC, 1, .rwl, 0x00000000#32, 0x000000FF#32, []⟩]

/-- Register map of PWR (R483). -/
def rows_pwr : List RegRow := rows_pwr0 ++ rows_pwr1

/-- Register map of SAFE, part 1. -/
def rows_safe0 : List RegRow := [
  ⟨0x040, 1, .rwt, 0x00000000#32, 0x00000000#32, []⟩,
  ⟨0x044, 1, .rwt, 0x00000000#32, 0x00000000#32, []⟩,
  ⟨0x048, 1, .rwt, 0x00000000#32, 0x00000000#32, []⟩,
  ⟨0x04C, 1, .rwt, 0x00000000#32, 0x00000000#32, []⟩,
  ⟨0x050, 1, .rwl, 0x00000000#32, 0x00FFFFFF#32, []⟩,
  ⟨0x054, 1, .wo, 0x00000000#32, 0x00000000#32, []⟩,
  ⟨0x058, 1, .ro, 0x00000000#32, 0x00000000#32, []⟩,
  ⟨0x05C, 1, .ro, 0x00000000#32, 0x00000000#32, []⟩,
  ⟨0x060, 1, .rw, 0x0000003C#32, 0x0000FFFF#32, [⟨15, 0, 1, 65535, 1, 65535⟩]⟩,
  ⟨0x064, 1, .ro, 0x00000000#32, 0x00000000#32, []⟩,
  ⟨0x068, 1, .rwl, 0x00000000#32, 0xFFFFFFC0#32, []⟩,
  ⟨0x06C, 1, .rwl, 0x00000000#32, 0xFFFFFFFF#32, []⟩,
  ⟨0x070, 1, .rwl, 0x00000000#32, 0xFFFFFFC0#32, []⟩,
  ⟨0x074, 1, .rwl, 0x00000000#32, 0xFFFFFFFF#32, []⟩,
  ⟨0x078, 1, .ro, 0x00000000#32, 0x00000000#32, []⟩,
  ⟨0x07C, 1, .ro, 0x00000000#32, 0x00000000#32, []⟩,
  ⟨0x080, 1, .ro, 0x00000000#32, 0x00000000#32, []⟩,
  ⟨0x084, 1, .rw, 0x00000000#32, 0x00000007#32, []⟩,
  ⟨0x090, 4, .ro, 0x00000000#32, 0x00000000#32, []⟩,
  ⟨0x0C0, 32, .ro, 0x00000000#32, 0x00000000#32, []⟩]

/-- Register map of SAFE (R485). -/
def rows_safe : List RegRow := rows_safe0

/-- Register map of COX, part 1. -/
def rows_cox0 : List RegRow := [
  ⟨0x040, 1, .w1s, 0x00000000#32, 0x00000000#32, []⟩,
  ⟨0x044, 1, .ro, 0x00000000#32, 0x00000000#32, []⟩,
  ⟨0x048, 1, .rwt, 0x00000000#32, 0x00000000#32, []⟩,
  ⟨0x04C, 1, .rw, 0x00000000#32, 0x00000000#32, []⟩,
  ⟨0x050, 1, .rwl, 0x00000000#32, 0xFFFFFFFC#32, []⟩,
  ⟨0x054, 1, .rwl, 0x00000000#32, 0x000000FF#32, []⟩,
  ⟨0x058, 1, .rwl, 0x00000000#32, 0x00000001#32, []⟩,
  ⟨0x05C, 1, .ro, 0x00000000#32, 0x00000000#32, []⟩,
  ⟨0x060, 1, .ro, 0x00000000#32, 0x00000000#32, []⟩,
  ⟨0x064, 1, .ro, 0x00000000#32, 0x00000000#32, []⟩,
  ⟨0x068, 1, .ro, 0x00000000#32, 0x00000000#32, []⟩,
  ⟨0x080, 24, .ro, 0x00000000#32, 0x00000000#32, []⟩,
  ⟨0x100, 1, .rw, 0x00000000#32, 0x0000001F#32, []⟩,
  ⟨0x140, 12, .ro, 0x00000000#32, 0x00000000#32, []⟩]

/-- Register map of COX (R505). -/
def rows_cox : List RegRow := rows_cox0

/-- Register map of KEYS, part 1. -/
def rows_keys0 : List RegRow := [
  ⟨0x040, 1, .wo, 0x00000000#32, 0x00000000#32, []⟩,
  ⟨0x044, 1, .ro, 0x00000000#32, 0x00000000#32, []⟩,
  ⟨0x048, 1, .rw, 0x00000000#32, 0xFFFFFFFF#32, []⟩,
  ⟨0x04C, 1, .rw, 0x00000000#32, 0xFFFFFFFF#32, []⟩,
  ⟨0x050, 1, .rw, 0x00000000#32, 0xFFFFFFFF#32, []⟩,
  ⟨0x054, 1, .rw, 0x00000000#32, 0xFFFFFFFF#32, []⟩,
  ⟨0x058, 1, .rwt, 0x00000000#32, 0x00000000#32, []⟩,
  ⟨0x05C, 1, .rwt, 0x00000000#32, 0x00000000#32, []⟩,
  ⟨0x060, 4, .ro, 0x00000000#32, 0x00000000#32, []⟩,
  ⟨0x070, 1, .ro, 0x00000000#32, 0x00000000#32, []⟩]

/-- Register map of KEYS (R507). -/
def rows_keys : List RegRow := rows_keys0

/-- Register map of UMP, part 1. -/
def rows_ump0 : List RegRow := [
  ⟨0x040, 1, .rw, 0x00000000#32, 0x00000001#32, []⟩,
  ⟨0x044, 1, .ro, 0x00000000#32, 0x00000000#32, []⟩,
  ⟨0x048, 1, .rw, 0x000003E8#32, 0x0000FFFF#32, []⟩,
  ⟨0x04C, 1, .ro, 0x00000000#32, 0x00000000#32, []⟩,
  ⟨0x050, 1, .w1c, 0x00000000#32, 0xFFFFFFFF#32, []⟩,
  ⟨0x054, 1, .rw, 0x00000000#32, 0x000007FF#32, []⟩,
  ⟨0x058, 1, .rwt, 0x00000000#32, 0x00000000#32, []⟩,
  ⟨0x05C, 1, .rwt, 0x00000000#32, 0x00000000#32, []⟩,
  ⟨0x060, 1, .rw, 0x00000000#32, 0xFFFFFFC0#32, []⟩,
  ⟨0x064, 1, .rw, 0x00000000#32, 0xFFFFFFFF#32, []⟩,
  ⟨0x068, 1, .rw, 0x00000400#32, 0x00000FFF#32, [⟨11, 0, 1, 2048, 1, 2048⟩]⟩,
  ⟨0x06C, 1, .rw, 0x00000000#32, 0xFFFFFFC0#32, []⟩,
  ⟨0x070, 1, .rw, 0x00000000#32, 0xFFFFFFFF#32, []⟩,
  ⟨0x074, 1, .rw, 0x00000064#32, 0x0000FFFF#32, [⟨15, 0, 1, 65535, 1, 65535⟩]⟩,
  ⟨0x080, 8, .ro, 0x00000000#32, 0x00000000#32, []⟩]

/-- Register map of UMP (R521). -/
def rows_ump : List RegRow := rows_ump0

/-- Register map of DBG, part 1. -/
def rows_dbg0 : List RegRow := [
  ⟨0x040, 1, .w1s, 0x00000000#32, 0x00000000#32, []⟩,
  ⟨0x044, 1, .ro, 0x00000000#32, 0x00000000#32, []⟩,
  ⟨0x048, 1, .rw, 0x00000000#32, 0x0000003F#32, []⟩,
  ⟨0x04C, 1, .w1s, 0x00000000#32, 0x00000000#32, []⟩,
  ⟨0x050, 1, .ro, 0x00000000#32, 0x00000000#32, []⟩,
  ⟨0x054, 1, .ro, 0x00000000#32, 0x00000000#32, []⟩,
  ⟨0x058, 1, .ro, 0x00000000#32, 0x00000000#32, []⟩,
  ⟨0x05C, 1, .rw, 0x00000000#32, 0x0000003F#32, []⟩,
  ⟨0x060, 1, .rw, 0x00000000#32, 0xFFFFFFFF#32, []⟩,
  ⟨0x064, 1, .rw, 0x00000000#32, 0xFFFFFFFF#32, []⟩,
  ⟨0x070, 1, .rw, 0x00000000#32, 0xFFFFFFFF#32, []⟩,
  ⟨0x074, 1, .rw, 0x00000000#32, 0x000000FF#32, []⟩,
  ⟨0x078, 1, .rw, 0x00000000#32, 0xFFFFFFFF#32, []⟩,
  ⟨0x07C, 1, .rw, 0x00000000#32, 0x000000FF#32, []⟩,
  ⟨0x080, 1, .rw, 0x00000000#32, 0xFFFFFFFF#32, []⟩,
  ⟨0x084, 1, .rw, 0x00000000#32, 0x000000FF#32, []⟩,
  ⟨0x088, 1, .rw, 0x00000000#32, 0xFFFFFFFF#32, []⟩,
  ⟨0x08C, 1, .rw, 0x00000000#32, 0x000000FF#32, []⟩,
  ⟨0x090, 1, .rw, 0x00000000#32, 0xFFFFFFFF#32, []⟩,
  ⟨0x094, 1, .rw, 0x00000000#32, 0xFFFFFFFF#32, []⟩,
  ⟨0x098, 1, .rw, 0x00000000#32, 0xFFFFFFFF#32, []⟩,
  ⟨0x09C, 1, .rw, 0x00000000#32, 0x00000000#32, []⟩,
  ⟨0x0A0, 8, .ro, 0x00000000#32, 0x00000000#32, []⟩,
  ⟨0x100, 64, .wo, 0x00000000#32, 0x00000000#32, []⟩]

/-- Register map of DBG (R531). -/
def rows_dbg : List RegRow := rows_dbg0

/-- Register map of ATB, part 1. -/
def rows_atb0 : List RegRow := [
  ⟨0x040, 1, .rw, 0x00000000#32, 0x00001F3F#32, []⟩,
  ⟨0x044, 1, .rw, 0x00000000#32, 0x00001F3F#32, []⟩,
  ⟨0x048, 1, .ro, 0x00000000#32, 0x00000000#32, []⟩]

/-- Register map of ATB (R536). -/
def rows_atb : List RegRow := rows_atb0

/-- Register map of CRYPTO, part 1. -/
def rows_crypto0 : List RegRow := [
  ⟨0x040, 1, .w1c, 0x00000000#32, 0xFFFFFFFF#32, []⟩,
  ⟨0x044, 1, .w1c, 0x00000000#32, 0xFFFFFFFF#32, []⟩,
  ⟨0x048, 1, .w1c, 0x00000000#32, 0xFFFFFFFF#32, []⟩]

/-- Register map of CRYPTO (R508). -/
def rows_crypto : List RegRow := rows_crypto0

end Sys2Proof
end

