-- ==== Sys2Proof/Machine/State.lean ====
section
/-! DEFINITION. The state of the device: every register, queue, store and mode the spec gives it, as plain data, with its
value right after reset, and the reasons a command can stop. -/

namespace Sys2Proof.Machine

/-- The faults a step can end in. The device reports every error in its own state, so nothing raises one. -/
inductive Fault where
  /-- Raised by no command: the one name that the type needs. Safe. -/
  | unused
  deriving DecidableEq, Repr

/-- The refusals a meaning can end in. -/
inductive Refusal where
  /-- A command whose meaning has not been written. Raised by `exec` alone. Safe. -/
  | notModelled (mnemonic : String)
  deriving DecidableEq, Repr

/-! ### Bus, clocks and firmware processors (chapters 1 and 2) -/

/-- What an access that waits will do: a register write or read, a store or a load of so many bytes. -/
inductive BusOp where
  | write (data : Word)
  | read
  | store (bytes : Nat) (data : BitVec 64)
  | load (bytes : Nat)
  deriving DecidableEq, Repr

/-- An access that has had no completion: its page's clock stands or its domain is in transition, the memory does not serve, or it
waits at its core behind a FENCE.DRAIN or an outstanding register read (R22, R24, R25, R56). -/
structure HeldAccess where
  req : Requester
  addr : Addr
  op : BusOp
  /-- It waits at its core and has not been made yet. -/
  after : Bool
  /-- Time since which it waits. -/
  since : Nat
  /-- What came from outside with it. -/
  out : Outside
  deriving DecidableEq, Repr

/-- The bus: what the last access returned, the 64-bit latches of R39 and the writes not yet acknowledged. -/
structure Bus where
  /-- Data returned by the last read that completed. -/
  data : Word
  /-- The last access ended with a bus error (R25, R37, R38). -/
  error : Bool
  /-- High words latched by a read of the low word, by requester and register (R39). -/
  latches : SMap (Option Word)
  /-- Low words written last, by requester and register (R39). -/
  lowWrites : SMap (Option Word)
  /-- Accesses not yet completed, oldest first (R22, R24, R25). -/
  held : List HeldAccess
  /-- Cores stalled by FENCE.DRAIN (R24). -/
  stalled : List Requester
  deriving DecidableEq, Repr

/-- One firmware processor (R57, R58). -/
structure Stroke where
  /-- The machine timer interrupt line. -/
  timerIrq : Bool
  /-- Time of the last watchdog restart, moved on by the time spent halted (R58). -/
  wdtStart : Nat
  /-- Time at which the debug port halted the core; its watchdog does not count meanwhile (R58). -/
  haltAt : Option Nat
  deriving DecidableEq, Repr

/-- Clock supervision (R56). -/
structure Clocks where
  /-- For a stopped island, the time at which its clock stopped. -/
  stopped : SMap (Option Nat)
  /-- Islands that did not run again within 50 µs. -/
  failed : SMap Bool
  /-- Time of the last REFCLK glitch. -/
  lastGlitch : Option Nat
  /-- For a domain that is switching on or off, the time at which the transition ends (R25). -/
  transit : SMap (Option Nat)
  deriving DecidableEq, Repr

/-! ### Events and critical words (chapter 3) -/

/-- One event message (R61). -/
structure Msg where
  source : Nat
  severity : Nat
  code : Nat
  p0 : Word
  p1 : Word
  p2 : Word
  time : Nat
  /-- 7 for a message that may go to any target; otherwise the full target it must not be queued to (R62). -/
  notTo : Nat
  /-- It was latched while D6 was off or in transition, and travels the always-on path (R66). -/
  aon : Bool
  deriving DecidableEq, Repr

/-- One target queue of the event fabric (R62). -/
structure Target where
  /-- Held messages of severity 0, 2, 3 and 5, oldest first: at most 128. -/
  normal : List Msg
  /-- Held messages of severity 4, oldest first: at most 8. -/
  machine : List Msg
  /-- COUNT_t.DROPPED. -/
  dropped : Nat
  /-- A message was dropped since the queue was last empty. -/
  dropSeen : Bool
  deriving DecidableEq, Repr

/-- One copy of the critical words with its parities (R84). -/
structure CritCopy where
  words : SMap Word
  row : Word
  col : Word
  deriving DecidableEq, Repr

/-- The critical-word store: copies A, B and C, and the words that stand uncorrectable (R84, R87). -/
structure CritStore where
  a : CritCopy
  b : CritCopy
  c : CritCopy
  bad : List Nat
  /-- Time of the last write, and the words written at it (R89). -/
  wroteAt : Nat
  wrote : List Nat
  deriving DecidableEq, Repr

/-! ### Hardware queues (chapter 4) -/

/-- A packet that has become an item (R94): its words, present level, the time it reached that level, its write port. -/
structure QItem where
  words : List Word
  level : Nat
  since : Nat
  port : Nat
  /-- The item is discarded when the marked flush takes effect (R98). -/
  marked : Bool
  /-- Its packet was partial at the flush point (R98, R99). -/
  late : Bool
  /-- It was consumed before a reset and has been pushed again: done once, it does no harm (R100). -/
  dup : Bool
  deriving DecidableEq, Repr

/-- A write port's assembly buffer (R94). -/
structure QPort where
  words : List Word
  /-- The whole packet stands in the port after a refusal FULL. -/
  full : Bool
  /-- The packet stood in the port at the flush point, and was partial then. -/
  marked : Bool
  late : Bool
  deriving DecidableEq, Repr

/-- A hardware queue. COUNT, FULL, EMPTY, FLUSHING, RESETTING and FAULT of Q_STATUS are read off it. -/
structure HwQueue where
  items : List QItem
  ports : SMap QPort
  /-- A flush point is marked; its ports that held a partial. -/
  flush : Option (List Nat)
  /-- Firmware windows: word n of requester code c at 16 c + n (R104). -/
  windows : SMap Word
  /-- Time at which a pointer mismatch began the reset (R100). -/
  resetting : Option Nat
  /-- Q_STATUS.FAULT (R101). -/
  fault : Bool
  /-- A mismatch whose outcome, transient or lasting, is still open (R101). -/
  mismatchOpen : Bool
  /-- Write ports signalled REISSUE and not yet pushed again (R100, R102). -/
  reissue : List Nat
  /-- Packets that the producers will push again once the queue accepts them: port, words, and whether consumed already (R100). -/
  again : List (Nat × List Word × Bool)
  /-- Write ports and TAGs of items discarded once for item parity (R102). -/
  parityTags : List (Nat × Nat)
  /-- Write ports signalled FLUSH_DONE that have not been written since (R99). -/
  flushDone : List Nat
  /-- The item the consumer has popped and not yet acted on. -/
  taken : Option QItem
  partialDrops : Nat
  deriving DecidableEq, Repr

/-- An operation that a flush, a queue fault or an item's parity ended as lasting with cause ENDED (R92, R99, R102). -/
structure EndedOp where
  queue : QueueId
  words : List Word
  port : Nat
  deriving DecidableEq, Repr

/-! ### Keel and the rigger die (chapter 5) -/

/-- The currents of a PWM period as the rigger die measures them, mA: in line in phases U and V, the same from the shunt, the supply's on the
shunt and from the in-line values (R109, R111, R113). -/
structure Currents where
  u : Int
  v : Int
  shuntU : Int
  shuntV : Int
  supply : Nat
  inline : Nat
  deriving DecidableEq, Repr

/-- Keel's internal state; its visible state (STATE, LOCKED, …) stands in KEEL.STATUS (R118, R142). -/
structure Keel where
  /-- The currents that the rigger die last sent (R13, R109). -/
  currents : Currents
  /-- Consecutive PWM periods in which both lock conditions held (R117). -/
  lockRun : Nat
  /-- Consecutive periods with the residual above RESID_MA (R114). -/
  overRun : Nat
  /-- Consecutive periods within RESID_MA in OPEN_LOOP (R121). -/
  handoverRun : Nat
  /-- Consecutive periods in which in-line and shunt currents disagree (R111). -/
  csBad : Nat
  /-- 0 comparing; 1 measuring offsets; 2 comparing again (R111). -/
  csPhase : Nat
  csCount : Nat
  csU : Bool
  csV : Bool
  /-- Time of the RUN command whose lock is awaited (R122). -/
  runStart : Option Nat
  /-- Time at which OPEN_LOOP was entered (R121). -/
  openStart : Nat
  /-- Returns to DETECT so far (R121, R131). -/
  returns : Nat
  /-- A restart of spin-up waits for the coasting rotor to fall below 30 rpm (R131). -/
  restartPending : Bool
  /-- Position pulses done in DETECT, and the rotor's electrical angle they gave (R121). -/
  pulses : Nat
  rotorAngle : Nat
  /-- Speed of the forced field of OPEN_LOOP, rpm (R121). -/
  fieldRpm : Nat
  /-- The integrators of the modulation, torque-current and regeneration loops (R109, R110). -/
  modInt : Int
  iqInt : Int
  regenInt : Int
  /-- Modulation index, percent, and torque current in force, mA (R112, R113). -/
  modPct : Nat
  iqRef : Int
  /-- The d-axis current reference in force. -/
  idRef : Int
  /-- KEEL.INERTIA has been written (R108). -/
  inertiaSet : Bool
  /-- Time at which the estimate was declared lost (R129). -/
  reacqStart : Nat
  /-- Step of R129 the attempt has reached: 0 none, 1 to 5. -/
  reacqStep : Nat
  /-- PWM periods spent in the present step of R129. -/
  reacqCount : Nat
  reacqAttempt : Nat
  /-- Residual of the last period, mA. -/
  residual : Nat
  /-- Times of failed attempts, newest first (R130). -/
  failTimes : List Nat
  /-- Failed attempts in a row (R130). -/
  failRun : Nat
  /-- The state to which a successful re-acquisition returns. -/
  returnState : Nat
  /-- Electrical degrees run within RESID_MA since resumption. -/
  goodDeg : Nat
  /-- REACQ_EXHAUSTED stands (R130). -/
  exhausted : Bool
  /-- A STOP kept through GENERATOR (R141). -/
  stopKept : Bool
  /-- PWR_FAIL arrived during REACQ (R137). -/
  genPending : Bool
  /-- Nominal target in force, 2^-16 rpm (R120, R141). -/
  target : Nat
  /-- Trim applied and trim wanted, in parts per thousand million, and the time up to which it has moved (R127). -/
  trimPpb : Int
  wantPpb : Int
  trimTime : Nat
  /-- Speed the reference defines in REF_FREQ, 2^-16 rpm; none while lost or out of range. -/
  refSpeed : Option Nat
  lastEdge : Option Nat
  phaseRun : Nat
  /-- Speed correction by which the phase error is driven to zero, parts per thousand million (R128). -/
  steerPpb : Int
  /-- The wedge offset (R116), in 1/4,096 wedge; none: never set since the spindle last started. -/
  wedgeOffset : Option Nat
  /-- Angle of the last valid phase word before the offset, in 1/4,096 wedge, and its time (R116). -/
  raw : Option (Nat × Nat)
  /-- BUS_LIMIT was raised in this stop (R132). -/
  busLimitSaid : Bool
  /-- Phase advance applied, 1/16 electrical degree (R124). -/
  advance : Nat
  /-- Fractions left over by the steps of the advance and of the fall in DECEL (R124, R132). -/
  advanceRest : Nat
  fallRest : Nat
  /-- The advance is engaged (R124). -/
  advanceOn : Bool
  /-- The rotor turns through DECEL toward this target, 2^-16 rpm (R132). -/
  decelTarget : Nat
  /-- Regenerative torque allowed by the bus, percent (R132, R134). -/
  regenPct : Nat
  /-- Time of the last reserve computation (R140). -/
  reserveTime : Nat
  deriving DecidableEq, Repr

/-- A drive word in Keel's slot of a bridge frame (R13): the bridge is driven, its duty word, and the limit of the phase current, mA. -/
structure KeelDrive where
  on : Bool
  duty : Word
  limitMa : Nat
  deriving DecidableEq, Repr

/-- A drive word in a Rudder's slot: voice coil in mA, milliactuator and the four third stages in mV. -/
structure RudDrive where
  coilMa : Int
  milliMv : Int
  third : List Int
  deriving DecidableEq, Repr

/-- What the rigger die last took from the DRV page over the shared slot (R14): the thresholds applied, the settings of the chopper in
mA and mV, the retract currents. -/
structure RigRegs where
  regenMv : Nat
  chopOnMv : Nat
  critMv : Nat
  iMinMa : Nat
  hystMv : Nat
  retract : List Int
  deriving DecidableEq, Repr

/-- What the next frame to the rigger die carries from the DRV page and Keel (R14, R119): RESUME, CLEAR_TRIP, the chopper's fault to clear, and
a self-test with the current that it will sense. -/
structure RigAsk where
  resume : Bool
  clear : Bool
  chopClear : Bool
  test : Option Nat
  deriving DecidableEq, Repr

def RigAsk.none : RigAsk := ⟨false, false, false, .none⟩

/-- The bridge and the rigger die: the words that wait in the slots, what the die drives, and its own state, of which the DRV page shows
the mirror of the last good frame (R13 to R16, R133 to R135). -/
structure Rigger where
  keelSlot : KeelDrive
  rudSlots : SMap RudDrive
  asked : RigAsk
  /-- What the next frame to the core die tells of: a chopper engaged, a chopper fault, a trip at V_CRIT (R106, R133, R135). -/
  chopNew : Bool
  faultNew : Bool
  tripNew : Bool
  /-- No good frame for 2 µs, and the state of R16. -/
  autonomous : Bool
  /-- A good frame has arrived since. -/
  hears : Bool
  vcrit : Bool
  chopOn : Bool
  chopFault : Bool
  chopKind : Nat
  chopTested : Bool
  rigCode : Nat
  isoOpen : Bool
  /-- What it holds of the DRV page's registers while the link is down. -/
  held : RigRegs
  /-- A frame was discarded on its CRC and its repeat is awaited, to the rigger die and to the core die (R15). -/
  badToRigger : Bool
  badToCore : Bool
  /-- Time of the last good frame. -/
  lastGood : Nat
  /-- The spindle bridge is driven, the duty word at the output register and the phase-current limit. -/
  spindleOn : Bool
  duty : Word
  limitMa : Nat
  /-- Voice-coil drive of actuator a, mA, signed; milliactuator, and third stage k of actuator a at 4 a + k, mV. -/
  coil : SMap Int
  milli : SMap Int
  third : SMap Int
  /-- The voice-coil bridges are enabled. -/
  coilsOn : Bool
  /-- Milliactuator and third-stage outputs are driven (not forced to zero). -/
  microOn : Bool
  /-- Bus at chopper engagement, mV, and its time (R133). -/
  chopMv : Nat
  chopTime : Nat
  /-- CHOP_ENGAGE was raised in this braking or generator episode. -/
  chopSaid : Bool
  deriving DecidableEq, Repr

/-! ### Preamplifier ports, HDA and CAL (chapter 6) -/

/-- A frame of a preamplifier port (R149). -/
structure PreFrame where
  addr : Nat
  read : Bool
  data : Nat
  deriving DecidableEq, Repr

/-- One preamplifier port. -/
structure PrePort where
  /-- Real-time frames, oldest first: at most 16; those that wait at their producers for a place (R151). -/
  rt : List PreFrame
  back : List PreFrame
  /-- The firmware frame that waits, and the real-time frames sent since (R151). -/
  fw : Option PreFrame
  passed : Nat
  /-- The frame being sent, whether it is firmware's, and whether it is the repeat (R150). -/
  sending : Option (PreFrame × Bool × Bool)
  /-- The bits of that frame as the port drives them on PDIO (R149). -/
  wire : List Bool
  /-- HEADMASK and SETTLE in ns as discovery found them (log entry 145). -/
  mask : Nat
  settle : Nat
  /-- Time at which the last frame that changed slot k ended, at k, or writer lane w, at 4 + w (R156). -/
  settled : SMap Nat
  /-- Control words as last written, word n of head h at 16 h + n (R155). -/
  shadow : SMap (Option Nat)
  /-- Both write gates are held low (R154). -/
  hold : Bool
  /-- The watch after clearing FAULT_STATUS runs (R160). -/
  watch : Bool
  deriving DecidableEq, Repr

/-- One temperature diode (R162): its last good reading, a first bad reading that waits for its re-read, and failure. -/
structure Diode where
  last : Option Int
  suspect : Bool
  failed : Bool
  deriving DecidableEq, Repr

/-- One time that an Oar held write gate high (R163): it fell at `fall`, or stands. -/
structure LanePulse where
  oar : Nat
  rise : Nat
  fall : Option Nat
  deriving DecidableEq, Repr

/-- HDA (R157, R162, R163). -/
structure Hda where
  /-- Start of the discovery in progress. -/
  discovering : Option Nat
  d0 : Diode
  d1 : Diode
  /-- The write-gate pulses of the last 100 ms (R163). -/
  pulses : List LanePulse
  deriving DecidableEq, Repr

/-- CAL (R164 to R166). -/
structure Cal where
  /-- The 16 words of the record at 64 × HEAD + ZONE; none where no valid record is stored. -/
  records : SMap (Option (List Word))
  stale : SMap Bool
  /-- CAL_MISSING was raised for the slot. -/
  missed : SMap Bool
  /-- The hard envelope was broken at the slot's last comparison (R166). -/
  hard : SMap Bool
  /-- The record, or its absence, with which the job in progress of Oar o began (R165). -/
  began : SMap (Option (Option (List Word)))
  /-- Address and count of the load in progress. -/
  load : Option (Nat × Nat)
  deriving DecidableEq, Repr


/-! ### Rudder, COUPLE and the tuning blocks (chapters 7 and 8) -/

/-- A loop of Rudder's control law: what its biquad sections hold, and its integrator (R190, R202). -/
structure Loop where
  sections : List (Rat × Rat)
  integ : Rat
  deriving DecidableEq, Repr

/-- One read slot of a Rudder. -/
structure RudSlot where
  used : Bool
  /-- In the group, but dropped until the preamplifier has settled on its head (R183). -/
  wait : Bool
  /-- Actuator-local head. -/
  head : Nat
  write : Bool
  centre : Nat
  zone : Nat
  /-- Reader-0 target and head offset, 1/4,096 track (R182). -/
  target : Int
  off : Int
  /-- Static displacement d, and whether it stands clamped at the stroke (R182). -/
  disp : Int
  clamped : Bool
  /-- The four-state estimate, and the mode of its last correction: 0 wedge, 1 data-aided, 2 self-sensing (R180). -/
  est : List Rat
  mode : Nat
  /-- Latest estimated PES. -/
  pes : Int
  /-- The third-stage loop. -/
  loop : Loop
  /-- Last data-aided measurement x and last self-sensing result (R177, R178). -/
  da : Int
  ss : Int
  /-- Measurement used last minus the target; none without one. -/
  measured : Option Int
  /-- Last correction: 0 none, 1 wedge, 2 data-aided, 3 self-sensing; whether the wedge at the last W_n was valid. -/
  meas : Nat
  wedgeGood : Bool
  onTrack : Bool
  /-- Consecutive W_n within SETTLE_WIN. -/
  onRun : Nat
  wf : Bool
  /-- Consecutive clean sample ends. -/
  clean : Nat
  readOff : Bool
  /-- Result delivered for the next wedge sample. -/
  demod : Option WedgeResult
  /-- Consecutive invalid wedges. -/
  badRun : Nat
  /-- The last third-stage word missed its deadline. -/
  late : Bool
  /-- The third-stage output is at its limit, or its static part is clamped. -/
  sat : Bool
  tsMv : Int
  /-- Consecutive sub-samples with the self-sensing residual beyond half range. -/
  ssRun : Nat
  deriving DecidableEq, Repr

/-- The PES window of a slot (R189): the head it is for, sum of squares and number of measured values, and whether the head changed
within it. -/
structure PesWindow where
  head : Option Nat
  sumSq : Nat
  count : Nat
  spoiled : Bool
  deriving DecidableEq, Repr

/-- What Rudder has to report to Gate (R183, R186, R198, R199, R204). -/
inductive GateNote where
  | aborted | lasting | superseded | refused | notReady | ready
  | clamped (slot : Nat)
  deriving DecidableEq, Repr

/-- A coupling word (R191): sample index, coil and milliactuator command. -/
structure CoupleWord where
  index : Nat
  coilMa : Int
  milliMv : Int
  deriving DecidableEq, Repr

/-- What Rudder holds of another Rudder (R192, R193). -/
structure Coupled where
  coilMa : Int
  milliMv : Int
  /-- Number of the sender's word taken last. -/
  taken : Nat
  bad : Nat
  good : Nat
  dropped : Bool
  /-- The coil command of the sender's last W_n, and the latest that had arrived one sub-sample ago. -/
  wedgeMa : Int
  ripeMa : Int
  /-- What the coil-to-coil and the reaction filter hold. -/
  coilSections : List (Rat × Rat)
  reactSections : List (Rat × Rat)
  deriving DecidableEq, Repr

/-- Internal state of one Rudder; STATE and the saturation bits stand in its STATUS. -/
structure Rudder where
  slots : SMap RudSlot
  /-- Groups that wait (R183): at most one. -/
  pending : Option (List (Option GroupSlot))
  /-- Arm nominal position a. -/
  arm : Int
  armPes : Int
  /-- The coil and the milliactuator loop, and what the rotational-vibration filter holds. -/
  coilLoop : Loop
  milliLoop : Loop
  rvSections : List (Rat × Rat)
  /-- Feedforward of the present update: coil-to-coil sum, reaction and rotational vibration (R192, R195). -/
  ffCoil : Rat
  ffReact : Rat
  ffRv : Rat
  /-- Coil current as measured at the last W_n, mA. -/
  coilIma : Int
  /-- The summing point's signal before and after an injection (R213). -/
  sumIn : Int
  sumOut : Int
  /-- The last coupling word sent, and the number of words sent (R191). -/
  sent : CoupleWord
  sentNo : Nat
  /-- Number of the last wedge sampled, sub-samples since, and intervals since the PES window began. -/
  wedge : Nat
  sub : Nat
  windowRun : Nat
  windows : SMap PesWindow
  /-- Consecutive intervals in which no used slot had a valid wedge. -/
  lostRun : Nat
  /-- Intervals in REACQUIRE, and consecutive good wedges there or in acquisition. -/
  huntRun : Nat
  huntGood : Nat
  /-- Position of the last wedge found there. -/
  huntPos : Option Int
  /-- Consecutive W_n whose coil and milliactuator word missed its deadline. -/
  missedRun : Nat
  /-- Seek: first start, present start, distance in tracks, and whether it is the repeat (R186). -/
  seekFirst : Nat
  seekStart : Nat
  seekDist : Nat
  /-- The profile bin and the arm position at which the present start stood (R184). -/
  seekBin : Nat
  seekFrom : Int
  seekAgain : Bool
  seeking : Bool
  /-- Load: head, start, repeat, acquired (R199). -/
  loadHead : Nat
  loadStart : Nat
  loadAgain : Bool
  acquired : Bool
  /-- The unload in progress is followed by a second load. -/
  reload : Bool
  /-- The retract or unload ends in PARKED_FAULT. -/
  parkFault : Bool
  /-- Start of the retract or unload, and of the retract current (R201). -/
  driveStart : Nat
  currentStart : Option Nat
  /-- A V_CRIT latch, or the autonomous state, holds the retract back (R201). -/
  latched : Bool
  /-- Under cause 6: the rigger die drives the coil, Rudder sends no drive words (R201). -/
  rigged : Bool
  /-- The two coefficient banks: word n of bank b at 2,048 b + n (R202). -/
  banks : SMap Word
  /-- Address of the load in progress. -/
  loadFrom : Nat
  /-- CPL_CFG as last latched (R193). -/
  coupleCfg : Word
  coupled : SMap Coupled
  /-- Heads whose self-sensing is out of use until the next LOAD (R179). -/
  ssOff : List Nat
  notes : List GateNote
  deriving DecidableEq, Repr

/-- One sensor input of COUPLE (R196). -/
structure Sensor where
  last : Int
  /-- Time since which its samples have not changed, and since which they have been at full scale. -/
  since : Nat
  railed : Nat
  sampled : Bool
  deriving DecidableEq, Repr

/-- COUPLE: sensors and the shock episode (R194). -/
structure Couple where
  sensors : SMap Sensor
  lastAbove : Nat
  peak : Int
  crossing : Option Nat
  deriving DecidableEq, Repr

/-- A tuning block with its 32 KiB trace buffer (R209 to R222). -/
structure Tune where
  buf : SMap Byte
  /-- Records written since GO. -/
  records : Nat
  /-- Updates since the last record. -/
  thin : Nat
  /-- An accepted trigger waits for its record, with its time. -/
  trigger : Option Nat
  /-- Records still to write after the trigger. -/
  left : Nat
  /-- Last value of the trigger channel. -/
  prev : Option Int
  start : Nat
  /-- Noise generator: the 23-bit sequence and updates since its last change. -/
  lfsr : Nat
  hold : Nat
  /-- Updates of the generator since the SINE point or the run began, and the sums I and Q of its channels (R221). -/
  count : Nat
  sums : List (Rat × Rat)
  /-- Injected value, 1/65,536 of full scale. -/
  injected : Int
  /-- Consecutive updates that each output has been saturated; whether STOP has come since the last update (R222, R223). -/
  satRuns : List Nat
  stopped : Bool
  deriving DecidableEq, Repr



/-! ### Oars, Sweep, Gate and the microcode store (chapters 9 to 11 and 15) -/

/-- A job-table entry (R289); FREE entries are not listed. -/
structure JobEntry where
  /-- 1 PENDING, 2 FILL, 3 STAGED, 4 ACTIVE, 5 REREAD, 6 CUT, 7 LADDER, 8 VERIFY, 9 RELOCATED, 10 DONE. -/
  state : Nat
  /-- TYPE of its sector job: 1 READ, 2 WRITE, 3 CHECK. -/
  ty : Nat
  cause : Nat
  marked : Bool
  wfCut : Bool
  /-- TAG of the track job that holds or last held it, and whether one holds it. -/
  tag : Nat
  inJob : Bool
  head : Nat
  zone : Nat
  track : Nat
  sector : Nat
  /-- The job body, words 5 to 15 (R285); place of the sector in the job; mask of blocks present (R286). -/
  body : List Word
  index : Nat
  mask : Nat
  /-- Its track and sector before any relocation. -/
  home : Nat × Nat
  /-- Track and sector of the spare, once RELOCATED. -/
  spareTrack : Nat
  spareSector : Nat
  /-- What its reads serve: 0 the job, 1 a fill, 2 a verify. -/
  reading : Nat
  /-- The verify of R255 applies; CRC kept; failed verifies. In VERIFY with `taken`, the rewrite of R257 is due. -/
  verify : Bool
  crc : Word
  verifyFails : Nat
  /-- The read that a VERIFY or RECOVER job carries has been taken. -/
  taken : Bool
  /-- The staged or assembled payload. -/
  payload : List Byte
  /-- The payload of a sector that REWRITE_CUT writes again, as the dump kept it (R475, R479); none, empty. -/
  stored : List Byte
  /-- Sweep's slot; a buffer-transaction credit is held; the time from which it has been held, or the sector staged (R293, R294); the payload
  in landing. -/
  slot : Option Nat
  credit : Bool
  ready : Nat
  landing : Option (List Byte)
  /-- Its in-flight list entry (R475). -/
  inflight : Option Nat
  deriving DecidableEq, Repr

/-- The track job in progress (R287): its 16 words, write mode requested, servo wedges written whole, the time it became startable, and
whether the zone's settings have been applied at its first preamble (R226, R290). -/
structure TrackJob where
  words : List Word
  wantWrite : Bool
  wedges : List Nat
  since : Nat
  tuned : Bool
  deriving DecidableEq, Repr

/-- What a writer lane puts out in one data field (R237, R247, R249): the wedge before the field, the position of the first bit, the bits,
by how many 1/64 bit each one's transition is late, and the times from the wedge start, in ns, at which write gate rises and falls. -/
structure GatePulse where
  wedge : Nat
  pos : Nat
  bits : List Bool
  late : List Nat
  rise : Rat
  fall : Rat
  deriving DecidableEq, Repr

/-- A sector as written: its place and its pulses. -/
structure WrittenSector where
  track : Nat
  sector : Nat
  pulses : List GatePulse
  deriving DecidableEq, Repr

/-- A servo wedge as written: its number, and its fields as times from the wedge start in ns and symbols (R229, R300). -/
structure ServoWedge where
  wedge : Nat
  fields : List (Rat × Rat × List Bool)
  deriving DecidableEq, Repr

/-- The two readers' samples for one bit, and whether the front end marks it erased (R234, R235). -/
structure RawSample where
  raw0 : Int
  raw1 : Int
  erased : Bool
  deriving DecidableEq, Repr

/-- One Oar with its front end; zone and relocation tables stand in the first Oar of an actuator. -/
structure Oar where
  entries : SMap (Option JobEntry)
  job : Option TrackJob
  /-- The passage in progress: its entry or wedge, and whether write gate is high. -/
  passage : Option (Nat × Bool)
  /-- Completion packets not yet in the queue, oldest first. -/
  outbox : List (List Word)
  /-- Completion packets refused by a queue in fault, oldest first: Gate ends what they report (R92). -/
  refused : List (List Word)
  /-- Equaliser tap t of reader r of head h at 32 h + 16 r + t, in 2^-24 (R233). -/
  taps : SMap Int
  /-- Entries of the two sectors whose raw samples are kept, newest first, with both readers' samples, and the one held for Sweep (R234,
  R277). -/
  raws : List (Nat × List RawSample)
  rawHeld : Option Nat
  /-- Gains of the two readers in 0.25 dB (R226), and the offset of the ladder read in progress in 1/4,096 track (R276). -/
  gains : Nat × Nat
  shift : Int
  /-- Times of the last STAGE_LATE, slot-slip and in-flight waits. -/
  lateTime : Option Nat
  slipTime : Option Nat
  fullTime : Option Nat
  /-- The sector and the servo wedge last written (R237, R247, R300). -/
  written : Option WrittenSector
  servo : Option ServoWedge
  /-- Zone entry in force (R226), and the synthesiser's bit rate in Mbit/s (R228). -/
  settings : List Word
  bitRate : Rat
  /-- The zone table's entries, eight words each, entry 64 h + z (R251). -/
  zones : SMap (List Word)
  /-- The relocation table's entries in order (R297). -/
  relocs : List (List Word)
  deriving DecidableEq, Repr

/-- What the decoder of a codeword keeps (R268): the messages of its checks, by block row and block, and the extrinsic values of its bits, by
block column; nothing before the first iteration. -/
structure Decoder where
  messages : List (List (List Int))
  extrinsic : List (List Int)
  deriving DecidableEq, Repr

/-- A decoder slot in use (R268). -/
structure DecSlot where
  /-- 1 FILLING, 2 FIRST_WAIT, 3 DECODING, 4 SLICE_WAIT, 5 READ_WAIT. -/
  state : Nat
  oar : Nat
  entry : Nat
  track : Nat
  sector : Nat
  /-- 0 first read, 1 read while marked, 2 verify read, 3 in the ladder. -/
  kind : Nat
  marked : Bool
  syncMiss : Bool
  /-- Rung of the ladder, reads taken at it, re-equalised inputs taken, and extra iterations of the present read. -/
  rung : Nat
  reads : Nat
  /-- Reads of the rung and OFFSET_STEP, as configured at its start (R281). -/
  limit : Nat
  step : Nat
  requal : Nat
  iters : Nat
  /-- Time of entry into the ladder, and whether RECOV_LIMIT has passed. -/
  start : Nat
  expired : Bool
  since : Nat
  /-- The lane whose result the checker rejected. -/
  badLane : Option Nat
  /-- TARGET of the zone entry in force at its read (R265). -/
  target : Nat
  /-- The read's samples; sum and count of the usable on-track reads per bit (R275). -/
  cur : List (Option Int)
  sums : List (Int × Nat)
  /-- The decoder's state as the last pass or slice left it (R268). -/
  decoder : Decoder
  deriving DecidableEq, Repr

/-- A decoder lane at work: its slot, whether on a slice, its budget and its input. -/
structure Lane where
  slot : Nat
  slice : Bool
  /-- Iterations it may take. -/
  budget : Nat
  input : List (Option Int)
  /-- The detector's target, oldest bit last (R265), and the min-sum offsets of the first pass and of later iterations (R264). -/
  taps : List Int
  offsets : Nat × Nat
  deriving DecidableEq, Repr

/-- Sweep. -/
structure Sweep where
  slots : SMap (Option DecSlot)
  lanes : SMap (Option Lane)
  /-- Stream last served in the rotation of slices (R271). -/
  lastStream : Nat
  /-- Sectors (Oar, entry) whose next read enters the ladder at rung 2 (R269). -/
  rung2 : List (Nat × Nat)
  /-- Busy time of lane n not yet counted, ns. -/
  busyNs : SMap Nat
  /-- Copies of slots as they stood when given to a lane (R267). -/
  saved : SMap (Option DecSlot)
  deriving DecidableEq, Repr

/-- A run in Gate's admission pool (R437 to R442). -/
structure Run where
  id : Nat
  words : List Word
  /-- Producer's port (requester code) and class. -/
  port : Nat
  cls : Nat
  /-- Time of admission; levels gained by age. -/
  since : Nat
  aged : Nat
  /-- Sectors of the run not yet issued, as index and count, in order. -/
  todo : List (Nat × Nat)
  ended : Nat
  lastings : Nat
  first : Option (Nat × Nat)
  poisoned : Bool
  started : Bool
  /-- The rewrite of a cut sector (R479): no owner waits for its end. -/
  quiet : Bool
  deriving DecidableEq, Repr

/-- A track job that Gate has passed to an Oar and that has not ended. -/
structure Issued where
  tag : Nat
  slot : Nat
  run : Nat
  /-- Index in the run of its first sector. -/
  first : Nat
  words : List Word
  deriving DecidableEq, Repr

/-- One Gate. -/
structure Gate where
  runs : List Run
  issued : List Issued
  /-- Sector-job credits held, by class (R444). -/
  held : SMap Nat
  /-- Run and index of entry e of slot k at 2,048 k + e; whether it has passed to Gate. -/
  map : SMap (Option (Nat × Nat × Bool))
  nextId : Nat
  nextTag : Nat
  nextEntry : SMap Nat
  /-- The group formed and not yet handed to Rudder, and the group last handed. -/
  offer : Option (List (Option GroupSlot))
  group : List (Option GroupSlot)
  /-- Slots clamped or withdrawn, left out of the next groups. -/
  left : List Nat
  /-- Jobs returned after an aborted group wait for Rudder to report ready (R199, R440). -/
  unready : Bool
  /-- Slot of the head added to the group last. -/
  lastAdded : Option Nat
  agedTime : Option Nat
  deriving DecidableEq, Repr

/-- A microcoded engine's sequencer (R303, R305): the microaddress that follows the last word executed, the micro-stack with its top first, and
the micro-cycles run since the last POLL, WAIT or HALT. -/
structure Micro where
  next : Nat
  stack : List Nat
  ran : Nat
  deriving DecidableEq, Repr

def Micro.reset : Micro := ⟨0, [], 0⟩

/-- The microcode store (R303 to R308). -/
structure Ucode where
  /-- The sequencer of each engine, by requester code (R303, R305). -/
  micros : SMap Micro
  /-- Copies of the engines by requester code: an engine's patch RAM, and its match registers (R303, R307). -/
  copies : SMap (SMap (BitVec 128) × SMap Word)
  /-- Patch word n of kind k at 512 k + n. -/
  words : SMap (BitVec 128)
  addrs : SMap Nat
  ids : SMap Word
  /-- Match register m of kind k at 16 k + m. -/
  matchRegs : SMap Word
  /-- Requester codes of engines whose restore runs. -/
  restoring : List Nat
  /-- Kinds committed since the device reset (R308). -/
  done : List Nat
  deriving DecidableEq, Repr

/-- A packet that an engine has sent on an owner's return path: the owner's requester code and the words (R442). -/
structure Returned where
  owner : Nat
  words : List Word
  deriving DecidableEq, Repr

/-- A payload given to the stripe job named in a job body: member, and the sector's track and sector before relocation (R246). -/
structure Consumed where
  job : Nat
  member : Nat
  track : Nat
  sector : Nat
  payload : List Byte
  deriving DecidableEq, Repr

/-! ### Buffer DRAM, Boathouse and the buffer cache (chapter 12) -/

/-- One DRAM port; its visible state stands in DRAM_STATUS (R348). -/
structure DramPort where
  /-- Capacity found by training, GiB; 0 before. -/
  capacity : Nat
  /-- An entry to (true) or exit from (false) self-refresh is wanted (R319). -/
  srWant : Option Bool
  /-- TEMP_LIMIT was raised in this excursion (R318). -/
  hot : Bool
  /-- DRAM_CFG.RATE as the last INIT took it (R348). -/
  rate : Nat
  deriving DecidableEq, Repr

/-- A buffer transaction carried out and not yet complete (R323). -/
structure Xact where
  port : Nat
  words : List Word
  /-- 0 GOOD, 1 POISONED, 2 LASTING. -/
  status : Nat
  /-- Usable offset of the first granule concerned. -/
  offset : Nat
  deriving DecidableEq, Repr

/-- A dirty reservation of a host task (R327). -/
structure Reservation where
  task : Nat
  granules : Nat
  deriving DecidableEq, Repr

/-- Who asks for a buffer-transaction credit (R26, R28): a packet that a queue has taken, with its producer port; a host task or a service
operation of Slipway; an entry of an Oar; a stripe job; the load or copy of a page. -/
inductive CreditAsk where
  | xact (port : Nat) (words : List Word)
  | task (id : Nat)
  | service (core : Nat)
  | entry (oar entry : Nat)
  | stripe (id : Nat)
  | load (page : Nat)
  deriving DecidableEq, Repr

/-- Boathouse's internal state. -/
structure Boat where
  inFlight : List Xact
  /-- Buffer-transaction credits held by class 0 to 3 (R445). -/
  held : SMap Nat
  /-- Who waits for a credit, longest-waiting first (R28, R445). -/
  creditWait : List CreditAsk
  /-- Granules the last READ delivered to its requester. -/
  delivered : List Beat
  /-- Waiting reservations in arrival order (R327). -/
  waiting : List Reservation
  /-- Reservations granted and not yet used by an XFER_RDY. -/
  granted : List Reservation
  /-- Tasks answered "write-through" (R327). -/
  through : List Nat
  /-- Time of the last wait, for DIRTY_WAIT (R327). -/
  lastWait : Option Nat
  /-- Granules whose next read is disturbed on its way and comes back good at the re-read (R324). -/
  upsets : List Nat
  deriving DecidableEq, Repr

/-- A valid line of the buffer cache (R330 to R334). -/
structure CacheLine where
  tag : Nat
  dirty : Bool
  poison : Bool
  /-- Bytes stored since the fill of a poisoned line, bit i for byte i (R334). -/
  stored : BitVec 64
  data : List Byte
  deriving DecidableEq, Repr

/-- A range operation in progress (R336, R338). -/
structure RangeOp where
  op : Nat
  force : Bool
  /-- First line and number of lines. -/
  first : Nat
  lines : Nat
  start : Nat
  /-- Lines examined so far. -/
  done : Nat
  skipped : Nat
  firstSkip : Option Nat
  writebacks : Nat
  discarded : Nat
  deriving DecidableEq, Repr

/-- The buffer cache: the valid lines at key 16 × set + way, the replacement tree of each set, the range engine. -/
structure Cache where
  lines : SMap (Option CacheLine)
  tree : SMap Nat
  range : Option RangeOp
  /-- Data of the last load. -/
  loaded : BitVec 64
  deriving DecidableEq, Repr

/-- The scrub (R340 to R342). -/
structure Scrub where
  lastStep : Nat
  lapStart : Nat
  /-- LOG_FULL was raised since the log was last cleared. -/
  fullSaid : Bool
  deriving DecidableEq, Repr



/-! ### Crew and the journal (chapter 13) -/

/-- An enabled band: the 32 words of its descriptor (R354). -/
structure Band where
  words : List Word
  /-- DISABLE was given and waits (R385). -/
  closing : Bool
  /-- START and PAUSE of its background work. -/
  started : Bool
  paused : Bool
  deriving DecidableEq, Repr

/-- A run that a stripe job has pushed to Gate and that has not ended: its TAG, head, first member sector, whether it writes, and
the key of each of its sectors. -/
structure CrewRun where
  tag : Nat
  head : Nat
  msn : Nat
  write : Bool
  keys : List Nat
  deriving DecidableEq, Repr

/-- A stripe job that holds a credit (R360 to R366). A key is 32 × row context + position. -/
structure StripeJob where
  id : Nat
  /-- 1 write, 2 read, 3 repair, 4 rebuild, 5 resync, 6 patrol, 7 reshape (R386); 8 reads the journal rings (R372). -/
  kind : Nat
  words : List Word
  band : Nat
  stripe : Nat
  port : Nat
  cls : Nat
  engine : Nat
  /-- It has begun and holds its stripe. -/
  holds : Bool
  /-- JSEQ of its journal record, and whether the record stands on every valid member. -/
  record : Option Nat
  journalled : Bool
  /-- Rows still to process, the batch in hand, and its phase: 0 none, 1 reading, 2 writing data, 3 writing the rest. -/
  rows : List Nat
  batch : List Nat
  phase : Nat
  /-- The row contexts read for the batch: stripe and row. -/
  ctxs : List (Nat × Nat)
  runs : List CrewRun
  /-- Payloads read, and payloads as written. -/
  got : SMap (Option (List Byte))
  made : SMap (Option (List Byte))
  /-- Sectors whose job ended lasting, with the cause; those of them that the batch rebuilds and writes back. -/
  failed : List (Nat × Nat)
  /-- Scratch used by the batch, from this usable offset on. -/
  scratch : Option (Nat × Nat)
  status : Nat
  /-- A second means was needed and failed (R375). -/
  meansFailed : Bool
  /-- Row contexts that patrol has found to mismatch and reads once more. -/
  again : List Nat
  deriving DecidableEq, Repr

/-- An open journal record: JSEQ, its DRAM slot, its words, and the ring sector that holds it. -/
structure JRecord where
  jseq : Nat
  slot : Nat
  words : List Word
  sector : Option Nat
  /-- Time since which it waits for a journal sector. -/
  since : Nat
  deriving DecidableEq, Repr

/-- A journal sector being written: its number, and for each copy its run's TAG while it runs. -/
structure JSector where
  seq : Nat
  tagA : Option Nat
  tagB : Option Nat
  /-- Its scratch: usable offset and size. -/
  scratch : Nat × Nat
  deriving DecidableEq, Repr

/-- A request for a stripe-job credit (R28, R445): its class; 0 the packet that the queue presents, else the kind of Crew's own job, 9 a
record to replay; its band and spare slot. -/
structure StripeAsk where
  cls : Nat
  kind : Nat
  band : Nat
  slot : Nat
  deriving DecidableEq, Repr

/-- Crew. -/
structure Crew where
  bands : SMap (Option Band)
  /-- Requests that wait for a stripe-job credit, longest-waiting first (R28). -/
  asks : List StripeAsk
  jobs : List StripeJob
  /-- Stripe-job credits held by class (R444). -/
  held : SMap Nat
  nextTag : Nat
  /-- The stale list, in order: band, stripe, position, cause (R366). -/
  stale : List (Nat × Nat × Nat × Nat)
  /-- The lost-stripe map: band, stripe, positions (R378). -/
  lost : List (Nat × Nat × Nat)
  lostFull : Bool
  /-- Open journal records, oldest first; the sector being written; the next sector number; JRNL_FULL was raised; CLOSE waits. -/
  open_ : List JRecord
  writing : Option JSector
  nextSector : Nat
  fullSaid : Bool
  closing : Bool
  nextJseq : Nat
  /-- A replay in progress: records still to replay, and its SOURCE. -/
  replay : Option (List (List Word) × Nat)
  /-- Records replayed so far, and bands set to resynchronise. -/
  replayed : Nat
  resynced : List Nat
  /-- Target descriptor of the reshape, and target stripes to copy again. -/
  target : Option (List Word)
  recopy : List Nat
  /-- Patrol: start of the lap. -/
  lapStart : Nat
  /-- Bytes of parity computed by an engine beyond the KiB that PARITY_KIB counts (R386). -/
  parityRest : SMap Nat
  /-- Scratch areas taken: offset and size. -/
  scratch : List (Nat × Nat)
  /-- Run packets not yet in their queues: actuator, port, words. -/
  outbox : List (Nat × Nat × List Word)
  deriving DecidableEq, Repr

/-! ### Slipway and the hazard table (chapters 14 and 15) -/

/-- A frame that Slipway has sent and that is not yet acknowledged (R394). -/
structure TxFrame where
  /-- 1 DATA, 2 XFER_RDY, 3 RESPONSE of a task, 4 RESPONSE without a task. -/
  kind : Nat
  /-- Identity of its task (`HostTask.id`), and the nexus and tag addressed. -/
  task : Nat
  nexus : Nat
  tag : Nat
  /-- Relative offset, and length of the data sent or asked for. -/
  offset : Nat
  len : Nat
  /-- SCSI status, or response code of a frame of kind 4. -/
  status : Nat
  /-- Data or sense bytes. -/
  bytes : List Byte
  /-- It is the repeat of R394. -/
  again : Bool
  deriving DecidableEq, Repr

/-- One lane: the start of the link reset in progress, whether a loss of synchronisation caused it, the frames sent and not yet
acknowledged, oldest first, and the uncorrectable codewords of the present second. -/
structure SasLane where
  resetting : Option Nat
  lost : Bool
  frames : List TxFrame
  fecSecond : Nat
  fecCount : Nat
  deriving DecidableEq, Repr

/-- A nexus (R398): initiator address, port, time of its last connection. -/
structure Nexus where
  addr : Nat
  port : Nat
  last : Nat
  deriving DecidableEq, Repr

/-- The answer that a task's RESPONSE will carry: SCSI status and sense bytes. -/
structure Answer where
  status : Nat
  sense : List Byte
  deriving DecidableEq, Repr

/-- Work handed to Gate or Crew for sectors of a task: its TAG, 1 a run, 2 a stripe job, and the sectors. -/
structure Handed where
  tag : Nat
  kind : Nat
  sectors : List Nat
  /-- Member and member sector of the first sector of a run. -/
  head : Nat
  msn : Nat
  deriving DecidableEq, Repr

/-- A host task, from its acceptance until its last work has ended. -/
structure HostTask where
  /-- Order of acceptance, unique. -/
  id : Nat
  /-- Task index. -/
  index : Nat
  /-- It holds its host-task credit (R26). -/
  credit : Bool
  nexus : Nat
  tag : Nat
  lun : Nat
  /-- Task attribute: 0 SIMPLE, 1 HEAD OF QUEUE, 2 ORDERED, 4 ACA; TASK PRIORITY. -/
  attr : Nat
  prio : Nat
  cdb : List Byte
  lane : Nat
  accepted : Nat
  /-- 0 in the intake queue, 1 with the fast path, 2 with firmware. -/
  stage : Nat
  /-- The packet that handed it to firmware, with the Stroke core (R416). -/
  passed : Option (Nat × List Word)
  /-- 1 read, 2 write, 3 verify; 0 not decoded. -/
  op : Nat
  /-- It was decoded for an enabled logical unit (R420). -/
  forLu : Bool
  lba : Nat
  blocks : Nat
  fua : Bool
  /-- PROTECT field 001b; expected reference tag, application tag and mask of a 32-byte CDB (R413). -/
  protect : Bool
  tags : Option (Nat × Nat × Nat)
  /-- Its host buffer: usable offset and bytes; and its hazard entry. -/
  buffer : Option (Nat × Nat)
  haz : Option Nat
  /-- Order of its hazard entry; its WRITE_SEQ (R474). -/
  order : Nat
  writeSeq : Nat
  aborted : Bool
  committed : Bool
  /-- PROGRESS_EXCEEDED was raised for it. -/
  reported : Bool
  answer : Option Answer
  /-- Its answer waits for the end of the jobs handed (R481). -/
  drainFirst : Bool
  /-- The command is held under R431 or R433 (WAITING of R453). -/
  held : Bool
  /-- It is acknowledged under the write-through branch of R31. -/
  through : Bool
  /-- Bytes asked for by XFER_RDY; the end of the one outstanding; bytes received; bytes sent. -/
  asked : Nat
  xrdy : Option Nat
  received : Nat
  sent : Nat
  /-- Bytes of an incomplete block, and of an incomplete granule with its place (R408). -/
  carry : List Byte
  hold : List Byte
  holdAt : Nat
  /-- Granules counted against the dirty limit; its dirty-table entry is valid (R474). -/
  reserved : Nat
  dtab : Bool
  /-- The lowest of its blocks found poisoned by a check on landing (R414). -/
  poisoned : Option Nat
  /-- Sectors of the command not yet handed; work handed; sectors that have landed, were checked or written. -/
  todo : List Nat
  handed : List Handed
  /-- Sectors that go to Crew, with the position already known to fail (R375). -/
  toCrew : List (Nat × Option Nat)
  /-- A VERIFY that reads its sectors to find the poisoned block. -/
  landVerify : Bool
  landed : List Nat
  /-- A stripe job of it ended LASTING. -/
  failed : Bool
  /-- For each of its blocks that an earlier write covers, the latest such write: its hazard order plus 1 (R431), by block. -/
  sources : SMap Nat
  deriving DecidableEq, Repr

/-- A logical unit on die (R417): its entry's words, 1 enabled, 2 deleting, 3 FAILED, and its extents: band and first LBA. -/
structure Lu where
  words : List Word
  state : Nat
  extents : List (Nat × Nat)
  deriving DecidableEq, Repr

/-- A service operation in progress (R416). -/
structure SvcOp where
  op : Nat
  task : Nat
  addr : Nat
  bytes : Nat
  offset : Nat
  status : Nat
  senseLen : Nat
  /-- Bytes sent, or landed; the XFER_RDY outstanding; bytes of an incomplete granule. -/
  moved : Nat
  xrdy : Option Nat
  asked : Nat
  hold : List Byte
  /-- 0 running, else the outcome it ends with. -/
  outcome : Nat
  deriving DecidableEq, Repr

/-- A hazard entry (R429), with the order in which it was made; a firmware entry may wait (R436). -/
structure HazEntry where
  lu : Nat
  write : Bool
  ordered : Bool
  fw : Bool
  task : Nat
  lba : Nat
  blocks : Nat
  order : Nat
  waiting : Bool
  deriving DecidableEq, Repr

/-- Slipway's shared parts and the hazard table. -/
structure Slip where
  lanes : SMap SasLane
  nexuses : SMap (Option Nexus)
  /-- Unit-attention bit of nexus n and logical unit l at 64 n + l (R403). -/
  ua : SMap Bool
  tasks : List HostTask
  nextId : Nat
  nextTag : Nat
  nextWriteSeq : Nat
  lus : SMap (Option Lu)
  svcs : SMap (Option SvcOp)
  haz : SMap (Option HazEntry)
  nextOrder : Nat
  /-- HAZ_FULL was raised for the present episode. -/
  hazFull : Bool
  fullTime : Option Nat
  /-- Time at which ACTIVITY was last asserted, while its stretch runs; time at which the last host task ended. -/
  activity : Option Nat
  lastHeld : Nat
  /-- Lasting sectors reported by SECTOR packets whose runs have not ended: track and sector. -/
  sectorEnds : List (Nat × Nat)
  /-- A DELETE or UPDATE that waits: its LU. -/
  deleting : List Nat
  deriving DecidableEq, Repr


/-! ### The power manager and the safe store (chapter 16) -/

/-- The power manager. -/
structure Power where
  /-- Time of the exit trigger that a level, or the entry of one, has met (R462). -/
  trigger : Option Nat
  /-- In SAFE: READ_ONLY, or PARKED (R480). -/
  readOnly : Option Bool
  /-- A level being entered, and the steps of R461 taken. -/
  entering : Option (Nat × Nat)
  /-- A level being left: the level, the time of the trigger, and the steps of R462 taken. -/
  exiting : Option (Nat × Nat × Nat)
  /-- MODE_TARGET as written during a transition (R455); the level to enter after an exit to ACTIVE (R456). -/
  later : Option Nat
  after : Option Nat
  /-- Since when the device is idle, and idle but for background work (R460); levels deferred by BG_HOLD in this stretch. -/
  idleSince : Option Nat
  quietSince : Option Nat
  deferred : List Nat
  /-- Pages in the context area, and for each actuator whether its coefficient set, zone table and relocation table were valid. -/
  ctxPages : List Nat
  tables : List (Nat × Bool × Bool × Bool)
  /-- At exit: actuators whose tables were reloaded, those given LOAD, and those excluded or counted as done. -/
  reloaded : List Nat
  loading : List Nat
  skipped : List Nat
  /-- Since when the conditions of R469 hold. -/
  wbSince : Option Nat
  /-- The 12 V and the 5 V input stand below their warning thresholds (R465). -/
  warned12 : Bool
  warned5 : Bool
  deriving DecidableEq, Repr

/-- A page programmed into the NAND: its spare area (R473), its bytes, and whether its program was good. -/
structure NandPage where
  seq : Nat
  index : Nat
  bytes : List Byte
  good : Bool
  deriving DecidableEq, Repr

/-- The safe-store NAND: its geometry as its parameter page gives it, its factory bad blocks, and the pages programmed. -/
structure Nand where
  blocks : Nat
  /-- 1 4 KiB, 2 8 KiB, 3 16 KiB. -/
  page : Nat
  dies : Nat
  perBlock : Nat
  bad : List Nat
  /-- Page p of block b at `perBlock` b + p; an unlisted page is erased. -/
  pages : SMap (Option NandPage)
  deriving DecidableEq, Repr

/-- What a dump has still to write: a page, the ring as it then stands, or the END page (R472). -/
inductive DumpPart where
  | page (bytes : List Byte)
  | umpire
  | finish
  deriving DecidableEq, Repr

/-- A dump in progress (R472 to R477). -/
structure Dump where
  cause : Nat
  area : Nat
  seq : Nat
  start : Nat
  todo : List DumpPart
  /-- Index of the page being programmed in the stream, its NAND page, whether it is the repeat, and its bytes. -/
  index : Nat
  place : Nat
  again : Bool
  now : List Byte
  /-- The END page is good. -/
  ended : Bool
  headerCrc : Word
  dirtyMib : Nat
  deriving DecidableEq, Repr

/-- The safe-store controller. -/
structure SafeStore where
  nand : Nand
  /-- SCAN has found the NAND; the last test passed; time of the last test, and one is due. -/
  found : Bool
  tested : Bool
  testTime : Nat
  testDue : Bool
  dump : Option Dump
  /-- The command that runs: 2 PREPARE, 3 RESTORE, 4 REWRITE_CUT. -/
  running : Option Nat
  /-- The newest dump: its area, its header words, and DUMP_SEQ. -/
  newest : Option (Nat × List Word)
  /-- In-flight entries that REWRITE_CUT writes. -/
  cutting : List Nat
  /-- Of these, the ones that wait for a sector-job credit or a free entry (R11). -/
  waiting : List Nat
  deriving DecidableEq, Repr



/-! ### OTP, Cox and the key store (chapter 17) -/

/-- The OTP fields (R487); none or empty: unprogrammed. -/
structure Otp where
  serial : Nat
  gradeL : Bool
  deployed : Bool
  secret : Option (List Byte)
  idPriv : Option (List Byte)
  idPub : Option (List Byte)
  vendorKeyHash : Option (List Byte)
  vendorDebugHash : Option (List Byte)
  /-- OWNER_HASH0 to 3. -/
  ownerHash : SMap (Option (List Byte))
  revoke : Nat
  ownerDebugHash : Option (List Byte)
  rollback : Nat
  bootA : Option Nat
  bootB : Option Nat
  /-- Fields whose shadow read failed and failed again (R487). -/
  lost : List Nat
  deriving DecidableEq, Repr

/-- The key store and the measurement log. -/
structure Keys where
  /-- The two keys of a LOADED slot, 64 bytes (R497). -/
  slots : SMap (Option (List Byte))
  /-- Cox is in machine check: slots unusable until reset (R74, R504). -/
  dead : Bool
  /-- The operation that runs: the word written to CMD, SRC and DST. -/
  op : Option (Word × Nat × Nat)
  /-- Measurement entries of 64 bytes, oldest first, and D. -/
  log : List (List Byte)
  digest : List Byte
  /-- The challenge outstanding. -/
  challenge : Option (List Byte)
  /-- Draws taken from the entropy source. -/
  draws : Nat
  deriving DecidableEq, Repr

/-- One Crypto engine (R508). -/
structure Crypto where
  /-- Time of the last sector ended with cause KEY. -/
  endedTime : Option Nat
  deriving DecidableEq, Repr

/-- Power-on reset and the boot (R541, R491). -/
structure Chip where
  /-- The core die is held in power-on reset: 1 no power, 2 the bus collapsed, 5 a rail, 6 REFCLK; none while it runs. -/
  held : Option Nat
  /-- Tries at bringing the rails up that have failed. -/
  railTries : Nat
  /-- The ROM listens on the UART (R492). -/
  recovery : Bool
  /-- The dump after PWR_FAIL has ended or was skipped, and the device waits for power to return (R466). -/
  dumped : Bool
  /-- The boot chain has run since power-on reset. -/
  booted : Bool
  /-- Bytes sent on the UART, oldest first (R492). -/
  uart : List Byte
  deriving DecidableEq, Repr


/-! ### Umpire, debug, test and SMBus (chapters 18 and 19) -/

/-- A message in Umpire's FIFO. -/
structure UmpIn where
  msg : Msg
  /-- PWR.MODE when it arrived is read at recording; this is whether it came over the always-on path (R66). -/
  aon : Bool
  deriving DecidableEq, Repr

/-- A copy of the ring in progress (R518): HEAD and the count of the snapshot, where it goes, and its image. -/
structure RingCopy where
  head : Nat
  count : Nat
  offset : Nat
  image : List Byte
  deriving DecidableEq, Repr

/-- Umpire (R509 to R520). HEAD, FREEZE and the counts stand in UMP registers. -/
structure Umpire where
  /-- The ring in the retained SRAM: the eight words of record n. -/
  ring : SMap (List Word)
  /-- The input FIFO, oldest first: at most 64. -/
  fifo : List UmpIn
  /-- The last record written that may be repeat-counted: its index and message. -/
  last : Option (Nat × Msg)
  /-- An episode of loss at the FIFO: start, end and messages not recorded (R513). -/
  lost : Option (Nat × Nat × Nat)
  /-- Start of the freeze (R516). -/
  frozenAt : Nat
  /-- Messages held in the freeze, oldest first: at most 16. -/
  heldMsgs : List Msg
  copy : Option RingCopy
  /-- COPY_READY was raised since the last COPY (R519). -/
  readySaid : Bool
  /-- OVERRUN was raised in this episode (R519). -/
  overrunSaid : Bool
  /-- A CLEAR waits for FREEZE and COPYING to be 0 (R530). -/
  clearWaits : Bool
  deriving DecidableEq, Repr

/-- The debug port and its engines (R523 to R531). -/
structure Debug where
  /-- Halted engines by requester code, with the cause: 1 request, 2 breakpoint, 3 step. -/
  halts : SMap Nat
  /-- Engines whose halt is requested and not yet reached. -/
  haltWanted : List Nat
  /-- Datapath registers of halted engines: register r of engine e at 64 e + r. -/
  regs : SMap (Option (BitVec 64))
  /-- Address of the next instruction of an engine. -/
  pcs : SMap Nat
  /-- Breakpoint words: BPn_LO and BPn_HI of engine e at 8 e + 2 n and 8 e + 2 n + 1. -/
  bps : SMap Word
  /-- The certificate window, CERT0–63. -/
  cert : SMap Word
  /-- Halt requests of the engines of R527 are refused until reset, PWR_FAIL having asserted. -/
  haltsBarred : Bool
  /-- The 1149.7 adapter is active (R523). -/
  adapter : Bool
  bypassBit : Bool
  /-- The boundary-scan chain. -/
  chain : List Bool
  /-- EXTEST drives the balls. -/
  extest : Bool
  /-- What the TAP last shifted out. -/
  tapOut : List Bool
  deriving DecidableEq, Repr

/-- The SMBus port: the bytes it last returned, and whether it answered NACK. -/
structure Smbus where
  data : List Byte
  nack : Bool
  deriving DecidableEq, Repr

/-! ### The machine -/

/-- The whole state of the device, and the queue of the commands that wait. -/
structure State where
  /-- The part is an SH-4820 (R2), fused at manufacture. -/
  part4820 : Bool
  /-- The time base in nanoseconds (R19). -/
  time : Nat
  /-- The page registers, by `regKey`; an unlisted key holds its reset value. -/
  regs : SMap Word
  /-- The D0 shadow of locked RWL registers (R48). -/
  rwlShadow : SMap (Option Word)
  /-- The bus (R24, R39). -/
  bus : Bus
  /-- Clock supervision (R56). -/
  clocks : Clocks
  /-- Stroke cores 0–3. -/
  strokes : SMap Stroke
  /-- For each page, the events that have occurred since its reset: whose state EV_RAW may show (R43, R61). -/
  seen : SMap Word
  /-- Messages latched and not yet delivered, oldest first (R62). -/
  fabric : List Msg
  /-- The six target queues (R62). -/
  targets : SMap Target
  /-- For a source whose leaky bucket has leaked: the time of its last leak and LEVEL before it (R67). -/
  leaks : SMap (Option (Nat × Nat))
  /-- The critical-word store (R84). -/
  crit : CritStore
  /-- The 44 hardware queues, by `QueueId.index`. -/
  queues : SMap HwQueue
  /-- Operations a queue ended as lasting and reported to their owners, newest first. -/
  ended : List EndedOp
  /-- Pages whose block stopped under HALT_ON_FAULT (R44). -/
  stopped : SMap Bool
  /-- Keel (chapter 5). -/
  keel : Keel
  /-- The rigger die. -/
  rigger : Rigger
  /-- The model's own: how many free values the run has read. -/
  free : Nat
  /-- SAFE causes (their source identifiers) on the way to the power manager, oldest first (R480). -/
  safePending : List Nat
  /-- Preamplifier ports 0 to 3. -/
  pres : SMap PrePort
  /-- HDA. -/
  hda : Hda
  /-- CAL. -/
  cal : Cal
  /-- Rudders 0 to 3. -/
  rudders : SMap Rudder
  /-- COUPLE. -/
  couple : Couple
  /-- The tuning blocks, by the engine's page. -/
  tunes : SMap Tune
  /-- Oars 0 to 15. -/
  oars : SMap Oar
  /-- Sweep. -/
  sweep : Sweep
  /-- Gates 0 to 3. -/
  gates : SMap Gate
  /-- The microcode store. -/
  ucode : Ucode
  /-- Packets on the owners' return paths, oldest first (R442). -/
  returned : List Returned
  /-- Payloads written and given to the stripe job named in the job body: job, member, payload (R246). -/
  consumed : List Consumed
  /-- Memory by 40-bit physical address: usable buffer DRAM, the shared, Cox and retained SRAMs (R36); an unlisted byte reads zero. -/
  mem : List Host.Cell
  /-- The 8 check bytes of each DRAM granule, byte 0 lowest, by granule index (R80); unlisted: those of the zero fill. -/
  checks : SMap (BitVec 64)
  /-- DRAM ports 0 and 1. -/
  drams : SMap DramPort
  /-- Boathouse. -/
  boat : Boat
  /-- The buffer cache. -/
  cache : Cache
  /-- The scrub. -/
  scrub : Scrub
  /-- Crew and the journal. -/
  crew : Crew
  /-- Slipway, its tasks, the LU table and the hazard table. -/
  slip : Slip
  /-- The power manager. -/
  power : Power
  /-- The safe store (R470 to R479). -/
  safe : SafeStore
  /-- The OTP contents. -/
  otp : Otp
  /-- The key store. -/
  keys : Keys
  /-- Crypto engines 0 and 1. -/
  cryptos : SMap Crypto
  /-- Power-on reset and the boot. -/
  chip : Chip
  /-- Umpire (R509). -/
  ump : Umpire
  /-- The debug port (R523). -/
  dbg : Debug
  /-- The SMBus port (R547). -/
  smbus : Smbus
  /-- The commands that wait, first in, first out. -/
  pending : List Instr
  deriving DecidableEq, Repr

/-- Power-on value of critical word `n` (R84); RESET_REASON is written with cause 1 by the reset block; BOOT is mode 0. -/
def critPowerOn (n : Nat) : Word :=
  if n = 2 then 1#32 else if n = 7 then 0x3390#32 else if n = 8 then 0x3520#32 else if n = 9 then 0x3A98#32
  else if n = 21 then 0x400#32 else if n = 25 then 0x1E#32 else 0#32

/-- One copy at power-on: every word at its power-on value, with the even parities of those values (R84): words 2, 8, 9
and 21 have an odd number of ones. -/
def CritCopy.powerOn : CritCopy := ⟨[], 0x00200304#32, 0x00003837#32⟩

def CritStore.powerOn : CritStore := ⟨CritCopy.powerOn, CritCopy.powerOn, CritCopy.powerOn, [], 0, []⟩

def Stroke.reset : Stroke := ⟨false, 0, none⟩

def Target.empty : Target := ⟨[], [], 0, false⟩

def QPort.empty : QPort := ⟨[], false, false, false⟩

def HwQueue.reset : HwQueue := ⟨[], [], none, [], none, false, false, [], [], [], [], none, 0⟩

def Keel.reset : Keel :=
  { currents := ⟨0, 0, 0, 0, 0, 0⟩, lockRun := 0, overRun := 0, handoverRun := 0, csBad := 0, csPhase := 0, csCount := 0, csU := false, csV := false
    runStart := none, openStart := 0, returns := 0, restartPending := false, pulses := 0, rotorAngle := 0
    fieldRpm := 0, modInt := 0, iqInt := 0, regenInt := 0, modPct := 0, iqRef := 0, idRef := 0, inertiaSet := false, reacqStart := 0, reacqStep := 0
    reacqCount := 0, reacqAttempt := 0, residual := 0, failTimes := [], failRun := 0, returnState := 0, goodDeg := 0, exhausted := false
    stopKept := false, genPending := false, target := 0, trimPpb := 0, wantPpb := 0, trimTime := 0
    refSpeed := none, lastEdge := none, phaseRun := 0, steerPpb := 0, wedgeOffset := none, raw := none, busLimitSaid := false, advance := 0
    advanceRest := 0, fallRest := 0, advanceOn := false, decelTarget := 0, regenPct := 100, reserveTime := 0 }

def RudDrive.zero : RudDrive := ⟨0, 0, []⟩

def Rigger.reset : Rigger :=
  { keelSlot := ⟨false, 0#32, 0⟩, rudSlots := [], asked := RigAsk.none, chopNew := false, faultNew := false, tripNew := false
    autonomous := false, hears := false, vcrit := false, chopOn := false, chopFault := false, chopKind := 0, chopTested := false, rigCode := 0, isoOpen := false
    held := ⟨13200, 13600, 15000, 500, 200, []⟩, badToRigger := false, badToCore := false, lastGood := 0
    spindleOn := false, duty := 0#32, limitMa := 0, coil := [], milli := [], third := [], coilsOn := true, microOn := true
    chopMv := 0, chopTime := 0, chopSaid := false }

def PrePort.reset : PrePort := ⟨[], [], none, 0, none, [], 0, 0, [], [], false, false⟩

def Hda.reset : Hda := ⟨none, ⟨none, false, false⟩, ⟨none, false, false⟩, []⟩

def Loop.zero : Loop := ⟨[], 0⟩

def RudSlot.empty : RudSlot :=
  { used := false, wait := false, head := 0, write := false, centre := 0, zone := 0, target := 0, off := 0, disp := 0
    clamped := false, est := [], mode := 0, pes := 0, loop := Loop.zero, da := 0, ss := 0, measured := none, meas := 0, wedgeGood := false, onTrack := false, onRun := 0, wf := false, clean := 0, readOff := false, demod := none
    badRun := 0, late := false, sat := false, tsMv := 0, ssRun := 0 }

def PesWindow.empty : PesWindow := ⟨none, 0, 0, false⟩

/-- A Rudder after its reset; its latch of CPL_CFG holds the reset value (R193; log entry 170). -/
def Rudder.reset : Rudder :=
  { slots := [], pending := none, arm := 0, armPes := 0, coilLoop := Loop.zero, milliLoop := Loop.zero, rvSections := [], ffCoil := 0
    ffReact := 0, ffRv := 0, coilIma := 0, sumIn := 0, sumOut := 0, sent := ⟨0, 0, 0⟩, sentNo := 0, wedge := 0, sub := 0
    windowRun := 0, windows := [], lostRun := 0, huntRun := 0, huntGood := 0, huntPos := none, missedRun := 0, seekFirst := 0
    seekStart := 0, seekDist := 0, seekBin := 0, seekFrom := 0, seekAgain := false, seeking := false
    loadHead := 0, loadStart := 0, loadAgain := false, acquired := false, reload := false, parkFault := false
    driveStart := 0, currentStart := none, latched := false, rigged := false, banks := [], loadFrom := 0, coupleCfg := 0x1F#32
    coupled := [], ssOff := [], notes := [] }

def Coupled.reset : Coupled :=
  { coilMa := 0, milliMv := 0, taken := 0, bad := 0, good := 0, dropped := false, wedgeMa := 0, ripeMa := 0, coilSections := []
    reactSections := [] }

def Sensor.reset : Sensor := ⟨0, 0, 0, false⟩

def Tune.reset : Tune :=
  { buf := [], records := 0, thin := 0, trigger := none, left := 0, prev := none, start := 0, lfsr := 0x7FFFFF, hold := 0, count := 0
    sums := [], injected := 0, satRuns := [], stopped := false }

def Oar.reset : Oar := ⟨[], none, none, [], [], [], [], none, (0, 0), 0, none, none, none, none, none, [], 0, [], []⟩

def Decoder.fresh : Decoder := ⟨[], []⟩

def Sweep.reset : Sweep := ⟨[], [], 0, [], [], []⟩

def Gate.reset : Gate := ⟨[], [], [], [], 0, 0, [], none, [], [], false, none, none⟩

def DramPort.reset : DramPort := ⟨0, none, false, 2⟩

def Boat.reset : Boat := ⟨[], [], [], [], [], [], [], none, []⟩

def Cache.reset : Cache := ⟨[], [], none, 0#64⟩

def Crew.reset : Crew := ⟨[], [], [], [], 0, [], [], false, [], none, 0, false, false, 0, none, 0, [], none, [], 0, [], [], []⟩

def Slip.reset : Slip := ⟨[], [], [], [], 0, 0, 0, [], [], [], 0, false, none, none, 0, [], []⟩
def SasLane.reset : SasLane := ⟨none, false, [], 0, 0⟩

def Power.reset : Power :=
  { trigger := none, readOnly := none, entering := none, exiting := none, later := none, after := none, idleSince := none
    quietSince := none, deferred := [], ctxPages := [], tables := [], reloaded := [], loading := [], skipped := []
    wbSince := none, warned12 := false, warned5 := false }

def Nand.blank : Nand := ⟨0, 0, 0, 0, [], []⟩

def SafeStore.reset : SafeStore :=
  { nand := Nand.blank, found := false, tested := false, testTime := 0, testDue := false, dump := none, running := none
    newest := none, cutting := [], waiting := [] }


def Otp.blank : Otp :=
  { serial := Config.serial, gradeL := Config.gradeL, deployed := false, secret := none, idPriv := none, idPub := none
    vendorKeyHash := some Config.vendorKeyHash, vendorDebugHash := some Config.vendorDebugHash, ownerHash := [], revoke := 0
    ownerDebugHash := none, rollback := 0, bootA := none, bootB := none, lost := [] }

def Keys.reset : Keys := ⟨[], false, none, [], List.replicate 48 0#8, none, 0⟩

def Crypto.reset : Crypto := ⟨none⟩

/-- The machine right after the release of power-on reset (R541, R455): every register at its reset value, no command waiting. -/
def State.reset : State :=
  { part4820 := false
    time := 0
    regs := []
    rwlShadow := []
    bus := ⟨0#32, false, [], [], [], []⟩
    clocks := ⟨[], [], none, []⟩
    strokes := []
    seen := []
    fabric := []
    targets := []
    leaks := []
    crit := CritStore.powerOn
    queues := []
    ended := []
    stopped := []
    keel := Keel.reset
    rigger := Rigger.reset
    free := 0
    safePending := []
    pres := []
    hda := Hda.reset
    cal := ⟨[], [], [], [], [], none⟩
    rudders := []
    couple := ⟨[], 0, 0, none⟩
    tunes := []
    oars := []
    sweep := Sweep.reset
    gates := []
    ucode := ⟨[], [], [], [], [], [], [], []⟩
    returned := []
    consumed := []
    mem := []
    checks := []
    drams := []
    boat := Boat.reset
    cache := Cache.reset
    scrub := ⟨0, 0, false⟩
    crew := Crew.reset
    slip := Slip.reset
    power := Power.reset
    safe := SafeStore.reset
    otp := Otp.blank
    keys := Keys.reset
    cryptos := []
    chip := ⟨none, 0, false, false, false, []⟩
    ump := ⟨[], [], none, none, 0, [], none, false, false, false⟩
    dbg := ⟨[], [], [], [], [], [], false, false, false, [], false, []⟩
    smbus := ⟨[], false⟩
    pending := [] }

end Sys2Proof.Machine
end

