-- ==== Sys2Proof/Machine/Ops.lean ====
section
/-! DEFINITION. The named operations every meaning is written with: register access, the critical-word store, events,
the retry rule's outcomes, refused accesses and the bus. -/

namespace Sys2Proof.Machine

/-! ### Pages, domains, islands (R18, R40, R59) -/

/-- Power domain and clock island of a page (R18, R40); none for a page number that is not assigned. -/
def pagePlace (p : Nat) : Option (Nat × Nat) :=
  if p = 0x000 ∨ p = 0x001 ∨ p = 0x002 ∨ p = 0x003 ∨ p = 0x005 ∨ p = 0x080 ∨ p = 0x090 then some (0, 1)
  else if p = 0x004 ∨ p = 0x008 ∨ p = 0x009 ∨ p = 0x024 ∨ p = 0x044 ∨ p = 0x071 ∨ p = 0x08C ∨ p = 0x08D then some (6, 7)
  else if p = 0x010 ∨ p = 0x07A ∨ p = 0x098 then some (1, 2)
  else if 0x011 ≤ p ∧ p ≤ 0x014 then some (p - 0x011 + 2, p - 0x011 + 3)
  else if 0x020 ≤ p ∧ p ≤ 0x023 then some (p - 0x020 + 9, p - 0x020 + 11)
  else if p = 0x028 then some (15, 21)
  else if 0x030 ≤ p ∧ p ≤ 0x03F then some ((p - 0x030) / 4 + 9, (p - 0x030) / 4 + 15)
  else if 0x040 ≤ p ∧ p ≤ 0x043 then some (p - 0x040 + 9, p - 0x040 + 11)
  else if p = 0x048 then some (13, 19)
  else if 0x050 ≤ p ∧ p ≤ 0x059 then some (14, 20)
  else if 0x060 ≤ p ∧ p ≤ 0x065 then some (8, 10)
  else if p = 0x070 ∨ p = 0x074 then some (7, 9)
  else if p = 0x072 ∨ p = 0x073 then some (7, 8)
  else if p = 0x078 ∨ p = 0x079 then some (16, 22)
  else if p = 0x081 ∨ p = 0x082 then some (18, 24)
  else if 0x088 ≤ p ∧ p ≤ 0x08B then some (p - 0x088 + 9, p - 0x088 + 11)
  else if p = 0x091 then some (17, 23)
  else none

/-- First event source of a page and its number of events (R59). -/
def pageEvents (p : Nat) : Nat × Nat :=
  if p = 0x000 then (0, 16) else if p = 0x001 then (16, 12) else if p = 0x002 then (28, 8)
  else if p = 0x003 then (36, 4) else if p = 0x004 then (40, 8) else if p = 0x005 then (48, 8)
  else if p = 0x024 then (56, 4) else if p = 0x044 then (60, 4) else if p = 0x010 then (64, 12)
  else if p = 0x098 then (76, 4) else if 0x011 ≤ p ∧ p ≤ 0x014 then (80 + 12 * (p - 0x011), 12)
  else if 0x020 ≤ p ∧ p ≤ 0x023 then (128 + 32 * (p - 0x020), 32) else if p = 0x028 then (256, 32)
  else if 0x030 ≤ p ∧ p ≤ 0x03F then (288 + 32 * (p - 0x030), 32)
  else if 0x040 ≤ p ∧ p ≤ 0x043 then (800 + 16 * (p - 0x040), 16) else if p = 0x048 then (864, 32)
  else if 0x050 ≤ p ∧ p ≤ 0x057 then (896 + 6 * (p - 0x050), 6) else if p = 0x058 then (944, 8)
  else if p = 0x059 then (952, 8) else if 0x060 ≤ p ∧ p ≤ 0x063 then (960 + 12 * (p - 0x060), 12)
  else if p = 0x064 then (1008, 8) else if p = 0x065 then (1016, 8) else if p = 0x070 then (1024, 16)
  else if p = 0x071 then (1040, 12) else if p = 0x072 ∨ p = 0x073 then (1052 + 6 * (p - 0x072), 6)
  else if p = 0x074 then (1064, 8) else if p = 0x078 ∨ p = 0x079 then (1072 + 6 * (p - 0x078), 6)
  else if p = 0x07A then (1084, 4) else if p = 0x080 then (1088, 8) else if p = 0x081 then (1096, 4)
  else if p = 0x082 then (1100, 4) else if 0x088 ≤ p ∧ p ≤ 0x08B then (1104 + 6 * (p - 0x088), 6)
  else if p = 0x08C then (1128, 4) else if p = 0x08D then (1132, 4) else if p = 0x090 then (1136, 8)
  else if p = 0x091 then (1144, 8) else (0, 0)

/-- Number of the first page of the block kind: ID.TYPE (R44). -/
def pageType (p : Nat) : Nat :=
  if p = 0x009 then 0x008 else if 0x011 ≤ p ∧ p ≤ 0x014 then 0x011 else if 0x020 ≤ p ∧ p ≤ 0x023 then 0x020
  else if 0x030 ≤ p ∧ p ≤ 0x03F then 0x030 else if 0x040 ≤ p ∧ p ≤ 0x043 then 0x040
  else if 0x050 ≤ p ∧ p ≤ 0x057 then 0x050 else if 0x060 ≤ p ∧ p ≤ 0x063 then 0x060
  else if p = 0x073 then 0x072 else if p = 0x079 then 0x078 else if 0x088 ≤ p ∧ p ≤ 0x08B then 0x088 else p

/-- The page belongs to an actuator port that the SH-4820 lacks (R2). -/
def pageOn4840Only (p : Nat) : Bool :=
  (p == 0x022) || (p == 0x023) || (p == 0x042) || (p == 0x043) || (decide (0x038 ≤ p) && decide (p ≤ 0x03F))
    || (p == 0x08A) || (p == 0x08B)

/-! ### Hardware queues: index, place and size (R91) -/

/-- The queue's place in `State.queues`. -/
def qIndex : QueueId → Nat
  | .intake => 0
  | .firmware c => 1 + c.val
  | .gate a => 5 + a.val
  | .oarJob o => 9 + o.val
  | .oarDone o => 25 + o.val
  | .stripe => 41
  | .xact e => 42 + e.val

/-- Owner page, register block offset, instance index within the page, slots, AGE_US at reset. -/
def qPlace : QueueId → Nat × Nat × Nat × Nat × Nat
  | .intake => (0x064, 0x100, 0, 1024, 100)
  | .firmware c => (0x064, 0x180 + 0x80 * c.val, 1 + c.val, 256, 1000)
  | .gate a => (0x040 + a.val, 0x100, 0, 512, 200)
  | .oarJob o => (0x030 + o.val, 0x100, 0, 64, 50)
  | .oarDone o => (0x030 + o.val, 0x180, 1, 64, 50)
  | .stripe => (0x058, 0x100, 0, 512, 200)
  | .xact e => (0x070, 0x100 + 0x80 * e.val, e.val, 1024, 100)

def qPage (q : QueueId) : Nat := (qPlace q).1
def qInstance (q : QueueId) : Nat := (qPlace q).2.2.1
def qSlots (q : QueueId) : Nat := (qPlace q).2.2.2.1

/-- Key of a register of the queue's block at relative offset `off` (R103). -/
def qReg (q : QueueId) (off : Nat) : Nat := regKey (qPage q) ((qPlace q).2.1 + off)

/-- Every queue. -/
def allQueues : List QueueId :=
  [.intake] ++ (List.finRange 4).map .firmware ++ (List.finRange 4).map .gate ++ (List.finRange 16).map .oarJob
    ++ (List.finRange 16).map .oarDone ++ [.stripe] ++ (List.finRange 2).map .xact

/-- The queues whose register block lies in page `p`. -/
def queuesOf (p : Nat) : List QueueId := allQueues.filter (fun q => qPage q == p)

/-! ### Register maps and reset values -/

/-- Queue register maps with the values of R91. -/
def queueRows (q : QueueId) : List RegRow :=
  let b := (qPlace q).2.1
  rows_q.map fun r =>
    { r with off := b + r.off
             reset := if r.off = 0 then word (0x10000 + (qPlace q).2.2.2.2) else if r.off = 8 then word (qSlots q) else r.reset }

/-- The tuning block's map: GUARD differs between Keel and Rudder (R224). -/
def tuneRows (keel : Bool) : List RegRow :=
  rows_tune.map fun r =>
    if r.off = 0x150 then
      { r with reset := if keel then 0x001007D0#32 else 0x00100800#32
               wmask := if keel then 0x00FF3FFF#32 else 0x00FF0FFF#32
               clips := [if keel then ⟨13, 0, 10, 10000, 10, 10000⟩ else ⟨11, 0, 64, 4095, 64, 4095⟩, ⟨23, 16, 1, 255, 1, 255⟩] }
    else r

/-- The register map of a page above its header (R40). -/
def pageRows (p : Nat) : List RegRow :=
  if p = 0x000 then rows_sys else if p = 0x001 then rows_pwr else if p = 0x002 then rows_clk
  else if p = 0x003 then rows_claim else if p = 0x004 then rows_evf else if p = 0x005 then rows_crit
  else if p = 0x010 then rows_cox else if 0x011 ≤ p ∧ p ≤ 0x014 then rows_stroke
  else if 0x020 ≤ p ∧ p ≤ 0x023 then rows_rudder ++ tuneRows false else if p = 0x024 then rows_couple
  else if p = 0x028 then rows_keel ++ tuneRows true else if 0x030 ≤ p ∧ p ≤ 0x03F then rows_oar
  else if 0x040 ≤ p ∧ p ≤ 0x043 then rows_gate else if p = 0x044 then rows_haz else if p = 0x048 then rows_sweep
  else if 0x050 ≤ p ∧ p ≤ 0x057 then rows_crew else if p = 0x058 then rows_crewg else if p = 0x059 then rows_jrnl
  else if 0x060 ≤ p ∧ p ≤ 0x063 then rows_slip else if p = 0x064 then rows_slipc else if p = 0x065 then rows_lut
  else if p = 0x070 then rows_boat else if p = 0x071 then rows_cache else if p = 0x072 ∨ p = 0x073 then rows_dram
  else if p = 0x074 then rows_scrub else if p = 0x078 ∨ p = 0x079 then rows_crypto else if p = 0x07A then rows_keys else if p = 0x080 then rows_ump
  else if p = 0x081 then rows_dbg else if p = 0x082 then rows_atb else if 0x088 ≤ p ∧ p ≤ 0x08B then rows_pre
  else if p = 0x08C then rows_hda else if p = 0x08D then rows_cal else if p = 0x090 then rows_drv
  else if p = 0x091 then rows_safe else if p = 0x098 then rows_ucode else []

/-- The row of offset `off` in a register map. -/
def findRow (rows : List RegRow) (off : Nat) : Option RegRow :=
  rows.find? fun r => decide (r.off ≤ off) && decide (off < r.off + 4 * r.count)

/-- The header rows of R43 for a page. -/
def headerRow (p off : Nat) : Option RegRow :=
  let en := if (pagePlace p).any (fun d => d.1 == 0 || d.1 == 1) then 1#32 else 0#32
  if off = 0x000 then some ⟨0, 1, .ro, word (pageType p * 65536 + (p - pageType p) * 256 + 1), 0, []⟩
  else if off = 0x004 then some ⟨4, 1, .ro, 0xA1#32, 0, []⟩
  else if off = 0x008 then some ⟨8, 1, .rw, en, 0x5#32, []⟩
  else if off = 0x014 then some ⟨0x14, 1, .rw, word (2 ^ (pageEvents p).2 - 1), word (2 ^ (pageEvents p).2 - 1), []⟩
  else if off = 0x018 then some ⟨0x18, 1, .w1c, 0, word (2 ^ (pageEvents p).2 - 1), []⟩
  else if off = 0x01C then some ⟨0x1C, 1, .w1s, 0, 0, []⟩
  else if off = 0x024 then some ⟨0x24, 1, .w1s, 0, 0, []⟩
  else if off = 0x028 then
    some ⟨0x28, 1, .ro, (pagePlace p).elim 0 (fun d => word (d.2 * 256 + d.1)), 0, []⟩
  else if off = 0x00C ∨ off = 0x010 ∨ off = 0x020 then some ⟨off, 1, .ro, 0, 0, []⟩
  else none

/-- The register at `off` of page `p`: its row, or none where the page lists no register (R41). EVSRC entries: R63. -/
def regRow (p off : Nat) : Option RegRow :=
  if off < 0x40 then headerRow p off
  else if p = 0x008 ∨ p = 0x009 then
    if p = 0x008 ∨ off < 0x280 then some ⟨off, 1, .rw, 0x000A1011#32, 0x000FFF37#32, [⟨2, 0, 0, 6, 0, 0⟩]⟩ else none
  else
    match findRow (pageRows p) off with
    | some r => some r
    | none => (queuesOf p).findSome? fun q => findRow (queueRows q) off

/-- The reset value of the register at a key. -/
def regReset (k : Nat) : Word := ((regRow (k / 0x1000) (k % 0x1000)).map RegRow.reset).getD 0#32

/-! ### Register access -/

/-- The stored value of the register at key `k`. -/
def State.reg (s : State) (k : Nat) : Word := SMap.get regReset s.regs k

/-- `s` with the register at key `k` holding `v`. -/
def State.setReg (s : State) (k : Nat) (v : Word) : State := { s with regs := SMap.set regReset s.regs k v }

/-- Bits [hi:lo] of a register. -/
def State.fld (s : State) (k hi lo : Nat) : Nat := Sys2Proof.fld (s.reg k) hi lo

/-- Bit `i` of a register. -/
def State.bit (s : State) (k i : Nat) : Bool := Sys2Proof.bit (s.reg k) i

def State.setFld (s : State) (k hi lo v : Nat) : State := s.setReg k (Sys2Proof.setFld (s.reg k) hi lo v)

def State.setBit (s : State) (k i : Nat) (b : Bool) : State := s.setReg k (Sys2Proof.setBit (s.reg k) i b)

/-- A counter that stops at 0xFFFF_FFFF, increased by `n`. -/
def State.count (s : State) (k n : Nat) : State := s.setReg k (word (satAdd 0xFFFFFFFF (s.reg k).toNat n))

/-- A counter in bits [hi:lo] that stops at all ones, increased by `n`. -/
def State.countFld (s : State) (k hi lo n : Nat) : State :=
  s.setFld k hi lo (satAdd (2 ^ (hi + 1 - lo) - 1) (s.fld k hi lo) n)

/-- A high-water mark register holds the highest count seen. -/
def State.mark (s : State) (k hi lo n : Nat) : State := if s.fld k hi lo < n then s.setFld k hi lo n else s

/-- A 64-bit quantity in two registers, low word first (R39). -/
def State.reg64 (s : State) (lo : Nat) : Nat := ofWords (s.reg lo) (s.reg (lo + 4))

def State.setReg64 (s : State) (lo n : Nat) : State := (s.setReg lo (loWord n)).setReg (lo + 4) (hiWord n)

/-- The next free value, and the state that has read it (log entry 3). -/
def State.freeWord (s : State) : Word := Config.freeWord s.free

def State.useFree (s : State) : State := { s with free := s.free + 1 }

/-- Is every condition met: then `f`, else the state stays (log entry 2). -/
def State.when (s : State) (c : Bool) (f : State → State) : State := if c then f s else s

/-! ### Blocks: present, powered, running -/

/-- Domain `d` is on (PWR.DOMAINS). -/
def domainOn (s : State) (d : Nat) : Bool := s.bit Reg.PWR.DOMAINS d

/-- The page's block exists in this part (R2). -/
def pagePresent (s : State) (p : Nat) : Bool := !(s.part4820 && pageOn4840Only p)

/-- The page's domain is on. -/
def pageOn (s : State) (p : Nat) : Bool :=
  match pagePlace p with
  | some (d, _) => domainOn s d && pagePresent s p
  | none => false

/-- The clock of island `i` stands (R56). -/
def islandStopped (s : State) (i : Nat) : Bool := (SMap.get (fun _ => none) s.clocks.stopped i).isSome

/-- The clock of the page's island runs. -/
def pageClocked (s : State) (p : Nat) : Bool :=
  match pagePlace p with
  | some (_, i) => !islandStopped s i
  | none => false

def inMachineCheck (s : State) (p : Nat) : Bool := s.bit (Reg.STATUS p) 3

/-- The block stopped at its first lasting fault (CTRL.HALT_ON_FAULT, R44). -/
def isStopped (s : State) (p : Nat) : Bool := SMap.get (fun _ => false) s.stopped p

/-- Domain `d` is switching on or off (R25). -/
def inTransit (s : State) (d : Nat) : Bool := (SMap.get (fun _ => none) s.clocks.transit d).isSome

/-- Messages travel the always-on path: D6 is off or in transition (R66). -/
def aonPath (s : State) : Bool := !domainOn s 6 || inTransit s 6

/-- The block works: powered, clocked, not in machine check and not stopped. Boathouse works on one engine (R326). -/
def blockAlive (s : State) (p : Nat) : Bool :=
  pageOn s p && pageClocked s p && !isStopped s p
    && !(inMachineCheck s p && (p != Page.BOAT || (s.bit Reg.BOAT.ENGINE_STATE 1 && s.bit Reg.BOAT.ENGINE_STATE 2)))

/-- The block takes new work: alive and enabled, no soft reset running (R44). -/
def blockRuns (s : State) (p : Nat) : Bool :=
  blockAlive s p && s.bit (Reg.CTRL p) 0 && !s.bit (Reg.CTRL p) 1

/-! ### Events (R61) -/

/-- Payload of an event: three words. -/
structure Payload where
  p0 : Word := 0#32
  p1 : Word := 0#32
  p2 : Word := 0#32

/-- Source identifier of event `k` of page `p` (R59). -/
def sourceOf (p k : Nat) : Nat := (pageEvents p).1 + k

/-- A message enters the fabric. -/
def State.send (s : State) (m : Msg) : State := { s with fabric := s.fabric ++ [m] }

/-- The events of page `p` that have occurred since its reset. -/
def State.seenEvents (s : State) (p : Nat) : Word := SMap.get (fun _ => 0#32) s.seen p

/-- Event `k` of page `p` occurs: EV_PEND is set (R43, R61). -/
def markEvent (p k : Nat) (s : State) : State :=
  { s.setBit (Reg.EV_PEND p) k true with seen := SMap.set (fun _ => 0#32) s.seen p (Sys2Proof.setBit (s.seenEvents p) k true) }

/-- One occurrence of event `k` of page `p` (R61): EV_PEND is set, and a message is sent while EV_ENABLE has the bit or the
severity is 4. A page that is absent or unpowered raises nothing (R2, R66). -/
def raise (p k sev code : Nat) (pl : Payload) (s : State) : State :=
  if pageOn s p && decide (k < (pageEvents p).2) then
    let s1 := markEvent p k s
    if s.bit (Reg.EV_ENABLE p) k || sev == 4 then
      s1.send ⟨sourceOf p k, sev, code % 65536, pl.p0, pl.p1, pl.p2, s.time, 7, aonPath s⟩
    else s1
  else s

/-- The layout of FAULT_CODE (R75). -/
def faultWord (sev source code : Nat) : Word :=
  word (0x80000000 + sev % 8 * 2 ^ 28 + source % 4096 * 65536 + code % 65536)

/-- The first fault is recorded in STATUS.FAULT and FAULT_CODE; a later one does not overwrite it (R44, R70). -/
def recordFault (p sev source code : Nat) (s : State) : State :=
  if s.bit (Reg.FAULT_CODE p) 31 then s
  else (s.setReg (Reg.FAULT_CODE p) (faultWord sev source code)).setBit (Reg.STATUS p) 2 true

/-- A lasting fault is recorded, and the block stops if HALT_ON_FAULT says so (R44, R70). -/
def haltFault (p source code : Nat) (s : State) : State :=
  let s1 := recordFault p 3 source code s
  if s1.bit (Reg.CTRL p) 2 then { s1 with stopped := SMap.set (fun _ => false) s1.stopped p true } else s1

/-- A lasting error of page `p` (R70): a severity-3 message, FAULT and FAULT_CODE, and the stop of HALT_ON_FAULT. The end of
the job is the caller's. -/
def lasting (p k code : Nat) (pl : Payload) (s : State) : State := haltFault p (sourceOf p k) code (raise p k 3 code pl s)

/-- A transient event (R68): a recomputation succeeded. -/
def transient (p k code : Nat) (pl : Payload) (s : State) : State := raise p k 1 code pl s

/-- A cause of SAFE is on its way to the power manager (R480). -/
def safeCause (source : Nat) (s : State) : State := { s with safePending := s.safePending ++ [source] }

/-! ### Critical words (R84 to R89) -/

def CritCopy.get (c : CritCopy) (n : Nat) : Word := SMap.get critPowerOn c.words n

/-- Write word `n` of one copy and bring its parities along (R84). -/
def CritCopy.put (c : CritCopy) (n : Nat) (v : Word) : CritCopy :=
  { words := SMap.set critPowerOn c.words n v
    row := Sys2Proof.setBit c.row n (xorBits v)
    col := c.col ^^^ c.get n ^^^ v }

/-- The copy numbered 0 (A), 1 (B) or 2 (C). -/
def CritStore.copy (c : CritStore) (i : Nat) : CritCopy := if i = 0 then c.a else if i = 1 then c.b else c.c

def CritStore.setCopy (c : CritStore) (i : Nat) (x : CritCopy) : CritStore :=
  if i = 0 then { c with a := x } else if i = 1 then { c with b := x } else { c with c := x }

/-- The column parity that a copy's 32 words have. -/
def critColParity (c : CritCopy) : Word := (List.range 32).foldl (fun p n => p ^^^ c.get n) 0#32

/-- The row parity that a copy's 32 words have. -/
def critRowParity (c : CritCopy) : Word := (List.range 32).foldl (fun p n => Sys2Proof.setBit p n (xorBits (c.get n))) 0#32

/-- The lowest bit set in a word; 0 for none. -/
def lowBit (w : Word) : Nat := ((List.range 32).find? (fun i => w.getLsbD i)).getD 0

/-- The bit of word `n` that the parities of a copy locate: exactly one row mismatches, at `n`, and exactly one column (R87). -/
def CritCopy.badBit (c : CritCopy) (n : Nat) : Option Nat :=
  let colBad := c.col ^^^ critColParity c
  if c.row ^^^ critRowParity c = word (2 ^ n) ∧ colBad ≠ 0#32 ∧ colBad = word (2 ^ lowBit colBad) then some (lowBit colBad) else none

/-- A copy with the located bit of word `n` inverted (R87). -/
def CritCopy.mended (n : Nat) (c : CritCopy) : CritCopy :=
  match c.badBit n with
  | some b => { c with words := SMap.set critPowerOn c.words n (c.get n ^^^ word (2 ^ b)) }
  | none => c

/-- The value at least two copies hold (R86). -/
def critVote (c : CritStore) (n : Nat) : Option Word :=
  let a := c.a.get n; let b := c.b.get n; let d := c.c.get n
  if a = b then some a else if a = d then some a else if b = d then some b else none

/-- What a reader of word `n` gets: the vote, that of the mended copies where all three differ, or all ones (R86, R87). The hardware's own
reads leave the repair to the next read or sweep (log entry 132). -/
def State.critVal (s : State) (n : Nat) : Word :=
  if n ∈ s.crit.bad then 0xFFFFFFFF#32
  else match critVote s.crit n with
  | some v => v
  | none => (critVote { s.crit with a := s.crit.a.mended n, b := s.crit.b.mended n, c := s.crit.c.mended n } n).getD 0xFFFFFFFF#32

/-- A write of word `n`: all three copies and their parities (R84); a word that stood uncorrectable is whole again (R87). -/
def State.critPut (s : State) (n : Nat) (v : Word) : State :=
  let s1 : State := { s with crit := { a := s.crit.a.put n v, b := s.crit.b.put n v, c := s.crit.c.put n v
                                       bad := s.crit.bad.filter (· ≠ n), wroteAt := s.time
                                       wrote := n :: (if s.crit.wroteAt = s.time then s.crit.wrote else []) } }
  if n ∈ s.crit.bad ∧ s1.crit.bad = [] then s1.setBit Reg.CRIT.CRIT_STATUS 24 false else s1

/-- Bits [hi:lo] of critical word `n`. -/
def State.critFld (s : State) (n hi lo : Nat) : Nat := Sys2Proof.fld (s.critVal n) hi lo

/-- A block of page `p` is in machine check: STATUS.MCHK, FAULT_CODE, MCHK_STATE, and SYS raises MACHINE_CHECK (R54, R74). -/
def markCheck (p source code : Nat) (s : State) : State :=
  let s1 := s.setBit (Reg.STATUS p) 3 true
  let s2 := if s1.bit (Reg.FAULT_CODE p) 31 then s1 else s1.setReg (Reg.FAULT_CODE p) (faultWord 4 source code)
  let st := s2.reg Reg.SYS.MCHK_STATE
  let st1 := if fld st 27 16 = 0 ∧ !inMachineCheck s Page.SYS then Sys2Proof.setFld st 27 16 (sourceOf p 0) else st
  let s3 := s2.setReg Reg.SYS.MCHK_STATE (Sys2Proof.setFld (Sys2Proof.setBit st1 31 true) 5 0 (satAdd 63 (fld st1 5 0) 1))
  raise Page.SYS 0 4 code { p0 := word (sourceOf p 0) } s3

/-- No two copies of word `n` agree, mended or not, and that is not yet recorded (R87). -/
def State.critSplit (s : State) (n : Nat) : Bool :=
  !s.crit.bad.contains n && (critVote s.crit n).isNone
    && (critVote { s.crit with a := s.crit.a.mended n, b := s.crit.b.mended n, c := s.crit.c.mended n } n).isNone

/-- The word cannot be brought to agreement: CRIT_STATUS, UNCORRECTABLE, the machine check of the store, and SAFE (R74, R87). -/
def critLost (n : Nat) (s : State) : State :=
  let s1 : State := { s with crit := { s.crit with bad := n :: s.crit.bad } }
  let s2 := (s1.setBit Reg.CRIT.CRIT_STATUS 24 true).setFld Reg.CRIT.CRIT_STATUS 30 26 n
  let s3 := raise Page.CRIT 3 4 0 {} s2
  if inMachineCheck s3 Page.CRIT then s3
  else safeCause (sourceOf Page.CRIT 0) (markCheck Page.CRIT (sourceOf Page.CRIT 3) 0 s3)

/-- The hardware changes bits [hi:lo] of critical word `n`: it reads the word, which may show it to be uncorrectable, and writes it. -/
def State.setCritFld (s : State) (n hi lo v : Nat) : State :=
  let s1 := if s.critSplit n then critLost n s else s
  s1.critPut n (Sys2Proof.setFld (s1.critVal n) hi lo v)

/-- The critical word of which the register at key `k` is a view (R46, R84). -/
def critWordOf (k : Nat) : Option Nat :=
  if k = Reg.PWR.MODE then some 0 else if k = Reg.PWR.MODE_TARGET then some 1
  else if k = Reg.SYS.RESET_REASON then some 2 else if k = Reg.HDA.ACT_POP then some 3
  else if k = Reg.CREWG.MEMBER_FAIL then some 4 else if k = Reg.KEEL.SPD_TARGET then some 5
  else if k = Reg.KEEL.SPD_SRC then some 6 else if k = Reg.DRV.V_REGEN_LIMIT then some 7
  else if k = Reg.DRV.V_CHOP_ON then some 8 else if k = Reg.DRV.V_CRIT then some 9
  else if k = Reg.LUT.ROOT_LO then some 10 else if k = Reg.LUT.ROOT_HI then some 11
  else if k = Reg.LUT.GEN then some 12 else if k = Reg.CREWG.BAND_SWITCH then some 13
  else if k = Reg.CREWG.LOST_MAP_ROOT then some 14 else if k = Reg.JRNL.LOC then some 15
  else if k = Reg.JRNL.STATE then some 16 else if k = Reg.SAFE.AREA_A then some 17
  else if k = Reg.SAFE.AREA_B then some 18 else if k = Reg.SAFE.ACTIVE then some 19
  else if k = Reg.SAFE.DUMP_STATE then some 20 else if k = Reg.BOAT.DIRTY_LIMIT then some 21
  else if k = Reg.BOAT.WB_STATE then some 22 else if k = Reg.KEYS.SEL_LO then some 23
  else if k = Reg.KEYS.SEL_HI then some 24 else if k = Reg.SYS.PROGRESS_LIMIT then some 25
  else if k = Reg.COX.FW_IMAGE then some 26 else if k = Reg.UMP.MEDIA_PTR then some 27
  else if k = Reg.UMP.MEDIA_SEQ then some 28 else if k = Reg.SYS.BOOT_COUNT then some 29
  else if Reg.CRIT.WORD 0 ≤ k ∧ k ≤ Reg.CRIT.WORD 31 ∧ (k - Reg.CRIT.WORD 0) % 4 = 0 then some ((k - Reg.CRIT.WORD 0) / 4)
  else none

/-! ### Machine mode -/

/-- MODE (critical word 0, R455). -/
def mode (s : State) : Nat := s.critFld 0 3 0

/-- MODE is one of the levels I1 to S2 (R456). -/
def isLevel (m : Nat) : Bool := decide (2 ≤ m) && decide (m ≤ 6)

/-- MODE is SAFE: Crew and Gate admit no further write work (R480). -/
def inSafe (s : State) : Bool := mode s == 7

/-- A level is being entered, held or left: Crew starts no background job (R461 step 1). -/
def levelHolds (s : State) : Bool := s.power.entering.isSome || isLevel (mode s)

/-- Gate admits nothing further to its slots (R461 step 2). -/
def gateQuiet (s : State) : Bool := s.power.entering.any (fun e => decide (1 ≤ e.2)) || isLevel (mode s)

/-- A flag as a bit. -/
def ofBool (b : Bool) : Nat := if b then 1 else 0

/-! ### Requesters and refused accesses (R37 to R42, R553) -/

/-- The requester's code (R42). -/
def Requester.code : Requester → Nat
  | .cox => 1
  | .stroke n => 2 + n.val
  | .rudder n => 8 + n.val
  | .keel => 0x0C
  | .powerManager => 0x0D
  | .debugPort => 0x0E
  | .engine n => 0x10 + n.val

/-- An access refused or failed (R553): `kind` 1 UNMAPPED_ACCESS to 6 BUS_TIMEOUT is recorded and raised. -/
def refuseAccess (req : Requester) (addr : Addr) (wr : Bool) (kind : Nat) (s : State) : State :=
  let info := Requester.code req + kind * 256 + (if wr then 4096 else 0)
  let a := addr.toNat
  let pg := (a - 0x20000000) / 0x1000
  let w2 := if 0x20000000 ≤ a ∧ a < 0x40000000 then word (pg % 2 ^ 17 ||| (a % 0x1000) * 65536) else 0#32
  let s1 := (((s.setReg Reg.SYS.ERR_INFO (word info)).setReg Reg.SYS.ERR_ADDR_LO (loWord a)).setReg
    Reg.SYS.ERR_ADDR_HI (hiWord a)).count Reg.SYS.ERR_COUNT 1
  let pl : Payload := ⟨loWord a, hiWord a, w2⟩
  if kind = 6 then lasting Page.SYS 6 info pl s1 else raise Page.SYS kind 5 info pl s1

/-- The bus ends an access with a bus error to the requester. -/
def busError (s : State) : State := { s with bus := { s.bus with error := true } }

/-- The bus ends an access well, with data `v` for a read. -/
def busOk (v : Word) (s : State) : State := { s with bus := { s.bus with error := false, data := v } }

/-- The address of offset `off` of page `p` (R36). -/
def pageAddr (p off : Nat) : Addr := BitVec.ofNat 40 (0x20000000 + p * 0x1000 + off)

/-- The address of the register at key `k`. -/
def keyAddr (k : Nat) : Addr := BitVec.ofNat 40 (0x20000000 + k)

end Sys2Proof.Machine
end

