-- ==== Sys2Proof/Machine/TuneOps.lean ====
section
/-! DEFINITION. The tuning blocks: recording, triggers, the generator and trips (R209 to R223). A block is named by the page of
its engine. -/

namespace Sys2Proof.Machine

/-- The number that bytes spell, least significant first. -/
def ofBytes : List Byte → Nat
  | [] => 0
  | b :: bs => b.toNat + 256 * ofBytes bs

/-- The `n` low bytes of a number, least significant first. -/
def toBytes : Nat → Nat → List Byte
  | 0, _ => []
  | n + 1, v => BitVec.ofNat 8 v :: toBytes n (v / 256)

def tune (s : State) (p : Nat) : Tune := SMap.get (fun _ => Tune.reset) s.tunes p

def modTune (p : Nat) (f : Tune → Tune) (s : State) : State :=
  { s with tunes := SMap.set (fun _ => Tune.reset) s.tunes p (f (tune s p)) }

def trState (s : State) (p : Nat) : Nat := s.fld (Reg.TUNE.TR_STATUS p) 2 0
def trMode (s : State) (p : Nat) : Nat := s.fld (Reg.TUNE.TR_CTRL p) 1 0
/-- RUNNING or TRIGGERED. -/
def trBusy (s : State) (p : Nat) : Bool := trState s p == 1 || trState s p == 2

/-- STATE and CODE of TR_STATUS. -/
def setTrState (p st code : Nat) (s : State) : State :=
  (s.setFld (Reg.TUNE.TR_STATUS p) 2 0 st).setFld (Reg.TUNE.TR_STATUS p) 6 4 code

/-- Channels of a record, its bytes and TR_DEPTH (R214). -/
def trChannels (s : State) (p : Nat) : Nat := 2 ^ s.fld (Reg.TUNE.TR_FMT p) 1 0
def trWidth (s : State) (p : Nat) : Nat := if s.bit (Reg.TUNE.TR_FMT p) 2 then 4 else 2
def trDepth (s : State) (p : Nat) : Nat := 32768 / (trChannels s p * trWidth s p)

/-- TR_PRE as used (R216). -/
def trPre (s : State) (p : Nat) : Nat := min (s.fld (Reg.TUNE.TR_PRE p) 13 0) (trDepth s p - 1)

/-- Node code of channel `n` (R224). -/
def trNode (s : State) (p n : Nat) : Nat :=
  s.fld (if n < 4 then Reg.TUNE.TR_NODES_LO p else Reg.TUNE.TR_NODES_HI p) (8 * (n % 4) + 7) (8 * (n % 4))

/-- A trigger of source `src` meets a running trace: accepted once TR_PRE records are written (R215, R216). `force` acts under
every source. -/
def trTrigger (p src : Nat) (force : Bool) (s : State) : State :=
  if trMode s p = 1 ∧ trState s p = 1 ∧ (force ∨ s.fld (Reg.TUNE.TR_TRIG p) 2 0 = src) ∧ trPre s p ≤ (tune s p).records
      ∧ (tune s p).trigger = none then
    modTune p (fun t => { t with trigger := some s.time }) s
  else s

/-- The node is a measured error of a slot (R213). -/
def measuredNode (p c : Nat) : Bool := p != Page.KEEL && decide (5 ≤ c) && decide (c ≤ 8)

/-- One channel of node `c` as it is packed (R214), least significant byte first. -/
def packNode (s : State) (p c : Nat) (v : Int) : List Byte :=
  let bytes := fun (n : Nat) (x : Int) => (List.range n).map fun i => BitVec.ofInt 8 (x / (256 ^ i : Int))
  if trWidth s p = 4 then bytes 4 v
  else
    let k := s.fld (Reg.TUNE.TR_FMT p) 7 4
    bytes 2 (if v = -2147483648 ∧ measuredNode p c then -32768 else clampInt (-32767) 32767 (v / (2 ^ k : Int)))

/-- Bytes put into the trace buffer from `at_` on. -/
def trPut (p : Nat) : Nat → List Byte → State → State
  | _, [], s => s
  | i, b :: bs, s => trPut p (i + 1) bs (modTune p (fun t => { t with buf := SMap.set (fun _ => 0#8) t.buf i b }) s)

/-- One record at the ring's next place (R212, R214). -/
def trRecord (p : Nat) (value : Nat → Int) (s : State) : State :=
  let n := trChannels s p
  let data := (List.range n).flatMap fun c => packNode s p (trNode s p c) (value (trNode s p c))
  let idx := (tune s p).records % trDepth s p
  modTune p (fun t => { t with records := t.records + 1 }) (trPut p (idx * data.length) data s)

/-- The level triggers of sources 1 and 2, on a channel at full 32 bits (R215). -/
def levelTrigger (p : Nat) (value : Nat → Int) (s : State) : State :=
  let v := value (trNode s p (s.fld (Reg.TUNE.TR_TRIG p) 6 4))
  let l := (s.reg (Reg.TUNE.TR_LEVEL p)).toInt
  let prev := (tune s p).prev
  let s1 := if prev.any (fun x => decide (x ≤ l)) && decide (l < v) then trTrigger p 1 false s else s
  let s2 := if prev.any (fun x => decide (l ≤ x)) && decide (v < l) then trTrigger p 2 false s1 else s1
  modTune p (fun t => { t with prev := some v }) s2

/-- The record at which an accepted trigger stands becomes the trigger record (R216). -/
def takeTrigger (p : Nat) (s : State) : State :=
  match (tune s p).trigger with
  | none => s
  | some t0 =>
    if trState s p = 1 then
      let s1 := (s.setReg (Reg.TUNE.TR_TRIG_IDX p) (word ((tune s p).records % trDepth s p))).setReg64
        (Reg.TUNE.TR_TRIG_TIME_LO p) t0
      modTune p (fun t => { t with left := trDepth s p - trPre s p }) (setTrState p 2 0 s1)
    else s

/-- A trace record is due at this update. -/
def traceStep (p : Nat) (value : Nat → Int) (s : State) : State :=
  let s1 := takeTrigger p (levelTrigger p value s)
  if trState s1 p = 2 then
    if (tune s1 p).left = 0 then s1 else modTune p (fun t => { t with left := t.left - 1 }) (trRecord p value s1)
  else trRecord p value s1

/-- The 23-bit sequence x^23 + x^18 + 1, one step (R221). -/
def lfsrStep (x : Nat) : Nat := x * 2 % 2 ^ 23 + (if x.testBit 22 != x.testBit 17 then 1 else 0)

/-- The word at byte `o` of the trace buffer. -/
def tuneWord (s : State) (p o : Nat) : Word := word (ofBytes ((List.range 4).map fun i => SMap.get (fun _ => 0#8) (tune s p).buf (o + i)))

/-- Words 0 to 3 of SINE point `n` (R221). -/
def sineWord (s : State) (p n i : Nat) : Word := tuneWord s p (16 * n + 4 * i)

/-- The SINE point in progress. -/
def sinePoint (s : State) (p : Nat) : Nat := s.fld (Reg.TUNE.TR_STATUS p) 16 8

/-- The point's loop is updated at every sub-sample, not at W_n alone (R218). -/
def pointFast (s : State) (p : Nat) : Bool := p != Page.KEEL && decide (3 ≤ s.fld (Reg.TUNE.INJ_CFG p) 2 0)

/-- The update rate of the selected point, as a fraction in Hz (R218): W_n comes 640 times a revolution, a sub-sample end 16
times as often. -/
def injRate (s : State) (p : Nat) : Nat × Nat :=
  if p = Page.KEEL then (s.fld Reg.KEEL.PWM_CFG 6 0 * 1000, 1)
  else ((s.reg Reg.KEEL.SPEED).toNat * 640 * (if pointFast s p then 16 else 1), 60 * 65536)

/-- Updates in `n` whole cycles of the SINE point (R221). -/
def cycleUpdates (s : State) (p n : Nat) : Nat :=
  n * 16 * (injRate s p).1 / ((sineWord s p (sinePoint s p) 0).toNat * (injRate s p).2)

/-- Updates of the SETTLE cycles, and N of the MEAS cycles. -/
def settleUpdates (s : State) (p : Nat) : Nat := cycleUpdates s p (fld (sineWord s p (sinePoint s p) 1) 31 16)
def sineUpdates (s : State) (p : Nat) : Nat := cycleUpdates s p (fld (sineWord s p (sinePoint s p) 2) 15 0)

/-- The sums I and Q of the channels of a SINE point, stored from byte 0x1000 + 64 p on (R221). -/
def putSums (p : Nat) : Nat → List (Int × Int) → State → State
  | _, [], s => s
  | o, (i, q) :: xs, s =>
    let bytes := fun x : Int => toBytes 8 (toField 64 x)
    putSums p (o + 16) xs (trPut p o (bytes i ++ bytes q) s)

/-- A number rounded toward zero. -/
def towardZero (x : Rat) : Int := if x < 0 then -(-x).floor else x.floor

/-- The MEAS cycles of the SINE point in progress are over (R221). -/
def sineOver (s : State) (p : Nat) : Bool :=
  s.fld (Reg.TUNE.INJ_CFG p) 9 8 == 0 && decide (settleUpdates s p + sineUpdates s p ≤ (tune s p).count)

/-- The results of the SINE point in progress: its sums, N and INJ_PROGRESS (R221). -/
def storePoint (p : Nat) (s : State) : State :=
  let n := sinePoint s p
  let sums := (List.range (trChannels s p)).map fun c => let x := (tune s p).sums.getD c (0, 0); (towardZero x.1, towardZero x.2)
  let s1 := trPut p (16 * n + 12) (toBytes 4 (sineUpdates s p)) (putSums p (0x1000 + 64 * n) sums s)
  modTune p (fun t => { t with count := 0, sums := [] }) (s1.setReg (Reg.TUNE.INJ_PROGRESS p) (word (n + 1)))

/-- An injection ends as TRIPPED with its cause; its signal is zero from the next update, and a SINE point that ends at that update keeps
its results. A STOP in the same update gives way (R222, R223). -/
def tuneTrip (p cause : Nat) (info : Int) (s : State) : State :=
  if trMode s p = 2 ∧ (trState s p = 1 ∨ (trState s p = 6 ∧ (tune s p).stopped)) then
    let s1 := if trState s p = 1 && sineOver s p then storePoint p s else s
    modTune p (fun t => { t with injected := 0, stopped := false }) ((setTrState p 4 cause s1).setReg (Reg.TUNE.TRIP_INFO p) (sword info))
  else s

/-- The claim of the block's resource is released (R210). -/
def tuneRelease (p : Nat) (s : State) : State :=
  let s1 := if !trBusy s p then s
    else if trMode s p = 2 then tuneTrip p 5 0 s
    else modTune p (fun t => { t with trigger := none }) (setTrState p 6 0 s)
  s1.setFld (Reg.TUNE.TR_CTRL p) 1 0 0

/-- θ of the SINE point at the generator's present update, in turns: 0 where the point starts. -/
def sineTurn (s : State) (p : Nat) : Rat :=
  mkRat ((tune s p).count * (sineWord s p (sinePoint s p) 0).toNat * (injRate s p).2) (16 * (injRate s p).1)

/-- The generator at one update of the point's loop, clamped to AMP_LIMIT (R219, R221). -/
def generate (p : Nat) (s : State) : State :=
  let lim : Int := s.fld (Reg.TUNE.AMP_LIMIT p) 15 0
  let amp : Int := s.fld (Reg.TUNE.INJ_AMP p) 15 0
  let put := fun x : Int => modTune p fun t => { t with injected := clampInt (-lim) lim x }
  if s.fld (Reg.TUNE.INJ_CFG p) 9 8 = 2 then
    let t := tune s p
    let turn := decide (s.fld (Reg.TUNE.TR_FMT p) 15 8 ≤ t.hold)
    put (if t.lfsr.testBit 22 then amp else -amp)
      (modTune p (fun t => { t with lfsr := if turn then lfsrStep t.lfsr else t.lfsr, hold := if turn then 0 else t.hold + 1 }) s)
  else if s.fld (Reg.TUNE.INJ_CFG p) 9 8 = 1 then
    let turn := chirpTurn (s.fld (Reg.TUNE.INJ_F0 p) 23 0) (s.fld (Reg.TUNE.INJ_F1 p) 23 0) (s.fld (Reg.TUNE.INJ_TIME p) 15 0)
      (mkRat ((tune s p).count * (injRate s p).2) (injRate s p).1)
    put ((amp : Rat) * cosTurn turn).floor s
  else put ((fld (sineWord s p (sinePoint s p) 1) 15 0 : Rat) * cosTurn (sineTurn s p)).floor s

/-- An update of the point's loop meets a running injection. -/
def injects (s : State) (p : Nat) (main : Bool) : Bool := trMode s p == 2 && trState s p == 1 && (main || pointFast s p)

/-- Before an update of the engine's control law: the generator (R218). `main` at W_n and at a PWM period, false at a sub-sample end. -/
def tuneGenerate (p : Nat) (main : Bool) (s : State) : State := if injects s p main then generate p s else s

/-- What the injection adds at point `pt` of slot `k`, of full scale `full` (R218). -/
def injectedAt (s : State) (p pt k : Nat) (full : Int) : Int :=
  if trMode s p = 2 ∧ trState s p = 1 ∧ s.fld (Reg.TUNE.INJ_CFG p) 2 0 = pt
      ∧ (p = Page.KEEL ∨ pt < 3 ∨ s.fld (Reg.TUNE.INJ_CFG p) 5 4 = k) then (tune s p).injected * full / 65536 else 0

/-- The sums of a SINE point take the channels' values at this update; the generator goes on (R221). -/
def sineStep (p : Nat) (value : Nat → Int) (s : State) : State :=
  let t := tune s p
  let from_ := settleUpdates s p
  let c := cosTurn (sineTurn s p)
  let q := cosTurn (sineTurn s p - 1 / 4)
  let add := fun n : Nat =>
    let y : Rat := value (trNode s p n)
    let o := t.sums.getD n (0, 0)
    (o.1 + y * c, o.2 + y * q)
  let sums := if from_ ≤ t.count ∧ t.count < from_ + sineUpdates s p then (List.range (trChannels s p)).map add else t.sums
  modTune p (fun t => { t with sums := if s.fld (Reg.TUNE.INJ_CFG p) 9 8 = 0 then sums else t.sums, count := t.count + 1 }) s

/-- After an update of the engine's control law: the response to an injection, and the record that is due (R212, R221). -/
def tuneRecord (p : Nat) (main : Bool) (value : Nat → Int) (s : State) : State :=
  if !trBusy s p then s
  else
    let s0 := if injects s p main then sineStep p value s else s
    let records := trMode s p = 1 ∨ (s.fld (Reg.TUNE.INJ_CFG p) 9 8 ≠ 0 ∧ (tune s p).records < trDepth s p)
    if !(main || s.bit (Reg.TUNE.TR_FMT p) 3) || !decide records then s0
    else if (tune s0 p).thin = 0 then
      let s1 := modTune p (fun t => { t with thin := s.fld (Reg.TUNE.TR_FMT p) 15 8 }) s0
      if trMode s p = 1 then traceStep p value s1 else trRecord p value s1
    else modTune p (fun t => { t with thin := t.thin - 1 }) s0

/-- A guard on the consecutive updates that each output stays saturated (R222, cause 2). -/
def guardSat (p : Nat) (sats : List Bool) (s : State) : State :=
  let runs := sats.zipIdx.map fun x => if x.1 then (tune s p).satRuns.getD x.2 0 + 1 else 0
  let s1 := modTune p (fun t => { t with satRuns := runs }) s
  if runs.any fun n => decide (s.fld (Reg.TUNE.GUARD p) 23 16 ≤ n) then tuneTrip p 2 0 s1 else s1

/-- The guards are checked at this update: an injection runs, or STOP has come since the last one (R222, R223). -/
def guardsHold (s : State) (p : Nat) (main : Bool) : Bool := injects s p main || (tune s p).stopped

/-- The update is over: a STOP is no longer overtaken by a guard (R223). -/
def updateOver (p : Nat) (s : State) : State := modTune p (fun t => { t with stopped := false }) s

end Sys2Proof.Machine
end

