-- ==== Sys2Proof/Machine/Access.lean ====
section
/-! DEFINITION. Who may write a page, what a register write stores, and the checks every write passes (R22 to R25, R36 to R48). -/

namespace Sys2Proof.Machine

/-- LOST of actuator `a` in ACT_POP (R159). -/
def actuatorLost (s : State) (a : Nat) : Bool := decide (a < 4) && s.critFld 3 (4 + a) (4 + a) == 1

/-- The debug level: 0 LOCKED, 1 PRODUCTION, 2 FULL (R501). -/
def debugLevel (s : State) : Nat := s.fld Reg.COX.SEC_STATUS 1 0

/-- The requester is a core (R42). -/
def isCore : Requester → Bool
  | .engine _ => false
  | .debugPort => false
  | _ => true

/-- The requester is a Stroke core. -/
def isStroke : Requester → Bool
  | .stroke _ => true
  | _ => false

/-- Offsets of the DBG page that the debug port reaches at LOCKED (R501): CERT_CTRL, CERT_STATUS, CHAL0–7, CERT0–63. -/
def dbgWindow (off : Nat) : Bool :=
  off == 0x040 || off == 0x044 || (decide (0x0A0 ≤ off) && decide (off ≤ 0x0BC))
    || (decide (0x100 ≤ off) && decide (off ≤ 0x1FC))

/-- The requester may write the register at offset `off` of page `p` (R42, R85, R501). -/
def mayWrite (req : Requester) (p off : Nat) (s : State) : Bool :=
  if p = Page.COX ∨ p = Page.KEYS ∨ p = Page.UCODE then req == .cox
  else if critWordOf (regKey p off) = some 23 ∨ critWordOf (regKey p off) = some 24 then req == .cox
  else if p = Page.DBG then
    req == .cox || (req == .debugPort && (debugLevel s != 0 || dbgWindow off))
  else if req = .debugPort then debugLevel s != 0
  else isCore req

/-- The requester may read the register; KEYS answers others with zero and no event (R42). -/
def mayRead (req : Requester) (p off : Nat) (s : State) : Bool :=
  if req = .debugPort then
    debugLevel s != 0 || (p == Page.DBG && dbgWindow off) || off == 0 || off == 4
  else isCore req

/-- The page is locked (R47). -/
def pageLocked (p : Nat) (s : State) : Bool := s.bit (Reg.LOCK p) 0

/-- A value outside the range of a field is stored as its rule says. -/
def applyClip (w : Word) (c : Clip) : Word :=
  let v := fld w c.hi c.lo
  if v < c.min then Sys2Proof.setFld w c.hi c.lo c.below
  else if c.max < v then Sys2Proof.setFld w c.hi c.lo c.above
  else w

/-- What a write of `v` to a register that holds `old` stores under its access code and field ranges (R45). -/
def storeValue (r : RegRow) (old v : Word) : Word :=
  match r.access with
  | .rw | .rwl => r.clips.foldl applyClip ((old &&& ~~~ r.wmask) ||| (v &&& r.wmask))
  | .w1c => old &&& ~~~ (v &&& r.wmask)
  | _ => old

/-- Store a write at key `k` under its row (R41, R45). -/
def storeWrite (k : Nat) (v : Word) (s : State) : State :=
  match regRow (k / 0x1000) (k % 0x1000) with
  | some r => s.setReg k (storeValue r (s.reg k) v)
  | none => s

/-- The register at key `k` is RWL. -/
def isRwl (k : Nat) : Bool :=
  match regRow (k / 0x1000) (k % 0x1000) with
  | some r => r.access == .rwl
  | none => false

/-- The key of a register-page address; none outside the page range (R36). -/
def addrKey (a : Addr) : Option Nat :=
  if 0x20000000 ≤ a.toNat ∧ a.toNat < 0x40000000 then some (a.toNat - 0x20000000) else none

/-- The requester has a register read outstanding that it made (R22). -/
def readOut (req : Requester) (s : State) : Bool := s.bus.held.any fun h => h.req == req && h.op == .read && !h.after

/-- A register access of the requester stays at its core: a FENCE.DRAIN stalls it, or the data of an earlier register read has not
returned (R22, R24). -/
def atCore (req : Requester) (s : State) : Bool := s.bus.stalled.contains req || (isCore req && readOut req s)

/-- An access to the register at key `k` waits at its page: the clock of the page's island stands, its domain is in transition, or it is
a view of a critical word and I1 stands (R25, R46, R56). -/
def pageWaits (k : Nat) (s : State) : Bool :=
  let p := k / 0x1000
  (pagePlace p).any (fun d => inTransit s d.1) || ((pagePlace p).isSome && pageOn s p && !pageClocked s p)
    || ((critWordOf k).isSome && pageOn s p && islandStopped s 1)

/-- An access of `req` to page `p` is among those that wait at their destinations. -/
def waitsAt (req : Requester) (p : Nat) (hs : List HeldAccess) : Bool :=
  hs.any fun h => h.req == req && !h.after && (addrKey h.addr).any fun k => k / 0x1000 == p

/-- A register access waits, at its core or at its page, or behind an earlier access of its requester to the page (R22). -/
def mustHold (req : Requester) (k : Nat) (s : State) : Bool := atCore req s || pageWaits k s || waitsAt req (k / 0x1000) s.bus.held

/-- The access is a write, to a page or to memory. -/
def BusOp.isWrite : BusOp → Bool
  | .write _ => true
  | .store _ _ => true
  | _ => false

/-- A write that core `c` has issued and that is not yet acknowledged (R24). -/
def unacked (c : Requester) (h : HeldAccess) : Bool := h.req == c && h.op.isWrite && !h.after

/-- An access is not completed for now. -/
def holdAccess (req : Requester) (a : Addr) (op : BusOp) (core : Bool) (o : Outside) (s : State) : State :=
  { s with bus := { s.bus with held := s.bus.held ++ [⟨req, a, op, core, s.time, o⟩] } }

/-- The checks of a write that has reached its page: domain, permission and lock; and `eff` when they pass. A requester that no rule
names for the register ends with a bus error (R37); a refused write of one that R42 names completes without one (log entry 128). -/
def writeArrived (req : Requester) (k : Nat) (eff : State → State) (s : State) : State :=
  let p := k / 0x1000
  if !pageOn s p then busOk 0#32 (refuseAccess req (keyAddr k) true 5 s)
  else if !mayRead req p (k % 0x1000) s then busError (refuseAccess req (keyAddr k) true 2 s)
  else if !mayWrite req p (k % 0x1000) s then busOk 0#32 (refuseAccess req (keyAddr k) true 2 s)
  else if isRwl k && pageLocked p s then busOk 0#32 (refuseAccess req (keyAddr k) true 4 s)
  else eff (busOk 0#32 s)

/-- A write of `v` by `req` to the register at key `k`: the checks of the bus, and `eff` when they pass; `o` comes from outside with it.
No access is made while the core die is held in power-on reset (R542). The order of the checks is log entry 5. -/
def withWriteOut (o : Outside) (req : Requester) (k : Nat) (v : Word) (eff : State → State) (s : State) : State :=
  let p := k / 0x1000
  if s.chip.held.isSome then s
  else if pagePlace p = none then busError (refuseAccess req (keyAddr k) true 1 s)
  else if !pagePresent s p then busOk 0#32 s
  else if mustHold req k s then holdAccess req (keyAddr k) (.write v) (atCore req s) o s
  else writeArrived req k eff s

/-- A register write whose effect takes nothing from outside. -/
def withWrite (req : Requester) (k : Nat) (v : Word) (eff : State → State) (s : State) : State := withWriteOut {} req k v eff s

/-- A write at a bus address that must be a register (used where a command names its address). -/
def withWriteAt (req : Requester) (a : Addr) (v : Word) (eff : Nat → State → State) (s : State) : State :=
  match addrKey a with
  | none => busError (refuseAccess req a true 1 s)
  | some k =>
    if a.toNat % 4 ≠ 0 then
      (if pagePlace (k / 0x1000) = none then busError (refuseAccess req a true 1 s)
       else busError (refuseAccess req a true 3 s))
    else withWrite req k v (eff k) s

/-! ### Claims held (R49, R52) -/

/-- Resource `r` is held by `req` for function `f`. -/
def holds (req : Requester) (r f : Nat) (s : State) : Bool :=
  s.bit (Reg.CLAIM.CLAIM_STATE r) 31 && s.fld (Reg.CLAIM.CLAIM_STATE r) 5 0 == Requester.code req
    && s.fld (Reg.CLAIM.CLAIM_STATE r) 9 8 == f

/-- A refusal under R50, R51 or R52: LAST_CONFLICT, CONFLICT_COUNT and CLAIM_CONFLICT (R552). -/
def claimConflict (r f req reason : Nat) (written : Word) (s : State) : State :=
  let last := word (r % 8 + f % 4 * 256 + req % 64 * 65536 + reason % 8 * 2 ^ 24)
  let s1 := (s.setReg Reg.CLAIM.LAST_CONFLICT last).countFld Reg.CLAIM.CONFLICT_COUNT 15 0 1
  raise Page.CLAIM 0 5 reason ⟨last, s.reg (Reg.CLAIM.CLAIM_STATE r), written⟩ s1

/-- A function started on a resource that its claim does not cover: CLAIM_CONFLICT with NOT_HELD (R52). -/
def notHeld (r f : Nat) (req : Requester) (s : State) : State := claimConflict r f (Requester.code req) 6 0#32 s

/-- The requester codes of the engines whose page is `p` (R42; the engine table of R18's chapter). -/
def pageRequesters (p : Nat) : List Nat :=
  if p = Page.COX then [1] else if 0x011 ≤ p ∧ p ≤ 0x014 then [2 + (p - 0x011)]
  else if 0x020 ≤ p ∧ p ≤ 0x023 then [8 + (p - 0x020)] else if p = Page.KEEL then [0x0C]
  else if p = Page.PWR then [0x0D] else if p = Page.DBG then [0x0E]
  else if 0x030 ≤ p ∧ p ≤ 0x03F then [0x10 + (p - 0x030)] else if 0x040 ≤ p ∧ p ≤ 0x043 then [0x20 + (p - 0x040)]
  else if 0x050 ≤ p ∧ p ≤ 0x057 then [0x24 + (p - 0x050)] else if 0x060 ≤ p ∧ p ≤ 0x063 then [0x2C + (p - 0x060)]
  else if p = Page.BOAT then [0x30, 0x31] else if p = 0x078 ∨ p = 0x079 then [0x32 + (p - 0x078)]
  else if p = Page.UMP then [0x34] else []

/-- Write ports of a page's block beside those of its engines: that of the fast path (R99). -/
def pagePorts (p : Nat) : List Nat := if p = Page.SLIPC then [0x3F] else []

/-! ### Domains on and off (R48, R64) -/

/-- The requester codes of the engines in domain `d`. -/
def domainRequesters (d : Nat) : List Nat :=
  (List.range 0x99).flatMap fun p => if (pagePlace p).any (fun x => x.1 == d) then pageRequesters p else []

/-- The pages of domain `d`. -/
def domainPages (d : Nat) : List Nat := (List.range 0x99).filter fun p => (pagePlace p).any (fun x => x.1 == d)

/-- Every register of page `p` that is not held in D0 returns to its reset value; a locked page keeps LOCK and its RWL
registers, from the shadow (R48). -/
def resetPageRegs (p : Nat) (s : State) : State :=
  let locked := pageLocked p s
  { s with regs := SMap.keep (fun k => k / 0x1000 ≠ p || (locked && (isRwl k || k == Reg.LOCK p))) s.regs
           seen := SMap.set (fun _ => 0#32) s.seen p 0#32 }

end Sys2Proof.Machine
end

