-- ==== Sys2Proof/Machine/Memory.lean ====
section
/-! DEFINITION. Memory: bytes by physical address, DRAM granules with their check bytes, and the check arithmetic
(R36, R80 to R82, R317, R324). -/

namespace Sys2Proof.Machine

/-- What a byte that nothing has written reads as (log entry 9). -/
def blankByte : Nat → Byte := fun _ => 0#8

/-- The canonical form of memory: addresses strictly rising, no listed byte equal to a blank one. -/
def Memory.wf (m : List Host.Cell) : Bool := SMap.wf blankByte m

/-- The byte at physical address `a`. -/
def State.byteAt (s : State) (a : Nat) : Byte := SMap.get blankByte s.mem a

def State.putByte (s : State) (a : Nat) (b : Byte) : State := { s with mem := SMap.set blankByte s.mem a b }

/-- `n` bytes from address `a`. -/
def State.bytesAt (s : State) (a n : Nat) : List Byte := (List.range n).map fun i => s.byteAt (a + i)

/-- Store bytes from address `a` on. -/
def State.putBytes (s : State) (a : Nat) : List Byte → State
  | [] => s
  | b :: bs => (s.putByte a b).putBytes (a + 1) bs

/-- The little-endian word at address `a`. -/
def State.wordAt (s : State) (a : Nat) : Word := word (ofBytes (s.bytesAt a 4))

/-- Store a little-endian word. -/
def State.putWord (s : State) (a : Nat) (w : Word) : State := s.putBytes a (toBytes 4 w.toNat)

/-! ### Checks (R80) -/

/-- One bit of CRC-32C, least significant bit first. -/
def crc32cBit (c : BitVec 32) : BitVec 32 := if c.getLsbD 0 then (c >>> 1) ^^^ 0x82F63B78#32 else c >>> 1

def crc32cByte (c : BitVec 32) (b : Byte) : BitVec 32 := (List.range 8).foldl (fun x _ => crc32cBit x) (c ^^^ b.setWidth 32)

/-- CRC-32C (log entry 10). -/
def crc32c (bs : List Byte) : BitVec 32 := ~~~ bs.foldl crc32cByte 0xFFFFFFFF#32

/-- CRC-8 with polynomial 0x07 and initial value 0, most significant bit first. -/
def crc8 (bs : List Byte) : Byte :=
  let step := fun (c : Byte) (_ : Nat) => if c.getLsbD 7 then (c <<< 1) ^^^ 0x07#8 else c <<< 1
  bs.foldl (fun c b => (List.range 8).foldl step (c ^^^ b)) 0#8

/-- CRC-32C over words, each little-endian. -/
def crcWords (ws : List Word) : Word := crc32c (ws.flatMap (fun w => toBytes 4 w.toNat))

/-- The 8 check bytes of granule `g` (R80), byte 0 lowest. -/
def checkOf (g : Nat) (data : List Byte) (poison : Bool) : BitVec 64 :=
  let head := toBytes 4 (crc32c (data ++ toBytes 8 g)).toNat ++ toBytes 2 (g / 8192 % 65536) ++ [if poison then 1#8 else 0#8]
  BitVec.ofNat 64 (ofBytes (head ++ [crc8 head]))

/-- Check bytes of a granule of the zero fill (R315). -/
def zeroCheck (g : Nat) : BitVec 64 := checkOf g (List.replicate 64 0#8) false

/-! ### Granules (R317, R320) -/

/-- Base of the DRAM window (R36). -/
abbrev dramBase : Nat := 0x800000000

/-- BOAT.USABLE_SIZE. -/
def usableSize (s : State) : Nat := s.reg64 Reg.BOAT.USABLE_LO

def granData (s : State) (g : Nat) : List Byte := s.bytesAt (dramBase + 64 * g) 64

def granCheck (s : State) (g : Nat) : BitVec 64 := SMap.get zeroCheck s.checks g

/-- POISON of a granule's flag byte. -/
def granFlag (s : State) (g : Nat) : Bool := (granCheck s g).getLsbD 48

/-- All three checks of R82 pass: byte 7, the address tag, the CRC-32C. -/
def granValid (s : State) (g : Nat) : Bool :=
  let b := toBytes 8 (granCheck s g).toNat
  b.drop 7 == [crc8 (b.take 7)] && (b.drop 4).take 2 == toBytes 2 (g / 8192 % 65536)
    && b.take 4 == toBytes 4 (crc32c (granData s g ++ toBytes 8 g)).toNat

/-- The port that holds granule `g`. -/
def granPort (g : Nat) : Nat := g / 8 % 2

/-- Put 8 check bytes. -/
def putCheck (g : Nat) (c : BitVec 64) (s : State) : State := { s with checks := SMap.set zeroCheck s.checks g c }

/-- A whole granule is written with fresh check bytes (R81). -/
def putGranule (g : Nat) (b : Beat) (s : State) : State :=
  (putCheck g (checkOf g b.data b.poison) (s.putBytes (dramBase + 64 * g) b.data)).count (Reg.DRAM.WR_BEATS (granPort g)) 1

/-- Upsets strike the DRAM cells. -/
def strikeDram (x : DramStrike) (s : State) : State :=
  let a := dramBase + 64 * x.granule
  let bytes := (granData s x.granule).zip (toBytes 64 x.data.toNat)
  putCheck x.granule (granCheck s x.granule ^^^ x.check) (s.putBytes a (bytes.map fun e => e.1 ^^^ e.2))

/-- The disturbances of a command: cells change, and each granule of `first` has its next read disturbed (R324; log entry
173). -/
def strikeAllDram (n : DramNoise) (s : State) : State :=
  let s1 := n.strikes.foldl (fun t x => strikeDram x t) s
  { s1 with boat := { s1.boat with upsets := s1.boat.upsets ++ n.first } }

/-- Granule `g` has been read: its disturbance is over. -/
def calmGranule (g : Nat) (s : State) : State :=
  { s with boat := { s.boat with upsets := s.boat.upsets.filter (· != g) } }

/-- One granule read with its checks (R324): the beat, the status (0 GOOD, 1 POISONED, 2 LASTING) and the state after. -/
def readGranule (sole : Bool) (who : Nat) (noise : DramNoise) (g : Nat) (s : State) : Beat × Nat × State :=
  let s1 := s.count (Reg.DRAM.RD_BEATS (granPort g)) 1
  let off := 64 * g
  let pl : Payload := ⟨loWord off, hiWord off, word who⟩
  let beat : Beat := ⟨granData s g, granFlag s g⟩
  if granValid s g then
    let s2 := if noise.first.contains g || s.boat.upsets.contains g then
        raise Page.BOAT 0 1 0 pl (((calmGranule g s1).count Reg.BOAT.GRAN_TRANSIENT 1).count (Reg.DRAM.RD_BEATS (granPort g)) 1)
      else s1
    (beat, if granFlag s g then 1 else 0, s2)
  else
    let s2 := ((calmGranule g s1).count (Reg.DRAM.RD_BEATS (granPort g)) 1).count Reg.BOAT.GRAN_LASTING 1
    let s3 := lasting Page.BOAT 0 0 pl (s2.setReg64 Reg.BOAT.LAST_BAD_LO off)
    if sole then
      let s4 := (putCheck g (checkOf g beat.data true) s3).count (Reg.DRAM.WR_BEATS (granPort g)) 1
      (⟨beat.data, true⟩, 1, raise Page.BOAT 1 0 0 ⟨loWord off, hiWord off, 0#32⟩ (s4.count Reg.BOAT.POISON_SET_COUNT 1))
    else (⟨beat.data, true⟩, 2, s3)

/-- No disturbance of its own: a read of this kind meets those that stand. -/
def quiet : DramNoise := ⟨[], []⟩

/-- `n` granules from `g` on, each checked: the beats, the worst status with its offset, and the state after. -/
def readGranules (sole : Bool) (who : Nat) (noise : DramNoise) (g : Nat) : Nat → State → List Beat × Nat × Nat × State
  | 0, s => ([], 0, 64 * g, s)
  | n + 1, s =>
    let r := readGranule sole who noise g s
    let rest := readGranules sole who noise (g + 1) n r.2.2
    if rest.2.1 ≤ r.2.1 ∧ r.2.1 ≠ 0 then (r.1 :: rest.1, r.2.1, 64 * g, rest.2.2.2)
    else (r.1 :: rest.1, rest.2.1, if rest.2.1 = 0 then 64 * g else rest.2.2.1, rest.2.2.2)

/-- The bytes an engine fetches from usable offset `off`, and whether every granule they lie in was good. -/
def fetchBytes (sole : Bool) (who off n : Nat) (s : State) : List Byte × Bool × State :=
  let g := off / 64
  let r := readGranules sole who quiet g ((off + n + 63) / 64 - g) s
  (((r.1.flatMap Beat.data).drop (off % 64)).take n, r.2.1 == 0, r.2.2.2)

/-- The little-endian words of a list of bytes. -/
def bytesToWords : List Byte → List Word
  | a :: b :: c :: d :: bs => word (ofBytes [a, b, c, d]) :: bytesToWords bs
  | _ => []

/-- `n` words an engine fetches, under the credit of the command or within it (R26; log entry 158). -/
def fetchWords (sole : Bool) (who off n : Nat) (s : State) : List Word × Bool × State :=
  let r := fetchBytes sole who off (4 * n) s
  (bytesToWords r.1, r.2.1, r.2.2)

/-- The bytes of granule `g` with `bs` laid over them from usable offset `off`. -/
def mergeGran (g off : Nat) (bs old : List Byte) : List Byte :=
  old.zipIdx.map fun e => if off ≤ 64 * g + e.2 ∧ 64 * g + e.2 < off + bs.length then bs.getD (64 * g + e.2 - off) 0#8 else e.1

/-- An engine's internal write to one granule: one written in part is read with its checks and merged, and keeps its poison (R79, R82, R320). -/
def storeGran (off : Nat) (bs : List Byte) (s : State) (g : Nat) : State :=
  if off ≤ 64 * g ∧ 64 * g + 64 ≤ off + bs.length then putGranule g ⟨mergeGran g off bs (List.replicate 64 0#8), false⟩ s
  else
    let r := readGranule true 0 quiet g s
    putGranule g ⟨mergeGran g off bs r.1.data, r.1.poison⟩ r.2.2

/-- An engine's internal write of bytes at a usable offset: whole granules, read and merged at the ends (R320). -/
def storeBytes (off : Nat) (bs : List Byte) (s : State) : State :=
  ((List.range ((off + bs.length + 63) / 64 - off / 64)).map (off / 64 + ·)).foldl (storeGran off bs) s

end Sys2Proof.Machine
end

