-- ==== Sys2Proof/Machine/BoatOps.lean ====
section
/-! DEFINITION. Credits (R26, R28, R445), the checks of a buffer transaction (R322) and dirty accounting (R327 to R329). -/

namespace Sys2Proof.Machine

/-! ### Credits (R445) -/

/-- The grant test of R445: `n` credits of class `c` out of a pool of `ceil`. -/
def creditGrants (ceil : Nat) (held res : Nat → Nat) (c n : Nat) : Bool :=
  let free := ceil - (held 0 + held 1 + held 2 + held 3)
  let short := ((List.range 4).filter (· ≠ c)).foldl (fun t x => t + (res x - held x)) 0
  decide (short + n ≤ free)

/-- Reservation of class `x` in a pair of RES registers (R450). -/
def resField (s : State) (lo x : Nat) : Nat := s.fld (lo + 4 * (x / 2)) (16 * (x % 2) + 15) (16 * (x % 2))

def modBoat (f : Boat → Boat) (s : State) : State := { s with boat := f s.boat }

/-- Buffer-transaction credits held by class `x`. -/
def xactHeld (s : State) (x : Nat) : Nat := SMap.get (fun _ => 0) s.boat.held x

def setXactHeld (x n : Nat) (s : State) : State :=
  modBoat (fun b => { b with held := SMap.set (fun _ => 0) b.held x n }) s

/-- A credit of class `c` can be granted (R445). -/
def xactGrants (s : State) (c : Nat) : Bool := creditGrants 1024 (xactHeld s) (resField s Reg.SYS.RES_XACT_LO) c 1

/-! ### The packet of a transaction (R321) -/

def xactType (ws : List Word) : Nat := fld (ws.getD 0 0#32) 15 8
def xactTag (ws : List Word) : Nat := fld (ws.getD 0 0#32) 31 16
def xactCount (ws : List Word) : Nat := fld (ws.getD 1 0#32) 7 0
def xactClass (ws : List Word) : Nat := fld (ws.getD 1 0#32) 10 8
/-- Boathouse engine whose queue takes a transaction: class SERVICE goes to engine 1, the others to engine 0 (R321). -/
def xactEngine (ws : List Word) : Nat := if xactClass ws = 3 then 1 else 0
def xactSole (ws : List Word) : Bool := bit (ws.getD 1 0#32) 11
def xactNotify (ws : List Word) : Bool := bit (ws.getD 1 0#32) 12
/-- First granule of the DRAM field. -/
def xactGran (ws : List Word) : Nat := ofWords (ws.getD 2 0#32) (ws.getD 3 0#32) % 2 ^ 40 / 64
/-- First granule of the destination of a COPY. -/
def xactDest (ws : List Word) : Nat := ofWords (ws.getD 4 0#32) (ws.getD 5 0#32) % 2 ^ 40 / 64
/-- PATTERN or MASK. -/
def xactPattern (ws : List Word) : Nat := ofWords (ws.getD 6 0#32) (ws.getD 7 0#32)

/-- The code under which Boathouse refuses a transaction of queue `e`; none for one that passes (R322). -/
def xactCode (e : Nat) (ws : List Word) (s : State) : Option Nat :=
  let n := xactCount ws
  let c := xactClass ws
  let beyond := fun g : Nat => decide (usableSize s < 64 * (g + n))
  if xactType ws = 0 ∨ 5 < xactType ws then some 4
  else if 4 ≤ c ∨ (c = 3) ≠ (e = 1) then some 2
  else if n = 0 ∨ 128 < n ∨ (xactType ws = 5 ∧ n ≠ 1) then some 1
  else if beyond (xactGran ws) ∨ (xactType ws = 3 ∧ beyond (xactDest ws)) then some 3
  else none

/-- The completion: a core receives XACT_DONE when it asked for one, a microcoded engine its TAG, status and offset on its return path
(R323). -/
def xactComplete (port : Nat) (ws : List Word) (status offset : Nat) (s : State) : State :=
  if 0x10 ≤ port then { s with returned := s.returned ++ [⟨port, [word (xactTag ws), word status, loWord offset, hiWord offset]⟩] }
  else if xactNotify ws ∧ 1 ≤ port ∧ port ≤ 5 then
    raise Page.BOAT 3 0 (xactTag ws) ⟨word status, loWord offset, hiWord offset⟩ s
  else s

/-- A refused transaction: XACT_REFUSED, and its completion with status REFUSED (R322). -/
def xactRefuse (port : Nat) (ws : List Word) (code : Nat) (s : State) : State :=
  xactComplete port ws 3 (64 * xactGran ws) (raise Page.BOAT 2 5 code ⟨word port, word (xactTag ws), 0#32⟩ s)

/-! ### Who receives a credit (R28) -/

/-- The class of the credit that is asked for: a packet's own, HOST for Slipway, else MEDIA (R445). -/
def CreditAsk.cls : CreditAsk → Nat
  | .xact _ ws => xactClass ws
  | .task _ => 0
  | .service _ => 0
  | _ => 1

/-- The transfer asked for is still wanted. -/
def askStands (s : State) : CreditAsk → Bool
  | .xact _ _ => true
  | .task i => s.slip.tasks.any fun t => t.id == i && !t.aborted && !t.committed && t.answer.isNone
  | .service c => (SMap.get (fun _ => none) s.slip.svcs c).any fun x => x.outcome == 0
  | .entry o e => (SMap.get (fun _ => none) (SMap.get (fun _ => Oar.reset) s.oars o).entries e).any fun x =>
      x.inJob && !x.credit && decide (x.state < 3 ∨ x.state = 5 ∨ x.state = 6)
  | .stripe i => s.crew.jobs.any fun j => j.id == i
  | .load p =>
    if p = Page.CAL then s.cal.load.isSome
    else if p = Page.UMP then s.ump.copy.isSome
    else if p = Page.JRNL then s.crew.writing.isNone && s.crew.open_.any (·.sector.isNone)
    else if 0x020 ≤ p ∧ p ≤ 0x023 then s.bit (Reg.RUDDER.COEF_CTRL (p - 0x020)) 0
    else 0x030 ≤ p && p ≤ 0x03F && (s.bit (Reg.OAR.ZT_CTRL (p - 0x030)) 0 || s.bit (Reg.OAR.RT_CTRL (p - 0x030)) 0)

/-- `s` as it would be with the free credits given to those of `asks` that may have one, in their order. -/
def creditGiven (asks : List CreditAsk) (s : State) : State :=
  asks.foldl (fun t x => if askStands s x && xactGrants t x.cls then setXactHeld x.cls (xactHeld t x.cls + 1) t else t) s

/-- `a` receives a credit now: one remains for it after those who have waited longer (R28). -/
def creditTurn (s : State) (a : CreditAsk) : Bool := xactGrants (creditGiven (s.boat.creditWait.takeWhile (· != a)) s) a.cls

def joinWait (a : CreditAsk) : State → State := modBoat fun b => { b with creditWait := b.creditWait ++ [a] }
def leaveWait (a : CreditAsk) : State → State := modBoat fun b => { b with creditWait := b.creditWait.erase a }

/-- A credit is taken for `a`, which waits no longer. -/
def takeCredit (a : CreditAsk) (s : State) : State := leaveWait a (setXactHeld a.cls (xactHeld s a.cls + 1) s)

/-- `a` waits for its turn. -/
def askCredit (a : CreditAsk) (s : State) : State := if s.boat.creditWait.contains a then s else joinWait a s

/-- A transaction that has become an item takes its credit, or waits for it (R28, R445). -/
def xactTakeCredit (port : Nat) (ws : List Word) (s : State) : State :=
  let a : CreditAsk := .xact port ws
  if !s.boat.creditWait.contains a && creditTurn s a then takeCredit a s else joinWait a s

/-- Of those who wait, the queued transactions whose turn it is receive their credits (R28); the others take theirs as they run. -/
def xactGrantNext (s : State) : State :=
  s.boat.creditWait.foldl (fun t a => match a with
    | .xact _ _ => if creditTurn t a then takeCredit a t else t
    | _ => t) s

/-- No port is in self-refresh: a transfer may start (R319). -/
def dramAwake (s : State) : Bool := [0, 1].all fun n => !s.bit (Reg.DRAM.DRAM_STATUS n) 1

/-- A transfer for `a` that begins and ends here holds a credit while it runs; until its turn it waits (R26, R28; log entry 158). -/
def underCredit (a : CreditAsk) (f : State → State) (s : State) : State :=
  if dramAwake s && creditTurn s a then
    let t := f (takeCredit a s)
    xactGrantNext (setXactHeld a.cls (xactHeld t a.cls - 1) t)
  else askCredit a s

/-- The credit of a transaction returns (R26); one that never had it leaves the wait. -/
def xactReturn (port : Nat) (ws : List Word) (s : State) : State :=
  if s.boat.creditWait.contains (.xact port ws) then xactGrantNext (leaveWait (.xact port ws) s)
  else xactGrantNext (setXactHeld (xactClass ws) (xactHeld s (xactClass ws) - 1) s)

/-! ### Dirty accounting (R327 to R329) -/

/-- The applied dirty limit, in granules (R329). -/
def dirtyLimit (s : State) : Nat := clampNat 64 2048 (s.critFld 21 11 0) * 16384

def dirtyCount (s : State) : Nat := s.fld Reg.BOAT.DIRTY_COUNT 25 0

/-- WB_STATE.ACTIVE (critical word 22). -/
def wbActive (s : State) : Bool := s.critFld 22 1 1 == 1

def addDirty (n : Nat) (s : State) : State := s.setFld Reg.BOAT.DIRTY_COUNT 25 0 (dirtyCount s + n)

/-- Granules are released; more than are counted set the count to 0 and raise DIRTY_UNDERFLOW (R328). -/
def releaseDirty (n : Nat) (s : State) : State :=
  if dirtyCount s < n then raise Page.BOAT 6 5 0 {} (s.setFld Reg.BOAT.DIRTY_COUNT 25 0 0)
  else s.setFld Reg.BOAT.DIRTY_COUNT 25 0 (dirtyCount s - n)

/-- Write-back caching falls to 0 with its reason: the waiting reservations are answered "write-through" (R326, R327, R469). -/
def wbFall (reason : Nat) (s : State) : State :=
  if wbActive s then
    let s1 := (s.setCritFld 22 1 1 0).setCritFld 22 11 8 reason
    let s2 := modBoat (fun b => { b with
      waiting := [], through := b.through ++ b.waiting.map Reservation.task
      lastWait := if b.waiting.isEmpty then b.lastWait else some s1.time }) s1
    raise Page.BOAT 5 0 0 ⟨word reason, 0#32, 0#32⟩ s2
  else s

/-! ### Boathouse's engines (R326) -/

/-- Engine `e` of Boathouse is in machine check. -/
def boatDown (s : State) (e : Nat) : Bool := s.bit Reg.BOAT.ENGINE_STATE (1 + e)

def boatTakeover (s : State) : Bool := s.bit Reg.BOAT.ENGINE_STATE 0

end Sys2Proof.Machine
end

