-- ==== Sys2Proof/Machine/Codec.lean ====
section
/-! DEFINITION. The sector's payload, its randomiser and code, and the walk that places it on the track
(R229, R237 to R245, R253, R262, R263). -/

namespace Sys2Proof.Machine

/-! ### Codeword (R238, R262, R263) -/

/-- Bits of bytes, each byte most significant bit first. -/
def bitsOf (bs : List Byte) : List Bool := bs.flatMap fun b => (List.range 8).map fun i => b.getLsbD (7 - i)

/-- Bytes of bits, most significant bit first. -/
def bytesOfBits : Nat → List Bool → List Byte
  | 0, _ => []
  | n + 1, bs =>
    (bs.take 8).foldl (fun (b : Byte) x => (b <<< 1) ||| (if x then 1#8 else 0#8)) 0#8 :: bytesOfBits n (bs.drop 8)

/-- The randomiser's bits from state `st` on: b = st[14] xor st[13], shifted in at the low end (R238). -/
def randomSeq : Nat → Nat → List Bool
  | 0, _ => []
  | n + 1, st =>
    let b := st.testBit 14 != st.testBit 13
    b :: randomSeq n ((st * 2) % 32768 + (if b then 1 else 0))

/-- The seed of a sector (R238). -/
def randomSeed (track sector : Nat) : Nat := (track * 1024 + sector) % 32767 + 1

/-- Shift of block (r, c) of the parity-check matrix (R262). -/
def ldpcShift (r c : Nat) : Nat := (61 * (r + 1) * (c + 1) + 17 * (c / 8) * (c / 8) + 5 * r) % 512

/-- Block (r, c) of an information column is a circulant. -/
def ldpcBlock (r c : Nat) : Bool := r == c % 8 || r == (c + 3) % 8 || r == (c + 5) % 8

/-- A block of 512 bits, the first bit of its 64 bytes its most significant one. -/
def ldpcWord (bs : List Byte) : BitVec 512 := bs.foldl (fun x b => (x <<< 8) ||| b.setWidth 512) 0

/-- Blocks of a run of bytes, 64 bytes each. -/
def ldpcWords (n : Nat) (bs : List Byte) : List (BitVec 512) := (List.range n).map fun c => ldpcWord ((bs.drop (64 * c)).take 64)

/-- The bytes of a block. -/
def ldpcBytes (x : BitVec 512) : List Byte := (List.range 64).map fun i => (x >>> (504 - 8 * i)).setWidth 8

/-- What the information columns add to block row `r`: row i of the circulant P^s takes bit (i + s) mod 512 (R262). -/
def ldpcSum (us : List (BitVec 512)) (r : Nat) : BitVec 512 :=
  us.zipIdx.foldl (fun x u => if ldpcBlock r u.2 then x ^^^ u.1.rotateLeft (ldpcShift r u.2) else x) 0

/-- The parity blocks of rows `r` on, `above` the one before (R263). -/
def parityBlocks (us : List (BitVec 512)) : Nat → Nat → BitVec 512 → List (BitVec 512)
  | 0, _, _ => []
  | n + 1, r, above => let p := ldpcSum us r ^^^ above; p :: parityBlocks us n (r + 1) p

/-- The 38,912 codeword bits of a payload as bytes (R238, R263). -/
def codeword (payload : List Byte) : List Byte :=
  payload ++ (parityBlocks (ldpcWords 68 payload) 8 0 0).flatMap ldpcBytes

/-- The syndrome of the hard decisions `bits`, 4,864 bytes, is zero: every block row sums to zero (R262, R266). -/
def syndromeZero (bits : List Byte) : Bool :=
  let us := ldpcWords 68 bits
  let ps := ldpcWords 8 (bits.drop 4352)
  bits.length == 4864 && (List.range 8).all fun r =>
    ldpcSum us r ^^^ ps.getD r 0 ^^^ (if r = 0 then 0 else ps.getD (r - 1) 0) == 0

/-- The bits as written: the codeword under the randomiser. -/
def writtenBits (track sector : Nat) (payload : List Byte) : List Bool :=
  List.zipWith (· != ·) (bitsOf (codeword payload)) (randomSeq 38912 (randomSeed track sector))

/-- Taps of the partial-response target, oldest bit last (R265). -/
def targetTaps (t : Nat) : List Int :=
  [[8, 14, 6, 0, 0], [8, 12, 6, 2, 0], [8, 10, 4, 2, 0], [8, 13, 8, 3, 0], [8, 11, 7, 3, 1], [8, 9, 5, 2, 1], [8, 15, 10, 3, 0],
   [8, 12, 9, 4, 1]].getD t []

/-- A tap of a set that has not adapted, in 2^-24: one unit centre tap (R233). -/
def centreTap (k : Nat) : Int := if k % 16 = 8 then 16777216 else 0

/-- Binary of a Gray code of 24 bits. -/
def grayDecode (g : Nat) : Nat := (List.range 24).foldl (fun b i => b ^^^ (g / 2 ^ i)) 0 % 2 ^ 24

/-- Gray code of a number (R300). -/
def grayCode (t : Nat) : Nat := t ^^^ (t / 2)

/-! ### Payload (R239 to R243) -/

/-- Stored block size of format `fmt`, with or without protection information (R243). -/
def storedBlock (fmt : Nat) (pi : Bool) : Nat :=
  (if fmt = 0 then 512 else if fmt = 1 then 520 else if fmt = 2 then 528 else if fmt = 3 then 4096
   else if fmt = 4 then 4160 else 4224) + (if pi then 8 else 0)

/-- Host blocks per sector. -/
def blocksPer (fmt : Nat) : Nat := if fmt ≤ 2 then 8 else 1

/-- Fields of a job body, words 5 to 15 of a run packet (R285). -/
def bodySeed (b : List Word) : Nat := ofWords (b.getD 0 0#32) (b.getD 1 0#32)
def bodyDram (b : List Word) : Nat := fld (b.getD 2 0#32) 31 6 * 64 + fld (b.getD 3 0#32) 7 0 * 2 ^ 32
def bodyStride (b : List Word) : Nat := fld (b.getD 3 0#32) 15 8
def bodySeq (b : List Word) : Nat := ofWords (b.getD 4 0#32) (b.getD 5 0#32)
def bodyLun (b : List Word) : Nat := fld (b.getD 6 0#32) 5 0
def bodyFmt (b : List Word) : Nat := fld (b.getD 6 0#32) 8 6
def bodyPi (b : List Word) : Bool := bit (b.getD 6 0#32) 9
def bodyKeyEn (b : List Word) : Bool := bit (b.getD 6 0#32) 10
def bodyKey (b : List Word) : Nat := fld (b.getD 6 0#32) 17 11
def bodyKind (b : List Word) : Nat := fld (b.getD 6 0#32) 20 18
def bodyVerify (b : List Word) : Bool := bit (b.getD 6 0#32) 21
def bodyRebuilt (b : List Word) : Bool := bit (b.getD 6 0#32) 22
def bodyFirstMask (b : List Word) : Nat := fld (b.getD 7 0#32) 7 0
def bodyLastMask (b : List Word) : Nat := fld (b.getD 7 0#32) 15 8
def bodyConsumer (b : List Word) : Nat := fld (b.getD 7 0#32) 26 16
def bodyConsEn (b : List Word) : Bool := bit (b.getD 7 0#32) 27
def bodyOwner (b : List Word) : Nat := fld (b.getD 8 0#32) 5 0
def bodyStripe (b : List Word) : Nat := ofWords (b.getD 9 0#32) (b.getD 10 0#32)

/-- The mask of sector `i` of `n`: FIRST_MASK, LAST_MASK, both, or all blocks (R286). -/
def bodyMask (b : List Word) (i n : Nat) : Nat :=
  let m := (if i = 0 then bodyFirstMask b else 255) &&& (if i + 1 = n then bodyLastMask b else 255)
  if blocksPer (bodyFmt b) = 1 then m % 2 else m

/-- Every counting bit of a mask is set. -/
def maskWhole (b : List Word) (m : Nat) : Bool := m == (if blocksPer (bodyFmt b) = 1 then 1 else 255)

/-- A mask as a track job carries it: 0xFF where the sector is whole (R287). -/
def jobMask (b : List Word) (m : Nat) : Nat := if maskWhole b m then 255 else m

/-- KIND of a job body is one of R285, or 3 in a body of Crew's own, whose journal sectors carry it (R369; log entry 159). -/
def bodyKindOk (b : List Word) : Bool := decide (bodyKind b ≤ 2) || (bodyKind b == 3 && decide (0x24 ≤ bodyOwner b ∧ bodyOwner b ≤ 0x2B))

/-- The fields of a job body lie within R285 and R286, for `n` sectors. -/
def bodyOk (b : List Word) (n : Nat) : Bool :=
  let fmt := bodyFmt b
  let s := storedBlock fmt (bodyPi b)
  let need := if fmt ≤ 2 then (8 * s + 63) / 64 else (s + 63) / 64
  decide (fmt ≤ 5) && !((fmt == 2 || fmt == 5) && bodyPi b) && bodyKindOk b
    && decide (64 ≤ bodyStride b) && decide (bodyStride b ≤ 68) && decide (need ≤ bodyStride b)
    && (bodyMask b 0 n != 0) && (bodyMask b (n - 1) n != 0)
    && (!bodyRebuilt b || (decide (67 ≤ bodyStride b) && !bodyKeyEn b && bodyFirstMask b == 255 && bodyLastMask b == 255))

/-- The protected metadata of a data sector, 64 bytes (R240). -/
def metadata (seed seq lun fmt : Nat) (pi enc : Bool) (poison : Nat) : List Byte :=
  toBytes 8 seed ++ toBytes 8 seq ++ [BitVec.ofNat 8 lun, BitVec.ofNat 8 (fmt + if pi then 8 else 0),
    if enc then 1#8 else 0#8, BitVec.ofNat 8 poison] ++ List.replicate 44 0#8

/-- The trailer without its CRC, 60 bytes (R241). -/
def trailerHead (kind member sector track stripe : Nat) : List Byte :=
  [BitVec.ofNat 8 kind, BitVec.ofNat 8 member] ++ toBytes 2 sector ++ toBytes 4 track ++ toBytes 8 stripe
    ++ List.replicate 44 0#8

/-- A whole payload: host area, metadata, trailer, the CRC last (R239, R246). -/
def assemble (host md : List Byte) (kind member sector track stripe : Nat) : List Byte :=
  let body := host ++ md ++ trailerHead kind member sector track stripe
  body ++ toBytes 4 (crc32c body).toNat

/-- The number in `n` bytes of a payload from byte `o` on. -/
def payloadNat (p : List Byte) (o n : Nat) : Nat := ofBytes ((p.drop o).take n)

def payloadCrc (p : List Byte) : Word := word (payloadNat p 4348 4)
/-- The CRC of R241 is good. -/
def payloadGood (p : List Byte) : Bool := p.length == 4352 && word (crc32c (p.take 4348)).toNat == payloadCrc p
def payloadHost (p : List Byte) : List Byte := p.take 4224
def payloadSeed (p : List Byte) : Nat := payloadNat p 4224 8
def payloadSeq (p : List Byte) : Nat := payloadNat p 4232 8
def payloadLun (p : List Byte) : Nat := payloadNat p 4240 1
def payloadEnc (p : List Byte) : Bool := (payloadNat p 4242 1) % 2 == 1
def payloadPoison (p : List Byte) : Nat := payloadNat p 4243 1
def payloadKind (p : List Byte) : Nat := payloadNat p 4288 1
def payloadMember (p : List Byte) : Nat := payloadNat p 4289 1
def payloadSector (p : List Byte) : Nat := payloadNat p 4290 2
def payloadTrack (p : List Byte) : Nat := payloadNat p 4292 4

/-! ### Zone entries and the walk (R251, R253) -/

def zRate (z : List Word) : Nat := fld (z.getD 0 0#32) 11 0
def zOsr (z : List Word) : Nat := fld (z.getD 0 0#32) 15 12
def zSectors (z : List Word) : Nat := fld (z.getD 0 0#32) 25 16
def zValid (z : List Word) : Bool := bit (z.getD 0 0#32) 31
def zFirst (z : List Word) : Nat := fld (z.getD 1 0#32) 23 0
def zPre (z : List Word) : Nat := fld (z.getD 2 0#32) 9 0
def zResync (z : List Word) : Nat := fld (z.getD 2 0#32) 19 10
def zGap (z : List Word) : Nat := fld (z.getD 2 0#32) 27 20
def zPc (z : List Word) (n : Nat) : Nat := fld (z.getD 3 0#32) (8 * n - 3) (8 * n - 8)
def zVgaInit (z : List Word) : Nat := fld (z.getD 4 0#32) 23 16
def zEqMu (z : List Word) : Nat := fld (z.getD 5 0#32) 7 0
def zTarget (z : List Word) : Nat := fld (z.getD 5 0#32) 10 8
def zSkew (z : List Word) : Nat := fld (z.getD 6 0#32) 9 0

/-- Wedge interval in ps at the header's RPM. -/
def wedgePs (rpm : Nat) : Nat := 60000000000000 / (rpm * 640)
/-- Data bits per wedge field. -/
def wedgeBits (rpm servoNs rate : Nat) : Nat := (wedgePs rpm - servoNs * 1000) * rate / 1000000
/-- Bits of one sector and of one split field. -/
def sectorBits (z : List Word) : Nat := zPre z + zGap z + 38976
def splitBits (z : List Word) : Nat := zResync z + 64

/-- The place of the walk: wedge, position in bits, crossings. -/
structure WalkPos where
  w : Nat
  pos : Nat
  crossings : Nat
  deriving DecidableEq, Repr

/-- The part of the walk through one sector's bits; `fuel` bounds its splits. -/
def walkSector (wb xb : Nat) : Nat → Nat → WalkPos → WalkPos
  | 0, _, p => p
  | f + 1, left, p =>
    if wb - p.pos < left then walkSector wb xb f (left - (wb - p.pos)) ⟨(p.w + 1) % 640, xb, p.crossings + 1⟩
    else { p with pos := p.pos + left }

/-- At the end of a data field the next sector starts in the next one. -/
def walkTurn (wb : Nat) (p : WalkPos) : WalkPos := if p.pos = wb then ⟨(p.w + 1) % 640, 0, p.crossings + 1⟩ else p

/-- The walk over `n` sectors from `p`; it ends at once when a split field fills a data field. -/
def walk (wb sb xb : Nat) : Nat → WalkPos → WalkPos
  | 0, p => p
  | n + 1, p => if wb ≤ xb then p else walk wb sb xb n (walkSector wb xb (sb / (wb - xb) + 2) sb (walkTurn wb p))

/-- The place of sector `i` of track `t` under zone entry `z` (R253): wedge and position in bits. -/
def sectorPlace (rpm servoNs : Nat) (z : List Word) (t i : Nat) : WalkPos :=
  let wb := wedgeBits rpm servoNs (zRate z)
  walkTurn wb (walk wb (sectorBits z) (splitBits z) i ⟨t * zSkew z % 640, 0, 0⟩)

/-- A stretch of a sector in one data field: the wedge before it, the position of its first bit, the sector's bits before it, and its
length in bits (R237). -/
structure Fragment where
  wedge : Nat
  pos : Nat
  start : Nat
  len : Nat
  deriving DecidableEq, Repr

/-- The fragments of the `left` bits of a sector that remain at wedge `w`, position `pos`. -/
def fragmentsFrom (wb xb : Nat) : Nat → Nat → Nat → Nat → Nat → List Fragment
  | 0, _, _, _, _ => []
  | f + 1, w, pos, start, left =>
    if wb - pos < left then
      ⟨w, pos, start, wb - pos⟩ :: fragmentsFrom wb xb f ((w + 1) % 640) xb (start + (wb - pos)) (left - (wb - pos))
    else [⟨w, pos, start, left⟩]

/-- The fragments of sector `i` of track `t` (R237, R253). -/
def fragments (rpm servoNs : Nat) (z : List Word) (t i : Nat) : List Fragment :=
  let p := sectorPlace rpm servoNs z t i
  let wb := wedgeBits rpm servoNs (zRate z)
  fragmentsFrom wb (splitBits z) (sectorBits z / (wb - splitBits z) + 2) p.w p.pos 0 (sectorBits z)

/-- Sync marks that a read of the sector passes: its own, and that of the split field before each later fragment with codeword bits
(R232, R237; log entry 150). -/
def syncMarks (rpm servoNs : Nat) (z : List Word) (t i : Nat) : Nat :=
  1 + ((fragments rpm servoNs z t i).filter fun f => decide (0 < f.start) && decide (f.start < zPre z + 38944)).length

/-! ### What is written (R237, R247) -/

/-- `n` bits of a pattern repeated. -/
def repeatBits (pat : List Bool) (n : Nat) : List Bool := (List.range n).map fun i => pat.getD (i % pat.length) false

/-- The 2T pattern (R237), and the sync mark 0x5E1D_A36B, most significant bit first. -/
def twoT (n : Nat) : List Bool := repeatBits [true, true, false, false] n
def syncBits : List Bool := bitsOf [0x5E#8, 0x1D#8, 0xA3#8, 0x6B#8]

/-- The bits of a sector from its preamble to its postamble (R237). -/
def sectorStream (z : List Word) (track sector : Nat) (payload : List Byte) : List Bool :=
  twoT (zPre z) ++ syncBits ++ writtenBits track sector payload ++ twoT 32

/-- The bits of a split field (R237). -/
def splitField (z : List Word) : List Bool := twoT (32 + zResync z) ++ syncBits

/-- How much later each bit's transition is written, in 1/64 bit, given the bit before and how many bits back the last transition lies, 0
where none precedes; 0 where the bit has no transition (R247). -/
def precompensate (z : List Word) : Option Bool → Nat → List Bool → List Nat
  | _, _, [] => []
  | prev, d, b :: bs =>
    if prev = some (!b) then (if 1 ≤ d ∧ d ≤ 3 then zPc z d else 0) :: precompensate z (some b) 1 bs
    else 0 :: precompensate z (some b) (if d = 0 then 0 else d + 1) bs

/-- The walk of all `SECTORS` makes at most 639 crossings (R253). -/
def walkFits (rpm servoNs : Nat) (z : List Word) : Bool :=
  let wb := wedgeBits rpm servoNs (zRate z)
  decide (splitBits z < wb) && decide ((walk wb (sectorBits z) (splitBits z) (zSectors z) ⟨0, 0, 0⟩).crossings ≤ 639)

/-- The ranges of R251 and the sample clock of R227 (RATE × (64 + OSR) ÷ 64, at most 4,200 MS/s). -/
def zoneRanges (z : List Word) : Bool :=
  decide (1000 ≤ zRate z) && decide (zRate z ≤ 3900) && decide (zOsr z ≤ 8) && decide (zRate z * (64 + zOsr z) ≤ 4200 * 64)
    && decide (1 ≤ zSectors z) && decide (128 ≤ zPre z) && decide (zPre z ≤ 512) && decide (64 ≤ zResync z)
    && decide (zResync z ≤ 256) && decide (32 ≤ zGap z) && decide (zSkew z ≤ 639)

end Sys2Proof.Machine
end

