-- ==== Sys2Proof/Machine/OarOps.lean ====
section
/-! DEFINITION. Oars: their entries, how a sector ends, and how a write is cut (R32, R289, R292, R296, R475). -/

namespace Sys2Proof.Machine

def oar (s : State) (o : Nat) : Oar := SMap.get (fun _ => Oar.reset) s.oars o

def modOar (o : Nat) (f : Oar → Oar) (s : State) : State :=
  { s with oars := SMap.set (fun _ => Oar.reset) s.oars o (f (oar s o)) }

/-- The entry of an Oar; none when FREE. -/
def entry (s : State) (o e : Nat) : Option JobEntry := SMap.get (fun _ => none) (oar s o).entries e

def setEntry (o e : Nat) (x : Option JobEntry) (s : State) : State :=
  modOar o (fun r => { r with entries := SMap.set (fun _ => none) r.entries e x }) s

def modEntry (o e : Nat) (f : JobEntry → JobEntry) (s : State) : State :=
  match entry s o e with
  | some x => setEntry o e (some (f x)) s
  | none => s

/-- Actuator and slot of an Oar. -/
def oarAct (o : Nat) : Nat := o / 4
def oarSlot (o : Nat) : Nat := o % 4

/-- Global head of an actuator-local head. -/
def memberOf (o head : Nat) : Nat := 6 * oarAct o + head

/-- Fields of the track job in progress (R287). -/
def jobType (j : TrackJob) : Nat := fld (j.words.getD 0 0#32) 15 8
def jobTag (j : TrackJob) : Nat := fld (j.words.getD 0 0#32) 31 16
def jobHead (j : TrackJob) : Nat := fld (j.words.getD 1 0#32) 2 0
def jobZone (j : TrackJob) : Nat := fld (j.words.getD 1 0#32) 13 8
def jobTrack (j : TrackJob) : Nat := fld (j.words.getD 2 0#32) 24 0
def jobFirst (j : TrackJob) : Nat := fld (j.words.getD 3 0#32) 9 0
def jobCount (j : TrackJob) : Nat := fld (j.words.getD 3 0#32) 25 16
def jobBase (j : TrackJob) : Nat := fld (j.words.getD 4 0#32) 10 0
def jobSpare (j : TrackJob) : Bool := bit (j.words.getD 4 0#32) 16
def jobBody (j : TrackJob) : List Word := j.words.drop 5

/-- A track job of these words, not yet begun. -/
def asJob (ws : List Word) : TrackJob := ⟨ws, false, [], 0, false⟩

/-- The entries a track job names (R287). -/
def jobEntries (j : TrackJob) : List Nat := (List.range (jobCount j)).map fun n => (jobBase j + n) % 2048

/-- A buffer-transaction credit of class MEDIA returns (R26, R28). -/
def mediaReturn (s : State) : State := xactGrantNext (setXactHeld 1 (xactHeld s 1 - 1) s)

/-- Entry `e` takes the buffer-transaction credit of its read's landing when its turn comes (R28, R293, R445). -/
def entryCredit (o e : Nat) (s : State) : State :=
  match entry s o e with
  | none => s
  | some x =>
    if x.credit then s
    else if creditTurn s (.entry o e) then setEntry o e (some { x with credit := true, ready := s.time }) (takeCredit (.entry o e) s)
    else askCredit (.entry o e) s

/-- A sector ends with its cause (R292): 0 is good. SECTOR_LASTING, the count, and the return of a buffer-transaction credit are
part of it; the completion packet comes later. -/
def endEntry (o e cause : Nat) (s : State) : State :=
  match entry s o e with
  | none => s
  | some x =>
    let s1 := setEntry o e (some { x with state := 10, cause := cause, slot := none, credit := false, landing := none
                                          payload := [] }) s
    let s2 := if x.credit then mediaReturn s1 else s1
    if cause = 0 then s2
    else lasting (Page.OAR o) 1 cause ⟨word x.track, word x.sector, word e⟩ (s2.count (Reg.OAR.LASTING_COUNT o) 1)

/-! ### The in-flight sector list (R475) -/

/-- Usable offset of entry `i` of the list. -/
def inflightOff (s : State) (i : Nat) : Nat :=
  ofWords (s.reg Reg.SAFE.INFLIGHT_BASE_LO) (s.reg Reg.SAFE.INFLIGHT_BASE_HI) / 64 * 64 + 4416 * i

/-- Header word 0 of an entry. -/
def inflightWord (s : State) (i : Nat) : Word := s.wordAt (dramBase + inflightOff s i)

/-- A free list entry of Oar `o`. -/
def inflightFree (s : State) (o : Nat) : Option Nat :=
  ((List.range 8).map (8 * o + ·)).find? fun i => !bit (inflightWord s i) 31

/-- Write header word 0 of an entry. -/
def setInflight (i : Nat) (w : Word) (s : State) : State := storeBytes (inflightOff s i) (toBytes 4 w.toNat) s

/-- Write gate asserts: the entry's header and payload. -/
def putInflight (i member track sector seq : Nat) (payload : List Byte) (s : State) : State :=
  let head := toBytes 4 (member + 2 ^ 31) ++ toBytes 4 track ++ toBytes 4 sector ++ toBytes 8 seq ++ List.replicate 44 0#8
  storeBytes (inflightOff s i) (head ++ payload) s

/-! ### Cuts (R32, R154, R296) -/

/-- Write gate of Oar `o` rises on lane `w` (R163 sums the pulses). -/
def raiseGate (o w : Nat) (s : State) : State :=
  let s1 := (s.setBit (Reg.OAR.FE_STATUS o) 17 true).setFld (Reg.OAR.FE_STATUS o) 20 19 (w + 1)
  { s1 with hda := { s1.hda with pulses := ⟨o, s.time, none⟩ :: s1.hda.pulses } }

/-- Write gate of Oar `o`, and its read gate, fall. -/
def dropGate (o : Nat) (s : State) : State :=
  let s1 := s.setFld (Reg.OAR.FE_STATUS o) 20 17 0
  { s1 with hda := { s1.hda with
      pulses := s1.hda.pulses.map fun p => if p.oar = o ∧ p.fall = none then { p with fall := some s.time } else p } }

/-- The pulses that reach into the last 100 ms before `now`. -/
def recentPulses (now : Nat) (ps : List LanePulse) : List LanePulse :=
  ps.filter fun p => decide (now < p.fall.getD now + 100000000) || p.fall.isNone

/-- The time in ns that the pulses stood in the last 100 ms before `now` (R163). -/
def gateHigh (now : Nat) (ps : List LanePulse) : Nat :=
  (ps.map fun p => p.fall.getD now - max p.rise (now - 100000000)).foldl (· + ·) 0

/-- The track job writes servo wedges. -/
def servoJob (s : State) (o : Nat) : Bool := (oar s o).job.any fun j => jobType j == 8

/-- Write gate of Oar `o` falls mid-sector, or in a servo wedge (R301), for `cause`: 1 write fault, 2 spindle unlocked, 3 PWR_FAIL, 4
PFAULT_N. -/
def cutOar (o cause : Nat) (s : State) : State :=
  match (oar s o).passage with
  | some (e, true) =>
    let s1 := dropGate o (modOar o (fun r => { r with passage := none }) s)
    match (if servoJob s o then none else entry s1 o e) with
    | none =>
      let s2 := s1.count (Reg.OAR.CUT_COUNT o) 1
      if cause = 1 then s2 else raise (Page.OAR o) 2 0 cause {} s2
    | some x =>
      let s2 := match x.inflight with
        | some i => setInflight i (Sys2Proof.setBit (inflightWord s1 i) 30 true) s1
        | none => s1
      let s3 := s2.count (Reg.OAR.CUT_COUNT o) 1
      if cause = 1 then
        if x.wfCut then endEntry o e 7 s3 else modEntry o e (fun y => { y with state := 6, wfCut := true }) s3
      else raise (Page.OAR o) 2 0 cause {} (modEntry o e (fun y => { y with state := 6 }) s3)
  | _ => s

/-- The Oar of slot `k` of actuator `a` releases write gate. -/
def cutSlot (a k cause : Nat) (s : State) : State := cutOar (4 * a + k) cause s

/-- Every Oar of actuator `a` releases write gate. -/
def cutActuator (a cause : Nat) (s : State) : State := (List.range 4).foldl (fun t k => cutSlot a k cause t) s

/-- Every Oar releases write gate. -/
def cutAll (cause : Nat) (s : State) : State := (List.range 16).foldl (fun t o => cutOar o cause t) s

/-- A sector being read in the slot is marked for re-read (R188). -/
def markSlotRead (a k : Nat) (s : State) : State :=
  match (oar s (4 * a + k)).passage with
  | some (e, false) =>
    let s1 := modEntry (4 * a + k) e (fun x => { x with marked := true }) s
    match (entry s1 (4 * a + k) e).bind JobEntry.slot with
    | some n =>
      let d := (SMap.get (fun _ => none) s1.sweep.slots n).map fun (d : DecSlot) => { d with marked := true }
      { s1 with sweep := { s1.sweep with slots := SMap.set (fun _ => none) s1.sweep.slots n d } }
    | none => s1
  | _ => s

/-- A sector being read anywhere is marked for re-read: the spindle is unlocked (R30). -/
def markAllReads (s : State) : State :=
  (List.range 16).foldl (fun t o => markSlotRead (oarAct o) (oarSlot o) t) s

/-! ### Zones (R251) -/

/-- Zone entry of head `h`, zone `z` of actuator `a`, as stored. -/
def zoneEntry (s : State) (a h z : Nat) : List Word := SMap.get (fun _ => []) (oar s (4 * a)).zones (64 * h + z)

def zoneHeaderRpm (s : State) (a : Nat) : Nat := s.fld (Reg.OAR.ZT_RPM (4 * a)) 12 0
def zoneServoNs (s : State) (a : Nat) : Nat := s.fld (Reg.OAR.ZT_RPM (4 * a)) 27 16

/-- The zones of head `h` whose entry is in use and starts at or before track `t`. -/
def zonesUpTo (s : State) (a h t : Nat) : List Nat :=
  (List.range 64).filter fun z => zValid (zoneEntry s a h z) && decide (zFirst (zoneEntry s a h z) ≤ t)

/-- Zone of a head's track; 0 where no zone holds it. -/
def zoneOfTrack (a h t : Nat) (s : State) : Nat := (zonesUpTo s a h t).getLast?.getD 0

/-- Track `t` lies in zone `z` of head `h`, whose entry is in use (R252). -/
def trackInZone (s : State) (a h z t : Nat) : Bool := decide (t < 2 ^ 24) && (zonesUpTo s a h t).getLast? == some z

/-! ### What Gate keeps of the entries (R442) -/

def gate (s : State) (a : Nat) : Gate := SMap.get (fun _ => Gate.reset) s.gates a

def modGate (a : Nat) (f : Gate → Gate) (s : State) : State :=
  { s with gates := SMap.set (fun _ => Gate.reset) s.gates a (f (gate s a)) }

def modRun (a id : Nat) (f : Run → Run) (s : State) : State :=
  modGate a (fun g => { g with runs := g.runs.map fun r => if r.id = id then f r else r }) s

/-- Run, index and "passed to Gate" of entry `e` of slot `k`. -/
def gateMap (s : State) (a k e : Nat) : Option (Nat × Nat × Bool) := SMap.get (fun _ => none) (gate s a).map (2048 * k + e)

/-- Gate learns that a run read poison (R442). -/
def markPoisoned (o e : Nat) (s : State) : State :=
  match gateMap s (oarAct o) (oarSlot o) e with
  | some (id, _, _) => modRun (oarAct o) id (fun r => { r with poisoned := true }) s
  | none => s

end Sys2Proof.Machine
end

