-- ==== Sys2Proof/Machine/RudderOps.lean ====
section
/-! DEFINITION. Rudder: states, groups, write fault, retracts and parking (R171 to R204). -/

namespace Sys2Proof.Machine

/-! ### Access to a Rudder -/

def rud (s : State) (a : Nat) : Rudder := SMap.get (fun _ => Rudder.reset) s.rudders a

def modRud (a : Nat) (f : Rudder → Rudder) (s : State) : State :=
  { s with rudders := SMap.set (fun _ => Rudder.reset) s.rudders a (f (rud s a)) }

def rudSlot (s : State) (a k : Nat) : RudSlot := SMap.get (fun _ => RudSlot.empty) (rud s a).slots k

def modSlot (a k : Nat) (f : RudSlot → RudSlot) (s : State) : State :=
  modRud a (fun r => { r with slots := SMap.set (fun _ => RudSlot.empty) r.slots k (f (SMap.get (fun _ => RudSlot.empty) r.slots k)) }) s

/-- Slots in use, lowest first. -/
def usedSlots (s : State) (a : Nat) : List Nat := (List.range 4).filter fun k => (rudSlot s a k).used

/-- STATUS.STATE: 0 PARKED, 1 LOADING, 2 SEEKING, 3 FOLLOWING, 4 REACQUIRE, 5 UNLOADING, 6 RETRACTING, 7 PARKED_FAULT (R197). -/
def rudState (s : State) (a : Nat) : Nat := s.fld (Reg.STATUS (Page.RUDDER a)) 11 8

def rudParked (s : State) (a : Nat) : Bool := rudState s a == 0 || rudState s a == 7

/-- Rudder `a` is present, powered, clocked and in no machine check. -/
def rudAlive (s : State) (a : Nat) : Bool := decide (a < 4) && blockAlive s (Page.RUDDER a)

/-- Every actuator is parked or has parked with a fault; a Rudder without power counts as parked. -/
def allParked (s : State) : Bool := (List.range 4).all fun a => !pageOn s (Page.RUDDER a) || rudParked s a

def rudShock (s : State) (a : Nat) : Bool := s.bit (Reg.STATUS (Page.RUDDER a)) 22

def note (a : Nat) (n : GateNote) (s : State) : State := modRud a (fun r => { r with notes := r.notes ++ [n] }) s

/-! ### Write fault (R187) -/

/-- STATUS.WF shows the slots' write faults. -/
def showWf (a : Nat) (s : State) : State :=
  s.setFld (Reg.STATUS (Page.RUDDER a)) 21 18
    ((List.range 4).foldl (fun n k => n + (if (rudSlot s a k).wf then 2 ^ k else 0)) 0)

/-- Write fault asserts on slot `k` (R187); its Oar releases write gate (R32). -/
def assertWf (a k : Nat) (s : State) : State :=
  let x := rudSlot s a k
  if !x.used then s
  else if x.wf then modSlot a k (fun y => { y with clean := 0 }) s
  else
    let s1 := (modSlot a k (fun y => { y with wf := true, clean := 0 }) s).count (Reg.RUDDER.WF_COUNT a) 1
    let s2 := raise (Page.RUDDER a) 5 0 k ⟨sword x.pes, 0#32, 0#32⟩ (showWf a s1)
    cutSlot a k 1 (trTrigger (Page.RUDDER a) 3 false s2)

def assertAllWf (a : Nat) (s : State) : State := (List.range 4).foldl (fun t k => assertWf a k t) s

/-- A cause of write fault holds on slot `k` (R187). -/
def wfCause (s : State) (a k : Nat) : Bool :=
  let x := rudSlot s a k
  !x.onTrack || decide (s.fld (Reg.RUDDER.WF_CFG a) 11 0 < x.pes.natAbs)
    || (x.write && decide (s.fld (Reg.RUDDER.WF_CFG a) 19 16 < x.badRun))
    || x.sat || x.late || decide (0 < (rud s a).missedRun) || rudShock s a || rudState s a != 3

/-- Write fault at a sample end: asserted, or one more clean sample end (R187). -/
def stepWf (a k : Nat) (s : State) : State :=
  if !(rudSlot s a k).used then s
  else if wfCause s a k then assertWf a k s
  else modSlot a k (fun y => { y with clean := y.clean + 1 }) s

/-- READ_OFF at a sample end (R188): sectors read meanwhile are marked. -/
def stepReadOff (a k : Nat) (s : State) : State :=
  let x := rudSlot s a k
  if !x.used then s
  else
    let off := !x.onTrack || decide (s.fld (Reg.RUDDER.RD_CFG a) 11 0 < x.pes.natAbs)
    let s1 := modSlot a k (fun y => { y with readOff := off }) s
    if off then markSlotRead a k s1 else s1

/-! ### States (R197) -/

/-- Rudder enters a state: STATE, its event, the trace trigger, and the end of an injection outside FOLLOWING (R206, R215,
R222); outside FOLLOWING write fault stands on every used slot (R187). -/
def enterRud (a st : Nat) (s : State) : State :=
  if rudState s a = st then s
  else
    let s1 := s.setFld (Reg.STATUS (Page.RUDDER a)) 11 8 st
    let s2 := trTrigger (Page.RUDDER a) 7 false (raise (Page.RUDDER a) 0 0 st {} s1)
    if st = 3 then s2 else assertAllWf a (tuneTrip (Page.RUDDER a) 3 0 s2)

/-! ### Drive words (R13, R16) -/

/-- The word that waits in a Rudder's slot of the bridge. -/
def rudDrive (s : State) (a : Nat) : RudDrive := SMap.get (fun _ => RudDrive.zero) s.rigger.rudSlots a

def modDrive (a : Nat) (f : RudDrive → RudDrive) (s : State) : State :=
  { s with rigger := { s.rigger with rudSlots := SMap.set (fun _ => RudDrive.zero) s.rigger.rudSlots a (f (rudDrive s a)) } }

/-- An output's saturation begins or ends (R190): its STATUS bit, SATURATION, and the trace trigger at a beginning. -/
def showSat (a out bitNo : Nat) (sat : Bool) (s : State) : State :=
  let k := Reg.STATUS (Page.RUDDER a)
  if s.bit k bitNo = sat then s
  else
    let s1 := raise (Page.RUDDER a) 8 0 (if sat then 1 else 0) ⟨word out, 0#32, 0#32⟩ (s.setBit k bitNo sat)
    if sat then trTrigger (Page.RUDDER a) 6 false s1 else s1

/-- The third-stage words follow the slots: zero, and so not saturated, where a slot is not used (R156, R183). -/
def driveThirds (a : Nat) (s : State) : State :=
  let mv := fun k => let x := rudSlot s a k; if x.used then x.tsMv else 0
  (List.range 4).foldl (fun t k => if (rudSlot t a k).used then t else showSat a (2 + k) (14 + k) false t)
    (modDrive a (fun d => { d with third := if [0, 1, 2, 3].all (fun k => mv k == 0) then [] else [mv 0, mv 1, mv 2, mv 3] }) s)

/-- Every slot leaves the group: no used slot, third stages at zero. -/
def clearSlots (a : Nat) (s : State) : State := driveThirds a (showWf a (modRud a (fun r => { r with slots := [] }) s))

/-- A head is seated in slot `k`: the window of its PES3S is spoiled when it began with another head, or none (R189). -/
def noteHead (a k h : Nat) (s : State) : State :=
  modRud a (fun r =>
    let w := SMap.get (fun _ => PesWindow.empty) r.windows k
    if w.head = some h then r
    else { r with windows := SMap.set (fun _ => PesWindow.empty) r.windows k
                    { w with head := some h, spoiled := decide (0 < r.windowRun) } }) s

/-- The group ends to Gate, and a pending one is dropped. -/
def endGroup (a : Nat) (n : GateNote) (s : State) : State :=
  let had := !(usedSlots s a).isEmpty || (rud s a).pending.isSome
  let s1 := clearSlots a (modRud a (fun r => { r with pending := none, seeking := false, seekAgain := false }) s)
  if had then note a n s1 else s1

/-- Rudder writes the voice-coil current of its drive word; the next good frame takes it to the rigger die. It is saturated at ILIM_MA
(R190). -/
def driveCoil (a : Nat) (ma : Int) (s : State) : State :=
  modDrive a (fun d => { d with coilMa := ma }) (showSat a 0 12 (decide (s.fld (Reg.RUDDER.COIL_CFG a) 11 0 ≤ ma.natAbs)) s)

/-- The same for the milliactuator, in mV (R190). -/
def driveMilli (a : Nat) (mv : Int) (s : State) : State :=
  modDrive a (fun d => { d with milliMv := mv }) (showSat a 1 13 (decide (s.fld (Reg.RUDDER.DRIVE_LIM a) 5 0 * 1000 ≤ mv.natAbs)) s)

/-- The rigger die drives a voice coil by itself, and the slot's word follows. -/
def rigCoil (a : Nat) (ma : Int) (s : State) : State :=
  let s1 := driveCoil a ma s
  { s1 with rigger := { s1.rigger with coil := SMap.set (fun _ => 0) s1.rigger.coil a ma } }

/-- The link of the bridge is up: good frames flow. -/
def linkUp (s : State) : Bool := s.bit Reg.DRV.BRIDGE_STAT 0

/-- The retract current of actuator `a` that the rigger die holds, mA: that of DRV.RETRACTa, or the last one it took from there. -/
def retractMa (s : State) (a : Nat) : Int :=
  if linkUp s then signedOf 16 (s.fld (Reg.DRV.RETRACT a) 15 0) else s.rigger.held.retract.getD a 0

/-! ### Unload, retract, park (R198 to R201) -/

/-- Precedence of a retract cause, lower first (R204). -/
def causeRank (c : Nat) : Nat := if c = 6 then 0 else if c = 2 then 1 else if c = 3 ∨ c = 4 then 2 else if c = 5 then 3 else 4

/-- RETRACT with its cause (R201): severity 0 for causes 1 to 4, 3 for causes 5 and 6. -/
def retractEvent (a c : Nat) (s : State) : State :=
  let s1 := s.setReg (Reg.RUDDER.PARK_CAUSE a) (word c)
  if c ≤ 4 then raise (Page.RUDDER a) 11 0 c {} s1 else lasting (Page.RUDDER a) 11 c {} s1

/-- An unload (cause 0) or a retract begins: the group ends as aborted, the milliactuator and the third stages go to zero and the arm moves to
the ramp (R200). -/
def beginPark (a c : Nat) (reload : Bool) (s : State) : State :=
  let s1 := if c = 0 then s else retractEvent a c s
  let s2 := driveMilli a 0 (endGroup a .aborted (enterRud a (if c = 0 then 5 else 6) s1))
  modRud a (fun r => { r with reload := reload, parkFault := c == 5 || c == 6, driveStart := s.time, currentStart := none
                              rigged := false, acquired := false, huntGood := 0, lostRun := 0 }) s2

/-- A retract cause meets Rudder `a` (R201, R204); how the retract ends goes by the cause that holds. -/
def retract (a c : Nat) (s : State) : State :=
  if !decide (a < 4) || !pageOn s (Page.RUDDER a) || rudParked s a then s
  else
    let s0 := if c = 2 then
        modRud a (fun r => { r with pending := none }) (s.setBit (Reg.RUDDER.COEF_CTRL a) 0 false)
      else s
    if rudState s a = 5 ∨ rudState s a = 6 then
      let now := s.fld (Reg.RUDDER.PARK_CAUSE a) 2 0
      let s1 := modRud a (fun r => { r with reload := false }) s0
      if rudState s a = 5 then
        enterRud a 6 (retractEvent a c (modRud a (fun r => { r with parkFault := r.parkFault || c == 5 || c == 6 }) s1))
      else if causeRank c < causeRank now then
        enterRud a 6 (retractEvent a c (modRud a (fun r => { r with parkFault := c == 5 || c == 6 }) s1))
      else s1
    else beginPark a c false s0

/-- A retract under cause 6 that the rigger die drives: at once, or held back by a V_CRIT latch or the autonomous state (R201). -/
def riggerRetract (held : Bool) (a : Nat) (s : State) : State :=
  if !decide (a < 4) || rudParked s a then s
  else
    let s1 := modRud a (fun r => { r with latched := held, rigged := true }) (retract a 6 s)
    if held then s1 else rigCoil a (retractMa s a) s1

/-- Each Rudder with heads loaded retracts with cause `c` (R201). -/
def retractLoaded (c : Nat) (s : State) : State :=
  (List.range 4).foldl (fun t a =>
    if c = 6 then riggerRetract true a t else retract a c t) s

/-- Keel requests a park of every loaded actuator (R130). -/
def parkAll (s : State) : State := retractLoaded 4 s

/-- The arm is on the ramp: the coil at zero, PARKED or PARKED_FAULT (R200, R201). -/
def parkNow (a : Nat) (fault uncertain : Bool) (s : State) : State :=
  let s1 := if uncertain then s.setBit (Reg.RUDDER.PARK_CAUSE a) 8 true else s
  let s2 := modRud a (fun r => { r with currentStart := none, latched := false, rigged := false, parkFault := false, reload := false }) s1
  enterRud a (if fault then 7 else 0) (driveCoil a 0 s2)

/-- The V_CRIT latch is cleared: the retract current runs for 100 ms (R201). -/
def latchCleared (s : State) : State :=
  (List.range 4).foldl (fun t a =>
    if (rud t a).latched && rudState t a == 6 then
      rigCoil a (retractMa t a) (modRud a (fun r => { r with latched := false, currentStart := some s.time }) t)
    else t) s

/-- Rudders under cause 6 can read bridge state again after the rigger die's autonomous state: PARKED_FAULT, but for one that a V_CRIT latch
holds or whose retract current runs (R201). -/
def bridgeBack (s : State) : State :=
  (List.range 4).foldl (fun t a =>
    if (rud t a).rigged && (rud t a).currentStart.isNone && rudState t a == 6 && !s.bit Reg.DRV.BRIDGE_STAT 3 then parkNow a true false t
    else t) s

/-- Rudder `a` sends coupling words: its latch of CPL_CFG enables it, and it seeks, follows or re-acquires (R191, R193). -/
def coupleSends (s : State) (a : Nat) : Bool :=
  bit (rud s a).coupleCfg a && rudAlive s a && decide (2 ≤ rudState s a) && decide (rudState s a ≤ 4)

def modCouple (f : Couple → Couple) (s : State) : State := { s with couple := f s.couple }

/-- COUPLE's shock episode ends: SHOCK carries its peak and its time (R194). -/
def endShock (s : State) : State :=
  if !s.bit Reg.COUPLE.SNS_STATUS 4 then s
  else
    let t := s.couple.crossing.getD s.time
    raise Page.COUPLE 0 0 0 ⟨sword s.couple.peak, loWord t, hiWord t⟩ (s.setBit Reg.COUPLE.SNS_STATUS 4 false)

/-- Every output of Rudder `a` is within its limit from now on (R190). -/
def restOutputs (a : Nat) (s : State) : State :=
  (List.range 4).foldl (fun t k => showSat a (2 + k) (14 + k) false t) (showSat a 1 13 false (showSat a 0 12 false s))

/-! ### Groups (R182 to R184) -/

/-- Head offset of actuator-local head `h` in zone `z`, from the active bank (R202). -/
def headOffset (s : State) (a h z : Nat) : Int :=
  let b := s.fld (Reg.STATUS (Page.RUDDER a)) 23 23
  (SMap.get (fun _ => 0#32) (rud s a).banks (2048 * b + 16 + 64 * h + z)).toInt

/-- RW_OFFSET and READER_SEP of a head's calibration record; a free value each where none is stored (log entry 13). -/
def calOffsets (s : State) (a h z : Nat) : Int × Int × State :=
  match SMap.get (fun _ => none) s.cal.records (64 * (6 * a + h) + z) with
  | some r => let w := r.getD 10 0#32; (signedOf 16 (fld w 15 0), signedOf 16 (fld w 31 16), s)
  | none => let w := s.freeWord; (signedOf 16 (fld w 15 0), signedOf 16 (fld w 31 16), s.useFree)

/-- The slot that a head of a group will be: its reader-0 target and head offset (R182). -/
def formSlot (a : Nat) (g : GroupSlot) (s : State) : RudSlot × State :=
  let (rw, sep, s1) := calOffsets s a g.head g.zone
  let t : Int := if g.write then g.centre - rw else g.centre - sep.tdiv 2
  ({ RudSlot.empty with used := true, head := g.head, write := g.write, centre := g.centre, zone := g.zone
                        target := t, off := headOffset s a g.head g.zone }, s1)

/-- The slots of a group, formed in order. -/
def formSlots (a : Nat) : List (Option GroupSlot) → State → List (Option RudSlot) × State
  | [], s => ([], s)
  | g :: gs, s =>
    let (x, s1) := match g with
      | some g => let (x, t) := formSlot a g s; (some x, t)
      | none => (none, s)
    let (xs, s2) := formSlots a gs s1
    (x :: xs, s2)

/-- Third-stage stroke, 1/4,096 track (R182). -/
def stroke48 : Int := 196608

/-- A slot's static displacement for an arm position, clamped at the stroke (R182). -/
def staticPart (d : Int) (x : RudSlot) : RudSlot :=
  { x with disp := clampInt (-stroke48) stroke48 d, clamped := decide (stroke48 < d.natAbs) }

/-- The arm position of a group, rounded toward zero; none when its spread exceeds twice the stroke, or with no slot used (R182; log entry
169). -/
def groupArm (xs : List (Option RudSlot)) : Option Int :=
  match (xs.filterMap id).map (fun x => x.target - x.off) with
  | [] => none
  | v :: vs =>
    let lo := vs.foldl min v
    let hi := vs.foldl max v
    if hi - lo > 2 * stroke48 then none else some ((lo + hi).tdiv 2)

/-- Word `n` of the active coefficient bank (R202). -/
def bankWord (s : State) (a n : Nat) : Word :=
  SMap.get (fun _ => 0#32) (rud s a).banks (2048 * s.fld (Reg.STATUS (Page.RUDDER a)) 23 23 + n)

/-- The seek-profile bin for a distance in whole tracks (R184): the smallest DIST_MAX at or above it, else the last. -/
def profileBin (s : State) (a dist : Nat) : Nat :=
  ((List.range 32).find? fun i => decide (dist ≤ (bankWord s a (0x190 + 8 * i)).toNat)).getD 31

/-- A seek starts, from an arm position (R184). -/
def startSeek (a : Nat) (from_ : Int) (again : Bool) (s : State) : State :=
  let dist := ((rud s a).arm - from_).natAbs / 4096
  let s1 := modRud a (fun r =>
    { r with seekStart := s.time, seekFirst := if again then r.seekFirst else s.time, seekFrom := from_, seekBin := profileBin s a dist
             seekDist := if again then r.seekDist else dist, seekAgain := again, seeking := true }) s
  let s2 := (List.range 4).foldl (fun t k => stepReadOff a k (modSlot a k (fun x => { x with onTrack := false, onRun := 0 }) t)) s1
  enterRud a 2 s2

/-- A group comes into force: static displacements, and a seek when the arm position differs (R182, R184). A slot whose head,
target and mode stay keeps its estimate and its standing, and the offset of a ladder read in progress (R276); one whose head changes is dropped until the preamplifier has settled
(R183). -/
def applyGroup (a : Nat) (xs : List (Option RudSlot)) (arm : Int) (s : State) : State :=
  let old := rud s a
  let place := fun (t : State) (e : Option RudSlot × Nat) =>
    let was := SMap.get (fun _ => RudSlot.empty) old.slots e.2
    match e.1 with
    | none => modSlot a e.2 (fun _ => RudSlot.empty) t
    | some x =>
      let stays := (was.used || was.wait) && was.head == x.head
      let shift := if stays then (oar t (4 * a + e.2)).shift else 0
      let y := staticPart (x.target + shift - x.off - arm) <|
        if stays then
          let same := was.target == x.target + shift && was.write == x.write
          { was with write := x.write, centre := x.centre, zone := x.zone, target := x.target + shift, off := x.off
                     onTrack := was.onTrack && same, onRun := if same then was.onRun else 0 }
        else { x with used := false, wait := true }
      noteHead a e.2 x.head (modSlot a e.2 (fun _ => y) (modOar (4 * a + e.2) (fun r => { r with shift := shift }) t))
  let s1 := driveThirds a ((xs.zipIdx).foldl place (modRud a (fun r => { r with arm := arm }) s))
  let s2 := tuneTrip (Page.RUDDER a) 4 0 s1
  if arm = old.arm then
    (List.range 4).foldl (fun t k => if wfCause t a k then assertWf a k t else t) (showWf a s2)
  else startSeek a old.arm false (showWf a s2)

/-- A group from Gate (R182, R183): accepted, pending or refused. -/
def offerGroup (a : Nat) (g : List (Option GroupSlot)) (s : State) : State :=
  let st := rudState s a
  if st ≠ 2 ∧ st ≠ 3 ∧ st ≠ 4 then note a .notReady s
  else
    let (xs, s1) := formSlots a (g.take 4) s
    match groupArm xs with
    | none => note a .refused (raise (Page.RUDDER a) 9 5 1 {} s1)
    | some arm =>
      if st = 3 then applyGroup a xs arm s1
      else
        let s2 := if (rud s1 a).pending.isSome then note a .superseded s1 else s1
        modRud a (fun r => { r with pending := some (g.take 4) }) s2

/-- Rudder is FOLLOWING again: SEEK_LAST, ready to Gate after a load, and a pending group comes into force (R183, R185, R199). -/
def followed (a : Nat) (s : State) : State :=
  let r := rud s a
  let s1 := if r.seeking then
      s.setReg (Reg.RUDDER.SEEK_LAST a) (word (min 0xFFFF ((s.time - r.seekFirst) / 1000) + min 0xFFFF r.seekDist * 65536))
    else s
  let s2 := enterRud a 3 (modRud a (fun x => { x with seeking := false, seekAgain := false, pending := none })
    (if rudState s a = 1 then note a .ready s1 else s1))
  match r.pending with
  | none => s2
  | some g => offerGroup a g s2

end Sys2Proof.Machine
end

