-- ==== Sys2Proof/Machine/KeelOps.lean ====
section
/-! DEFINITION. Keel and the rigger die: the operations their commands share (R13 to R17, R105 to R147). -/

namespace Sys2Proof.Machine

/-! ### Keel's visible state -/

/-- STATUS.STATE (R118). -/
def keelState (s : State) : Nat := s.fld (Reg.STATUS Page.KEEL) 11 8

def keelLocked (s : State) : Bool := s.bit (Reg.STATUS Page.KEEL) 12
def estValid (s : State) : Bool := s.bit (Reg.STATUS Page.KEEL) 14

def modKeel (f : Keel → Keel) (s : State) : State := { s with keel := f s.keel }
def modRigger (f : Rigger → Rigger) (s : State) : State := { s with rigger := f s.rigger }

/-- Keel's drive word turns the spindle bridge on or off (R13). -/
def driveSpindle (on : Bool) (s : State) : State := modRigger (fun r => { r with keelSlot := { r.keelSlot with on := on } }) s

/-- The spindle bridge is driven in this state (R118): neither STOPPED nor COAST. -/
def drivesBridge (st : Nat) : Bool := !(st == 0 || st == 8)

/-- Braking or generator states, in which CHOP_ENGAGE is raised once per episode (R147). -/
def episodeState (st : Nat) : Bool := st == 5 || st == 6 || st == 7

/-- Keel enters a state: STATE and GEN follow, the bridge is on or off as the state says, an episode begins afresh. A change
is a trace trigger, and leaving RUN ends an injection (R147, R215, R222; log entry 161). -/
def enterKeelState (st : Nat) (s : State) : State :=
  let was := keelState s
  let s0 := (s.setFld (Reg.STATUS Page.KEEL) 11 8 st).setBit (Reg.STATUS Page.KEEL) 15 (st == 7)
  let s1 := if was = st then s0
    else trTrigger Page.KEEL 7 false (if was = 3 then tuneTrip Page.KEEL 3 0 s0 else s0)
  driveSpindle (drivesBridge st)
    (modRigger (fun r => { r with chopSaid := if episodeState st && was != st then false else r.chopSaid }) s1)

/-- SPINDLE_LOCKED deasserts, with its event (R117), a trace trigger (R215); writes are cut and reads marked (R30, R32). -/
def keelUnlock (s : State) : State :=
  let s1 := modKeel (fun k => { k with lockRun := 0 }) s
  if keelLocked s then
    cutAll 2 <| markAllReads <| trTrigger Page.KEEL 3 false
      (raise Page.KEEL 0 0 0 { p0 := s.reg Reg.KEEL.SPEED } (s1.setBit (Reg.STATUS Page.KEEL) 12 false))
  else s1

/-- PHASE_LOCKED takes value `b`, with its event at a change (R128). -/
def setPhaseLock (b : Bool) (s : State) : State :=
  if s.bit (Reg.STATUS Page.KEEL) 13 = b then s
  else raise Page.KEEL 1 0 (if b then 1 else 0) {} (s.setBit (Reg.STATUS Page.KEEL) 13 b)

/-- The speed of `r` rpm in units of 2^-16 rpm. -/
def rpmUnits (r : Nat) : Nat := r * 65536

/-- Keel is able to act: powered, clocked and not in machine check. -/
def keelAlive (s : State) : Bool := blockAlive s Page.KEEL

/-- Present speed, 2^-16 rpm. -/
def keelSpeed (s : State) : Nat := (s.reg Reg.KEEL.SPEED).toNat

/-- The synthesiser's bit rate: RATE × KEEL.SPEED ÷ ZT_RPM (R228). -/
def setRate (o : Nat) (s : State) : State :=
  modOar o (fun r => { r with bitRate := mkRat (zRate r.settings * keelSpeed s) (65536 * zoneHeaderRpm s (oarAct o)) }) s

/-- At each W_n the synthesisers of the used slots of actuator `a` follow the spindle (R228). -/
def followSpindle (a : Nat) (s : State) : State :=
  (List.range 4).foldl (fun t k => if (rudSlot t a k).used then setRate (4 * a + k) t else t) s

/-- One revolution in 1/4,096 wedge. -/
def revUnits : Nat := 640 * 4096

/-- Angle after `ns` nanoseconds at the present speed, in 1/4,096 wedge. -/
def angleMoved (s : State) (ns : Nat) : Nat := keelSpeed s * ns / 1500000000

/-! ### Bus thresholds (R136) -/

/-- The three threshold words satisfy R136. -/
def threshValid (regen chop crit : Nat) : Bool :=
  decide (12600 ≤ regen) && decide (regen + 200 ≤ chop) && decide (chop + 200 ≤ crit) && decide (crit ≤ 16500)

/-- The thresholds applied, in mV: V_REGEN_LIMIT, V_CHOP_ON, V_CRIT (R136). -/
def thresholds (s : State) : Nat × Nat × Nat :=
  let a := s.critFld 7 15 0; let b := s.critFld 8 15 0; let c := s.critFld 9 15 0
  if threshValid a b c then (a, b, c) else (13200, 13600, 15000)

def vRegen (s : State) : Nat := (thresholds s).1
def vChopOn (s : State) : Nat := (thresholds s).2.1
def vCrit (s : State) : Nat := (thresholds s).2.2

/-- The bus as the DRV page mirrors it, mV. -/
def busMv (s : State) : Nat := s.fld Reg.DRV.BUS_V 15 0

def vcritLatched (s : State) : Bool := s.bit Reg.DRV.BRIDGE_STAT 3
def chopFaulty (s : State) : Bool := s.bit Reg.DRV.CHOP_STATUS 1

/-- A write of threshold word `n` (7, 8 or 9): THRESH_INVALID at each write that leaves the three invalid (R136). -/
def threshEffect (n : Nat) (v : Word) (s : State) : State :=
  let s1 := s.critPut n v
  if threshValid (s1.critFld 7 15 0) (s1.critFld 8 15 0) (s1.critFld 9 15 0) then s1
  else raise Page.DRV 6 5 0 ⟨s1.critVal 7, s1.critVal 8, s1.critVal 9⟩ s1

/-! ### The effective target (R120, R125 to R127) -/

/-- The source in force: SPD_SRC while REF_CFG.EN is 1, else the register (R125). -/
def refSource (s : State) : Nat := if s.bit Reg.KEEL.REF_CFG 0 then s.critFld 6 1 0 else 0

/-- The correction that steers the phase error to zero: its law is free, its sense is that of the error, and while PHASE_LOCKED stands
it keeps within 1 ppm (R128; log entry 138). -/
def steerOf (locked : Bool) (err : Int) : Int :=
  let n := if locked then min 1000 (Config.phaseSteer err.natAbs) else Config.phaseSteer err.natAbs
  if err = 0 then 0 else if err < 0 then -(n : Int) else n

/-- A speed with a trim of `ppb` parts per thousand million. -/
def trimmed (t : Nat) (ppb : Int) : Nat := ((t : Int) + (t : Int) * ppb / 1000000000).toNat

/-- The effective target, 2^-16 rpm. -/
def effTarget (s : State) : Nat :=
  if keelState s = 5 then s.keel.decelTarget
  else if refSource s = 0 then s.keel.target
  else if refSource s = 1 then s.keel.refSpeed.elim s.keel.target fun v => trimmed v s.keel.steerPpb
  else trimmed s.keel.target s.keel.trimPpb

/-- The trim moves toward the wanted one at no more than 100 ppm per second (R127): 1 part in 10^9 each 10 µs. -/
def stepTrim (s : State) : State :=
  let steps := (s.time - s.keel.trimTime) / 10000
  let d := s.keel.wantPpb - s.keel.trimPpb
  modKeel (fun k => { k with trimPpb := k.trimPpb + clampInt (-(steps : Int)) (steps : Int) d
                             trimTime := k.trimTime + steps * 10000 }) s

/-- The nominal target written is taken into force when RUN resumes (R120, R141). -/
def applyTarget (s : State) : State := modKeel (fun k => { k with target := (s.critVal 5).toNat }) s

/-! ### Commands (R119) -/

/-- CMD_REFUSED (R146). -/
def keelRefuse (code : Nat) (s : State) : State := raise Page.KEEL 9 5 code {} s

/-- The motor parameters of R108 are given. -/
def motorReady (s : State) : Bool :=
  s.fld Reg.KEEL.MOTOR_R 15 0 != 0 && s.fld Reg.KEEL.MOTOR_L 15 0 != 0 && s.fld Reg.KEEL.MOTOR_FLUX 15 0 != 0
    && decide (1 ≤ s.fld Reg.KEEL.MOTOR_FLUX 19 16) && decide (s.fld Reg.KEEL.MOTOR_FLUX 19 16 ≤ 8)
    && s.keel.inertiaSet

/-- A write of KEEL.INERTIA; once written it counts as given (R108). -/
def inertiaEffect (v : Word) (s : State) : State := modKeel (fun k => { k with inertiaSet := true }) (storeWrite Reg.KEEL.INERTIA v s)

/-- The next frame to the rigger die asks for something more (R13, R14). -/
def askRigger (f : RigAsk → RigAsk) : State → State := modRigger fun r => { r with asked := f r.asked }

/-- The chopper self-test is asked for; `chopMa` is what it will sense (R119, R144). -/
def askChopTest (chopMa : Nat) : State → State := askRigger fun a => { a with test := some chopMa }

/-- A catch: a re-acquisition without the zero-current phase, then RUN (R119). -/
def startCatch (s : State) : State :=
  driveSpindle false <| enterKeelState 4 (modKeel (fun k =>
    { k with reacqStart := s.time, reacqStep := 3, reacqCount := 0, reacqAttempt := 1, goodDeg := 0, returnState := 3 }) s)

/-- RUN (R119, R121): refusals in the order state or latch, target, parameters; then the spin-up sequence or a catch. -/
def keelRunEffect (rotorRpm chopMa : Nat) (s : State) : State :=
  let st := keelState s
  if (st ≠ 0 ∧ st ≠ 8) ∨ vcritLatched s then keelRefuse 4 s
  else if s.critVal 5 = 0#32 then keelRefuse 3 s
  else if !motorReady s then keelRefuse 2 s
  else
    let s1 := applyTarget (modKeel (fun k => { k with runStart := some s.time, returns := 0, restartPending := false
                                                      exhausted := false, stopKept := false, failRun := 0 }) s)
    if st = 8 then startCatch s1
    else if busMv s < 10800 then
      lasting Page.KEEL 12 3 {} (modKeel (fun k => { k with runStart := none }) s1)
    else
      let s2 := modKeel (fun k => { k with wedgeOffset := none, raw := none }) s1
      if 300 ≤ rotorRpm then startCatch s2
      else enterKeelState 1 (modKeel (fun k => { k with pulses := 0 }) (askChopTest chopMa s2))

/-- Short braking begins, with its event (R132, R134, R130). -/
def beginShortBrake (code : Nat) (s : State) : State := raise Page.KEEL 17 0 code {} (enterKeelState 6 s)

/-- The controlled deceleration of STOP (R132); with the chopper faulty, short braking from its start (R134). -/
def doStop (s : State) : State :=
  let s1 := modKeel (fun k => { k with runStart := none, restartPending := false, decelTarget := keelSpeed s
                                       busLimitSaid := false, stopKept := false, reacqStep := 0, genPending := false
                                       regenPct := 100 }) s
  if chopFaulty s then beginShortBrake 2 s1 else enterKeelState 5 s1

def keelStopEffect (s : State) : State :=
  if (keelState s) ∈ [1, 2, 3, 4, 7] then doStop s else keelRefuse 4 s

/-- The power manager's STOP, where Keel can take it (R33, R461, R480). -/
def keelHalts (s : State) : State := if keelAlive s ∧ (keelState s) ∈ [1, 2, 3, 4, 7] then keelStopEffect s else s

/-- Keel coasts: bridge off, COAST; a spin-up and its restart are over. -/
def enterCoast (s : State) : State :=
  keelUnlock (enterKeelState 8 (modKeel (fun k =>
    { k with reacqStep := 0, genPending := false, runStart := none, restartPending := false }) s))

def keelCoastEffect (s : State) : State :=
  if keelState s = 0 then keelRefuse 4 s else enterCoast s

/-- RUN resumes with the nominal target in force; a target of 0 means stop (R120, R141). -/
def resumeRun (s : State) : State :=
  let s1 := enterKeelState 3 (applyTarget s)
  if s1.keel.target = 0 then doStop s1 else s1

def chopTestEffect (chopMa : Nat) (s : State) : State :=
  if (keelState s = 0 ∨ keelState s = 3) ∧ !vcritLatched s then askChopTest chopMa s else keelRefuse 4 s

def keelResumeEffect (s : State) : State :=
  let st := keelState s
  if (st ≠ 7 ∧ st ≠ 8) ∨ vcritLatched s then keelRefuse 4 s
  else if s.critVal 5 = 0#32 then keelRefuse 3 s
  else if st = 8 then startCatch (applyTarget (modKeel (fun k => { k with restartPending := false, exhausted := false }) s))
  else resumeRun s

/-- A write of KEEL.CMD, by its code (R119); Keel in machine check takes none (R74). -/
def keelCmdEffect (v : Word) (rotorRpm chopMa : Nat) (s : State) : State :=
  if !keelAlive s then s else
  match fld v 3 0 with
  | 1 => keelRunEffect rotorRpm chopMa s
  | 2 => keelStopEffect s
  | 3 => keelCoastEffect s
  | 4 => chopTestEffect chopMa s
  | 5 => keelResumeEffect s
  | _ => keelRefuse 1 s

/-- A write of SPD_TARGET (critical word 5, R120): out of range it is refused with code 3 and the target stays. -/
def spdTargetEffect (v : Word) (s : State) : State :=
  let n := v.toNat
  if n = 0 then
    let s1 := tuneTrip Page.KEEL 4 0 (s.critPut 5 v)
    if keelState s = 3 ∧ keelAlive s then doStop s1 else s1
  else if n < rpmUnits 1200 ∨ rpmUnits 7800 < n then keelRefuse 3 s
  else
    let s1 := tuneTrip Page.KEEL 4 0 (s.critPut 5 v)
    if keelState s = 4 ∨ keelState s = 7 ∨ !keelAlive s then s1
    else keelUnlock (applyTarget s1)

/-- The reference starts afresh: nothing has been heard of it from now on. -/
def freshReference (s : State) : State :=
  setPhaseLock false ((modKeel (fun k =>
    { k with refSpeed := none, lastEdge := some s.time, phaseRun := 0, steerPpb := 0, trimTime := s.time }) s).setBit (Reg.STATUS Page.KEEL) 22 false)

/-- The effective target has changed: in RUN the spindle qualifies its lock again (R117, R141). -/
def requalify (s : State) : State := if keelState s = 3 then keelUnlock s else s

/-- EN clears and Keel follows SPD_TARGET (R125). -/
def dropReference (s : State) : State := requalify (freshReference (s.setBit Reg.KEEL.REF_CFG 0 false))

/-- The source needs CT3 (R125). -/
def usesCt3 (src : Nat) : Bool := src == 1 || src == 2

/-- EN may not stand: NOT_HELD for resource `r`, and a reference that was running ends (R52; log entry 140). -/
def refNotHeld (r : Nat) (req : Requester) (was : Bool) (s : State) : State :=
  notHeld r 1 req (if was then dropReference s else s.setBit Reg.KEEL.REF_CFG 0 false)

/-- A write of REF_CFG (R125): EN is taken only when the writer holds what the source needs. -/
def refCfgEffect (req : Requester) (v : Word) (s : State) : State :=
  let was := s.bit Reg.KEEL.REF_CFG 0
  let s1 := storeWrite Reg.KEEL.REF_CFG v s
  if !bit v 0 then (if was then dropReference s1 else s1)
  else if !holds req 0 1 s then refNotHeld 0 req was s1
  else if usesCt3 (s.critFld 6 1 0) ∧ !holds req 1 1 s then refNotHeld 1 req was s1
  else if was then s1 else requalify (freshReference s1)

/-- A write of SPD_SRC (R125): an injection trips, the reference starts afresh, and Keel requalifies its lock (R117, R222). A source
that needs CT3 is not followed while the writer does not hold it (R49, R52). -/
def spdSrcEffect (req : Requester) (v : Word) (s : State) : State :=
  let s1 := requalify (freshReference (tuneTrip Page.KEEL 4 0 (s.critPut 6 (v &&& 3#32))))
  if s1.bit Reg.KEEL.REF_CFG 0 && usesCt3 (fld v 1 0) && !holds req 1 1 s1 then refNotHeld 1 req true s1 else s1

/-- A write of CS_CFG: ATB_VIEW other than 0 needs resource 7 for function 2 (R142, R52). -/
def csCfgEffect (req : Requester) (v : Word) (s : State) : State :=
  let s1 := storeWrite Reg.KEEL.CS_CFG v s
  if s1.fld Reg.KEEL.CS_CFG 18 16 = 0 ∨ holds req 7 2 s then s1
  else notHeld 7 2 req (s1.setFld Reg.KEEL.CS_CFG 18 16 (s.fld Reg.KEEL.CS_CFG 18 16))

/-- A write of PA_CFG: MI_OFF at or above MI_ON stores MI_ON − 5 (R142). -/
def paCfgEffect (v : Word) (s : State) : State :=
  let s1 := storeWrite Reg.KEEL.PA_CFG v s
  let on := s1.fld Reg.KEEL.PA_CFG 6 0
  if on ≤ s1.fld Reg.KEEL.PA_CFG 14 8 then s1.setFld Reg.KEEL.PA_CFG 14 8 (on - 5) else s1

/-! ### One PWM period -/

/-- An entry in its place by RPM; of equal ones the earlier goes first. -/
def paInsert (e : Nat × Nat) : List (Nat × Nat) → List (Nat × Nat)
  | [] => [e]
  | x :: xs => if e.1 ≤ x.1 then e :: x :: xs else x :: paInsert e xs

/-- The entries of PA_TABLE in use, those before the first whose RPM is 0, in ascending order of RPM (R123). -/
def paEntries (s : State) : List (Nat × Nat) :=
  (((List.range 16).map fun n =>
    (s.fld (Reg.KEEL.PA_TABLE n) 15 0, min 960 (s.fld (Reg.KEEL.PA_TABLE n) 27 16))).takeWhile (fun e => e.1 != 0)).foldr paInsert []

/-- Advance at `rpm` by linear interpolation, 1/16 electrical degree (R123). It and the speed in rpm are rounded down (log entry 141). -/
def paAdvance : List (Nat × Nat) → Nat → Nat
  | [], _ => 0
  | [e], _ => e.2
  | e :: f :: es, rpm =>
    if rpm ≤ e.1 then e.2
    else if rpm < f.1 then
      ((e.2 : Int) + ((f.2 : Int) - e.2) * ((rpm : Int) - e.1) / ((f.1 : Int) - e.1)).toNat
    else paAdvance (f :: es) rpm

/-- Phase advance over one period (R124): engaged from MI_ON, removed below MI_OFF and outside RUN, moved by at most RAMP per millisecond. -/
def stepAdvance (s : State) : State :=
  let index := s.keel.modPct
  let on := if keelState s ≠ 3 then false
            else if s.fld Reg.KEEL.PA_CFG 6 0 ≤ index then true
            else if index < s.fld Reg.KEEL.PA_CFG 14 8 then false else s.keel.advanceOn
  let want := if on then paAdvance (paEntries s) (keelSpeed s / 65536) else 0
  let freq := s.fld Reg.KEEL.PWM_CFG 6 0
  let due := s.keel.advanceRest + s.fld Reg.KEEL.PA_CFG 23 16 * 16
  let have_ := s.keel.advance
  let next := if have_ < want then min want (have_ + due / freq) else max want (have_ - due / freq)
  (modKeel (fun k => { k with advanceOn := on, advance := next, advanceRest := if next = want then 0 else due % freq }) s).setBit
    (Reg.STATUS Page.KEEL) 18 (next != 0)

/-- The bus watch of R132: the share of regenerative current allowed, percent. -/
def regenAllowed (s : State) : Nat :=
  let v := busMv s; let lim := vRegen s
  if lim ≤ v then 0 else if lim - 200 < v then (lim - v) / 2 else 100

/-- DECEL over one period (R132): the target falls, and BUS_LIMIT is raised at the first reduction of each stop. -/
def stepDecel (s : State) : State :=
  let per := s.fld Reg.KEEL.PWM_CFG 6 0 * 1000
  let due := s.keel.fallRest + s.fld Reg.KEEL.DECEL_CFG 15 0 * 65536
  let pct := regenAllowed s
  let s1 := modKeel (fun k => { k with decelTarget := k.decelTarget - due / per, fallRest := due % per, regenPct := pct
                                       busLimitSaid := k.busLimitSaid || decide (pct < 100) }) s
  if pct < 100 ∧ !s.keel.busLimitSaid then raise Page.KEEL 16 0 0 {} s1 else s1

/-- Keel enters GENERATOR (R137). -/
def enterGenerator (s : State) : State :=
  raise Page.KEEL 13 0 0 {} (enterKeelState 7 (modKeel (fun k =>
    { k with genPending := false, regenPct := 100, runStart := none, restartPending := false }) s))

/-- The steps of R129 over one period; in the period of step 5 a pending PWR_FAIL takes Keel to GENERATOR (R137). -/
def stepReacq (p : PwmSample) (s : State) : State :=
  let k := s.keel
  let small := decide (p.uMa.natAbs < 50) && decide (p.vMa.natAbs < 50)
  if k.reacqStep = 1 then modKeel (fun k => { k with reacqStep := 2, reacqCount := 0 }) s
  else if k.reacqStep = 2 then
    if small || decide (3 ≤ k.reacqCount) then
      driveSpindle false (modKeel (fun k => { k with reacqStep := 3, reacqCount := 0 }) s)
    else modKeel (fun k => { k with reacqCount := k.reacqCount + 1 }) s
  else if k.reacqStep = 3 then
    if 1 ≤ k.reacqCount then modKeel (fun k => { k with reacqStep := 4, reacqCount := 0 }) s
    else modKeel (fun k => { k with reacqCount := k.reacqCount + 1 }) s
  else if k.reacqStep = 4 then
    let s1 := driveSpindle true (modKeel (fun k => { k with reacqStep := 5, goodDeg := 0 }) s)
    if k.genPending then enterGenerator (modKeel (fun k => { k with returnState := 7 }) s1) else s1
  else
    modKeel (fun k => { k with goodDeg := if s.fld Reg.KEEL.OBS_CFG 11 0 < p.residualMa then 0 else k.goodDeg + p.periodDegE }) s

/-- Current-sensor comparison over one period (R111). -/
def stepCurrentSense (p : PwmSample) (s : State) : State :=
  let tol := s.fld Reg.KEEL.CS_CFG 11 0
  let u := decide (tol < (p.uMa - p.shuntUMa).natAbs); let v := decide (tol < (p.vMa - p.shuntVMa).natAbs)
  if s.fld (Reg.STATUS Page.KEEL) 17 16 ≠ 0 then s
  else if s.keel.csPhase = 0 then
    modKeel (fun k => { k with csBad := if u || v then k.csBad + 1 else 0 }) s
  else if s.keel.csPhase = 1 then
    if 3 ≤ s.keel.csCount then modKeel (fun k => { k with csPhase := 2, csCount := 0, csU := true, csV := true }) s
    else modKeel (fun k => { k with csCount := k.csCount + 1 }) s
  else modKeel (fun k => { k with csCount := k.csCount + 1, csU := k.csU && u, csV := k.csV && v }) s

/-- The lock conditions over one period (R114, R117). -/
def stepLock (s : State) : State :=
  let e := effTarget s
  let v := keelSpeed s
  let off := if v < e then e - v else v - e
  let ok := estValid s && decide (e ≠ 0) && decide (off * 1000000 ≤ min 10000 (s.fld Reg.KEEL.LOCK_CFG 13 0) * e)
  if ok then modKeel (fun k => { k with lockRun := satAdd 65535 k.lockRun 1 }) s else keelUnlock s

/-- A return to step 3 of the spin-up, or after the third one SPINUP_FAIL with code 2 and STOPPED (R121, R131; log entry 142). -/
def spinupReturn (back : State → State) (s : State) : State :=
  if 3 ≤ s.keel.returns then lasting Page.KEEL 12 2 {} (enterKeelState 0 (modKeel (fun k => { k with runStart := none }) s))
  else back (modKeel (fun k => { k with returns := k.returns + 1 }) s)

/-- Step 3 again: DETECT from its first pulse. -/
def detectAgain (s : State) : State := enterKeelState 1 (modKeel (fun k => { k with pulses := 0, restartPending := false }) s)

/-- DETECT over one period (R121): after six pulses the rotor's angle is known and OPEN_LOOP begins; one that is not found counts as a
return to this step (log entry 142). -/
def stepDetect (p : PwmSample) (s : State) : State :=
  match p.pulse with
  | none => s
  | some found =>
    if s.keel.pulses < 5 then modKeel (fun k => { k with pulses := k.pulses + 1 }) s
    else match found with
      | some deg => enterKeelState 2 (modKeel (fun k => { k with rotorAngle := deg % 360, openStart := s.time, handoverRun := 0, fieldRpm := 0 }) s)
      | none => spinupReturn detectAgain s

/-- OPEN_LOOP over one period (R121): the field turns up to OPEN_LOOP_RPM, and the periods within RESID_MA are counted. -/
def stepOpenLoop (p : PwmSample) (s : State) : State :=
  modKeel (fun k => { k with fieldRpm := min (s.fld Reg.KEEL.SPINUP_CFG2 11 0) p.ask.fieldRpm
                             handoverRun := if s.fld Reg.KEEL.OBS_CFG 11 0 < p.residualMa then 0 else k.handoverRun + 1 }) s

/-- The work of one period by state: the spin-up, re-acquisition, braking, the generator's bus watch, coasting to rest and the restart of
R131. -/
def stepByState (p : PwmSample) (s : State) : State :=
  let st := keelState s
  if st = 1 then stepDetect p s
  else if st = 2 then stepOpenLoop p s
  else if st = 4 then stepReacq p s
  else if st = 5 then stepDecel s
  else if st = 7 then
    let s1 := modKeel (fun k => { k with regenPct := if chopFaulty s then regenAllowed s else 100 }) s
    if s1.keel.reacqStep = 5 then stepReacq p s1 else s1
  else if st = 8 ∧ keelSpeed s < rpmUnits 30 then
    if s.keel.restartPending then detectAgain s
    else if s.keel.exhausted then s else enterKeelState 0 s
  else s

/-! ### The drive of one period (R109, R110, R112, R113, R134, R137) -/

/-- Limit of the phase current, mA: SHORT_ILIM_MA in short braking, else PHASE_ILIM_MA. -/
def phaseLimit (s : State) : Nat :=
  if keelState s = 6 then s.fld Reg.KEEL.DECEL_CFG2 15 0 else s.fld Reg.KEEL.SPINUP_CFG 31 16

/-- Limit of the modulation index, percent: 90 on shunt reconstruction (R112). -/
def modLimit (s : State) : Nat := if s.fld (Reg.STATUS Page.KEEL) 17 16 = 1 then 90 else 100

/-- What an injection adds at Keel's summing point `pt`: q-axis and d-axis current reference in mA, speed reference in ppm (R218). -/
def keelInjected (s : State) (pt : Nat) : Int :=
  injectedAt s Page.KEEL pt 0 (if pt = 3 then 10000 else s.fld Reg.KEEL.SPINUP_CFG 31 16)

/-- Torque current wanted before the limits: none while the rotor is re-acquired, PHASE_ILIM_MA for the forced field, and in GENERATOR no
more regeneration than holds the bus at V_GEN_SET_MV (R121, R129, R137; log entry 143). -/
def wantedIq (p : PwmSample) (s : State) : Int :=
  let st := keelState s
  if st = 4 ∧ s.keel.reacqStep < 5 then 0
  else if st = 2 then phaseLimit s
  else if st = 7 then
    if s.fld Reg.KEEL.GEN_CFG 15 0 ≤ busMv s then min 0 (max p.ask.iqMa s.keel.iqRef) else min 0 (min p.ask.iqMa s.keel.iqRef)
  else p.ask.iqMa + keelInjected s 1

/-- The supply limit: a motoring current is cut in proportion while the supply current exceeds SUPPLY_ILIM_MA (R113; log entry 143). -/
def supplyLimited (p : PwmSample) (s : State) (iq : Int) : Int :=
  let i := if s.fld (Reg.STATUS Page.KEEL) 17 16 = 2 then p.inlineMa else p.supplyMa
  let lim := s.fld Reg.KEEL.SPINUP_CFG 15 0
  if lim < i ∧ 0 < iq then min iq (max 0 s.keel.iqRef * lim / i) else iq

/-- Share of regenerative current that is allowed now, percent: the bus watch's in DECEL and GENERATOR; elsewhere none while the chopper is
faulty (R132, R134; log entry 160). -/
def regenShare (s : State) : Nat := if keelState s = 5 ∨ keelState s = 7 then s.keel.regenPct else if chopFaulty s then 0 else 100

/-- The three outputs that are saturated: modulation index, torque current, regenerative torque (R110). -/
def saturated (p : PwmSample) (s : State) : Bool × Bool × Bool :=
  if !drivesBridge (keelState s) then (false, false, false)
  else
    let iq := wantedIq p s
    (decide (modLimit s ≤ p.ask.modPct), decide (phaseLimit s < iq.natAbs) || supplyLimited p s iq != iq, regenShare s == 0)

/-- The torque current in force: the wanted one under the limits of supply and phase current, a regenerative one then reduced in the
proportion that the bus watch allows (R113, R132). -/
def limitedIq (p : PwmSample) (s : State) : Int :=
  let lim : Int := phaseLimit s
  let iq := clampInt (-lim) lim (supplyLimited p s (wantedIq p s))
  if iq < 0 then -(-iq * regenShare s / 100) else iq

/-- The duty word reaches the rigger die in time (R109). -/
def dutyArrives (p : PwmSample) (s : State) : Bool := p.delivered && linkUp s

/-- The drive word of one period, and the integrators, each held while its output is saturated or the word is missed (R109, R110). -/
def stepDrive (p : PwmSample) (s : State) : State :=
  if !drivesBridge (keelState s) then modKeel (fun k => { k with iqRef := 0, idRef := 0, modPct := 0 }) s
  else
    let (m, i, r) := saturated p s
    let moved := dutyArrives p s
    let s1 := modKeel (fun k =>
      { k with modPct := min (modLimit s) p.ask.modPct, iqRef := limitedIq p s, idRef := p.ask.idMa + keelInjected s 2
               modInt := if moved && !m then p.ask.modInt else k.modInt
               iqInt := if moved && !i then p.ask.iqInt else k.iqInt
               regenInt := if moved && !r then p.ask.regenInt else k.regenInt }) s
    modRigger (fun d => { d with keelSlot := { d.keelSlot with limitMa := phaseLimit s
                                                               duty := if moved then p.ask.duty else d.keelSlot.duty } }) s1

/-- SATURATION at a change of STATUS.SAT (R110). -/
def stepSat (sat : Bool) (s : State) : State :=
  if s.bit (Reg.STATUS Page.KEEL) 19 = sat then s
  else
    let s1 := raise Page.KEEL 11 0 (if sat then 1 else 0) {} (s.setBit (Reg.STATUS Page.KEEL) 19 sat)
    if sat then trTrigger Page.KEEL 6 false s1 else s1

/-- Speed error against the effective target, ppm. -/
def speedErrorPpm (s : State) : Int :=
  ((keelSpeed s : Int) - effTarget s) * 1000000 / (effTarget s : Int)

/-- The speed reference in ppm off SPD_TARGET (log entry 166). -/
def speedRefPpm (s : State) : Int :=
  let t : Int := (s.critVal 5).toNat
  if t = 0 then 0 else ((effTarget s : Int) - t) * 1000000 / t

/-- The signal of the summing point before the injection (R213). -/
def keelSum (s : State) (p : PwmSample) : Int :=
  let pt := s.fld (Reg.TUNE.INJ_CFG Page.KEEL) 2 0
  if pt = 1 then p.ask.iqMa else if pt = 2 then p.ask.idMa else if pt = 3 then speedRefPpm s else 0

/-- Node values of Keel (R213). -/
def keelNode (s : State) (p : PwmSample) (c : Nat) : Int :=
  if c = 1 then speedErrorPpm s - keelInjected s 3
  else if c = 2 then s.keel.iqRef
  else if c = 3 then signedOf 16 (s.fld Reg.KEEL.CURRENT 31 16)
  else if c = 4 then s.keel.idRef
  else if c = 5 then signedOf 16 (s.fld Reg.KEEL.CURRENT 15 0)
  else if c = 6 then p.uMa
  else if c = 7 then p.vMa
  else if c = 8 then p.shuntUMa
  else if c = 9 then busMv s
  else if c = 0x0A then s.keel.residual
  else if c = 0x0B then p.angle
  else if c = 0x0C then s.keel.modPct * 65536 / 100
  else if c = 0x0D then (s.reg Reg.KEEL.PHASE_ERR).toInt
  else if trMode s Page.KEEL = 1 then 0
  else if c = 0x1E then keelSum s p
  else if c = 0x1F then keelSum s p + keelInjected s (s.fld (Reg.TUNE.INJ_CFG Page.KEEL) 2 0)
  else 0

/-- The tuning block at a PWM period: recording and its guards (R212, R222). -/
def keelTune (p : PwmSample) (s : State) : State :=
  let s1 := tuneRecord Page.KEEL true (keelNode s p) s
  let e := speedErrorPpm s1
  if !guardsHold s1 Page.KEEL true then s1
  else
    let s2 := if s1.fld (Reg.TUNE.GUARD Page.KEEL) 13 0 < e.natAbs then tuneTrip Page.KEEL 1 e s1 else s1
    updateOver Page.KEEL (guardSat Page.KEEL [s2.bit (Reg.STATUS Page.KEEL) 19] s2)

/-- The period with the currents that have reached the core die: those the rigger die last sent, with the link down (R13, R109). -/
def heardSample (s : State) (p : PwmSample) : PwmSample :=
  if linkUp s then p
  else
    let c := s.keel.currents
    { p with uMa := c.u, vMa := c.v, shuntUMa := c.shuntU, shuntVMa := c.shuntV, supplyMa := c.supply, inlineMa := c.inline, pulse := none }

/-- One PWM period (R109 to R117). EST_VALID is 0 in the states in which no estimate is followed, re-acquisition included (R114; log
entry 144). -/
def pwmStep (sample : PwmSample) (s : State) : State :=
  let p := heardSample s sample
  let above := decide (s.fld Reg.KEEL.OBS_CFG 11 0 < p.residualMa)
  let s1 := if dutyArrives p s || !drivesBridge (keelState s) then s
            else raise Page.KEEL 10 0 0 {} (s.count Reg.KEEL.MISSED_COUNT 1)
  let s2 := ((s1.setReg Reg.KEEL.SPEED p.speed).setFld Reg.KEEL.CURRENT 15 0 (toField 16 p.idMa)).setFld
    Reg.KEEL.CURRENT 31 16 (toField 16 p.iqMa)
  let s3 := s2.setBit (Reg.STATUS Page.KEEL) 14 (!above && keelState s2 ∈ [3, 5, 7, 8])
  let s4 := modKeel (fun k => { k with overRun := if above then k.overRun + 1 else 0, residual := p.residualMa
                                       currents := ⟨p.uMa, p.vMa, p.shuntUMa, p.shuntVMa, p.supplyMa, p.inlineMa⟩ }) s3
  let s5 := if keelLocked s4 then s4.setFld Reg.KEEL.DRAG_MW 15 0 p.dragMw else s4
  let s6 := tuneGenerate Page.KEEL true (stepCurrentSense p (stepByState p s5))
  let (m, i, r) := saturated p s6
  keelTune p (stepLock (stepTrim (stepSat (m || i || r) (stepAdvance (stepDrive p s6)))))

/-! ### Losing the rotor (R129 to R131) -/

/-- One electrical period at the present speed, ns. -/
def electricalNs (s : State) : Nat :=
  60 * 1000000000 * 65536 / (keelSpeed s * s.fld Reg.KEEL.MOTOR_FLUX 19 16)

/-- ESTIMATE_LOST (R146), a trace trigger (R215). -/
def estimateLostEvent (s : State) : State :=
  trTrigger Page.KEEL 4 false <| raise Page.KEEL 2 0 0 ⟨s.reg Reg.KEEL.SPEED, word s.keel.residual, word (keelState s)⟩ s

/-- A re-acquisition attempt starts at step 1. -/
def startReacq (ret attempt : Nat) (s : State) : State :=
  enterKeelState 4 (modKeel (fun k => { k with reacqStart := s.time, reacqStep := 1, reacqCount := 0
                                               reacqAttempt := attempt, goodDeg := 0, returnState := ret, overRun := 0 }) s)

/-- The start over of R131: zero current, coast to below 30 rpm, then step 3, counted toward the three returns of R121. -/
def restartSpinup (s : State) : State :=
  spinupReturn (fun t => enterKeelState 8 (modKeel (fun k => { k with restartPending := true, overRun := 0 }) t)) s

/-- STATUS.REACQ_FAILS: the higher of the failures in the last 100 ms and those in a row (R130). -/
def reacqFails (s : State) : Nat :=
  max (s.keel.failTimes.filter (fun t => decide (s.time < t + 100000001))).length s.keel.failRun

/-! ### Bridge frames (R15, R16) -/

/-- The DRV page shows the rigger die as a good frame to the core die brings it (R14, R143): BUS_V in steps of 6 mV. -/
def mirrorRigger (m : RiggerMirror) (s : State) : State :=
  let r := s.rigger
  let s1 := (s.setFld Reg.DRV.BUS_V 15 0 (m.busMv / 6 * 6)).setFld Reg.DRV.RIG_TEMP 15 0 (toField 16 m.tempDeciC)
  let s2 := s1.setReg Reg.DRV.CHOP_STATUS (word (ofBool r.chopOn + 2 * ofBool r.chopFault + 4 * r.chopKind + 16 * ofBool r.chopTested
    + 65536 * (m.chopMa % 65536)))
  s2.setFld Reg.DRV.BRIDGE_STAT 15 1 (ofBool r.autonomous + 2 * ofBool r.isoOpen + 4 * ofBool r.vcrit + 128 * r.rigCode)

/-- The thresholds V_CHOP_ON and V_CRIT, I_MIN_MA and HYST that the rigger die applies, mV and mA. -/
def rigChopOn (s : State) : Nat := if linkUp s then vChopOn s else s.rigger.held.chopOnMv
def rigCrit (s : State) : Nat := if linkUp s then vCrit s else s.rigger.held.critMv
def rigIMin (s : State) : Nat := if linkUp s then s.fld Reg.DRV.CHOP_CFG 15 0 else s.rigger.held.iMinMa
def rigHyst (s : State) : Nat := if linkUp s then 10 * s.fld Reg.DRV.CHOP_CFG 23 16 else s.rigger.held.hystMv

/-- The rigger die judges the chopper faulty (R133). -/
def chopFails (kind : Nat) : State → State :=
  modRigger fun r => { r with chopOn := false, chopFault := true, chopKind := kind, faultNew := true }

/-- The chopper self-test (R144): it passes when the sensed current reaches I_MIN_MA with the bus below V_CHOP_ON; a failure
latches FAULT with KIND 3. One started with the bus at or above V_CHOP_ON counts as failed (log entry 139). -/
def chopSelfTest (chopMa bus : Nat) (s : State) : State :=
  if rigIMin s ≤ chopMa ∧ bus < rigChopOn s then modRigger (fun r => { r with chopTested := true }) s else chopFails 3 s

/-- The rigger die does what a frame asks of it, the bus at `bus` (R14, R16, R133, R135, R144). -/
def takeAsked (bus : Nat) (s : State) : State :=
  let a := s.rigger.asked
  let s1 := modRigger (fun r => { r with asked := RigAsk.none
                                         chopFault := r.chopFault && !a.chopClear, chopKind := if a.chopClear then 0 else r.chopKind }) s
  let s2 := match a.test with
    | some ma => chopSelfTest ma bus s1
    | none => s1
  let s3 := if a.resume && s2.rigger.autonomous then modRigger (fun r => { r with autonomous := false, microOn := true, coil := [] }) s2 else s2
  if a.clear then latchCleared (modRigger (fun r => { r with vcrit := false, coilsOn := true }) s3) else s3

/-- A good frame takes the words of the slots to the rigger die's output registers; in the state of R16, and with a bridge off, the
outputs stay (R13, R16, R135). -/
def deliverSlots (s : State) : State :=
  let r := s.rigger
  if r.autonomous then modRigger (fun r => { r with hears := true }) s
  else
    let drive := fun (d : Nat → RudDrive → Int) (m : SMap Int) (n : Nat) =>
      (List.range n).foldl (fun c i => SMap.set (fun _ => 0) c i (d i (rudDrive s (i * 4 / n)))) m
    modRigger (fun r =>
      { r with hears := true, spindleOn := r.keelSlot.on && !r.vcrit, duty := r.keelSlot.duty, limitMa := r.keelSlot.limitMa
               coil := if r.coilsOn then drive (fun _ d => d.coilMa) r.coil 4 else r.coil
               milli := if r.microOn then drive (fun _ d => d.milliMv) r.milli 4 else r.milli
               third := if r.microOn then drive (fun i d => d.third.getD (i % 4) 0) r.third 16 else r.third }) s

/-- The rigger die holds what it last took of the DRV page (R14). -/
def takeHeld (s : State) : State :=
  if linkUp s then
    modRigger (fun r => { r with held := ⟨vRegen s, vChopOn s, vCrit s, s.fld Reg.DRV.CHOP_CFG 15 0, 10 * s.fld Reg.DRV.CHOP_CFG 23 16,
      (List.range 4).map (retractMa s)⟩ }) s
  else s

/-- No good frame flows any more (R143). -/
def linkDown (s : State) : State := (takeHeld s).setBit Reg.DRV.BRIDGE_STAT 0 false

/-- The rigger die as a reset of the core die leaves it: what the core die had for the next frame is gone. -/
def riggerLeft (s : State) : Rigger := { s.rigger with keelSlot := ⟨false, 0#32, 0⟩, rudSlots := [], asked := RigAsk.none }

/-- What the rigger die does alone without frames (R16). -/
def riggerAutonomous (s : State) : State :=
  let s1 := linkDown s
  modRigger (fun r =>
    { r with autonomous := true, hears := false, spindleOn := false, microOn := false, milli := [], third := []
             coil := if r.coilsOn then
                 (List.range 4).foldl (fun c a => SMap.set (fun _ => 0) c a (r.held.retract.getD a 0)) r.coil
               else r.coil })
    ((List.range 4).foldl (fun t a => riggerRetract true a t) s1)

/-- BRIDGE_CTRL (R14, R16, R135): the next frame carries RESUME, which ends the autonomous state, when frames are good; and CLEAR_TRIP, which
clears the latch, with the bus below V_CHOP_ON. -/
def bridgeCtrlEffect (v : Word) (s : State) : State :=
  askRigger (fun a => { a with resume := a.resume || (bit v 0 && linkUp s && s.rigger.hears && s.rigger.autonomous)
                               clear := a.clear || (bit v 1 && decide (busMv s < vChopOn s)) }) s

/-- SOFT_RESET of the DRV page clears the chopper's fault with the bus below V_CHOP_ON (R14, R133). -/
def drvReset (s : State) : State := if busMv s < vChopOn s then askRigger (fun a => { a with chopClear := true }) s else s

/-- Keel acts on what reaches it, unless it is in machine check (R106, R107). -/
def keelDoes (f : State → State) (s : State) : State := s.when (keelAlive s) f

/-- CHOP_ENGAGE as the core die learns of it: once in each stay in DECEL, SHORT_BRAKE or GENERATOR, at every engagement elsewhere (R133, R147;
log entry 161). -/
def chopNews (s : State) : State :=
  if !s.rigger.chopNew then s
  else
    let s1 := modRigger (fun r => { r with chopNew := false, chopSaid := true }) s
    if s.rigger.chopSaid && episodeState (keelState s) then s1 else raise Page.DRV 2 0 0 {} s1

/-- CHOP_FAULT as the core die learns of it; a stop goes on by short braking (R133, R134, R144). -/
def faultNews (s : State) : State :=
  if !s.rigger.faultNew then s
  else
    let s1 := lasting Page.DRV 3 s.rigger.chopKind {} (modRigger (fun r => { r with faultNew := false }) s)
    if keelState s1 = 5 then keelDoes (beginShortBrake 2) s1 else s1

/-- V_CRIT_TRIP as the core die learns of it: COAST, and the retract of loaded heads under cause 6 (R135). -/
def tripNews (s : State) : State :=
  if !s.rigger.tripNew then s
  else retractLoaded 6 (keelDoes enterCoast (lasting Page.DRV 4 0 {} (modRigger (fun r => { r with tripNew := false }) s)))

/-- A frame shows the core die that the rigger die holds the spindle bridge off: under the latch, or in the state of R16, which Keel meets in COAST
whatever it was doing (R16, R106, R141). -/
def offNews (was : Bool) (s : State) : State :=
  let s1 := if s.rigger.autonomous && !was || (s.rigger.autonomous || s.rigger.vcrit) && drivesBridge (keelState s) then keelDoes enterCoast s else s
  if was && !s.rigger.autonomous then bridgeBack s1 else s1

/-- A good frame to the core die: the mirror, and what it tells of (R13, R14, R106). -/
def frameToCore (m : RiggerMirror) (s : State) : State :=
  offNews (s.bit Reg.DRV.BRIDGE_STAT 1) (tripNews (faultNews (chopNews (mirrorRigger m s))))

/-- The input isolation switch opens or closes, with its event (R33, R147, R466). -/
def setIsolation (opened : Bool) (s : State) : State :=
  raise Page.DRV 7 0 (ofBool opened) {} (modRigger (fun r => { r with isoOpen := opened }) s)

/-! ### PWR_FAIL (R137, R141) -/

/-- What PWR_FAIL does to Keel; an injection ends first, with cause 6 (R223). -/
def keelPowerFail (s0 : State) : State :=
  let s := tuneTrip Page.KEEL 6 0 s0
  let st := keelState s
  if !keelAlive s then s
  else if st = 3 then enterGenerator s
  else if st = 5 then enterGenerator (modKeel (fun k => { k with stopKept := true }) s)
  else if st = 8 then
    if estValid s && !s.keel.exhausted && !vcritLatched s then enterGenerator s
    else modKeel (fun k => { k with runStart := none, restartPending := false }) s
  else if st = 4 then
    if s.keel.reacqStep < 5 then modKeel (fun k => { k with genPending := true }) s
    else enterGenerator (modKeel (fun k => { k with returnState := 7 }) s)
  else if st = 1 ∨ st = 2 then enterCoast s
  else s

/-! ### The release of a shared resource (R49, R51) -/

/-- The function of resource `r` that was claimed falls back to the resource's free state: SPDL_REF or CT3 ends the reference that uses
it, a trace buffer its block's trace or injection, ATB1 its selection. -/
def freeResource (r f : Nat) (s : State) : State :=
  if r = 0 ∨ r = 1 then
    if s.bit Reg.KEEL.REF_CFG 0 && f == 1 && (r == 0 || usesCt3 (s.critFld 6 1 0)) then dropReference s else s
  else if r = 7 then (if f = 1 then s.setReg Reg.ATB.ATB1_SEL 0#32 else s.setFld Reg.KEEL.CS_CFG 18 16 0)
  else tuneRelease (if r = 6 then Page.KEEL else Page.RUDDER (r - 2)) s

/-- Resource `r` is released (R51). -/
def releaseResource (r : Nat) (s : State) : State :=
  freeResource r (s.fld (Reg.CLAIM.CLAIM_STATE r) 9 8) (s.setReg (Reg.CLAIM.CLAIM_STATE r) 0#32)

/-- Every resource that one of the requester codes `cs` holds is released, unless the CLAIM page is locked (R51). -/
def releaseHolders (cs : List Nat) (s : State) : State :=
  if pageLocked Page.CLAIM s then s
  else (List.range 8).foldl (fun t r =>
    if t.bit (Reg.CLAIM.CLAIM_STATE r) 31 && cs.contains (t.fld (Reg.CLAIM.CLAIM_STATE r) 5 0) then releaseResource r t
    else t) s

end Sys2Proof.Machine
end

