-- ==== Sys2Proof/Machine/QueueOps.lean ====
section
/-! DEFINITION. The one design of hardware queue (R91 to R104). -/

namespace Sys2Proof.Machine

def hq (s : State) (q : QueueId) : HwQueue := SMap.get (fun _ => HwQueue.reset) s.queues (qIndex q)

def setHq (q : QueueId) (x : HwQueue) (s : State) : State :=
  { s with queues := SMap.set (fun _ => HwQueue.reset) s.queues (qIndex q) x }

def modHq (q : QueueId) (f : HwQueue → HwQueue) (s : State) : State := setHq q (f (hq s q)) s

/-! ### Packets (R93) -/

def pktLen (ws : List Word) : Nat := fld (ws.getD 0 0#32) 3 0 + 1
def pktPrio (ws : List Word) : Nat := fld (ws.getD 0 0#32) 6 4
def pktPoison (ws : List Word) : Bool := bit (ws.getD 0 0#32) 7
def pktType (ws : List Word) : Nat := fld (ws.getD 0 0#32) 15 8
def pktTag (ws : List Word) : Nat := fld (ws.getD 0 0#32) 31 16

/-- A packet header (R93). -/
def pktHeader (len prio : Nat) (poison : Bool) (ty tag : Nat) : Word :=
  word ((len - 1) % 16 + prio % 8 * 16 + (if poison then 128 else 0) + ty % 256 * 256 + tag % 65536 * 65536)

/-! ### What a queue shows -/

def qCount (s : State) (q : QueueId) : Nat := (hq s q).items.length
def qEnabled (s : State) (q : QueueId) : Bool := s.bit (qReg q 0) 16
def qAge (s : State) (q : QueueId) : Nat := s.fld (qReg q 0) 15 0 * 1000

/-- A port holds a partial packet: words written, fewer than its length, and no refusal FULL. -/
def portPartial (x : QPort) : Bool := !x.words.isEmpty && !x.full

def qPartials (x : HwQueue) : List Nat := (x.ports.filter (fun e => portPartial e.2)).map Prod.fst

/-- Q_STATUS (R103). -/
def qStatus (s : State) (q : QueueId) : Word :=
  let x := hq s q
  word (x.items.length % 2048 + (if x.items.length = qSlots q then 2 ^ 16 else 0)
    + (if x.items.isEmpty && (qPartials x).isEmpty then 2 ^ 17 else 0) + (if x.flush.isSome then 2 ^ 18 else 0)
    + (if x.resetting.isSome then 2 ^ 19 else 0) + (if x.fault then 2 ^ 20 else 0) + x.partialDrops * 2 ^ 24)

/-- The answer to a push (R92, R100, R101). -/
inductive PushStatus where
  | taken | full | fault | busy
  deriving DecidableEq, Repr

def pushStatus (s : State) (q : QueueId) : PushStatus :=
  if !qEnabled s q || (hq s q).fault then .fault
  else if (hq s q).resetting.isSome then .busy
  else if qSlots q ≤ qCount s q then .full
  else .taken

/-- A whole packet becomes an item (R94); `marked`: it stood in its port at the flush point, and the flush discards it; `late`: it was
partial then (R98). -/
def qPut (q : QueueId) (port : Nat) (ws : List Word) (marked late dup : Bool) (s : State) : State :=
  let s1 := modHq q (fun x => { x with items := x.items ++ [⟨ws, pktPrio ws, s.time, port, marked, late, dup⟩] }) s
  s1.mark (qReg q 0x14) 10 0 (qCount s1 q)

/-- A whole packet becomes an item; a buffer transaction is checked first and takes its credit (R94, R322). -/
def qAdmit (q : QueueId) (port : Nat) (ws : List Word) (marked late : Bool) (s : State) : State :=
  match q with
  | .xact e =>
    match xactCode e.val ws s with
    | some code => xactRefuse port ws code s
    | none => xactTakeCredit port ws (qPut q port ws marked late false s)
  | _ => qPut q port ws marked late false s

/-- An item leaves its queue undone: a buffer transaction's credit returns (R26). -/
def qDropItem (q : QueueId) (it : QItem) (s : State) : State :=
  match q with
  | .xact _ => if it.dup then s else xactReturn it.port it.words s
  | _ => s

/-- The operation of a packet ends as lasting to its owner with cause ENDED (R92, R99, R102). -/
def endPacket (q : QueueId) (port : Nat) (ws : List Word) (s : State) : State :=
  { s with ended := ⟨q, ws, port⟩ :: s.ended }

/-- The assembly buffer of a write port (R94). -/
def qPort (s : State) (q : QueueId) (port : Nat) : QPort := SMap.get (fun _ => QPort.empty) (hq s q).ports port

def setPort (q : QueueId) (port : Nat) (y : QPort) (s : State) : State :=
  modHq q (fun x => { x with ports := SMap.set (fun _ => QPort.empty) x.ports port y }) s

/-- A packet whose last word has been written: an item, kept in its port (FULL, and BUSY: log entry 135), or its operation fails (FAULT,
R92). Signals to its port end. -/
def portPush (q : QueueId) (port : Nat) (ws : List Word) (marked late : Bool) (s : State) : State × PushStatus :=
  match pushStatus s q with
  | .taken =>
    (modHq q (fun x => { x with reissue := x.reissue.erase port, flushDone := x.flushDone.erase port })
      (qAdmit q port ws marked late (setPort q port QPort.empty s)), .taken)
  | .fault => (endPacket q port ws (setPort q port QPort.empty s), .fault)
  | st => (setPort q port ⟨ws, true, marked, late⟩ s, st)

/-- The packet that a port holds whole after a refusal is pushed again (R94). -/
def portRetry (q : QueueId) (port : Nat) (s : State) : State :=
  let p := qPort s q port
  if p.full && (pushStatus s q == .taken) then (portPush q port p.words p.marked p.late s).1 else s

/-- A packet that its producer pushes again after a reset (R100): an item while there is room, and one done before takes no credit; else
the producer keeps it. -/
def againPush (q : QueueId) (s : State) (e : Nat × List Word × Bool) : State :=
  if pushStatus s q = .taken ∧ e.2.2 then qPut q e.1 e.2.1 false false true s
  else if pushStatus s q = .taken ∧ !(qPort s q e.1).full then (portPush q e.1 e.2.1 false false s).1
  else modHq q (fun x => { x with again := x.again ++ [e] }) s

/-- Every port that holds a whole packet pushes it again, and so do the producers that have packets left to push after a reset. -/
def portsRetry (q : QueueId) (s : State) : State :=
  let s1 := ((hq s q).ports.map Prod.fst).foldl (fun t c => portRetry q c t) s
  if (hq s1 q).resetting.isSome then s1
  else (hq s1 q).again.foldl (againPush q) (modHq q (fun x => { x with again := [] }) s1)

/-- An engine pushes a whole packet. `.full` and `.busy`: the packet stays in its port and is pushed again by itself; none: the port holds
an earlier one, and the producer keeps this one (R94). -/
def qPush (q : QueueId) (port : Nat) (ws : List Word) (s : State) : Option (State × PushStatus) :=
  let s1 := portRetry q port s
  if (qPort s1 q port).full then none else some (portPush q port ws false false s1)

/-- Best of two items for the read side: the higher level, and of one level the earlier (R96). -/
def qBest : List QItem → Option QItem
  | [] => none
  | x :: xs =>
    match qBest xs with
    | none => some x
    | some y => if y.level ≤ x.level then some x else some y

/-- The item the read side presents; none while a flush is pending (R96, R98). -/
def qHead (x : HwQueue) : Option QItem := if x.flush.isSome || x.resetting.isSome then none else qBest x.items

/-- Once a mismatch's reset is followed by an empty queue, the mismatch was transient (R101). -/
def qNowEmpty (q : QueueId) (evMismatch : Nat) (s : State) : State :=
  let x := hq s q
  if x.items.isEmpty && x.mismatchOpen && x.resetting.isNone then
    transient (qPage q) evMismatch (qInstance q) {} (setHq q { x with mismatchOpen := false } s)
  else s

/-- First of the three queue events in the owner page's EV bits: QUEUE_FLUSH_DONE; then QUEUE_PTR_MISMATCH and
QUEUE_ITEM_PARITY (R310, R345, R389, R426, R452). -/
def qEvent : QueueId → Nat
  | .intake | .firmware _ => 5
  | .gate _ => 4
  | .oarJob _ | .oarDone _ => 8
  | .stripe => 5
  | .xact _ => 8

/-- Remove the presented item (R96). -/
def qTake (q : QueueId) (s : State) : Option (QItem × State) :=
  let x := hq s q
  match qHead x with
  | none => none
  | some it => some (it, qNowEmpty q (qEvent q + 1) (setHq q { x with items := x.items.erase it } s))

/-- The item has left the queue good: a parity error of its port and TAG before is done with (R102). -/
def qGood (q : QueueId) (it : QItem) (s : State) : State :=
  modHq q (fun x => { x with parityTags := x.parityTags.filter (· ≠ (it.port, pktTag it.words)) }) s

/-- The consumer's next item: the one QUEUE_POP delivered, else the one presented. -/
def qNextItem (q : QueueId) (s : State) : Option (QItem × State) :=
  match (hq s q).taken with
  | some it => some (it, modHq q (fun x => { x with taken := none }) s)
  | none => (qTake q s).map fun r => (r.1, qGood q r.1 r.2)

/-- Items done before and pushed again are taken and do no harm (R100), up to `n` of them. -/
def skipDone (q : QueueId) : Nat → State → State
  | 0, s => s
  | n + 1, s =>
    match qNextItem q s with
    | some (it, t) => if it.dup then skipDone q n t else s
    | none => s

/-- The consumer's next item; the ports whose packets waited for a slot push them again. -/
def qNext (q : QueueId) (s : State) : Option (QItem × State) :=
  (qNextItem q (skipDone q (qCount s q + 1) s)).map fun r => (r.1, portsRetry q r.2)

/-- The item the consumer will take next. -/
def qFront (q : QueueId) (s : State) : Option QItem := (qNextItem q (skipDone q (qCount s q + 1) s)).map Prod.fst

/-- Words written to a write port (R94): the packet becomes an item with its last word, or stays in the port on a refusal. A packet held
whole is pushed again by its last word alone. -/
def portWrite (q : QueueId) (port : Nat) (words : List Word) (s : State) : State × PushStatus :=
  let p := qPort s q port
  let ws := if p.full then p.words else p.words ++ words
  if ws.isEmpty ∨ pktLen ws < ws.length then (s, .taken)
  else if ws.length < pktLen ws then (setPort q port { p with words := ws } s, .taken)
  else portPush q port ws p.marked p.late s

/-- A producer that stops mid-packet: the queue discards the part and counts it (R95). -/
def dropPartial (port : Nat) (q : QueueId) (s : State) : State :=
  let x := hq s q
  if portPartial (SMap.get (fun _ => QPort.empty) x.ports port) then
    setHq q { x with ports := SMap.set (fun _ => QPort.empty) x.ports port QPort.empty
                     partialDrops := satAdd 255 x.partialDrops 1 } s
  else s

/-- R95 for every queue and every requester code in `codes`. -/
def dropPartials (codes : List Nat) (s : State) : State :=
  codes.foldl (fun t c => allQueues.foldl (fun u q => dropPartial c q u) t) s

/-- Everything a queue holds is gone; FAULT and the other state stay (R101). -/
def clearQueue (q : QueueId) (s : State) : State :=
  qNowEmpty q (qEvent q + 1) (modHq q (fun x => { x with items := [], ports := [], taken := none, again := [] }) s)

/-- The write ports of a queue's hardware producers, by requester code (R42, R91); 0x3F is the fast path. -/
def hwPorts : QueueId → List Nat
  | .intake => [0x2C, 0x2D, 0x2E, 0x2F]
  | .firmware _ => [0x3F]
  | .gate _ => (List.range 8).map (0x24 + ·) ++ [0x3F]
  | .oarJob o => [0x20 + o.val / 4]
  | .oarDone o => [0x10 + o.val]
  | .stripe => [0x3F]
  | .xact _ => [8, 9, 0xA, 0xB, 0xC, 0xD] ++ (List.range 0x25).map (0x10 + ·)

/-- The write ports of a queue: those of its hardware producers, and the windows of Cox and the Stroke cores (R104). -/
def qPorts (q : QueueId) : List Nat := hwPorts q ++ [1, 2, 3, 4, 5]

/-- A queue of a page that is reset: empty, its fault cleared (R101). -/
def resetQueue (q : QueueId) (s : State) : State := setHq q HwQueue.reset s

end Sys2Proof.Machine
end

