-- ==== Sys2Proof/Machine/PreOps.lean ====
section
/-! DEFINITION. Preamplifier ports: frames, slots and control words (R148 to R156). -/

namespace Sys2Proof.Machine

def pre (s : State) (a : Nat) : PrePort := SMap.get (fun _ => PrePort.reset) s.pres a

def modPre (a : Nat) (f : PrePort → PrePort) (s : State) : State :=
  { s with pres := SMap.set (fun _ => PrePort.reset) s.pres a (f (pre s a)) }

/-! ### Frames on the line (R149) -/

/-- A number of `n` bytes as a frame sends it, the most significant byte first. -/
def frameField (n v : Nat) : List Byte := (toBytes n v).reverse

/-- The bytes a port drives of a frame, each most significant bit first: command, address, the data of a write, and their CRC-8. -/
def frameBytes (f : PreFrame) : List Byte :=
  let body := (if f.read then 0xD3#8 else 0x53#8) :: frameField 2 f.addr ++ (if f.read then [] else frameField 2 f.data)
  body ++ [crc8 body]

/-- The bits of a frame in the order of the line. -/
def frameBits (f : PreFrame) : List Bool := (frameBytes f).flatMap fun b => (List.range 8).map fun i => b.getLsbD (7 - i)

/-- What comes back is good: an acknowledgement 0xA5, or data with their CRC-8 (R150). -/
def tailGood (read : Bool) (tail : BitVec 24) : Bool :=
  if read then crc8 (frameField 2 (tail.toNat / 256)) == tail.setWidth 8 else tail.toNat % 256 == 0xA5

/-- The data of a read reply. -/
def tailData (tail : BitVec 24) : Nat := tail.toNat / 256

/-- STATUS.PORT_STATE: 0 not probed, 1 present, 2 absent, 3 lost (R168). -/
def portState (s : State) (a : Nat) : Nat := s.fld (Reg.STATUS (Page.PRE a)) 9 8

/-- The port sends frames. -/
def portUp (s : State) (a : Nat) : Bool := decide (a < 4) && pageOn s (Page.PRE a) && pageClocked s (Page.PRE a) && portState s a != 3

/-- Head in slot `k`, its readers on, and the slots of the writer lanes, as last written (SLOT_MAP, R168). -/
def slotHead (s : State) (a k : Nat) : Nat := s.fld (Reg.PRE.SLOT_MAP a) (4 * k + 2) (4 * k)
def slotOn (s : State) (a k : Nat) : Bool := s.bit (Reg.PRE.SLOT_MAP a) (16 + k)
def laneSlot (s : State) (a w : Nat) : Option Nat :=
  if s.bit (Reg.PRE.SLOT_MAP a) (24 + w) then some (s.fld (Reg.PRE.SLOT_MAP a) (21 + 2 * w) (20 + 2 * w)) else none

/-- Head `h` is in a slot. -/
def headInSlot (s : State) (a h : Nat) : Bool := (List.range 4).any fun k => slotOn s a k && slotHead s a k == h

/-- The Oar of the slot has raised write gate on lane `w`. -/
def laneGated (s : State) (a w : Nat) : Bool :=
  (List.range 4).any fun k => s.bit (Reg.OAR.FE_STATUS (4 * a + k)) 17 && s.fld (Reg.OAR.FE_STATUS (4 * a + k)) 20 19 == w + 1

/-- Head `h` is failed by its port (R154). -/
def headFailed (s : State) (a h : Nat) : Bool := s.bit (Reg.PRE.HEAD_FAIL a) h

/-- A firmware frame at `addr` meets a slot: a control word of a head in a slot, or RSLOTk or WSLOTw, while Gate is enabled (R155). -/
def fwConflict (s : State) (a addr : Nat) : Bool :=
  s.bit (Reg.CTRL (Page.GATE a)) 0 && ((decide (0x20 ≤ addr) && decide (addr ≤ 0x25))
    || (decide (0x100 ≤ addr) && decide (addr < 0x160) && decide (addr % 16 < 8) && headInSlot s a ((addr - 0x100) / 16)))

/-- The firmware frame is refused: REFUSED and SLOT_CONFLICT (R155). -/
def fwRefuse (a : Nat) (s : State) : State :=
  raise (Page.PRE a) 4 5 0 {} ((s.setBit (Reg.PRE.FW_RESULT a) 16 false).setBit (Reg.PRE.FW_RESULT a) 18 true)

/-- A firmware frame that waits is refused once its head has been placed in a slot (R155). -/
def fwRecheck (a : Nat) (s : State) : State :=
  if (pre s a).fw.any fun f => fwConflict s a f.addr then fwRefuse a (modPre a (fun p => { p with fw := none }) s) else s

/-- A frame begins, with the rest of the real-time queue; a place in it goes to the frame that waits longest for one. -/
def preStart (a : Nat) (f : PreFrame) (fw : Bool) (rest : List PreFrame) (passed : Nat) (s : State) : State :=
  modPre a (fun p =>
    { p with fw := if fw then none else p.fw, passed := passed, sending := some (f, fw, false), wire := frameBits f
             rt := (rest ++ p.back).take 16, back := (rest ++ p.back).drop 16 }) s

/-- The next frame begins when none is being sent: a real-time frame first, but a firmware frame behind eight of them (R151). -/
def preNext (a : Nat) (s0 : State) : State :=
  let s := fwRecheck a s0
  let p := pre s a
  if p.sending.isSome || !portUp s a then s
  else
    match p.fw, p.rt with
    | some f, [] => preStart a f true [] 0 s
    | some f, r :: rs => if 8 ≤ p.passed then preStart a f true p.rt 0 s else preStart a r false rs (p.passed + 1) s
    | none, r :: rs => preStart a r false rs 0 s
    | none, [] => s

/-- A frame already queued or being sent is not queued again. -/
def prePending (s : State) (a : Nat) (f : PreFrame) : Bool :=
  let p := pre s a
  p.rt.contains f || p.back.contains f || p.sending.any fun x => x.1 == f && !x.2.1

/-- Real-time frames join the queue, those beyond its 16 places waiting at their producers. -/
def preQueue (a : Nat) (fs : List PreFrame) (s : State) : State :=
  preNext a (modPre a (fun p => { p with rt := (p.rt ++ p.back ++ fs).take 16, back := (p.rt ++ p.back ++ fs).drop 16 }) s)

/-- Slot frames go at the head of the real-time queue (R156). -/
def preUrgent (a : Nat) (f : PreFrame) (s : State) : State :=
  if prePending s a f then s
  else preNext a (modPre a (fun p => { p with rt := (f :: p.rt ++ p.back).take 16, back := (f :: p.rt ++ p.back).drop 16 }) s)

/-- A frame that writes RSLOTk, WSLOTw or a control word of a head (R152). -/
def rslotFrame (k h : Nat) (on : Bool) : PreFrame := ⟨0x20 + k, false, h % 8 + if on then 0x300 else 0⟩
def wslotFrame (w k : Nat) (on : Bool) : PreFrame := ⟨0x24 + w, false, k % 4 + if on then 0x100 else 0⟩
def controlFrame (h n v : Nat) : PreFrame := ⟨0x100 + 16 * h + n, false, v % 4096⟩

/-- The control words of head `h` that differ from the shadow, queued (R155). -/
def preLevels (a h : Nat) (levels : List Nat) (s : State) : State :=
  let fs := (levels.zipIdx).filterMap fun (v, n) =>
    let f := controlFrame h n v
    if SMap.get (fun _ => none) (pre s a).shadow (16 * h + n) = some (v % 4096) || prePending s a f then none else some f
  preQueue a fs s

/-- A frame that changes slot or lane `i` has ended now. -/
def preChanged (a i : Nat) (s : State) : State := modPre a (fun p => { p with settled := SMap.set (fun _ => 0) p.settled i s.time }) s

/-- A write frame has arrived: SLOT_MAP and the shadow show it. -/
def preWritten (a : Nat) (f : PreFrame) (s0 : State) : State :=
  let m := Reg.PRE.SLOT_MAP a
  let s := if 0x20 ≤ f.addr ∧ f.addr ≤ 0x25 then preChanged a (f.addr - 0x20) s0 else s0
  if 0x20 ≤ f.addr ∧ f.addr ≤ 0x23 then
    let k := f.addr - 0x20
    (s.setFld m (4 * k + 2) (4 * k) (f.data % 8)).setBit m (16 + k) (f.data.testBit 8)
  else if 0x24 ≤ f.addr ∧ f.addr ≤ 0x25 then
    let w := f.addr - 0x24
    (s.setFld m (21 + 2 * w) (20 + 2 * w) (f.data % 4)).setBit m (24 + w) (f.data.testBit 8)
  else if 0x100 ≤ f.addr ∧ f.addr < 0x160 then
    modPre a (fun p => { p with shadow := SMap.set (fun _ => none) p.shadow (f.addr - 0x100) (some (f.data % 4096)) }) s
  else s

/-! ### Heads and actuators in service (R157, R159) -/

/-- Actuator `a` is PRESENT and not LOST in ACT_POP. -/
def actuatorUp (s : State) (a : Nat) : Bool := s.critFld 3 a a == 1 && !actuatorLost s a

/-- Head `h` (0 to 5) of actuator `a` exists: HEADMASK names it and the port is PRESENT. -/
def headPresent (s : State) (a h : Nat) : Bool := s.critFld 3 a a == 1 && decide (h < 6) && (pre s a).mask.testBit h

/-- SETTLE of actuator `a`'s preamplifier has passed since slot `k`, and a lane that writes through it, last changed (R156). -/
def slotSettled (s : State) (a k : Nat) : Bool :=
  let done := fun i => decide (SMap.get (fun _ => 0) (pre s a).settled i + (pre s a).settle ≤ s.time)
  done k && [0, 1].all fun w => laneSlot s a w != some k || done (4 + w)

/-- A global head is failed in MEMBER_FAIL (critical word 4). -/
def memberFailed (s : State) (m : Nat) : Bool := Sys2Proof.bit (s.critVal 4) m

end Sys2Proof.Machine
end

