-- ==== Sys2Proof/Machine/CalOps.lean ====
section
/-! DEFINITION. Calibration records, their envelopes and the levels applied (R164 to R167). -/

namespace Sys2Proof.Machine

def modCal (f : Cal → Cal) (s : State) : State := { s with cal := f s.cal }

/-- Index of the record of global head `m` in zone `z` (R165). -/
def calIndex (m z : Nat) : Nat := 64 * m + z

def calRecord (s : State) (m z : Nat) : Option (List Word) := SMap.get (fun _ => none) s.cal.records (calIndex m z)
def calStale (s : State) (m z : Nat) : Bool := SMap.get (fun _ => false) s.cal.stale (calIndex m z)

/-- HDA.TEMP, 0.1 °C, and whether it is valid (R162). -/
def hdaTemp (s : State) : Int := signedOf 16 (s.fld Reg.HDA.TEMP 15 0)
def hdaTempValid (s : State) : Bool := s.bit Reg.HDA.TEMP 31

/-- Cause bits of a broken soft envelope: T, V, TLI; 0 when it holds (R166). -/
def softCause (s : State) (r : List Word) : Nat :=
  let k := Reg.CAL.SOFT_ENV
  let dt := (hdaTemp s - signedOf 16 (fld (r.getD 1 0#32) 15 0)).natAbs
  let dv := ((s.fld Reg.DRV.BUS_V 15 0 : Int) - fld (r.getD 2 0#32) 15 0).natAbs
  let dl := ((s.fld Reg.HDA.TLI 7 0 : Int) - fld (r.getD 3 0#32) 7 0).natAbs
  (if !hdaTempValid s || decide (s.fld k 7 0 < dt) then 1 else 0) + (if s.fld k 31 16 < dv then 2 else 0)
    + (if s.fld k 15 8 < dl then 4 else 0)

/-- The hard envelope holds; it is taken as holding while TEMP is not valid (R166). -/
def hardHolds (s : State) (r : List Word) : Bool :=
  let k := Reg.CAL.HARD_ENV
  let dt := (hdaTemp s - signedOf 16 (fld (r.getD 1 0#32) 15 0)).natAbs
  let dv := ((s.fld Reg.DRV.BUS_V 15 0 : Int) - fld (r.getD 2 0#32) 15 0).natAbs
  !hdaTempValid s || (decide (dt ≤ s.fld k 7 0) && decide (dv ≤ s.fld k 31 16))

/-- Head and zone in use at Oar `o`: those of the job in progress, else of its slot (R166). -/
def calUse (s : State) (o : Nat) : Option (Nat × Nat) :=
  let x := rudSlot s (oarAct o) (oarSlot o)
  match (oar s o).job with
  | some j => some (jobHead j, jobZone j)
  | none => if x.used then some (x.head, x.zone) else none

/-- Records in use, as global head and zone. -/
def calUsed (s : State) : List (Nat × Nat) := (List.range 16).filterMap fun o => (calUse s o).map fun x => (memberOf o x.1, x.2)

/-- The record that Oar `o` works with: that with which its job began, else the one stored (R165). -/
def calRecordOf (s : State) (o m z : Nat) : Option (List Word) :=
  match (oar s o).job, SMap.get (fun _ => none) s.cal.began o with
  | some _, some r => r
  | _, _ => calRecord s m z

/-- A head's writes are held: the hard envelope of a record compared is broken (R166). -/
def calHard (s : State) (m z : Nat) : Bool :=
  SMap.get (fun _ => false) s.cal.hard (calIndex m z) && (calRecord s m z).any fun r => !hardHolds s r

/-- CAL.HARD_HEADS. -/
def calHardHead (s : State) (m : Nat) : Bool := (List.range 64).any fun z => calHard s m z

/-- The levels from record `r?` are guard-banded: no record, a stale one, or an envelope broken (R166). -/
def calGuarded (s : State) (m z : Nat) (r? : Option (List Word)) : Bool :=
  match r? with
  | none => true
  | some r => calStale s m z || softCause s r != 0 || !hardHolds s r

/-- Verify is forced for the head and zone (R166). -/
def calForced (s : State) (m z : Nat) : Bool := (calRecord s m z).isNone || calStale s m z

/-- The eight control words of a head in a zone from its record (R152, R167), from WRITE_CURRENT to READER_BIAS1. -/
def calLevels (s : State) (m z : Nat) (rec? : Option (List Word)) : List Nat :=
  let w := fun (i d : Nat) => match rec? with
    | some r => r.getD i 0#32
    | none => s.reg (Reg.CAL.DEFAULT d)
  let guard := match rec? with
    | some r => r.getD 12 0#32
    | none => s.reg Reg.CAL.DEFAULT_GUARD
  let tc := match rec? with
    | some r => r.getD 11 0#32
    | none => 0#32
  let dt : Int := match rec? with
    | some r => hdaTemp s - signedOf 16 (fld (r.getD 1 0#32) 15 0)
    | none => 0
  let g := calGuarded s m z rec?
  let comp := fun (code tcv : Nat) (band : Nat) =>
    (clampInt 0 4095 ((code : Int) + (signedOf 16 tcv * dt).tdiv 160 - (if g then (band : Int) else 0))).toNat
  let lo := fun x : Word => fld x 11 0
  let hi := fun x : Word => fld x 27 16
  [lo (w 6 0), hi (w 6 0), comp (lo (w 7 1)) (fld tc 15 0) (lo guard), comp (hi (w 7 1)) (fld tc 15 0) (lo guard),
   lo (w 8 2), comp (hi (w 8 2)) (fld tc 31 16) (hi guard), lo (w 9 3), hi (w 9 3)]

/-- A slot is marked stale, with CAL_STALE and its cause bits (R166). -/
def markStale (m z cause : Nat) (s : State) : State :=
  let s1 := modCal (fun c => { c with stale := SMap.set (fun _ => false) c.stale (calIndex m z) true }) s
  raise Page.CAL 0 0 cause ⟨word m, word z, 0#32⟩ (s1.setReg Reg.CAL.LAST_STALE (word (z + m * 65536 + cause * 2 ^ 24)))

/-- The marks of a missing record that no head in use has any longer are gone. -/
def keepMissed (m z : Nat) (s : State) : State :=
  modCal (fun c => { c with missed := SMap.keep (fun i => i == calIndex m z || (calUsed s).any fun x => calIndex x.1 x.2 == i) c.missed }) s

/-- The comparison of R166 of record `r?` of head `m` in zone `z`: CAL_MISSING, CAL_STALE, CAL_HARD and its end. A record stored meanwhile
is not marked by what a job in progress finds of the one before. -/
def calCompare (m z : Nat) (r? : Option (List Word)) (s0 : State) : State :=
  let s := keepMissed m z s0
  let i := calIndex m z
  let hard := fun (b : Bool) (t : State) => modCal (fun c => { c with hard := SMap.set (fun _ => false) c.hard i b }) t
  match r? with
  | none =>
    if SMap.get (fun _ => false) s.cal.missed i then hard false s
    else raise Page.CAL 2 0 0 ⟨word m, word z, 0#32⟩
      (modCal (fun c => { c with missed := SMap.set (fun _ => false) c.missed i true }) (hard false s))
  | some r =>
    if !hardHolds s r then
      if SMap.get (fun _ => false) s.cal.hard i then s else lasting Page.CAL 1 0 ⟨word m, word z, 0#32⟩ (hard true s)
    else if softCause s r ≠ 0 ∧ !calStale s m z ∧ calRecord s m z = r? then markStale m z (softCause s r) (hard false s)
    else hard false s

end Sys2Proof.Machine
end

