-- ==== Sys2Proof/Machine/Engine.lean ====
section
/-! DEFINITION. The microcoded engines: kinds, pages and when one runs (R42, R307, R308, R526), and the key slots as the Crypto
engines see them (R500, R504, R508). -/

namespace Sys2Proof.Machine

/-- Kind of the engine with requester code `c`: 0 Oar, 1 Gate, 2 Crew, 3 Slipway, 4 Boathouse, 5 Crypto, 6 Umpire (R311). -/
def engineKind (c : Nat) : Nat :=
  if c < 0x20 then 0 else if c < 0x24 then 1 else if c < 0x2C then 2 else if c < 0x30 then 3 else if c < 0x32 then 4
  else if c < 0x34 then 5 else 6

/-- Page of the engine with requester code `c`. -/
def enginePage (c : Nat) : Nat :=
  if c < 0x20 then Page.OAR (c - 0x10) else if c < 0x24 then Page.GATE (c - 0x20) else if c < 0x2C then Page.CREW (c - 0x24)
  else if c < 0x30 then Page.SLIP (c - 0x2C) else if c < 0x32 then Page.BOAT else if c < 0x34 then Page.CRYPTO (c - 0x32)
  else Page.UMP

/-- The debug port holds the engine (R526). -/
def engineHalted (s : State) (c : Nat) : Bool := SMap.get (fun _ => 0) s.dbg.halts c != 0

/-- The engine's microcode runs: powered, clocked, out of machine check, restored, released by COMMIT, not halted, no Oar of a lost actuator
(R161, R307, R308).
The Crypto engines and Umpire run from the release of their reset. -/
def engineRuns (s : State) (c : Nat) : Bool :=
  blockAlive s (enginePage c) && !s.ucode.restoring.contains c && !engineHalted s c
    && !(engineKind c == 0 && actuatorLost s ((c - 0x10) / 4))
    && !(engineKind c == 4 && s.bit Reg.BOAT.ENGINE_STATE (1 + (c - 0x30)))
    && (decide (5 ≤ engineKind c) || s.ucode.done.contains (engineKind c))

/-- The engine runs and takes new work (R44). -/
def engineTakes (s : State) (c : Nat) : Bool := engineRuns s c && blockRuns s (enginePage c)

/-! ### Microcode (R303 to R305, R307) -/

/-- The engine's copy of the patch RAM and match registers. -/
def microCopy (s : State) (c : Nat) : SMap (BitVec 128) × SMap Word := SMap.get (fun _ => ([], [])) s.ucode.copies c

/-- The engine's match register `m` is enabled and holds ROM address `a`. -/
def microMatches (s : State) (c a m : Nat) : Bool :=
  let r := SMap.get (fun _ => 0#32) (microCopy s c).2 m
  bit r 31 && fld r 13 0 == a

/-- Where a fetch from microaddress `a` finds its word: the patch word of the lowest-numbered enabled match register that holds a ROM
address, else `a` itself (R304). -/
def microPlace (s : State) (c a : Nat) : Nat :=
  match (List.range 16).find? (microMatches s c a) with
  | some m => if a < 0x4000 then 0x4000 + fld (SMap.get (fun _ => 0#32) (microCopy s c).2 m) 24 16 else a
  | none => a

/-- The microword that engine `c` fetches at `a`; none at 0x4200 and above (R304, R305). -/
def microWord (s : State) (c a : Nat) : Option (BitVec 128) :=
  let p := microPlace s c a
  if 0x4200 ≤ a then none
  else some (if p < 0x4000 then Config.microRom (engineKind c) p else SMap.get (fun _ => 0#128) (microCopy s c).1 (p - 0x4000))

/-- The fields of a microword (R303). -/
def microSeq (w : BitVec 128) : Nat := (w >>> 124).toNat
def microTarget (w : BitVec 128) : Nat := (w >>> 109).toNat % 2 ^ 15
def microCond (w : BitVec 128) : Nat := (w >>> 104).toNat % 32
def microInv (w : BitVec 128) : Bool := w.getLsbD 103

/-- Odd parity of `n` bits of a stored microword from bit `i` on: the bit that makes the number of ones odd (R303). -/
def microParity (w : BitVec 128) (i n : Nat) : Bool := ((List.range n).filter fun k => w.getLsbD (i + k)).length % 2 == 0

/-- A microword as it is fetched (R303): its bits as read, and whether both of its parity bits, stored with it, still agree. -/
def microRead (w : BitVec 128) (flips : BitVec 130) : BitVec 128 × Bool :=
  let r := w ^^^ flips.setWidth 128
  (r, (microParity w 0 64 ^^ flips.getLsbD 128) == microParity r 0 64 && (microParity w 64 64 ^^ flips.getLsbD 129) == microParity r 64 64)

/-- The sequencer of engine `c`. -/
def micro (s : State) (c : Nat) : Micro := SMap.get (fun _ => Micro.reset) s.ucode.micros c

def setMicro (c : Nat) (m : Micro) (s : State) : State :=
  { s with ucode := { s.ucode with micros := SMap.set (fun _ => Micro.reset) s.ucode.micros c m } }

/-- The word ends a run of micro-cycles: POLL, WAIT or HALT (R305). -/
def microRests (w : BitVec 128) : Bool := microSeq w == 5 || microSeq w == 6 || microSeq w == 8

/-- The condition of a microword: condition 0 always holds, and INV inverts (R303). -/
def microHolds (w : BitVec 128) (x : MicroFetch) : Bool := (microCond w == 0 || x.cond) ^^ microInv w

/-- The FAULT_CODE of the check of R305 that a fetch fails; none where it passes. -/
def microCode (s : State) (c addr : Nat) (x : MicroFetch) : Option Nat :=
  match microWord s c addr with
  | none => some 7
  | some stored =>
    let r := microRead stored x.flips
    let m := micro s c
    if !r.2 then some 1
    else if microSeq r.1 = 3 ∧ 8 ≤ m.stack.length then some 2
    else if microSeq r.1 = 4 ∧ m.stack = [] then some 3
    else if 9 ≤ microSeq r.1 then some 5
    else if !microRests r.1 && decide (128 ≤ m.ran + 1) then some 4
    else none

/-- The sequencer executes the word fetched at `a` (R303, R305). -/
def microStep (w : BitVec 128) (a : Nat) (x : MicroFetch) (m : Micro) : Micro :=
  let q := microSeq w
  let ran := if microRests w then 0 else m.ran + 1
  if q = 1 then ⟨microTarget w, m.stack, ran⟩
  else if q = 2 then ⟨if microHolds w x then microTarget w else a + 1, m.stack, ran⟩
  else if q = 3 then ⟨microTarget w, (a + 1) :: m.stack, ran⟩
  else if q = 4 then ⟨m.stack.headD 0, m.stack.tail, ran⟩
  else if q = 6 then ⟨if microHolds w x then a + 1 else a, m.stack, ran⟩
  else if q = 7 then ⟨microTarget w + x.operand % 16, m.stack, ran⟩
  else if q = 8 then ⟨a, m.stack, ran⟩
  else ⟨a + 1, m.stack, ran⟩

/-- Engine `c` fetches and executes the microword at `a`, whose datapath fields the spec does not describe (R303; log entry 172). -/
def microRun (c a : Nat) (x : MicroFetch) (s : State) : State :=
  match microWord s c a with
  | none => s
  | some w => setMicro c (microStep (microRead w x.flips).1 a x (micro s c)) s

/-- The master copy of its kind goes into engine `c` (R307). -/
def restoreCopy (c : Nat) (s : State) : State :=
  let k := engineKind c
  let ws := (List.range 512).foldl (fun m n => SMap.set (fun _ => 0#128) m n (SMap.get (fun _ => 0#128) s.ucode.words (512 * k + n))) []
  let ms := (List.range 16).foldl (fun m n => SMap.set (fun _ => 0#32) m n (SMap.get (fun _ => 0#32) s.ucode.matchRegs (16 * k + n))) []
  setMicro c Micro.reset { s with ucode := { s.ucode with copies := SMap.set (fun _ => ([], [])) s.ucode.copies c (ws, ms) } }

/-! ### Key slots -/

/-- The keys of slot `n`; none where the slot is unusable (R497, R504). -/
def slotKeys (s : State) (n : Nat) : Option (List Byte) :=
  if s.keys.dead then none else SMap.get (fun _ => none) s.keys.slots n

/-- The Crypto engine that serves a sector: the lower-numbered one that runs (R74). -/
def cryptoEngine (s : State) : Option Nat := [0, 1].find? fun n => engineRuns s (0x32 + n)

/-- A sector ends with cause KEY: KEY_ENDED of the engine, its event after 1 ms without one (R508). -/
def keyEnded (slot : Nat) (s : State) : State :=
  match cryptoEngine s with
  | none => s
  | some n =>
    let c := SMap.get (fun _ => Crypto.reset) s.cryptos n
    let quiet := match c.endedTime with
      | some t => decide (t + 1000000 ≤ s.time)
      | none => true
    let s1 := { s with cryptos := SMap.set (fun _ => Crypto.reset) s.cryptos n ⟨some s.time⟩ }
    let s2 := s1.count (Reg.CRYPTO.KEY_ENDED n) 1
    if quiet then raise (Page.CRYPTO n) 1 0 slot {} s2 else s2

/-- The tweak of R245. -/
def xtsTweak (seed lun : Nat) : Nat := seed % 2 ^ 64 + lun % 64 * 2 ^ 64

/-- A host area passes a Crypto engine (R245). -/
def xtsPass (enc : Bool) (keys : List Byte) (seed lun : Nat) (host : List Byte) (s : State) : List Byte × State :=
  let s1 := match cryptoEngine s with
    | some n => s.count (if enc then Reg.CRYPTO.SECTORS_ENC n else Reg.CRYPTO.SECTORS_DEC n) 1
    | none => s
  (Config.xts enc keys (xtsTweak seed lun) host, s1)

end Sys2Proof.Machine
end

