-- ==== Sys2Proof/Machine/SweepOps.lean ====
section
/-! DEFINITION. Sweep's slots and ladder, and how an Oar takes the outcome of a read (R242, R256, R257, R266 to R281, R291 to R296). -/

namespace Sys2Proof.Machine

/-! ### Access -/

def decSlot (s : State) (n : Nat) : Option DecSlot := SMap.get (fun _ => none) s.sweep.slots n

def modSweep (f : Sweep → Sweep) (s : State) : State := { s with sweep := f s.sweep }

def setDec (n : Nat) (x : Option DecSlot) (s : State) : State :=
  modSweep (fun w => { w with slots := SMap.set (fun _ => none) w.slots n x }) s

def modDec (n : Nat) (f : DecSlot → DecSlot) (s : State) : State :=
  match decSlot s n with
  | some x => setDec n (some (f x)) s
  | none => s

def decLane (s : State) (l : Nat) : Option Lane := SMap.get (fun _ => none) s.sweep.lanes l

def setLane (l : Nat) (x : Option Lane) (s : State) : State :=
  modSweep (fun w => { w with lanes := SMap.set (fun _ => none) w.lanes l x }) s

/-- Slots in use with their numbers, lowest first. -/
def usedDec (s : State) : List (Nat × DecSlot) := s.sweep.slots.filterMap fun e => e.2.map fun x => (e.1, x)

/-- Slots in recovery (SLOT_STATE.RECOV). -/
def recovering (s : State) : Nat := ((usedDec s).filter fun e => e.2.kind == 3).length

/-- Payload of Sweep's events: stream, TRACK, SECTOR (R283). -/
def decPayload (x : DecSlot) : Payload := ⟨word x.oar, word x.track, word x.sector⟩

/-- The slot becomes FREE and its decoder-slot credit returns (R268); a lane at work on it goes idle. -/
def freeDec (n : Nat) (s : State) : State :=
  match decSlot s n with
  | none => s
  | some x =>
    let s1 := modEntry x.oar x.entry (fun y => { y with slot := none }) (setDec n none s)
    let s2 := modOar x.oar (fun r => { r with rawHeld := if r.rawHeld = some x.entry then none else r.rawHeld }) s1
    modSweep (fun w => { w with lanes := w.lanes.filter (fun e => !(e.2.any fun l => l.slot == n))
                                saved := SMap.set (fun _ => none) w.saved n none }) s2

/-! ### Completion packets (R291) -/

def oarDoneQ (o : Nat) : QueueId := .oarDone (BitVec.ofNat 4 o).toFin
def oarJobQ (o : Nat) : QueueId := .oarJob (BitVec.ofNat 4 o).toFin

/-- Push what waits in the Oar's outbox until its port holds a packet. A packet that a queue in fault refuses is lost, and Gate ends what
it reports (R92). -/
def flushPackets (o : Nat) : List (List Word) → State → State
  | [], s => modOar o (fun r => { r with outbox := [] }) s
  | w :: ws, s =>
    match qPush (oarDoneQ o) (0x10 + o) w s with
    | some (t, .fault) => flushPackets o ws (modOar o (fun r => { r with refused := r.refused ++ [w] }) t)
    | some (t, _) => flushPackets o ws t
    | none => modOar o (fun r => { r with outbox := w :: ws }) s

def flushOar (o : Nat) (s : State) : State := flushPackets o (oar s o).outbox s

def pushDone (o : Nat) (ws : List Word) (s : State) : State :=
  flushOar o (modOar o (fun r => { r with outbox := r.outbox ++ [ws] }) s)

/-- The SECTOR packet of an entry. -/
def sectorPacket (e : Nat) (x : JobEntry) : List Word :=
  let body := [word (e + x.state * 65536 + (if x.state = 10 then x.cause * 2 ^ 24 else 0)), word x.track, word x.sector]
  let spare := if x.state = 9 then [word x.spareTrack, word x.spareSector] else []
  pktHeader (4 + spare.length) 0 false 0x82 x.tag :: (body ++ spare)

/-- The sector's next read enters no ladder at rung 2 (R269). -/
def dropRung2 (o e : Nat) (s : State) : State := modSweep (fun w => { w with rung2 := w.rung2.filter (· ≠ (o, e)) }) s

/-- A sector ends; an entry that no track job holds is reported at once and is FREE (R291). -/
def closeEntry (o e cause : Nat) (s : State) : State :=
  match entry s o e with
  | none => s
  | some x =>
    let s1 := endEntry o e cause (dropRung2 o e s)
    if x.inJob then s1
    else setEntry o e none (pushDone o (sectorPacket e { x with state := 10, cause := cause }) s1)

/-! ### The end of the ladder (R280) -/

/-- The ladder of slot `n` ends lasting with `code`: UNREADABLE. -/
def raiseUnreadable (code : Nat) (x : DecSlot) (s : State) : State :=
  lasting Page.SWEEP 1 code (decPayload x) (s.count Reg.SWEEP.UNREADABLE_COUNT 1)

/-- The ladder ends in failure: the sector ends UNREADABLE, or FILL when its read was a fill (R280, R295). -/
def unreadable (n code : Nat) (s : State) : State :=
  match decSlot s n with
  | none => s
  | some x =>
    let cause := if (entry s x.oar x.entry).any (fun y => y.reading == 1) then 6 else 1
    closeEntry x.oar x.entry cause (freeDec n (raiseUnreadable code x s))

/-- A sector ends while it may hold a slot: its ladder ends with code 7 (R281). -/
def endSector (o e cause : Nat) (s : State) : State :=
  let s1 := match (entry s o e).bind JobEntry.slot with
    | none => s
    | some n =>
      match decSlot s n with
      | some x => freeDec n (if x.kind = 3 then raiseUnreadable 7 x s else s)
      | none => s
  closeEntry o e cause s1

/-! ### Combining reads (R275) -/

/-- A quotient rounded to nearest, halves away from zero. -/
def roundDiv (a : Int) (n : Nat) : Int :=
  if a < 0 then -((2 * (-a) + n) / (2 * n)) else (2 * a + n) / (2 * n)

/-- The sums with one more read. -/
def addRead (sums : List (Int × Nat)) (cur : List (Option Int)) : List (Int × Nat) :=
  let base := if sums.isEmpty then cur.map (fun _ => ((0 : Int), 0)) else sums
  List.zipWith (fun a x => match x with
    | some v => (a.1 + v, a.2 + 1)
    | none => a) base cur

/-- The decoder input that sums give; a bit erased in every read stays erased. -/
def combined (sums : List (Int × Nat)) : List (Option Int) :=
  sums.map fun a => if a.2 = 0 then none else some (clampInt (-128) 127 (roundDiv a.1 a.2))

/-- Decoder input of a slot: at rung 2 the combination with the present read. -/
def slotInput (x : DecSlot) : List (Option Int) :=
  if x.kind = 3 ∧ x.rung = 2 then combined (addRead x.sums x.cur) else x.cur

/-! ### The rungs (R274) -/

def rungReads (s : State) (r : Nat) : Nat :=
  if r = 2 then s.fld Reg.SWEEP.RECOV_CFG 3 0 else if r = 3 then s.fld Reg.SWEEP.RECOV_CFG 6 4
  else if r = 4 ∧ s.bit Reg.SWEEP.RECOV_CFG 7 then 1 else 0

/-- The ladder goes to the first rung above `r` that is not skipped, or ends with code 5; past its time limit with code 6. -/
def rungAfter (n r : Nat) (s : State) : State :=
  if (decSlot s n).any DecSlot.expired then unreadable n 6 s
  else
    match [2, 3, 4].find? fun q => decide (r < q) && rungReads s q != 0 with
    | none => unreadable n 5 s
    | some q => modDec n (fun x => { x with state := 5, rung := q, reads := 0, limit := rungReads s q, step := s.fld Reg.SWEEP.RECOV_CFG 19 8, requal := 0, iters := 0
                                            cur := [] }) s

/-- A read of the present rung has failed; `fold` adds its samples to the sums (R275). -/
def readFailed (n : Nat) (fold : Bool) (s : State) : State :=
  match decSlot s n with
  | none => s
  | some x =>
    let s1 := modDec n (fun y => { y with sums := if fold then addRead y.sums y.cur else y.sums, cur := [], iters := 0
                                          badLane := none }) s
    if x.rung = 1 then rungAfter n 1 s1
    else if x.rung = 4 then
      if 4 ≤ x.requal then rungAfter n 4 s1
      else if x.expired then unreadable n 6 s1 else modDec n (fun y => { y with state := 1 }) s1
    else
      let s2 := modDec n (fun y => { y with reads := x.reads + 1, state := 5 }) s1
      if x.limit ≤ x.reads + 1 then rungAfter n x.rung s2 else if x.expired then unreadable n 6 s2 else s2

/-- The state in which an entry waits for the read it serves. -/
def waitState (x : JobEntry) : Nat := if x.reading = 1 then 2 else 1

/-- The failure of a first read: the ladder is entered at rung 1 or 2, at rung 2 on a read that follows one for which RECOV_MAX had no room;
or the slot is freed while RECOV_MAX are in recovery (R269, R272). -/
def enterLadder (n rung : Nat) (fold : Bool) (s : State) : State :=
  match decSlot s n with
  | none => s
  | some x =>
    let s1 := s.count Reg.SWEEP.FIRST_FAIL 1
    if s.fld Reg.SWEEP.SLOT_CFG 24 16 ≤ recovering s then
      modSweep (fun w => { w with rung2 := (x.oar, x.entry) :: w.rung2.filter (· ≠ (x.oar, x.entry)) })
        (modEntry x.oar x.entry (fun y => { y with state := waitState y }) (freeDec n s1))
    else
      let again := s.sweep.rung2.contains (x.oar, x.entry)
      let s2 := dropRung2 x.oar x.entry (modEntry x.oar x.entry (fun y => { y with state := 7 }) s1)
      let s3 := modDec n (fun y => { y with kind := 3, rung := 1, start := s.time, since := s.time, state := 4, iters := 0
                                            reads := 0, badLane := none }) s2
      if rung = 1 ∧ !again ∧ s.fld Reg.SWEEP.ITER_CFG 15 8 ≠ 0 then s3
      else readFailed n (rung == 1 || fold) s3

/-! ### The Oar takes an outcome (R242, R273, R293, R295) -/

/-- LBA_SEED of an entry's sector, and the usable offset of its host data (R285). -/
def entrySeed (x : JobEntry) : Nat := bodySeed x.body + x.index * blocksPer (bodyFmt x.body)
def entryDram (x : JobEntry) : Nat := bodyDram x.body + 64 * bodyStride x.body * x.index

/-- The trailer names the sector meant; for data also its LUN and LBA_SEED (R242). -/
def idMatches (o : Nat) (x : JobEntry) (p : List Byte) : Bool :=
  payloadMember p == memberOf o x.head && payloadTrack p == x.track && payloadSector p == x.sector
    && (payloadKind p != 0 || bodyKind x.body != 0
      || (if x.stored.isEmpty then payloadLun p == bodyLun x.body && payloadSeed p == entrySeed x
          else payloadLun p == payloadLun x.stored && payloadSeed p == payloadSeed x.stored))

/-- ID_MISMATCH (R242). -/
def idMismatch (o : Nat) (p : List Byte) (s : State) : State :=
  raise (Page.OAR o) 25 0 0 ⟨word (payloadMember p + payloadSector p * 65536), word (payloadTrack p), word (payloadKind p)⟩
    (s.count (Reg.OAR.ID_MISMATCH_COUNT o) 1)

/-- A good payload passes to its Oar: a CHECK ends; host data goes through the Crypto engine toward its landing (R245, R293). -/
def takePayload (o e : Nat) (p : List Byte) (s : State) : State :=
  match entry s o e with
  | none => s
  | some x =>
    let s1 := s.count (Reg.OAR.SECTORS_READ o) 1
    let s2 := if bodyConsEn x.body then
        { s1 with consumed := s1.consumed ++ [⟨bodyConsumer x.body, memberOf o x.head, x.home.1, x.home.2, p⟩] } else s1
    if x.ty = 3 then closeEntry o e 0 (if payloadPoison p &&& x.mask = 0 then s2 else markPoisoned o e s2)
    else if payloadEnc p && bodyKeyEn x.body then
      match slotKeys s (bodyKey x.body) with
      | none => closeEntry o e (if x.reading = 1 then 6 else 3) (keyEnded (bodyKey x.body) s2)
      | some k =>
        let r := xtsPass false k (payloadSeed p) (payloadLun p) (payloadHost p) s2
        modEntry o e (fun y => { y with state := 4, landing := some r.1, payload := p }) r.2
    else modEntry o e (fun y => { y with state := 4, landing := some (payloadHost p), payload := p }) s2

/-- A journal sector's write succeeded on its rewrite: JRNL_WRITE, code 0 copy A, 1 copy B (R370, R391). -/
def journalRewritten (o : Nat) (x : JobEntry) (s : State) : State :=
  if bodyKind x.body = 3 then transient Page.JRNL 0 (if s.critFld 15 4 0 = memberOf o x.head then 0 else 1) {} s else s

/-- A verify ends (R256, R257). -/
def verifyEnd (o e : Nat) (ok : Bool) (s : State) : State :=
  match entry s o e with
  | none => s
  | some x =>
    let pl : Payload := ⟨word x.track, word x.sector, 0#32⟩
    let s1 := s.count (Reg.OAR.VERIFY_COUNT o) 1
    if ok then closeEntry o e 0 (if x.verifyFails = 0 then s1 else journalRewritten o x (transient (Page.OAR o) 26 0 pl s1))
    else
      let s2 := s1.count (Reg.OAR.VERIFY_FAIL_COUNT o) 1
      if x.verifyFails = 0 then modEntry o e (fun y => { y with state := 8, verifyFails := 1, taken := true }) s2
      else closeEntry o e 2 (lasting (Page.OAR o) 26 0 pl s2)

/-- How a pass ends (R266). -/
inductive PassEnd where
  | decoded (p : List Byte)
  | crcFail
  | notConverged

def passEnd (converged : Bool) (bits : List Byte) : PassEnd :=
  if !converged then .notConverged
  else if payloadGood (bits.take 4352) then .decoded (bits.take 4352) else .crcFail

/-- Success at the slot's rung (R280). -/
def ladderSuccess (n : Nat) (x : DecSlot) (p : List Byte) (s : State) : State :=
  let s1 := transient Page.SWEEP 0 x.rung (decPayload x) (s.count (Reg.SWEEP.RUNG_OK (x.rung - 1)) 1)
  takePayload x.oar x.entry p (freeDec n s1)

/-- An outcome that the checker has accepted acts on its slot (R266, R272, R273, R274). -/
def actOnPass (n : Nat) (out : PassEnd) (s : State) : State :=
  match decSlot s n with
  | none => s
  | some x =>
    let idOk := fun p => match entry s x.oar x.entry with
      | some y => idMatches x.oar y p
      | none => false
    let s := match out with
      | .crcFail => raise Page.SWEEP 2 0 0 (decPayload x) (s.count Reg.SWEEP.CRC_FAIL_COUNT 1)
      | _ => s
    if x.kind = 1 then
      (modEntry x.oar x.entry (fun y => { y with state := 5 }) (freeDec n s)).count (Reg.OAR.REREAD_COUNT x.oar) 1
    else if x.kind = 2 then
      match out with
      | .decoded p =>
        let same := (entry s x.oar x.entry).any fun y => payloadCrc p == y.crc && payloadSeq p == bodySeq y.body
        verifyEnd x.oar x.entry (idOk p && same) (if idOk p then freeDec n s else idMismatch x.oar p (freeDec n s))
      | _ => verifyEnd x.oar x.entry false (freeDec n s)
    else if x.kind = 0 then
      match out with
      | .decoded p => if idOk p then takePayload x.oar x.entry p (freeDec n s) else enterLadder n 2 false (idMismatch x.oar p s)
      | .crcFail => enterLadder n 2 true s
      | .notConverged => enterLadder n 1 true s
    else
      match out with
      | .decoded p => if idOk p then ladderSuccess n x p s else readFailed n (decide (x.rung ≤ 2)) (idMismatch x.oar p s)
      | .crcFail => readFailed n (decide (x.rung ≤ 2)) s
      | .notConverged =>
        if x.iters < s.fld Reg.SWEEP.ITER_CFG 15 8 then
          (if x.expired then unreadable n 6 s else modDec n (fun y => { y with state := 4, since := s.time }) s)
        else readFailed n (decide (x.rung ≤ 2)) s

end Sys2Proof.Machine
end

