-- ==== Sys2Proof/Machine/PassageOps.lean ====
section
/-! DEFINITION. Passages of a sector under the head: how one begins and ends, staging and write gate
(R32, R232 to R236, R246 to R249, R269, R290 to R301, R475). A passage that has begun ends when the Oar begins another, when its
track job ends, or when a lane asks for work (log entry 16). -/

namespace Sys2Proof.Machine

/-- The pin condition PWR_FAIL (R465). -/
def pwrFailing (s : State) : Bool := s.bit Reg.PWR.PWR_STATUS 0

/-- The engine code of an Oar, and whether it runs. -/
def oarRuns (s : State) (o : Nat) : Bool := decide (o < 16) && engineRuns s (0x10 + o)

/-- The event of a wait, at the first after 1 ms without one. -/
def quietFor1ms (last : Option Nat) (s : State) : Bool :=
  match last with
  | some t => decide (t + 1000000 ≤ s.time)
  | none => true

/-! ### Reads -/

/-- Slots that stream `o` holds. -/
def streamSlots (s : State) (o : Nat) : Nat := ((usedDec s).filter fun e => e.2.oar == o).length

/-- A decoder slot for stream `o`: within its reserve, or among the shared ones (R269). -/
def slotFor (s : State) (o : Nat) : Option Nat :=
  let res := s.fld Reg.SWEEP.SLOT_CFG 4 0
  let streams := (List.range 16).filter fun x => actuatorUp s (oarAct x)
  let sharedUsed := (List.range 16).foldl (fun t x => t + (streamSlots s x - res)) 0
  if streamSlots s o < res ∨ sharedUsed < 512 - res * streams.length then
    (List.range 512).find? fun n => (decSlot s n).isNone
  else none

/-- A read deferred for want of a slot (R269). -/
def slotSlip (o : Nat) (x : JobEntry) (s : State) : State :=
  let s1 := s.count Reg.SWEEP.SLOT_SLIP_COUNT 1
  let s2 := if quietFor1ms (oar s o).slipTime s then
      raise Page.SWEEP 4 0 0 ⟨word o, word x.track, word x.sector⟩ s1 else s1
  modOar o (fun r => { r with slipTime := some s.time }) s2

/-- A sector let pass because it was not staged or its credit not held in time (R293, R294). -/
def stageLate (o : Nat) (s : State) : State :=
  let s1 := s.count (Reg.OAR.STAGE_LATE_COUNT o) 1
  let s2 := if quietFor1ms (oar s o).lateTime s then raise (Page.OAR o) 11 0 0 {} s1 else s1
  modOar o (fun r => { r with lateTime := some s.time }) s2

/-- The spindle's speed is within 1 % of the zone table's (R254). -/
def speedOk (s : State) (a : Nat) : Bool :=
  let rpm := zoneHeaderRpm s a * 65536
  decide (keelSpeed s * 100 ≤ rpm * 101) && decide (rpm * 99 ≤ keelSpeed s * 100)

/-- A sector read now is marked for re-read (R30, R188, R254). -/
def readMarked (s : State) (o : Nat) : Bool :=
  !keelLocked s || (rudSlot s (oarAct o) (oarSlot o)).readOff || !speedOk s (oarAct o)

/-- A gain in 0.25 dB: 0 to 36 dB (R226). -/
def gainOf (g : Nat) : Nat := min 144 g

/-- The zone's settings are applied at the preamble of the first sector of a track job (R226). -/
def applyZone (o : Nat) (x : JobEntry) (s : State) : State :=
  if (oar s o).job.all TrackJob.tuned then s
  else
    let z := zoneEntry s (oarAct o) x.head x.zone
    let g := gainOf (zVgaInit z)
    setRate o ((modOar o (fun r => { r with settings := z, gains := (g, g)
                                            job := r.job.map fun j => { j with tuned := true } }) s).setFld
      (Reg.OAR.FE_STATUS o) 13 8 x.zone)

/-- A shift of the baseline is a thermal asperity (R235). -/
def isAsperity (s : State) (o shift : Nat) : Bool := s.bit (Reg.OAR.FE_CTRL o) 3 && decide (s.fld (Reg.OAR.TA_CFG o) 6 0 < shift)

/-- Timing recovery is lost: the phase error stays above a quarter of a bit for 256 bits (R233). -/
def timingLost (p : ReadPass) : Bool := decide (256 ≤ p.slip.2)

/-- Codeword bit `i` is erased: from an asperity to TA_HOLD bits after the baseline has returned, or once timing is lost (R233, R235). -/
def bitErased (s : State) (o : Nat) (p : ReadPass) (i : Nat) : Bool :=
  (p.shifts.any fun b =>
    isAsperity s o b.shift && decide (b.first ≤ i) && decide (i ≤ b.back + s.fld (Reg.OAR.TA_CFG o) 15 8))
    || (timingLost p && decide (p.slip.1 + 256 ≤ i))

/-- The raw samples of the codeword's bits; a bit for which none has come is erased (R234, R235). -/
def rawSamples (s : State) (o : Nat) (p : ReadPass) : List RawSample :=
  let got := (p.samples.take 38912).zipIdx.map fun x => (⟨x.1.raw0, x.1.raw1, bitErased s o p x.2⟩ : RawSample)
  got ++ List.replicate (38912 - got.length) ⟨0, 0, true⟩

/-- The equaliser in use: the taps of the two filters in 2^-24, and the samples that stand in them, newest first (R233). -/
structure Equaliser where
  taps0 : List Int
  taps1 : List Int
  past : List (Int × Int)

/-- The tap set of actuator-local head `h`. -/
def tapSet (s : State) (o h : Nat) : Equaliser :=
  let row := fun r => (List.range 16).map fun t => SMap.get centreTap (oar s o).taps (32 * h + 16 * r + t)
  ⟨row 0, row 1, []⟩

/-- A sample enters the filters. -/
def Equaliser.shift (q : Equaliser) (x : Int × Int) : Equaliser := { q with past := (x :: q.past).take 16 }

/-- The outputs of the two filters, in 2^-24 LSB. -/
def Equaliser.out (q : Equaliser) : Int × Int :=
  ((List.zipWith (fun t x => t * x.1) q.taps0 q.past).sum, (List.zipWith (fun t x => t * x.2) q.taps1 q.past).sum)

/-- The taps move against an error with step `mu`, in 2^-16 (R233; log entry 150). -/
def Equaliser.adapt (mu error : Int) (q : Equaliser) : Equaliser :=
  let move := fun (t x : Int) => clampInt (-33554432) 33554431 (t - mu * error * x)
  { q with taps0 := List.zipWith (fun t x => move t x.1) q.taps0 (q.past ++ List.replicate 16 (0, 0))
           taps1 := List.zipWith (fun t x => move t x.2) q.taps1 (q.past ++ List.replicate 16 (0, 0)) }

/-- The outputs of the filters along a run of samples, adapting with step `mu` where it is given. -/
def Equaliser.run (mu : Option Int) : List EqSample → Equaliser → List (Int × Int) × Equaliser
  | [], q => ([], q)
  | x :: xs, q =>
    let q1 := q.shift (x.raw0, x.raw1)
    let r := Equaliser.run mu xs (match mu with
      | some m => q1.adapt m x.error
      | none => q1)
    (q1.out :: r.1, r.2)

/-- One equalised sample of reader weights `w0` and `w1` in quarters, 8 bits signed, the readers in use alone (R233, R234, R277; log entry
150). -/
def eqSample (s : State) (o : Nat) (w0 w1 : Int) (y : Int × Int) : Int :=
  let on := fun (b : Nat) (w x : Int) => if s.bit (Reg.OAR.FE_CTRL o) b then w * x else 0
  clampInt (-128) 127 (roundDiv (on 0 w0 y.1 + on 1 w1 y.2) (4 * 2 ^ 24))

/-- The randomiser removed: a sample of a bit that the sequence inverts changes its sign (R234, R238). -/
def derandomise (track sector : Nat) (ys : List (Option Int)) : List (Option Int) :=
  List.zipWith (fun b y => if b then y.map fun v => clampInt (-128) 127 (-v) else y) (randomSeq 38912 (randomSeed track sector)) ys

/-- The samples of a codeword as they are handed to Sweep (R233 to R235, R277). -/
def equalised (s : State) (o : Nat) (x : JobEntry) (w0 w1 : Int) (raws : List RawSample) (outs : List (Int × Int)) : List (Option Int) :=
  derandomise x.track x.sector (List.zipWith (fun r y => if r.erased then none else some (eqSample s o w0 w1 y)) raws outs)

/-- Adaptation step of the zone in force, while ADAPT_EN is 1. -/
def eqStep (s : State) (o : Nat) : Option Int :=
  if s.bit (Reg.OAR.FE_CTRL o) 2 then some (zEqMu (oar s o).settings) else none

/-- The filters along the preamble and the codeword of a passage: their outputs for the codeword, and the taps left (R233). -/
def equalise (s : State) (o : Nat) (x : JobEntry) (p : ReadPass) (raws : List RawSample) : List (Int × Int) × Equaliser :=
  let q := (Equaliser.run (eqStep s o) p.preamble (tapSet s o x.head)).2
  Equaliser.run (eqStep s o) (List.zipWith (fun r e => ⟨r.raw0, r.raw1, e⟩) raws
    ((p.samples.take 38912).map EqSample.error ++ List.replicate (38912 - p.samples.length) 0)) q

/-- Samples of an entry equalised anew with weights `w0` and `w1`, the head's tap set unchanged (R277). -/
def reequalised (s : State) (o : Nat) (x : JobEntry) (w0 w1 : Int) (raws : List RawSample) : List (Option Int) :=
  equalised s o x w0 w1 raws (Equaliser.run none (raws.map fun r => ⟨r.raw0, r.raw1, 0⟩) (tapSet s o x.head)).1

/-- The taps as adapted become the head's set. -/
def keepTaps (o h : Nat) (q : Equaliser) (s : State) : State :=
  modOar o (fun r => { r with taps := ((q.taps0 ++ q.taps1).zipIdx).foldl (fun m t => SMap.set centreTap m (32 * h + t.2) t.1) r.taps }) s

/-- The raw samples of an entry go into one of the two raw buffers (R234, R277). -/
def keepRaw (o e : Nat) (fs : List RawSample) (s : State) : State :=
  modOar o (fun r =>
    { r with raws := match r.rawHeld.bind fun h => r.raws.find? (·.1 == h) with
        | some h => if h.1 = e then [(e, fs)] else [(e, fs), h]
        | none => ((e, fs) :: r.raws.filter (·.1 ≠ e)).take 2 }) s

/-- What the front end shows of a passage: gains, timing lock, asperities and loss of timing (R226, R233, R235). -/
def frontEnd (o : Nat) (x : JobEntry) (p : ReadPass) (found : Bool) (s : State) : State :=
  let g := (gainOf p.gain0, gainOf p.gain1)
  let s1 := ((modOar o (fun r => { r with gains := g }) s).setReg (Reg.OAR.VGA o) (word (g.1 + g.2 * 256))).setBit (Reg.OAR.FE_STATUS o) 18
    (found && !timingLost p)
  let s2 := ((p.syncs.map SyncSearch.shift ++ p.shifts.map Baseline.shift).filter (isAsperity s o)).foldl (fun t _ =>
    raise (Page.OAR o) 24 0 0 ⟨word x.sector, 0#32, 0#32⟩ (t.count (Reg.OAR.TA_COUNT o) 1)) s1
  if found && timingLost p then raise (Page.OAR o) 29 0 0 ⟨word x.sector, 0#32, 0#32⟩ s2 else s2

/-- A sync mark is accepted: few enough bits differ, within the window, and no asperity meets the search (R232, R235). -/
def syncAccepted (s : State) (o : Nat) (d : SyncSearch) : Bool :=
  decide (d.errors ≤ s.fld (Reg.OAR.SYNC_CFG o) 3 0) && decide (d.offset.natAbs ≤ s.fld (Reg.OAR.SYNC_CFG o) 15 8) && !isAsperity s o d.shift

/-- Every sync mark of the sector is accepted (R232). -/
def syncFound (s : State) (o : Nat) (x : JobEntry) (p : ReadPass) : Bool :=
  let a := oarAct o
  (List.range (syncMarks (zoneHeaderRpm s a) (zoneServoNs s a) (zoneEntry s a x.head x.zone) x.track x.sector)).all fun i =>
    p.syncs[i]?.any (syncAccepted s o)

/-- The offset of rung-3 read `reads` for the rung's step, 1/4,096 track (R274, R276). -/
def ladderOffset (step : Int) (reads : Nat) : Int :=
  if reads = 0 then step else if reads = 1 then -step else if reads = 2 then 2 * step else -2 * step

/-- The target of the Oar's slot moves for a rung-3 read (R276). -/
def offsetSlot (o : Nat) (d : Int) (s : State) : State :=
  modOar o (fun r => { r with shift := r.shift + d })
    (modSlot (oarAct o) (oarSlot o) (fun r => { r with target := r.target + d, disp := r.disp + d }) s)

/-- The target moves back after the read, whatever has become of its ladder. -/
def offsetBack (o : Nat) (s : State) : State := if (oar s o).shift = 0 then s else offsetSlot o (-(oar s o).shift) s

/-- The samples of a passage enter slot `n`. -/
def fillSlot (o e n : Nat) (x : JobEntry) (p : ReadPass) (s : State) : State :=
  let found := syncFound s o x p
  let raws := rawSamples s o p
  let s1 := frontEnd o x p found (applyZone o x (if found then s else s.count (Reg.OAR.SYNC_MISS_COUNT o) 1))
  let r := equalise s1 o x p raws
  let s2 := modDec n (fun d =>
      { d with state := 1, syncMiss := !found, target := zTarget (oar s1 o).settings, cur := equalised s1 o x 4 4 raws r.1 })
    (keepRaw o e raws (if (eqStep s1 o).isSome then keepTaps o x.head r.2 s1 else s1))
  let s3 := modOar o (fun r => { r with passage := some (e, false) }) s2
  modEntry o e (fun y => { y with state := 4 }) (s3.mark Reg.SWEEP.SLOT_HWM 9 0 (usedDec s3).length)

/-- A first, marked, verify or rung-2 read takes a new slot and begins; the mark for rung 2 stands while RECOV_MAX slots are in recovery
(R269). -/
def startRead (o e kind : Nat) (x : JobEntry) (p : ReadPass) (s : State) : State :=
  match slotFor s o with
  | none => slotSlip o x s
  | some n =>
    let ladder := kind == 0 && s.sweep.rung2.contains (o, e) && decide (recovering s < s.fld Reg.SWEEP.SLOT_CFG 24 16)
    let d : DecSlot :=
      { state := 1, oar := o, entry := e, track := x.track, sector := x.sector, kind := if ladder then 3 else kind
        marked := kind == 1, syncMiss := false, rung := if ladder then 2 else 0, reads := 0
        limit := max 1 (s.fld Reg.SWEEP.RECOV_CFG 3 0), step := s.fld Reg.SWEEP.RECOV_CFG 19 8, requal := 0, iters := 0, start := s.time, expired := false
        since := s.time, badLane := none, target := 0, cur := [], sums := [], decoder := Decoder.fresh }
    let s1 := if ladder then dropRung2 o e (setDec n (some d) s) else setDec n (some d) s
    fillSlot o e n x p (modEntry o e (fun y => { y with slot := some n, marked := kind == 1 }) s1)

/-- What the entry needs has been there for SETUP × 100 ns (R293, R294). -/
def setBefore (s : State) (o : Nat) (x : JobEntry) : Bool := decide (x.ready + s.fld (Reg.OAR.JOB_CFG o) 23 16 * 100 ≤ s.time)

/-- The buffer-transaction credit of a read that lands is held in time (R293). -/
def creditHeld (s : State) (o : Nat) (x : JobEntry) : Bool := x.ty == 3 || x.reading == 2 || (x.credit && setBefore s o x)

/-- A ladder read in slot `n`: an offset beyond the stroke counts as failed; rung 4 holds the raw samples (R276, R277). -/
def startLadderRead (o e n : Nat) (x : JobEntry) (d : DecSlot) (p : ReadPass) (s : State) : State :=
  let off := ladderOffset d.step d.reads
  let s1 := modEntry o e (fun y => { y with taken := true }) s
  if d.rung = 3 ∧ stroke48 < ((rudSlot s (oarAct o) (oarSlot o)).disp + off).natAbs then readFailed n false s1
  else
    let s2 := if d.rung = 3 then offsetSlot o off s1 else s1
    let s3 := if d.rung = 4 then modOar o (fun r => { r with rawHeld := some e }) s2 else s2
    fillSlot o e n x p s3

/-- The end of a read passage: the last sample has arrived (R268), or the samples are dropped (R281). -/
def endReadPassage (o e : Nat) (s : State) : State :=
  let s0 := offsetBack o (modOar o (fun r => { r with passage := none }) s)
  match (entry s o e).bind JobEntry.slot with
  | none => s0
  | some n =>
    match decSlot s n with
    | none => s0
    | some d =>
      let arrived := modDec n (fun y => { y with state := 2, since := s.time }) s0
      if d.kind = 3 then
        let s2 := modEntry o e (fun y => { y with state := 7 }) s0
        if d.marked ∧ d.expired then unreadable n 6 s2
        else if d.marked then
          modDec n (fun y => { y with state := 5, marked := false, cur := [] }) (modEntry o e (fun y => { y with taken := false }) s2)
        else if d.syncMiss then
          (if d.rung = 4 then rungAfter n 4 (modDec n (fun y => { y with cur := [] }) s2) else readFailed n false s2)
        else if d.rung = 4 then modDec n (fun y => { y with state := 1, cur := [] }) s2
        else modDec n (fun y => { y with state := 2, since := s.time }) s2
      else if d.kind = 2 then
        if d.marked then freeDec n (modEntry o e (fun y => { y with state := 8, taken := false }) s0)
        else if d.syncMiss then verifyEnd o e false (freeDec n s0)
        else arrived
      else if d.marked then
        if d.syncMiss then
          (modEntry o e (fun y => { y with state := 5 }) (freeDec n s0)).count (Reg.OAR.REREAD_COUNT o) 1
        else modDec n (fun y => { y with kind := 1 }) arrived
      else if d.syncMiss then enterLadder n 2 false s0
      else arrived

/-! ### Writes -/

/-- The verify of R255 applies to a sector of member `m` in zone `z`. -/
def verifyApplies (s : State) (o : Nat) (x : JobEntry) : Bool :=
  x.verify || bodyVerify x.body || s.bit (Reg.OAR.VERIFY_CFG o) 0 || calForced s (memberOf o x.head) x.zone

/-- Write mode on the Oar's slot, on track, and every condition of R32 and R154. -/
def writeHolds (s : State) (o : Nat) : Bool :=
  let r := rudSlot s (oarAct o) (oarSlot o)
  r.used && r.write && r.onTrack && !r.wf && rudState s (oarAct o) == 3 && keelLocked s && !pwrFailing s
    && !(pre s (oarAct o)).hold && speedOk s (oarAct o)

/-- The writer lane of the Oar's slot: the lower of those that name it (R248). -/
def writerLane (s : State) (o : Nat) : Option Nat :=
  [0, 1].find? fun w => laneSlot s (oarAct o) w == some (oarSlot o)

/-- POISON bits of a sector's blocks from the poison of the granules they lie in (R78). -/
def poisonBits (x : JobEntry) (beats : List Beat) : Nat :=
  let sb := storedBlock (bodyFmt x.body) (bodyPi x.body)
  (List.range (blocksPer (bodyFmt x.body))).foldl (fun t j =>
    let g0 := j * sb / 64
    let g1 := ((j + 1) * sb + 63) / 64
    if (List.range (g1 - g0)).any fun i => ((beats[g0 + i]?).map Beat.poison).getD false then t + 2 ^ j else t) 0

/-- The host area without the bytes past its stored blocks (R243). -/
def hostArea (x : JobEntry) (bytes : List Byte) : List Byte :=
  let n := blocksPer (bodyFmt x.body) * storedBlock (bodyFmt x.body) (bodyPi x.body)
  bytes.take n ++ List.replicate (4224 - n) 0#8

/-- The payload of an entry's sector from DRAM (R78, R245, R246, R285), or the cause it ends with; a payload that the dump kept is written
as it stands (R479). -/
def assemblePayload (o : Nat) (x : JobEntry) (s : State) : Except Nat (List Byte) × State :=
  if !x.stored.isEmpty then (.ok x.stored, s) else
  let raw := bodyRebuilt x.body || bodyKind x.body != 0
  let r := readGranules true (0x10 + o) quiet (entryDram x / 64) (if raw then 67 else bodyStride x.body) s
  let bytes := r.1.flatMap Beat.data
  let finish := fun (host md : List Byte) =>
    assemble host md (bodyKind x.body) (memberOf o x.head) x.sector x.track
      (if bodyKind x.body = 1 ∨ bodyKind x.body = 2 then bodyStripe x.body else 0)
  if raw then (.ok (finish (bytes.take 4224) ((bytes.drop 4224).take 64)), r.2.2.2)
  else
    let host := hostArea x bytes
    let md := fun enc => metadata (entrySeed x) (bodySeq x.body) (bodyLun x.body) (bodyFmt x.body) (bodyPi x.body) enc (poisonBits x r.1)
    if bodyKeyEn x.body then
      match slotKeys s (bodyKey x.body) with
      | none => (.error 3, keyEnded (bodyKey x.body) s)
      | some k =>
        let c := xtsPass true k (entrySeed x) (bodyLun x.body) host r.2.2.2
        (.ok (finish c.1 (md true)), c.2)
    else (.ok (finish host (md false)), r.2.2.2)

/-- Entries of the Oar that are STAGED. -/
def stagedCount (s : State) (o : Nat) : Nat :=
  ((oar s o).entries.filter fun e => e.2.any fun x => x.state == 3).length

/-- A sector to be written is staged, up to STAGE_AHEAD of them, while a Crypto engine serves one that it needs (R294). -/
def stageEntry (o e : Nat) (s : State) : State :=
  match entry s o e with
  | none => s
  | some x =>
    if x.state = 3 ∨ s.fld (Reg.OAR.JOB_CFG o) 3 0 ≤ stagedCount s o ∨ (bodyKeyEn x.body && x.stored.isEmpty && (cryptoEngine s).isNone) then s
    else
      underCredit (.entry o e) (fun s => match assemblePayload o x s with
        | (.ok p, t) => modEntry o e (fun y => { y with state := 3, payload := p, ready := t.time }) t
        | (.error c, t) => closeEntry o e c t) s

/-- INFLIGHT_FULL, at the first wait after 1 ms without one (R475, R486). -/
def inflightFull (o : Nat) (s : State) : State :=
  let s1 := if quietFor1ms (oar s o).fullTime s then raise Page.SAFE 6 0 o {} s else s
  modOar o (fun r => { r with fullTime := some s.time }) s1

/-- A staged sector comes under the head: write gate rises when every condition holds and a list entry is free (R32, R296, R475). -/
def startWrite (o e : Nat) (s : State) : State :=
  match entry s o e with
  | none => s
  | some x =>
    if x.state ≠ 3 ∨ !setBefore s o x then stageLate o s
    else if !writeHolds s o then s
    else if bodyKeyEn x.body && (slotKeys s (bodyKey x.body)).isNone then closeEntry o e 3 (keyEnded (bodyKey x.body) s)
    else if calHard s (memberOf o x.head) x.zone then closeEntry o e 5 s
    else
      match writerLane s o, (match x.inflight with
        | some i => some i
        | none => inflightFree s o) with
      | none, _ => s
      | _, none => inflightFull o s
      | some w, some i =>
        let s1 := putInflight i (memberOf o x.head) x.track x.sector (bodySeq x.body) x.payload (applyZone o x s)
        let s2 := raiseGate o w s1
        modOar o (fun r => { r with passage := some (e, true) })
          (modEntry o e (fun y => { y with state := 4, inflight := some i }) s2)

/-- Times from a wedge start at the present speed, ns: the data field's start, and the next wedge's (R229, R253). -/
def fieldStart (s : State) (o : Nat) : Rat := mkRat (zoneServoNs s (oarAct o) * zoneHeaderRpm s (oarAct o) * 65536) (keelSpeed s)
def fieldEnd (s : State) : Rat := mkRat (60000000000 * 65536) (keelSpeed s * 640)

/-- What one fragment of a sector puts out (R237, R247, R249): write gate rises WG_LEAD_NS before its first bit, and falls WG_LAG_NS after
the last postamble bit, at the end of the data field at the latest; it falls there where a split follows. -/
def gatePulse (s : State) (o : Nat) (stream : List Bool) (f : Fragment) : GatePulse :=
  let z := (oar s o).settings
  let split := decide (0 < f.start)
  let bits := (if split then splitField z else []) ++ (stream.drop f.start).take f.len
  let pos := if split then 0 else f.pos
  let instant := fun n : Nat => fieldStart s o + 1000 * n / (oar s o).bitRate
  let stop := instant (pos + bits.length) + (s.fld (Reg.OAR.WG_CFG o) 13 8 : Nat)
  { wedge := f.wedge, pos := pos, bits := bits, late := precompensate z none 0 bits
    rise := instant pos - (s.fld (Reg.OAR.WG_CFG o) 5 0 : Nat)
    fall := if f.start + f.len < stream.length ∨ fieldEnd s < stop then fieldEnd s else stop }

/-- A sector as its writer lane puts it out (R237, R246, R247, R249). -/
def writtenSector (s : State) (o : Nat) (x : JobEntry) : WrittenSector :=
  let z := (oar s o).settings
  let stream := sectorStream z x.track x.sector x.payload
  let fs := fragments (zoneHeaderRpm s (oarAct o)) (zoneServoNs s (oarAct o)) z x.track x.sector
  ⟨x.track, x.sector, (fs.filter fun f => decide (f.start < stream.length)).map (gatePulse s o stream)⟩

/-- Write gate falls after the postamble of a sector written whole (R246, R255, R294, R296). -/
def endWritePassage (o e : Nat) (s : State) : State :=
  let s0 := dropGate o (modOar o (fun r => { r with passage := none }) s)
  match entry s o e with
  | none => s0
  | some x =>
    let s1 := match x.inflight with
      | some i => setInflight i 0#32 s0
      | none => s0
    let s2 := s1.count (Reg.OAR.SECTORS_WRITTEN o) 1
    let s3 := if x.wfCut then journalRewritten o x (transient (Page.OAR o) 3 0 ⟨word x.track, word x.sector, word e⟩ s2) else s2
    let s4 := if bodyConsEn x.body && decide (x.verifyFails = 0) then
        { s3 with consumed := s3.consumed ++ [⟨bodyConsumer x.body, memberOf o x.head, x.home.1, x.home.2, x.payload⟩] } else s3
    let s5 := modOar o (fun r => { r with written := some (writtenSector s o x) }) s4
    if verifyApplies s o x then
      modEntry o e (fun y => { y with state := 8, crc := payloadCrc x.payload, reading := 2, taken := false, inflight := none
                                      payload := [], wfCut := false }) s5
    else closeEntry o e 0 (modEntry o e (fun y => { y with inflight := none, crc := payloadCrc x.payload }) s5)

/-- Bi-phase symbols of an `n`-bit number, most significant bit first (R229; log entry 151). -/
def biphase (n x : Nat) : List Bool := (List.range n).flatMap fun i => [(Config.biphase (x.testBit (n - 1 - i))).1, (Config.biphase (x.testBit (n - 1 - i))).2]

/-- A null burst of phase 0 or 1 (R300). -/
def nullBurst (phase : Nat) : List Bool := repeatBits (if phase = 0 then [true, true, false, false] else [false, false, true, true]) 64

/-- The fields that pass `k` writes in wedge `w`, at the times of R229 scaled to the spindle's speed (R300). -/
def servoWedge (s : State) (k w : Nat) : ServoWedge :=
  let ns := fun n : Nat => mkRat (n * 7200 * 65536) (keelSpeed s)
  ⟨w, [(ns 40, ns 200, twoT 80), (ns 200, ns 232, bitsOf [0x0B#8, 0x3D#8]), (ns 232, ns 272, biphase 10 w),
       (ns 272, ns 368, biphase 24 (grayCode ((k + 1) / 2))), (ns 368, ns 496, nullBurst (k / 2 % 2)),
       (ns 496, ns 624, nullBurst ((k + 1) / 2 % 2))]⟩

/-- Write gate falls at the end of N2 of a servo wedge of pass `k` (R300, R301). -/
def endServoWedge (o w k : Nat) (s : State) : State :=
  dropGate o (modOar o (fun r => { r with passage := none, servo := some (servoWedge s k w)
                                          job := r.job.map fun j => { j with wedges := w :: j.wedges.filter (· ≠ w) } }) s)

/-- The passage in progress ends. -/
def passageEnd (o : Nat) (s : State) : State :=
  match (oar s o).passage with
  | none => s
  | some (e, false) => endReadPassage o e s
  | some (e, true) => if servoJob s o then endServoWedge o e (((oar s o).job.map jobTrack).getD 0) s else endWritePassage o e s

/-- Every read passage in progress ends. -/
def readsArrive (s : State) : State :=
  (List.range 16).foldl (fun t o => if ((oar t o).passage).any (fun p => !p.2) then passageEnd o t else t) s

end Sys2Proof.Machine
end

