-- ==== Sys2Proof/Machine/GateOps.lean ====
section
/-! DEFINITION. Gate: the admission pool, track jobs, groups, and the completions it takes (R156, R284 to R288, R299, R437 to R445). -/

namespace Sys2Proof.Machine

/-! ### Access -/

def findRun (s : State) (a id : Nat) : Option Run := (gate s a).runs.find? (·.id == id)

def setGateMap (a k e : Nat) (x : Option (Nat × Nat × Bool)) (s : State) : State :=
  modGate a (fun g => { g with map := SMap.set (fun _ => none) g.map (2048 * k + e) x }) s

/-- Fields of a run packet (R284). -/
def runMember (ws : List Word) : Nat := fld (ws.getD 1 0#32) 4 0
def runCount (ws : List Word) : Nat := fld (ws.getD 1 0#32) 16 8
def runTrack (ws : List Word) : Nat := fld (ws.getD 2 0#32) 23 0
def runSector (ws : List Word) : Nat := fld (ws.getD 3 0#32) 9 0
def runBody (ws : List Word) : List Word := ws.drop 5

/-- Class of a run (R444): the fast path 0, a core 1, a Crew engine as its CLASS field says. -/
def runClass (port : Nat) (ws : List Word) : Nat :=
  if 0x24 ≤ port ∧ port < 0x2C then fld (ws.getD 1 0#32) 21 20 else if 0x10 ≤ port then 0 else 1

/-- Sector-job credits of class `c` held in actuator `a`'s pool. -/
def sectorHeld (s : State) (a c : Nat) : Nat := SMap.get (fun _ => 0) (gate s a).held c

def setSectorHeld (a c n : Nat) (s : State) : State :=
  modGate a (fun g => { g with held := SMap.set (fun _ => 0) g.held c n }) s

/-- The run's owner is reached over a return path: the fast path or a microcoded engine (R442). -/
def ownerMicrocoded (ws : List Word) : Bool := decide (0x10 ≤ bodyOwner (runBody ws))

/-- A packet on the owner's return path. -/
def sendBack (owner : Nat) (ws : List Word) (s : State) : State := { s with returned := s.returned ++ [⟨owner, ws⟩] }

/-- A sector job of a run ends with `cause`, 0 for good; its credit returns (R442). -/
def sectorEnded (a id idx cause : Nat) (s : State) : State :=
  match findRun s a id with
  | none => s
  | some r =>
    let s1 := setSectorHeld a r.cls (sectorHeld s a r.cls - 1) s
    modRun a id (fun r =>
      { r with ended := r.ended + 1, lastings := if cause = 0 then r.lastings else r.lastings + 1
               first := if cause = 0 then r.first else match r.first with
                 | some (i, c) => if idx < i then some (idx, cause) else some (i, c)
                 | none => some (idx, cause) }) s1

def gateQ (a : Nat) : QueueId := .gate (BitVec.ofNat 2 a).toFin

/-- Words 1 and 2 of RUN_END (R442). -/
def runEndWords (status lastings first cause : Nat) : Word × Word :=
  (word (status + lastings * 65536), word (first % 512 + cause * 4096))

/-- The outcome of a run goes to its owner (R442). -/
def reportRun (a : Nat) (ws : List Word) (status lastings first cause : Nat) (s : State) : State :=
  let w := runEndWords status lastings first cause
  if ownerMicrocoded ws then sendBack (bodyOwner (runBody ws)) [pktHeader 3 0 false 0x84 (pktTag ws), w.1, w.2] s
  else raise (Page.GATE a) 0 0 (pktTag ws) ⟨w.1, w.2, 0#32⟩ s

/-! ### Completions from an Oar (R291, R442) -/

/-- A SECTOR packet: a sector that ended, or one that passes to Gate. -/
def takeSector (a k : Nat) (ws : List Word) (s : State) : State :=
  let e := fld (ws.getD 1 0#32) 10 0
  let st := fld (ws.getD 1 0#32) 19 16
  let cause := fld (ws.getD 1 0#32) 27 24
  match gateMap s a k e with
  | none => s
  | some (id, idx, _) =>
    if st = 10 then
      let s1 := match findRun s a id with
        | some r => if cause ≠ 0 && ownerMicrocoded r.words then sendBack (bodyOwner (runBody r.words)) ws s else s
        | none => s
      sectorEnded a id idx cause (setGateMap a k e none s1)
    else setGateMap a k e (some (id, idx, true)) s

/-- Each sector of the track job still with the Oar ends with `cause`. -/
def endJobSectors (a k cause : Nat) (j : Issued) (s : State) : State :=
  (jobEntries (asJob j.words)).foldl (fun t e =>
    match gateMap t a k e with
    | some (id, idx, false) => sectorEnded a id idx cause (setGateMap a k e none t)
    | _ => t) s

/-- JOB_END and REFUSED packets. -/
def takeJobEnd (a k cause : Nat) (ws : List Word) (s : State) : State :=
  match (gate s a).issued.find? (fun j => j.slot == k && j.tag == pktTag ws) with
  | none => s
  | some j => modGate a (fun g => { g with issued := g.issued.erase j }) (endJobSectors a k cause j s)

def takeCompletion (a k : Nat) (ws : List Word) (s : State) : State :=
  if pktType ws = 0x82 then takeSector a k ws s
  else if pktType ws = 0x81 then takeJobEnd a k 0 ws s
  else if pktType ws = 0x83 then takeJobEnd a k 10 ws s
  else s

/-- Take every completion of slot `k`. -/
def drainSlot (a k : Nat) : Nat → State → State
  | 0, s => s
  | n + 1, s =>
    match qNext (oarDoneQ (4 * a + k)) s with
    | none => s
    | some (it, t) => drainSlot a k n (takeCompletion a k it.words (flushOar (4 * a + k) t))

/-- A completion packet lost to a queue in fault or to a flush: the sector or the job ends with cause ENDED (R92, R99). -/
def endCompletion (o : Nat) (ws : List Word) (s : State) : State :=
  let a := oarAct o
  let k := oarSlot o
  if pktType ws = 0x82 then
    if fld (ws.getD 1 0#32) 19 16 = 10 then takeSector a k (ws.set 1 (Sys2Proof.setFld (ws.getD 1 0#32) 27 24 8)) s
    else endSector o (fld (ws.getD 1 0#32) 10 0) 8 s
  else if pktType ws = 0x81 ∨ pktType ws = 0x83 then takeJobEnd a k 8 ws s
  else s

/-- The completions that slot `k`'s queue refused with FAULT end (R92). -/
def endRefused (a k : Nat) (s : State) : State :=
  (oar s (4 * a + k)).refused.foldl (fun t ws => endCompletion (4 * a + k) ws t) (modOar (4 * a + k) (fun r => { r with refused := [] }) s)

def gateDrain (a : Nat) (s : State) : State :=
  (List.range 4).foldl (fun t k => endRefused a k (drainSlot a k 4096 t)) s

/-! ### Placing the sectors of a run (R284) -/

/-- The place of the `i`-th sector from (track, sector) of head `h`; `fuel` bounds the tracks crossed. -/
def runPlace (s : State) (a h : Nat) : Nat → Nat → Nat → Nat → Nat × Nat
  | 0, t, sec, _ => (t, sec)
  | f + 1, t, sec, i =>
    let n := zSectors (zoneEntry s a h (zoneOfTrack a h t s))
    if sec + i < n then (t, sec + i) else runPlace s a h f (t + 1) 0 (i - (n - sec))

/-- The job body rewritten for a job whose first sector is `idx` and which holds `n` sectors (R287). -/
def bodyFor (ws : List Word) (idx n : Nat) : List Word :=
  let b := runBody ws
  let seed := bodySeed b + idx * blocksPer (bodyFmt b)
  let dram := bodyDram b + 64 * bodyStride b * idx
  let masks := Sys2Proof.setFld (Sys2Proof.setFld (b.getD 7 0#32) 7 0 (jobMask b (bodyMask b idx (runCount ws)))) 15 8
    (jobMask b (bodyMask b (idx + n - 1) (runCount ws)))
  [loWord seed, hiWord seed, loWord dram, Sys2Proof.setFld (b.getD 3 0#32) 7 0 (dram / 2 ^ 32)] ++ (b.drop 4).take 3
    ++ [masks] ++ b.drop 8

/-- A track job descriptor (R287). -/
def jobWords (ty prio tag head zone track first count base : Nat) (spare : Bool) (body : List Word) : List Word :=
  [pktHeader 16 prio false ty tag, word (head + zone * 256), word track, word (first + count * 65536),
   word (base + if spare then 65536 else 0)] ++ body

/-! ### Groups (R156, R182, R440) -/

/-- The first track job of slot `k` that has not ended. -/
def slotJob (s : State) (a k : Nat) : Option Issued := (gate s a).issued.find? (·.slot == k)

/-- The Oar of slot `k` has a track job in progress. -/
def slotBusy (s : State) (a k : Nat) : Bool := (oar s (4 * a + k)).job.isSome

/-- A write job whose sectors are not all whole begins in read mode (R295). -/
def jobPartial (ws : List Word) : Bool :=
  let b := ws.drop 5
  !((List.range (fld (ws.getD 3 0#32) 25 16)).all fun i => maskWhole b (bodyMask b i (fld (ws.getD 3 0#32) 25 16)))

/-- The slot is to be in write mode for its first job. -/
def jobWrites (s : State) (a k : Nat) (j : Issued) : Bool :=
  pktType j.words == 2 && (!jobPartial j.words || (oar s (4 * a + k)).job.any fun x => x.wantWrite && jobTag x == j.tag)

def groupSlotOf (s : State) (a k : Nat) (j : Issued) : GroupSlot :=
  { head := fld (j.words.getD 1 0#32) 2 0, centre := 4096 * fld (j.words.getD 2 0#32) 23 0, write := jobWrites s a k j
    zone := fld (j.words.getD 1 0#32) 13 8 }

/-- The job of slot `k` writes, now or once its fill reads are over. -/
def slotWrites (s : State) (a k : Nat) : Bool := (slotJob s a k).any fun j => pktType j.words == 2

/-- Head `h` with nominal track `t` may stand in a group beside the slots of `others` (R440): a head once, SPAN, MAX_HEADS, two that write, and
no wider span while one writes; `relax` leaves the last out. -/
def mayJoin (s : State) (a h t : Nat) (write relax : Bool) (others : List (Nat × GroupSlot)) : Bool :=
  let ts := t :: others.map (·.2.centre / 4096)
  let span := ts.foldl max 0 - ts.foldl min t
  let now := ((gate s a).group.filterMap id).map (·.centre / 4096)
  let spanNow := now.foldl max 0 - now.foldl min (now.headD 0)
  let writing := others.any fun x => x.2.write && slotBusy s a x.1
  !(others.any fun x => x.2.head == h) && decide (span ≤ s.fld (Reg.GATE.GROUP_CFG a) 7 0)
    && decide (others.length + 1 ≤ s.fld (Reg.GATE.GROUP_CFG a) 10 8)
    && (!write || decide ((others.filter fun x => slotWrites s a x.1).length + 1 ≤ 2))
    && (relax || !writing || decide (span ≤ spanNow))

/-- The slots in the order in which they join a group: those with a job in progress, then the others as their jobs were issued. -/
def slotOrder (s : State) (a : Nat) : List Nat :=
  (List.range 4).filter (slotBusy s a) ++
    (gate s a).issued.filterMap fun j => if !slotBusy s a j.slot && slotJob s a j.slot == some j then some j.slot else none

/-- Slot `k` joins the group formed so far, where it may. -/
def joinSlot (s : State) (a : Nat) (g : List (Nat × GroupSlot)) (k : Nat) : List (Nat × GroupSlot) :=
  match slotJob s a k with
  | none => g
  | some j =>
    let x := groupSlotOf s a k j
    if !(gate s a).left.contains k && (slotBusy s a k || mayJoin s a x.head (x.centre / 4096) (slotWrites s a k) false g) then g ++ [(k, x)]
    else g

/-- The group that the first jobs of the slots ask for within the limits of R440, without the slots left out. -/
def wantedGroup (s : State) (a : Nat) : List (Option GroupSlot) :=
  let g := (slotOrder s a).foldl (joinSlot s a) []
  (List.range 4).map fun k => (g.find? (·.1 == k)).map Prod.snd

/-- Rudder has driven the slot's third-stage output to zero, and its Oar holds no job in progress (R156). -/
def slotClear (s : State) (a k : Nat) : Bool :=
  SMap.get (fun _ => 0) s.rigger.third (4 * a + k) == 0 && (rudDrive s a).third.getD k 0 == 0 && !slotBusy s a k

/-- Slot `k` is to hold head `h` in zone `z`: its frame once the slot is clear, and the levels that differ (R155, R156, R166). -/
def placeHead (a k h z : Nat) (s : State) : State :=
  let there := slotOn s a k && slotHead s a k == h
  if !there && !slotClear s a k then s
  else
    let s1 := if there then s else preUrgent a (rslotFrame k h true) s
    preLevels a h (calLevels s1 (6 * a + h) z (calRecordOf s1 (4 * a + k) (6 * a + h) z)) s1

/-- Gate sets WSLOT0 and WSLOT1 for the slots that write; a lane is retargeted while its WGATE is low, and never to a failed head (R154,
R156, R440). -/
def placeWriters (a : Nat) (ks : List Nat) (s : State) : State :=
  let keep := [0, 1].filter fun w => (laneSlot s a w).any ks.contains
  let missing := ks.filter fun k => !keep.any fun w => laneSlot s a w == some k
  (([0, 1].filter fun w => !keep.contains w && !laneGated s a w).zip missing).foldl (fun t x => preUrgent a (wslotFrame x.1 x.2 true) t) s

/-- The slots of Gate's group that are not yet as it wants them are changed where they may be. -/
def placeGroup (a : Nat) (s : State) : State :=
  let g := (gate s a).group
  let s1 := (g.zipIdx).foldl (fun t x => match x.1 with
    | some y => placeHead a x.2 y.head y.zone t
    | none => t) s
  let ks := (g.zipIdx).filterMap fun x => match x.1 with
    | some y => if (slotJob s a x.2).any (fun j => pktType j.words == 2) && !headFailed s a y.head then some x.2 else none
    | none => none
  placeWriters a (ks.take 2) s1

/-- Slot `k` does not yet hold the head that Gate's group has for it. -/
def slotPlacing (s : State) (a k : Nat) : Bool :=
  ((gate s a).group.getD k none).any fun y => !(slotOn s a k && slotHead s a k == y.head)

/-- The slot whose head joins group `g` last, where a head does. -/
def addedSlot (s : State) (a : Nat) (g : List (Option GroupSlot)) : Option Nat :=
  ((slotOrder s a).filter fun k => !slotBusy s a k && (g.getD k none).isSome && g.getD k none != (gate s a).group.getD k none).getLast?

/-- What Gate offers of group `g`: nothing where it holds no head. -/
def offerOf (g : List (Option GroupSlot)) : Option (List (Option GroupSlot)) := if g.all Option.isNone then none else some g

/-- Gate forms the group anew and offers it to Rudder, and changes slots; a group without a head is not offered. -/
def formGroup (a : Nat) (s : State) : State :=
  let g := wantedGroup s a
  placeGroup a (if g = (gate s a).group then s
    else modGate a (fun r => { r with group := g, offer := offerOf g
                                      lastAdded := (addedSlot s a g).or r.lastAdded }) s)

/-! ### Jobs that return to the pool, or end (R440, R443) -/

/-- The sectors `idx` to `idx + n - 1` of a run wait again, in order. -/
def todoBack (idx n : Nat) : List (Nat × Nat) → List (Nat × Nat)
  | [] => [(idx, n)]
  | x :: xs => if idx < x.1 then (idx, n) :: x :: xs else x :: todoBack idx n xs

/-- Entry `e` of slot `k` leaves Gate's map and its sector waits again. -/
def reissueEntry (a k e : Nat) (s : State) : State :=
  match gateMap s a k e with
  | none => s
  | some (id, idx, _) => modRun a id (fun r => { r with todo := todoBack idx 1 r.todo }) (setGateMap a k e none s)

/-- The track job still stands in the Oar's queue. -/
def jobWaits (s : State) (a k : Nat) (j : Issued) : Bool := (hq s (oarJobQ (4 * a + k))).items.any fun it => it.words == j.words

/-- A track job leaves the Oar's queue before its start. -/
def withdrawJob (a k : Nat) (j : Issued) (s : State) : State :=
  let q := oarJobQ (4 * a + k)
  qNowEmpty q (qEvent q + 1) (modHq q (fun x => { x with items := x.items.filter fun it => it.words != j.words })
    (modGate a (fun g => { g with issued := g.issued.erase j }) s))

/-- A waiting track job returns to the pool: its FREE entries' sectors wait again, the others stay with Gate. -/
def returnJob (a k : Nat) (j : Issued) (s : State) : State :=
  (jobEntries (asJob j.words)).foldl (fun t e =>
    if (entry t (4 * a + k) e).isNone then reissueEntry a k e t
    else match gateMap t a k e with
      | some (id, idx, _) => setGateMap a k e (some (id, idx, true)) t
      | none => t) (withdrawJob a k j s)

/-- The waiting track jobs of slot `k`. -/
def waitingJobs (s : State) (a k : Nat) : List Issued := (gate s a).issued.filter fun j => j.slot == k && jobWaits s a k j

def returnSlot (a k : Nat) (s : State) : State := (waitingJobs s a k).foldl (fun t j => returnJob a k j t) s

/-- A track job that its Oar has not started ends lasting with cause ENDED. -/
def endIssued (a k : Nat) (s : State) (j : Issued) : State :=
  (jobEntries (asJob j.words)).foldl (fun u e =>
    let u1 := endSector (4 * a + k) e 8 u
    match gateMap u1 a k e with
    | some (id, idx, _) => if (entry u (4 * a + k) e).isNone then sectorEnded a id idx 8 (setGateMap a k e none u1) else u1
    | none => u1) (withdrawJob a k j s)

/-- Every job of slot `k` that its Oar has not started ends lasting with cause ENDED. -/
def endWaiting (a k : Nat) (s : State) : State := (waitingJobs s a k).foldl (endIssued a k) s

/-- What Rudder has reported acts on Gate (R440). -/
def takeNote (a : Nat) (s : State) (n : GateNote) : State :=
  match n with
  | .aborted => modGate a (fun g => { g with group := [], offer := none, unready := true }) ((List.range 4).foldl (fun t k => returnSlot a k t) s)
  | .lasting => modGate a (fun g => { g with group := [], offer := none }) ((List.range 4).foldl (fun t k => endWaiting a k t) s)
  | .superseded => modGate a (fun g => { g with offer := offerOf g.group }) s
  | .notReady => modGate a (fun g => { g with offer := offerOf g.group }) s
  | .ready => modGate a (fun g => { g with unready := false }) s
  | .refused =>
    match (gate s a).lastAdded with
    | none => s
    | some k => formGroup a (returnSlot a k (s.count (Reg.GATE.STROKE_RETRY_COUNT a) 1))
  | .clamped k => formGroup a (modGate a (fun g => { g with left := k :: g.left }) s)

def gateNotes (a : Nat) (s : State) : State :=
  (rud s a).notes.foldl (takeNote a) (modRud a (fun r => { r with notes := [] }) s)

/-- Gate catches up: completions, then Rudder's reports, then the group for the jobs now first. A slot left out returns once the rest of
the group has changed, or has gone. -/
def gateSettle (a : Nat) (s : State) : State :=
  let s1 := gateNotes a (gateDrain a s)
  let g := wantedGroup s1 a
  formGroup a (if g = (gate s1 a).group && !g.all Option.isNone then s1 else modGate a (fun x => { x with left := [] }) s1)

/-! ### Cost and choice (R438 to R440) -/

/-- Wedge interval at the present speed, ns. -/
def wedgeNs (s : State) : Nat := 60000000000 * 65536 / (keelSpeed s * 640)

/-- Start of sector `sec` of a track, in 1/4,096 wedge (log entry 17). -/
def sectorStartU (s : State) (a h t sec : Nat) : Nat :=
  let z := zoneEntry s a h (zoneOfTrack a h t s)
  let p := sectorPlace (zoneHeaderRpm s a) (zoneServoNs s a) z t sec
  let ps := zoneServoNs s a * 1000 + p.pos * 1000000 / zRate z
  p.w * 4096 + ps * 4096 / wedgePs (zoneHeaderRpm s a)

/-- The place under the heads that the phase word gives, in 1/4,096 wedge (R115). -/
def phaseU (s : State) : Nat := s.fld Reg.KEEL.PHASE 31 22 * 4096 + s.fld Reg.KEEL.PHASE 21 10

/-- How far `u` lies ahead of the place under the heads, in 1/4,096 wedge. -/
def aheadU (s : State) (u : Nat) : Nat := (((u : Int) - phaseU s) % 2621440).toNat

/-- `u` comes under the heads while the present phase word serves, which is followed by another after 1 µs and reaches its readers within 200 ns
(R115, R290; log entry 171). -/
def comesUnder (s : State) (u : Nat) : Bool := s.bit Reg.KEEL.PHASE 0 && decide (aheadU s u * wedgeNs s ≤ 1200 * 4096)

/-- The bin of a distance. -/
def seekBin (dist : Nat) : Nat := ((List.range 15).find? fun n => decide (dist < 2 ^ (n + 8))).getD 15

/-- Track of the arm position. -/
def armTrack (s : State) (a : Nat) : Nat := (rud s a).arm.toNat / 4096

/-- Nominal tracks of the group's slots with a job in progress, of the arm, and of the job, within SPAN (R438). -/
def spanOk (s : State) (a t : Nat) : Bool :=
  let ts := t :: armTrack s a ::
    ((gate s a).group.zipIdx).filterMap fun x => if slotBusy s a x.2 then x.1.map (·.centre / 4096) else none
  decide (ts.foldl max 0 - ts.foldl min t ≤ s.fld (Reg.GATE.GROUP_CFG a) 7 0)

/-- Cost of a track job, ns (R438). -/
def jobCost (s : State) (a h t sec : Nat) : Nat :=
  let arm := armTrack s a
  let dist := (t - arm) + (arm - t)
  let seek := if spanOk s a t then 0 else 1000 * s.fld (Reg.GATE.SEEK_TAB a (seekBin dist)) 15 0
  let p := wedgeNs s
  let rot := ((sectorStartU s a h t sec : Int) - phaseU s - (seek * 4096 / p : Nat)) % 2621440
  seek + rot.toNat * p / 4096

/-- Slot `k` can serve a job of head `h` on track `t` now (R440); `relax` leaves out the rule that a writing slot forbids a wider
span. -/
def servable (s : State) (a k h t : Nat) (write relax : Bool) : Bool :=
  (!write || !headFailed s a h) && mayJoin s a h t write relax
    (((List.range 4).filter (· ≠ k)).filterMap fun j => (slotJob s a j).map fun x => (j, groupSlotOf s a j x))

/-- Effective level of a run (R439). -/
def runLevel (r : Run) : Nat := min 7 (pktPrio r.words + r.aged)

/-- Actuator-local head of a run, and the place of its next sector. -/
def runHead (a : Nat) (r : Run) : Nat := runMember r.words - 6 * a
def runNext (s : State) (a : Nat) (r : Run) : Nat × Nat :=
  runPlace s a (runHead a r) 300 (runTrack r.words) (runSector r.words) ((r.todo.headD (0, 0)).1)

/-- The run can be served by slot `k`. -/
def runServable (s : State) (a k : Nat) (relax : Bool) (r : Run) : Bool :=
  !r.todo.isEmpty && servable s a k (runHead a r) (runNext s a r).1 (pktType r.words == 2) relax

/-- Slots in service (R443). -/
def slotAvail (s : State) (a k : Nat) : Bool := s.bit (Reg.GATE.SLOT_AVAIL a) k

/-- Sectors of the run wait in the pool: not yet issued, or relocated (R441). -/
def runWaits (s : State) (a : Nat) (r : Run) : Bool :=
  !r.todo.isEmpty || (List.range 4).any fun k => (oar s (4 * a + k)).entries.any fun x => x.2.any fun y =>
    y.state == 9 && !y.inJob && (gateMap s a k x.1).any fun m => m.1 == r.id && m.2.2

/-- A run at level 7 waits that no slot can serve only because a slot is writing (R439). -/
def writersHeld (s : State) (a : Nat) : Bool :=
  (gate s a).runs.any fun r => runLevel r == 7 && !r.todo.isEmpty
    && !((List.range 4).any fun k => slotAvail s a k && runServable s a k false r)
    && (List.range 4).any fun k => slotAvail s a k && runServable s a k true r

/-- Gate issues no job that writes now (R439, R480). -/
def noNewWrite (s : State) (a : Nat) : Bool := writersHeld s a || inSafe s

/-- The run of lowest cost; equal costs go to the earlier (R439). -/
def cheapest (s : State) (a : Nat) : List Run → Option Run
  | [] => none
  | r :: rs =>
    match cheapest s a rs with
    | none => some r
    | some q =>
      let c := fun x : Run => jobCost s a (runHead a x) (runNext s a x).1 (runNext s a x).2
      if c r ≤ c q then some r else some q

/-- The run that slot `k` takes next (R439). -/
def pickRun (s : State) (a k : Nat) : Option Run :=
  let held := noNewWrite s a
  let rs := (gate s a).runs.filter fun r => runServable s a k false r && !(held && pktType r.words == 2)
  let top := rs.foldl (fun t r => max t (runLevel r)) 0
  cheapest s a ((rs.filter fun r => runLevel r == top).take (s.fld (Reg.GATE.SCHED_CFG a) 7 0))

/-! ### Issuing track jobs (R287, R441) -/

/-- The entry is free for a new sector job. -/
def entryFree (s : State) (a k e : Nat) : Bool := (entry s (4 * a + k) e).isNone && (gateMap s a k e).isNone

/-- The first free entry from the slot's next one on, and how many follow free, up to `n`. -/
def freeEntries (s : State) (a k n : Nat) : Option (Nat × Nat) :=
  let start := SMap.get (fun _ => 0) (gate s a).nextEntry k
  ((List.range 2048).find? fun i => entryFree s a k ((start + i) % 2048)).map fun i =>
    let base := (start + i) % 2048
    (base, ((List.range n).takeWhile fun j => entryFree s a k ((base + j) % 2048)).length)

/-- Push a track job into the Oar's queue; the state stays while the port holds an earlier one. The sectors of a job whose queue is in
fault end with cause ENDED (R92). -/
def issueJob (a k run first : Nat) (ws : Nat → List Word) (mark : State → State) (s : State) : State :=
  let tag := (gate s a).nextTag
  let handed := fun t : State =>
    mark (modGate a (fun g => { g with nextTag := (tag + 1) % 65536, issued := g.issued ++ [⟨tag, k, run, first, ws tag⟩] }) t)
  match qPush (oarJobQ (4 * a + k)) (0x20 + a) (ws tag) s with
  | none => s
  | some (t, .fault) => endIssued a k (handed t) ⟨tag, k, run, first, ws tag⟩
  | some (t, _) => handed t

/-- Entries `base` on of slot `k` hold the run's sectors `idx` on. -/
def mapEntries (a k id idx base n : Nat) (s : State) : State :=
  (List.range n).foldl (fun t i => setGateMap a k ((base + i) % 2048) (some (id, idx + i, false)) t) s

/-- The next piece of a run goes to slot `k` as one track job. -/
def issueRun (a k : Nat) (r : Run) (s : State) : State :=
  match r.todo with
  | [] => s
  | (idx, left) :: rest =>
    let h := runHead a r
    let (t, sec) := runNext s a r
    let z := zoneOfTrack a h t s
    let onTrack := zSectors (zoneEntry s a h z) - sec
    let want := min (min left 1023) (if onTrack = 0 then left else onTrack)
    match freeEntries s a k want with
    | none => s
    | some (base, n) =>
      let mark := fun t : State =>
        let t1 := modRun a r.id (fun x => { x with todo := if n = left then rest else (idx + n, left - n) :: rest, started := true })
          (mapEntries a k r.id idx base n t)
        let t2 := if r.started then t1 else t1.mark (Reg.GATE.WAIT_MAX a) 31 0 (min 0xFFFFFFFF ((s.time - r.since) / 1000))
        modGate a (fun g => { g with nextEntry := SMap.set (fun _ => 0) g.nextEntry k ((base + n) % 2048) }) t2
      issueJob a k r.id idx (fun tag => jobWords (pktType r.words) (runLevel r) tag h z t sec n base false (bodyFor r.words idx n)) mark s

/-- Entries of slot `k` that have passed to Gate, with their contents, lowest first. -/
def passedEntries (s : State) (a k : Nat) : List (Nat × JobEntry) :=
  (oar s (4 * a + k)).entries.filterMap fun x => match x.2 with
    | some y => if !y.inJob && (gateMap s a k x.1).any (fun m => m.2.2) then some (x.1, y) else none
    | none => none

/-- The entry waits for a verify; for a write that names it, the rewrite of a failed verify or the write of a partial sector whose
fill the ladder recovered (log entry 18); or for a ladder read that Sweep wants (R256, R257, R279). -/
def wantsVerify (x : JobEntry) : Bool := x.state == 8 && !x.taken
def wantsRewrite (x : JobEntry) : Bool := (x.state == 8 && x.taken) || (x.state == 1 && x.reading == 0 && !x.inJob)
def wantsLadder (s : State) (x : JobEntry) : Bool :=
  x.state == 7 && (x.slot.bind (decSlot s)).any fun d => d.state == 5 && !d.expired

/-- A track job of type `jt` has no more to do for entry `y` here: it has ended or passes to Gate (R291). -/
def sectorOver (s : State) (jt : Nat) (y : JobEntry) : Bool :=
  (decide (7 ≤ y.state) || (jt == 6 && y.state == 1)) && !(jt == 5 && (wantsVerify y || y.slot.isSome))
    && !(jt == 6 && y.state == 7 && (!y.taken || !(y.slot.bind (decSlot s)).any fun d => d.state == 5))

/-- Sectors of the job in progress, or its wedges, that have not yet ended or passed to Gate (R309). -/
def jobRemaining (s : State) (o : Nat) : Nat :=
  match (oar s o).job with
  | none => 0
  | some j =>
    if jobType j = 8 then jobCount j - j.wedges.length
    else ((oar s o).entries.filter fun e => e.2.any fun y => y.inJob && !sectorOver s (jobType j) y).length

/-- The body of one sector of an entry, as a run of one (R287). -/
def entryBody (x : JobEntry) : List Word :=
  let b := x.body
  let m := jobMask b x.mask
  let masks := Sys2Proof.setFld (Sys2Proof.setFld (b.getD 7 0#32) 7 0 m) 15 8 m
  [loWord (entrySeed x), hiWord (entrySeed x), loWord (entryDram x), Sys2Proof.setFld (b.getD 3 0#32) 7 0 (entryDram x / 2 ^ 32)]
    ++ (b.drop 4).take 3 ++ [masks] ++ b.drop 8

/-- A job of Gate's own on entries `e` to `e + n - 1` of slot `k` (R441). -/
def issueOwn (a k ty e n : Nat) (spare : Bool) (x : JobEntry) (s : State) : State :=
  match gateMap s a k e with
  | none => s
  | some (id, idx, _) =>
    let prio := if spare then ((findRun s a id).map runLevel).getD 7 else 7
    let t := if spare then x.spareTrack else x.track
    let sec := if spare then x.spareSector else x.sector
    let z := zoneOfTrack a x.head t s
    let unpass := fun u : State => (List.range n).foldl (fun w i =>
      match gateMap w a k (e + i) with
      | some (d, j, _) => setGateMap a k (e + i) (some (d, j, false)) w
      | none => w) u
    issueJob a k id idx (fun tag => jobWords ty prio tag x.head z t sec n e spare (entryBody x)) unpass s

/-- The run that slot `k` would pick goes before the relocated sector of entry `e`: its level is higher, or it costs less (R439, R441). -/
def runFirst (s : State) (a k e : Nat) (x : JobEntry) : Bool :=
  let level := (((gateMap s a k e).bind fun m => findRun s a m.1).map runLevel).getD 7
  (pickRun s a k).any fun r => decide (level < runLevel r) || (runLevel r == level
    && decide (jobCost s a (runHead a r) (runNext s a r).1 (runNext s a r).2 < jobCost s a x.head x.spareTrack x.spareSector))

/-- Gate's own work of slot `k` that it can serve now: level-7 work first, then a spare at its run's level. -/
def pickOwn (a k : Nat) (s : State) : Option State :=
  let ps := passedEntries s a k
  let can := fun (x : JobEntry) (t : Nat) (w : Bool) => servable s a k x.head t w false
  match ps.find? fun p => (wantsVerify p.2 && can p.2 p.2.track false) || (wantsRewrite p.2 && !noNewWrite s a && can p.2 p.2.track true)
      || (wantsLadder s p.2 && can p.2 p.2.track false) with
  | some (e, x) =>
    if wantsVerify x then
      let n := ((List.range 1023).takeWhile fun i => ps.any fun p => p.1 == e + i && wantsVerify p.2 && p.2.track == x.track
        && p.2.head == x.head).length
      some (issueOwn a k 5 e n false x s)
    else if wantsRewrite x && !noNewWrite s a then some (issueOwn a k 2 e 1 false x s)
    else some (issueOwn a k 6 e 1 false x s)
  | none =>
    ((ps.find? fun p => p.2.state == 9 && !(noNewWrite s a && p.2.ty == 2) && can p.2 p.2.spareTrack (p.2.ty == 2)).filter fun p =>
      !runFirst s a k p.1 p.2).map fun p => issueOwn a k p.2.ty p.1 1 true p.2 s

/-- Once no sector of the write job in progress waits for its fill read, write mode is asked for (R295). -/
def askWrite (o : Nat) (s : State) : State :=
  let filling := (oar s o).entries.any fun e => e.2.any fun y => y.inJob && y.reading == 1 && decide (y.state < 7)
  if !filling && (oar s o).job.any fun j => jobType j == 2 && !j.wantWrite then
    formGroup (oarAct o) (modOar o (fun r => { r with job := r.job.map fun j => { j with wantWrite := true } }) s)
  else s

/-! ### The end of every job (R161, R302, R443) -/

/-- An Oar drops everything it holds: each entry ends with cause ENDED and is reported to Gate. -/
def abortOar (o : Nat) (s : State) : State :=
  let s1 := offsetBack o (dropGate o (modOar o (fun r => { r with passage := none, job := none }) s))
  (oar s1 o).entries.foldl (fun t x => endSector o x.1 8 (modEntry o x.1 (fun y => { y with inJob := false }) t)) s1

/-- An Oar in machine check: its sectors wait again in Gate for another Oar (R74, R443). -/
def reissueOar (o : Nat) (s : State) : State :=
  let a := oarAct o
  let k := oarSlot o
  let free := fun (t : State) (x : Nat × Option JobEntry) =>
    let t1 := match (x.2.bind JobEntry.slot).bind (fun n => (decSlot t n).map fun d => (n, d)) with
      | some (n, d) => freeDec n (if d.kind = 3 then raiseUnreadable 7 d t else t)
      | none => t
    if x.2.any JobEntry.credit then mediaReturn t1 else t1
  let s1 := modSweep (fun w => { w with rung2 := w.rung2.filter (·.1 ≠ o) }) ((oar s o).entries.foldl free (offsetBack o (dropGate o s)))
  let s2 := modOar o (fun r => { Oar.reset with zones := r.zones, relocs := r.relocs }) s1
  let s3 := modGate a (fun g => { g with issued := g.issued.filter (·.slot != k) })
    (clearQueue (oarDoneQ o) (clearQueue (oarJobQ o) s2))
  (List.range 2048).foldl (fun t e => reissueEntry a k e t) s3

/-- The sectors of a run that are not yet issued end lasting with cause ENDED. -/
def endTodo (a : Nat) (s : State) (r : Run) : State :=
  (List.range (runCount r.words)).foldl (fun u i =>
    if r.todo.any fun x => decide (x.1 ≤ i) && decide (i < x.1 + x.2) then sectorEnded a r.id i 8 u else u)
    (modRun a r.id (fun x => { x with todo := [] }) s)

/-- A run that has ended LASTING goes to its owner (R442). -/
def reportEnded (a : Nat) (s : State) (r : Run) : State :=
  let f := r.first.getD (0, 8)
  if r.quiet then s
  else (reportRun a r.words 2 r.lastings f.1 f.2 s).count (Reg.GATE.RUNS_DONE a) 1

/-- Every run of actuator `a` ends lasting with cause ENDED: what its Oars hold and what waits (R161, R443). -/
def endRuns (a : Nat) (s : State) : State :=
  let s1 := (List.range 4).foldl (fun t k =>
    clearQueue (oarJobQ (4 * a + k)) (abortOar (4 * a + k) (endWaiting a k t))) s
  let s2 := modGate a (fun g => { g with issued := [], map := [], offer := none, group := [] }) (gateDrain a s1)
  let s3 := (gate s2 a).runs.foldl (endTodo a) s2
  modGate a (fun g => { g with runs := [] }) ((gate s3 a).runs.foldl (reportEnded a) s3)

end Sys2Proof.Machine
end

