-- ==== Sys2Proof/Machine/CrewOps.lean ====
section
/-! DEFINITION. Crew: band descriptors, the placement of chunks, the stale list and the lost-stripe map, failed members, and
journal records (R352 to R358, R365 to R371, R376 to R378, R388). -/

namespace Sys2Proof.Machine

def modCrew (f : Crew → Crew) (s : State) : State := { s with crew := f s.crew }

/-! ### Descriptors (R352, R354) -/

def bLayout (d : List Word) : Nat := fld (d.getD 0 0#32) 9 8
def bData (d : List Word) : Nat := fld (d.getD 0 0#32) 14 10
def bSpare (d : List Word) : Nat := fld (d.getD 0 0#32) 17 16
def bLun (d : List Word) : Nat := fld (d.getD 0 0#32) 23 18
def bResync (d : List Word) : Bool := bit (d.getD 0 0#32) 24
def bStripes (d : List Word) : Nat := fld (d.getD 1 0#32) 23 0
def bResyncWm (d : List Word) : Nat := fld (d.getD 2 0#32) 23 0
/-- Redundancy chunks of the layout. -/
def bRed (d : List Word) : Nat := if bLayout d = 0 then 0 else if bLayout d = 3 then 2 else 1
def bWidth (d : List Word) : Nat := bData d + bRed d + bSpare d
def bHead (d : List Word) (p : Nat) : Nat := fld (d.getD (6 + p) 0#32) 4 0
def bBase (d : List Word) (p : Nat) : Nat := fld (d.getD (6 + p) 0#32) 31 8
/-- Spare slot j: enabled, the position it replaces, its watermark. -/
def bReplEn (d : List Word) (j : Nat) : Bool := bit (d.getD 3 0#32) (8 * j + 7)
def bRepl (d : List Word) (j : Nat) : Nat := fld (d.getD 3 0#32) (8 * j + 4) (8 * j)
def bWm (d : List Word) (j : Nat) : Nat := fld (d.getD (4 + j) 0#32) 23 0

/-- Positions of a stripe (R357): P or the mirror copy, Q, spare slot j, data chunk i. -/
def posP (d : List Word) (st : Nat) : Nat := bWidth d - 1 - st % bWidth d
def posQ (d : List Word) (st : Nat) : Nat := (posP d st + 1) % bWidth d
def posSpare (d : List Word) (st j : Nat) : Nat := (posP d st + bRed d + j) % bWidth d
def posData (d : List Word) (st i : Nat) : Nat := (posP d st + bRed d + bSpare d + i) % bWidth d

/-- The data chunk at a position; none for parity and spare positions. -/
def dataAt (d : List Word) (st p : Nat) : Option Nat := (List.range (bData d)).find? fun i => posData d st i == p

/-- Redundancy positions in the order in which they are read: P, then Q. -/
def parityPos (d : List Word) (st : Nat) : List Nat := if bRed d = 0 then [] else if bRed d = 1 then [posP d st] else [posP d st, posQ d st]

def band (s : State) (b : Nat) : Option Band := SMap.get (fun _ => none) s.crew.bands b

def setBand (b : Nat) (x : Option Band) (s : State) : State :=
  modCrew (fun c => { c with bands := SMap.set (fun _ => none) c.bands b x }) s

/-- Usable offset of entry `b` of the band table (R355). -/
def bandEntryOff (s : State) (b : Nat) : Nat := s.reg64 Reg.CREWG.BAND_TABLE_LO / 64 * 64 % 2 ^ 40 + 128 * b

/-- Entry `b` of the band table as it stands in DRAM. -/
def bandEntry (s : State) (b : Nat) : List Word := (List.range 32).map fun i => s.wordAt (dramBase + bandEntryOff s b + 4 * i)

/-- Descriptor of band `b`: an enabled band's, else its table entry. -/
def bandWords (s : State) (b : Nat) : List Word := match band s b with
  | some x => x.words
  | none => bandEntry s b

/-- Crew changes a descriptor and writes the whole entry back with a fresh CRC (R356). -/
def putBandWords (b : Nat) (ws : List Word) (s : State) : State :=
  let ws := ws.set 31 (crcWords (ws.take 31))
  let s1 := storeBytes (bandEntryOff s b) (ws.flatMap fun w => toBytes 4 w.toNat) s
  match band s b with
  | some x => setBand b (some { x with words := ws }) s1
  | none => s1

def modBandWord (b i : Nat) (f : Word → Word) (s : State) : State :=
  let ws := bandWords s b
  putBandWords b (ws.set i (f (ws.getD i 0#32))) s

/-- The stripe is not synchronised (R363). -/
def unsynced (d : List Word) (st : Nat) : Bool := bResync d && decide (bResyncWm d ≤ st)

/-! ### Stale chunks and lost stripes (R366, R378) -/

/-- Usable offset of the stale list (R369), and of the lost-stripe map. -/
def staleOff (s : State) : Nat := s.reg64 Reg.JRNL.DRAM_BASE_LO / 64 * 64 % 2 ^ 40 + 64 + 64 * 2048
def lostOff (s : State) : Nat := 4096 * s.critFld 14 27 0

/-- The stale list or the lost map as it stands in DRAM, four words an entry; the places of `n` former entries that the new
list does not fill become empty (R366, R378). -/
def storeList (off n : Nat) (es : List (List Word)) (s : State) : State :=
  storeBytes off ((es ++ List.replicate (n - es.length) [0#32, 0#32, 0#32, 0#32]).flatMap fun e => e.flatMap fun w => toBytes 4 w.toNat) s

/-- The stale list changes, in DRAM too. -/
def setStale (l : List (Nat × Nat × Nat × Nat)) (s : State) : State :=
  storeList (staleOff s) s.crew.stale.length (l.map fun e => [word (e.1 + 2 ^ 31), word e.2.1, word (e.2.2.1 + e.2.2.2 * 256), 0#32])
    (modCrew (fun c => { c with stale := l }) s)

def setLost (l : List (Nat × Nat × Nat)) (s : State) : State :=
  storeList (lostOff s) s.crew.lost.length (l.map fun e => [word (e.1 + 2 ^ 31), word e.2.1, word e.2.2, 0#32])
    (modCrew (fun c => { c with lost := l }) s)

def staleHas (s : State) (b st p : Nat) : Bool := s.crew.stale.any fun e => e.1 == b && e.2.1 == st && e.2.2.1 == p
def isLost (s : State) (b st : Nat) : Bool := s.crew.lost.any fun e => e.1 == b && e.2.1 == st
def lostMax (s : State) : Nat := s.fld Reg.CREWG.LOST_CFG 16 0

/-- The chunk of a position is failed (R357): its head is, or the chunk is stale. -/
def chunkBad (s : State) (b : Nat) (d : List Word) (st p : Nat) : Bool := memberFailed s (bHead d p) || staleHas s b st p

/-- Where the chunk of position `p` is read (R357); none: erased. -/
def place (s : State) (b : Nat) (d : List Word) (st p : Nat) : Option Nat :=
  if !chunkBad s b d st p then some p
  else (List.range (bSpare d)).findSome? fun j =>
    let t := posSpare d st j
    if bReplEn d j && bRepl d j == p && decide (st < bWm d j) && !chunkBad s b d st t then some t else none

/-! ### Member sectors (R358) -/

/-- Track and sector of member sector `msn` among the zones listed. -/
def msnPlace : List (List Word) → Nat → Option (Nat × Nat)
  | [], _ => none
  | z :: zs, m =>
    let stop := match zs with
      | y :: _ => zFirst y
      | [] => 2 ^ 24
    let size := (stop - zFirst z) * zSectors z
    if m < size then some (zFirst z + m / zSectors z, m % zSectors z) else msnPlace zs (m - size)

/-- Track and sector of member sector `msn` of a global head. -/
def memberPlace (s : State) (head msn : Nat) : Option (Nat × Nat) :=
  let zs := ((List.range 64).map fun z => zoneEntry s (head / 6) (head % 6) z).filter zValid
  msnPlace zs msn

/-! ### Failed members (R161, R365, R370, R376) -/

/-- Every sector job of head `h` of actuator `a` ends with cause ENDED (R365). -/
def endMember (a h : Nat) (s : State) : State :=
  let s1 := (List.range 4).foldl (fun t k =>
    let waits := (waitingJobs t a k).filter fun j => fld (j.words.getD 1 0#32) 2 0 == h
    let t1 := waits.foldl (fun u j => returnJob a k j u) t
    (oar t1 (4 * a + k)).entries.foldl (fun u x =>
      if x.2.any fun y => y.head == h && y.state != 10 then endSector (4 * a + k) x.1 8 u else u) t1) s
  (gate s1 a).runs.foldl (fun t r =>
    if runMember r.words = 6 * a + h then
      let wait := r.todo.flatMap fun x => (List.range x.2).map (x.1 + ·)
      wait.foldl (fun u i => sectorEnded a r.id i 8 u) (modRun a r.id (fun x => { x with todo := [] }) t)
    else t) s1

/-- BAND_SWITCH names band `b` with a reshape that has not switched, and one that has (R382, R383). -/
def reshaping (s : State) (b : Nat) : Bool := s.critFld 13 11 0 == b && s.critFld 13 16 16 == 1 && s.critFld 13 17 17 == 0
def switched (s : State) (b : Nat) : Bool := s.critFld 13 11 0 == b && s.critFld 13 16 16 == 1 && s.critFld 13 17 17 == 1

/-- Every target stripe of band `b` is copied and none waits for a re-copy: new work of the band is held (R383). -/
def switchReady (s : State) (b : Nat) : Bool :=
  reshaping s b && s.crew.recopy.isEmpty && s.crew.target.any fun t => decide (bStripes t ≤ s.fld Reg.CREWG.RESHAPE_WM 23 0)

/-- The lowest free spare slot of band `b` goes to position `p` (R376). -/
def takeSpare (b : Nat) (d : List Word) (p : Nat) (s : State) : State :=
  match (List.range (bSpare d)).find? fun j => !bReplEn d j with
  | none => s
  | some j => putBandWords b ((d.set 3 (Sys2Proof.setFld (d.getD 3 0#32) (8 * j + 7) (8 * j) (128 + p))).set (4 + j) 0#32) s

/-- The lowest spare slot of an enabled band goes to the position of head `m`; MEMBER_FAILED (R376). A band that has switched waits
for its COMMIT (R384). -/
def assignSpare (m : Nat) (s : State) (x : Nat × Option Band) : State :=
  match x.2 with
  | none => s
  | some bd =>
    let d := bd.words
    match (List.range (bWidth d)).find? fun p => bHead d p == m with
    | none => s
    | some p => raise Page.CREWG 1 0 m {} (if switched s x.1 then s else takeSpare x.1 d p s)

/-- A head fails as a member: MEMBER_FAIL, its sector jobs, spare slots, journal copies (R370, R376, R388). -/
def failMember (m : Nat) (s : State) : State :=
  if memberFailed s m ∨ 24 ≤ m then s
  else
    let s1 := s.critPut 4 (Sys2Proof.setBit (s.critVal 4) m true)
    let s2 := s1.crew.bands.foldl (assignSpare m) (endMember (m / 6) (m % 6) s1)
    let s3 := if s2.critFld 15 7 7 = 1 ∧ s2.critFld 15 4 0 = m then s2.setCritFld 15 7 7 0 else s2
    if s3.critFld 15 15 15 = 1 ∧ s3.critFld 15 12 8 = m then s3.setCritFld 15 15 15 0 else s3

/-- Every head of actuator `a` fails as a member (R74, R161). -/
def failActuatorMembers (a : Nat) (s : State) : State :=
  (List.range 6).foldl (fun t h => if headPresent t a h then failMember (6 * a + h) t else t) s

/-- A chunk enters the stale list; with the list full its member fails and the member's entries leave it (R365, R366). -/
def addStale (e b st p cause : Nat) (s : State) : State :=
  if staleHas s b st p then s
  else if 256 ≤ s.crew.stale.length then
    let m := bHead (bandWords s b) p
    let s1 := failMember m (lasting Page.CREWG 3 m {} s)
    setStale (s1.crew.stale.filter fun x => bHead (bandWords s1 x.1) x.2.2.1 != m) s1
  else raise (Page.CREW e) 2 0 cause ⟨word b, word st, word (p * 65536)⟩ (setStale (s.crew.stale ++ [(b, st, p, cause)]) s)

/-- A stripe is lost: the map and STRIPE_LOST, or LOST_FULL once (R377, R378); the flag tells whether it could be entered. -/
def loseStripe (e b st row : Nat) (positions : List Nat) (s : State) : Bool × State :=
  if isLost s b st then (true, s)
  else if lostMax s ≤ s.crew.lost.length then
    (false, if s.crew.lostFull then s else lasting Page.CREWG 4 0 {} (modCrew (fun c => { c with lostFull := true }) s))
  else
    let mask := positions.foldl (fun t p => t + 2 ^ p) 0
    (true, lasting (Page.CREW e) 1 0 ⟨word b, word st, word row⟩
      (setLost (s.crew.lost ++ [(b, st, mask)]) (modCrew (fun c => { c with lostFull := false }) s)))

/-- A stripe leaves the map. -/
def findStripe (b st : Nat) (s : State) : State :=
  if isLost s b st then
    setLost (s.crew.lost.filter fun x => !(x.1 == b && x.2.1 == st)) (modCrew (fun c => { c with lostFull := false }) s)
  else s

/-! ### Journal records (R367 to R369) -/

/-- Usable offset of record slot `i`. -/
def recordOff (s : State) (i : Nat) : Nat := s.reg64 Reg.JRNL.DRAM_BASE_LO / 64 * 64 % 2 ^ 40 + 64 + 64 * i

def putRecord (i : Nat) (ws : List Word) (s : State) : State :=
  storeBytes (recordOff s i) (ws.flatMap fun w => toBytes 4 w.toNat) s

/-- The 16 words of the record of a stripe job (R367); `flags` is bits [27:24]. -/
def recordWords (flags jseq : Nat) (ws : List Word) : List Word :=
  let w := fun i => ws.getD i 0#32
  let body := [word (0x15E4A + flags * 2 ^ 24), loWord jseq, hiWord jseq, w 1 &&& 0xFFF#32, w 2 &&& 0xFFFFFF#32, w 3,
    word (fld (w 4) 15 0 + fld (w 7) 7 0 * 65536), w 5, w 6, w 8, w 9, w 10, w 11, w 12, 0#32]
  body ++ [crcWords body]

/-- A record is formed: stored in its DRAM slot and waiting for a journal sector (R364 step 1). -/
def openRecord (id flags : Nat) (ws : List Word) (s : State) : State :=
  let n := s.crew.nextJseq
  let r := recordWords flags n ws
  modCrew (fun c => { c with nextJseq := n + 1, open_ := c.open_ ++ [⟨n, id, r, none, s.time⟩] }) (putRecord id r s)

/-- A record is retired (R364 step 4): its slot is cleared. -/
def retireRecord (jseq : Nat) (s : State) : State :=
  match s.crew.open_.find? (·.jseq == jseq) with
  | none => s
  | some r => modCrew (fun c => { c with open_ := c.open_.erase r }) (putRecord r.slot (List.replicate 16 0#32) s)

def jrnlState (s : State) : Nat := s.critFld 16 1 0

/-- The journal members in use with their copy numbers. -/
def journalMembers (s : State) : List (Nat × Nat) :=
  (if s.critFld 15 7 7 = 1 then [(0, s.critFld 15 4 0)] else []) ++ (if s.critFld 15 15 15 = 1 then [(1, s.critFld 15 12 8)] else [])

/-- A journal copy is lost (R370). -/
def copyLost (copy : Nat) (s : State) : State :=
  lasting Page.JRNL 1 copy {} (if copy = 0 then s.setCritFld 15 7 7 0 else s.setCritFld 15 15 15 0)

/-- Ring sectors of the journal area (R368). -/
def ringSize (s : State) : Nat := 256 * s.fld Reg.JRNL.JRNL_CFG 6 0

end Sys2Proof.Machine
end

