-- ==== Sys2Proof/Machine/Oar.lean ====
section
/-! DEFINITION. The commands of an Oar and its front end (R232, R246, R252, R288 to R301). -/

namespace Sys2Proof.Machine

/-! ### Passages -/

/-- What a read of entry `x` is for under a track job of type `jt`; none where the job takes no read of it: 0 the job's, 2 a verify,
3 a ladder read (R273, R279, R290, R295). -/
def readPurpose (s : State) (jt : Nat) (x : JobEntry) : Option Nat :=
  if (jt = 1 ∨ jt = 3) ∧ (x.state = 1 ∨ x.state = 5) then some 0
  else if jt = 2 ∧ x.reading = 1 ∧ (x.state = 2 ∨ x.state = 5) then some 0
  else if jt = 5 ∧ wantsVerify x then some 2
  else if jt = 6 ∧ !x.taken ∧ wantsLadder s x then some 3
  else none

/-- A read passage of entry `e` begins. -/
def beginRead (o e purpose : Nat) (x : JobEntry) (p : ReadPass) (s : State) : State :=
  let marked := readMarked s o
  if !s.bit (Reg.OAR.FE_CTRL o) 0 && !s.bit (Reg.OAR.FE_CTRL o) 1 then endSector o e (if x.reading = 1 then 6 else 4) s
  else if purpose ≠ 0 ∧ marked then s
  else if purpose = 3 then
    match x.slot.bind fun n => (decSlot s n).map fun d => (n, d) with
    | some (n, d) => startLadderRead o e n x d p s
    | none => s
  else
    if !creditHeld s o x then stageLate o s
    else
      let t1 := startRead o e (if purpose = 2 then 2 else if marked then 1 else 0) x p s
      if (entry t1 o e).any fun y => y.slot.isSome then modEntry o e (fun y => { y with taken := true }) t1 else t1

/-! ### What the Oar does ahead of the head (R253, R290, R293, R294) -/

/-- Start of an entry's sector, in 1/4,096 wedge. -/
def entryStart (s : State) (o : Nat) (x : JobEntry) : Nat := sectorStartU s (oarAct o) x.head x.track x.sector

/-- The job will read entry `x` with a landing, or write it. -/
def readsAhead (s : State) (jt : Nat) (x : JobEntry) : Bool := readPurpose s jt x == some 0 && x.ty != 3
def writesAhead (jt : Nat) (x : JobEntry) : Bool := jt == 2 && (x.state == 1 || x.state == 3 || x.state == 6)

/-- `x` put in its place in a list that ascends by the first component. -/
def putSoonest (x : Nat × Nat) : List (Nat × Nat) → List (Nat × Nat)
  | [] => [x]
  | y :: ys => if x.1 < y.1 then x :: y :: ys else y :: putSoonest x ys

/-- The next STAGE_AHEAD sectors of the job that come under the head, as entries: those to read while the job reads, else those to write. -/
def nextSectors (s : State) (o : Nat) (j : TrackJob) : List Nat :=
  let wants := fun x : JobEntry => x.inJob && (readsAhead s (jobType j) x || (j.wantWrite && writesAhead (jobType j) x))
  let es := (jobEntries j).filterMap fun e => (entry s o e).bind fun x => if wants x then some (aheadU s (entryStart s o x), e) else none
  ((es.foldl (fun l x => putSoonest x l) []).take (s.fld (Reg.OAR.JOB_CFG o) 3 0)).map Prod.snd

/-- Credits are taken for the next sectors to read, and the next sectors to write are staged. -/
def prepare (o : Nat) (s : State) : State :=
  match (oar s o).job with
  | none => s
  | some j =>
    (nextSectors s o j).foldl (fun t e =>
      if (entry t o e).any (readsAhead t (jobType j)) then entryCredit o e t else stageEntry o e t) s

/-- A sector that begins now may be taken: SETUP × 100 ns have passed since its job became startable (R290). -/
def setUp (s : State) (o : Nat) (j : TrackJob) : Bool := decide (j.since + s.fld (Reg.OAR.JOB_CFG o) 23 16 * 100 ≤ s.time)

/-- SECTOR_READ (R232 to R236, R269, R290, R293). -/
def execSectorRead (oar entry_ : Nat) (x : ReadPass) (s : State) : Host.Outcome State Fault Refusal :=
  .next (s.when (oarRuns s oar && !pwrFailing s) fun s =>
    let s1 := passageEnd oar s
    match (Machine.oar s1 oar).job, entry s1 oar entry_ with
    | some j, some y =>
      match readPurpose s1 (jobType j) y with
      | some p =>
        if y.inJob && setUp s1 oar j && comesUnder s1 (entryStart s1 oar y) then prepare oar (askWrite oar (beginRead oar entry_ p y x s1)) else s1
      | none => s1
    | _, _ => s1)

/-- SECTOR_WRITE (R246, R294, R296, R301): a sector is staged and written, or a servo wedge is written. -/
def execSectorWrite (oar entry_ : Nat) (s : State) : Host.Outcome State Fault Refusal :=
  .next (s.when (oarRuns s oar && !pwrFailing s) fun s =>
    let s1 := askWrite oar (passageEnd oar s)
    match (Machine.oar s1 oar).job with
    | none => s1
    | some j =>
      if jobType j = 8 then
        s1.when (decide (entry_ < 640) && decide ((entry_ + 640 - jobFirst j % 640) % 640 < jobCount j) && writeHolds s1 oar
            && !j.wedges.contains entry_ && comesUnder s1 (4096 * entry_) && setUp s1 oar j && s1.bit (Reg.OAR.SW_CTRL oar) 0 && mode s1 == 8) fun s =>
          raiseGate oar ((writerLane s oar).getD 0) (modOar oar (fun r => { r with passage := some (entry_, true) }) s)
      else
        match entry s1 oar entry_ with
        | some y =>
          if jobType j = 2 ∧ setUp s1 oar j ∧ !inSafe s1 ∧ j.wantWrite ∧ y.inJob ∧ writesAhead 2 y ∧ comesUnder s1 (entryStart s1 oar y) then
            prepare oar (startWrite oar entry_ s1)
          else s1
        | none => s1)

/-! ### Landing (R77, R286, R293, R295) -/

/-- The ranges of consecutive blocks of a mask, as first block and number. -/
def maskRanges (m : Nat) : Nat → List (Nat × Nat)
  | 0 => []
  | j + 1 =>
    if m.testBit j then
      match maskRanges m j with
      | rs => match rs.getLast? with
        | some (f, n) => if f + n = j then rs.dropLast ++ [(f, n + 1)] else rs ++ [(j, 1)]
        | none => [(j, 1)]
    else maskRanges m j

/-- Place and length in DRAM of a range of an entry's blocks. -/
def rangeOff (x : JobEntry) (r : Nat × Nat) : Nat := entryDram x + r.1 * storedBlock (bodyFmt x.body) (bodyPi x.body)
def rangeLen (x : JobEntry) (r : Nat × Nat) : Nat := r.2 * storedBlock (bodyFmt x.body) (bodyPi x.body)

/-- The granules that a range covers only in part, which Boathouse reads and merges. -/
def partGranules (x : JobEntry) (r : Nat × Nat) : List Nat :=
  let off := rangeOff x r
  let stop := off + rangeLen x r
  (if off % 64 = 0 then [] else [off / 64]) ++ (if stop % 64 = 0 then [] else [stop / 64])

/-- Land a range of blocks of a host area; the granules of its poisoned blocks are poisoned (R77). -/
def landRange (x : JobEntry) (host : List Byte) (s : State) (r : Nat × Nat) : State :=
  let sb := storedBlock (bodyFmt x.body) (bodyPi x.body)
  let t := storeBytes (rangeOff x r) ((host.drop (r.1 * sb)).take (r.2 * sb)) s
  (List.range r.2).foldl (fun u i =>
    if (payloadPoison x.payload).testBit (r.1 + i) then
      let a := rangeOff x r + i * sb
      (List.range ((a + sb + 63) / 64 - a / 64)).foldl (fun v g => putGranule (a / 64 + g) ⟨granData v (a / 64 + g), true⟩ v) u
    else u) t

/-- The blocks that land: those present of a read, those absent of a partial write. -/
def landMask (x : JobEntry) : Nat :=
  let all := if blocksPer (bodyFmt x.body) = 1 then 1 else 255
  if x.reading = 1 then all - x.mask % (all + 1) else x.mask

/-- LANDING_ACK (R293, R295): a merged granule whose checks fail is a lasting DMA error. -/
def execLandingAck (oar entry_ : Nat) (s : State) : Host.Outcome State Fault Refusal :=
  .next (s.when (oarRuns s oar) fun s =>
    match entry s oar entry_ with
    | none => s
    | some x =>
      match x.landing with
      | none => s
      | some host =>
        let m := landMask x
        let rs := maskRanges m 8
        match (rs.flatMap (partGranules x)).find? fun g => !granValid s g with
        | some g =>
          closeEntry oar entry_ (if x.reading = 1 then 6 else 9) (readGranule false (0x10 + oar) quiet g s).2.2
        | none =>
          let t := rs.foldl (landRange x host) s
          let t1 := if payloadPoison x.payload &&& m = 0 then t else markPoisoned oar entry_ t
          if x.reading = 1 then
            let t2 := modEntry oar entry_ (fun y => { y with state := 1, reading := 0, mask := m ||| x.mask, landing := none
                                                             payload := [], credit := false }) t1
            prepare oar (askWrite oar (if x.credit then mediaReturn t2 else t2))
          else closeEntry oar entry_ 0 t1)

/-! ### Track jobs (R288, R290, R291, R299) -/

/-- The entries a job names are in the states it requires (R288, code 3). -/
def entriesFit (s : State) (o : Nat) (j : TrackJob) : Bool :=
  let ty := jobType j
  let es := jobEntries j
  let all := fun f : Option JobEntry → Bool => es.all fun e => f (entry s o e)
  if ty = 5 then all fun x => x.any fun y => y.state == 8 && !y.inJob
  else if ty = 6 then es.length == 1 && all fun x => x.any fun y => y.state == 7 && !y.inJob
  else if ty = 8 then true
  else if jobSpare j then es.length == 1 && all fun x => x.any fun y => y.state == 9
  else all Option.isNone || (ty == 2 && es.length == 1 && all fun x => x.any fun y => wantsRewrite y && !y.inJob)

/-- The JOB_REJECT code and the front end's code under which a track job is refused; none for one that may start
(R248, R252, R254, R288). -/
def jobFault (s : State) (o : Nat) (j : TrackJob) : Option (Nat × Nat) :=
  let ty := jobType j
  let a := oarAct o
  let z := zoneEntry s a (jobHead j) (jobZone j)
  let plain := ty == 1 || ty == 2 || ty == 3
  let n := jobCount j
  if pktLen j.words ≠ 16 ∨ !(plain || ty == 5 || ty == 6 || ty == 8) then some (1, 0)
  else if n = 0 ∨ 1023 < n ∨ (plain && !bodyOk (jobBody j) n) ∨ (ty ≠ 8 ∧ zValid z ∧ zSectors z < jobFirst j + n)
      ∨ (ty = 8 ∧ (640 < n ∨ 639 < jobFirst j)) then some (2, 0)
  else if !entriesFit s o j then some (3, 0)
  else if ty = 8 ∧ ¬(mode s = 8 ∧ s.bit (Reg.OAR.SW_CTRL o) 0) then some (4, 0)
  else if !(slotOn s a (oarSlot o) && slotHead s a (oarSlot o) == jobHead j) then some (5, 0)
  else if !trackInZone s a (jobHead j) (jobZone j) (if ty = 8 then (jobTrack j + 1) / 2 else jobTrack j) then some (7, 1)
  else if !speedOk s a then some (7, 2)
  else if (ty = 2 ∨ ty = 8) ∧ (writerLane s o).isNone then some (7, 3)
  else none

/-- A track job is refused (R288): its entries in the state it requires end with cause REFUSED, and the REFUSED packet follows. -/
def refuseJob (o : Nat) (j : TrackJob) (code fe : Nat) (s : State) : State :=
  let s1 := if code = 7 then raise (Page.OAR o) 28 5 fe {} s else raise (Page.OAR o) 0 5 code {} s
  let need := fun y : JobEntry =>
    (jobType j == 5 && y.state == 8) || (jobType j == 6 && y.state == 7) || (jobSpare j && y.state == 9)
      || (jobType j == 2 && jobCount j == 1 && wantsRewrite y)
  let s2 := (jobEntries j).foldl (fun t e =>
    if (entry t o e).any fun y => need y && !y.inJob then endSector o e 10 (modEntry o e (fun y => { y with tag := jobTag j }) t)
    else t) s1
  pushDone o [pktHeader 2 0 false 0x83 (jobTag j), word (code + fe * 256)] s2

/-- The relocation of a sector of head `h` (R299). -/
def relocated (s : State) (a h t sec : Nat) : Option (List Word) :=
  (oar s (4 * a)).relocs.find? fun r => bit (r.getD 0 0#32) 31 && fld (r.getD 0 0#32) 26 24 == h
    && fld (r.getD 0 0#32) 23 0 == t && fld (r.getD 1 0#32) 9 0 == sec

/-- The entry of sector `i` of a job (R289, R299). -/
def newEntry (j : TrackJob) (i : Nat) : JobEntry :=
  let m := bodyMask (jobBody j) i (jobCount j)
  let fill := jobType j == 2 && !maskWhole (jobBody j) m
  { state := if fill then 2 else 1, ty := jobType j, cause := 0, marked := false, wfCut := false, tag := jobTag j, inJob := true
    head := jobHead j, zone := jobZone j, track := jobTrack j, sector := jobFirst j + i, body := jobBody j, index := i, mask := m
    home := (jobTrack j, jobFirst j + i), spareTrack := 0, spareSector := 0, reading := if fill then 1 else 0, verify := false, crc := 0#32, verifyFails := 0
    taken := false, payload := [], stored := [], slot := none, credit := false, ready := 0, landing := none, inflight := none }

/-- Take sector `i` of a starting job into its entry; a relocated one passes to Gate (R299). -/
def takeEntry (o : Nat) (j : TrackJob) (s : State) (i : Nat) : State :=
  let e := (jobBase j + i) % 2048
  if jobType j = 5 ∨ jobType j = 6 then
    modEntry o e (fun y => { y with tag := jobTag j, inJob := true, taken := false }) s
  else
    let x : JobEntry := match entry s o e with
      | some y =>
        if y.state = 8 ∨ y.state = 1 then { y with state := 1, tag := jobTag j, inJob := true, taken := false, reading := 0 }
        else { newEntry j i with home := y.home, spareTrack := y.spareTrack, spareSector := y.spareSector, verify := y.verify
                                 verifyFails := y.verifyFails, stored := y.stored, inflight := y.inflight }
      | none => newEntry j i
    match (if jobSpare j then none else relocated s (oarAct o) x.head x.track x.sector) with
    | some r =>
      let y := { x with state := 9, spareTrack := fld (r.getD 2 0#32) 23 0, spareSector := fld (r.getD 3 0#32) 9 0 }
      raise (Page.OAR o) 4 0 0 ⟨word x.track, word x.sector, word e⟩
        ((setEntry o e (some y) s).count (Reg.OAR.RELOC_HIT_COUNT o) 1)
    | none => setEntry o e (some x) s

/-- A track job starts (R290). -/
def startJob (o : Nat) (j : TrackJob) (s : State) : State :=
  let s1 := if jobType j = 8 then s else (List.range (jobCount j)).foldl (takeEntry o j) s
  let fills := (oar s1 o).entries.any fun e => e.2.any fun y => y.inJob && y.reading == 1 && y.state == 2
  let write := (jobType j == 2 || jobType j == 8) && !fills
  let s3 := modOar o (fun r => { r with job := some { j with wantWrite := write, since := s.time } }) s1
  let both := laneSlot s (oarAct o) 0 == some (oarSlot o) && laneSlot s (oarAct o) 1 == some (oarSlot o)
  let s4 := if (jobType j = 2 ∨ jobType j = 8) ∧ both then raise (Page.OAR o) 28 5 4 {} s3 else s3
  let m := memberOf o (jobHead j)
  let r := calRecord s m (jobZone j)
  let s5 := modCal (fun c => { c with began := SMap.set (fun _ => none) c.began o (some r) })
    (s4.mark (Reg.OAR.ENTRY_HWM o) 11 0 (oar s4 o).entries.length)
  let s6 := if jobType j = 8 then s5 else calCompare m (jobZone j) r s5
  prepare o (preLevels (oarAct o) (jobHead j) (calLevels s6 m (jobZone j) r) s6)

/-- The slot is ON_TRACK in the mode in which the job begins (R290, R295). -/
def readyFor (s : State) (o : Nat) (j : TrackJob) : Bool :=
  let r := rudSlot s (oarAct o) (oarSlot o)
  let fills := jobType j == 2 && jobPartial j.words
  r.used && r.onTrack && r.head == jobHead j && r.write == ((jobType j == 2 || jobType j == 8) && !fills)

/-- Slot `k` is not usable yet: the port has frames to send, the slot does not hold the head that Gate wants, or SETTLE has not passed
(R156). -/
def portSettling (s : State) (a k : Nat) : Bool :=
  !(pre s a).rt.isEmpty || (pre s a).sending.isSome || slotPlacing s a k || !slotSettled s a k

/-- TRACK_JOB_START (R288, R290, R299). -/
def execTrackJobStart (oar : Nat) (s : State) : Host.Outcome State Fault Refusal :=
  .next (s.when (decide (oar < 16) && engineTakes s (0x10 + oar) && (Machine.oar s oar).job.isNone && !pwrFailing s
      && !portSettling s (oarAct oar) (oarSlot oar)) fun s =>
    match qFront (oarJobQ oar) s with
    | none => s
    | some it =>
      let j := asJob it.words
      match jobFault s oar j with
      | some (c, fe) =>
        match qNext (oarJobQ oar) s with
        | some (_, t) => refuseJob oar j c fe t
        | none => s
      | none =>
        if readyFor s oar j then
          match qNext (oarJobQ oar) s with
          | some (_, t) => startJob oar j t
          | none => s
        else s)

/-- The packets of a job's end, and its entries pass to Gate or become FREE (R291). -/
def finishJob (o : Nat) (j : TrackJob) (good lastings : Nat) (s : State) : State :=
  let mine := (oar s o).entries.filterMap fun e => match e.2 with
    | some y => if y.inJob then some (e.1, y) else none
    | none => none
  let s1 := mine.foldl (fun t x => if x.2.state = 10 ∧ x.2.cause = 0 then t else pushDone o (sectorPacket x.1 x.2) t) s
  let s2 := mine.foldl (fun t x =>
    if x.2.state = 10 then setEntry o x.1 none t else modEntry o x.1 (fun y => { y with inJob := false }) t) s1
  let passed := (mine.filter fun x => x.2.state != 10).length
  modOar o (fun r => { r with job := none })
    (pushDone o [pktHeader 3 0 false 0x81 (jobTag j), word (good + lastings * 65536), word passed] s2)

/-- TRACK_JOB_END (R291, R301). -/
def execTrackJobEnd (oar : Nat) (s : State) : Host.Outcome State Fault Refusal :=
  .next (s.when (oarRuns s oar) fun s =>
    let s1 := passageEnd oar s
    match (Machine.oar s1 oar).job with
    | none => s1
    | some j =>
      if jobType j = 8 then
        if j.wedges.length = jobCount j then
          finishJob oar j (jobCount j) 0 (raise (Page.OAR oar) 7 0 0 ⟨word (jobTrack j), 0#32, 0#32⟩
            (s1.setFld (Reg.OAR.SW_STATUS oar) 24 0 (jobTrack j)))
        else if mode s1 = 8 && s1.bit (Reg.OAR.SW_CTRL oar) 0 then s1
        else finishJob oar j j.wedges.length (jobCount j - j.wedges.length) s1
      else if jobRemaining s1 oar = 0 then
        let es := (Machine.oar s1 oar).entries.filterMap fun e => e.2.filter JobEntry.inJob
        let ended := es.filter fun y => y.state == 10
        finishJob oar j (ended.filter fun y => y.cause == 0).length (ended.filter fun y => y.cause != 0).length s1
      else s1)

/-! ### The zone table (R250 to R252) -/

/-- The actuator's first Oar. -/
def firstOar (o : Nat) : Bool := decide (o < 16) && o % 4 == 0

/-- Gate of the Oar's actuator is enabled. -/
def gateEnabled (s : State) (o : Nat) : Bool := s.bit (Reg.CTRL (Page.GATE (oarAct o))) 0

/-- ZONE_TABLE_LOAD (R252). -/
def execZoneTableLoad (req : Requester) (oar : Nat) (v : Word) (s : State) : Host.Outcome State Fault Refusal :=
  .next (s.when (decide (oar < 16) && bit v 0) (withWrite req (Reg.OAR.ZT_CTRL oar) v fun s =>
    if oar % 4 ≠ 0 ∨ s.bit (Reg.OAR.ZT_CTRL oar) 0 then s
    else if gateEnabled s oar then raise (Page.OAR oar) 28 5 5 {} s
    else modOar oar (fun r => { r with zones := [] })
      ((s.setBit (Reg.OAR.ZT_CTRL oar) 0 true).setBit (Reg.OAR.ZT_STATUS oar) 0 false)))

/-- The first check of its header that a zone table fails (R252). -/
def zoneFault (ws : List Word) (good : Bool) : Option Nat :=
  let w := fun i => ws.getD i 0#32
  if w 0 ≠ 0x5E2A70E1#32 ∨ fld (w 1) 7 0 ≠ 1 then some 1
  else if w 2 ≠ 0x3040#32 then some 2
  else if !good ∨ crcWords (ws.set 3 0#32) ≠ w 3 then some 3
  else if fld (w 1) 10 8 = 0 ∨ 6 < fld (w 1) 10 8 ∨ fld (w 5) 12 0 < 1200 ∨ 7800 < fld (w 5) 12 0 ∨ fld (w 6) 11 0 < 700
      ∨ 2000 < fld (w 6) 11 0 then some 4
  else none

/-- An entry passes its checks, the last good FIRST_TRACK of its head being `last` (R252). -/
def zoneGood (rpm servo : Nat) (z : List Word) (last : Option Nat) : Bool :=
  zoneRanges z && walkFits rpm servo z && (match last with
    | some t => decide (t < zFirst z)
    | none => true)

/-- Entries from index `i` on as stored, and how many of them are bad; `last`: the FIRST_TRACK last good of this head. -/
def storeZones (rpm servo heads : Nat) (ws : List Word) : Nat → Nat → Option Nat → List (List Word) × Nat
  | 0, _, _ => ([], 0)
  | n + 1, i, last =>
    let z := (ws.drop (16 + 8 * i)).take 8
    let last := if i % 64 = 0 then none else last
    let off := (Sys2Proof.setBit (z.getD 0 0#32) 31 false) :: z.drop 1
    if heads ≤ i / 64 then let r := storeZones rpm servo heads ws n (i + 1) last; (off :: r.1, r.2)
    else if !zValid z then let r := storeZones rpm servo heads ws n (i + 1) last; (z :: r.1, r.2)
    else if zoneGood rpm servo z last then let r := storeZones rpm servo heads ws n (i + 1) (some (zFirst z)); (z :: r.1, r.2)
    else let r := storeZones rpm servo heads ws n (i + 1) last; (off :: r.1, r.2 + 1)

/-- ZONE_TABLE_DONE (R252). -/
def execZoneTableDone (oar : Nat) (firstBad : Bool) (s : State) : Host.Outcome State Fault Refusal :=
  .next (s.when (firstOar oar && oarRuns s oar && s.bit (Reg.OAR.ZT_CTRL oar) 0) (underCredit (.load (Page.OAR oar)) fun s =>
    let a := s.reg64 (Reg.OAR.ZT_ADDR_LO oar) % 2 ^ 40 / 64 * 64
    let r1 := fetchWords false (0x10 + oar) a 0xC10 s
    let bad1 := if firstBad then some 3 else zoneFault r1.1 r1.2.1
    let r2 := if bad1.isSome then fetchWords false (0x10 + oar) a 0xC10 r1.2.2 else r1
    let s1 := r2.2.2.setBit (Reg.OAR.ZT_CTRL oar) 0 false
    match bad1, (if bad1.isSome then zoneFault r2.1 r2.2.1 else none) with
    | some _, some c => lasting (Page.OAR oar) 27 c {} ((s1.setFld (Reg.OAR.ZT_STATUS oar) 3 1 c).setBit (Reg.OAR.ZT_STATUS oar) 0 false)
    | bad, _ =>
      let w := fun i => r2.1.getD i 0#32
      let rpm := fld (w 5) 12 0
      let servo := fld (w 6) 11 0
      let st := storeZones rpm servo (fld (w 1) 10 8) r2.1 384 0 none
      let put := fun (m : SMap (List Word)) (e : List Word × Nat) => SMap.set (fun _ => []) m e.2 e.1
      let s2 := modOar oar (fun r => { r with zones := st.1.zipIdx.foldl put [] }) s1
      let s3 := ((s2.setReg (Reg.OAR.ZT_RPM oar) (word (rpm + servo * 65536))).setReg (Reg.OAR.ZT_ID oar) (w 4)).setReg
        (Reg.OAR.ZT_STATUS oar) (word (1 + s2.fld (Reg.OAR.ZT_STATUS oar) 3 1 * 2 + fld (w 1) 10 8 * 16 + st.2 * 65536))
      match bad with
      | some c => transient (Page.OAR oar) 27 c {} s3
      | none => s3))

/-! ### The relocation table (R297, R298) -/

/-- RELOC_TABLE_LOAD (R297). -/
def execRelocTableLoad (req : Requester) (oar : Nat) (v : Word) (s : State) : Host.Outcome State Fault Refusal :=
  .next (s.when (decide (oar < 16) && bit v 0) (withWrite req (Reg.OAR.RT_CTRL oar) v fun s =>
    if oar % 4 ≠ 0 ∨ s.bit (Reg.OAR.RT_CTRL oar) 0 then s
    else if gateEnabled s oar then raise (Page.OAR oar) 0 5 6 {} s
    else modOar oar (fun r => { r with relocs := [] })
      ((s.setBit (Reg.OAR.RT_CTRL oar) 0 true).setReg (Reg.OAR.RT_STATUS oar) 0#32)))

/-- The first check of its header that a relocation table fails (R297). -/
def relocFault (ws : List Word) (good : Bool) : Option Nat :=
  let w := fun i => ws.getD i 0#32
  if w 0 ≠ 0x5E7AB1E5#32 ∨ fld (w 1) 7 0 ≠ 1 then some 1
  else if 4096 < fld (w 2) 12 0 then some 4
  else if !good ∨ crcWords (ws.set 3 0#32) ≠ w 3 then some 3 else none

/-- The words of a relocation table: its header gives its length. -/
def fetchRelocs (o : Nat) (s : State) : List Word × Bool × State :=
  let a := s.reg64 (Reg.OAR.RT_ADDR_LO o) % 2 ^ 40 / 64 * 64
  let h := fetchWords false (0x10 + o) a 16 s
  let n := min 4096 (fld (h.1.getD 2 0#32) 12 0)
  let r := fetchWords false (0x10 + o) (a + 64) (4 * n) h.2.2
  (h.1 ++ r.1, h.2.1 && r.2.1, r.2.2)

/-- Words in groups of four. -/
def quads : Nat → List Word → List (List Word)
  | 0, _ => []
  | n + 1, ws => ws.take 4 :: quads n (ws.drop 4)

/-- RELOC_TABLE_DONE (R297). -/
def execRelocTableDone (oar : Nat) (firstBad : Bool) (s : State) : Host.Outcome State Fault Refusal :=
  .next (s.when (firstOar oar && oarRuns s oar && s.bit (Reg.OAR.RT_CTRL oar) 0) (underCredit (.load (Page.OAR oar)) fun s =>
    let r1 := fetchRelocs oar s
    let bad1 := if firstBad then some 3 else relocFault r1.1 r1.2.1
    let r2 := if bad1.isSome then fetchRelocs oar r1.2.2 else r1
    let s1 := r2.2.2.setBit (Reg.OAR.RT_CTRL oar) 0 false
    match bad1, (if bad1.isSome then relocFault r2.1 r2.2.1 else none) with
    | some _, some c => lasting (Page.OAR oar) 5 c {} (s1.setFld (Reg.OAR.RT_STATUS oar) 3 1 c)
    | bad, _ =>
      let n := fld (r2.1.getD 2 0#32) 12 0
      let s2 := modOar oar (fun r => { r with relocs := quads n (r2.1.drop 16) }) s1
      let s3 := (s2.setBit (Reg.OAR.RT_STATUS oar) 0 true).setFld (Reg.OAR.RT_STATUS oar) 28 16 n
      match bad with
      | some c => transient (Page.OAR oar) 5 c {} s3
      | none => s3))

/-- HEAD, TRACK and SECTOR of a relocation entry; its spare. -/
def relocKey (r : List Word) : Nat × Nat × Nat := (fld (r.getD 0 0#32) 26 24, fld (r.getD 0 0#32) 23 0, fld (r.getD 1 0#32) 9 0)
def relocSpare (r : List Word) : Nat × Nat × Nat := (fld (r.getD 0 0#32) 26 24, fld (r.getD 2 0#32) 23 0, fld (r.getD 3 0#32) 9 0)

/-- RT_RESULT of an entry (R298). -/
def relocResult (have_ : List (List Word)) (r : List Word) : Nat :=
  let w := fun i => r.getD i 0#32
  let others := have_.filter fun x => bit (x.getD 0 0#32) 31 && relocKey x != relocKey r
  if !bit (w 0) 31 ∨ fld (w 0) 30 27 ≠ 0 ∨ 5 < fld (w 0) 26 24 ∨ 1022 < (w 1).toNat ∨ 2 ^ 24 ≤ (w 2).toNat ∨ 1022 < (w 3).toNat then 3
  else if (others.any fun x => relocSpare x == relocKey r || relocKey x == relocSpare r) || relocKey r == relocSpare r then 2
  else if have_.any fun x => relocKey x == relocKey r then 0
  else if 4096 ≤ have_.length then 1 else 0

/-- RT_ADD (R298). -/
def execRtAdd (req : Requester) (oar : Nat) (v : Word) (s : State) : Host.Outcome State Fault Refusal :=
  .next (s.when (decide (oar < 16)) (withWrite req (Reg.OAR.RT_ADD oar 3) v fun s =>
    if oar % 4 ≠ 0 then s
    else
      let r := [s.reg (Reg.OAR.RT_ADD oar 0), s.reg (Reg.OAR.RT_ADD oar 1), s.reg (Reg.OAR.RT_ADD oar 2), v]
      let old := (Machine.oar s oar).relocs
      let c := relocResult old r
      let s1 := s.setFld (Reg.OAR.RT_RESULT oar) 2 0 c
      if c = 1 then lasting (Page.OAR oar) 6 0 {} s1
      else if c ≠ 0 then s1
      else
        let new := if old.any fun x => relocKey x == relocKey r then old.map fun x => if relocKey x = relocKey r then r else x
          else old ++ [r]
        (modOar oar (fun o => { o with relocs := new }) s1).setFld (Reg.OAR.RT_STATUS oar) 28 16 new.length))

/-- SW_ARM_WRITE (R301, R309): ARM is stored 0 outside SERVICE mode. -/
def execSwArmWrite (req : Requester) (oar : Nat) (v : Word) (s : State) : Host.Outcome State Fault Refusal :=
  .next (s.when (decide (oar < 16)) (withWrite req (Reg.OAR.SW_CTRL oar) v fun s =>
    s.setReg (Reg.OAR.SW_CTRL oar) (if mode s = 8 then v &&& 1#32 else 0#32)))

end Sys2Proof.Machine
end

