-- ==== Sys2Proof/Machine/StripeOps.lean ====
section
/-! DEFINITION. Stripe jobs: their packets, the runs they push, parity, and the work of a job from its start to its end
(R353, R359 to R366, R374 to R383). Runs, phases and scratch are the model's form of what the rules leave to Crew (log entry 19). -/

namespace Sys2Proof.Machine

/-! ### The packet of a stripe job (R360) -/

def spBand (ws : List Word) : Nat := fld (ws.getD 1 0#32) 11 0
def spStripe (ws : List Word) : Nat := fld (ws.getD 2 0#32) 23 0
def spFirst (ws : List Word) : Nat := fld (ws.getD 3 0#32) 12 0
def spCount (ws : List Word) : Nat := fld (ws.getD 3 0#32) 28 16
def spFirstMask (ws : List Word) : Nat := fld (ws.getD 4 0#32) 7 0
def spLastMask (ws : List Word) : Nat := fld (ws.getD 4 0#32) 15 8
def spOwner (ws : List Word) : Nat := fld (ws.getD 4 0#32) 21 16
def spVerify (ws : List Word) : Bool := bit (ws.getD 4 0#32) 22
def spKnownPos (ws : List Word) : Nat := fld (ws.getD 4 0#32) 28 24
def spKnown (ws : List Word) : Bool := bit (ws.getD 4 0#32) 31
def spDram (ws : List Word) : Nat := fld (ws.getD 5 0#32) 31 6 * 64 + fld (ws.getD 6 0#32) 7 0 * 2 ^ 32
def spStride (ws : List Word) : Nat := fld (ws.getD 7 0#32) 7 0
def spLun (ws : List Word) : Nat := fld (ws.getD 10 0#32) 5 0
def spFmt (ws : List Word) : Nat := fld (ws.getD 10 0#32) 8 6
def spLba (ws : List Word) : Nat := ofWords (ws.getD 11 0#32) (ws.getD 12 0#32)

/-- A mask with its counting bits all set (R286). -/
def wholeMask (fmt : Nat) : Nat := if blocksPer fmt = 1 then 1 else 255

/-- Blocks present of sector `x` of a stripe job. -/
def spMask (ws : List Word) (x : Nat) : Nat :=
  let m := (if x = spFirst ws then spFirstMask ws else 255) &&& (if x + 1 = spFirst ws + spCount ws then spLastMask ws else 255)
  m &&& wholeMask (spFmt ws)

/-- Sector `x` is among those of the job, and is one of them only in part. -/
def spCovers (ws : List Word) (x : Nat) : Bool := decide (spFirst ws ≤ x) && decide (x < spFirst ws + spCount ws)
def spPartial (ws : List Word) (x : Nat) : Bool := spMask ws x != wholeMask (spFmt ws)

/-- The job writes its whole stripe (R364). -/
def spFull (ws : List Word) (d : List Word) : Bool :=
  spFirst ws == 0 && spCount ws == 256 * bData d && spFirstMask ws == 255 && spLastMask ws == 255

/-- Job body of data sectors from sector `x` on, with masks `m1` and `m2` (R285, R360). -/
def dataBody (j : StripeJob) (x m1 m2 : Nat) : List Word :=
  let ws := j.words
  let k := x - spFirst ws
  let seed := spLba ws + k * blocksPer (spFmt ws)
  let dram := spDram ws + 64 * spStride ws * k
  [loWord seed, hiWord seed, loWord dram, word (dram / 2 ^ 32 % 256 + spStride ws * 256), ws.getD 8 0#32, ws.getD 9 0#32,
   word (fld (ws.getD 10 0#32) 17 0 + if spVerify ws then 2 ^ 21 else 0),
   word (m1 + m2 * 256 + j.id * 65536 + 2 ^ 27), word (0x24 + j.engine), 0#32, 0#32]

/-- Job body of sectors that Crew reads, or writes from scratch at usable offset `off`. -/
def rawBody (j : StripeJob) (off kind : Nat) (rebuilt : Bool) (stripe : Nat) : List Word :=
  [0#32, 0#32, loWord off, word (off / 2 ^ 32 % 256 + 68 * 256), j.words.getD 8 0#32, j.words.getD 9 0#32,
   word (spLun j.words + kind * 2 ^ 18 + if rebuilt then 2 ^ 22 else 0),
   word (255 + 255 * 256 + j.id * 65536 + 2 ^ 27), word (0x24 + j.engine), loWord stripe, hiWord stripe]

/-! ### Jobs in hand -/

def findJob (s : State) (id : Nat) : Option StripeJob := s.crew.jobs.find? (·.id == id)

def modJob (id : Nat) (f : StripeJob → StripeJob) (s : State) : State :=
  modCrew (fun c => { c with jobs := c.jobs.map fun j => if j.id = id then f j else j }) s

/-- Stripe-job credits held by class (R444). -/
def stripeHeld (s : State) (c : Nat) : Nat := SMap.get (fun _ => 0) s.crew.held c

def setStripeHeld (c n : Nat) (s : State) : State :=
  modCrew (fun r => { r with held := SMap.set (fun _ => 0) r.held c n }) s

/-- A stripe-job credit of class `c` can be granted (R445). -/
def stripeGrants (s : State) (c : Nat) : Bool := creditGrants 2048 (stripeHeld s) (resField s Reg.SYS.RES_STRIPE_LO) c 1

/-- The lowest credit index that no job holds, and whose record slot holds no open record. -/
def freeJobId (s : State) : Nat :=
  ((List.range 2048).find? fun i => (findJob s i).isNone && !(s.crew.open_.any (·.slot == i))).getD 2048

/-- The status of a stripe job goes to its owner: the fast path on its return path, a core as STRIPE_DONE (R362). -/
def returnStatus (port : Nat) (ws : List Word) (status : Nat) (s : State) : State :=
  if 0xFE ≤ port then s
  else if 0x10 ≤ port then sendBack (spOwner ws) [pktHeader 2 0 false 0x85 (pktTag ws), word status] s
  else raise Page.CREWG 0 0 (pktTag ws) ⟨word status, 0#32, 0#32⟩ s

/-- A new job holds its credit and waits for its stripe. -/
def addJob (kind cls port engine : Nat) (ws : List Word) (rows : List Nat) (s : State) : State :=
  let j : StripeJob :=
    { id := freeJobId s, kind := kind, words := ws, band := spBand ws, stripe := spStripe ws, port := port, cls := cls, engine := engine
      holds := false, record := none, journalled := false, rows := rows, batch := [], phase := 0, ctxs := [], runs := [], got := []
      made := [], failed := [], scratch := none, status := 0, meansFailed := false, again := [] }
  setStripeHeld cls (stripeHeld s cls + 1) (modCrew (fun c => { c with jobs := c.jobs ++ [j] }) s)

/-- A job leaves and its credit returns. -/
def dropJob (j : StripeJob) (s : State) : State :=
  setStripeHeld j.cls (stripeHeld s j.cls - 1)
    (modCrew (fun c => { c with jobs := c.jobs.filter (·.id != j.id)
                                scratch := c.scratch.filter fun x => j.scratch != some x }) s)

/-- Header and words of a job that Crew makes for itself. -/
def ownWords (kind prio b st first count : Nat) (lun : Nat) : List Word :=
  [pktHeader 13 prio false kind 0, word b, word st, word (first + count * 65536), word (0xFFFF + 0x24 * 65536), 0#32, 0#32, 68#32,
   0#32, 0#32, word lun, 0#32, 0#32]

/-- The descriptor a job writes under: a reshape's target, else the band's. -/
def writeDesc (s : State) (j : StripeJob) : List Word :=
  if j.kind = 7 then s.crew.target.getD [] else bandWords s j.band

/-- Stripes of the band that a job holds: a reshape job those it reads (R361, R382). -/
def jobStripes (s : State) (j : StripeJob) : List Nat :=
  if j.kind = 7 then
    let d := bandWords s j.band
    let dn := bData (s.crew.target.getD [])
    let lo := j.stripe * dn / bData d
    let hi := ((j.stripe + 1) * dn - 1) / bData d
    ((List.range (hi + 1 - lo)).map (lo + ·)).filter (· < bStripes d)
  else if j.kind = 8 then [] else [j.stripe]

/-- No earlier job of its stripe stands before the job (R361). -/
def canHold (s : State) (j : StripeJob) : Bool :=
  let mine := jobStripes s j
  let clash := fun k : StripeJob => k.band == j.band && k.kind != 8 && (jobStripes s k).any mine.contains
  !(s.crew.jobs.any fun k => k.id != j.id && k.holds && clash k)
    && !((s.crew.jobs.takeWhile fun k => k.id != j.id).any clash)

/-! ### Runs (R284, R364) -/

/-- Runs waiting for room in their Gate's queue go there. A run whose queue is in fault comes back as ended. -/
def flushCrew (s : State) : State :=
  s.crew.outbox.foldl (fun t x =>
    if t.crew.outbox.contains x then
      let u := modCrew (fun c => { c with outbox := c.outbox.erase x }) t
      match qPush (.gate (BitVec.ofNat 2 x.1).toFin) x.2.1 x.2.2 u with
      | none => t
      | some (v, .fault) => sendBack x.2.1 [pktHeader 3 0 false 0x84 (pktTag x.2.2), word (2 + runCount x.2.2 * 65536), word (8 * 4096)] v
      | some (v, _) => v
    else t) s

/-- One run of consecutive member sectors; where the zone table gives no place its sectors end REFUSED. -/
def pushRun (id ty head msn : Nat) (keys : List Nat) (body : List Word) (s : State) : State :=
  match findJob s id with
  | none => s
  | some j =>
    match memberPlace s head msn with
    | none => modJob id (fun j => { j with failed := j.failed ++ keys.map fun k => (k, 10) }) s
    | some (t, sec) =>
      let tag := s.crew.nextTag
      let prio := if j.kind = 4 then s.fld Reg.CREWG.REBUILD_CFG 18 16 else if j.kind ≤ 3 then pktPrio j.words else 0
      let pkt := [pktHeader 16 prio false ty tag, word (head + keys.length * 256 + j.cls * 2 ^ 20), word t, word sec, 0#32] ++ body
      let s1 := modJob id (fun j => { j with runs := j.runs ++ [⟨tag, head, msn, ty == 2, keys⟩] }) s
      modCrew (fun c => { c with nextTag := (tag + 1) % 65536, outbox := c.outbox ++ [(head / 6, 0x24 + j.engine, pkt)] }) s1

/-- The stretches of a list in which each item follows the one before. -/
def stretches (next : Nat → Nat → Bool) : List Nat → List (List Nat)
  | [] => []
  | x :: xs =>
    match stretches next xs with
    | (y :: ys) :: r => if next x y then (x :: y :: ys) :: r else [x] :: (y :: ys) :: r
    | r => [x] :: r

/-- Context `c` of a job: stripe and row. -/
def ctxAt (j : StripeJob) (c : Nat) : Nat × Nat := j.ctxs.getD c (0, 0)

/-- Context `c'` is the next row after `c` of the same stripe. -/
def ctxNext (j : StripeJob) (c c' : Nat) : Bool := c + 1 == c' && (ctxAt j c).1 == (ctxAt j c').1 && (ctxAt j c).2 + 1 == (ctxAt j c').2

/-- Row `k'` of the batch is the next after `k`. -/
def rowNext (j : StripeJob) (k k' : Nat) : Bool := k + 1 == k' && j.batch.getD k 0 + 1 == j.batch.getD k' 0

/-- Key of position `p` in context or row `c`; written sectors have keys of their own. -/
def readKey (c p : Nat) : Nat := 32 * c + p
def writeKey (k p : Nat) : Nat := 32 * (1024 + k) + p

/-! ### What is read, what is erased (R353, R357) -/

def gotAt (j : StripeJob) (c p : Nat) : Option (List Byte) := SMap.get (fun _ => none) j.got (readKey c p)
def madeAt (j : StripeJob) (k p : Nat) : Option (List Byte) := SMap.get (fun _ => none) j.made (writeKey k p)
def readFailedAt (j : StripeJob) (c p : Nat) : Bool := j.failed.any (·.1 == readKey c p)

/-- The sector at position `p` of the context is erased. -/
def erasedAt (s : State) (j : StripeJob) (c p : Nat) : Bool :=
  (place s j.band (bandWords s j.band) (ctxAt j c).1 p).isNone || readFailedAt j c p

def dataPos (d : List Word) (st : Nat) : List Nat := (List.range (bData d)).map (posData d st)

/-- Erased data positions, and parity positions that can be read, of a context. -/
def erasedData (s : State) (j : StripeJob) (c : Nat) : List Nat :=
  (dataPos (bandWords s j.band) (ctxAt j c).1).filter (erasedAt s j c)
def freeParity (s : State) (j : StripeJob) (c : Nat) : List Nat :=
  (parityPos (bandWords s j.band) (ctxAt j c).1).filter fun p => !erasedAt s j c p

/-- Parity of the stripe may serve: it is synchronised, and not lost unless the job writes the stripe anew (R374, R377). -/
def mayRebuild (s : State) (j : StripeJob) (c : Nat) : Bool :=
  let d := bandWords s j.band
  bRed d != 0 && j.kind != 5 && !unsynced d (ctxAt j c).1 && (j.kind == 3 || j.kind == 4 || !isLost s j.band (ctxAt j c).1)

/-- Positions to read so that those of `want` become known (R363, R375). -/
def readSet (s : State) (j : StripeJob) (c : Nat) (want : List Nat) : List Nat :=
  let good := want.filter fun p => !erasedAt s j c p
  let lost := erasedData s j c
  let par := freeParity s j c
  if !(want.any (erasedAt s j c)) || !mayRebuild s j c || decide (par.length < lost.length) then good
  else (good ++ (dataPos (bandWords s j.band) (ctxAt j c).1).filter (fun p => !erasedAt s j c p) ++ par.take lost.length).eraseDups

/-! ### Parity (R359) -/

/-- Product in GF(2^8) with polynomial 0x11D. -/
def gmul (a b : Byte) : Byte :=
  ((List.range 8).foldl (fun (x : Byte × Byte) i =>
    (if b.getLsbD i then x.1 ^^^ x.2 else x.1, if x.2.getLsbD 7 then (x.2 <<< 1) ^^^ 0x1D#8 else x.2 <<< 1)) (0#8, a)).1

/-- g^n for g = 2. -/
def gpow (n : Nat) : Byte := (List.range n).foldl (fun x _ => gmul x 2#8) 1#8

/-- Inverse of a non-zero element. -/
def ginv (a : Byte) : Byte := (List.range 254).foldl (fun x _ => gmul x a) 1#8

def xorBytes (a b : List Byte) : List Byte := List.zipWith (· ^^^ ·) a b
def scaleBytes (k : Byte) (a : List Byte) : List Byte := a.map (gmul k)

/-- Bytes of a payload that parity covers. -/
def parityLen : Nat := 4288

/-- P and Q of data sectors with their indices. -/
def parityP (ds : List (Nat × List Byte)) : List Byte := ds.foldl (fun t x => xorBytes t x.2) (List.replicate parityLen 0#8)
def parityQ (ds : List (Nat × List Byte)) : List Byte :=
  ds.foldl (fun t x => xorBytes t (scaleBytes (gpow x.1) x.2)) (List.replicate parityLen 0#8)

/-- Known data sectors of a context with their indices. -/
def knownData (s : State) (j : StripeJob) (c : Nat) : List (Nat × List Byte) :=
  let d := bandWords s j.band
  (List.range (bData d)).filterMap fun i => (gotAt j c (posData d (ctxAt j c).1 i)).map fun b => (i, b.take parityLen)

/-- Erased data sector `i` of a context, solved from the parities read. -/
def solveData (s : State) (j : StripeJob) (c i : Nat) : Option (List Byte) :=
  let d := bandWords s j.band
  let st := (ctxAt j c).1
  let known := knownData s j c
  let lost := (List.range (bData d)).filter fun n => !known.any (·.1 == n)
  let p := (gotAt j c (posP d st)).map fun b => xorBytes (b.take parityLen) (parityP known)
  let q := if bRed d = 2 then (gotAt j c (posQ d st)).map fun b => xorBytes (b.take parityLen) (parityQ known) else none
  if !mayRebuild s j c then none
  else
    match lost, p, q with
    | [_], some p, _ => some p
    | [_], none, some q => some (scaleBytes (ginv (gpow i)) q)
    | [m, n], some p, some q =>
      let k := if m = i then n else m
      some (scaleBytes (ginv (gpow i ^^^ gpow k)) (xorBytes q (scaleBytes (gpow k) p)))
    | _, _, _ => none

/-- Bytes 0 to 4,287 at data index `i` of a context. -/
def dataContent (s : State) (j : StripeJob) (c i : Nat) : Option (List Byte) :=
  match gotAt j c (posData (bandWords s j.band) (ctxAt j c).1 i) with
  | some b => some (b.take parityLen)
  | none => solveData s j c i

/-- Bytes 0 to 4,287 of the sector that belongs at position `p` of a context: as read, or rebuilt. -/
def content (s : State) (j : StripeJob) (c p : Nat) : Option (List Byte) :=
  let d := bandWords s j.band
  match gotAt j c p with
  | some b => some (b.take parityLen)
  | none =>
    match dataAt d (ctxAt j c).1 p with
    | some i => solveData s j c i
    | none =>
      let ds := (List.range (bData d)).filterMap fun i => (dataContent s j c i).map fun b => (i, b)
      if !mayRebuild s j c || ds.length != bData d then none
      else if p = posP d (ctxAt j c).1 then some (parityP ds) else some (parityQ ds)

/-- Bytes that no rule states, with every POISON bit set: what stands for a sector that cannot be known (R377). -/
def unknownContent (s : State) : List Byte :=
  ((List.range parityLen).map (Config.freeByte s.free)).set 4227 0xFF#8

/-! ### Landing (R77, R375) -/

/-- An entry that stands for one sector of a job body. -/
def sectorOf (body : List Word) (mask : Nat) (payload : List Byte) : JobEntry :=
  { state := 4, ty := 1, cause := 0, marked := false, wfCut := false, tag := 0, inJob := false, head := 0, zone := 0, track := 0
    sector := 0, body := body, index := 0, mask := mask, home := (0, 0), spareTrack := 0, spareSector := 0, reading := 0
    verify := false, crc := 0#32, verifyFails := 0, taken := false, payload := payload, stored := [], slot := none, credit := false, ready := 0, landing := none
    inflight := none }

/-- The host area of a payload's bytes, decrypted where it was encrypted; none where the key slot is unusable (R245). -/
def openHost (body : List Word) (p : List Byte) (s : State) : Option (List Byte) × State :=
  if payloadEnc p && bodyKeyEn body then
    match slotKeys s (bodyKey body) with
    | none => (none, keyEnded (bodyKey body) s)
    | some k => let r := xtsPass false k (payloadSeed p) (payloadLun p) (payloadHost p) s; (some r.1, r.2)
  else (some (payloadHost p), s)

/-- Crew lands the blocks of `mask` of a sector, poisoned where it cannot be known; true when poison landed (R77). -/
def landSector (body : List Word) (mask : Nat) (p : Option (List Byte)) (s : State) : Bool × State :=
  let r := match p with
    | some b => openHost body b s
    | none => (none, s)
  let pay := match p, r.1 with
    | some b, some _ => b
    | _, _ => unknownContent s
  let x := sectorOf body mask pay
  (payloadPoison pay &&& mask != 0,
    ((maskRanges mask 8).foldl (landRange x (r.1.getD (payloadHost pay))) (if r.1.isNone then r.2.useFree else r.2)))

/-- The payload of a host sector that Crew builds itself because its place is erased (R363). -/
def buildHost (j : StripeJob) (x : Nat) (s : State) : Option (List Byte) × State :=
  match assemblePayload (0x14 + j.engine) (sectorOf (dataBody j x 255 255) 255 []) s with
  | (.ok p, t) => (some (p.take parityLen), t)
  | (.error _, t) => (none, t)

/-! ### Outcomes that runs bring (R246, R365, R442) -/

/-- The key a payload belongs to: its run, and the sector's place. -/
def keyOf (s : State) (j : StripeJob) (c : Consumed) : Option (Bool × Nat) :=
  j.runs.findSome? fun r =>
    if r.head = c.member then
      (r.keys.zipIdx.find? fun k => memberPlace s r.head (r.msn + k.2) == some (c.track, c.sector)).map fun k => (r.write, k.1)
    else none

def takeConsumed (s : State) (c : Consumed) : State :=
  modJob c.job (fun j =>
    match keyOf s j c with
    | some (true, k) => { j with made := SMap.set (fun _ => none) j.made k (some c.payload) }
    | some (false, k) => { j with got := SMap.set (fun _ => none) j.got k (some c.payload) }
    | none => j) s

/-- A journal copy's run ends (R370). -/
def endJournalRun (copy : Nat) (good : Bool) (s : State) : State :=
  let s1 := modCrew (fun c => { c with writing := c.writing.map fun w =>
    if copy = 0 then { w with tagA := none } else { w with tagB := none } }) s
  if good then s1.count Reg.JRNL.COPY_WRITES 1
  else if (journalMembers s1).any (·.1 == copy) then copyLost copy s1 else s1

/-- The position whose chunk a run's head holds. -/
def posOfHead (d : List Word) (h : Nat) : Nat := ((List.range (bWidth d)).find? fun p => bHead d p == h).getD 31

/-- RUN_END for a run of a stripe job: sectors of a read without a payload have failed; of a write, the first that the packet names,
or all of a refused run (log entry 20). -/
def endJobRun (r : CrewRun) (status first cause : Nat) (s : State) (j : StripeJob) : StripeJob :=
  let c := if status = 3 then (if memberFailed s r.head then 8 else 10) else cause
  let bad :=
    if r.write then
      (if status = 3 then r.keys else if status = 2 then [r.keys.getD first 0] else []).map fun k =>
        (k / 32 * 32 + posOfHead (writeDesc s j) r.head, c)
    else (r.keys.filter fun k => (SMap.get (fun _ => none) j.got k).isNone).map fun k => (k, c)
  { j with runs := j.runs.erase r, failed := j.failed ++ bad }

/-- A packet on a Crew engine's return path. -/
def takeReturned (s : State) (ws : List Word) : State :=
  if pktType ws ≠ 0x84 then s
  else
    let tag := pktTag ws
    let status := fld (ws.getD 1 0#32) 1 0
    let j1 := s.crew.writing
    if j1.any (·.tagA == some tag) then endJournalRun 0 (status < 2) s
    else if j1.any (·.tagB == some tag) then endJournalRun 1 (status < 2) s
    else
      match s.crew.jobs.find? fun j => j.runs.any (·.tag == tag) with
      | none => s
      | some j =>
        match j.runs.find? (·.tag == tag) with
        | none => s
        | some r => modJob j.id (endJobRun r status (fld (ws.getD 2 0#32) 8 0) (fld (ws.getD 2 0#32) 15 12) s) s

/-- The owner code is a Crew engine's. -/
def crewOwner (c : Nat) : Bool := decide (0x24 ≤ c) && decide (c < 0x2C)

/-- Crew takes what has come back, and pushes the runs that wait. -/
def crewDrain (s : State) : State :=
  let s1 := s.consumed.foldl takeConsumed { s with consumed := [] }
  let mine := s1.returned.filter fun r => crewOwner r.owner
  let s2 : State := { s1 with returned := s1.returned.filter fun r => !crewOwner r.owner }
  flushCrew (mine.foldl (fun t r => takeReturned t r.words) s2)

/-! ### Methods (R363) -/

/-- Data indices of a row that the job covers. -/
def coveredIn (j : StripeJob) (d : List Word) (row : Nat) : List Nat :=
  (List.range (bData d)).filter fun i => spCovers j.words (256 * i + row)

/-- The row takes read-modify-write (R363). -/
def wantsRmw (s : State) (j : StripeJob) (d : List Word) (c : Nat) (cov : List Nat) : Bool :=
  let st := (ctxAt j c).1
  decide (bLayout d = 2 ∨ bLayout d = 3) && !unsynced d st && !isLost s j.band st && j.port != 0xFF
    && !((dataPos d st ++ parityPos d st).any (erasedAt s j c)) && decide (cov.length + bRed d < bData d - cov.length)

/-- Positions of a context whose content the job needs. -/
def wantPos (s : State) (j : StripeJob) (c : Nat) : List Nat :=
  let d := bandWords s j.band
  let st := (ctxAt j c).1
  let row := (ctxAt j c).2
  let pos := posData d st
  if j.kind = 2 then (coveredIn j d row).map pos
  else if j.kind = 1 then
    let cov := coveredIn j d row
    let cut := (cov.filter fun i => spPartial j.words (256 * i + row) && erasedAt s j c (pos i)).map pos
    let rest := ((List.range (bData d)).filter fun i => !cov.contains i).map pos
    if bLayout d = 0 ∨ bLayout d = 1 ∨ rest = [] then cut
    else if wantsRmw s j d c cov then cov.map pos ++ parityPos d st
    else rest ++ cut
  else if j.kind = 3 then
    (s.crew.stale.filter fun e => e.1 == j.band && e.2.1 == st).map fun e =>
      ((List.range (bSpare d)).find? fun n => posSpare d st n == e.2.2.1 && bReplEn d n).elim e.2.2.1 (bRepl d)
  else if j.kind = 4 then
    let slot := spFirst j.words
    let p := bRepl d slot
    if (List.range (bSpare d)).any (fun n => posSpare d st n == p) || memberFailed s (bHead d (posSpare d st slot)) then [] else [p]
  else if j.kind = 5 then dataPos d st
  else if j.kind = 6 then (dataPos d st ++ parityPos d st).filter fun p => (place s j.band d st p).isSome
  else if j.kind = 7 then
    let dn := bData (writeDesc s j)
    ((List.range (bData d)).filter fun i => decide (j.stripe * dn ≤ st * bData d + i)
      && decide (st * bData d + i < (j.stripe + 1) * dn)).map pos
  else []

/-- What a context still lacks. -/
def missing (s : State) (j : StripeJob) (c : Nat) : List Nat :=
  (readSet s j c (wantPos s j c)).filter fun p => (gotAt j c p).isNone

/-- Read what the contexts lack (R363, R375). -/
def pushReads (id : Nat) (s : State) : State :=
  match findJob s id with
  | none => s
  | some j =>
    let d := bandWords s j.band
    let lack := (List.range j.ctxs.length).map (missing s j)
    (List.range (bWidth d)).foldl (fun t p =>
      let cs := (List.range j.ctxs.length).filter fun c => (lack.getD c []).contains p
      (stretches (ctxNext j) cs).foldl (fun u run =>
        let st := (ctxAt j (run.headD 0)).1
        match place s j.band d st p with
        | none => u
        | some at_ =>
          pushRun id 3 (bHead d at_) (256 * (bBase d at_ + st) + (ctxAt j (run.headD 0)).2) (run.map (readKey · p))
            (rawBody j 0 1 false 0) u) t) s

/-! ### Writing -/

/-- A sector that Crew writes from scratch: row of the batch, position written, position whose content it is, KIND, REBUILT,
bytes 0 to 4,287. -/
structure RawSector where
  row : Nat
  at_ : Nat
  role : Nat
  kind : Nat
  rebuilt : Bool
  bytes : List Byte

/-- Usable offset of the scratch of position `p` and row `k`. -/
def scratchAt (j : StripeJob) (k p : Nat) : Nat := (j.scratch.getD (0, 0)).1 + 4352 * (p * 16 + k)

/-- Bytes of parity computed are counted in KiB (R386); the rest below 1 KiB waits for more. -/
def countParity (e n : Nat) (s : State) : State :=
  let b := SMap.get (fun _ => 0) s.crew.parityRest e + n * parityLen
  (modCrew (fun c => { c with parityRest := SMap.set (fun _ => 0) c.parityRest e (b % 1024) }) s).count (Reg.CREW.PARITY_KIB e) (b / 1024)

/-- Write sectors from scratch, runs of consecutive rows together; those that are parity have been computed. -/
def pushRaw (id : Nat) (items : List RawSector) (s : State) : State :=
  match findJob s id with
  | none => s
  | some j =>
    let d := writeDesc s j
    let s1 := items.foldl (fun t x => storeBytes (scratchAt j x.row x.at_) x.bytes t)
      (countParity j.engine (items.filter fun x => x.kind != 0).length s)
    (List.range (bWidth d)).foldl (fun t p =>
      let mine := items.filter (·.at_ == p)
      let of_ := fun k => mine.find? (·.row == k)
      let same := fun a b => rowNext j a b && (of_ a).map (fun x => (x.kind, x.rebuilt)) == (of_ b).map (fun x => (x.kind, x.rebuilt))
      (stretches same ((List.range 16).filter fun k => (of_ k).isSome)).foldl (fun u run =>
        match of_ (run.headD 0) with
        | none => u
        | some x =>
          pushRun id 2 (bHead d p) (256 * (bBase d p + j.stripe) + j.batch.getD x.row 0) (run.map (writeKey · x.role))
            (rawBody j (scratchAt j x.row p) x.kind x.rebuilt (if x.kind = 0 then 0 else j.stripe)) u) t) s1

/-- KIND of the sector that belongs at position `p` of a stripe (R285, R359). -/
def kindAt (d : List Word) (st p : Nat) : Nat :=
  if bRed d = 2 ∧ p = posQ d st then 2 else if bLayout d ≠ 1 ∧ p = posP d st ∧ bRed d ≠ 0 then 1 else 0

/-- A rebuilt sector for position `p`'s own role. -/
def rebuiltAt (d : List Word) (st k at_ p : Nat) (b : List Byte) : RawSector := ⟨k, at_, p, kindAt d st p, true, b⟩

/-- Sectors that ended lasting on members in service and are known by now: they are written back (R375). -/
def writeBacks (s : State) (j : StripeJob) : List RawSector :=
  let d := bandWords s j.band
  (List.range j.ctxs.length).flatMap fun c =>
    ((dataPos d j.stripe ++ parityPos d j.stripe).filter fun p => readFailedAt j c p
      && !(spKnown j.words && j.kind == 2 && p == spKnownPos j.words && (place s j.band d j.stripe p).isNone)).filterMap fun p =>
        match place s j.band d j.stripe p, content s j c p with
        | some t, some b => some (rebuiltAt d j.stripe c t p b)
        | _, _ => none

/-- The stripe becomes lost for row `c`'s sake; with the map full the job stops (R377, R378). -/
def loseRow (id c : Nat) (s : State) : Bool × State :=
  match findJob s id with
  | none => (true, s)
  | some j =>
    let d := bandWords s j.band
    let st := (ctxAt j c).1
    let ps := (dataPos d st ++ parityPos d st).filter (erasedAt s j c)
    let r := loseStripe j.engine j.band st (ctxAt j c).2 ps s
    (r.1, modJob id (fun j => { j with meansFailed := true }) r.2)

/-- A job ends at once with status LASTING: it writes nothing further (R378). -/
def stopJob (id : Nat) (s : State) : State :=
  match findJob s id with
  | none => s
  | some j =>
    modCrew (fun c => { c with scratch := c.scratch.filter fun x => j.scratch != some x })
      (modJob id (fun j => { j with status := 2, rows := [], batch := [], phase := 0, ctxs := [], scratch := none, got := [], made := [] }) s)

/-- Enter the stripe for every context that has a wanted sector that cannot be known; false when the map was full. -/
def loseUnknown (id : Nat) (s : State) : Bool × State :=
  match findJob s id with
  | none => (true, s)
  | some j =>
    (List.range j.ctxs.length).foldl (fun t c =>
      if t.1 && (wantPos t.2 j c).any fun p => (content t.2 j c p).isNone then loseRow id c t.2 else t) (true, s)

/-- A row had at least one sector rebuilt. -/
def countRebuilt (j : StripeJob) (s : State) : State :=
  let n := ((List.range j.ctxs.length).filter fun c =>
    (wantPos s j c).any fun p => (gotAt j c p).isNone && (content s j c p).isSome).length
  s.count (Reg.CREW.ROWS_REBUILT j.engine) n

/-! #### READ (R375) -/

/-- Land the wanted sectors of the batch. -/
def landRows (id : Nat) (s : State) : State :=
  match findJob s id with
  | none => s
  | some j =>
    let d := bandWords s j.band
    (List.range j.ctxs.length).foldl (fun t c =>
      (coveredIn j d (ctxAt j c).2).foldl (fun u i =>
        let x := 256 * i + (ctxAt j c).2
        let r := landSector (dataBody j x 255 255) (spMask j.words x) (content s j c (posData d (ctxAt j c).1 i)) u
        if r.1 then modJob id (fun j => { j with status := max 1 j.status }) r.2 else r.2) t) s

/-- Land everything the job has yet to land, poisoned (R378). -/
def poisonRows (id : Nat) (s : State) : State :=
  match findJob s id with
  | none => s
  | some j =>
    let d := bandWords s j.band
    (j.batch ++ j.rows).foldl (fun t row =>
      (coveredIn j d row).foldl (fun u i =>
        (landSector (dataBody j (256 * i + row) 255 255) (spMask j.words (256 * i + row)) none u).2) t) s

/-! #### WRITE (R363, R364) -/

/-- Blocks missing from partly covered sectors whose place is erased land in the write's own buffer, as in R295. -/
def fillErased (id : Nat) (s : State) : State :=
  match findJob s id with
  | none => s
  | some j =>
    let d := bandWords s j.band
    (List.range j.ctxs.length).foldl (fun t c =>
      (coveredIn j d (ctxAt j c).2).foldl (fun u i =>
        let x := 256 * i + (ctxAt j c).2
        let p := posData d (ctxAt j c).1 i
        if spPartial j.words x && erasedAt s j c p then
          (landSector (dataBody j x 255 255) (wholeMask (spFmt j.words) - spMask j.words x) (content s j c p) u).2
        else u) t) s

/-- Mask with which row `k`'s sector of data index `i` is written: whole once its missing blocks have landed. -/
def writeMask (s : State) (j : StripeJob) (k i : Nat) : Nat :=
  let x := 256 * i + j.batch.getD k 0
  if erasedAt s j k (posData (bandWords s j.band) j.stripe i) then 255
  else (if x = spFirst j.words then spFirstMask j.words else 255) &&& (if x + 1 = spFirst j.words + spCount j.words then spLastMask j.words else 255)

/-- Push the host data of the batch: each data sector to its place, and of a mirror's whole sectors the copy too. -/
def pushHost (id : Nat) (s : State) : State :=
  match findJob s id with
  | none => s
  | some j =>
    let d := bandWords s j.band
    let st := j.stripe
    (List.range (bData d)).foldl (fun t i =>
      let ks := (List.range j.batch.length).filter fun k => spCovers j.words (256 * i + j.batch.getD k 0)
      let send := fun (p : Nat) (ks : List Nat) (u : State) =>
        match place s j.band d st p with
        | none => u
        | some at_ =>
          (stretches (rowNext j) ks).foldl (fun v run =>
            let k0 := run.headD 0
            let x := 256 * i + j.batch.getD k0 0
            pushRun id 2 (bHead d at_) (256 * (bBase d at_ + st) + j.batch.getD k0 0) (run.map (writeKey · p))
              (dataBody j x (writeMask s j k0 i) (writeMask s j (run.getLastD 0) i)) v) u
      let copies := ks.filter fun k => !spPartial j.words (256 * i + j.batch.getD k 0)
      let t1 := send (posData d st i) ks t
      if bLayout d = 1 then send (posP d st) copies t1 else t1) s

/-- New bytes of data index `i` in row `k`: as written, or as Crew builds them. -/
def newData (j : StripeJob) (d : List Word) (k i : Nat) (s : State) : Option (List Byte) × State :=
  match madeAt j k (posData d j.stripe i) with
  | some b => (some (b.take parityLen), s)
  | none => buildHost j (256 * i + j.batch.getD k 0) s

/-- Parity of row `k` after the write: P and Q, or the mirror copy of a sector written in part (R359, R363). -/
def rowParities (s : State) (j : StripeJob) (d : List Word) (k : Nat) : List (Nat × List Byte) × Bool × State :=
  let st := j.stripe
  let cov := coveredIn j d (j.batch.getD k 0)
  let news := (if bRed d = 0 then [] else cov).foldl (fun (x : List (Nat × List Byte) × Bool × State) i =>
    match newData j d k i x.2.2 with
    | (some b, t) => (x.1 ++ [(i, b)], x.2.1, t)
    | (none, t) => (x.1 ++ [(i, unknownContent t)], false, t.useFree)) ([], true, s)
  let rest := (List.range (bData d)).filter fun i => !cov.contains i
  let olds := rest.filterMap fun i => (dataContent s j k i).map fun b => (i, b)
  let oldPar := fun p => (gotAt j k p).map (·.take parityLen)
  let oldCov := cov.filterMap fun i => (gotAt j k (posData d st i)).map fun b => (i, b.take parityLen)
  let pars := parityPos d st
  let ps :=
    if pars.isEmpty then [] else if olds.length ≠ rest.length ∧ oldCov.length = cov.length ∧ pars.all (fun p => (oldPar p).isSome) then
      pars.map fun p =>
        let f := if p = posP d st then parityP else parityQ
        (p, xorBytes ((oldPar p).getD []) (xorBytes (f oldCov) (f news.1)))
    else
      let all := news.1 ++ rest.map fun i => (i, (dataContent s j k i).getD (unknownContent s))
      pars.map fun p => (p, if p = posP d st then parityP all else parityQ all)
  (ps, news.2.1, news.2.2)

/-- Push the parity of the batch, and what is written back (R363, R375). -/
def pushParity (id : Nat) (s : State) : State :=
  match findJob s id with
  | none => s
  | some j =>
    let d := bandWords s j.band
    let r := (List.range j.batch.length).foldl (fun (x : List RawSector × Bool × State) k =>
      let q := rowParities x.2.2 j d k
      let mine := q.1.filterMap fun y =>
        match place s j.band d j.stripe y.1 with
        | none => none
        | some t =>
          if bLayout d = 1 then
            (if (madeAt j k (posP d j.stripe)).isSome || (coveredIn j d (j.batch.getD k 0)).all
                (fun i => !spPartial j.words (256 * i + j.batch.getD k 0)) then none else some ⟨k, t, y.1, 0, true, y.2⟩)
          else some ⟨k, t, y.1, kindAt d j.stripe y.1, t != y.1, y.2⟩
      (x.1 ++ mine, x.2.1 && q.2.1, q.2.2)) ([], true, s)
    let s1 := if r.2.1 then r.2.2 else modJob id (fun j => { j with status := 2 }) r.2.2
    let backs := (writeBacks s j).filter fun x => !(r.1.any fun y => y.row == x.row && y.at_ == x.at_)
      && (madeAt j x.row x.role).isNone
    pushRaw id (r.1 ++ backs) s1

/-! #### Rebuild, resynchronisation, patrol, reshape -/

/-- The rebuilt sectors of a REPAIR or rebuild job (R366, R376, R377). -/
def rebuiltSectors (s : State) (j : StripeJob) : List RawSector :=
  let d := bandWords s j.band
  (List.range j.ctxs.length).flatMap fun c =>
    if j.kind = 3 then
      (s.crew.stale.filter fun e => e.1 == j.band && e.2.1 == j.stripe).filterMap fun e =>
        let at_ := e.2.2.1
        let p := ((List.range (bSpare d)).find? fun n => posSpare d j.stripe n == at_ && bReplEn d n).elim at_ (bRepl d)
        (content s j c p).map (rebuiltAt d j.stripe c at_ p)
    else
      (wantPos s j c).map fun p =>
        rebuiltAt d j.stripe c (posSpare d j.stripe (spFirst j.words)) p ((content s j c p).getD (unknownContent s))

/-- The parity of the batch from the data as landed (R374). -/
def resyncSectors (s : State) (j : StripeJob) : List RawSector :=
  let d := bandWords s j.band
  let st := j.stripe
  (List.range j.ctxs.length).flatMap fun c =>
    let all := (List.range (bData d)).map fun i => (i, (dataContent s j c i).getD (unknownContent s))
    (parityPos d st).filterMap fun p =>
      (place s j.band d st p).map fun t =>
        ⟨c, t, p, kindAt d st p, bLayout d == 1 || t != p, if p = posP d st then parityP all else parityQ all⟩

/-- Parity positions of a context that disagree with its data (R379). -/
def mismatches (s : State) (j : StripeJob) (c : Nat) : List Nat :=
  let d := bandWords s j.band
  let st := (ctxAt j c).1
  let known := knownData s j c
  if known.length ≠ bData d then []
  else (parityPos d st).filter fun p =>
    (gotAt j c p).any fun b => b.take parityLen != (if p = posP d st then parityP known else parityQ known)

/-- The one position to which the P and Q syndromes of a context point (R380): a data index, or a parity alone in error. -/
def syndromePos (s : State) (j : StripeJob) (c : Nat) : Option (Sum Nat Nat) :=
  let d := bandWords s j.band
  let st := (ctxAt j c).1
  match mismatches s j c with
  | [p] => some (.inr p)
  | [_, _] =>
    let known := knownData s j c
    let sp := xorBytes (((gotAt j c (posP d st)).getD []).take parityLen) (parityP known)
    let sq := xorBytes (((gotAt j c (posQ d st)).getD []).take parityLen) (parityQ known)
    ((List.range (bData d)).find? fun i => sq == scaleBytes (gpow i) sp).map .inl
  | _ => none

/-- The sectors that correct a context whose mismatch has stayed (R380). -/
def corrections (s : State) (j : StripeJob) (c : Nat) : List RawSector :=
  let d := bandWords s j.band
  let st := (ctxAt j c).1
  let known := knownData s j c
  let at_ := fun p => (place s j.band d st p).getD p
  let rewriteP := (mismatches s j c).map fun p => (⟨c, at_ p, p, kindAt d st p, bLayout d == 1 || at_ p != p
                                                    , if p = posP d st then parityP known else parityQ known⟩ : RawSector)
  if bLayout d = 1 then
    let a := (gotAt j c (posData d st 0)).getD []
    let b := (gotAt j c (posP d st)).getD []
    if payloadSeq a < payloadSeq b then [rebuiltAt d st c (at_ (posData d st 0)) (posData d st 0) (b.take parityLen)]
    else rewriteP
  else if bLayout d = 3 then
    match syndromePos s j c with
    | some (.inl i) =>
      let p := posData d st i
      let others := known.filter fun x => x.1 != i
      [rebuiltAt d st c (at_ p) p (xorBytes (((gotAt j c (posP d st)).getD []).take parityLen) (parityP others))]
    | some (.inr _) => rewriteP
    | none => (parityPos d st).map fun p => (⟨c, at_ p, p, kindAt d st p, at_ p != p
                                              , if p = posP d st then parityP known else parityQ known⟩ : RawSector)
  else rewriteP

/-- Patrol has its rows: mismatching ones are read once more, then reported and corrected; a row whose second reading fails has not come to
agree (R379, R380). -/
def patrolRows (id : Nat) (s : State) : State :=
  match findJob s id with
  | none => s
  | some j =>
    let bad := (List.range j.ctxs.length).filter fun c => !(mismatches s j c).isEmpty
    let fresh := bad.filter fun c => !j.again.contains c
    if j.again.isEmpty && !fresh.isEmpty then
      modJob id (fun j => { j with again := fresh, got := j.got.filter fun x => !fresh.contains (x.1 / 32) }) s
    else
      let pay := fun c : Nat => (⟨word j.band, word j.stripe, word (ctxAt j c).2⟩ : Payload)
      let known := fun c : Nat => (wantPos s j c).all fun p => (gotAt j c p).isSome
      let s1 := j.again.foldl (fun t c =>
        if bad.contains c || !known c then lasting (Page.CREW j.engine) 4 0 (pay c) t else transient (Page.CREW j.engine) 4 0 (pay c) t)
        (countRebuilt j s)
      let wrong := bad.flatMap (corrections s j)
      modJob id (fun j => { j with phase := 3 }) (pushRaw id (wrong ++ writeBacks s j) s1)

/-- The context that holds stripe `st`, row `row`. -/
def ctxOf (j : StripeJob) (st row : Nat) : Nat := (j.ctxs.zipIdx.find? fun x => x.1 == (st, row)).elim 0 Prod.snd

/-- A target stripe as a full-stripe write (R382): old sectors with their POISON bits; zero host areas beyond the old capacity, whose
metadata no rule states. -/
def reshapeSectors (s : State) (j : StripeJob) : List RawSector :=
  let d := bandWords s j.band
  let dn := writeDesc s j
  (List.range j.batch.length).flatMap fun k =>
    let row := j.batch.getD k 0
    let data := (List.range (bData dn)).map fun i =>
      let g := j.stripe * bData dn + i
      let st := g / bData d
      if bStripes d ≤ st then (i, List.replicate 4224 0#8 ++ ((List.range 64).map (Config.freeByte s.free)).set 3 0#8)
      else (i, (dataContent s j (ctxOf j st row) (g % bData d)).getD (unknownContent s))
    let mine := data.map fun x => (⟨k, posData dn j.stripe x.1, posData dn j.stripe x.1, 0, true, x.2⟩ : RawSector)
    let par := (parityPos dn j.stripe).map fun p =>
      (⟨k, p, p, kindAt dn j.stripe p, bLayout dn == 1, if p = posP dn j.stripe then parityP data else parityQ data⟩ : RawSector)
    (mine ++ par).filter fun x => !memberFailed s (bHead dn x.at_)

/-! ### A job's steps -/

/-- The job needs a journal record (R364, R366, R371, R382). -/
def needsRecord (j : StripeJob) : Bool := j.port != 0xFF && (j.kind == 1 || j.kind == 3 || j.kind == 7)

/-- The job may work: it holds its stripe, and its record, where it needs one, stands on every valid member. -/
def mayWork (j : StripeJob) : Bool := j.holds && j.runs.isEmpty && (!needsRecord j || (j.record.isSome && j.journalled))

/-- Scratch for a batch: the lowest free area of the pool; none while it does not fit (R361). -/
def takeScratch (s : State) (size : Nat) : Option (Nat × Nat) :=
  let base := s.reg64 Reg.CREWG.SCRATCH_LO / 64 * 64 % 2 ^ 40
  let stop := base + s.fld Reg.CREWG.SCRATCH_SIZE 15 0 * 2 ^ 20
  let starts := base :: s.crew.scratch.map fun x => x.1 + x.2
  let fits := fun a => decide (a + size ≤ stop) && !(s.crew.scratch.any fun x => decide (a < x.1 + x.2) && decide (x.1 < a + size))
  ((starts.filter fits).foldl (fun (t : Option Nat) a => some (t.elim a (min a))) none).map fun a => (a, size)

/-- Scratch that a job's batch takes. -/
def batchSize (s : State) (j : StripeJob) : Nat := 16 * (max (bWidth (bandWords s j.band)) (bWidth (writeDesc s j)) + 2) * 4352

/-- An earlier job waits because its batch does not fit (R361). -/
def scratchBehind (s : State) (j : StripeJob) : Bool :=
  (s.crew.jobs.takeWhile (·.id != j.id)).any fun k =>
    mayWork k && k.phase == 0 && !k.rows.isEmpty && (takeScratch s (batchSize s k)).isNone

/-- A batch of up to 16 rows begins; one that does not fit waits, oldest first (R361). -/
def startBatch (id : Nat) (s : State) : State :=
  match findJob s id with
  | none => s
  | some j =>
    if j.rows.isEmpty || scratchBehind s j then s
    else
      match takeScratch s (batchSize s j) with
      | none => s
      | some a =>
        let rows := j.rows.take 16
        let d := bandWords s j.band
        let ctxs := if j.kind = 7 then (jobStripes s j).flatMap fun st => rows.map fun r => (st, r)
          else rows.map fun r => (j.stripe, r)
        let known := if j.kind = 2 ∧ spKnown j.words ∧ spKnownPos j.words < bWidth d then
          (List.range rows.length).map fun c => (readKey c (spKnownPos j.words), 1) else []
        modCrew (fun c => { c with scratch := c.scratch ++ [a] })
          (modJob id (fun j => { j with batch := rows, rows := j.rows.drop 16, phase := 1, ctxs := ctxs, scratch := some a
                                        failed := j.failed ++ known }) s)

/-- The rows read are acted on. -/
def actOnRows (id : Nat) (s : State) : State :=
  match findJob s id with
  | none => s
  | some j =>
    let into := fun (n : Nat) (t : State) => modJob id (fun j => { j with phase := n }) t
    let hurt := (List.range j.ctxs.length).any fun c => (wantPos s j c).any fun p => (content s j c p).isNone
    let lost := loseUnknown id (if j.kind = 6 then s else countRebuilt j s)
    let t := lost.2
    if !lost.1 then stopJob id (if j.kind = 2 then poisonRows id t else t)
    else if j.kind = 6 then patrolRows id t
    else if j.kind = 3 then into 3 (pushRaw id (rebuiltSectors s j) (if hurt then modJob id (fun j => { j with status := 2 }) t else t))
    else if j.kind = 2 then into 3 (pushRaw id (writeBacks s j) (landRows id t))
    else if j.kind = 1 then into 2 (pushHost id (fillErased id t))
    else if j.kind = 4 then into 3 (pushRaw id (rebuiltSectors s j ++ writeBacks s j) t)
    else if j.kind = 5 then into 3 (pushRaw id (resyncSectors s j) t)
    else if j.kind = 7 then into 3 (pushRaw id (reshapeSectors s j) t)
    else into 3 t

/-- Data sectors whose own fill read failed are taken as erased and issued again once their blocks are known (R71, R295). -/
def fillFailures (s : State) (j : StripeJob) : List (Nat × Nat) :=
  let d := bandWords s j.band
  j.failed.filterMap fun f =>
    let k := f.1 / 32 - 1024
    let p := ((List.range (bWidth d)).find? fun p => place s j.band d j.stripe p == some (f.1 % 32)).getD 31
    if decide (32768 ≤ f.1) && f.2 == 6 && (dataAt d j.stripe p).isSome && !readFailedAt j k p then some (readKey k p, 6) else none

/-- The data of the batch has been written: its parity follows. -/
def afterHost (id : Nat) (s : State) : State :=
  match findJob s id with
  | none => s
  | some j =>
    match fillFailures s j with
    | [] => modJob id (fun j => { j with phase := 3 }) (pushParity id s)
    | fs =>
      modJob id (fun j => { j with phase := 1, made := []
                                   failed := fs ++ j.failed.filter fun f => !(decide (32768 ≤ f.1) && f.2 == 6) }) s

/-- Chunks whose writes ended lasting become stale (R365); a failed target sector sends its stripe to the re-copies. -/
def enterStale (id : Nat) (s : State) : State :=
  match findJob s id with
  | none => s
  | some j =>
    (j.failed.filter fun f => decide (32768 ≤ f.1) && f.2 != 8).foldl (fun t f =>
      if j.kind = 7 then modCrew (fun c => { c with recopy := c.recopy.filter (· != j.stripe) ++ [j.stripe] }) t
      else if j.kind = 3 then t
      else addStale j.engine j.band j.stripe (f.1 % 32) f.2 t) s

/-- Rows of a write that are unrecoverable now (R353, R365). -/
def rowsLost (s : State) (j : StripeJob) : List Nat :=
  let d := bandWords s j.band
  (List.range j.batch.length).filter fun c =>
    decide (bRed d < ((dataPos d j.stripe ++ parityPos d j.stripe).filter fun p =>
      (place s j.band d j.stripe p).isNone || (readFailedAt j c p && (madeAt j c p).isNone)).length)

/-- The batch ends. -/
def endBatch (id : Nat) (s : State) : State :=
  match findJob s id with
  | none => s
  | some j =>
    let s1 := enterStale id s
    let lost := if j.kind = 1 then rowsLost s1 j else []
    let r := match lost with
      | [] => (true, s1)
      | c :: _ =>
        let q := loseRow id c s1
        (q.1, modJob id (fun j => { j with status := 2 }) q.2)
    if !r.1 then stopJob id r.2
    else
      modCrew (fun c => { c with scratch := c.scratch.filter fun x => j.scratch != some x })
        (modJob id (fun j => { j with batch := [], phase := 0, ctxs := [], got := [], made := [], scratch := none, again := []
                                      failed := if j.kind = 3 then j.failed.filter fun f => decide (32768 ≤ f.1) else [] }) r.2)

/-- Flags of the job's record: WB, RESHAPE, REPAIR, FULL (R367). -/
def recordFlags (s : State) (j : StripeJob) : Nat :=
  (if j.kind = 1 ∧ wbActive s then 1 else 0) + (if j.kind = 7 then 2 else 0) + (if j.kind = 3 then 4 else 0)
    + (if j.kind = 7 ∨ (j.kind = 1 ∧ spFull j.words (bandWords s j.band)) then 8 else 0)

/-- The record is formed while the journal runs (R364, R371). -/
def stepRecord (id : Nat) (s : State) : State :=
  match findJob s id with
  | none => s
  | some j =>
    if !j.holds || !needsRecord j || j.record.isSome || jrnlState s ≠ 1 then s
    else
      let n := s.crew.nextJseq
      let bare := (journalMembers s).isEmpty
      modJob id (fun j => { j with record := some n, journalled := bare }) (openRecord id (recordFlags s j) j.words s)

/-- The job takes its stripe once no earlier job stands before it (R361). -/
def stepHold (id : Nat) (s : State) : State :=
  match findJob s id with
  | none => s
  | some j => if !j.holds && canHold s j && !(inSafe s && j.kind != 2 && j.kind != 8) then modJob id (fun j => { j with holds := true }) s else s

/-- Apply `f` to a job that is in phase `n` and may work; what it moves between DRAM and Crew holds a credit of class MEDIA (R26). -/
def inPhase (n id : Nat) (f : Nat → State → State) (s : State) : State :=
  match findJob s id with
  | none => s
  | some j => if mayWork j && j.phase == n then underCredit (.stripe id) (f id) s else s

/-- Reads that the batch lacks are pushed; with nothing lacking it is acted on. -/
def stepRead (id : Nat) (s : State) : State :=
  match findJob s id with
  | none => s
  | some j => if (List.range j.ctxs.length).all fun c => (missing s j c).isEmpty then actOnRows id s else pushReads id s

/-- One advance of a job. -/
def stepJob (id : Nat) (s : State) : State :=
  flushCrew (inPhase 3 id endBatch (inPhase 2 id afterHost (inPhase 1 id stepRead (inPhase 0 id startBatch
    (stepRecord id (stepHold id s))))))

/-- The job's work is over: no row remains. -/
def jobOver (j : StripeJob) : Bool := j.holds && j.rows.isEmpty && j.batch.isEmpty && j.runs.isEmpty && j.phase == 0

/-- A job that reads both journal rings pushes its runs (R372): key 32 × ring sector + copy. -/
def pushRings (id : Nat) (s : State) : State :=
  match findJob s id with
  | none => s
  | some j =>
    flushCrew ((journalMembers s).foldl (fun t m =>
      (List.range (s.fld Reg.JRNL.JRNL_CFG 6 0)).foldl (fun u c =>
        pushRun id 3 m.2 (256 * 64 * s.critFld 15 31 16 + 256 * c) ((List.range 256).map fun i => readKey (256 * c + i) m.1)
          (rawBody j 0 3 false 0) u) t) s)

/-- The packet is a run of the journal sector being written. -/
def journalPacket (s : State) (ws : List Word) : Bool :=
  s.crew.writing.any fun w => w.tagA == some (pktTag ws) || w.tagB == some (pktTag ws)

/-- Jobs of a failed Crew engine begin anew with engine `e2` (R74, R362). -/
def moveJobs (e e2 : Nat) (s : State) : State :=
  let all := fun j : StripeJob =>
    if j.kind = 8 then []
    else if j.kind = 1 ∨ j.kind = 2 then (List.range 256).filter fun r => (coveredIn j (bandWords s j.band) r) != []
    else List.range 256
  let rings := (s.crew.jobs.filter fun j => j.engine == e && j.kind == 8).map StripeJob.id
  let s1 := modCrew (fun c => { c with
    scratch := c.scratch.filter fun x => !(c.jobs.any fun j => j.engine == e && j.scratch == some x)
    outbox := c.outbox.filter fun x => x.2.1 != 0x24 + e || journalPacket s x.2.2
    jobs := c.jobs.map fun j =>
      if j.engine = e then
        { j with engine := e2, rows := all j, batch := [], phase := 0, ctxs := [], runs := [], got := [], made := [], failed := []
                 scratch := none, status := 0, meansFailed := false, again := [] }
      else j }) s
  rings.foldl (fun t i => pushRings i t) s1

/-- A Crew engine is in machine check (R74, R362, R385): its jobs begin anew with a sibling that runs. Without one they end lasting to
their owners, and those that Crew itself owns begin anew once an engine runs. -/
def crewCheck (e : Nat) (s : State) : State :=
  match (List.range 8).find? fun x => x != e && engineRuns s (0x24 + x) with
  | some x => moveJobs e x s
  | none =>
    let mine := s.crew.jobs.filter fun j => j.engine == e
    (mine.filter fun j => decide (j.port < 0xFE)).foldl (fun t j => dropJob j (returnStatus j.port j.words 2 t)) (moveJobs e e s)

end Sys2Proof.Machine
end

