-- ==== Sys2Proof/Machine/SlipOps.lean ====
section
/-! DEFINITION. Slipway's tables, frames, sense data, block geometry and protection information
(R392 to R403, R405, R406, R410, R413, R417, R418, R429, R430, R474). -/

namespace Sys2Proof.Machine

/-! ### Access -/

def modSlip (f : Slip → Slip) (s : State) : State := { s with slip := f s.slip }

def sasLane (s : State) (l : Nat) : SasLane := SMap.get (fun _ => SasLane.reset) s.slip.lanes l
def modLane (l : Nat) (f : SasLane → SasLane) (s : State) : State :=
  modSlip (fun x => { x with lanes := SMap.set (fun _ => SasLane.reset) x.lanes l (f (sasLane s l)) }) s

def nexus (s : State) (n : Nat) : Option Nexus := SMap.get (fun _ => none) s.slip.nexuses n
def setNexus (n : Nat) (x : Option Nexus) (s : State) : State :=
  modSlip (fun r => { r with nexuses := SMap.set (fun _ => none) r.nexuses n x }) s

/-- Unit-attention bit of a nexus and a logical unit (R403). -/
def uaBit (s : State) (n l : Nat) : Bool := SMap.get (fun _ => false) s.slip.ua (64 * n + l)
def setUa (n l : Nat) (b : Bool) (s : State) : State :=
  modSlip (fun r => { r with ua := SMap.set (fun _ => false) r.ua (64 * n + l) b }) s

def lu (s : State) (n : Nat) : Option Lu := SMap.get (fun _ => none) s.slip.lus n
def setLu (n : Nat) (x : Option Lu) (s : State) : State :=
  modSlip (fun r => { r with lus := SMap.set (fun _ => none) r.lus n x }) s

def svc (s : State) (c : Nat) : Option SvcOp := SMap.get (fun _ => none) s.slip.svcs c
def setSvc (c : Nat) (x : Option SvcOp) (s : State) : State :=
  modSlip (fun r => { r with svcs := SMap.set (fun _ => none) r.svcs c x }) s

def hazEntry (s : State) (e : Nat) : Option HazEntry := SMap.get (fun _ => none) s.slip.haz e
def setHaz (e : Nat) (x : Option HazEntry) (s : State) : State :=
  modSlip (fun r => { r with haz := SMap.set (fun _ => none) r.haz e x }) s

/-- The entries in use, with their indices. -/
def hazList (s : State) : List (Nat × HazEntry) := s.slip.haz.filterMap fun e => e.2.map fun x => (e.1, x)

def findTask (s : State) (id : Nat) : Option HostTask := s.slip.tasks.find? (·.id == id)
def modTask (id : Nat) (f : HostTask → HostTask) (s : State) : State :=
  modSlip (fun r => { r with tasks := r.tasks.map fun t => if t.id = id then f t else t }) s

/-- Tasks that hold a host-task credit. -/
def heldTasks (s : State) : List HostTask := s.slip.tasks.filter (·.credit)
/-- The held task with a task index; of a nexus with a tag. -/
def taskAt (s : State) (i : Nat) : Option HostTask := (heldTasks s).find? (·.index == i)
def taskOf (s : State) (n tag : Nat) : Option HostTask := (heldTasks s).find? fun t => t.nexus == n && t.tag == tag

/-! ### Lanes (R392, R395) -/

def lanePort (l : Nat) : Nat := l / 2
def laneUp (s : State) (l : Nat) : Bool := s.bit (Reg.SLIP.LINK_STATUS l) 2
def portEnabled (s : State) (p : Nat) : Bool := s.bit Reg.SLIPC.PORT_CFG p

/-- The engine of lane `l` runs. -/
def slipRuns (s : State) (l : Nat) : Bool := decide (l < 4) && engineRuns s (0x2C + l)

/-- Any Slipway engine runs: the shared parts work. -/
def slipAlive (s : State) : Bool := pageOn s Page.SLIPC && !pwrFailing s && (List.range 4).any (slipRuns s)

/-- The lane transmits frames. -/
def laneSends (s : State) (l : Nat) : Bool := slipRuns s l && laneUp s l && portEnabled s (lanePort l) && !pwrFailing s

def nexusPort (s : State) (n : Nat) : Nat := ((nexus s n).map Nexus.port).getD 2

/-- The lane serves the nexus. -/
def laneServes (s : State) (l n : Nat) : Bool := laneSends s l && nexusPort s n == lanePort l

/-- A lane in a low-power state wakes (R395). -/
def wakeLane (l : Nat) (s : State) : State :=
  if s.fld (Reg.SLIP.LINK_STATUS l) 5 4 = 0 then s else raise (Page.SLIP l) 5 0 0 {} (s.setFld (Reg.SLIP.LINK_STATUS l) 5 4 0)

/-- A frame leaves on lane `l`. -/
def transmit (l : Nat) (f : TxFrame) (s : State) : State := modLane l (fun x => { x with frames := x.frames ++ [f] }) (wakeLane l s)

/-- A RESPONSE frame that belongs to no task: status and sense bytes, or with `code` a response code alone. -/
def replyFrame (l n tag : Nat) (isCode : Bool) (status : Nat) (bytes : List Byte) (s : State) : State :=
  transmit l ⟨if isCode then 5 else 4, 0, n, tag, 0, bytes.length, status, bytes, false⟩ s

/-! ### Logical units (R406, R417) -/

def luFmt (u : Lu) : Nat := fld (u.words.getD 0 0#32) 11 9
def luPi (u : Lu) : Nat := fld (u.words.getD 0 0#32) 13 12
def luWo (u : Lu) : Nat := fld (u.words.getD 0 0#32) 15 14
def luKeyEn (u : Lu) : Bool := bit (u.words.getD 0 0#32) 16
def luKey (u : Lu) : Nat := fld (u.words.getD 0 0#32) 23 17
def luSense (u : Lu) : Bool := bit (u.words.getD 0 0#32) 24
def luCapacity (u : Lu) : Nat := ofWords (u.words.getD 1 0#32) (u.words.getD 2 0#32)
def luWoPtr (u : Lu) : Nat := ofWords (u.words.getD 6 0#32) (u.words.getD 7 0#32)
def luStored (u : Lu) : Nat := storedBlock (luFmt u) (luPi u != 0)
def luBps (u : Lu) : Nat := blocksPer (luFmt u)

/-- STRIDE of the unit's stored block size (R406). -/
def luStride (u : Lu) : Nat := max 64 ((luBps u * luStored u + 63) / 64)

/-- The unit is enabled for the commands decoded now (R417, R420). -/
def luEnabled (s : State) (n : Nat) : Bool := decide (n < 64) && (lu s n).any fun u => u.state == 1 || u.state == 3

/-- Word 11 of a job body: LUN, FMT, PI, KEY_EN, KEY_SLOT (R285). -/
def luWord (n : Nat) (u : Lu) : Word :=
  word (n + luFmt u * 64 + (if luPi u = 0 then 0 else 512) + (if luKeyEn u then 1024 + luKey u * 2048 else 0))

/-! ### Sense data (R405; the layouts are SCSI's, log entry 21) -/

/-- `n` bytes of a number, most significant first. -/
def beBytes (n v : Nat) : List Byte := (toBytes n v).reverse
def beNat (bs : List Byte) : Nat := ofBytes bs.reverse

/-- Sense data in descriptor or fixed format, with its INFORMATION where an LBA is given. -/
def senseBytes (desc : Bool) (key asc ascq : Nat) (lba : Option Nat) : List Byte :=
  let b := fun n : Nat => BitVec.ofNat 8 n
  if desc then
    match lba with
    | some a => [0x72#8, b key, b asc, b ascq, 0#8, 0#8, 0#8, 12#8, 0#8, 10#8, 0x80#8, 0#8] ++ beBytes 8 a
    | none => [0x72#8, b key, b asc, b ascq, 0#8, 0#8, 0#8, 0#8]
  else
    let info := match lba with
      | some a => if a < 2 ^ 32 then (0xF0#8, beBytes 4 a) else (0x70#8, beBytes 4 0)
      | none => (0x70#8, beBytes 4 0)
    [info.1, 0#8, b key] ++ info.2 ++ [10#8, 0#8, 0#8, 0#8, 0#8, b asc, b ascq, 0#8, 0#8, 0#8, 0#8]

/-- CHECK CONDITION with its sense. -/
def checkCondition (s : State) (lun key asc ascq : Nat) (lba : Option Nat) : Answer :=
  ⟨2, senseBytes ((lu s lun).any luSense) key asc ascq lba⟩

/-- A task is to be answered; it starts nothing further. -/
def giveAnswer (id : Nat) (a : Answer) (s : State) : State :=
  modTask id (fun t => { t with answer := some a, todo := [], toCrew := [] }) s

/-- A task is to be answered CHECK CONDITION. -/
def failTask (id key asc ascq : Nat) (lba : Option Nat) (s : State) : State :=
  match findTask s id with
  | none => s
  | some t => if t.answer.isSome then s else giveAnswer id (checkCondition s t.lun key asc ascq lba) s

/-! ### Geometry (R357, R406, R418) -/

/-- A sector that a command touches: band, sector of the band, first block of it covered, blocks covered, the command's block that
comes first, and its LBA. -/
structure HostSector where
  band : Nat
  q : Nat
  j : Nat
  n : Nat
  blk : Nat
  lba : Nat

/-- Band, first LBA and end of the extent that holds an LBA. -/
def extentAt (u : Lu) (lba : Nat) : Nat × Nat × Nat :=
  let later := (u.extents.map Prod.snd).filter (fun f => decide (lba < f))
  let stop := later.foldl min (luCapacity u)
  match (u.extents.filter fun e => decide (e.2 ≤ lba)).getLast? with
  | some e => (e.1, e.2, stop)
  | none => (0, 0, stop)

/-- The sectors of `left` blocks from `lba` on; `fuel` bounds their number. -/
def cmdSectors (u : Lu) : Nat → Nat → Nat → Nat → List HostSector
  | 0, _, _, _ => []
  | f + 1, lba, blk, left =>
    if left = 0 then []
    else
      let x := extentAt u lba
      let k := lba - x.2.1
      let n := max 1 (min (min (luBps u - k % luBps u) left) (x.2.2 - lba))
      ⟨x.1, k / luBps u, k % luBps u, n, blk, lba⟩ :: cmdSectors u f (lba + n) (blk + n) (left - n)

def taskLu (s : State) (t : HostTask) : Option Lu := lu s t.lun

def taskSectors (s : State) (t : HostTask) : List HostSector :=
  match taskLu s t with
  | some u => cmdSectors u t.blocks t.lba 0 t.blocks
  | none => []

/-- Blocks of a sector that the command covers, as a mask. -/
def hsMask (h : HostSector) : Nat := (2 ^ h.n - 1) * 2 ^ h.j
def hsWhole (u : Lu) (h : HostSector) : Bool := h.n == luBps u

/-- Stripe, sector in stripe order and row of a sector (R357). -/
def hsStripe (d : List Word) (h : HostSector) : Nat := h.q / (256 * bData d)
def hsX (d : List Word) (h : HostSector) : Nat := h.q % (256 * bData d)

/-- Bytes a block has on the link, and all bytes of the command. -/
def linkBlock (u : Lu) (t : HostTask) : Nat := storedBlock (luFmt u) false + if t.protect then 8 else 0
def linkBytes (s : State) (t : HostTask) : Nat := ((taskLu s t).map fun u => t.blocks * linkBlock u t).getD 0

/-- Usable offset of the buffer's sector `m`, and of the command's block `b`. -/
def bufSector (u : Lu) (t : HostTask) (m : Nat) : Nat := (t.buffer.getD (0, 0)).1 + 64 * luStride u * m
def bufBlock (s : State) (u : Lu) (t : HostTask) (b : Nat) : Nat :=
  match (taskSectors s t).zipIdx.find? fun x => decide (x.1.blk ≤ b) && decide (b < x.1.blk + x.1.n) with
  | some (h, m) => bufSector u t m + (h.j + (b - h.blk)) * luStored u
  | none => 0

/-- Place of the command's block `b` among its sectors. -/
def sectorOfBlock (s : State) (t : HostTask) (b : Nat) : Nat :=
  ((taskSectors s t).zipIdx.find? fun x => decide (x.1.blk ≤ b) && decide (b < x.1.blk + x.1.n)).elim 0 Prod.snd

/-! ### Overlap (R430) -/

/-- Sectors of a logical unit that a range touches, as band and sector. -/
def rangeSectors (u : Lu) (lba n : Nat) : List (Nat × Nat) := (cmdSectors u n lba 0 n).map fun h => (h.band, h.q)

/-- First and last sector boundaries around a range: the LBAs of the sectors it touches. -/
def sectorSpan (u : Lu) (lba n : Nat) : Nat × Nat :=
  let a := extentAt u lba
  let b := extentAt u (lba + n - 1)
  (a.2.1 + (lba - a.2.1) / luBps u * luBps u, min b.2.2 (b.2.1 + ((lba + n - 1 - b.2.1) / luBps u + 1) * luBps u))

/-- Two entries on one logical unit overlap. -/
def overlaps (s : State) (x y : HazEntry) : Bool :=
  if x.lu != y.lu || (!x.write && !y.write) then false
  else
    let meet := fun (a b c d : Nat) => decide (a < d) && decide (c < b)
    match x.write && y.write, lu s x.lu with
    | true, some u =>
      let p := sectorSpan u x.lba x.blocks
      let q := sectorSpan u y.lba y.blocks
      meet p.1 p.2 q.1 q.2
    | _, _ => meet x.lba (x.lba + x.blocks) y.lba (y.lba + y.blocks)

/-- The lowest free entry. -/
def hazFree (s : State) : Option Nat := (List.range 4096).find? fun e => (hazEntry s e).isNone

/-- A new entry, with the mark of R453. -/
def enterHaz (e : Nat) (x : HazEntry) (s : State) : State :=
  let s1 := setHaz e (some { x with order := s.slip.nextOrder }) (modSlip (fun r => { r with nextOrder := r.nextOrder + 1 }) s)
  s1.mark Reg.HAZ.HAZ_HWM 12 0 (hazList s1).length

/-- HAZ_FULL, once per episode (R434). -/
def sayFull (s : State) : State :=
  if s.slip.hazFull then s else raise Page.HAZ 0 0 0 {} (modSlip (fun r => { r with hazFull := true }) s)

/-! ### Protection information (R413; CRC-16 with initial value 0, log entry 21) -/

/-- CRC-16 with polynomial 0x8BB7, most significant bit first. -/
def t10Crc (bs : List Byte) : Nat :=
  (bs.foldl (fun (c : BitVec 16) (b : Byte) =>
    let d : BitVec 16 := b.setWidth 16
    (List.range 8).foldl (fun (x : BitVec 16) _ => if x.getLsbD 15 then (x <<< 1) ^^^ 0x8BB7#16 else x <<< 1) (c ^^^ (d <<< 8))) 0#16).toNat

/-- Reference tag of the command's block `i`. -/
def refTag (u : Lu) (t : HostTask) (i : Nat) : Nat :=
  if luPi u = 3 then 0xFFFFFFFF
  else if luPi u = 2 then (match t.tags with
    | some g => (g.1 + i) % 2 ^ 32
    | none => (t.lba + i) % 2 ^ 32)
  else (t.lba + i) % 2 ^ 32

/-- The 8 bytes generated for a block. -/
def makePi (u : Lu) (t : HostTask) (i : Nat) (data : List Byte) : List Byte := beBytes 2 (t10Crc data) ++ beBytes 2 0 ++ beBytes 4 (refTag u t i)

/-- The check of a stored block: none when it passes, else 1 guard, 2 application tag, 3 reference tag. -/
def checkPi (u : Lu) (t : HostTask) (i : Nat) (stored : List Byte) : Option Nat :=
  let n := storedBlock (luFmt u) false
  let data := stored.take n
  let g := beNat ((stored.drop n).take 2)
  let a := beNat ((stored.drop (n + 2)).take 2)
  let r := beNat ((stored.drop (n + 4)).take 4)
  let off := if luPi u = 3 then a == 0xFFFF && r == 0xFFFFFFFF else a == 0xFFFF
  if off then none
  else if g ≠ t10Crc data then some 1
  else if t.tags.any (fun x => (a ^^^ x.2.1) &&& x.2.2 != 0) then some 2
  else if luPi u ≠ 3 ∧ r ≠ refTag u t i then some 3
  else none

/-! ### The dirty table (R474) -/

def dtabOff (s : State) (i : Nat) : Nat := s.reg64 Reg.SAFE.DTAB_BASE_LO / 64 * 64 % 2 ^ 40 + 32 * i

/-- The task's entry becomes valid. -/
def putDtab (t : HostTask) (u : Lu) (s : State) : State :=
  let off := (t.buffer.getD (0, 0)).1
  let ws := [word (2 ^ 31 + t.lun * 2 ^ 16 + luFmt u + if luPi u = 0 then 0 else 8), loWord t.lba, hiWord t.lba, word t.blocks
             , loWord off, word (off / 2 ^ 32 % 256 + luStride u * 256), loWord t.writeSeq, hiWord t.writeSeq]
  modTask t.id (fun x => { x with dtab := true }) (storeBytes (dtabOff s t.index) (ws.flatMap fun w => toBytes 4 w.toNat) s)

def clearDtab (t : HostTask) (s : State) : State :=
  modTask t.id (fun x => { x with dtab := false }) (storeBytes (dtabOff s t.index) (List.replicate 4 0#8) s)

/-- Granules of a task are released (R328); with its last its dirty-table entry is cleared. -/
def releaseTask (id n : Nat) (s : State) : State :=
  match findTask s id with
  | none => s
  | some t =>
    let m := min n t.reserved
    if m = 0 then s
    else
      let s1 := modTask id (fun x => { x with reserved := x.reserved - m }) (releaseDirty m s)
      if m = t.reserved ∧ t.dtab then clearDtab t s1 else s1

/-! ### Modes -/

/-- Something in a level asks for the exit to ACTIVE (R462). -/
def exitTrigger (s : State) : State :=
  if (isLevel (mode s) || s.power.entering.isSome) && s.power.trigger.isNone then { s with power := { s.power with trigger := some s.time } } else s

/-- The queue is a firmware command queue (R416). -/
def firmwareQueue : QueueId → Bool
  | .firmware _ => true
  | _ => false

/-- An item is pushed to a firmware command queue: in S2, or on the way there, an exit trigger (R462). -/
def firmwarePushed (s : State) : State :=
  if mode s = 6 ∨ s.power.entering.any (fun e => e.1 = 6) then exitTrigger s else s

/-- Intake priority of a command (R402). -/
def taskPrio (s : State) (attr p : Nat) : Nat :=
  if attr = 1 then 7
  else if attr = 4 ∨ p = 0 then s.fld Reg.SLIPC.INTAKE_CFG 2 0
  else 6 - (p - 1) / 3

end Sys2Proof.Machine
end

