-- ==== Sys2Proof/Machine/HostOps.lean ====
section
/-! DEFINITION. Host tasks at work: which data serves a read, what waits behind what, the work handed to Gate and Crew, and the end of
a task (R29, R31, R357, R375, R406, R410 to R414, R429 to R433). -/

namespace Sys2Proof.Machine

/-! ### Where a block's data stands (R431) -/

/-- The task whose hazard entry has order `o`. -/
def taskOfOrder (s : State) (o : Nat) : Option HostTask := s.slip.tasks.find? fun t => t.order == o && t.op != 0

def blockSource (t : HostTask) (b : Nat) : Nat := SMap.get (fun _ => 0) t.sources b

/-- Every byte of the write has arrived and stands in DRAM. -/
def allReceived (s : State) (t : HostTask) : Bool := t.received == linkBytes s t && t.carry.isEmpty

/-- A write whose buffer later reads may draw on. -/
def goodWrite (s : State) (t : HostTask) : Bool :=
  !t.aborted && allReceived s t && (t.answer.all (fun a => a.status == 0) || !t.landed.isEmpty)

/-- Block `b` of a write stands whole in its buffer. -/
def blockArrived (s : State) (u : Lu) (t : HostTask) (b : Nat) : Bool :=
  t.buffer.isSome && !t.aborted && (allReceived s t || decide (bufBlock s u t b + luStored u ≤ t.holdAt))

/-- Block `b` of a read is there: from an earlier write's buffer, or landed from media. -/
def blockReady (s : State) (t : HostTask) (b : Nat) : Bool :=
  if blockSource t b = 0 then t.landed.contains (sectorOfBlock s t b)
  else
    match taskOfOrder s (blockSource t b - 1), taskLu s t with
    | some w, some u => blockArrived s u w (t.lba + b - w.lba)
    | _, _ => false

/-- Usable offset at which block `b` of a read stands. -/
def blockAt (s : State) (u : Lu) (t : HostTask) (b : Nat) : Nat :=
  match taskOfOrder s (blockSource t b - 1) with
  | some w => if blockSource t b = 0 then bufBlock s u t b else bufBlock s u w (t.lba + b - w.lba)
  | none => bufBlock s u t b

/-- The latest write entered before `order` that covers an LBA of unit `n`: its order plus 1, or 0. -/
def latestWrite (s : State) (n lba order : Nat) : Nat :=
  (hazList s).foldl (fun m x =>
    if x.2.write && x.2.lu == n && decide (x.2.order < order) && decide (x.2.lba ≤ lba) && decide (lba < x.2.lba + x.2.blocks)
    then max m (x.2.order + 1) else m) 0

/-- The sources of a read's blocks at its entry. -/
def findSources (s : State) (t : HostTask) : SMap Nat :=
  (List.range t.blocks).foldl (fun m b => SMap.set (fun _ => 0) m b (latestWrite s t.lun (t.lba + b) t.order)) []

/-- Reads that drew on write `o` take the next earlier write, or the media (R432). -/
def resource (o : Nat) (s : State) : State :=
  s.slip.tasks.foldl (fun t x =>
    let bs := (x.sources.filter fun e => e.2 == o + 1).map Prod.fst
    if bs.isEmpty then t
    else
      let src := bs.foldl (fun m b => SMap.set (fun _ => 0) m b (latestWrite t x.lun (x.lba + b) x.order)) x.sources
      let ms := ((bs.filter fun b => SMap.get (fun _ => 0) src b == 0).map (sectorOfBlock t x)).eraseDups
      modTask x.id (fun y => { y with sources := src, todo := y.todo ++ ms.filter (fun m => !y.todo.contains m)
                                      landed := y.landed.filter fun m => !ms.contains m }) t) s

/-- A read still draws on write `o`. -/
def drawnOn (s : State) (o : Nat) : Bool :=
  s.slip.tasks.any fun t => !t.committed && !t.aborted && t.answer.isNone && t.sources.any fun e => e.2 == o + 1

/-! ### The end of a task (R26, R412, R432) -/

/-- The service operation of a task. -/
def svcOf (s : State) (id : Nat) : Option (Nat × SvcOp) :=
  (List.range 4).findSome? fun c => (svc s c).bind fun x => if x.task = id then some (c, x) else none

/-- A hazard entry leaves the table. -/
def dropHaz (e : Nat) (s : State) : State := modSlip (fun r => { r with hazFull := false }) (setHaz e none s)

/-- The host-task credit returns (R26); the firmware entries of the task end with it (R432). -/
def returnCredit (id : Nat) (s : State) : State :=
  match findTask s id with
  | none => s
  | some t =>
    let fw := (hazList s).filter fun x => x.2.fw && x.2.task == t.index
    let s1 := fw.foldl (fun u x => dropHaz x.1 u) (modTask id (fun t => { t with credit := false }) s)
    if (heldTasks s1).isEmpty then modSlip (fun r => { r with lastHeld := s.time }) s1 else s1

/-- The command's hazard entry may be released (R432). -/
def hazOver (s : State) (t : HostTask) : Bool :=
  t.haz.isSome && t.handed.isEmpty &&
    (t.aborted || (t.answer.any fun a => a.status != 0)
      || (if t.op = 2 then allReceived s t && t.todo.isEmpty && decide (t.landed.length = (taskSectors s t).length)
          else t.todo.isEmpty && t.toCrew.isEmpty && (List.range t.blocks).all (blockReady s t)))

/-- What has become of a task: entry, buffer, credit, record. -/
def settleTask (s : State) (id : Nat) : State :=
  match findTask s id with
  | none => s
  | some t =>
    let s1 := match t.haz, hazOver s t with
      | some e, true =>
        let u := modTask id (fun x => { x with haz := none }) (dropHaz e s)
        if t.op = 2 ∧ !goodWrite s t then resource t.order u else u
      | _, _ => s
    let ended := t.aborted || t.committed
    let free := fun v : State => (findTask v id).any fun x => x.haz.isNone && x.handed.isEmpty && (x.op != 2 || !drawnOn v x.order)
    let s2 := if (ended || t.op == 2 && t.answer.isSome) && free s1 then modTask id (fun x => { x with buffer := none }) s1 else s1
    let s3 := if t.credit && t.aborted && t.handed.isEmpty && (svcOf s2 id).isNone then returnCredit id s2 else s2
    match findTask s3 id with
    | some x =>
      if ended && !x.credit && x.haz.isNone && x.buffer.isNone && x.handed.isEmpty then
        modSlip (fun r => { r with tasks := r.tasks.filter (·.id != id) }) s3
      else s3
    | none => s3

/-- A task starts nothing further, and what no handed job uses of its dirty reservation is released (R412). -/
def stopTask (t : HostTask) (s : State) : State :=
  let spare := s.boat.granted.filter fun r => r.task == t.index
  let s1 := spare.foldl (fun u r => releaseDirty r.granules u) s
  let s2 := modBoat (fun b => { b with granted := b.granted.filter (fun r => r.task != t.index)
                                       waiting := b.waiting.filter (fun r => r.task != t.index)
                                       lastWait := if b.waiting.isEmpty then b.lastWait else some s.time
                                       through := b.through.filter (· != t.index) }) s1
  let inJobs := (t.handed.flatMap Handed.sectors).length * ((taskLu s t).map luStride).getD 0
  modTask t.id (fun x => { x with todo := [], toCrew := [] }) (releaseTask t.id (t.reserved - inJobs) s2)

/-- A task is ended (R412). -/
def endTask (id : Nat) (s : State) : State :=
  match findTask s id with
  | none => s
  | some t =>
    if t.committed || t.aborted then s
    else
      let s1 := stopTask t s
      let s2 := match svcOf s1 id with
        | some (c, x) => setSvc c (some { x with outcome := 2 }) s1
        | none => s1
      settleTask (modTask id (fun x => { x with aborted := true }) s2) id

/-- A nexus ends: its tasks end as by I_T NEXUS RESET (R399). -/
def endNexusTasks (n : Nat) (s : State) : State := ((s.slip.tasks.filter (·.nexus == n)).map HostTask.id).foldl (fun t i => endTask i t) s

/-! ### Handing work to Gate and Crew (R357, R375, R406, R431) -/

/-- Media work may be handed now: not while a level is left, nor writes in SAFE (R462, R480). -/
def mayIssue (s : State) (t : HostTask) : Bool :=
  slipAlive s && !isLevel (mode s) && !(mode s == 7 && t.op == 2) && !t.aborted && t.answer.isNone

/-- A write's sector is held by an earlier entry (R431), or because its band is about to switch (R383). -/
def writeHeld (s : State) (u : Lu) (t : HostTask) (h : HostSector) : Bool :=
  let e := extentAt u h.lba
  let lo := h.lba - h.j
  let hi := min e.2.2 (lo + luBps u)
  switchReady s h.band || (hazList s).any fun x =>
    if x.2.lu != t.lun || decide (t.order ≤ x.2.order) then false
    else if x.2.write then
      let sp := sectorSpan u x.2.lba x.2.blocks
      decide (sp.1 < hi) && decide (lo < sp.2) &&
        (match taskOfOrder s x.2.order with
         | some w => (taskSectors s w).zipIdx.any fun y => y.1.band == h.band && y.1.q == h.q && !w.landed.contains y.2
         | none => true)
    else
      decide (x.2.lba < h.lba + h.n) && decide (h.lba < x.2.lba + x.2.blocks) &&
        (match taskOfOrder s x.2.order with
         | some r => (List.range r.blocks).any fun b => decide (lo ≤ r.lba + b) && decide (r.lba + b < hi) && !blockReady s r b
         | none => true)

/-- What a sector of a read needs. -/
inductive ReadPlan where
  | held
  | served
  | crew
  | run (head msn mask : Nat)
  deriving DecidableEq, Repr

/-- Blocks of a sector that no earlier write covers, as a mask. -/
def mediaMask (t : HostTask) (h : HostSector) : Nat :=
  (List.range h.n).foldl (fun m i => if blockSource t (h.blk + i) = 0 then m + 2 ^ (h.j + i) else m) 0

def readPlan (s : State) (t : HostTask) (h : HostSector) : ReadPlan :=
  let fw := (List.range h.n).any fun i => blockSource t (h.blk + i) != 0 && (taskOfOrder s (blockSource t (h.blk + i) - 1)).isNone
  let m := mediaMask t h
  if fw then .held
  else if m = 0 then .served
  else
    match band s h.band with
    | none => .crew
    | some bd =>
      if bd.closing then .crew
      else if switchReady s h.band then .held
      else
        let d := bd.words
        let st := hsStripe d h
        let x := hsX d h
        match place s h.band d st (posData d st (x / 256)) with
        | none => .crew
        | some p => .run (bHead d p) (256 * (bBase d p + st) + x % 256) m

/-- Stretches of a list: `next x y ys` tells whether `x` may go before the stretch `y :: ys`. -/
def stretchesBy {α : Type} (next : α → α → List α → Bool) : List α → List (List α)
  | [] => []
  | x :: xs =>
    match stretchesBy next xs with
    | (y :: ys) :: r => if next x y ys then (x :: y :: ys) :: r else [x] :: (y :: ys) :: r
    | r => [x] :: r

/-- Push a packet under the fast path's next TAG; what follows for a packet handed over, and for one whose queue is in fault. -/
def pushHost_ (q : QueueId) (ws : Nat → List Word) (taken : Nat → State → State) (fault : State → State) (s : State) : State :=
  let tag := s.slip.nextTag
  match qPush q 0x3F (ws tag) s with
  | some (v, .fault) => fault v
  | some (v, _) => taken tag (modSlip (fun r => { r with nextTag := (tag + 1) % 65536 }) v)
  | none => s

/-- Words 0 and 1 of a body of the fast path: seed, place, STRIDE, masks, OWNER (R285). -/
def hostBody (t : HostTask) (u : Lu) (h : HostSector) (m m1 m2 : Nat) : List Word :=
  let off := bufSector u t m
  let seed := h.lba - h.j
  [loWord seed, hiWord seed, loWord off, word (off / 2 ^ 32 % 256 + luStride u * 256), loWord t.writeSeq, hiWord t.writeSeq,
   luWord t.lun u, word (m1 + m2 * 256), word 0x3F, 0#32, 0#32]

/-- A run of sectors of a read or a verify goes to its Gate (R284). -/
def pushReadRun (id : Nat) (run : List (Nat × HostSector × Nat × Nat × Nat)) (s : State) : State :=
  match findTask s id, run, run.getLast? with
  | some t, (m, h, head, msn, mask) :: _, some last =>
    match taskLu s t, memberPlace s head msn with
    | some u, some (trk, sec) =>
      let ty := if t.op = 3 ∧ !t.landVerify then 3 else 1
      let ms := run.map Prod.fst
      let pkt := fun tag => [pktHeader 16 (taskPrio s t.attr t.prio) false ty tag, word (head + run.length * 256), word trk, word sec, 0#32]
        ++ hostBody t u h m mask last.2.2.2.2
      pushHost_ (.gate (BitVec.ofNat 2 (head / 6)).toFin) pkt
        (fun tag => modTask id fun x => { x with todo := x.todo.filter (fun i => !ms.contains i)
                                                 handed := x.handed ++ [⟨tag, 1, ms, head, msn⟩] })
        (modTask id fun x => { x with todo := x.todo.filter (fun i => !ms.contains i), toCrew := x.toCrew ++ ms.map fun i => (i, none) }) s
    | _, _ => modTask id (fun x => { x with todo := x.todo.filter (fun i => !(run.map Prod.fst).contains i)
                                            toCrew := x.toCrew ++ run.map fun r => (r.1, none) }) s
  | _, _, _ => s

/-- A stripe job for sectors of a task (R360): 1 WRITE, 2 READ. -/
def pushStripeJob (id kind : Nat) (known : Option Nat) (run : List (Nat × HostSector)) (s : State) : State :=
  match findTask s id, run, run.getLast? with
  | some t, (m, h) :: _, some (_, l) =>
    match taskLu s t with
    | none => s
    | some u =>
      let d := bandWords s h.band
      let off := bufSector u t m
      let seed := h.lba - h.j
      let ms := run.map Prod.fst
      let pkt := fun tag =>
        [pktHeader 13 (taskPrio s t.attr t.prio) false kind tag, word h.band, word (hsStripe d h), word (hsX d h + run.length * 65536),
         word (hsMask h + hsMask l * 256 + 0x3F * 65536 + known.elim 0 (fun p => p * 2 ^ 24 + 2 ^ 31)), loWord off, word (off / 2 ^ 32 % 256)
         , word (luStride u), loWord t.writeSeq, hiWord t.writeSeq, luWord t.lun u, loWord seed, hiWord seed]
      let gone := fun (x : HostTask) => if kind = 1 then { x with todo := x.todo.filter fun i => !ms.contains i }
        else { x with toCrew := x.toCrew.filter fun e => !ms.contains e.1 }
      pushHost_ .stripe pkt
        (fun tag => modTask id fun x => let y := gone x; { y with handed := y.handed ++ [⟨tag, 2, ms, 0, 0⟩] })
        (fun v =>
          if kind = 1 then modTask id (fun x => let y := gone x; { y with landed := y.landed ++ ms, failed := true }) v
          else (run.foldl (fun w e => (landSector (hostBody t u e.2 e.1 255 255) (hsMask e.2) none w).2)
            (modTask id (fun x => let y := gone x; { y with landed := y.landed ++ ms }) v))) s
  | _, _, _ => s

/-- Sector `b` follows `a` in one stripe. -/
def stripeNext (s : State) (a b : Nat × HostSector) : Bool :=
  let d := bandWords s a.2.band
  a.1 + 1 == b.1 && a.2.band == b.2.band && a.2.q + 1 == b.2.q && hsStripe d a.2 == hsStripe d b.2

/-- Sectors of a task with their places. -/
def pickSectors (s : State) (t : HostTask) (ms : List Nat) : List (Nat × HostSector) :=
  let all := taskSectors s t
  ms.filterMap fun m => (all[m]?).map fun h => (m, h)

/-- Hand over what may be handed of a task. -/
def issueTask (s : State) (id : Nat) : State :=
  match findTask s id with
  | none => s
  | some t =>
    match taskLu s t, mayIssue s t with
    | some u, true =>
      if t.op = 2 then
        let free := (pickSectors s t t.todo).filter fun x => !writeHeld s u t x.2
        (stretchesBy (fun a b rest => stripeNext s a b && (hsWhole u b.2 || rest.isEmpty)) free).foldl (fun v r => pushStripeJob id 1 none r v) s
      else if t.op = 1 ∨ t.op = 3 then
        let plans := (pickSectors s t t.todo).map fun x => (x, readPlan s t x.2)
        let served := (plans.filter fun p => p.2 == .served).map (·.1.1)
        let crew := (plans.filter fun p => p.2 == .crew).map (·.1.1)
        let runs := plans.filterMap fun p => match p.2 with
          | .run head msn mask => some (p.1.1, p.1.2, head, msn, mask)
          | _ => none
        let s1 := modTask id (fun x => { x with todo := x.todo.filter (fun m => !served.contains m && !crew.contains m)
                                                landed := x.landed ++ served, toCrew := x.toCrew ++ crew.map fun m => (m, none) }) s
        let full := if luBps u = 1 then 1 else 255
        let next := fun (a b : Nat × HostSector × Nat × Nat × Nat) (rest : List (Nat × HostSector × Nat × Nat × Nat)) =>
          a.1 + 1 == b.1 && a.2.2.1 == b.2.2.1 && a.2.2.2.1 + 1 == b.2.2.2.1 && decide (a.2.1.lba - a.2.1.j + luBps u = b.2.1.lba - b.2.1.j)
            && (b.2.2.2.2 == full || rest.isEmpty)
        let s2 := (stretchesBy next runs).foldl (fun v r => pushReadRun id r v) s1
        match findTask s2 id with
        | none => s2
        | some t2 =>
          let js := (pickSectors s2 t2 (t2.toCrew.map Prod.fst)).map fun x => (x, ((t2.toCrew.find? (·.1 == x.1)).bind Prod.snd))
          (stretchesBy (fun a b rest => stripeNext s2 a.1 b.1 && a.2 == b.2 && (hsWhole u b.1.2 || rest.isEmpty)) js).foldl
            (fun v r => pushStripeJob id 2 ((r.head?).bind Prod.snd) (r.map Prod.fst) v) s2
      else s
    | _, _ => s

/-- A task is held under R431. -/
def taskHeld (s : State) (t : HostTask) : Bool :=
  match taskLu s t with
  | none => false
  | some u => (pickSectors s t t.todo).any fun x => if t.op = 2 then writeHeld s u t x.2 else readPlan s t x.2 == .held

/-- The tasks held now; each that becomes held is counted (R453). -/
def markHeld (s : State) : State :=
  s.slip.tasks.foldl (fun v t =>
    if t.op = 0 then v
    else
      let h := taskHeld s t
      if h == t.held then v
      else
        let w := modTask t.id (fun x => { x with held := h }) v
        if h then w.count Reg.HAZ.WAIT_COUNT 1 else w) s

/-! ### What comes back (R375, R414, R442) -/

/-- The granules of a landed block are read with their checks (R324); whether one of them is not good. -/
def verifyBlock (t : HostTask) (u : Lu) (b : Nat) (s : State) : Bool × State :=
  let off := bufBlock s u t b
  let r := readGranules false (0x2C + t.lane) quiet (off / 64) ((off + luStored u + 63) / 64 - off / 64) s
  (r.2.1 != 0, r.2.2.2)

/-- The lowest poisoned block among sectors of a verify that have landed (R414). -/
def scanVerify (id : Nat) (ms : List Nat) (s : State) : State :=
  match findTask s id with
  | none => s
  | some t =>
    match taskLu s t, t.op == 3 with
    | some u, true =>
      ((pickSectors s t ms).flatMap fun x => (List.range x.2.n).map (x.2.blk + ·)).foldl (fun v b =>
        let r := verifyBlock t u b v
        if r.1 then modTask id (fun x => { x with poisoned := some (x.poisoned.elim b (min b)) }) r.2 else r.2) s
    | _, _ => s

/-- Sectors of a task are there. -/
def sectorsLanded (id : Nat) (ms : List Nat) (s : State) : State :=
  modTask id (fun t => { t with landed := t.landed ++ ms.filter fun m => !t.landed.contains m }) s

/-- Indices of a run's sectors that ended lasting: the first, those that SECTOR packets name, else all from the first on. -/
def failedIn (s : State) (h : Handed) (count first : Nat) : List Nat :=
  let named := (List.range h.sectors.length).filter fun i => i == first || (memberPlace s h.head (h.msn + i)).any s.slip.sectorEnds.contains
  if count ≤ named.length then named else (List.range h.sectors.length).filter (first ≤ ·)

/-- RUN_END of a run of the fast path. -/
def runReturned (t : HostTask) (h : Handed) (status count first : Nat) (s : State) : State :=
  let s1 := modTask t.id (fun x => { x with handed := x.handed.erase h }) s
  let bad := if status = 2 then failedIn s h count first else if status = 3 then List.range h.sectors.length else []
  let badMs := bad.map fun i => h.sectors.getD i 0
  let good := h.sectors.filter fun m => !badMs.contains m
  let pos := fun m : Nat => ((taskSectors s t)[m]?).bind fun x =>
    (List.range (bWidth (bandWords s x.band))).find? fun p => bHead (bandWords s x.band) p == h.head
  let dead := t.aborted || t.answer.isSome
  let crew := if dead then [] else badMs.map fun m => (m, pos m)
  let s2 := modSlip (fun r => { r with sectorEnds := r.sectorEnds.filter fun e =>
    !((List.range h.sectors.length).any fun i => memberPlace s h.head (h.msn + i) == some e) }) s1
  if status = 1 ∧ t.op = 3 ∧ !t.landVerify ∧ !dead then
    modTask t.id (fun x => { x with landVerify := true, todo := x.todo ++ h.sectors }) s2
  else
    let s3 := sectorsLanded t.id good (modTask t.id (fun x => { x with toCrew := x.toCrew ++ crew }) s2)
    if t.landVerify then scanVerify t.id good s3 else s3

/-- A stripe job of the fast path has ended (R362). -/
def jobReturned (t : HostTask) (h : Handed) (status : Nat) (s : State) : State :=
  let s1 := sectorsLanded t.id h.sectors (modTask t.id (fun x => { x with handed := x.handed.erase h }) s)
  if t.op = 2 then
    let n := h.sectors.length * ((taskLu s t).map luStride).getD 0
    releaseTask t.id n (if 2 ≤ status then modTask t.id (fun x => { x with failed := true }) s1 else s1)
  else
    let s2 := if status < 2 then s1
      else match taskLu s t with
        | none => s1
        | some u => (pickSectors s t h.sectors).foldl (fun v e => (landSector (hostBody t u e.2 e.1 255 255) (hsMask e.2) none v).2) s1
    scanVerify t.id h.sectors s2

def takeHost (s : State) (ws : List Word) : State :=
  let byTag := fun k : Nat => s.slip.tasks.findSome? fun t => (t.handed.find? fun h => h.kind == k && h.tag == pktTag ws).map fun h => (t, h)
  let w1 := ws.getD 1 0#32
  if pktType ws = 0x82 then
    modSlip (fun r => { r with sectorEnds := r.sectorEnds ++ [((ws.getD 2 0#32).toNat, (ws.getD 3 0#32).toNat)] }) s
  else if pktType ws = 0x84 then
    match byTag 1 with
    | some (t, h) => runReturned t h (fld w1 1 0) (fld w1 24 16) (fld (ws.getD 2 0#32) 8 0) s
    | none => s
  else if pktType ws = 0x85 then
    match byTag 2 with
    | some (t, h) => jobReturned t h (fld w1 1 0) s
    | none => s
  else s

/-- Settle every task. -/
def settleAll (s : State) : State := (s.slip.tasks.map HostTask.id).foldl settleTask s

/-- Slipway takes what has come back, lets its tasks go on, and hands over what has become free. -/
def hostDrain (s : State) : State :=
  if !slipAlive s then s
  else
    let mine := s.returned.filter fun r => r.owner == 0x3F
    let s1 : State := { s with returned := s.returned.filter fun r => r.owner != 0x3F }
    let s2 := settleAll (mine.foldl (fun t r => takeHost t r.words) s1)
    let s3 := (s2.slip.tasks.map HostTask.id).foldl issueTask s2
    settleAll (markHeld s3)

/-! ### Entering a command (R406, R429, R474) -/

/-- Bytes of the buffer that a command needs, in whole 64 KiB. -/
def bufferSize (s : State) (t : HostTask) : Nat :=
  match taskLu s t with
  | none => 0
  | some u => ((taskSectors s t).length * 64 * luStride u + 65535) / 65536 * 65536

/-- First fit in the host buffer pool (R406). -/
def bufferFit (s : State) (size : Nat) : Option Nat :=
  let base := s.reg64 Reg.SLIPC.HBUF_BASE_LO / 65536 * 65536 % 2 ^ 40
  let stop := base + s.fld Reg.SLIPC.HBUF_SIZE 15 0 * 2 ^ 20
  let used := s.slip.tasks.filterMap HostTask.buffer
  let starts := base :: used.map fun x => x.1 + x.2
  let fits := fun a => decide (a + size ≤ stop) && !(used.any fun x => decide (a < x.1 + x.2) && decide (x.1 < a + size))
  (starts.filter fits).foldl (fun (t : Option Nat) a => some (t.elim a (min a))) none

/-- Tasks that wait for a buffer, in arrival order. -/
def bufferWaiters (s : State) : List HostTask :=
  s.slip.tasks.filter fun t => t.stage == 1 && t.op != 0 && t.buffer.isNone && t.haz.isNone && !t.aborted && t.answer.isNone && !t.committed

/-- A decoded command takes its buffer and its hazard entry; it waits while the buffer does not fit. -/
def enterTask (id : Nat) (s : State) : State :=
  match findTask s id with
  | none => s
  | some t =>
    if (bufferWaiters s).any (fun w => decide (w.id < id)) then s
    else
      match bufferFit s (bufferSize s t), hazFree s, taskLu s t with
      | some a, some e, some u =>
        let o := s.slip.nextOrder
        let seq := s.slip.nextWriteSeq
        let s1 := enterHaz e ⟨t.lun, t.op == 2, t.attr == 2, false, t.index, t.lba, t.blocks, 0, false⟩
          (modSlip (fun r => { r with nextWriteSeq := seq + 1 }) s)
        let first := (cmdSectors u t.blocks t.lba 0 t.blocks).headD ⟨0, 0, 0, 0, 0, 0⟩
        let head := first.j * luStored u
        let s2 := modTask id (fun x =>
          { x with buffer := some (a, bufferSize s t), haz := some e, order := o, writeSeq := seq
                   hold := List.replicate (head % 64) 0#8, holdAt := a + head / 64 * 64 }) s1
        if t.op = 2 then s2
        else modTask id (fun x => { x with sources := findSources s2 x, todo := List.range (taskSectors s2 x).length }) s2
      | _, none, _ => sayFull s
      | _, _, _ => s

end Sys2Proof.Machine
end

