-- ==== Sys2Proof/Machine/Frames.lean ====
section
/-! DEFINITION. Frames that Slipway has sent: acknowledgement, repeat and failure, and a lane that goes down (R74, R394, R410, R422). -/

namespace Sys2Proof.Machine

/-- The lane on which a frame for a nexus can leave: the one preferred, else the other of its port. -/
def pickLane (s : State) (pref n : Nat) : Option Nat :=
  let other := 2 * (pref / 2) + (1 - pref % 2)
  if laneServes s pref n then some pref else if laneServes s other n then some other else none

/-- Frames of a task that are not yet acknowledged. -/
def framesOf (s : State) (id kind : Nat) : Nat :=
  (List.range 4).foldl (fun n l => n + ((sasLane s l).frames.filter fun f => f.task == id && f.kind == kind).length) 0

/-- Task index that an event carries, 0x1FFF for none. -/
def frameTask (s : State) (f : TxFrame) : Nat := if 4 ≤ f.kind then 0x1FFF else ((findTask s f.task).map HostTask.index).getD 0x1FFF

/-- Code of FRAME_RETRY (R424). -/
def frameCode (f : TxFrame) : Nat := if f.kind ≤ 2 then f.kind else 3

/-- A RESPONSE has left for the last time: the host-task credit returns (R410). -/
def responseOver (f : TxFrame) (s : State) : State := if f.kind = 3 then settleTask (returnCredit f.task s) f.task else s

/-- The repeat of a frame has failed as well (R394): FRAME_RETRY with severity 3, and the end of its task; a firmware task's service
operation ends with a link failure (R425). -/
def frameLost (l ascq : Nat) (f : TxFrame) (s : State) : State :=
  let s1 := lasting (Page.SLIP l) 3 (frameCode f) ⟨word (frameTask s f), 0#32, 0#32⟩ s
  if f.kind = 1 ∨ f.kind = 2 then
    match svcOf s1 f.task with
    | some (c, x) => setSvc c (some { x with outcome := 5 }) s1
    | none =>
      match findTask s1 f.task with
      | some t => failTask f.task 0xB 0x4B ascq none (stopTask t s1)
      | none => s1
  else responseOver f s1

/-- The task of a frame is ended: no repeat is sent (R412). -/
def frameDead (s : State) (f : TxFrame) : Bool := decide (f.kind ≤ 3) && (findTask s f.task).all (·.aborted)

/-- A frame of lane `l` fails: it is sent once more, or its repeat has failed (R394). -/
def frameFailed (l ascq : Nat) (f : TxFrame) (s : State) : State :=
  if frameDead s f then s
  else if f.again then frameLost l ascq f s
  else transmit ((pickLane s l f.nexus).getD l) { f with again := true } (s.count (Reg.SLIP.TX_RETRY l) 1)

/-- Take the oldest frame of a lane. -/
def oldestFrame (l : Nat) (f : TxFrame → State → State) (s : State) : State :=
  match (sasLane s l).frames with
  | x :: xs => f x (modLane l (fun r => { r with frames := xs }) s)
  | [] => s

/-- A frame is acknowledged (R394, R410). -/
def frameAcked (l : Nat) (f : TxFrame) (s : State) : State :=
  let s1 := if f.again then transient (Page.SLIP l) 3 (frameCode f) ⟨word (frameTask s f), 0#32, 0#32⟩ s else s
  responseOver f s1

/-- The frames of a nexus leave the lanes; what it had committed is over (R399). -/
def dropNexusFrames (n : Nat) (s : State) : State :=
  (List.range 4).foldl (fun t l =>
    let mine := (sasLane t l).frames.filter (·.nexus == n)
    mine.foldl (fun u f => responseOver f u) (modLane l (fun r => { r with frames := r.frames.filter (·.nexus != n) }) t)) s

/-- A nexus ends: its tasks end as by I_T NEXUS RESET, and no frame is sent for them (R399). -/
def endNexus (n : Nat) (s : State) : State := endNexusTasks n (dropNexusFrames n s)

/-- The lane is no longer up. -/
def laneOff (l : Nat) (s : State) : State :=
  let other := 2 * (l / 2) + (1 - l % 2)
  ((s.setFld (Reg.SLIP.LINK_STATUS l) 5 0 0).setBit (Reg.SLIP.LINK_STATUS l) 6 false).setBit (Reg.SLIP.LINK_STATUS other) 6 false

/-- Every frame on a lane counts as a failed repeat. -/
def failFrames (l : Nat) (s : State) : State :=
  let fs := (sasLane s l).frames
  fs.foldl (fun t f => if frameDead t f then t else frameLost l 3 f t) (modLane l (fun r => { r with frames := [] }) s)

/-- A Slipway engine is in machine check: its lane goes down (R74, R422). -/
def laneCheck (l : Nat) (s : State) : State :=
  if laneUp s l then lasting (Page.SLIP l) 2 0 {} (failFrames l (modLane l (fun r => { r with resetting := none, lost := true }) (laneOff l s)))
  else failFrames l s

end Sys2Proof.Machine
end

