-- ==== Sys2Proof/Machine/UmpireOps.lean ====
section
/-! DEFINITION. Umpire: its FIFO, ring, repeat counting and freezing (R509 to R520). -/

namespace Sys2Proof.Machine

def modUmp (f : Umpire → Umpire) (s : State) : State := { s with ump := f s.ump }

/-- The page whose events hold source identifier `src` (R59). -/
def sourcePage (src : Nat) : Option Nat :=
  (List.range 0x99).find? fun p => decide ((pageEvents p).1 ≤ src) && decide (src < (pageEvents p).1 + (pageEvents p).2)

/-- Domain of the source's page. -/
def sourceDomain (src : Nat) : Nat := ((sourcePage src).bind pagePlace).elim 0 Prod.fst

def emptyRecord : List Word := List.replicate 8 0#32

/-- The eight words of ring record `n` (R510). -/
def ringRec (s : State) (n : Nat) : List Word := SMap.get (fun _ => emptyRecord) s.ump.ring n

def ringWord (s : State) (n i : Nat) : Word := (ringRec s n).getD i 0#32

def ringValid (s : State) (n : Nat) : Bool := bit (ringWord s n 0) 31

/-- UMP_STATUS.HEAD. -/
def umpHead (s : State) : Nat := s.fld Reg.UMP.UMP_STATUS 10 0

/-- MEDIA_PTR (critical word 27). -/
def mediaPtr (s : State) : Nat := s.critFld 27 10 0

/-- Records from MEDIA_PTR up to HEAD. -/
def uncopied (s : State) : Nat := (umpHead s + 2048 - mediaPtr s) % 2048

def umpFrozen (s : State) : Bool := s.bit Reg.UMP.UMP_CTRL 0
def umpCopying (s : State) : Bool := s.bit Reg.UMP.UMP_STATUS 29

/-- The words of a record (R510). -/
def umpRecord (sev source count first mode_ domain code : Nat) (pl : Payload) (last : Nat) : List Word :=
  [word (2 ^ 31 + sev % 8 * 2 ^ 28 + source % 4096 * 65536 + count % 65536), loWord first, hiWord first,
   word (mode_ % 16 + domain % 32 * 16 + code % 65536 * 65536), pl.p0, pl.p1, pl.p2, loWord last]

/-- Write a record at HEAD and advance HEAD (R509, R511); MEDIA_PTR is pushed on before HEAD reaches it, and COPY_READY raised
at the threshold (R519). -/
def writeRecord (ws : List Word) (s : State) : State :=
  let h := umpHead s
  let n := (h + 1) % 2048
  let fresh := !ringValid s h
  let s1 := modUmp (fun u => { u with ring := SMap.set (fun _ => emptyRecord) u.ring h ws }) s
  let s2 := s1.setFld Reg.UMP.UMP_STATUS 10 0 n
  let s3 := if fresh then s2.setFld Reg.UMP.UMP_STATUS 27 16 (s2.fld Reg.UMP.UMP_STATUS 27 16 + 1) else s2
  let s4 := if n = mediaPtr s3 then
      let t := s3.setCritFld 27 10 0 ((n + 1) % 2048)
      if t.ump.overrunSaid then t else raise Page.UMP 3 0 0 {} (modUmp (fun u => { u with overrunSaid := true }) t)
    else s3
  if s.fld Reg.UMP.COPY_THRESH 11 0 ≤ uncopied s4 ∧ !s4.ump.readySaid then
    raise Page.UMP 1 0 0 {} (modUmp (fun u => { u with readySaid := true }) s4)
  else s4

/-- A gap record (R513, R516, R517). -/
def writeGap (code first last p0 p1 : Nat) (s : State) : State :=
  modUmp (fun u => { u with last := none })
    (writeRecord (umpRecord 6 1088 1 first (mode s) 0 code ⟨word p0, word p1, 0#32⟩ last) s)

/-- The message matches the last record in SOURCE, SEVERITY, CODE and payload, within REPEAT_WINDOW of its LAST (R512). -/
def repeats (m : Msg) (s : State) : Option Nat :=
  match s.ump.last with
  | none => none
  | some (n, l) =>
    if l.source = m.source ∧ l.severity = m.severity ∧ l.code = m.code ∧ l.p0 = m.p0 ∧ l.p1 = m.p1 ∧ l.p2 = m.p2
        ∧ s.fld Reg.UMP.REPEAT_WINDOW 15 0 ≠ 0 ∧ m.time ≤ l.time + s.fld Reg.UMP.REPEAT_WINDOW 15 0 * 1000000
        ∧ l.time ≤ m.time + s.fld Reg.UMP.REPEAT_WINDOW 15 0 * 1000000
        ∧ mediaPtr s ≠ umpHead s then some n
    else none

/-- Record one message: repeat-counted or as a new record (R511, R512). -/
def recordMsg (m : Msg) (s : State) : State :=
  match repeats m s with
  | some n =>
    let ws := ringRec s n
    let w0 := ws.getD 0 0#32
    let ws' := (ws.set 7 (loWord m.time)).set 0 (Sys2Proof.setFld w0 15 0 (satAdd 65535 (fld w0 15 0) 1))
    modUmp (fun u => { u with ring := SMap.set (fun _ => emptyRecord) u.ring n ws', last := some (n, m) }) s
  | none =>
    let h := umpHead s
    modUmp (fun u => { u with last := some (h, m) })
      (writeRecord (umpRecord m.severity m.source 1 m.time (mode s) (sourceDomain m.source) m.code ⟨m.p0, m.p1, m.p2⟩ m.time) s)

/-- A message reaches Umpire's FIFO; at a full FIFO it is not recorded and LOST_COUNT counts it (R513). -/
def umpArrive (m : Msg) (aon : Bool) (s : State) : State :=
  if s.ump.fifo.length < 64 then modUmp (fun u => { u with fifo := u.fifo ++ [⟨m, aon⟩] }) s
  else
    let s1 := s.count Reg.UMP.LOST_COUNT 1
    match s.ump.lost with
    | none => raise Page.UMP 7 0 0 {} (modUmp (fun u => { u with lost := some (s.time, s.time, 1) }) s1)
    | some (a, _, n) => modUmp (fun u => { u with lost := some (a, s.time, n + 1) }) s1

/-- Every record invalid; a gap record with code 3; CLEARED (R517). -/
def umpClearNow (s : State) : State :=
  let n := s.fld Reg.UMP.UMP_STATUS 27 16
  let s1 := modUmp (fun u => { u with ring := [], last := none, clearWaits := false, overrunSaid := false, readySaid := false }) s
  let s2 := ((s1.setFld Reg.UMP.UMP_STATUS 10 0 0).setFld Reg.UMP.UMP_STATUS 27 16 0).setCritFld 27 10 0 0
  raise Page.UMP 5 0 0 {} (writeGap 3 s.time s.time n 0 s2)

/-- A waiting CLEAR is carried out once FREEZE and COPYING are 0 (R530). -/
def umpClearIfFree (s : State) : State :=
  if s.ump.clearWaits && !umpFrozen s && !umpCopying s then umpClearNow s else s

/-- FREEZE rises (R516). -/
def umpFreeze (s : State) : State :=
  if umpFrozen s then s
  else raise Page.UMP 0 0 1 {} (modUmp (fun u => { u with frozenAt := s.time })
    ((s.setBit Reg.UMP.UMP_CTRL 0 true).setBit Reg.UMP.UMP_STATUS 28 true))

/-- FREEZE falls: a gap record with code 1, the held messages in order, FROZEN_COUNT cleared (R516). -/
def umpUnfreeze (s : State) : State :=
  if !umpFrozen s then s
  else
    let s1 := (s.setBit Reg.UMP.UMP_CTRL 0 false).setBit Reg.UMP.UMP_STATUS 28 false
    let s2 := writeGap 1 s.ump.frozenAt s.time (s.reg Reg.UMP.FROZEN_COUNT).toNat s.ump.heldMsgs.length s1
    let s3 := s.ump.heldMsgs.foldl (fun t m => recordMsg m t) (modUmp (fun u => { u with heldMsgs := [] }) s2)
    umpClearIfFree (raise Page.UMP 0 0 0 {} (s3.setReg Reg.UMP.FROZEN_COUNT 0#32))

end Sys2Proof.Machine
end

