-- ==== Sys2Proof/Machine/MemOps.lean ====
section
/-! DEFINITION. The address map outside the register pages, and the SRAMs (R36, R37). -/

namespace Sys2Proof.Machine

/-- The range of R36 that holds all `n` bytes from `a`: 1 boot ROM, 2 retained SRAM, 3 Cox SRAM, 4 Stroke SRAM, 5 register pages,
6 boot flash, 7 DRAM window; 0 none. -/
def memRange (a n : Nat) : Nat :=
  let within := fun (lo hi : Nat) => decide (lo ≤ a) && decide (a + n ≤ hi)
  if within 0 0x20000 then 1 else if within 0x10000000 0x10010000 then 2 else if within 0x11000000 0x11080000 then 3
  else if within 0x12000000 0x12400000 then 4 else if within 0x20000000 0x40000000 then 5
  else if within 0x40000000 0x50000000 then 6 else if within dramBase 0x1000000000 then 7 else 0

/-- The requester is named in the range's "Who may access" column, for a read or a write (R36). -/
def mayTouch (range : Nat) (req : Requester) (write : Bool) (s : State) : Bool :=
  let c := Requester.code req
  let cox := c == 1
  let full := c == 0x0E && debugLevel s == 2
  let strk := decide (2 ≤ c) && decide (c ≤ 5)
  if range = 1 then !write && (cox || full)
  else if range = 2 then c == 0x0D || c == 0x34 || (!write && (cox || full))
  else if range = 3 then cox || full
  else if range = 4 then cox || full || strk || c == 0x30 || c == 0x31
  else if range = 6 then !write && (cox || (strk && s.bit Reg.COX.FLASH_CTRL 0))
  else range == 7 && (cox || full || strk)

/-- Byte `a` of the retained SRAM, which Umpire's ring fills (R509). -/
def ringByte (s : State) (a : Nat) : Byte :=
  let o := a - 0x10000000
  BitVec.ofNat 8 ((ringWord s (o / 32) (o / 4 % 8)).toNat / 2 ^ (8 * (o % 4)))

/-- A byte of the retained SRAM is written. -/
def putRingByte (a : Nat) (b : Byte) (s : State) : State :=
  let o := a - 0x10000000
  let w := ringWord s (o / 32) (o / 4 % 8)
  let w' := Sys2Proof.setFld w (8 * (o % 4) + 7) (8 * (o % 4)) b.toNat
  modUmp (fun u => { u with ring := SMap.set (fun _ => emptyRecord) u.ring (o / 32) ((ringRec s (o / 32)).set (o / 4 % 8) w') }) s

/-- `n` bytes of an SRAM. -/
def sramBytes (s : State) (a n : Nat) : List Byte :=
  (List.range n).map fun i => if memRange (a + i) 1 = 2 then ringByte s (a + i) else s.byteAt (a + i)

/-- Bytes are stored in an SRAM. -/
def putSram (a : Nat) : List Byte → State → State
  | [], s => s
  | b :: bs, s => putSram (a + 1) bs (if memRange a 1 = 2 then putRingByte a b s else s.putByte a b)

def modCache (f : Cache → Cache) (s : State) : State := { s with cache := f s.cache }

/-- The range operation ends with `outcome`: the result registers, BUSY and RANGE_DONE (R338). -/
def rangeEnd (outcome : Nat) (s : State) : State :=
  match s.cache.range with
  | none => s
  | some r =>
    let skip := r.firstSkip.getD 0
    let s1 := (((s.setReg Reg.CACHE.RANGE_RESULT (word outcome)).setReg Reg.CACHE.RANGE_DONE_LINES (word r.done)).setReg
      Reg.CACHE.SKIPPED (word r.skipped)).setReg64 Reg.CACHE.FIRST_SKIP_LO skip
    let s2 := (s1.setReg Reg.CACHE.WRITEBACKS (word r.writebacks)).setReg Reg.CACHE.DISCARDED (word r.discarded)
    raise Page.CACHE 3 0 outcome ⟨word r.done, word r.skipped, loWord skip⟩ (modCache (fun c => { c with range := none }) s2)

end Sys2Proof.Machine
end

