-- ==== Sys2Proof/Machine/EndOps.lean ====
section
/-! DEFINITION. The end of an operation whose packet a queue discards, the loss of an actuator, and what a block in machine check
leaves to others (R74, R92, R99, R102, R160, R161, R326, R443). -/

namespace Sys2Proof.Machine

/-! ### Packets discarded by a queue (R92, R99, R102) -/

/-- The host task of a command packet ends with CHECK CONDITION, HARDWARE ERROR. -/
def endCommand (stage : Nat) (ws : List Word) (s : State) : State :=
  match taskAt s (fld (ws.getD 1 0#32) 15 0) with
  | some t => if t.stage = stage then failTask t.id 4 0x44 0 none s else s
  | none => s

/-- The operation of a packet that a queue has discarded ends as lasting to its owner (R99). -/
def endItem (q : QueueId) (port : Nat) (ws : List Word) (s : State) : State :=
  endPacket q port ws (match q with
    | .gate a => reportRun a.val ws 2 (runCount ws) 0 8 s
    | .stripe => returnStatus port ws 2 s
    | .oarJob o =>
      match (gate s (oarAct o.val)).issued.find? fun j => j.slot == oarSlot o.val && j.words == ws with
      | some j => endIssued (oarAct o.val) (oarSlot o.val) s j
      | none => s
    | .oarDone o => endCompletion o.val ws s
    | .intake => endCommand 0 ws s
    | .firmware _ => if 0x3F = port ∧ pktType ws = 1 then endCommand 2 ws s else s
    | .xact _ => xactComplete port ws 2 (64 * xactGran ws) s)

/-- The operation of a discarded item ends; one done before has ended by itself. -/
def endDropped (q : QueueId) (it : QItem) (s : State) : State := if it.dup then s else endItem q it.port it.words s

/-- Everything a queue holds, and what waits whole in its ports, ends as lasting, and the queue is empty. -/
def endQueue (q : QueueId) (s : State) : State :=
  let x := hq s q
  let its := x.items ++ x.taken.toList
  let s1 := its.foldl (fun t it => endDropped q it (qDropItem q it t))
    (setHq q { x with items := [], taken := none, ports := x.ports.filter fun e => !e.2.full } s)
  qNowEmpty q (qEvent q + 1) ((x.ports.filter fun e => e.2.full).foldl (fun t e => endItem q e.1 e.2.words t) s1)

/-- The operation of the item that the queue's consumer holds ends as lasting. -/
def endTaken (q : QueueId) (s : State) : State :=
  (hq s q).taken.toList.foldl (fun t it => endDropped q it (qDropItem q it t)) (modHq q (fun x => { x with taken := none }) s)

/-- A queue that refuses pushes with FAULT: the packets that producers hold for it, or have to push again, are refused and their operations
end (R92). -/
def refuseHeld (q : QueueId) (s : State) : State :=
  let x := hq s q
  if pushStatus s q ≠ .fault then s
  else
    let s1 := (x.ports.filter fun e => e.2.full).foldl (fun t e => endItem q e.1 e.2.words t)
      (setHq q { x with ports := x.ports.filter fun e => !e.2.full, again := [] } s)
    (x.again.filter fun e => !e.2.2).foldl (fun t e => endItem q e.1 e.2.1 t) s1

/-- Producers of a queue that push again by themselves: the engines and the fast path (R100). -/
def pushesAgain (port : Nat) : Bool := decide (0x10 ≤ port)

/-! ### Losing an actuator (R160, R161) -/

/-- The port of a lost actuator: both write gates held low and no further frame. -/
def losePort (a : Nat) (s : State) : State :=
  let s1 := (s.setFld (Reg.STATUS (Page.PRE a)) 9 8 3).setBit (Reg.PRE.FW_RESULT a) 16 false
  cutActuator a 4 (modPre a (fun p => { p with rt := [], back := [], fw := none, sending := none, wire := [], hold := true, watch := false }) s1)

/-- Actuator `a` is lost (R161). -/
def loseActuator (a : Nat) (s : State) : State :=
  if s.critFld 3 (4 + a) (4 + a) = 1 ∨ 4 ≤ a then s
  else
    let s1 := retract a 3 (losePort a s)
    let s2 := endRuns a (endQueue (gateQ a) s1)
    let s3 := lasting (Page.PRE a) 5 0 {} (s2.setCritFld 3 (4 + a) (4 + a) 1)
    failActuatorMembers a s3

/-- Heads named by FAULT_STATUS fail: HEAD_FAIL, the members, PREAMP_FAULT; the hold is released (R154, R160). -/
def faultHeads (a status : Nat) (s : State) : State :=
  let fails := (s.reg (Reg.PRE.HEAD_FAIL a)).toNat ||| status % 64
  let s1 := lasting (Page.PRE a) 0 1 {} (s.setReg (Reg.PRE.HEAD_FAIL a) (word fails))
  let s2 := (List.range 6).foldl (fun t h => if status.testBit h then failMember (6 * a + h) t else t) s1
  modPre a (fun p => { p with hold := false, watch := false }) s2

/-- The watch of the port after a fault ends badly: the heads that FAULT_STATUS names fail, or the actuator is lost (R160). -/
def preampFails (a status : Nat) (s : State) : State :=
  if status % 64 ≠ 0 ∧ status / 256 % 16 = 0 then faultHeads a status s
  else loseActuator a (lasting (Page.PRE a) 0 2 {} (modPre a (fun p => { p with watch := false }) s))

/-! ### Work that ends with its block (R44, R72, R74) -/

def nandBlockOf (s : State) (k : Nat) : Nat := k / s.safe.nand.perBlock

/-- Block and page of a NAND page. -/
def nandPlace (s : State) (k : Nat) : Payload := ⟨word (nandBlockOf s k), word (k % s.safe.nand.perBlock), 0#32⟩

/-- DUMP_STATE (critical word 20). -/
def putDumpState (st area cause seq : Nat) (s : State) : State :=
  s.critPut 20 (word (st + area * 8 + cause % 8 * 16 + seq % 65536 * 65536))

/-- Stripe `j`'s rows that patrol reads once more: the re-read counts as failed (R72, R380). -/
def patrolCut (s : State) (j : StripeJob) : State :=
  j.again.foldl (fun t c => lasting (Page.CREW j.engine) 4 0 ⟨word j.band, word j.stripe, word (j.ctxs.getD c (0, 0)).2⟩ t) s

/-- A recomputation that the end of page `p`'s block cuts short counts as failed (R72): the repeat of a serial frame, the watch after a
preamplifier fault, patrol's second reading of rows, a diode's second reading, the second programming of a NAND page. -/
def endRecompute (p : Nat) (s : State) : State :=
  if 0x088 ≤ p ∧ p ≤ 0x08B then
    let a := p - 0x088
    let s1 := if (pre s a).watch then preampFails a (s.fld (Reg.PRE.FAULT a) 15 0) s else s
    match (pre s1 a).sending with
    | some (_, fw, true) =>
      let s2 := lasting p 2 0 {} s1
      loseActuator a (if fw then s2.setBit (Reg.PRE.FW_RESULT a) 17 true else s2)
    | _ => s1
  else if 0x050 ≤ p ∧ p ≤ 0x057 then (s.crew.jobs.filter fun j => j.engine == p - 0x050).foldl patrolCut s
  else if p = Page.CREWG then s.crew.jobs.foldl patrolCut s
  else if p = Page.HDA then
    let s1 := if s.hda.d0.suspect then lasting Page.HDA 1 0 {} s else s
    if s.hda.d1.suspect then lasting Page.HDA 1 1 {} s1 else s1
  else if p = Page.SAFE then
    match s.safe.dump with
    | some d => if d.again then lasting Page.SAFE 3 0 (nandPlace s d.place) s else s
    | none => s
  else s

/-- The stripe jobs that satisfy `p` end lasting to their owners. -/
def endStripeJobs (p : StripeJob → Bool) (s : State) : State :=
  hostDrain ((s.crew.jobs.filter p).foldl (fun t j => dropJob j (returnStatus j.port j.words 2 t)) s)

/-- Every nexus ends (R399). -/
def endNexuses (s : State) : State := ((s.slip.nexuses.filter (fun e => e.2.isSome)).map Prod.fst).foldl (fun t n => endNexus n t) s

/-- A key-store operation, a copy of the ring, a load of records, a discovery and a firmware frame that run end with their block, in the
result and event that report such work to firmware (R44, R74; log entry 157). -/
def endFirmwareWork (p : Nat) (s : State) : State :=
  if p = Page.KEYS ∧ s.keys.op.isSome then
    raise Page.KEYS 1 5 0 {} ({ s with keys := { s.keys with op := none } }.setReg Reg.KEYS.CMD_RESULT 2#32)
  else if p = Page.UMP ∧ s.ump.copy.isSome then
    raise Page.UMP 2 0 2 {} ({ s with ump := { s.ump with copy := none } }.setBit Reg.UMP.UMP_STATUS 29 false)
  else if p = Page.CAL then
    match s.cal.load with
    | some (off, _) => lasting Page.CAL 3 0 ⟨0#32, 0#32, loWord off⟩ { s with cal := { s.cal with load := none } }
    | none => s
  else if p = Page.HDA ∧ s.hda.discovering.isSome then
    (List.range 4).foldl (fun t a => raise (Page.PRE a) 3 0 4 {} t) { s with hda := { s.hda with discovering := none } }
  else if 0x088 ≤ p ∧ p ≤ 0x08B ∧ s.bit (Reg.PRE.FW_RESULT (p - 0x088)) 16 then
    let a := p - 0x088
    lasting p 2 1 {} (((modPre a (fun x => { x with fw := none }) s).setBit (Reg.PRE.FW_RESULT a) 16 false).setBit (Reg.PRE.FW_RESULT a) 17 true)
  else s

/-- The dump's area is closed: DUMP_STATE, and NEXT at the other area (R477). -/
def fileDump (d : Dump) (s : State) : State :=
  let s1 := putDumpState (if d.ended then 2 else 3) d.area d.cause d.seq s
  ((s1.setCritFld 19 0 0 (1 - d.area)).setCritFld 19 (1 + d.area) (1 + d.area) 1).setBit Reg.BOAT.ENGINE_STATE 3 false

/-- The dump and the command of the safe store that run end with their block: the dump without its END page (R44, R74, R477; log entry 157). -/
def endSafe (s : State) : State :=
  let s1 := match s.safe.dump with
    | some d => { fileDump { d with ended := false } s with safe := { s.safe with dump := none }, chip := { s.chip with dumped := s.chip.dumped || pwrFailing s } }
    | none => s
  match s1.safe.running with
  | none => s1
  | some op =>
    let s2 := { s1 with safe := { s1.safe with running := none, cutting := [], waiting := [] } }.setReg Reg.SAFE.CMD_RESULT 2#32
    if op = 3 then lasting Page.SAFE 4 0 {} s2 else s2

/-- The journal sector being written and the replay that run end with the JRNL page's block: the jobs whose record waits for its sector end
lasting, and REPLAY_DONE reports what was replayed (R44, R74; log entry 157). -/
def endJournal (s : State) : State :=
  let s1 := endStripeJobs (fun j => j.record.isSome && !j.journalled) s
  if s1.crew.replay.isSome then
    let w := word (s1.crew.resynced.length % 4096 * 256 + min 4095 s1.crew.replayed * 2 ^ 20)
    raise Page.JRNL 2 0 0 ⟨w, 0#32, 0#32⟩
      (endStripeJobs (fun j => j.port == 0xFF) ({ s1 with crew := { s1.crew with replay := none } }.setReg Reg.JRNL.REPLAY_RESULT w))
  else s1

/-! ### Machine checks (R74) -/

/-- Gate or Rudder of actuator `a` is in machine check: the rigger die retracts, and the members count as failed. -/
def actuatorCheck (a : Nat) (s : State) : State := failActuatorMembers a (endRuns a (riggerRetract false a s))

/-- An Oar is in machine check (R443): its slot is not available, its entries are re-issued; without any Oar the runs end. -/
def oarCheck (o : Nat) (s : State) : State :=
  let a := oarAct o
  let k := oarSlot o
  let s1 := reissueOar o (lasting (Page.GATE a) 3 k {} (s.setBit (Reg.GATE.SLOT_AVAIL a) k false))
  if (List.range 4).any fun j => !inMachineCheck s1 (Page.OAR (4 * a + j)) then s1
  else failActuatorMembers a (endRuns a s1)

/-- Transactions in flight of the Boathouse engine of `classes` end lasting to their owners (R326). -/
def endXacts (mine : List Word → Bool) (s : State) : State :=
  (s.boat.inFlight.filter fun x => mine x.words).foldl (fun t x => xactReturn x.port x.words (xactComplete x.port x.words 2 x.offset t))
    (modBoat (fun b => { b with inFlight := b.inFlight.filter fun x => !mine x.words }) s)

/-- Boathouse engine `e` is in machine check (R326). -/
def boatCheck (e : Nat) (s : State) : State :=
  let s1 := s.setBit Reg.BOAT.ENGINE_STATE (1 + e) true
  let s2 := if e = 0 then
      let t := endTaken (.xact 0) (endXacts (fun w => decide (xactClass w ≤ 2)) s1)
      if boatDown s 1 then t else raise Page.BOAT 7 0 0 {} (t.setBit Reg.BOAT.ENGINE_STATE 0 true)
    else
      let t := if boatTakeover s then endTaken (.xact 0) (endXacts (fun w => decide (xactClass w ≤ 2)) s1) else s1
      modHq (.xact 1) (fun x => { x with fault := true }) (endQueue (.xact 1) (wbFall 4 (endXacts (fun w => xactClass w == 3) t)))
  if boatDown s2 0 && boatDown s2 1 then safeCause (sourceOf Page.BOAT 0) s2 else s2

/-- The reads and ladders in Sweep end (R74, R281). -/
def endSweep (s : State) : State :=
  (usedDec s).foldl (fun t x => if x.2.kind = 3 then unreadable x.1 7 t else endSector x.2.oar x.2.entry 8 t) s

/-- What a block without an outcome of its own in R74's table holds ends as lasting to its owners. -/
def endHeld (p : Nat) (s : State) : State :=
  if p = Page.SLIPC then endNexuses ((List.finRange 4).foldl (fun t c => endQueue (.firmware c) t) (endQueue .intake s))
  else if p = Page.CREWG then endStripeJobs (fun _ => true) (endQueue .stripe s)
  else if p = Page.SAFE then endSafe s
  else if p = Page.JRNL then endJournal s
  else endFirmwareWork p s

/-- Device outcome of a machine check of page `p` (R74); of Boathouse, as of engine 0. -/
def machineCheckOutcome (p : Nat) (s0 : State) : State :=
  let s := endRecompute p s0
  if 0x030 ≤ p ∧ p ≤ 0x03F then oarCheck (p - 0x030) s
  else if 0x040 ≤ p ∧ p ≤ 0x043 then actuatorCheck (p - 0x040) s
  else if 0x020 ≤ p ∧ p ≤ 0x023 then actuatorCheck (p - 0x020) s
  else if 0x050 ≤ p ∧ p ≤ 0x057 then crewCheck (p - 0x050) s
  else if 0x060 ≤ p ∧ p ≤ 0x063 then laneCheck (p - 0x060) s
  else if p = 0x078 ∨ p = 0x079 then s
  else if p = Page.BOAT then boatCheck 0 s
  else if p = Page.COX then safeCause (sourceOf p 0) { s with keys := { s.keys with dead := true } }
  else if p = Page.SWEEP then safeCause (sourceOf p 0) (endSweep s)
  else if p = Page.KEEL then safeCause (sourceOf p 0) (driveSpindle false s)
  else if p = Page.CACHE then safeCause (sourceOf p 0) (rangeEnd 2 s)
  else safeCause (sourceOf p 0) (endHeld p s)

end Sys2Proof.Machine
end

