-- ==== Sys2Proof/Machine/Check.lean ====
section
/-! DEFINITION. Machine checks (R72, R74, R305). -/

namespace Sys2Proof.Machine

/-- STATUS.MCHK and FAULT_CODE of a block in machine check; its claims are released (R51), its partial packets discarded (R95), and SYS
raises MACHINE_CHECK (R74). -/
def enterCheck (p source code : Nat) (requesters : List Nat) (s : State) : State :=
  dropPartials (requesters ++ pagePorts p) (releaseHolders requesters (markCheck p source code s))

/-- A block enters machine check, and the device acts as the table of R74 says. -/
def machineCheck (p source code : Nat) (s : State) : State :=
  if inMachineCheck s p then s
  else machineCheckOutcome p (enterCheck p source code (pageRequesters p) s)

/-- The microcoded engine with requester code `c` enters machine check (R74, R305, R326): each engine of Boathouse on its own. -/
def engineCheck (c source code : Nat) (s : State) : State :=
  if c = 0x30 ∨ c = 0x31 then
    if boatDown s (c - 0x30) then s else boatCheck (c - 0x30) (enterCheck Page.BOAT source code [c] s)
  else machineCheck (enginePage c) source code s

/-! ### Queues after a mismatch (R100) -/

/-- A producer pushes again (R100, R102); refused with FAULT, the operation of an item not done before ends (R92). -/
def pushAgain (q : QueueId) (s : State) (e : Nat × List Word × Bool) : State :=
  if pushStatus s q = .fault then (if e.2.2 then s else endItem q e.1 e.2.1 s) else againPush q s e

end Sys2Proof.Machine
end

