-- ==== Sys2Proof/Machine/Base.lean ====
section
/-! DEFINITION. The meanings of the commands on shared resources, clocks, firmware processors, page locks and block enables
(R44 to R58). -/

namespace Sys2Proof.Machine

/-! ### Claims (R49 to R52) -/

/-- Requester code `c` may claim function `f` of resource `r` (R49). -/
def mayClaim (r f c : Nat) (s : State) : Bool :=
  let isStrokeCode := decide (2 ≤ c) && decide (c ≤ 5)
  let keel := c == 0x0C
  let cox := c == 1
  if f ≠ 1 ∧ f ≠ 2 then false
  else if r = 0 then (if f = 1 then keel || isStrokeCode else isStrokeCode || cox)
  else if r = 1 then (if f = 1 then keel || isStrokeCode else isStrokeCode)
  else if r = 7 then (if f = 1 then cox || (c == 0x0E && debugLevel s != 0) else keel || isStrokeCode)
  else isStrokeCode || (c == 0x0E && debugLevel s == 2)

/-- One claim of the cycle; `before` is the state after the cycle's releases (R50). The order of the reasons is log entry 7. -/
def claimOne (before : State) (req : Requester) (v : Word) (s : State) : State :=
  let r := fld v 2 0
  let f := fld v 9 8
  let c := Requester.code req
  let held := fun t : State => t.bit (Reg.CLAIM.CLAIM_STATE r) 31
  if pageLocked Page.CLAIM s then claimConflict r f c 4 v s
  else if held before && holds req r f before then s
  else if held before then claimConflict r f c 1 v s
  else if !mayClaim r f c s then claimConflict r f c 3 v s
  else if held s then claimConflict r f c 2 v s
  else s.setReg (Reg.CLAIM.CLAIM_STATE r) (word (c + f * 256 + 2 ^ 31))

/-- A written release (R51). -/
def releaseWritten (req : Requester) (v : Word) (s : State) : State :=
  let r := fld v 2 0
  let c := Requester.code req
  let holder := s.bit (Reg.CLAIM.CLAIM_STATE r) 31 && s.fld (Reg.CLAIM.CLAIM_STATE r) 5 0 == c
  if !holder then claimConflict r (fld v 9 8) c 5 v s
  else if pageLocked Page.CLAIM s then claimConflict r (fld v 9 8) c 4 v s
  else releaseResource r s

/-- Rank of a claim among those of one cycle: the function, then the requester code (R50). -/
def claimRank (e : Requester × Word) : Nat := fld e.2 9 8 * 64 + Requester.code e.1

/-- Insert a claim in its place by rank. -/
def insertClaim (e : Requester × Word) : List (Requester × Word) → List (Requester × Word)
  | [] => [e]
  | x :: xs => if claimRank e < claimRank x then e :: x :: xs else x :: insertClaim e xs

/-- The CLAIM_REQ writes of one cycle: releases first, then the claims by precedence (R50). -/
def claimCycle (arrivals : List (Requester × Word)) (s : State) : State :=
  let rel := arrivals.filter (fun e => bit e.2 16)
  let claims := (arrivals.filter (fun e => !bit e.2 16)).foldr insertClaim []
  let s1 := rel.foldl (fun t e => withWrite e.1 Reg.CLAIM.CLAIM_REQ e.2 (releaseWritten e.1 e.2) t) s
  claims.foldl (fun t e => withWrite e.1 Reg.CLAIM.CLAIM_REQ e.2 (claimOne s1 e.1 e.2) t) s1

/-- CLAIM (R50). -/
def execClaim (arrivals : List (Requester × Word)) (s : State) : Host.Outcome State Fault Refusal :=
  .next (claimCycle arrivals s)

/-- RELEASE (R51). -/
def execRelease (req : Requester) (v : Word) (s : State) : Host.Outcome State Fault Refusal :=
  .next (s.when (bit v 16) (withWrite req Reg.CLAIM.CLAIM_REQ v (releaseWritten req v)))

/-! ### Clocks (R56) -/

def modClocks (f : Clocks → Clocks) (s : State) : State := { s with clocks := f s.clocks }

/-- The domain of an island (R18). -/
def islandDomain (i : Nat) : Nat :=
  if i ≤ 1 then 0 else if i ≤ 7 then i - 1 else if i ≤ 9 then 7 else if i = 10 then 8
  else if i ≤ 14 then i - 2 else if i ≤ 18 then i - 6 else i - 6

/-- ISLAND_CLOCK_STOP (R56): the clock stops at once. Loss of lock in I0 is R542's. -/
def execIslandClockStop (island : Nat) (s : State) : Host.Outcome State Fault Refusal :=
  .next (s.when (decide (1 ≤ island) && decide (island ≤ 25) && domainOn s (islandDomain island)
      && !islandStopped s island) fun s =>
    (modClocks (fun c => { c with stopped := SMap.set (fun _ => none) c.stopped island (some s.time) }) s).count
      Reg.CLK.LOCK_LOSS_COUNT 1)

/-- The pages whose block lies in island `i`. -/
def islandPages (i : Nat) : List Nat := (List.range 0x99).filter fun p => (pagePlace p).any (fun x => x.2 == i)

/-- The relock of an island failed; every block of the island enters machine check (R56). -/
def clockFails (island : Nat) (s : State) : State :=
  let s1 := lasting Page.CLK 0 island {} (modClocks (fun c => { c with failed := SMap.set (fun _ => false) c.failed island true }) s)
  (islandPages island).foldl (fun t p => if !pageOn t p then t
    else if p = Page.BOAT then engineCheck 0x31 (sourceOf Page.CLK 0) island (engineCheck 0x30 (sourceOf Page.CLK 0) island t)
    else machineCheck p (sourceOf Page.CLK 0) island t) s1

/-- CLOCK_RELOCK_TIMEOUT (R56). -/
def execClockRelockTimeout (island : Nat) (s : State) : Host.Outcome State Fault Refusal :=
  .next (s.when ((SMap.get (fun _ => none) s.clocks.stopped island).any (fun t => decide (t + 50000 ≤ s.time))
      && !SMap.get (fun _ => false) s.clocks.failed island) (clockFails island))

/-- REF_GLITCH (R56): counted; raised at the first glitch after 1 s without one. -/
def execRefGlitch (s : State) : Host.Outcome State Fault Refusal :=
  let s1 := modClocks (fun c => { c with lastGlitch := some s.time }) (s.countFld Reg.CLK.REF_STATUS 31 16 1)
  .next (if s.clocks.lastGlitch.all (fun t => decide (t + 1000000000 ≤ s.time)) then
      raise Page.CLK 1 0 0 { p0 := word (s1.fld Reg.CLK.REF_STATUS 31 16) } s1
    else s1)

/-! ### Firmware processors (R57, R58) -/

def stroke (s : State) (n : Nat) : Stroke := SMap.get (fun _ => Stroke.reset) s.strokes n

def modStroke (n : Nat) (f : Stroke → Stroke) (s : State) : State :=
  { s with strokes := SMap.set (fun _ => Stroke.reset) s.strokes n (f (stroke s n)) }

/-- SOFT_IRQ (R57). -/
def execSoftIrq (req : Requester) (core : Nat) (v : Word) (s : State) : Host.Outcome State Fault Refusal :=
  .next (s.when (decide (core < 4))
    (withWrite req (Reg.STROKE.SOFT_IRQ core) v (storeWrite (Reg.STROKE.SOFT_IRQ core) v)))

/-- The machine timer interrupt of a core is asserted while the time base is at or above TIMECMP (R57). -/
def timerLine (core : Nat) (s : State) : State :=
  modStroke core (fun c => { c with timerIrq := decide (s.reg64 (Reg.STROKE.TIMECMP_LO core) ≤ s.time) }) s

/-- The timer interrupts of the cores that have power. -/
def timerLines (s : State) : State :=
  (List.range 4).foldl (fun t c => if pageOn t (Page.STROKE c) then timerLine c t else t) s

/-- TIMER_COMPARE (R57): the time base reaches TIMECMP. -/
def execTimerCompare (core : Nat) (s : State) : Host.Outcome State Fault Refusal :=
  .next (s.when (decide (core < 4) && pageOn s (Page.STROKE core)) (timerLine core))

/-- A write of WDT_CFG stores MS and restarts the count. -/
def wdtConfigEffect (core : Nat) (v : Word) (s : State) : State :=
  modStroke core (fun c => { c with wdtStart := s.time }) (storeWrite (Reg.STROKE.WDT_CFG core) v s)

/-- WDT_CONFIG (R57). -/
def execWdtConfig (req : Requester) (core : Nat) (v : Word) (s : State) : Host.Outcome State Fault Refusal :=
  .next (s.when (decide (core < 4)) (withWrite req (Reg.STROKE.WDT_CFG core) v (wdtConfigEffect core v)))

/-- A write of WDT_KICK restarts the count with the key 0x5E5E. -/
def wdtKickEffect (core : Nat) (v : Word) (s : State) : State :=
  if v = 0x5E5E#32 then modStroke core (fun c => { c with wdtStart := s.time }) s else s

/-- WDT_KICK (R57). -/
def execWdtKick (req : Requester) (core : Nat) (v : Word) (s : State) : Host.Outcome State Fault Refusal :=
  .next (s.when (decide (core < 4)) (withWrite req (Reg.STROKE.WDT_KICK core) v (wdtKickEffect core v)))

/-- A Stroke core's halt stops its watchdog (R58) and is reported in CORE_STATE. -/
def strokeStops (c : Nat) (s : State) : State :=
  if 2 ≤ c ∧ c ≤ 5 then raise (Page.STROKE (c - 2)) 4 0 3 {} (modStroke (c - 2) (fun x => { x with haltAt := some s.time }) s) else s

/-- A halted Stroke core goes on: its watchdog has not counted meanwhile. -/
def strokeGoes (c : Nat) (s : State) : State :=
  if 2 ≤ c ∧ c ≤ 5 then
    raise (Page.STROKE (c - 2)) 4 0 4 {} (modStroke (c - 2) (fun x =>
      { x with wdtStart := x.wdtStart + (s.time - x.haltAt.getD s.time), haltAt := none }) s)
  else s

/-- WATCHDOG (R58): MS milliseconds without a restart. -/
def execWatchdog (core : Nat) (s : State) : Host.Outcome State Fault Refusal :=
  let ms := s.fld (Reg.STROKE.WDT_CFG core) 15 0
  .next (s.when (decide (core < 4) && blockAlive s (Page.STROKE core) && ms != 0 && !engineHalted s (2 + core)
      && decide ((stroke s core).wdtStart + ms * 1000000 ≤ s.time)) fun s =>
    machineCheck (Page.STROKE core) (sourceOf (Page.STROKE core) 3) 0 (lasting (Page.STROKE core) 3 0 {} s))

/-! ### Page locks and enables (R44, R48) -/

/-- Keys of the RWL registers of page `p`. -/
def rwlKeys (p : Nat) : List Nat := ((List.range 1024).map (fun i => regKey p (4 * i))).filter isRwl

/-- A write of LOCK: LOCKED is set, and the RWL registers are copied to the shadow in D0 (R47, R48). -/
def lockEffect (p : Nat) (v : Word) (s : State) : State :=
  if bit v 0 && !pageLocked p s then
    let copy := fun (t : State) (k : Nat) =>
      { t with rwlShadow := SMap.set (fun _ => none) t.rwlShadow k (some (s.reg k)) }
    (rwlKeys p).foldl copy (s.setBit (Reg.LOCK p) 0 true)
  else s

/-- PAGE_LOCK (R48). -/
def execPageLock (req : Requester) (page : Nat) (v : Word) (s : State) : Host.Outcome State Fault Refusal :=
  .next (withWrite req (Reg.LOCK page) v (lockEffect page v) s)

/-- A write of CTRL with SOFT_RESET 0 (R44): EN, HALT_ON_FAULT and the block fields; SOFT_RESET running keeps them (R44). -/
def ctrlEffect (p : Nat) (v : Word) (s : State) : State :=
  if s.bit (Reg.CTRL p) 1 then s else storeWrite (Reg.CTRL p) v s

/-- BLOCK_DISABLE (R44): EN 0 stops the intake of new work. -/
def execBlockDisable (req : Requester) (page : Nat) (v : Word) (s : State) : Host.Outcome State Fault Refusal :=
  .next (s.when (!bit v 0 && !bit v 1) (withWrite req (Reg.CTRL page) v (ctrlEffect page v)))

end Sys2Proof.Machine
end

