-- ==== Sys2Proof/Machine/Boat.lean ====
section
/-! DEFINITION. The meanings of the commands of the DRAM ports, Boathouse's transactions, dirty accounting and the scrub
(R313 to R329, R340 to R342). -/

namespace Sys2Proof.Machine

/-! ### DRAM ports (R315 to R319) -/

def dram (s : State) (n : Nat) : DramPort := SMap.get (fun _ => DramPort.reset) s.drams n

def modDram (n : Nat) (f : DramPort → DramPort) (s : State) : State :=
  { s with drams := SMap.set (fun _ => DramPort.reset) s.drams n (f (dram s n)) }

def dramTrained (s : State) (n : Nat) : Bool := s.bit (Reg.DRAM.DRAM_STATUS n) 0
def dramAsleep (s : State) (n : Nat) : Bool := s.bit (Reg.DRAM.DRAM_STATUS n) 1

/-- The port's memory can be reached. -/
def dramServes (s : State) (n : Nat) : Bool := blockAlive s (Page.DRAM n) && dramTrained s n && !dramAsleep s n

/-- The port that holds granule `g` serves (R317, R319). -/
def granServes (g : Nat) (s : State) : Bool := dramServes s (granPort g) && !inTransit s 7

/-- Both ports serve: groups alternate between them (R317). -/
def dramReady (s : State) : Bool := dramServes s 0 && dramServes s 1 && usableSize s != 0

/-- INIT (R315): training, once more when it fails, then the fill. -/
def dramInitEffect (n : Nat) (r : TrainResult) (s : State) : State :=
  if dramTrained s n || s.bit (Reg.DRAM.DRAM_STATUS n) 2 then s
  else
    let s := modDram n (fun d => { d with rate := s.fld (Reg.DRAM.DRAM_CFG n) 1 0 }) s
    let s1 := if r.first then s else s.count (Reg.DRAM.TRAIN_RETRIES n) 1
    if !([4, 6, 8, 12, 16].contains r.capacity) then lasting (Page.DRAM n) 1 2 {} s
    else if !r.first && !r.second then lasting (Page.DRAM n) 1 1 {} s1
    else
      let s2 := if r.first then s1 else transient (Page.DRAM n) 1 1 {} s1
      let s3 := ((s2.setBit (Reg.DRAM.DRAM_STATUS n) 2 true).setFld (Reg.DRAM.DRAM_STATUS n) 20 16 r.capacity).setFld
        (Reg.DRAM.DRAM_STATUS n) 31 24 (min 255 r.trainMs)
      modDram n (fun d => { d with capacity := r.capacity }) s3

/-- SR_ENTER or SR_EXIT is wanted of a port (R319). -/
def srWanted (n : Nat) (enter : Bool) (s : State) : State := modDram n (fun d => { d with srWant := some enter }) s

/-- A write of DRAM_CMD; `r` is what an INIT meets. -/
def dramCmdEffect (n : Nat) (v : Word) (r : TrainResult) (s : State) : State :=
  let s1 := if bit v 0 then dramInitEffect n r s else s
  let s2 := if bit v 1 then srWanted n true s1 else s1
  if bit v 2 then srWanted n false s2 else s2

/-- DRAM_INIT (R315). -/
def execDramInit (req : Requester) (port : Nat) (v : Word) (r : TrainResult) (s : State) : Host.Outcome State Fault Refusal :=
  .next (s.when (decide (port < 2) && bit v 0) (withWriteOut { train := r } req (Reg.DRAM.DRAM_CMD port) v (dramCmdEffect port v r)))

/-- The zero fill of one port: every byte and check line of its groups (R315). -/
def zeroFill (n : Nat) (s : State) : State :=
  let here := fun g : Nat => granPort g = n
  State.count { s with mem := SMap.keep (fun a => decide (a < dramBase) || !decide (here ((a - dramBase) / 64))) s.mem
                       checks := SMap.keep (fun g => !decide (here g)) s.checks }
    (Reg.DRAM.WR_BEATS n) (8 * ((dram s n).capacity * 2 ^ 30 / 576))

/-- Usable size of two ports of `c` GiB each (R317). -/
def usableOf (c : Nat) : Nat := 2 * (c * 2 ^ 30 / 576) * 512

/-- INIT_DONE (R315, R316): the fill ends; with both ports trained the usable size is written. -/
def execInitDone (port : Nat) (s : State) : Host.Outcome State Fault Refusal :=
  .next (s.when (decide (port < 2) && blockAlive s (Page.DRAM port) && s.bit (Reg.DRAM.DRAM_STATUS port) 2) fun s =>
    let s1 := ((zeroFill port s).setBit (Reg.DRAM.DRAM_STATUS port) 2 false).setBit (Reg.DRAM.DRAM_STATUS port) 0 true
    let s2 := raise (Page.DRAM port) 0 0 0 {} s1
    if dramTrained s2 0 && dramTrained s2 1 then
      let c0 := (dram s2 0).capacity; let c1 := (dram s2 1).capacity
      let s3 := { s2.setReg64 Reg.BOAT.USABLE_LO (usableOf (min c0 c1)) with scrub := { s2.scrub with lapStart := s2.time } }
      let pl : Payload := ⟨word c0, word c1, 0#32⟩
      if c1 < c0 then lasting (Page.DRAM 0) 2 0 pl s3 else if c0 < c1 then lasting (Page.DRAM 1) 2 0 pl s3 else s3
    else s2)

/-- SR_ENTER (R319). -/
def execSrEnter (req : Requester) (port : Nat) (v : Word) (s : State) : Host.Outcome State Fault Refusal :=
  .next (s.when (decide (port < 2) && bit v 1 && !bit v 0)
    (withWrite req (Reg.DRAM.DRAM_CMD port) v (dramCmdEffect port v ⟨false, false, 0, 0⟩)))

/-- SR_EXIT (R319). -/
def execSrExit (req : Requester) (port : Nat) (v : Word) (s : State) : Host.Outcome State Fault Refusal :=
  .next (s.when (decide (port < 2) && bit v 2 && !bit v 1 && !bit v 0)
    (withWrite req (Reg.DRAM.DRAM_CMD port) v (dramCmdEffect port v ⟨false, false, 0, 0⟩)))

/-- A transaction touches granules of port `n`. -/
def xactOnPort (ws : List Word) (n : Nat) : Bool :=
  (List.range (xactCount ws)).any fun i => granPort (xactGran ws + i) == n || (xactType ws == 3 && granPort (xactDest ws + i) == n)

/-- SELF_REFRESH (R319): entry once no buffer transaction is in flight on the port; exit. -/
def execSelfRefresh (port : Nat) (s : State) : Host.Outcome State Fault Refusal :=
  .next (s.when (decide (port < 2) && blockAlive s (Page.DRAM port) && dramTrained s port) fun s =>
    match (dram s port).srWant with
    | none => s
    | some enter =>
      let done := modDram port (fun d => { d with srWant := none })
      if enter = dramAsleep s port then done s
      else if enter && s.boat.inFlight.any (fun x => xactOnPort x.words port) then s
      else raise (Page.DRAM port) 5 0 (if enter then 1 else 0) {} (done (s.setBit (Reg.DRAM.DRAM_STATUS port) 1 enter)))

/-- MR4_POLL (R318). The refresh itself has no state; REFRESH_RATE shows the field as read. -/
def execMr4Poll (port : Nat) (rate : Nat) (overTemp : Bool) (s : State) : Host.Outcome State Fault Refusal :=
  .next (s.when (decide (port < 2) && dramServes s port) fun s =>
    let r := rate % 32
    let s1 := if s.fld (Reg.DRAM.DRAM_STATUS port) 12 8 = r then s
      else raise (Page.DRAM port) 3 0 r {} (s.setFld (Reg.DRAM.DRAM_STATUS port) 12 8 r)
    let s2 := if overTemp && !(dram s port).hot then lasting (Page.DRAM port) 4 0 {} s1 else s1
    modDram port (fun d => { d with hot := overTemp }) s2)

/-! ### Transactions (R322 to R325) -/

/-- Under takeover, queue 0's head goes before queue 1's: the higher level, then the earlier at its level, then queue 0 (R326). -/
def zeroFirst (s : State) : Bool :=
  match qFront (.xact 0) s, qFront (.xact 1) s with
  | some a, some b => decide (b.level < a.level) || (a.level == b.level && decide (a.since ≤ b.since))
  | _, none => true
  | none, some _ => false

/-- The ports that a transaction touches serve. -/
def xactReady (s : State) (ws : List Word) : Bool := usableSize s != 0 && [0, 1].all fun n => dramServes s n || !xactOnPort ws n

/-- An engine serves queue `q` now (R308, R322, R326); BULK work waits while the dump runs (R343). -/
def xactServed (s : State) (q : Fin 2) : Bool :=
  if q == 1 && s.bit Reg.BOAT.ENGINE_STATE 3 then false
  else if boatTakeover s then engineRuns s 0x31 && (zeroFirst s == (q == 0)) else engineRuns s (0x30 + q.val)

/-- The next transaction of queue `q`, if it is of type `ty` and holds its credit, with the state that has taken it. -/
def xactTake (q : Fin 2) (ty : Nat) (s : State) : Option (QItem × State) :=
  if !xactServed s q then none
  else
    match qFront (.xact q) s with
    | none => none
    | some it =>
      if xactType it.words ≠ ty ∨ !xactReady s it.words ∨ s.boat.creditWait.contains (.xact it.port it.words) then none else qNext (.xact q) s

/-- A transaction has moved its granules; it waits for its acknowledgement (R323). -/
def xactMoved (it : QItem) (status offset : Nat) (s : State) : State :=
  modBoat (fun b => { b with inFlight := b.inFlight ++ [⟨it.port, it.words, status, offset⟩] }) s

/-- Run `f` on the next transaction of type `ty`; where there is none the state stays. -/
def withXact (q : Fin 2) (ty : Nat) (f : QItem → State → State) (s : State) : State :=
  let s0 := xactGrantNext s
  match xactTake q ty s0 with
  | none => s0
  | some (it, s1) => f it s1

/-- XACT_READ (R323, R324). -/
def execXactRead (q : Fin 2) (noise : DramNoise) (s : State) : Host.Outcome State Fault Refusal :=
  .next (withXact q 1 (fun it s =>
    let r := readGranules (xactSole it.words) it.port noise (xactGran it.words) (xactCount it.words) (strikeAllDram noise s)
    modBoat (fun b => { b with delivered := r.1 }) (xactMoved it r.2.1 r.2.2.1 r.2.2.2)) s)

/-- Write beats to granules from `g` on. -/
def putGranules (g : Nat) : List Beat → State → State
  | [], s => s
  | b :: bs, s => putGranules (g + 1) bs (putGranule g b s)

/-- Exactly `n` beats; a missing one is a blank beat. -/
def padBeats (n : Nat) (bs : List Beat) : List Beat := (List.range n).map fun i => bs.getD i ⟨List.replicate 64 0#8, false⟩

/-- XACT_WRITE (R323): the requester's beats, each with its poison tag. -/
def execXactWrite (q : Fin 2) (beats : List Beat) (s : State) : Host.Outcome State Fault Refusal :=
  .next (withXact q 2 (fun it s =>
    xactMoved it 0 (64 * xactGran it.words) (putGranules (xactGran it.words) (padBeats (xactCount it.words) beats) s)) s)

/-- The granules of a COPY, in ascending order: each is read, checked and written (R323, R324). -/
def copyGranules (sole : Bool) (who : Nat) (noise : DramNoise) (src dst : Nat) : Nat → Nat × Nat × State → Nat × Nat × State
  | 0, x => x
  | n + 1, (st, off, s) =>
    let r := readGranule sole who noise src s
    let worse := decide (st < r.2.1)
    copyGranules sole who noise (src + 1) (dst + 1) n
      (if worse then r.2.1 else st, if worse then 64 * src else off, putGranule dst r.1 r.2.2)

/-- XACT_COPY (R323, R324). -/
def execXactCopy (q : Fin 2) (noise : DramNoise) (s : State) : Host.Outcome State Fault Refusal :=
  .next (withXact q 3 (fun it s =>
    let g := xactGran it.words
    let r := copyGranules (xactSole it.words) it.port noise g (xactDest it.words) (xactCount it.words)
      (0, 64 * g, strikeAllDram noise s)
    xactMoved it r.1 r.2.1 r.2.2) s)

/-- XACT_FILL (R323): the pattern repeated, POISON 0. -/
def execXactFill (q : Fin 2) (s : State) : Host.Outcome State Fault Refusal :=
  .next (withXact q 4 (fun it s =>
    let b : Beat := ⟨(List.replicate 8 (toBytes 8 (xactPattern it.words))).flatten, false⟩
    xactMoved it 0 (64 * xactGran it.words)
      (putGranules (xactGran it.words) (List.replicate (xactCount it.words) b) s)) s)

/-- XACT_MERGE (R325). -/
def execXactMerge (q : Fin 2) (beat : Beat) (noise : DramNoise) (s : State) : Host.Outcome State Fault Refusal :=
  .next (withXact q 5 (fun it s =>
    let g := xactGran it.words
    let mask := xactPattern it.words
    if mask = 2 ^ 64 - 1 then xactMoved it 0 (64 * g) (putGranule g beat s)
    else
      let r := readGranule (xactSole it.words) it.port noise g (strikeAllDram noise s)
      let data := (r.1.data.zipIdx).map fun e => if mask.testBit e.2 then beat.data.getD e.2 0#8 else e.1
      xactMoved it r.2.1 (64 * g) (putGranule g ⟨data, r.1.poison || beat.poison⟩ r.2.2)) s)

/-- XACT_DONE (R323): the credit returns and a core that asked receives its completion. -/
def execXactDone (port : Nat) (tag : Nat) (s : State) : Host.Outcome State Fault Refusal :=
  .next (s.when (pageOn s Page.BOAT) fun s =>
    match s.boat.inFlight.find? (fun x => x.port == port && xactTag x.words == tag) with
    | none => s
    | some x =>
      let s1 := modBoat (fun b => { b with inFlight := b.inFlight.erase x }) s
      xactComplete x.port x.words x.status x.offset (xactReturn x.port x.words s1))

/-! ### Dirty accounting (R327, R328) -/

def boatOn (s : State) : Bool := pageOn s Page.BOAT && pageClocked s Page.BOAT

/-- DIRTY_RESERVE (R327). -/
def execDirtyReserve (task granules : Nat) (s : State) : Host.Outcome State Fault Refusal :=
  .next (s.when (boatOn s && decide (1 ≤ granules) && decide (granules ≤ 16384)) fun s =>
    if !wbActive s then modBoat (fun b => { b with through := b.through ++ [task] }) s
    else if s.boat.waiting.isEmpty ∧ dirtyCount s + granules ≤ dirtyLimit s then
      modBoat (fun b => { b with granted := b.granted ++ [⟨task, granules⟩] }) (addDirty granules s)
    else
      let said := !s.boat.waiting.isEmpty || s.boat.lastWait.any (fun t => decide (s.time < t + 1000000))
      let s1 := modBoat (fun b => { b with waiting := b.waiting ++ [⟨task, granules⟩], lastWait := some s.time }) s
      if said then s1 else raise Page.BOAT 4 0 0 {} s1)

/-- DIRTY_GRANT (R327): the longest-waiting reservation, once it fits. -/
def execDirtyGrant (s : State) : Host.Outcome State Fault Refusal :=
  .next (s.when (boatOn s && wbActive s) fun s =>
    match s.boat.waiting with
    | [] => s
    | r :: rest =>
      let s1 := modBoat (fun b => { b with lastWait := some s.time }) s
      if dirtyCount s + r.granules ≤ dirtyLimit s then
        modBoat (fun b => { b with waiting := rest, granted := b.granted ++ [r] }) (addDirty r.granules s1)
      else s1)

/-- A write of DIRTY_ADJ (R328). -/
def dirtyAdjEffect (v : Word) (s : State) : State :=
  let n := fld v 14 0
  let res := fun (k : Nat) (t : State) => t.setReg Reg.BOAT.DIRTY_ADJ_RESULT (word k)
  if n = 0 ∨ 16384 < n then res 2 s
  else if bit v 31 then
    if dirtyCount s < n then res 3 (releaseDirty n s) else res 1 (releaseDirty n s)
  else if wbActive s ∧ dirtyCount s + n ≤ dirtyLimit s then res 1 (addDirty n s)
  else res 2 s

/-- DIRTY_ADJ_RESERVE (R328). -/
def execDirtyAdjReserve (req : Requester) (v : Word) (s : State) : Host.Outcome State Fault Refusal :=
  .next (s.when (!bit v 31) (withWrite req Reg.BOAT.DIRTY_ADJ v (dirtyAdjEffect v)))

/-- DIRTY_ADJ_RELEASE (R328). -/
def execDirtyAdjRelease (req : Requester) (v : Word) (s : State) : Host.Outcome State Fault Refusal :=
  .next (s.when (bit v 31) (withWrite req Reg.BOAT.DIRTY_ADJ v (dirtyAdjEffect v)))

/-! ### Scrub (R340 to R342) -/

/-- A lasting scrub failure enters the first free LOG entry, or LOG_FULL is raised once (R341). -/
def scrubLog (g : Nat) (s : State) : State :=
  match (List.range 16).find? (fun i => !s.bit (Reg.SCRUB.LOG i) 31) with
  | some i => s.setReg (Reg.SCRUB.LOG i) (word (g + 2 ^ 31))
  | none =>
    if s.scrub.fullSaid then s else raise Page.SCRUB 3 0 0 {} { s with scrub := { s.scrub with fullSaid := true } }

/-- One granule is checked; the scrub never writes DRAM (R341). -/
def scrubGranule (noise : DramNoise) (g : Nat) (s : State) : State :=
  let pl : Payload := ⟨word g, 0#32, 0#32⟩
  let beats := fun (k : Nat) (t : State) => t.count (Reg.DRAM.RD_BEATS (granPort g)) k
  if granValid s g then
    if noise.first.contains g || s.boat.upsets.contains g then
      raise Page.SCRUB 1 1 0 pl ((beats 2 (calmGranule g s)).count Reg.SCRUB.SCRUB_TRANSIENT 1)
    else beats 1 s
  else scrubLog g (lasting Page.SCRUB 1 0 pl ((beats 2 (calmGranule g s)).count Reg.SCRUB.SCRUB_LASTING 1))

/-- The walk returns to group 0 (R342). -/
def scrubLap (s : State) : State :=
  let ms := (s.time - s.scrub.lapStart) / 1000000
  let s1 := ({ s with scrub := { s.scrub with lapStart := s.time } }).setReg Reg.SCRUB.LAST_LAP (word (min 0xFFFFFFFF ms))
  let s2 := raise Page.SCRUB 0 0 0 ⟨word ms, 0#32, 0#32⟩ (s1.count Reg.SCRUB.LAP_COUNT 1)
  if s.fld Reg.SCRUB.LAP_LIMIT 15 0 * 1000000000 < s.time - s.scrub.lapStart then raise Page.SCRUB 2 0 0 {} s2 else s2

/-- SCRUB_STEP (R340, R341). -/
def execScrubStep (quiet100ns : Nat) (noise : DramNoise) (s : State) : Host.Outcome State Fault Refusal :=
  let cfg := Reg.SCRUB.SCRUB_CFG
  .next (s.when (blockAlive s Page.SCRUB && s.bit cfg 0 && dramReady s && !s.bit Reg.BOAT.ENGINE_STATE 3 && engineRuns s 0x31
      && decide (s.scrub.lastStep + s.fld cfg 15 8 * 100 ≤ s.time) && decide (s.fld cfg 23 16 ≤ quiet100ns)) fun s =>
    let p := s.fld Reg.SCRUB.POSITION 25 0
    let s1 := (List.range 8).foldl (fun t i => scrubGranule noise (8 * p + i) t) (strikeAllDram noise s)
    let next := if usableSize s ≤ (p + 1) * 512 then 0 else p + 1
    let s2 := ({ s1 with scrub := { s1.scrub with lastStep := s.time } }).setFld Reg.SCRUB.POSITION 25 0 next
    if next = 0 then scrubLap s2 else s2)

/-- A write of LOG_CTRL (R350). -/
def scrubLogEffect (v : Word) (s : State) : State :=
  if bit v 0 then
    (List.range 16).foldl (fun t i => t.setReg (Reg.SCRUB.LOG i) 0#32) { s with scrub := { s.scrub with fullSaid := false } }
  else s

/-- SCRUB_LOG_CLEAR (R350). -/
def execScrubLogClear (req : Requester) (v : Word) (s : State) : Host.Outcome State Fault Refusal :=
  .next (withWrite req Reg.SCRUB.LOG_CTRL v (scrubLogEffect v) s)

end Sys2Proof.Machine
end

