-- ==== Sys2Proof/Machine/CacheOps.lean ====
section
/-! DEFINITION. The buffer cache: lines, replacement, fills and write-backs, and the range engine (R330 to R338). -/

namespace Sys2Proof.Machine

/-- The line in way `k % 16` of set `k / 16`. -/
def lineAt (s : State) (k : Nat) : Option CacheLine := SMap.get (fun _ => none) s.cache.lines k

def putLine (k : Nat) (x : Option CacheLine) (s : State) : State :=
  modCache (fun c => { c with lines := SMap.set (fun _ => none) c.lines k x }) s

/-- Set and tag of granule `g` (R330). -/
def setOf (g : Nat) : Nat := g % 32768
def tagOf (g : Nat) : Nat := g / 32768

/-- The granule a line holds. -/
def lineGran (k : Nat) (x : CacheLine) : Nat := x.tag * 32768 + k / 16

def wayLocked (s : State) (w : Nat) : Bool := s.bit Reg.CACHE.LOCK_MASK w

/-- The key of the line that holds granule `g`. -/
def findLine (s : State) (g : Nat) : Option Nat :=
  ((List.range 16).map (fun w => 16 * setOf g + w)).find? fun k => (lineAt s k).any (fun x => x.tag == tagOf g)

/-- The address of granule `g` is of the host-data class (R331). -/
def hostClass (s : State) (g : Nat) : Bool :=
  (List.range 8).any fun r =>
    s.bit (Reg.CACHE.HOST_BASE r) 31 && decide (s.fld (Reg.CACHE.HOST_BASE r) 23 0 ≤ g / 1024)
      && decide (g / 1024 ≤ s.fld (Reg.CACHE.HOST_LIMIT r) 23 0)

/-! ### Replacement (R332; the tree is log entry 11) -/

/-- Some way of [lo, lo + n) is unlocked. -/
def someUnlocked (s : State) (lo n : Nat) : Bool := (List.range n).any fun i => !wayLocked s (lo + i)

/-- Descend the tree from `node` over the ways from `lo`, `2 ^ depth` of them. A node's bit is 1 when its right half is older. -/
def treeVictim (s : State) (tree : Nat) : Nat → Nat → Nat → Nat
  | 0, _, lo => lo
  | d + 1, node, lo =>
    let half := 2 ^ d
    let right := if !someUnlocked s (lo + half) half then false
      else if !someUnlocked s lo half then true else tree.testBit node
    if right then treeVictim s tree d (2 * node + 2) (lo + half) else treeVictim s tree d (2 * node + 1) lo

/-- The nodes on the way to `w` point away from it. -/
def treeTouch (w : Nat) : Nat → Nat → Nat → Nat → Nat
  | 0, _, _, tree => tree
  | d + 1, node, lo, tree =>
    let half := 2 ^ d
    let right := decide (lo + half ≤ w)
    let bitOff := tree - (if tree.testBit node then 2 ^ node else 0)
    let t := if right then bitOff else bitOff + 2 ^ node
    treeTouch w d (if right then 2 * node + 2 else 2 * node + 1) (if right then lo + half else lo) t

/-- Way `w` of set `i` was used. -/
def touch (k : Nat) (s : State) : State :=
  let t := treeTouch (k % 16) 4 0 0 (SMap.get (fun _ => 0) s.cache.tree (k / 16))
  modCache (fun c => { c with tree := SMap.set (fun _ => 0) c.tree (k / 16) t }) s

/-! ### Write-backs and fills -/

/-- A line is written to DRAM with its poison mark and is clean (R331, R334). -/
def writeBack (k : Nat) (s : State) : State :=
  match lineAt s k with
  | none => s
  | some x => putLine k (some { x with dirty := false }) (putGranule (lineGran k x) ⟨x.data, x.poison⟩ s)

/-- The way a miss of granule `g` allocates: the lowest invalid unlocked way, else the tree's victim (R332). -/
def allocWay (s : State) (g : Nat) : Nat :=
  let base := 16 * setOf g
  match (List.range 16).find? (fun w => !wayLocked s w && (lineAt s (base + w)).isNone) with
  | some w => base + w
  | none => base + treeVictim s (SMap.get (fun _ => 0) s.cache.tree (setOf g)) 4 0 0

/-- Make room at key `k`: a dirty victim goes to DRAM first (R332). -/
def evict (k : Nat) (s : State) : State :=
  match lineAt s k with
  | none => s
  | some x => putLine k none ((if x.dirty then writeBack k s else s).count Reg.CACHE.EVICT_COUNT 1)

/-- Fill way `k` with granule `g` from DRAM, as a SOLE transaction (R333, R334). -/
def fillLine (noise : DramNoise) (k g : Nat) (s : State) : State :=
  let r := readGranule true 0 noise g s
  let s1 := putLine k (some ⟨tagOf g, false, r.1.poison, 0#64, r.1.data⟩) r.2.2
  if r.1.poison then raise Page.CACHE 6 0 0 ⟨loWord (64 * g), hiWord (64 * g), 0#32⟩ s1 else s1

/-- The line of granule `g`, filled on a miss: its key and the state (R332). -/
def reachLine (noise : DramNoise) (g : Nat) (s : State) : Nat × State :=
  match findLine s g with
  | some k => (k, touch k (s.count Reg.CACHE.HIT_COUNT 1))
  | none =>
    let k := allocWay s g
    (k, touch k (fillLine noise k g (evict k (s.count Reg.CACHE.MISS_COUNT 1))))

/-- Bytes are stored into a line at offset `off` (R331, R334). -/
def storeLine (k g off : Nat) (bs : List Byte) (s : State) : State :=
  match lineAt s k with
  | none => s
  | some x =>
    let data := (x.data.zipIdx).map fun e => if off ≤ e.2 ∧ e.2 < off + bs.length then bs.getD (e.2 - off) 0#8 else e.1
    let stored := x.stored ||| BitVec.ofNat 64 ((2 ^ bs.length - 1) * 2 ^ off)
    let clean := decide (stored = BitVec.allOnes 64)
    let y : CacheLine := ⟨x.tag, true, x.poison && !clean, if clean then 0#64 else stored, data⟩
    let s1 := putLine k (some y) s
    if hostClass s g then writeBack k s1 else s1

/-! ### Range engine (R336 to R338) -/

/-- A count of the running operation changes. -/
def modRange (f : RangeOp → RangeOp) (s : State) : State := modCache (fun c => { c with range := c.range.map f }) s

def rangeSkip (g : Nat) : State → State :=
  modRange fun r => { r with skipped := r.skipped + 1, firstSkip := some (min (64 * g) (r.firstSkip.getD (64 * g))) }

/-- Write a dirty line back and count it. -/
def rangeClean (k : Nat) (s : State) : State :=
  if (lineAt s k).any CacheLine.dirty then modRange (fun r => { r with writebacks := r.writebacks + 1 }) (writeBack k s) else s

/-- A line becomes 64 zero bytes, dirty and unpoisoned; one of the host class is written back at once (R331, R336). -/
def zeroLine (k g : Nat) (s : State) : State :=
  let s1 := putLine k (some ⟨tagOf g, true, false, 0#64, List.replicate 64 0#8⟩) s
  if hostClass s g then rangeClean k s1 else s1

/-- The lowest empty locked way of the set of `g`. -/
def emptyLocked (s : State) (g : Nat) : Option Nat :=
  ((List.range 16).filter (wayLocked s)).map (fun w => 16 * setOf g + w) |>.find? fun k => (lineAt s k).isNone

/-- The operation on a line that is present at key `k` (R336). -/
def rangePresent (op : Nat) (force : Bool) (k g : Nat) (s : State) : State :=
  let locked := wayLocked s (k % 16)
  let dirty := (lineAt s k).any CacheLine.dirty
  if op = 1 then rangeClean k s
  else if op = 2 then
    if !locked then
      putLine k none (if dirty then modRange (fun r => { r with discarded := r.discarded + 1 }) s else s)
    else if force then putLine k none (rangeClean k s) else rangeSkip g s
  else if op = 3 then
    if !locked || force then putLine k none (rangeClean k s) else rangeSkip g (rangeClean k s)
  else if op = 4 then zeroLine k g s
  else if locked then s
  else
    match emptyLocked s g with
    | some j => putLine k none (putLine j (lineAt s k) s)
    | none => rangeSkip g s

/-- The operation on a line that is absent (R336). -/
def rangeAbsent (op g : Nat) (s : State) : State :=
  if op = 4 then
    let k := allocWay s g
    zeroLine k g (touch k (evict k s))
  else if op = 5 then
    match emptyLocked s g with
    | some j => fillLine quiet j g s
    | none => rangeSkip g s
  else s

/-- Lines the operation examines: the range, or the whole cache when the range is larger (R338). -/
def rangeTotal (r : RangeOp) : Nat := if 524288 < r.lines ∧ r.op ≤ 3 then 524288 else r.lines

/-- Step `i` of the operation. -/
def rangeLine (r : RangeOp) (i : Nat) (s : State) : State :=
  let s1 := modRange (fun x => { x with done := x.done + 1 }) s
  if 524288 < r.lines ∧ r.op ≤ 3 then
    match lineAt s i with
    | some x =>
      let g := lineGran i x
      if r.first ≤ g ∧ g < r.first + r.lines then rangePresent r.op r.force i g s1 else s1
    | none => s1
  else
    match findLine s (r.first + i) with
    | some k => rangePresent r.op r.force k (r.first + i) s1
    | none => rangeAbsent r.op (r.first + i) s1

/-- The granules of DRAM that step `i` of the operation reads or writes (R331, R336). -/
def rangeNeeds (r : RangeOp) (i : Nat) (s : State) : List Nat :=
  let here := fun (k g : Nat) => if (lineAt s k).any CacheLine.dirty || (r.op == 4 && hostClass s g) then [g] else []
  if 524288 < r.lines ∧ r.op ≤ 3 then (lineAt s i).elim [] fun x => here i (lineGran i x)
  else
    let g := r.first + i
    match findLine s g with
    | some k => here k g
    | none =>
      if r.op = 5 then [g]
      else if r.op = 4 then
        ((lineAt s (allocWay s g)).elim [] fun x => if x.dirty then [lineGran (allocWay s g) x] else [])
          ++ (if hostClass s g then [g] else [])
      else []

/-- Bring the engine to the line it has reached by now: one line per cycle of I7, 1.2 a nanosecond (R338); it waits at a line whose port
of the DRAM does not serve (R319). -/
def rangeAdvance (s : State) : State :=
  match s.cache.range with
  | none => s
  | some r =>
    let due := min (rangeTotal r) ((s.time - r.start) * 6 / 5)
    (List.range (due - r.done)).foldl (fun t i =>
      if t.cache.range.any (fun x => x.done == r.done + i) && (rangeNeeds r (r.done + i) t).all (fun g => granServes g t) then
        rangeLine r (r.done + i) t
      else t) s

/-- GO (R336, R337). -/
def rangeGo (v : Word) (s : State) : State :=
  let op := fld v 2 0
  let lines := s.fld Reg.CACHE.RANGE_LINES 29 0
  let first := s.reg64 Reg.CACHE.RANGE_BASE_LO / 64
  let code := if s.cache.range.isSome then 1
    else if lines = 0 ∨ (524288 < lines ∧ (op = 4 ∨ op = 5)) then 2
    else if usableSize s < 64 * (first + lines) then 3
    else if op = 0 ∨ 6 ≤ op then 4 else 0
  if code = 0 then
    modCache (fun c => { c with range := some ⟨op, bit v 4, first, lines, s.time, 0, 0, none, 0, 0⟩ }) s
  else raise Page.CACHE 4 5 code {} (s.setReg Reg.CACHE.RANGE_RESULT (word (3 + 16 * code)))

/-- A write of RANGE_CTRL: OP and FORCE are kept, GO starts and STOP ends an operation. -/
def rangeCtrlEffect (v : Word) (s : State) : State :=
  let s0 := rangeAdvance s
  let s1 := s0.setReg Reg.CACHE.RANGE_CTRL (v &&& 0x17#32)
  let s2 := if bit v 8 then rangeGo v s1 else s1
  if bit v 9 then rangeEnd 2 s2 else s2

/-- A dirty line whose port of the DRAM does not serve. -/
def lineStuck (s : State) (e : Nat × Option CacheLine) : Bool := e.2.any fun x => x.dirty && !granServes (lineGran e.1 x) s

/-- SOFT_RESET of the CACHE page (R330): a range operation ends, every dirty line is written back, every line invalidated and
LOCK_MASK cleared; a dirty line whose port does not serve waits for it (R319). -/
def cacheReset (s : State) : State :=
  let s1 := s.cache.lines.foldl (fun t e => if e.2.any CacheLine.dirty && !lineStuck s e then writeBack e.1 t else t) s
  modCache (fun c => { c with lines := c.lines.filter (lineStuck s), tree := [], range := none }) (s1.setReg Reg.CACHE.LOCK_MASK 0#32)

end Sys2Proof.Machine
end

