-- ==== Sys2Proof/Machine/Events.lean ====
section
/-! DEFINITION. The event fabric: delivery, target queues and leaky buckets (R59 to R67), and forced events. -/

namespace Sys2Proof.Machine

/-- Key of the EVSRC entry of a source (R63). -/
def evsrcKey (src : Nat) : Nat :=
  if src < 1008 then regKey 0x008 (0x040 + 4 * src) else regKey 0x009 (0x040 + 4 * (src - 1008))

def target (s : State) (t : Nat) : Target := SMap.get (fun _ => Target.empty) s.targets t

def setTarget (t : Nat) (x : Target) (s : State) : State :=
  { s with targets := SMap.set (fun _ => Target.empty) s.targets t x }

/-- Messages held for target `t`: COUNT_t.HELD. -/
def targetHeld (s : State) (t : Nat) : Nat := (target s t).normal.length + (target s t).machine.length

/-- The oldest message held; severity 4 first (R65). -/
def targetHead (s : State) (t : Nat) : Option Msg :=
  match (target s t).machine with
  | m :: _ => some m
  | [] => (target s t).normal.head?

/-- The interrupt line of target `t` (R65). -/
def targetIrq (s : State) (t : Nat) : Bool := targetHeld s t != 0 && s.bit Reg.EVF.TGT_IE t

/-- SOURCE, SEVERITY and CODE as HEAD_t lays them out. -/
def headWord (m : Msg) (valid : Bool) : Word :=
  word (m.source % 2048 + m.severity % 8 * 4096 + (if valid then 32768 else 0) + m.code % 65536 * 65536)

/-- Queue a message to target `t`, or drop it: DROPPED counts it, and the first drop since the queue was empty raises
TARGET_DROP, which is never queued to the full target nor counted there (R62). -/
def toTarget (t : Nat) (m : Msg) (s : State) : State :=
  let x := target s t
  if m.notTo = t then s
  else if m.severity = 4 ∧ x.machine.length < 8 then setTarget t { x with machine := x.machine ++ [m] } s
  else if m.severity ≠ 4 ∧ x.normal.length < 128 then setTarget t { x with normal := x.normal ++ [m] } s
  else
    let s1 := setTarget t { x with dropped := satAdd 0xFFFF x.dropped 1, dropSeen := true } s
    if x.dropSeen then s1
    else
      let s2 := haltFault Page.EVF (sourceOf Page.EVF 0) t (markEvent Page.EVF 0 s1)
      if s2.bit (Reg.EV_ENABLE Page.EVF) 0 then
        s2.send ⟨sourceOf Page.EVF 0, 3, t, headWord m false, loWord m.time, hiWord m.time, s.time, t, aonPath s⟩
      else s2

/-- The target that ROUTE names: 0 to 5; none for 0 (R63). -/
def routeTarget (r : Nat) : Option Nat := if r = 0 ∨ 6 < r then none else some (r - 1)

/-- Umpire records a message of this severity under RECORD (R61). -/
def recorded (sev rec : Nat) : Bool :=
  if sev = 0 then rec == 3 else if sev = 1 then decide (2 ≤ rec) else if sev = 2 then decide (1 ≤ rec) else true

/-- LEVEL of source `i` before the leak of this cycle, if there was one (R67). -/
def leakedNow (i : Nat) (s : State) : Option Nat :=
  (SMap.get (fun _ => none) s.leaks i).bind fun e => if e.1 = s.time then some e.2 else none

/-- The leaky bucket meets a transient (R67); it is counted before a leak of the same cycle. -/
def bucketFill (m : Msg) (s : State) : State :=
  let k := evsrcKey m.source
  let before := (leakedNow m.source s).getD (s.fld k 31 24)
  let leak := if (leakedNow m.source s).isSome then 1 else 0
  if before < s.fld k 15 8 then
    { s.setFld k 31 24 (before + 1 - leak) with
      leaks := if leak = 1 then SMap.set (fun _ => none) s.leaks m.source (some (s.time, before + 1)) else s.leaks }
  else
    { (s.setFld k 31 24 0).send { m with severity := 2 } with
      leaks := if leak = 1 then SMap.set (fun _ => none) s.leaks m.source (some (s.time, 0)) else s.leaks }

/-- The fabric delivers a message to its targets, the bucket and Umpire (R61, R62, R67). -/
def deliver (m : Msg) (s : State) : State :=
  let e := s.reg (evsrcKey m.source)
  let rt := (routeTarget (fld e 2 0)).toList
  let s1 := if m.severity = 1 then bucketFill m s
    else
      let ts := if m.severity = 4 then rt ++ [4, 5].filter (fun t => !rt.contains t) else rt
      ts.foldl (fun t i => toTarget i m t) s
  if recorded m.severity (fld e 5 4) then umpArrive m false s1 else s1

/-- The message the fabric takes next: of those latched in the cycle of the oldest, that of the lowest source (R62). -/
def nextMsg : List Msg → Option Msg
  | [] => none
  | m :: rest => some ((rest.filter (·.time == m.time)).foldl (fun a b => if b.source < a.source then b else a) m)

/-- EVENT_MESSAGE (R61, R62, R66): a message latched while D6 was off or in transition travels the always-on path to Umpire alone. -/
def execEventMessage (s : State) : Host.Outcome State Fault Refusal :=
  match nextMsg s.fabric with
  | none => .next s
  | some m =>
    let s1 : State := { s with fabric := s.fabric.erase m }
    .next (if m.aon || !domainOn s 6 then umpArrive m true s1 else if isStopped s Page.EVF then s else deliver m s1)

/-- BUCKET_LEAK (R67): at a multiple of the leak period LEVEL falls by one, once, unless it is 0. -/
def execBucketLeak (source : Nat) (s : State) : Host.Outcome State Fault Refusal :=
  let k := evsrcKey source
  .next (s.when (decide (source < 1152) && domainOn s 6 && s.time % (2 ^ s.fld k 19 16 * 1000000) == 0
      && (leakedNow source s).isNone) fun s =>
    { s.setFld k 31 24 (s.fld k 31 24 - 1) with leaks := SMap.set (fun _ => none) s.leaks source (some (s.time, s.fld k 31 24)) })

/-- A write of POP_t (R65). -/
def popEffect (t : Nat) (v : Word) (s : State) : State :=
  let x := target s t
  let x1 := if bit v 0 then
      (match x.machine with
       | _ :: ms => { x with machine := ms }
       | [] => { x with normal := x.normal.drop 1 })
    else x
  let x2 := if bit v 1 then { x1 with dropped := 0 } else x1
  setTarget t (if x2.normal.isEmpty && x2.machine.isEmpty then { x2 with dropSeen := false } else x2) s

/-- Key of POP_t. -/
def popKey (t : Nat) : Nat := regKey Page.EVF (0x11C + 0x20 * t)

/-- TARGET_POP (R65). -/
def execTargetPop (req : Requester) (t : Nat) (v : Word) (s : State) : Host.Outcome State Fault Refusal :=
  .next (s.when (decide (t < 6)) (withWrite req (popKey t) v (popEffect t v)))

end Sys2Proof.Machine
end

