-- ==== Sys2Proof/Machine/ResetOps.lean ====
section
/-! DEFINITION. What a soft reset and a domain switch do to a page's block: the end of its work, the return of its state and
registers to reset values (R18, R25, R44, R48, R51, R66, R307, R339, R459). -/

namespace Sys2Proof.Machine

/-! ### The end of a block's work (R44) -/

/-- The group of Rudder `a` ends to Gate, write gate falls, and the tuning block trips (R204). -/
def endRudder (a : Nat) (s : State) : State :=
  tuneTrip (Page.RUDDER a) 3 0 (clearSlots a (endGroup a .lasting (cutActuator a 1 s)))

/-- The jobs of Oar `o` end with cause ENDED, reported to Gate. -/
def endOar (o : Nat) (s : State) : State :=
  gateDrain (oarAct o) (abortOar o (endWaiting (oarAct o) (oarSlot o) (gateDrain (oarAct o) s)))

/-- The work of page `p` ends as lasting to its owners (R44). -/
def blockEnd (p : Nat) (s0 : State) : State :=
  let s := endRecompute p s0
  if 0x020 ≤ p ∧ p ≤ 0x023 then restOutputs (p - 0x020) (endRudder (p - 0x020) s)
  else if p = Page.COUPLE then endShock s
  else if p = Page.KEEL then stepSat false (setPhaseLock false (keelUnlock s))
  else if 0x030 ≤ p ∧ p ≤ 0x03F then endOar (p - 0x030) (endQueue (oarDoneQ (p - 0x030)) s)
  else if 0x040 ≤ p ∧ p ≤ 0x043 then endRuns (p - 0x040) (endQueue (gateQ (p - 0x040)) s)
  else if p = Page.SWEEP then endSweep s
  else if 0x050 ≤ p ∧ p ≤ 0x057 then endStripeJobs (fun j => j.engine == p - 0x050) s
  else if 0x060 ≤ p ∧ p ≤ 0x063 then failFrames (p - 0x060) (laneOff (p - 0x060) s)
  else if p = Page.BOAT then endXacts (fun _ => true) (endQueue (.xact 1) (endQueue (.xact 0) s))
  else if p = Page.CACHE then cacheReset s
  else endHeld p s

/-! ### The block's state at its reset value -/

/-- The registers of a page that a soft reset leaves: mirrors of the rigger die, of the OTP and of state held elsewhere. -/
def heldKeys (p : Nat) : List Nat :=
  if p = Page.SYS then [Reg.SYS.RESET_TIME_LO, Reg.SYS.RESET_TIME_HI, Reg.SYS.MCHK_STATE]
  else if p = Page.PWR then [Reg.PWR.DOMAINS, Reg.PWR.PWR_STATUS, Reg.PWR.SUPPLY_V]
  else if p = Page.DRV then [Reg.DRV.BRIDGE_STAT, Reg.DRV.BUS_V, Reg.DRV.RIG_TEMP, Reg.DRV.CHOP_STATUS]
  else if p = Page.COX then
    [Reg.COX.SEC_STATUS, Reg.COX.SERIAL_LO, Reg.COX.SERIAL_HI, Reg.COX.LOG_COUNT]
      ++ (List.range 24).map (fun i => Reg.COX.ID_PUB i)
  else if p = Page.UMP then [Reg.UMP.UMP_STATUS]
  else []

/-- Umpire starts again over the ring it finds: HEAD after the valid record with the highest FIRST, MEDIA_PTR at the oldest
valid record (R514). -/
def umpResume (s : State) : State :=
  let first := fun n => ofWords (ringWord s n 1) (ringWord s n 2)
  let vs := (List.range 2048).filter fun n => ringValid s n
  let best := fun (f : Nat → Nat → Bool) => match vs with
    | [] => none
    | v :: rest => some (rest.foldl (fun m n => if f (first n) (first m) then n else m) v)
  let head := match best (fun x y => decide (y < x)) with
    | some n => (n + 1) % 2048
    | none => 0
  let old := (best (fun x y => decide (x < y))).getD head
  let s1 := modUmp (fun u => { u with fifo := [], last := none, lost := none, heldMsgs := [], copy := none, readySaid := false
                                      overrunSaid := false, clearWaits := false, frozenAt := 0 }) s
  (s1.setReg Reg.UMP.UMP_STATUS (word (head + vs.length * 65536))).setCritFld 27 10 0 old

/-- Stroke core `n` is held in reset (R57, R58). -/
def holdCore (n : Nat) (s : State) : State :=
  if s.bit Reg.COX.STROKE_CTRL (8 + n) then raise (Page.STROKE n) 4 0 2 {} (s.setBit Reg.COX.STROKE_CTRL (8 + n) false) else s

/-- The state of page `p`'s block beside its registers returns to its reset value. A CLAIM page that is locked frees its resources all the
same (log entry 133). -/
def blockClear (p : Nat) (s : State) : State :=
  if p = Page.SYS then s.setFld Reg.SYS.MCHK_STATE 27 16 0
  else if 0x011 ≤ p ∧ p ≤ 0x014 then
    let s1 := holdCore (p - 0x011) s
    let halt := if engineHalted s1 (2 + (p - 0x011)) then some s1.time else none
    modStroke (p - 0x011) (fun _ => { Stroke.reset with wdtStart := s1.time, haltAt := halt }) s1
  else if 0x020 ≤ p ∧ p ≤ 0x023 then
    modTune p (fun _ => Tune.reset) (modDrive (p - 0x020) (fun _ => RudDrive.zero)
      (modRud (p - 0x020) (fun r => { Rudder.reset with notes := r.notes, sentNo := r.sentNo }) s))
  else if p = Page.COUPLE then modCouple (fun c => { c with sensors := [] }) s
  else if p = Page.KEEL then
    modTune p (fun _ => Tune.reset)
      (driveSpindle false (modKeel (fun k => { Keel.reset with inertiaSet := k.inertiaSet && pageLocked p s }) s))
  else if p = Page.DRV then drvReset s
  else if 0x030 ≤ p ∧ p ≤ 0x03F then
    let o := p - 0x030
    let s1 := (oar s o).entries.foldl (fun t x => if x.2.any JobEntry.credit then mediaReturn t else t) s
    let s2 := modGate (oarAct o) (fun g => { g with issued := g.issued.filter (·.slot != oarSlot o) }) (modOar o (fun _ => Oar.reset) s1)
    s2.setBit (Reg.GATE.SLOT_AVAIL (oarAct o)) (oarSlot o) true
  else if 0x040 ≤ p ∧ p ≤ 0x043 then modGate (p - 0x040) (fun _ => Gate.reset) s
  else if p = Page.SWEEP then modSweep (fun _ => Sweep.reset) s
  else if 0x050 ≤ p ∧ p ≤ 0x057 then modCrew (fun c => { c with jobs := c.jobs.filter (·.engine != p - 0x050) }) s
  else if p = Page.CREWG then
    modCrew (fun c => { Crew.reset with open_ := c.open_, writing := c.writing, nextSector := c.nextSector, nextJseq := c.nextJseq }) s
  else if p = Page.JRNL then
    modCrew (fun c => { c with open_ := [], writing := none, nextSector := 0, fullSaid := false, closing := false, nextJseq := 0
                               replay := none, replayed := 0, resynced := [] }) s
  else if 0x060 ≤ p ∧ p ≤ 0x063 then modLane (p - 0x060) (fun _ => SasLane.reset) s
  else if p = Page.SLIPC then
    modSlip (fun x => { Slip.reset with lanes := x.lanes, lus := x.lus, haz := x.haz, nextOrder := x.nextOrder
                                        hazFull := x.hazFull, fullTime := x.fullTime, deleting := x.deleting }) s
  else if p = Page.LUT then modSlip (fun x => { x with lus := [], deleting := [] }) s
  else if p = Page.HAZ then modSlip (fun x => { x with haz := [], hazFull := false, fullTime := none }) s
  else if p = Page.BOAT then { s with boat := Boat.reset }
  else if p = Page.CACHE then { s with cache := Cache.reset }
  else if p = 0x072 ∨ p = 0x073 then { s with drams := SMap.set (fun _ => DramPort.reset) s.drams (p - 0x072) DramPort.reset }
  else if p = Page.SCRUB then { s with scrub := ⟨0, 0, false⟩ }
  else if p = 0x078 ∨ p = 0x079 then { s with cryptos := SMap.set (fun _ => Crypto.reset) s.cryptos (p - 0x078) Crypto.reset }
  else if p = Page.KEYS then { s with keys := { s.keys with slots := [], op := none, challenge := none } }
  else if 0x088 ≤ p ∧ p ≤ 0x08B then modPre (p - 0x088) (fun x => { PrePort.reset with mask := x.mask, settle := x.settle }) s
  else if p = Page.HDA then { s with hda := { Hda.reset with pulses := s.hda.pulses } }
  else if p = Page.CAL then { s with cal := ⟨[], [], [], [], [], none⟩ }
  else if p = Page.UMP then umpResume s
  else if p = Page.COX then (List.range 4).foldl (fun t n => holdCore n t) s
  else if p = Page.DBG then
    let s1 := (List.range 4).foldl (fun t n => if engineHalted t (2 + n) then strokeGoes (2 + n) t else t) s
    { s1 with dbg := { s1.dbg with halts := [], haltWanted := [], regs := [], bps := [], cert := [] } }
  else if p = Page.SAFE then { s with safe := { SafeStore.reset with nand := s.safe.nand } }
  else if p = Page.PWR then
    { s with power := { Power.reset with readOnly := s.power.readOnly, warned12 := s.power.warned12, warned5 := s.power.warned5 } }
  else if p = Page.CLAIM then (List.range 8).foldl (fun t r => if t.bit (Reg.CLAIM.CLAIM_STATE r) 31 then releaseResource r t else t) s
  else if p = Page.UCODE then
    { s with ucode := { s.ucode with words := [], addrs := [], ids := [], matchRegs := [] } }
  else if p = Page.EVF then { s with targets := [] }
  else s

/-- Machine checks of page `p` that are in force: none, one, or for Boathouse one for each engine. -/
def checksOf (s : State) (p : Nat) : Nat :=
  if p = Page.BOAT then (if boatDown s 0 then 1 else 0) + (if boatDown s 1 then 1 else 0)
  else if inMachineCheck s p then 1 else 0

/-- A page's machine check ends: MCHK_STATE counts it no longer (R54). -/
def clearCheck (p : Nat) (s : State) : State :=
  let n := s.fld Reg.SYS.MCHK_STATE 5 0 - checksOf s p
  if checksOf s p = 0 then s else (s.setFld Reg.SYS.MCHK_STATE 5 0 n).setBit Reg.SYS.MCHK_STATE 31 (n != 0)

/-- The engines of the page restore their patches (R307). -/
def startRestore (p : Nat) (s : State) : State :=
  let cs := (pageRequesters p).filter fun c => decide (0x10 ≤ c)
  { s with ucode := { s.ucode with restoring := s.ucode.restoring.filter (fun c => !cs.contains c) ++ cs } }

/-- State, queues and registers of page `p` return to their reset values, its work having ended or not; locked RWL registers stay
(R44, R48), as do the registers of `held`. -/
def blockReset (p : Nat) (held : List Nat) (s : State) : State :=
  let s1 := (queuesOf p).foldl (fun t q => resetQueue q t) (blockClear p s)
  let kept := held.map fun k => (k, s1.reg k)
  let s2 := resetPageRegs p { s1 with stopped := SMap.set (fun _ => false) s1.stopped p false }
  let s3 := kept.foldl (fun t e => t.setReg e.1 e.2) s2
  dropPartials (pageRequesters p ++ pagePorts p) (releaseHolders (pageRequesters p) s3)

/-! ### Domains (R18, R25, R66) -/

/-- A machine check, and the fault of a queue, outlast the loss of their page's domain: only a soft reset or a device reset clears them
(R74, R101). -/
def keepCheck (p : Nat) (before s0 : State) : State :=
  let keep := fun (t : State) (q : QueueId) =>
    let x := hq before q
    if x.fault then modHq q (fun y => { y with fault := true, resetting := x.resetting }) t else t
  let s := (queuesOf p).foldl keep s0
  if checksOf before p = 0 then s
  else
    let s1 := (s.setReg (Reg.FAULT_CODE p) (before.reg (Reg.FAULT_CODE p))).setFld (Reg.STATUS p) 3 2 (before.fld (Reg.STATUS p) 3 2)
    if p = Page.BOAT then s1.setFld Reg.BOAT.ENGINE_STATE 2 1 (before.fld Reg.BOAT.ENGINE_STATE 2 1) else s1

/-- A transition of domain `d` begins. It ends within 20 µs, at a time that no rule states (R25; log entry 129). -/
def beginTransit (d : Nat) (s : State) : State :=
  let t := s.time + s.freeWord.toNat % 20001
  { s.useFree with clocks := { s.clocks with transit := SMap.set (fun _ => none) s.clocks.transit d (some t) } }

/-- AON_PATH at the change to the always-on path: the message, if EV_ENABLE lets one out, takes its turn among those latched and reaches
Umpire alone (R61, R62, R66). -/
def aonChange (s : State) : State :=
  let s1 := markEvent Page.EVF 1 s
  if s.bit (Reg.EV_ENABLE Page.EVF) 1 then s1.send ⟨sourceOf Page.EVF 1, 0, 1, 0#32, 0#32, 0#32, s.time, 7, true⟩ else s1

/-- Domain `d` goes off; nothing of its blocks' work is reported. -/
def domainOff (d : Nat) (s : State) : State :=
  if !domainOn s d then s
  else
    let s0 := beginTransit d (if d = 6 then aonChange s else s)
    let s1 := (domainPages d).foldl (fun t p => endRecompute p t) (if d = 13 then endSweep s0 else s0)
    ((domainPages d).foldl (fun t p => keepCheck p t (blockReset p [] t)) s1).setBit Reg.PWR.DOMAINS d false

/-- Domain `d` goes off, the work of its blocks ending as by SOFT_RESET (R459). -/
def switchOff (d : Nat) (s : State) : State :=
  if !domainOn s d then s else domainOff d ((domainPages d).foldl (fun t p => blockEnd p t) s)

/-- The islands of domain `d` run again with the domain. -/
def freshClocks (d : Nat) (s : State) : State :=
  let mine := (List.range 26).filter fun i => (List.range 0x99).any fun p => pagePlace p == some (d, i)
  { s with clocks := { s.clocks with stopped := s.clocks.stopped.filter (fun e => !mine.contains e.1)
                                     failed := s.clocks.failed.filter (fun e => !mine.contains e.1) } }

/-- Domain `d` comes on at reset values, its locked registers and its engines' patches restored (R48, R307); the SH-4820 never
switches on D11 or D12 (R2). -/
def switchOn (d : Nat) (s : State) : State :=
  if domainOn s d || (s.part4820 && (d == 11 || d == 12)) then s
  else
    let s1 := (domainPages d).foldl (fun t p => startRestore p t) (freshClocks d (beginTransit d (s.setBit Reg.PWR.DOMAINS d true)))
    if d = 6 then { s1 with targets := [] } else s1

/-- Keeps a domain on, or switches it on. -/
def switchOnAll (ds : List Nat) (s : State) : State := ds.foldl (fun t d => switchOn d t) s

def domainsOff (ds : List Nat) (s : State) : State := ds.foldl (fun t d => domainOff d t) s

end Sys2Proof.Machine
end

