-- ==== Sys2Proof/Machine/BootOps.lean ====
section
/-! DEFINITION. Resets, the OTP shadow, the Ebwell container's checks, the measurement log and the boot chain (R55, R487 to R495, R541). -/

namespace Sys2Proof.Machine

/-! ### The OTP shadow (R487): a field that cannot be read counts as unprogrammed -/

/-- Field `i` of the table of R487 was lost at the last shadow read. -/
def otpLost (s : State) (i : Nat) : Bool := s.otp.lost.contains i

/-- A byte-string field of the OTP as its shadow shows it. -/
def otpField (s : State) (i : Nat) (v : Option (List Byte)) : Option (List Byte) := if otpLost s i then none else v

def deviceSerial (s : State) : Nat := if otpLost s 0 then 0 else s.otp.serial % 2 ^ 64
def otpPart (s : State) : Bool := !otpLost s 1 && s.part4820
def otpGradeL (s : State) : Bool := !otpLost s 2 && s.otp.gradeL
def otpDeployed (s : State) : Bool := !otpLost s 3 && s.otp.deployed

/-- OTP_SECRET; its fuses read zero while unprogrammed. -/
def otpSecret (s : State) : List Byte := (otpField s 4 s.otp.secret).getD (List.replicate 32 0#8)

def ownerHashOf (s : State) (n : Nat) : Option (List Byte) := otpField s (9 + n) (SMap.get (fun _ => none) s.otp.ownerHash n)
def otpRevoked (s : State) : Nat := if otpLost s 13 then 0 else s.otp.revoke % 16
def otpRollback (s : State) : Nat := if otpLost s 15 then 0 else s.otp.rollback

/-- The OWNER_HASH fields that are programmed and not revoked. -/
def liveOwners (s : State) : List (List Byte) :=
  (List.range 4).filterMap fun n => if (otpRevoked s).testBit n then none else ownerHashOf s n

/-- SEC_STATUS, SERIAL and ID_PUB show the shadow (R505). -/
def showOtp (s : State) : State :=
  let lvl := s.fld Reg.COX.SEC_STATUS 1 0
  let w := lvl + (if otpDeployed s then 4 else 0) + (if otpGradeL s then 8 else 0) + (if otpPart s then 16 else 0)
    + otpRollback s * 256 + otpRevoked s * 65536
  let s1 := (((s.setReg Reg.COX.SEC_STATUS (word w)).setReg Reg.COX.SERIAL_LO (loWord (deviceSerial s))).setReg
    Reg.COX.SERIAL_HI (hiWord (deviceSerial s)))
  let pub := (otpField s 6 s.otp.idPub).getD []
  (List.range 24).foldl (fun t i => t.setReg (Reg.COX.ID_PUB i) (word (ofBytes ((pub.drop (4 * i)).take 4).reverse))) s1

/-- The shadow read: a failed read is repeated; a failed repeat loses the field (R487). -/
def readOtp (bad : List (Nat × Bool)) (s : State) : State :=
  let s1 : State := { s with otp := { s.otp with lost := (bad.filter (·.2)).map Prod.fst } }
  showOtp (bad.foldl (fun t b =>
    if b.2 then lasting Page.COX 7 (Config.otpFieldCode b.1) {} t else transient Page.COX 7 (Config.otpFieldCode b.1) {} t) s1)

/-! ### The Ebwell container (R489, R490) -/

/-- The `n`-byte little-endian field at offset `o`. -/
def conField (c : List Byte) (o n : Nat) : Nat := ofBytes ((c.drop o).take n)

def conBytes (c : List Byte) (o n : Nat) : List Byte := (c.drop o).take n

def conType (c : List Byte) : Nat := conField c 6 2
def conEncrypted (c : List Byte) : Bool := conField c 0x0C 4 % 2 == 1
def conLen (c : List Byte) : Nat := conField c 0x10 4
def conSecVersion (c : List Byte) : Nat := conField c 0x14 4
def conLoad (c : List Byte) : Nat := conField c 0x18 8
def conImageId (c : List Byte) : Nat := conField c 0x28 4
def conTarget (c : List Byte) : Nat := conField c 0x2C 1
def conPayload (c : List Byte) : List Byte := conBytes c 512 (conLen c)

/-- Bytes `o` to `o + n - 1` are zero. -/
def conZero (c : List Byte) (o n : Nat) : Bool := (conBytes c o n).all (· == 0#8)

/-- Check 1: readable, of one of the types wanted, LOAD_ADDR and PAYLOAD_LEN within the limits of the type. -/
def conLimits (types : List Nat) (c : List Byte) : Bool :=
  let n := conLen c; let t := conType c
  decide (512 ≤ c.length) && types.contains t && decide (512 + n ≤ c.length) && decide (1 ≤ n) &&
    (if t = 1 ∨ t = 4 then decide (n ≤ 458752) && decide (0x11000000 ≤ conLoad c) && decide (conLoad c + n ≤ 0x11070000)
     else if t = 2 then decide (n ≤ 2 ^ 30)
     else decide (96 ≤ n) && decide (n ≤ 8272) && decide (conTarget c ≤ 6))

/-- Check 2: MAGIC, VERSION, HEADER_LEN and reserved bytes. -/
def conShape (c : List Byte) : Bool :=
  conField c 0 4 == 0x5EEBC0A1 && conField c 4 2 == 1 && conField c 8 4 == 512 && decide (conField c 0x0C 4 ≤ 1)
    && conZero c 0x2D 3 && conZero c 0x6C 4 && conZero c 0xE8 184

/-- Check 3: the signer (R488). -/
def conSigner (s : State) (c : List Byte) : Bool :=
  let h := Config.sha384 (conBytes c 0x80 96)
  let vendor := otpField s 7 s.otp.vendorKeyHash == some h
  if conType c = 3 then vendor
  else (liveOwners s).contains h || (conType c == 1 && (liveOwners s).isEmpty && vendor)

/-- The key under which an encrypted payload stands: the patch key for TYPE 3 (R494); for the other types the spec names no label. -/
def conKey (s : State) (c : List Byte) : List Byte :=
  if conType c = 3 then Config.kdf (otpSecret s) ("EBW-UCODE".toList.map fun x => BitVec.ofNat 8 x.toNat) []
  else Config.imageKey (otpSecret s) (conType c)

/-- The payload as opened: decrypted when ENCRYPTED, none when the tag fails. -/
def conOpen (s : State) (c : List Byte) : Option (List Byte) :=
  if conEncrypted c then Config.gcmOpen (conKey s c) (conBytes c 0x60 12) (conBytes c 0 0x70) (conPayload c) (conBytes c 0x70 16)
  else some (conPayload c)

/-- The checks of R490 in order; 0 when all pass. -/
def conCheck (types : List Nat) (s : State) (c : List Byte) : Nat :=
  if !conLimits types c then 1
  else if !conShape c then 2
  else if !conSigner s c then 3
  else if conField c 0xE0 8 ≠ 0 ∧ conField c 0xE0 8 ≠ deviceSerial s then 7
  else if (conType c = 1 ∨ conType c = 4) ∧ conSecVersion c < otpRollback s then 6
  else if !Config.ecdsaHolds (conBytes c 0x80 96) (Config.sha384 (conBytes c 0 0x1A0)) (conBytes c 0x1A0 96) then 5
  else if Config.sha384 (conPayload c) ≠ conBytes c 0x30 48 then 4
  else if (conOpen s c).isNone then 8
  else 0

/-! ### The measurement log (R495) -/

def modKeys (f : Keys → Keys) (s : State) : State := { s with keys := f s.keys }

/-- An entry is appended: D, LOG_COUNT and MEASURED. -/
def appendEntry (e : List Byte) (s : State) : State :=
  let n := s.keys.log.length
  let s1 := modKeys (fun k => { k with log := k.log ++ [e], digest := Config.sha384 (k.digest ++ e) }) s
  raise Page.COX 3 0 n {} (s1.setReg Reg.COX.LOG_COUNT (word (n + 1)))

/-- The entry of a container. -/
def conEntry (c : List Byte) : List Byte :=
  Config.sha384 (conBytes c 0 512) ++ toBytes 2 (conType c) ++ toBytes 2 0 ++ toBytes 4 (conSecVersion c)
    ++ toBytes 4 (conImageId c) ++ toBytes 4 0

/-! ### Resets (R19, R55, R541) -/

/-- The device without anything that a reset clears: its fuses, its NAND, what waits outside, and the model's own counters. -/
def clearedDevice (s : State) : State :=
  { State.reset with part4820 := s.part4820, free := s.free, otp := { s.otp with lost := [] }
                     safe := { SafeStore.reset with nand := s.safe.nand }, keys := { Keys.reset with draws := s.keys.draws }
                     smbus := s.smbus, pending := s.pending }

/-- The registers that mirror the rigger die's state, which a reset of the core die alone leaves. -/
def riggerKeys : List Nat := heldKeys Page.DRV

/-- RESET_TIME at the release of a reset. -/
def markRelease (s : State) : State := s.setReg64 Reg.SYS.RESET_TIME_LO s.time

/-- The core die is held in power-on reset with the code given: only D19 remains on. The rigger die, while it has power, acts under
R16 (R542). -/
def powerOff (code tries : Nat) (powered : Bool) (s : State) : State :=
  let s0 := if powered then riggerAutonomous s else s
  let t := clearedDevice s0
  let t1 := if powered then riggerKeys.foldl (fun u k => u.setReg k (s0.reg k)) { t with rigger := riggerLeft s0 } else t
  { t1 with chip := { t1.chip with held := some code, railTries := tries } }.setReg Reg.PWR.DOMAINS 0x80000#32

/-- The release of power-on reset: every register at its reset value, the time base at 0, RESET_REASON with the cause; the rigger die
stays as it was where it kept its power (R16, R55). -/
def powerRelease (cause : Nat) (powered : Bool) (s : State) : State :=
  let t := clearedDevice s
  let t1 := if powered then riggerKeys.foldl (fun u k => u.setReg k (s.reg k)) { t with rigger := riggerLeft s } else t
  markRelease (t1.critPut 2 (word cause))

/-- A device reset (R55): the time base, the ring, the rigger die and the critical words but five stay. -/
def deviceReset (cause requester : Nat) (forced : Bool) (s : State) : State :=
  let s0 := riggerAutonomous s
  let t := clearedDevice s0
  let t1 := { t with time := s.time, crit := s.crit, rigger := riggerLeft s0, ump := { t.ump with ring := s.ump.ring }
                     chip := { t.chip with dumped := pwrFailing s } }
  let t2 := (riggerKeys ++ [Reg.PWR.PWR_STATUS, Reg.PWR.SUPPLY_V]).foldl (fun u k => u.setReg k (s0.reg k)) t1
  let reason := cause + requester * 256 + (if forced then 65536 else 0)
  let t3 := ((((t2.critPut 0 0#32).critPut 1 0#32).critPut 2 (word reason)).critPut 3 0#32).critPut 22 0#32
  markRelease (umpResume (t3.critPut 29 (t3.critVal 29 + 1#32)))

/-! ### The boot chain (R491, R492) -/

/-- The payload is placed at LOAD_ADDR. -/
def placePayload (c bytes : List Byte) (s : State) : State := s.putBytes (conLoad c) bytes

/-- Step 5: the measurement, FW_IMAGE, BOOT_STATUS, DRAM_CMD.INIT and the start of stage one. -/
def handOff (slot : Nat) (c : List Byte) (train : TrainResult × TrainResult) (s : State) : State :=
  let s1 := appendEntry (conEntry c) (placePayload c ((conOpen s c).getD []) s)
  let s2 := (s1.critPut 26 (word (slot + conSecVersion c % 256 * 256))).setFld Reg.COX.BOOT_STATUS 1 0 slot
  let s3 := if pageOn s2 (Page.DRAM 0) then dramInitEffect 1 train.2 (dramInitEffect 0 train.1 s2) else s2
  raise Page.COX 0 0 slot {} s3

/-- Steps 2 to 4 for the image of one slot, 1 A or 2 B: its code, and what the ROM leaves in memory. -/
def bootImage (image : Option (List Byte)) (s : State) : Nat :=
  match image with
  | none => 1
  | some c => conCheck [1] s c

/-- A slot whose image fails: its code and BOOT_IMAGE_FAIL; a payload already read stands in memory. -/
def imageFails (slot code : Nat) (image : Option (List Byte)) (s : State) : State :=
  let s1 := match image with
    | some c => if code = 4 ∨ code = 8 then placePayload c (conPayload c) s else s
    | none => s
  lasting Page.COX 1 slot { p0 := word code } (s1.setFld Reg.COX.BOOT_STATUS (4 * slot + 3) (4 * slot) code)

/-- Recovery (R492). -/
def enterRecovery (s : State) : State :=
  let s1 := domainsOff ((List.range 20).filter fun d => !([0, 1, 16, 19].contains d)) s
  let s2 : State := { s1 with chip := { s1.chip with recovery := true } }
  raise Page.COX 2 0 0 {} (s2.setBit Reg.COX.BOOT_STATUS 16 true)

/-- The ROM tries slot A, then slot B, then waits in recovery. -/
def bootSlots (b : BootInputs) (s : State) : State :=
  let train := (b.train0, b.train1)
  let a := bootImage b.imageA s
  if a = 0 then handOff 1 (b.imageA.getD []) train s
  else
    let s1 := imageFails 1 a b.imageA s
    let x := bootImage b.imageB s1
    if x = 0 then handOff 2 (b.imageB.getD []) train s1 else enterRecovery (imageFails 2 x b.imageB s1)

/-- The boot chain after a reset with the cause given (R55, R466, R491). -/
def bootChain (cause : Nat) (b : BootInputs) (s : State) : State :=
  let s1 := if cause = 3 ∨ cause = 4 then raise Page.SYS 10 0 cause {} s else if cause = 2 then raise Page.PWR 8 0 0 {} s else s
  let s2 := switchOnAll [6, 7, 16] (readOtp b.otpBad s1)
  let s3 := bootSlots b s2
  { s3 with chip := { s3.chip with booted := true } }

end Sys2Proof.Machine
end

