-- ==== Sys2Proof/Machine/Crew.lean ====
section
/-! DEFINITION. The commands of Crew: bands, stripe jobs and background work (R352 to R366, R374 to R385, R388). -/

namespace Sys2Proof.Machine

/-- Crew engine `e` runs; and takes new work. -/
def crewRuns (s : State) (e : Nat) : Bool := decide (e < 8) && engineRuns s (0x24 + e)
def crewTakes (s : State) (e : Nat) : Bool := decide (e < 8) && engineTakes s (0x24 + e)

/-! ### Checks of a descriptor (R355) -/

/-- FORMAT and CRC of a descriptor. -/
def descSound (d : List Word) : Bool := fld (d.getD 0 0#32) 7 0 == 1 && crcWords (d.take 31) == d.getD 31 0#32

/-- A descriptor fetched from a usable offset, once more after a failure (R68). -/
def fetchDesc (off : Nat) (s : State) : List Word × Bool × State :=
  let r := fetchWords false 0x24 off 32 s
  if r.2.1 && descSound r.1 then (r.1, true, r.2.2)
  else let q := fetchWords false 0x24 off 32 r.2.2; (q.1, q.2.1 && descSound q.1, q.2.2)

/-- LAYOUT, D, S and W within R352. -/
def layoutOk (d : List Word) : Bool :=
  let n := bData d
  let sp := bSpare d
  if bLayout d = 0 then decide (1 ≤ n ∧ n ≤ 24 ∧ sp = 0)
  else if bLayout d = 1 then decide (n = 1 ∧ sp ≤ 2)
  else if bLayout d = 2 then decide (2 ≤ n ∧ sp ≤ 2 ∧ n + sp ≤ 23)
  else decide (2 ≤ n ∧ sp ≤ 2 ∧ n + sp ≤ 22)

def bHeads (d : List Word) : List Nat := (List.range (bWidth d)).map (bHead d)

/-- The heads are distinct and present, and placed as R352 asks. -/
def membersOk (s : State) (d : List Word) : Bool :=
  let hs := bHeads d
  let there := hs.all fun h => decide (h < 24) && headPresent s (h / 6) (h % 6)
  let acts := (List.range 4).filter fun a => s.critFld 3 a a == 1
  let counts := acts.map fun a => (hs.filter fun h => h / 6 == a).length
  let spread := decide (counts.foldl max 0 ≤ counts.foldl min (counts.headD 0) + 1)
  there && hs.eraseDups.length == hs.length
    && (if bLayout d = 0 then true else if bLayout d = 1 then (hs.map (· / 6)).eraseDups.length == hs.length else spread)

/-- Spare slots, chunk ranges and the number of stripes. -/
def rangesOk (d : List Word) : Bool :=
  ([0, 1].all fun j => !bReplEn d j || (decide (j < bSpare d) && decide (bRepl d j < bWidth d)))
    && decide (1 ≤ bStripes d) && (List.range (bWidth d)).all fun p => decide (bBase d p + bStripes d ≤ 2 ^ 24)

/-- No chunk lies in the journal area of a journal member. -/
def journalClear (s : State) (d : List Word) : Bool :=
  let lo := 64 * s.critFld 15 31 16
  let hi := lo + s.fld Reg.JRNL.JRNL_CFG 6 0
  (List.range (bWidth d)).all fun p =>
    !((journalMembers s).any fun m => m.2 == bHead d p) || decide (bBase d p + bStripes d ≤ lo) || decide (hi ≤ bBase d p)

/-- The first check of R355 that a descriptor fails. -/
def descFault (s : State) (good : Bool) (d : List Word) : Option Nat :=
  if !good then some 1 else if !layoutOk d then some 2 else if !membersOk s d then some 3 else if !rangesOk d then some 4
  else if !journalClear s d then some 7 else none

/-! ### BAND_CMD (R355, R388) -/

/-- BAND_CMD_RESULT. -/
def bandResult (outcome code : Nat) (s : State) : State :=
  s.setReg Reg.CREWG.BAND_CMD_RESULT (word (outcome % 4 + code % 16 * 16))

def bandRefused (code : Nat) (s : State) : State := bandResult 2 code s
def bandDone (s : State) : State := bandResult 1 0 s

/-- BAND_PROGRESS (R389). -/
def bandProgress (code b : Nat) (s : State) : State := raise Page.CREWG 2 0 code ⟨word b, 0#32, 0#32⟩ s

/-- A write of BAND_CMD with operation `op`: `f` acts on the band named. -/
def bandCommand (op : Nat) (req : Requester) (v : Word) (f : Nat → State → State) (s : State) : State :=
  s.when (fld v 19 16 == op) (withWrite req Reg.CREWG.BAND_CMD v (f (fld v 11 0)))

/-- As `bandCommand`, refused with code 8 where the band is not enabled. -/
def enabledCommand (op : Nat) (req : Requester) (v : Word) (f : Nat → Band → State → State) (s : State) : State :=
  bandCommand op req v (fun b t => match band t b with
    | some x => f b x t
    | none => bandRefused 8 t) s

/-- Entries that stand in DRAM and are not yet known, of whatever band: the stale list and the lost-stripe map (R366, R378). -/
def loadLists (s : State) : State :=
  let entryWords := fun (off i : Nat) => (List.range 3).map fun k => s.wordAt (dramBase + off + 16 * i + 4 * k)
  let valid := fun ws : List Word => bit (ws.getD 0 0#32) 31
  let stale := (((List.range 256).map (entryWords (staleOff s))).filter valid).map fun ws =>
    (fld (ws.getD 0 0#32) 11 0, fld (ws.getD 1 0#32) 23 0, fld (ws.getD 2 0#32) 4 0, fld (ws.getD 2 0#32) 11 8)
  let lost := (((List.range (lostMax s)).map (entryWords (lostOff s))).filter valid).map fun ws =>
    (fld (ws.getD 0 0#32) 11 0, fld (ws.getD 1 0#32) 23 0, fld (ws.getD 2 0#32) 23 0)
  modCrew (fun c => { c with stale := c.stale ++ stale.filter (fun e => !c.stale.contains e)
                             lost := c.lost ++ lost.filter (fun e => !c.lost.contains e) }) s

/-- Usable offset of the target descriptor. -/
def targetOff (s : State) : Nat := s.reg64 Reg.CREWG.RESHAPE_DESC_LO / 64 * 64 % 2 ^ 40

/-- Enable band `b`; one that BAND_SWITCH names takes its target from RESHAPE_DESC, in force once it has switched (R355, R384). -/
def enableBand (b : Nat) (s : State) : State :=
  let r := fetchDesc (bandEntryOff s b) s
  let named := reshaping s b || switched s b
  let q := if named then fetchDesc (targetOff s) r.2.2 else (r.1, r.2.1, r.2.2)
  let d := if switched s b then q.1 else r.1
  match descFault q.2.2 (if switched s b then q.2.1 else r.2.1) d with
  | some code => bandRefused code q.2.2
  | none =>
    let s1 := setBand b (some ⟨d, false, false, false⟩) q.2.2
    bandDone (loadLists (if named then modCrew (fun c => { c with target := some q.1 }) s1 else s1))

/-- BAND_ENABLE (R355). -/
def execBandEnable (req : Requester) (v : Word) (s : State) : Host.Outcome State Fault Refusal :=
  .next (bandCommand 1 req v (fun b t => if (band t b).isSome then bandRefused 8 t else enableBand b t) s)

/-- BAND_DISABLE (R385): new jobs are refused with code 1; the command waits for the jobs in flight. -/
def execBandDisable (req : Requester) (v : Word) (s : State) : Host.Outcome State Fault Refusal :=
  .next (enabledCommand 2 req v (fun b x t => bandResult 3 0 (setBand b (some { x with closing := true }) t)) s)

/-- A job of band `b` is in flight. -/
def bandBusy (s : State) (b : Nat) : Bool := s.crew.jobs.any fun j => j.band == b && j.kind != 8

/-- BAND_DISABLE_DONE (R385). -/
def execBandDisableDone (b : Nat) (s : State) : Host.Outcome State Fault Refusal :=
  .next (s.when ((band s b).any (·.closing) && !bandBusy s b) fun s => bandDone (setBand b none s))

/-- Free spare slots go to the failed positions that have none (R376, R384). -/
def assignSpares (b : Nat) (s : State) : State :=
  (List.range (bWidth (bandWords s b))).foldl (fun t p =>
    let d := bandWords t b
    if memberFailed t (bHead d p) && !([0, 1].any fun j => bReplEn d j && bRepl d j == p) then takeSpare b d p t else t) s

/-- BAND_START (R376): the band's background work may run. -/
def execBandStart (req : Requester) (v : Word) (s : State) : Host.Outcome State Fault Refusal :=
  .next (enabledCommand 3 req v (fun b x t =>
    let t1 := setBand b (some { x with started := true, paused := false }) t
    bandDone (if switched t1 b then t1 else assignSpares b t1)) s)

/-- BAND_PAUSE (R388): the band's background work pauses. -/
def execBandPause (req : Requester) (v : Word) (s : State) : Host.Outcome State Fault Refusal :=
  .next (enabledCommand 4 req v (fun b x t => bandDone (setBand b (some { x with paused := true }) t)) s)

/-- RESYNC is set with RESYNC_WM 0 (R374, R388). -/
def startResync (b : Nat) (s : State) : State :=
  modBandWord b 2 (fun _ => 0#32) (modBandWord b 0 (fun w => Sys2Proof.setBit w 24 true) s)

/-- BAND_RESYNC (R374, R388). -/
def execBandResync (req : Requester) (v : Word) (s : State) : Host.Outcome State Fault Refusal :=
  .next (enabledCommand 5 req v (fun b _ t => bandDone (startResync b t)) s)

/-- A chunk of the target overlaps a chunk of the band on the same head. -/
def chunksMeet (d t : List Word) : Bool :=
  (List.range (bWidth d)).any fun p => (List.range (bWidth t)).any fun q =>
    bHead d p == bHead t q && decide (bBase d p < bBase t q + bStripes t) && decide (bBase t q < bBase d p + bStripes d)

/-- The first condition of R382 that the target fails. -/
def reshapeFault (s : State) (good : Bool) (d t : List Word) : Option Nat :=
  match descFault s good t with
  | some c => some c
  | none =>
    if bLun t ≠ bLun d ∨ bStripes t * bData t < bStripes d * bData d ∨ chunksMeet d t then some 5
    else if s.critFld 13 16 16 = 1 then some 6 else none

/-- BAND_RESHAPE (R382). -/
def execBandReshape (req : Requester) (v : Word) (s : State) : Host.Outcome State Fault Refusal :=
  .next (enabledCommand 6 req v (fun b x t =>
    let r := fetchDesc (targetOff t) t
    match reshapeFault r.2.2 r.2.1 x.words r.1 with
    | some code => bandRefused code r.2.2
    | none => bandDone (modCrew (fun c => { c with target := some r.1, recopy := [] }) (r.2.2.critPut 13 (word (b + 2 ^ 16))))) s)

/-- BAND_COMMIT (R384). -/
def execBandCommit (req : Requester) (v : Word) (s : State) : Host.Outcome State Fault Refusal :=
  .next (enabledCommand 7 req v (fun b x t =>
    if !switched t b then bandRefused 8 t
    else
      let r := fetchDesc (bandEntryOff t b) t
      if !r.2.1 || r.1.getD 31 0#32 != x.words.getD 31 0#32 then bandRefused 5 r.2.2
      else assignSpares b (bandProgress 5 b (bandDone
        (modCrew (fun c => { c with target := none }) (r.2.2.critPut 13 0#32))))) s)

/-- BAND_CMD_UNLISTED (R388): refused with code 8. -/
def execBandCmdUnlisted (req : Requester) (v : Word) (s : State) : Host.Outcome State Fault Refusal :=
  .next (s.when (fld v 19 16 == 0 || decide (8 ≤ fld v 19 16)) (withWrite req Reg.CREWG.BAND_CMD v (bandRefused 8)))

/-! ### Who waits for a stripe-job credit (R28, R445) -/

/-- The band's background work may run: enabled, not closing nor paused, an entry of the lost-stripe map free (R378, R388). -/
def mayBackground (s : State) (b : Nat) : Bool :=
  !levelHolds s && !inSafe s && (band s b).any (fun x => !x.closing && !x.paused) && decide (s.crew.lost.length < lostMax s)

/-- A stale chunk of cause CAL_HARD whose head has left CAL.HARD_HEADS (R366). -/
def repairDue (s : State) : Option (Nat × Nat × Nat × Nat) :=
  if levelHolds s || inSafe s then none
  else s.crew.stale.find? fun x => x.2.2.2 == 5
    && !switchReady s x.1 && (band s x.1).any (fun b => !b.closing && !calHardHead s (bHead b.words x.2.2.1))
    && !(s.crew.jobs.any fun j => j.kind == 3 && j.band == x.1 && j.stripe == x.2.1)

/-- Stripes of band `b` are to be synchronised; a band about to switch begins no job (R374, R383). -/
def resyncWanted (s : State) (b : Nat) : Bool := mayBackground s b && bResync (bandWords s b) && !switchReady s b

/-- Spare slot `slot` of band `b` is to be rebuilt (R376, R383). -/
def rebuildWanted (s : State) (b slot : Nat) : Bool :=
  let d := bandWords s b
  mayBackground s b && !switched s b && !switchReady s b && (s.bit Reg.CREWG.REBUILD_CFG 0 || (band s b).any (·.started)) && bReplEn d slot
    && decide (bWm d slot < bStripes d)

/-- The watermark's stripe has something to rebuild, and a place for it (R376). -/
def rebuildHere (s : State) (b slot : Nat) : Bool :=
  let d := bandWords s b
  let st := bWm d slot
  !((List.range (bSpare d)).any fun n => posSpare d st n == bRepl d slot) && !memberFailed s (bHead d (posSpare d st slot))

/-- One more rebuild job may run (R376). -/
def rebuildRoom (s : State) : Bool := decide ((s.crew.jobs.filter (·.kind == 4)).length < s.fld Reg.CREWG.REBUILD_CFG 12 8)

/-- No host task has been held for IDLE_US (R379). -/
def patrolIdle (s : State) : Bool :=
  (heldTasks s).isEmpty && decide (s.slip.lastHeld + s.fld Reg.CREWG.PATROL_CFG 31 16 * 1000 ≤ s.time)

/-- A patrol job may start (R379). -/
def patrolDue (s : State) : Bool := mode s == 1 && !levelHolds s && s.bit Reg.CREWG.PATROL_CFG 0 && patrolIdle s

/-- A reshape of band `b` has a target stripe to copy (R382, R383). -/
def reshapeDue (s : State) (b : Nat) : Bool :=
  mayBackground s b && reshaping s b && s.crew.target.any fun t =>
    !s.crew.recopy.isEmpty || decide (s.fld Reg.CREWG.RESHAPE_WM 23 0 < bStripes t)

/-- Class of the packet's stripe job (R444). -/
def stripeClass (it : QItem) : Nat := if 0x10 ≤ it.port then 0 else 1

/-- A request that waits is still wanted. -/
def askWanted (s : State) (a : StripeAsk) : Bool :=
  match a.kind with
  | 0 => (qFront .stripe s).any fun it => stripeClass it == a.cls
  | 3 => (repairDue s).isSome
  | 4 => rebuildWanted s a.band a.slot && rebuildHere s a.band a.slot && rebuildRoom s
  | 5 => resyncWanted s a.band
  | 6 => patrolDue s
  | 7 => reshapeDue s a.band
  | _ => s.crew.replay.isSome

/-- The request receives a credit now: one can be granted, a record slot is free, and none that has waited longer can have it (R28). -/
def stripeTurn (s : State) (a : StripeAsk) : Bool :=
  stripeGrants s a.cls && decide (freeJobId s < 2048) && !((s.crew.asks.takeWhile (· != a)).any fun x => stripeGrants s x.cls && askWanted s x)

/-- `f` runs with the credit of request `a`; without one the request joins the wait. -/
def withStripe (a : StripeAsk) (f : State → State) (s : State) : State :=
  if stripeTurn s a then f (modCrew (fun c => { c with asks := c.asks.filter (· != a) }) s)
  else modCrew (fun c => { c with asks := if c.asks.contains a then c.asks else c.asks ++ [a] }) s

/-! ### Stripe jobs (R360 to R366, R375) -/

/-- The code under which a stripe job is refused (R361). -/
def stripeFault (s : State) (ws : List Word) : Option Nat :=
  match band s (spBand ws) with
  | none => some 1
  | some b =>
    let d := b.words
    let top := 256 * bData d
    let ranges := decide (spCount ws = 0 ∨ top < spFirst ws + spCount ws) || spMask ws (spFirst ws) == 0
      || spMask ws (spFirst ws + spCount ws - 1) == 0
    if b.closing then some 1
    else if pktLen ws ≠ 13 ∨ bStripes d ≤ spStripe ws ∨ (pktType ws ≠ 3 ∧ ranges) then some 2
    else if spLun ws ≠ bLun d then some 3
    else if pktType ws = 0 ∨ 3 < pktType ws then some 4
    else none

/-- Rows that a stripe job touches. -/
def touchedRows (ty : Nat) (ws d : List Word) : List Nat :=
  if ty = 3 then List.range 256
  else (List.range 256).filter fun row => (List.range (bData d)).any fun i => spCovers ws (256 * i + row)

/-- The presented packet of the stripe-job queue, of type `ty`: refused, taken with a credit, or left waiting for one (R361). A
packet of an unlisted type is refused by whichever command meets it. -/
def takeStripe (ty e : Nat) (s : State) : State :=
  match qFront .stripe s with
  | none => s
  | some it =>
    let listed := pktType it.words == 1 || pktType it.words == 2 || pktType it.words == 3
    if listed && pktType it.words != ty then s
    else
      match stripeFault s it.words, qNext .stripe s with
      | some code, some (_, t) =>
        returnStatus it.port it.words 3
          (raise (Page.CREW e) 5 5 code ⟨word (spBand it.words), word (spStripe it.words), word (pktTag it.words)⟩ t)
      | none, some (_, t) =>
        let a : StripeAsk := ⟨stripeClass it, 0, 0, 0⟩
        if !stripeTurn s a then withStripe a id s
        else
          withStripe a (fun t => stepJob (freeJobId t)
            (addJob ty a.cls it.port e it.words (touchedRows ty it.words (bandWords t (spBand it.words))) t)) t
      | _, none => s

/-- Crew engine `e` goes on with its jobs of type `ty` and takes the next packet. A replayed record's job goes with the writes. -/
def stripeCommand (ty e : Nat) (s : State) : State :=
  s.when (crewRuns s e) fun s =>
    let s1 := crewDrain s
    let mine := s1.crew.jobs.filter fun j => j.engine == e && (j.kind == ty || (ty == 1 && j.port == 0xFF && j.kind != 8))
    let s2 := mine.foldl (fun t j => stepJob j.id t) s1
    if crewTakes s2 e then takeStripe ty e s2 else s2

/-- STRIPE_WRITE (R363 to R365). -/
def execStripeWrite (e : Nat) (s : State) : Host.Outcome State Fault Refusal := .next (stripeCommand 1 e s)

/-- STRIPE_READ (R375). -/
def execStripeRead (e : Nat) (s : State) : Host.Outcome State Fault Refusal := .next (stripeCommand 2 e s)

/-- A REPAIR that Crew pushes itself: a stale chunk of cause CAL_HARD whose head has left CAL.HARD_HEADS (R366). -/
def ownRepair (e : Nat) (s : State) : State :=
  match repairDue s with
  | some x =>
    if !crewTakes s e then s
    else withStripe ⟨2, 3, 0, 0⟩ (fun s =>
      stepJob (freeJobId s) (addJob 3 2 0xFE e (ownWords 3 0 x.1 x.2.1 0 1 (bLun (bandWords s x.1))) (List.range 256) s)) s
  | none => s

/-- STRIPE_REPAIR (R366). -/
def execStripeRepair (e : Nat) (s : State) : Host.Outcome State Fault Refusal :=
  .next (stripeCommand 3 e (s.when (crewRuns s e) (ownRepair e)))

/-- Stale chunks that a REPAIR has written leave the list; a write that failed again raises REPAIR_FAIL (R366). -/
def repairOver (j : StripeJob) (s : State) : State :=
  let mine := s.crew.stale.filter fun x => x.1 == j.band && x.2.1 == j.stripe
  let failed := fun p : Nat => j.failed.any fun f => decide (32768 ≤ f.1) && f.1 % 32 == p
  let s1 := mine.foldl (fun t x =>
    if failed x.2.2.1 then
      lasting (Page.CREW j.engine) 3 0 ⟨word j.band, word j.stripe, word (x.2.2.1 * 65536)⟩ t
    else t) s
  if j.status = 2 then s1
  else setStale (s1.crew.stale.filter fun x => !(mine.contains x) || failed x.2.2.1) s1

/-- Target stripes below RESHAPE_WM that a write has touched are copied again (R383). -/
def queueRecopy (j : StripeJob) (s : State) : State :=
  if j.kind ≠ 1 ∨ !reshaping s j.band then s
  else
    let d := bandWords s j.band
    let dn := 256 * max 1 (bData (s.crew.target.getD []))
    let x := j.stripe * 256 * bData d + spFirst j.words
    let lo := x / dn
    let hi := (x + spCount j.words - 1) / dn
    let ts := ((List.range (hi + 1 - lo)).map (lo + ·)).filter fun t => decide (t < s.fld Reg.CREWG.RESHAPE_WM 23 0)
    modCrew (fun c => { c with recopy := c.recopy ++ ts.filter fun t => !c.recopy.contains t }) s

/-- The second means has served, or failed (R375). -/
def secondMeans (j : StripeJob) (s : State) : State :=
  if j.kind ≠ 2 ∨ !spKnown j.words then s
  else
    let pl : Payload := ⟨word j.band, word j.stripe, word (spFirst j.words % 256 + spKnownPos j.words * 65536)⟩
    if j.meansFailed then lasting (Page.CREW j.engine) 0 0 pl s else transient (Page.CREW j.engine) 0 0 pl s

/-- A stripe job ends: its record is retired, its status returned, its credit freed (R362, R364). -/
def completeJob (j : StripeJob) (s : State) : State :=
  let s1 := secondMeans j s
  let s2 := if j.kind = 3 then repairOver j s1 else s1
  let s3 := match j.record with
    | some n => retireRecord n s2
    | none => s2
  let s4 := if j.kind = 1 ∧ j.status = 0 ∧ spFull j.words (bandWords s j.band) then findStripe j.band j.stripe s3 else s3
  let s5 := queueRecopy j (s4.count (Reg.CREW.JOBS_DONE j.engine) 1)
  hostDrain (dropJob j (returnStatus j.port j.words (min 2 j.status) s5))

/-- STRIPE_DONE (R362, R364, R365): the job with credit index `id` has done all its rows. -/
def execStripeDone (id : Nat) (s : State) : Host.Outcome State Fault Refusal :=
  .next (s.when ((findJob s id).any fun j => crewRuns s j.engine) fun s =>
    let s1 := crewDrain s
    match findJob s1 id with
    | some j => if jobOver j && (decide (j.kind ≤ 3) || j.port == 0xFF && j.kind != 8) then completeJob j s1 else s1
    | none => s1)

/-! ### MEMBER_FAIL (R388) -/

/-- A write of critical word `n` through the view at `addr` (R46, R84). -/
def critWriteAt (n : Nat) (req : Requester) (addr : Addr) (v : Word) (eff : State → State) (s : State) : State :=
  match addrKey addr with
  | some k => if critWordOf k = some n then withWrite req k v eff s else s
  | none => s

/-- MEMBER_FAIL_WRITE (R388): a bit newly set fails its head; a bit clears only for a head present, not in PRE.HEAD_FAIL and not on
a LOST actuator. -/
def execMemberFailWrite (req : Requester) (addr : Addr) (v : Word) (s : State) : Host.Outcome State Fault Refusal :=
  .next (critWriteAt 4 req addr v (fun s =>
    (List.range 24).foldl (fun t m =>
      if bit v m then failMember m t
      else if memberFailed t m && headPresent t (m / 6) (m % 6) && !t.bit (Reg.PRE.HEAD_FAIL (m / 6)) (m % 6) && actuatorUp t (m / 6)
      then t.critPut 4 (Sys2Proof.setBit (t.critVal 4) m false)
      else t) s) s)

/-! ### Background work (R374, R376, R379 to R383) -/

/-- Crew's own job of a kind on a band. -/
def ownJob (s : State) (kind b : Nat) : Option StripeJob := s.crew.jobs.find? fun j => j.kind == kind && j.band == b && j.port == 0xFE

/-- Begin a background job of engine `e` on stripe `st`, once it has a credit; `slot` is a rebuild's spare slot, and `f` what beginning it
changes besides. -/
def beginOwn (kind e b st slot first count : Nat) (f : State → State) (s : State) : State :=
  if !crewTakes s e then s
  else withStripe ⟨2, kind, b, slot⟩ (fun s =>
    stepJob (freeJobId s) (addJob kind 2 0xFE e (ownWords kind 0 b st first count (bLun (bandWords s b))) (List.range 256) (f s))) s

/-- A background job is over. -/
def endOwn (j : StripeJob) (s : State) : State :=
  let s1 := match j.record with
    | some n => retireRecord n s
    | none => s
  dropJob j (s1.count (Reg.CREW.JOBS_DONE j.engine) 1)

/-- The job stopped because the lost-stripe map was full: its stripe comes again once an entry is free (R378). -/
def mapStopped (s : State) (j : StripeJob) : Bool := j.status == 2 && s.crew.lostFull && !isLost s j.band j.stripe

/-- Step job `j`, and end it with `f` once it is over. -/
def stepOwn (j : StripeJob) (f : StripeJob → State → State) (s : State) : State :=
  let s1 := stepJob j.id s
  match findJob s1 j.id with
  | some k => if jobOver k then f k (endOwn k s1) else s1
  | none => s1

/-- The watermark of spare slot `j` moves past a stripe; at STRIPES the rebuild is done (R376). -/
def advanceWm (b j : Nat) (s : State) : State :=
  let d := bandWords s b
  let n := bWm d j + 1
  let s1 := modBandWord b (4 + j) (fun w => Sys2Proof.setFld w 23 0 n) s
  if n = bStripes d then bandProgress 1 b s1 else s1

/-- REBUILD_STEP (R376): the rebuild of spare slot `slot` of band `b` goes on. -/
def execRebuildStep (e b slot : Nat) (s : State) : Host.Outcome State Fault Refusal :=
  .next (s.when (crewRuns s e && decide (slot < 2)) fun s =>
    let s1 := crewDrain s
    let d := bandWords s1 b
    match s1.crew.jobs.find? fun j => j.kind == 4 && j.band == b && spFirst j.words == slot with
    | some j => stepOwn j (fun k t => if mapStopped t k then t else advanceWm b slot t) s1
    | none =>
      if !rebuildWanted s1 b slot then s1
      else if !rebuildHere s1 b slot then advanceWm b slot s1
      else if !rebuildRoom s1 then s1
      else beginOwn 4 e b (bWm d slot) slot slot 1 id s1)

/-- Every stripe is synchronised: RESYNC is cleared (R374). -/
def resyncOver (b : Nat) (s : State) : State := bandProgress 2 b (modBandWord b 0 (fun w => Sys2Proof.setBit w 24 false) s)

/-- Resynchronisation moves past a stripe, the last perhaps. -/
def advanceResync (b : Nat) (s : State) : State :=
  let d := bandWords s b
  let n := bResyncWm d + 1
  let s1 := modBandWord b 2 (fun w => Sys2Proof.setFld w 23 0 n) s
  if bStripes d ≤ n then resyncOver b s1 else s1

/-- RESYNC_STEP (R374). -/
def execResyncStep (e b : Nat) (s : State) : Host.Outcome State Fault Refusal :=
  .next (s.when (crewRuns s e) fun s =>
    let s1 := crewDrain s
    let d := bandWords s1 b
    match ownJob s1 5 b with
    | some j => stepOwn j (fun k t => if mapStopped t k || decide (bResyncWm (bandWords t b) ≠ k.stripe) then t else advanceResync b t) s1
    | none =>
      if !resyncWanted s1 b then s1
      else if bStripes d ≤ bResyncWm d then resyncOver b s1
      else beginOwn 5 e b (bResyncWm d) 0 0 1 id s1)

/-- The patrol's next stripe from stripe `st` of band `b` on; the flag tells that the walk has returned to the first band (R379). -/
def patrolNext (s : State) : Nat → Bool → Nat → Nat → Option (Nat × Nat × Bool)
  | 0, _, _, _ => none
  | f + 1, lap, b, st =>
    let bands := s.crew.bands.filterMap fun x => x.2.bind fun y => if bRed y.words ≠ 0 ∧ !y.closing ∧ !switchReady s x.1 then some (x.1, y) else none
    match bands.find? fun x => decide (b ≤ x.1) with
    | none => if bands.isEmpty || lap then none else patrolNext s f true 0 0
    | some (c, y) =>
      let t := if c = b then st else 0
      if bStripes y.words ≤ t ∨ unsynced y.words t then patrolNext s f lap (c + 1) 0
      else if isLost s c t then patrolNext s f lap c (t + 1)
      else some (c, t, lap)

/-- A patrol lap is over (R381). -/
def patrolLap (b : Nat) (s : State) : State :=
  let secs := (s.time - s.crew.lapStart) / 1000000000
  let s1 := modCrew (fun c => { c with lapStart := s.time }) (s.setReg Reg.CREWG.PATROL_LAP_LAST (word (min 0xFFFFFFFF secs)))
  let s2 := bandProgress 4 b s1
  if (s.reg Reg.CREWG.PATROL_LAP_LIMIT).toNat * 1000000000 < s.time - s.crew.lapStart then bandProgress 6 b s2 else s2

/-- PATROL_STEP (R379 to R381). -/
def execPatrolStep (e : Nat) (s : State) : Host.Outcome State Fault Refusal :=
  .next (s.when (crewRuns s e) fun s =>
    let s1 := crewDrain s
    match s1.crew.jobs.find? (·.kind == 6) with
    | some j =>
      stepOwn j (fun k t => (t.setReg Reg.CREWG.PATROL_POS (word k.band)).setReg Reg.CREWG.PATROL_STRIPE (word (k.stripe + 1))) s1
    | none =>
      if !patrolDue s1 then s1
      else
        match patrolNext s1 (s1.crew.lost.length + 2 * s1.crew.bands.length + 3) false (s1.fld Reg.CREWG.PATROL_POS 11 0)
            (s1.fld Reg.CREWG.PATROL_STRIPE 23 0) with
        | none => s1
        | some (b, st, lap) =>
          let s2 := if lap then patrolLap b s1 else s1
          beginOwn 6 e b st 0 0 1 id ((s2.setReg Reg.CREWG.PATROL_POS (word b)).setReg Reg.CREWG.PATROL_STRIPE (word st)))

/-- RESHAPE_STEP (R382, R383): re-copies first, then target stripe RESHAPE_WM. -/
def execReshapeStep (e : Nat) (s : State) : Host.Outcome State Fault Refusal :=
  .next (s.when (crewRuns s e) fun s =>
    let s1 := crewDrain s
    let b := s1.critFld 13 11 0
    let wm := s1.fld Reg.CREWG.RESHAPE_WM 23 0
    match s1.crew.jobs.find? (·.kind == 7), s1.crew.target with
    | some j, _ =>
      stepOwn j (fun k t =>
        if mapStopped t k then
          (if k.stripe < wm then modCrew (fun c => { c with recopy := c.recopy ++ [k.stripe] }) t else t)
        else if k.stripe = wm then t.setReg Reg.CREWG.RESHAPE_WM (word (wm + 1)) else t) s1
    | none, some tgt =>
      if !reshapeDue s1 b then s1
      else
        match s1.crew.recopy with
        | t :: rest => beginOwn 7 e b t 0 0 (256 * bData tgt) (modCrew fun c => { c with recopy := rest }) s1
        | [] => beginOwn 7 e b wm 0 0 (256 * bData tgt) id s1
    | none, none => s1)

/-- Work of band `b` that is mapped through its present layout: stripe jobs, packets in the queue, runs of the fast path. -/
def bandInFlight (s : State) (b : Nat) : Bool :=
  bandBusy s b || ((hq s .stripe).items.any fun it => spBand it.words == b) || ((hq s .stripe).taken.any fun it => spBand it.words == b)
    || s.slip.tasks.any fun t => t.handed.any fun h => (pickSectors s t h.sectors).any fun x => x.2.band == b

/-- RESHAPE_SWITCH (R383): the band's stale chunks, of the old layout, go with its lost-map entries. -/
def execReshapeSwitch (s : State) : Host.Outcome State Fault Refusal :=
  let b := s.critFld 13 11 0
  .next (s.when ((List.range 8).any (crewRuns s) && (band s b).isSome && switchReady s b && !bandInFlight s b) fun s =>
    let s1 := s.setCritFld 13 17 17 1
    let s2 := match band s1 b, s1.crew.target with
      | some x, some t => setBand b (some { x with words := t }) s1
      | _, _ => s1
    let lost := s2.crew.lost.filter (·.1 != b)
    let s3 := modCrew (fun c => { c with lostFull := c.lostFull && decide (lostMax s2 ≤ lost.length) }) (setLost lost s2)
    hostDrain (bandProgress 3 b (setStale (s3.crew.stale.filter (·.1 != b)) s3)))

end Sys2Proof.Machine
end

