-- ==== Sys2Proof/Machine/Rudder.lean ====
section
/-! DEFINITION. The meanings of the commands of Rudder and COUPLE, but for parking (R171 to R204). -/

namespace Sys2Proof.Machine

/-! ### Coefficients of the active bank (R202) -/

def bankVals (s : State) (a n m : Nat) : List Rat := (List.range m).map fun i => f32 (bankWord s a (n + i))
def bankVal (s : State) (a n : Nat) : Rat := f32 (bankWord s a n)

/-- `m` biquad sections from word `n` on. -/
def bankSections (s : State) (a n m : Nat) : List (List Rat) := (List.range m).map fun j => bankVals s a (n + 5 * j) 5

/-- The estimator of head `h` in mode `m`: 28 values, then DA_GAIN or SS_BAL and DA_OFFSET or SS_GAIN. -/
def estimator (s : State) (a h m : Nat) : List Rat := bankVals s a (0x490 + 96 * h + 32 * m) 30

/-- A head's position by its estimate: the output of the wedge mode (log entry 146). -/
def estPosition (s : State) (a h : Nat) (est : List Rat) : Rat := estOut (estimator s a h 0) est

/-- Its third-stage displacement: what the self-sensing mode measures, the head's motion relative to the arm (R178; log entry 146). -/
def estThird (s : State) (a h : Nat) (est : List Rat) : Rat := estOut (estimator s a h 2) est

/-- The estimate of slot `k` as mode `m` predicts it (R180). -/
def predicted (s : State) (a k m : Nat) : List Rat :=
  let x := rudSlot s a k
  let d := rudDrive s a
  estPredict (estimator s a x.head m) x.est (Config.estInput d.coilMa d.milliMv x.tsMv)

/-! ### Wedge results (R171, R175, R230) -/

/-- The wedge timer is seeded from Keel's phase word, or without one from the wedge that the lowest used slot finds, and counts on with the
wedges it reads (R171). -/
def nextWedge (s : State) (a : Nat) : Nat :=
  let st := rudState s a
  let ph := s.reg Reg.KEEL.PHASE
  let next := ((rud s a).wedge + 1) % 640
  if st == 2 || st == 3 || (rud s a).acquired || decide (0 < (rud s a).huntGood) then next
  else if bit ph 0 then fld ph 31 22
  else
    match (usedSlots s a).head?.bind fun k => (rudSlot s a k).demod with
    | some w => if w.mark then w.wedge % 640 else next
    | none => next

/-- A wedge was found with the number that the timer and Keel's phase word expect. -/
def wedgeFound (s : State) (n : Nat) (w : WedgeResult) : Bool :=
  let ph := s.reg Reg.KEEL.PHASE
  w.mark && w.wedge == n && (!bit ph 0 || fld ph 31 22 == n)

/-- A wedge result is valid (R175): found, with a track within two of the predicted position, and there in time. -/
def wedgeValid (s : State) (n : Nat) (pred : Int) (r : Option WedgeResult) : Bool :=
  r.any fun w => wedgeFound s n w && decide (((w.track : Int) - pred / 4096).natAbs ≤ 2)

/-- The position a wedge gives. -/
def wedgePosition (w : WedgeResult) : Int := w.track * 4096 + w.burst

/-- The wedge's invalidity or recovery on slot `k` (R175). -/
def stepBadWedge (a k : Nat) (ok : Bool) (s : State) : State :=
  let x := rudSlot s a k
  let s1 := modSlot a k (fun y => { y with badRun := if ok then 0 else y.badRun + 1 }) s
  if ok then (if x.badRun = 1 then transient (Page.RUDDER a) 1 x.head {} s1 else s1)
  else
    let s2 := s1.count (Reg.RUDDER.BAD_WEDGE_COUNT a) 1
    if x.badRun = 1 then lasting (Page.RUDDER a) 1 x.head {} s2 else s2

/-! ### Outputs (R172, R173, R190) -/

/-- A signal passes the summing point `pt` of slot `k`, of full scale `full` (R213, R218). -/
def sumPoint (a pt k : Nat) (full x : Int) (s : State) : Int × State :=
  let y := x + injectedAt s (Page.RUDDER a) pt k full
  let here := decide (s.fld (Reg.TUNE.INJ_CFG (Page.RUDDER a)) 2 0 = pt) && (decide (pt < 3) || s.fld (Reg.TUNE.INJ_CFG (Page.RUDDER a)) 5 4 == k)
  (y, if here then modRud a (fun r => { r with sumIn := x, sumOut := y }) s else s)

/-- Third-stage command in mV for a displacement in 1/4,096 track: TS_GAIN is in tracks per volt (R202). -/
def thirdMv (gain x : Rat) : Rat := if gain = 0 then Config.thirdNoGain x else x / 4096 / gain * 1000

/-- The third stage of slot `k` (R172, R182, R190, R192): its static displacement plus its loop's correction, with the reaction
feedforward; a late word leaves the one before it (R173). -/
def stepThird (a k : Nat) (late : Bool) (s : State) : State :=
  let x := rudSlot s a k
  let base := 0x310 + 64 * x.head
  let (e, s1) := sumPoint a 4 k 4096 x.pes s
  let (y, zs) := cascade (bankSections s a base 8) x.loop.sections e
  let v := thirdMv (bankVal s a (base + 40)) (x.disp + y + x.loop.integ) + (rud s a).ffReact
  let lim : Int := s.fld (Reg.RUDDER.DRIVE_LIM a) 12 8 * 1000
  let (mv, s2) := sumPoint a 3 k lim v.floor s1
  let sat := decide (lim ≤ mv.natAbs) || x.clamped
  let s3 := modSlot a k (fun y =>
    { y with loop := ⟨zs, integrate (bankVal s a (base + 41)) sat y.loop.integ e⟩, late := late, sat := sat
             tsMv := if late then y.tsMv else clampInt (-lim) lim mv }) s2
  showSat a (2 + k) (14 + k) sat
    (if late then raise (Page.RUDDER a) 6 0 2 {} (s3.count (Reg.RUDDER.MISSED_COUNT a) 1) else s3)

/-- The coil and milliactuator words leave (R172, R173, R190): clamped, or late, when the ones before them stand. -/
def sendCoil (a : Nat) (late : Bool) (coil milli : Int) (s : State) : State :=
  let il : Int := s.fld (Reg.RUDDER.COIL_CFG a) 11 0
  let ml : Int := s.fld (Reg.RUDDER.DRIVE_LIM a) 5 0 * 1000
  if late then
    raise (Page.RUDDER a) 6 0 1 {} (modRud a (fun r => { r with missedRun := r.missedRun + 1 })
      ((showSat a 1 13 (decide (ml ≤ milli.natAbs)) (showSat a 0 12 (decide (il ≤ coil.natAbs)) s)).count (Reg.RUDDER.MISSED_COUNT a) 1))
  else
    driveMilli a (clampInt (-ml) ml milli) (driveCoil a (clampInt (-il) il coil) (modRud a (fun r => { r with missedRun := 0 }) s))

/-! ### Feedforward (R192, R195) -/

/-- The coupling terms of Rudder `b` count for Rudder `a`: enabled, sending and not dropped (R192, R193). -/
def coupleLive (s : State) (a b : Nat) : Bool :=
  b != a && bit (rud s a).coupleCfg 4 && bit (rud s a).coupleCfg b && rudAlive s b && decide (2 ≤ rudState s b) && decide (rudState s b ≤ 4)
    && !(SMap.get (fun _ => Coupled.reset) (rud s a).coupled b).dropped

def modCoupled (a b : Nat) (f : Coupled → Coupled) (s : State) : State :=
  modRud a (fun r => { r with coupled := SMap.set (fun _ => Coupled.reset) r.coupled b (f (SMap.get (fun _ => Coupled.reset) r.coupled b)) }) s

/-- One coupling filter of Rudder `a` for Rudder `b`: coil-to-coil (`r` 0) or reaction (1); three sections and a gain. -/
def coupleFilter (s : State) (a b r : Nat) (zs : List (Rat × Rat)) (x : Int) : Rat × List (Rat × Rat) :=
  let base := 0x6D0 + 32 * (if b < a then b else b - 1) + 16 * r
  let (y, z) := cascade (bankSections s a base 3) zs x
  (y * bankVal s a (base + 15), z)

/-- The coil-to-coil sum at W_n, of the commands of wedge n - 1. -/
def coilTerms (a : Nat) (s : State) : State :=
  (List.range 4).foldl (fun t b =>
    let c := SMap.get (fun _ => Coupled.reset) (rud t a).coupled b
    if coupleLive t a b then
      let (y, z) := coupleFilter t a b 0 c.coilSections c.wedgeMa
      modRud a (fun r => { r with ffCoil := r.ffCoil + y }) (modCoupled a b (fun x => { x with coilSections := z }) t)
    else modCoupled a b (fun x => { x with coilSections := [] }) t) (modRud a (fun r => { r with ffCoil := 0 }) s)

/-- The reaction sum at an update, of the latest commands that had arrived one sub-sample ago. -/
def reactTerms (a : Nat) (s : State) : State :=
  (List.range 4).foldl (fun t b =>
    let c := SMap.get (fun _ => Coupled.reset) (rud t a).coupled b
    if coupleLive t a b then
      let (y, z) := coupleFilter t a b 1 c.reactSections c.ripeMa
      modRud a (fun r => { r with ffReact := r.ffReact + y })
        (modCoupled a b (fun x => { x with reactSections := z, ripeMa := x.coilMa }) t)
    else modCoupled a b (fun x => { x with reactSections := [], ripeMa := x.coilMa }) t) (modRud a (fun r => { r with ffReact := 0 }) s)

def sensor (s : State) (n : Nat) : Sensor := SMap.get (fun _ => Sensor.reset) s.couple.sensors n

def couplesOn (s : State) : Bool := blockAlive s Page.COUPLE

/-- The input is sampled: enabled and not failed (R196). -/
def sensorUsed (s : State) (n : Nat) : Bool :=
  decide (n < 4) && s.bit Reg.COUPLE.SNS_EN n && !s.bit Reg.COUPLE.SNS_STATUS n

/-- The rotational-vibration feedforward at W_n: six sections and a gain on the difference of SNS2 and SNS3 (R195, R196). -/
def rvTerm (a : Nat) (s : State) : State :=
  if couplesOn s && sensorUsed s 2 && sensorUsed s 3 then
    let (y, z) := cascade (bankSections s a 0x730 6) (rud s a).rvSections ((sensor s 2).last - (sensor s 3).last : Int)
    modRud a (fun r => { r with ffRv := y * bankVal s a 0x74E, rvSections := z }) s
  else modRud a (fun r => { r with ffRv := 0, rvSections := [] }) s

/-- A coupling word is sent (R191). -/
def sendCouple (a : Nat) (s : State) : State :=
  if coupleSends s a then
    let d := rudDrive s a
    modRud a (fun r => { r with sent := ⟨r.sub, d.coilMa, d.milliMv⟩, sentNo := r.sentNo + 1 }) s
  else s

/-! ### The coil and milliactuator loops (R172, R180, R184, R190, R197) -/

/-- The distance the reference trajectory still has to go and its current: zero but in a seek (R184). -/
def reference (s : State) (a : Nat) : Int × Int :=
  let r := rud s a
  if rudState s a = 2 then
    Config.trajectory ((List.range 8).map fun i => bankWord s a (0x190 + 8 * r.seekBin + i)) (r.arm - r.seekFrom) (s.time - r.seekStart)
  else (0, 0)

/-- Track following and seeks: the loops on the arm's position error, the trajectory, the feedforward, and the milliactuator's
displacement through the desaturation gain. -/
def followStep (a : Nat) (late : Bool) (s : State) : State :=
  let r := rud s a
  let (togo, ref) := reference s a
  let e := r.armPes + togo
  let (y, zs) := cascade (bankSections s a 0x290 8) r.coilLoop.sections e
  let desat := bankVal s a 0x2B9 * Config.milliDisp (bankWord s a 0x2F9) (rudDrive s a).milliMv
  let il : Int := s.fld (Reg.RUDDER.COIL_CFG a) 11 0
  let (coil, s1) := sumPoint a 1 0 il (y + r.coilLoop.integ + ref + r.ffCoil + r.ffRv + desat).floor s
  let (m, ms) := cascade (bankSections s a 0x2D0 8) r.milliLoop.sections e
  let ml : Int := s.fld (Reg.RUDDER.DRIVE_LIM a) 5 0 * 1000
  let (milli, s2) := sumPoint a 2 0 ml (m + r.milliLoop.integ + r.ffReact).floor s1
  sendCoil a late coil milli (modRud a (fun q =>
    { q with coilLoop := ⟨zs, integrate (bankVal s a 0x2B8) (decide (il ≤ coil.natAbs)) q.coilLoop.integ e⟩
             milliLoop := ⟨ms, integrate (bankVal s a 0x2F8) (decide (ml ≤ milli.natAbs)) q.milliLoop.integ e⟩ }) s2)

/-- Arm velocity on the coil's back-EMF, in µm/s at the heads: (voltage − R_MOHM × current) ÷ KE (R200). -/
def armVelocity (s : State) (a : Nat) (mv ma : Int) : Int :=
  let emf := 1000 * mv - s.fld (Reg.RUDDER.COIL_PARAM a) 15 0 * ma
  let ke : Int := s.fld (Reg.RUDDER.COIL_PARAM a) 31 16
  if ke = 0 then Config.velocityNoKe emf else Config.headRadius * emf / ke

/-- Velocity control on back-EMF, off the ramp, toward it, or at rest, with the feedforward of W_n (R181, R192, R195, R197, R200). The
milliactuator is at zero. -/
def velocityStep (a : Nat) (wanted : Int) (w : WedgeIn) (s : State) : State :=
  sendCoil a w.late (Config.velocityDrive wanted (armVelocity s a w.coilMv w.coilMa) + ((rud s a).ffCoil + (rud s a).ffRv).floor) 0 s

/-- RAMP_VEL in µm/s. -/
def rampVelocity (s : State) (a : Nat) : Int := 1000 * s.fld (Reg.RUDDER.LOAD_CFG a) 31 16

/-! ### The tuning block (R212, R213, R222) -/

/-- Node values of Rudder `a` (R213). -/
def rudNode (s : State) (a : Nat) (c : Nat) : Int :=
  let r := rud s a
  if 1 ≤ c ∧ c ≤ 4 then (rudSlot s a (c - 1)).pes
  else if 5 ≤ c ∧ c ≤ 8 then (rudSlot s a (c - 5)).measured.getD (-2147483648)
  else if c = 9 then r.armPes
  else if c = 0x0A then (rudDrive s a).coilMa
  else if c = 0x0B then r.coilIma
  else if c = 0x0C then (rudDrive s a).milliMv
  else if 0x0D ≤ c ∧ c ≤ 0x10 then (rudSlot s a (c - 0x0D)).tsMv
  else if 0x11 ≤ c ∧ c ≤ 0x14 then (rudSlot s a (c - 0x11)).da
  else if 0x15 ≤ c ∧ c ≤ 0x18 then (rudSlot s a (c - 0x15)).ss
  else if c = 0x19 then r.ffCoil.floor
  else if c = 0x1A then r.ffRv.floor
  else if c = 0x1B then
    r.wedge + 65536 * (List.range 4).foldl (fun (n : Int) k => n + (if (rudSlot s a k).used && (rudSlot s a k).wedgeGood then 2 ^ k else 0)) 0
  else if trMode s (Page.RUDDER a) = 1 then 0
  else if c = 0x1E then r.sumIn
  else if c = 0x1F then r.sumOut
  else 0

/-- The tuning block after an update of Rudder's control law: recording and the guards (R212, R222). -/
def rudTune (a : Nat) (main : Bool) (s : State) : State :=
  let p := Page.RUDDER a
  let s1 := tuneRecord p main (rudNode s a) s
  let lim := s.fld (Reg.TUNE.GUARD p) 11 0
  let pes := fun k => (rudSlot s1 a k).pes + injectedAt s1 p 5 k 4096
  if !guardsHold s1 p main then s1
  else
    let s2 := match (usedSlots s1 a).find? (fun k => decide (lim < (pes k).natAbs)) with
      | some k => tuneTrip p 1 (pes k) s1
      | none => s1
    updateOver p (guardSat p ((List.range 6).map fun i => s2.bit (Reg.STATUS p) (12 + i)) s2)

/-! ### Wedge samples (R171 to R176, R180) -/

/-- A slot dropped from the group joins it once the preamplifier has settled on its head (R183); its estimate begins where the arm and the
head's offset put it. -/
def joinSlots (a : Nat) (s : State) : State :=
  (List.range 4).foldl (fun t k =>
    let x := rudSlot t a k
    if x.wait && slotOn t a k && slotHead t a k == x.head && slotSettled t a k then
      let r := rud t a
      modSlot a k (fun y => { y with used := true, wait := false, est := Config.estSeed (r.arm + r.armPes + y.off) }) t
    else t) s

/-- The estimate of slot `k` at W_n (R180): predicted, and corrected by a valid wedge. -/
def wedgeSlot (a n k : Nat) (s : State) : State :=
  let x := rudSlot s a k
  if !x.used then s
  else
    let p := predicted s a k 0
    let ok := wedgeValid s n (estPosition s a x.head p).floor x.demod
    let z := (x.demod.map wedgePosition).getD 0
    let est := if ok then estCorrect (estimator s a x.head 0) p z else predicted s a k x.mode
    let s1 := stepBadWedge a k ok s
    let target := x.target + injectedAt s (Page.RUDDER a) 5 k 4096
    let s2 := (sumPoint a 5 k 4096 x.target s1).2
    let pes := (estPosition s a x.head est).floor - target
    let win := s.fld (Reg.RUDDER.SETTLE_CFG a) 11 0
    let lost := decide (4 * win < pes.natAbs)
    let s3 := modSlot a k (fun y =>
      { y with est := est, mode := if ok then 0 else y.mode, pes := pes, measured := if ok then some (z - target) else none
               meas := if ok then 1 else 0, wedgeGood := ok, demod := none, onTrack := y.onTrack && !lost
               onRun := if pes.natAbs ≤ win then y.onRun + 1 else 0 }) s2
    if ok then
      modRud a (fun r =>
        let w := SMap.get (fun _ => PesWindow.empty) r.windows k
        { r with windows := SMap.set (fun _ => PesWindow.empty) r.windows k
                   { w with sumSq := w.sumSq + (z - x.target).natAbs ^ 2, count := w.count + 1 } }) s3
    else s3

/-- The arm's position error (R180, R218): the mean, over used slots with a valid wedge, of PES less third-stage displacement; with none, over
all used slots as predicted; rounded down (log entry 66). -/
def armPesOf (s : State) (a : Nat) : Option Int :=
  let seen := (usedSlots s a).filter fun k => (rudSlot s a k).meas == 1
  let ks := if seen.isEmpty then usedSlots s a else seen
  if ks.isEmpty then none
  else some ((ks.map fun k => let x := rudSlot s a k; ((x.pes + injectedAt s (Page.RUDDER a) 4 k 4096 : Int) : Rat) - estThird s a x.head x.est).sum / ks.length).floor

/-- A wedge-0 passage seen by the lowest used slot with a valid result gives Keel its wedge offset, from its angle at that time
(R116, R176). -/
def wedgeZero (a : Nat) (s : State) : State :=
  let seen := (usedSlots s a).any fun k => (rudSlot s a k).meas == 1
  let first := (List.range a).all fun b => !pageOn s (Page.RUDDER b) || rudState s b != 3
  match s.keel.raw with
  | some (pos, t) =>
    if (rud s a).wedge = 0 ∧ seen ∧ rudState s a = 3 ∧ first then
      let now := (pos + angleMoved s (s.time - t)) % revUnits
      modKeel (fun k => { k with wedgeOffset := some ((revUnits - now) % revUnits) }) s
    else s
  | none => s

/-- Write fault and READ_OFF of every used slot at a sample end (R187, R188). -/
def stepFlags (a : Nat) (s : State) : State := (List.range 4).foldl (fun t k => stepReadOff a k (stepWf a k t)) s

/-- The third stages of the used slots at a sample end. -/
def stepThirds (a : Nat) (late : Nat → Bool) (s : State) : State :=
  driveThirds a ((List.range 4).foldl (fun t k => if (rudSlot t a k).used then stepThird a k (late k) t else t) s)

/-- The hunt has found four good wedges within 64 intervals (R181). -/
def huntFound (r : Rudder) : Bool := decide (4 ≤ r.huntGood) && decide (r.huntRun ≤ 64)

/-- The estimate of slot `k` at a W_n of the hunt: predicted, and corrected by a wedge found at `z` (R180). -/
def huntSlot (a k : Nat) (z : Option Int) (s : State) : State :=
  let x := rudSlot s a k
  let est := match z with
    | some z => estCorrect (estimator s a x.head 0) (predicted s a k 0) z
    | none => predicted s a k x.mode
  modSlot a k (fun y =>
    { y with est := est, mode := if z.isSome then 0 else y.mode, pes := (estPosition s a x.head est).floor - x.target, demod := none
             measured := z.map (· - x.target), meas := if z.isSome then 1 else 0, wedgeGood := z.isSome }) s

/-- The hunt for wedges in LOADING and REACQUIRE: the lowest used slot's head, consecutive valid results, each within two tracks of the one
before it (R175, R181, R199). Once it has found them it stands. -/
def huntStep (a n : Nat) (s : State) : State :=
  let s0 := modRud a (fun r => if huntFound r then r else { r with huntRun := r.huntRun + 1 }) s
  match usedSlots s a with
  | [] => s0
  | k :: _ =>
    let w := (rudSlot s a k).demod
    let ok := wedgeValid s n (((rud s a).huntPos <|> w.map wedgePosition).getD 0) w
    let found := (w.filter (wedgeFound s n)).map wedgePosition
    let s1 := modRud a (fun r =>
      if huntFound r then { r with huntPos := found <|> r.huntPos } else { r with huntGood := if ok then r.huntGood + 1 else 0, huntPos := found }) s0
    (usedSlots s a).foldl (fun t j => huntSlot a j (if j = k ∧ ok then found else none) t) (stepBadWedge a k ok s1)

/-- The estimates of the used slots begin afresh where the wedge found last puts the arm. -/
def seedSlots (a : Nat) (s : State) : State :=
  match usedSlots s a with
  | [] => s
  | k :: _ =>
    let arm := ((rud s a).huntPos.getD 0) - (rudSlot s a k).off
    (usedSlots s a).foldl (fun t j => modSlot a j (fun x => { x with est := Config.estSeed (arm + x.off), mode := 0, badRun := 0 }) t) s

/-- The head that LOAD named is acquired: it settles on LOAD_TRACK as a one-slot group (R199). -/
def acquire (a : Nat) (s : State) : State :=
  let h := (rud s a).loadHead
  let t := s.fld (Reg.RUDDER.LOAD_TRACK a) 23 0
  let (x, s1) := formSlot a ⟨h, t * 4096, false, zoneOfTrack a h t s⟩ s
  seedSlots a (modRud a (fun r => { r with acquired := true, arm := x.target - x.off, seekFrom := r.huntPos.getD 0 - x.off, seekStart := s.time })
    (modSlot a 0 (fun y => { x with wf := y.wf }) s1))

/-- One wedge interval of Rudder `a` that is tracking or seeking. -/
def trackStep (a n : Nat) (w : WedgeIn) (s : State) : State :=
  let s1 := (List.range 4).foldl (fun t k => wedgeSlot a n k t) s
  let any := (usedSlots s1 a).any fun k => (rudSlot s1 a k).meas == 1
  let s2 := modRud a (fun r => { r with lostRun := if any || (usedSlots s1 a).isEmpty then 0 else r.lostRun + 1
                                        armPes := (armPesOf s1 a).getD r.armPes }) s1
  wedgeZero a (stepFlags a (stepThirds a (fun k => w.thirdLate.getD k false) (followStep a w.late s2)))

/-- What Rudder does at W_n in each of its states (R197). -/
def wedgeByState (a n : Nat) (w : WedgeIn) (s0 : State) : State :=
  let st := rudState s0 a
  let r := rud s0 a
  let s := rvTerm a (coilTerms a (reactTerms a s0))
  if st = 2 ∨ st = 3 ∨ (st = 1 ∧ r.acquired) then trackStep a n w s
  else if st = 1 then
    let t := huntStep a n (velocityStep a (rampVelocity s a) w s)
    stepFlags a (if 4 ≤ (rud t a).huntGood then acquire a t else t)
  else if st = 4 then stepFlags a (huntStep a n (velocityStep a 0 w s))
  else if st = 5 ∨ (st = 6 ∧ !r.latched ∧ !r.rigged ∧ r.currentStart.isNone) then velocityStep a (-rampVelocity s a) w s
  else s

/-- WEDGE_SAMPLE (R171 to R176, R180, R187 to R192, R195). -/
def execWedgeSample (a : Nat) (w : WedgeIn) (s : State) : Host.Outcome State Fault Refusal :=
  .next (s.when (rudAlive s a) fun s =>
    let n := nextWedge s a
    let s0 := tuneGenerate (Page.RUDDER a) true (joinSlots a (modRud a (fun r =>
      { r with wedge := n, sub := 0, windowRun := r.windowRun + 1, coilIma := w.coilMa }) s))
    let s1 :=
      if w.bankParity then
        let b := s0.fld (Reg.STATUS (Page.RUDDER a)) 23 23
        retract a 5 (lasting (Page.RUDDER a) 12 3 {} (s0.setBit (Reg.RUDDER.COEF_CTRL a) (8 + b) false))
      else sendCouple a (wedgeByState a n w (if w.bankReread then transient (Page.RUDDER a) 12 3 {} s0 else s0))
    let s2 := if s1.fld (Reg.TUNE.TR_LEVEL (Page.RUDDER a)) 9 0 = n then trTrigger (Page.RUDDER a) 5 false s1 else s1
    followSpindle a (rudTune a true s2))

/-! ### Sub-samples (R177 to R180) -/

/-- The data-aided measurement x of slot `k` (R177): where the front end's flag VALID stands with both readers in use, their amplitudes at the
floor or above, and the data path not gated (R225, R231, R236). -/
def dataAided (s : State) (a k : Nat) (i : SubSlotIn) : Option Int :=
  let o := 4 * a + k
  let x := rudSlot s a k
  if blockAlive s (Page.OAR o) && s.fld (Reg.OAR.FE_CTRL o) 1 0 == 3 && slotOn s a k && mode s != 2 && !i.crossed
      && decide (s.fld (Reg.OAR.DA_CFG o) 11 0 ≤ i.amp0 + i.amp1) then
    let c := estimator s a x.head 1
    let ratio := if i.amp0 + i.amp1 = 0 then Config.daNoAmplitude else ((i.amp0 : Int) - i.amp1 : Rat) / (i.amp0 + i.amp1 : Nat)
    some (c.getD 28 0 * ratio + c.getD 29 0).floor
  else none

/-- The balanced self-sensing residual of slot `k` in mV, and the result it is scaled to (R178). -/
def selfSense (s : State) (a k : Nat) (mv : Int) : Rat × Int :=
  let x := rudSlot s a k
  let c := estimator s a x.head 2
  let r := (mv : Rat) - c.getD 28 0 * x.tsMv
  (r, (c.getD 29 0 * r).floor)

/-- The estimate of slot `k` at a sub-sample end (R177 to R180). The measurement x stands from the slot's target (log entry 146). -/
def subSlot (a : Nat) (w : SubIn) (k : Nat) (s : State) : State :=
  let x := rudSlot s a k
  let i := w.slots.getD k ⟨0, 0, true, 0, false⟩
  if !x.used then s
  else
    let target := x.target + injectedAt s (Page.RUDDER a) 5 k 4096
    let da := if x.write then none else dataAided s a k i
    let at_ := (estPosition s a x.head (predicted s a k 1)).floor - x.target
    let rejected := da.any fun v => decide (s.fld (Reg.RUDDER.POS_CFG a) 27 16 < (v - at_).natAbs)
    let s1 := if rejected then s.count (Reg.RUDDER.DA_REJECT_COUNT a) 1 else s
    let senses := x.write && !(rud s a).ssOff.contains x.head
    let (resid, ss) := selfSense s a k i.ssMv
    let half := s.fld (Reg.RUDDER.DRIVE_LIM a) 12 8 * 500
    let correct := fun (m : Nat) (z : Int) => estCorrect (estimator s a x.head m) (predicted s a k m) z
    let (meas, est, err) : Nat × List Rat × Option Int :=
      match (if rejected then none else da) with
      | some v => (2, correct 1 (x.target + v), some (x.target + v - target))
      | none => if senses then (3, correct 2 ss, some (ss - x.disp)) else (0, predicted s a k x.mode, none)
    let s2 := (sumPoint a 5 k 4096 x.target s1).2
    modSlot a k (fun y =>
      { y with est := est, mode := if meas = 0 then y.mode else meas - 1, pes := (estPosition s a x.head est).floor - target
               meas := meas, measured := err, da := da.getD y.da, ss := if senses then ss else y.ss
               ssRun := if senses && decide ((half : Rat) < resid ∨ resid < -(half : Rat)) then y.ssRun + 1 else 0 }) s2

/-- SUBSAMPLE (R172, R177 to R180, R187, R188, R191, R192). -/
def execSubsample (a : Nat) (w : SubIn) (s : State) : Host.Outcome State Fault Refusal :=
  .next (s.when (rudAlive s a) fun s =>
    let s0 := tuneGenerate (Page.RUDDER a) false (joinSlots a (modRud a (fun r => { r with sub := (r.sub + 1) % 16 }) s))
    let s1 := (List.range 4).foldl (fun t k => subSlot a w k t) (reactTerms a s0)
    let tracks := rudState s a == 2 || rudState s a == 3 || (rudState s a == 1 && (rud s a).acquired)
    let s2 := if tracks then stepThirds a (fun k => (w.slots.getD k ⟨0, 0, true, 0, false⟩).late) s1 else s1
    rudTune a false (sendCouple a (stepFlags a s2)))

/-- SS_FAULT (R179): once per head per load. -/
def execSsFault (a k : Nat) (s : State) : Host.Outcome State Fault Refusal :=
  let x := rudSlot s a k
  .next (s.when (rudAlive s a && decide (k < 4) && x.used && decide (16 ≤ x.ssRun) && !(rud s a).ssOff.contains x.head) fun s =>
    lasting (Page.RUDDER a) 15 x.head {} (modRud a (fun r => { r with ssOff := x.head :: r.ssOff }) s))

/-- TIMING_FAIL (R173). -/
def execTimingFail (a : Nat) (s : State) : Host.Outcome State Fault Refusal :=
  .next (s.when (rudAlive s a && decide (8 ≤ (rud s a).missedRun) && !rudParked s a) fun s =>
    retract a 5 (lasting (Page.RUDDER a) 7 0 {} (modRud a (fun r => { r with missedRun := 0 }) s)))

/-! ### Position lost (R181) -/

/-- POSITION_LOST: write fault on every slot and REACQUIRE; the event follows with the outcome (log entry 14). -/
def execPositionLost (a : Nat) (s : State) : Host.Outcome State Fault Refusal :=
  .next (s.when (rudAlive s a && (rudState s a == 2 || rudState s a == 3) && !(usedSlots s a).isEmpty
      && decide (s.fld (Reg.RUDDER.POS_CFG a) 3 0 ≤ (rud s a).lostRun)) fun s =>
    let s1 := driveThirds a ((usedSlots s a).foldl (fun t k => stepReadOff a k (showSat a (2 + k) (14 + k) false
      (modSlot a k (fun x => { x with onTrack := false, onRun := 0, tsMv := 0, sat := x.clamped, loop := Loop.zero }) t))) s)
    enterRud a 4 (modRud a (fun r => { r with huntRun := 0, huntGood := 0, huntPos := none, lostRun := 0, seeking := false }) s1))

/-- REACQUIRE_DONE (R181): transient; the group in force is sought afresh. -/
def execReacquireDone (a : Nat) (s : State) : Host.Outcome State Fault Refusal :=
  .next (s.when (rudAlive s a && rudState s a == 4 && huntFound (rud s a)) fun s =>
    let k := (usedSlots s a).headD 0
    startSeek a ((rud s a).huntPos.getD 0 - (rudSlot s a k).off) false (seedSlots a (transient (Page.RUDDER a) 2 0 {} s)))

/-- REACQUIRE_TIMEOUT (R181): lasting, and a retract with cause 5. -/
def execReacquireTimeout (a : Nat) (s : State) : Host.Outcome State Fault Refusal :=
  .next (s.when (rudAlive s a && rudState s a == 4 && decide (64 ≤ (rud s a).huntRun) && !huntFound (rud s a)) fun s =>
    retract a 5 (lasting (Page.RUDDER a) 2 0 {} s))

/-! ### Groups, seeks, settling (R182 to R186) -/

/-- ON_TRACK (R185, R186, R194, R199): the slot qualifies; with every used slot ON_TRACK Rudder follows. -/
def execOnTrack (a k : Nat) (s : State) : Host.Outcome State Fault Refusal :=
  let x := rudSlot s a k
  let st := rudState s a
  .next (s.when (rudAlive s a && decide (k < 4) && x.used && !x.onTrack && !rudShock s a
      && decide (s.fld (Reg.RUDDER.SETTLE_CFG a) 19 16 ≤ x.onRun)
      && (st == 2 || st == 3 || (st == 1 && (rud s a).acquired))) fun s =>
    let s1 := modSlot a k (fun y => { y with onTrack := true }) s
    if st = 3 || !((usedSlots s1 a).all fun j => (rudSlot s1 a j).onTrack) then s1
    else if st = 1 then
      followed a (if (rud s1 a).loadAgain then transient (Page.RUDDER a) 4 0 {} s1 else s1)
    else followed a (if (rud s1 a).seekAgain then transient (Page.RUDDER a) 3 0 {} s1 else s1))

/-- SEEK_FAIL (R186): one repeat from the present position, then the group ends lasting and the arm is held where it stands. -/
def execSeekFail (a : Nat) (s : State) : Host.Outcome State Fault Refusal :=
  .next (s.when (rudAlive s a && rudState s a == 2
      && decide ((rud s a).seekStart + s.fld (Reg.RUDDER.SETTLE_CFG a) 31 24 * 1000000 ≤ s.time)) fun s =>
    if (rud s a).seekAgain then
      let p := (rud s a).pending
      let s1 := clearSlots a (lasting (Page.RUDDER a) 3 0 {} s)
      followed a (modRud a (fun r => { r with pending := p, arm := r.arm + r.armPes, armPes := 0 }) (note a .lasting s1))
    else startSeek a ((rud s a).arm + (rud s a).armPes) true s)

/-- WF_CLEAR (R187). -/
def execWfClear (a k : Nat) (s : State) : Host.Outcome State Fault Refusal :=
  .next (s.when (rudAlive s a && decide (k < 4) && (rudSlot s a k).wf && !wfCause s a k
      && decide (s.fld (Reg.RUDDER.WF_CFG a) 31 24 ≤ (rudSlot s a k).clean)) fun s =>
    showWf a (modSlot a k (fun x => { x with wf := false }) s))

/-- The largest r ≤ `fuel` with r² ≤ n. -/
def isqrt (n : Nat) : Nat → Nat
  | 0 => 0
  | f + 1 =>
    let r := 2 * isqrt (n / 4) f
    if (r + 1) * (r + 1) ≤ n then r + 1 else r

/-- PES3S of a window: three times the root mean square, rounded down (R189). -/
def pes3s (w : PesWindow) : Nat := isqrt (9 * w.sumSq / w.count) 64

/-- PES3S of slot `k` at the end of a window (R189): none for a slot unused, re-seated meanwhile or without a measured sample. -/
def pesSlot (a : Nat) (t : State) (k : Nat) : State :=
  let x := rudSlot t a k
  let w := SMap.get (fun _ => PesWindow.empty) (rud t a).windows k
  let now := if x.used || x.wait then some x.head else none
  let t1 := modRud a (fun r => { r with windows := SMap.set (fun _ => PesWindow.empty) r.windows k ⟨now, 0, 0, false⟩ }) t
  if !x.used || w.spoiled || w.count == 0 then t1
  else
    let v := min 0xFFFF (pes3s w)
    let t2 := t1.setReg (Reg.RUDDER.PES3S a k) (word v)
    if t.fld (Reg.RUDDER.PES_CFG a) 11 0 < v then raise (Page.RUDDER a) 14 0 k ⟨word v, 0#32, 0#32⟩ t2 else t2

/-- PES_WINDOW (R189). -/
def execPesWindow (a : Nat) (s : State) : Host.Outcome State Fault Refusal :=
  .next (s.when (rudAlive s a && decide (2 ^ s.fld (Reg.RUDDER.PES_CFG a) 19 16 ≤ (rud s a).windowRun)) fun s =>
    (List.range 4).foldl (pesSlot a) (modRud a (fun r => { r with windowRun := 0 }) s))

/-! ### Coupling and sensors (R191 to R196) -/

/-- COUPLE_WORD (R191 to R193): the sender's word, or its previous one with COUPLE_ERR; two bad in a row drop its terms, sixteen good restore
them. -/
def execCoupleWord (a sender : Nat) (headOk coilOk milliOk : Bool) (s : State) : Host.Outcome State Fault Refusal :=
  let c := SMap.get (fun _ => Coupled.reset) (rud s a).coupled sender
  let w := (rud s sender).sent
  let others := (List.range 4).any fun b =>
    b != a && (SMap.get (fun _ => Coupled.reset) (rud s b).coupled sender).dropped
  .next (s.when (rudAlive s a && rudAlive s sender && sender != a && c.taken != (rud s sender).sentNo) fun s =>
    let s0 := modCoupled a sender (fun y => { y with taken := (rud s sender).sentNo }) s
    if headOk && coilOk && milliOk then
      let back := c.dropped && decide (16 ≤ c.good + 1)
      let s1 := modCoupled a sender (fun y =>
        { y with coilMa := w.coilMa, milliMv := w.milliMv, wedgeMa := if w.index = 0 then w.coilMa else y.wedgeMa, bad := 0
                 good := y.good + 1, dropped := y.dropped && !back }) s0
      let s2 := s1.setBit Reg.COUPLE.CPL_STATUS sender (!c.dropped || back)
      if back && !others then s2.setBit Reg.COUPLE.CPL_STATUS (4 + sender) false else s2
    else
      let s1 := transient Page.COUPLE 1 sender {}
        ((modCoupled a sender (fun y => { y with bad := y.bad + 1, good := 0, dropped := y.dropped || decide (1 ≤ y.bad) }) s0).count
          Reg.COUPLE.CPL_ERRORS 1)
      if c.dropped ∨ c.bad = 0 then s1
      else lasting Page.COUPLE 2 sender {} ((s1.setBit Reg.COUPLE.CPL_STATUS sender false).setBit Reg.COUPLE.CPL_STATUS (4 + sender) true))

/-- A shock sample signals every Rudder (R194): write fault on all slots until the hold ends. -/
def shockAll (s : State) : State :=
  (List.range 4).foldl (fun t a =>
    if rudAlive t a then
      let p := Page.RUDDER a
      let rise := !rudShock t a
      let t1 := assertAllWf a (t.setBit (Reg.STATUS p) 22 true)
      if rise then trTrigger p 4 false t1 else t1
    else t) s

/-- A sample at an end of the converter's range (R196). -/
def fullScale (v : Int) : Bool := v == -8192 || v == 8191

/-- SNS_SAMPLE (R194, R196). SHOCK_TIME stays as it is where CT3 is not held for function 2 (log entry 170). -/
def execSnsSample (n : Nat) (sample : BitVec 14) (s : State) : Host.Outcome State Fault Refusal :=
  .next (s.when (couplesOn s && sensorUsed s n) fun s =>
    let v := sample.toInt
    let x := sensor s n
    let stuck := x.sampled && (v == x.last)
    let y : Sensor := ⟨v, if stuck then x.since else s.time, if x.sampled && fullScale x.last && fullScale v then x.railed else s.time, true⟩
    let s1 := modCouple (fun c => { c with sensors := SMap.set (fun _ => Sensor.reset) c.sensors n y })
      (s.setReg (Reg.COUPLE.SNS n) (word sample.toNat))
    if n < 2 ∧ s.fld Reg.COUPLE.SNS_CFG 12 0 < v.natAbs then
      if s.bit Reg.COUPLE.SNS_STATUS 4 then
        shockAll (modCouple (fun c => { c with lastAbove := s.time, peak := if c.peak.natAbs < v.natAbs then v else c.peak }) s1)
      else
        let ct3 := s.bit (Reg.CLAIM.CLAIM_STATE 1) 31 && s.fld (Reg.CLAIM.CLAIM_STATE 1) 9 8 == 2
        let s2 := modCouple (fun c => { c with lastAbove := s.time, peak := v, crossing := if ct3 then some s.time else none }) s1
        let s3 := (s2.count Reg.COUPLE.SHOCK_COUNT 1).setBit Reg.COUPLE.SNS_STATUS 4 true
        shockAll (if ct3 then s3.setReg64 Reg.COUPLE.SHOCK_TIME_LO s.time else s3)
    else s1)

/-- A shock is held, by COUPLE or by a Rudder that it has signalled (R194). -/
def shockHeld (s : State) : Bool := s.bit Reg.COUPLE.SNS_STATUS 4 || (List.range 4).any fun a => rudShock s a

/-- SHOCK_HOLD_END (R194): the hold ends, whatever has become of COUPLE meanwhile. -/
def execShockHoldEnd (s : State) : Host.Outcome State Fault Refusal :=
  .next (s.when (shockHeld s && decide (s.couple.lastAbove + s.fld Reg.COUPLE.SNS_CFG 27 16 * 1000 ≤ s.time)) fun s =>
    let s1 := endShock s
    (List.range 4).foldl (fun u a => u.setBit (Reg.STATUS (Page.RUDDER a)) 22 false) s1)

/-- SENSOR_FAULT (R196): 10 ms at full scale or without change. -/
def execSensorFault (n : Nat) (s : State) : Host.Outcome State Fault Refusal :=
  .next (s.when (couplesOn s && sensorUsed s n && (sensor s n).sampled
      && (decide ((sensor s n).since + 10000000 ≤ s.time)
        || (fullScale (sensor s n).last && decide ((sensor s n).railed + 10000000 ≤ s.time)))) fun s =>
    lasting Page.COUPLE 3 n {} (s.setBit Reg.COUPLE.SNS_STATUS n true))

/-! ### Commands (R198, R199) -/

/-- Heads of actuator `a` in ACT_POP (R159). -/
def popHeads (s : State) (a : Nat) : Nat := s.critFld 3 (10 + 4 * a) (8 + 4 * a)

/-- The conditions of LOAD (R199). -/
def loadAllowed (s : State) (a h : Nat) : Bool :=
  s.bit (Reg.STATUS Page.KEEL) 12
    && s.bit (Reg.RUDDER.COEF_CTRL a) (8 + s.fld (Reg.STATUS (Page.RUDDER a)) 23 23)
    && s.fld (Reg.RUDDER.COIL_PARAM a) 15 0 != 0 && s.fld (Reg.RUDDER.COIL_PARAM a) 31 16 != 0
    && s.fld (Reg.DRV.RETRACT a) 15 0 != 0
    && actuatorUp s a && headPresent s a h && !headFailed s a h

/-- Loading begins, or begins once more (R199): slot 0 takes the named head, whose place in the preamplifier is asked for (log
entry 149). -/
def startLoad (a h : Nat) (again : Bool) (s : State) : State :=
  let s1 := modRud a (fun r => { r with loadHead := h, loadStart := s.time, loadAgain := again, acquired := false
                                        huntRun := 0, huntGood := 0, huntPos := none, ssOff := [], reload := false, parkFault := false
                                        coilLoop := Loop.zero, milliLoop := Loop.zero, armPes := 0 }) s
  let s2 := noteHead a 0 h (modSlot a 0 (fun _ => { RudSlot.empty with wait := true, head := h }) (clearSlots a s1))
  let s3 := if slotOn s a 0 && slotHead s a 0 == h then s2 else preUrgent a (rslotFrame 0 h true) s2
  enterRud a 1 s3

/-- A write of RUDDER.CMD (R198). -/
def rudCmdEffect (a : Nat) (v : Word) (s : State) : State :=
  let c := fld v 3 0
  let st := rudState s a
  let refuse := fun k : Nat => raise (Page.RUDDER a) 10 5 k {} s
  if c = 0 ∨ 4 < c then refuse 1
  else if c = 1 then
    if st ≠ 0 then refuse 4 else if loadAllowed s a (fld v 10 8) then startLoad a (fld v 10 8) false s else refuse 2
  else if c = 2 then (if st = 2 ∨ st = 3 ∨ st = 4 then beginPark a 0 false s else refuse 4)
  else if c = 3 then (if st = 0 ∨ st = 7 then refuse 4 else retract a 1 s)
  else if st = 7 then enterRud a 0 s else refuse 4

/-- A write of RUDDERa.CMD whose code satisfies `p`. -/
def rudCmd (p : Nat → Bool) (req : Requester) (a : Nat) (v : Word) (s : State) : State :=
  s.when (decide (a < 4) && p (fld v 3 0)) (withWrite req (Reg.RUDDER.CMD a) v (rudCmdEffect a v))

/-- RUDDER_LOAD (R199). -/
def execRudderLoad (req : Requester) (a : Nat) (v : Word) (s : State) : Host.Outcome State Fault Refusal :=
  .next (rudCmd (· == 1) req a v s)

/-- RUDDER_UNLOAD (R198). -/
def execRudderUnload (req : Requester) (a : Nat) (v : Word) (s : State) : Host.Outcome State Fault Refusal :=
  .next (rudCmd (· == 2) req a v s)

/-- RUDDER_RETRACT (R201). -/
def execRudderRetract (req : Requester) (a : Nat) (v : Word) (s : State) : Host.Outcome State Fault Refusal :=
  .next (rudCmd (· == 3) req a v s)

/-- RUDDER_CLEAR (R198). -/
def execRudderClear (req : Requester) (a : Nat) (v : Word) (s : State) : Host.Outcome State Fault Refusal :=
  .next (rudCmd (· == 4) req a v s)

/-- RUDDER_CMD_UNLISTED (R198). -/
def execRudderCmdUnlisted (req : Requester) (a : Nat) (v : Word) (s : State) : Host.Outcome State Fault Refusal :=
  .next (rudCmd (fun c => c == 0 || decide (4 < c)) req a v s)

/-- LOAD_TIMEOUT (R199): unload and load once more, or LOAD_FAIL and PARKED_FAULT. -/
def execLoadTimeout (a : Nat) (s : State) : Host.Outcome State Fault Refusal :=
  .next (s.when (rudAlive s a && rudState s a == 1
      && decide ((rud s a).loadStart + s.fld (Reg.RUDDER.LOAD_CFG a) 15 0 * 1000000 ≤ s.time)) fun s =>
    if (rud s a).loadAgain then
      modRud a (fun r => { r with parkFault := true }) (beginPark a 0 false (lasting (Page.RUDDER a) 4 0 {} s))
    else beginPark a 0 true s)

/-! ### Coefficient sets (R202, R203) -/

/-- Why a fetched set fails: 4 poisoned or lasting granules, 2 header, 1 CRC; none when it passes (R203). -/
def coefFault (a : Nat) (ws : List Word) (good : Bool) (s : State) : Option Nat :=
  let w1 := ws.getD 1 0#32
  if !good then some 4
  else if ws.getD 0 0#32 ≠ 0x5E75C0EF#32 ∨ fld w1 7 0 ≠ 1 ∨ fld w1 10 8 < popHeads s a then some 2
  else if crcWords (ws.set 3 0#32) ≠ ws.getD 3 0#32 then some 1 else none

/-- The inactive bank. -/
def idleBank (s : State) (a : Nat) : Nat := 1 - s.fld (Reg.STATUS (Page.RUDDER a)) 23 23

/-- A write of COEF_CTRL: LOAD, then SWITCH (R203). -/
def coefCtrlEffect (a : Nat) (v : Word) (s : State) : State :=
  let k := Reg.RUDDER.COEF_CTRL a
  let s1 := if bit v 0 && !s.bit k 0 then
      modRud a (fun r => { r with loadFrom := s.reg64 (Reg.RUDDER.COEF_ADDR_LO a) % 2 ^ 40 })
        ((s.setBit k 0 true).setBit k (8 + idleBank s a) false)
    else s
  if bit v 1 then
    if s1.bit k (8 + idleBank s1 a) then s1.setBit k 1 true else raise (Page.RUDDER a) 10 5 2 {} s1
  else s1

/-- COEF_LOAD (R203). -/
def execCoefLoad (req : Requester) (a : Nat) (v : Word) (s : State) : Host.Outcome State Fault Refusal :=
  .next (s.when (decide (a < 4) && bit v 0) (withWrite req (Reg.RUDDER.COEF_CTRL a) v (coefCtrlEffect a v)))

/-- COEF_SWITCH (R203). -/
def execCoefSwitch (req : Requester) (a : Nat) (v : Word) (s : State) : Host.Outcome State Fault Refusal :=
  .next (s.when (decide (a < 4) && bit v 1 && !bit v 0) (withWrite req (Reg.RUDDER.COEF_CTRL a) v (coefCtrlEffect a v)))

/-- COEF_LOAD_DONE (R203): the bank valid, or fetched once more. -/
def execCoefLoadDone (a : Nat) (firstBad : Bool) (s : State) : Host.Outcome State Fault Refusal :=
  .next (s.when (rudAlive s a && s.bit (Reg.RUDDER.COEF_CTRL a) 0) (underCredit (.load (Page.RUDDER a)) fun s =>
    let b := idleBank s a
    let fetch := fun t : State => fetchWords true (Requester.code (.rudder (BitVec.ofNat 2 a).toFin)) (rud t a).loadFrom 0x750 t
    let r1 := fetch s
    let bad1 := if firstBad then some 1 else coefFault a r1.1 r1.2.1 s
    let r2 := if bad1.isSome then fetch r1.2.2 else r1
    let s1 := r2.2.2.setBit (Reg.RUDDER.COEF_CTRL a) 0 false
    match (if bad1.isSome then coefFault a r2.1 r2.2.1 s else none) with
    | some c => lasting (Page.RUDDER a) 12 c {} s1
    | none =>
      let put := fun (m : SMap Word) (e : Word × Nat) => SMap.set (fun _ => 0#32) m (2048 * b + e.2) e.1
      let s2 := modRud a (fun r => { r with banks := r2.1.zipIdx.foldl put r.banks }) (s1.setBit (Reg.RUDDER.COEF_CTRL a) (8 + b) true)
      match bad1 with
      | some c => transient (Page.RUDDER a) 12 c {} s2
      | none => s2))

/-- After a switch: the new offsets of the slots; one beyond the stroke is clamped, loses ON_TRACK and goes to Gate (R204). -/
def newOffsets (a : Nat) (s : State) : State :=
  ((List.range 4).filter fun k => (rudSlot s a k).used || (rudSlot s a k).wait).foldl (fun t k =>
    let x := rudSlot t a k
    let off := headOffset t a x.head x.zone
    let d := x.target - off - (rud t a).arm
    let t1 := modSlot a k (fun y => staticPart d { y with off := off }) t
    if stroke48 < d.natAbs then
      note a (.clamped k) (raise (Page.RUDDER a) 9 5 2 {}
        (assertWf a k (stepReadOff a k (modSlot a k (fun y => { y with onTrack := false, onRun := 0 }) t1))))
    else t1) s

/-- COEF_SWITCHED (R203): in PARKED, or at a W_n in FOLLOWING. -/
def execCoefSwitched (a : Nat) (parityBad : Bool) (s : State) : Host.Outcome State Fault Refusal :=
  let k := Reg.RUDDER.COEF_CTRL a
  .next (s.when (rudAlive s a && s.bit k 1 && s.bit k (8 + idleBank s a) && (rudState s a == 0 || rudState s a == 3)) fun s =>
    let b := idleBank s a
    let id := SMap.get (fun _ => 0#32) (rud s a).banks (2048 * b + 4)
    let s1 := ((s.setBit k 1 false).setFld (Reg.STATUS (Page.RUDDER a)) 23 23 b).setReg (Reg.RUDDER.COEF_ID a) id
    let s2 := newOffsets a (raise (Page.RUDDER a) 13 0 0 ⟨id, 0#32, 0#32⟩ s1)
    if parityBad then retract a 5 (lasting (Page.RUDDER a) 12 3 {} (s2.setBit k (8 + b) false)) else s2)

end Sys2Proof.Machine
end

