-- ==== Sys2Proof/Machine/Heads.lean ====
section
/-! DEFINITION. Commands of the head stack: preamplifier frames and faults, discovery, temperatures, calibration, wedges and the end
of a retract (R148 to R170, R200, R201, R230, R231). -/

namespace Sys2Proof.Machine

/-! ### Frames of a preamplifier port (R149 to R151, R155) -/

/-- A firmware frame is queued, or refused (R151, R155). -/
def fwFrame (a : Nat) (v : Word) (s : State) : State :=
  if s.bit (Reg.PRE.FW_RESULT a) 16 || !portUp s a then s
  else
    let s1 := (s.setFld (Reg.PRE.FW_RESULT a) 18 16 0)
    if fwConflict s a (fld v 15 0) then fwRefuse a s1
    else
      let f : PreFrame := ⟨fld v 15 0, bit v 16, s.fld (Reg.PRE.FW_WDATA a) 15 0⟩
      let first := (pre s a).sending.any fun x => !x.2.1
      preNext a (modPre a (fun p => { p with fw := some f, passed := if first then 1 else 0 }) (s1.setBit (Reg.PRE.FW_RESULT a) 16 true))

/-- PRE_FW_READ (R151). -/
def execPreFwRead (req : Requester) (port : Nat) (v : Word) (s : State) : Host.Outcome State Fault Refusal :=
  .next (s.when (decide (port < 4) && bit v 31 && bit v 16) (withWrite req (Reg.PRE.FW_CMD port) v (fwFrame port v)))

/-- PRE_FW_WRITE (R151, R155). -/
def execPreFwWrite (req : Requester) (port : Nat) (v : Word) (s : State) : Host.Outcome State Fault Refusal :=
  .next (s.when (decide (port < 4) && bit v 31 && !bit v 16) (withWrite req (Reg.PRE.FW_CMD port) v (fwFrame port v)))

/-- The result of a firmware frame that ended well. -/
def fwDone (a : Nat) (f : PreFrame) (reply : Nat) (s : State) : State :=
  let s1 := s.setBit (Reg.PRE.FW_RESULT a) 16 false
  if f.read then s1.setFld (Reg.PRE.FW_RESULT a) 15 0 reply else s1

/-- SERIAL_FRAME_DONE (R149, R150): a bad frame is sent once more; a second failure loses the actuator. -/
def execSerialFrameDone (port : Nat) (data : BitVec 16) (last : BitVec 8) (s : State) : Host.Outcome State Fault Refusal :=
  .next (s.when (portUp s port) fun s =>
    match (pre s port).sending with
    | none => s
    | some (f, fw, again) =>
      if !tailGood f.read (data ++ last) then
        if !again then
          modPre port (fun p => { p with sending := some (f, fw, true) }) (s.countFld (Reg.PRE.CRC_COUNT port) 15 0 1)
        else
          let s1 := lasting (Page.PRE port) 2 0 {} s
          loseActuator port (if fw then s1.setBit (Reg.PRE.FW_RESULT port) 17 true else s1)
      else
        let s1 := if again then transient (Page.PRE port) 1 0 {} s else s
        let s2 := if f.read then s1 else preWritten port f s1
        let s3 := if fw then fwDone port f data.toNat s2 else s2
        preNext port (modPre port (fun p => { p with sending := none, wire := [] }) s3))

/-! ### Preamplifier faults (R154, R160) -/

/-- The port holds both write gates, reads FAULT_STATUS, clears it and watches. -/
def faultWatch (a status : Nat) (s : State) : State :=
  let s1 := (s.setFld (Reg.PRE.FAULT a) 15 0 status).setBit (Reg.PRE.FAULT a) 16 true
  cutActuator a 4 (modPre a (fun p => { p with hold := true, watch := true }) s1)

/-- PFAULT_ASSERT (R154, R160). -/
def execPfaultAssert (port : Nat) (status : BitVec 16) (s : State) : Host.Outcome State Fault Refusal :=
  .next (s.when (portUp s port && !s.bit (Reg.PRE.FAULT port) 16) (faultWatch port status.toNat))

/-- PFAULT_SETTLE (R160): transient, failed heads, or a lost actuator. -/
def execPfaultSettle (port : Nat) (released : Bool) (status : BitVec 16) (s : State) : Host.Outcome State Fault Refusal :=
  .next (s.when (portUp s port && (pre s port).watch) fun s =>
    let n := status.toNat
    if released then
      transient (Page.PRE port) 0 0 {}
        (modPre port (fun p => { p with hold := false, watch := false }) (s.setBit (Reg.PRE.FAULT port) 16 false))
    else
      preampFails port n (s.setFld (Reg.PRE.FAULT port) 15 0 n))

/-- FAULT_STATUS_POLL (R154): while the hold is released and PFAULT_N is low, a new bit restores the hold. -/
def execFaultStatusPoll (port : Nat) (status : BitVec 16) (s : State) : Host.Outcome State Fault Refusal :=
  .next (s.when (portUp s port && s.bit (Reg.PRE.FAULT port) 16 && !(pre s port).hold) fun s =>
    let n := status.toNat
    let new := n &&& (0xFFFF ^^^ (s.reg (Reg.PRE.HEAD_FAIL port)).toNat)
    let s1 := s.setFld (Reg.PRE.FAULT port) 15 0 n
    if new ≠ 0 then faultWatch port n s1 else if n = 0 then s1.setBit (Reg.PRE.FAULT port) 16 false else s1)

/-! ### Discovery (R152, R157 to R159) -/

/-- Discovery starts: the ports' domains come on and DIV is 16 (R157 step 1). -/
def startDiscovery (s : State) : State :=
  let s1 := switchOnAll [9, 10, 11, 12] s
  let s2 := (List.range 4).foldl (fun t a => if pageOn t (Page.PRE a) then t.setFld (Reg.PRE.SER_CFG a) 6 0 16 else t) s1
  { s2 with hda := { s2.hda with discovering := some s.time } }

/-- DISCOVER (R157, R158). -/
def execDiscover (req : Requester) (v : Word) (s : State) : Host.Outcome State Fault Refusal :=
  .next (s.when (bit v 0) (withWrite req Reg.HDA.CMD v fun s =>
    if s.hda.discovering.isSome then s
    else if s.bit Reg.HDA.DISC_STATUS 0 then raise Page.HDA 0 0 2 {} s
    else startDiscovery s))

/-- The preamplifier meets the limits of R152. -/
def capsOk (w : List (BitVec 16)) : Bool :=
  let r := fun i => (w.getD i 0#16).toNat
  let ones := ((List.range 16).filter fun h => (r 5).testBit h).length
  r 0 != 0xFFFF && r 1 / 256 == 1 && decide (1 ≤ r 2 % 8) && decide (r 2 % 8 ≤ 6) && r 2 / 16 % 8 == 2 && r 2 / 256 % 2 == 1
    && decide (4 ≤ r 3 % 8) && decide (1 ≤ r 3 / 16 % 8) && decide (r 3 / 16 % 8 ≤ 2) && decide (25 ≤ r 4) && decide (r 4 ≤ 255)
    && ones == r 2 % 8 && decide (r 6 ≤ 2000)

/-- The words read, kept in CAP0–10 and STATUS.HEADS. -/
def keepCaps (a : Nat) (w : List (BitVec 16)) (s : State) : State :=
  let s1 := (List.range 11).foldl (fun t i => t.setReg (Reg.PRE.CAP a i) (word (w.getD i 0#16).toNat)) s
  s1.setFld (Reg.STATUS (Page.PRE a)) 14 12 ((w.getD 2 0#16).toNat % 8)

/-- A probe in progress: what the line still has to bring, and whether a repeat has failed. -/
structure Probe where
  left : List (BitVec 24)
  failed : Bool
  st : State

/-- The next reply of the line; ones where nothing drives it. -/
def Probe.next (p : Probe) : BitVec 24 × Probe := (p.left.headD 0xFFFFFF#24, { p with left := p.left.drop 1 })

/-- A reply of all ones, data and CRC alike: no preamplifier answers (R150). -/
def allOnes : BitVec 24 := 0xFFFFFF#24

/-- One frame of a probe and its reply: a bad one is repeated once, a failed repeat is SERIAL_FAIL; a reply of ones is no error
(R150, R157). -/
def probeFrame (a : Nat) (read : Bool) (p : Probe) : BitVec 24 × Probe :=
  let good := fun x : BitVec 24 => tailGood read x || (read && x == allOnes)
  let (x, p1) := p.next
  if p.failed then (allOnes, p)
  else if good x then (x, p1)
  else
    let (y, p2) := p1.next
    let s1 := p.st.countFld (Reg.PRE.CRC_COUNT a) 15 0 1
    if good y then (y, { p2 with st := transient (Page.PRE a) 1 0 {} s1 })
    else (allOnes, { p2 with failed := true, st := lasting (Page.PRE a) 2 0 {} s1 })

/-- `n` reads, in order. -/
def probeReads (a : Nat) : Nat → Probe → List (BitVec 16) × Probe
  | 0, p => ([], p)
  | n + 1, p =>
    let (x, p1) := probeFrame a true p
    let (xs, p2) := probeReads a n p1
    (BitVec.ofNat 16 (tailData x) :: xs, p2)

/-- The preamplifier's faults are cleared, it is enabled, and FAULT_STATUS is read back into PRE.FAULT (R157 step 5). -/
def probeFaults (a : Nat) (p : Probe) : Nat × Probe :=
  let (_, p1) := probeFrame a false p
  let (_, p2) := probeFrame a false p1
  let (x, p3) := probeFrame a true p2
  let f := tailData x
  if p3.failed then (f, p3)
  else (f, { p3 with st := (p3.st.setFld (Reg.PRE.FAULT a) 15 0 f).setBit (Reg.PRE.FAULT a) 16 (f != 0) })

/-- A port PRESENT: ACT_POP, HEAD_FAIL and the failed members (R157, R158); a fault bit of a head not in HEADMASK names no head
(log entry 163). -/
def portPresent (a : Nat) (w : List (BitVec 16)) (faults : Nat) (s : State) : State :=
  let mask := (w.getD 5 0#16).toNat
  let s1 := (s.setCritFld 3 a a 1).setCritFld 3 (4 * a + 10) (4 * a + 8) ((w.getD 2 0#16).toNat % 8)
  let bad := faults % 64 &&& mask
  (List.range 6).foldl (fun t h => if bad.testBit h then failMember (6 * a + h) t else t)
    ((modPre a (fun p => { p with mask := mask, settle := (w.getD 6 0#16).toNat }) s1).setReg (Reg.PRE.HEAD_FAIL a) (word bad))

/-- The outcome of steps 2 to 5 of R157: the code of PROBE, and the state. -/
def probePort (a : Nat) (r : ProbeReply) (s : State) : Nat × State :=
  let (id0, p0) := probeFrame a true ⟨r.tails, false, s.setBit (Reg.PRE.FAULT a) 16 r.pfault⟩
  let (id1, p1) := if id0 = allOnes then probeFrame a true p0 else (id0, p0)
  if p1.failed then (4, p1.st)
  else if id1 = allOnes then (2, p1.st)
  else
    let (w, p2) := probeReads a 11 p1
    if p2.failed then (4, p2.st)
    else if !capsOk w then (3, keepCaps a w p2.st)
    else
      let (f, p3) := probeFaults a { p2 with st := keepCaps a w p2.st }
      if p3.failed ∨ f / 64 % 4 ≠ 0 ∨ f / 256 ≠ 0 then (4, p3.st) else (1, portPresent a w f p3.st)

/-- A port has been probed (R157 steps 2 to 6). -/
def portProbed (a : Nat) (r : ProbeReply) (s : State) : State :=
  let (c, t) := probePort a r s
  raise (Page.PRE a) 3 0 c {} (t.setFld (Reg.STATUS (Page.PRE a)) 9 8 (if c = 1 then 1 else 2))

/-- DISCOVERY_DONE (R157, R158). -/
def execDiscoveryDone (replies : List ProbeReply) (s : State) : Host.Outcome State Fault Refusal :=
  match s.hda.discovering with
  | none => .next s
  | some t0 =>
    let ports := (List.range 4).filter fun a => pageOn s (Page.PRE a)
    let s1 := ports.foldl (fun t a => portProbed a (replies.getD a ⟨false, []⟩) t) { s with hda := { s.hda with discovering := none } }
    let s2 := s1.setReg Reg.HDA.DISC_STATUS (word (1 + min 0xFFFF ((s.time - t0) / 1000) * 65536))
    let s3 := raise Page.HDA 0 0 1 {} s2
    .next (ports.foldl (fun t a => if t.critFld 3 a a = 1 then t else domainOff (9 + a) t) s3)

/-- ACTUATOR_RETIRE (R159, R160): a write of ACT_POP changes LOST from 0 to 1 and nothing else. -/
def execActuatorRetire (req : Requester) (addr : Addr) (v : Word) (s : State) : Host.Outcome State Fault Refusal :=
  .next (critWriteAt 3 req addr v (fun s => (List.range 4).foldl (fun t a => if bit v (4 + a) then loseActuator a t else t) s) s)

/-! ### Temperatures and load (R162, R163) -/

/-- A reading of a diode: out of range, or more than 5 °C from the last (R162). -/
def diodeBad (d : Diode) (x : Int) : Bool :=
  decide (x < -400) || decide (1250 < x) || d.last.any fun l => decide (50 < (x - l).natAbs)

/-- Diode `i` is read. -/
def readDiode (i : Nat) (d : Diode) (x : Int) (s : State) : Diode × State :=
  if d.failed then (d, s)
  else if diodeBad d x then
    if d.suspect then ({ d with failed := true, suspect := false }, lasting Page.HDA 1 i {} s) else ({ d with suspect := true }, s)
  else ({ d with last := some x, suspect := false }, if d.suspect then transient Page.HDA 1 i {} s else s)

def diodeWord (d : Diode) (x : Int) : Word := word (fld (sword x) 15 0 + if d.failed then 2 ^ 31 else 0)

/-- TEMP_UPDATE (R162); the mean is rounded toward zero, and with both diodes failed TEMP keeps its last value (log entries 64, 164). -/
def execTempUpdate (d0 d1 : Int) (s : State) : Host.Outcome State Fault Refusal :=
  .next (s.when (blockRuns s Page.HDA) fun s =>
    let (x0, s1) := readDiode 0 s.hda.d0 d0 s
    let (x1, s2) := readDiode 1 s.hda.d1 d1 s1
    let s3 := ({ s2 with hda := { s2.hda with d0 := x0, d1 := x1 } }.setReg Reg.HDA.DIODE0 (diodeWord x0 d0)).setReg
      Reg.HDA.DIODE1 (diodeWord x1 d1)
    let good := [x0, x1].filterMap fun d => if d.failed then none else d.last
    match good with
    | [] => s3.setBit Reg.HDA.TEMP 31 false
    | ts => s3.setReg Reg.HDA.TEMP (word (fld (sword ((ts.foldl (· + ·) 0).tdiv ts.length)) 15 0 + 2 ^ 31)))

/-- TLI_UPDATE (R163): the pulses of the last 100 ms, less the time the gates stood low within them (log entry 163). -/
def execTliUpdate (lowNs : Nat) (s : State) : Host.Outcome State Fault Refusal :=
  .next (s.when (blockRuns s Page.HDA) fun s =>
    let nAct := ((List.range 4).filter fun a => pageOn s (Page.RUDDER a) && rudState s a == 3).length
    let lanes := max 2 (2 * ((List.range 4).filter fun a => s.critFld 3 a a == 1).length)
    let wgNs := gateHigh s.time s.hda.pulses - lowNs
    let duty := min 127 (127 * wgNs / (lanes * 100000000))
    ({ s with hda := { s.hda with pulses := recentPulses s.time s.hda.pulses } }).setReg Reg.HDA.TLI
      (word (min 255 (32 * nAct + duty) + nAct * 256 + duty * 65536)))

/-! ### Calibration records (R164 to R166) -/

/-- CAL_LOAD (R165). -/
def execCalLoad (req : Requester) (v : Word) (s : State) : Host.Outcome State Fault Refusal :=
  .next (s.when (bit v 0) (withWrite req Reg.CAL.CMD v fun s =>
    s.when (s.cal.load.isNone && blockRuns s Page.CAL) fun s =>
      let n := s.fld Reg.CAL.LOAD_COUNT 10 0
      let off := s.reg64 Reg.CAL.LOAD_ADDR_LO / 64 * 64
      modCal (fun c => { c with load := some (off, min 1536 (max 1 n)) }) s))

/-- The conditions of R164. -/
def recordValid (s : State) (r : List Word) : Bool :=
  let w0 := r.getD 0 0#32
  fld w0 31 24 == 1 && bit w0 0 && decide (fld w0 23 16 < 24) && headPresent s (fld w0 23 16 / 6) (fld w0 23 16 % 6)
    && crcWords (r.take 15) == r.getD 15 0#32

/-- A record is stored at the index of its own HEAD and ZONE. -/
def storeRecord (r : List Word) (s : State) : State :=
  let i := calIndex (fld (r.getD 0 0#32) 23 16) (fld (r.getD 0 0#32) 13 8)
  modCal (fun c => { c with records := SMap.set (fun _ => none) c.records i (some r), stale := SMap.set (fun _ => false) c.stale i false
                            missed := SMap.set (fun _ => false) c.missed i false }) s

/-- Record `i` of the load: fetched, and once more when it fails (R165). CAL_BAD carries the DRAM offset's low 32 bits (log entry
163). -/
def loadRecord (base : Nat) (firstBad : List Nat) (s : State) (i : Nat) : State :=
  let off := base + 64 * i
  let x := fetchWords true 0x30 off 16 s
  if x.2.1 && recordValid s x.1 && !firstBad.contains i then storeRecord x.1 x.2.2
  else
    let y := fetchWords true 0x30 off 16 x.2.2
    let pl : Payload := ⟨word (fld (y.1.getD 0 0#32) 23 16), word (fld (y.1.getD 0 0#32) 13 8), loWord off⟩
    if y.2.1 && recordValid s y.1 then transient Page.CAL 3 0 pl (storeRecord y.1 y.2.2) else lasting Page.CAL 3 0 pl y.2.2

/-- CAL_LOAD_DONE (R165). -/
def execCalLoadDone (firstBad : List Nat) (s : State) : Host.Outcome State Fault Refusal :=
  match s.cal.load with
  | none => .next s
  | some (base, n) =>
    .next (s.when (blockAlive s Page.CAL) (underCredit (.load Page.CAL) fun s =>
      (List.range n).foldl (loadRecord base firstBad) (modCal (fun c => { c with load := none }) s)))

/-- Every sector of the write job of Oar `o` is verified, the good ones already written included (R166). -/
def verifyJob (o : Nat) (s : State) : State :=
  match (oar s o).job with
  | none => s
  | some j =>
    if jobType j ≠ 2 then s
    else (jobEntries j).foldl (fun t e => modEntry o e (fun y =>
      if y.state = 10 ∧ y.cause = 0 then { y with state := 8, verify := true, reading := 2, taken := false }
      else { y with verify := true }) t) s

/-- ENVELOPE_CHECK (R165 to R167): the record of the head and zone in use, a job in progress keeping the one it began with, and the levels
applied. -/
def execEnvelopeCheck (o : Nat) (s : State) : Host.Outcome State Fault Refusal :=
  .next (s.when (decide (o < 16) && blockRuns s Page.CAL && portUp s (oarAct o)) fun s =>
    match calUse s o with
    | none => s
    | some (h, z) =>
      let m := memberOf o h
      let r := calRecordOf s o m z
      let s1 := calCompare m z r s
      let s2 := if !calStale s m z && calStale s1 m z then verifyJob o s1 else s1
      preLevels (oarAct o) h (calLevels s2 m z r) s2)

/-! ### Wedges (R230, R231) -/

/-- The fraction of a track, in 1/4,096, that the amplitudes of the null bursts give: N1 nulls on every track centre line, N2 half a track
away, and both change phase every track (R229, R230, R300; log entry 151). -/
def burstFraction (n1 n2 : Int) : Nat :=
  if n1 = 0 ∧ n2 = 0 then Config.burstNone % 4096 else (quarterTurns n1 n2 * 2048).floor.toNat % 4096

/-- The place nearest to track `t` with that fraction: the track identifier changes half-way between centre lines (R230, R300). -/
def wedgePlace (t f : Nat) : Int := (t * 4096 : Int) + f - (if 2048 ≤ f then 4096 else 0)

/-- `ns` is within the `part`-th part of the wedge interval at the present speed. -/
def inWindow (s : State) (part ns : Nat) : Bool := decide (part * ns * (keelSpeed s * 640) ≤ 60000000000 * 65536)

/-- WEDGE_DEMOD (R230, R231): the front end of a used slot delivers the wedge result. -/
def execWedgeDemod (a k : Nat) (mark : WedgeMark) (wedge gray : Nat) (bursts : NullBursts) (s : State) : Host.Outcome State Fault Refusal :=
  .next (s.when (decide (a < 4) && decide (k < 4) && blockAlive s (Page.OAR (4 * a + k)) && rudAlive s a && (rudSlot s a k).used
      && slotOn s a k && slotHead s a k == (rudSlot s a k).head) fun s =>
    let x := rudSlot s a k
    let (_, sep, s1) := if s.bit (Reg.OAR.FE_CTRL (4 * a + k)) 0 then (0, 0, s) else calOffsets s a x.head x.zone
    let pos := max 0 (wedgePlace (grayDecode gray) (burstFraction bursts.n1 bursts.n2) - sep)
    let r : WedgeResult := ⟨decide (mark.symErrors ≤ 2) && inWindow s (if rudState s a = 4 then 4 else 64) mark.skewNs, wedge, (pos / 4096).toNat, (pos % 4096).toNat⟩
    modSlot a k (fun y => { y with demod := some r }) s1)

/-! ### The end of a retract (R200, R201) -/

/-- Once every actuator is parked after PWR_FAIL, D9 to D12 go off (R33 step 7); in SAFE, PARKED, Keel is stopped (R480 step 4). -/
def parkedOff (s : State) : State :=
  if !allParked s then s
  else if pwrFailing s then domainsOff [9, 10, 11, 12] s
  else if inSafe s && s.power.readOnly == some false then keelHalts s
  else s

/-- PARK_DETECT (R200): parked, or the second load begins (R199). -/
def execParkDetect (a : Nat) (coil : CoilSense) (heldUs : Nat) (s : State) : Host.Outcome State Fault Refusal :=
  .next (s.when (rudAlive s a && (rudState s a == 5 || rudState s a == 6) && !(rud s a).latched && (rud s a).currentStart.isNone && decide (2000 ≤ heldUs)
      && decide (20 * (armVelocity s a coil.coilMv coil.coilMa).natAbs < 1000 * s.fld (Reg.RUDDER.LOAD_CFG a) 31 16)
      && decide (s.fld (Reg.RUDDER.COIL_CFG a) 11 0 < 2 * coil.coilMa.natAbs)) fun s =>
    if (rud s a).reload then startLoad a (rud s a).loadHead true (driveCoil a 0 s)
    else parkedOff (parkNow a (rud s a).parkFault false s))

/-- RETRACT_TIMEOUT (R201): park has not been detected; the retract current runs. -/
def execRetractTimeout (a : Nat) (s : State) : Host.Outcome State Fault Refusal :=
  .next (s.when (rudAlive s a && (rudState s a == 5 || rudState s a == 6) && !(rud s a).latched && (rud s a).currentStart.isNone
      && decide ((rud s a).driveStart + 300000000 ≤ s.time)) fun s =>
    driveCoil a (retractMa s a) (modRud a (fun r => { r with currentStart := some s.time, reload := false }) s))

/-- RETRACT_CURRENT_END (R201): PARKED_FAULT, the park uncertain. -/
def execRetractCurrentEnd (a : Nat) (s : State) : Host.Outcome State Fault Refusal :=
  .next (s.when (rudAlive s a && (rud s a).currentStart.any (fun t => decide (t + 100000000 ≤ s.time))) fun s =>
    parkedOff (parkNow a true true s))

end Sys2Proof.Machine
end

