-- ==== Sys2Proof/Machine/Intake.lean ====
section
/-! DEFINITION. Commands from their frame to their hand-over: intake and the fast path's decode (R400 to R402, R404 to R406, R416, R419,
R421, R433 to R435, R481). The layouts of the CDBs are SCSI's (log entry 21). -/

namespace Sys2Proof.Machine

/-! ### COMMAND_FRAME (R400 to R402) -/

/-- The LUN of single-level peripheral device addressing. -/
def singleLun (bs : List Byte) : Option Nat :=
  match bs with
  | b0 :: b1 :: rest => if b0 = 0#8 ∧ rest.length = 6 ∧ rest.all (· == 0#8) then some b1.toNat else none
  | _ => none

/-- The frame passes the checks of R400. -/
def frameLun (f : CommandFrame) : Option Nat :=
  if f.addLen ≤ 4 ∧ f.cdb.length = 16 + 4 * f.addLen then singleLun f.lun else none

/-- The lowest task index that no record holds. -/
def freeTaskIndex (s : State) : Option Nat := (List.range 8192).find? fun i => !(s.slip.tasks.any (·.index == i))

/-- A new task. -/
def newTask (s : State) (i n lane lun : Nat) (f : CommandFrame) : HostTask :=
  { id := s.slip.nextId, index := i, credit := true, nexus := n, tag := f.tag, lun := lun, attr := f.attr, prio := f.prio, cdb := f.cdb
    lane := lane, accepted := s.time, stage := 0, passed := none, op := 0, forLu := false, lba := 0, blocks := 0, fua := false, protect := false, tags := none
    buffer := none, haz := none, order := 0, writeSeq := 0, aborted := false, committed := false, reported := false, answer := none
    drainFirst := false, held := false, through := false, asked := 0, xrdy := none, received := 0, sent := 0, carry := [], hold := []
    holdAt := 0, reserved := 0, dtab := false, poisoned := none, todo := [], handed := [], toCrew := [], landVerify := false, landed := []
    failed := false, sources := [] }

/-- The packet of the command intake queue: TYPE 0x01, the task index in word 1 (its layout is Slipway's own). -/
def intakePacket (s : State) (t : HostTask) : List Word := [pktHeader 2 (taskPrio s t.attr t.prio) false 1 t.tag, word t.index]

/-- TASK SET FULL (R400). -/
def taskSetFull (lane n : Nat) (f : CommandFrame) (s : State) : State :=
  let s1 := s.count Reg.SLIPC.TASK_SET_FULL_COUNT 1
  let s2 := if quietFor1ms s.slip.fullTime s then raise Page.SLIPC 0 0 0 ⟨word n, 0#32, 0#32⟩ s1 else s1
  replyFrame lane n f.tag false 0x28 [] (modSlip (fun r => { r with fullTime := some s.time }) s2)

/-- A frame that passed the checks becomes a task. -/
def acceptCommand (lane n lun : Nat) (f : CommandFrame) (s : State) : State :=
  match freeTaskIndex s with
  | none => taskSetFull lane n f s
  | some i =>
    if 8192 ≤ (heldTasks s).length then taskSetFull lane n f s
    else
      let t := newTask s i n lane lun f
      match qPush .intake (0x2C + lane) (intakePacket s t) s with
      | some (v, .taken) =>
        modSlip (fun r => { r with tasks := r.tasks ++ [t], nextId := r.nextId + 1
                                   activity := match r.activity with
                                     | some a => if (heldTasks s).isEmpty ∧ a + 1000000 * s.fld Reg.SLIPC.SIDEBAND 15 8 ≤ s.time
                                         then some s.time else some a
                                     | none => some s.time }) v
      | some (v, .fault) => replyFrame lane n f.tag false 2 (checkCondition s lun 4 0x44 0 none).sense v
      | _ => s

/-- COMMAND_FRAME (R400, R401): a frame of nexus `n`. While the intake queue is full the lane withholds receiver credit and the
frame is not taken (R92). -/
def execCommandFrame (lane n : Nat) (f : CommandFrame) (s : State) : Host.Outcome State Fault Refusal :=
  .next (s.when (laneServes s lane n) fun s =>
    match frameLun f with
    | none => replyFrame lane n f.tag true 2 [] (raise (Page.SLIP lane) 4 0 0 ⟨0x1FFF#32, 0#32, 0#32⟩ s)
    | some lun =>
      if (taskOf s n f.tag).isSome then
        hostDrain (replyFrame lane n f.tag false 2 (checkCondition s lun 0xB 0x4E 0 none).sense (endNexusTasks n s))
      else acceptCommand lane n lun f s)

/-! ### CDBs -/

def cdbByte (c : List Byte) (i : Nat) : Nat := (c.getD i 0#8).toNat
def cdbField (c : List Byte) (i n : Nat) : Nat := beNat ((List.range n).map fun k => c.getD (i + k) 0#8)

/-- Operation code; service action of a 32-byte CDB. -/
def cdbOp (c : List Byte) : Nat := cdbByte c 0
def cdbAction (c : List Byte) : Nat := cdbField c 8 2

/-- Length of the CDB by its operation code's group. -/
def cdbLen (c : List Byte) : Nat :=
  let g := cdbOp c / 32
  if cdbOp c = 0x7F then clampNat 6 32 (8 + cdbByte c 7)
  else if g = 0 then 6 else if g ≤ 2 then 10 else if g = 4 then 16 else if g = 5 then 12 else min 32 c.length

/-- A command of the fast path (R404): 1 read, 2 write, 3 verify. -/
structure FastCdb where
  op : Nat
  lba : Nat
  blocks : Nat
  fua : Bool
  prot : Nat
  bytchk : Nat
  tags : Option (Nat × Nat × Nat)

def fastCdb (c : List Byte) : Option FastCdb :=
  let b1 := cdbByte c 1
  let b10 := cdbByte c 10
  let short := fun op : Nat => (⟨op, cdbField c 2 8, cdbField c 10 4, op != 3 && b1.testBit 3, b1 / 32, if op = 3 then b1 / 2 % 4 else 0, none⟩ : FastCdb)
  let long := fun op : Nat =>
    (⟨op, cdbField c 12 8, cdbField c 28 4, b10.testBit 3, b10 / 32, 0, some (cdbField c 20 4, cdbField c 24 2, cdbField c 26 2)⟩ : FastCdb)
  if c.length = 16 ∧ cdbOp c = 0x88 then some (short 1)
  else if c.length = 16 ∧ cdbOp c = 0x8A then some (short 2)
  else if c.length = 16 ∧ cdbOp c = 0x8F then some (short 3)
  else if c.length = 32 ∧ cdbOp c = 0x7F ∧ cdbByte c 7 = 0x18 ∧ cdbAction c = 0x9 then some (long 1)
  else if c.length = 32 ∧ cdbOp c = 0x7F ∧ cdbByte c 7 = 0x18 ∧ cdbAction c = 0xB then some (long 2)
  else none

/-- What the write-once rule does with a CDB (R419). -/
inductive WoKind where
  | free
  | never (lba : Option Nat)
  | range (lba blocks : Nat)

/-- The range of a CDB under R419; WRITE SAME with 0 blocks runs to the end of a unit of `cap` blocks. -/
def woKind (cap : Nat) (c : List Byte) : WoKind :=
  let op := cdbOp c
  let same := fun lba n : Nat => WoKind.range lba (if n = 0 then cap - lba else n)
  if op = 0x0A then .range (cdbField c 1 3 % 2 ^ 21) (if cdbByte c 4 = 0 then 256 else cdbByte c 4)
  else if op = 0x2A ∨ op = 0x2E then .range (cdbField c 2 4) (cdbField c 7 2)
  else if op = 0xAA ∨ op = 0xAE then .range (cdbField c 2 4) (cdbField c 6 4)
  else if op = 0x8A ∨ op = 0x8E ∨ op = 0x8B then .range (cdbField c 2 8) (cdbField c 10 4)
  else if op = 0x41 then same (cdbField c 2 4) (cdbField c 7 2)
  else if op = 0x93 then same (cdbField c 2 8) (cdbField c 10 4)
  else if op = 0x89 then .range (cdbField c 2 8) (cdbByte c 13)
  else if op = 0x9C then .range (cdbField c 2 8) (cdbField c 12 2)
  else if op = 0x7F ∧ (cdbAction c = 0xB ∨ cdbAction c = 0xC ∨ cdbAction c = 0xE) then .range (cdbField c 12 8) (cdbField c 28 4)
  else if op = 0x7F ∧ cdbAction c = 0xD then same (cdbField c 12 8) (cdbField c 28 4)
  else if op = 0x42 ∨ op = 0x04 ∨ op = 0x48 then .never none
  else if op = 0x3F then .never (some (cdbField c 2 4))
  else if op = 0x9F ∧ (cdbByte c 1 % 32 = 0x11 ∨ cdbByte c 1 % 32 = 0x12) then .never (some (cdbField c 2 8))
  else .free

/-! ### The LU table in DRAM (R417, R419) -/

/-- Usable offset of the LU table: ROOT (critical words 10 and 11). -/
def lutRoot (s : State) : Nat := (s.critVal 10).toNat / 4096 * 4096 + s.critFld 11 7 0 * 2 ^ 32

/-- WO_PTR moves on: on die, and in the DRAM entry with a fresh CRC (R419). -/
def setWoPtr (n : Nat) (u : Lu) (ptr : Nat) (s : State) : State :=
  let ws := (u.words.set 6 (loWord ptr)).set 7 (hiWord ptr)
  let ws := ws.set 15 (crcWords (ws.take 15))
  setLu n (some { u with words := ws }) (storeBytes (lutRoot s + 64 * n) (ws.flatMap fun w => toBytes 4 w.toNat) s)

/-- The write-once rule refuses a command: WO_REFUSED, and DATA PROTECT (R405, R419). -/
def woRefuse (t : HostTask) (lba : Option Nat) (s : State) : State :=
  giveAnswer t.id (checkCondition s t.lun 7 0x27 0 lba) (raise Page.LUT 2 0 0 ⟨word t.lun, loWord (lba.getD 0), word t.nexus⟩ s)

/-- The write-once check of a command on a unit with WO_MODE not 0: none when it is refused and answered, else the state in which it
goes on (R419). -/
def woCheck (t : HostTask) (s : State) : Bool × State :=
  match taskLu s t with
  | none => (true, s)
  | some u =>
    if luWo u = 0 ∨ !luEnabled s t.lun then (true, s)
    else
      match woKind (luCapacity u) t.cdb with
      | .free => (true, s)
      | .never a => (false, woRefuse t a s)
      | .range lba n =>
        if (luWo u = 1 ∧ lba = luWoPtr u) ∨ (luWo u = 2 ∧ luWoPtr u ≤ lba) then (true, setWoPtr t.lun u (lba + n) s)
        else (false, woRefuse t (some lba) s)

/-! ### Hand-over to firmware (R416) -/

/-- The Stroke core of a LUN. -/
def fwCore (s : State) (lun : Nat) : Nat :=
  if lun < 64 then s.fld (Reg.SLIPC.FW_ROUTE (lun / 16)) (2 * (lun % 16) + 1) (2 * (lun % 16)) else s.fld Reg.SLIPC.INTAKE_CFG 5 4

/-- Four bytes of a CDB as a word, the first in [7:0]. -/
def cdbWord (c : List Byte) (i : Nat) : Word := word (ofBytes ((List.range 4).map fun k => c.getD (4 * i + k) 0#8))

/-- The packet of R416. -/
def fwPacket (s : State) (t : HostTask) (reason : Nat) : List Word :=
  [pktHeader 16 (taskPrio s t.attr t.prio) false 1 t.index, word (t.index + t.nexus * 65536 + nexusPort s t.nexus % 2 * 2 ^ 22),
   word (t.tag % 65536 + t.attr % 8 * 65536 + t.prio % 16 * 2 ^ 20), word (t.lun % 64 + (if t.lun < 64 then 64 else 0) + reason * 256)]
  ++ (List.range 8).map (cdbWord t.cdb) ++ [word (cdbLen t.cdb), 0#32, 0#32, 0#32]

/-- Hand the task to firmware; none while the core's queue does not take it. -/
def handOver (t : HostTask) (reason : Nat) (s : State) : Option State :=
  let ws := fwPacket s t reason
  match qPush (.firmware (BitVec.ofNat 2 (fwCore s t.lun)).toFin) 0x3F ws s with
  | some (v, .fault) => some (failTask t.id 4 0x44 0 none v)
  | some (v, _) => some (modTask t.id (fun x => { x with stage := 2, passed := some (fwCore s t.lun % 4, ws), forLu := luEnabled s t.lun, held := false })
      (firmwarePushed v))
  | none => none

/-- The Stroke core runs, for R481. -/
def coreServes (s : State) (c : Nat) : Bool := pageOn s (Page.STROKE c) && !inMachineCheck s (Page.STROKE c)

/-! ### FAST_PATH_DECODE (R404, R405, R433) -/

/-- The reason for which a command goes to firmware (R404, R416); none for one that the fast path serves. -/
def fwReason (s : State) (t : HostTask) : Option Nat :=
  match fastCdb t.cdb with
  | none => some 1
  | some c =>
    match taskLu s t with
    | none => some (if t.attr = 4 then 4 else 2)
    | some u =>
      let size := bufferSize s { t with lba := c.lba, blocks := c.blocks }
      if t.attr = 4 then some 4
      else if !luEnabled s t.lun then some 2
      else if uaBit s t.nexus t.lun then some 3
      else if luPi u ≠ 0 ∧ (1 < c.prot ∨ (c.prot ≠ 0 ∧ luPi u = 2 ∧ c.tags.isNone)) then some 4
      else if c.bytchk ≠ 0 then some 4
      else if s.fld Reg.LUT.MAX_XFER 16 0 < c.blocks then some 5
      else if s.fld Reg.SLIPC.HBUF_SIZE 15 0 = 0 then some 6
      else if luCapacity u < c.lba + c.blocks ∨ (c.prot ≠ 0 ∧ luPi u = 0) then none
      else if s.fld Reg.SLIPC.HBUF_SIZE 15 0 * 2 ^ 20 < size then some 5
      else none

/-- The answer that a served command receives at once, before the write-once rule (R405). -/
def fastAnswer (s : State) (t : HostTask) (u : Lu) (c : FastCdb) : Option Answer :=
  if c.blocks = 0 then some ⟨0, []⟩
  else if luCapacity u < c.lba + c.blocks then some (checkCondition s t.lun 5 0x21 0 none)
  else if c.prot ≠ 0 ∧ luPi u = 0 then some (checkCondition s t.lun 5 0x24 0 none)
  else none

/-- The answer of R481 to a fast-path command in SAFE. -/
def safeAnswer (s : State) (t : HostTask) (c : FastCdb) : Option Answer :=
  if mode s ≠ 7 then none
  else if s.power.readOnly ≠ some true then some (checkCondition s t.lun 2 0x04 3 none)
  else if c.op = 2 then some (checkCondition s t.lun 7 0x27 0 none)
  else none

/-- A command that the fast path serves: answered at once, or entered (R405, R406); one that needs media work is an exit trigger (R462). -/
def serveCommand (t : HostTask) (u : Lu) (c : FastCdb) (s : State) : State :=
  let s0 := modTask t.id (fun x => { x with stage := 1, forLu := true, held := false }) s
  match (safeAnswer s t c).or (fastAnswer s t u c) with
  | some a => giveAnswer t.id a s0
  | none =>
    let w := woCheck t s0
    if u.state = 3 then failTask t.id 4 0x44 0 none s0
    else if !w.1 then w.2
    else
      hostDrain (enterTask t.id (exitTrigger (modTask t.id (fun x =>
        { x with op := c.op, lba := c.lba, blocks := c.blocks, fua := c.fua, protect := c.prot != 0, tags := c.tags }) w.2)))

/-- A command that firmware is to serve: the write-once rule comes first, and in SAFE its core must run (R419, R481). None while the
core's queue does not take it. -/
def passCommand (t : HostTask) (reason : Nat) (s : State) : Option State :=
  if mode s = 7 ∧ !coreServes s (fwCore s t.lun) then
    some (failTask t.id 2 0x04 3 none (modTask t.id (fun x => { x with stage := 1, held := false }) s))
  else if pushStatus s (.firmware (BitVec.ofNat 2 (fwCore s t.lun)).toFin) = .full
      ∨ pushStatus s (.firmware (BitVec.ofNat 2 (fwCore s t.lun)).toFin) = .busy then none
  else
    let w := woCheck t s
    if w.1 then handOver t reason w.2 else some (modTask t.id (fun x => { x with stage := 1, held := false }) w.2)

/-- An ORDERED task stands before the task, or the task is ORDERED and an earlier one of its unit is held (R433). -/
def orderHeld (s : State) (t : HostTask) : Bool :=
  t.attr != 1 && (heldTasks s).any fun x => x.lun == t.lun && decide (x.id < t.id) && (t.attr == 2 || x.attr == 2)

/-- A parity error met in the LU table's store: the entry is fetched again (R421). -/
def lutParity (n : Nat) (s : State) : State :=
  match lu s n with
  | none => s
  | some u =>
    let pl : Payload := ⟨word n, 0#32, 0#32⟩
    let r := fetchWords true 0x2C (lutRoot s + 64 * n) 16 s
    if r.2.1 && crcWords (r.1.take 15) == r.1.getD 15 0#32 then transient Page.LUT 3 0 pl (setLu n (some { u with words := r.1 }) r.2.2)
    else lasting Page.LUT 3 0 pl (setLu n (some { u with state := if u.state = 2 then 2 else 3 }) r.2.2)

/-- Copies of a hazard entry differ: one serves, or the device enters SAFE (R435). -/
def hazParity (e : Nat) (lost : Bool) (s : State) : State :=
  if (hazEntry s e).isNone then s
  else if lost then safeCause (sourceOf Page.HAZ 2) (lasting Page.HAZ 2 0 ⟨word e, 0#32, 0#32⟩ s)
  else transient Page.HAZ 2 0 ⟨word e, 0#32, 0#32⟩ s

/-- Decode task `t`; none while it must stay in the intake queue. -/
def decodeTask (t : HostTask) (lutBad : Bool) (s : State) : Option State :=
  let s1 := if lutBad then lutParity t.lun s else s
  match fwReason s1 t, fastCdb t.cdb, taskLu s1 t with
  | none, some c, some u => some (serveCommand t u c s1)
  | some r, _, _ => passCommand t r s1
  | none, _, _ => passCommand t 1 s1

/-- FAST_PATH_DECODE (R404, R433, R434): `lutBad` a parity error met in the LU table, `haz` a hazard entry whose copies differ and
whether neither passes parity. -/
def execFastPathDecode (lutBad : Bool) (haz : Option (Nat × Bool)) (s : State) : Host.Outcome State Fault Refusal :=
  .next (s.when (slipAlive s && pageOn s Page.HAZ) fun s =>
    let s1 := hostDrain (match haz with
      | some (e, lost) => hazParity e lost s
      | none => s)
    if (hazFree s1).isNone then sayFull s1
    else
      match qFront .intake s1, qNext .intake s1 with
      | some it, some (_, after) =>
        match taskAt s1 ((it.words.getD 1 0#32).toNat) with
        | none => after
        | some t =>
          if t.aborted || t.answer.isSome || t.stage != 0 then after
          else if orderHeld s1 t then
            (if t.held then s1 else (modTask t.id (fun x => { x with held := true }) s1).count Reg.HAZ.WAIT_COUNT 1)
          else (decodeTask t lutBad after).getD s1
      | _, _ => s1)

/-- HOST_BUFFER_ALLOC (R406): the command that has waited longest takes its buffer once it fits. -/
def execHostBufferAlloc (s : State) : Host.Outcome State Fault Refusal :=
  .next (s.when (slipAlive s) fun s =>
    let s1 := hostDrain s
    match bufferWaiters s1 with
    | t :: _ => hostDrain (enterTask t.id s1)
    | [] => s1)

end Sys2Proof.Machine
end

