-- ==== Sys2Proof/Machine/DumpOps.lean ====
section
/-! DEFINITION. The safe store: its NAND, its areas, what a dump holds, how its pages are written and read, and its health
(R470 to R479). -/

namespace Sys2Proof.Machine

def modSafe (f : SafeStore → SafeStore) (s : State) : State := { s with safe := f s.safe }

/-! ### The NAND and its areas (R470, R473, R485) -/

def noPage : Nat → Option NandPage := fun _ => none

/-- Bytes of a NAND page. -/
def nandPageBytes (s : State) : Nat := 2048 * 2 ^ s.safe.nand.page

/-- First block of an area (0 A, 1 B) and its blocks. -/
def areaFirst (s : State) (a : Nat) : Nat := s.critFld (17 + a) 23 0
def areaBlocks (s : State) : Nat := s.fld Reg.SAFE.AREA_SIZE 23 0

/-- ACTIVE.NEXT; an area holds an unreleased dump. -/
def nextArea (s : State) : Nat := s.critFld 19 0 0
def areaHeld (s : State) (a : Nat) : Bool := s.critFld 19 (1 + a) (1 + a) == 1

/-- Blocks of an area in ascending order, without those marked bad at the factory (R473). -/
def goodBlocks (s : State) (a : Nat) : List Nat :=
  ((List.range (areaBlocks s)).map (areaFirst s a + ·)).filter fun b => !s.safe.nand.bad.contains b

/-- Blocks of an area with the factory mark. -/
def badBlocks (s : State) (a : Nat) : Nat := areaBlocks s - (goodBlocks s a).length

/-- The NAND page lies in area `a`. -/
def inArea (s : State) (a k : Nat) : Bool :=
  decide (areaFirst s a ≤ nandBlockOf s k) && decide (nandBlockOf s k < areaFirst s a + areaBlocks s)

/-- Every page of the area is erased. -/
def areaErased (s : State) (a : Nat) : Bool := !s.safe.nand.pages.any fun e => inArea s a e.1

/-- First page of the area, the page that follows `k`, and the first page of the next good block behind `k`. -/
def firstPlace (s : State) (a : Nat) : Option Nat := ((goodBlocks s a).head?).map (· * s.safe.nand.perBlock)
def blockPlace (s : State) (a k : Nat) : Option Nat :=
  ((goodBlocks s a).find? fun b => decide (nandBlockOf s k < b)).map (· * s.safe.nand.perBlock)
def nextPlace (s : State) (a k : Nat) : Option Nat :=
  if nandBlockOf s (k + 1) = nandBlockOf s k then some (k + 1) else blockPlace s a k

def setNandPage (k : Nat) (p : Option NandPage) (s : State) : State :=
  modSafe (fun x => { x with nand := { x.nand with pages := SMap.set noPage x.nand.pages k p } }) s

/-- Every programmed page of the area goes (R471); the blocks in `worn` keep theirs. -/
def eraseArea (a : Nat) (worn : List Nat) (s : State) : State :=
  modSafe (fun x => { x with nand := { x.nand with
    pages := SMap.keep (fun k => !inArea s a k || worn.contains (nandBlockOf s k)) x.nand.pages } }) s

/-- The stream of a dump as a reader takes it: pages of its DUMP_SEQ with the next index, in order (R473). -/
def streamOf (s : State) (a seq : Nat) : List (List Byte) :=
  (s.safe.nand.pages.foldl (fun (t : List (List Byte) × Nat) e => match e.2 with
    | some p => if inArea s a e.1 ∧ p.good ∧ p.seq = seq % 65536 ∧ p.index = t.2 then (p.bytes :: t.1, t.2 + 1) else t
    | none => t) ([], 0)).1.reverse

/-! ### Header, directory, END and release pages (R472) -/

/-- The header words of the area's dump, when its header page is good. -/
def dumpHeader (s : State) (a : Nat) : Option (List Word) :=
  (s.safe.nand.pages.findSome? fun e => match e.2 with
    | some p => if inArea s a e.1 ∧ p.good ∧ p.index = 0 then some (bytesToWords (p.bytes.take 512)) else none
    | none => none).bind fun ws =>
      if ws.getD 0 0#32 = 0x5E5AFE01#32 ∧ crcWords (ws.take 127) = ws.getD 127 0#32 then some ws else none

def headerSeq (h : List Word) : Nat := ofWords (h.getD 2 0#32) (h.getD 3 0#32)
def headerCause (h : List Word) : Nat := fld (h.getD 1 0#32) 10 8

/-- Word `i` of directory entry `j`. -/
def dirWord (h : List Word) (j i : Nat) : Word := h.getD (38 + 4 * j + i) 0#32

/-- Section number, usable offset and bytes of the valid directory entries, in order. -/
def dirSections (h : List Word) : List (Nat × Nat × Nat) :=
  ((List.range 8).filter fun j => bit (dirWord h j 0) 31).map fun j =>
    (fld (dirWord h j 0) 3 0, ofWords (dirWord h j 1) (word (fld (dirWord h j 2) 7 0)), (dirWord h j 3).toNat)

/-- Pages that `n` bytes occupy. -/
def pagesFor (s : State) (n : Nat) : Nat := (n + nandPageBytes s - 1) / nandPageBytes s

/-- Index of the first page of each section, with the section; and the index of the END page (R473). -/
def placeSections (s : State) : Nat → List (Nat × Nat × Nat) → List (Nat × Nat × Nat × Nat) × Nat
  | n, [] => ([], n)
  | n, x :: xs => let r := placeSections s (n + pagesFor s x.2.2) xs; ((n, x) :: r.1, r.2)

/-- First word and DUMP_SEQ of a mark page. -/
def markPage (magic : Word) (seq : Nat) (p : List Byte) : Bool :=
  let ws := bytesToWords (p.take 12)
  ws.getD 0 0#32 == magic && ofWords (ws.getD 1 0#32) (ws.getD 2 0#32) == seq

/-- The dump of area `a` with header `h` has its END page; it has a release page (R477). -/
def dumpEnded (s : State) (a : Nat) (h : List Word) : Bool :=
  let st := streamOf s a (headerSeq h)
  (st[(placeSections s 1 (dirSections h)).2]?).any (markPage 0x5E5A0E4D#32 (headerSeq h))
def dumpReleased (s : State) (a : Nat) (h : List Word) : Bool :=
  ((streamOf s a (headerSeq h)).getLast?).any (markPage 0x5E5A7E1E#32 (headerSeq h))

/-- The dumps that hold an area: the area and its header. -/
def heldDumps (s : State) : List (Nat × List Word) :=
  ([0, 1].filterMap fun a => (dumpHeader s a).map fun h => (a, h)).filter fun x => !dumpReleased s x.1 x.2

/-- The newest of them (R477). -/
def newestDump (s : State) : Option (Nat × List Word) :=
  match heldDumps s with
  | [] => none
  | d :: ds => some (ds.foldl (fun t x => if headerSeq t.2 < headerSeq x.2 then x else t) d)

/-- The DUMP_SEQ of the next dump: above every one seen. -/
def nextSeq (s : State) : Nat :=
  1 + ([0, 1].filterMap fun a => (dumpHeader s a).map headerSeq).foldl max (s.critFld 20 31 16)

/-! ### Health (R471) -/

/-- REASON bits in force. -/
def healthReasons (s : State) : List Nat :=
  let a := nextArea s
  (if s.safe.found then [] else [1]) ++ (if s.safe.found && areaErased s a then [] else [2])
    ++ (if 9 * (dirtyLimit s * 64) / 8 + 4194304 ≤ (goodBlocks s a).length * s.safe.nand.perBlock * nandPageBytes s then [] else [3])
    ++ (if s.safe.tested then [] else [4]) ++ (if areaBlocks s = 0 then [5] else [])

/-- HEALTH_STATUS as the conditions stand. -/
def showHealth (s : State) : State :=
  let rs := healthReasons s
  s.setReg Reg.SAFE.HEALTH_STATUS (word ((if rs.isEmpty then 1 else 0) + rs.foldl (fun t r => t + 2 ^ r) 0
    + min 65535 (badBlocks s (nextArea s)) * 65536))

/-- The checks run: the test ends as `h` says, and each check that fails is reported with its REASON bit (R471). -/
def runChecks (h : HealthEnd) (s : State) : State :=
  let s1 := modSafe (fun x => { x with tested := h != .failed, testTime := s.time, testDue := false }) s
  let s2 := if h = .goodAgain then transient Page.SAFE 0 4 {} s1 else s1
  (healthReasons s2).foldl (fun t r => lasting Page.SAFE 0 r {} t) (showHealth s2)

/-! ### What a dump holds (R472) -/

/-- A page of bytes, its tail zero. -/
def padPage (s : State) (bs : List Byte) : List Byte := bs ++ List.replicate (nandPageBytes s - bs.length) 0#8

/-- Bytes cut into pages. -/
def cutPages (s : State) (bs : List Byte) : List (List Byte) :=
  (List.range (pagesFor s bs.length)).map fun i => padPage s ((bs.drop (i * nandPageBytes s)).take (nandPageBytes s))

def wordBytes (ws : List Word) : List Byte := ws.flatMap fun w => toBytes 4 w.toNat

/-- Boathouse engine 1 reads `n` bytes with SOLE set. -/
def dumpRead (off n : Nat) (s : State) : List Byte × State :=
  let r := fetchBytes true 0x31 off n s
  (r.1, r.2.2)

/-- Valid entries of the in-flight list. -/
def inflightValid (s : State) : List Nat := (List.range 128).filter fun i => bit (inflightWord s i) 31

/-- Sectors that a dirty-table entry covers, from its words. -/
def dtabSectors (s : State) (ws : List Word) : Nat :=
  let lba := ofWords (ws.getD 1 0#32) (ws.getD 2 0#32)
  let n := (ws.getD 3 0#32).toNat
  let w0 := ws.getD 0 0#32
  match lu s (fld w0 21 16) with
  | some u => (rangeSectors u lba n).length
  | none => let b := blocksPer (fld w0 2 0); (lba % b + n + b - 1) / b

/-- Granules of a dirty-table entry, from its words. -/
def dtabGranules (s : State) (ws : List Word) : List Nat :=
  let off := (fld (ws.getD 4 0#32) 31 6) * 64 + fld (ws.getD 5 0#32) 7 0 * 2 ^ 32
  (List.range (dtabSectors s ws * fld (ws.getD 5 0#32) 15 8)).map fun g => off / 64 + g

/-- Each granule with its 8 check bytes. -/
def dumpGranules : List Nat → State → List Byte × State
  | [], s => ([], s)
  | g :: gs, s =>
    let r := readGranule true 0x31 quiet g s
    let q := dumpGranules gs r.2.2
    (granData r.2.2 g ++ toBytes 8 (granCheck r.2.2 g).toNat ++ q.1, q.2)

/-- Usable offset of JRNL.DRAM_BASE. -/
def jrnlBase (s : State) : Nat := s.reg64 Reg.JRNL.DRAM_BASE_LO / 64 * 64 % 2 ^ 40

/-- The valid entries of the in-flight list among `is`, each read whole. -/
def dumpInflight : List Nat → State → List Byte × State
  | [], s => ([], s)
  | i :: is, s =>
    let h := dumpRead (inflightOff s i) 64 s
    let b := if (h.1.getD 3 0#8).getLsbD 7 then dumpRead (inflightOff s i + 64) 4352 h.2 else ([], h.2)
    let q := dumpInflight is b.2
    ((if (h.1.getD 3 0#8).getLsbD 7 then h.1 ++ b.1 else []) ++ q.1, q.2)

/-- The valid entries of the dirty table as read, 8 words each. -/
def dtabEntries (bs : List Byte) : List (List Word) :=
  ((List.range (bs.length / 32)).map fun i => bytesToWords ((bs.drop (32 * i)).take 32)).filter fun ws => bit (ws.getD 0 0#32) 31

/-- Sections 1 to 6: number, usable offset, bytes. -/
def dumpSections (s : State) : List (Nat × Nat × List Byte) × State :=
  let r1 := dumpInflight (List.range 128) s
  let r2 := dumpRead (jrnlBase s) 135232 r1.2
  let r3 := if lutRoot s = 0 then ([], r2.2) else dumpRead (lutRoot s) 4096 r2.2
  let r4 := dumpRead (lostOff s) (16 * lostMax s) r3.2
  let r5 := dumpRead (dtabOff s 0) (32 * 8448) r4.2
  let es := dtabEntries r5.1
  let r6 := dumpGranules (es.flatMap (dtabGranules s)) r5.2
  ([(1, inflightOff s 0, r1.1), (2, jrnlBase s, r2.1), (3, lutRoot s, r3.1), (4, lostOff s, r4.1), (5, dtabOff s 0, es.flatMap wordBytes), (6, 0, r6.1)], r6.2)

/-- The 128 words of the header: critical words as voted, directory, CRC. -/
def headerWords (s : State) (cause seq : Nat) (dir : List (Nat × Nat × Nat)) : List Word :=
  let entry := fun x : Nat × Nat × Nat =>
    [word (x.1 + if x.2.2 = 0 then 0 else 2 ^ 31), loWord x.2.1, word (x.2.1 / 2 ^ 32 % 256), word x.2.2]
  let ws := [0x5E5AFE01#32, word (1 + cause * 256), loWord seq, hiWord seq, loWord s.time, hiWord s.time]
    ++ (List.range 32).map s.critVal ++ (dir ++ [(0, 0, 0)]).flatMap entry ++ List.replicate 57 0#32
  ws ++ [crcWords ws]

/-! ### A dump runs (R473, R476, R477) -/

/-- A dump can be written: NEXT is erased, and engine 1 can read the DRAM. -/
def dumpPossible (s : State) : Bool :=
  s.safe.found && !(goodBlocks s (nextArea s)).isEmpty && areaErased s (nextArea s) && !boatDown s 1 && pageOn s Page.BOAT
    && pageOn s Page.SAFE && dramReady s

/-- A dump starts: its sections are read, the header page is the first (R472, R476). Skipped where it cannot be written. -/
def startDump (cause : Nat) (s : State) : State :=
  if s.safe.dump.isSome || !dumpPossible s then s
  else
    match firstPlace s (nextArea s) with
    | none => s
    | some k =>
      let seq := nextSeq s
      let r := dumpSections s
      let dir := (r.1.map fun x => (x.1, x.2.1, x.2.2.length)) ++ [(7, 0, 65536)]
      let h := headerWords s cause seq dir
      let parts := (r.1.flatMap fun x => (cutPages s x.2.2).map DumpPart.page) ++ [.umpire, .finish]
      let d : Dump := { cause := cause, area := nextArea s, seq := seq, start := s.time, todo := parts, index := 0, place := k
                        again := false, now := padPage s (wordBytes h), ended := false, headerCrc := h.getD 127 0#32
                        dirtyMib := dirtyCount s / 16384 }
      let s1 := modSafe (fun x => { x with dump := some d }) r.2
      let s2 := (putDumpState 1 d.area cause seq s1).setBit Reg.BOAT.ENGINE_STATE 3 true
      raise Page.SAFE 1 0 cause {} s2

/-- The 65,536 bytes of the Umpire ring. -/
def ringBytes (s : State) : List Byte := (List.range 2048).flatMap fun n => wordBytes (ringRec s n)

/-- The next page of the stream comes up at `k`. -/
def dumpPage (d : Dump) (k : Nat) (s : State) : State :=
  match d.todo with
  | .page b :: rest => modSafe (fun x => { x with dump := some { d with todo := rest, index := d.index + 1, place := k, again := false, now := b } }) s
  | .umpire :: rest =>
    let ps := cutPages s (ringBytes s)
    modSafe (fun x => { x with dump := some { d with todo := (ps.drop 1).map DumpPart.page ++ rest, index := d.index + 1, place := k
                                                     again := false, now := ps.headD [] } }) s
  | .finish :: rest =>
    let ws := [0x5E5A0E4D#32, loWord d.seq, hiWord d.seq, word (d.index + 1), d.headerCrc]
    modSafe (fun x => { x with dump := some { d with todo := rest, index := d.index + 1, place := k, again := false
                                                     now := padPage s (wordBytes ws) } }) s
  | [] => s

/-- The dump is over (R477): DUMP_STATE, NEXT moves, the area is held. -/
def closeDump (d : Dump) (s : State) : State :=
  let ms := (s.time - d.start) / 1000000
  let s3 := ((fileDump d s).setReg Reg.SAFE.DUMP_LAST_MS (word (min 0xFFFFFFFF ms))).setReg Reg.SAFE.DUMP_LAST_MIB (word d.dirtyMib)
  let s4 := modSafe (fun x => { x with dump := none, newest := (dumpHeader s d.area).map fun h => (d.area, h) }) s3
  showHealth (if d.ended then raise Page.SAFE 2 0 0 ⟨word ms, word d.dirtyMib, loWord d.seq⟩ s4 else s4)

/-- RELEASE of an area (R472, R477): the release page after the stream's last page, and HELD falls. -/
def releaseArea (a : Nat) (s : State) : State :=
  let s1 := match dumpHeader s a with
    | none => s
    | some h =>
      let seq := headerSeq h
      let last := s.safe.nand.pages.foldl (fun (t : Nat) (e : Nat × Option NandPage) => if inArea s a e.1 then e.1 else t) 0
      match nextPlace s a last with
      | none => s
      | some k => setNandPage k (some ⟨seq % 65536, (streamOf s a seq).length, padPage s (wordBytes [0x5E5A7E1E#32, loWord seq, hiWord seq]), true⟩) s
  showHealth (s1.setCritFld 19 (1 + a) (1 + a) 0)

end Sys2Proof.Machine
end

