-- ==== Sys2Proof/Machine/Jrnl.lean ====
section
/-! DEFINITION. The commands of the stripe journal (R364, R367 to R373, R390). -/

namespace Sys2Proof.Machine

/-- The lowest Crew engine that takes new work. -/
def crewEngine (s : State) : Option Nat := (List.range 8).find? (crewTakes s)

/-! ### Journal sectors (R368) -/

/-- Records that wait for a journal sector. -/
def waitingRecords (s : State) : List JRecord := s.crew.open_.filter (·.sector.isNone)

/-- BATCH records wait, or the oldest has waited BATCH_US. -/
def sectorDue (s : State) : Bool :=
  match waitingRecords s with
  | [] => false
  | r :: rs => decide (s.fld Reg.JRNL.JRNL_CFG 22 16 ≤ rs.length + 1) || decide (r.since + s.fld Reg.JRNL.BATCH_US 15 0 * 1000 ≤ s.time)

/-- The ring sector of journal sector `n` still holds an open record. -/
def ringBlocked (s : State) (n : Nat) : Bool :=
  s.crew.open_.any fun r => r.sector.any fun q => q % ringSize s == n % ringSize s

/-- Stripe jobs whose records are among `seqs` may proceed. -/
def markJournalled (seqs : List Nat) (s : State) : State :=
  modCrew (fun c => { c with jobs := c.jobs.map fun j => if j.record.any seqs.contains then { j with journalled := true } else j }) s

/-- Host area and metadata of journal sector `n`, 4,288 bytes. -/
def journalBytes (n oldest : Nat) (rs : List JRecord) : List Byte :=
  let head := [0x5E4A0015#32, loWord n, hiWord n, loWord oldest, hiWord oldest, word rs.length] ++ List.replicate 9 0#32
  let words := head ++ [crcWords head] ++ rs.flatMap JRecord.words
  let bs := words.flatMap fun w => toBytes 4 w.toNat
  bs ++ List.replicate (4224 - bs.length) 0#8 ++ List.replicate 8 0#8 ++ toBytes 8 n ++ List.replicate 48 0#8

/-- Job body of a journal sector in scratch at usable offset `off`. -/
def journalBody (e off n : Nat) : List Word :=
  [0#32, 0#32, loWord off, word (off / 2 ^ 32 % 256 + 68 * 256), loWord n, hiWord n, word (3 * 2 ^ 18), word (255 + 255 * 256),
   word (0x24 + e), 0#32, 0#32]

/-- The run of one copy of journal sector `n`; a copy whose member has no such place is lost. -/
def pushCopy (e off n : Nat) (s : State) (m : Nat × Nat) : State :=
  match memberPlace s m.2 (256 * 64 * s.critFld 15 31 16 + n % ringSize s) with
  | none => copyLost m.1 s
  | some (t, sec) =>
    let tag := s.crew.nextTag
    let pkt := [pktHeader 16 7 false 2 tag, word (m.2 + 256 + 3 * 2 ^ 20), word t, word sec, 0#32] ++ journalBody e off n
    modCrew (fun c => { c with nextTag := (tag + 1) % 65536, outbox := c.outbox ++ [(m.2 / 6, 0x24 + e, pkt)]
                               writing := c.writing.map fun w => if m.1 = 0 then { w with tagA := some tag } else { w with tagB := some tag } }) s

/-- The waiting records, at most 65, form the next journal sector. -/
def writeSector (e : Nat) (s : State) : State :=
  let n := s.crew.nextSector
  let rs := (waitingRecords s).take 65
  if (journalMembers s).isEmpty then markJournalled (rs.map JRecord.jseq) s
  else
    match takeScratch s 4352 with
    | none => s
    | some a =>
      let oldest := ((s.crew.open_.head?).map JRecord.jseq).getD 0
      let s1 := storeBytes a.1 (journalBytes n oldest rs) s
      let s2 := modCrew (fun c => { c with nextSector := n + 1, writing := some ⟨n, none, none, a⟩, scratch := c.scratch ++ [a], fullSaid := false
                                           open_ := c.open_.map fun r => if rs.contains r then { r with sector := some n } else r }) s1
      flushCrew ((journalMembers s2).foldl (pushCopy e a.1 n) s2)

/-- JOURNAL_SECTOR_WRITE (R368): JRNL_FULL once per episode while the ring is full. -/
def execJournalSectorWrite (e : Nat) (s : State) : Host.Outcome State Fault Refusal :=
  .next (s.when (crewRuns s e && jrnlState s == 1 && s.crew.writing.isNone && sectorDue s) fun s =>
    if ringBlocked s s.crew.nextSector && !(journalMembers s).isEmpty then
      (if s.crew.fullSaid then s else raise Page.JRNL 3 0 0 {} (modCrew (fun c => { c with fullSaid := true }) s))
    else underCredit (.load Page.JRNL) (writeSector e) s)

/-- JOURNAL_WRITTEN (R364, R370): the sector stands on every valid member, and its jobs proceed. -/
def execJournalWritten (s : State) : Host.Outcome State Fault Refusal :=
  .next (s.when ((List.range 8).any (crewRuns s)) fun s =>
    let s1 := crewDrain s
    match s1.crew.writing with
    | some w =>
      if w.tagA.isSome || w.tagB.isSome then s1
      else
        let seqs := (s1.crew.open_.filter fun r => r.sector == some w.seq).map JRecord.jseq
        markJournalled seqs (modCrew (fun c => { c with writing := none, scratch := c.scratch.filter (· ≠ w.scratch) }) s1)
    | none => s1)

/-! ### START and CLOSE (R371) -/

/-- Heads that a journal member may name. -/
def usableHeads (s : State) : List Nat :=
  (List.range 24).filter fun m => headPresent s (m / 6) (m % 6) && actuatorUp s (m / 6) && !memberFailed s m

/-- LOC passes the check of R371. -/
def locOk (s : State) : Bool :=
  let hs := usableHeads s
  let acts := (hs.map (· / 6)).eraseDups
  let a := s.critFld 15 4 0
  let b := s.critFld 15 12 8
  let av := s.critFld 15 7 7 == 1 && hs.contains a
  let bv := s.critFld 15 15 15 == 1 && hs.contains b
  if 2 ≤ acts.length then av && bv && a / 6 != b / 6
  else if 2 ≤ hs.length then av && bv && a != b
  else av && s.critFld 15 15 15 == 0

/-- JRNL_START (R371). -/
def execJrnlStart (req : Requester) (v : Word) (s : State) : Host.Outcome State Fault Refusal :=
  .next (s.when (bit v 0) (withWrite req Reg.JRNL.CMD v fun s =>
    if locOk s then modCrew (fun c => { c with closing := false }) (s.setCritFld 16 1 0 1) else s))

/-- JRNL_CLOSE (R371). -/
def execJrnlClose (req : Requester) (v : Word) (s : State) : Host.Outcome State Fault Refusal :=
  .next (s.when (bit v 1) (withWrite req Reg.JRNL.CMD v fun s =>
    if jrnlState s = 1 then modCrew (fun c => { c with closing := true }) s else s))

/-- JRNL_CLOSED (R371). -/
def execJrnlClosed (s : State) : Host.Outcome State Fault Refusal :=
  .next (s.when (pageOn s Page.JRNL && s.crew.closing && s.crew.open_.isEmpty && s.crew.writing.isNone) fun s =>
    modCrew (fun c => { c with closing := false }) (s.setCritFld 16 1 0 2))

/-! ### REPLAY (R372, R373) -/

/-- CRC and magic of a record. -/
def recordSound (r : List Word) : Bool :=
  fld (r.getD 0 0#32) 15 0 == 0x5E4A && fld (r.getD 0 0#32) 23 16 == 1 && crcWords (r.take 15) == r.getD 15 0#32

def recordSeq (r : List Word) : Nat := ofWords (r.getD 1 0#32) (r.getD 2 0#32)
def recordBand (r : List Word) : Nat := fld (r.getD 3 0#32) 11 0

/-- The packet that a record's stripe job would be (R360, R367). -/
def recordPacket (r : List Word) : List Word :=
  let w := fun i => r.getD i 0#32
  [pktHeader 13 0 false 1 0, w 3 &&& 0xFFF#32, w 4 &&& 0xFFFFFF#32, w 5, word (fld (w 6) 15 0 + 0x24 * 65536), w 7, w 8 &&& 0xFF#32,
   word (fld (w 6) 23 16), w 9, w 10, w 11, w 12, w 13]

/-- Slots of the DRAM region that hold an open record. -/
def dramRecords (s : State) : List (List Word) :=
  ((List.range 2048).map fun i => (List.range 16).map fun k => s.wordAt (dramBase + recordOff s i + 4 * k)).filter
    fun r => r.any fun w => w != 0#32

/-- REPLAY_RESULT and REPLAY_DONE. -/
def replayResult (outcome : Nat) (s : State) : State :=
  let w := word (outcome + s.crew.resynced.length % 4096 * 256 + min 4095 s.crew.replayed * 2 ^ 20)
  raise Page.JRNL 2 0 0 ⟨w, 0#32, 0#32⟩ (modCrew (fun c => { c with replay := none }) (s.setReg Reg.JRNL.REPLAY_RESULT w))

/-- Replay's requests for a stripe-job credit: to read the rings, and for a record's job (R28). -/
def ringsAsk : StripeAsk := ⟨2, 8, 0, 0⟩
def recordAsk : StripeAsk := ⟨2, 9, 0, 0⟩

/-- A job that reads both rings, once it has a credit. -/
def readRings (e : Nat) (s : State) : State :=
  withStripe ringsAsk (fun s => pushRings (freeJobId s) (addJob 8 2 0xFF e (ownWords 8 0 0 0 0 0 0) [] s)) s

/-- JRNL_REPLAY (R372). -/
def execJrnlReplay (req : Requester) (v : Word) (s : State) : Host.Outcome State Fault Refusal :=
  .next (s.when (bit v 2) (withWrite req Reg.JRNL.CMD v fun s =>
    match crewEngine s with
    | none => s
    | some e =>
      if s.crew.replay.isSome then s
      else
        let src := fld v 5 4
        let rs := if src = 0 then dramRecords s else []
        let s1 := modCrew (fun c => { c with replay := some (rs, src), replayed := 0, resynced := [] }) s
        let bad := rs.any fun r => !recordSound r
        if src ≠ 0 ∧ (journalMembers s).isEmpty then replayResult 2 s1
        else if (src ≠ 0 || bad) && !(journalMembers s).isEmpty then readRings e s1
        else s1))

/-- A ring sector as read: its number, the oldest open JSEQ, its records. -/
structure RingSector where
  seq : Nat
  oldest : Nat
  records : List (List Word)

def parseRing (p : List Byte) : Option RingSector :=
  let h := bytesToWords (p.take 64)
  if h.getD 0 0#32 = 0x5E4A0015#32 ∧ crcWords (h.take 15) = h.getD 15 0#32 then
    some ⟨ofWords (h.getD 1 0#32) (h.getD 2 0#32), ofWords (h.getD 3 0#32) (h.getD 4 0#32),
      (List.range (min 65 (fld (h.getD 5 0#32) 6 0))).map fun i => bytesToWords ((p.drop (64 + 64 * i)).take 64)⟩
  else none

/-- Good ring sectors of a copy. -/
def ringCopy (j : StripeJob) (copy n : Nat) : List (Nat × RingSector) :=
  (List.range n).filterMap fun i => ((gotAt j i copy).bind parseRing).map fun r => (i, r)

def newest (rs : List (Nat × RingSector)) : Option RingSector :=
  rs.foldl (fun (t : Option RingSector) x => match t with
    | some y => if y.seq < x.2.seq then some x.2 else some y
    | none => some x.2) none

/-- The rings merged: the copy whose newest good sector has the higher SECTOR_SEQ, its gaps filled from the other; and that newest. -/
def mergeRings (j : StripeJob) (n : Nat) : List (Nat × RingSector) × Option RingSector :=
  let a := ringCopy j 0 n
  let b := ringCopy j 1 n
  let fill := fun x y : List (Nat × RingSector) => x ++ y.filter fun e => !x.any (·.1 == e.1)
  match newest a, newest b with
  | some p, some q => if p.seq < q.seq then (fill b a, some q) else (fill a b, some p)
  | some p, none => (a, some p)
  | none, some q => (b, some q)
  | none, none => ([], none)

/-- A band is set to resynchronise by replay. -/
def replayResync (b : Nat) (s : State) : State :=
  if s.crew.resynced.contains b then s else modCrew (fun c => { c with resynced := c.resynced ++ [b] }) (startResync b s)

/-- Both rings have been read: sequence numbers go on behind what they hold, and with SOURCE 1 the bands named by records not known
retired resynchronise (R372); a record that fails its CRC in the copy taken is served from the other, or its band resynchronises (R373). -/
def useRings (j : StripeJob) (src : Nat) (s : State) : State :=
  let m := mergeRings j (ringSize s)
  match m.2 with
  | none => if src = 0 then dropJob j s else replayResult 2 (dropJob j s)
  | some top =>
    let all := m.1.flatMap fun x => x.2.records
    let s1 := modCrew (fun c => { c with nextSector := max c.nextSector (top.seq + 1)
                                         nextJseq := (all.filter recordSound).foldl (fun t r => max t (recordSeq r + 1)) c.nextJseq }) s
    if src = 0 then s1
    else
      let others := (ringCopy j 0 (ringSize s) ++ ringCopy j 1 (ringSize s)).flatMap fun x => x.2.records
      let s2 := all.foldl (fun t r =>
        if recordSound r then (if top.oldest ≤ recordSeq r then replayResync (recordBand r) t else t)
        else if others.any fun o => recordSound o && recordSeq o == recordSeq r then
          (if top.oldest ≤ recordSeq r then replayResync (recordBand r) (raise Page.JRNL 4 1 0 {} t) else t)
        else lasting Page.JRNL 4 0 {} (replayResync (recordBand r) t)) s1
      dropJob j s2

/-- Replay one record (R373): with WB its data and parity, else the parity of its rows; a reshape record of a band that has not
switched sends its target stripe to the re-copies. -/
def replayRecord (e : Nat) (r : List Word) (s : State) : State :=
  let f := fld (r.getD 0 0#32) 27 24
  let ws := recordPacket r
  let b := recordBand r
  let s1 := modCrew (fun c => { c with replayed := c.replayed + 1, nextJseq := max c.nextJseq (recordSeq r + 1) }) s
  if f.testBit 1 && reshaping s b then modCrew (fun c => { c with recopy := c.recopy.filter (· ≠ spStripe ws) ++ [spStripe ws] }) s1
  else
    let kind := if f.testBit 0 then 1 else 5
    stepJob (freeJobId s1) (addJob kind 2 0xFF e ws (touchedRows (if f.testBit 2 then 3 else 1) ws (bandWords s1 b)) s1)

/-- The next record of the DRAM region: replayed, served from the ring copy when its CRC fails, or its band resynchronised (R373). -/
def replayNext (e : Nat) (ring : Option StripeJob) (r : List Word) (s : State) : State :=
  if recordSound r then replayRecord e r s
  else
    let copies : List (List Word) := match ring with
      | some j => (ringCopy j 0 (ringSize s) ++ ringCopy j 1 (ringSize s)).flatMap fun x => x.2.records
      | none => []
    match copies.find? fun o => recordSound o && recordSeq o == recordSeq r with
    | some o => replayRecord e o (raise Page.JRNL 4 1 0 {} s)
    | none => lasting Page.JRNL 4 0 {} (replayResync (recordBand r) s)

/-- Records are replayed while a credit can be granted. -/
def replayAll (e : Nat) (ring : Option StripeJob) : List (List Word) → State → State
  | [], s => s
  | r :: rs, s =>
    if !stripeTurn s recordAsk then withStripe recordAsk id s
    else
      replayAll e ring rs (withStripe recordAsk (fun s => replayNext e ring r
        (modCrew (fun c => { c with replay := c.replay.map fun (x : List (List Word) × Nat) => (rs, x.2) }) s)) s)

/-- Replay goes on: the rings once read, then the records, then the end. -/
def replayStep (e : Nat) (s : State) : State :=
  let ring := s.crew.jobs.find? (·.kind == 8)
  match s.crew.replay with
  | none => s
  | some (rs, src) =>
    if s.crew.asks.contains ringsAsk then readRings e s
    else if ring.any fun j => !j.runs.isEmpty then s
    else if src ≠ 0 then
      let s1 := match ring with
        | some j => useRings j src s
        | none => s
      if s1.crew.replay.isSome then replayResult 1 s1 else s1
    else
      let s1 := match ring with
        | some j => if rs.isEmpty then dropJob j s else useRings j 0 s
        | none => s
      let s2 := replayAll e (s1.crew.jobs.find? (·.kind == 8)) rs s1
      if (s2.crew.replay.any fun x => x.1.isEmpty) && !(s2.crew.jobs.any fun j => j.port == 0xFF) then
        replayResult 1 ((List.range 2048).foldl (fun t i =>
          if (s2.crew.open_.any fun o => o.slot == i) then t else putRecord i (List.replicate 16 0#32) t) s2)
      else s2

/-- REPLAY_DONE (R372): replay proceeds, and ends once every record's job has ended. -/
def execReplayDone (s : State) : Host.Outcome State Fault Refusal :=
  .next (match crewEngine s with
    | some e => replayStep e (crewDrain s)
    | none => s)

end Sys2Proof.Machine
end

