-- ==== Sys2Proof/Machine/PowerOps.lean ====
section
/-! DEFINITION. The power manager: modes, write-back qualification, levels, the context area and SAFE (R455 to R469, R480 to R482). -/

namespace Sys2Proof.Machine

def modPower (f : Power → Power) (s : State) : State := { s with power := f s.power }

/-! ### Write-back caching (R468, R469) -/

/-- The cover in MiB of a reserve in mJ (R468). -/
def coverMib (reserve fixed perMib : Nat) : Nat :=
  if reserve / 2 ≤ fixed then 0 else min ((reserve / 2 - fixed) * 1000 / perMib) 2048

/-- The first condition of R469 that fails, by its REASON; none while all hold. -/
def wbFault (s : State) : Option Nat :=
  if inSafe s then some 5
  else if boatDown s 1 then some 4
  else if !s.bit Reg.SAFE.HEALTH_STATUS 0 then some 2
  else if s.fld Reg.PWR.COVER 11 0 * 16384 < dirtyLimit s then some 3
  else if s.critFld 22 0 0 = 0 then some 1 else none

/-- The power manager looks at the conditions of R469. -/
def wbReview (s : State) : State :=
  match wbFault s with
  | some r => wbFall r (modPower (fun p => { p with wbSince := none }) s)
  | none =>
    if mode s = 1 ∨ isLevel (mode s) then
      (if s.power.wbSince.isSome then s else modPower (fun p => { p with wbSince := some s.time }) s)
    else modPower (fun p => { p with wbSince := none }) s

/-- COVER follows the reserve. -/
def updateCover (s : State) : State :=
  let c := coverMib (s.reg Reg.KEEL.RESERVE_MJ).toNat (s.fld Reg.PWR.DUMP_COST 15 0) (s.fld Reg.PWR.DUMP_COST 31 16)
  wbReview (s.setReg Reg.PWR.COVER (word c))

/-! ### Modes and requests (R455, R456, R458) -/

/-- MODE changes (R455). -/
def setMode (m : Nat) (s : State) : State :=
  if mode s = m then s else wbReview (raise Page.PWR 0 0 m {} (s.setCritFld 0 3 0 m))

/-- MODE_RESULT. -/
def modeResult (outcome code : Nat) (s : State) : State := s.setReg Reg.PWR.MODE_RESULT (word (outcome + code * 16))

/-- A request is refused (R456). -/
def modeRefuse (code : Nat) (s : State) : State := raise Page.PWR 1 5 code {} (modeResult 2 code s)

/-- STATUS.TRANSITION. -/
def setTransition (b : Bool) (s : State) : State := s.setBit (Reg.STATUS Page.PWR) 8 b

/-- A mode change is in progress: a level is entered or left, or an exit has been asked for. -/
def inTransition (s : State) : Bool := s.power.entering.isSome || s.power.exiting.isSome || s.power.trigger.isSome

/-- Domains on in ACTIVE and SERVICE: those of actuators only where a port is PRESENT and not LOST (R3, R161, R458). -/
def activeDomains (s : State) : List Nat :=
  (List.range 20).filter fun d =>
    !(decide (9 ≤ d) && decide (d ≤ 12)) || (s.critFld 3 (d - 9) (d - 9) == 1 && s.critFld 3 (d - 5) (d - 5) == 0)

/-- Domains off in a level (R458); that of a lost actuator stays on (R161). -/
def levelDomains (l : Nat) (s : State) : List Nat :=
  if l = 2 then [13]
  else (List.range 4).filterMap (fun a => if actuatorLost s a then none else some (9 + a)) ++ [13, 16] ++ (if l = 6 then [2, 3, 4, 5] else [])

/-- Leaving BOOT for ACTIVE or SERVICE (R458). -/
def leaveBoot (m : Nat) (s : State) : State := modeResult 1 0 (setMode m (switchOnAll (activeDomains s) s))

/-- The DRAM port has been trained. -/
def bothTrained (s : State) : Bool := dramTrained s 0 && dramTrained s 1

/-- A request of mode `t` (R456). A change that the table does not list is refused with a code that no rule states (log entry 26). -/
def requestMode (t : Nat) (s : State) : State :=
  let m := mode s
  if m = 7 ∨ m = 8 then modeRefuse 3 s
  else if t = 0 ∨ 9 ≤ t then modeRefuse 4 s
  else if m = 0 ∧ t = 1 then (if bothTrained s then leaveBoot 1 s else modeRefuse 1 s)
  else if m = 0 ∧ t = 8 then (if debugLevel s = 0 then modeRefuse 2 s else leaveBoot 8 s)
  else if m ≠ 0 ∧ t = m then modeResult 1 0 (modPower (fun p => { p with after := none }) s)
  else if isLevel m ∧ t = 1 then exitTrigger (modeResult 3 0 (modPower (fun p => { p with after := none }) s))
  else if m ≠ 0 ∧ isLevel t then
    let s1 := modeResult 3 0 (modPower (fun p => { p with after := some t }) s)
    if t < m then exitTrigger s1 else s1
  else modeRefuse (fld s.freeWord 3 0) s.useFree

/-- A transition is over: a request made meanwhile is acted on (R455). -/
def transitionOver (s : State) : State :=
  let s1 := setTransition false s
  match s1.power.later with
  | none => s1
  | some t => requestMode t (modPower (fun p => { p with later := none }) s1)

/-- A write of MODE_TARGET (R455, R456). -/
def modeTargetEffect (v : Word) (s : State) : State :=
  let s1 := s.critPut 1 (v &&& 0xF#32)
  if inTransition s1 then modPower (fun p => { p with later := some (fld v 3 0) }) s1 else requestMode (fld v 3 0) s1

/-! ### Idleness (R460) -/

/-- No host task, no stripe job of class 0 or 1, no item in a firmware command queue. -/
def quietNow (s : State) : Bool :=
  (heldTasks s).isEmpty && !(s.crew.jobs.any fun j => decide (j.cls ≤ 1))
    && (List.finRange 4).all fun c => (hq s (.firmware c)).items.isEmpty

/-- An enabled band has a rebuild, a resynchronisation or a reshape pending. -/
def bandPending (s : State) : Bool :=
  s.crew.bands.any fun x => x.2.any fun b =>
    bResync b.words || reshaping s x.1
      || (List.range (bSpare b.words)).any fun j => bReplEn b.words j && decide (bWm b.words j < bStripes b.words)

def idleNow (s : State) : Bool := quietNow s && !(s.bit Reg.PWR.IDLE_CFG 0 && bandPending s)

/-- The moment idleness began, kept while it lasts. -/
def trackIdle (s : State) : State :=
  let since := fun (b : Bool) (o : Option Nat) => if b then (if o.isSome then o else some s.time) else none
  modPower (fun p => { p with quietSince := since (quietNow s) p.quietSince, idleSince := since (idleNow s) p.idleSince
                              deferred := if quietNow s then p.deferred else [] }) s

/-- The idle timer of a level, units of 100 ms. -/
def idleTimer (s : State) (l : Nat) : Nat :=
  if l = 2 then s.fld Reg.PWR.IDLE_T0 15 0 else if l = 3 then s.fld Reg.PWR.IDLE_T0 31 16
  else if l = 4 then s.fld Reg.PWR.IDLE_T1 15 0 else if l = 5 then s.fld Reg.PWR.IDLE_T1 31 16 else s.fld Reg.PWR.IDLE_T2 15 0

/-- The deepest level whose timer, counted from `since`, has expired. -/
def deepestExpired (s : State) (since : Option Nat) : Option Nat :=
  match since with
  | none => none
  | some t => [6, 5, 4, 3, 2].find? fun l => idleTimer s l != 0 && decide (t + idleTimer s l * 100000000 ≤ s.time)

/-- The power manager's program runs: out of machine check and not halted. -/
def powerRuns (s : State) : Bool := blockAlive s Page.PWR && !engineHalted s 0x0D

/-- The entry of a level begins (R461). -/
def beginEntry (l : Nat) (s : State) : State :=
  setTransition true (modPower (fun p => { p with entering := some (l, 0), trigger := none }) s)

/-- The level asked for by request or timer is entered once the device is idle; a deferral is reported once (R460). -/
def idleStep (s0 : State) : State :=
  let s := trackIdle s0
  if inTransition s || !(mode s == 1 || isLevel (mode s)) then s
  else
    let want := max ((deepestExpired s s.power.idleSince).getD 0) (if idleNow s then s.power.after.getD 0 else 0)
    if mode s < want then beginEntry want s
    else
      match (if idleNow s then none else deepestExpired s s.power.quietSince) with
      | some l =>
        if l ≤ mode s ∨ s.power.deferred.contains l then s
        else raise Page.PWR 7 0 l {} (modPower (fun p => { p with deferred := l :: p.deferred }) s)
      | none => s

/-! ### The context area (R463) -/

/-- The 31 pages in ascending page number, in their slots. -/
def ctxOrder : List Nat :=
  (List.range 4).map Page.RUDDER ++ (List.range 16).map Page.OAR ++ (List.range 4).map Page.GATE ++ [Page.SWEEP]
    ++ (List.range 2).map Page.CRYPTO ++ (List.range 4).map Page.PRE

def ctxBase (s : State) : Nat := s.reg64 Reg.PWR.CTX_BASE_LO
def ctxSlot (s : State) (p : Nat) : Nat := ctxBase s + 4096 * (ctxOrder.takeWhile (· != p)).length

/-- Offsets of the registers kept of a page: EV_ENABLE, every RW and RWL block register, and CTRL last. -/
def ctxOffsets (p : Nat) : List Nat :=
  [0x014] ++ ((pageRows p ++ (queuesOf p).flatMap queueRows).filter fun r => decide (0x040 ≤ r.off) && (r.access == .rw || r.access == .rwl)).flatMap
    (fun r => (List.range r.count).map fun i => r.off + 4 * i) ++ [0x008]

/-- Actuator of a page of the context; none for SWEEP and CRYPTO. -/
def ctxActuator (p : Nat) : Option Nat :=
  if 0x020 ≤ p ∧ p ≤ 0x023 then some (p - 0x020) else if 0x030 ≤ p ∧ p ≤ 0x03F then some ((p - 0x030) / 4)
  else if 0x040 ≤ p ∧ p ≤ 0x043 then some (p - 0x040) else if 0x088 ≤ p ∧ p ≤ 0x08B then some (p - 0x088) else none

def saveCtxPage (s : State) (p : Nat) : State :=
  (ctxOffsets p).foldl (fun t o => storeBytes (ctxSlot t p + o) (toBytes 4 (t.reg (regKey p o)).toNat) t) s

/-- Which of an actuator's tables are valid now. -/
def tablesOf (s : State) (a : Nat) : Nat × Bool × Bool × Bool :=
  (a, s.bit (Reg.RUDDER.COEF_CTRL a) (8 + s.fld (Reg.STATUS (Page.RUDDER a)) 23 23), s.bit (Reg.OAR.ZT_STATUS (4 * a)) 0,
   s.bit (Reg.OAR.RT_STATUS (4 * a)) 0)

/-- The pages of the domains about to go off are saved (R463). -/
def saveContext (l : Nat) (s : State) : State :=
  if ctxBase s = 0 then s
  else
    let ps := ctxOrder.filter fun p => pageOn s p && (pagePlace p).any fun d => (levelDomains l s).contains d.1
    let acts := (List.range 4).filter fun a => ps.contains (Page.RUDDER a)
    let s1 := ps.foldl saveCtxPage s
    modPower (fun p => { p with ctxPages := p.ctxPages.filter (fun x => !ps.contains x) ++ ps
                                tables := p.tables.filter (fun x => !acts.contains x.1) ++ acts.map (tablesOf s) }) s1

/-- LOAD_SKIPPED (R462, R463): the actuator is done with. -/
def loadSkipped (cause : Nat) (s : State) (a : Nat) : State :=
  if s.power.skipped.contains a then s
  else
    let s1 := modPower (fun p => { p with skipped := a :: p.skipped, loading := p.loading.filter (· != a) }) s
    if s.bit Reg.PWR.RESUME_HEADS (4 * a + 3) then lasting Page.PWR 9 a ⟨word cause, 0#32, 0#32⟩ s1 else s1

/-- The saved values of a page are written back: RWL registers of a locked page stay, GATE's EN is held at 0, CTRL comes last; a slot
that fails its checks leaves the page as it is and excludes its actuator. -/
def restoreCtxPage (s : State) (p : Nat) : State :=
  let r := fetchBytes true 0x30 (ctxSlot s p) 4096 s
  if !r.2.1 then
    match ctxActuator p with
    | some a => loadSkipped 2 r.2.2 a
    | none => r.2.2
  else
    (ctxOffsets p).foldl (fun t o =>
      let k := regKey p o
      let v := word (ofBytes ((r.1.drop o).take 4))
      if isRwl k && pageLocked p t then t
      else t.setReg k (if o = 8 ∧ 0x040 ≤ p ∧ p ≤ 0x043 then Sys2Proof.setBit v 0 false else v)) r.2.2

/-! ### Entering a level (R461) -/

/-- Step 4: UNLOAD or RETRACT to each Rudder with heads loaded. -/
def unloadAll (s : State) : State :=
  (List.range 4).foldl (fun t a =>
    if !rudAlive t a then t
    else if rudState t a = 2 ∨ rudState t a = 3 ∨ rudState t a = 4 then beginPark a 0 false t
    else if rudState t a = 1 then retract a 1 t else t) s

/-- SPD_TARGET is copied into SAVED_TARGET, unless the level left already did so. -/
def saveTarget (s : State) : State := if mode s = 4 then s else s.setReg Reg.PWR.SAVED_TARGET (s.critVal 5)

/-- Step 7: context, domains, MODE. -/
def finishEntry (l : Nat) (s : State) : State :=
  let s1 := if 5 ≤ l then s else saveContext l s
  let s2 := domainsOff (levelDomains l s) s1
  let s3 := setMode l (modPower (fun p => { p with entering := none, trigger := none }) s2)
  let s4 := if s3.power.after = some l then modeResult 1 0 (modPower (fun p => { p with after := none }) s3) else s3
  transitionOver s4

/-- One stage of the entry of level `l`; `n` stages are over. None while the stage must wait. -/
def entryStage (l n : Nat) (s : State) : Option (Nat × State) :=
  if n = 0 then (if s.crew.jobs.isEmpty then some (1, s) else none)
  else if n = 1 then
    (if (List.range 4).all fun a => (gate s a).issued.isEmpty then some (if l = 2 then 9 else 2, s) else none)
  else if n = 2 then (if dirtyCount s = 0 then some (3, s) else none)
  else if n = 3 then some (4, unloadAll s)
  else if n = 4 then (if allParked s then some (if l = 3 then 9 else 5, s) else none)
  else if n = 5 then
    if l = 4 then some (9, spdTargetEffect 0x15180000#32 (saveTarget s))
    else some (6, if jrnlState s = 1 then modCrew (fun c => { c with closing := true }) s else s)
  else if n = 6 then (if jrnlState s = 1 then none else some (7, startDump 5 s))
  else if n = 7 then
    if s.safe.dump.isSome then none
    else
      some (8, keelHalts (saveTarget s))
  else if keelState s = 0 then some (9, srWanted 1 true (srWanted 0 true (saveContext l s))) else none

/-- The boundaries between the steps of R461. -/
def entryBoundary (n : Nat) : Bool := [0, 1, 2, 3, 5, 9].contains n

/-- The exit of a level begins: the first steps of R462. What the level or the abandoned entry has done to the spindle is kept as the
level that is left; actuators whose pages were off without a saved context are done with. -/
def beginExit (s : State) : State :=
  let reached := match s.power.entering with
    | some (l, n) => if n = 9 then l else if 5 ≤ n then min l 3 else 1
    | none => 1
  let l := max reached (if isLevel (mode s) then mode s else 1)
  let off := (List.range 4).filter fun a => !pageOn s (Page.RUDDER a)
  let bare := off.filter fun a => !s.power.ctxPages.contains (Page.RUDDER a) && s.bit Reg.PWR.RESUME_HEADS (4 * a + 3)
  let s1 := modPower (fun p => { p with entering := none, exiting := some (l, p.trigger.getD s.time, 0), trigger := none, skipped := [], loading := []
                                        reloaded := off.filter fun a => p.ctxPages.contains (Page.RUDDER a) }) s
  let s2 := switchOnAll (activeDomains s1) (setTransition true s1)
  let s3 := if mode s = 6 then
      (List.range 4).foldl (fun t n => t.setBit Reg.COX.STROKE_CTRL (8 + n) (t.bit Reg.COX.STROKE_CTRL n)) s2 else s2
  let s4 := if 5 ≤ l then srWanted 1 false (srWanted 0 false s3) else s3
  if ctxBase s4 = 0 then bare.foldl (loadSkipped 1) s4 else s4

/-- The entry goes on as far as its conditions hold; an exit trigger ends it at the next boundary (R461). -/
def advanceEntry : Nat → State → State
  | 0, s => s
  | f + 1, s =>
    match s.power.entering with
    | none => s
    | some (l, n) =>
      if s.power.trigger.isSome && entryBoundary n then
        beginExit (if s.power.after = some l then modeResult 0 0 (modPower (fun p => { p with after := none }) s) else s)
      else if n = 9 then finishEntry l s
      else
        match entryStage l n s with
        | none => s
        | some (m, t) => advanceEntry f (modPower (fun p => { p with entering := some (l, m) }) t)

/-! ### Leaving a level (R462 to R464) -/

/-- The actuators whose tables are reloaded: PRESENT, not LOST, their context restored. -/
def reloadActs (s : State) : List Nat :=
  s.power.reloaded.filter fun a => !s.power.skipped.contains a && s.critFld 3 a a == 1 && s.critFld 3 (4 + a) (4 + a) == 0

/-- The loads that step 7 issues for actuator `a`. -/
def issueLoads (s : State) (a : Nat) : State :=
  match s.power.tables.find? fun x => x.1 == a with
  | none => s
  | some (_, c, z, r) =>
    let s1 := if c then coefCtrlEffect a 1#32 s else s
    let s2 := if z then modOar (4 * a) (fun o => { o with zones := [] })
        ((s1.setBit (Reg.OAR.ZT_CTRL (4 * a)) 0 true).setBit (Reg.OAR.ZT_STATUS (4 * a)) 0 false) else s1
    if r then modOar (4 * a) (fun o => { o with relocs := [] })
      ((s2.setBit (Reg.OAR.RT_CTRL (4 * a)) 0 true).setReg (Reg.OAR.RT_STATUS (4 * a)) 0#32) else s2

/-- A load of actuator `a` still runs. -/
def loadsRun (s : State) (a : Nat) : Bool :=
  s.bit (Reg.RUDDER.COEF_CTRL a) 0 || s.bit (Reg.OAR.ZT_CTRL (4 * a)) 0 || s.bit (Reg.OAR.RT_CTRL (4 * a)) 0

/-- A load that ended without a valid bank or table excludes the actuator; otherwise the bank is switched to. -/
def afterLoads (s : State) (a : Nat) : State :=
  match s.power.tables.find? fun x => x.1 == a with
  | none => s
  | some (_, c, z, r) =>
    let bad := (c && !s.bit (Reg.RUDDER.COEF_CTRL a) (8 + idleBank s a)) || (z && !s.bit (Reg.OAR.ZT_STATUS (4 * a)) 0)
      || (r && !s.bit (Reg.OAR.RT_STATUS (4 * a)) 0)
    if bad then loadSkipped 2 s a else if c then coefCtrlEffect a 2#32 s else s

/-- GATEa.CTRL as saved; a granule that fails its checks leaves it as it is and excludes the actuator. -/
def restoreGate (s : State) (a : Nat) : State :=
  let r := fetchBytes true 0x30 (ctxSlot s (Page.GATE a) + 8) 4 s
  if r.2.1 then r.2.2.setReg (Reg.CTRL (Page.GATE a)) (word (ofBytes r.1)) else loadSkipped 2 r.2.2 a

/-- LOAD with the head that RESUME_HEADS names, to a Rudder in PARKED; PARKED_FAULT and a refusal are reported (R462 step 7). -/
def loadHead (s : State) (a : Nat) : State :=
  if !s.bit Reg.PWR.RESUME_HEADS (4 * a + 3) || s.power.skipped.contains a then s
  else if !rudAlive s a then loadSkipped 4 s a
  else if rudState s a = 7 then loadSkipped 3 s a
  else if rudState s a ≠ 0 then s
  else
    let h := s.fld Reg.PWR.RESUME_HEADS (4 * a + 2) (4 * a)
    let s1 := rudCmdEffect a (word (1 + h * 256)) s
    if rudState s1 a = 1 then modPower (fun p => { p with loading := p.loading ++ [a] }) s1 else loadSkipped 4 s1 a

/-- MODE = ACTIVE: the longest exit of the level, EXIT_SLOW, and what was asked for meanwhile (R462, R464). -/
def finishExit (trigger : Nat) (s : State) : State :=
  let l := mode s
  let us := (s.time - trigger) / 1000
  let k := Reg.PWR.EXIT_MAX_I1 + 4 * (l - 2)
  let s1 := if !isLevel l then s
    else
      let t := if (s.reg k).toNat < us then s.setReg k (word (min 0xFFFFFFFF us)) else s
      if (s.reg (Reg.PWR.EXIT_ADV_I1 + 4 * (l - 2))).toNat * 1000 < s.time - trigger then raise Page.PWR 5 0 l ⟨word us, 0#32, 0#32⟩ t else t
  let s2 := setMode 1 (modPower (fun p => { p with exiting := none, trigger := none, ctxPages := [], tables := [] }) s1)
  let s3 := if s2.power.after.isNone ∧ s2.fld Reg.PWR.MODE_RESULT 1 0 = 3 then modeResult 1 0 s2 else s2
  hostDrain (transitionOver s3)

/-- One stage of the exit from level `l`; `n` stages are over. -/
def exitStage (chopMa l n : Nat) (s : State) : Option (Nat × State) :=
  if n = 0 then
    let cs := s.power.ctxPages.flatMap pageRequesters
    if dramAsleep s 0 || dramAsleep s 1 || s.ucode.restoring.any (cs.contains ·) then none
    else
      let s1 := s.power.ctxPages.foldl restoreCtxPage s
      if l < 4 then some (1, s1)
      else
        let s2 := spdTargetEffect (s1.reg Reg.PWR.SAVED_TARGET) s1
        some (1, if keelState s2 = 3 then s2 else keelRunEffect (keelSpeed s2 / 65536) chopMa s2)
  else if n = 1 then
    if 4 ≤ l && !keelLocked s then none
    else
      let back := l = 5 ∨ l = 6
      let s1 := match newestDump s with
        | some (a, h) => if back ∧ headerCause h = 5 ∧ areaHeld s a then releaseArea a s else s
        | none => s
      let s2 := if back ∧ jrnlState s1 = 2 ∧ locOk s1 then modCrew (fun c => { c with closing := false }) (s1.setCritFld 16 1 0 1) else s1
      some (2, (reloadActs s2).foldl issueLoads s2)
  else if n = 2 then
    if (reloadActs s).any (loadsRun s) then none else some (3, (reloadActs s).foldl afterLoads s)
  else if n = 3 then
    if (reloadActs s).any fun a => s.bit (Reg.RUDDER.COEF_CTRL a) 1 then none
    else
      let s1 := (s.power.reloaded.filter fun a => pageOn s (Page.GATE a)).foldl restoreGate s
      some (4, (List.range 4).foldl loadHead s1)
  else
    let bad := s.power.loading.filter fun a => rudState s a == 7
    let s1 := bad.foldl (loadSkipped 5) s
    if s1.power.loading.all fun a => rudState s1 a == 3 then some (5, s1) else none

/-- The exit goes on as far as its conditions hold. -/
def advanceExit (chopMa : Nat) : Nat → State → State
  | 0, s => s
  | f + 1, s =>
    match s.power.exiting with
    | none => s
    | some (l, t, n) =>
      if n = 5 then finishExit t s
      else
        match exitStage chopMa l n s with
        | none => s
        | some (m, u) => advanceExit chopMa f (modPower (fun p => { p with exiting := some (l, t, m) }) u)

/-- A level's entry or exit is abandoned (R482). -/
def abandonLevels (s : State) : State :=
  setTransition false (modPower (fun p => { p with entering := none, exiting := none, trigger := none, later := none, after := none }) s)

/-! ### SAFE (R480 to R482) -/

/-- The conditions of READ_ONLY. -/
def readOnlyOk (s : State) : Bool :=
  s.bit Reg.PWR.IDLE_CFG 1 && keelState s == 3 && keelLocked s
    && ((List.range 4).any fun a => pageOn s (Page.RUDDER a) && !inMachineCheck s (Page.RUDDER a) && !inMachineCheck s (Page.GATE a))
    && !inMachineCheck s Page.SWEEP && !inMachineCheck s Page.HAZ && !inMachineCheck s Page.CRIT && !(boatDown s 0 && boatDown s 1)

/-- PARKED: each loaded Rudder retracts with cause 1, and Keel is then stopped (R480 step 4). -/
def safePark (s : State) : State :=
  let s1 := modPower (fun p => { p with readOnly := some false }) s
  parkedOff ((List.range 4).foldl (fun t a => if rudAlive t a then retract a 1 t else t) s1)

/-- Write tasks held without their good RESPONSE end once their jobs have (R481). -/
def safeWrites (s : State) : State :=
  let ts := s.slip.tasks.filter fun t => t.op == 2 && !t.committed && !t.aborted && !(t.answer.any fun a => a.status != 0)
  ts.foldl (fun u t =>
    modTask t.id (fun x => { x with drainFirst := true }) (giveAnswer t.id (checkCondition u t.lun 4 0x44 0 none) u)) s

/-- A cause of SAFE reaches the power manager (R480). -/
def enterSafe (source : Nat) (s : State) : State :=
  if inSafe s then (if s.power.readOnly = some true then safePark s else s)
  else
    let moving := s.power.entering.isSome || s.power.exiting.isSome
    let ro := readOnlyOk s && !moving
    let s1 := setMode 7 (modPower (fun p => { p with readOnly := some ro }) (abandonLevels s))
    let s2 := raise Page.PWR 6 0 (if ro then 1 else 2) ⟨word source, 0#32, 0#32⟩ s1
    let s3 := hostDrain (safeWrites s2)
    let s4 := if jrnlState s3 = 1 ∨ 0 < dirtyCount s3 then startDump 4 s3 else s3
    if ro then s4 else safePark s4

end Sys2Proof.Machine
end

