-- ==== Sys2Proof/Machine/Power.lean ====
section
/-! DEFINITION. Commands of the power manager: supplies and the failure of power, the reserve, write-back caching, modes, levels, domains
and SAFE (R33, R140, R329, R396, R455 to R469, R480). -/

namespace Sys2Proof.Machine

/-! ### The failure of power (R33, R465, R466) -/

/-- PWR_FAIL releases the halts that R527 names, bars new ones, and ends EXTEST (R524, R527). -/
def failReleasesHalts (s : State) : State :=
  let mine := fun c : Nat => (decide (8 ≤ c) && decide (c ≤ 0x0D)) || c == 0x31 || c == 0x34
  { s with dbg := { s.dbg with halts := SMap.keep (fun c => !mine c) s.dbg.halts
                               haltWanted := s.dbg.haltWanted.filter (fun c => !mine c), haltsBarred := true, extest := false } }

/-- The dump of PWR_FAIL starts, or is skipped (R476, R482): one that runs goes on under its own cause. -/
def failDump (cause : Nat) (s : State) : State :=
  if s.safe.dump.isSome then s
  else
    let s1 := if (mode s = 5 ∨ mode s = 6) ∧ keelState s = 0 then s else startDump cause s
    if s1.safe.dump.isSome then s1 else { s1 with chip := { s1.chip with dumped := true } }

/-- PWR_FAIL asserts with its cause: the sequence of R33. -/
def powerFail (cause : Nat) (s : State) : State :=
  let s1 := raise Page.PWR 2 0 cause {} (s.setReg Reg.PWR.PWR_STATUS (word (1 + cause * 2)))
  let s2 := setIsolation true (failReleasesHalts (abandonLevels (cutAll 3 s1)))
  let s3 := keelPowerFail ((List.range 4).foldl (fun t a => tuneTrip (Page.RUDDER a) 6 0 t) s2)
  let s4 := failDump cause (retractLoaded 2 s3)
  parkedOff (domainsOff [1, 2, 3, 4, 5, 6, 8, 13, 14, 16, 18] s4)

/-- The power monitors run: the device is up and PWR_FAIL is not asserted. -/
def monitors (s : State) : Bool := s.chip.held.isNone && !pwrFailing s

/-- SUPPLY_V as the inputs stand. -/
def showInputs (v12 v5 : Nat) (s : State) : State := s.setReg Reg.PWR.SUPPLY_V (word (v12 % 65536 + v5 % 65536 * 65536))

/-- While the rails stay off after two failed attempts, an input below its PWR_FAIL threshold allows another (R541). -/
def railsAgain (v12 v5 : Nat) (s : State) : State :=
  if v12 < s.fld Reg.PWR.SUPPLY_CFG 15 0 ∨ v5 < s.fld Reg.PWR.SUPPLY_CFG2 15 0 then { s with chip := { s.chip with railTries := 0 } }
  else s

/-- PWR_FAIL (R465): an input below its threshold for 1 µs; the 12 V input is named first. -/
def execPwrFail (v12 v5 lowNs : Nat) (s : State) : Host.Outcome State Fault Refusal :=
  .next (if s.chip.held == some 1 then railsAgain v12 v5 s
    else s.when (monitors s && decide (1000 ≤ lowNs)) fun s =>
    if v12 < s.fld Reg.PWR.SUPPLY_CFG 15 0 then powerFail 1 (showInputs v12 v5 s)
    else if v5 < s.fld Reg.PWR.SUPPLY_CFG2 15 0 then powerFail 2 (showInputs v12 v5 s)
    else s)

/-- POWER_DISABLE (R396): high for 100 µs. -/
def execPowerDisable (highUs : Nat) (s : State) : Host.Outcome State Fault Refusal :=
  .next (s.when (monitors s && decide (100 ≤ highUs)) (powerFail 3))

/-- SUPPLY_WARN (R465): once per excursion below a warning threshold. -/
def execSupplyWarn (v12 v5 : Nat) (s : State) : Host.Outcome State Fault Refusal :=
  .next (s.when s.chip.held.isNone fun s =>
    let low12 := decide (v12 < s.fld Reg.PWR.SUPPLY_CFG 31 16)
    let low5 := decide (v5 < s.fld Reg.PWR.SUPPLY_CFG2 31 16)
    let s1 := if low12 && !s.power.warned12 then raise Page.PWR 3 0 1 {} s else s
    let s2 := if low5 && !s.power.warned5 then raise Page.PWR 3 0 2 {} s1 else s1
    modPower (fun p => { p with warned12 := low12, warned5 := low5 }) (showInputs v12 v5 s2))

/-! ### The reserve (R140, R468) -/

/-- π² in units of 10⁻⁶⁰ (log entry 27). -/
def piSquared : Nat := 9869604401089358618834490999876151135313699407240790626413349

/-- The energy reserve in mJ, rounded down: inertia in 10⁻⁸ kg·m², speeds in 2⁻¹⁶ rpm, efficiency in percent, drag in mW, time in ms,
guard in mJ (R140). -/
def reserveMj (inertia v vMin effPct dragMw extMs guardMj : Nat) : Nat :=
  if v ≤ vMin ∨ inertia = 0 then 0
  else
    let d := 180000000 * 2 ^ 32 * 10 ^ 60
    let kin := inertia * (v * v - vMin * vMin) * piSquared * 1000
    let wind := dragMw * extMs * d
    let used := 100000 * guardMj * d
    min 0xFFFFFFFF ((effPct * (kin - wind) - used) / (100000 * d))

/-- RESERVE_UPDATE (R140, R468): at the end of a revolution, or 100 ms after the last. -/
def execReserveUpdate (revolution : Bool) (s : State) : Host.Outcome State Fault Refusal :=
  .next (s.when (keelAlive s && (revolution || decide (s.keel.reserveTime + 100000000 ≤ s.time))) fun s =>
    let n := reserveMj (s.reg Reg.KEEL.INERTIA).toNat (keelSpeed s) (rpmUnits (s.fld Reg.KEEL.GEN_CFG 27 16))
      (s.fld Reg.KEEL.RESERVE_CFG 6 0) (s.fld Reg.KEEL.DRAG_MW 15 0) (s.fld Reg.KEEL.RESERVE_CFG 31 16) (s.fld Reg.KEEL.RESERVE_GUARD 15 0)
    let s1 := modKeel (fun k => { k with reserveTime := s.time }) s
    if s.reg Reg.KEEL.RESERVE_MJ = word n then s1 else updateCover (s1.setReg Reg.KEEL.RESERVE_MJ (word n)))

/-! ### Write-back caching (R329, R469) -/

/-- DIRTY_LIMIT_WRITE (R329, R469): stored as written; the cover and the health are held against the limit applied. -/
def execDirtyLimitWrite (req : Requester) (addr : Addr) (v : Word) (s : State) : Host.Outcome State Fault Refusal :=
  .next (critWriteAt 21 req addr v (fun s => wbReview (showHealth (s.critPut 21 v))) s)

/-- WB_REQUEST_WRITE (R469): firmware writes change REQUEST alone. -/
def execWbRequestWrite (req : Requester) (addr : Addr) (v : Word) (s : State) : Host.Outcome State Fault Refusal :=
  .next (critWriteAt 22 req addr v (fun s => wbReview (s.critPut 22 (Sys2Proof.setBit (s.critVal 22) 0 (bit v 0)))) s)

/-- WB_ACTIVATE (R469): every condition has held for QUAL_MS. -/
def execWbActivate (s : State) : Host.Outcome State Fault Refusal :=
  .next (s.when (powerRuns s && (wbFault s).isNone && (mode s == 1 || isLevel (mode s)) && !wbActive s
      && s.power.wbSince.any (fun t => decide (t + s.fld Reg.PWR.WB_CFG 15 0 * 1000000 ≤ s.time))) fun s =>
    raise Page.BOAT 5 0 1 ⟨word (s.critFld 22 11 8), 0#32, 0#32⟩ (s.setCritFld 22 1 1 1))

/-! ### Modes and levels (R455 to R464) -/

/-- MODE_TARGET_WRITE (R455, R456). -/
def execModeTargetWrite (req : Requester) (addr : Addr) (v : Word) (s : State) : Host.Outcome State Fault Refusal :=
  .next (critWriteAt 1 req addr v (fun s => if powerRuns s then modeTargetEffect v s else s.critPut 1 (v &&& 0xF#32)) s)

/-- The power manager goes on with levels: not after PWR_FAIL. -/
def levelsRun (s : State) : Bool := powerRuns s && monitors s

/-- IDLE_TIMER (R460): the timers, and a request that waits for idleness. -/
def execIdleTimer (s : State) : Host.Outcome State Fault Refusal := .next (s.when (levelsRun s) idleStep)

/-- LEVEL_ENTERED (R461). -/
def execLevelEntered (s : State) : Host.Outcome State Fault Refusal := .next (s.when (levelsRun s) (advanceEntry 12))

/-- LEVEL_EXIT (R462): an exit trigger in a level. -/
def execLevelExit (s : State) : Host.Outcome State Fault Refusal :=
  .next (s.when (levelsRun s && s.power.trigger.isSome && s.power.entering.isNone && s.power.exiting.isNone && isLevel (mode s)) beginExit)

/-- LEVEL_EXIT_DONE (R462 to R464). -/
def execLevelExitDone (chopMa : Nat) (s : State) : Host.Outcome State Fault Refusal := .next (s.when (levelsRun s) (advanceExit chopMa 6))

/-! ### Domains (R25, R459) -/

/-- Domains that DOMAIN_REQ reaches: not D0, D1, D19, nor those of the actuators. -/
def requestable (d : Nat) : Bool := decide (2 ≤ d) && decide (d ≤ 18) && !(decide (9 ≤ d) && decide (d ≤ 12))

/-- A write of DOMAIN_REQ (R459). -/
def domainReqEffect (v : Word) (s : State) : State :=
  if mode s ≠ 0 ∧ mode s ≠ 8 then modeRefuse 5 s
  else
    let ds := (List.range 20).filter fun d => bit v d && requestable d
    if bit v 31 then ds.foldl (fun t d => switchOff d t) s else switchOnAll ds s

/-- DOMAIN_SWITCH_ON (R459). -/
def execDomainSwitchOn (req : Requester) (v : Word) (s : State) : Host.Outcome State Fault Refusal :=
  .next (s.when (!bit v 31) (withWrite req Reg.PWR.DOMAIN_REQ v (domainReqEffect v)))

/-- DOMAIN_SWITCH_OFF (R459). -/
def execDomainSwitchOff (req : Requester) (v : Word) (s : State) : Host.Outcome State Fault Refusal :=
  .next (s.when (bit v 31) (withWrite req Reg.PWR.DOMAIN_REQ v (domainReqEffect v)))

/-- DOMAIN_FAULT (R25, R480, R484): the domain has not come on; it is a cause of SAFE. -/
def execDomainFault (domain : Nat) (s : State) : Host.Outcome State Fault Refusal :=
  .next (s.when (powerRuns s && decide (domain < 20) && domainOn s domain) fun s =>
    safeCause (sourceOf Page.PWR 4) (lasting Page.PWR 4 0 ⟨word domain, 0#32, 0#32⟩ (domainOff domain s)))

/-! ### SAFE (R480) -/

/-- SAFE_ENTER (R480): the oldest cause reaches the power manager; Cox acts for one in machine check. -/
def execSafeEnter (s : State) : Host.Outcome State Fault Refusal :=
  match s.safePending with
  | [] => .next s
  | c :: rest => .next (enterSafe c { s with safePending := rest })

end Sys2Proof.Machine
end

