-- ==== Sys2Proof/Machine/Boot.lean ====
section
/-! DEFINITION. Commands of the reset block and the boot: power-on, failing rails and clocks, the return of power, device reset,
recovery, soft reset, engine faults and the relock of a clock (R44, R55, R56, R305, R466, R467, R492, R541 to R543). -/

namespace Sys2Proof.Machine

/-! ### Power-on reset (R541, R542, R466, R467) -/

/-- The core die awaits power: it has never booted, or it is held for want of power. -/
def awaitsPower (s : State) : Bool := s.chip.held == some 1 || s.chip.held == some 2 || (s.chip.held.isNone && !s.chip.booted)

/-- POWER_ON (R541): both inputs have been good for 10 ms; the isolation switch closes, the rails come up and the boot chain runs. -/
def execPowerOn (goodMs : Nat) (boot : BootInputs) (s : State) : Host.Outcome State Fault Refusal :=
  .next (s.when (decide (10 ≤ goodMs) && awaitsPower s && s.chip.railTries != 2) fun s =>
    bootChain 1 boot (setIsolation false (powerRelease 1 false s)))

/-- RAIL_START_FAIL (R541): every rail goes off; a second failure leaves the rails off until an input falls and returns. -/
def execRailStartFail (_rail percent : Nat) (s : State) : Host.Outcome State Fault Refusal :=
  .next (s.when (decide (percent < 90) && awaitsPower s && s.chip.railTries != 2) fun s =>
    powerOff 1 (s.chip.railTries + 1) false s)

/-- RAIL_LOW (R542): a rail more than 8 % low for 5 µs holds the core die in power-on reset. -/
def execRailLow (_rail lowNs : Nat) (s : State) : Host.Outcome State Fault Refusal :=
  .next (s.when (decide (5000 ≤ lowNs) && s.chip.held.isNone) (powerOff 5 0 true))

/-- REFCLK_LOSS (R542): no edge for 10 µs. -/
def execRefclkLoss (quietNs : Nat) (s : State) : Host.Outcome State Fault Refusal :=
  .next (s.when (decide (10000 ≤ quietNs) && s.chip.held.isNone) (powerOff 6 0 true))

/-- RAIL_RETURN (R542). -/
def execRailReturn (boot : BootInputs) (s : State) : Host.Outcome State Fault Refusal :=
  .next (s.when (s.chip.held == some 5) fun s => bootChain 5 boot (powerRelease 5 true s))

/-- REFCLK_RETURN (R542). -/
def execRefclkReturn (boot : BootInputs) (s : State) : Host.Outcome State Fault Refusal :=
  .next (s.when (s.chip.held == some 6) fun s => bootChain 6 boot (powerRelease 6 true s))

/-- BUS_COLLAPSE (R467): after PWR_FAIL the bus falls below 8,500 mV; a dump in progress ends incomplete. -/
def execBusCollapse (busMv : Nat) (s : State) : Host.Outcome State Fault Refusal :=
  .next (s.when (decide (busMv < 8500) && s.chip.held.isNone && pwrFailing s) (powerOff 2 0 false))

/-- POWER_RETURN (R466): 10 ms of good inputs with POWER_DISABLE low, the dump having ended or been skipped; the isolation
switch closes. -/
def execPowerReturn (v12 v5 goodMs : Nat) (disable : Bool) (boot : BootInputs) (s : State) : Host.Outcome State Fault Refusal :=
  .next (s.when (((s.chip.held.isNone && pwrFailing s && s.chip.dumped && s.safe.dump.isNone) || s.chip.held == some 2)
      && decide (s.fld Reg.PWR.SUPPLY_CFG 15 0 + 600 ≤ v12) && decide (s.fld Reg.PWR.SUPPLY_CFG2 15 0 + 100 ≤ v5)
      && !disable && decide (10 ≤ goodMs)) fun s => bootChain 2 boot (setIsolation false (powerRelease 2 false s)))

/-! ### Device reset (R55, R543) -/

/-- A device reset and the boot chain after it. -/
def resetAndBoot (cause requester : Nat) (forced : Bool) (boot : BootInputs) (s : State) : State :=
  bootChain cause boot (deviceReset cause requester forced s)

/-- The requester may write DEV_RESET with effect (R55). -/
def mayReset (req : Requester) (s : State) : Bool :=
  req == .cox || (req == .debugPort && debugLevel s == 2) || (isStroke req && s.bit Reg.SYS.RESET_CFG 0)

/-- No dirty data is held (R55). -/
def noDirty (s : State) : Bool := dirtyCount s == 0 && !wbActive s

/-- A write of DEV_RESET with GO. -/
def devResetEffect (req : Requester) (v : Word) (boot : BootInputs) (s : State) : State :=
  if !bit v 0 then s
  else if !mayReset req s then raise Page.SYS 9 5 1 {} s
  else if fld v 31 16 ≠ 0x5E7D then raise Page.SYS 9 5 2 {} s
  else if !bit v 1 && !noDirty s then raise Page.SYS 9 5 3 {} s
  else resetAndBoot 4 (Requester.code req) (bit v 1) boot s

/-- DEV_RESET (R55). -/
def execDevReset (req : Requester) (v : Word) (boot : BootInputs) (s : State) : Host.Outcome State Fault Refusal :=
  .next (withWriteOut { boot := boot } req Reg.SYS.DEV_RESET v (devResetEffect req v boot) s)

/-- RESET_N (R543): a pulse of 100 ns to 1 µs may or may not reset the device: a free value says which. -/
def execResetN (lowNs : Nat) (boot : BootInputs) (s : State) : Host.Outcome State Fault Refusal :=
  .next (s.when (s.chip.held.isNone && decide (100 ≤ lowNs)) fun s =>
    if 1000 ≤ lowNs then resetAndBoot 3 0 false boot s
    else if bit s.freeWord 0 then resetAndBoot 3 0 false boot s.useFree
    else s.useFree)

/-- UART_CONTAINER (R492): a good TYPE 4 container runs as stage one with SLOT 3; another is answered with 0x30 plus its code. -/
def execUartContainer (bytes : List Byte) (s : State) : Host.Outcome State Fault Refusal :=
  .next (s.when (s.chip.held.isNone && s.chip.recovery) fun s =>
    let code := conCheck [4] s bytes
    if code = 0 then
      let s1 : State := { s with chip := { s.chip with recovery := false } }
      handOff 3 bytes (⟨false, false, 0, 0⟩, ⟨false, false, 0, 0⟩) s1
    else { s with chip := { s.chip with uart := s.chip.uart ++ [BitVec.ofNat 8 (0x30 + code)] } })

/-! ### Soft reset (R44, R330) -/

/-- The block of page `p` is reset: its work ends, its state and registers return, CTRL keeps its bits until the reset is over. KEEL
returns to CS_MODE 0 with the spindle stopped alone (R112). -/
def softResetEffect (p : Nat) (v : Word) (s : State) : State :=
  if !bit v 1 ∨ s.bit (Reg.CTRL p) 1 then s
  else
    let old := s.reg (Reg.CTRL p)
    let s0 := blockEnd p s
    let left := s0.cache.lines
    let s1 := startRestore p (blockReset p (heldKeys p) (clearCheck p s0))
    let s2 := s1.setReg (Reg.CTRL p) (setBit old 1 true)
    if p = Page.SAFE then wbReview (showHealth s2)
    else if p = Page.CACHE then modCache (fun c => { c with lines := left }) s2
    else if p = Page.KEEL ∧ keelState s ≠ 0 then s2.setFld (Reg.STATUS p) 17 16 (s.fld (Reg.STATUS p) 17 16)
    else s2

/-- SOFT_RESET (R44). -/
def execSoftReset (req : Requester) (page : Nat) (v : Word) (s : State) : Host.Outcome State Fault Refusal :=
  .next (s.when (bit v 1) (withWrite req (Reg.CTRL page) v (softResetEffect page v)))

/-- SOFT_RESET_DONE (R44): SOFT_RESET clears itself, and CTRL holds its reset value. -/
def execSoftResetDone (page : Nat) (s : State) : Host.Outcome State Fault Refusal :=
  .next (s.when (s.bit (Reg.CTRL page) 1) fun s =>
    let s1 := if page = Page.CACHE then cacheReset s else s
    if page = Page.CACHE ∧ s1.cache.lines ≠ [] then s1 else s1.setReg (Reg.CTRL page) (regReset (Reg.CTRL page)))

/-! ### Engine faults (R305) and clocks (R56) -/

/-- The code names a microcoded engine that is present, powered and not in machine check. -/
def engineUp (s : State) (c : Nat) : Bool := decide (0x10 ≤ c) && decide (c ≤ 0x34) && blockAlive s (enginePage c)

/-- MICROCODE_FAULT (R303 to R305): the engine fetches at `addr`. It enters machine check with the code of the check that the fetch fails;
else it executes the word. -/
def execMicrocodeFault (engine addr : Nat) (x : MicroFetch) (s : State) : Host.Outcome State Fault Refusal :=
  .next (s.when (engineUp s engine) fun s =>
    match microCode s engine addr x with
    | some c => engineCheck engine (sourceOf (enginePage engine) 0) c s
    | none => microRun engine addr x s)

/-- POLL_TIMEOUT (R305, R526): not while the debug port halts the engine. -/
def execPollTimeout (engine _addr : Nat) (s : State) : Host.Outcome State Fault Refusal :=
  .next (s.when (engineUp s engine && !engineHalted s engine) (engineCheck engine (sourceOf (enginePage engine) 0) 4))

end Sys2Proof.Machine
end

