-- ==== Sys2Proof/Machine/CacheMem.lean ====
section
/-! DEFINITION. The meanings of the commands of the buffer cache (R330 to R338). -/

namespace Sys2Proof.Machine

/-- The precise load access fault: cause 1 SRAM_PARITY, 2 POISON (R57, R69, R78). -/
def loadFault (cause : Nat) (req : Requester) (a : Addr) (s : State) : State :=
  match req with
  | .stroke n =>
    let pl : Payload := ⟨loWord a.toNat, hiWord a.toNat, 0#32⟩
    let s1 := (s.setReg (Reg.STROKE.FAULT_ADDR_LO n.val) (loWord a.toNat)).setReg (Reg.STROKE.FAULT_ADDR_HI n.val)
      (word (a.toNat / 2 ^ 32 % 256 + cause * 256))
    busError (if cause = 2 then raise (Page.STROKE n.val) 2 0 0 pl s1 else lasting (Page.STROKE n.val) 1 0 pl s1)
  | _ => busError s

/-- Bytes of an access. -/
def accessBytes : AccessWidth → Nat
  | .byte => 1
  | .half => 2
  | .word => 4
  | .double => 8

/-- The parity outcome of the line at `k` (R333): none to go on with, or the state after the machine check. -/
def lineParity (parity : CacheParity) (noise : DramNoise) (k g : Nat) (s : State) : State × Bool :=
  match parity, lineAt s k with
  | .none, _ | .l1, _ | .victim, _ | .sram _, _ | .data2, _ | .tag2, _ | .victim2, _ => (s, true)
  | .tag, _ => (machineCheck Page.CACHE (sourceOf Page.CACHE 2) 0
      (raise Page.CACHE 2 4 0 ⟨word (k / 16), word (k % 16), 0#32⟩ (rangeEnd 2 s)), false)
  | .data, some x =>
    if x.dirty then
      (machineCheck Page.CACHE (sourceOf Page.CACHE 1) 0 (raise Page.CACHE 1 4 0 {} (rangeEnd 2 s)), false)
    else
      let s1 := transient Page.CACHE 0 0 ⟨loWord (64 * g), hiWord (64 * g), 0#32⟩ (s.count Reg.CACHE.CLEAN_PARITY_COUNT 1)
      (fillLine noise k g (putLine k none s1), true)
  | .data, none => (s, true)

/-- One access of up to 8 bytes within a line. -/
def accessLine (req : Requester) (write : Bool) (a : Addr) (off n : Nat) (v : BitVec 64) (parity : CacheParity)
    (noise : DramNoise) (g : Nat) (s : State) : State :=
  let r := if parity = .victim ∧ (findLine s g).isNone ∧ (lineAt s (allocWay s g)).any CacheLine.dirty then
      (allocWay s g, machineCheck Page.CACHE (sourceOf Page.CACHE 1) 0 (raise Page.CACHE 1 4 0 {} (rangeEnd 2 s)))
    else reachLine noise g s
  if inMachineCheck r.2 Page.CACHE then busError r.2
  else
  let p := lineParity parity noise r.1 g r.2
  if !p.2 then busError p.1
  else if write then busOk 0#32 (storeLine r.1 g off (toBytes n v.toNat) p.1)
  else
    match lineAt p.1 r.1 with
    | none => busError p.1
    | some x =>
      if x.poison then loadFault 2 req a p.1
      else
        let d := ofBytes ((x.data.drop off).take n)
        busOk (word d) (modCache (fun c => { c with loaded := BitVec.ofNat 64 d }) p.1)

/-- The parity error that an access meets in its first line, and in its second. -/
def firstParity : CacheParity → CacheParity
  | .data => .data | .tag => .tag | .victim => .victim | .none | .l1 | .sram _ | .data2 | .tag2 | .victim2 => .none
def secondParity : CacheParity → CacheParity
  | .data2 => .data | .tag2 => .tag | .victim2 => .victim | .none | .l1 | .sram _ | .data | .tag | .victim => .none

/-- The cache does not answer (R25, R330). -/
def cacheAway (s : State) : Bool :=
  !domainOn s 6 || inTransit s 6 || !blockAlive s Page.CACHE || s.bit (Reg.CTRL Page.CACHE) 1

/-- The granules of DRAM that an access to the line of granule `g` reads or writes: that of a miss and of the dirty line it evicts, and that
of a line refilled or written through (R331 to R333). -/
def lineNeeds (write : Bool) (parity : CacheParity) (g : Nat) (s : State) : List Nat :=
  match findLine s g with
  | some _ => if parity = .data || (write && hostClass s g) then [g] else []
  | none =>
    match lineAt s (allocWay s g) with
    | some x => if x.dirty then [g, lineGran (allocWay s g) x] else [g]
    | none => [g]

/-- DRAM serves an access to the line of granule `g`: the ports it needs are in service (R319). -/
def lineServed (write : Bool) (parity : CacheParity) (g : Nat) (s : State) : Bool :=
  (lineNeeds write parity g s).all fun x => granServes x s

/-- An access to the DRAM window waits: the cache does not answer, or is enabled and the DRAM does not serve what the access needs
(R25, R315, R319, R330). -/
def windowWaits (write : Bool) (parity : CacheParity) (a : Addr) (n : Nat) (s : State) : Bool :=
  let off := a.toNat - dramBase
  cacheAway s || (s.bit (Reg.CTRL Page.CACHE) 0
    && !(lineServed write (firstParity parity) (off / 64) s
      && (off / 64 == (off + n - 1) / 64 || lineServed write (secondParity parity) (off / 64 + 1) s)))

/-- Bytes that an access to memory reaches; none for a register access. -/
def BusOp.bytes : BusOp → Nat
  | .store n _ => n
  | .load n => n
  | _ => 0

/-- An access of `req` to a line that `n` bytes at `a` reach is among those that wait at their destinations. -/
def linesWait (req : Requester) (a : Addr) (n : Nat) (hs : List HeldAccess) : Bool :=
  hs.any fun h => h.req == req && !h.after && h.op.bytes != 0 && decide (a.toNat / 64 ≤ (h.addr.toNat + h.op.bytes - 1) / 64)
    && decide (h.addr.toNat / 64 ≤ (a.toNat + n - 1) / 64)

/-- What the access will do once it is made. -/
def memOp (write : Bool) (n : Nat) (v : BitVec 64) : BusOp := if write then .store n v else .load n

/-- A load that gives `d`. -/
def loadGives (d : Nat) (s : State) : State := busOk (word d) (modCache (fun c => { c with loaded := BitVec.ofNat 64 d }) s)

/-- The lines of an access are reached, the second of one that crosses a line after the first (R330 to R334). -/
def accessLines (req : Requester) (write : Bool) (addr : Addr) (n : Nat) (v : BitVec 64) (parity : CacheParity)
    (noise : DramNoise) (s : State) : State :=
  let off := addr.toNat - dramBase
  let first := min n (64 - off % 64)
  let s1 := accessLine req write addr (off % 64) first v (firstParity parity) noise (off / 64) s
  if first = n || s1.bus.error then s1
  else
    let s2 := accessLine req write addr 0 (n - first) (v >>> (8 * first)) (secondParity parity) noise (off / 64 + 1) s1
    if write || s2.bus.error then s2 else loadGives (s1.cache.loaded.toNat + s2.cache.loaded.toNat * 2 ^ (8 * first)) s2

/-- A parity error in a line of a Stroke core's L1 cache is mended by the refetch (R57, R69). -/
def l1Mended (req : Requester) (a : Addr) (s : State) : State :=
  match req with
  | .stroke n =>
    transient (Page.STROKE n.val) 0 0 ⟨loWord a.toNat, hiWord a.toNat, 0#32⟩ (s.count (Reg.STROKE.L1_PARITY_COUNT n.val) 1)
  | _ => s

/-- An access of the DRAM window through the cache. One that has just left its core (`fresh`) waits where the memory does not serve it, or
behind an earlier one of its requester to its lines. A load that met an error in the core's L1 cache has mended it once it is served (R57,
R69). -/
def cacheWindow (fresh : Bool) (req : Requester) (write : Bool) (addr : Addr) (n : Nat) (v : BitVec 64) (parity : CacheParity)
    (noise : DramNoise) (s : State) : State :=
  if usableSize s < addr.toNat - dramBase + n then busError (refuseAccess req addr write 1 s)
  else if fresh && (windowWaits write parity addr n s || linesWait req addr n s.bus.held) then
    holdAccess req addr (memOp write n v) false { cache := parity, noise := noise } s
  else if !s.bit (Reg.CTRL Page.CACHE) 0 then busError (refuseAccess req addr write 2 s)
  else
    let t := accessLines req write addr n v parity noise (strikeAllDram noise (rangeAdvance s))
    if parity = .l1 && !write && !t.bus.error then l1Mended req addr t else t

/-- A byte of an on-die SRAM fails its parity at a load: one re-read, which is good or the load access fault (R69). -/
def sramParity (again : Bool) (req : Requester) (a : Addr) (d : Nat) (s : State) : State :=
  let shared := memRange a.toNat 1 = 4
  match req with
  | .stroke n =>
    let s1 := if shared then s.count (Reg.STROKE.SRAM_PARITY_COUNT n.val) 1 else s
    if again then loadFault 1 req a s1
    else loadGives d (transient (Page.STROKE n.val) 1 0 ⟨loWord a.toNat, hiWord a.toNat, 0#32⟩ s1)
  | _ => if again then loadFault 1 req a s else loadGives d s

/-- A load from an SRAM. -/
def sramLoad (req : Requester) (a : Addr) (n : Nat) (parity : CacheParity) (s : State) : State :=
  let d := ofBytes (sramBytes s a.toNat n)
  match parity with
  | .sram again => sramParity again req a d s
  | .l1 => loadGives d (l1Mended req a s)
  | _ => loadGives d s

/-- An access to memory that has left its core (R36, R37), just now or earlier; `rom` is what the mask ROM or the flash holds. -/
def memArrived (fresh : Bool) (req : Requester) (write : Bool) (addr : Addr) (n : Nat) (v : BitVec 64) (rom : Nat) (parity : CacheParity)
    (noise : DramNoise) (s : State) : State :=
  let a := addr.toNat
  let r := memRange a n
  if r = 0 then busError (refuseAccess req addr write 1 s)
  else if r = 5 then busError (refuseAccess req addr write 3 s)
  else if !mayTouch r req write s then busError (refuseAccess req addr write 2 s)
  else if r = 7 then cacheWindow fresh req write addr n v parity noise s
  else if write then busOk 0#32 (putSram a (toBytes n v.toNat) s)
  else if r = 1 ∨ r = 6 then loadGives (rom % 2 ^ (8 * n)) s
  else sramLoad req addr n parity s

/-- An access to memory. Nothing is accessed while the core die is held, and an access of a core that FENCE.DRAIN stalls is made after
the stall (R24). -/
def memAccess (req : Requester) (write : Bool) (addr : Addr) (n : Nat) (v : BitVec 64) (rom : Nat) (parity : CacheParity)
    (noise : DramNoise) (s : State) : State :=
  if s.chip.held.isSome then s
  else if s.bus.stalled.contains req then
    holdAccess req addr (memOp write n v) true { rom := BitVec.ofNat 64 rom, cache := parity, noise := noise } s
  else memArrived true req write addr n v rom parity noise s

/-- CACHE_ACCESS (R36, R37, R330 to R334): a processor's access to memory. What the mask ROM and the boot flash hold is a free value.
An access to a register page is no memory access. -/
def execCacheAccess (req : Requester) (write : Bool) (addr : Addr) (width : AccessWidth) (v : BitVec 64)
    (parity : CacheParity) (noise : DramNoise) (s : State) : Host.Outcome State Fault Refusal :=
  let n := accessBytes width
  let r := memRange addr.toNat n
  .next (s.when (r != 5) fun s =>
    if r = 1 ∨ r = 6 then
      memAccess req write addr n v (s.freeWord.toNat + s.useFree.freeWord.toNat * 2 ^ 32) parity noise s.useFree.useFree
    else memAccess req write addr n v 0 parity noise s)

/-- A write of LOCK_MASK (R335). -/
def lockMaskEffect (v : Word) (s : State) : State :=
  let n := ((List.range 16).filter (fun w => bit v w)).length
  if 8 < n then raise Page.CACHE 5 5 1 {} s
  else if s.cache.range.isSome then raise Page.CACHE 5 5 2 {} s
  else s.setReg Reg.CACHE.LOCK_MASK (v &&& 0xFFFF#32)

/-- LOCK_MASK_WRITE (R335). -/
def execLockMaskWrite (req : Requester) (v : Word) (s : State) : Host.Outcome State Fault Refusal :=
  .next (withWrite req Reg.CACHE.LOCK_MASK v (lockMaskEffect v) s)

/-- A write of RANGE_CTRL with GO 1 and the operation `op`. -/
def rangeStart (op : Nat) (req : Requester) (v : Word) (s : State) : State :=
  s.when (bit v 8 && fld v 2 0 == op) (withWrite req Reg.CACHE.RANGE_CTRL v (rangeCtrlEffect v))

/-- RANGE_CLEAN (R336). -/
def execRangeClean (req : Requester) (v : Word) (s : State) : Host.Outcome State Fault Refusal := .next (rangeStart 1 req v s)

/-- RANGE_INVALIDATE (R336). -/
def execRangeInvalidate (req : Requester) (v : Word) (s : State) : Host.Outcome State Fault Refusal := .next (rangeStart 2 req v s)

/-- RANGE_CLEAN_INVALIDATE (R336). -/
def execRangeCleanInvalidate (req : Requester) (v : Word) (s : State) : Host.Outcome State Fault Refusal :=
  .next (rangeStart 3 req v s)

/-- RANGE_ZERO (R336). -/
def execRangeZero (req : Requester) (v : Word) (s : State) : Host.Outcome State Fault Refusal := .next (rangeStart 4 req v s)

/-- RANGE_LOCK_FILL (R336). -/
def execRangeLockFill (req : Requester) (v : Word) (s : State) : Host.Outcome State Fault Refusal := .next (rangeStart 5 req v s)

/-- RANGE_STOP (R338): the operation ends after the line in progress. -/
def execRangeStop (req : Requester) (v : Word) (s : State) : Host.Outcome State Fault Refusal :=
  .next (s.when (bit v 9) (withWrite req Reg.CACHE.RANGE_CTRL v (rangeCtrlEffect v)))

/-- RANGE_DONE (R333, R338): every line examined and acknowledged; a parity error in a dirty line, or in a tag or state, ends the
operation. -/
def execRangeDone (parity : RangeParity) (s : State) : Host.Outcome State Fault Refusal :=
  .next (s.when (blockAlive s Page.CACHE && s.cache.range.isSome) fun s =>
    let s1 := rangeAdvance s
    match parity with
    | .dirty => machineCheck Page.CACHE (sourceOf Page.CACHE 1) 0 (raise Page.CACHE 1 4 0 {} (rangeEnd 2 s1))
    | .tag => machineCheck Page.CACHE (sourceOf Page.CACHE 2) 0 (raise Page.CACHE 2 4 0 {} (rangeEnd 2 s1))
    | .none => if s1.cache.range.any (fun r => r.done == rangeTotal r) then rangeEnd 1 s1 else s1)

end Sys2Proof.Machine
end

