-- ==== Sys2Proof/Machine/EventMap.lean ====
section
/-! DEFINITION. The severity with which each event is raised (R58, R60, R146, R147 and the event tables of every chapter). -/

namespace Sys2Proof.Machine

/-- The severities of a page's events, in order of k; where a table lists two, the first; 9 for a reserved bit. -/
def eventSeverities (p : Nat) : List Nat :=
  if p = 0x000 then [4, 5, 5, 5, 5, 5, 3, 3, 5, 5, 0] else if p = 0x001 then [0, 5, 0, 0, 3, 0, 0, 0, 0, 3]
  else if p = 0x002 then [1, 0] else if p = 0x003 then [5] else if p = 0x004 then [3, 0] else if p = 0x005 then [1, 1, 1, 4]
  else if p = 0x010 then [0, 3, 0, 0, 0, 5, 0, 1] else if 0x011 ≤ p ∧ p ≤ 0x014 then [1, 1, 0, 3, 0]
  else if 0x020 ≤ p ∧ p ≤ 0x023 then [0, 1, 1, 1, 1, 0, 0, 3, 0, 5, 5, 0, 1, 0, 0, 3]
  else if p = 0x024 then [0, 1, 3, 3]
  else if p = 0x028 then [0, 0, 0, 1, 0, 3, 1, 0, 0, 5, 0, 0, 3, 0, 3, 0, 0, 0]
  else if 0x030 ≤ p ∧ p ≤ 0x03F then
    [5, 3, 0, 1, 0, 1, 3, 0, 0, 1, 1, 0, 9, 9, 9, 9, 9, 9, 9, 9, 9, 9, 9, 9, 0, 0, 1, 1, 5, 0]
  else if 0x040 ≤ p ∧ p ≤ 0x043 then [0, 5, 0, 3, 0, 1, 1] else if p = 0x044 then [0, 0, 1, 5]
  else if p = 0x048 then [1, 3, 0, 1, 0, 0] else if 0x050 ≤ p ∧ p ≤ 0x057 then [1, 3, 0, 3, 1, 5]
  else if p = 0x058 then [0, 0, 0, 3, 3, 0, 1, 1] else if p = 0x059 then [1, 3, 0, 0, 1]
  else if 0x060 ≤ p ∧ p ≤ 0x063 then [0, 1, 3, 1, 0, 0, 5, 0] else if p = 0x064 then [0, 0, 0, 0, 0, 0, 1, 1]
  else if p = 0x065 then [0, 5, 0, 1] else if p = 0x070 then [1, 0, 5, 0, 0, 0, 5, 0, 0, 1, 1]
  else if p = 0x071 then [1, 4, 4, 0, 5, 5, 0] else if p = 0x072 ∨ p = 0x073 then [0, 1, 3, 0, 3, 0]
  else if p = 0x074 then [0, 1, 0, 0] else if p = 0x078 ∨ p = 0x079 then [1, 0] else if p = 0x07A then [0, 5, 0, 0]
  else if p = 0x080 then [0, 0, 0, 0, 5, 0, 1, 0] else if p = 0x081 then [0, 0, 5, 5] else if p = 0x082 then [0, 5]
  else if 0x088 ≤ p ∧ p ≤ 0x08B then [1, 1, 3, 0, 5, 3] else if p = 0x08C then [0, 1] else if p = 0x08D then [0, 3, 0, 1]
  else if p = 0x090 then [1, 3, 0, 3, 3, 3, 5, 0] else if p = 0x091 then [1, 0, 0, 1, 0, 0, 0]
  else if p = 0x098 then [0, 5, 1] else []

/-- Severity of event `k` of page `p`; none for a bit that is reserved and never raised. -/
def eventSeverity (p k : Nat) : Option Nat := ((eventSeverities p)[k]?).filter (· != 9)

/-- A write of EV_FORCE (R43, R61): each bit set raises its event once, with code 0xFFFF and no payload. -/
def evForceEffect (p : Nat) (v : Word) (s : State) : State :=
  (List.range 32).foldl (fun t k =>
    if bit v k then
      match eventSeverity p k with
      | some sev => raise p k sev 0xFFFF {} t
      | none => t
    else t) s

/-- EV_FORCE (R61). -/
def execEvForce (req : Requester) (page : Nat) (v : Word) (s : State) : Host.Outcome State Fault Refusal :=
  .next (withWrite req (Reg.EV_FORCE page) v (evForceEffect page v) s)

end Sys2Proof.Machine
end

