-- ==== Sys2Proof/Machine/Haz.lean ====
section
/-! DEFINITION. Firmware's commands to the hazard table (R429, R432, R434, R436, R453). -/

namespace Sys2Proof.Machine

/-- FW_RESULT: 1 ENTERED, 2 WAITING, 3 refused. -/
def hazResult (outcome code e : Nat) (s : State) : State := s.setReg Reg.HAZ.FW_RESULT (word (outcome + code * 4 + e % 4096 * 65536))

/-- A firmware command is refused (R436). -/
def hazRefused (code : Nat) (s : State) : State := raise Page.HAZ 3 5 code {} (hazResult 3 code 0 s)

/-- A write of FW_CMD with operation `op`. -/
def hazCommand (op : Nat) (req : Requester) (v : Word) (f : State → State) (s : State) : State :=
  s.when (fld v 29 28 == op) (withWrite req Reg.HAZ.FW_CMD v f)

/-- An earlier entry overlaps the entry. -/
def earlierOverlap (s : State) (x : HazEntry) : Bool := (hazList s).any fun y => decide (y.2.order < x.order) && overlaps s x y.2

/-- HAZ_ENTER (R429, R434, R436). -/
def execHazEnter (req : Requester) (v : Word) (s : State) : Host.Outcome State Fault Refusal :=
  .next (hazCommand 1 req v (fun s =>
    let lba := s.reg64 Reg.HAZ.FW_LBA_LO
    let n := (s.reg Reg.HAZ.FW_COUNT).toNat
    let task := fld v 20 8
    match hazFree s with
    | none => hazRefused 1 (sayFull s)
    | some e =>
      if n = 0 ∨ 2 ^ 64 < lba + n ∨ 8192 ≤ task then hazRefused 2 s
      else
        let x : HazEntry := { lu := fld v 5 0, write := bit v 7, ordered := (taskAt s task).any (·.attr == 2), fw := true, task := task
                              lba := lba, blocks := n, order := s.slip.nextOrder, waiting := false }
        let wait := (hazList s).any fun y => overlaps s x y.2
        hazResult (if wait then 2 else 1) 0 e (enterHaz e { x with waiting := wait } s)) s)

/-- HAZ_RELEASE (R432): of a firmware entry; another is refused with code 2. -/
def execHazRelease (req : Requester) (v : Word) (s : State) : Host.Outcome State Fault Refusal :=
  .next (hazCommand 2 req v (fun s =>
    let e := fld v 11 0
    if (hazEntry s e).any (·.fw) then hostDrain (hazResult 0 0 e (dropHaz e s)) else hazRefused 2 s) s)

/-- FW_READY (R436): every earlier overlapping entry of a waiting firmware entry is released. -/
def execFwReady (s : State) : Host.Outcome State Fault Refusal :=
  .next (s.when (pageOn s Page.HAZ) fun s =>
    let s1 := hostDrain s
    match (hazList s1).find? fun y => y.2.fw && y.2.waiting && !earlierOverlap s1 y.2 with
    | some y => raise Page.HAZ 1 0 y.1 {} (setHaz y.1 (some { y.2 with waiting := false }) s1)
    | none => s1)

/-- HAZ_FW_CMD_UNLISTED (R453): refused with code 2. -/
def execHazFwCmdUnlisted (req : Requester) (v : Word) (s : State) : Host.Outcome State Fault Refusal :=
  .next (s.when (fld v 29 28 == 0 || fld v 29 28 == 3) (withWrite req Reg.HAZ.FW_CMD v (hazRefused 2)))

end Sys2Proof.Machine
end

