-- ==== Sys2Proof/Machine/HostData.lean ====
section
/-! DEFINITION. The data and the responses of host tasks, and firmware's service operations (R31, R407 to R410, R413 to R416, R78). -/

namespace Sys2Proof.Machine

/-- The service operation of a task that is moving data or is to respond: not yet ended. -/
def svcRunning (s : State) (id op : Nat) : Option (Nat × SvcOp) :=
  (svcOf s id).bind fun x => if x.2.op = op ∧ x.2.outcome = 0 then some x else none

/-- DATA_STOP (R414, R415): code 1 poison, 2 protection information on read, 3 on write. -/
def dataStop (t : HostTask) (code lba : Nat) (s : State) : State :=
  let pl : Payload := ⟨loWord lba, hiWord lba, word t.index⟩
  let s1 := if code = 1 then s.count Reg.SLIPC.POISON_STOP_COUNT 1 else s.count Reg.SLIPC.PI_STOP_COUNT 1
  if code = 2 then lasting Page.SLIPC 3 2 pl s1 else raise Page.SLIPC 3 0 code pl s1

/-! ### XFER_RDY (R327, R407, R474) -/

/-- XFER_RDY frames outstanding on a port. -/
def xrdyOut (s : State) (p : Nat) : Nat :=
  ((heldTasks s).filter fun t => nexusPort s t.nexus == p
    && (t.xrdy.isSome || (svcRunning s t.id 2).any fun x => x.2.xrdy.isSome)).length

/-- Bytes of one burst. -/
def burstBytes (s : State) : Nat := s.fld Reg.SLIPC.INTAKE_CFG 31 16 * 1024

/-- Sectors that the first `n` bytes of a command touch. -/
def sectorsIn (s : State) (t : HostTask) (u : Lu) (n : Nat) : Nat := if n = 0 then 0 else sectorOfBlock s t ((n - 1) / linkBlock u t) + 1

/-- End of the burst that `g` granules allow from `t.asked` on, and the granules it uses. -/
def burstEnd (s : State) (t : HostTask) (u : Lu) (g : Nat) : Nat × Nat :=
  let done := sectorsIn s t u t.asked
  let k := done + g / luStride u
  let top := match (taskSectors s t)[k - 1]? with
    | some h => (h.blk + h.n) * linkBlock u t
    | none => linkBytes s t
  let stop := min (min (linkBytes s t) (t.asked + burstBytes s)) (if k = 0 then 0 else top)
  (stop, (sectorsIn s t u stop - done) * luStride u)

/-- An XFER_RDY frame leaves. -/
def sendXferRdy (t : HostTask) (l offset len : Nat) (s : State) : State := transmit l ⟨2, t.id, t.nexus, t.tag, offset, len, 0, [], false⟩ s

/-- The next burst of a fast-path write: under its reservation, or write-through (R31, R327). -/
def nextBurst (t : HostTask) (u : Lu) (l : Nat) (s : State) : State :=
  let go := fun (stop : Nat) (v : State) =>
    sendXferRdy t l t.asked (stop - t.asked) (modTask t.id (fun x => { x with asked := stop, xrdy := some stop }) v)
  let plain := min (linkBytes s t) (t.asked + burstBytes s)
  match s.boat.granted.find? fun r => r.task == t.index with
  | some r =>
    let b := burstEnd s t u r.granules
    if b.1 ≤ t.asked then s
    else
      let s1 := modBoat (fun x => { x with granted := x.granted.erase r }) s
      let s2 := if b.2 < r.granules then releaseDirty (r.granules - b.2) s1 else s1
      let s3 := modTask t.id (fun x => { x with reserved := x.reserved + b.2 }) s2
      go b.1 (if t.dtab then s3 else putDtab t u s3)
  | none =>
    if !wbActive s || s.boat.through.contains t.index then
      go plain (modTask t.id (fun x => { x with through := true }) (modBoat (fun x => { x with through := x.through.filter (· != t.index) }) s))
    else s

/-- XFER_RDY (R407): for the task with index `task`. -/
def execXferRdy (task : Nat) (s : State) : Host.Outcome State Fault Refusal :=
  .next (s.when (slipAlive s) fun s =>
    let s1 := hostDrain s
    match taskAt s1 task with
    | none => s1
    | some t =>
      match pickLane s1 t.lane t.nexus, taskLu s1 t, svcRunning s1 t.id 2 with
      | some l, _, some (c, x) =>
        let stop := min x.bytes (x.asked + burstBytes s1)
        if t.aborted || x.xrdy.isSome || decide (x.bytes ≤ x.asked) || decide (s1.fld Reg.SLIPC.INTAKE_CFG 15 8 ≤ xrdyOut s1 (nexusPort s1 t.nexus)) then s1
        else sendXferRdy t l (x.offset + x.asked) (stop - x.asked) (setSvc c (some { x with asked := stop, xrdy := some stop }) s1)
      | some l, some u, none =>
        if t.op != 2 || t.haz.isNone || t.aborted || t.answer.isSome || t.xrdy.isSome || decide (linkBytes s1 t ≤ t.asked)
            || decide (s1.fld Reg.SLIPC.INTAKE_CFG 15 8 ≤ xrdyOut s1 (nexusPort s1 t.nexus)) then s1
        else nextBurst t u l s1
      | _, _, _ => s1)

/-! ### DATA_FRAME (R407, R408, R413, R415) -/

/-- The last block that the command covers of block `i`'s sector. -/
def lastOfSector (s : State) (t : HostTask) (i : Nat) : Bool :=
  match (taskSectors s t)[sectorOfBlock s t i]? with
  | some h => h.blk + h.n == i + 1
  | none => true

/-- One stored block lands in whole granules; the bytes of the granule not yet complete are held (R408). -/
def landBlock (id : Nat) (u : Lu) (i : Nat) (bytes : List Byte) (s : State) : State :=
  match findTask s id with
  | none => s
  | some t =>
    let a := bufBlock s u t i
    let fresh := t.holdAt + t.hold.length != a
    let at_ := if fresh then a / 64 * 64 else t.holdAt
    let got := (if fresh then List.replicate (a % 64) 0#8 else t.hold) ++ bytes
    let got := if lastOfSector s t i then got ++ List.replicate ((64 - got.length % 64) % 64) 0#8 else got
    let n := got.length / 64 * 64
    modTask id (fun x => { x with hold := got.drop n, holdAt := at_ + n }) (storeBytes at_ (got.take n) s)

/-- A write's protection information fails: no sector of the command is written (R415). -/
def writePiStop (t : HostTask) (i ascq : Nat) (s : State) : State :=
  failTask t.id 0xB 0x10 ascq (some (t.lba + i)) (stopTask t (dataStop t 3 (t.lba + i) s))

/-- Received bytes are taken block by block from block `i` on; `fuel` bounds their number. -/
def landData (id : Nat) (u : Lu) : Nat → Nat → List Byte → State → State
  | 0, _, bs, s => modTask id (fun x => { x with carry := bs }) s
  | f + 1, i, bs, s =>
    match findTask s id with
    | none => s
    | some t =>
      if bs.length < linkBlock u t then modTask id (fun x => { x with carry := bs }) s
      else
        let blk := bs.take (linkBlock u t)
        let data := blk.take (storedBlock (luFmt u) false)
        let stored := if luPi u = 0 ∨ t.protect then blk else data ++ makePi u t i data
        match (if luPi u ≠ 0 ∧ t.protect then checkPi u t i stored else none) with
        | some e => writePiStop t i e s
        | none => landData id u f (i + 1) (bs.drop (linkBlock u t)) (landBlock id u i stored s)

/-- What a fast-path write has received lands, by a transaction of class HOST; with the last byte its sectors may be handed over
(R26, R406). -/
def landCarry (id : Nat) (u : Lu) (s : State) : State :=
  match findTask s id with
  | none => s
  | some t =>
    underCredit (.task id) (fun s =>
      let s1 := landData id u (t.carry.length + 1) ((t.received - t.carry.length) / max 1 (linkBlock u t)) t.carry s
      modTask id (fun x => if x.answer.isNone && allReceived s1 x then { x with todo := List.range (taskSectors s1 x).length } else x) s1) s

/-- Data of a fast-path write that its XFER_RDY asked for. -/
def takeData (t : HostTask) (u : Lu) (data : List Byte) (s : State) : State :=
  let n := t.received + data.length
  landCarry t.id u
    (modTask t.id (fun x => { x with received := n, carry := x.carry ++ data, xrdy := if x.xrdy = some n then none else x.xrdy }) s)

/-- What a firmware DATA_OUT has received lands in whole granules (R26, R416). -/
def landSvc (c : Nat) (s : State) : State :=
  match svc s c with
  | none => s
  | some x =>
    let all := if x.moved = x.bytes then x.hold ++ List.replicate ((64 - x.hold.length % 64) % 64) 0#8 else x.hold
    let k := all.length / 64 * 64
    if k = 0 then s
    else underCredit (.service c) (fun s => setSvc c (some { x with hold := all.drop k }) (storeBytes (x.addr + (x.moved - x.hold.length)) (all.take k) s)) s

/-- Data of a firmware DATA_OUT. -/
def takeSvcData (c : Nat) (x : SvcOp) (data : List Byte) (s : State) : State :=
  let n := x.moved + data.length
  landSvc c (setSvc c (some { x with moved := n, hold := x.hold ++ data, xrdy := if x.xrdy = some n then none else x.xrdy }) s)

/-- Received data that waits for a credit lands (R26). -/
def landWaiting (s : State) : State :=
  let s1 := s.slip.tasks.foldl (fun t x =>
    match taskLu t x with
    | some u => if x.aborted || x.answer.isSome || decide (x.carry.length < linkBlock u x) then t else landCarry x.id u t
    | none => t) s
  (List.range 4).foldl (fun t c => if (svc t c).any fun x => x.op == 2 && x.outcome == 0 then landSvc c t else t) s1

/-- `hostDrain`, and what waited for a credit lands. -/
def hostGo (s : State) : State := hostDrain (landWaiting (hostDrain s))

/-- A DATA frame is discarded, and its task fails: TOO MUCH WRITE DATA (R407). -/
def tooMuch (lane : Nat) (t : HostTask) (s : State) : State :=
  failTask t.id 0xB 0x0C 0x0D none (stopTask t (raise (Page.SLIP lane) 4 0 0 ⟨word t.index, 0#32, 0#32⟩ s))

/-- DATA_FRAME (R407, R408, R412): a received DATA frame of nexus `n`. -/
def execDataFrame (lane n tag offset : Nat) (data : List Byte) (s : State) : Host.Outcome State Fault Refusal :=
  .next (s.when (laneServes s lane n) fun s =>
    let s1 := hostGo s
    match taskOf s1 n tag with
    | none => raise (Page.SLIP lane) 4 0 0 ⟨0x1FFF#32, 0#32, 0#32⟩ s1
    | some t =>
      if t.aborted || t.committed then s1
      else
        match svcRunning s1 t.id 2, taskLu s1 t with
        | some (c, x), _ =>
          if x.xrdy.any (fun e => decide (x.moved + data.length ≤ e)) && offset == x.offset + x.moved then hostDrain (takeSvcData c x data s1)
          else hostDrain (setSvc c (some { x with outcome := 5 }) (raise (Page.SLIP lane) 4 0 0 ⟨word t.index, 0#32, 0#32⟩ s1))
        | none, some u =>
          if t.answer.isSome then s1
          else if t.op == 2 && t.xrdy.any (fun e => decide (t.received + data.length ≤ e)) && offset == t.received then
            hostDrain (takeData t u data s1)
          else hostDrain (tooMuch lane t s1)
        | none, none => hostDrain (tooMuch lane t s1))

/-! ### SEND_DATA (R409, R413 to R415) -/

/-- What the fetch of a block for a DATA frame gives. -/
inductive BlockFetch where
  | good (bytes : List Byte)
  | poison
  | reread
  | pi (ascq : Nat)

/-- Fetch block `b` of a read and check it (R76, R413). -/
def fetchBlock (t : HostTask) (u : Lu) (b : Nat) (s : State) : BlockFetch × State :=
  let off := blockAt s u t b
  let n := luStored u
  let g := off / 64
  let own := blockSource t b != 0
  let r := readGranules own (0x2C + t.lane) quiet g ((off + n + 63) / 64 - g) s
  let bytes := ((r.1.flatMap Beat.data).drop (off % 64)).take n
  if r.2.1 = 2 ∧ !t.landVerify then (.reread, r.2.2.2)
  else if r.2.1 ≠ 0 then (.poison, r.2.2.2)
  else if luPi u = 0 then (.good bytes, r.2.2.2)
  else
    match checkPi u t b bytes with
    | some e => (.pi e, r.2.2.2)
    | none => (.good (if t.protect then bytes else bytes.take (storedBlock (luFmt u) false)), r.2.2.2)

/-- The bytes of `n` blocks from `b` on, or the first block that stops the frame. -/
def fetchBlocks (t : HostTask) (u : Lu) : Nat → Nat → State → (List Byte × Option (Nat × BlockFetch)) × State
  | 0, _, s => (([], none), s)
  | n + 1, b, s =>
    match fetchBlock t u b s with
    | (.good bs, v) => let r := fetchBlocks t u n (b + 1) v; ((bs ++ r.1.1, r.1.2), r.2)
    | (x, v) => (([], some (b, x)), v)

/-- A frame is stopped at block `b` (R414, R415); a clean granule lost in DRAM sends its sector to the media once more (R71). -/
def frameStop (t : HostTask) (b : Nat) (x : BlockFetch) (s : State) : State :=
  match x with
  | .good _ => s
  | .reread =>
    let m := sectorOfBlock s t b
    modTask t.id (fun y => { y with landVerify := true, landed := y.landed.filter (· != m), todo := y.todo ++ [m] }) s
  | .poison => failTask t.id 3 0x11 0 (some (t.lba + b)) (dataStop t 1 (t.lba + b) s)
  | .pi e => failTask t.id 0xB 0x10 e (some (t.lba + b)) (dataStop t 2 (t.lba + b) s)

/-- The next DATA frame of a fast-path read; its data is fetched by a transaction of class HOST (R26). -/
def sendNext (t : HostTask) (u : Lu) (l : Nat) (s : State) : State :=
  let lb := max 1 (linkBlock u t)
  let len := min (s.fld (Reg.SLIP.LINK_CFG l) 26 16) (linkBytes s t - t.sent)
  let b0 := t.sent / lb
  let nb := (t.sent + len - 1) / lb + 1 - b0
  if len = 0 ∨ !((List.range nb).all fun i => blockReady s t (b0 + i)) then s
  else
    underCredit (.task t.id) (fun s => match fetchBlocks t u nb b0 s with
      | ((_, some (b, x)), v) => frameStop t b x v
      | ((bs, none), v) =>
        transmit l ⟨1, t.id, t.nexus, t.tag, t.sent, len, 0, (bs.drop (t.sent - b0 * lb)).take len, false⟩
          (modTask t.id (fun x => { x with sent := x.sent + len }) v)) s

/-- The next DATA frame of a firmware DATA_IN; poison ends the operation (R416). -/
def sendSvcData (t : HostTask) (c : Nat) (x : SvcOp) (l : Nat) (s : State) : State :=
  let len := min (s.fld (Reg.SLIP.LINK_CFG l) 26 16) (x.bytes - x.moved)
  if len = 0 then s
  else
    underCredit (.service c) (fun s =>
      let r := fetchBytes true (0x2C + t.lane) (x.addr + x.moved) len s
      if !r.2.1 then setSvc c (some { x with outcome := 3 }) r.2.2
      else transmit l ⟨1, t.id, t.nexus, t.tag, x.offset + x.moved, len, 0, r.1, false⟩ (setSvc c (some { x with moved := x.moved + len }) r.2.2)) s

/-- SEND_DATA (R409): for the task with index `task`. -/
def execSendData (task : Nat) (s : State) : Host.Outcome State Fault Refusal :=
  .next (s.when (slipAlive s) fun s =>
    let s1 := hostGo s
    match taskAt s1 task with
    | none => s1
    | some t =>
      match pickLane s1 t.lane t.nexus, svcRunning s1 t.id 1, taskLu s1 t with
      | some l, some (c, x), _ => if t.aborted then s1 else sendSvcData t c x l s1
      | some l, none, some u =>
        if t.op != 1 || t.stage != 1 || t.aborted || t.answer.isSome || t.committed || t.buffer.isNone then s1
        else hostDrain (sendNext t u l s1)
      | _, _, _ => s1)

/-! ### SEND_RESPONSE (R31, R410, R414) -/

/-- The answer of a task for which nothing has been decided yet: none while it must wait. The sense of a write whose media work
failed is not stated: free bytes. -/
def finishedAnswer (s : State) (t : HostTask) : Option Answer :=
  let all := t.landed.length == (taskSectors s t).length && t.handed.isEmpty && t.todo.isEmpty && t.toCrew.isEmpty
  if t.op = 1 then (if linkBytes s t ≤ t.sent then some ⟨0, []⟩ else none)
  else if t.op = 3 then
    if !(all && (List.range t.blocks).all (blockReady s t)) then none
    else match t.poisoned with
      | some b => some (checkCondition s t.lun 3 0x11 0 (some (t.lba + b)))
      | none => some ⟨0, []⟩
  else if t.op = 2 then
    if !allReceived s t then none
    else if wbActive s && !t.fua && !t.through then some ⟨0, []⟩
    else if !all then none
    else if t.failed then some ⟨2, (List.range 18).map (Config.freeByte s.free)⟩
    else some ⟨0, []⟩
  else none

/-- The answer that may leave now. -/
def readyAnswer (s : State) (t : HostTask) : Option Answer :=
  if t.committed || t.aborted || decide (framesOf s t.id 1 ≠ 0) then none
  else
    match svcRunning s t.id 3 with
    | some (_, x) => some ⟨x.status, (fetchBytes false (0x2C + t.lane) x.addr x.senseLen s).1⟩
    | none =>
      if t.stage = 2 then (if t.drainFirst then t.answer else none)
      else
        match t.answer with
        | some a => if t.drainFirst && !t.handed.isEmpty then none else some a
        | none => if t.stage = 1 && t.haz.isSome || t.op != 0 then finishedAnswer s t else none

/-- SEND_RESPONSE (R410): for the task with index `task`. -/
def execSendResponse (task : Nat) (s : State) : Host.Outcome State Fault Refusal :=
  .next (s.when (slipAlive s) fun s =>
    let s1 := hostGo s
    match taskAt s1 task with
    | none => s1
    | some t =>
      match pickLane s1 t.lane t.nexus, readyAnswer s1 t with
      | some l, some a =>
        let s2 := match svcRunning s1 t.id 3 with
          | some (c, x) => setSvc c (some { x with outcome := 1 }) s1
          | none => s1
        let s3 := if t.failed then s2.useFree else s2
        hostDrain (transmit l ⟨3, t.id, t.nexus, t.tag, 0, a.sense.length, a.status, a.sense, false⟩
          (modTask t.id (fun x => { x with committed := true, answer := some a }) s3))
      | _, _ => s1)

/-! ### Service operations (R416) -/

/-- The result of a service block. -/
def svcEnd (c outcome reached task : Nat) (s : State) : State :=
  raise Page.SLIPC 4 0 c ⟨word outcome, word task, 0#32⟩ (s.setReg (Reg.SLIPC.SVC_RESULT c) (word (outcome * 2 + reached % 2 ^ 24 * 256)))

/-- A write of SVC_CTRL of block `c` with GO 1 and operation `op`: its fields are stored, and the operation starts or is refused. -/
def svcStart (op : Nat) (req : Requester) (c : Nat) (v : Word) (s : State) : State :=
  s.when (decide (c < 4) && bit v 31 && fld v 1 0 == op) (withWrite req (Reg.SLIPC.SVC_CTRL c) v fun s =>
    let s1 := hostDrain ((storeWrite (Reg.SLIPC.SVC_CTRL c) v s).setBit (Reg.SLIPC.SVC_CTRL c) 31 false)
    let task := s1.fld (Reg.SLIPC.SVC_TASK c) 12 0
    match svc s1 c, (taskAt s1 task).filter fun t => t.stage == 2 && !t.aborted && !t.committed && (svcOf s1 t.id).isNone with
    | some _, _ => raise Page.SLIPC 4 0 c ⟨4#32, word task, 0#32⟩ s1
    | none, none => svcEnd c 4 0 task s1
    | none, some t =>
      let x : SvcOp := { op := op, task := t.id, addr := s1.reg64 (Reg.SLIPC.SVC_ADDR_LO c) / 64 * 64 % 2 ^ 40
                         bytes := s1.fld (Reg.SLIPC.SVC_BYTES c) 24 0, offset := (s1.reg (Reg.SLIPC.SVC_OFFSET c)).toNat, status := fld v 15 8
                         senseLen := min 252 (fld v 23 16), moved := 0, xrdy := none, asked := 0, hold := [], outcome := 0 }
      setSvc c (some x) (s1.setReg (Reg.SLIPC.SVC_RESULT c) 1#32))

/-- SVC_DATA_IN (R416). -/
def execSvcDataIn (req : Requester) (core : Nat) (v : Word) (s : State) : Host.Outcome State Fault Refusal := .next (svcStart 1 req core v s)

/-- SVC_DATA_OUT (R416). -/
def execSvcDataOut (req : Requester) (core : Nat) (v : Word) (s : State) : Host.Outcome State Fault Refusal := .next (svcStart 2 req core v s)

/-- SVC_RESPOND (R416). -/
def execSvcRespond (req : Requester) (core : Nat) (v : Word) (s : State) : Host.Outcome State Fault Refusal := .next (svcStart 3 req core v s)

/-- The outcome with which an operation ends now; none while it runs. -/
def svcOutcome (s : State) (x : SvcOp) : Option Nat :=
  if x.outcome ≠ 0 then some x.outcome
  else if (x.op = 1 ∨ x.op = 2) ∧ x.bytes ≤ x.moved ∧ x.hold = [] ∧ framesOf s x.task 1 = 0 then some 1
  else none

/-- SVC_DONE (R412, R416): the operation of service block `core` ends. -/
def execSvcDone (core : Nat) (s : State) : Host.Outcome State Fault Refusal :=
  .next (s.when (decide (core < 4) && slipAlive s) fun s =>
    let s1 := hostGo s
    match svc s1 core with
    | none => s1
    | some x =>
      match svcOutcome s1 x with
      | none => s1
      | some o =>
        let i := ((findTask s1 x.task).map HostTask.index).getD (s1.fld (Reg.SLIPC.SVC_TASK core) 12 0)
        hostDrain (svcEnd core o x.moved i (setSvc core none s1)))

end Sys2Proof.Machine
end

