-- ==== Sys2Proof/Machine/Keel.lean ====
section
/-! DEFINITION. The meanings of the commands of Keel, the rigger-die bridge and the bus thresholds (R13 to R16, R105 to R147). -/

namespace Sys2Proof.Machine

/-- A good bridge frame: to the rigger die it carries the slots' words, to the core die the mirror (R13, R14). -/
def frameTaken (toRigger : Bool) (m : RiggerMirror) (s : State) : State :=
  let s1 := if toRigger then takeHeld (deliverSlots (takeAsked m.busMv s)) else frameToCore m s
  modRigger (fun r => { r with lastGood := s.time }) (s1.setBit Reg.DRV.BRIDGE_STAT 0 true)

/-- BRIDGE_FRAME (R13 to R16): a bad frame is repeated once; a good repeat is transient, a second bad one is BRIDGE_LOST. -/
def execBridgeFrame (toRigger crcOk : Bool) (m : RiggerMirror) (s : State) : Host.Outcome State Fault Refusal :=
  let wasBad := if toRigger then s.rigger.badToRigger else s.rigger.badToCore
  let mark := fun b : Bool => modRigger (fun r =>
    if toRigger then { r with badToRigger := b } else { r with badToCore := b })
  if crcOk then
    let s2 := frameTaken toRigger m (mark false s)
    .next (if wasBad then transient Page.DRV 0 0 {} s2 else s2)
  else if wasBad then
    .next (safeCause (sourceOf Page.DRV 1) (lasting Page.DRV 1 0 {} (linkDown (mark false s))))
  else .next (mark true (s.countFld Reg.DRV.BRIDGE_STAT 31 16 1))

/-- RIGGER_FRAME_TIMEOUT (R16). -/
def execRiggerFrameTimeout (quietNs : Nat) (s : State) : Host.Outcome State Fault Refusal :=
  .next (s.when (decide (2000 ≤ quietNs)) riggerAutonomous)

/-- BRIDGE_RESUME (R16). -/
def execBridgeResume (req : Requester) (v : Word) (s : State) : Host.Outcome State Fault Refusal :=
  .next (s.when (bit v 0) (withWrite req Reg.DRV.BRIDGE_CTRL v (bridgeCtrlEffect v)))

/-- CLEAR_TRIP (R135). -/
def execClearTrip (req : Requester) (v : Word) (s : State) : Host.Outcome State Fault Refusal :=
  .next (s.when (bit v 1) (withWrite req Reg.DRV.BRIDGE_CTRL v (bridgeCtrlEffect v)))

/-- RIG_FAULT, on its own wire (R17, R134, R147): code 1 turns the spindle bridge off; so does 2, the rigger die's temperature in short braking;
3 turns off every bridge, the voice coils' until the next CLEAR_TRIP (log entry 162). Keel coasts. -/
def execRigFault (code : Nat) (s : State) : Host.Outcome State Fault Refusal :=
  .next (s.when (code == 1 || code == 3 || (code == 2 && keelState s == 6)) fun s =>
    let s1 := modRigger (fun r => { r with spindleOn := false, coilsOn := r.coilsOn && code != 3, rigCode := code
                                           coil := if code = 3 then [] else r.coil }) s
    lasting Page.DRV 5 code {} (if keelState s1 = 0 then s1 else keelDoes enterCoast s1))

/-- KEEL_RUN (R119, R121). -/
def execKeelRun (req : Requester) (v : Word) (rotorRpm chopMa : Nat) (s : State) : Host.Outcome State Fault Refusal :=
  .next (s.when (fld v 3 0 == 1) (withWriteOut { rotorRpm := rotorRpm, chopMa := chopMa } req Reg.KEEL.CMD v (keelCmdEffect v rotorRpm chopMa)))

/-- KEEL_STOP (R119, R132). -/
def execKeelStop (req : Requester) (v : Word) (s : State) : Host.Outcome State Fault Refusal :=
  .next (s.when (fld v 3 0 == 2) (withWrite req Reg.KEEL.CMD v (keelCmdEffect v 0 0)))

/-- KEEL_COAST (R119). -/
def execKeelCoast (req : Requester) (v : Word) (s : State) : Host.Outcome State Fault Refusal :=
  .next (s.when (fld v 3 0 == 3) (withWrite req Reg.KEEL.CMD v (keelCmdEffect v 0 0)))

/-- CHOP_TEST (R119, R144). -/
def execChopTest (req : Requester) (v : Word) (chopMa : Nat) (s : State) : Host.Outcome State Fault Refusal :=
  .next (s.when (fld v 3 0 == 4) (withWriteOut { chopMa := chopMa } req Reg.KEEL.CMD v (keelCmdEffect v 0 chopMa)))

/-- KEEL_RESUME (R119). -/
def execKeelResume (req : Requester) (v : Word) (s : State) : Host.Outcome State Fault Refusal :=
  .next (s.when (fld v 3 0 == 5) (withWrite req Reg.KEEL.CMD v (keelCmdEffect v 0 0)))

/-- KEEL_CMD_UNLISTED (R119): refused with code 1. -/
def execKeelCmdUnlisted (req : Requester) (v : Word) (s : State) : Host.Outcome State Fault Refusal :=
  .next (s.when (fld v 3 0 == 0 || decide (5 < fld v 3 0)) (withWrite req Reg.KEEL.CMD v (keelCmdEffect v 0 0)))

/-- SPD_TARGET_WRITE (R120). -/
def execSpdTargetWrite (req : Requester) (addr : Addr) (v : Word) (s : State) : Host.Outcome State Fault Refusal :=
  .next (s.when ((addrKey addr).any (fun k => critWordOf k == some 5))
    (withWriteAt req addr v (fun _ => spdTargetEffect v)))

/-- REF_ENABLE (R125). -/
def execRefEnable (req : Requester) (v : Word) (s : State) : Host.Outcome State Fault Refusal :=
  .next (s.when (bit v 0) (withWrite req Reg.KEEL.REF_CFG v (refCfgEffect req v)))

/-- THRESH_WRITE (R136). -/
def execThreshWrite (req : Requester) (addr : Addr) (v : Word) (s : State) : Host.Outcome State Fault Refusal :=
  .next (s.when ((addrKey addr).any (fun k => critWordOf k == some 7 || critWordOf k == some 8 || critWordOf k == some 9))
    (withWriteAt req addr v (fun k => threshEffect ((critWordOf k).getD 7) v)))

/-- PWM_PERIOD (R109 to R117). -/
def execPwmPeriod (p : PwmSample) (s : State) : Host.Outcome State Fault Refusal := .next (s.when (keelAlive s) (pwmStep p))

/-- SPINDLE_LOCKED (R117): the conditions have held for QUAL periods. -/
def execSpindleLocked (s : State) : Host.Outcome State Fault Refusal :=
  .next (s.when (keelAlive s && !keelLocked s && decide (s.fld Reg.KEEL.LOCK_CFG 23 16 ≤ s.keel.lockRun)) fun s =>
    raise Page.KEEL 0 0 1 { p0 := s.reg Reg.KEEL.SPEED }
      (modKeel (fun k => { k with runStart := none }) (s.setBit (Reg.STATUS Page.KEEL) 12 true)))

/-- The way round from one angle to another, the shorter one. -/
def angleGap (x y : Nat) : Nat := min ((x + revUnits - y) % revUnits) ((y + revUnits - x) % revUnits)

/-- Angle of the estimate before the offset, from the electrical angle in 1/393,216 of its period: of the pole pairs it may belong to, the one
nearest to the last valid phase word carried on at the present speed (R116); the first where there has been none. -/
def resolvePole (elec : Nat) (s : State) : Nat :=
  let n := s.fld Reg.KEEL.MOTOR_FLUX 19 16
  let at_ := fun i => (i * 393216 + elec) * revUnits / (393216 * max 1 n)
  match s.keel.raw with
  | none => at_ 0
  | some (pos, t) =>
    let want := (pos + angleMoved s (s.time - t)) % revUnits
    (List.range n).foldl (fun b i => if angleGap (at_ i) want < angleGap b want then at_ i else b) (at_ 0)

/-- PHASE_WORD (R115, R116): the angle of the estimate with the wedge offset. -/
def execPhaseWord (sextant : Fin 6) (frac : BitVec 16) (s : State) : Host.Outcome State Fault Refusal :=
  .next (s.when (keelAlive s) fun s =>
    let raw := resolvePole (sextant.val * 65536 + frac.toNat) s
    let pos := (raw + s.keel.wedgeOffset.getD 0) % revUnits
    let valid := estValid s && s.keel.wedgeOffset.isSome
    let s1 := modKeel (fun k => { k with raw := if estValid s then some (raw, s.time) else k.raw })
      (s.setReg Reg.KEEL.PHASE (word (pos / 4096 * 2 ^ 22 + pos % 4096 * 2 ^ 10 + (if valid then 1 else 0))))
    if s.fld (Reg.TUNE.TR_LEVEL Page.KEEL) 9 0 = pos / 4096 then trTrigger Page.KEEL 5 false s1 else s1)

/-- CS_MISMATCH (R111): the one recomputation begins. -/
def execCsMismatch (s : State) : Host.Outcome State Fault Refusal :=
  .next (s.when (keelAlive s && s.fld (Reg.STATUS Page.KEEL) 17 16 == 0 && s.keel.csPhase == 0 && decide (8 ≤ s.keel.csBad))
    (modKeel fun k => { k with csPhase := 1, csCount := 0, csBad := 0 }))

/-- CS_CHECK (R111): the outcome chooses the current-sensing mode. -/
def execCsCheck (s : State) : Host.Outcome State Fault Refusal :=
  .next (s.when (keelAlive s && s.keel.csPhase == 2 && decide (8 ≤ s.keel.csCount)) fun s =>
    let u := s.keel.csU; let v := s.keel.csV
    let s1 := modKeel (fun k => { k with csPhase := 0, csCount := 0, csBad := 0 }) s
    if u && v then lasting Page.KEEL 6 3 {} (s1.setFld (Reg.STATUS Page.KEEL) 17 16 2)
    else if u then lasting Page.KEEL 6 1 {} (s1.setFld (Reg.STATUS Page.KEEL) 17 16 1)
    else if v then lasting Page.KEEL 6 2 {} (s1.setFld (Reg.STATUS Page.KEEL) 17 16 1)
    else transient Page.KEEL 6 0 {} s1)

/-- OBSERVER_HANDOVER (R121). -/
def execObserverHandover (s : State) : Host.Outcome State Fault Refusal :=
  .next (s.when (keelAlive s && keelState s == 2 && decide (16 ≤ s.keel.handoverRun)) fun s =>
    resumeRun (s.setBit (Reg.STATUS Page.KEEL) 14 true))

/-- OPEN_LOOP_TIMEOUT (R121): back to DETECT, or after the third return SPINUP_FAIL with code 2 (log entry 142). -/
def execOpenLoopTimeout (s : State) : Host.Outcome State Fault Refusal :=
  .next (s.when (keelAlive s && keelState s == 2 && decide (s.keel.openStart + 2000000000 ≤ s.time)) (spinupReturn detectAgain))

/-- SPINUP_FAIL (R122): TIMEOUT_S without lock. A rotor that coasts toward a restart goes on coasting. -/
def execSpinupFail (s : State) : Host.Outcome State Fault Refusal :=
  .next (s.when (keelAlive s && !keelLocked s &&
      s.keel.runStart.any (fun t => decide (t + s.fld Reg.KEEL.SPINUP_CFG2 23 16 * 1000000000 ≤ s.time))) fun s =>
    let s1 := lasting Page.KEEL 12 1 {} s
    if keelState s = 8 then enterCoast s1 else doStop s1)

/-- ESTIMATE_LOST (R114, R129, R131). -/
def execEstimateLost (s : State) : Host.Outcome State Fault Refusal :=
  .next (s.when (keelAlive s && decide (3 ≤ s.keel.overRun) && keelState s ∈ [2, 3, 5, 7]) fun s =>
    let st := keelState s
    let s1 := estimateLostEvent (keelUnlock (s.setBit (Reg.STATUS Page.KEEL) 14 false))
    if st = 2 then restartSpinup s1
    else if rpmUnits (s.fld Reg.KEEL.OBS_CFG 27 16) ≤ keelSpeed s then startReacq st 1 s1
    else if st = 3 then restartSpinup s1
    else enterKeelState 8 s1)

/-- REACQ_OK (R129). -/
def execReacqOk (s : State) : Host.Outcome State Fault Refusal :=
  .next (s.when (keelAlive s && s.keel.reacqStep == 5 && decide (360 ≤ s.keel.goodDeg) &&
      (keelState s == 4 || keelState s == 7) && decide (s.time ≤ s.keel.reacqStart + 4 * electricalNs s)) fun s =>
    let s1 := transient Page.KEEL 3 0 { p0 := word (s.time - s.keel.reacqStart) } (s.count Reg.KEEL.REACQ_COUNT 1)
    let s2 := modKeel (fun k => { k with reacqStep := 0, failRun := 0, overRun := 0 }) s1
    if keelState s = 7 then s2
    else if s.keel.returnState = 3 then resumeRun s2
    else enterKeelState s.keel.returnState s2)

/-- REACQ_FAIL (R129, R130): a new attempt, or exhaustion: park, then short braking, and SAFE. -/
def execReacqFail (s : State) : Host.Outcome State Fault Refusal :=
  .next (s.when (keelAlive s && s.keel.reacqStep != 0 && (keelState s == 4 || keelState s == 7) &&
      decide (s.keel.reacqStart + 4 * electricalNs s < s.time)) fun s =>
    let s1 := raise Page.KEEL 4 0 s.keel.reacqAttempt {} s
    let s2 := modKeel (fun k => { k with failTimes := (s.time :: k.failTimes).take 3, failRun := k.failRun + 1 }) s1
    if 3 ≤ reacqFails s2 then
      let s3 := safeCause (sourceOf Page.KEEL 5) (lasting Page.KEEL 5 0 {} s2)
      parkAll (enterCoast (modKeel (fun k => { k with exhausted := true }) s3))
    else startReacq s.keel.returnState (s.keel.reacqAttempt + 1) s2)

/-- SHORT_BRAKE (R130, R132, R134). -/
def execShortBrake (s : State) : Host.Outcome State Fault Refusal :=
  .next (s.when (keelAlive s) fun s =>
    if keelState s = 5 ∧ chopFaulty s then beginShortBrake 2 s
    else if keelState s = 5 ∧ keelSpeed s ≤ rpmUnits (s.fld Reg.KEEL.DECEL_CFG 27 16) then beginShortBrake 1 s
    else if keelState s = 8 ∧ s.keel.exhausted ∧ allParked s ∧ !vcritLatched s then beginShortBrake 3 s
    else s)

/-- STOPPED (R132): no zero crossing for 500 ms. -/
def execStopped (quietMs : Nat) (s : State) : Host.Outcome State Fault Refusal :=
  .next (s.when (keelAlive s && keelState s == 6 && decide (500 ≤ quietMs)) fun s =>
    raise Page.KEEL 15 0 0 {} (keelUnlock (enterKeelState 0 (s.setReg Reg.KEEL.SPEED 0#32))))

/-- GEN_FLOOR (R138). -/
def execGenFloor (s : State) : Host.Outcome State Fault Refusal :=
  .next (s.when (keelAlive s && keelState s == 7 && decide (keelSpeed s ≤ rpmUnits (s.fld Reg.KEEL.GEN_CFG 27 16))) fun s =>
    lasting Page.KEEL 14 0 {} (enterCoast s))

/-- The phase error at a reference edge `ago` ns ago, in ns: the time by which wedge REF_PHASE passes after the edge, negative when it has passed
(R128). With several edges per revolution it is taken to the nearest of them (log entry 138). -/
def phaseError (ago : Nat) (s : State) : Int :=
  let span : Int := revUnits / max 1 (s.fld Reg.KEEL.REF_CFG 11 2)
  let want : Int := s.fld Reg.KEEL.REF_PHASE 31 22 * 4096 + s.fld Reg.KEEL.REF_PHASE 21 10
  let raw := s.keel.raw.getD (0, s.time)
  let now : Int := raw.1 + angleMoved s (s.time - raw.2) - angleMoved s ago + s.keel.wedgeOffset.getD 0
  let d := (want - now) % span
  (if span < 2 * d then d - span else d) * 1500000000 / (keelSpeed s : Int)

/-- A valid edge in REF_FREQ: the speed, the phase error and the steering (R126, R128). -/
def freqEdge (speed ago : Nat) (s : State) : State :=
  let known := s.keel.wedgeOffset.isSome && estValid s
  let err := phaseError ago s
  let win := s.fld Reg.KEEL.LOCK_CFG 31 24 * 60 * 1000000000 * 65536 / (256 * 640 * speed)
  let s1 := (if known then s.setReg Reg.KEEL.PHASE_ERR (sword err) else s).setBit (Reg.STATUS Page.KEEL) 22 true
  let s2 := modKeel (fun k => { k with refSpeed := some speed, lastEdge := some (s.time - ago)
                                       phaseRun := if known && decide (err.natAbs ≤ win) then k.phaseRun + 1 else 0 }) s1
  let s3 := if s2.keel.phaseRun = 0 then setPhaseLock false s2
            else if 16 ≤ s2.keel.phaseRun then setPhaseLock true s2 else s2
  modKeel (fun k => { k with steerPpb := if known then steerOf (s3.bit (Reg.STATUS Page.KEEL) 13) err else 0 }) s3

/-- A pulse in REF_DUTY (R126): within 100 Hz to 100 kHz it gives the trim; the trim stays otherwise (log entry 138). -/
def dutyEdge (periodNs highNs ago : Nat) (s : State) : State :=
  let ok := decide (10000 ≤ periodNs) && decide (periodNs ≤ 10000000)
  stepTrim (modKeel (fun k => { k with lastEdge := some (s.time - ago)
                                       wantPpb := if ok then (2 * (highNs : Int) - periodNs) * 5000000 / periodNs else k.trimPpb })
    (s.setBit (Reg.STATUS Page.KEEL) 22 ok))

/-- REF_EDGE (R126, R128): REF_FREQ takes the speed and the phase error, REF_DUTY the trim. -/
def execRefEdge (periodNs highNs agoNs : Nat) (s : State) : Host.Outcome State Fault Refusal :=
  .next (s.when (keelAlive s && decide (0 < periodNs) && usesCt3 (refSource s)) fun s =>
    if refSource s = 2 then dutyEdge periodNs highNs agoNs s
    else
      let speed := 60 * 1000000000 * 65536 / (periodNs * s.fld Reg.KEEL.REF_CFG 11 2)
      let near := decide (s.keel.target * 99 ≤ speed * 100) && decide (speed * 100 ≤ s.keel.target * 101)
      if decide (10000 ≤ periodNs) && decide (periodNs ≤ 50000000) && near then freqEdge speed agoNs s
      else
        raise Page.KEEL 8 0 0 {} (modKeel (fun k => { k with lastEdge := some (s.time - agoNs), refSpeed := none, phaseRun := 0, steerPpb := 0 })
          (setPhaseLock false (s.setBit (Reg.STATUS Page.KEEL) 22 false))))

/-- REF_LOST (R126): no edge for two expected periods (REF_FREQ) or for 10 ms (REF_DUTY). -/
def execRefLost (s : State) : Host.Outcome State Fault Refusal :=
  .next (s.when (keelAlive s && usesCt3 (refSource s)) fun s =>
    match s.keel.lastEdge with
    | none => s
    | some t =>
      let expected := 60 * 1000000000 * 65536 / (effTarget s * s.fld Reg.KEEL.REF_CFG 11 2)
      if refSource s = 1 then
        if t + 2 * expected ≤ s.time then
          raise Page.KEEL 7 0 0 {} (setPhaseLock false (modKeel (fun k =>
            { k with lastEdge := none, refSpeed := some (keelSpeed s), phaseRun := 0, steerPpb := 0 })
            (s.setBit (Reg.STATUS Page.KEEL) 22 false)))
        else s
      else if t + 10000000 ≤ s.time then
        raise Page.KEEL 7 0 0 {} (modKeel (fun k => { k with lastEdge := none, wantPpb := k.trimPpb })
          (s.setBit (Reg.STATUS Page.KEEL) 22 false))
      else s)

/-- REF_ANALOG_SAMPLE (R126, R127): 4,095 stands for 1.8 V. -/
def execRefAnalogSample (sample : BitVec 12) (s : State) : Host.Outcome State Fault Refusal :=
  .next (s.when (keelAlive s && refSource s == 3) fun s =>
    stepTrim (modKeel (fun k => { k with wantPpb := (2 * (sample.toNat : Int) - 4095) * 5000000 / 4095 })
      (s.setBit (Reg.STATUS Page.KEEL) 22 true)))

/-- CHOP_ENGAGE (R133, R147). -/
def execChopEngage (busMv : Nat) (s : State) : Host.Outcome State Fault Refusal :=
  .next (s.when (decide (rigChopOn s < busMv) && !s.rigger.chopFault && !s.rigger.chopOn) fun s =>
    modRigger (fun r => { r with chopMv := busMv, chopTime := s.time, chopNew := true, chopOn := true }) s)

/-- CHOP_RELEASE (R133). -/
def execChopRelease (busMv : Nat) (s : State) : Host.Outcome State Fault Refusal :=
  .next (s.when (s.rigger.chopOn && decide (busMv + rigHyst s < rigChopOn s)) (modRigger fun r => { r with chopOn := false }))

/-- CHOP_FAULT (R133, R134): low current 5 µs after engagement, or a bus that rose by more than 50 mV in 50 µs. -/
def execChopFault (chopMa busMv : Nat) (s : State) : Host.Outcome State Fault Refusal :=
  let since := s.time - s.rigger.chopTime
  let low := decide (5000 ≤ since) && decide (chopMa < rigIMin s)
  let rose := decide (50000 ≤ since) && decide (s.rigger.chopMv + 50 < busMv)
  let kind := if low then 1 else 2
  .next (s.when (s.rigger.chopOn && (low || rose)) (chopFails kind))

/-- V_CRIT_TRIP (R135): every bridge off and the latch; the next frame to the core die tells of it. -/
def execVCritTrip (busMv : Nat) (s : State) : Host.Outcome State Fault Refusal :=
  .next (s.when (decide (rigCrit s < busMv)) (modRigger fun r =>
    { r with vcrit := true, spindleOn := false, coilsOn := false, coil := [], tripNew := r.tripNew || !r.vcrit }))

end Sys2Proof.Machine
end

