-- ==== Sys2Proof/Machine/KeyOps.lean ====
section
/-! DEFINITION. The key store's operations (R488, R494 to R503) and the debug certificate (R501). -/

namespace Sys2Proof.Machine

/-! ### Results and addresses -/

def keyResult (outcome code : Nat) (s : State) : State := s.setReg Reg.KEYS.CMD_RESULT (word (outcome + code * 16))

def keyDone (s : State) : State := keyResult 1 0 s

/-- A refusal: CMD_RESULT and KEY_REFUSED (R507). -/
def keyRefuse (code : Nat) (s : State) : State := raise Page.KEYS 1 5 code {} (keyResult 2 code s)

/-- A refusal whose code no rule states (log entry 30). -/
def keyRefuseFree (s : State) : State := keyRefuse (fld s.freeWord 3 0) s.useFree

/-- `n` bytes from `a` lie in Cox SRAM (R36, R503). -/
def inCoxSram (a n : Nat) : Bool := decide (0x11000000 ≤ a) && decide (a + n ≤ 0x11080000)

/-- `n` bytes from Cox SRAM; none outside it. -/
def coxBytes (s : State) (a n : Nat) : Option (List Byte) := if inCoxSram a n then some (s.bytesAt a n) else none

/-- `n` bytes from the DRAM window, around the cache (R493); none where they cannot be read whole. -/
def windowBytes (a n : Nat) (s : State) : Option (List Byte) × State :=
  if dramBase ≤ a ∧ a + n ≤ dramBase + usableSize s ∧ dramReady s then
    (let r := fetchBytes false 1 (a - dramBase) n s; (if r.2.1 then some r.1 else none, r.2.2))
  else (none, s)

/-- The container at `a`: in Cox SRAM, or for TYPE 2 in the DRAM window (R493). -/
def containerAt (a : Nat) (s : State) : Option (List Byte) × State :=
  if inCoxSram a 512 then ((coxBytes s a 512).bind fun h => coxBytes s a (512 + conLen h), s)
  else match windowBytes a 512 s with
    | (some h, t) => if conType h = 2 then windowBytes a (512 + conLen h) t else (none, t)
    | (none, t) => (none, t)

/-! ### Key slots (R497 to R500, R502) -/

def slotState (s : State) (n : Nat) : Option (List Byte) := SMap.get (fun _ => none) s.keys.slots n

def putSlot (n : Nat) (k : Option (List Byte)) (s : State) : State :=
  raise Page.KEYS 0 0 n {} (modKeys (fun x => { x with slots := SMap.set (fun _ => none) x.slots n k }) s)

/-- Every slot becomes EMPTY. -/
def clearSlotsAll (s : State) : State :=
  (List.range 128).foldl (fun t n => if (slotState t n).isSome then putSlot n none t else t) s

/-- SLOT_STATEw. -/
def slotStateWord (s : State) (w : Nat) : Word :=
  (List.range 32).foldl (fun v i => setBit v i (slotState s (32 * w + i)).isSome) 0#32

/-- KEY_COUNT. -/
def keyCount (s : State) : Nat := ((List.range 128).filter fun n => (slotState s n).isSome).length

def epoch (s : State) : Nat := (s.critVal 23).toNat
def kekGen (s : State) : Nat := s.critFld 24 15 0

def labelBytes (l : String) : List Byte := l.toList.map fun x => BitVec.ofNat 8 x.toNat

/-- The key-wrapping key (R498). -/
def wrapKey (s : State) : List Byte :=
  Config.kdf (otpSecret s) (labelBytes "EBW-KEYWRAP") (toBytes 4 (epoch s) ++ toBytes 2 (kekGen s))

/-- `n` bytes of the entropy source. -/
def drawBytes (n : Nat) (s : State) : List Byte × State :=
  (Config.entropy s.keys.draws n, modKeys (fun k => { k with draws := k.draws + 1 }) s)

/-- LOAD (R497, R498, R499). -/
def opLoad (slot src : Nat) (s : State) : State :=
  if debugLevel s = 2 then keyRefuse 10 s
  else if (slotState s slot).isSome then keyRefuse 9 s
  else match coxBytes s src 128 with
  | none => keyRefuseFree s
  | some b =>
    if conField b 0 4 ≠ 0x5EEB4B01 ∨ conField b 4 2 ≠ 1 ∨ !conZero b 6 2 ∨ !conZero b 14 2 ∨ !conZero b 28 4 ∨ !conZero b 112 16 then
      keyRefuse 2 s
    else if conField b 8 4 ≠ epoch s ∨ conField b 12 2 ≠ kekGen s then keyRefuseFree s
    else match Config.gcmOpen (wrapKey s) (conBytes b 16 12) (conBytes b 0 32) (conBytes b 32 64) (conBytes b 96 16) with
      | none => keyRefuse 8 s
      | some k => keyDone (putSlot slot (some k) s)

/-- CLEAR (R500). -/
def opClear (slot : Nat) (s : State) : State := keyDone (putSlot slot none s)

/-- WRAP (R499). -/
def opWrap (src dst : Nat) (s : State) : State :=
  if debugLevel s = 2 then keyRefuse 10 s
  else match coxBytes s src 64 with
  | none => keyRefuseFree s
  | some k =>
    if k.take 32 = k.drop 32 then keyRefuse 2 s
    else if !inCoxSram dst 128 then keyRefuseFree s
    else
      let d := drawBytes 12 s
      let head := toBytes 4 0x5EEB4B01 ++ toBytes 2 1 ++ toBytes 2 0 ++ toBytes 4 (epoch s) ++ toBytes 2 (kekGen s) ++ toBytes 2 0
        ++ d.1 ++ toBytes 4 0
      let c := Config.gcmSeal (wrapKey s) d.1 head k
      keyDone (d.2.putBytes dst (head ++ c.1 ++ c.2 ++ toBytes 16 0))

/-- ERASE (R498). -/
def opErase (s : State) : State :=
  let s1 := clearSlotsAll s
  let e := s1.critVal 23 + 1#32
  keyDone (raise Page.KEYS 2 0 0 { p0 := e } (s1.critPut 23 e))

/-! ### Containers (R490, R493, R494) -/

/-- VERIFY (R493). -/
def opVerify (src : Nat) (s : State) : State :=
  match containerAt src s with
  | (none, s) => keyRefuse 1 s
  | (some c, s) =>
    let code := conCheck [1, 2, 3, 4] s c
    if code = 0 then keyDone s else keyRefuse code s

/-- The layout of a patch payload (R489): its length matches WORDS, and its words lie in the patch RAM. -/
def patchFits (p : List Byte) : Bool :=
  let first := conField p 0 4; let words := conField p 4 4
  p.length == 80 + 16 * words && decide (1 ≤ words) && decide (first + words ≤ 512)

/-- The words and match registers of a patch are written to the master store of kind `k` (R494); UC_ADDR is left at a place that no
rule states. -/
def storePatch (k : Nat) (p : List Byte) (id : Nat) (s : State) : State :=
  let first := conField p 0 4; let words := conField p 4 4
  let ws := (List.range 512).foldl (fun m n =>
    SMap.set (fun _ => 0#128) m (512 * k + n)
      (if first ≤ n ∧ n < first + words then BitVec.ofNat 128 (conField p (80 + 16 * (n - first)) 16) else 0#128)) s.ucode.words
  let ms := (List.range 16).foldl (fun m n =>
    SMap.set (fun _ => 0#32) m (16 * k + n) (word (conField p (16 + 4 * n) 4) &&& 0x81FF3FFF#32)) s.ucode.matchRegs
  let u := s.ucode
  { s.useFree with ucode := { u with words := ws, matchRegs := ms, ids := SMap.set (fun _ => 0#32) u.ids k (word id)
                                     addrs := SMap.set (fun _ => 0) u.addrs k (fld s.freeWord 8 0) } }

/-- PATCH_LOAD (R489, R494, R495). -/
def opPatch (src : Nat) (s : State) : State :=
  match containerAt src s with
  | (none, s) => keyRefuse 1 s
  | (some c, s) =>
    let code := conCheck [3] s c
    let p := (conOpen s c).getD []
    if code ≠ 0 then keyRefuse code s
    else if !patchFits p then keyRefuse 1 s
    else if s.ucode.done.contains (conTarget c) then keyRefuse 9 s
    else if 16 ≤ s.keys.log.length then keyRefuse 11 s
    else keyDone (appendEntry (conEntry c) (storePatch (conTarget c) p (conImageId c) s))

/-! ### Measurement and attestation (R495, R496) -/

/-- MEASURE. -/
def opMeasure (src : Nat) (s : State) : State :=
  match coxBytes s src 64 with
  | none => keyRefuseFree s
  | some e => if 16 ≤ s.keys.log.length then keyRefuse 11 s else keyDone (appendEntry e s)

/-- The header of a report. -/
def reportHead (s : State) (nonce : List Byte) : List Byte :=
  let flags := debugLevel s + (if otpDeployed s then 4 else 0) + (if otpGradeL s then 8 else 0) + (if otpPart s then 16 else 0)
  toBytes 4 0x5EEBA771 ++ toBytes 2 1 ++ toBytes 1 s.keys.log.length ++ toBytes 1 flags ++ toBytes 8 (deviceSerial s) ++ nonce
    ++ s.keys.digest ++ toBytes 4 (epoch s) ++ toBytes 28 0

/-- ATTEST. -/
def opAttest (src dst : Nat) (s : State) : State :=
  if debugLevel s = 2 then keyRefuse 10 s
  else match coxBytes s src 32 with
  | none => keyRefuseFree s
  | some nonce =>
    let body := reportHead s nonce ++ s.keys.log.flatten
    if !inCoxSram dst (body.length + 96) then keyRefuseFree s
    else
      let key := (otpField s 5 s.otp.idPriv).getD (List.replicate 48 0#8)
      let s1 := modKeys (fun k => { k with draws := k.draws + 1 }) s
      keyDone (raise Page.KEYS 3 0 0 {} (s1.putBytes dst (body ++ Config.ecdsaSign key (Config.sha384 body) s.keys.draws)))

/-- GEN_ID (R488, R496, R502). -/
def opGenId (s : State) : State :=
  if debugLevel s = 2 then keyRefuse 10 s
  else if otpDeployed s ∨ s.otp.idPriv.isSome ∨ s.otp.secret.isSome then keyRefuse 12 s
  else
    let a := drawBytes 32 s
    let b := drawBytes 48 a.2
    keyDone (showOtp { b.2 with otp := { b.2.otp with secret := some a.1, idPriv := some b.1, idPub := some (Config.publicKey b.1) } })

/-! ### Fuses (R488, R503) -/

/-- ROLLBACK_SET. -/
def opRollback (n : Nat) (s : State) : State :=
  if n < otpRollback s ∨ 64 < n ∨ conField (s.keys.log.headD []) 52 4 < n then keyRefuse 6 s
  else keyDone (raise Page.COX 6 0 n {} (showOtp { s with otp := { s.otp with rollback := n } }))

/-- What OTP_WRITE of field `i` of the table of R487 stores; none where it is refused. -/
def otpWritten (s : State) (i : Nat) (data : Nat → List Byte) : Option Otp :=
  let o := s.otp
  if i = 13 then some { o with revoke := o.revoke ||| ofBytes (data 1) % 16 }
  else if otpDeployed s then none
  else if i = 3 then some { o with deployed := true }
  else if 9 ≤ i ∧ i ≤ 12 then
    (if (SMap.get (fun _ => none) o.ownerHash (i - 9)).isSome then none
     else some { o with ownerHash := SMap.set (fun _ => none) o.ownerHash (i - 9) (some (data 48)) })
  else if i = 14 then (if o.ownerDebugHash.isSome then none else some { o with ownerDebugHash := some (data 48) })
  else if i = 16 then (if o.bootA.isSome then none else some { o with bootA := some (ofBytes (data 2) % 4096) })
  else if i = 17 then (if o.bootB.isSome then none else some { o with bootB := some (ofBytes (data 2) % 4096) })
  else none

/-- Bytes of data that OTP_WRITE of field `i` takes. -/
def otpBytes (i : Nat) : Nat :=
  if i = 3 then 0 else if i = 13 then 1 else if i = 16 ∨ i = 17 then 2 else 48

/-- OTP_WRITE: the field that the number names (log entry 24), with data at `addr`. -/
def opOtpWrite (number addr : Nat) (s : State) : State :=
  match (List.range 18).find? fun i => Config.otpFieldCode i == number with
  | none => keyRefuse 12 s
  | some i =>
    match otpWritten s i (fun n => s.bytesAt addr n) with
    | none => keyRefuse 12 s
    | some o => if otpBytes i = 0 ∨ inCoxSram addr (otpBytes i) then keyDone (showOtp { s with otp := o }) else keyRefuseFree s

/-! ### Debug unlock (R501, R502) -/

/-- A fresh challenge; an earlier one is void. -/
def newChallenge (s : State) : State :=
  let d := drawBytes 32 s
  modKeys (fun k => { k with challenge := some d.1 }) d.2

/-- The certificate's signer is admitted. -/
def debugSigner (s : State) (h : List Byte) : Bool :=
  otpField s 14 s.otp.ownerDebugHash == some h || (!otpDeployed s && otpField s 8 s.otp.vendorDebugHash == some h)

/-- The checks of a certificate against the challenge outstanding: 0 accepted, else the code; none for a challenge that does not
match, to which no rule gives a code. -/
def certCheck (s : State) (c : List Byte) : Option Nat :=
  match s.keys.challenge with
  | none => some 10
  | some ch =>
    let level := conField c 6 1
    if conField c 0 4 ≠ 0x5EEBDB61 ∨ conField c 4 2 ≠ 1 ∨ !conZero c 7 1 ∨ !conZero c 144 16 then some 2
    else if level ≠ 1 ∧ level ≠ 2 then some 10
    else if conField c 8 8 ≠ deviceSerial s then some 7
    else if conBytes c 16 32 ≠ ch then none
    else if !debugSigner s (Config.sha384 (conBytes c 48 96)) then some 3
    else if !Config.ecdsaHolds (conBytes c 48 96) (Config.sha384 (conBytes c 0 160)) (conBytes c 160 96) then some 5
    else some 0

/-- The level rises; it never falls. FULL clears every key slot (R502). -/
def grantLevel (level : Nat) (s : State) : State :=
  let l := max level (debugLevel s)
  let s1 := s.setFld Reg.COX.SEC_STATUS 1 0 l
  raise Page.COX 4 0 l {} (if l = 2 then clearSlotsAll s1 else s1)

/-- One attempt: the challenge is used up; the code, 0 accepted. -/
def debugAttempt (c : List Byte) (s : State) : Nat × State :=
  let s1 := modKeys (fun k => { k with challenge := none }) s
  match certCheck s c with
  | some 0 => (0, grantLevel (conField c 6 1) s1)
  | some code => (code, raise Page.COX 5 5 code {} s1)
  | none => (fld s1.freeWord 3 0, raise Page.COX 5 5 (fld s1.freeWord 3 0) {} s1.useFree)

/-- DEBUG_UNLOCK. -/
def opUnlock (src : Nat) (s : State) : State :=
  match coxBytes s src 256 with
  | none => keyRefuseFree s
  | some c =>
    match certCheck s c with
    | some 0 => keyDone (debugAttempt c s).2
    | _ => keyRefuse (debugAttempt c s).1 (debugAttempt c s).2

end Sys2Proof.Machine
end

