-- ==== Sys2Proof/Machine/Keys.lean ====
section
/-! DEFINITION. Commands of the key store and the release of Stroke cores (R487 to R505). -/

namespace Sys2Proof.Machine

/-- A write of KEYS.CMD with operation `op`: refused while one runs, else it begins; SRC and DST are taken as they stand (R503). -/
def keyCommand (op : Nat) (req : Requester) (v : Word) (s : State) : Host.Outcome State Fault Refusal :=
  .next (s.when (fld v 4 0 == op) (withWrite req Reg.KEYS.CMD v fun s =>
    if !blockAlive s Page.KEYS then s
    else if s.keys.op.isSome then keyRefuse 13 s
    else keyResult 3 0 (modKeys (fun k => { k with op := some (v, s.reg64 Reg.KEYS.SRC_LO, s.reg64 Reg.KEYS.DST_LO) }) s)))

/-- KEY_LOAD (R497). -/
def execKeyLoad (req : Requester) (v : Word) (s : State) : Host.Outcome State Fault Refusal := keyCommand 1 req v s

/-- KEY_CLEAR (R500). -/
def execKeyClear (req : Requester) (v : Word) (s : State) : Host.Outcome State Fault Refusal := keyCommand 2 req v s

/-- KEY_WRAP (R499). -/
def execKeyWrap (req : Requester) (v : Word) (s : State) : Host.Outcome State Fault Refusal := keyCommand 3 req v s

/-- KEY_ERASE (R498). -/
def execKeyErase (req : Requester) (v : Word) (s : State) : Host.Outcome State Fault Refusal := keyCommand 4 req v s

/-- IMAGE_VERIFY (R493). -/
def execImageVerify (req : Requester) (v : Word) (s : State) : Host.Outcome State Fault Refusal := keyCommand 5 req v s

/-- PATCH_LOAD (R494). -/
def execPatchLoad (req : Requester) (v : Word) (s : State) : Host.Outcome State Fault Refusal := keyCommand 6 req v s

/-- MEASURE (R495). -/
def execMeasure (req : Requester) (v : Word) (s : State) : Host.Outcome State Fault Refusal := keyCommand 7 req v s

/-- ATTEST (R496). -/
def execAttest (req : Requester) (v : Word) (s : State) : Host.Outcome State Fault Refusal := keyCommand 8 req v s

/-- DEBUG_UNLOCK (R501). -/
def execDebugUnlock (req : Requester) (v : Word) (s : State) : Host.Outcome State Fault Refusal := keyCommand 9 req v s

/-- ROLLBACK_SET (R503). -/
def execRollbackSet (req : Requester) (v : Word) (s : State) : Host.Outcome State Fault Refusal := keyCommand 10 req v s

/-- OTP_WRITE (R488). -/
def execOtpWrite (req : Requester) (v : Word) (s : State) : Host.Outcome State Fault Refusal := keyCommand 11 req v s

/-- GEN_ID (R496). -/
def execGenId (req : Requester) (v : Word) (s : State) : Host.Outcome State Fault Refusal := keyCommand 12 req v s

/-- CHALLENGE (R503). -/
def execChallenge (req : Requester) (v : Word) (s : State) : Host.Outcome State Fault Refusal := keyCommand 13 req v s

/-- KEYS_CMD_UNLISTED (R503): operation codes 0 and 14 to 31 are refused with code 14, or 13 while one runs. -/
def execKeysCmdUnlisted (req : Requester) (v : Word) (s : State) : Host.Outcome State Fault Refusal :=
  .next (s.when (fld v 4 0 == 0 || decide (14 ≤ fld v 4 0)) (withWrite req Reg.KEYS.CMD v fun s =>
    if !blockAlive s Page.KEYS then s else keyRefuse (if s.keys.op.isSome then 13 else 14) s))

/-- The operation in `cmd` is carried out. -/
def keyPerform (cmd : Word) (src dst : Nat) (s : State) : State :=
  match fld cmd 4 0 with
  | 1 => opLoad (fld cmd 14 8) src s
  | 2 => opClear (fld cmd 14 8) s
  | 3 => opWrap src dst s
  | 4 => opErase s
  | 5 => opVerify src s
  | 6 => opPatch src s
  | 7 => opMeasure src s
  | 8 => opAttest src dst s
  | 9 => opUnlock src s
  | 10 => opRollback (src % 128) s
  | 11 => opOtpWrite (src % 32) (src / 2 ^ 32) s
  | 12 => opGenId s
  | _ => keyDone (newChallenge s)

/-- KEYS_OP_DONE (R503): the operation takes effect and CMD_RESULT is written. -/
def execKeysOpDone (s : State) : Host.Outcome State Fault Refusal :=
  .next (s.when (blockAlive s Page.KEYS) fun s =>
    match s.keys.op with
    | none => s
    | some (cmd, src, dst) => keyPerform cmd src dst (modKeys (fun k => { k with op := none }) s))

/-- Stroke core `c` is released at RESET_VEC; its domain is switched on first (R505). -/
def releaseStroke (c : Nat) (s : State) : State :=
  let s1 := (switchOn (2 + c) s).setBit Reg.COX.STROKE_CTRL c true
  if s1.bit Reg.COX.STROKE_CTRL (8 + c) ∨ !domainOn s1 (2 + c) then s1
  else
    let vec := (s.reg Reg.COX.RESET_VEC_LO).toNat + (s.reg Reg.COX.RESET_VEC_HI).toNat * 2 ^ 32
    let s2 := s1.setBit Reg.COX.STROKE_CTRL (8 + c) true
    raise (Page.STROKE c) 4 0 1 {} { s2 with dbg := { s2.dbg with pcs := SMap.set (fun _ => 0) s2.dbg.pcs (2 + c) vec } }

/-- STROKE_RELEASE (R505). -/
def execStrokeRelease (req : Requester) (v : Word) (s : State) : Host.Outcome State Fault Refusal :=
  .next (withWrite req Reg.COX.STROKE_CTRL v
    (fun s => (List.range 4).foldl (fun t c => if bit v c then releaseStroke c t else t) s) s)

end Sys2Proof.Machine
end

