-- ==== Sys2Proof/Machine/Link.lean ====
section
/-! DEFINITION. The commands of lanes and nexuses (R392 to R399). -/

namespace Sys2Proof.Machine

/-! ### Link resets (R392 to R394) -/

/-- A link reset of a lane begins. -/
def beginReset (l : Nat) (lost : Bool) (s : State) : State :=
  (modLane l (fun r => { r with resetting := some s.time, lost := lost })
    ((laneOff l s).setBit (Reg.SLIP.LINK_STATUS l) 7 false)).count (Reg.SLIP.LINK_RESETS l) 1

/-- LOSS_OF_SYNC (R394). -/
def execLossOfSync (lane : Nat) (s : State) : Host.Outcome State Fault Refusal :=
  .next (s.when (slipRuns s lane && laneUp s lane) (beginReset lane true))

/-- LINK_RESET_REQUEST (R423): a write of LINK_CFG with RESET 1; its other fields are stored. -/
def execLinkResetRequest (req : Requester) (lane : Nat) (v : Word) (s : State) : Host.Outcome State Fault Refusal :=
  .next (s.when (decide (lane < 4) && bit v 7) (withWrite req (Reg.SLIP.LINK_CFG lane) v fun s =>
    beginReset lane false (storeWrite (Reg.SLIP.LINK_CFG lane) v s)))

/-- The lane tries identification: in a link reset, or for the first time (R392, R394). -/
def laneTries (s : State) (l : Nat) : Bool :=
  !laneUp s l && (match (sasLane s l).resetting with
    | some t => decide (s.time ≤ t + 500000000)
    | none => !(sasLane s l).lost && !s.bit (Reg.SLIP.LINK_STATUS l) 7)

/-- Attached address of a lane. -/
def attached (s : State) (l : Nat) : Nat := s.reg64 (Reg.SLIP.ATT_ADDR_LO l)

/-- The two lanes of a port are up with different addresses: the higher is disabled (R392); with one address they form a wide port. -/
def identifyPort (p : Nat) (s : State) : State :=
  let a := 2 * p
  let b := 2 * p + 1
  if !(laneUp s a && laneUp s b) then s
  else if attached s a = attached s b then
    (s.setBit (Reg.SLIP.LINK_STATUS a) 6 true).setBit (Reg.SLIP.LINK_STATUS b) 6 true
  else
    raise (Page.SLIP b) 6 5 0 ⟨loWord (attached s a), loWord (attached s b), 0#32⟩ ((laneOff b s).setBit (Reg.SLIP.LINK_STATUS b) 7 true)

/-- LINK_UP (R392 to R394): `rate` 0 is 6, 1 is 12, 2 is 22.5 Gbit/s. -/
def execLinkUp (lane rate : Nat) (addr : BitVec 64) (s : State) : Host.Outcome State Fault Refusal :=
  .next (s.when (slipRuns s lane && portEnabled s (lanePort lane) && laneTries s lane
      && decide (rate ≤ s.fld (Reg.SLIP.LINK_CFG lane) 1 0)) fun s =>
    let lost := (sasLane s lane).lost
    let s1 := (modLane lane (fun r => { r with resetting := none, lost := false }) s).setReg64 (Reg.SLIP.ATT_ADDR_LO lane) addr.toNat
    let s2 := s1.setReg (Reg.SLIP.LINK_STATUS lane) (word (rate + 4 + if rate = 2 then 8 else 0))
    let s3 := raise (Page.SLIP lane) 0 0 rate {} s2
    identifyPort (lanePort lane) (if lost then transient (Page.SLIP lane) 1 0 {} s3 else s3))

/-- LINK_RESET_TIMEOUT (R394): frames on the lane are repeated on the other lane of the port, else count as failed. -/
def execLinkResetTimeout (lane : Nat) (s : State) : Host.Outcome State Fault Refusal :=
  .next (s.when (slipRuns s lane && !laneUp s lane && (sasLane s lane).resetting.any (fun t => decide (t + 500000000 ≤ s.time))) fun s =>
    let s1 := modLane lane (fun r => { r with resetting := none, lost := true, frames := [] }) s
    let s2 := lasting (Page.SLIP lane) 2 0 {} (lasting (Page.SLIP lane) 1 0 {} s1)
    (sasLane s lane).frames.foldl (fun t f =>
      if frameDead t f then t
      else if (pickLane t lane f.nexus).isSome && !f.again then frameFailed lane 3 f t
      else frameLost lane 3 f t) s2)

/-- CODEWORD_UNCORRECTABLE (R393): codewords corrected and uncorrectable, and whether the frame is NAKed. -/
def execCodewordUncorrectable (lane corrected uncorrectable : Nat) (frame : Bool) (s : State) : Host.Outcome State Fault Refusal :=
  .next (s.when (slipRuns s lane && laneUp s lane) fun s =>
    let fec := s.bit (Reg.SLIP.LINK_STATUS lane) 3
    let c := if fec then corrected else 0
    let u := if fec then uncorrectable else 0
    let s1 := ((s.count (Reg.SLIP.FEC_CORR lane) c).count (Reg.SLIP.FEC_UNCORR lane) u).count (Reg.SLIP.RX_CRC lane) (if frame then 1 else 0)
    let sec := s.time / 1000000000
    let old := if (sasLane s lane).fecSecond = sec then (sasLane s lane).fecCount else 0
    let s2 := modLane lane (fun r => { r with fecSecond := sec, fecCount := old + u }) s1
    let limit := s.fld (Reg.SLIP.FEC_CFG lane) 15 0
    if old ≤ limit ∧ limit < old + u then raise (Page.SLIP lane) 7 0 0 ⟨word (old + u), 0#32, 0#32⟩ s2 else s2)

/-! ### Acknowledgements (R394) -/

/-- FRAME_ACK (R394, R410). -/
def execFrameAck (lane : Nat) (s : State) : Host.Outcome State Fault Refusal :=
  .next (s.when (laneSends s lane) fun s => hostDrain (oldestFrame lane (frameAcked lane) s))

/-- FRAME_NAK (R394). -/
def execFrameNak (lane : Nat) (s : State) : Host.Outcome State Fault Refusal :=
  .next (s.when (laneSends s lane) fun s => hostDrain (oldestFrame lane (frameFailed lane 4) s))

/-- ACK_NAK_TIMEOUT (R394). -/
def execAckNakTimeout (lane : Nat) (s : State) : Host.Outcome State Fault Refusal :=
  .next (s.when (slipRuns s lane && !pwrFailing s) fun s => hostDrain (oldestFrame lane (frameFailed lane 3) s))

/-! ### Nexuses (R398, R399, R403) -/

/-- The nexus holds a task. -/
def nexusBusy (s : State) (n : Nat) : Bool := (heldTasks s).any (·.nexus == n)

/-- A nexus entry is made at `n`: unit attention for every enabled logical unit (R398, R403). -/
def createNexus (n port addr : Nat) (s : State) : State :=
  let s1 := setNexus n (some ⟨addr, port, s.time⟩) s
  raise Page.SLIPC 1 0 1 {} ((List.range 64).foldl (fun t l => setUa n l (luEnabled t l) t) s1)

/-- Entries without a task, by the time of their last connection: the earliest. -/
def oldestNexus (s : State) : Option Nat :=
  (((List.range 64).filterMap fun n => (nexus s n).map fun x => (n, x)).filter fun x => !nexusBusy s x.1).foldl
    (fun (t : Option (Nat × Nexus)) x => match t with
      | some y => if x.2.last < y.2.last then some x else some y
      | none => some x) none |>.map Prod.fst

/-- OPEN_CONNECTION (R398). -/
def execOpenConnection (lane : Nat) (addr : BitVec 64) (s : State) : Host.Outcome State Fault Refusal :=
  .next (s.when (laneSends s lane) fun s =>
    let p := lanePort lane
    match (List.range 64).find? fun n => (nexus s n).any fun x => x.addr == addr.toNat && x.port == p with
    | some n => setNexus n ((nexus s n).map fun x => { x with last := s.time }) s
    | none =>
      match (List.range 64).find? fun n => (nexus s n).isNone with
      | some n => createNexus n p addr.toNat s
      | none =>
        match oldestNexus s with
        | some n => createNexus n p addr.toNat (endNexus n s)
        | none => raise Page.SLIPC 1 0 4 {} s)

/-- HARD_RESET (R399, R403): every nexus of the port ends; its entry stays, with unit attention set. -/
def execHardReset (lane : Nat) (s : State) : Host.Outcome State Fault Refusal :=
  .next (s.when (laneSends s lane) fun s =>
    let ns := (List.range 64).filter fun n => (nexus s n).any fun x => x.port == lanePort lane
    let s1 := ns.foldl (fun t n => (List.range 64).foldl (fun u l => setUa n l true u) (endNexus n t)) s
    hostDrain (raise Page.SLIPC 1 0 3 {} s1))

/-- NEXUS_LOSS (R399). -/
def execNexusLoss (n : Nat) (s : State) : Host.Outcome State Fault Refusal :=
  .next (s.when (slipAlive s && (nexus s n).isSome && decide (s.fld Reg.SLIPC.NEXUS_CFG 15 0 ≠ 0)) fun s =>
    let s1 := setNexus n none (endNexus n s)
    hostDrain (raise Page.SLIPC 1 0 2 {} ((List.range 64).foldl (fun t l => setUa n l false t) s1)))

/-- POWER_STATE_REQUEST (R395): `state` 1 partial, 2 slumber, 0 the host ends it. -/
def execPowerStateRequest (lane state : Nat) (s : State) : Host.Outcome State Fault Refusal :=
  let now := s.fld (Reg.SLIP.LINK_STATUS lane) 5 4
  let enabled := state == 0 || state == 1 && s.bit (Reg.SLIP.LINK_CFG lane) 4 || state == 2 && s.bit (Reg.SLIP.LINK_CFG lane) 5
  .next (s.when (laneSends s lane && enabled && now != state) fun s =>
    raise (Page.SLIP lane) 5 0 state {} (s.setFld (Reg.SLIP.LINK_STATUS lane) 5 4 state))

/-- UA_CTRL (R403, R425). -/
def execUaCtrl (req : Requester) (v : Word) (s : State) : Host.Outcome State Fault Refusal :=
  .next (withWrite req Reg.SLIPC.UA_CTRL v (fun s =>
    let ls := if bit v 14 then List.range 64 else [fld v 13 8]
    ls.foldl (fun t l => setUa (fld v 5 0) l (bit v 16) t) s) s)

/-- ACT_STRETCH_END (R397): the stretch of ACTIVITY has passed and no host task is held. -/
def execActStretchEnd (s : State) : Host.Outcome State Fault Refusal :=
  .next (s.when ((heldTasks s).isEmpty
      && s.slip.activity.any (fun t => decide (t + 1000000 * s.fld Reg.SLIPC.SIDEBAND 15 8 ≤ s.time))) fun s =>
    modSlip (fun r => { r with activity := none }) s)

end Sys2Proof.Machine
end

