-- ==== Sys2Proof/Machine/Lut.lean ====
section
/-! DEFINITION. The commands of the LU table (R417, R420, R427). -/

namespace Sys2Proof.Machine

/-- CMD_RESULT. -/
def lutResult (outcome code : Nat) (s : State) : State := s.setReg Reg.LUT.CMD_RESULT (word (outcome + code % 16 * 16))

/-- An LU command is refused (R417, R420). -/
def lutRefused (req : Requester) (n code : Nat) (s : State) : State :=
  raise Page.LUT 1 5 code ⟨word n, word (Requester.code req), 0#32⟩ (lutResult 2 code s)

/-- A completed command: GEN increments, and LU_CHANGE (R417, R420). -/
def lutChanged (n code : Nat) (s : State) : State :=
  raise Page.LUT 0 0 code ⟨word n, 0#32, 0#32⟩ (lutResult 1 0 (s.critPut 12 (word ((s.critVal 12).toNat + 1))))

/-- A write of LUT.CMD with operation `op`. -/
def lutCommand (op : Nat) (req : Requester) (v : Word) (f : Nat → State → State) (s : State) : State :=
  s.when (fld v 10 8 == op) (withWrite req Reg.LUT.CMD v (f (fld v 5 0)))

/-- FORMAT, VALID and CRC of an entry. -/
def entrySound (ws : List Word) : Bool :=
  fld (ws.getD 0 0#32) 7 0 == 1 && bit (ws.getD 0 0#32) 8 && crcWords (ws.take 15) == ws.getD 15 0#32

/-- Entry `n` of the table, fetched once more after a failure (R68). -/
def fetchEntry (n : Nat) (s : State) : List Word × Bool × State :=
  let off := lutRoot s + 64 * n
  let r := fetchWords true 0x2C off 16 s
  if r.2.1 && entrySound r.1 then (r.1, true, r.2.2)
  else let q := fetchWords true 0x2C off 16 r.2.2; (q.1, q.2.1 && entrySound q.1, q.2.2)

/-- The extents of an entry: band and first LBA. -/
def fetchExtents (ws : List Word) (s : State) : List (Nat × Nat) × State :=
  let off := fld (ws.getD 4 0#32) 31 6 * 64 + fld (ws.getD 5 0#32) 7 0 * 2 ^ 32
  let n := fld (ws.getD 3 0#32) 12 0
  let r := fetchWords false 0x2C off (4 * min n 4096) s
  ((List.range (min n 4096)).map fun i =>
    (fld (r.1.getD (4 * i) 0#32) 11 0, ofWords (r.1.getD (4 * i + 1) 0#32) (r.1.getD (4 * i + 2) 0#32)), r.2.2)

/-- Blocks of `bps` per sector that a band holds (R354). -/
def bandBlocks (d : List Word) (bps : Nat) : Nat := bStripes d * bData d * 256 * bps

/-- The extents pass condition 3 of R417 for unit `n`. -/
def extentsOk (s : State) (n : Nat) (u : Lu) : Bool :=
  let es := u.extents
  let ends := (es.drop 1).map Prod.snd ++ [luCapacity u]
  let used := (List.range 64).foldl (fun t l => if l = n then t else t + ((lu s l).map fun x => x.extents.length).getD 0) 0
  let count := fld (u.words.getD 3 0#32) 12 0
  decide (1 ≤ count) && decide (count + used ≤ 4096) && (es.headD (0, 1)).2 == 0
    && (es.zip ends).all fun x =>
      decide (x.1.2 < x.2) && (band s x.1.1).any (fun b => bLun b.words == n && decide (x.2 - x.1.2 ≤ bandBlocks b.words (luBps u)))

/-- BLOCK, PI_TYPE and WO_MODE of an entry. -/
def formatOk (u : Lu) : Bool := decide (luFmt u ≤ 5) && !(luPi u != 0 && (luFmt u == 2 || luFmt u == 5)) && luWo u != 3

/-- The key slot of an entry is loaded. -/
def keyOk (s : State) (u : Lu) : Bool := !luKeyEn u || (slotKeys s (luKey u)).isSome

/-- LU_CREATE (R417); the order of the checks is a log entry. -/
def execLuCreate (req : Requester) (v : Word) (s : State) : Host.Outcome State Fault Refusal :=
  .next (lutCommand 1 req v (fun n s =>
    if lutRoot s = 0 then lutRefused req n 7 s
    else if (lu s n).isSome then lutRefused req n 4 s
    else
      let r := fetchEntry n s
      let x := fetchExtents r.1 r.2.2
      let u : Lu := ⟨r.1, 1, x.1⟩
      if !r.2.1 then lutRefused req n 1 r.2.2
      else if !formatOk u then lutRefused req n 2 r.2.2
      else if luWo u ≠ 0 ∧ req ≠ .cox then lutRefused req n 5 r.2.2
      else if !keyOk r.2.2 u then lutRefused req n 6 r.2.2
      else if !extentsOk x.2 n u then lutRefused req n 3 x.2
      else
        let ns := (List.range 64).filter fun k => (nexus x.2 k).isSome
        lutChanged n 1 (ns.foldl (fun t k => setUa k n true t) (setLu n (some u) x.2))) s)

/-- LU_DELETE (R420): from the next decode on the unit counts as not enabled. -/
def execLuDelete (req : Requester) (v : Word) (s : State) : Host.Outcome State Fault Refusal :=
  .next (lutCommand 2 req v (fun n s =>
    match lu s n with
    | none => lutRefused req n 4 s
    | some u =>
      if u.state = 2 then lutRefused req n 4 s
      else if luWo u ≠ 0 ∧ req ≠ .cox then lutRefused req n 5 s
      else lutResult 3 0 (setLu n (some { u with state := 2 }) s)) s)

/-- A task decoded for the unit remains. -/
def luBusy (s : State) (n : Nat) : Bool := s.slip.tasks.any fun t => t.lun == n && t.forLu

/-- LU_DELETE_DONE (R420). -/
def execLuDeleteDone (n : Nat) (s : State) : Host.Outcome State Fault Refusal :=
  .next (s.when ((lu s n).any (·.state == 2)) fun s =>
    let s1 := hostDrain s
    if luBusy s1 n then s1 else lutChanged n 2 (setLu n none s1))

/-- The changes that an UPDATE may make: CAPACITY upward, extents appended, D_SENSE (R420). -/
def updateOk (old new : Lu) : Bool :=
  let w0 := fun u : Lu => Sys2Proof.setBit (u.words.getD 0 0#32) 24 false
  let same := fun i : Nat => old.words.getD i 0#32 == new.words.getD i 0#32
  w0 old == w0 new && decide (luCapacity old ≤ luCapacity new) && luWoPtr old == luWoPtr new
    && new.extents.take old.extents.length == old.extents && same 4 && same 5 && (List.range 7).all fun i => same (8 + i)

/-- LU_UPDATE (R420). -/
def execLuUpdate (req : Requester) (v : Word) (s : State) : Host.Outcome State Fault Refusal :=
  .next (lutCommand 3 req v (fun n s =>
    match lu s n with
    | none => lutRefused req n 4 s
    | some u =>
      if u.state ≠ 1 then lutRefused req n 4 s
      else if lutRoot s = 0 then lutRefused req n 7 s
      else
        let r := fetchEntry n s
        let x := fetchExtents r.1 r.2.2
        let w : Lu := ⟨r.1, 1, x.1⟩
        if !r.2.1 then lutRefused req n 1 r.2.2
        else if !updateOk u w then lutRefused req n 2 x.2
        else if !extentsOk x.2 n w then lutRefused req n 3 x.2
        else lutChanged n 3 (setLu n (some w) x.2)) s)

/-- LUT_CMD_UNLISTED (R427): refused with code 4. -/
def execLutCmdUnlisted (req : Requester) (v : Word) (s : State) : Host.Outcome State Fault Refusal :=
  .next (s.when (fld v 10 8 == 0 || decide (4 ≤ fld v 10 8)) (withWrite req Reg.LUT.CMD v (lutRefused req (fld v 5 0) 4)))

end Sys2Proof.Machine
end

