-- ==== Sys2Proof/Machine/Queues.lean ====
section
/-! DEFINITION. The meanings of the commands on hardware queues (R94 to R104). -/

namespace Sys2Proof.Machine

/-- The owner page's block can move its queue. -/
def queueAlive (s : State) (q : QueueId) : Bool := pageOn s (qPage q) && pageClocked s (qPage q)

/-- A whole packet reaches the queue from outside its producer's own meaning; refused with FAULT its operation ends (R92). -/
def pushWords (q : QueueId) (port : Nat) (words : List Word) (s : State) : State :=
  let p := qPort s q port
  let ws := if p.full then p.words else p.words ++ words
  match portWrite q port words s with
  | (t, .fault) => endItem q port ws { t with ended := t.ended.drop 1 }
  | (t, _) => if firmwareQueue q ∧ (hq s q).items.length < (hq t q).items.length then firmwarePushed t else t

/-- QUEUE_PUSH (R92, R94). -/
def execQueuePush (q : QueueId) (port : Nat) (words : List Word) (s : State) : Host.Outcome State Fault Refusal :=
  .next (s.when (queueAlive s q) (pushWords q port words))

/-- An item found with bad parity (R102): discarded and re-issued once; of the same port and TAG again, the job is lasting. -/
def itemParity (q : QueueId) (it : QItem) (s : State) : State :=
  let tag := pktTag it.words
  let mine := (it.port, tag)
  let s1 := qDropItem q it (s.setFld (qReg q 0x20) 15 0 tag)
  if mine ∈ (hq s1 q).parityTags then
    endItem q it.port it.words (lasting (qPage q) (qEvent q + 2) (qInstance q) { p0 := word tag }
      (modHq q (fun x => { x with parityTags := x.parityTags.filter (· ≠ mine) }) s1))
  else
    transient (qPage q) (qEvent q + 2) (qInstance q) { p0 := word tag }
      (if pushesAgain it.port then
        pushAgain q (modHq q (fun x => { x with parityTags := mine :: x.parityTags }) s1) (it.port, it.words, it.dup)
      else modHq q (fun x => { x with parityTags := mine :: x.parityTags, reissue := x.reissue ++ [it.port] }) s1)

/-- QUEUE_POP (R96, R102): the consumer holds the item until it acts on it. -/
def execQueuePop (q : QueueId) (parityBad : Bool) (s : State) : Host.Outcome State Fault Refusal :=
  .next (s.when (queueAlive s q && (hq s q).taken.isNone) fun s =>
    match qTake q s with
    | none => s
    | some (it, s1) =>
      if parityBad then itemParity q it s1
      else modHq q (fun x => { x with taken := some it }) (qGood q it s1))

/-- Promote the items that have waited AGE_US at a level below 7, oldest first (R97). -/
def promote (age now : Nat) (items : List QItem) : List QItem × Nat :=
  let due := items.filter fun it => decide (it.level < 7) && decide (it.since + age ≤ now)
  let rest := items.filter fun it => !(decide (it.level < 7) && decide (it.since + age ≤ now))
  (rest ++ due.map (fun it => { it with level := it.level + 1, since := now }), due.length)

/-- QUEUE_AGE_PROMOTE (R97). -/
def execQueueAgePromote (q : QueueId) (s : State) : Host.Outcome State Fault Refusal :=
  .next (s.when (queueAlive s q) fun s =>
    let (items, n) := promote (qAge s q) s.time (hq s q).items
    (modHq q (fun x => { x with items := items }) s).count (qReg q 0x18) n)

/-- A write of Q_FLUSH (R98): the flush point; a pending flush is joined. -/
def flushEffect (q : QueueId) (v : Word) (s : State) : State :=
  let x := hq s q
  if !bit v 0 || x.flush.isSome then s
  else
    let x1 : HwQueue := { x with
      flush := some (qPartials x), items := x.items.map (fun it => { it with marked := true })
      ports := x.ports.map (fun e => (e.1, { e.2 with marked := true, late := portPartial e.2 })) }
    (setHq q x1 s).setBit (qReg q 0x0C) 0 true

/-- FLUSH (R98). -/
def execFlush (req : Requester) (q : QueueId) (v : Word) (s : State) : Host.Outcome State Fault Refusal :=
  .next (withWrite req (qReg q 0x0C) v (flushEffect q v) s)

/-- With its job queue flushed, an Oar ends every entry it holds, and the job in progress (R302). -/
def flushedOar (q : QueueId) (s : State) : State :=
  match q with
  | .oarJob o => modGate (oarAct o) (fun g => { g with issued := g.issued.filter (·.slot != oarSlot o) }) (abortOar o s)
  | _ => s

/-- FLUSH_TAKES_EFFECT (R98, R99, R302): every partial of the flush point is resolved; marked items and packets held after FULL are
discarded and their operations end; QUEUE_FLUSH_DONE carries the counts and the mask of ports, and FLUSH_DONE goes to every port. A packet
partial at the flush point whose last word was refused FULL is resolved and discarded too (log entry 134). -/
def execFlushTakesEffect (q : QueueId) (s : State) : Host.Outcome State Fault Refusal :=
  let x := hq s q
  match x.flush with
  | none => .next s
  | some ports =>
    let unresolved := x.ports.any fun e => e.2.marked && portPartial e.2
    if !queueAlive s q || unresolved then .next s
    else
      let gone := x.items.filter (·.marked)
      let heldGone := x.ports.filter fun e => e.2.marked && e.2.full
      let partials := min 15 (gone.filter (·.late)).length
      let discarded := gone.length + heldGone.length
      let x1 := { x with flush := none, items := x.items.filter (fun it => !it.marked), flushDone := qPorts q
                         ports := x.ports.filter (fun e => !(e.2.marked && e.2.full)) }
      let s1 := ((setHq q x1 s).setBit (qReg q 0x0C) 0 false).setReg (qReg q 0x10) (word (discarded + partials * 65536))
      let s2 := gone.foldl (fun t it => endDropped q it (qDropItem q it t)) s1
      let s3 := flushedOar q (heldGone.foldl (fun t e => endItem q e.1 e.2.words t) s2)
      let mask := ports.foldl (fun m c => m ||| 2 ^ c) 0
      .next (portsRetry q (qNowEmpty q (qEvent q + 1)
        (raise (qPage q) (qEvent q) 0 (qInstance q) ⟨word (discarded + partials * 65536), loWord mask, hiWord mask⟩ s3)))

/-- Packets that the queue's consumer has taken and whose operations its producers have not yet seen completed, with their ports (R100). -/
def consumed (q : QueueId) (s : State) : List (Nat × List Word) :=
  (hq s q).taken.toList.map (fun it => (it.port, it.words)) ++
  (match q with
  | .gate a => (gate s a.val).runs.map fun r => (r.port, r.words)
  | .oarJob o =>
    ((gate s (oarAct o.val)).issued.filter fun j => j.slot == oarSlot o.val
        && !(hq s q).items.any fun it => it.words == j.words).map fun j => (0x20 + oarAct o.val, j.words)
  | .intake => (s.slip.tasks.filter fun t => decide (1 ≤ t.stage) && t.answer.isNone).map fun t => (0x2C + t.lane, intakePacket s t)
  | .firmware c =>
    s.slip.tasks.filterMap fun t => if t.stage = 2 ∧ t.answer.isNone then
        t.passed.bind fun p => if p.1 = c.val ∧ !(hq s q).items.any (fun it => it.words == p.2) then some (0x3F, p.2) else none
      else none
  | .stripe => (s.crew.jobs.filter fun j => !j.words.isEmpty).map fun j => (j.port, j.words)
  | .xact e => (s.boat.inFlight.filter fun f => xactEngine f.words == e.val).map fun f => (f.port, f.words)
  | .oarDone _ => [])

/-- What the producers of queue `q` will push again: what it held, what was held back in their ports, and what was consumed and is not
yet seen completed (R100; log entry 22). -/
def reissued (q : QueueId) (s : State) : List (Nat × List Word × Bool) :=
  let x := hq s q
  (x.items.filter fun it => pushesAgain it.port).map (fun it => (it.port, it.words, it.dup))
    ++ (x.ports.filter fun e => e.2.full).map (fun e => (e.1, e.2.words, false))
    ++ ((consumed q s).eraseDups.filter fun e => pushesAgain e.1).map (fun e => (e.1, e.2, true))

/-- Device outcome of a lasting mismatch: that of the owner block's machine check (R74, R101). -/
def mismatchOutcome (q : QueueId) (s : State) : State :=
  match q with
  | .xact e => boatCheck e.val s
  | _ => machineCheckOutcome (qPage q) s

/-- POINTER_MISMATCH (R100, R101): everything is discarded, every port signalled REISSUE; a second mismatch before the queue has
been empty is lasting, with the outcome of the owner block's machine check, and the queue stays in reset. A flush that was pending ends with
no result (log entry 136). -/
def execPointerMismatch (q : QueueId) (s : State) : Host.Outcome State Fault Refusal :=
  .next (s.when (queueAlive s q && (hq s q).resetting.isNone && !(hq s q).fault) fun s =>
    let x := hq s q
    let x1 : HwQueue := { x with
      items := [], ports := [], flush := none, resetting := some s.time, mismatchOpen := true, reissue := qPorts q
      again := x.again ++ reissued q s }
    let s0 := x.items.foldl (fun t it => qDropItem q it t) s
    let s1 := ((setHq q x1 s0).count (qReg q 0x1C) 1).setBit (qReg q 0x0C) 0 false
    if x.mismatchOpen then
      let s2 := x.items.foldl (fun t it => endDropped q it t)
        (setHq q { x1 with fault := true, mismatchOpen := false, again := [] } s1)
      let s3 := (x.ports.filter fun e => e.2.full).foldl (fun t e => endItem q e.1 e.2.words t) s2
      modHq q (fun y => { y with items := [], ports := [], fault := true, resetting := some s.time, again := [], mismatchOpen := false })
        (mismatchOutcome q (lasting (qPage q) (qEvent q + 1) (qInstance q) {} s3))
    else s1)

/-- QUEUE_RESET_DONE (R100): after 8 island cycles the queue accepts pushes again, and the producers push what was discarded (log
entry 22); a queue that then stands empty has shown the mismatch transient (R101). A faulted queue stays reset. -/
def execQueueResetDone (q : QueueId) (s : State) : Host.Outcome State Fault Refusal :=
  .next (s.when ((hq s q).resetting.isSome && !(hq s q).fault) fun s =>
    qNowEmpty q (qEvent q + 1) ((hq s q).again.foldl (pushAgain q)
      (modHq q (fun x => { x with resetting := none, again := [], reissue := x.reissue.filter fun c => !pushesAgain c }) s)))

/-- Word `n` of the firmware window of requester code `c` (R104). -/
def winWord (s : State) (q : QueueId) (c n : Nat) : Word := SMap.get (fun _ => 0#32) (hq s q).windows (16 * c + n)

def setWin (q : QueueId) (c : Nat) (ws : List Word) (s : State) : State :=
  let put := fun (m : SMap Word) (e : Word × Nat) => SMap.set (fun _ => 0#32) m (16 * c + e.2) e.1
  modHq q (fun x => { x with windows := ws.zipIdx.foldl put x.windows }) s

/-- Q_PORT.PUSH: the window's words 0 to LEN become one packet; a refusal FULL or BUSY leaves the window as it is, and one with FAULT
ends the packet's operation (R92, R103, R104). -/
def fwPush (q : QueueId) (c : Nat) (s : State) : State :=
  let ws := (List.range (fld (winWord s q c 0) 3 0 + 1)).map (winWord s q c)
  match pushStatus s q with
  | .taken => modHq q (fun x => { x with reissue := x.reissue.erase c, flushDone := x.flushDone.erase c }) (qAdmit q c ws false false s)
  | .fault => endItem q c ws s
  | _ => s

/-- Q_PORT.POP: the head item is copied into the window and removed; an empty queue leaves header word 0 (R103). An item whose parity is
bad is discarded first (R102). -/
def fwPop (q : QueueId) (c : Nat) (bad : Bool) (s : State) : State :=
  let s0 := if bad then (qTake q s).elim s fun r => itemParity q r.1 r.2 else s
  match qTake q s0 with
  | some (it, s1) => portsRetry q (setWin q c it.words (qGood q it s1))
  | none => setWin q c [0#32] s0

/-- A write of Q_PORT: push first, then pop (R104). -/
def qPortEffect (req : Requester) (q : QueueId) (v : Word) (bad : Bool) (s : State) : State :=
  let c := Requester.code req
  let s1 := if bit v 0 then fwPush q c s else s
  if bit v 1 then fwPop q c bad s1 else s1

/-- FW_QUEUE_PUSH (R104). -/
def execFwQueuePush (req : Requester) (q : QueueId) (v : Word) (s : State) : Host.Outcome State Fault Refusal :=
  .next (s.when (bit v 0) (withWrite req (qReg q 0x24) v (qPortEffect req q v false)))

/-- FW_QUEUE_POP (R104). -/
def execFwQueuePop (req : Requester) (q : QueueId) (x : PopWrite) (s : State) : Host.Outcome State Fault Refusal :=
  .next (s.when (bit x.v 1 && !bit x.v 0)
    (withWriteOut { parityBad := x.parityBad } req (qReg q 0x24) x.v (qPortEffect req q x.v x.parityBad)))

end Sys2Proof.Machine
end

