-- ==== Sys2Proof/Machine/ReadOps.lean ====
section
/-! DEFINITION. The checks every register read passes, and the latches of 64-bit quantities (R25, R37 to R42). -/

namespace Sys2Proof.Machine

/-- The checks of a read that has reached its page: domain and permission; and the word and state that `get` gives when they pass. A
requester that no rule names for the register ends with a bus error (R37). -/
def readArrived (req : Requester) (k : Nat) (get : State → Word × State) (s : State) : State :=
  let p := k / 0x1000
  if !pageOn s p then busOk 0#32 (refuseAccess req (keyAddr k) false 5 s)
  else if !mayRead req p (k % 0x1000) s then busError (refuseAccess req (keyAddr k) false 2 s)
  else if p = Page.KEYS ∧ req ≠ .cox then busOk 0#32 s
  else busOk (get s).1 (get s).2

/-- A read by `req` of the register at key `k`: the checks of the bus, and what `get` gives when they pass. A read that cannot complete
waits (R22, R24, R25). -/
def withReadOut (o : Outside) (req : Requester) (k : Nat) (get : State → Word × State) (s : State) : State :=
  let p := k / 0x1000
  if s.chip.held.isSome then s
  else if pagePlace p = none then busError (refuseAccess req (keyAddr k) false 1 s)
  else if !pagePresent s p then busOk 0#32 s
  else if mustHold req k s then holdAccess req (keyAddr k) .read (atCore req s) o s
  else readArrived req k get s

/-- A register read that takes nothing from outside. -/
def withRead (req : Requester) (k : Nat) (get : State → Word × State) (s : State) : State := withReadOut {} req k get s

/-- Key of the latch that `req` holds for the register at key `k`. -/
def latchKey (req : Requester) (k : Nat) : Nat := Requester.code req * 2 ^ 20 + k

/-- The high word that a read of the low word latched (R39). -/
def latched (req : Requester) (k : Nat) (s : State) : Option Word := SMap.get (fun _ => none) s.bus.latches (latchKey req k)

def latch (req : Requester) (k : Nat) (w : Option Word) (s : State) : State :=
  { s with bus := { s.bus with latches := SMap.set (fun _ => none) s.bus.latches (latchKey req k) w } }

/-- The low word that `req` wrote last (R39); before its first such write no rule states it, and it is a free value. -/
def lowWritten (req : Requester) (k : Nat) (s : State) : Word × State :=
  match SMap.get (fun _ => none) s.bus.lowWrites (latchKey req k) with
  | some w => (w, s)
  | none => (s.freeWord, s.useFree)

def keepLow (req : Requester) (k : Nat) (w : Word) (s : State) : State :=
  { s with bus := { s.bus with lowWrites := SMap.set (fun _ => none) s.bus.lowWrites (latchKey req k) (some w) } }

/-- Offsets of the low words of the 64-bit quantities of a page (R39). Critical words, reservations and node lists are no such quantity. -/
def lowWords (p : Nat) : List Nat :=
  if p = Page.SYS then [0x050, 0x05C] else if 0x011 ≤ p ∧ p ≤ 0x014 then [0x04C, 0x064]
  else if p = Page.EVF then (List.range 6).map fun t => 0x110 + 0x20 * t
  else if 0x020 ≤ p ∧ p ≤ 0x023 then [0x070, 0x080, 0x128] else if p = Page.KEEL then [0x128]
  else if p = Page.COUPLE then [0x05C] else if p = Page.CAL then [0x044]
  else if 0x030 ≤ p ∧ p ≤ 0x03F then [0x508, 0x548] else if p = Page.BOAT then [0x040, 0x074]
  else if p = Page.CACHE then [0x048, 0x060] else if p = Page.CREWG then [0x040, 0x048, 0x070]
  else if p = Page.JRNL then [0x050, 0x060] else if 0x060 ≤ p ∧ p ≤ 0x063 then [0x048]
  else if p = Page.SLIPC then [0x040, 0x048, 0x05C, 0x070, 0x0A0, 0x408, 0x448, 0x488, 0x4C8]
  else if p = Page.LUT then [0x054] else if p = Page.HAZ then [0x048] else if p = Page.PWR then [0x074, 0x0C8]
  else if p = Page.SAFE then [0x068, 0x070] else if p = Page.COX then [0x050, 0x060]
  else if p = Page.KEYS then [0x048, 0x050] else if p = Page.UMP then [0x060, 0x06C]
  else if p = Page.DBG then [0x054, 0x070, 0x078, 0x080, 0x088, 0x090] else []

/-- The register at key `k` is the low, or the high word of a 64-bit quantity. -/
def isLowWord (k : Nat) : Bool := (lowWords (k / 0x1000)).contains (k % 0x1000)
def isHighWord (k : Nat) : Bool := decide (4 ≤ k % 0x1000) && (lowWords (k / 0x1000)).contains (k % 0x1000 - 4)

end Sys2Proof.Machine
end

