-- ==== Sys2Proof/Machine/Crit.lean ====
section
/-! DEFINITION. The critical-word store: votes, repairs, mends and the sweep (R84 to R90). -/

namespace Sys2Proof.Machine

def modCrit (f : CritStore → CritStore) (s : State) : State := { s with crit := f s.crit }

/-- An upset inverts bits of a copy's word or of its parities. -/
def strike (u : CritUpset) (s : State) : State :=
  modCrit (fun c =>
    let x := c.copy u.copy.val
    c.setCopy u.copy.val { words := SMap.set critPowerOn x.words u.word.val (x.get u.word.val ^^^ u.flips)
                           row := x.row ^^^ u.rowFlips, col := x.col ^^^ u.colFlips }) s

def strikeAll (us : List CritUpset) (s : State) : State := us.foldl (fun t u => strike u t) s

/-- CRIT_STATUS after a repair or mend of word `n`, bit `b`, copy `i` (R90). -/
def critNote (n b i : Nat) (s : State) : State :=
  ((s.setFld Reg.CRIT.CRIT_STATUS 4 0 n).setFld Reg.CRIT.CRIT_STATUS 12 8 b).setFld Reg.CRIT.CRIT_STATUS 17 16 i

/-- Copy `i` of word `n` is rewritten with `v`: a vote repair (R86). Of several bits that differed LAST_BIT names the lowest (log entry 131). -/
def voteRepair (n i : Nat) (v : Word) (s : State) : State :=
  let old := (s.crit.copy i).get n
  let s1 := modCrit (fun c => c.setCopy i { c.copy i with words := SMap.set critPowerOn (c.copy i).words n v }) s
  transient Page.CRIT 0 0 {} ((critNote n (lowBit (old ^^^ v)) i s1).count Reg.CRIT.VOTE_REPAIRS 1)

/-- Mend copy `i` at word `n` when exactly one row mismatches, at `n`, and exactly one column (R87). -/
def mendCopy (n i : Nat) (s : State) : State :=
  match (s.crit.copy i).badBit n with
  | some b =>
    transient Page.CRIT 1 0 {} ((critNote n b i (modCrit (fun c => c.setCopy i ((c.copy i).mended n)) s)).count Reg.CRIT.PARITY_MENDS 1)
  | none => s

/-- Every copy of word `n` that differs from the vote is rewritten (R86). -/
def repairWord (n : Nat) (s : State) : State :=
  match critVote s.crit n with
  | none => s
  | some v => (List.range 3).foldl (fun t i => if (t.crit.copy i).get n = v then t else voteRepair n i v t) s

/-- The word cannot be brought to agreement: UNCORRECTABLE, CRIT_STATUS and SAFE (R74, R87). -/
def critUncorrectable (n : Nat) (s : State) : State := if n ∈ s.crit.bad then s else critLost n s

/-- Vote word `n`, mending first where all three copies differ (R86, R87). -/
def voteWord (n : Nat) (s : State) : State :=
  if n ∈ s.crit.bad then s
  else if (critVote s.crit n).isSome then repairWord n s
  else
    let s1 := (List.range 3).foldl (fun t i => mendCopy n i t) s
    if (critVote s1.crit n).isSome then repairWord n s1 else critUncorrectable n s1

/-- A copy whose words all equal the vote but whose parities do not match has them recomputed (R88). -/
def refreshCopy (i : Nat) (s : State) : State :=
  let c := s.crit.copy i
  let agrees := (List.range 32).all fun n => critVote s.crit n == some (c.get n)
  if agrees && (c.row != critRowParity c || c.col != critColParity c) then
    transient Page.CRIT 2 0 {} (modCrit (fun k => k.setCopy i { c with row := critRowParity c, col := critColParity c }) s)
  else s

/-- CRIT_READ (R46, R86, R87): the vote of the three copies, with repair. -/
def execCritRead (req : Requester) (addr : Addr) (upsets : List CritUpset) (s : State) : Host.Outcome State Fault Refusal :=
  let s0 := strikeAll upsets s
  .next (match (addrKey addr).bind (fun k => (critWordOf k).map (fun n => (k, n))) with
    | none => s0
    | some (k, n) => withRead req k (fun t => ((voteWord n t).critVal n, voteWord n t)) s0)

/-- CRIT_SWEEP (R88, R89): every word is voted but one written in this cycle, then each copy's parities are checked. -/
def execCritSweep (upsets : List CritUpset) (s : State) : Host.Outcome State Fault Refusal :=
  let s0 := strikeAll upsets s
  .next (s0.when (s0.bit Reg.CRIT.SWEEP_CTRL 0 && s0.time % 1000000 == 0) fun s =>
    let due := (List.range 32).filter fun n => !(s.crit.wroteAt == s.time && s.crit.wrote.contains n)
    let s1 := due.foldl (fun t n => voteWord n t) s
    (List.range 3).foldl (fun t i => refreshCopy i t) s1)

end Sys2Proof.Machine
end

