-- ==== Sys2Proof/Machine/Debug.lean ====
section
/-! DEFINITION. The debug port's commands on certificates, engines and the TAP, the analogue test buses and the SMBus port (R523 to R536,
R547). -/

namespace Sys2Proof.Machine

def modDbg (f : Debug → Debug) (s : State) : State := { s with dbg := f s.dbg }

/-! ### The certificate (R525) -/

/-- The 256 bytes of CERT0–63, byte 0 in [31:24] of CERT0. -/
def certBytes (s : State) : List Byte :=
  (List.range 64).flatMap fun i => (toBytes 4 (SMap.get (fun _ => 0#32) s.dbg.cert i).toNat).reverse

/-- SUBMIT: the outcome stands in LAST_CODE. -/
def submitCert (s : State) : State :=
  let r := debugAttempt (certBytes s) s
  r.2.setFld Reg.DBG.CERT_STATUS 7 4 r.1

/-- A write of CERT_CTRL: CHAL_REQ, then SUBMIT. -/
def certCtrlEffect (v : Word) (s : State) : State :=
  if !blockAlive s Page.KEYS then s
  else
    let s1 := if bit v 0 then newChallenge s else s
    if bit v 1 then submitCert s1 else s1

/-- CHAL_REQ (R525). -/
def execChalReq (req : Requester) (v : Word) (s : State) : Host.Outcome State Fault Refusal :=
  .next (s.when (bit v 0) (withWrite req Reg.DBG.CERT_CTRL v (certCtrlEffect v)))

/-- CERT_SUBMIT (R525). -/
def execCertSubmit (req : Requester) (v : Word) (s : State) : Host.Outcome State Fault Refusal :=
  .next (s.when (bit v 1 && !bit v 0) (withWrite req Reg.DBG.CERT_CTRL v (certCtrlEffect v)))

/-! ### Halt, step and breakpoints (R526 to R529) -/

/-- The page of an engine by its requester code; none where the code names no engine. -/
def codePage (c : Nat) : Option Nat :=
  if c = 1 then some Page.COX else if 2 ≤ c ∧ c ≤ 5 then some (Page.STROKE (c - 2)) else if 8 ≤ c ∧ c ≤ 0xB then some (Page.RUDDER (c - 8))
  else if c = 0xC then some Page.KEEL else if c = 0xD then some Page.PWR
  else if 0x10 ≤ c ∧ c ≤ 0x34 then some (enginePage c) else none

/-- The engine exists and has power. -/
def engineThere (s : State) (c : Nat) : Bool := (codePage c).any fun p => pageOn s p

/-- The engine that ENG_SEL names. -/
def engSel (s : State) : Nat := s.fld Reg.DBG.ENG_SEL 5 0

/-- Engines whose halts PWR_FAIL releases and bars (R527). -/
def barredEngine (c : Nat) : Bool := (decide (8 ≤ c) && decide (c ≤ 0xD)) || c == 0x31 || c == 0x34

/-- A HALT without FORCE is refused of an actuator that is not parked and of a spindle that is not stopped (R527). -/
def needsForce (s : State) (c : Nat) : Bool :=
  (decide (8 ≤ c) && decide (c ≤ 0xB) && !rudParked s (c - 8)) || (c == 0xC && keelState s != 0)

/-- FORCE: the bridge retracts the actuator, or coasts the spindle, before the halt. -/
def forceSafe (c : Nat) (s : State) : State :=
  if 8 ≤ c ∧ c ≤ 0xB then retract (c - 8) 6 s else if c = 0xC then keelCoastEffect s else s

/-- The engine stands halted with a cause, at `pc`. -/
def setHalt (c cause pc : Nat) (s : State) : State :=
  modDbg (fun d => { d with halts := SMap.set (fun _ => 0) d.halts c cause, haltWanted := d.haltWanted.filter (· != c)
                            pcs := SMap.set (fun _ => 0) d.pcs c pc }) s

/-- ENG_CTRL.HALT. -/
def haltEffect (v : Word) (s : State) : State :=
  let c := engSel s
  if debugLevel s ≠ 2 ∨ !engineThere s c ∨ engineHalted s c then s
  else if (s.dbg.haltsBarred && barredEngine c) || (needsForce s c && !bit v 3) then raise Page.DBG 2 5 0 {} s
  else
    let s1 := if needsForce s c then forceSafe c s else s
    modDbg (fun d => { d with haltWanted := d.haltWanted.filter (· != c) ++ [c] }) s1

/-- ENGINE_HALT (R526, R527). -/
def execEngineHalt (req : Requester) (v : Word) (s : State) : Host.Outcome State Fault Refusal :=
  .next (s.when (bit v 0) (withWrite req Reg.DBG.ENG_CTRL v (haltEffect v)))

/-- HALTED (R526): the engine reaches its boundary. -/
def execHalted (engine pc : Nat) (s : State) : Host.Outcome State Fault Refusal :=
  .next (s.when (s.dbg.haltWanted.contains engine && engineThere s engine) fun s =>
    raise Page.DBG 0 0 engine {} (strokeStops engine (setHalt engine 1 pc s)))

/-- ENG_CTRL.RESUME. -/
def resumeEffect (s : State) : State :=
  let c := engSel s
  if debugLevel s ≠ 2 ∨ !engineHalted s c then s
  else strokeGoes c (modDbg (fun d => { d with halts := SMap.set (fun _ => 0) d.halts c 0 }) s)

/-- ENGINE_RESUME (R526). -/
def execEngineResume (req : Requester) (v : Word) (s : State) : Host.Outcome State Fault Refusal :=
  .next (s.when (bit v 1 && !bit v 0) (withWrite req Reg.DBG.ENG_CTRL v resumeEffect))

/-- ENGINE_STEP (R526): one instruction, or on to the next POLL or WAIT; the engine is halted again. -/
def execEngineStep (req : Requester) (v : Word) (pc : Nat) (s : State) : Host.Outcome State Fault Refusal :=
  .next (s.when (bit v 2 && !bit v 1 && !bit v 0) (withWriteOut { pc := pc } req Reg.DBG.ENG_CTRL v fun s =>
    let c := engSel s
    if debugLevel s ≠ 2 ∨ !engineHalted s c then s else raise Page.DBG 0 0 c {} (setHalt c 3 pc s)))

/-- Breakpoint `n` of engine `c` is enabled and holds `pc` (R528, R531). -/
def breakpointAt (s : State) (c pc n : Nat) : Bool :=
  let lo := SMap.get (fun _ => 0#32) s.dbg.bps (8 * c + 2 * n)
  let hi := SMap.get (fun _ => 0#32) s.dbg.bps (8 * c + 2 * n + 1)
  bit lo 0 && (lo.toNat + hi.toNat % 256 * 2 ^ 32) / 2 == pc / 2

/-- BREAKPOINT (R528): a match halts the engine before it executes what stands at `pc`. -/
def execBreakpoint (engine pc : Nat) (s : State) : Host.Outcome State Fault Refusal :=
  .next (s.when (debugLevel s == 2 && engineThere s engine && !engineHalted s engine && (List.range 4).any (breakpointAt s engine pc)) fun s =>
    raise Page.DBG 1 0 0 ⟨loWord pc, hiWord pc, 0#32⟩ (strokeStops engine (setHalt engine 2 pc s)))

/-- Place of register REG_SEL of the selected engine. -/
def regPlace (s : State) : Nat := 64 * engSel s + s.fld Reg.DBG.REG_SEL 5 0

/-- The register's value; what a program left there is a free value until it is written (log entry 31). -/
def engineReg (s : State) : BitVec 64 × State :=
  match SMap.get (fun _ => none) s.dbg.regs (regPlace s) with
  | some x => (x, s)
  | none =>
    let x := BitVec.ofNat 64 (s.freeWord.toNat + s.useFree.freeWord.toNat * 2 ^ 32)
    (x, modDbg (fun d => { d with regs := SMap.set (fun _ => none) d.regs (regPlace s) (some x) }) s.useFree.useFree)

def notHalted (s : State) : State := raise Page.DBG 3 5 1 {} s

/-- A read of REG_DATA: the low word latches the high word (R39, R529). -/
def regDataRead (req : Requester) (high : Bool) (s : State) : Word × State :=
  if !engineHalted s (engSel s) then (s.freeWord, notHalted s.useFree)
  else
    let r := engineReg s
    if high then ((latched req Reg.DBG.REG_DATA_HI s).getD (hiWord r.1.toNat), r.2)
    else (loWord r.1.toNat, latch req Reg.DBG.REG_DATA_HI (some (hiWord r.1.toNat)) r.2)

/-- A write of REG_DATA: it takes effect with the high word (R39, R529). -/
def regDataWrite (req : Requester) (high : Bool) (v : Word) (s : State) : State :=
  if !engineHalted s (engSel s) then notHalted s
  else if !high then keepLow req Reg.DBG.REG_DATA_HI v s
  else
    let lo := lowWritten req Reg.DBG.REG_DATA_HI s
    let x := BitVec.ofNat 64 (ofWords lo.1 v)
    modDbg (fun d => { d with regs := SMap.set (fun _ => none) d.regs (regPlace s) (some x) }) lo.2

/-- REG_DATA_ACCESS (R529). -/
def execRegDataAccess (req : Requester) (write high : Bool) (v : Word) (s : State) : Host.Outcome State Fault Refusal :=
  let k := if high then Reg.DBG.REG_DATA_HI else Reg.DBG.REG_DATA_LO
  .next (if write then withWrite req k v (regDataWrite req high v) s else withRead req k (regDataRead req high) s)

/-! ### The TAP (R523, R524) -/

/-- The port reaches the TAP: the 1149.7 adapter, once active, takes it from the 1149.1 pins. -/
def tapReached (s : State) : TapPort → Bool
  | .ieee1149_1 => !s.dbg.adapter && pageOn s Page.DBG
  | .ieee1149_7 => s.dbg.adapter && pageOn s Page.DBG

/-- The lowest `n` bits of a number, bit 0 first. -/
def bitList (n v : Nat) : List Bool := (List.range n).map fun i => v.testBit i

/-- An instruction other than EXTEST gives the balls back. -/
def tapShift (out : List Bool) (s : State) : State := modDbg (fun d => { d with tapOut := out, extest := false }) s

/-- The identification code of R523; bit 0 is 1 as IEEE 1149.1 has it. -/
def idCode (s : State) : Nat :=
  1 + Config.jep106.toNat * 2 + (if s.part4820 then 0x4820 else 0x4840) * 2 ^ 12 + 2 ^ 28

/-- IDCODE (R523). -/
def execIdcode (port : TapPort) (s : State) : Host.Outcome State Fault Refusal :=
  .next (s.when (tapReached s port) fun s => tapShift (bitList 32 (idCode s)) s)

/-- What passes through the bypass bit, which captures 0. -/
def passBypass (bits : List Bool) (s : State) : State :=
  modDbg (fun d => { d with bypassBit := bits.getLastD false }) (tapShift (false :: bits.dropLast) s)

/-- BYPASS (R523). -/
def execBypass (port : TapPort) (bits : List Bool) (s : State) : Host.Outcome State Fault Refusal :=
  .next (s.when (tapReached s port) (passBypass bits))

/-- SAMPLE/PRELOAD (R524): from PRODUCTION on. -/
def execSamplePreload (port : TapPort) (capture load : List Bool) (s : State) : Host.Outcome State Fault Refusal :=
  .next (s.when (tapReached s port && debugLevel s != 0) fun s =>
    modDbg (fun d => { d with chain := load }) (tapShift capture s))

/-- The conditions under which EXTEST is carried out (R524). -/
def extestOk (s : State) : Bool := mode s == 8 && keelState s == 0 && allParked s

/-- The chain drives the balls: EXTEST stands and its conditions hold. -/
def extestDrives (s : State) : Bool := s.dbg.extest && extestOk s

/-- EXTEST (R524): otherwise the TAP acts as BYPASS, and ACCESS_ERROR is raised with code 3. -/
def execExtest (port : TapPort) (s : State) : Host.Outcome State Fault Refusal :=
  .next (s.when (tapReached s port && debugLevel s != 0) fun s =>
    if extestOk s then modDbg (fun d => { d with extest := true }) s
    else raise Page.DBG 3 5 3 {} (passBypass [] s))

/-- ADAPTER_ACTIVATION (R523): class T4 with the OScan1 format only. -/
def execAdapterActivation (classT4 oscan1 : Bool) (s : State) : Host.Outcome State Fault Refusal :=
  .next (s.when (pageOn s Page.DBG && classT4 && oscan1) (modDbg fun d => { d with adapter := true }))

/-- ADAPTER_RESET (R523). -/
def execAdapterReset (s : State) : Host.Outcome State Fault Refusal :=
  .next (modDbg (fun d => { d with adapter := false }) s)

/-! ### Analogue test buses (R533 to R536) -/

/-- NODE is listed, and INST within its range (R534). -/
def atbNodeOk (node inst : Nat) : Bool :=
  if node ≤ 6 ∨ (0x13 ≤ node ∧ node ≤ 0x15) then true
  else if node = 8 then decide (inst ≤ 25) else if node = 9 then decide (inst ≤ 31)
  else if node = 0xA ∨ node = 0x12 then decide (inst ≤ 15) else if node = 0x10 ∨ node = 0x11 then decide (inst ≤ 3) else false

/-- A write that selects a node of bus `b`. -/
def atbStore (b : Nat) (k : Nat) (v : Word) (s : State) : State :=
  let s1 := storeWrite k v s
  if atbNodeOk (fld v 5 0) (fld v 12 8) then raise Page.ATB 0 0 b {} s1 else raise Page.ATB 1 5 1 {} s1

/-- A write of ATB0_SEL or ATB1_SEL (R533, R535). -/
def atbEffect (req : Requester) (bus : Bool) (v : Word) (s : State) : State :=
  if !bus then (if debugLevel s = 0 then s else atbStore 0 Reg.ATB.ATB0_SEL v s)
  else if fld v 5 0 = 0 ∨ holds req 7 1 s then atbStore 1 Reg.ATB.ATB1_SEL v s
  else raise Page.ATB 1 5 2 {} (notHeld 7 1 req s)

/-- ATB_SELECT (R535). -/
def execAtbSelect (req : Requester) (bus : Bool) (v : Word) (s : State) : Host.Outcome State Fault Refusal :=
  .next (withWrite req (if bus then Reg.ATB.ATB1_SEL else Reg.ATB.ATB0_SEL) v (atbEffect req bus v) s)

/-- A selection drives its bus. -/
def atbDriven (s : State) (k : Nat) : Bool := s.fld k 5 0 != 0 && atbNodeOk (s.fld k 5 0) (s.fld k 12 8)

/-- Function for which resource 7 is held, 0 free. -/
def atb1Owner (s : State) : Nat :=
  if s.bit (Reg.CLAIM.CLAIM_STATE 7) 31 then s.fld (Reg.CLAIM.CLAIM_STATE 7) 9 8 else 0

/-- ATB_STATUS (R536). -/
def atbStatus (s : State) : Word :=
  let own := atb1Owner s
  let on1 := if own = 2 then s.fld Reg.KEEL.CS_CFG 18 16 != 0 else own == 1 && atbDriven s Reg.ATB.ATB1_SEL
  word ((if debugLevel s != 0 && atbDriven s Reg.ATB.ATB0_SEL then 1 else 0) + (if on1 then 2 else 0) + own * 4)

/-! ### The SMBus port (R547) -/

/-- READY is asserted: a port is enabled and the device is in ACTIVE or an IDLE level (R397). -/
def readyOut (s : State) : Bool :=
  (List.range 4).any (fun p => portEnabled s p) && pageOn s Page.SLIPC && decide (1 ≤ mode s) && decide (mode s ≤ 4)

/-- A read that the port answers, least significant byte first; its logic lies in D0. -/
def smbusRead (bytes : State → List Byte) (s : State) : Host.Outcome State Fault Refusal :=
  .next (s.when (domainOn s 0) fun s => { s with smbus := ⟨bytes s, false⟩ })

/-- SMBUS_PART (R547). -/
def execSmbusPart (s : State) : Host.Outcome State Fault Refusal := smbusRead (fun s => toBytes 2 (if otpPart s then 0x4820 else 0x4840)) s

/-- SMBUS_MODE (R547). -/
def execSmbusMode (s : State) : Host.Outcome State Fault Refusal := smbusRead (fun s => toBytes 1 (mode s)) s

/-- SMBUS_DRIVE_TEMP (R547). -/
def execSmbusDriveTemp (s : State) : Host.Outcome State Fault Refusal :=
  smbusRead (fun s => toBytes 2 (if s.bit Reg.HDA.TEMP 31 then s.fld Reg.HDA.TEMP 15 0 else 0x8000)) s

/-- SMBUS_CORE_TEMP (R547). -/
def execSmbusCoreTemp (deciC : Int) (s : State) : Host.Outcome State Fault Refusal := smbusRead (fun _ => toBytes 2 (toField 16 deciC)) s

/-- SMBUS_RIG_TEMP (R547). -/
def execSmbusRigTemp (s : State) : Host.Outcome State Fault Refusal := smbusRead (fun s => toBytes 2 (s.fld Reg.DRV.RIG_TEMP 15 0)) s

/-- SMBUS_STATUS (R547). -/
def execSmbusStatus (s : State) : Host.Outcome State Fault Refusal :=
  smbusRead (fun s => toBytes 1 ((if readyOut s then 1 else 0) + (if pwrFailing s then 2 else 0) + (if wbActive s then 4 else 0)
    + (if s.bit Reg.SAFE.HEALTH_STATUS 0 then 8 else 0))) s

/-- SMBUS_SERIAL (R547): most significant byte first. -/
def execSmbusSerial (s : State) : Host.Outcome State Fault Refusal := smbusRead (fun s => (toBytes 8 (deviceSerial s)).reverse) s

/-- SMBUS_NACK (R547): any other command code, and every write. -/
def execSmbusNack (command : BitVec 8) (write : Bool) (s : State) : Host.Outcome State Fault Refusal :=
  .next (s.when (domainOn s 0 && (write || decide (6 < command.toNat))) fun s => { s with smbus := ⟨[], true⟩ })

/-- SMBUS_TIMEOUT (R547): SCL low for 25 ms; the port releases both lines. -/
def execSmbusTimeout (lowMs : Nat) (s : State) : Host.Outcome State Fault Refusal :=
  .next (s.when (domainOn s 0 && decide (25 ≤ lowMs)) fun s => { s with smbus := ⟨[], false⟩ })

end Sys2Proof.Machine
end

