-- ==== Sys2Proof/Machine/Recorder.lean ====
section
/-! DEFINITION. Umpire's commands (R509 to R522). -/

namespace Sys2Proof.Machine

/-- Umpire's microcode runs. -/
def umpRuns (s : State) : Bool := engineRuns s 0x34

/-- The gap record of a loss at the FIFO, once it holds no more than 32 entries (R513). -/
def umpGap (s : State) : State :=
  match s.ump.lost with
  | some (a, b, n) =>
    if s.ump.fifo.length ≤ 32 then writeGap 2 a b n 0 (modUmp (fun u => { u with lost := none }) s) else s
  | none => s

/-- A message taken while FREEZE is 1 (R516). -/
def umpHold (m : Msg) (s : State) : State :=
  if (m.severity = 3 ∨ m.severity = 4) ∧ s.ump.heldMsgs.length < 16 then modUmp (fun u => { u with heldMsgs := u.heldMsgs ++ [m] }) s
  else s.count Reg.UMP.FROZEN_COUNT 1

/-- UMPIRE_RECORD (R511, R513, R516). -/
def execUmpireRecord (s : State) : Host.Outcome State Fault Refusal :=
  .next (s.when (umpRuns s) fun s =>
    match s.ump.fifo with
    | [] => s
    | x :: rest =>
      if umpFrozen s then umpHold x.msg (modUmp (fun u => { u with fifo := rest }) s)
      else recordMsg x.msg (modUmp (fun u => { u with fifo := rest }) (umpGap s)))

/-- The image of a copy: the records from MEDIA_PTR up to HEAD, with a zero record after an odd number (R518). -/
def copyImage (s : State) (n : Nat) : List Byte :=
  ((List.range n).flatMap fun i => (ringRec s ((mediaPtr s + i) % 2048)).flatMap fun w => toBytes 4 w.toNat)
    ++ List.replicate (n % 2 * 32) 0#8

/-- A copy completes: MEDIA_PTR, MEDIA_SEQ, COPY_DONE (R518); COPY_READY again where the threshold stands (R519). -/
def copyOver (head n : Nat) (s : State) : State :=
  let s1 := (s.setCritFld 27 10 0 head).critPut 28 (s.critVal 28 + 1#32)
  let s2 := modUmp (fun u => { u with copy := none, readySaid := false, overrunSaid := false }) (s1.setBit Reg.UMP.UMP_STATUS 29 false)
  let s3 := raise Page.UMP 2 0 1 { p0 := word n } s2
  let s4 := if s3.fld Reg.UMP.COPY_THRESH 11 0 ≤ uncopied s3 then
      raise Page.UMP 1 0 0 {} (modUmp (fun u => { u with readySaid := true }) s3) else s3
  umpClearIfFree s4

/-- COPY (R518): the snapshot is taken. -/
def umpCopy (s : State) : State :=
  let off := s.reg64 Reg.UMP.COPY_ADDR_LO / 64 * 64
  let n := uncopied s
  if umpCopying s ∨ off = 0 then raise Page.UMP 2 0 2 {} s
  else if n = 0 then copyOver (umpHead s) 0 s
  else
    modUmp (fun u => { u with copy := some ⟨umpHead s, n, off, copyImage s n⟩ }) (s.setBit Reg.UMP.UMP_STATUS 29 true)

/-- The snapshot reaches DRAM, where Boathouse can take it. -/
def copyLands (c : RingCopy) (s : State) : State :=
  if dramReady s ∧ c.offset + c.image.length ≤ usableSize s then storeBytes c.offset c.image s else s

/-- CLEAR (R517, R530). -/
def umpClear (req : Requester) (s : State) : State :=
  if req ≠ .cox then raise Page.UMP 4 5 0 { p0 := word (Requester.code req) } s
  else if umpFrozen s ∨ umpCopying s then modUmp (fun u => { u with clearWaits := true }) s
  else umpClearNow s

/-- A write of UMP_CTRL: FREEZE, then CLEAR, then COPY. -/
def umpCtrlEffect (req : Requester) (v : Word) (s : State) : State :=
  let s1 := if bit v 0 then umpFreeze s else umpUnfreeze s
  let s2 := if bit v 1 then umpClear req s1 else s1
  if bit v 2 then umpCopy s2 else s2

def umpCtrl (guard : Bool) (req : Requester) (v : Word) (s : State) : Host.Outcome State Fault Refusal :=
  .next (s.when guard (withWrite req Reg.UMP.UMP_CTRL v (umpCtrlEffect req v)))

/-- FREEZE (R516). -/
def execFreeze (req : Requester) (v : Word) (s : State) : Host.Outcome State Fault Refusal := umpCtrl (bit v 0) req v s

/-- UNFREEZE (R516). -/
def execUnfreeze (req : Requester) (v : Word) (s : State) : Host.Outcome State Fault Refusal := umpCtrl (!bit v 0) req v s

/-- UMPIRE_CLEAR (R517). -/
def execUmpireClear (req : Requester) (v : Word) (s : State) : Host.Outcome State Fault Refusal := umpCtrl (bit v 1) req v s

/-- UMPIRE_COPY (R518). -/
def execUmpireCopy (req : Requester) (v : Word) (s : State) : Host.Outcome State Fault Refusal := umpCtrl (bit v 2) req v s

/-- FREEZE_TIMEOUT (R516): FREEZE has been 1 for FREEZE_MAX ms. -/
def execFreezeTimeout (s : State) : Host.Outcome State Fault Refusal :=
  .next (s.when (umpRuns s && umpFrozen s && decide (s.ump.frozenAt + s.fld Reg.UMP.FREEZE_MAX 15 0 * 1000000 ≤ s.time)) umpUnfreeze)

/-- COPY_DONE (R518): the snapshot goes to DRAM under a FIRMWARE credit (R26; log entry 153), and the last transaction completes. -/
def execCopyDone (s : State) : Host.Outcome State Fault Refusal :=
  .next (s.when (umpRuns s) fun s =>
    match s.ump.copy with
    | some c => underCredit (.load Page.UMP) (fun t => copyOver c.head c.count (copyLands c t)) s
    | none => s)

/-- Word `n` of record CURSOR as the window gives it (R515): a parity error is re-read once; a record that fails again is returned as
read, a value that no rule states. -/
def windowWord (n : Nat) (parityBad rereadBad : Bool) (s : State) : Word × State :=
  let i := s.fld Reg.UMP.CURSOR 10 0
  let pl : Payload := { p0 := word i }
  if !parityBad then (ringWord s i n, s)
  else if !rereadBad then (ringWord s i n, transient Page.UMP 6 0 pl s)
  else (s.freeWord, lasting Page.UMP 6 0 pl ((s.setBit Reg.UMP.UMP_STATUS 30 true).useFree))

/-- UMPIRE_WINDOW_READ (R515). -/
def execUmpireWindowRead (req : Requester) (n : Nat) (parityBad rereadBad : Bool) (s : State) : Host.Outcome State Fault Refusal :=
  .next (s.when (decide (n < 8)) (withRead req (Reg.UMP.WIN n) (windowWord n parityBad rereadBad)))

end Sys2Proof.Machine
end

