-- ==== Sys2Proof/Machine/Ucode.lean ====
section
/-! DEFINITION. The microcode store's commands (R303 to R312). -/

namespace Sys2Proof.Machine

def modUcode (f : Ucode → Ucode) (s : State) : State := { s with ucode := f s.ucode }

/-- Kind selected by UC_SEL. -/
def ucKind (s : State) : Nat := s.fld Reg.UCODE.UC_SEL 2 0

/-- COMMIT has been accepted for kind `k` since the device reset; a soft reset of the page clears COMMITTED alone (R44, R308). -/
def ucCommitted (s : State) (k : Nat) : Bool := s.ucode.done.contains k

/-- UCODE_REFUSED: the kind is already committed (R308). -/
def ucRefuse (s : State) : State := raise Page.UCODE 1 5 1 {} s

/-- UCODE_WORD_WRITE (R308, R311): UC_DATA3 completes a patch word, and UC_ADDR moves on. -/
def execUcodeWordWrite (req : Requester) (v : Word) (s : State) : Host.Outcome State Fault Refusal :=
  .next (withWrite req (Reg.UCODE.UC_DATA 3) v (fun s =>
    let k := ucKind s
    if ucCommitted s k then ucRefuse s
    else
      let s1 := s.setReg (Reg.UCODE.UC_DATA 3) v
      let a := SMap.get (fun _ => 0) s.ucode.addrs k
      let w := BitVec.ofNat 128 (ofWords (s.reg (Reg.UCODE.UC_DATA 0)) (s.reg (Reg.UCODE.UC_DATA 1))
        + ofWords (s.reg (Reg.UCODE.UC_DATA 2)) v * 2 ^ 64)
      modUcode (fun u => { u with words := SMap.set (fun _ => 0#128) u.words (512 * k + a) w
                                  addrs := SMap.set (fun _ => 0) u.addrs k (min 511 (a + 1)) }) s1) s)

/-- A match register of kind `k` is enabled. -/
def ucPatched (s : State) (k : Nat) : Bool :=
  (List.range 16).any fun m => bit (SMap.get (fun _ => 0#32) s.ucode.matchRegs (16 * k + m)) 31

/-- COMMIT of the selected kind (R308): its engines are released; Umpire and the Crypto engines take it at their next POLL. -/
def commitEffect (s : State) : State :=
  let k := ucKind s
  if ucCommitted s k then ucRefuse s
  else
    let s1 := ((List.range 0x35).filter fun c => decide (0x10 ≤ c) && engineKind c == k).foldl (fun t c => restoreCopy c t) s
    raise Page.UCODE 0 0 k {} ((modUcode (fun u => { u with done := u.done ++ [k] }) s1).setBit Reg.UCODE.UC_STATE k true)

/-- UCODE_COMMIT (R308). -/
def execUcodeCommit (req : Requester) (v : Word) (s : State) : Host.Outcome State Fault Refusal :=
  .next (s.when (bit v 0) (withWrite req Reg.UCODE.UC_CTRL v commitEffect))

/-- UCODE_RESTORE_DONE (R307): the engine's patch RAM and match registers are restored, or it is in machine check. -/
def execUcodeRestoreDone (code : Nat) (parity : MasterParity) (s : State) : Host.Outcome State Fault Refusal :=
  .next (s.when (s.ucode.restoring.contains code) fun s =>
    let s0 := modUcode (fun u => { u with restoring := u.restoring.filter (· ≠ code) }) s
    let s1 := s0.count Reg.UCODE.RESTORE_COUNT 1
    let k := engineKind code
    let pl : Payload := ⟨word code, 0#32, 0#32⟩
    match parity with
    | .good => restoreCopy code s1
    | .transient => transient Page.UCODE 2 k pl (restoreCopy code s1)
    | .lasting => engineCheck code (sourceOf (enginePage code) 0) 6 (lasting Page.UCODE 2 k pl s0))

end Sys2Proof.Machine
end

