-- ==== Sys2Proof/Machine/ReadMap.lean ====
section
/-! DEFINITION. What a register shows: the registers that are views of the machine's state, and the read of any register (R39 to R45). -/

namespace Sys2Proof.Machine

/-- A word from its fields: the value of each, from its lowest bit and with its width. -/
def fields (fs : List (Nat × Nat × Nat)) : Word := fs.foldl (fun w f => Sys2Proof.setFld w (f.1 + f.2.1 - 1) f.1 f.2.2) 0#32

/-- One bit per index below `n`. -/
def maskBits (n : Nat) (p : Nat → Bool) : Nat := (List.range n).foldl (fun m i => m + (if p i then 2 ^ i else 0)) 0

/-! ### Header: STATUS (R44) -/

/-- The block of page `p` has work in progress (R44). -/
def blockWorks (s : State) (p : Nat) : Bool :=
  if p = Page.PWR then s.power.entering.isSome || s.power.exiting.isSome
  else if 0x020 ≤ p ∧ p ≤ 0x023 then !rudParked s (p - 0x020)
  else if p = Page.KEEL then keelState s != 0
  else if 0x030 ≤ p ∧ p ≤ 0x03F then (oar s (p - 0x030)).job.isSome || (oar s (p - 0x030)).entries.any fun e => e.2.isSome
  else if 0x040 ≤ p ∧ p ≤ 0x043 then !(gate s (p - 0x040)).runs.isEmpty
  else if p = Page.HAZ then !(hazList s).isEmpty
  else if p = Page.SWEEP then !(usedDec s).isEmpty
  else if 0x050 ≤ p ∧ p ≤ 0x057 then s.crew.jobs.any fun j => j.engine == p - 0x050 && j.holds
  else if p = Page.CREWG then !s.crew.jobs.isEmpty
  else if p = Page.JRNL then s.crew.writing.isSome || s.crew.replay.isSome || s.crew.closing
  else if 0x060 ≤ p ∧ p ≤ 0x063 then !(sasLane s (p - 0x060)).frames.isEmpty || (sasLane s (p - 0x060)).resetting.isSome
  else if p = Page.SLIPC then !(heldTasks s).isEmpty
  else if p = Page.LUT then !s.slip.deleting.isEmpty
  else if p = Page.BOAT then !s.boat.inFlight.isEmpty
  else if p = Page.CACHE then s.cache.range.isSome
  else if p = 0x072 ∨ p = 0x073 then s.bit (Reg.DRAM.DRAM_STATUS (p - 0x072)) 2
  else if p = Page.KEYS then s.keys.op.isSome
  else if p = Page.UMP then !s.ump.fifo.isEmpty || s.ump.copy.isSome
  else if 0x088 ≤ p ∧ p ≤ 0x08B then (pre s (p - 0x088)).sending.isSome || !(pre s (p - 0x088)).rt.isEmpty || (pre s (p - 0x088)).fw.isSome
  else if p = Page.HDA then s.hda.discovering.isSome
  else if p = Page.CAL then s.cal.load.isSome
  else if p = Page.SAFE then s.safe.running.isSome || s.safe.dump.isSome
  else false

/-- An engine of the page waits for its microcode restore (R307). -/
def pageRestoring (s : State) (p : Nat) : Bool := s.ucode.restoring.any fun c => enginePage c == p

/-- STATUS: BUSY, READY and the fields kept (R44); BOAT mirrors WB_STATE.ACTIVE, KEEL counts its failed attempts (R130), SWEEP shows
its lanes. -/
def statusWord (s : State) (p : Nat) : Word :=
  let busy := blockWorks s p || s.bit (Reg.CTRL p) 1
  let w := Sys2Proof.setBit (Sys2Proof.setBit (s.reg (Reg.STATUS p)) 0 busy) 1 (blockRuns s p && !pageRestoring s p)
  if p = Page.BOAT then Sys2Proof.setBit w 8 (wbActive s)
  else if p = Page.KEEL then Sys2Proof.setFld w 21 20 (min 3 (reacqFails s))
  else if p = Page.SWEEP then Sys2Proof.setFld w 19 8 (maskBits 12 fun l => (decLane s l).isSome)
  else w

/-! ### The views, page by page; none: the register is kept as written -/

/-- Below a minimum of R446. -/
def belowMin (s : State) : Bool :=
  let low := fun (r : Nat) (m : List Nat) => (List.range 4).any fun c => decide (resField s r c < m.getD c 0)
  low Reg.SYS.RES_STRIPE_LO [16, 4, 4, 0] || low Reg.SYS.RES_SECTOR_LO [256, 64, 64, 64] || low Reg.SYS.RES_XACT_LO [32, 64, 16, 8]

/-- OLDEST_TASK (R450). -/
def oldestTask (s : State) : Word :=
  match (heldTasks s).filter (fun t => !t.committed) with
  | [] => 0#32
  | t :: ts =>
    let o := ts.foldl (fun a b => if b.accepted < a.accepted then b else a) t
    fields [(0, 13, o.index), (16, 16, min 0xFFFF ((s.time - o.accepted) / 1000000000))]

def sysView (off : Nat) (s : State) : Option Word :=
  if off = 0x108 then some (word (ofBool (belowMin s))) else if off = 0x110 then some (oldestTask s)
  else if off = 0x120 then some 8192#32 else if off = 0x124 then some 2048#32
  else if off = 0x128 then some (if s.part4820 then 16384#32 else 32768#32)
  else if off = 0x12C then some 1024#32 else if off = 0x130 then some 512#32 else none

/-- Nominal frequency of an island, MHz; that of I8 follows the data rate (R18). -/
def islandMhz (s : State) (i : Nat) : Nat :=
  if i = 8 then [800, 937, 1066].getD (SMap.get (fun _ => DramPort.reset) s.drams 0).rate 1066
  else [1000, 200, 500, 1600, 1600, 1600, 1600, 1200, 0, 1200, 1200, 800, 800, 800, 800, 1050, 1050, 1050, 1050, 1000, 1200, 800, 1200,
    400, 100, 200].getD i 0

/-- The island's clock is locked and runs. -/
def islandLocked (s : State) (i : Nat) : Bool := domainOn s (islandDomain i) && !islandStopped s i

/-- The island is clock-gated: that of the Oars and front ends of a lost actuator (R161). -/
def islandGated (s : State) (i : Nat) : Bool := decide (15 ≤ i) && domainOn s (islandDomain i) && actuatorLost s (i - 15)

def clkView (off : Nat) (s : State) : Option Word :=
  if off = 0x040 then some (word (maskBits 26 (islandLocked s)))
  else if 0x080 ≤ off ∧ off ≤ 0x0E4 then
    (let i := (off - 0x080) / 4
     some (fields [(0, 12, if islandLocked s i then islandMhz s i else 0), (16, 1, ofBool (domainOn s (islandDomain i))),
      (17, 1, ofBool (islandGated s i)), (18, 1, ofBool (islandLocked s i)), (19, 2, if i = 1 then 1 else if i = 25 then 2 else 0)]))
  else none

/-- The core's writes not yet acknowledged, and its stall (R24). -/
def fenceWord (req core : Requester) (s : State) : Word :=
  fields [(0, 1, ofBool (req != core && s.bus.stalled.contains core)),
    (8, 8, min 255 (s.bus.held.filter (unacked core)).length)]

/-- The core whose page is `p`, when the page holds a FENCE register (R24). -/
def fenceCore (p : Nat) : Option Requester :=
  if p = Page.COX then some .cox else if p = Page.KEEL then some .keel else if p = Page.PWR then some .powerManager
  else if p = 0x011 then some (.stroke 0) else if p = 0x012 then some (.stroke 1) else if p = 0x013 then some (.stroke 2)
  else if p = 0x014 then some (.stroke 3) else if p = 0x020 then some (.rudder 0) else if p = 0x021 then some (.rudder 1)
  else if p = 0x022 then some (.rudder 2) else if p = 0x023 then some (.rudder 3) else none

/-- Stroke core `n` is released and out of reset (R505). -/
def coreRunning (s : State) (n : Nat) : Bool := s.bit Reg.COX.STROKE_CTRL (8 + n)

/-- CORE_STATUS (R57); WFI of a running core is a free value (log entry 125). -/
def strokeView (n off : Nat) (s : State) : Option Word :=
  if off = 0x044 then
    some (fields [(0, 1, ofBool (coreRunning s n)), (2, 1, ofBool (engineHalted s (2 + n))),
      (3, 1, ofBool (s.fld (Reg.STROKE.WDT_CFG n) 15 0 != 0))])
  else none

/-- The head message of target `t` and its counts (R65). -/
def evfView (off : Nat) (s : State) : Option Word :=
  if 0x100 ≤ off ∧ off < 0x1C0 then
    (let t := (off - 0x100) / 0x20
     let x := target s t
     let m := targetHead s t
     let of := fun (f : Msg → Word) => (m.map f).getD 0#32
     let r := off % 0x20
     some (if r = 0 then of fun y => headWord y true else if r = 4 then of Msg.p0 else if r = 8 then of Msg.p1
      else if r = 0xC then of Msg.p2 else if r = 0x10 then of fun y => loWord y.time else if r = 0x14 then of fun y => hiWord y.time
      else if r = 0x18 then fields [(0, 8, targetHeld s t), (16, 16, x.dropped)] else 0#32))
  else none

/-- Heads with a stale or a missing record in use; stale slots; records stored; the window (R170). -/
def calView (off : Nat) (s : State) : Option Word :=
  if off = 0x058 then some (word (maskBits 24 fun h => (calUsed s).any fun x => x.1 == h && calForced s x.1 x.2))
  else if off = 0x064 then some (word (maskBits 24 fun h => calHardHead s h))
  else if off = 0x05C then some (word (s.cal.stale.filter Prod.snd).length)
  else if off = 0x068 then some (word (s.cal.records.filter fun e => e.2.isSome).length)
  else if 0x0C0 ≤ off ∧ off < 0x100 then
    some (((SMap.get (fun _ => none) s.cal.records (s.fld Reg.CAL.WIN_SEL 10 0)).getD []).getD ((off - 0x0C0) / 4) 0#32)
  else none

/-- Trace depth and the buffer window (R216, R217). -/
def tuneView (p off : Nat) (s : State) : Option Word :=
  if off = 0x120 then some (word (trDepth s p))
  else if 0x1C0 ≤ off ∧ off < 0x200 then
    (let a := 64 * s.fld (Reg.TUNE.TR_WIN_SEL p) 8 0 + (off - 0x1C0)
     some (word (ofBytes ((List.range 4).map fun i => SMap.get (fun _ => 0#8) (tune s p).buf (a + i)))))
  else none

def rudderView (a off : Nat) (s : State) : Option Word :=
  let r := rud s a
  let k := off % 0x10 / 4
  let x := rudSlot s a k
  if off = 0x080 then some (loWord r.arm.toNat) else if off = 0x084 then some (hiWord r.arm.toNat)
  else if off = 0x088 then some (sword r.armPes)
  else if off = 0x08C then some (word (toField 16 (rudDrive s a).coilMa + toField 16 (rudDrive s a).milliMv * 65536))
  else if 0x090 ≤ off ∧ off < 0x0A0 then
    some (fields [(0, 3, x.head), (3, 1, ofBool x.used), (4, 2, if !x.used then 0 else if x.write then 2 else 1), (6, 2, x.meas),
      (8, 1, ofBool x.onTrack), (9, 1, ofBool x.wf), (10, 1, ofBool x.readOff)])
  else if 0x0A0 ≤ off ∧ off < 0x0B0 then some (sword x.pes)
  else if 0x0C0 ≤ off ∧ off < 0x0D0 then some (sword x.disp)
  else tuneView (Page.RUDDER a) off s

/-- A job entry as ENTRY_VIEW shows it (R309). -/
def entryWord : Option JobEntry → Word
  | none => 0#32
  | some x => fields [(0, 4, x.state), (4, 4, x.cause), (8, 1, ofBool x.marked), (9, 1, ofBool x.wfCut), (16, 16, x.tag)]

def oarView (o off : Nat) (s : State) : Option Word :=
  let r := oar s o
  let es := r.entries.filterMap Prod.snd
  let j := r.job
  if off = 0x404 then
    some (Sys2Proof.setFld (s.reg (Reg.OAR.FE_STATUS o)) 16 14 (if slotOn s (oarAct o) (oarSlot o) then slotHead s (oarAct o) (oarSlot o) else 0))
  else if off = 0x420 then
    (let sel := s.reg (Reg.OAR.TAP_SEL o)
     let k := 32 * fld sel 2 0 + 16 * fld sel 3 3 + fld sel 7 4
     some (word (toField 10 (SMap.get centreTap r.taps k / 65536))))
  else if 0x520 ≤ off ∧ off < 0x540 then
    some (if o % 4 ≠ 0 then 0#32
      else (SMap.get (fun _ => []) r.zones (s.fld (Reg.OAR.ZT_WIN_SEL o) 8 0)).getD ((off - 0x520) / 4) 0#32)
  else if 0x570 ≤ off ∧ off < 0x580 then
    some (if o % 4 ≠ 0 then 0#32 else (r.relocs.getD (s.fld (Reg.OAR.RT_WIN_SEL o) 11 0) []).getD ((off - 0x570) / 4) 0#32)
  else if off = 0x044 then
    some (fields [(0, 16, (j.map jobTag).getD 0), (16, 1, ofBool j.isSome), (17, 1, ofBool (rudSlot s (o / 4) (o % 4)).write),
      (18, 10, jobRemaining s o)])
  else if off = 0x048 then some ((j.map fun t => fields [(0, 3, jobHead t), (8, 6, jobZone t), (31, 1, 1)]).getD 0#32)
  else if off = 0x04C then some ((j.map fun t => word (jobTrack t)).getD 0#32)
  else if off = 0x050 then some (fields [(0, 12, es.length), (16, 12, (es.filter fun x => x.state == 7 || x.state == 8 || x.state == 9).length)])
  else if off = 0x05C then some (entryWord (entry s o (s.fld (Reg.OAR.ENTRY_SEL o) 10 0)))
  else none

def sweepView (off : Nat) (s : State) : Option Word :=
  let n := fun (st : Nat) => ((usedDec s).filter fun e => e.2.state == st).length
  if off = 0x060 then some (fields [(0, 10, (usedDec s).length), (16, 10, recovering s)])
  else if off = 0x068 then
    some (fields [(0, 10, n 2), (16, 10, n 4), (28, 4, (s.sweep.lanes.filter fun e => e.2.any Lane.slice).length)])
  else none

/-- The registers held by kind (R311). -/
def ucodeView (off : Nat) (s : State) : Option Word :=
  let k := ucKind s
  if off = 0x044 then some (word (SMap.get (fun _ => 0) s.ucode.addrs k))
  else if off = 0x05C then some (word (maskBits 7 (s.bit Reg.UCODE.UC_STATE) + 256 * maskBits 7 (ucPatched s)))
  else if off = 0x060 then some (SMap.get (fun _ => 0#32) s.ucode.ids k)
  else if 0x080 ≤ off ∧ off < 0x0C0 then some (SMap.get (fun _ => 0#32) s.ucode.matchRegs (16 * k + (off - 0x080) / 4))
  else none

def boatView (off : Nat) (s : State) : Option Word :=
  if off = 0x054 then some (word ((s.boat.waiting.map Reservation.granules).foldl (· + ·) 0))
  else if off = 0x060 then some (word ((List.range 4).map (xactHeld s)).sum)
  else none

/-- Counts of valid, dirty and locked lines (R346). -/
def cacheView (off : Nat) (s0 : State) : Option Word :=
  let s := rangeAdvance s0
  let ls := s.cache.lines.filter fun e => e.2.isSome
  if off = 0x070 then some (word ls.length)
  else if off = 0x074 then some (word (ls.filter fun e => e.2.any CacheLine.dirty).length)
  else if off = 0x078 then some (word (ls.filter fun e => wayLocked s (e.1 % 16)).length)
  else none

def crewView (e off : Nat) (s : State) : Option Word :=
  if off = 0x040 then
    some (match s.crew.jobs.find? fun j => j.engine == e && j.holds with
      | some j => fields [(0, 11, j.id), (12, 4, j.kind), (16, 1, 1)]
      | none => 0#32)
  else none

def crewgView (off : Nat) (s : State) : Option Word :=
  if off = 0x064 then some (word s.crew.lost.length)
  else if off = 0x094 then some (word ((List.range 4).map (stripeHeld s)).sum)
  else if off = 0x098 then some (word s.crew.stale.length) else none

def jrnlView (off : Nat) (s : State) : Option Word :=
  if off = 0x060 then some (loWord s.crew.nextJseq) else if off = 0x064 then some (hiWord s.crew.nextJseq)
  else if off = 0x068 then some (word s.crew.open_.length)
  else if off = 0x06C then some (word (s.crew.open_.filterMap JRecord.sector).eraseDups.length) else none

def slipcView (off : Nat) (s : State) : Option Word :=
  let sel := s.fld Reg.SLIPC.NEXUS_SEL 5 0
  let n := nexus s sel
  if off = 0x068 then some (fields [(0, 14, (heldTasks s).length), (16, 14, ((heldTasks s).filter fun t => t.stage == 2).length)])
  else if off = 0x070 then some ((n.map fun x => loWord x.addr).getD 0#32)
  else if off = 0x074 then some ((n.map fun x => hiWord x.addr).getD 0#32)
  else if off = 0x078 then
    some ((n.map fun x => fields [(0, 1, 1), (1, 1, x.port), (16, 14, ((heldTasks s).filter fun t => t.nexus == sel).length)]).getD 0#32)
  else if off = 0x090 then
    some (Sys2Proof.setFld (s.reg Reg.SLIPC.SIDEBAND) 2 0 (ofBool (readyOut s) + 2 * ofBool s.slip.activity.isSome
      + 4 * ofBool (pwrFailing s && s.fld Reg.PWR.PWR_STATUS 3 1 == 3)))
  else if off = 0x0A0 then some (word (maskBits 32 fun l => uaBit s sel l))
  else if off = 0x0A4 then some (word (maskBits 32 fun l => uaBit s sel (32 + l)))
  else none

def lutView (off : Nat) (s : State) : Option Word :=
  let on := fun l => (lu s l).any fun u => u.state == 1
  if off = 0x054 then some (word (maskBits 32 on)) else if off = 0x058 then some (word (maskBits 32 fun l => on (32 + l)))
  else if off = 0x060 then some (word ((s.slip.lus.map fun e => (e.2.map fun u => u.extents.length).getD 0).sum))
  else if 0x080 ≤ off ∧ off < 0x0C0 then
    some (match lu s (s.fld Reg.LUT.WIN_SEL 5 0) with
      | none => 0#32
      | some u =>
        let w := u.words.getD ((off - 0x080) / 4) 0#32
        if off = 0x080 then Sys2Proof.setFld w 31 30 u.state else w)
  else none

def gateView (a off : Nat) (s : State) : Option Word :=
  if off = 0x048 then
    some (fields [(0, 14, ((gate s a).held.map Prod.snd).sum), (16, 14, (gate s a).runs.length)])
  else if off = 0x04C then
    some (fields [(0, 4, maskBits 4 fun k => ((gate s a).group.getD k none).isSome),
      (4, 4, maskBits 4 fun k => ((gate s a).group.getD k none).any GroupSlot.write)])
  else none

/-- A hazard entry in the layout of R429. -/
def hazWord (x : HazEntry) (i : Nat) : Word :=
  if i = 0 then fields [(0, 6, x.lu), (8, 1, ofBool x.write), (9, 1, ofBool x.ordered), (10, 1, ofBool x.fw), (12, 1, 1), (16, 13, x.task)]
  else if i = 1 then loWord x.lba else if i = 2 then hiWord x.lba else word x.blocks

def hazView (off : Nat) (s : State) : Option Word :=
  if off = 0x040 then
    some (fields [(0, 13, (hazList s).length), (16, 13, (s.slip.tasks.filter fun t => t.held).length
      + ((hazList s).filter fun e => e.2.waiting).length)])
  else if 0x060 ≤ off ∧ off < 0x070 then
    some (((hazEntry s (s.fld Reg.HAZ.WIN_SEL 11 0)).map fun x => hazWord x ((off - 0x060) / 4)).getD 0#32)
  else none

/-- Directory entry DIR_SEL of the newest dump (R485). -/
def safeView (off : Nat) (s : State) : Option Word :=
  if 0x090 ≤ off ∧ off < 0x0A0 then
    some ((s.safe.newest.map fun d => dirWord d.2 (s.fld Reg.SAFE.DIR_SEL 2 0) ((off - 0x090) / 4)).getD 0#32)
  else none

/-- The measurement log: entry LOG_SEL, and D for 16; byte 0 in [31:24] (R495, R505). -/
def coxView (off : Nat) (s : State) : Option Word :=
  if 0x140 ≤ off ∧ off < 0x170 then
    (let sel := s.fld Reg.COX.LOG_SEL 4 0
     let bs := if sel = 16 then s.keys.digest else s.keys.log.getD sel []
     let i := off - 0x140
     some (word (ofBytes ((bs.drop i).take 4).reverse)))
  else none

def keysView (off : Nat) (s : State) : Option Word :=
  if 0x060 ≤ off ∧ off < 0x070 then some (slotStateWord s ((off - 0x060) / 4))
  else if off = 0x070 then some (word (keyCount s)) else none

/-- The debug page's views (R525 to R531). -/
def dbgView (off : Nat) (s : State) : Option Word :=
  let c := engSel s
  if off = 0x044 then
    some (Sys2Proof.setFld (s.reg Reg.DBG.CERT_STATUS) 3 0 (debugLevel s + 4 * ofBool s.keys.challenge.isSome))
  else if off = 0x050 then
    (let h := SMap.get (fun _ => 0) s.dbg.halts c
     some (fields [(0, 1, ofBool (h != 0)), (4, 4, h)]))
  else if 0x070 ≤ off ∧ off < 0x090 then some (SMap.get (fun _ => 0#32) s.dbg.bps (8 * c + (off - 0x070) / 4))
  else if 0x0A0 ≤ off ∧ off < 0x0C0 then
    some (word (ofBytes ((((s.keys.challenge.getD []).drop (off - 0x0A0)).take 4).reverse)))
  else none

/-- A queue's registers: Q_STATUS, Q_FLUSH and the reader's window (R103, R104). -/
def queueView (req : Requester) (q : QueueId) (r : Nat) (s : State) : Option Word :=
  if r = 4 then some (qStatus s q) else if r = 0x0C then some (word (ofBool (hq s q).flush.isSome))
  else if 0x40 ≤ r ∧ r < 0x80 then
    some (SMap.get (fun _ => 0#32) (hq s q).windows (16 * Requester.code req + (r - 0x40) / 4))
  else none

/-- The queue whose register block holds offset `off` of page `p`, and the place in the block. -/
def queueAt (p off : Nat) : Option (QueueId × Nat) :=
  ((queuesOf p).find? fun q => decide ((qPlace q).2.1 ≤ off) && decide (off < (qPlace q).2.1 + 0x80)).map fun q => (q, off - (qPlace q).2.1)

/-- COUPLE: words arrive only from a Rudder that sends (R207). -/
def coupleView (off : Nat) (s : State) : Option Word :=
  if off = 0x044 then
    some (s.reg Reg.COUPLE.CPL_STATUS &&& word (0xF0 + ((List.range 4).filter fun a => coupleSends s a).foldl (fun n a => n + 2 ^ a) 0))
  else none

/-- The view that a register is, where it is one. -/
def pageView (req : Requester) (p off : Nat) (s : State) : Option Word :=
  if off = 0x00C then some (statusWord s p)
  else if off < 0x040 then none
  else if off = 0x040 ∧ (fenceCore p).isSome then (fenceCore p).map fun c => fenceWord req c s
  else match queueAt p off with
  | some (q, r) => queueView req q r s
  | none =>
    if p = Page.SYS then sysView off s else if p = Page.CLK then clkView off s else if p = Page.EVF then evfView off s
    else if 0x011 ≤ p ∧ p ≤ 0x014 then strokeView (p - 0x011) off s
    else if 0x020 ≤ p ∧ p ≤ 0x023 then rudderView (p - 0x020) off s
    else if p = Page.KEEL then tuneView p off s else if p = Page.COUPLE then coupleView off s
    else if 0x030 ≤ p ∧ p ≤ 0x03F then oarView (p - 0x030) off s
    else if 0x040 ≤ p ∧ p ≤ 0x043 then gateView (p - 0x040) off s
    else if p = Page.HAZ then hazView off s else if p = Page.SWEEP then sweepView off s
    else if 0x050 ≤ p ∧ p ≤ 0x057 then crewView (p - 0x050) off s
    else if p = Page.CREWG then crewgView off s else if p = Page.JRNL then jrnlView off s
    else if p = Page.SLIPC then slipcView off s else if p = Page.LUT then lutView off s
    else if p = Page.BOAT then boatView off s else if p = Page.CACHE then cacheView off s
    else if p = Page.KEYS then keysView off s else if p = Page.DBG then dbgView off s
    else if p = Page.ATB then (if off = 0x048 then some (atbStatus s) else none)
    else if p = Page.CAL then calView off s else if p = Page.SAFE then safeView off s
    else if p = Page.COX then coxView off s else if p = Page.UCODE then ucodeView off s else none

/-- The register at `off` of page `p` reads 0 whatever it holds: a WO register, and the write-one fields that read 0 (R45). -/
def readsZero (p off : Nat) : Bool :=
  match regRow p off with
  | some r => r.access == .wo || off == 0x01C
  | none => true

/-- Bits of a register whose value no rule states: EV_RAW of an event that has occurred since the page's reset (log entry 37), whether a
running core waits for an interrupt, or the place of a running engine. -/
def readsFree (p off : Nat) (s : State) : Option Word :=
  if off = 0x010 then some (s.seenEvents p)
  else if 0x011 ≤ p ∧ p ≤ 0x014 ∧ off = 0x044 then
    (if coreRunning s (p - 0x011) && !engineHalted s (2 + (p - 0x011)) then some 2#32 else none)
  else if p = Page.DBG ∧ (off = 0x054 ∨ off = 0x058) ∧ !engineHalted s (engSel s) then some 0xFFFFFFFF#32
  else none

/-- The oscillator, of I1 or I25, whose ISLANDn register stands at `off` of the CLK page, while it is locked: its frequency is measured, and
the rule states no more than that it lies within 2 % of 200 MHz (R56; log entry 37). -/
def oscillatorAt (p off : Nat) (s : State) : Bool :=
  p == Page.CLK && ((off == 0x084 && islandLocked s 1) || (off == 0x0E4 && islandLocked s 25))

/-- What stands in the register at key `k`, read by `req`, without side effects of the read. -/
def regShown (req : Requester) (k : Nat) (s : State) : Word :=
  let p := k / 0x1000
  let off := k % 0x1000
  if p = Page.DBG ∧ off = 0x054 then loWord (SMap.get (fun _ => 0) s.dbg.pcs (engSel s))
  else if p = Page.DBG ∧ off = 0x058 then hiWord (SMap.get (fun _ => 0) s.dbg.pcs (engSel s))
  else match pageView req p off s with
  | some w => w
  | none => if readsZero p off then 0#32 else s.reg k

/-- The word read from the register at key `k`, and the state after the read: the vote of a critical word (R86), Umpire's window (R515), a
debug register (R529), the latch of a 64-bit quantity (R39), or the register as it stands. -/
def regRead (req : Requester) (k : Nat) (parityBad rereadBad : Bool) (s : State) : Word × State :=
  let p := k / 0x1000
  let off := k % 0x1000
  match critWordOf k with
  | some n => let t := voteWord n s; (t.critVal n, t)
  | none =>
    if p = Page.UMP ∧ 0x080 ≤ off ∧ off < 0x0A0 then windowWord ((off - 0x080) / 4) parityBad rereadBad s
    else if k = Reg.DBG.REG_DATA_LO then regDataRead req false s
    else if k = Reg.DBG.REG_DATA_HI then regDataRead req true s
    else if oscillatorAt p off s then (Sys2Proof.setFld (regShown req k s) 11 0 (196 + s.freeWord.toNat % 9), s.useFree)
    else match readsFree p off s with
    | some m => ((regShown req k s &&& ~~~ m) ||| (s.freeWord &&& m), s.useFree)
    | none =>
      if isLowWord k then (regShown req k s, latch req (k + 4) (some (regShown req (k + 4) s)) s)
      else if isHighWord k then ((latched req k s).getD (regShown req k s), s)
      else (regShown req k s, s)

end Sys2Proof.Machine
end

