-- ==== Sys2Proof/Machine/SafeStore.lean ====
section
/-! DEFINITION. Commands of the safe store: the pages of a dump, SCAN, PREPARE, RESTORE, REWRITE_CUT, RELEASE and the health test
(R470 to R479, R485, R486). -/

namespace Sys2Proof.Machine

/-! ### Writing a dump (R33, R476, R477) -/

/-- The dump is over; after PWR_FAIL Keel brakes and the device waits for power (R33 step 8, R466). -/
def dumpOver (d : Dump) (s : State) : State :=
  let s1 := wbReview (closeDump d s)
  if pwrFailing s1 then
    keelHalts { s1 with chip := { s1.chip with dumped := true } }
  else s1

/-- The next page of the stream, where there is room for it. -/
def nextDumpPage (d : Dump) (s : State) : State :=
  match nextPlace s d.area d.place with
  | some k => dumpPage d k s
  | none => dumpOver d s

/-- NAND_PROGRAM_DONE (R473, R476). -/
def execNandProgramDone (good : Bool) (s : State) : Host.Outcome State Fault Refusal :=
  match s.safe.dump with
  | none => .next s
  | some d =>
    .next (s.when (pageOn s Page.SAFE && !d.ended) fun s =>
      let s1 := setNandPage d.place (some ⟨d.seq % 65536, d.index, d.now, good⟩) s
      if good then
        let s2 := if d.again then transient Page.SAFE 3 0 (nandPlace s d.place) s1 else s1
        if d.todo.isEmpty then modSafe (fun x => { x with dump := some { d with ended := true } }) s2 else nextDumpPage d s2
      else if d.again then dumpOver d (lasting Page.SAFE 3 0 (nandPlace s d.place) s1)
      else
        match blockPlace s d.area d.place with
        | some k => modSafe (fun x => { x with dump := some { d with place := k, again := true } }) s1
        | none => dumpOver d s1)

/-- DUMP_DONE (R477): the END page is good. -/
def execDumpDone (s : State) : Host.Outcome State Fault Refusal :=
  match s.safe.dump with
  | some d => .next (if d.ended then dumpOver d s else s)
  | none => .next s

/-! ### Commands (R470, R485) -/

/-- CMD_RESULT. -/
def safeResult (outcome code : Nat) (s : State) : State := s.setReg Reg.SAFE.CMD_RESULT (word (outcome + code * 16))

/-- A write of SAFE.CMD with operation `op`: refused while the controller is busy. -/
def safeCommand (op : Nat) (req : Requester) (v : Word) (eff : State → State) (s : State) : State :=
  s.when (fld v 2 0 == op) (withWrite req Reg.SAFE.CMD v fun s =>
    if !blockAlive s Page.SAFE then s
    else if s.safe.dump.isSome || s.safe.running.isSome then safeResult 2 5 s
    else eff s)

/-- The areas overlap or extend beyond the NAND of `blocks` blocks (R470). -/
def areasBad (s : State) (blocks : Option Nat) : Bool :=
  let a := areaFirst s 0; let b := areaFirst s 1; let n := areaBlocks s
  (decide (a < b + n) && decide (b < a + n)) || blocks.any fun x => decide (x < a + n) || decide (x < b + n)

/-- What SCAN finds becomes visible (R470, R477): DUMP_STATE, ACTIVE, CRIT_WIN. NEXT is the area neither held nor newer. -/
def showDumps (s : State) : State :=
  let d := newestDump s
  let s1 := modSafe (fun x => { x with newest := d }) s
  let s2 := match d with
    | some (a, h) => putDumpState (if dumpEnded s a h then 2 else 3) a (headerCause h) (headerSeq h) s1
    | none => putDumpState 0 0 0 0 s1
  let held := (heldDumps s).map Prod.fst
  let seqs := fun a => ((dumpHeader s a).map headerSeq).getD 0
  let newer := if seqs 0 < seqs 1 then [1] else if seqs 1 < seqs 0 then [0] else []
  let s3 := [0, 1].foldl (fun t a => t.setCritFld 19 (1 + a) (1 + a) (if held.contains a then 1 else 0)) s2
  let s4 := match [0, 1].filter (fun a => !held.contains a && !newer.contains a) with
    | [a] => s3.setCritFld 19 0 0 a
    | _ => s3
  (List.range 32).foldl (fun t n => t.setReg (Reg.SAFE.CRIT_WIN n) ((d.map fun x => x.2.getD (6 + n) 0#32).getD 0#32)) s4

/-- SCAN (R470, R471). -/
def scanEffect (chip : Option NandChip) (health : HealthEnd) (s : State) : State :=
  if areasBad s (chip.map NandChip.blocks) then safeResult 2 1 s
  else
    let s1 := match chip with
      | some c => (modSafe (fun x => { x with found := true, nand := { x.nand with blocks := c.blocks, page := c.page, dies := c.dies
                                                                                   perBlock := c.perBlock, bad := c.bad } }) s).setReg
          Reg.SAFE.NAND_INFO (word (c.blocks % 2 ^ 24 + c.page % 16 * 2 ^ 24 + (c.dies - 1) % 8 * 2 ^ 28))
      | none => (modSafe (fun x => { x with found := false }) s).setReg Reg.SAFE.NAND_INFO 0#32
    wbReview (safeResult 1 0 (runChecks health (showDumps s1)))

/-- SAFE_SCAN (R470). -/
def execSafeScan (req : Requester) (v : Word) (chip : Option NandChip) (health : HealthEnd) (s : State) : Host.Outcome State Fault Refusal :=
  .next (safeCommand 1 req v (scanEffect chip health) s)

/-- A command runs in the background. -/
def safeBegin (op : Nat) (s : State) : State := safeResult 3 0 (modSafe (fun x => { x with running := some op }) s)

/-- A background command is done. -/
def safeEnd (s : State) : State := safeResult 1 0 (modSafe (fun x => { x with running := none }) s)

/-- SAFE_PREPARE (R471). -/
def execSafePrepare (req : Requester) (v : Word) (s : State) : Host.Outcome State Fault Refusal :=
  .next (safeCommand 2 req v (safeBegin 2) s)

/-- SAFE_PREPARE_DONE (R471): every released area is erased, and the checks run. -/
def execSafePrepareDone (worn : List Nat) (health : HealthEnd) (s : State) : Host.Outcome State Fault Refusal :=
  .next (s.when (blockAlive s Page.SAFE && s.safe.running == some 2) fun s =>
    let s1 := [0, 1].foldl (fun t a => if areaHeld t a then t else eraseArea a worn t) s
    wbReview (safeEnd (runChecks health s1)))

/-- SAFE_RELEASE (R477). -/
def execSafeRelease (req : Requester) (v : Word) (s : State) : Host.Outcome State Fault Refusal :=
  .next (safeCommand 5 req v (fun s => wbReview (safeResult 1 0 (releaseArea (fld v 4 4) s))) s)

/-- HEALTH_TEST (R471). -/
def execHealthTest (req : Requester) (v : Word) (health : HealthEnd) (s : State) : Host.Outcome State Fault Refusal :=
  .next (safeCommand 6 req v (fun s => wbReview (safeResult 1 0 (runChecks health s))) s)

/-- HEALTH_PERIOD (R471, R482): every PERIOD_MIN minutes; one that falls due in a dump waits for its end. -/
def execHealthPeriod (health : HealthEnd) (s : State) : Host.Outcome State Fault Refusal :=
  .next (s.when (blockAlive s Page.SAFE && s.safe.found
      && (s.safe.testDue || decide (s.safe.testTime + s.fld Reg.SAFE.HEALTH_CFG 15 0 * 60000000000 ≤ s.time))) fun s =>
    if s.safe.dump.isSome then modSafe (fun x => { x with testDue := true }) s else wbReview (runChecks health s))

/-- SAFE_CMD_UNLISTED (R485). -/
def execSafeCmdUnlisted (req : Requester) (v : Word) (s : State) : Host.Outcome State Fault Refusal :=
  .next (s.when (fld v 2 0 == 0 || fld v 2 0 == 7) (safeCommand (fld v 2 0) req v (safeResult 2 4)))

/-! ### RESTORE (R473, R474, R479) -/

/-- The bytes of the section whose first page has index `i`. -/
def sectionBytes (st : List (List Byte)) (s : State) (i n : Nat) : List Byte :=
  (((st.drop i).take (pagesFor s n)).flatMap id).take n

/-- Words of each dirty-table entry of a dump. -/
def dumpEntries (bs : List Byte) : List (List Word) := (List.range (bs.length / 32)).map fun i => bytesToWords ((bs.drop (32 * i)).take 32)

/-- Where the ring of the dump goes: SAVE_ADDR as it stands at the restore, and nowhere at 0 (R520). -/
def saveOffset (s : State) : Nat := s.reg64 Reg.UMP.SAVE_ADDR_LO

/-- Every section of the dump lies below USABLE_SIZE (R479); section 7 at SAVE_ADDR (log entry 28). -/
def sectionsFit (s : State) (secs : List (Nat × Nat × Nat)) (table : List Byte) : Bool :=
  (secs.all fun x => x.1 == 6 || decide ((if x.1 = 7 then saveOffset s else x.2.1) + x.2.2 ≤ usableSize s)
      || (x.1 == 7 && saveOffset s == 0))
    && (dumpEntries table).all fun ws => (dtabGranules s ws).all fun g => decide (64 * g + 64 ≤ usableSize s)

/-- The dirty table of the newest dump. -/
def dumpTable (s : State) (a : Nat) (h : List Word) : List Byte :=
  match (placeSections s 1 (dirSections h)).1.find? fun x => x.2.1 == 5 with
  | some x => sectionBytes (streamOf s a (headerSeq h)) s x.1 x.2.2.2
  | none => []

/-- SAFE_RESTORE (R479): refused with code 2 or 3. -/
def execSafeRestore (req : Requester) (v : Word) (s : State) : Host.Outcome State Fault Refusal :=
  .next (safeCommand 3 req v (fun s =>
    match s.safe.newest with
    | none => safeResult 2 2 s
    | some (a, h) =>
      if s.critFld 20 2 0 ≠ 2 then safeResult 2 2 s
      else if !sectionsFit s (dirSections h) (dumpTable s a h) then safeResult 2 3 s
      else safeBegin 3 s) s)

/-- Bytes `lo` to `lo + n - 1` of a section that begins with page `i` touch an uncorrectable page. -/
def touchesBad (s : State) (bad : List Nat) (i lo n : Nat) : Bool :=
  bad.any fun p => decide (i + lo / nandPageBytes s ≤ p) && decide (p ≤ i + (lo + n - 1) / nandPageBytes s)

/-- A granule of an uncorrectable page: poisoned, its bytes stated by no rule. -/
def restorePoisoned (g : Nat) (s : State) : State :=
  ((putGranule g ⟨(List.range 64).map (Config.freeByte s.free), true⟩ s).useFree).count Reg.SAFE.RESTORE_POISONED 1

/-- Sections 1 to 5 go back to their usable offset. -/
def restoreRegion (bad : List Nat) (i off : Nat) (bs : List Byte) (s : State) : State :=
  (List.range ((bs.length + 63) / 64)).foldl (fun t k =>
    let part := (bs.drop (64 * k)).take 64
    if touchesBad t bad i (64 * k) part.length then restorePoisoned (off / 64 + k) t else storeBytes (off + 64 * k) part t) s

/-- The dirty granules go back with their check bytes. -/
def restoreDirty (bad : List Nat) (i : Nat) (bs : List Byte) (gs : List Nat) (s : State) : State :=
  gs.zipIdx.foldl (fun t x =>
    let u := (bs.drop (72 * x.2)).take 72
    if touchesBad t bad i (72 * x.2) 72 then restorePoisoned x.1 t
    else putCheck x.1 (BitVec.ofNat 64 (ofBytes (u.drop 64))) (t.putBytes (dramBase + 64 * x.1) (u.take 64))) s

/-- One section is restored. -/
def restoreSection (bad : List Nat) (st : List (List Byte)) (table : List Byte) (s : State) (x : Nat × Nat × Nat × Nat) : State :=
  let bs := sectionBytes st s x.1 x.2.2.2
  if x.2.1 = 7 then (if saveOffset s = 0 ∨ usableSize s < saveOffset s + bs.length then s else restoreRegion bad x.1 (saveOffset s) bs s)
  else if x.2.1 = 6 then restoreDirty bad x.1 bs ((dumpEntries table).flatMap (dtabGranules s)) s
  else restoreRegion bad x.1 x.2.2.1 bs s

/-- RESTORE_DONE (R479). -/
def execRestoreDone (badPages : List Nat) (s : State) : Host.Outcome State Fault Refusal :=
  match s.safe.running, s.safe.newest with
  | some 3, some (a, h) =>
    .next (s.when (blockAlive s Page.SAFE && dramReady s) fun s =>
      let st := streamOf s a (headerSeq h)
      let table := dumpTable s a h
      let before := s.reg Reg.SAFE.RESTORE_POISONED
      let s1 := (placeSections s 1 (dirSections h)).1.foldl (restoreSection badPages st table) s
      let n := (s1.reg Reg.SAFE.RESTORE_POISONED).toNat - before.toNat
      let pl : Payload := ⟨word (dirSections h).length, word n, 0#32⟩
      let s2 := safeEnd (s1.setCritFld 20 2 0 4)
      if n = 0 then raise Page.SAFE 4 0 0 pl s2 else lasting Page.SAFE 4 0 pl s2)
  | _, _ => .next s

/-! ### REWRITE_CUT (R475, R479) -/

/-- The job body of a rewrite: one whole sector, with the WRITE_SEQ of words 3 and 4 (R285, R475). -/
def cutBody (lo hi : Word) : List Word := [0#32, 0#32, 0#32, word (68 * 256), lo, hi, 0#32, 0xFFFF#32, 0#32, 0#32, 0#32]

/-- A slot in service of actuator `a`, that of Oar `o` before the others, and an entry of it that is free for a sector. -/
def cutPlace (s : State) (a o : Nat) : Option (Nat × Nat) :=
  ([o % 4, 0, 1, 2, 3].filter (slotAvail s a)).findSome? fun k => ((List.range 2048).find? (entryFree s a k)).map fun e => (k, e)

/-- The entry's sector waits at an Oar of its member's actuator as a one-sector job with SPARE 1, its stored payload with it, its verify
forced. It takes a
sector-job credit of class SYSTEM, and waits where none is free or where no Oar has a free entry (R11, R26; log entry 155). -/
def rewriteEntry (s : State) (i : Nat) : State :=
  let m := fld (inflightWord s i) 4 0
  let a := m / 6
  let raw := fun k => s.wordAt (dramBase + inflightOff s i + 4 * k)
  let at_ := fun k => (raw k).toNat
  if !actuatorUp s a || 24 ≤ m then s
  else
    match (if creditGrants 8192 (sectorHeld s a) (resField s Reg.SYS.RES_SECTOR_LO) 3 1 then cutPlace s a (i / 8) else none) with
    | none => modSafe (fun y => { y with waiting := y.waiting ++ [i] }) s
    | some (k, e) =>
      let x : JobEntry :=
        { state := 9, ty := 2, cause := 0, marked := false, wfCut := false, tag := 0, inJob := false, head := m % 6
          zone := zoneOfTrack a (m % 6) (at_ 1) s, track := at_ 1, sector := at_ 2, body := cutBody (raw 3) (raw 4), index := 0, mask := 255
          home := (at_ 1, at_ 2), spareTrack := at_ 1, spareSector := at_ 2, reading := 0, verify := true, crc := 0#32, verifyFails := 0
          taken := false, payload := [], stored := s.bytesAt (dramBase + inflightOff s i + 64) 4352, slot := none, credit := false, ready := 0
          landing := none
          inflight := some i }
      let id := (gate s a).nextId
      let r : Run := { id := id, words := [pktHeader 16 7 false 2 0, word (m + 256), raw 1, raw 2, 0#32] ++ x.body, port := 0, cls := 3
                       since := s.time, aged := 0, todo := [], ended := 0, lastings := 0, first := none, poisoned := false, started := true
                       quiet := true }
      setSectorHeld a 3 (sectorHeld s a 3 + 1)
        (setGateMap a k e (some (id, 0, true))
          (modGate a (fun g => { g with runs := g.runs ++ [r], nextId := id + 1 }) (setEntry (4 * a + k) e (some x) s)))

/-- SAFE_REWRITE_CUT (R479). -/
def execSafeRewriteCut (req : Requester) (v : Word) (s : State) : Host.Outcome State Fault Refusal :=
  .next (safeCommand 4 req v (fun s =>
    (inflightValid s).foldl rewriteEntry (safeBegin 4 (modSafe (fun x => { x with cutting := inflightValid s, waiting := [] }) s))) s)

/-- An Oar still holds entry `i` of the list. -/
def stillCut (s : State) (i : Nat) : Bool :=
  (List.range 16).any fun o => (oar s o).entries.any fun x => x.2.any fun y => y.inflight == some i && y.state != 10

/-- The sectors that wait for a credit or an entry try again. -/
def retryCut (s : State) : State := s.safe.waiting.foldl rewriteEntry (modSafe (fun x => { x with waiting := [] }) s)

/-- CUT_REWRITTEN (R479): once no sector waits and no Oar holds one. -/
def execCutRewritten (s : State) : Host.Outcome State Fault Refusal :=
  .next (s.when (blockAlive s Page.SAFE && s.safe.running == some 4) fun s0 =>
    let s := retryCut s0
    if !s.safe.waiting.isEmpty || s.safe.cutting.any (stillCut s) then s
    else
      let n := (s.safe.cutting.filter fun i => !bit (inflightWord s i) 31).length
      raise Page.SAFE 5 0 0 ⟨word n, 0#32, 0#32⟩ (safeEnd (modSafe (fun x => { x with cutting := [] }) s)))

end Sys2Proof.Machine
end

