-- ==== Sys2Proof/Machine/Decoder.lean ====
section
/-! DEFINITION. The layered offset min-sum decoder of a Sweep lane (R264, R266), in whole numbers of LLR LSB (log entry 167). The soft
outputs of the lane's detector are operands. -/

namespace Sys2Proof.Machine

/-- The blocks of block row `r`: column and shift, the information columns first (R262). -/
def ldpcRow (r : Nat) : List (Nat × Nat) :=
  ((List.range 68).filter (ldpcBlock r)).map (fun c => (c, ldpcShift r c)) ++ (if r = 0 then [] else [(67 + r, 0)]) ++ [(68 + r, 0)]

/-- Soft values of the 38,912 bits by block column. -/
def softColumns (xs : List Int) : List (List Int) := (List.range 76).map fun c => (xs.drop (512 * c)).take 512

/-- What the checks of a block row have seen: the two least magnitudes and whether the signs are odd. -/
structure CheckSum where
  least : Option Nat
  next : Option Nat
  odd : Bool

/-- A check with one more value. -/
def CheckSum.add (t : CheckSum) (q : Int) : CheckSum :=
  let m := q.natAbs
  let odd := t.odd != decide (q < 0)
  match t.least with
  | none => ⟨some m, none, odd⟩
  | some a => if m < a then ⟨some m, some a, odd⟩ else ⟨some a, some (min m (t.next.getD m)), odd⟩

/-- The message of a check to the bit that gave it `q`: the least magnitude of the others less the offset, under their sign. -/
def CheckSum.message (off : Nat) (t : CheckSum) (q : Int) : Int :=
  let other := (if t.least = some q.natAbs then t.next else t.least).getD 0
  if t.odd != decide (q < 0) then -((other - off : Nat) : Int) else (other - off : Nat)

/-- One layer: the checks of block row `r` take the soft values less their own last messages, and give new ones. -/
def decodeLayer (off r : Nat) (x : List (List Int) × List (List (List Int))) : List (List Int) × List (List (List Int)) :=
  let blocks := ldpcRow r
  let old := x.2.getD r []
  let qs := blocks.zipIdx.map fun b =>
    let l := (x.1.getD b.1.1 []).rotateLeft b.1.2
    match old[b.2]? with
    | some m => List.zipWith (· - ·) l m
    | none => l
  let sums := qs.foldl (fun ts q => List.zipWith CheckSum.add ts q) (List.replicate 512 ⟨none, none, false⟩)
  let ms := qs.map fun q => List.zipWith (CheckSum.message off) sums q
  ((blocks.zip (qs.zip ms)).foldl (fun l e => l.set e.1.1 ((List.zipWith (· + ·) e.2.1 e.2.2).rotateRight e.1.2)) x.1, x.2.set r ms)

/-- One iteration: the detector's soft values with the decoder's extrinsic values of the one before, then block rows 0 to 7 in order. -/
def decodeIteration (off : Nat) (d : Decoder) (soft : List Int) : Decoder × List (List Int) :=
  let given := softColumns soft
  let start := if d.extrinsic.isEmpty then given else List.zipWith (List.zipWith (· + ·)) given d.extrinsic
  let msgs := if d.messages.isEmpty then List.replicate 8 [] else d.messages
  let r := (List.range 8).foldl (fun x i => decodeLayer off i x) (start, msgs)
  (⟨r.2, List.zipWith (List.zipWith (· - ·)) r.1 given⟩, r.1)

/-- The hard decisions of a block column: 1 where the soft value is below 0. -/
def hardWord (xs : List Int) : BitVec 512 :=
  BitVec.ofNat 512 (xs.foldl (fun (n : Nat) x => 2 * n + (if x < 0 then 1 else 0)) 0 * 2 ^ (512 - xs.length))

/-- The hard decisions as bytes. -/
def hardBytes (cols : List (List Int)) : List Byte := (cols.map hardWord).flatMap ldpcBytes

/-- How a pass or slice leaves its lane: the decoder's state, the hard decisions and whether their syndrome is zero. -/
structure LaneResult where
  decoder : Decoder
  bits : List Byte
  converged : Bool

/-- A pass or slice of at most `budget` iterations on the detector's soft outputs: it ends at a zero syndrome or with the budget spent; none
where the outputs are too few or too many for that (R266). -/
def laneRun (off : Nat) : Nat → List (List Int) → Decoder → Option LaneResult
  | 0, _, _ => none
  | _, [], _ => none
  | n + 1, x :: xs, d =>
    let (d1, cols) := decodeIteration off d x
    let bits := hardBytes cols
    if syndromeZero bits then (if xs.isEmpty then some ⟨d1, bits, true⟩ else none)
    else if n = 0 then (if xs.isEmpty then some ⟨d1, bits, false⟩ else none)
    else laneRun off n xs d1

/-- Bytes with the bits of a pattern inverted. -/
def invertBits (bits flips : List Byte) : List Byte := bits.zipIdx.map fun b => b.1 ^^^ flips.getD b.2 0

end Sys2Proof.Machine
end

