-- ==== Sys2Proof/Machine/Sweep.lean ====
section
/-! DEFINITION. The commands of Sweep (R266 to R282). -/

namespace Sys2Proof.Machine

def sweepAlive (s : State) : Bool := blockAlive s Page.SWEEP

/-! ### Choosing work for a lane (R271) -/

/-- Slots that wait for a first pass, and slices that wait; a slot whose result a lane check rejected goes to another lane (R267). -/
def passWaits (s : State) (l : Nat) : List (Nat × DecSlot) := (usedDec s).filter fun e => e.2.state == 2 && e.2.badLane != some l
def sliceWaits (s : State) (l : Nat) : List (Nat × DecSlot) := (usedDec s).filter fun e => e.2.state == 4 && e.2.badLane != some l

/-- The one that has waited longest; of equals the lower slot. -/
def oldest : List (Nat × DecSlot) → Option (Nat × DecSlot)
  | [] => none
  | x :: xs =>
    match oldest xs with
    | none => some x
    | some y => if x.2.since ≤ y.2.since then some x else some y

/-- Lanes that run slices (QUEUE_STATE.RECOV_RUNNING). -/
def slicesRunning (s : State) : Nat := (s.sweep.lanes.filter fun e => e.2.any Lane.slice).length

/-- The next work of lane `l`: an aged slice, the earliest first pass, a slice of the stream after the one last served. -/
def nextWork (s : State) (l : Nat) : Option (Nat × DecSlot) :=
  let passes := passWaits s l
  let room := !((usedDec s).any fun e => e.2.state == 2) || decide (slicesRunning s < s.fld Reg.SWEEP.SCHED_CFG 3 0)
  let slices := if room then sliceWaits s l else []
  let aged := slices.filter fun e => decide (e.2.since + s.fld Reg.SWEEP.SCHED_CFG 31 16 * 1000 ≤ s.time)
  match oldest aged, oldest passes with
  | some x, _ => some x
  | none, some x => some x
  | none, none =>
    match (List.range 16).find? fun i => slices.any fun e => e.2.oar == (s.sweep.lastStream + 1 + i) % 16 with
    | some i => oldest (slices.filter fun e => e.2.oar == (s.sweep.lastStream + 1 + i) % 16)
    | none => none

/-- The lane is in service and free. -/
def laneFree (s : State) (l : Nat) : Bool := decide (l < 12) && s.bit Reg.SWEEP.LANE_EN l && (decLane s l).isNone

/-- Iterations that work on the slot may take: a slice up to EXTRA_ITER, a verify MAX_ITER, a first pass FIRST_ITER. -/
def passBudget (s : State) (x : DecSlot) : Nat :=
  if x.state = 4 then min (s.fld Reg.SWEEP.ITER_CFG 20 16) (s.fld Reg.SWEEP.ITER_CFG 15 8 - x.iters)
  else if x.kind = 2 then s.fld (Reg.OAR.VERIFY_CFG x.oar) 11 8
  else s.fld Reg.SWEEP.ITER_CFG 4 0

/-- A parity error as the slot loads: its read is discarded (R270). -/
def slotParity (n : Nat) (x : DecSlot) (s : State) : State :=
  let s1 := raise Page.SWEEP 5 0 0 (decPayload x) (s.count Reg.SWEEP.SLOT_PARITY_COUNT 1)
  if x.kind = 1 then (modEntry x.oar x.entry (fun y => { y with state := 5 }) (freeDec n s1)).count (Reg.OAR.REREAD_COUNT x.oar) 1
  else if x.kind = 2 then verifyEnd x.oar x.entry false (freeDec n s1)
  else if x.kind = 0 then enterLadder n 2 false s1
  else readFailed n false s1

/-- Work that a slot may no longer take: EXTRA_ITER now leaves it no iteration, and its read has failed (R274, R281). -/
def sliceSpent (s : State) (x : DecSlot) : Bool := x.state == 4 && passBudget s x == 0

/-- Min-sum offsets of the first pass and of later iterations (R264). -/
def minSum (s : State) : Nat × Nat := (s.fld Reg.SWEEP.MS_CFG 3 0, s.fld Reg.SWEEP.MS_CFG 7 4)

/-- LANE_DISPATCH (R270, R271): the lowest-numbered free lane that has work takes it. -/
def execLaneDispatch (lane : Nat) (parityBad : Bool) (s : State) : Host.Outcome State Fault Refusal :=
  .next (s.when (sweepAlive s && laneFree s lane) fun s =>
    let s1 := if (nextWork s lane).isNone then readsArrive s else s
    if (List.range lane).any fun l => laneFree s1 l && (nextWork s1 l).isSome then s1
    else
      match nextWork s1 lane with
      | none => s1
      | some (n, x) =>
        if sliceSpent s1 x then readFailed n (decide (x.rung ≤ 2)) s1
        else if parityBad then slotParity n x s1
        else
          let slice := x.state == 4
          let s2 := modSweep (fun w => { w with saved := SMap.set (fun _ => none) w.saved n (some x)
                                                lastStream := if slice then x.oar else w.lastStream }) s1
          setLane lane (some ⟨n, slice, passBudget s x, slotInput x, targetTaps x.target, minSum s⟩) (modDec n (fun y => { y with state := 3 }) s2))

/-! ### The end of a pass or slice (R266, R267) -/

/-- The lane was busy for `ns` (LANE_BUSY counts microseconds). -/
def laneBusy (l ns : Nat) (s : State) : State :=
  let t := SMap.get (fun _ => 0) s.sweep.busyNs l + ns
  (modSweep (fun w => { w with busyNs := SMap.set (fun _ => 0) w.busyNs l (t % 1000) }) s).count (Reg.SWEEP.LANE_BUSY l) (t / 1000)

/-- A result that the checker rejects: once more on another lane, or LANE_CHECK lasting and machine check (R267). -/
def laneRejected (l n : Nat) (s : State) : State :=
  let s1 := s.count Reg.SWEEP.LANE_CHECK_COUNT 1
  match SMap.get (fun _ => none) s.sweep.saved n with
  | none => s1
  | some x =>
    match x.badLane with
    | none => setDec n (some { x with badLane := some l }) s1
    | some b => machineCheck Page.SWEEP (sourceOf Page.SWEEP 3) b (lasting Page.SWEEP 3 b {} s1)

/-- A first pass of a slot counts when DECODED (R282). -/
def countFirst (iters : Nat) (out : PassEnd) (s : State) : State :=
  match out with
  | .decoded _ => (s.count Reg.SWEEP.FIRST_OK 1).count (Reg.SWEEP.ITER_HIST (min 15 (iters - 1))) 1
  | _ => s

/-- A pass or slice of lane `l` ends. -/
def endPass (l : Nat) (slice : Bool) (r : DecodeEnd) (s : State) : State :=
  match decLane s l with
  | none => s
  | some x =>
    let from_ := if slice then ((decSlot s x.slot).map DecSlot.decoder).getD Decoder.fresh else Decoder.fresh
    match (if x.slice = slice then laneRun (if slice then x.offsets.2 else x.offsets.1) x.budget r.soft from_ else none) with
    | none => s
    | some out =>
      let iters := r.soft.length
      let bits := invertBits out.bits r.flips
      let s1 := laneBusy l ((if slice then 128 else 256) + 768 * iters) (setLane l none s)
      if out.converged && !syndromeZero bits then laneRejected l x.slot s1
      else
        match decSlot s1 x.slot with
        | none => s1
        | some d =>
          let s2 := match d.badLane with
            | some b => transient Page.SWEEP 3 b {} s1
            | none => s1
          let s3 := modDec x.slot (fun y => { y with badLane := none, iters := if slice then y.iters + iters else 0, decoder := out.decoder }) s2
          let s4 := if slice then s3 else countFirst iters (passEnd out.converged bits) s3
          askWrite d.oar (actOnPass x.slot (passEnd out.converged bits) s4)

/-- DECODE_END (R266, R267, R273, R274): a first pass ends. -/
def execDecodeEnd (lane : Nat) (r : DecodeEnd) (s : State) : Host.Outcome State Fault Refusal :=
  .next (s.when (sweepAlive s) (endPass lane false r))

/-- SLICE_END (R271, R274): a slice ends. -/
def execSliceEnd (lane : Nat) (r : DecodeEnd) (s : State) : Host.Outcome State Fault Refusal :=
  .next (s.when (sweepAlive s) (endPass lane true r))

/-- Weights of the two readers' filter outputs in the four inputs of rung 4, in quarters (R277). -/
def rungWeights (i : Nat) : Int × Int := [((4 : Int), (0 : Int)), (0, 4), (3, 1), (1, 3)].getD i (0, 0)

/-- The raw samples held of an entry. -/
def heldRaw (s : State) (o e : Nat) : List RawSample := (((oar s o).raws.find? (·.1 == e)).map Prod.snd).getD []

/-- REEQUALISE (R277): the four inputs enter the slot in their order. -/
def execReequalise (slot input : Nat) (s : State) : Host.Outcome State Fault Refusal :=
  .next (s.when (sweepAlive s) fun s =>
    match decSlot s slot with
    | none => s
    | some x =>
      match entry s x.oar x.entry with
      | none => s
      | some e =>
        s.when (x.kind == 3 && x.rung == 4 && x.state == 1 && decide (x.requal < 4) && input == x.requal
            && (Machine.oar s x.oar).rawHeld == some x.entry && (Machine.oar s x.oar).passage != some (x.entry, false))
          (modDec slot fun y =>
            let w := rungWeights y.requal
            { y with state := 2, since := s.time, requal := y.requal + 1
                     cur := reequalised s x.oar e w.1 w.2 (heldRaw s x.oar x.entry) }))

/-- A RECOVER job that waits in the Oar's queue for the ladder's read is withdrawn (R278). -/
def withdrawRecover (x : DecSlot) (s : State) : State :=
  let a := oarAct x.oar
  let k := oarSlot x.oar
  match (waitingJobs s a k).find? fun j => jobType (asJob j.words) == 6 && (jobEntries (asJob j.words)).contains x.entry with
  | some j => withdrawJob a k j s
  | none => s

/-- LADDER_TIMEOUT (R278): no further read or slice starts; with none in progress the ladder ends with code 6. -/
def execLadderTimeout (slot : Nat) (s : State) : Host.Outcome State Fault Refusal :=
  .next (s.when (sweepAlive s) fun s =>
    match decSlot s slot with
    | none => s
    | some x =>
      s.when (x.kind == 3 && !x.expired && decide (x.start + s.fld Reg.SWEEP.RECOV_LIMIT 15 0 * 1000000 ≤ s.time)) fun s =>
        let s1 := modDec slot (fun y => { y with expired := true }) s
        let working := x.state == 2 || x.state == 3 || (Machine.oar s x.oar).passage == some (x.entry, false)
        if working then s1 else unreadable slot 6 (withdrawRecover x s1))

/-- LANE_EN_WRITE (R281, R282): a write of 0 is ignored; a busy lane completes its work. -/
def execLaneEnWrite (req : Requester) (v : Word) (s : State) : Host.Outcome State Fault Refusal :=
  .next (withWrite req Reg.SWEEP.LANE_EN v (fun s =>
    if fld v 11 0 = 0 then s else s.setFld Reg.SWEEP.LANE_EN 11 0 (fld v 11 0)) s)

end Sys2Proof.Machine
end

