-- ==== Sys2Proof/Machine/TaskMgmt.lean ====
section
/-! DEFINITION. Task management functions, the progress check and the credit reservations (R411, R412, R446, R449). -/

namespace Sys2Proof.Machine

/-- The response code of a task management function, and what it does. -/
def tmFrame (lane n code : Nat) (f : TaskMgmtFrame) (needsLu : Bool) (act : State → Nat × State) (s : State) : State :=
  s.when (laneServes s lane n) fun s =>
    let r :=
      if (taskOf s n f.tag).isSome then (0x0A, s)
      else if needsLu && !luEnabled s f.lun then (0x09, s)
      else act s
    let s1 := replyFrame lane n f.tag true r.1 [] r.2
    hostDrain (raise Page.SLIPC 2 0 code ⟨word n, word f.tag, word r.1⟩ s1)

/-- Tasks that a function may end or find: held and not committed. -/
def liveTasks (s : State) : List HostTask := (heldTasks s).filter fun t => !t.committed && !t.aborted

/-- End every live task that `p` selects. -/
def endTasks (p : HostTask → Bool) (s : State) : State := ((liveTasks s).filter p).foldl (fun v t => endTask t.id v) s

/-- ABORT_TASK (R411). -/
def execAbortTask (lane n : Nat) (f : TaskMgmtFrame) (s : State) : Host.Outcome State Fault Refusal :=
  .next (tmFrame lane n 0x01 f true (fun v => (0, endTasks (fun t => t.nexus == n && t.lun == f.lun && t.tag == f.managed) v)) s)

/-- ABORT_TASK_SET (R411). -/
def execAbortTaskSet (lane n : Nat) (f : TaskMgmtFrame) (s : State) : Host.Outcome State Fault Refusal :=
  .next (tmFrame lane n 0x02 f true (fun v => (0, endTasks (fun t => t.nexus == n && t.lun == f.lun) v)) s)

/-- CLEAR_TASK_SET (R403, R411): unit attention for the other nexuses that lost tasks. -/
def execClearTaskSet (lane n : Nat) (f : TaskMgmtFrame) (s : State) : Host.Outcome State Fault Refusal :=
  .next (tmFrame lane n 0x04 f true (fun v =>
    let hurt := (((liveTasks v).filter fun t => t.lun == f.lun && t.nexus != n).map HostTask.nexus).eraseDups
    (0, hurt.foldl (fun u k => setUa k f.lun true u) (endTasks (fun t => t.lun == f.lun) v))) s)

/-- LOGICAL_UNIT_RESET (R403, R411). -/
def execLogicalUnitReset (lane n : Nat) (f : TaskMgmtFrame) (s : State) : Host.Outcome State Fault Refusal :=
  .next (tmFrame lane n 0x08 f true (fun v =>
    let ns := (List.range 64).filter fun k => (nexus v k).isSome
    (0, ns.foldl (fun u k => setUa k f.lun true u) (endTasks (fun t => t.lun == f.lun) v))) s)

/-- I_T_NEXUS_RESET (R403, R411): it names no logical unit. -/
def execITNexusReset (lane n : Nat) (f : TaskMgmtFrame) (s : State) : Host.Outcome State Fault Refusal :=
  .next (tmFrame lane n 0x10 f false (fun v =>
    (0, (List.range 64).foldl (fun u l => setUa n l true u) (endTasks (fun t => t.nexus == n) v))) s)

/-- QUERY_TASK (R411). -/
def execQueryTask (lane n : Nat) (f : TaskMgmtFrame) (s : State) : Host.Outcome State Fault Refusal :=
  .next (tmFrame lane n 0x80 f true (fun v =>
    (if (liveTasks v).any fun t => t.nexus == n && t.lun == f.lun && t.tag == f.managed then 8 else 0, v)) s)

/-- QUERY_TASK_SET (R411). -/
def execQueryTaskSet (lane n : Nat) (f : TaskMgmtFrame) (s : State) : Host.Outcome State Fault Refusal :=
  .next (tmFrame lane n 0x81 f true (fun v => (if (liveTasks v).any fun t => t.nexus == n && t.lun == f.lun then 8 else 0, v)) s)

/-- QUERY_ASYNCHRONOUS_EVENT (R411). -/
def execQueryAsynchronousEvent (lane n : Nat) (f : TaskMgmtFrame) (s : State) : Host.Outcome State Fault Refusal :=
  .next (tmFrame lane n 0x82 f true (fun v => (if uaBit v n f.lun then 8 else 0, v)) s)

/-- TM_FUNCTION_NOT_SUPPORTED (R411). -/
def execTmFunctionNotSupported (lane n code : Nat) (f : TaskMgmtFrame) (s : State) : Host.Outcome State Fault Refusal :=
  .next (s.when (!([0x01, 0x02, 0x04, 0x08, 0x10, 0x80, 0x81, 0x82].contains code)) (tmFrame lane n code f false (fun v => (4, v))))

/-! ### Progress (R449) -/

/-- PROGRESS_LIMIT as applied, ns. -/
def progressLimit (s : State) : Nat := clampNat 1 600 (s.critFld 25 9 0) * 1000000000

/-- A task beyond the limit: reported once, and a fast-path task ended with one RESPONSE when ACTION is 1. -/
def progressOne (s : State) (t : HostTask) : State :=
  let pl : Payload := ⟨word (t.index + t.nexus * 65536), word t.tag, loWord t.accepted⟩
  let s1 := lasting Page.SYS 7 0 pl ((modTask t.id (fun x => { x with reported := true }) s).count Reg.SYS.PROGRESS_COUNT 1)
  if t.stage = 2 ∨ !s.bit Reg.SYS.PROGRESS_CFG 0 ∨ t.aborted ∨ t.answer.isSome then s1
  else giveAnswer t.id (checkCondition s1 t.lun 4 0x44 0 none) (stopTask t s1)

/-- PROGRESS_CHECK (R449). -/
def execProgressCheck (s : State) : Host.Outcome State Fault Refusal :=
  .next (s.when (slipAlive s) fun s =>
    let s1 := hostDrain s
    hostDrain (((heldTasks s1).filter fun t => !t.committed && !t.reported && decide (t.accepted + progressLimit s1 ≤ s1.time)).foldl progressOne s1))

/-! ### Reservations (R446) -/

/-- Half the ceiling of the kind whose reservations stand in register `i` of RES_*. -/
def resHalf (i : Nat) : Nat := if i < 2 then 1024 else if i < 4 then 4096 else 512

/-- RESERVE_WRITE (R446): a write of register `i` (0 RES_STRIPE_LO to 5 RES_XACT_HI). -/
def execReserveWrite (req : Requester) (i : Nat) (v : Word) (s : State) : Host.Outcome State Fault Refusal :=
  let k := Reg.SYS.RES_STRIPE_LO + 4 * i
  .next (s.when (decide (i < 6)) (withWrite req k v fun s =>
    let other := s.reg (Reg.SYS.RES_STRIPE_LO + 4 * (i / 2 * 2 + (1 - i % 2)))
    let sum := fld v 15 0 + fld v 31 16 + fld other 15 0 + fld other 31 16
    if resHalf i < sum then raise Page.SYS 8 5 0 ⟨word (k % 0x1000), v, 0#32⟩ s
    else s.setReg k v))

end Sys2Proof.Machine
end

