-- ==== Sys2Proof/Machine/Tune.lean ====
section
/-! DEFINITION. The meanings of the commands of the tuning blocks (R209 to R223). -/

namespace Sys2Proof.Machine

/-- A page that holds a tuning block. -/
def isTunePage (p : Nat) : Bool := p == Page.KEEL || (decide (0x020 ≤ p) && decide (p ≤ 0x023))

/-- The claim-table resource of the block (R209). -/
def tuneResource (p : Nat) : Nat := if p = Page.KEEL then 6 else 2 + (p - 0x020)

def injPoint (s : State) (p : Nat) : Nat := s.fld (Reg.TUNE.INJ_CFG p) 2 0
def injWave (s : State) (p : Nat) : Nat := s.fld (Reg.TUNE.INJ_CFG p) 9 8
def injPoints (s : State) (p : Nat) : Nat := s.fld (Reg.TUNE.INJ_POINTS p) 8 0

/-- The amplitudes the programme holds. -/
def injAmps (s : State) (p : Nat) : List Nat :=
  if injWave s p = 0 then (List.range (min 256 (injPoints s p))).map fun n => fld (sineWord s p n 1) 15 0
  else [s.fld (Reg.TUNE.INJ_AMP p) 15 0]

/-- The frequencies the programme holds, in 1/16 Hz. -/
def injFreqs (s : State) (p : Nat) : List Nat :=
  if injWave s p = 0 then (List.range (min 256 (injPoints s p))).map fun n => (sineWord s p n 0).toNat
  else if injWave s p = 1 then [s.fld (Reg.TUNE.INJ_F0 p) 23 0, s.fld (Reg.TUNE.INJ_F1 p) 23 0]
  else []

/-- A frequency lies from 1 Hz to one eighth of the point's update rate. -/
def freqOk (s : State) (p f : Nat) : Bool := decide (16 ≤ f) && decide (f * (injRate s p).2 ≤ 2 * (injRate s p).1)

/-- The first condition of R220 that fails, lowest code first; 0 when all hold. -/
def injRefusal (s : State) (p : Nat) : Nat :=
  let a := p - 0x020
  let rud := p != Page.KEEL
  let state := s.fld (Reg.STATUS p) 11 8
  if state ≠ 3 ∨ (!rud && s.critFld 6 1 0 != 0) then 1
  else if rud && decide (3 ≤ injPoint s p) && decide (injPoint s p ≤ 5)
      && !(SMap.get (fun _ => RudSlot.empty) (SMap.get (fun _ => Rudder.reset) s.rudders a).slots (s.fld (Reg.TUNE.INJ_CFG p) 5 4)).used then 2
  else if rud && (List.range 4).any (fun k =>
      let x := SMap.get (fun _ => RudSlot.empty) (SMap.get (fun _ => Rudder.reset) s.rudders a).slots k
      x.used && x.write) then 3
  else if (injAmps s p).any (fun x => decide (s.fld (Reg.TUNE.AMP_LIMIT p) 15 0 < x)) then 4
  else if !(injFreqs s p).all (freqOk s p) then 5
  else if injPoint s p = 0 ∨ (if rud then 5 else 3) < injPoint s p ∨ injWave s p = 3
      ∨ (injWave s p = 0 ∧ (injPoints s p = 0 ∨ 256 < injPoints s p ∨ s.fld (Reg.TUNE.TR_FMT p) 1 0 = 3)) then 6
  else 0

/-- A run starts: counters at zero, the noise sequence at its seed (R216, R220, R221). -/
def tuneStart (p : Nat) (s : State) : State :=
  modTune p (fun t => { Tune.reset with buf := t.buf, start := s.time })
    (((setTrState p 1 0 s).setFld (Reg.TUNE.TR_STATUS p) 16 8 0).setReg (Reg.TUNE.INJ_PROGRESS p) 0#32)

/-- GO (R216, R220); ignored in a run (R223) and with MODE 0. -/
def tuneGo (p : Nat) (s : State) : State :=
  if trBusy s p ∨ trMode s p = 0 then s
  else if trMode s p = 1 then tuneStart p s
  else
    match injRefusal s p with
    | 0 => tuneStart p (s.setReg (Reg.TUNE.TRIP_INFO p) 0#32)
    | c => setTrState p 5 c s

/-- STOP (R216, R223): a guard that fails in the update after it has the last word on an injection. -/
def tuneStop (p : Nat) (s : State) : State :=
  if trBusy s p then modTune p (fun t => { t with injected := 0, trigger := none, stopped := trMode s p == 2 }) (setTrState p 6 0 s) else s

/-- MODE (R209): taken outside a run, from a writer who holds the resource for that function; 3 stores 0. -/
def tuneMode (req : Requester) (p m : Nat) (s : State) : State :=
  if trBusy s p then s
  else
    let s0 := s.setFld (Reg.TUNE.TR_CTRL p) 1 0 0
    if m = 0 ∨ m = 3 then s0
    else if holds req (tuneResource p) m s then s.setFld (Reg.TUNE.TR_CTRL p) 1 0 m
    else notHeld (tuneResource p) m req s0

/-- A write of TR_CTRL: MODE, then GO, STOP and FORCE. -/
def trCtrlEffect (req : Requester) (p : Nat) (v : Word) (s : State) : State :=
  let s1 := tuneMode req p (fld v 1 0) s
  let s2 := if bit v 8 then tuneGo p s1 else s1
  let s3 := if bit v 9 then tuneStop p s2 else s2
  if bit v 10 then trTrigger p 0 true s3 else s3

/-- A write of TR_CTRL of a tuning block that satisfies `c`. -/
def trCtrlWrite (c : Bool) (req : Requester) (p : Nat) (v : Word) (s : State) : State :=
  s.when (isTunePage p && c) (withWrite req (Reg.TUNE.TR_CTRL p) v (trCtrlEffect req p v))

/-- TUNE_MODE (R209). -/
def execTuneMode (req : Requester) (page : Nat) (v : Word) (s : State) : Host.Outcome State Fault Refusal :=
  .next (trCtrlWrite (!bit v 8 && !bit v 9 && !bit v 10) req page v s)

/-- TUNE_GO (R216, R220). -/
def execTuneGo (req : Requester) (page : Nat) (v : Word) (s : State) : Host.Outcome State Fault Refusal :=
  .next (trCtrlWrite (bit v 8) req page v s)

/-- TUNE_STOP (R216). -/
def execTuneStop (req : Requester) (page : Nat) (v : Word) (s : State) : Host.Outcome State Fault Refusal :=
  .next (trCtrlWrite (bit v 9) req page v s)

/-- TUNE_FORCE (R215). -/
def execTuneForce (req : Requester) (page : Nat) (v : Word) (s : State) : Host.Outcome State Fault Refusal :=
  .next (trCtrlWrite (bit v 10) req page v s)

/-- TRACE_DONE (R216): the records counted from the trigger record are complete. -/
def execTraceDone (page : Nat) (s : State) : Host.Outcome State Fault Refusal :=
  .next (s.when (isTunePage page && blockAlive s page && trMode s page == 1 && trState s page == 2 && (tune s page).left == 0)
    (setTrState page 3 0))

/-- An injection runs. -/
def injecting (s : State) (p : Nat) : Bool :=
  isTunePage p && blockAlive s p && trMode s p == 2 && trState s p == 1

/-- SINE_POINT_END (R221): the MEAS cycles are over; sums and N are stored, and the next point begins or the run is DONE. -/
def execSinePointEnd (page point : Nat) (s : State) : Host.Outcome State Fault Refusal :=
  .next (s.when (injecting s page && point == sinePoint s page && sineOver s page) fun s =>
    let s1 := storePoint page s
    if injPoints s page ≤ point + 1 then modTune page (fun t => { t with injected := 0 }) (setTrState page 3 0 s1)
    else s1.setFld (Reg.TUNE.TR_STATUS page) 16 8 (point + 1))

/-- INJECTION_END (R221): INJ_TIME has passed, or the buffer is full. -/
def execInjectionEnd (page : Nat) (s : State) : Host.Outcome State Fault Refusal :=
  let t := tune s page
  .next (s.when (injecting s page && injWave s page != 0
      && (decide (t.start + s.fld (Reg.TUNE.INJ_TIME page) 15 0 * 1000000 ≤ s.time) || decide (trDepth s page ≤ t.records))) fun s =>
    modTune page (fun t => { t with injected := 0 }) (setTrState page 3 0 s))

end Sys2Proof.Machine
end

