-- ==== Sys2Proof/Machine/WriteMap.lean ====
section
/-! DEFINITION. What a write of any register does once the bus has passed it: the effect of the row that names the register, or its
access code (R45), with the pairs of R39. -/

namespace Sys2Proof.Machine

/-- The state a meaning goes on in; a meaning that stops leaves the state. -/
def nextOf (s : State) : Host.Outcome State Fault Refusal → State
  | .next t => t
  | _ => s

/-- The effects of the commands that one write may be; the guards of each leave the state where the write is not that command. -/
def runAll (fs : List (State → Host.Outcome State Fault Refusal)) (s : State) : State := fs.foldl (fun t f => nextOf t (f t)) s

/-- A write takes effect under the access code of its register. -/
def writableReg (p off : Nat) : Bool := (regRow p off).any fun r => r.access == .rw || r.access == .rwl

/-- Both words of a 64-bit quantity: the write of the high word stores the low word written last by the same requester (R39). -/
def plainWrite (req : Requester) (k : Nat) (v : Word) (s : State) : State :=
  if writableReg (k / 0x1000) (k % 0x1000) && isLowWord k then keepLow req (k + 4) v s
  else if writableReg (k / 0x1000) (k % 0x1000) && isHighWord k then
    let lo := lowWritten req k s
    storeWrite k v (storeWrite (k - 4) lo.1 lo.2)
  else storeWrite k v s

/-! ### Critical words (R84, R125, R470) -/

/-- Words that the hardware alone writes: MODE, RESET_REASON, ACTIVE, DUMP_STATE and MEDIA_PTR (R55, R455, R470, R518). -/
def hardwareWord (n : Nat) : Bool := n == 0 || n == 2 || n == 19 || n == 20 || n == 27

/-- A write of critical word `n` through the view at key `k`. -/
def critEffect (req : Requester) (n k : Nat) (v : Word) (s : State) : State :=
  let a := keyAddr k
  if hardwareWord n then s
  else if n = 1 then nextOf s (execModeTargetWrite req a v s)
  else if n = 3 then nextOf s (execActuatorRetire req a v s)
  else if n = 4 then nextOf s (execMemberFailWrite req a v s)
  else if n = 5 then nextOf s (execSpdTargetWrite req a v s)
  else if n = 6 then spdSrcEffect req v s
  else if n = 7 ∨ n = 8 ∨ n = 9 then nextOf s (execThreshWrite req a v s)
  else if n = 17 ∨ n = 18 then wbReview (showHealth (s.critPut n v))
  else if n = 21 then nextOf s (execDirtyLimitWrite req a v s)
  else if n = 22 then nextOf s (execWbRequestWrite req a v s)
  else s.critPut n v

/-! ### The pages -/

/-- DRAIN (R24): the core's later accesses stall while a write it issued, to a page or to memory, waits for its acknowledgement. -/
def fenceEffect (core : Requester) (v : Word) (s : State) : State :=
  if bit v 0 && !s.bus.stalled.contains core && s.bus.held.any (unacked core) then
    { s with bus := { s.bus with stalled := s.bus.stalled ++ [core] } }
  else s

/-- Header registers (R44, R47, R61). -/
def headerWrite (p off : Nat) (v : Word) (s : State) : State :=
  if off = 0x008 then (if bit v 1 then softResetEffect p v s else ctrlEffect p v s)
  else if off = 0x01C then evForceEffect p v s
  else if off = 0x024 then lockEffect p v s
  else storeWrite (regKey p off) v s

/-- A queue's registers; a write of the window goes to the requester's own (R103, R104). -/
def queueWrite (req : Requester) (q : QueueId) (r k : Nat) (v : Word) (bad : Bool) (s : State) : State :=
  if r = 0 then refuseHeld q (storeWrite k v s)
  else if r = 0x0C then flushEffect q v s
  else if r = 0x24 then qPortEffect req q v bad s
  else if 0x40 ≤ r ∧ r < 0x80 then
    modHq q (fun x => { x with windows := SMap.set (fun _ => 0#32) x.windows (16 * Requester.code req + (r - 0x40) / 4) v }) s
  else storeWrite k v s

/-- SUPPLY_CFG and SUPPLY_CFG2: a warning below the failure threshold and its margin stores that value (R465). -/
def supplyWrite (k margin : Nat) (v : Word) (s : State) : State :=
  let s1 := storeWrite k v s
  let low := s1.fld k 15 0 + margin
  if s1.fld k 31 16 < low then s1.setFld k 31 16 low else s1

/-- HARD_ENV: a value below its SOFT_ENV counterpart stores that counterpart. -/
def hardEnvWrite (v : Word) (s : State) : State :=
  let k := Reg.CAL.HARD_ENV
  let s1 := storeWrite k v s
  let s2 := if s1.fld k 7 0 < s1.fld Reg.CAL.SOFT_ENV 7 0 then s1.setFld k 7 0 (s1.fld Reg.CAL.SOFT_ENV 7 0) else s1
  if s2.fld k 31 16 < s2.fld Reg.CAL.SOFT_ENV 31 16 then s2.setFld k 31 16 (s2.fld Reg.CAL.SOFT_ENV 31 16) else s2

/-- SER_CFG: the lowest DIV that respects MAXCLK (R157). -/
def serCfgWrite (a : Nat) (v : Word) (s : State) : State :=
  let s1 := storeWrite (Reg.PRE.SER_CFG a) v s
  let m := s1.fld (Reg.PRE.CAP a 4) 15 0
  if m = 0 then s1 else s1.setFld (Reg.PRE.SER_CFG a) 6 0 (max (s1.fld (Reg.PRE.SER_CFG a) 6 0) ((400 + m - 1) / m))

/-- CPL_CFG: every Rudder that runs latches it (R193). -/
def coupleWrite (v : Word) (s : State) : State :=
  let s1 := storeWrite Reg.COUPLE.CPL_CFG v s
  (List.range 4).foldl (fun t a =>
    if pageOn t (Page.RUDDER a) then modRud a (fun r => { r with coupleCfg := s1.reg Reg.COUPLE.CPL_CFG }) t else t) s1

/-- UC_ADDR, UC_ID and the match registers are held by kind; once it is committed a kind refuses data and match writes, and its UC_ID is
read-only (R308, R311). -/
def ucodeWrite (req : Requester) (off k : Nat) (v : Word) (s : State) : State :=
  let kind := ucKind s
  if off = 0x054 then nextOf s (execUcodeWordWrite req v s)
  else if off = 0x058 then nextOf s (execUcodeCommit req v s)
  else if off = 0x044 ∨ off = 0x060 ∨ (0x048 ≤ off ∧ off < 0x058) ∨ (0x080 ≤ off ∧ off < 0x0C0) then
    if off = 0x044 then modUcode (fun u => { u with addrs := SMap.set (fun _ => 0) u.addrs kind (min 511 v.toNat) }) s
    else if off = 0x060 then
      if ucCommitted s kind then s else modUcode (fun u => { u with ids := SMap.set (fun _ => 0#32) u.ids kind v }) s
    else if ucCommitted s kind then ucRefuse s
    else if off < 0x058 then storeWrite k v s
    else modUcode (fun u => { u with matchRegs := SMap.set (fun _ => 0#32) u.matchRegs (16 * kind + (off - 0x080) / 4) (v &&& 0x81FF3FFF#32) }) s
  else storeWrite k v s

/-- The tuning block's registers: TR_CTRL and, while MODE is 2 and STATE not RUNNING, the buffer window (R209, R217). -/
def tuneWrite (req : Requester) (p off : Nat) (v : Word) (s : State) : State :=
  if off = 0x100 then trCtrlEffect req p v s
  else if 0x1C0 ≤ off ∧ off < 0x200 then
    if trMode s p = 2 ∧ trState s p ≠ 1 then trPut p (64 * s.fld (Reg.TUNE.TR_WIN_SEL p) 8 0 + (off - 0x1C0)) (toBytes 4 v.toNat) s else s
  else storeWrite (regKey p off) v s

/-- An Oar's registers: the tables belong to the actuator's first Oar (R252, R297), and clearing ADAPT_EN resets the taps (R233). -/
def oarWrite (req : Requester) (o off : Nat) (v : Word) (s : State) : State :=
  let k := regKey (Page.OAR o) off
  if off = 0x400 then
    let s1 := storeWrite k v s
    if bit v 2 then s1 else modOar o (fun r => { r with taps := [] }) s1
  else if off = 0x080 then nextOf s (execSwArmWrite req o v s)
  else if 0x500 ≤ off ∧ off < 0x580 then
    if o % 4 ≠ 0 then s
    else if off = 0x500 then nextOf s (execZoneTableLoad req o v s)
    else if off = 0x540 then nextOf s (execRelocTableLoad req o v s)
    else if off = 0x55C then nextOf s (execRtAdd req o v s)
    else if 0x550 ≤ off ∧ off < 0x55C then s.setReg k v
    else plainWrite req k v s
  else plainWrite req k v s

/-- SVC_CTRL: GO starts the operation, else the fields are stored (R416). -/
def svcWrite (req : Requester) (c : Nat) (v : Word) (s : State) : State :=
  let k := Reg.SLIPC.SVC_CTRL c
  if bit v 31 && fld v 1 0 != 0 then runAll [execSvcDataIn req c v, execSvcDataOut req c v, execSvcRespond req c v] s
  else (storeWrite k v s).setBit k 31 false

/-- Registers of the debug page but MEM_CTRL (R525 to R531). -/
def dbgWrite (req : Requester) (off k : Nat) (v : Word) (o : Outside) (s : State) : State :=
  if off = 0x040 then certCtrlEffect v s
  else if off = 0x04C then runAll [execEngineHalt req v, execEngineResume req v, execEngineStep req v o.pc] s
  else if off = 0x060 then regDataWrite req false v s
  else if off = 0x064 then regDataWrite req true v s
  else if 0x070 ≤ off ∧ off < 0x090 then
    if isLowWord k then keepLow req (k + 4) v s
    else
      let lo := lowWritten req k s
      let i := 8 * engSel s + (off - 0x070) / 4
      modDbg (fun d => { d with bps := SMap.set (fun _ => 0#32) (SMap.set (fun _ => 0#32) d.bps (i - 1) lo.1) i v }) lo.2
  else if 0x100 ≤ off ∧ off < 0x200 then
    modDbg (fun d => { d with cert := SMap.set (fun _ => 0#32) d.cert ((off - 0x100) / 4) v }) s
  else if off = 0x09C then s
  else plainWrite req k v s

/-- Registers of the pages of the service page group: SYS, CLAIM, EVF, PWR, UMP and COX. -/
def systemWrite (req : Requester) (p off k : Nat) (v : Word) (o : Outside) (s : State) : State :=
  if k = Reg.SYS.DEV_RESET then devResetEffect req v o.boot s
  else if p = Page.SYS ∧ 0x140 ≤ off ∧ off < 0x158 then nextOf s (execReserveWrite req ((off - 0x140) / 4) v s)
  else if k = Reg.CLAIM.CLAIM_REQ then (if bit v 16 then releaseWritten req v s else claimOne s req v s)
  else if p = Page.EVF ∧ 0x11C ≤ off ∧ off < 0x1C0 ∧ off % 0x20 = 0x1C then popEffect ((off - 0x11C) / 0x20) v s
  else if k = Reg.PWR.DOMAIN_REQ then domainReqEffect v s
  else if k = Reg.PWR.SUPPLY_CFG then supplyWrite k 200 v s
  else if k = Reg.PWR.SUPPLY_CFG2 then supplyWrite k 100 v s
  else if k = Reg.PWR.DUMP_COST then updateCover (storeWrite k v s)
  else if k = Reg.UMP.UMP_CTRL then umpCtrlEffect req v s
  else if k = Reg.UMP.CURSOR then (storeWrite k v s).setBit Reg.UMP.UMP_STATUS 30 false
  else if k = Reg.COX.STROKE_CTRL then nextOf s (execStrokeRelease req v s)
  else plainWrite req k v s

/-- Registers of Crew, the journal, Slipway, the LU table and the hazard unit. -/
def hostSideWrite (req : Requester) (p off k : Nat) (v : Word) (s : State) : State :=
  if k = Reg.CREWG.BAND_CMD then
    runAll [execBandEnable req v, execBandDisable req v, execBandStart req v, execBandPause req v, execBandResync req v,
      execBandReshape req v, execBandCommit req v, execBandCmdUnlisted req v] s
  else if k = Reg.CREWG.RESHAPE_WM then (if s.critFld 13 16 16 = 1 then s else storeWrite k v s)
  else if k = Reg.JRNL.CMD then runAll [execJrnlStart req v, execJrnlClose req v, execJrnlReplay req v] s
  else if 0x060 ≤ p ∧ p ≤ 0x063 ∧ off = 0x040 then
    if bit v 7 then nextOf s (execLinkResetRequest req (p - 0x060) v s) else storeWrite k v s
  else if k = Reg.SLIPC.UA_CTRL then nextOf s (execUaCtrl req v s)
  else if p = Page.SLIPC ∧ 0x400 ≤ off ∧ off < 0x500 ∧ off % 0x40 = 4 then svcWrite req ((off - 0x400) / 0x40) v s
  else if k = Reg.LUT.CMD then runAll [execLuCreate req v, execLuDelete req v, execLuUpdate req v, execLutCmdUnlisted req v] s
  else if k = Reg.HAZ.FW_CMD then runAll [execHazEnter req v, execHazRelease req v, execHazFwCmdUnlisted req v] s
  else plainWrite req k v s

/-- Registers of Boathouse, the cache, the DRAM ports, the scrubber, the safe store and the key store. -/
def bufferWrite (req : Requester) (p k : Nat) (v : Word) (o : Outside) (s : State) : State :=
  if k = Reg.BOAT.DIRTY_ADJ then dirtyAdjEffect v s
  else if k = Reg.CACHE.LOCK_MASK then lockMaskEffect v s
  else if k = Reg.CACHE.RANGE_CTRL then rangeCtrlEffect v s
  else if k = Reg.DRAM.DRAM_CMD (p - 0x072) then dramCmdEffect (p - 0x072) v o.train s
  else if k = Reg.SCRUB.LOG_CTRL then scrubLogEffect v s
  else if k = Reg.SAFE.CMD then
    runAll [execSafeScan req v o.chip o.health, execSafePrepare req v, execSafeRestore req v, execSafeRewriteCut req v,
      execSafeRelease req v, execHealthTest req v o.health, execSafeCmdUnlisted req v] s
  else if k = Reg.SAFE.AREA_SIZE then wbReview (showHealth (storeWrite k v s))
  else if k = Reg.KEYS.CMD then
    runAll [execKeyLoad req v, execKeyClear req v, execKeyWrap req v, execKeyErase req v, execImageVerify req v, execPatchLoad req v,
      execMeasure req v, execAttest req v, execDebugUnlock req v, execRollbackSet req v, execOtpWrite req v, execGenId req v,
      execChallenge req v, execKeysCmdUnlisted req v] s
  else plainWrite req k v s

/-- Registers of Keel, the drive, the heads, Rudder, Sweep, Stroke and the test buses. -/
def driveWrite (req : Requester) (p off k : Nat) (v : Word) (o : Outside) (s : State) : State :=
  if k = Reg.KEEL.CMD then keelCmdEffect v o.rotorRpm o.chopMa s
  else if k = Reg.KEEL.REF_CFG then refCfgEffect req v s
  else if k = Reg.KEEL.CS_CFG then csCfgEffect req v s
  else if k = Reg.KEEL.PA_CFG then paCfgEffect v s
  else if k = Reg.KEEL.INERTIA then inertiaEffect v s
  else if k = Reg.DRV.BRIDGE_CTRL then bridgeCtrlEffect v s
  else if 0x088 ≤ p ∧ p ≤ 0x08B ∧ off = 0x040 then serCfgWrite (p - 0x088) v s
  else if 0x088 ≤ p ∧ p ≤ 0x08B ∧ off = 0x044 then (if bit v 31 then fwFrame (p - 0x088) v s else s)
  else if k = Reg.HDA.CMD then nextOf s (execDiscover req v s)
  else if k = Reg.CAL.CMD then nextOf s (execCalLoad req v s)
  else if k = Reg.CAL.HARD_ENV then hardEnvWrite v s
  else if 0x020 ≤ p ∧ p ≤ 0x023 ∧ off = 0x044 then rudCmdEffect (p - 0x020) v s
  else if 0x020 ≤ p ∧ p ≤ 0x023 ∧ k = Reg.RUDDER.COEF_CTRL (p - 0x020) then coefCtrlEffect (p - 0x020) v s
  else if k = Reg.COUPLE.CPL_CFG then coupleWrite v s
  else if k = Reg.SWEEP.LANE_EN then nextOf s (execLaneEnWrite req v s)
  else if 0x011 ≤ p ∧ p ≤ 0x014 ∧ k = Reg.STROKE.WDT_CFG (p - 0x011) then wdtConfigEffect (p - 0x011) v s
  else if 0x011 ≤ p ∧ p ≤ 0x014 ∧ k = Reg.STROKE.WDT_KICK (p - 0x011) then wdtKickEffect (p - 0x011) v s
  else if 0x011 ≤ p ∧ p ≤ 0x014 ∧ k = Reg.STROKE.TIMECMP_HI (p - 0x011) then timerLine (p - 0x011) (plainWrite req k v s)
  else if k = Reg.ATB.ATB0_SEL then atbEffect req false v s
  else if k = Reg.ATB.ATB1_SEL then atbEffect req true v s
  else plainWrite req k v s

/-- A write of a register above the header. -/
def pageWrite (req : Requester) (p off k : Nat) (v : Word) (o : Outside) (s : State) : State :=
  if p = Page.SYS ∨ p = Page.CLAIM ∨ p = Page.EVF ∨ p = Page.PWR ∨ p = Page.UMP ∨ p = Page.COX then systemWrite req p off k v o s
  else if p = Page.DBG then dbgWrite req off k v o s
  else if p = Page.UCODE then ucodeWrite req off k v s
  else if 0x030 ≤ p ∧ p ≤ 0x03F then oarWrite req (p - 0x030) off v s
  else if isTunePage p && decide (0x100 ≤ off) then tuneWrite req p off v s
  else if (decide (0x050 ≤ p) && decide (p ≤ 0x065)) || p == Page.HAZ then hostSideWrite req p off k v s
  else if (decide (0x070 ≤ p) && decide (p ≤ 0x07A)) || p == Page.SAFE then bufferWrite req p k v o s
  else driveWrite req p off k v o s

/-- The effect of a write of `v` to the register at key `k`, but for MEM_CTRL. -/
def regEffect (req : Requester) (k : Nat) (v : Word) (o : Outside) (s : State) : State :=
  let p := k / 0x1000
  let off := k % 0x1000
  match critWordOf k with
  | some n => critEffect req n k v s
  | none =>
    if off < 0x040 then headerWrite p off v s
    else if off = 0x040 ∧ (fenceCore p).isSome then ((fenceCore p).map fun c => fenceEffect c v s).getD s
    else match queueAt p off with
    | some (q, r) => queueWrite req q r k v o.parityBad s
    | none => pageWrite req p off k v o s

end Sys2Proof.Machine
end

