-- ==== Sys2Proof/Machine/Bus.lean ====
section
/-! DEFINITION. The bus's own commands: writes and reads of registers, FENCE, the relock of a clock, timeouts, and the debug port's
accesses (R24, R25, R36 to R46, R56, R523, R529). -/

namespace Sys2Proof.Machine

/-! ### One access -/

/-- An access at an address that is no register of an aligned word: outside the map, or of the wrong form (R37, R38). -/
def wrongForm (req : Requester) (a : Addr) (write : Bool) (s : State) : State :=
  match addrKey a with
  | none => if memRange a.toNat 1 = 0 then busError (refuseAccess req a write 1 s) else s
  | some k => busError (refuseAccess req a write (if pagePlace (k / 0x1000) = none then 1 else 3) s)

/-- The key of the register that an aligned word access at `a` reaches. -/
def wordKey (a : Addr) (width : AccessWidth) : Option Nat :=
  if width = .word ∧ a.toNat % 4 = 0 then addrKey a else none

/-- A memory access of the debug port, one word (R36, R37, R529). -/
def portMemory (write : Bool) (a : Addr) (v : Word) (o : Outside) (s : State) : State :=
  memAccess .debugPort write a 4 (v.setWidth 64) o.rom.toNat o.cache o.noise s

/-- The debug port's read of the word at `a`. -/
def tapReadWord (a : Addr) (o : Outside) (s : State) : State :=
  match wordKey a .word with
  | some k => withReadOut o .debugPort k (regRead .debugPort k o.parityBad o.rereadBad) s
  | none => if (addrKey a).isSome then wrongForm .debugPort a false s else portMemory false a 0#32 o s

/-- The debug port's write of the word at `a`. -/
def tapWriteWord (a : Addr) (v : Word) (o : Outside) (s : State) : State :=
  match wordKey a .word with
  | some k => withWriteOut o .debugPort k v (regEffect .debugPort k v o) s
  | none => if (addrKey a).isSome then wrongForm .debugPort a true s else portMemory true a v o s

/-- The bus refuses the debug port at `a` (R36, R37, R38, R42). -/
def portRefused (write : Bool) (a : Addr) (s : State) : Bool :=
  match addrKey a with
  | some k =>
    let p := k / 0x1000
    pagePlace p == none || a.toNat % 4 != 0
      || (pageOn s p && !(if write then mayWrite .debugPort p (k % 0x1000) s else mayRead .debugPort p (k % 0x1000) s))
  | none =>
    let r := memRange a.toNat 4
    r == 0 || !mayTouch r .debugPort write s || (r == 7 && decide (usableSize s < a.toNat - dramBase + 4))

/-- ERROR and ACCESS_ERROR code 2, where the access was refused (R529). -/
def portOutcome (write : Bool) (a : Addr) (before s : State) : State :=
  if portRefused write a before then raise Page.DBG 3 5 2 {} (s.setBit Reg.DBG.MEM_CTRL 5 true) else s

/-- A write of MEM_CTRL: READ, then WRITE (R529). An access ends the error of the one before. -/
def memCtrlEffect (v : Word) (o : Outside) (s : State) : State :=
  let a : Addr := BitVec.ofNat 40 (s.reg64 Reg.DBG.MEM_ADDR_LO)
  let s1 := if bit v 0 || bit v 1 then s.setBit Reg.DBG.MEM_CTRL 5 false else s
  let s2 := if bit v 0 then
      let t := tapReadWord a o s1
      portOutcome false a s1 (if portRefused false a s1 || s1.bus.held.length < t.bus.held.length then t else t.setReg Reg.DBG.MEM_DATA t.bus.data)
    else s1
  let s3 := if bit v 1 then portOutcome true a s2 (tapWriteWord a (s2.reg Reg.DBG.MEM_DATA) o s2) else s2
  busOk 0#32 s3

/-- The effect of a write of `v` to the register at key `k`. -/
def busEffect (req : Requester) (k : Nat) (v : Word) (o : Outside) : State → State :=
  if k = Reg.DBG.MEM_CTRL then memCtrlEffect v o else regEffect req k v o

/-! ### Accesses that wait -/

/-- The accesses that came before `h` and still wait. -/
def heldBefore (h : HeldAccess) (s : State) : List HeldAccess := s.bus.held.takeWhile (· != h)

/-- The wait of `h` is over: what held it back has gone, and no earlier access of its requester to the same page, or to the same lines of
memory, waits (R22). -/
def heldReady (h : HeldAccess) (s : State) : Bool :=
  match h.op with
  | .write _ | .read =>
    if h.after then !atCore h.req s
    else (addrKey h.addr).all fun k => !pageWaits k s && !waitsAt h.req (k / 0x1000) (heldBefore h s)
  | .store n _ | .load n =>
    if h.after then !s.bus.stalled.contains h.req
    else !windowWaits h.op.isWrite h.out.cache h.addr n s && !linesWait h.req h.addr n (heldBefore h s)

/-- An access that waited at its core is made, and one that waited at its destination is served. -/
def proceed (o : Outside) (h : HeldAccess) (s : State) : State :=
  if s.chip.held.isSome then s
  else
    match h.op, addrKey h.addr with
    | .write v, some k => (if h.after then withWriteOut o h.req k v else writeArrived h.req k) (busEffect h.req k v o) s
    | .read, some k => (if h.after then withReadOut o h.req k else readArrived h.req k) (regRead h.req k o.parityBad o.rereadBad) s
    | .store n v, _ => (if h.after then memAccess else memArrived false) h.req true h.addr n v o.rom.toNat o.cache o.noise s
    | .load n, _ => (if h.after then memAccess else memArrived false) h.req false h.addr n 0#64 o.rom.toNat o.cache o.noise s
    | _, none => s

/-- `h` goes on, if it still waits and its wait is over. -/
def settleOne (out : HeldAccess → Outside) (s : State) (h : HeldAccess) : State :=
  if s.bus.held.contains h && heldReady h s then
    proceed (out h) h { s with bus := { s.bus with held := s.bus.held.erase h } }
  else s

/-- Of the accesses that wait, those that `p` names go on where their wait is over, oldest first. -/
def settle (out : HeldAccess → Outside) (p : HeldAccess → Bool) (s : State) : State :=
  (s.bus.held.filter p).foldl (settleOne out) s

/-! ### The commands -/

/-- REGISTER_WRITE (R36 to R46). -/
def execRegisterWrite (req : Requester) (addr : Addr) (width : AccessWidth) (v : Word) (o : Outside) (s : State) :
    Host.Outcome State Fault Refusal :=
  .next (match wordKey addr width with
    | some k => withWriteOut o req k v (busEffect req k v o) s
    | none => wrongForm req addr true s)

/-- LATCHED_READ (R39). -/
def execLatchedRead (req : Requester) (addr : Addr) (width : AccessWidth) (s : State) : Host.Outcome State Fault Refusal :=
  .next (match wordKey addr width with
    | some k => withRead req k (regRead req k false false) s
    | none => wrongForm req addr false s)

/-- The access of `req` at `addr` that has waited 50 µs at its destination, if there is one (R25). -/
def overdue (req : Requester) (addr : Addr) (write : Bool) (s : State) : Option HeldAccess :=
  s.bus.held.find? fun h => h.req == req && h.addr == addr && h.op.isWrite == write && !h.after && decide (h.since + 50000 ≤ s.time)

/-- BUS_TIMEOUT (R25): the access ends with a bus error, and those that its core held back behind it are made. -/
def execBusTimeout (req : Requester) (addr : Addr) (write : Bool) (s : State) : Host.Outcome State Fault Refusal :=
  .next (match overdue req addr write s with
    | none => s
    | some h => busError (refuseAccess req addr write 6
        (settle HeldAccess.out (fun x => x.req == req) { s with bus := { s.bus with held := s.bus.held.erase h } })))

/-- FENCE_DRAIN (R24). -/
def execFenceDrain (req : Requester) (page : Nat) (v : Word) (s : State) : Host.Outcome State Fault Refusal :=
  .next (match fenceCore page with
    | some c => s.when (bit v 0) (withWrite req (regKey page 0x040) v (fenceEffect c v))
    | none => s)

/-- FENCE_DRAIN_DONE (R24): the stall ends, and the core's later accesses are made. -/
def execFenceDrainDone (core : Requester) (o : Outside) (s : State) : Host.Outcome State Fault Refusal :=
  .next (s.when (s.bus.stalled.contains core && !s.bus.held.any (unacked core)) fun s =>
    settle (fun _ => o) (fun h => h.req == core && h.after) { s with bus := { s.bus with stalled := s.bus.stalled.filter (· != core) } })

/-- The accesses that waited for a clock go on, with those that waited behind them, and then those that a read among them held back at its
core. -/
def accessesResume (o : Outside) (s : State) : State :=
  settle (fun _ => o) (fun h => h.after) (settle (fun _ => o) (fun h => !h.after) s)

/-- CLOCK_RELOCK (R56): within 50 µs the island's clock runs again, and the accesses that waited for it go on; later the relock has
failed (log entry 42). -/
def execClockRelock (island : Nat) (o : Outside) (s : State) : Host.Outcome State Fault Refusal :=
  .next (match SMap.get (fun _ => none) s.clocks.stopped island with
    | none => s
    | some t => s.when (!SMap.get (fun _ => false) s.clocks.failed island) fun s =>
      if s.time ≤ t + 50000 then
        accessesResume o (transient Page.CLK 0 island {}
          (modClocks (fun c => { c with stopped := SMap.set (fun _ => none) c.stopped island none }) s))
      else clockFails island s)

/-- CRIT_WRITE (R46, R84, R85). -/
def execCritWrite (req : Requester) (addr : Addr) (v : Word) (s : State) : Host.Outcome State Fault Refusal :=
  .next (match (addrKey addr).bind fun k => (critWordOf k).map fun n => (k, n) with
    | some (k, n) => withWrite req k v (critEffect req n k v) s
    | none => s)

/-- MEM_READ (R529). -/
def execMemRead (req : Requester) (v : Word) (o : Outside) (s : State) : Host.Outcome State Fault Refusal :=
  .next (s.when (bit v 0) (withWriteOut o req Reg.DBG.MEM_CTRL v (memCtrlEffect v o)))

/-- MEM_WRITE (R529). -/
def execMemWrite (req : Requester) (v : Word) (o : Outside) (s : State) : Host.Outcome State Fault Refusal :=
  .next (s.when (bit v 1) (withWriteOut o req Reg.DBG.MEM_CTRL v (memCtrlEffect v o)))

/-- DBG_ACCESS (R523): a register-page access of the debug port; a read is shifted out. -/
def execDbgAccess (port : TapPort) (write : Bool) (addr : Addr) (v : Word) (o : Outside) (s : State) : Host.Outcome State Fault Refusal :=
  .next (s.when (tapReached s port) fun s =>
    match wordKey addr .word with
    | some k =>
      if write then tapShift [] (withWriteOut o .debugPort k v (busEffect .debugPort k v o) s)
      else
        let t := withReadOut o .debugPort k (regRead .debugPort k o.parityBad o.rereadBad) s
        tapShift (bitList 32 t.bus.data.toNat) t
    | none => wrongForm .debugPort addr write s)

/-! ### Time -/

/-- The transitions of domains that are due have ended (R25); the fabric says that D6 is back (R66). -/
def endTransits (s : State) : State :=
  let s1 := modClocks (fun c => { c with transit := c.transit.filter fun e => e.2.any fun t => decide (s.time < t) }) s
  if inTransit s 6 && !inTransit s1 6 then raise Page.EVF 1 0 0 {} s1 else s1

/-- A tick of the time base, one nanosecond, with no command waiting (R19): transitions of domains end, accesses whose wait is over go
on, the cores' timer lines follow the time, and the power manager looks whether the device is idle (R25, R57, R460; log entry 129). -/
def tick (s : State) : State :=
  let t := settle HeldAccess.out (fun _ => true) (timerLines (endTransits { s with time := s.time + 1 }))
  if powerRuns t then trackIdle t else t

end Sys2Proof.Machine
end

