-- ==== Sys2Proof/Machine/Gate.lean ====
section
/-! DEFINITION. The commands of Gate (R437 to R442). -/

namespace Sys2Proof.Machine

/-- Gate `a` runs. -/
def gateRuns (s : State) (a : Nat) : Bool := decide (a < 4) && engineRuns s (0x20 + a)

/-- The code under which a run is refused; none for a good one (R437). -/
def runFault (s : State) (a : Nat) (ws : List Word) : Option Nat :=
  let m := runMember ws
  let n := runCount ws
  let ty := pktType ws
  if !(ty == 1 || ty == 2 || ty == 3) then some 3
  else if m < 6 * a ∨ 6 * a + 6 ≤ m ∨ !(actuatorUp s a && headPresent s a (m - 6 * a)) then some 1
  else if memberFailed s m then some 4
  else if pktLen ws ≠ 16 ∨ n = 0 ∨ 256 < n ∨ 1023 ≤ runSector ws ∨ !bodyOk (runBody ws) n then some 2
  else none

/-- Gate refuses a run (R437). -/
def refuseRun (a code : Nat) (ws : List Word) (s : State) : State :=
  reportRun a ws 3 0 0 0 (raise (Page.GATE a) 1 5 code ⟨word (pktTag ws), word (bodyOwner (runBody ws)), 0#32⟩
    (s.count (Reg.GATE.REFUSED_COUNT a) 1))

/-- RUN_ADMIT (R437, R445). -/
def execRunAdmit (a : Nat) (s : State) : Host.Outcome State Fault Refusal :=
  .next (s.when (decide (a < 4) && engineTakes s (0x20 + a)) fun s =>
    match qFront (gateQ a) s with
    | none => s
    | some it =>
      let c := runClass it.port it.words
      let n := runCount it.words
      if !creditGrants 8192 (sectorHeld s a) (resField s Reg.SYS.RES_SECTOR_LO) c n then s
      else
        match qNext (gateQ a) s with
        | none => s
        | some (_, t) =>
          match runFault s a it.words with
          | some code => refuseRun a code it.words t
          | none =>
            let id := (gate t a).nextId
            let r : Run := { id := id, words := it.words, port := it.port, cls := c, since := t.time, aged := 0, todo := [(0, n)]
                             ended := 0, lastings := 0, first := none, poisoned := false, started := false, quiet := false }
            setSectorHeld a c (sectorHeld t a c + n)
              (modGate a (fun g => { g with runs := g.runs ++ [r], nextId := id + 1 }) t))

/-- GATE_PICK (R438 to R441): slot `k` takes Gate's own work, else the run of lowest cost at the highest level. -/
def execGatePick (a k : Nat) (s : State) : Host.Outcome State Fault Refusal :=
  .next (s.when (decide (k < 4) && decide (a < 4) && engineTakes s (0x20 + a) && !gateQuiet s) fun s =>
    let s1 := gateSettle a s
    let queued := ((gate s1 a).issued.filter fun j => j.slot == k && jobWaits s1 a k j).length
    s1.when (slotAvail s1 a k && actuatorUp s1 a && decide (queued < s1.fld (Reg.GATE.SCHED_CFG a) 10 8)) fun s =>
      match pickOwn a k s with
      | some t => formGroup a t
      | none =>
        match pickRun s a k with
        | some r => formGroup a (issueRun a k r s)
        | none => s)

/-- RUN_AGE (R439): a run that has waited AGE_MS at its level goes one up; AGED at the first promotion to 7 after 1 ms. -/
def execRunAge (a : Nat) (s : State) : Host.Outcome State Fault Refusal :=
  .next (s.when (gateRuns s a) fun s =>
    let ms := s.fld (Reg.GATE.SCHED_CFG a) 31 16 * 1000000
    match (gate s a).runs.find? fun r => runWaits s a r && decide (runLevel r < 7) && decide (r.since + (r.aged + 1) * ms ≤ s.time) with
    | none => s
    | some r =>
      let s1 := modRun a r.id (fun x => { x with aged := x.aged + 1 }) s
      if runLevel { r with aged := r.aged + 1 } < 7 then s1
      else
        let s2 := if quietFor1ms (gate s a).agedTime s then raise (Page.GATE a) 2 0 0 {} s1 else s1
        (modGate a (fun g => { g with agedTime := some s.time }) s2).count (Reg.GATE.AGED_COUNT a) 1)

/-- RUN_END (R442): a run all of whose sector jobs have ended is reported. -/
def execRunEnd (a : Nat) (s : State) : Host.Outcome State Fault Refusal :=
  .next (s.when (gateRuns s a) fun s =>
    let s1 := gateSettle a s
    match (gate s1 a).runs.find? fun r => decide (runCount r.words ≤ r.ended) with
    | none => s1
    | some r =>
      let f := r.first.getD (0, 0)
      let st := if 0 < r.lastings then 2 else if r.poisoned then 1 else 0
      let s2 := modGate a (fun g => { g with runs := g.runs.filter (·.id != r.id) }) s1
      if r.quiet then s2 else reportRun a r.words st r.lastings f.1 f.2 (s2.count (Reg.GATE.RUNS_DONE a) 1))

/-- RUDDER_GROUP (R182, R183): Gate hands Rudder the group it has formed. -/
def execRudderGroup (a : Nat) (s : State) : Host.Outcome State Fault Refusal :=
  .next (s.when (rudAlive s a && gateRuns s a) fun s =>
    match (if (gate s a).unready then none else (gate s a).offer) with
    | none => s
    | some g => gateNotes a (offerGroup a g (modGate a (fun x => { x with offer := none }) s)))

end Sys2Proof.Machine
end

