-- ==== Sys2Proof/Machine/Dispatch.lean ====
section
/-! DEFINITION. The meaning of each command, one arm per constructor. -/

namespace Sys2Proof.Machine

def exec (i : Instr) (s : State) : Host.Outcome State Fault Refusal :=
  match i with
  | .registerWrite req addr width v o => Sys2Proof.Machine.execRegisterWrite req addr width v o s
  | .busTimeout req addr write => Sys2Proof.Machine.execBusTimeout req addr write s
  | .latchedRead req addr width => Sys2Proof.Machine.execLatchedRead req addr width s
  | .fenceDrain req page v => Sys2Proof.Machine.execFenceDrain req page v s
  | .fenceDrainDone core o => Sys2Proof.Machine.execFenceDrainDone core o s
  | .softReset req page v => Sys2Proof.Machine.execSoftReset req page v s
  | .softResetDone page => Sys2Proof.Machine.execSoftResetDone page s
  | .blockDisable req page v => Sys2Proof.Machine.execBlockDisable req page v s
  | .evForce req page v => Sys2Proof.Machine.execEvForce req page v s
  | .pageLock req page v => Sys2Proof.Machine.execPageLock req page v s
  | .claim arrivals => Sys2Proof.Machine.execClaim arrivals s
  | .release req v => Sys2Proof.Machine.execRelease req v s
  | .devReset req v boot => Sys2Proof.Machine.execDevReset req v boot s
  | .resetN lowNs boot => Sys2Proof.Machine.execResetN lowNs boot s
  | .powerOn goodMs boot => Sys2Proof.Machine.execPowerOn goodMs boot s
  | .railStartFail rail percent => Sys2Proof.Machine.execRailStartFail rail percent s
  | .railLow rail lowNs => Sys2Proof.Machine.execRailLow rail lowNs s
  | .refclkLoss quietNs => Sys2Proof.Machine.execRefclkLoss quietNs s
  | .uartContainer bytes => Sys2Proof.Machine.execUartContainer bytes s
  | .islandClockStop island => Sys2Proof.Machine.execIslandClockStop island s
  | .clockRelock island o => Sys2Proof.Machine.execClockRelock island o s
  | .clockRelockTimeout island => Sys2Proof.Machine.execClockRelockTimeout island s
  | .refGlitch => Sys2Proof.Machine.execRefGlitch s
  | .softIrq req core v => Sys2Proof.Machine.execSoftIrq req core v s
  | .timerCompare core => Sys2Proof.Machine.execTimerCompare core s
  | .wdtConfig req core v => Sys2Proof.Machine.execWdtConfig req core v s
  | .wdtKick req core v => Sys2Proof.Machine.execWdtKick req core v s
  | .watchdog core => Sys2Proof.Machine.execWatchdog core s
  | .microcodeFault engine addr x => Sys2Proof.Machine.execMicrocodeFault engine addr x s
  | .pollTimeout engine addr => Sys2Proof.Machine.execPollTimeout engine addr s
  | .eventMessage => Sys2Proof.Machine.execEventMessage s
  | .bucketLeak source => Sys2Proof.Machine.execBucketLeak source s
  | .targetPop req t v => Sys2Proof.Machine.execTargetPop req t v s
  | .critRead req addr upsets => Sys2Proof.Machine.execCritRead req addr upsets s
  | .critWrite req addr v => Sys2Proof.Machine.execCritWrite req addr v s
  | .critSweep upsets => Sys2Proof.Machine.execCritSweep upsets s
  | .queuePush q port words => Sys2Proof.Machine.execQueuePush q port words s
  | .queuePop q parityBad => Sys2Proof.Machine.execQueuePop q parityBad s
  | .queueAgePromote q => Sys2Proof.Machine.execQueueAgePromote q s
  | .flush req q v => Sys2Proof.Machine.execFlush req q v s
  | .flushTakesEffect q => Sys2Proof.Machine.execFlushTakesEffect q s
  | .pointerMismatch q => Sys2Proof.Machine.execPointerMismatch q s
  | .queueResetDone q => Sys2Proof.Machine.execQueueResetDone q s
  | .fwQueuePush req q v => Sys2Proof.Machine.execFwQueuePush req q v s
  | .fwQueuePop req q x => Sys2Proof.Machine.execFwQueuePop req q x s
  | .bridgeFrame toRigger crcOk m => Sys2Proof.Machine.execBridgeFrame toRigger crcOk m s
  | .riggerFrameTimeout quietNs => Sys2Proof.Machine.execRiggerFrameTimeout quietNs s
  | .bridgeResume req v => Sys2Proof.Machine.execBridgeResume req v s
  | .rigFault code => Sys2Proof.Machine.execRigFault code s
  | .pwrFail v12 v5 lowNs => Sys2Proof.Machine.execPwrFail v12 v5 lowNs s
  | .nandProgramDone good => Sys2Proof.Machine.execNandProgramDone good s
  | .dumpDone => Sys2Proof.Machine.execDumpDone s
  | .busCollapse busMv => Sys2Proof.Machine.execBusCollapse busMv s
  | .powerReturn v12 v5 goodMs disable boot => Sys2Proof.Machine.execPowerReturn v12 v5 goodMs disable boot s
  | .supplyWarn v12 v5 => Sys2Proof.Machine.execSupplyWarn v12 v5 s
  | .keelRun req v rotorRpm chopMa => Sys2Proof.Machine.execKeelRun req v rotorRpm chopMa s
  | .keelStop req v => Sys2Proof.Machine.execKeelStop req v s
  | .keelCoast req v => Sys2Proof.Machine.execKeelCoast req v s
  | .chopTest req v chopMa => Sys2Proof.Machine.execChopTest req v chopMa s
  | .keelResume req v => Sys2Proof.Machine.execKeelResume req v s
  | .keelCmdUnlisted req v => Sys2Proof.Machine.execKeelCmdUnlisted req v s
  | .spdTargetWrite req addr v => Sys2Proof.Machine.execSpdTargetWrite req addr v s
  | .refEnable req v => Sys2Proof.Machine.execRefEnable req v s
  | .pwmPeriod p => Sys2Proof.Machine.execPwmPeriod p s
  | .spindleLocked => Sys2Proof.Machine.execSpindleLocked s
  | .phaseWord sextant frac => Sys2Proof.Machine.execPhaseWord sextant frac s
  | .csMismatch => Sys2Proof.Machine.execCsMismatch s
  | .csCheck => Sys2Proof.Machine.execCsCheck s
  | .observerHandover => Sys2Proof.Machine.execObserverHandover s
  | .openLoopTimeout => Sys2Proof.Machine.execOpenLoopTimeout s
  | .spinupFail => Sys2Proof.Machine.execSpinupFail s
  | .estimateLost => Sys2Proof.Machine.execEstimateLost s
  | .reacqOk => Sys2Proof.Machine.execReacqOk s
  | .reacqFail => Sys2Proof.Machine.execReacqFail s
  | .shortBrake => Sys2Proof.Machine.execShortBrake s
  | .stopped quietMs => Sys2Proof.Machine.execStopped quietMs s
  | .genFloor => Sys2Proof.Machine.execGenFloor s
  | .reserveUpdate revolution => Sys2Proof.Machine.execReserveUpdate revolution s
  | .refEdge periodNs highNs agoNs => Sys2Proof.Machine.execRefEdge periodNs highNs agoNs s
  | .refLost => Sys2Proof.Machine.execRefLost s
  | .chopEngage busMv => Sys2Proof.Machine.execChopEngage busMv s
  | .chopRelease busMv => Sys2Proof.Machine.execChopRelease busMv s
  | .chopFault chopMa busMv => Sys2Proof.Machine.execChopFault chopMa busMv s
  | .vCritTrip busMv => Sys2Proof.Machine.execVCritTrip busMv s
  | .clearTrip req v => Sys2Proof.Machine.execClearTrip req v s
  | .threshWrite req addr v => Sys2Proof.Machine.execThreshWrite req addr v s
  | .preFwRead req port v => Sys2Proof.Machine.execPreFwRead req port v s
  | .preFwWrite req port v => Sys2Proof.Machine.execPreFwWrite req port v s
  | .serialFrameDone port data last => Sys2Proof.Machine.execSerialFrameDone port data last s
  | .pfaultAssert port status => Sys2Proof.Machine.execPfaultAssert port status s
  | .pfaultSettle port released status => Sys2Proof.Machine.execPfaultSettle port released status s
  | .faultStatusPoll port status => Sys2Proof.Machine.execFaultStatusPoll port status s
  | .discover req v => Sys2Proof.Machine.execDiscover req v s
  | .discoveryDone replies => Sys2Proof.Machine.execDiscoveryDone replies s
  | .actuatorRetire req addr v => Sys2Proof.Machine.execActuatorRetire req addr v s
  | .tempUpdate d0 d1 => Sys2Proof.Machine.execTempUpdate d0 d1 s
  | .tliUpdate lowNs => Sys2Proof.Machine.execTliUpdate lowNs s
  | .calLoad req v => Sys2Proof.Machine.execCalLoad req v s
  | .calLoadDone firstBad => Sys2Proof.Machine.execCalLoadDone firstBad s
  | .envelopeCheck oar => Sys2Proof.Machine.execEnvelopeCheck oar s
  | .wedgeDemod a k mark wedge gray bursts => Sys2Proof.Machine.execWedgeDemod a k mark wedge gray bursts s
  | .wedgeSample a w => Sys2Proof.Machine.execWedgeSample a w s
  | .subsample a w => Sys2Proof.Machine.execSubsample a w s
  | .ssFault a k => Sys2Proof.Machine.execSsFault a k s
  | .timingFail a => Sys2Proof.Machine.execTimingFail a s
  | .positionLost a => Sys2Proof.Machine.execPositionLost a s
  | .reacquireDone a => Sys2Proof.Machine.execReacquireDone a s
  | .reacquireTimeout a => Sys2Proof.Machine.execReacquireTimeout a s
  | .rudderGroup a => Sys2Proof.Machine.execRudderGroup a s
  | .onTrack a k => Sys2Proof.Machine.execOnTrack a k s
  | .seekFail a => Sys2Proof.Machine.execSeekFail a s
  | .wfClear a k => Sys2Proof.Machine.execWfClear a k s
  | .pesWindow a => Sys2Proof.Machine.execPesWindow a s
  | .coupleWord a sender headOk coilOk milliOk => Sys2Proof.Machine.execCoupleWord a sender headOk coilOk milliOk s
  | .snsSample n sample => Sys2Proof.Machine.execSnsSample n sample s
  | .shockHoldEnd => Sys2Proof.Machine.execShockHoldEnd s
  | .sensorFault n => Sys2Proof.Machine.execSensorFault n s
  | .rudderLoad req a v => Sys2Proof.Machine.execRudderLoad req a v s
  | .loadTimeout a => Sys2Proof.Machine.execLoadTimeout a s
  | .rudderUnload req a v => Sys2Proof.Machine.execRudderUnload req a v s
  | .rudderRetract req a v => Sys2Proof.Machine.execRudderRetract req a v s
  | .rudderClear req a v => Sys2Proof.Machine.execRudderClear req a v s
  | .rudderCmdUnlisted req a v => Sys2Proof.Machine.execRudderCmdUnlisted req a v s
  | .parkDetect a coil heldUs => Sys2Proof.Machine.execParkDetect a coil heldUs s
  | .retractTimeout a => Sys2Proof.Machine.execRetractTimeout a s
  | .retractCurrentEnd a => Sys2Proof.Machine.execRetractCurrentEnd a s
  | .coefLoad req a v => Sys2Proof.Machine.execCoefLoad req a v s
  | .coefLoadDone a firstBad => Sys2Proof.Machine.execCoefLoadDone a firstBad s
  | .coefSwitch req a v => Sys2Proof.Machine.execCoefSwitch req a v s
  | .coefSwitched a parityBad => Sys2Proof.Machine.execCoefSwitched a parityBad s
  | .tuneMode req page v => Sys2Proof.Machine.execTuneMode req page v s
  | .tuneGo req page v => Sys2Proof.Machine.execTuneGo req page v s
  | .tuneStop req page v => Sys2Proof.Machine.execTuneStop req page v s
  | .tuneForce req page v => Sys2Proof.Machine.execTuneForce req page v s
  | .traceDone page => Sys2Proof.Machine.execTraceDone page s
  | .sinePointEnd page point => Sys2Proof.Machine.execSinePointEnd page point s
  | .injectionEnd page => Sys2Proof.Machine.execInjectionEnd page s
  | .sectorRead oar entry x => Sys2Proof.Machine.execSectorRead oar entry x s
  | .sectorWrite oar entry => Sys2Proof.Machine.execSectorWrite oar entry s
  | .zoneTableLoad req oar v => Sys2Proof.Machine.execZoneTableLoad req oar v s
  | .zoneTableDone oar firstBad => Sys2Proof.Machine.execZoneTableDone oar firstBad s
  | .laneDispatch lane parityBad => Sys2Proof.Machine.execLaneDispatch lane parityBad s
  | .decodeEnd lane r => Sys2Proof.Machine.execDecodeEnd lane r s
  | .sliceEnd lane r => Sys2Proof.Machine.execSliceEnd lane r s
  | .reequalise slot input => Sys2Proof.Machine.execReequalise slot input s
  | .ladderTimeout slot => Sys2Proof.Machine.execLadderTimeout slot s
  | .laneEnWrite req v => Sys2Proof.Machine.execLaneEnWrite req v s
  | .runAdmit a => Sys2Proof.Machine.execRunAdmit a s
  | .gatePick a k => Sys2Proof.Machine.execGatePick a k s
  | .runAge a => Sys2Proof.Machine.execRunAge a s
  | .trackJobStart oar => Sys2Proof.Machine.execTrackJobStart oar s
  | .landingAck oar entry => Sys2Proof.Machine.execLandingAck oar entry s
  | .trackJobEnd oar => Sys2Proof.Machine.execTrackJobEnd oar s
  | .runEnd a => Sys2Proof.Machine.execRunEnd a s
  | .relocTableLoad req oar v => Sys2Proof.Machine.execRelocTableLoad req oar v s
  | .relocTableDone oar firstBad => Sys2Proof.Machine.execRelocTableDone oar firstBad s
  | .rtAdd req oar v => Sys2Proof.Machine.execRtAdd req oar v s
  | .swArmWrite req oar v => Sys2Proof.Machine.execSwArmWrite req oar v s
  | .ucodeWordWrite req v => Sys2Proof.Machine.execUcodeWordWrite req v s
  | .ucodeCommit req v => Sys2Proof.Machine.execUcodeCommit req v s
  | .ucodeRestoreDone code parity => Sys2Proof.Machine.execUcodeRestoreDone code parity s
  | .dramInit req port v r => Sys2Proof.Machine.execDramInit req port v r s
  | .initDone port => Sys2Proof.Machine.execInitDone port s
  | .srEnter req port v => Sys2Proof.Machine.execSrEnter req port v s
  | .selfRefresh port => Sys2Proof.Machine.execSelfRefresh port s
  | .srExit req port v => Sys2Proof.Machine.execSrExit req port v s
  | .mr4Poll port rate overTemp => Sys2Proof.Machine.execMr4Poll port rate overTemp s
  | .xactRead q noise => Sys2Proof.Machine.execXactRead q noise s
  | .xactWrite q beats => Sys2Proof.Machine.execXactWrite q beats s
  | .xactCopy q noise => Sys2Proof.Machine.execXactCopy q noise s
  | .xactFill q => Sys2Proof.Machine.execXactFill q s
  | .xactMerge q beat noise => Sys2Proof.Machine.execXactMerge q beat noise s
  | .xactDone port tag => Sys2Proof.Machine.execXactDone port tag s
  | .dirtyReserve task granules => Sys2Proof.Machine.execDirtyReserve task granules s
  | .dirtyGrant => Sys2Proof.Machine.execDirtyGrant s
  | .dirtyAdjReserve req v => Sys2Proof.Machine.execDirtyAdjReserve req v s
  | .dirtyAdjRelease req v => Sys2Proof.Machine.execDirtyAdjRelease req v s
  | .dirtyLimitWrite req addr v => Sys2Proof.Machine.execDirtyLimitWrite req addr v s
  | .wbRequestWrite req addr v => Sys2Proof.Machine.execWbRequestWrite req addr v s
  | .wbActivate => Sys2Proof.Machine.execWbActivate s
  | .cacheAccess req write addr width v parity noise => Sys2Proof.Machine.execCacheAccess req write addr width v parity noise s
  | .lockMaskWrite req v => Sys2Proof.Machine.execLockMaskWrite req v s
  | .rangeClean req v => Sys2Proof.Machine.execRangeClean req v s
  | .rangeInvalidate req v => Sys2Proof.Machine.execRangeInvalidate req v s
  | .rangeCleanInvalidate req v => Sys2Proof.Machine.execRangeCleanInvalidate req v s
  | .rangeZero req v => Sys2Proof.Machine.execRangeZero req v s
  | .rangeLockFill req v => Sys2Proof.Machine.execRangeLockFill req v s
  | .rangeStop req v => Sys2Proof.Machine.execRangeStop req v s
  | .rangeDone parity => Sys2Proof.Machine.execRangeDone parity s
  | .scrubStep quiet100ns noise => Sys2Proof.Machine.execScrubStep quiet100ns noise s
  | .scrubLogClear req v => Sys2Proof.Machine.execScrubLogClear req v s
  | .bandEnable req v => Sys2Proof.Machine.execBandEnable req v s
  | .bandDisable req v => Sys2Proof.Machine.execBandDisable req v s
  | .bandDisableDone band => Sys2Proof.Machine.execBandDisableDone band s
  | .bandStart req v => Sys2Proof.Machine.execBandStart req v s
  | .bandPause req v => Sys2Proof.Machine.execBandPause req v s
  | .bandResync req v => Sys2Proof.Machine.execBandResync req v s
  | .bandReshape req v => Sys2Proof.Machine.execBandReshape req v s
  | .bandCommit req v => Sys2Proof.Machine.execBandCommit req v s
  | .stripeWrite engine => Sys2Proof.Machine.execStripeWrite engine s
  | .stripeRead engine => Sys2Proof.Machine.execStripeRead engine s
  | .stripeRepair engine => Sys2Proof.Machine.execStripeRepair engine s
  | .stripeDone job => Sys2Proof.Machine.execStripeDone job s
  | .journalSectorWrite engine => Sys2Proof.Machine.execJournalSectorWrite engine s
  | .journalWritten => Sys2Proof.Machine.execJournalWritten s
  | .jrnlStart req v => Sys2Proof.Machine.execJrnlStart req v s
  | .jrnlClose req v => Sys2Proof.Machine.execJrnlClose req v s
  | .jrnlClosed => Sys2Proof.Machine.execJrnlClosed s
  | .jrnlReplay req v => Sys2Proof.Machine.execJrnlReplay req v s
  | .replayDone => Sys2Proof.Machine.execReplayDone s
  | .memberFailWrite req addr v => Sys2Proof.Machine.execMemberFailWrite req addr v s
  | .rebuildStep engine band slot => Sys2Proof.Machine.execRebuildStep engine band slot s
  | .resyncStep engine band => Sys2Proof.Machine.execResyncStep engine band s
  | .patrolStep engine => Sys2Proof.Machine.execPatrolStep engine s
  | .reshapeStep engine => Sys2Proof.Machine.execReshapeStep engine s
  | .reshapeSwitch => Sys2Proof.Machine.execReshapeSwitch s
  | .lossOfSync lane => Sys2Proof.Machine.execLossOfSync lane s
  | .linkResetRequest req lane v => Sys2Proof.Machine.execLinkResetRequest req lane v s
  | .linkUp lane rate addr => Sys2Proof.Machine.execLinkUp lane rate addr s
  | .linkResetTimeout lane => Sys2Proof.Machine.execLinkResetTimeout lane s
  | .codewordUncorrectable lane corrected uncorrectable frame => Sys2Proof.Machine.execCodewordUncorrectable lane corrected uncorrectable frame s
  | .frameAck lane => Sys2Proof.Machine.execFrameAck lane s
  | .frameNak lane => Sys2Proof.Machine.execFrameNak lane s
  | .ackNakTimeout lane => Sys2Proof.Machine.execAckNakTimeout lane s
  | .openConnection lane addr => Sys2Proof.Machine.execOpenConnection lane addr s
  | .hardReset lane => Sys2Proof.Machine.execHardReset lane s
  | .nexusLoss n => Sys2Proof.Machine.execNexusLoss n s
  | .powerStateRequest lane state => Sys2Proof.Machine.execPowerStateRequest lane state s
  | .powerDisable highUs => Sys2Proof.Machine.execPowerDisable highUs s
  | .commandFrame lane n f => Sys2Proof.Machine.execCommandFrame lane n f s
  | .fastPathDecode lutBad haz => Sys2Proof.Machine.execFastPathDecode lutBad haz s
  | .hostBufferAlloc => Sys2Proof.Machine.execHostBufferAlloc s
  | .xferRdy task => Sys2Proof.Machine.execXferRdy task s
  | .dataFrame lane n tag offset data => Sys2Proof.Machine.execDataFrame lane n tag offset data s
  | .sendData task => Sys2Proof.Machine.execSendData task s
  | .sendResponse task => Sys2Proof.Machine.execSendResponse task s
  | .abortTask lane n f => Sys2Proof.Machine.execAbortTask lane n f s
  | .abortTaskSet lane n f => Sys2Proof.Machine.execAbortTaskSet lane n f s
  | .clearTaskSet lane n f => Sys2Proof.Machine.execClearTaskSet lane n f s
  | .logicalUnitReset lane n f => Sys2Proof.Machine.execLogicalUnitReset lane n f s
  | .iTNexusReset lane n f => Sys2Proof.Machine.execITNexusReset lane n f s
  | .queryTask lane n f => Sys2Proof.Machine.execQueryTask lane n f s
  | .queryTaskSet lane n f => Sys2Proof.Machine.execQueryTaskSet lane n f s
  | .queryAsynchronousEvent lane n f => Sys2Proof.Machine.execQueryAsynchronousEvent lane n f s
  | .tmFunctionNotSupported lane n code f => Sys2Proof.Machine.execTmFunctionNotSupported lane n code f s
  | .svcDataIn req core v => Sys2Proof.Machine.execSvcDataIn req core v s
  | .svcDataOut req core v => Sys2Proof.Machine.execSvcDataOut req core v s
  | .svcRespond req core v => Sys2Proof.Machine.execSvcRespond req core v s
  | .svcDone core => Sys2Proof.Machine.execSvcDone core s
  | .uaCtrl req v => Sys2Proof.Machine.execUaCtrl req v s
  | .luCreate req v => Sys2Proof.Machine.execLuCreate req v s
  | .luDelete req v => Sys2Proof.Machine.execLuDelete req v s
  | .luDeleteDone n => Sys2Proof.Machine.execLuDeleteDone n s
  | .luUpdate req v => Sys2Proof.Machine.execLuUpdate req v s
  | .progressCheck => Sys2Proof.Machine.execProgressCheck s
  | .hazEnter req v => Sys2Proof.Machine.execHazEnter req v s
  | .hazRelease req v => Sys2Proof.Machine.execHazRelease req v s
  | .fwReady => Sys2Proof.Machine.execFwReady s
  | .reserveWrite req reg v => Sys2Proof.Machine.execReserveWrite req reg v s
  | .modeTargetWrite req addr v => Sys2Proof.Machine.execModeTargetWrite req addr v s
  | .idleTimer => Sys2Proof.Machine.execIdleTimer s
  | .levelEntered => Sys2Proof.Machine.execLevelEntered s
  | .levelExit => Sys2Proof.Machine.execLevelExit s
  | .levelExitDone chopMa => Sys2Proof.Machine.execLevelExitDone chopMa s
  | .domainSwitchOn req v => Sys2Proof.Machine.execDomainSwitchOn req v s
  | .domainSwitchOff req v => Sys2Proof.Machine.execDomainSwitchOff req v s
  | .domainFault domain => Sys2Proof.Machine.execDomainFault domain s
  | .safeEnter => Sys2Proof.Machine.execSafeEnter s
  | .safeScan req v chip health => Sys2Proof.Machine.execSafeScan req v chip health s
  | .safePrepare req v => Sys2Proof.Machine.execSafePrepare req v s
  | .safeRestore req v => Sys2Proof.Machine.execSafeRestore req v s
  | .restoreDone badPages => Sys2Proof.Machine.execRestoreDone badPages s
  | .safeRewriteCut req v => Sys2Proof.Machine.execSafeRewriteCut req v s
  | .cutRewritten => Sys2Proof.Machine.execCutRewritten s
  | .safeRelease req v => Sys2Proof.Machine.execSafeRelease req v s
  | .healthTest req v health => Sys2Proof.Machine.execHealthTest req v health s
  | .healthPeriod health => Sys2Proof.Machine.execHealthPeriod health s
  | .safeCmdUnlisted req v => Sys2Proof.Machine.execSafeCmdUnlisted req v s
  | .keyLoad req v => Sys2Proof.Machine.execKeyLoad req v s
  | .keyClear req v => Sys2Proof.Machine.execKeyClear req v s
  | .keyWrap req v => Sys2Proof.Machine.execKeyWrap req v s
  | .keyErase req v => Sys2Proof.Machine.execKeyErase req v s
  | .imageVerify req v => Sys2Proof.Machine.execImageVerify req v s
  | .patchLoad req v => Sys2Proof.Machine.execPatchLoad req v s
  | .measure req v => Sys2Proof.Machine.execMeasure req v s
  | .attest req v => Sys2Proof.Machine.execAttest req v s
  | .debugUnlock req v => Sys2Proof.Machine.execDebugUnlock req v s
  | .rollbackSet req v => Sys2Proof.Machine.execRollbackSet req v s
  | .otpWrite req v => Sys2Proof.Machine.execOtpWrite req v s
  | .genId req v => Sys2Proof.Machine.execGenId req v s
  | .challenge req v => Sys2Proof.Machine.execChallenge req v s
  | .keysCmdUnlisted req v => Sys2Proof.Machine.execKeysCmdUnlisted req v s
  | .keysOpDone => Sys2Proof.Machine.execKeysOpDone s
  | .strokeRelease req v => Sys2Proof.Machine.execStrokeRelease req v s
  | .umpireRecord => Sys2Proof.Machine.execUmpireRecord s
  | .freeze req v => Sys2Proof.Machine.execFreeze req v s
  | .unfreeze req v => Sys2Proof.Machine.execUnfreeze req v s
  | .freezeTimeout => Sys2Proof.Machine.execFreezeTimeout s
  | .umpireClear req v => Sys2Proof.Machine.execUmpireClear req v s
  | .umpireCopy req v => Sys2Proof.Machine.execUmpireCopy req v s
  | .copyDone => Sys2Proof.Machine.execCopyDone s
  | .umpireWindowRead req n parityBad rereadBad => Sys2Proof.Machine.execUmpireWindowRead req n parityBad rereadBad s
  | .chalReq req v => Sys2Proof.Machine.execChalReq req v s
  | .certSubmit req v => Sys2Proof.Machine.execCertSubmit req v s
  | .engineHalt req v => Sys2Proof.Machine.execEngineHalt req v s
  | .halted engine pc => Sys2Proof.Machine.execHalted engine pc s
  | .engineResume req v => Sys2Proof.Machine.execEngineResume req v s
  | .engineStep req v pc => Sys2Proof.Machine.execEngineStep req v pc s
  | .breakpoint engine pc => Sys2Proof.Machine.execBreakpoint engine pc s
  | .regDataAccess req write high v => Sys2Proof.Machine.execRegDataAccess req write high v s
  | .memRead req v o => Sys2Proof.Machine.execMemRead req v o s
  | .memWrite req v o => Sys2Proof.Machine.execMemWrite req v o s
  | .idcode port => Sys2Proof.Machine.execIdcode port s
  | .bypass port bits => Sys2Proof.Machine.execBypass port bits s
  | .samplePreload port capture load => Sys2Proof.Machine.execSamplePreload port capture load s
  | .extest port => Sys2Proof.Machine.execExtest port s
  | .dbgAccess port write addr v o => Sys2Proof.Machine.execDbgAccess port write addr v o s
  | .atbSelect req bus v => Sys2Proof.Machine.execAtbSelect req bus v s
  | .smbusPart => Sys2Proof.Machine.execSmbusPart s
  | .smbusMode => Sys2Proof.Machine.execSmbusMode s
  | .smbusDriveTemp => Sys2Proof.Machine.execSmbusDriveTemp s
  | .smbusCoreTemp deciC => Sys2Proof.Machine.execSmbusCoreTemp deciC s
  | .smbusRigTemp => Sys2Proof.Machine.execSmbusRigTemp s
  | .smbusStatus => Sys2Proof.Machine.execSmbusStatus s
  | .smbusSerial => Sys2Proof.Machine.execSmbusSerial s
  | .smbusNack command write => Sys2Proof.Machine.execSmbusNack command write s
  | .smbusTimeout lowMs => Sys2Proof.Machine.execSmbusTimeout lowMs s
  | .actStretchEnd => Sys2Proof.Machine.execActStretchEnd s
  | .refAnalogSample sample => Sys2Proof.Machine.execRefAnalogSample sample s
  | .lutCmdUnlisted req v => Sys2Proof.Machine.execLutCmdUnlisted req v s
  | .bandCmdUnlisted req v => Sys2Proof.Machine.execBandCmdUnlisted req v s
  | .hazFwCmdUnlisted req v => Sys2Proof.Machine.execHazFwCmdUnlisted req v s
  | .refclkReturn boot => Sys2Proof.Machine.execRefclkReturn boot s
  | .railReturn boot => Sys2Proof.Machine.execRailReturn boot s
  | .safePrepareDone worn health => Sys2Proof.Machine.execSafePrepareDone worn health s
  | .adapterActivation classT4 oscan1 => Sys2Proof.Machine.execAdapterActivation classT4 oscan1 s
  | .adapterReset => Sys2Proof.Machine.execAdapterReset s

end Sys2Proof.Machine
end

