-- ==== Sys2Proof/WellFormed.lean ====
section
/-! DEFINITION. Which commands are well formed: every number that names a part of the device names one that exists in the SH-4840. A
command with another number acts on nothing: its meaning leaves the state, or the bus refuses the page that is not assigned. -/

namespace Sys2Proof

/-- Pages that are assigned (R40). -/
def Page.assigned (p : Nat) : Bool :=
  decide (p ≤ 0x005) || [0x008, 0x009, 0x010, 0x024, 0x028, 0x044, 0x048, 0x070, 0x071, 0x072, 0x073, 0x074, 0x078, 0x079, 0x07A, 0x080,
    0x081, 0x082, 0x08C, 0x08D, 0x090, 0x091, 0x098].contains p
    || (decide (0x011 ≤ p) && decide (p ≤ 0x014)) || (decide (0x020 ≤ p) && decide (p ≤ 0x023))
    || (decide (0x030 ≤ p) && decide (p ≤ 0x043)) || (decide (0x050 ≤ p) && decide (p ≤ 0x059))
    || (decide (0x060 ≤ p) && decide (p ≤ 0x065)) || (decide (0x088 ≤ p) && decide (p ≤ 0x08B))

/-- Pages that hold a tuning block (R209). -/
def Page.tunes (p : Nat) : Bool := p == 0x028 || (decide (0x020 ≤ p) && decide (p ≤ 0x023))

/-- Every number of the command lies in its range. -/
def Instr.wf (i : Instr) : Bool :=
  match i with
  | .fenceDrain _ page .. | .softReset _ page .. | .softResetDone page | .blockDisable _ page .. | .evForce _ page .. |
    .pageLock _ page .. => Page.assigned page
  | .railStartFail _ n => decide (n ≤ 100)
  | .islandClockStop n | .clockRelock n .. | .clockRelockTimeout n => decide (n < 26)
  | .softIrq _ n .. | .timerCompare n | .wdtConfig _ n .. | .wdtKick _ n .. | .watchdog n | .preFwRead _ n .. | .preFwWrite _ n .. |
    .serialFrameDone n .. | .pfaultAssert n .. | .pfaultSettle n .. | .faultStatusPoll n .. | .wedgeSample n .. | .subsample n .. |
    .timingFail n | .positionLost n | .reacquireDone n | .reacquireTimeout n | .rudderGroup n | .seekFail n | .pesWindow n |
    .snsSample n .. | .sensorFault n | .rudderLoad _ n .. | .loadTimeout n | .rudderUnload _ n .. | .rudderRetract _ n .. |
    .rudderClear _ n .. | .rudderCmdUnlisted _ n .. | .parkDetect n .. | .retractTimeout n | .retractCurrentEnd n | .coefLoad _ n .. |
    .coefLoadDone n .. | .coefSwitch _ n .. | .coefSwitched n .. | .runAdmit n | .runAge n | .runEnd n | .lossOfSync n |
    .linkResetRequest _ n .. | .linkResetTimeout n | .codewordUncorrectable n .. | .frameAck n | .frameNak n | .ackNakTimeout n |
    .openConnection n .. | .hardReset n | .svcDataIn _ n .. | .svcDataOut _ n .. | .svcRespond _ n .. | .svcDone n => decide (n < 4)
  | .microcodeFault n .. | .pollTimeout n .. | .ucodeRestoreDone n .. => decide (0x10 ≤ n) && decide (n ≤ 0x34)
  | .bucketLeak n => decide (n < 1152)
  | .targetPop _ n .. | .reserveWrite _ n .. => decide (n < 6)
  | .queuePush _ n .. | .nexusLoss n | .luDeleteDone n => decide (n < 64)
  | .envelopeCheck n | .zoneTableLoad _ n .. | .zoneTableDone n .. | .trackJobStart n | .trackJobEnd n | .relocTableLoad _ n .. |
    .relocTableDone n .. | .rtAdd _ n .. | .swArmWrite _ n .. => decide (n < 16)
  | .wedgeDemod a k _ wedge .. => decide (a < 4) && decide (k < 4) && decide (wedge < 640)
  | .ssFault a k | .onTrack a k | .wfClear a k | .gatePick a k => decide (a < 4) && decide (k < 4)
  | .coupleWord a sender .. => decide (a < 4) && decide (sender < 4)
  | .tuneMode _ page .. | .tuneGo _ page .. | .tuneStop _ page .. | .tuneForce _ page .. | .traceDone page | .sinePointEnd page _ |
    .injectionEnd page => Page.tunes page
  | .sectorRead oar entry .. | .sectorWrite oar entry | .landingAck oar entry => decide (oar < 16) && decide (entry < 2048)
  | .laneDispatch n .. | .decodeEnd n .. | .sliceEnd n .. => decide (n < 12)
  | .ladderTimeout n => decide (n < 512)
  | .reequalise n input => decide (n < 512) && decide (input < 4)
  | .dramInit _ n .. | .initDone n | .srEnter _ n .. | .selfRefresh n | .srExit _ n .. => decide (n < 2)
  | .mr4Poll port rate .. => decide (port < 2) && decide (rate < 32)
  | .xactDone n .. => decide (n < 256)
  | .dirtyReserve task granules => decide (task < 8192) && decide (1 ≤ granules) && decide (granules ≤ 16384)
  | .bandDisableDone n => decide (n < 4096)
  | .stripeWrite n | .stripeRead n | .stripeRepair n | .journalSectorWrite n | .patrolStep n | .reshapeStep n | .umpireWindowRead _ n .. =>
      decide (n < 8)
  | .stripeDone n => decide (n < 2048)
  | .rebuildStep engine band slot => decide (engine < 8) && decide (band < 4096) && decide (slot < 2)
  | .resyncStep engine band => decide (engine < 8) && decide (band < 4096)
  | .linkUp lane rate .. => decide (lane < 4) && decide (rate ≤ 2)
  | .powerStateRequest lane state => decide (lane < 4) && decide (state ≤ 2)
  | .commandFrame lane n .. | .dataFrame lane n .. | .abortTask lane n .. | .abortTaskSet lane n .. | .clearTaskSet lane n .. |
    .logicalUnitReset lane n .. | .iTNexusReset lane n .. | .queryTask lane n .. | .queryTaskSet lane n .. |
    .queryAsynchronousEvent lane n .. => decide (lane < 4) && decide (n < 64)
  | .xferRdy n | .sendData n | .sendResponse n => decide (n < 8192)
  | .tmFunctionNotSupported lane n code .. => decide (lane < 4) && decide (n < 64) && decide (code < 256)
  | .domainFault n => decide (n < 20)
  | .halted n .. | .breakpoint n .. => decide (1 ≤ n) && decide (n ≤ 0x34)
  | .registerWrite .. | .busTimeout .. | .latchedRead .. | .fenceDrainDone .. | .claim .. | .release .. | .devReset .. | .resetN .. |
    .powerOn .. | .railLow .. | .refclkLoss .. | .uartContainer .. | .refGlitch | .eventMessage | .critRead .. | .critWrite .. |
    .critSweep .. | .queuePop .. | .queueAgePromote .. | .flush .. | .flushTakesEffect .. | .pointerMismatch .. | .queueResetDone .. |
    .fwQueuePush .. | .fwQueuePop .. | .bridgeFrame .. | .riggerFrameTimeout .. | .bridgeResume .. | .rigFault .. | .pwrFail .. |
    .nandProgramDone .. | .dumpDone | .busCollapse .. | .powerReturn .. | .supplyWarn .. | .keelRun .. | .keelStop .. | .keelCoast .. |
    .chopTest .. | .keelResume .. | .keelCmdUnlisted .. | .spdTargetWrite .. | .refEnable .. | .pwmPeriod .. | .spindleLocked |
    .phaseWord .. | .csMismatch | .csCheck | .observerHandover | .openLoopTimeout | .spinupFail | .estimateLost | .reacqOk | .reacqFail |
    .shortBrake | .stopped .. | .genFloor | .reserveUpdate .. | .refEdge .. | .refLost | .chopEngage .. | .chopRelease .. | .chopFault .. |
    .vCritTrip .. | .clearTrip .. | .threshWrite .. | .discover .. | .discoveryDone .. | .actuatorRetire .. | .tempUpdate .. |
    .tliUpdate .. | .calLoad .. | .calLoadDone .. | .shockHoldEnd | .laneEnWrite .. | .ucodeWordWrite .. | .ucodeCommit .. | .xactRead .. |
    .xactWrite .. | .xactCopy .. | .xactFill .. | .xactMerge .. | .dirtyGrant | .dirtyAdjReserve .. | .dirtyAdjRelease .. |
    .dirtyLimitWrite .. | .wbRequestWrite .. | .wbActivate | .cacheAccess .. | .lockMaskWrite .. | .rangeClean .. | .rangeInvalidate .. |
    .rangeCleanInvalidate .. | .rangeZero .. | .rangeLockFill .. | .rangeStop .. | .rangeDone .. | .scrubStep .. | .scrubLogClear .. |
    .bandEnable .. | .bandDisable .. | .bandStart .. | .bandPause .. | .bandResync .. | .bandReshape .. | .bandCommit .. | .journalWritten |
    .jrnlStart .. | .jrnlClose .. | .jrnlClosed | .jrnlReplay .. | .replayDone | .memberFailWrite .. | .reshapeSwitch | .powerDisable .. |
    .fastPathDecode .. | .hostBufferAlloc | .uaCtrl .. | .luCreate .. | .luDelete .. | .luUpdate .. | .progressCheck | .hazEnter .. |
    .hazRelease .. | .fwReady | .modeTargetWrite .. | .idleTimer | .levelEntered | .levelExit | .levelExitDone .. | .domainSwitchOn .. |
    .domainSwitchOff .. | .safeEnter | .safeScan .. | .safePrepare .. | .safeRestore .. | .restoreDone .. | .safeRewriteCut .. |
    .cutRewritten | .safeRelease .. | .healthTest .. | .healthPeriod .. | .safeCmdUnlisted .. | .keyLoad .. | .keyClear .. | .keyWrap .. |
    .keyErase .. | .imageVerify .. | .patchLoad .. | .measure .. | .attest .. | .debugUnlock .. | .rollbackSet .. | .otpWrite .. |
    .genId .. | .challenge .. | .keysCmdUnlisted .. | .keysOpDone | .strokeRelease .. | .umpireRecord | .freeze .. | .unfreeze .. |
    .freezeTimeout | .umpireClear .. | .umpireCopy .. | .copyDone | .chalReq .. | .certSubmit .. | .engineHalt .. | .engineResume .. |
    .engineStep .. | .regDataAccess .. | .memRead .. | .memWrite .. | .idcode .. | .bypass .. | .samplePreload .. | .extest .. |
    .dbgAccess .. | .atbSelect .. | .smbusPart | .smbusMode | .smbusDriveTemp | .smbusCoreTemp .. | .smbusRigTemp | .smbusStatus |
    .smbusSerial | .smbusNack .. | .smbusTimeout .. | .actStretchEnd | .refAnalogSample .. | .lutCmdUnlisted .. | .bandCmdUnlisted .. |
    .hazFwCmdUnlisted .. | .refclkReturn .. | .railReturn .. | .safePrepareDone .. | .adapterActivation .. | .adapterReset => true

end Sys2Proof
end

