-- ==== Sys2Proof/Safety.lean ====
section
/-! DEFINITION. The terms that claims are stated in: a command that runs, what the bus lets pass, states in canonical form, and what a
command leaves as it was. -/

namespace Sys2Proof.Machine

/-- The command `c` runs in `s`: it answers a next state, and `P` holds of that state. -/
def Runs (c : Instr) (s : State) (P : State → Prop) : Prop := ∃ t, exec c s = .next t ∧ P t

/-- The bus carries an access of `req` to the register at key `k`: the page exists, its domain is on, its clock and for a view of a critical
word that of I1 run, and neither the core die nor the requester is held (R22, R24, R25, R40, R46, R56, R542). -/
def Reaches (req : Requester) (k : Nat) (s : State) : Prop :=
  s.chip.held = none ∧ pagePlace (k / 0x1000) ≠ none ∧ pagePresent s (k / 0x1000) = true ∧ mustHold req k s = false
    ∧ pageOn s (k / 0x1000) = true

/-- A write by `req` of the register at key `k` takes effect: it reaches the page, the requester may write there, and the register is not
an RWL register of a locked page (R42, R47). -/
def Writes (req : Requester) (k : Nat) (s : State) : Prop :=
  Reaches req k s ∧ mayWrite req (k / 0x1000) (k % 0x1000) s = true ∧ (isRwl k && pageLocked (k / 0x1000) s) = false

/-- A read by `req` of the register at key `k` returns what stands there (R42). -/
def ReadsOf (req : Requester) (k : Nat) (s : State) : Prop :=
  Reaches req k s ∧ mayRead req (k / 0x1000) (k % 0x1000) s = true ∧ ¬ (k / 0x1000 = Page.KEYS ∧ req ≠ .cox)

/-- The message goes the fabric's way: it was not latched for the always-on path, and the fabric's domain and clock run (R61, R62, R66). -/
def ByFabric (m : Msg) (s : State) : Prop := m.aon = false ∧ domainOn s 6 = true ∧ isStopped s Page.EVF = false

/-- Every byte of memory reads as before. -/
def SameMemory (s t : State) : Prop := ∀ a, t.byteAt a = s.byteAt a

/-- Every register but those at the keys that satisfy `p` reads as before. -/
def SameRegs (p : Nat → Bool) (s t : State) : Prop := ∀ k, p k = false → t.reg k = s.reg k

/-- The pieces of the state, one for each field but the queue of commands and the part. -/
inductive Piece
  | time | regs | rwlShadow | bus | seen | clocks | strokes | fabric | targets | leaks | crit | queues | ended | stopped | keel | rigger
  | free | safePending | pres | hda | cal | rudders | couple | tunes | oars | sweep | gates | ucode | returned | consumed | mem | checks
  | drams | boat | cache | scrub | crew | slip | power | safe | otp | keys | cryptos | chip | ump | dbg | smbus
  deriving DecidableEq, Repr

/-- Every piece. -/
def Piece.all : List Piece :=
  Piece.time :: Piece.regs :: Piece.rwlShadow :: Piece.bus :: Piece.seen :: Piece.clocks :: Piece.strokes :: Piece.fabric
    :: Piece.targets :: Piece.leaks :: Piece.crit
    :: Piece.queues :: Piece.ended :: Piece.stopped :: Piece.keel :: Piece.rigger :: Piece.free :: Piece.safePending :: Piece.pres
    :: Piece.hda :: Piece.cal :: Piece.rudders :: Piece.couple :: Piece.tunes :: Piece.oars :: Piece.sweep :: Piece.gates :: Piece.ucode
    :: Piece.returned :: Piece.consumed :: Piece.mem :: Piece.checks :: Piece.drams :: Piece.boat :: Piece.cache :: Piece.scrub
    :: Piece.crew :: Piece.slip :: Piece.power :: Piece.safe :: Piece.otp :: Piece.keys :: Piece.cryptos :: Piece.chip :: Piece.ump
    :: Piece.dbg :: Piece.smbus :: []

/-- Every piece but those of `ps`. -/
def allBut (ps : List Piece) : List Piece := Piece.all.filter fun p => !ps.contains p

/-- The piece is the same in both states. -/
def Piece.same (p : Piece) (s t : State) : Prop :=
  match p with
  | .time => t.time = s.time
  | .regs => t.regs = s.regs
  | .rwlShadow => t.rwlShadow = s.rwlShadow
  | .bus => t.bus = s.bus
  | .seen => t.seen = s.seen
  | .clocks => t.clocks = s.clocks
  | .strokes => t.strokes = s.strokes
  | .fabric => t.fabric = s.fabric
  | .targets => t.targets = s.targets
  | .leaks => t.leaks = s.leaks
  | .crit => t.crit = s.crit
  | .queues => t.queues = s.queues
  | .ended => t.ended = s.ended
  | .stopped => t.stopped = s.stopped
  | .keel => t.keel = s.keel
  | .rigger => t.rigger = s.rigger
  | .free => t.free = s.free
  | .safePending => t.safePending = s.safePending
  | .pres => t.pres = s.pres
  | .hda => t.hda = s.hda
  | .cal => t.cal = s.cal
  | .rudders => t.rudders = s.rudders
  | .couple => t.couple = s.couple
  | .tunes => t.tunes = s.tunes
  | .oars => t.oars = s.oars
  | .sweep => t.sweep = s.sweep
  | .gates => t.gates = s.gates
  | .ucode => t.ucode = s.ucode
  | .returned => t.returned = s.returned
  | .consumed => t.consumed = s.consumed
  | .mem => t.mem = s.mem
  | .checks => t.checks = s.checks
  | .drams => t.drams = s.drams
  | .boat => t.boat = s.boat
  | .cache => t.cache = s.cache
  | .scrub => t.scrub = s.scrub
  | .crew => t.crew = s.crew
  | .slip => t.slip = s.slip
  | .power => t.power = s.power
  | .safe => t.safe = s.safe
  | .otp => t.otp = s.otp
  | .keys => t.keys = s.keys
  | .cryptos => t.cryptos = s.cryptos
  | .chip => t.chip = s.chip
  | .ump => t.ump = s.ump
  | .dbg => t.dbg = s.dbg
  | .smbus => t.smbus = s.smbus

/-- Nothing but the pieces `ps` differs: the queue of commands and the part are the same, and so is every other piece. -/
def Within (ps : List Piece) (s t : State) : Prop :=
  t.pending = s.pending ∧ t.part4820 = s.part4820 ∧ ∀ p, p ∉ ps → p.same s t

/-- Memory and the registers are in canonical form: equal contents are equal data. -/
def Canonical (s : State) : Prop := Memory.wf s.mem = true ∧ SMap.wf regReset s.regs = true


/-- What each command may change: the pieces of the state that its effect, with all that follows from it, can reach. -/
def touches : Instr → List Piece
  | .registerWrite _ _ _ _ _ => allBut []
  | .busTimeout _ _ _ => allBut []
  | .latchedRead _ _ _ => [.regs, .bus, .seen, .fabric, .crit, .stopped, .free, .safePending, .dbg]
  | .fenceDrain _ _ _ => [.regs, .bus, .seen, .fabric, .stopped]
  | .fenceDrainDone _ _ => allBut []
  | .softReset _ _ _ => allBut [.time, .rwlShadow, .clocks, .leaks, .consumed, .otp, .smbus]
  | .softResetDone _ => [.regs, .mem, .checks, .cache]
  | .blockDisable _ _ _ => [.regs, .bus, .seen, .fabric, .stopped]
  | .evForce _ _ _ => [.regs, .bus, .seen, .fabric, .stopped]
  | .pageLock _ _ _ => [.regs, .rwlShadow, .bus, .seen, .fabric, .stopped]
  | .claim _ => [.regs, .bus, .seen, .fabric, .stopped, .keel, .hda, .tunes, .oars, .sweep, .mem, .checks, .boat]
  | .release _ _ => [.regs, .bus, .seen, .fabric, .stopped, .keel, .hda, .tunes, .oars, .sweep, .mem, .checks, .boat]
  | .devReset _ _ _ => allBut []
  | .resetN _ _ => allBut []
  | .powerOn _ _ => allBut []
  | .railStartFail _ _ => allBut []
  | .railLow _ _ => allBut []
  | .refclkLoss _ => allBut []
  | .uartContainer _ => [.regs, .seen, .fabric, .crit, .stopped, .mem, .drams, .keys, .chip]
  | .islandClockStop _ => [.regs, .clocks]
  | .clockRelock _ _ => allBut []
  | .clockRelockTimeout _ => allBut [.time, .rwlShadow, .bus, .strokes, .targets, .leaks, .couple, .ucode, .consumed, .drams, .scrub,
      .power, .otp, .dbg, .smbus]
  | .refGlitch => [.regs, .clocks, .seen, .fabric]
  | .softIrq _ _ _ => [.regs, .bus, .seen, .fabric, .stopped]
  | .timerCompare _ => [.strokes]
  | .wdtConfig _ _ _ => [.regs, .bus, .strokes, .seen, .fabric, .stopped]
  | .wdtKick _ _ _ => [.regs, .bus, .strokes, .seen, .fabric, .stopped]
  | .watchdog _ => allBut [.time, .rwlShadow, .bus, .clocks, .strokes, .targets, .leaks, .couple, .ucode, .consumed, .drams, .scrub, .power,
      .otp, .dbg, .smbus]
  | .microcodeFault _ _ _ => allBut [.time, .rwlShadow, .bus, .clocks, .strokes, .targets, .leaks, .couple, .consumed, .drams, .scrub,
      .power, .otp, .dbg, .smbus]
  | .pollTimeout _ _ => allBut [.time, .rwlShadow, .bus, .clocks, .strokes, .targets, .leaks, .couple, .ucode, .consumed, .drams, .scrub,
      .power, .otp, .dbg, .smbus]
  | .eventMessage => [.regs, .seen, .fabric, .targets, .leaks, .stopped, .ump]
  | .bucketLeak _ => [.regs, .leaks]
  | .targetPop _ _ _ => [.regs, .bus, .seen, .fabric, .targets, .stopped]
  | .critRead _ _ _ => [.regs, .bus, .seen, .fabric, .crit, .stopped, .safePending]
  | .critWrite _ _ _ => allBut [.time, .rwlShadow, .strokes, .leaks, .cal, .couple, .consumed, .drams, .cache, .scrub, .safe, .otp, .keys,
      .cryptos, .chip, .ump, .dbg, .smbus]
  | .critSweep _ => [.regs, .seen, .fabric, .crit, .safePending]
  | .queuePush _ _ _ => [.regs, .seen, .fabric, .queues, .ended, .stopped, .oars, .sweep, .gates, .returned, .boat, .slip, .power]
  | .queuePop _ _ => [.regs, .seen, .fabric, .queues, .ended, .stopped, .oars, .sweep, .gates, .returned, .boat, .slip]
  | .queueAgePromote _ => [.regs, .queues]
  | .flush _ _ _ => [.regs, .bus, .seen, .fabric, .queues, .stopped]
  | .flushTakesEffect _ => [.regs, .seen, .fabric, .queues, .ended, .stopped, .hda, .rudders, .oars, .sweep, .gates, .returned, .boat,
      .slip]
  | .pointerMismatch _ => allBut [.time, .rwlShadow, .bus, .clocks, .strokes, .targets, .leaks, .keel, .couple, .ucode, .consumed, .drams,
      .scrub, .power, .otp, .dbg, .smbus]
  | .queueResetDone _ => [.regs, .seen, .fabric, .queues, .ended, .stopped, .oars, .sweep, .gates, .returned, .boat, .slip]
  | .fwQueuePush _ _ _ => [.regs, .bus, .seen, .fabric, .queues, .ended, .stopped, .oars, .sweep, .gates, .returned, .boat, .slip]
  | .fwQueuePop _ _ _ => [.regs, .bus, .seen, .fabric, .queues, .ended, .stopped, .oars, .sweep, .gates, .returned, .boat, .slip]
  | .bridgeFrame _ _ _ => [.regs, .seen, .fabric, .stopped, .keel, .rigger, .safePending, .hda, .rudders, .tunes, .oars, .sweep, .mem,
      .checks, .boat]
  | .riggerFrameTimeout _ => [.regs, .seen, .fabric, .stopped, .rigger, .hda, .rudders, .tunes, .oars, .mem, .checks, .boat]
  | .bridgeResume _ _ => [.regs, .bus, .seen, .fabric, .stopped, .rigger]
  | .rigFault _ => [.regs, .seen, .fabric, .stopped, .keel, .rigger, .hda, .tunes, .oars, .sweep, .mem, .checks, .boat]
  | .pwrFail _ _ _ => allBut [.time, .rwlShadow, .bus, .leaks, .consumed, .otp, .smbus]
  | .nandProgramDone _ => [.regs, .seen, .fabric, .crit, .stopped, .keel, .rigger, .safePending, .tunes, .boat, .power, .safe, .chip]
  | .dumpDone => [.regs, .seen, .fabric, .crit, .keel, .rigger, .safePending, .tunes, .boat, .power, .safe, .chip]
  | .busCollapse _ => allBut []
  | .powerReturn _ _ _ _ _ => allBut []
  | .supplyWarn _ _ => [.regs, .seen, .fabric, .power]
  | .keelRun _ _ _ _ => [.regs, .bus, .seen, .fabric, .stopped, .keel, .rigger, .hda, .tunes, .oars, .sweep, .mem, .checks, .boat]
  | .keelStop _ _ => [.regs, .bus, .seen, .fabric, .stopped, .keel, .rigger, .hda, .tunes, .oars, .sweep, .mem, .checks, .boat]
  | .keelCoast _ _ => [.regs, .bus, .seen, .fabric, .stopped, .keel, .rigger, .hda, .tunes, .oars, .sweep, .mem, .checks, .boat]
  | .chopTest _ _ _ => [.regs, .bus, .seen, .fabric, .stopped, .keel, .rigger, .hda, .tunes, .oars, .sweep, .mem, .checks, .boat]
  | .keelResume _ _ => [.regs, .bus, .seen, .fabric, .stopped, .keel, .rigger, .hda, .tunes, .oars, .sweep, .mem, .checks, .boat]
  | .keelCmdUnlisted _ _ => [.regs, .bus, .seen, .fabric, .stopped, .keel, .rigger, .hda, .tunes, .oars, .sweep, .mem, .checks, .boat]
  | .spdTargetWrite _ _ _ => [.regs, .bus, .seen, .fabric, .crit, .stopped, .keel, .rigger, .hda, .tunes, .oars, .sweep, .mem, .checks,
      .boat]
  | .refEnable _ _ => [.regs, .bus, .seen, .fabric, .stopped, .keel, .hda, .tunes, .oars, .sweep, .mem, .checks, .boat]
  | .pwmPeriod _ => [.regs, .seen, .fabric, .stopped, .keel, .rigger, .hda, .tunes, .oars, .sweep, .mem, .checks, .boat]
  | .spindleLocked => [.regs, .seen, .fabric, .keel]
  | .phaseWord _ _ => [.regs, .keel, .tunes]
  | .csMismatch => [.keel]
  | .csCheck => [.regs, .seen, .fabric, .stopped, .keel]
  | .observerHandover => [.regs, .seen, .fabric, .keel, .rigger, .tunes]
  | .openLoopTimeout => [.regs, .seen, .fabric, .stopped, .keel, .rigger, .tunes]
  | .spinupFail => [.regs, .seen, .fabric, .stopped, .keel, .rigger, .hda, .tunes, .oars, .sweep, .mem, .checks, .boat]
  | .estimateLost => [.regs, .seen, .fabric, .stopped, .keel, .rigger, .hda, .tunes, .oars, .sweep, .mem, .checks, .boat]
  | .reacqOk => [.regs, .seen, .fabric, .keel, .rigger, .tunes]
  | .reacqFail => [.regs, .seen, .fabric, .stopped, .keel, .rigger, .safePending, .hda, .rudders, .tunes, .oars, .sweep, .mem, .checks,
      .boat]
  | .shortBrake => [.regs, .seen, .fabric, .rigger, .tunes]
  | .stopped _ => [.regs, .seen, .fabric, .stopped, .keel, .rigger, .hda, .tunes, .oars, .sweep, .mem, .checks, .boat]
  | .genFloor => [.regs, .seen, .fabric, .stopped, .keel, .rigger, .hda, .tunes, .oars, .sweep, .mem, .checks, .boat]
  | .reserveUpdate _ => [.regs, .seen, .fabric, .crit, .keel, .safePending, .boat, .power]
  | .refEdge _ _ _ => [.regs, .seen, .fabric, .keel]
  | .refLost => [.regs, .seen, .fabric, .keel]
  | .chopEngage _ => [.rigger]
  | .chopRelease _ => [.rigger]
  | .chopFault _ _ => [.rigger]
  | .vCritTrip _ => [.rigger]
  | .clearTrip _ _ => [.regs, .bus, .seen, .fabric, .stopped, .rigger]
  | .threshWrite _ _ _ => [.regs, .bus, .seen, .fabric, .crit, .stopped]
  | .preFwRead _ _ _ => [.regs, .bus, .seen, .fabric, .stopped, .pres]
  | .preFwWrite _ _ _ => [.regs, .bus, .seen, .fabric, .stopped, .pres]
  | .serialFrameDone _ _ _ => [.regs, .seen, .fabric, .crit, .queues, .ended, .stopped, .rigger, .safePending, .pres, .hda, .rudders,
      .tunes, .oars, .sweep, .gates, .returned, .mem, .checks, .boat, .crew, .slip]
  | .pfaultAssert _ _ => [.regs, .seen, .fabric, .stopped, .pres, .hda, .oars, .mem, .checks, .boat]
  | .pfaultSettle _ _ _ => [.regs, .seen, .fabric, .crit, .queues, .ended, .stopped, .rigger, .safePending, .pres, .hda, .rudders, .tunes,
      .oars, .sweep, .gates, .returned, .mem, .checks, .boat, .crew, .slip]
  | .faultStatusPoll _ _ => [.regs, .seen, .fabric, .stopped, .pres, .hda, .oars, .mem, .checks, .boat]
  | .discover _ _ => [.regs, .bus, .clocks, .seen, .fabric, .targets, .stopped, .free, .hda, .ucode]
  | .discoveryDone _ => allBut [.time, .rwlShadow, .bus, .leaks, .consumed, .otp, .chip, .smbus]
  | .actuatorRetire _ _ _ => [.regs, .bus, .seen, .fabric, .crit, .queues, .ended, .stopped, .rigger, .safePending, .pres, .hda, .rudders,
      .tunes, .oars, .sweep, .gates, .returned, .mem, .checks, .boat, .crew, .slip]
  | .tempUpdate _ _ => [.regs, .seen, .fabric, .stopped, .hda]
  | .tliUpdate _ => [.regs, .hda]
  | .calLoad _ _ => [.regs, .bus, .seen, .fabric, .stopped, .cal]
  | .calLoadDone _ => [.regs, .seen, .fabric, .stopped, .cal, .checks, .boat]
  | .envelopeCheck _ => [.regs, .seen, .fabric, .stopped, .pres, .cal, .oars]
  | .wedgeDemod _ _ _ _ _ _ => [.free, .rudders]
  | .wedgeSample _ _ => [.regs, .seen, .fabric, .stopped, .keel, .rigger, .free, .hda, .rudders, .tunes, .oars, .sweep, .mem, .checks,
      .boat]
  | .subsample _ _ => [.regs, .seen, .fabric, .stopped, .rigger, .hda, .rudders, .tunes, .oars, .sweep, .mem, .checks, .boat]
  | .ssFault _ _ => [.regs, .seen, .fabric, .stopped, .rudders]
  | .timingFail _ => [.regs, .seen, .fabric, .stopped, .rigger, .hda, .rudders, .tunes, .oars, .mem, .checks, .boat]
  | .positionLost _ => [.regs, .seen, .fabric, .stopped, .rigger, .hda, .rudders, .tunes, .oars, .sweep, .mem, .checks, .boat]
  | .reacquireDone _ => [.regs, .seen, .fabric, .stopped, .hda, .rudders, .tunes, .oars, .sweep, .mem, .checks, .boat]
  | .reacquireTimeout _ => [.regs, .seen, .fabric, .stopped, .rigger, .hda, .rudders, .tunes, .oars, .mem, .checks, .boat]
  | .rudderGroup _ => [.regs, .seen, .fabric, .queues, .ended, .stopped, .rigger, .free, .pres, .hda, .rudders, .tunes, .oars, .sweep,
      .gates, .returned, .mem, .checks, .boat]
  | .onTrack _ _ => [.regs, .seen, .fabric, .stopped, .rigger, .free, .hda, .rudders, .tunes, .oars, .sweep, .mem, .checks, .boat]
  | .seekFail _ => [.regs, .seen, .fabric, .stopped, .rigger, .free, .hda, .rudders, .tunes, .oars, .sweep, .mem, .checks, .boat]
  | .wfClear _ _ => [.regs, .rudders]
  | .pesWindow _ => [.regs, .seen, .fabric, .rudders]
  | .coupleWord _ _ _ _ _ => [.regs, .seen, .fabric, .stopped, .rudders]
  | .snsSample _ _ => [.regs, .seen, .fabric, .stopped, .hda, .rudders, .couple, .tunes, .oars, .mem, .checks, .boat]
  | .shockHoldEnd => [.regs, .seen, .fabric]
  | .sensorFault _ => [.regs, .seen, .fabric, .stopped]
  | .rudderLoad _ _ _ => [.regs, .bus, .seen, .fabric, .stopped, .rigger, .pres, .hda, .rudders, .tunes, .oars, .mem, .checks, .boat]
  | .loadTimeout _ => [.regs, .seen, .fabric, .stopped, .rigger, .hda, .rudders, .tunes, .oars, .mem, .checks, .boat]
  | .rudderUnload _ _ _ => [.regs, .bus, .seen, .fabric, .stopped, .rigger, .pres, .hda, .rudders, .tunes, .oars, .mem, .checks, .boat]
  | .rudderRetract _ _ _ => [.regs, .bus, .seen, .fabric, .stopped, .rigger, .pres, .hda, .rudders, .tunes, .oars, .mem, .checks, .boat]
  | .rudderClear _ _ _ => [.regs, .bus, .seen, .fabric, .stopped, .rigger, .pres, .hda, .rudders, .tunes, .oars, .mem, .checks, .boat]
  | .rudderCmdUnlisted _ _ _ => [.regs, .bus, .seen, .fabric, .stopped, .rigger, .pres, .hda, .rudders, .tunes, .oars, .mem, .checks, .boat]
  | .parkDetect _ _ _ => allBut [.time, .rwlShadow, .bus, .leaks, .consumed, .otp, .chip, .smbus]
  | .retractTimeout _ => [.regs, .seen, .fabric, .rigger, .rudders, .tunes]
  | .retractCurrentEnd _ => allBut [.time, .rwlShadow, .bus, .leaks, .consumed, .otp, .chip, .smbus]
  | .coefLoad _ _ _ => [.regs, .bus, .seen, .fabric, .stopped, .rudders]
  | .coefLoadDone _ _ => [.regs, .seen, .fabric, .stopped, .rudders, .checks, .boat]
  | .coefSwitch _ _ _ => [.regs, .bus, .seen, .fabric, .stopped, .rudders]
  | .coefSwitched _ _ => [.regs, .seen, .fabric, .stopped, .rigger, .hda, .rudders, .tunes, .oars, .sweep, .mem, .checks, .boat]
  | .tuneMode _ _ _ => [.regs, .bus, .seen, .fabric, .stopped, .tunes]
  | .tuneGo _ _ _ => [.regs, .bus, .seen, .fabric, .stopped, .tunes]
  | .tuneStop _ _ _ => [.regs, .bus, .seen, .fabric, .stopped, .tunes]
  | .tuneForce _ _ _ => [.regs, .bus, .seen, .fabric, .stopped, .tunes]
  | .traceDone _ => [.regs]
  | .sinePointEnd _ _ => [.regs, .tunes]
  | .injectionEnd _ => [.regs, .tunes]
  | .sectorRead _ _ _ => [.regs, .seen, .fabric, .queues, .ended, .stopped, .pres, .hda, .rudders, .oars, .sweep, .gates, .returned,
      .consumed, .mem, .checks, .boat, .cryptos]
  | .sectorWrite _ _ => [.regs, .seen, .fabric, .queues, .ended, .stopped, .pres, .hda, .rudders, .oars, .sweep, .gates, .returned,
      .consumed, .mem, .checks, .boat, .cryptos]
  | .zoneTableLoad _ _ _ => [.regs, .bus, .seen, .fabric, .stopped, .oars]
  | .zoneTableDone _ _ => [.regs, .seen, .fabric, .stopped, .oars, .checks, .boat]
  | .laneDispatch _ _ => [.regs, .seen, .fabric, .queues, .ended, .stopped, .hda, .rudders, .oars, .sweep, .returned, .consumed, .mem,
      .checks, .boat]
  | .decodeEnd _ _ => allBut [.time, .rwlShadow, .bus, .clocks, .strokes, .targets, .leaks, .couple, .ucode, .drams, .scrub, .power, .otp,
      .dbg, .smbus]
  | .sliceEnd _ _ => allBut [.time, .rwlShadow, .bus, .clocks, .strokes, .targets, .leaks, .couple, .ucode, .drams, .scrub, .power, .otp,
      .dbg, .smbus]
  | .reequalise _ _ => [.sweep]
  | .ladderTimeout _ => [.regs, .seen, .fabric, .queues, .ended, .stopped, .oars, .sweep, .gates, .returned, .boat]
  | .laneEnWrite _ _ => [.regs, .bus, .seen, .fabric, .stopped]
  | .runAdmit _ => [.regs, .seen, .fabric, .queues, .ended, .gates, .returned, .boat]
  | .gatePick _ _ => [.regs, .seen, .fabric, .queues, .ended, .stopped, .pres, .rudders, .oars, .sweep, .gates, .returned, .boat]
  | .runAge _ => [.regs, .seen, .fabric, .gates]
  | .trackJobStart _ => [.regs, .seen, .fabric, .queues, .ended, .stopped, .pres, .cal, .oars, .sweep, .returned, .checks, .boat, .cryptos]
  | .landingAck _ _ => [.regs, .seen, .fabric, .queues, .ended, .stopped, .pres, .oars, .sweep, .gates, .returned, .mem, .checks, .boat,
      .cryptos]
  | .trackJobEnd _ => [.regs, .seen, .fabric, .queues, .ended, .stopped, .hda, .rudders, .oars, .sweep, .returned, .consumed, .mem, .checks,
      .boat]
  | .runEnd _ => [.regs, .seen, .fabric, .queues, .ended, .stopped, .pres, .rudders, .oars, .sweep, .gates, .returned, .boat]
  | .relocTableLoad _ _ _ => [.regs, .bus, .seen, .fabric, .stopped, .oars]
  | .relocTableDone _ _ => [.regs, .seen, .fabric, .stopped, .oars, .checks, .boat]
  | .rtAdd _ _ _ => [.regs, .bus, .seen, .fabric, .stopped, .oars]
  | .swArmWrite _ _ _ => [.regs, .bus, .seen, .fabric, .stopped]
  | .ucodeWordWrite _ _ => [.regs, .bus, .seen, .fabric, .stopped, .ucode]
  | .ucodeCommit _ _ => [.regs, .bus, .seen, .fabric, .stopped, .ucode]
  | .ucodeRestoreDone _ _ => allBut [.time, .rwlShadow, .bus, .clocks, .strokes, .targets, .leaks, .couple, .consumed, .drams, .scrub,
      .power, .otp, .dbg, .smbus]
  | .dramInit _ _ _ _ => [.regs, .bus, .seen, .fabric, .stopped, .drams]
  | .initDone _ => [.regs, .seen, .fabric, .stopped, .mem, .checks, .scrub]
  | .srEnter _ _ _ => [.regs, .bus, .seen, .fabric, .stopped, .drams]
  | .selfRefresh _ => [.regs, .seen, .fabric, .drams]
  | .srExit _ _ _ => [.regs, .bus, .seen, .fabric, .stopped, .drams]
  | .mr4Poll _ _ _ => [.regs, .seen, .fabric, .stopped, .drams]
  | .xactRead _ _ => [.regs, .seen, .fabric, .queues, .ended, .stopped, .returned, .mem, .checks, .boat]
  | .xactWrite _ _ => [.regs, .seen, .fabric, .queues, .ended, .returned, .mem, .checks, .boat]
  | .xactCopy _ _ => [.regs, .seen, .fabric, .queues, .ended, .stopped, .returned, .mem, .checks, .boat]
  | .xactFill _ => [.regs, .seen, .fabric, .queues, .ended, .returned, .mem, .checks, .boat]
  | .xactMerge _ _ _ => [.regs, .seen, .fabric, .queues, .ended, .stopped, .returned, .mem, .checks, .boat]
  | .xactDone _ _ => [.regs, .seen, .fabric, .returned, .boat]
  | .dirtyReserve _ _ => [.regs, .seen, .fabric, .boat]
  | .dirtyGrant => [.regs, .boat]
  | .dirtyAdjReserve _ _ => [.regs, .bus, .seen, .fabric, .stopped]
  | .dirtyAdjRelease _ _ => [.regs, .bus, .seen, .fabric, .stopped]
  | .dirtyLimitWrite _ _ _ => [.regs, .bus, .seen, .fabric, .crit, .stopped, .safePending, .boat, .power]
  | .wbRequestWrite _ _ _ => [.regs, .bus, .seen, .fabric, .crit, .stopped, .safePending, .boat, .power]
  | .wbActivate => [.regs, .seen, .fabric, .crit, .safePending]
  | .cacheAccess _ _ _ _ _ _ _ => allBut [.time, .rwlShadow, .clocks, .strokes, .targets, .leaks, .couple, .ucode, .consumed, .drams,
      .scrub, .power, .otp, .dbg, .smbus]
  | .lockMaskWrite _ _ => [.regs, .bus, .seen, .fabric, .stopped]
  | .rangeClean _ _ => [.regs, .bus, .seen, .fabric, .stopped, .mem, .checks, .boat, .cache]
  | .rangeInvalidate _ _ => [.regs, .bus, .seen, .fabric, .stopped, .mem, .checks, .boat, .cache]
  | .rangeCleanInvalidate _ _ => [.regs, .bus, .seen, .fabric, .stopped, .mem, .checks, .boat, .cache]
  | .rangeZero _ _ => [.regs, .bus, .seen, .fabric, .stopped, .mem, .checks, .boat, .cache]
  | .rangeLockFill _ _ => [.regs, .bus, .seen, .fabric, .stopped, .mem, .checks, .boat, .cache]
  | .rangeStop _ _ => [.regs, .bus, .seen, .fabric, .stopped, .mem, .checks, .boat, .cache]
  | .rangeDone _ => allBut [.time, .rwlShadow, .bus, .clocks, .strokes, .targets, .leaks, .couple, .ucode, .consumed, .drams, .scrub,
      .power, .otp, .dbg, .smbus]
  | .scrubStep _ _ => [.regs, .seen, .fabric, .stopped, .mem, .checks, .boat, .scrub]
  | .scrubLogClear _ _ => [.regs, .bus, .seen, .fabric, .stopped, .scrub]
  | .bandEnable _ _ => [.regs, .bus, .seen, .fabric, .stopped, .checks, .boat, .crew]
  | .bandDisable _ _ => [.regs, .bus, .seen, .fabric, .stopped, .crew]
  | .bandDisableDone _ => [.regs, .crew]
  | .bandStart _ _ => [.regs, .bus, .seen, .fabric, .stopped, .mem, .checks, .boat, .crew]
  | .bandPause _ _ => [.regs, .bus, .seen, .fabric, .stopped, .crew]
  | .bandResync _ _ => [.regs, .bus, .seen, .fabric, .stopped, .mem, .checks, .boat, .crew]
  | .bandReshape _ _ => [.regs, .bus, .seen, .fabric, .crit, .stopped, .checks, .boat, .crew]
  | .bandCommit _ _ => [.regs, .bus, .seen, .fabric, .crit, .stopped, .mem, .checks, .boat, .crew]
  | .stripeWrite _ => [.regs, .seen, .fabric, .crit, .queues, .ended, .stopped, .free, .safePending, .oars, .sweep, .gates, .returned,
      .consumed, .mem, .checks, .boat, .crew, .cryptos]
  | .stripeRead _ => [.regs, .seen, .fabric, .crit, .queues, .ended, .stopped, .free, .safePending, .oars, .sweep, .gates, .returned,
      .consumed, .mem, .checks, .boat, .crew, .cryptos]
  | .stripeRepair _ => [.regs, .seen, .fabric, .crit, .queues, .ended, .stopped, .free, .safePending, .oars, .sweep, .gates, .returned,
      .consumed, .mem, .checks, .boat, .crew, .cryptos]
  | .stripeDone _ => [.regs, .seen, .fabric, .crit, .queues, .ended, .stopped, .free, .safePending, .returned, .consumed, .mem, .checks,
      .boat, .crew, .slip, .cryptos]
  | .journalSectorWrite _ => [.regs, .seen, .fabric, .crit, .queues, .ended, .stopped, .safePending, .returned, .mem, .checks, .boat, .crew]
  | .journalWritten => [.regs, .seen, .fabric, .crit, .queues, .ended, .stopped, .safePending, .returned, .consumed, .boat, .crew]
  | .jrnlStart _ _ => [.regs, .bus, .seen, .fabric, .crit, .stopped, .safePending, .crew]
  | .jrnlClose _ _ => [.regs, .bus, .seen, .fabric, .stopped, .crew]
  | .jrnlClosed => [.regs, .seen, .fabric, .crit, .safePending, .crew]
  | .jrnlReplay _ _ => [.regs, .bus, .seen, .fabric, .queues, .ended, .stopped, .returned, .boat, .crew]
  | .replayDone => [.regs, .seen, .fabric, .crit, .queues, .ended, .stopped, .free, .safePending, .oars, .sweep, .gates, .returned,
      .consumed, .mem, .checks, .boat, .crew, .cryptos]
  | .memberFailWrite _ _ _ => [.regs, .bus, .seen, .fabric, .crit, .queues, .ended, .stopped, .safePending, .oars, .sweep, .gates,
      .returned, .mem, .checks, .boat, .crew]
  | .rebuildStep _ _ _ => [.regs, .seen, .fabric, .crit, .queues, .ended, .stopped, .free, .safePending, .oars, .sweep, .gates, .returned,
      .consumed, .mem, .checks, .boat, .crew, .cryptos]
  | .resyncStep _ _ => [.regs, .seen, .fabric, .crit, .queues, .ended, .stopped, .free, .safePending, .oars, .sweep, .gates, .returned,
      .consumed, .mem, .checks, .boat, .crew, .cryptos]
  | .patrolStep _ => [.regs, .seen, .fabric, .crit, .queues, .ended, .stopped, .free, .safePending, .oars, .sweep, .gates, .returned,
      .consumed, .mem, .checks, .boat, .crew, .cryptos]
  | .reshapeStep _ => [.regs, .seen, .fabric, .crit, .queues, .ended, .stopped, .free, .safePending, .oars, .sweep, .gates, .returned,
      .consumed, .mem, .checks, .boat, .crew, .cryptos]
  | .reshapeSwitch => [.regs, .seen, .fabric, .crit, .queues, .ended, .stopped, .free, .safePending, .returned, .mem, .checks, .boat, .crew,
      .slip, .cryptos]
  | .lossOfSync _ => [.regs, .slip]
  | .linkResetRequest _ _ _ => [.regs, .bus, .seen, .fabric, .stopped, .slip]
  | .linkUp _ _ _ => [.regs, .seen, .fabric, .slip]
  | .linkResetTimeout _ => [.regs, .seen, .fabric, .stopped, .mem, .checks, .boat, .slip]
  | .codewordUncorrectable _ _ _ _ => [.regs, .seen, .fabric, .slip]
  | .frameAck _ => [.regs, .seen, .fabric, .queues, .ended, .stopped, .free, .returned, .mem, .checks, .boat, .slip, .cryptos]
  | .frameNak _ => [.regs, .seen, .fabric, .queues, .ended, .stopped, .free, .returned, .mem, .checks, .boat, .slip, .cryptos]
  | .ackNakTimeout _ => [.regs, .seen, .fabric, .queues, .ended, .stopped, .free, .returned, .mem, .checks, .boat, .slip, .cryptos]
  | .openConnection _ _ => [.regs, .seen, .fabric, .stopped, .mem, .checks, .boat, .slip]
  | .hardReset _ => [.regs, .seen, .fabric, .queues, .ended, .stopped, .free, .returned, .mem, .checks, .boat, .slip, .cryptos]
  | .nexusLoss _ => [.regs, .seen, .fabric, .queues, .ended, .stopped, .free, .returned, .mem, .checks, .boat, .slip, .cryptos]
  | .powerStateRequest _ _ => [.regs, .seen, .fabric]
  | .powerDisable _ => allBut [.time, .rwlShadow, .bus, .leaks, .consumed, .otp, .smbus]
  | .commandFrame _ _ _ => [.regs, .seen, .fabric, .queues, .ended, .stopped, .free, .returned, .mem, .checks, .boat, .slip, .cryptos]
  | .fastPathDecode _ _ => [.regs, .seen, .fabric, .queues, .ended, .stopped, .free, .safePending, .returned, .mem, .checks, .boat, .slip,
      .power, .cryptos]
  | .hostBufferAlloc => [.regs, .seen, .fabric, .queues, .ended, .stopped, .free, .returned, .mem, .checks, .boat, .slip, .cryptos]
  | .xferRdy _ => [.regs, .seen, .fabric, .queues, .ended, .stopped, .free, .returned, .mem, .checks, .boat, .slip, .cryptos]
  | .dataFrame _ _ _ _ _ => [.regs, .seen, .fabric, .queues, .ended, .stopped, .free, .returned, .mem, .checks, .boat, .slip, .cryptos]
  | .sendData _ => [.regs, .seen, .fabric, .queues, .ended, .stopped, .free, .returned, .mem, .checks, .boat, .slip, .cryptos]
  | .sendResponse _ => [.regs, .seen, .fabric, .queues, .ended, .stopped, .free, .returned, .mem, .checks, .boat, .slip, .cryptos]
  | .abortTask _ _ _ => [.regs, .seen, .fabric, .queues, .ended, .stopped, .free, .returned, .mem, .checks, .boat, .slip, .cryptos]
  | .abortTaskSet _ _ _ => [.regs, .seen, .fabric, .queues, .ended, .stopped, .free, .returned, .mem, .checks, .boat, .slip, .cryptos]
  | .clearTaskSet _ _ _ => [.regs, .seen, .fabric, .queues, .ended, .stopped, .free, .returned, .mem, .checks, .boat, .slip, .cryptos]
  | .logicalUnitReset _ _ _ => [.regs, .seen, .fabric, .queues, .ended, .stopped, .free, .returned, .mem, .checks, .boat, .slip, .cryptos]
  | .iTNexusReset _ _ _ => [.regs, .seen, .fabric, .queues, .ended, .stopped, .free, .returned, .mem, .checks, .boat, .slip, .cryptos]
  | .queryTask _ _ _ => [.regs, .seen, .fabric, .queues, .ended, .stopped, .free, .returned, .mem, .checks, .boat, .slip, .cryptos]
  | .queryTaskSet _ _ _ => [.regs, .seen, .fabric, .queues, .ended, .stopped, .free, .returned, .mem, .checks, .boat, .slip, .cryptos]
  | .queryAsynchronousEvent _ _ _ => [.regs, .seen, .fabric, .queues, .ended, .stopped, .free, .returned, .mem, .checks, .boat, .slip,
      .cryptos]
  | .tmFunctionNotSupported _ _ _ _ => [.regs, .seen, .fabric, .queues, .ended, .stopped, .free, .returned, .mem, .checks, .boat, .slip,
      .cryptos]
  | .svcDataIn _ _ _ => [.regs, .bus, .seen, .fabric, .queues, .ended, .stopped, .free, .returned, .mem, .checks, .boat, .slip, .cryptos]
  | .svcDataOut _ _ _ => [.regs, .bus, .seen, .fabric, .queues, .ended, .stopped, .free, .returned, .mem, .checks, .boat, .slip, .cryptos]
  | .svcRespond _ _ _ => [.regs, .bus, .seen, .fabric, .queues, .ended, .stopped, .free, .returned, .mem, .checks, .boat, .slip, .cryptos]
  | .svcDone _ => [.regs, .seen, .fabric, .queues, .ended, .stopped, .free, .returned, .mem, .checks, .boat, .slip, .cryptos]
  | .uaCtrl _ _ => [.regs, .bus, .seen, .fabric, .stopped, .slip]
  | .luCreate _ _ => [.regs, .bus, .seen, .fabric, .crit, .stopped, .checks, .boat, .slip]
  | .luDelete _ _ => [.regs, .bus, .seen, .fabric, .stopped, .slip]
  | .luDeleteDone _ => [.regs, .seen, .fabric, .crit, .queues, .ended, .stopped, .free, .returned, .mem, .checks, .boat, .slip, .cryptos]
  | .luUpdate _ _ => [.regs, .bus, .seen, .fabric, .crit, .stopped, .checks, .boat, .slip]
  | .progressCheck => [.regs, .seen, .fabric, .queues, .ended, .stopped, .free, .returned, .mem, .checks, .boat, .slip, .cryptos]
  | .hazEnter _ _ => [.regs, .bus, .seen, .fabric, .stopped, .slip]
  | .hazRelease _ _ => [.regs, .bus, .seen, .fabric, .queues, .ended, .stopped, .free, .returned, .mem, .checks, .boat, .slip, .cryptos]
  | .fwReady => [.regs, .seen, .fabric, .queues, .ended, .stopped, .free, .returned, .mem, .checks, .boat, .slip, .cryptos]
  | .reserveWrite _ _ _ => [.regs, .bus, .seen, .fabric, .stopped]
  | .modeTargetWrite _ _ _ => [.regs, .bus, .clocks, .seen, .fabric, .targets, .crit, .stopped, .free, .safePending, .ucode, .boat, .power]
  | .idleTimer => [.regs, .seen, .fabric, .power]
  | .levelEntered => allBut [.time, .rwlShadow, .bus, .leaks, .consumed, .otp, .chip, .smbus]
  | .levelExit => [.regs, .clocks, .seen, .fabric, .targets, .stopped, .free, .ucode, .drams, .power]
  | .levelExitDone _ => allBut [.time, .rwlShadow, .bus, .strokes, .leaks, .cal, .couple, .gates, .consumed, .drams, .cache, .scrub, .otp,
      .keys, .chip, .ump, .dbg, .smbus]
  | .domainSwitchOn _ _ => allBut [.time, .rwlShadow, .leaks, .consumed, .otp, .smbus]
  | .domainSwitchOff _ _ => allBut [.time, .rwlShadow, .leaks, .consumed, .otp, .smbus]
  | .domainFault _ => allBut [.time, .rwlShadow, .bus, .leaks, .consumed, .otp, .chip, .smbus]
  | .safeEnter => allBut [.time, .rwlShadow, .bus, .leaks, .consumed, .otp, .chip, .smbus]
  | .safeScan _ _ _ _ => [.regs, .bus, .seen, .fabric, .crit, .stopped, .safePending, .boat, .power, .safe]
  | .safePrepare _ _ => [.regs, .bus, .seen, .fabric, .stopped, .safe]
  | .safeRestore _ _ => [.regs, .bus, .seen, .fabric, .stopped, .safe]
  | .restoreDone _ => [.regs, .seen, .fabric, .crit, .stopped, .free, .safePending, .mem, .checks, .boat, .safe]
  | .safeRewriteCut _ _ => [.regs, .bus, .seen, .fabric, .stopped, .oars, .gates, .safe]
  | .cutRewritten => [.regs, .seen, .fabric, .oars, .gates, .safe]
  | .safeRelease _ _ => [.regs, .bus, .seen, .fabric, .crit, .stopped, .safePending, .boat, .power, .safe]
  | .healthTest _ _ _ => [.regs, .bus, .seen, .fabric, .crit, .stopped, .safePending, .boat, .power, .safe]
  | .healthPeriod _ => [.regs, .seen, .fabric, .crit, .stopped, .safePending, .boat, .power, .safe]
  | .safeCmdUnlisted _ _ => [.regs, .bus, .seen, .fabric, .stopped]
  | .keyLoad _ _ => [.regs, .bus, .seen, .fabric, .stopped, .keys]
  | .keyClear _ _ => [.regs, .bus, .seen, .fabric, .stopped, .keys]
  | .keyWrap _ _ => [.regs, .bus, .seen, .fabric, .stopped, .keys]
  | .keyErase _ _ => [.regs, .bus, .seen, .fabric, .stopped, .keys]
  | .imageVerify _ _ => [.regs, .bus, .seen, .fabric, .stopped, .keys]
  | .patchLoad _ _ => [.regs, .bus, .seen, .fabric, .stopped, .keys]
  | .measure _ _ => [.regs, .bus, .seen, .fabric, .stopped, .keys]
  | .attest _ _ => [.regs, .bus, .seen, .fabric, .stopped, .keys]
  | .debugUnlock _ _ => [.regs, .bus, .seen, .fabric, .stopped, .keys]
  | .rollbackSet _ _ => [.regs, .bus, .seen, .fabric, .stopped, .keys]
  | .otpWrite _ _ => [.regs, .bus, .seen, .fabric, .stopped, .keys]
  | .genId _ _ => [.regs, .bus, .seen, .fabric, .stopped, .keys]
  | .challenge _ _ => [.regs, .bus, .seen, .fabric, .stopped, .keys]
  | .keysCmdUnlisted _ _ => [.regs, .bus, .seen, .fabric, .stopped]
  | .keysOpDone => [.regs, .seen, .fabric, .crit, .stopped, .free, .ucode, .mem, .checks, .boat, .otp, .keys]
  | .strokeRelease _ _ => [.regs, .bus, .clocks, .seen, .fabric, .targets, .stopped, .free, .ucode, .dbg]
  | .umpireRecord => [.regs, .seen, .fabric, .crit, .safePending, .ump]
  | .freeze _ _ => [.regs, .bus, .seen, .fabric, .crit, .stopped, .safePending, .ump]
  | .unfreeze _ _ => [.regs, .bus, .seen, .fabric, .crit, .stopped, .safePending, .ump]
  | .freezeTimeout => [.regs, .seen, .fabric, .crit, .safePending, .ump]
  | .umpireClear _ _ => [.regs, .bus, .seen, .fabric, .crit, .stopped, .safePending, .ump]
  | .umpireCopy _ _ => [.regs, .bus, .seen, .fabric, .crit, .stopped, .safePending, .ump]
  | .copyDone => [.regs, .seen, .fabric, .crit, .stopped, .safePending, .mem, .checks, .boat, .ump]
  | .umpireWindowRead _ _ _ _ => [.regs, .bus, .seen, .fabric, .stopped, .free]
  | .chalReq _ _ => [.regs, .bus, .seen, .fabric, .stopped, .free, .keys]
  | .certSubmit _ _ => [.regs, .bus, .seen, .fabric, .stopped, .free, .keys]
  | .engineHalt _ _ => [.regs, .bus, .seen, .fabric, .stopped, .keel, .rigger, .hda, .rudders, .tunes, .oars, .sweep, .mem, .checks, .boat,
      .dbg]
  | .halted _ _ => [.regs, .strokes, .seen, .fabric, .dbg]
  | .engineResume _ _ => [.regs, .bus, .strokes, .seen, .fabric, .stopped, .dbg]
  | .engineStep _ _ _ => [.regs, .bus, .seen, .fabric, .stopped, .dbg]
  | .breakpoint _ _ => [.regs, .strokes, .seen, .fabric, .dbg]
  | .regDataAccess _ _ _ _ => [.regs, .bus, .seen, .fabric, .stopped, .free, .dbg]
  | .memRead _ _ _ => allBut []
  | .memWrite _ _ _ => allBut []
  | .idcode _ => [.dbg]
  | .bypass _ _ => [.dbg]
  | .samplePreload _ _ _ => [.dbg]
  | .extest _ => [.regs, .seen, .fabric, .dbg]
  | .dbgAccess _ _ _ _ _ => allBut []
  | .atbSelect _ _ _ => [.regs, .bus, .seen, .fabric, .stopped]
  | .smbusPart => [.smbus]
  | .smbusMode => [.smbus]
  | .smbusDriveTemp => [.smbus]
  | .smbusCoreTemp _ => [.smbus]
  | .smbusRigTemp => [.smbus]
  | .smbusStatus => [.smbus]
  | .smbusSerial => [.smbus]
  | .smbusNack _ _ => [.smbus]
  | .smbusTimeout _ => [.smbus]
  | .actStretchEnd => [.slip]
  | .refAnalogSample _ => [.regs, .keel]
  | .lutCmdUnlisted _ _ => [.regs, .bus, .seen, .fabric, .stopped]
  | .bandCmdUnlisted _ _ => [.regs, .bus, .seen, .fabric, .stopped]
  | .hazFwCmdUnlisted _ _ => [.regs, .bus, .seen, .fabric, .stopped]
  | .refclkReturn _ => allBut []
  | .railReturn _ => allBut []
  | .safePrepareDone _ _ => [.regs, .seen, .fabric, .crit, .stopped, .safePending, .boat, .power, .safe]
  | .adapterActivation _ _ => [.dbg]
  | .adapterReset => [.dbg]

/-- A register of SYS in which the record of a refused access stands (R38, R42, R553). -/
def recordsAccess (k : Nat) : Bool :=
  k == Reg.SYS.ERR_INFO || k == Reg.SYS.ERR_ADDR_LO || k == Reg.SYS.ERR_ADDR_HI || k == Reg.SYS.ERR_COUNT || k == Reg.EV_PEND Page.SYS

/-- The page whose registers alone a command may change, beside the record of a refused access: for the commands whose effect stands on one
page. None for the others. -/
def regsPage : Instr → Option Nat
  | .softResetDone p => if p = Page.CACHE then none else some p
  | .blockDisable _ p _ => some p
  | .evForce _ p _ => some p
  | .pageLock _ p _ => some p
  | .fenceDrain _ p _ => some p
  | .softIrq _ c _ => some (Page.STROKE c)
  | .wdtConfig _ c _ => some (Page.STROKE c)
  | .wdtKick _ c _ => some (Page.STROKE c)
  | .islandClockStop _ => some Page.CLK
  | .refGlitch => some Page.CLK
  | .supplyWarn _ _ => some Page.PWR
  | .reserveWrite _ _ _ => some Page.SYS
  | .spindleLocked => some Page.KEEL
  | .phaseWord _ _ => some Page.KEEL
  | .csCheck => some Page.KEEL
  | .refEdge _ _ _ => some Page.KEEL
  | .refLost => some Page.KEEL
  | .refAnalogSample _ => some Page.KEEL
  | .chopRelease _ => some Page.DRV
  | .tempUpdate _ _ => some Page.HDA
  | .tliUpdate _ => some Page.HDA
  | .calLoad _ _ => some Page.CAL
  | .ssFault a _ => some (Page.RUDDER a)
  | .wfClear a _ => some (Page.RUDDER a)
  | .pesWindow a => some (Page.RUDDER a)
  | .coefLoad _ a _ => some (Page.RUDDER a)
  | .coefSwitch _ a _ => some (Page.RUDDER a)
  | .coupleWord _ _ _ _ _ => some Page.COUPLE
  | .sensorFault _ => some Page.COUPLE
  | .traceDone p => some p
  | .sinePointEnd p _ => some p
  | .injectionEnd p => some p
  | .zoneTableLoad _ o _ => some (Page.OAR o)
  | .relocTableLoad _ o _ => some (Page.OAR o)
  | .rtAdd _ o _ => some (Page.OAR o)
  | .swArmWrite _ o _ => some (Page.OAR o)
  | .laneEnWrite _ _ => some Page.SWEEP
  | .runAge a => some (Page.GATE a)
  | .ucodeWordWrite _ _ => some Page.UCODE
  | .ucodeCommit _ _ => some Page.UCODE
  | .dramInit _ n _ _ => some (Page.DRAM n)
  | .srEnter _ n _ => some (Page.DRAM n)
  | .srExit _ n _ => some (Page.DRAM n)
  | .selfRefresh n => some (Page.DRAM n)
  | .mr4Poll n _ _ => some (Page.DRAM n)
  | .dirtyReserve _ _ => some Page.BOAT
  | .dirtyGrant => some Page.BOAT
  | .dirtyAdjReserve _ _ => some Page.BOAT
  | .dirtyAdjRelease _ _ => some Page.BOAT
  | .lockMaskWrite _ _ => some Page.CACHE
  | .scrubLogClear _ _ => some Page.SCRUB
  | .bandDisable _ _ => some Page.CREWG
  | .bandDisableDone _ => some Page.CREWG
  | .bandPause _ _ => some Page.CREWG
  | .bandCmdUnlisted _ _ => some Page.CREWG
  | .jrnlClose _ _ => some Page.JRNL
  | .powerStateRequest n _ => some (Page.SLIP n)
  | .codewordUncorrectable n _ _ _ => some (Page.SLIP n)
  | .uaCtrl _ _ => some Page.SLIPC
  | .luDelete _ _ => some Page.LUT
  | .lutCmdUnlisted _ _ => some Page.LUT
  | .hazEnter _ _ => some Page.HAZ
  | .hazFwCmdUnlisted _ _ => some Page.HAZ
  | .keyLoad _ _ => some Page.KEYS
  | .keyClear _ _ => some Page.KEYS
  | .keyWrap _ _ => some Page.KEYS
  | .keyErase _ _ => some Page.KEYS
  | .imageVerify _ _ => some Page.KEYS
  | .patchLoad _ _ => some Page.KEYS
  | .measure _ _ => some Page.KEYS
  | .attest _ _ => some Page.KEYS
  | .debugUnlock _ _ => some Page.KEYS
  | .rollbackSet _ _ => some Page.KEYS
  | .otpWrite _ _ => some Page.KEYS
  | .genId _ _ => some Page.KEYS
  | .challenge _ _ => some Page.KEYS
  | .keysCmdUnlisted _ _ => some Page.KEYS
  | .queueAgePromote q => some (qPage q)
  | .flush _ q _ => some (qPage q)
  | _ => none

end Sys2Proof.Machine
end

