-- ==== Sys2Proof/Certificates/Slice0/Obligations.lean ====
section
/-! DEFINITION. The statements for the provers: the step and the queue of commands, reset, what every command leaves as it was, the rules of
the bus, of events and errors, of the critical words and the queues; and for every command when it completes and with what result. -/

open Sys2Proof Sys2Proof.Machine

/-- With a command waiting, a step is the effect of the command at the front of the queue on the state with the queue's rest. -/
def Obligations.StepRunsFront : Prop :=
  ∀ (s : State) (c : Instr), step { s with pending := c :: s.pending } = exec c s

/-- With no command waiting, a step is a tick of one nanosecond: where no access waits and no domain is in transition the time base counts,
the power manager looks whether the device is idle, and nothing else changes; a transition that is due ends; and of the accesses that wait,
those whose wait is over are made. That time passes so is the model's choice (log entries 1 and 129). -/
def Obligations.EmptyQueueTicks : Prop :=
  (∀ s : State, s.pending = [] → s.bus.held = [] → s.clocks.transit = [] →
    ∃ t, step s = .next t ∧ t.time = s.time + 1 ∧ Within [.time, .power] s t
      ∧ (∃ q i d, t.power = { s.power with quietSince := q, idleSince := i, deferred := d }))
  ∧ (∀ (s : State) d e, s.pending = [] → s.bus.held = [] → s.clocks.transit = [(d, some e)] → d ≠ 6 → e ≤ s.time + 1 →
    ∃ t, step s = .next t ∧ inTransit t d = false ∧ Within [.time, .power, .clocks] s t)
  ∧ (∀ (s : State) h k v, s.pending = [] → s.clocks.transit = [] → s.bus.held = [h] → addrKey h.addr = some k → h.op = .write v →
    h.after = false → pageWaits k s = false → s.chip.held = none →
    ∃ t, step s = .next t ∧ Within [.power]
      (writeArrived h.req k (busEffect h.req k v h.out) { s with time := s.time + 1, bus := { s.bus with held := [] } }) t)

/-- Commands are taken in order: a step takes the front of the queue and leaves the rest as it stands, and the part never changes. -/
def Obligations.CommandsTakenInOrder : Prop :=
  ∀ (s t : State) (c : Instr) (rest : List Instr), s.pending = c :: rest → step s = .next t → t.pending = rest ∧ t.part4820 = s.part4820

/-- No command ends in a fault or a refusal: every command, in every state, and every step have a next state. -/
def Obligations.NothingStops : Prop := (∀ (c : Instr) (s : State), ∃ t, exec c s = .next t) ∧ ∀ s : State, ∃ t, step s = .next t

/-- The frame of every command: what it does stays within the pieces of the state that `touches` names for it. Every other piece, the queue
of commands and the part are unchanged. -/
def Obligations.FrameOfEveryCommand : Prop := ∀ (c : Instr) (s t : State), exec c s = .next t → Within (touches c) s t

/-- Registers: a command whose effect stands on one page leaves every register of the other pages as it was, but for the record of a refused
access. -/
def Obligations.RegistersOfOwnPage : Prop :=
  ∀ (c : Instr) (p : Nat) (s t : State), regsPage c = some p → exec c s = .next t →
    SameRegs (fun k => k / 0x1000 == p || recordsAccess k) s t

/-- Memory and the registers are in canonical form at reset. -/
def Obligations.ResetCanonical : Prop := Canonical State.reset

/-- Canonical form is kept by every step, from any state that has it. -/
def Obligations.StepKeepsCanonical : Prop := ∀ s t : State, Canonical s → step s = .next t → Canonical t

/-- Registers of every kind of page and the critical words at reset, as the chapters' register tables give them. -/
def Obligations.ResetValues : Prop :=
  (∀ e ∈ ([(Reg.ID 0x000, 0x00000001#32), (Reg.ID 0x03F, 0x00300F01#32), (Reg.REV 0x028, 0x000000A1#32), (Reg.CTRL 0x000, 1#32),
      (Reg.CTRL 0x010, 1#32), (Reg.CTRL 0x070, 0#32), (Reg.STATUS 0x028, 0#32), (Reg.FAULT_CODE 0x005, 0#32), (Reg.LOCK 0x003, 0#32),
      (Reg.SYS.ERR_INFO, 0#32), (Reg.CLAIM.CLAIM_STATE 0, 0#32), (Reg.EVF.TGT_IE, 0x3F#32), (0x08040, 0x000A1011#32)] : List (Nat × Word)),
    State.reset.reg e.1 = e.2)
  ∧ (∀ e ∈ ([(Reg.KEEL.REF_CFG, 0x00000004#32), (Reg.KEEL.LOCK_CFG, 0x405000C8#32), (Reg.KEEL.DECEL_CFG, 0x012C0258#32),
      (Reg.DRV.CHOP_CFG, 0x001401F4#32), (Reg.PRE.SER_CFG 3, 0x10#32), (Reg.CAL.SOFT_ENV, 0x012C3032#32), (Reg.RUDDER.WF_CFG 2, 0x2001019A#32),
      (Reg.COUPLE.SNS_CFG, 0x01F40800#32), (Reg.TUNE.AMP_LIMIT 0x020, 0x4000#32), (Reg.OAR.FE_CTRL 15, 0xF#32)] : List (Nat × Word)),
    State.reset.reg e.1 = e.2)
  ∧ (∀ e ∈ ([(Reg.SWEEP.ITER_CFG, 0x0008300C#32), (Reg.DRAM.DRAM_CFG 1, 2#32), (Reg.SCRUB.SCRUB_CFG, 0x000A1401#32),
      (Reg.CREWG.LOST_CFG, 0x1000#32), (Reg.JRNL.JRNL_CFG, 0x00100004#32), (Reg.LUT.MAX_XFER, 0x4000#32), (Reg.GATE.SCHED_CFG 1, 0x00320240#32),
      (Reg.PWR.SUPPLY_CFG, 0x2A3027D8#32), (Reg.SAFE.HEALTH_CFG, 0x3C#32), (Reg.UMP.COPY_THRESH, 0x400#32)]
        : List (Nat × Word)),
    State.reset.reg e.1 = e.2)
  ∧ (∀ e ∈ ([(0, 0#32), (3, 0#32), (5, 0#32), (7, 0x3390#32), (8, 0x3520#32), (9, 0x3A98#32), (21, 0x400#32), (22, 0#32), (25, 0x1E#32)]
      : List (Nat × Word)), State.reset.critVal e.1 = e.2)
  ∧ State.reset.mem = [] ∧ State.reset.fabric = [] ∧ State.reset.time = 0 ∧ State.reset.pending = []

/-- A register page takes aligned 32-bit accesses only: any other access ends with a bus error and BAD_ACCESS, and no register changes but
those that record it. -/
def Obligations.MisalignedAccess : Prop :=
  ∀ s req a k width, addrKey a = some k → pagePlace (k / 0x1000) ≠ none → ¬ (width = .word ∧ a.toNat % 4 = 0) → pageOn s Page.SYS = true →
    (∀ v o, Runs (.registerWrite req a width v o) s fun t => t.bus.error = true ∧ t.bit (Reg.EV_PEND Page.SYS) 3 = true
        ∧ t.reg Reg.SYS.ERR_INFO = word (Requester.code req + 3 * 256 + 4096)
        ∧ Within [.regs, .bus, .fabric, .seen] s t ∧ SameRegs (fun j => j == Reg.SYS.ERR_INFO || j == Reg.SYS.ERR_ADDR_LO || j == Reg.SYS.ERR_ADDR_HI
          || j == Reg.SYS.ERR_COUNT || j == Reg.EV_PEND Page.SYS) s t)
      ∧ Runs (.latchedRead req a width) s fun t => t.bus.error = true ∧ t.bit (Reg.EV_PEND Page.SYS) 3 = true
        ∧ t.reg Reg.SYS.ERR_INFO = word (Requester.code req + 3 * 256)
        ∧ Within [.regs, .bus, .fabric, .seen] s t ∧ SameRegs (fun j => j == Reg.SYS.ERR_INFO || j == Reg.SYS.ERR_ADDR_LO || j == Reg.SYS.ERR_ADDR_HI
          || j == Reg.SYS.ERR_COUNT || j == Reg.EV_PEND Page.SYS) s t

/-- Where the bus refuses an access, with which kind and whether it ends with a bus error: 1 no such page or address, 2 the requester, 3 the
form, 4 a locked register, 5 a domain that is off, 6 no completion within 50 µs. That a refused write of a page's lock or table ends without
a bus error is the model's choice (log entry 128), and so is the order of the checks (log entry 5). -/
def Obligations.RefusedAccesses : Prop :=
  (∀ s req k v o, k < 0x20000000 → k % 4 = 0 → s.chip.held = none →
    (pagePlace (k / 0x1000) = none →
        exec (.registerWrite req (keyAddr k) .word v o) s = .next (busError (refuseAccess req (keyAddr k) true 1 s))
          ∧ exec (.latchedRead req (keyAddr k) .word) s = .next (busError (refuseAccess req (keyAddr k) false 1 s)))
      ∧ (pagePlace (k / 0x1000) ≠ none → pagePresent s (k / 0x1000) = true → mustHold req k s = false →
        (pageOn s (k / 0x1000) = false →
            exec (.registerWrite req (keyAddr k) .word v o) s = .next (busOk 0#32 (refuseAccess req (keyAddr k) true 5 s))
              ∧ exec (.latchedRead req (keyAddr k) .word) s = .next (busOk 0#32 (refuseAccess req (keyAddr k) false 5 s)))
          ∧ (pageOn s (k / 0x1000) = true → mayRead req (k / 0x1000) (k % 0x1000) s = true → mayWrite req (k / 0x1000) (k % 0x1000) s = false →
            exec (.registerWrite req (keyAddr k) .word v o) s = .next (busOk 0#32 (refuseAccess req (keyAddr k) true 2 s)))
          ∧ (pageOn s (k / 0x1000) = true → mayRead req (k / 0x1000) (k % 0x1000) s = false →
            exec (.registerWrite req (keyAddr k) .word v o) s = .next (busError (refuseAccess req (keyAddr k) true 2 s))
              ∧ exec (.latchedRead req (keyAddr k) .word) s = .next (busError (refuseAccess req (keyAddr k) false 2 s)))
          ∧ (pageOn s (k / 0x1000) = true → mayRead req (k / 0x1000) (k % 0x1000) s = true →
            mayWrite req (k / 0x1000) (k % 0x1000) s = true → isRwl k = true → pageLocked (k / 0x1000) s = true →
            exec (.registerWrite req (keyAddr k) .word v o) s = .next (busOk 0#32 (refuseAccess req (keyAddr k) true 4 s)))))
  ∧ (∀ s req a k v o, addrKey a = some k → pagePlace (k / 0x1000) ≠ none → a.toNat % 4 ≠ 0 →
    exec (.registerWrite req a .word v o) s = .next (busError (refuseAccess req a true 3 s)))
  ∧ (∀ s req a wr h, overdue req a wr s = some h → ((s.bus.held.erase h).any fun x => x.req == req) = false →
    exec (.busTimeout req a wr) s = .next (busError (refuseAccess req a wr 6 { s with bus := { s.bus with held := s.bus.held.erase h } })))
  ∧ (∀ s req a wr, overdue req a wr s = none → exec (.busTimeout req a wr) s = .next s)

/-- A refused or failed access is recorded in SYS, counted and raised, with the code and payload of R553. -/
def Obligations.AccessRecord : Prop :=
  ∀ s t req (a : Addr) wr kind, 1 ≤ kind → kind ≤ 6 → pageOn s Page.SYS = true → t = refuseAccess req a wr kind s →
    t.fld Reg.SYS.ERR_INFO 5 0 = Requester.code req ∧ t.fld Reg.SYS.ERR_INFO 10 8 = kind ∧ t.bit Reg.SYS.ERR_INFO 12 = wr
      ∧ t.reg Reg.SYS.ERR_ADDR_LO = word a.toNat ∧ t.reg Reg.SYS.ERR_ADDR_HI = word (a.toNat / 0x100000000)
      ∧ t.reg Reg.SYS.ERR_COUNT = word (satAdd 0xFFFFFFFF (s.reg Reg.SYS.ERR_COUNT).toNat 1) ∧ t.bit (Reg.EV_PEND Page.SYS) kind = true
      ∧ (s.bit (Reg.EV_ENABLE Page.SYS) kind = true → ∃ w2, t.fabric = s.fabric ++ [⟨kind, if kind = 6 then 3 else 5,
          (t.reg Reg.SYS.ERR_INFO).toNat % 65536, word a.toNat, word (a.toNat / 0x100000000), w2, s.time, 7, aonPath s⟩]
            ∧ (0x20000000 ≤ a.toNat → a.toNat < 0x30000000 → fld w2 15 0 = (a.toNat - 0x20000000) / 0x1000 ∧ fld w2 27 16 = a.toNat % 0x1000
              ∧ fld w2 31 28 = 0)
            ∧ (a.toNat < 0x20000000 ∨ 0x40000000 ≤ a.toNat → w2 = 0#32))
      ∧ (s.bit (Reg.EV_ENABLE Page.SYS) kind = false → t.fabric = s.fabric)

/-- What a write stores under each access code: an RW register takes the bits of its mask, an RWL register too, a W1C register loses the bits
written as 1, and an RO register keeps its value. -/
def Obligations.AccessCodes : Prop :=
  ∀ (o c : Nat) (reset m old v : Word) (i : Nat),
    bit (storeValue ⟨o, c, .rw, reset, m, []⟩ old v) i = (if bit m i then bit v i else bit old i)
      ∧ bit (storeValue ⟨o, c, .rwl, reset, m, []⟩ old v) i = (if bit m i then bit v i else bit old i)
      ∧ bit (storeValue ⟨o, c, .w1c, reset, m, []⟩ old v) i = (bit old i && !(bit v i && bit m i))
      ∧ storeValue ⟨o, c, .ro, reset, m, []⟩ old v = old

/-- An occurrence of an event sets its EV_PEND bit and, while its EV_ENABLE bit is set or its severity is 4, sends one message with the source,
the severity, the code, the payload and the time; on a page without power or beyond the page's events nothing happens. -/
def Obligations.EventOccurrence : Prop :=
  ∀ s t p k sev code pl, k < 32 → t = raise p k sev code pl s →
    (pageOn s p = true → k < (pageEvents p).2 → t.bit (Reg.EV_PEND p) k = true
        ∧ SameRegs (fun j => j == Reg.EV_PEND p) s t ∧ (∀ j, j < 32 → j ≠ k → t.bit (Reg.EV_PEND p) j = s.bit (Reg.EV_PEND p) j)
        ∧ (s.bit (Reg.EV_ENABLE p) k = true ∨ sev = 4 → t.fabric = s.fabric ++ [⟨(pageEvents p).1 + k, sev, code % 65536, pl.p0, pl.p1, pl.p2, s.time, 7,
            aonPath s⟩])
        ∧ (s.bit (Reg.EV_ENABLE p) k = false → sev ≠ 4 → t.fabric = s.fabric))
      ∧ (pageOn s p = false ∨ (pageEvents p).2 ≤ k → t = s)

/-- The layout of FAULT_CODE, as a lasting error of a page and a machine check record it. -/
def Obligations.FaultCodeLayout : Prop :=
  ∀ s p k code pl, k < 32 → p < 0x99 → s.bit (Reg.FAULT_CODE p) 31 = false →
    (∀ t, t = lasting p k code pl s → t.bit (Reg.FAULT_CODE p) 31 = true ∧ t.fld (Reg.FAULT_CODE p) 30 28 = 3
        ∧ t.fld (Reg.FAULT_CODE p) 27 16 = sourceOf p k ∧ t.fld (Reg.FAULT_CODE p) 15 0 = code % 65536)
      ∧ (∀ rs t, t = enterCheck p (sourceOf p k) code rs s → t.bit (Reg.FAULT_CODE p) 31 = true ∧ t.fld (Reg.FAULT_CODE p) 30 28 = 4
        ∧ t.fld (Reg.FAULT_CODE p) 27 16 = sourceOf p k ∧ t.fld (Reg.FAULT_CODE p) 15 0 = code % 65536)

/-- A lasting error: a message of severity 3, STATUS.FAULT and FAULT_CODE where no fault is held yet, a held one unchanged, and the stop of
HALT_ON_FAULT. -/
def Obligations.LastingError : Prop :=
  ∀ s t p k code pl, k < 32 → t = lasting p k code pl s →
    (s.bit (Reg.FAULT_CODE p) 31 = false → t.reg (Reg.FAULT_CODE p) = faultWord 3 (sourceOf p k) code ∧ t.bit (Reg.STATUS p) 2 = true)
      ∧ (s.bit (Reg.FAULT_CODE p) 31 = true → t.reg (Reg.FAULT_CODE p) = s.reg (Reg.FAULT_CODE p) ∧ t.reg (Reg.STATUS p) = s.reg (Reg.STATUS p))
      ∧ (s.bit (Reg.CTRL p) 2 = true → isStopped t p = true) ∧ (s.bit (Reg.CTRL p) 2 = false → t.stopped = s.stopped)
      ∧ (pageOn s p = true → k < (pageEvents p).2 → s.bit (Reg.EV_ENABLE p) k = true →
          t.fabric = s.fabric ++ [⟨sourceOf p k, 3, code % 65536, pl.p0, pl.p1, pl.p2, s.time, 7, aonPath s⟩])

/-- Words 23 and 24 of the critical-word store take writes from Cox alone, through any of their views; another requester's write is refused
as R42 says and changes no copy. -/
def Obligations.BootSelectWords : Prop :=
  ∀ s req k n v o, k < 0x20000000 → k % 4 = 0 → critWordOf k = some n → n = 23 ∨ n = 24 → Reaches req k s → isRwl k = false →
    (req ≠ .cox → exec (.critWrite req (keyAddr k) v) s = .next (busOk 0#32 (refuseAccess req (keyAddr k) true 2 s))
        ∧ exec (.registerWrite req (keyAddr k) .word v o) s = .next (busOk 0#32 (refuseAccess req (keyAddr k) true 2 s))
        ∧ (busOk 0#32 (refuseAccess req (keyAddr k) true 2 s)).crit = s.crit)
      ∧ (req = .cox → Runs (.critWrite req (keyAddr k) v) s fun t => t.crit.a.get n = v ∧ t.crit.b.get n = v ∧ t.crit.c.get n = v)

/-- A read of a critical word answers what two copies hold; a copy that differs is rewritten from them, with VOTE_REPAIR. -/
def Obligations.CriticalVote : Prop :=
  ∀ s req (a : Addr) k n w i j, addrKey a = some k → critWordOf k = some n → n ∉ s.crit.bad → ReadsOf req k s → pageOn s Page.CRIT = true →
      i < 3 → j < 3 → i ≠ j → (s.crit.copy i).get n = w → (s.crit.copy j).get n = w →
    Runs (.critRead req a []) s fun t => t.bus.data = w ∧ (∀ m, m < 3 → (t.crit.copy m).get n = w)
      ∧ ((∃ m, m < 3 ∧ (s.crit.copy m).get n ≠ w) → t.bit (Reg.EV_PEND Page.CRIT) 0 = true)
      ∧ ((∀ m, m < 3 → (s.crit.copy m).get n = w) → t = busOk w s)

/-- The read side of a queue presents the oldest item of the highest level: every earlier item stands at a lower level, no later one at a
higher; a pop takes exactly that item and leaves the others in their order. -/
def Obligations.QueueOrder : Prop :=
  (∀ x : HwQueue, x.flush = none → x.resetting = none → ∀ it, qHead x = some it ↔
    ∃ l r, x.items = l ++ it :: r ∧ (∀ y ∈ l, y.level < it.level) ∧ ∀ y ∈ r, y.level ≤ it.level)
  ∧ (∀ s q l it r, queueAlive s q = true → (hq s q).taken = none → (hq s q).flush = none → (hq s q).resetting = none →
      (hq s q).items = l ++ it :: r → (∀ y ∈ l, y.level < it.level) → (∀ y ∈ r, y.level ≤ it.level) →
    Runs (.queuePop q false) s fun t => (hq t q).taken = some it ∧ (hq t q).items = l ++ r)

/-- The SH-4820: its domains 11 and 12 are not switched on, the pages of its absent blocks read zero and ignore writes, their events do not
occur, and its sector-job ceiling is 16,384; the SH-4840's is 32,768. -/
def Obligations.SmallPart : Prop :=
  (∀ s d, s.part4820 = true → d = 11 ∨ d = 12 → switchOn d s = s)
  ∧ (∀ s req p off v o, s.part4820 = true → pageOn4840Only p = true → off < 0x1000 → off % 4 = 0 → s.chip.held = none →
      exec (.latchedRead req (keyAddr (p * 0x1000 + off)) .word) s = .next (busOk 0#32 s)
        ∧ exec (.registerWrite req (keyAddr (p * 0x1000 + off)) .word v o) s = .next (busOk 0#32 s))
  ∧ (∀ s p k sev code pl, s.part4820 = true → pageOn4840Only p = true → raise p k sev code pl s = s)
  ∧ (∀ s req, ReadsOf req Reg.SYS.CEIL_SECTOR s → Runs (.latchedRead req (keyAddr Reg.SYS.CEIL_SECTOR) .word) s fun t =>
      t.bus.data = (if s.part4820 = true then 16384#32 else 32768#32))

/-- Bytes stored in memory read back, every other byte reads as before, and memory keeps its canonical form. -/
def Obligations.MemoryReadsBack : Prop :=
  ∀ (s : State) (a : Nat) (bs : List Byte),
    (∀ i b, bs[i]? = some b → (s.putBytes a bs).byteAt (a + i) = b)
      ∧ (∀ j, j < a ∨ a + bs.length ≤ j → (s.putBytes a bs).byteAt j = s.byteAt j)
      ∧ (Memory.wf s.mem = true → Memory.wf (s.putBytes a bs).mem = true)

/-- A machine check marks its block once: STATUS.MCHK and the count of SYS, the event MACHINE_CHECK whatever EV_ENABLE holds, and nothing
more while the mark stands. -/
def Obligations.MachineCheckOnce : Prop :=
  (∀ s p source code, inMachineCheck s p = true → machineCheck p source code s = s)
  ∧ (∀ s t p source code rs, p < 0x99 → p ≠ Page.SYS → pageOn s Page.SYS = true → t = enterCheck p source code rs s →
      inMachineCheck t p = true ∧ t.bit Reg.SYS.MCHK_STATE 31 = true
        ∧ t.fld Reg.SYS.MCHK_STATE 5 0 = satAdd 63 (s.fld Reg.SYS.MCHK_STATE 5 0) 1 ∧ t.bit (Reg.EV_PEND Page.SYS) 0 = true
        ∧ ∃ more, t.fabric = s.fabric ++ ⟨0, 4, code % 65536, word (sourceOf p 0), 0#32, 0#32, s.time, 7, aonPath s⟩ :: more)

/-- CLAIM and RELEASE: a claim of a free resource that the table of R49 allows makes the requester its holder; of two claims of one free
resource that arrive in one cycle the one of lower rank, lower function and then lower requester code, is granted and the other refused; a
release by the holder frees the resource and leaves the others. -/
def Obligations.ClaimsAndReleases : Prop :=
  (∀ s req v, Writes req Reg.CLAIM.CLAIM_REQ s → bit v 16 = false → pageLocked Page.CLAIM s = false →
    s.bit (Reg.CLAIM.CLAIM_STATE (fld v 2 0)) 31 = false → mayClaim (fld v 2 0) (fld v 9 8) (Requester.code req) s = true →
    ∃ t, exec (.claim [(req, v)]) s = .next t
      ∧ t.reg (Reg.CLAIM.CLAIM_STATE (fld v 2 0)) = word (Requester.code req + fld v 9 8 * 256 + 2 ^ 31)
      ∧ SameRegs (fun k => k == Reg.CLAIM.CLAIM_STATE (fld v 2 0)) s t)
  ∧ (∀ s r1 v1 r2 v2, Writes r1 Reg.CLAIM.CLAIM_REQ s → Writes r2 Reg.CLAIM.CLAIM_REQ s → bit v1 16 = false → bit v2 16 = false →
    pageLocked Page.CLAIM s = false → fld v1 2 0 = fld v2 2 0 → s.bit (Reg.CLAIM.CLAIM_STATE (fld v1 2 0)) 31 = false →
    mayClaim (fld v1 2 0) (fld v1 9 8) (Requester.code r1) s = true → mayClaim (fld v2 2 0) (fld v2 9 8) (Requester.code r2) s = true →
    claimRank (r1, v1) < claimRank (r2, v2) → ∀ l, l = [(r1, v1), (r2, v2)] ∨ l = [(r2, v2), (r1, v1)] →
    ∃ t, exec (.claim l) s = .next t
      ∧ t.reg (Reg.CLAIM.CLAIM_STATE (fld v1 2 0)) = word (Requester.code r1 + fld v1 9 8 * 256 + 2 ^ 31)
      ∧ t.fld Reg.CLAIM.LAST_CONFLICT 21 16 = Requester.code r2 ∧ t.fld Reg.CLAIM.LAST_CONFLICT 26 24 = 2)
  ∧ (∀ s req v, Writes req Reg.CLAIM.CLAIM_REQ s → bit v 16 = true → pageLocked Page.CLAIM s = false →
    s.bit (Reg.CLAIM.CLAIM_STATE (fld v 2 0)) 31 = true → s.fld (Reg.CLAIM.CLAIM_STATE (fld v 2 0)) 5 0 = Requester.code req →
    ∃ t, exec (.release req v) s = .next t
      ∧ t.reg (Reg.CLAIM.CLAIM_STATE (fld v 2 0)) = 0#32
      ∧ ∀ r, r ≠ fld v 2 0 → r < 8 → t.reg (Reg.CLAIM.CLAIM_STATE r) = s.reg (Reg.CLAIM.CLAIM_STATE r))

/-- PAGE_LOCK and BLOCK_DISABLE: a write of 1 to LOCK of an unlocked page sets LOCKED and takes a copy of the page's RWL registers, one of 0
or to a locked page changes no register; a write of CTRL with EN 0 stores EN and HALT_ON_FAULT, and changes no register while a soft reset
runs. -/
def Obligations.LocksAndEnables : Prop :=
  (∀ s req page v, Writes req (Reg.LOCK page) s →
    (bit v 0 = true → pageLocked page s = false →
      ∃ t, exec (.pageLock req page v) s = .next t ∧ pageLocked page t = true
        ∧ (∀ k ∈ rwlKeys page, SMap.get (fun _ => none) t.rwlShadow k = some (s.reg k)) ∧ SameRegs (fun k => k == Reg.LOCK page) s t)
      ∧ (bit v 0 = false ∨ pageLocked page s = true → exec (.pageLock req page v) s = .next (busOk 0#32 s)))
  ∧ (∀ s req page v, Writes req (Reg.CTRL page) s → bit v 0 = false → bit v 1 = false →
    (s.bit (Reg.CTRL page) 1 = false →
      ∃ t, exec (.blockDisable req page v) s = .next t ∧ t.bit (Reg.CTRL page) 0 = false ∧ t.bit (Reg.CTRL page) 2 = bit v 2
        ∧ SameRegs (fun k => k == Reg.CTRL page) s t)
      ∧ (s.bit (Reg.CTRL page) 1 = true → exec (.blockDisable req page v) s = .next (busOk 0#32 s)))

/-- Clocks and the firmware processors: an island's clock stops and fails to relock, a glitch of the reference is counted, a software
interrupt, the timer and the watchdog act as R56 to R58 say. -/
def Obligations.ClocksAndWatchdogs : Prop :=
  (∀ s i, 1 ≤ i → i ≤ 25 → domainOn s (islandDomain i) = true → islandStopped s i = false →
    Runs (.islandClockStop i) s fun t =>
      SMap.get (fun _ => none) t.clocks.stopped i = some s.time
        ∧ t.reg Reg.CLK.LOCK_LOSS_COUNT = word (satAdd 0xFFFFFFFF (s.reg Reg.CLK.LOCK_LOSS_COUNT).toNat 1)
        ∧ SameRegs (fun k => k == Reg.CLK.LOCK_LOSS_COUNT) s t)
  ∧ (∀ s i u, SMap.get (fun _ => none) s.clocks.stopped i = some u → u + 50000 ≤ s.time →
      SMap.get (fun _ => false) s.clocks.failed i = false →
    exec (.clockRelockTimeout i) s = .next ((islandPages i).foldl
      (fun t p =>
        if !pageOn t p then t
        else if p = Page.BOAT then engineCheck 0x31 (sourceOf Page.CLK 0) i (engineCheck 0x30 (sourceOf Page.CLK 0) i t)
        else machineCheck p (sourceOf Page.CLK 0) i t)
      (lasting Page.CLK 0 i {} { s with clocks := { s.clocks with failed := SMap.set (fun _ => false) s.clocks.failed i true } })))
  ∧ (∀ s, (∀ t, s.clocks.lastGlitch = some t → t + 1000000000 ≤ s.time) →
    Runs .refGlitch s fun t =>
      t.clocks.lastGlitch = some s.time ∧ t.fld Reg.CLK.REF_STATUS 31 16 = min 0xFFFF (s.fld Reg.CLK.REF_STATUS 31 16 + 1)
        ∧ (pageOn s Page.CLK = true → t.bit (Reg.EV_PEND Page.CLK) 1 = true))
  ∧ (∀ s u, s.clocks.lastGlitch = some u → s.time < u + 1000000000 →
    Runs .refGlitch s fun t =>
      t.clocks.lastGlitch = some s.time ∧ t.fld Reg.CLK.REF_STATUS 31 16 = min 0xFFFF (s.fld Reg.CLK.REF_STATUS 31 16 + 1)
        ∧ t.fabric = s.fabric)
  ∧ (∀ s req core v, core < 4 → Writes req (Reg.STROKE.SOFT_IRQ core) s →
    Runs (.softIrq req core v) s fun t =>
      t.bit (Reg.STROKE.SOFT_IRQ core) 0 = bit v 0 ∧ SameRegs (fun k => k == Reg.STROKE.SOFT_IRQ core) s t)
  ∧ (∀ s core, core < 4 → pageOn s (Page.STROKE core) = true →
    Runs (.timerCompare core) s fun t =>
      (stroke t core).timerIrq = decide (s.reg64 (Reg.STROKE.TIMECMP_LO core) ≤ s.time)
        ∧ (∀ n, n ≠ core → stroke t n = stroke s n))
  ∧ (∀ s req core v, core < 4 → Writes req (Reg.STROKE.WDT_CFG core) s →
    Runs (.wdtConfig req core v) s fun t =>
      t.fld (Reg.STROKE.WDT_CFG core) 15 0 = fld v 15 0 ∧ (stroke t core).wdtStart = s.time
        ∧ SameRegs (fun k => k == Reg.STROKE.WDT_CFG core) s t)
  ∧ (∀ s req core v, core < 4 → Writes req (Reg.STROKE.WDT_KICK core) s →
    Runs (.wdtKick req core v) s fun t =>
      stroke t core = { stroke s core with wdtStart := if v = 0x5E5E#32 then s.time else (stroke s core).wdtStart })
  ∧ (∀ s core, core < 4 → blockAlive s (Page.STROKE core) = true → s.fld (Reg.STROKE.WDT_CFG core) 15 0 ≠ 0 →
      engineHalted s (2 + core) = false → (stroke s core).wdtStart + s.fld (Reg.STROKE.WDT_CFG core) 15 0 * 1000000 ≤ s.time →
    exec (.watchdog core) s = .next
      (machineCheck (Page.STROKE core) (sourceOf (Page.STROKE core) 3) 0 (lasting (Page.STROKE core) 3 0 {} s)))

/-- The bus: a write of an enable register stores its bits and a write of EV_PEND clears those set in it; a read of the low word of a pair
answers it and latches the high word, which the next read of the high word answers; an access with no completion ends with a bus error; FENCE
holds its core's later accesses until the earlier writes are acknowledged; an island's clock that relocks within 50 µs runs again, and later
has failed (log entry 42). -/
def Obligations.BusCommands : Prop :=
  (∀ s req p v o, Writes req (Reg.EV_ENABLE p) s → p < 0x1000 →
    Runs (.registerWrite req (keyAddr (Reg.EV_ENABLE p)) .word v o) s fun t =>
      t.reg (Reg.EV_ENABLE p) = (s.reg (Reg.EV_ENABLE p) &&& ~~~ word (2 ^ (pageEvents p).2 - 1)) ||| (v &&& word (2 ^ (pageEvents p).2 - 1))
        ∧ SameRegs (fun k => k == Reg.EV_ENABLE p) s t)
  ∧ (∀ s req p v o, Writes req (Reg.EV_PEND p) s → p < 0x1000 →
    Runs (.registerWrite req (keyAddr (Reg.EV_PEND p)) .word v o) s fun t =>
      t.reg (Reg.EV_PEND p) = s.reg (Reg.EV_PEND p) &&& ~~~ (v &&& word (2 ^ (pageEvents p).2 - 1))
        ∧ SameRegs (fun k => k == Reg.EV_PEND p) s t)
  ∧ (∀ s req k, k < 0x20000000 → k % 4 = 0 → ReadsOf req k s → critWordOf k = none → readsFree (k / 0x1000) (k % 0x1000) s = none →
      oscillatorAt (k / 0x1000) (k % 0x1000) s = false → isLowWord k = true →
    Runs (.latchedRead req (keyAddr k) .word) s fun t =>
      t.bus.data = regShown req k s ∧ latched req (k + 4) t = some (regShown req (k + 4) s) ∧ t.regs = s.regs)
  ∧ (∀ s req k w, k < 0x20000000 → k % 4 = 0 → ReadsOf req k s → critWordOf k = none → readsFree (k / 0x1000) (k % 0x1000) s = none →
      oscillatorAt (k / 0x1000) (k % 0x1000) s = false → isLowWord k = false → isHighWord k = true → latched req k s = some w →
    Runs (.latchedRead req (keyAddr k) .word) s fun t => t.bus.data = w ∧ t.regs = s.regs)
  ∧ (∀ s req addr write h, overdue req addr write s = some h → ((s.bus.held.erase h).any fun x => x.req == req) = false →
    Runs (.busTimeout req addr write) s fun t =>
      t.bus.error = true ∧ t.reg Reg.SYS.ERR_INFO = word (Requester.code req + 6 * 256 + if write then 4096 else 0)
        ∧ t.reg Reg.SYS.ERR_ADDR_LO = loWord addr.toNat ∧ t.reg Reg.SYS.ERR_ADDR_HI = hiWord addr.toNat)
  ∧ (∀ s req page core v, fenceCore page = some core → Writes req (regKey page 0x040) s → bit v 0 = true →
      s.bus.stalled.contains core = false → s.bus.held.any (unacked core) = true →
    Runs (.fenceDrain req page v) s fun t => t.bus.stalled = s.bus.stalled ++ [core] ∧ t.bus.held = s.bus.held ∧ t.regs = s.regs)
  ∧ (∀ s core o, s.bus.stalled.contains core = true → s.bus.held.any (unacked core) = false →
    exec (.fenceDrainDone core o) s = .next (settle (fun _ => o) (fun h => h.req == core && h.after)
      { s with bus := { s.bus with stalled := s.bus.stalled.filter (· != core) } }))
  ∧ (∀ s i u o, SMap.get (fun _ => none) s.clocks.stopped i = some u → SMap.get (fun _ => false) s.clocks.failed i = false →
    (s.time ≤ u + 50000 → exec (.clockRelock i o) s = .next (accessesResume o (transient Page.CLK 0 i {}
          { s with clocks := { s.clocks with stopped := SMap.set (fun _ => none) s.clocks.stopped i none } })))
      ∧ (s.time ≤ u + 50000 → s.bus.held = [] →
        Runs (.clockRelock i o) s fun t =>
          islandStopped t i = false ∧ (pageOn s Page.CLK = true → t.bit (Reg.EV_PEND Page.CLK) 0 = true) ∧ t.bus = s.bus)
      ∧ (u + 50000 < s.time → exec (.clockRelock i o) s = .next (clockFails i s)))

/-- The event fabric and the critical words: a message goes to the target that its source's entry names and to Umpire, a transient fills
its leaky bucket, a pop takes the oldest message held; a read of a critical word answers the value that two copies hold, and a write writes
all three. -/
def Obligations.EventsAndCriticalWords : Prop :=
  (∀ s m, nextMsg s.fabric = some m → m.aon = true ∨ domainOn s 6 = false → s.ump.fifo.length < 64 →
    Runs .eventMessage s fun t => t.fabric = s.fabric.erase m ∧ t.ump.fifo = s.ump.fifo ++ [⟨m, true⟩] ∧ t.targets = s.targets ∧ t.regs = s.regs)
  ∧ (∀ s m i, nextMsg s.fabric = some m → ByFabric m s → m.severity ≠ 1 → m.severity ≠ 4 → m.notTo ≠ i →
      routeTarget (s.fld (evsrcKey m.source) 2 0) = some i → (target s i).normal.length < 128 → s.ump.fifo.length < 64 →
    Runs .eventMessage s fun t =>
      t.fabric = s.fabric.erase m ∧ target t i = { target s i with normal := (target s i).normal ++ [m] }
        ∧ (∀ j, j ≠ i → target t j = target s j)
        ∧ (recorded m.severity (s.fld (evsrcKey m.source) 5 4) = true → t.ump.fifo = s.ump.fifo ++ [⟨m, false⟩])
        ∧ (recorded m.severity (s.fld (evsrcKey m.source) 5 4) = false → t.ump = s.ump))
  ∧ (∀ s m i, nextMsg s.fabric = some m → ByFabric m s → m.severity = 4 → m.notTo ≠ i → (i = 4 ∨ i = 5) →
      routeTarget (s.fld (evsrcKey m.source) 2 0) = none → (target s i).machine.length < 8 →
    Runs .eventMessage s fun t => target t i = { target s i with machine := (target s i).machine ++ [m] })
  ∧ (∀ s m, nextMsg s.fabric = some m → ByFabric m s → m.severity = 1 → leakedNow m.source s = none →
      s.fld (evsrcKey m.source) 31 24 < s.fld (evsrcKey m.source) 15 8 → s.ump.fifo.length < 64 →
    Runs .eventMessage s fun t =>
      t.fabric = s.fabric.erase m ∧ t.targets = s.targets ∧ t.fld (evsrcKey m.source) 31 24 = s.fld (evsrcKey m.source) 31 24 + 1)
  ∧ (∀ s m, nextMsg s.fabric = some m → ByFabric m s → m.severity = 1 → leakedNow m.source s = none →
      s.fld (evsrcKey m.source) 15 8 ≤ s.fld (evsrcKey m.source) 31 24 → recorded 1 (s.fld (evsrcKey m.source) 5 4) = false →
    Runs .eventMessage s fun t =>
      t.fabric = s.fabric.erase m ++ [{ m with severity := 2 }] ∧ t.targets = s.targets ∧ t.fld (evsrcKey m.source) 31 24 = 0)
  ∧ (∀ s i, i < 1152 → domainOn s 6 = true → s.time % (2 ^ s.fld (evsrcKey i) 19 16 * 1000000) = 0 → leakedNow i s = none →
    Runs (.bucketLeak i) s fun t =>
      t.fld (evsrcKey i) 31 24 = s.fld (evsrcKey i) 31 24 - 1 ∧ SameRegs (fun k => k == evsrcKey i) s t)
  ∧ (∀ s req i v, i < 6 → Writes req (popKey i) s → bit v 0 = true →
    Runs (.targetPop req i v) s fun t =>
      (∀ m ms, (target s i).machine = m :: ms → (target t i).machine = ms ∧ (target t i).normal = (target s i).normal)
        ∧ ((target s i).machine = [] → (target t i).machine = [] ∧ (target t i).normal = (target s i).normal.drop 1)
        ∧ (target t i).dropped = (if bit v 1 then 0 else (target s i).dropped) ∧ t.regs = s.regs)
  ∧ (∀ s req p v, Writes req (Reg.EV_FORCE p) s →
    Runs (.evForce req p v) s fun t =>
      (∀ k, k < 32 → k < (pageEvents p).2 → bit v k = true → (eventSeverity p k).isSome = true → t.bit (Reg.EV_PEND p) k = true)
        ∧ SameRegs (fun k => k == Reg.EV_PEND p) s t)
  ∧ (∀ s req addr k n w us, addrKey addr = some k → critWordOf k = some n → ReadsOf req k (strikeAll us s) → n ∉ s.crit.bad →
      critVote (strikeAll us s).crit n = some w →
    Runs (.critRead req addr us) s fun t =>
      t.bus.data = w ∧ t.crit.a.get n = w ∧ t.crit.b.get n = w ∧ t.crit.c.get n = w)
  ∧ (∀ s req addr k n v, addrKey addr = some k → critWordOf k = some n → Writes req k s →
      n ∉ [0, 1, 2, 3, 4, 5, 6, 7, 8, 9, 17, 18, 19, 20, 21, 22, 27] →
    Runs (.critWrite req addr v) s fun t =>
      t.crit.a.get n = v ∧ t.crit.b.get n = v ∧ t.crit.c.get n = v ∧ n ∉ t.crit.bad
        ∧ ∀ m, m ≠ n → t.crit.a.get m = s.crit.a.get m ∧ t.crit.b.get m = s.crit.b.get m ∧ t.crit.c.get m = s.crit.c.get m)
  ∧ (∀ s us, (strikeAll us s).bit Reg.CRIT.SWEEP_CTRL 0 = true → s.time % 1000000 = 0 →
    exec (.critSweep us) s = .next ((List.range 3).foldl (fun t i => refreshCopy i t)
      (((List.range 32).filter fun n => !(s.crit.wroteAt == s.time && s.crit.wrote.contains n)).foldl (fun t n => voteWord n t)
        (strikeAll us s))))

/-- Resets and the boot: a reset releases the core die or holds it, as its cause says, and the boot chain follows each release. -/
def Obligations.ResetsAndBoot : Prop :=
  (∀ s ms b, 10 ≤ ms → awaitsPower s = true → s.chip.railTries ≠ 2 →
    exec (.powerOn ms b) s = .next (bootChain 1 b (setIsolation false (powerRelease 1 false s))))
  ∧ (∀ s rail pc, pc < 90 → awaitsPower s = true → s.chip.railTries ≠ 2 →
    Runs (.railStartFail rail pc) s fun t =>
      t.chip.held = some 1 ∧ t.chip.railTries = s.chip.railTries + 1 ∧ t.mem = [] ∧ t.time = 0
        ∧ ∀ d, d < 32 → domainOn t d = decide (d = 19))
  ∧ (∀ s rail ns, 5000 ≤ ns → s.chip.held = none →
    Runs (.railLow rail ns) s fun t =>
      t.chip.held = some 5 ∧ t.mem = [] ∧ t.time = 0 ∧ t.rigger = riggerLeft (riggerAutonomous s)
        ∧ ∀ d, d < 32 → domainOn t d = decide (d = 19))
  ∧ (∀ s ns, 10000 ≤ ns → s.chip.held = none →
    Runs (.refclkLoss ns) s fun t =>
      t.chip.held = some 6 ∧ t.mem = [] ∧ t.time = 0 ∧ t.rigger = riggerLeft (riggerAutonomous s)
        ∧ ∀ d, d < 32 → domainOn t d = decide (d = 19))
  ∧ (∀ s b, s.chip.held = some 5 → exec (.railReturn b) s = .next (bootChain 5 b (powerRelease 5 true s)))
  ∧ (∀ s b, s.chip.held = some 6 → exec (.refclkReturn b) s = .next (bootChain 6 b (powerRelease 6 true s)))
  ∧ (∀ s mv, mv < 8500 → s.chip.held = none → pwrFailing s = true →
    Runs (.busCollapse mv) s fun t =>
      t.chip.held = some 2 ∧ t.mem = [] ∧ t.time = 0 ∧ ∀ d, d < 32 → domainOn t d = decide (d = 19))
  ∧ (∀ s v12 v5 ms b,
      (s.chip.held = some 2 ∨ (s.chip.held = none ∧ pwrFailing s = true ∧ s.chip.dumped = true ∧ s.safe.dump = none)) →
      s.fld Reg.PWR.SUPPLY_CFG 15 0 + 600 ≤ v12 → s.fld Reg.PWR.SUPPLY_CFG2 15 0 + 100 ≤ v5 → 10 ≤ ms →
    exec (.powerReturn v12 v5 ms false b) s = .next (bootChain 2 b (setIsolation false (powerRelease 2 false s))))
  ∧ (∀ s req v b, Writes req Reg.SYS.DEV_RESET s → bit v 0 = true → mayReset req s = true → fld v 31 16 = 0x5E7D →
      (bit v 1 = true ∨ noDirty s = true) →
    exec (.devReset req v b) s = .next (bootChain 4 b (deviceReset 4 (Requester.code req) (bit v 1) (busOk 0#32 s))))
  ∧ (∀ s ns b, 1000 ≤ ns → s.chip.held = none →
    exec (.resetN ns b) s = .next (bootChain 3 b (deviceReset 3 0 false s)))
  ∧ (∀ s ns b, 100 ≤ ns → ns < 1000 → s.chip.held = none →
    exec (.resetN ns b) s = .next
      (if bit (Config.freeWord s.free) 0 then bootChain 3 b (deviceReset 3 0 false s.useFree) else s.useFree))
  ∧ (∀ s bytes, s.chip.held = none → s.chip.recovery = true → conCheck [4] s bytes ≠ 0 →
    exec (.uartContainer bytes) s = .next
      { s with chip := { s.chip with uart := s.chip.uart ++ [BitVec.ofNat 8 (0x30 + conCheck [4] s bytes)] } })
  ∧ (∀ s bytes, s.chip.held = none → s.chip.recovery = true → conCheck [4] s bytes = 0 →
    exec (.uartContainer bytes) s = .next
      (handOff 3 bytes (⟨false, false, 0, 0⟩, ⟨false, false, 0, 0⟩) { s with chip := { s.chip with recovery := false } }))
  ∧ (∀ s req p v, Writes req (Reg.CTRL p) s → bit v 1 = true → s.bit (Reg.CTRL p) 1 = false → p ≠ Page.SAFE →
    Runs (.softReset req p v) s fun t =>
      t.reg (Reg.CTRL p) = setBit (s.reg (Reg.CTRL p)) 1 true
        ∧ ∀ c, 0x10 ≤ c → c ∈ pageRequesters p → c ∈ t.ucode.restoring)
  ∧ (∀ s req v, Writes req (Reg.CTRL Page.SAFE) s → bit v 1 = true → s.bit (Reg.CTRL Page.SAFE) 1 = false →
    exec (.softReset req Page.SAFE v) s = .next (wbReview (showHealth
      ((startRestore Page.SAFE (blockReset Page.SAFE [] (clearCheck Page.SAFE (blockEnd Page.SAFE (busOk 0#32 s))))).setReg (Reg.CTRL Page.SAFE)
        (setBit (s.reg (Reg.CTRL Page.SAFE)) 1 true)))))
  ∧ (∀ s p, p ≠ Page.CACHE → s.bit (Reg.CTRL p) 1 = true →
    Runs (.softResetDone p) s fun t =>
      t.reg (Reg.CTRL p) = regReset (Reg.CTRL p) ∧ SameRegs (fun k => k == Reg.CTRL p) s t)
  ∧ (∀ s, s.bit (Reg.CTRL Page.CACHE) 1 = true → exec (.softResetDone Page.CACHE) s = .next
      (if (cacheReset s).cache.lines = [] then (cacheReset s).setReg (Reg.CTRL Page.CACHE) (regReset (Reg.CTRL Page.CACHE)) else cacheReset s))
  ∧ (∀ s e a x, engineUp s e = true →
    (∀ code, microCode s e a x = some code → exec (.microcodeFault e a x) s = .next (engineCheck e (sourceOf (enginePage e) 0) code s))
      ∧ (microCode s e a x = none → exec (.microcodeFault e a x) s = .next (microRun e a x s)))
  ∧ (∀ s e a, engineUp s e = true → engineHalted s e = false →
    exec (.pollTimeout e a) s = .next (engineCheck e (sourceOf (enginePage e) 0) 4 s))

/-- The microcode store: UC_DATA3 completes a patch word at UC_ADDR, COMMIT copies the patch into the kind's engines and releases them, and a
restored patch lets its engine run, or puts it in machine check. -/
def Obligations.MicrocodeStore : Prop :=
  (∀ s req v, Writes req (Reg.UCODE.UC_DATA 3) s → ucCommitted s (ucKind s) = false →
    Runs (.ucodeWordWrite req v) s fun t =>
      let a := SMap.get (fun _ => 0) s.ucode.addrs (ucKind s)
      SMap.get (fun _ => 0#128) t.ucode.words (512 * ucKind s + a) = BitVec.ofNat 128
          (ofWords (s.reg (Reg.UCODE.UC_DATA 0)) (s.reg (Reg.UCODE.UC_DATA 1)) + ofWords (s.reg (Reg.UCODE.UC_DATA 2)) v * 2 ^ 64)
        ∧ SMap.get (fun _ => 0) t.ucode.addrs (ucKind s) = min 511 (a + 1))
  ∧ (∀ s req v, Writes req Reg.UCODE.UC_CTRL s → bit v 0 = true → ucCommitted s (ucKind s) = false →
    Runs (.ucodeCommit req v) s fun t =>
      t.bit Reg.UCODE.UC_STATE (ucKind s) = true ∧ ucCommitted t (ucKind s) = true
        ∧ (∀ k, ucPatched t k = ucPatched s k)
        ∧ SameRegs (fun k => k == Reg.UCODE.UC_STATE || k == Reg.EV_PEND Page.UCODE) s t)
  ∧ (∀ s c p, s.ucode.restoring.contains c = true → p ≠ .lasting →
    Runs (.ucodeRestoreDone c p) s fun t =>
      t.ucode.restoring.contains c = false
        ∧ t.reg Reg.UCODE.RESTORE_COUNT = word (satAdd 0xFFFFFFFF (s.reg Reg.UCODE.RESTORE_COUNT).toNat 1)
        ∧ (∀ n, n < 512 → SMap.get (fun _ => 0#128) (microCopy t c).1 n = SMap.get (fun _ => 0#128) s.ucode.words (512 * engineKind c + n))
        ∧ (∀ n, n < 16 → SMap.get (fun _ => 0#32) (microCopy t c).2 n = SMap.get (fun _ => 0#32) s.ucode.matchRegs (16 * engineKind c + n)))
  ∧ (∀ s c, s.ucode.restoring.contains c = true →
    exec (.ucodeRestoreDone c .lasting) s = .next
      (engineCheck c (sourceOf (enginePage c) 0) 6 (lasting Page.UCODE 2 (engineKind c) ⟨word c, 0#32, 0#32⟩
        { s with ucode := { s.ucode with restoring := s.ucode.restoring.filter (· ≠ c) } })))

/-- The hardware queues: a whole packet becomes an item, is kept by its port at a full or busy queue, and its operation ends at a faulted one; the
read side takes the presented item; ageing promotes; a flush marks what it will discard; a mismatch discards everything; the firmware's
window pushes and pops. -/
def Obligations.QueueCommands : Prop :=
  (∀ s q port ws, queueAlive s q = true → (qPort s q port).words = [] → (qPort s q port).full = false → ws.length = pktLen ws →
    (pushStatus s q = .taken → (∀ e, q = .xact e → xactCode e.val ws s = none) →
        Runs (.queuePush q port ws) s fun t =>
          (hq t q).items = (hq s q).items
            ++ [⟨ws, pktPrio ws, s.time, port, (qPort s q port).marked, (qPort s q port).late, false⟩])
      ∧ (pushStatus s q = .full ∨ pushStatus s q = .busy →
        Runs (.queuePush q port ws) s fun t =>
          (hq t q).items = (hq s q).items ∧ (qPort t q port).words = ws ∧ (qPort t q port).full = true ∧ t.ended = s.ended)
      ∧ (pushStatus s q = .fault → exec (.queuePush q port ws) s = .next (endItem q port ws (setPort q port QPort.empty s))))
  ∧ (∀ s q it, queueAlive s q = true → (hq s q).taken = none → qHead (hq s q) = some it →
    Runs (.queuePop q false) s fun t => (hq t q).taken = some it ∧ (hq t q).items = (hq s q).items.erase it)
  ∧ (∀ s q it u, queueAlive s q = true → (hq s q).taken = none → qTake q s = some (it, u) →
    exec (.queuePop q true) s = .next (itemParity q it u))
  ∧ (∀ s q, queueAlive s q = true →
    Runs (.queueAgePromote q) s fun t =>
      (hq t q).items = (promote (qAge s q) s.time (hq s q).items).1
        ∧ t.reg (qReg q 0x18) = word (satAdd 0xFFFFFFFF (s.reg (qReg q 0x18)).toNat (promote (qAge s q) s.time (hq s q).items).2)
        ∧ SameRegs (fun k => k == qReg q 0x18) s t)
  ∧ (∀ s req q v, Writes req (qReg q 0x0C) s → bit v 0 = true → (hq s q).flush = none →
    Runs (.flush req q v) s fun t =>
      (hq t q).flush = some (qPartials (hq s q)) ∧ (∀ it ∈ (hq t q).items, it.marked = true)
        ∧ (hq t q).items.map QItem.words = (hq s q).items.map QItem.words ∧ t.bit (qReg q 0x0C) 0 = true
        ∧ SameRegs (fun k => k == qReg q 0x0C) s t)
  ∧ (∀ s q ports, queueAlive s q = true → (hq s q).flush = some ports → (hq s q).again = [] → (∀ o, q ≠ .oarJob o) →
      (∀ it ∈ (hq s q).items, it.marked = false) → (∀ e ∈ (hq s q).ports, e.2.marked = false ∧ e.2.full = false) →
    Runs (.flushTakesEffect q) s fun t =>
      (hq t q).flush = none ∧ (hq t q).items = (hq s q).items ∧ t.ended = s.ended ∧ t.reg (qReg q 0x10) = 0#32)
  ∧ (∀ s q ports, queueAlive s q = true → (hq s q).flush = some ports →
      ((hq s q).ports.any fun e => e.2.marked && portPartial e.2) = false →
    let gone := (hq s q).items.filter (·.marked)
    let kept := (hq s q).ports.filter fun e => e.2.marked && e.2.full
    let counts := word (gone.length + kept.length + min 15 (gone.filter (·.late)).length * 65536)
    let mask := ports.foldl (fun m c => m ||| 2 ^ c) 0
    let s1 := ((setHq q { hq s q with flush := none, items := (hq s q).items.filter (fun it => !it.marked)
                                      flushDone := qPorts q
                                      ports := (hq s q).ports.filter (fun e => !(e.2.marked && e.2.full)) } s).setBit
                (qReg q 0x0C) 0 false).setReg (qReg q 0x10) counts
    exec (.flushTakesEffect q) s = .next (portsRetry q (qNowEmpty q (qEvent q + 1)
      (raise (qPage q) (qEvent q) 0 (qInstance q) ⟨counts, loWord mask, hiWord mask⟩
        (flushedOar q (kept.foldl (fun t e => endItem q e.1 e.2.words t)
          (gone.foldl (fun t it => endDropped q it (qDropItem q it t)) s1)))))))
  ∧ (∀ s q, queueAlive s q = true → (hq s q).resetting = none → (hq s q).fault = false → (hq s q).mismatchOpen = false →
    Runs (.pointerMismatch q) s fun t =>
      (hq t q).items = [] ∧ (hq t q).ports = [] ∧ (hq t q).flush = none ∧ (hq t q).resetting = some s.time
        ∧ (hq t q).mismatchOpen = true ∧ (hq t q).fault = false ∧ (hq t q).reissue = qPorts q)
  ∧ (∀ s q, (hq s q).resetting.isSome = true → (hq s q).fault = false →
    exec (.queueResetDone q) s = .next (qNowEmpty q (qEvent q + 1) ((hq s q).again.foldl (pushAgain q)
      (modHq q (fun x => { x with resetting := none, again := [], reissue := x.reissue.filter fun c => !pushesAgain c }) s))))
  ∧ (∀ s req q v, Writes req (qReg q 0x24) s → bit v 0 = true → bit v 1 = false → pushStatus s q = .taken →
      let ws := (List.range (fld (winWord s q (Requester.code req) 0) 3 0 + 1)).map (winWord s q (Requester.code req))
      (∀ e, q = .xact e → xactCode e.val ws s = none) →
    Runs (.fwQueuePush req q v) s fun t =>
      (hq t q).items = (hq s q).items ++ [⟨ws, pktPrio ws, s.time, Requester.code req, false, false, false⟩])
  ∧ (∀ s req q v it u, Writes req (qReg q 0x24) s → bit v 0 = false → bit v 1 = true → qTake q (busOk 0#32 s) = some (it, u) →
    exec (.fwQueuePop req q ⟨v, false⟩) s = .next (portsRetry q (setWin q (Requester.code req) it.words (qGood q it u)))
      ∧ exec (.fwQueuePop req q ⟨v, true⟩) s = .next (fwPop q (Requester.code req) false (itemParity q it u)))
  ∧ (∀ s req q v b, Writes req (qReg q 0x24) s → bit v 0 = false → bit v 1 = true → qTake q (busOk 0#32 s) = none →
    Runs (.fwQueuePop req q ⟨v, b⟩) s fun t => winWord t q (Requester.code req) 0 = 0#32 ∧ (hq t q).items = (hq s q).items)

/-- The tuning blocks: MODE is taken from the holder of the block's resource, GO starts a trace, or an injection whose conditions hold, STOP
and the ends of a run stop it, FORCE triggers. -/
def Obligations.TuningCommands : Prop :=
  (∀ s req p v, Writes req (Reg.TUNE.TR_CTRL p) s → isTunePage p = true → bit v 8 = false → bit v 9 = false → bit v 10 = false →
      trBusy s p = false → (fld v 1 0 = 1 ∨ fld v 1 0 = 2) → holds req (tuneResource p) (fld v 1 0) s = true →
    Runs (.tuneMode req p v) s fun t => trMode t p = fld v 1 0 ∧ SameRegs (fun k => k == Reg.TUNE.TR_CTRL p) s t)
  ∧ (∀ s req p v, Writes req (Reg.TUNE.TR_CTRL p) s → isTunePage p = true → bit v 8 = false → bit v 9 = false → bit v 10 = false →
      trBusy s p = false → (fld v 1 0 = 0 ∨ fld v 1 0 = 3) →
    Runs (.tuneMode req p v) s fun t => trMode t p = 0 ∧ SameRegs (fun k => k == Reg.TUNE.TR_CTRL p) s t)
  ∧ (∀ s req p v, Writes req (Reg.TUNE.TR_CTRL p) s → isTunePage p = true → bit v 8 = true → bit v 9 = false → bit v 10 = false →
      trBusy s p = false → fld v 1 0 = 1 → holds req (tuneResource p) 1 s = true →
    Runs (.tuneGo req p v) s fun t =>
      trMode t p = 1 ∧ trState t p = 1 ∧ (tune t p).records = 0 ∧ (tune t p).start = s.time ∧ (tune t p).buf = (tune s p).buf)
  ∧ (∀ s req p v, Writes req (Reg.TUNE.TR_CTRL p) s → isTunePage p = true → bit v 8 = true → bit v 9 = false → bit v 10 = false →
      trBusy s p = false → fld v 1 0 = 2 → holds req (tuneResource p) 2 s = true →
    Runs (.tuneGo req p v) s fun t =>
      let c := injRefusal (s.setFld (Reg.TUNE.TR_CTRL p) 1 0 2) p
      trMode t p = 2 ∧ (c = 0 → trState t p = 1 ∧ (tune t p).start = s.time ∧ t.reg (Reg.TUNE.TRIP_INFO p) = 0#32)
        ∧ (c ≠ 0 → trState t p = 5 ∧ t.fld (Reg.TUNE.TR_STATUS p) 6 4 = c ∧ t.tunes = s.tunes))
  ∧ (∀ s req p v, Writes req (Reg.TUNE.TR_CTRL p) s → isTunePage p = true → bit v 8 = false → bit v 9 = true → bit v 10 = false →
      trBusy s p = true →
    Runs (.tuneStop req p v) s fun t =>
      trState t p = 6 ∧ (tune t p).injected = 0 ∧ SameRegs (fun k => k == Reg.TUNE.TR_STATUS p) s t)
  ∧ (∀ s req p v, Writes req (Reg.TUNE.TR_CTRL p) s → isTunePage p = true → bit v 8 = false → bit v 9 = false → bit v 10 = true →
      trMode s p = 1 → trState s p = 1 → trPre s p ≤ (tune s p).records → (tune s p).trigger = none →
    Runs (.tuneForce req p v) s fun t => (tune t p).trigger = some s.time ∧ t.regs = s.regs)
  ∧ (∀ s p, isTunePage p = true → blockAlive s p = true → trMode s p = 1 → trState s p = 2 → (tune s p).left = 0 →
    Runs (.traceDone p) s fun t => trState t p = 3 ∧ t.tunes = s.tunes ∧ SameRegs (fun k => k == Reg.TUNE.TR_STATUS p) s t)
  ∧ (∀ s p n, injecting s p = true → sineOver s p = true → n = sinePoint s p →
    Runs (.sinePointEnd p n) s fun t =>
      t.reg (Reg.TUNE.INJ_PROGRESS p) = word (n + 1) ∧ (injPoints s p ≤ n + 1 → trState t p = 3 ∧ (tune t p).injected = 0)
        ∧ (n + 1 < injPoints s p → trState t p = 1 ∧ t.fld (Reg.TUNE.TR_STATUS p) 16 8 = n + 1))
  ∧ (∀ s p, injecting s p = true → injWave s p ≠ 0 →
      ((tune s p).start + s.fld (Reg.TUNE.INJ_TIME p) 15 0 * 1000000 ≤ s.time ∨ trDepth s p ≤ (tune s p).records) →
    Runs (.injectionEnd p) s fun t =>
      trState t p = 3 ∧ (tune t p).injected = 0 ∧ SameRegs (fun k => k == Reg.TUNE.TR_STATUS p) s t)

/-- The DRAM ports: INIT trains the port and its end fills it with zeros and gives the usable size; self-refresh is entered and left; the
temperature poll shows what it read; the scrub walks on and its log is cleared. -/
def Obligations.DramAndScrub : Prop :=
  (∀ s req n v r, n < 2 → Writes req (Reg.DRAM.DRAM_CMD n) s → bit v 0 = true → bit v 1 = false → bit v 2 = false →
      dramTrained s n = false → s.bit (Reg.DRAM.DRAM_STATUS n) 2 = false → r.first = true → r.capacity ∈ [4, 6, 8, 12, 16] →
    Runs (.dramInit req n v r) s fun t =>
      t.bit (Reg.DRAM.DRAM_STATUS n) 2 = true ∧ t.fld (Reg.DRAM.DRAM_STATUS n) 20 16 = r.capacity ∧ (dram t n).capacity = r.capacity
        ∧ SameRegs (fun k => k == Reg.DRAM.DRAM_STATUS n) s t)
  ∧ (∀ s req n v r, n < 2 → Writes req (Reg.DRAM.DRAM_CMD n) s → bit v 0 = true → bit v 1 = false → bit v 2 = false →
      dramTrained s n = false → s.bit (Reg.DRAM.DRAM_STATUS n) 2 = false → r.first = false → r.second = false →
      r.capacity ∈ [4, 6, 8, 12, 16] →
    exec (.dramInit req n v r) s = .next (lasting (Page.DRAM n) 1 1 {}
      ((modDram n (fun d => { d with rate := s.fld (Reg.DRAM.DRAM_CFG n) 1 0 }) (busOk 0#32 s)).count (Reg.DRAM.TRAIN_RETRIES n) 1)))
  ∧ (∀ s req n v r, n < 2 → Writes req (Reg.DRAM.DRAM_CMD n) s → bit v 0 = true → bit v 1 = false → bit v 2 = false →
      dramTrained s n = false → s.bit (Reg.DRAM.DRAM_STATUS n) 2 = false → r.capacity ∉ [4, 6, 8, 12, 16] →
    exec (.dramInit req n v r) s = .next (lasting (Page.DRAM n) 1 2 {}
      (modDram n (fun d => { d with rate := s.fld (Reg.DRAM.DRAM_CFG n) 1 0 }) (busOk 0#32 s))))
  ∧ (∀ s n, n < 2 → blockAlive s (Page.DRAM n) = true → s.bit (Reg.DRAM.DRAM_STATUS n) 2 = true →
    Runs (.initDone n) s fun t =>
      dramTrained t n = true ∧ t.bit (Reg.DRAM.DRAM_STATUS n) 2 = false ∧ t.mem = (zeroFill n s).mem ∧ t.checks = (zeroFill n s).checks
        ∧ (dramTrained s (1 - n) = true →
            t.reg64 Reg.BOAT.USABLE_LO = usableOf (min (dram s 0).capacity (dram s 1).capacity) % 2 ^ 64
              ∧ t.scrub.lapStart = s.time))
  ∧ (∀ s req n v, n < 2 → Writes req (Reg.DRAM.DRAM_CMD n) s → bit v 0 = false → bit v 1 = true → bit v 2 = false →
    Runs (.srEnter req n v) s fun t => (dram t n).srWant = some true ∧ t.regs = s.regs)
  ∧ (∀ s req n v, n < 2 → Writes req (Reg.DRAM.DRAM_CMD n) s → bit v 0 = false → bit v 1 = false → bit v 2 = true →
    Runs (.srExit req n v) s fun t => (dram t n).srWant = some false ∧ t.regs = s.regs)
  ∧ (∀ s n enter, n < 2 → blockAlive s (Page.DRAM n) = true → dramTrained s n = true → (dram s n).srWant = some enter →
      enter ≠ dramAsleep s n → (enter = true → (s.boat.inFlight.any fun x => xactOnPort x.words n) = false) →
    Runs (.selfRefresh n) s fun t =>
      dramAsleep t n = enter ∧ (dram t n).srWant = none
        ∧ SameRegs (fun k => k == Reg.DRAM.DRAM_STATUS n || k == Reg.EV_PEND (Page.DRAM n)) s t)
  ∧ (∀ s n rate hot, n < 2 → dramServes s n = true →
    Runs (.mr4Poll n rate hot) s fun t => t.fld (Reg.DRAM.DRAM_STATUS n) 12 8 = rate % 32 ∧ (dram t n).hot = hot)
  ∧ (∀ s quiet noise, blockAlive s Page.SCRUB = true → s.bit Reg.SCRUB.SCRUB_CFG 0 = true → dramReady s = true →
      s.bit Reg.BOAT.ENGINE_STATE 3 = false → engineRuns s 0x31 = true →
      s.scrub.lastStep + s.fld Reg.SCRUB.SCRUB_CFG 15 8 * 100 ≤ s.time → s.fld Reg.SCRUB.SCRUB_CFG 23 16 ≤ quiet →
    Runs (.scrubStep quiet noise) s fun t =>
      t.scrub.lastStep = s.time
        ∧ t.fld Reg.SCRUB.POSITION 25 0 = (if usableSize s ≤ (s.fld Reg.SCRUB.POSITION 25 0 + 1) * 512 then 0
            else (s.fld Reg.SCRUB.POSITION 25 0 + 1) % 2 ^ 26))
  ∧ (∀ s req v, Writes req Reg.SCRUB.LOG_CTRL s → bit v 0 = true →
    Runs (.scrubLogClear req v) s fun t => (∀ i, i < 16 → t.reg (Reg.SCRUB.LOG i) = 0#32) ∧ t.scrub.fullSaid = false)

/-- Boathouse: a transaction that holds its credit moves its granules and waits for its acknowledgement, at which its credit returns; dirty
reservations are granted within the limit, wait in order, or pass as write-through. -/
def Obligations.BufferTransactions : Prop :=
  (∀ s q noise it u, xactTake q 1 (xactGrantNext s) = some (it, u) →
    exec (.xactRead q noise) s = .next
      (let r := readGranules (xactSole it.words) it.port noise (xactGran it.words) (xactCount it.words) (strikeAllDram noise u)
       let t := xactMoved it r.2.1 r.2.2.1 r.2.2.2
       { t with boat := { t.boat with delivered := r.1 } }))
  ∧ (∀ s q beats it u, xactTake q 2 (xactGrantNext s) = some (it, u) →
    exec (.xactWrite q beats) s = .next
      (xactMoved it 0 (64 * xactGran it.words) (putGranules (xactGran it.words) (padBeats (xactCount it.words) beats) u)))
  ∧ (∀ s q noise it u, xactTake q 3 (xactGrantNext s) = some (it, u) →
    exec (.xactCopy q noise) s = .next
      (let r := copyGranules (xactSole it.words) it.port noise (xactGran it.words) (xactDest it.words) (xactCount it.words)
         (0, 64 * xactGran it.words, strikeAllDram noise u)
       xactMoved it r.1 r.2.1 r.2.2))
  ∧ (∀ s q it u, xactTake q 4 (xactGrantNext s) = some (it, u) →
    exec (.xactFill q) s = .next (xactMoved it 0 (64 * xactGran it.words) (putGranules (xactGran it.words)
      (List.replicate (xactCount it.words) ⟨(List.replicate 8 (toBytes 8 (xactPattern it.words))).flatten, false⟩) u)))
  ∧ (∀ s q beat noise it u, xactTake q 5 (xactGrantNext s) = some (it, u) → xactPattern it.words = 0xFFFFFFFFFFFFFFFF →
    exec (.xactMerge q beat noise) s = .next (xactMoved it 0 (64 * xactGran it.words) (putGranule (xactGran it.words) beat u)))
  ∧ (∀ s q beat noise it u, xactTake q 5 (xactGrantNext s) = some (it, u) → xactPattern it.words ≠ 0xFFFFFFFFFFFFFFFF →
    exec (.xactMerge q beat noise) s = .next
      (let g := xactGran it.words
       let r := readGranule (xactSole it.words) it.port noise g (strikeAllDram noise u)
       let data := r.1.data.zipIdx.map fun e => if (xactPattern it.words).testBit e.2 then beat.data.getD e.2 0#8 else e.1
       xactMoved it r.2.1 (64 * g) (putGranule g ⟨data, r.1.poison || beat.poison⟩ r.2.2)))
  ∧ (∀ s port tag x, pageOn s Page.BOAT = true → s.boat.inFlight.find? (fun x => x.port == port && xactTag x.words == tag) = some x →
    Runs (.xactDone port tag) s fun t =>
      t.boat.inFlight = s.boat.inFlight.erase x
        ∧ (s.boat.creditWait = [] → SMap.get (fun _ => 0) t.boat.held (xactClass x.words) = xactHeld s (xactClass x.words) - 1))
  ∧ (∀ s task n, boatOn s = true → 1 ≤ n → n ≤ 16384 → wbActive s = false →
    Runs (.dirtyReserve task n) s fun t =>
      t.boat.through = s.boat.through ++ [task] ∧ t.boat.granted = s.boat.granted ∧ t.regs = s.regs)
  ∧ (∀ s task n, boatOn s = true → 1 ≤ n → n ≤ 16384 → wbActive s = true → s.boat.waiting = [] → dirtyCount s + n ≤ dirtyLimit s →
      dirtyLimit s < 0x4000000 →
    Runs (.dirtyReserve task n) s fun t =>
      t.boat.granted = s.boat.granted ++ [⟨task, n⟩] ∧ dirtyCount t = dirtyCount s + n
        ∧ SameRegs (fun k => k == Reg.BOAT.DIRTY_COUNT) s t)
  ∧ (∀ s task n, boatOn s = true → 1 ≤ n → n ≤ 16384 → wbActive s = true →
      (s.boat.waiting ≠ [] ∨ dirtyLimit s < dirtyCount s + n) →
    Runs (.dirtyReserve task n) s fun t =>
      t.boat.waiting = s.boat.waiting ++ [⟨task, n⟩] ∧ t.boat.granted = s.boat.granted ∧ dirtyCount t = dirtyCount s)
  ∧ (∀ s r rest, boatOn s = true → wbActive s = true → s.boat.waiting = r :: rest → dirtyCount s + r.granules ≤ dirtyLimit s →
      dirtyLimit s < 0x4000000 →
    Runs .dirtyGrant s fun t =>
      t.boat.waiting = rest ∧ t.boat.granted = s.boat.granted ++ [r] ∧ dirtyCount t = dirtyCount s + r.granules
        ∧ SameRegs (fun k => k == Reg.BOAT.DIRTY_COUNT) s t)
  ∧ (∀ s req v, Writes req Reg.BOAT.DIRTY_ADJ s → bit v 31 = false → fld v 14 0 ≠ 0 → fld v 14 0 ≤ 16384 → wbActive s = true →
      dirtyCount s + fld v 14 0 ≤ dirtyLimit s → dirtyLimit s < 0x4000000 →
    Runs (.dirtyAdjReserve req v) s fun t =>
      dirtyCount t = dirtyCount s + fld v 14 0 ∧ t.reg Reg.BOAT.DIRTY_ADJ_RESULT = 1#32
        ∧ SameRegs (fun k => k == Reg.BOAT.DIRTY_COUNT || k == Reg.BOAT.DIRTY_ADJ_RESULT) s t)
  ∧ (∀ s req v, Writes req Reg.BOAT.DIRTY_ADJ s → bit v 31 = true → fld v 14 0 ≠ 0 → fld v 14 0 ≤ 16384 → fld v 14 0 ≤ dirtyCount s →
    Runs (.dirtyAdjRelease req v) s fun t =>
      dirtyCount t = dirtyCount s - fld v 14 0 ∧ t.reg Reg.BOAT.DIRTY_ADJ_RESULT = 1#32
        ∧ SameRegs (fun k => k == Reg.BOAT.DIRTY_COUNT || k == Reg.BOAT.DIRTY_ADJ_RESULT) s t)
  ∧ (∀ s req v, Writes req Reg.BOAT.DIRTY_ADJ s → bit v 31 = true → fld v 14 0 ≤ 16384 → dirtyCount s < fld v 14 0 →
    Runs (.dirtyAdjRelease req v) s fun t =>
      dirtyCount t = 0 ∧ t.reg Reg.BOAT.DIRTY_ADJ_RESULT = 3#32 ∧ t.bit (Reg.EV_PEND Page.BOAT) 6 = true)

/-- The buffer cache: an access of an SRAM reads and writes its bytes, a load of the read-only memories answers an open word, an access of
the window takes the line; a locked set of at most eight ways; a range operation starts, stops and ends with its counts in the result
registers. -/
def Obligations.CacheCommands : Prop :=
  (∀ s req a w v parity noise r, s.chip.held = none → s.bus.stalled.contains req = false → memRange a.toNat (accessBytes w) = r →
      r = 2 ∨ r = 3 ∨ r = 4 → mayTouch r req false s = true → parity ≠ .l1 → (∀ again, parity ≠ .sram again) →
    Runs (.cacheAccess req false a w v parity noise) s fun t =>
      t.bus.error = false ∧ t.bus.data = word (ofBytes (sramBytes s a.toNat (accessBytes w)))
        ∧ t.cache.loaded = BitVec.ofNat 64 (ofBytes (sramBytes s a.toNat (accessBytes w))) ∧ t.mem = s.mem ∧ t.regs = s.regs)
  ∧ (∀ s n a w v noise, s.chip.held = none → s.bus.stalled.contains (.stroke n) = false → memRange a.toNat (accessBytes w) = 4 →
      mayTouch 4 (.stroke n) false s = true →
    (Runs (.cacheAccess (.stroke n) false a w v (.sram false) noise) s fun t =>
        t.bus.error = false ∧ t.bus.data = word (ofBytes (sramBytes s a.toNat (accessBytes w))))
      ∧ Runs (.cacheAccess (.stroke n) false a w v (.sram true) noise) s fun t =>
        t.bus.error = true ∧ t.reg (Reg.STROKE.FAULT_ADDR_LO n.val) = loWord a.toNat
          ∧ t.fld (Reg.STROKE.FAULT_ADDR_HI n.val) 15 8 = 1)
  ∧ (∀ s req a w v parity noise r, s.chip.held = none → s.bus.stalled.contains req = false → memRange a.toNat (accessBytes w) = r →
      r = 3 ∨ r = 4 → mayTouch r req true s = true →
    Runs (.cacheAccess req true a w v parity noise) s fun t =>
      t.bus.error = false ∧ t.regs = s.regs ∧ t.cache = s.cache
        ∧ (∀ x, t.byteAt x = if a.toNat ≤ x ∧ x < a.toNat + accessBytes w then (toBytes (accessBytes w) v.toNat).getD (x - a.toNat) 0#8
            else s.byteAt x))
  ∧ (∀ s req a w v parity noise r, s.chip.held = none → s.bus.stalled.contains req = false → memRange a.toNat (accessBytes w) = r →
      r = 1 ∨ r = 6 → mayTouch r req false s = true →
    Runs (.cacheAccess req false a w v parity noise) s fun t =>
      t.bus.error = false ∧ t.free = s.free + 2 ∧ t.mem = s.mem ∧ t.regs = s.regs
        ∧ t.bus.data = word ((s.freeWord.toNat + s.useFree.freeWord.toNat * 2 ^ 32) % 2 ^ (8 * accessBytes w)))
  ∧ (∀ s req write a w v parity noise, s.chip.held = none → s.bus.stalled.contains req = false → memRange a.toNat (accessBytes w) = 7 →
      mayTouch 7 req write s = true → a.toNat - dramBase + accessBytes w ≤ usableSize s →
      windowWaits write parity a (accessBytes w) s = false → linesWait req a (accessBytes w) s.bus.held = false →
      (parity = .l1 → write = true) → s.bit (Reg.CTRL Page.CACHE) 0 = true →
      (a.toNat - dramBase) % 64 + accessBytes w ≤ 64 →
    exec (.cacheAccess req write a w v parity noise) s = .next
      (accessLine req write a ((a.toNat - dramBase) % 64) (accessBytes w) v (firstParity parity) noise ((a.toNat - dramBase) / 64)
        (strikeAllDram noise (rangeAdvance s))))
  ∧ (∀ s req v, Writes req Reg.CACHE.LOCK_MASK s → ((List.range 16).filter (fun w => bit v w)).length ≤ 8 → s.cache.range = none →
    Runs (.lockMaskWrite req v) s fun t =>
      t.reg Reg.CACHE.LOCK_MASK = v &&& 0xFFFF#32 ∧ t.cache = s.cache ∧ SameRegs (fun k => k == Reg.CACHE.LOCK_MASK) s t)
  ∧ (∀ s req v, Writes req Reg.CACHE.LOCK_MASK s →
      (8 < ((List.range 16).filter (fun w => bit v w)).length ∨ s.cache.range.isSome = true) →
    Runs (.lockMaskWrite req v) s fun t => t.reg Reg.CACHE.LOCK_MASK = s.reg Reg.CACHE.LOCK_MASK ∧ t.cache = s.cache)
  ∧ (∀ s req v (op : Nat) (c : Instr), Writes req Reg.CACHE.RANGE_CTRL s → bit v 8 = true → bit v 9 = false → fld v 2 0 = op →
      (op = 1 ∧ c = .rangeClean req v ∨ op = 2 ∧ c = .rangeInvalidate req v ∨ op = 3 ∧ c = .rangeCleanInvalidate req v
        ∨ op = 4 ∧ c = .rangeZero req v ∨ op = 5 ∧ c = .rangeLockFill req v) →
      s.cache.range = none → s.fld Reg.CACHE.RANGE_LINES 29 0 ≠ 0 → (4 ≤ op → s.fld Reg.CACHE.RANGE_LINES 29 0 ≤ 524288) →
      64 * (s.reg64 Reg.CACHE.RANGE_BASE_LO / 64 + s.fld Reg.CACHE.RANGE_LINES 29 0) ≤ usableSize s →
    Runs c s fun t =>
      t.cache = { s.cache with range := some ⟨op, bit v 4, s.reg64 Reg.CACHE.RANGE_BASE_LO / 64, s.fld Reg.CACHE.RANGE_LINES 29 0,
                                               s.time, 0, 0, none, 0, 0⟩ }
        ∧ t.reg Reg.CACHE.RANGE_CTRL = v &&& 0x17#32 ∧ SameRegs (fun k => k == Reg.CACHE.RANGE_CTRL) s t)
  ∧ (∀ s req v, Writes req Reg.CACHE.RANGE_CTRL s → bit v 8 = false → bit v 9 = true →
    exec (.rangeStop req v) s = .next (rangeEnd 2 ((rangeAdvance (busOk 0#32 s)).setReg Reg.CACHE.RANGE_CTRL (v &&& 0x17#32))))
  ∧ (∀ s r, blockAlive s Page.CACHE = true → s.cache.range = some r → r.done = rangeTotal r →
    Runs (.rangeDone .none) s fun t =>
      t.cache = { s.cache with range := none } ∧ t.reg Reg.CACHE.RANGE_RESULT = 1#32 ∧ t.reg Reg.CACHE.RANGE_DONE_LINES = word r.done
        ∧ t.reg Reg.CACHE.SKIPPED = word r.skipped ∧ t.reg Reg.CACHE.WRITEBACKS = word r.writebacks
        ∧ t.reg Reg.CACHE.DISCARDED = word r.discarded ∧ t.reg64 Reg.CACHE.FIRST_SKIP_LO = r.firstSkip.getD 0 % 2 ^ 64)
  ∧ (∀ s, blockAlive s Page.CACHE = true → s.cache.range.isSome = true →
    exec (.rangeDone .dirty) s = .next
        (machineCheck Page.CACHE (sourceOf Page.CACHE 1) 0 (raise Page.CACHE 1 4 0 {} (rangeEnd 2 (rangeAdvance s))))
      ∧ exec (.rangeDone .tag) s = .next
        (machineCheck Page.CACHE (sourceOf Page.CACHE 2) 0 (raise Page.CACHE 2 4 0 {} (rangeEnd 2 (rangeAdvance s)))))

/-- The debug port: certificates, halts, steps, breakpoints and the registers of a halted engine; memory and register accesses through the
TAP; the TAP's own registers and the chain; the analogue test buses; and the answers of the SMBus port. -/
def Obligations.DebugCommands : Prop :=
  (∀ s req v, Writes req Reg.DBG.CERT_CTRL s → bit v 0 = true → bit v 1 = false → blockAlive s Page.KEYS = true →
    exec (.chalReq req v) s = .next (newChallenge (busOk 0#32 s)))
  ∧ (∀ s req v, Writes req Reg.DBG.CERT_CTRL s → bit v 0 = false → bit v 1 = true → blockAlive s Page.KEYS = true →
    exec (.certSubmit req v) s = .next (submitCert (busOk 0#32 s)))
  ∧ (∀ s req v o, Writes req Reg.DBG.MEM_CTRL s → bit v 0 = true → bit v 1 = false →
      portRefused false (BitVec.ofNat 40 (s.reg64 Reg.DBG.MEM_ADDR_LO)) (s.setBit Reg.DBG.MEM_CTRL 5 false) = false →
    let a : Addr := BitVec.ofNat 40 (s.reg64 Reg.DBG.MEM_ADDR_LO)
    let t := tapReadWord a o ((busOk 0#32 s).setBit Reg.DBG.MEM_CTRL 5 false)
    t.bus.held = s.bus.held →
    exec (.memRead req v o) s = .next (busOk 0#32 (t.setReg Reg.DBG.MEM_DATA t.bus.data)))
  ∧ (∀ s req v o, Writes req Reg.DBG.MEM_CTRL s → bit v 0 = false → bit v 1 = true →
      portRefused true (BitVec.ofNat 40 (s.reg64 Reg.DBG.MEM_ADDR_LO)) (s.setBit Reg.DBG.MEM_CTRL 5 false) = false →
    exec (.memWrite req v o) s = .next (busOk 0#32
      (tapWriteWord (BitVec.ofNat 40 (s.reg64 Reg.DBG.MEM_ADDR_LO)) (s.reg Reg.DBG.MEM_DATA) o
        ((busOk 0#32 s).setBit Reg.DBG.MEM_CTRL 5 false))))
  ∧ (∀ s req v o, Writes req Reg.DBG.MEM_CTRL s → bit v 0 = true → bit v 1 = false →
      portRefused false (BitVec.ofNat 40 (s.reg64 Reg.DBG.MEM_ADDR_LO)) ((busOk 0#32 s).setBit Reg.DBG.MEM_CTRL 5 false) = true →
    Runs (.memRead req v o) s fun t => t.bit Reg.DBG.MEM_CTRL 5 = true)
  ∧ (∀ s req v, Writes req Reg.DBG.ENG_CTRL s → bit v 0 = true → debugLevel s = 2 → engineThere s (engSel s) = true →
      engineHalted s (engSel s) = false → (s.dbg.haltsBarred && barredEngine (engSel s)) = false → needsForce s (engSel s) = false →
    Runs (.engineHalt req v) s fun t =>
      t.dbg = { s.dbg with haltWanted := s.dbg.haltWanted.filter (· != engSel s) ++ [engSel s] } ∧ t.regs = s.regs)
  ∧ (∀ s req v, Writes req Reg.DBG.ENG_CTRL s → bit v 0 = true → debugLevel s = 2 → engineThere s (engSel s) = true →
      engineHalted s (engSel s) = false → (s.dbg.haltsBarred && barredEngine (engSel s)) = true →
    Runs (.engineHalt req v) s fun t => t.dbg = s.dbg ∧ SameRegs (fun k => k == Reg.EV_PEND Page.DBG) s t)
  ∧ (∀ s e pc, s.dbg.haltWanted.contains e = true → engineThere s e = true →
    Runs (.halted e pc) s fun t =>
      t.dbg = { s.dbg with halts := SMap.set (fun _ => 0) s.dbg.halts e 1, haltWanted := s.dbg.haltWanted.filter (· != e)
                           pcs := SMap.set (fun _ => 0) s.dbg.pcs e pc }
        ∧ (∀ n : Fin 4, e = 2 + n.val → (SMap.get (fun _ => Stroke.reset) t.strokes n.val).haltAt = some s.time))
  ∧ (∀ s req v, Writes req Reg.DBG.ENG_CTRL s → bit v 0 = false → bit v 1 = true → debugLevel s = 2 → engineHalted s (engSel s) = true →
    Runs (.engineResume req v) s fun t => t.dbg = { s.dbg with halts := SMap.set (fun _ => 0) s.dbg.halts (engSel s) 0 })
  ∧ (∀ s req v pc, Writes req Reg.DBG.ENG_CTRL s → bit v 0 = false → bit v 1 = false → bit v 2 = true → debugLevel s = 2 →
      engineHalted s (engSel s) = true →
    Runs (.engineStep req v pc) s fun t =>
      t.dbg = { s.dbg with halts := SMap.set (fun _ => 0) s.dbg.halts (engSel s) 3
                           haltWanted := s.dbg.haltWanted.filter (· != engSel s), pcs := SMap.set (fun _ => 0) s.dbg.pcs (engSel s) pc })
  ∧ (∀ s e pc n, debugLevel s = 2 → engineThere s e = true → engineHalted s e = false → n < 4 → breakpointAt s e pc n = true →
    Runs (.breakpoint e pc) s fun t =>
      t.dbg = { s.dbg with halts := SMap.set (fun _ => 0) s.dbg.halts e 2, haltWanted := s.dbg.haltWanted.filter (· != e)
                           pcs := SMap.set (fun _ => 0) s.dbg.pcs e pc })
  ∧ (∀ s req x, ReadsOf req Reg.DBG.REG_DATA_LO s → engineHalted s (engSel s) = true → SMap.get (fun _ => none) s.dbg.regs (regPlace s) = some x →
    Runs (.regDataAccess req false false 0#32) s fun t =>
      t.bus.data = loWord x.toNat ∧ t.bus.error = false ∧ t.dbg = s.dbg
        ∧ latched req Reg.DBG.REG_DATA_HI t = some (hiWord x.toNat))
  ∧ (∀ s req v lo, Writes req Reg.DBG.REG_DATA_HI s → engineHalted s (engSel s) = true →
      SMap.get (fun _ => none) s.bus.lowWrites (latchKey req Reg.DBG.REG_DATA_HI) = some lo →
    Runs (.regDataAccess req true true v) s fun t =>
      t.dbg = { s.dbg with regs := SMap.set (fun _ => none) s.dbg.regs (regPlace s) (some (BitVec.ofNat 64 (ofWords lo v))) })
  ∧ (∀ s p write a v o k, tapReached s p = true → wordKey a .word = some k →
    (write = true → exec (.dbgAccess p write a v o) s = .next (tapShift [] (withWriteOut o .debugPort k v (busEffect .debugPort k v o) s)))
      ∧ (write = false → Runs (.dbgAccess p write a v o) s fun t =>
          let u := withReadOut o .debugPort k (regRead .debugPort k o.parityBad o.rereadBad) s
          t.dbg.tapOut = bitList 32 u.bus.data.toNat ∧ t.dbg.extest = false ∧ t.regs = u.regs))
  ∧ (∀ s p, tapReached s p = true →
    Runs (.idcode p) s fun t => t.dbg = { s.dbg with tapOut := bitList 32 (idCode s), extest := false } ∧ t.regs = s.regs)
  ∧ (∀ s p bits, tapReached s p = true →
    Runs (.bypass p bits) s fun t =>
      t.dbg = { s.dbg with tapOut := false :: bits.dropLast, extest := false, bypassBit := bits.getLastD false } ∧ t.regs = s.regs)
  ∧ (∀ s p capture load, tapReached s p = true → debugLevel s ≠ 0 →
    Runs (.samplePreload p capture load) s fun t =>
      t.dbg = { s.dbg with tapOut := capture, extest := false, chain := load } ∧ t.regs = s.regs)
  ∧ (∀ s p, tapReached s p = true → debugLevel s ≠ 0 → extestOk s = true →
    Runs (.extest p) s fun t => t.dbg = { s.dbg with extest := true } ∧ t.regs = s.regs)
  ∧ (∀ s p, tapReached s p = true → debugLevel s ≠ 0 → extestOk s = false →
    Runs (.extest p) s fun t => t.dbg.extest = false ∧ t.dbg.tapOut = [false])
  ∧ (∀ s, pageOn s Page.DBG = true →
    Runs (.adapterActivation true true) s fun t => t.dbg = { s.dbg with adapter := true } ∧ t.regs = s.regs)
  ∧ (∀ s, Runs .adapterReset s fun t => t.dbg = { s.dbg with adapter := false } ∧ t.regs = s.regs)
  ∧ (∀ s req v, Writes req Reg.ATB.ATB0_SEL s → debugLevel s ≠ 0 →
    Runs (.atbSelect req false v) s fun t =>
      t.reg Reg.ATB.ATB0_SEL = ((s.reg Reg.ATB.ATB0_SEL &&& ~~~ 0x1F3F#32) ||| (v &&& 0x1F3F#32))
        ∧ SameRegs (fun k => k == Reg.ATB.ATB0_SEL || k == Reg.EV_PEND Page.ATB) s t)
  ∧ (∀ s req v, Writes req Reg.ATB.ATB1_SEL s → fld v 5 0 = 0 ∨ holds req 7 1 s = true →
    Runs (.atbSelect req true v) s fun t =>
      t.reg Reg.ATB.ATB1_SEL = ((s.reg Reg.ATB.ATB1_SEL &&& ~~~ 0x1F3F#32) ||| (v &&& 0x1F3F#32))
        ∧ SameRegs (fun k => k == Reg.ATB.ATB1_SEL || k == Reg.EV_PEND Page.ATB) s t)
  ∧ (∀ s, domainOn s 0 = true →
    exec .smbusPart s = .next { s with smbus := ⟨toBytes 2 (if otpPart s then 0x4820 else 0x4840), false⟩ }
      ∧ exec .smbusMode s = .next { s with smbus := ⟨toBytes 1 (mode s), false⟩ }
      ∧ exec .smbusDriveTemp s = .next { s with smbus := ⟨toBytes 2 (if s.bit Reg.HDA.TEMP 31 then s.fld Reg.HDA.TEMP 15 0 else 0x8000), false⟩ }
      ∧ (∀ x, exec (.smbusCoreTemp x) s = .next { s with smbus := ⟨toBytes 2 (toField 16 x), false⟩ })
      ∧ exec .smbusRigTemp s = .next { s with smbus := ⟨toBytes 2 (s.fld Reg.DRV.RIG_TEMP 15 0), false⟩ }
      ∧ exec .smbusStatus s = .next { s with smbus := ⟨toBytes 1 ((if readyOut s then 1 else 0) + (if pwrFailing s then 2 else 0)
          + (if wbActive s then 4 else 0) + (if s.bit Reg.SAFE.HEALTH_STATUS 0 then 8 else 0)), false⟩ }
      ∧ exec .smbusSerial s = .next { s with smbus := ⟨(toBytes 8 (deviceSerial s)).reverse, false⟩ }
      ∧ (∀ c, exec (.smbusNack c true) s = .next { s with smbus := ⟨[], true⟩ })
      ∧ (∀ c w, 6 < c.toNat → exec (.smbusNack c w) s = .next { s with smbus := ⟨[], true⟩ })
      ∧ (∀ ms, 25 ≤ ms → exec (.smbusTimeout ms) s = .next { s with smbus := ⟨[], false⟩ }))

/-- Gate and Sweep: a good run that holds its credits joins the pool and a bad one is refused; a slot takes the cheapest run of the highest
level; a run ages and ends; a group goes to Rudder; a lane takes a slot's work and ends it; the ladder's timeout and re-equalisation act on
their slot alone. -/
def Obligations.RunAndLaneCommands : Prop :=
  (∀ s a it x t, a < 4 → engineTakes s (0x20 + a) = true → qFront (gateQ a) s = some it →
      creditGrants 8192 (sectorHeld s a) (resField s Reg.SYS.RES_SECTOR_LO) (runClass it.port it.words) (runCount it.words) = true →
      qNext (gateQ a) s = some (x, t) →
    (∀ code, runFault s a it.words = some code → exec (.runAdmit a) s = .next (refuseRun a code it.words t))
      ∧ (runFault s a it.words = none → Runs (.runAdmit a) s fun u =>
          (gate u a).runs = (gate t a).runs ++ [{ id := (gate t a).nextId, words := it.words, port := it.port
                                                  cls := runClass it.port it.words, since := t.time, aged := 0, todo := [(0, runCount it.words)]
                                                  ended := 0, lastings := 0, first := none, poisoned := false, started := false
                                                  quiet := false }]
            ∧ sectorHeld u a (runClass it.port it.words) = sectorHeld t a (runClass it.port it.words) + runCount it.words
            ∧ u.regs = t.regs))
  ∧ (∀ s a k r, k < 4 → a < 4 → engineTakes s (0x20 + a) = true → gateQuiet s = false →
      let s1 := gateSettle a s
      slotAvail s1 a k = true → actuatorUp s1 a = true →
      ((gate s1 a).issued.filter fun j => j.slot == k && jobWaits s1 a k j).length < s1.fld (Reg.GATE.SCHED_CFG a) 10 8 →
      pickOwn a k s1 = none → pickRun s1 a k = some r →
    exec (.gatePick a k) s = .next (formGroup a (issueRun a k r s1)))
  ∧ (∀ s a k t, k < 4 → a < 4 → engineTakes s (0x20 + a) = true → gateQuiet s = false →
      let s1 := gateSettle a s
      slotAvail s1 a k = true → actuatorUp s1 a = true →
      ((gate s1 a).issued.filter fun j => j.slot == k && jobWaits s1 a k j).length < s1.fld (Reg.GATE.SCHED_CFG a) 10 8 →
      pickOwn a k s1 = some t →
    exec (.gatePick a k) s = .next (formGroup a t))
  ∧ (∀ s a r, gateRuns s a = true →
      ((gate s a).runs.find? fun r => runWaits s a r && decide (runLevel r < 7)
        && decide (r.since + (r.aged + 1) * (s.fld (Reg.GATE.SCHED_CFG a) 31 16 * 1000000) ≤ s.time)) = some r →
    (runLevel { r with aged := r.aged + 1 } < 7 → exec (.runAge a) s = .next (modRun a r.id (fun x => { x with aged := x.aged + 1 }) s))
      ∧ (7 ≤ runLevel { r with aged := r.aged + 1 } → Runs (.runAge a) s fun u =>
          (gate u a).agedTime = some s.time
            ∧ u.reg (Reg.GATE.AGED_COUNT a) = word (satAdd 0xFFFFFFFF (s.reg (Reg.GATE.AGED_COUNT a)).toNat 1)))
  ∧ (∀ s a r, gateRuns s a = true →
      let s1 := gateSettle a s
      ((gate s1 a).runs.find? fun r => decide (runCount r.words ≤ r.ended)) = some r →
    let s2 := modGate a (fun g => { g with runs := g.runs.filter (·.id != r.id) }) s1
    exec (.runEnd a) s = .next (if r.quiet = true then s2
      else reportRun a r.words (if 0 < r.lastings then 2 else if r.poisoned then 1 else 0) r.lastings
        (r.first.getD (0, 0)).1 (r.first.getD (0, 0)).2 (s2.count (Reg.GATE.RUNS_DONE a) 1)))
  ∧ (∀ s a g, rudAlive s a = true → gateRuns s a = true → (gate s a).unready = false → (gate s a).offer = some g →
    exec (.rudderGroup a) s = .next (gateNotes a (offerGroup a g (modGate a (fun x => { x with offer := none }) s))))
  ∧ (∀ s l n x, sweepAlive s = true → laneFree s l = true → nextWork s l = some (n, x) → decSlot s n = some x →
      ((List.range l).any fun j => laneFree s j && (nextWork s j).isSome) = false →
    (sliceSpent s x = false → Runs (.laneDispatch l false) s fun t =>
        decLane t l = some ⟨n, x.state == 4, passBudget s x, slotInput x, targetTaps x.target, minSum s⟩ ∧ decSlot t n = some { x with state := 3 } ∧ t.regs = s.regs)
      ∧ (sliceSpent s x = false → exec (.laneDispatch l true) s = .next (slotParity n x s))
      ∧ (sliceSpent s x = true → ∀ b, exec (.laneDispatch l b) s = .next (readFailed n (decide (x.rung ≤ 2)) s)))
  ∧ (∀ s l x d r out, sweepAlive s = true → decLane s l = some x → decSlot s x.slot = some d → d.badLane = none → x.slice = false →
      laneRun x.offsets.1 x.budget r.soft Decoder.fresh = some out →
      (out.converged && !syndromeZero (invertBits out.bits r.flips)) = false →
    let e := passEnd out.converged (invertBits out.bits r.flips)
    exec (.decodeEnd l r) s = .next (askWrite d.oar (actOnPass x.slot e (countFirst r.soft.length e
      (modDec x.slot (fun y => { y with badLane := none, iters := 0, decoder := out.decoder })
        (laneBusy l (256 + 768 * r.soft.length) (setLane l none s)))))))
  ∧ (∀ s l x d r out, sweepAlive s = true → decLane s l = some x → decSlot s x.slot = some d → d.badLane = none → x.slice = true →
      laneRun x.offsets.2 x.budget r.soft d.decoder = some out →
      (out.converged && !syndromeZero (invertBits out.bits r.flips)) = false →
    exec (.sliceEnd l r) s = .next (askWrite d.oar (actOnPass x.slot (passEnd out.converged (invertBits out.bits r.flips))
      (modDec x.slot (fun y => { y with badLane := none, iters := y.iters + r.soft.length, decoder := out.decoder })
        (laneBusy l (128 + 768 * r.soft.length) (setLane l none s))))))
  ∧ (∀ s l x d r out, sweepAlive s = true → decLane s l = some x → decSlot s x.slot = some d → x.slice = false →
      laneRun x.offsets.1 x.budget r.soft Decoder.fresh = some out → out.converged = true →
      syndromeZero (invertBits out.bits r.flips) = false →
    exec (.decodeEnd l r) s = .next (laneRejected l x.slot (laneBusy l (256 + 768 * r.soft.length) (setLane l none s))))
  ∧ (∀ s n x e, sweepAlive s = true → decSlot s n = some x → entry s x.oar x.entry = some e → x.kind = 3 → x.rung = 4 → x.state = 1 →
      x.requal < 4 → (oar s x.oar).rawHeld = some x.entry → (oar s x.oar).passage ≠ some (x.entry, false) →
    Runs (.reequalise n x.requal) s fun t =>
      decSlot t n = some { x with state := 2, since := s.time, requal := x.requal + 1
                                  cur := reequalised s x.oar e (rungWeights x.requal).1 (rungWeights x.requal).2
                                    (heldRaw s x.oar x.entry) } ∧ t.regs = s.regs)
  ∧ (∀ s n x, sweepAlive s = true → decSlot s n = some x → x.kind = 3 → x.expired = false →
      x.start + s.fld Reg.SWEEP.RECOV_LIMIT 15 0 * 1000000 ≤ s.time →
    (x.state = 2 ∨ x.state = 3 → Runs (.ladderTimeout n) s fun t => decSlot t n = some { x with expired := true } ∧ t.regs = s.regs)
      ∧ (x.state ≠ 2 → x.state ≠ 3 → (oar s x.oar).passage ≠ some (x.entry, false) →
          exec (.ladderTimeout n) s = .next (unreadable n 6 (withdrawRecover x (modDec n (fun y => { y with expired := true }) s)))))
  ∧ (∀ s req v, Writes req Reg.SWEEP.LANE_EN s →
    (fld v 11 0 ≠ 0 → Runs (.laneEnWrite req v) s fun t =>
        t.fld Reg.SWEEP.LANE_EN 11 0 = fld v 11 0 ∧ t.sweep = s.sweep ∧ SameRegs (fun k => k == Reg.SWEEP.LANE_EN) s t)
      ∧ (fld v 11 0 = 0 → Runs (.laneEnWrite req v) s fun t => t.sweep = s.sweep ∧ t.regs = s.regs))

/-- Units, hazards and intake: firmware enters and releases hazard entries; an LU command creates, deletes and updates a unit or is refused;
a command frame becomes a task, whose fast-path decode serves it or passes it on; a waiting command takes its buffer. -/
def Obligations.UnitAndIntakeCommands : Prop :=
  (∀ s req v e, Writes req Reg.HAZ.FW_CMD s → fld v 29 28 = 1 → hazFree s = some e → (s.reg Reg.HAZ.FW_COUNT).toNat ≠ 0 →
      s.reg64 Reg.HAZ.FW_LBA_LO + (s.reg Reg.HAZ.FW_COUNT).toNat ≤ 0x10000000000000000 → fld v 20 8 < 8192 →
    Runs (.hazEnter req v) s fun t => ∃ x wait, hazEntry t e = some x
      ∧ x.lu = fld v 5 0 ∧ x.write = bit v 7 ∧ x.fw = true ∧ x.task = fld v 20 8 ∧ x.lba = s.reg64 Reg.HAZ.FW_LBA_LO
      ∧ x.blocks = (s.reg Reg.HAZ.FW_COUNT).toNat ∧ x.order = s.slip.nextOrder ∧ x.waiting = wait
      ∧ t.reg Reg.HAZ.FW_RESULT = word ((if wait then 2 else 1) + 0 * 4 + e % 4096 * 65536)
      ∧ SameRegs (fun k => k == Reg.HAZ.FW_RESULT || k == Reg.HAZ.HAZ_HWM) s t)
  ∧ (∀ s req v, Writes req Reg.HAZ.FW_CMD s → fld v 29 28 = 2 → (hazEntry s (fld v 11 0)).any (·.fw) = true →
    exec (.hazRelease req v) s = .next (hostDrain (hazResult 0 0 (fld v 11 0) (dropHaz (fld v 11 0) (busOk 0#32 s)))))
  ∧ (∀ s req v, Writes req Reg.HAZ.FW_CMD s → fld v 29 28 = 2 → (hazEntry s (fld v 11 0)).any (·.fw) = false →
    Runs (.hazRelease req v) s fun t => t.slip = s.slip ∧ t.reg Reg.HAZ.FW_RESULT = word 11)
  ∧ (∀ s y, pageOn s Page.HAZ = true →
      ((hazList (hostDrain s)).find? fun y => y.2.fw && y.2.waiting && !earlierOverlap (hostDrain s) y.2) = some y →
    Runs .fwReady s fun t => hazEntry t y.1 = some { y.2 with waiting := false })
  ∧ (∀ s req v, Writes req Reg.HAZ.FW_CMD s → fld v 29 28 = 0 ∨ fld v 29 28 = 3 →
    Runs (.hazFwCmdUnlisted req v) s fun t =>
      t.slip = s.slip ∧ t.reg Reg.HAZ.FW_RESULT = word 11 ∧ SameRegs (fun k => k == Reg.HAZ.FW_RESULT || k == Reg.EV_PEND Page.HAZ) s t)
  ∧ (∀ s req v ws es s1 s2, Writes req Reg.LUT.CMD s → fld v 10 8 = 1 → lutRoot s ≠ 0 → lu s (fld v 5 0) = none →
      fetchEntry (fld v 5 0) (busOk 0#32 s) = (ws, true, s1) → fetchExtents ws s1 = (es, s2) → formatOk ⟨ws, 1, es⟩ = true →
      (luWo ⟨ws, 1, es⟩ = 0 ∨ req = .cox) → keyOk s1 ⟨ws, 1, es⟩ = true → extentsOk s2 (fld v 5 0) ⟨ws, 1, es⟩ = true →
    exec (.luCreate req v) s = .next (lutChanged (fld v 5 0) 1
      (((List.range 64).filter fun k => (nexus s2 k).isSome).foldl (fun t k => setUa k (fld v 5 0) true t)
        (setLu (fld v 5 0) (some ⟨ws, 1, es⟩) s2))))
  ∧ (∀ s req v, Writes req Reg.LUT.CMD s → fld v 10 8 = 1 → lutRoot s ≠ 0 → (lu s (fld v 5 0)).isSome = true →
    Runs (.luCreate req v) s fun t =>
      t.slip = s.slip ∧ t.reg Reg.LUT.CMD_RESULT = word 66 ∧ SameRegs (fun k => k == Reg.LUT.CMD_RESULT || k == Reg.EV_PEND Page.LUT) s t)
  ∧ (∀ s req v u, Writes req Reg.LUT.CMD s → fld v 10 8 = 2 → lu s (fld v 5 0) = some u → u.state ≠ 2 → (luWo u = 0 ∨ req = .cox) →
    Runs (.luDelete req v) s fun t =>
      lu t (fld v 5 0) = some { u with state := 2 } ∧ t.reg Reg.LUT.CMD_RESULT = word 3 ∧ SameRegs (fun k => k == Reg.LUT.CMD_RESULT) s t)
  ∧ (∀ s n u, lu s n = some u → u.state = 2 → luBusy (hostDrain s) n = false →
    exec (.luDeleteDone n) s = .next (lutChanged n 2 (setLu n none (hostDrain s))))
  ∧ (∀ s req v u ws es s1 s2, Writes req Reg.LUT.CMD s → fld v 10 8 = 3 → lu s (fld v 5 0) = some u → u.state = 1 → lutRoot s ≠ 0 →
      fetchEntry (fld v 5 0) (busOk 0#32 s) = (ws, true, s1) → fetchExtents ws s1 = (es, s2) → updateOk u ⟨ws, 1, es⟩ = true →
      extentsOk s2 (fld v 5 0) ⟨ws, 1, es⟩ = true →
    exec (.luUpdate req v) s = .next (lutChanged (fld v 5 0) 3 (setLu (fld v 5 0) (some ⟨ws, 1, es⟩) s2)))
  ∧ (∀ s req v, Writes req Reg.LUT.CMD s → fld v 10 8 = 0 ∨ 4 ≤ fld v 10 8 →
    Runs (.lutCmdUnlisted req v) s fun t =>
      t.slip = s.slip ∧ t.reg Reg.LUT.CMD_RESULT = word 66 ∧ SameRegs (fun k => k == Reg.LUT.CMD_RESULT || k == Reg.EV_PEND Page.LUT) s t)
  ∧ (∀ s lane n f lun, laneServes s lane n = true → frameLun f = some lun →
    (taskOf s n f.tag = none → exec (.commandFrame lane n f) s = .next (acceptCommand lane n lun f s))
      ∧ ((taskOf s n f.tag).isSome = true → exec (.commandFrame lane n f) s = .next
          (hostDrain (replyFrame lane n f.tag false 2 (checkCondition s lun 0xB 0x4E 0 none).sense (endNexusTasks n s)))))
  ∧ (∀ s lane n lun f i v, laneServes s lane n = true → frameLun f = some lun → taskOf s n f.tag = none → freeTaskIndex s = some i →
      (heldTasks s).length < 8192 →
      qPush .intake (0x2C + lane) (intakePacket s (newTask s i n lane lun f)) s = some (v, .taken) →
    Runs (.commandFrame lane n f) s fun t =>
      t.slip.tasks = v.slip.tasks ++ [newTask s i n lane lun f] ∧ t.slip.nextId = v.slip.nextId + 1 ∧ t.regs = v.regs)
  ∧ (∀ s it x after t u, slipAlive s = true → pageOn s Page.HAZ = true →
      let s1 := hostDrain s
      (hazFree s1).isSome = true → qFront .intake s1 = some it → qNext .intake s1 = some (x, after) →
      taskAt s1 (it.words.getD 1 0#32).toNat = some t → t.aborted = false → t.answer = none → t.stage = 0 → orderHeld s1 t = false →
      decodeTask t false after = some u →
    exec (.fastPathDecode false none) s = .next u)
  ∧ (∀ s, slipAlive s = true → pageOn s Page.HAZ = true → hazFree (hostDrain s) = none →
    exec (.fastPathDecode false none) s = .next (sayFull (hostDrain s)))
  ∧ (∀ s t ts, slipAlive s = true → bufferWaiters (hostDrain s) = t :: ts →
    exec .hostBufferAlloc s = .next (hostDrain (enterTask t.id (hostDrain s))))

/-- Lanes and nexuses: a lane is lost, reset and comes up; its codewords are counted; its frames are acknowledged, repeated or fail; a
nexus is made at a connection and ends at a loss or a hard reset; unit attention is written. -/
def Obligations.LinkCommands : Prop :=
  (∀ s l, slipRuns s l = true → laneUp s l = true →
    Runs (.lossOfSync l) s fun t =>
      (sasLane t l).resetting = some s.time ∧ (sasLane t l).lost = true ∧ (sasLane t l).frames = (sasLane s l).frames ∧ laneUp t l = false
        ∧ t.reg (Reg.SLIP.LINK_RESETS l) = word (satAdd 0xFFFFFFFF (s.reg (Reg.SLIP.LINK_RESETS l)).toNat 1))
  ∧ (∀ s req l v, l < 4 → bit v 7 = true → Writes req (Reg.SLIP.LINK_CFG l) s →
    Runs (.linkResetRequest req l v) s fun t =>
      (sasLane t l).resetting = some s.time ∧ (sasLane t l).lost = false ∧ laneUp t l = false)
  ∧ (∀ s l rate addr, slipRuns s l = true → portEnabled s (lanePort l) = true → laneTries s l = true →
      rate ≤ s.fld (Reg.SLIP.LINK_CFG l) 1 0 → (sasLane s l).lost = false →
    exec (.linkUp l rate addr) s = .next (identifyPort (lanePort l) (raise (Page.SLIP l) 0 0 rate {}
      (((modLane l (fun r => { r with resetting := none, lost := false }) s).setReg64 (Reg.SLIP.ATT_ADDR_LO l) addr.toNat).setReg
        (Reg.SLIP.LINK_STATUS l) (word (rate + 4 + if rate = 2 then 8 else 0))))))
  ∧ (∀ s l u, slipRuns s l = true → laneUp s l = false → (sasLane s l).resetting = some u → u + 500000000 ≤ s.time →
      (sasLane s l).frames = [] →
    Runs (.linkResetTimeout l) s fun t =>
      (sasLane t l).resetting = none ∧ (sasLane t l).lost = true ∧ (sasLane t l).frames = []
        ∧ SameRegs (fun k => k == Reg.EV_PEND (Page.SLIP l) || k == Reg.FAULT_CODE (Page.SLIP l) || k == Reg.STATUS (Page.SLIP l)) s t)
  ∧ (∀ s l c u f, slipRuns s l = true → laneUp s l = true → s.bit (Reg.SLIP.LINK_STATUS l) 3 = true →
      (sasLane s l).fecSecond = s.time / 1000000000 →
      (sasLane s l).fecCount + u ≤ s.fld (Reg.SLIP.FEC_CFG l) 15 0 →
    Runs (.codewordUncorrectable l c u f) s fun t =>
      (sasLane t l).fecCount = (sasLane s l).fecCount + u
        ∧ t.reg (Reg.SLIP.FEC_CORR l) = word (satAdd 0xFFFFFFFF (s.reg (Reg.SLIP.FEC_CORR l)).toNat c)
        ∧ t.reg (Reg.SLIP.FEC_UNCORR l) = word (satAdd 0xFFFFFFFF (s.reg (Reg.SLIP.FEC_UNCORR l)).toNat u)
        ∧ t.reg (Reg.SLIP.RX_CRC l) = word (satAdd 0xFFFFFFFF (s.reg (Reg.SLIP.RX_CRC l)).toNat (if f then 1 else 0)))
  ∧ (∀ s l, laneSends s l = true →
    exec (.frameAck l) s = .next (hostDrain (oldestFrame l (frameAcked l) s))
      ∧ exec (.frameNak l) s = .next (hostDrain (oldestFrame l (frameFailed l 4) s)))
  ∧ (∀ s l, slipRuns s l = true → pwrFailing s = false →
    exec (.ackNakTimeout l) s = .next (hostDrain (oldestFrame l (frameFailed l 3) s)))
  ∧ (∀ s l addr n x, laneSends s l = true →
      ((List.range 64).find? fun n => (nexus s n).any fun x => x.addr == addr.toNat && x.port == lanePort l) = some n → nexus s n = some x →
    Runs (.openConnection l addr) s fun t => nexus t n = some { x with last := s.time } ∧ t.regs = s.regs)
  ∧ (∀ s l addr n, laneSends s l = true →
      ((List.range 64).find? fun n => (nexus s n).any fun x => x.addr == addr.toNat && x.port == lanePort l) = none →
      ((List.range 64).find? fun n => (nexus s n).isNone) = some n →
    Runs (.openConnection l addr) s fun t =>
      nexus t n = some ⟨addr.toNat, lanePort l, s.time⟩ ∧ (∀ k, k < 64 → uaBit t n k = luEnabled s k))
  ∧ (∀ s l, laneSends s l = true →
    exec (.hardReset l) s = .next (hostDrain (raise Page.SLIPC 1 0 3 {}
      (((List.range 64).filter fun n => (nexus s n).any fun x => x.port == lanePort l).foldl
        (fun t n => (List.range 64).foldl (fun u k => setUa n k true u) (endNexus n t)) s))))
  ∧ (∀ s n, slipAlive s = true → (nexus s n).isSome = true → s.fld Reg.SLIPC.NEXUS_CFG 15 0 ≠ 0 →
    exec (.nexusLoss n) s = .next (hostDrain (raise Page.SLIPC 1 0 2 {}
      ((List.range 64).foldl (fun t l => setUa n l false t) (setNexus n none (endNexus n s))))))
  ∧ (∀ s l st, laneSends s l = true → s.fld (Reg.SLIP.LINK_STATUS l) 5 4 ≠ st →
      (st = 0 ∨ st = 1 ∧ s.bit (Reg.SLIP.LINK_CFG l) 4 = true ∨ st = 2 ∧ s.bit (Reg.SLIP.LINK_CFG l) 5 = true) →
    Runs (.powerStateRequest l st) s fun t =>
      t.fld (Reg.SLIP.LINK_STATUS l) 5 4 = st ∧ t.slip = s.slip
        ∧ SameRegs (fun k => k == Reg.SLIP.LINK_STATUS l || k == Reg.EV_PEND (Page.SLIP l)) s t)
  ∧ (∀ s req v, Writes req Reg.SLIPC.UA_CTRL s →
    (bit v 14 = false → Runs (.uaCtrl req v) s fun t =>
        uaBit t (fld v 5 0) (fld v 13 8) = bit v 16 ∧ t.regs = s.regs
          ∧ (∀ n k, k < 64 → ¬ (n = fld v 5 0 ∧ k = fld v 13 8) → uaBit t n k = uaBit s n k))
      ∧ (bit v 14 = true → Runs (.uaCtrl req v) s fun t =>
          (∀ k, k < 64 → uaBit t (fld v 5 0) k = bit v 16) ∧ t.regs = s.regs))
  ∧ (∀ s u, (heldTasks s).isEmpty = true → s.slip.activity = some u → u + 1000000 * s.fld Reg.SLIPC.SIDEBAND 15 8 ≤ s.time →
    Runs .actStretchEnd s fun t => t.slip = { s.slip with activity := none } ∧ t.regs = s.regs)

/-- Task management and the progress check: a function ends, finds or refuses tasks and answers with its response code; a task beyond the
progress limit is reported; a reservation is stored within half its ceiling. -/
def Obligations.TaskCommands : Prop :=
  (∀ s l n f, laneServes s l n = true → taskOf s n f.tag = none →
      let said := fun (code r : Nat) (u : State) =>
        hostDrain (raise Page.SLIPC 2 0 code ⟨word n, word f.tag, word r⟩ (replyFrame l n f.tag true r [] u))
      (luEnabled s f.lun = true →
          exec (.abortTask l n f) s = .next (said 1 0 (endTasks (fun t => t.nexus == n && t.lun == f.lun && t.tag == f.managed) s))
            ∧ exec (.abortTaskSet l n f) s = .next (said 2 0 (endTasks (fun t => t.nexus == n && t.lun == f.lun) s))
            ∧ exec (.clearTaskSet l n f) s = .next (said 4 0
                ((((liveTasks s).filter fun t => t.lun == f.lun && t.nexus != n).map HostTask.nexus).eraseDups.foldl
                  (fun u k => setUa k f.lun true u) (endTasks (fun t => t.lun == f.lun) s)))
            ∧ exec (.logicalUnitReset l n f) s = .next (said 8 0
                (((List.range 64).filter fun k => (nexus s k).isSome).foldl (fun u k => setUa k f.lun true u)
                  (endTasks (fun t => t.lun == f.lun) s)))
            ∧ exec (.queryTask l n f) s = .next (said 0x80
                (if (liveTasks s).any fun t => t.nexus == n && t.lun == f.lun && t.tag == f.managed then 8 else 0) s)
            ∧ exec (.queryTaskSet l n f) s = .next (said 0x81
                (if (liveTasks s).any fun t => t.nexus == n && t.lun == f.lun then 8 else 0) s)
            ∧ exec (.queryAsynchronousEvent l n f) s = .next (said 0x82 (if uaBit s n f.lun then 8 else 0) s))
        ∧ exec (.iTNexusReset l n f) s = .next (said 0x10 0
            ((List.range 64).foldl (fun u k => setUa n k true u) (endTasks (fun t => t.nexus == n) s)))
        ∧ (∀ code, [0x01, 0x02, 0x04, 0x08, 0x10, 0x80, 0x81, 0x82].contains code = false →
            exec (.tmFunctionNotSupported l n code f) s = .next (said code 4 s))
        ∧ (luEnabled s f.lun = false → exec (.abortTask l n f) s = .next (said 1 9 s)
            ∧ exec (.queryTask l n f) s = .next (said 0x80 9 s)))
  ∧ (∀ s l n f, laneServes s l n = true → (taskOf s n f.tag).isSome = true →
      exec (.abortTask l n f) s = .next (hostDrain (raise Page.SLIPC 2 0 1 ⟨word n, word f.tag, 10#32⟩
        (replyFrame l n f.tag true 10 [] s))))
  ∧ (∀ s, slipAlive s = true →
      exec .progressCheck s = .next (hostDrain (((heldTasks (hostDrain s)).filter fun t =>
        !t.committed && !t.reported && decide (t.accepted + progressLimit (hostDrain s) ≤ (hostDrain s).time)).foldl progressOne (hostDrain s))))
  ∧ (∀ s req i v, i < 6 → Writes req (Reg.SYS.RES_STRIPE_LO + 4 * i) s →
      let other := s.reg (Reg.SYS.RES_STRIPE_LO + 4 * (i / 2 * 2 + (1 - i % 2)))
      let sum := fld v 15 0 + fld v 31 16 + fld other 15 0 + fld other 31 16
      (sum ≤ resHalf i → Runs (.reserveWrite req i v) s fun t =>
          t.reg (Reg.SYS.RES_STRIPE_LO + 4 * i) = v ∧ SameRegs (fun k => k == Reg.SYS.RES_STRIPE_LO + 4 * i) s t)
        ∧ (resHalf i < sum → Runs (.reserveWrite req i v) s fun t => SameRegs (fun k => k == Reg.EV_PEND Page.SYS) s t))

/-- The data of host tasks: the next burst of a write is asked for, received data is taken or refused, a read's data and every response
leave, and firmware's service operations start and end. -/
def Obligations.HostDataCommands : Prop :=
  (∀ s i t l c x, slipAlive s = true → taskAt (hostDrain s) i = some t →
      let s1 := hostDrain s
      pickLane s1 t.lane t.nexus = some l → svcRunning s1 t.id 2 = some (c, x) → t.aborted = false → x.xrdy = none → x.asked < x.bytes →
      xrdyOut s1 (nexusPort s1 t.nexus) < s1.fld Reg.SLIPC.INTAKE_CFG 15 8 →
    exec (.xferRdy i) s = .next (sendXferRdy t l (x.offset + x.asked) (min x.bytes (x.asked + burstBytes s1) - x.asked)
      (setSvc c (some { x with asked := min x.bytes (x.asked + burstBytes s1), xrdy := some (min x.bytes (x.asked + burstBytes s1)) }) s1)))
  ∧ (∀ s i t l u, slipAlive s = true → taskAt (hostDrain s) i = some t →
      let s1 := hostDrain s
      pickLane s1 t.lane t.nexus = some l → taskLu s1 t = some u → svcRunning s1 t.id 2 = none → t.op = 2 → t.haz.isSome = true →
      t.aborted = false → t.answer = none → t.xrdy = none → t.asked < linkBytes s1 t →
      xrdyOut s1 (nexusPort s1 t.nexus) < s1.fld Reg.SLIPC.INTAKE_CFG 15 8 →
    exec (.xferRdy i) s = .next (nextBurst t u l s1))
  ∧ (∀ s l n tag data t u e, laneServes s l n = true → taskOf (hostGo s) n tag = some t →
      let s1 := hostGo s
      t.aborted = false → t.committed = false → svcRunning s1 t.id 2 = none → taskLu s1 t = some u → t.answer = none → t.op = 2 →
      t.xrdy = some e → t.received + data.length ≤ e →
    exec (.dataFrame l n tag t.received data) s = .next (hostDrain (takeData t u data s1)))
  ∧ (∀ s l n tag offset data t u, laneServes s l n = true → taskOf (hostGo s) n tag = some t →
      let s1 := hostGo s
      t.aborted = false → t.committed = false → svcRunning s1 t.id 2 = none → taskLu s1 t = some u → t.answer = none →
      (t.op = 2 ∧ t.xrdy.any (fun e => decide (t.received + data.length ≤ e)) = true ∧ offset = t.received → False) →
    exec (.dataFrame l n tag offset data) s = .next (hostDrain (tooMuch l t s1)))
  ∧ (∀ s i t l u, slipAlive s = true → taskAt (hostGo s) i = some t →
      let s1 := hostGo s
      pickLane s1 t.lane t.nexus = some l → svcRunning s1 t.id 1 = none → taskLu s1 t = some u → t.op = 1 → t.stage = 1 →
      t.aborted = false → t.answer = none → t.committed = false → t.buffer.isSome = true →
    exec (.sendData i) s = .next (hostDrain (sendNext t u l s1)))
  ∧ (∀ s i t l c x, slipAlive s = true → taskAt (hostGo s) i = some t →
      let s1 := hostGo s
      pickLane s1 t.lane t.nexus = some l → svcRunning s1 t.id 1 = some (c, x) → t.aborted = false →
    exec (.sendData i) s = .next (sendSvcData t c x l s1))
  ∧ (∀ s i t l a, slipAlive s = true → taskAt (hostGo s) i = some t →
      let s1 := hostGo s
      pickLane s1 t.lane t.nexus = some l → readyAnswer s1 t = some a → svcRunning s1 t.id 3 = none → t.failed = false →
    exec (.sendResponse i) s = .next (hostDrain (transmit l ⟨3, t.id, t.nexus, t.tag, 0, a.sense.length, a.status, a.sense, false⟩
      (modTask t.id (fun x => { x with committed := true, answer := some a }) s1))))
  ∧ (∀ s req c v op (i : Instr) t s1, c < 4 → bit v 31 = true → fld v 1 0 = op →
      (op = 1 ∧ i = .svcDataIn req c v ∨ op = 2 ∧ i = .svcDataOut req c v ∨ op = 3 ∧ i = .svcRespond req c v) →
      Writes req (Reg.SLIPC.SVC_CTRL c) s →
      hostDrain ((storeWrite (Reg.SLIPC.SVC_CTRL c) v (busOk 0#32 s)).setBit (Reg.SLIPC.SVC_CTRL c) 31 false) = s1 → svc s1 c = none →
      (taskAt s1 (s1.fld (Reg.SLIPC.SVC_TASK c) 12 0)).filter
        (fun t => t.stage == 2 && !t.aborted && !t.committed && (svcOf s1 t.id).isNone) = some t →
    Runs i s fun w =>
      w.reg (Reg.SLIPC.SVC_RESULT c) = 1#32
        ∧ svc w c = some { op := op, task := t.id, addr := s1.reg64 (Reg.SLIPC.SVC_ADDR_LO c) / 64 * 64 % 0x10000000000
                           bytes := s1.fld (Reg.SLIPC.SVC_BYTES c) 24 0, offset := (s1.reg (Reg.SLIPC.SVC_OFFSET c)).toNat
                           status := fld v 15 8, senseLen := min 252 (fld v 23 16), moved := 0, xrdy := none, asked := 0, hold := []
                           outcome := 0 })
  ∧ (∀ s c x o, c < 4 → slipAlive s = true → svc (hostGo s) c = some x → svcOutcome (hostGo s) x = some o →
    exec (.svcDone c) s = .next (hostDrain (svcEnd c o x.moved
      (((findTask (hostGo s) x.task).map HostTask.index).getD ((hostGo s).fld (Reg.SLIPC.SVC_TASK c) 12 0))
      (setSvc c none (hostGo s)))))

/-- The key store and the release of Stroke cores: an operation starts, a second one and an unlisted code are refused, and its end has its
effect: a slot is cleared, every key is erased with the epoch, an opened blob is loaded. -/
def Obligations.KeyCommands : Prop :=
  (∀ s req v (op : Nat) (c : Instr), Writes req Reg.KEYS.CMD s → blockAlive s Page.KEYS = true → fld v 4 0 = op →
      (op = 1 ∧ c = .keyLoad req v ∨ op = 2 ∧ c = .keyClear req v ∨ op = 3 ∧ c = .keyWrap req v ∨ op = 4 ∧ c = .keyErase req v
        ∨ op = 5 ∧ c = .imageVerify req v ∨ op = 6 ∧ c = .patchLoad req v ∨ op = 7 ∧ c = .measure req v ∨ op = 8 ∧ c = .attest req v
        ∨ op = 9 ∧ c = .debugUnlock req v ∨ op = 10 ∧ c = .rollbackSet req v ∨ op = 11 ∧ c = .otpWrite req v
        ∨ op = 12 ∧ c = .genId req v ∨ op = 13 ∧ c = .challenge req v) →
    (s.keys.op = none → Runs c s fun t =>
        t.keys = { s.keys with op := some (v, s.reg64 Reg.KEYS.SRC_LO, s.reg64 Reg.KEYS.DST_LO) } ∧ t.reg Reg.KEYS.CMD_RESULT = 3#32
          ∧ SameRegs (fun k => k == Reg.KEYS.CMD_RESULT) s t)
      ∧ (s.keys.op.isSome = true → Runs c s fun t =>
          t.keys = s.keys ∧ t.reg Reg.KEYS.CMD_RESULT = 210#32
            ∧ SameRegs (fun k => k == Reg.KEYS.CMD_RESULT || k == Reg.EV_PEND Page.KEYS) s t))
  ∧ (∀ s req v, Writes req Reg.KEYS.CMD s → blockAlive s Page.KEYS = true → fld v 4 0 = 0 ∨ 14 ≤ fld v 4 0 →
    Runs (.keysCmdUnlisted req v) s fun t =>
      t.keys = s.keys ∧ t.reg Reg.KEYS.CMD_RESULT = word (2 + (if s.keys.op.isSome then 13 else 14) * 16)
        ∧ SameRegs (fun k => k == Reg.KEYS.CMD_RESULT || k == Reg.EV_PEND Page.KEYS) s t)
  ∧ (∀ s cmd src dst, blockAlive s Page.KEYS = true → s.keys.op = some (cmd, src, dst) →
    exec .keysOpDone s = .next (keyPerform cmd src dst (modKeys (fun k => { k with op := none }) s)))
  ∧ (∀ s cmd src dst, blockAlive s Page.KEYS = true → s.keys.op = some (cmd, src, dst) → fld cmd 4 0 = 2 →
    Runs .keysOpDone s fun t =>
      slotState t (fld cmd 14 8) = none ∧ t.keys.op = none ∧ t.reg Reg.KEYS.CMD_RESULT = 1#32
        ∧ (∀ n, n ≠ fld cmd 14 8 → slotState t n = slotState s n))
  ∧ (∀ s cmd src dst, blockAlive s Page.KEYS = true → s.keys.op = some (cmd, src, dst) → fld cmd 4 0 = 13 →
    Runs .keysOpDone s fun t =>
      t.keys = { s.keys with op := none, draws := s.keys.draws + 1, challenge := some (Config.entropy s.keys.draws 32) }
        ∧ t.reg Reg.KEYS.CMD_RESULT = 1#32)
  ∧ (∀ s cmd src dst, blockAlive s Page.KEYS = true → s.keys.op = some (cmd, src, dst) → fld cmd 4 0 = 3 ∨ fld cmd 4 0 = 8 → debugLevel s = 2 →
    Runs .keysOpDone s fun t => t.keys = { s.keys with op := none } ∧ t.mem = s.mem ∧ t.reg Reg.KEYS.CMD_RESULT = 162#32)
  ∧ (∀ s req v c, Writes req Reg.COX.STROKE_CTRL s → c < 4 → (∀ j, j < 4 → bit v j = decide (j = c)) →
    exec (.strokeRelease req v) s = .next (releaseStroke c (busOk 0#32 s)))

/-- Umpire: a message is recorded or held, FREEZE and its end, CLEAR, COPY and its end, and the window on the ring. -/
def Obligations.RecorderCommands : Prop :=
  (∀ s x rest, umpRuns s = true → s.ump.fifo = x :: rest →
    (umpFrozen s = false → exec .umpireRecord s = .next (recordMsg x.msg (modUmp (fun u => { u with fifo := rest }) (umpGap s))))
      ∧ (umpFrozen s = true → (x.msg.severity = 3 ∨ x.msg.severity = 4) → s.ump.heldMsgs.length < 16 →
          Runs .umpireRecord s fun t => t.ump = { s.ump with fifo := rest, heldMsgs := s.ump.heldMsgs ++ [x.msg] } ∧ t.regs = s.regs)
      ∧ (umpFrozen s = true → x.msg.severity ≠ 3 → x.msg.severity ≠ 4 → Runs .umpireRecord s fun t =>
          t.ump = { s.ump with fifo := rest }
            ∧ t.reg Reg.UMP.FROZEN_COUNT = word (satAdd 0xFFFFFFFF (s.reg Reg.UMP.FROZEN_COUNT).toNat 1)))
  ∧ (∀ s req v, Writes req Reg.UMP.UMP_CTRL s → bit v 1 = false → bit v 2 = false →
    (bit v 0 = true → exec (.freeze req v) s = .next (umpFreeze (busOk 0#32 s)))
      ∧ (bit v 0 = false → exec (.unfreeze req v) s = .next (umpUnfreeze (busOk 0#32 s))))
  ∧ (∀ s req v, Writes req Reg.UMP.UMP_CTRL s → bit v 0 = false → bit v 1 = true → bit v 2 = false →
      umpUnfreeze (busOk 0#32 s) = busOk 0#32 s →
    (req = .cox → umpFrozen s = false → umpCopying s = false → exec (.umpireClear req v) s = .next (umpClearNow (busOk 0#32 s)))
      ∧ (req ≠ .cox → Runs (.umpireClear req v) s fun t => t.ump = s.ump ∧ SameRegs (fun k => k == Reg.EV_PEND Page.UMP) s t))
  ∧ (∀ s req v, Writes req Reg.UMP.UMP_CTRL s → bit v 1 = false → bit v 2 = true →
    exec (.umpireCopy req v) s = .next (umpCopy (if bit v 0 then umpFreeze (busOk 0#32 s) else umpUnfreeze (busOk 0#32 s))))
  ∧ (∀ s, umpRuns s = true → umpFrozen s = true → s.ump.frozenAt + s.fld Reg.UMP.FREEZE_MAX 15 0 * 1000000 ≤ s.time →
    exec .freezeTimeout s = .next (umpUnfreeze s))
  ∧ (∀ s c, umpRuns s = true → s.ump.copy = some c →
    exec .copyDone s = .next (underCredit (.load Page.UMP) (fun t => copyOver c.head c.count (copyLands c t)) s))
  ∧ (∀ s c t, umpRuns s = true → s.ump.copy = some c → dramAwake s = true → creditTurn s (.load Page.UMP) = true →
      t = copyOver c.head c.count (copyLands c (takeCredit (.load Page.UMP) s)) →
    exec .copyDone s = .next (xactGrantNext (setXactHeld (CreditAsk.cls (.load Page.UMP)) (xactHeld t (CreditAsk.cls (.load Page.UMP)) - 1) t)))
  ∧ (∀ s req n, n < 8 → ReadsOf req (Reg.UMP.WIN n) s →
    (Runs (.umpireWindowRead req n false false) s fun t =>
        t.bus.data = ringWord s (s.fld Reg.UMP.CURSOR 10 0) n ∧ t.bus.error = false ∧ t.ump = s.ump ∧ t.regs = s.regs)
      ∧ (Runs (.umpireWindowRead req n true true) s fun t => t.bus.error = false ∧ t.bit Reg.UMP.UMP_STATUS 30 = true))

/-- The journal: a due sector is written or waits at a full ring, and lets its jobs proceed once it stands on every member; START checks
LOC, CLOSE waits for the open records, REPLAY begins and goes on. -/
def Obligations.JournalCommands : Prop :=
  (∀ s e, crewRuns s e = true → jrnlState s = 1 → s.crew.writing = none → sectorDue s = true →
    ((ringBlocked s s.crew.nextSector && !(journalMembers s).isEmpty) = false → exec (.journalSectorWrite e) s = .next
      (underCredit (.load Page.JRNL) (writeSector e) s))
      ∧ (∀ t, (ringBlocked s s.crew.nextSector && !(journalMembers s).isEmpty) = false → dramAwake s = true →
          creditTurn s (.load Page.JRNL) = true → t = writeSector e (takeCredit (.load Page.JRNL) s) →
          exec (.journalSectorWrite e) s = .next (xactGrantNext (setXactHeld (CreditAsk.cls (.load Page.JRNL))
            (xactHeld t (CreditAsk.cls (.load Page.JRNL)) - 1) t)))
      ∧ ((ringBlocked s s.crew.nextSector && !(journalMembers s).isEmpty) = true → s.crew.fullSaid = false →
          Runs (.journalSectorWrite e) s fun t =>
            t.crew = { s.crew with fullSaid := true } ∧ SameRegs (fun k => k == Reg.EV_PEND Page.JRNL) s t))
  ∧ (∀ s e w, e < 8 → crewRuns s e = true → (crewDrain s).crew.writing = some w → w.tagA = none → w.tagB = none →
    exec .journalWritten s = .next (markJournalled (((crewDrain s).crew.open_.filter fun r => r.sector == some w.seq).map JRecord.jseq)
      (modCrew (fun c => { c with writing := none, scratch := c.scratch.filter (· ≠ w.scratch) }) (crewDrain s))))
  ∧ (∀ s req v, Writes req Reg.JRNL.CMD s → bit v 0 = true → locOk s = true →
    Runs (.jrnlStart req v) s fun t => jrnlState t = 1 ∧ t.crew = { s.crew with closing := false })
  ∧ (∀ s req v, Writes req Reg.JRNL.CMD s → bit v 0 = true → locOk s = false →
    Runs (.jrnlStart req v) s fun t => jrnlState t = jrnlState s ∧ t.crew = s.crew ∧ t.regs = s.regs)
  ∧ (∀ s req v, Writes req Reg.JRNL.CMD s → bit v 1 = true → jrnlState s = 1 →
    Runs (.jrnlClose req v) s fun t => t.crew = { s.crew with closing := true } ∧ t.regs = s.regs)
  ∧ (∀ s, pageOn s Page.JRNL = true → s.crew.closing = true → s.crew.open_ = [] → s.crew.writing = none →
    Runs .jrnlClosed s fun t => jrnlState t = 2 ∧ t.crew = { s.crew with closing := false })
  ∧ (∀ s req v e, Writes req Reg.JRNL.CMD s → bit v 2 = true → crewEngine s = some e → s.crew.replay = none → fld v 5 4 = 0 →
      ((dramRecords s).any fun r => !recordSound r) = false →
    Runs (.jrnlReplay req v) s fun t =>
      t.crew = { s.crew with replay := some (dramRecords s, 0), replayed := 0, resynced := [] } ∧ t.regs = s.regs)
  ∧ (∀ s e, crewEngine s = some e → exec .replayDone s = .next (replayStep e (crewDrain s)))

/-- Oars: a sector is read or written under its job, lands, and its job starts, is refused and ends; the zone and relocation tables are
loaded and changed; servo writing is armed in SERVICE alone. -/
def Obligations.OarCommands : Prop :=
  (∀ s o e x j y p, oarRuns s o = true → pwrFailing s = false → (oar (passageEnd o s) o).job = some j → entry (passageEnd o s) o e = some y →
      readPurpose (passageEnd o s) (jobType j) y = some p → y.inJob = true → setUp (passageEnd o s) o j = true →
      comesUnder (passageEnd o s) (entryStart (passageEnd o s) o y) = true →
    exec (.sectorRead o e x) s = .next (prepare o (askWrite o (beginRead o e p y x (passageEnd o s)))))
  ∧ (∀ s o e j y, oarRuns s o = true → pwrFailing s = false →
      (oar (askWrite o (passageEnd o s)) o).job = some j → jobType j = 2 → entry (askWrite o (passageEnd o s)) o e = some y →
      setUp (askWrite o (passageEnd o s)) o j = true → inSafe (askWrite o (passageEnd o s)) = false → j.wantWrite = true → y.inJob = true →
      writesAhead 2 y = true → comesUnder (askWrite o (passageEnd o s)) (entryStart (askWrite o (passageEnd o s)) o y) = true →
    exec (.sectorWrite o e) s = .next (prepare o (startWrite o e (askWrite o (passageEnd o s)))))
  ∧ (∀ s o e x host, oarRuns s o = true → entry s o e = some x → x.landing = some host →
      (((maskRanges (landMask x) 8).flatMap (partGranules x)).find? fun g => !granValid s g) = none → x.reading ≠ 1 →
    exec (.landingAck o e) s = .next (closeEntry o e 0
      (let t := (maskRanges (landMask x) 8).foldl (landRange x host) s
       if payloadPoison x.payload &&& landMask x = 0 then t else markPoisoned o e t)))
  ∧ (∀ s o it t x, o < 16 → engineTakes s (0x10 + o) = true → (oar s o).job = none → pwrFailing s = false → portSettling s (oarAct o) (oarSlot o) = false →
      qFront (oarJobQ o) s = some it → qNext (oarJobQ o) s = some (x, t) →
    (∀ c fe, jobFault s o (asJob it.words) = some (c, fe) → exec (.trackJobStart o) s = .next (refuseJob o (asJob it.words) c fe t))
      ∧ (jobFault s o (asJob it.words) = none → readyFor s o (asJob it.words) = true →
          exec (.trackJobStart o) s = .next (startJob o (asJob it.words) t)))
  ∧ (∀ s o j, oarRuns s o = true → (oar (passageEnd o s) o).job = some j → jobType j ≠ 8 → jobRemaining (passageEnd o s) o = 0 →
      let es := ((oar (passageEnd o s) o).entries.filterMap fun e => e.2.filter JobEntry.inJob).filter fun y => y.state == 10
    exec (.trackJobEnd o) s = .next (finishJob o j (es.filter fun y => y.cause == 0).length (es.filter fun y => y.cause != 0).length
      (passageEnd o s)))
  ∧ (∀ s req o v, o < 16 → bit v 0 = true → Writes req (Reg.OAR.ZT_CTRL o) s → o % 4 = 0 → s.bit (Reg.OAR.ZT_CTRL o) 0 = false →
    (gateEnabled s o = false → Runs (.zoneTableLoad req o v) s fun t =>
        t.bit (Reg.OAR.ZT_CTRL o) 0 = true ∧ t.bit (Reg.OAR.ZT_STATUS o) 0 = false ∧ oar t o = { oar s o with zones := [] }
          ∧ SameRegs (fun k => k == Reg.OAR.ZT_CTRL o || k == Reg.OAR.ZT_STATUS o) s t)
      ∧ (gateEnabled s o = true → Runs (.zoneTableLoad req o v) s fun t =>
          oar t o = oar s o ∧ SameRegs (fun k => k == Reg.EV_PEND (Page.OAR o)) s t))
  ∧ (∀ s o r, firstOar o = true → oarRuns s o = true → s.bit (Reg.OAR.ZT_CTRL o) 0 = true →
      dramAwake s = true → creditTurn s (.load (Page.OAR o)) = true →
      fetchWords false (0x10 + o) (s.reg64 (Reg.OAR.ZT_ADDR_LO o) % 0x10000000000 / 64 * 64) 0xC10 (takeCredit (.load (Page.OAR o)) s) = r → zoneFault r.1 r.2.1 = none →
    Runs (.zoneTableDone o false) s fun t =>
      (oar t o).zones = (storeZones (fld (r.1.getD 5 0#32) 12 0) (fld (r.1.getD 6 0#32) 11 0) (fld (r.1.getD 1 0#32) 10 8) r.1 384 0 none).1.zipIdx.foldl
          (fun m e => SMap.set (fun _ => []) m e.2 e.1) []
        ∧ t.reg (Reg.OAR.ZT_ID o) = r.1.getD 4 0#32)
  ∧ (∀ s req o v, o < 16 → bit v 0 = true → Writes req (Reg.OAR.RT_CTRL o) s → o % 4 = 0 → s.bit (Reg.OAR.RT_CTRL o) 0 = false →
      gateEnabled s o = false →
    Runs (.relocTableLoad req o v) s fun t =>
      t.bit (Reg.OAR.RT_CTRL o) 0 = true ∧ t.reg (Reg.OAR.RT_STATUS o) = 0#32 ∧ oar t o = { oar s o with relocs := [] })
  ∧ (∀ s o r, firstOar o = true → oarRuns s o = true → s.bit (Reg.OAR.RT_CTRL o) 0 = true → dramAwake s = true →
      creditTurn s (.load (Page.OAR o)) = true → fetchRelocs o (takeCredit (.load (Page.OAR o)) s) = r → relocFault r.1 r.2.1 = none →
    Runs (.relocTableDone o false) s fun t =>
      (oar t o).relocs = quads (fld (r.1.getD 2 0#32) 12 0) (r.1.drop 16) ∧ t.bit (Reg.OAR.RT_STATUS o) 0 = true)
  ∧ (∀ s req o v, o < 16 → Writes req (Reg.OAR.RT_ADD o 3) s → o % 4 = 0 →
      let r := [s.reg (Reg.OAR.RT_ADD o 0), s.reg (Reg.OAR.RT_ADD o 1), s.reg (Reg.OAR.RT_ADD o 2), v]
      (relocResult (oar s o).relocs r = 0 → ((oar s o).relocs.any fun x => relocKey x == relocKey r) = false → Runs (.rtAdd req o v) s fun t =>
          (oar t o).relocs = (oar s o).relocs ++ [r] ∧ t.fld (Reg.OAR.RT_RESULT o) 2 0 = 0)
        ∧ (relocResult (oar s o).relocs r = 2 ∨ relocResult (oar s o).relocs r = 3 → Runs (.rtAdd req o v) s fun t =>
          oar t o = oar s o ∧ t.fld (Reg.OAR.RT_RESULT o) 2 0 = relocResult (oar s o).relocs r
            ∧ SameRegs (fun k => k == Reg.OAR.RT_RESULT o) s t))
  ∧ (∀ s req o v, o < 16 → Writes req (Reg.OAR.SW_CTRL o) s →
    Runs (.swArmWrite req o v) s fun t =>
      t.reg (Reg.OAR.SW_CTRL o) = (if mode s = 8 then v &&& 1#32 else 0#32) ∧ SameRegs (fun k => k == Reg.OAR.SW_CTRL o) s t)

/-- The safe store: a page is programmed, repeated once or ends the dump; SCAN, PREPARE, RESTORE, REWRITE_CUT, RELEASE and the health test
run, or are refused while the controller is busy; their ends write CMD_RESULT. -/
def Obligations.SafeStoreCommands : Prop :=
  (∀ s d, s.safe.dump = some d → pageOn s Page.SAFE = true → d.ended = false → d.again = false → d.todo = [] →
    Runs (.nandProgramDone true) s fun t => t.safe.dump = some { d with ended := true } ∧ t.regs = s.regs)
  ∧ (∀ s d k, s.safe.dump = some d → pageOn s Page.SAFE = true → d.ended = false → d.again = false → blockPlace s d.area d.place = some k →
    Runs (.nandProgramDone false) s fun t => t.safe.dump = some { d with place := k, again := true } ∧ t.regs = s.regs)
  ∧ (∀ s d, s.safe.dump = some d → pageOn s Page.SAFE = true → d.ended = false → d.again = true →
    exec (.nandProgramDone false) s = .next (dumpOver d (lasting Page.SAFE 3 0 (nandPlace s d.place)
      (setNandPage d.place (some ⟨d.seq % 65536, d.index, d.now, false⟩) s))))
  ∧ (∀ s d, s.safe.dump = some d → d.ended = true → exec .dumpDone s = .next (dumpOver d s))
  ∧ (∀ s req v, Writes req Reg.SAFE.CMD s → blockAlive s Page.SAFE = true → (s.safe.dump.isSome || s.safe.running.isSome) = true →
      (∀ chip health, fld v 2 0 = 1 → Runs (.safeScan req v chip health) s fun t =>
          t.safe = s.safe ∧ t.reg Reg.SAFE.CMD_RESULT = 82#32 ∧ SameRegs (fun k => k == Reg.SAFE.CMD_RESULT) s t)
        ∧ (fld v 2 0 = 2 → Runs (.safePrepare req v) s fun t => t.safe = s.safe ∧ t.reg Reg.SAFE.CMD_RESULT = 82#32)
        ∧ (fld v 2 0 = 3 → Runs (.safeRestore req v) s fun t => t.safe = s.safe ∧ t.reg Reg.SAFE.CMD_RESULT = 82#32)
        ∧ (fld v 2 0 = 5 → Runs (.safeRelease req v) s fun t => t.safe = s.safe ∧ t.reg Reg.SAFE.CMD_RESULT = 82#32))
  ∧ (∀ s req v, Writes req Reg.SAFE.CMD s → blockAlive s Page.SAFE = true → s.safe.dump = none → s.safe.running = none →
      (∀ chip health, fld v 2 0 = 1 → exec (.safeScan req v chip health) s = .next (scanEffect chip health (busOk 0#32 s)))
        ∧ (fld v 2 0 = 2 → Runs (.safePrepare req v) s fun t =>
            t.safe = { s.safe with running := some 2 } ∧ t.reg Reg.SAFE.CMD_RESULT = 3#32 ∧ SameRegs (fun k => k == Reg.SAFE.CMD_RESULT) s t)
        ∧ (∀ a h, fld v 2 0 = 3 → s.safe.newest = some (a, h) → s.critFld 20 2 0 = 2 → sectionsFit (busOk 0#32 s) (dirSections h) (dumpTable (busOk 0#32 s) a h) = true →
            Runs (.safeRestore req v) s fun t => t.safe = { s.safe with running := some 3 } ∧ t.reg Reg.SAFE.CMD_RESULT = 3#32)
        ∧ (fld v 2 0 = 3 → s.safe.newest = none →
            Runs (.safeRestore req v) s fun t => t.safe = s.safe ∧ t.reg Reg.SAFE.CMD_RESULT = 34#32)
        ∧ (fld v 2 0 = 4 → exec (.safeRewriteCut req v) s = .next ((inflightValid s).foldl rewriteEntry
            (safeBegin 4 (modSafe (fun x => { x with cutting := inflightValid s, waiting := [] }) (busOk 0#32 s)))))
        ∧ (fld v 2 0 = 5 → exec (.safeRelease req v) s = .next (wbReview (safeResult 1 0 (releaseArea (fld v 4 4) (busOk 0#32 s)))))
        ∧ (∀ health, fld v 2 0 = 6 → exec (.healthTest req v health) s = .next (wbReview (safeResult 1 0 (runChecks health (busOk 0#32 s)))))
        ∧ (fld v 2 0 = 0 ∨ fld v 2 0 = 7 → Runs (.safeCmdUnlisted req v) s fun t =>
            t.safe = s.safe ∧ t.reg Reg.SAFE.CMD_RESULT = 66#32 ∧ SameRegs (fun k => k == Reg.SAFE.CMD_RESULT) s t))
  ∧ (∀ s worn health, blockAlive s Page.SAFE = true → s.safe.running = some 2 →
    exec (.safePrepareDone worn health) s = .next (wbReview (safeEnd (runChecks health
      ([0, 1].foldl (fun t a => if areaHeld t a then t else eraseArea a worn t) s)))))
  ∧ (∀ s health, blockAlive s Page.SAFE = true → s.safe.found = true →
      s.safe.testTime + s.fld Reg.SAFE.HEALTH_CFG 15 0 * 60000000000 ≤ s.time →
    (s.safe.dump = none → exec (.healthPeriod health) s = .next (wbReview (runChecks health s)))
      ∧ (s.safe.dump.isSome = true → Runs (.healthPeriod health) s fun t => t.safe = { s.safe with testDue := true } ∧ t.regs = s.regs))
  ∧ (∀ s bad a h, s.safe.running = some 3 → s.safe.newest = some (a, h) → blockAlive s Page.SAFE = true → dramReady s = true →
    Runs (.restoreDone bad) s fun t =>
      t.safe = { ((placeSections s 1 (dirSections h)).1.foldl
          (restoreSection bad (streamOf s a (headerSeq h)) (dumpTable s a h)) s).safe with running := none }
        ∧ t.reg Reg.SAFE.CMD_RESULT = 1#32 ∧ t.critFld 20 2 0 = 4)
  ∧ (∀ s, blockAlive s Page.SAFE = true → s.safe.running = some 4 → s.safe.waiting = [] → s.safe.cutting.any (stillCut s) = false →
    Runs .cutRewritten s fun t =>
      t.safe = { s.safe with running := none, cutting := [] } ∧ t.reg Reg.SAFE.CMD_RESULT = 1#32 ∧ t.mem = s.mem)

/-- The power manager: power fails with its cause, a supply warns, the reserve and the cover follow, write-back caching is reviewed and
activated, modes and levels change, domains are switched, and SAFE is entered. -/
def Obligations.PowerCommands : Prop :=
  (∀ s v12 v5 ns, s.chip.held = none → pwrFailing s = false → 1000 ≤ ns →
    (v12 < s.fld Reg.PWR.SUPPLY_CFG 15 0 → exec (.pwrFail v12 v5 ns) s = .next (powerFail 1 (showInputs v12 v5 s)))
      ∧ (s.fld Reg.PWR.SUPPLY_CFG 15 0 ≤ v12 → v5 < s.fld Reg.PWR.SUPPLY_CFG2 15 0 →
          exec (.pwrFail v12 v5 ns) s = .next (powerFail 2 (showInputs v12 v5 s))))
  ∧ (∀ s us, s.chip.held = none → pwrFailing s = false → 100 ≤ us → exec (.powerDisable us) s = .next (powerFail 3 s))
  ∧ (∀ s v12 v5, s.chip.held = none →
    Runs (.supplyWarn v12 v5) s fun t =>
      t.power = { s.power with warned12 := decide (v12 < s.fld Reg.PWR.SUPPLY_CFG 31 16), warned5 := decide (v5 < s.fld Reg.PWR.SUPPLY_CFG2 31 16) }
        ∧ t.reg Reg.PWR.SUPPLY_V = word (v12 % 65536 + v5 % 65536 * 65536)
        ∧ SameRegs (fun k => k == Reg.PWR.SUPPLY_V || k == Reg.EV_PEND Page.PWR) s t)
  ∧ (∀ s r n, keelAlive s = true → (r = true ∨ s.keel.reserveTime + 100000000 ≤ s.time) →
      n = reserveMj (s.reg Reg.KEEL.INERTIA).toNat (keelSpeed s) (rpmUnits (s.fld Reg.KEEL.GEN_CFG 27 16))
        (s.fld Reg.KEEL.RESERVE_CFG 6 0) (s.fld Reg.KEEL.DRAG_MW 15 0) (s.fld Reg.KEEL.RESERVE_CFG 31 16) (s.fld Reg.KEEL.RESERVE_GUARD 15 0) →
    (s.reg Reg.KEEL.RESERVE_MJ ≠ word n → exec (.reserveUpdate r) s = .next
        (updateCover ((modKeel (fun k => { k with reserveTime := s.time }) s).setReg Reg.KEEL.RESERVE_MJ (word n))))
      ∧ (s.reg Reg.KEEL.RESERVE_MJ = word n → exec (.reserveUpdate r) s = .next (modKeel (fun k => { k with reserveTime := s.time }) s)))
  ∧ (∀ s req addr v k, addrKey addr = some k → critWordOf k = some 21 → Writes req k s →
    exec (.dirtyLimitWrite req addr v) s = .next (wbReview (showHealth ((busOk 0#32 s).critPut 21 v))))
  ∧ (∀ s req addr v k, addrKey addr = some k → critWordOf k = some 22 → Writes req k s →
    exec (.wbRequestWrite req addr v) s = .next
      (wbReview ((busOk 0#32 s).critPut 22 (Sys2Proof.setBit (s.critVal 22) 0 (bit v 0)))))
  ∧ (∀ s u, powerRuns s = true → wbFault s = none → (mode s = 1 ∨ isLevel (mode s) = true) → wbActive s = false →
      s.power.wbSince = some u → u + s.fld Reg.PWR.WB_CFG 15 0 * 1000000 ≤ s.time →
    Runs .wbActivate s fun t => wbActive t = true)
  ∧ (∀ s req addr v k, addrKey addr = some k → critWordOf k = some 1 → Writes req k s → powerRuns s = true →
    exec (.modeTargetWrite req addr v) s = .next (modeTargetEffect v (busOk 0#32 s)))
  ∧ (∀ s, levelsRun s = true → exec .idleTimer s = .next (idleStep s) ∧ exec .levelEntered s = .next (advanceEntry 12 s)
      ∧ (∀ ma, exec (.levelExitDone ma) s = .next (advanceExit ma 6 s)))
  ∧ (∀ s, levelsRun s = true → s.power.trigger.isSome = true → s.power.entering = none → s.power.exiting = none → isLevel (mode s) = true →
    exec .levelExit s = .next (beginExit s))
  ∧ (∀ s req v, Writes req Reg.PWR.DOMAIN_REQ s → mode s = 0 ∨ mode s = 8 →
    (bit v 31 = false → exec (.domainSwitchOn req v) s = .next
        (switchOnAll ((List.range 20).filter fun d => bit v d && requestable d) (busOk 0#32 s)))
      ∧ (bit v 31 = true → exec (.domainSwitchOff req v) s = .next
        (((List.range 20).filter fun d => bit v d && requestable d).foldl (fun t d => switchOff d t) (busOk 0#32 s))))
  ∧ (∀ s req v, Writes req Reg.PWR.DOMAIN_REQ s → mode s ≠ 0 → mode s ≠ 8 → bit v 31 = false →
    Runs (.domainSwitchOn req v) s fun t =>
      t.reg Reg.PWR.MODE_RESULT = 82#32 ∧ SameRegs (fun k => k == Reg.PWR.MODE_RESULT || k == Reg.EV_PEND Page.PWR) s t)
  ∧ (∀ s d, powerRuns s = true → d < 20 → domainOn s d = true →
    exec (.domainFault d) s = .next (safeCause (sourceOf Page.PWR 4) (lasting Page.PWR 4 0 ⟨word d, 0#32, 0#32⟩ (domainOff d s))))
  ∧ (∀ s c rest, s.safePending = c :: rest → exec .safeEnter s = .next (enterSafe c { s with safePending := rest }))

/-- BRIDGE_FRAME, RIGGER_FRAME_TIMEOUT and BRIDGE_RESUME complete. A good frame to the rigger die takes the slots' words to its outputs, in
the state of R16 none, and what the core die asks of it; a good frame to the core die brings the mirror and the news; a bad frame is counted and repeated once, the second bad one is
BRIDGE_LOST. 2 µs without a good frame put the rigger die into the state of R16, which the frame that brings RESUME ends. -/
def Obligations.BridgeFrames : Prop :=
  (∀ s m, s.rigger.badToRigger = false → s.rigger.asked = RigAsk.none → s.rigger.autonomous = false →
    ∃ t, exec (.bridgeFrame true true m) s = .next t ∧ t.bit Reg.DRV.BRIDGE_STAT 0 = true ∧ t.rigger.lastGood = s.time ∧ t.rigger.hears = true
      ∧ t.rigger.duty = s.rigger.keelSlot.duty ∧ t.rigger.limitMa = s.rigger.keelSlot.limitMa
      ∧ t.rigger.spindleOn = (s.rigger.keelSlot.on && !s.rigger.vcrit)
      ∧ (s.rigger.coilsOn = true → ∀ a, a < 4 → SMap.get (fun _ => 0) t.rigger.coil a = (rudDrive s a).coilMa)
      ∧ SameRegs (fun k => k == Reg.DRV.BRIDGE_STAT) s t)
  ∧ (∀ s m, s.rigger.badToRigger = false → s.rigger.asked = RigAsk.none → s.rigger.autonomous = true →
    ∃ t, exec (.bridgeFrame true true m) s = .next t ∧ t.rigger.hears = true ∧ t.rigger.autonomous = true ∧ t.rigger.coil = s.rigger.coil
      ∧ t.rigger.spindleOn = s.rigger.spindleOn ∧ t.rigger.duty = s.rigger.duty ∧ SameRegs (fun k => k == Reg.DRV.BRIDGE_STAT) s t)
  ∧ (∀ s m, s.rigger.badToRigger = false → s.rigger.asked = { RigAsk.none with resume := true } → s.rigger.autonomous = true →
    ∃ t, exec (.bridgeFrame true true m) s = .next t ∧ t.rigger.autonomous = false ∧ t.rigger.asked = RigAsk.none
      ∧ t.rigger.microOn = true ∧ t.rigger.duty = s.rigger.keelSlot.duty ∧ SameRegs (fun k => k == Reg.DRV.BRIDGE_STAT) s t)
  ∧ (∀ s m, s.rigger.badToRigger = false → s.rigger.asked = { RigAsk.none with chopClear := true } →
    ∃ t, exec (.bridgeFrame true true m) s = .next t ∧ t.rigger.chopFault = false ∧ t.rigger.chopKind = 0 ∧ t.rigger.asked = RigAsk.none)
  ∧ (∀ s m ma, s.rigger.badToRigger = false → s.rigger.asked = { RigAsk.none with test := some ma } →
    ∃ t, exec (.bridgeFrame true true m) s = .next t ∧ t.rigger.asked = RigAsk.none
      ∧ (rigIMin s ≤ ma → m.busMv < rigChopOn s → t.rigger.chopTested = true ∧ t.rigger.chopFault = s.rigger.chopFault)
      ∧ (ma < rigIMin s ∨ rigChopOn s ≤ m.busMv → t.rigger.chopFault = true ∧ t.rigger.chopKind = 3 ∧ t.rigger.chopOn = false))
  ∧ (∀ s m, s.rigger.badToRigger = false → exec (.bridgeFrame true true m) s = .next
      (modRigger (fun r => { r with lastGood := s.time })
        ((takeHeld (deliverSlots (takeAsked m.busMv s))).setBit Reg.DRV.BRIDGE_STAT 0 true)))
  ∧ (∀ s m, s.rigger.badToCore = false → exec (.bridgeFrame false true m) s = .next
      (modRigger (fun r => { r with lastGood := s.time })
        ((offNews (s.bit Reg.DRV.BRIDGE_STAT 1) (tripNews (faultNews (chopNews (mirrorRigger m s))))).setBit Reg.DRV.BRIDGE_STAT 0 true)))
  ∧ (∀ s m, s.rigger.badToCore = false → s.rigger.autonomous = false → s.rigger.chopNew = false → s.rigger.faultNew = false →
      s.rigger.tripNew = false → s.bit Reg.DRV.BRIDGE_STAT 1 = false → (s.rigger.vcrit && drivesBridge (keelState s)) = false →
    ∃ t, exec (.bridgeFrame false true m) s = .next t ∧ t.rigger = { s.rigger with badToCore := false, lastGood := s.time }
      ∧ t.bit Reg.DRV.BRIDGE_STAT 0 = true ∧ t.bit Reg.DRV.BRIDGE_STAT 1 = false ∧ t.bit Reg.DRV.BRIDGE_STAT 3 = s.rigger.vcrit
      ∧ t.fld Reg.DRV.BUS_V 15 0 = m.busMv / 6 * 6 % 65536 ∧ t.fld Reg.DRV.RIG_TEMP 15 0 = toField 16 m.tempDeciC % 65536
      ∧ t.reg Reg.DRV.CHOP_STATUS = word (ofBool s.rigger.chopOn + 2 * ofBool s.rigger.chopFault + 4 * s.rigger.chopKind
          + 16 * ofBool s.rigger.chopTested + 65536 * (m.chopMa % 65536))
      ∧ SameRegs (fun k => k == Reg.DRV.BRIDGE_STAT || k == Reg.DRV.BUS_V || k == Reg.DRV.RIG_TEMP || k == Reg.DRV.CHOP_STATUS) s t)
  ∧ (∀ s m,
    (s.rigger.badToRigger = false → ∃ t, exec (.bridgeFrame true false m) s = .next t ∧ t.rigger = { s.rigger with badToRigger := true }
        ∧ t.fld Reg.DRV.BRIDGE_STAT 31 16 = satAdd 65535 (s.fld Reg.DRV.BRIDGE_STAT 31 16) 1 ∧ SameRegs (fun k => k == Reg.DRV.BRIDGE_STAT) s t)
      ∧ (s.rigger.badToRigger = true → exec (.bridgeFrame true false m) s = .next (safeCause (sourceOf Page.DRV 1) (lasting Page.DRV 1 0 {}
          (linkDown (modRigger (fun r => { r with badToRigger := false }) s)))))
      ∧ (s.rigger.badToCore = false → ∃ t, exec (.bridgeFrame false false m) s = .next t ∧ t.rigger = { s.rigger with badToCore := true }
        ∧ t.fld Reg.DRV.BRIDGE_STAT 31 16 = satAdd 65535 (s.fld Reg.DRV.BRIDGE_STAT 31 16) 1 ∧ SameRegs (fun k => k == Reg.DRV.BRIDGE_STAT) s t)
      ∧ (s.rigger.badToCore = true → exec (.bridgeFrame false false m) s = .next (safeCause (sourceOf Page.DRV 1) (lasting Page.DRV 1 0 {}
          (linkDown (modRigger (fun r => { r with badToCore := false }) s))))))
  ∧ (∀ s ns,
    (2000 ≤ ns → ∃ t, exec (.riggerFrameTimeout ns) s = .next t ∧ t = riggerAutonomous s ∧ t.rigger.autonomous = true ∧ t.rigger.hears = false
        ∧ t.rigger.spindleOn = false ∧ t.rigger.microOn = false ∧ t.rigger.milli = [] ∧ t.rigger.third = [])
      ∧ (ns < 2000 → exec (.riggerFrameTimeout ns) s = .next s))
  ∧ (∀ s req v, Writes req Reg.DRV.BRIDGE_CTRL s → bit v 0 = true → bit v 1 = false →
    ((linkUp s && s.rigger.hears && s.rigger.autonomous) = true → exec (.bridgeResume req v) s = .next
        (askRigger (fun x => { x with resume := true }) (busOk 0#32 s)))
      ∧ ((linkUp s && s.rigger.hears && s.rigger.autonomous) = false → exec (.bridgeResume req v) s = .next (busOk 0#32 s)))

/-- CLEAR_TRIP, RIG_FAULT, THRESH_WRITE, CHOP_ENGAGE, CHOP_RELEASE, CHOP_FAULT and V_CRIT_TRIP complete: what the rigger die does on its
own measurements, what ends it, and what Keel and Rudder do at the next frame that tells of it. That a frame brings the request and the news
is the model's reading (log entry 168). -/
def Obligations.ChopperAndTrips : Prop :=
  (∀ s req v, Writes req Reg.DRV.BRIDGE_CTRL s → bit v 0 = false → bit v 1 = true →
    (busMv s < vChopOn s → exec (.clearTrip req v) s = .next (askRigger (fun x => { x with clear := true }) (busOk 0#32 s)))
      ∧ (vChopOn s ≤ busMv s → exec (.clearTrip req v) s = .next (busOk 0#32 s)))
  ∧ (∀ s u code, code = 1 ∨ code = 3 ∨ code = 2 ∧ keelState s = 6 →
      u = modRigger (fun r => { r with spindleOn := false, coilsOn := r.coilsOn && code != 3, rigCode := code,
                                       coil := if code = 3 then [] else r.coil }) s →
    (keelState s = 0 ∨ keelAlive s = false → exec (.rigFault code) s = .next (lasting Page.DRV 5 code {} u))
      ∧ (keelState s ≠ 0 → keelAlive s = true → exec (.rigFault code) s = .next (lasting Page.DRV 5 code {} (enterCoast u))))
  ∧ (∀ s req addr v k, addrKey addr = some k → addr.toNat % 4 = 0 → critWordOf k = some 7 ∨ critWordOf k = some 8 ∨ critWordOf k = some 9 →
      Writes req k s → exec (.threshWrite req addr v) s = .next (threshEffect ((critWordOf k).getD 7) v (busOk 0#32 s)))
  ∧ (∀ s mv, rigChopOn s < mv → s.rigger.chopFault = false → s.rigger.chopOn = false →
    exec (.chopEngage mv) s = .next (modRigger (fun r =>
      { r with chopMv := mv, chopTime := s.time, chopNew := true, chopOn := true }) s))
  ∧ (∀ s, s.rigger.chopNew = true → (s.rigger.chopSaid && episodeState (keelState s)) = false →
    chopNews s = raise Page.DRV 2 0 0 {} (modRigger (fun r => { r with chopNew := false, chopSaid := true }) s))
  ∧ (∀ s mv, s.rigger.chopOn = true → mv + rigHyst s < rigChopOn s →
    exec (.chopRelease mv) s = .next (modRigger (fun r => { r with chopOn := false }) s))
  ∧ (∀ s ma mv code, s.rigger.chopOn = true →
      (5000 ≤ s.time - s.rigger.chopTime ∧ ma < rigIMin s ∧ code = 1)
        ∨ ((s.time - s.rigger.chopTime < 5000 ∨ rigIMin s ≤ ma) ∧ 50000 ≤ s.time - s.rigger.chopTime ∧ s.rigger.chopMv + 50 < mv ∧ code = 2) →
    exec (.chopFault ma mv) s = .next (modRigger (fun r =>
      { r with chopOn := false, chopFault := true, chopKind := code, faultNew := true }) s))
  ∧ (∀ s u, s.rigger.faultNew = true → u = lasting Page.DRV 3 s.rigger.chopKind {} (modRigger (fun r => { r with faultNew := false }) s) →
    (keelState s = 5 → keelAlive u = true → faultNews s = beginShortBrake 2 u) ∧ (keelState s ≠ 5 ∨ keelAlive u = false → faultNews s = u))
  ∧ (∀ s mv, rigCrit s < mv → exec (.vCritTrip mv) s = .next (modRigger (fun r =>
      { r with vcrit := true, spindleOn := false, coilsOn := false, coil := [], tripNew := r.tripNew || !r.vcrit }) s))
  ∧ (∀ s u, s.rigger.tripNew = true → u = lasting Page.DRV 4 0 {} (modRigger (fun r => { r with tripNew := false }) s) →
    (keelAlive u = true → tripNews s = retractLoaded 6 (enterCoast u)) ∧ (keelAlive u = false → tripNews s = retractLoaded 6 u))

/-- Keel's commands and its speed target: RUN, STOP, COAST, CHOP_TEST and RESUME in the states that take them, refused in the others. -/
def Obligations.KeelCommands : Prop :=
  (∀ s req v, Writes req Reg.KEEL.CMD s → keelAlive s = true →
    (∀ rpm ma, fld v 3 0 = 1 →
        (¬ (keelState s = 0 ∨ keelState s = 8) → exec (.keelRun req v rpm ma) s = .next (raise Page.KEEL 9 5 4 {} (busOk 0#32 s)))
          ∧ ((keelState s = 0 ∨ keelState s = 8) → vcritLatched s = false → s.critVal 5 = 0#32 →
              exec (.keelRun req v rpm ma) s = .next (raise Page.KEEL 9 5 3 {} (busOk 0#32 s)))
          ∧ ((keelState s = 0 ∨ keelState s = 8) → vcritLatched s = false → s.critVal 5 ≠ 0#32 → motorReady s = false →
              exec (.keelRun req v rpm ma) s = .next (raise Page.KEEL 9 5 2 {} (busOk 0#32 s)))
          ∧ (keelState s = 0 → vcritLatched s = false → s.critVal 5 ≠ 0#32 → motorReady s = true → 10800 ≤ busMv s →
              ∀ u, u = modKeel (fun k =>
                { k with runStart := some s.time, returns := 0, restartPending := false, exhausted := false, stopKept := false,
                         failRun := 0, target := (s.critVal 5).toNat, wedgeOffset := none, raw := none }) (busOk 0#32 s) →
              (rpm < 300 → exec (.keelRun req v rpm ma) s
                = .next (enterKeelState 1 (modKeel (fun k => { k with pulses := 0 }) (askChopTest ma u))))
              ∧ (300 ≤ rpm → exec (.keelRun req v rpm ma) s = .next (startCatch u))))
      ∧ (fld v 3 0 = 2 →
        (keelState s = 1 ∨ keelState s = 2 ∨ keelState s = 3 ∨ keelState s = 4 ∨ keelState s = 7 →
            exec (.keelStop req v) s = .next (doStop (busOk 0#32 s)))
          ∧ (keelState s = 0 ∨ keelState s = 5 ∨ keelState s = 6 ∨ keelState s = 8 →
              exec (.keelStop req v) s = .next (raise Page.KEEL 9 5 4 {} (busOk 0#32 s))))
      ∧ (fld v 3 0 = 3 →
        (keelState s = 0 → exec (.keelCoast req v) s = .next (raise Page.KEEL 9 5 4 {} (busOk 0#32 s)))
          ∧ (keelState s ≠ 0 → exec (.keelCoast req v) s = .next (enterCoast (busOk 0#32 s))))
      ∧ (∀ ma, fld v 3 0 = 4 →
        ((keelState s = 0 ∨ keelState s = 3) → vcritLatched s = false → exec (.chopTest req v ma) s = .next (askChopTest ma (busOk 0#32 s)))
          ∧ (¬ (keelState s = 0 ∨ keelState s = 3) → exec (.chopTest req v ma) s = .next (raise Page.KEEL 9 5 4 {} (busOk 0#32 s))))
      ∧ (fld v 3 0 = 5 →
        (keelState s = 7 → vcritLatched s = false → s.critVal 5 ≠ 0#32 →
            exec (.keelResume req v) s = .next (resumeRun (busOk 0#32 s)))
          ∧ (keelState s = 8 → vcritLatched s = false → s.critVal 5 ≠ 0#32 →
            exec (.keelResume req v) s = .next (startCatch (applyTarget (modKeel (fun k =>
              { k with restartPending := false, exhausted := false }) (busOk 0#32 s)))))
          ∧ (keelState s ≠ 7 → keelState s ≠ 8 → exec (.keelResume req v) s = .next (raise Page.KEEL 9 5 4 {} (busOk 0#32 s))))
      ∧ (fld v 3 0 = 0 ∨ 5 < fld v 3 0 → exec (.keelCmdUnlisted req v) s = .next (raise Page.KEEL 9 5 1 {} (busOk 0#32 s))))
  ∧ (∀ s req addr v k, addrKey addr = some k → addr.toNat % 4 = 0 → critWordOf k = some 5 → Writes req k s →
    (∀ u, v = 0#32 → u = tuneTrip Page.KEEL 4 0 ((busOk 0#32 s).critPut 5 0#32) →
        (¬ (keelState u = 3 ∧ keelAlive u = true) → exec (.spdTargetWrite req addr v) s = .next u)
          ∧ (keelState u = 3 → keelAlive u = true → exec (.spdTargetWrite req addr v) s = .next (doStop u)))
      ∧ (v ≠ 0#32 → (v.toNat < 1200 * 65536 ∨ 7800 * 65536 < v.toNat) → exec (.spdTargetWrite req addr v) s = .next (raise Page.KEEL 9 5 3 {} (busOk 0#32 s)))
      ∧ (1200 * 65536 ≤ v.toNat → v.toNat ≤ 7800 * 65536 → exec (.spdTargetWrite req addr v) s = .next (spdTargetEffect v (busOk 0#32 s))))
  ∧ (∀ s req v, Writes req Reg.KEEL.REF_CFG s → bit v 0 = true → exec (.refEnable req v) s = .next (refCfgEffect req v (busOk 0#32 s)))

/-- KEEL RUN, STOP, COAST, CHOP_TEST and RESUME, a write of CMD with an unlisted code, a write of SPD_TARGET and the enabling of the
reference complete: where the requester may write the register and, but for the reference, the block is alive, each has a next state, which
is that of its own effect: RUN begins a spin-up or catches a turning rotor, STOP begins the stop, COAST coasts, CHOP_TEST asks the rigger
die for the test, RESUME goes back to its target, an unlisted code is refused as CMD_REJECTED code 1, SPD_TARGET is stored and followed, and
the enabled reference is taken into use. -/
def Obligations.KeelCommandsComplete : Prop :=
  (∀ s req v rpm ma u, Writes req Reg.KEEL.CMD s → fld v 3 0 = 1 → keelAlive s = true → keelState s = 0 → vcritLatched s = false →
      s.critVal 5 ≠ 0#32 → motorReady s = true → 10800 ≤ busMv s →
      u = modKeel (fun k => { k with runStart := some s.time, returns := 0, restartPending := false, exhausted := false, stopKept := false,
                                     failRun := 0, target := (s.critVal 5).toNat, wedgeOffset := none, raw := none }) (busOk 0#32 s) →
    exec (.keelRun req v rpm ma) s = .next
      (if rpm < 300 then enterKeelState 1 (modKeel (fun k => { k with pulses := 0 }) (askChopTest ma u)) else startCatch u))
  ∧ (∀ s req v rpm ma u, Writes req Reg.KEEL.CMD s → fld v 3 0 = 1 → keelAlive s = true → keelState s = 8 → vcritLatched s = false →
      s.critVal 5 ≠ 0#32 → motorReady s = true →
      u = modKeel (fun k => { k with runStart := some s.time, returns := 0, restartPending := false, exhausted := false, stopKept := false,
                                     failRun := 0, target := (s.critVal 5).toNat }) (busOk 0#32 s) →
    exec (.keelRun req v rpm ma) s = .next (startCatch u))
  ∧ (∀ s req v, Writes req Reg.KEEL.CMD s → fld v 3 0 = 2 → keelAlive s = true → keelState s ∈ [1, 2, 3, 4, 7] →
    exec (.keelStop req v) s = .next (doStop (busOk 0#32 s)))
  ∧ (∀ s req v, Writes req Reg.KEEL.CMD s → fld v 3 0 = 3 → keelAlive s = true → keelState s ≠ 0 →
    exec (.keelCoast req v) s = .next (enterCoast (busOk 0#32 s)))
  ∧ (∀ s req v ma, Writes req Reg.KEEL.CMD s → fld v 3 0 = 4 → keelAlive s = true → keelState s = 0 ∨ keelState s = 3 →
      vcritLatched s = false →
    exec (.chopTest req v ma) s = .next (askChopTest ma (busOk 0#32 s)))
  ∧ (∀ s req v, Writes req Reg.KEEL.CMD s → fld v 3 0 = 5 → keelAlive s = true → keelState s = 7 → vcritLatched s = false →
      s.critVal 5 ≠ 0#32 →
    exec (.keelResume req v) s = .next (resumeRun (busOk 0#32 s)))
  ∧ (∀ s req v, Writes req Reg.KEEL.CMD s → fld v 3 0 = 5 → keelAlive s = true → keelState s = 8 → vcritLatched s = false →
      s.critVal 5 ≠ 0#32 →
    exec (.keelResume req v) s = .next (startCatch (applyTarget (modKeel (fun k =>
      { k with restartPending := false, exhausted := false }) (busOk 0#32 s)))))
  ∧ (∀ s req v, Writes req Reg.KEEL.CMD s → fld v 3 0 = 0 ∨ 5 < fld v 3 0 → keelAlive s = true →
    exec (.keelCmdUnlisted req v) s = .next (raise Page.KEEL 9 5 1 {} (busOk 0#32 s)))
  ∧ (∀ s req addr v k, addrKey addr = some k → addr.toNat % 4 = 0 → critWordOf k = some 5 → Writes req k s → keelAlive s = true →
      keelState s ≠ 4 → keelState s ≠ 7 → 1200 * 65536 ≤ v.toNat → v.toNat ≤ 7800 * 65536 →
    exec (.spdTargetWrite req addr v) s = .next (keelUnlock (applyTarget (tuneTrip Page.KEEL 4 0 ((busOk 0#32 s).critPut 5 v)))))
  ∧ (∀ s req addr v k, addrKey addr = some k → addr.toNat % 4 = 0 → critWordOf k = some 5 → Writes req k s → v = 0#32 → keelState s ≠ 3 →
    exec (.spdTargetWrite req addr v) s = .next (tuneTrip Page.KEEL 4 0 ((busOk 0#32 s).critPut 5 v)))
  ∧ (∀ s req v, Writes req Reg.KEEL.REF_CFG s → bit v 0 = true → holds req 0 1 s = true →
      (usesCt3 (s.critFld 6 1 0) = true → holds req 1 1 s = true) →
    exec (.refEnable req v) s = .next
      (if s.bit Reg.KEEL.REF_CFG 0 = true then storeWrite Reg.KEEL.REF_CFG v (busOk 0#32 s)
       else requalify (freshReference (storeWrite Reg.KEEL.REF_CFG v (busOk 0#32 s)))))

/-- Keel's periods and what follows from them: the PWM period, lock, the phase word, current sensing, the spin-up, re-acquisition,
braking and the external reference. -/
def Obligations.KeelPeriods : Prop :=
  (∀ s p, keelAlive s = true → exec (.pwmPeriod p) s = .next (pwmStep p s))
  ∧ (∀ s, keelAlive s = true → keelLocked s = false → s.fld Reg.KEEL.LOCK_CFG 23 16 ≤ s.keel.lockRun →
    Runs .spindleLocked s fun t => keelLocked t = true ∧ t.keel = { s.keel with runStart := none }
      ∧ SameRegs (fun k => k == Reg.STATUS Page.KEEL || k == Reg.EV_PEND Page.KEEL) s t)
  ∧ (∀ s (x : Fin 6) (e : BitVec 16) pos, keelAlive s = true → pos = (resolvePole (x.val * 65536 + e.toNat) s + s.keel.wedgeOffset.getD 0) % revUnits →
      s.fld (Reg.TUNE.TR_LEVEL Page.KEEL) 9 0 ≠ pos / 4096 →
    Runs (.phaseWord x e) s fun t => t.reg Reg.KEEL.PHASE = word (pos / 4096 * 2 ^ 22 + pos % 4096 * 2 ^ 10
        + (if (estValid s && s.keel.wedgeOffset.isSome) = true then 1 else 0)) ∧ SameRegs (fun k => k == Reg.KEEL.PHASE) s t)
  ∧ (∀ s, keelAlive s = true → s.fld (Reg.STATUS Page.KEEL) 17 16 = 0 → s.keel.csPhase = 0 → 8 ≤ s.keel.csBad →
    Runs .csMismatch s fun t => t.keel = { s.keel with csPhase := 1, csCount := 0, csBad := 0 } ∧ t.regs = s.regs)
  ∧ (∀ s u, keelAlive s = true → s.keel.csPhase = 2 → 8 ≤ s.keel.csCount →
      u = modKeel (fun k => { k with csPhase := 0, csCount := 0, csBad := 0 }) s →
    (s.keel.csU = false → s.keel.csV = false → exec .csCheck s = .next (transient Page.KEEL 6 0 {} u))
      ∧ (s.keel.csU = true → s.keel.csV = false →
          exec .csCheck s = .next (lasting Page.KEEL 6 1 {} (u.setFld (Reg.STATUS Page.KEEL) 17 16 1)))
      ∧ (s.keel.csU = false → s.keel.csV = true →
          exec .csCheck s = .next (lasting Page.KEEL 6 2 {} (u.setFld (Reg.STATUS Page.KEEL) 17 16 1)))
      ∧ (s.keel.csU = true → s.keel.csV = true →
          exec .csCheck s = .next (lasting Page.KEEL 6 3 {} (u.setFld (Reg.STATUS Page.KEEL) 17 16 2))))
  ∧ (∀ s, keelAlive s = true → keelState s = 2 → 16 ≤ s.keel.handoverRun →
    exec .observerHandover s = .next (resumeRun (s.setBit (Reg.STATUS Page.KEEL) 14 true)))
  ∧ (∀ s, keelAlive s = true → keelState s = 2 → s.keel.openStart + 2000000000 ≤ s.time →
    (s.keel.returns < 3 → exec .openLoopTimeout s = .next (detectAgain (modKeel (fun k => { k with returns := k.returns + 1 }) s)))
      ∧ (3 ≤ s.keel.returns → exec .openLoopTimeout s = .next
          (lasting Page.KEEL 12 2 {} (enterKeelState 0 (modKeel (fun k => { k with runStart := none }) s)))))
  ∧ (∀ s u, keelAlive s = true → keelLocked s = false → s.keel.runStart = some u →
      u + s.fld Reg.KEEL.SPINUP_CFG2 23 16 * 1000000000 ≤ s.time →
    (keelState s ≠ 8 → exec .spinupFail s = .next (doStop (lasting Page.KEEL 12 1 {} s)))
      ∧ (keelState s = 8 → exec .spinupFail s = .next (enterCoast (lasting Page.KEEL 12 1 {} s))))
  ∧ (∀ s u, keelAlive s = true → 3 ≤ s.keel.overRun → u = estimateLostEvent (keelUnlock (s.setBit (Reg.STATUS Page.KEEL) 14 false)) →
    (keelState s = 2 → exec .estimateLost s = .next (restartSpinup u))
      ∧ (keelState s = 3 ∨ keelState s = 5 ∨ keelState s = 7 → rpmUnits (s.fld Reg.KEEL.OBS_CFG 27 16) ≤ keelSpeed s →
          exec .estimateLost s = .next (startReacq (keelState s) 1 u))
      ∧ (keelState s = 3 → keelSpeed s < rpmUnits (s.fld Reg.KEEL.OBS_CFG 27 16) → exec .estimateLost s = .next (restartSpinup u))
      ∧ (keelState s = 5 ∨ keelState s = 7 → keelSpeed s < rpmUnits (s.fld Reg.KEEL.OBS_CFG 27 16) →
          exec .estimateLost s = .next (enterKeelState 8 u)))
  ∧ (∀ s u, keelAlive s = true → s.keel.reacqStep = 5 → 360 ≤ s.keel.goodDeg → s.time ≤ s.keel.reacqStart + 4 * electricalNs s →
      u = modKeel (fun k => { k with reacqStep := 0, failRun := 0, overRun := 0 })
        (transient Page.KEEL 3 0 { p0 := word (s.time - s.keel.reacqStart) } (s.count Reg.KEEL.REACQ_COUNT 1)) →
    (keelState s = 7 → exec .reacqOk s = .next u)
      ∧ (keelState s = 4 → s.keel.returnState = 3 → exec .reacqOk s = .next (resumeRun u))
      ∧ (keelState s = 4 → s.keel.returnState ≠ 3 → exec .reacqOk s = .next (enterKeelState s.keel.returnState u)))
  ∧ (∀ s u, keelAlive s = true → s.keel.reacqStep ≠ 0 → keelState s = 4 ∨ keelState s = 7 →
      s.keel.reacqStart + 4 * electricalNs s < s.time →
      u = modKeel (fun k => { k with failTimes := (s.time :: k.failTimes).take 3, failRun := k.failRun + 1 })
        (raise Page.KEEL 4 0 s.keel.reacqAttempt {} s) →
    (reacqFails u < 3 → exec .reacqFail s = .next (startReacq s.keel.returnState (s.keel.reacqAttempt + 1) u))
      ∧ (3 ≤ reacqFails u → exec .reacqFail s = .next (parkAll (enterCoast (modKeel (fun k =>
          { k with exhausted := true }) (safeCause (sourceOf Page.KEEL 5) (lasting Page.KEEL 5 0 {} u)))))))
  ∧ (∀ s, keelAlive s = true →
    (keelState s = 5 → chopFaulty s = true → exec .shortBrake s = .next (beginShortBrake 2 s))
      ∧ (keelState s = 5 → chopFaulty s = false → keelSpeed s ≤ rpmUnits (s.fld Reg.KEEL.DECEL_CFG 27 16) →
          exec .shortBrake s = .next (beginShortBrake 1 s))
      ∧ (keelState s = 8 → s.keel.exhausted = true → allParked s = true → vcritLatched s = false → exec .shortBrake s = .next (beginShortBrake 3 s)))
  ∧ (∀ s ms, keelAlive s = true → keelState s = 6 → 500 ≤ ms →
    exec (.stopped ms) s = .next (raise Page.KEEL 15 0 0 {} (keelUnlock (enterKeelState 0 (s.setReg Reg.KEEL.SPEED 0#32)))))
  ∧ (∀ s, keelAlive s = true → keelState s = 7 → keelSpeed s ≤ rpmUnits (s.fld Reg.KEEL.GEN_CFG 27 16) →
    exec .genFloor s = .next (lasting Page.KEEL 14 0 {} (enterCoast s)))
  ∧ (∀ s p h n, keelAlive s = true → 0 < p → refSource s = 2 →
    Runs (.refEdge p h n) s fun t => t.keel.lastEdge = some (s.time - n)
      ∧ (10000 ≤ p → p ≤ 10000000 → t.keel.wantPpb = (2 * (h : Int) - p) * 5000000 / p)
      ∧ t.bit (Reg.STATUS Page.KEEL) 22 = (decide (10000 ≤ p) && decide (p ≤ 10000000)) ∧ SameRegs (fun k => k == Reg.STATUS Page.KEEL) s t)
  ∧ (∀ s u, keelAlive s = true → refSource s = 2 → s.keel.lastEdge = some u →
    (u + 10000000 ≤ s.time → exec .refLost s = .next (raise Page.KEEL 7 0 0 {} (modKeel (fun k =>
        { k with lastEdge := none, wantPpb := k.trimPpb }) (s.setBit (Reg.STATUS Page.KEEL) 22 false))))
      ∧ (s.time < u + 10000000 → exec .refLost s = .next s))
  ∧ (∀ s x, keelAlive s = true → refSource s = 3 →
    Runs (.refAnalogSample x) s fun t => t.keel.wantPpb = (2 * (x.toNat : Int) - 4095) * 5000000 / 4095
      ∧ t.bit (Reg.STATUS Page.KEEL) 22 = true ∧ SameRegs (fun k => k == Reg.STATUS Page.KEEL) s t)

/-- Rudder's samples and group work: wedge samples, sub-samples, lost position, seeks, settling, write fault and the PES window. -/
def Obligations.RudderSamples : Prop :=
  (∀ s a w n u0 u, rudAlive s a = true → n = nextWedge s a → w.bankParity = false →
      u0 = tuneGenerate (Page.RUDDER a) true (joinSlots a (modRud a (fun r =>
        { r with wedge := n, sub := 0, windowRun := r.windowRun + 1, coilIma := w.coilMa }) s)) →
      u = (if w.bankReread = true then transient (Page.RUDDER a) 12 3 {} u0 else u0) →
      (sendCouple a (wedgeByState a n w u)).fld (Reg.TUNE.TR_LEVEL (Page.RUDDER a)) 9 0 ≠ n →
    exec (.wedgeSample a w) s = .next (followSpindle a (rudTune a true (sendCouple a (wedgeByState a n w u)))))
  ∧ (∀ s a n (w : WedgeIn), (rudState s a = 2 ∨ rudState s a = 3 →
        wedgeByState a n w s = trackStep a n w (rvTerm a (coilTerms a (reactTerms a s))))
      ∧ (rudState s a = 4 → wedgeByState a n w s
          = stepFlags a (huntStep a n (velocityStep a 0 w (rvTerm a (coilTerms a (reactTerms a s))))))
      ∧ (rudState s a = 0 ∨ rudState s a = 7 → wedgeByState a n w s = rvTerm a (coilTerms a (reactTerms a s))))
  ∧ (∀ s a w u, rudAlive s a = true →
      u = (List.range 4).foldl (fun t k => subSlot a w k t)
        (reactTerms a (tuneGenerate (Page.RUDDER a) false (joinSlots a (modRud a (fun r => { r with sub := (r.sub + 1) % 16 }) s)))) →
    (rudState s a = 2 ∨ rudState s a = 3 ∨ (rudState s a = 1 ∧ (rud s a).acquired = true) → exec (.subsample a w) s = .next
        (rudTune a false (sendCouple a (stepFlags a (stepThirds a (fun k => (w.slots.getD k ⟨0, 0, true, 0, false⟩).late) u)))))
      ∧ (¬ (rudState s a = 2 ∨ rudState s a = 3 ∨ (rudState s a = 1 ∧ (rud s a).acquired = true)) →
          exec (.subsample a w) s = .next (rudTune a false (sendCouple a (stepFlags a u)))))
  ∧ (∀ s a k, rudAlive s a = true → k < 4 → (rudSlot s a k).used = true → 16 ≤ (rudSlot s a k).ssRun →
      (rud s a).ssOff.contains (rudSlot s a k).head = false → exec (.ssFault a k) s = .next
      (lasting (Page.RUDDER a) 15 (rudSlot s a k).head {} (modRud a (fun r => { r with ssOff := (rudSlot s a k).head :: r.ssOff }) s)))
  ∧ (∀ s a, rudAlive s a = true → 8 ≤ (rud s a).missedRun → rudParked s a = false → exec (.timingFail a) s = .next
      (retract a 5 (lasting (Page.RUDDER a) 7 0 {} (modRud a (fun r => { r with missedRun := 0 }) s))))
  ∧ (∀ s a, rudAlive s a = true → rudState s a = 2 ∨ rudState s a = 3 → usedSlots s a ≠ [] →
      s.fld (Reg.RUDDER.POS_CFG a) 3 0 ≤ (rud s a).lostRun → exec (.positionLost a) s = .next
      (enterRud a 4 (modRud a (fun r => { r with huntRun := 0, huntGood := 0, huntPos := none, lostRun := 0, seeking := false })
        (driveThirds a ((usedSlots s a).foldl (fun t k => stepReadOff a k (showSat a (2 + k) (14 + k) false
          (modSlot a k (fun x => { x with onTrack := false, onRun := 0, tsMv := 0, sat := x.clamped, loop := Loop.zero }) t))) s)))))
  ∧ (∀ s a, rudAlive s a = true → rudState s a = 4 →
    (4 ≤ (rud s a).huntGood → (rud s a).huntRun ≤ 64 → exec (.reacquireDone a) s = .next
        (startSeek a ((rud s a).huntPos.getD 0 - (rudSlot s a ((usedSlots s a).headD 0)).off) false
          (seedSlots a (transient (Page.RUDDER a) 2 0 {} s))))
      ∧ (64 ≤ (rud s a).huntRun → ¬ (4 ≤ (rud s a).huntGood ∧ (rud s a).huntRun ≤ 64) → exec (.reacquireTimeout a) s = .next
        (retract a 5 (lasting (Page.RUDDER a) 2 0 {} s))))
  ∧ (∀ s a k u, rudAlive s a = true → k < 4 → (rudSlot s a k).used = true → (rudSlot s a k).onTrack = false → rudShock s a = false →
      s.fld (Reg.RUDDER.SETTLE_CFG a) 19 16 ≤ (rudSlot s a k).onRun → u = modSlot a k (fun y => { y with onTrack := true }) s →
    (rudState s a = 3 → exec (.onTrack a k) s = .next u)
      ∧ (rudState s a = 2 → ((usedSlots u a).all fun j => (rudSlot u a j).onTrack) = false → exec (.onTrack a k) s = .next u)
      ∧ (rudState s a = 2 → ((usedSlots u a).all fun j => (rudSlot u a j).onTrack) = true → exec (.onTrack a k) s = .next
          (followed a (if (rud u a).seekAgain then transient (Page.RUDDER a) 3 0 {} u else u)))
      ∧ (rudState s a = 1 → (rud s a).acquired = true → ((usedSlots u a).all fun j => (rudSlot u a j).onTrack) = true →
          exec (.onTrack a k) s = .next (followed a (if (rud u a).loadAgain then transient (Page.RUDDER a) 4 0 {} u else u))))
  ∧ (∀ s a, rudAlive s a = true → rudState s a = 2 →
      (rud s a).seekStart + s.fld (Reg.RUDDER.SETTLE_CFG a) 31 24 * 1000000 ≤ s.time →
    ((rud s a).seekAgain = false → exec (.seekFail a) s = .next (startSeek a ((rud s a).arm + (rud s a).armPes) true s))
      ∧ ((rud s a).seekAgain = true → exec (.seekFail a) s = .next (followed a
          (modRud a (fun r => { r with pending := (rud s a).pending, arm := r.arm + r.armPes, armPes := 0 }) (note a .lasting (clearSlots a (lasting (Page.RUDDER a) 3 0 {} s)))))))
  ∧ (∀ s a k, rudAlive s a = true → k < 4 → (rudSlot s a k).wf = true → wfCause s a k = false →
      s.fld (Reg.RUDDER.WF_CFG a) 31 24 ≤ (rudSlot s a k).clean →
      exec (.wfClear a k) s = .next (showWf a (modSlot a k (fun x => { x with wf := false }) s)))
  ∧ (∀ s a, rudAlive s a = true → 2 ^ s.fld (Reg.RUDDER.PES_CFG a) 19 16 ≤ (rud s a).windowRun →
      exec (.pesWindow a) s = .next ((List.range 4).foldl (pesSlot a) (modRud a (fun r => { r with windowRun := 0 }) s)))

/-- Rudder's commands, its loads, its coefficient sets, and the words and sensors of COUPLE. -/
def Obligations.RudderCommands : Prop :=
  (∀ s req a v, a < 4 → Writes req (Reg.RUDDER.CMD a) s →
    (fld v 3 0 = 1 →
        (rudState s a = 0 → loadAllowed s a (fld v 10 8) = true →
            exec (.rudderLoad req a v) s = .next (startLoad a (fld v 10 8) false (busOk 0#32 s)))
          ∧ (rudState s a = 0 → loadAllowed s a (fld v 10 8) = false →
            exec (.rudderLoad req a v) s = .next (raise (Page.RUDDER a) 10 5 2 {} (busOk 0#32 s)))
          ∧ (rudState s a ≠ 0 → exec (.rudderLoad req a v) s = .next (raise (Page.RUDDER a) 10 5 4 {} (busOk 0#32 s))))
      ∧ (fld v 3 0 = 2 →
        (rudState s a = 2 ∨ rudState s a = 3 ∨ rudState s a = 4 →
            exec (.rudderUnload req a v) s = .next (beginPark a 0 false (busOk 0#32 s)))
          ∧ (¬ (rudState s a = 2 ∨ rudState s a = 3 ∨ rudState s a = 4) →
            exec (.rudderUnload req a v) s = .next (raise (Page.RUDDER a) 10 5 4 {} (busOk 0#32 s))))
      ∧ (fld v 3 0 = 3 →
        (rudState s a ≠ 0 → rudState s a ≠ 7 → exec (.rudderRetract req a v) s = .next (retract a 1 (busOk 0#32 s)))
          ∧ (rudState s a = 0 ∨ rudState s a = 7 →
            exec (.rudderRetract req a v) s = .next (raise (Page.RUDDER a) 10 5 4 {} (busOk 0#32 s))))
      ∧ (fld v 3 0 = 4 →
        (rudState s a = 7 → exec (.rudderClear req a v) s = .next (enterRud a 0 (busOk 0#32 s)))
          ∧ (rudState s a ≠ 7 → exec (.rudderClear req a v) s = .next (raise (Page.RUDDER a) 10 5 4 {} (busOk 0#32 s))))
      ∧ (fld v 3 0 = 0 ∨ 4 < fld v 3 0 → exec (.rudderCmdUnlisted req a v) s = .next (raise (Page.RUDDER a) 10 5 1 {} (busOk 0#32 s))))
  ∧ (∀ s a, rudAlive s a = true → rudState s a = 1 →
      (rud s a).loadStart + s.fld (Reg.RUDDER.LOAD_CFG a) 15 0 * 1000000 ≤ s.time →
    ((rud s a).loadAgain = false → exec (.loadTimeout a) s = .next (beginPark a 0 true s))
      ∧ ((rud s a).loadAgain = true → exec (.loadTimeout a) s = .next
          (modRud a (fun r => { r with parkFault := true }) (beginPark a 0 false (lasting (Page.RUDDER a) 4 0 {} s)))))
  ∧ (∀ s req a v, a < 4 → Writes req (Reg.RUDDER.COEF_CTRL a) s →
    (bit v 0 = true → bit v 1 = false → s.bit (Reg.RUDDER.COEF_CTRL a) 0 = false →
        Runs (.coefLoad req a v) s fun t => (rud t a).loadFrom = s.reg64 (Reg.RUDDER.COEF_ADDR_LO a) % 0x10000000000
          ∧ t.bit (Reg.RUDDER.COEF_CTRL a) 0 = true ∧ SameRegs (fun k => k == Reg.RUDDER.COEF_CTRL a) s t)
      ∧ (bit v 0 = false → bit v 1 = true → s.bit (Reg.RUDDER.COEF_CTRL a) (8 + idleBank s a) = true →
        exec (.coefSwitch req a v) s = .next ((busOk 0#32 s).setBit (Reg.RUDDER.COEF_CTRL a) 1 true))
      ∧ (bit v 0 = false → bit v 1 = true → s.bit (Reg.RUDDER.COEF_CTRL a) (8 + idleBank s a) = false →
        exec (.coefSwitch req a v) s = .next (raise (Page.RUDDER a) 10 5 2 {} (busOk 0#32 s))))
  ∧ (∀ s a u x, rudAlive s a = true → s.bit (Reg.RUDDER.COEF_CTRL a) 0 = true → dramAwake s = true →
      creditTurn s (.load (Page.RUDDER a)) = true → u = takeCredit (.load (Page.RUDDER a)) s →
      x = fetchWords true (Requester.code (.rudder (BitVec.ofNat 2 a).toFin)) (rud u a).loadFrom 0x750 u →
      coefFault a x.1 x.2.1 u = none →
    let t := modRud a (fun r => { r with banks := x.1.zipIdx.foldl (fun m e => SMap.set (fun _ => 0#32) m (2048 * idleBank u a + e.2) e.1) r.banks })
      ((x.2.2.setBit (Reg.RUDDER.COEF_CTRL a) 0 false).setBit (Reg.RUDDER.COEF_CTRL a) (8 + idleBank u a) true)
    exec (.coefLoadDone a false) s = .next (xactGrantNext (setXactHeld (CreditAsk.cls (.load (Page.RUDDER a)))
      (xactHeld t (CreditAsk.cls (.load (Page.RUDDER a))) - 1) t)))
  ∧ (∀ s a id, rudAlive s a = true → s.bit (Reg.RUDDER.COEF_CTRL a) 1 = true → s.bit (Reg.RUDDER.COEF_CTRL a) (8 + idleBank s a) = true →
      rudState s a = 0 ∨ rudState s a = 3 → id = SMap.get (fun _ => 0#32) (rud s a).banks (2048 * idleBank s a + 4) →
      exec (.coefSwitched a false) s = .next (newOffsets a (raise (Page.RUDDER a) 13 0 0 ⟨id, 0#32, 0#32⟩
        (((s.setBit (Reg.RUDDER.COEF_CTRL a) 1 false).setFld (Reg.STATUS (Page.RUDDER a)) 23 23 (idleBank s a)).setReg (Reg.RUDDER.COEF_ID a) id))))
  ∧ (∀ s a b c w u x y z, rudAlive s a = true → rudAlive s b = true → b ≠ a → c = SMap.get (fun _ => Coupled.reset) (rud s a).coupled b →
      w = (rud s b).sent → c.taken ≠ (rud s b).sentNo → c.dropped = false →
      u = modCoupled a b (fun y => { y with taken := (rud s b).sentNo }) s →
    ((x && y && z) = true → exec (.coupleWord a b x y z) s = .next ((modCoupled a b (fun y =>
        { y with coilMa := w.coilMa, milliMv := w.milliMv, wedgeMa := if w.index = 0 then w.coilMa else y.wedgeMa, bad := 0
                 good := y.good + 1 }) u).setBit Reg.COUPLE.CPL_STATUS b true))
      ∧ ((x && y && z) = false → c.bad = 0 → exec (.coupleWord a b x y z) s = .next (transient Page.COUPLE 1 b {} ((modCoupled a b (fun y =>
          { y with bad := y.bad + 1, good := 0, dropped := y.dropped || decide (1 ≤ y.bad) }) u).count Reg.COUPLE.CPL_ERRORS 1)))
      ∧ ((x && y && z) = false → 1 ≤ c.bad → exec (.coupleWord a b x y z) s = .next (lasting Page.COUPLE 2 b {} (((transient Page.COUPLE 1 b {}
          ((modCoupled a b (fun y => { y with bad := y.bad + 1, good := 0, dropped := y.dropped || decide (1 ≤ y.bad) }) u).count
            Reg.COUPLE.CPL_ERRORS 1)).setBit Reg.COUPLE.CPL_STATUS b false).setBit Reg.COUPLE.CPL_STATUS (4 + b) true))))
  ∧ (∀ s n x, couplesOn s = true → sensorUsed s n = true → 2 ≤ n →
    Runs (.snsSample n x) s fun t => t.reg (Reg.COUPLE.SNS n) = word x.toNat ∧ (sensor t n).last = x.toInt ∧ (sensor t n).sampled = true
      ∧ SameRegs (fun k => k == Reg.COUPLE.SNS n) s t)
  ∧ (∀ s u, couplesOn s = true → s.bit Reg.COUPLE.SNS_STATUS 4 = true →
      s.couple.lastAbove + s.fld Reg.COUPLE.SNS_CFG 27 16 * 1000 ≤ s.time → u = s.couple.crossing.getD s.time →
    exec .shockHoldEnd s = .next ((List.range 4).foldl (fun t a => t.setBit (Reg.STATUS (Page.RUDDER a)) 22 false)
      (raise Page.COUPLE 0 0 0 ⟨sword s.couple.peak, loWord u, hiWord u⟩ (s.setBit Reg.COUPLE.SNS_STATUS 4 false))))
  ∧ (∀ s, couplesOn s = true → s.bit Reg.COUPLE.SNS_STATUS 4 = false → shockHeld s = true →
      s.couple.lastAbove + s.fld Reg.COUPLE.SNS_CFG 27 16 * 1000 ≤ s.time →
    exec .shockHoldEnd s = .next ((List.range 4).foldl (fun t a => t.setBit (Reg.STATUS (Page.RUDDER a)) 22 false) s))
  ∧ (∀ s n, couplesOn s = true → sensorUsed s n = true → (sensor s n).sampled = true →
      ((sensor s n).since + 10000000 ≤ s.time ∨ fullScale (sensor s n).last = true ∧ (sensor s n).railed + 10000000 ≤ s.time) →
    exec (.sensorFault n) s = .next (lasting Page.COUPLE 3 n {} (s.setBit Reg.COUPLE.SNS_STATUS n true)))

/-- The head stack: frames of a preamplifier port and its faults, discovery, temperatures and load, calibration records, wedges and the
end of a retract. -/
def Obligations.HeadsCommands : Prop :=
  (∀ s req a v, a < 4 → Writes req (Reg.PRE.FW_CMD a) s → bit v 31 = true →
    (bit v 16 = true → exec (.preFwRead req a v) s = .next (fwFrame a v (busOk 0#32 s)))
      ∧ (bit v 16 = false → exec (.preFwWrite req a v) s = .next (fwFrame a v (busOk 0#32 s)))
      ∧ (bit v 16 = true → s.bit (Reg.PRE.FW_RESULT a) 16 = true → exec (.preFwRead req a v) s = .next (busOk 0#32 s)))
  ∧ (∀ s a f fw (d : BitVec 16) (c : BitVec 8) (x : BitVec 24), portUp s a = true → x = d ++ c →
    (∀ b u, (pre s a).sending = some (f, fw, b) → tailGood f.read x = true → u = (if b = true then transient (Page.PRE a) 1 0 {} s else s) →
        exec (.serialFrameDone a d c) s = .next (preNext a (modPre a (fun p => { p with sending := none, wire := [] })
          (if fw = true then fwDone a f d.toNat (if f.read = true then u else preWritten a f u)
            else (if f.read = true then u else preWritten a f u)))))
      ∧ ((pre s a).sending = some (f, fw, false) → tailGood f.read x = false → Runs (.serialFrameDone a d c) s fun t =>
          (pre t a).sending = some (f, fw, true) ∧ t.fld (Reg.PRE.CRC_COUNT a) 15 0 = satAdd 65535 (s.fld (Reg.PRE.CRC_COUNT a) 15 0) 1
            ∧ SameRegs (fun k => k == Reg.PRE.CRC_COUNT a) s t)
      ∧ ((pre s a).sending = some (f, false, true) → tailGood f.read x = false → exec (.serialFrameDone a d c) s = .next
          (loseActuator a (lasting (Page.PRE a) 2 0 {} s)))
      ∧ ((pre s a).sending = some (f, true, true) → tailGood f.read x = false → exec (.serialFrameDone a d c) s = .next
          (loseActuator a ((lasting (Page.PRE a) 2 0 {} s).setBit (Reg.PRE.FW_RESULT a) 17 true))))
  ∧ (∀ s a (w : BitVec 16), portUp s a = true → s.bit (Reg.PRE.FAULT a) 16 = false →
    exec (.pfaultAssert a w) s = .next (faultWatch a w.toNat s))
  ∧ (∀ s a (w : BitVec 16), portUp s a = true → (pre s a).watch = true →
    (exec (.pfaultSettle a true w) s = .next (transient (Page.PRE a) 0 0 {}
        (modPre a (fun p => { p with hold := false, watch := false }) (s.setBit (Reg.PRE.FAULT a) 16 false))))
      ∧ (w.toNat % 64 ≠ 0 → w.toNat / 256 % 16 = 0 → exec (.pfaultSettle a false w) s = .next
          (faultHeads a w.toNat (s.setFld (Reg.PRE.FAULT a) 15 0 w.toNat)))
      ∧ (w.toNat / 256 % 16 ≠ 0 → exec (.pfaultSettle a false w) s = .next (loseActuator a (lasting (Page.PRE a) 0 2 {}
          (modPre a (fun p => { p with watch := false }) (s.setFld (Reg.PRE.FAULT a) 15 0 w.toNat))))))
  ∧ (∀ s a (w : BitVec 16), portUp s a = true → s.bit (Reg.PRE.FAULT a) 16 = true → (pre s a).hold = false →
    (w.toNat &&& (0xFFFF ^^^ (s.reg (Reg.PRE.HEAD_FAIL a)).toNat) ≠ 0 → exec (.faultStatusPoll a w) s = .next
        (faultWatch a w.toNat (s.setFld (Reg.PRE.FAULT a) 15 0 w.toNat)))
      ∧ (w = 0#16 → exec (.faultStatusPoll a w) s = .next ((s.setFld (Reg.PRE.FAULT a) 15 0 0).setBit (Reg.PRE.FAULT a) 16 false)))
  ∧ (∀ s req v, Writes req Reg.HDA.CMD s → bit v 0 = true → s.hda.discovering = none →
    (s.bit Reg.HDA.DISC_STATUS 0 = false → exec (.discover req v) s = .next (startDiscovery (busOk 0#32 s)))
      ∧ (s.bit Reg.HDA.DISC_STATUS 0 = true → exec (.discover req v) s = .next (raise Page.HDA 0 0 2 {} (busOk 0#32 s))))
  ∧ (∀ s rs t0 ports, s.hda.discovering = some t0 → ports = ((List.range 4).filter fun a => pageOn s (Page.PRE a)) →
    exec (.discoveryDone rs) s = .next (ports.foldl (fun t a => if t.critFld 3 a a = 1 then t else domainOff (9 + a) t)
      (raise Page.HDA 0 0 1 {} ((ports.foldl (fun t a => portProbed a (rs.getD a ⟨false, []⟩) t) { s with hda := { s.hda with discovering := none } }).setReg
        Reg.HDA.DISC_STATUS (word (1 + min 65535 ((s.time - t0) / 1000) * 65536))))))
  ∧ (∀ s req addr v k, addrKey addr = some k → critWordOf k = some 3 → Writes req k s → exec (.actuatorRetire req addr v) s = .next
      ((List.range 4).foldl (fun t a => if bit v (4 + a) then loseActuator a t else t) (busOk 0#32 s)))
  ∧ (∀ s x y x' y', blockRuns s Page.HDA = true → s.hda.d0 = ⟨some x', false, false⟩ → s.hda.d1 = ⟨some y', false, false⟩ →
      -400 ≤ x → x ≤ 1250 → -400 ≤ y → y ≤ 1250 → (x - x').natAbs ≤ 50 → (y - y').natAbs ≤ 50 →
    Runs (.tempUpdate x y) s fun t => t.reg Reg.HDA.TEMP = word (fld (sword ((x + y).tdiv 2)) 15 0 + 0x80000000)
      ∧ t.hda = { s.hda with d0 := ⟨some x, false, false⟩, d1 := ⟨some y, false, false⟩ }
      ∧ t.reg Reg.HDA.DIODE0 = word (fld (sword x) 15 0) ∧ t.reg Reg.HDA.DIODE1 = word (fld (sword y) 15 0)
      ∧ SameRegs (fun k => k == Reg.HDA.TEMP || k == Reg.HDA.DIODE0 || k == Reg.HDA.DIODE1) s t)
  ∧ (∀ s low ns n l d, blockRuns s Page.HDA = true → ns = gateHigh s.time s.hda.pulses - low →
      n = ((List.range 4).filter fun a => pageOn s (Page.RUDDER a) && rudState s a == 3).length →
      l = max 2 (2 * ((List.range 4).filter fun a => s.critFld 3 a a == 1).length) → d = min 127 (127 * ns / (l * 100000000)) →
    Runs (.tliUpdate low) s fun t => t.hda = { s.hda with pulses := recentPulses s.time s.hda.pulses } ∧ t.reg Reg.HDA.TLI = word (min 255 (32 * n + d) + n * 256 + d * 65536)
      ∧ SameRegs (fun k => k == Reg.HDA.TLI) s t)
  ∧ (∀ s req v, Writes req Reg.CAL.CMD s → bit v 0 = true → s.cal.load = none → blockRuns s Page.CAL = true →
    Runs (.calLoad req v) s fun t => t.regs = s.regs
      ∧ t.cal = { s.cal with load := some (s.reg64 Reg.CAL.LOAD_ADDR_LO / 64 * 64, min 1536 (max 1 (s.fld Reg.CAL.LOAD_COUNT 10 0))) })
  ∧ (∀ s bad b n, s.cal.load = some (b, n) → blockAlive s Page.CAL = true → exec (.calLoadDone bad) s = .next
      (underCredit (.load Page.CAL) (fun t => (List.range n).foldl (loadRecord b bad) (modCal (fun c => { c with load := none }) t)) s))
  ∧ (∀ s bad b n t, s.cal.load = some (b, n) → blockAlive s Page.CAL = true → dramAwake s = true →
      creditTurn s (.load Page.CAL) = true →
      t = (List.range n).foldl (loadRecord b bad) (modCal (fun c => { c with load := none }) (takeCredit (.load Page.CAL) s)) →
    exec (.calLoadDone bad) s = .next (xactGrantNext (setXactHeld (CreditAsk.cls (.load Page.CAL))
      (xactHeld t (CreditAsk.cls (.load Page.CAL)) - 1) t)))
  ∧ (∀ s o h z m r u, o < 16 → blockRuns s Page.CAL = true → portUp s (oarAct o) = true → calUse s o = some (h, z) →
      m = memberOf o h → r = calRecordOf s o m z → u = calCompare m z r s →
    ((!calStale s m z && calStale u m z) = false → exec (.envelopeCheck o) s = .next (preLevels (oarAct o) h (calLevels u m z r) u))
      ∧ (∀ x, (!calStale s m z && calStale u m z) = true → x = verifyJob o u →
          exec (.envelopeCheck o) s = .next (preLevels (oarAct o) h (calLevels x m z r) x)))
  ∧ (∀ s a k n d w g n1 n2 p, a < 4 → k < 4 → blockAlive s (Page.OAR (4 * a + k)) = true → rudAlive s a = true → (rudSlot s a k).used = true →
      slotOn s a k = true → slotHead s a k = (rudSlot s a k).head → s.bit (Reg.OAR.FE_CTRL (4 * a + k)) 0 = true →
      p = max 0 (wedgePlace (grayDecode g) (burstFraction n1 n2)) →
    ∃ t, exec (.wedgeDemod a k ⟨n, d⟩ w g ⟨n1, n2⟩) s = .next t ∧ t.regs = s.regs
      ∧ rudSlot t a k = { rudSlot s a k with demod := some ⟨decide (n ≤ 2) && inWindow s (if rudState s a = 4 then 4 else 64) d, w,
          (p / 4096).toNat, (p % 4096).toNat⟩ })
  ∧ (∀ s a v i n, rudAlive s a = true → rudState s a = 5 ∨ rudState s a = 6 → (rud s a).latched = false → (rud s a).currentStart = none →
      2000 ≤ n →
      20 * (armVelocity s a v i).natAbs < 1000 * s.fld (Reg.RUDDER.LOAD_CFG a) 31 16 →
      s.fld (Reg.RUDDER.COIL_CFG a) 11 0 < 2 * i.natAbs →
    ((rud s a).reload = true → exec (.parkDetect a ⟨v, i⟩ n) s = .next (startLoad a (rud s a).loadHead true (driveCoil a 0 s)))
      ∧ ((rud s a).reload = false → exec (.parkDetect a ⟨v, i⟩ n) s = .next (parkedOff (parkNow a (rud s a).parkFault false s))))
  ∧ (∀ s a, rudAlive s a = true → rudState s a = 5 ∨ rudState s a = 6 → (rud s a).latched = false → (rud s a).currentStart = none →
      (rud s a).driveStart + 300000000 ≤ s.time →
    exec (.retractTimeout a) s = .next (driveCoil a (retractMa s a) (modRud a (fun r => { r with currentStart := some s.time, reload := false }) s)))
  ∧ (∀ s a u, rudAlive s a = true → (rud s a).currentStart = some u → u + 100000000 ≤ s.time →
    exec (.retractCurrentEnd a) s = .next (parkedOff (parkNow a true true s)))

/-- Crew's band commands: each acts on an enabled band and is refused with code 8 on another; BAND_ENABLE the other way round; and the
writes of MEMBER_FAIL. -/
def Obligations.BandCommands : Prop :=
  (∀ s req v b, Writes req Reg.CREWG.BAND_CMD s → b = fld v 11 0 →
    (fld v 19 16 = 1 →
        (band s b = none → exec (.bandEnable req v) s = .next (enableBand b (busOk 0#32 s)))
          ∧ (∀ x, band s b = some x → Runs (.bandEnable req v) s fun t => t.reg Reg.CREWG.BAND_CMD_RESULT = 130#32
              ∧ t.crew = s.crew ∧ SameRegs (fun k => k == Reg.CREWG.BAND_CMD_RESULT) s t))
      ∧ (fld v 19 16 = 2 →
        (∀ x, band s b = some x → Runs (.bandDisable req v) s fun t => band t b = some { x with closing := true }
            ∧ t.reg Reg.CREWG.BAND_CMD_RESULT = 3#32 ∧ SameRegs (fun k => k == Reg.CREWG.BAND_CMD_RESULT) s t)
          ∧ (band s b = none → exec (.bandDisable req v) s = .next (bandRefused 8 (busOk 0#32 s))))
      ∧ (fld v 19 16 = 3 →
        (∀ x, band s b = some x → switched s b = true → Runs (.bandStart req v) s fun t => band t b = some { x with started := true, paused := false }
            ∧ t.reg Reg.CREWG.BAND_CMD_RESULT = 1#32 ∧ SameRegs (fun k => k == Reg.CREWG.BAND_CMD_RESULT) s t)
          ∧ (∀ x, band s b = some x → switched s b = false → exec (.bandStart req v) s = .next (bandDone (assignSpares b
              (setBand b (some { x with started := true, paused := false }) (busOk 0#32 s)))))
          ∧ (band s b = none → exec (.bandStart req v) s = .next (bandRefused 8 (busOk 0#32 s))))
      ∧ (fld v 19 16 = 4 →
        (∀ x, band s b = some x → Runs (.bandPause req v) s fun t => band t b = some { x with paused := true }
            ∧ t.reg Reg.CREWG.BAND_CMD_RESULT = 1#32 ∧ SameRegs (fun k => k == Reg.CREWG.BAND_CMD_RESULT) s t)
          ∧ (band s b = none → exec (.bandPause req v) s = .next (bandRefused 8 (busOk 0#32 s))))
      ∧ (fld v 19 16 = 5 →
        (∀ x, band s b = some x → exec (.bandResync req v) s = .next (bandDone (startResync b (busOk 0#32 s))))
          ∧ (band s b = none → exec (.bandResync req v) s = .next (bandRefused 8 (busOk 0#32 s))))
      ∧ (fld v 19 16 = 6 →
        (∀ x r, band s b = some x → r = fetchDesc (targetOff s) (busOk 0#32 s) →
            (∀ c, reshapeFault r.2.2 r.2.1 x.words r.1 = some c → exec (.bandReshape req v) s = .next (bandRefused c r.2.2))
              ∧ (reshapeFault r.2.2 r.2.1 x.words r.1 = none → exec (.bandReshape req v) s = .next (bandDone
                  (modCrew (fun c => { c with target := some r.1, recopy := [] }) (r.2.2.critPut 13 (word (b + 2 ^ 16)))))))
          ∧ (band s b = none → exec (.bandReshape req v) s = .next (bandRefused 8 (busOk 0#32 s))))
      ∧ (fld v 19 16 = 7 →
        (∀ x, band s b = some x → switched s b = false → exec (.bandCommit req v) s = .next (bandRefused 8 (busOk 0#32 s)))
          ∧ (∀ x r, band s b = some x → switched s b = true → r = fetchDesc (bandEntryOff s b) (busOk 0#32 s) → r.2.1 = true →
              r.1.getD 31 0#32 = x.words.getD 31 0#32 → exec (.bandCommit req v) s = .next (assignSpares b (bandProgress 5 b (bandDone
                (modCrew (fun c => { c with target := none }) (r.2.2.critPut 13 0#32))))))
          ∧ (band s b = none → exec (.bandCommit req v) s = .next (bandRefused 8 (busOk 0#32 s))))
      ∧ (fld v 19 16 = 0 ∨ 8 ≤ fld v 19 16 → exec (.bandCmdUnlisted req v) s = .next (bandRefused 8 (busOk 0#32 s))))
  ∧ (∀ s b x, band s b = some x → x.closing = true → bandBusy s b = false → Runs (.bandDisableDone b) s fun t =>
      band t b = none ∧ t.reg Reg.CREWG.BAND_CMD_RESULT = 1#32 ∧ SameRegs (fun k => k == Reg.CREWG.BAND_CMD_RESULT) s t)
  ∧ (∀ s req addr v k, addrKey addr = some k → critWordOf k = some 4 → Writes req k s →
    exec (.memberFailWrite req addr v) s = .next ((List.range 24).foldl (fun t m =>
      if bit v m then failMember m t
      else if memberFailed t m && headPresent t (m / 6) (m % 6) && !t.bit (Reg.PRE.HEAD_FAIL (m / 6)) (m % 6) && actuatorUp t (m / 6)
      then t.critPut 4 (Sys2Proof.setBit (t.critVal 4) m false)
      else t) (busOk 0#32 s)))

/-- Crew's engines: stripe jobs go on and are taken, a job done is completed, and rebuild, resynchronisation, patrol and reshape go on
with their job or begin one; the band switches to its target once every stripe is copied and nothing is in flight. -/
def Obligations.CrewWork : Prop :=
  (∀ s x e ty u w, crewRuns s e = true → x = (if ty = 3 then ownRepair e s else s) → crewRuns x e = true → u = crewDrain x →
      w = (u.crew.jobs.filter fun j => j.engine == e && (j.kind == ty || (ty == 1 && j.port == 0xFF && j.kind != 8))).foldl
        (fun t j => stepJob j.id t) u →
    (ty = 1 → (crewTakes w e = true → exec (.stripeWrite e) s = .next (takeStripe 1 e w))
        ∧ (crewTakes w e = false → exec (.stripeWrite e) s = .next w))
      ∧ (ty = 2 → (crewTakes w e = true → exec (.stripeRead e) s = .next (takeStripe 2 e w))
        ∧ (crewTakes w e = false → exec (.stripeRead e) s = .next w))
      ∧ (ty = 3 → (crewTakes w e = true → exec (.stripeRepair e) s = .next (takeStripe 3 e w))
        ∧ (crewTakes w e = false → exec (.stripeRepair e) s = .next w)))
  ∧ (∀ s id j k u, findJob s id = some j → crewRuns s j.engine = true → u = crewDrain s → findJob u id = some k → jobOver k = true →
      k.kind ≤ 3 → exec (.stripeDone id) s = .next (completeJob k u))
  ∧ (∀ s e b slot j u, crewRuns s e = true → slot < 2 → u = crewDrain s →
      (u.crew.jobs.find? fun j => j.kind == 4 && j.band == b && spFirst j.words == slot) = some j →
      exec (.rebuildStep e b slot) s = .next (stepOwn j (fun k t => if mapStopped t k then t else advanceWm b slot t) u))
  ∧ (∀ s e b slot u d, crewRuns s e = true → slot < 2 → u = crewDrain s → d = bandWords u b →
      (u.crew.jobs.find? fun j => j.kind == 4 && j.band == b && spFirst j.words == slot) = none →
    (rebuildWanted u b slot = true → rebuildHere u b slot = true →
        ((u.crew.jobs.filter (·.kind == 4)).length < u.fld Reg.CREWG.REBUILD_CFG 12 8 →
            exec (.rebuildStep e b slot) s = .next (beginOwn 4 e b (bWm d slot) slot slot 1 id u))
          ∧ (u.fld Reg.CREWG.REBUILD_CFG 12 8 ≤ (u.crew.jobs.filter (·.kind == 4)).length → exec (.rebuildStep e b slot) s = .next u))
      ∧ (rebuildWanted u b slot = true → rebuildHere u b slot = false → exec (.rebuildStep e b slot) s = .next (advanceWm b slot u))
      ∧ (rebuildWanted u b slot = false → exec (.rebuildStep e b slot) s = .next u))
  ∧ (∀ s e b u, crewRuns s e = true → u = crewDrain s →
    (∀ j, ownJob u 5 b = some j → exec (.resyncStep e b) s = .next (stepOwn j (fun k t =>
        if mapStopped t k || decide (bResyncWm (bandWords t b) ≠ k.stripe) then t else advanceResync b t) u))
      ∧ (ownJob u 5 b = none → mayBackground u b = true → bResync (bandWords u b) = true → switchReady u b = false →
          (bResyncWm (bandWords u b) < bStripes (bandWords u b) → exec (.resyncStep e b) s = .next
              (beginOwn 5 e b (bResyncWm (bandWords u b)) 0 0 1 id u))
            ∧ (bStripes (bandWords u b) ≤ bResyncWm (bandWords u b) → exec (.resyncStep e b) s = .next (resyncOver b u)))
      ∧ (ownJob u 5 b = none → bResync (bandWords u b) = false ∨ switchReady u b = true → exec (.resyncStep e b) s = .next u))
  ∧ (∀ s e u, crewRuns s e = true → u = crewDrain s →
    (∀ j, u.crew.jobs.find? (·.kind == 6) = some j → exec (.patrolStep e) s = .next (stepOwn j (fun k t =>
        (t.setReg Reg.CREWG.PATROL_POS (word k.band)).setReg Reg.CREWG.PATROL_STRIPE (word (k.stripe + 1))) u))
      ∧ (u.crew.jobs.find? (·.kind == 6) = none → mode u ≠ 1 → exec (.patrolStep e) s = .next u)
      ∧ (∀ b st lap, u.crew.jobs.find? (·.kind == 6) = none → mode u = 1 → levelHolds u = false → u.bit Reg.CREWG.PATROL_CFG 0 = true →
          patrolIdle u = true → patrolNext u (u.crew.lost.length + 2 * u.crew.bands.length + 3) false (u.fld Reg.CREWG.PATROL_POS 11 0)
            (u.fld Reg.CREWG.PATROL_STRIPE 23 0) = some (b, st, lap) → exec (.patrolStep e) s = .next
          (beginOwn 6 e b st 0 0 1 id (((if lap then patrolLap b u else u).setReg Reg.CREWG.PATROL_POS (word b)).setReg Reg.CREWG.PATROL_STRIPE (word st)))))
  ∧ (∀ s e u tgt wm, crewRuns s e = true → u = crewDrain s → u.crew.jobs.find? (·.kind == 7) = none → u.crew.target = some tgt →
      mayBackground u (u.critFld 13 11 0) = true → reshaping u (u.critFld 13 11 0) = true → wm = u.fld Reg.CREWG.RESHAPE_WM 23 0 →
    (∀ x rest, u.crew.recopy = x :: rest → exec (.reshapeStep e) s = .next
        (beginOwn 7 e (u.critFld 13 11 0) x 0 0 (256 * bData tgt) (modCrew (fun c => { c with recopy := rest })) u))
      ∧ (u.crew.recopy = [] → wm < bStripes tgt →
          exec (.reshapeStep e) s = .next (beginOwn 7 e (u.critFld 13 11 0) wm 0 0 (256 * bData tgt) id u))
      ∧ (u.crew.recopy = [] → bStripes tgt ≤ wm → exec (.reshapeStep e) s = .next u))
  ∧ (∀ s b x tgt u v, b = s.critFld 13 11 0 → crewRuns s 0 = true → band s b = some x → s.crew.target = some tgt → switchReady s b = true →
      bandInFlight s b = false → u = setBand b (some { x with words := tgt }) (s.setCritFld 13 17 17 1) →
      v = modCrew (fun c => { c with lostFull := c.lostFull && decide (lostMax u ≤ (u.crew.lost.filter (·.1 != b)).length) })
        (setLost (u.crew.lost.filter (·.1 != b)) u) →
    exec .reshapeSwitch s = .next (hostDrain (bandProgress 3 b (setStale (v.crew.stale.filter (·.1 != b)) v))))
end

