-- ==== Sys2Proof/Laws/State.lean ====
section
/-! SUPPORT. What each update of the state leaves alone: one lemma per update, which names every other field. -/

namespace Sys2Proof.Machine

@[simp] theorem modClocks_frame (f : Clocks → Clocks) (s : State) :
    (modClocks f s).part4820 = s.part4820 ∧ (modClocks f s).time = s.time ∧ (modClocks f s).regs = s.regs ∧
    (modClocks f s).rwlShadow = s.rwlShadow ∧ (modClocks f s).bus = s.bus ∧ (modClocks f s).strokes = s.strokes ∧
    (modClocks f s).seen = s.seen ∧ (modClocks f s).fabric = s.fabric ∧ (modClocks f s).targets = s.targets ∧
    (modClocks f s).leaks = s.leaks ∧ (modClocks f s).crit = s.crit ∧ (modClocks f s).queues = s.queues ∧
    (modClocks f s).ended = s.ended ∧ (modClocks f s).stopped = s.stopped ∧ (modClocks f s).keel = s.keel ∧
    (modClocks f s).rigger = s.rigger ∧ (modClocks f s).free = s.free ∧ (modClocks f s).safePending = s.safePending ∧
    (modClocks f s).pres = s.pres ∧ (modClocks f s).hda = s.hda ∧ (modClocks f s).cal = s.cal ∧ (modClocks f s).rudders = s.rudders ∧
    (modClocks f s).couple = s.couple ∧ (modClocks f s).tunes = s.tunes ∧ (modClocks f s).oars = s.oars ∧
    (modClocks f s).sweep = s.sweep ∧ (modClocks f s).gates = s.gates ∧ (modClocks f s).ucode = s.ucode ∧
    (modClocks f s).returned = s.returned ∧ (modClocks f s).consumed = s.consumed ∧ (modClocks f s).mem = s.mem ∧
    (modClocks f s).checks = s.checks ∧ (modClocks f s).drams = s.drams ∧ (modClocks f s).boat = s.boat ∧
    (modClocks f s).cache = s.cache ∧ (modClocks f s).scrub = s.scrub ∧ (modClocks f s).crew = s.crew ∧ (modClocks f s).slip = s.slip ∧
    (modClocks f s).power = s.power ∧ (modClocks f s).safe = s.safe ∧ (modClocks f s).otp = s.otp ∧ (modClocks f s).keys = s.keys ∧
    (modClocks f s).cryptos = s.cryptos ∧ (modClocks f s).chip = s.chip ∧ (modClocks f s).ump = s.ump ∧ (modClocks f s).dbg = s.dbg ∧
    (modClocks f s).smbus = s.smbus ∧ (modClocks f s).pending = s.pending := by
  simp only [and_self, modClocks]

@[simp] theorem modStroke_frame (n : Nat) (f : Stroke → Stroke) (s : State) :
    (modStroke n f s).part4820 = s.part4820 ∧ (modStroke n f s).time = s.time ∧ (modStroke n f s).regs = s.regs ∧
    (modStroke n f s).rwlShadow = s.rwlShadow ∧ (modStroke n f s).bus = s.bus ∧ (modStroke n f s).clocks = s.clocks ∧
    (modStroke n f s).seen = s.seen ∧ (modStroke n f s).fabric = s.fabric ∧ (modStroke n f s).targets = s.targets ∧
    (modStroke n f s).leaks = s.leaks ∧ (modStroke n f s).crit = s.crit ∧ (modStroke n f s).queues = s.queues ∧
    (modStroke n f s).ended = s.ended ∧ (modStroke n f s).stopped = s.stopped ∧ (modStroke n f s).keel = s.keel ∧
    (modStroke n f s).rigger = s.rigger ∧ (modStroke n f s).free = s.free ∧ (modStroke n f s).safePending = s.safePending ∧
    (modStroke n f s).pres = s.pres ∧ (modStroke n f s).hda = s.hda ∧ (modStroke n f s).cal = s.cal ∧
    (modStroke n f s).rudders = s.rudders ∧ (modStroke n f s).couple = s.couple ∧ (modStroke n f s).tunes = s.tunes ∧
    (modStroke n f s).oars = s.oars ∧ (modStroke n f s).sweep = s.sweep ∧ (modStroke n f s).gates = s.gates ∧
    (modStroke n f s).ucode = s.ucode ∧ (modStroke n f s).returned = s.returned ∧ (modStroke n f s).consumed = s.consumed ∧
    (modStroke n f s).mem = s.mem ∧ (modStroke n f s).checks = s.checks ∧ (modStroke n f s).drams = s.drams ∧
    (modStroke n f s).boat = s.boat ∧ (modStroke n f s).cache = s.cache ∧ (modStroke n f s).scrub = s.scrub ∧
    (modStroke n f s).crew = s.crew ∧ (modStroke n f s).slip = s.slip ∧ (modStroke n f s).power = s.power ∧
    (modStroke n f s).safe = s.safe ∧ (modStroke n f s).otp = s.otp ∧ (modStroke n f s).keys = s.keys ∧
    (modStroke n f s).cryptos = s.cryptos ∧ (modStroke n f s).chip = s.chip ∧ (modStroke n f s).ump = s.ump ∧
    (modStroke n f s).dbg = s.dbg ∧ (modStroke n f s).smbus = s.smbus ∧ (modStroke n f s).pending = s.pending := by
  simp only [and_self, modStroke]

@[simp] theorem modDram_frame (n : Nat) (f : DramPort → DramPort) (s : State) :
    (modDram n f s).part4820 = s.part4820 ∧ (modDram n f s).time = s.time ∧ (modDram n f s).regs = s.regs ∧
    (modDram n f s).rwlShadow = s.rwlShadow ∧ (modDram n f s).bus = s.bus ∧ (modDram n f s).clocks = s.clocks ∧
    (modDram n f s).strokes = s.strokes ∧ (modDram n f s).seen = s.seen ∧ (modDram n f s).fabric = s.fabric ∧
    (modDram n f s).targets = s.targets ∧ (modDram n f s).leaks = s.leaks ∧ (modDram n f s).crit = s.crit ∧
    (modDram n f s).queues = s.queues ∧ (modDram n f s).ended = s.ended ∧ (modDram n f s).stopped = s.stopped ∧
    (modDram n f s).keel = s.keel ∧ (modDram n f s).rigger = s.rigger ∧ (modDram n f s).free = s.free ∧
    (modDram n f s).safePending = s.safePending ∧ (modDram n f s).pres = s.pres ∧ (modDram n f s).hda = s.hda ∧
    (modDram n f s).cal = s.cal ∧ (modDram n f s).rudders = s.rudders ∧ (modDram n f s).couple = s.couple ∧
    (modDram n f s).tunes = s.tunes ∧ (modDram n f s).oars = s.oars ∧ (modDram n f s).sweep = s.sweep ∧ (modDram n f s).gates = s.gates ∧
    (modDram n f s).ucode = s.ucode ∧ (modDram n f s).returned = s.returned ∧ (modDram n f s).consumed = s.consumed ∧
    (modDram n f s).mem = s.mem ∧ (modDram n f s).checks = s.checks ∧ (modDram n f s).boat = s.boat ∧ (modDram n f s).cache = s.cache ∧
    (modDram n f s).scrub = s.scrub ∧ (modDram n f s).crew = s.crew ∧ (modDram n f s).slip = s.slip ∧ (modDram n f s).power = s.power ∧
    (modDram n f s).safe = s.safe ∧ (modDram n f s).otp = s.otp ∧ (modDram n f s).keys = s.keys ∧ (modDram n f s).cryptos = s.cryptos ∧
    (modDram n f s).chip = s.chip ∧ (modDram n f s).ump = s.ump ∧ (modDram n f s).dbg = s.dbg ∧ (modDram n f s).smbus = s.smbus ∧
    (modDram n f s).pending = s.pending := by
  simp only [and_self, modDram]

@[simp] theorem modBoat_frame (f : Boat → Boat) (s : State) :
    (modBoat f s).part4820 = s.part4820 ∧ (modBoat f s).time = s.time ∧ (modBoat f s).regs = s.regs ∧
    (modBoat f s).rwlShadow = s.rwlShadow ∧ (modBoat f s).bus = s.bus ∧ (modBoat f s).clocks = s.clocks ∧
    (modBoat f s).strokes = s.strokes ∧ (modBoat f s).seen = s.seen ∧ (modBoat f s).fabric = s.fabric ∧
    (modBoat f s).targets = s.targets ∧ (modBoat f s).leaks = s.leaks ∧ (modBoat f s).crit = s.crit ∧ (modBoat f s).queues = s.queues ∧
    (modBoat f s).ended = s.ended ∧ (modBoat f s).stopped = s.stopped ∧ (modBoat f s).keel = s.keel ∧ (modBoat f s).rigger = s.rigger ∧
    (modBoat f s).free = s.free ∧ (modBoat f s).safePending = s.safePending ∧ (modBoat f s).pres = s.pres ∧ (modBoat f s).hda = s.hda ∧
    (modBoat f s).cal = s.cal ∧ (modBoat f s).rudders = s.rudders ∧ (modBoat f s).couple = s.couple ∧ (modBoat f s).tunes = s.tunes ∧
    (modBoat f s).oars = s.oars ∧ (modBoat f s).sweep = s.sweep ∧ (modBoat f s).gates = s.gates ∧ (modBoat f s).ucode = s.ucode ∧
    (modBoat f s).returned = s.returned ∧ (modBoat f s).consumed = s.consumed ∧ (modBoat f s).mem = s.mem ∧
    (modBoat f s).checks = s.checks ∧ (modBoat f s).drams = s.drams ∧ (modBoat f s).cache = s.cache ∧ (modBoat f s).scrub = s.scrub ∧
    (modBoat f s).crew = s.crew ∧ (modBoat f s).slip = s.slip ∧ (modBoat f s).power = s.power ∧ (modBoat f s).safe = s.safe ∧
    (modBoat f s).otp = s.otp ∧ (modBoat f s).keys = s.keys ∧ (modBoat f s).cryptos = s.cryptos ∧ (modBoat f s).chip = s.chip ∧
    (modBoat f s).ump = s.ump ∧ (modBoat f s).dbg = s.dbg ∧ (modBoat f s).smbus = s.smbus ∧ (modBoat f s).pending = s.pending := by
  simp only [and_self, modBoat]

@[simp] theorem modKeys_frame (f : Keys → Keys) (s : State) :
    (modKeys f s).part4820 = s.part4820 ∧ (modKeys f s).time = s.time ∧ (modKeys f s).regs = s.regs ∧
    (modKeys f s).rwlShadow = s.rwlShadow ∧ (modKeys f s).bus = s.bus ∧ (modKeys f s).clocks = s.clocks ∧
    (modKeys f s).strokes = s.strokes ∧ (modKeys f s).seen = s.seen ∧ (modKeys f s).fabric = s.fabric ∧
    (modKeys f s).targets = s.targets ∧ (modKeys f s).leaks = s.leaks ∧ (modKeys f s).crit = s.crit ∧ (modKeys f s).queues = s.queues ∧
    (modKeys f s).ended = s.ended ∧ (modKeys f s).stopped = s.stopped ∧ (modKeys f s).keel = s.keel ∧ (modKeys f s).rigger = s.rigger ∧
    (modKeys f s).free = s.free ∧ (modKeys f s).safePending = s.safePending ∧ (modKeys f s).pres = s.pres ∧ (modKeys f s).hda = s.hda ∧
    (modKeys f s).cal = s.cal ∧ (modKeys f s).rudders = s.rudders ∧ (modKeys f s).couple = s.couple ∧ (modKeys f s).tunes = s.tunes ∧
    (modKeys f s).oars = s.oars ∧ (modKeys f s).sweep = s.sweep ∧ (modKeys f s).gates = s.gates ∧ (modKeys f s).ucode = s.ucode ∧
    (modKeys f s).returned = s.returned ∧ (modKeys f s).consumed = s.consumed ∧ (modKeys f s).mem = s.mem ∧
    (modKeys f s).checks = s.checks ∧ (modKeys f s).drams = s.drams ∧ (modKeys f s).boat = s.boat ∧ (modKeys f s).cache = s.cache ∧
    (modKeys f s).scrub = s.scrub ∧ (modKeys f s).crew = s.crew ∧ (modKeys f s).slip = s.slip ∧ (modKeys f s).power = s.power ∧
    (modKeys f s).safe = s.safe ∧ (modKeys f s).otp = s.otp ∧ (modKeys f s).cryptos = s.cryptos ∧ (modKeys f s).chip = s.chip ∧
    (modKeys f s).ump = s.ump ∧ (modKeys f s).dbg = s.dbg ∧ (modKeys f s).smbus = s.smbus ∧ (modKeys f s).pending = s.pending := by
  simp only [and_self, modKeys]

@[simp] theorem modCache_frame (f : Cache → Cache) (s : State) :
    (modCache f s).part4820 = s.part4820 ∧ (modCache f s).time = s.time ∧ (modCache f s).regs = s.regs ∧
    (modCache f s).rwlShadow = s.rwlShadow ∧ (modCache f s).bus = s.bus ∧ (modCache f s).clocks = s.clocks ∧
    (modCache f s).strokes = s.strokes ∧ (modCache f s).seen = s.seen ∧ (modCache f s).fabric = s.fabric ∧
    (modCache f s).targets = s.targets ∧ (modCache f s).leaks = s.leaks ∧ (modCache f s).crit = s.crit ∧
    (modCache f s).queues = s.queues ∧ (modCache f s).ended = s.ended ∧ (modCache f s).stopped = s.stopped ∧
    (modCache f s).keel = s.keel ∧ (modCache f s).rigger = s.rigger ∧ (modCache f s).free = s.free ∧
    (modCache f s).safePending = s.safePending ∧ (modCache f s).pres = s.pres ∧ (modCache f s).hda = s.hda ∧ (modCache f s).cal = s.cal ∧
    (modCache f s).rudders = s.rudders ∧ (modCache f s).couple = s.couple ∧ (modCache f s).tunes = s.tunes ∧
    (modCache f s).oars = s.oars ∧ (modCache f s).sweep = s.sweep ∧ (modCache f s).gates = s.gates ∧ (modCache f s).ucode = s.ucode ∧
    (modCache f s).returned = s.returned ∧ (modCache f s).consumed = s.consumed ∧ (modCache f s).mem = s.mem ∧
    (modCache f s).checks = s.checks ∧ (modCache f s).drams = s.drams ∧ (modCache f s).boat = s.boat ∧ (modCache f s).scrub = s.scrub ∧
    (modCache f s).crew = s.crew ∧ (modCache f s).slip = s.slip ∧ (modCache f s).power = s.power ∧ (modCache f s).safe = s.safe ∧
    (modCache f s).otp = s.otp ∧ (modCache f s).keys = s.keys ∧ (modCache f s).cryptos = s.cryptos ∧ (modCache f s).chip = s.chip ∧
    (modCache f s).ump = s.ump ∧ (modCache f s).dbg = s.dbg ∧ (modCache f s).smbus = s.smbus ∧ (modCache f s).pending = s.pending := by
  simp only [and_self, modCache]

@[simp] theorem modCal_frame (f : Cal → Cal) (s : State) :
    (modCal f s).part4820 = s.part4820 ∧ (modCal f s).time = s.time ∧ (modCal f s).regs = s.regs ∧ (modCal f s).rwlShadow = s.rwlShadow ∧
    (modCal f s).bus = s.bus ∧ (modCal f s).clocks = s.clocks ∧ (modCal f s).strokes = s.strokes ∧ (modCal f s).seen = s.seen ∧
    (modCal f s).fabric = s.fabric ∧ (modCal f s).targets = s.targets ∧ (modCal f s).leaks = s.leaks ∧ (modCal f s).crit = s.crit ∧
    (modCal f s).queues = s.queues ∧ (modCal f s).ended = s.ended ∧ (modCal f s).stopped = s.stopped ∧ (modCal f s).keel = s.keel ∧
    (modCal f s).rigger = s.rigger ∧ (modCal f s).free = s.free ∧ (modCal f s).safePending = s.safePending ∧ (modCal f s).pres = s.pres ∧
    (modCal f s).hda = s.hda ∧ (modCal f s).rudders = s.rudders ∧ (modCal f s).couple = s.couple ∧ (modCal f s).tunes = s.tunes ∧
    (modCal f s).oars = s.oars ∧ (modCal f s).sweep = s.sweep ∧ (modCal f s).gates = s.gates ∧ (modCal f s).ucode = s.ucode ∧
    (modCal f s).returned = s.returned ∧ (modCal f s).consumed = s.consumed ∧ (modCal f s).mem = s.mem ∧ (modCal f s).checks = s.checks ∧
    (modCal f s).drams = s.drams ∧ (modCal f s).boat = s.boat ∧ (modCal f s).cache = s.cache ∧ (modCal f s).scrub = s.scrub ∧
    (modCal f s).crew = s.crew ∧ (modCal f s).slip = s.slip ∧ (modCal f s).power = s.power ∧ (modCal f s).safe = s.safe ∧
    (modCal f s).otp = s.otp ∧ (modCal f s).keys = s.keys ∧ (modCal f s).cryptos = s.cryptos ∧ (modCal f s).chip = s.chip ∧
    (modCal f s).ump = s.ump ∧ (modCal f s).dbg = s.dbg ∧ (modCal f s).smbus = s.smbus ∧ (modCal f s).pending = s.pending := by
  simp only [and_self, modCal]

@[simp] theorem modCrew_frame (f : Crew → Crew) (s : State) :
    (modCrew f s).part4820 = s.part4820 ∧ (modCrew f s).time = s.time ∧ (modCrew f s).regs = s.regs ∧
    (modCrew f s).rwlShadow = s.rwlShadow ∧ (modCrew f s).bus = s.bus ∧ (modCrew f s).clocks = s.clocks ∧
    (modCrew f s).strokes = s.strokes ∧ (modCrew f s).seen = s.seen ∧ (modCrew f s).fabric = s.fabric ∧
    (modCrew f s).targets = s.targets ∧ (modCrew f s).leaks = s.leaks ∧ (modCrew f s).crit = s.crit ∧ (modCrew f s).queues = s.queues ∧
    (modCrew f s).ended = s.ended ∧ (modCrew f s).stopped = s.stopped ∧ (modCrew f s).keel = s.keel ∧ (modCrew f s).rigger = s.rigger ∧
    (modCrew f s).free = s.free ∧ (modCrew f s).safePending = s.safePending ∧ (modCrew f s).pres = s.pres ∧ (modCrew f s).hda = s.hda ∧
    (modCrew f s).cal = s.cal ∧ (modCrew f s).rudders = s.rudders ∧ (modCrew f s).couple = s.couple ∧ (modCrew f s).tunes = s.tunes ∧
    (modCrew f s).oars = s.oars ∧ (modCrew f s).sweep = s.sweep ∧ (modCrew f s).gates = s.gates ∧ (modCrew f s).ucode = s.ucode ∧
    (modCrew f s).returned = s.returned ∧ (modCrew f s).consumed = s.consumed ∧ (modCrew f s).mem = s.mem ∧
    (modCrew f s).checks = s.checks ∧ (modCrew f s).drams = s.drams ∧ (modCrew f s).boat = s.boat ∧ (modCrew f s).cache = s.cache ∧
    (modCrew f s).scrub = s.scrub ∧ (modCrew f s).slip = s.slip ∧ (modCrew f s).power = s.power ∧ (modCrew f s).safe = s.safe ∧
    (modCrew f s).otp = s.otp ∧ (modCrew f s).keys = s.keys ∧ (modCrew f s).cryptos = s.cryptos ∧ (modCrew f s).chip = s.chip ∧
    (modCrew f s).ump = s.ump ∧ (modCrew f s).dbg = s.dbg ∧ (modCrew f s).smbus = s.smbus ∧ (modCrew f s).pending = s.pending := by
  simp only [and_self, modCrew]

@[simp] theorem modCrit_frame (f : CritStore → CritStore) (s : State) :
    (modCrit f s).part4820 = s.part4820 ∧ (modCrit f s).time = s.time ∧ (modCrit f s).regs = s.regs ∧
    (modCrit f s).rwlShadow = s.rwlShadow ∧ (modCrit f s).bus = s.bus ∧ (modCrit f s).clocks = s.clocks ∧
    (modCrit f s).strokes = s.strokes ∧ (modCrit f s).seen = s.seen ∧ (modCrit f s).fabric = s.fabric ∧
    (modCrit f s).targets = s.targets ∧ (modCrit f s).leaks = s.leaks ∧ (modCrit f s).queues = s.queues ∧ (modCrit f s).ended = s.ended ∧
    (modCrit f s).stopped = s.stopped ∧ (modCrit f s).keel = s.keel ∧ (modCrit f s).rigger = s.rigger ∧ (modCrit f s).free = s.free ∧
    (modCrit f s).safePending = s.safePending ∧ (modCrit f s).pres = s.pres ∧ (modCrit f s).hda = s.hda ∧ (modCrit f s).cal = s.cal ∧
    (modCrit f s).rudders = s.rudders ∧ (modCrit f s).couple = s.couple ∧ (modCrit f s).tunes = s.tunes ∧ (modCrit f s).oars = s.oars ∧
    (modCrit f s).sweep = s.sweep ∧ (modCrit f s).gates = s.gates ∧ (modCrit f s).ucode = s.ucode ∧ (modCrit f s).returned = s.returned ∧
    (modCrit f s).consumed = s.consumed ∧ (modCrit f s).mem = s.mem ∧ (modCrit f s).checks = s.checks ∧ (modCrit f s).drams = s.drams ∧
    (modCrit f s).boat = s.boat ∧ (modCrit f s).cache = s.cache ∧ (modCrit f s).scrub = s.scrub ∧ (modCrit f s).crew = s.crew ∧
    (modCrit f s).slip = s.slip ∧ (modCrit f s).power = s.power ∧ (modCrit f s).safe = s.safe ∧ (modCrit f s).otp = s.otp ∧
    (modCrit f s).keys = s.keys ∧ (modCrit f s).cryptos = s.cryptos ∧ (modCrit f s).chip = s.chip ∧ (modCrit f s).ump = s.ump ∧
    (modCrit f s).dbg = s.dbg ∧ (modCrit f s).smbus = s.smbus ∧ (modCrit f s).pending = s.pending := by
  simp only [and_self, modCrit]

@[simp] theorem modDbg_frame (f : Debug → Debug) (s : State) :
    (modDbg f s).part4820 = s.part4820 ∧ (modDbg f s).time = s.time ∧ (modDbg f s).regs = s.regs ∧ (modDbg f s).rwlShadow = s.rwlShadow ∧
    (modDbg f s).bus = s.bus ∧ (modDbg f s).clocks = s.clocks ∧ (modDbg f s).strokes = s.strokes ∧ (modDbg f s).seen = s.seen ∧
    (modDbg f s).fabric = s.fabric ∧ (modDbg f s).targets = s.targets ∧ (modDbg f s).leaks = s.leaks ∧ (modDbg f s).crit = s.crit ∧
    (modDbg f s).queues = s.queues ∧ (modDbg f s).ended = s.ended ∧ (modDbg f s).stopped = s.stopped ∧ (modDbg f s).keel = s.keel ∧
    (modDbg f s).rigger = s.rigger ∧ (modDbg f s).free = s.free ∧ (modDbg f s).safePending = s.safePending ∧ (modDbg f s).pres = s.pres ∧
    (modDbg f s).hda = s.hda ∧ (modDbg f s).cal = s.cal ∧ (modDbg f s).rudders = s.rudders ∧ (modDbg f s).couple = s.couple ∧
    (modDbg f s).tunes = s.tunes ∧ (modDbg f s).oars = s.oars ∧ (modDbg f s).sweep = s.sweep ∧ (modDbg f s).gates = s.gates ∧
    (modDbg f s).ucode = s.ucode ∧ (modDbg f s).returned = s.returned ∧ (modDbg f s).consumed = s.consumed ∧ (modDbg f s).mem = s.mem ∧
    (modDbg f s).checks = s.checks ∧ (modDbg f s).drams = s.drams ∧ (modDbg f s).boat = s.boat ∧ (modDbg f s).cache = s.cache ∧
    (modDbg f s).scrub = s.scrub ∧ (modDbg f s).crew = s.crew ∧ (modDbg f s).slip = s.slip ∧ (modDbg f s).power = s.power ∧
    (modDbg f s).safe = s.safe ∧ (modDbg f s).otp = s.otp ∧ (modDbg f s).keys = s.keys ∧ (modDbg f s).cryptos = s.cryptos ∧
    (modDbg f s).chip = s.chip ∧ (modDbg f s).ump = s.ump ∧ (modDbg f s).smbus = s.smbus ∧ (modDbg f s).pending = s.pending := by
  simp only [and_self, modDbg]

@[simp] theorem modSafe_frame (f : SafeStore → SafeStore) (s : State) :
    (modSafe f s).part4820 = s.part4820 ∧ (modSafe f s).time = s.time ∧ (modSafe f s).regs = s.regs ∧
    (modSafe f s).rwlShadow = s.rwlShadow ∧ (modSafe f s).bus = s.bus ∧ (modSafe f s).clocks = s.clocks ∧
    (modSafe f s).strokes = s.strokes ∧ (modSafe f s).seen = s.seen ∧ (modSafe f s).fabric = s.fabric ∧
    (modSafe f s).targets = s.targets ∧ (modSafe f s).leaks = s.leaks ∧ (modSafe f s).crit = s.crit ∧ (modSafe f s).queues = s.queues ∧
    (modSafe f s).ended = s.ended ∧ (modSafe f s).stopped = s.stopped ∧ (modSafe f s).keel = s.keel ∧ (modSafe f s).rigger = s.rigger ∧
    (modSafe f s).free = s.free ∧ (modSafe f s).safePending = s.safePending ∧ (modSafe f s).pres = s.pres ∧ (modSafe f s).hda = s.hda ∧
    (modSafe f s).cal = s.cal ∧ (modSafe f s).rudders = s.rudders ∧ (modSafe f s).couple = s.couple ∧ (modSafe f s).tunes = s.tunes ∧
    (modSafe f s).oars = s.oars ∧ (modSafe f s).sweep = s.sweep ∧ (modSafe f s).gates = s.gates ∧ (modSafe f s).ucode = s.ucode ∧
    (modSafe f s).returned = s.returned ∧ (modSafe f s).consumed = s.consumed ∧ (modSafe f s).mem = s.mem ∧
    (modSafe f s).checks = s.checks ∧ (modSafe f s).drams = s.drams ∧ (modSafe f s).boat = s.boat ∧ (modSafe f s).cache = s.cache ∧
    (modSafe f s).scrub = s.scrub ∧ (modSafe f s).crew = s.crew ∧ (modSafe f s).slip = s.slip ∧ (modSafe f s).power = s.power ∧
    (modSafe f s).otp = s.otp ∧ (modSafe f s).keys = s.keys ∧ (modSafe f s).cryptos = s.cryptos ∧ (modSafe f s).chip = s.chip ∧
    (modSafe f s).ump = s.ump ∧ (modSafe f s).dbg = s.dbg ∧ (modSafe f s).smbus = s.smbus ∧ (modSafe f s).pending = s.pending := by
  simp only [and_self, modSafe]

@[simp] theorem setTarget_frame (t : Nat) (x : Target) (s : State) :
    (setTarget t x s).part4820 = s.part4820 ∧ (setTarget t x s).time = s.time ∧ (setTarget t x s).regs = s.regs ∧
    (setTarget t x s).rwlShadow = s.rwlShadow ∧ (setTarget t x s).bus = s.bus ∧ (setTarget t x s).clocks = s.clocks ∧
    (setTarget t x s).strokes = s.strokes ∧ (setTarget t x s).seen = s.seen ∧ (setTarget t x s).fabric = s.fabric ∧
    (setTarget t x s).leaks = s.leaks ∧ (setTarget t x s).crit = s.crit ∧ (setTarget t x s).queues = s.queues ∧
    (setTarget t x s).ended = s.ended ∧ (setTarget t x s).stopped = s.stopped ∧ (setTarget t x s).keel = s.keel ∧
    (setTarget t x s).rigger = s.rigger ∧ (setTarget t x s).free = s.free ∧ (setTarget t x s).safePending = s.safePending ∧
    (setTarget t x s).pres = s.pres ∧ (setTarget t x s).hda = s.hda ∧ (setTarget t x s).cal = s.cal ∧
    (setTarget t x s).rudders = s.rudders ∧ (setTarget t x s).couple = s.couple ∧ (setTarget t x s).tunes = s.tunes ∧
    (setTarget t x s).oars = s.oars ∧ (setTarget t x s).sweep = s.sweep ∧ (setTarget t x s).gates = s.gates ∧
    (setTarget t x s).ucode = s.ucode ∧ (setTarget t x s).returned = s.returned ∧ (setTarget t x s).consumed = s.consumed ∧
    (setTarget t x s).mem = s.mem ∧ (setTarget t x s).checks = s.checks ∧ (setTarget t x s).drams = s.drams ∧
    (setTarget t x s).boat = s.boat ∧ (setTarget t x s).cache = s.cache ∧ (setTarget t x s).scrub = s.scrub ∧
    (setTarget t x s).crew = s.crew ∧ (setTarget t x s).slip = s.slip ∧ (setTarget t x s).power = s.power ∧
    (setTarget t x s).safe = s.safe ∧ (setTarget t x s).otp = s.otp ∧ (setTarget t x s).keys = s.keys ∧
    (setTarget t x s).cryptos = s.cryptos ∧ (setTarget t x s).chip = s.chip ∧ (setTarget t x s).ump = s.ump ∧
    (setTarget t x s).dbg = s.dbg ∧ (setTarget t x s).smbus = s.smbus ∧ (setTarget t x s).pending = s.pending := by
  simp only [and_self, setTarget]

@[simp] theorem sendBack_frame (owner : Nat) (ws : List Word) (s : State) :
    (sendBack owner ws s).part4820 = s.part4820 ∧ (sendBack owner ws s).time = s.time ∧ (sendBack owner ws s).regs = s.regs ∧
    (sendBack owner ws s).rwlShadow = s.rwlShadow ∧ (sendBack owner ws s).bus = s.bus ∧ (sendBack owner ws s).clocks = s.clocks ∧
    (sendBack owner ws s).strokes = s.strokes ∧ (sendBack owner ws s).seen = s.seen ∧ (sendBack owner ws s).fabric = s.fabric ∧
    (sendBack owner ws s).targets = s.targets ∧ (sendBack owner ws s).leaks = s.leaks ∧ (sendBack owner ws s).crit = s.crit ∧
    (sendBack owner ws s).queues = s.queues ∧ (sendBack owner ws s).ended = s.ended ∧ (sendBack owner ws s).stopped = s.stopped ∧
    (sendBack owner ws s).keel = s.keel ∧ (sendBack owner ws s).rigger = s.rigger ∧ (sendBack owner ws s).free = s.free ∧
    (sendBack owner ws s).safePending = s.safePending ∧ (sendBack owner ws s).pres = s.pres ∧ (sendBack owner ws s).hda = s.hda ∧
    (sendBack owner ws s).cal = s.cal ∧ (sendBack owner ws s).rudders = s.rudders ∧ (sendBack owner ws s).couple = s.couple ∧
    (sendBack owner ws s).tunes = s.tunes ∧ (sendBack owner ws s).oars = s.oars ∧ (sendBack owner ws s).sweep = s.sweep ∧
    (sendBack owner ws s).gates = s.gates ∧ (sendBack owner ws s).ucode = s.ucode ∧ (sendBack owner ws s).consumed = s.consumed ∧
    (sendBack owner ws s).mem = s.mem ∧ (sendBack owner ws s).checks = s.checks ∧ (sendBack owner ws s).drams = s.drams ∧
    (sendBack owner ws s).boat = s.boat ∧ (sendBack owner ws s).cache = s.cache ∧ (sendBack owner ws s).scrub = s.scrub ∧
    (sendBack owner ws s).crew = s.crew ∧ (sendBack owner ws s).slip = s.slip ∧ (sendBack owner ws s).power = s.power ∧
    (sendBack owner ws s).safe = s.safe ∧ (sendBack owner ws s).otp = s.otp ∧ (sendBack owner ws s).keys = s.keys ∧
    (sendBack owner ws s).cryptos = s.cryptos ∧ (sendBack owner ws s).chip = s.chip ∧ (sendBack owner ws s).ump = s.ump ∧
    (sendBack owner ws s).dbg = s.dbg ∧ (sendBack owner ws s).smbus = s.smbus ∧ (sendBack owner ws s).pending = s.pending := by
  simp only [and_self, sendBack]

@[simp] theorem modKeel_frame (f : Keel → Keel) (s : State) :
    (modKeel f s).part4820 = s.part4820 ∧ (modKeel f s).time = s.time ∧ (modKeel f s).regs = s.regs ∧
    (modKeel f s).rwlShadow = s.rwlShadow ∧ (modKeel f s).bus = s.bus ∧ (modKeel f s).clocks = s.clocks ∧
    (modKeel f s).strokes = s.strokes ∧ (modKeel f s).seen = s.seen ∧ (modKeel f s).fabric = s.fabric ∧
    (modKeel f s).targets = s.targets ∧ (modKeel f s).leaks = s.leaks ∧ (modKeel f s).crit = s.crit ∧ (modKeel f s).queues = s.queues ∧
    (modKeel f s).ended = s.ended ∧ (modKeel f s).stopped = s.stopped ∧ (modKeel f s).rigger = s.rigger ∧ (modKeel f s).free = s.free ∧
    (modKeel f s).safePending = s.safePending ∧ (modKeel f s).pres = s.pres ∧ (modKeel f s).hda = s.hda ∧ (modKeel f s).cal = s.cal ∧
    (modKeel f s).rudders = s.rudders ∧ (modKeel f s).couple = s.couple ∧ (modKeel f s).tunes = s.tunes ∧ (modKeel f s).oars = s.oars ∧
    (modKeel f s).sweep = s.sweep ∧ (modKeel f s).gates = s.gates ∧ (modKeel f s).ucode = s.ucode ∧ (modKeel f s).returned = s.returned ∧
    (modKeel f s).consumed = s.consumed ∧ (modKeel f s).mem = s.mem ∧ (modKeel f s).checks = s.checks ∧ (modKeel f s).drams = s.drams ∧
    (modKeel f s).boat = s.boat ∧ (modKeel f s).cache = s.cache ∧ (modKeel f s).scrub = s.scrub ∧ (modKeel f s).crew = s.crew ∧
    (modKeel f s).slip = s.slip ∧ (modKeel f s).power = s.power ∧ (modKeel f s).safe = s.safe ∧ (modKeel f s).otp = s.otp ∧
    (modKeel f s).keys = s.keys ∧ (modKeel f s).cryptos = s.cryptos ∧ (modKeel f s).chip = s.chip ∧ (modKeel f s).ump = s.ump ∧
    (modKeel f s).dbg = s.dbg ∧ (modKeel f s).smbus = s.smbus ∧ (modKeel f s).pending = s.pending := by
  simp only [and_self, modKeel]

@[simp] theorem modRigger_frame (f : Rigger → Rigger) (s : State) :
    (modRigger f s).part4820 = s.part4820 ∧ (modRigger f s).time = s.time ∧ (modRigger f s).regs = s.regs ∧
    (modRigger f s).rwlShadow = s.rwlShadow ∧ (modRigger f s).bus = s.bus ∧ (modRigger f s).clocks = s.clocks ∧
    (modRigger f s).strokes = s.strokes ∧ (modRigger f s).seen = s.seen ∧ (modRigger f s).fabric = s.fabric ∧
    (modRigger f s).targets = s.targets ∧ (modRigger f s).leaks = s.leaks ∧ (modRigger f s).crit = s.crit ∧
    (modRigger f s).queues = s.queues ∧ (modRigger f s).ended = s.ended ∧ (modRigger f s).stopped = s.stopped ∧
    (modRigger f s).keel = s.keel ∧ (modRigger f s).free = s.free ∧ (modRigger f s).safePending = s.safePending ∧
    (modRigger f s).pres = s.pres ∧ (modRigger f s).hda = s.hda ∧ (modRigger f s).cal = s.cal ∧ (modRigger f s).rudders = s.rudders ∧
    (modRigger f s).couple = s.couple ∧ (modRigger f s).tunes = s.tunes ∧ (modRigger f s).oars = s.oars ∧
    (modRigger f s).sweep = s.sweep ∧ (modRigger f s).gates = s.gates ∧ (modRigger f s).ucode = s.ucode ∧
    (modRigger f s).returned = s.returned ∧ (modRigger f s).consumed = s.consumed ∧ (modRigger f s).mem = s.mem ∧
    (modRigger f s).checks = s.checks ∧ (modRigger f s).drams = s.drams ∧ (modRigger f s).boat = s.boat ∧
    (modRigger f s).cache = s.cache ∧ (modRigger f s).scrub = s.scrub ∧ (modRigger f s).crew = s.crew ∧ (modRigger f s).slip = s.slip ∧
    (modRigger f s).power = s.power ∧ (modRigger f s).safe = s.safe ∧ (modRigger f s).otp = s.otp ∧ (modRigger f s).keys = s.keys ∧
    (modRigger f s).cryptos = s.cryptos ∧ (modRigger f s).chip = s.chip ∧ (modRigger f s).ump = s.ump ∧ (modRigger f s).dbg = s.dbg ∧
    (modRigger f s).smbus = s.smbus ∧ (modRigger f s).pending = s.pending := by
  simp only [and_self, modRigger]

@[simp] theorem putByte_frame (s : State) (a : Nat) (b : Byte) :
    (State.putByte s a b).part4820 = s.part4820 ∧ (State.putByte s a b).time = s.time ∧ (State.putByte s a b).regs = s.regs ∧
    (State.putByte s a b).rwlShadow = s.rwlShadow ∧ (State.putByte s a b).bus = s.bus ∧ (State.putByte s a b).clocks = s.clocks ∧
    (State.putByte s a b).strokes = s.strokes ∧ (State.putByte s a b).seen = s.seen ∧ (State.putByte s a b).fabric = s.fabric ∧
    (State.putByte s a b).targets = s.targets ∧ (State.putByte s a b).leaks = s.leaks ∧ (State.putByte s a b).crit = s.crit ∧
    (State.putByte s a b).queues = s.queues ∧ (State.putByte s a b).ended = s.ended ∧ (State.putByte s a b).stopped = s.stopped ∧
    (State.putByte s a b).keel = s.keel ∧ (State.putByte s a b).rigger = s.rigger ∧ (State.putByte s a b).free = s.free ∧
    (State.putByte s a b).safePending = s.safePending ∧ (State.putByte s a b).pres = s.pres ∧ (State.putByte s a b).hda = s.hda ∧
    (State.putByte s a b).cal = s.cal ∧ (State.putByte s a b).rudders = s.rudders ∧ (State.putByte s a b).couple = s.couple ∧
    (State.putByte s a b).tunes = s.tunes ∧ (State.putByte s a b).oars = s.oars ∧ (State.putByte s a b).sweep = s.sweep ∧
    (State.putByte s a b).gates = s.gates ∧ (State.putByte s a b).ucode = s.ucode ∧ (State.putByte s a b).returned = s.returned ∧
    (State.putByte s a b).consumed = s.consumed ∧ (State.putByte s a b).checks = s.checks ∧ (State.putByte s a b).drams = s.drams ∧
    (State.putByte s a b).boat = s.boat ∧ (State.putByte s a b).cache = s.cache ∧ (State.putByte s a b).scrub = s.scrub ∧
    (State.putByte s a b).crew = s.crew ∧ (State.putByte s a b).slip = s.slip ∧ (State.putByte s a b).power = s.power ∧
    (State.putByte s a b).safe = s.safe ∧ (State.putByte s a b).otp = s.otp ∧ (State.putByte s a b).keys = s.keys ∧
    (State.putByte s a b).cryptos = s.cryptos ∧ (State.putByte s a b).chip = s.chip ∧ (State.putByte s a b).ump = s.ump ∧
    (State.putByte s a b).dbg = s.dbg ∧ (State.putByte s a b).smbus = s.smbus ∧ (State.putByte s a b).pending = s.pending := by
  simp only [and_self, State.putByte]

@[simp] theorem putCheck_frame (g : Nat) (c : BitVec 64) (s : State) :
    (putCheck g c s).part4820 = s.part4820 ∧ (putCheck g c s).time = s.time ∧ (putCheck g c s).regs = s.regs ∧
    (putCheck g c s).rwlShadow = s.rwlShadow ∧ (putCheck g c s).bus = s.bus ∧ (putCheck g c s).clocks = s.clocks ∧
    (putCheck g c s).strokes = s.strokes ∧ (putCheck g c s).seen = s.seen ∧ (putCheck g c s).fabric = s.fabric ∧
    (putCheck g c s).targets = s.targets ∧ (putCheck g c s).leaks = s.leaks ∧ (putCheck g c s).crit = s.crit ∧
    (putCheck g c s).queues = s.queues ∧ (putCheck g c s).ended = s.ended ∧ (putCheck g c s).stopped = s.stopped ∧
    (putCheck g c s).keel = s.keel ∧ (putCheck g c s).rigger = s.rigger ∧ (putCheck g c s).free = s.free ∧
    (putCheck g c s).safePending = s.safePending ∧ (putCheck g c s).pres = s.pres ∧ (putCheck g c s).hda = s.hda ∧
    (putCheck g c s).cal = s.cal ∧ (putCheck g c s).rudders = s.rudders ∧ (putCheck g c s).couple = s.couple ∧
    (putCheck g c s).tunes = s.tunes ∧ (putCheck g c s).oars = s.oars ∧ (putCheck g c s).sweep = s.sweep ∧
    (putCheck g c s).gates = s.gates ∧ (putCheck g c s).ucode = s.ucode ∧ (putCheck g c s).returned = s.returned ∧
    (putCheck g c s).consumed = s.consumed ∧ (putCheck g c s).mem = s.mem ∧ (putCheck g c s).drams = s.drams ∧
    (putCheck g c s).boat = s.boat ∧ (putCheck g c s).cache = s.cache ∧ (putCheck g c s).scrub = s.scrub ∧
    (putCheck g c s).crew = s.crew ∧ (putCheck g c s).slip = s.slip ∧ (putCheck g c s).power = s.power ∧ (putCheck g c s).safe = s.safe ∧
    (putCheck g c s).otp = s.otp ∧ (putCheck g c s).keys = s.keys ∧ (putCheck g c s).cryptos = s.cryptos ∧
    (putCheck g c s).chip = s.chip ∧ (putCheck g c s).ump = s.ump ∧ (putCheck g c s).dbg = s.dbg ∧ (putCheck g c s).smbus = s.smbus ∧
    (putCheck g c s).pending = s.pending := by
  simp only [and_self, putCheck]

@[simp] theorem modOar_frame (o : Nat) (f : Oar → Oar) (s : State) :
    (modOar o f s).part4820 = s.part4820 ∧ (modOar o f s).time = s.time ∧ (modOar o f s).regs = s.regs ∧
    (modOar o f s).rwlShadow = s.rwlShadow ∧ (modOar o f s).bus = s.bus ∧ (modOar o f s).clocks = s.clocks ∧
    (modOar o f s).strokes = s.strokes ∧ (modOar o f s).seen = s.seen ∧ (modOar o f s).fabric = s.fabric ∧
    (modOar o f s).targets = s.targets ∧ (modOar o f s).leaks = s.leaks ∧ (modOar o f s).crit = s.crit ∧
    (modOar o f s).queues = s.queues ∧ (modOar o f s).ended = s.ended ∧ (modOar o f s).stopped = s.stopped ∧
    (modOar o f s).keel = s.keel ∧ (modOar o f s).rigger = s.rigger ∧ (modOar o f s).free = s.free ∧
    (modOar o f s).safePending = s.safePending ∧ (modOar o f s).pres = s.pres ∧ (modOar o f s).hda = s.hda ∧ (modOar o f s).cal = s.cal ∧
    (modOar o f s).rudders = s.rudders ∧ (modOar o f s).couple = s.couple ∧ (modOar o f s).tunes = s.tunes ∧
    (modOar o f s).sweep = s.sweep ∧ (modOar o f s).gates = s.gates ∧ (modOar o f s).ucode = s.ucode ∧
    (modOar o f s).returned = s.returned ∧ (modOar o f s).consumed = s.consumed ∧ (modOar o f s).mem = s.mem ∧
    (modOar o f s).checks = s.checks ∧ (modOar o f s).drams = s.drams ∧ (modOar o f s).boat = s.boat ∧ (modOar o f s).cache = s.cache ∧
    (modOar o f s).scrub = s.scrub ∧ (modOar o f s).crew = s.crew ∧ (modOar o f s).slip = s.slip ∧ (modOar o f s).power = s.power ∧
    (modOar o f s).safe = s.safe ∧ (modOar o f s).otp = s.otp ∧ (modOar o f s).keys = s.keys ∧ (modOar o f s).cryptos = s.cryptos ∧
    (modOar o f s).chip = s.chip ∧ (modOar o f s).ump = s.ump ∧ (modOar o f s).dbg = s.dbg ∧ (modOar o f s).smbus = s.smbus ∧
    (modOar o f s).pending = s.pending := by
  simp only [and_self, modOar]

@[simp] theorem modGate_frame (a : Nat) (f : Gate → Gate) (s : State) :
    (modGate a f s).part4820 = s.part4820 ∧ (modGate a f s).time = s.time ∧ (modGate a f s).regs = s.regs ∧
    (modGate a f s).rwlShadow = s.rwlShadow ∧ (modGate a f s).bus = s.bus ∧ (modGate a f s).clocks = s.clocks ∧
    (modGate a f s).strokes = s.strokes ∧ (modGate a f s).seen = s.seen ∧ (modGate a f s).fabric = s.fabric ∧
    (modGate a f s).targets = s.targets ∧ (modGate a f s).leaks = s.leaks ∧ (modGate a f s).crit = s.crit ∧
    (modGate a f s).queues = s.queues ∧ (modGate a f s).ended = s.ended ∧ (modGate a f s).stopped = s.stopped ∧
    (modGate a f s).keel = s.keel ∧ (modGate a f s).rigger = s.rigger ∧ (modGate a f s).free = s.free ∧
    (modGate a f s).safePending = s.safePending ∧ (modGate a f s).pres = s.pres ∧ (modGate a f s).hda = s.hda ∧
    (modGate a f s).cal = s.cal ∧ (modGate a f s).rudders = s.rudders ∧ (modGate a f s).couple = s.couple ∧
    (modGate a f s).tunes = s.tunes ∧ (modGate a f s).oars = s.oars ∧ (modGate a f s).sweep = s.sweep ∧ (modGate a f s).ucode = s.ucode ∧
    (modGate a f s).returned = s.returned ∧ (modGate a f s).consumed = s.consumed ∧ (modGate a f s).mem = s.mem ∧
    (modGate a f s).checks = s.checks ∧ (modGate a f s).drams = s.drams ∧ (modGate a f s).boat = s.boat ∧
    (modGate a f s).cache = s.cache ∧ (modGate a f s).scrub = s.scrub ∧ (modGate a f s).crew = s.crew ∧ (modGate a f s).slip = s.slip ∧
    (modGate a f s).power = s.power ∧ (modGate a f s).safe = s.safe ∧ (modGate a f s).otp = s.otp ∧ (modGate a f s).keys = s.keys ∧
    (modGate a f s).cryptos = s.cryptos ∧ (modGate a f s).chip = s.chip ∧ (modGate a f s).ump = s.ump ∧ (modGate a f s).dbg = s.dbg ∧
    (modGate a f s).smbus = s.smbus ∧ (modGate a f s).pending = s.pending := by
  simp only [and_self, modGate]

@[simp] theorem setReg_frame (s : State) (k : Nat) (v : Word) :
    (State.setReg s k v).part4820 = s.part4820 ∧ (State.setReg s k v).time = s.time ∧ (State.setReg s k v).rwlShadow = s.rwlShadow ∧
    (State.setReg s k v).bus = s.bus ∧ (State.setReg s k v).clocks = s.clocks ∧ (State.setReg s k v).strokes = s.strokes ∧
    (State.setReg s k v).seen = s.seen ∧ (State.setReg s k v).fabric = s.fabric ∧ (State.setReg s k v).targets = s.targets ∧
    (State.setReg s k v).leaks = s.leaks ∧ (State.setReg s k v).crit = s.crit ∧ (State.setReg s k v).queues = s.queues ∧
    (State.setReg s k v).ended = s.ended ∧ (State.setReg s k v).stopped = s.stopped ∧ (State.setReg s k v).keel = s.keel ∧
    (State.setReg s k v).rigger = s.rigger ∧ (State.setReg s k v).free = s.free ∧ (State.setReg s k v).safePending = s.safePending ∧
    (State.setReg s k v).pres = s.pres ∧ (State.setReg s k v).hda = s.hda ∧ (State.setReg s k v).cal = s.cal ∧
    (State.setReg s k v).rudders = s.rudders ∧ (State.setReg s k v).couple = s.couple ∧ (State.setReg s k v).tunes = s.tunes ∧
    (State.setReg s k v).oars = s.oars ∧ (State.setReg s k v).sweep = s.sweep ∧ (State.setReg s k v).gates = s.gates ∧
    (State.setReg s k v).ucode = s.ucode ∧ (State.setReg s k v).returned = s.returned ∧ (State.setReg s k v).consumed = s.consumed ∧
    (State.setReg s k v).mem = s.mem ∧ (State.setReg s k v).checks = s.checks ∧ (State.setReg s k v).drams = s.drams ∧
    (State.setReg s k v).boat = s.boat ∧ (State.setReg s k v).cache = s.cache ∧ (State.setReg s k v).scrub = s.scrub ∧
    (State.setReg s k v).crew = s.crew ∧ (State.setReg s k v).slip = s.slip ∧ (State.setReg s k v).power = s.power ∧
    (State.setReg s k v).safe = s.safe ∧ (State.setReg s k v).otp = s.otp ∧ (State.setReg s k v).keys = s.keys ∧
    (State.setReg s k v).cryptos = s.cryptos ∧ (State.setReg s k v).chip = s.chip ∧ (State.setReg s k v).ump = s.ump ∧
    (State.setReg s k v).dbg = s.dbg ∧ (State.setReg s k v).smbus = s.smbus ∧ (State.setReg s k v).pending = s.pending := by
  simp only [and_self, State.setReg]

@[simp] theorem useFree_frame (s : State) :
    (State.useFree s).part4820 = s.part4820 ∧ (State.useFree s).time = s.time ∧ (State.useFree s).regs = s.regs ∧
    (State.useFree s).rwlShadow = s.rwlShadow ∧ (State.useFree s).bus = s.bus ∧ (State.useFree s).clocks = s.clocks ∧
    (State.useFree s).strokes = s.strokes ∧ (State.useFree s).seen = s.seen ∧ (State.useFree s).fabric = s.fabric ∧
    (State.useFree s).targets = s.targets ∧ (State.useFree s).leaks = s.leaks ∧ (State.useFree s).crit = s.crit ∧
    (State.useFree s).queues = s.queues ∧ (State.useFree s).ended = s.ended ∧ (State.useFree s).stopped = s.stopped ∧
    (State.useFree s).keel = s.keel ∧ (State.useFree s).rigger = s.rigger ∧ (State.useFree s).safePending = s.safePending ∧
    (State.useFree s).pres = s.pres ∧ (State.useFree s).hda = s.hda ∧ (State.useFree s).cal = s.cal ∧
    (State.useFree s).rudders = s.rudders ∧ (State.useFree s).couple = s.couple ∧ (State.useFree s).tunes = s.tunes ∧
    (State.useFree s).oars = s.oars ∧ (State.useFree s).sweep = s.sweep ∧ (State.useFree s).gates = s.gates ∧
    (State.useFree s).ucode = s.ucode ∧ (State.useFree s).returned = s.returned ∧ (State.useFree s).consumed = s.consumed ∧
    (State.useFree s).mem = s.mem ∧ (State.useFree s).checks = s.checks ∧ (State.useFree s).drams = s.drams ∧
    (State.useFree s).boat = s.boat ∧ (State.useFree s).cache = s.cache ∧ (State.useFree s).scrub = s.scrub ∧
    (State.useFree s).crew = s.crew ∧ (State.useFree s).slip = s.slip ∧ (State.useFree s).power = s.power ∧
    (State.useFree s).safe = s.safe ∧ (State.useFree s).otp = s.otp ∧ (State.useFree s).keys = s.keys ∧
    (State.useFree s).cryptos = s.cryptos ∧ (State.useFree s).chip = s.chip ∧ (State.useFree s).ump = s.ump ∧
    (State.useFree s).dbg = s.dbg ∧ (State.useFree s).smbus = s.smbus ∧ (State.useFree s).pending = s.pending := by
  simp only [and_self, State.useFree]

@[simp] theorem send_frame (s : State) (m : Msg) :
    (State.send s m).part4820 = s.part4820 ∧ (State.send s m).time = s.time ∧ (State.send s m).regs = s.regs ∧
    (State.send s m).rwlShadow = s.rwlShadow ∧ (State.send s m).bus = s.bus ∧ (State.send s m).clocks = s.clocks ∧
    (State.send s m).strokes = s.strokes ∧ (State.send s m).seen = s.seen ∧ (State.send s m).targets = s.targets ∧
    (State.send s m).leaks = s.leaks ∧ (State.send s m).crit = s.crit ∧ (State.send s m).queues = s.queues ∧
    (State.send s m).ended = s.ended ∧ (State.send s m).stopped = s.stopped ∧ (State.send s m).keel = s.keel ∧
    (State.send s m).rigger = s.rigger ∧ (State.send s m).free = s.free ∧ (State.send s m).safePending = s.safePending ∧
    (State.send s m).pres = s.pres ∧ (State.send s m).hda = s.hda ∧ (State.send s m).cal = s.cal ∧ (State.send s m).rudders = s.rudders ∧
    (State.send s m).couple = s.couple ∧ (State.send s m).tunes = s.tunes ∧ (State.send s m).oars = s.oars ∧
    (State.send s m).sweep = s.sweep ∧ (State.send s m).gates = s.gates ∧ (State.send s m).ucode = s.ucode ∧
    (State.send s m).returned = s.returned ∧ (State.send s m).consumed = s.consumed ∧ (State.send s m).mem = s.mem ∧
    (State.send s m).checks = s.checks ∧ (State.send s m).drams = s.drams ∧ (State.send s m).boat = s.boat ∧
    (State.send s m).cache = s.cache ∧ (State.send s m).scrub = s.scrub ∧ (State.send s m).crew = s.crew ∧
    (State.send s m).slip = s.slip ∧ (State.send s m).power = s.power ∧ (State.send s m).safe = s.safe ∧ (State.send s m).otp = s.otp ∧
    (State.send s m).keys = s.keys ∧ (State.send s m).cryptos = s.cryptos ∧ (State.send s m).chip = s.chip ∧
    (State.send s m).ump = s.ump ∧ (State.send s m).dbg = s.dbg ∧ (State.send s m).smbus = s.smbus ∧
    (State.send s m).pending = s.pending := by
  simp only [and_self, State.send]

@[simp] theorem safeCause_frame (source : Nat) (s : State) :
    (safeCause source s).part4820 = s.part4820 ∧ (safeCause source s).time = s.time ∧ (safeCause source s).regs = s.regs ∧
    (safeCause source s).rwlShadow = s.rwlShadow ∧ (safeCause source s).bus = s.bus ∧ (safeCause source s).clocks = s.clocks ∧
    (safeCause source s).strokes = s.strokes ∧ (safeCause source s).seen = s.seen ∧ (safeCause source s).fabric = s.fabric ∧
    (safeCause source s).targets = s.targets ∧ (safeCause source s).leaks = s.leaks ∧ (safeCause source s).crit = s.crit ∧
    (safeCause source s).queues = s.queues ∧ (safeCause source s).ended = s.ended ∧ (safeCause source s).stopped = s.stopped ∧
    (safeCause source s).keel = s.keel ∧ (safeCause source s).rigger = s.rigger ∧ (safeCause source s).free = s.free ∧
    (safeCause source s).pres = s.pres ∧ (safeCause source s).hda = s.hda ∧ (safeCause source s).cal = s.cal ∧
    (safeCause source s).rudders = s.rudders ∧ (safeCause source s).couple = s.couple ∧ (safeCause source s).tunes = s.tunes ∧
    (safeCause source s).oars = s.oars ∧ (safeCause source s).sweep = s.sweep ∧ (safeCause source s).gates = s.gates ∧
    (safeCause source s).ucode = s.ucode ∧ (safeCause source s).returned = s.returned ∧ (safeCause source s).consumed = s.consumed ∧
    (safeCause source s).mem = s.mem ∧ (safeCause source s).checks = s.checks ∧ (safeCause source s).drams = s.drams ∧
    (safeCause source s).boat = s.boat ∧ (safeCause source s).cache = s.cache ∧ (safeCause source s).scrub = s.scrub ∧
    (safeCause source s).crew = s.crew ∧ (safeCause source s).slip = s.slip ∧ (safeCause source s).power = s.power ∧
    (safeCause source s).safe = s.safe ∧ (safeCause source s).otp = s.otp ∧ (safeCause source s).keys = s.keys ∧
    (safeCause source s).cryptos = s.cryptos ∧ (safeCause source s).chip = s.chip ∧ (safeCause source s).ump = s.ump ∧
    (safeCause source s).dbg = s.dbg ∧ (safeCause source s).smbus = s.smbus ∧ (safeCause source s).pending = s.pending := by
  simp only [and_self, safeCause]

@[simp] theorem busError_frame (s : State) :
    (busError s).part4820 = s.part4820 ∧ (busError s).time = s.time ∧ (busError s).regs = s.regs ∧ (busError s).rwlShadow = s.rwlShadow ∧
    (busError s).clocks = s.clocks ∧ (busError s).strokes = s.strokes ∧ (busError s).seen = s.seen ∧ (busError s).fabric = s.fabric ∧
    (busError s).targets = s.targets ∧ (busError s).leaks = s.leaks ∧ (busError s).crit = s.crit ∧ (busError s).queues = s.queues ∧
    (busError s).ended = s.ended ∧ (busError s).stopped = s.stopped ∧ (busError s).keel = s.keel ∧ (busError s).rigger = s.rigger ∧
    (busError s).free = s.free ∧ (busError s).safePending = s.safePending ∧ (busError s).pres = s.pres ∧ (busError s).hda = s.hda ∧
    (busError s).cal = s.cal ∧ (busError s).rudders = s.rudders ∧ (busError s).couple = s.couple ∧ (busError s).tunes = s.tunes ∧
    (busError s).oars = s.oars ∧ (busError s).sweep = s.sweep ∧ (busError s).gates = s.gates ∧ (busError s).ucode = s.ucode ∧
    (busError s).returned = s.returned ∧ (busError s).consumed = s.consumed ∧ (busError s).mem = s.mem ∧ (busError s).checks = s.checks ∧
    (busError s).drams = s.drams ∧ (busError s).boat = s.boat ∧ (busError s).cache = s.cache ∧ (busError s).scrub = s.scrub ∧
    (busError s).crew = s.crew ∧ (busError s).slip = s.slip ∧ (busError s).power = s.power ∧ (busError s).safe = s.safe ∧
    (busError s).otp = s.otp ∧ (busError s).keys = s.keys ∧ (busError s).cryptos = s.cryptos ∧ (busError s).chip = s.chip ∧
    (busError s).ump = s.ump ∧ (busError s).dbg = s.dbg ∧ (busError s).smbus = s.smbus ∧ (busError s).pending = s.pending := by
  simp only [and_self, busError]

@[simp] theorem busOk_frame (v : Word) (s : State) :
    (busOk v s).part4820 = s.part4820 ∧ (busOk v s).time = s.time ∧ (busOk v s).regs = s.regs ∧ (busOk v s).rwlShadow = s.rwlShadow ∧
    (busOk v s).clocks = s.clocks ∧ (busOk v s).strokes = s.strokes ∧ (busOk v s).seen = s.seen ∧ (busOk v s).fabric = s.fabric ∧
    (busOk v s).targets = s.targets ∧ (busOk v s).leaks = s.leaks ∧ (busOk v s).crit = s.crit ∧ (busOk v s).queues = s.queues ∧
    (busOk v s).ended = s.ended ∧ (busOk v s).stopped = s.stopped ∧ (busOk v s).keel = s.keel ∧ (busOk v s).rigger = s.rigger ∧
    (busOk v s).free = s.free ∧ (busOk v s).safePending = s.safePending ∧ (busOk v s).pres = s.pres ∧ (busOk v s).hda = s.hda ∧
    (busOk v s).cal = s.cal ∧ (busOk v s).rudders = s.rudders ∧ (busOk v s).couple = s.couple ∧ (busOk v s).tunes = s.tunes ∧
    (busOk v s).oars = s.oars ∧ (busOk v s).sweep = s.sweep ∧ (busOk v s).gates = s.gates ∧ (busOk v s).ucode = s.ucode ∧
    (busOk v s).returned = s.returned ∧ (busOk v s).consumed = s.consumed ∧ (busOk v s).mem = s.mem ∧ (busOk v s).checks = s.checks ∧
    (busOk v s).drams = s.drams ∧ (busOk v s).boat = s.boat ∧ (busOk v s).cache = s.cache ∧ (busOk v s).scrub = s.scrub ∧
    (busOk v s).crew = s.crew ∧ (busOk v s).slip = s.slip ∧ (busOk v s).power = s.power ∧ (busOk v s).safe = s.safe ∧
    (busOk v s).otp = s.otp ∧ (busOk v s).keys = s.keys ∧ (busOk v s).cryptos = s.cryptos ∧ (busOk v s).chip = s.chip ∧
    (busOk v s).ump = s.ump ∧ (busOk v s).dbg = s.dbg ∧ (busOk v s).smbus = s.smbus ∧ (busOk v s).pending = s.pending := by
  simp only [and_self, busOk]

@[simp] theorem modPower_frame (f : Power → Power) (s : State) :
    (modPower f s).part4820 = s.part4820 ∧ (modPower f s).time = s.time ∧ (modPower f s).regs = s.regs ∧
    (modPower f s).rwlShadow = s.rwlShadow ∧ (modPower f s).bus = s.bus ∧ (modPower f s).clocks = s.clocks ∧
    (modPower f s).strokes = s.strokes ∧ (modPower f s).seen = s.seen ∧ (modPower f s).fabric = s.fabric ∧
    (modPower f s).targets = s.targets ∧ (modPower f s).leaks = s.leaks ∧ (modPower f s).crit = s.crit ∧
    (modPower f s).queues = s.queues ∧ (modPower f s).ended = s.ended ∧ (modPower f s).stopped = s.stopped ∧
    (modPower f s).keel = s.keel ∧ (modPower f s).rigger = s.rigger ∧ (modPower f s).free = s.free ∧
    (modPower f s).safePending = s.safePending ∧ (modPower f s).pres = s.pres ∧ (modPower f s).hda = s.hda ∧ (modPower f s).cal = s.cal ∧
    (modPower f s).rudders = s.rudders ∧ (modPower f s).couple = s.couple ∧ (modPower f s).tunes = s.tunes ∧
    (modPower f s).oars = s.oars ∧ (modPower f s).sweep = s.sweep ∧ (modPower f s).gates = s.gates ∧ (modPower f s).ucode = s.ucode ∧
    (modPower f s).returned = s.returned ∧ (modPower f s).consumed = s.consumed ∧ (modPower f s).mem = s.mem ∧
    (modPower f s).checks = s.checks ∧ (modPower f s).drams = s.drams ∧ (modPower f s).boat = s.boat ∧ (modPower f s).cache = s.cache ∧
    (modPower f s).scrub = s.scrub ∧ (modPower f s).crew = s.crew ∧ (modPower f s).slip = s.slip ∧ (modPower f s).safe = s.safe ∧
    (modPower f s).otp = s.otp ∧ (modPower f s).keys = s.keys ∧ (modPower f s).cryptos = s.cryptos ∧ (modPower f s).chip = s.chip ∧
    (modPower f s).ump = s.ump ∧ (modPower f s).dbg = s.dbg ∧ (modPower f s).smbus = s.smbus ∧ (modPower f s).pending = s.pending := by
  simp only [and_self, modPower]

@[simp] theorem modPre_frame (a : Nat) (f : PrePort → PrePort) (s : State) :
    (modPre a f s).part4820 = s.part4820 ∧ (modPre a f s).time = s.time ∧ (modPre a f s).regs = s.regs ∧
    (modPre a f s).rwlShadow = s.rwlShadow ∧ (modPre a f s).bus = s.bus ∧ (modPre a f s).clocks = s.clocks ∧
    (modPre a f s).strokes = s.strokes ∧ (modPre a f s).seen = s.seen ∧ (modPre a f s).fabric = s.fabric ∧
    (modPre a f s).targets = s.targets ∧ (modPre a f s).leaks = s.leaks ∧ (modPre a f s).crit = s.crit ∧
    (modPre a f s).queues = s.queues ∧ (modPre a f s).ended = s.ended ∧ (modPre a f s).stopped = s.stopped ∧
    (modPre a f s).keel = s.keel ∧ (modPre a f s).rigger = s.rigger ∧ (modPre a f s).free = s.free ∧
    (modPre a f s).safePending = s.safePending ∧ (modPre a f s).hda = s.hda ∧ (modPre a f s).cal = s.cal ∧
    (modPre a f s).rudders = s.rudders ∧ (modPre a f s).couple = s.couple ∧ (modPre a f s).tunes = s.tunes ∧
    (modPre a f s).oars = s.oars ∧ (modPre a f s).sweep = s.sweep ∧ (modPre a f s).gates = s.gates ∧ (modPre a f s).ucode = s.ucode ∧
    (modPre a f s).returned = s.returned ∧ (modPre a f s).consumed = s.consumed ∧ (modPre a f s).mem = s.mem ∧
    (modPre a f s).checks = s.checks ∧ (modPre a f s).drams = s.drams ∧ (modPre a f s).boat = s.boat ∧ (modPre a f s).cache = s.cache ∧
    (modPre a f s).scrub = s.scrub ∧ (modPre a f s).crew = s.crew ∧ (modPre a f s).slip = s.slip ∧ (modPre a f s).power = s.power ∧
    (modPre a f s).safe = s.safe ∧ (modPre a f s).otp = s.otp ∧ (modPre a f s).keys = s.keys ∧ (modPre a f s).cryptos = s.cryptos ∧
    (modPre a f s).chip = s.chip ∧ (modPre a f s).ump = s.ump ∧ (modPre a f s).dbg = s.dbg ∧ (modPre a f s).smbus = s.smbus ∧
    (modPre a f s).pending = s.pending := by
  simp only [and_self, modPre]

@[simp] theorem setHq_frame (q : QueueId) (x : HwQueue) (s : State) :
    (setHq q x s).part4820 = s.part4820 ∧ (setHq q x s).time = s.time ∧ (setHq q x s).regs = s.regs ∧
    (setHq q x s).rwlShadow = s.rwlShadow ∧ (setHq q x s).bus = s.bus ∧ (setHq q x s).clocks = s.clocks ∧
    (setHq q x s).strokes = s.strokes ∧ (setHq q x s).seen = s.seen ∧ (setHq q x s).fabric = s.fabric ∧
    (setHq q x s).targets = s.targets ∧ (setHq q x s).leaks = s.leaks ∧ (setHq q x s).crit = s.crit ∧ (setHq q x s).ended = s.ended ∧
    (setHq q x s).stopped = s.stopped ∧ (setHq q x s).keel = s.keel ∧ (setHq q x s).rigger = s.rigger ∧ (setHq q x s).free = s.free ∧
    (setHq q x s).safePending = s.safePending ∧ (setHq q x s).pres = s.pres ∧ (setHq q x s).hda = s.hda ∧ (setHq q x s).cal = s.cal ∧
    (setHq q x s).rudders = s.rudders ∧ (setHq q x s).couple = s.couple ∧ (setHq q x s).tunes = s.tunes ∧ (setHq q x s).oars = s.oars ∧
    (setHq q x s).sweep = s.sweep ∧ (setHq q x s).gates = s.gates ∧ (setHq q x s).ucode = s.ucode ∧ (setHq q x s).returned = s.returned ∧
    (setHq q x s).consumed = s.consumed ∧ (setHq q x s).mem = s.mem ∧ (setHq q x s).checks = s.checks ∧ (setHq q x s).drams = s.drams ∧
    (setHq q x s).boat = s.boat ∧ (setHq q x s).cache = s.cache ∧ (setHq q x s).scrub = s.scrub ∧ (setHq q x s).crew = s.crew ∧
    (setHq q x s).slip = s.slip ∧ (setHq q x s).power = s.power ∧ (setHq q x s).safe = s.safe ∧ (setHq q x s).otp = s.otp ∧
    (setHq q x s).keys = s.keys ∧ (setHq q x s).cryptos = s.cryptos ∧ (setHq q x s).chip = s.chip ∧ (setHq q x s).ump = s.ump ∧
    (setHq q x s).dbg = s.dbg ∧ (setHq q x s).smbus = s.smbus ∧ (setHq q x s).pending = s.pending := by
  simp only [and_self, setHq]

@[simp] theorem endPacket_frame (q : QueueId) (port : Nat) (ws : List Word) (s : State) :
    (endPacket q port ws s).part4820 = s.part4820 ∧ (endPacket q port ws s).time = s.time ∧ (endPacket q port ws s).regs = s.regs ∧
    (endPacket q port ws s).rwlShadow = s.rwlShadow ∧ (endPacket q port ws s).bus = s.bus ∧ (endPacket q port ws s).clocks = s.clocks ∧
    (endPacket q port ws s).strokes = s.strokes ∧ (endPacket q port ws s).seen = s.seen ∧ (endPacket q port ws s).fabric = s.fabric ∧
    (endPacket q port ws s).targets = s.targets ∧ (endPacket q port ws s).leaks = s.leaks ∧ (endPacket q port ws s).crit = s.crit ∧
    (endPacket q port ws s).queues = s.queues ∧ (endPacket q port ws s).stopped = s.stopped ∧ (endPacket q port ws s).keel = s.keel ∧
    (endPacket q port ws s).rigger = s.rigger ∧ (endPacket q port ws s).free = s.free ∧
    (endPacket q port ws s).safePending = s.safePending ∧ (endPacket q port ws s).pres = s.pres ∧ (endPacket q port ws s).hda = s.hda ∧
    (endPacket q port ws s).cal = s.cal ∧ (endPacket q port ws s).rudders = s.rudders ∧ (endPacket q port ws s).couple = s.couple ∧
    (endPacket q port ws s).tunes = s.tunes ∧ (endPacket q port ws s).oars = s.oars ∧ (endPacket q port ws s).sweep = s.sweep ∧
    (endPacket q port ws s).gates = s.gates ∧ (endPacket q port ws s).ucode = s.ucode ∧ (endPacket q port ws s).returned = s.returned ∧
    (endPacket q port ws s).consumed = s.consumed ∧ (endPacket q port ws s).mem = s.mem ∧ (endPacket q port ws s).checks = s.checks ∧
    (endPacket q port ws s).drams = s.drams ∧ (endPacket q port ws s).boat = s.boat ∧ (endPacket q port ws s).cache = s.cache ∧
    (endPacket q port ws s).scrub = s.scrub ∧ (endPacket q port ws s).crew = s.crew ∧ (endPacket q port ws s).slip = s.slip ∧
    (endPacket q port ws s).power = s.power ∧ (endPacket q port ws s).safe = s.safe ∧ (endPacket q port ws s).otp = s.otp ∧
    (endPacket q port ws s).keys = s.keys ∧ (endPacket q port ws s).cryptos = s.cryptos ∧ (endPacket q port ws s).chip = s.chip ∧
    (endPacket q port ws s).ump = s.ump ∧ (endPacket q port ws s).dbg = s.dbg ∧ (endPacket q port ws s).smbus = s.smbus ∧
    (endPacket q port ws s).pending = s.pending := by
  simp only [and_self, endPacket]

@[simp] theorem latch_frame (req : Requester) (k : Nat) (w : Option Word) (s : State) :
    (latch req k w s).part4820 = s.part4820 ∧ (latch req k w s).time = s.time ∧ (latch req k w s).regs = s.regs ∧
    (latch req k w s).rwlShadow = s.rwlShadow ∧ (latch req k w s).clocks = s.clocks ∧ (latch req k w s).strokes = s.strokes ∧
    (latch req k w s).seen = s.seen ∧ (latch req k w s).fabric = s.fabric ∧ (latch req k w s).targets = s.targets ∧
    (latch req k w s).leaks = s.leaks ∧ (latch req k w s).crit = s.crit ∧ (latch req k w s).queues = s.queues ∧
    (latch req k w s).ended = s.ended ∧ (latch req k w s).stopped = s.stopped ∧ (latch req k w s).keel = s.keel ∧
    (latch req k w s).rigger = s.rigger ∧ (latch req k w s).free = s.free ∧ (latch req k w s).safePending = s.safePending ∧
    (latch req k w s).pres = s.pres ∧ (latch req k w s).hda = s.hda ∧ (latch req k w s).cal = s.cal ∧
    (latch req k w s).rudders = s.rudders ∧ (latch req k w s).couple = s.couple ∧ (latch req k w s).tunes = s.tunes ∧
    (latch req k w s).oars = s.oars ∧ (latch req k w s).sweep = s.sweep ∧ (latch req k w s).gates = s.gates ∧
    (latch req k w s).ucode = s.ucode ∧ (latch req k w s).returned = s.returned ∧ (latch req k w s).consumed = s.consumed ∧
    (latch req k w s).mem = s.mem ∧ (latch req k w s).checks = s.checks ∧ (latch req k w s).drams = s.drams ∧
    (latch req k w s).boat = s.boat ∧ (latch req k w s).cache = s.cache ∧ (latch req k w s).scrub = s.scrub ∧
    (latch req k w s).crew = s.crew ∧ (latch req k w s).slip = s.slip ∧ (latch req k w s).power = s.power ∧
    (latch req k w s).safe = s.safe ∧ (latch req k w s).otp = s.otp ∧ (latch req k w s).keys = s.keys ∧
    (latch req k w s).cryptos = s.cryptos ∧ (latch req k w s).chip = s.chip ∧ (latch req k w s).ump = s.ump ∧
    (latch req k w s).dbg = s.dbg ∧ (latch req k w s).smbus = s.smbus ∧ (latch req k w s).pending = s.pending := by
  simp only [and_self, latch]

@[simp] theorem keepLow_frame (req : Requester) (k : Nat) (w : Word) (s : State) :
    (keepLow req k w s).part4820 = s.part4820 ∧ (keepLow req k w s).time = s.time ∧ (keepLow req k w s).regs = s.regs ∧
    (keepLow req k w s).rwlShadow = s.rwlShadow ∧ (keepLow req k w s).clocks = s.clocks ∧ (keepLow req k w s).strokes = s.strokes ∧
    (keepLow req k w s).seen = s.seen ∧ (keepLow req k w s).fabric = s.fabric ∧ (keepLow req k w s).targets = s.targets ∧
    (keepLow req k w s).leaks = s.leaks ∧ (keepLow req k w s).crit = s.crit ∧ (keepLow req k w s).queues = s.queues ∧
    (keepLow req k w s).ended = s.ended ∧ (keepLow req k w s).stopped = s.stopped ∧ (keepLow req k w s).keel = s.keel ∧
    (keepLow req k w s).rigger = s.rigger ∧ (keepLow req k w s).free = s.free ∧ (keepLow req k w s).safePending = s.safePending ∧
    (keepLow req k w s).pres = s.pres ∧ (keepLow req k w s).hda = s.hda ∧ (keepLow req k w s).cal = s.cal ∧
    (keepLow req k w s).rudders = s.rudders ∧ (keepLow req k w s).couple = s.couple ∧ (keepLow req k w s).tunes = s.tunes ∧
    (keepLow req k w s).oars = s.oars ∧ (keepLow req k w s).sweep = s.sweep ∧ (keepLow req k w s).gates = s.gates ∧
    (keepLow req k w s).ucode = s.ucode ∧ (keepLow req k w s).returned = s.returned ∧ (keepLow req k w s).consumed = s.consumed ∧
    (keepLow req k w s).mem = s.mem ∧ (keepLow req k w s).checks = s.checks ∧ (keepLow req k w s).drams = s.drams ∧
    (keepLow req k w s).boat = s.boat ∧ (keepLow req k w s).cache = s.cache ∧ (keepLow req k w s).scrub = s.scrub ∧
    (keepLow req k w s).crew = s.crew ∧ (keepLow req k w s).slip = s.slip ∧ (keepLow req k w s).power = s.power ∧
    (keepLow req k w s).safe = s.safe ∧ (keepLow req k w s).otp = s.otp ∧ (keepLow req k w s).keys = s.keys ∧
    (keepLow req k w s).cryptos = s.cryptos ∧ (keepLow req k w s).chip = s.chip ∧ (keepLow req k w s).ump = s.ump ∧
    (keepLow req k w s).dbg = s.dbg ∧ (keepLow req k w s).smbus = s.smbus ∧ (keepLow req k w s).pending = s.pending := by
  simp only [and_self, keepLow]

@[simp] theorem modCouple_frame (f : Couple → Couple) (s : State) :
    (modCouple f s).part4820 = s.part4820 ∧ (modCouple f s).time = s.time ∧ (modCouple f s).regs = s.regs ∧
    (modCouple f s).rwlShadow = s.rwlShadow ∧ (modCouple f s).bus = s.bus ∧ (modCouple f s).clocks = s.clocks ∧
    (modCouple f s).strokes = s.strokes ∧ (modCouple f s).seen = s.seen ∧ (modCouple f s).fabric = s.fabric ∧
    (modCouple f s).targets = s.targets ∧ (modCouple f s).leaks = s.leaks ∧ (modCouple f s).crit = s.crit ∧
    (modCouple f s).queues = s.queues ∧ (modCouple f s).ended = s.ended ∧ (modCouple f s).stopped = s.stopped ∧
    (modCouple f s).keel = s.keel ∧ (modCouple f s).rigger = s.rigger ∧ (modCouple f s).free = s.free ∧
    (modCouple f s).safePending = s.safePending ∧ (modCouple f s).pres = s.pres ∧ (modCouple f s).hda = s.hda ∧
    (modCouple f s).cal = s.cal ∧ (modCouple f s).rudders = s.rudders ∧ (modCouple f s).tunes = s.tunes ∧ (modCouple f s).oars = s.oars ∧
    (modCouple f s).sweep = s.sweep ∧ (modCouple f s).gates = s.gates ∧ (modCouple f s).ucode = s.ucode ∧
    (modCouple f s).returned = s.returned ∧ (modCouple f s).consumed = s.consumed ∧ (modCouple f s).mem = s.mem ∧
    (modCouple f s).checks = s.checks ∧ (modCouple f s).drams = s.drams ∧ (modCouple f s).boat = s.boat ∧
    (modCouple f s).cache = s.cache ∧ (modCouple f s).scrub = s.scrub ∧ (modCouple f s).crew = s.crew ∧ (modCouple f s).slip = s.slip ∧
    (modCouple f s).power = s.power ∧ (modCouple f s).safe = s.safe ∧ (modCouple f s).otp = s.otp ∧ (modCouple f s).keys = s.keys ∧
    (modCouple f s).cryptos = s.cryptos ∧ (modCouple f s).chip = s.chip ∧ (modCouple f s).ump = s.ump ∧ (modCouple f s).dbg = s.dbg ∧
    (modCouple f s).smbus = s.smbus ∧ (modCouple f s).pending = s.pending := by
  simp only [and_self, modCouple]

@[simp] theorem modRud_frame (a : Nat) (f : Rudder → Rudder) (s : State) :
    (modRud a f s).part4820 = s.part4820 ∧ (modRud a f s).time = s.time ∧ (modRud a f s).regs = s.regs ∧
    (modRud a f s).rwlShadow = s.rwlShadow ∧ (modRud a f s).bus = s.bus ∧ (modRud a f s).clocks = s.clocks ∧
    (modRud a f s).strokes = s.strokes ∧ (modRud a f s).seen = s.seen ∧ (modRud a f s).fabric = s.fabric ∧
    (modRud a f s).targets = s.targets ∧ (modRud a f s).leaks = s.leaks ∧ (modRud a f s).crit = s.crit ∧
    (modRud a f s).queues = s.queues ∧ (modRud a f s).ended = s.ended ∧ (modRud a f s).stopped = s.stopped ∧
    (modRud a f s).keel = s.keel ∧ (modRud a f s).rigger = s.rigger ∧ (modRud a f s).free = s.free ∧
    (modRud a f s).safePending = s.safePending ∧ (modRud a f s).pres = s.pres ∧ (modRud a f s).hda = s.hda ∧ (modRud a f s).cal = s.cal ∧
    (modRud a f s).couple = s.couple ∧ (modRud a f s).tunes = s.tunes ∧ (modRud a f s).oars = s.oars ∧ (modRud a f s).sweep = s.sweep ∧
    (modRud a f s).gates = s.gates ∧ (modRud a f s).ucode = s.ucode ∧ (modRud a f s).returned = s.returned ∧
    (modRud a f s).consumed = s.consumed ∧ (modRud a f s).mem = s.mem ∧ (modRud a f s).checks = s.checks ∧
    (modRud a f s).drams = s.drams ∧ (modRud a f s).boat = s.boat ∧ (modRud a f s).cache = s.cache ∧ (modRud a f s).scrub = s.scrub ∧
    (modRud a f s).crew = s.crew ∧ (modRud a f s).slip = s.slip ∧ (modRud a f s).power = s.power ∧ (modRud a f s).safe = s.safe ∧
    (modRud a f s).otp = s.otp ∧ (modRud a f s).keys = s.keys ∧ (modRud a f s).cryptos = s.cryptos ∧ (modRud a f s).chip = s.chip ∧
    (modRud a f s).ump = s.ump ∧ (modRud a f s).dbg = s.dbg ∧ (modRud a f s).smbus = s.smbus ∧ (modRud a f s).pending = s.pending := by
  simp only [and_self, modRud]

@[simp] theorem modDrive_frame (a : Nat) (f : RudDrive → RudDrive) (s : State) :
    (modDrive a f s).part4820 = s.part4820 ∧ (modDrive a f s).time = s.time ∧ (modDrive a f s).regs = s.regs ∧
    (modDrive a f s).rwlShadow = s.rwlShadow ∧ (modDrive a f s).bus = s.bus ∧ (modDrive a f s).clocks = s.clocks ∧
    (modDrive a f s).strokes = s.strokes ∧ (modDrive a f s).seen = s.seen ∧ (modDrive a f s).fabric = s.fabric ∧
    (modDrive a f s).targets = s.targets ∧ (modDrive a f s).leaks = s.leaks ∧ (modDrive a f s).crit = s.crit ∧
    (modDrive a f s).queues = s.queues ∧ (modDrive a f s).ended = s.ended ∧ (modDrive a f s).stopped = s.stopped ∧
    (modDrive a f s).keel = s.keel ∧ (modDrive a f s).free = s.free ∧ (modDrive a f s).safePending = s.safePending ∧
    (modDrive a f s).pres = s.pres ∧ (modDrive a f s).hda = s.hda ∧ (modDrive a f s).cal = s.cal ∧ (modDrive a f s).rudders = s.rudders ∧
    (modDrive a f s).couple = s.couple ∧ (modDrive a f s).tunes = s.tunes ∧ (modDrive a f s).oars = s.oars ∧
    (modDrive a f s).sweep = s.sweep ∧ (modDrive a f s).gates = s.gates ∧ (modDrive a f s).ucode = s.ucode ∧
    (modDrive a f s).returned = s.returned ∧ (modDrive a f s).consumed = s.consumed ∧ (modDrive a f s).mem = s.mem ∧
    (modDrive a f s).checks = s.checks ∧ (modDrive a f s).drams = s.drams ∧ (modDrive a f s).boat = s.boat ∧
    (modDrive a f s).cache = s.cache ∧ (modDrive a f s).scrub = s.scrub ∧ (modDrive a f s).crew = s.crew ∧
    (modDrive a f s).slip = s.slip ∧ (modDrive a f s).power = s.power ∧ (modDrive a f s).safe = s.safe ∧ (modDrive a f s).otp = s.otp ∧
    (modDrive a f s).keys = s.keys ∧ (modDrive a f s).cryptos = s.cryptos ∧ (modDrive a f s).chip = s.chip ∧
    (modDrive a f s).ump = s.ump ∧ (modDrive a f s).dbg = s.dbg ∧ (modDrive a f s).smbus = s.smbus ∧
    (modDrive a f s).pending = s.pending := by
  simp only [and_self, modDrive]

@[simp] theorem modSlip_frame (f : Slip → Slip) (s : State) :
    (modSlip f s).part4820 = s.part4820 ∧ (modSlip f s).time = s.time ∧ (modSlip f s).regs = s.regs ∧
    (modSlip f s).rwlShadow = s.rwlShadow ∧ (modSlip f s).bus = s.bus ∧ (modSlip f s).clocks = s.clocks ∧
    (modSlip f s).strokes = s.strokes ∧ (modSlip f s).seen = s.seen ∧ (modSlip f s).fabric = s.fabric ∧
    (modSlip f s).targets = s.targets ∧ (modSlip f s).leaks = s.leaks ∧ (modSlip f s).crit = s.crit ∧ (modSlip f s).queues = s.queues ∧
    (modSlip f s).ended = s.ended ∧ (modSlip f s).stopped = s.stopped ∧ (modSlip f s).keel = s.keel ∧ (modSlip f s).rigger = s.rigger ∧
    (modSlip f s).free = s.free ∧ (modSlip f s).safePending = s.safePending ∧ (modSlip f s).pres = s.pres ∧ (modSlip f s).hda = s.hda ∧
    (modSlip f s).cal = s.cal ∧ (modSlip f s).rudders = s.rudders ∧ (modSlip f s).couple = s.couple ∧ (modSlip f s).tunes = s.tunes ∧
    (modSlip f s).oars = s.oars ∧ (modSlip f s).sweep = s.sweep ∧ (modSlip f s).gates = s.gates ∧ (modSlip f s).ucode = s.ucode ∧
    (modSlip f s).returned = s.returned ∧ (modSlip f s).consumed = s.consumed ∧ (modSlip f s).mem = s.mem ∧
    (modSlip f s).checks = s.checks ∧ (modSlip f s).drams = s.drams ∧ (modSlip f s).boat = s.boat ∧ (modSlip f s).cache = s.cache ∧
    (modSlip f s).scrub = s.scrub ∧ (modSlip f s).crew = s.crew ∧ (modSlip f s).power = s.power ∧ (modSlip f s).safe = s.safe ∧
    (modSlip f s).otp = s.otp ∧ (modSlip f s).keys = s.keys ∧ (modSlip f s).cryptos = s.cryptos ∧ (modSlip f s).chip = s.chip ∧
    (modSlip f s).ump = s.ump ∧ (modSlip f s).dbg = s.dbg ∧ (modSlip f s).smbus = s.smbus ∧ (modSlip f s).pending = s.pending := by
  simp only [and_self, modSlip]

@[simp] theorem modSweep_frame (f : Sweep → Sweep) (s : State) :
    (modSweep f s).part4820 = s.part4820 ∧ (modSweep f s).time = s.time ∧ (modSweep f s).regs = s.regs ∧
    (modSweep f s).rwlShadow = s.rwlShadow ∧ (modSweep f s).bus = s.bus ∧ (modSweep f s).clocks = s.clocks ∧
    (modSweep f s).strokes = s.strokes ∧ (modSweep f s).seen = s.seen ∧ (modSweep f s).fabric = s.fabric ∧
    (modSweep f s).targets = s.targets ∧ (modSweep f s).leaks = s.leaks ∧ (modSweep f s).crit = s.crit ∧
    (modSweep f s).queues = s.queues ∧ (modSweep f s).ended = s.ended ∧ (modSweep f s).stopped = s.stopped ∧
    (modSweep f s).keel = s.keel ∧ (modSweep f s).rigger = s.rigger ∧ (modSweep f s).free = s.free ∧
    (modSweep f s).safePending = s.safePending ∧ (modSweep f s).pres = s.pres ∧ (modSweep f s).hda = s.hda ∧ (modSweep f s).cal = s.cal ∧
    (modSweep f s).rudders = s.rudders ∧ (modSweep f s).couple = s.couple ∧ (modSweep f s).tunes = s.tunes ∧
    (modSweep f s).oars = s.oars ∧ (modSweep f s).gates = s.gates ∧ (modSweep f s).ucode = s.ucode ∧
    (modSweep f s).returned = s.returned ∧ (modSweep f s).consumed = s.consumed ∧ (modSweep f s).mem = s.mem ∧
    (modSweep f s).checks = s.checks ∧ (modSweep f s).drams = s.drams ∧ (modSweep f s).boat = s.boat ∧ (modSweep f s).cache = s.cache ∧
    (modSweep f s).scrub = s.scrub ∧ (modSweep f s).crew = s.crew ∧ (modSweep f s).slip = s.slip ∧ (modSweep f s).power = s.power ∧
    (modSweep f s).safe = s.safe ∧ (modSweep f s).otp = s.otp ∧ (modSweep f s).keys = s.keys ∧ (modSweep f s).cryptos = s.cryptos ∧
    (modSweep f s).chip = s.chip ∧ (modSweep f s).ump = s.ump ∧ (modSweep f s).dbg = s.dbg ∧ (modSweep f s).smbus = s.smbus ∧
    (modSweep f s).pending = s.pending := by
  simp only [and_self, modSweep]

@[simp] theorem modTune_frame (p : Nat) (f : Tune → Tune) (s : State) :
    (modTune p f s).part4820 = s.part4820 ∧ (modTune p f s).time = s.time ∧ (modTune p f s).regs = s.regs ∧
    (modTune p f s).rwlShadow = s.rwlShadow ∧ (modTune p f s).bus = s.bus ∧ (modTune p f s).clocks = s.clocks ∧
    (modTune p f s).strokes = s.strokes ∧ (modTune p f s).seen = s.seen ∧ (modTune p f s).fabric = s.fabric ∧
    (modTune p f s).targets = s.targets ∧ (modTune p f s).leaks = s.leaks ∧ (modTune p f s).crit = s.crit ∧
    (modTune p f s).queues = s.queues ∧ (modTune p f s).ended = s.ended ∧ (modTune p f s).stopped = s.stopped ∧
    (modTune p f s).keel = s.keel ∧ (modTune p f s).rigger = s.rigger ∧ (modTune p f s).free = s.free ∧
    (modTune p f s).safePending = s.safePending ∧ (modTune p f s).pres = s.pres ∧ (modTune p f s).hda = s.hda ∧
    (modTune p f s).cal = s.cal ∧ (modTune p f s).rudders = s.rudders ∧ (modTune p f s).couple = s.couple ∧
    (modTune p f s).oars = s.oars ∧ (modTune p f s).sweep = s.sweep ∧ (modTune p f s).gates = s.gates ∧ (modTune p f s).ucode = s.ucode ∧
    (modTune p f s).returned = s.returned ∧ (modTune p f s).consumed = s.consumed ∧ (modTune p f s).mem = s.mem ∧
    (modTune p f s).checks = s.checks ∧ (modTune p f s).drams = s.drams ∧ (modTune p f s).boat = s.boat ∧
    (modTune p f s).cache = s.cache ∧ (modTune p f s).scrub = s.scrub ∧ (modTune p f s).crew = s.crew ∧ (modTune p f s).slip = s.slip ∧
    (modTune p f s).power = s.power ∧ (modTune p f s).safe = s.safe ∧ (modTune p f s).otp = s.otp ∧ (modTune p f s).keys = s.keys ∧
    (modTune p f s).cryptos = s.cryptos ∧ (modTune p f s).chip = s.chip ∧ (modTune p f s).ump = s.ump ∧ (modTune p f s).dbg = s.dbg ∧
    (modTune p f s).smbus = s.smbus ∧ (modTune p f s).pending = s.pending := by
  simp only [and_self, modTune]

@[simp] theorem modUcode_frame (f : Ucode → Ucode) (s : State) :
    (modUcode f s).part4820 = s.part4820 ∧ (modUcode f s).time = s.time ∧ (modUcode f s).regs = s.regs ∧
    (modUcode f s).rwlShadow = s.rwlShadow ∧ (modUcode f s).bus = s.bus ∧ (modUcode f s).clocks = s.clocks ∧
    (modUcode f s).strokes = s.strokes ∧ (modUcode f s).seen = s.seen ∧ (modUcode f s).fabric = s.fabric ∧
    (modUcode f s).targets = s.targets ∧ (modUcode f s).leaks = s.leaks ∧ (modUcode f s).crit = s.crit ∧
    (modUcode f s).queues = s.queues ∧ (modUcode f s).ended = s.ended ∧ (modUcode f s).stopped = s.stopped ∧
    (modUcode f s).keel = s.keel ∧ (modUcode f s).rigger = s.rigger ∧ (modUcode f s).free = s.free ∧
    (modUcode f s).safePending = s.safePending ∧ (modUcode f s).pres = s.pres ∧ (modUcode f s).hda = s.hda ∧ (modUcode f s).cal = s.cal ∧
    (modUcode f s).rudders = s.rudders ∧ (modUcode f s).couple = s.couple ∧ (modUcode f s).tunes = s.tunes ∧
    (modUcode f s).oars = s.oars ∧ (modUcode f s).sweep = s.sweep ∧ (modUcode f s).gates = s.gates ∧
    (modUcode f s).returned = s.returned ∧ (modUcode f s).consumed = s.consumed ∧ (modUcode f s).mem = s.mem ∧
    (modUcode f s).checks = s.checks ∧ (modUcode f s).drams = s.drams ∧ (modUcode f s).boat = s.boat ∧ (modUcode f s).cache = s.cache ∧
    (modUcode f s).scrub = s.scrub ∧ (modUcode f s).crew = s.crew ∧ (modUcode f s).slip = s.slip ∧ (modUcode f s).power = s.power ∧
    (modUcode f s).safe = s.safe ∧ (modUcode f s).otp = s.otp ∧ (modUcode f s).keys = s.keys ∧ (modUcode f s).cryptos = s.cryptos ∧
    (modUcode f s).chip = s.chip ∧ (modUcode f s).ump = s.ump ∧ (modUcode f s).dbg = s.dbg ∧ (modUcode f s).smbus = s.smbus ∧
    (modUcode f s).pending = s.pending := by
  simp only [and_self, modUcode]

@[simp] theorem modUmp_frame (f : Umpire → Umpire) (s : State) :
    (modUmp f s).part4820 = s.part4820 ∧ (modUmp f s).time = s.time ∧ (modUmp f s).regs = s.regs ∧ (modUmp f s).rwlShadow = s.rwlShadow ∧
    (modUmp f s).bus = s.bus ∧ (modUmp f s).clocks = s.clocks ∧ (modUmp f s).strokes = s.strokes ∧ (modUmp f s).seen = s.seen ∧
    (modUmp f s).fabric = s.fabric ∧ (modUmp f s).targets = s.targets ∧ (modUmp f s).leaks = s.leaks ∧ (modUmp f s).crit = s.crit ∧
    (modUmp f s).queues = s.queues ∧ (modUmp f s).ended = s.ended ∧ (modUmp f s).stopped = s.stopped ∧ (modUmp f s).keel = s.keel ∧
    (modUmp f s).rigger = s.rigger ∧ (modUmp f s).free = s.free ∧ (modUmp f s).safePending = s.safePending ∧ (modUmp f s).pres = s.pres ∧
    (modUmp f s).hda = s.hda ∧ (modUmp f s).cal = s.cal ∧ (modUmp f s).rudders = s.rudders ∧ (modUmp f s).couple = s.couple ∧
    (modUmp f s).tunes = s.tunes ∧ (modUmp f s).oars = s.oars ∧ (modUmp f s).sweep = s.sweep ∧ (modUmp f s).gates = s.gates ∧
    (modUmp f s).ucode = s.ucode ∧ (modUmp f s).returned = s.returned ∧ (modUmp f s).consumed = s.consumed ∧ (modUmp f s).mem = s.mem ∧
    (modUmp f s).checks = s.checks ∧ (modUmp f s).drams = s.drams ∧ (modUmp f s).boat = s.boat ∧ (modUmp f s).cache = s.cache ∧
    (modUmp f s).scrub = s.scrub ∧ (modUmp f s).crew = s.crew ∧ (modUmp f s).slip = s.slip ∧ (modUmp f s).power = s.power ∧
    (modUmp f s).safe = s.safe ∧ (modUmp f s).otp = s.otp ∧ (modUmp f s).keys = s.keys ∧ (modUmp f s).cryptos = s.cryptos ∧
    (modUmp f s).chip = s.chip ∧ (modUmp f s).dbg = s.dbg ∧ (modUmp f s).smbus = s.smbus ∧ (modUmp f s).pending = s.pending := by
  simp only [and_self, modUmp]

end Sys2Proof.Machine
end

