-- ==== Sys2Proof/Laws/Store.lean ====
section
/-! SUPPORT. The laws of sparse maps and of bit fields, and with them those of registers and memory: a read after a write, and the
canonical form. -/

namespace Sys2Proof

/-! ### Sparse maps -/

variable {α : Type}

theorem SMap.get_erase (d : Nat → α) (m : SMap α) (k j : Nat) :
    SMap.get d (SMap.erase m k) j = if j = k then d j else SMap.get d m j := by
  induction m with
  | nil => simp [SMap.erase, SMap.get]
  | cons e m ih =>
    obtain ⟨i, v⟩ := e
    by_cases hk : k = i
    · subst hk
      by_cases hj : j = k
      · subst hj; simpa [SMap.erase, SMap.get] using ih
      · simp [SMap.erase, SMap.get, ih, hj]
    · by_cases hj : j = k
      · subst hj; simp [SMap.erase, SMap.get, ih, hk]
      · simp [SMap.erase, SMap.get, ih, hk, hj]

theorem SMap.get_insert (d : Nat → α) (m : SMap α) (k : Nat) (v : α) (j : Nat) :
    SMap.get d (SMap.insert m k v) j = if j = k then v else SMap.get d m j := by
  induction m with
  | nil => simp [SMap.insert, SMap.get]
  | cons e m ih =>
    obtain ⟨i, w⟩ := e
    by_cases h1 : k < i
    · simp [SMap.insert, SMap.get, h1]
    · by_cases h2 : k = i
      · subst h2; by_cases hj : j = k <;> simp [SMap.insert, SMap.get, hj]
      · by_cases hj : j = k
        · subst hj; simp [SMap.insert, SMap.get, h1, h2, ih]
        · simp [SMap.insert, SMap.get, h1, h2, ih, hj]

/-- A read after a write: the value written at its key, the old value at every other. -/
theorem SMap.get_set [DecidableEq α] (d : Nat → α) (m : SMap α) (k : Nat) (v : α) (j : Nat) :
    SMap.get d (SMap.set d m k v) j = if j = k then v else SMap.get d m j := by
  unfold SMap.set
  split
  · rename_i h; subst h; rw [SMap.get_erase]; split <;> simp_all
  · exact SMap.get_insert d m k v j

theorem SMap.mem_erase (m : SMap α) (k : Nat) (e : Nat × α) (h : e ∈ SMap.erase m k) : e ∈ m := by
  induction m with
  | nil => simp [SMap.erase] at h
  | cons x m ih =>
    obtain ⟨i, v⟩ := x
    simp only [SMap.erase] at h
    split at h
    · exact List.mem_cons_of_mem _ (ih h)
    · rcases List.mem_cons.1 h with h | h
      · simp [h]
      · exact List.mem_cons_of_mem _ (ih h)

theorem SMap.mem_insert (m : SMap α) (k : Nat) (v : α) (e : Nat × α) (h : e ∈ SMap.insert m k v) : e = (k, v) ∨ e ∈ m := by
  induction m with
  | nil => simp [SMap.insert] at h; exact .inl h
  | cons x m ih =>
    obtain ⟨i, w⟩ := x
    simp only [SMap.insert] at h
    split at h
    · simp only [List.mem_cons] at h ⊢; tauto
    · split at h
      · simp only [List.mem_cons] at h ⊢; tauto
      · simp only [List.mem_cons] at h ⊢
        rcases h with h | h
        · tauto
        · rcases ih h with h | h <;> tauto

variable [DecidableEq α]

theorem SMap.wf_cons (d : Nat → α) (i : Nat) (v : α) (m : SMap α) :
    SMap.wf d ((i, v) :: m) = true ↔ v ≠ d i ∧ (∀ e ∈ m, i < e.1) ∧ SMap.wf d m = true := by
  simp [SMap.wf, Bool.and_eq_true, and_assoc]

theorem SMap.wf_erase (d : Nat → α) (m : SMap α) (k : Nat) (h : SMap.wf d m = true) : SMap.wf d (SMap.erase m k) = true := by
  induction m with
  | nil => rfl
  | cons e m ih =>
    obtain ⟨i, v⟩ := e
    rw [SMap.wf_cons] at h
    by_cases hk : k = i
    · simp only [SMap.erase, hk, if_true]; subst hk; exact ih h.2.2
    · simp only [SMap.erase, hk, if_false]
      rw [SMap.wf_cons]
      exact ⟨h.1, fun e he => h.2.1 e (SMap.mem_erase m k e he), ih h.2.2⟩

theorem SMap.wf_insert (d : Nat → α) (m : SMap α) (k : Nat) (v : α) (hv : v ≠ d k) (h : SMap.wf d m = true) :
    SMap.wf d (SMap.insert m k v) = true := by
  induction m with
  | nil => simp [SMap.insert, SMap.wf, hv]
  | cons e m ih =>
    obtain ⟨i, w⟩ := e
    have h' := (SMap.wf_cons d i w m).1 h
    by_cases h1 : k < i
    · simp only [SMap.insert, h1, if_true]
      rw [SMap.wf_cons]
      refine ⟨hv, fun e he => ?_, h⟩
      rcases List.mem_cons.1 he with rfl | he
      · exact h1
      · exact Nat.lt_trans h1 (h'.2.1 e he)
    · by_cases h2 : k = i
      · subst h2; simp only [SMap.insert, Nat.lt_irrefl, if_false, if_true]
        rw [SMap.wf_cons]; exact ⟨hv, h'.2.1, h'.2.2⟩
      · simp only [SMap.insert, h1, h2, if_false]
        rw [SMap.wf_cons]
        refine ⟨h'.1, fun e he => ?_, ih h'.2.2⟩
        rcases SMap.mem_insert m k v e he with rfl | he
        · simp only; omega
        · exact h'.2.1 e he

/-- A write keeps the canonical form. -/
theorem SMap.wf_set (d : Nat → α) (m : SMap α) (k : Nat) (v : α) (h : SMap.wf d m = true) : SMap.wf d (SMap.set d m k v) = true := by
  unfold SMap.set
  split
  · exact SMap.wf_erase d m k h
  · exact SMap.wf_insert d m k v (by assumption) h

/-- Keeping some of the entries keeps the canonical form. -/
theorem SMap.wf_keep (d : Nat → α) (p : Nat → Bool) (m : SMap α) (h : SMap.wf d m = true) : SMap.wf d (SMap.keep p m) = true := by
  induction m with
  | nil => rfl
  | cons e m ih =>
    obtain ⟨i, v⟩ := e
    have h' := (SMap.wf_cons d i v m).1 h
    unfold SMap.keep at *
    rw [List.filter_cons]
    split
    · rw [SMap.wf_cons]
      exact ⟨h'.1, fun e he => h'.2.1 e (List.mem_of_mem_filter he), ih h'.2.2⟩
    · exact ih h'.2.2

/-! ### Bit fields -/

theorem bit_setBit (w : Word) (i j : Nat) (b : Bool) (hi : i < 32) : bit (setBit w i b) j = if j = i then b else bit w j := by
  unfold bit setBit setFld maskOf
  have e : i + 1 - i = 1 := by omega
  by_cases h : j < 32
  · simp only [BitVec.getLsbD_or, BitVec.getLsbD_and, BitVec.getLsbD_not, h, decide_true, Bool.true_and, e, pow_one, BitVec.getLsbD_ofNat,
      Nat.add_one_sub_one, one_mul]
    by_cases hj : j = i
    · subst hj; cases b <;> simp [Nat.testBit_two_pow_self]
    · have hij : (2 ^ i).testBit j = false := by rw [Nat.testBit_two_pow]; simp; omega
      cases b <;> simp [hj, hij]
  · have h2 : j ≠ i := by omega
    rw [if_neg h2, BitVec.getLsbD_of_ge _ _ (by omega), BitVec.getLsbD_of_ge _ _ (by omega)]

theorem toNat_maskOf_testBit (hi lo j : Nat) : (maskOf hi lo).getLsbD j = (decide (j < 32) && decide (lo ≤ j) && decide (j - lo < hi + 1 - lo)) := by
  unfold maskOf
  rw [BitVec.getLsbD_ofNat, Nat.testBit_mul_two_pow]
  by_cases h : lo ≤ j <;> simp [h, Nat.testBit_two_pow_sub_one]

theorem getLsbD_setFld (w : Word) (hi lo v j : Nat) :
    (setFld w hi lo v).getLsbD j = if lo ≤ j ∧ j - lo < hi + 1 - lo then decide (j < 32) && v.testBit (j - lo) else w.getLsbD j := by
  unfold setFld
  rw [BitVec.getLsbD_or, BitVec.getLsbD_and, BitVec.getLsbD_not, toNat_maskOf_testBit, BitVec.getLsbD_ofNat, Nat.testBit_mul_two_pow]
  by_cases h32 : j < 32
  · by_cases h : lo ≤ j
    · by_cases h2 : j - lo < hi + 1 - lo <;> simp [h32, h, h2, Nat.testBit_mod_two_pow]
    · simp [h32, h]
  · rw [BitVec.getLsbD_of_ge w j (by omega)]; simp [h32]

theorem testBit_fld (w : Word) (hi lo j : Nat) : (fld w hi lo).testBit j = (decide (j < hi + 1 - lo) && w.getLsbD (lo + j)) := by
  unfold fld
  rw [Nat.testBit_mod_two_pow, Nat.testBit_div_two_pow, Nat.add_comm j lo]; rfl

/-- A field holds what was written to it, cut to its width. -/
theorem fld_setFld (w : Word) (hi lo v : Nat) (h : hi < 32) : fld (setFld w hi lo v) hi lo = v % 2 ^ (hi + 1 - lo) := by
  apply Nat.eq_of_testBit_eq
  intro j
  rw [testBit_fld, getLsbD_setFld, Nat.testBit_mod_two_pow]
  by_cases hj : j < hi + 1 - lo
  · have h1 : lo + j - lo < hi + 1 - lo := by omega
    have h2 : lo + j < 32 := by omega
    simp [hj, h2]
  · simp [hj]

/-- A field that lies apart keeps its value. -/
theorem fld_setFld_apart (w : Word) (hi lo v hi' lo' : Nat) (h : hi' < lo ∨ hi < lo') : fld (setFld w hi lo v) hi' lo' = fld w hi' lo' := by
  apply Nat.eq_of_testBit_eq
  intro j
  rw [testBit_fld, testBit_fld, getLsbD_setFld]
  by_cases hj : j < hi' + 1 - lo'
  · have : ¬ (lo ≤ lo' + j ∧ lo' + j - lo < hi + 1 - lo) := by omega
    simp [this]
  · simp [hj]

theorem bit_setFld_apart (w : Word) (hi lo v i : Nat) (h : i < lo ∨ hi < i) : bit (setFld w hi lo v) i = bit w i := by
  unfold bit
  rw [getLsbD_setFld]
  have : ¬ (lo ≤ i ∧ i - lo < hi + 1 - lo) := by omega
  simp [this]

end Sys2Proof

namespace Sys2Proof.Machine

/-! ### Registers -/

@[simp] theorem reg_setReg (s : State) (k j : Nat) (v : Word) : (s.setReg k v).reg j = if j = k then v else s.reg j :=
  SMap.get_set regReset s.regs k v j

theorem reg_setFld (s : State) (k j hi lo v : Nat) :
    (s.setFld k hi lo v).reg j = if j = k then Sys2Proof.setFld (s.reg k) hi lo v else s.reg j := reg_setReg s k j _

theorem reg_setBit (s : State) (k j i : Nat) (b : Bool) :
    (s.setBit k i b).reg j = if j = k then Sys2Proof.setBit (s.reg k) i b else s.reg j := reg_setReg s k j _

theorem reg_of_regs {s t : State} (h : t.regs = s.regs) (k : Nat) : t.reg k = s.reg k := by unfold State.reg; rw [h]

/-! ### Memory -/

/-- A byte written is the byte read, and every other byte stays. -/
@[simp] theorem byteAt_putByte (s : State) (a b : Nat) (v : Byte) : (s.putByte a v).byteAt b = if b = a then v else s.byteAt b :=
  SMap.get_set blankByte s.mem a v b

/-- Storing a byte keeps memory in its canonical form. -/
theorem putByte_wf (s : State) (a : Nat) (v : Byte) (h : Memory.wf s.mem = true) : Memory.wf (s.putByte a v).mem = true :=
  SMap.wf_set blankByte s.mem a v h

/-- Storing bytes keeps memory in its canonical form. -/
theorem putBytes_wf (bs : List Byte) : ∀ (s : State) (a : Nat), Memory.wf s.mem = true → Memory.wf (s.putBytes a bs).mem = true := by
  induction bs with
  | nil => intro s a h; exact h
  | cons b bs ih => intro s a h; exact ih _ _ (putByte_wf s a b h)

/-- Bytes outside those stored stay. -/
theorem byteAt_putBytes_apart (bs : List Byte) : ∀ (s : State) (a b : Nat), (b < a ∨ a + bs.length ≤ b) →
    (s.putBytes a bs).byteAt b = s.byteAt b := by
  induction bs with
  | nil => intro s a b _; rfl
  | cons x bs ih =>
    intro s a b h
    rw [State.putBytes, ih _ _ _ (by simp only [List.length_cons] at h; omega), byteAt_putByte, if_neg]
    simp only [List.length_cons] at h; omega

/-- Writing a register keeps the registers in their canonical form. -/
theorem setReg_wf (s : State) (k : Nat) (v : Word) (h : SMap.wf regReset s.regs = true) : SMap.wf regReset (s.setReg k v).regs = true :=
  SMap.wf_set regReset s.regs k v h

end Sys2Proof.Machine
end

