-- ==== Sys2Proof/Laws/Stays.lean ====
section
/-! SUPPORT. What an operation does at most: the pieces of the state it can change, and that it keeps the canonical form; and how such facts
compose. The files StaysX give the fact for each operation and meaning of Machine/X. -/

namespace Sys2Proof.Machine

/-- What an operation does at most: only the pieces `ps` differ, and canonical form is kept. -/
def Stays (ps : List Piece) (s t : State) : Prop := Within ps s t ∧ (Canonical s → Canonical t)

/-- Every piece of `qs` is one of `ps`. -/
def sub (qs ps : List Piece) : Bool := qs.all fun q => ps.contains q

theorem Piece.same_refl (p : Piece) (s : State) : p.same s s := by cases p <;> rfl

theorem Piece.same_trans {p : Piece} {s t u : State} (h : p.same s t) (g : p.same t u) : p.same s u := by
  cases p <;> exact Eq.trans g h

theorem Stays.refl (ps : List Piece) (s : State) : Stays ps s s := ⟨⟨rfl, rfl, fun p _ => p.same_refl s⟩, id⟩

/-- One operation after others. -/
theorem Stays.app {ps qs : List Piece} {s t u : State} (h : Stays ps s t) (g : Stays qs t u) (hq : sub qs ps = true) : Stays ps s u := by
  obtain ⟨⟨h1, h2, h3⟩, h4⟩ := h
  obtain ⟨⟨g1, g2, g3⟩, g4⟩ := g
  refine ⟨⟨g1.trans h1, g2.trans h2, fun p hp => Piece.same_trans (h3 p hp) (g3 p fun hm => hp ?_)⟩, g4 ∘ h4⟩
  simpa using List.all_eq_true.1 hq p hm

theorem Stays.set_time (s : State) (v : _) : Stays [.time] s { s with time := v } :=
  ⟨⟨rfl, rfl, fun p h0 => by cases p <;> first | rfl | exact absurd (by decide) h0⟩, id⟩

theorem Stays.set_regs (s : State) (v : _) (h : SMap.wf regReset s.regs = true → SMap.wf regReset v = true) : Stays [.regs] s { s with regs := v } :=
  ⟨⟨rfl, rfl, fun p h0 => by cases p <;> first | rfl | exact absurd (by decide) h0⟩, fun c => ⟨c.1, h c.2⟩⟩

theorem Stays.set_rwlShadow (s : State) (v : _) : Stays [.rwlShadow] s { s with rwlShadow := v } :=
  ⟨⟨rfl, rfl, fun p h0 => by cases p <;> first | rfl | exact absurd (by decide) h0⟩, id⟩

theorem Stays.set_bus (s : State) (v : _) : Stays [.bus] s { s with bus := v } :=
  ⟨⟨rfl, rfl, fun p h0 => by cases p <;> first | rfl | exact absurd (by decide) h0⟩, id⟩

theorem Stays.set_seen (s : State) (v : _) : Stays [.seen] s { s with seen := v } :=
  ⟨⟨rfl, rfl, fun p h0 => by cases p <;> first | rfl | exact absurd (by decide) h0⟩, id⟩

theorem Stays.set_clocks (s : State) (v : _) : Stays [.clocks] s { s with clocks := v } :=
  ⟨⟨rfl, rfl, fun p h0 => by cases p <;> first | rfl | exact absurd (by decide) h0⟩, id⟩

theorem Stays.set_strokes (s : State) (v : _) : Stays [.strokes] s { s with strokes := v } :=
  ⟨⟨rfl, rfl, fun p h0 => by cases p <;> first | rfl | exact absurd (by decide) h0⟩, id⟩

theorem Stays.set_fabric (s : State) (v : _) : Stays [.fabric] s { s with fabric := v } :=
  ⟨⟨rfl, rfl, fun p h0 => by cases p <;> first | rfl | exact absurd (by decide) h0⟩, id⟩

theorem Stays.set_targets (s : State) (v : _) : Stays [.targets] s { s with targets := v } :=
  ⟨⟨rfl, rfl, fun p h0 => by cases p <;> first | rfl | exact absurd (by decide) h0⟩, id⟩

theorem Stays.set_leaks (s : State) (v : _) : Stays [.leaks] s { s with leaks := v } :=
  ⟨⟨rfl, rfl, fun p h0 => by cases p <;> first | rfl | exact absurd (by decide) h0⟩, id⟩

theorem Stays.set_crit (s : State) (v : _) : Stays [.crit] s { s with crit := v } :=
  ⟨⟨rfl, rfl, fun p h0 => by cases p <;> first | rfl | exact absurd (by decide) h0⟩, id⟩

theorem Stays.set_queues (s : State) (v : _) : Stays [.queues] s { s with queues := v } :=
  ⟨⟨rfl, rfl, fun p h0 => by cases p <;> first | rfl | exact absurd (by decide) h0⟩, id⟩

theorem Stays.set_ended (s : State) (v : _) : Stays [.ended] s { s with ended := v } :=
  ⟨⟨rfl, rfl, fun p h0 => by cases p <;> first | rfl | exact absurd (by decide) h0⟩, id⟩

theorem Stays.set_stopped (s : State) (v : _) : Stays [.stopped] s { s with stopped := v } :=
  ⟨⟨rfl, rfl, fun p h0 => by cases p <;> first | rfl | exact absurd (by decide) h0⟩, id⟩

theorem Stays.set_keel (s : State) (v : _) : Stays [.keel] s { s with keel := v } :=
  ⟨⟨rfl, rfl, fun p h0 => by cases p <;> first | rfl | exact absurd (by decide) h0⟩, id⟩

theorem Stays.set_rigger (s : State) (v : _) : Stays [.rigger] s { s with rigger := v } :=
  ⟨⟨rfl, rfl, fun p h0 => by cases p <;> first | rfl | exact absurd (by decide) h0⟩, id⟩

theorem Stays.set_free (s : State) (v : _) : Stays [.free] s { s with free := v } :=
  ⟨⟨rfl, rfl, fun p h0 => by cases p <;> first | rfl | exact absurd (by decide) h0⟩, id⟩

theorem Stays.set_safePending (s : State) (v : _) : Stays [.safePending] s { s with safePending := v } :=
  ⟨⟨rfl, rfl, fun p h0 => by cases p <;> first | rfl | exact absurd (by decide) h0⟩, id⟩

theorem Stays.set_pres (s : State) (v : _) : Stays [.pres] s { s with pres := v } :=
  ⟨⟨rfl, rfl, fun p h0 => by cases p <;> first | rfl | exact absurd (by decide) h0⟩, id⟩

theorem Stays.set_hda (s : State) (v : _) : Stays [.hda] s { s with hda := v } :=
  ⟨⟨rfl, rfl, fun p h0 => by cases p <;> first | rfl | exact absurd (by decide) h0⟩, id⟩

theorem Stays.set_cal (s : State) (v : _) : Stays [.cal] s { s with cal := v } :=
  ⟨⟨rfl, rfl, fun p h0 => by cases p <;> first | rfl | exact absurd (by decide) h0⟩, id⟩

theorem Stays.set_rudders (s : State) (v : _) : Stays [.rudders] s { s with rudders := v } :=
  ⟨⟨rfl, rfl, fun p h0 => by cases p <;> first | rfl | exact absurd (by decide) h0⟩, id⟩

theorem Stays.set_couple (s : State) (v : _) : Stays [.couple] s { s with couple := v } :=
  ⟨⟨rfl, rfl, fun p h0 => by cases p <;> first | rfl | exact absurd (by decide) h0⟩, id⟩

theorem Stays.set_tunes (s : State) (v : _) : Stays [.tunes] s { s with tunes := v } :=
  ⟨⟨rfl, rfl, fun p h0 => by cases p <;> first | rfl | exact absurd (by decide) h0⟩, id⟩

theorem Stays.set_oars (s : State) (v : _) : Stays [.oars] s { s with oars := v } :=
  ⟨⟨rfl, rfl, fun p h0 => by cases p <;> first | rfl | exact absurd (by decide) h0⟩, id⟩

theorem Stays.set_sweep (s : State) (v : _) : Stays [.sweep] s { s with sweep := v } :=
  ⟨⟨rfl, rfl, fun p h0 => by cases p <;> first | rfl | exact absurd (by decide) h0⟩, id⟩

theorem Stays.set_gates (s : State) (v : _) : Stays [.gates] s { s with gates := v } :=
  ⟨⟨rfl, rfl, fun p h0 => by cases p <;> first | rfl | exact absurd (by decide) h0⟩, id⟩

theorem Stays.set_ucode (s : State) (v : _) : Stays [.ucode] s { s with ucode := v } :=
  ⟨⟨rfl, rfl, fun p h0 => by cases p <;> first | rfl | exact absurd (by decide) h0⟩, id⟩

theorem Stays.set_returned (s : State) (v : _) : Stays [.returned] s { s with returned := v } :=
  ⟨⟨rfl, rfl, fun p h0 => by cases p <;> first | rfl | exact absurd (by decide) h0⟩, id⟩

theorem Stays.set_consumed (s : State) (v : _) : Stays [.consumed] s { s with consumed := v } :=
  ⟨⟨rfl, rfl, fun p h0 => by cases p <;> first | rfl | exact absurd (by decide) h0⟩, id⟩

theorem Stays.set_mem (s : State) (v : _) (h : Memory.wf s.mem = true → Memory.wf v = true) : Stays [.mem] s { s with mem := v } :=
  ⟨⟨rfl, rfl, fun p h0 => by cases p <;> first | rfl | exact absurd (by decide) h0⟩, fun c => ⟨h c.1, c.2⟩⟩

theorem Stays.set_checks (s : State) (v : _) : Stays [.checks] s { s with checks := v } :=
  ⟨⟨rfl, rfl, fun p h0 => by cases p <;> first | rfl | exact absurd (by decide) h0⟩, id⟩

theorem Stays.set_drams (s : State) (v : _) : Stays [.drams] s { s with drams := v } :=
  ⟨⟨rfl, rfl, fun p h0 => by cases p <;> first | rfl | exact absurd (by decide) h0⟩, id⟩

theorem Stays.set_boat (s : State) (v : _) : Stays [.boat] s { s with boat := v } :=
  ⟨⟨rfl, rfl, fun p h0 => by cases p <;> first | rfl | exact absurd (by decide) h0⟩, id⟩

theorem Stays.set_cache (s : State) (v : _) : Stays [.cache] s { s with cache := v } :=
  ⟨⟨rfl, rfl, fun p h0 => by cases p <;> first | rfl | exact absurd (by decide) h0⟩, id⟩

theorem Stays.set_scrub (s : State) (v : _) : Stays [.scrub] s { s with scrub := v } :=
  ⟨⟨rfl, rfl, fun p h0 => by cases p <;> first | rfl | exact absurd (by decide) h0⟩, id⟩

theorem Stays.set_crew (s : State) (v : _) : Stays [.crew] s { s with crew := v } :=
  ⟨⟨rfl, rfl, fun p h0 => by cases p <;> first | rfl | exact absurd (by decide) h0⟩, id⟩

theorem Stays.set_slip (s : State) (v : _) : Stays [.slip] s { s with slip := v } :=
  ⟨⟨rfl, rfl, fun p h0 => by cases p <;> first | rfl | exact absurd (by decide) h0⟩, id⟩

theorem Stays.set_power (s : State) (v : _) : Stays [.power] s { s with power := v } :=
  ⟨⟨rfl, rfl, fun p h0 => by cases p <;> first | rfl | exact absurd (by decide) h0⟩, id⟩

theorem Stays.set_safe (s : State) (v : _) : Stays [.safe] s { s with safe := v } :=
  ⟨⟨rfl, rfl, fun p h0 => by cases p <;> first | rfl | exact absurd (by decide) h0⟩, id⟩

theorem Stays.set_otp (s : State) (v : _) : Stays [.otp] s { s with otp := v } :=
  ⟨⟨rfl, rfl, fun p h0 => by cases p <;> first | rfl | exact absurd (by decide) h0⟩, id⟩

theorem Stays.set_keys (s : State) (v : _) : Stays [.keys] s { s with keys := v } :=
  ⟨⟨rfl, rfl, fun p h0 => by cases p <;> first | rfl | exact absurd (by decide) h0⟩, id⟩

theorem Stays.set_cryptos (s : State) (v : _) : Stays [.cryptos] s { s with cryptos := v } :=
  ⟨⟨rfl, rfl, fun p h0 => by cases p <;> first | rfl | exact absurd (by decide) h0⟩, id⟩

theorem Stays.set_chip (s : State) (v : _) : Stays [.chip] s { s with chip := v } :=
  ⟨⟨rfl, rfl, fun p h0 => by cases p <;> first | rfl | exact absurd (by decide) h0⟩, id⟩

theorem Stays.set_ump (s : State) (v : _) : Stays [.ump] s { s with ump := v } :=
  ⟨⟨rfl, rfl, fun p h0 => by cases p <;> first | rfl | exact absurd (by decide) h0⟩, id⟩

theorem Stays.set_dbg (s : State) (v : _) : Stays [.dbg] s { s with dbg := v } :=
  ⟨⟨rfl, rfl, fun p h0 => by cases p <;> first | rfl | exact absurd (by decide) h0⟩, id⟩

theorem Stays.set_smbus (s : State) (v : _) : Stays [.smbus] s { s with smbus := v } :=
  ⟨⟨rfl, rfl, fun p h0 => by cases p <;> first | rfl | exact absurd (by decide) h0⟩, id⟩

theorem Stays.ite {ps : List Piece} {s t u : State} {c : Prop} [Decidable c] (h : Stays ps s t) (g : Stays ps s u) :
    Stays ps s (if c then t else u) := by split <;> assumption

theorem Stays.snd {α : Type} {ps : List Piece} {s t : State} {a : α} {x : α × State} (h : x = (a, t)) (g : Stays ps s x.2) :
    Stays ps s t := by subst h; exact g

theorem Stays.snd3 {α β : Type} {ps : List Piece} {s t : State} {a : α} {b : β} {x : α × β × State} (h : x = (a, b, t))
    (g : Stays ps s x.2.2) : Stays ps s t := by subst h; exact g

theorem Stays.fst {α : Type} {ps : List Piece} {s t : State} {a : α} {x : State × α} (h : x = (t, a)) (g : Stays ps s x.1) :
    Stays ps s t := by subst h; exact g

theorem Stays.foldl {α : Type} {ps : List Piece} {s t : State} (l : List α) (f : State → α → State)
    (hf : ∀ u x, Stays ps s u → Stays ps s (f u x)) (h : Stays ps s t) : Stays ps s (l.foldl f t) :=
  List.foldlRecOn (motive := Stays ps s) l f h fun u hu x _ => hf u x hu

theorem Stays.foldlBy {α β : Type} {ps : List Piece} {s : State} (l : List α) (st : β → State) (f : β → α → β) (x : β)
    (hf : ∀ u a, Stays ps s (st u) → Stays ps s (st (f u a))) (h : Stays ps s (st x)) : Stays ps s (st (l.foldl f x)) :=
  List.foldlRecOn (motive := fun y => Stays ps s (st y)) l f h fun u hu a _ => hf u a hu

/-- The same for a pass that may break off. -/
theorem Stays.foldlOpt {α : Type} {ps : List Piece} {s t : State} (l : List α) (f : State → α → Option State)
    (hf : ∀ u a v, Stays ps s u → f u a = some v → Stays ps s v) (h : Stays ps s t) :
    ∀ r, l.foldl (fun x a => x.bind fun u => f u a) (some t) = some r → Stays ps s r :=
  List.foldlRecOn (motive := fun o => ∀ r, o = some r → Stays ps s r) l _ (fun _ e => Option.some.inj e ▸ h) fun _ hu a _ r e =>
    let ⟨v, hv, hr⟩ := Option.bind_eq_some_iff.1 e
    hf v a r (hu v hv) hr

theorem Stays.foldr {α : Type} {ps : List Piece} {s t : State} (l : List α) (f : α → State → State)
    (hf : ∀ u x, Stays ps s u → Stays ps s (f x u)) (h : Stays ps s t) : Stays ps s (l.foldr f t) :=
  List.foldrRecOn (motive := Stays ps s) l f h fun u hu x _ => hf u x hu

theorem Stays.getD {ps : List Piece} {s t : State} {o : Option State} (ho : ∀ r, o = some r → Stays ps s r) (h : Stays ps s t) :
    Stays ps s (o.getD t) := by
  cases o with
  | none => exact h
  | some r => exact ho r rfl

theorem Stays.elim {α : Type} {ps : List Piece} {s t : State} {o : Option α} {f : α → State}
    (ho : ∀ r, o = some r → Stays ps s (f r)) (h : Stays ps s t) : Stays ps s (o.elim t f) := by
  cases o with
  | none => exact h
  | some r => exact ho r rfl

theorem Stays.sndBy {α β : Type} {ps : List Piece} {s : State} (g : β → State) {a : α} {y : β} {x : α × β} (h : x = (a, y))
    (hx : Stays ps s (g x.2)) : Stays ps s (g y) := by subst h; exact hx

/-! An answer beside other values. -/

theorem Stays.pair {α : Type} {ps : List Piece} {s t : State} {a : α} (h : Stays ps s t) : Stays ps s (a, t).2 := h

theorem Stays.pairFst {α : Type} {ps : List Piece} {s t : State} {a : α} (h : Stays ps s t) : Stays ps s (t, a).1 := h

theorem Stays.triple {α β : Type} {ps : List Piece} {s t : State} {a : α} {b : β} (h : Stays ps s t) : Stays ps s (a, b, t).2.2 := h

theorem Stays.quad {α β γ : Type} {ps : List Piece} {s t : State} {a : α} {b : β} {c : γ} (h : Stays ps s t) :
    Stays ps s (a, b, c, t).2.2.2 := h

theorem Stays.when {ps : List Piece} {s t : State} (c : Bool) (f : State → State) (hf : ∀ u, Stays ps s u → Stays ps s (f u))
    (h : Stays ps s t) : Stays ps s (t.when c f) := by
  unfold State.when; split
  · exact hf t h
  · exact h

theorem sub_refl (a : List Piece) : sub a a = true := by simp [sub]

/-- What a meaning does at most, when it answers a next state. -/
structure Answers (ps : List Piece) (s : State) (o : Host.Outcome State Fault Refusal) : Prop where
  stays : ∀ t, o = .next t → Stays ps s t

theorem Answers.next {ps : List Piece} {s t : State} (h : Stays ps s t) : Answers ps s (.next t) := ⟨fun _ e => by cases e; exact h⟩

theorem Answers.ite {ps : List Piece} {s : State} {a b : Host.Outcome State Fault Refusal} {c : Prop} [Decidable c] (h : Answers ps s a)
    (g : Answers ps s b) : Answers ps s (if c then a else b) := by split <;> assumption

theorem Answers.app {ps qs : List Piece} {s t : State} {o : Host.Outcome State Fault Refusal} (h : Stays ps s t) (g : Answers qs t o)
    (hq : sub qs ps = true) : Answers ps s o := ⟨fun u e => h.app (g.stays u e) hq⟩

theorem sub_trans {a b c : List Piece} (h : sub a b = true) (g : sub b c = true) : sub a c = true := by
  simp only [sub, List.all_eq_true, List.contains_iff_mem] at *
  exact fun x hx => g x (h x hx)

end Sys2Proof.Machine
end

