-- ==== Sys2Proof/Laws/StaysOps.lean ====
section
/-! SUPPORT. What the operations and meanings of Machine/Ops do at most. -/

set_option linter.all false
set_option maxRecDepth 4000

namespace Sys2Proof.Machine

theorem State.setReg_stays (s : State) (k : Nat) (v : Word) :
    Stays [.regs] s (State.setReg s k v) := by
  unfold State.setReg
  refine .app ?_ (.set_regs _ _ fun h => SMap.wf_set _ _ _ _ h) (by decide)
  exact .refl ..

theorem State.setFld_stays (s : State) (k : Nat) (hi : Nat) (lo : Nat) (v : Nat) :
    Stays [.regs] s (State.setFld s k hi lo v) := by
  unfold State.setFld
  refine .app ?_ (State.setReg_stays ..) (by decide)
  exact .refl ..

theorem State.setBit_stays (s : State) (k : Nat) (i : Nat) (b : Bool) :
    Stays [.regs] s (State.setBit s k i b) := by
  unfold State.setBit
  refine .app ?_ (State.setReg_stays ..) (by decide)
  exact .refl ..

theorem State.count_stays (s : State) (k : Nat) (n : Nat) :
    Stays [.regs] s (State.count s k n) := by
  unfold State.count
  refine .app ?_ (State.setReg_stays ..) (by decide)
  exact .refl ..

theorem State.countFld_stays (s : State) (k : Nat) (hi : Nat) (lo : Nat) (n : Nat) :
    Stays [.regs] s (State.countFld s k hi lo n) := by
  unfold State.countFld
  refine .app ?_ (State.setFld_stays ..) (by decide)
  exact .refl ..

theorem State.mark_stays (s : State) (k : Nat) (hi : Nat) (lo : Nat) (n : Nat) :
    Stays [.regs] s (State.mark s k hi lo n) := by
  unfold State.mark
  refine .ite ?_ ?_
  · refine .app ?_ (State.setFld_stays ..) (by decide)
    exact .refl ..
  · exact .refl ..

theorem State.setReg64_stays (s : State) (lo : Nat) (n : Nat) :
    Stays [.regs] s (State.setReg64 s lo n) := by
  unfold State.setReg64
  refine .app ?_ (State.setReg_stays ..) (by decide)
  refine .app ?_ (State.setReg_stays ..) (by decide)
  exact .refl ..

theorem State.useFree_stays (s : State) :
    Stays [.free] s (State.useFree s) := by
  unfold State.useFree
  refine .app ?_ (.set_free _ _) (by decide)
  exact .refl ..

theorem State.send_stays (s : State) (m : Msg) :
    Stays [.fabric] s (State.send s m) := by
  unfold State.send
  refine .app ?_ (.set_fabric _ _) (by decide)
  exact .refl ..

theorem markEvent_stays (p : Nat) (k : Nat) (s : State) :
    Stays [.regs, .seen] s (markEvent p k s) := by
  unfold markEvent
  extract_lets -underBinder -merge -useContext +onlyGivenNames vsrc
  have h_vsrc : Stays [.regs, .seen] s vsrc := by
    dsimp -zeta only [vsrc]
    refine .app ?_ (State.setBit_stays ..) (by decide)
    exact .refl ..
  clear_value vsrc
  refine .app ?_ (.set_seen _ _) (by decide)
  exact h_vsrc

theorem raise_stays (p : Nat) (k : Nat) (sev : Nat) (code : Nat) (pl : Payload) (s : State) :
    Stays [.regs, .seen, .fabric] s (raise p k sev code pl s) := by
  unfold raise
  extract_lets -underBinder -merge -useContext +onlyGivenNames s1
  have h_s1 : Stays [.regs, .seen, .fabric] s s1 := by
    dsimp -zeta only [s1]
    refine .app ?_ (markEvent_stays ..) (by decide)
    exact .refl ..
  clear_value s1
  refine .ite ?_ ?_
  · refine .ite ?_ ?_
    · refine .app ?_ (State.send_stays ..) (by decide)
      exact h_s1
    · exact h_s1
  · exact .refl ..

theorem recordFault_stays (p : Nat) (sev : Nat) (source : Nat) (code : Nat) (s : State) :
    Stays [.regs] s (recordFault p sev source code s) := by
  unfold recordFault
  refine .ite ?_ ?_
  · exact .refl ..
  · refine .app ?_ (State.setBit_stays ..) (by decide)
    refine .app ?_ (State.setReg_stays ..) (by decide)
    exact .refl ..

theorem haltFault_stays (p : Nat) (source : Nat) (code : Nat) (s : State) :
    Stays [.regs, .stopped] s (haltFault p source code s) := by
  unfold haltFault
  extract_lets -underBinder -merge -useContext +onlyGivenNames s1
  have h_s1 : Stays [.regs, .stopped] s s1 := by
    dsimp -zeta only [s1]
    refine .app ?_ (recordFault_stays ..) (by decide)
    exact .refl ..
  clear_value s1
  refine .ite ?_ ?_
  · refine .app ?_ (.set_stopped _ _) (by decide)
    exact h_s1
  · exact h_s1

theorem lasting_stays (p : Nat) (k : Nat) (code : Nat) (pl : Payload) (s : State) :
    Stays [.regs, .seen, .fabric, .stopped] s (lasting p k code pl s) := by
  unfold lasting
  refine .app ?_ (haltFault_stays ..) (by decide)
  refine .app ?_ (raise_stays ..) (by decide)
  exact .refl ..

theorem transient_stays (p : Nat) (k : Nat) (code : Nat) (pl : Payload) (s : State) :
    Stays [.regs, .seen, .fabric] s (transient p k code pl s) := by
  unfold transient
  refine .app ?_ (raise_stays ..) (by decide)
  exact .refl ..

theorem safeCause_stays (source : Nat) (s : State) :
    Stays [.safePending] s (safeCause source s) := by
  unfold safeCause
  refine .app ?_ (.set_safePending _ _) (by decide)
  exact .refl ..

theorem State.critPut_stays (s : State) (n : Nat) (v : Word) :
    Stays [.regs, .crit] s (State.critPut s n v) := by
  unfold State.critPut
  extract_lets -underBinder -merge -useContext +onlyGivenNames s1
  have h_s1 : Stays [.regs, .crit] s s1 := by
    dsimp -zeta only [s1]
    refine .app ?_ (.set_crit _ _) (by decide)
    exact .refl ..
  clear_value s1
  refine .ite ?_ ?_
  · refine .app ?_ (State.setBit_stays ..) (by decide)
    exact h_s1
  · exact h_s1

theorem markCheck_stays (p : Nat) (source : Nat) (code : Nat) (s : State) :
    Stays [.regs, .seen, .fabric] s (markCheck p source code s) := by
  unfold markCheck
  extract_lets -underBinder -merge -useContext +onlyGivenNames s1 s2 st st1 s3
  have h_s1 : Stays [.regs, .seen, .fabric] s s1 := by
    dsimp -zeta only [s1]
    refine .app ?_ (State.setBit_stays ..) (by decide)
    exact .refl ..
  clear_value s1
  have h_s2 : Stays [.regs, .seen, .fabric] s s2 := by
    dsimp -zeta only [s2]
    refine .ite ?_ ?_
    · exact h_s1
    · refine .app ?_ (State.setReg_stays ..) (by decide)
      exact h_s1
  clear_value s2
  have h_s3 : Stays [.regs, .seen, .fabric] s s3 := by
    dsimp -zeta only [s3]
    refine .app ?_ (State.setReg_stays ..) (by decide)
    exact h_s2
  clear_value s3
  refine .app ?_ (raise_stays ..) (by decide)
  exact h_s3

theorem critLost_stays (n : Nat) (s : State) :
    Stays [.regs, .seen, .fabric, .crit, .safePending] s (critLost n s) := by
  unfold critLost
  extract_lets -underBinder -merge -useContext +onlyGivenNames vsrc s1 s2 s3
  have h_s1 : Stays [.regs, .seen, .fabric, .crit, .safePending] s s1 := by
    dsimp -zeta only [s1]
    refine .app ?_ (.set_crit _ _) (by decide)
    exact .refl ..
  clear_value s1
  have h_s2 : Stays [.regs, .seen, .fabric, .crit, .safePending] s s2 := by
    dsimp -zeta only [s2]
    refine .app ?_ (State.setFld_stays ..) (by decide)
    refine .app ?_ (State.setBit_stays ..) (by decide)
    exact h_s1
  clear_value s2
  have h_s3 : Stays [.regs, .seen, .fabric, .crit, .safePending] s s3 := by
    dsimp -zeta only [s3]
    refine .app ?_ (raise_stays ..) (by decide)
    exact h_s2
  clear_value s3
  refine .ite ?_ ?_
  · exact h_s3
  · refine .app ?_ (safeCause_stays ..) (by decide)
    refine .app ?_ (markCheck_stays ..) (by decide)
    exact h_s3

theorem State.setCritFld_stays (s : State) (n : Nat) (hi : Nat) (lo : Nat) (v : Nat) :
    Stays [.regs, .seen, .fabric, .crit, .safePending] s (State.setCritFld s n hi lo v) := by
  unfold State.setCritFld
  extract_lets -underBinder -merge -useContext +onlyGivenNames s1
  have h_s1 : Stays [.regs, .seen, .fabric, .crit, .safePending] s s1 := by
    dsimp -zeta only [s1]
    refine .ite ?_ ?_
    · refine .app ?_ (critLost_stays ..) (by decide)
      exact .refl ..
    · exact .refl ..
  clear_value s1
  refine .app ?_ (State.critPut_stays ..) (by decide)
  exact h_s1

theorem refuseAccess_stays (req : Requester) (addr : Addr) (wr : Bool) (kind : Nat) (s : State) :
    Stays [.regs, .seen, .fabric, .stopped] s (refuseAccess req addr wr kind s) := by
  unfold refuseAccess
  extract_lets -underBinder -merge -useContext +onlyGivenNames info a pg w2 s1 pl
  have h_s1 : Stays [.regs, .seen, .fabric, .stopped] s s1 := by
    dsimp -zeta only [s1]
    refine .app ?_ (State.count_stays ..) (by decide)
    refine .app ?_ (State.setReg_stays ..) (by decide)
    refine .app ?_ (State.setReg_stays ..) (by decide)
    refine .app ?_ (State.setReg_stays ..) (by decide)
    exact .refl ..
  clear_value s1
  refine .ite ?_ ?_
  · refine .app ?_ (lasting_stays ..) (by decide)
    exact h_s1
  · refine .app ?_ (raise_stays ..) (by decide)
    exact h_s1

theorem busError_stays (s : State) :
    Stays [.bus] s (busError s) := by
  unfold busError
  extract_lets -underBinder -merge -useContext +onlyGivenNames vsrc
  refine .app ?_ (.set_bus _ _) (by decide)
  exact .refl ..

theorem busOk_stays (v : Word) (s : State) :
    Stays [.bus] s (busOk v s) := by
  unfold busOk
  extract_lets -underBinder -merge -useContext +onlyGivenNames vsrc
  refine .app ?_ (.set_bus _ _) (by decide)
  exact .refl ..

end Sys2Proof.Machine
end

