-- ==== Sys2Proof/Laws/StaysAccess.lean ====
section
/-! SUPPORT. What the operations and meanings of Machine/Access do at most. -/

set_option linter.all false
set_option maxRecDepth 4000

namespace Sys2Proof.Machine

theorem storeWrite_stays (k : Nat) (v : Word) (s : State) :
    Stays [.regs] s (storeWrite k v s) := by
  unfold storeWrite
  split
  · rename_i x1 r1 e
    refine .app ?_ (State.setReg_stays ..) (by decide)
    exact .refl ..
  · rename_i x1 e
    exact .refl ..

theorem holdAccess_stays (req : Requester) (a : Addr) (op : BusOp) (core : Bool) (o : Outside) (s : State) :
    Stays [.bus] s (holdAccess req a op core o s) := by
  unfold holdAccess
  extract_lets -underBinder -merge -useContext +onlyGivenNames vsrc
  refine .app ?_ (.set_bus _ _) (by decide)
  exact .refl ..

theorem writeArrived_stays {P : List Piece} {s0 : State} (req : Requester) (k : Nat) (eff : State → State) (s : State) (h_eff : ∀ u, Stays P s0 u → Stays P s0 (eff u)) (hq : sub [.regs, .bus, .seen, .fabric, .stopped] P = true) (h0 : Stays P s0 s) :
    Stays P s0 (writeArrived req k eff s) := by
  unfold writeArrived
  extract_lets -underBinder -merge -useContext +onlyGivenNames p
  refine .ite ?_ ?_
  · refine .app ?_ (busOk_stays ..) (sub_trans (by decide) hq)
    refine .app ?_ (refuseAccess_stays ..) (sub_trans (by decide) hq)
    exact h0
  · refine .ite ?_ ?_
    · refine .app ?_ (busError_stays ..) (sub_trans (by decide) hq)
      refine .app ?_ (refuseAccess_stays ..) (sub_trans (by decide) hq)
      exact h0
    · refine .ite ?_ ?_
      · refine .app ?_ (busOk_stays ..) (sub_trans (by decide) hq)
        refine .app ?_ (refuseAccess_stays ..) (sub_trans (by decide) hq)
        exact h0
      · refine .ite ?_ ?_
        · refine .app ?_ (busOk_stays ..) (sub_trans (by decide) hq)
          refine .app ?_ (refuseAccess_stays ..) (sub_trans (by decide) hq)
          exact h0
        · refine h_eff _ ?_
          refine .app ?_ (busOk_stays ..) (sub_trans (by decide) hq)
          exact h0

theorem withWriteOut_stays {P : List Piece} {s0 : State} (o : Outside) (req : Requester) (k : Nat) (v : Word) (eff : State → State) (s : State) (h_eff : ∀ u, Stays P s0 u → Stays P s0 (eff u)) (hq : sub [.regs, .bus, .seen, .fabric, .stopped] P = true) (h0 : Stays P s0 s) :
    Stays P s0 (withWriteOut o req k v eff s) := by
  unfold withWriteOut
  extract_lets -underBinder -merge -useContext +onlyGivenNames p
  refine .ite ?_ ?_
  · exact h0
  · refine .ite ?_ ?_
    · refine .app ?_ (busError_stays ..) (sub_trans (by decide) hq)
      refine .app ?_ (refuseAccess_stays ..) (sub_trans (by decide) hq)
      exact h0
    · refine .ite ?_ ?_
      · refine .app ?_ (busOk_stays ..) (sub_trans (by decide) hq)
        exact h0
      · refine .ite ?_ ?_
        · refine .app ?_ (holdAccess_stays ..) (sub_trans (by decide) hq)
          exact h0
        · refine writeArrived_stays _ _ _ _ ?_ (sub_trans (by decide) hq) ?_
          · intro u hu
            refine h_eff _ ?_
            exact hu
          · exact h0

theorem withWrite_stays {P : List Piece} {s0 : State} (req : Requester) (k : Nat) (v : Word) (eff : State → State) (s : State) (h_eff : ∀ u, Stays P s0 u → Stays P s0 (eff u)) (hq : sub [.regs, .bus, .seen, .fabric, .stopped] P = true) (h0 : Stays P s0 s) :
    Stays P s0 (withWrite req k v eff s) := by
  unfold withWrite
  refine withWriteOut_stays _ _ _ _ _ _ ?_ (sub_trans (by decide) hq) ?_
  · intro u hu
    refine h_eff _ ?_
    exact hu
  · exact h0

theorem withWriteAt_stays {P : List Piece} {s0 : State} (req : Requester) (a : Addr) (v : Word) (eff : Nat → State → State) (s : State) (h_eff : ∀ a0 u, Stays P s0 u → Stays P s0 (eff a0 u)) (hq : sub [.regs, .bus, .seen, .fabric, .stopped] P = true) (h0 : Stays P s0 s) :
    Stays P s0 (withWriteAt req a v eff s) := by
  unfold withWriteAt
  split
  · rename_i x1 e
    refine .app ?_ (busError_stays ..) (sub_trans (by decide) hq)
    refine .app ?_ (refuseAccess_stays ..) (sub_trans (by decide) hq)
    exact h0
  · rename_i x1 k1 e
    refine .ite ?_ ?_
    · refine .ite ?_ ?_
      · refine .app ?_ (busError_stays ..) (sub_trans (by decide) hq)
        refine .app ?_ (refuseAccess_stays ..) (sub_trans (by decide) hq)
        exact h0
      · refine .app ?_ (busError_stays ..) (sub_trans (by decide) hq)
        refine .app ?_ (refuseAccess_stays ..) (sub_trans (by decide) hq)
        exact h0
    · refine withWrite_stays _ _ _ _ _ ?_ (sub_trans (by decide) hq) ?_
      · intro u hu
        refine h_eff _ _ ?_
        exact hu
      · exact h0

theorem claimConflict_stays (r : Nat) (f : Nat) (req : Nat) (reason : Nat) (written : Word) (s : State) :
    Stays [.regs, .seen, .fabric] s (claimConflict r f req reason written s) := by
  unfold claimConflict
  extract_lets -underBinder -merge -useContext +onlyGivenNames last s1
  have h_s1 : Stays [.regs, .seen, .fabric] s s1 := by
    dsimp -zeta only [s1]
    refine .app ?_ (State.countFld_stays ..) (by decide)
    refine .app ?_ (State.setReg_stays ..) (by decide)
    exact .refl ..
  clear_value s1
  refine .app ?_ (raise_stays ..) (by decide)
  exact h_s1

theorem notHeld_stays (r : Nat) (f : Nat) (req : Requester) (s : State) :
    Stays [.regs, .seen, .fabric] s (notHeld r f req s) := by
  unfold notHeld
  refine .app ?_ (claimConflict_stays ..) (by decide)
  exact .refl ..

theorem resetPageRegs_stays (p : Nat) (s : State) :
    Stays [.regs, .seen] s (resetPageRegs p s) := by
  have h : Stays [.regs, .seen] s { s with regs := SMap.keep (fun k => k / 0x1000 ≠ p || (pageLocked p s && (isRwl k || k == Reg.LOCK p))) s.regs } :=
    .app (.refl ..) (.set_regs s _ (SMap.wf_keep regReset _ s.regs)) (by decide)
  exact h.app (.set_seen _ (SMap.set (fun _ => 0#32) s.seen p 0#32)) (by decide)

end Sys2Proof.Machine
end

