-- ==== Sys2Proof/Laws/Pass.lean ====
section
/-! SUPPORT. What the bus lets pass, what an event and a lasting error change, and what the guards of a command come to: the facts that
every statement about a command begins with. -/

set_option linter.all false

namespace Sys2Proof.Machine

/-! ### Guards and the bus -/

/-- A command whose guard is met has its effect. -/
theorem when_met {s : State} {c : Bool} (h : c = true) (f : State → State) : s.when c f = f s := by
  unfold State.when; rw [if_pos h]

/-- A command whose guard is not met leaves the state. -/
theorem when_unmet {s : State} {c : Bool} (h : c = false) (f : State → State) : s.when c f = s := by
  unfold State.when; rw [if_neg (by simp [h])]

/-- Who may write a register may read it (R42). -/
theorem mayRead_of_mayWrite {req : Requester} {p off : Nat} {s : State} (h : mayWrite req p off s = true) :
    mayRead req p off s = true := by
  have cox : ∀ {b : Bool}, (req == Requester.cox) = true → b = true ∨ mayRead req p off s = true := fun e => by
    cases eq_of_beq e; exact .inr rfl
  unfold mayWrite at h
  split at h
  · exact (cox (b := false) h).resolve_left (by decide)
  split at h
  · exact (cox (b := false) h).resolve_left (by decide)
  split at h
  · rename_i hp
    rcases Bool.or_eq_true_iff.1 h with h | h
    · exact (cox (b := false) h).resolve_left (by decide)
    · obtain ⟨e, g⟩ := Bool.and_eq_true_iff.1 h
      unfold mayRead; rw [if_pos (eq_of_beq e), hp]
      rcases Bool.or_eq_true_iff.1 g with g | g <;> simp [g]
  split at h
  · rename_i e
    unfold mayRead; rw [if_pos e, h]; rfl
  · rename_i e
    unfold mayRead; rw [if_neg e]; exact h

/-- A write that passes the checks of the bus has its effect on the state whose bus carries no error. -/
theorem withWrite_pass {req : Requester} {k : Nat} {s : State} (h : Writes req k s) (v : Word) (eff : State → State) :
    withWrite req k v eff s = eff (busOk 0#32 s) := by
  have h8 := mayRead_of_mayWrite h.2.1
  obtain ⟨reach, h6, h7⟩ := h
  obtain ⟨h1, h2, h3, h4, h5⟩ := reach
  unfold withWrite withWriteOut writeArrived
  simp [h1, h2, h3, h4, h5, h6, h7, h8]

/-- A read that passes the checks of the bus answers what `get` reads. -/
theorem withRead_pass {req : Requester} {k : Nat} {s : State} (h : ReadsOf req k s) (get : State → Word × State) :
    withRead req k get s = busOk (get s).1 (get s).2 := by
  obtain ⟨reach, h6, h7⟩ := h
  obtain ⟨h1, h2, h3, h4, h5⟩ := reach
  unfold withRead withReadOut readArrived
  simp only [h1, h2, h3, h4, h5, h6, h7, Option.isSome_none, Bool.false_eq_true, if_false, Bool.not_true]

theorem busOk_reg (v : Word) (s : State) (k : Nat) : (busOk v s).reg k = s.reg k := rfl

theorem setFld_other (s : State) (k hi lo v : Nat) {j : Nat} (h : j ≠ k) : (s.setFld k hi lo v).reg j = s.reg j := by
  rw [reg_setFld, if_neg h]

theorem setBit_other (s : State) (k i : Nat) (b : Bool) {j : Nat} (h : j ≠ k) : (s.setBit k i b).reg j = s.reg j := by
  rw [reg_setBit, if_neg h]

theorem setReg_other (s : State) (k : Nat) (v : Word) {j : Nat} (h : j ≠ k) : (s.setReg k v).reg j = s.reg j := by
  rw [reg_setReg, if_neg h]

theorem reg_count (s : State) (k n j : Nat) :
    (s.count k n).reg j = if j = k then word (satAdd 0xFFFFFFFF (s.reg k).toNat n) else s.reg j := reg_setReg s k j _

/-- Registers of different pages are different. -/
theorem key_ne {j k : Nat} (n : Nat) (hj : j / 0x1000 = n) (h : k / 0x1000 ≠ n) : j ≠ k := fun e => h (e ▸ hj)

theorem fld_lt (w : Word) (hi lo : Nat) : fld w hi lo < 2 ^ (hi + 1 - lo) := Nat.mod_lt _ (Nat.two_pow_pos _)

theorem bit_of_setBit (s : State) (k i : Nat) (b : Bool) (hi : i < 32) : (s.setBit k i b).bit k i = b := by
  unfold State.bit; rw [reg_setBit, if_pos rfl, bit_setBit _ _ _ _ hi, if_pos rfl]

theorem fld_of_setFld (s : State) (k hi lo v : Nat) (h : hi < 32) : (s.setFld k hi lo v).fld k hi lo = v % 2 ^ (hi + 1 - lo) := by
  unfold State.fld; rw [reg_setFld, if_pos rfl, fld_setFld _ _ _ _ h]

/-- A write of an RW register stores its bits under the mask of its row (R45). -/
theorem storeWrite_rw {k o c : Nat} {r m : Word} (h : regRow (k / 0x1000) (k % 0x1000) = some ⟨o, c, .rw, r, m, []⟩) (v : Word)
    (s : State) : storeWrite k v s = s.setReg k ((s.reg k &&& ~~~ m) ||| (v &&& m)) := by
  unfold storeWrite; rw [h]; rfl

theorem bit_masked (a v m : Word) (i : Nat) : bit ((a &&& ~~~ m) ||| (v &&& m)) i = if bit m i then bit v i else bit a i := by
  unfold bit
  by_cases hi : i < 32
  · rw [BitVec.getLsbD_or, BitVec.getLsbD_and, BitVec.getLsbD_and, BitVec.getLsbD_not]
    by_cases hm : m.getLsbD i <;> simp only [hm, hi, decide_true, Bool.true_and, Bool.not_true, Bool.not_false, Bool.and_true, Bool.and_false, Bool.or_false, Bool.false_or, if_true, Bool.false_eq_true, if_false]
  · simp [BitVec.getLsbD_of_ge _ _ (Nat.le_of_not_lt hi)]

theorem fld_masked {a v m : Word} {hi lo : Nat} (h : ∀ j, lo ≤ j → j ≤ hi → bit m j = true) :
    fld ((a &&& ~~~ m) ||| (v &&& m)) hi lo = fld v hi lo := by
  apply Nat.eq_of_testBit_eq
  intro j
  rw [testBit_fld, testBit_fld]
  by_cases hj : j < hi + 1 - lo
  · have := bit_masked a v m (lo + j)
    rw [h (lo + j) (by omega) (by omega)] at this
    unfold bit at this
    rw [this]; rfl
  · simp [hj]

/-- The reset row of a header register does not depend on which page it is, but for its mask (R43). -/
theorem regRow_header (p off : Nat) (h : off < 0x40) : regRow ((p * 0x1000 + off) / 0x1000) ((p * 0x1000 + off) % 0x1000) = headerRow p off := by
  rw [show (p * 0x1000 + off) / 0x1000 = p by omega, show (p * 0x1000 + off) % 0x1000 = off by omega]
  unfold regRow; rw [if_pos h]

/-! ### Events and errors -/

/-- A raised event sets its EV_PEND bit, and no other register. -/
theorem markEvent_reg (p k j : Nat) (s : State) : (markEvent p k s).reg j = (s.setBit (Reg.EV_PEND p) k true).reg j := rfl

/-- An event that its enable bit lets out: EV_PEND is set and the message enters the fabric (R61). -/
theorem raise_sent {p k sev : Nat} {s : State} (on : pageOn s p = true) (hk : k < (pageEvents p).2)
    (he : s.bit (Reg.EV_ENABLE p) k = true ∨ sev = 4) (code : Nat) (pl : Payload) :
    raise p k sev code pl s =
      (markEvent p k s).send ⟨sourceOf p k, sev, code % 65536, pl.p0, pl.p1, pl.p2, s.time, 7, aonPath s⟩ := by
  unfold raise
  rcases he with he | he <;> simp [on, hk, he]

/-- An event that its enable bit keeps back: EV_PEND alone (R61). -/
theorem raise_kept {p k sev : Nat} {s : State} (on : pageOn s p = true) (hk : k < (pageEvents p).2)
    (he : s.bit (Reg.EV_ENABLE p) k = false) (h4 : sev ≠ 4) (code : Nat) (pl : Payload) :
    raise p k sev code pl s = markEvent p k s := by
  unfold raise
  simp [on, hk, he, h4]

/-- An event sets its bit of EV_PEND (R61). -/
theorem raise_pend {p k sev : Nat} {s : State} (on : pageOn s p = true) (hk : k < (pageEvents p).2) (h32 : k < 32 := by decide) (code : Nat)
    (pl : Payload) : (raise p k sev code pl s).bit (Reg.EV_PEND p) k = true := by
  unfold raise
  dsimp only
  rw [if_pos (by simp [on, hk])]
  split
  · exact bit_of_setBit s _ k true h32
  · exact bit_of_setBit s _ k true h32

/-- Only EV_PEND of its page is written by an event. -/
theorem raise_reg {p k sev code : Nat} {pl : Payload} (s : State) {j : Nat} (h : j ≠ Reg.EV_PEND p) :
    (raise p k sev code pl s).reg j = s.reg j := by
  unfold raise
  dsimp only
  split
  · split
    · show (markEvent p k s).reg j = _
      rw [markEvent_reg, reg_setBit, if_neg h]
    · rw [markEvent_reg, reg_setBit, if_neg h]
  · rfl

/-- A lasting error writes EV_PEND, FAULT_CODE and STATUS of its page, and no other register. -/
theorem lasting_reg {p k code : Nat} {pl : Payload} (s : State) {j : Nat} (h1 : j ≠ Reg.EV_PEND p) (h2 : j ≠ Reg.FAULT_CODE p)
    (h3 : j ≠ Reg.STATUS p) : (lasting p k code pl s).reg j = s.reg j := by
  have hr : (recordFault p 3 (sourceOf p k) code (raise p k 3 code pl s)).reg j = s.reg j := by
    unfold recordFault
    split
    · exact raise_reg s h1
    · rw [reg_setBit, if_neg h3, reg_setReg, if_neg h2, raise_reg s h1]
  unfold lasting haltFault
  dsimp only
  split
  · exact hr
  · exact hr

@[simp] theorem setFld_frame (k hi lo v : Nat) (s : State) :
    (s.setFld k hi lo v).part4820 = s.part4820 ∧ (s.setFld k hi lo v).time = s.time ∧ (s.setFld k hi lo v).rwlShadow = s.rwlShadow ∧
    (s.setFld k hi lo v).bus = s.bus ∧ (s.setFld k hi lo v).clocks = s.clocks ∧ (s.setFld k hi lo v).strokes = s.strokes ∧
    (s.setFld k hi lo v).seen = s.seen ∧ (s.setFld k hi lo v).fabric = s.fabric ∧ (s.setFld k hi lo v).targets = s.targets ∧
    (s.setFld k hi lo v).leaks = s.leaks ∧ (s.setFld k hi lo v).crit = s.crit ∧ (s.setFld k hi lo v).queues = s.queues ∧
    (s.setFld k hi lo v).ended = s.ended ∧ (s.setFld k hi lo v).stopped = s.stopped ∧ (s.setFld k hi lo v).keel = s.keel ∧
    (s.setFld k hi lo v).rigger = s.rigger ∧ (s.setFld k hi lo v).free = s.free ∧ (s.setFld k hi lo v).safePending = s.safePending ∧
    (s.setFld k hi lo v).pres = s.pres ∧ (s.setFld k hi lo v).hda = s.hda ∧ (s.setFld k hi lo v).cal = s.cal ∧
    (s.setFld k hi lo v).rudders = s.rudders ∧ (s.setFld k hi lo v).couple = s.couple ∧ (s.setFld k hi lo v).tunes = s.tunes ∧
    (s.setFld k hi lo v).oars = s.oars ∧ (s.setFld k hi lo v).sweep = s.sweep ∧ (s.setFld k hi lo v).gates = s.gates ∧
    (s.setFld k hi lo v).ucode = s.ucode ∧ (s.setFld k hi lo v).returned = s.returned ∧ (s.setFld k hi lo v).consumed = s.consumed ∧
    (s.setFld k hi lo v).mem = s.mem ∧ (s.setFld k hi lo v).checks = s.checks ∧ (s.setFld k hi lo v).drams = s.drams ∧
    (s.setFld k hi lo v).boat = s.boat ∧ (s.setFld k hi lo v).cache = s.cache ∧ (s.setFld k hi lo v).scrub = s.scrub ∧
    (s.setFld k hi lo v).crew = s.crew ∧ (s.setFld k hi lo v).slip = s.slip ∧ (s.setFld k hi lo v).power = s.power ∧
    (s.setFld k hi lo v).safe = s.safe ∧ (s.setFld k hi lo v).otp = s.otp ∧ (s.setFld k hi lo v).keys = s.keys ∧
    (s.setFld k hi lo v).cryptos = s.cryptos ∧ (s.setFld k hi lo v).chip = s.chip ∧ (s.setFld k hi lo v).ump = s.ump ∧
    (s.setFld k hi lo v).dbg = s.dbg ∧ (s.setFld k hi lo v).smbus = s.smbus ∧ (s.setFld k hi lo v).pending = s.pending := by
  unfold State.setFld; simp only [setReg_frame, and_self]

@[simp] theorem setBit_frame (k i : Nat) (b : Bool) (s : State) :
    (s.setBit k i b).part4820 = s.part4820 ∧ (s.setBit k i b).time = s.time ∧ (s.setBit k i b).rwlShadow = s.rwlShadow ∧
    (s.setBit k i b).bus = s.bus ∧ (s.setBit k i b).clocks = s.clocks ∧ (s.setBit k i b).strokes = s.strokes ∧
    (s.setBit k i b).seen = s.seen ∧ (s.setBit k i b).fabric = s.fabric ∧ (s.setBit k i b).targets = s.targets ∧
    (s.setBit k i b).leaks = s.leaks ∧ (s.setBit k i b).crit = s.crit ∧ (s.setBit k i b).queues = s.queues ∧
    (s.setBit k i b).ended = s.ended ∧ (s.setBit k i b).stopped = s.stopped ∧ (s.setBit k i b).keel = s.keel ∧
    (s.setBit k i b).rigger = s.rigger ∧ (s.setBit k i b).free = s.free ∧ (s.setBit k i b).safePending = s.safePending ∧
    (s.setBit k i b).pres = s.pres ∧ (s.setBit k i b).hda = s.hda ∧ (s.setBit k i b).cal = s.cal ∧ (s.setBit k i b).rudders = s.rudders ∧
    (s.setBit k i b).couple = s.couple ∧ (s.setBit k i b).tunes = s.tunes ∧ (s.setBit k i b).oars = s.oars ∧
    (s.setBit k i b).sweep = s.sweep ∧ (s.setBit k i b).gates = s.gates ∧ (s.setBit k i b).ucode = s.ucode ∧
    (s.setBit k i b).returned = s.returned ∧ (s.setBit k i b).consumed = s.consumed ∧ (s.setBit k i b).mem = s.mem ∧
    (s.setBit k i b).checks = s.checks ∧ (s.setBit k i b).drams = s.drams ∧ (s.setBit k i b).boat = s.boat ∧
    (s.setBit k i b).cache = s.cache ∧ (s.setBit k i b).scrub = s.scrub ∧ (s.setBit k i b).crew = s.crew ∧
    (s.setBit k i b).slip = s.slip ∧ (s.setBit k i b).power = s.power ∧ (s.setBit k i b).safe = s.safe ∧ (s.setBit k i b).otp = s.otp ∧
    (s.setBit k i b).keys = s.keys ∧ (s.setBit k i b).cryptos = s.cryptos ∧ (s.setBit k i b).chip = s.chip ∧
    (s.setBit k i b).ump = s.ump ∧ (s.setBit k i b).dbg = s.dbg ∧ (s.setBit k i b).smbus = s.smbus ∧
    (s.setBit k i b).pending = s.pending := by
  unfold State.setBit; simp only [setReg_frame, and_self]

@[simp] theorem count_frame (k n : Nat) (s : State) :
    (s.count k n).part4820 = s.part4820 ∧ (s.count k n).time = s.time ∧ (s.count k n).rwlShadow = s.rwlShadow ∧
    (s.count k n).bus = s.bus ∧ (s.count k n).clocks = s.clocks ∧ (s.count k n).strokes = s.strokes ∧ (s.count k n).seen = s.seen ∧
    (s.count k n).fabric = s.fabric ∧ (s.count k n).targets = s.targets ∧ (s.count k n).leaks = s.leaks ∧ (s.count k n).crit = s.crit ∧
    (s.count k n).queues = s.queues ∧ (s.count k n).ended = s.ended ∧ (s.count k n).stopped = s.stopped ∧ (s.count k n).keel = s.keel ∧
    (s.count k n).rigger = s.rigger ∧ (s.count k n).free = s.free ∧ (s.count k n).safePending = s.safePending ∧
    (s.count k n).pres = s.pres ∧ (s.count k n).hda = s.hda ∧ (s.count k n).cal = s.cal ∧ (s.count k n).rudders = s.rudders ∧
    (s.count k n).couple = s.couple ∧ (s.count k n).tunes = s.tunes ∧ (s.count k n).oars = s.oars ∧ (s.count k n).sweep = s.sweep ∧
    (s.count k n).gates = s.gates ∧ (s.count k n).ucode = s.ucode ∧ (s.count k n).returned = s.returned ∧
    (s.count k n).consumed = s.consumed ∧ (s.count k n).mem = s.mem ∧ (s.count k n).checks = s.checks ∧ (s.count k n).drams = s.drams ∧
    (s.count k n).boat = s.boat ∧ (s.count k n).cache = s.cache ∧ (s.count k n).scrub = s.scrub ∧ (s.count k n).crew = s.crew ∧
    (s.count k n).slip = s.slip ∧ (s.count k n).power = s.power ∧ (s.count k n).safe = s.safe ∧ (s.count k n).otp = s.otp ∧
    (s.count k n).keys = s.keys ∧ (s.count k n).cryptos = s.cryptos ∧ (s.count k n).chip = s.chip ∧ (s.count k n).ump = s.ump ∧
    (s.count k n).dbg = s.dbg ∧ (s.count k n).smbus = s.smbus ∧ (s.count k n).pending = s.pending := by
  unfold State.count; simp only [setReg_frame, and_self]

@[simp] theorem setReg64_frame (k n : Nat) (s : State) :
    (s.setReg64 k n).part4820 = s.part4820 ∧ (s.setReg64 k n).time = s.time ∧ (s.setReg64 k n).rwlShadow = s.rwlShadow ∧
    (s.setReg64 k n).bus = s.bus ∧ (s.setReg64 k n).clocks = s.clocks ∧ (s.setReg64 k n).strokes = s.strokes ∧
    (s.setReg64 k n).seen = s.seen ∧ (s.setReg64 k n).fabric = s.fabric ∧ (s.setReg64 k n).targets = s.targets ∧
    (s.setReg64 k n).leaks = s.leaks ∧ (s.setReg64 k n).crit = s.crit ∧ (s.setReg64 k n).queues = s.queues ∧
    (s.setReg64 k n).ended = s.ended ∧ (s.setReg64 k n).stopped = s.stopped ∧ (s.setReg64 k n).keel = s.keel ∧
    (s.setReg64 k n).rigger = s.rigger ∧ (s.setReg64 k n).free = s.free ∧ (s.setReg64 k n).safePending = s.safePending ∧
    (s.setReg64 k n).pres = s.pres ∧ (s.setReg64 k n).hda = s.hda ∧ (s.setReg64 k n).cal = s.cal ∧ (s.setReg64 k n).rudders = s.rudders ∧
    (s.setReg64 k n).couple = s.couple ∧ (s.setReg64 k n).tunes = s.tunes ∧ (s.setReg64 k n).oars = s.oars ∧
    (s.setReg64 k n).sweep = s.sweep ∧ (s.setReg64 k n).gates = s.gates ∧ (s.setReg64 k n).ucode = s.ucode ∧
    (s.setReg64 k n).returned = s.returned ∧ (s.setReg64 k n).consumed = s.consumed ∧ (s.setReg64 k n).mem = s.mem ∧
    (s.setReg64 k n).checks = s.checks ∧ (s.setReg64 k n).drams = s.drams ∧ (s.setReg64 k n).boat = s.boat ∧
    (s.setReg64 k n).cache = s.cache ∧ (s.setReg64 k n).scrub = s.scrub ∧ (s.setReg64 k n).crew = s.crew ∧
    (s.setReg64 k n).slip = s.slip ∧ (s.setReg64 k n).power = s.power ∧ (s.setReg64 k n).safe = s.safe ∧ (s.setReg64 k n).otp = s.otp ∧
    (s.setReg64 k n).keys = s.keys ∧ (s.setReg64 k n).cryptos = s.cryptos ∧ (s.setReg64 k n).chip = s.chip ∧
    (s.setReg64 k n).ump = s.ump ∧ (s.setReg64 k n).dbg = s.dbg ∧ (s.setReg64 k n).smbus = s.smbus ∧
    (s.setReg64 k n).pending = s.pending := by
  unfold State.setReg64; simp only [setReg_frame, and_self]

@[simp] theorem countFld_frame (k hi lo n : Nat) (s : State) :
    (s.countFld k hi lo n).part4820 = s.part4820 ∧ (s.countFld k hi lo n).time = s.time ∧
    (s.countFld k hi lo n).rwlShadow = s.rwlShadow ∧ (s.countFld k hi lo n).bus = s.bus ∧ (s.countFld k hi lo n).clocks = s.clocks ∧
    (s.countFld k hi lo n).strokes = s.strokes ∧ (s.countFld k hi lo n).seen = s.seen ∧ (s.countFld k hi lo n).fabric = s.fabric ∧
    (s.countFld k hi lo n).targets = s.targets ∧ (s.countFld k hi lo n).leaks = s.leaks ∧ (s.countFld k hi lo n).crit = s.crit ∧
    (s.countFld k hi lo n).queues = s.queues ∧ (s.countFld k hi lo n).ended = s.ended ∧ (s.countFld k hi lo n).stopped = s.stopped ∧
    (s.countFld k hi lo n).keel = s.keel ∧ (s.countFld k hi lo n).rigger = s.rigger ∧ (s.countFld k hi lo n).free = s.free ∧
    (s.countFld k hi lo n).safePending = s.safePending ∧ (s.countFld k hi lo n).pres = s.pres ∧ (s.countFld k hi lo n).hda = s.hda ∧
    (s.countFld k hi lo n).cal = s.cal ∧ (s.countFld k hi lo n).rudders = s.rudders ∧ (s.countFld k hi lo n).couple = s.couple ∧
    (s.countFld k hi lo n).tunes = s.tunes ∧ (s.countFld k hi lo n).oars = s.oars ∧ (s.countFld k hi lo n).sweep = s.sweep ∧
    (s.countFld k hi lo n).gates = s.gates ∧ (s.countFld k hi lo n).ucode = s.ucode ∧ (s.countFld k hi lo n).returned = s.returned ∧
    (s.countFld k hi lo n).consumed = s.consumed ∧ (s.countFld k hi lo n).mem = s.mem ∧ (s.countFld k hi lo n).checks = s.checks ∧
    (s.countFld k hi lo n).drams = s.drams ∧ (s.countFld k hi lo n).boat = s.boat ∧ (s.countFld k hi lo n).cache = s.cache ∧
    (s.countFld k hi lo n).scrub = s.scrub ∧ (s.countFld k hi lo n).crew = s.crew ∧ (s.countFld k hi lo n).slip = s.slip ∧
    (s.countFld k hi lo n).power = s.power ∧ (s.countFld k hi lo n).safe = s.safe ∧ (s.countFld k hi lo n).otp = s.otp ∧
    (s.countFld k hi lo n).keys = s.keys ∧ (s.countFld k hi lo n).cryptos = s.cryptos ∧ (s.countFld k hi lo n).chip = s.chip ∧
    (s.countFld k hi lo n).ump = s.ump ∧ (s.countFld k hi lo n).dbg = s.dbg ∧ (s.countFld k hi lo n).smbus = s.smbus ∧
    (s.countFld k hi lo n).pending = s.pending := by
  unfold State.countFld; simp only [setFld_frame, and_self]

@[simp] theorem raise_frame (p k sev code : Nat) (pl : Payload) (s : State) :
    (raise p k sev code pl s).part4820 = s.part4820 ∧ (raise p k sev code pl s).time = s.time ∧
    (raise p k sev code pl s).rwlShadow = s.rwlShadow ∧ (raise p k sev code pl s).bus = s.bus ∧
    (raise p k sev code pl s).clocks = s.clocks ∧ (raise p k sev code pl s).strokes = s.strokes ∧
    (raise p k sev code pl s).targets = s.targets ∧ (raise p k sev code pl s).leaks = s.leaks ∧ (raise p k sev code pl s).crit = s.crit ∧
    (raise p k sev code pl s).queues = s.queues ∧ (raise p k sev code pl s).ended = s.ended ∧
    (raise p k sev code pl s).stopped = s.stopped ∧ (raise p k sev code pl s).keel = s.keel ∧
    (raise p k sev code pl s).rigger = s.rigger ∧ (raise p k sev code pl s).free = s.free ∧
    (raise p k sev code pl s).safePending = s.safePending ∧ (raise p k sev code pl s).pres = s.pres ∧
    (raise p k sev code pl s).hda = s.hda ∧ (raise p k sev code pl s).cal = s.cal ∧ (raise p k sev code pl s).rudders = s.rudders ∧
    (raise p k sev code pl s).couple = s.couple ∧ (raise p k sev code pl s).tunes = s.tunes ∧ (raise p k sev code pl s).oars = s.oars ∧
    (raise p k sev code pl s).sweep = s.sweep ∧ (raise p k sev code pl s).gates = s.gates ∧ (raise p k sev code pl s).ucode = s.ucode ∧
    (raise p k sev code pl s).returned = s.returned ∧ (raise p k sev code pl s).consumed = s.consumed ∧
    (raise p k sev code pl s).mem = s.mem ∧ (raise p k sev code pl s).checks = s.checks ∧ (raise p k sev code pl s).drams = s.drams ∧
    (raise p k sev code pl s).boat = s.boat ∧ (raise p k sev code pl s).cache = s.cache ∧ (raise p k sev code pl s).scrub = s.scrub ∧
    (raise p k sev code pl s).crew = s.crew ∧ (raise p k sev code pl s).slip = s.slip ∧ (raise p k sev code pl s).power = s.power ∧
    (raise p k sev code pl s).safe = s.safe ∧ (raise p k sev code pl s).otp = s.otp ∧ (raise p k sev code pl s).keys = s.keys ∧
    (raise p k sev code pl s).cryptos = s.cryptos ∧ (raise p k sev code pl s).chip = s.chip ∧ (raise p k sev code pl s).ump = s.ump ∧
    (raise p k sev code pl s).dbg = s.dbg ∧ (raise p k sev code pl s).smbus = s.smbus ∧
    (raise p k sev code pl s).pending = s.pending := by
  unfold raise; dsimp only; split <;> [split; skip] <;> simp [markEvent]

@[simp] theorem recordFault_frame (p sev source code : Nat) (s : State) :
    (recordFault p sev source code s).part4820 = s.part4820 ∧ (recordFault p sev source code s).time = s.time ∧
    (recordFault p sev source code s).rwlShadow = s.rwlShadow ∧ (recordFault p sev source code s).bus = s.bus ∧
    (recordFault p sev source code s).clocks = s.clocks ∧ (recordFault p sev source code s).strokes = s.strokes ∧
    (recordFault p sev source code s).seen = s.seen ∧ (recordFault p sev source code s).fabric = s.fabric ∧
    (recordFault p sev source code s).targets = s.targets ∧ (recordFault p sev source code s).leaks = s.leaks ∧
    (recordFault p sev source code s).crit = s.crit ∧ (recordFault p sev source code s).queues = s.queues ∧
    (recordFault p sev source code s).ended = s.ended ∧ (recordFault p sev source code s).stopped = s.stopped ∧
    (recordFault p sev source code s).keel = s.keel ∧ (recordFault p sev source code s).rigger = s.rigger ∧
    (recordFault p sev source code s).free = s.free ∧ (recordFault p sev source code s).safePending = s.safePending ∧
    (recordFault p sev source code s).pres = s.pres ∧ (recordFault p sev source code s).hda = s.hda ∧
    (recordFault p sev source code s).cal = s.cal ∧ (recordFault p sev source code s).rudders = s.rudders ∧
    (recordFault p sev source code s).couple = s.couple ∧ (recordFault p sev source code s).tunes = s.tunes ∧
    (recordFault p sev source code s).oars = s.oars ∧ (recordFault p sev source code s).sweep = s.sweep ∧
    (recordFault p sev source code s).gates = s.gates ∧ (recordFault p sev source code s).ucode = s.ucode ∧
    (recordFault p sev source code s).returned = s.returned ∧ (recordFault p sev source code s).consumed = s.consumed ∧
    (recordFault p sev source code s).mem = s.mem ∧ (recordFault p sev source code s).checks = s.checks ∧
    (recordFault p sev source code s).drams = s.drams ∧ (recordFault p sev source code s).boat = s.boat ∧
    (recordFault p sev source code s).cache = s.cache ∧ (recordFault p sev source code s).scrub = s.scrub ∧
    (recordFault p sev source code s).crew = s.crew ∧ (recordFault p sev source code s).slip = s.slip ∧
    (recordFault p sev source code s).power = s.power ∧ (recordFault p sev source code s).safe = s.safe ∧
    (recordFault p sev source code s).otp = s.otp ∧ (recordFault p sev source code s).keys = s.keys ∧
    (recordFault p sev source code s).cryptos = s.cryptos ∧ (recordFault p sev source code s).chip = s.chip ∧
    (recordFault p sev source code s).ump = s.ump ∧ (recordFault p sev source code s).dbg = s.dbg ∧
    (recordFault p sev source code s).smbus = s.smbus ∧ (recordFault p sev source code s).pending = s.pending := by
  unfold recordFault; split <;> simp [State.setBit]

@[simp] theorem lasting_frame (p k code : Nat) (pl : Payload) (s : State) :
    (lasting p k code pl s).part4820 = s.part4820 ∧ (lasting p k code pl s).time = s.time ∧
    (lasting p k code pl s).rwlShadow = s.rwlShadow ∧ (lasting p k code pl s).bus = s.bus ∧ (lasting p k code pl s).clocks = s.clocks ∧
    (lasting p k code pl s).strokes = s.strokes ∧ (lasting p k code pl s).targets = s.targets ∧ (lasting p k code pl s).leaks = s.leaks ∧
    (lasting p k code pl s).crit = s.crit ∧ (lasting p k code pl s).queues = s.queues ∧ (lasting p k code pl s).ended = s.ended ∧
    (lasting p k code pl s).keel = s.keel ∧ (lasting p k code pl s).rigger = s.rigger ∧ (lasting p k code pl s).free = s.free ∧
    (lasting p k code pl s).safePending = s.safePending ∧ (lasting p k code pl s).pres = s.pres ∧ (lasting p k code pl s).hda = s.hda ∧
    (lasting p k code pl s).cal = s.cal ∧ (lasting p k code pl s).rudders = s.rudders ∧ (lasting p k code pl s).couple = s.couple ∧
    (lasting p k code pl s).tunes = s.tunes ∧ (lasting p k code pl s).oars = s.oars ∧ (lasting p k code pl s).sweep = s.sweep ∧
    (lasting p k code pl s).gates = s.gates ∧ (lasting p k code pl s).ucode = s.ucode ∧ (lasting p k code pl s).returned = s.returned ∧
    (lasting p k code pl s).consumed = s.consumed ∧ (lasting p k code pl s).mem = s.mem ∧ (lasting p k code pl s).checks = s.checks ∧
    (lasting p k code pl s).drams = s.drams ∧ (lasting p k code pl s).boat = s.boat ∧ (lasting p k code pl s).cache = s.cache ∧
    (lasting p k code pl s).scrub = s.scrub ∧ (lasting p k code pl s).crew = s.crew ∧ (lasting p k code pl s).slip = s.slip ∧
    (lasting p k code pl s).power = s.power ∧ (lasting p k code pl s).safe = s.safe ∧ (lasting p k code pl s).otp = s.otp ∧
    (lasting p k code pl s).keys = s.keys ∧ (lasting p k code pl s).cryptos = s.cryptos ∧ (lasting p k code pl s).chip = s.chip ∧
    (lasting p k code pl s).ump = s.ump ∧ (lasting p k code pl s).dbg = s.dbg ∧ (lasting p k code pl s).smbus = s.smbus ∧
    (lasting p k code pl s).pending = s.pending := by
  unfold lasting haltFault; dsimp only; split <;> simp

@[simp] theorem critPut_frame (n : Nat) (v : Word) (s : State) :
    (s.critPut n v).part4820 = s.part4820 ∧ (s.critPut n v).time = s.time ∧ (s.critPut n v).rwlShadow = s.rwlShadow ∧
    (s.critPut n v).bus = s.bus ∧ (s.critPut n v).clocks = s.clocks ∧ (s.critPut n v).strokes = s.strokes ∧
    (s.critPut n v).seen = s.seen ∧ (s.critPut n v).fabric = s.fabric ∧ (s.critPut n v).targets = s.targets ∧
    (s.critPut n v).leaks = s.leaks ∧ (s.critPut n v).queues = s.queues ∧ (s.critPut n v).ended = s.ended ∧
    (s.critPut n v).stopped = s.stopped ∧ (s.critPut n v).keel = s.keel ∧ (s.critPut n v).rigger = s.rigger ∧
    (s.critPut n v).free = s.free ∧ (s.critPut n v).safePending = s.safePending ∧ (s.critPut n v).pres = s.pres ∧
    (s.critPut n v).hda = s.hda ∧ (s.critPut n v).cal = s.cal ∧ (s.critPut n v).rudders = s.rudders ∧ (s.critPut n v).couple = s.couple ∧
    (s.critPut n v).tunes = s.tunes ∧ (s.critPut n v).oars = s.oars ∧ (s.critPut n v).sweep = s.sweep ∧ (s.critPut n v).gates = s.gates ∧
    (s.critPut n v).ucode = s.ucode ∧ (s.critPut n v).returned = s.returned ∧ (s.critPut n v).consumed = s.consumed ∧
    (s.critPut n v).mem = s.mem ∧ (s.critPut n v).checks = s.checks ∧ (s.critPut n v).drams = s.drams ∧ (s.critPut n v).boat = s.boat ∧
    (s.critPut n v).cache = s.cache ∧ (s.critPut n v).scrub = s.scrub ∧ (s.critPut n v).crew = s.crew ∧ (s.critPut n v).slip = s.slip ∧
    (s.critPut n v).power = s.power ∧ (s.critPut n v).safe = s.safe ∧ (s.critPut n v).otp = s.otp ∧ (s.critPut n v).keys = s.keys ∧
    (s.critPut n v).cryptos = s.cryptos ∧ (s.critPut n v).chip = s.chip ∧ (s.critPut n v).ump = s.ump ∧ (s.critPut n v).dbg = s.dbg ∧
    (s.critPut n v).smbus = s.smbus ∧ (s.critPut n v).pending = s.pending := by
  unfold State.critPut; dsimp only; split <;> simp [State.setBit]

@[simp] theorem storeWrite_frame (k : Nat) (v : Word) (s : State) :
    (storeWrite k v s).part4820 = s.part4820 ∧ (storeWrite k v s).time = s.time ∧ (storeWrite k v s).rwlShadow = s.rwlShadow ∧
    (storeWrite k v s).bus = s.bus ∧ (storeWrite k v s).clocks = s.clocks ∧ (storeWrite k v s).strokes = s.strokes ∧
    (storeWrite k v s).seen = s.seen ∧ (storeWrite k v s).fabric = s.fabric ∧ (storeWrite k v s).targets = s.targets ∧
    (storeWrite k v s).leaks = s.leaks ∧ (storeWrite k v s).crit = s.crit ∧ (storeWrite k v s).queues = s.queues ∧
    (storeWrite k v s).ended = s.ended ∧ (storeWrite k v s).stopped = s.stopped ∧ (storeWrite k v s).keel = s.keel ∧
    (storeWrite k v s).rigger = s.rigger ∧ (storeWrite k v s).free = s.free ∧ (storeWrite k v s).safePending = s.safePending ∧
    (storeWrite k v s).pres = s.pres ∧ (storeWrite k v s).hda = s.hda ∧ (storeWrite k v s).cal = s.cal ∧
    (storeWrite k v s).rudders = s.rudders ∧ (storeWrite k v s).couple = s.couple ∧ (storeWrite k v s).tunes = s.tunes ∧
    (storeWrite k v s).oars = s.oars ∧ (storeWrite k v s).sweep = s.sweep ∧ (storeWrite k v s).gates = s.gates ∧
    (storeWrite k v s).ucode = s.ucode ∧ (storeWrite k v s).returned = s.returned ∧ (storeWrite k v s).consumed = s.consumed ∧
    (storeWrite k v s).mem = s.mem ∧ (storeWrite k v s).checks = s.checks ∧ (storeWrite k v s).drams = s.drams ∧
    (storeWrite k v s).boat = s.boat ∧ (storeWrite k v s).cache = s.cache ∧ (storeWrite k v s).scrub = s.scrub ∧
    (storeWrite k v s).crew = s.crew ∧ (storeWrite k v s).slip = s.slip ∧ (storeWrite k v s).power = s.power ∧
    (storeWrite k v s).safe = s.safe ∧ (storeWrite k v s).otp = s.otp ∧ (storeWrite k v s).keys = s.keys ∧
    (storeWrite k v s).cryptos = s.cryptos ∧ (storeWrite k v s).chip = s.chip ∧ (storeWrite k v s).ump = s.ump ∧
    (storeWrite k v s).dbg = s.dbg ∧ (storeWrite k v s).smbus = s.smbus ∧ (storeWrite k v s).pending = s.pending := by
  unfold storeWrite; split <;> simp

/-! ### Register addresses -/

/-- A mask that has every bit of a field. -/
theorem mask_full (hi lo : Nat) {m : Word} (h : ((List.range (hi+1)).all fun j => decide (j < lo) || bit m j) = true) : ∀ j, lo ≤ j → j ≤ hi → bit m j = true := by
  intro j h1 h2
  have := List.all_eq_true.1 h j (List.mem_range.2 (by omega))
  simp only [Bool.or_eq_true, decide_eq_true_eq] at this; exact this.resolve_left (by omega)

/-- The key of an aligned register address (R36). -/
theorem wordKey_key (k : Nat) (h : k < 0x20000000) (h4 : k % 4 = 0) : wordKey (keyAddr k) .word = some k := by
  have e : (keyAddr k).toNat = 0x20000000 + k := by unfold keyAddr; rw [BitVec.toNat_ofNat]; omega
  unfold wordKey; rw [if_pos ⟨rfl, by rw [e]; omega⟩]
  unfold addrKey; rw [e, if_pos (by omega)]; exact congrArg some (Nat.add_sub_cancel_left ..)

/-- No header register is a view of a critical word (R84). -/
theorem crit_none (p off : Nat) (h : off < 0x40) : critWordOf (p * 0x1000 + off) = none := by
  generalize hq : p * 0x1000 + off = q
  have hk : q % 0x1000 < 0x40 := by omega
  unfold critWordOf
  have hn : ∀ k, (decide (k % 0x1000 < 0x40)) = false → ¬ q = k := by intro k e h; subst h; simp [hk] at e
  iterate 30 (refine (if_neg (hn _ ?_)).trans ?_; · rfl)
  refine if_neg ?_
  intro ⟨h1, h2, h3⟩
  have a : Reg.CRIT.WORD 0 = 0x5080 := rfl
  have b : Reg.CRIT.WORD 31 = 0x50FC := rfl
  rw [a] at h1; rw [b] at h2; omega

/-- A write of a header register has the header's effect (R43). -/
theorem header_effect (req : Requester) (p off : Nat) (v : Word) (o : Outside) (s : State) (h : off < 0x40) :
    busEffect req (p * 0x1000 + off) v o s = headerWrite p off v s := by
  unfold busEffect; rw [if_neg (by intro e; have : Reg.DBG.MEM_CTRL = 0x8109C := rfl; rw [this] at e; omega)]
  unfold regEffect; rw [crit_none p off h]
  dsimp only
  rw [show (p * 0x1000 + off) % 0x1000 = off by omega, show (p * 0x1000 + off) / 0x1000 = p by omega, if_pos h]

theorem not_of {b : Bool} (h : b = false) : ¬ b = true := by rw [h]; decide

/-- A register that was just set reads as set. -/
theorem setReg_same (s : State) (k : Nat) (v : Word) : (s.setReg k v).reg k = v := by rw [reg_setReg, if_pos rfl]

/-- A 64-bit quantity reads back (R39). -/
theorem reg64_set (s : State) (lo n : Nat) : (s.setReg64 lo n).reg64 lo = n % 2 ^ 64 := by
  unfold State.setReg64 State.reg64 ofWords
  have a1 : ((s.setReg lo (loWord n)).setReg (lo + 4) (hiWord n)).reg (lo + 4) = hiWord n := by rw [reg_setReg, if_pos rfl]
  have a2 : ((s.setReg lo (loWord n)).setReg (lo + 4) (hiWord n)).reg lo = loWord n := by
    rw [reg_setReg, if_neg (by omega), reg_setReg, if_pos rfl]
  rw [a1, a2]
  unfold loWord hiWord word; rw [BitVec.toNat_ofNat, BitVec.toNat_ofNat]; omega

theorem reg64_other (s : State) (lo n j : Nat) (h1 : j ≠ lo) (h2 : j ≠ lo + 4) : (s.setReg64 lo n).reg j = s.reg j := by
  unfold State.setReg64; rw [setReg_other _ _ _ h2, setReg_other _ _ _ h1]

/-! ### Critical words -/

theorem critCopy_put (c : CritCopy) (n m : Nat) (v : Word) : (c.put n v).get m = if m = n then v else c.get m := SMap.get_set ..

/-- What a write of a critical word leaves in its store (R84). -/
theorem critPut_crit (n : Nat) (v : Word) (s : State) : (s.critPut n v).crit =
    { a := s.crit.a.put n v, b := s.crit.b.put n v, c := s.crit.c.put n v, bad := s.crit.bad.filter (· ≠ n), wroteAt := s.time
      wrote := n :: (if s.crit.wroteAt = s.time then s.crit.wrote else []) } := by
  unfold State.critPut; dsimp only; split <;> rfl

/-- A critical word reads back as written (R84, R86). -/
theorem critVal_critPut (s : State) (n : Nat) (v : Word) : (s.critPut n v).critVal n = v := by
  unfold State.critVal; rw [critPut_crit, if_neg (by simp)]
  unfold critVote; dsimp only; rw [critCopy_put, critCopy_put, if_pos rfl, if_pos rfl, if_pos rfl]

/-- A field of a critical word reads back as written. -/
theorem critFld_setCritFld (s : State) (n hi lo v : Nat) (h : hi < 32) : (s.setCritFld n hi lo v).critFld n hi lo = v % 2 ^ (hi + 1 - lo) := by
  unfold State.critFld State.setCritFld; rw [critVal_critPut, fld_setFld _ _ _ _ h]

/-- A write of a critical word changes no register but the mark of an uncorrectable word (R87). -/
theorem critPut_reg (s : State) (n : Nat) (v : Word) (k : Nat) (h : k ≠ Reg.CRIT.CRIT_STATUS) : (s.critPut n v).reg k = s.reg k := by
  unfold State.critPut; dsimp only; split
  · rw [setBit_other _ _ _ _ h]; rfl
  · rfl

end Sys2Proof.Machine
end

