-- ==== Sys2Proof/Laws/Regs.lean ====
section
/-! SUPPORT. Which registers the shared operations write: from registers unchanged but at the keys of `q`, to the same after one more
operation whose keys are among them. -/

namespace Sys2Proof.Machine

variable {q : Nat → Bool} {s u : State}

theorem sameRegs_refl (q : Nat → Bool) (s : State) : SameRegs q s s := fun _ _ => rfl

theorem sameRegs_of_regs {t : State} (h : SameRegs q s u) (e : t.regs = u.regs) : SameRegs q s t :=
  fun k hk => (reg_of_regs e k).trans (h k hk)

theorem sameRegs_setReg (h : SameRegs q s u) (k : Nat) (v : Word) (hk : q k = true) : SameRegs q s (u.setReg k v) := by
  intro j hj
  rw [setReg_other _ _ _ (by rintro rfl; rw [hk] at hj; cases hj), h j hj]

theorem sameRegs_setFld (h : SameRegs q s u) (k hi lo v : Nat) (hk : q k = true) : SameRegs q s (u.setFld k hi lo v) :=
  sameRegs_setReg h k _ hk

theorem sameRegs_setBit (h : SameRegs q s u) (k i : Nat) (b : Bool) (hk : q k = true) : SameRegs q s (u.setBit k i b) :=
  sameRegs_setReg h k _ hk

theorem sameRegs_count (h : SameRegs q s u) (k n : Nat) (hk : q k = true) : SameRegs q s (u.count k n) := sameRegs_setReg h k _ hk

/-- An event writes EV_PEND of its page alone. -/
theorem sameRegs_raise (h : SameRegs q s u) (p k sev code : Nat) (pl : Payload) (hp : q (Reg.EV_PEND p) = true) :
    SameRegs q s (raise p k sev code pl u) := by
  unfold raise
  dsimp only
  split
  · split
    · exact fun j hj => sameRegs_setBit h _ k true hp j hj
    · exact sameRegs_setBit h _ k true hp
  · exact h

/-- A lasting error writes EV_PEND, FAULT_CODE and STATUS of its page alone. -/
theorem sameRegs_lasting (h : SameRegs q s u) (p k code : Nat) (pl : Payload) (h1 : q (Reg.EV_PEND p) = true)
    (h2 : q (Reg.FAULT_CODE p) = true) (h3 : q (Reg.STATUS p) = true) : SameRegs q s (lasting p k code pl u) := by
  have a : SameRegs q s (recordFault p 3 (sourceOf p k) code (raise p k 3 code pl u)) := by
    unfold recordFault
    split
    · exact sameRegs_raise h _ _ _ _ _ h1
    · exact sameRegs_setBit (sameRegs_setReg (sameRegs_raise h _ _ _ _ _ h1) _ _ h2) _ _ _ h3
  unfold lasting haltFault
  dsimp only
  split
  · exact fun j hj => a j hj
  · exact a

/-- A refused access writes the registers of its record alone (R38, R42, R553). -/
theorem sameRegs_refuseAccess (h : SameRegs q s u) (req : Requester) (a : Addr) (wr : Bool) (kind : Nat) (hk : kind ≠ 6)
    (hq : ∀ k, recordsAccess k = true → q k = true) : SameRegs q s (refuseAccess req a wr kind u) := by
  unfold refuseAccess
  dsimp only
  rw [if_neg hk]
  refine sameRegs_raise (sameRegs_count (sameRegs_setReg (sameRegs_setReg (sameRegs_setReg h _ _ ?_) _ _ ?_) _ _ ?_) _ _ ?_) _ _ _ _ _ ?_
    <;> exact hq _ (by decide)

/-- A bus answer writes no register. -/
theorem sameRegs_busOk (h : SameRegs q s u) (v : Word) : SameRegs q s (busOk v u) := fun j hj => h j hj

theorem sameRegs_busError (h : SameRegs q s u) : SameRegs q s (busError u) := fun j hj => h j hj

/-- A write command writes what its effect writes, or the record of a refused access. -/
theorem sameRegs_withWrite (req : Requester) (k : Nat) (v : Word) (eff : State → State)
    (hq : ∀ k, recordsAccess k = true → q k = true) (h : ∀ u, SameRegs q s u → SameRegs q s (eff u)) :
    SameRegs q s (withWrite req k v eff s) := by
  have z := sameRegs_refl q s
  have r : ∀ kind, kind ≠ 6 → SameRegs q s (refuseAccess req (keyAddr k) true kind s) := fun kind hk =>
    sameRegs_refuseAccess z _ _ _ _ hk hq
  have arrived : SameRegs q s (writeArrived req k eff s) := by
    unfold writeArrived
    dsimp only
    split
    · exact sameRegs_busOk (r 5 (by decide)) _
    split
    · exact sameRegs_busError (r 2 (by decide))
    split
    · exact sameRegs_busOk (r 2 (by decide)) _
    split
    · exact sameRegs_busOk (r 4 (by decide)) _
    · exact h _ (sameRegs_busOk z _)
  unfold withWrite withWriteOut
  dsimp only
  split
  · exact z
  split
  · exact sameRegs_busError (r 1 (by decide))
  split
  · exact sameRegs_busOk z _
  split
  · exact fun _ _ => rfl
  · exact arrived

theorem sameRegs_when (h : SameRegs q s u) (c : Bool) (f : State → State) (hf : c = true → SameRegs q s (f u)) :
    SameRegs q s (u.when c f) := by
  unfold State.when
  split
  · exact hf ‹_›
  · exact h

theorem sameRegs_foldl {α : Type} (f : State → α → State) (l : List α)
    (hf : ∀ u x, x ∈ l → SameRegs q s u → SameRegs q s (f u x)) (u : State) (h : SameRegs q s u) : SameRegs q s (l.foldl f u) :=
  List.foldlRecOn (motive := SameRegs q s) l f h fun v hv x hx => hf v x hx hv

end Sys2Proof.Machine
end

