-- ==== Sys2Proof/Laws/StaysBoatOps.lean ====
section
/-! SUPPORT. What the operations and meanings of Machine/BoatOps do at most. -/

set_option linter.all false
set_option maxRecDepth 4000

namespace Sys2Proof.Machine

theorem modBoat_stays (f : Boat → Boat) (s : State) :
    Stays [.boat] s (modBoat f s) := by
  unfold modBoat
  refine .app ?_ (.set_boat _ _) (by decide)
  exact .refl ..

theorem setXactHeld_stays (x : Nat) (n : Nat) (s : State) :
    Stays [.boat] s (setXactHeld x n s) := by
  unfold setXactHeld
  refine .app ?_ (modBoat_stays ..) (by decide)
  exact .refl ..

theorem xactComplete_stays (port : Nat) (ws : List Word) (status : Nat) (offset : Nat) (s : State) :
    Stays [.regs, .seen, .fabric, .returned] s (xactComplete port ws status offset s) := by
  unfold xactComplete
  refine .ite ?_ ?_
  · refine .app ?_ (.set_returned _ _) (by decide)
    exact .refl ..
  · refine .ite ?_ ?_
    · refine .app ?_ (raise_stays ..) (by decide)
      exact .refl ..
    · exact .refl ..

theorem xactRefuse_stays (port : Nat) (ws : List Word) (code : Nat) (s : State) :
    Stays [.regs, .seen, .fabric, .returned] s (xactRefuse port ws code s) := by
  unfold xactRefuse
  refine .app ?_ (xactComplete_stays ..) (by decide)
  refine .app ?_ (raise_stays ..) (by decide)
  exact .refl ..

theorem creditGiven_stays (asks : List CreditAsk) (s : State) :
    Stays [.boat] s (creditGiven asks s) := by
  unfold creditGiven
  refine .foldl _ _ (fun u x hu => ?_) ?_
  · refine .ite ?_ ?_
    · refine .app ?_ (setXactHeld_stays ..) (by decide)
      exact hu
    · exact hu
  · exact .refl ..

theorem joinWait_stays (a : CreditAsk) (a1 : State) :
    Stays [.boat] a1 (joinWait a a1) := by
  unfold joinWait
  refine .app ?_ (modBoat_stays ..) (by decide)
  exact .refl ..

theorem leaveWait_stays (a : CreditAsk) (a1 : State) :
    Stays [.boat] a1 (leaveWait a a1) := by
  unfold leaveWait
  refine .app ?_ (modBoat_stays ..) (by decide)
  exact .refl ..

theorem takeCredit_stays (a : CreditAsk) (s : State) :
    Stays [.boat] s (takeCredit a s) := by
  unfold takeCredit
  refine .app ?_ (leaveWait_stays ..) (by decide)
  refine .app ?_ (setXactHeld_stays ..) (by decide)
  exact .refl ..

theorem askCredit_stays (a : CreditAsk) (s : State) :
    Stays [.boat] s (askCredit a s) := by
  unfold askCredit
  refine .ite ?_ ?_
  · exact .refl ..
  · refine .app ?_ (joinWait_stays ..) (by decide)
    exact .refl ..

theorem xactTakeCredit_stays (port : Nat) (ws : List Word) (s : State) :
    Stays [.boat] s (xactTakeCredit port ws s) := by
  unfold xactTakeCredit
  extract_lets -underBinder -merge -useContext +onlyGivenNames a
  refine .ite ?_ ?_
  · refine .app ?_ (takeCredit_stays ..) (by decide)
    exact .refl ..
  · refine .app ?_ (joinWait_stays ..) (by decide)
    exact .refl ..

theorem xactGrantNext_stays (s : State) :
    Stays [.boat] s (xactGrantNext s) := by
  unfold xactGrantNext
  refine .foldl _ _ (fun u x hu => ?_) ?_
  · split
    · rename_i a1 port1 words1
      refine .ite ?_ ?_
      · refine .app ?_ (takeCredit_stays ..) (by decide)
        exact hu
      · exact hu
    · rename_i a1 e
      exact hu
  · exact .refl ..

theorem underCredit_stays {P : List Piece} {s0 : State} (a : CreditAsk) (f : State → State) (s : State) (h_f : ∀ u, Stays P s0 u → Stays P s0 (f u)) (hq : sub [.boat] P = true) (h0 : Stays P s0 s) :
    Stays P s0 (underCredit a f s) := by
  unfold underCredit
  extract_lets -underBinder -merge -useContext +onlyGivenNames t
  have h_t : Stays P s0 t := by
    dsimp -zeta only [t]
    refine h_f _ ?_
    refine .app ?_ (takeCredit_stays ..) (sub_trans (by decide) hq)
    exact h0
  clear_value t
  refine .ite ?_ ?_
  · refine .app ?_ (xactGrantNext_stays ..) (sub_trans (by decide) hq)
    refine .app ?_ (setXactHeld_stays ..) (sub_trans (by decide) hq)
    exact h_t
  · refine .app ?_ (askCredit_stays ..) (sub_trans (by decide) hq)
    exact h0

theorem xactReturn_stays (port : Nat) (ws : List Word) (s : State) :
    Stays [.boat] s (xactReturn port ws s) := by
  unfold xactReturn
  refine .ite ?_ ?_
  · refine .app ?_ (xactGrantNext_stays ..) (by decide)
    refine .app ?_ (leaveWait_stays ..) (by decide)
    exact .refl ..
  · refine .app ?_ (xactGrantNext_stays ..) (by decide)
    refine .app ?_ (setXactHeld_stays ..) (by decide)
    exact .refl ..

theorem addDirty_stays (n : Nat) (s : State) :
    Stays [.regs] s (addDirty n s) := by
  unfold addDirty
  refine .app ?_ (State.setFld_stays ..) (by decide)
  exact .refl ..

theorem releaseDirty_stays (n : Nat) (s : State) :
    Stays [.regs, .seen, .fabric] s (releaseDirty n s) := by
  unfold releaseDirty
  refine .ite ?_ ?_
  · refine .app ?_ (raise_stays ..) (by decide)
    refine .app ?_ (State.setFld_stays ..) (by decide)
    exact .refl ..
  · refine .app ?_ (State.setFld_stays ..) (by decide)
    exact .refl ..

theorem wbFall_stays (reason : Nat) (s : State) :
    Stays [.regs, .seen, .fabric, .crit, .safePending, .boat] s (wbFall reason s) := by
  unfold wbFall
  extract_lets -underBinder -merge -useContext +onlyGivenNames s1 s2
  have h_s1 : Stays [.regs, .seen, .fabric, .crit, .safePending, .boat] s s1 := by
    dsimp -zeta only [s1]
    refine .app ?_ (State.setCritFld_stays ..) (by decide)
    refine .app ?_ (State.setCritFld_stays ..) (by decide)
    exact .refl ..
  clear_value s1
  have h_s2 : Stays [.regs, .seen, .fabric, .crit, .safePending, .boat] s s2 := by
    dsimp -zeta only [s2]
    refine .app ?_ (modBoat_stays ..) (by decide)
    exact h_s1
  clear_value s2
  refine .ite ?_ ?_
  · refine .app ?_ (raise_stays ..) (by decide)
    exact h_s2
  · exact .refl ..

end Sys2Proof.Machine
end

