-- ==== Sys2Proof/Laws/StaysMemory.lean ====
section
/-! SUPPORT. What the operations and meanings of Machine/Memory do at most. -/

set_option linter.all false
set_option maxRecDepth 4000

namespace Sys2Proof.Machine

theorem State.putByte_stays (s : State) (a : Nat) (b : Byte) :
    Stays [.mem] s (State.putByte s a b) :=
  .set_mem s _ (SMap.wf_set blankByte s.mem a b)

theorem State.putBytes_stays (s : State) (a : Nat) (a1 : List Byte) :
    Stays [.mem] s (State.putBytes s a a1) := by
  induction a1 generalizing s a with
  | nil =>
    unfold State.putBytes
    exact .refl ..
  | cons x l ih =>
    unfold State.putBytes
    refine .app ?_ (ih ..) (by decide)
    refine .app ?_ (State.putByte_stays ..) (by decide)
    exact .refl ..

theorem State.putWord_stays (s : State) (a : Nat) (w : Word) :
    Stays [.mem] s (State.putWord s a w) := by
  unfold State.putWord
  refine .app ?_ (State.putBytes_stays ..) (by decide)
  exact .refl ..

theorem putCheck_stays (g : Nat) (c : BitVec 64) (s : State) :
    Stays [.checks] s (putCheck g c s) := by
  unfold putCheck
  refine .app ?_ (.set_checks _ _) (by decide)
  exact .refl ..

theorem putGranule_stays (g : Nat) (b : Beat) (s : State) :
    Stays [.regs, .mem, .checks] s (putGranule g b s) := by
  unfold putGranule
  refine .app ?_ (State.count_stays ..) (by decide)
  refine .app ?_ (putCheck_stays ..) (by decide)
  refine .app ?_ (State.putBytes_stays ..) (by decide)
  exact .refl ..

theorem strikeDram_stays (x : DramStrike) (s : State) :
    Stays [.mem, .checks] s (strikeDram x s) := by
  unfold strikeDram
  extract_lets -underBinder -merge -useContext +onlyGivenNames a bytes
  refine .app ?_ (putCheck_stays ..) (by decide)
  refine .app ?_ (State.putBytes_stays ..) (by decide)
  exact .refl ..

theorem strikeAllDram_stays (n : DramNoise) (s : State) :
    Stays [.mem, .checks, .boat] s (strikeAllDram n s) := by
  unfold strikeAllDram
  extract_lets -underBinder -merge -useContext +onlyGivenNames s1 vsrc
  have h_s1 : Stays [.mem, .checks, .boat] s s1 := by
    dsimp -zeta only [s1]
    refine .foldl _ _ (fun u x hu => ?_) ?_
    · refine .app ?_ (strikeDram_stays ..) (by decide)
      exact hu
    · exact .refl ..
  clear_value s1
  refine .app ?_ (.set_boat _ _) (by decide)
  exact h_s1

theorem calmGranule_stays (g : Nat) (s : State) :
    Stays [.boat] s (calmGranule g s) := by
  unfold calmGranule
  extract_lets -underBinder -merge -useContext +onlyGivenNames vsrc
  refine .app ?_ (.set_boat _ _) (by decide)
  exact .refl ..

theorem readGranule_stays (sole : Bool) (who : Nat) (noise : DramNoise) (g : Nat) (s : State) :
    Stays [.regs, .seen, .fabric, .stopped, .checks, .boat] s (readGranule sole who noise g s).2.2 := by
  unfold readGranule
  extract_lets -underBinder -merge -useContext +onlyGivenNames s1 off pl beat s2 s2_1 s3 s4
  have h_s1 : Stays [.regs, .seen, .fabric, .stopped, .checks, .boat] s s1 := by
    dsimp -zeta only [s1]
    refine .app ?_ (State.count_stays ..) (by decide)
    exact .refl ..
  clear_value s1
  have h_s2 : Stays [.regs, .seen, .fabric, .stopped, .checks, .boat] s s2 := by
    dsimp -zeta only [s2]
    refine .ite ?_ ?_
    · refine .app ?_ (raise_stays ..) (by decide)
      refine .app ?_ (State.count_stays ..) (by decide)
      refine .app ?_ (State.count_stays ..) (by decide)
      refine .app ?_ (calmGranule_stays ..) (by decide)
      exact h_s1
    · exact h_s1
  clear_value s2
  have h_s2_1 : Stays [.regs, .seen, .fabric, .stopped, .checks, .boat] s s2_1 := by
    dsimp -zeta only [s2_1]
    refine .app ?_ (State.count_stays ..) (by decide)
    refine .app ?_ (State.count_stays ..) (by decide)
    refine .app ?_ (calmGranule_stays ..) (by decide)
    exact h_s1
  clear_value s2_1
  have h_s3 : Stays [.regs, .seen, .fabric, .stopped, .checks, .boat] s s3 := by
    dsimp -zeta only [s3]
    refine .app ?_ (lasting_stays ..) (by decide)
    refine .app ?_ (State.setReg64_stays ..) (by decide)
    exact h_s2_1
  clear_value s3
  have h_s4 : Stays [.regs, .seen, .fabric, .stopped, .checks, .boat] s s4 := by
    dsimp -zeta only [s4]
    refine .app ?_ (State.count_stays ..) (by decide)
    refine .app ?_ (putCheck_stays ..) (by decide)
    exact h_s3
  clear_value s4
  split
  · rename_i e
    refine .triple ?_
    exact h_s2
  · rename_i e
    split
    · rename_i e1
      refine .triple ?_
      refine .app ?_ (raise_stays ..) (by decide)
      refine .app ?_ (State.count_stays ..) (by decide)
      exact h_s4
    · rename_i e1
      refine .triple ?_
      exact h_s3

theorem readGranules_stays (sole : Bool) (who : Nat) (noise : DramNoise) (g : Nat) (a : Nat) (a1 : State) :
    Stays [.regs, .seen, .fabric, .stopped, .checks, .boat] a1 (readGranules sole who noise g a a1).2.2.2 := by
  induction a generalizing sole who noise g a1 with
  | zero =>
    unfold readGranules
    dsimp -zeta only
    exact .refl ..
  | succ n ih =>
    unfold readGranules
    extract_lets -underBinder -merge -useContext +onlyGivenNames r rest
    have h_r : Stays [.regs, .seen, .fabric, .stopped, .checks, .boat] a1 r.2.2 := by
      dsimp -zeta only [r]
      refine .app ?_ (readGranule_stays ..) (by decide)
      exact .refl ..
    clear_value r
    have h_rest : Stays [.regs, .seen, .fabric, .stopped, .checks, .boat] a1 rest.2.2.2 := by
      dsimp -zeta only [rest]
      refine .app ?_ (ih ..) (by decide)
      exact h_r
    clear_value rest
    split
    · rename_i e
      refine .quad ?_
      exact h_rest
    · rename_i e
      refine .quad ?_
      exact h_rest

theorem fetchBytes_stays (sole : Bool) (who : Nat) (off : Nat) (n : Nat) (s : State) :
    Stays [.regs, .seen, .fabric, .stopped, .checks, .boat] s (fetchBytes sole who off n s).2.2 := by
  unfold fetchBytes
  extract_lets -underBinder -merge -useContext +onlyGivenNames g r
  have h_r : Stays [.regs, .seen, .fabric, .stopped, .checks, .boat] s r.2.2.2 := by
    dsimp -zeta only [r]
    refine .app ?_ (readGranules_stays ..) (by decide)
    exact .refl ..
  clear_value r
  refine .triple ?_
  exact h_r

theorem fetchWords_stays (sole : Bool) (who : Nat) (off : Nat) (n : Nat) (s : State) :
    Stays [.regs, .seen, .fabric, .stopped, .checks, .boat] s (fetchWords sole who off n s).2.2 := by
  unfold fetchWords
  extract_lets -underBinder -merge -useContext +onlyGivenNames r
  have h_r : Stays [.regs, .seen, .fabric, .stopped, .checks, .boat] s r.2.2 := by
    dsimp -zeta only [r]
    refine .app ?_ (fetchBytes_stays ..) (by decide)
    exact .refl ..
  clear_value r
  refine .triple ?_
  exact h_r

theorem storeGran_stays (off : Nat) (bs : List Byte) (s : State) (g : Nat) :
    Stays [.regs, .seen, .fabric, .stopped, .mem, .checks, .boat] s (storeGran off bs s g) := by
  unfold storeGran
  extract_lets -underBinder -merge -useContext +onlyGivenNames r
  have h_r : Stays [.regs, .seen, .fabric, .stopped, .mem, .checks, .boat] s r.2.2 := by
    dsimp -zeta only [r]
    refine .app ?_ (readGranule_stays ..) (by decide)
    exact .refl ..
  clear_value r
  refine .ite ?_ ?_
  · refine .app ?_ (putGranule_stays ..) (by decide)
    exact .refl ..
  · refine .app ?_ (putGranule_stays ..) (by decide)
    exact h_r

theorem storeBytes_stays (off : Nat) (bs : List Byte) (s : State) :
    Stays [.regs, .seen, .fabric, .stopped, .mem, .checks, .boat] s (storeBytes off bs s) := by
  unfold storeBytes
  refine .foldl _ _ (fun u x hu => ?_) ?_
  · refine .app ?_ (storeGran_stays ..) (by decide)
    exact hu
  · exact .refl ..

end Sys2Proof.Machine
end

