-- ==== Sys2Proof/Laws/StaysOarOps.lean ====
section
/-! SUPPORT. What the operations and meanings of Machine/OarOps do at most. -/

set_option linter.all false
set_option maxRecDepth 4000

namespace Sys2Proof.Machine

theorem modOar_stays (o : Nat) (f : Oar → Oar) (s : State) :
    Stays [.oars] s (modOar o f s) := by
  unfold modOar
  refine .app ?_ (.set_oars _ _) (by decide)
  exact .refl ..

theorem setEntry_stays (o : Nat) (e : Nat) (x : Option JobEntry) (s : State) :
    Stays [.oars] s (setEntry o e x s) := by
  unfold setEntry
  refine .app ?_ (modOar_stays ..) (by decide)
  exact .refl ..

theorem modEntry_stays (o : Nat) (e : Nat) (f : JobEntry → JobEntry) (s : State) :
    Stays [.oars] s (modEntry o e f s) := by
  unfold modEntry
  split
  · rename_i x1 x2 e1
    refine .app ?_ (setEntry_stays ..) (by decide)
    exact .refl ..
  · rename_i x1 e1
    exact .refl ..

theorem mediaReturn_stays (s : State) :
    Stays [.boat] s (mediaReturn s) := by
  unfold mediaReturn
  refine .app ?_ (xactGrantNext_stays ..) (by decide)
  refine .app ?_ (setXactHeld_stays ..) (by decide)
  exact .refl ..

theorem entryCredit_stays (o : Nat) (e : Nat) (s : State) :
    Stays [.oars, .boat] s (entryCredit o e s) := by
  unfold entryCredit
  split
  · rename_i x1 e1
    exact .refl ..
  · rename_i x1 x2 e1
    refine .ite ?_ ?_
    · exact .refl ..
    · refine .ite ?_ ?_
      · refine .app ?_ (setEntry_stays ..) (by decide)
        refine .app ?_ (takeCredit_stays ..) (by decide)
        exact .refl ..
      · refine .app ?_ (askCredit_stays ..) (by decide)
        exact .refl ..

theorem endEntry_stays (o : Nat) (e : Nat) (cause : Nat) (s : State) :
    Stays [.regs, .seen, .fabric, .stopped, .oars, .boat] s (endEntry o e cause s) := by
  unfold endEntry
  split
  · rename_i x1 e1
    exact .refl ..
  · rename_i x1 x2 e1
    extract_lets -underBinder -merge -useContext +onlyGivenNames s1 s2
    have h_s1 : Stays [.regs, .seen, .fabric, .stopped, .oars, .boat] s s1 := by
      dsimp -zeta only [s1]
      refine .app ?_ (setEntry_stays ..) (by decide)
      exact .refl ..
    clear_value s1
    have h_s2 : Stays [.regs, .seen, .fabric, .stopped, .oars, .boat] s s2 := by
      dsimp -zeta only [s2]
      refine .ite ?_ ?_
      · refine .app ?_ (mediaReturn_stays ..) (by decide)
        exact h_s1
      · exact h_s1
    clear_value s2
    refine .ite ?_ ?_
    · exact h_s2
    · refine .app ?_ (lasting_stays ..) (by decide)
      refine .app ?_ (State.count_stays ..) (by decide)
      exact h_s2

theorem setInflight_stays (i : Nat) (w : Word) (s : State) :
    Stays [.regs, .seen, .fabric, .stopped, .mem, .checks, .boat] s (setInflight i w s) := by
  unfold setInflight
  refine .app ?_ (storeBytes_stays ..) (by decide)
  exact .refl ..

theorem putInflight_stays (i : Nat) (member : Nat) (track : Nat) (sector : Nat) (seq : Nat) (payload : List Byte) (s : State) :
    Stays [.regs, .seen, .fabric, .stopped, .mem, .checks, .boat] s (putInflight i member track sector seq payload s) := by
  unfold putInflight
  extract_lets -underBinder -merge -useContext +onlyGivenNames head
  refine .app ?_ (storeBytes_stays ..) (by decide)
  exact .refl ..

theorem raiseGate_stays (o : Nat) (w : Nat) (s : State) :
    Stays [.regs, .hda] s (raiseGate o w s) := by
  unfold raiseGate
  extract_lets -underBinder -merge -useContext +onlyGivenNames s1 vsrc
  have h_s1 : Stays [.regs, .hda] s s1 := by
    dsimp -zeta only [s1]
    refine .app ?_ (State.setFld_stays ..) (by decide)
    refine .app ?_ (State.setBit_stays ..) (by decide)
    exact .refl ..
  clear_value s1
  refine .app ?_ (.set_hda _ _) (by decide)
  exact h_s1

theorem dropGate_stays (o : Nat) (s : State) :
    Stays [.regs, .hda] s (dropGate o s) := by
  unfold dropGate
  extract_lets -underBinder -merge -useContext +onlyGivenNames s1 vsrc
  have h_s1 : Stays [.regs, .hda] s s1 := by
    dsimp -zeta only [s1]
    refine .app ?_ (State.setFld_stays ..) (by decide)
    exact .refl ..
  clear_value s1
  refine .app ?_ (.set_hda _ _) (by decide)
  exact h_s1

theorem cutOar_stays (o : Nat) (cause : Nat) (s : State) :
    Stays [.regs, .seen, .fabric, .stopped, .hda, .oars, .mem, .checks, .boat] s (cutOar o cause s) := by
  unfold cutOar
  split
  · rename_i x1 e1 e2
    extract_lets -underBinder -merge -useContext +onlyGivenNames s1
    have h_s1 : Stays [.regs, .seen, .fabric, .stopped, .hda, .oars, .mem, .checks, .boat] s s1 := by
      dsimp -zeta only [s1]
      refine .app ?_ (dropGate_stays ..) (by decide)
      refine .app ?_ (modOar_stays ..) (by decide)
      exact .refl ..
    clear_value s1
    split
    · rename_i x2 e
      extract_lets -underBinder -merge -useContext +onlyGivenNames s2
      have h_s2 : Stays [.regs, .seen, .fabric, .stopped, .hda, .oars, .mem, .checks, .boat] s s2 := by
        dsimp -zeta only [s2]
        refine .app ?_ (State.count_stays ..) (by decide)
        exact h_s1
      clear_value s2
      refine .ite ?_ ?_
      · exact h_s2
      · refine .app ?_ (raise_stays ..) (by decide)
        exact h_s2
    · rename_i x2 x3 e
      extract_lets -underBinder -merge -useContext +onlyGivenNames s2 s3
      have h_s2 : Stays [.regs, .seen, .fabric, .stopped, .hda, .oars, .mem, .checks, .boat] s s2 := by
        dsimp -zeta only [s2]
        split
        · rename_i x4 i1 e3
          refine .app ?_ (setInflight_stays ..) (by decide)
          exact h_s1
        · rename_i x4 e3
          exact h_s1
      clear_value s2
      have h_s3 : Stays [.regs, .seen, .fabric, .stopped, .hda, .oars, .mem, .checks, .boat] s s3 := by
        dsimp -zeta only [s3]
        refine .app ?_ (State.count_stays ..) (by decide)
        exact h_s2
      clear_value s3
      refine .ite ?_ ?_
      · refine .ite ?_ ?_
        · refine .app ?_ (endEntry_stays ..) (by decide)
          exact h_s3
        · refine .app ?_ (modEntry_stays ..) (by decide)
          exact h_s3
      · refine .app ?_ (raise_stays ..) (by decide)
        refine .app ?_ (modEntry_stays ..) (by decide)
        exact h_s3
  · rename_i x1 e
    exact .refl ..

theorem cutSlot_stays (a : Nat) (k : Nat) (cause : Nat) (s : State) :
    Stays [.regs, .seen, .fabric, .stopped, .hda, .oars, .mem, .checks, .boat] s (cutSlot a k cause s) := by
  unfold cutSlot
  refine .app ?_ (cutOar_stays ..) (by decide)
  exact .refl ..

theorem cutActuator_stays (a : Nat) (cause : Nat) (s : State) :
    Stays [.regs, .seen, .fabric, .stopped, .hda, .oars, .mem, .checks, .boat] s (cutActuator a cause s) := by
  unfold cutActuator
  refine .foldl _ _ (fun u x hu => ?_) ?_
  · refine .app ?_ (cutSlot_stays ..) (by decide)
    exact hu
  · exact .refl ..

theorem cutAll_stays (cause : Nat) (s : State) :
    Stays [.regs, .seen, .fabric, .stopped, .hda, .oars, .mem, .checks, .boat] s (cutAll cause s) := by
  unfold cutAll
  refine .foldl _ _ (fun u x hu => ?_) ?_
  · refine .app ?_ (cutOar_stays ..) (by decide)
    exact hu
  · exact .refl ..

theorem markSlotRead_stays (a : Nat) (k : Nat) (s : State) :
    Stays [.oars, .sweep] s (markSlotRead a k s) := by
  unfold markSlotRead
  split
  · rename_i x1 e1 e2
    extract_lets -underBinder -merge -useContext +onlyGivenNames s1
    have h_s1 : Stays [.oars, .sweep] s s1 := by
      dsimp -zeta only [s1]
      refine .app ?_ (modEntry_stays ..) (by decide)
      exact .refl ..
    clear_value s1
    split
    · rename_i x2 i1 e
      extract_lets -underBinder -merge -useContext +onlyGivenNames d vsrc
      refine .app ?_ (.set_sweep _ _) (by decide)
      exact h_s1
    · rename_i x2 e
      exact h_s1
  · rename_i x1 e
    exact .refl ..

theorem markAllReads_stays (s : State) :
    Stays [.oars, .sweep] s (markAllReads s) := by
  unfold markAllReads
  refine .foldl _ _ (fun u x hu => ?_) ?_
  · refine .app ?_ (markSlotRead_stays ..) (by decide)
    exact hu
  · exact .refl ..

theorem modGate_stays (a : Nat) (f : Gate → Gate) (s : State) :
    Stays [.gates] s (modGate a f s) := by
  unfold modGate
  refine .app ?_ (.set_gates _ _) (by decide)
  exact .refl ..

theorem modRun_stays (a : Nat) (id : Nat) (f : Run → Run) (s : State) :
    Stays [.gates] s (modRun a id f s) := by
  unfold modRun
  refine .app ?_ (modGate_stays ..) (by decide)
  exact .refl ..

theorem markPoisoned_stays (o : Nat) (e : Nat) (s : State) :
    Stays [.gates] s (markPoisoned o e s) := by
  unfold markPoisoned
  split
  · rename_i x1 id1 fst1 snd1 e1
    refine .app ?_ (modRun_stays ..) (by decide)
    exact .refl ..
  · rename_i x1 e1
    exact .refl ..

end Sys2Proof.Machine
end

