-- ==== Sys2Proof/Laws/StaysEngine.lean ====
section
/-! SUPPORT. What the operations and meanings of Machine/Engine do at most. -/

set_option linter.all false
set_option maxRecDepth 4000

namespace Sys2Proof.Machine

theorem setMicro_stays (c : Nat) (m : Micro) (s : State) :
    Stays [.ucode] s (setMicro c m s) := by
  unfold setMicro
  extract_lets -underBinder -merge -useContext +onlyGivenNames vsrc
  refine .app ?_ (.set_ucode _ _) (by decide)
  exact .refl ..

theorem microRun_stays (c : Nat) (a : Nat) (x : MicroFetch) (s : State) :
    Stays [.ucode] s (microRun c a x s) := by
  unfold microRun
  split
  · rename_i x1 e
    exact .refl ..
  · rename_i x1 stored1 e
    refine .app ?_ (setMicro_stays ..) (by decide)
    exact .refl ..

theorem restoreCopy_stays (c : Nat) (s : State) :
    Stays [.ucode] s (restoreCopy c s) := by
  unfold restoreCopy
  extract_lets -underBinder -merge -useContext +onlyGivenNames k ws ms vsrc
  refine .app ?_ (setMicro_stays ..) (by decide)
  refine .app ?_ (.set_ucode _ _) (by decide)
  exact .refl ..

theorem keyEnded_stays (slot : Nat) (s : State) :
    Stays [.regs, .seen, .fabric, .cryptos] s (keyEnded slot s) := by
  unfold keyEnded
  split
  · rename_i x1 e
    exact .refl ..
  · rename_i x1 n1 e
    extract_lets -underBinder -merge -useContext +onlyGivenNames c quiet s1 s2
    have h_s1 : Stays [.regs, .seen, .fabric, .cryptos] s s1 := by
      dsimp -zeta only [s1]
      refine .app ?_ (.set_cryptos _ _) (by decide)
      exact .refl ..
    clear_value s1
    have h_s2 : Stays [.regs, .seen, .fabric, .cryptos] s s2 := by
      dsimp -zeta only [s2]
      refine .app ?_ (State.count_stays ..) (by decide)
      exact h_s1
    clear_value s2
    refine .ite ?_ ?_
    · refine .app ?_ (raise_stays ..) (by decide)
      exact h_s2
    · exact h_s2

theorem xtsPass_stays (enc : Bool) (keys : List Byte) (seed : Nat) (lun : Nat) (host : List Byte) (s : State) :
    Stays [.regs] s (xtsPass enc keys seed lun host s).2 := by
  unfold xtsPass
  extract_lets -underBinder -merge -useContext +onlyGivenNames s1
  have h_s1 : Stays [.regs] s s1 := by
    dsimp -zeta only [s1]
    split
    · rename_i x1 m1 e
      refine .app ?_ (State.count_stays ..) (by decide)
      exact .refl ..
    · rename_i x1 e
      exact .refl ..
  clear_value s1
  refine .pair ?_
  exact h_s1

end Sys2Proof.Machine
end

