-- ==== Sys2Proof/Laws/StaysTuneOps.lean ====
section
/-! SUPPORT. What the operations and meanings of Machine/TuneOps do at most. -/

set_option linter.all false
set_option maxRecDepth 4000

namespace Sys2Proof.Machine

theorem modTune_stays (p : Nat) (f : Tune → Tune) (s : State) :
    Stays [.tunes] s (modTune p f s) := by
  unfold modTune
  refine .app ?_ (.set_tunes _ _) (by decide)
  exact .refl ..

theorem setTrState_stays (p : Nat) (st : Nat) (code : Nat) (s : State) :
    Stays [.regs] s (setTrState p st code s) := by
  unfold setTrState
  refine .app ?_ (State.setFld_stays ..) (by decide)
  refine .app ?_ (State.setFld_stays ..) (by decide)
  exact .refl ..

theorem trTrigger_stays (p : Nat) (src : Nat) (force : Bool) (s : State) :
    Stays [.tunes] s (trTrigger p src force s) := by
  unfold trTrigger
  refine .ite ?_ ?_
  · refine .app ?_ (modTune_stays ..) (by decide)
    exact .refl ..
  · exact .refl ..

theorem trPut_stays (p : Nat) (a : Nat) (a1 : List Byte) (a2 : State) :
    Stays [.tunes] a2 (trPut p a a1 a2) := by
  induction a1 generalizing p a a2 with
  | nil =>
    unfold trPut
    exact .refl ..
  | cons x l ih =>
    unfold trPut
    refine .app ?_ (ih ..) (by decide)
    refine .app ?_ (modTune_stays ..) (by decide)
    exact .refl ..

theorem trRecord_stays (p : Nat) (value : Nat → Int) (s : State) :
    Stays [.tunes] s (trRecord p value s) := by
  unfold trRecord
  extract_lets -underBinder -merge -useContext +onlyGivenNames n data idx
  refine .app ?_ (modTune_stays ..) (by decide)
  refine .app ?_ (trPut_stays ..) (by decide)
  exact .refl ..

theorem levelTrigger_stays (p : Nat) (value : Nat → Int) (s : State) :
    Stays [.tunes] s (levelTrigger p value s) := by
  unfold levelTrigger
  extract_lets -underBinder -merge -useContext +onlyGivenNames v l prev s1 s2
  have h_s1 : Stays [.tunes] s s1 := by
    dsimp -zeta only [s1]
    refine .ite ?_ ?_
    · refine .app ?_ (trTrigger_stays ..) (by decide)
      exact .refl ..
    · exact .refl ..
  clear_value s1
  have h_s2 : Stays [.tunes] s s2 := by
    dsimp -zeta only [s2]
    refine .ite ?_ ?_
    · refine .app ?_ (trTrigger_stays ..) (by decide)
      exact h_s1
    · exact h_s1
  clear_value s2
  refine .app ?_ (modTune_stays ..) (by decide)
  exact h_s2

theorem takeTrigger_stays (p : Nat) (s : State) :
    Stays [.regs, .tunes] s (takeTrigger p s) := by
  unfold takeTrigger
  split
  · rename_i x1 e
    exact .refl ..
  · rename_i x1 t01 e
    extract_lets -underBinder -merge -useContext +onlyGivenNames s1
    have h_s1 : Stays [.regs, .tunes] s s1 := by
      dsimp -zeta only [s1]
      refine .app ?_ (State.setReg64_stays ..) (by decide)
      refine .app ?_ (State.setReg_stays ..) (by decide)
      exact .refl ..
    clear_value s1
    refine .ite ?_ ?_
    · refine .app ?_ (modTune_stays ..) (by decide)
      refine .app ?_ (setTrState_stays ..) (by decide)
      exact h_s1
    · exact .refl ..

theorem traceStep_stays (p : Nat) (value : Nat → Int) (s : State) :
    Stays [.regs, .tunes] s (traceStep p value s) := by
  unfold traceStep
  extract_lets -underBinder -merge -useContext +onlyGivenNames s1
  have h_s1 : Stays [.regs, .tunes] s s1 := by
    dsimp -zeta only [s1]
    refine .app ?_ (takeTrigger_stays ..) (by decide)
    refine .app ?_ (levelTrigger_stays ..) (by decide)
    exact .refl ..
  clear_value s1
  refine .ite ?_ ?_
  · refine .ite ?_ ?_
    · exact h_s1
    · refine .app ?_ (modTune_stays ..) (by decide)
      refine .app ?_ (trRecord_stays ..) (by decide)
      exact h_s1
  · refine .app ?_ (trRecord_stays ..) (by decide)
    exact h_s1

theorem putSums_stays (p : Nat) (a : Nat) (a1 : List (Int × Int)) (a2 : State) :
    Stays [.tunes] a2 (putSums p a a1 a2) := by
  induction a1 generalizing p a a2 with
  | nil =>
    unfold putSums
    exact .refl ..
  | cons x l ih =>
    unfold putSums
    extract_lets -underBinder -merge -useContext +onlyGivenNames bytes
    refine .app ?_ (ih ..) (by decide)
    refine .app ?_ (trPut_stays ..) (by decide)
    exact .refl ..

theorem storePoint_stays (p : Nat) (s : State) :
    Stays [.regs, .tunes] s (storePoint p s) := by
  unfold storePoint
  extract_lets -underBinder -merge -useContext +onlyGivenNames n sums s1
  have h_s1 : Stays [.regs, .tunes] s s1 := by
    dsimp -zeta only [s1]
    refine .app ?_ (trPut_stays ..) (by decide)
    refine .app ?_ (putSums_stays ..) (by decide)
    exact .refl ..
  clear_value s1
  refine .app ?_ (modTune_stays ..) (by decide)
  refine .app ?_ (State.setReg_stays ..) (by decide)
  exact h_s1

theorem tuneTrip_stays (p : Nat) (cause : Nat) (info : Int) (s : State) :
    Stays [.regs, .tunes] s (tuneTrip p cause info s) := by
  unfold tuneTrip
  extract_lets -underBinder -merge -useContext +onlyGivenNames s1
  have h_s1 : Stays [.regs, .tunes] s s1 := by
    dsimp -zeta only [s1]
    refine .ite ?_ ?_
    · refine .app ?_ (storePoint_stays ..) (by decide)
      exact .refl ..
    · exact .refl ..
  clear_value s1
  refine .ite ?_ ?_
  · refine .app ?_ (modTune_stays ..) (by decide)
    refine .app ?_ (State.setReg_stays ..) (by decide)
    refine .app ?_ (setTrState_stays ..) (by decide)
    exact h_s1
  · exact .refl ..

theorem tuneRelease_stays (p : Nat) (s : State) :
    Stays [.regs, .tunes] s (tuneRelease p s) := by
  unfold tuneRelease
  extract_lets -underBinder -merge -useContext +onlyGivenNames s1
  have h_s1 : Stays [.regs, .tunes] s s1 := by
    dsimp -zeta only [s1]
    refine .ite ?_ ?_
    · exact .refl ..
    · refine .ite ?_ ?_
      · refine .app ?_ (tuneTrip_stays ..) (by decide)
        exact .refl ..
      · refine .app ?_ (modTune_stays ..) (by decide)
        refine .app ?_ (setTrState_stays ..) (by decide)
        exact .refl ..
  clear_value s1
  refine .app ?_ (State.setFld_stays ..) (by decide)
  exact h_s1

theorem generate_stays (p : Nat) (s : State) :
    Stays [.tunes] s (generate p s) := by
  unfold generate
  extract_lets -underBinder -merge -useContext +onlyGivenNames lim amp put t turn turn_1
  refine .ite ?_ ?_
  · dsimp -zeta only [put]
    refine .app ?_ (modTune_stays ..) (by decide)
    refine .app ?_ (modTune_stays ..) (by decide)
    exact .refl ..
  · refine .ite ?_ ?_
    · dsimp -zeta only [put]
      refine .app ?_ (modTune_stays ..) (by decide)
      exact .refl ..
    · dsimp -zeta only [put]
      refine .app ?_ (modTune_stays ..) (by decide)
      exact .refl ..

theorem tuneGenerate_stays (p : Nat) (main : Bool) (s : State) :
    Stays [.tunes] s (tuneGenerate p main s) := by
  unfold tuneGenerate
  refine .ite ?_ ?_
  · refine .app ?_ (generate_stays ..) (by decide)
    exact .refl ..
  · exact .refl ..

theorem sineStep_stays (p : Nat) (value : Nat → Int) (s : State) :
    Stays [.tunes] s (sineStep p value s) := by
  unfold sineStep
  extract_lets -underBinder -merge -useContext +onlyGivenNames t from_ c q add sums
  refine .app ?_ (modTune_stays ..) (by decide)
  exact .refl ..

theorem tuneRecord_stays (p : Nat) (main : Bool) (value : Nat → Int) (s : State) :
    Stays [.regs, .tunes] s (tuneRecord p main value s) := by
  unfold tuneRecord
  extract_lets -underBinder -merge -useContext +onlyGivenNames s0x records s1
  have h_s0x : Stays [.regs, .tunes] s s0x := by
    dsimp -zeta only [s0x]
    refine .ite ?_ ?_
    · refine .app ?_ (sineStep_stays ..) (by decide)
      exact .refl ..
    · exact .refl ..
  clear_value s0x
  have h_s1 : Stays [.regs, .tunes] s s1 := by
    dsimp -zeta only [s1]
    refine .app ?_ (modTune_stays ..) (by decide)
    exact h_s0x
  clear_value s1
  refine .ite ?_ ?_
  · exact .refl ..
  · refine .ite ?_ ?_
    · exact h_s0x
    · refine .ite ?_ ?_
      · refine .ite ?_ ?_
        · refine .app ?_ (traceStep_stays ..) (by decide)
          exact h_s1
        · refine .app ?_ (trRecord_stays ..) (by decide)
          exact h_s1
      · refine .app ?_ (modTune_stays ..) (by decide)
        exact h_s0x

theorem guardSat_stays (p : Nat) (sats : List Bool) (s : State) :
    Stays [.regs, .tunes] s (guardSat p sats s) := by
  unfold guardSat
  extract_lets -underBinder -merge -useContext +onlyGivenNames runs s1
  have h_s1 : Stays [.regs, .tunes] s s1 := by
    dsimp -zeta only [s1]
    refine .app ?_ (modTune_stays ..) (by decide)
    exact .refl ..
  clear_value s1
  refine .ite ?_ ?_
  · refine .app ?_ (tuneTrip_stays ..) (by decide)
    exact h_s1
  · exact h_s1

theorem updateOver_stays (p : Nat) (s : State) :
    Stays [.tunes] s (updateOver p s) := by
  unfold updateOver
  refine .app ?_ (modTune_stays ..) (by decide)
  exact .refl ..

end Sys2Proof.Machine
end

