-- ==== Sys2Proof/Laws/StaysRudderOps.lean ====
section
/-! SUPPORT. What the operations and meanings of Machine/RudderOps do at most. -/

set_option linter.all false
set_option maxRecDepth 4000

namespace Sys2Proof.Machine

theorem modRud_stays (a : Nat) (f : Rudder → Rudder) (s : State) :
    Stays [.rudders] s (modRud a f s) := by
  unfold modRud
  refine .app ?_ (.set_rudders _ _) (by decide)
  exact .refl ..

theorem modSlot_stays (a : Nat) (k : Nat) (f : RudSlot → RudSlot) (s : State) :
    Stays [.rudders] s (modSlot a k f s) := by
  unfold modSlot
  refine .app ?_ (modRud_stays ..) (by decide)
  exact .refl ..

theorem note_stays (a : Nat) (n : GateNote) (s : State) :
    Stays [.rudders] s (note a n s) := by
  unfold note
  refine .app ?_ (modRud_stays ..) (by decide)
  exact .refl ..

theorem showWf_stays (a : Nat) (s : State) :
    Stays [.regs] s (showWf a s) := by
  unfold showWf
  refine .app ?_ (State.setFld_stays ..) (by decide)
  exact .refl ..

theorem assertWf_stays (a : Nat) (k : Nat) (s : State) :
    Stays [.regs, .seen, .fabric, .stopped, .hda, .rudders, .tunes, .oars, .mem, .checks, .boat] s (assertWf a k s) := by
  unfold assertWf
  extract_lets -underBinder -merge -useContext +onlyGivenNames x s1 s2
  have h_s1 : Stays [.regs, .seen, .fabric, .stopped, .hda, .rudders, .tunes, .oars, .mem, .checks, .boat] s s1 := by
    dsimp -zeta only [s1]
    refine .app ?_ (State.count_stays ..) (by decide)
    refine .app ?_ (modSlot_stays ..) (by decide)
    exact .refl ..
  clear_value s1
  have h_s2 : Stays [.regs, .seen, .fabric, .stopped, .hda, .rudders, .tunes, .oars, .mem, .checks, .boat] s s2 := by
    dsimp -zeta only [s2]
    refine .app ?_ (raise_stays ..) (by decide)
    refine .app ?_ (showWf_stays ..) (by decide)
    exact h_s1
  clear_value s2
  refine .ite ?_ ?_
  · exact .refl ..
  · refine .ite ?_ ?_
    · refine .app ?_ (modSlot_stays ..) (by decide)
      exact .refl ..
    · refine .app ?_ (cutSlot_stays ..) (by decide)
      refine .app ?_ (trTrigger_stays ..) (by decide)
      exact h_s2

theorem assertAllWf_stays (a : Nat) (s : State) :
    Stays [.regs, .seen, .fabric, .stopped, .hda, .rudders, .tunes, .oars, .mem, .checks, .boat] s (assertAllWf a s) := by
  unfold assertAllWf
  refine .foldl _ _ (fun u x hu => ?_) ?_
  · refine .app ?_ (assertWf_stays ..) (by decide)
    exact hu
  · exact .refl ..

theorem stepWf_stays (a : Nat) (k : Nat) (s : State) :
    Stays [.regs, .seen, .fabric, .stopped, .hda, .rudders, .tunes, .oars, .mem, .checks, .boat] s (stepWf a k s) := by
  unfold stepWf
  refine .ite ?_ ?_
  · exact .refl ..
  · refine .ite ?_ ?_
    · refine .app ?_ (assertWf_stays ..) (by decide)
      exact .refl ..
    · refine .app ?_ (modSlot_stays ..) (by decide)
      exact .refl ..

theorem stepReadOff_stays (a : Nat) (k : Nat) (s : State) :
    Stays [.rudders, .oars, .sweep] s (stepReadOff a k s) := by
  unfold stepReadOff
  extract_lets -underBinder -merge -useContext +onlyGivenNames x off s1
  have h_s1 : Stays [.rudders, .oars, .sweep] s s1 := by
    dsimp -zeta only [s1]
    refine .app ?_ (modSlot_stays ..) (by decide)
    exact .refl ..
  clear_value s1
  refine .ite ?_ ?_
  · exact .refl ..
  · refine .ite ?_ ?_
    · refine .app ?_ (markSlotRead_stays ..) (by decide)
      exact h_s1
    · exact h_s1

theorem enterRud_stays (a : Nat) (st : Nat) (s : State) :
    Stays [.regs, .seen, .fabric, .stopped, .hda, .rudders, .tunes, .oars, .mem, .checks, .boat] s (enterRud a st s) := by
  unfold enterRud
  extract_lets -underBinder -merge -useContext +onlyGivenNames s1 s2
  have h_s1 : Stays [.regs, .seen, .fabric, .stopped, .hda, .rudders, .tunes, .oars, .mem, .checks, .boat] s s1 := by
    dsimp -zeta only [s1]
    refine .app ?_ (State.setFld_stays ..) (by decide)
    exact .refl ..
  clear_value s1
  have h_s2 : Stays [.regs, .seen, .fabric, .stopped, .hda, .rudders, .tunes, .oars, .mem, .checks, .boat] s s2 := by
    dsimp -zeta only [s2]
    refine .app ?_ (trTrigger_stays ..) (by decide)
    refine .app ?_ (raise_stays ..) (by decide)
    exact h_s1
  clear_value s2
  refine .ite ?_ ?_
  · exact .refl ..
  · refine .ite ?_ ?_
    · exact h_s2
    · refine .app ?_ (assertAllWf_stays ..) (by decide)
      refine .app ?_ (tuneTrip_stays ..) (by decide)
      exact h_s2

theorem modDrive_stays (a : Nat) (f : RudDrive → RudDrive) (s : State) :
    Stays [.rigger] s (modDrive a f s) := by
  unfold modDrive
  extract_lets -underBinder -merge -useContext +onlyGivenNames vsrc
  refine .app ?_ (.set_rigger _ _) (by decide)
  exact .refl ..

theorem showSat_stays (a : Nat) (out : Nat) (bitNo : Nat) (sat : Bool) (s : State) :
    Stays [.regs, .seen, .fabric, .tunes] s (showSat a out bitNo sat s) := by
  unfold showSat
  extract_lets -underBinder -merge -useContext +onlyGivenNames k s1
  have h_s1 : Stays [.regs, .seen, .fabric, .tunes] s s1 := by
    dsimp -zeta only [s1]
    refine .app ?_ (raise_stays ..) (by decide)
    refine .app ?_ (State.setBit_stays ..) (by decide)
    exact .refl ..
  clear_value s1
  refine .ite ?_ ?_
  · exact .refl ..
  · refine .ite ?_ ?_
    · refine .app ?_ (trTrigger_stays ..) (by decide)
      exact h_s1
    · exact h_s1

theorem driveThirds_stays (a : Nat) (s : State) :
    Stays [.regs, .seen, .fabric, .rigger, .tunes] s (driveThirds a s) := by
  unfold driveThirds
  extract_lets -underBinder -merge -useContext +onlyGivenNames mv
  refine .foldl _ _ (fun u x hu => ?_) ?_
  · refine .ite ?_ ?_
    · exact hu
    · refine .app ?_ (showSat_stays ..) (by decide)
      exact hu
  · refine .app ?_ (modDrive_stays ..) (by decide)
    exact .refl ..

theorem clearSlots_stays (a : Nat) (s : State) :
    Stays [.regs, .seen, .fabric, .rigger, .rudders, .tunes] s (clearSlots a s) := by
  unfold clearSlots
  refine .app ?_ (driveThirds_stays ..) (by decide)
  refine .app ?_ (showWf_stays ..) (by decide)
  refine .app ?_ (modRud_stays ..) (by decide)
  exact .refl ..

theorem noteHead_stays (a : Nat) (k : Nat) (h : Nat) (s : State) :
    Stays [.rudders] s (noteHead a k h s) := by
  unfold noteHead
  refine .app ?_ (modRud_stays ..) (by decide)
  exact .refl ..

theorem endGroup_stays (a : Nat) (n : GateNote) (s : State) :
    Stays [.regs, .seen, .fabric, .rigger, .rudders, .tunes] s (endGroup a n s) := by
  unfold endGroup
  extract_lets -underBinder -merge -useContext +onlyGivenNames had s1
  have h_s1 : Stays [.regs, .seen, .fabric, .rigger, .rudders, .tunes] s s1 := by
    dsimp -zeta only [s1]
    refine .app ?_ (clearSlots_stays ..) (by decide)
    refine .app ?_ (modRud_stays ..) (by decide)
    exact .refl ..
  clear_value s1
  refine .ite ?_ ?_
  · refine .app ?_ (note_stays ..) (by decide)
    exact h_s1
  · exact h_s1

theorem driveCoil_stays (a : Nat) (ma : Int) (s : State) :
    Stays [.regs, .seen, .fabric, .rigger, .tunes] s (driveCoil a ma s) := by
  unfold driveCoil
  refine .app ?_ (modDrive_stays ..) (by decide)
  refine .app ?_ (showSat_stays ..) (by decide)
  exact .refl ..

theorem driveMilli_stays (a : Nat) (mv : Int) (s : State) :
    Stays [.regs, .seen, .fabric, .rigger, .tunes] s (driveMilli a mv s) := by
  unfold driveMilli
  refine .app ?_ (modDrive_stays ..) (by decide)
  refine .app ?_ (showSat_stays ..) (by decide)
  exact .refl ..

theorem rigCoil_stays (a : Nat) (ma : Int) (s : State) :
    Stays [.regs, .seen, .fabric, .rigger, .tunes] s (rigCoil a ma s) := by
  unfold rigCoil
  extract_lets -underBinder -merge -useContext +onlyGivenNames s1 vsrc
  have h_s1 : Stays [.regs, .seen, .fabric, .rigger, .tunes] s s1 := by
    dsimp -zeta only [s1]
    refine .app ?_ (driveCoil_stays ..) (by decide)
    exact .refl ..
  clear_value s1
  refine .app ?_ (.set_rigger _ _) (by decide)
  exact h_s1

theorem retractEvent_stays (a : Nat) (c : Nat) (s : State) :
    Stays [.regs, .seen, .fabric, .stopped] s (retractEvent a c s) := by
  unfold retractEvent
  extract_lets -underBinder -merge -useContext +onlyGivenNames s1
  have h_s1 : Stays [.regs, .seen, .fabric, .stopped] s s1 := by
    dsimp -zeta only [s1]
    refine .app ?_ (State.setReg_stays ..) (by decide)
    exact .refl ..
  clear_value s1
  refine .ite ?_ ?_
  · refine .app ?_ (raise_stays ..) (by decide)
    exact h_s1
  · refine .app ?_ (lasting_stays ..) (by decide)
    exact h_s1

theorem beginPark_stays (a : Nat) (c : Nat) (reload : Bool) (s : State) :
    Stays [.regs, .seen, .fabric, .stopped, .rigger, .hda, .rudders, .tunes, .oars, .mem, .checks, .boat] s (beginPark a c reload s) := by
  unfold beginPark
  extract_lets -underBinder -merge -useContext +onlyGivenNames s1 s2
  have h_s1 : Stays [.regs, .seen, .fabric, .stopped, .rigger, .hda, .rudders, .tunes, .oars, .mem, .checks, .boat] s s1 := by
    dsimp -zeta only [s1]
    refine .ite ?_ ?_
    · exact .refl ..
    · refine .app ?_ (retractEvent_stays ..) (by decide)
      exact .refl ..
  clear_value s1
  have h_s2 : Stays [.regs, .seen, .fabric, .stopped, .rigger, .hda, .rudders, .tunes, .oars, .mem, .checks, .boat] s s2 := by
    dsimp -zeta only [s2]
    refine .app ?_ (driveMilli_stays ..) (by decide)
    refine .app ?_ (endGroup_stays ..) (by decide)
    refine .app ?_ (enterRud_stays ..) (by decide)
    exact h_s1
  clear_value s2
  refine .app ?_ (modRud_stays ..) (by decide)
  exact h_s2

theorem retract_stays (a : Nat) (c : Nat) (s : State) :
    Stays [.regs, .seen, .fabric, .stopped, .rigger, .hda, .rudders, .tunes, .oars, .mem, .checks, .boat] s (retract a c s) := by
  unfold retract
  extract_lets -underBinder -merge -useContext +onlyGivenNames s0x now s1
  have h_s0x : Stays [.regs, .seen, .fabric, .stopped, .rigger, .hda, .rudders, .tunes, .oars, .mem, .checks, .boat] s s0x := by
    dsimp -zeta only [s0x]
    refine .ite ?_ ?_
    · refine .app ?_ (modRud_stays ..) (by decide)
      refine .app ?_ (State.setBit_stays ..) (by decide)
      exact .refl ..
    · exact .refl ..
  clear_value s0x
  have h_s1 : Stays [.regs, .seen, .fabric, .stopped, .rigger, .hda, .rudders, .tunes, .oars, .mem, .checks, .boat] s s1 := by
    dsimp -zeta only [s1]
    refine .app ?_ (modRud_stays ..) (by decide)
    exact h_s0x
  clear_value s1
  refine .ite ?_ ?_
  · exact .refl ..
  · refine .ite ?_ ?_
    · refine .ite ?_ ?_
      · refine .app ?_ (enterRud_stays ..) (by decide)
        refine .app ?_ (retractEvent_stays ..) (by decide)
        refine .app ?_ (modRud_stays ..) (by decide)
        exact h_s1
      · refine .ite ?_ ?_
        · refine .app ?_ (enterRud_stays ..) (by decide)
          refine .app ?_ (retractEvent_stays ..) (by decide)
          refine .app ?_ (modRud_stays ..) (by decide)
          exact h_s1
        · exact h_s1
    · refine .app ?_ (beginPark_stays ..) (by decide)
      exact h_s0x

theorem riggerRetract_stays (held : Bool) (a : Nat) (s : State) :
    Stays [.regs, .seen, .fabric, .stopped, .rigger, .hda, .rudders, .tunes, .oars, .mem, .checks, .boat] s (riggerRetract held a s) := by
  unfold riggerRetract
  extract_lets -underBinder -merge -useContext +onlyGivenNames s1
  have h_s1 : Stays [.regs, .seen, .fabric, .stopped, .rigger, .hda, .rudders, .tunes, .oars, .mem, .checks, .boat] s s1 := by
    dsimp -zeta only [s1]
    refine .app ?_ (modRud_stays ..) (by decide)
    refine .app ?_ (retract_stays ..) (by decide)
    exact .refl ..
  clear_value s1
  refine .ite ?_ ?_
  · exact .refl ..
  · refine .ite ?_ ?_
    · exact h_s1
    · refine .app ?_ (rigCoil_stays ..) (by decide)
      exact h_s1

theorem retractLoaded_stays (c : Nat) (s : State) :
    Stays [.regs, .seen, .fabric, .stopped, .rigger, .hda, .rudders, .tunes, .oars, .mem, .checks, .boat] s (retractLoaded c s) := by
  unfold retractLoaded
  refine .foldl _ _ (fun u x hu => ?_) ?_
  · refine .ite ?_ ?_
    · refine .app ?_ (riggerRetract_stays ..) (by decide)
      exact hu
    · refine .app ?_ (retract_stays ..) (by decide)
      exact hu
  · exact .refl ..

theorem parkAll_stays (s : State) :
    Stays [.regs, .seen, .fabric, .stopped, .rigger, .hda, .rudders, .tunes, .oars, .mem, .checks, .boat] s (parkAll s) := by
  unfold parkAll
  refine .app ?_ (retractLoaded_stays ..) (by decide)
  exact .refl ..

theorem parkNow_stays (a : Nat) (fault : Bool) (uncertain : Bool) (s : State) :
    Stays [.regs, .seen, .fabric, .stopped, .rigger, .hda, .rudders, .tunes, .oars, .mem, .checks, .boat] s (parkNow a fault uncertain s) := by
  unfold parkNow
  extract_lets -underBinder -merge -useContext +onlyGivenNames s1 s2
  have h_s1 : Stays [.regs, .seen, .fabric, .stopped, .rigger, .hda, .rudders, .tunes, .oars, .mem, .checks, .boat] s s1 := by
    dsimp -zeta only [s1]
    refine .ite ?_ ?_
    · refine .app ?_ (State.setBit_stays ..) (by decide)
      exact .refl ..
    · exact .refl ..
  clear_value s1
  have h_s2 : Stays [.regs, .seen, .fabric, .stopped, .rigger, .hda, .rudders, .tunes, .oars, .mem, .checks, .boat] s s2 := by
    dsimp -zeta only [s2]
    refine .app ?_ (modRud_stays ..) (by decide)
    exact h_s1
  clear_value s2
  refine .app ?_ (enterRud_stays ..) (by decide)
  refine .app ?_ (driveCoil_stays ..) (by decide)
  exact h_s2

theorem latchCleared_stays (s : State) :
    Stays [.regs, .seen, .fabric, .rigger, .rudders, .tunes] s (latchCleared s) := by
  unfold latchCleared
  refine .foldl _ _ (fun u x hu => ?_) ?_
  · refine .ite ?_ ?_
    · refine .app ?_ (rigCoil_stays ..) (by decide)
      refine .app ?_ (modRud_stays ..) (by decide)
      exact hu
    · exact hu
  · exact .refl ..

theorem bridgeBack_stays (s : State) :
    Stays [.regs, .seen, .fabric, .stopped, .rigger, .hda, .rudders, .tunes, .oars, .mem, .checks, .boat] s (bridgeBack s) := by
  unfold bridgeBack
  refine .foldl _ _ (fun u x hu => ?_) ?_
  · refine .ite ?_ ?_
    · refine .app ?_ (parkNow_stays ..) (by decide)
      exact hu
    · exact hu
  · exact .refl ..

theorem modCouple_stays (f : Couple → Couple) (s : State) :
    Stays [.couple] s (modCouple f s) := by
  unfold modCouple
  refine .app ?_ (.set_couple _ _) (by decide)
  exact .refl ..

theorem endShock_stays (s : State) :
    Stays [.regs, .seen, .fabric] s (endShock s) := by
  unfold endShock
  extract_lets -underBinder -merge -useContext +onlyGivenNames t
  refine .ite ?_ ?_
  · exact .refl ..
  · refine .app ?_ (raise_stays ..) (by decide)
    refine .app ?_ (State.setBit_stays ..) (by decide)
    exact .refl ..

theorem restOutputs_stays (a : Nat) (s : State) :
    Stays [.regs, .seen, .fabric, .tunes] s (restOutputs a s) := by
  unfold restOutputs
  refine .foldl _ _ (fun u x hu => ?_) ?_
  · refine .app ?_ (showSat_stays ..) (by decide)
    exact hu
  · refine .app ?_ (showSat_stays ..) (by decide)
    refine .app ?_ (showSat_stays ..) (by decide)
    exact .refl ..

theorem calOffsets_stays (s : State) (a : Nat) (h : Nat) (z : Nat) :
    Stays [.free] s (calOffsets s a h z).2.2 := by
  unfold calOffsets
  split
  · rename_i x1 r1 e
    extract_lets -underBinder -merge -useContext +onlyGivenNames w
    refine .triple ?_
    exact .refl ..
  · rename_i x1 e
    extract_lets -underBinder -merge -useContext +onlyGivenNames w
    refine .triple ?_
    refine .app ?_ (State.useFree_stays ..) (by decide)
    exact .refl ..

theorem formSlot_stays (a : Nat) (g : GroupSlot) (s : State) :
    Stays [.free] s (formSlot a g s).2 := by
  unfold formSlot
  split
  · rename_i x1 rw1 sep1 s11 e
    extract_lets -underBinder -merge -useContext +onlyGivenNames t vsrc
    refine .pair ?_
    refine .snd3 e ?_
    refine .app ?_ (calOffsets_stays ..) (by decide)
    exact .refl ..

theorem formSlots_stays (a : Nat) (a1 : List (Option GroupSlot)) (a2 : State) :
    Stays [.free] a2 (formSlots a a1 a2).2 := by
  induction a1 generalizing a a2 with
  | nil =>
    unfold formSlots
    dsimp -zeta only
    exact .refl ..
  | cons x l ih =>
    unfold formSlots
    dsimp -zeta only
    refine .app ?_ (ih ..) (by decide)
    split
    · rename_i g1 g2
      refine .pair ?_
      refine .app ?_ (formSlot_stays ..) (by decide)
      exact .refl ..
    · rename_i g1
      refine .pair ?_
      exact .refl ..

theorem startSeek_stays (a : Nat) (from_ : Int) (again : Bool) (s : State) :
    Stays [.regs, .seen, .fabric, .stopped, .hda, .rudders, .tunes, .oars, .sweep, .mem, .checks, .boat] s (startSeek a from_ again s) := by
  unfold startSeek
  extract_lets -underBinder -merge -useContext +onlyGivenNames dist s1 s2
  have h_s1 : Stays [.regs, .seen, .fabric, .stopped, .hda, .rudders, .tunes, .oars, .sweep, .mem, .checks, .boat] s s1 := by
    dsimp -zeta only [s1]
    refine .app ?_ (modRud_stays ..) (by decide)
    exact .refl ..
  clear_value s1
  have h_s2 : Stays [.regs, .seen, .fabric, .stopped, .hda, .rudders, .tunes, .oars, .sweep, .mem, .checks, .boat] s s2 := by
    dsimp -zeta only [s2]
    refine .foldl _ _ (fun u x hu => ?_) ?_
    · refine .app ?_ (stepReadOff_stays ..) (by decide)
      refine .app ?_ (modSlot_stays ..) (by decide)
      exact hu
    · exact h_s1
  clear_value s2
  refine .app ?_ (enterRud_stays ..) (by decide)
  exact h_s2

theorem applyGroup_stays (a : Nat) (xs : List (Option RudSlot)) (arm : Int) (s : State) :
    Stays [.regs, .seen, .fabric, .stopped, .rigger, .hda, .rudders, .tunes, .oars, .sweep, .mem, .checks, .boat] s (applyGroup a xs arm s) := by
  unfold applyGroup
  extract_lets -underBinder -merge -useContext +onlyGivenNames old place s1 s2
  have h_s1 : Stays [.regs, .seen, .fabric, .stopped, .rigger, .hda, .rudders, .tunes, .oars, .sweep, .mem, .checks, .boat] s s1 := by
    dsimp -zeta only [s1]
    refine .app ?_ (driveThirds_stays ..) (by decide)
    refine .foldl _ _ (fun u x hu => ?_) ?_
    · dsimp -zeta only [place]
      extract_lets -underBinder -merge -useContext +onlyGivenNames was
      split
      · rename_i x1 e
        refine .app ?_ (modSlot_stays ..) (by decide)
        exact hu
      · rename_i x1 x2 e
        extract_lets -underBinder -merge -useContext +onlyGivenNames stays shift same y
        refine .app ?_ (noteHead_stays ..) (by decide)
        refine .app ?_ (modSlot_stays ..) (by decide)
        refine .app ?_ (modOar_stays ..) (by decide)
        exact hu
    · refine .app ?_ (modRud_stays ..) (by decide)
      exact .refl ..
  clear_value s1
  have h_s2 : Stays [.regs, .seen, .fabric, .stopped, .rigger, .hda, .rudders, .tunes, .oars, .sweep, .mem, .checks, .boat] s s2 := by
    dsimp -zeta only [s2]
    refine .app ?_ (tuneTrip_stays ..) (by decide)
    exact h_s1
  clear_value s2
  refine .ite ?_ ?_
  · refine .foldl _ _ (fun u x hu => ?_) ?_
    · refine .ite ?_ ?_
      · refine .app ?_ (assertWf_stays ..) (by decide)
        exact hu
      · exact hu
    · refine .app ?_ (showWf_stays ..) (by decide)
      exact h_s2
  · refine .app ?_ (startSeek_stays ..) (by decide)
    refine .app ?_ (showWf_stays ..) (by decide)
    exact h_s2

theorem offerGroup_stays (a : Nat) (g : List (Option GroupSlot)) (s : State) :
    Stays [.regs, .seen, .fabric, .stopped, .rigger, .free, .hda, .rudders, .tunes, .oars, .sweep, .mem, .checks, .boat] s (offerGroup a g s) := by
  unfold offerGroup
  extract_lets -underBinder -merge -useContext +onlyGivenNames st
  refine .ite ?_ ?_
  · refine .app ?_ (note_stays ..) (by decide)
    exact .refl ..
  · split
    · rename_i x1 xs1 s21 e
      split
      · rename_i x2 e1
        refine .app ?_ (note_stays ..) (by decide)
        refine .app ?_ (raise_stays ..) (by decide)
        refine .snd e ?_
        refine .app ?_ (formSlots_stays ..) (by decide)
        exact .refl ..
      · rename_i x2 arm1 e1
        extract_lets -underBinder -merge -useContext +onlyGivenNames s2
        have h_s2 : Stays [.regs, .seen, .fabric, .stopped, .rigger, .free, .hda, .rudders, .tunes, .oars, .sweep, .mem, .checks, .boat] s s2 := by
          dsimp -zeta only [s2]
          refine .ite ?_ ?_
          · refine .app ?_ (note_stays ..) (by decide)
            refine .snd e ?_
            refine .app ?_ (formSlots_stays ..) (by decide)
            exact .refl ..
          · refine .snd e ?_
            refine .app ?_ (formSlots_stays ..) (by decide)
            exact .refl ..
        clear_value s2
        refine .ite ?_ ?_
        · refine .app ?_ (applyGroup_stays ..) (by decide)
          refine .snd e ?_
          refine .app ?_ (formSlots_stays ..) (by decide)
          exact .refl ..
        · refine .app ?_ (modRud_stays ..) (by decide)
          exact h_s2

theorem followed_stays (a : Nat) (s : State) :
    Stays [.regs, .seen, .fabric, .stopped, .rigger, .free, .hda, .rudders, .tunes, .oars, .sweep, .mem, .checks, .boat] s (followed a s) := by
  unfold followed
  extract_lets -underBinder -merge -useContext +onlyGivenNames r s1 s2
  have h_s1 : Stays [.regs, .seen, .fabric, .stopped, .rigger, .free, .hda, .rudders, .tunes, .oars, .sweep, .mem, .checks, .boat] s s1 := by
    dsimp -zeta only [s1]
    refine .ite ?_ ?_
    · refine .app ?_ (State.setReg_stays ..) (by decide)
      exact .refl ..
    · exact .refl ..
  clear_value s1
  have h_s2 : Stays [.regs, .seen, .fabric, .stopped, .rigger, .free, .hda, .rudders, .tunes, .oars, .sweep, .mem, .checks, .boat] s s2 := by
    dsimp -zeta only [s2]
    refine .app ?_ (enterRud_stays ..) (by decide)
    refine .app ?_ (modRud_stays ..) (by decide)
    refine .ite ?_ ?_
    · refine .app ?_ (note_stays ..) (by decide)
      exact h_s1
    · exact h_s1
  clear_value s2
  split
  · rename_i x1 e
    exact h_s2
  · rename_i x1 g1 e
    refine .app ?_ (offerGroup_stays ..) (by decide)
    exact h_s2

end Sys2Proof.Machine
end

