-- ==== Sys2Proof/Laws/StaysKeelOps.lean ====
section
/-! SUPPORT. What the operations and meanings of Machine/KeelOps do at most. -/

set_option linter.all false
set_option maxRecDepth 4000

namespace Sys2Proof.Machine

theorem modKeel_stays (f : Keel → Keel) (s : State) :
    Stays [.keel] s (modKeel f s) := by
  unfold modKeel
  refine .app ?_ (.set_keel _ _) (by decide)
  exact .refl ..

theorem modRigger_stays (f : Rigger → Rigger) (s : State) :
    Stays [.rigger] s (modRigger f s) := by
  unfold modRigger
  refine .app ?_ (.set_rigger _ _) (by decide)
  exact .refl ..

theorem driveSpindle_stays (on : Bool) (s : State) :
    Stays [.rigger] s (driveSpindle on s) := by
  unfold driveSpindle
  refine .app ?_ (modRigger_stays ..) (by decide)
  exact .refl ..

theorem enterKeelState_stays (st : Nat) (s : State) :
    Stays [.regs, .rigger, .tunes] s (enterKeelState st s) := by
  unfold enterKeelState
  extract_lets -underBinder -merge -useContext +onlyGivenNames was s0x s1
  have h_s0x : Stays [.regs, .rigger, .tunes] s s0x := by
    dsimp -zeta only [s0x]
    refine .app ?_ (State.setBit_stays ..) (by decide)
    refine .app ?_ (State.setFld_stays ..) (by decide)
    exact .refl ..
  clear_value s0x
  have h_s1 : Stays [.regs, .rigger, .tunes] s s1 := by
    dsimp -zeta only [s1]
    refine .ite ?_ ?_
    · exact h_s0x
    · refine .app ?_ (trTrigger_stays ..) (by decide)
      refine .ite ?_ ?_
      · refine .app ?_ (tuneTrip_stays ..) (by decide)
        exact h_s0x
      · exact h_s0x
  clear_value s1
  refine .app ?_ (driveSpindle_stays ..) (by decide)
  refine .app ?_ (modRigger_stays ..) (by decide)
  exact h_s1

theorem keelUnlock_stays (s : State) :
    Stays [.regs, .seen, .fabric, .stopped, .keel, .hda, .tunes, .oars, .sweep, .mem, .checks, .boat] s (keelUnlock s) := by
  unfold keelUnlock
  extract_lets -underBinder -merge -useContext +onlyGivenNames s1
  have h_s1 : Stays [.regs, .seen, .fabric, .stopped, .keel, .hda, .tunes, .oars, .sweep, .mem, .checks, .boat] s s1 := by
    dsimp -zeta only [s1]
    refine .app ?_ (modKeel_stays ..) (by decide)
    exact .refl ..
  clear_value s1
  refine .ite ?_ ?_
  · refine .app ?_ (cutAll_stays ..) (by decide)
    refine .app ?_ (markAllReads_stays ..) (by decide)
    refine .app ?_ (trTrigger_stays ..) (by decide)
    refine .app ?_ (raise_stays ..) (by decide)
    refine .app ?_ (State.setBit_stays ..) (by decide)
    exact h_s1
  · exact h_s1

theorem setPhaseLock_stays (b : Bool) (s : State) :
    Stays [.regs, .seen, .fabric] s (setPhaseLock b s) := by
  unfold setPhaseLock
  refine .ite ?_ ?_
  · exact .refl ..
  · refine .app ?_ (raise_stays ..) (by decide)
    refine .app ?_ (State.setBit_stays ..) (by decide)
    exact .refl ..

theorem setRate_stays (o : Nat) (s : State) :
    Stays [.oars] s (setRate o s) := by
  unfold setRate
  refine .app ?_ (modOar_stays ..) (by decide)
  exact .refl ..

theorem followSpindle_stays (a : Nat) (s : State) :
    Stays [.oars] s (followSpindle a s) := by
  unfold followSpindle
  refine .foldl _ _ (fun u x hu => ?_) ?_
  · refine .ite ?_ ?_
    · refine .app ?_ (setRate_stays ..) (by decide)
      exact hu
    · exact hu
  · exact .refl ..

theorem threshEffect_stays (n : Nat) (v : Word) (s : State) :
    Stays [.regs, .seen, .fabric, .crit] s (threshEffect n v s) := by
  unfold threshEffect
  extract_lets -underBinder -merge -useContext +onlyGivenNames s1
  have h_s1 : Stays [.regs, .seen, .fabric, .crit] s s1 := by
    dsimp -zeta only [s1]
    refine .app ?_ (State.critPut_stays ..) (by decide)
    exact .refl ..
  clear_value s1
  refine .ite ?_ ?_
  · exact h_s1
  · refine .app ?_ (raise_stays ..) (by decide)
    exact h_s1

theorem stepTrim_stays (s : State) :
    Stays [.keel] s (stepTrim s) := by
  unfold stepTrim
  extract_lets -underBinder -merge -useContext +onlyGivenNames steps d
  refine .app ?_ (modKeel_stays ..) (by decide)
  exact .refl ..

theorem applyTarget_stays (s : State) :
    Stays [.keel] s (applyTarget s) := by
  unfold applyTarget
  refine .app ?_ (modKeel_stays ..) (by decide)
  exact .refl ..

theorem keelRefuse_stays (code : Nat) (s : State) :
    Stays [.regs, .seen, .fabric] s (keelRefuse code s) := by
  unfold keelRefuse
  refine .app ?_ (raise_stays ..) (by decide)
  exact .refl ..

theorem inertiaEffect_stays (v : Word) (s : State) :
    Stays [.regs, .keel] s (inertiaEffect v s) := by
  unfold inertiaEffect
  refine .app ?_ (modKeel_stays ..) (by decide)
  refine .app ?_ (storeWrite_stays ..) (by decide)
  exact .refl ..

theorem askRigger_stays (f : RigAsk → RigAsk) (a : State) :
    Stays [.rigger] a (askRigger f a) := by
  unfold askRigger
  refine .app ?_ (modRigger_stays ..) (by decide)
  exact .refl ..

theorem askChopTest_stays (chopMa : Nat) (a : State) :
    Stays [.rigger] a (askChopTest chopMa a) := by
  unfold askChopTest
  refine .app ?_ (askRigger_stays ..) (by decide)
  exact .refl ..

theorem startCatch_stays (s : State) :
    Stays [.regs, .keel, .rigger, .tunes] s (startCatch s) := by
  unfold startCatch
  refine .app ?_ (driveSpindle_stays ..) (by decide)
  refine .app ?_ (enterKeelState_stays ..) (by decide)
  refine .app ?_ (modKeel_stays ..) (by decide)
  exact .refl ..

theorem keelRunEffect_stays (rotorRpm : Nat) (chopMa : Nat) (s : State) :
    Stays [.regs, .seen, .fabric, .stopped, .keel, .rigger, .tunes] s (keelRunEffect rotorRpm chopMa s) := by
  unfold keelRunEffect
  extract_lets -underBinder -merge -useContext +onlyGivenNames st s1 s2
  have h_s1 : Stays [.regs, .seen, .fabric, .stopped, .keel, .rigger, .tunes] s s1 := by
    dsimp -zeta only [s1]
    refine .app ?_ (applyTarget_stays ..) (by decide)
    refine .app ?_ (modKeel_stays ..) (by decide)
    exact .refl ..
  clear_value s1
  have h_s2 : Stays [.regs, .seen, .fabric, .stopped, .keel, .rigger, .tunes] s s2 := by
    dsimp -zeta only [s2]
    refine .app ?_ (modKeel_stays ..) (by decide)
    exact h_s1
  clear_value s2
  refine .ite ?_ ?_
  · refine .app ?_ (keelRefuse_stays ..) (by decide)
    exact .refl ..
  · refine .ite ?_ ?_
    · refine .app ?_ (keelRefuse_stays ..) (by decide)
      exact .refl ..
    · refine .ite ?_ ?_
      · refine .app ?_ (keelRefuse_stays ..) (by decide)
        exact .refl ..
      · refine .ite ?_ ?_
        · refine .app ?_ (startCatch_stays ..) (by decide)
          exact h_s1
        · refine .ite ?_ ?_
          · refine .app ?_ (lasting_stays ..) (by decide)
            refine .app ?_ (modKeel_stays ..) (by decide)
            exact h_s1
          · refine .ite ?_ ?_
            · refine .app ?_ (startCatch_stays ..) (by decide)
              exact h_s2
            · refine .app ?_ (enterKeelState_stays ..) (by decide)
              refine .app ?_ (modKeel_stays ..) (by decide)
              refine .app ?_ (askChopTest_stays ..) (by decide)
              exact h_s2

theorem beginShortBrake_stays (code : Nat) (s : State) :
    Stays [.regs, .seen, .fabric, .rigger, .tunes] s (beginShortBrake code s) := by
  unfold beginShortBrake
  refine .app ?_ (raise_stays ..) (by decide)
  refine .app ?_ (enterKeelState_stays ..) (by decide)
  exact .refl ..

theorem doStop_stays (s : State) :
    Stays [.regs, .seen, .fabric, .keel, .rigger, .tunes] s (doStop s) := by
  unfold doStop
  extract_lets -underBinder -merge -useContext +onlyGivenNames s1
  have h_s1 : Stays [.regs, .seen, .fabric, .keel, .rigger, .tunes] s s1 := by
    dsimp -zeta only [s1]
    refine .app ?_ (modKeel_stays ..) (by decide)
    exact .refl ..
  clear_value s1
  refine .ite ?_ ?_
  · refine .app ?_ (beginShortBrake_stays ..) (by decide)
    exact h_s1
  · refine .app ?_ (enterKeelState_stays ..) (by decide)
    exact h_s1

theorem keelStopEffect_stays (s : State) :
    Stays [.regs, .seen, .fabric, .keel, .rigger, .tunes] s (keelStopEffect s) := by
  unfold keelStopEffect
  refine .ite ?_ ?_
  · refine .app ?_ (doStop_stays ..) (by decide)
    exact .refl ..
  · refine .app ?_ (keelRefuse_stays ..) (by decide)
    exact .refl ..

theorem keelHalts_stays (s : State) :
    Stays [.regs, .seen, .fabric, .keel, .rigger, .tunes] s (keelHalts s) := by
  unfold keelHalts
  refine .ite ?_ ?_
  · refine .app ?_ (keelStopEffect_stays ..) (by decide)
    exact .refl ..
  · exact .refl ..

theorem enterCoast_stays (s : State) :
    Stays [.regs, .seen, .fabric, .stopped, .keel, .rigger, .hda, .tunes, .oars, .sweep, .mem, .checks, .boat] s (enterCoast s) := by
  unfold enterCoast
  refine .app ?_ (keelUnlock_stays ..) (by decide)
  refine .app ?_ (enterKeelState_stays ..) (by decide)
  refine .app ?_ (modKeel_stays ..) (by decide)
  exact .refl ..

theorem keelCoastEffect_stays (s : State) :
    Stays [.regs, .seen, .fabric, .stopped, .keel, .rigger, .hda, .tunes, .oars, .sweep, .mem, .checks, .boat] s (keelCoastEffect s) := by
  unfold keelCoastEffect
  refine .ite ?_ ?_
  · refine .app ?_ (keelRefuse_stays ..) (by decide)
    exact .refl ..
  · refine .app ?_ (enterCoast_stays ..) (by decide)
    exact .refl ..

theorem resumeRun_stays (s : State) :
    Stays [.regs, .seen, .fabric, .keel, .rigger, .tunes] s (resumeRun s) := by
  unfold resumeRun
  extract_lets -underBinder -merge -useContext +onlyGivenNames s1
  have h_s1 : Stays [.regs, .seen, .fabric, .keel, .rigger, .tunes] s s1 := by
    dsimp -zeta only [s1]
    refine .app ?_ (enterKeelState_stays ..) (by decide)
    refine .app ?_ (applyTarget_stays ..) (by decide)
    exact .refl ..
  clear_value s1
  refine .ite ?_ ?_
  · refine .app ?_ (doStop_stays ..) (by decide)
    exact h_s1
  · exact h_s1

theorem chopTestEffect_stays (chopMa : Nat) (s : State) :
    Stays [.regs, .seen, .fabric, .rigger] s (chopTestEffect chopMa s) := by
  unfold chopTestEffect
  refine .ite ?_ ?_
  · refine .app ?_ (askChopTest_stays ..) (by decide)
    exact .refl ..
  · refine .app ?_ (keelRefuse_stays ..) (by decide)
    exact .refl ..

theorem keelResumeEffect_stays (s : State) :
    Stays [.regs, .seen, .fabric, .keel, .rigger, .tunes] s (keelResumeEffect s) := by
  unfold keelResumeEffect
  extract_lets -underBinder -merge -useContext +onlyGivenNames st
  refine .ite ?_ ?_
  · refine .app ?_ (keelRefuse_stays ..) (by decide)
    exact .refl ..
  · refine .ite ?_ ?_
    · refine .app ?_ (keelRefuse_stays ..) (by decide)
      exact .refl ..
    · refine .ite ?_ ?_
      · refine .app ?_ (startCatch_stays ..) (by decide)
        refine .app ?_ (applyTarget_stays ..) (by decide)
        refine .app ?_ (modKeel_stays ..) (by decide)
        exact .refl ..
      · refine .app ?_ (resumeRun_stays ..) (by decide)
        exact .refl ..

theorem keelCmdEffect_stays (v : Word) (rotorRpm : Nat) (chopMa : Nat) (s : State) :
    Stays [.regs, .seen, .fabric, .stopped, .keel, .rigger, .hda, .tunes, .oars, .sweep, .mem, .checks, .boat] s (keelCmdEffect v rotorRpm chopMa s) := by
  unfold keelCmdEffect
  refine .ite ?_ ?_
  · exact .refl ..
  · split
    · rename_i x1 e
      refine .app ?_ (keelRunEffect_stays ..) (by decide)
      exact .refl ..
    · rename_i x1 e
      refine .app ?_ (keelStopEffect_stays ..) (by decide)
      exact .refl ..
    · rename_i x1 e
      refine .app ?_ (keelCoastEffect_stays ..) (by decide)
      exact .refl ..
    · rename_i x1 e
      refine .app ?_ (chopTestEffect_stays ..) (by decide)
      exact .refl ..
    · rename_i x1 e
      refine .app ?_ (keelResumeEffect_stays ..) (by decide)
      exact .refl ..
    · rename_i x1 e e1 e2 e3 e4
      refine .app ?_ (keelRefuse_stays ..) (by decide)
      exact .refl ..

theorem spdTargetEffect_stays (v : Word) (s : State) :
    Stays [.regs, .seen, .fabric, .crit, .stopped, .keel, .rigger, .hda, .tunes, .oars, .sweep, .mem, .checks, .boat] s (spdTargetEffect v s) := by
  unfold spdTargetEffect
  extract_lets -underBinder -merge -useContext +onlyGivenNames n s1 s1_1
  have h_s1 : Stays [.regs, .seen, .fabric, .crit, .stopped, .keel, .rigger, .hda, .tunes, .oars, .sweep, .mem, .checks, .boat] s s1 := by
    dsimp -zeta only [s1]
    refine .app ?_ (tuneTrip_stays ..) (by decide)
    refine .app ?_ (State.critPut_stays ..) (by decide)
    exact .refl ..
  clear_value s1
  have h_s1_1 : Stays [.regs, .seen, .fabric, .crit, .stopped, .keel, .rigger, .hda, .tunes, .oars, .sweep, .mem, .checks, .boat] s s1_1 := by
    dsimp -zeta only [s1_1]
    refine .app ?_ (tuneTrip_stays ..) (by decide)
    refine .app ?_ (State.critPut_stays ..) (by decide)
    exact .refl ..
  clear_value s1_1
  refine .ite ?_ ?_
  · refine .ite ?_ ?_
    · refine .app ?_ (doStop_stays ..) (by decide)
      exact h_s1
    · exact h_s1
  · refine .ite ?_ ?_
    · refine .app ?_ (keelRefuse_stays ..) (by decide)
      exact .refl ..
    · refine .ite ?_ ?_
      · exact h_s1_1
      · refine .app ?_ (keelUnlock_stays ..) (by decide)
        refine .app ?_ (applyTarget_stays ..) (by decide)
        exact h_s1_1

theorem freshReference_stays (s : State) :
    Stays [.regs, .seen, .fabric, .keel] s (freshReference s) := by
  unfold freshReference
  refine .app ?_ (setPhaseLock_stays ..) (by decide)
  refine .app ?_ (State.setBit_stays ..) (by decide)
  refine .app ?_ (modKeel_stays ..) (by decide)
  exact .refl ..

theorem requalify_stays (s : State) :
    Stays [.regs, .seen, .fabric, .stopped, .keel, .hda, .tunes, .oars, .sweep, .mem, .checks, .boat] s (requalify s) := by
  unfold requalify
  refine .ite ?_ ?_
  · refine .app ?_ (keelUnlock_stays ..) (by decide)
    exact .refl ..
  · exact .refl ..

theorem dropReference_stays (s : State) :
    Stays [.regs, .seen, .fabric, .stopped, .keel, .hda, .tunes, .oars, .sweep, .mem, .checks, .boat] s (dropReference s) := by
  unfold dropReference
  refine .app ?_ (requalify_stays ..) (by decide)
  refine .app ?_ (freshReference_stays ..) (by decide)
  refine .app ?_ (State.setBit_stays ..) (by decide)
  exact .refl ..

theorem refNotHeld_stays (r : Nat) (req : Requester) (was : Bool) (s : State) :
    Stays [.regs, .seen, .fabric, .stopped, .keel, .hda, .tunes, .oars, .sweep, .mem, .checks, .boat] s (refNotHeld r req was s) := by
  unfold refNotHeld
  refine .app ?_ (notHeld_stays ..) (by decide)
  refine .ite ?_ ?_
  · refine .app ?_ (dropReference_stays ..) (by decide)
    exact .refl ..
  · refine .app ?_ (State.setBit_stays ..) (by decide)
    exact .refl ..

theorem refCfgEffect_stays (req : Requester) (v : Word) (s : State) :
    Stays [.regs, .seen, .fabric, .stopped, .keel, .hda, .tunes, .oars, .sweep, .mem, .checks, .boat] s (refCfgEffect req v s) := by
  unfold refCfgEffect
  extract_lets -underBinder -merge -useContext +onlyGivenNames was s1
  have h_s1 : Stays [.regs, .seen, .fabric, .stopped, .keel, .hda, .tunes, .oars, .sweep, .mem, .checks, .boat] s s1 := by
    dsimp -zeta only [s1]
    refine .app ?_ (storeWrite_stays ..) (by decide)
    exact .refl ..
  clear_value s1
  refine .ite ?_ ?_
  · refine .ite ?_ ?_
    · refine .app ?_ (dropReference_stays ..) (by decide)
      exact h_s1
    · exact h_s1
  · refine .ite ?_ ?_
    · refine .app ?_ (refNotHeld_stays ..) (by decide)
      exact h_s1
    · refine .ite ?_ ?_
      · refine .app ?_ (refNotHeld_stays ..) (by decide)
        exact h_s1
      · refine .ite ?_ ?_
        · exact h_s1
        · refine .app ?_ (requalify_stays ..) (by decide)
          refine .app ?_ (freshReference_stays ..) (by decide)
          exact h_s1

theorem spdSrcEffect_stays (req : Requester) (v : Word) (s : State) :
    Stays [.regs, .seen, .fabric, .crit, .stopped, .keel, .hda, .tunes, .oars, .sweep, .mem, .checks, .boat] s (spdSrcEffect req v s) := by
  unfold spdSrcEffect
  extract_lets -underBinder -merge -useContext +onlyGivenNames s1
  have h_s1 : Stays [.regs, .seen, .fabric, .crit, .stopped, .keel, .hda, .tunes, .oars, .sweep, .mem, .checks, .boat] s s1 := by
    dsimp -zeta only [s1]
    refine .app ?_ (requalify_stays ..) (by decide)
    refine .app ?_ (freshReference_stays ..) (by decide)
    refine .app ?_ (tuneTrip_stays ..) (by decide)
    refine .app ?_ (State.critPut_stays ..) (by decide)
    exact .refl ..
  clear_value s1
  refine .ite ?_ ?_
  · refine .app ?_ (refNotHeld_stays ..) (by decide)
    exact h_s1
  · exact h_s1

theorem csCfgEffect_stays (req : Requester) (v : Word) (s : State) :
    Stays [.regs, .seen, .fabric] s (csCfgEffect req v s) := by
  unfold csCfgEffect
  extract_lets -underBinder -merge -useContext +onlyGivenNames s1
  have h_s1 : Stays [.regs, .seen, .fabric] s s1 := by
    dsimp -zeta only [s1]
    refine .app ?_ (storeWrite_stays ..) (by decide)
    exact .refl ..
  clear_value s1
  refine .ite ?_ ?_
  · exact h_s1
  · refine .app ?_ (notHeld_stays ..) (by decide)
    refine .app ?_ (State.setFld_stays ..) (by decide)
    exact h_s1

theorem paCfgEffect_stays (v : Word) (s : State) :
    Stays [.regs] s (paCfgEffect v s) := by
  unfold paCfgEffect
  extract_lets -underBinder -merge -useContext +onlyGivenNames s1 on
  have h_s1 : Stays [.regs] s s1 := by
    dsimp -zeta only [s1]
    refine .app ?_ (storeWrite_stays ..) (by decide)
    exact .refl ..
  clear_value s1
  refine .ite ?_ ?_
  · refine .app ?_ (State.setFld_stays ..) (by decide)
    exact h_s1
  · exact h_s1

theorem stepAdvance_stays (s : State) :
    Stays [.regs, .keel] s (stepAdvance s) := by
  unfold stepAdvance
  extract_lets -underBinder -merge -useContext +onlyGivenNames index on want freq due have_ next
  refine .app ?_ (State.setBit_stays ..) (by decide)
  refine .app ?_ (modKeel_stays ..) (by decide)
  exact .refl ..

theorem stepDecel_stays (s : State) :
    Stays [.regs, .seen, .fabric, .keel] s (stepDecel s) := by
  unfold stepDecel
  extract_lets -underBinder -merge -useContext +onlyGivenNames per due pct s1
  have h_s1 : Stays [.regs, .seen, .fabric, .keel] s s1 := by
    dsimp -zeta only [s1]
    refine .app ?_ (modKeel_stays ..) (by decide)
    exact .refl ..
  clear_value s1
  refine .ite ?_ ?_
  · refine .app ?_ (raise_stays ..) (by decide)
    exact h_s1
  · exact h_s1

theorem enterGenerator_stays (s : State) :
    Stays [.regs, .seen, .fabric, .keel, .rigger, .tunes] s (enterGenerator s) := by
  unfold enterGenerator
  refine .app ?_ (raise_stays ..) (by decide)
  refine .app ?_ (enterKeelState_stays ..) (by decide)
  refine .app ?_ (modKeel_stays ..) (by decide)
  exact .refl ..

theorem stepReacq_stays (p : PwmSample) (s : State) :
    Stays [.regs, .seen, .fabric, .keel, .rigger, .tunes] s (stepReacq p s) := by
  unfold stepReacq
  extract_lets -underBinder -merge -useContext +onlyGivenNames k small s1
  have h_s1 : Stays [.regs, .seen, .fabric, .keel, .rigger, .tunes] s s1 := by
    dsimp -zeta only [s1]
    refine .app ?_ (driveSpindle_stays ..) (by decide)
    refine .app ?_ (modKeel_stays ..) (by decide)
    exact .refl ..
  clear_value s1
  refine .ite ?_ ?_
  · refine .app ?_ (modKeel_stays ..) (by decide)
    exact .refl ..
  · refine .ite ?_ ?_
    · refine .ite ?_ ?_
      · refine .app ?_ (driveSpindle_stays ..) (by decide)
        refine .app ?_ (modKeel_stays ..) (by decide)
        exact .refl ..
      · refine .app ?_ (modKeel_stays ..) (by decide)
        exact .refl ..
    · refine .ite ?_ ?_
      · refine .ite ?_ ?_
        · refine .app ?_ (modKeel_stays ..) (by decide)
          exact .refl ..
        · refine .app ?_ (modKeel_stays ..) (by decide)
          exact .refl ..
      · refine .ite ?_ ?_
        · refine .ite ?_ ?_
          · refine .app ?_ (enterGenerator_stays ..) (by decide)
            refine .app ?_ (modKeel_stays ..) (by decide)
            exact h_s1
          · exact h_s1
        · refine .app ?_ (modKeel_stays ..) (by decide)
          exact .refl ..

theorem stepCurrentSense_stays (p : PwmSample) (s : State) :
    Stays [.keel] s (stepCurrentSense p s) := by
  unfold stepCurrentSense
  extract_lets -underBinder -merge -useContext +onlyGivenNames tol u v
  refine .ite ?_ ?_
  · exact .refl ..
  · refine .ite ?_ ?_
    · refine .app ?_ (modKeel_stays ..) (by decide)
      exact .refl ..
    · refine .ite ?_ ?_
      · refine .ite ?_ ?_
        · refine .app ?_ (modKeel_stays ..) (by decide)
          exact .refl ..
        · refine .app ?_ (modKeel_stays ..) (by decide)
          exact .refl ..
      · refine .app ?_ (modKeel_stays ..) (by decide)
        exact .refl ..

theorem stepLock_stays (s : State) :
    Stays [.regs, .seen, .fabric, .stopped, .keel, .hda, .tunes, .oars, .sweep, .mem, .checks, .boat] s (stepLock s) := by
  unfold stepLock
  extract_lets -underBinder -merge -useContext +onlyGivenNames e v off ok
  refine .ite ?_ ?_
  · refine .app ?_ (modKeel_stays ..) (by decide)
    exact .refl ..
  · refine .app ?_ (keelUnlock_stays ..) (by decide)
    exact .refl ..

theorem spinupReturn_stays {P : List Piece} {s0 : State} (back : State → State) (s : State) (h_back : ∀ u, Stays P s0 u → Stays P s0 (back u)) (hq : sub [.regs, .seen, .fabric, .stopped, .keel, .rigger, .tunes] P = true) (h0 : Stays P s0 s) :
    Stays P s0 (spinupReturn back s) := by
  unfold spinupReturn
  refine .ite ?_ ?_
  · refine .app ?_ (lasting_stays ..) (sub_trans (by decide) hq)
    refine .app ?_ (enterKeelState_stays ..) (sub_trans (by decide) hq)
    refine .app ?_ (modKeel_stays ..) (sub_trans (by decide) hq)
    exact h0
  · refine h_back _ ?_
    refine .app ?_ (modKeel_stays ..) (sub_trans (by decide) hq)
    exact h0

theorem detectAgain_stays (s : State) :
    Stays [.regs, .keel, .rigger, .tunes] s (detectAgain s) := by
  unfold detectAgain
  refine .app ?_ (enterKeelState_stays ..) (by decide)
  refine .app ?_ (modKeel_stays ..) (by decide)
  exact .refl ..

theorem stepDetect_stays (p : PwmSample) (s : State) :
    Stays [.regs, .seen, .fabric, .stopped, .keel, .rigger, .tunes] s (stepDetect p s) := by
  unfold stepDetect
  split
  · rename_i x1 e
    exact .refl ..
  · rename_i x1 found1 e
    refine .ite ?_ ?_
    · refine .app ?_ (modKeel_stays ..) (by decide)
      exact .refl ..
    · split
      · rename_i found1 deg1
        refine .app ?_ (enterKeelState_stays ..) (by decide)
        refine .app ?_ (modKeel_stays ..) (by decide)
        exact .refl ..
      · rename_i found1
        refine spinupReturn_stays _ _ ?_ (by decide) ?_
        · intro u hu
          refine .app ?_ (detectAgain_stays ..) (by decide)
          exact hu
        · exact .refl ..

theorem stepOpenLoop_stays (p : PwmSample) (s : State) :
    Stays [.keel] s (stepOpenLoop p s) := by
  unfold stepOpenLoop
  refine .app ?_ (modKeel_stays ..) (by decide)
  exact .refl ..

theorem stepByState_stays (p : PwmSample) (s : State) :
    Stays [.regs, .seen, .fabric, .stopped, .keel, .rigger, .tunes] s (stepByState p s) := by
  unfold stepByState
  extract_lets -underBinder -merge -useContext +onlyGivenNames st s1
  have h_s1 : Stays [.regs, .seen, .fabric, .stopped, .keel, .rigger, .tunes] s s1 := by
    dsimp -zeta only [s1]
    refine .app ?_ (modKeel_stays ..) (by decide)
    exact .refl ..
  clear_value s1
  refine .ite ?_ ?_
  · refine .app ?_ (stepDetect_stays ..) (by decide)
    exact .refl ..
  · refine .ite ?_ ?_
    · refine .app ?_ (stepOpenLoop_stays ..) (by decide)
      exact .refl ..
    · refine .ite ?_ ?_
      · refine .app ?_ (stepReacq_stays ..) (by decide)
        exact .refl ..
      · refine .ite ?_ ?_
        · refine .app ?_ (stepDecel_stays ..) (by decide)
          exact .refl ..
        · refine .ite ?_ ?_
          · refine .ite ?_ ?_
            · refine .app ?_ (stepReacq_stays ..) (by decide)
              exact h_s1
            · exact h_s1
          · refine .ite ?_ ?_
            · refine .ite ?_ ?_
              · refine .app ?_ (detectAgain_stays ..) (by decide)
                exact .refl ..
              · refine .ite ?_ ?_
                · exact .refl ..
                · refine .app ?_ (enterKeelState_stays ..) (by decide)
                  exact .refl ..
            · exact .refl ..

theorem stepDrive_stays (p : PwmSample) (s : State) :
    Stays [.keel, .rigger] s (stepDrive p s) := by
  unfold stepDrive
  refine .ite ?_ ?_
  · refine .app ?_ (modKeel_stays ..) (by decide)
    exact .refl ..
  · split
    · rename_i x1 m1 i1 r1 e
      extract_lets -underBinder -merge -useContext +onlyGivenNames moved s1
      have h_s1 : Stays [.keel, .rigger] s s1 := by
        dsimp -zeta only [s1]
        refine .app ?_ (modKeel_stays ..) (by decide)
        exact .refl ..
      clear_value s1
      refine .app ?_ (modRigger_stays ..) (by decide)
      exact h_s1

theorem stepSat_stays (sat : Bool) (s : State) :
    Stays [.regs, .seen, .fabric, .tunes] s (stepSat sat s) := by
  unfold stepSat
  extract_lets -underBinder -merge -useContext +onlyGivenNames s1
  have h_s1 : Stays [.regs, .seen, .fabric, .tunes] s s1 := by
    dsimp -zeta only [s1]
    refine .app ?_ (raise_stays ..) (by decide)
    refine .app ?_ (State.setBit_stays ..) (by decide)
    exact .refl ..
  clear_value s1
  refine .ite ?_ ?_
  · exact .refl ..
  · refine .ite ?_ ?_
    · refine .app ?_ (trTrigger_stays ..) (by decide)
      exact h_s1
    · exact h_s1

theorem keelTune_stays (p : PwmSample) (s : State) :
    Stays [.regs, .tunes] s (keelTune p s) := by
  unfold keelTune
  extract_lets -underBinder -merge -useContext +onlyGivenNames s1 e s2
  have h_s1 : Stays [.regs, .tunes] s s1 := by
    dsimp -zeta only [s1]
    refine .app ?_ (tuneRecord_stays ..) (by decide)
    exact .refl ..
  clear_value s1
  have h_s2 : Stays [.regs, .tunes] s s2 := by
    dsimp -zeta only [s2]
    refine .ite ?_ ?_
    · refine .app ?_ (tuneTrip_stays ..) (by decide)
      exact h_s1
    · exact h_s1
  clear_value s2
  refine .ite ?_ ?_
  · exact h_s1
  · refine .app ?_ (updateOver_stays ..) (by decide)
    refine .app ?_ (guardSat_stays ..) (by decide)
    exact h_s2

theorem pwmStep_stays (sample : PwmSample) (s : State) :
    Stays [.regs, .seen, .fabric, .stopped, .keel, .rigger, .hda, .tunes, .oars, .sweep, .mem, .checks, .boat] s (pwmStep sample s) := by
  unfold pwmStep
  extract_lets -underBinder -merge -useContext +onlyGivenNames p above s1 s2 s3 s4 s5 s6
  have h_s1 : Stays [.regs, .seen, .fabric, .stopped, .keel, .rigger, .hda, .tunes, .oars, .sweep, .mem, .checks, .boat] s s1 := by
    dsimp -zeta only [s1]
    refine .ite ?_ ?_
    · exact .refl ..
    · refine .app ?_ (raise_stays ..) (by decide)
      refine .app ?_ (State.count_stays ..) (by decide)
      exact .refl ..
  clear_value s1
  have h_s2 : Stays [.regs, .seen, .fabric, .stopped, .keel, .rigger, .hda, .tunes, .oars, .sweep, .mem, .checks, .boat] s s2 := by
    dsimp -zeta only [s2]
    refine .app ?_ (State.setFld_stays ..) (by decide)
    refine .app ?_ (State.setFld_stays ..) (by decide)
    refine .app ?_ (State.setReg_stays ..) (by decide)
    exact h_s1
  clear_value s2
  have h_s3 : Stays [.regs, .seen, .fabric, .stopped, .keel, .rigger, .hda, .tunes, .oars, .sweep, .mem, .checks, .boat] s s3 := by
    dsimp -zeta only [s3]
    refine .app ?_ (State.setBit_stays ..) (by decide)
    exact h_s2
  clear_value s3
  have h_s4 : Stays [.regs, .seen, .fabric, .stopped, .keel, .rigger, .hda, .tunes, .oars, .sweep, .mem, .checks, .boat] s s4 := by
    dsimp -zeta only [s4]
    refine .app ?_ (modKeel_stays ..) (by decide)
    exact h_s3
  clear_value s4
  have h_s5 : Stays [.regs, .seen, .fabric, .stopped, .keel, .rigger, .hda, .tunes, .oars, .sweep, .mem, .checks, .boat] s s5 := by
    dsimp -zeta only [s5]
    refine .ite ?_ ?_
    · refine .app ?_ (State.setFld_stays ..) (by decide)
      exact h_s4
    · exact h_s4
  clear_value s5
  have h_s6 : Stays [.regs, .seen, .fabric, .stopped, .keel, .rigger, .hda, .tunes, .oars, .sweep, .mem, .checks, .boat] s s6 := by
    dsimp -zeta only [s6]
    refine .app ?_ (tuneGenerate_stays ..) (by decide)
    refine .app ?_ (stepCurrentSense_stays ..) (by decide)
    refine .app ?_ (stepByState_stays ..) (by decide)
    exact h_s5
  clear_value s6
  split
  · rename_i x1 m1 i1 r1 e
    refine .app ?_ (keelTune_stays ..) (by decide)
    refine .app ?_ (stepLock_stays ..) (by decide)
    refine .app ?_ (stepTrim_stays ..) (by decide)
    refine .app ?_ (stepSat_stays ..) (by decide)
    refine .app ?_ (stepAdvance_stays ..) (by decide)
    refine .app ?_ (stepDrive_stays ..) (by decide)
    exact h_s6

theorem estimateLostEvent_stays (s : State) :
    Stays [.regs, .seen, .fabric, .tunes] s (estimateLostEvent s) := by
  unfold estimateLostEvent
  refine .app ?_ (trTrigger_stays ..) (by decide)
  refine .app ?_ (raise_stays ..) (by decide)
  exact .refl ..

theorem startReacq_stays (ret : Nat) (attempt : Nat) (s : State) :
    Stays [.regs, .keel, .rigger, .tunes] s (startReacq ret attempt s) := by
  unfold startReacq
  refine .app ?_ (enterKeelState_stays ..) (by decide)
  refine .app ?_ (modKeel_stays ..) (by decide)
  exact .refl ..

theorem restartSpinup_stays (s : State) :
    Stays [.regs, .seen, .fabric, .stopped, .keel, .rigger, .tunes] s (restartSpinup s) := by
  unfold restartSpinup
  refine spinupReturn_stays _ _ ?_ (by decide) ?_
  · intro u hu
    refine .app ?_ (enterKeelState_stays ..) (by decide)
    refine .app ?_ (modKeel_stays ..) (by decide)
    exact hu
  · exact .refl ..

theorem mirrorRigger_stays (m : RiggerMirror) (s : State) :
    Stays [.regs] s (mirrorRigger m s) := by
  unfold mirrorRigger
  extract_lets -underBinder -merge -useContext +onlyGivenNames r s1 s2
  have h_s1 : Stays [.regs] s s1 := by
    dsimp -zeta only [s1]
    refine .app ?_ (State.setFld_stays ..) (by decide)
    refine .app ?_ (State.setFld_stays ..) (by decide)
    exact .refl ..
  clear_value s1
  have h_s2 : Stays [.regs] s s2 := by
    dsimp -zeta only [s2]
    refine .app ?_ (State.setReg_stays ..) (by decide)
    exact h_s1
  clear_value s2
  refine .app ?_ (State.setFld_stays ..) (by decide)
  exact h_s2

theorem chopFails_stays (kind : Nat) (a : State) :
    Stays [.rigger] a (chopFails kind a) := by
  unfold chopFails
  refine .app ?_ (modRigger_stays ..) (by decide)
  exact .refl ..

theorem chopSelfTest_stays (chopMa : Nat) (bus : Nat) (s : State) :
    Stays [.rigger] s (chopSelfTest chopMa bus s) := by
  unfold chopSelfTest
  refine .ite ?_ ?_
  · refine .app ?_ (modRigger_stays ..) (by decide)
    exact .refl ..
  · refine .app ?_ (chopFails_stays ..) (by decide)
    exact .refl ..

theorem takeAsked_stays (bus : Nat) (s : State) :
    Stays [.regs, .seen, .fabric, .rigger, .rudders, .tunes] s (takeAsked bus s) := by
  unfold takeAsked
  extract_lets -underBinder -merge -useContext +onlyGivenNames a s1 s2 s3
  have h_s1 : Stays [.regs, .seen, .fabric, .rigger, .rudders, .tunes] s s1 := by
    dsimp -zeta only [s1]
    refine .app ?_ (modRigger_stays ..) (by decide)
    exact .refl ..
  clear_value s1
  have h_s2 : Stays [.regs, .seen, .fabric, .rigger, .rudders, .tunes] s s2 := by
    dsimp -zeta only [s2]
    split
    · rename_i found1 deg1 e
      refine .app ?_ (chopSelfTest_stays ..) (by decide)
      exact h_s1
    · rename_i found1 e
      exact h_s1
  clear_value s2
  have h_s3 : Stays [.regs, .seen, .fabric, .rigger, .rudders, .tunes] s s3 := by
    dsimp -zeta only [s3]
    refine .ite ?_ ?_
    · refine .app ?_ (modRigger_stays ..) (by decide)
      exact h_s2
    · exact h_s2
  clear_value s3
  refine .ite ?_ ?_
  · refine .app ?_ (latchCleared_stays ..) (by decide)
    refine .app ?_ (modRigger_stays ..) (by decide)
    exact h_s3
  · exact h_s3

theorem deliverSlots_stays (s : State) :
    Stays [.rigger] s (deliverSlots s) := by
  unfold deliverSlots
  extract_lets -underBinder -merge -useContext +onlyGivenNames r drive
  refine .ite ?_ ?_
  · refine .app ?_ (modRigger_stays ..) (by decide)
    exact .refl ..
  · refine .app ?_ (modRigger_stays ..) (by decide)
    exact .refl ..

theorem takeHeld_stays (s : State) :
    Stays [.rigger] s (takeHeld s) := by
  unfold takeHeld
  refine .ite ?_ ?_
  · refine .app ?_ (modRigger_stays ..) (by decide)
    exact .refl ..
  · exact .refl ..

theorem linkDown_stays (s : State) :
    Stays [.regs, .rigger] s (linkDown s) := by
  unfold linkDown
  refine .app ?_ (State.setBit_stays ..) (by decide)
  refine .app ?_ (takeHeld_stays ..) (by decide)
  exact .refl ..

theorem riggerAutonomous_stays (s : State) :
    Stays [.regs, .seen, .fabric, .stopped, .rigger, .hda, .rudders, .tunes, .oars, .mem, .checks, .boat] s (riggerAutonomous s) := by
  unfold riggerAutonomous
  extract_lets -underBinder -merge -useContext +onlyGivenNames s1
  have h_s1 : Stays [.regs, .seen, .fabric, .stopped, .rigger, .hda, .rudders, .tunes, .oars, .mem, .checks, .boat] s s1 := by
    dsimp -zeta only [s1]
    refine .app ?_ (linkDown_stays ..) (by decide)
    exact .refl ..
  clear_value s1
  refine .app ?_ (modRigger_stays ..) (by decide)
  refine .foldl _ _ (fun u x hu => ?_) ?_
  · refine .app ?_ (riggerRetract_stays ..) (by decide)
    exact hu
  · exact h_s1

theorem bridgeCtrlEffect_stays (v : Word) (s : State) :
    Stays [.rigger] s (bridgeCtrlEffect v s) := by
  unfold bridgeCtrlEffect
  refine .app ?_ (askRigger_stays ..) (by decide)
  exact .refl ..

theorem drvReset_stays (s : State) :
    Stays [.rigger] s (drvReset s) := by
  unfold drvReset
  refine .ite ?_ ?_
  · refine .app ?_ (askRigger_stays ..) (by decide)
    exact .refl ..
  · exact .refl ..

theorem keelDoes_stays {P : List Piece} {s0 : State} (f : State → State) (s : State) (h_f : ∀ u, Stays P s0 u → Stays P s0 (f u)) (hq : sub [] P = true) (h0 : Stays P s0 s) :
    Stays P s0 (keelDoes f s) := by
  unfold keelDoes
  refine .when _ _ (fun u hu => ?_) ?_
  · refine h_f _ ?_
    exact hu
  · exact h0

theorem chopNews_stays (s : State) :
    Stays [.regs, .seen, .fabric, .rigger] s (chopNews s) := by
  unfold chopNews
  extract_lets -underBinder -merge -useContext +onlyGivenNames s1
  have h_s1 : Stays [.regs, .seen, .fabric, .rigger] s s1 := by
    dsimp -zeta only [s1]
    refine .app ?_ (modRigger_stays ..) (by decide)
    exact .refl ..
  clear_value s1
  refine .ite ?_ ?_
  · exact .refl ..
  · refine .ite ?_ ?_
    · exact h_s1
    · refine .app ?_ (raise_stays ..) (by decide)
      exact h_s1

theorem faultNews_stays (s : State) :
    Stays [.regs, .seen, .fabric, .stopped, .rigger, .tunes] s (faultNews s) := by
  unfold faultNews
  extract_lets -underBinder -merge -useContext +onlyGivenNames s1
  have h_s1 : Stays [.regs, .seen, .fabric, .stopped, .rigger, .tunes] s s1 := by
    dsimp -zeta only [s1]
    refine .app ?_ (lasting_stays ..) (by decide)
    refine .app ?_ (modRigger_stays ..) (by decide)
    exact .refl ..
  clear_value s1
  refine .ite ?_ ?_
  · exact .refl ..
  · refine .ite ?_ ?_
    · refine keelDoes_stays _ _ ?_ (by decide) ?_
      · intro u hu
        refine .app ?_ (beginShortBrake_stays ..) (by decide)
        exact hu
      · exact h_s1
    · exact h_s1

theorem tripNews_stays (s : State) :
    Stays [.regs, .seen, .fabric, .stopped, .keel, .rigger, .hda, .rudders, .tunes, .oars, .sweep, .mem, .checks, .boat] s (tripNews s) := by
  unfold tripNews
  refine .ite ?_ ?_
  · exact .refl ..
  · refine .app ?_ (retractLoaded_stays ..) (by decide)
    refine keelDoes_stays _ _ ?_ (by decide) ?_
    · intro u hu
      refine .app ?_ (enterCoast_stays ..) (by decide)
      exact hu
    · refine .app ?_ (lasting_stays ..) (by decide)
      refine .app ?_ (modRigger_stays ..) (by decide)
      exact .refl ..

theorem offNews_stays (was : Bool) (s : State) :
    Stays [.regs, .seen, .fabric, .stopped, .keel, .rigger, .hda, .rudders, .tunes, .oars, .sweep, .mem, .checks, .boat] s (offNews was s) := by
  unfold offNews
  extract_lets -underBinder -merge -useContext +onlyGivenNames s1
  have h_s1 : Stays [.regs, .seen, .fabric, .stopped, .keel, .rigger, .hda, .rudders, .tunes, .oars, .sweep, .mem, .checks, .boat] s s1 := by
    dsimp -zeta only [s1]
    refine .ite ?_ ?_
    · refine keelDoes_stays _ _ ?_ (by decide) ?_
      · intro u hu
        refine .app ?_ (enterCoast_stays ..) (by decide)
        exact hu
      · exact .refl ..
    · exact .refl ..
  clear_value s1
  refine .ite ?_ ?_
  · refine .app ?_ (bridgeBack_stays ..) (by decide)
    exact h_s1
  · exact h_s1

theorem frameToCore_stays (m : RiggerMirror) (s : State) :
    Stays [.regs, .seen, .fabric, .stopped, .keel, .rigger, .hda, .rudders, .tunes, .oars, .sweep, .mem, .checks, .boat] s (frameToCore m s) := by
  unfold frameToCore
  refine .app ?_ (offNews_stays ..) (by decide)
  refine .app ?_ (tripNews_stays ..) (by decide)
  refine .app ?_ (faultNews_stays ..) (by decide)
  refine .app ?_ (chopNews_stays ..) (by decide)
  refine .app ?_ (mirrorRigger_stays ..) (by decide)
  exact .refl ..

theorem setIsolation_stays (opened : Bool) (s : State) :
    Stays [.regs, .seen, .fabric, .rigger] s (setIsolation opened s) := by
  unfold setIsolation
  refine .app ?_ (raise_stays ..) (by decide)
  refine .app ?_ (modRigger_stays ..) (by decide)
  exact .refl ..

theorem keelPowerFail_stays (s0x : State) :
    Stays [.regs, .seen, .fabric, .stopped, .keel, .rigger, .hda, .tunes, .oars, .sweep, .mem, .checks, .boat] s0x (keelPowerFail s0x) := by
  unfold keelPowerFail
  extract_lets -underBinder -merge -useContext +onlyGivenNames s st
  have h_s : Stays [.regs, .seen, .fabric, .stopped, .keel, .rigger, .hda, .tunes, .oars, .sweep, .mem, .checks, .boat] s0x s := by
    dsimp -zeta only [s]
    refine .app ?_ (tuneTrip_stays ..) (by decide)
    exact .refl ..
  clear_value s
  refine .ite ?_ ?_
  · exact h_s
  · refine .ite ?_ ?_
    · refine .app ?_ (enterGenerator_stays ..) (by decide)
      exact h_s
    · refine .ite ?_ ?_
      · refine .app ?_ (enterGenerator_stays ..) (by decide)
        refine .app ?_ (modKeel_stays ..) (by decide)
        exact h_s
      · refine .ite ?_ ?_
        · refine .ite ?_ ?_
          · refine .app ?_ (enterGenerator_stays ..) (by decide)
            exact h_s
          · refine .app ?_ (modKeel_stays ..) (by decide)
            exact h_s
        · refine .ite ?_ ?_
          · refine .ite ?_ ?_
            · refine .app ?_ (modKeel_stays ..) (by decide)
              exact h_s
            · refine .app ?_ (enterGenerator_stays ..) (by decide)
              refine .app ?_ (modKeel_stays ..) (by decide)
              exact h_s
          · refine .ite ?_ ?_
            · refine .app ?_ (enterCoast_stays ..) (by decide)
              exact h_s
            · exact h_s

theorem freeResource_stays (r : Nat) (f : Nat) (s : State) :
    Stays [.regs, .seen, .fabric, .stopped, .keel, .hda, .tunes, .oars, .sweep, .mem, .checks, .boat] s (freeResource r f s) := by
  unfold freeResource
  refine .ite ?_ ?_
  · refine .ite ?_ ?_
    · refine .app ?_ (dropReference_stays ..) (by decide)
      exact .refl ..
    · exact .refl ..
  · refine .ite ?_ ?_
    · refine .ite ?_ ?_
      · refine .app ?_ (State.setReg_stays ..) (by decide)
        exact .refl ..
      · refine .app ?_ (State.setFld_stays ..) (by decide)
        exact .refl ..
    · refine .app ?_ (tuneRelease_stays ..) (by decide)
      exact .refl ..

theorem releaseResource_stays (r : Nat) (s : State) :
    Stays [.regs, .seen, .fabric, .stopped, .keel, .hda, .tunes, .oars, .sweep, .mem, .checks, .boat] s (releaseResource r s) := by
  unfold releaseResource
  refine .app ?_ (freeResource_stays ..) (by decide)
  refine .app ?_ (State.setReg_stays ..) (by decide)
  exact .refl ..

theorem releaseHolders_stays (cs : List Nat) (s : State) :
    Stays [.regs, .seen, .fabric, .stopped, .keel, .hda, .tunes, .oars, .sweep, .mem, .checks, .boat] s (releaseHolders cs s) := by
  unfold releaseHolders
  refine .ite ?_ ?_
  · exact .refl ..
  · refine .foldl _ _ (fun u x hu => ?_) ?_
    · refine .ite ?_ ?_
      · refine .app ?_ (releaseResource_stays ..) (by decide)
        exact hu
      · exact hu
    · exact .refl ..

end Sys2Proof.Machine
end

