-- ==== Sys2Proof/Laws/StaysQueueOps.lean ====
section
/-! SUPPORT. What the operations and meanings of Machine/QueueOps do at most. -/

set_option linter.all false
set_option maxRecDepth 4000

namespace Sys2Proof.Machine

theorem setHq_stays (q : QueueId) (x : HwQueue) (s : State) :
    Stays [.queues] s (setHq q x s) := by
  unfold setHq
  refine .app ?_ (.set_queues _ _) (by decide)
  exact .refl ..

theorem modHq_stays (q : QueueId) (f : HwQueue → HwQueue) (s : State) :
    Stays [.queues] s (modHq q f s) := by
  unfold modHq
  refine .app ?_ (setHq_stays ..) (by decide)
  exact .refl ..

theorem qPut_stays (q : QueueId) (port : Nat) (ws : List Word) (marked : Bool) (late : Bool) (dup : Bool) (s : State) :
    Stays [.regs, .queues] s (qPut q port ws marked late dup s) := by
  unfold qPut
  extract_lets -underBinder -merge -useContext +onlyGivenNames s1
  have h_s1 : Stays [.regs, .queues] s s1 := by
    dsimp -zeta only [s1]
    refine .app ?_ (modHq_stays ..) (by decide)
    exact .refl ..
  clear_value s1
  refine .app ?_ (State.mark_stays ..) (by decide)
  exact h_s1

theorem qAdmit_stays (q : QueueId) (port : Nat) (ws : List Word) (marked : Bool) (late : Bool) (s : State) :
    Stays [.regs, .seen, .fabric, .queues, .returned, .boat] s (qAdmit q port ws marked late s) := by
  unfold qAdmit
  split
  · rename_i q1 e1
    split
    · rename_i x1 code1 e
      refine .app ?_ (xactRefuse_stays ..) (by decide)
      exact .refl ..
    · rename_i x1 e
      refine .app ?_ (xactTakeCredit_stays ..) (by decide)
      refine .app ?_ (qPut_stays ..) (by decide)
      exact .refl ..
  · rename_i q1 e
    refine .app ?_ (qPut_stays ..) (by decide)
    exact .refl ..

theorem qDropItem_stays (q : QueueId) (it : QItem) (s : State) :
    Stays [.boat] s (qDropItem q it s) := by
  unfold qDropItem
  split
  · rename_i q1 e1
    refine .ite ?_ ?_
    · exact .refl ..
    · refine .app ?_ (xactReturn_stays ..) (by decide)
      exact .refl ..
  · rename_i q1 e
    exact .refl ..

theorem endPacket_stays (q : QueueId) (port : Nat) (ws : List Word) (s : State) :
    Stays [.ended] s (endPacket q port ws s) := by
  unfold endPacket
  refine .app ?_ (.set_ended _ _) (by decide)
  exact .refl ..

theorem setPort_stays (q : QueueId) (port : Nat) (y : QPort) (s : State) :
    Stays [.queues] s (setPort q port y s) := by
  unfold setPort
  refine .app ?_ (modHq_stays ..) (by decide)
  exact .refl ..

theorem portPush_stays (q : QueueId) (port : Nat) (ws : List Word) (marked : Bool) (late : Bool) (s : State) :
    Stays [.regs, .seen, .fabric, .queues, .ended, .returned, .boat] s (portPush q port ws marked late s).1 := by
  unfold portPush
  split
  · rename_i x1 e
    refine .pairFst ?_
    refine .app ?_ (modHq_stays ..) (by decide)
    refine .app ?_ (qAdmit_stays ..) (by decide)
    refine .app ?_ (setPort_stays ..) (by decide)
    exact .refl ..
  · rename_i x1 e
    refine .pairFst ?_
    refine .app ?_ (endPacket_stays ..) (by decide)
    refine .app ?_ (setPort_stays ..) (by decide)
    exact .refl ..
  · rename_i x1 e e1
    refine .pairFst ?_
    refine .app ?_ (setPort_stays ..) (by decide)
    exact .refl ..

theorem portRetry_stays (q : QueueId) (port : Nat) (s : State) :
    Stays [.regs, .seen, .fabric, .queues, .ended, .returned, .boat] s (portRetry q port s) := by
  unfold portRetry
  extract_lets -underBinder -merge -useContext +onlyGivenNames p
  refine .ite ?_ ?_
  · refine .app ?_ (portPush_stays ..) (by decide)
    exact .refl ..
  · exact .refl ..

theorem againPush_stays (q : QueueId) (s : State) (e : Nat × List Word × Bool) :
    Stays [.regs, .seen, .fabric, .queues, .ended, .returned, .boat] s (againPush q s e) := by
  unfold againPush
  refine .ite ?_ ?_
  · refine .app ?_ (qPut_stays ..) (by decide)
    exact .refl ..
  · refine .ite ?_ ?_
    · refine .app ?_ (portPush_stays ..) (by decide)
      exact .refl ..
    · refine .app ?_ (modHq_stays ..) (by decide)
      exact .refl ..

theorem portsRetry_stays (q : QueueId) (s : State) :
    Stays [.regs, .seen, .fabric, .queues, .ended, .returned, .boat] s (portsRetry q s) := by
  unfold portsRetry
  extract_lets -underBinder -merge -useContext +onlyGivenNames s1
  have h_s1 : Stays [.regs, .seen, .fabric, .queues, .ended, .returned, .boat] s s1 := by
    dsimp -zeta only [s1]
    refine .foldl _ _ (fun u x hu => ?_) ?_
    · refine .app ?_ (portRetry_stays ..) (by decide)
      exact hu
    · exact .refl ..
  clear_value s1
  refine .ite ?_ ?_
  · exact h_s1
  · refine .foldl _ _ (fun u x hu => ?_) ?_
    · refine .app ?_ (againPush_stays ..) (by decide)
      exact hu
    · refine .app ?_ (modHq_stays ..) (by decide)
      exact h_s1

theorem qPush_stays (q : QueueId) (port : Nat) (ws : List Word) (s : State) :
    ∀ r, (qPush q port ws s) = some r → Stays [.regs, .seen, .fabric, .queues, .ended, .returned, .boat] s r.1 := by
  intro r hr
  unfold qPush at hr
  extract_lets -underBinder -merge -useContext +onlyGivenNames s1 at hr
  have h_s1 : Stays [.regs, .seen, .fabric, .queues, .ended, .returned, .boat] s s1 := by
    dsimp -zeta only [s1]
    refine .app ?_ (portRetry_stays ..) (by decide)
    exact .refl ..
  clear_value s1
  split at hr
  · rename_i e
    cases hr
  · rename_i e
    cases hr
    refine .app ?_ (portPush_stays ..) (by decide)
    exact h_s1

theorem qNowEmpty_stays (q : QueueId) (evMismatch : Nat) (s : State) :
    Stays [.regs, .seen, .fabric, .queues] s (qNowEmpty q evMismatch s) := by
  unfold qNowEmpty
  extract_lets -underBinder -merge -useContext +onlyGivenNames x
  refine .ite ?_ ?_
  · refine .app ?_ (transient_stays ..) (by decide)
    refine .app ?_ (setHq_stays ..) (by decide)
    exact .refl ..
  · exact .refl ..

theorem qTake_stays (q : QueueId) (s : State) :
    ∀ r, (qTake q s) = some r → Stays [.regs, .seen, .fabric, .queues] s r.2 := by
  intro r hr
  unfold qTake at hr
  extract_lets -underBinder -merge -useContext +onlyGivenNames x at hr
  split at hr
  · rename_i x1 e
    cases hr
  · rename_i x1 y1 e
    cases hr
    refine .pair ?_
    refine .app ?_ (qNowEmpty_stays ..) (by decide)
    refine .app ?_ (setHq_stays ..) (by decide)
    exact .refl ..

theorem qGood_stays (q : QueueId) (it : QItem) (s : State) :
    Stays [.queues] s (qGood q it s) := by
  unfold qGood
  refine .app ?_ (modHq_stays ..) (by decide)
  exact .refl ..

theorem qNextItem_stays (q : QueueId) (s : State) :
    ∀ r, (qNextItem q s) = some r → Stays [.regs, .seen, .fabric, .queues] s r.2 := by
  intro r hr
  unfold qNextItem at hr
  split at hr
  · rename_i x1 it1 e
    cases hr
    refine .pair ?_
    refine .app ?_ (modHq_stays ..) (by decide)
    exact .refl ..
  · rename_i x1 e
    obtain ⟨y, hy, rfl⟩ := Option.map_eq_some_iff.1 hr
    refine .pair ?_
    refine .app ?_ (qGood_stays ..) (by decide)
    refine .app ?_ (qTake_stays _ _ _ hy) (by decide)
    exact .refl ..

theorem skipDone_stays (q : QueueId) (a : Nat) (a1 : State) :
    Stays [.regs, .seen, .fabric, .queues] a1 (skipDone q a a1) := by
  induction a generalizing q a1 with
  | zero =>
    unfold skipDone
    exact .refl ..
  | succ n ih =>
    unfold skipDone
    split
    · rename_i x1 it1 t1 e
      refine .ite ?_ ?_
      · refine .app ?_ (ih ..) (by decide)
        refine .app ?_ (qNextItem_stays _ _ _ e) (by decide)
        exact .refl ..
      · exact .refl ..
    · rename_i x1 e
      exact .refl ..

theorem qNext_stays (q : QueueId) (s : State) :
    ∀ r, (qNext q s) = some r → Stays [.regs, .seen, .fabric, .queues, .ended, .returned, .boat] s r.2 := by
  intro r hr
  unfold qNext at hr
  obtain ⟨y, hy, rfl⟩ := Option.map_eq_some_iff.1 hr
  refine .pair ?_
  refine .app ?_ (portsRetry_stays ..) (by decide)
  refine .app ?_ (qNextItem_stays _ _ _ hy) (by decide)
  refine .app ?_ (skipDone_stays ..) (by decide)
  exact .refl ..

theorem portWrite_stays (q : QueueId) (port : Nat) (words : List Word) (s : State) :
    Stays [.regs, .seen, .fabric, .queues, .ended, .returned, .boat] s (portWrite q port words s).1 := by
  unfold portWrite
  extract_lets -underBinder -merge -useContext +onlyGivenNames p ws
  split
  · rename_i e
    refine .pairFst ?_
    exact .refl ..
  · rename_i e
    split
    · rename_i e1
      refine .pairFst ?_
      refine .app ?_ (setPort_stays ..) (by decide)
      exact .refl ..
    · rename_i e1
      refine .app ?_ (portPush_stays ..) (by decide)
      exact .refl ..

theorem dropPartial_stays (port : Nat) (q : QueueId) (s : State) :
    Stays [.queues] s (dropPartial port q s) := by
  unfold dropPartial
  extract_lets -underBinder -merge -useContext +onlyGivenNames x
  refine .ite ?_ ?_
  · refine .app ?_ (setHq_stays ..) (by decide)
    exact .refl ..
  · exact .refl ..

theorem dropPartials_stays (codes : List Nat) (s : State) :
    Stays [.queues] s (dropPartials codes s) := by
  unfold dropPartials
  refine .foldl _ _ (fun u x hu => ?_) ?_
  · refine .foldl _ _ (fun u1 x1 hu1 => ?_) ?_
    · refine .app ?_ (dropPartial_stays ..) (by decide)
      exact hu1
    · exact hu
  · exact .refl ..

theorem clearQueue_stays (q : QueueId) (s : State) :
    Stays [.regs, .seen, .fabric, .queues] s (clearQueue q s) := by
  unfold clearQueue
  refine .app ?_ (qNowEmpty_stays ..) (by decide)
  refine .app ?_ (modHq_stays ..) (by decide)
  exact .refl ..

theorem resetQueue_stays (q : QueueId) (s : State) :
    Stays [.queues] s (resetQueue q s) := by
  unfold resetQueue
  refine .app ?_ (setHq_stays ..) (by decide)
  exact .refl ..

end Sys2Proof.Machine
end

