-- ==== Sys2Proof/Laws/StaysSweepOps.lean ====
section
/-! SUPPORT. What the operations and meanings of Machine/SweepOps do at most. -/

set_option linter.all false
set_option maxRecDepth 4000

namespace Sys2Proof.Machine

theorem modSweep_stays (f : Sweep → Sweep) (s : State) :
    Stays [.sweep] s (modSweep f s) := by
  unfold modSweep
  refine .app ?_ (.set_sweep _ _) (by decide)
  exact .refl ..

theorem setDec_stays (n : Nat) (x : Option DecSlot) (s : State) :
    Stays [.sweep] s (setDec n x s) := by
  unfold setDec
  refine .app ?_ (modSweep_stays ..) (by decide)
  exact .refl ..

theorem modDec_stays (n : Nat) (f : DecSlot → DecSlot) (s : State) :
    Stays [.sweep] s (modDec n f s) := by
  unfold modDec
  split
  · rename_i x1 x2 e
    refine .app ?_ (setDec_stays ..) (by decide)
    exact .refl ..
  · rename_i x1 e
    exact .refl ..

theorem setLane_stays (l : Nat) (x : Option Lane) (s : State) :
    Stays [.sweep] s (setLane l x s) := by
  unfold setLane
  refine .app ?_ (modSweep_stays ..) (by decide)
  exact .refl ..

theorem freeDec_stays (n : Nat) (s : State) :
    Stays [.oars, .sweep] s (freeDec n s) := by
  unfold freeDec
  split
  · rename_i x1 e
    exact .refl ..
  · rename_i x1 x2 e
    extract_lets -underBinder -merge -useContext +onlyGivenNames s1 s2
    have h_s1 : Stays [.oars, .sweep] s s1 := by
      dsimp -zeta only [s1]
      refine .app ?_ (modEntry_stays ..) (by decide)
      refine .app ?_ (setDec_stays ..) (by decide)
      exact .refl ..
    clear_value s1
    have h_s2 : Stays [.oars, .sweep] s s2 := by
      dsimp -zeta only [s2]
      refine .app ?_ (modOar_stays ..) (by decide)
      exact h_s1
    clear_value s2
    refine .app ?_ (modSweep_stays ..) (by decide)
    exact h_s2

theorem flushPackets_stays (o : Nat) (a : List (List Word)) (a1 : State) :
    Stays [.regs, .seen, .fabric, .queues, .ended, .oars, .returned, .boat] a1 (flushPackets o a a1) := by
  induction a generalizing o a1 with
  | nil =>
    unfold flushPackets
    refine .app ?_ (modOar_stays ..) (by decide)
    exact .refl ..
  | cons x l ih =>
    unfold flushPackets
    split
    · rename_i x1 t1 e
      refine .app ?_ (ih ..) (by decide)
      refine .app ?_ (modOar_stays ..) (by decide)
      refine .app ?_ (qPush_stays _ _ _ _ _ e) (by decide)
      exact .refl ..
    · rename_i x1 t1 snd1 e e1
      refine .app ?_ (ih ..) (by decide)
      refine .app ?_ (qPush_stays _ _ _ _ _ e1) (by decide)
      exact .refl ..
    · rename_i x1 e
      refine .app ?_ (modOar_stays ..) (by decide)
      exact .refl ..

theorem flushOar_stays (o : Nat) (s : State) :
    Stays [.regs, .seen, .fabric, .queues, .ended, .oars, .returned, .boat] s (flushOar o s) := by
  unfold flushOar
  refine .app ?_ (flushPackets_stays ..) (by decide)
  exact .refl ..

theorem pushDone_stays (o : Nat) (ws : List Word) (s : State) :
    Stays [.regs, .seen, .fabric, .queues, .ended, .oars, .returned, .boat] s (pushDone o ws s) := by
  unfold pushDone
  refine .app ?_ (flushOar_stays ..) (by decide)
  refine .app ?_ (modOar_stays ..) (by decide)
  exact .refl ..

theorem dropRung2_stays (o : Nat) (e : Nat) (s : State) :
    Stays [.sweep] s (dropRung2 o e s) := by
  unfold dropRung2
  refine .app ?_ (modSweep_stays ..) (by decide)
  exact .refl ..

theorem closeEntry_stays (o : Nat) (e : Nat) (cause : Nat) (s : State) :
    Stays [.regs, .seen, .fabric, .queues, .ended, .stopped, .oars, .sweep, .returned, .boat] s (closeEntry o e cause s) := by
  unfold closeEntry
  split
  · rename_i x1 e1
    exact .refl ..
  · rename_i x1 x2 e1
    extract_lets -underBinder -merge -useContext +onlyGivenNames s1
    have h_s1 : Stays [.regs, .seen, .fabric, .queues, .ended, .stopped, .oars, .sweep, .returned, .boat] s s1 := by
      dsimp -zeta only [s1]
      refine .app ?_ (endEntry_stays ..) (by decide)
      refine .app ?_ (dropRung2_stays ..) (by decide)
      exact .refl ..
    clear_value s1
    refine .ite ?_ ?_
    · exact h_s1
    · refine .app ?_ (setEntry_stays ..) (by decide)
      refine .app ?_ (pushDone_stays ..) (by decide)
      exact h_s1

theorem raiseUnreadable_stays (code : Nat) (x : DecSlot) (s : State) :
    Stays [.regs, .seen, .fabric, .stopped] s (raiseUnreadable code x s) := by
  unfold raiseUnreadable
  refine .app ?_ (lasting_stays ..) (by decide)
  refine .app ?_ (State.count_stays ..) (by decide)
  exact .refl ..

theorem unreadable_stays (n : Nat) (code : Nat) (s : State) :
    Stays [.regs, .seen, .fabric, .queues, .ended, .stopped, .oars, .sweep, .returned, .boat] s (unreadable n code s) := by
  unfold unreadable
  split
  · rename_i x1 e
    exact .refl ..
  · rename_i x1 x2 e
    extract_lets -underBinder -merge -useContext +onlyGivenNames cause
    refine .app ?_ (closeEntry_stays ..) (by decide)
    refine .app ?_ (freeDec_stays ..) (by decide)
    refine .app ?_ (raiseUnreadable_stays ..) (by decide)
    exact .refl ..

theorem endSector_stays (o : Nat) (e : Nat) (cause : Nat) (s : State) :
    Stays [.regs, .seen, .fabric, .queues, .ended, .stopped, .oars, .sweep, .returned, .boat] s (endSector o e cause s) := by
  unfold endSector
  extract_lets -underBinder -merge -useContext +onlyGivenNames s1
  have h_s1 : Stays [.regs, .seen, .fabric, .queues, .ended, .stopped, .oars, .sweep, .returned, .boat] s s1 := by
    dsimp -zeta only [s1]
    split
    · rename_i x1 e1
      exact .refl ..
    · rename_i x1 n1 e1
      split
      · rename_i x2 x3 e2
        refine .app ?_ (freeDec_stays ..) (by decide)
        refine .ite ?_ ?_
        · refine .app ?_ (raiseUnreadable_stays ..) (by decide)
          exact .refl ..
        · exact .refl ..
      · rename_i x2 e2
        exact .refl ..
  clear_value s1
  refine .app ?_ (closeEntry_stays ..) (by decide)
  exact h_s1

theorem rungAfter_stays (n : Nat) (r : Nat) (s : State) :
    Stays [.regs, .seen, .fabric, .queues, .ended, .stopped, .oars, .sweep, .returned, .boat] s (rungAfter n r s) := by
  unfold rungAfter
  refine .ite ?_ ?_
  · refine .app ?_ (unreadable_stays ..) (by decide)
    exact .refl ..
  · split
    · rename_i x1 e
      refine .app ?_ (unreadable_stays ..) (by decide)
      exact .refl ..
    · rename_i x1 n1 e
      refine .app ?_ (modDec_stays ..) (by decide)
      exact .refl ..

theorem readFailed_stays (n : Nat) (fold : Bool) (s : State) :
    Stays [.regs, .seen, .fabric, .queues, .ended, .stopped, .oars, .sweep, .returned, .boat] s (readFailed n fold s) := by
  unfold readFailed
  split
  · rename_i x1 e
    exact .refl ..
  · rename_i x1 x2 e
    extract_lets -underBinder -merge -useContext +onlyGivenNames s1 s2
    have h_s1 : Stays [.regs, .seen, .fabric, .queues, .ended, .stopped, .oars, .sweep, .returned, .boat] s s1 := by
      dsimp -zeta only [s1]
      refine .app ?_ (modDec_stays ..) (by decide)
      exact .refl ..
    clear_value s1
    have h_s2 : Stays [.regs, .seen, .fabric, .queues, .ended, .stopped, .oars, .sweep, .returned, .boat] s s2 := by
      dsimp -zeta only [s2]
      refine .app ?_ (modDec_stays ..) (by decide)
      exact h_s1
    clear_value s2
    refine .ite ?_ ?_
    · refine .app ?_ (rungAfter_stays ..) (by decide)
      exact h_s1
    · refine .ite ?_ ?_
      · refine .ite ?_ ?_
        · refine .app ?_ (rungAfter_stays ..) (by decide)
          exact h_s1
        · refine .ite ?_ ?_
          · refine .app ?_ (unreadable_stays ..) (by decide)
            exact h_s1
          · refine .app ?_ (modDec_stays ..) (by decide)
            exact h_s1
      · refine .ite ?_ ?_
        · refine .app ?_ (rungAfter_stays ..) (by decide)
          exact h_s2
        · refine .ite ?_ ?_
          · refine .app ?_ (unreadable_stays ..) (by decide)
            exact h_s2
          · exact h_s2

theorem enterLadder_stays (n : Nat) (rung : Nat) (fold : Bool) (s : State) :
    Stays [.regs, .seen, .fabric, .queues, .ended, .stopped, .oars, .sweep, .returned, .boat] s (enterLadder n rung fold s) := by
  unfold enterLadder
  split
  · rename_i x1 e
    exact .refl ..
  · rename_i x1 x2 e
    extract_lets -underBinder -merge -useContext +onlyGivenNames s1 again s2 s3
    have h_s1 : Stays [.regs, .seen, .fabric, .queues, .ended, .stopped, .oars, .sweep, .returned, .boat] s s1 := by
      dsimp -zeta only [s1]
      refine .app ?_ (State.count_stays ..) (by decide)
      exact .refl ..
    clear_value s1
    have h_s2 : Stays [.regs, .seen, .fabric, .queues, .ended, .stopped, .oars, .sweep, .returned, .boat] s s2 := by
      dsimp -zeta only [s2]
      refine .app ?_ (dropRung2_stays ..) (by decide)
      refine .app ?_ (modEntry_stays ..) (by decide)
      exact h_s1
    clear_value s2
    have h_s3 : Stays [.regs, .seen, .fabric, .queues, .ended, .stopped, .oars, .sweep, .returned, .boat] s s3 := by
      dsimp -zeta only [s3]
      refine .app ?_ (modDec_stays ..) (by decide)
      exact h_s2
    clear_value s3
    refine .ite ?_ ?_
    · refine .app ?_ (modSweep_stays ..) (by decide)
      refine .app ?_ (modEntry_stays ..) (by decide)
      refine .app ?_ (freeDec_stays ..) (by decide)
      exact h_s1
    · refine .ite ?_ ?_
      · exact h_s3
      · refine .app ?_ (readFailed_stays ..) (by decide)
        exact h_s3

theorem idMismatch_stays (o : Nat) (p : List Byte) (s : State) :
    Stays [.regs, .seen, .fabric] s (idMismatch o p s) := by
  unfold idMismatch
  refine .app ?_ (raise_stays ..) (by decide)
  refine .app ?_ (State.count_stays ..) (by decide)
  exact .refl ..

theorem takePayload_stays (o : Nat) (e : Nat) (p : List Byte) (s : State) :
    Stays [.regs, .seen, .fabric, .queues, .ended, .stopped, .oars, .sweep, .gates, .returned, .consumed, .boat, .cryptos] s (takePayload o e p s) := by
  unfold takePayload
  split
  · rename_i x1 e1
    exact .refl ..
  · rename_i x1 x2 e1
    extract_lets -underBinder -merge -useContext +onlyGivenNames s1 s2
    have h_s1 : Stays [.regs, .seen, .fabric, .queues, .ended, .stopped, .oars, .sweep, .gates, .returned, .consumed, .boat, .cryptos] s s1 := by
      dsimp -zeta only [s1]
      refine .app ?_ (State.count_stays ..) (by decide)
      exact .refl ..
    clear_value s1
    have h_s2 : Stays [.regs, .seen, .fabric, .queues, .ended, .stopped, .oars, .sweep, .gates, .returned, .consumed, .boat, .cryptos] s s2 := by
      dsimp -zeta only [s2]
      refine .ite ?_ ?_
      · refine .app ?_ (.set_consumed _ _) (by decide)
        exact h_s1
      · exact h_s1
    clear_value s2
    refine .ite ?_ ?_
    · refine .app ?_ (closeEntry_stays ..) (by decide)
      refine .ite ?_ ?_
      · exact h_s2
      · refine .app ?_ (markPoisoned_stays ..) (by decide)
        exact h_s2
    · refine .ite ?_ ?_
      · split
        · rename_i x3 e2
          refine .app ?_ (closeEntry_stays ..) (by decide)
          refine .app ?_ (keyEnded_stays ..) (by decide)
          exact h_s2
        · rename_i x3 k1 e2
          extract_lets -underBinder -merge -useContext +onlyGivenNames r
          have h_r : Stays [.regs, .seen, .fabric, .queues, .ended, .stopped, .oars, .sweep, .gates, .returned, .consumed, .boat, .cryptos] s r.2 := by
            dsimp -zeta only [r]
            refine .app ?_ (xtsPass_stays ..) (by decide)
            exact h_s2
          clear_value r
          refine .app ?_ (modEntry_stays ..) (by decide)
          exact h_r
      · refine .app ?_ (modEntry_stays ..) (by decide)
        exact h_s2

theorem journalRewritten_stays (o : Nat) (x : JobEntry) (s : State) :
    Stays [.regs, .seen, .fabric] s (journalRewritten o x s) := by
  unfold journalRewritten
  refine .ite ?_ ?_
  · refine .app ?_ (transient_stays ..) (by decide)
    exact .refl ..
  · exact .refl ..

theorem verifyEnd_stays (o : Nat) (e : Nat) (ok : Bool) (s : State) :
    Stays [.regs, .seen, .fabric, .queues, .ended, .stopped, .oars, .sweep, .returned, .boat] s (verifyEnd o e ok s) := by
  unfold verifyEnd
  split
  · rename_i x1 e1
    exact .refl ..
  · rename_i x1 x2 e1
    extract_lets -underBinder -merge -useContext +onlyGivenNames pl s1 s2
    have h_s1 : Stays [.regs, .seen, .fabric, .queues, .ended, .stopped, .oars, .sweep, .returned, .boat] s s1 := by
      dsimp -zeta only [s1]
      refine .app ?_ (State.count_stays ..) (by decide)
      exact .refl ..
    clear_value s1
    have h_s2 : Stays [.regs, .seen, .fabric, .queues, .ended, .stopped, .oars, .sweep, .returned, .boat] s s2 := by
      dsimp -zeta only [s2]
      refine .app ?_ (State.count_stays ..) (by decide)
      exact h_s1
    clear_value s2
    refine .ite ?_ ?_
    · refine .app ?_ (closeEntry_stays ..) (by decide)
      refine .ite ?_ ?_
      · exact h_s1
      · refine .app ?_ (journalRewritten_stays ..) (by decide)
        refine .app ?_ (transient_stays ..) (by decide)
        exact h_s1
    · refine .ite ?_ ?_
      · refine .app ?_ (modEntry_stays ..) (by decide)
        exact h_s2
      · refine .app ?_ (closeEntry_stays ..) (by decide)
        refine .app ?_ (lasting_stays ..) (by decide)
        exact h_s2

theorem ladderSuccess_stays (n : Nat) (x : DecSlot) (p : List Byte) (s : State) :
    Stays [.regs, .seen, .fabric, .queues, .ended, .stopped, .oars, .sweep, .gates, .returned, .consumed, .boat, .cryptos] s (ladderSuccess n x p s) := by
  unfold ladderSuccess
  extract_lets -underBinder -merge -useContext +onlyGivenNames s1
  have h_s1 : Stays [.regs, .seen, .fabric, .queues, .ended, .stopped, .oars, .sweep, .gates, .returned, .consumed, .boat, .cryptos] s s1 := by
    dsimp -zeta only [s1]
    refine .app ?_ (transient_stays ..) (by decide)
    refine .app ?_ (State.count_stays ..) (by decide)
    exact .refl ..
  clear_value s1
  refine .app ?_ (takePayload_stays ..) (by decide)
  refine .app ?_ (freeDec_stays ..) (by decide)
  exact h_s1

theorem actOnPass_stays (n : Nat) (out : PassEnd) (s : State) :
    Stays [.regs, .seen, .fabric, .queues, .ended, .stopped, .oars, .sweep, .gates, .returned, .consumed, .boat, .cryptos] s (actOnPass n out s) := by
  unfold actOnPass
  split
  · rename_i x1 e
    exact .refl ..
  · rename_i x1 x2 e
    extract_lets -underBinder -merge -useContext +onlyGivenNames idOk s_1
    have h_s_1 : Stays [.regs, .seen, .fabric, .queues, .ended, .stopped, .oars, .sweep, .gates, .returned, .consumed, .boat, .cryptos] s s_1 := by
      dsimp -zeta only [s_1]
      split
      · rename_i out1
        refine .app ?_ (raise_stays ..) (by decide)
        refine .app ?_ (State.count_stays ..) (by decide)
        exact .refl ..
      · rename_i out1 e1
        exact .refl ..
    clear_value s_1
    refine .ite ?_ ?_
    · refine .app ?_ (State.count_stays ..) (by decide)
      refine .app ?_ (modEntry_stays ..) (by decide)
      refine .app ?_ (freeDec_stays ..) (by decide)
      exact h_s_1
    · refine .ite ?_ ?_
      · split
        · rename_i out1 p1
          extract_lets -underBinder -merge -useContext +onlyGivenNames same
          refine .app ?_ (verifyEnd_stays ..) (by decide)
          refine .ite ?_ ?_
          · refine .app ?_ (freeDec_stays ..) (by decide)
            exact h_s_1
          · refine .app ?_ (idMismatch_stays ..) (by decide)
            refine .app ?_ (freeDec_stays ..) (by decide)
            exact h_s_1
        · rename_i out1 e1
          refine .app ?_ (verifyEnd_stays ..) (by decide)
          refine .app ?_ (freeDec_stays ..) (by decide)
          exact h_s_1
      · refine .ite ?_ ?_
        · split
          · rename_i out1 p1
            refine .ite ?_ ?_
            · refine .app ?_ (takePayload_stays ..) (by decide)
              refine .app ?_ (freeDec_stays ..) (by decide)
              exact h_s_1
            · refine .app ?_ (enterLadder_stays ..) (by decide)
              refine .app ?_ (idMismatch_stays ..) (by decide)
              exact h_s_1
          · rename_i out1
            refine .app ?_ (enterLadder_stays ..) (by decide)
            exact h_s_1
          · rename_i out1
            refine .app ?_ (enterLadder_stays ..) (by decide)
            exact h_s_1
        · split
          · rename_i out1 p1
            refine .ite ?_ ?_
            · refine .app ?_ (ladderSuccess_stays ..) (by decide)
              exact h_s_1
            · refine .app ?_ (readFailed_stays ..) (by decide)
              refine .app ?_ (idMismatch_stays ..) (by decide)
              exact h_s_1
          · rename_i out1
            refine .app ?_ (readFailed_stays ..) (by decide)
            exact h_s_1
          · rename_i out1
            refine .ite ?_ ?_
            · refine .ite ?_ ?_
              · refine .app ?_ (unreadable_stays ..) (by decide)
                exact h_s_1
              · refine .app ?_ (modDec_stays ..) (by decide)
                exact h_s_1
            · refine .app ?_ (readFailed_stays ..) (by decide)
              exact h_s_1

end Sys2Proof.Machine
end

