-- ==== Sys2Proof/Laws/StaysPassageOps.lean ====
section
/-! SUPPORT. What the operations and meanings of Machine/PassageOps do at most. -/

set_option linter.all false
set_option maxRecDepth 4000

namespace Sys2Proof.Machine

theorem slotSlip_stays (o : Nat) (x : JobEntry) (s : State) :
    Stays [.regs, .seen, .fabric, .oars] s (slotSlip o x s) := by
  unfold slotSlip
  extract_lets -underBinder -merge -useContext +onlyGivenNames s1 s2
  have h_s1 : Stays [.regs, .seen, .fabric, .oars] s s1 := by
    dsimp -zeta only [s1]
    refine .app ?_ (State.count_stays ..) (by decide)
    exact .refl ..
  clear_value s1
  have h_s2 : Stays [.regs, .seen, .fabric, .oars] s s2 := by
    dsimp -zeta only [s2]
    refine .ite ?_ ?_
    · refine .app ?_ (raise_stays ..) (by decide)
      exact h_s1
    · exact h_s1
  clear_value s2
  refine .app ?_ (modOar_stays ..) (by decide)
  exact h_s2

theorem stageLate_stays (o : Nat) (s : State) :
    Stays [.regs, .seen, .fabric, .oars] s (stageLate o s) := by
  unfold stageLate
  extract_lets -underBinder -merge -useContext +onlyGivenNames s1 s2
  have h_s1 : Stays [.regs, .seen, .fabric, .oars] s s1 := by
    dsimp -zeta only [s1]
    refine .app ?_ (State.count_stays ..) (by decide)
    exact .refl ..
  clear_value s1
  have h_s2 : Stays [.regs, .seen, .fabric, .oars] s s2 := by
    dsimp -zeta only [s2]
    refine .ite ?_ ?_
    · refine .app ?_ (raise_stays ..) (by decide)
      exact h_s1
    · exact h_s1
  clear_value s2
  refine .app ?_ (modOar_stays ..) (by decide)
  exact h_s2

theorem applyZone_stays (o : Nat) (x : JobEntry) (s : State) :
    Stays [.regs, .oars] s (applyZone o x s) := by
  unfold applyZone
  extract_lets -underBinder -merge -useContext +onlyGivenNames z g
  refine .ite ?_ ?_
  · exact .refl ..
  · refine .app ?_ (setRate_stays ..) (by decide)
    refine .app ?_ (State.setFld_stays ..) (by decide)
    refine .app ?_ (modOar_stays ..) (by decide)
    exact .refl ..

theorem keepTaps_stays (o : Nat) (h : Nat) (q : Equaliser) (s : State) :
    Stays [.oars] s (keepTaps o h q s) := by
  unfold keepTaps
  refine .app ?_ (modOar_stays ..) (by decide)
  exact .refl ..

theorem keepRaw_stays (o : Nat) (e : Nat) (fs : List RawSample) (s : State) :
    Stays [.oars] s (keepRaw o e fs s) := by
  unfold keepRaw
  refine .app ?_ (modOar_stays ..) (by decide)
  exact .refl ..

theorem frontEnd_stays (o : Nat) (x : JobEntry) (p : ReadPass) (found : Bool) (s : State) :
    Stays [.regs, .seen, .fabric, .oars] s (frontEnd o x p found s) := by
  unfold frontEnd
  extract_lets -underBinder -merge -useContext +onlyGivenNames g s1 s2
  have h_s1 : Stays [.regs, .seen, .fabric, .oars] s s1 := by
    dsimp -zeta only [s1]
    refine .app ?_ (State.setBit_stays ..) (by decide)
    refine .app ?_ (State.setReg_stays ..) (by decide)
    refine .app ?_ (modOar_stays ..) (by decide)
    exact .refl ..
  clear_value s1
  have h_s2 : Stays [.regs, .seen, .fabric, .oars] s s2 := by
    dsimp -zeta only [s2]
    refine .foldl _ _ (fun u x1 hu => ?_) ?_
    · refine .app ?_ (raise_stays ..) (by decide)
      refine .app ?_ (State.count_stays ..) (by decide)
      exact hu
    · exact h_s1
  clear_value s2
  refine .ite ?_ ?_
  · refine .app ?_ (raise_stays ..) (by decide)
    exact h_s2
  · exact h_s2

theorem offsetSlot_stays (o : Nat) (d : Int) (s : State) :
    Stays [.rudders, .oars] s (offsetSlot o d s) := by
  unfold offsetSlot
  refine .app ?_ (modOar_stays ..) (by decide)
  refine .app ?_ (modSlot_stays ..) (by decide)
  exact .refl ..

theorem offsetBack_stays (o : Nat) (s : State) :
    Stays [.rudders, .oars] s (offsetBack o s) := by
  unfold offsetBack
  refine .ite ?_ ?_
  · exact .refl ..
  · refine .app ?_ (offsetSlot_stays ..) (by decide)
    exact .refl ..

theorem fillSlot_stays (o : Nat) (e : Nat) (n : Nat) (x : JobEntry) (p : ReadPass) (s : State) :
    Stays [.regs, .seen, .fabric, .oars, .sweep] s (fillSlot o e n x p s) := by
  unfold fillSlot
  extract_lets -underBinder -merge -useContext +onlyGivenNames found raws s1 r s2 s3
  have h_s1 : Stays [.regs, .seen, .fabric, .oars, .sweep] s s1 := by
    dsimp -zeta only [s1]
    refine .app ?_ (frontEnd_stays ..) (by decide)
    refine .app ?_ (applyZone_stays ..) (by decide)
    refine .ite ?_ ?_
    · exact .refl ..
    · refine .app ?_ (State.count_stays ..) (by decide)
      exact .refl ..
  clear_value s1
  have h_s2 : Stays [.regs, .seen, .fabric, .oars, .sweep] s s2 := by
    dsimp -zeta only [s2]
    refine .app ?_ (modDec_stays ..) (by decide)
    refine .app ?_ (keepRaw_stays ..) (by decide)
    refine .ite ?_ ?_
    · refine .app ?_ (keepTaps_stays ..) (by decide)
      exact h_s1
    · exact h_s1
  clear_value s2
  have h_s3 : Stays [.regs, .seen, .fabric, .oars, .sweep] s s3 := by
    dsimp -zeta only [s3]
    refine .app ?_ (modOar_stays ..) (by decide)
    exact h_s2
  clear_value s3
  refine .app ?_ (modEntry_stays ..) (by decide)
  refine .app ?_ (State.mark_stays ..) (by decide)
  exact h_s3

theorem startRead_stays (o : Nat) (e : Nat) (kind : Nat) (x : JobEntry) (p : ReadPass) (s : State) :
    Stays [.regs, .seen, .fabric, .oars, .sweep] s (startRead o e kind x p s) := by
  unfold startRead
  split
  · rename_i x1 e1
    refine .app ?_ (slotSlip_stays ..) (by decide)
    exact .refl ..
  · rename_i x1 n1 e1
    extract_lets -underBinder -merge -useContext +onlyGivenNames ladder d s1
    have h_s1 : Stays [.regs, .seen, .fabric, .oars, .sweep] s s1 := by
      dsimp -zeta only [s1]
      refine .ite ?_ ?_
      · refine .app ?_ (dropRung2_stays ..) (by decide)
        refine .app ?_ (setDec_stays ..) (by decide)
        exact .refl ..
      · refine .app ?_ (setDec_stays ..) (by decide)
        exact .refl ..
    clear_value s1
    refine .app ?_ (fillSlot_stays ..) (by decide)
    refine .app ?_ (modEntry_stays ..) (by decide)
    exact h_s1

theorem startLadderRead_stays (o : Nat) (e : Nat) (n : Nat) (x : JobEntry) (d : DecSlot) (p : ReadPass) (s : State) :
    Stays [.regs, .seen, .fabric, .queues, .ended, .stopped, .rudders, .oars, .sweep, .returned, .boat] s (startLadderRead o e n x d p s) := by
  unfold startLadderRead
  extract_lets -underBinder -merge -useContext +onlyGivenNames off s1 s2 s3
  have h_s1 : Stays [.regs, .seen, .fabric, .queues, .ended, .stopped, .rudders, .oars, .sweep, .returned, .boat] s s1 := by
    dsimp -zeta only [s1]
    refine .app ?_ (modEntry_stays ..) (by decide)
    exact .refl ..
  clear_value s1
  have h_s2 : Stays [.regs, .seen, .fabric, .queues, .ended, .stopped, .rudders, .oars, .sweep, .returned, .boat] s s2 := by
    dsimp -zeta only [s2]
    refine .ite ?_ ?_
    · refine .app ?_ (offsetSlot_stays ..) (by decide)
      exact h_s1
    · exact h_s1
  clear_value s2
  have h_s3 : Stays [.regs, .seen, .fabric, .queues, .ended, .stopped, .rudders, .oars, .sweep, .returned, .boat] s s3 := by
    dsimp -zeta only [s3]
    refine .ite ?_ ?_
    · refine .app ?_ (modOar_stays ..) (by decide)
      exact h_s2
    · exact h_s2
  clear_value s3
  refine .ite ?_ ?_
  · refine .app ?_ (readFailed_stays ..) (by decide)
    exact h_s1
  · refine .app ?_ (fillSlot_stays ..) (by decide)
    exact h_s3

theorem endReadPassage_stays (o : Nat) (e : Nat) (s : State) :
    Stays [.regs, .seen, .fabric, .queues, .ended, .stopped, .rudders, .oars, .sweep, .returned, .boat] s (endReadPassage o e s) := by
  unfold endReadPassage
  extract_lets -underBinder -merge -useContext +onlyGivenNames s0x
  have h_s0x : Stays [.regs, .seen, .fabric, .queues, .ended, .stopped, .rudders, .oars, .sweep, .returned, .boat] s s0x := by
    dsimp -zeta only [s0x]
    refine .app ?_ (offsetBack_stays ..) (by decide)
    refine .app ?_ (modOar_stays ..) (by decide)
    exact .refl ..
  clear_value s0x
  split
  · rename_i x1 e1
    exact h_s0x
  · rename_i x1 n1 e1
    split
    · rename_i x2 e2
      exact h_s0x
    · rename_i x2 d1 e2
      extract_lets -underBinder -merge -useContext +onlyGivenNames arrived s2
      have h_arrived : Stays [.regs, .seen, .fabric, .queues, .ended, .stopped, .rudders, .oars, .sweep, .returned, .boat] s arrived := by
        dsimp -zeta only [arrived]
        refine .app ?_ (modDec_stays ..) (by decide)
        exact h_s0x
      clear_value arrived
      have h_s2 : Stays [.regs, .seen, .fabric, .queues, .ended, .stopped, .rudders, .oars, .sweep, .returned, .boat] s s2 := by
        dsimp -zeta only [s2]
        refine .app ?_ (modEntry_stays ..) (by decide)
        exact h_s0x
      clear_value s2
      refine .ite ?_ ?_
      · refine .ite ?_ ?_
        · refine .app ?_ (unreadable_stays ..) (by decide)
          exact h_s2
        · refine .ite ?_ ?_
          · refine .app ?_ (modDec_stays ..) (by decide)
            refine .app ?_ (modEntry_stays ..) (by decide)
            exact h_s2
          · refine .ite ?_ ?_
            · refine .ite ?_ ?_
              · refine .app ?_ (rungAfter_stays ..) (by decide)
                refine .app ?_ (modDec_stays ..) (by decide)
                exact h_s2
              · refine .app ?_ (readFailed_stays ..) (by decide)
                exact h_s2
            · refine .ite ?_ ?_
              · refine .app ?_ (modDec_stays ..) (by decide)
                exact h_s2
              · refine .app ?_ (modDec_stays ..) (by decide)
                exact h_s2
      · refine .ite ?_ ?_
        · refine .ite ?_ ?_
          · refine .app ?_ (freeDec_stays ..) (by decide)
            refine .app ?_ (modEntry_stays ..) (by decide)
            exact h_s0x
          · refine .ite ?_ ?_
            · refine .app ?_ (verifyEnd_stays ..) (by decide)
              refine .app ?_ (freeDec_stays ..) (by decide)
              exact h_s0x
            · exact h_arrived
        · refine .ite ?_ ?_
          · refine .ite ?_ ?_
            · refine .app ?_ (State.count_stays ..) (by decide)
              refine .app ?_ (modEntry_stays ..) (by decide)
              refine .app ?_ (freeDec_stays ..) (by decide)
              exact h_s0x
            · refine .app ?_ (modDec_stays ..) (by decide)
              exact h_arrived
          · refine .ite ?_ ?_
            · refine .app ?_ (enterLadder_stays ..) (by decide)
              exact h_s0x
            · exact h_arrived

theorem assemblePayload_stays (o : Nat) (x : JobEntry) (s : State) :
    Stays [.regs, .seen, .fabric, .stopped, .checks, .boat, .cryptos] s (assemblePayload o x s).2 := by
  unfold assemblePayload
  extract_lets -underBinder -merge -useContext +onlyGivenNames raw r bytes finish host md
  have h_r : Stays [.regs, .seen, .fabric, .stopped, .checks, .boat, .cryptos] s r.2.2.2 := by
    dsimp -zeta only [r]
    refine .app ?_ (readGranules_stays ..) (by decide)
    exact .refl ..
  clear_value r
  split
  · rename_i e
    refine .pair ?_
    exact .refl ..
  · rename_i e
    split
    · rename_i e1
      refine .pair ?_
      exact h_r
    · rename_i e1
      split
      · rename_i e2
        split
        · rename_i x1 e3
          refine .pair ?_
          refine .app ?_ (keyEnded_stays ..) (by decide)
          exact .refl ..
        · rename_i x1 k1 e3
          extract_lets -underBinder -merge -useContext +onlyGivenNames c
          have h_c : Stays [.regs, .seen, .fabric, .stopped, .checks, .boat, .cryptos] s c.2 := by
            dsimp -zeta only [c]
            refine .app ?_ (xtsPass_stays ..) (by decide)
            exact h_r
          clear_value c
          refine .pair ?_
          exact h_c
      · rename_i e2
        refine .pair ?_
        exact h_r

theorem stageEntry_stays (o : Nat) (e : Nat) (s : State) :
    Stays [.regs, .seen, .fabric, .queues, .ended, .stopped, .oars, .sweep, .returned, .checks, .boat, .cryptos] s (stageEntry o e s) := by
  unfold stageEntry
  split
  · rename_i x1 e1
    exact .refl ..
  · rename_i x1 x2 e1
    refine .ite ?_ ?_
    · exact .refl ..
    · refine underCredit_stays _ _ _ ?_ (by decide) ?_
      · intro u hu
        split
        · rename_i x3 p1 t1 e2
          refine .app ?_ (modEntry_stays ..) (by decide)
          refine .snd e2 ?_
          refine .app ?_ (assemblePayload_stays ..) (by decide)
          exact hu
        · rename_i x3 c1 t1 e2
          refine .app ?_ (closeEntry_stays ..) (by decide)
          refine .snd e2 ?_
          refine .app ?_ (assemblePayload_stays ..) (by decide)
          exact hu
      · exact .refl ..

theorem inflightFull_stays (o : Nat) (s : State) :
    Stays [.regs, .seen, .fabric, .oars] s (inflightFull o s) := by
  unfold inflightFull
  extract_lets -underBinder -merge -useContext +onlyGivenNames s1
  have h_s1 : Stays [.regs, .seen, .fabric, .oars] s s1 := by
    dsimp -zeta only [s1]
    refine .ite ?_ ?_
    · refine .app ?_ (raise_stays ..) (by decide)
      exact .refl ..
    · exact .refl ..
  clear_value s1
  refine .app ?_ (modOar_stays ..) (by decide)
  exact h_s1

theorem startWrite_stays (o : Nat) (e : Nat) (s : State) :
    Stays [.regs, .seen, .fabric, .queues, .ended, .stopped, .hda, .oars, .sweep, .returned, .mem, .checks, .boat, .cryptos] s (startWrite o e s) := by
  unfold startWrite
  split
  · rename_i x1 e1
    exact .refl ..
  · rename_i x1 x2 e1
    refine .ite ?_ ?_
    · refine .app ?_ (stageLate_stays ..) (by decide)
      exact .refl ..
    · refine .ite ?_ ?_
      · exact .refl ..
      · refine .ite ?_ ?_
        · refine .app ?_ (closeEntry_stays ..) (by decide)
          refine .app ?_ (keyEnded_stays ..) (by decide)
          exact .refl ..
        · refine .ite ?_ ?_
          · refine .app ?_ (closeEntry_stays ..) (by decide)
            exact .refl ..
          · split
            · rename_i x3 x4 e2
              exact .refl ..
            · rename_i x3 x4 e2 e3
              refine .app ?_ (inflightFull_stays ..) (by decide)
              exact .refl ..
            · rename_i x3 x4 w1 i1 e2 e3
              extract_lets -underBinder -merge -useContext +onlyGivenNames s1 s2
              have h_s1 : Stays [.regs, .seen, .fabric, .queues, .ended, .stopped, .hda, .oars, .sweep, .returned, .mem, .checks, .boat, .cryptos] s s1 := by
                dsimp -zeta only [s1]
                refine .app ?_ (putInflight_stays ..) (by decide)
                refine .app ?_ (applyZone_stays ..) (by decide)
                exact .refl ..
              clear_value s1
              have h_s2 : Stays [.regs, .seen, .fabric, .queues, .ended, .stopped, .hda, .oars, .sweep, .returned, .mem, .checks, .boat, .cryptos] s s2 := by
                dsimp -zeta only [s2]
                refine .app ?_ (raiseGate_stays ..) (by decide)
                exact h_s1
              clear_value s2
              refine .app ?_ (modOar_stays ..) (by decide)
              refine .app ?_ (modEntry_stays ..) (by decide)
              exact h_s2

theorem endWritePassage_stays (o : Nat) (e : Nat) (s : State) :
    Stays [.regs, .seen, .fabric, .queues, .ended, .stopped, .hda, .oars, .sweep, .returned, .consumed, .mem, .checks, .boat] s (endWritePassage o e s) := by
  unfold endWritePassage
  extract_lets -underBinder -merge -useContext +onlyGivenNames s0x
  have h_s0x : Stays [.regs, .seen, .fabric, .queues, .ended, .stopped, .hda, .oars, .sweep, .returned, .consumed, .mem, .checks, .boat] s s0x := by
    dsimp -zeta only [s0x]
    refine .app ?_ (dropGate_stays ..) (by decide)
    refine .app ?_ (modOar_stays ..) (by decide)
    exact .refl ..
  clear_value s0x
  split
  · rename_i x1 e1
    exact h_s0x
  · rename_i x1 x2 e1
    extract_lets -underBinder -merge -useContext +onlyGivenNames s1 s2 s3 s4 s5
    have h_s1 : Stays [.regs, .seen, .fabric, .queues, .ended, .stopped, .hda, .oars, .sweep, .returned, .consumed, .mem, .checks, .boat] s s1 := by
      dsimp -zeta only [s1]
      split
      · rename_i last1 t1 e2
        refine .app ?_ (setInflight_stays ..) (by decide)
        exact h_s0x
      · rename_i last1 e2
        exact h_s0x
    clear_value s1
    have h_s2 : Stays [.regs, .seen, .fabric, .queues, .ended, .stopped, .hda, .oars, .sweep, .returned, .consumed, .mem, .checks, .boat] s s2 := by
      dsimp -zeta only [s2]
      refine .app ?_ (State.count_stays ..) (by decide)
      exact h_s1
    clear_value s2
    have h_s3 : Stays [.regs, .seen, .fabric, .queues, .ended, .stopped, .hda, .oars, .sweep, .returned, .consumed, .mem, .checks, .boat] s s3 := by
      dsimp -zeta only [s3]
      refine .ite ?_ ?_
      · refine .app ?_ (journalRewritten_stays ..) (by decide)
        refine .app ?_ (transient_stays ..) (by decide)
        exact h_s2
      · exact h_s2
    clear_value s3
    have h_s4 : Stays [.regs, .seen, .fabric, .queues, .ended, .stopped, .hda, .oars, .sweep, .returned, .consumed, .mem, .checks, .boat] s s4 := by
      dsimp -zeta only [s4]
      refine .ite ?_ ?_
      · refine .app ?_ (.set_consumed _ _) (by decide)
        exact h_s3
      · exact h_s3
    clear_value s4
    have h_s5 : Stays [.regs, .seen, .fabric, .queues, .ended, .stopped, .hda, .oars, .sweep, .returned, .consumed, .mem, .checks, .boat] s s5 := by
      dsimp -zeta only [s5]
      refine .app ?_ (modOar_stays ..) (by decide)
      exact h_s4
    clear_value s5
    refine .ite ?_ ?_
    · refine .app ?_ (modEntry_stays ..) (by decide)
      exact h_s5
    · refine .app ?_ (closeEntry_stays ..) (by decide)
      refine .app ?_ (modEntry_stays ..) (by decide)
      exact h_s5

theorem endServoWedge_stays (o : Nat) (w : Nat) (k : Nat) (s : State) :
    Stays [.regs, .hda, .oars] s (endServoWedge o w k s) := by
  unfold endServoWedge
  refine .app ?_ (dropGate_stays ..) (by decide)
  refine .app ?_ (modOar_stays ..) (by decide)
  exact .refl ..

theorem passageEnd_stays (o : Nat) (s : State) :
    Stays [.regs, .seen, .fabric, .queues, .ended, .stopped, .hda, .rudders, .oars, .sweep, .returned, .consumed, .mem, .checks, .boat] s (passageEnd o s) := by
  unfold passageEnd
  split
  · rename_i x1 e
    exact .refl ..
  · rename_i x1 e1 e2
    refine .app ?_ (endReadPassage_stays ..) (by decide)
    exact .refl ..
  · rename_i x1 e1 e2
    refine .ite ?_ ?_
    · refine .app ?_ (endServoWedge_stays ..) (by decide)
      exact .refl ..
    · refine .app ?_ (endWritePassage_stays ..) (by decide)
      exact .refl ..

theorem readsArrive_stays (s : State) :
    Stays [.regs, .seen, .fabric, .queues, .ended, .stopped, .hda, .rudders, .oars, .sweep, .returned, .consumed, .mem, .checks, .boat] s (readsArrive s) := by
  unfold readsArrive
  refine .foldl _ _ (fun u x hu => ?_) ?_
  · refine .ite ?_ ?_
    · refine .app ?_ (passageEnd_stays ..) (by decide)
      exact hu
    · exact hu
  · exact .refl ..

end Sys2Proof.Machine
end

