-- ==== Sys2Proof/Laws/StaysPreOps.lean ====
section
/-! SUPPORT. What the operations and meanings of Machine/PreOps do at most. -/

set_option linter.all false
set_option maxRecDepth 4000

namespace Sys2Proof.Machine

theorem modPre_stays (a : Nat) (f : PrePort → PrePort) (s : State) :
    Stays [.pres] s (modPre a f s) := by
  unfold modPre
  refine .app ?_ (.set_pres _ _) (by decide)
  exact .refl ..

theorem fwRefuse_stays (a : Nat) (s : State) :
    Stays [.regs, .seen, .fabric] s (fwRefuse a s) := by
  unfold fwRefuse
  refine .app ?_ (raise_stays ..) (by decide)
  refine .app ?_ (State.setBit_stays ..) (by decide)
  refine .app ?_ (State.setBit_stays ..) (by decide)
  exact .refl ..

theorem fwRecheck_stays (a : Nat) (s : State) :
    Stays [.regs, .seen, .fabric, .pres] s (fwRecheck a s) := by
  unfold fwRecheck
  refine .ite ?_ ?_
  · refine .app ?_ (fwRefuse_stays ..) (by decide)
    refine .app ?_ (modPre_stays ..) (by decide)
    exact .refl ..
  · exact .refl ..

theorem preStart_stays (a : Nat) (f : PreFrame) (fw : Bool) (rest : List PreFrame) (passed : Nat) (s : State) :
    Stays [.pres] s (preStart a f fw rest passed s) := by
  unfold preStart
  refine .app ?_ (modPre_stays ..) (by decide)
  exact .refl ..

theorem preNext_stays (a : Nat) (s0x : State) :
    Stays [.regs, .seen, .fabric, .pres] s0x (preNext a s0x) := by
  unfold preNext
  extract_lets -underBinder -merge -useContext +onlyGivenNames s p
  have h_s : Stays [.regs, .seen, .fabric, .pres] s0x s := by
    dsimp -zeta only [s]
    refine .app ?_ (fwRecheck_stays ..) (by decide)
    exact .refl ..
  clear_value s
  refine .ite ?_ ?_
  · exact h_s
  · split
    · rename_i x1 x2 f1 e e1
      refine .app ?_ (preStart_stays ..) (by decide)
      exact h_s
    · rename_i x1 x2 f1 r1 rs1 e e1
      refine .ite ?_ ?_
      · refine .app ?_ (preStart_stays ..) (by decide)
        exact h_s
      · refine .app ?_ (preStart_stays ..) (by decide)
        exact h_s
    · rename_i x1 x2 r1 rs1 e e1
      refine .app ?_ (preStart_stays ..) (by decide)
      exact h_s
    · rename_i x1 x2 e e1
      exact h_s

theorem preQueue_stays (a : Nat) (fs : List PreFrame) (s : State) :
    Stays [.regs, .seen, .fabric, .pres] s (preQueue a fs s) := by
  unfold preQueue
  refine .app ?_ (preNext_stays ..) (by decide)
  refine .app ?_ (modPre_stays ..) (by decide)
  exact .refl ..

theorem preUrgent_stays (a : Nat) (f : PreFrame) (s : State) :
    Stays [.regs, .seen, .fabric, .pres] s (preUrgent a f s) := by
  unfold preUrgent
  refine .ite ?_ ?_
  · exact .refl ..
  · refine .app ?_ (preNext_stays ..) (by decide)
    refine .app ?_ (modPre_stays ..) (by decide)
    exact .refl ..

theorem preLevels_stays (a : Nat) (h : Nat) (levels : List Nat) (s : State) :
    Stays [.regs, .seen, .fabric, .pres] s (preLevels a h levels s) := by
  unfold preLevels
  extract_lets -underBinder -merge -useContext +onlyGivenNames fs
  refine .app ?_ (preQueue_stays ..) (by decide)
  exact .refl ..

theorem preChanged_stays (a : Nat) (i : Nat) (s : State) :
    Stays [.pres] s (preChanged a i s) := by
  unfold preChanged
  refine .app ?_ (modPre_stays ..) (by decide)
  exact .refl ..

theorem preWritten_stays (a : Nat) (f : PreFrame) (s0x : State) :
    Stays [.regs, .pres] s0x (preWritten a f s0x) := by
  unfold preWritten
  extract_lets -underBinder -merge -useContext +onlyGivenNames m s k w
  have h_s : Stays [.regs, .pres] s0x s := by
    dsimp -zeta only [s]
    refine .ite ?_ ?_
    · refine .app ?_ (preChanged_stays ..) (by decide)
      exact .refl ..
    · exact .refl ..
  clear_value s
  refine .ite ?_ ?_
  · refine .app ?_ (State.setBit_stays ..) (by decide)
    refine .app ?_ (State.setFld_stays ..) (by decide)
    exact h_s
  · refine .ite ?_ ?_
    · refine .app ?_ (State.setBit_stays ..) (by decide)
      refine .app ?_ (State.setFld_stays ..) (by decide)
      exact h_s
    · refine .ite ?_ ?_
      · refine .app ?_ (modPre_stays ..) (by decide)
        exact h_s
      · exact h_s

end Sys2Proof.Machine
end

