-- ==== Sys2Proof/Laws/StaysGateOps.lean ====
section
/-! SUPPORT. What the operations and meanings of Machine/GateOps do at most. -/

set_option linter.all false
set_option maxRecDepth 4000

namespace Sys2Proof.Machine

theorem setGateMap_stays (a : Nat) (k : Nat) (e : Nat) (x : Option (Nat × Nat × Bool)) (s : State) :
    Stays [.gates] s (setGateMap a k e x s) := by
  unfold setGateMap
  refine .app ?_ (modGate_stays ..) (by decide)
  exact .refl ..

theorem setSectorHeld_stays (a : Nat) (c : Nat) (n : Nat) (s : State) :
    Stays [.gates] s (setSectorHeld a c n s) := by
  unfold setSectorHeld
  refine .app ?_ (modGate_stays ..) (by decide)
  exact .refl ..

theorem sendBack_stays (owner : Nat) (ws : List Word) (s : State) :
    Stays [.returned] s (sendBack owner ws s) := by
  unfold sendBack
  refine .app ?_ (.set_returned _ _) (by decide)
  exact .refl ..

theorem sectorEnded_stays (a : Nat) (id : Nat) (idx : Nat) (cause : Nat) (s : State) :
    Stays [.gates] s (sectorEnded a id idx cause s) := by
  unfold sectorEnded
  split
  · rename_i x1 e
    exact .refl ..
  · rename_i x1 r1 e
    extract_lets -underBinder -merge -useContext +onlyGivenNames s1
    have h_s1 : Stays [.gates] s s1 := by
      dsimp -zeta only [s1]
      refine .app ?_ (setSectorHeld_stays ..) (by decide)
      exact .refl ..
    clear_value s1
    refine .app ?_ (modRun_stays ..) (by decide)
    exact h_s1

theorem reportRun_stays (a : Nat) (ws : List Word) (status : Nat) (lastings : Nat) (first : Nat) (cause : Nat) (s : State) :
    Stays [.regs, .seen, .fabric, .returned] s (reportRun a ws status lastings first cause s) := by
  unfold reportRun
  extract_lets -underBinder -merge -useContext +onlyGivenNames w
  refine .ite ?_ ?_
  · refine .app ?_ (sendBack_stays ..) (by decide)
    exact .refl ..
  · refine .app ?_ (raise_stays ..) (by decide)
    exact .refl ..

theorem takeSector_stays (a : Nat) (k : Nat) (ws : List Word) (s : State) :
    Stays [.gates, .returned] s (takeSector a k ws s) := by
  unfold takeSector
  extract_lets -underBinder -merge -useContext +onlyGivenNames e st cause
  split
  · rename_i x1 e1
    exact .refl ..
  · rename_i x1 id1 idx1 snd1 e1
    extract_lets -underBinder -merge -useContext +onlyGivenNames s1
    have h_s1 : Stays [.gates, .returned] s s1 := by
      dsimp -zeta only [s1]
      split
      · rename_i x2 r1 e2
        refine .ite ?_ ?_
        · refine .app ?_ (sendBack_stays ..) (by decide)
          exact .refl ..
        · exact .refl ..
      · rename_i x2 e2
        exact .refl ..
    clear_value s1
    refine .ite ?_ ?_
    · refine .app ?_ (sectorEnded_stays ..) (by decide)
      refine .app ?_ (setGateMap_stays ..) (by decide)
      exact h_s1
    · refine .app ?_ (setGateMap_stays ..) (by decide)
      exact .refl ..

theorem endJobSectors_stays (a : Nat) (k : Nat) (cause : Nat) (j : Issued) (s : State) :
    Stays [.gates] s (endJobSectors a k cause j s) := by
  unfold endJobSectors
  refine .foldl _ _ (fun u x hu => ?_) ?_
  · split
    · rename_i x1 id1 idx1 e
      refine .app ?_ (sectorEnded_stays ..) (by decide)
      refine .app ?_ (setGateMap_stays ..) (by decide)
      exact hu
    · rename_i x1 e
      exact hu
  · exact .refl ..

theorem takeJobEnd_stays (a : Nat) (k : Nat) (cause : Nat) (ws : List Word) (s : State) :
    Stays [.gates] s (takeJobEnd a k cause ws s) := by
  unfold takeJobEnd
  split
  · rename_i x1 e
    exact .refl ..
  · rename_i x1 j1 e
    refine .app ?_ (modGate_stays ..) (by decide)
    refine .app ?_ (endJobSectors_stays ..) (by decide)
    exact .refl ..

theorem takeCompletion_stays (a : Nat) (k : Nat) (ws : List Word) (s : State) :
    Stays [.gates, .returned] s (takeCompletion a k ws s) := by
  unfold takeCompletion
  refine .ite ?_ ?_
  · refine .app ?_ (takeSector_stays ..) (by decide)
    exact .refl ..
  · refine .ite ?_ ?_
    · refine .app ?_ (takeJobEnd_stays ..) (by decide)
      exact .refl ..
    · refine .ite ?_ ?_
      · refine .app ?_ (takeJobEnd_stays ..) (by decide)
        exact .refl ..
      · exact .refl ..

theorem drainSlot_stays (a : Nat) (k : Nat) (a1 : Nat) (a2 : State) :
    Stays [.regs, .seen, .fabric, .queues, .ended, .oars, .gates, .returned, .boat] a2 (drainSlot a k a1 a2) := by
  induction a1 generalizing a k a2 with
  | zero =>
    unfold drainSlot
    exact .refl ..
  | succ n ih =>
    unfold drainSlot
    split
    · rename_i x1 e
      exact .refl ..
    · rename_i x1 it1 t1 e
      refine .app ?_ (ih ..) (by decide)
      refine .app ?_ (takeCompletion_stays ..) (by decide)
      refine .app ?_ (flushOar_stays ..) (by decide)
      refine .app ?_ (qNext_stays _ _ _ e) (by decide)
      exact .refl ..

theorem endCompletion_stays (o : Nat) (ws : List Word) (s : State) :
    Stays [.regs, .seen, .fabric, .queues, .ended, .stopped, .oars, .sweep, .gates, .returned, .boat] s (endCompletion o ws s) := by
  unfold endCompletion
  extract_lets -underBinder -merge -useContext +onlyGivenNames a k
  refine .ite ?_ ?_
  · refine .ite ?_ ?_
    · refine .app ?_ (takeSector_stays ..) (by decide)
      exact .refl ..
    · refine .app ?_ (endSector_stays ..) (by decide)
      exact .refl ..
  · refine .ite ?_ ?_
    · refine .app ?_ (takeJobEnd_stays ..) (by decide)
      exact .refl ..
    · exact .refl ..

theorem endRefused_stays (a : Nat) (k : Nat) (s : State) :
    Stays [.regs, .seen, .fabric, .queues, .ended, .stopped, .oars, .sweep, .gates, .returned, .boat] s (endRefused a k s) := by
  unfold endRefused
  refine .foldl _ _ (fun u x hu => ?_) ?_
  · refine .app ?_ (endCompletion_stays ..) (by decide)
    exact hu
  · refine .app ?_ (modOar_stays ..) (by decide)
    exact .refl ..

theorem gateDrain_stays (a : Nat) (s : State) :
    Stays [.regs, .seen, .fabric, .queues, .ended, .stopped, .oars, .sweep, .gates, .returned, .boat] s (gateDrain a s) := by
  unfold gateDrain
  refine .foldl _ _ (fun u x hu => ?_) ?_
  · refine .app ?_ (endRefused_stays ..) (by decide)
    refine .app ?_ (drainSlot_stays ..) (by decide)
    exact hu
  · exact .refl ..

theorem placeHead_stays (a : Nat) (k : Nat) (h : Nat) (z : Nat) (s : State) :
    Stays [.regs, .seen, .fabric, .pres] s (placeHead a k h z s) := by
  unfold placeHead
  extract_lets -underBinder -merge -useContext +onlyGivenNames there s1
  have h_s1 : Stays [.regs, .seen, .fabric, .pres] s s1 := by
    dsimp -zeta only [s1]
    refine .ite ?_ ?_
    · exact .refl ..
    · refine .app ?_ (preUrgent_stays ..) (by decide)
      exact .refl ..
  clear_value s1
  refine .ite ?_ ?_
  · exact .refl ..
  · refine .app ?_ (preLevels_stays ..) (by decide)
    exact h_s1

theorem placeWriters_stays (a : Nat) (ks : List Nat) (s : State) :
    Stays [.regs, .seen, .fabric, .pres] s (placeWriters a ks s) := by
  unfold placeWriters
  extract_lets -underBinder -merge -useContext +onlyGivenNames keep missing
  refine .foldl _ _ (fun u x hu => ?_) ?_
  · refine .app ?_ (preUrgent_stays ..) (by decide)
    exact hu
  · exact .refl ..

theorem placeGroup_stays (a : Nat) (s : State) :
    Stays [.regs, .seen, .fabric, .pres] s (placeGroup a s) := by
  unfold placeGroup
  extract_lets -underBinder -merge -useContext +onlyGivenNames g s1 ks
  have h_s1 : Stays [.regs, .seen, .fabric, .pres] s s1 := by
    dsimp -zeta only [s1]
    refine .foldl _ _ (fun u x hu => ?_) ?_
    · split
      · rename_i x1 y1 e
        refine .app ?_ (placeHead_stays ..) (by decide)
        exact hu
      · rename_i x1 e
        exact hu
    · exact .refl ..
  clear_value s1
  refine .app ?_ (placeWriters_stays ..) (by decide)
  exact h_s1

theorem formGroup_stays (a : Nat) (s : State) :
    Stays [.regs, .seen, .fabric, .pres, .gates] s (formGroup a s) := by
  unfold formGroup
  extract_lets -underBinder -merge -useContext +onlyGivenNames g
  refine .app ?_ (placeGroup_stays ..) (by decide)
  refine .ite ?_ ?_
  · exact .refl ..
  · refine .app ?_ (modGate_stays ..) (by decide)
    exact .refl ..

theorem reissueEntry_stays (a : Nat) (k : Nat) (e : Nat) (s : State) :
    Stays [.gates] s (reissueEntry a k e s) := by
  unfold reissueEntry
  split
  · rename_i x1 e1
    exact .refl ..
  · rename_i x1 id1 idx1 snd1 e1
    refine .app ?_ (modRun_stays ..) (by decide)
    refine .app ?_ (setGateMap_stays ..) (by decide)
    exact .refl ..

theorem withdrawJob_stays (a : Nat) (k : Nat) (j : Issued) (s : State) :
    Stays [.regs, .seen, .fabric, .queues, .gates] s (withdrawJob a k j s) := by
  unfold withdrawJob
  extract_lets -underBinder -merge -useContext +onlyGivenNames q
  refine .app ?_ (qNowEmpty_stays ..) (by decide)
  refine .app ?_ (modHq_stays ..) (by decide)
  refine .app ?_ (modGate_stays ..) (by decide)
  exact .refl ..

theorem returnJob_stays (a : Nat) (k : Nat) (j : Issued) (s : State) :
    Stays [.regs, .seen, .fabric, .queues, .gates] s (returnJob a k j s) := by
  unfold returnJob
  refine .foldl _ _ (fun u x hu => ?_) ?_
  · refine .ite ?_ ?_
    · refine .app ?_ (reissueEntry_stays ..) (by decide)
      exact hu
    · split
      · rename_i x1 id1 idx1 snd1 e
        refine .app ?_ (setGateMap_stays ..) (by decide)
        exact hu
      · rename_i x1 e
        exact hu
  · refine .app ?_ (withdrawJob_stays ..) (by decide)
    exact .refl ..

theorem returnSlot_stays (a : Nat) (k : Nat) (s : State) :
    Stays [.regs, .seen, .fabric, .queues, .gates] s (returnSlot a k s) := by
  unfold returnSlot
  refine .foldl _ _ (fun u x hu => ?_) ?_
  · refine .app ?_ (returnJob_stays ..) (by decide)
    exact hu
  · exact .refl ..

theorem endIssued_stays (a : Nat) (k : Nat) (s : State) (j : Issued) :
    Stays [.regs, .seen, .fabric, .queues, .ended, .stopped, .oars, .sweep, .gates, .returned, .boat] s (endIssued a k s j) := by
  unfold endIssued
  refine .foldl _ _ (fun u x hu => ?_) ?_
  · extract_lets -underBinder -merge -useContext +onlyGivenNames u1
    have h_u1 : Stays [.regs, .seen, .fabric, .queues, .ended, .stopped, .oars, .sweep, .gates, .returned, .boat] s u1 := by
      dsimp -zeta only [u1]
      refine .app ?_ (endSector_stays ..) (by decide)
      exact hu
    clear_value u1
    split
    · rename_i x1 id1 idx1 snd1 e
      refine .ite ?_ ?_
      · refine .app ?_ (sectorEnded_stays ..) (by decide)
        refine .app ?_ (setGateMap_stays ..) (by decide)
        exact h_u1
      · exact h_u1
    · rename_i x1 e
      exact h_u1
  · refine .app ?_ (withdrawJob_stays ..) (by decide)
    exact .refl ..

theorem endWaiting_stays (a : Nat) (k : Nat) (s : State) :
    Stays [.regs, .seen, .fabric, .queues, .ended, .stopped, .oars, .sweep, .gates, .returned, .boat] s (endWaiting a k s) := by
  unfold endWaiting
  refine .foldl _ _ (fun u x hu => ?_) ?_
  · refine .app ?_ (endIssued_stays ..) (by decide)
    exact hu
  · exact .refl ..

theorem takeNote_stays (a : Nat) (s : State) (n : GateNote) :
    Stays [.regs, .seen, .fabric, .queues, .ended, .stopped, .pres, .oars, .sweep, .gates, .returned, .boat] s (takeNote a s n) := by
  unfold takeNote
  split
  · rename_i n1
    refine .app ?_ (modGate_stays ..) (by decide)
    refine .foldl _ _ (fun u x hu => ?_) ?_
    · refine .app ?_ (returnSlot_stays ..) (by decide)
      exact hu
    · exact .refl ..
  · rename_i n1
    refine .app ?_ (modGate_stays ..) (by decide)
    refine .foldl _ _ (fun u x hu => ?_) ?_
    · refine .app ?_ (endWaiting_stays ..) (by decide)
      exact hu
    · exact .refl ..
  · rename_i n1
    refine .app ?_ (modGate_stays ..) (by decide)
    exact .refl ..
  · rename_i n1
    refine .app ?_ (modGate_stays ..) (by decide)
    exact .refl ..
  · rename_i n1
    refine .app ?_ (modGate_stays ..) (by decide)
    exact .refl ..
  · rename_i n1
    split
    · rename_i x1 e
      exact .refl ..
    · rename_i x1 k1 e
      refine .app ?_ (formGroup_stays ..) (by decide)
      refine .app ?_ (returnSlot_stays ..) (by decide)
      refine .app ?_ (State.count_stays ..) (by decide)
      exact .refl ..
  · rename_i n1 k1
    refine .app ?_ (formGroup_stays ..) (by decide)
    refine .app ?_ (modGate_stays ..) (by decide)
    exact .refl ..

theorem gateNotes_stays (a : Nat) (s : State) :
    Stays [.regs, .seen, .fabric, .queues, .ended, .stopped, .pres, .rudders, .oars, .sweep, .gates, .returned, .boat] s (gateNotes a s) := by
  unfold gateNotes
  refine .foldl _ _ (fun u x hu => ?_) ?_
  · refine .app ?_ (takeNote_stays ..) (by decide)
    exact hu
  · refine .app ?_ (modRud_stays ..) (by decide)
    exact .refl ..

theorem gateSettle_stays (a : Nat) (s : State) :
    Stays [.regs, .seen, .fabric, .queues, .ended, .stopped, .pres, .rudders, .oars, .sweep, .gates, .returned, .boat] s (gateSettle a s) := by
  unfold gateSettle
  extract_lets -underBinder -merge -useContext +onlyGivenNames s1
  have h_s1 : Stays [.regs, .seen, .fabric, .queues, .ended, .stopped, .pres, .rudders, .oars, .sweep, .gates, .returned, .boat] s s1 := by
    dsimp -zeta only [s1]
    refine .app ?_ (gateNotes_stays ..) (by decide)
    refine .app ?_ (gateDrain_stays ..) (by decide)
    exact .refl ..
  clear_value s1
  refine .app ?_ (formGroup_stays ..) (by decide)
  refine .ite ?_ ?_
  · exact h_s1
  · refine .app ?_ (modGate_stays ..) (by decide)
    exact h_s1

theorem issueJob_stays {P : List Piece} {s0 : State} (a : Nat) (k : Nat) (run : Nat) (first : Nat) (ws : Nat → List Word) (mark : State → State) (s : State) (h_mark : ∀ u, Stays P s0 u → Stays P s0 (mark u)) (hq : sub [.regs, .seen, .fabric, .queues, .ended, .stopped, .oars, .sweep, .gates, .returned, .boat] P = true) (h0 : Stays P s0 s) :
    Stays P s0 (issueJob a k run first ws mark s) := by
  unfold issueJob
  extract_lets -underBinder -merge -useContext +onlyGivenNames tag handed
  split
  · rename_i x1 e
    exact h0
  · rename_i x1 t1 e
    refine .app ?_ (endIssued_stays ..) (sub_trans (by decide) hq)
    dsimp -zeta only [handed]
    refine h_mark _ ?_
    refine .app ?_ (modGate_stays ..) (sub_trans (by decide) hq)
    refine .app ?_ (qPush_stays _ _ _ _ _ e) (sub_trans (by decide) hq)
    exact h0
  · rename_i x1 t1 snd1 e e1
    dsimp -zeta only [handed]
    refine h_mark _ ?_
    refine .app ?_ (modGate_stays ..) (sub_trans (by decide) hq)
    refine .app ?_ (qPush_stays _ _ _ _ _ e1) (sub_trans (by decide) hq)
    exact h0

theorem mapEntries_stays (a : Nat) (k : Nat) (id : Nat) (idx : Nat) (base : Nat) (n : Nat) (s : State) :
    Stays [.gates] s (mapEntries a k id idx base n s) := by
  unfold mapEntries
  refine .foldl _ _ (fun u x hu => ?_) ?_
  · refine .app ?_ (setGateMap_stays ..) (by decide)
    exact hu
  · exact .refl ..

theorem issueRun_stays (a : Nat) (k : Nat) (r : Run) (s : State) :
    Stays [.regs, .seen, .fabric, .queues, .ended, .stopped, .oars, .sweep, .gates, .returned, .boat] s (issueRun a k r s) := by
  unfold issueRun
  split
  · rename_i x1 e
    exact .refl ..
  · rename_i x1 idx1 left1 rest1 e
    extract_lets -underBinder -merge -useContext +onlyGivenNames h
    split
    · rename_i x2 t1 sec1 e1
      extract_lets -underBinder -merge -useContext +onlyGivenNames z onTrack want
      split
      · rename_i x3 e2
        exact .refl ..
      · rename_i x3 base1 n1 e2
        extract_lets -underBinder -merge -useContext +onlyGivenNames mark
        refine issueJob_stays _ _ _ _ _ _ _ ?_ (by decide) ?_
        · intro u hu
          dsimp -zeta only [mark]
          extract_lets -underBinder -merge -useContext +onlyGivenNames t1_1 t2
          have h_t1_1 : Stays [.regs, .seen, .fabric, .queues, .ended, .stopped, .oars, .sweep, .gates, .returned, .boat] s t1_1 := by
            dsimp -zeta only [t1_1]
            refine .app ?_ (modRun_stays ..) (by decide)
            refine .app ?_ (mapEntries_stays ..) (by decide)
            exact hu
          clear_value t1_1
          have h_t2 : Stays [.regs, .seen, .fabric, .queues, .ended, .stopped, .oars, .sweep, .gates, .returned, .boat] s t2 := by
            dsimp -zeta only [t2]
            refine .ite ?_ ?_
            · exact h_t1_1
            · refine .app ?_ (State.mark_stays ..) (by decide)
              exact h_t1_1
          clear_value t2
          refine .app ?_ (modGate_stays ..) (by decide)
          exact h_t2
        · exact .refl ..

theorem issueOwn_stays (a : Nat) (k : Nat) (ty : Nat) (e : Nat) (n : Nat) (spare : Bool) (x : JobEntry) (s : State) :
    Stays [.regs, .seen, .fabric, .queues, .ended, .stopped, .oars, .sweep, .gates, .returned, .boat] s (issueOwn a k ty e n spare x s) := by
  unfold issueOwn
  split
  · rename_i x1 e1
    exact .refl ..
  · rename_i x1 id1 idx1 snd1 e1
    extract_lets -underBinder -merge -useContext +onlyGivenNames prio t sec z unpass
    refine issueJob_stays _ _ _ _ _ _ _ ?_ (by decide) ?_
    · intro u hu
      dsimp -zeta only [unpass]
      refine .foldl _ _ (fun u1 x2 hu1 => ?_) ?_
      · split
        · rename_i x3 id2 idx2 snd2 e2
          refine .app ?_ (setGateMap_stays ..) (by decide)
          exact hu1
        · rename_i x3 e2
          exact hu1
      · exact hu
    · exact .refl ..

theorem pickOwn_stays (a : Nat) (k : Nat) (s : State) :
    ∀ r, (pickOwn a k s) = some r → Stays [.regs, .seen, .fabric, .queues, .ended, .stopped, .oars, .sweep, .gates, .returned, .boat] s r := by
  intro r hr
  unfold pickOwn at hr
  extract_lets -underBinder -merge -useContext +onlyGivenNames ps can at hr
  split at hr
  · rename_i x1 e1 x2 e2
    extract_lets -underBinder -merge -useContext +onlyGivenNames n at hr
    split at hr
    · rename_i e
      cases hr
      refine .app ?_ (issueOwn_stays ..) (by decide)
      exact .refl ..
    · rename_i e
      split at hr
      · rename_i e3
        cases hr
        refine .app ?_ (issueOwn_stays ..) (by decide)
        exact .refl ..
      · rename_i e3
        cases hr
        refine .app ?_ (issueOwn_stays ..) (by decide)
        exact .refl ..
  · rename_i x1 e
    obtain ⟨y, hy, rfl⟩ := Option.map_eq_some_iff.1 hr
    refine .app ?_ (issueOwn_stays ..) (by decide)
    exact .refl ..

theorem askWrite_stays (o : Nat) (s : State) :
    Stays [.regs, .seen, .fabric, .pres, .oars, .gates] s (askWrite o s) := by
  unfold askWrite
  extract_lets -underBinder -merge -useContext +onlyGivenNames filling
  refine .ite ?_ ?_
  · refine .app ?_ (formGroup_stays ..) (by decide)
    refine .app ?_ (modOar_stays ..) (by decide)
    exact .refl ..
  · exact .refl ..

theorem abortOar_stays (o : Nat) (s : State) :
    Stays [.regs, .seen, .fabric, .queues, .ended, .stopped, .hda, .rudders, .oars, .sweep, .returned, .boat] s (abortOar o s) := by
  unfold abortOar
  extract_lets -underBinder -merge -useContext +onlyGivenNames s1
  have h_s1 : Stays [.regs, .seen, .fabric, .queues, .ended, .stopped, .hda, .rudders, .oars, .sweep, .returned, .boat] s s1 := by
    dsimp -zeta only [s1]
    refine .app ?_ (offsetBack_stays ..) (by decide)
    refine .app ?_ (dropGate_stays ..) (by decide)
    refine .app ?_ (modOar_stays ..) (by decide)
    exact .refl ..
  clear_value s1
  refine .foldl _ _ (fun u x hu => ?_) ?_
  · refine .app ?_ (endSector_stays ..) (by decide)
    refine .app ?_ (modEntry_stays ..) (by decide)
    exact hu
  · exact h_s1

theorem reissueOar_stays (o : Nat) (s : State) :
    Stays [.regs, .seen, .fabric, .queues, .stopped, .hda, .rudders, .oars, .sweep, .gates, .boat] s (reissueOar o s) := by
  unfold reissueOar
  extract_lets -underBinder -merge -useContext +onlyGivenNames a k free s1 s2 s3
  have h_s1 : Stays [.regs, .seen, .fabric, .queues, .stopped, .hda, .rudders, .oars, .sweep, .gates, .boat] s s1 := by
    dsimp -zeta only [s1]
    refine .app ?_ (modSweep_stays ..) (by decide)
    refine .foldl _ _ (fun u x hu => ?_) ?_
    · dsimp -zeta only [free]
      extract_lets -underBinder -merge -useContext +onlyGivenNames t1
      have h_t1 : Stays [.regs, .seen, .fabric, .queues, .stopped, .hda, .rudders, .oars, .sweep, .gates, .boat] s t1 := by
        dsimp -zeta only [t1]
        split
        · rename_i x1 n1 d1 e
          refine .app ?_ (freeDec_stays ..) (by decide)
          refine .ite ?_ ?_
          · refine .app ?_ (raiseUnreadable_stays ..) (by decide)
            exact hu
          · exact hu
        · rename_i x1 e
          exact hu
      clear_value t1
      refine .ite ?_ ?_
      · refine .app ?_ (mediaReturn_stays ..) (by decide)
        exact h_t1
      · exact h_t1
    · refine .app ?_ (offsetBack_stays ..) (by decide)
      refine .app ?_ (dropGate_stays ..) (by decide)
      exact .refl ..
  clear_value s1
  have h_s2 : Stays [.regs, .seen, .fabric, .queues, .stopped, .hda, .rudders, .oars, .sweep, .gates, .boat] s s2 := by
    dsimp -zeta only [s2]
    refine .app ?_ (modOar_stays ..) (by decide)
    exact h_s1
  clear_value s2
  have h_s3 : Stays [.regs, .seen, .fabric, .queues, .stopped, .hda, .rudders, .oars, .sweep, .gates, .boat] s s3 := by
    dsimp -zeta only [s3]
    refine .app ?_ (modGate_stays ..) (by decide)
    refine .app ?_ (clearQueue_stays ..) (by decide)
    refine .app ?_ (clearQueue_stays ..) (by decide)
    exact h_s2
  clear_value s3
  refine .foldl _ _ (fun u x hu => ?_) ?_
  · refine .app ?_ (reissueEntry_stays ..) (by decide)
    exact hu
  · exact h_s3

theorem endTodo_stays (a : Nat) (s : State) (r : Run) :
    Stays [.gates] s (endTodo a s r) := by
  unfold endTodo
  refine .foldl _ _ (fun u x hu => ?_) ?_
  · refine .ite ?_ ?_
    · refine .app ?_ (sectorEnded_stays ..) (by decide)
      exact hu
    · exact hu
  · refine .app ?_ (modRun_stays ..) (by decide)
    exact .refl ..

theorem reportEnded_stays (a : Nat) (s : State) (r : Run) :
    Stays [.regs, .seen, .fabric, .returned] s (reportEnded a s r) := by
  unfold reportEnded
  extract_lets -underBinder -merge -useContext +onlyGivenNames f
  refine .ite ?_ ?_
  · exact .refl ..
  · refine .app ?_ (State.count_stays ..) (by decide)
    refine .app ?_ (reportRun_stays ..) (by decide)
    exact .refl ..

theorem endRuns_stays (a : Nat) (s : State) :
    Stays [.regs, .seen, .fabric, .queues, .ended, .stopped, .hda, .rudders, .oars, .sweep, .gates, .returned, .boat] s (endRuns a s) := by
  unfold endRuns
  extract_lets -underBinder -merge -useContext +onlyGivenNames s1 s2 s3
  have h_s1 : Stays [.regs, .seen, .fabric, .queues, .ended, .stopped, .hda, .rudders, .oars, .sweep, .gates, .returned, .boat] s s1 := by
    dsimp -zeta only [s1]
    refine .foldl _ _ (fun u x hu => ?_) ?_
    · refine .app ?_ (clearQueue_stays ..) (by decide)
      refine .app ?_ (abortOar_stays ..) (by decide)
      refine .app ?_ (endWaiting_stays ..) (by decide)
      exact hu
    · exact .refl ..
  clear_value s1
  have h_s2 : Stays [.regs, .seen, .fabric, .queues, .ended, .stopped, .hda, .rudders, .oars, .sweep, .gates, .returned, .boat] s s2 := by
    dsimp -zeta only [s2]
    refine .app ?_ (modGate_stays ..) (by decide)
    refine .app ?_ (gateDrain_stays ..) (by decide)
    exact h_s1
  clear_value s2
  have h_s3 : Stays [.regs, .seen, .fabric, .queues, .ended, .stopped, .hda, .rudders, .oars, .sweep, .gates, .returned, .boat] s s3 := by
    dsimp -zeta only [s3]
    refine .foldl _ _ (fun u x hu => ?_) ?_
    · refine .app ?_ (endTodo_stays ..) (by decide)
      exact hu
    · exact h_s2
  clear_value s3
  refine .app ?_ (modGate_stays ..) (by decide)
  refine .foldl _ _ (fun u x hu => ?_) ?_
  · refine .app ?_ (reportEnded_stays ..) (by decide)
    exact hu
  · exact h_s3

end Sys2Proof.Machine
end

