-- ==== Sys2Proof/Laws/StaysCrewOps.lean ====
section
/-! SUPPORT. What the operations and meanings of Machine/CrewOps do at most. -/

set_option linter.all false
set_option maxRecDepth 4000

namespace Sys2Proof.Machine

theorem modCrew_stays (f : Crew → Crew) (s : State) :
    Stays [.crew] s (modCrew f s) := by
  unfold modCrew
  refine .app ?_ (.set_crew _ _) (by decide)
  exact .refl ..

theorem setBand_stays (b : Nat) (x : Option Band) (s : State) :
    Stays [.crew] s (setBand b x s) := by
  unfold setBand
  refine .app ?_ (modCrew_stays ..) (by decide)
  exact .refl ..

theorem putBandWords_stays (b : Nat) (ws : List Word) (s : State) :
    Stays [.regs, .seen, .fabric, .stopped, .mem, .checks, .boat, .crew] s (putBandWords b ws s) := by
  unfold putBandWords
  extract_lets -underBinder -merge -useContext +onlyGivenNames ws_1 s1
  have h_s1 : Stays [.regs, .seen, .fabric, .stopped, .mem, .checks, .boat, .crew] s s1 := by
    dsimp -zeta only [s1]
    refine .app ?_ (storeBytes_stays ..) (by decide)
    exact .refl ..
  clear_value s1
  split
  · rename_i x1 x2 e
    refine .app ?_ (setBand_stays ..) (by decide)
    exact h_s1
  · rename_i x1 e
    exact h_s1

theorem modBandWord_stays (b : Nat) (i : Nat) (f : Word → Word) (s : State) :
    Stays [.regs, .seen, .fabric, .stopped, .mem, .checks, .boat, .crew] s (modBandWord b i f s) := by
  unfold modBandWord
  extract_lets -underBinder -merge -useContext +onlyGivenNames ws
  refine .app ?_ (putBandWords_stays ..) (by decide)
  exact .refl ..

theorem storeList_stays (off n : Nat) (es : List (List Word)) (s : State) :
    Stays [.regs, .seen, .fabric, .stopped, .mem, .checks, .boat] s (storeList off n es s) := by
  unfold storeList
  refine .app ?_ (storeBytes_stays ..) (by decide)
  exact .refl ..

theorem setStale_stays (l : List (Nat × Nat × Nat × Nat)) (s : State) :
    Stays [.regs, .seen, .fabric, .stopped, .mem, .checks, .boat, .crew] s (setStale l s) := by
  unfold setStale
  refine .app ?_ (storeList_stays ..) (by decide)
  refine .app ?_ (modCrew_stays ..) (by decide)
  exact .refl ..

theorem setLost_stays (l : List (Nat × Nat × Nat)) (s : State) :
    Stays [.regs, .seen, .fabric, .stopped, .mem, .checks, .boat, .crew] s (setLost l s) := by
  unfold setLost
  refine .app ?_ (storeList_stays ..) (by decide)
  refine .app ?_ (modCrew_stays ..) (by decide)
  exact .refl ..

theorem endMember_stays (a : Nat) (h : Nat) (s : State) :
    Stays [.regs, .seen, .fabric, .queues, .ended, .stopped, .oars, .sweep, .gates, .returned, .boat] s (endMember a h s) := by
  unfold endMember
  extract_lets -underBinder -merge -useContext +onlyGivenNames s1
  have h_s1 : Stays [.regs, .seen, .fabric, .queues, .ended, .stopped, .oars, .sweep, .gates, .returned, .boat] s s1 := by
    dsimp -zeta only [s1]
    refine .foldl _ _ (fun u x hu => ?_) ?_
    · extract_lets -underBinder -merge -useContext +onlyGivenNames waits t1
      have h_t1 : Stays [.regs, .seen, .fabric, .queues, .ended, .stopped, .oars, .sweep, .gates, .returned, .boat] s t1 := by
        dsimp -zeta only [t1]
        refine .foldl _ _ (fun u1 x1 hu1 => ?_) ?_
        · refine .app ?_ (returnJob_stays ..) (by decide)
          exact hu1
        · exact hu
      clear_value t1
      refine .foldl _ _ (fun u1 x1 hu1 => ?_) ?_
      · refine .ite ?_ ?_
        · refine .app ?_ (endSector_stays ..) (by decide)
          exact hu1
        · exact hu1
      · exact h_t1
    · exact .refl ..
  clear_value s1
  refine .foldl _ _ (fun u x hu => ?_) ?_
  · extract_lets -underBinder -merge -useContext +onlyGivenNames wait
    refine .ite ?_ ?_
    · refine .foldl _ _ (fun u1 x1 hu1 => ?_) ?_
      · refine .app ?_ (sectorEnded_stays ..) (by decide)
        exact hu1
      · refine .app ?_ (modRun_stays ..) (by decide)
        exact hu
    · exact hu
  · exact h_s1

theorem takeSpare_stays (b : Nat) (d : List Word) (p : Nat) (s : State) :
    Stays [.regs, .seen, .fabric, .stopped, .mem, .checks, .boat, .crew] s (takeSpare b d p s) := by
  unfold takeSpare
  split
  · rename_i x1 e
    exact .refl ..
  · rename_i x1 j1 e
    refine .app ?_ (putBandWords_stays ..) (by decide)
    exact .refl ..

theorem assignSpare_stays (m : Nat) (s : State) (x : Nat × Option Band) :
    Stays [.regs, .seen, .fabric, .stopped, .mem, .checks, .boat, .crew] s (assignSpare m s x) := by
  unfold assignSpare
  split
  · rename_i x1 e
    exact .refl ..
  · rename_i x1 bd1 e
    extract_lets -underBinder -merge -useContext +onlyGivenNames d
    split
    · rename_i x2 e1
      exact .refl ..
    · rename_i x2 j1 e1
      refine .app ?_ (raise_stays ..) (by decide)
      refine .ite ?_ ?_
      · exact .refl ..
      · refine .app ?_ (takeSpare_stays ..) (by decide)
        exact .refl ..

theorem failMember_stays (m : Nat) (s : State) :
    Stays [.regs, .seen, .fabric, .crit, .queues, .ended, .stopped, .safePending, .oars, .sweep, .gates, .returned, .mem, .checks, .boat, .crew] s (failMember m s) := by
  unfold failMember
  extract_lets -underBinder -merge -useContext +onlyGivenNames s1 s2 s3
  have h_s1 : Stays [.regs, .seen, .fabric, .crit, .queues, .ended, .stopped, .safePending, .oars, .sweep, .gates, .returned, .mem, .checks, .boat, .crew] s s1 := by
    dsimp -zeta only [s1]
    refine .app ?_ (State.critPut_stays ..) (by decide)
    exact .refl ..
  clear_value s1
  have h_s2 : Stays [.regs, .seen, .fabric, .crit, .queues, .ended, .stopped, .safePending, .oars, .sweep, .gates, .returned, .mem, .checks, .boat, .crew] s s2 := by
    dsimp -zeta only [s2]
    refine .foldl _ _ (fun u x hu => ?_) ?_
    · refine .app ?_ (assignSpare_stays ..) (by decide)
      exact hu
    · refine .app ?_ (endMember_stays ..) (by decide)
      exact h_s1
  clear_value s2
  have h_s3 : Stays [.regs, .seen, .fabric, .crit, .queues, .ended, .stopped, .safePending, .oars, .sweep, .gates, .returned, .mem, .checks, .boat, .crew] s s3 := by
    dsimp -zeta only [s3]
    refine .ite ?_ ?_
    · refine .app ?_ (State.setCritFld_stays ..) (by decide)
      exact h_s2
    · exact h_s2
  clear_value s3
  refine .ite ?_ ?_
  · exact .refl ..
  · refine .ite ?_ ?_
    · refine .app ?_ (State.setCritFld_stays ..) (by decide)
      exact h_s3
    · exact h_s3

theorem failActuatorMembers_stays (a : Nat) (s : State) :
    Stays [.regs, .seen, .fabric, .crit, .queues, .ended, .stopped, .safePending, .oars, .sweep, .gates, .returned, .mem, .checks, .boat, .crew] s (failActuatorMembers a s) := by
  unfold failActuatorMembers
  refine .foldl _ _ (fun u x hu => ?_) ?_
  · refine .ite ?_ ?_
    · refine .app ?_ (failMember_stays ..) (by decide)
      exact hu
    · exact hu
  · exact .refl ..

theorem addStale_stays (e : Nat) (b : Nat) (st : Nat) (p : Nat) (cause : Nat) (s : State) :
    Stays [.regs, .seen, .fabric, .crit, .queues, .ended, .stopped, .safePending, .oars, .sweep, .gates, .returned, .mem, .checks, .boat, .crew] s (addStale e b st p cause s) := by
  unfold addStale
  extract_lets -underBinder -merge -useContext +onlyGivenNames m s1
  have h_s1 : Stays [.regs, .seen, .fabric, .crit, .queues, .ended, .stopped, .safePending, .oars, .sweep, .gates, .returned, .mem, .checks, .boat, .crew] s s1 := by
    dsimp -zeta only [s1]
    refine .app ?_ (failMember_stays ..) (by decide)
    refine .app ?_ (lasting_stays ..) (by decide)
    exact .refl ..
  clear_value s1
  refine .ite ?_ ?_
  · exact .refl ..
  · refine .ite ?_ ?_
    · refine .app ?_ (setStale_stays ..) (by decide)
      exact h_s1
    · refine .app ?_ (raise_stays ..) (by decide)
      refine .app ?_ (setStale_stays ..) (by decide)
      exact .refl ..

theorem loseStripe_stays (e : Nat) (b : Nat) (st : Nat) (row : Nat) (positions : List Nat) (s : State) :
    Stays [.regs, .seen, .fabric, .stopped, .mem, .checks, .boat, .crew] s (loseStripe e b st row positions s).2 := by
  unfold loseStripe
  extract_lets -underBinder -merge -useContext +onlyGivenNames mask
  split
  · rename_i e1
    refine .pair ?_
    exact .refl ..
  · rename_i e1
    split
    · rename_i e2
      refine .pair ?_
      refine .ite ?_ ?_
      · exact .refl ..
      · refine .app ?_ (lasting_stays ..) (by decide)
        refine .app ?_ (modCrew_stays ..) (by decide)
        exact .refl ..
    · rename_i e2
      refine .pair ?_
      refine .app ?_ (lasting_stays ..) (by decide)
      refine .app ?_ (setLost_stays ..) (by decide)
      refine .app ?_ (modCrew_stays ..) (by decide)
      exact .refl ..

theorem findStripe_stays (b : Nat) (st : Nat) (s : State) :
    Stays [.regs, .seen, .fabric, .stopped, .mem, .checks, .boat, .crew] s (findStripe b st s) := by
  unfold findStripe
  refine .ite ?_ ?_
  · refine .app ?_ (setLost_stays ..) (by decide)
    refine .app ?_ (modCrew_stays ..) (by decide)
    exact .refl ..
  · exact .refl ..

theorem putRecord_stays (i : Nat) (ws : List Word) (s : State) :
    Stays [.regs, .seen, .fabric, .stopped, .mem, .checks, .boat] s (putRecord i ws s) := by
  unfold putRecord
  refine .app ?_ (storeBytes_stays ..) (by decide)
  exact .refl ..

theorem openRecord_stays (id : Nat) (flags : Nat) (ws : List Word) (s : State) :
    Stays [.regs, .seen, .fabric, .stopped, .mem, .checks, .boat, .crew] s (openRecord id flags ws s) := by
  unfold openRecord
  extract_lets -underBinder -merge -useContext +onlyGivenNames n r
  refine .app ?_ (modCrew_stays ..) (by decide)
  refine .app ?_ (putRecord_stays ..) (by decide)
  exact .refl ..

theorem retireRecord_stays (jseq : Nat) (s : State) :
    Stays [.regs, .seen, .fabric, .stopped, .mem, .checks, .boat, .crew] s (retireRecord jseq s) := by
  unfold retireRecord
  split
  · rename_i x1 e
    exact .refl ..
  · rename_i x1 r1 e
    refine .app ?_ (modCrew_stays ..) (by decide)
    refine .app ?_ (putRecord_stays ..) (by decide)
    exact .refl ..

theorem copyLost_stays (copy : Nat) (s : State) :
    Stays [.regs, .seen, .fabric, .crit, .stopped, .safePending] s (copyLost copy s) := by
  unfold copyLost
  refine .app ?_ (lasting_stays ..) (by decide)
  refine .ite ?_ ?_
  · refine .app ?_ (State.setCritFld_stays ..) (by decide)
    exact .refl ..
  · refine .app ?_ (State.setCritFld_stays ..) (by decide)
    exact .refl ..

end Sys2Proof.Machine
end

