-- ==== Sys2Proof/Laws/StaysSlipOps.lean ====
section
/-! SUPPORT. What the operations and meanings of Machine/SlipOps do at most. -/

set_option linter.all false
set_option maxRecDepth 4000

namespace Sys2Proof.Machine

theorem modSlip_stays (f : Slip → Slip) (s : State) :
    Stays [.slip] s (modSlip f s) := by
  unfold modSlip
  refine .app ?_ (.set_slip _ _) (by decide)
  exact .refl ..

theorem modLane_stays (l : Nat) (f : SasLane → SasLane) (s : State) :
    Stays [.slip] s (modLane l f s) := by
  unfold modLane
  refine .app ?_ (modSlip_stays ..) (by decide)
  exact .refl ..

theorem setNexus_stays (n : Nat) (x : Option Nexus) (s : State) :
    Stays [.slip] s (setNexus n x s) := by
  unfold setNexus
  refine .app ?_ (modSlip_stays ..) (by decide)
  exact .refl ..

theorem setUa_stays (n : Nat) (l : Nat) (b : Bool) (s : State) :
    Stays [.slip] s (setUa n l b s) := by
  unfold setUa
  refine .app ?_ (modSlip_stays ..) (by decide)
  exact .refl ..

theorem setLu_stays (n : Nat) (x : Option Lu) (s : State) :
    Stays [.slip] s (setLu n x s) := by
  unfold setLu
  refine .app ?_ (modSlip_stays ..) (by decide)
  exact .refl ..

theorem setSvc_stays (c : Nat) (x : Option SvcOp) (s : State) :
    Stays [.slip] s (setSvc c x s) := by
  unfold setSvc
  refine .app ?_ (modSlip_stays ..) (by decide)
  exact .refl ..

theorem setHaz_stays (e : Nat) (x : Option HazEntry) (s : State) :
    Stays [.slip] s (setHaz e x s) := by
  unfold setHaz
  refine .app ?_ (modSlip_stays ..) (by decide)
  exact .refl ..

theorem modTask_stays (id : Nat) (f : HostTask → HostTask) (s : State) :
    Stays [.slip] s (modTask id f s) := by
  unfold modTask
  refine .app ?_ (modSlip_stays ..) (by decide)
  exact .refl ..

theorem wakeLane_stays (l : Nat) (s : State) :
    Stays [.regs, .seen, .fabric] s (wakeLane l s) := by
  unfold wakeLane
  refine .ite ?_ ?_
  · exact .refl ..
  · refine .app ?_ (raise_stays ..) (by decide)
    refine .app ?_ (State.setFld_stays ..) (by decide)
    exact .refl ..

theorem transmit_stays (l : Nat) (f : TxFrame) (s : State) :
    Stays [.regs, .seen, .fabric, .slip] s (transmit l f s) := by
  unfold transmit
  refine .app ?_ (modLane_stays ..) (by decide)
  refine .app ?_ (wakeLane_stays ..) (by decide)
  exact .refl ..

theorem replyFrame_stays (l : Nat) (n : Nat) (tag : Nat) (isCode : Bool) (status : Nat) (bytes : List Byte) (s : State) :
    Stays [.regs, .seen, .fabric, .slip] s (replyFrame l n tag isCode status bytes s) := by
  unfold replyFrame
  refine .app ?_ (transmit_stays ..) (by decide)
  exact .refl ..

theorem giveAnswer_stays (id : Nat) (a : Answer) (s : State) :
    Stays [.slip] s (giveAnswer id a s) := by
  unfold giveAnswer
  refine .app ?_ (modTask_stays ..) (by decide)
  exact .refl ..

theorem failTask_stays (id : Nat) (key : Nat) (asc : Nat) (ascq : Nat) (lba : Option Nat) (s : State) :
    Stays [.slip] s (failTask id key asc ascq lba s) := by
  unfold failTask
  split
  · rename_i x1 e
    exact .refl ..
  · rename_i x1 t1 e
    refine .ite ?_ ?_
    · exact .refl ..
    · refine .app ?_ (giveAnswer_stays ..) (by decide)
      exact .refl ..

theorem enterHaz_stays (e : Nat) (x : HazEntry) (s : State) :
    Stays [.regs, .slip] s (enterHaz e x s) := by
  unfold enterHaz
  extract_lets -underBinder -merge -useContext +onlyGivenNames s1
  have h_s1 : Stays [.regs, .slip] s s1 := by
    dsimp -zeta only [s1]
    refine .app ?_ (setHaz_stays ..) (by decide)
    refine .app ?_ (modSlip_stays ..) (by decide)
    exact .refl ..
  clear_value s1
  refine .app ?_ (State.mark_stays ..) (by decide)
  exact h_s1

theorem sayFull_stays (s : State) :
    Stays [.regs, .seen, .fabric, .slip] s (sayFull s) := by
  unfold sayFull
  refine .ite ?_ ?_
  · exact .refl ..
  · refine .app ?_ (raise_stays ..) (by decide)
    refine .app ?_ (modSlip_stays ..) (by decide)
    exact .refl ..

theorem putDtab_stays (t : HostTask) (u : Lu) (s : State) :
    Stays [.regs, .seen, .fabric, .stopped, .mem, .checks, .boat, .slip] s (putDtab t u s) := by
  unfold putDtab
  extract_lets -underBinder -merge -useContext +onlyGivenNames off ws
  refine .app ?_ (modTask_stays ..) (by decide)
  refine .app ?_ (storeBytes_stays ..) (by decide)
  exact .refl ..

theorem clearDtab_stays (t : HostTask) (s : State) :
    Stays [.regs, .seen, .fabric, .stopped, .mem, .checks, .boat, .slip] s (clearDtab t s) := by
  unfold clearDtab
  refine .app ?_ (modTask_stays ..) (by decide)
  refine .app ?_ (storeBytes_stays ..) (by decide)
  exact .refl ..

theorem releaseTask_stays (id : Nat) (n : Nat) (s : State) :
    Stays [.regs, .seen, .fabric, .stopped, .mem, .checks, .boat, .slip] s (releaseTask id n s) := by
  unfold releaseTask
  split
  · rename_i x1 e
    exact .refl ..
  · rename_i x1 t1 e
    extract_lets -underBinder -merge -useContext +onlyGivenNames m s1
    have h_s1 : Stays [.regs, .seen, .fabric, .stopped, .mem, .checks, .boat, .slip] s s1 := by
      dsimp -zeta only [s1]
      refine .app ?_ (modTask_stays ..) (by decide)
      refine .app ?_ (releaseDirty_stays ..) (by decide)
      exact .refl ..
    clear_value s1
    refine .ite ?_ ?_
    · exact .refl ..
    · refine .ite ?_ ?_
      · refine .app ?_ (clearDtab_stays ..) (by decide)
        exact h_s1
      · exact h_s1

theorem exitTrigger_stays (s : State) :
    Stays [.power] s (exitTrigger s) := by
  unfold exitTrigger
  extract_lets -underBinder -merge -useContext +onlyGivenNames vsrc
  refine .ite ?_ ?_
  · refine .app ?_ (.set_power _ _) (by decide)
    exact .refl ..
  · exact .refl ..

theorem firmwarePushed_stays (s : State) :
    Stays [.power] s (firmwarePushed s) := by
  unfold firmwarePushed
  refine .ite ?_ ?_
  · refine .app ?_ (exitTrigger_stays ..) (by decide)
    exact .refl ..
  · exact .refl ..

end Sys2Proof.Machine
end

