-- ==== Sys2Proof/Laws/StaysCalOps.lean ====
section
/-! SUPPORT. What the operations and meanings of Machine/CalOps do at most. -/

set_option linter.all false
set_option maxRecDepth 4000

namespace Sys2Proof.Machine

theorem modCal_stays (f : Cal → Cal) (s : State) :
    Stays [.cal] s (modCal f s) := by
  unfold modCal
  refine .app ?_ (.set_cal _ _) (by decide)
  exact .refl ..

theorem markStale_stays (m : Nat) (z : Nat) (cause : Nat) (s : State) :
    Stays [.regs, .seen, .fabric, .cal] s (markStale m z cause s) := by
  unfold markStale
  extract_lets -underBinder -merge -useContext +onlyGivenNames s1
  have h_s1 : Stays [.regs, .seen, .fabric, .cal] s s1 := by
    dsimp -zeta only [s1]
    refine .app ?_ (modCal_stays ..) (by decide)
    exact .refl ..
  clear_value s1
  refine .app ?_ (raise_stays ..) (by decide)
  refine .app ?_ (State.setReg_stays ..) (by decide)
  exact h_s1

theorem keepMissed_stays (m : Nat) (z : Nat) (s : State) :
    Stays [.cal] s (keepMissed m z s) := by
  unfold keepMissed
  refine .app ?_ (modCal_stays ..) (by decide)
  exact .refl ..

theorem calCompare_stays (m : Nat) (z : Nat) (rx : Option (List Word)) (s0x : State) :
    Stays [.regs, .seen, .fabric, .stopped, .cal] s0x (calCompare m z rx s0x) := by
  unfold calCompare
  extract_lets -underBinder -merge -useContext +onlyGivenNames s i hard
  have h_s : Stays [.regs, .seen, .fabric, .stopped, .cal] s0x s := by
    dsimp -zeta only [s]
    refine .app ?_ (keepMissed_stays ..) (by decide)
    exact .refl ..
  clear_value s
  split
  · rename_i rx
    refine .ite ?_ ?_
    · dsimp -zeta only [hard]
      refine .app ?_ (modCal_stays ..) (by decide)
      exact h_s
    · refine .app ?_ (raise_stays ..) (by decide)
      refine .app ?_ (modCal_stays ..) (by decide)
      dsimp -zeta only [hard]
      refine .app ?_ (modCal_stays ..) (by decide)
      exact h_s
  · rename_i rx r1
    refine .ite ?_ ?_
    · refine .ite ?_ ?_
      · exact h_s
      · refine .app ?_ (lasting_stays ..) (by decide)
        dsimp -zeta only [hard]
        refine .app ?_ (modCal_stays ..) (by decide)
        exact h_s
    · refine .ite ?_ ?_
      · refine .app ?_ (markStale_stays ..) (by decide)
        dsimp -zeta only [hard]
        refine .app ?_ (modCal_stays ..) (by decide)
        exact h_s
      · dsimp -zeta only [hard]
        refine .app ?_ (modCal_stays ..) (by decide)
        exact h_s

end Sys2Proof.Machine
end

