-- ==== Sys2Proof/Laws/StaysOar.lean ====
section
/-! SUPPORT. What the operations and meanings of Machine/Oar do at most. -/

set_option linter.all false
set_option maxRecDepth 4000

namespace Sys2Proof.Machine

theorem beginRead_stays (o : Nat) (e : Nat) (purpose : Nat) (x : JobEntry) (p : ReadPass) (s : State) :
    Stays [.regs, .seen, .fabric, .queues, .ended, .stopped, .rudders, .oars, .sweep, .returned, .boat] s (beginRead o e purpose x p s) := by
  unfold beginRead
  extract_lets -underBinder -merge -useContext +onlyGivenNames marked t1
  have h_t1 : Stays [.regs, .seen, .fabric, .queues, .ended, .stopped, .rudders, .oars, .sweep, .returned, .boat] s t1 := by
    dsimp -zeta only [t1]
    refine .app ?_ (startRead_stays ..) (by decide)
    exact .refl ..
  clear_value t1
  refine .ite ?_ ?_
  · refine .app ?_ (endSector_stays ..) (by decide)
    exact .refl ..
  · refine .ite ?_ ?_
    · exact .refl ..
    · refine .ite ?_ ?_
      · split
        · rename_i x1 n1 d1 e1
          refine .app ?_ (startLadderRead_stays ..) (by decide)
          exact .refl ..
        · rename_i x1 e1
          exact .refl ..
      · refine .ite ?_ ?_
        · refine .app ?_ (stageLate_stays ..) (by decide)
          exact .refl ..
        · refine .ite ?_ ?_
          · refine .app ?_ (modEntry_stays ..) (by decide)
            exact h_t1
          · exact h_t1

theorem prepare_stays (o : Nat) (s : State) :
    Stays [.regs, .seen, .fabric, .queues, .ended, .stopped, .oars, .sweep, .returned, .checks, .boat, .cryptos] s (prepare o s) := by
  unfold prepare
  split
  · rename_i x1 e
    exact .refl ..
  · rename_i x1 j1 e
    refine .foldl _ _ (fun u x hu => ?_) ?_
    · refine .ite ?_ ?_
      · refine .app ?_ (entryCredit_stays ..) (by decide)
        exact hu
      · refine .app ?_ (stageEntry_stays ..) (by decide)
        exact hu
    · exact .refl ..

theorem execSectorRead_stays (oar : Nat) (entry_ : Nat) (x : ReadPass) (s : State) :
    Answers [.regs, .seen, .fabric, .queues, .ended, .stopped, .pres, .hda, .rudders, .oars, .sweep, .gates, .returned, .consumed, .mem, .checks, .boat, .cryptos] s (execSectorRead oar entry_ x s) := by
  unfold execSectorRead
  refine .next ?_
  refine .when _ _ (fun u hu => ?_) ?_
  · extract_lets -underBinder -merge -useContext +onlyGivenNames s1
    have h_s1 : Stays [.regs, .seen, .fabric, .queues, .ended, .stopped, .pres, .hda, .rudders, .oars, .sweep, .gates, .returned, .consumed, .mem, .checks, .boat, .cryptos] s s1 := by
      dsimp -zeta only [s1]
      refine .app ?_ (passageEnd_stays ..) (by decide)
      exact hu
    clear_value s1
    split
    · rename_i x1 x2 j1 y1 e e1
      split
      · rename_i x3 p1 e2
        refine .ite ?_ ?_
        · refine .app ?_ (prepare_stays ..) (by decide)
          refine .app ?_ (askWrite_stays ..) (by decide)
          refine .app ?_ (beginRead_stays ..) (by decide)
          exact h_s1
        · exact h_s1
      · rename_i x3 e2
        exact h_s1
    · rename_i x1 x2 e
      exact h_s1
  · exact .refl ..

theorem execSectorWrite_stays (oar : Nat) (entry_ : Nat) (s : State) :
    Answers [.regs, .seen, .fabric, .queues, .ended, .stopped, .pres, .hda, .rudders, .oars, .sweep, .gates, .returned, .consumed, .mem, .checks, .boat, .cryptos] s (execSectorWrite oar entry_ s) := by
  unfold execSectorWrite
  refine .next ?_
  refine .when _ _ (fun u hu => ?_) ?_
  · extract_lets -underBinder -merge -useContext +onlyGivenNames s1
    have h_s1 : Stays [.regs, .seen, .fabric, .queues, .ended, .stopped, .pres, .hda, .rudders, .oars, .sweep, .gates, .returned, .consumed, .mem, .checks, .boat, .cryptos] s s1 := by
      dsimp -zeta only [s1]
      refine .app ?_ (askWrite_stays ..) (by decide)
      refine .app ?_ (passageEnd_stays ..) (by decide)
      exact hu
    clear_value s1
    split
    · rename_i x1 e
      exact h_s1
    · rename_i x1 j1 e
      refine .ite ?_ ?_
      · refine .when _ _ (fun u1 hu1 => ?_) ?_
        · refine .app ?_ (raiseGate_stays ..) (by decide)
          refine .app ?_ (modOar_stays ..) (by decide)
          exact hu1
        · exact h_s1
      · split
        · rename_i x2 y1 e1
          refine .ite ?_ ?_
          · refine .app ?_ (prepare_stays ..) (by decide)
            refine .app ?_ (startWrite_stays ..) (by decide)
            exact h_s1
          · exact h_s1
        · rename_i x2 e1
          exact h_s1
  · exact .refl ..

theorem landRange_stays (x : JobEntry) (host : List Byte) (s : State) (r : Nat × Nat) :
    Stays [.regs, .seen, .fabric, .stopped, .mem, .checks, .boat] s (landRange x host s r) := by
  unfold landRange
  extract_lets -underBinder -merge -useContext +onlyGivenNames sb t
  have h_t : Stays [.regs, .seen, .fabric, .stopped, .mem, .checks, .boat] s t := by
    dsimp -zeta only [t]
    refine .app ?_ (storeBytes_stays ..) (by decide)
    exact .refl ..
  clear_value t
  refine .foldl _ _ (fun u x1 hu => ?_) ?_
  · extract_lets -underBinder -merge -useContext +onlyGivenNames a
    refine .ite ?_ ?_
    · refine .foldl _ _ (fun u1 x2 hu1 => ?_) ?_
      · refine .app ?_ (putGranule_stays ..) (by decide)
        exact hu1
      · exact hu
    · exact hu
  · exact h_t

theorem execLandingAck_stays (oar : Nat) (entry_ : Nat) (s : State) :
    Answers [.regs, .seen, .fabric, .queues, .ended, .stopped, .pres, .oars, .sweep, .gates, .returned, .mem, .checks, .boat, .cryptos] s (execLandingAck oar entry_ s) := by
  unfold execLandingAck
  refine .next ?_
  refine .when _ _ (fun u hu => ?_) ?_
  · split
    · rename_i x1 e
      exact hu
    · rename_i x1 x2 e
      split
      · rename_i x3 e1
        exact hu
      · rename_i x3 host1 e1
        extract_lets -underBinder -merge -useContext +onlyGivenNames m rs
        split
        · rename_i x4 p1 e2
          refine .app ?_ (closeEntry_stays ..) (by decide)
          refine .app ?_ (readGranule_stays ..) (by decide)
          exact hu
        · rename_i x4 e2
          extract_lets -underBinder -merge -useContext +onlyGivenNames t t1 t2
          have h_t : Stays [.regs, .seen, .fabric, .queues, .ended, .stopped, .pres, .oars, .sweep, .gates, .returned, .mem, .checks, .boat, .cryptos] s t := by
            dsimp -zeta only [t]
            refine .foldl _ _ (fun u1 x hu1 => ?_) ?_
            · refine .app ?_ (landRange_stays ..) (by decide)
              exact hu1
            · exact hu
          clear_value t
          have h_t1 : Stays [.regs, .seen, .fabric, .queues, .ended, .stopped, .pres, .oars, .sweep, .gates, .returned, .mem, .checks, .boat, .cryptos] s t1 := by
            dsimp -zeta only [t1]
            refine .ite ?_ ?_
            · exact h_t
            · refine .app ?_ (markPoisoned_stays ..) (by decide)
              exact h_t
          clear_value t1
          have h_t2 : Stays [.regs, .seen, .fabric, .queues, .ended, .stopped, .pres, .oars, .sweep, .gates, .returned, .mem, .checks, .boat, .cryptos] s t2 := by
            dsimp -zeta only [t2]
            refine .app ?_ (modEntry_stays ..) (by decide)
            exact h_t1
          clear_value t2
          refine .ite ?_ ?_
          · refine .app ?_ (prepare_stays ..) (by decide)
            refine .app ?_ (askWrite_stays ..) (by decide)
            refine .ite ?_ ?_
            · refine .app ?_ (mediaReturn_stays ..) (by decide)
              exact h_t2
            · exact h_t2
          · refine .app ?_ (closeEntry_stays ..) (by decide)
            exact h_t1
  · exact .refl ..

theorem refuseJob_stays (o : Nat) (j : TrackJob) (code : Nat) (fe : Nat) (s : State) :
    Stays [.regs, .seen, .fabric, .queues, .ended, .stopped, .oars, .sweep, .returned, .boat] s (refuseJob o j code fe s) := by
  unfold refuseJob
  extract_lets -underBinder -merge -useContext +onlyGivenNames s1 need s2
  have h_s1 : Stays [.regs, .seen, .fabric, .queues, .ended, .stopped, .oars, .sweep, .returned, .boat] s s1 := by
    dsimp -zeta only [s1]
    refine .ite ?_ ?_
    · refine .app ?_ (raise_stays ..) (by decide)
      exact .refl ..
    · refine .app ?_ (raise_stays ..) (by decide)
      exact .refl ..
  clear_value s1
  have h_s2 : Stays [.regs, .seen, .fabric, .queues, .ended, .stopped, .oars, .sweep, .returned, .boat] s s2 := by
    dsimp -zeta only [s2]
    refine .foldl _ _ (fun u x hu => ?_) ?_
    · refine .ite ?_ ?_
      · refine .app ?_ (endSector_stays ..) (by decide)
        refine .app ?_ (modEntry_stays ..) (by decide)
        exact hu
      · exact hu
    · exact h_s1
  clear_value s2
  refine .app ?_ (pushDone_stays ..) (by decide)
  exact h_s2

theorem takeEntry_stays (o : Nat) (j : TrackJob) (s : State) (i : Nat) :
    Stays [.regs, .seen, .fabric, .oars] s (takeEntry o j s i) := by
  unfold takeEntry
  extract_lets -underBinder -merge -useContext +onlyGivenNames e x
  refine .ite ?_ ?_
  · refine .app ?_ (modEntry_stays ..) (by decide)
    exact .refl ..
  · split
    · rename_i x1 r1 e1
      extract_lets -underBinder -merge -useContext +onlyGivenNames y
      refine .app ?_ (raise_stays ..) (by decide)
      refine .app ?_ (State.count_stays ..) (by decide)
      refine .app ?_ (setEntry_stays ..) (by decide)
      exact .refl ..
    · rename_i x1 e1
      refine .app ?_ (setEntry_stays ..) (by decide)
      exact .refl ..

theorem startJob_stays (o : Nat) (j : TrackJob) (s : State) :
    Stays [.regs, .seen, .fabric, .queues, .ended, .stopped, .pres, .cal, .oars, .sweep, .returned, .checks, .boat, .cryptos] s (startJob o j s) := by
  unfold startJob
  extract_lets -underBinder -merge -useContext +onlyGivenNames s1 fills write s3 both s4 m r s5 s6
  have h_s1 : Stays [.regs, .seen, .fabric, .queues, .ended, .stopped, .pres, .cal, .oars, .sweep, .returned, .checks, .boat, .cryptos] s s1 := by
    dsimp -zeta only [s1]
    refine .ite ?_ ?_
    · exact .refl ..
    · refine .foldl _ _ (fun u x hu => ?_) ?_
      · refine .app ?_ (takeEntry_stays ..) (by decide)
        exact hu
      · exact .refl ..
  clear_value s1
  have h_s3 : Stays [.regs, .seen, .fabric, .queues, .ended, .stopped, .pres, .cal, .oars, .sweep, .returned, .checks, .boat, .cryptos] s s3 := by
    dsimp -zeta only [s3]
    refine .app ?_ (modOar_stays ..) (by decide)
    exact h_s1
  clear_value s3
  have h_s4 : Stays [.regs, .seen, .fabric, .queues, .ended, .stopped, .pres, .cal, .oars, .sweep, .returned, .checks, .boat, .cryptos] s s4 := by
    dsimp -zeta only [s4]
    refine .ite ?_ ?_
    · refine .app ?_ (raise_stays ..) (by decide)
      exact h_s3
    · exact h_s3
  clear_value s4
  have h_s5 : Stays [.regs, .seen, .fabric, .queues, .ended, .stopped, .pres, .cal, .oars, .sweep, .returned, .checks, .boat, .cryptos] s s5 := by
    dsimp -zeta only [s5]
    refine .app ?_ (modCal_stays ..) (by decide)
    refine .app ?_ (State.mark_stays ..) (by decide)
    exact h_s4
  clear_value s5
  have h_s6 : Stays [.regs, .seen, .fabric, .queues, .ended, .stopped, .pres, .cal, .oars, .sweep, .returned, .checks, .boat, .cryptos] s s6 := by
    dsimp -zeta only [s6]
    refine .ite ?_ ?_
    · exact h_s5
    · refine .app ?_ (calCompare_stays ..) (by decide)
      exact h_s5
  clear_value s6
  refine .app ?_ (prepare_stays ..) (by decide)
  refine .app ?_ (preLevels_stays ..) (by decide)
  exact h_s6

theorem execTrackJobStart_stays (oar : Nat) (s : State) :
    Answers [.regs, .seen, .fabric, .queues, .ended, .stopped, .pres, .cal, .oars, .sweep, .returned, .checks, .boat, .cryptos] s (execTrackJobStart oar s) := by
  unfold execTrackJobStart
  refine .next ?_
  refine .when _ _ (fun u hu => ?_) ?_
  · split
    · rename_i x1 e
      exact hu
    · rename_i x1 it1 e
      extract_lets -underBinder -merge -useContext +onlyGivenNames j
      split
      · rename_i x2 f1 n1 e1
        split
        · rename_i x3 fst1 t1 e2
          refine .app ?_ (refuseJob_stays ..) (by decide)
          refine .app ?_ (qNext_stays _ _ _ e2) (by decide)
          exact hu
        · rename_i x3 e2
          exact hu
      · rename_i x2 e1
        refine .ite ?_ ?_
        · split
          · rename_i x3 fst1 t1 e2
            refine .app ?_ (startJob_stays ..) (by decide)
            refine .app ?_ (qNext_stays _ _ _ e2) (by decide)
            exact hu
          · rename_i x3 e2
            exact hu
        · exact hu
  · exact .refl ..

theorem finishJob_stays (o : Nat) (j : TrackJob) (good : Nat) (lastings : Nat) (s : State) :
    Stays [.regs, .seen, .fabric, .queues, .ended, .oars, .returned, .boat] s (finishJob o j good lastings s) := by
  unfold finishJob
  extract_lets -underBinder -merge -useContext +onlyGivenNames mine s1 s2 passed
  have h_s1 : Stays [.regs, .seen, .fabric, .queues, .ended, .oars, .returned, .boat] s s1 := by
    dsimp -zeta only [s1]
    refine .foldl _ _ (fun u x hu => ?_) ?_
    · refine .ite ?_ ?_
      · exact hu
      · refine .app ?_ (pushDone_stays ..) (by decide)
        exact hu
    · exact .refl ..
  clear_value s1
  have h_s2 : Stays [.regs, .seen, .fabric, .queues, .ended, .oars, .returned, .boat] s s2 := by
    dsimp -zeta only [s2]
    refine .foldl _ _ (fun u x hu => ?_) ?_
    · refine .ite ?_ ?_
      · refine .app ?_ (setEntry_stays ..) (by decide)
        exact hu
      · refine .app ?_ (modEntry_stays ..) (by decide)
        exact hu
    · exact h_s1
  clear_value s2
  refine .app ?_ (modOar_stays ..) (by decide)
  refine .app ?_ (pushDone_stays ..) (by decide)
  exact h_s2

theorem execTrackJobEnd_stays (oar : Nat) (s : State) :
    Answers [.regs, .seen, .fabric, .queues, .ended, .stopped, .hda, .rudders, .oars, .sweep, .returned, .consumed, .mem, .checks, .boat] s (execTrackJobEnd oar s) := by
  unfold execTrackJobEnd
  refine .next ?_
  refine .when _ _ (fun u hu => ?_) ?_
  · extract_lets -underBinder -merge -useContext +onlyGivenNames s1
    have h_s1 : Stays [.regs, .seen, .fabric, .queues, .ended, .stopped, .hda, .rudders, .oars, .sweep, .returned, .consumed, .mem, .checks, .boat] s s1 := by
      dsimp -zeta only [s1]
      refine .app ?_ (passageEnd_stays ..) (by decide)
      exact hu
    clear_value s1
    split
    · rename_i x1 e
      exact h_s1
    · rename_i x1 j1 e
      extract_lets -underBinder -merge -useContext +onlyGivenNames es ended
      refine .ite ?_ ?_
      · refine .ite ?_ ?_
        · refine .app ?_ (finishJob_stays ..) (by decide)
          refine .app ?_ (raise_stays ..) (by decide)
          refine .app ?_ (State.setFld_stays ..) (by decide)
          exact h_s1
        · refine .ite ?_ ?_
          · exact h_s1
          · refine .app ?_ (finishJob_stays ..) (by decide)
            exact h_s1
      · refine .ite ?_ ?_
        · refine .app ?_ (finishJob_stays ..) (by decide)
          exact h_s1
        · exact h_s1
  · exact .refl ..

theorem execZoneTableLoad_stays (req : Requester) (oar : Nat) (v : Word) (s : State) :
    Answers [.regs, .bus, .seen, .fabric, .stopped, .oars] s (execZoneTableLoad req oar v s) := by
  unfold execZoneTableLoad
  refine .next ?_
  refine .when _ _ (fun u hu => ?_) ?_
  · refine withWrite_stays _ _ _ _ _ ?_ (by decide) ?_
    · intro u1 hu1
      refine .ite ?_ ?_
      · exact hu1
      · refine .ite ?_ ?_
        · refine .app ?_ (raise_stays ..) (by decide)
          exact hu1
        · refine .app ?_ (modOar_stays ..) (by decide)
          refine .app ?_ (State.setBit_stays ..) (by decide)
          refine .app ?_ (State.setBit_stays ..) (by decide)
          exact hu1
    · exact hu
  · exact .refl ..

theorem execZoneTableDone_stays (oar : Nat) (firstBad : Bool) (s : State) :
    Answers [.regs, .seen, .fabric, .stopped, .oars, .checks, .boat] s (execZoneTableDone oar firstBad s) := by
  unfold execZoneTableDone
  refine .next ?_
  refine .when _ _ (fun u hu => ?_) ?_
  · refine underCredit_stays _ _ _ ?_ (by decide) ?_
    · intro u1 hu1
      extract_lets -underBinder -merge -useContext +onlyGivenNames a r1 bad1 r2 s1
      have h_r1 : Stays [.regs, .seen, .fabric, .stopped, .oars, .checks, .boat] s r1.2.2 := by
        dsimp -zeta only [r1]
        refine .app ?_ (fetchWords_stays ..) (by decide)
        exact hu1
      clear_value r1
      have h_r2 : Stays [.regs, .seen, .fabric, .stopped, .oars, .checks, .boat] s r2.2.2 := by
        dsimp -zeta only [r2]
        split
        · rename_i e
          refine .app ?_ (fetchWords_stays ..) (by decide)
          exact h_r1
        · rename_i e
          exact h_r1
      clear_value r2
      have h_s1 : Stays [.regs, .seen, .fabric, .stopped, .oars, .checks, .boat] s s1 := by
        dsimp -zeta only [s1]
        refine .app ?_ (State.setBit_stays ..) (by decide)
        exact h_r2
      clear_value s1
      split
      · rename_i bad11 x1 val1 c1 e e1
        refine .app ?_ (lasting_stays ..) (by decide)
        refine .app ?_ (State.setBit_stays ..) (by decide)
        refine .app ?_ (State.setFld_stays ..) (by decide)
        exact h_s1
      · rename_i bad11 x1 e
        extract_lets -underBinder -merge -useContext +onlyGivenNames w rpm servo st put s2 s3
        have h_s2 : Stays [.regs, .seen, .fabric, .stopped, .oars, .checks, .boat] s s2 := by
          dsimp -zeta only [s2]
          refine .app ?_ (modOar_stays ..) (by decide)
          exact h_s1
        clear_value s2
        have h_s3 : Stays [.regs, .seen, .fabric, .stopped, .oars, .checks, .boat] s s3 := by
          dsimp -zeta only [s3]
          refine .app ?_ (State.setReg_stays ..) (by decide)
          refine .app ?_ (State.setReg_stays ..) (by decide)
          refine .app ?_ (State.setReg_stays ..) (by decide)
          exact h_s2
        clear_value s3
        clear_value bad1
        split
        · rename_i x2 p1
          refine .app ?_ (transient_stays ..) (by decide)
          exact h_s3
        · rename_i x2
          exact h_s3
    · exact hu
  · exact .refl ..

theorem execRelocTableLoad_stays (req : Requester) (oar : Nat) (v : Word) (s : State) :
    Answers [.regs, .bus, .seen, .fabric, .stopped, .oars] s (execRelocTableLoad req oar v s) := by
  unfold execRelocTableLoad
  refine .next ?_
  refine .when _ _ (fun u hu => ?_) ?_
  · refine withWrite_stays _ _ _ _ _ ?_ (by decide) ?_
    · intro u1 hu1
      refine .ite ?_ ?_
      · exact hu1
      · refine .ite ?_ ?_
        · refine .app ?_ (raise_stays ..) (by decide)
          exact hu1
        · refine .app ?_ (modOar_stays ..) (by decide)
          refine .app ?_ (State.setReg_stays ..) (by decide)
          refine .app ?_ (State.setBit_stays ..) (by decide)
          exact hu1
    · exact hu
  · exact .refl ..

theorem fetchRelocs_stays (o : Nat) (s : State) :
    Stays [.regs, .seen, .fabric, .stopped, .checks, .boat] s (fetchRelocs o s).2.2 := by
  unfold fetchRelocs
  extract_lets -underBinder -merge -useContext +onlyGivenNames a h n r
  have h_h : Stays [.regs, .seen, .fabric, .stopped, .checks, .boat] s h.2.2 := by
    dsimp -zeta only [h]
    refine .app ?_ (fetchWords_stays ..) (by decide)
    exact .refl ..
  clear_value h
  have h_r : Stays [.regs, .seen, .fabric, .stopped, .checks, .boat] s r.2.2 := by
    dsimp -zeta only [r]
    refine .app ?_ (fetchWords_stays ..) (by decide)
    exact h_h
  clear_value r
  refine .triple ?_
  exact h_r

theorem execRelocTableDone_stays (oar : Nat) (firstBad : Bool) (s : State) :
    Answers [.regs, .seen, .fabric, .stopped, .oars, .checks, .boat] s (execRelocTableDone oar firstBad s) := by
  unfold execRelocTableDone
  refine .next ?_
  refine .when _ _ (fun u hu => ?_) ?_
  · refine underCredit_stays _ _ _ ?_ (by decide) ?_
    · intro u1 hu1
      extract_lets -underBinder -merge -useContext +onlyGivenNames r1 bad1 r2 s1
      have h_r1 : Stays [.regs, .seen, .fabric, .stopped, .oars, .checks, .boat] s r1.2.2 := by
        dsimp -zeta only [r1]
        refine .app ?_ (fetchRelocs_stays ..) (by decide)
        exact hu1
      clear_value r1
      have h_r2 : Stays [.regs, .seen, .fabric, .stopped, .oars, .checks, .boat] s r2.2.2 := by
        dsimp -zeta only [r2]
        split
        · rename_i e
          refine .app ?_ (fetchRelocs_stays ..) (by decide)
          exact h_r1
        · rename_i e
          exact h_r1
      clear_value r2
      have h_s1 : Stays [.regs, .seen, .fabric, .stopped, .oars, .checks, .boat] s s1 := by
        dsimp -zeta only [s1]
        refine .app ?_ (State.setBit_stays ..) (by decide)
        exact h_r2
      clear_value s1
      split
      · rename_i bad11 x1 val1 c1 e e1
        refine .app ?_ (lasting_stays ..) (by decide)
        refine .app ?_ (State.setFld_stays ..) (by decide)
        exact h_s1
      · rename_i bad11 x1 e
        extract_lets -underBinder -merge -useContext +onlyGivenNames n s2 s3
        have h_s2 : Stays [.regs, .seen, .fabric, .stopped, .oars, .checks, .boat] s s2 := by
          dsimp -zeta only [s2]
          refine .app ?_ (modOar_stays ..) (by decide)
          exact h_s1
        clear_value s2
        have h_s3 : Stays [.regs, .seen, .fabric, .stopped, .oars, .checks, .boat] s s3 := by
          dsimp -zeta only [s3]
          refine .app ?_ (State.setFld_stays ..) (by decide)
          refine .app ?_ (State.setBit_stays ..) (by decide)
          exact h_s2
        clear_value s3
        clear_value bad1
        split
        · rename_i x2 p1
          refine .app ?_ (transient_stays ..) (by decide)
          exact h_s3
        · rename_i x2
          exact h_s3
    · exact hu
  · exact .refl ..

theorem execRtAdd_stays (req : Requester) (oar : Nat) (v : Word) (s : State) :
    Answers [.regs, .bus, .seen, .fabric, .stopped, .oars] s (execRtAdd req oar v s) := by
  unfold execRtAdd
  refine .next ?_
  refine .when _ _ (fun u hu => ?_) ?_
  · refine withWrite_stays _ _ _ _ _ ?_ (by decide) ?_
    · intro u1 hu1
      extract_lets -underBinder -merge -useContext +onlyGivenNames r old c s1 new
      have h_s1 : Stays [.regs, .bus, .seen, .fabric, .stopped, .oars] s s1 := by
        dsimp -zeta only [s1]
        refine .app ?_ (State.setFld_stays ..) (by decide)
        exact hu1
      clear_value s1
      refine .ite ?_ ?_
      · exact hu1
      · refine .ite ?_ ?_
        · refine .app ?_ (lasting_stays ..) (by decide)
          exact h_s1
        · refine .ite ?_ ?_
          · exact h_s1
          · refine .app ?_ (State.setFld_stays ..) (by decide)
            refine .app ?_ (modOar_stays ..) (by decide)
            exact h_s1
    · exact hu
  · exact .refl ..

theorem execSwArmWrite_stays (req : Requester) (oar : Nat) (v : Word) (s : State) :
    Answers [.regs, .bus, .seen, .fabric, .stopped] s (execSwArmWrite req oar v s) := by
  unfold execSwArmWrite
  refine .next ?_
  refine .when _ _ (fun u hu => ?_) ?_
  · refine withWrite_stays _ _ _ _ _ ?_ (by decide) ?_
    · intro u1 hu1
      refine .app ?_ (State.setReg_stays ..) (by decide)
      exact hu1
    · exact hu
  · exact .refl ..

end Sys2Proof.Machine
end

