-- ==== Sys2Proof/Laws/StaysStripeOps.lean ====
section
/-! SUPPORT. What the operations and meanings of Machine/StripeOps do at most. -/

set_option linter.all false
set_option maxRecDepth 4000

namespace Sys2Proof.Machine

theorem modJob_stays (id : Nat) (f : StripeJob → StripeJob) (s : State) :
    Stays [.crew] s (modJob id f s) := by
  unfold modJob
  refine .app ?_ (modCrew_stays ..) (by decide)
  exact .refl ..

theorem setStripeHeld_stays (c : Nat) (n : Nat) (s : State) :
    Stays [.crew] s (setStripeHeld c n s) := by
  unfold setStripeHeld
  refine .app ?_ (modCrew_stays ..) (by decide)
  exact .refl ..

theorem returnStatus_stays (port : Nat) (ws : List Word) (status : Nat) (s : State) :
    Stays [.regs, .seen, .fabric, .returned] s (returnStatus port ws status s) := by
  unfold returnStatus
  refine .ite ?_ ?_
  · exact .refl ..
  · refine .ite ?_ ?_
    · refine .app ?_ (sendBack_stays ..) (by decide)
      exact .refl ..
    · refine .app ?_ (raise_stays ..) (by decide)
      exact .refl ..

theorem addJob_stays (kind : Nat) (cls : Nat) (port : Nat) (engine : Nat) (ws : List Word) (rows : List Nat) (s : State) :
    Stays [.crew] s (addJob kind cls port engine ws rows s) := by
  unfold addJob
  extract_lets -underBinder -merge -useContext +onlyGivenNames j
  refine .app ?_ (setStripeHeld_stays ..) (by decide)
  refine .app ?_ (modCrew_stays ..) (by decide)
  exact .refl ..

theorem dropJob_stays (j : StripeJob) (s : State) :
    Stays [.crew] s (dropJob j s) := by
  unfold dropJob
  refine .app ?_ (setStripeHeld_stays ..) (by decide)
  refine .app ?_ (modCrew_stays ..) (by decide)
  exact .refl ..

theorem flushCrew_stays (s : State) :
    Stays [.regs, .seen, .fabric, .queues, .ended, .returned, .boat, .crew] s (flushCrew s) := by
  unfold flushCrew
  refine .foldl _ _ (fun u x hu => ?_) ?_
  · extract_lets -underBinder -merge -useContext +onlyGivenNames u_1
    have h_u_1 : Stays [.regs, .seen, .fabric, .queues, .ended, .returned, .boat, .crew] s u_1 := by
      dsimp -zeta only [u_1]
      refine .app ?_ (modCrew_stays ..) (by decide)
      exact hu
    clear_value u_1
    refine .ite ?_ ?_
    · split
      · rename_i x1 e
        exact hu
      · rename_i x1 v1 e
        refine .app ?_ (sendBack_stays ..) (by decide)
        refine .app ?_ (qPush_stays _ _ _ _ _ e) (by decide)
        exact h_u_1
      · rename_i x1 v1 snd1 e e1
        refine .app ?_ (qPush_stays _ _ _ _ _ e1) (by decide)
        exact h_u_1
    · exact hu
  · exact .refl ..

theorem pushRun_stays (id : Nat) (ty : Nat) (head : Nat) (msn : Nat) (keys : List Nat) (body : List Word) (s : State) :
    Stays [.crew] s (pushRun id ty head msn keys body s) := by
  unfold pushRun
  split
  · rename_i x1 e
    exact .refl ..
  · rename_i x1 j1 e
    split
    · rename_i x2 e1
      refine .app ?_ (modJob_stays ..) (by decide)
      exact .refl ..
    · rename_i x2 t1 sec1 e1
      extract_lets -underBinder -merge -useContext +onlyGivenNames tag prio pkt s1
      have h_s1 : Stays [.crew] s s1 := by
        dsimp -zeta only [s1]
        refine .app ?_ (modJob_stays ..) (by decide)
        exact .refl ..
      clear_value s1
      refine .app ?_ (modCrew_stays ..) (by decide)
      exact h_s1

theorem openHost_stays (body : List Word) (p : List Byte) (s : State) :
    Stays [.regs, .seen, .fabric, .cryptos] s (openHost body p s).2 := by
  unfold openHost
  split
  · rename_i e
    split
    · rename_i x1 e1
      refine .pair ?_
      refine .app ?_ (keyEnded_stays ..) (by decide)
      exact .refl ..
    · rename_i x1 k1 e1
      extract_lets -underBinder -merge -useContext +onlyGivenNames r
      have h_r : Stays [.regs, .seen, .fabric, .cryptos] s r.2 := by
        dsimp -zeta only [r]
        refine .app ?_ (xtsPass_stays ..) (by decide)
        exact .refl ..
      clear_value r
      refine .pair ?_
      exact h_r
  · rename_i e
    refine .pair ?_
    exact .refl ..

theorem landSector_stays (body : List Word) (mask : Nat) (p : Option (List Byte)) (s : State) :
    Stays [.regs, .seen, .fabric, .stopped, .free, .mem, .checks, .boat, .cryptos] s (landSector body mask p s).2 := by
  unfold landSector
  extract_lets -underBinder -merge -useContext +onlyGivenNames r pay x
  have h_r : Stays [.regs, .seen, .fabric, .stopped, .free, .mem, .checks, .boat, .cryptos] s r.2 := by
    dsimp -zeta only [r]
    split
    · rename_i x1 b1
      refine .app ?_ (openHost_stays ..) (by decide)
      exact .refl ..
    · rename_i x1
      refine .pair ?_
      exact .refl ..
  clear_value r
  refine .pair ?_
  refine .foldl _ _ (fun u x1 hu => ?_) ?_
  · refine .app ?_ (landRange_stays ..) (by decide)
    exact hu
  · refine .ite ?_ ?_
    · refine .app ?_ (State.useFree_stays ..) (by decide)
      exact h_r
    · exact h_r

theorem buildHost_stays (j : StripeJob) (x : Nat) (s : State) :
    Stays [.regs, .seen, .fabric, .stopped, .checks, .boat, .cryptos] s (buildHost j x s).2 := by
  unfold buildHost
  split
  · rename_i x1 p1 t1 e
    refine .pair ?_
    refine .snd e ?_
    refine .app ?_ (assemblePayload_stays ..) (by decide)
    exact .refl ..
  · rename_i x1 a1 t1 e
    refine .pair ?_
    refine .snd e ?_
    refine .app ?_ (assemblePayload_stays ..) (by decide)
    exact .refl ..

theorem takeConsumed_stays (s : State) (c : Consumed) :
    Stays [.crew] s (takeConsumed s c) := by
  unfold takeConsumed
  refine .app ?_ (modJob_stays ..) (by decide)
  exact .refl ..

theorem endJournalRun_stays (copy : Nat) (good : Bool) (s : State) :
    Stays [.regs, .seen, .fabric, .crit, .stopped, .safePending, .crew] s (endJournalRun copy good s) := by
  unfold endJournalRun
  extract_lets -underBinder -merge -useContext +onlyGivenNames s1
  have h_s1 : Stays [.regs, .seen, .fabric, .crit, .stopped, .safePending, .crew] s s1 := by
    dsimp -zeta only [s1]
    refine .app ?_ (modCrew_stays ..) (by decide)
    exact .refl ..
  clear_value s1
  refine .ite ?_ ?_
  · refine .app ?_ (State.count_stays ..) (by decide)
    exact h_s1
  · refine .ite ?_ ?_
    · refine .app ?_ (copyLost_stays ..) (by decide)
      exact h_s1
    · exact h_s1

theorem takeReturned_stays (s : State) (ws : List Word) :
    Stays [.regs, .seen, .fabric, .crit, .stopped, .safePending, .crew] s (takeReturned s ws) := by
  unfold takeReturned
  extract_lets -underBinder -merge -useContext +onlyGivenNames tag status j1
  refine .ite ?_ ?_
  · exact .refl ..
  · refine .ite ?_ ?_
    · refine .app ?_ (endJournalRun_stays ..) (by decide)
      exact .refl ..
    · refine .ite ?_ ?_
      · refine .app ?_ (endJournalRun_stays ..) (by decide)
        exact .refl ..
      · split
        · rename_i x1 e
          exact .refl ..
        · rename_i x1 j2 e
          split
          · rename_i x2 e1
            exact .refl ..
          · rename_i x2 r1 e1
            refine .app ?_ (modJob_stays ..) (by decide)
            exact .refl ..

theorem crewDrain_stays (s : State) :
    Stays [.regs, .seen, .fabric, .crit, .queues, .ended, .stopped, .safePending, .returned, .consumed, .boat, .crew] s (crewDrain s) := by
  unfold crewDrain
  extract_lets -underBinder -merge -useContext +onlyGivenNames s1 mine s2
  have h_s1 : Stays [.regs, .seen, .fabric, .crit, .queues, .ended, .stopped, .safePending, .returned, .consumed, .boat, .crew] s s1 := by
    dsimp -zeta only [s1]
    refine .foldl _ _ (fun u x hu => ?_) ?_
    · refine .app ?_ (takeConsumed_stays ..) (by decide)
      exact hu
    · refine .app ?_ (.set_consumed _ _) (by decide)
      exact .refl ..
  clear_value s1
  have h_s2 : Stays [.regs, .seen, .fabric, .crit, .queues, .ended, .stopped, .safePending, .returned, .consumed, .boat, .crew] s s2 := by
    dsimp -zeta only [s2]
    refine .app ?_ (.set_returned _ _) (by decide)
    exact h_s1
  clear_value s2
  refine .app ?_ (flushCrew_stays ..) (by decide)
  refine .foldl _ _ (fun u x hu => ?_) ?_
  · refine .app ?_ (takeReturned_stays ..) (by decide)
    exact hu
  · exact h_s2

theorem pushReads_stays (id : Nat) (s : State) :
    Stays [.crew] s (pushReads id s) := by
  unfold pushReads
  split
  · rename_i x1 e
    exact .refl ..
  · rename_i x1 j1 e
    extract_lets -underBinder -merge -useContext +onlyGivenNames d lack
    refine .foldl _ _ (fun u x hu => ?_) ?_
    · extract_lets -underBinder -merge -useContext +onlyGivenNames cs
      refine .foldl _ _ (fun u1 x2 hu1 => ?_) ?_
      · extract_lets -underBinder -merge -useContext +onlyGivenNames st
        split
        · rename_i x3 e1
          exact hu1
        · rename_i x3 at_1 e1
          refine .app ?_ (pushRun_stays ..) (by decide)
          exact hu1
      · exact hu
    · exact .refl ..

theorem countParity_stays (e : Nat) (n : Nat) (s : State) :
    Stays [.regs, .crew] s (countParity e n s) := by
  unfold countParity
  extract_lets -underBinder -merge -useContext +onlyGivenNames b
  refine .app ?_ (State.count_stays ..) (by decide)
  refine .app ?_ (modCrew_stays ..) (by decide)
  exact .refl ..

theorem pushRaw_stays (id : Nat) (items : List RawSector) (s : State) :
    Stays [.regs, .seen, .fabric, .stopped, .mem, .checks, .boat, .crew] s (pushRaw id items s) := by
  unfold pushRaw
  split
  · rename_i x1 e
    exact .refl ..
  · rename_i x1 j1 e
    extract_lets -underBinder -merge -useContext +onlyGivenNames d s1
    have h_s1 : Stays [.regs, .seen, .fabric, .stopped, .mem, .checks, .boat, .crew] s s1 := by
      dsimp -zeta only [s1]
      refine .foldl _ _ (fun u x hu => ?_) ?_
      · refine .app ?_ (storeBytes_stays ..) (by decide)
        exact hu
      · refine .app ?_ (countParity_stays ..) (by decide)
        exact .refl ..
    clear_value s1
    refine .foldl _ _ (fun u x hu => ?_) ?_
    · extract_lets -underBinder -merge -useContext +onlyGivenNames mine of_ same
      refine .foldl _ _ (fun u1 x2 hu1 => ?_) ?_
      · split
        · rename_i x3 e1
          exact hu1
        · rename_i x3 x4 e1
          refine .app ?_ (pushRun_stays ..) (by decide)
          exact hu1
      · exact hu
    · exact h_s1

theorem loseRow_stays (id : Nat) (c : Nat) (s : State) :
    Stays [.regs, .seen, .fabric, .stopped, .mem, .checks, .boat, .crew] s (loseRow id c s).2 := by
  unfold loseRow
  split
  · rename_i x1 e
    refine .pair ?_
    exact .refl ..
  · rename_i x1 j1 e
    extract_lets -underBinder -merge -useContext +onlyGivenNames d st ps r
    have h_r : Stays [.regs, .seen, .fabric, .stopped, .mem, .checks, .boat, .crew] s r.2 := by
      dsimp -zeta only [r]
      refine .app ?_ (loseStripe_stays ..) (by decide)
      exact .refl ..
    clear_value r
    refine .pair ?_
    refine .app ?_ (modJob_stays ..) (by decide)
    exact h_r

theorem stopJob_stays (id : Nat) (s : State) :
    Stays [.crew] s (stopJob id s) := by
  unfold stopJob
  split
  · rename_i x1 e
    exact .refl ..
  · rename_i x1 j1 e
    refine .app ?_ (modCrew_stays ..) (by decide)
    refine .app ?_ (modJob_stays ..) (by decide)
    exact .refl ..

theorem loseUnknown_stays (id : Nat) (s : State) :
    Stays [.regs, .seen, .fabric, .stopped, .mem, .checks, .boat, .crew] s (loseUnknown id s).2 := by
  unfold loseUnknown
  split
  · exact .refl ..
  · rename_i j _
    generalize List.range j.ctxs.length = cs
    suffices h : ∀ t : Bool × State, Stays [.regs, .seen, .fabric, .stopped, .mem, .checks, .boat, .crew] s t.2 →
        Stays [.regs, .seen, .fabric, .stopped, .mem, .checks, .boat, .crew] s (cs.foldl (fun t c =>
          if t.1 && (wantPos t.2 j c).any fun p => (content t.2 j c p).isNone then loseRow id c t.2 else t) t).2 from h _ (.refl ..)
    induction cs with
    | nil => exact fun t h => h
    | cons c cs ih =>
      intro t h
      refine ih _ ?_
      dsimp only
      split
      · exact .app h (loseRow_stays ..) (by decide)
      · exact h

theorem countRebuilt_stays (j : StripeJob) (s : State) :
    Stays [.regs] s (countRebuilt j s) := by
  unfold countRebuilt
  extract_lets -underBinder -merge -useContext +onlyGivenNames n
  refine .app ?_ (State.count_stays ..) (by decide)
  exact .refl ..

theorem landRows_stays (id : Nat) (s : State) :
    Stays [.regs, .seen, .fabric, .stopped, .free, .mem, .checks, .boat, .crew, .cryptos] s (landRows id s) := by
  unfold landRows
  split
  · rename_i x1 e
    exact .refl ..
  · rename_i x1 j1 e
    extract_lets -underBinder -merge -useContext +onlyGivenNames d
    refine .foldl _ _ (fun u x hu => ?_) ?_
    · refine .foldl _ _ (fun u1 x2 hu1 => ?_) ?_
      · extract_lets -underBinder -merge -useContext +onlyGivenNames x_1 r
        have h_r : Stays [.regs, .seen, .fabric, .stopped, .free, .mem, .checks, .boat, .crew, .cryptos] s r.2 := by
          dsimp -zeta only [r]
          refine .app ?_ (landSector_stays ..) (by decide)
          exact hu1
        clear_value r
        refine .ite ?_ ?_
        · refine .app ?_ (modJob_stays ..) (by decide)
          exact h_r
        · exact h_r
      · exact hu
    · exact .refl ..

theorem poisonRows_stays (id : Nat) (s : State) :
    Stays [.regs, .seen, .fabric, .stopped, .free, .mem, .checks, .boat, .cryptos] s (poisonRows id s) := by
  unfold poisonRows
  split
  · rename_i x1 e
    exact .refl ..
  · rename_i x1 j1 e
    extract_lets -underBinder -merge -useContext +onlyGivenNames d
    refine .foldl _ _ (fun u x hu => ?_) ?_
    · refine .foldl _ _ (fun u1 x2 hu1 => ?_) ?_
      · refine .app ?_ (landSector_stays ..) (by decide)
        exact hu1
      · exact hu
    · exact .refl ..

theorem fillErased_stays (id : Nat) (s : State) :
    Stays [.regs, .seen, .fabric, .stopped, .free, .mem, .checks, .boat, .cryptos] s (fillErased id s) := by
  unfold fillErased
  split
  · rename_i x1 e
    exact .refl ..
  · rename_i x1 j1 e
    extract_lets -underBinder -merge -useContext +onlyGivenNames d
    refine .foldl _ _ (fun u x hu => ?_) ?_
    · refine .foldl _ _ (fun u1 x2 hu1 => ?_) ?_
      · extract_lets -underBinder -merge -useContext +onlyGivenNames x_1 p
        refine .ite ?_ ?_
        · refine .app ?_ (landSector_stays ..) (by decide)
          exact hu1
        · exact hu1
      · exact hu
    · exact .refl ..

theorem pushHost_stays (id : Nat) (s : State) :
    Stays [.crew] s (pushHost id s) := by
  unfold pushHost
  split
  · rename_i x1 e
    exact .refl ..
  · rename_i x1 j1 e
    extract_lets -underBinder -merge -useContext +onlyGivenNames d st
    refine .foldl _ _ (fun u x hu => ?_) ?_
    · extract_lets -underBinder -merge -useContext +onlyGivenNames ks send copies t1
      have h_t1 : Stays [.crew] s t1 := by
        dsimp -zeta only [t1]
        dsimp -zeta only [send]
        split
        · rename_i x2 e1
          exact hu
        · rename_i x2 at_1 e1
          refine .foldl _ _ (fun u1 x3 hu1 => ?_) ?_
          · extract_lets -underBinder -merge -useContext +onlyGivenNames k0 x_1
            refine .app ?_ (pushRun_stays ..) (by decide)
            exact hu1
          · exact hu
      clear_value t1
      refine .ite ?_ ?_
      · dsimp -zeta only [send]
        split
        · rename_i x2 e1
          exact h_t1
        · rename_i x2 at_1 e1
          refine .foldl _ _ (fun u1 x3 hu1 => ?_) ?_
          · extract_lets -underBinder -merge -useContext +onlyGivenNames k0 x_1
            refine .app ?_ (pushRun_stays ..) (by decide)
            exact hu1
          · exact h_t1
      · exact h_t1
    · exact .refl ..

theorem newData_stays (j : StripeJob) (d : List Word) (k : Nat) (i : Nat) (s : State) :
    Stays [.regs, .seen, .fabric, .stopped, .checks, .boat, .cryptos] s (newData j d k i s).2 := by
  unfold newData
  split
  · rename_i x1 b1 e
    refine .pair ?_
    exact .refl ..
  · rename_i x1 e
    refine .app ?_ (buildHost_stays ..) (by decide)
    exact .refl ..

theorem rowParities_stays (s : State) (j : StripeJob) (d : List Word) (k : Nat) :
    Stays [.regs, .seen, .fabric, .stopped, .free, .checks, .boat, .cryptos] s (rowParities s j d k).2.2 := by
  unfold rowParities
  extract_lets -underBinder -merge -useContext +onlyGivenNames st cov news rest olds oldPar oldCov pars all ps
  have h_news : Stays [.regs, .seen, .fabric, .stopped, .free, .checks, .boat, .cryptos] s news.2.2 := by
    dsimp -zeta only [news]
    refine .foldlBy _ (fun y : List (Nat × List Byte) × Bool × State => y.2.2) _ _ (fun u x hu => ?_) ?_
    · split
      · rename_i x1 b1 t1 e
        refine .triple ?_
        refine .snd e ?_
        refine .app ?_ (newData_stays ..) (by decide)
        exact hu
      · rename_i x1 t1 e
        refine .triple ?_
        refine .app ?_ (State.useFree_stays ..) (by decide)
        refine .snd e ?_
        refine .app ?_ (newData_stays ..) (by decide)
        exact hu
    · dsimp -zeta only
      exact .refl ..
  clear_value news
  refine .triple ?_
  exact h_news

theorem pushParity_stays (id : Nat) (s : State) :
    Stays [.regs, .seen, .fabric, .stopped, .free, .mem, .checks, .boat, .crew, .cryptos] s (pushParity id s) := by
  unfold pushParity
  split
  · rename_i x1 e
    exact .refl ..
  · rename_i x1 j1 e
    extract_lets -underBinder -merge -useContext +onlyGivenNames d r s1 backs
    have h_r : Stays [.regs, .seen, .fabric, .stopped, .free, .mem, .checks, .boat, .crew, .cryptos] s r.2.2 := by
      dsimp -zeta only [r]
      refine .foldlBy _ (fun y : List RawSector × Bool × State => y.2.2) _ _ (fun u x hu => ?_) ?_
      · extract_lets -underBinder -merge -useContext +onlyGivenNames q mine
        have h_q : Stays [.regs, .seen, .fabric, .stopped, .free, .mem, .checks, .boat, .crew, .cryptos] s q.2.2 := by
          dsimp -zeta only [q]
          refine .app ?_ (rowParities_stays ..) (by decide)
          exact hu
        clear_value q
        refine .triple ?_
        exact h_q
      · dsimp -zeta only
        exact .refl ..
    clear_value r
    have h_s1 : Stays [.regs, .seen, .fabric, .stopped, .free, .mem, .checks, .boat, .crew, .cryptos] s s1 := by
      dsimp -zeta only [s1]
      refine .ite ?_ ?_
      · exact h_r
      · refine .app ?_ (modJob_stays ..) (by decide)
        exact h_r
    clear_value s1
    refine .app ?_ (pushRaw_stays ..) (by decide)
    exact h_s1

theorem patrolRows_stays (id : Nat) (s : State) :
    Stays [.regs, .seen, .fabric, .stopped, .mem, .checks, .boat, .crew] s (patrolRows id s) := by
  unfold patrolRows
  split
  · rename_i x1 e
    exact .refl ..
  · rename_i x1 j1 e
    extract_lets -underBinder -merge -useContext +onlyGivenNames bad fresh pay known s1 wrong
    have h_s1 : Stays [.regs, .seen, .fabric, .stopped, .mem, .checks, .boat, .crew] s s1 := by
      dsimp -zeta only [s1]
      refine .foldl _ _ (fun u x hu => ?_) ?_
      · refine .ite ?_ ?_
        · refine .app ?_ (lasting_stays ..) (by decide)
          exact hu
        · refine .app ?_ (transient_stays ..) (by decide)
          exact hu
      · refine .app ?_ (countRebuilt_stays ..) (by decide)
        exact .refl ..
    clear_value s1
    refine .ite ?_ ?_
    · refine .app ?_ (modJob_stays ..) (by decide)
      exact .refl ..
    · refine .app ?_ (modJob_stays ..) (by decide)
      refine .app ?_ (pushRaw_stays ..) (by decide)
      exact h_s1

theorem startBatch_stays (id : Nat) (s : State) :
    Stays [.crew] s (startBatch id s) := by
  unfold startBatch
  split
  · rename_i x1 e
    exact .refl ..
  · rename_i x1 j1 e
    refine .ite ?_ ?_
    · exact .refl ..
    · split
      · rename_i x2 e1
        exact .refl ..
      · rename_i x2 a1 e1
        extract_lets -underBinder -merge -useContext +onlyGivenNames rows d ctxs known
        refine .app ?_ (modCrew_stays ..) (by decide)
        refine .app ?_ (modJob_stays ..) (by decide)
        exact .refl ..

theorem actOnRows_stays (id : Nat) (s : State) :
    Stays [.regs, .seen, .fabric, .stopped, .free, .mem, .checks, .boat, .crew, .cryptos] s (actOnRows id s) := by
  unfold actOnRows
  split
  · exact .refl ..
  · extract_lets into hurt lost t
    have hi : ∀ n u, Stays [.regs, .seen, .fabric, .stopped, .free, .mem, .checks, .boat, .crew, .cryptos] s u → Stays [.regs, .seen, .fabric, .stopped, .free, .mem, .checks, .boat, .crew, .cryptos] s (into n u) := fun n u h => .app h (modJob_stays ..) (by decide)
    have ht : Stays [.regs, .seen, .fabric, .stopped, .free, .mem, .checks, .boat, .crew, .cryptos] s t :=
      .app (.ite (.refl ..) (.app (.refl ..) (countRebuilt_stays ..) (by decide))) (loseUnknown_stays ..) (by decide)
    clear_value t into lost hurt
    refine .ite (.app (.ite (.app ht (poisonRows_stays ..) (by decide)) ht) (stopJob_stays ..) (by decide)) ?_
    refine .ite (.app ht (patrolRows_stays ..) (by decide)) ?_
    refine .ite (hi _ _ (.app (.ite (.app ht (modJob_stays ..) (by decide)) ht) (pushRaw_stays ..) (by decide))) ?_
    refine .ite (hi _ _ (.app (.app ht (landRows_stays ..) (by decide)) (pushRaw_stays ..) (by decide))) ?_
    refine .ite (hi _ _ (.app (.app ht (fillErased_stays ..) (by decide)) (pushHost_stays ..) (by decide))) ?_
    refine .ite (hi _ _ (.app ht (pushRaw_stays ..) (by decide))) ?_
    refine .ite (hi _ _ (.app ht (pushRaw_stays ..) (by decide))) ?_
    exact .ite (hi _ _ (.app ht (pushRaw_stays ..) (by decide))) (hi _ _ ht)

theorem afterHost_stays (id : Nat) (s : State) :
    Stays [.regs, .seen, .fabric, .stopped, .free, .mem, .checks, .boat, .crew, .cryptos] s (afterHost id s) := by
  unfold afterHost
  split
  · rename_i x1 e
    exact .refl ..
  · rename_i x1 j1 e
    split
    · rename_i x2 e1
      refine .app ?_ (modJob_stays ..) (by decide)
      refine .app ?_ (pushParity_stays ..) (by decide)
      exact .refl ..
    · rename_i x2 e1
      refine .app ?_ (modJob_stays ..) (by decide)
      exact .refl ..

theorem enterStale_stays (id : Nat) (s : State) :
    Stays [.regs, .seen, .fabric, .crit, .queues, .ended, .stopped, .safePending, .oars, .sweep, .gates, .returned, .mem, .checks, .boat, .crew] s (enterStale id s) := by
  unfold enterStale
  split
  · rename_i x1 e
    exact .refl ..
  · rename_i x1 j1 e
    refine .foldl _ _ (fun u x hu => ?_) ?_
    · refine .ite ?_ ?_
      · refine .app ?_ (modCrew_stays ..) (by decide)
        exact hu
      · refine .ite ?_ ?_
        · exact hu
        · refine .app ?_ (addStale_stays ..) (by decide)
          exact hu
    · exact .refl ..

theorem endBatch_stays (id : Nat) (s : State) :
    Stays [.regs, .seen, .fabric, .crit, .queues, .ended, .stopped, .safePending, .oars, .sweep, .gates, .returned, .mem, .checks, .boat, .crew] s (endBatch id s) := by
  unfold endBatch
  split
  · rename_i x1 e
    exact .refl ..
  · rename_i x1 j1 e
    extract_lets -underBinder -merge -useContext +onlyGivenNames s1 lost r
    have h_s1 : Stays [.regs, .seen, .fabric, .crit, .queues, .ended, .stopped, .safePending, .oars, .sweep, .gates, .returned, .mem, .checks, .boat, .crew] s s1 := by
      dsimp -zeta only [s1]
      refine .app ?_ (enterStale_stays ..) (by decide)
      exact .refl ..
    clear_value s1
    have h_r : Stays [.regs, .seen, .fabric, .crit, .queues, .ended, .stopped, .safePending, .oars, .sweep, .gates, .returned, .mem, .checks, .boat, .crew] s r.2 := by
      dsimp -zeta only [r]
      clear_value lost
      split
      · rename_i x2
        refine .pair ?_
        exact h_s1
      · rename_i x2 x3 xs1
        extract_lets -underBinder -merge -useContext +onlyGivenNames q
        have h_q : Stays [.regs, .seen, .fabric, .crit, .queues, .ended, .stopped, .safePending, .oars, .sweep, .gates, .returned, .mem, .checks, .boat, .crew] s q.2 := by
          dsimp -zeta only [q]
          refine .app ?_ (loseRow_stays ..) (by decide)
          exact h_s1
        clear_value q
        refine .pair ?_
        refine .app ?_ (modJob_stays ..) (by decide)
        exact h_q
    clear_value r
    refine .ite ?_ ?_
    · refine .app ?_ (stopJob_stays ..) (by decide)
      exact h_r
    · refine .app ?_ (modCrew_stays ..) (by decide)
      refine .app ?_ (modJob_stays ..) (by decide)
      exact h_r

theorem stepRecord_stays (id : Nat) (s : State) :
    Stays [.regs, .seen, .fabric, .stopped, .mem, .checks, .boat, .crew] s (stepRecord id s) := by
  unfold stepRecord
  split
  · rename_i x1 e
    exact .refl ..
  · rename_i x1 j1 e
    extract_lets -underBinder -merge -useContext +onlyGivenNames n bare
    refine .ite ?_ ?_
    · exact .refl ..
    · refine .app ?_ (modJob_stays ..) (by decide)
      refine .app ?_ (openRecord_stays ..) (by decide)
      exact .refl ..

theorem stepHold_stays (id : Nat) (s : State) :
    Stays [.crew] s (stepHold id s) := by
  unfold stepHold
  split
  · rename_i x1 e
    exact .refl ..
  · rename_i x1 j1 e
    refine .ite ?_ ?_
    · refine .app ?_ (modJob_stays ..) (by decide)
      exact .refl ..
    · exact .refl ..

theorem inPhase_stays {P : List Piece} {s0 : State} (n : Nat) (id : Nat) (f : Nat → State → State) (s : State) (h_f : ∀ a0 u, Stays P s0 u → Stays P s0 (f a0 u)) (hq : sub [.boat] P = true) (h0 : Stays P s0 s) :
    Stays P s0 (inPhase n id f s) := by
  unfold inPhase
  split
  · rename_i x1 e
    exact h0
  · rename_i x1 j1 e
    refine .ite ?_ ?_
    · refine underCredit_stays _ _ _ ?_ (sub_trans (by decide) hq) ?_
      · intro u hu
        refine h_f _ _ ?_
        exact hu
      · exact h0
    · exact h0

theorem stepRead_stays (id : Nat) (s : State) :
    Stays [.regs, .seen, .fabric, .stopped, .free, .mem, .checks, .boat, .crew, .cryptos] s (stepRead id s) := by
  unfold stepRead
  split
  · rename_i x1 e
    exact .refl ..
  · rename_i x1 j1 e
    refine .ite ?_ ?_
    · refine .app ?_ (actOnRows_stays ..) (by decide)
      exact .refl ..
    · refine .app ?_ (pushReads_stays ..) (by decide)
      exact .refl ..

theorem stepJob_stays (id : Nat) (s : State) :
    Stays [.regs, .seen, .fabric, .crit, .queues, .ended, .stopped, .free, .safePending, .oars, .sweep, .gates, .returned, .mem, .checks, .boat, .crew, .cryptos] s (stepJob id s) := by
  unfold stepJob
  refine .app ?_ (flushCrew_stays ..) (by decide)
  refine inPhase_stays _ _ _ _ ?_ (by decide) ?_
  · intro x u hu
    refine .app ?_ (endBatch_stays ..) (by decide)
    exact hu
  · refine inPhase_stays _ _ _ _ ?_ (by decide) ?_
    · intro x u hu
      refine .app ?_ (afterHost_stays ..) (by decide)
      exact hu
    · refine inPhase_stays _ _ _ _ ?_ (by decide) ?_
      · intro x u hu
        refine .app ?_ (stepRead_stays ..) (by decide)
        exact hu
      · refine inPhase_stays _ _ _ _ ?_ (by decide) ?_
        · intro x u hu
          refine .app ?_ (startBatch_stays ..) (by decide)
          exact hu
        · refine .app ?_ (stepRecord_stays ..) (by decide)
          refine .app ?_ (stepHold_stays ..) (by decide)
          exact .refl ..

theorem pushRings_stays (id : Nat) (s : State) :
    Stays [.regs, .seen, .fabric, .queues, .ended, .returned, .boat, .crew] s (pushRings id s) := by
  unfold pushRings
  split
  · rename_i x1 e
    exact .refl ..
  · rename_i x1 j1 e
    refine .app ?_ (flushCrew_stays ..) (by decide)
    refine .foldl _ _ (fun u x hu => ?_) ?_
    · refine .foldl _ _ (fun u1 x2 hu1 => ?_) ?_
      · refine .app ?_ (pushRun_stays ..) (by decide)
        exact hu1
      · exact hu
    · exact .refl ..

theorem moveJobs_stays (e : Nat) (e2 : Nat) (s : State) :
    Stays [.regs, .seen, .fabric, .queues, .ended, .returned, .boat, .crew] s (moveJobs e e2 s) := by
  unfold moveJobs
  extract_lets -underBinder -merge -useContext +onlyGivenNames all rings s1
  have h_s1 : Stays [.regs, .seen, .fabric, .queues, .ended, .returned, .boat, .crew] s s1 := by
    dsimp -zeta only [s1]
    refine .app ?_ (modCrew_stays ..) (by decide)
    exact .refl ..
  clear_value s1
  refine .foldl _ _ (fun u x hu => ?_) ?_
  · refine .app ?_ (pushRings_stays ..) (by decide)
    exact hu
  · exact h_s1

theorem crewCheck_stays (e : Nat) (s : State) :
    Stays [.regs, .seen, .fabric, .queues, .ended, .returned, .boat, .crew] s (crewCheck e s) := by
  unfold crewCheck
  split
  · rename_i x1 i1 e1
    refine .app ?_ (moveJobs_stays ..) (by decide)
    exact .refl ..
  · rename_i x1 e1
    extract_lets -underBinder -merge -useContext +onlyGivenNames mine
    refine .foldl _ _ (fun u x hu => ?_) ?_
    · refine .app ?_ (dropJob_stays ..) (by decide)
      refine .app ?_ (returnStatus_stays ..) (by decide)
      exact hu
    · refine .app ?_ (moveJobs_stays ..) (by decide)
      exact .refl ..

end Sys2Proof.Machine
end

