-- ==== Sys2Proof/Laws/StaysHostOps.lean ====
section
/-! SUPPORT. What the operations and meanings of Machine/HostOps do at most. -/

set_option linter.all false
set_option maxRecDepth 4000

namespace Sys2Proof.Machine

theorem resource_stays (o : Nat) (s : State) :
    Stays [.slip] s (resource o s) := by
  unfold resource
  refine .foldl _ _ (fun u x hu => ?_) ?_
  · extract_lets -underBinder -merge -useContext +onlyGivenNames bs src ms
    refine .ite ?_ ?_
    · exact hu
    · refine .app ?_ (modTask_stays ..) (by decide)
      exact hu
  · exact .refl ..

theorem dropHaz_stays (e : Nat) (s : State) :
    Stays [.slip] s (dropHaz e s) := by
  unfold dropHaz
  refine .app ?_ (modSlip_stays ..) (by decide)
  refine .app ?_ (setHaz_stays ..) (by decide)
  exact .refl ..

theorem returnCredit_stays (id : Nat) (s : State) :
    Stays [.slip] s (returnCredit id s) := by
  unfold returnCredit
  split
  · rename_i x1 e
    exact .refl ..
  · rename_i x1 t1 e
    extract_lets -underBinder -merge -useContext +onlyGivenNames fw s1
    have h_s1 : Stays [.slip] s s1 := by
      dsimp -zeta only [s1]
      refine .foldl _ _ (fun u x hu => ?_) ?_
      · refine .app ?_ (dropHaz_stays ..) (by decide)
        exact hu
      · refine .app ?_ (modTask_stays ..) (by decide)
        exact .refl ..
    clear_value s1
    refine .ite ?_ ?_
    · refine .app ?_ (modSlip_stays ..) (by decide)
      exact h_s1
    · exact h_s1

theorem settleTask_stays (s : State) (id : Nat) :
    Stays [.slip] s (settleTask s id) := by
  unfold settleTask
  split
  · rename_i x1 e
    exact .refl ..
  · rename_i x1 t1 e
    extract_lets -underBinder -merge -useContext +onlyGivenNames s1 ended free s2 s3
    have h_s1 : Stays [.slip] s s1 := by
      dsimp -zeta only [s1]
      split
      · rename_i x2 x3 e1 e2 e3
        extract_lets -underBinder -merge -useContext +onlyGivenNames u
        have h_u : Stays [.slip] s u := by
          dsimp -zeta only [u]
          refine .app ?_ (modTask_stays ..) (by decide)
          refine .app ?_ (dropHaz_stays ..) (by decide)
          exact .refl ..
        clear_value u
        refine .ite ?_ ?_
        · refine .app ?_ (resource_stays ..) (by decide)
          exact h_u
        · exact h_u
      · rename_i x2 x3 e1
        exact .refl ..
    clear_value s1
    have h_s2 : Stays [.slip] s s2 := by
      dsimp -zeta only [s2]
      refine .ite ?_ ?_
      · refine .app ?_ (modTask_stays ..) (by decide)
        exact h_s1
      · exact h_s1
    clear_value s2
    have h_s3 : Stays [.slip] s s3 := by
      dsimp -zeta only [s3]
      refine .ite ?_ ?_
      · refine .app ?_ (returnCredit_stays ..) (by decide)
        exact h_s2
      · exact h_s2
    clear_value s3
    split
    · rename_i x2 w1 e1
      refine .ite ?_ ?_
      · refine .app ?_ (modSlip_stays ..) (by decide)
        exact h_s3
      · exact h_s3
    · rename_i x2 e1
      exact h_s3

theorem stopTask_stays (t : HostTask) (s : State) :
    Stays [.regs, .seen, .fabric, .stopped, .mem, .checks, .boat, .slip] s (stopTask t s) := by
  unfold stopTask
  extract_lets -underBinder -merge -useContext +onlyGivenNames spare s1 s2 inJobs
  have h_s1 : Stays [.regs, .seen, .fabric, .stopped, .mem, .checks, .boat, .slip] s s1 := by
    dsimp -zeta only [s1]
    refine .foldl _ _ (fun u x hu => ?_) ?_
    · refine .app ?_ (releaseDirty_stays ..) (by decide)
      exact hu
    · exact .refl ..
  clear_value s1
  have h_s2 : Stays [.regs, .seen, .fabric, .stopped, .mem, .checks, .boat, .slip] s s2 := by
    dsimp -zeta only [s2]
    refine .app ?_ (modBoat_stays ..) (by decide)
    exact h_s1
  clear_value s2
  refine .app ?_ (modTask_stays ..) (by decide)
  refine .app ?_ (releaseTask_stays ..) (by decide)
  exact h_s2

theorem endTask_stays (id : Nat) (s : State) :
    Stays [.regs, .seen, .fabric, .stopped, .mem, .checks, .boat, .slip] s (endTask id s) := by
  unfold endTask
  split
  · rename_i x1 e
    exact .refl ..
  · rename_i x1 t1 e
    extract_lets -underBinder -merge -useContext +onlyGivenNames s1 s2
    have h_s1 : Stays [.regs, .seen, .fabric, .stopped, .mem, .checks, .boat, .slip] s s1 := by
      dsimp -zeta only [s1]
      refine .app ?_ (stopTask_stays ..) (by decide)
      exact .refl ..
    clear_value s1
    have h_s2 : Stays [.regs, .seen, .fabric, .stopped, .mem, .checks, .boat, .slip] s s2 := by
      dsimp -zeta only [s2]
      split
      · rename_i x2 c1 x3 e1
        refine .app ?_ (setSvc_stays ..) (by decide)
        exact h_s1
      · rename_i x2 e1
        exact h_s1
    clear_value s2
    refine .ite ?_ ?_
    · exact .refl ..
    · refine .app ?_ (settleTask_stays ..) (by decide)
      refine .app ?_ (modTask_stays ..) (by decide)
      exact h_s2

theorem endNexusTasks_stays (n : Nat) (s : State) :
    Stays [.regs, .seen, .fabric, .stopped, .mem, .checks, .boat, .slip] s (endNexusTasks n s) := by
  unfold endNexusTasks
  refine .foldl _ _ (fun u x hu => ?_) ?_
  · refine .app ?_ (endTask_stays ..) (by decide)
    exact hu
  · exact .refl ..

theorem pushHost__stays {P : List Piece} {s0 : State} (q : QueueId) (ws : Nat → List Word) (taken : Nat → State → State) (fault : State → State) (s : State) (h_taken : ∀ a0 u, Stays P s0 u → Stays P s0 (taken a0 u)) (h_fault : ∀ u, Stays P s0 u → Stays P s0 (fault u)) (hq : sub [.regs, .seen, .fabric, .queues, .ended, .returned, .boat, .slip] P = true) (h0 : Stays P s0 s) :
    Stays P s0 (pushHost_ q ws taken fault s) := by
  unfold pushHost_
  extract_lets -underBinder -merge -useContext +onlyGivenNames tag
  split
  · rename_i x1 v1 e
    refine h_fault _ ?_
    refine .app ?_ (qPush_stays _ _ _ _ _ e) (sub_trans (by decide) hq)
    exact h0
  · rename_i x1 v1 snd1 e e1
    refine h_taken _ _ ?_
    refine .app ?_ (modSlip_stays ..) (sub_trans (by decide) hq)
    refine .app ?_ (qPush_stays _ _ _ _ _ e1) (sub_trans (by decide) hq)
    exact h0
  · rename_i x1 e
    exact h0

theorem pushReadRun_stays (id : Nat) (run : List (Nat × HostSector × Nat × Nat × Nat)) (s : State) :
    Stays [.regs, .seen, .fabric, .queues, .ended, .returned, .boat, .slip] s (pushReadRun id run s) := by
  unfold pushReadRun
  split
  · rename_i x1 run1 x2 t1 m1 h1 head1 msn1 mask1 tail1 last1 e e1
    split
    · rename_i x3 x4 u1 trk1 sec1 e2 e3
      extract_lets -underBinder -merge -useContext +onlyGivenNames ty ms pkt
      refine pushHost__stays _ _ _ _ _ ?_ ?_ (by decide) ?_
      · intro x u hu
        refine .app ?_ (modTask_stays ..) (by decide)
        exact hu
      · intro u hu
        refine .app ?_ (modTask_stays ..) (by decide)
        exact hu
      · exact .refl ..
    · rename_i x3 x4 e2
      refine .app ?_ (modTask_stays ..) (by decide)
      exact .refl ..
  · rename_i run1 x1 run2 x2 e
    exact .refl ..

theorem pushStripeJob_stays (id : Nat) (kind : Nat) (known : Option Nat) (run : List (Nat × HostSector)) (s : State) :
    Stays [.regs, .seen, .fabric, .queues, .ended, .stopped, .free, .returned, .mem, .checks, .boat, .slip, .cryptos] s (pushStripeJob id kind known run s) := by
  unfold pushStripeJob
  split
  · rename_i x1 run1 x2 t1 m1 h1 tail1 fst1 l1 e e1
    split
    · rename_i x3 e2
      exact .refl ..
    · rename_i x3 u1 e2
      extract_lets -underBinder -merge -useContext +onlyGivenNames d off seed ms pkt gone
      refine pushHost__stays _ _ _ _ _ ?_ ?_ (by decide) ?_
      · intro x u hu
        refine .app ?_ (modTask_stays ..) (by decide)
        exact hu
      · intro u hu
        refine .ite ?_ ?_
        · refine .app ?_ (modTask_stays ..) (by decide)
          exact hu
        · refine .foldl _ _ (fun u2 x hu1 => ?_) ?_
          · refine .app ?_ (landSector_stays ..) (by decide)
            exact hu1
          · refine .app ?_ (modTask_stays ..) (by decide)
            exact hu
      · exact .refl ..
  · rename_i run1 x1 run2 x2 e
    exact .refl ..

theorem issueTask_stays (s : State) (id : Nat) :
    Stays [.regs, .seen, .fabric, .queues, .ended, .stopped, .free, .returned, .mem, .checks, .boat, .slip, .cryptos] s (issueTask s id) := by
  unfold issueTask
  split
  · rename_i x1 e
    exact .refl ..
  · rename_i x1 t1 e
    split
    · rename_i x2 x3 u1 e1 e2
      extract_lets -underBinder -merge -useContext +onlyGivenNames free plans served crew runs s1 full next s2
      have h_s1 : Stays [.regs, .seen, .fabric, .queues, .ended, .stopped, .free, .returned, .mem, .checks, .boat, .slip, .cryptos] s s1 := by
        dsimp -zeta only [s1]
        refine .app ?_ (modTask_stays ..) (by decide)
        exact .refl ..
      clear_value s1
      have h_s2 : Stays [.regs, .seen, .fabric, .queues, .ended, .stopped, .free, .returned, .mem, .checks, .boat, .slip, .cryptos] s s2 := by
        dsimp -zeta only [s2]
        refine .foldl _ _ (fun u x hu => ?_) ?_
        · refine .app ?_ (pushReadRun_stays ..) (by decide)
          exact hu
        · exact h_s1
      clear_value s2
      refine .ite ?_ ?_
      · refine .foldl _ _ (fun u x hu => ?_) ?_
        · refine .app ?_ (pushStripeJob_stays ..) (by decide)
          exact hu
        · exact .refl ..
      · refine .ite ?_ ?_
        · split
          · rename_i x4 e3
            exact h_s2
          · rename_i x4 t2 e3
            extract_lets -underBinder -merge -useContext +onlyGivenNames js
            refine .foldl _ _ (fun u x hu => ?_) ?_
            · refine .app ?_ (pushStripeJob_stays ..) (by decide)
              exact hu
            · exact h_s2
        · exact .refl ..
    · rename_i x2 x3 e1
      exact .refl ..

theorem markHeld_stays (s : State) :
    Stays [.regs, .slip] s (markHeld s) := by
  unfold markHeld
  refine .foldl _ _ (fun u x hu => ?_) ?_
  · extract_lets -underBinder -merge -useContext +onlyGivenNames h w
    have h_w : Stays [.regs, .slip] s w := by
      dsimp -zeta only [w]
      refine .app ?_ (modTask_stays ..) (by decide)
      exact hu
    clear_value w
    refine .ite ?_ ?_
    · exact hu
    · refine .ite ?_ ?_
      · exact hu
      · refine .ite ?_ ?_
        · refine .app ?_ (State.count_stays ..) (by decide)
          exact h_w
        · exact h_w
  · exact .refl ..

theorem verifyBlock_stays (t : HostTask) (u : Lu) (b : Nat) (s : State) :
    Stays [.regs, .seen, .fabric, .stopped, .checks, .boat] s (verifyBlock t u b s).2 := by
  unfold verifyBlock
  extract_lets -underBinder -merge -useContext +onlyGivenNames off r
  have h_r : Stays [.regs, .seen, .fabric, .stopped, .checks, .boat] s r.2.2.2 := by
    dsimp -zeta only [r]
    refine .app ?_ (readGranules_stays ..) (by decide)
    exact .refl ..
  clear_value r
  refine .pair ?_
  exact h_r

theorem scanVerify_stays (id : Nat) (ms : List Nat) (s : State) :
    Stays [.regs, .seen, .fabric, .stopped, .checks, .boat, .slip] s (scanVerify id ms s) := by
  unfold scanVerify
  split
  · rename_i x1 e
    exact .refl ..
  · rename_i x1 t1 e
    split
    · rename_i x2 x3 u1 e1 e2
      refine .foldl _ _ (fun u x hu => ?_) ?_
      · extract_lets -underBinder -merge -useContext +onlyGivenNames r
        have h_r : Stays [.regs, .seen, .fabric, .stopped, .checks, .boat, .slip] s r.2 := by
          dsimp -zeta only [r]
          refine .app ?_ (verifyBlock_stays ..) (by decide)
          exact hu
        clear_value r
        refine .ite ?_ ?_
        · refine .app ?_ (modTask_stays ..) (by decide)
          exact h_r
        · exact h_r
      · exact .refl ..
    · rename_i x2 x3 e1
      exact .refl ..

theorem sectorsLanded_stays (id : Nat) (ms : List Nat) (s : State) :
    Stays [.slip] s (sectorsLanded id ms s) := by
  unfold sectorsLanded
  refine .app ?_ (modTask_stays ..) (by decide)
  exact .refl ..

theorem runReturned_stays (t : HostTask) (h : Handed) (status : Nat) (count : Nat) (first : Nat) (s : State) :
    Stays [.regs, .seen, .fabric, .stopped, .checks, .boat, .slip] s (runReturned t h status count first s) := by
  unfold runReturned
  extract_lets -underBinder -merge -useContext +onlyGivenNames s1 bad badMs good pos dead crew s2 s3
  have h_s1 : Stays [.regs, .seen, .fabric, .stopped, .checks, .boat, .slip] s s1 := by
    dsimp -zeta only [s1]
    refine .app ?_ (modTask_stays ..) (by decide)
    exact .refl ..
  clear_value s1
  have h_s2 : Stays [.regs, .seen, .fabric, .stopped, .checks, .boat, .slip] s s2 := by
    dsimp -zeta only [s2]
    refine .app ?_ (modSlip_stays ..) (by decide)
    exact h_s1
  clear_value s2
  have h_s3 : Stays [.regs, .seen, .fabric, .stopped, .checks, .boat, .slip] s s3 := by
    dsimp -zeta only [s3]
    refine .app ?_ (sectorsLanded_stays ..) (by decide)
    refine .app ?_ (modTask_stays ..) (by decide)
    exact h_s2
  clear_value s3
  refine .ite ?_ ?_
  · refine .app ?_ (modTask_stays ..) (by decide)
    exact h_s2
  · refine .ite ?_ ?_
    · refine .app ?_ (scanVerify_stays ..) (by decide)
      exact h_s3
    · exact h_s3

theorem jobReturned_stays (t : HostTask) (h : Handed) (status : Nat) (s : State) :
    Stays [.regs, .seen, .fabric, .stopped, .free, .mem, .checks, .boat, .slip, .cryptos] s (jobReturned t h status s) := by
  unfold jobReturned
  extract_lets -underBinder -merge -useContext +onlyGivenNames s1 n s2
  have h_s1 : Stays [.regs, .seen, .fabric, .stopped, .free, .mem, .checks, .boat, .slip, .cryptos] s s1 := by
    dsimp -zeta only [s1]
    refine .app ?_ (sectorsLanded_stays ..) (by decide)
    refine .app ?_ (modTask_stays ..) (by decide)
    exact .refl ..
  clear_value s1
  have h_s2 : Stays [.regs, .seen, .fabric, .stopped, .free, .mem, .checks, .boat, .slip, .cryptos] s s2 := by
    dsimp -zeta only [s2]
    refine .ite ?_ ?_
    · exact h_s1
    · split
      · rename_i x1 e
        exact h_s1
      · rename_i x1 u1 e
        refine .foldl _ _ (fun u x hu => ?_) ?_
        · refine .app ?_ (landSector_stays ..) (by decide)
          exact hu
        · exact h_s1
  clear_value s2
  refine .ite ?_ ?_
  · refine .app ?_ (releaseTask_stays ..) (by decide)
    refine .ite ?_ ?_
    · refine .app ?_ (modTask_stays ..) (by decide)
      exact h_s1
    · exact h_s1
  · refine .app ?_ (scanVerify_stays ..) (by decide)
    exact h_s2

theorem takeHost_stays (s : State) (ws : List Word) :
    Stays [.regs, .seen, .fabric, .stopped, .free, .mem, .checks, .boat, .slip, .cryptos] s (takeHost s ws) := by
  unfold takeHost
  extract_lets -underBinder -merge -useContext +onlyGivenNames byTag w1
  refine .ite ?_ ?_
  · refine .app ?_ (modSlip_stays ..) (by decide)
    exact .refl ..
  · refine .ite ?_ ?_
    · split
      · rename_i x1 t1 h1 e
        refine .app ?_ (runReturned_stays ..) (by decide)
        exact .refl ..
      · rename_i x1 e
        exact .refl ..
    · refine .ite ?_ ?_
      · split
        · rename_i x1 t1 h1 e
          refine .app ?_ (jobReturned_stays ..) (by decide)
          exact .refl ..
        · rename_i x1 e
          exact .refl ..
      · exact .refl ..

theorem settleAll_stays (s : State) :
    Stays [.slip] s (settleAll s) := by
  unfold settleAll
  refine .foldl _ _ (fun u x hu => ?_) ?_
  · refine .app ?_ (settleTask_stays ..) (by decide)
    exact hu
  · exact .refl ..

theorem hostDrain_stays (s : State) :
    Stays [.regs, .seen, .fabric, .queues, .ended, .stopped, .free, .returned, .mem, .checks, .boat, .slip, .cryptos] s (hostDrain s) := by
  unfold hostDrain
  extract_lets -underBinder -merge -useContext +onlyGivenNames mine s1 s2 s3
  have h_s1 : Stays [.regs, .seen, .fabric, .queues, .ended, .stopped, .free, .returned, .mem, .checks, .boat, .slip, .cryptos] s s1 := by
    dsimp -zeta only [s1]
    refine .app ?_ (.set_returned _ _) (by decide)
    exact .refl ..
  clear_value s1
  have h_s2 : Stays [.regs, .seen, .fabric, .queues, .ended, .stopped, .free, .returned, .mem, .checks, .boat, .slip, .cryptos] s s2 := by
    dsimp -zeta only [s2]
    refine .app ?_ (settleAll_stays ..) (by decide)
    refine .foldl _ _ (fun u x hu => ?_) ?_
    · refine .app ?_ (takeHost_stays ..) (by decide)
      exact hu
    · exact h_s1
  clear_value s2
  have h_s3 : Stays [.regs, .seen, .fabric, .queues, .ended, .stopped, .free, .returned, .mem, .checks, .boat, .slip, .cryptos] s s3 := by
    dsimp -zeta only [s3]
    refine .foldl _ _ (fun u x hu => ?_) ?_
    · refine .app ?_ (issueTask_stays ..) (by decide)
      exact hu
    · exact h_s2
  clear_value s3
  refine .ite ?_ ?_
  · exact .refl ..
  · refine .app ?_ (settleAll_stays ..) (by decide)
    refine .app ?_ (markHeld_stays ..) (by decide)
    exact h_s3

theorem enterTask_stays (id : Nat) (s : State) :
    Stays [.regs, .seen, .fabric, .slip] s (enterTask id s) := by
  unfold enterTask
  split
  · rename_i x1 e
    exact .refl ..
  · rename_i x1 t1 e
    refine .ite ?_ ?_
    · exact .refl ..
    · split
      · rename_i x2 x3 x4 a1 e1 u1 e2 e3 e4
        extract_lets -underBinder -merge -useContext +onlyGivenNames o seq s1 first head s2
        have h_s1 : Stays [.regs, .seen, .fabric, .slip] s s1 := by
          dsimp -zeta only [s1]
          refine .app ?_ (enterHaz_stays ..) (by decide)
          refine .app ?_ (modSlip_stays ..) (by decide)
          exact .refl ..
        clear_value s1
        have h_s2 : Stays [.regs, .seen, .fabric, .slip] s s2 := by
          dsimp -zeta only [s2]
          refine .app ?_ (modTask_stays ..) (by decide)
          exact h_s1
        clear_value s2
        refine .ite ?_ ?_
        · exact h_s2
        · refine .app ?_ (modTask_stays ..) (by decide)
          exact h_s2
      · rename_i x2 x3 x4 e1
        refine .app ?_ (sayFull_stays ..) (by decide)
        exact .refl ..
      · rename_i x2 x3 x4 e1 e2
        exact .refl ..

end Sys2Proof.Machine
end

