-- ==== Sys2Proof/Laws/StaysFrames.lean ====
section
/-! SUPPORT. What the operations and meanings of Machine/Frames do at most. -/

set_option linter.all false
set_option maxRecDepth 4000

namespace Sys2Proof.Machine

theorem responseOver_stays (f : TxFrame) (s : State) :
    Stays [.slip] s (responseOver f s) := by
  unfold responseOver
  refine .ite ?_ ?_
  · refine .app ?_ (settleTask_stays ..) (by decide)
    refine .app ?_ (returnCredit_stays ..) (by decide)
    exact .refl ..
  · exact .refl ..

theorem frameLost_stays (l : Nat) (ascq : Nat) (f : TxFrame) (s : State) :
    Stays [.regs, .seen, .fabric, .stopped, .mem, .checks, .boat, .slip] s (frameLost l ascq f s) := by
  unfold frameLost
  extract_lets -underBinder -merge -useContext +onlyGivenNames s1
  have h_s1 : Stays [.regs, .seen, .fabric, .stopped, .mem, .checks, .boat, .slip] s s1 := by
    dsimp -zeta only [s1]
    refine .app ?_ (lasting_stays ..) (by decide)
    exact .refl ..
  clear_value s1
  refine .ite ?_ ?_
  · split
    · rename_i x1 c1 x2 e
      refine .app ?_ (setSvc_stays ..) (by decide)
      exact h_s1
    · rename_i x1 e
      split
      · rename_i x2 t1 e1
        refine .app ?_ (failTask_stays ..) (by decide)
        refine .app ?_ (stopTask_stays ..) (by decide)
        exact h_s1
      · rename_i x2 e1
        exact h_s1
  · refine .app ?_ (responseOver_stays ..) (by decide)
    exact h_s1

theorem frameFailed_stays (l : Nat) (ascq : Nat) (f : TxFrame) (s : State) :
    Stays [.regs, .seen, .fabric, .stopped, .mem, .checks, .boat, .slip] s (frameFailed l ascq f s) := by
  unfold frameFailed
  refine .ite ?_ ?_
  · exact .refl ..
  · refine .ite ?_ ?_
    · refine .app ?_ (frameLost_stays ..) (by decide)
      exact .refl ..
    · refine .app ?_ (transmit_stays ..) (by decide)
      refine .app ?_ (State.count_stays ..) (by decide)
      exact .refl ..

theorem oldestFrame_stays {P : List Piece} {s0 : State} (l : Nat) (f : TxFrame → State → State) (s : State) (h_f : ∀ a0 u, Stays P s0 u → Stays P s0 (f a0 u)) (hq : sub [.slip] P = true) (h0 : Stays P s0 s) :
    Stays P s0 (oldestFrame l f s) := by
  unfold oldestFrame
  split
  · rename_i x1 x2 xs1 e
    refine h_f _ _ ?_
    refine .app ?_ (modLane_stays ..) (sub_trans (by decide) hq)
    exact h0
  · rename_i x1 e
    exact h0

theorem frameAcked_stays (l : Nat) (f : TxFrame) (s : State) :
    Stays [.regs, .seen, .fabric, .slip] s (frameAcked l f s) := by
  unfold frameAcked
  extract_lets -underBinder -merge -useContext +onlyGivenNames s1
  have h_s1 : Stays [.regs, .seen, .fabric, .slip] s s1 := by
    dsimp -zeta only [s1]
    refine .ite ?_ ?_
    · refine .app ?_ (transient_stays ..) (by decide)
      exact .refl ..
    · exact .refl ..
  clear_value s1
  refine .app ?_ (responseOver_stays ..) (by decide)
  exact h_s1

theorem dropNexusFrames_stays (n : Nat) (s : State) :
    Stays [.slip] s (dropNexusFrames n s) := by
  unfold dropNexusFrames
  refine .foldl _ _ (fun u x hu => ?_) ?_
  · extract_lets -underBinder -merge -useContext +onlyGivenNames mine
    refine .foldl _ _ (fun u1 x1 hu1 => ?_) ?_
    · refine .app ?_ (responseOver_stays ..) (by decide)
      exact hu1
    · refine .app ?_ (modLane_stays ..) (by decide)
      exact hu
  · exact .refl ..

theorem endNexus_stays (n : Nat) (s : State) :
    Stays [.regs, .seen, .fabric, .stopped, .mem, .checks, .boat, .slip] s (endNexus n s) := by
  unfold endNexus
  refine .app ?_ (endNexusTasks_stays ..) (by decide)
  refine .app ?_ (dropNexusFrames_stays ..) (by decide)
  exact .refl ..

theorem laneOff_stays (l : Nat) (s : State) :
    Stays [.regs] s (laneOff l s) := by
  unfold laneOff
  extract_lets -underBinder -merge -useContext +onlyGivenNames other
  refine .app ?_ (State.setBit_stays ..) (by decide)
  refine .app ?_ (State.setBit_stays ..) (by decide)
  refine .app ?_ (State.setFld_stays ..) (by decide)
  exact .refl ..

theorem failFrames_stays (l : Nat) (s : State) :
    Stays [.regs, .seen, .fabric, .stopped, .mem, .checks, .boat, .slip] s (failFrames l s) := by
  unfold failFrames
  extract_lets -underBinder -merge -useContext +onlyGivenNames fs
  refine .foldl _ _ (fun u x hu => ?_) ?_
  · refine .ite ?_ ?_
    · exact hu
    · refine .app ?_ (frameLost_stays ..) (by decide)
      exact hu
  · refine .app ?_ (modLane_stays ..) (by decide)
    exact .refl ..

theorem laneCheck_stays (l : Nat) (s : State) :
    Stays [.regs, .seen, .fabric, .stopped, .mem, .checks, .boat, .slip] s (laneCheck l s) := by
  unfold laneCheck
  refine .ite ?_ ?_
  · refine .app ?_ (lasting_stays ..) (by decide)
    refine .app ?_ (failFrames_stays ..) (by decide)
    refine .app ?_ (modLane_stays ..) (by decide)
    refine .app ?_ (laneOff_stays ..) (by decide)
    exact .refl ..
  · refine .app ?_ (failFrames_stays ..) (by decide)
    exact .refl ..

end Sys2Proof.Machine
end

