-- ==== Sys2Proof/Laws/StaysUmpireOps.lean ====
section
/-! SUPPORT. What the operations and meanings of Machine/UmpireOps do at most. -/

set_option linter.all false
set_option maxRecDepth 4000

namespace Sys2Proof.Machine

theorem modUmp_stays (f : Umpire → Umpire) (s : State) :
    Stays [.ump] s (modUmp f s) := by
  unfold modUmp
  refine .app ?_ (.set_ump _ _) (by decide)
  exact .refl ..

theorem writeRecord_stays (ws : List Word) (s : State) :
    Stays [.regs, .seen, .fabric, .crit, .safePending, .ump] s (writeRecord ws s) := by
  unfold writeRecord
  extract_lets -underBinder -merge -useContext +onlyGivenNames h n fresh s1 s2 s3 t s4
  have h_s1 : Stays [.regs, .seen, .fabric, .crit, .safePending, .ump] s s1 := by
    dsimp -zeta only [s1]
    refine .app ?_ (modUmp_stays ..) (by decide)
    exact .refl ..
  clear_value s1
  have h_s2 : Stays [.regs, .seen, .fabric, .crit, .safePending, .ump] s s2 := by
    dsimp -zeta only [s2]
    refine .app ?_ (State.setFld_stays ..) (by decide)
    exact h_s1
  clear_value s2
  have h_s3 : Stays [.regs, .seen, .fabric, .crit, .safePending, .ump] s s3 := by
    dsimp -zeta only [s3]
    refine .ite ?_ ?_
    · refine .app ?_ (State.setFld_stays ..) (by decide)
      exact h_s2
    · exact h_s2
  clear_value s3
  have h_t : Stays [.regs, .seen, .fabric, .crit, .safePending, .ump] s t := by
    dsimp -zeta only [t]
    refine .app ?_ (State.setCritFld_stays ..) (by decide)
    exact h_s3
  clear_value t
  have h_s4 : Stays [.regs, .seen, .fabric, .crit, .safePending, .ump] s s4 := by
    dsimp -zeta only [s4]
    refine .ite ?_ ?_
    · refine .ite ?_ ?_
      · exact h_t
      · refine .app ?_ (raise_stays ..) (by decide)
        refine .app ?_ (modUmp_stays ..) (by decide)
        exact h_t
    · exact h_s3
  clear_value s4
  refine .ite ?_ ?_
  · refine .app ?_ (raise_stays ..) (by decide)
    refine .app ?_ (modUmp_stays ..) (by decide)
    exact h_s4
  · exact h_s4

theorem writeGap_stays (code : Nat) (first : Nat) (last : Nat) (p0 : Nat) (p1 : Nat) (s : State) :
    Stays [.regs, .seen, .fabric, .crit, .safePending, .ump] s (writeGap code first last p0 p1 s) := by
  unfold writeGap
  refine .app ?_ (modUmp_stays ..) (by decide)
  refine .app ?_ (writeRecord_stays ..) (by decide)
  exact .refl ..

theorem recordMsg_stays (m : Msg) (s : State) :
    Stays [.regs, .seen, .fabric, .crit, .safePending, .ump] s (recordMsg m s) := by
  unfold recordMsg
  split
  · rename_i x1 n1 e
    extract_lets -underBinder -merge -useContext +onlyGivenNames ws w0 wsx
    refine .app ?_ (modUmp_stays ..) (by decide)
    exact .refl ..
  · rename_i x1 e
    extract_lets -underBinder -merge -useContext +onlyGivenNames h
    refine .app ?_ (modUmp_stays ..) (by decide)
    refine .app ?_ (writeRecord_stays ..) (by decide)
    exact .refl ..

theorem umpArrive_stays (m : Msg) (aon : Bool) (s : State) :
    Stays [.regs, .seen, .fabric, .ump] s (umpArrive m aon s) := by
  unfold umpArrive
  extract_lets -underBinder -merge -useContext +onlyGivenNames s1
  have h_s1 : Stays [.regs, .seen, .fabric, .ump] s s1 := by
    dsimp -zeta only [s1]
    refine .app ?_ (State.count_stays ..) (by decide)
    exact .refl ..
  clear_value s1
  refine .ite ?_ ?_
  · refine .app ?_ (modUmp_stays ..) (by decide)
    exact .refl ..
  · split
    · rename_i x1 e
      refine .app ?_ (raise_stays ..) (by decide)
      refine .app ?_ (modUmp_stays ..) (by decide)
      exact h_s1
    · rename_i x1 a1 fst1 n1 e
      refine .app ?_ (modUmp_stays ..) (by decide)
      exact h_s1

theorem umpClearNow_stays (s : State) :
    Stays [.regs, .seen, .fabric, .crit, .safePending, .ump] s (umpClearNow s) := by
  unfold umpClearNow
  extract_lets -underBinder -merge -useContext +onlyGivenNames n s1 s2
  have h_s1 : Stays [.regs, .seen, .fabric, .crit, .safePending, .ump] s s1 := by
    dsimp -zeta only [s1]
    refine .app ?_ (modUmp_stays ..) (by decide)
    exact .refl ..
  clear_value s1
  have h_s2 : Stays [.regs, .seen, .fabric, .crit, .safePending, .ump] s s2 := by
    dsimp -zeta only [s2]
    refine .app ?_ (State.setCritFld_stays ..) (by decide)
    refine .app ?_ (State.setFld_stays ..) (by decide)
    refine .app ?_ (State.setFld_stays ..) (by decide)
    exact h_s1
  clear_value s2
  refine .app ?_ (raise_stays ..) (by decide)
  refine .app ?_ (writeGap_stays ..) (by decide)
  exact h_s2

theorem umpClearIfFree_stays (s : State) :
    Stays [.regs, .seen, .fabric, .crit, .safePending, .ump] s (umpClearIfFree s) := by
  unfold umpClearIfFree
  refine .ite ?_ ?_
  · refine .app ?_ (umpClearNow_stays ..) (by decide)
    exact .refl ..
  · exact .refl ..

theorem umpFreeze_stays (s : State) :
    Stays [.regs, .seen, .fabric, .ump] s (umpFreeze s) := by
  unfold umpFreeze
  refine .ite ?_ ?_
  · exact .refl ..
  · refine .app ?_ (raise_stays ..) (by decide)
    refine .app ?_ (modUmp_stays ..) (by decide)
    refine .app ?_ (State.setBit_stays ..) (by decide)
    refine .app ?_ (State.setBit_stays ..) (by decide)
    exact .refl ..

theorem umpUnfreeze_stays (s : State) :
    Stays [.regs, .seen, .fabric, .crit, .safePending, .ump] s (umpUnfreeze s) := by
  unfold umpUnfreeze
  extract_lets -underBinder -merge -useContext +onlyGivenNames s1 s2 s3
  have h_s1 : Stays [.regs, .seen, .fabric, .crit, .safePending, .ump] s s1 := by
    dsimp -zeta only [s1]
    refine .app ?_ (State.setBit_stays ..) (by decide)
    refine .app ?_ (State.setBit_stays ..) (by decide)
    exact .refl ..
  clear_value s1
  have h_s2 : Stays [.regs, .seen, .fabric, .crit, .safePending, .ump] s s2 := by
    dsimp -zeta only [s2]
    refine .app ?_ (writeGap_stays ..) (by decide)
    exact h_s1
  clear_value s2
  have h_s3 : Stays [.regs, .seen, .fabric, .crit, .safePending, .ump] s s3 := by
    dsimp -zeta only [s3]
    refine .foldl _ _ (fun u x hu => ?_) ?_
    · refine .app ?_ (recordMsg_stays ..) (by decide)
      exact hu
    · refine .app ?_ (modUmp_stays ..) (by decide)
      exact h_s2
  clear_value s3
  refine .ite ?_ ?_
  · exact .refl ..
  · refine .app ?_ (umpClearIfFree_stays ..) (by decide)
    refine .app ?_ (raise_stays ..) (by decide)
    refine .app ?_ (State.setReg_stays ..) (by decide)
    exact h_s3

end Sys2Proof.Machine
end

