-- ==== Sys2Proof/Laws/StaysMemOps.lean ====
section
/-! SUPPORT. What the operations and meanings of Machine/MemOps do at most. -/

set_option linter.all false
set_option maxRecDepth 4000

namespace Sys2Proof.Machine

theorem putRingByte_stays (a : Nat) (b : Byte) (s : State) :
    Stays [.ump] s (putRingByte a b s) := by
  unfold putRingByte
  extract_lets -underBinder -merge -useContext +onlyGivenNames o w wx
  refine .app ?_ (modUmp_stays ..) (by decide)
  exact .refl ..

theorem putSram_stays (a : Nat) (a1 : List Byte) (a2 : State) :
    Stays [.mem, .ump] a2 (putSram a a1 a2) := by
  induction a1 generalizing a a2 with
  | nil =>
    unfold putSram
    exact .refl ..
  | cons x l ih =>
    unfold putSram
    refine .app ?_ (ih ..) (by decide)
    refine .ite ?_ ?_
    · refine .app ?_ (putRingByte_stays ..) (by decide)
      exact .refl ..
    · refine .app ?_ (State.putByte_stays ..) (by decide)
      exact .refl ..

theorem modCache_stays (f : Cache → Cache) (s : State) :
    Stays [.cache] s (modCache f s) := by
  unfold modCache
  refine .app ?_ (.set_cache _ _) (by decide)
  exact .refl ..

theorem rangeEnd_stays (outcome : Nat) (s : State) :
    Stays [.regs, .seen, .fabric, .cache] s (rangeEnd outcome s) := by
  unfold rangeEnd
  split
  · rename_i x1 e
    exact .refl ..
  · rename_i x1 r1 e
    extract_lets -underBinder -merge -useContext +onlyGivenNames skip s1 s2
    have h_s1 : Stays [.regs, .seen, .fabric, .cache] s s1 := by
      dsimp -zeta only [s1]
      refine .app ?_ (State.setReg64_stays ..) (by decide)
      refine .app ?_ (State.setReg_stays ..) (by decide)
      refine .app ?_ (State.setReg_stays ..) (by decide)
      refine .app ?_ (State.setReg_stays ..) (by decide)
      exact .refl ..
    clear_value s1
    have h_s2 : Stays [.regs, .seen, .fabric, .cache] s s2 := by
      dsimp -zeta only [s2]
      refine .app ?_ (State.setReg_stays ..) (by decide)
      refine .app ?_ (State.setReg_stays ..) (by decide)
      exact h_s1
    clear_value s2
    refine .app ?_ (raise_stays ..) (by decide)
    refine .app ?_ (modCache_stays ..) (by decide)
    exact h_s2

end Sys2Proof.Machine
end

