-- ==== Sys2Proof/Laws/StaysEndOps.lean ====
section
/-! SUPPORT. What the operations and meanings of Machine/EndOps do at most. -/

set_option linter.all false
set_option maxRecDepth 4000

namespace Sys2Proof.Machine

theorem endCommand_stays (stage : Nat) (ws : List Word) (s : State) :
    Stays [.slip] s (endCommand stage ws s) := by
  unfold endCommand
  split
  · rename_i x1 t1 e
    refine .ite ?_ ?_
    · refine .app ?_ (failTask_stays ..) (by decide)
      exact .refl ..
    · exact .refl ..
  · rename_i x1 e
    exact .refl ..

theorem endItem_stays (q : QueueId) (port : Nat) (ws : List Word) (s : State) :
    Stays [.regs, .seen, .fabric, .queues, .ended, .stopped, .oars, .sweep, .gates, .returned, .boat, .slip] s (endItem q port ws s) := by
  unfold endItem
  refine .app ?_ (endPacket_stays ..) (by decide)
  split
  · rename_i q1 a1
    refine .app ?_ (reportRun_stays ..) (by decide)
    exact .refl ..
  · rename_i q1
    refine .app ?_ (returnStatus_stays ..) (by decide)
    exact .refl ..
  · rename_i q1 o1
    split
    · rename_i x1 j1 e
      refine .app ?_ (endIssued_stays ..) (by decide)
      exact .refl ..
    · rename_i x1 e
      exact .refl ..
  · rename_i q1 o1
    refine .app ?_ (endCompletion_stays ..) (by decide)
    exact .refl ..
  · rename_i q1
    refine .app ?_ (endCommand_stays ..) (by decide)
    exact .refl ..
  · rename_i q1 core1
    refine .ite ?_ ?_
    · refine .app ?_ (endCommand_stays ..) (by decide)
      exact .refl ..
    · exact .refl ..
  · rename_i q1 engine1
    refine .app ?_ (xactComplete_stays ..) (by decide)
    exact .refl ..

theorem endDropped_stays (q : QueueId) (it : QItem) (s : State) :
    Stays [.regs, .seen, .fabric, .queues, .ended, .stopped, .oars, .sweep, .gates, .returned, .boat, .slip] s (endDropped q it s) := by
  unfold endDropped
  refine .ite ?_ ?_
  · exact .refl ..
  · refine .app ?_ (endItem_stays ..) (by decide)
    exact .refl ..

theorem endQueue_stays (q : QueueId) (s : State) :
    Stays [.regs, .seen, .fabric, .queues, .ended, .stopped, .oars, .sweep, .gates, .returned, .boat, .slip] s (endQueue q s) := by
  unfold endQueue
  extract_lets -underBinder -merge -useContext +onlyGivenNames x its s1
  have h_s1 : Stays [.regs, .seen, .fabric, .queues, .ended, .stopped, .oars, .sweep, .gates, .returned, .boat, .slip] s s1 := by
    dsimp -zeta only [s1]
    refine .foldl _ _ (fun u x1 hu => ?_) ?_
    · refine .app ?_ (endDropped_stays ..) (by decide)
      refine .app ?_ (qDropItem_stays ..) (by decide)
      exact hu
    · refine .app ?_ (setHq_stays ..) (by decide)
      exact .refl ..
  clear_value s1
  refine .app ?_ (qNowEmpty_stays ..) (by decide)
  refine .foldl _ _ (fun u x1 hu => ?_) ?_
  · refine .app ?_ (endItem_stays ..) (by decide)
    exact hu
  · exact h_s1

theorem endTaken_stays (q : QueueId) (s : State) :
    Stays [.regs, .seen, .fabric, .queues, .ended, .stopped, .oars, .sweep, .gates, .returned, .boat, .slip] s (endTaken q s) := by
  unfold endTaken
  refine .foldl _ _ (fun u x hu => ?_) ?_
  · refine .app ?_ (endDropped_stays ..) (by decide)
    refine .app ?_ (qDropItem_stays ..) (by decide)
    exact hu
  · refine .app ?_ (modHq_stays ..) (by decide)
    exact .refl ..

theorem refuseHeld_stays (q : QueueId) (s : State) :
    Stays [.regs, .seen, .fabric, .queues, .ended, .stopped, .oars, .sweep, .gates, .returned, .boat, .slip] s (refuseHeld q s) := by
  unfold refuseHeld
  extract_lets -underBinder -merge -useContext +onlyGivenNames x s1
  have h_s1 : Stays [.regs, .seen, .fabric, .queues, .ended, .stopped, .oars, .sweep, .gates, .returned, .boat, .slip] s s1 := by
    dsimp -zeta only [s1]
    refine .foldl _ _ (fun u x1 hu => ?_) ?_
    · refine .app ?_ (endItem_stays ..) (by decide)
      exact hu
    · refine .app ?_ (setHq_stays ..) (by decide)
      exact .refl ..
  clear_value s1
  refine .ite ?_ ?_
  · exact .refl ..
  · refine .foldl _ _ (fun u x1 hu => ?_) ?_
    · refine .app ?_ (endItem_stays ..) (by decide)
      exact hu
    · exact h_s1

theorem losePort_stays (a : Nat) (s : State) :
    Stays [.regs, .seen, .fabric, .stopped, .pres, .hda, .oars, .mem, .checks, .boat] s (losePort a s) := by
  unfold losePort
  extract_lets -underBinder -merge -useContext +onlyGivenNames s1
  have h_s1 : Stays [.regs, .seen, .fabric, .stopped, .pres, .hda, .oars, .mem, .checks, .boat] s s1 := by
    dsimp -zeta only [s1]
    refine .app ?_ (State.setBit_stays ..) (by decide)
    refine .app ?_ (State.setFld_stays ..) (by decide)
    exact .refl ..
  clear_value s1
  refine .app ?_ (cutActuator_stays ..) (by decide)
  refine .app ?_ (modPre_stays ..) (by decide)
  exact h_s1

theorem loseActuator_stays (a : Nat) (s : State) :
    Stays [.regs, .seen, .fabric, .crit, .queues, .ended, .stopped, .rigger, .safePending, .pres, .hda, .rudders, .tunes, .oars, .sweep, .gates, .returned, .mem, .checks, .boat, .crew, .slip] s (loseActuator a s) := by
  unfold loseActuator
  extract_lets -underBinder -merge -useContext +onlyGivenNames s1 s2 s3
  have h_s1 : Stays [.regs, .seen, .fabric, .crit, .queues, .ended, .stopped, .rigger, .safePending, .pres, .hda, .rudders, .tunes, .oars, .sweep, .gates, .returned, .mem, .checks, .boat, .crew, .slip] s s1 := by
    dsimp -zeta only [s1]
    refine .app ?_ (retract_stays ..) (by decide)
    refine .app ?_ (losePort_stays ..) (by decide)
    exact .refl ..
  clear_value s1
  have h_s2 : Stays [.regs, .seen, .fabric, .crit, .queues, .ended, .stopped, .rigger, .safePending, .pres, .hda, .rudders, .tunes, .oars, .sweep, .gates, .returned, .mem, .checks, .boat, .crew, .slip] s s2 := by
    dsimp -zeta only [s2]
    refine .app ?_ (endRuns_stays ..) (by decide)
    refine .app ?_ (endQueue_stays ..) (by decide)
    exact h_s1
  clear_value s2
  have h_s3 : Stays [.regs, .seen, .fabric, .crit, .queues, .ended, .stopped, .rigger, .safePending, .pres, .hda, .rudders, .tunes, .oars, .sweep, .gates, .returned, .mem, .checks, .boat, .crew, .slip] s s3 := by
    dsimp -zeta only [s3]
    refine .app ?_ (lasting_stays ..) (by decide)
    refine .app ?_ (State.setCritFld_stays ..) (by decide)
    exact h_s2
  clear_value s3
  refine .ite ?_ ?_
  · exact .refl ..
  · refine .app ?_ (failActuatorMembers_stays ..) (by decide)
    exact h_s3

theorem faultHeads_stays (a : Nat) (status : Nat) (s : State) :
    Stays [.regs, .seen, .fabric, .crit, .queues, .ended, .stopped, .safePending, .pres, .oars, .sweep, .gates, .returned, .mem, .checks, .boat, .crew] s (faultHeads a status s) := by
  unfold faultHeads
  extract_lets -underBinder -merge -useContext +onlyGivenNames fails s1 s2
  have h_s1 : Stays [.regs, .seen, .fabric, .crit, .queues, .ended, .stopped, .safePending, .pres, .oars, .sweep, .gates, .returned, .mem, .checks, .boat, .crew] s s1 := by
    dsimp -zeta only [s1]
    refine .app ?_ (lasting_stays ..) (by decide)
    refine .app ?_ (State.setReg_stays ..) (by decide)
    exact .refl ..
  clear_value s1
  have h_s2 : Stays [.regs, .seen, .fabric, .crit, .queues, .ended, .stopped, .safePending, .pres, .oars, .sweep, .gates, .returned, .mem, .checks, .boat, .crew] s s2 := by
    dsimp -zeta only [s2]
    refine .foldl _ _ (fun u x hu => ?_) ?_
    · refine .ite ?_ ?_
      · refine .app ?_ (failMember_stays ..) (by decide)
        exact hu
      · exact hu
    · exact h_s1
  clear_value s2
  refine .app ?_ (modPre_stays ..) (by decide)
  exact h_s2

theorem preampFails_stays (a : Nat) (status : Nat) (s : State) :
    Stays [.regs, .seen, .fabric, .crit, .queues, .ended, .stopped, .rigger, .safePending, .pres, .hda, .rudders, .tunes, .oars, .sweep, .gates, .returned, .mem, .checks, .boat, .crew, .slip] s (preampFails a status s) := by
  unfold preampFails
  refine .ite ?_ ?_
  · refine .app ?_ (faultHeads_stays ..) (by decide)
    exact .refl ..
  · refine .app ?_ (loseActuator_stays ..) (by decide)
    refine .app ?_ (lasting_stays ..) (by decide)
    refine .app ?_ (modPre_stays ..) (by decide)
    exact .refl ..

theorem putDumpState_stays (st : Nat) (area : Nat) (cause : Nat) (seq : Nat) (s : State) :
    Stays [.regs, .crit] s (putDumpState st area cause seq s) := by
  unfold putDumpState
  refine .app ?_ (State.critPut_stays ..) (by decide)
  exact .refl ..

theorem patrolCut_stays (s : State) (j : StripeJob) :
    Stays [.regs, .seen, .fabric, .stopped] s (patrolCut s j) := by
  unfold patrolCut
  refine .foldl _ _ (fun u x hu => ?_) ?_
  · refine .app ?_ (lasting_stays ..) (by decide)
    exact hu
  · exact .refl ..

theorem endRecompute_stays (p : Nat) (s : State) :
    Stays [.regs, .seen, .fabric, .crit, .queues, .ended, .stopped, .rigger, .safePending, .pres, .hda, .rudders, .tunes, .oars, .sweep, .gates, .returned, .mem, .checks, .boat, .crew, .slip] s (endRecompute p s) := by
  unfold endRecompute
  extract_lets -underBinder -merge -useContext +onlyGivenNames a s1 s1_1
  have h_s1 : Stays [.regs, .seen, .fabric, .crit, .queues, .ended, .stopped, .rigger, .safePending, .pres, .hda, .rudders, .tunes, .oars, .sweep, .gates, .returned, .mem, .checks, .boat, .crew, .slip] s s1 := by
    dsimp -zeta only [s1]
    refine .ite ?_ ?_
    · refine .app ?_ (preampFails_stays ..) (by decide)
      exact .refl ..
    · exact .refl ..
  clear_value s1
  have h_s1_1 : Stays [.regs, .seen, .fabric, .crit, .queues, .ended, .stopped, .rigger, .safePending, .pres, .hda, .rudders, .tunes, .oars, .sweep, .gates, .returned, .mem, .checks, .boat, .crew, .slip] s s1_1 := by
    dsimp -zeta only [s1_1]
    refine .ite ?_ ?_
    · refine .app ?_ (lasting_stays ..) (by decide)
      exact .refl ..
    · exact .refl ..
  clear_value s1_1
  refine .ite ?_ ?_
  · split
    · rename_i x1 fst1 fw1 e
      extract_lets -underBinder -merge -useContext +onlyGivenNames s2
      have h_s2 : Stays [.regs, .seen, .fabric, .crit, .queues, .ended, .stopped, .rigger, .safePending, .pres, .hda, .rudders, .tunes, .oars, .sweep, .gates, .returned, .mem, .checks, .boat, .crew, .slip] s s2 := by
        dsimp -zeta only [s2]
        refine .app ?_ (lasting_stays ..) (by decide)
        exact h_s1
      clear_value s2
      refine .app ?_ (loseActuator_stays ..) (by decide)
      refine .ite ?_ ?_
      · refine .app ?_ (State.setBit_stays ..) (by decide)
        exact h_s2
      · exact h_s2
    · rename_i x1 e
      exact h_s1
  · refine .ite ?_ ?_
    · refine .foldl _ _ (fun u x hu => ?_) ?_
      · refine .app ?_ (patrolCut_stays ..) (by decide)
        exact hu
      · exact .refl ..
    · refine .ite ?_ ?_
      · refine .foldl _ _ (fun u x hu => ?_) ?_
        · refine .app ?_ (patrolCut_stays ..) (by decide)
          exact hu
        · exact .refl ..
      · refine .ite ?_ ?_
        · refine .ite ?_ ?_
          · refine .app ?_ (lasting_stays ..) (by decide)
            exact h_s1_1
          · exact h_s1_1
        · refine .ite ?_ ?_
          · split
            · rename_i x1 d1 e
              refine .ite ?_ ?_
              · refine .app ?_ (lasting_stays ..) (by decide)
                exact .refl ..
              · exact .refl ..
            · rename_i x1 e
              exact .refl ..
          · exact .refl ..

theorem endStripeJobs_stays (p : StripeJob → Bool) (s : State) :
    Stays [.regs, .seen, .fabric, .queues, .ended, .stopped, .free, .returned, .mem, .checks, .boat, .crew, .slip, .cryptos] s (endStripeJobs p s) := by
  unfold endStripeJobs
  refine .app ?_ (hostDrain_stays ..) (by decide)
  refine .foldl _ _ (fun u x hu => ?_) ?_
  · refine .app ?_ (dropJob_stays ..) (by decide)
    refine .app ?_ (returnStatus_stays ..) (by decide)
    exact hu
  · exact .refl ..

theorem endNexuses_stays (s : State) :
    Stays [.regs, .seen, .fabric, .stopped, .mem, .checks, .boat, .slip] s (endNexuses s) := by
  unfold endNexuses
  refine .foldl _ _ (fun u x hu => ?_) ?_
  · refine .app ?_ (endNexus_stays ..) (by decide)
    exact hu
  · exact .refl ..

theorem endFirmwareWork_stays (p : Nat) (s : State) :
    Stays [.regs, .seen, .fabric, .stopped, .pres, .hda, .cal, .keys, .ump] s (endFirmwareWork p s) := by
  unfold endFirmwareWork
  extract_lets -underBinder -merge -useContext +onlyGivenNames vsrc vsrc_1 vsrc_2 a
  refine .ite ?_ ?_
  · refine .app ?_ (raise_stays ..) (by decide)
    refine .app ?_ (State.setReg_stays ..) (by decide)
    refine .app ?_ (.set_keys _ _) (by decide)
    exact .refl ..
  · refine .ite ?_ ?_
    · refine .app ?_ (raise_stays ..) (by decide)
      refine .app ?_ (State.setBit_stays ..) (by decide)
      refine .app ?_ (.set_ump _ _) (by decide)
      exact .refl ..
    · refine .ite ?_ ?_
      · split
        · rename_i x1 off1 snd1 e
          extract_lets -underBinder -merge -useContext +onlyGivenNames vsrc_3
          refine .app ?_ (lasting_stays ..) (by decide)
          refine .app ?_ (.set_cal _ _) (by decide)
          exact .refl ..
        · rename_i x1 e
          exact .refl ..
      · refine .ite ?_ ?_
        · refine .foldl _ _ (fun u x hu => ?_) ?_
          · refine .app ?_ (raise_stays ..) (by decide)
            exact hu
          · refine .app ?_ (.set_hda _ _) (by decide)
            exact .refl ..
        · refine .ite ?_ ?_
          · refine .app ?_ (lasting_stays ..) (by decide)
            refine .app ?_ (State.setBit_stays ..) (by decide)
            refine .app ?_ (State.setBit_stays ..) (by decide)
            refine .app ?_ (modPre_stays ..) (by decide)
            exact .refl ..
          · exact .refl ..

theorem fileDump_stays (d : Dump) (s : State) :
    Stays [.regs, .seen, .fabric, .crit, .safePending] s (fileDump d s) := by
  unfold fileDump
  extract_lets -underBinder -merge -useContext +onlyGivenNames s1
  have h_s1 : Stays [.regs, .seen, .fabric, .crit, .safePending] s s1 := by
    dsimp -zeta only [s1]
    refine .app ?_ (putDumpState_stays ..) (by decide)
    exact .refl ..
  clear_value s1
  refine .app ?_ (State.setBit_stays ..) (by decide)
  refine .app ?_ (State.setCritFld_stays ..) (by decide)
  refine .app ?_ (State.setCritFld_stays ..) (by decide)
  exact h_s1

theorem endSafe_stays (s : State) :
    Stays [.regs, .seen, .fabric, .crit, .stopped, .safePending, .safe, .chip] s (endSafe s) := by
  unfold endSafe
  extract_lets -underBinder -merge -useContext +onlyGivenNames s1
  have h_s1 : Stays [.regs, .seen, .fabric, .crit, .stopped, .safePending, .safe, .chip] s s1 := by
    dsimp -zeta only [s1]
    split
    · rename_i x1 d1 e
      extract_lets -underBinder -merge -useContext +onlyGivenNames vsrc vsrc_1 vsrc_2
      have h_vsrc : Stays [.regs, .seen, .fabric, .crit, .stopped, .safePending, .safe, .chip] s vsrc := by
        dsimp -zeta only [vsrc]
        refine .app ?_ (fileDump_stays ..) (by decide)
        exact .refl ..
      clear_value vsrc
      refine .app (t := vsrc) (qs := [.safe, .chip]) ?_ ⟨⟨rfl, rfl, fun p h0 => by cases p <;> first | rfl | exact absurd (by decide) h0⟩, id⟩ (by decide)
      exact h_vsrc
    · rename_i x1 e
      exact .refl ..
  clear_value s1
  split
  · rename_i x1 e
    exact h_s1
  · rename_i x1 op1 e
    extract_lets -underBinder -merge -useContext +onlyGivenNames vsrc s2
    have h_s2 : Stays [.regs, .seen, .fabric, .crit, .stopped, .safePending, .safe, .chip] s s2 := by
      dsimp -zeta only [s2]
      refine .app ?_ (State.setReg_stays ..) (by decide)
      refine .app ?_ (.set_safe _ _) (by decide)
      exact h_s1
    clear_value s2
    refine .ite ?_ ?_
    · refine .app ?_ (lasting_stays ..) (by decide)
      exact h_s2
    · exact h_s2

theorem endJournal_stays (s : State) :
    Stays [.regs, .seen, .fabric, .queues, .ended, .stopped, .free, .returned, .mem, .checks, .boat, .crew, .slip, .cryptos] s (endJournal s) := by
  unfold endJournal
  extract_lets -underBinder -merge -useContext +onlyGivenNames s1 w vsrc
  have h_s1 : Stays [.regs, .seen, .fabric, .queues, .ended, .stopped, .free, .returned, .mem, .checks, .boat, .crew, .slip, .cryptos] s s1 := by
    dsimp -zeta only [s1]
    refine .app ?_ (endStripeJobs_stays ..) (by decide)
    exact .refl ..
  clear_value s1
  refine .ite ?_ ?_
  · refine .app ?_ (raise_stays ..) (by decide)
    refine .app ?_ (endStripeJobs_stays ..) (by decide)
    refine .app ?_ (State.setReg_stays ..) (by decide)
    refine .app ?_ (.set_crew _ _) (by decide)
    exact h_s1
  · exact h_s1

theorem actuatorCheck_stays (a : Nat) (s : State) :
    Stays [.regs, .seen, .fabric, .crit, .queues, .ended, .stopped, .rigger, .safePending, .hda, .rudders, .tunes, .oars, .sweep, .gates, .returned, .mem, .checks, .boat, .crew] s (actuatorCheck a s) := by
  unfold actuatorCheck
  refine .app ?_ (failActuatorMembers_stays ..) (by decide)
  refine .app ?_ (endRuns_stays ..) (by decide)
  refine .app ?_ (riggerRetract_stays ..) (by decide)
  exact .refl ..

theorem oarCheck_stays (o : Nat) (s : State) :
    Stays [.regs, .seen, .fabric, .crit, .queues, .ended, .stopped, .safePending, .hda, .rudders, .oars, .sweep, .gates, .returned, .mem, .checks, .boat, .crew] s (oarCheck o s) := by
  unfold oarCheck
  extract_lets -underBinder -merge -useContext +onlyGivenNames a k s1
  have h_s1 : Stays [.regs, .seen, .fabric, .crit, .queues, .ended, .stopped, .safePending, .hda, .rudders, .oars, .sweep, .gates, .returned, .mem, .checks, .boat, .crew] s s1 := by
    dsimp -zeta only [s1]
    refine .app ?_ (reissueOar_stays ..) (by decide)
    refine .app ?_ (lasting_stays ..) (by decide)
    refine .app ?_ (State.setBit_stays ..) (by decide)
    exact .refl ..
  clear_value s1
  refine .ite ?_ ?_
  · exact h_s1
  · refine .app ?_ (failActuatorMembers_stays ..) (by decide)
    refine .app ?_ (endRuns_stays ..) (by decide)
    exact h_s1

theorem endXacts_stays (mine : List Word → Bool) (s : State) :
    Stays [.regs, .seen, .fabric, .returned, .boat] s (endXacts mine s) := by
  unfold endXacts
  refine .foldl _ _ (fun u x hu => ?_) ?_
  · refine .app ?_ (xactReturn_stays ..) (by decide)
    refine .app ?_ (xactComplete_stays ..) (by decide)
    exact hu
  · refine .app ?_ (modBoat_stays ..) (by decide)
    exact .refl ..

theorem boatCheck_stays (e : Nat) (s : State) :
    Stays [.regs, .seen, .fabric, .crit, .queues, .ended, .stopped, .safePending, .oars, .sweep, .gates, .returned, .boat, .slip] s (boatCheck e s) := by
  unfold boatCheck
  extract_lets -underBinder -merge -useContext +onlyGivenNames s1 t t_1 s2
  have h_s1 : Stays [.regs, .seen, .fabric, .crit, .queues, .ended, .stopped, .safePending, .oars, .sweep, .gates, .returned, .boat, .slip] s s1 := by
    dsimp -zeta only [s1]
    refine .app ?_ (State.setBit_stays ..) (by decide)
    exact .refl ..
  clear_value s1
  have h_t : Stays [.regs, .seen, .fabric, .crit, .queues, .ended, .stopped, .safePending, .oars, .sweep, .gates, .returned, .boat, .slip] s t := by
    dsimp -zeta only [t]
    refine .app ?_ (endTaken_stays ..) (by decide)
    refine .app ?_ (endXacts_stays ..) (by decide)
    exact h_s1
  clear_value t
  have h_t_1 : Stays [.regs, .seen, .fabric, .crit, .queues, .ended, .stopped, .safePending, .oars, .sweep, .gates, .returned, .boat, .slip] s t_1 := by
    dsimp -zeta only [t_1]
    refine .ite ?_ ?_
    · refine .app ?_ (endTaken_stays ..) (by decide)
      refine .app ?_ (endXacts_stays ..) (by decide)
      exact h_s1
    · exact h_s1
  clear_value t_1
  have h_s2 : Stays [.regs, .seen, .fabric, .crit, .queues, .ended, .stopped, .safePending, .oars, .sweep, .gates, .returned, .boat, .slip] s s2 := by
    dsimp -zeta only [s2]
    refine .ite ?_ ?_
    · refine .ite ?_ ?_
      · exact h_t
      · refine .app ?_ (raise_stays ..) (by decide)
        refine .app ?_ (State.setBit_stays ..) (by decide)
        exact h_t
    · refine .app ?_ (modHq_stays ..) (by decide)
      refine .app ?_ (endQueue_stays ..) (by decide)
      refine .app ?_ (wbFall_stays ..) (by decide)
      refine .app ?_ (endXacts_stays ..) (by decide)
      exact h_t_1
  clear_value s2
  refine .ite ?_ ?_
  · refine .app ?_ (safeCause_stays ..) (by decide)
    exact h_s2
  · exact h_s2

theorem endSweep_stays (s : State) :
    Stays [.regs, .seen, .fabric, .queues, .ended, .stopped, .oars, .sweep, .returned, .boat] s (endSweep s) := by
  unfold endSweep
  refine .foldl _ _ (fun u x hu => ?_) ?_
  · refine .ite ?_ ?_
    · refine .app ?_ (unreadable_stays ..) (by decide)
      exact hu
    · refine .app ?_ (endSector_stays ..) (by decide)
      exact hu
  · exact .refl ..

theorem endHeld_stays (p : Nat) (s : State) :
    Stays [.regs, .seen, .fabric, .crit, .queues, .ended, .stopped, .free, .safePending, .pres, .hda, .cal, .oars, .sweep, .gates, .returned, .mem, .checks, .boat, .crew, .slip, .safe, .keys, .cryptos, .chip, .ump] s (endHeld p s) := by
  unfold endHeld
  refine .ite ?_ ?_
  · refine .app ?_ (endNexuses_stays ..) (by decide)
    refine .foldl _ _ (fun u x hu => ?_) ?_
    · refine .app ?_ (endQueue_stays ..) (by decide)
      exact hu
    · refine .app ?_ (endQueue_stays ..) (by decide)
      exact .refl ..
  · refine .ite ?_ ?_
    · refine .app ?_ (endStripeJobs_stays ..) (by decide)
      refine .app ?_ (endQueue_stays ..) (by decide)
      exact .refl ..
    · refine .ite ?_ ?_
      · refine .app ?_ (endSafe_stays ..) (by decide)
        exact .refl ..
      · refine .ite ?_ ?_
        · refine .app ?_ (endJournal_stays ..) (by decide)
          exact .refl ..
        · refine .app ?_ (endFirmwareWork_stays ..) (by decide)
          exact .refl ..

theorem machineCheckOutcome_stays (p : Nat) (s0x : State) :
    Stays [.regs, .seen, .fabric, .crit, .queues, .ended, .stopped, .rigger, .free, .safePending, .pres, .hda, .cal, .rudders, .tunes, .oars, .sweep, .gates, .returned, .mem, .checks, .boat, .cache, .crew, .slip, .safe, .keys, .cryptos, .chip, .ump] s0x (machineCheckOutcome p s0x) := by
  unfold machineCheckOutcome
  extract_lets -underBinder -merge -useContext +onlyGivenNames s vsrc
  have h_s : Stays [.regs, .seen, .fabric, .crit, .queues, .ended, .stopped, .rigger, .free, .safePending, .pres, .hda, .cal, .rudders, .tunes, .oars, .sweep, .gates, .returned, .mem, .checks, .boat, .cache, .crew, .slip, .safe, .keys, .cryptos, .chip, .ump] s0x s := by
    dsimp -zeta only [s]
    refine .app ?_ (endRecompute_stays ..) (by decide)
    exact .refl ..
  clear_value s
  refine .ite ?_ ?_
  · refine .app ?_ (oarCheck_stays ..) (by decide)
    exact h_s
  · refine .ite ?_ ?_
    · refine .app ?_ (actuatorCheck_stays ..) (by decide)
      exact h_s
    · refine .ite ?_ ?_
      · refine .app ?_ (actuatorCheck_stays ..) (by decide)
        exact h_s
      · refine .ite ?_ ?_
        · refine .app ?_ (crewCheck_stays ..) (by decide)
          exact h_s
        · refine .ite ?_ ?_
          · refine .app ?_ (laneCheck_stays ..) (by decide)
            exact h_s
          · refine .ite ?_ ?_
            · exact h_s
            · refine .ite ?_ ?_
              · refine .app ?_ (boatCheck_stays ..) (by decide)
                exact h_s
              · refine .ite ?_ ?_
                · refine .app ?_ (safeCause_stays ..) (by decide)
                  refine .app ?_ (.set_keys _ _) (by decide)
                  exact h_s
                · refine .ite ?_ ?_
                  · refine .app ?_ (safeCause_stays ..) (by decide)
                    refine .app ?_ (endSweep_stays ..) (by decide)
                    exact h_s
                  · refine .ite ?_ ?_
                    · refine .app ?_ (safeCause_stays ..) (by decide)
                      refine .app ?_ (driveSpindle_stays ..) (by decide)
                      exact h_s
                    · refine .ite ?_ ?_
                      · refine .app ?_ (safeCause_stays ..) (by decide)
                        refine .app ?_ (rangeEnd_stays ..) (by decide)
                        exact h_s
                      · refine .app ?_ (safeCause_stays ..) (by decide)
                        refine .app ?_ (endHeld_stays ..) (by decide)
                        exact h_s

end Sys2Proof.Machine
end

