-- ==== Sys2Proof/Laws/StaysCheck.lean ====
section
/-! SUPPORT. What the operations and meanings of Machine/Check do at most. -/

set_option linter.all false
set_option maxRecDepth 4000

namespace Sys2Proof.Machine

theorem enterCheck_stays (p : Nat) (source : Nat) (code : Nat) (requesters : List Nat) (s : State) :
    Stays [.regs, .seen, .fabric, .queues, .stopped, .keel, .hda, .tunes, .oars, .sweep, .mem, .checks, .boat] s (enterCheck p source code requesters s) := by
  unfold enterCheck
  refine .app ?_ (dropPartials_stays ..) (by decide)
  refine .app ?_ (releaseHolders_stays ..) (by decide)
  refine .app ?_ (markCheck_stays ..) (by decide)
  exact .refl ..

theorem machineCheck_stays (p : Nat) (source : Nat) (code : Nat) (s : State) :
    Stays [.regs, .seen, .fabric, .crit, .queues, .ended, .stopped, .keel, .rigger, .free, .safePending, .pres, .hda, .cal, .rudders, .tunes, .oars, .sweep, .gates, .returned, .mem, .checks, .boat, .cache, .crew, .slip, .safe, .keys, .cryptos, .chip, .ump] s (machineCheck p source code s) := by
  unfold machineCheck
  refine .ite ?_ ?_
  · exact .refl ..
  · refine .app ?_ (machineCheckOutcome_stays ..) (by decide)
    refine .app ?_ (enterCheck_stays ..) (by decide)
    exact .refl ..

theorem engineCheck_stays (c : Nat) (source : Nat) (code : Nat) (s : State) :
    Stays [.regs, .seen, .fabric, .crit, .queues, .ended, .stopped, .keel, .rigger, .free, .safePending, .pres, .hda, .cal, .rudders, .tunes, .oars, .sweep, .gates, .returned, .mem, .checks, .boat, .cache, .crew, .slip, .safe, .keys, .cryptos, .chip, .ump] s (engineCheck c source code s) := by
  unfold engineCheck
  refine .ite ?_ ?_
  · refine .ite ?_ ?_
    · exact .refl ..
    · refine .app ?_ (boatCheck_stays ..) (by decide)
      refine .app ?_ (enterCheck_stays ..) (by decide)
      exact .refl ..
  · refine .app ?_ (machineCheck_stays ..) (by decide)
    exact .refl ..

theorem pushAgain_stays (q : QueueId) (s : State) (e : Nat × List Word × Bool) :
    Stays [.regs, .seen, .fabric, .queues, .ended, .stopped, .oars, .sweep, .gates, .returned, .boat, .slip] s (pushAgain q s e) := by
  unfold pushAgain
  refine .ite ?_ ?_
  · refine .ite ?_ ?_
    · exact .refl ..
    · refine .app ?_ (endItem_stays ..) (by decide)
      exact .refl ..
  · refine .app ?_ (againPush_stays ..) (by decide)
    exact .refl ..

end Sys2Proof.Machine
end

