-- ==== Sys2Proof/Laws/StaysBase.lean ====
section
/-! SUPPORT. What the operations and meanings of Machine/Base do at most. -/

set_option linter.all false
set_option maxRecDepth 4000

namespace Sys2Proof.Machine

theorem claimOne_stays (before : State) (req : Requester) (v : Word) (s : State) :
    Stays [.regs, .seen, .fabric] s (claimOne before req v s) := by
  unfold claimOne
  extract_lets -underBinder -merge -useContext +onlyGivenNames r f c held
  refine .ite ?_ ?_
  · refine .app ?_ (claimConflict_stays ..) (by decide)
    exact .refl ..
  · refine .ite ?_ ?_
    · exact .refl ..
    · refine .ite ?_ ?_
      · refine .app ?_ (claimConflict_stays ..) (by decide)
        exact .refl ..
      · refine .ite ?_ ?_
        · refine .app ?_ (claimConflict_stays ..) (by decide)
          exact .refl ..
        · refine .ite ?_ ?_
          · refine .app ?_ (claimConflict_stays ..) (by decide)
            exact .refl ..
          · refine .app ?_ (State.setReg_stays ..) (by decide)
            exact .refl ..

theorem releaseWritten_stays (req : Requester) (v : Word) (s : State) :
    Stays [.regs, .seen, .fabric, .stopped, .keel, .hda, .tunes, .oars, .sweep, .mem, .checks, .boat] s (releaseWritten req v s) := by
  unfold releaseWritten
  extract_lets -underBinder -merge -useContext +onlyGivenNames r c holder
  refine .ite ?_ ?_
  · refine .app ?_ (claimConflict_stays ..) (by decide)
    exact .refl ..
  · refine .ite ?_ ?_
    · refine .app ?_ (claimConflict_stays ..) (by decide)
      exact .refl ..
    · refine .app ?_ (releaseResource_stays ..) (by decide)
      exact .refl ..

theorem claimCycle_stays (arrivals : List (Requester × Word)) (s : State) :
    Stays [.regs, .bus, .seen, .fabric, .stopped, .keel, .hda, .tunes, .oars, .sweep, .mem, .checks, .boat] s (claimCycle arrivals s) := by
  unfold claimCycle
  extract_lets -underBinder -merge -useContext +onlyGivenNames rel claims s1
  have h_s1 : Stays [.regs, .bus, .seen, .fabric, .stopped, .keel, .hda, .tunes, .oars, .sweep, .mem, .checks, .boat] s s1 := by
    dsimp -zeta only [s1]
    refine .foldl _ _ (fun u x hu => ?_) ?_
    · refine withWrite_stays _ _ _ _ _ ?_ (by decide) ?_
      · intro u1 hu1
        refine .app ?_ (releaseWritten_stays ..) (by decide)
        exact hu1
      · exact hu
    · exact .refl ..
  clear_value s1
  refine .foldl _ _ (fun u x hu => ?_) ?_
  · refine withWrite_stays _ _ _ _ _ ?_ (by decide) ?_
    · intro u1 hu1
      refine .app ?_ (claimOne_stays ..) (by decide)
      exact hu1
    · exact hu
  · exact h_s1

theorem execClaim_stays (arrivals : List (Requester × Word)) (s : State) :
    Answers [.regs, .bus, .seen, .fabric, .stopped, .keel, .hda, .tunes, .oars, .sweep, .mem, .checks, .boat] s (execClaim arrivals s) := by
  unfold execClaim
  refine .next ?_
  refine .app ?_ (claimCycle_stays ..) (by decide)
  exact .refl ..

theorem execRelease_stays (req : Requester) (v : Word) (s : State) :
    Answers [.regs, .bus, .seen, .fabric, .stopped, .keel, .hda, .tunes, .oars, .sweep, .mem, .checks, .boat] s (execRelease req v s) := by
  unfold execRelease
  refine .next ?_
  refine .when _ _ (fun u hu => ?_) ?_
  · refine withWrite_stays _ _ _ _ _ ?_ (by decide) ?_
    · intro u1 hu1
      refine .app ?_ (releaseWritten_stays ..) (by decide)
      exact hu1
    · exact hu
  · exact .refl ..

theorem modClocks_stays (f : Clocks → Clocks) (s : State) :
    Stays [.clocks] s (modClocks f s) := by
  unfold modClocks
  refine .app ?_ (.set_clocks _ _) (by decide)
  exact .refl ..

theorem execIslandClockStop_stays (island : Nat) (s : State) :
    Answers [.regs, .clocks] s (execIslandClockStop island s) := by
  unfold execIslandClockStop
  refine .next ?_
  refine .when _ _ (fun u hu => ?_) ?_
  · refine .app ?_ (State.count_stays ..) (by decide)
    refine .app ?_ (modClocks_stays ..) (by decide)
    exact hu
  · exact .refl ..

theorem clockFails_stays (island : Nat) (s : State) :
    Stays (allBut [.time, .rwlShadow, .bus, .strokes, .targets, .leaks, .couple, .ucode, .consumed, .drams, .scrub, .power, .otp, .dbg, .smbus]) s (clockFails island s) := by
  unfold clockFails
  extract_lets -underBinder -merge -useContext +onlyGivenNames s1
  have h_s1 : Stays (allBut [.time, .rwlShadow, .bus, .strokes, .targets, .leaks, .couple, .ucode, .consumed, .drams, .scrub, .power, .otp, .dbg, .smbus]) s s1 := by
    dsimp -zeta only [s1]
    refine .app ?_ (lasting_stays ..) (by decide)
    refine .app ?_ (modClocks_stays ..) (by decide)
    exact .refl ..
  clear_value s1
  refine .foldl _ _ (fun u x hu => ?_) ?_
  · refine .ite ?_ ?_
    · exact hu
    · refine .ite ?_ ?_
      · refine .app ?_ (engineCheck_stays ..) (by decide)
        refine .app ?_ (engineCheck_stays ..) (by decide)
        exact hu
      · refine .app ?_ (machineCheck_stays ..) (by decide)
        exact hu
  · exact h_s1

theorem execClockRelockTimeout_stays (island : Nat) (s : State) :
    Answers (allBut [.time, .rwlShadow, .bus, .strokes, .targets, .leaks, .couple, .ucode, .consumed, .drams, .scrub, .power, .otp, .dbg, .smbus]) s (execClockRelockTimeout island s) := by
  unfold execClockRelockTimeout
  refine .next ?_
  refine .when _ _ (fun u hu => ?_) ?_
  · refine .app ?_ (clockFails_stays ..) (by decide)
    exact hu
  · exact .refl ..

theorem execRefGlitch_stays (s : State) :
    Answers [.regs, .seen, .clocks, .fabric] s (execRefGlitch s) := by
  unfold execRefGlitch
  extract_lets -underBinder -merge -useContext +onlyGivenNames s1
  have h_s1 : Stays [.regs, .seen, .clocks, .fabric] s s1 := by
    dsimp -zeta only [s1]
    refine .app ?_ (modClocks_stays ..) (by decide)
    refine .app ?_ (State.countFld_stays ..) (by decide)
    exact .refl ..
  clear_value s1
  refine .next ?_
  refine .ite ?_ ?_
  · refine .app ?_ (raise_stays ..) (by decide)
    exact h_s1
  · exact h_s1

theorem modStroke_stays (n : Nat) (f : Stroke → Stroke) (s : State) :
    Stays [.strokes] s (modStroke n f s) := by
  unfold modStroke
  refine .app ?_ (.set_strokes _ _) (by decide)
  exact .refl ..

theorem execSoftIrq_stays (req : Requester) (core : Nat) (v : Word) (s : State) :
    Answers [.regs, .bus, .seen, .fabric, .stopped] s (execSoftIrq req core v s) := by
  unfold execSoftIrq
  refine .next ?_
  refine .when _ _ (fun u hu => ?_) ?_
  · refine withWrite_stays _ _ _ _ _ ?_ (by decide) ?_
    · intro u1 hu1
      refine .app ?_ (storeWrite_stays ..) (by decide)
      exact hu1
    · exact hu
  · exact .refl ..

theorem timerLine_stays (core : Nat) (s : State) :
    Stays [.strokes] s (timerLine core s) := by
  unfold timerLine
  refine .app ?_ (modStroke_stays ..) (by decide)
  exact .refl ..

theorem timerLines_stays (s : State) :
    Stays [.strokes] s (timerLines s) := by
  unfold timerLines
  refine .foldl _ _ (fun u x hu => ?_) ?_
  · refine .ite ?_ ?_
    · refine .app ?_ (timerLine_stays ..) (by decide)
      exact hu
    · exact hu
  · exact .refl ..

theorem execTimerCompare_stays (core : Nat) (s : State) :
    Answers [.strokes] s (execTimerCompare core s) := by
  unfold execTimerCompare
  refine .next ?_
  refine .when _ _ (fun u hu => ?_) ?_
  · refine .app ?_ (timerLine_stays ..) (by decide)
    exact hu
  · exact .refl ..

theorem wdtConfigEffect_stays (core : Nat) (v : Word) (s : State) :
    Stays [.regs, .strokes] s (wdtConfigEffect core v s) := by
  unfold wdtConfigEffect
  refine .app ?_ (modStroke_stays ..) (by decide)
  refine .app ?_ (storeWrite_stays ..) (by decide)
  exact .refl ..

theorem execWdtConfig_stays (req : Requester) (core : Nat) (v : Word) (s : State) :
    Answers [.regs, .bus, .seen, .strokes, .fabric, .stopped] s (execWdtConfig req core v s) := by
  unfold execWdtConfig
  refine .next ?_
  refine .when _ _ (fun u hu => ?_) ?_
  · refine withWrite_stays _ _ _ _ _ ?_ (by decide) ?_
    · intro u1 hu1
      refine .app ?_ (wdtConfigEffect_stays ..) (by decide)
      exact hu1
    · exact hu
  · exact .refl ..

theorem wdtKickEffect_stays (core : Nat) (v : Word) (s : State) :
    Stays [.strokes] s (wdtKickEffect core v s) := by
  unfold wdtKickEffect
  refine .ite ?_ ?_
  · refine .app ?_ (modStroke_stays ..) (by decide)
    exact .refl ..
  · exact .refl ..

theorem execWdtKick_stays (req : Requester) (core : Nat) (v : Word) (s : State) :
    Answers [.regs, .bus, .seen, .strokes, .fabric, .stopped] s (execWdtKick req core v s) := by
  unfold execWdtKick
  refine .next ?_
  refine .when _ _ (fun u hu => ?_) ?_
  · refine withWrite_stays _ _ _ _ _ ?_ (by decide) ?_
    · intro u1 hu1
      refine .app ?_ (wdtKickEffect_stays ..) (by decide)
      exact hu1
    · exact hu
  · exact .refl ..

theorem strokeStops_stays (c : Nat) (s : State) :
    Stays [.regs, .seen, .strokes, .fabric] s (strokeStops c s) := by
  unfold strokeStops
  refine .ite ?_ ?_
  · refine .app ?_ (raise_stays ..) (by decide)
    refine .app ?_ (modStroke_stays ..) (by decide)
    exact .refl ..
  · exact .refl ..

theorem strokeGoes_stays (c : Nat) (s : State) :
    Stays [.regs, .seen, .strokes, .fabric] s (strokeGoes c s) := by
  unfold strokeGoes
  refine .ite ?_ ?_
  · refine .app ?_ (raise_stays ..) (by decide)
    refine .app ?_ (modStroke_stays ..) (by decide)
    exact .refl ..
  · exact .refl ..

theorem execWatchdog_stays (core : Nat) (s : State) :
    Answers [.regs, .seen, .fabric, .crit, .queues, .ended, .stopped, .keel, .rigger, .free, .safePending, .pres, .hda, .cal, .rudders, .tunes, .oars, .sweep, .gates, .returned, .mem, .checks, .boat, .cache, .crew, .slip, .safe, .keys, .cryptos, .chip, .ump] s (execWatchdog core s) := by
  unfold execWatchdog
  extract_lets -underBinder -merge -useContext +onlyGivenNames ms
  refine .next ?_
  refine .when _ _ (fun u hu => ?_) ?_
  · refine .app ?_ (machineCheck_stays ..) (by decide)
    refine .app ?_ (lasting_stays ..) (by decide)
    exact hu
  · exact .refl ..

theorem lockEffect_stays (p : Nat) (v : Word) (s : State) :
    Stays [.regs, .rwlShadow] s (lockEffect p v s) := by
  unfold lockEffect
  extract_lets -underBinder -merge -useContext +onlyGivenNames copy
  refine .ite ?_ ?_
  · refine .foldl _ _ (fun u x hu => ?_) ?_
    · dsimp -zeta only [copy]
      refine .app ?_ (.set_rwlShadow _ _) (by decide)
      exact hu
    · refine .app ?_ (State.setBit_stays ..) (by decide)
      exact .refl ..
  · exact .refl ..

theorem execPageLock_stays (req : Requester) (page : Nat) (v : Word) (s : State) :
    Answers [.regs, .rwlShadow, .bus, .seen, .fabric, .stopped] s (execPageLock req page v s) := by
  unfold execPageLock
  refine .next ?_
  refine withWrite_stays _ _ _ _ _ ?_ (by decide) ?_
  · intro u hu
    refine .app ?_ (lockEffect_stays ..) (by decide)
    exact hu
  · exact .refl ..

theorem ctrlEffect_stays (p : Nat) (v : Word) (s : State) :
    Stays [.regs] s (ctrlEffect p v s) := by
  unfold ctrlEffect
  refine .ite ?_ ?_
  · exact .refl ..
  · refine .app ?_ (storeWrite_stays ..) (by decide)
    exact .refl ..

theorem execBlockDisable_stays (req : Requester) (page : Nat) (v : Word) (s : State) :
    Answers [.regs, .bus, .seen, .fabric, .stopped] s (execBlockDisable req page v s) := by
  unfold execBlockDisable
  refine .next ?_
  refine .when _ _ (fun u hu => ?_) ?_
  · refine withWrite_stays _ _ _ _ _ ?_ (by decide) ?_
    · intro u1 hu1
      refine .app ?_ (ctrlEffect_stays ..) (by decide)
      exact hu1
    · exact hu
  · exact .refl ..

end Sys2Proof.Machine
end

