-- ==== Sys2Proof/Laws/StaysBoat.lean ====
section
/-! SUPPORT. What the operations and meanings of Machine/Boat do at most. -/

set_option linter.all false
set_option maxRecDepth 4000

namespace Sys2Proof.Machine

theorem modDram_stays (n : Nat) (f : DramPort → DramPort) (s : State) :
    Stays [.drams] s (modDram n f s) := by
  unfold modDram
  refine .app ?_ (.set_drams _ _) (by decide)
  exact .refl ..

theorem dramInitEffect_stays (n : Nat) (r : TrainResult) (s : State) :
    Stays [.regs, .seen, .fabric, .stopped, .drams] s (dramInitEffect n r s) := by
  unfold dramInitEffect
  extract_lets -underBinder -merge -useContext +onlyGivenNames s_1 s1 s2 s3
  have h_s_1 : Stays [.regs, .seen, .fabric, .stopped, .drams] s s_1 := by
    dsimp -zeta only [s_1]
    refine .app ?_ (modDram_stays ..) (by decide)
    exact .refl ..
  clear_value s_1
  have h_s1 : Stays [.regs, .seen, .fabric, .stopped, .drams] s s1 := by
    dsimp -zeta only [s1]
    refine .ite ?_ ?_
    · exact h_s_1
    · refine .app ?_ (State.count_stays ..) (by decide)
      exact h_s_1
  clear_value s1
  have h_s2 : Stays [.regs, .seen, .fabric, .stopped, .drams] s s2 := by
    dsimp -zeta only [s2]
    refine .ite ?_ ?_
    · exact h_s1
    · refine .app ?_ (transient_stays ..) (by decide)
      exact h_s1
  clear_value s2
  have h_s3 : Stays [.regs, .seen, .fabric, .stopped, .drams] s s3 := by
    dsimp -zeta only [s3]
    refine .app ?_ (State.setFld_stays ..) (by decide)
    refine .app ?_ (State.setFld_stays ..) (by decide)
    refine .app ?_ (State.setBit_stays ..) (by decide)
    exact h_s2
  clear_value s3
  refine .ite ?_ ?_
  · exact .refl ..
  · refine .ite ?_ ?_
    · refine .app ?_ (lasting_stays ..) (by decide)
      exact h_s_1
    · refine .ite ?_ ?_
      · refine .app ?_ (lasting_stays ..) (by decide)
        exact h_s1
      · refine .app ?_ (modDram_stays ..) (by decide)
        exact h_s3

theorem srWanted_stays (n : Nat) (enter : Bool) (s : State) :
    Stays [.drams] s (srWanted n enter s) := by
  unfold srWanted
  refine .app ?_ (modDram_stays ..) (by decide)
  exact .refl ..

theorem dramCmdEffect_stays (n : Nat) (v : Word) (r : TrainResult) (s : State) :
    Stays [.regs, .seen, .fabric, .stopped, .drams] s (dramCmdEffect n v r s) := by
  unfold dramCmdEffect
  extract_lets -underBinder -merge -useContext +onlyGivenNames s1 s2
  have h_s1 : Stays [.regs, .seen, .fabric, .stopped, .drams] s s1 := by
    dsimp -zeta only [s1]
    refine .ite ?_ ?_
    · refine .app ?_ (dramInitEffect_stays ..) (by decide)
      exact .refl ..
    · exact .refl ..
  clear_value s1
  have h_s2 : Stays [.regs, .seen, .fabric, .stopped, .drams] s s2 := by
    dsimp -zeta only [s2]
    refine .ite ?_ ?_
    · refine .app ?_ (srWanted_stays ..) (by decide)
      exact h_s1
    · exact h_s1
  clear_value s2
  refine .ite ?_ ?_
  · refine .app ?_ (srWanted_stays ..) (by decide)
    exact h_s2
  · exact h_s2

theorem execDramInit_stays (req : Requester) (port : Nat) (v : Word) (r : TrainResult) (s : State) :
    Answers [.regs, .bus, .seen, .fabric, .stopped, .drams] s (execDramInit req port v r s) := by
  unfold execDramInit
  refine .next ?_
  refine .when _ _ (fun u hu => ?_) ?_
  · refine withWriteOut_stays _ _ _ _ _ _ ?_ (by decide) ?_
    · intro u1 hu1
      refine .app ?_ (dramCmdEffect_stays ..) (by decide)
      exact hu1
    · exact hu
  · exact .refl ..

theorem zeroFill_stays (n : Nat) (s : State) :
    Stays [.regs, .mem, .checks] s (zeroFill n s) :=
  .app (.app (.app (.refl ..)
    (.set_mem s _ (SMap.wf_keep blankByte (fun a => decide (a < dramBase) || !decide (granPort ((a - dramBase) / 64) = n)) s.mem)) (by decide))
    (.set_checks _ (SMap.keep (fun g => !decide (granPort g = n)) s.checks)) (by decide)) (State.count_stays _ _ _) (by decide)

theorem execInitDone_stays (port : Nat) (s : State) :
    Answers [.regs, .seen, .fabric, .stopped, .mem, .checks, .scrub] s (execInitDone port s) := by
  unfold execInitDone
  refine .next ?_
  refine .when _ _ (fun u hu => ?_) ?_
  · extract_lets -underBinder -merge -useContext +onlyGivenNames s1 s2 c0 c1 vsrc vsrc_1 s3 pl
    have h_s1 : Stays [.regs, .seen, .fabric, .stopped, .mem, .checks, .scrub] s s1 := by
      dsimp -zeta only [s1]
      refine .app ?_ (State.setBit_stays ..) (by decide)
      refine .app ?_ (State.setBit_stays ..) (by decide)
      refine .app ?_ (zeroFill_stays ..) (by decide)
      exact hu
    clear_value s1
    have h_s2 : Stays [.regs, .seen, .fabric, .stopped, .mem, .checks, .scrub] s s2 := by
      dsimp -zeta only [s2]
      refine .app ?_ (raise_stays ..) (by decide)
      exact h_s1
    clear_value s2
    have h_vsrc : Stays [.regs, .seen, .fabric, .stopped, .mem, .checks, .scrub] s vsrc := by
      dsimp -zeta only [vsrc]
      refine .app ?_ (State.setReg64_stays ..) (by decide)
      exact h_s2
    clear_value vsrc
    have h_s3 : Stays [.regs, .seen, .fabric, .stopped, .mem, .checks, .scrub] s s3 := by
      dsimp -zeta only [s3]
      refine .app ?_ (.set_scrub _ _) (by decide)
      exact h_vsrc
    clear_value s3
    refine .ite ?_ ?_
    · refine .ite ?_ ?_
      · refine .app ?_ (lasting_stays ..) (by decide)
        exact h_s3
      · refine .ite ?_ ?_
        · refine .app ?_ (lasting_stays ..) (by decide)
          exact h_s3
        · exact h_s3
    · exact h_s2
  · exact .refl ..

theorem execSrEnter_stays (req : Requester) (port : Nat) (v : Word) (s : State) :
    Answers [.regs, .bus, .seen, .fabric, .stopped, .drams] s (execSrEnter req port v s) := by
  unfold execSrEnter
  refine .next ?_
  refine .when _ _ (fun u hu => ?_) ?_
  · refine withWrite_stays _ _ _ _ _ ?_ (by decide) ?_
    · intro u1 hu1
      refine .app ?_ (dramCmdEffect_stays ..) (by decide)
      exact hu1
    · exact hu
  · exact .refl ..

theorem execSrExit_stays (req : Requester) (port : Nat) (v : Word) (s : State) :
    Answers [.regs, .bus, .seen, .fabric, .stopped, .drams] s (execSrExit req port v s) := by
  unfold execSrExit
  refine .next ?_
  refine .when _ _ (fun u hu => ?_) ?_
  · refine withWrite_stays _ _ _ _ _ ?_ (by decide) ?_
    · intro u1 hu1
      refine .app ?_ (dramCmdEffect_stays ..) (by decide)
      exact hu1
    · exact hu
  · exact .refl ..

theorem execSelfRefresh_stays (port : Nat) (s : State) :
    Answers [.regs, .seen, .fabric, .drams] s (execSelfRefresh port s) := by
  unfold execSelfRefresh
  refine .next ?_
  refine .when _ _ (fun u hu => ?_) ?_
  · split
    · rename_i x1 e
      exact hu
    · rename_i x1 enter1 e
      extract_lets -underBinder -merge -useContext +onlyGivenNames done
      refine .ite ?_ ?_
      · dsimp -zeta only [done]
        refine .app ?_ (modDram_stays ..) (by decide)
        exact hu
      · refine .ite ?_ ?_
        · exact hu
        · refine .app ?_ (raise_stays ..) (by decide)
          dsimp -zeta only [done]
          refine .app ?_ (modDram_stays ..) (by decide)
          refine .app ?_ (State.setBit_stays ..) (by decide)
          exact hu
  · exact .refl ..

theorem execMr4Poll_stays (port : Nat) (rate : Nat) (overTemp : Bool) (s : State) :
    Answers [.regs, .seen, .fabric, .stopped, .drams] s (execMr4Poll port rate overTemp s) := by
  unfold execMr4Poll
  refine .next ?_
  refine .when _ _ (fun u hu => ?_) ?_
  · extract_lets -underBinder -merge -useContext +onlyGivenNames r s1 s2
    have h_s1 : Stays [.regs, .seen, .fabric, .stopped, .drams] s s1 := by
      dsimp -zeta only [s1]
      refine .ite ?_ ?_
      · exact hu
      · refine .app ?_ (raise_stays ..) (by decide)
        refine .app ?_ (State.setFld_stays ..) (by decide)
        exact hu
    clear_value s1
    have h_s2 : Stays [.regs, .seen, .fabric, .stopped, .drams] s s2 := by
      dsimp -zeta only [s2]
      refine .ite ?_ ?_
      · refine .app ?_ (lasting_stays ..) (by decide)
        exact h_s1
      · exact h_s1
    clear_value s2
    refine .app ?_ (modDram_stays ..) (by decide)
    exact h_s2
  · exact .refl ..

theorem xactTake_stays (q : Fin 2) (ty : Nat) (s : State) :
    ∀ r, (xactTake q ty s) = some r → Stays [.regs, .seen, .fabric, .queues, .ended, .returned, .boat] s r.2 := by
  intro r hr
  unfold xactTake at hr
  split at hr
  · rename_i e
    cases hr
  · rename_i e
    split at hr
    · rename_i x1 e1
      cases hr
    · rename_i x1 it1 e1
      split at hr
      · rename_i e2
        cases hr
      · rename_i e2
        refine .app ?_ (qNext_stays _ _ _ hr) (by decide)
        exact .refl ..

theorem xactMoved_stays (it : QItem) (status : Nat) (offset : Nat) (s : State) :
    Stays [.boat] s (xactMoved it status offset s) := by
  unfold xactMoved
  refine .app ?_ (modBoat_stays ..) (by decide)
  exact .refl ..

theorem withXact_stays {P : List Piece} {s0 : State} (q : Fin 2) (ty : Nat) (f : QItem → State → State) (s : State) (h_f : ∀ a0 u, Stays P s0 u → Stays P s0 (f a0 u)) (hq : sub [.regs, .seen, .fabric, .queues, .ended, .returned, .boat] P = true) (h0 : Stays P s0 s) :
    Stays P s0 (withXact q ty f s) := by
  unfold withXact
  extract_lets -underBinder -merge -useContext +onlyGivenNames s0x
  have h_s0x : Stays P s0 s0x := by
    dsimp -zeta only [s0x]
    refine .app ?_ (xactGrantNext_stays ..) (sub_trans (by decide) hq)
    exact h0
  clear_value s0x
  split
  · rename_i x1 e
    exact h_s0x
  · rename_i x1 it1 s11 e
    refine h_f _ _ ?_
    refine .app ?_ (xactTake_stays _ _ _ _ e) (sub_trans (by decide) hq)
    exact h_s0x

theorem execXactRead_stays (q : Fin 2) (noise : DramNoise) (s : State) :
    Answers [.regs, .seen, .fabric, .queues, .ended, .stopped, .returned, .mem, .checks, .boat] s (execXactRead q noise s) := by
  unfold execXactRead
  refine .next ?_
  refine withXact_stays _ _ _ _ ?_ (by decide) ?_
  · intro x u hu
    extract_lets -underBinder -merge -useContext +onlyGivenNames r
    have h_r : Stays [.regs, .seen, .fabric, .queues, .ended, .stopped, .returned, .mem, .checks, .boat] s r.2.2.2 := by
      dsimp -zeta only [r]
      refine .app ?_ (readGranules_stays ..) (by decide)
      refine .app ?_ (strikeAllDram_stays ..) (by decide)
      exact hu
    clear_value r
    refine .app ?_ (modBoat_stays ..) (by decide)
    refine .app ?_ (xactMoved_stays ..) (by decide)
    exact h_r
  · exact .refl ..

theorem putGranules_stays (g : Nat) (a : List Beat) (a1 : State) :
    Stays [.regs, .mem, .checks] a1 (putGranules g a a1) := by
  induction a generalizing g a1 with
  | nil =>
    unfold putGranules
    exact .refl ..
  | cons x l ih =>
    unfold putGranules
    refine .app ?_ (ih ..) (by decide)
    refine .app ?_ (putGranule_stays ..) (by decide)
    exact .refl ..

theorem execXactWrite_stays (q : Fin 2) (beats : List Beat) (s : State) :
    Answers [.regs, .seen, .fabric, .queues, .ended, .returned, .mem, .checks, .boat] s (execXactWrite q beats s) := by
  unfold execXactWrite
  refine .next ?_
  refine withXact_stays _ _ _ _ ?_ (by decide) ?_
  · intro x u hu
    refine .app ?_ (xactMoved_stays ..) (by decide)
    refine .app ?_ (putGranules_stays ..) (by decide)
    exact hu
  · exact .refl ..

theorem copyGranules_stays (sole : Bool) (who : Nat) (noise : DramNoise) (n : Nat) : ∀ (src dst : Nat) (x : Nat × Nat × State),
    Stays [.regs, .seen, .fabric, .stopped, .mem, .checks, .boat] x.2.2 (copyGranules sole who noise src dst n x).2.2 := by
  induction n with
  | zero => exact fun _ _ _ => .refl ..
  | succ n ih =>
    intro src dst x
    obtain ⟨st, off, s⟩ := x
    unfold copyGranules
    exact .app (.app (.app (.refl ..) (readGranule_stays ..) (by decide)) (putGranule_stays ..) (by decide)) (ih ..) (by decide)

theorem execXactCopy_stays (q : Fin 2) (noise : DramNoise) (s : State) :
    Answers [.regs, .seen, .fabric, .queues, .ended, .stopped, .returned, .mem, .checks, .boat] s (execXactCopy q noise s) := by
  unfold execXactCopy
  refine .next ?_
  refine withXact_stays _ _ _ _ ?_ (by decide) ?_
  · intro x u hu
    extract_lets -underBinder -merge -useContext +onlyGivenNames g r
    have h_r : Stays [.regs, .seen, .fabric, .queues, .ended, .stopped, .returned, .mem, .checks, .boat] s r.2.2 := by
      dsimp -zeta only [r]
      refine .app ?_ (copyGranules_stays ..) (by decide)
      refine .triple ?_
      refine .app ?_ (strikeAllDram_stays ..) (by decide)
      exact hu
    clear_value r
    refine .app ?_ (xactMoved_stays ..) (by decide)
    exact h_r
  · exact .refl ..

theorem execXactFill_stays (q : Fin 2) (s : State) :
    Answers [.regs, .seen, .fabric, .queues, .ended, .returned, .mem, .checks, .boat] s (execXactFill q s) := by
  unfold execXactFill
  refine .next ?_
  refine withXact_stays _ _ _ _ ?_ (by decide) ?_
  · intro x u hu
    extract_lets -underBinder -merge -useContext +onlyGivenNames b
    refine .app ?_ (xactMoved_stays ..) (by decide)
    refine .app ?_ (putGranules_stays ..) (by decide)
    exact hu
  · exact .refl ..

theorem execXactMerge_stays (q : Fin 2) (beat : Beat) (noise : DramNoise) (s : State) :
    Answers [.regs, .seen, .fabric, .queues, .ended, .stopped, .returned, .mem, .checks, .boat] s (execXactMerge q beat noise s) := by
  unfold execXactMerge
  refine .next ?_
  refine withXact_stays _ _ _ _ ?_ (by decide) ?_
  · intro x u hu
    extract_lets -underBinder -merge -useContext +onlyGivenNames g mask r data
    have h_r : Stays [.regs, .seen, .fabric, .queues, .ended, .stopped, .returned, .mem, .checks, .boat] s r.2.2 := by
      dsimp -zeta only [r]
      refine .app ?_ (readGranule_stays ..) (by decide)
      refine .app ?_ (strikeAllDram_stays ..) (by decide)
      exact hu
    clear_value r
    refine .ite ?_ ?_
    · refine .app ?_ (xactMoved_stays ..) (by decide)
      refine .app ?_ (putGranule_stays ..) (by decide)
      exact hu
    · refine .app ?_ (xactMoved_stays ..) (by decide)
      refine .app ?_ (putGranule_stays ..) (by decide)
      exact h_r
  · exact .refl ..

theorem execXactDone_stays (port : Nat) (tag : Nat) (s : State) :
    Answers [.regs, .seen, .fabric, .returned, .boat] s (execXactDone port tag s) := by
  unfold execXactDone
  refine .next ?_
  refine .when _ _ (fun u hu => ?_) ?_
  · split
    · rename_i x1 e
      exact hu
    · rename_i x1 x2 e
      extract_lets -underBinder -merge -useContext +onlyGivenNames s1
      have h_s1 : Stays [.regs, .seen, .fabric, .returned, .boat] s s1 := by
        dsimp -zeta only [s1]
        refine .app ?_ (modBoat_stays ..) (by decide)
        exact hu
      clear_value s1
      refine .app ?_ (xactComplete_stays ..) (by decide)
      refine .app ?_ (xactReturn_stays ..) (by decide)
      exact h_s1
  · exact .refl ..

theorem execDirtyReserve_stays (task : Nat) (granules : Nat) (s : State) :
    Answers [.regs, .seen, .fabric, .boat] s (execDirtyReserve task granules s) := by
  unfold execDirtyReserve
  refine .next ?_
  refine .when _ _ (fun u hu => ?_) ?_
  · extract_lets -underBinder -merge -useContext +onlyGivenNames said s1
    have h_s1 : Stays [.regs, .seen, .fabric, .boat] s s1 := by
      dsimp -zeta only [s1]
      refine .app ?_ (modBoat_stays ..) (by decide)
      exact hu
    clear_value s1
    refine .ite ?_ ?_
    · refine .app ?_ (modBoat_stays ..) (by decide)
      exact hu
    · refine .ite ?_ ?_
      · refine .app ?_ (modBoat_stays ..) (by decide)
        refine .app ?_ (addDirty_stays ..) (by decide)
        exact hu
      · refine .ite ?_ ?_
        · exact h_s1
        · refine .app ?_ (raise_stays ..) (by decide)
          exact h_s1
  · exact .refl ..

theorem execDirtyGrant_stays (s : State) :
    Answers [.regs, .boat] s (execDirtyGrant s) := by
  unfold execDirtyGrant
  refine .next ?_
  refine .when _ _ (fun u hu => ?_) ?_
  · split
    · rename_i x1 e
      exact hu
    · rename_i x1 r1 rest1 e
      extract_lets -underBinder -merge -useContext +onlyGivenNames s1
      have h_s1 : Stays [.regs, .boat] s s1 := by
        dsimp -zeta only [s1]
        refine .app ?_ (modBoat_stays ..) (by decide)
        exact hu
      clear_value s1
      refine .ite ?_ ?_
      · refine .app ?_ (modBoat_stays ..) (by decide)
        refine .app ?_ (addDirty_stays ..) (by decide)
        exact h_s1
      · exact h_s1
  · exact .refl ..

theorem dirtyAdjEffect_stays (v : Word) (s : State) :
    Stays [.regs, .seen, .fabric] s (dirtyAdjEffect v s) := by
  unfold dirtyAdjEffect
  extract_lets -underBinder -merge -useContext +onlyGivenNames n res
  refine .ite ?_ ?_
  · dsimp -zeta only [res]
    refine .app ?_ (State.setReg_stays ..) (by decide)
    exact .refl ..
  · refine .ite ?_ ?_
    · refine .ite ?_ ?_
      · dsimp -zeta only [res]
        refine .app ?_ (State.setReg_stays ..) (by decide)
        refine .app ?_ (releaseDirty_stays ..) (by decide)
        exact .refl ..
      · dsimp -zeta only [res]
        refine .app ?_ (State.setReg_stays ..) (by decide)
        refine .app ?_ (releaseDirty_stays ..) (by decide)
        exact .refl ..
    · refine .ite ?_ ?_
      · dsimp -zeta only [res]
        refine .app ?_ (State.setReg_stays ..) (by decide)
        refine .app ?_ (addDirty_stays ..) (by decide)
        exact .refl ..
      · dsimp -zeta only [res]
        refine .app ?_ (State.setReg_stays ..) (by decide)
        exact .refl ..

theorem execDirtyAdjReserve_stays (req : Requester) (v : Word) (s : State) :
    Answers [.regs, .bus, .seen, .fabric, .stopped] s (execDirtyAdjReserve req v s) := by
  unfold execDirtyAdjReserve
  refine .next ?_
  refine .when _ _ (fun u hu => ?_) ?_
  · refine withWrite_stays _ _ _ _ _ ?_ (by decide) ?_
    · intro u1 hu1
      refine .app ?_ (dirtyAdjEffect_stays ..) (by decide)
      exact hu1
    · exact hu
  · exact .refl ..

theorem execDirtyAdjRelease_stays (req : Requester) (v : Word) (s : State) :
    Answers [.regs, .bus, .seen, .fabric, .stopped] s (execDirtyAdjRelease req v s) := by
  unfold execDirtyAdjRelease
  refine .next ?_
  refine .when _ _ (fun u hu => ?_) ?_
  · refine withWrite_stays _ _ _ _ _ ?_ (by decide) ?_
    · intro u1 hu1
      refine .app ?_ (dirtyAdjEffect_stays ..) (by decide)
      exact hu1
    · exact hu
  · exact .refl ..

theorem scrubLog_stays (g : Nat) (s : State) :
    Stays [.regs, .seen, .fabric, .scrub] s (scrubLog g s) := by
  unfold scrubLog
  split
  · rename_i x1 i1 e
    refine .app ?_ (State.setReg_stays ..) (by decide)
    exact .refl ..
  · rename_i x1 e
    extract_lets -underBinder -merge -useContext +onlyGivenNames vsrc
    refine .ite ?_ ?_
    · exact .refl ..
    · refine .app ?_ (raise_stays ..) (by decide)
      refine .app ?_ (.set_scrub _ _) (by decide)
      exact .refl ..

theorem scrubGranule_stays (noise : DramNoise) (g : Nat) (s : State) :
    Stays [.regs, .seen, .fabric, .stopped, .boat, .scrub] s (scrubGranule noise g s) := by
  unfold scrubGranule
  extract_lets -underBinder -merge -useContext +onlyGivenNames pl beats
  refine .ite ?_ ?_
  · refine .ite ?_ ?_
    · refine .app ?_ (raise_stays ..) (by decide)
      refine .app ?_ (State.count_stays ..) (by decide)
      dsimp -zeta only [beats]
      refine .app ?_ (State.count_stays ..) (by decide)
      refine .app ?_ (calmGranule_stays ..) (by decide)
      exact .refl ..
    · dsimp -zeta only [beats]
      refine .app ?_ (State.count_stays ..) (by decide)
      exact .refl ..
  · refine .app ?_ (scrubLog_stays ..) (by decide)
    refine .app ?_ (lasting_stays ..) (by decide)
    refine .app ?_ (State.count_stays ..) (by decide)
    dsimp -zeta only [beats]
    refine .app ?_ (State.count_stays ..) (by decide)
    refine .app ?_ (calmGranule_stays ..) (by decide)
    exact .refl ..

theorem scrubLap_stays (s : State) :
    Stays [.regs, .seen, .fabric, .scrub] s (scrubLap s) := by
  unfold scrubLap
  extract_lets -underBinder -merge -useContext +onlyGivenNames ms vsrc s1 s2
  have h_s1 : Stays [.regs, .seen, .fabric, .scrub] s s1 := by
    dsimp -zeta only [s1]
    refine .app ?_ (State.setReg_stays ..) (by decide)
    refine .app ?_ (.set_scrub _ _) (by decide)
    exact .refl ..
  clear_value s1
  have h_s2 : Stays [.regs, .seen, .fabric, .scrub] s s2 := by
    dsimp -zeta only [s2]
    refine .app ?_ (raise_stays ..) (by decide)
    refine .app ?_ (State.count_stays ..) (by decide)
    exact h_s1
  clear_value s2
  refine .ite ?_ ?_
  · refine .app ?_ (raise_stays ..) (by decide)
    exact h_s2
  · exact h_s2

theorem execScrubStep_stays (quiet100ns : Nat) (noise : DramNoise) (s : State) :
    Answers [.regs, .seen, .fabric, .stopped, .mem, .checks, .boat, .scrub] s (execScrubStep quiet100ns noise s) := by
  unfold execScrubStep
  extract_lets -underBinder -merge -useContext +onlyGivenNames cfg
  refine .next ?_
  refine .when _ _ (fun u hu => ?_) ?_
  · extract_lets -underBinder -merge -useContext +onlyGivenNames p s1 next vsrc s2
    have h_s1 : Stays [.regs, .seen, .fabric, .stopped, .mem, .checks, .boat, .scrub] s s1 := by
      dsimp -zeta only [s1]
      refine .foldl _ _ (fun u1 x hu1 => ?_) ?_
      · refine .app ?_ (scrubGranule_stays ..) (by decide)
        exact hu1
      · refine .app ?_ (strikeAllDram_stays ..) (by decide)
        exact hu
    clear_value s1
    have h_s2 : Stays [.regs, .seen, .fabric, .stopped, .mem, .checks, .boat, .scrub] s s2 := by
      dsimp -zeta only [s2]
      refine .app ?_ (State.setFld_stays ..) (by decide)
      refine .app ?_ (.set_scrub _ _) (by decide)
      exact h_s1
    clear_value s2
    refine .ite ?_ ?_
    · refine .app ?_ (scrubLap_stays ..) (by decide)
      exact h_s2
    · exact h_s2
  · exact .refl ..

theorem scrubLogEffect_stays (v : Word) (s : State) :
    Stays [.regs, .scrub] s (scrubLogEffect v s) := by
  unfold scrubLogEffect
  extract_lets -underBinder -merge -useContext +onlyGivenNames vsrc
  refine .ite ?_ ?_
  · refine .foldl _ _ (fun u x hu => ?_) ?_
    · refine .app ?_ (State.setReg_stays ..) (by decide)
      exact hu
    · refine .app ?_ (.set_scrub _ _) (by decide)
      exact .refl ..
  · exact .refl ..

theorem execScrubLogClear_stays (req : Requester) (v : Word) (s : State) :
    Answers [.regs, .bus, .seen, .fabric, .stopped, .scrub] s (execScrubLogClear req v s) := by
  unfold execScrubLogClear
  refine .next ?_
  refine withWrite_stays _ _ _ _ _ ?_ (by decide) ?_
  · intro u hu
    refine .app ?_ (scrubLogEffect_stays ..) (by decide)
    exact hu
  · exact .refl ..

end Sys2Proof.Machine
end

