-- ==== Sys2Proof/Laws/StaysCacheOps.lean ====
section
/-! SUPPORT. What the operations and meanings of Machine/CacheOps do at most. -/

set_option linter.all false
set_option maxRecDepth 4000

namespace Sys2Proof.Machine

theorem putLine_stays (k : Nat) (x : Option CacheLine) (s : State) :
    Stays [.cache] s (putLine k x s) := by
  unfold putLine
  refine .app ?_ (modCache_stays ..) (by decide)
  exact .refl ..

theorem touch_stays (k : Nat) (s : State) :
    Stays [.cache] s (touch k s) := by
  unfold touch
  extract_lets -underBinder -merge -useContext +onlyGivenNames t
  refine .app ?_ (modCache_stays ..) (by decide)
  exact .refl ..

theorem writeBack_stays (k : Nat) (s : State) :
    Stays [.regs, .mem, .checks, .cache] s (writeBack k s) := by
  unfold writeBack
  split
  · rename_i x1 e
    exact .refl ..
  · rename_i x1 x2 e
    refine .app ?_ (putLine_stays ..) (by decide)
    refine .app ?_ (putGranule_stays ..) (by decide)
    exact .refl ..

theorem evict_stays (k : Nat) (s : State) :
    Stays [.regs, .mem, .checks, .cache] s (evict k s) := by
  unfold evict
  split
  · rename_i x1 e
    exact .refl ..
  · rename_i x1 x2 e
    refine .app ?_ (putLine_stays ..) (by decide)
    refine .app ?_ (State.count_stays ..) (by decide)
    refine .ite ?_ ?_
    · refine .app ?_ (writeBack_stays ..) (by decide)
      exact .refl ..
    · exact .refl ..

theorem fillLine_stays (noise : DramNoise) (k : Nat) (g : Nat) (s : State) :
    Stays [.regs, .seen, .fabric, .stopped, .checks, .boat, .cache] s (fillLine noise k g s) := by
  unfold fillLine
  extract_lets -underBinder -merge -useContext +onlyGivenNames r s1
  have h_r : Stays [.regs, .seen, .fabric, .stopped, .checks, .boat, .cache] s r.2.2 := by
    dsimp -zeta only [r]
    refine .app ?_ (readGranule_stays ..) (by decide)
    exact .refl ..
  clear_value r
  have h_s1 : Stays [.regs, .seen, .fabric, .stopped, .checks, .boat, .cache] s s1 := by
    dsimp -zeta only [s1]
    refine .app ?_ (putLine_stays ..) (by decide)
    exact h_r
  clear_value s1
  refine .ite ?_ ?_
  · refine .app ?_ (raise_stays ..) (by decide)
    exact h_s1
  · exact h_s1

theorem reachLine_stays (noise : DramNoise) (g : Nat) (s : State) :
    Stays [.regs, .seen, .fabric, .stopped, .mem, .checks, .boat, .cache] s (reachLine noise g s).2 := by
  unfold reachLine
  split
  · rename_i x1 w1 e
    refine .pair ?_
    refine .app ?_ (touch_stays ..) (by decide)
    refine .app ?_ (State.count_stays ..) (by decide)
    exact .refl ..
  · rename_i x1 e
    extract_lets -underBinder -merge -useContext +onlyGivenNames k
    refine .pair ?_
    refine .app ?_ (touch_stays ..) (by decide)
    refine .app ?_ (fillLine_stays ..) (by decide)
    refine .app ?_ (evict_stays ..) (by decide)
    refine .app ?_ (State.count_stays ..) (by decide)
    exact .refl ..

theorem storeLine_stays (k : Nat) (g : Nat) (off : Nat) (bs : List Byte) (s : State) :
    Stays [.regs, .mem, .checks, .cache] s (storeLine k g off bs s) := by
  unfold storeLine
  split
  · rename_i x1 e
    exact .refl ..
  · rename_i x1 x2 e
    extract_lets -underBinder -merge -useContext +onlyGivenNames data stored clean y s1
    have h_s1 : Stays [.regs, .mem, .checks, .cache] s s1 := by
      dsimp -zeta only [s1]
      refine .app ?_ (putLine_stays ..) (by decide)
      exact .refl ..
    clear_value s1
    refine .ite ?_ ?_
    · refine .app ?_ (writeBack_stays ..) (by decide)
      exact h_s1
    · exact h_s1

theorem modRange_stays (f : RangeOp → RangeOp) (s : State) :
    Stays [.cache] s (modRange f s) := by
  unfold modRange
  refine .app ?_ (modCache_stays ..) (by decide)
  exact .refl ..

theorem rangeSkip_stays (g : Nat) (a : State) :
    Stays [.cache] a (rangeSkip g a) := by
  unfold rangeSkip
  refine .app ?_ (modRange_stays ..) (by decide)
  exact .refl ..

theorem rangeClean_stays (k : Nat) (s : State) :
    Stays [.regs, .mem, .checks, .cache] s (rangeClean k s) := by
  unfold rangeClean
  refine .ite ?_ ?_
  · refine .app ?_ (modRange_stays ..) (by decide)
    refine .app ?_ (writeBack_stays ..) (by decide)
    exact .refl ..
  · exact .refl ..

theorem zeroLine_stays (k : Nat) (g : Nat) (s : State) :
    Stays [.regs, .mem, .checks, .cache] s (zeroLine k g s) := by
  unfold zeroLine
  extract_lets -underBinder -merge -useContext +onlyGivenNames s1
  have h_s1 : Stays [.regs, .mem, .checks, .cache] s s1 := by
    dsimp -zeta only [s1]
    refine .app ?_ (putLine_stays ..) (by decide)
    exact .refl ..
  clear_value s1
  refine .ite ?_ ?_
  · refine .app ?_ (rangeClean_stays ..) (by decide)
    exact h_s1
  · exact h_s1

theorem rangePresent_stays (op : Nat) (force : Bool) (k : Nat) (g : Nat) (s : State) :
    Stays [.regs, .mem, .checks, .cache] s (rangePresent op force k g s) := by
  unfold rangePresent
  extract_lets -underBinder -merge -useContext +onlyGivenNames locked dirty
  refine .ite ?_ ?_
  · refine .app ?_ (rangeClean_stays ..) (by decide)
    exact .refl ..
  · refine .ite ?_ ?_
    · refine .ite ?_ ?_
      · refine .app ?_ (putLine_stays ..) (by decide)
        refine .ite ?_ ?_
        · refine .app ?_ (modRange_stays ..) (by decide)
          exact .refl ..
        · exact .refl ..
      · refine .ite ?_ ?_
        · refine .app ?_ (putLine_stays ..) (by decide)
          refine .app ?_ (rangeClean_stays ..) (by decide)
          exact .refl ..
        · refine .app ?_ (rangeSkip_stays ..) (by decide)
          exact .refl ..
    · refine .ite ?_ ?_
      · refine .ite ?_ ?_
        · refine .app ?_ (putLine_stays ..) (by decide)
          refine .app ?_ (rangeClean_stays ..) (by decide)
          exact .refl ..
        · refine .app ?_ (rangeSkip_stays ..) (by decide)
          refine .app ?_ (rangeClean_stays ..) (by decide)
          exact .refl ..
      · refine .ite ?_ ?_
        · refine .app ?_ (zeroLine_stays ..) (by decide)
          exact .refl ..
        · refine .ite ?_ ?_
          · exact .refl ..
          · split
            · rename_i x1 w1 e
              refine .app ?_ (putLine_stays ..) (by decide)
              refine .app ?_ (putLine_stays ..) (by decide)
              exact .refl ..
            · rename_i x1 e
              refine .app ?_ (rangeSkip_stays ..) (by decide)
              exact .refl ..

theorem rangeAbsent_stays (op : Nat) (g : Nat) (s : State) :
    Stays [.regs, .seen, .fabric, .stopped, .mem, .checks, .boat, .cache] s (rangeAbsent op g s) := by
  unfold rangeAbsent
  extract_lets -underBinder -merge -useContext +onlyGivenNames k
  refine .ite ?_ ?_
  · refine .app ?_ (zeroLine_stays ..) (by decide)
    refine .app ?_ (touch_stays ..) (by decide)
    refine .app ?_ (evict_stays ..) (by decide)
    exact .refl ..
  · refine .ite ?_ ?_
    · split
      · rename_i x1 w1 e
        refine .app ?_ (fillLine_stays ..) (by decide)
        exact .refl ..
      · rename_i x1 e
        refine .app ?_ (rangeSkip_stays ..) (by decide)
        exact .refl ..
    · exact .refl ..

theorem rangeLine_stays (r : RangeOp) (i : Nat) (s : State) :
    Stays [.regs, .seen, .fabric, .stopped, .mem, .checks, .boat, .cache] s (rangeLine r i s) := by
  unfold rangeLine
  extract_lets -underBinder -merge -useContext +onlyGivenNames s1
  have h_s1 : Stays [.regs, .seen, .fabric, .stopped, .mem, .checks, .boat, .cache] s s1 := by
    dsimp -zeta only [s1]
    refine .app ?_ (modRange_stays ..) (by decide)
    exact .refl ..
  clear_value s1
  refine .ite ?_ ?_
  · split
    · rename_i x1 x2 e
      extract_lets -underBinder -merge -useContext +onlyGivenNames g
      refine .ite ?_ ?_
      · refine .app ?_ (rangePresent_stays ..) (by decide)
        exact h_s1
      · exact h_s1
    · rename_i x1 e
      exact h_s1
  · split
    · rename_i x1 w1 e
      refine .app ?_ (rangePresent_stays ..) (by decide)
      exact h_s1
    · rename_i x1 e
      refine .app ?_ (rangeAbsent_stays ..) (by decide)
      exact h_s1

theorem rangeAdvance_stays (s : State) :
    Stays [.regs, .seen, .fabric, .stopped, .mem, .checks, .boat, .cache] s (rangeAdvance s) := by
  unfold rangeAdvance
  split
  · rename_i x1 e
    exact .refl ..
  · rename_i x1 r1 e
    extract_lets -underBinder -merge -useContext +onlyGivenNames due
    refine .foldl _ _ (fun u x hu => ?_) ?_
    · refine .ite ?_ ?_
      · refine .app ?_ (rangeLine_stays ..) (by decide)
        exact hu
      · exact hu
    · exact .refl ..

theorem rangeGo_stays (v : Word) (s : State) :
    Stays [.regs, .seen, .fabric, .cache] s (rangeGo v s) := by
  unfold rangeGo
  extract_lets -underBinder -merge -useContext +onlyGivenNames op lines first code
  refine .ite ?_ ?_
  · refine .app ?_ (modCache_stays ..) (by decide)
    exact .refl ..
  · refine .app ?_ (raise_stays ..) (by decide)
    refine .app ?_ (State.setReg_stays ..) (by decide)
    exact .refl ..

theorem rangeCtrlEffect_stays (v : Word) (s : State) :
    Stays [.regs, .seen, .fabric, .stopped, .mem, .checks, .boat, .cache] s (rangeCtrlEffect v s) := by
  unfold rangeCtrlEffect
  extract_lets -underBinder -merge -useContext +onlyGivenNames s0x s1 s2
  have h_s0x : Stays [.regs, .seen, .fabric, .stopped, .mem, .checks, .boat, .cache] s s0x := by
    dsimp -zeta only [s0x]
    refine .app ?_ (rangeAdvance_stays ..) (by decide)
    exact .refl ..
  clear_value s0x
  have h_s1 : Stays [.regs, .seen, .fabric, .stopped, .mem, .checks, .boat, .cache] s s1 := by
    dsimp -zeta only [s1]
    refine .app ?_ (State.setReg_stays ..) (by decide)
    exact h_s0x
  clear_value s1
  have h_s2 : Stays [.regs, .seen, .fabric, .stopped, .mem, .checks, .boat, .cache] s s2 := by
    dsimp -zeta only [s2]
    refine .ite ?_ ?_
    · refine .app ?_ (rangeGo_stays ..) (by decide)
      exact h_s1
    · exact h_s1
  clear_value s2
  refine .ite ?_ ?_
  · refine .app ?_ (rangeEnd_stays ..) (by decide)
    exact h_s2
  · exact h_s2

theorem cacheReset_stays (s : State) :
    Stays [.regs, .mem, .checks, .cache] s (cacheReset s) := by
  unfold cacheReset
  extract_lets -underBinder -merge -useContext +onlyGivenNames s1
  have h_s1 : Stays [.regs, .mem, .checks, .cache] s s1 := by
    dsimp -zeta only [s1]
    refine .foldl _ _ (fun u x hu => ?_) ?_
    · refine .ite ?_ ?_
      · refine .app ?_ (writeBack_stays ..) (by decide)
        exact hu
      · exact hu
    · exact .refl ..
  clear_value s1
  refine .app ?_ (modCache_stays ..) (by decide)
  refine .app ?_ (State.setReg_stays ..) (by decide)
  exact h_s1

end Sys2Proof.Machine
end

