-- ==== Sys2Proof/Laws/StaysResetOps.lean ====
section
/-! SUPPORT. What the operations and meanings of Machine/ResetOps do at most. -/

set_option linter.all false
set_option maxRecDepth 4000

namespace Sys2Proof.Machine

theorem endRudder_stays (a : Nat) (s : State) :
    Stays [.regs, .seen, .fabric, .stopped, .rigger, .hda, .rudders, .tunes, .oars, .mem, .checks, .boat] s (endRudder a s) := by
  unfold endRudder
  refine .app ?_ (tuneTrip_stays ..) (by decide)
  refine .app ?_ (clearSlots_stays ..) (by decide)
  refine .app ?_ (endGroup_stays ..) (by decide)
  refine .app ?_ (cutActuator_stays ..) (by decide)
  exact .refl ..

theorem endOar_stays (o : Nat) (s : State) :
    Stays [.regs, .seen, .fabric, .queues, .ended, .stopped, .hda, .rudders, .oars, .sweep, .gates, .returned, .boat] s (endOar o s) := by
  unfold endOar
  refine .app ?_ (gateDrain_stays ..) (by decide)
  refine .app ?_ (abortOar_stays ..) (by decide)
  refine .app ?_ (endWaiting_stays ..) (by decide)
  refine .app ?_ (gateDrain_stays ..) (by decide)
  exact .refl ..

theorem blockEnd_stays (p : Nat) (s0x : State) :
    Stays [.regs, .seen, .fabric, .crit, .queues, .ended, .stopped, .keel, .rigger, .free, .safePending, .pres, .hda, .cal, .rudders, .tunes, .oars, .sweep, .gates, .returned, .mem, .checks, .boat, .cache, .crew, .slip, .safe, .keys, .cryptos, .chip, .ump] s0x (blockEnd p s0x) := by
  unfold blockEnd
  extract_lets -underBinder -merge -useContext +onlyGivenNames s
  have h_s : Stays [.regs, .seen, .fabric, .crit, .queues, .ended, .stopped, .keel, .rigger, .free, .safePending, .pres, .hda, .cal, .rudders, .tunes, .oars, .sweep, .gates, .returned, .mem, .checks, .boat, .cache, .crew, .slip, .safe, .keys, .cryptos, .chip, .ump] s0x s := by
    dsimp -zeta only [s]
    refine .app ?_ (endRecompute_stays ..) (by decide)
    exact .refl ..
  clear_value s
  refine .ite ?_ ?_
  · refine .app ?_ (restOutputs_stays ..) (by decide)
    refine .app ?_ (endRudder_stays ..) (by decide)
    exact h_s
  · refine .ite ?_ ?_
    · refine .app ?_ (endShock_stays ..) (by decide)
      exact h_s
    · refine .ite ?_ ?_
      · refine .app ?_ (stepSat_stays ..) (by decide)
        refine .app ?_ (setPhaseLock_stays ..) (by decide)
        refine .app ?_ (keelUnlock_stays ..) (by decide)
        exact h_s
      · refine .ite ?_ ?_
        · refine .app ?_ (endOar_stays ..) (by decide)
          refine .app ?_ (endQueue_stays ..) (by decide)
          exact h_s
        · refine .ite ?_ ?_
          · refine .app ?_ (endRuns_stays ..) (by decide)
            refine .app ?_ (endQueue_stays ..) (by decide)
            exact h_s
          · refine .ite ?_ ?_
            · refine .app ?_ (endSweep_stays ..) (by decide)
              exact h_s
            · refine .ite ?_ ?_
              · refine .app ?_ (endStripeJobs_stays ..) (by decide)
                exact h_s
              · refine .ite ?_ ?_
                · refine .app ?_ (failFrames_stays ..) (by decide)
                  refine .app ?_ (laneOff_stays ..) (by decide)
                  exact h_s
                · refine .ite ?_ ?_
                  · refine .app ?_ (endXacts_stays ..) (by decide)
                    refine .app ?_ (endQueue_stays ..) (by decide)
                    refine .app ?_ (endQueue_stays ..) (by decide)
                    exact h_s
                  · refine .ite ?_ ?_
                    · refine .app ?_ (cacheReset_stays ..) (by decide)
                      exact h_s
                    · refine .app ?_ (endHeld_stays ..) (by decide)
                      exact h_s

theorem umpResume_stays (s : State) :
    Stays [.regs, .seen, .fabric, .crit, .safePending, .ump] s (umpResume s) := by
  unfold umpResume
  extract_lets -underBinder -merge -useContext +onlyGivenNames first vs best head old s1
  have h_s1 : Stays [.regs, .seen, .fabric, .crit, .safePending, .ump] s s1 := by
    dsimp -zeta only [s1]
    refine .app ?_ (modUmp_stays ..) (by decide)
    exact .refl ..
  clear_value s1
  refine .app ?_ (State.setCritFld_stays ..) (by decide)
  refine .app ?_ (State.setReg_stays ..) (by decide)
  exact h_s1

theorem holdCore_stays (n : Nat) (s : State) :
    Stays [.regs, .seen, .fabric] s (holdCore n s) := by
  unfold holdCore
  refine .ite ?_ ?_
  · refine .app ?_ (raise_stays ..) (by decide)
    refine .app ?_ (State.setBit_stays ..) (by decide)
    exact .refl ..
  · exact .refl ..

theorem blockClear_stays (p : Nat) (s : State) :
    Stays (allBut [.time, .rwlShadow, .bus, .clocks, .leaks, .queues, .ended, .free, .returned, .consumed, .otp, .chip, .smbus]) s (blockClear p s) := by
  unfold blockClear
  extract_lets -underBinder -merge -useContext +onlyGivenNames s1 halt o s1_1 s2 vsrc vsrc_1 s1_2 vsrc_2 vsrc_3 vsrc_4 vsrc_5
  have h_s1 : Stays (allBut [.time, .rwlShadow, .bus, .clocks, .leaks, .queues, .ended, .free, .returned, .consumed, .otp, .chip, .smbus]) s s1 := by
    dsimp -zeta only [s1]
    refine .app ?_ (holdCore_stays ..) (by decide)
    exact .refl ..
  clear_value s1
  have h_s1_1 : Stays (allBut [.time, .rwlShadow, .bus, .clocks, .leaks, .queues, .ended, .free, .returned, .consumed, .otp, .chip, .smbus]) s s1_1 := by
    dsimp -zeta only [s1_1]
    refine .foldl _ _ (fun u x hu => ?_) ?_
    · refine .ite ?_ ?_
      · refine .app ?_ (mediaReturn_stays ..) (by decide)
        exact hu
      · exact hu
    · exact .refl ..
  clear_value s1_1
  have h_s2 : Stays (allBut [.time, .rwlShadow, .bus, .clocks, .leaks, .queues, .ended, .free, .returned, .consumed, .otp, .chip, .smbus]) s s2 := by
    dsimp -zeta only [s2]
    refine .app ?_ (modGate_stays ..) (by decide)
    refine .app ?_ (modOar_stays ..) (by decide)
    exact h_s1_1
  clear_value s2
  have h_s1_2 : Stays (allBut [.time, .rwlShadow, .bus, .clocks, .leaks, .queues, .ended, .free, .returned, .consumed, .otp, .chip, .smbus]) s s1_2 := by
    dsimp -zeta only [s1_2]
    refine .foldl _ _ (fun u x hu => ?_) ?_
    · refine .ite ?_ ?_
      · refine .app ?_ (strokeGoes_stays ..) (by decide)
        exact hu
      · exact hu
    · exact .refl ..
  clear_value s1_2
  refine .ite ?_ ?_
  · refine .app ?_ (State.setFld_stays ..) (by decide)
    exact .refl ..
  · refine .ite ?_ ?_
    · refine .app ?_ (modStroke_stays ..) (by decide)
      exact h_s1
    · refine .ite ?_ ?_
      · refine .app ?_ (modTune_stays ..) (by decide)
        refine .app ?_ (modDrive_stays ..) (by decide)
        refine .app ?_ (modRud_stays ..) (by decide)
        exact .refl ..
      · refine .ite ?_ ?_
        · refine .app ?_ (modCouple_stays ..) (by decide)
          exact .refl ..
        · refine .ite ?_ ?_
          · refine .app ?_ (modTune_stays ..) (by decide)
            refine .app ?_ (driveSpindle_stays ..) (by decide)
            refine .app ?_ (modKeel_stays ..) (by decide)
            exact .refl ..
          · refine .ite ?_ ?_
            · refine .app ?_ (drvReset_stays ..) (by decide)
              exact .refl ..
            · refine .ite ?_ ?_
              · refine .app ?_ (State.setBit_stays ..) (by decide)
                exact h_s2
              · refine .ite ?_ ?_
                · refine .app ?_ (modGate_stays ..) (by decide)
                  exact .refl ..
                · refine .ite ?_ ?_
                  · refine .app ?_ (modSweep_stays ..) (by decide)
                    exact .refl ..
                  · refine .ite ?_ ?_
                    · refine .app ?_ (modCrew_stays ..) (by decide)
                      exact .refl ..
                    · refine .ite ?_ ?_
                      · refine .app ?_ (modCrew_stays ..) (by decide)
                        exact .refl ..
                      · refine .ite ?_ ?_
                        · refine .app ?_ (modCrew_stays ..) (by decide)
                          exact .refl ..
                        · refine .ite ?_ ?_
                          · refine .app ?_ (modLane_stays ..) (by decide)
                            exact .refl ..
                          · refine .ite ?_ ?_
                            · refine .app ?_ (modSlip_stays ..) (by decide)
                              exact .refl ..
                            · refine .ite ?_ ?_
                              · refine .app ?_ (modSlip_stays ..) (by decide)
                                exact .refl ..
                              · refine .ite ?_ ?_
                                · refine .app ?_ (modSlip_stays ..) (by decide)
                                  exact .refl ..
                                · refine .ite ?_ ?_
                                  · refine .app ?_ (.set_boat _ _) (by decide)
                                    exact .refl ..
                                  · refine .ite ?_ ?_
                                    · refine .app ?_ (.set_cache _ _) (by decide)
                                      exact .refl ..
                                    · refine .ite ?_ ?_
                                      · refine .app ?_ (.set_drams _ _) (by decide)
                                        exact .refl ..
                                      · refine .ite ?_ ?_
                                        · refine .app ?_ (.set_scrub _ _) (by decide)
                                          exact .refl ..
                                        · refine .ite ?_ ?_
                                          · refine .app ?_ (.set_cryptos _ _) (by decide)
                                            exact .refl ..
                                          · refine .ite ?_ ?_
                                            · refine .app ?_ (.set_keys _ _) (by decide)
                                              exact .refl ..
                                            · refine .ite ?_ ?_
                                              · refine .app ?_ (modPre_stays ..) (by decide)
                                                exact .refl ..
                                              · refine .ite ?_ ?_
                                                · refine .app ?_ (.set_hda _ _) (by decide)
                                                  exact .refl ..
                                                · refine .ite ?_ ?_
                                                  · refine .app ?_ (.set_cal _ _) (by decide)
                                                    exact .refl ..
                                                  · refine .ite ?_ ?_
                                                    · refine .app ?_ (umpResume_stays ..) (by decide)
                                                      exact .refl ..
                                                    · refine .ite ?_ ?_
                                                      · refine .foldl _ _ (fun u x hu => ?_) ?_
                                                        · refine .app ?_ (holdCore_stays ..) (by decide)
                                                          exact hu
                                                        · exact .refl ..
                                                      · refine .ite ?_ ?_
                                                        · refine .app ?_ (.set_dbg _ _) (by decide)
                                                          exact h_s1_2
                                                        · refine .ite ?_ ?_
                                                          · refine .app ?_ (.set_safe _ _) (by decide)
                                                            exact .refl ..
                                                          · refine .ite ?_ ?_
                                                            · refine .app ?_ (.set_power _ _) (by decide)
                                                              exact .refl ..
                                                            · refine .ite ?_ ?_
                                                              · refine .foldl _ _ (fun u x hu => ?_) ?_
                                                                · refine .ite ?_ ?_
                                                                  · refine .app ?_ (releaseResource_stays ..) (by decide)
                                                                    exact hu
                                                                  · exact hu
                                                                · exact .refl ..
                                                              · refine .ite ?_ ?_
                                                                · refine .app ?_ (.set_ucode _ _) (by decide)
                                                                  exact .refl ..
                                                                · refine .ite ?_ ?_
                                                                  · refine .app ?_ (.set_targets _ _) (by decide)
                                                                    exact .refl ..
                                                                  · exact .refl ..

theorem clearCheck_stays (p : Nat) (s : State) :
    Stays [.regs] s (clearCheck p s) := by
  unfold clearCheck
  extract_lets -underBinder -merge -useContext +onlyGivenNames n
  refine .ite ?_ ?_
  · exact .refl ..
  · refine .app ?_ (State.setBit_stays ..) (by decide)
    refine .app ?_ (State.setFld_stays ..) (by decide)
    exact .refl ..

theorem startRestore_stays (p : Nat) (s : State) :
    Stays [.ucode] s (startRestore p s) := by
  unfold startRestore
  extract_lets -underBinder -merge -useContext +onlyGivenNames cs vsrc
  refine .app ?_ (.set_ucode _ _) (by decide)
  exact .refl ..

theorem blockReset_stays (p : Nat) (held : List Nat) (s : State) :
    Stays (allBut [.time, .rwlShadow, .bus, .clocks, .leaks, .ended, .free, .returned, .consumed, .otp, .chip, .smbus]) s (blockReset p held s) := by
  unfold blockReset
  extract_lets -underBinder -merge -useContext +onlyGivenNames s1 kept s2 s3
  have h_s1 : Stays (allBut [.time, .rwlShadow, .bus, .clocks, .leaks, .ended, .free, .returned, .consumed, .otp, .chip, .smbus]) s s1 := by
    dsimp -zeta only [s1]
    refine .foldl _ _ (fun u x hu => ?_) ?_
    · refine .app ?_ (resetQueue_stays ..) (by decide)
      exact hu
    · refine .app ?_ (blockClear_stays ..) (by decide)
      exact .refl ..
  clear_value s1
  have h_s2 : Stays (allBut [.time, .rwlShadow, .bus, .clocks, .leaks, .ended, .free, .returned, .consumed, .otp, .chip, .smbus]) s s2 := by
    dsimp -zeta only [s2]
    refine .app ?_ (resetPageRegs_stays ..) (by decide)
    refine .app ?_ (.set_stopped _ _) (by decide)
    exact h_s1
  clear_value s2
  have h_s3 : Stays (allBut [.time, .rwlShadow, .bus, .clocks, .leaks, .ended, .free, .returned, .consumed, .otp, .chip, .smbus]) s s3 := by
    dsimp -zeta only [s3]
    refine .foldl _ _ (fun u x hu => ?_) ?_
    · refine .app ?_ (State.setReg_stays ..) (by decide)
      exact hu
    · exact h_s2
  clear_value s3
  refine .app ?_ (dropPartials_stays ..) (by decide)
  refine .app ?_ (releaseHolders_stays ..) (by decide)
  exact h_s3

theorem keepCheck_stays (p : Nat) (before : State) (s0x : State) :
    Stays [.regs, .queues] s0x (keepCheck p before s0x) := by
  unfold keepCheck
  extract_lets -underBinder -merge -useContext +onlyGivenNames keep s s1
  have h_s : Stays [.regs, .queues] s0x s := by
    dsimp -zeta only [s]
    refine .foldl _ _ (fun u x hu => ?_) ?_
    · dsimp -zeta only [keep]
      extract_lets -underBinder -merge -useContext +onlyGivenNames x_1
      refine .ite ?_ ?_
      · refine .app ?_ (modHq_stays ..) (by decide)
        exact hu
      · exact hu
    · exact .refl ..
  clear_value s
  have h_s1 : Stays [.regs, .queues] s0x s1 := by
    dsimp -zeta only [s1]
    refine .app ?_ (State.setFld_stays ..) (by decide)
    refine .app ?_ (State.setReg_stays ..) (by decide)
    exact h_s
  clear_value s1
  refine .ite ?_ ?_
  · exact h_s
  · refine .ite ?_ ?_
    · refine .app ?_ (State.setFld_stays ..) (by decide)
      exact h_s1
    · exact h_s1

theorem beginTransit_stays (d : Nat) (s : State) :
    Stays [.clocks, .free] s (beginTransit d s) := by
  unfold beginTransit
  extract_lets -underBinder -merge -useContext +onlyGivenNames t vsrc vsrc_1
  have h_vsrc : Stays [.clocks, .free] s vsrc := by
    dsimp -zeta only [vsrc]
    refine .app ?_ (State.useFree_stays ..) (by decide)
    exact .refl ..
  clear_value vsrc
  refine .app ?_ (.set_clocks _ _) (by decide)
  exact h_vsrc

theorem aonChange_stays (s : State) :
    Stays [.regs, .seen, .fabric] s (aonChange s) := by
  unfold aonChange
  extract_lets -underBinder -merge -useContext +onlyGivenNames s1
  have h_s1 : Stays [.regs, .seen, .fabric] s s1 := by
    dsimp -zeta only [s1]
    refine .app ?_ (markEvent_stays ..) (by decide)
    exact .refl ..
  clear_value s1
  refine .ite ?_ ?_
  · refine .app ?_ (State.send_stays ..) (by decide)
    exact h_s1
  · exact h_s1

theorem domainOff_stays (d : Nat) (s : State) :
    Stays (allBut [.time, .rwlShadow, .bus, .leaks, .consumed, .otp, .chip, .smbus]) s (domainOff d s) := by
  unfold domainOff
  extract_lets -underBinder -merge -useContext +onlyGivenNames s0x s1
  have h_s0x : Stays (allBut [.time, .rwlShadow, .bus, .leaks, .consumed, .otp, .chip, .smbus]) s s0x := by
    dsimp -zeta only [s0x]
    refine .app ?_ (beginTransit_stays ..) (by decide)
    refine .ite ?_ ?_
    · refine .app ?_ (aonChange_stays ..) (by decide)
      exact .refl ..
    · exact .refl ..
  clear_value s0x
  have h_s1 : Stays (allBut [.time, .rwlShadow, .bus, .leaks, .consumed, .otp, .chip, .smbus]) s s1 := by
    dsimp -zeta only [s1]
    refine .foldl _ _ (fun u x hu => ?_) ?_
    · refine .app ?_ (endRecompute_stays ..) (by decide)
      exact hu
    · refine .ite ?_ ?_
      · refine .app ?_ (endSweep_stays ..) (by decide)
        exact h_s0x
      · exact h_s0x
  clear_value s1
  refine .ite ?_ ?_
  · exact .refl ..
  · refine .app ?_ (State.setBit_stays ..) (by decide)
    refine .foldl _ _ (fun u x hu => ?_) ?_
    · refine .app ?_ (keepCheck_stays ..) (by decide)
      refine .app ?_ (blockReset_stays ..) (by decide)
      exact hu
    · exact h_s1

theorem switchOff_stays (d : Nat) (s : State) :
    Stays (allBut [.time, .rwlShadow, .bus, .leaks, .consumed, .otp, .smbus]) s (switchOff d s) := by
  unfold switchOff
  refine .ite ?_ ?_
  · exact .refl ..
  · refine .app ?_ (domainOff_stays ..) (by decide)
    refine .foldl _ _ (fun u x hu => ?_) ?_
    · refine .app ?_ (blockEnd_stays ..) (by decide)
      exact hu
    · exact .refl ..

theorem freshClocks_stays (d : Nat) (s : State) :
    Stays [.clocks] s (freshClocks d s) := by
  unfold freshClocks
  extract_lets -underBinder -merge -useContext +onlyGivenNames mine vsrc
  refine .app ?_ (.set_clocks _ _) (by decide)
  exact .refl ..

theorem switchOn_stays (d : Nat) (s : State) :
    Stays [.regs, .clocks, .targets, .free, .ucode] s (switchOn d s) := by
  unfold switchOn
  extract_lets -underBinder -merge -useContext +onlyGivenNames s1
  have h_s1 : Stays [.regs, .clocks, .targets, .free, .ucode] s s1 := by
    dsimp -zeta only [s1]
    refine .foldl _ _ (fun u x hu => ?_) ?_
    · refine .app ?_ (startRestore_stays ..) (by decide)
      exact hu
    · refine .app ?_ (freshClocks_stays ..) (by decide)
      refine .app ?_ (beginTransit_stays ..) (by decide)
      refine .app ?_ (State.setBit_stays ..) (by decide)
      exact .refl ..
  clear_value s1
  refine .ite ?_ ?_
  · exact .refl ..
  · refine .ite ?_ ?_
    · refine .app ?_ (.set_targets _ _) (by decide)
      exact h_s1
    · exact h_s1

theorem switchOnAll_stays (ds : List Nat) (s : State) :
    Stays [.regs, .clocks, .targets, .free, .ucode] s (switchOnAll ds s) := by
  unfold switchOnAll
  refine .foldl _ _ (fun u x hu => ?_) ?_
  · refine .app ?_ (switchOn_stays ..) (by decide)
    exact hu
  · exact .refl ..

theorem domainsOff_stays (ds : List Nat) (s : State) :
    Stays (allBut [.time, .rwlShadow, .bus, .leaks, .consumed, .otp, .chip, .smbus]) s (domainsOff ds s) := by
  unfold domainsOff
  refine .foldl _ _ (fun u x hu => ?_) ?_
  · refine .app ?_ (domainOff_stays ..) (by decide)
    exact hu
  · exact .refl ..

end Sys2Proof.Machine
end

