-- ==== Sys2Proof/Laws/StaysBootOps.lean ====
section
/-! SUPPORT. What the operations and meanings of Machine/BootOps do at most. -/

set_option linter.all false
set_option maxRecDepth 4000

namespace Sys2Proof.Machine

theorem showOtp_stays (s : State) :
    Stays [.regs] s (showOtp s) := by
  unfold showOtp
  extract_lets -underBinder -merge -useContext +onlyGivenNames lvl w s1 pub
  have h_s1 : Stays [.regs] s s1 := by
    dsimp -zeta only [s1]
    refine .app ?_ (State.setReg_stays ..) (by decide)
    refine .app ?_ (State.setReg_stays ..) (by decide)
    refine .app ?_ (State.setReg_stays ..) (by decide)
    exact .refl ..
  clear_value s1
  refine .foldl _ _ (fun u x hu => ?_) ?_
  · refine .app ?_ (State.setReg_stays ..) (by decide)
    exact hu
  · exact h_s1

theorem readOtp_stays (bad : List (Nat × Bool)) (s : State) :
    Stays [.regs, .seen, .fabric, .stopped, .otp] s (readOtp bad s) := by
  unfold readOtp
  extract_lets -underBinder -merge -useContext +onlyGivenNames vsrc s1
  have h_s1 : Stays [.regs, .seen, .fabric, .stopped, .otp] s s1 := by
    dsimp -zeta only [s1]
    refine .app ?_ (.set_otp _ _) (by decide)
    exact .refl ..
  clear_value s1
  refine .app ?_ (showOtp_stays ..) (by decide)
  refine .foldl _ _ (fun u x hu => ?_) ?_
  · refine .ite ?_ ?_
    · refine .app ?_ (lasting_stays ..) (by decide)
      exact hu
    · refine .app ?_ (transient_stays ..) (by decide)
      exact hu
  · exact h_s1

theorem modKeys_stays (f : Keys → Keys) (s : State) :
    Stays [.keys] s (modKeys f s) := by
  unfold modKeys
  refine .app ?_ (.set_keys _ _) (by decide)
  exact .refl ..

theorem appendEntry_stays (e : List Byte) (s : State) :
    Stays [.regs, .seen, .fabric, .keys] s (appendEntry e s) := by
  unfold appendEntry
  extract_lets -underBinder -merge -useContext +onlyGivenNames n s1
  have h_s1 : Stays [.regs, .seen, .fabric, .keys] s s1 := by
    dsimp -zeta only [s1]
    refine .app ?_ (modKeys_stays ..) (by decide)
    exact .refl ..
  clear_value s1
  refine .app ?_ (raise_stays ..) (by decide)
  refine .app ?_ (State.setReg_stays ..) (by decide)
  exact h_s1

theorem clearedDevice_stays (s : State) :
    Stays (allBut []) s (clearedDevice s) :=
  ⟨⟨rfl, rfl, fun p h => by cases p <;> exact absurd (by decide) h⟩, fun _ => ⟨rfl, rfl⟩⟩

theorem markRelease_stays (s : State) :
    Stays [.regs] s (markRelease s) := by
  unfold markRelease
  refine .app ?_ (State.setReg64_stays ..) (by decide)
  exact .refl ..

theorem powerOff_stays (code : Nat) (tries : Nat) (powered : Bool) (s : State) :
    Stays (allBut []) s (powerOff code tries powered s) := by
  unfold powerOff
  extract_lets -underBinder -merge -useContext +onlyGivenNames s0x t t1 vsrc
  have h_s0x : Stays (allBut []) s s0x := by
    dsimp -zeta only [s0x]
    refine .ite ?_ ?_
    · refine .app ?_ (riggerAutonomous_stays ..) (by decide)
      exact .refl ..
    · exact .refl ..
  clear_value s0x
  have h_t : Stays (allBut []) s t := by
    dsimp -zeta only [t]
    refine .app ?_ (clearedDevice_stays ..) (by decide)
    exact h_s0x
  clear_value t
  have h_t1 : Stays (allBut []) s t1 := by
    dsimp -zeta only [t1]
    refine .ite ?_ ?_
    · refine .foldl _ _ (fun u x hu => ?_) ?_
      · refine .app ?_ (State.setReg_stays ..) (by decide)
        exact hu
      · refine .app ?_ (.set_rigger _ _) (by decide)
        exact h_t
    · exact h_t
  clear_value t1
  refine .app ?_ (State.setReg_stays ..) (by decide)
  refine .app ?_ (.set_chip _ _) (by decide)
  exact h_t1

theorem powerRelease_stays (cause : Nat) (powered : Bool) (s : State) :
    Stays (allBut []) s (powerRelease cause powered s) := by
  unfold powerRelease
  extract_lets -underBinder -merge -useContext +onlyGivenNames t t1
  have h_t : Stays (allBut []) s t := by
    dsimp -zeta only [t]
    refine .app ?_ (clearedDevice_stays ..) (by decide)
    exact .refl ..
  clear_value t
  have h_t1 : Stays (allBut []) s t1 := by
    dsimp -zeta only [t1]
    refine .ite ?_ ?_
    · refine .foldl _ _ (fun u x hu => ?_) ?_
      · refine .app ?_ (State.setReg_stays ..) (by decide)
        exact hu
      · refine .app ?_ (.set_rigger _ _) (by decide)
        exact h_t
    · exact h_t
  clear_value t1
  refine .app ?_ (markRelease_stays ..) (by decide)
  refine .app ?_ (State.critPut_stays ..) (by decide)
  exact h_t1

theorem deviceReset_stays (cause : Nat) (requester : Nat) (forced : Bool) (s : State) :
    Stays (allBut []) s (deviceReset cause requester forced s) := by
  unfold deviceReset
  extract_lets -underBinder -merge -useContext +onlyGivenNames s0x t vsrc vsrc_1 t1 t2 reason t3
  have h_s0x : Stays (allBut []) s s0x := by
    dsimp -zeta only [s0x]
    refine .app ?_ (riggerAutonomous_stays ..) (by decide)
    exact .refl ..
  clear_value s0x
  have h_t : Stays (allBut []) s t := by
    dsimp -zeta only [t]
    refine .app ?_ (clearedDevice_stays ..) (by decide)
    exact h_s0x
  clear_value t
  have h_t1 : Stays (allBut []) s t1 := by
    dsimp -zeta only [t1]
    refine .app (t := t) (qs := [.time, .crit, .rigger, .chip, .ump]) ?_ ⟨⟨rfl, rfl, fun p h0 => by cases p <;> first | rfl | exact absurd (by decide) h0⟩, id⟩ (by decide)
    exact h_t
  clear_value t1
  have h_t2 : Stays (allBut []) s t2 := by
    dsimp -zeta only [t2]
    refine .foldl _ _ (fun u x hu => ?_) ?_
    · refine .app ?_ (State.setReg_stays ..) (by decide)
      exact hu
    · exact h_t1
  clear_value t2
  have h_t3 : Stays (allBut []) s t3 := by
    dsimp -zeta only [t3]
    refine .app ?_ (State.critPut_stays ..) (by decide)
    refine .app ?_ (State.critPut_stays ..) (by decide)
    refine .app ?_ (State.critPut_stays ..) (by decide)
    refine .app ?_ (State.critPut_stays ..) (by decide)
    refine .app ?_ (State.critPut_stays ..) (by decide)
    exact h_t2
  clear_value t3
  refine .app ?_ (markRelease_stays ..) (by decide)
  refine .app ?_ (umpResume_stays ..) (by decide)
  refine .app ?_ (State.critPut_stays ..) (by decide)
  exact h_t3

theorem placePayload_stays (c : List Byte) (bytes : List Byte) (s : State) :
    Stays [.mem] s (placePayload c bytes s) := by
  unfold placePayload
  refine .app ?_ (State.putBytes_stays ..) (by decide)
  exact .refl ..

theorem handOff_stays (slot : Nat) (c : List Byte) (train : TrainResult × TrainResult) (s : State) :
    Stays [.regs, .seen, .fabric, .crit, .stopped, .mem, .drams, .keys] s (handOff slot c train s) := by
  unfold handOff
  extract_lets -underBinder -merge -useContext +onlyGivenNames s1 s2 s3
  have h_s1 : Stays [.regs, .seen, .fabric, .crit, .stopped, .mem, .drams, .keys] s s1 := by
    dsimp -zeta only [s1]
    refine .app ?_ (appendEntry_stays ..) (by decide)
    refine .app ?_ (placePayload_stays ..) (by decide)
    exact .refl ..
  clear_value s1
  have h_s2 : Stays [.regs, .seen, .fabric, .crit, .stopped, .mem, .drams, .keys] s s2 := by
    dsimp -zeta only [s2]
    refine .app ?_ (State.setFld_stays ..) (by decide)
    refine .app ?_ (State.critPut_stays ..) (by decide)
    exact h_s1
  clear_value s2
  have h_s3 : Stays [.regs, .seen, .fabric, .crit, .stopped, .mem, .drams, .keys] s s3 := by
    dsimp -zeta only [s3]
    refine .ite ?_ ?_
    · refine .app ?_ (dramInitEffect_stays ..) (by decide)
      refine .app ?_ (dramInitEffect_stays ..) (by decide)
      exact h_s2
    · exact h_s2
  clear_value s3
  refine .app ?_ (raise_stays ..) (by decide)
  exact h_s3

theorem imageFails_stays (slot : Nat) (code : Nat) (image : Option (List Byte)) (s : State) :
    Stays [.regs, .seen, .fabric, .stopped, .mem] s (imageFails slot code image s) := by
  unfold imageFails
  extract_lets -underBinder -merge -useContext +onlyGivenNames s1
  have h_s1 : Stays [.regs, .seen, .fabric, .stopped, .mem] s s1 := by
    dsimp -zeta only [s1]
    split
    · rename_i image1 c1
      refine .ite ?_ ?_
      · refine .app ?_ (placePayload_stays ..) (by decide)
        exact .refl ..
      · exact .refl ..
    · rename_i image1
      exact .refl ..
  clear_value s1
  refine .app ?_ (lasting_stays ..) (by decide)
  refine .app ?_ (State.setFld_stays ..) (by decide)
  exact h_s1

theorem enterRecovery_stays (s : State) :
    Stays (allBut [.time, .rwlShadow, .bus, .leaks, .consumed, .otp, .smbus]) s (enterRecovery s) := by
  unfold enterRecovery
  extract_lets -underBinder -merge -useContext +onlyGivenNames s1 vsrc s2
  have h_s1 : Stays (allBut [.time, .rwlShadow, .bus, .leaks, .consumed, .otp, .smbus]) s s1 := by
    dsimp -zeta only [s1]
    refine .app ?_ (domainsOff_stays ..) (by decide)
    exact .refl ..
  clear_value s1
  have h_s2 : Stays (allBut [.time, .rwlShadow, .bus, .leaks, .consumed, .otp, .smbus]) s s2 := by
    dsimp -zeta only [s2]
    refine .app ?_ (.set_chip _ _) (by decide)
    exact h_s1
  clear_value s2
  refine .app ?_ (raise_stays ..) (by decide)
  refine .app ?_ (State.setBit_stays ..) (by decide)
  exact h_s2

theorem bootSlots_stays (b : BootInputs) (s : State) :
    Stays (allBut [.time, .rwlShadow, .bus, .leaks, .consumed, .otp, .smbus]) s (bootSlots b s) := by
  unfold bootSlots
  extract_lets -underBinder -merge -useContext +onlyGivenNames train a s1 x
  have h_s1 : Stays (allBut [.time, .rwlShadow, .bus, .leaks, .consumed, .otp, .smbus]) s s1 := by
    dsimp -zeta only [s1]
    refine .app ?_ (imageFails_stays ..) (by decide)
    exact .refl ..
  clear_value s1
  refine .ite ?_ ?_
  · refine .app ?_ (handOff_stays ..) (by decide)
    exact .refl ..
  · refine .ite ?_ ?_
    · refine .app ?_ (handOff_stays ..) (by decide)
      exact h_s1
    · refine .app ?_ (enterRecovery_stays ..) (by decide)
      refine .app ?_ (imageFails_stays ..) (by decide)
      exact h_s1

theorem bootChain_stays (cause : Nat) (b : BootInputs) (s : State) :
    Stays (allBut [.time, .rwlShadow, .bus, .leaks, .consumed, .smbus]) s (bootChain cause b s) := by
  unfold bootChain
  extract_lets -underBinder -merge -useContext +onlyGivenNames s1 s2 s3 vsrc
  have h_s1 : Stays (allBut [.time, .rwlShadow, .bus, .leaks, .consumed, .smbus]) s s1 := by
    dsimp -zeta only [s1]
    refine .ite ?_ ?_
    · refine .app ?_ (raise_stays ..) (by decide)
      exact .refl ..
    · refine .ite ?_ ?_
      · refine .app ?_ (raise_stays ..) (by decide)
        exact .refl ..
      · exact .refl ..
  clear_value s1
  have h_s2 : Stays (allBut [.time, .rwlShadow, .bus, .leaks, .consumed, .smbus]) s s2 := by
    dsimp -zeta only [s2]
    refine .app ?_ (switchOnAll_stays ..) (by decide)
    refine .app ?_ (readOtp_stays ..) (by decide)
    exact h_s1
  clear_value s2
  have h_s3 : Stays (allBut [.time, .rwlShadow, .bus, .leaks, .consumed, .smbus]) s s3 := by
    dsimp -zeta only [s3]
    refine .app ?_ (bootSlots_stays ..) (by decide)
    exact h_s2
  clear_value s3
  refine .app ?_ (.set_chip _ _) (by decide)
  exact h_s3

end Sys2Proof.Machine
end

