-- ==== Sys2Proof/Laws/StaysDumpOps.lean ====
section
/-! SUPPORT. What the operations and meanings of Machine/DumpOps do at most. -/

set_option linter.all false
set_option maxRecDepth 4000

namespace Sys2Proof.Machine

theorem modSafe_stays (f : SafeStore → SafeStore) (s : State) :
    Stays [.safe] s (modSafe f s) := by
  unfold modSafe
  refine .app ?_ (.set_safe _ _) (by decide)
  exact .refl ..

theorem setNandPage_stays (k : Nat) (p : Option NandPage) (s : State) :
    Stays [.safe] s (setNandPage k p s) := by
  unfold setNandPage
  refine .app ?_ (modSafe_stays ..) (by decide)
  exact .refl ..

theorem eraseArea_stays (a : Nat) (worn : List Nat) (s : State) :
    Stays [.safe] s (eraseArea a worn s) := by
  unfold eraseArea
  refine .app ?_ (modSafe_stays ..) (by decide)
  exact .refl ..

theorem showHealth_stays (s : State) :
    Stays [.regs] s (showHealth s) := by
  unfold showHealth
  extract_lets -underBinder -merge -useContext +onlyGivenNames rs
  refine .app ?_ (State.setReg_stays ..) (by decide)
  exact .refl ..

theorem runChecks_stays (h : HealthEnd) (s : State) :
    Stays [.regs, .seen, .fabric, .stopped, .safe] s (runChecks h s) := by
  unfold runChecks
  extract_lets -underBinder -merge -useContext +onlyGivenNames s1 s2
  have h_s1 : Stays [.regs, .seen, .fabric, .stopped, .safe] s s1 := by
    dsimp -zeta only [s1]
    refine .app ?_ (modSafe_stays ..) (by decide)
    exact .refl ..
  clear_value s1
  have h_s2 : Stays [.regs, .seen, .fabric, .stopped, .safe] s s2 := by
    dsimp -zeta only [s2]
    refine .ite ?_ ?_
    · refine .app ?_ (transient_stays ..) (by decide)
      exact h_s1
    · exact h_s1
  clear_value s2
  refine .foldl _ _ (fun u x hu => ?_) ?_
  · refine .app ?_ (lasting_stays ..) (by decide)
    exact hu
  · refine .app ?_ (showHealth_stays ..) (by decide)
    exact h_s2

theorem dumpRead_stays (off : Nat) (n : Nat) (s : State) :
    Stays [.regs, .seen, .fabric, .stopped, .checks, .boat] s (dumpRead off n s).2 := by
  unfold dumpRead
  extract_lets -underBinder -merge -useContext +onlyGivenNames r
  have h_r : Stays [.regs, .seen, .fabric, .stopped, .checks, .boat] s r.2.2 := by
    dsimp -zeta only [r]
    refine .app ?_ (fetchBytes_stays ..) (by decide)
    exact .refl ..
  clear_value r
  refine .pair ?_
  exact h_r

theorem dumpGranules_stays (a : List Nat) (a1 : State) :
    Stays [.regs, .seen, .fabric, .stopped, .checks, .boat] a1 (dumpGranules a a1).2 := by
  induction a generalizing a1 with
  | nil =>
    unfold dumpGranules
    dsimp -zeta only
    exact .refl ..
  | cons x l ih =>
    unfold dumpGranules
    extract_lets -underBinder -merge -useContext +onlyGivenNames r q
    have h_r : Stays [.regs, .seen, .fabric, .stopped, .checks, .boat] a1 r.2.2 := by
      dsimp -zeta only [r]
      refine .app ?_ (readGranule_stays ..) (by decide)
      exact .refl ..
    clear_value r
    have h_q : Stays [.regs, .seen, .fabric, .stopped, .checks, .boat] a1 q.2 := by
      dsimp -zeta only [q]
      refine .app ?_ (ih ..) (by decide)
      exact h_r
    clear_value q
    refine .pair ?_
    exact h_q

theorem dumpInflight_stays (a : List Nat) (a1 : State) :
    Stays [.regs, .seen, .fabric, .stopped, .checks, .boat] a1 (dumpInflight a a1).2 := by
  induction a generalizing a1 with
  | nil =>
    unfold dumpInflight
    dsimp -zeta only
    exact .refl ..
  | cons x l ih =>
    unfold dumpInflight
    extract_lets -underBinder -merge -useContext +onlyGivenNames h b q
    have h_h : Stays [.regs, .seen, .fabric, .stopped, .checks, .boat] a1 h.2 := by
      dsimp -zeta only [h]
      refine .app ?_ (dumpRead_stays ..) (by decide)
      exact .refl ..
    clear_value h
    have h_b : Stays [.regs, .seen, .fabric, .stopped, .checks, .boat] a1 b.2 := by
      dsimp -zeta only [b]
      split
      · rename_i e
        refine .app ?_ (dumpRead_stays ..) (by decide)
        exact h_h
      · rename_i e
        refine .pair ?_
        exact h_h
    clear_value b
    have h_q : Stays [.regs, .seen, .fabric, .stopped, .checks, .boat] a1 q.2 := by
      dsimp -zeta only [q]
      refine .app ?_ (ih ..) (by decide)
      exact h_b
    clear_value q
    refine .pair ?_
    exact h_q

theorem dumpSections_stays (s : State) :
    Stays [.regs, .seen, .fabric, .stopped, .checks, .boat] s (dumpSections s).2 := by
  unfold dumpSections
  extract_lets -underBinder -merge -useContext +onlyGivenNames r1 r2 r3 r4 r5 es r6
  have h_r1 : Stays [.regs, .seen, .fabric, .stopped, .checks, .boat] s r1.2 := by
    dsimp -zeta only [r1]
    refine .app ?_ (dumpInflight_stays ..) (by decide)
    exact .refl ..
  clear_value r1
  have h_r2 : Stays [.regs, .seen, .fabric, .stopped, .checks, .boat] s r2.2 := by
    dsimp -zeta only [r2]
    refine .app ?_ (dumpRead_stays ..) (by decide)
    exact h_r1
  clear_value r2
  have h_r3 : Stays [.regs, .seen, .fabric, .stopped, .checks, .boat] s r3.2 := by
    dsimp -zeta only [r3]
    split
    · rename_i e
      refine .pair ?_
      exact h_r2
    · rename_i e
      refine .app ?_ (dumpRead_stays ..) (by decide)
      exact h_r2
  clear_value r3
  have h_r4 : Stays [.regs, .seen, .fabric, .stopped, .checks, .boat] s r4.2 := by
    dsimp -zeta only [r4]
    refine .app ?_ (dumpRead_stays ..) (by decide)
    exact h_r3
  clear_value r4
  have h_r5 : Stays [.regs, .seen, .fabric, .stopped, .checks, .boat] s r5.2 := by
    dsimp -zeta only [r5]
    refine .app ?_ (dumpRead_stays ..) (by decide)
    exact h_r4
  clear_value r5
  have h_r6 : Stays [.regs, .seen, .fabric, .stopped, .checks, .boat] s r6.2 := by
    dsimp -zeta only [r6]
    refine .app ?_ (dumpGranules_stays ..) (by decide)
    exact h_r5
  clear_value r6
  refine .pair ?_
  exact h_r6

theorem startDump_stays (cause : Nat) (s : State) :
    Stays [.regs, .seen, .fabric, .crit, .stopped, .checks, .boat, .safe] s (startDump cause s) := by
  unfold startDump
  refine .ite ?_ ?_
  · exact .refl ..
  · split
    · rename_i x1 e
      exact .refl ..
    · rename_i x1 k1 e
      extract_lets -underBinder -merge -useContext +onlyGivenNames seq r dir h parts d s1 s2
      have h_r : Stays [.regs, .seen, .fabric, .crit, .stopped, .checks, .boat, .safe] s r.2 := by
        dsimp -zeta only [r]
        refine .app ?_ (dumpSections_stays ..) (by decide)
        exact .refl ..
      clear_value r
      have h_s1 : Stays [.regs, .seen, .fabric, .crit, .stopped, .checks, .boat, .safe] s s1 := by
        dsimp -zeta only [s1]
        refine .app ?_ (modSafe_stays ..) (by decide)
        exact h_r
      clear_value s1
      have h_s2 : Stays [.regs, .seen, .fabric, .crit, .stopped, .checks, .boat, .safe] s s2 := by
        dsimp -zeta only [s2]
        refine .app ?_ (State.setBit_stays ..) (by decide)
        refine .app ?_ (putDumpState_stays ..) (by decide)
        exact h_s1
      clear_value s2
      refine .app ?_ (raise_stays ..) (by decide)
      exact h_s2

theorem dumpPage_stays (d : Dump) (k : Nat) (s : State) :
    Stays [.safe] s (dumpPage d k s) := by
  unfold dumpPage
  split
  · rename_i x1 b1 rest1 e
    refine .app ?_ (modSafe_stays ..) (by decide)
    exact .refl ..
  · rename_i x1 rest1 e
    extract_lets -underBinder -merge -useContext +onlyGivenNames ps
    refine .app ?_ (modSafe_stays ..) (by decide)
    exact .refl ..
  · rename_i x1 rest1 e
    extract_lets -underBinder -merge -useContext +onlyGivenNames ws
    refine .app ?_ (modSafe_stays ..) (by decide)
    exact .refl ..
  · rename_i x1 e
    exact .refl ..

theorem closeDump_stays (d : Dump) (s : State) :
    Stays [.regs, .seen, .fabric, .crit, .safePending, .safe] s (closeDump d s) := by
  unfold closeDump
  extract_lets -underBinder -merge -useContext +onlyGivenNames ms s3 s4
  have h_s3 : Stays [.regs, .seen, .fabric, .crit, .safePending, .safe] s s3 := by
    dsimp -zeta only [s3]
    refine .app ?_ (State.setReg_stays ..) (by decide)
    refine .app ?_ (State.setReg_stays ..) (by decide)
    refine .app ?_ (fileDump_stays ..) (by decide)
    exact .refl ..
  clear_value s3
  have h_s4 : Stays [.regs, .seen, .fabric, .crit, .safePending, .safe] s s4 := by
    dsimp -zeta only [s4]
    refine .app ?_ (modSafe_stays ..) (by decide)
    exact h_s3
  clear_value s4
  refine .app ?_ (showHealth_stays ..) (by decide)
  refine .ite ?_ ?_
  · refine .app ?_ (raise_stays ..) (by decide)
    exact h_s4
  · exact h_s4

theorem releaseArea_stays (a : Nat) (s : State) :
    Stays [.regs, .seen, .fabric, .crit, .safePending, .safe] s (releaseArea a s) := by
  unfold releaseArea
  extract_lets -underBinder -merge -useContext +onlyGivenNames s1
  have h_s1 : Stays [.regs, .seen, .fabric, .crit, .safePending, .safe] s s1 := by
    dsimp -zeta only [s1]
    split
    · rename_i x1 e
      exact .refl ..
    · rename_i x1 h1 e
      extract_lets -underBinder -merge -useContext +onlyGivenNames seq last
      split
      · rename_i x2 e1
        exact .refl ..
      · rename_i x2 k1 e1
        refine .app ?_ (setNandPage_stays ..) (by decide)
        exact .refl ..
  clear_value s1
  refine .app ?_ (showHealth_stays ..) (by decide)
  refine .app ?_ (State.setCritFld_stays ..) (by decide)
  exact h_s1

end Sys2Proof.Machine
end

