-- ==== Sys2Proof/Laws/StaysCrew.lean ====
section
/-! SUPPORT. What the operations and meanings of Machine/Crew do at most. -/

set_option linter.all false
set_option maxRecDepth 4000

namespace Sys2Proof.Machine

theorem fetchDesc_stays (off : Nat) (s : State) :
    Stays [.regs, .seen, .fabric, .stopped, .checks, .boat] s (fetchDesc off s).2.2 := by
  unfold fetchDesc
  extract_lets -underBinder -merge -useContext +onlyGivenNames r q
  have h_r : Stays [.regs, .seen, .fabric, .stopped, .checks, .boat] s r.2.2 := by
    dsimp -zeta only [r]
    refine .app ?_ (fetchWords_stays ..) (by decide)
    exact .refl ..
  clear_value r
  have h_q : Stays [.regs, .seen, .fabric, .stopped, .checks, .boat] s q.2.2 := by
    dsimp -zeta only [q]
    refine .app ?_ (fetchWords_stays ..) (by decide)
    exact h_r
  clear_value q
  split
  · rename_i e
    refine .triple ?_
    exact h_r
  · rename_i e
    refine .triple ?_
    exact h_q

theorem bandResult_stays (outcome : Nat) (code : Nat) (s : State) :
    Stays [.regs] s (bandResult outcome code s) := by
  unfold bandResult
  refine .app ?_ (State.setReg_stays ..) (by decide)
  exact .refl ..

theorem bandRefused_stays (code : Nat) (s : State) :
    Stays [.regs] s (bandRefused code s) := by
  unfold bandRefused
  refine .app ?_ (bandResult_stays ..) (by decide)
  exact .refl ..

theorem bandDone_stays (s : State) :
    Stays [.regs] s (bandDone s) := by
  unfold bandDone
  refine .app ?_ (bandResult_stays ..) (by decide)
  exact .refl ..

theorem bandProgress_stays (code : Nat) (b : Nat) (s : State) :
    Stays [.regs, .seen, .fabric] s (bandProgress code b s) := by
  unfold bandProgress
  refine .app ?_ (raise_stays ..) (by decide)
  exact .refl ..

theorem bandCommand_stays {P : List Piece} {s0 : State} (op : Nat) (req : Requester) (v : Word) (f : Nat → State → State) (s : State) (h_f : ∀ a0 u, Stays P s0 u → Stays P s0 (f a0 u)) (hq : sub [.regs, .bus, .seen, .fabric, .stopped] P = true) (h0 : Stays P s0 s) :
    Stays P s0 (bandCommand op req v f s) := by
  unfold bandCommand
  refine .when _ _ (fun u hu => ?_) ?_
  · refine withWrite_stays _ _ _ _ _ ?_ (sub_trans (by decide) hq) ?_
    · intro u1 hu1
      refine h_f _ _ ?_
      exact hu1
    · exact hu
  · exact h0

theorem enabledCommand_stays {P : List Piece} {s0 : State} (op : Nat) (req : Requester) (v : Word) (f : Nat → Band → State → State) (s : State) (h_f : ∀ a0 a1 u, Stays P s0 u → Stays P s0 (f a0 a1 u)) (hq : sub [.regs, .bus, .seen, .fabric, .stopped] P = true) (h0 : Stays P s0 s) :
    Stays P s0 (enabledCommand op req v f s) := by
  unfold enabledCommand
  refine bandCommand_stays _ _ _ _ _ ?_ (sub_trans (by decide) hq) ?_
  · intro x u hu
    split
    · rename_i x1 x2 e
      refine h_f _ _ _ ?_
      exact hu
    · rename_i x1 e
      refine .app ?_ (bandRefused_stays ..) (sub_trans (by decide) hq)
      exact hu
  · exact h0

theorem loadLists_stays (s : State) :
    Stays [.crew] s (loadLists s) := by
  unfold loadLists
  extract_lets -underBinder -merge -useContext +onlyGivenNames entryWords mine stale lost
  refine .app ?_ (modCrew_stays ..) (by decide)
  exact .refl ..

theorem enableBand_stays (b : Nat) (s : State) :
    Stays [.regs, .seen, .fabric, .stopped, .checks, .boat, .crew] s (enableBand b s) := by
  have pick : ∀ (r q : List Word × Bool × State) (c : Bool), Stays [.regs, .seen, .fabric, .stopped, .checks, .boat, .crew] s r.2.2 → Stays [.regs, .seen, .fabric, .stopped, .checks, .boat, .crew] s q.2.2 →
      Stays [.regs, .seen, .fabric, .stopped, .checks, .boat, .crew] s (if c = true then q else (r.1, r.2.1, r.2.2)).2.2 := fun r q c hr hq => by cases c <;> assumption
  have tail : ∀ (named ok : Bool) (d : List Word) (q : List Word × Bool × State), Stays [.regs, .seen, .fabric, .stopped, .checks, .boat, .crew] s q.2.2 → Stays [.regs, .seen, .fabric, .stopped, .checks, .boat, .crew] s (match descFault q.2.2 ok d with
      | some code => bandRefused code q.2.2
      | none => bandDone (loadLists (if named = true then modCrew (fun c => { c with target := some q.1 }) (setBand b (some ⟨d, false, false, false⟩) q.2.2)
          else setBand b (some ⟨d, false, false, false⟩) q.2.2))) := fun named ok d q hq => by
    split
    · exact .app hq (bandRefused_stays ..) (by decide)
    · have h1 := hq.app (setBand_stays b (some ⟨d, false, false, false⟩) q.2.2) (by decide)
      exact .app (.app (.ite (.app h1 (modCrew_stays ..) (by decide)) h1) (loadLists_stays ..) (by decide)) (bandDone_stays ..) (by decide)
  have hf : ∀ (o : Nat) (t : State), Stays [.regs, .seen, .fabric, .stopped, .checks, .boat, .crew] s t → Stays [.regs, .seen, .fabric, .stopped, .checks, .boat, .crew] s (fetchDesc o t).2.2 := fun o t h => h.app (fetchDesc_stays o t) (by decide)
  unfold enableBand
  exact tail _ _ _ _ (pick _ _ _ (hf _ _ (.refl ..)) (hf _ _ (hf _ _ (.refl ..))))

theorem execBandEnable_stays (req : Requester) (v : Word) (s : State) :
    Answers [.regs, .bus, .seen, .fabric, .stopped, .checks, .boat, .crew] s (execBandEnable req v s) := by
  unfold execBandEnable
  refine .next ?_
  refine bandCommand_stays _ _ _ _ _ ?_ (by decide) ?_
  · intro x u hu
    refine .ite ?_ ?_
    · refine .app ?_ (bandRefused_stays ..) (by decide)
      exact hu
    · refine .app ?_ (enableBand_stays ..) (by decide)
      exact hu
  · exact .refl ..

theorem execBandDisable_stays (req : Requester) (v : Word) (s : State) :
    Answers [.regs, .bus, .seen, .fabric, .stopped, .crew] s (execBandDisable req v s) := by
  unfold execBandDisable
  refine .next ?_
  refine enabledCommand_stays _ _ _ _ _ ?_ (by decide) ?_
  · intro x x1 u hu
    refine .app ?_ (bandResult_stays ..) (by decide)
    refine .app ?_ (setBand_stays ..) (by decide)
    exact hu
  · exact .refl ..

theorem execBandDisableDone_stays (b : Nat) (s : State) :
    Answers [.regs, .crew] s (execBandDisableDone b s) := by
  unfold execBandDisableDone
  refine .next ?_
  refine .when _ _ (fun u hu => ?_) ?_
  · refine .app ?_ (bandDone_stays ..) (by decide)
    refine .app ?_ (setBand_stays ..) (by decide)
    exact hu
  · exact .refl ..

theorem assignSpares_stays (b : Nat) (s : State) :
    Stays [.regs, .seen, .fabric, .stopped, .mem, .checks, .boat, .crew] s (assignSpares b s) := by
  unfold assignSpares
  refine .foldl _ _ (fun u x hu => ?_) ?_
  · extract_lets -underBinder -merge -useContext +onlyGivenNames d
    refine .ite ?_ ?_
    · refine .app ?_ (takeSpare_stays ..) (by decide)
      exact hu
    · exact hu
  · exact .refl ..

theorem execBandStart_stays (req : Requester) (v : Word) (s : State) :
    Answers [.regs, .bus, .seen, .fabric, .stopped, .mem, .checks, .boat, .crew] s (execBandStart req v s) := by
  unfold execBandStart
  refine .next ?_
  refine enabledCommand_stays _ _ _ _ _ ?_ (by decide) ?_
  · intro x x1 u hu
    extract_lets -underBinder -merge -useContext +onlyGivenNames t1
    have h_t1 : Stays [.regs, .bus, .seen, .fabric, .stopped, .mem, .checks, .boat, .crew] s t1 := by
      dsimp -zeta only [t1]
      refine .app ?_ (setBand_stays ..) (by decide)
      exact hu
    clear_value t1
    refine .app ?_ (bandDone_stays ..) (by decide)
    refine .ite ?_ ?_
    · exact h_t1
    · refine .app ?_ (assignSpares_stays ..) (by decide)
      exact h_t1
  · exact .refl ..

theorem execBandPause_stays (req : Requester) (v : Word) (s : State) :
    Answers [.regs, .bus, .seen, .fabric, .stopped, .crew] s (execBandPause req v s) := by
  unfold execBandPause
  refine .next ?_
  refine enabledCommand_stays _ _ _ _ _ ?_ (by decide) ?_
  · intro x x1 u hu
    refine .app ?_ (bandDone_stays ..) (by decide)
    refine .app ?_ (setBand_stays ..) (by decide)
    exact hu
  · exact .refl ..

theorem startResync_stays (b : Nat) (s : State) :
    Stays [.regs, .seen, .fabric, .stopped, .mem, .checks, .boat, .crew] s (startResync b s) := by
  unfold startResync
  refine .app ?_ (modBandWord_stays ..) (by decide)
  refine .app ?_ (modBandWord_stays ..) (by decide)
  exact .refl ..

theorem execBandResync_stays (req : Requester) (v : Word) (s : State) :
    Answers [.regs, .bus, .seen, .fabric, .stopped, .mem, .checks, .boat, .crew] s (execBandResync req v s) := by
  unfold execBandResync
  refine .next ?_
  refine enabledCommand_stays _ _ _ _ _ ?_ (by decide) ?_
  · intro x x1 u hu
    refine .app ?_ (bandDone_stays ..) (by decide)
    refine .app ?_ (startResync_stays ..) (by decide)
    exact hu
  · exact .refl ..

theorem execBandReshape_stays (req : Requester) (v : Word) (s : State) :
    Answers [.regs, .bus, .seen, .fabric, .crit, .stopped, .checks, .boat, .crew] s (execBandReshape req v s) := by
  have fin : ∀ (b : Nat) (ws : List Word) (r : List Word × Bool × State), Stays [.regs, .bus, .seen, .fabric, .crit, .stopped, .checks, .boat, .crew] s r.2.2 → Stays [.regs, .bus, .seen, .fabric, .crit, .stopped, .checks, .boat, .crew] s (match reshapeFault r.2.2 r.2.1 ws r.1 with
      | some code => bandRefused code r.2.2
      | none => bandDone (modCrew (fun c => { c with target := some r.1, recopy := [] }) (r.2.2.critPut 13 (word (b + 2 ^ 16))))) := fun b ws r h => by
    split
    · exact .app h (bandRefused_stays ..) (by decide)
    · exact .app (.app (.app h (State.critPut_stays ..) (by decide)) (modCrew_stays ..) (by decide)) (bandDone_stays ..) (by decide)
  unfold execBandReshape
  refine .next (enabledCommand_stays _ _ _ _ _ (fun b x t ht => ?_) (by decide) (.refl ..))
  exact fin b x.words _ (ht.app (fetchDesc_stays (targetOff t) t) (by decide))

theorem execBandCommit_stays (req : Requester) (v : Word) (s : State) :
    Answers [.regs, .bus, .seen, .fabric, .crit, .stopped, .mem, .checks, .boat, .crew] s (execBandCommit req v s) := by
  have fin : ∀ (b : Nat) (w : Word) (r : List Word × Bool × State), Stays [.regs, .bus, .seen, .fabric, .crit, .stopped, .mem, .checks, .boat, .crew] s r.2.2 → Stays [.regs, .bus, .seen, .fabric, .crit, .stopped, .mem, .checks, .boat, .crew] s (if (!r.2.1 || r.1.getD 31 0#32 != w) = true
      then bandRefused 5 r.2.2
      else assignSpares b (bandProgress 5 b (bandDone (modCrew (fun c => { c with target := none }) (r.2.2.critPut 13 0#32))))) := fun b w r h =>
    .ite (.app h (bandRefused_stays ..) (by decide)) (.app (.app (.app (.app (.app h (State.critPut_stays ..) (by decide)) (modCrew_stays ..)
      (by decide)) (bandDone_stays ..) (by decide)) (bandProgress_stays ..) (by decide)) (assignSpares_stays ..) (by decide))
  unfold execBandCommit
  refine .next (enabledCommand_stays _ _ _ _ _ (fun b x t ht => .ite (.app ht (bandRefused_stays ..) (by decide)) ?_) (by decide) (.refl ..))
  exact fin b (x.words.getD 31 0#32) _ (ht.app (fetchDesc_stays (bandEntryOff t b) t) (by decide))

theorem execBandCmdUnlisted_stays (req : Requester) (v : Word) (s : State) :
    Answers [.regs, .bus, .seen, .fabric, .stopped] s (execBandCmdUnlisted req v s) := by
  unfold execBandCmdUnlisted
  refine .next ?_
  refine .when _ _ (fun u hu => ?_) ?_
  · refine withWrite_stays _ _ _ _ _ ?_ (by decide) ?_
    · intro u1 hu1
      refine .app ?_ (bandRefused_stays ..) (by decide)
      exact hu1
    · exact hu
  · exact .refl ..

theorem withStripe_stays {P : List Piece} {s0 : State} (a : StripeAsk) (f : State → State) (s : State) (h_f : ∀ u, Stays P s0 u → Stays P s0 (f u)) (hq : sub [.crew] P = true) (h0 : Stays P s0 s) :
    Stays P s0 (withStripe a f s) := by
  unfold withStripe
  refine .ite ?_ ?_
  · refine h_f _ ?_
    refine .app ?_ (modCrew_stays ..) (sub_trans (by decide) hq)
    exact h0
  · refine .app ?_ (modCrew_stays ..) (sub_trans (by decide) hq)
    exact h0

theorem takeStripe_stays (ty : Nat) (e : Nat) (s : State) :
    Stays [.regs, .seen, .fabric, .crit, .queues, .ended, .stopped, .free, .safePending, .oars, .sweep, .gates, .returned, .mem, .checks, .boat, .crew, .cryptos] s (takeStripe ty e s) := by
  unfold takeStripe
  split
  · rename_i x1 e1
    exact .refl ..
  · rename_i x1 it1 e1
    extract_lets -underBinder -merge -useContext +onlyGivenNames listed
    refine .ite ?_ ?_
    · exact .refl ..
    · split
      · rename_i x2 x3 code1 fst1 t1 e2 e3
        refine .app ?_ (returnStatus_stays ..) (by decide)
        refine .app ?_ (raise_stays ..) (by decide)
        refine .app ?_ (qNext_stays _ _ _ e3) (by decide)
        exact .refl ..
      · rename_i x2 x3 fst1 t1 e2 e3
        extract_lets -underBinder -merge -useContext +onlyGivenNames a
        refine .ite ?_ ?_
        · refine withStripe_stays _ _ _ ?_ (by decide) ?_
          · intro u hu
            dsimp -zeta only [id]
            exact hu
          · exact .refl ..
        · refine withStripe_stays _ _ _ ?_ (by decide) ?_
          · intro u hu
            refine .app ?_ (stepJob_stays ..) (by decide)
            refine .app ?_ (addJob_stays ..) (by decide)
            exact hu
          · refine .app ?_ (qNext_stays _ _ _ e3) (by decide)
            exact .refl ..
      · rename_i x2 x3 e2
        exact .refl ..

theorem stripeCommand_stays (ty : Nat) (e : Nat) (s : State) :
    Stays [.regs, .seen, .fabric, .crit, .queues, .ended, .stopped, .free, .safePending, .oars, .sweep, .gates, .returned, .consumed, .mem, .checks, .boat, .crew, .cryptos] s (stripeCommand ty e s) := by
  unfold stripeCommand
  refine .when _ _ (fun u hu => ?_) ?_
  · extract_lets -underBinder -merge -useContext +onlyGivenNames s1 mine s2
    have h_s1 : Stays [.regs, .seen, .fabric, .crit, .queues, .ended, .stopped, .free, .safePending, .oars, .sweep, .gates, .returned, .consumed, .mem, .checks, .boat, .crew, .cryptos] s s1 := by
      dsimp -zeta only [s1]
      refine .app ?_ (crewDrain_stays ..) (by decide)
      exact hu
    clear_value s1
    have h_s2 : Stays [.regs, .seen, .fabric, .crit, .queues, .ended, .stopped, .free, .safePending, .oars, .sweep, .gates, .returned, .consumed, .mem, .checks, .boat, .crew, .cryptos] s s2 := by
      dsimp -zeta only [s2]
      refine .foldl _ _ (fun u1 x hu1 => ?_) ?_
      · refine .app ?_ (stepJob_stays ..) (by decide)
        exact hu1
      · exact h_s1
    clear_value s2
    refine .ite ?_ ?_
    · refine .app ?_ (takeStripe_stays ..) (by decide)
      exact h_s2
    · exact h_s2
  · exact .refl ..

theorem execStripeWrite_stays (e : Nat) (s : State) :
    Answers [.regs, .seen, .fabric, .crit, .queues, .ended, .stopped, .free, .safePending, .oars, .sweep, .gates, .returned, .consumed, .mem, .checks, .boat, .crew, .cryptos] s (execStripeWrite e s) := by
  unfold execStripeWrite
  refine .next ?_
  refine .app ?_ (stripeCommand_stays ..) (by decide)
  exact .refl ..

theorem execStripeRead_stays (e : Nat) (s : State) :
    Answers [.regs, .seen, .fabric, .crit, .queues, .ended, .stopped, .free, .safePending, .oars, .sweep, .gates, .returned, .consumed, .mem, .checks, .boat, .crew, .cryptos] s (execStripeRead e s) := by
  unfold execStripeRead
  refine .next ?_
  refine .app ?_ (stripeCommand_stays ..) (by decide)
  exact .refl ..

theorem ownRepair_stays (e : Nat) (s : State) :
    Stays [.regs, .seen, .fabric, .crit, .queues, .ended, .stopped, .free, .safePending, .oars, .sweep, .gates, .returned, .mem, .checks, .boat, .crew, .cryptos] s (ownRepair e s) := by
  unfold ownRepair
  split
  · rename_i x1 x2 e1
    refine .ite ?_ ?_
    · exact .refl ..
    · refine withStripe_stays _ _ _ ?_ (by decide) ?_
      · intro u hu
        refine .app ?_ (stepJob_stays ..) (by decide)
        refine .app ?_ (addJob_stays ..) (by decide)
        exact hu
      · exact .refl ..
  · rename_i x1 e1
    exact .refl ..

theorem execStripeRepair_stays (e : Nat) (s : State) :
    Answers [.regs, .seen, .fabric, .crit, .queues, .ended, .stopped, .free, .safePending, .oars, .sweep, .gates, .returned, .consumed, .mem, .checks, .boat, .crew, .cryptos] s (execStripeRepair e s) := by
  unfold execStripeRepair
  refine .next ?_
  refine .app ?_ (stripeCommand_stays ..) (by decide)
  refine .when _ _ (fun u hu => ?_) ?_
  · refine .app ?_ (ownRepair_stays ..) (by decide)
    exact hu
  · exact .refl ..

theorem repairOver_stays (j : StripeJob) (s : State) :
    Stays [.regs, .seen, .fabric, .stopped, .mem, .checks, .boat, .crew] s (repairOver j s) := by
  unfold repairOver
  extract_lets -underBinder -merge -useContext +onlyGivenNames mine failed s1
  have h_s1 : Stays [.regs, .seen, .fabric, .stopped, .mem, .checks, .boat, .crew] s s1 := by
    dsimp -zeta only [s1]
    refine .foldl _ _ (fun u x hu => ?_) ?_
    · refine .ite ?_ ?_
      · refine .app ?_ (lasting_stays ..) (by decide)
        exact hu
      · exact hu
    · exact .refl ..
  clear_value s1
  refine .ite ?_ ?_
  · exact h_s1
  · refine .app ?_ (setStale_stays ..) (by decide)
    exact h_s1

theorem queueRecopy_stays (j : StripeJob) (s : State) :
    Stays [.crew] s (queueRecopy j s) := by
  unfold queueRecopy
  extract_lets -underBinder -merge -useContext +onlyGivenNames d dn x lo hi ts
  refine .ite ?_ ?_
  · exact .refl ..
  · refine .app ?_ (modCrew_stays ..) (by decide)
    exact .refl ..

theorem secondMeans_stays (j : StripeJob) (s : State) :
    Stays [.regs, .seen, .fabric, .stopped] s (secondMeans j s) := by
  unfold secondMeans
  extract_lets -underBinder -merge -useContext +onlyGivenNames pl
  refine .ite ?_ ?_
  · exact .refl ..
  · refine .ite ?_ ?_
    · refine .app ?_ (lasting_stays ..) (by decide)
      exact .refl ..
    · refine .app ?_ (transient_stays ..) (by decide)
      exact .refl ..

theorem completeJob_stays (j : StripeJob) (s : State) :
    Stays [.regs, .seen, .fabric, .queues, .ended, .stopped, .free, .returned, .mem, .checks, .boat, .crew, .slip, .cryptos] s (completeJob j s) := by
  unfold completeJob
  extract_lets -underBinder -merge -useContext +onlyGivenNames s1 s2 s3 s4 s5
  have h_s1 : Stays [.regs, .seen, .fabric, .queues, .ended, .stopped, .free, .returned, .mem, .checks, .boat, .crew, .slip, .cryptos] s s1 := by
    dsimp -zeta only [s1]
    refine .app ?_ (secondMeans_stays ..) (by decide)
    exact .refl ..
  clear_value s1
  have h_s2 : Stays [.regs, .seen, .fabric, .queues, .ended, .stopped, .free, .returned, .mem, .checks, .boat, .crew, .slip, .cryptos] s s2 := by
    dsimp -zeta only [s2]
    refine .ite ?_ ?_
    · refine .app ?_ (repairOver_stays ..) (by decide)
      exact h_s1
    · exact h_s1
  clear_value s2
  have h_s3 : Stays [.regs, .seen, .fabric, .queues, .ended, .stopped, .free, .returned, .mem, .checks, .boat, .crew, .slip, .cryptos] s s3 := by
    dsimp -zeta only [s3]
    split
    · rename_i x1 code1 e
      refine .app ?_ (retireRecord_stays ..) (by decide)
      exact h_s2
    · rename_i x1 e
      exact h_s2
  clear_value s3
  have h_s4 : Stays [.regs, .seen, .fabric, .queues, .ended, .stopped, .free, .returned, .mem, .checks, .boat, .crew, .slip, .cryptos] s s4 := by
    dsimp -zeta only [s4]
    refine .ite ?_ ?_
    · refine .app ?_ (findStripe_stays ..) (by decide)
      exact h_s3
    · exact h_s3
  clear_value s4
  have h_s5 : Stays [.regs, .seen, .fabric, .queues, .ended, .stopped, .free, .returned, .mem, .checks, .boat, .crew, .slip, .cryptos] s s5 := by
    dsimp -zeta only [s5]
    refine .app ?_ (queueRecopy_stays ..) (by decide)
    refine .app ?_ (State.count_stays ..) (by decide)
    exact h_s4
  clear_value s5
  refine .app ?_ (hostDrain_stays ..) (by decide)
  refine .app ?_ (dropJob_stays ..) (by decide)
  refine .app ?_ (returnStatus_stays ..) (by decide)
  exact h_s5

theorem execStripeDone_stays (id : Nat) (s : State) :
    Answers [.regs, .seen, .fabric, .crit, .queues, .ended, .stopped, .free, .safePending, .returned, .consumed, .mem, .checks, .boat, .crew, .slip, .cryptos] s (execStripeDone id s) := by
  unfold execStripeDone
  refine .next ?_
  refine .when _ _ (fun u hu => ?_) ?_
  · extract_lets -underBinder -merge -useContext +onlyGivenNames s1
    have h_s1 : Stays [.regs, .seen, .fabric, .crit, .queues, .ended, .stopped, .free, .safePending, .returned, .consumed, .mem, .checks, .boat, .crew, .slip, .cryptos] s s1 := by
      dsimp -zeta only [s1]
      refine .app ?_ (crewDrain_stays ..) (by decide)
      exact hu
    clear_value s1
    split
    · rename_i x1 j1 e
      refine .ite ?_ ?_
      · refine .app ?_ (completeJob_stays ..) (by decide)
        exact h_s1
      · exact h_s1
    · rename_i x1 e
      exact h_s1
  · exact .refl ..

theorem critWriteAt_stays {P : List Piece} {s0 : State} (n : Nat) (req : Requester) (addr : Addr) (v : Word) (eff : State → State) (s : State) (h_eff : ∀ u, Stays P s0 u → Stays P s0 (eff u)) (hq : sub [.regs, .bus, .seen, .fabric, .stopped] P = true) (h0 : Stays P s0 s) :
    Stays P s0 (critWriteAt n req addr v eff s) := by
  unfold critWriteAt
  split
  · rename_i x1 code1 e
    refine .ite ?_ ?_
    · refine withWrite_stays _ _ _ _ _ ?_ (sub_trans (by decide) hq) ?_
      · intro u hu
        refine h_eff _ ?_
        exact hu
      · exact h0
    · exact h0
  · rename_i x1 e
    exact h0

theorem execMemberFailWrite_stays (req : Requester) (addr : Addr) (v : Word) (s : State) :
    Answers [.regs, .bus, .seen, .fabric, .crit, .queues, .ended, .stopped, .safePending, .oars, .sweep, .gates, .returned, .mem, .checks, .boat, .crew] s (execMemberFailWrite req addr v s) := by
  unfold execMemberFailWrite
  refine .next ?_
  refine critWriteAt_stays _ _ _ _ _ _ ?_ (by decide) ?_
  · intro u hu
    refine .foldl _ _ (fun u1 x hu1 => ?_) ?_
    · refine .ite ?_ ?_
      · refine .app ?_ (failMember_stays ..) (by decide)
        exact hu1
      · refine .ite ?_ ?_
        · refine .app ?_ (State.critPut_stays ..) (by decide)
          exact hu1
        · exact hu1
    · exact hu
  · exact .refl ..

theorem beginOwn_stays {P : List Piece} {s0 : State} (kind : Nat) (e : Nat) (b : Nat) (st : Nat) (slot : Nat) (first : Nat) (count : Nat) (f : State → State) (s : State) (h_f : ∀ u, Stays P s0 u → Stays P s0 (f u)) (hq : sub [.regs, .seen, .fabric, .crit, .queues, .ended, .stopped, .free, .safePending, .oars, .sweep, .gates, .returned, .mem, .checks, .boat, .crew, .cryptos] P = true) (h0 : Stays P s0 s) :
    Stays P s0 (beginOwn kind e b st slot first count f s) := by
  unfold beginOwn
  refine .ite ?_ ?_
  · exact h0
  · refine withStripe_stays _ _ _ ?_ (sub_trans (by decide) hq) ?_
    · intro u hu
      refine .app ?_ (stepJob_stays ..) (sub_trans (by decide) hq)
      refine .app ?_ (addJob_stays ..) (sub_trans (by decide) hq)
      refine h_f _ ?_
      exact hu
    · exact h0

theorem endOwn_stays (j : StripeJob) (s : State) :
    Stays [.regs, .seen, .fabric, .stopped, .mem, .checks, .boat, .crew] s (endOwn j s) := by
  unfold endOwn
  extract_lets -underBinder -merge -useContext +onlyGivenNames s1
  have h_s1 : Stays [.regs, .seen, .fabric, .stopped, .mem, .checks, .boat, .crew] s s1 := by
    dsimp -zeta only [s1]
    split
    · rename_i x1 code1 e
      refine .app ?_ (retireRecord_stays ..) (by decide)
      exact .refl ..
    · rename_i x1 e
      exact .refl ..
  clear_value s1
  refine .app ?_ (dropJob_stays ..) (by decide)
  refine .app ?_ (State.count_stays ..) (by decide)
  exact h_s1

theorem stepOwn_stays {P : List Piece} {s0 : State} (j : StripeJob) (f : StripeJob → State → State) (s : State) (h_f : ∀ a0 u, Stays P s0 u → Stays P s0 (f a0 u)) (hq : sub [.regs, .seen, .fabric, .crit, .queues, .ended, .stopped, .free, .safePending, .oars, .sweep, .gates, .returned, .mem, .checks, .boat, .crew, .cryptos] P = true) (h0 : Stays P s0 s) :
    Stays P s0 (stepOwn j f s) := by
  unfold stepOwn
  extract_lets -underBinder -merge -useContext +onlyGivenNames s1
  have h_s1 : Stays P s0 s1 := by
    dsimp -zeta only [s1]
    refine .app ?_ (stepJob_stays ..) (sub_trans (by decide) hq)
    exact h0
  clear_value s1
  split
  · rename_i x1 j1 e
    refine .ite ?_ ?_
    · refine h_f _ _ ?_
      refine .app ?_ (endOwn_stays ..) (sub_trans (by decide) hq)
      exact h_s1
    · exact h_s1
  · rename_i x1 e
    exact h_s1

theorem advanceWm_stays (b : Nat) (j : Nat) (s : State) :
    Stays [.regs, .seen, .fabric, .stopped, .mem, .checks, .boat, .crew] s (advanceWm b j s) := by
  unfold advanceWm
  extract_lets -underBinder -merge -useContext +onlyGivenNames d n s1
  have h_s1 : Stays [.regs, .seen, .fabric, .stopped, .mem, .checks, .boat, .crew] s s1 := by
    dsimp -zeta only [s1]
    refine .app ?_ (modBandWord_stays ..) (by decide)
    exact .refl ..
  clear_value s1
  refine .ite ?_ ?_
  · refine .app ?_ (bandProgress_stays ..) (by decide)
    exact h_s1
  · exact h_s1

theorem execRebuildStep_stays (e : Nat) (b : Nat) (slot : Nat) (s : State) :
    Answers [.regs, .seen, .fabric, .crit, .queues, .ended, .stopped, .free, .safePending, .oars, .sweep, .gates, .returned, .consumed, .mem, .checks, .boat, .crew, .cryptos] s (execRebuildStep e b slot s) := by
  unfold execRebuildStep
  refine .next ?_
  refine .when _ _ (fun u hu => ?_) ?_
  · extract_lets -underBinder -merge -useContext +onlyGivenNames s1 d
    have h_s1 : Stays [.regs, .seen, .fabric, .crit, .queues, .ended, .stopped, .free, .safePending, .oars, .sweep, .gates, .returned, .consumed, .mem, .checks, .boat, .crew, .cryptos] s s1 := by
      dsimp -zeta only [s1]
      refine .app ?_ (crewDrain_stays ..) (by decide)
      exact hu
    clear_value s1
    split
    · rename_i x1 j1 e1
      refine stepOwn_stays _ _ _ ?_ (by decide) ?_
      · intro x u1 hu1
        refine .ite ?_ ?_
        · exact hu1
        · refine .app ?_ (advanceWm_stays ..) (by decide)
          exact hu1
      · exact h_s1
    · rename_i x1 e1
      refine .ite ?_ ?_
      · exact h_s1
      · refine .ite ?_ ?_
        · refine .app ?_ (advanceWm_stays ..) (by decide)
          exact h_s1
        · refine .ite ?_ ?_
          · exact h_s1
          · refine beginOwn_stays _ _ _ _ _ _ _ _ _ ?_ (by decide) ?_
            · intro u1 hu1
              dsimp -zeta only [id]
              exact hu1
            · exact h_s1
  · exact .refl ..

theorem resyncOver_stays (b : Nat) (s : State) :
    Stays [.regs, .seen, .fabric, .stopped, .mem, .checks, .boat, .crew] s (resyncOver b s) := by
  unfold resyncOver
  refine .app ?_ (bandProgress_stays ..) (by decide)
  refine .app ?_ (modBandWord_stays ..) (by decide)
  exact .refl ..

theorem advanceResync_stays (b : Nat) (s : State) :
    Stays [.regs, .seen, .fabric, .stopped, .mem, .checks, .boat, .crew] s (advanceResync b s) := by
  unfold advanceResync
  extract_lets -underBinder -merge -useContext +onlyGivenNames d n s1
  have h_s1 : Stays [.regs, .seen, .fabric, .stopped, .mem, .checks, .boat, .crew] s s1 := by
    dsimp -zeta only [s1]
    refine .app ?_ (modBandWord_stays ..) (by decide)
    exact .refl ..
  clear_value s1
  refine .ite ?_ ?_
  · refine .app ?_ (resyncOver_stays ..) (by decide)
    exact h_s1
  · exact h_s1

theorem execResyncStep_stays (e : Nat) (b : Nat) (s : State) :
    Answers [.regs, .seen, .fabric, .crit, .queues, .ended, .stopped, .free, .safePending, .oars, .sweep, .gates, .returned, .consumed, .mem, .checks, .boat, .crew, .cryptos] s (execResyncStep e b s) := by
  unfold execResyncStep
  refine .next ?_
  refine .when _ _ (fun u hu => ?_) ?_
  · extract_lets -underBinder -merge -useContext +onlyGivenNames s1 d
    have h_s1 : Stays [.regs, .seen, .fabric, .crit, .queues, .ended, .stopped, .free, .safePending, .oars, .sweep, .gates, .returned, .consumed, .mem, .checks, .boat, .crew, .cryptos] s s1 := by
      dsimp -zeta only [s1]
      refine .app ?_ (crewDrain_stays ..) (by decide)
      exact hu
    clear_value s1
    split
    · rename_i x1 j1 e1
      refine stepOwn_stays _ _ _ ?_ (by decide) ?_
      · intro x u1 hu1
        refine .ite ?_ ?_
        · exact hu1
        · refine .app ?_ (advanceResync_stays ..) (by decide)
          exact hu1
      · exact h_s1
    · rename_i x1 e1
      refine .ite ?_ ?_
      · exact h_s1
      · refine .ite ?_ ?_
        · refine .app ?_ (resyncOver_stays ..) (by decide)
          exact h_s1
        · refine beginOwn_stays _ _ _ _ _ _ _ _ _ ?_ (by decide) ?_
          · intro u1 hu1
            dsimp -zeta only [id]
            exact hu1
          · exact h_s1
  · exact .refl ..

theorem patrolLap_stays (b : Nat) (s : State) :
    Stays [.regs, .seen, .fabric, .crew] s (patrolLap b s) := by
  unfold patrolLap
  extract_lets -underBinder -merge -useContext +onlyGivenNames secs s1 s2
  have h_s1 : Stays [.regs, .seen, .fabric, .crew] s s1 := by
    dsimp -zeta only [s1]
    refine .app ?_ (modCrew_stays ..) (by decide)
    refine .app ?_ (State.setReg_stays ..) (by decide)
    exact .refl ..
  clear_value s1
  have h_s2 : Stays [.regs, .seen, .fabric, .crew] s s2 := by
    dsimp -zeta only [s2]
    refine .app ?_ (bandProgress_stays ..) (by decide)
    exact h_s1
  clear_value s2
  refine .ite ?_ ?_
  · refine .app ?_ (bandProgress_stays ..) (by decide)
    exact h_s2
  · exact h_s2

theorem execPatrolStep_stays (e : Nat) (s : State) :
    Answers [.regs, .seen, .fabric, .crit, .queues, .ended, .stopped, .free, .safePending, .oars, .sweep, .gates, .returned, .consumed, .mem, .checks, .boat, .crew, .cryptos] s (execPatrolStep e s) := by
  unfold execPatrolStep
  refine .next ?_
  refine .when _ _ (fun u hu => ?_) ?_
  · extract_lets -underBinder -merge -useContext +onlyGivenNames s1
    have h_s1 : Stays [.regs, .seen, .fabric, .crit, .queues, .ended, .stopped, .free, .safePending, .oars, .sweep, .gates, .returned, .consumed, .mem, .checks, .boat, .crew, .cryptos] s s1 := by
      dsimp -zeta only [s1]
      refine .app ?_ (crewDrain_stays ..) (by decide)
      exact hu
    clear_value s1
    split
    · rename_i x1 j1 e1
      refine stepOwn_stays _ _ _ ?_ (by decide) ?_
      · intro x u1 hu1
        refine .app ?_ (State.setReg_stays ..) (by decide)
        refine .app ?_ (State.setReg_stays ..) (by decide)
        exact hu1
      · exact h_s1
    · rename_i x1 e1
      refine .ite ?_ ?_
      · exact h_s1
      · split
        · rename_i x2 e2
          exact h_s1
        · rename_i x2 b1 st1 lap1 e2
          extract_lets -underBinder -merge -useContext +onlyGivenNames s2
          have h_s2 : Stays [.regs, .seen, .fabric, .crit, .queues, .ended, .stopped, .free, .safePending, .oars, .sweep, .gates, .returned, .consumed, .mem, .checks, .boat, .crew, .cryptos] s s2 := by
            dsimp -zeta only [s2]
            refine .ite ?_ ?_
            · refine .app ?_ (patrolLap_stays ..) (by decide)
              exact h_s1
            · exact h_s1
          clear_value s2
          refine beginOwn_stays _ _ _ _ _ _ _ _ _ ?_ (by decide) ?_
          · intro u1 hu1
            dsimp -zeta only [id]
            exact hu1
          · refine .app ?_ (State.setReg_stays ..) (by decide)
            refine .app ?_ (State.setReg_stays ..) (by decide)
            exact h_s2
  · exact .refl ..

theorem execReshapeStep_stays (e : Nat) (s : State) :
    Answers [.regs, .seen, .fabric, .crit, .queues, .ended, .stopped, .free, .safePending, .oars, .sweep, .gates, .returned, .consumed, .mem, .checks, .boat, .crew, .cryptos] s (execReshapeStep e s) := by
  unfold execReshapeStep
  refine .next ?_
  refine .when _ _ (fun u hu => ?_) ?_
  · extract_lets -underBinder -merge -useContext +onlyGivenNames s1 b wm
    have h_s1 : Stays [.regs, .seen, .fabric, .crit, .queues, .ended, .stopped, .free, .safePending, .oars, .sweep, .gates, .returned, .consumed, .mem, .checks, .boat, .crew, .cryptos] s s1 := by
      dsimp -zeta only [s1]
      refine .app ?_ (crewDrain_stays ..) (by decide)
      exact hu
    clear_value s1
    split
    · rename_i x1 x2 j1 e1
      refine stepOwn_stays _ _ _ ?_ (by decide) ?_
      · intro x u1 hu1
        refine .ite ?_ ?_
        · refine .ite ?_ ?_
          · refine .app ?_ (modCrew_stays ..) (by decide)
            exact hu1
          · exact hu1
        · refine .ite ?_ ?_
          · refine .app ?_ (State.setReg_stays ..) (by decide)
            exact hu1
          · exact hu1
      · exact h_s1
    · rename_i x1 x2 tgt1 e1 e2
      refine .ite ?_ ?_
      · exact h_s1
      · split
        · rename_i x3 t1 rest1 e3
          refine beginOwn_stays _ _ _ _ _ _ _ _ _ ?_ (by decide) ?_
          · intro u1 hu1
            refine .app ?_ (modCrew_stays ..) (by decide)
            exact hu1
          · exact h_s1
        · rename_i x3 e3
          refine beginOwn_stays _ _ _ _ _ _ _ _ _ ?_ (by decide) ?_
          · intro u1 hu1
            dsimp -zeta only [id]
            exact hu1
          · exact h_s1
    · rename_i x1 x2 e1 e2
      exact h_s1
  · exact .refl ..

theorem execReshapeSwitch_stays (s : State) :
    Answers [.regs, .seen, .fabric, .crit, .queues, .ended, .stopped, .free, .safePending, .returned, .mem, .checks, .boat, .crew, .slip, .cryptos] s (execReshapeSwitch s) := by
  unfold execReshapeSwitch
  extract_lets -underBinder -merge -useContext +onlyGivenNames b
  refine .next ?_
  refine .when _ _ (fun u hu => ?_) ?_
  · extract_lets -underBinder -merge -useContext +onlyGivenNames s1 s2 lost s3
    have h_s1 : Stays [.regs, .seen, .fabric, .crit, .queues, .ended, .stopped, .free, .safePending, .returned, .mem, .checks, .boat, .crew, .slip, .cryptos] s s1 := by
      dsimp -zeta only [s1]
      refine .app ?_ (State.setCritFld_stays ..) (by decide)
      exact hu
    clear_value s1
    have h_s2 : Stays [.regs, .seen, .fabric, .crit, .queues, .ended, .stopped, .free, .safePending, .returned, .mem, .checks, .boat, .crew, .slip, .cryptos] s s2 := by
      dsimp -zeta only [s2]
      split
      · rename_i x1 x2 x3 t1 e e1
        refine .app ?_ (setBand_stays ..) (by decide)
        exact h_s1
      · rename_i x1 x2 e
        exact h_s1
    clear_value s2
    have h_s3 : Stays [.regs, .seen, .fabric, .crit, .queues, .ended, .stopped, .free, .safePending, .returned, .mem, .checks, .boat, .crew, .slip, .cryptos] s s3 := by
      dsimp -zeta only [s3]
      refine .app ?_ (modCrew_stays ..) (by decide)
      refine .app ?_ (setLost_stays ..) (by decide)
      exact h_s2
    clear_value s3
    refine .app ?_ (hostDrain_stays ..) (by decide)
    refine .app ?_ (bandProgress_stays ..) (by decide)
    refine .app ?_ (setStale_stays ..) (by decide)
    exact h_s3
  · exact .refl ..

end Sys2Proof.Machine
end

