-- ==== Sys2Proof/Laws/StaysRudder.lean ====
section
/-! SUPPORT. What the operations and meanings of Machine/Rudder do at most. -/

set_option linter.all false
set_option maxRecDepth 4000

namespace Sys2Proof.Machine

theorem stepBadWedge_stays (a : Nat) (k : Nat) (ok : Bool) (s : State) :
    Stays [.regs, .seen, .fabric, .stopped, .rudders] s (stepBadWedge a k ok s) := by
  unfold stepBadWedge
  extract_lets -underBinder -merge -useContext +onlyGivenNames x s1 s2
  have h_s1 : Stays [.regs, .seen, .fabric, .stopped, .rudders] s s1 := by
    dsimp -zeta only [s1]
    refine .app ?_ (modSlot_stays ..) (by decide)
    exact .refl ..
  clear_value s1
  have h_s2 : Stays [.regs, .seen, .fabric, .stopped, .rudders] s s2 := by
    dsimp -zeta only [s2]
    refine .app ?_ (State.count_stays ..) (by decide)
    exact h_s1
  clear_value s2
  refine .ite ?_ ?_
  · refine .ite ?_ ?_
    · refine .app ?_ (transient_stays ..) (by decide)
      exact h_s1
    · exact h_s1
  · refine .ite ?_ ?_
    · refine .app ?_ (lasting_stays ..) (by decide)
      exact h_s2
    · exact h_s2

theorem sumPoint_stays (a : Nat) (pt : Nat) (k : Nat) (full : Int) (x : Int) (s : State) :
    Stays [.rudders] s (sumPoint a pt k full x s).2 := by
  unfold sumPoint
  extract_lets -underBinder -merge -useContext +onlyGivenNames y here
  refine .pair ?_
  refine .ite ?_ ?_
  · refine .app ?_ (modRud_stays ..) (by decide)
    exact .refl ..
  · exact .refl ..

theorem stepThird_stays (a : Nat) (k : Nat) (late : Bool) (s : State) :
    Stays [.regs, .seen, .fabric, .rudders, .tunes] s (stepThird a k late s) := by
  unfold stepThird
  extract_lets -underBinder -merge -useContext +onlyGivenNames x base
  split
  · rename_i x1 mv1 s21 e
    split
    · rename_i x2 y1 zs1 e1
      extract_lets -underBinder -merge -useContext +onlyGivenNames v lim
      split
      · rename_i x3 mv2 s22 e2
        extract_lets -underBinder -merge -useContext +onlyGivenNames sat s3
        have h_s3 : Stays [.regs, .seen, .fabric, .rudders, .tunes] s s3 := by
          dsimp -zeta only [s3]
          refine .app ?_ (modSlot_stays ..) (by decide)
          refine .snd e2 ?_
          refine .app ?_ (sumPoint_stays ..) (by decide)
          refine .snd e ?_
          refine .app ?_ (sumPoint_stays ..) (by decide)
          exact .refl ..
        clear_value s3
        refine .app ?_ (showSat_stays ..) (by decide)
        refine .ite ?_ ?_
        · refine .app ?_ (raise_stays ..) (by decide)
          refine .app ?_ (State.count_stays ..) (by decide)
          exact h_s3
        · exact h_s3

theorem sendCoil_stays (a : Nat) (late : Bool) (coil : Int) (milli : Int) (s : State) :
    Stays [.regs, .seen, .fabric, .rigger, .rudders, .tunes] s (sendCoil a late coil milli s) := by
  unfold sendCoil
  extract_lets -underBinder -merge -useContext +onlyGivenNames il ml
  refine .ite ?_ ?_
  · refine .app ?_ (raise_stays ..) (by decide)
    refine .app ?_ (modRud_stays ..) (by decide)
    refine .app ?_ (State.count_stays ..) (by decide)
    refine .app ?_ (showSat_stays ..) (by decide)
    refine .app ?_ (showSat_stays ..) (by decide)
    exact .refl ..
  · refine .app ?_ (driveMilli_stays ..) (by decide)
    refine .app ?_ (driveCoil_stays ..) (by decide)
    refine .app ?_ (modRud_stays ..) (by decide)
    exact .refl ..

theorem modCoupled_stays (a : Nat) (b : Nat) (f : Coupled → Coupled) (s : State) :
    Stays [.rudders] s (modCoupled a b f s) := by
  unfold modCoupled
  refine .app ?_ (modRud_stays ..) (by decide)
  exact .refl ..

theorem coilTerms_stays (a : Nat) (s : State) :
    Stays [.rudders] s (coilTerms a s) := by
  unfold coilTerms
  refine .foldl _ _ (fun u x hu => ?_) ?_
  · extract_lets -underBinder -merge -useContext +onlyGivenNames c
    refine .ite ?_ ?_
    · split
      · rename_i x1 y1 zs1 e
        refine .app ?_ (modRud_stays ..) (by decide)
        refine .app ?_ (modCoupled_stays ..) (by decide)
        exact hu
    · refine .app ?_ (modCoupled_stays ..) (by decide)
      exact hu
  · refine .app ?_ (modRud_stays ..) (by decide)
    exact .refl ..

theorem reactTerms_stays (a : Nat) (s : State) :
    Stays [.rudders] s (reactTerms a s) := by
  unfold reactTerms
  refine .foldl _ _ (fun u x hu => ?_) ?_
  · extract_lets -underBinder -merge -useContext +onlyGivenNames c
    refine .ite ?_ ?_
    · split
      · rename_i x1 y1 zs1 e
        refine .app ?_ (modRud_stays ..) (by decide)
        refine .app ?_ (modCoupled_stays ..) (by decide)
        exact hu
    · refine .app ?_ (modCoupled_stays ..) (by decide)
      exact hu
  · refine .app ?_ (modRud_stays ..) (by decide)
    exact .refl ..

theorem rvTerm_stays (a : Nat) (s : State) :
    Stays [.rudders] s (rvTerm a s) := by
  unfold rvTerm
  refine .ite ?_ ?_
  · split
    · rename_i x1 y1 zs1 e
      refine .app ?_ (modRud_stays ..) (by decide)
      exact .refl ..
  · refine .app ?_ (modRud_stays ..) (by decide)
    exact .refl ..

theorem sendCouple_stays (a : Nat) (s : State) :
    Stays [.rudders] s (sendCouple a s) := by
  unfold sendCouple
  extract_lets -underBinder -merge -useContext +onlyGivenNames d
  refine .ite ?_ ?_
  · refine .app ?_ (modRud_stays ..) (by decide)
    exact .refl ..
  · exact .refl ..

theorem followStep_stays (a : Nat) (late : Bool) (s : State) :
    Stays [.regs, .seen, .fabric, .rigger, .rudders, .tunes] s (followStep a late s) := by
  unfold followStep
  extract_lets -underBinder -merge -useContext +onlyGivenNames r
  split
  · rename_i x1 togo1 ref1 e
    extract_lets -underBinder -merge -useContext +onlyGivenNames e_1
    split
    · rename_i x2 y1 zs1 e1
      extract_lets -underBinder -merge -useContext +onlyGivenNames desat il
      split
      · rename_i x3 mv1 s21 e2
        split
        · rename_i x4 y2 zs2 e3
          extract_lets -underBinder -merge -useContext +onlyGivenNames ml
          split
          · rename_i x5 mv2 s22 e4
            refine .app ?_ (sendCoil_stays ..) (by decide)
            refine .app ?_ (modRud_stays ..) (by decide)
            refine .snd e4 ?_
            refine .app ?_ (sumPoint_stays ..) (by decide)
            refine .snd e2 ?_
            refine .app ?_ (sumPoint_stays ..) (by decide)
            exact .refl ..

theorem velocityStep_stays (a : Nat) (wanted : Int) (w : WedgeIn) (s : State) :
    Stays [.regs, .seen, .fabric, .rigger, .rudders, .tunes] s (velocityStep a wanted w s) := by
  unfold velocityStep
  refine .app ?_ (sendCoil_stays ..) (by decide)
  exact .refl ..

theorem rudTune_stays (a : Nat) (main : Bool) (s : State) :
    Stays [.regs, .tunes] s (rudTune a main s) := by
  unfold rudTune
  extract_lets -underBinder -merge -useContext +onlyGivenNames p s1 lim pes s2
  have h_s1 : Stays [.regs, .tunes] s s1 := by
    dsimp -zeta only [s1]
    refine .app ?_ (tuneRecord_stays ..) (by decide)
    exact .refl ..
  clear_value s1
  have h_s2 : Stays [.regs, .tunes] s s2 := by
    dsimp -zeta only [s2]
    split
    · rename_i x1 k1 e
      refine .app ?_ (tuneTrip_stays ..) (by decide)
      exact h_s1
    · rename_i x1 e
      exact h_s1
  clear_value s2
  refine .ite ?_ ?_
  · exact h_s1
  · refine .app ?_ (updateOver_stays ..) (by decide)
    refine .app ?_ (guardSat_stays ..) (by decide)
    exact h_s2

theorem joinSlots_stays (a : Nat) (s : State) :
    Stays [.rudders] s (joinSlots a s) := by
  unfold joinSlots
  refine .foldl _ _ (fun u x hu => ?_) ?_
  · extract_lets -underBinder -merge -useContext +onlyGivenNames x_1 r
    refine .ite ?_ ?_
    · refine .app ?_ (modSlot_stays ..) (by decide)
      exact hu
    · exact hu
  · exact .refl ..

theorem wedgeSlot_stays (a : Nat) (n : Nat) (k : Nat) (s : State) :
    Stays [.regs, .seen, .fabric, .stopped, .rudders] s (wedgeSlot a n k s) := by
  unfold wedgeSlot
  extract_lets -underBinder -merge -useContext +onlyGivenNames x p ok z est s1 target s2 pes win lost s3
  have h_s1 : Stays [.regs, .seen, .fabric, .stopped, .rudders] s s1 := by
    dsimp -zeta only [s1]
    refine .app ?_ (stepBadWedge_stays ..) (by decide)
    exact .refl ..
  clear_value s1
  have h_s2 : Stays [.regs, .seen, .fabric, .stopped, .rudders] s s2 := by
    dsimp -zeta only [s2]
    refine .app ?_ (sumPoint_stays ..) (by decide)
    exact h_s1
  clear_value s2
  have h_s3 : Stays [.regs, .seen, .fabric, .stopped, .rudders] s s3 := by
    dsimp -zeta only [s3]
    refine .app ?_ (modSlot_stays ..) (by decide)
    exact h_s2
  clear_value s3
  refine .ite ?_ ?_
  · exact .refl ..
  · refine .ite ?_ ?_
    · refine .app ?_ (modRud_stays ..) (by decide)
      exact h_s3
    · exact h_s3

theorem wedgeZero_stays (a : Nat) (s : State) :
    Stays [.keel] s (wedgeZero a s) := by
  unfold wedgeZero
  extract_lets -underBinder -merge -useContext +onlyGivenNames seen first
  split
  · rename_i x1 pos1 t1 e
    extract_lets -underBinder -merge -useContext +onlyGivenNames now
    refine .ite ?_ ?_
    · refine .app ?_ (modKeel_stays ..) (by decide)
      exact .refl ..
    · exact .refl ..
  · rename_i x1 e
    exact .refl ..

theorem stepFlags_stays (a : Nat) (s : State) :
    Stays [.regs, .seen, .fabric, .stopped, .hda, .rudders, .tunes, .oars, .sweep, .mem, .checks, .boat] s (stepFlags a s) := by
  unfold stepFlags
  refine .foldl _ _ (fun u x hu => ?_) ?_
  · refine .app ?_ (stepReadOff_stays ..) (by decide)
    refine .app ?_ (stepWf_stays ..) (by decide)
    exact hu
  · exact .refl ..

theorem stepThirds_stays (a : Nat) (late : Nat → Bool) (s : State) :
    Stays [.regs, .seen, .fabric, .rigger, .rudders, .tunes] s (stepThirds a late s) := by
  unfold stepThirds
  refine .app ?_ (driveThirds_stays ..) (by decide)
  refine .foldl _ _ (fun u x hu => ?_) ?_
  · refine .ite ?_ ?_
    · refine .app ?_ (stepThird_stays ..) (by decide)
      exact hu
    · exact hu
  · exact .refl ..

theorem huntSlot_stays (a : Nat) (k : Nat) (z : Option Int) (s : State) :
    Stays [.rudders] s (huntSlot a k z s) := by
  unfold huntSlot
  extract_lets -underBinder -merge -useContext +onlyGivenNames x est
  refine .app ?_ (modSlot_stays ..) (by decide)
  exact .refl ..

theorem huntStep_stays (a : Nat) (n : Nat) (s : State) :
    Stays [.regs, .seen, .fabric, .stopped, .rudders] s (huntStep a n s) := by
  unfold huntStep
  extract_lets -underBinder -merge -useContext +onlyGivenNames s0x
  have h_s0x : Stays [.regs, .seen, .fabric, .stopped, .rudders] s s0x := by
    dsimp -zeta only [s0x]
    refine .app ?_ (modRud_stays ..) (by decide)
    exact .refl ..
  clear_value s0x
  split
  · rename_i x1 e
    exact h_s0x
  · rename_i x1 k1 tail1 e
    extract_lets -underBinder -merge -useContext +onlyGivenNames w ok found s1
    have h_s1 : Stays [.regs, .seen, .fabric, .stopped, .rudders] s s1 := by
      dsimp -zeta only [s1]
      refine .app ?_ (modRud_stays ..) (by decide)
      exact h_s0x
    clear_value s1
    refine .foldl _ _ (fun u x hu => ?_) ?_
    · refine .app ?_ (huntSlot_stays ..) (by decide)
      exact hu
    · refine .app ?_ (stepBadWedge_stays ..) (by decide)
      exact h_s1

theorem seedSlots_stays (a : Nat) (s : State) :
    Stays [.rudders] s (seedSlots a s) := by
  unfold seedSlots
  split
  · rename_i x1 e
    exact .refl ..
  · rename_i x1 k1 tail1 e
    extract_lets -underBinder -merge -useContext +onlyGivenNames arm
    refine .foldl _ _ (fun u x hu => ?_) ?_
    · refine .app ?_ (modSlot_stays ..) (by decide)
      exact hu
    · exact .refl ..

theorem acquire_stays (a : Nat) (s : State) :
    Stays [.free, .rudders] s (acquire a s) := by
  unfold acquire
  extract_lets -underBinder -merge -useContext +onlyGivenNames h t
  split
  · rename_i x1 x2 s11 e
    refine .app ?_ (seedSlots_stays ..) (by decide)
    refine .app ?_ (modRud_stays ..) (by decide)
    refine .app ?_ (modSlot_stays ..) (by decide)
    refine .snd e ?_
    refine .app ?_ (formSlot_stays ..) (by decide)
    exact .refl ..

theorem trackStep_stays (a : Nat) (n : Nat) (w : WedgeIn) (s : State) :
    Stays [.regs, .seen, .fabric, .stopped, .keel, .rigger, .hda, .rudders, .tunes, .oars, .sweep, .mem, .checks, .boat] s (trackStep a n w s) := by
  unfold trackStep
  extract_lets -underBinder -merge -useContext +onlyGivenNames s1 any s2
  have h_s1 : Stays [.regs, .seen, .fabric, .stopped, .keel, .rigger, .hda, .rudders, .tunes, .oars, .sweep, .mem, .checks, .boat] s s1 := by
    dsimp -zeta only [s1]
    refine .foldl _ _ (fun u x hu => ?_) ?_
    · refine .app ?_ (wedgeSlot_stays ..) (by decide)
      exact hu
    · exact .refl ..
  clear_value s1
  have h_s2 : Stays [.regs, .seen, .fabric, .stopped, .keel, .rigger, .hda, .rudders, .tunes, .oars, .sweep, .mem, .checks, .boat] s s2 := by
    dsimp -zeta only [s2]
    refine .app ?_ (modRud_stays ..) (by decide)
    exact h_s1
  clear_value s2
  refine .app ?_ (wedgeZero_stays ..) (by decide)
  refine .app ?_ (stepFlags_stays ..) (by decide)
  refine .app ?_ (stepThirds_stays ..) (by decide)
  refine .app ?_ (followStep_stays ..) (by decide)
  exact h_s2

theorem wedgeByState_stays (a : Nat) (n : Nat) (w : WedgeIn) (s0x : State) :
    Stays [.regs, .seen, .fabric, .stopped, .keel, .rigger, .free, .hda, .rudders, .tunes, .oars, .sweep, .mem, .checks, .boat] s0x (wedgeByState a n w s0x) := by
  unfold wedgeByState
  extract_lets -underBinder -merge -useContext +onlyGivenNames st r s t
  have h_s : Stays [.regs, .seen, .fabric, .stopped, .keel, .rigger, .free, .hda, .rudders, .tunes, .oars, .sweep, .mem, .checks, .boat] s0x s := by
    dsimp -zeta only [s]
    refine .app ?_ (rvTerm_stays ..) (by decide)
    refine .app ?_ (coilTerms_stays ..) (by decide)
    refine .app ?_ (reactTerms_stays ..) (by decide)
    exact .refl ..
  clear_value s
  have h_t : Stays [.regs, .seen, .fabric, .stopped, .keel, .rigger, .free, .hda, .rudders, .tunes, .oars, .sweep, .mem, .checks, .boat] s0x t := by
    dsimp -zeta only [t]
    refine .app ?_ (huntStep_stays ..) (by decide)
    refine .app ?_ (velocityStep_stays ..) (by decide)
    exact h_s
  clear_value t
  refine .ite ?_ ?_
  · refine .app ?_ (trackStep_stays ..) (by decide)
    exact h_s
  · refine .ite ?_ ?_
    · refine .app ?_ (stepFlags_stays ..) (by decide)
      refine .ite ?_ ?_
      · refine .app ?_ (acquire_stays ..) (by decide)
        exact h_t
      · exact h_t
    · refine .ite ?_ ?_
      · refine .app ?_ (stepFlags_stays ..) (by decide)
        refine .app ?_ (huntStep_stays ..) (by decide)
        refine .app ?_ (velocityStep_stays ..) (by decide)
        exact h_s
      · refine .ite ?_ ?_
        · refine .app ?_ (velocityStep_stays ..) (by decide)
          exact h_s
        · exact h_s

theorem execWedgeSample_stays (a : Nat) (w : WedgeIn) (s : State) :
    Answers [.regs, .seen, .fabric, .stopped, .keel, .rigger, .free, .hda, .rudders, .tunes, .oars, .sweep, .mem, .checks, .boat] s (execWedgeSample a w s) := by
  unfold execWedgeSample
  refine .next ?_
  refine .when _ _ (fun u hu => ?_) ?_
  · extract_lets -underBinder -merge -useContext +onlyGivenNames n s0x b s1 s2
    have h_s0x : Stays [.regs, .seen, .fabric, .stopped, .keel, .rigger, .free, .hda, .rudders, .tunes, .oars, .sweep, .mem, .checks, .boat] s s0x := by
      dsimp -zeta only [s0x]
      refine .app ?_ (tuneGenerate_stays ..) (by decide)
      refine .app ?_ (joinSlots_stays ..) (by decide)
      refine .app ?_ (modRud_stays ..) (by decide)
      exact hu
    clear_value s0x
    have h_s1 : Stays [.regs, .seen, .fabric, .stopped, .keel, .rigger, .free, .hda, .rudders, .tunes, .oars, .sweep, .mem, .checks, .boat] s s1 := by
      dsimp -zeta only [s1]
      refine .ite ?_ ?_
      · refine .app ?_ (retract_stays ..) (by decide)
        refine .app ?_ (lasting_stays ..) (by decide)
        refine .app ?_ (State.setBit_stays ..) (by decide)
        exact h_s0x
      · refine .app ?_ (sendCouple_stays ..) (by decide)
        refine .app ?_ (wedgeByState_stays ..) (by decide)
        refine .ite ?_ ?_
        · refine .app ?_ (transient_stays ..) (by decide)
          exact h_s0x
        · exact h_s0x
    clear_value s1
    have h_s2 : Stays [.regs, .seen, .fabric, .stopped, .keel, .rigger, .free, .hda, .rudders, .tunes, .oars, .sweep, .mem, .checks, .boat] s s2 := by
      dsimp -zeta only [s2]
      refine .ite ?_ ?_
      · refine .app ?_ (trTrigger_stays ..) (by decide)
        exact h_s1
      · exact h_s1
    clear_value s2
    refine .app ?_ (followSpindle_stays ..) (by decide)
    refine .app ?_ (rudTune_stays ..) (by decide)
    exact h_s2
  · exact .refl ..

theorem subSlot_stays (a : Nat) (w : SubIn) (k : Nat) (s : State) :
    Stays [.regs, .rudders] s (subSlot a w k s) := by
  unfold subSlot
  extract_lets -underBinder -merge -useContext +onlyGivenNames x i target da at_ rejected s1 senses
  have h_s1 : Stays [.regs, .rudders] s s1 := by
    dsimp -zeta only [s1]
    refine .ite ?_ ?_
    · refine .app ?_ (State.count_stays ..) (by decide)
      exact .refl ..
    · exact .refl ..
  clear_value s1
  refine .ite ?_ ?_
  · exact .refl ..
  · split
    · rename_i x1 resid1 ss1 e
      extract_lets -underBinder -merge -useContext +onlyGivenNames half correct
      split
      · rename_i x2 meas1 est1 err1 e1
        extract_lets -underBinder -merge -useContext +onlyGivenNames s2
        have h_s2 : Stays [.regs, .rudders] s s2 := by
          dsimp -zeta only [s2]
          refine .app ?_ (sumPoint_stays ..) (by decide)
          exact h_s1
        clear_value s2
        refine .app ?_ (modSlot_stays ..) (by decide)
        exact h_s2

theorem execSubsample_stays (a : Nat) (w : SubIn) (s : State) :
    Answers [.regs, .seen, .fabric, .stopped, .rigger, .hda, .rudders, .tunes, .oars, .sweep, .mem, .checks, .boat] s (execSubsample a w s) := by
  unfold execSubsample
  refine .next ?_
  refine .when _ _ (fun u hu => ?_) ?_
  · extract_lets -underBinder -merge -useContext +onlyGivenNames s0x s1 tracks s2
    have h_s0x : Stays [.regs, .seen, .fabric, .stopped, .rigger, .hda, .rudders, .tunes, .oars, .sweep, .mem, .checks, .boat] s s0x := by
      dsimp -zeta only [s0x]
      refine .app ?_ (tuneGenerate_stays ..) (by decide)
      refine .app ?_ (joinSlots_stays ..) (by decide)
      refine .app ?_ (modRud_stays ..) (by decide)
      exact hu
    clear_value s0x
    have h_s1 : Stays [.regs, .seen, .fabric, .stopped, .rigger, .hda, .rudders, .tunes, .oars, .sweep, .mem, .checks, .boat] s s1 := by
      dsimp -zeta only [s1]
      refine .foldl _ _ (fun u1 x hu1 => ?_) ?_
      · refine .app ?_ (subSlot_stays ..) (by decide)
        exact hu1
      · refine .app ?_ (reactTerms_stays ..) (by decide)
        exact h_s0x
    clear_value s1
    have h_s2 : Stays [.regs, .seen, .fabric, .stopped, .rigger, .hda, .rudders, .tunes, .oars, .sweep, .mem, .checks, .boat] s s2 := by
      dsimp -zeta only [s2]
      refine .ite ?_ ?_
      · refine .app ?_ (stepThirds_stays ..) (by decide)
        exact h_s1
      · exact h_s1
    clear_value s2
    refine .app ?_ (rudTune_stays ..) (by decide)
    refine .app ?_ (sendCouple_stays ..) (by decide)
    refine .app ?_ (stepFlags_stays ..) (by decide)
    exact h_s2
  · exact .refl ..

theorem execSsFault_stays (a : Nat) (k : Nat) (s : State) :
    Answers [.regs, .seen, .fabric, .stopped, .rudders] s (execSsFault a k s) := by
  unfold execSsFault
  extract_lets -underBinder -merge -useContext +onlyGivenNames x
  refine .next ?_
  refine .when _ _ (fun u hu => ?_) ?_
  · refine .app ?_ (lasting_stays ..) (by decide)
    refine .app ?_ (modRud_stays ..) (by decide)
    exact hu
  · exact .refl ..

theorem execTimingFail_stays (a : Nat) (s : State) :
    Answers [.regs, .seen, .fabric, .stopped, .rigger, .hda, .rudders, .tunes, .oars, .mem, .checks, .boat] s (execTimingFail a s) := by
  unfold execTimingFail
  refine .next ?_
  refine .when _ _ (fun u hu => ?_) ?_
  · refine .app ?_ (retract_stays ..) (by decide)
    refine .app ?_ (lasting_stays ..) (by decide)
    refine .app ?_ (modRud_stays ..) (by decide)
    exact hu
  · exact .refl ..

theorem execPositionLost_stays (a : Nat) (s : State) :
    Answers [.regs, .seen, .fabric, .stopped, .rigger, .hda, .rudders, .tunes, .oars, .sweep, .mem, .checks, .boat] s (execPositionLost a s) := by
  unfold execPositionLost
  refine .next ?_
  refine .when _ _ (fun u hu => ?_) ?_
  · extract_lets -underBinder -merge -useContext +onlyGivenNames s1
    have h_s1 : Stays [.regs, .seen, .fabric, .stopped, .rigger, .hda, .rudders, .tunes, .oars, .sweep, .mem, .checks, .boat] s s1 := by
      dsimp -zeta only [s1]
      refine .app ?_ (driveThirds_stays ..) (by decide)
      refine .foldl _ _ (fun u1 x hu1 => ?_) ?_
      · refine .app ?_ (stepReadOff_stays ..) (by decide)
        refine .app ?_ (showSat_stays ..) (by decide)
        refine .app ?_ (modSlot_stays ..) (by decide)
        exact hu1
      · exact hu
    clear_value s1
    refine .app ?_ (enterRud_stays ..) (by decide)
    refine .app ?_ (modRud_stays ..) (by decide)
    exact h_s1
  · exact .refl ..

theorem execReacquireDone_stays (a : Nat) (s : State) :
    Answers [.regs, .seen, .fabric, .stopped, .hda, .rudders, .tunes, .oars, .sweep, .mem, .checks, .boat] s (execReacquireDone a s) := by
  unfold execReacquireDone
  refine .next ?_
  refine .when _ _ (fun u hu => ?_) ?_
  · extract_lets -underBinder -merge -useContext +onlyGivenNames k
    refine .app ?_ (startSeek_stays ..) (by decide)
    refine .app ?_ (seedSlots_stays ..) (by decide)
    refine .app ?_ (transient_stays ..) (by decide)
    exact hu
  · exact .refl ..

theorem execReacquireTimeout_stays (a : Nat) (s : State) :
    Answers [.regs, .seen, .fabric, .stopped, .rigger, .hda, .rudders, .tunes, .oars, .mem, .checks, .boat] s (execReacquireTimeout a s) := by
  unfold execReacquireTimeout
  refine .next ?_
  refine .when _ _ (fun u hu => ?_) ?_
  · refine .app ?_ (retract_stays ..) (by decide)
    refine .app ?_ (lasting_stays ..) (by decide)
    exact hu
  · exact .refl ..

theorem execOnTrack_stays (a : Nat) (k : Nat) (s : State) :
    Answers [.regs, .seen, .fabric, .stopped, .rigger, .free, .hda, .rudders, .tunes, .oars, .sweep, .mem, .checks, .boat] s (execOnTrack a k s) := by
  unfold execOnTrack
  extract_lets -underBinder -merge -useContext +onlyGivenNames x st
  refine .next ?_
  refine .when _ _ (fun u hu => ?_) ?_
  · extract_lets -underBinder -merge -useContext +onlyGivenNames s1
    have h_s1 : Stays [.regs, .seen, .fabric, .stopped, .rigger, .free, .hda, .rudders, .tunes, .oars, .sweep, .mem, .checks, .boat] s s1 := by
      dsimp -zeta only [s1]
      refine .app ?_ (modSlot_stays ..) (by decide)
      exact hu
    clear_value s1
    refine .ite ?_ ?_
    · exact h_s1
    · refine .ite ?_ ?_
      · refine .app ?_ (followed_stays ..) (by decide)
        refine .ite ?_ ?_
        · refine .app ?_ (transient_stays ..) (by decide)
          exact h_s1
        · exact h_s1
      · refine .app ?_ (followed_stays ..) (by decide)
        refine .ite ?_ ?_
        · refine .app ?_ (transient_stays ..) (by decide)
          exact h_s1
        · exact h_s1
  · exact .refl ..

theorem execSeekFail_stays (a : Nat) (s : State) :
    Answers [.regs, .seen, .fabric, .stopped, .rigger, .free, .hda, .rudders, .tunes, .oars, .sweep, .mem, .checks, .boat] s (execSeekFail a s) := by
  unfold execSeekFail
  refine .next ?_
  refine .when _ _ (fun u hu => ?_) ?_
  · extract_lets -underBinder -merge -useContext +onlyGivenNames p s1
    have h_s1 : Stays [.regs, .seen, .fabric, .stopped, .rigger, .free, .hda, .rudders, .tunes, .oars, .sweep, .mem, .checks, .boat] s s1 := by
      dsimp -zeta only [s1]
      refine .app ?_ (clearSlots_stays ..) (by decide)
      refine .app ?_ (lasting_stays ..) (by decide)
      exact hu
    clear_value s1
    refine .ite ?_ ?_
    · refine .app ?_ (followed_stays ..) (by decide)
      refine .app ?_ (modRud_stays ..) (by decide)
      refine .app ?_ (note_stays ..) (by decide)
      exact h_s1
    · refine .app ?_ (startSeek_stays ..) (by decide)
      exact hu
  · exact .refl ..

theorem execWfClear_stays (a : Nat) (k : Nat) (s : State) :
    Answers [.regs, .rudders] s (execWfClear a k s) := by
  unfold execWfClear
  refine .next ?_
  refine .when _ _ (fun u hu => ?_) ?_
  · refine .app ?_ (showWf_stays ..) (by decide)
    refine .app ?_ (modSlot_stays ..) (by decide)
    exact hu
  · exact .refl ..

theorem pesSlot_stays (a : Nat) (t : State) (k : Nat) :
    Stays [.regs, .seen, .fabric, .rudders] t (pesSlot a t k) := by
  unfold pesSlot
  extract_lets -underBinder -merge -useContext +onlyGivenNames x w now t1 v t2
  have h_t1 : Stays [.regs, .seen, .fabric, .rudders] t t1 := by
    dsimp -zeta only [t1]
    refine .app ?_ (modRud_stays ..) (by decide)
    exact .refl ..
  clear_value t1
  have h_t2 : Stays [.regs, .seen, .fabric, .rudders] t t2 := by
    dsimp -zeta only [t2]
    refine .app ?_ (State.setReg_stays ..) (by decide)
    exact h_t1
  clear_value t2
  refine .ite ?_ ?_
  · exact h_t1
  · refine .ite ?_ ?_
    · refine .app ?_ (raise_stays ..) (by decide)
      exact h_t2
    · exact h_t2

theorem execPesWindow_stays (a : Nat) (s : State) :
    Answers [.regs, .seen, .fabric, .rudders] s (execPesWindow a s) := by
  unfold execPesWindow
  refine .next ?_
  refine .when _ _ (fun u hu => ?_) ?_
  · refine .foldl _ _ (fun u1 x hu1 => ?_) ?_
    · refine .app ?_ (pesSlot_stays ..) (by decide)
      exact hu1
    · refine .app ?_ (modRud_stays ..) (by decide)
      exact hu
  · exact .refl ..

theorem execCoupleWord_stays (a : Nat) (sender : Nat) (headOk : Bool) (coilOk : Bool) (milliOk : Bool) (s : State) :
    Answers [.regs, .seen, .fabric, .stopped, .rudders] s (execCoupleWord a sender headOk coilOk milliOk s) := by
  unfold execCoupleWord
  extract_lets -underBinder -merge -useContext +onlyGivenNames c w others
  refine .next ?_
  refine .when _ _ (fun u hu => ?_) ?_
  · extract_lets -underBinder -merge -useContext +onlyGivenNames s0x back s1 s2 s1_1
    have h_s0x : Stays [.regs, .seen, .fabric, .stopped, .rudders] s s0x := by
      dsimp -zeta only [s0x]
      refine .app ?_ (modCoupled_stays ..) (by decide)
      exact hu
    clear_value s0x
    have h_s1 : Stays [.regs, .seen, .fabric, .stopped, .rudders] s s1 := by
      dsimp -zeta only [s1]
      refine .app ?_ (modCoupled_stays ..) (by decide)
      exact h_s0x
    clear_value s1
    have h_s2 : Stays [.regs, .seen, .fabric, .stopped, .rudders] s s2 := by
      dsimp -zeta only [s2]
      refine .app ?_ (State.setBit_stays ..) (by decide)
      exact h_s1
    clear_value s2
    have h_s1_1 : Stays [.regs, .seen, .fabric, .stopped, .rudders] s s1_1 := by
      dsimp -zeta only [s1_1]
      refine .app ?_ (transient_stays ..) (by decide)
      refine .app ?_ (State.count_stays ..) (by decide)
      refine .app ?_ (modCoupled_stays ..) (by decide)
      exact h_s0x
    clear_value s1_1
    refine .ite ?_ ?_
    · refine .ite ?_ ?_
      · refine .app ?_ (State.setBit_stays ..) (by decide)
        exact h_s2
      · exact h_s2
    · refine .ite ?_ ?_
      · exact h_s1_1
      · refine .app ?_ (lasting_stays ..) (by decide)
        refine .app ?_ (State.setBit_stays ..) (by decide)
        refine .app ?_ (State.setBit_stays ..) (by decide)
        exact h_s1_1
  · exact .refl ..

theorem shockAll_stays (s : State) :
    Stays [.regs, .seen, .fabric, .stopped, .hda, .rudders, .tunes, .oars, .mem, .checks, .boat] s (shockAll s) := by
  unfold shockAll
  refine .foldl _ _ (fun u x hu => ?_) ?_
  · extract_lets -underBinder -merge -useContext +onlyGivenNames p rise t1
    have h_t1 : Stays [.regs, .seen, .fabric, .stopped, .hda, .rudders, .tunes, .oars, .mem, .checks, .boat] s t1 := by
      dsimp -zeta only [t1]
      refine .app ?_ (assertAllWf_stays ..) (by decide)
      refine .app ?_ (State.setBit_stays ..) (by decide)
      exact hu
    clear_value t1
    refine .ite ?_ ?_
    · refine .ite ?_ ?_
      · refine .app ?_ (trTrigger_stays ..) (by decide)
        exact h_t1
      · exact h_t1
    · exact hu
  · exact .refl ..

theorem execSnsSample_stays (n : Nat) (sample : BitVec 14) (s : State) :
    Answers [.regs, .seen, .fabric, .stopped, .hda, .rudders, .couple, .tunes, .oars, .mem, .checks, .boat] s (execSnsSample n sample s) := by
  unfold execSnsSample
  refine .next ?_
  refine .when _ _ (fun u hu => ?_) ?_
  · extract_lets -underBinder -merge -useContext +onlyGivenNames v x stuck y s1 ct3 s2 s3
    have h_s1 : Stays [.regs, .seen, .fabric, .stopped, .hda, .rudders, .couple, .tunes, .oars, .mem, .checks, .boat] s s1 := by
      dsimp -zeta only [s1]
      refine .app ?_ (modCouple_stays ..) (by decide)
      refine .app ?_ (State.setReg_stays ..) (by decide)
      exact hu
    clear_value s1
    have h_s2 : Stays [.regs, .seen, .fabric, .stopped, .hda, .rudders, .couple, .tunes, .oars, .mem, .checks, .boat] s s2 := by
      dsimp -zeta only [s2]
      refine .app ?_ (modCouple_stays ..) (by decide)
      exact h_s1
    clear_value s2
    have h_s3 : Stays [.regs, .seen, .fabric, .stopped, .hda, .rudders, .couple, .tunes, .oars, .mem, .checks, .boat] s s3 := by
      dsimp -zeta only [s3]
      refine .app ?_ (State.setBit_stays ..) (by decide)
      refine .app ?_ (State.count_stays ..) (by decide)
      exact h_s2
    clear_value s3
    refine .ite ?_ ?_
    · refine .ite ?_ ?_
      · refine .app ?_ (shockAll_stays ..) (by decide)
        refine .app ?_ (modCouple_stays ..) (by decide)
        exact h_s1
      · refine .app ?_ (shockAll_stays ..) (by decide)
        refine .ite ?_ ?_
        · refine .app ?_ (State.setReg64_stays ..) (by decide)
          exact h_s3
        · exact h_s3
    · exact h_s1
  · exact .refl ..

theorem execShockHoldEnd_stays (s : State) :
    Answers [.regs, .seen, .fabric] s (execShockHoldEnd s) := by
  unfold execShockHoldEnd
  refine .next ?_
  refine .when _ _ (fun u hu => ?_) ?_
  · extract_lets -underBinder -merge -useContext +onlyGivenNames s1
    have h_s1 : Stays [.regs, .seen, .fabric] s s1 := by
      dsimp -zeta only [s1]
      refine .app ?_ (endShock_stays ..) (by decide)
      exact hu
    clear_value s1
    refine .foldl _ _ (fun u1 x hu1 => ?_) ?_
    · refine .app ?_ (State.setBit_stays ..) (by decide)
      exact hu1
    · exact h_s1
  · exact .refl ..

theorem execSensorFault_stays (n : Nat) (s : State) :
    Answers [.regs, .seen, .fabric, .stopped] s (execSensorFault n s) := by
  unfold execSensorFault
  refine .next ?_
  refine .when _ _ (fun u hu => ?_) ?_
  · refine .app ?_ (lasting_stays ..) (by decide)
    refine .app ?_ (State.setBit_stays ..) (by decide)
    exact hu
  · exact .refl ..

theorem startLoad_stays (a : Nat) (h : Nat) (again : Bool) (s : State) :
    Stays [.regs, .seen, .fabric, .stopped, .rigger, .pres, .hda, .rudders, .tunes, .oars, .mem, .checks, .boat] s (startLoad a h again s) := by
  unfold startLoad
  extract_lets -underBinder -merge -useContext +onlyGivenNames s1 s2 s3
  have h_s1 : Stays [.regs, .seen, .fabric, .stopped, .rigger, .pres, .hda, .rudders, .tunes, .oars, .mem, .checks, .boat] s s1 := by
    dsimp -zeta only [s1]
    refine .app ?_ (modRud_stays ..) (by decide)
    exact .refl ..
  clear_value s1
  have h_s2 : Stays [.regs, .seen, .fabric, .stopped, .rigger, .pres, .hda, .rudders, .tunes, .oars, .mem, .checks, .boat] s s2 := by
    dsimp -zeta only [s2]
    refine .app ?_ (noteHead_stays ..) (by decide)
    refine .app ?_ (modSlot_stays ..) (by decide)
    refine .app ?_ (clearSlots_stays ..) (by decide)
    exact h_s1
  clear_value s2
  have h_s3 : Stays [.regs, .seen, .fabric, .stopped, .rigger, .pres, .hda, .rudders, .tunes, .oars, .mem, .checks, .boat] s s3 := by
    dsimp -zeta only [s3]
    refine .ite ?_ ?_
    · exact h_s2
    · refine .app ?_ (preUrgent_stays ..) (by decide)
      exact h_s2
  clear_value s3
  refine .app ?_ (enterRud_stays ..) (by decide)
  exact h_s3

theorem rudCmdEffect_stays (a : Nat) (v : Word) (s : State) :
    Stays [.regs, .seen, .fabric, .stopped, .rigger, .pres, .hda, .rudders, .tunes, .oars, .mem, .checks, .boat] s (rudCmdEffect a v s) := by
  unfold rudCmdEffect
  extract_lets -underBinder -merge -useContext +onlyGivenNames c st refuse
  refine .ite ?_ ?_
  · dsimp -zeta only [refuse]
    refine .app ?_ (raise_stays ..) (by decide)
    exact .refl ..
  · refine .ite ?_ ?_
    · refine .ite ?_ ?_
      · dsimp -zeta only [refuse]
        refine .app ?_ (raise_stays ..) (by decide)
        exact .refl ..
      · refine .ite ?_ ?_
        · refine .app ?_ (startLoad_stays ..) (by decide)
          exact .refl ..
        · dsimp -zeta only [refuse]
          refine .app ?_ (raise_stays ..) (by decide)
          exact .refl ..
    · refine .ite ?_ ?_
      · refine .ite ?_ ?_
        · refine .app ?_ (beginPark_stays ..) (by decide)
          exact .refl ..
        · dsimp -zeta only [refuse]
          refine .app ?_ (raise_stays ..) (by decide)
          exact .refl ..
      · refine .ite ?_ ?_
        · refine .ite ?_ ?_
          · dsimp -zeta only [refuse]
            refine .app ?_ (raise_stays ..) (by decide)
            exact .refl ..
          · refine .app ?_ (retract_stays ..) (by decide)
            exact .refl ..
        · refine .ite ?_ ?_
          · refine .app ?_ (enterRud_stays ..) (by decide)
            exact .refl ..
          · dsimp -zeta only [refuse]
            refine .app ?_ (raise_stays ..) (by decide)
            exact .refl ..

theorem rudCmd_stays (p : Nat → Bool) (req : Requester) (a : Nat) (v : Word) (s : State) :
    Stays [.regs, .bus, .seen, .fabric, .stopped, .rigger, .pres, .hda, .rudders, .tunes, .oars, .mem, .checks, .boat] s (rudCmd p req a v s) := by
  unfold rudCmd
  refine .when _ _ (fun u hu => ?_) ?_
  · refine withWrite_stays _ _ _ _ _ ?_ (by decide) ?_
    · intro u1 hu1
      refine .app ?_ (rudCmdEffect_stays ..) (by decide)
      exact hu1
    · exact hu
  · exact .refl ..

theorem execRudderLoad_stays (req : Requester) (a : Nat) (v : Word) (s : State) :
    Answers [.regs, .bus, .seen, .fabric, .stopped, .rigger, .pres, .hda, .rudders, .tunes, .oars, .mem, .checks, .boat] s (execRudderLoad req a v s) := by
  unfold execRudderLoad
  refine .next ?_
  refine .app ?_ (rudCmd_stays ..) (by decide)
  exact .refl ..

theorem execRudderUnload_stays (req : Requester) (a : Nat) (v : Word) (s : State) :
    Answers [.regs, .bus, .seen, .fabric, .stopped, .rigger, .pres, .hda, .rudders, .tunes, .oars, .mem, .checks, .boat] s (execRudderUnload req a v s) := by
  unfold execRudderUnload
  refine .next ?_
  refine .app ?_ (rudCmd_stays ..) (by decide)
  exact .refl ..

theorem execRudderRetract_stays (req : Requester) (a : Nat) (v : Word) (s : State) :
    Answers [.regs, .bus, .seen, .fabric, .stopped, .rigger, .pres, .hda, .rudders, .tunes, .oars, .mem, .checks, .boat] s (execRudderRetract req a v s) := by
  unfold execRudderRetract
  refine .next ?_
  refine .app ?_ (rudCmd_stays ..) (by decide)
  exact .refl ..

theorem execRudderClear_stays (req : Requester) (a : Nat) (v : Word) (s : State) :
    Answers [.regs, .bus, .seen, .fabric, .stopped, .rigger, .pres, .hda, .rudders, .tunes, .oars, .mem, .checks, .boat] s (execRudderClear req a v s) := by
  unfold execRudderClear
  refine .next ?_
  refine .app ?_ (rudCmd_stays ..) (by decide)
  exact .refl ..

theorem execRudderCmdUnlisted_stays (req : Requester) (a : Nat) (v : Word) (s : State) :
    Answers [.regs, .bus, .seen, .fabric, .stopped, .rigger, .pres, .hda, .rudders, .tunes, .oars, .mem, .checks, .boat] s (execRudderCmdUnlisted req a v s) := by
  unfold execRudderCmdUnlisted
  refine .next ?_
  refine .app ?_ (rudCmd_stays ..) (by decide)
  exact .refl ..

theorem execLoadTimeout_stays (a : Nat) (s : State) :
    Answers [.regs, .seen, .fabric, .stopped, .rigger, .hda, .rudders, .tunes, .oars, .mem, .checks, .boat] s (execLoadTimeout a s) := by
  unfold execLoadTimeout
  refine .next ?_
  refine .when _ _ (fun u hu => ?_) ?_
  · refine .ite ?_ ?_
    · refine .app ?_ (modRud_stays ..) (by decide)
      refine .app ?_ (beginPark_stays ..) (by decide)
      refine .app ?_ (lasting_stays ..) (by decide)
      exact hu
    · refine .app ?_ (beginPark_stays ..) (by decide)
      exact hu
  · exact .refl ..

theorem coefCtrlEffect_stays (a : Nat) (v : Word) (s : State) :
    Stays [.regs, .seen, .fabric, .rudders] s (coefCtrlEffect a v s) := by
  unfold coefCtrlEffect
  extract_lets -underBinder -merge -useContext +onlyGivenNames k s1
  have h_s1 : Stays [.regs, .seen, .fabric, .rudders] s s1 := by
    dsimp -zeta only [s1]
    refine .ite ?_ ?_
    · refine .app ?_ (modRud_stays ..) (by decide)
      refine .app ?_ (State.setBit_stays ..) (by decide)
      refine .app ?_ (State.setBit_stays ..) (by decide)
      exact .refl ..
    · exact .refl ..
  clear_value s1
  refine .ite ?_ ?_
  · refine .ite ?_ ?_
    · refine .app ?_ (State.setBit_stays ..) (by decide)
      exact h_s1
    · refine .app ?_ (raise_stays ..) (by decide)
      exact h_s1
  · exact h_s1

theorem execCoefLoad_stays (req : Requester) (a : Nat) (v : Word) (s : State) :
    Answers [.regs, .bus, .seen, .fabric, .stopped, .rudders] s (execCoefLoad req a v s) := by
  unfold execCoefLoad
  refine .next ?_
  refine .when _ _ (fun u hu => ?_) ?_
  · refine withWrite_stays _ _ _ _ _ ?_ (by decide) ?_
    · intro u1 hu1
      refine .app ?_ (coefCtrlEffect_stays ..) (by decide)
      exact hu1
    · exact hu
  · exact .refl ..

theorem execCoefSwitch_stays (req : Requester) (a : Nat) (v : Word) (s : State) :
    Answers [.regs, .bus, .seen, .fabric, .stopped, .rudders] s (execCoefSwitch req a v s) := by
  unfold execCoefSwitch
  refine .next ?_
  refine .when _ _ (fun u hu => ?_) ?_
  · refine withWrite_stays _ _ _ _ _ ?_ (by decide) ?_
    · intro u1 hu1
      refine .app ?_ (coefCtrlEffect_stays ..) (by decide)
      exact hu1
    · exact hu
  · exact .refl ..

theorem execCoefLoadDone_stays (a : Nat) (firstBad : Bool) (s : State) :
    Answers [.regs, .seen, .fabric, .stopped, .rudders, .checks, .boat] s (execCoefLoadDone a firstBad s) := by
  unfold execCoefLoadDone
  refine .next ?_
  refine .when _ _ (fun u hu => ?_) ?_
  · refine underCredit_stays _ _ _ ?_ (by decide) ?_
    · intro u1 hu1
      extract_lets -underBinder -merge -useContext +onlyGivenNames b fetch r1 bad1 r2 s1
      have h_r1 : Stays [.regs, .seen, .fabric, .stopped, .rudders, .checks, .boat] s r1.2.2 := by
        dsimp -zeta only [r1]
        dsimp -zeta only [fetch]
        refine .app ?_ (fetchWords_stays ..) (by decide)
        exact hu1
      clear_value r1
      have h_r2 : Stays [.regs, .seen, .fabric, .stopped, .rudders, .checks, .boat] s r2.2.2 := by
        dsimp -zeta only [r2]
        split
        · rename_i e
          dsimp -zeta only [fetch]
          refine .app ?_ (fetchWords_stays ..) (by decide)
          exact h_r1
        · rename_i e
          exact h_r1
      clear_value r2
      have h_s1 : Stays [.regs, .seen, .fabric, .stopped, .rudders, .checks, .boat] s s1 := by
        dsimp -zeta only [s1]
        refine .app ?_ (State.setBit_stays ..) (by decide)
        exact h_r2
      clear_value s1
      split
      · rename_i x1 k1 e
        refine .app ?_ (lasting_stays ..) (by decide)
        exact h_s1
      · rename_i x1 e
        extract_lets -underBinder -merge -useContext +onlyGivenNames put s2
        have h_s2 : Stays [.regs, .seen, .fabric, .stopped, .rudders, .checks, .boat] s s2 := by
          dsimp -zeta only [s2]
          refine .app ?_ (modRud_stays ..) (by decide)
          refine .app ?_ (State.setBit_stays ..) (by decide)
          exact h_s1
        clear_value s2
        clear_value bad1
        split
        · rename_i x2 k1
          refine .app ?_ (transient_stays ..) (by decide)
          exact h_s2
        · rename_i x2
          exact h_s2
    · exact hu
  · exact .refl ..

theorem newOffsets_stays (a : Nat) (s : State) :
    Stays [.regs, .seen, .fabric, .stopped, .hda, .rudders, .tunes, .oars, .sweep, .mem, .checks, .boat] s (newOffsets a s) := by
  unfold newOffsets
  refine .foldl _ _ (fun u x hu => ?_) ?_
  · extract_lets -underBinder -merge -useContext +onlyGivenNames x_1 off d t1
    have h_t1 : Stays [.regs, .seen, .fabric, .stopped, .hda, .rudders, .tunes, .oars, .sweep, .mem, .checks, .boat] s t1 := by
      dsimp -zeta only [t1]
      refine .app ?_ (modSlot_stays ..) (by decide)
      exact hu
    clear_value t1
    refine .ite ?_ ?_
    · refine .app ?_ (note_stays ..) (by decide)
      refine .app ?_ (raise_stays ..) (by decide)
      refine .app ?_ (assertWf_stays ..) (by decide)
      refine .app ?_ (stepReadOff_stays ..) (by decide)
      refine .app ?_ (modSlot_stays ..) (by decide)
      exact h_t1
    · exact h_t1
  · exact .refl ..

theorem execCoefSwitched_stays (a : Nat) (parityBad : Bool) (s : State) :
    Answers [.regs, .seen, .fabric, .stopped, .rigger, .hda, .rudders, .tunes, .oars, .sweep, .mem, .checks, .boat] s (execCoefSwitched a parityBad s) := by
  unfold execCoefSwitched
  extract_lets -underBinder -merge -useContext +onlyGivenNames k
  refine .next ?_
  refine .when _ _ (fun u hu => ?_) ?_
  · extract_lets -underBinder -merge -useContext +onlyGivenNames b id s1 s2
    have h_s1 : Stays [.regs, .seen, .fabric, .stopped, .rigger, .hda, .rudders, .tunes, .oars, .sweep, .mem, .checks, .boat] s s1 := by
      dsimp -zeta only [s1]
      refine .app ?_ (State.setReg_stays ..) (by decide)
      refine .app ?_ (State.setFld_stays ..) (by decide)
      refine .app ?_ (State.setBit_stays ..) (by decide)
      exact hu
    clear_value s1
    have h_s2 : Stays [.regs, .seen, .fabric, .stopped, .rigger, .hda, .rudders, .tunes, .oars, .sweep, .mem, .checks, .boat] s s2 := by
      dsimp -zeta only [s2]
      refine .app ?_ (newOffsets_stays ..) (by decide)
      refine .app ?_ (raise_stays ..) (by decide)
      exact h_s1
    clear_value s2
    refine .ite ?_ ?_
    · refine .app ?_ (retract_stays ..) (by decide)
      refine .app ?_ (lasting_stays ..) (by decide)
      refine .app ?_ (State.setBit_stays ..) (by decide)
      exact h_s2
    · exact h_s2
  · exact .refl ..

end Sys2Proof.Machine
end

