-- ==== Sys2Proof/Laws/StaysHeads.lean ====
section
/-! SUPPORT. What the operations and meanings of Machine/Heads do at most. -/

set_option linter.all false
set_option maxRecDepth 4000

namespace Sys2Proof.Machine

theorem fwFrame_stays (a : Nat) (v : Word) (s : State) :
    Stays [.regs, .seen, .fabric, .pres] s (fwFrame a v s) := by
  unfold fwFrame
  extract_lets -underBinder -merge -useContext +onlyGivenNames s1 f first
  have h_s1 : Stays [.regs, .seen, .fabric, .pres] s s1 := by
    dsimp -zeta only [s1]
    refine .app ?_ (State.setFld_stays ..) (by decide)
    exact .refl ..
  clear_value s1
  refine .ite ?_ ?_
  · exact .refl ..
  · refine .ite ?_ ?_
    · refine .app ?_ (fwRefuse_stays ..) (by decide)
      exact h_s1
    · refine .app ?_ (preNext_stays ..) (by decide)
      refine .app ?_ (modPre_stays ..) (by decide)
      refine .app ?_ (State.setBit_stays ..) (by decide)
      exact h_s1

theorem execPreFwRead_stays (req : Requester) (port : Nat) (v : Word) (s : State) :
    Answers [.regs, .bus, .seen, .fabric, .stopped, .pres] s (execPreFwRead req port v s) := by
  unfold execPreFwRead
  refine .next ?_
  refine .when _ _ (fun u hu => ?_) ?_
  · refine withWrite_stays _ _ _ _ _ ?_ (by decide) ?_
    · intro u1 hu1
      refine .app ?_ (fwFrame_stays ..) (by decide)
      exact hu1
    · exact hu
  · exact .refl ..

theorem execPreFwWrite_stays (req : Requester) (port : Nat) (v : Word) (s : State) :
    Answers [.regs, .bus, .seen, .fabric, .stopped, .pres] s (execPreFwWrite req port v s) := by
  unfold execPreFwWrite
  refine .next ?_
  refine .when _ _ (fun u hu => ?_) ?_
  · refine withWrite_stays _ _ _ _ _ ?_ (by decide) ?_
    · intro u1 hu1
      refine .app ?_ (fwFrame_stays ..) (by decide)
      exact hu1
    · exact hu
  · exact .refl ..

theorem fwDone_stays (a : Nat) (f : PreFrame) (reply : Nat) (s : State) :
    Stays [.regs] s (fwDone a f reply s) := by
  unfold fwDone
  extract_lets -underBinder -merge -useContext +onlyGivenNames s1
  have h_s1 : Stays [.regs] s s1 := by
    dsimp -zeta only [s1]
    refine .app ?_ (State.setBit_stays ..) (by decide)
    exact .refl ..
  clear_value s1
  refine .ite ?_ ?_
  · refine .app ?_ (State.setFld_stays ..) (by decide)
    exact h_s1
  · exact h_s1

theorem execSerialFrameDone_stays (port : Nat) (data : BitVec 16) (last : BitVec 8) (s : State) :
    Answers [.regs, .seen, .fabric, .crit, .queues, .ended, .stopped, .rigger, .safePending, .pres, .hda, .rudders, .tunes, .oars, .sweep, .gates, .returned, .mem, .checks, .boat, .crew, .slip] s (execSerialFrameDone port data last s) := by
  unfold execSerialFrameDone
  refine .next ?_
  refine .when _ _ (fun u hu => ?_) ?_
  · split
    · rename_i x1 e
      exact hu
    · rename_i x1 f1 fw1 again1 e
      extract_lets -underBinder -merge -useContext +onlyGivenNames s1 s1_1 s2 s3
      have h_s1 : Stays [.regs, .seen, .fabric, .crit, .queues, .ended, .stopped, .rigger, .safePending, .pres, .hda, .rudders, .tunes, .oars, .sweep, .gates, .returned, .mem, .checks, .boat, .crew, .slip] s s1 := by
        dsimp -zeta only [s1]
        refine .app ?_ (lasting_stays ..) (by decide)
        exact hu
      clear_value s1
      have h_s1_1 : Stays [.regs, .seen, .fabric, .crit, .queues, .ended, .stopped, .rigger, .safePending, .pres, .hda, .rudders, .tunes, .oars, .sweep, .gates, .returned, .mem, .checks, .boat, .crew, .slip] s s1_1 := by
        dsimp -zeta only [s1_1]
        refine .ite ?_ ?_
        · refine .app ?_ (transient_stays ..) (by decide)
          exact hu
        · exact hu
      clear_value s1_1
      have h_s2 : Stays [.regs, .seen, .fabric, .crit, .queues, .ended, .stopped, .rigger, .safePending, .pres, .hda, .rudders, .tunes, .oars, .sweep, .gates, .returned, .mem, .checks, .boat, .crew, .slip] s s2 := by
        dsimp -zeta only [s2]
        refine .ite ?_ ?_
        · exact h_s1_1
        · refine .app ?_ (preWritten_stays ..) (by decide)
          exact h_s1_1
      clear_value s2
      have h_s3 : Stays [.regs, .seen, .fabric, .crit, .queues, .ended, .stopped, .rigger, .safePending, .pres, .hda, .rudders, .tunes, .oars, .sweep, .gates, .returned, .mem, .checks, .boat, .crew, .slip] s s3 := by
        dsimp -zeta only [s3]
        refine .ite ?_ ?_
        · refine .app ?_ (fwDone_stays ..) (by decide)
          exact h_s2
        · exact h_s2
      clear_value s3
      refine .ite ?_ ?_
      · refine .ite ?_ ?_
        · refine .app ?_ (modPre_stays ..) (by decide)
          refine .app ?_ (State.countFld_stays ..) (by decide)
          exact hu
        · refine .app ?_ (loseActuator_stays ..) (by decide)
          refine .ite ?_ ?_
          · refine .app ?_ (State.setBit_stays ..) (by decide)
            exact h_s1
          · exact h_s1
      · refine .app ?_ (preNext_stays ..) (by decide)
        refine .app ?_ (modPre_stays ..) (by decide)
        exact h_s3
  · exact .refl ..

theorem faultWatch_stays (a : Nat) (status : Nat) (s : State) :
    Stays [.regs, .seen, .fabric, .stopped, .pres, .hda, .oars, .mem, .checks, .boat] s (faultWatch a status s) := by
  unfold faultWatch
  extract_lets -underBinder -merge -useContext +onlyGivenNames s1
  have h_s1 : Stays [.regs, .seen, .fabric, .stopped, .pres, .hda, .oars, .mem, .checks, .boat] s s1 := by
    dsimp -zeta only [s1]
    refine .app ?_ (State.setBit_stays ..) (by decide)
    refine .app ?_ (State.setFld_stays ..) (by decide)
    exact .refl ..
  clear_value s1
  refine .app ?_ (cutActuator_stays ..) (by decide)
  refine .app ?_ (modPre_stays ..) (by decide)
  exact h_s1

theorem execPfaultAssert_stays (port : Nat) (status : BitVec 16) (s : State) :
    Answers [.regs, .seen, .fabric, .stopped, .pres, .hda, .oars, .mem, .checks, .boat] s (execPfaultAssert port status s) := by
  unfold execPfaultAssert
  refine .next ?_
  refine .when _ _ (fun u hu => ?_) ?_
  · refine .app ?_ (faultWatch_stays ..) (by decide)
    exact hu
  · exact .refl ..

theorem execPfaultSettle_stays (port : Nat) (released : Bool) (status : BitVec 16) (s : State) :
    Answers [.regs, .seen, .fabric, .crit, .queues, .ended, .stopped, .rigger, .safePending, .pres, .hda, .rudders, .tunes, .oars, .sweep, .gates, .returned, .mem, .checks, .boat, .crew, .slip] s (execPfaultSettle port released status s) := by
  unfold execPfaultSettle
  refine .next ?_
  refine .when _ _ (fun u hu => ?_) ?_
  · extract_lets -underBinder -merge -useContext +onlyGivenNames n
    refine .ite ?_ ?_
    · refine .app ?_ (transient_stays ..) (by decide)
      refine .app ?_ (modPre_stays ..) (by decide)
      refine .app ?_ (State.setBit_stays ..) (by decide)
      exact hu
    · refine .app ?_ (preampFails_stays ..) (by decide)
      refine .app ?_ (State.setFld_stays ..) (by decide)
      exact hu
  · exact .refl ..

theorem execFaultStatusPoll_stays (port : Nat) (status : BitVec 16) (s : State) :
    Answers [.regs, .seen, .fabric, .stopped, .pres, .hda, .oars, .mem, .checks, .boat] s (execFaultStatusPoll port status s) := by
  unfold execFaultStatusPoll
  refine .next ?_
  refine .when _ _ (fun u hu => ?_) ?_
  · extract_lets -underBinder -merge -useContext +onlyGivenNames n new s1
    have h_s1 : Stays [.regs, .seen, .fabric, .stopped, .pres, .hda, .oars, .mem, .checks, .boat] s s1 := by
      dsimp -zeta only [s1]
      refine .app ?_ (State.setFld_stays ..) (by decide)
      exact hu
    clear_value s1
    refine .ite ?_ ?_
    · refine .app ?_ (faultWatch_stays ..) (by decide)
      exact h_s1
    · refine .ite ?_ ?_
      · refine .app ?_ (State.setBit_stays ..) (by decide)
        exact h_s1
      · exact h_s1
  · exact .refl ..

theorem startDiscovery_stays (s : State) :
    Stays [.regs, .clocks, .targets, .free, .hda, .ucode] s (startDiscovery s) := by
  unfold startDiscovery
  extract_lets -underBinder -merge -useContext +onlyGivenNames s1 s2 vsrc
  have h_s1 : Stays [.regs, .clocks, .targets, .free, .hda, .ucode] s s1 := by
    dsimp -zeta only [s1]
    refine .app ?_ (switchOnAll_stays ..) (by decide)
    exact .refl ..
  clear_value s1
  have h_s2 : Stays [.regs, .clocks, .targets, .free, .hda, .ucode] s s2 := by
    dsimp -zeta only [s2]
    refine .foldl _ _ (fun u x hu => ?_) ?_
    · refine .ite ?_ ?_
      · refine .app ?_ (State.setFld_stays ..) (by decide)
        exact hu
      · exact hu
    · exact h_s1
  clear_value s2
  refine .app ?_ (.set_hda _ _) (by decide)
  exact h_s2

theorem execDiscover_stays (req : Requester) (v : Word) (s : State) :
    Answers [.regs, .bus, .seen, .clocks, .fabric, .targets, .stopped, .free, .hda, .ucode] s (execDiscover req v s) := by
  unfold execDiscover
  refine .next ?_
  refine .when _ _ (fun u hu => ?_) ?_
  · refine withWrite_stays _ _ _ _ _ ?_ (by decide) ?_
    · intro u1 hu1
      refine .ite ?_ ?_
      · exact hu1
      · refine .ite ?_ ?_
        · refine .app ?_ (raise_stays ..) (by decide)
          exact hu1
        · refine .app ?_ (startDiscovery_stays ..) (by decide)
          exact hu1
    · exact hu
  · exact .refl ..

theorem keepCaps_stays (a : Nat) (w : List (BitVec 16)) (s : State) :
    Stays [.regs] s (keepCaps a w s) := by
  unfold keepCaps
  extract_lets -underBinder -merge -useContext +onlyGivenNames s1
  have h_s1 : Stays [.regs] s s1 := by
    dsimp -zeta only [s1]
    refine .foldl _ _ (fun u x hu => ?_) ?_
    · refine .app ?_ (State.setReg_stays ..) (by decide)
      exact hu
    · exact .refl ..
  clear_value s1
  refine .app ?_ (State.setFld_stays ..) (by decide)
  exact h_s1

theorem Probe.next_stays (p : Probe) :
    Stays [] p.st (Probe.next p).2.st := by
  unfold Probe.next
  dsimp -zeta only
  exact .refl ..

theorem probeFrame_stays (a : Nat) (read : Bool) (p : Probe) :
    Stays [.regs, .seen, .fabric, .stopped] p.st (probeFrame a read p).2.st := by
  unfold probeFrame
  extract_lets -underBinder -merge -useContext +onlyGivenNames good
  split
  · rename_i x1 y1 p21 e
    split
    · rename_i e1
      dsimp -zeta only
      exact .refl ..
    · rename_i e1
      split
      · rename_i e2
        dsimp -zeta only
        refine .sndBy (fun y : Probe => y.st) e ?_
        refine .app ?_ (Probe.next_stays ..) (by decide)
        exact .refl ..
      · rename_i e2
        split
        · rename_i x2 y2 p22 e3
          extract_lets -underBinder -merge -useContext +onlyGivenNames s1
          have h_s1 : Stays [.regs, .seen, .fabric, .stopped] p.st s1 := by
            dsimp -zeta only [s1]
            refine .app ?_ (State.countFld_stays ..) (by decide)
            exact .refl ..
          clear_value s1
          split
          · rename_i e4
            dsimp -zeta only
            refine .app ?_ (transient_stays ..) (by decide)
            exact h_s1
          · rename_i e4
            dsimp -zeta only
            refine .app ?_ (lasting_stays ..) (by decide)
            exact h_s1

theorem probeReads_stays (a : Nat) (a1 : Nat) (a2 : Probe) :
    Stays [.regs, .seen, .fabric, .stopped] a2.st (probeReads a a1 a2).2.st := by
  induction a1 generalizing a a2 with
  | zero =>
    unfold probeReads
    dsimp -zeta only
    exact .refl ..
  | succ n ih =>
    unfold probeReads
    dsimp -zeta only
    refine .app ?_ (ih ..) (by decide)
    refine .app ?_ (probeFrame_stays ..) (by decide)
    exact .refl ..

theorem probeFaults_stays (a : Nat) (p : Probe) :
    Stays [.regs, .seen, .fabric, .stopped] p.st (probeFaults a p).2.st := by
  unfold probeFaults
  split
  · rename_i x1 y1 p21 e
    split
    · rename_i x2 y2 p22 e1
      split
      · rename_i x3 y3 p23 e2
        extract_lets -underBinder -merge -useContext +onlyGivenNames f
        split
        · rename_i e3
          dsimp -zeta only
          refine .sndBy (fun y : Probe => y.st) e2 ?_
          refine .app ?_ (probeFrame_stays ..) (by decide)
          refine .sndBy (fun y : Probe => y.st) e1 ?_
          refine .app ?_ (probeFrame_stays ..) (by decide)
          refine .sndBy (fun y : Probe => y.st) e ?_
          refine .app ?_ (probeFrame_stays ..) (by decide)
          exact .refl ..
        · rename_i e3
          dsimp -zeta only
          refine .app ?_ (State.setBit_stays ..) (by decide)
          refine .app ?_ (State.setFld_stays ..) (by decide)
          refine .sndBy (fun y : Probe => y.st) e2 ?_
          refine .app ?_ (probeFrame_stays ..) (by decide)
          refine .sndBy (fun y : Probe => y.st) e1 ?_
          refine .app ?_ (probeFrame_stays ..) (by decide)
          refine .sndBy (fun y : Probe => y.st) e ?_
          refine .app ?_ (probeFrame_stays ..) (by decide)
          exact .refl ..

theorem portPresent_stays (a : Nat) (w : List (BitVec 16)) (faults : Nat) (s : State) :
    Stays [.regs, .seen, .fabric, .crit, .queues, .ended, .stopped, .safePending, .pres, .oars, .sweep, .gates, .returned, .mem, .checks, .boat, .crew] s (portPresent a w faults s) := by
  unfold portPresent
  extract_lets -underBinder -merge -useContext +onlyGivenNames mask s1 bad
  have h_s1 : Stays [.regs, .seen, .fabric, .crit, .queues, .ended, .stopped, .safePending, .pres, .oars, .sweep, .gates, .returned, .mem, .checks, .boat, .crew] s s1 := by
    dsimp -zeta only [s1]
    refine .app ?_ (State.setCritFld_stays ..) (by decide)
    refine .app ?_ (State.setCritFld_stays ..) (by decide)
    exact .refl ..
  clear_value s1
  refine .foldl _ _ (fun u x hu => ?_) ?_
  · refine .ite ?_ ?_
    · refine .app ?_ (failMember_stays ..) (by decide)
      exact hu
    · exact hu
  · refine .app ?_ (State.setReg_stays ..) (by decide)
    refine .app ?_ (modPre_stays ..) (by decide)
    exact h_s1

theorem probePort_stays (a : Nat) (r : ProbeReply) (s : State) :
    Stays [.regs, .seen, .fabric, .crit, .queues, .ended, .stopped, .safePending, .pres, .oars, .sweep, .gates, .returned, .mem, .checks, .boat, .crew] s (probePort a r s).2 := by
  unfold probePort
  split
  · rename_i x1 y1 p21 e
    split
    · rename_i x2 y2 p22 e1
      split
      · rename_i e2
        refine .pair ?_
        refine .sndBy (fun y : Probe => y.st) e1 ?_
        split
        · rename_i e3
          refine .app ?_ (probeFrame_stays ..) (by decide)
          refine .sndBy (fun y : Probe => y.st) e ?_
          refine .app ?_ (probeFrame_stays ..) (by decide)
          dsimp -zeta only
          refine .app ?_ (State.setBit_stays ..) (by decide)
          exact .refl ..
        · rename_i e3
          dsimp -zeta only
          refine .sndBy (fun y : Probe => y.st) e ?_
          refine .app ?_ (probeFrame_stays ..) (by decide)
          dsimp -zeta only
          refine .app ?_ (State.setBit_stays ..) (by decide)
          exact .refl ..
      · rename_i e2
        split
        · rename_i e3
          refine .pair ?_
          refine .sndBy (fun y : Probe => y.st) e1 ?_
          split
          · rename_i e4
            refine .app ?_ (probeFrame_stays ..) (by decide)
            refine .sndBy (fun y : Probe => y.st) e ?_
            refine .app ?_ (probeFrame_stays ..) (by decide)
            dsimp -zeta only
            refine .app ?_ (State.setBit_stays ..) (by decide)
            exact .refl ..
          · rename_i e4
            dsimp -zeta only
            refine .sndBy (fun y : Probe => y.st) e ?_
            refine .app ?_ (probeFrame_stays ..) (by decide)
            dsimp -zeta only
            refine .app ?_ (State.setBit_stays ..) (by decide)
            exact .refl ..
        · rename_i e3
          split
          · rename_i x3 xs1 p23 e4
            split
            · rename_i e5
              refine .pair ?_
              refine .sndBy (fun y : Probe => y.st) e4 ?_
              refine .app ?_ (probeReads_stays ..) (by decide)
              refine .sndBy (fun y : Probe => y.st) e1 ?_
              split
              · rename_i e6
                refine .app ?_ (probeFrame_stays ..) (by decide)
                refine .sndBy (fun y : Probe => y.st) e ?_
                refine .app ?_ (probeFrame_stays ..) (by decide)
                dsimp -zeta only
                refine .app ?_ (State.setBit_stays ..) (by decide)
                exact .refl ..
              · rename_i e6
                dsimp -zeta only
                refine .sndBy (fun y : Probe => y.st) e ?_
                refine .app ?_ (probeFrame_stays ..) (by decide)
                dsimp -zeta only
                refine .app ?_ (State.setBit_stays ..) (by decide)
                exact .refl ..
            · rename_i e5
              split
              · rename_i e6
                refine .pair ?_
                refine .app ?_ (keepCaps_stays ..) (by decide)
                refine .sndBy (fun y : Probe => y.st) e4 ?_
                refine .app ?_ (probeReads_stays ..) (by decide)
                refine .sndBy (fun y : Probe => y.st) e1 ?_
                split
                · rename_i e7
                  refine .app ?_ (probeFrame_stays ..) (by decide)
                  refine .sndBy (fun y : Probe => y.st) e ?_
                  refine .app ?_ (probeFrame_stays ..) (by decide)
                  dsimp -zeta only
                  refine .app ?_ (State.setBit_stays ..) (by decide)
                  exact .refl ..
                · rename_i e7
                  dsimp -zeta only
                  refine .sndBy (fun y : Probe => y.st) e ?_
                  refine .app ?_ (probeFrame_stays ..) (by decide)
                  dsimp -zeta only
                  refine .app ?_ (State.setBit_stays ..) (by decide)
                  exact .refl ..
              · rename_i e6
                split
                · rename_i x4 f1 p31 e7
                  split
                  · rename_i e8
                    refine .pair ?_
                    refine .sndBy (fun y : Probe => y.st) e7 ?_
                    refine .app ?_ (probeFaults_stays ..) (by decide)
                    dsimp -zeta only
                    refine .app ?_ (keepCaps_stays ..) (by decide)
                    refine .sndBy (fun y : Probe => y.st) e4 ?_
                    refine .app ?_ (probeReads_stays ..) (by decide)
                    refine .sndBy (fun y : Probe => y.st) e1 ?_
                    split
                    · rename_i e9
                      refine .app ?_ (probeFrame_stays ..) (by decide)
                      refine .sndBy (fun y : Probe => y.st) e ?_
                      refine .app ?_ (probeFrame_stays ..) (by decide)
                      dsimp -zeta only
                      refine .app ?_ (State.setBit_stays ..) (by decide)
                      exact .refl ..
                    · rename_i e9
                      dsimp -zeta only
                      refine .sndBy (fun y : Probe => y.st) e ?_
                      refine .app ?_ (probeFrame_stays ..) (by decide)
                      dsimp -zeta only
                      refine .app ?_ (State.setBit_stays ..) (by decide)
                      exact .refl ..
                  · rename_i e8
                    refine .pair ?_
                    refine .app ?_ (portPresent_stays ..) (by decide)
                    refine .sndBy (fun y : Probe => y.st) e7 ?_
                    refine .app ?_ (probeFaults_stays ..) (by decide)
                    dsimp -zeta only
                    refine .app ?_ (keepCaps_stays ..) (by decide)
                    refine .sndBy (fun y : Probe => y.st) e4 ?_
                    refine .app ?_ (probeReads_stays ..) (by decide)
                    refine .sndBy (fun y : Probe => y.st) e1 ?_
                    split
                    · rename_i e9
                      refine .app ?_ (probeFrame_stays ..) (by decide)
                      refine .sndBy (fun y : Probe => y.st) e ?_
                      refine .app ?_ (probeFrame_stays ..) (by decide)
                      dsimp -zeta only
                      refine .app ?_ (State.setBit_stays ..) (by decide)
                      exact .refl ..
                    · rename_i e9
                      dsimp -zeta only
                      refine .sndBy (fun y : Probe => y.st) e ?_
                      refine .app ?_ (probeFrame_stays ..) (by decide)
                      dsimp -zeta only
                      refine .app ?_ (State.setBit_stays ..) (by decide)
                      exact .refl ..

theorem portProbed_stays (a : Nat) (r : ProbeReply) (s : State) :
    Stays [.regs, .seen, .fabric, .crit, .queues, .ended, .stopped, .safePending, .pres, .oars, .sweep, .gates, .returned, .mem, .checks, .boat, .crew] s (portProbed a r s) := by
  unfold portProbed
  split
  · rename_i x1 c1 t1 e
    refine .app ?_ (raise_stays ..) (by decide)
    refine .app ?_ (State.setFld_stays ..) (by decide)
    refine .snd e ?_
    refine .app ?_ (probePort_stays ..) (by decide)
    exact .refl ..

theorem execDiscoveryDone_stays (replies : List ProbeReply) (s : State) :
    Answers (allBut [.time, .rwlShadow, .bus, .leaks, .consumed, .otp, .chip, .smbus]) s (execDiscoveryDone replies s) := by
  unfold execDiscoveryDone
  split
  · rename_i x1 e
    refine .next ?_
    exact .refl ..
  · rename_i x1 t01 e
    extract_lets -underBinder -merge -useContext +onlyGivenNames ports vsrc s1 s2 s3
    have h_s1 : Stays (allBut [.time, .rwlShadow, .bus, .leaks, .consumed, .otp, .chip, .smbus]) s s1 := by
      dsimp -zeta only [s1]
      refine .foldl _ _ (fun u x hu => ?_) ?_
      · refine .app ?_ (portProbed_stays ..) (by decide)
        exact hu
      · refine .app ?_ (.set_hda _ _) (by decide)
        exact .refl ..
    clear_value s1
    have h_s2 : Stays (allBut [.time, .rwlShadow, .bus, .leaks, .consumed, .otp, .chip, .smbus]) s s2 := by
      dsimp -zeta only [s2]
      refine .app ?_ (State.setReg_stays ..) (by decide)
      exact h_s1
    clear_value s2
    have h_s3 : Stays (allBut [.time, .rwlShadow, .bus, .leaks, .consumed, .otp, .chip, .smbus]) s s3 := by
      dsimp -zeta only [s3]
      refine .app ?_ (raise_stays ..) (by decide)
      exact h_s2
    clear_value s3
    refine .next ?_
    refine .foldl _ _ (fun u x hu => ?_) ?_
    · refine .ite ?_ ?_
      · exact hu
      · refine .app ?_ (domainOff_stays ..) (by decide)
        exact hu
    · exact h_s3

theorem execActuatorRetire_stays (req : Requester) (addr : Addr) (v : Word) (s : State) :
    Answers [.regs, .bus, .seen, .fabric, .crit, .queues, .ended, .stopped, .rigger, .safePending, .pres, .hda, .rudders, .tunes, .oars, .sweep, .gates, .returned, .mem, .checks, .boat, .crew, .slip] s (execActuatorRetire req addr v s) := by
  unfold execActuatorRetire
  refine .next ?_
  refine critWriteAt_stays _ _ _ _ _ _ ?_ (by decide) ?_
  · intro u hu
    refine .foldl _ _ (fun u1 x hu1 => ?_) ?_
    · refine .ite ?_ ?_
      · refine .app ?_ (loseActuator_stays ..) (by decide)
        exact hu1
      · exact hu1
    · exact hu
  · exact .refl ..

theorem readDiode_stays (i : Nat) (d : Diode) (x : Int) (s : State) :
    Stays [.regs, .seen, .fabric, .stopped] s (readDiode i d x s).2 := by
  unfold readDiode
  split
  · rename_i e
    refine .pair ?_
    exact .refl ..
  · rename_i e
    split
    · rename_i e1
      split
      · rename_i e2
        refine .pair ?_
        refine .app ?_ (lasting_stays ..) (by decide)
        exact .refl ..
      · rename_i e2
        refine .pair ?_
        exact .refl ..
    · rename_i e1
      refine .pair ?_
      refine .ite ?_ ?_
      · refine .app ?_ (transient_stays ..) (by decide)
        exact .refl ..
      · exact .refl ..

theorem execTempUpdate_stays (d0 : Int) (d1 : Int) (s : State) :
    Answers [.regs, .seen, .fabric, .stopped, .hda] s (execTempUpdate d0 d1 s) := by
  unfold execTempUpdate
  refine .next ?_
  refine .when _ _ (fun u hu => ?_) ?_
  · split
    · rename_i x2 x11 s21 e
      split
      · rename_i x3 x12 s22 e1
        extract_lets -underBinder -merge -useContext +onlyGivenNames vsrc s3 good
        have h_s3 : Stays [.regs, .seen, .fabric, .stopped, .hda] s s3 := by
          dsimp -zeta only [s3]
          refine .app ?_ (State.setReg_stays ..) (by decide)
          refine .app ?_ (State.setReg_stays ..) (by decide)
          refine .app ?_ (.set_hda _ _) (by decide)
          refine .snd e1 ?_
          refine .app ?_ (readDiode_stays ..) (by decide)
          refine .snd e ?_
          refine .app ?_ (readDiode_stays ..) (by decide)
          exact hu
        clear_value s3
        clear_value good
        split
        · rename_i good1
          refine .app ?_ (State.setBit_stays ..) (by decide)
          exact h_s3
        · rename_i good1 e2
          refine .app ?_ (State.setReg_stays ..) (by decide)
          exact h_s3
  · exact .refl ..

theorem execTliUpdate_stays (lowNs : Nat) (s : State) :
    Answers [.regs, .hda] s (execTliUpdate lowNs s) := by
  unfold execTliUpdate
  refine .next ?_
  refine .when _ _ (fun u hu => ?_) ?_
  · extract_lets -underBinder -merge -useContext +onlyGivenNames nAct lanes wgNs duty vsrc
    refine .app ?_ (State.setReg_stays ..) (by decide)
    refine .app ?_ (.set_hda _ _) (by decide)
    exact hu
  · exact .refl ..

theorem execCalLoad_stays (req : Requester) (v : Word) (s : State) :
    Answers [.regs, .bus, .seen, .fabric, .stopped, .cal] s (execCalLoad req v s) := by
  unfold execCalLoad
  refine .next ?_
  refine .when _ _ (fun u hu => ?_) ?_
  · refine withWrite_stays _ _ _ _ _ ?_ (by decide) ?_
    · intro u1 hu1
      refine .when _ _ (fun u2 hu2 => ?_) ?_
      · extract_lets -underBinder -merge -useContext +onlyGivenNames n off
        refine .app ?_ (modCal_stays ..) (by decide)
        exact hu2
      · exact hu1
    · exact hu
  · exact .refl ..

theorem storeRecord_stays (r : List Word) (s : State) :
    Stays [.cal] s (storeRecord r s) := by
  unfold storeRecord
  extract_lets -underBinder -merge -useContext +onlyGivenNames i
  refine .app ?_ (modCal_stays ..) (by decide)
  exact .refl ..

theorem loadRecord_stays (base : Nat) (firstBad : List Nat) (s : State) (i : Nat) :
    Stays [.regs, .seen, .fabric, .stopped, .cal, .checks, .boat] s (loadRecord base firstBad s i) := by
  unfold loadRecord
  extract_lets -underBinder -merge -useContext +onlyGivenNames off x y pl
  have h_x : Stays [.regs, .seen, .fabric, .stopped, .cal, .checks, .boat] s x.2.2 := by
    dsimp -zeta only [x]
    refine .app ?_ (fetchWords_stays ..) (by decide)
    exact .refl ..
  clear_value x
  have h_y : Stays [.regs, .seen, .fabric, .stopped, .cal, .checks, .boat] s y.2.2 := by
    dsimp -zeta only [y]
    refine .app ?_ (fetchWords_stays ..) (by decide)
    exact h_x
  clear_value y
  refine .ite ?_ ?_
  · refine .app ?_ (storeRecord_stays ..) (by decide)
    exact h_x
  · refine .ite ?_ ?_
    · refine .app ?_ (transient_stays ..) (by decide)
      refine .app ?_ (storeRecord_stays ..) (by decide)
      exact h_y
    · refine .app ?_ (lasting_stays ..) (by decide)
      exact h_y

theorem execCalLoadDone_stays (firstBad : List Nat) (s : State) :
    Answers [.regs, .seen, .fabric, .stopped, .cal, .checks, .boat] s (execCalLoadDone firstBad s) := by
  unfold execCalLoadDone
  split
  · rename_i x1 e
    refine .next ?_
    exact .refl ..
  · rename_i x1 base1 n1 e
    refine .next ?_
    refine .when _ _ (fun u hu => ?_) ?_
    · refine underCredit_stays _ _ _ ?_ (by decide) ?_
      · intro u1 hu1
        refine .foldl _ _ (fun u2 x hu2 => ?_) ?_
        · refine .app ?_ (loadRecord_stays ..) (by decide)
          exact hu2
        · refine .app ?_ (modCal_stays ..) (by decide)
          exact hu1
      · exact hu
    · exact .refl ..

theorem verifyJob_stays (o : Nat) (s : State) :
    Stays [.oars] s (verifyJob o s) := by
  unfold verifyJob
  split
  · rename_i x1 e
    exact .refl ..
  · rename_i x1 j1 e
    refine .ite ?_ ?_
    · exact .refl ..
    · refine .foldl _ _ (fun u x hu => ?_) ?_
      · refine .app ?_ (modEntry_stays ..) (by decide)
        exact hu
      · exact .refl ..

theorem execEnvelopeCheck_stays (o : Nat) (s : State) :
    Answers [.regs, .seen, .fabric, .stopped, .pres, .cal, .oars] s (execEnvelopeCheck o s) := by
  unfold execEnvelopeCheck
  refine .next ?_
  refine .when _ _ (fun u hu => ?_) ?_
  · split
    · rename_i x1 e
      exact hu
    · rename_i x1 base1 n1 e
      extract_lets -underBinder -merge -useContext +onlyGivenNames m r s1 s2
      have h_s1 : Stays [.regs, .seen, .fabric, .stopped, .pres, .cal, .oars] s s1 := by
        dsimp -zeta only [s1]
        refine .app ?_ (calCompare_stays ..) (by decide)
        exact hu
      clear_value s1
      have h_s2 : Stays [.regs, .seen, .fabric, .stopped, .pres, .cal, .oars] s s2 := by
        dsimp -zeta only [s2]
        refine .ite ?_ ?_
        · refine .app ?_ (verifyJob_stays ..) (by decide)
          exact h_s1
        · exact h_s1
      clear_value s2
      refine .app ?_ (preLevels_stays ..) (by decide)
      exact h_s2
  · exact .refl ..

theorem execWedgeDemod_stays (a : Nat) (k : Nat) (mark : WedgeMark) (wedge : Nat) (gray : Nat) (bursts : NullBursts) (s : State) :
    Answers [.free, .rudders] s (execWedgeDemod a k mark wedge gray bursts s) := by
  unfold execWedgeDemod
  refine .next ?_
  refine .when _ _ (fun u hu => ?_) ?_
  · extract_lets -underBinder -merge -useContext +onlyGivenNames x
    split
    · rename_i x1 fst1 sep1 s11 e
      extract_lets -underBinder -merge -useContext +onlyGivenNames pos r
      refine .app ?_ (modSlot_stays ..) (by decide)
      refine .snd3 e ?_
      split
      · rename_i e1
        refine .triple ?_
        exact hu
      · rename_i e1
        refine .app ?_ (calOffsets_stays ..) (by decide)
        exact hu
  · exact .refl ..

theorem parkedOff_stays (s : State) :
    Stays (allBut [.time, .rwlShadow, .bus, .leaks, .consumed, .otp, .chip, .smbus]) s (parkedOff s) := by
  unfold parkedOff
  refine .ite ?_ ?_
  · exact .refl ..
  · refine .ite ?_ ?_
    · refine .app ?_ (domainsOff_stays ..) (by decide)
      exact .refl ..
    · refine .ite ?_ ?_
      · refine .app ?_ (keelHalts_stays ..) (by decide)
        exact .refl ..
      · exact .refl ..

theorem execParkDetect_stays (a : Nat) (coil : CoilSense) (heldUs : Nat) (s : State) :
    Answers (allBut [.time, .rwlShadow, .bus, .leaks, .consumed, .otp, .chip, .smbus]) s (execParkDetect a coil heldUs s) := by
  unfold execParkDetect
  refine .next ?_
  refine .when _ _ (fun u hu => ?_) ?_
  · refine .ite ?_ ?_
    · refine .app ?_ (startLoad_stays ..) (by decide)
      refine .app ?_ (driveCoil_stays ..) (by decide)
      exact hu
    · refine .app ?_ (parkedOff_stays ..) (by decide)
      refine .app ?_ (parkNow_stays ..) (by decide)
      exact hu
  · exact .refl ..

theorem execRetractTimeout_stays (a : Nat) (s : State) :
    Answers [.regs, .seen, .fabric, .rigger, .rudders, .tunes] s (execRetractTimeout a s) := by
  unfold execRetractTimeout
  refine .next ?_
  refine .when _ _ (fun u hu => ?_) ?_
  · refine .app ?_ (driveCoil_stays ..) (by decide)
    refine .app ?_ (modRud_stays ..) (by decide)
    exact hu
  · exact .refl ..

theorem execRetractCurrentEnd_stays (a : Nat) (s : State) :
    Answers (allBut [.time, .rwlShadow, .bus, .leaks, .consumed, .otp, .chip, .smbus]) s (execRetractCurrentEnd a s) := by
  unfold execRetractCurrentEnd
  refine .next ?_
  refine .when _ _ (fun u hu => ?_) ?_
  · refine .app ?_ (parkedOff_stays ..) (by decide)
    refine .app ?_ (parkNow_stays ..) (by decide)
    exact hu
  · exact .refl ..

end Sys2Proof.Machine
end

