-- ==== Sys2Proof/Laws/StaysPowerOps.lean ====
section
/-! SUPPORT. What the operations and meanings of Machine/PowerOps do at most. -/

set_option linter.all false
set_option maxRecDepth 4000

namespace Sys2Proof.Machine

theorem modPower_stays (f : Power → Power) (s : State) :
    Stays [.power] s (modPower f s) := by
  unfold modPower
  refine .app ?_ (.set_power _ _) (by decide)
  exact .refl ..

theorem wbReview_stays (s : State) :
    Stays [.regs, .seen, .fabric, .crit, .safePending, .boat, .power] s (wbReview s) := by
  unfold wbReview
  split
  · rename_i x1 r1 e
    refine .app ?_ (wbFall_stays ..) (by decide)
    refine .app ?_ (modPower_stays ..) (by decide)
    exact .refl ..
  · rename_i x1 e
    refine .ite ?_ ?_
    · refine .ite ?_ ?_
      · exact .refl ..
      · refine .app ?_ (modPower_stays ..) (by decide)
        exact .refl ..
    · refine .app ?_ (modPower_stays ..) (by decide)
      exact .refl ..

theorem updateCover_stays (s : State) :
    Stays [.regs, .seen, .fabric, .crit, .safePending, .boat, .power] s (updateCover s) := by
  unfold updateCover
  extract_lets -underBinder -merge -useContext +onlyGivenNames c
  refine .app ?_ (wbReview_stays ..) (by decide)
  refine .app ?_ (State.setReg_stays ..) (by decide)
  exact .refl ..

theorem setMode_stays (m : Nat) (s : State) :
    Stays [.regs, .seen, .fabric, .crit, .safePending, .boat, .power] s (setMode m s) := by
  unfold setMode
  refine .ite ?_ ?_
  · exact .refl ..
  · refine .app ?_ (wbReview_stays ..) (by decide)
    refine .app ?_ (raise_stays ..) (by decide)
    refine .app ?_ (State.setCritFld_stays ..) (by decide)
    exact .refl ..

theorem modeResult_stays (outcome : Nat) (code : Nat) (s : State) :
    Stays [.regs] s (modeResult outcome code s) := by
  unfold modeResult
  refine .app ?_ (State.setReg_stays ..) (by decide)
  exact .refl ..

theorem modeRefuse_stays (code : Nat) (s : State) :
    Stays [.regs, .seen, .fabric] s (modeRefuse code s) := by
  unfold modeRefuse
  refine .app ?_ (raise_stays ..) (by decide)
  refine .app ?_ (modeResult_stays ..) (by decide)
  exact .refl ..

theorem setTransition_stays (b : Bool) (s : State) :
    Stays [.regs] s (setTransition b s) := by
  unfold setTransition
  refine .app ?_ (State.setBit_stays ..) (by decide)
  exact .refl ..

theorem leaveBoot_stays (m : Nat) (s : State) :
    Stays [.regs, .seen, .clocks, .fabric, .targets, .crit, .free, .safePending, .ucode, .boat, .power] s (leaveBoot m s) := by
  unfold leaveBoot
  refine .app ?_ (modeResult_stays ..) (by decide)
  refine .app ?_ (setMode_stays ..) (by decide)
  refine .app ?_ (switchOnAll_stays ..) (by decide)
  exact .refl ..

theorem requestMode_stays (t : Nat) (s : State) :
    Stays [.regs, .seen, .clocks, .fabric, .targets, .crit, .free, .safePending, .ucode, .boat, .power] s (requestMode t s) := by
  unfold requestMode
  extract_lets -underBinder -merge -useContext +onlyGivenNames m s1
  have h_s1 : Stays [.regs, .seen, .clocks, .fabric, .targets, .crit, .free, .safePending, .ucode, .boat, .power] s s1 := by
    dsimp -zeta only [s1]
    refine .app ?_ (modeResult_stays ..) (by decide)
    refine .app ?_ (modPower_stays ..) (by decide)
    exact .refl ..
  clear_value s1
  refine .ite ?_ ?_
  · refine .app ?_ (modeRefuse_stays ..) (by decide)
    exact .refl ..
  · refine .ite ?_ ?_
    · refine .app ?_ (modeRefuse_stays ..) (by decide)
      exact .refl ..
    · refine .ite ?_ ?_
      · refine .ite ?_ ?_
        · refine .app ?_ (leaveBoot_stays ..) (by decide)
          exact .refl ..
        · refine .app ?_ (modeRefuse_stays ..) (by decide)
          exact .refl ..
      · refine .ite ?_ ?_
        · refine .ite ?_ ?_
          · refine .app ?_ (modeRefuse_stays ..) (by decide)
            exact .refl ..
          · refine .app ?_ (leaveBoot_stays ..) (by decide)
            exact .refl ..
        · refine .ite ?_ ?_
          · refine .app ?_ (modeResult_stays ..) (by decide)
            refine .app ?_ (modPower_stays ..) (by decide)
            exact .refl ..
          · refine .ite ?_ ?_
            · refine .app ?_ (exitTrigger_stays ..) (by decide)
              refine .app ?_ (modeResult_stays ..) (by decide)
              refine .app ?_ (modPower_stays ..) (by decide)
              exact .refl ..
            · refine .ite ?_ ?_
              · refine .ite ?_ ?_
                · refine .app ?_ (exitTrigger_stays ..) (by decide)
                  exact h_s1
                · exact h_s1
              · refine .app ?_ (modeRefuse_stays ..) (by decide)
                refine .app ?_ (State.useFree_stays ..) (by decide)
                exact .refl ..

theorem transitionOver_stays (s : State) :
    Stays [.regs, .seen, .clocks, .fabric, .targets, .crit, .free, .safePending, .ucode, .boat, .power] s (transitionOver s) := by
  unfold transitionOver
  extract_lets -underBinder -merge -useContext +onlyGivenNames s1
  have h_s1 : Stays [.regs, .seen, .clocks, .fabric, .targets, .crit, .free, .safePending, .ucode, .boat, .power] s s1 := by
    dsimp -zeta only [s1]
    refine .app ?_ (setTransition_stays ..) (by decide)
    exact .refl ..
  clear_value s1
  split
  · rename_i x1 e
    exact h_s1
  · rename_i x1 t1 e
    refine .app ?_ (requestMode_stays ..) (by decide)
    refine .app ?_ (modPower_stays ..) (by decide)
    exact h_s1

theorem modeTargetEffect_stays (v : Word) (s : State) :
    Stays [.regs, .seen, .clocks, .fabric, .targets, .crit, .free, .safePending, .ucode, .boat, .power] s (modeTargetEffect v s) := by
  unfold modeTargetEffect
  extract_lets -underBinder -merge -useContext +onlyGivenNames s1
  have h_s1 : Stays [.regs, .seen, .clocks, .fabric, .targets, .crit, .free, .safePending, .ucode, .boat, .power] s s1 := by
    dsimp -zeta only [s1]
    refine .app ?_ (State.critPut_stays ..) (by decide)
    exact .refl ..
  clear_value s1
  refine .ite ?_ ?_
  · refine .app ?_ (modPower_stays ..) (by decide)
    exact h_s1
  · refine .app ?_ (requestMode_stays ..) (by decide)
    exact h_s1

theorem trackIdle_stays (s : State) :
    Stays [.power] s (trackIdle s) := by
  unfold trackIdle
  extract_lets -underBinder -merge -useContext +onlyGivenNames since
  refine .app ?_ (modPower_stays ..) (by decide)
  exact .refl ..

theorem beginEntry_stays (l : Nat) (s : State) :
    Stays [.regs, .power] s (beginEntry l s) := by
  unfold beginEntry
  refine .app ?_ (setTransition_stays ..) (by decide)
  refine .app ?_ (modPower_stays ..) (by decide)
  exact .refl ..

theorem idleStep_stays (s0x : State) :
    Stays [.regs, .seen, .fabric, .power] s0x (idleStep s0x) := by
  unfold idleStep
  extract_lets -underBinder -merge -useContext +onlyGivenNames s want
  have h_s : Stays [.regs, .seen, .fabric, .power] s0x s := by
    dsimp -zeta only [s]
    refine .app ?_ (trackIdle_stays ..) (by decide)
    exact .refl ..
  clear_value s
  refine .ite ?_ ?_
  · exact h_s
  · refine .ite ?_ ?_
    · refine .app ?_ (beginEntry_stays ..) (by decide)
      exact h_s
    · split
      · rename_i x1 r1 e
        refine .ite ?_ ?_
        · exact h_s
        · refine .app ?_ (raise_stays ..) (by decide)
          refine .app ?_ (modPower_stays ..) (by decide)
          exact h_s
      · rename_i x1 e
        exact h_s

theorem saveCtxPage_stays (s : State) (p : Nat) :
    Stays [.regs, .seen, .fabric, .stopped, .mem, .checks, .boat] s (saveCtxPage s p) := by
  unfold saveCtxPage
  refine .foldl _ _ (fun u x hu => ?_) ?_
  · refine .app ?_ (storeBytes_stays ..) (by decide)
    exact hu
  · exact .refl ..

theorem saveContext_stays (l : Nat) (s : State) :
    Stays [.regs, .seen, .fabric, .stopped, .mem, .checks, .boat, .power] s (saveContext l s) := by
  unfold saveContext
  extract_lets -underBinder -merge -useContext +onlyGivenNames ps acts s1
  have h_s1 : Stays [.regs, .seen, .fabric, .stopped, .mem, .checks, .boat, .power] s s1 := by
    dsimp -zeta only [s1]
    refine .foldl _ _ (fun u x hu => ?_) ?_
    · refine .app ?_ (saveCtxPage_stays ..) (by decide)
      exact hu
    · exact .refl ..
  clear_value s1
  refine .ite ?_ ?_
  · exact .refl ..
  · refine .app ?_ (modPower_stays ..) (by decide)
    exact h_s1

theorem loadSkipped_stays (cause : Nat) (s : State) (a : Nat) :
    Stays [.regs, .seen, .fabric, .stopped, .power] s (loadSkipped cause s a) := by
  unfold loadSkipped
  extract_lets -underBinder -merge -useContext +onlyGivenNames s1
  have h_s1 : Stays [.regs, .seen, .fabric, .stopped, .power] s s1 := by
    dsimp -zeta only [s1]
    refine .app ?_ (modPower_stays ..) (by decide)
    exact .refl ..
  clear_value s1
  refine .ite ?_ ?_
  · exact .refl ..
  · refine .ite ?_ ?_
    · refine .app ?_ (lasting_stays ..) (by decide)
      exact h_s1
    · exact h_s1

theorem restoreCtxPage_stays (s : State) (p : Nat) :
    Stays [.regs, .seen, .fabric, .stopped, .checks, .boat, .power] s (restoreCtxPage s p) := by
  have fin : ∀ r : List Byte × Bool × State, Stays [.regs, .seen, .fabric, .stopped, .checks, .boat, .power] s r.2.2 → Stays [.regs, .seen, .fabric, .stopped, .checks, .boat, .power] s (if (!r.2.1) = true then
      match ctxActuator p with
      | some a => loadSkipped 2 r.2.2 a
      | none => r.2.2
    else
      (ctxOffsets p).foldl (fun t o =>
        let k := regKey p o
        let v := word (ofBytes ((r.1.drop o).take 4))
        if isRwl k && pageLocked p t then t
        else t.setReg k (if o = 8 ∧ 0x040 ≤ p ∧ p ≤ 0x043 then Sys2Proof.setBit v 0 false else v)) r.2.2) := fun r h => by
    split
    · split
      · exact .app h (loadSkipped_stays ..) (by decide)
      · exact h
    · refine .foldl _ _ (fun t o ht => ?_) h
      dsimp only
      split
      · exact ht
      · exact .app ht (State.setReg_stays ..) (by decide)
  unfold restoreCtxPage
  exact fin _ (.app (.refl ..) (fetchBytes_stays ..) (by decide))

theorem unloadAll_stays (s : State) :
    Stays [.regs, .seen, .fabric, .stopped, .rigger, .hda, .rudders, .tunes, .oars, .mem, .checks, .boat] s (unloadAll s) := by
  unfold unloadAll
  refine .foldl _ _ (fun u x hu => ?_) ?_
  · refine .ite ?_ ?_
    · exact hu
    · refine .ite ?_ ?_
      · refine .app ?_ (beginPark_stays ..) (by decide)
        exact hu
      · refine .ite ?_ ?_
        · refine .app ?_ (retract_stays ..) (by decide)
          exact hu
        · exact hu
  · exact .refl ..

theorem saveTarget_stays (s : State) :
    Stays [.regs] s (saveTarget s) := by
  unfold saveTarget
  refine .ite ?_ ?_
  · exact .refl ..
  · refine .app ?_ (State.setReg_stays ..) (by decide)
    exact .refl ..

theorem finishEntry_stays (l : Nat) (s : State) :
    Stays (allBut [.time, .rwlShadow, .bus, .leaks, .consumed, .otp, .chip, .smbus]) s (finishEntry l s) := by
  unfold finishEntry
  extract_lets -underBinder -merge -useContext +onlyGivenNames s1 s2 s3 s4
  have h_s1 : Stays (allBut [.time, .rwlShadow, .bus, .leaks, .consumed, .otp, .chip, .smbus]) s s1 := by
    dsimp -zeta only [s1]
    refine .ite ?_ ?_
    · exact .refl ..
    · refine .app ?_ (saveContext_stays ..) (by decide)
      exact .refl ..
  clear_value s1
  have h_s2 : Stays (allBut [.time, .rwlShadow, .bus, .leaks, .consumed, .otp, .chip, .smbus]) s s2 := by
    dsimp -zeta only [s2]
    refine .app ?_ (domainsOff_stays ..) (by decide)
    exact h_s1
  clear_value s2
  have h_s3 : Stays (allBut [.time, .rwlShadow, .bus, .leaks, .consumed, .otp, .chip, .smbus]) s s3 := by
    dsimp -zeta only [s3]
    refine .app ?_ (setMode_stays ..) (by decide)
    refine .app ?_ (modPower_stays ..) (by decide)
    exact h_s2
  clear_value s3
  have h_s4 : Stays (allBut [.time, .rwlShadow, .bus, .leaks, .consumed, .otp, .chip, .smbus]) s s4 := by
    dsimp -zeta only [s4]
    refine .ite ?_ ?_
    · refine .app ?_ (modeResult_stays ..) (by decide)
      refine .app ?_ (modPower_stays ..) (by decide)
      exact h_s3
    · exact h_s3
  clear_value s4
  refine .app ?_ (transitionOver_stays ..) (by decide)
  exact h_s4

theorem entryStage_stays (l : Nat) (n : Nat) (s : State) :
    ∀ r, (entryStage l n s) = some r → Stays [.regs, .seen, .fabric, .crit, .stopped, .keel, .rigger, .hda, .rudders, .tunes, .oars, .sweep, .mem, .checks, .drams, .boat, .crew, .power, .safe] s r.2 := by
  intro r hr
  unfold entryStage at hr
  split at hr
  · rename_i e
    split at hr
    · rename_i e1
      cases hr
      refine .pair ?_
      exact .refl ..
    · rename_i e1
      cases hr
  · rename_i e
    split at hr
    · rename_i e1
      split at hr
      · rename_i e2
        cases hr
        refine .pair ?_
        exact .refl ..
      · rename_i e2
        cases hr
    · rename_i e1
      split at hr
      · rename_i e2
        split at hr
        · rename_i e3
          cases hr
          refine .pair ?_
          exact .refl ..
        · rename_i e3
          cases hr
      · rename_i e2
        split at hr
        · rename_i e3
          cases hr
          refine .pair ?_
          refine .app ?_ (unloadAll_stays ..) (by decide)
          exact .refl ..
        · rename_i e3
          split at hr
          · rename_i e4
            split at hr
            · rename_i e5
              cases hr
              refine .pair ?_
              exact .refl ..
            · rename_i e5
              cases hr
          · rename_i e4
            split at hr
            · rename_i e5
              split at hr
              · rename_i e6
                cases hr
                refine .pair ?_
                refine .app ?_ (spdTargetEffect_stays ..) (by decide)
                refine .app ?_ (saveTarget_stays ..) (by decide)
                exact .refl ..
              · rename_i e6
                cases hr
                refine .pair ?_
                refine .ite ?_ ?_
                · refine .app ?_ (modCrew_stays ..) (by decide)
                  exact .refl ..
                · exact .refl ..
            · rename_i e5
              split at hr
              · rename_i e6
                split at hr
                · rename_i e7
                  cases hr
                · rename_i e7
                  cases hr
                  refine .pair ?_
                  refine .app ?_ (startDump_stays ..) (by decide)
                  exact .refl ..
              · rename_i e6
                split at hr
                · rename_i e7
                  split at hr
                  · rename_i e8
                    cases hr
                  · rename_i e8
                    cases hr
                    refine .pair ?_
                    refine .app ?_ (keelHalts_stays ..) (by decide)
                    refine .app ?_ (saveTarget_stays ..) (by decide)
                    exact .refl ..
                · rename_i e7
                  split at hr
                  · rename_i e8
                    cases hr
                    refine .pair ?_
                    refine .app ?_ (srWanted_stays ..) (by decide)
                    refine .app ?_ (srWanted_stays ..) (by decide)
                    refine .app ?_ (saveContext_stays ..) (by decide)
                    exact .refl ..
                  · rename_i e8
                    cases hr

theorem beginExit_stays (s : State) :
    Stays [.regs, .seen, .clocks, .fabric, .targets, .stopped, .free, .ucode, .drams, .power] s (beginExit s) := by
  unfold beginExit
  extract_lets -underBinder -merge -useContext +onlyGivenNames reached l off bare s1 s2 s3 s4
  have h_s1 : Stays [.regs, .seen, .clocks, .fabric, .targets, .stopped, .free, .ucode, .drams, .power] s s1 := by
    dsimp -zeta only [s1]
    refine .app ?_ (modPower_stays ..) (by decide)
    exact .refl ..
  clear_value s1
  have h_s2 : Stays [.regs, .seen, .clocks, .fabric, .targets, .stopped, .free, .ucode, .drams, .power] s s2 := by
    dsimp -zeta only [s2]
    refine .app ?_ (switchOnAll_stays ..) (by decide)
    refine .app ?_ (setTransition_stays ..) (by decide)
    exact h_s1
  clear_value s2
  have h_s3 : Stays [.regs, .seen, .clocks, .fabric, .targets, .stopped, .free, .ucode, .drams, .power] s s3 := by
    dsimp -zeta only [s3]
    refine .ite ?_ ?_
    · refine .foldl _ _ (fun u x hu => ?_) ?_
      · refine .app ?_ (State.setBit_stays ..) (by decide)
        exact hu
      · exact h_s2
    · exact h_s2
  clear_value s3
  have h_s4 : Stays [.regs, .seen, .clocks, .fabric, .targets, .stopped, .free, .ucode, .drams, .power] s s4 := by
    dsimp -zeta only [s4]
    refine .ite ?_ ?_
    · refine .app ?_ (srWanted_stays ..) (by decide)
      refine .app ?_ (srWanted_stays ..) (by decide)
      exact h_s3
    · exact h_s3
  clear_value s4
  refine .ite ?_ ?_
  · refine .foldl _ _ (fun u x hu => ?_) ?_
    · refine .app ?_ (loadSkipped_stays ..) (by decide)
      exact hu
    · exact h_s4
  · exact h_s4

theorem advanceEntry_stays (a : Nat) (a1 : State) :
    Stays (allBut [.time, .rwlShadow, .bus, .leaks, .consumed, .otp, .chip, .smbus]) a1 (advanceEntry a a1) := by
  induction a generalizing a1 with
  | zero =>
    unfold advanceEntry
    exact .refl ..
  | succ n ih =>
    unfold advanceEntry
    split
    · rename_i x1 e
      exact .refl ..
    · rename_i x1 l1 n1 e
      refine .ite ?_ ?_
      · refine .app ?_ (beginExit_stays ..) (by decide)
        refine .ite ?_ ?_
        · refine .app ?_ (modeResult_stays ..) (by decide)
          refine .app ?_ (modPower_stays ..) (by decide)
          exact .refl ..
        · exact .refl ..
      · refine .ite ?_ ?_
        · refine .app ?_ (finishEntry_stays ..) (by decide)
          exact .refl ..
        · split
          · rename_i x2 e1
            exact .refl ..
          · rename_i x2 m1 t1 e1
            refine .app ?_ (ih ..) (by decide)
            refine .app ?_ (modPower_stays ..) (by decide)
            refine .app ?_ (entryStage_stays _ _ _ _ e1) (by decide)
            exact .refl ..

theorem issueLoads_stays (s : State) (a : Nat) :
    Stays [.regs, .seen, .fabric, .rudders, .oars] s (issueLoads s a) := by
  unfold issueLoads
  split
  · rename_i x1 e
    exact .refl ..
  · rename_i x1 fst1 c1 z1 r1 e
    extract_lets -underBinder -merge -useContext +onlyGivenNames s1 s2
    have h_s1 : Stays [.regs, .seen, .fabric, .rudders, .oars] s s1 := by
      dsimp -zeta only [s1]
      refine .ite ?_ ?_
      · refine .app ?_ (coefCtrlEffect_stays ..) (by decide)
        exact .refl ..
      · exact .refl ..
    clear_value s1
    have h_s2 : Stays [.regs, .seen, .fabric, .rudders, .oars] s s2 := by
      dsimp -zeta only [s2]
      refine .ite ?_ ?_
      · refine .app ?_ (modOar_stays ..) (by decide)
        refine .app ?_ (State.setBit_stays ..) (by decide)
        refine .app ?_ (State.setBit_stays ..) (by decide)
        exact h_s1
      · exact h_s1
    clear_value s2
    refine .ite ?_ ?_
    · refine .app ?_ (modOar_stays ..) (by decide)
      refine .app ?_ (State.setReg_stays ..) (by decide)
      refine .app ?_ (State.setBit_stays ..) (by decide)
      exact h_s2
    · exact h_s2

theorem afterLoads_stays (s : State) (a : Nat) :
    Stays [.regs, .seen, .fabric, .stopped, .rudders, .power] s (afterLoads s a) := by
  unfold afterLoads
  split
  · rename_i x1 e
    exact .refl ..
  · rename_i x1 fst1 c1 z1 r1 e
    extract_lets -underBinder -merge -useContext +onlyGivenNames bad
    refine .ite ?_ ?_
    · refine .app ?_ (loadSkipped_stays ..) (by decide)
      exact .refl ..
    · refine .ite ?_ ?_
      · refine .app ?_ (coefCtrlEffect_stays ..) (by decide)
        exact .refl ..
      · exact .refl ..

theorem restoreGate_stays (s : State) (a : Nat) :
    Stays [.regs, .seen, .fabric, .stopped, .checks, .boat, .power] s (restoreGate s a) := by
  unfold restoreGate
  extract_lets -underBinder -merge -useContext +onlyGivenNames r
  have h_r : Stays [.regs, .seen, .fabric, .stopped, .checks, .boat, .power] s r.2.2 := by
    dsimp -zeta only [r]
    refine .app ?_ (fetchBytes_stays ..) (by decide)
    exact .refl ..
  clear_value r
  refine .ite ?_ ?_
  · refine .app ?_ (State.setReg_stays ..) (by decide)
    exact h_r
  · refine .app ?_ (loadSkipped_stays ..) (by decide)
    exact h_r

theorem loadHead_stays (s : State) (a : Nat) :
    Stays [.regs, .seen, .fabric, .stopped, .rigger, .pres, .hda, .rudders, .tunes, .oars, .mem, .checks, .boat, .power] s (loadHead s a) := by
  unfold loadHead
  extract_lets -underBinder -merge -useContext +onlyGivenNames h s1
  have h_s1 : Stays [.regs, .seen, .fabric, .stopped, .rigger, .pres, .hda, .rudders, .tunes, .oars, .mem, .checks, .boat, .power] s s1 := by
    dsimp -zeta only [s1]
    refine .app ?_ (rudCmdEffect_stays ..) (by decide)
    exact .refl ..
  clear_value s1
  refine .ite ?_ ?_
  · exact .refl ..
  · refine .ite ?_ ?_
    · refine .app ?_ (loadSkipped_stays ..) (by decide)
      exact .refl ..
    · refine .ite ?_ ?_
      · refine .app ?_ (loadSkipped_stays ..) (by decide)
        exact .refl ..
      · refine .ite ?_ ?_
        · exact .refl ..
        · refine .ite ?_ ?_
          · refine .app ?_ (modPower_stays ..) (by decide)
            exact h_s1
          · refine .app ?_ (loadSkipped_stays ..) (by decide)
            exact h_s1

theorem finishExit_stays (trigger : Nat) (s : State) :
    Stays [.regs, .seen, .clocks, .fabric, .targets, .crit, .queues, .ended, .stopped, .free, .safePending, .ucode, .returned, .mem, .checks, .boat, .slip, .power, .cryptos] s (finishExit trigger s) := by
  unfold finishExit
  extract_lets -underBinder -merge -useContext +onlyGivenNames l us k t s1 s2 s3
  have h_t : Stays [.regs, .seen, .clocks, .fabric, .targets, .crit, .queues, .ended, .stopped, .free, .safePending, .ucode, .returned, .mem, .checks, .boat, .slip, .power, .cryptos] s t := by
    dsimp -zeta only [t]
    refine .ite ?_ ?_
    · refine .app ?_ (State.setReg_stays ..) (by decide)
      exact .refl ..
    · exact .refl ..
  clear_value t
  have h_s1 : Stays [.regs, .seen, .clocks, .fabric, .targets, .crit, .queues, .ended, .stopped, .free, .safePending, .ucode, .returned, .mem, .checks, .boat, .slip, .power, .cryptos] s s1 := by
    dsimp -zeta only [s1]
    refine .ite ?_ ?_
    · exact .refl ..
    · refine .ite ?_ ?_
      · refine .app ?_ (raise_stays ..) (by decide)
        exact h_t
      · exact h_t
  clear_value s1
  have h_s2 : Stays [.regs, .seen, .clocks, .fabric, .targets, .crit, .queues, .ended, .stopped, .free, .safePending, .ucode, .returned, .mem, .checks, .boat, .slip, .power, .cryptos] s s2 := by
    dsimp -zeta only [s2]
    refine .app ?_ (setMode_stays ..) (by decide)
    refine .app ?_ (modPower_stays ..) (by decide)
    exact h_s1
  clear_value s2
  have h_s3 : Stays [.regs, .seen, .clocks, .fabric, .targets, .crit, .queues, .ended, .stopped, .free, .safePending, .ucode, .returned, .mem, .checks, .boat, .slip, .power, .cryptos] s s3 := by
    dsimp -zeta only [s3]
    refine .ite ?_ ?_
    · refine .app ?_ (modeResult_stays ..) (by decide)
      exact h_s2
    · exact h_s2
  clear_value s3
  refine .app ?_ (hostDrain_stays ..) (by decide)
  refine .app ?_ (transitionOver_stays ..) (by decide)
  exact h_s3

theorem exitStage_stays (chopMa : Nat) (l : Nat) (n : Nat) (s : State) :
    ∀ r, (exitStage chopMa l n s) = some r → Stays [.regs, .seen, .fabric, .crit, .stopped, .keel, .rigger, .safePending, .pres, .hda, .rudders, .tunes, .oars, .sweep, .mem, .checks, .boat, .crew, .power, .safe] s r.2 := by
  intro r hr
  unfold exitStage at hr
  extract_lets -underBinder -merge -useContext +onlyGivenNames cs s1 s2 back s1_1 s2_1 s1_2 bad s1_3 at hr
  have h_s1 : Stays [.regs, .seen, .fabric, .crit, .stopped, .keel, .rigger, .safePending, .pres, .hda, .rudders, .tunes, .oars, .sweep, .mem, .checks, .boat, .crew, .power, .safe] s s1 := by
    dsimp -zeta only [s1]
    refine .foldl _ _ (fun u x hu => ?_) ?_
    · refine .app ?_ (restoreCtxPage_stays ..) (by decide)
      exact hu
    · exact .refl ..
  clear_value s1
  have h_s2 : Stays [.regs, .seen, .fabric, .crit, .stopped, .keel, .rigger, .safePending, .pres, .hda, .rudders, .tunes, .oars, .sweep, .mem, .checks, .boat, .crew, .power, .safe] s s2 := by
    dsimp -zeta only [s2]
    refine .app ?_ (spdTargetEffect_stays ..) (by decide)
    exact h_s1
  clear_value s2
  have h_s1_1 : Stays [.regs, .seen, .fabric, .crit, .stopped, .keel, .rigger, .safePending, .pres, .hda, .rudders, .tunes, .oars, .sweep, .mem, .checks, .boat, .crew, .power, .safe] s s1_1 := by
    dsimp -zeta only [s1_1]
    split
    · rename_i x1 a1 h1 e
      refine .ite ?_ ?_
      · refine .app ?_ (releaseArea_stays ..) (by decide)
        exact .refl ..
      · exact .refl ..
    · rename_i x1 e
      exact .refl ..
  clear_value s1_1
  have h_s2_1 : Stays [.regs, .seen, .fabric, .crit, .stopped, .keel, .rigger, .safePending, .pres, .hda, .rudders, .tunes, .oars, .sweep, .mem, .checks, .boat, .crew, .power, .safe] s s2_1 := by
    dsimp -zeta only [s2_1]
    refine .ite ?_ ?_
    · refine .app ?_ (modCrew_stays ..) (by decide)
      refine .app ?_ (State.setCritFld_stays ..) (by decide)
      exact h_s1_1
    · exact h_s1_1
  clear_value s2_1
  have h_s1_2 : Stays [.regs, .seen, .fabric, .crit, .stopped, .keel, .rigger, .safePending, .pres, .hda, .rudders, .tunes, .oars, .sweep, .mem, .checks, .boat, .crew, .power, .safe] s s1_2 := by
    dsimp -zeta only [s1_2]
    refine .foldl _ _ (fun u x hu => ?_) ?_
    · refine .app ?_ (restoreGate_stays ..) (by decide)
      exact hu
    · exact .refl ..
  clear_value s1_2
  have h_s1_3 : Stays [.regs, .seen, .fabric, .crit, .stopped, .keel, .rigger, .safePending, .pres, .hda, .rudders, .tunes, .oars, .sweep, .mem, .checks, .boat, .crew, .power, .safe] s s1_3 := by
    dsimp -zeta only [s1_3]
    refine .foldl _ _ (fun u x hu => ?_) ?_
    · refine .app ?_ (loadSkipped_stays ..) (by decide)
      exact hu
    · exact .refl ..
  clear_value s1_3
  split at hr
  · rename_i e
    split at hr
    · rename_i e1
      cases hr
    · rename_i e1
      split at hr
      · rename_i e2
        cases hr
        refine .pair ?_
        exact h_s1
      · rename_i e2
        cases hr
        refine .pair ?_
        refine .ite ?_ ?_
        · exact h_s2
        · refine .app ?_ (keelRunEffect_stays ..) (by decide)
          exact h_s2
  · rename_i e
    split at hr
    · rename_i e1
      split at hr
      · rename_i e2
        cases hr
      · rename_i e2
        cases hr
        refine .pair ?_
        refine .foldl _ _ (fun u x hu => ?_) ?_
        · refine .app ?_ (issueLoads_stays ..) (by decide)
          exact hu
        · exact h_s2_1
    · rename_i e1
      split at hr
      · rename_i e2
        split at hr
        · rename_i e3
          cases hr
        · rename_i e3
          cases hr
          refine .pair ?_
          refine .foldl _ _ (fun u x hu => ?_) ?_
          · refine .app ?_ (afterLoads_stays ..) (by decide)
            exact hu
          · exact .refl ..
      · rename_i e2
        split at hr
        · rename_i e3
          split at hr
          · rename_i e4
            cases hr
          · rename_i e4
            cases hr
            refine .pair ?_
            refine .foldl _ _ (fun u x hu => ?_) ?_
            · refine .app ?_ (loadHead_stays ..) (by decide)
              exact hu
            · exact h_s1_2
        · rename_i e3
          split at hr
          · rename_i e4
            cases hr
            refine .pair ?_
            exact h_s1_3
          · rename_i e4
            cases hr

theorem advanceExit_stays (chopMa : Nat) (a : Nat) (a1 : State) :
    Stays [.regs, .seen, .clocks, .fabric, .targets, .crit, .queues, .ended, .stopped, .keel, .rigger, .free, .safePending, .pres, .hda, .rudders, .tunes, .oars, .sweep, .ucode, .returned, .mem, .checks, .boat, .crew, .slip, .power, .safe, .cryptos] a1 (advanceExit chopMa a a1) := by
  induction a generalizing chopMa a1 with
  | zero =>
    unfold advanceExit
    exact .refl ..
  | succ n ih =>
    unfold advanceExit
    split
    · rename_i x1 e
      exact .refl ..
    · rename_i x1 l1 t1 n1 e
      refine .ite ?_ ?_
      · refine .app ?_ (finishExit_stays ..) (by decide)
        exact .refl ..
      · split
        · rename_i x2 e1
          exact .refl ..
        · rename_i x2 m1 t2 e1
          refine .app ?_ (ih ..) (by decide)
          refine .app ?_ (modPower_stays ..) (by decide)
          refine .app ?_ (exitStage_stays _ _ _ _ _ e1) (by decide)
          exact .refl ..

theorem abandonLevels_stays (s : State) :
    Stays [.regs, .power] s (abandonLevels s) := by
  unfold abandonLevels
  refine .app ?_ (setTransition_stays ..) (by decide)
  refine .app ?_ (modPower_stays ..) (by decide)
  exact .refl ..

theorem safePark_stays (s : State) :
    Stays (allBut [.time, .rwlShadow, .bus, .leaks, .consumed, .otp, .chip, .smbus]) s (safePark s) := by
  unfold safePark
  extract_lets -underBinder -merge -useContext +onlyGivenNames s1
  have h_s1 : Stays (allBut [.time, .rwlShadow, .bus, .leaks, .consumed, .otp, .chip, .smbus]) s s1 := by
    dsimp -zeta only [s1]
    refine .app ?_ (modPower_stays ..) (by decide)
    exact .refl ..
  clear_value s1
  refine .app ?_ (parkedOff_stays ..) (by decide)
  refine .foldl _ _ (fun u x hu => ?_) ?_
  · refine .ite ?_ ?_
    · refine .app ?_ (retract_stays ..) (by decide)
      exact hu
    · exact hu
  · exact h_s1

theorem safeWrites_stays (s : State) :
    Stays [.slip] s (safeWrites s) := by
  unfold safeWrites
  extract_lets -underBinder -merge -useContext +onlyGivenNames ts
  refine .foldl _ _ (fun u x hu => ?_) ?_
  · refine .app ?_ (modTask_stays ..) (by decide)
    refine .app ?_ (giveAnswer_stays ..) (by decide)
    exact hu
  · exact .refl ..

theorem enterSafe_stays (source : Nat) (s : State) :
    Stays (allBut [.time, .rwlShadow, .bus, .leaks, .consumed, .otp, .chip, .smbus]) s (enterSafe source s) := by
  unfold enterSafe
  extract_lets -underBinder -merge -useContext +onlyGivenNames moving ro s1 s2 s3 s4
  have h_s1 : Stays (allBut [.time, .rwlShadow, .bus, .leaks, .consumed, .otp, .chip, .smbus]) s s1 := by
    dsimp -zeta only [s1]
    refine .app ?_ (setMode_stays ..) (by decide)
    refine .app ?_ (modPower_stays ..) (by decide)
    refine .app ?_ (abandonLevels_stays ..) (by decide)
    exact .refl ..
  clear_value s1
  have h_s2 : Stays (allBut [.time, .rwlShadow, .bus, .leaks, .consumed, .otp, .chip, .smbus]) s s2 := by
    dsimp -zeta only [s2]
    refine .app ?_ (raise_stays ..) (by decide)
    exact h_s1
  clear_value s2
  have h_s3 : Stays (allBut [.time, .rwlShadow, .bus, .leaks, .consumed, .otp, .chip, .smbus]) s s3 := by
    dsimp -zeta only [s3]
    refine .app ?_ (hostDrain_stays ..) (by decide)
    refine .app ?_ (safeWrites_stays ..) (by decide)
    exact h_s2
  clear_value s3
  have h_s4 : Stays (allBut [.time, .rwlShadow, .bus, .leaks, .consumed, .otp, .chip, .smbus]) s s4 := by
    dsimp -zeta only [s4]
    refine .ite ?_ ?_
    · refine .app ?_ (startDump_stays ..) (by decide)
      exact h_s3
    · exact h_s3
  clear_value s4
  refine .ite ?_ ?_
  · refine .ite ?_ ?_
    · refine .app ?_ (safePark_stays ..) (by decide)
      exact .refl ..
    · exact .refl ..
  · refine .ite ?_ ?_
    · exact h_s4
    · refine .app ?_ (safePark_stays ..) (by decide)
      exact h_s4

end Sys2Proof.Machine
end

