-- ==== Sys2Proof/Laws/StaysBoot.lean ====
section
/-! SUPPORT. What the operations and meanings of Machine/Boot do at most. -/

set_option linter.all false
set_option maxRecDepth 4000

namespace Sys2Proof.Machine

theorem execPowerOn_stays (goodMs : Nat) (boot : BootInputs) (s : State) :
    Answers (allBut []) s (execPowerOn goodMs boot s) := by
  unfold execPowerOn
  refine .next ?_
  refine .when _ _ (fun u hu => ?_) ?_
  · refine .app ?_ (bootChain_stays ..) (by decide)
    refine .app ?_ (setIsolation_stays ..) (by decide)
    refine .app ?_ (powerRelease_stays ..) (by decide)
    exact hu
  · exact .refl ..

theorem execRailStartFail_stays (vrail : Nat) (percent : Nat) (s : State) :
    Answers (allBut []) s (execRailStartFail vrail percent s) := by
  unfold execRailStartFail
  refine .next ?_
  refine .when _ _ (fun u hu => ?_) ?_
  · refine .app ?_ (powerOff_stays ..) (by decide)
    exact hu
  · exact .refl ..

theorem execRailLow_stays (vrail : Nat) (lowNs : Nat) (s : State) :
    Answers (allBut []) s (execRailLow vrail lowNs s) := by
  unfold execRailLow
  refine .next ?_
  refine .when _ _ (fun u hu => ?_) ?_
  · refine .app ?_ (powerOff_stays ..) (by decide)
    exact hu
  · exact .refl ..

theorem execRefclkLoss_stays (quietNs : Nat) (s : State) :
    Answers (allBut []) s (execRefclkLoss quietNs s) := by
  unfold execRefclkLoss
  refine .next ?_
  refine .when _ _ (fun u hu => ?_) ?_
  · refine .app ?_ (powerOff_stays ..) (by decide)
    exact hu
  · exact .refl ..

theorem execRailReturn_stays (boot : BootInputs) (s : State) :
    Answers (allBut []) s (execRailReturn boot s) := by
  unfold execRailReturn
  refine .next ?_
  refine .when _ _ (fun u hu => ?_) ?_
  · refine .app ?_ (bootChain_stays ..) (by decide)
    refine .app ?_ (powerRelease_stays ..) (by decide)
    exact hu
  · exact .refl ..

theorem execRefclkReturn_stays (boot : BootInputs) (s : State) :
    Answers (allBut []) s (execRefclkReturn boot s) := by
  unfold execRefclkReturn
  refine .next ?_
  refine .when _ _ (fun u hu => ?_) ?_
  · refine .app ?_ (bootChain_stays ..) (by decide)
    refine .app ?_ (powerRelease_stays ..) (by decide)
    exact hu
  · exact .refl ..

theorem execBusCollapse_stays (busMv : Nat) (s : State) :
    Answers (allBut []) s (execBusCollapse busMv s) := by
  unfold execBusCollapse
  refine .next ?_
  refine .when _ _ (fun u hu => ?_) ?_
  · refine .app ?_ (powerOff_stays ..) (by decide)
    exact hu
  · exact .refl ..

theorem execPowerReturn_stays (v12 : Nat) (v5 : Nat) (goodMs : Nat) (disable : Bool) (boot : BootInputs) (s : State) :
    Answers (allBut []) s (execPowerReturn v12 v5 goodMs disable boot s) := by
  unfold execPowerReturn
  refine .next ?_
  refine .when _ _ (fun u hu => ?_) ?_
  · refine .app ?_ (bootChain_stays ..) (by decide)
    refine .app ?_ (setIsolation_stays ..) (by decide)
    refine .app ?_ (powerRelease_stays ..) (by decide)
    exact hu
  · exact .refl ..

theorem resetAndBoot_stays (cause : Nat) (requester : Nat) (forced : Bool) (boot : BootInputs) (s : State) :
    Stays (allBut []) s (resetAndBoot cause requester forced boot s) := by
  unfold resetAndBoot
  refine .app ?_ (bootChain_stays ..) (by decide)
  refine .app ?_ (deviceReset_stays ..) (by decide)
  exact .refl ..

theorem devResetEffect_stays (req : Requester) (v : Word) (boot : BootInputs) (s : State) :
    Stays (allBut []) s (devResetEffect req v boot s) := by
  unfold devResetEffect
  refine .ite ?_ ?_
  · exact .refl ..
  · refine .ite ?_ ?_
    · refine .app ?_ (raise_stays ..) (by decide)
      exact .refl ..
    · refine .ite ?_ ?_
      · refine .app ?_ (raise_stays ..) (by decide)
        exact .refl ..
      · refine .ite ?_ ?_
        · refine .app ?_ (raise_stays ..) (by decide)
          exact .refl ..
        · refine .app ?_ (resetAndBoot_stays ..) (by decide)
          exact .refl ..

theorem execDevReset_stays (req : Requester) (v : Word) (boot : BootInputs) (s : State) :
    Answers (allBut []) s (execDevReset req v boot s) := by
  unfold execDevReset
  refine .next ?_
  refine withWriteOut_stays _ _ _ _ _ _ ?_ (by decide) ?_
  · intro u hu
    refine .app ?_ (devResetEffect_stays ..) (by decide)
    exact hu
  · exact .refl ..

theorem execResetN_stays (lowNs : Nat) (boot : BootInputs) (s : State) :
    Answers (allBut []) s (execResetN lowNs boot s) := by
  unfold execResetN
  refine .next ?_
  refine .when _ _ (fun u hu => ?_) ?_
  · refine .ite ?_ ?_
    · refine .app ?_ (resetAndBoot_stays ..) (by decide)
      exact hu
    · refine .ite ?_ ?_
      · refine .app ?_ (resetAndBoot_stays ..) (by decide)
        refine .app ?_ (State.useFree_stays ..) (by decide)
        exact hu
      · refine .app ?_ (State.useFree_stays ..) (by decide)
        exact hu
  · exact .refl ..

theorem execUartContainer_stays (bytes : List Byte) (s : State) :
    Answers [.regs, .seen, .fabric, .crit, .stopped, .mem, .drams, .keys, .chip] s (execUartContainer bytes s) := by
  unfold execUartContainer
  refine .next ?_
  refine .when _ _ (fun u hu => ?_) ?_
  · extract_lets -underBinder -merge -useContext +onlyGivenNames code vsrc s1 vsrc_1
    have h_s1 : Stays [.regs, .seen, .fabric, .crit, .stopped, .mem, .drams, .keys, .chip] s s1 := by
      dsimp -zeta only [s1]
      refine .app ?_ (.set_chip _ _) (by decide)
      exact hu
    clear_value s1
    refine .ite ?_ ?_
    · refine .app ?_ (handOff_stays ..) (by decide)
      exact h_s1
    · refine .app ?_ (.set_chip _ _) (by decide)
      exact hu
  · exact .refl ..

theorem softResetEffect_stays (p : Nat) (v : Word) (s : State) :
    Stays (allBut [.time, .rwlShadow, .bus, .clocks, .leaks, .consumed, .otp, .smbus]) s (softResetEffect p v s) := by
  unfold softResetEffect
  extract_lets -underBinder -merge -useContext +onlyGivenNames old s0x left s1 s2
  have h_s0x : Stays (allBut [.time, .rwlShadow, .bus, .clocks, .leaks, .consumed, .otp, .smbus]) s s0x := by
    dsimp -zeta only [s0x]
    refine .app ?_ (blockEnd_stays ..) (by decide)
    exact .refl ..
  clear_value s0x
  have h_s1 : Stays (allBut [.time, .rwlShadow, .bus, .clocks, .leaks, .consumed, .otp, .smbus]) s s1 := by
    dsimp -zeta only [s1]
    refine .app ?_ (startRestore_stays ..) (by decide)
    refine .app ?_ (blockReset_stays ..) (by decide)
    refine .app ?_ (clearCheck_stays ..) (by decide)
    exact h_s0x
  clear_value s1
  have h_s2 : Stays (allBut [.time, .rwlShadow, .bus, .clocks, .leaks, .consumed, .otp, .smbus]) s s2 := by
    dsimp -zeta only [s2]
    refine .app ?_ (State.setReg_stays ..) (by decide)
    exact h_s1
  clear_value s2
  refine .ite ?_ ?_
  · exact .refl ..
  · refine .ite ?_ ?_
    · refine .app ?_ (wbReview_stays ..) (by decide)
      refine .app ?_ (showHealth_stays ..) (by decide)
      exact h_s2
    · refine .ite ?_ ?_
      · refine .app ?_ (modCache_stays ..) (by decide)
        exact h_s2
      · refine .ite ?_ ?_
        · refine .app ?_ (State.setFld_stays ..) (by decide)
          exact h_s2
        · exact h_s2

theorem execSoftReset_stays (req : Requester) (page : Nat) (v : Word) (s : State) :
    Answers (allBut [.time, .rwlShadow, .clocks, .leaks, .consumed, .otp, .smbus]) s (execSoftReset req page v s) := by
  unfold execSoftReset
  refine .next ?_
  refine .when _ _ (fun u hu => ?_) ?_
  · refine withWrite_stays _ _ _ _ _ ?_ (by decide) ?_
    · intro u1 hu1
      refine .app ?_ (softResetEffect_stays ..) (by decide)
      exact hu1
    · exact hu
  · exact .refl ..

theorem execSoftResetDone_stays (page : Nat) (s : State) :
    Answers [.regs, .mem, .checks, .cache] s (execSoftResetDone page s) := by
  unfold execSoftResetDone
  refine .next ?_
  refine .when _ _ (fun u hu => ?_) ?_
  · extract_lets -underBinder -merge -useContext +onlyGivenNames s1
    have h_s1 : Stays [.regs, .mem, .checks, .cache] s s1 := by
      dsimp -zeta only [s1]
      refine .ite ?_ ?_
      · refine .app ?_ (cacheReset_stays ..) (by decide)
        exact hu
      · exact hu
    clear_value s1
    refine .ite ?_ ?_
    · exact h_s1
    · refine .app ?_ (State.setReg_stays ..) (by decide)
      exact h_s1
  · exact .refl ..

theorem execMicrocodeFault_stays (engine : Nat) (addr : Nat) (x : MicroFetch) (s : State) :
    Answers (allBut [.time, .rwlShadow, .bus, .clocks, .strokes, .targets, .leaks, .couple, .consumed, .drams, .scrub, .power, .otp, .dbg, .smbus]) s (execMicrocodeFault engine addr x s) := by
  unfold execMicrocodeFault
  refine .next ?_
  refine .when _ _ (fun u hu => ?_) ?_
  · split
    · rename_i x1 c1 e
      refine .app ?_ (engineCheck_stays ..) (by decide)
      exact hu
    · rename_i x1 e
      refine .app ?_ (microRun_stays ..) (by decide)
      exact hu
  · exact .refl ..

theorem execPollTimeout_stays (engine : Nat) (vaddr : Nat) (s : State) :
    Answers [.regs, .seen, .fabric, .crit, .queues, .ended, .stopped, .keel, .rigger, .free, .safePending, .pres, .hda, .cal, .rudders, .tunes, .oars, .sweep, .gates, .returned, .mem, .checks, .boat, .cache, .crew, .slip, .safe, .keys, .cryptos, .chip, .ump] s (execPollTimeout engine vaddr s) := by
  unfold execPollTimeout
  refine .next ?_
  refine .when _ _ (fun u hu => ?_) ?_
  · refine .app ?_ (engineCheck_stays ..) (by decide)
    exact hu
  · exact .refl ..

end Sys2Proof.Machine
end

