-- ==== Sys2Proof/Laws/StaysCacheMem.lean ====
section
/-! SUPPORT. What the operations and meanings of Machine/CacheMem do at most. -/

set_option linter.all false
set_option maxRecDepth 4000

namespace Sys2Proof.Machine

theorem loadFault_stays (cause : Nat) (req : Requester) (a : Addr) (s : State) :
    Stays [.regs, .bus, .seen, .fabric, .stopped] s (loadFault cause req a s) := by
  unfold loadFault
  split
  · rename_i req1 n1
    extract_lets -underBinder -merge -useContext +onlyGivenNames pl s1
    have h_s1 : Stays [.regs, .bus, .seen, .fabric, .stopped] s s1 := by
      dsimp -zeta only [s1]
      refine .app ?_ (State.setReg_stays ..) (by decide)
      refine .app ?_ (State.setReg_stays ..) (by decide)
      exact .refl ..
    clear_value s1
    refine .app ?_ (busError_stays ..) (by decide)
    refine .ite ?_ ?_
    · refine .app ?_ (raise_stays ..) (by decide)
      exact h_s1
    · refine .app ?_ (lasting_stays ..) (by decide)
      exact h_s1
  · rename_i req1 e
    refine .app ?_ (busError_stays ..) (by decide)
    exact .refl ..

theorem lineParity_stays (parity : CacheParity) (noise : DramNoise) (k : Nat) (g : Nat) (s : State) :
    Stays [.regs, .seen, .fabric, .crit, .queues, .ended, .stopped, .keel, .rigger, .free, .safePending, .pres, .hda, .cal, .rudders, .tunes, .oars, .sweep, .gates, .returned, .mem, .checks, .boat, .cache, .crew, .slip, .safe, .keys, .cryptos, .chip, .ump] s (lineParity parity noise k g s).1 := by
  unfold lineParity
  split
  · rename_i parity1 x1
    refine .pairFst ?_
    exact .refl ..
  · rename_i parity1 x1
    refine .pairFst ?_
    exact .refl ..
  · rename_i parity1 x1
    refine .pairFst ?_
    exact .refl ..
  · rename_i parity1 x1 again1
    refine .pairFst ?_
    exact .refl ..
  · rename_i parity1 x1
    refine .pairFst ?_
    exact .refl ..
  · rename_i parity1 x1
    refine .pairFst ?_
    exact .refl ..
  · rename_i parity1 x1
    refine .pairFst ?_
    exact .refl ..
  · rename_i parity1 x1
    refine .pairFst ?_
    refine .app ?_ (machineCheck_stays ..) (by decide)
    refine .app ?_ (raise_stays ..) (by decide)
    refine .app ?_ (rangeEnd_stays ..) (by decide)
    exact .refl ..
  · rename_i parity1 x1 x2 e
    extract_lets -underBinder -merge -useContext +onlyGivenNames s1
    have h_s1 : Stays [.regs, .seen, .fabric, .crit, .queues, .ended, .stopped, .keel, .rigger, .free, .safePending, .pres, .hda, .cal, .rudders, .tunes, .oars, .sweep, .gates, .returned, .mem, .checks, .boat, .cache, .crew, .slip, .safe, .keys, .cryptos, .chip, .ump] s s1 := by
      dsimp -zeta only [s1]
      refine .app ?_ (transient_stays ..) (by decide)
      refine .app ?_ (State.count_stays ..) (by decide)
      exact .refl ..
    clear_value s1
    split
    · rename_i e1
      refine .pairFst ?_
      refine .app ?_ (machineCheck_stays ..) (by decide)
      refine .app ?_ (raise_stays ..) (by decide)
      refine .app ?_ (rangeEnd_stays ..) (by decide)
      exact .refl ..
    · rename_i e1
      refine .pairFst ?_
      refine .app ?_ (fillLine_stays ..) (by decide)
      refine .app ?_ (putLine_stays ..) (by decide)
      exact h_s1
  · rename_i parity1 x1 e
    refine .pairFst ?_
    exact .refl ..

theorem accessLine_stays (req : Requester) (write : Bool) (a : Addr) (off : Nat) (n : Nat) (v : BitVec 64) (parity : CacheParity) (noise : DramNoise) (g : Nat) (s : State) :
    Stays (allBut [.time, .rwlShadow, .clocks, .strokes, .targets, .leaks, .couple, .ucode, .consumed, .drams, .scrub, .power, .otp, .dbg, .smbus]) s (accessLine req write a off n v parity noise g s) := by
  unfold accessLine
  extract_lets -underBinder -merge -useContext +onlyGivenNames r p
  have h_r : Stays (allBut [.time, .rwlShadow, .clocks, .strokes, .targets, .leaks, .couple, .ucode, .consumed, .drams, .scrub, .power, .otp, .dbg, .smbus]) s r.2 := by
    dsimp -zeta only [r]
    split
    · rename_i e
      refine .pair ?_
      refine .app ?_ (machineCheck_stays ..) (by decide)
      refine .app ?_ (raise_stays ..) (by decide)
      refine .app ?_ (rangeEnd_stays ..) (by decide)
      exact .refl ..
    · rename_i e
      refine .app ?_ (reachLine_stays ..) (by decide)
      exact .refl ..
  clear_value r
  have h_p : Stays (allBut [.time, .rwlShadow, .clocks, .strokes, .targets, .leaks, .couple, .ucode, .consumed, .drams, .scrub, .power, .otp, .dbg, .smbus]) s p.1 := by
    dsimp -zeta only [p]
    refine .app ?_ (lineParity_stays ..) (by decide)
    exact h_r
  clear_value p
  refine .ite ?_ ?_
  · refine .app ?_ (busError_stays ..) (by decide)
    exact h_r
  · refine .ite ?_ ?_
    · refine .app ?_ (busError_stays ..) (by decide)
      exact h_p
    · refine .ite ?_ ?_
      · refine .app ?_ (busOk_stays ..) (by decide)
        refine .app ?_ (storeLine_stays ..) (by decide)
        exact h_p
      · split
        · rename_i x1 e
          refine .app ?_ (busError_stays ..) (by decide)
          exact h_p
        · rename_i x1 x2 e
          extract_lets -underBinder -merge -useContext +onlyGivenNames d
          refine .ite ?_ ?_
          · refine .app ?_ (loadFault_stays ..) (by decide)
            exact h_p
          · refine .app ?_ (busOk_stays ..) (by decide)
            refine .app ?_ (modCache_stays ..) (by decide)
            exact h_p

theorem loadGives_stays (d : Nat) (s : State) :
    Stays [.bus, .cache] s (loadGives d s) := by
  unfold loadGives
  refine .app ?_ (busOk_stays ..) (by decide)
  refine .app ?_ (modCache_stays ..) (by decide)
  exact .refl ..

theorem accessLines_stays (req : Requester) (write : Bool) (addr : Addr) (n : Nat) (v : BitVec 64) (parity : CacheParity) (noise : DramNoise) (s : State) :
    Stays (allBut [.time, .rwlShadow, .clocks, .strokes, .targets, .leaks, .couple, .ucode, .consumed, .drams, .scrub, .power, .otp, .dbg, .smbus]) s (accessLines req write addr n v parity noise s) := by
  unfold accessLines
  extract_lets -underBinder -merge -useContext +onlyGivenNames off first s1 s2
  have h_s1 : Stays (allBut [.time, .rwlShadow, .clocks, .strokes, .targets, .leaks, .couple, .ucode, .consumed, .drams, .scrub, .power, .otp, .dbg, .smbus]) s s1 := by
    dsimp -zeta only [s1]
    refine .app ?_ (accessLine_stays ..) (by decide)
    exact .refl ..
  clear_value s1
  have h_s2 : Stays (allBut [.time, .rwlShadow, .clocks, .strokes, .targets, .leaks, .couple, .ucode, .consumed, .drams, .scrub, .power, .otp, .dbg, .smbus]) s s2 := by
    dsimp -zeta only [s2]
    refine .app ?_ (accessLine_stays ..) (by decide)
    exact h_s1
  clear_value s2
  refine .ite ?_ ?_
  · exact h_s1
  · refine .ite ?_ ?_
    · exact h_s2
    · refine .app ?_ (loadGives_stays ..) (by decide)
      exact h_s2

theorem l1Mended_stays (req : Requester) (a : Addr) (s : State) :
    Stays [.regs, .seen, .fabric] s (l1Mended req a s) := by
  unfold l1Mended
  split
  · rename_i req1 n1
    refine .app ?_ (transient_stays ..) (by decide)
    refine .app ?_ (State.count_stays ..) (by decide)
    exact .refl ..
  · rename_i req1 e
    exact .refl ..

theorem cacheWindow_stays (fresh : Bool) (req : Requester) (write : Bool) (addr : Addr) (n : Nat) (v : BitVec 64) (parity : CacheParity) (noise : DramNoise) (s : State) :
    Stays (allBut [.time, .rwlShadow, .clocks, .strokes, .targets, .leaks, .couple, .ucode, .consumed, .drams, .scrub, .power, .otp, .dbg, .smbus]) s (cacheWindow fresh req write addr n v parity noise s) := by
  unfold cacheWindow
  extract_lets -underBinder -merge -useContext +onlyGivenNames t
  have h_t : Stays (allBut [.time, .rwlShadow, .clocks, .strokes, .targets, .leaks, .couple, .ucode, .consumed, .drams, .scrub, .power, .otp, .dbg, .smbus]) s t := by
    dsimp -zeta only [t]
    refine .app ?_ (accessLines_stays ..) (by decide)
    refine .app ?_ (strikeAllDram_stays ..) (by decide)
    refine .app ?_ (rangeAdvance_stays ..) (by decide)
    exact .refl ..
  clear_value t
  refine .ite ?_ ?_
  · refine .app ?_ (busError_stays ..) (by decide)
    refine .app ?_ (refuseAccess_stays ..) (by decide)
    exact .refl ..
  · refine .ite ?_ ?_
    · refine .app ?_ (holdAccess_stays ..) (by decide)
      exact .refl ..
    · refine .ite ?_ ?_
      · refine .app ?_ (busError_stays ..) (by decide)
        refine .app ?_ (refuseAccess_stays ..) (by decide)
        exact .refl ..
      · refine .ite ?_ ?_
        · refine .app ?_ (l1Mended_stays ..) (by decide)
          exact h_t
        · exact h_t

theorem sramParity_stays (again : Bool) (req : Requester) (a : Addr) (d : Nat) (s : State) :
    Stays [.regs, .bus, .seen, .fabric, .stopped, .cache] s (sramParity again req a d s) := by
  unfold sramParity
  extract_lets -underBinder -merge -useContext +onlyGivenNames shared
  split
  · rename_i req1 n1
    extract_lets -underBinder -merge -useContext +onlyGivenNames s1
    have h_s1 : Stays [.regs, .bus, .seen, .fabric, .stopped, .cache] s s1 := by
      dsimp -zeta only [s1]
      refine .ite ?_ ?_
      · refine .app ?_ (State.count_stays ..) (by decide)
        exact .refl ..
      · exact .refl ..
    clear_value s1
    refine .ite ?_ ?_
    · refine .app ?_ (loadFault_stays ..) (by decide)
      exact h_s1
    · refine .app ?_ (loadGives_stays ..) (by decide)
      refine .app ?_ (transient_stays ..) (by decide)
      exact h_s1
  · rename_i req1 e
    refine .ite ?_ ?_
    · refine .app ?_ (loadFault_stays ..) (by decide)
      exact .refl ..
    · refine .app ?_ (loadGives_stays ..) (by decide)
      exact .refl ..

theorem sramLoad_stays (req : Requester) (a : Addr) (n : Nat) (parity : CacheParity) (s : State) :
    Stays [.regs, .bus, .seen, .fabric, .stopped, .cache] s (sramLoad req a n parity s) := by
  unfold sramLoad
  extract_lets -underBinder -merge -useContext +onlyGivenNames d
  split
  · rename_i parity1 again1
    refine .app ?_ (sramParity_stays ..) (by decide)
    exact .refl ..
  · rename_i parity1
    refine .app ?_ (loadGives_stays ..) (by decide)
    refine .app ?_ (l1Mended_stays ..) (by decide)
    exact .refl ..
  · rename_i parity1 e e1
    refine .app ?_ (loadGives_stays ..) (by decide)
    exact .refl ..

theorem memArrived_stays (fresh : Bool) (req : Requester) (write : Bool) (addr : Addr) (n : Nat) (v : BitVec 64) (rom : Nat) (parity : CacheParity) (noise : DramNoise) (s : State) :
    Stays (allBut [.time, .rwlShadow, .clocks, .strokes, .targets, .leaks, .couple, .ucode, .consumed, .drams, .scrub, .power, .otp, .dbg, .smbus]) s (memArrived fresh req write addr n v rom parity noise s) := by
  unfold memArrived
  extract_lets -underBinder -merge -useContext +onlyGivenNames a r
  refine .ite ?_ ?_
  · refine .app ?_ (busError_stays ..) (by decide)
    refine .app ?_ (refuseAccess_stays ..) (by decide)
    exact .refl ..
  · refine .ite ?_ ?_
    · refine .app ?_ (busError_stays ..) (by decide)
      refine .app ?_ (refuseAccess_stays ..) (by decide)
      exact .refl ..
    · refine .ite ?_ ?_
      · refine .app ?_ (busError_stays ..) (by decide)
        refine .app ?_ (refuseAccess_stays ..) (by decide)
        exact .refl ..
      · refine .ite ?_ ?_
        · refine .app ?_ (cacheWindow_stays ..) (by decide)
          exact .refl ..
        · refine .ite ?_ ?_
          · refine .app ?_ (busOk_stays ..) (by decide)
            refine .app ?_ (putSram_stays ..) (by decide)
            exact .refl ..
          · refine .ite ?_ ?_
            · refine .app ?_ (loadGives_stays ..) (by decide)
              exact .refl ..
            · refine .app ?_ (sramLoad_stays ..) (by decide)
              exact .refl ..

theorem memAccess_stays (req : Requester) (write : Bool) (addr : Addr) (n : Nat) (v : BitVec 64) (rom : Nat) (parity : CacheParity) (noise : DramNoise) (s : State) :
    Stays (allBut [.time, .rwlShadow, .clocks, .strokes, .targets, .leaks, .couple, .ucode, .consumed, .drams, .scrub, .power, .otp, .dbg, .smbus]) s (memAccess req write addr n v rom parity noise s) := by
  unfold memAccess
  refine .ite ?_ ?_
  · exact .refl ..
  · refine .ite ?_ ?_
    · refine .app ?_ (holdAccess_stays ..) (by decide)
      exact .refl ..
    · refine .app ?_ (memArrived_stays ..) (by decide)
      exact .refl ..

theorem execCacheAccess_stays (req : Requester) (write : Bool) (addr : Addr) (width : AccessWidth) (v : BitVec 64) (parity : CacheParity) (noise : DramNoise) (s : State) :
    Answers (allBut [.time, .rwlShadow, .clocks, .strokes, .targets, .leaks, .couple, .ucode, .consumed, .drams, .scrub, .power, .otp, .dbg, .smbus]) s (execCacheAccess req write addr width v parity noise s) := by
  unfold execCacheAccess
  extract_lets -underBinder -merge -useContext +onlyGivenNames n r
  refine .next ?_
  refine .when _ _ (fun u hu => ?_) ?_
  · refine .ite ?_ ?_
    · refine .app ?_ (memAccess_stays ..) (by decide)
      refine .app ?_ (State.useFree_stays ..) (by decide)
      refine .app ?_ (State.useFree_stays ..) (by decide)
      exact hu
    · refine .app ?_ (memAccess_stays ..) (by decide)
      exact hu
  · exact .refl ..

theorem lockMaskEffect_stays (v : Word) (s : State) :
    Stays [.regs, .seen, .fabric] s (lockMaskEffect v s) := by
  unfold lockMaskEffect
  extract_lets -underBinder -merge -useContext +onlyGivenNames n
  refine .ite ?_ ?_
  · refine .app ?_ (raise_stays ..) (by decide)
    exact .refl ..
  · refine .ite ?_ ?_
    · refine .app ?_ (raise_stays ..) (by decide)
      exact .refl ..
    · refine .app ?_ (State.setReg_stays ..) (by decide)
      exact .refl ..

theorem execLockMaskWrite_stays (req : Requester) (v : Word) (s : State) :
    Answers [.regs, .bus, .seen, .fabric, .stopped] s (execLockMaskWrite req v s) := by
  unfold execLockMaskWrite
  refine .next ?_
  refine withWrite_stays _ _ _ _ _ ?_ (by decide) ?_
  · intro u hu
    refine .app ?_ (lockMaskEffect_stays ..) (by decide)
    exact hu
  · exact .refl ..

theorem rangeStart_stays (op : Nat) (req : Requester) (v : Word) (s : State) :
    Stays [.regs, .bus, .seen, .fabric, .stopped, .mem, .checks, .boat, .cache] s (rangeStart op req v s) := by
  unfold rangeStart
  refine .when _ _ (fun u hu => ?_) ?_
  · refine withWrite_stays _ _ _ _ _ ?_ (by decide) ?_
    · intro u1 hu1
      refine .app ?_ (rangeCtrlEffect_stays ..) (by decide)
      exact hu1
    · exact hu
  · exact .refl ..

theorem execRangeClean_stays (req : Requester) (v : Word) (s : State) :
    Answers [.regs, .bus, .seen, .fabric, .stopped, .mem, .checks, .boat, .cache] s (execRangeClean req v s) := by
  unfold execRangeClean
  refine .next ?_
  refine .app ?_ (rangeStart_stays ..) (by decide)
  exact .refl ..

theorem execRangeInvalidate_stays (req : Requester) (v : Word) (s : State) :
    Answers [.regs, .bus, .seen, .fabric, .stopped, .mem, .checks, .boat, .cache] s (execRangeInvalidate req v s) := by
  unfold execRangeInvalidate
  refine .next ?_
  refine .app ?_ (rangeStart_stays ..) (by decide)
  exact .refl ..

theorem execRangeCleanInvalidate_stays (req : Requester) (v : Word) (s : State) :
    Answers [.regs, .bus, .seen, .fabric, .stopped, .mem, .checks, .boat, .cache] s (execRangeCleanInvalidate req v s) := by
  unfold execRangeCleanInvalidate
  refine .next ?_
  refine .app ?_ (rangeStart_stays ..) (by decide)
  exact .refl ..

theorem execRangeZero_stays (req : Requester) (v : Word) (s : State) :
    Answers [.regs, .bus, .seen, .fabric, .stopped, .mem, .checks, .boat, .cache] s (execRangeZero req v s) := by
  unfold execRangeZero
  refine .next ?_
  refine .app ?_ (rangeStart_stays ..) (by decide)
  exact .refl ..

theorem execRangeLockFill_stays (req : Requester) (v : Word) (s : State) :
    Answers [.regs, .bus, .seen, .fabric, .stopped, .mem, .checks, .boat, .cache] s (execRangeLockFill req v s) := by
  unfold execRangeLockFill
  refine .next ?_
  refine .app ?_ (rangeStart_stays ..) (by decide)
  exact .refl ..

theorem execRangeStop_stays (req : Requester) (v : Word) (s : State) :
    Answers [.regs, .bus, .seen, .fabric, .stopped, .mem, .checks, .boat, .cache] s (execRangeStop req v s) := by
  unfold execRangeStop
  refine .next ?_
  refine .when _ _ (fun u hu => ?_) ?_
  · refine withWrite_stays _ _ _ _ _ ?_ (by decide) ?_
    · intro u1 hu1
      refine .app ?_ (rangeCtrlEffect_stays ..) (by decide)
      exact hu1
    · exact hu
  · exact .refl ..

theorem execRangeDone_stays (parity : RangeParity) (s : State) :
    Answers [.regs, .seen, .fabric, .crit, .queues, .ended, .stopped, .keel, .rigger, .free, .safePending, .pres, .hda, .cal, .rudders, .tunes, .oars, .sweep, .gates, .returned, .mem, .checks, .boat, .cache, .crew, .slip, .safe, .keys, .cryptos, .chip, .ump] s (execRangeDone parity s) := by
  unfold execRangeDone
  refine .next ?_
  refine .when _ _ (fun u hu => ?_) ?_
  · extract_lets -underBinder -merge -useContext +onlyGivenNames s1
    have h_s1 : Stays [.regs, .seen, .fabric, .crit, .queues, .ended, .stopped, .keel, .rigger, .free, .safePending, .pres, .hda, .cal, .rudders, .tunes, .oars, .sweep, .gates, .returned, .mem, .checks, .boat, .cache, .crew, .slip, .safe, .keys, .cryptos, .chip, .ump] s s1 := by
      dsimp -zeta only [s1]
      refine .app ?_ (rangeAdvance_stays ..) (by decide)
      exact hu
    clear_value s1
    split
    · rename_i parity1
      refine .app ?_ (machineCheck_stays ..) (by decide)
      refine .app ?_ (raise_stays ..) (by decide)
      refine .app ?_ (rangeEnd_stays ..) (by decide)
      exact h_s1
    · rename_i parity1
      refine .app ?_ (machineCheck_stays ..) (by decide)
      refine .app ?_ (raise_stays ..) (by decide)
      refine .app ?_ (rangeEnd_stays ..) (by decide)
      exact h_s1
    · rename_i parity1
      refine .ite ?_ ?_
      · refine .app ?_ (rangeEnd_stays ..) (by decide)
        exact h_s1
      · exact h_s1
  · exact .refl ..

end Sys2Proof.Machine
end

