-- ==== Sys2Proof/Laws/StaysKeyOps.lean ====
section
/-! SUPPORT. What the operations and meanings of Machine/KeyOps do at most. -/

set_option linter.all false
set_option maxRecDepth 4000

namespace Sys2Proof.Machine

theorem keyResult_stays (outcome : Nat) (code : Nat) (s : State) :
    Stays [.regs] s (keyResult outcome code s) := by
  unfold keyResult
  refine .app ?_ (State.setReg_stays ..) (by decide)
  exact .refl ..

theorem keyDone_stays (s : State) :
    Stays [.regs] s (keyDone s) := by
  unfold keyDone
  refine .app ?_ (keyResult_stays ..) (by decide)
  exact .refl ..

theorem keyRefuse_stays (code : Nat) (s : State) :
    Stays [.regs, .seen, .fabric] s (keyRefuse code s) := by
  unfold keyRefuse
  refine .app ?_ (raise_stays ..) (by decide)
  refine .app ?_ (keyResult_stays ..) (by decide)
  exact .refl ..

theorem keyRefuseFree_stays (s : State) :
    Stays [.regs, .seen, .fabric, .free] s (keyRefuseFree s) := by
  unfold keyRefuseFree
  refine .app ?_ (keyRefuse_stays ..) (by decide)
  refine .app ?_ (State.useFree_stays ..) (by decide)
  exact .refl ..

theorem windowBytes_stays (a : Nat) (n : Nat) (s : State) :
    Stays [.regs, .seen, .fabric, .stopped, .checks, .boat] s (windowBytes a n s).2 := by
  unfold windowBytes
  extract_lets -underBinder -merge -useContext +onlyGivenNames r
  have h_r : Stays [.regs, .seen, .fabric, .stopped, .checks, .boat] s r.2.2 := by
    dsimp -zeta only [r]
    refine .app ?_ (fetchBytes_stays ..) (by decide)
    exact .refl ..
  clear_value r
  split
  · rename_i e
    refine .pair ?_
    exact h_r
  · rename_i e
    refine .pair ?_
    exact .refl ..

theorem containerAt_stays (a : Nat) (s : State) :
    Stays [.regs, .seen, .fabric, .stopped, .checks, .boat] s (containerAt a s).2 := by
  unfold containerAt
  split
  · rename_i e
    refine .pair ?_
    exact .refl ..
  · rename_i e
    split
    · rename_i x1 h1 t1 e1
      split
      · rename_i e2
        refine .app ?_ (windowBytes_stays ..) (by decide)
        refine .snd e1 ?_
        refine .app ?_ (windowBytes_stays ..) (by decide)
        exact .refl ..
      · rename_i e2
        refine .pair ?_
        refine .snd e1 ?_
        refine .app ?_ (windowBytes_stays ..) (by decide)
        exact .refl ..
    · rename_i x1 t1 e1
      refine .pair ?_
      refine .snd e1 ?_
      refine .app ?_ (windowBytes_stays ..) (by decide)
      exact .refl ..

theorem putSlot_stays (n : Nat) (k : Option (List Byte)) (s : State) :
    Stays [.regs, .seen, .fabric, .keys] s (putSlot n k s) := by
  unfold putSlot
  refine .app ?_ (raise_stays ..) (by decide)
  refine .app ?_ (modKeys_stays ..) (by decide)
  exact .refl ..

theorem clearSlotsAll_stays (s : State) :
    Stays [.regs, .seen, .fabric, .keys] s (clearSlotsAll s) := by
  unfold clearSlotsAll
  refine .foldl _ _ (fun u x hu => ?_) ?_
  · refine .ite ?_ ?_
    · refine .app ?_ (putSlot_stays ..) (by decide)
      exact hu
    · exact hu
  · exact .refl ..

theorem drawBytes_stays (n : Nat) (s : State) :
    Stays [.keys] s (drawBytes n s).2 := by
  unfold drawBytes
  refine .pair ?_
  refine .app ?_ (modKeys_stays ..) (by decide)
  exact .refl ..

theorem opLoad_stays (slot : Nat) (src : Nat) (s : State) :
    Stays [.regs, .seen, .fabric, .free, .keys] s (opLoad slot src s) := by
  unfold opLoad
  refine .ite ?_ ?_
  · refine .app ?_ (keyRefuse_stays ..) (by decide)
    exact .refl ..
  · refine .ite ?_ ?_
    · refine .app ?_ (keyRefuse_stays ..) (by decide)
      exact .refl ..
    · split
      · rename_i x1 e
        refine .app ?_ (keyRefuseFree_stays ..) (by decide)
        exact .refl ..
      · rename_i x1 k1 e
        refine .ite ?_ ?_
        · refine .app ?_ (keyRefuse_stays ..) (by decide)
          exact .refl ..
        · refine .ite ?_ ?_
          · refine .app ?_ (keyRefuseFree_stays ..) (by decide)
            exact .refl ..
          · split
            · rename_i x2 e1
              refine .app ?_ (keyRefuse_stays ..) (by decide)
              exact .refl ..
            · rename_i x2 k2 e1
              refine .app ?_ (keyDone_stays ..) (by decide)
              refine .app ?_ (putSlot_stays ..) (by decide)
              exact .refl ..

theorem opClear_stays (slot : Nat) (s : State) :
    Stays [.regs, .seen, .fabric, .keys] s (opClear slot s) := by
  unfold opClear
  refine .app ?_ (keyDone_stays ..) (by decide)
  refine .app ?_ (putSlot_stays ..) (by decide)
  exact .refl ..

theorem opWrap_stays (src : Nat) (dst : Nat) (s : State) :
    Stays [.regs, .seen, .fabric, .free, .mem, .keys] s (opWrap src dst s) := by
  unfold opWrap
  refine .ite ?_ ?_
  · refine .app ?_ (keyRefuse_stays ..) (by decide)
    exact .refl ..
  · split
    · rename_i x1 e
      refine .app ?_ (keyRefuseFree_stays ..) (by decide)
      exact .refl ..
    · rename_i x1 k1 e
      extract_lets -underBinder -merge -useContext +onlyGivenNames d head c
      have h_d : Stays [.regs, .seen, .fabric, .free, .mem, .keys] s d.2 := by
        dsimp -zeta only [d]
        refine .app ?_ (drawBytes_stays ..) (by decide)
        exact .refl ..
      clear_value d
      refine .ite ?_ ?_
      · refine .app ?_ (keyRefuse_stays ..) (by decide)
        exact .refl ..
      · refine .ite ?_ ?_
        · refine .app ?_ (keyRefuseFree_stays ..) (by decide)
          exact .refl ..
        · refine .app ?_ (keyDone_stays ..) (by decide)
          refine .app ?_ (State.putBytes_stays ..) (by decide)
          exact h_d

theorem opErase_stays (s : State) :
    Stays [.regs, .seen, .fabric, .crit, .keys] s (opErase s) := by
  unfold opErase
  extract_lets -underBinder -merge -useContext +onlyGivenNames s1 e
  have h_s1 : Stays [.regs, .seen, .fabric, .crit, .keys] s s1 := by
    dsimp -zeta only [s1]
    refine .app ?_ (clearSlotsAll_stays ..) (by decide)
    exact .refl ..
  clear_value s1
  refine .app ?_ (keyDone_stays ..) (by decide)
  refine .app ?_ (raise_stays ..) (by decide)
  refine .app ?_ (State.critPut_stays ..) (by decide)
  exact h_s1

theorem opVerify_stays (src : Nat) (s : State) :
    Stays [.regs, .seen, .fabric, .stopped, .checks, .boat] s (opVerify src s) := by
  unfold opVerify
  split
  · rename_i x1 s1 e
    refine .app ?_ (keyRefuse_stays ..) (by decide)
    refine .snd e ?_
    refine .app ?_ (containerAt_stays ..) (by decide)
    exact .refl ..
  · rename_i x1 c1 s1 e
    extract_lets -underBinder -merge -useContext +onlyGivenNames code
    refine .ite ?_ ?_
    · refine .app ?_ (keyDone_stays ..) (by decide)
      refine .snd e ?_
      refine .app ?_ (containerAt_stays ..) (by decide)
      exact .refl ..
    · refine .app ?_ (keyRefuse_stays ..) (by decide)
      refine .snd e ?_
      refine .app ?_ (containerAt_stays ..) (by decide)
      exact .refl ..

theorem storePatch_stays (k : Nat) (p : List Byte) (id : Nat) (s : State) :
    Stays [.free, .ucode] s (storePatch k p id s) := by
  unfold storePatch
  extract_lets -underBinder -merge -useContext +onlyGivenNames first words ws ms u vsrc
  have h_vsrc : Stays [.free, .ucode] s vsrc := by
    dsimp -zeta only [vsrc]
    refine .app ?_ (State.useFree_stays ..) (by decide)
    exact .refl ..
  clear_value vsrc
  refine .app ?_ (.set_ucode _ _) (by decide)
  exact h_vsrc

theorem opPatch_stays (src : Nat) (s : State) :
    Stays [.regs, .seen, .fabric, .stopped, .free, .ucode, .checks, .boat, .keys] s (opPatch src s) := by
  unfold opPatch
  split
  · rename_i x1 s1 e
    refine .app ?_ (keyRefuse_stays ..) (by decide)
    refine .snd e ?_
    refine .app ?_ (containerAt_stays ..) (by decide)
    exact .refl ..
  · rename_i x1 c1 s1 e
    extract_lets -underBinder -merge -useContext +onlyGivenNames code p
    refine .ite ?_ ?_
    · refine .app ?_ (keyRefuse_stays ..) (by decide)
      refine .snd e ?_
      refine .app ?_ (containerAt_stays ..) (by decide)
      exact .refl ..
    · refine .ite ?_ ?_
      · refine .app ?_ (keyRefuse_stays ..) (by decide)
        refine .snd e ?_
        refine .app ?_ (containerAt_stays ..) (by decide)
        exact .refl ..
      · refine .ite ?_ ?_
        · refine .app ?_ (keyRefuse_stays ..) (by decide)
          refine .snd e ?_
          refine .app ?_ (containerAt_stays ..) (by decide)
          exact .refl ..
        · refine .ite ?_ ?_
          · refine .app ?_ (keyRefuse_stays ..) (by decide)
            refine .snd e ?_
            refine .app ?_ (containerAt_stays ..) (by decide)
            exact .refl ..
          · refine .app ?_ (keyDone_stays ..) (by decide)
            refine .app ?_ (appendEntry_stays ..) (by decide)
            refine .app ?_ (storePatch_stays ..) (by decide)
            refine .snd e ?_
            refine .app ?_ (containerAt_stays ..) (by decide)
            exact .refl ..

theorem opMeasure_stays (src : Nat) (s : State) :
    Stays [.regs, .seen, .fabric, .free, .keys] s (opMeasure src s) := by
  unfold opMeasure
  split
  · rename_i x1 e
    refine .app ?_ (keyRefuseFree_stays ..) (by decide)
    exact .refl ..
  · rename_i x1 k1 e
    refine .ite ?_ ?_
    · refine .app ?_ (keyRefuse_stays ..) (by decide)
      exact .refl ..
    · refine .app ?_ (keyDone_stays ..) (by decide)
      refine .app ?_ (appendEntry_stays ..) (by decide)
      exact .refl ..

theorem opAttest_stays (src : Nat) (dst : Nat) (s : State) :
    Stays [.regs, .seen, .fabric, .free, .mem, .keys] s (opAttest src dst s) := by
  unfold opAttest
  refine .ite ?_ ?_
  · refine .app ?_ (keyRefuse_stays ..) (by decide)
    exact .refl ..
  · split
    · rename_i x1 e
      refine .app ?_ (keyRefuseFree_stays ..) (by decide)
      exact .refl ..
    · rename_i x1 k1 e
      extract_lets -underBinder -merge -useContext +onlyGivenNames body key s1
      have h_s1 : Stays [.regs, .seen, .fabric, .free, .mem, .keys] s s1 := by
        dsimp -zeta only [s1]
        refine .app ?_ (modKeys_stays ..) (by decide)
        exact .refl ..
      clear_value s1
      refine .ite ?_ ?_
      · refine .app ?_ (keyRefuseFree_stays ..) (by decide)
        exact .refl ..
      · refine .app ?_ (keyDone_stays ..) (by decide)
        refine .app ?_ (raise_stays ..) (by decide)
        refine .app ?_ (State.putBytes_stays ..) (by decide)
        exact h_s1

theorem opGenId_stays (s : State) :
    Stays [.regs, .seen, .fabric, .otp, .keys] s (opGenId s) := by
  unfold opGenId
  extract_lets -underBinder -merge -useContext +onlyGivenNames a b vsrc vsrc_1
  have h_a : Stays [.regs, .seen, .fabric, .otp, .keys] s a.2 := by
    dsimp -zeta only [a]
    refine .app ?_ (drawBytes_stays ..) (by decide)
    exact .refl ..
  clear_value a
  have h_b : Stays [.regs, .seen, .fabric, .otp, .keys] s b.2 := by
    dsimp -zeta only [b]
    refine .app ?_ (drawBytes_stays ..) (by decide)
    exact h_a
  clear_value b
  have h_vsrc : Stays [.regs, .seen, .fabric, .otp, .keys] s vsrc := by
    dsimp -zeta only [vsrc]
    exact h_b
  clear_value vsrc
  refine .ite ?_ ?_
  · refine .app ?_ (keyRefuse_stays ..) (by decide)
    exact .refl ..
  · refine .ite ?_ ?_
    · refine .app ?_ (keyRefuse_stays ..) (by decide)
      exact .refl ..
    · refine .app ?_ (keyDone_stays ..) (by decide)
      refine .app ?_ (showOtp_stays ..) (by decide)
      refine .app ?_ (.set_otp _ _) (by decide)
      exact h_vsrc

theorem opRollback_stays (n : Nat) (s : State) :
    Stays [.regs, .seen, .fabric, .otp] s (opRollback n s) := by
  unfold opRollback
  extract_lets -underBinder -merge -useContext +onlyGivenNames vsrc
  refine .ite ?_ ?_
  · refine .app ?_ (keyRefuse_stays ..) (by decide)
    exact .refl ..
  · refine .app ?_ (keyDone_stays ..) (by decide)
    refine .app ?_ (raise_stays ..) (by decide)
    refine .app ?_ (showOtp_stays ..) (by decide)
    refine .app ?_ (.set_otp _ _) (by decide)
    exact .refl ..

theorem opOtpWrite_stays (number : Nat) (addr : Nat) (s : State) :
    Stays [.regs, .seen, .fabric, .free, .otp] s (opOtpWrite number addr s) := by
  unfold opOtpWrite
  split
  · rename_i x1 e
    refine .app ?_ (keyRefuse_stays ..) (by decide)
    exact .refl ..
  · rename_i x1 i1 e
    split
    · rename_i x2 e1
      refine .app ?_ (keyRefuse_stays ..) (by decide)
      exact .refl ..
    · rename_i x2 o1 e1
      refine .ite ?_ ?_
      · refine .app ?_ (keyDone_stays ..) (by decide)
        refine .app ?_ (showOtp_stays ..) (by decide)
        refine .app ?_ (.set_otp _ _) (by decide)
        exact .refl ..
      · refine .app ?_ (keyRefuseFree_stays ..) (by decide)
        exact .refl ..

theorem newChallenge_stays (s : State) :
    Stays [.keys] s (newChallenge s) := by
  unfold newChallenge
  extract_lets -underBinder -merge -useContext +onlyGivenNames d
  have h_d : Stays [.keys] s d.2 := by
    dsimp -zeta only [d]
    refine .app ?_ (drawBytes_stays ..) (by decide)
    exact .refl ..
  clear_value d
  refine .app ?_ (modKeys_stays ..) (by decide)
  exact h_d

theorem grantLevel_stays (level : Nat) (s : State) :
    Stays [.regs, .seen, .fabric, .keys] s (grantLevel level s) := by
  unfold grantLevel
  extract_lets -underBinder -merge -useContext +onlyGivenNames l s1
  have h_s1 : Stays [.regs, .seen, .fabric, .keys] s s1 := by
    dsimp -zeta only [s1]
    refine .app ?_ (State.setFld_stays ..) (by decide)
    exact .refl ..
  clear_value s1
  refine .app ?_ (raise_stays ..) (by decide)
  refine .ite ?_ ?_
  · refine .app ?_ (clearSlotsAll_stays ..) (by decide)
    exact h_s1
  · exact h_s1

theorem debugAttempt_stays (c : List Byte) (s : State) :
    Stays [.regs, .seen, .fabric, .free, .keys] s (debugAttempt c s).2 := by
  unfold debugAttempt
  extract_lets -underBinder -merge -useContext +onlyGivenNames s1
  have h_s1 : Stays [.regs, .seen, .fabric, .free, .keys] s s1 := by
    dsimp -zeta only [s1]
    refine .app ?_ (modKeys_stays ..) (by decide)
    exact .refl ..
  clear_value s1
  split
  · rename_i x1 e
    refine .pair ?_
    refine .app ?_ (grantLevel_stays ..) (by decide)
    exact h_s1
  · rename_i x1 code1 e e1
    refine .pair ?_
    refine .app ?_ (raise_stays ..) (by decide)
    exact h_s1
  · rename_i x1 e
    refine .pair ?_
    refine .app ?_ (raise_stays ..) (by decide)
    refine .app ?_ (State.useFree_stays ..) (by decide)
    exact h_s1

theorem opUnlock_stays (src : Nat) (s : State) :
    Stays [.regs, .seen, .fabric, .free, .keys] s (opUnlock src s) := by
  unfold opUnlock
  split
  · rename_i x1 e
    refine .app ?_ (keyRefuseFree_stays ..) (by decide)
    exact .refl ..
  · rename_i x1 k1 e
    split
    · rename_i x2 e1
      refine .app ?_ (keyDone_stays ..) (by decide)
      refine .app ?_ (debugAttempt_stays ..) (by decide)
      exact .refl ..
    · rename_i x2 e1
      refine .app ?_ (keyRefuse_stays ..) (by decide)
      refine .app ?_ (debugAttempt_stays ..) (by decide)
      exact .refl ..

end Sys2Proof.Machine
end

