-- ==== Sys2Proof/Laws/StaysReadOps.lean ====
section
/-! SUPPORT. What the operations and meanings of Machine/ReadOps do at most. -/

set_option linter.all false
set_option maxRecDepth 4000

namespace Sys2Proof.Machine

theorem readArrived_stays {P : List Piece} {s0 : State} (req : Requester) (k : Nat) (get : State → Word × State) (s : State) (h_get : ∀ u, Stays P s0 u → Stays P s0 (get u).2) (hq : sub [.regs, .bus, .seen, .fabric, .stopped] P = true) (h0 : Stays P s0 s) :
    Stays P s0 (readArrived req k get s) := by
  unfold readArrived
  extract_lets -underBinder -merge -useContext +onlyGivenNames p
  refine .ite ?_ ?_
  · refine .app ?_ (busOk_stays ..) (sub_trans (by decide) hq)
    refine .app ?_ (refuseAccess_stays ..) (sub_trans (by decide) hq)
    exact h0
  · refine .ite ?_ ?_
    · refine .app ?_ (busError_stays ..) (sub_trans (by decide) hq)
      refine .app ?_ (refuseAccess_stays ..) (sub_trans (by decide) hq)
      exact h0
    · refine .ite ?_ ?_
      · refine .app ?_ (busOk_stays ..) (sub_trans (by decide) hq)
        exact h0
      · refine .app ?_ (busOk_stays ..) (sub_trans (by decide) hq)
        refine h_get _ ?_
        exact h0

theorem withReadOut_stays {P : List Piece} {s0 : State} (o : Outside) (req : Requester) (k : Nat) (get : State → Word × State) (s : State) (h_get : ∀ u, Stays P s0 u → Stays P s0 (get u).2) (hq : sub [.regs, .bus, .seen, .fabric, .stopped] P = true) (h0 : Stays P s0 s) :
    Stays P s0 (withReadOut o req k get s) := by
  unfold withReadOut
  extract_lets -underBinder -merge -useContext +onlyGivenNames p
  refine .ite ?_ ?_
  · exact h0
  · refine .ite ?_ ?_
    · refine .app ?_ (busError_stays ..) (sub_trans (by decide) hq)
      refine .app ?_ (refuseAccess_stays ..) (sub_trans (by decide) hq)
      exact h0
    · refine .ite ?_ ?_
      · refine .app ?_ (busOk_stays ..) (sub_trans (by decide) hq)
        exact h0
      · refine .ite ?_ ?_
        · refine .app ?_ (holdAccess_stays ..) (sub_trans (by decide) hq)
          exact h0
        · refine readArrived_stays _ _ _ _ ?_ (sub_trans (by decide) hq) ?_
          · intro u hu
            refine h_get _ ?_
            exact hu
          · exact h0

theorem withRead_stays {P : List Piece} {s0 : State} (req : Requester) (k : Nat) (get : State → Word × State) (s : State) (h_get : ∀ u, Stays P s0 u → Stays P s0 (get u).2) (hq : sub [.regs, .bus, .seen, .fabric, .stopped] P = true) (h0 : Stays P s0 s) :
    Stays P s0 (withRead req k get s) := by
  unfold withRead
  refine withReadOut_stays _ _ _ _ _ ?_ (sub_trans (by decide) hq) ?_
  · intro u hu
    refine h_get _ ?_
    exact hu
  · exact h0

theorem latch_stays (req : Requester) (k : Nat) (w : Option Word) (s : State) :
    Stays [.bus] s (latch req k w s) := by
  unfold latch
  extract_lets -underBinder -merge -useContext +onlyGivenNames vsrc
  refine .app ?_ (.set_bus _ _) (by decide)
  exact .refl ..

theorem lowWritten_stays (req : Requester) (k : Nat) (s : State) :
    Stays [.free] s (lowWritten req k s).2 := by
  unfold lowWritten
  split
  · rename_i x1 w1 e
    refine .pair ?_
    exact .refl ..
  · rename_i x1 e
    refine .pair ?_
    refine .app ?_ (State.useFree_stays ..) (by decide)
    exact .refl ..

theorem keepLow_stays (req : Requester) (k : Nat) (w : Word) (s : State) :
    Stays [.bus] s (keepLow req k w s) := by
  unfold keepLow
  extract_lets -underBinder -merge -useContext +onlyGivenNames vsrc
  refine .app ?_ (.set_bus _ _) (by decide)
  exact .refl ..

end Sys2Proof.Machine
end

