-- ==== Sys2Proof/Laws/StaysDebug.lean ====
section
/-! SUPPORT. What the operations and meanings of Machine/Debug do at most. -/

set_option linter.all false
set_option maxRecDepth 4000

namespace Sys2Proof.Machine

theorem modDbg_stays (f : Debug → Debug) (s : State) :
    Stays [.dbg] s (modDbg f s) := by
  unfold modDbg
  refine .app ?_ (.set_dbg _ _) (by decide)
  exact .refl ..

theorem submitCert_stays (s : State) :
    Stays [.regs, .seen, .fabric, .free, .keys] s (submitCert s) := by
  unfold submitCert
  extract_lets -underBinder -merge -useContext +onlyGivenNames r
  have h_r : Stays [.regs, .seen, .fabric, .free, .keys] s r.2 := by
    dsimp -zeta only [r]
    refine .app ?_ (debugAttempt_stays ..) (by decide)
    exact .refl ..
  clear_value r
  refine .app ?_ (State.setFld_stays ..) (by decide)
  exact h_r

theorem certCtrlEffect_stays (v : Word) (s : State) :
    Stays [.regs, .seen, .fabric, .free, .keys] s (certCtrlEffect v s) := by
  unfold certCtrlEffect
  extract_lets -underBinder -merge -useContext +onlyGivenNames s1
  have h_s1 : Stays [.regs, .seen, .fabric, .free, .keys] s s1 := by
    dsimp -zeta only [s1]
    refine .ite ?_ ?_
    · refine .app ?_ (newChallenge_stays ..) (by decide)
      exact .refl ..
    · exact .refl ..
  clear_value s1
  refine .ite ?_ ?_
  · exact .refl ..
  · refine .ite ?_ ?_
    · refine .app ?_ (submitCert_stays ..) (by decide)
      exact h_s1
    · exact h_s1

theorem execChalReq_stays (req : Requester) (v : Word) (s : State) :
    Answers [.regs, .bus, .seen, .fabric, .stopped, .free, .keys] s (execChalReq req v s) := by
  unfold execChalReq
  refine .next ?_
  refine .when _ _ (fun u hu => ?_) ?_
  · refine withWrite_stays _ _ _ _ _ ?_ (by decide) ?_
    · intro u1 hu1
      refine .app ?_ (certCtrlEffect_stays ..) (by decide)
      exact hu1
    · exact hu
  · exact .refl ..

theorem execCertSubmit_stays (req : Requester) (v : Word) (s : State) :
    Answers [.regs, .bus, .seen, .fabric, .stopped, .free, .keys] s (execCertSubmit req v s) := by
  unfold execCertSubmit
  refine .next ?_
  refine .when _ _ (fun u hu => ?_) ?_
  · refine withWrite_stays _ _ _ _ _ ?_ (by decide) ?_
    · intro u1 hu1
      refine .app ?_ (certCtrlEffect_stays ..) (by decide)
      exact hu1
    · exact hu
  · exact .refl ..

theorem forceSafe_stays (c : Nat) (s : State) :
    Stays [.regs, .seen, .fabric, .stopped, .keel, .rigger, .hda, .rudders, .tunes, .oars, .sweep, .mem, .checks, .boat] s (forceSafe c s) := by
  unfold forceSafe
  refine .ite ?_ ?_
  · refine .app ?_ (retract_stays ..) (by decide)
    exact .refl ..
  · refine .ite ?_ ?_
    · refine .app ?_ (keelCoastEffect_stays ..) (by decide)
      exact .refl ..
    · exact .refl ..

theorem setHalt_stays (c : Nat) (cause : Nat) (pc : Nat) (s : State) :
    Stays [.dbg] s (setHalt c cause pc s) := by
  unfold setHalt
  refine .app ?_ (modDbg_stays ..) (by decide)
  exact .refl ..

theorem haltEffect_stays (v : Word) (s : State) :
    Stays [.regs, .seen, .fabric, .stopped, .keel, .rigger, .hda, .rudders, .tunes, .oars, .sweep, .mem, .checks, .boat, .dbg] s (haltEffect v s) := by
  unfold haltEffect
  extract_lets -underBinder -merge -useContext +onlyGivenNames c s1
  have h_s1 : Stays [.regs, .seen, .fabric, .stopped, .keel, .rigger, .hda, .rudders, .tunes, .oars, .sweep, .mem, .checks, .boat, .dbg] s s1 := by
    dsimp -zeta only [s1]
    refine .ite ?_ ?_
    · refine .app ?_ (forceSafe_stays ..) (by decide)
      exact .refl ..
    · exact .refl ..
  clear_value s1
  refine .ite ?_ ?_
  · exact .refl ..
  · refine .ite ?_ ?_
    · refine .app ?_ (raise_stays ..) (by decide)
      exact .refl ..
    · refine .app ?_ (modDbg_stays ..) (by decide)
      exact h_s1

theorem execEngineHalt_stays (req : Requester) (v : Word) (s : State) :
    Answers [.regs, .bus, .seen, .fabric, .stopped, .keel, .rigger, .hda, .rudders, .tunes, .oars, .sweep, .mem, .checks, .boat, .dbg] s (execEngineHalt req v s) := by
  unfold execEngineHalt
  refine .next ?_
  refine .when _ _ (fun u hu => ?_) ?_
  · refine withWrite_stays _ _ _ _ _ ?_ (by decide) ?_
    · intro u1 hu1
      refine .app ?_ (haltEffect_stays ..) (by decide)
      exact hu1
    · exact hu
  · exact .refl ..

theorem execHalted_stays (engine : Nat) (pc : Nat) (s : State) :
    Answers [.regs, .seen, .strokes, .fabric, .dbg] s (execHalted engine pc s) := by
  unfold execHalted
  refine .next ?_
  refine .when _ _ (fun u hu => ?_) ?_
  · refine .app ?_ (raise_stays ..) (by decide)
    refine .app ?_ (strokeStops_stays ..) (by decide)
    refine .app ?_ (setHalt_stays ..) (by decide)
    exact hu
  · exact .refl ..

theorem resumeEffect_stays (s : State) :
    Stays [.regs, .seen, .strokes, .fabric, .dbg] s (resumeEffect s) := by
  unfold resumeEffect
  extract_lets -underBinder -merge -useContext +onlyGivenNames c
  refine .ite ?_ ?_
  · exact .refl ..
  · refine .app ?_ (strokeGoes_stays ..) (by decide)
    refine .app ?_ (modDbg_stays ..) (by decide)
    exact .refl ..

theorem execEngineResume_stays (req : Requester) (v : Word) (s : State) :
    Answers [.regs, .bus, .seen, .strokes, .fabric, .stopped, .dbg] s (execEngineResume req v s) := by
  unfold execEngineResume
  refine .next ?_
  refine .when _ _ (fun u hu => ?_) ?_
  · refine withWrite_stays _ _ _ _ _ ?_ (by decide) ?_
    · intro u1 hu1
      refine .app ?_ (resumeEffect_stays ..) (by decide)
      exact hu1
    · exact hu
  · exact .refl ..

theorem execEngineStep_stays (req : Requester) (v : Word) (pc : Nat) (s : State) :
    Answers [.regs, .bus, .seen, .fabric, .stopped, .dbg] s (execEngineStep req v pc s) := by
  unfold execEngineStep
  refine .next ?_
  refine .when _ _ (fun u hu => ?_) ?_
  · refine withWriteOut_stays _ _ _ _ _ _ ?_ (by decide) ?_
    · intro u1 hu1
      extract_lets -underBinder -merge -useContext +onlyGivenNames c
      refine .ite ?_ ?_
      · exact hu1
      · refine .app ?_ (raise_stays ..) (by decide)
        refine .app ?_ (setHalt_stays ..) (by decide)
        exact hu1
    · exact hu
  · exact .refl ..

theorem execBreakpoint_stays (engine : Nat) (pc : Nat) (s : State) :
    Answers [.regs, .seen, .strokes, .fabric, .dbg] s (execBreakpoint engine pc s) := by
  unfold execBreakpoint
  refine .next ?_
  refine .when _ _ (fun u hu => ?_) ?_
  · refine .app ?_ (raise_stays ..) (by decide)
    refine .app ?_ (strokeStops_stays ..) (by decide)
    refine .app ?_ (setHalt_stays ..) (by decide)
    exact hu
  · exact .refl ..

theorem engineReg_stays (s : State) :
    Stays [.free, .dbg] s (engineReg s).2 := by
  unfold engineReg
  split
  · rename_i x1 x2 e
    refine .pair ?_
    exact .refl ..
  · rename_i x1 e
    extract_lets -underBinder -merge -useContext +onlyGivenNames x
    refine .pair ?_
    refine .app ?_ (modDbg_stays ..) (by decide)
    refine .app ?_ (State.useFree_stays ..) (by decide)
    refine .app ?_ (State.useFree_stays ..) (by decide)
    exact .refl ..

theorem notHalted_stays (s : State) :
    Stays [.regs, .seen, .fabric] s (notHalted s) := by
  unfold notHalted
  refine .app ?_ (raise_stays ..) (by decide)
  exact .refl ..

theorem regDataRead_stays (req : Requester) (high : Bool) (s : State) :
    Stays [.regs, .bus, .seen, .fabric, .free, .dbg] s (regDataRead req high s).2 := by
  unfold regDataRead
  extract_lets -underBinder -merge -useContext +onlyGivenNames r
  have h_r : Stays [.regs, .bus, .seen, .fabric, .free, .dbg] s r.2 := by
    dsimp -zeta only [r]
    refine .app ?_ (engineReg_stays ..) (by decide)
    exact .refl ..
  clear_value r
  split
  · rename_i e
    refine .pair ?_
    refine .app ?_ (notHalted_stays ..) (by decide)
    refine .app ?_ (State.useFree_stays ..) (by decide)
    exact .refl ..
  · rename_i e
    split
    · rename_i e1
      refine .pair ?_
      exact h_r
    · rename_i e1
      refine .pair ?_
      refine .app ?_ (latch_stays ..) (by decide)
      exact h_r

theorem regDataWrite_stays (req : Requester) (high : Bool) (v : Word) (s : State) :
    Stays [.regs, .bus, .seen, .fabric, .free, .dbg] s (regDataWrite req high v s) := by
  unfold regDataWrite
  extract_lets -underBinder -merge -useContext +onlyGivenNames lo x
  have h_lo : Stays [.regs, .bus, .seen, .fabric, .free, .dbg] s lo.2 := by
    dsimp -zeta only [lo]
    refine .app ?_ (lowWritten_stays ..) (by decide)
    exact .refl ..
  clear_value lo
  refine .ite ?_ ?_
  · refine .app ?_ (notHalted_stays ..) (by decide)
    exact .refl ..
  · refine .ite ?_ ?_
    · refine .app ?_ (keepLow_stays ..) (by decide)
      exact .refl ..
    · refine .app ?_ (modDbg_stays ..) (by decide)
      exact h_lo

theorem execRegDataAccess_stays (req : Requester) (write : Bool) (high : Bool) (v : Word) (s : State) :
    Answers [.regs, .bus, .seen, .fabric, .stopped, .free, .dbg] s (execRegDataAccess req write high v s) := by
  unfold execRegDataAccess
  extract_lets -underBinder -merge -useContext +onlyGivenNames k
  refine .next ?_
  refine .ite ?_ ?_
  · refine withWrite_stays _ _ _ _ _ ?_ (by decide) ?_
    · intro u hu
      refine .app ?_ (regDataWrite_stays ..) (by decide)
      exact hu
    · exact .refl ..
  · refine withRead_stays _ _ _ _ ?_ (by decide) ?_
    · intro u hu
      refine .app ?_ (regDataRead_stays ..) (by decide)
      exact hu
    · exact .refl ..

theorem tapShift_stays (out : List Bool) (s : State) :
    Stays [.dbg] s (tapShift out s) := by
  unfold tapShift
  refine .app ?_ (modDbg_stays ..) (by decide)
  exact .refl ..

theorem execIdcode_stays (port : TapPort) (s : State) :
    Answers [.dbg] s (execIdcode port s) := by
  unfold execIdcode
  refine .next ?_
  refine .when _ _ (fun u hu => ?_) ?_
  · refine .app ?_ (tapShift_stays ..) (by decide)
    exact hu
  · exact .refl ..

theorem passBypass_stays (bits : List Bool) (s : State) :
    Stays [.dbg] s (passBypass bits s) := by
  unfold passBypass
  refine .app ?_ (modDbg_stays ..) (by decide)
  refine .app ?_ (tapShift_stays ..) (by decide)
  exact .refl ..

theorem execBypass_stays (port : TapPort) (bits : List Bool) (s : State) :
    Answers [.dbg] s (execBypass port bits s) := by
  unfold execBypass
  refine .next ?_
  refine .when _ _ (fun u hu => ?_) ?_
  · refine .app ?_ (passBypass_stays ..) (by decide)
    exact hu
  · exact .refl ..

theorem execSamplePreload_stays (port : TapPort) (capture : List Bool) (load : List Bool) (s : State) :
    Answers [.dbg] s (execSamplePreload port capture load s) := by
  unfold execSamplePreload
  refine .next ?_
  refine .when _ _ (fun u hu => ?_) ?_
  · refine .app ?_ (modDbg_stays ..) (by decide)
    refine .app ?_ (tapShift_stays ..) (by decide)
    exact hu
  · exact .refl ..

theorem execExtest_stays (port : TapPort) (s : State) :
    Answers [.regs, .seen, .fabric, .dbg] s (execExtest port s) := by
  unfold execExtest
  refine .next ?_
  refine .when _ _ (fun u hu => ?_) ?_
  · refine .ite ?_ ?_
    · refine .app ?_ (modDbg_stays ..) (by decide)
      exact hu
    · refine .app ?_ (raise_stays ..) (by decide)
      refine .app ?_ (passBypass_stays ..) (by decide)
      exact hu
  · exact .refl ..

theorem execAdapterActivation_stays (classT4 : Bool) (oscan1 : Bool) (s : State) :
    Answers [.dbg] s (execAdapterActivation classT4 oscan1 s) := by
  unfold execAdapterActivation
  refine .next ?_
  refine .when _ _ (fun u hu => ?_) ?_
  · refine .app ?_ (modDbg_stays ..) (by decide)
    exact hu
  · exact .refl ..

theorem execAdapterReset_stays (s : State) :
    Answers [.dbg] s (execAdapterReset s) := by
  unfold execAdapterReset
  refine .next ?_
  refine .app ?_ (modDbg_stays ..) (by decide)
  exact .refl ..

theorem atbStore_stays (b : Nat) (k : Nat) (v : Word) (s : State) :
    Stays [.regs, .seen, .fabric] s (atbStore b k v s) := by
  unfold atbStore
  extract_lets -underBinder -merge -useContext +onlyGivenNames s1
  have h_s1 : Stays [.regs, .seen, .fabric] s s1 := by
    dsimp -zeta only [s1]
    refine .app ?_ (storeWrite_stays ..) (by decide)
    exact .refl ..
  clear_value s1
  refine .ite ?_ ?_
  · refine .app ?_ (raise_stays ..) (by decide)
    exact h_s1
  · refine .app ?_ (raise_stays ..) (by decide)
    exact h_s1

theorem atbEffect_stays (req : Requester) (bus : Bool) (v : Word) (s : State) :
    Stays [.regs, .seen, .fabric] s (atbEffect req bus v s) := by
  unfold atbEffect
  refine .ite ?_ ?_
  · refine .ite ?_ ?_
    · exact .refl ..
    · refine .app ?_ (atbStore_stays ..) (by decide)
      exact .refl ..
  · refine .ite ?_ ?_
    · refine .app ?_ (atbStore_stays ..) (by decide)
      exact .refl ..
    · refine .app ?_ (raise_stays ..) (by decide)
      refine .app ?_ (notHeld_stays ..) (by decide)
      exact .refl ..

theorem execAtbSelect_stays (req : Requester) (bus : Bool) (v : Word) (s : State) :
    Answers [.regs, .bus, .seen, .fabric, .stopped] s (execAtbSelect req bus v s) := by
  unfold execAtbSelect
  refine .next ?_
  refine withWrite_stays _ _ _ _ _ ?_ (by decide) ?_
  · intro u hu
    refine .app ?_ (atbEffect_stays ..) (by decide)
    exact hu
  · exact .refl ..

theorem smbusRead_stays (bytes : State → List Byte) (s : State) :
    Answers [.smbus] s (smbusRead bytes s) := by
  unfold smbusRead
  refine .next ?_
  refine .when _ _ (fun u hu => ?_) ?_
  · refine .app ?_ (.set_smbus _ _) (by decide)
    exact hu
  · exact .refl ..

theorem execSmbusPart_stays (s : State) :
    Answers [.smbus] s (execSmbusPart s) := by
  unfold execSmbusPart
  refine .app ?_ (smbusRead_stays ..) (by decide)
  exact .refl ..

theorem execSmbusMode_stays (s : State) :
    Answers [.smbus] s (execSmbusMode s) := by
  unfold execSmbusMode
  refine .app ?_ (smbusRead_stays ..) (by decide)
  exact .refl ..

theorem execSmbusDriveTemp_stays (s : State) :
    Answers [.smbus] s (execSmbusDriveTemp s) := by
  unfold execSmbusDriveTemp
  refine .app ?_ (smbusRead_stays ..) (by decide)
  exact .refl ..

theorem execSmbusCoreTemp_stays (deciC : Int) (s : State) :
    Answers [.smbus] s (execSmbusCoreTemp deciC s) := by
  unfold execSmbusCoreTemp
  refine .app ?_ (smbusRead_stays ..) (by decide)
  exact .refl ..

theorem execSmbusRigTemp_stays (s : State) :
    Answers [.smbus] s (execSmbusRigTemp s) := by
  unfold execSmbusRigTemp
  refine .app ?_ (smbusRead_stays ..) (by decide)
  exact .refl ..

theorem execSmbusStatus_stays (s : State) :
    Answers [.smbus] s (execSmbusStatus s) := by
  unfold execSmbusStatus
  refine .app ?_ (smbusRead_stays ..) (by decide)
  exact .refl ..

theorem execSmbusSerial_stays (s : State) :
    Answers [.smbus] s (execSmbusSerial s) := by
  unfold execSmbusSerial
  refine .app ?_ (smbusRead_stays ..) (by decide)
  exact .refl ..

theorem execSmbusNack_stays (command : BitVec 8) (write : Bool) (s : State) :
    Answers [.smbus] s (execSmbusNack command write s) := by
  unfold execSmbusNack
  refine .next ?_
  refine .when _ _ (fun u hu => ?_) ?_
  · refine .app ?_ (.set_smbus _ _) (by decide)
    exact hu
  · exact .refl ..

theorem execSmbusTimeout_stays (lowMs : Nat) (s : State) :
    Answers [.smbus] s (execSmbusTimeout lowMs s) := by
  unfold execSmbusTimeout
  refine .next ?_
  refine .when _ _ (fun u hu => ?_) ?_
  · refine .app ?_ (.set_smbus _ _) (by decide)
    exact hu
  · exact .refl ..

end Sys2Proof.Machine
end

