-- ==== Sys2Proof/Laws/StaysCrit.lean ====
section
/-! SUPPORT. What the operations and meanings of Machine/Crit do at most. -/

set_option linter.all false
set_option maxRecDepth 4000

namespace Sys2Proof.Machine

theorem modCrit_stays (f : CritStore → CritStore) (s : State) :
    Stays [.crit] s (modCrit f s) := by
  unfold modCrit
  refine .app ?_ (.set_crit _ _) (by decide)
  exact .refl ..

theorem strike_stays (u : CritUpset) (s : State) :
    Stays [.crit] s (strike u s) := by
  unfold strike
  refine .app ?_ (modCrit_stays ..) (by decide)
  exact .refl ..

theorem strikeAll_stays (us : List CritUpset) (s : State) :
    Stays [.crit] s (strikeAll us s) := by
  unfold strikeAll
  refine .foldl _ _ (fun u x hu => ?_) ?_
  · refine .app ?_ (strike_stays ..) (by decide)
    exact hu
  · exact .refl ..

theorem critNote_stays (n : Nat) (b : Nat) (i : Nat) (s : State) :
    Stays [.regs] s (critNote n b i s) := by
  unfold critNote
  refine .app ?_ (State.setFld_stays ..) (by decide)
  refine .app ?_ (State.setFld_stays ..) (by decide)
  refine .app ?_ (State.setFld_stays ..) (by decide)
  exact .refl ..

theorem voteRepair_stays (n : Nat) (i : Nat) (v : Word) (s : State) :
    Stays [.regs, .seen, .fabric, .crit] s (voteRepair n i v s) := by
  unfold voteRepair
  extract_lets -underBinder -merge -useContext +onlyGivenNames old s1
  have h_s1 : Stays [.regs, .seen, .fabric, .crit] s s1 := by
    dsimp -zeta only [s1]
    refine .app ?_ (modCrit_stays ..) (by decide)
    exact .refl ..
  clear_value s1
  refine .app ?_ (transient_stays ..) (by decide)
  refine .app ?_ (State.count_stays ..) (by decide)
  refine .app ?_ (critNote_stays ..) (by decide)
  exact h_s1

theorem mendCopy_stays (n : Nat) (i : Nat) (s : State) :
    Stays [.regs, .seen, .fabric, .crit] s (mendCopy n i s) := by
  unfold mendCopy
  split
  · rename_i x1 b1 e
    refine .app ?_ (transient_stays ..) (by decide)
    refine .app ?_ (State.count_stays ..) (by decide)
    refine .app ?_ (critNote_stays ..) (by decide)
    refine .app ?_ (modCrit_stays ..) (by decide)
    exact .refl ..
  · rename_i x1 e
    exact .refl ..

theorem repairWord_stays (n : Nat) (s : State) :
    Stays [.regs, .seen, .fabric, .crit] s (repairWord n s) := by
  unfold repairWord
  split
  · rename_i x1 e
    exact .refl ..
  · rename_i x1 v1 e
    refine .foldl _ _ (fun u x hu => ?_) ?_
    · refine .ite ?_ ?_
      · exact hu
      · refine .app ?_ (voteRepair_stays ..) (by decide)
        exact hu
    · exact .refl ..

theorem critUncorrectable_stays (n : Nat) (s : State) :
    Stays [.regs, .seen, .fabric, .crit, .safePending] s (critUncorrectable n s) := by
  unfold critUncorrectable
  refine .ite ?_ ?_
  · exact .refl ..
  · refine .app ?_ (critLost_stays ..) (by decide)
    exact .refl ..

theorem voteWord_stays (n : Nat) (s : State) :
    Stays [.regs, .seen, .fabric, .crit, .safePending] s (voteWord n s) := by
  unfold voteWord
  extract_lets -underBinder -merge -useContext +onlyGivenNames s1
  have h_s1 : Stays [.regs, .seen, .fabric, .crit, .safePending] s s1 := by
    dsimp -zeta only [s1]
    refine .foldl _ _ (fun u x hu => ?_) ?_
    · refine .app ?_ (mendCopy_stays ..) (by decide)
      exact hu
    · exact .refl ..
  clear_value s1
  refine .ite ?_ ?_
  · exact .refl ..
  · refine .ite ?_ ?_
    · refine .app ?_ (repairWord_stays ..) (by decide)
      exact .refl ..
    · refine .ite ?_ ?_
      · refine .app ?_ (repairWord_stays ..) (by decide)
        exact h_s1
      · refine .app ?_ (critUncorrectable_stays ..) (by decide)
        exact h_s1

theorem refreshCopy_stays (i : Nat) (s : State) :
    Stays [.regs, .seen, .fabric, .crit] s (refreshCopy i s) := by
  unfold refreshCopy
  extract_lets -underBinder -merge -useContext +onlyGivenNames c agrees
  refine .ite ?_ ?_
  · refine .app ?_ (transient_stays ..) (by decide)
    refine .app ?_ (modCrit_stays ..) (by decide)
    exact .refl ..
  · exact .refl ..

theorem execCritRead_stays (req : Requester) (addr : Addr) (upsets : List CritUpset) (s : State) :
    Answers [.regs, .bus, .seen, .fabric, .crit, .stopped, .safePending] s (execCritRead req addr upsets s) := by
  unfold execCritRead
  extract_lets -underBinder -merge -useContext +onlyGivenNames s0x
  have h_s0x : Stays [.regs, .bus, .seen, .fabric, .crit, .stopped, .safePending] s s0x := by
    dsimp -zeta only [s0x]
    refine .app ?_ (strikeAll_stays ..) (by decide)
    exact .refl ..
  clear_value s0x
  refine .next ?_
  split
  · rename_i x1 e
    exact h_s0x
  · rename_i x1 k1 n1 e
    refine withRead_stays _ _ _ _ ?_ (by decide) ?_
    · intro u hu
      refine .pair ?_
      refine .app ?_ (voteWord_stays ..) (by decide)
      exact hu
    · exact h_s0x

theorem execCritSweep_stays (upsets : List CritUpset) (s : State) :
    Answers [.regs, .seen, .fabric, .crit, .safePending] s (execCritSweep upsets s) := by
  unfold execCritSweep
  extract_lets -underBinder -merge -useContext +onlyGivenNames s0x
  have h_s0x : Stays [.regs, .seen, .fabric, .crit, .safePending] s s0x := by
    dsimp -zeta only [s0x]
    refine .app ?_ (strikeAll_stays ..) (by decide)
    exact .refl ..
  clear_value s0x
  refine .next ?_
  refine .when _ _ (fun u hu => ?_) ?_
  · extract_lets -underBinder -merge -useContext +onlyGivenNames due s1
    have h_s1 : Stays [.regs, .seen, .fabric, .crit, .safePending] s s1 := by
      dsimp -zeta only [s1]
      refine .foldl _ _ (fun u1 x hu1 => ?_) ?_
      · refine .app ?_ (voteWord_stays ..) (by decide)
        exact hu1
      · exact hu
    clear_value s1
    refine .foldl _ _ (fun u1 x hu1 => ?_) ?_
    · refine .app ?_ (refreshCopy_stays ..) (by decide)
      exact hu1
    · exact h_s1
  · exact h_s0x

end Sys2Proof.Machine
end

