-- ==== Sys2Proof/Laws/StaysRecorder.lean ====
section
/-! SUPPORT. What the operations and meanings of Machine/Recorder do at most. -/

set_option linter.all false
set_option maxRecDepth 4000

namespace Sys2Proof.Machine

theorem umpGap_stays (s : State) :
    Stays [.regs, .seen, .fabric, .crit, .safePending, .ump] s (umpGap s) := by
  unfold umpGap
  split
  · rename_i x1 a1 b1 n1 e
    refine .ite ?_ ?_
    · refine .app ?_ (writeGap_stays ..) (by decide)
      refine .app ?_ (modUmp_stays ..) (by decide)
      exact .refl ..
    · exact .refl ..
  · rename_i x1 e
    exact .refl ..

theorem umpHold_stays (m : Msg) (s : State) :
    Stays [.regs, .ump] s (umpHold m s) := by
  unfold umpHold
  refine .ite ?_ ?_
  · refine .app ?_ (modUmp_stays ..) (by decide)
    exact .refl ..
  · refine .app ?_ (State.count_stays ..) (by decide)
    exact .refl ..

theorem execUmpireRecord_stays (s : State) :
    Answers [.regs, .seen, .fabric, .crit, .safePending, .ump] s (execUmpireRecord s) := by
  unfold execUmpireRecord
  refine .next ?_
  refine .when _ _ (fun u hu => ?_) ?_
  · split
    · rename_i x1 e
      exact hu
    · rename_i x1 x2 rest1 e
      refine .ite ?_ ?_
      · refine .app ?_ (umpHold_stays ..) (by decide)
        refine .app ?_ (modUmp_stays ..) (by decide)
        exact hu
      · refine .app ?_ (recordMsg_stays ..) (by decide)
        refine .app ?_ (modUmp_stays ..) (by decide)
        refine .app ?_ (umpGap_stays ..) (by decide)
        exact hu
  · exact .refl ..

theorem copyOver_stays (head : Nat) (n : Nat) (s : State) :
    Stays [.regs, .seen, .fabric, .crit, .safePending, .ump] s (copyOver head n s) := by
  unfold copyOver
  extract_lets -underBinder -merge -useContext +onlyGivenNames s1 s2 s3 s4
  have h_s1 : Stays [.regs, .seen, .fabric, .crit, .safePending, .ump] s s1 := by
    dsimp -zeta only [s1]
    refine .app ?_ (State.critPut_stays ..) (by decide)
    refine .app ?_ (State.setCritFld_stays ..) (by decide)
    exact .refl ..
  clear_value s1
  have h_s2 : Stays [.regs, .seen, .fabric, .crit, .safePending, .ump] s s2 := by
    dsimp -zeta only [s2]
    refine .app ?_ (modUmp_stays ..) (by decide)
    refine .app ?_ (State.setBit_stays ..) (by decide)
    exact h_s1
  clear_value s2
  have h_s3 : Stays [.regs, .seen, .fabric, .crit, .safePending, .ump] s s3 := by
    dsimp -zeta only [s3]
    refine .app ?_ (raise_stays ..) (by decide)
    exact h_s2
  clear_value s3
  have h_s4 : Stays [.regs, .seen, .fabric, .crit, .safePending, .ump] s s4 := by
    dsimp -zeta only [s4]
    refine .ite ?_ ?_
    · refine .app ?_ (raise_stays ..) (by decide)
      refine .app ?_ (modUmp_stays ..) (by decide)
      exact h_s3
    · exact h_s3
  clear_value s4
  refine .app ?_ (umpClearIfFree_stays ..) (by decide)
  exact h_s4

theorem umpCopy_stays (s : State) :
    Stays [.regs, .seen, .fabric, .crit, .safePending, .ump] s (umpCopy s) := by
  unfold umpCopy
  extract_lets -underBinder -merge -useContext +onlyGivenNames off n
  refine .ite ?_ ?_
  · refine .app ?_ (raise_stays ..) (by decide)
    exact .refl ..
  · refine .ite ?_ ?_
    · refine .app ?_ (copyOver_stays ..) (by decide)
      exact .refl ..
    · refine .app ?_ (modUmp_stays ..) (by decide)
      refine .app ?_ (State.setBit_stays ..) (by decide)
      exact .refl ..

theorem copyLands_stays (c : RingCopy) (s : State) :
    Stays [.regs, .seen, .fabric, .stopped, .mem, .checks, .boat] s (copyLands c s) := by
  unfold copyLands
  refine .ite ?_ ?_
  · refine .app ?_ (storeBytes_stays ..) (by decide)
    exact .refl ..
  · exact .refl ..

theorem umpClear_stays (req : Requester) (s : State) :
    Stays [.regs, .seen, .fabric, .crit, .safePending, .ump] s (umpClear req s) := by
  unfold umpClear
  refine .ite ?_ ?_
  · refine .app ?_ (raise_stays ..) (by decide)
    exact .refl ..
  · refine .ite ?_ ?_
    · refine .app ?_ (modUmp_stays ..) (by decide)
      exact .refl ..
    · refine .app ?_ (umpClearNow_stays ..) (by decide)
      exact .refl ..

theorem umpCtrlEffect_stays (req : Requester) (v : Word) (s : State) :
    Stays [.regs, .seen, .fabric, .crit, .safePending, .ump] s (umpCtrlEffect req v s) := by
  unfold umpCtrlEffect
  extract_lets -underBinder -merge -useContext +onlyGivenNames s1 s2
  have h_s1 : Stays [.regs, .seen, .fabric, .crit, .safePending, .ump] s s1 := by
    dsimp -zeta only [s1]
    refine .ite ?_ ?_
    · refine .app ?_ (umpFreeze_stays ..) (by decide)
      exact .refl ..
    · refine .app ?_ (umpUnfreeze_stays ..) (by decide)
      exact .refl ..
  clear_value s1
  have h_s2 : Stays [.regs, .seen, .fabric, .crit, .safePending, .ump] s s2 := by
    dsimp -zeta only [s2]
    refine .ite ?_ ?_
    · refine .app ?_ (umpClear_stays ..) (by decide)
      exact h_s1
    · exact h_s1
  clear_value s2
  refine .ite ?_ ?_
  · refine .app ?_ (umpCopy_stays ..) (by decide)
    exact h_s2
  · exact h_s2

theorem umpCtrl_stays (guard : Bool) (req : Requester) (v : Word) (s : State) :
    Answers [.regs, .bus, .seen, .fabric, .crit, .stopped, .safePending, .ump] s (umpCtrl guard req v s) := by
  unfold umpCtrl
  refine .next ?_
  refine .when _ _ (fun u hu => ?_) ?_
  · refine withWrite_stays _ _ _ _ _ ?_ (by decide) ?_
    · intro u1 hu1
      refine .app ?_ (umpCtrlEffect_stays ..) (by decide)
      exact hu1
    · exact hu
  · exact .refl ..

theorem execFreeze_stays (req : Requester) (v : Word) (s : State) :
    Answers [.regs, .bus, .seen, .fabric, .crit, .stopped, .safePending, .ump] s (execFreeze req v s) := by
  unfold execFreeze
  refine .app ?_ (umpCtrl_stays ..) (by decide)
  exact .refl ..

theorem execUnfreeze_stays (req : Requester) (v : Word) (s : State) :
    Answers [.regs, .bus, .seen, .fabric, .crit, .stopped, .safePending, .ump] s (execUnfreeze req v s) := by
  unfold execUnfreeze
  refine .app ?_ (umpCtrl_stays ..) (by decide)
  exact .refl ..

theorem execUmpireClear_stays (req : Requester) (v : Word) (s : State) :
    Answers [.regs, .bus, .seen, .fabric, .crit, .stopped, .safePending, .ump] s (execUmpireClear req v s) := by
  unfold execUmpireClear
  refine .app ?_ (umpCtrl_stays ..) (by decide)
  exact .refl ..

theorem execUmpireCopy_stays (req : Requester) (v : Word) (s : State) :
    Answers [.regs, .bus, .seen, .fabric, .crit, .stopped, .safePending, .ump] s (execUmpireCopy req v s) := by
  unfold execUmpireCopy
  refine .app ?_ (umpCtrl_stays ..) (by decide)
  exact .refl ..

theorem execFreezeTimeout_stays (s : State) :
    Answers [.regs, .seen, .fabric, .crit, .safePending, .ump] s (execFreezeTimeout s) := by
  unfold execFreezeTimeout
  refine .next ?_
  refine .when _ _ (fun u hu => ?_) ?_
  · refine .app ?_ (umpUnfreeze_stays ..) (by decide)
    exact hu
  · exact .refl ..

theorem execCopyDone_stays (s : State) :
    Answers [.regs, .seen, .fabric, .crit, .stopped, .safePending, .mem, .checks, .boat, .ump] s (execCopyDone s) := by
  unfold execCopyDone
  refine .next ?_
  refine .when _ _ (fun u hu => ?_) ?_
  · split
    · rename_i x1 c1 e
      refine underCredit_stays _ _ _ ?_ (by decide) ?_
      · intro u1 hu1
        refine .app ?_ (copyOver_stays ..) (by decide)
        refine .app ?_ (copyLands_stays ..) (by decide)
        exact hu1
      · exact hu
    · rename_i x1 e
      exact hu
  · exact .refl ..

theorem windowWord_stays (n : Nat) (parityBad : Bool) (rereadBad : Bool) (s : State) :
    Stays [.regs, .seen, .fabric, .stopped, .free] s (windowWord n parityBad rereadBad s).2 := by
  unfold windowWord
  extract_lets -underBinder -merge -useContext +onlyGivenNames i pl
  split
  · rename_i e
    refine .pair ?_
    exact .refl ..
  · rename_i e
    split
    · rename_i e1
      refine .pair ?_
      refine .app ?_ (transient_stays ..) (by decide)
      exact .refl ..
    · rename_i e1
      refine .pair ?_
      refine .app ?_ (lasting_stays ..) (by decide)
      refine .app ?_ (State.useFree_stays ..) (by decide)
      refine .app ?_ (State.setBit_stays ..) (by decide)
      exact .refl ..

theorem execUmpireWindowRead_stays (req : Requester) (n : Nat) (parityBad : Bool) (rereadBad : Bool) (s : State) :
    Answers [.regs, .bus, .seen, .fabric, .stopped, .free] s (execUmpireWindowRead req n parityBad rereadBad s) := by
  unfold execUmpireWindowRead
  refine .next ?_
  refine .when _ _ (fun u hu => ?_) ?_
  · refine withRead_stays _ _ _ _ ?_ (by decide) ?_
    · intro u1 hu1
      refine .app ?_ (windowWord_stays ..) (by decide)
      exact hu1
    · exact hu
  · exact .refl ..

end Sys2Proof.Machine
end

