-- ==== Sys2Proof/Laws/StaysReadMap.lean ====
section
/-! SUPPORT. What the operations and meanings of Machine/ReadMap do at most. -/

set_option linter.all false
set_option maxRecDepth 4000

namespace Sys2Proof.Machine

theorem regRead_stays (req : Requester) (k : Nat) (parityBad : Bool) (rereadBad : Bool) (s : State) :
    Stays [.regs, .bus, .seen, .fabric, .crit, .stopped, .free, .safePending, .dbg] s (regRead req k parityBad rereadBad s).2 := by
  unfold regRead
  extract_lets -underBinder -merge -useContext +onlyGivenNames p off
  split
  · rename_i x1 n1 e
    extract_lets -underBinder -merge -useContext +onlyGivenNames t
    have h_t : Stays [.regs, .bus, .seen, .fabric, .crit, .stopped, .free, .safePending, .dbg] s t := by
      dsimp -zeta only [t]
      refine .app ?_ (voteWord_stays ..) (by decide)
      exact .refl ..
    clear_value t
    refine .pair ?_
    exact h_t
  · rename_i x1 e
    split
    · rename_i e1
      refine .app ?_ (windowWord_stays ..) (by decide)
      exact .refl ..
    · rename_i e1
      split
      · rename_i e2
        refine .app ?_ (regDataRead_stays ..) (by decide)
        exact .refl ..
      · rename_i e2
        split
        · rename_i e3
          refine .app ?_ (regDataRead_stays ..) (by decide)
          exact .refl ..
        · rename_i e3
          split
          · rename_i e4
            refine .pair ?_
            refine .app ?_ (State.useFree_stays ..) (by decide)
            exact .refl ..
          · rename_i e4
            split
            · rename_i x2 w1 e5
              refine .pair ?_
              refine .app ?_ (State.useFree_stays ..) (by decide)
              exact .refl ..
            · rename_i x2 e5
              split
              · rename_i e6
                refine .pair ?_
                refine .app ?_ (latch_stays ..) (by decide)
                exact .refl ..
              · rename_i e6
                split
                · rename_i e7
                  refine .pair ?_
                  exact .refl ..
                · rename_i e7
                  refine .pair ?_
                  exact .refl ..

end Sys2Proof.Machine
end

