-- ==== Sys2Proof/Laws/StaysEventMap.lean ====
section
/-! SUPPORT. What the operations and meanings of Machine/EventMap do at most. -/

set_option linter.all false
set_option maxRecDepth 4000

namespace Sys2Proof.Machine

theorem evForceEffect_stays (p : Nat) (v : Word) (s : State) :
    Stays [.regs, .seen, .fabric] s (evForceEffect p v s) := by
  unfold evForceEffect
  refine .foldl _ _ (fun u x hu => ?_) ?_
  · refine .ite ?_ ?_
    · split
      · rename_i x1 sev1 e
        refine .app ?_ (raise_stays ..) (by decide)
        exact hu
      · rename_i x1 e
        exact hu
    · exact hu
  · exact .refl ..

theorem execEvForce_stays (req : Requester) (page : Nat) (v : Word) (s : State) :
    Answers [.regs, .bus, .seen, .fabric, .stopped] s (execEvForce req page v s) := by
  unfold execEvForce
  refine .next ?_
  refine withWrite_stays _ _ _ _ _ ?_ (by decide) ?_
  · intro u hu
    refine .app ?_ (evForceEffect_stays ..) (by decide)
    exact hu
  · exact .refl ..

end Sys2Proof.Machine
end

