-- ==== Sys2Proof/Laws/StaysEvents.lean ====
section
/-! SUPPORT. What the operations and meanings of Machine/Events do at most. -/

set_option linter.all false
set_option maxRecDepth 4000

namespace Sys2Proof.Machine

theorem setTarget_stays (t : Nat) (x : Target) (s : State) :
    Stays [.targets] s (setTarget t x s) := by
  unfold setTarget
  refine .app ?_ (.set_targets _ _) (by decide)
  exact .refl ..

theorem toTarget_stays (t : Nat) (m : Msg) (s : State) :
    Stays [.regs, .seen, .fabric, .targets, .stopped] s (toTarget t m s) := by
  unfold toTarget
  extract_lets -underBinder -merge -useContext +onlyGivenNames x s1 s2
  have h_s1 : Stays [.regs, .seen, .fabric, .targets, .stopped] s s1 := by
    dsimp -zeta only [s1]
    refine .app ?_ (setTarget_stays ..) (by decide)
    exact .refl ..
  clear_value s1
  have h_s2 : Stays [.regs, .seen, .fabric, .targets, .stopped] s s2 := by
    dsimp -zeta only [s2]
    refine .app ?_ (haltFault_stays ..) (by decide)
    refine .app ?_ (markEvent_stays ..) (by decide)
    exact h_s1
  clear_value s2
  refine .ite ?_ ?_
  · exact .refl ..
  · refine .ite ?_ ?_
    · refine .app ?_ (setTarget_stays ..) (by decide)
      exact .refl ..
    · refine .ite ?_ ?_
      · refine .app ?_ (setTarget_stays ..) (by decide)
        exact .refl ..
      · refine .ite ?_ ?_
        · exact h_s1
        · refine .ite ?_ ?_
          · refine .app ?_ (State.send_stays ..) (by decide)
            exact h_s2
          · exact h_s2

theorem bucketFill_stays (m : Msg) (s : State) :
    Stays [.regs, .fabric, .leaks] s (bucketFill m s) := by
  unfold bucketFill
  extract_lets -underBinder -merge -useContext +onlyGivenNames k before leak vsrc vsrc_1
  have h_vsrc : Stays [.regs, .fabric, .leaks] s vsrc := by
    dsimp -zeta only [vsrc]
    refine .app ?_ (State.setFld_stays ..) (by decide)
    exact .refl ..
  clear_value vsrc
  have h_vsrc_1 : Stays [.regs, .fabric, .leaks] s vsrc_1 := by
    dsimp -zeta only [vsrc_1]
    refine .app ?_ (State.send_stays ..) (by decide)
    refine .app ?_ (State.setFld_stays ..) (by decide)
    exact .refl ..
  clear_value vsrc_1
  refine .ite ?_ ?_
  · refine .app ?_ (.set_leaks _ _) (by decide)
    exact h_vsrc
  · refine .app ?_ (.set_leaks _ _) (by decide)
    exact h_vsrc_1

theorem deliver_stays (m : Msg) (s : State) :
    Stays [.regs, .seen, .fabric, .targets, .leaks, .stopped, .ump] s (deliver m s) := by
  unfold deliver
  extract_lets -underBinder -merge -useContext +onlyGivenNames e rt ts s1
  have h_s1 : Stays [.regs, .seen, .fabric, .targets, .leaks, .stopped, .ump] s s1 := by
    dsimp -zeta only [s1]
    refine .ite ?_ ?_
    · refine .app ?_ (bucketFill_stays ..) (by decide)
      exact .refl ..
    · refine .foldl _ _ (fun u x hu => ?_) ?_
      · refine .app ?_ (toTarget_stays ..) (by decide)
        exact hu
      · exact .refl ..
  clear_value s1
  refine .ite ?_ ?_
  · refine .app ?_ (umpArrive_stays ..) (by decide)
    exact h_s1
  · exact h_s1

theorem execEventMessage_stays (s : State) :
    Answers [.regs, .seen, .fabric, .targets, .leaks, .stopped, .ump] s (execEventMessage s) := by
  unfold execEventMessage
  split
  · rename_i x1 e
    refine .next ?_
    exact .refl ..
  · rename_i x1 m1 e
    extract_lets -underBinder -merge -useContext +onlyGivenNames s1
    have h_s1 : Stays [.regs, .seen, .fabric, .targets, .leaks, .stopped, .ump] s s1 := by
      dsimp -zeta only [s1]
      refine .app ?_ (.set_fabric _ _) (by decide)
      exact .refl ..
    clear_value s1
    refine .next ?_
    refine .ite ?_ ?_
    · refine .app ?_ (umpArrive_stays ..) (by decide)
      exact h_s1
    · refine .ite ?_ ?_
      · exact .refl ..
      · refine .app ?_ (deliver_stays ..) (by decide)
        exact h_s1

theorem execBucketLeak_stays (source : Nat) (s : State) :
    Answers [.regs, .leaks] s (execBucketLeak source s) := by
  unfold execBucketLeak
  extract_lets -underBinder -merge -useContext +onlyGivenNames k
  refine .next ?_
  refine .when _ _ (fun u hu => ?_) ?_
  · extract_lets -underBinder -merge -useContext +onlyGivenNames vsrc
    have h_vsrc : Stays [.regs, .leaks] s vsrc := by
      dsimp -zeta only [vsrc]
      refine .app ?_ (State.setFld_stays ..) (by decide)
      exact hu
    clear_value vsrc
    refine .app ?_ (.set_leaks _ _) (by decide)
    exact h_vsrc
  · exact .refl ..

theorem popEffect_stays (t : Nat) (v : Word) (s : State) :
    Stays [.targets] s (popEffect t v s) := by
  unfold popEffect
  extract_lets -underBinder -merge -useContext +onlyGivenNames x x1 x2
  refine .app ?_ (setTarget_stays ..) (by decide)
  exact .refl ..

theorem execTargetPop_stays (req : Requester) (t : Nat) (v : Word) (s : State) :
    Answers [.regs, .bus, .seen, .fabric, .targets, .stopped] s (execTargetPop req t v s) := by
  unfold execTargetPop
  refine .next ?_
  refine .when _ _ (fun u hu => ?_) ?_
  · refine withWrite_stays _ _ _ _ _ ?_ (by decide) ?_
    · intro u1 hu1
      refine .app ?_ (popEffect_stays ..) (by decide)
      exact hu1
    · exact hu
  · exact .refl ..

end Sys2Proof.Machine
end

