-- ==== Sys2Proof/Laws/StaysHaz.lean ====
section
/-! SUPPORT. What the operations and meanings of Machine/Haz do at most. -/

set_option linter.all false
set_option maxRecDepth 4000

namespace Sys2Proof.Machine

theorem hazResult_stays (outcome : Nat) (code : Nat) (e : Nat) (s : State) :
    Stays [.regs] s (hazResult outcome code e s) := by
  unfold hazResult
  refine .app ?_ (State.setReg_stays ..) (by decide)
  exact .refl ..

theorem hazRefused_stays (code : Nat) (s : State) :
    Stays [.regs, .seen, .fabric] s (hazRefused code s) := by
  unfold hazRefused
  refine .app ?_ (raise_stays ..) (by decide)
  refine .app ?_ (hazResult_stays ..) (by decide)
  exact .refl ..

theorem hazCommand_stays {P : List Piece} {s0 : State} (op : Nat) (req : Requester) (v : Word) (f : State → State) (s : State) (h_f : ∀ u, Stays P s0 u → Stays P s0 (f u)) (hq : sub [.regs, .bus, .seen, .fabric, .stopped] P = true) (h0 : Stays P s0 s) :
    Stays P s0 (hazCommand op req v f s) := by
  unfold hazCommand
  refine .when _ _ (fun u hu => ?_) ?_
  · refine withWrite_stays _ _ _ _ _ ?_ (sub_trans (by decide) hq) ?_
    · intro u1 hu1
      refine h_f _ ?_
      exact hu1
    · exact hu
  · exact h0

theorem execHazEnter_stays (req : Requester) (v : Word) (s : State) :
    Answers [.regs, .bus, .seen, .fabric, .stopped, .slip] s (execHazEnter req v s) := by
  unfold execHazEnter
  refine .next ?_
  refine hazCommand_stays _ _ _ _ _ ?_ (by decide) ?_
  · intro u hu
    extract_lets -underBinder -merge -useContext +onlyGivenNames lba n task
    split
    · rename_i x1 e
      refine .app ?_ (hazRefused_stays ..) (by decide)
      refine .app ?_ (sayFull_stays ..) (by decide)
      exact hu
    · rename_i x1 e1 e2
      extract_lets -underBinder -merge -useContext +onlyGivenNames x wait
      refine .ite ?_ ?_
      · refine .app ?_ (hazRefused_stays ..) (by decide)
        exact hu
      · refine .app ?_ (hazResult_stays ..) (by decide)
        refine .app ?_ (enterHaz_stays ..) (by decide)
        exact hu
  · exact .refl ..

theorem execHazRelease_stays (req : Requester) (v : Word) (s : State) :
    Answers [.regs, .bus, .seen, .fabric, .queues, .ended, .stopped, .free, .returned, .mem, .checks, .boat, .slip, .cryptos] s (execHazRelease req v s) := by
  unfold execHazRelease
  refine .next ?_
  refine hazCommand_stays _ _ _ _ _ ?_ (by decide) ?_
  · intro u hu
    extract_lets -underBinder -merge -useContext +onlyGivenNames e
    refine .ite ?_ ?_
    · refine .app ?_ (hostDrain_stays ..) (by decide)
      refine .app ?_ (hazResult_stays ..) (by decide)
      refine .app ?_ (dropHaz_stays ..) (by decide)
      exact hu
    · refine .app ?_ (hazRefused_stays ..) (by decide)
      exact hu
  · exact .refl ..

theorem execFwReady_stays (s : State) :
    Answers [.regs, .seen, .fabric, .queues, .ended, .stopped, .free, .returned, .mem, .checks, .boat, .slip, .cryptos] s (execFwReady s) := by
  unfold execFwReady
  refine .next ?_
  refine .when _ _ (fun u hu => ?_) ?_
  · extract_lets -underBinder -merge -useContext +onlyGivenNames s1
    have h_s1 : Stays [.regs, .seen, .fabric, .queues, .ended, .stopped, .free, .returned, .mem, .checks, .boat, .slip, .cryptos] s s1 := by
      dsimp -zeta only [s1]
      refine .app ?_ (hostDrain_stays ..) (by decide)
      exact hu
    clear_value s1
    split
    · rename_i x1 y1 e
      extract_lets -underBinder -merge -useContext +onlyGivenNames vsrc
      refine .app ?_ (raise_stays ..) (by decide)
      refine .app ?_ (setHaz_stays ..) (by decide)
      exact h_s1
    · rename_i x1 e
      exact h_s1
  · exact .refl ..

theorem execHazFwCmdUnlisted_stays (req : Requester) (v : Word) (s : State) :
    Answers [.regs, .bus, .seen, .fabric, .stopped] s (execHazFwCmdUnlisted req v s) := by
  unfold execHazFwCmdUnlisted
  refine .next ?_
  refine .when _ _ (fun u hu => ?_) ?_
  · refine withWrite_stays _ _ _ _ _ ?_ (by decide) ?_
    · intro u1 hu1
      refine .app ?_ (hazRefused_stays ..) (by decide)
      exact hu1
    · exact hu
  · exact .refl ..

end Sys2Proof.Machine
end

