-- ==== Sys2Proof/Laws/StaysHostData.lean ====
section
/-! SUPPORT. What the operations and meanings of Machine/HostData do at most. -/

set_option linter.all false
set_option maxRecDepth 4000

namespace Sys2Proof.Machine

theorem dataStop_stays (t : HostTask) (code : Nat) (lba : Nat) (s : State) :
    Stays [.regs, .seen, .fabric, .stopped] s (dataStop t code lba s) := by
  unfold dataStop
  extract_lets -underBinder -merge -useContext +onlyGivenNames pl s1
  have h_s1 : Stays [.regs, .seen, .fabric, .stopped] s s1 := by
    dsimp -zeta only [s1]
    refine .ite ?_ ?_
    · refine .app ?_ (State.count_stays ..) (by decide)
      exact .refl ..
    · refine .app ?_ (State.count_stays ..) (by decide)
      exact .refl ..
  clear_value s1
  refine .ite ?_ ?_
  · refine .app ?_ (lasting_stays ..) (by decide)
    exact h_s1
  · refine .app ?_ (raise_stays ..) (by decide)
    exact h_s1

theorem sendXferRdy_stays (t : HostTask) (l : Nat) (offset : Nat) (len : Nat) (s : State) :
    Stays [.regs, .seen, .fabric, .slip] s (sendXferRdy t l offset len s) := by
  unfold sendXferRdy
  refine .app ?_ (transmit_stays ..) (by decide)
  exact .refl ..

theorem nextBurst_stays (t : HostTask) (u : Lu) (l : Nat) (s : State) :
    Stays [.regs, .seen, .fabric, .stopped, .mem, .checks, .boat, .slip] s (nextBurst t u l s) := by
  unfold nextBurst
  extract_lets -underBinder -merge -useContext +onlyGivenNames go plain
  split
  · rename_i x1 r1 e
    extract_lets -underBinder -merge -useContext +onlyGivenNames b s1 s2 s3
    have h_s1 : Stays [.regs, .seen, .fabric, .stopped, .mem, .checks, .boat, .slip] s s1 := by
      dsimp -zeta only [s1]
      refine .app ?_ (modBoat_stays ..) (by decide)
      exact .refl ..
    clear_value s1
    have h_s2 : Stays [.regs, .seen, .fabric, .stopped, .mem, .checks, .boat, .slip] s s2 := by
      dsimp -zeta only [s2]
      refine .ite ?_ ?_
      · refine .app ?_ (releaseDirty_stays ..) (by decide)
        exact h_s1
      · exact h_s1
    clear_value s2
    have h_s3 : Stays [.regs, .seen, .fabric, .stopped, .mem, .checks, .boat, .slip] s s3 := by
      dsimp -zeta only [s3]
      refine .app ?_ (modTask_stays ..) (by decide)
      exact h_s2
    clear_value s3
    refine .ite ?_ ?_
    · exact .refl ..
    · dsimp -zeta only [go]
      refine .app ?_ (sendXferRdy_stays ..) (by decide)
      refine .app ?_ (modTask_stays ..) (by decide)
      refine .ite ?_ ?_
      · exact h_s3
      · refine .app ?_ (putDtab_stays ..) (by decide)
        exact h_s3
  · rename_i x1 e
    refine .ite ?_ ?_
    · dsimp -zeta only [go]
      refine .app ?_ (sendXferRdy_stays ..) (by decide)
      refine .app ?_ (modTask_stays ..) (by decide)
      refine .app ?_ (modTask_stays ..) (by decide)
      refine .app ?_ (modBoat_stays ..) (by decide)
      exact .refl ..
    · exact .refl ..

theorem execXferRdy_stays (task : Nat) (s : State) :
    Answers [.regs, .seen, .fabric, .queues, .ended, .stopped, .free, .returned, .mem, .checks, .boat, .slip, .cryptos] s (execXferRdy task s) := by
  unfold execXferRdy
  refine .next ?_
  refine .when _ _ (fun u hu => ?_) ?_
  · extract_lets -underBinder -merge -useContext +onlyGivenNames s1
    have h_s1 : Stays [.regs, .seen, .fabric, .queues, .ended, .stopped, .free, .returned, .mem, .checks, .boat, .slip, .cryptos] s s1 := by
      dsimp -zeta only [s1]
      refine .app ?_ (hostDrain_stays ..) (by decide)
      exact hu
    clear_value s1
    split
    · rename_i x1 e
      exact h_s1
    · rename_i x1 t1 e
      split
      · rename_i x2 x3 x4 l1 c1 x5 e1 e2
        extract_lets -underBinder -merge -useContext +onlyGivenNames stop
        refine .ite ?_ ?_
        · exact h_s1
        · refine .app ?_ (sendXferRdy_stays ..) (by decide)
          refine .app ?_ (setSvc_stays ..) (by decide)
          exact h_s1
      · rename_i x2 x3 x4 l1 u1 e1 e2 e3
        refine .ite ?_ ?_
        · exact h_s1
        · refine .app ?_ (nextBurst_stays ..) (by decide)
          exact h_s1
      · rename_i x2 x3 x4 e1 e2
        exact h_s1
  · exact .refl ..

theorem landBlock_stays (id : Nat) (u : Lu) (i : Nat) (bytes : List Byte) (s : State) :
    Stays [.regs, .seen, .fabric, .stopped, .mem, .checks, .boat, .slip] s (landBlock id u i bytes s) := by
  unfold landBlock
  split
  · rename_i x1 e
    exact .refl ..
  · rename_i x1 t1 e
    extract_lets -underBinder -merge -useContext +onlyGivenNames a fresh at_ got got_1 n
    refine .app ?_ (modTask_stays ..) (by decide)
    refine .app ?_ (storeBytes_stays ..) (by decide)
    exact .refl ..

theorem writePiStop_stays (t : HostTask) (i : Nat) (ascq : Nat) (s : State) :
    Stays [.regs, .seen, .fabric, .stopped, .mem, .checks, .boat, .slip] s (writePiStop t i ascq s) := by
  unfold writePiStop
  refine .app ?_ (failTask_stays ..) (by decide)
  refine .app ?_ (stopTask_stays ..) (by decide)
  refine .app ?_ (dataStop_stays ..) (by decide)
  exact .refl ..

theorem landData_stays (id : Nat) (u : Lu) (a : Nat) (a1 : Nat) (a2 : List Byte) (a3 : State) :
    Stays [.regs, .seen, .fabric, .stopped, .mem, .checks, .boat, .slip] a3 (landData id u a a1 a2 a3) := by
  induction a generalizing id u a1 a2 a3 with
  | zero =>
    unfold landData
    refine .app ?_ (modTask_stays ..) (by decide)
    exact .refl ..
  | succ n ih =>
    unfold landData
    split
    · rename_i x1 e
      exact .refl ..
    · rename_i x1 t1 e
      extract_lets -underBinder -merge -useContext +onlyGivenNames blk data stored
      refine .ite ?_ ?_
      · refine .app ?_ (modTask_stays ..) (by decide)
        exact .refl ..
      · split
        · rename_i x2 e1 e2
          refine .app ?_ (writePiStop_stays ..) (by decide)
          exact .refl ..
        · rename_i x2 e1
          refine .app ?_ (ih ..) (by decide)
          refine .app ?_ (landBlock_stays ..) (by decide)
          exact .refl ..

theorem landCarry_stays (id : Nat) (u : Lu) (s : State) :
    Stays [.regs, .seen, .fabric, .stopped, .mem, .checks, .boat, .slip] s (landCarry id u s) := by
  unfold landCarry
  split
  · rename_i x1 e
    exact .refl ..
  · rename_i x1 t1 e
    refine underCredit_stays _ _ _ ?_ (by decide) ?_
    · intro u1 hu
      extract_lets -underBinder -merge -useContext +onlyGivenNames s1
      have h_s1 : Stays [.regs, .seen, .fabric, .stopped, .mem, .checks, .boat, .slip] s s1 := by
        dsimp -zeta only [s1]
        refine .app ?_ (landData_stays ..) (by decide)
        exact hu
      clear_value s1
      refine .app ?_ (modTask_stays ..) (by decide)
      exact h_s1
    · exact .refl ..

theorem takeData_stays (t : HostTask) (u : Lu) (data : List Byte) (s : State) :
    Stays [.regs, .seen, .fabric, .stopped, .mem, .checks, .boat, .slip] s (takeData t u data s) := by
  unfold takeData
  extract_lets -underBinder -merge -useContext +onlyGivenNames n
  refine .app ?_ (landCarry_stays ..) (by decide)
  refine .app ?_ (modTask_stays ..) (by decide)
  exact .refl ..

theorem landSvc_stays (c : Nat) (s : State) :
    Stays [.regs, .seen, .fabric, .stopped, .mem, .checks, .boat, .slip] s (landSvc c s) := by
  unfold landSvc
  split
  · rename_i x1 e
    exact .refl ..
  · rename_i x1 x2 e
    extract_lets -underBinder -merge -useContext +onlyGivenNames all k
    refine .ite ?_ ?_
    · exact .refl ..
    · refine underCredit_stays _ _ _ ?_ (by decide) ?_
      · intro u hu
        refine .app ?_ (setSvc_stays ..) (by decide)
        refine .app ?_ (storeBytes_stays ..) (by decide)
        exact hu
      · exact .refl ..

theorem takeSvcData_stays (c : Nat) (x : SvcOp) (data : List Byte) (s : State) :
    Stays [.regs, .seen, .fabric, .stopped, .mem, .checks, .boat, .slip] s (takeSvcData c x data s) := by
  unfold takeSvcData
  extract_lets -underBinder -merge -useContext +onlyGivenNames n
  refine .app ?_ (landSvc_stays ..) (by decide)
  refine .app ?_ (setSvc_stays ..) (by decide)
  exact .refl ..

theorem landWaiting_stays (s : State) :
    Stays [.regs, .seen, .fabric, .stopped, .mem, .checks, .boat, .slip] s (landWaiting s) := by
  unfold landWaiting
  extract_lets -underBinder -merge -useContext +onlyGivenNames s1
  have h_s1 : Stays [.regs, .seen, .fabric, .stopped, .mem, .checks, .boat, .slip] s s1 := by
    dsimp -zeta only [s1]
    refine .foldl _ _ (fun u x hu => ?_) ?_
    · split
      · rename_i x1 u1 e
        refine .ite ?_ ?_
        · exact hu
        · refine .app ?_ (landCarry_stays ..) (by decide)
          exact hu
      · rename_i x1 e
        exact hu
    · exact .refl ..
  clear_value s1
  refine .foldl _ _ (fun u x hu => ?_) ?_
  · refine .ite ?_ ?_
    · refine .app ?_ (landSvc_stays ..) (by decide)
      exact hu
    · exact hu
  · exact h_s1

theorem hostGo_stays (s : State) :
    Stays [.regs, .seen, .fabric, .queues, .ended, .stopped, .free, .returned, .mem, .checks, .boat, .slip, .cryptos] s (hostGo s) := by
  unfold hostGo
  refine .app ?_ (hostDrain_stays ..) (by decide)
  refine .app ?_ (landWaiting_stays ..) (by decide)
  refine .app ?_ (hostDrain_stays ..) (by decide)
  exact .refl ..

theorem tooMuch_stays (lane : Nat) (t : HostTask) (s : State) :
    Stays [.regs, .seen, .fabric, .stopped, .mem, .checks, .boat, .slip] s (tooMuch lane t s) := by
  unfold tooMuch
  refine .app ?_ (failTask_stays ..) (by decide)
  refine .app ?_ (stopTask_stays ..) (by decide)
  refine .app ?_ (raise_stays ..) (by decide)
  exact .refl ..

theorem execDataFrame_stays (lane : Nat) (n : Nat) (tag : Nat) (offset : Nat) (data : List Byte) (s : State) :
    Answers [.regs, .seen, .fabric, .queues, .ended, .stopped, .free, .returned, .mem, .checks, .boat, .slip, .cryptos] s (execDataFrame lane n tag offset data s) := by
  unfold execDataFrame
  refine .next ?_
  refine .when _ _ (fun u hu => ?_) ?_
  · extract_lets -underBinder -merge -useContext +onlyGivenNames s1
    have h_s1 : Stays [.regs, .seen, .fabric, .queues, .ended, .stopped, .free, .returned, .mem, .checks, .boat, .slip, .cryptos] s s1 := by
      dsimp -zeta only [s1]
      refine .app ?_ (hostGo_stays ..) (by decide)
      exact hu
    clear_value s1
    split
    · rename_i x1 e
      refine .app ?_ (raise_stays ..) (by decide)
      exact h_s1
    · rename_i x1 t1 e
      refine .ite ?_ ?_
      · exact h_s1
      · split
        · rename_i x2 x3 c1 x4 e1
          refine .ite ?_ ?_
          · refine .app ?_ (hostDrain_stays ..) (by decide)
            refine .app ?_ (takeSvcData_stays ..) (by decide)
            exact h_s1
          · refine .app ?_ (hostDrain_stays ..) (by decide)
            refine .app ?_ (setSvc_stays ..) (by decide)
            refine .app ?_ (raise_stays ..) (by decide)
            exact h_s1
        · rename_i x2 x3 u1 e1 e2
          refine .ite ?_ ?_
          · exact h_s1
          · refine .ite ?_ ?_
            · refine .app ?_ (hostDrain_stays ..) (by decide)
              refine .app ?_ (takeData_stays ..) (by decide)
              exact h_s1
            · refine .app ?_ (hostDrain_stays ..) (by decide)
              refine .app ?_ (tooMuch_stays ..) (by decide)
              exact h_s1
        · rename_i x2 x3 e1 e2
          refine .app ?_ (hostDrain_stays ..) (by decide)
          refine .app ?_ (tooMuch_stays ..) (by decide)
          exact h_s1
  · exact .refl ..

theorem fetchBlock_stays (t : HostTask) (u : Lu) (b : Nat) (s : State) :
    Stays [.regs, .seen, .fabric, .stopped, .checks, .boat] s (fetchBlock t u b s).2 := by
  unfold fetchBlock
  extract_lets -underBinder -merge -useContext +onlyGivenNames off n g own r bytes
  have h_r : Stays [.regs, .seen, .fabric, .stopped, .checks, .boat] s r.2.2.2 := by
    dsimp -zeta only [r]
    refine .app ?_ (readGranules_stays ..) (by decide)
    exact .refl ..
  clear_value r
  split
  · rename_i e
    refine .pair ?_
    exact h_r
  · rename_i e
    split
    · rename_i e1
      refine .pair ?_
      exact h_r
    · rename_i e1
      split
      · rename_i e2
        refine .pair ?_
        exact h_r
      · rename_i e2
        split
        · rename_i x1 e3 e4
          refine .pair ?_
          exact h_r
        · rename_i x1 e3
          refine .pair ?_
          exact h_r

theorem fetchBlocks_stays (t : HostTask) (u : Lu) (a : Nat) (a1 : Nat) (a2 : State) :
    Stays [.regs, .seen, .fabric, .stopped, .checks, .boat] a2 (fetchBlocks t u a a1 a2).2 := by
  induction a generalizing t u a1 a2 with
  | zero =>
    unfold fetchBlocks
    dsimp -zeta only
    exact .refl ..
  | succ n ih =>
    unfold fetchBlocks
    split
    · rename_i x1 bs1 v1 e
      extract_lets -underBinder -merge -useContext +onlyGivenNames r
      have h_r : Stays [.regs, .seen, .fabric, .stopped, .checks, .boat] a2 r.2 := by
        dsimp -zeta only [r]
        refine .app ?_ (ih ..) (by decide)
        refine .snd e ?_
        refine .app ?_ (fetchBlock_stays ..) (by decide)
        exact .refl ..
      clear_value r
      refine .pair ?_
      exact h_r
    · rename_i x1 x2 v1 e e1
      refine .pair ?_
      refine .snd e1 ?_
      refine .app ?_ (fetchBlock_stays ..) (by decide)
      exact .refl ..

theorem frameStop_stays (t : HostTask) (b : Nat) (x : BlockFetch) (s : State) :
    Stays [.regs, .seen, .fabric, .stopped, .slip] s (frameStop t b x s) := by
  unfold frameStop
  split
  · rename_i x1 bytes1
    exact .refl ..
  · rename_i x1
    extract_lets -underBinder -merge -useContext +onlyGivenNames m
    refine .app ?_ (modTask_stays ..) (by decide)
    exact .refl ..
  · rename_i x1
    refine .app ?_ (failTask_stays ..) (by decide)
    refine .app ?_ (dataStop_stays ..) (by decide)
    exact .refl ..
  · rename_i x1 e1
    refine .app ?_ (failTask_stays ..) (by decide)
    refine .app ?_ (dataStop_stays ..) (by decide)
    exact .refl ..

theorem sendNext_stays (t : HostTask) (u : Lu) (l : Nat) (s : State) :
    Stays [.regs, .seen, .fabric, .stopped, .checks, .boat, .slip] s (sendNext t u l s) := by
  unfold sendNext
  extract_lets -underBinder -merge -useContext +onlyGivenNames lb len b0 nb
  refine .ite ?_ ?_
  · exact .refl ..
  · refine underCredit_stays _ _ _ ?_ (by decide) ?_
    · intro u1 hu
      split
      · rename_i x1 fst1 b1 x2 v1 e
        refine .app ?_ (frameStop_stays ..) (by decide)
        refine .snd e ?_
        refine .app ?_ (fetchBlocks_stays ..) (by decide)
        exact hu
      · rename_i x1 bs1 v1 e
        refine .app ?_ (transmit_stays ..) (by decide)
        refine .app ?_ (modTask_stays ..) (by decide)
        refine .snd e ?_
        refine .app ?_ (fetchBlocks_stays ..) (by decide)
        exact hu
    · exact .refl ..

theorem sendSvcData_stays (t : HostTask) (c : Nat) (x : SvcOp) (l : Nat) (s : State) :
    Stays [.regs, .seen, .fabric, .stopped, .checks, .boat, .slip] s (sendSvcData t c x l s) := by
  unfold sendSvcData
  extract_lets -underBinder -merge -useContext +onlyGivenNames len
  refine .ite ?_ ?_
  · exact .refl ..
  · refine underCredit_stays _ _ _ ?_ (by decide) ?_
    · intro u hu
      extract_lets -underBinder -merge -useContext +onlyGivenNames r
      have h_r : Stays [.regs, .seen, .fabric, .stopped, .checks, .boat, .slip] s r.2.2 := by
        dsimp -zeta only [r]
        refine .app ?_ (fetchBytes_stays ..) (by decide)
        exact hu
      clear_value r
      refine .ite ?_ ?_
      · refine .app ?_ (setSvc_stays ..) (by decide)
        exact h_r
      · refine .app ?_ (transmit_stays ..) (by decide)
        refine .app ?_ (setSvc_stays ..) (by decide)
        exact h_r
    · exact .refl ..

theorem execSendData_stays (task : Nat) (s : State) :
    Answers [.regs, .seen, .fabric, .queues, .ended, .stopped, .free, .returned, .mem, .checks, .boat, .slip, .cryptos] s (execSendData task s) := by
  unfold execSendData
  refine .next ?_
  refine .when _ _ (fun u hu => ?_) ?_
  · extract_lets -underBinder -merge -useContext +onlyGivenNames s1
    have h_s1 : Stays [.regs, .seen, .fabric, .queues, .ended, .stopped, .free, .returned, .mem, .checks, .boat, .slip, .cryptos] s s1 := by
      dsimp -zeta only [s1]
      refine .app ?_ (hostGo_stays ..) (by decide)
      exact hu
    clear_value s1
    split
    · rename_i x1 e
      exact h_s1
    · rename_i x1 t1 e
      split
      · rename_i x2 x3 x4 l1 c1 x5 e1 e2
        refine .ite ?_ ?_
        · exact h_s1
        · refine .app ?_ (sendSvcData_stays ..) (by decide)
          exact h_s1
      · rename_i x2 x3 x4 l1 u1 e1 e2 e3
        refine .ite ?_ ?_
        · exact h_s1
        · refine .app ?_ (hostDrain_stays ..) (by decide)
          refine .app ?_ (sendNext_stays ..) (by decide)
          exact h_s1
      · rename_i x2 x3 x4 e1 e2
        exact h_s1
  · exact .refl ..

theorem execSendResponse_stays (task : Nat) (s : State) :
    Answers [.regs, .seen, .fabric, .queues, .ended, .stopped, .free, .returned, .mem, .checks, .boat, .slip, .cryptos] s (execSendResponse task s) := by
  unfold execSendResponse
  refine .next ?_
  refine .when _ _ (fun u hu => ?_) ?_
  · extract_lets -underBinder -merge -useContext +onlyGivenNames s1
    have h_s1 : Stays [.regs, .seen, .fabric, .queues, .ended, .stopped, .free, .returned, .mem, .checks, .boat, .slip, .cryptos] s s1 := by
      dsimp -zeta only [s1]
      refine .app ?_ (hostGo_stays ..) (by decide)
      exact hu
    clear_value s1
    split
    · rename_i x1 e
      exact h_s1
    · rename_i x1 t1 e
      split
      · rename_i x2 x3 l1 a1 e1 e2
        extract_lets -underBinder -merge -useContext +onlyGivenNames s2 s3
        have h_s2 : Stays [.regs, .seen, .fabric, .queues, .ended, .stopped, .free, .returned, .mem, .checks, .boat, .slip, .cryptos] s s2 := by
          dsimp -zeta only [s2]
          split
          · rename_i x4 fst1 x5 e3
            refine .app ?_ (setSvc_stays ..) (by decide)
            exact h_s1
          · rename_i x4 e3
            exact h_s1
        clear_value s2
        have h_s3 : Stays [.regs, .seen, .fabric, .queues, .ended, .stopped, .free, .returned, .mem, .checks, .boat, .slip, .cryptos] s s3 := by
          dsimp -zeta only [s3]
          refine .ite ?_ ?_
          · refine .app ?_ (State.useFree_stays ..) (by decide)
            exact h_s2
          · exact h_s2
        clear_value s3
        refine .app ?_ (hostDrain_stays ..) (by decide)
        refine .app ?_ (transmit_stays ..) (by decide)
        refine .app ?_ (modTask_stays ..) (by decide)
        exact h_s3
      · rename_i x2 x3 e1
        exact h_s1
  · exact .refl ..

theorem svcEnd_stays (c : Nat) (outcome : Nat) (reached : Nat) (task : Nat) (s : State) :
    Stays [.regs, .seen, .fabric] s (svcEnd c outcome reached task s) := by
  unfold svcEnd
  refine .app ?_ (raise_stays ..) (by decide)
  refine .app ?_ (State.setReg_stays ..) (by decide)
  exact .refl ..

theorem svcStart_stays (op : Nat) (req : Requester) (c : Nat) (v : Word) (s : State) :
    Stays [.regs, .bus, .seen, .fabric, .queues, .ended, .stopped, .free, .returned, .mem, .checks, .boat, .slip, .cryptos] s (svcStart op req c v s) := by
  unfold svcStart
  refine .when _ _ (fun u hu => ?_) ?_
  · refine withWrite_stays _ _ _ _ _ ?_ (by decide) ?_
    · intro u1 hu1
      extract_lets -underBinder -merge -useContext +onlyGivenNames s1 task
      have h_s1 : Stays [.regs, .bus, .seen, .fabric, .queues, .ended, .stopped, .free, .returned, .mem, .checks, .boat, .slip, .cryptos] s s1 := by
        dsimp -zeta only [s1]
        refine .app ?_ (hostDrain_stays ..) (by decide)
        refine .app ?_ (State.setBit_stays ..) (by decide)
        refine .app ?_ (storeWrite_stays ..) (by decide)
        exact hu1
      clear_value s1
      split
      · rename_i x1 x2 val1 e
        refine .app ?_ (raise_stays ..) (by decide)
        exact h_s1
      · rename_i x1 x2 e e1
        refine .app ?_ (svcEnd_stays ..) (by decide)
        exact h_s1
      · rename_i x1 x2 t1 e e1
        extract_lets -underBinder -merge -useContext +onlyGivenNames x
        refine .app ?_ (setSvc_stays ..) (by decide)
        refine .app ?_ (State.setReg_stays ..) (by decide)
        exact h_s1
    · exact hu
  · exact .refl ..

theorem execSvcDataIn_stays (req : Requester) (core : Nat) (v : Word) (s : State) :
    Answers [.regs, .bus, .seen, .fabric, .queues, .ended, .stopped, .free, .returned, .mem, .checks, .boat, .slip, .cryptos] s (execSvcDataIn req core v s) := by
  unfold execSvcDataIn
  refine .next ?_
  refine .app ?_ (svcStart_stays ..) (by decide)
  exact .refl ..

theorem execSvcDataOut_stays (req : Requester) (core : Nat) (v : Word) (s : State) :
    Answers [.regs, .bus, .seen, .fabric, .queues, .ended, .stopped, .free, .returned, .mem, .checks, .boat, .slip, .cryptos] s (execSvcDataOut req core v s) := by
  unfold execSvcDataOut
  refine .next ?_
  refine .app ?_ (svcStart_stays ..) (by decide)
  exact .refl ..

theorem execSvcRespond_stays (req : Requester) (core : Nat) (v : Word) (s : State) :
    Answers [.regs, .bus, .seen, .fabric, .queues, .ended, .stopped, .free, .returned, .mem, .checks, .boat, .slip, .cryptos] s (execSvcRespond req core v s) := by
  unfold execSvcRespond
  refine .next ?_
  refine .app ?_ (svcStart_stays ..) (by decide)
  exact .refl ..

theorem execSvcDone_stays (core : Nat) (s : State) :
    Answers [.regs, .seen, .fabric, .queues, .ended, .stopped, .free, .returned, .mem, .checks, .boat, .slip, .cryptos] s (execSvcDone core s) := by
  unfold execSvcDone
  refine .next ?_
  refine .when _ _ (fun u hu => ?_) ?_
  · extract_lets -underBinder -merge -useContext +onlyGivenNames s1
    have h_s1 : Stays [.regs, .seen, .fabric, .queues, .ended, .stopped, .free, .returned, .mem, .checks, .boat, .slip, .cryptos] s s1 := by
      dsimp -zeta only [s1]
      refine .app ?_ (hostGo_stays ..) (by decide)
      exact hu
    clear_value s1
    split
    · rename_i x1 e
      exact h_s1
    · rename_i x1 x2 e
      split
      · rename_i x3 e1
        exact h_s1
      · rename_i x3 o1 e1
        extract_lets -underBinder -merge -useContext +onlyGivenNames i
        refine .app ?_ (hostDrain_stays ..) (by decide)
        refine .app ?_ (svcEnd_stays ..) (by decide)
        refine .app ?_ (setSvc_stays ..) (by decide)
        exact h_s1
  · exact .refl ..

end Sys2Proof.Machine
end

