-- ==== Sys2Proof/Laws/StaysJrnl.lean ====
section
/-! SUPPORT. What the operations and meanings of Machine/Jrnl do at most. -/

set_option linter.all false
set_option maxRecDepth 4000

namespace Sys2Proof.Machine

theorem markJournalled_stays (seqs : List Nat) (s : State) :
    Stays [.crew] s (markJournalled seqs s) := by
  unfold markJournalled
  refine .app ?_ (modCrew_stays ..) (by decide)
  exact .refl ..

theorem pushCopy_stays (e : Nat) (off : Nat) (n : Nat) (s : State) (m : Nat × Nat) :
    Stays [.regs, .seen, .fabric, .crit, .stopped, .safePending, .crew] s (pushCopy e off n s m) := by
  unfold pushCopy
  split
  · rename_i x1 e1
    refine .app ?_ (copyLost_stays ..) (by decide)
    exact .refl ..
  · rename_i x1 t1 sec1 e1
    extract_lets -underBinder -merge -useContext +onlyGivenNames tag pkt
    refine .app ?_ (modCrew_stays ..) (by decide)
    exact .refl ..

theorem writeSector_stays (e : Nat) (s : State) :
    Stays [.regs, .seen, .fabric, .crit, .queues, .ended, .stopped, .safePending, .returned, .mem, .checks, .boat, .crew] s (writeSector e s) := by
  unfold writeSector
  extract_lets -underBinder -merge -useContext +onlyGivenNames n rs
  refine .ite ?_ ?_
  · refine .app ?_ (markJournalled_stays ..) (by decide)
    exact .refl ..
  · split
    · rename_i x1 e1
      exact .refl ..
    · rename_i x1 a1 e1
      extract_lets -underBinder -merge -useContext +onlyGivenNames oldest s1 s2
      have h_s1 : Stays [.regs, .seen, .fabric, .crit, .queues, .ended, .stopped, .safePending, .returned, .mem, .checks, .boat, .crew] s s1 := by
        dsimp -zeta only [s1]
        refine .app ?_ (storeBytes_stays ..) (by decide)
        exact .refl ..
      clear_value s1
      have h_s2 : Stays [.regs, .seen, .fabric, .crit, .queues, .ended, .stopped, .safePending, .returned, .mem, .checks, .boat, .crew] s s2 := by
        dsimp -zeta only [s2]
        refine .app ?_ (modCrew_stays ..) (by decide)
        exact h_s1
      clear_value s2
      refine .app ?_ (flushCrew_stays ..) (by decide)
      refine .foldl _ _ (fun u x hu => ?_) ?_
      · refine .app ?_ (pushCopy_stays ..) (by decide)
        exact hu
      · exact h_s2

theorem execJournalSectorWrite_stays (e : Nat) (s : State) :
    Answers [.regs, .seen, .fabric, .crit, .queues, .ended, .stopped, .safePending, .returned, .mem, .checks, .boat, .crew] s (execJournalSectorWrite e s) := by
  unfold execJournalSectorWrite
  refine .next ?_
  refine .when _ _ (fun u hu => ?_) ?_
  · refine .ite ?_ ?_
    · refine .ite ?_ ?_
      · exact hu
      · refine .app ?_ (raise_stays ..) (by decide)
        refine .app ?_ (modCrew_stays ..) (by decide)
        exact hu
    · refine underCredit_stays _ _ _ ?_ (by decide) ?_
      · intro u1 hu1
        refine .app ?_ (writeSector_stays ..) (by decide)
        exact hu1
      · exact hu
  · exact .refl ..

theorem execJournalWritten_stays (s : State) :
    Answers [.regs, .seen, .fabric, .crit, .queues, .ended, .stopped, .safePending, .returned, .consumed, .boat, .crew] s (execJournalWritten s) := by
  unfold execJournalWritten
  refine .next ?_
  refine .when _ _ (fun u hu => ?_) ?_
  · extract_lets -underBinder -merge -useContext +onlyGivenNames s1
    have h_s1 : Stays [.regs, .seen, .fabric, .crit, .queues, .ended, .stopped, .safePending, .returned, .consumed, .boat, .crew] s s1 := by
      dsimp -zeta only [s1]
      refine .app ?_ (crewDrain_stays ..) (by decide)
      exact hu
    clear_value s1
    split
    · rename_i x1 w1 e
      extract_lets -underBinder -merge -useContext +onlyGivenNames seqs
      refine .ite ?_ ?_
      · exact h_s1
      · refine .app ?_ (markJournalled_stays ..) (by decide)
        refine .app ?_ (modCrew_stays ..) (by decide)
        exact h_s1
    · rename_i x1 e
      exact h_s1
  · exact .refl ..

theorem execJrnlStart_stays (req : Requester) (v : Word) (s : State) :
    Answers [.regs, .bus, .seen, .fabric, .crit, .stopped, .safePending, .crew] s (execJrnlStart req v s) := by
  unfold execJrnlStart
  refine .next ?_
  refine .when _ _ (fun u hu => ?_) ?_
  · refine withWrite_stays _ _ _ _ _ ?_ (by decide) ?_
    · intro u1 hu1
      refine .ite ?_ ?_
      · refine .app ?_ (modCrew_stays ..) (by decide)
        refine .app ?_ (State.setCritFld_stays ..) (by decide)
        exact hu1
      · exact hu1
    · exact hu
  · exact .refl ..

theorem execJrnlClose_stays (req : Requester) (v : Word) (s : State) :
    Answers [.regs, .bus, .seen, .fabric, .stopped, .crew] s (execJrnlClose req v s) := by
  unfold execJrnlClose
  refine .next ?_
  refine .when _ _ (fun u hu => ?_) ?_
  · refine withWrite_stays _ _ _ _ _ ?_ (by decide) ?_
    · intro u1 hu1
      refine .ite ?_ ?_
      · refine .app ?_ (modCrew_stays ..) (by decide)
        exact hu1
      · exact hu1
    · exact hu
  · exact .refl ..

theorem execJrnlClosed_stays (s : State) :
    Answers [.regs, .seen, .fabric, .crit, .safePending, .crew] s (execJrnlClosed s) := by
  unfold execJrnlClosed
  refine .next ?_
  refine .when _ _ (fun u hu => ?_) ?_
  · refine .app ?_ (modCrew_stays ..) (by decide)
    refine .app ?_ (State.setCritFld_stays ..) (by decide)
    exact hu
  · exact .refl ..

theorem replayResult_stays (outcome : Nat) (s : State) :
    Stays [.regs, .seen, .fabric, .crew] s (replayResult outcome s) := by
  unfold replayResult
  extract_lets -underBinder -merge -useContext +onlyGivenNames w
  refine .app ?_ (raise_stays ..) (by decide)
  refine .app ?_ (modCrew_stays ..) (by decide)
  refine .app ?_ (State.setReg_stays ..) (by decide)
  exact .refl ..

theorem readRings_stays (e : Nat) (s : State) :
    Stays [.regs, .seen, .fabric, .queues, .ended, .returned, .boat, .crew] s (readRings e s) := by
  unfold readRings
  refine withStripe_stays _ _ _ ?_ (by decide) ?_
  · intro u hu
    refine .app ?_ (pushRings_stays ..) (by decide)
    refine .app ?_ (addJob_stays ..) (by decide)
    exact hu
  · exact .refl ..

theorem execJrnlReplay_stays (req : Requester) (v : Word) (s : State) :
    Answers [.regs, .bus, .seen, .fabric, .queues, .ended, .stopped, .returned, .boat, .crew] s (execJrnlReplay req v s) := by
  unfold execJrnlReplay
  refine .next ?_
  refine .when _ _ (fun u hu => ?_) ?_
  · refine withWrite_stays _ _ _ _ _ ?_ (by decide) ?_
    · intro u1 hu1
      split
      · rename_i x1 e
        exact hu1
      · rename_i x1 e1 e2
        extract_lets -underBinder -merge -useContext +onlyGivenNames src rs s1 bad
        have h_s1 : Stays [.regs, .bus, .seen, .fabric, .queues, .ended, .stopped, .returned, .boat, .crew] s s1 := by
          dsimp -zeta only [s1]
          refine .app ?_ (modCrew_stays ..) (by decide)
          exact hu1
        clear_value s1
        refine .ite ?_ ?_
        · exact hu1
        · refine .ite ?_ ?_
          · refine .app ?_ (replayResult_stays ..) (by decide)
            exact h_s1
          · refine .ite ?_ ?_
            · refine .app ?_ (readRings_stays ..) (by decide)
              exact h_s1
            · exact h_s1
    · exact hu
  · exact .refl ..

theorem replayResync_stays (b : Nat) (s : State) :
    Stays [.regs, .seen, .fabric, .stopped, .mem, .checks, .boat, .crew] s (replayResync b s) := by
  unfold replayResync
  refine .ite ?_ ?_
  · exact .refl ..
  · refine .app ?_ (modCrew_stays ..) (by decide)
    refine .app ?_ (startResync_stays ..) (by decide)
    exact .refl ..

theorem useRings_stays (j : StripeJob) (src : Nat) (s : State) :
    Stays [.regs, .seen, .fabric, .stopped, .mem, .checks, .boat, .crew] s (useRings j src s) := by
  unfold useRings
  extract_lets -underBinder -merge -useContext +onlyGivenNames m
  split
  · rename_i x1 e
    refine .ite ?_ ?_
    · refine .app ?_ (dropJob_stays ..) (by decide)
      exact .refl ..
    · refine .app ?_ (replayResult_stays ..) (by decide)
      refine .app ?_ (dropJob_stays ..) (by decide)
      exact .refl ..
  · rename_i x1 top1 e
    extract_lets -underBinder -merge -useContext +onlyGivenNames all s1 others s2
    have h_s1 : Stays [.regs, .seen, .fabric, .stopped, .mem, .checks, .boat, .crew] s s1 := by
      dsimp -zeta only [s1]
      refine .app ?_ (modCrew_stays ..) (by decide)
      exact .refl ..
    clear_value s1
    have h_s2 : Stays [.regs, .seen, .fabric, .stopped, .mem, .checks, .boat, .crew] s s2 := by
      dsimp -zeta only [s2]
      refine .foldl _ _ (fun u x hu => ?_) ?_
      · refine .ite ?_ ?_
        · refine .ite ?_ ?_
          · refine .app ?_ (replayResync_stays ..) (by decide)
            exact hu
          · exact hu
        · refine .ite ?_ ?_
          · refine .ite ?_ ?_
            · refine .app ?_ (replayResync_stays ..) (by decide)
              refine .app ?_ (raise_stays ..) (by decide)
              exact hu
            · exact hu
          · refine .app ?_ (lasting_stays ..) (by decide)
            refine .app ?_ (replayResync_stays ..) (by decide)
            exact hu
      · exact h_s1
    clear_value s2
    refine .ite ?_ ?_
    · exact h_s1
    · refine .app ?_ (dropJob_stays ..) (by decide)
      exact h_s2

theorem replayRecord_stays (e : Nat) (r : List Word) (s : State) :
    Stays [.regs, .seen, .fabric, .crit, .queues, .ended, .stopped, .free, .safePending, .oars, .sweep, .gates, .returned, .mem, .checks, .boat, .crew, .cryptos] s (replayRecord e r s) := by
  unfold replayRecord
  extract_lets -underBinder -merge -useContext +onlyGivenNames f ws b s1 kind
  have h_s1 : Stays [.regs, .seen, .fabric, .crit, .queues, .ended, .stopped, .free, .safePending, .oars, .sweep, .gates, .returned, .mem, .checks, .boat, .crew, .cryptos] s s1 := by
    dsimp -zeta only [s1]
    refine .app ?_ (modCrew_stays ..) (by decide)
    exact .refl ..
  clear_value s1
  refine .ite ?_ ?_
  · refine .app ?_ (modCrew_stays ..) (by decide)
    exact h_s1
  · refine .app ?_ (stepJob_stays ..) (by decide)
    refine .app ?_ (addJob_stays ..) (by decide)
    exact h_s1

theorem replayNext_stays (e : Nat) (ring : Option StripeJob) (r : List Word) (s : State) :
    Stays [.regs, .seen, .fabric, .crit, .queues, .ended, .stopped, .free, .safePending, .oars, .sweep, .gates, .returned, .mem, .checks, .boat, .crew, .cryptos] s (replayNext e ring r s) := by
  unfold replayNext
  extract_lets -underBinder -merge -useContext +onlyGivenNames copies
  refine .ite ?_ ?_
  · refine .app ?_ (replayRecord_stays ..) (by decide)
    exact .refl ..
  · split
    · rename_i x1 o1 e1
      refine .app ?_ (replayRecord_stays ..) (by decide)
      refine .app ?_ (raise_stays ..) (by decide)
      exact .refl ..
    · rename_i x1 e1
      refine .app ?_ (lasting_stays ..) (by decide)
      refine .app ?_ (replayResync_stays ..) (by decide)
      exact .refl ..

theorem replayAll_stays (e : Nat) (ring : Option StripeJob) (a : List (List Word)) (a1 : State) :
    Stays [.regs, .seen, .fabric, .crit, .queues, .ended, .stopped, .free, .safePending, .oars, .sweep, .gates, .returned, .mem, .checks, .boat, .crew, .cryptos] a1 (replayAll e ring a a1) := by
  induction a generalizing e ring a1 with
  | nil =>
    unfold replayAll
    exact .refl ..
  | cons x l ih =>
    unfold replayAll
    refine .ite ?_ ?_
    · refine withStripe_stays _ _ _ ?_ (by decide) ?_
      · intro u hu
        dsimp -zeta only [id]
        exact hu
      · exact .refl ..
    · refine .app ?_ (ih ..) (by decide)
      refine withStripe_stays _ _ _ ?_ (by decide) ?_
      · intro u hu
        refine .app ?_ (replayNext_stays ..) (by decide)
        refine .app ?_ (modCrew_stays ..) (by decide)
        exact hu
      · exact .refl ..

theorem replayStep_stays (e : Nat) (s : State) :
    Stays [.regs, .seen, .fabric, .crit, .queues, .ended, .stopped, .free, .safePending, .oars, .sweep, .gates, .returned, .mem, .checks, .boat, .crew, .cryptos] s (replayStep e s) := by
  unfold replayStep
  extract_lets -underBinder -merge -useContext +onlyGivenNames ring
  split
  · rename_i x1 e1
    exact .refl ..
  · rename_i x1 rs1 src1 e1
    extract_lets -underBinder -merge -useContext +onlyGivenNames s1 s1_1 s2
    have h_s1 : Stays [.regs, .seen, .fabric, .crit, .queues, .ended, .stopped, .free, .safePending, .oars, .sweep, .gates, .returned, .mem, .checks, .boat, .crew, .cryptos] s s1 := by
      dsimp -zeta only [s1]
      clear_value ring
      split
      · rename_i ring1 j1
        refine .app ?_ (useRings_stays ..) (by decide)
        exact .refl ..
      · rename_i ring1
        exact .refl ..
    clear_value s1
    have h_s1_1 : Stays [.regs, .seen, .fabric, .crit, .queues, .ended, .stopped, .free, .safePending, .oars, .sweep, .gates, .returned, .mem, .checks, .boat, .crew, .cryptos] s s1_1 := by
      dsimp -zeta only [s1_1]
      clear_value ring
      split
      · rename_i ring1 j1
        refine .ite ?_ ?_
        · refine .app ?_ (dropJob_stays ..) (by decide)
          exact .refl ..
        · refine .app ?_ (useRings_stays ..) (by decide)
          exact .refl ..
      · rename_i ring1
        exact .refl ..
    clear_value s1_1
    have h_s2 : Stays [.regs, .seen, .fabric, .crit, .queues, .ended, .stopped, .free, .safePending, .oars, .sweep, .gates, .returned, .mem, .checks, .boat, .crew, .cryptos] s s2 := by
      dsimp -zeta only [s2]
      refine .app ?_ (replayAll_stays ..) (by decide)
      exact h_s1_1
    clear_value s2
    refine .ite ?_ ?_
    · refine .app ?_ (readRings_stays ..) (by decide)
      exact .refl ..
    · refine .ite ?_ ?_
      · exact .refl ..
      · refine .ite ?_ ?_
        · refine .ite ?_ ?_
          · refine .app ?_ (replayResult_stays ..) (by decide)
            exact h_s1
          · exact h_s1
        · refine .ite ?_ ?_
          · refine .app ?_ (replayResult_stays ..) (by decide)
            refine .foldl _ _ (fun u x hu => ?_) ?_
            · refine .ite ?_ ?_
              · exact hu
              · refine .app ?_ (putRecord_stays ..) (by decide)
                exact hu
            · exact h_s2
          · exact h_s2

theorem execReplayDone_stays (s : State) :
    Answers [.regs, .seen, .fabric, .crit, .queues, .ended, .stopped, .free, .safePending, .oars, .sweep, .gates, .returned, .consumed, .mem, .checks, .boat, .crew, .cryptos] s (execReplayDone s) := by
  unfold execReplayDone
  refine .next ?_
  split
  · rename_i x1 e1 e2
    refine .app ?_ (replayStep_stays ..) (by decide)
    refine .app ?_ (crewDrain_stays ..) (by decide)
    exact .refl ..
  · rename_i x1 e
    exact .refl ..

end Sys2Proof.Machine
end

