-- ==== Sys2Proof/Laws/StaysKeel.lean ====
section
/-! SUPPORT. What the operations and meanings of Machine/Keel do at most. -/

set_option linter.all false
set_option maxRecDepth 4000

namespace Sys2Proof.Machine

theorem frameTaken_stays (toRigger : Bool) (m : RiggerMirror) (s : State) :
    Stays [.regs, .seen, .fabric, .stopped, .keel, .rigger, .hda, .rudders, .tunes, .oars, .sweep, .mem, .checks, .boat] s (frameTaken toRigger m s) := by
  unfold frameTaken
  extract_lets -underBinder -merge -useContext +onlyGivenNames s1
  have h_s1 : Stays [.regs, .seen, .fabric, .stopped, .keel, .rigger, .hda, .rudders, .tunes, .oars, .sweep, .mem, .checks, .boat] s s1 := by
    dsimp -zeta only [s1]
    refine .ite ?_ ?_
    · refine .app ?_ (takeHeld_stays ..) (by decide)
      refine .app ?_ (deliverSlots_stays ..) (by decide)
      refine .app ?_ (takeAsked_stays ..) (by decide)
      exact .refl ..
    · refine .app ?_ (frameToCore_stays ..) (by decide)
      exact .refl ..
  clear_value s1
  refine .app ?_ (modRigger_stays ..) (by decide)
  refine .app ?_ (State.setBit_stays ..) (by decide)
  exact h_s1

theorem execBridgeFrame_stays (toRigger : Bool) (crcOk : Bool) (m : RiggerMirror) (s : State) :
    Answers [.regs, .seen, .fabric, .stopped, .keel, .rigger, .safePending, .hda, .rudders, .tunes, .oars, .sweep, .mem, .checks, .boat] s (execBridgeFrame toRigger crcOk m s) := by
  unfold execBridgeFrame
  extract_lets -underBinder -merge -useContext +onlyGivenNames wasBad mark s2
  have h_s2 : Stays [.regs, .seen, .fabric, .stopped, .keel, .rigger, .safePending, .hda, .rudders, .tunes, .oars, .sweep, .mem, .checks, .boat] s s2 := by
    dsimp -zeta only [s2]
    refine .app ?_ (frameTaken_stays ..) (by decide)
    dsimp -zeta only [mark]
    refine .app ?_ (modRigger_stays ..) (by decide)
    exact .refl ..
  clear_value s2
  refine .ite ?_ ?_
  · refine .next ?_
    refine .ite ?_ ?_
    · refine .app ?_ (transient_stays ..) (by decide)
      exact h_s2
    · exact h_s2
  · refine .ite ?_ ?_
    · refine .next ?_
      refine .app ?_ (safeCause_stays ..) (by decide)
      refine .app ?_ (lasting_stays ..) (by decide)
      refine .app ?_ (linkDown_stays ..) (by decide)
      dsimp -zeta only [mark]
      refine .app ?_ (modRigger_stays ..) (by decide)
      exact .refl ..
    · refine .next ?_
      dsimp -zeta only [mark]
      refine .app ?_ (modRigger_stays ..) (by decide)
      refine .app ?_ (State.countFld_stays ..) (by decide)
      exact .refl ..

theorem execRiggerFrameTimeout_stays (quietNs : Nat) (s : State) :
    Answers [.regs, .seen, .fabric, .stopped, .rigger, .hda, .rudders, .tunes, .oars, .mem, .checks, .boat] s (execRiggerFrameTimeout quietNs s) := by
  unfold execRiggerFrameTimeout
  refine .next ?_
  refine .when _ _ (fun u hu => ?_) ?_
  · refine .app ?_ (riggerAutonomous_stays ..) (by decide)
    exact hu
  · exact .refl ..

theorem execBridgeResume_stays (req : Requester) (v : Word) (s : State) :
    Answers [.regs, .bus, .seen, .fabric, .stopped, .rigger] s (execBridgeResume req v s) := by
  unfold execBridgeResume
  refine .next ?_
  refine .when _ _ (fun u hu => ?_) ?_
  · refine withWrite_stays _ _ _ _ _ ?_ (by decide) ?_
    · intro u1 hu1
      refine .app ?_ (bridgeCtrlEffect_stays ..) (by decide)
      exact hu1
    · exact hu
  · exact .refl ..

theorem execClearTrip_stays (req : Requester) (v : Word) (s : State) :
    Answers [.regs, .bus, .seen, .fabric, .stopped, .rigger] s (execClearTrip req v s) := by
  unfold execClearTrip
  refine .next ?_
  refine .when _ _ (fun u hu => ?_) ?_
  · refine withWrite_stays _ _ _ _ _ ?_ (by decide) ?_
    · intro u1 hu1
      refine .app ?_ (bridgeCtrlEffect_stays ..) (by decide)
      exact hu1
    · exact hu
  · exact .refl ..

theorem execRigFault_stays (code : Nat) (s : State) :
    Answers [.regs, .seen, .fabric, .stopped, .keel, .rigger, .hda, .tunes, .oars, .sweep, .mem, .checks, .boat] s (execRigFault code s) := by
  unfold execRigFault
  refine .next ?_
  refine .when _ _ (fun u hu => ?_) ?_
  · extract_lets -underBinder -merge -useContext +onlyGivenNames s1
    have h_s1 : Stays [.regs, .seen, .fabric, .stopped, .keel, .rigger, .hda, .tunes, .oars, .sweep, .mem, .checks, .boat] s s1 := by
      dsimp -zeta only [s1]
      refine .app ?_ (modRigger_stays ..) (by decide)
      exact hu
    clear_value s1
    refine .app ?_ (lasting_stays ..) (by decide)
    refine .ite ?_ ?_
    · exact h_s1
    · refine keelDoes_stays _ _ ?_ (by decide) ?_
      · intro u1 hu1
        refine .app ?_ (enterCoast_stays ..) (by decide)
        exact hu1
      · exact h_s1
  · exact .refl ..

theorem execKeelRun_stays (req : Requester) (v : Word) (rotorRpm : Nat) (chopMa : Nat) (s : State) :
    Answers [.regs, .bus, .seen, .fabric, .stopped, .keel, .rigger, .hda, .tunes, .oars, .sweep, .mem, .checks, .boat] s (execKeelRun req v rotorRpm chopMa s) := by
  unfold execKeelRun
  refine .next ?_
  refine .when _ _ (fun u hu => ?_) ?_
  · refine withWriteOut_stays _ _ _ _ _ _ ?_ (by decide) ?_
    · intro u1 hu1
      refine .app ?_ (keelCmdEffect_stays ..) (by decide)
      exact hu1
    · exact hu
  · exact .refl ..

theorem execKeelStop_stays (req : Requester) (v : Word) (s : State) :
    Answers [.regs, .bus, .seen, .fabric, .stopped, .keel, .rigger, .hda, .tunes, .oars, .sweep, .mem, .checks, .boat] s (execKeelStop req v s) := by
  unfold execKeelStop
  refine .next ?_
  refine .when _ _ (fun u hu => ?_) ?_
  · refine withWrite_stays _ _ _ _ _ ?_ (by decide) ?_
    · intro u1 hu1
      refine .app ?_ (keelCmdEffect_stays ..) (by decide)
      exact hu1
    · exact hu
  · exact .refl ..

theorem execKeelCoast_stays (req : Requester) (v : Word) (s : State) :
    Answers [.regs, .bus, .seen, .fabric, .stopped, .keel, .rigger, .hda, .tunes, .oars, .sweep, .mem, .checks, .boat] s (execKeelCoast req v s) := by
  unfold execKeelCoast
  refine .next ?_
  refine .when _ _ (fun u hu => ?_) ?_
  · refine withWrite_stays _ _ _ _ _ ?_ (by decide) ?_
    · intro u1 hu1
      refine .app ?_ (keelCmdEffect_stays ..) (by decide)
      exact hu1
    · exact hu
  · exact .refl ..

theorem execChopTest_stays (req : Requester) (v : Word) (chopMa : Nat) (s : State) :
    Answers [.regs, .bus, .seen, .fabric, .stopped, .keel, .rigger, .hda, .tunes, .oars, .sweep, .mem, .checks, .boat] s (execChopTest req v chopMa s) := by
  unfold execChopTest
  refine .next ?_
  refine .when _ _ (fun u hu => ?_) ?_
  · refine withWriteOut_stays _ _ _ _ _ _ ?_ (by decide) ?_
    · intro u1 hu1
      refine .app ?_ (keelCmdEffect_stays ..) (by decide)
      exact hu1
    · exact hu
  · exact .refl ..

theorem execKeelResume_stays (req : Requester) (v : Word) (s : State) :
    Answers [.regs, .bus, .seen, .fabric, .stopped, .keel, .rigger, .hda, .tunes, .oars, .sweep, .mem, .checks, .boat] s (execKeelResume req v s) := by
  unfold execKeelResume
  refine .next ?_
  refine .when _ _ (fun u hu => ?_) ?_
  · refine withWrite_stays _ _ _ _ _ ?_ (by decide) ?_
    · intro u1 hu1
      refine .app ?_ (keelCmdEffect_stays ..) (by decide)
      exact hu1
    · exact hu
  · exact .refl ..

theorem execKeelCmdUnlisted_stays (req : Requester) (v : Word) (s : State) :
    Answers [.regs, .bus, .seen, .fabric, .stopped, .keel, .rigger, .hda, .tunes, .oars, .sweep, .mem, .checks, .boat] s (execKeelCmdUnlisted req v s) := by
  unfold execKeelCmdUnlisted
  refine .next ?_
  refine .when _ _ (fun u hu => ?_) ?_
  · refine withWrite_stays _ _ _ _ _ ?_ (by decide) ?_
    · intro u1 hu1
      refine .app ?_ (keelCmdEffect_stays ..) (by decide)
      exact hu1
    · exact hu
  · exact .refl ..

theorem execSpdTargetWrite_stays (req : Requester) (addr : Addr) (v : Word) (s : State) :
    Answers [.regs, .bus, .seen, .fabric, .crit, .stopped, .keel, .rigger, .hda, .tunes, .oars, .sweep, .mem, .checks, .boat] s (execSpdTargetWrite req addr v s) := by
  unfold execSpdTargetWrite
  refine .next ?_
  refine .when _ _ (fun u hu => ?_) ?_
  · refine withWriteAt_stays _ _ _ _ _ ?_ (by decide) ?_
    · intro x u1 hu1
      refine .app ?_ (spdTargetEffect_stays ..) (by decide)
      exact hu1
    · exact hu
  · exact .refl ..

theorem execRefEnable_stays (req : Requester) (v : Word) (s : State) :
    Answers [.regs, .bus, .seen, .fabric, .stopped, .keel, .hda, .tunes, .oars, .sweep, .mem, .checks, .boat] s (execRefEnable req v s) := by
  unfold execRefEnable
  refine .next ?_
  refine .when _ _ (fun u hu => ?_) ?_
  · refine withWrite_stays _ _ _ _ _ ?_ (by decide) ?_
    · intro u1 hu1
      refine .app ?_ (refCfgEffect_stays ..) (by decide)
      exact hu1
    · exact hu
  · exact .refl ..

theorem execThreshWrite_stays (req : Requester) (addr : Addr) (v : Word) (s : State) :
    Answers [.regs, .bus, .seen, .fabric, .crit, .stopped] s (execThreshWrite req addr v s) := by
  unfold execThreshWrite
  refine .next ?_
  refine .when _ _ (fun u hu => ?_) ?_
  · refine withWriteAt_stays _ _ _ _ _ ?_ (by decide) ?_
    · intro x u1 hu1
      refine .app ?_ (threshEffect_stays ..) (by decide)
      exact hu1
    · exact hu
  · exact .refl ..

theorem execPwmPeriod_stays (p : PwmSample) (s : State) :
    Answers [.regs, .seen, .fabric, .stopped, .keel, .rigger, .hda, .tunes, .oars, .sweep, .mem, .checks, .boat] s (execPwmPeriod p s) := by
  unfold execPwmPeriod
  refine .next ?_
  refine .when _ _ (fun u hu => ?_) ?_
  · refine .app ?_ (pwmStep_stays ..) (by decide)
    exact hu
  · exact .refl ..

theorem execSpindleLocked_stays (s : State) :
    Answers [.regs, .seen, .fabric, .keel] s (execSpindleLocked s) := by
  unfold execSpindleLocked
  refine .next ?_
  refine .when _ _ (fun u hu => ?_) ?_
  · refine .app ?_ (raise_stays ..) (by decide)
    refine .app ?_ (modKeel_stays ..) (by decide)
    refine .app ?_ (State.setBit_stays ..) (by decide)
    exact hu
  · exact .refl ..

theorem execPhaseWord_stays (sextant : Fin 6) (frac : BitVec 16) (s : State) :
    Answers [.regs, .keel, .tunes] s (execPhaseWord sextant frac s) := by
  unfold execPhaseWord
  refine .next ?_
  refine .when _ _ (fun u hu => ?_) ?_
  · extract_lets -underBinder -merge -useContext +onlyGivenNames raw pos valid s1
    have h_s1 : Stays [.regs, .keel, .tunes] s s1 := by
      dsimp -zeta only [s1]
      refine .app ?_ (modKeel_stays ..) (by decide)
      refine .app ?_ (State.setReg_stays ..) (by decide)
      exact hu
    clear_value s1
    refine .ite ?_ ?_
    · refine .app ?_ (trTrigger_stays ..) (by decide)
      exact h_s1
    · exact h_s1
  · exact .refl ..

theorem execCsMismatch_stays (s : State) :
    Answers [.keel] s (execCsMismatch s) := by
  unfold execCsMismatch
  refine .next ?_
  refine .when _ _ (fun u hu => ?_) ?_
  · refine .app ?_ (modKeel_stays ..) (by decide)
    exact hu
  · exact .refl ..

theorem execCsCheck_stays (s : State) :
    Answers [.regs, .seen, .fabric, .stopped, .keel] s (execCsCheck s) := by
  unfold execCsCheck
  refine .next ?_
  refine .when _ _ (fun u hu => ?_) ?_
  · extract_lets -underBinder -merge -useContext +onlyGivenNames u_1 v s1
    have h_s1 : Stays [.regs, .seen, .fabric, .stopped, .keel] s s1 := by
      dsimp -zeta only [s1]
      refine .app ?_ (modKeel_stays ..) (by decide)
      exact hu
    clear_value s1
    refine .ite ?_ ?_
    · refine .app ?_ (lasting_stays ..) (by decide)
      refine .app ?_ (State.setFld_stays ..) (by decide)
      exact h_s1
    · refine .ite ?_ ?_
      · refine .app ?_ (lasting_stays ..) (by decide)
        refine .app ?_ (State.setFld_stays ..) (by decide)
        exact h_s1
      · refine .ite ?_ ?_
        · refine .app ?_ (lasting_stays ..) (by decide)
          refine .app ?_ (State.setFld_stays ..) (by decide)
          exact h_s1
        · refine .app ?_ (transient_stays ..) (by decide)
          exact h_s1
  · exact .refl ..

theorem execObserverHandover_stays (s : State) :
    Answers [.regs, .seen, .fabric, .keel, .rigger, .tunes] s (execObserverHandover s) := by
  unfold execObserverHandover
  refine .next ?_
  refine .when _ _ (fun u hu => ?_) ?_
  · refine .app ?_ (resumeRun_stays ..) (by decide)
    refine .app ?_ (State.setBit_stays ..) (by decide)
    exact hu
  · exact .refl ..

theorem execOpenLoopTimeout_stays (s : State) :
    Answers [.regs, .seen, .fabric, .stopped, .keel, .rigger, .tunes] s (execOpenLoopTimeout s) := by
  unfold execOpenLoopTimeout
  refine .next ?_
  refine .when _ _ (fun u hu => ?_) ?_
  · refine spinupReturn_stays _ _ ?_ (by decide) ?_
    · intro u1 hu1
      refine .app ?_ (detectAgain_stays ..) (by decide)
      exact hu1
    · exact hu
  · exact .refl ..

theorem execSpinupFail_stays (s : State) :
    Answers [.regs, .seen, .fabric, .stopped, .keel, .rigger, .hda, .tunes, .oars, .sweep, .mem, .checks, .boat] s (execSpinupFail s) := by
  unfold execSpinupFail
  refine .next ?_
  refine .when _ _ (fun u hu => ?_) ?_
  · extract_lets -underBinder -merge -useContext +onlyGivenNames s1
    have h_s1 : Stays [.regs, .seen, .fabric, .stopped, .keel, .rigger, .hda, .tunes, .oars, .sweep, .mem, .checks, .boat] s s1 := by
      dsimp -zeta only [s1]
      refine .app ?_ (lasting_stays ..) (by decide)
      exact hu
    clear_value s1
    refine .ite ?_ ?_
    · refine .app ?_ (enterCoast_stays ..) (by decide)
      exact h_s1
    · refine .app ?_ (doStop_stays ..) (by decide)
      exact h_s1
  · exact .refl ..

theorem execEstimateLost_stays (s : State) :
    Answers [.regs, .seen, .fabric, .stopped, .keel, .rigger, .hda, .tunes, .oars, .sweep, .mem, .checks, .boat] s (execEstimateLost s) := by
  unfold execEstimateLost
  refine .next ?_
  refine .when _ _ (fun u hu => ?_) ?_
  · extract_lets -underBinder -merge -useContext +onlyGivenNames st s1
    have h_s1 : Stays [.regs, .seen, .fabric, .stopped, .keel, .rigger, .hda, .tunes, .oars, .sweep, .mem, .checks, .boat] s s1 := by
      dsimp -zeta only [s1]
      refine .app ?_ (estimateLostEvent_stays ..) (by decide)
      refine .app ?_ (keelUnlock_stays ..) (by decide)
      refine .app ?_ (State.setBit_stays ..) (by decide)
      exact hu
    clear_value s1
    refine .ite ?_ ?_
    · refine .app ?_ (restartSpinup_stays ..) (by decide)
      exact h_s1
    · refine .ite ?_ ?_
      · refine .app ?_ (startReacq_stays ..) (by decide)
        exact h_s1
      · refine .ite ?_ ?_
        · refine .app ?_ (restartSpinup_stays ..) (by decide)
          exact h_s1
        · refine .app ?_ (enterKeelState_stays ..) (by decide)
          exact h_s1
  · exact .refl ..

theorem execReacqOk_stays (s : State) :
    Answers [.regs, .seen, .fabric, .keel, .rigger, .tunes] s (execReacqOk s) := by
  unfold execReacqOk
  refine .next ?_
  refine .when _ _ (fun u hu => ?_) ?_
  · extract_lets -underBinder -merge -useContext +onlyGivenNames s1 s2
    have h_s1 : Stays [.regs, .seen, .fabric, .keel, .rigger, .tunes] s s1 := by
      dsimp -zeta only [s1]
      refine .app ?_ (transient_stays ..) (by decide)
      refine .app ?_ (State.count_stays ..) (by decide)
      exact hu
    clear_value s1
    have h_s2 : Stays [.regs, .seen, .fabric, .keel, .rigger, .tunes] s s2 := by
      dsimp -zeta only [s2]
      refine .app ?_ (modKeel_stays ..) (by decide)
      exact h_s1
    clear_value s2
    refine .ite ?_ ?_
    · exact h_s2
    · refine .ite ?_ ?_
      · refine .app ?_ (resumeRun_stays ..) (by decide)
        exact h_s2
      · refine .app ?_ (enterKeelState_stays ..) (by decide)
        exact h_s2
  · exact .refl ..

theorem execReacqFail_stays (s : State) :
    Answers [.regs, .seen, .fabric, .stopped, .keel, .rigger, .safePending, .hda, .rudders, .tunes, .oars, .sweep, .mem, .checks, .boat] s (execReacqFail s) := by
  unfold execReacqFail
  refine .next ?_
  refine .when _ _ (fun u hu => ?_) ?_
  · extract_lets -underBinder -merge -useContext +onlyGivenNames s1 s2 s3
    have h_s1 : Stays [.regs, .seen, .fabric, .stopped, .keel, .rigger, .safePending, .hda, .rudders, .tunes, .oars, .sweep, .mem, .checks, .boat] s s1 := by
      dsimp -zeta only [s1]
      refine .app ?_ (raise_stays ..) (by decide)
      exact hu
    clear_value s1
    have h_s2 : Stays [.regs, .seen, .fabric, .stopped, .keel, .rigger, .safePending, .hda, .rudders, .tunes, .oars, .sweep, .mem, .checks, .boat] s s2 := by
      dsimp -zeta only [s2]
      refine .app ?_ (modKeel_stays ..) (by decide)
      exact h_s1
    clear_value s2
    have h_s3 : Stays [.regs, .seen, .fabric, .stopped, .keel, .rigger, .safePending, .hda, .rudders, .tunes, .oars, .sweep, .mem, .checks, .boat] s s3 := by
      dsimp -zeta only [s3]
      refine .app ?_ (safeCause_stays ..) (by decide)
      refine .app ?_ (lasting_stays ..) (by decide)
      exact h_s2
    clear_value s3
    refine .ite ?_ ?_
    · refine .app ?_ (parkAll_stays ..) (by decide)
      refine .app ?_ (enterCoast_stays ..) (by decide)
      refine .app ?_ (modKeel_stays ..) (by decide)
      exact h_s3
    · refine .app ?_ (startReacq_stays ..) (by decide)
      exact h_s2
  · exact .refl ..

theorem execShortBrake_stays (s : State) :
    Answers [.regs, .seen, .fabric, .rigger, .tunes] s (execShortBrake s) := by
  unfold execShortBrake
  refine .next ?_
  refine .when _ _ (fun u hu => ?_) ?_
  · refine .ite ?_ ?_
    · refine .app ?_ (beginShortBrake_stays ..) (by decide)
      exact hu
    · refine .ite ?_ ?_
      · refine .app ?_ (beginShortBrake_stays ..) (by decide)
        exact hu
      · refine .ite ?_ ?_
        · refine .app ?_ (beginShortBrake_stays ..) (by decide)
          exact hu
        · exact hu
  · exact .refl ..

theorem execStopped_stays (quietMs : Nat) (s : State) :
    Answers [.regs, .seen, .fabric, .stopped, .keel, .rigger, .hda, .tunes, .oars, .sweep, .mem, .checks, .boat] s (execStopped quietMs s) := by
  unfold execStopped
  refine .next ?_
  refine .when _ _ (fun u hu => ?_) ?_
  · refine .app ?_ (raise_stays ..) (by decide)
    refine .app ?_ (keelUnlock_stays ..) (by decide)
    refine .app ?_ (enterKeelState_stays ..) (by decide)
    refine .app ?_ (State.setReg_stays ..) (by decide)
    exact hu
  · exact .refl ..

theorem execGenFloor_stays (s : State) :
    Answers [.regs, .seen, .fabric, .stopped, .keel, .rigger, .hda, .tunes, .oars, .sweep, .mem, .checks, .boat] s (execGenFloor s) := by
  unfold execGenFloor
  refine .next ?_
  refine .when _ _ (fun u hu => ?_) ?_
  · refine .app ?_ (lasting_stays ..) (by decide)
    refine .app ?_ (enterCoast_stays ..) (by decide)
    exact hu
  · exact .refl ..

theorem freqEdge_stays (speed : Nat) (ago : Nat) (s : State) :
    Stays [.regs, .seen, .fabric, .keel] s (freqEdge speed ago s) := by
  unfold freqEdge
  extract_lets -underBinder -merge -useContext +onlyGivenNames known err win s1 s2 s3
  have h_s1 : Stays [.regs, .seen, .fabric, .keel] s s1 := by
    dsimp -zeta only [s1]
    refine .app ?_ (State.setBit_stays ..) (by decide)
    refine .ite ?_ ?_
    · refine .app ?_ (State.setReg_stays ..) (by decide)
      exact .refl ..
    · exact .refl ..
  clear_value s1
  have h_s2 : Stays [.regs, .seen, .fabric, .keel] s s2 := by
    dsimp -zeta only [s2]
    refine .app ?_ (modKeel_stays ..) (by decide)
    exact h_s1
  clear_value s2
  have h_s3 : Stays [.regs, .seen, .fabric, .keel] s s3 := by
    dsimp -zeta only [s3]
    refine .ite ?_ ?_
    · refine .app ?_ (setPhaseLock_stays ..) (by decide)
      exact h_s2
    · refine .ite ?_ ?_
      · refine .app ?_ (setPhaseLock_stays ..) (by decide)
        exact h_s2
      · exact h_s2
  clear_value s3
  refine .app ?_ (modKeel_stays ..) (by decide)
  exact h_s3

theorem dutyEdge_stays (periodNs : Nat) (highNs : Nat) (ago : Nat) (s : State) :
    Stays [.regs, .keel] s (dutyEdge periodNs highNs ago s) := by
  unfold dutyEdge
  extract_lets -underBinder -merge -useContext +onlyGivenNames ok
  refine .app ?_ (stepTrim_stays ..) (by decide)
  refine .app ?_ (modKeel_stays ..) (by decide)
  refine .app ?_ (State.setBit_stays ..) (by decide)
  exact .refl ..

theorem execRefEdge_stays (periodNs : Nat) (highNs : Nat) (agoNs : Nat) (s : State) :
    Answers [.regs, .seen, .fabric, .keel] s (execRefEdge periodNs highNs agoNs s) := by
  unfold execRefEdge
  refine .next ?_
  refine .when _ _ (fun u hu => ?_) ?_
  · extract_lets -underBinder -merge -useContext +onlyGivenNames speed near
    refine .ite ?_ ?_
    · refine .app ?_ (dutyEdge_stays ..) (by decide)
      exact hu
    · refine .ite ?_ ?_
      · refine .app ?_ (freqEdge_stays ..) (by decide)
        exact hu
      · refine .app ?_ (raise_stays ..) (by decide)
        refine .app ?_ (modKeel_stays ..) (by decide)
        refine .app ?_ (setPhaseLock_stays ..) (by decide)
        refine .app ?_ (State.setBit_stays ..) (by decide)
        exact hu
  · exact .refl ..

theorem execRefLost_stays (s : State) :
    Answers [.regs, .seen, .fabric, .keel] s (execRefLost s) := by
  unfold execRefLost
  refine .next ?_
  refine .when _ _ (fun u hu => ?_) ?_
  · split
    · rename_i x1 e
      exact hu
    · rename_i x1 t1 e
      extract_lets -underBinder -merge -useContext +onlyGivenNames expected
      refine .ite ?_ ?_
      · refine .ite ?_ ?_
        · refine .app ?_ (raise_stays ..) (by decide)
          refine .app ?_ (setPhaseLock_stays ..) (by decide)
          refine .app ?_ (modKeel_stays ..) (by decide)
          refine .app ?_ (State.setBit_stays ..) (by decide)
          exact hu
        · exact hu
      · refine .ite ?_ ?_
        · refine .app ?_ (raise_stays ..) (by decide)
          refine .app ?_ (modKeel_stays ..) (by decide)
          refine .app ?_ (State.setBit_stays ..) (by decide)
          exact hu
        · exact hu
  · exact .refl ..

theorem execRefAnalogSample_stays (sample : BitVec 12) (s : State) :
    Answers [.regs, .keel] s (execRefAnalogSample sample s) := by
  unfold execRefAnalogSample
  refine .next ?_
  refine .when _ _ (fun u hu => ?_) ?_
  · refine .app ?_ (stepTrim_stays ..) (by decide)
    refine .app ?_ (modKeel_stays ..) (by decide)
    refine .app ?_ (State.setBit_stays ..) (by decide)
    exact hu
  · exact .refl ..

theorem execChopEngage_stays (busMv : Nat) (s : State) :
    Answers [.rigger] s (execChopEngage busMv s) := by
  unfold execChopEngage
  refine .next ?_
  refine .when _ _ (fun u hu => ?_) ?_
  · refine .app ?_ (modRigger_stays ..) (by decide)
    exact hu
  · exact .refl ..

theorem execChopRelease_stays (busMv : Nat) (s : State) :
    Answers [.rigger] s (execChopRelease busMv s) := by
  unfold execChopRelease
  refine .next ?_
  refine .when _ _ (fun u hu => ?_) ?_
  · refine .app ?_ (modRigger_stays ..) (by decide)
    exact hu
  · exact .refl ..

theorem execChopFault_stays (chopMa : Nat) (busMv : Nat) (s : State) :
    Answers [.rigger] s (execChopFault chopMa busMv s) := by
  unfold execChopFault
  extract_lets -underBinder -merge -useContext +onlyGivenNames since low rose kind
  refine .next ?_
  refine .when _ _ (fun u hu => ?_) ?_
  · refine .app ?_ (chopFails_stays ..) (by decide)
    exact hu
  · exact .refl ..

theorem execVCritTrip_stays (busMv : Nat) (s : State) :
    Answers [.rigger] s (execVCritTrip busMv s) := by
  unfold execVCritTrip
  refine .next ?_
  refine .when _ _ (fun u hu => ?_) ?_
  · refine .app ?_ (modRigger_stays ..) (by decide)
    exact hu
  · exact .refl ..

end Sys2Proof.Machine
end

