-- ==== Sys2Proof/Laws/StaysKeys.lean ====
section
/-! SUPPORT. What the operations and meanings of Machine/Keys do at most. -/

set_option linter.all false
set_option maxRecDepth 4000

namespace Sys2Proof.Machine

theorem keyCommand_stays (op : Nat) (req : Requester) (v : Word) (s : State) :
    Answers [.regs, .bus, .seen, .fabric, .stopped, .keys] s (keyCommand op req v s) := by
  unfold keyCommand
  refine .next ?_
  refine .when _ _ (fun u hu => ?_) ?_
  · refine withWrite_stays _ _ _ _ _ ?_ (by decide) ?_
    · intro u1 hu1
      refine .ite ?_ ?_
      · exact hu1
      · refine .ite ?_ ?_
        · refine .app ?_ (keyRefuse_stays ..) (by decide)
          exact hu1
        · refine .app ?_ (keyResult_stays ..) (by decide)
          refine .app ?_ (modKeys_stays ..) (by decide)
          exact hu1
    · exact hu
  · exact .refl ..

theorem execKeyLoad_stays (req : Requester) (v : Word) (s : State) :
    Answers [.regs, .bus, .seen, .fabric, .stopped, .keys] s (execKeyLoad req v s) := by
  unfold execKeyLoad
  refine .app ?_ (keyCommand_stays ..) (by decide)
  exact .refl ..

theorem execKeyClear_stays (req : Requester) (v : Word) (s : State) :
    Answers [.regs, .bus, .seen, .fabric, .stopped, .keys] s (execKeyClear req v s) := by
  unfold execKeyClear
  refine .app ?_ (keyCommand_stays ..) (by decide)
  exact .refl ..

theorem execKeyWrap_stays (req : Requester) (v : Word) (s : State) :
    Answers [.regs, .bus, .seen, .fabric, .stopped, .keys] s (execKeyWrap req v s) := by
  unfold execKeyWrap
  refine .app ?_ (keyCommand_stays ..) (by decide)
  exact .refl ..

theorem execKeyErase_stays (req : Requester) (v : Word) (s : State) :
    Answers [.regs, .bus, .seen, .fabric, .stopped, .keys] s (execKeyErase req v s) := by
  unfold execKeyErase
  refine .app ?_ (keyCommand_stays ..) (by decide)
  exact .refl ..

theorem execImageVerify_stays (req : Requester) (v : Word) (s : State) :
    Answers [.regs, .bus, .seen, .fabric, .stopped, .keys] s (execImageVerify req v s) := by
  unfold execImageVerify
  refine .app ?_ (keyCommand_stays ..) (by decide)
  exact .refl ..

theorem execPatchLoad_stays (req : Requester) (v : Word) (s : State) :
    Answers [.regs, .bus, .seen, .fabric, .stopped, .keys] s (execPatchLoad req v s) := by
  unfold execPatchLoad
  refine .app ?_ (keyCommand_stays ..) (by decide)
  exact .refl ..

theorem execMeasure_stays (req : Requester) (v : Word) (s : State) :
    Answers [.regs, .bus, .seen, .fabric, .stopped, .keys] s (execMeasure req v s) := by
  unfold execMeasure
  refine .app ?_ (keyCommand_stays ..) (by decide)
  exact .refl ..

theorem execAttest_stays (req : Requester) (v : Word) (s : State) :
    Answers [.regs, .bus, .seen, .fabric, .stopped, .keys] s (execAttest req v s) := by
  unfold execAttest
  refine .app ?_ (keyCommand_stays ..) (by decide)
  exact .refl ..

theorem execDebugUnlock_stays (req : Requester) (v : Word) (s : State) :
    Answers [.regs, .bus, .seen, .fabric, .stopped, .keys] s (execDebugUnlock req v s) := by
  unfold execDebugUnlock
  refine .app ?_ (keyCommand_stays ..) (by decide)
  exact .refl ..

theorem execRollbackSet_stays (req : Requester) (v : Word) (s : State) :
    Answers [.regs, .bus, .seen, .fabric, .stopped, .keys] s (execRollbackSet req v s) := by
  unfold execRollbackSet
  refine .app ?_ (keyCommand_stays ..) (by decide)
  exact .refl ..

theorem execOtpWrite_stays (req : Requester) (v : Word) (s : State) :
    Answers [.regs, .bus, .seen, .fabric, .stopped, .keys] s (execOtpWrite req v s) := by
  unfold execOtpWrite
  refine .app ?_ (keyCommand_stays ..) (by decide)
  exact .refl ..

theorem execGenId_stays (req : Requester) (v : Word) (s : State) :
    Answers [.regs, .bus, .seen, .fabric, .stopped, .keys] s (execGenId req v s) := by
  unfold execGenId
  refine .app ?_ (keyCommand_stays ..) (by decide)
  exact .refl ..

theorem execChallenge_stays (req : Requester) (v : Word) (s : State) :
    Answers [.regs, .bus, .seen, .fabric, .stopped, .keys] s (execChallenge req v s) := by
  unfold execChallenge
  refine .app ?_ (keyCommand_stays ..) (by decide)
  exact .refl ..

theorem execKeysCmdUnlisted_stays (req : Requester) (v : Word) (s : State) :
    Answers [.regs, .bus, .seen, .fabric, .stopped] s (execKeysCmdUnlisted req v s) := by
  unfold execKeysCmdUnlisted
  refine .next ?_
  refine .when _ _ (fun u hu => ?_) ?_
  · refine withWrite_stays _ _ _ _ _ ?_ (by decide) ?_
    · intro u1 hu1
      refine .ite ?_ ?_
      · exact hu1
      · refine .app ?_ (keyRefuse_stays ..) (by decide)
        exact hu1
    · exact hu
  · exact .refl ..

theorem keyPerform_stays (cmd : Word) (src : Nat) (dst : Nat) (s : State) :
    Stays [.regs, .seen, .fabric, .crit, .stopped, .free, .ucode, .mem, .checks, .boat, .otp, .keys] s (keyPerform cmd src dst s) := by
  unfold keyPerform
  split
  · rename_i x1 e
    refine .app ?_ (opLoad_stays ..) (by decide)
    exact .refl ..
  · rename_i x1 e
    refine .app ?_ (opClear_stays ..) (by decide)
    exact .refl ..
  · rename_i x1 e
    refine .app ?_ (opWrap_stays ..) (by decide)
    exact .refl ..
  · rename_i x1 e
    refine .app ?_ (opErase_stays ..) (by decide)
    exact .refl ..
  · rename_i x1 e
    refine .app ?_ (opVerify_stays ..) (by decide)
    exact .refl ..
  · rename_i x1 e
    refine .app ?_ (opPatch_stays ..) (by decide)
    exact .refl ..
  · rename_i x1 e
    refine .app ?_ (opMeasure_stays ..) (by decide)
    exact .refl ..
  · rename_i x1 e
    refine .app ?_ (opAttest_stays ..) (by decide)
    exact .refl ..
  · rename_i x1 e
    refine .app ?_ (opUnlock_stays ..) (by decide)
    exact .refl ..
  · rename_i x1 e
    refine .app ?_ (opRollback_stays ..) (by decide)
    exact .refl ..
  · rename_i x1 e
    refine .app ?_ (opOtpWrite_stays ..) (by decide)
    exact .refl ..
  · rename_i x1 e
    refine .app ?_ (opGenId_stays ..) (by decide)
    exact .refl ..
  · rename_i x1 e e1 e2 e3 e4 e5 e6 e7 e8 e9 e10 e11
    refine .app ?_ (keyDone_stays ..) (by decide)
    refine .app ?_ (newChallenge_stays ..) (by decide)
    exact .refl ..

theorem execKeysOpDone_stays (s : State) :
    Answers [.regs, .seen, .fabric, .crit, .stopped, .free, .ucode, .mem, .checks, .boat, .otp, .keys] s (execKeysOpDone s) := by
  unfold execKeysOpDone
  refine .next ?_
  refine .when _ _ (fun u hu => ?_) ?_
  · split
    · rename_i x1 e
      exact hu
    · rename_i x1 cmd1 src1 dst1 e
      refine .app ?_ (keyPerform_stays ..) (by decide)
      refine .app ?_ (modKeys_stays ..) (by decide)
      exact hu
  · exact .refl ..

theorem releaseStroke_stays (c : Nat) (s : State) :
    Stays [.regs, .seen, .clocks, .fabric, .targets, .free, .ucode, .dbg] s (releaseStroke c s) := by
  unfold releaseStroke
  extract_lets -underBinder -merge -useContext +onlyGivenNames s1 vec s2 vsrc
  have h_s1 : Stays [.regs, .seen, .clocks, .fabric, .targets, .free, .ucode, .dbg] s s1 := by
    dsimp -zeta only [s1]
    refine .app ?_ (State.setBit_stays ..) (by decide)
    refine .app ?_ (switchOn_stays ..) (by decide)
    exact .refl ..
  clear_value s1
  have h_s2 : Stays [.regs, .seen, .clocks, .fabric, .targets, .free, .ucode, .dbg] s s2 := by
    dsimp -zeta only [s2]
    refine .app ?_ (State.setBit_stays ..) (by decide)
    exact h_s1
  clear_value s2
  refine .ite ?_ ?_
  · exact h_s1
  · refine .app ?_ (raise_stays ..) (by decide)
    refine .app ?_ (.set_dbg _ _) (by decide)
    exact h_s2

theorem execStrokeRelease_stays (req : Requester) (v : Word) (s : State) :
    Answers [.regs, .bus, .seen, .clocks, .fabric, .targets, .stopped, .free, .ucode, .dbg] s (execStrokeRelease req v s) := by
  unfold execStrokeRelease
  refine .next ?_
  refine withWrite_stays _ _ _ _ _ ?_ (by decide) ?_
  · intro u hu
    refine .foldl _ _ (fun u1 x hu1 => ?_) ?_
    · refine .ite ?_ ?_
      · refine .app ?_ (releaseStroke_stays ..) (by decide)
        exact hu1
      · exact hu1
    · exact hu
  · exact .refl ..

end Sys2Proof.Machine
end

