-- ==== Sys2Proof/Laws/StaysLink.lean ====
section
/-! SUPPORT. What the operations and meanings of Machine/Link do at most. -/

set_option linter.all false
set_option maxRecDepth 4000

namespace Sys2Proof.Machine

theorem beginReset_stays (l : Nat) (lost : Bool) (s : State) :
    Stays [.regs, .slip] s (beginReset l lost s) := by
  unfold beginReset
  refine .app ?_ (State.count_stays ..) (by decide)
  refine .app ?_ (modLane_stays ..) (by decide)
  refine .app ?_ (State.setBit_stays ..) (by decide)
  refine .app ?_ (laneOff_stays ..) (by decide)
  exact .refl ..

theorem execLossOfSync_stays (lane : Nat) (s : State) :
    Answers [.regs, .slip] s (execLossOfSync lane s) := by
  unfold execLossOfSync
  refine .next ?_
  refine .when _ _ (fun u hu => ?_) ?_
  · refine .app ?_ (beginReset_stays ..) (by decide)
    exact hu
  · exact .refl ..

theorem execLinkResetRequest_stays (req : Requester) (lane : Nat) (v : Word) (s : State) :
    Answers [.regs, .bus, .seen, .fabric, .stopped, .slip] s (execLinkResetRequest req lane v s) := by
  unfold execLinkResetRequest
  refine .next ?_
  refine .when _ _ (fun u hu => ?_) ?_
  · refine withWrite_stays _ _ _ _ _ ?_ (by decide) ?_
    · intro u1 hu1
      refine .app ?_ (beginReset_stays ..) (by decide)
      refine .app ?_ (storeWrite_stays ..) (by decide)
      exact hu1
    · exact hu
  · exact .refl ..

theorem identifyPort_stays (p : Nat) (s : State) :
    Stays [.regs, .seen, .fabric] s (identifyPort p s) := by
  unfold identifyPort
  extract_lets -underBinder -merge -useContext +onlyGivenNames a b
  refine .ite ?_ ?_
  · exact .refl ..
  · refine .ite ?_ ?_
    · refine .app ?_ (State.setBit_stays ..) (by decide)
      refine .app ?_ (State.setBit_stays ..) (by decide)
      exact .refl ..
    · refine .app ?_ (raise_stays ..) (by decide)
      refine .app ?_ (State.setBit_stays ..) (by decide)
      refine .app ?_ (laneOff_stays ..) (by decide)
      exact .refl ..

theorem execLinkUp_stays (lane : Nat) (rate : Nat) (addr : BitVec 64) (s : State) :
    Answers [.regs, .seen, .fabric, .slip] s (execLinkUp lane rate addr s) := by
  unfold execLinkUp
  refine .next ?_
  refine .when _ _ (fun u hu => ?_) ?_
  · extract_lets -underBinder -merge -useContext +onlyGivenNames lost s1 s2 s3
    have h_s1 : Stays [.regs, .seen, .fabric, .slip] s s1 := by
      dsimp -zeta only [s1]
      refine .app ?_ (State.setReg64_stays ..) (by decide)
      refine .app ?_ (modLane_stays ..) (by decide)
      exact hu
    clear_value s1
    have h_s2 : Stays [.regs, .seen, .fabric, .slip] s s2 := by
      dsimp -zeta only [s2]
      refine .app ?_ (State.setReg_stays ..) (by decide)
      exact h_s1
    clear_value s2
    have h_s3 : Stays [.regs, .seen, .fabric, .slip] s s3 := by
      dsimp -zeta only [s3]
      refine .app ?_ (raise_stays ..) (by decide)
      exact h_s2
    clear_value s3
    refine .app ?_ (identifyPort_stays ..) (by decide)
    refine .ite ?_ ?_
    · refine .app ?_ (transient_stays ..) (by decide)
      exact h_s3
    · exact h_s3
  · exact .refl ..

theorem execLinkResetTimeout_stays (lane : Nat) (s : State) :
    Answers [.regs, .seen, .fabric, .stopped, .mem, .checks, .boat, .slip] s (execLinkResetTimeout lane s) := by
  unfold execLinkResetTimeout
  refine .next ?_
  refine .when _ _ (fun u hu => ?_) ?_
  · extract_lets -underBinder -merge -useContext +onlyGivenNames s1 s2
    have h_s1 : Stays [.regs, .seen, .fabric, .stopped, .mem, .checks, .boat, .slip] s s1 := by
      dsimp -zeta only [s1]
      refine .app ?_ (modLane_stays ..) (by decide)
      exact hu
    clear_value s1
    have h_s2 : Stays [.regs, .seen, .fabric, .stopped, .mem, .checks, .boat, .slip] s s2 := by
      dsimp -zeta only [s2]
      refine .app ?_ (lasting_stays ..) (by decide)
      refine .app ?_ (lasting_stays ..) (by decide)
      exact h_s1
    clear_value s2
    refine .foldl _ _ (fun u1 x hu1 => ?_) ?_
    · refine .ite ?_ ?_
      · exact hu1
      · refine .ite ?_ ?_
        · refine .app ?_ (frameFailed_stays ..) (by decide)
          exact hu1
        · refine .app ?_ (frameLost_stays ..) (by decide)
          exact hu1
    · exact h_s2
  · exact .refl ..

theorem execCodewordUncorrectable_stays (lane : Nat) (corrected : Nat) (uncorrectable : Nat) (frame : Bool) (s : State) :
    Answers [.regs, .seen, .fabric, .slip] s (execCodewordUncorrectable lane corrected uncorrectable frame s) := by
  unfold execCodewordUncorrectable
  refine .next ?_
  refine .when _ _ (fun u hu => ?_) ?_
  · extract_lets -underBinder -merge -useContext +onlyGivenNames fec c u_1 s1 sec old s2 limit
    have h_s1 : Stays [.regs, .seen, .fabric, .slip] s s1 := by
      dsimp -zeta only [s1]
      refine .app ?_ (State.count_stays ..) (by decide)
      refine .app ?_ (State.count_stays ..) (by decide)
      refine .app ?_ (State.count_stays ..) (by decide)
      exact hu
    clear_value s1
    have h_s2 : Stays [.regs, .seen, .fabric, .slip] s s2 := by
      dsimp -zeta only [s2]
      refine .app ?_ (modLane_stays ..) (by decide)
      exact h_s1
    clear_value s2
    refine .ite ?_ ?_
    · refine .app ?_ (raise_stays ..) (by decide)
      exact h_s2
    · exact h_s2
  · exact .refl ..

theorem execFrameAck_stays (lane : Nat) (s : State) :
    Answers [.regs, .seen, .fabric, .queues, .ended, .stopped, .free, .returned, .mem, .checks, .boat, .slip, .cryptos] s (execFrameAck lane s) := by
  unfold execFrameAck
  refine .next ?_
  refine .when _ _ (fun u hu => ?_) ?_
  · refine .app ?_ (hostDrain_stays ..) (by decide)
    refine oldestFrame_stays _ _ _ ?_ (by decide) ?_
    · intro x u1 hu1
      refine .app ?_ (frameAcked_stays ..) (by decide)
      exact hu1
    · exact hu
  · exact .refl ..

theorem execFrameNak_stays (lane : Nat) (s : State) :
    Answers [.regs, .seen, .fabric, .queues, .ended, .stopped, .free, .returned, .mem, .checks, .boat, .slip, .cryptos] s (execFrameNak lane s) := by
  unfold execFrameNak
  refine .next ?_
  refine .when _ _ (fun u hu => ?_) ?_
  · refine .app ?_ (hostDrain_stays ..) (by decide)
    refine oldestFrame_stays _ _ _ ?_ (by decide) ?_
    · intro x u1 hu1
      refine .app ?_ (frameFailed_stays ..) (by decide)
      exact hu1
    · exact hu
  · exact .refl ..

theorem execAckNakTimeout_stays (lane : Nat) (s : State) :
    Answers [.regs, .seen, .fabric, .queues, .ended, .stopped, .free, .returned, .mem, .checks, .boat, .slip, .cryptos] s (execAckNakTimeout lane s) := by
  unfold execAckNakTimeout
  refine .next ?_
  refine .when _ _ (fun u hu => ?_) ?_
  · refine .app ?_ (hostDrain_stays ..) (by decide)
    refine oldestFrame_stays _ _ _ ?_ (by decide) ?_
    · intro x u1 hu1
      refine .app ?_ (frameFailed_stays ..) (by decide)
      exact hu1
    · exact hu
  · exact .refl ..

theorem createNexus_stays (n : Nat) (port : Nat) (addr : Nat) (s : State) :
    Stays [.regs, .seen, .fabric, .slip] s (createNexus n port addr s) := by
  unfold createNexus
  extract_lets -underBinder -merge -useContext +onlyGivenNames s1
  have h_s1 : Stays [.regs, .seen, .fabric, .slip] s s1 := by
    dsimp -zeta only [s1]
    refine .app ?_ (setNexus_stays ..) (by decide)
    exact .refl ..
  clear_value s1
  refine .app ?_ (raise_stays ..) (by decide)
  refine .foldl _ _ (fun u x hu => ?_) ?_
  · refine .app ?_ (setUa_stays ..) (by decide)
    exact hu
  · exact h_s1

theorem execOpenConnection_stays (lane : Nat) (addr : BitVec 64) (s : State) :
    Answers [.regs, .seen, .fabric, .stopped, .mem, .checks, .boat, .slip] s (execOpenConnection lane addr s) := by
  unfold execOpenConnection
  refine .next ?_
  refine .when _ _ (fun u hu => ?_) ?_
  · extract_lets -underBinder -merge -useContext +onlyGivenNames p
    split
    · rename_i x1 n1 e
      refine .app ?_ (setNexus_stays ..) (by decide)
      exact hu
    · rename_i x1 e
      split
      · rename_i x2 n1 e1
        refine .app ?_ (createNexus_stays ..) (by decide)
        exact hu
      · rename_i x2 e1
        split
        · rename_i x3 n1 e2
          refine .app ?_ (createNexus_stays ..) (by decide)
          refine .app ?_ (endNexus_stays ..) (by decide)
          exact hu
        · rename_i x3 e2
          refine .app ?_ (raise_stays ..) (by decide)
          exact hu
  · exact .refl ..

theorem execHardReset_stays (lane : Nat) (s : State) :
    Answers [.regs, .seen, .fabric, .queues, .ended, .stopped, .free, .returned, .mem, .checks, .boat, .slip, .cryptos] s (execHardReset lane s) := by
  unfold execHardReset
  refine .next ?_
  refine .when _ _ (fun u hu => ?_) ?_
  · extract_lets -underBinder -merge -useContext +onlyGivenNames ns s1
    have h_s1 : Stays [.regs, .seen, .fabric, .queues, .ended, .stopped, .free, .returned, .mem, .checks, .boat, .slip, .cryptos] s s1 := by
      dsimp -zeta only [s1]
      refine .foldl _ _ (fun u1 x hu1 => ?_) ?_
      · refine .foldl _ _ (fun u2 x1 hu2 => ?_) ?_
        · refine .app ?_ (setUa_stays ..) (by decide)
          exact hu2
        · refine .app ?_ (endNexus_stays ..) (by decide)
          exact hu1
      · exact hu
    clear_value s1
    refine .app ?_ (hostDrain_stays ..) (by decide)
    refine .app ?_ (raise_stays ..) (by decide)
    exact h_s1
  · exact .refl ..

theorem execNexusLoss_stays (n : Nat) (s : State) :
    Answers [.regs, .seen, .fabric, .queues, .ended, .stopped, .free, .returned, .mem, .checks, .boat, .slip, .cryptos] s (execNexusLoss n s) := by
  unfold execNexusLoss
  refine .next ?_
  refine .when _ _ (fun u hu => ?_) ?_
  · extract_lets -underBinder -merge -useContext +onlyGivenNames s1
    have h_s1 : Stays [.regs, .seen, .fabric, .queues, .ended, .stopped, .free, .returned, .mem, .checks, .boat, .slip, .cryptos] s s1 := by
      dsimp -zeta only [s1]
      refine .app ?_ (setNexus_stays ..) (by decide)
      refine .app ?_ (endNexus_stays ..) (by decide)
      exact hu
    clear_value s1
    refine .app ?_ (hostDrain_stays ..) (by decide)
    refine .app ?_ (raise_stays ..) (by decide)
    refine .foldl _ _ (fun u1 x hu1 => ?_) ?_
    · refine .app ?_ (setUa_stays ..) (by decide)
      exact hu1
    · exact h_s1
  · exact .refl ..

theorem execPowerStateRequest_stays (lane : Nat) (state : Nat) (s : State) :
    Answers [.regs, .seen, .fabric] s (execPowerStateRequest lane state s) := by
  unfold execPowerStateRequest
  extract_lets -underBinder -merge -useContext +onlyGivenNames now enabled
  refine .next ?_
  refine .when _ _ (fun u hu => ?_) ?_
  · refine .app ?_ (raise_stays ..) (by decide)
    refine .app ?_ (State.setFld_stays ..) (by decide)
    exact hu
  · exact .refl ..

theorem execUaCtrl_stays (req : Requester) (v : Word) (s : State) :
    Answers [.regs, .bus, .seen, .fabric, .stopped, .slip] s (execUaCtrl req v s) := by
  unfold execUaCtrl
  refine .next ?_
  refine withWrite_stays _ _ _ _ _ ?_ (by decide) ?_
  · intro u hu
    extract_lets -underBinder -merge -useContext +onlyGivenNames ls
    refine .foldl _ _ (fun u1 x hu1 => ?_) ?_
    · refine .app ?_ (setUa_stays ..) (by decide)
      exact hu1
    · exact hu
  · exact .refl ..

theorem execActStretchEnd_stays (s : State) :
    Answers [.slip] s (execActStretchEnd s) := by
  unfold execActStretchEnd
  refine .next ?_
  refine .when _ _ (fun u hu => ?_) ?_
  · refine .app ?_ (modSlip_stays ..) (by decide)
    exact hu
  · exact .refl ..

end Sys2Proof.Machine
end

