-- ==== Sys2Proof/Laws/StaysLut.lean ====
section
/-! SUPPORT. What the operations and meanings of Machine/Lut do at most. -/

set_option linter.all false
set_option maxRecDepth 4000

namespace Sys2Proof.Machine

theorem lutResult_stays (outcome : Nat) (code : Nat) (s : State) :
    Stays [.regs] s (lutResult outcome code s) := by
  unfold lutResult
  refine .app ?_ (State.setReg_stays ..) (by decide)
  exact .refl ..

theorem lutRefused_stays (req : Requester) (n : Nat) (code : Nat) (s : State) :
    Stays [.regs, .seen, .fabric] s (lutRefused req n code s) := by
  unfold lutRefused
  refine .app ?_ (raise_stays ..) (by decide)
  refine .app ?_ (lutResult_stays ..) (by decide)
  exact .refl ..

theorem lutChanged_stays (n : Nat) (code : Nat) (s : State) :
    Stays [.regs, .seen, .fabric, .crit] s (lutChanged n code s) := by
  unfold lutChanged
  refine .app ?_ (raise_stays ..) (by decide)
  refine .app ?_ (lutResult_stays ..) (by decide)
  refine .app ?_ (State.critPut_stays ..) (by decide)
  exact .refl ..

theorem lutCommand_stays {P : List Piece} {s0 : State} (op : Nat) (req : Requester) (v : Word) (f : Nat → State → State) (s : State) (h_f : ∀ a0 u, Stays P s0 u → Stays P s0 (f a0 u)) (hq : sub [.regs, .bus, .seen, .fabric, .stopped] P = true) (h0 : Stays P s0 s) :
    Stays P s0 (lutCommand op req v f s) := by
  unfold lutCommand
  refine .when _ _ (fun u hu => ?_) ?_
  · refine withWrite_stays _ _ _ _ _ ?_ (sub_trans (by decide) hq) ?_
    · intro u1 hu1
      refine h_f _ _ ?_
      exact hu1
    · exact hu
  · exact h0

theorem fetchEntry_stays (n : Nat) (s : State) :
    Stays [.regs, .seen, .fabric, .stopped, .checks, .boat] s (fetchEntry n s).2.2 := by
  unfold fetchEntry
  extract_lets -underBinder -merge -useContext +onlyGivenNames off r q
  have h_r : Stays [.regs, .seen, .fabric, .stopped, .checks, .boat] s r.2.2 := by
    dsimp -zeta only [r]
    refine .app ?_ (fetchWords_stays ..) (by decide)
    exact .refl ..
  clear_value r
  have h_q : Stays [.regs, .seen, .fabric, .stopped, .checks, .boat] s q.2.2 := by
    dsimp -zeta only [q]
    refine .app ?_ (fetchWords_stays ..) (by decide)
    exact h_r
  clear_value q
  split
  · rename_i e
    refine .triple ?_
    exact h_r
  · rename_i e
    refine .triple ?_
    exact h_q

theorem fetchExtents_stays (ws : List Word) (s : State) :
    Stays [.regs, .seen, .fabric, .stopped, .checks, .boat] s (fetchExtents ws s).2 := by
  unfold fetchExtents
  extract_lets -underBinder -merge -useContext +onlyGivenNames off n r
  have h_r : Stays [.regs, .seen, .fabric, .stopped, .checks, .boat] s r.2.2 := by
    dsimp -zeta only [r]
    refine .app ?_ (fetchWords_stays ..) (by decide)
    exact .refl ..
  clear_value r
  refine .pair ?_
  exact h_r

theorem execLuCreate_stays (req : Requester) (v : Word) (s : State) :
    Answers [.regs, .bus, .seen, .fabric, .crit, .stopped, .checks, .boat, .slip] s (execLuCreate req v s) := by
  have fin : ∀ (n : Nat) (r : List Word × Bool × State) (x : List (Nat × Nat) × State), Stays [.regs, .bus, .seen, .fabric, .crit, .stopped, .checks, .boat, .slip] s r.2.2 → Stays [.regs, .bus, .seen, .fabric, .crit, .stopped, .checks, .boat, .slip] s x.2 →
      Stays [.regs, .bus, .seen, .fabric, .crit, .stopped, .checks, .boat, .slip] s (if (!r.2.1) = true then lutRefused req n 1 r.2.2
        else if (!formatOk ⟨r.1, 1, x.1⟩) = true then lutRefused req n 2 r.2.2
        else if luWo ⟨r.1, 1, x.1⟩ ≠ 0 ∧ req ≠ .cox then lutRefused req n 5 r.2.2
        else if (!keyOk r.2.2 ⟨r.1, 1, x.1⟩) = true then lutRefused req n 6 r.2.2
        else if (!extentsOk x.2 n ⟨r.1, 1, x.1⟩) = true then lutRefused req n 3 x.2
        else lutChanged n 1 (((List.range 64).filter fun k => (nexus x.2 k).isSome).foldl (fun t k => setUa k n true t)
          (setLu n (some ⟨r.1, 1, x.1⟩) x.2))) := fun n r x hr hx =>
    .ite (.app hr (lutRefused_stays ..) (by decide)) (.ite (.app hr (lutRefused_stays ..) (by decide))
      (.ite (.app hr (lutRefused_stays ..) (by decide)) (.ite (.app hr (lutRefused_stays ..) (by decide))
      (.ite (.app hx (lutRefused_stays ..) (by decide)) (.app (.foldl _ _ (fun v k hv => .app hv (setUa_stays ..) (by decide))
        (.app hx (setLu_stays ..) (by decide))) (lutChanged_stays ..) (by decide))))))
  unfold execLuCreate
  refine .next (lutCommand_stays _ _ _ _ _ (fun n t ht => ?_) (by decide) (.refl ..))
  refine .ite (.app ht (lutRefused_stays ..) (by decide)) (.ite (.app ht (lutRefused_stays ..) (by decide)) ?_)
  have hr : Stays [.regs, .bus, .seen, .fabric, .crit, .stopped, .checks, .boat, .slip] s (fetchEntry n t).2.2 := ht.app (fetchEntry_stays n t) (by decide)
  exact fin n (fetchEntry n t) _ hr (hr.app (fetchExtents_stays (fetchEntry n t).1 (fetchEntry n t).2.2) (by decide))

theorem execLuDelete_stays (req : Requester) (v : Word) (s : State) :
    Answers [.regs, .bus, .seen, .fabric, .stopped, .slip] s (execLuDelete req v s) := by
  unfold execLuDelete
  refine .next ?_
  refine lutCommand_stays _ _ _ _ _ ?_ (by decide) ?_
  · intro x u hu
    split
    · rename_i x1 e
      refine .app ?_ (lutRefused_stays ..) (by decide)
      exact hu
    · rename_i x1 u1 e
      refine .ite ?_ ?_
      · refine .app ?_ (lutRefused_stays ..) (by decide)
        exact hu
      · refine .ite ?_ ?_
        · refine .app ?_ (lutRefused_stays ..) (by decide)
          exact hu
        · refine .app ?_ (lutResult_stays ..) (by decide)
          refine .app ?_ (setLu_stays ..) (by decide)
          exact hu
  · exact .refl ..

theorem execLuDeleteDone_stays (n : Nat) (s : State) :
    Answers [.regs, .seen, .fabric, .crit, .queues, .ended, .stopped, .free, .returned, .mem, .checks, .boat, .slip, .cryptos] s (execLuDeleteDone n s) := by
  unfold execLuDeleteDone
  refine .next ?_
  refine .when _ _ (fun u hu => ?_) ?_
  · extract_lets -underBinder -merge -useContext +onlyGivenNames s1
    have h_s1 : Stays [.regs, .seen, .fabric, .crit, .queues, .ended, .stopped, .free, .returned, .mem, .checks, .boat, .slip, .cryptos] s s1 := by
      dsimp -zeta only [s1]
      refine .app ?_ (hostDrain_stays ..) (by decide)
      exact hu
    clear_value s1
    refine .ite ?_ ?_
    · exact h_s1
    · refine .app ?_ (lutChanged_stays ..) (by decide)
      refine .app ?_ (setLu_stays ..) (by decide)
      exact h_s1
  · exact .refl ..

theorem execLuUpdate_stays (req : Requester) (v : Word) (s : State) :
    Answers [.regs, .bus, .seen, .fabric, .crit, .stopped, .checks, .boat, .slip] s (execLuUpdate req v s) := by
  have fin : ∀ (n : Nat) (u : Lu) (r : List Word × Bool × State) (x : List (Nat × Nat) × State), Stays [.regs, .bus, .seen, .fabric, .crit, .stopped, .checks, .boat, .slip] s r.2.2 → Stays [.regs, .bus, .seen, .fabric, .crit, .stopped, .checks, .boat, .slip] s x.2 →
      Stays [.regs, .bus, .seen, .fabric, .crit, .stopped, .checks, .boat, .slip] s (if (!r.2.1) = true then lutRefused req n 1 r.2.2
        else if (!updateOk u ⟨r.1, 1, x.1⟩) = true then lutRefused req n 2 x.2
        else if (!extentsOk x.2 n ⟨r.1, 1, x.1⟩) = true then lutRefused req n 3 x.2
        else lutChanged n 3 (setLu n (some ⟨r.1, 1, x.1⟩) x.2)) := fun n u r x hr hx =>
    .ite (.app hr (lutRefused_stays ..) (by decide)) (.ite (.app hx (lutRefused_stays ..) (by decide))
      (.ite (.app hx (lutRefused_stays ..) (by decide)) (.app (.app hx (setLu_stays ..) (by decide)) (lutChanged_stays ..) (by decide))))
  unfold execLuUpdate
  refine .next (lutCommand_stays _ _ _ _ _ (fun n t ht => ?_) (by decide) (.refl ..))
  split
  · exact .app ht (lutRefused_stays ..) (by decide)
  · refine .ite (.app ht (lutRefused_stays ..) (by decide)) (.ite (.app ht (lutRefused_stays ..) (by decide)) ?_)
    have hr : Stays [.regs, .bus, .seen, .fabric, .crit, .stopped, .checks, .boat, .slip] s (fetchEntry n t).2.2 := ht.app (fetchEntry_stays n t) (by decide)
    exact fin n _ (fetchEntry n t) _ hr (hr.app (fetchExtents_stays (fetchEntry n t).1 (fetchEntry n t).2.2) (by decide))

theorem execLutCmdUnlisted_stays (req : Requester) (v : Word) (s : State) :
    Answers [.regs, .bus, .seen, .fabric, .stopped] s (execLutCmdUnlisted req v s) := by
  unfold execLutCmdUnlisted
  refine .next ?_
  refine .when _ _ (fun u hu => ?_) ?_
  · refine withWrite_stays _ _ _ _ _ ?_ (by decide) ?_
    · intro u1 hu1
      refine .app ?_ (lutRefused_stays ..) (by decide)
      exact hu1
    · exact hu
  · exact .refl ..

end Sys2Proof.Machine
end

