-- ==== Sys2Proof/Laws/StaysPower.lean ====
section
/-! SUPPORT. What the operations and meanings of Machine/Power do at most. -/

set_option linter.all false
set_option maxRecDepth 4000

namespace Sys2Proof.Machine

theorem failReleasesHalts_stays (s : State) :
    Stays [.dbg] s (failReleasesHalts s) := by
  unfold failReleasesHalts
  extract_lets -underBinder -merge -useContext +onlyGivenNames mine vsrc
  refine .app ?_ (.set_dbg _ _) (by decide)
  exact .refl ..

theorem failDump_stays (cause : Nat) (s : State) :
    Stays [.regs, .seen, .fabric, .crit, .stopped, .checks, .boat, .safe, .chip] s (failDump cause s) := by
  unfold failDump
  extract_lets -underBinder -merge -useContext +onlyGivenNames s1 vsrc
  have h_s1 : Stays [.regs, .seen, .fabric, .crit, .stopped, .checks, .boat, .safe, .chip] s s1 := by
    dsimp -zeta only [s1]
    refine .ite ?_ ?_
    · exact .refl ..
    · refine .app ?_ (startDump_stays ..) (by decide)
      exact .refl ..
  clear_value s1
  refine .ite ?_ ?_
  · exact .refl ..
  · refine .ite ?_ ?_
    · exact h_s1
    · refine .app ?_ (.set_chip _ _) (by decide)
      exact h_s1

theorem powerFail_stays (cause : Nat) (s : State) :
    Stays (allBut [.time, .rwlShadow, .bus, .leaks, .consumed, .otp, .smbus]) s (powerFail cause s) := by
  unfold powerFail
  extract_lets -underBinder -merge -useContext +onlyGivenNames s1 s2 s3 s4
  have h_s1 : Stays (allBut [.time, .rwlShadow, .bus, .leaks, .consumed, .otp, .smbus]) s s1 := by
    dsimp -zeta only [s1]
    refine .app ?_ (raise_stays ..) (by decide)
    refine .app ?_ (State.setReg_stays ..) (by decide)
    exact .refl ..
  clear_value s1
  have h_s2 : Stays (allBut [.time, .rwlShadow, .bus, .leaks, .consumed, .otp, .smbus]) s s2 := by
    dsimp -zeta only [s2]
    refine .app ?_ (setIsolation_stays ..) (by decide)
    refine .app ?_ (failReleasesHalts_stays ..) (by decide)
    refine .app ?_ (abandonLevels_stays ..) (by decide)
    refine .app ?_ (cutAll_stays ..) (by decide)
    exact h_s1
  clear_value s2
  have h_s3 : Stays (allBut [.time, .rwlShadow, .bus, .leaks, .consumed, .otp, .smbus]) s s3 := by
    dsimp -zeta only [s3]
    refine .app ?_ (keelPowerFail_stays ..) (by decide)
    refine .foldl _ _ (fun u x hu => ?_) ?_
    · refine .app ?_ (tuneTrip_stays ..) (by decide)
      exact hu
    · exact h_s2
  clear_value s3
  have h_s4 : Stays (allBut [.time, .rwlShadow, .bus, .leaks, .consumed, .otp, .smbus]) s s4 := by
    dsimp -zeta only [s4]
    refine .app ?_ (failDump_stays ..) (by decide)
    refine .app ?_ (retractLoaded_stays ..) (by decide)
    exact h_s3
  clear_value s4
  refine .app ?_ (parkedOff_stays ..) (by decide)
  refine .app ?_ (domainsOff_stays ..) (by decide)
  exact h_s4

theorem showInputs_stays (v12 : Nat) (v5 : Nat) (s : State) :
    Stays [.regs] s (showInputs v12 v5 s) := by
  unfold showInputs
  refine .app ?_ (State.setReg_stays ..) (by decide)
  exact .refl ..

theorem railsAgain_stays (v12 : Nat) (v5 : Nat) (s : State) :
    Stays [.chip] s (railsAgain v12 v5 s) := by
  unfold railsAgain
  extract_lets -underBinder -merge -useContext +onlyGivenNames vsrc
  refine .ite ?_ ?_
  · refine .app ?_ (.set_chip _ _) (by decide)
    exact .refl ..
  · exact .refl ..

theorem execPwrFail_stays (v12 : Nat) (v5 : Nat) (lowNs : Nat) (s : State) :
    Answers (allBut [.time, .rwlShadow, .bus, .leaks, .consumed, .otp, .smbus]) s (execPwrFail v12 v5 lowNs s) := by
  unfold execPwrFail
  refine .next ?_
  refine .ite ?_ ?_
  · refine .app ?_ (railsAgain_stays ..) (by decide)
    exact .refl ..
  · refine .when _ _ (fun u hu => ?_) ?_
    · refine .ite ?_ ?_
      · refine .app ?_ (powerFail_stays ..) (by decide)
        refine .app ?_ (showInputs_stays ..) (by decide)
        exact hu
      · refine .ite ?_ ?_
        · refine .app ?_ (powerFail_stays ..) (by decide)
          refine .app ?_ (showInputs_stays ..) (by decide)
          exact hu
        · exact hu
    · exact .refl ..

theorem execPowerDisable_stays (highUs : Nat) (s : State) :
    Answers (allBut [.time, .rwlShadow, .bus, .leaks, .consumed, .otp, .smbus]) s (execPowerDisable highUs s) := by
  unfold execPowerDisable
  refine .next ?_
  refine .when _ _ (fun u hu => ?_) ?_
  · refine .app ?_ (powerFail_stays ..) (by decide)
    exact hu
  · exact .refl ..

theorem execSupplyWarn_stays (v12 : Nat) (v5 : Nat) (s : State) :
    Answers [.regs, .seen, .fabric, .power] s (execSupplyWarn v12 v5 s) := by
  unfold execSupplyWarn
  refine .next ?_
  refine .when _ _ (fun u hu => ?_) ?_
  · extract_lets -underBinder -merge -useContext +onlyGivenNames low12 low5 s1 s2
    have h_s1 : Stays [.regs, .seen, .fabric, .power] s s1 := by
      dsimp -zeta only [s1]
      refine .ite ?_ ?_
      · refine .app ?_ (raise_stays ..) (by decide)
        exact hu
      · exact hu
    clear_value s1
    have h_s2 : Stays [.regs, .seen, .fabric, .power] s s2 := by
      dsimp -zeta only [s2]
      refine .ite ?_ ?_
      · refine .app ?_ (raise_stays ..) (by decide)
        exact h_s1
      · exact h_s1
    clear_value s2
    refine .app ?_ (modPower_stays ..) (by decide)
    refine .app ?_ (showInputs_stays ..) (by decide)
    exact h_s2
  · exact .refl ..

theorem execReserveUpdate_stays (revolution : Bool) (s : State) :
    Answers [.regs, .seen, .fabric, .crit, .keel, .safePending, .boat, .power] s (execReserveUpdate revolution s) := by
  unfold execReserveUpdate
  refine .next ?_
  refine .when _ _ (fun u hu => ?_) ?_
  · extract_lets -underBinder -merge -useContext +onlyGivenNames n s1
    have h_s1 : Stays [.regs, .seen, .fabric, .crit, .keel, .safePending, .boat, .power] s s1 := by
      dsimp -zeta only [s1]
      refine .app ?_ (modKeel_stays ..) (by decide)
      exact hu
    clear_value s1
    refine .ite ?_ ?_
    · exact h_s1
    · refine .app ?_ (updateCover_stays ..) (by decide)
      refine .app ?_ (State.setReg_stays ..) (by decide)
      exact h_s1
  · exact .refl ..

theorem execDirtyLimitWrite_stays (req : Requester) (addr : Addr) (v : Word) (s : State) :
    Answers [.regs, .bus, .seen, .fabric, .crit, .stopped, .safePending, .boat, .power] s (execDirtyLimitWrite req addr v s) := by
  unfold execDirtyLimitWrite
  refine .next ?_
  refine critWriteAt_stays _ _ _ _ _ _ ?_ (by decide) ?_
  · intro u hu
    refine .app ?_ (wbReview_stays ..) (by decide)
    refine .app ?_ (showHealth_stays ..) (by decide)
    refine .app ?_ (State.critPut_stays ..) (by decide)
    exact hu
  · exact .refl ..

theorem execWbRequestWrite_stays (req : Requester) (addr : Addr) (v : Word) (s : State) :
    Answers [.regs, .bus, .seen, .fabric, .crit, .stopped, .safePending, .boat, .power] s (execWbRequestWrite req addr v s) := by
  unfold execWbRequestWrite
  refine .next ?_
  refine critWriteAt_stays _ _ _ _ _ _ ?_ (by decide) ?_
  · intro u hu
    refine .app ?_ (wbReview_stays ..) (by decide)
    refine .app ?_ (State.critPut_stays ..) (by decide)
    exact hu
  · exact .refl ..

theorem execWbActivate_stays (s : State) :
    Answers [.regs, .seen, .fabric, .crit, .safePending] s (execWbActivate s) := by
  unfold execWbActivate
  refine .next ?_
  refine .when _ _ (fun u hu => ?_) ?_
  · refine .app ?_ (raise_stays ..) (by decide)
    refine .app ?_ (State.setCritFld_stays ..) (by decide)
    exact hu
  · exact .refl ..

theorem execModeTargetWrite_stays (req : Requester) (addr : Addr) (v : Word) (s : State) :
    Answers [.regs, .bus, .seen, .clocks, .fabric, .targets, .crit, .stopped, .free, .safePending, .ucode, .boat, .power] s (execModeTargetWrite req addr v s) := by
  unfold execModeTargetWrite
  refine .next ?_
  refine critWriteAt_stays _ _ _ _ _ _ ?_ (by decide) ?_
  · intro u hu
    refine .ite ?_ ?_
    · refine .app ?_ (modeTargetEffect_stays ..) (by decide)
      exact hu
    · refine .app ?_ (State.critPut_stays ..) (by decide)
      exact hu
  · exact .refl ..

theorem execIdleTimer_stays (s : State) :
    Answers [.regs, .seen, .fabric, .power] s (execIdleTimer s) := by
  unfold execIdleTimer
  refine .next ?_
  refine .when _ _ (fun u hu => ?_) ?_
  · refine .app ?_ (idleStep_stays ..) (by decide)
    exact hu
  · exact .refl ..

theorem execLevelEntered_stays (s : State) :
    Answers (allBut [.time, .rwlShadow, .bus, .leaks, .consumed, .otp, .chip, .smbus]) s (execLevelEntered s) := by
  unfold execLevelEntered
  refine .next ?_
  refine .when _ _ (fun u hu => ?_) ?_
  · refine .app ?_ (advanceEntry_stays ..) (by decide)
    exact hu
  · exact .refl ..

theorem execLevelExit_stays (s : State) :
    Answers [.regs, .seen, .clocks, .fabric, .targets, .stopped, .free, .ucode, .drams, .power] s (execLevelExit s) := by
  unfold execLevelExit
  refine .next ?_
  refine .when _ _ (fun u hu => ?_) ?_
  · refine .app ?_ (beginExit_stays ..) (by decide)
    exact hu
  · exact .refl ..

theorem execLevelExitDone_stays (chopMa : Nat) (s : State) :
    Answers [.regs, .seen, .clocks, .fabric, .targets, .crit, .queues, .ended, .stopped, .keel, .rigger, .free, .safePending, .pres, .hda, .rudders, .tunes, .oars, .sweep, .ucode, .returned, .mem, .checks, .boat, .crew, .slip, .power, .safe, .cryptos] s (execLevelExitDone chopMa s) := by
  unfold execLevelExitDone
  refine .next ?_
  refine .when _ _ (fun u hu => ?_) ?_
  · refine .app ?_ (advanceExit_stays ..) (by decide)
    exact hu
  · exact .refl ..

theorem domainReqEffect_stays (v : Word) (s : State) :
    Stays (allBut [.time, .rwlShadow, .bus, .leaks, .consumed, .otp, .smbus]) s (domainReqEffect v s) := by
  unfold domainReqEffect
  extract_lets -underBinder -merge -useContext +onlyGivenNames ds
  refine .ite ?_ ?_
  · refine .app ?_ (modeRefuse_stays ..) (by decide)
    exact .refl ..
  · refine .ite ?_ ?_
    · refine .foldl _ _ (fun u x hu => ?_) ?_
      · refine .app ?_ (switchOff_stays ..) (by decide)
        exact hu
      · exact .refl ..
    · refine .app ?_ (switchOnAll_stays ..) (by decide)
      exact .refl ..

theorem execDomainSwitchOn_stays (req : Requester) (v : Word) (s : State) :
    Answers (allBut [.time, .rwlShadow, .leaks, .consumed, .otp, .smbus]) s (execDomainSwitchOn req v s) := by
  unfold execDomainSwitchOn
  refine .next ?_
  refine .when _ _ (fun u hu => ?_) ?_
  · refine withWrite_stays _ _ _ _ _ ?_ (by decide) ?_
    · intro u1 hu1
      refine .app ?_ (domainReqEffect_stays ..) (by decide)
      exact hu1
    · exact hu
  · exact .refl ..

theorem execDomainSwitchOff_stays (req : Requester) (v : Word) (s : State) :
    Answers (allBut [.time, .rwlShadow, .leaks, .consumed, .otp, .smbus]) s (execDomainSwitchOff req v s) := by
  unfold execDomainSwitchOff
  refine .next ?_
  refine .when _ _ (fun u hu => ?_) ?_
  · refine withWrite_stays _ _ _ _ _ ?_ (by decide) ?_
    · intro u1 hu1
      refine .app ?_ (domainReqEffect_stays ..) (by decide)
      exact hu1
    · exact hu
  · exact .refl ..

theorem execDomainFault_stays (domain : Nat) (s : State) :
    Answers (allBut [.time, .rwlShadow, .bus, .leaks, .consumed, .otp, .chip, .smbus]) s (execDomainFault domain s) := by
  unfold execDomainFault
  refine .next ?_
  refine .when _ _ (fun u hu => ?_) ?_
  · refine .app ?_ (safeCause_stays ..) (by decide)
    refine .app ?_ (lasting_stays ..) (by decide)
    refine .app ?_ (domainOff_stays ..) (by decide)
    exact hu
  · exact .refl ..

theorem execSafeEnter_stays (s : State) :
    Answers (allBut [.time, .rwlShadow, .bus, .leaks, .consumed, .otp, .chip, .smbus]) s (execSafeEnter s) := by
  unfold execSafeEnter
  split
  · rename_i x1 e
    refine .next ?_
    exact .refl ..
  · rename_i x1 c1 rest1 e
    refine .next ?_
    refine .app ?_ (enterSafe_stays ..) (by decide)
    refine .app ?_ (.set_safePending _ _) (by decide)
    exact .refl ..

end Sys2Proof.Machine
end

