-- ==== Sys2Proof/Laws/StaysQueues.lean ====
section
/-! SUPPORT. What the operations and meanings of Machine/Queues do at most. -/

set_option linter.all false
set_option maxRecDepth 4000

namespace Sys2Proof.Machine

theorem pushWords_stays (q : QueueId) (port : Nat) (words : List Word) (s : State) :
    Stays [.regs, .seen, .fabric, .queues, .ended, .stopped, .oars, .sweep, .gates, .returned, .boat, .slip, .power] s (pushWords q port words s) := by
  unfold pushWords
  extract_lets -underBinder -merge -useContext +onlyGivenNames p ws
  split
  · rename_i x1 t1 e
    refine .app ?_ (endItem_stays ..) (by decide)
    refine .app ?_ (.set_ended _ _) (by decide)
    refine .fst e ?_
    refine .app ?_ (portWrite_stays ..) (by decide)
    exact .refl ..
  · rename_i x1 t1 snd1 e e1
    have h_t : Stays [.regs, .seen, .fabric, .queues, .ended, .stopped, .oars, .sweep, .gates, .returned, .boat, .slip, .power] s t1 := by
      refine .fst e1 ?_
      refine .app ?_ (portWrite_stays ..) (by decide)
      exact .refl ..
    refine .ite ?_ h_t
    refine .app ?_ (firmwarePushed_stays ..) (by decide)
    exact h_t

theorem execQueuePush_stays (q : QueueId) (port : Nat) (words : List Word) (s : State) :
    Answers [.regs, .seen, .fabric, .queues, .ended, .stopped, .oars, .sweep, .gates, .returned, .boat, .slip, .power] s (execQueuePush q port words s) := by
  unfold execQueuePush
  refine .next ?_
  refine .when _ _ (fun u hu => ?_) ?_
  · refine .app ?_ (pushWords_stays ..) (by decide)
    exact hu
  · exact .refl ..

theorem itemParity_stays (q : QueueId) (it : QItem) (s : State) :
    Stays [.regs, .seen, .fabric, .queues, .ended, .stopped, .oars, .sweep, .gates, .returned, .boat, .slip] s (itemParity q it s) := by
  unfold itemParity
  extract_lets -underBinder -merge -useContext +onlyGivenNames tag mine s1
  have h_s1 : Stays [.regs, .seen, .fabric, .queues, .ended, .stopped, .oars, .sweep, .gates, .returned, .boat, .slip] s s1 := by
    dsimp -zeta only [s1]
    refine .app ?_ (qDropItem_stays ..) (by decide)
    refine .app ?_ (State.setFld_stays ..) (by decide)
    exact .refl ..
  clear_value s1
  refine .ite ?_ ?_
  · refine .app ?_ (endItem_stays ..) (by decide)
    refine .app ?_ (lasting_stays ..) (by decide)
    refine .app ?_ (modHq_stays ..) (by decide)
    exact h_s1
  · refine .app ?_ (transient_stays ..) (by decide)
    refine .ite ?_ ?_
    · refine .app ?_ (pushAgain_stays ..) (by decide)
      refine .app ?_ (modHq_stays ..) (by decide)
      exact h_s1
    · refine .app ?_ (modHq_stays ..) (by decide)
      exact h_s1

theorem execQueuePop_stays (q : QueueId) (parityBad : Bool) (s : State) :
    Answers [.regs, .seen, .fabric, .queues, .ended, .stopped, .oars, .sweep, .gates, .returned, .boat, .slip] s (execQueuePop q parityBad s) := by
  unfold execQueuePop
  refine .next ?_
  refine .when _ _ (fun u hu => ?_) ?_
  · split
    · rename_i x1 e
      exact hu
    · rename_i x1 it1 s11 e
      refine .ite ?_ ?_
      · refine .app ?_ (itemParity_stays ..) (by decide)
        refine .app ?_ (qTake_stays _ _ _ e) (by decide)
        exact hu
      · refine .app ?_ (modHq_stays ..) (by decide)
        refine .app ?_ (qGood_stays ..) (by decide)
        refine .app ?_ (qTake_stays _ _ _ e) (by decide)
        exact hu
  · exact .refl ..

theorem execQueueAgePromote_stays (q : QueueId) (s : State) :
    Answers [.regs, .queues] s (execQueueAgePromote q s) := by
  unfold execQueueAgePromote
  refine .next ?_
  refine .when _ _ (fun u hu => ?_) ?_
  · split
    · rename_i x1 items1 n1 e
      refine .app ?_ (State.count_stays ..) (by decide)
      refine .app ?_ (modHq_stays ..) (by decide)
      exact hu
  · exact .refl ..

theorem flushEffect_stays (q : QueueId) (v : Word) (s : State) :
    Stays [.regs, .queues] s (flushEffect q v s) := by
  unfold flushEffect
  extract_lets -underBinder -merge -useContext +onlyGivenNames x x1
  refine .ite ?_ ?_
  · exact .refl ..
  · refine .app ?_ (State.setBit_stays ..) (by decide)
    refine .app ?_ (setHq_stays ..) (by decide)
    exact .refl ..

theorem execFlush_stays (req : Requester) (q : QueueId) (v : Word) (s : State) :
    Answers [.regs, .bus, .seen, .fabric, .queues, .stopped] s (execFlush req q v s) := by
  unfold execFlush
  refine .next ?_
  refine withWrite_stays _ _ _ _ _ ?_ (by decide) ?_
  · intro u hu
    refine .app ?_ (flushEffect_stays ..) (by decide)
    exact hu
  · exact .refl ..

theorem flushedOar_stays (q : QueueId) (s : State) :
    Stays [.regs, .seen, .fabric, .queues, .ended, .stopped, .hda, .rudders, .oars, .sweep, .gates, .returned, .boat] s (flushedOar q s) := by
  unfold flushedOar
  split
  · rename_i q1 o1
    refine .app ?_ (modGate_stays ..) (by decide)
    refine .app ?_ (abortOar_stays ..) (by decide)
    exact .refl ..
  · rename_i q1 e
    exact .refl ..

theorem execFlushTakesEffect_stays (q : QueueId) (s : State) :
    Answers [.regs, .seen, .fabric, .queues, .ended, .stopped, .hda, .rudders, .oars, .sweep, .gates, .returned, .boat, .slip] s (execFlushTakesEffect q s) := by
  unfold execFlushTakesEffect
  extract_lets -underBinder -merge -useContext +onlyGivenNames x
  split
  · rename_i x1 e
    refine .next ?_
    exact .refl ..
  · rename_i x1 ports1 e
    extract_lets -underBinder -merge -useContext +onlyGivenNames unresolved gone heldGone partials discarded x1_1 s1 s2 s3 mask
    have h_s1 : Stays [.regs, .seen, .fabric, .queues, .ended, .stopped, .hda, .rudders, .oars, .sweep, .gates, .returned, .boat, .slip] s s1 := by
      dsimp -zeta only [s1]
      refine .app ?_ (State.setReg_stays ..) (by decide)
      refine .app ?_ (State.setBit_stays ..) (by decide)
      refine .app ?_ (setHq_stays ..) (by decide)
      exact .refl ..
    clear_value s1
    have h_s2 : Stays [.regs, .seen, .fabric, .queues, .ended, .stopped, .hda, .rudders, .oars, .sweep, .gates, .returned, .boat, .slip] s s2 := by
      dsimp -zeta only [s2]
      refine .foldl _ _ (fun u x2 hu => ?_) ?_
      · refine .app ?_ (endDropped_stays ..) (by decide)
        refine .app ?_ (qDropItem_stays ..) (by decide)
        exact hu
      · exact h_s1
    clear_value s2
    have h_s3 : Stays [.regs, .seen, .fabric, .queues, .ended, .stopped, .hda, .rudders, .oars, .sweep, .gates, .returned, .boat, .slip] s s3 := by
      dsimp -zeta only [s3]
      refine .app ?_ (flushedOar_stays ..) (by decide)
      refine .foldl _ _ (fun u x2 hu => ?_) ?_
      · refine .app ?_ (endItem_stays ..) (by decide)
        exact hu
      · exact h_s2
    clear_value s3
    refine .ite ?_ ?_
    · refine .next ?_
      exact .refl ..
    · refine .next ?_
      refine .app ?_ (portsRetry_stays ..) (by decide)
      refine .app ?_ (qNowEmpty_stays ..) (by decide)
      refine .app ?_ (raise_stays ..) (by decide)
      exact h_s3

theorem mismatchOutcome_stays (q : QueueId) (s : State) :
    Stays [.regs, .seen, .fabric, .crit, .queues, .ended, .stopped, .rigger, .free, .safePending, .pres, .hda, .cal, .rudders, .tunes, .oars, .sweep, .gates, .returned, .mem, .checks, .boat, .cache, .crew, .slip, .safe, .keys, .cryptos, .chip, .ump] s (mismatchOutcome q s) := by
  unfold mismatchOutcome
  split
  · rename_i q1 e1
    refine .app ?_ (boatCheck_stays ..) (by decide)
    exact .refl ..
  · rename_i q1 e
    refine .app ?_ (machineCheckOutcome_stays ..) (by decide)
    exact .refl ..

theorem execPointerMismatch_stays (q : QueueId) (s : State) :
    Answers [.regs, .seen, .fabric, .crit, .queues, .ended, .stopped, .rigger, .free, .safePending, .pres, .hda, .cal, .rudders, .tunes, .oars, .sweep, .gates, .returned, .mem, .checks, .boat, .cache, .crew, .slip, .safe, .keys, .cryptos, .chip, .ump] s (execPointerMismatch q s) := by
  unfold execPointerMismatch
  refine .next ?_
  refine .when _ _ (fun u hu => ?_) ?_
  · extract_lets -underBinder -merge -useContext +onlyGivenNames x x1 s0x s1 s2 s3
    have h_s0x : Stays [.regs, .seen, .fabric, .crit, .queues, .ended, .stopped, .rigger, .free, .safePending, .pres, .hda, .cal, .rudders, .tunes, .oars, .sweep, .gates, .returned, .mem, .checks, .boat, .cache, .crew, .slip, .safe, .keys, .cryptos, .chip, .ump] s s0x := by
      dsimp -zeta only [s0x]
      refine .foldl _ _ (fun u1 x2 hu1 => ?_) ?_
      · refine .app ?_ (qDropItem_stays ..) (by decide)
        exact hu1
      · exact hu
    clear_value s0x
    have h_s1 : Stays [.regs, .seen, .fabric, .crit, .queues, .ended, .stopped, .rigger, .free, .safePending, .pres, .hda, .cal, .rudders, .tunes, .oars, .sweep, .gates, .returned, .mem, .checks, .boat, .cache, .crew, .slip, .safe, .keys, .cryptos, .chip, .ump] s s1 := by
      dsimp -zeta only [s1]
      refine .app ?_ (State.setBit_stays ..) (by decide)
      refine .app ?_ (State.count_stays ..) (by decide)
      refine .app ?_ (setHq_stays ..) (by decide)
      exact h_s0x
    clear_value s1
    have h_s2 : Stays [.regs, .seen, .fabric, .crit, .queues, .ended, .stopped, .rigger, .free, .safePending, .pres, .hda, .cal, .rudders, .tunes, .oars, .sweep, .gates, .returned, .mem, .checks, .boat, .cache, .crew, .slip, .safe, .keys, .cryptos, .chip, .ump] s s2 := by
      dsimp -zeta only [s2]
      refine .foldl _ _ (fun u1 x2 hu1 => ?_) ?_
      · refine .app ?_ (endDropped_stays ..) (by decide)
        exact hu1
      · refine .app ?_ (setHq_stays ..) (by decide)
        exact h_s1
    clear_value s2
    have h_s3 : Stays [.regs, .seen, .fabric, .crit, .queues, .ended, .stopped, .rigger, .free, .safePending, .pres, .hda, .cal, .rudders, .tunes, .oars, .sweep, .gates, .returned, .mem, .checks, .boat, .cache, .crew, .slip, .safe, .keys, .cryptos, .chip, .ump] s s3 := by
      dsimp -zeta only [s3]
      refine .foldl _ _ (fun u1 x2 hu1 => ?_) ?_
      · refine .app ?_ (endItem_stays ..) (by decide)
        exact hu1
      · exact h_s2
    clear_value s3
    refine .ite ?_ ?_
    · refine .app ?_ (modHq_stays ..) (by decide)
      refine .app ?_ (mismatchOutcome_stays ..) (by decide)
      refine .app ?_ (lasting_stays ..) (by decide)
      exact h_s3
    · exact h_s1
  · exact .refl ..

theorem execQueueResetDone_stays (q : QueueId) (s : State) :
    Answers [.regs, .seen, .fabric, .queues, .ended, .stopped, .oars, .sweep, .gates, .returned, .boat, .slip] s (execQueueResetDone q s) := by
  unfold execQueueResetDone
  refine .next ?_
  refine .when _ _ (fun u hu => ?_) ?_
  · refine .app ?_ (qNowEmpty_stays ..) (by decide)
    refine .foldl _ _ (fun u1 x hu1 => ?_) ?_
    · refine .app ?_ (pushAgain_stays ..) (by decide)
      exact hu1
    · refine .app ?_ (modHq_stays ..) (by decide)
      exact hu
  · exact .refl ..

theorem setWin_stays (q : QueueId) (c : Nat) (ws : List Word) (s : State) :
    Stays [.queues] s (setWin q c ws s) := by
  unfold setWin
  extract_lets -underBinder -merge -useContext +onlyGivenNames put
  refine .app ?_ (modHq_stays ..) (by decide)
  exact .refl ..

theorem fwPush_stays (q : QueueId) (c : Nat) (s : State) :
    Stays [.regs, .seen, .fabric, .queues, .ended, .stopped, .oars, .sweep, .gates, .returned, .boat, .slip] s (fwPush q c s) := by
  unfold fwPush
  extract_lets -underBinder -merge -useContext +onlyGivenNames ws
  split
  · rename_i x1 e
    refine .app ?_ (modHq_stays ..) (by decide)
    refine .app ?_ (qAdmit_stays ..) (by decide)
    exact .refl ..
  · rename_i x1 e
    refine .app ?_ (endItem_stays ..) (by decide)
    exact .refl ..
  · rename_i x1 e e1
    exact .refl ..

theorem fwPop_stays (q : QueueId) (c : Nat) (bad : Bool) (s : State) :
    Stays [.regs, .seen, .fabric, .queues, .ended, .stopped, .oars, .sweep, .gates, .returned, .boat, .slip] s (fwPop q c bad s) := by
  unfold fwPop
  extract_lets -underBinder -merge -useContext +onlyGivenNames s0x
  have h_s0x : Stays [.regs, .seen, .fabric, .queues, .ended, .stopped, .oars, .sweep, .gates, .returned, .boat, .slip] s s0x := by
    dsimp -zeta only [s0x]
    refine .ite ?_ ?_
    · refine .elim ?_ ?_
      · intro x x1
        refine .app ?_ (itemParity_stays ..) (by decide)
        refine .app ?_ (qTake_stays _ _ _ x1) (by decide)
        exact .refl ..
      · exact .refl ..
    · exact .refl ..
  clear_value s0x
  split
  · rename_i x1 it1 s11 e
    refine .app ?_ (portsRetry_stays ..) (by decide)
    refine .app ?_ (setWin_stays ..) (by decide)
    refine .app ?_ (qGood_stays ..) (by decide)
    refine .app ?_ (qTake_stays _ _ _ e) (by decide)
    exact h_s0x
  · rename_i x1 e
    refine .app ?_ (setWin_stays ..) (by decide)
    exact h_s0x

theorem qPortEffect_stays (req : Requester) (q : QueueId) (v : Word) (bad : Bool) (s : State) :
    Stays [.regs, .seen, .fabric, .queues, .ended, .stopped, .oars, .sweep, .gates, .returned, .boat, .slip] s (qPortEffect req q v bad s) := by
  unfold qPortEffect
  extract_lets -underBinder -merge -useContext +onlyGivenNames c s1
  have h_s1 : Stays [.regs, .seen, .fabric, .queues, .ended, .stopped, .oars, .sweep, .gates, .returned, .boat, .slip] s s1 := by
    dsimp -zeta only [s1]
    refine .ite ?_ ?_
    · refine .app ?_ (fwPush_stays ..) (by decide)
      exact .refl ..
    · exact .refl ..
  clear_value s1
  refine .ite ?_ ?_
  · refine .app ?_ (fwPop_stays ..) (by decide)
    exact h_s1
  · exact h_s1

theorem execFwQueuePush_stays (req : Requester) (q : QueueId) (v : Word) (s : State) :
    Answers [.regs, .bus, .seen, .fabric, .queues, .ended, .stopped, .oars, .sweep, .gates, .returned, .boat, .slip] s (execFwQueuePush req q v s) := by
  unfold execFwQueuePush
  refine .next ?_
  refine .when _ _ (fun u hu => ?_) ?_
  · refine withWrite_stays _ _ _ _ _ ?_ (by decide) ?_
    · intro u1 hu1
      refine .app ?_ (qPortEffect_stays ..) (by decide)
      exact hu1
    · exact hu
  · exact .refl ..

theorem execFwQueuePop_stays (req : Requester) (q : QueueId) (x : PopWrite) (s : State) :
    Answers [.regs, .bus, .seen, .fabric, .queues, .ended, .stopped, .oars, .sweep, .gates, .returned, .boat, .slip] s (execFwQueuePop req q x s) := by
  unfold execFwQueuePop
  refine .next ?_
  refine .when _ _ (fun u hu => ?_) ?_
  · refine withWriteOut_stays _ _ _ _ _ _ ?_ (by decide) ?_
    · intro u1 hu1
      refine .app ?_ (qPortEffect_stays ..) (by decide)
      exact hu1
    · exact hu
  · exact .refl ..

end Sys2Proof.Machine
end

