-- ==== Sys2Proof/Laws/StaysSafeStore.lean ====
section
/-! SUPPORT. What the operations and meanings of Machine/SafeStore do at most. -/

set_option linter.all false
set_option maxRecDepth 4000

namespace Sys2Proof.Machine

theorem dumpOver_stays (d : Dump) (s : State) :
    Stays [.regs, .seen, .fabric, .crit, .keel, .rigger, .safePending, .tunes, .boat, .power, .safe, .chip] s (dumpOver d s) := by
  unfold dumpOver
  extract_lets -underBinder -merge -useContext +onlyGivenNames s1 vsrc
  have h_s1 : Stays [.regs, .seen, .fabric, .crit, .keel, .rigger, .safePending, .tunes, .boat, .power, .safe, .chip] s s1 := by
    dsimp -zeta only [s1]
    refine .app ?_ (wbReview_stays ..) (by decide)
    refine .app ?_ (closeDump_stays ..) (by decide)
    exact .refl ..
  clear_value s1
  refine .ite ?_ ?_
  · refine .app ?_ (keelHalts_stays ..) (by decide)
    refine .app ?_ (.set_chip _ _) (by decide)
    exact h_s1
  · exact h_s1

theorem nextDumpPage_stays (d : Dump) (s : State) :
    Stays [.regs, .seen, .fabric, .crit, .keel, .rigger, .safePending, .tunes, .boat, .power, .safe, .chip] s (nextDumpPage d s) := by
  unfold nextDumpPage
  split
  · rename_i x1 k1 e
    refine .app ?_ (dumpPage_stays ..) (by decide)
    exact .refl ..
  · rename_i x1 e
    refine .app ?_ (dumpOver_stays ..) (by decide)
    exact .refl ..

theorem execNandProgramDone_stays (good : Bool) (s : State) :
    Answers [.regs, .seen, .fabric, .crit, .stopped, .keel, .rigger, .safePending, .tunes, .boat, .power, .safe, .chip] s (execNandProgramDone good s) := by
  unfold execNandProgramDone
  split
  · rename_i x1 e
    refine .next ?_
    exact .refl ..
  · rename_i x1 d1 e
    refine .next ?_
    refine .when _ _ (fun u hu => ?_) ?_
    · extract_lets -underBinder -merge -useContext +onlyGivenNames s1 s2
      have h_s1 : Stays [.regs, .seen, .fabric, .crit, .stopped, .keel, .rigger, .safePending, .tunes, .boat, .power, .safe, .chip] s s1 := by
        dsimp -zeta only [s1]
        refine .app ?_ (setNandPage_stays ..) (by decide)
        exact hu
      clear_value s1
      have h_s2 : Stays [.regs, .seen, .fabric, .crit, .stopped, .keel, .rigger, .safePending, .tunes, .boat, .power, .safe, .chip] s s2 := by
        dsimp -zeta only [s2]
        refine .ite ?_ ?_
        · refine .app ?_ (transient_stays ..) (by decide)
          exact h_s1
        · exact h_s1
      clear_value s2
      refine .ite ?_ ?_
      · refine .ite ?_ ?_
        · refine .app ?_ (modSafe_stays ..) (by decide)
          exact h_s2
        · refine .app ?_ (nextDumpPage_stays ..) (by decide)
          exact h_s2
      · refine .ite ?_ ?_
        · refine .app ?_ (dumpOver_stays ..) (by decide)
          refine .app ?_ (lasting_stays ..) (by decide)
          exact h_s1
        · split
          · rename_i x2 k1 e1
            refine .app ?_ (modSafe_stays ..) (by decide)
            exact h_s1
          · rename_i x2 e1
            refine .app ?_ (dumpOver_stays ..) (by decide)
            exact h_s1
    · exact .refl ..

theorem execDumpDone_stays (s : State) :
    Answers [.regs, .seen, .fabric, .crit, .keel, .rigger, .safePending, .tunes, .boat, .power, .safe, .chip] s (execDumpDone s) := by
  unfold execDumpDone
  split
  · rename_i x1 d1 e
    refine .next ?_
    refine .ite ?_ ?_
    · refine .app ?_ (dumpOver_stays ..) (by decide)
      exact .refl ..
    · exact .refl ..
  · rename_i x1 e
    refine .next ?_
    exact .refl ..

theorem safeResult_stays (outcome : Nat) (code : Nat) (s : State) :
    Stays [.regs] s (safeResult outcome code s) := by
  unfold safeResult
  refine .app ?_ (State.setReg_stays ..) (by decide)
  exact .refl ..

theorem safeCommand_stays {P : List Piece} {s0 : State} (op : Nat) (req : Requester) (v : Word) (eff : State → State) (s : State) (h_eff : ∀ u, Stays P s0 u → Stays P s0 (eff u)) (hq : sub [.regs, .bus, .seen, .fabric, .stopped] P = true) (h0 : Stays P s0 s) :
    Stays P s0 (safeCommand op req v eff s) := by
  unfold safeCommand
  refine .when _ _ (fun u hu => ?_) ?_
  · refine withWrite_stays _ _ _ _ _ ?_ (sub_trans (by decide) hq) ?_
    · intro u1 hu1
      refine .ite ?_ ?_
      · exact hu1
      · refine .ite ?_ ?_
        · refine .app ?_ (safeResult_stays ..) (sub_trans (by decide) hq)
          exact hu1
        · refine h_eff _ ?_
          exact hu1
    · exact hu
  · exact h0

theorem showDumps_stays (s : State) :
    Stays [.regs, .seen, .fabric, .crit, .safePending, .safe] s (showDumps s) := by
  unfold showDumps
  extract_lets -underBinder -merge -useContext +onlyGivenNames d s1 s2 held seqs newer s3 s4
  have h_s1 : Stays [.regs, .seen, .fabric, .crit, .safePending, .safe] s s1 := by
    dsimp -zeta only [s1]
    refine .app ?_ (modSafe_stays ..) (by decide)
    exact .refl ..
  clear_value s1
  have h_s2 : Stays [.regs, .seen, .fabric, .crit, .safePending, .safe] s s2 := by
    dsimp -zeta only [s2]
    clear_value d
    split
    · rename_i d1 a1 h1
      refine .app ?_ (putDumpState_stays ..) (by decide)
      exact h_s1
    · rename_i d1
      refine .app ?_ (putDumpState_stays ..) (by decide)
      exact h_s1
  clear_value s2
  have h_s3 : Stays [.regs, .seen, .fabric, .crit, .safePending, .safe] s s3 := by
    dsimp -zeta only [s3]
    refine .foldl _ _ (fun u x hu => ?_) ?_
    · refine .app ?_ (State.setCritFld_stays ..) (by decide)
      exact hu
    · exact h_s2
  clear_value s3
  have h_s4 : Stays [.regs, .seen, .fabric, .crit, .safePending, .safe] s s4 := by
    dsimp -zeta only [s4]
    split
    · rename_i x1 a1 e
      refine .app ?_ (State.setCritFld_stays ..) (by decide)
      exact h_s3
    · rename_i x1 e
      exact h_s3
  clear_value s4
  refine .foldl _ _ (fun u x hu => ?_) ?_
  · refine .app ?_ (State.setReg_stays ..) (by decide)
    exact hu
  · exact h_s4

theorem scanEffect_stays (chip : Option NandChip) (health : HealthEnd) (s : State) :
    Stays [.regs, .seen, .fabric, .crit, .stopped, .safePending, .boat, .power, .safe] s (scanEffect chip health s) := by
  unfold scanEffect
  extract_lets -underBinder -merge -useContext +onlyGivenNames s1
  have h_s1 : Stays [.regs, .seen, .fabric, .crit, .stopped, .safePending, .boat, .power, .safe] s s1 := by
    dsimp -zeta only [s1]
    split
    · rename_i chip1 c1
      refine .app ?_ (State.setReg_stays ..) (by decide)
      refine .app ?_ (modSafe_stays ..) (by decide)
      exact .refl ..
    · rename_i chip1
      refine .app ?_ (State.setReg_stays ..) (by decide)
      refine .app ?_ (modSafe_stays ..) (by decide)
      exact .refl ..
  clear_value s1
  refine .ite ?_ ?_
  · refine .app ?_ (safeResult_stays ..) (by decide)
    exact .refl ..
  · refine .app ?_ (wbReview_stays ..) (by decide)
    refine .app ?_ (safeResult_stays ..) (by decide)
    refine .app ?_ (runChecks_stays ..) (by decide)
    refine .app ?_ (showDumps_stays ..) (by decide)
    exact h_s1

theorem execSafeScan_stays (req : Requester) (v : Word) (chip : Option NandChip) (health : HealthEnd) (s : State) :
    Answers [.regs, .bus, .seen, .fabric, .crit, .stopped, .safePending, .boat, .power, .safe] s (execSafeScan req v chip health s) := by
  unfold execSafeScan
  refine .next ?_
  refine safeCommand_stays _ _ _ _ _ ?_ (by decide) ?_
  · intro u hu
    refine .app ?_ (scanEffect_stays ..) (by decide)
    exact hu
  · exact .refl ..

theorem safeBegin_stays (op : Nat) (s : State) :
    Stays [.regs, .safe] s (safeBegin op s) := by
  unfold safeBegin
  refine .app ?_ (safeResult_stays ..) (by decide)
  refine .app ?_ (modSafe_stays ..) (by decide)
  exact .refl ..

theorem safeEnd_stays (s : State) :
    Stays [.regs, .safe] s (safeEnd s) := by
  unfold safeEnd
  refine .app ?_ (safeResult_stays ..) (by decide)
  refine .app ?_ (modSafe_stays ..) (by decide)
  exact .refl ..

theorem execSafePrepare_stays (req : Requester) (v : Word) (s : State) :
    Answers [.regs, .bus, .seen, .fabric, .stopped, .safe] s (execSafePrepare req v s) := by
  unfold execSafePrepare
  refine .next ?_
  refine safeCommand_stays _ _ _ _ _ ?_ (by decide) ?_
  · intro u hu
    refine .app ?_ (safeBegin_stays ..) (by decide)
    exact hu
  · exact .refl ..

theorem execSafePrepareDone_stays (worn : List Nat) (health : HealthEnd) (s : State) :
    Answers [.regs, .seen, .fabric, .crit, .stopped, .safePending, .boat, .power, .safe] s (execSafePrepareDone worn health s) := by
  unfold execSafePrepareDone
  refine .next ?_
  refine .when _ _ (fun u hu => ?_) ?_
  · extract_lets -underBinder -merge -useContext +onlyGivenNames s1
    have h_s1 : Stays [.regs, .seen, .fabric, .crit, .stopped, .safePending, .boat, .power, .safe] s s1 := by
      dsimp -zeta only [s1]
      refine .foldl _ _ (fun u1 x hu1 => ?_) ?_
      · refine .ite ?_ ?_
        · exact hu1
        · refine .app ?_ (eraseArea_stays ..) (by decide)
          exact hu1
      · exact hu
    clear_value s1
    refine .app ?_ (wbReview_stays ..) (by decide)
    refine .app ?_ (safeEnd_stays ..) (by decide)
    refine .app ?_ (runChecks_stays ..) (by decide)
    exact h_s1
  · exact .refl ..

theorem execSafeRelease_stays (req : Requester) (v : Word) (s : State) :
    Answers [.regs, .bus, .seen, .fabric, .crit, .stopped, .safePending, .boat, .power, .safe] s (execSafeRelease req v s) := by
  unfold execSafeRelease
  refine .next ?_
  refine safeCommand_stays _ _ _ _ _ ?_ (by decide) ?_
  · intro u hu
    refine .app ?_ (wbReview_stays ..) (by decide)
    refine .app ?_ (safeResult_stays ..) (by decide)
    refine .app ?_ (releaseArea_stays ..) (by decide)
    exact hu
  · exact .refl ..

theorem execHealthTest_stays (req : Requester) (v : Word) (health : HealthEnd) (s : State) :
    Answers [.regs, .bus, .seen, .fabric, .crit, .stopped, .safePending, .boat, .power, .safe] s (execHealthTest req v health s) := by
  unfold execHealthTest
  refine .next ?_
  refine safeCommand_stays _ _ _ _ _ ?_ (by decide) ?_
  · intro u hu
    refine .app ?_ (wbReview_stays ..) (by decide)
    refine .app ?_ (safeResult_stays ..) (by decide)
    refine .app ?_ (runChecks_stays ..) (by decide)
    exact hu
  · exact .refl ..

theorem execHealthPeriod_stays (health : HealthEnd) (s : State) :
    Answers [.regs, .seen, .fabric, .crit, .stopped, .safePending, .boat, .power, .safe] s (execHealthPeriod health s) := by
  unfold execHealthPeriod
  refine .next ?_
  refine .when _ _ (fun u hu => ?_) ?_
  · refine .ite ?_ ?_
    · refine .app ?_ (modSafe_stays ..) (by decide)
      exact hu
    · refine .app ?_ (wbReview_stays ..) (by decide)
      refine .app ?_ (runChecks_stays ..) (by decide)
      exact hu
  · exact .refl ..

theorem execSafeCmdUnlisted_stays (req : Requester) (v : Word) (s : State) :
    Answers [.regs, .bus, .seen, .fabric, .stopped] s (execSafeCmdUnlisted req v s) := by
  unfold execSafeCmdUnlisted
  refine .next ?_
  refine .when _ _ (fun u hu => ?_) ?_
  · refine safeCommand_stays _ _ _ _ _ ?_ (by decide) ?_
    · intro u1 hu1
      refine .app ?_ (safeResult_stays ..) (by decide)
      exact hu1
    · exact hu
  · exact .refl ..

theorem execSafeRestore_stays (req : Requester) (v : Word) (s : State) :
    Answers [.regs, .bus, .seen, .fabric, .stopped, .safe] s (execSafeRestore req v s) := by
  unfold execSafeRestore
  refine .next ?_
  refine safeCommand_stays _ _ _ _ _ ?_ (by decide) ?_
  · intro u hu
    split
    · rename_i x1 e
      refine .app ?_ (safeResult_stays ..) (by decide)
      exact hu
    · rename_i x1 a1 h1 e
      refine .ite ?_ ?_
      · refine .app ?_ (safeResult_stays ..) (by decide)
        exact hu
      · refine .ite ?_ ?_
        · refine .app ?_ (safeResult_stays ..) (by decide)
          exact hu
        · refine .app ?_ (safeBegin_stays ..) (by decide)
          exact hu
  · exact .refl ..

theorem restorePoisoned_stays (g : Nat) (s : State) :
    Stays [.regs, .free, .mem, .checks] s (restorePoisoned g s) := by
  unfold restorePoisoned
  refine .app ?_ (State.count_stays ..) (by decide)
  refine .app ?_ (State.useFree_stays ..) (by decide)
  refine .app ?_ (putGranule_stays ..) (by decide)
  exact .refl ..

theorem restoreRegion_stays (bad : List Nat) (i : Nat) (off : Nat) (bs : List Byte) (s : State) :
    Stays [.regs, .seen, .fabric, .stopped, .free, .mem, .checks, .boat] s (restoreRegion bad i off bs s) := by
  unfold restoreRegion
  refine .foldl _ _ (fun u x hu => ?_) ?_
  · extract_lets -underBinder -merge -useContext +onlyGivenNames part
    refine .ite ?_ ?_
    · refine .app ?_ (restorePoisoned_stays ..) (by decide)
      exact hu
    · refine .app ?_ (storeBytes_stays ..) (by decide)
      exact hu
  · exact .refl ..

theorem restoreDirty_stays (bad : List Nat) (i : Nat) (bs : List Byte) (gs : List Nat) (s : State) :
    Stays [.regs, .free, .mem, .checks] s (restoreDirty bad i bs gs s) := by
  unfold restoreDirty
  refine .foldl _ _ (fun u x hu => ?_) ?_
  · extract_lets -underBinder -merge -useContext +onlyGivenNames u_1
    refine .ite ?_ ?_
    · refine .app ?_ (restorePoisoned_stays ..) (by decide)
      exact hu
    · refine .app ?_ (putCheck_stays ..) (by decide)
      refine .app ?_ (State.putBytes_stays ..) (by decide)
      exact hu
  · exact .refl ..

theorem restoreSection_stays (bad : List Nat) (st : List (List Byte)) (table : List Byte) (s : State) (x : Nat × Nat × Nat × Nat) :
    Stays [.regs, .seen, .fabric, .stopped, .free, .mem, .checks, .boat] s (restoreSection bad st table s x) := by
  unfold restoreSection
  extract_lets -underBinder -merge -useContext +onlyGivenNames bs
  refine .ite ?_ ?_
  · refine .ite ?_ ?_
    · exact .refl ..
    · refine .app ?_ (restoreRegion_stays ..) (by decide)
      exact .refl ..
  · refine .ite ?_ ?_
    · refine .app ?_ (restoreDirty_stays ..) (by decide)
      exact .refl ..
    · refine .app ?_ (restoreRegion_stays ..) (by decide)
      exact .refl ..

theorem execRestoreDone_stays (badPages : List Nat) (s : State) :
    Answers [.regs, .seen, .fabric, .crit, .stopped, .free, .safePending, .mem, .checks, .boat, .safe] s (execRestoreDone badPages s) := by
  unfold execRestoreDone
  split
  · rename_i x1 x2 a1 h1 e e1
    refine .next ?_
    refine .when _ _ (fun u hu => ?_) ?_
    · extract_lets -underBinder -merge -useContext +onlyGivenNames st table before s1 n pl s2
      have h_s1 : Stays [.regs, .seen, .fabric, .crit, .stopped, .free, .safePending, .mem, .checks, .boat, .safe] s s1 := by
        dsimp -zeta only [s1]
        refine .foldl _ _ (fun u1 x hu1 => ?_) ?_
        · refine .app ?_ (restoreSection_stays ..) (by decide)
          exact hu1
        · exact hu
      clear_value s1
      have h_s2 : Stays [.regs, .seen, .fabric, .crit, .stopped, .free, .safePending, .mem, .checks, .boat, .safe] s s2 := by
        dsimp -zeta only [s2]
        refine .app ?_ (safeEnd_stays ..) (by decide)
        refine .app ?_ (State.setCritFld_stays ..) (by decide)
        exact h_s1
      clear_value s2
      refine .ite ?_ ?_
      · refine .app ?_ (raise_stays ..) (by decide)
        exact h_s2
      · refine .app ?_ (lasting_stays ..) (by decide)
        exact h_s2
    · exact .refl ..
  · rename_i x1 x2 e
    refine .next ?_
    exact .refl ..

theorem rewriteEntry_stays (s : State) (i : Nat) :
    Stays [.oars, .gates, .safe] s (rewriteEntry s i) := by
  unfold rewriteEntry
  extract_lets -underBinder -merge -useContext +onlyGivenNames m a raw at_
  refine .ite ?_ ?_
  · exact .refl ..
  · split
    · rename_i x1 e
      refine .app ?_ (modSafe_stays ..) (by decide)
      exact .refl ..
    · rename_i x1 k1 e1 e2
      extract_lets -underBinder -merge -useContext +onlyGivenNames x id r
      refine .app ?_ (setSectorHeld_stays ..) (by decide)
      refine .app ?_ (setGateMap_stays ..) (by decide)
      refine .app ?_ (modGate_stays ..) (by decide)
      refine .app ?_ (setEntry_stays ..) (by decide)
      exact .refl ..

theorem execSafeRewriteCut_stays (req : Requester) (v : Word) (s : State) :
    Answers [.regs, .bus, .seen, .fabric, .stopped, .oars, .gates, .safe] s (execSafeRewriteCut req v s) := by
  unfold execSafeRewriteCut
  refine .next ?_
  refine safeCommand_stays _ _ _ _ _ ?_ (by decide) ?_
  · intro u hu
    refine .foldl _ _ (fun u1 x hu1 => ?_) ?_
    · refine .app ?_ (rewriteEntry_stays ..) (by decide)
      exact hu1
    · refine .app ?_ (safeBegin_stays ..) (by decide)
      refine .app ?_ (modSafe_stays ..) (by decide)
      exact hu
  · exact .refl ..

theorem retryCut_stays (s : State) :
    Stays [.oars, .gates, .safe] s (retryCut s) := by
  unfold retryCut
  refine .foldl _ _ (fun u x hu => ?_) ?_
  · refine .app ?_ (rewriteEntry_stays ..) (by decide)
    exact hu
  · refine .app ?_ (modSafe_stays ..) (by decide)
    exact .refl ..

theorem execCutRewritten_stays (s : State) :
    Answers [.regs, .seen, .fabric, .oars, .gates, .safe] s (execCutRewritten s) := by
  unfold execCutRewritten
  refine .next ?_
  refine .when _ _ (fun u hu => ?_) ?_
  · extract_lets -underBinder -merge -useContext +onlyGivenNames s_1 n
    have h_s_1 : Stays [.regs, .seen, .fabric, .oars, .gates, .safe] s s_1 := by
      dsimp -zeta only [s_1]
      refine .app ?_ (retryCut_stays ..) (by decide)
      exact hu
    clear_value s_1
    refine .ite ?_ ?_
    · exact h_s_1
    · refine .app ?_ (raise_stays ..) (by decide)
      refine .app ?_ (safeEnd_stays ..) (by decide)
      refine .app ?_ (modSafe_stays ..) (by decide)
      exact h_s_1
  · exact .refl ..

end Sys2Proof.Machine
end

