-- ==== Sys2Proof/Laws/StaysSweep.lean ====
section
/-! SUPPORT. What the operations and meanings of Machine/Sweep do at most. -/

set_option linter.all false
set_option maxRecDepth 4000

namespace Sys2Proof.Machine

theorem slotParity_stays (n : Nat) (x : DecSlot) (s : State) :
    Stays [.regs, .seen, .fabric, .queues, .ended, .stopped, .oars, .sweep, .returned, .boat] s (slotParity n x s) := by
  unfold slotParity
  extract_lets -underBinder -merge -useContext +onlyGivenNames s1
  have h_s1 : Stays [.regs, .seen, .fabric, .queues, .ended, .stopped, .oars, .sweep, .returned, .boat] s s1 := by
    dsimp -zeta only [s1]
    refine .app ?_ (raise_stays ..) (by decide)
    refine .app ?_ (State.count_stays ..) (by decide)
    exact .refl ..
  clear_value s1
  refine .ite ?_ ?_
  · refine .app ?_ (State.count_stays ..) (by decide)
    refine .app ?_ (modEntry_stays ..) (by decide)
    refine .app ?_ (freeDec_stays ..) (by decide)
    exact h_s1
  · refine .ite ?_ ?_
    · refine .app ?_ (verifyEnd_stays ..) (by decide)
      refine .app ?_ (freeDec_stays ..) (by decide)
      exact h_s1
    · refine .ite ?_ ?_
      · refine .app ?_ (enterLadder_stays ..) (by decide)
        exact h_s1
      · refine .app ?_ (readFailed_stays ..) (by decide)
        exact h_s1

theorem execLaneDispatch_stays (lane : Nat) (parityBad : Bool) (s : State) :
    Answers [.regs, .seen, .fabric, .queues, .ended, .stopped, .hda, .rudders, .oars, .sweep, .returned, .consumed, .mem, .checks, .boat] s (execLaneDispatch lane parityBad s) := by
  unfold execLaneDispatch
  refine .next ?_
  refine .when _ _ (fun u hu => ?_) ?_
  · extract_lets -underBinder -merge -useContext +onlyGivenNames s1
    have h_s1 : Stays [.regs, .seen, .fabric, .queues, .ended, .stopped, .hda, .rudders, .oars, .sweep, .returned, .consumed, .mem, .checks, .boat] s s1 := by
      dsimp -zeta only [s1]
      refine .ite ?_ ?_
      · refine .app ?_ (readsArrive_stays ..) (by decide)
        exact hu
      · exact hu
    clear_value s1
    refine .ite ?_ ?_
    · exact h_s1
    · split
      · rename_i x1 e
        exact h_s1
      · rename_i x1 n1 x2 e
        extract_lets -underBinder -merge -useContext +onlyGivenNames slice s2
        have h_s2 : Stays [.regs, .seen, .fabric, .queues, .ended, .stopped, .hda, .rudders, .oars, .sweep, .returned, .consumed, .mem, .checks, .boat] s s2 := by
          dsimp -zeta only [s2]
          refine .app ?_ (modSweep_stays ..) (by decide)
          exact h_s1
        clear_value s2
        refine .ite ?_ ?_
        · refine .app ?_ (readFailed_stays ..) (by decide)
          exact h_s1
        · refine .ite ?_ ?_
          · refine .app ?_ (slotParity_stays ..) (by decide)
            exact h_s1
          · refine .app ?_ (setLane_stays ..) (by decide)
            refine .app ?_ (modDec_stays ..) (by decide)
            exact h_s2
  · exact .refl ..

theorem laneBusy_stays (l : Nat) (ns : Nat) (s : State) :
    Stays [.regs, .sweep] s (laneBusy l ns s) := by
  unfold laneBusy
  extract_lets -underBinder -merge -useContext +onlyGivenNames t
  refine .app ?_ (State.count_stays ..) (by decide)
  refine .app ?_ (modSweep_stays ..) (by decide)
  exact .refl ..

theorem laneRejected_stays (l : Nat) (n : Nat) (s : State) :
    Stays [.regs, .seen, .fabric, .crit, .queues, .ended, .stopped, .keel, .rigger, .free, .safePending, .pres, .hda, .cal, .rudders, .tunes, .oars, .sweep, .gates, .returned, .mem, .checks, .boat, .cache, .crew, .slip, .safe, .keys, .cryptos, .chip, .ump] s (laneRejected l n s) := by
  unfold laneRejected
  extract_lets -underBinder -merge -useContext +onlyGivenNames s1
  have h_s1 : Stays [.regs, .seen, .fabric, .crit, .queues, .ended, .stopped, .keel, .rigger, .free, .safePending, .pres, .hda, .cal, .rudders, .tunes, .oars, .sweep, .gates, .returned, .mem, .checks, .boat, .cache, .crew, .slip, .safe, .keys, .cryptos, .chip, .ump] s s1 := by
    dsimp -zeta only [s1]
    refine .app ?_ (State.count_stays ..) (by decide)
    exact .refl ..
  clear_value s1
  split
  · rename_i x1 e
    exact h_s1
  · rename_i x1 x2 e
    split
    · rename_i x3 e1
      refine .app ?_ (setDec_stays ..) (by decide)
      exact h_s1
    · rename_i x3 b1 e1
      refine .app ?_ (machineCheck_stays ..) (by decide)
      refine .app ?_ (lasting_stays ..) (by decide)
      exact h_s1

theorem countFirst_stays (iters : Nat) (out : PassEnd) (s : State) :
    Stays [.regs] s (countFirst iters out s) := by
  unfold countFirst
  split
  · rename_i out1 p1
    refine .app ?_ (State.count_stays ..) (by decide)
    refine .app ?_ (State.count_stays ..) (by decide)
    exact .refl ..
  · rename_i out1 e
    exact .refl ..

theorem endPass_stays (l : Nat) (slice : Bool) (r : DecodeEnd) (s : State) :
    Stays (allBut [.time, .rwlShadow, .bus, .clocks, .strokes, .targets, .leaks, .couple, .ucode, .drams, .scrub, .power, .otp, .dbg, .smbus]) s (endPass l slice r s) := by
  unfold endPass
  split
  · rename_i x1 e
    exact .refl ..
  · rename_i x1 x2 e
    extract_lets -underBinder -merge -useContext +onlyGivenNames from_
    split
    · rename_i x3 e1
      exact .refl ..
    · rename_i x3 out1 e1
      extract_lets -underBinder -merge -useContext +onlyGivenNames iters bits s1
      have h_s1 : Stays (allBut [.time, .rwlShadow, .bus, .clocks, .strokes, .targets, .leaks, .couple, .ucode, .drams, .scrub, .power, .otp, .dbg, .smbus]) s s1 := by
        dsimp -zeta only [s1]
        refine .app ?_ (laneBusy_stays ..) (by decide)
        refine .app ?_ (setLane_stays ..) (by decide)
        exact .refl ..
      clear_value s1
      refine .ite ?_ ?_
      · refine .app ?_ (laneRejected_stays ..) (by decide)
        exact h_s1
      · split
        · rename_i x4 e2
          exact h_s1
        · rename_i x4 x5 e2
          extract_lets -underBinder -merge -useContext +onlyGivenNames s2 s3 s4
          have h_s2 : Stays (allBut [.time, .rwlShadow, .bus, .clocks, .strokes, .targets, .leaks, .couple, .ucode, .drams, .scrub, .power, .otp, .dbg, .smbus]) s s2 := by
            dsimp -zeta only [s2]
            split
            · rename_i x6 i1 e3
              refine .app ?_ (transient_stays ..) (by decide)
              exact h_s1
            · rename_i x6 e3
              exact h_s1
          clear_value s2
          have h_s3 : Stays (allBut [.time, .rwlShadow, .bus, .clocks, .strokes, .targets, .leaks, .couple, .ucode, .drams, .scrub, .power, .otp, .dbg, .smbus]) s s3 := by
            dsimp -zeta only [s3]
            refine .app ?_ (modDec_stays ..) (by decide)
            exact h_s2
          clear_value s3
          have h_s4 : Stays (allBut [.time, .rwlShadow, .bus, .clocks, .strokes, .targets, .leaks, .couple, .ucode, .drams, .scrub, .power, .otp, .dbg, .smbus]) s s4 := by
            dsimp -zeta only [s4]
            refine .ite ?_ ?_
            · exact h_s3
            · refine .app ?_ (countFirst_stays ..) (by decide)
              exact h_s3
          clear_value s4
          refine .app ?_ (askWrite_stays ..) (by decide)
          refine .app ?_ (actOnPass_stays ..) (by decide)
          exact h_s4

theorem execDecodeEnd_stays (lane : Nat) (r : DecodeEnd) (s : State) :
    Answers (allBut [.time, .rwlShadow, .bus, .clocks, .strokes, .targets, .leaks, .couple, .ucode, .drams, .scrub, .power, .otp, .dbg, .smbus]) s (execDecodeEnd lane r s) := by
  unfold execDecodeEnd
  refine .next ?_
  refine .when _ _ (fun u hu => ?_) ?_
  · refine .app ?_ (endPass_stays ..) (by decide)
    exact hu
  · exact .refl ..

theorem execSliceEnd_stays (lane : Nat) (r : DecodeEnd) (s : State) :
    Answers (allBut [.time, .rwlShadow, .bus, .clocks, .strokes, .targets, .leaks, .couple, .ucode, .drams, .scrub, .power, .otp, .dbg, .smbus]) s (execSliceEnd lane r s) := by
  unfold execSliceEnd
  refine .next ?_
  refine .when _ _ (fun u hu => ?_) ?_
  · refine .app ?_ (endPass_stays ..) (by decide)
    exact hu
  · exact .refl ..

theorem execReequalise_stays (slot : Nat) (input : Nat) (s : State) :
    Answers [.sweep] s (execReequalise slot input s) := by
  unfold execReequalise
  refine .next ?_
  refine .when _ _ (fun u hu => ?_) ?_
  · split
    · rename_i x1 e
      exact hu
    · rename_i x1 x2 e
      split
      · rename_i x3 e1
        exact hu
      · rename_i x3 e1 e2
        refine .when _ _ (fun u1 hu1 => ?_) ?_
        · refine .app ?_ (modDec_stays ..) (by decide)
          exact hu1
        · exact hu
  · exact .refl ..

theorem withdrawRecover_stays (x : DecSlot) (s : State) :
    Stays [.regs, .seen, .fabric, .queues, .gates] s (withdrawRecover x s) := by
  unfold withdrawRecover
  extract_lets -underBinder -merge -useContext +onlyGivenNames a k
  split
  · rename_i x1 j1 e
    refine .app ?_ (withdrawJob_stays ..) (by decide)
    exact .refl ..
  · rename_i x1 e
    exact .refl ..

theorem execLadderTimeout_stays (slot : Nat) (s : State) :
    Answers [.regs, .seen, .fabric, .queues, .ended, .stopped, .oars, .sweep, .gates, .returned, .boat] s (execLadderTimeout slot s) := by
  unfold execLadderTimeout
  refine .next ?_
  refine .when _ _ (fun u hu => ?_) ?_
  · split
    · rename_i x1 e
      exact hu
    · rename_i x1 x2 e
      refine .when _ _ (fun u1 hu1 => ?_) ?_
      · extract_lets -underBinder -merge -useContext +onlyGivenNames s1 working
        have h_s1 : Stays [.regs, .seen, .fabric, .queues, .ended, .stopped, .oars, .sweep, .gates, .returned, .boat] s s1 := by
          dsimp -zeta only [s1]
          refine .app ?_ (modDec_stays ..) (by decide)
          exact hu1
        clear_value s1
        refine .ite ?_ ?_
        · exact h_s1
        · refine .app ?_ (unreadable_stays ..) (by decide)
          refine .app ?_ (withdrawRecover_stays ..) (by decide)
          exact h_s1
      · exact hu
  · exact .refl ..

theorem execLaneEnWrite_stays (req : Requester) (v : Word) (s : State) :
    Answers [.regs, .bus, .seen, .fabric, .stopped] s (execLaneEnWrite req v s) := by
  unfold execLaneEnWrite
  refine .next ?_
  refine withWrite_stays _ _ _ _ _ ?_ (by decide) ?_
  · intro u hu
    refine .ite ?_ ?_
    · exact hu
    · refine .app ?_ (State.setFld_stays ..) (by decide)
      exact hu
  · exact .refl ..

end Sys2Proof.Machine
end

