-- ==== Sys2Proof/Laws/StaysTaskMgmt.lean ====
section
/-! SUPPORT. What the operations and meanings of Machine/TaskMgmt do at most. -/

set_option linter.all false
set_option maxRecDepth 4000

namespace Sys2Proof.Machine

theorem tmFrame_stays {P : List Piece} {s0 : State} (lane : Nat) (n : Nat) (code : Nat) (f : TaskMgmtFrame) (needsLu : Bool) (act : State → Nat × State) (s : State) (h_act : ∀ u, Stays P s0 u → Stays P s0 (act u).2) (hq : sub [.regs, .seen, .fabric, .queues, .ended, .stopped, .free, .returned, .mem, .checks, .boat, .slip, .cryptos] P = true) (h0 : Stays P s0 s) :
    Stays P s0 (tmFrame lane n code f needsLu act s) := by
  unfold tmFrame
  refine .when _ _ (fun u hu => ?_) ?_
  · extract_lets -underBinder -merge -useContext +onlyGivenNames r s1
    have h_r : Stays P s0 r.2 := by
      dsimp -zeta only [r]
      split
      · rename_i e
        refine .pair ?_
        exact hu
      · rename_i e
        split
        · rename_i e1
          refine .pair ?_
          exact hu
        · rename_i e1
          refine h_act _ ?_
          exact hu
    clear_value r
    have h_s1 : Stays P s0 s1 := by
      dsimp -zeta only [s1]
      refine .app ?_ (replyFrame_stays ..) (sub_trans (by decide) hq)
      exact h_r
    clear_value s1
    refine .app ?_ (hostDrain_stays ..) (sub_trans (by decide) hq)
    refine .app ?_ (raise_stays ..) (sub_trans (by decide) hq)
    exact h_s1
  · exact h0

theorem endTasks_stays (p : HostTask → Bool) (s : State) :
    Stays [.regs, .seen, .fabric, .stopped, .mem, .checks, .boat, .slip] s (endTasks p s) := by
  unfold endTasks
  refine .foldl _ _ (fun u x hu => ?_) ?_
  · refine .app ?_ (endTask_stays ..) (by decide)
    exact hu
  · exact .refl ..

theorem execAbortTask_stays (lane : Nat) (n : Nat) (f : TaskMgmtFrame) (s : State) :
    Answers [.regs, .seen, .fabric, .queues, .ended, .stopped, .free, .returned, .mem, .checks, .boat, .slip, .cryptos] s (execAbortTask lane n f s) := by
  unfold execAbortTask
  refine .next ?_
  refine tmFrame_stays _ _ _ _ _ _ _ ?_ (by decide) ?_
  · intro u hu
    refine .pair ?_
    refine .app ?_ (endTasks_stays ..) (by decide)
    exact hu
  · exact .refl ..

theorem execAbortTaskSet_stays (lane : Nat) (n : Nat) (f : TaskMgmtFrame) (s : State) :
    Answers [.regs, .seen, .fabric, .queues, .ended, .stopped, .free, .returned, .mem, .checks, .boat, .slip, .cryptos] s (execAbortTaskSet lane n f s) := by
  unfold execAbortTaskSet
  refine .next ?_
  refine tmFrame_stays _ _ _ _ _ _ _ ?_ (by decide) ?_
  · intro u hu
    refine .pair ?_
    refine .app ?_ (endTasks_stays ..) (by decide)
    exact hu
  · exact .refl ..

theorem execClearTaskSet_stays (lane : Nat) (n : Nat) (f : TaskMgmtFrame) (s : State) :
    Answers [.regs, .seen, .fabric, .queues, .ended, .stopped, .free, .returned, .mem, .checks, .boat, .slip, .cryptos] s (execClearTaskSet lane n f s) := by
  unfold execClearTaskSet
  refine .next ?_
  refine tmFrame_stays _ _ _ _ _ _ _ ?_ (by decide) ?_
  · intro u hu
    extract_lets -underBinder -merge -useContext +onlyGivenNames hurt
    refine .pair ?_
    refine .foldl _ _ (fun u1 x hu1 => ?_) ?_
    · refine .app ?_ (setUa_stays ..) (by decide)
      exact hu1
    · refine .app ?_ (endTasks_stays ..) (by decide)
      exact hu
  · exact .refl ..

theorem execLogicalUnitReset_stays (lane : Nat) (n : Nat) (f : TaskMgmtFrame) (s : State) :
    Answers [.regs, .seen, .fabric, .queues, .ended, .stopped, .free, .returned, .mem, .checks, .boat, .slip, .cryptos] s (execLogicalUnitReset lane n f s) := by
  unfold execLogicalUnitReset
  refine .next ?_
  refine tmFrame_stays _ _ _ _ _ _ _ ?_ (by decide) ?_
  · intro u hu
    extract_lets -underBinder -merge -useContext +onlyGivenNames ns
    refine .pair ?_
    refine .foldl _ _ (fun u1 x hu1 => ?_) ?_
    · refine .app ?_ (setUa_stays ..) (by decide)
      exact hu1
    · refine .app ?_ (endTasks_stays ..) (by decide)
      exact hu
  · exact .refl ..

theorem execITNexusReset_stays (lane : Nat) (n : Nat) (f : TaskMgmtFrame) (s : State) :
    Answers [.regs, .seen, .fabric, .queues, .ended, .stopped, .free, .returned, .mem, .checks, .boat, .slip, .cryptos] s (execITNexusReset lane n f s) := by
  unfold execITNexusReset
  refine .next ?_
  refine tmFrame_stays _ _ _ _ _ _ _ ?_ (by decide) ?_
  · intro u hu
    refine .pair ?_
    refine .foldl _ _ (fun u1 x hu1 => ?_) ?_
    · refine .app ?_ (setUa_stays ..) (by decide)
      exact hu1
    · refine .app ?_ (endTasks_stays ..) (by decide)
      exact hu
  · exact .refl ..

theorem execQueryTask_stays (lane : Nat) (n : Nat) (f : TaskMgmtFrame) (s : State) :
    Answers [.regs, .seen, .fabric, .queues, .ended, .stopped, .free, .returned, .mem, .checks, .boat, .slip, .cryptos] s (execQueryTask lane n f s) := by
  unfold execQueryTask
  refine .next ?_
  refine tmFrame_stays _ _ _ _ _ _ _ ?_ (by decide) ?_
  · intro u hu
    refine .pair ?_
    exact hu
  · exact .refl ..

theorem execQueryTaskSet_stays (lane : Nat) (n : Nat) (f : TaskMgmtFrame) (s : State) :
    Answers [.regs, .seen, .fabric, .queues, .ended, .stopped, .free, .returned, .mem, .checks, .boat, .slip, .cryptos] s (execQueryTaskSet lane n f s) := by
  unfold execQueryTaskSet
  refine .next ?_
  refine tmFrame_stays _ _ _ _ _ _ _ ?_ (by decide) ?_
  · intro u hu
    refine .pair ?_
    exact hu
  · exact .refl ..

theorem execQueryAsynchronousEvent_stays (lane : Nat) (n : Nat) (f : TaskMgmtFrame) (s : State) :
    Answers [.regs, .seen, .fabric, .queues, .ended, .stopped, .free, .returned, .mem, .checks, .boat, .slip, .cryptos] s (execQueryAsynchronousEvent lane n f s) := by
  unfold execQueryAsynchronousEvent
  refine .next ?_
  refine tmFrame_stays _ _ _ _ _ _ _ ?_ (by decide) ?_
  · intro u hu
    refine .pair ?_
    exact hu
  · exact .refl ..

theorem execTmFunctionNotSupported_stays (lane : Nat) (n : Nat) (code : Nat) (f : TaskMgmtFrame) (s : State) :
    Answers [.regs, .seen, .fabric, .queues, .ended, .stopped, .free, .returned, .mem, .checks, .boat, .slip, .cryptos] s (execTmFunctionNotSupported lane n code f s) := by
  unfold execTmFunctionNotSupported
  refine .next ?_
  refine .when _ _ (fun u hu => ?_) ?_
  · refine tmFrame_stays _ _ _ _ _ _ _ ?_ (by decide) ?_
    · intro u1 hu1
      refine .pair ?_
      exact hu1
    · exact hu
  · exact .refl ..

theorem progressOne_stays (s : State) (t : HostTask) :
    Stays [.regs, .seen, .fabric, .stopped, .mem, .checks, .boat, .slip] s (progressOne s t) := by
  unfold progressOne
  extract_lets -underBinder -merge -useContext +onlyGivenNames pl s1
  have h_s1 : Stays [.regs, .seen, .fabric, .stopped, .mem, .checks, .boat, .slip] s s1 := by
    dsimp -zeta only [s1]
    refine .app ?_ (lasting_stays ..) (by decide)
    refine .app ?_ (State.count_stays ..) (by decide)
    refine .app ?_ (modTask_stays ..) (by decide)
    exact .refl ..
  clear_value s1
  refine .ite ?_ ?_
  · exact h_s1
  · refine .app ?_ (giveAnswer_stays ..) (by decide)
    refine .app ?_ (stopTask_stays ..) (by decide)
    exact h_s1

theorem execProgressCheck_stays (s : State) :
    Answers [.regs, .seen, .fabric, .queues, .ended, .stopped, .free, .returned, .mem, .checks, .boat, .slip, .cryptos] s (execProgressCheck s) := by
  unfold execProgressCheck
  refine .next ?_
  refine .when _ _ (fun u hu => ?_) ?_
  · extract_lets -underBinder -merge -useContext +onlyGivenNames s1
    have h_s1 : Stays [.regs, .seen, .fabric, .queues, .ended, .stopped, .free, .returned, .mem, .checks, .boat, .slip, .cryptos] s s1 := by
      dsimp -zeta only [s1]
      refine .app ?_ (hostDrain_stays ..) (by decide)
      exact hu
    clear_value s1
    refine .app ?_ (hostDrain_stays ..) (by decide)
    refine .foldl _ _ (fun u1 x hu1 => ?_) ?_
    · refine .app ?_ (progressOne_stays ..) (by decide)
      exact hu1
    · exact h_s1
  · exact .refl ..

theorem execReserveWrite_stays (req : Requester) (i : Nat) (v : Word) (s : State) :
    Answers [.regs, .bus, .seen, .fabric, .stopped] s (execReserveWrite req i v s) := by
  unfold execReserveWrite
  extract_lets -underBinder -merge -useContext +onlyGivenNames k
  refine .next ?_
  refine .when _ _ (fun u hu => ?_) ?_
  · refine withWrite_stays _ _ _ _ _ ?_ (by decide) ?_
    · intro u1 hu1
      extract_lets -underBinder -merge -useContext +onlyGivenNames other sum
      refine .ite ?_ ?_
      · refine .app ?_ (raise_stays ..) (by decide)
        exact hu1
      · refine .app ?_ (State.setReg_stays ..) (by decide)
        exact hu1
    · exact hu
  · exact .refl ..

end Sys2Proof.Machine
end

