-- ==== Sys2Proof/Laws/StaysTune.lean ====
section
/-! SUPPORT. What the operations and meanings of Machine/Tune do at most. -/

set_option linter.all false
set_option maxRecDepth 4000

namespace Sys2Proof.Machine

theorem tuneStart_stays (p : Nat) (s : State) :
    Stays [.regs, .tunes] s (tuneStart p s) := by
  unfold tuneStart
  refine .app ?_ (modTune_stays ..) (by decide)
  refine .app ?_ (State.setReg_stays ..) (by decide)
  refine .app ?_ (State.setFld_stays ..) (by decide)
  refine .app ?_ (setTrState_stays ..) (by decide)
  exact .refl ..

theorem tuneGo_stays (p : Nat) (s : State) :
    Stays [.regs, .tunes] s (tuneGo p s) := by
  unfold tuneGo
  refine .ite ?_ ?_
  · exact .refl ..
  · refine .ite ?_ ?_
    · refine .app ?_ (tuneStart_stays ..) (by decide)
      exact .refl ..
    · split
      · rename_i x1 e
        refine .app ?_ (tuneStart_stays ..) (by decide)
        refine .app ?_ (State.setReg_stays ..) (by decide)
        exact .refl ..
      · rename_i x1 e
        refine .app ?_ (setTrState_stays ..) (by decide)
        exact .refl ..

theorem tuneStop_stays (p : Nat) (s : State) :
    Stays [.regs, .tunes] s (tuneStop p s) := by
  unfold tuneStop
  refine .ite ?_ ?_
  · refine .app ?_ (modTune_stays ..) (by decide)
    refine .app ?_ (setTrState_stays ..) (by decide)
    exact .refl ..
  · exact .refl ..

theorem tuneMode_stays (req : Requester) (p : Nat) (m : Nat) (s : State) :
    Stays [.regs, .seen, .fabric] s (tuneMode req p m s) := by
  unfold tuneMode
  extract_lets -underBinder -merge -useContext +onlyGivenNames s0x
  have h_s0x : Stays [.regs, .seen, .fabric] s s0x := by
    dsimp -zeta only [s0x]
    refine .app ?_ (State.setFld_stays ..) (by decide)
    exact .refl ..
  clear_value s0x
  refine .ite ?_ ?_
  · exact .refl ..
  · refine .ite ?_ ?_
    · exact h_s0x
    · refine .ite ?_ ?_
      · refine .app ?_ (State.setFld_stays ..) (by decide)
        exact .refl ..
      · refine .app ?_ (notHeld_stays ..) (by decide)
        exact h_s0x

theorem trCtrlEffect_stays (req : Requester) (p : Nat) (v : Word) (s : State) :
    Stays [.regs, .seen, .fabric, .tunes] s (trCtrlEffect req p v s) := by
  unfold trCtrlEffect
  extract_lets -underBinder -merge -useContext +onlyGivenNames s1 s2 s3
  have h_s1 : Stays [.regs, .seen, .fabric, .tunes] s s1 := by
    dsimp -zeta only [s1]
    refine .app ?_ (tuneMode_stays ..) (by decide)
    exact .refl ..
  clear_value s1
  have h_s2 : Stays [.regs, .seen, .fabric, .tunes] s s2 := by
    dsimp -zeta only [s2]
    refine .ite ?_ ?_
    · refine .app ?_ (tuneGo_stays ..) (by decide)
      exact h_s1
    · exact h_s1
  clear_value s2
  have h_s3 : Stays [.regs, .seen, .fabric, .tunes] s s3 := by
    dsimp -zeta only [s3]
    refine .ite ?_ ?_
    · refine .app ?_ (tuneStop_stays ..) (by decide)
      exact h_s2
    · exact h_s2
  clear_value s3
  refine .ite ?_ ?_
  · refine .app ?_ (trTrigger_stays ..) (by decide)
    exact h_s3
  · exact h_s3

theorem trCtrlWrite_stays (c : Bool) (req : Requester) (p : Nat) (v : Word) (s : State) :
    Stays [.regs, .bus, .seen, .fabric, .stopped, .tunes] s (trCtrlWrite c req p v s) := by
  unfold trCtrlWrite
  refine .when _ _ (fun u hu => ?_) ?_
  · refine withWrite_stays _ _ _ _ _ ?_ (by decide) ?_
    · intro u1 hu1
      refine .app ?_ (trCtrlEffect_stays ..) (by decide)
      exact hu1
    · exact hu
  · exact .refl ..

theorem execTuneMode_stays (req : Requester) (page : Nat) (v : Word) (s : State) :
    Answers [.regs, .bus, .seen, .fabric, .stopped, .tunes] s (execTuneMode req page v s) := by
  unfold execTuneMode
  refine .next ?_
  refine .app ?_ (trCtrlWrite_stays ..) (by decide)
  exact .refl ..

theorem execTuneGo_stays (req : Requester) (page : Nat) (v : Word) (s : State) :
    Answers [.regs, .bus, .seen, .fabric, .stopped, .tunes] s (execTuneGo req page v s) := by
  unfold execTuneGo
  refine .next ?_
  refine .app ?_ (trCtrlWrite_stays ..) (by decide)
  exact .refl ..

theorem execTuneStop_stays (req : Requester) (page : Nat) (v : Word) (s : State) :
    Answers [.regs, .bus, .seen, .fabric, .stopped, .tunes] s (execTuneStop req page v s) := by
  unfold execTuneStop
  refine .next ?_
  refine .app ?_ (trCtrlWrite_stays ..) (by decide)
  exact .refl ..

theorem execTuneForce_stays (req : Requester) (page : Nat) (v : Word) (s : State) :
    Answers [.regs, .bus, .seen, .fabric, .stopped, .tunes] s (execTuneForce req page v s) := by
  unfold execTuneForce
  refine .next ?_
  refine .app ?_ (trCtrlWrite_stays ..) (by decide)
  exact .refl ..

theorem execTraceDone_stays (page : Nat) (s : State) :
    Answers [.regs] s (execTraceDone page s) := by
  unfold execTraceDone
  refine .next ?_
  refine .when _ _ (fun u hu => ?_) ?_
  · refine .app ?_ (setTrState_stays ..) (by decide)
    exact hu
  · exact .refl ..

theorem execSinePointEnd_stays (page : Nat) (point : Nat) (s : State) :
    Answers [.regs, .tunes] s (execSinePointEnd page point s) := by
  unfold execSinePointEnd
  refine .next ?_
  refine .when _ _ (fun u hu => ?_) ?_
  · extract_lets -underBinder -merge -useContext +onlyGivenNames s1
    have h_s1 : Stays [.regs, .tunes] s s1 := by
      dsimp -zeta only [s1]
      refine .app ?_ (storePoint_stays ..) (by decide)
      exact hu
    clear_value s1
    refine .ite ?_ ?_
    · refine .app ?_ (modTune_stays ..) (by decide)
      refine .app ?_ (setTrState_stays ..) (by decide)
      exact h_s1
    · refine .app ?_ (State.setFld_stays ..) (by decide)
      exact h_s1
  · exact .refl ..

theorem execInjectionEnd_stays (page : Nat) (s : State) :
    Answers [.regs, .tunes] s (execInjectionEnd page s) := by
  unfold execInjectionEnd
  extract_lets -underBinder -merge -useContext +onlyGivenNames t
  refine .next ?_
  refine .when _ _ (fun u hu => ?_) ?_
  · refine .app ?_ (modTune_stays ..) (by decide)
    refine .app ?_ (setTrState_stays ..) (by decide)
    exact hu
  · exact .refl ..

end Sys2Proof.Machine
end

