-- ==== Sys2Proof/Laws/StaysUcode.lean ====
section
/-! SUPPORT. What the operations and meanings of Machine/Ucode do at most. -/

set_option linter.all false
set_option maxRecDepth 4000

namespace Sys2Proof.Machine

theorem modUcode_stays (f : Ucode → Ucode) (s : State) :
    Stays [.ucode] s (modUcode f s) := by
  unfold modUcode
  refine .app ?_ (.set_ucode _ _) (by decide)
  exact .refl ..

theorem ucRefuse_stays (s : State) :
    Stays [.regs, .seen, .fabric] s (ucRefuse s) := by
  unfold ucRefuse
  refine .app ?_ (raise_stays ..) (by decide)
  exact .refl ..

theorem execUcodeWordWrite_stays (req : Requester) (v : Word) (s : State) :
    Answers [.regs, .bus, .seen, .fabric, .stopped, .ucode] s (execUcodeWordWrite req v s) := by
  unfold execUcodeWordWrite
  refine .next ?_
  refine withWrite_stays _ _ _ _ _ ?_ (by decide) ?_
  · intro u hu
    extract_lets -underBinder -merge -useContext +onlyGivenNames k s1 a w
    have h_s1 : Stays [.regs, .bus, .seen, .fabric, .stopped, .ucode] s s1 := by
      dsimp -zeta only [s1]
      refine .app ?_ (State.setReg_stays ..) (by decide)
      exact hu
    clear_value s1
    refine .ite ?_ ?_
    · refine .app ?_ (ucRefuse_stays ..) (by decide)
      exact hu
    · refine .app ?_ (modUcode_stays ..) (by decide)
      exact h_s1
  · exact .refl ..

theorem commitEffect_stays (s : State) :
    Stays [.regs, .seen, .fabric, .ucode] s (commitEffect s) := by
  unfold commitEffect
  extract_lets -underBinder -merge -useContext +onlyGivenNames k s1
  have h_s1 : Stays [.regs, .seen, .fabric, .ucode] s s1 := by
    dsimp -zeta only [s1]
    refine .foldl _ _ (fun u x hu => ?_) ?_
    · refine .app ?_ (restoreCopy_stays ..) (by decide)
      exact hu
    · exact .refl ..
  clear_value s1
  refine .ite ?_ ?_
  · refine .app ?_ (ucRefuse_stays ..) (by decide)
    exact .refl ..
  · refine .app ?_ (raise_stays ..) (by decide)
    refine .app ?_ (State.setBit_stays ..) (by decide)
    refine .app ?_ (modUcode_stays ..) (by decide)
    exact h_s1

theorem execUcodeCommit_stays (req : Requester) (v : Word) (s : State) :
    Answers [.regs, .bus, .seen, .fabric, .stopped, .ucode] s (execUcodeCommit req v s) := by
  unfold execUcodeCommit
  refine .next ?_
  refine .when _ _ (fun u hu => ?_) ?_
  · refine withWrite_stays _ _ _ _ _ ?_ (by decide) ?_
    · intro u1 hu1
      refine .app ?_ (commitEffect_stays ..) (by decide)
      exact hu1
    · exact hu
  · exact .refl ..

theorem execUcodeRestoreDone_stays (code : Nat) (parity : MasterParity) (s : State) :
    Answers (allBut [.time, .rwlShadow, .bus, .clocks, .strokes, .targets, .leaks, .couple, .consumed, .drams, .scrub, .power, .otp, .dbg, .smbus]) s (execUcodeRestoreDone code parity s) := by
  unfold execUcodeRestoreDone
  refine .next ?_
  refine .when _ _ (fun u hu => ?_) ?_
  · extract_lets -underBinder -merge -useContext +onlyGivenNames s0x s1 k pl
    have h_s0x : Stays (allBut [.time, .rwlShadow, .bus, .clocks, .strokes, .targets, .leaks, .couple, .consumed, .drams, .scrub, .power, .otp, .dbg, .smbus]) s s0x := by
      dsimp -zeta only [s0x]
      refine .app ?_ (modUcode_stays ..) (by decide)
      exact hu
    clear_value s0x
    have h_s1 : Stays (allBut [.time, .rwlShadow, .bus, .clocks, .strokes, .targets, .leaks, .couple, .consumed, .drams, .scrub, .power, .otp, .dbg, .smbus]) s s1 := by
      dsimp -zeta only [s1]
      refine .app ?_ (State.count_stays ..) (by decide)
      exact h_s0x
    clear_value s1
    split
    · rename_i parity1
      refine .app ?_ (restoreCopy_stays ..) (by decide)
      exact h_s1
    · rename_i parity1
      refine .app ?_ (transient_stays ..) (by decide)
      refine .app ?_ (restoreCopy_stays ..) (by decide)
      exact h_s1
    · rename_i parity1
      refine .app ?_ (engineCheck_stays ..) (by decide)
      refine .app ?_ (lasting_stays ..) (by decide)
      exact h_s0x
  · exact .refl ..

end Sys2Proof.Machine
end

