-- ==== Sys2Proof/Laws/StaysWriteMap.lean ====
section
/-! SUPPORT. What the operations and meanings of Machine/WriteMap do at most. -/

set_option linter.all false
set_option maxRecDepth 4000

namespace Sys2Proof.Machine

theorem nextOf_stays {ps : List Piece} {s : State} {o : Host.Outcome State Fault Refusal} (h : Answers ps s o) : Stays ps s (nextOf s o) := by
  unfold nextOf
  split
  · exact h.stays _ rfl
  · exact .refl ..

theorem runAll_stays {ps : List Piece} {s0 : State} (fs : List (State → Host.Outcome State Fault Refusal)) (s : State)
    (h : ∀ f ∈ fs, ∀ u, Stays ps s0 u → Answers ps s0 (f u)) (h0 : Stays ps s0 s) : Stays ps s0 (runAll fs s) := by
  unfold runAll
  refine List.foldlRecOn (motive := Stays ps s0) fs _ h0 fun u hu f hf => ?_
  unfold nextOf
  split
  · exact (h f hf u hu).stays _ (by assumption)
  · exact hu

theorem plainWrite_stays (req : Requester) (k : Nat) (v : Word) (s : State) :
    Stays [.regs, .bus, .free] s (plainWrite req k v s) := by
  unfold plainWrite
  extract_lets -underBinder -merge -useContext +onlyGivenNames lo
  have h_lo : Stays [.regs, .bus, .free] s lo.2 := by
    dsimp -zeta only [lo]
    refine .app ?_ (lowWritten_stays ..) (by decide)
    exact .refl ..
  clear_value lo
  refine .ite ?_ ?_
  · refine .app ?_ (keepLow_stays ..) (by decide)
    exact .refl ..
  · refine .ite ?_ ?_
    · refine .app ?_ (storeWrite_stays ..) (by decide)
      refine .app ?_ (storeWrite_stays ..) (by decide)
      exact h_lo
    · refine .app ?_ (storeWrite_stays ..) (by decide)
      exact .refl ..

theorem critEffect_stays (req : Requester) (n : Nat) (k : Nat) (v : Word) (s : State) :
    Stays [.regs, .bus, .seen, .clocks, .fabric, .targets, .crit, .queues, .ended, .stopped, .keel, .rigger, .free, .safePending, .pres, .hda, .rudders, .tunes, .oars, .sweep, .gates, .ucode, .returned, .mem, .checks, .boat, .crew, .slip, .power] s (critEffect req n k v s) := by
  unfold critEffect
  extract_lets -underBinder -merge -useContext +onlyGivenNames a
  refine .ite ?_ ?_
  · exact .refl ..
  · refine .ite ?_ ?_
    · refine .app ?_ (nextOf_stays (execModeTargetWrite_stays ..)) (by decide)
      exact .refl ..
    · refine .ite ?_ ?_
      · refine .app ?_ (nextOf_stays (execActuatorRetire_stays ..)) (by decide)
        exact .refl ..
      · refine .ite ?_ ?_
        · refine .app ?_ (nextOf_stays (execMemberFailWrite_stays ..)) (by decide)
          exact .refl ..
        · refine .ite ?_ ?_
          · refine .app ?_ (nextOf_stays (execSpdTargetWrite_stays ..)) (by decide)
            exact .refl ..
          · refine .ite ?_ ?_
            · refine .app ?_ (spdSrcEffect_stays ..) (by decide)
              exact .refl ..
            · refine .ite ?_ ?_
              · refine .app ?_ (nextOf_stays (execThreshWrite_stays ..)) (by decide)
                exact .refl ..
              · refine .ite ?_ ?_
                · refine .app ?_ (wbReview_stays ..) (by decide)
                  refine .app ?_ (showHealth_stays ..) (by decide)
                  refine .app ?_ (State.critPut_stays ..) (by decide)
                  exact .refl ..
                · refine .ite ?_ ?_
                  · refine .app ?_ (nextOf_stays (execDirtyLimitWrite_stays ..)) (by decide)
                    exact .refl ..
                  · refine .ite ?_ ?_
                    · refine .app ?_ (nextOf_stays (execWbRequestWrite_stays ..)) (by decide)
                      exact .refl ..
                    · refine .app ?_ (State.critPut_stays ..) (by decide)
                      exact .refl ..

theorem fenceEffect_stays (core : Requester) (v : Word) (s : State) :
    Stays [.bus] s (fenceEffect core v s) := by
  unfold fenceEffect
  extract_lets -underBinder -merge -useContext +onlyGivenNames vsrc
  refine .ite ?_ ?_
  · refine .app ?_ (.set_bus _ _) (by decide)
    exact .refl ..
  · exact .refl ..

theorem headerWrite_stays (p : Nat) (off : Nat) (v : Word) (s : State) :
    Stays (allBut [.time, .bus, .clocks, .leaks, .consumed, .otp, .smbus]) s (headerWrite p off v s) := by
  unfold headerWrite
  refine .ite ?_ ?_
  · refine .ite ?_ ?_
    · refine .app ?_ (softResetEffect_stays ..) (by decide)
      exact .refl ..
    · refine .app ?_ (ctrlEffect_stays ..) (by decide)
      exact .refl ..
  · refine .ite ?_ ?_
    · refine .app ?_ (evForceEffect_stays ..) (by decide)
      exact .refl ..
    · refine .ite ?_ ?_
      · refine .app ?_ (lockEffect_stays ..) (by decide)
        exact .refl ..
      · refine .app ?_ (storeWrite_stays ..) (by decide)
        exact .refl ..

theorem queueWrite_stays (req : Requester) (q : QueueId) (r : Nat) (k : Nat) (v : Word) (bad : Bool) (s : State) :
    Stays [.regs, .seen, .fabric, .queues, .ended, .stopped, .oars, .sweep, .gates, .returned, .boat, .slip] s (queueWrite req q r k v bad s) := by
  unfold queueWrite
  refine .ite ?_ ?_
  · refine .app ?_ (refuseHeld_stays ..) (by decide)
    refine .app ?_ (storeWrite_stays ..) (by decide)
    exact .refl ..
  · refine .ite ?_ ?_
    · refine .app ?_ (flushEffect_stays ..) (by decide)
      exact .refl ..
    · refine .ite ?_ ?_
      · refine .app ?_ (qPortEffect_stays ..) (by decide)
        exact .refl ..
      · refine .ite ?_ ?_
        · refine .app ?_ (modHq_stays ..) (by decide)
          exact .refl ..
        · refine .app ?_ (storeWrite_stays ..) (by decide)
          exact .refl ..

theorem supplyWrite_stays (k : Nat) (margin : Nat) (v : Word) (s : State) :
    Stays [.regs] s (supplyWrite k margin v s) := by
  unfold supplyWrite
  extract_lets -underBinder -merge -useContext +onlyGivenNames s1 low
  have h_s1 : Stays [.regs] s s1 := by
    dsimp -zeta only [s1]
    refine .app ?_ (storeWrite_stays ..) (by decide)
    exact .refl ..
  clear_value s1
  refine .ite ?_ ?_
  · refine .app ?_ (State.setFld_stays ..) (by decide)
    exact h_s1
  · exact h_s1

theorem hardEnvWrite_stays (v : Word) (s : State) :
    Stays [.regs] s (hardEnvWrite v s) := by
  unfold hardEnvWrite
  extract_lets -underBinder -merge -useContext +onlyGivenNames k s1 s2
  have h_s1 : Stays [.regs] s s1 := by
    dsimp -zeta only [s1]
    refine .app ?_ (storeWrite_stays ..) (by decide)
    exact .refl ..
  clear_value s1
  have h_s2 : Stays [.regs] s s2 := by
    dsimp -zeta only [s2]
    refine .ite ?_ ?_
    · refine .app ?_ (State.setFld_stays ..) (by decide)
      exact h_s1
    · exact h_s1
  clear_value s2
  refine .ite ?_ ?_
  · refine .app ?_ (State.setFld_stays ..) (by decide)
    exact h_s2
  · exact h_s2

theorem serCfgWrite_stays (a : Nat) (v : Word) (s : State) :
    Stays [.regs] s (serCfgWrite a v s) := by
  unfold serCfgWrite
  extract_lets -underBinder -merge -useContext +onlyGivenNames s1 m
  have h_s1 : Stays [.regs] s s1 := by
    dsimp -zeta only [s1]
    refine .app ?_ (storeWrite_stays ..) (by decide)
    exact .refl ..
  clear_value s1
  refine .ite ?_ ?_
  · exact h_s1
  · refine .app ?_ (State.setFld_stays ..) (by decide)
    exact h_s1

theorem coupleWrite_stays (v : Word) (s : State) :
    Stays [.regs, .rudders] s (coupleWrite v s) := by
  unfold coupleWrite
  extract_lets -underBinder -merge -useContext +onlyGivenNames s1
  have h_s1 : Stays [.regs, .rudders] s s1 := by
    dsimp -zeta only [s1]
    refine .app ?_ (storeWrite_stays ..) (by decide)
    exact .refl ..
  clear_value s1
  refine .foldl _ _ (fun u x hu => ?_) ?_
  · refine .ite ?_ ?_
    · refine .app ?_ (modRud_stays ..) (by decide)
      exact hu
    · exact hu
  · exact h_s1

theorem ucodeWrite_stays (req : Requester) (off : Nat) (k : Nat) (v : Word) (s : State) :
    Stays [.regs, .bus, .seen, .fabric, .stopped, .ucode] s (ucodeWrite req off k v s) := by
  unfold ucodeWrite
  extract_lets -underBinder -merge -useContext +onlyGivenNames kind
  refine .ite ?_ ?_
  · refine .app ?_ (nextOf_stays (execUcodeWordWrite_stays ..)) (by decide)
    exact .refl ..
  · refine .ite ?_ ?_
    · refine .app ?_ (nextOf_stays (execUcodeCommit_stays ..)) (by decide)
      exact .refl ..
    · refine .ite ?_ ?_
      · refine .ite ?_ ?_
        · refine .app ?_ (modUcode_stays ..) (by decide)
          exact .refl ..
        · refine .ite ?_ ?_
          · refine .ite ?_ ?_
            · exact .refl ..
            · refine .app ?_ (modUcode_stays ..) (by decide)
              exact .refl ..
          · refine .ite ?_ ?_
            · refine .app ?_ (ucRefuse_stays ..) (by decide)
              exact .refl ..
            · refine .ite ?_ ?_
              · refine .app ?_ (storeWrite_stays ..) (by decide)
                exact .refl ..
              · refine .app ?_ (modUcode_stays ..) (by decide)
                exact .refl ..
      · refine .app ?_ (storeWrite_stays ..) (by decide)
        exact .refl ..

theorem tuneWrite_stays (req : Requester) (p : Nat) (off : Nat) (v : Word) (s : State) :
    Stays [.regs, .seen, .fabric, .tunes] s (tuneWrite req p off v s) := by
  unfold tuneWrite
  refine .ite ?_ ?_
  · refine .app ?_ (trCtrlEffect_stays ..) (by decide)
    exact .refl ..
  · refine .ite ?_ ?_
    · refine .ite ?_ ?_
      · refine .app ?_ (trPut_stays ..) (by decide)
        exact .refl ..
      · exact .refl ..
    · refine .app ?_ (storeWrite_stays ..) (by decide)
      exact .refl ..

theorem oarWrite_stays (req : Requester) (o : Nat) (off : Nat) (v : Word) (s : State) :
    Stays [.regs, .bus, .seen, .fabric, .stopped, .free, .oars] s (oarWrite req o off v s) := by
  unfold oarWrite
  extract_lets -underBinder -merge -useContext +onlyGivenNames k s1
  have h_s1 : Stays [.regs, .bus, .seen, .fabric, .stopped, .free, .oars] s s1 := by
    dsimp -zeta only [s1]
    refine .app ?_ (storeWrite_stays ..) (by decide)
    exact .refl ..
  clear_value s1
  refine .ite ?_ ?_
  · refine .ite ?_ ?_
    · exact h_s1
    · refine .app ?_ (modOar_stays ..) (by decide)
      exact h_s1
  · refine .ite ?_ ?_
    · refine .app ?_ (nextOf_stays (execSwArmWrite_stays ..)) (by decide)
      exact .refl ..
    · refine .ite ?_ ?_
      · refine .ite ?_ ?_
        · exact .refl ..
        · refine .ite ?_ ?_
          · refine .app ?_ (nextOf_stays (execZoneTableLoad_stays ..)) (by decide)
            exact .refl ..
          · refine .ite ?_ ?_
            · refine .app ?_ (nextOf_stays (execRelocTableLoad_stays ..)) (by decide)
              exact .refl ..
            · refine .ite ?_ ?_
              · refine .app ?_ (nextOf_stays (execRtAdd_stays ..)) (by decide)
                exact .refl ..
              · refine .ite ?_ ?_
                · refine .app ?_ (State.setReg_stays ..) (by decide)
                  exact .refl ..
                · refine .app ?_ (plainWrite_stays ..) (by decide)
                  exact .refl ..
      · refine .app ?_ (plainWrite_stays ..) (by decide)
        exact .refl ..

theorem svcWrite_stays (req : Requester) (c : Nat) (v : Word) (s : State) :
    Stays [.regs, .bus, .seen, .fabric, .queues, .ended, .stopped, .free, .returned, .mem, .checks, .boat, .slip, .cryptos] s (svcWrite req c v s) := by
  unfold svcWrite
  extract_lets -underBinder -merge -useContext +onlyGivenNames k
  refine .ite ?_ ?_
  · refine runAll_stays _ _ ?_ ?_
    · simp only [List.forall_mem_cons, List.not_mem_nil, false_implies, implies_true, and_true]
      exact ⟨fun u hu => .app hu (execSvcDataIn_stays ..) (by decide), fun u hu => .app hu (execSvcDataOut_stays ..) (by decide), fun u hu => .app hu (execSvcRespond_stays ..) (by decide)⟩
    · exact .refl ..
  · refine .app ?_ (State.setBit_stays ..) (by decide)
    refine .app ?_ (storeWrite_stays ..) (by decide)
    exact .refl ..

theorem dbgWrite_stays (req : Requester) (off : Nat) (k : Nat) (v : Word) (o : Outside) (s : State) :
    Stays [.regs, .bus, .seen, .strokes, .fabric, .stopped, .keel, .rigger, .free, .hda, .rudders, .tunes, .oars, .sweep, .mem, .checks, .boat, .keys, .dbg] s (dbgWrite req off k v o s) := by
  unfold dbgWrite
  extract_lets -underBinder -merge -useContext +onlyGivenNames lo i
  have h_lo : Stays [.regs, .bus, .seen, .strokes, .fabric, .stopped, .keel, .rigger, .free, .hda, .rudders, .tunes, .oars, .sweep, .mem, .checks, .boat, .keys, .dbg] s lo.2 := by
    dsimp -zeta only [lo]
    refine .app ?_ (lowWritten_stays ..) (by decide)
    exact .refl ..
  clear_value lo
  refine .ite ?_ ?_
  · refine .app ?_ (certCtrlEffect_stays ..) (by decide)
    exact .refl ..
  · refine .ite ?_ ?_
    · refine runAll_stays _ _ ?_ ?_
      · simp only [List.forall_mem_cons, List.not_mem_nil, false_implies, implies_true, and_true]
        exact ⟨fun u hu => .app hu (execEngineHalt_stays ..) (by decide), fun u hu => .app hu (execEngineResume_stays ..) (by decide), fun u hu => .app hu (execEngineStep_stays ..) (by decide)⟩
      · exact .refl ..
    · refine .ite ?_ ?_
      · refine .app ?_ (regDataWrite_stays ..) (by decide)
        exact .refl ..
      · refine .ite ?_ ?_
        · refine .app ?_ (regDataWrite_stays ..) (by decide)
          exact .refl ..
        · refine .ite ?_ ?_
          · refine .ite ?_ ?_
            · refine .app ?_ (keepLow_stays ..) (by decide)
              exact .refl ..
            · refine .app ?_ (modDbg_stays ..) (by decide)
              exact h_lo
          · refine .ite ?_ ?_
            · refine .app ?_ (modDbg_stays ..) (by decide)
              exact .refl ..
            · refine .ite ?_ ?_
              · exact .refl ..
              · refine .app ?_ (plainWrite_stays ..) (by decide)
                exact .refl ..

theorem systemWrite_stays (req : Requester) (p : Nat) (off : Nat) (k : Nat) (v : Word) (o : Outside) (s : State) :
    Stays (allBut []) s (systemWrite req p off k v o s) := by
  unfold systemWrite
  refine .ite ?_ ?_
  · refine .app ?_ (devResetEffect_stays ..) (by decide)
    exact .refl ..
  · refine .ite ?_ ?_
    · refine .app ?_ (nextOf_stays (execReserveWrite_stays ..)) (by decide)
      exact .refl ..
    · refine .ite ?_ ?_
      · refine .ite ?_ ?_
        · refine .app ?_ (releaseWritten_stays ..) (by decide)
          exact .refl ..
        · refine .app ?_ (claimOne_stays ..) (by decide)
          exact .refl ..
      · refine .ite ?_ ?_
        · refine .app ?_ (popEffect_stays ..) (by decide)
          exact .refl ..
        · refine .ite ?_ ?_
          · refine .app ?_ (domainReqEffect_stays ..) (by decide)
            exact .refl ..
          · refine .ite ?_ ?_
            · refine .app ?_ (supplyWrite_stays ..) (by decide)
              exact .refl ..
            · refine .ite ?_ ?_
              · refine .app ?_ (supplyWrite_stays ..) (by decide)
                exact .refl ..
              · refine .ite ?_ ?_
                · refine .app ?_ (updateCover_stays ..) (by decide)
                  refine .app ?_ (storeWrite_stays ..) (by decide)
                  exact .refl ..
                · refine .ite ?_ ?_
                  · refine .app ?_ (umpCtrlEffect_stays ..) (by decide)
                    exact .refl ..
                  · refine .ite ?_ ?_
                    · refine .app ?_ (State.setBit_stays ..) (by decide)
                      refine .app ?_ (storeWrite_stays ..) (by decide)
                      exact .refl ..
                    · refine .ite ?_ ?_
                      · refine .app ?_ (nextOf_stays (execStrokeRelease_stays ..)) (by decide)
                        exact .refl ..
                      · refine .app ?_ (plainWrite_stays ..) (by decide)
                        exact .refl ..

theorem hostSideWrite_stays (req : Requester) (p : Nat) (off : Nat) (k : Nat) (v : Word) (s : State) :
    Stays [.regs, .bus, .seen, .fabric, .crit, .queues, .ended, .stopped, .free, .safePending, .returned, .mem, .checks, .boat, .crew, .slip, .cryptos] s (hostSideWrite req p off k v s) := by
  unfold hostSideWrite
  refine .ite ?_ ?_
  · refine runAll_stays _ _ ?_ ?_
    · simp only [List.forall_mem_cons, List.not_mem_nil, false_implies, implies_true, and_true]
      exact ⟨fun u hu => .app hu (execBandEnable_stays ..) (by decide), fun u hu => .app hu (execBandDisable_stays ..) (by decide), fun u hu => .app hu (execBandStart_stays ..) (by decide), fun u hu => .app hu (execBandPause_stays ..) (by decide), fun u hu => .app hu (execBandResync_stays ..) (by decide), fun u hu => .app hu (execBandReshape_stays ..) (by decide), fun u hu => .app hu (execBandCommit_stays ..) (by decide), fun u hu => .app hu (execBandCmdUnlisted_stays ..) (by decide)⟩
    · exact .refl ..
  · refine .ite ?_ ?_
    · refine .ite ?_ ?_
      · exact .refl ..
      · refine .app ?_ (storeWrite_stays ..) (by decide)
        exact .refl ..
    · refine .ite ?_ ?_
      · refine runAll_stays _ _ ?_ ?_
        · simp only [List.forall_mem_cons, List.not_mem_nil, false_implies, implies_true, and_true]
          exact ⟨fun u hu => .app hu (execJrnlStart_stays ..) (by decide), fun u hu => .app hu (execJrnlClose_stays ..) (by decide), fun u hu => .app hu (execJrnlReplay_stays ..) (by decide)⟩
        · exact .refl ..
      · refine .ite ?_ ?_
        · refine .ite ?_ ?_
          · refine .app ?_ (nextOf_stays (execLinkResetRequest_stays ..)) (by decide)
            exact .refl ..
          · refine .app ?_ (storeWrite_stays ..) (by decide)
            exact .refl ..
        · refine .ite ?_ ?_
          · refine .app ?_ (nextOf_stays (execUaCtrl_stays ..)) (by decide)
            exact .refl ..
          · refine .ite ?_ ?_
            · refine .app ?_ (svcWrite_stays ..) (by decide)
              exact .refl ..
            · refine .ite ?_ ?_
              · refine runAll_stays _ _ ?_ ?_
                · simp only [List.forall_mem_cons, List.not_mem_nil, false_implies, implies_true, and_true]
                  exact ⟨fun u hu => .app hu (execLuCreate_stays ..) (by decide), fun u hu => .app hu (execLuDelete_stays ..) (by decide), fun u hu => .app hu (execLuUpdate_stays ..) (by decide), fun u hu => .app hu (execLutCmdUnlisted_stays ..) (by decide)⟩
                · exact .refl ..
              · refine .ite ?_ ?_
                · refine runAll_stays _ _ ?_ ?_
                  · simp only [List.forall_mem_cons, List.not_mem_nil, false_implies, implies_true, and_true]
                    exact ⟨fun u hu => .app hu (execHazEnter_stays ..) (by decide), fun u hu => .app hu (execHazRelease_stays ..) (by decide), fun u hu => .app hu (execHazFwCmdUnlisted_stays ..) (by decide)⟩
                  · exact .refl ..
                · refine .app ?_ (plainWrite_stays ..) (by decide)
                  exact .refl ..

theorem bufferWrite_stays (req : Requester) (p : Nat) (k : Nat) (v : Word) (o : Outside) (s : State) :
    Stays [.regs, .bus, .seen, .fabric, .crit, .stopped, .free, .safePending, .oars, .gates, .mem, .checks, .drams, .boat, .cache, .scrub, .power, .safe, .keys] s (bufferWrite req p k v o s) := by
  unfold bufferWrite
  refine .ite ?_ ?_
  · refine .app ?_ (dirtyAdjEffect_stays ..) (by decide)
    exact .refl ..
  · refine .ite ?_ ?_
    · refine .app ?_ (lockMaskEffect_stays ..) (by decide)
      exact .refl ..
    · refine .ite ?_ ?_
      · refine .app ?_ (rangeCtrlEffect_stays ..) (by decide)
        exact .refl ..
      · refine .ite ?_ ?_
        · refine .app ?_ (dramCmdEffect_stays ..) (by decide)
          exact .refl ..
        · refine .ite ?_ ?_
          · refine .app ?_ (scrubLogEffect_stays ..) (by decide)
            exact .refl ..
          · refine .ite ?_ ?_
            · refine runAll_stays _ _ ?_ ?_
              · simp only [List.forall_mem_cons, List.not_mem_nil, false_implies, implies_true, and_true]
                exact ⟨fun u hu => .app hu (execSafeScan_stays ..) (by decide), fun u hu => .app hu (execSafePrepare_stays ..) (by decide), fun u hu => .app hu (execSafeRestore_stays ..) (by decide), fun u hu => .app hu (execSafeRewriteCut_stays ..) (by decide), fun u hu => .app hu (execSafeRelease_stays ..) (by decide), fun u hu => .app hu (execHealthTest_stays ..) (by decide), fun u hu => .app hu (execSafeCmdUnlisted_stays ..) (by decide)⟩
              · exact .refl ..
            · refine .ite ?_ ?_
              · refine .app ?_ (wbReview_stays ..) (by decide)
                refine .app ?_ (showHealth_stays ..) (by decide)
                refine .app ?_ (storeWrite_stays ..) (by decide)
                exact .refl ..
              · refine .ite ?_ ?_
                · refine runAll_stays _ _ ?_ ?_
                  · simp only [List.forall_mem_cons, List.not_mem_nil, false_implies, implies_true, and_true]
                    exact ⟨fun u hu => .app hu (execKeyLoad_stays ..) (by decide), fun u hu => .app hu (execKeyClear_stays ..) (by decide), fun u hu => .app hu (execKeyWrap_stays ..) (by decide), fun u hu => .app hu (execKeyErase_stays ..) (by decide), fun u hu => .app hu (execImageVerify_stays ..) (by decide), fun u hu => .app hu (execPatchLoad_stays ..) (by decide), fun u hu => .app hu (execMeasure_stays ..) (by decide), fun u hu => .app hu (execAttest_stays ..) (by decide), fun u hu => .app hu (execDebugUnlock_stays ..) (by decide), fun u hu => .app hu (execRollbackSet_stays ..) (by decide), fun u hu => .app hu (execOtpWrite_stays ..) (by decide), fun u hu => .app hu (execGenId_stays ..) (by decide), fun u hu => .app hu (execChallenge_stays ..) (by decide), fun u hu => .app hu (execKeysCmdUnlisted_stays ..) (by decide)⟩
                  · exact .refl ..
                · refine .app ?_ (plainWrite_stays ..) (by decide)
                  exact .refl ..

theorem driveWrite_stays (req : Requester) (p : Nat) (off : Nat) (k : Nat) (v : Word) (o : Outside) (s : State) :
    Stays [.regs, .bus, .seen, .clocks, .strokes, .fabric, .targets, .stopped, .keel, .rigger, .free, .pres, .hda, .cal, .rudders, .tunes, .oars, .sweep, .ucode, .mem, .checks, .boat] s (driveWrite req p off k v o s) := by
  unfold driveWrite
  refine .ite ?_ ?_
  · refine .app ?_ (keelCmdEffect_stays ..) (by decide)
    exact .refl ..
  · refine .ite ?_ ?_
    · refine .app ?_ (refCfgEffect_stays ..) (by decide)
      exact .refl ..
    · refine .ite ?_ ?_
      · refine .app ?_ (csCfgEffect_stays ..) (by decide)
        exact .refl ..
      · refine .ite ?_ ?_
        · refine .app ?_ (paCfgEffect_stays ..) (by decide)
          exact .refl ..
        · refine .ite ?_ ?_
          · refine .app ?_ (inertiaEffect_stays ..) (by decide)
            exact .refl ..
          · refine .ite ?_ ?_
            · refine .app ?_ (bridgeCtrlEffect_stays ..) (by decide)
              exact .refl ..
            · refine .ite ?_ ?_
              · refine .app ?_ (serCfgWrite_stays ..) (by decide)
                exact .refl ..
              · refine .ite ?_ ?_
                · refine .ite ?_ ?_
                  · refine .app ?_ (fwFrame_stays ..) (by decide)
                    exact .refl ..
                  · exact .refl ..
                · refine .ite ?_ ?_
                  · refine .app ?_ (nextOf_stays (execDiscover_stays ..)) (by decide)
                    exact .refl ..
                  · refine .ite ?_ ?_
                    · refine .app ?_ (nextOf_stays (execCalLoad_stays ..)) (by decide)
                      exact .refl ..
                    · refine .ite ?_ ?_
                      · refine .app ?_ (hardEnvWrite_stays ..) (by decide)
                        exact .refl ..
                      · refine .ite ?_ ?_
                        · refine .app ?_ (rudCmdEffect_stays ..) (by decide)
                          exact .refl ..
                        · refine .ite ?_ ?_
                          · refine .app ?_ (coefCtrlEffect_stays ..) (by decide)
                            exact .refl ..
                          · refine .ite ?_ ?_
                            · refine .app ?_ (coupleWrite_stays ..) (by decide)
                              exact .refl ..
                            · refine .ite ?_ ?_
                              · refine .app ?_ (nextOf_stays (execLaneEnWrite_stays ..)) (by decide)
                                exact .refl ..
                              · refine .ite ?_ ?_
                                · refine .app ?_ (wdtConfigEffect_stays ..) (by decide)
                                  exact .refl ..
                                · refine .ite ?_ ?_
                                  · refine .app ?_ (wdtKickEffect_stays ..) (by decide)
                                    exact .refl ..
                                  · refine .ite ?_ ?_
                                    · refine .app ?_ (timerLine_stays ..) (by decide)
                                      refine .app ?_ (plainWrite_stays ..) (by decide)
                                      exact .refl ..
                                    · refine .ite ?_ ?_
                                      · refine .app ?_ (atbEffect_stays ..) (by decide)
                                        exact .refl ..
                                      · refine .ite ?_ ?_
                                        · refine .app ?_ (atbEffect_stays ..) (by decide)
                                          exact .refl ..
                                        · refine .app ?_ (plainWrite_stays ..) (by decide)
                                          exact .refl ..

theorem pageWrite_stays (req : Requester) (p : Nat) (off : Nat) (k : Nat) (v : Word) (o : Outside) (s : State) :
    Stays (allBut []) s (pageWrite req p off k v o s) := by
  unfold pageWrite
  refine .ite ?_ ?_
  · refine .app ?_ (systemWrite_stays ..) (by decide)
    exact .refl ..
  · refine .ite ?_ ?_
    · refine .app ?_ (dbgWrite_stays ..) (by decide)
      exact .refl ..
    · refine .ite ?_ ?_
      · refine .app ?_ (ucodeWrite_stays ..) (by decide)
        exact .refl ..
      · refine .ite ?_ ?_
        · refine .app ?_ (oarWrite_stays ..) (by decide)
          exact .refl ..
        · refine .ite ?_ ?_
          · refine .app ?_ (tuneWrite_stays ..) (by decide)
            exact .refl ..
          · refine .ite ?_ ?_
            · refine .app ?_ (hostSideWrite_stays ..) (by decide)
              exact .refl ..
            · refine .ite ?_ ?_
              · refine .app ?_ (bufferWrite_stays ..) (by decide)
                exact .refl ..
              · refine .app ?_ (driveWrite_stays ..) (by decide)
                exact .refl ..

theorem regEffect_stays (req : Requester) (k : Nat) (v : Word) (o : Outside) (s : State) :
    Stays (allBut []) s (regEffect req k v o s) := by
  unfold regEffect
  extract_lets -underBinder -merge -useContext +onlyGivenNames p off
  split
  · rename_i x1 n1 e
    refine .app ?_ (critEffect_stays ..) (by decide)
    exact .refl ..
  · rename_i x1 e
    refine .ite ?_ ?_
    · refine .app ?_ (headerWrite_stays ..) (by decide)
      exact .refl ..
    · refine .ite ?_ ?_
      · refine .getD ?_ ?_
        · intro u x
          obtain ⟨y, hy, rfl⟩ := Option.map_eq_some_iff.1 x
          refine .app ?_ (fenceEffect_stays ..) (by decide)
          exact .refl ..
        · exact .refl ..
      · split
        · rename_i x2 q1 r1 e1
          refine .app ?_ (queueWrite_stays ..) (by decide)
          exact .refl ..
        · rename_i x2 e1
          refine .app ?_ (pageWrite_stays ..) (by decide)
          exact .refl ..

end Sys2Proof.Machine
end

