-- ==== Sys2Proof/Laws/StaysBus.lean ====
section
/-! SUPPORT. What the operations and meanings of Machine/Bus do at most. -/

set_option linter.all false
set_option maxRecDepth 4000

namespace Sys2Proof.Machine

theorem wrongForm_stays (req : Requester) (a : Addr) (write : Bool) (s : State) :
    Stays [.regs, .bus, .seen, .fabric, .stopped] s (wrongForm req a write s) := by
  unfold wrongForm
  split
  · rename_i x1 e
    refine .ite ?_ ?_
    · refine .app ?_ (busError_stays ..) (by decide)
      refine .app ?_ (refuseAccess_stays ..) (by decide)
      exact .refl ..
    · exact .refl ..
  · rename_i x1 k1 e
    refine .app ?_ (busError_stays ..) (by decide)
    refine .app ?_ (refuseAccess_stays ..) (by decide)
    exact .refl ..

theorem portMemory_stays (write : Bool) (a : Addr) (v : Word) (o : Outside) (s : State) :
    Stays (allBut [.time, .rwlShadow, .clocks, .strokes, .targets, .leaks, .couple, .ucode, .consumed, .drams, .scrub, .power, .otp, .dbg, .smbus]) s (portMemory write a v o s) := by
  unfold portMemory
  refine .app ?_ (memAccess_stays ..) (by decide)
  exact .refl ..

theorem tapReadWord_stays (a : Addr) (o : Outside) (s : State) :
    Stays (allBut [.time, .rwlShadow, .clocks, .strokes, .targets, .leaks, .couple, .ucode, .consumed, .drams, .scrub, .power, .otp, .smbus]) s (tapReadWord a o s) := by
  unfold tapReadWord
  split
  · rename_i x1 k1 e
    refine withReadOut_stays _ _ _ _ _ ?_ (by decide) ?_
    · intro u hu
      refine .app ?_ (regRead_stays ..) (by decide)
      exact hu
    · exact .refl ..
  · rename_i x1 e
    refine .ite ?_ ?_
    · refine .app ?_ (wrongForm_stays ..) (by decide)
      exact .refl ..
    · refine .app ?_ (portMemory_stays ..) (by decide)
      exact .refl ..

theorem tapWriteWord_stays (a : Addr) (v : Word) (o : Outside) (s : State) :
    Stays (allBut []) s (tapWriteWord a v o s) := by
  unfold tapWriteWord
  split
  · rename_i x1 k1 e
    refine withWriteOut_stays _ _ _ _ _ _ ?_ (by decide) ?_
    · intro u hu
      refine .app ?_ (regEffect_stays ..) (by decide)
      exact hu
    · exact .refl ..
  · rename_i x1 e
    refine .ite ?_ ?_
    · refine .app ?_ (wrongForm_stays ..) (by decide)
      exact .refl ..
    · refine .app ?_ (portMemory_stays ..) (by decide)
      exact .refl ..

theorem portOutcome_stays (write : Bool) (a : Addr) (before : State) (s : State) :
    Stays [.regs, .seen, .fabric] s (portOutcome write a before s) := by
  unfold portOutcome
  refine .ite ?_ ?_
  · refine .app ?_ (raise_stays ..) (by decide)
    refine .app ?_ (State.setBit_stays ..) (by decide)
    exact .refl ..
  · exact .refl ..

theorem memCtrlEffect_stays (v : Word) (o : Outside) (s : State) :
    Stays (allBut []) s (memCtrlEffect v o s) := by
  unfold memCtrlEffect
  extract_lets -underBinder -merge -useContext +onlyGivenNames a s1 t s2 s3
  have h_s1 : Stays (allBut []) s s1 := by
    dsimp -zeta only [s1]
    refine .ite ?_ ?_
    · refine .app ?_ (State.setBit_stays ..) (by decide)
      exact .refl ..
    · exact .refl ..
  clear_value s1
  have h_t : Stays (allBut []) s t := by
    dsimp -zeta only [t]
    refine .app ?_ (tapReadWord_stays ..) (by decide)
    exact h_s1
  clear_value t
  have h_s2 : Stays (allBut []) s s2 := by
    dsimp -zeta only [s2]
    refine .ite ?_ ?_
    · refine .app ?_ (portOutcome_stays ..) (by decide)
      refine .ite ?_ ?_
      · exact h_t
      · refine .app ?_ (State.setReg_stays ..) (by decide)
        exact h_t
    · exact h_s1
  clear_value s2
  have h_s3 : Stays (allBut []) s s3 := by
    dsimp -zeta only [s3]
    refine .ite ?_ ?_
    · refine .app ?_ (portOutcome_stays ..) (by decide)
      refine .app ?_ (tapWriteWord_stays ..) (by decide)
      exact h_s2
    · exact h_s2
  clear_value s3
  refine .app ?_ (busOk_stays ..) (by decide)
  exact h_s3

theorem busEffect_stays (req : Requester) (k : Nat) (v : Word) (o : Outside) (a : State) :
    Stays (allBut []) a (busEffect req k v o a) := by
  unfold busEffect
  split
  · rename_i e
    refine .app ?_ (memCtrlEffect_stays ..) (by decide)
    exact .refl ..
  · rename_i e
    refine .app ?_ (regEffect_stays ..) (by decide)
    exact .refl ..

theorem proceed_stays (o : Outside) (h : HeldAccess) (s : State) :
    Stays (allBut []) s (proceed o h s) := by
  unfold proceed
  refine .ite ?_ ?_
  · exact .refl ..
  · split
    · rename_i x1 x2 v1 k1 e e1
      split
      · rename_i e2
        refine withWriteOut_stays _ _ _ _ _ _ ?_ (by decide) ?_
        · intro u hu
          refine .app ?_ (busEffect_stays ..) (by decide)
          exact hu
        · exact .refl ..
      · rename_i e2
        refine writeArrived_stays _ _ _ _ ?_ (by decide) ?_
        · intro u hu
          refine .app ?_ (busEffect_stays ..) (by decide)
          exact hu
        · exact .refl ..
    · rename_i x1 x2 k1 e e1
      split
      · rename_i e2
        refine withReadOut_stays _ _ _ _ _ ?_ (by decide) ?_
        · intro u hu
          refine .app ?_ (regRead_stays ..) (by decide)
          exact hu
        · exact .refl ..
      · rename_i e2
        refine readArrived_stays _ _ _ _ ?_ (by decide) ?_
        · intro u hu
          refine .app ?_ (regRead_stays ..) (by decide)
          exact hu
        · exact .refl ..
    · rename_i x1 x2 n1 v1 e
      split
      · rename_i e1
        refine .app ?_ (memAccess_stays ..) (by decide)
        exact .refl ..
      · rename_i e1
        refine .app ?_ (memArrived_stays ..) (by decide)
        exact .refl ..
    · rename_i x1 x2 n1 e
      split
      · rename_i e1
        refine .app ?_ (memAccess_stays ..) (by decide)
        exact .refl ..
      · rename_i e1
        refine .app ?_ (memArrived_stays ..) (by decide)
        exact .refl ..
    · rename_i x1 x2 e e1 e2
      exact .refl ..

theorem settleOne_stays (out : HeldAccess → Outside) (s : State) (h : HeldAccess) :
    Stays (allBut []) s (settleOne out s h) := by
  unfold settleOne
  extract_lets -underBinder -merge -useContext +onlyGivenNames vsrc
  refine .ite ?_ ?_
  · refine .app ?_ (proceed_stays ..) (by decide)
    refine .app ?_ (.set_bus _ _) (by decide)
    exact .refl ..
  · exact .refl ..

theorem settle_stays (out : HeldAccess → Outside) (p : HeldAccess → Bool) (s : State) :
    Stays (allBut []) s (settle out p s) := by
  unfold settle
  refine .foldl _ _ (fun u x hu => ?_) ?_
  · refine .app ?_ (settleOne_stays ..) (by decide)
    exact hu
  · exact .refl ..

theorem execRegisterWrite_stays (req : Requester) (addr : Addr) (width : AccessWidth) (v : Word) (o : Outside) (s : State) :
    Answers (allBut []) s (execRegisterWrite req addr width v o s) := by
  unfold execRegisterWrite
  refine .next ?_
  split
  · rename_i x1 k1 e
    refine withWriteOut_stays _ _ _ _ _ _ ?_ (by decide) ?_
    · intro u hu
      refine .app ?_ (busEffect_stays ..) (by decide)
      exact hu
    · exact .refl ..
  · rename_i x1 e
    refine .app ?_ (wrongForm_stays ..) (by decide)
    exact .refl ..

theorem execLatchedRead_stays (req : Requester) (addr : Addr) (width : AccessWidth) (s : State) :
    Answers [.regs, .bus, .seen, .fabric, .crit, .stopped, .free, .safePending, .dbg] s (execLatchedRead req addr width s) := by
  unfold execLatchedRead
  refine .next ?_
  split
  · rename_i x1 k1 e
    refine withRead_stays _ _ _ _ ?_ (by decide) ?_
    · intro u hu
      refine .app ?_ (regRead_stays ..) (by decide)
      exact hu
    · exact .refl ..
  · rename_i x1 e
    refine .app ?_ (wrongForm_stays ..) (by decide)
    exact .refl ..

theorem execBusTimeout_stays (req : Requester) (addr : Addr) (write : Bool) (s : State) :
    Answers (allBut []) s (execBusTimeout req addr write s) := by
  unfold execBusTimeout
  refine .next ?_
  split
  · rename_i x1 e
    exact .refl ..
  · rename_i x1 h1 e
    extract_lets -underBinder -merge -useContext +onlyGivenNames vsrc
    refine .app ?_ (busError_stays ..) (by decide)
    refine .app ?_ (refuseAccess_stays ..) (by decide)
    refine .app ?_ (settle_stays ..) (by decide)
    refine .app ?_ (.set_bus _ _) (by decide)
    exact .refl ..

theorem execFenceDrain_stays (req : Requester) (page : Nat) (v : Word) (s : State) :
    Answers [.regs, .bus, .seen, .fabric, .stopped] s (execFenceDrain req page v s) := by
  unfold execFenceDrain
  refine .next ?_
  split
  · rename_i x1 c1 e
    refine .when _ _ (fun u hu => ?_) ?_
    · refine withWrite_stays _ _ _ _ _ ?_ (by decide) ?_
      · intro u1 hu1
        refine .app ?_ (fenceEffect_stays ..) (by decide)
        exact hu1
      · exact hu
    · exact .refl ..
  · rename_i x1 e
    exact .refl ..

theorem execFenceDrainDone_stays (core : Requester) (o : Outside) (s : State) :
    Answers (allBut []) s (execFenceDrainDone core o s) := by
  unfold execFenceDrainDone
  refine .next ?_
  refine .when _ _ (fun u hu => ?_) ?_
  · extract_lets -underBinder -merge -useContext +onlyGivenNames vsrc
    refine .app ?_ (settle_stays ..) (by decide)
    refine .app ?_ (.set_bus _ _) (by decide)
    exact hu
  · exact .refl ..

theorem accessesResume_stays (o : Outside) (s : State) :
    Stays (allBut []) s (accessesResume o s) := by
  unfold accessesResume
  refine .app ?_ (settle_stays ..) (by decide)
  refine .app ?_ (settle_stays ..) (by decide)
  exact .refl ..

theorem execClockRelock_stays (island : Nat) (o : Outside) (s : State) :
    Answers (allBut []) s (execClockRelock island o s) := by
  unfold execClockRelock
  refine .next ?_
  split
  · rename_i x1 e
    exact .refl ..
  · rename_i x1 k1 e
    refine .when _ _ (fun u hu => ?_) ?_
    · refine .ite ?_ ?_
      · refine .app ?_ (accessesResume_stays ..) (by decide)
        refine .app ?_ (transient_stays ..) (by decide)
        refine .app ?_ (modClocks_stays ..) (by decide)
        exact hu
      · refine .app ?_ (clockFails_stays ..) (by decide)
        exact hu
    · exact .refl ..

theorem execCritWrite_stays (req : Requester) (addr : Addr) (v : Word) (s : State) :
    Answers [.regs, .bus, .seen, .clocks, .fabric, .targets, .crit, .queues, .ended, .stopped, .keel, .rigger, .free, .safePending, .pres, .hda, .rudders, .tunes, .oars, .sweep, .gates, .ucode, .returned, .mem, .checks, .boat, .crew, .slip, .power] s (execCritWrite req addr v s) := by
  unfold execCritWrite
  refine .next ?_
  split
  · rename_i x1 k1 n1 e
    refine withWrite_stays _ _ _ _ _ ?_ (by decide) ?_
    · intro u hu
      refine .app ?_ (critEffect_stays ..) (by decide)
      exact hu
    · exact .refl ..
  · rename_i x1 e
    exact .refl ..

theorem execMemRead_stays (req : Requester) (v : Word) (o : Outside) (s : State) :
    Answers (allBut []) s (execMemRead req v o s) := by
  unfold execMemRead
  refine .next ?_
  refine .when _ _ (fun u hu => ?_) ?_
  · refine withWriteOut_stays _ _ _ _ _ _ ?_ (by decide) ?_
    · intro u1 hu1
      refine .app ?_ (memCtrlEffect_stays ..) (by decide)
      exact hu1
    · exact hu
  · exact .refl ..

theorem execMemWrite_stays (req : Requester) (v : Word) (o : Outside) (s : State) :
    Answers (allBut []) s (execMemWrite req v o s) := by
  unfold execMemWrite
  refine .next ?_
  refine .when _ _ (fun u hu => ?_) ?_
  · refine withWriteOut_stays _ _ _ _ _ _ ?_ (by decide) ?_
    · intro u1 hu1
      refine .app ?_ (memCtrlEffect_stays ..) (by decide)
      exact hu1
    · exact hu
  · exact .refl ..

theorem execDbgAccess_stays (port : TapPort) (write : Bool) (addr : Addr) (v : Word) (o : Outside) (s : State) :
    Answers (allBut []) s (execDbgAccess port write addr v o s) := by
  unfold execDbgAccess
  refine .next ?_
  refine .when _ _ (fun u hu => ?_) ?_
  · split
    · rename_i x1 k1 e
      extract_lets -underBinder -merge -useContext +onlyGivenNames t
      have h_t : Stays (allBut []) s t := by
        dsimp -zeta only [t]
        refine withReadOut_stays _ _ _ _ _ ?_ (by decide) ?_
        · intro u1 hu1
          refine .app ?_ (regRead_stays ..) (by decide)
          exact hu1
        · exact hu
      clear_value t
      refine .ite ?_ ?_
      · refine .app ?_ (tapShift_stays ..) (by decide)
        refine withWriteOut_stays _ _ _ _ _ _ ?_ (by decide) ?_
        · intro u1 hu1
          refine .app ?_ (busEffect_stays ..) (by decide)
          exact hu1
        · exact hu
      · refine .app ?_ (tapShift_stays ..) (by decide)
        exact h_t
    · rename_i x1 e
      refine .app ?_ (wrongForm_stays ..) (by decide)
      exact hu
  · exact .refl ..

theorem endTransits_stays (s : State) :
    Stays [.regs, .seen, .clocks, .fabric] s (endTransits s) := by
  unfold endTransits
  extract_lets -underBinder -merge -useContext +onlyGivenNames s1
  have h_s1 : Stays [.regs, .seen, .clocks, .fabric] s s1 := by
    dsimp -zeta only [s1]
    refine .app ?_ (modClocks_stays ..) (by decide)
    exact .refl ..
  clear_value s1
  refine .ite ?_ ?_
  · refine .app ?_ (raise_stays ..) (by decide)
    exact h_s1
  · exact h_s1

theorem tick_stays (s : State) :
    Stays (allBut []) s (tick s) := by
  unfold tick
  extract_lets -underBinder -merge -useContext +onlyGivenNames t
  have h_t : Stays (allBut []) s t := by
    dsimp -zeta only [t]
    refine .app ?_ (settle_stays ..) (by decide)
    refine .app ?_ (timerLines_stays ..) (by decide)
    refine .app ?_ (endTransits_stays ..) (by decide)
    refine .app ?_ (.set_time _ _) (by decide)
    exact .refl ..
  clear_value t
  refine .ite ?_ ?_
  · refine .app ?_ (trackIdle_stays ..) (by decide)
    exact h_t
  · exact h_t

end Sys2Proof.Machine
end

