-- ==== Sys2Proof/Laws/StaysGate.lean ====
section
/-! SUPPORT. What the operations and meanings of Machine/Gate do at most. -/

set_option linter.all false
set_option maxRecDepth 4000

namespace Sys2Proof.Machine

theorem refuseRun_stays (a : Nat) (code : Nat) (ws : List Word) (s : State) :
    Stays [.regs, .seen, .fabric, .returned] s (refuseRun a code ws s) := by
  unfold refuseRun
  refine .app ?_ (reportRun_stays ..) (by decide)
  refine .app ?_ (raise_stays ..) (by decide)
  refine .app ?_ (State.count_stays ..) (by decide)
  exact .refl ..

theorem execRunAdmit_stays (a : Nat) (s : State) :
    Answers [.regs, .seen, .fabric, .queues, .ended, .gates, .returned, .boat] s (execRunAdmit a s) := by
  unfold execRunAdmit
  refine .next ?_
  refine .when _ _ (fun u hu => ?_) ?_
  · split
    · rename_i x1 e
      exact hu
    · rename_i x1 it1 e
      extract_lets -underBinder -merge -useContext +onlyGivenNames c n
      refine .ite ?_ ?_
      · exact hu
      · split
        · rename_i x2 e1
          exact hu
        · rename_i x2 fst1 t1 e1
          split
          · rename_i x3 code1 e2
            refine .app ?_ (refuseRun_stays ..) (by decide)
            refine .app ?_ (qNext_stays _ _ _ e1) (by decide)
            exact hu
          · rename_i x3 e2
            extract_lets -underBinder -merge -useContext +onlyGivenNames id r
            refine .app ?_ (setSectorHeld_stays ..) (by decide)
            refine .app ?_ (modGate_stays ..) (by decide)
            refine .app ?_ (qNext_stays _ _ _ e1) (by decide)
            exact hu
  · exact .refl ..

theorem execGatePick_stays (a : Nat) (k : Nat) (s : State) :
    Answers [.regs, .seen, .fabric, .queues, .ended, .stopped, .pres, .rudders, .oars, .sweep, .gates, .returned, .boat] s (execGatePick a k s) := by
  unfold execGatePick
  refine .next ?_
  refine .when _ _ (fun u hu => ?_) ?_
  · extract_lets -underBinder -merge -useContext +onlyGivenNames s1 queued
    have h_s1 : Stays [.regs, .seen, .fabric, .queues, .ended, .stopped, .pres, .rudders, .oars, .sweep, .gates, .returned, .boat] s s1 := by
      dsimp -zeta only [s1]
      refine .app ?_ (gateSettle_stays ..) (by decide)
      exact hu
    clear_value s1
    refine .when _ _ (fun u1 hu1 => ?_) ?_
    · split
      · rename_i x1 t1 e
        refine .app ?_ (formGroup_stays ..) (by decide)
        refine .app ?_ (pickOwn_stays _ _ _ _ e) (by decide)
        exact hu1
      · rename_i x1 e
        split
        · rename_i x2 r1 e1
          refine .app ?_ (formGroup_stays ..) (by decide)
          refine .app ?_ (issueRun_stays ..) (by decide)
          exact hu1
        · rename_i x2 e1
          exact hu1
    · exact h_s1
  · exact .refl ..

theorem execRunAge_stays (a : Nat) (s : State) :
    Answers [.regs, .seen, .fabric, .gates] s (execRunAge a s) := by
  unfold execRunAge
  refine .next ?_
  refine .when _ _ (fun u hu => ?_) ?_
  · extract_lets -underBinder -merge -useContext +onlyGivenNames ms
    split
    · rename_i x1 e
      exact hu
    · rename_i x1 r1 e
      extract_lets -underBinder -merge -useContext +onlyGivenNames s1 s2
      have h_s1 : Stays [.regs, .seen, .fabric, .gates] s s1 := by
        dsimp -zeta only [s1]
        refine .app ?_ (modRun_stays ..) (by decide)
        exact hu
      clear_value s1
      have h_s2 : Stays [.regs, .seen, .fabric, .gates] s s2 := by
        dsimp -zeta only [s2]
        refine .ite ?_ ?_
        · refine .app ?_ (raise_stays ..) (by decide)
          exact h_s1
        · exact h_s1
      clear_value s2
      refine .ite ?_ ?_
      · exact h_s1
      · refine .app ?_ (State.count_stays ..) (by decide)
        refine .app ?_ (modGate_stays ..) (by decide)
        exact h_s2
  · exact .refl ..

theorem execRunEnd_stays (a : Nat) (s : State) :
    Answers [.regs, .seen, .fabric, .queues, .ended, .stopped, .pres, .rudders, .oars, .sweep, .gates, .returned, .boat] s (execRunEnd a s) := by
  unfold execRunEnd
  refine .next ?_
  refine .when _ _ (fun u hu => ?_) ?_
  · extract_lets -underBinder -merge -useContext +onlyGivenNames s1
    have h_s1 : Stays [.regs, .seen, .fabric, .queues, .ended, .stopped, .pres, .rudders, .oars, .sweep, .gates, .returned, .boat] s s1 := by
      dsimp -zeta only [s1]
      refine .app ?_ (gateSettle_stays ..) (by decide)
      exact hu
    clear_value s1
    split
    · rename_i x1 e
      exact h_s1
    · rename_i x1 r1 e
      extract_lets -underBinder -merge -useContext +onlyGivenNames f st s2
      have h_s2 : Stays [.regs, .seen, .fabric, .queues, .ended, .stopped, .pres, .rudders, .oars, .sweep, .gates, .returned, .boat] s s2 := by
        dsimp -zeta only [s2]
        refine .app ?_ (modGate_stays ..) (by decide)
        exact h_s1
      clear_value s2
      refine .ite ?_ ?_
      · exact h_s2
      · refine .app ?_ (reportRun_stays ..) (by decide)
        refine .app ?_ (State.count_stays ..) (by decide)
        exact h_s2
  · exact .refl ..

theorem execRudderGroup_stays (a : Nat) (s : State) :
    Answers [.regs, .seen, .fabric, .queues, .ended, .stopped, .rigger, .free, .pres, .hda, .rudders, .tunes, .oars, .sweep, .gates, .returned, .mem, .checks, .boat] s (execRudderGroup a s) := by
  unfold execRudderGroup
  refine .next ?_
  refine .when _ _ (fun u hu => ?_) ?_
  · split
    · rename_i x1 e
      exact hu
    · rename_i x1 g1 e
      refine .app ?_ (gateNotes_stays ..) (by decide)
      refine .app ?_ (offerGroup_stays ..) (by decide)
      refine .app ?_ (modGate_stays ..) (by decide)
      exact hu
  · exact .refl ..

end Sys2Proof.Machine
end

