-- ==== Sys2Proof/Laws/StaysIntake.lean ====
section
/-! SUPPORT. What the operations and meanings of Machine/Intake do at most. -/

set_option linter.all false
set_option maxRecDepth 4000

namespace Sys2Proof.Machine

theorem taskSetFull_stays (lane : Nat) (n : Nat) (f : CommandFrame) (s : State) :
    Stays [.regs, .seen, .fabric, .slip] s (taskSetFull lane n f s) := by
  unfold taskSetFull
  extract_lets -underBinder -merge -useContext +onlyGivenNames s1 s2
  have h_s1 : Stays [.regs, .seen, .fabric, .slip] s s1 := by
    dsimp -zeta only [s1]
    refine .app ?_ (State.count_stays ..) (by decide)
    exact .refl ..
  clear_value s1
  have h_s2 : Stays [.regs, .seen, .fabric, .slip] s s2 := by
    dsimp -zeta only [s2]
    refine .ite ?_ ?_
    · refine .app ?_ (raise_stays ..) (by decide)
      exact h_s1
    · exact h_s1
  clear_value s2
  refine .app ?_ (replyFrame_stays ..) (by decide)
  refine .app ?_ (modSlip_stays ..) (by decide)
  exact h_s2

theorem acceptCommand_stays (lane : Nat) (n : Nat) (lun : Nat) (f : CommandFrame) (s : State) :
    Stays [.regs, .seen, .fabric, .queues, .ended, .returned, .boat, .slip] s (acceptCommand lane n lun f s) := by
  unfold acceptCommand
  split
  · rename_i x1 e
    refine .app ?_ (taskSetFull_stays ..) (by decide)
    exact .refl ..
  · rename_i x1 i1 e
    extract_lets -underBinder -merge -useContext +onlyGivenNames t
    refine .ite ?_ ?_
    · refine .app ?_ (taskSetFull_stays ..) (by decide)
      exact .refl ..
    · split
      · rename_i x2 v1 e1
        refine .app ?_ (modSlip_stays ..) (by decide)
        refine .app ?_ (qPush_stays _ _ _ _ _ e1) (by decide)
        exact .refl ..
      · rename_i x2 v1 e1
        refine .app ?_ (replyFrame_stays ..) (by decide)
        refine .app ?_ (qPush_stays _ _ _ _ _ e1) (by decide)
        exact .refl ..
      · rename_i x2 e1 e2
        exact .refl ..

theorem execCommandFrame_stays (lane : Nat) (n : Nat) (f : CommandFrame) (s : State) :
    Answers [.regs, .seen, .fabric, .queues, .ended, .stopped, .free, .returned, .mem, .checks, .boat, .slip, .cryptos] s (execCommandFrame lane n f s) := by
  unfold execCommandFrame
  refine .next ?_
  refine .when _ _ (fun u hu => ?_) ?_
  · split
    · rename_i x1 e
      refine .app ?_ (replyFrame_stays ..) (by decide)
      refine .app ?_ (raise_stays ..) (by decide)
      exact hu
    · rename_i x1 i1 e
      refine .ite ?_ ?_
      · refine .app ?_ (hostDrain_stays ..) (by decide)
        refine .app ?_ (replyFrame_stays ..) (by decide)
        refine .app ?_ (endNexusTasks_stays ..) (by decide)
        exact hu
      · refine .app ?_ (acceptCommand_stays ..) (by decide)
        exact hu
  · exact .refl ..

theorem setWoPtr_stays (n : Nat) (u : Lu) (ptr : Nat) (s : State) :
    Stays [.regs, .seen, .fabric, .stopped, .mem, .checks, .boat, .slip] s (setWoPtr n u ptr s) := by
  unfold setWoPtr
  extract_lets -underBinder -merge -useContext +onlyGivenNames ws ws_1
  refine .app ?_ (setLu_stays ..) (by decide)
  refine .app ?_ (storeBytes_stays ..) (by decide)
  exact .refl ..

theorem woRefuse_stays (t : HostTask) (lba : Option Nat) (s : State) :
    Stays [.regs, .seen, .fabric, .slip] s (woRefuse t lba s) := by
  unfold woRefuse
  refine .app ?_ (giveAnswer_stays ..) (by decide)
  refine .app ?_ (raise_stays ..) (by decide)
  exact .refl ..

theorem woCheck_stays (t : HostTask) (s : State) :
    Stays [.regs, .seen, .fabric, .stopped, .mem, .checks, .boat, .slip] s (woCheck t s).2 := by
  unfold woCheck
  split
  · rename_i x1 e
    refine .pair ?_
    exact .refl ..
  · rename_i x1 u1 e
    split
    · rename_i e1
      refine .pair ?_
      exact .refl ..
    · rename_i e1
      split
      · rename_i x2 e2
        refine .pair ?_
        exact .refl ..
      · rename_i x2 a1 e2
        refine .pair ?_
        refine .app ?_ (woRefuse_stays ..) (by decide)
        exact .refl ..
      · rename_i x2 lba1 n1 e2
        split
        · rename_i e3
          refine .pair ?_
          refine .app ?_ (setWoPtr_stays ..) (by decide)
          exact .refl ..
        · rename_i e3
          refine .pair ?_
          refine .app ?_ (woRefuse_stays ..) (by decide)
          exact .refl ..

theorem handOver_stays (t : HostTask) (reason : Nat) (s : State) :
    ∀ r, (handOver t reason s) = some r → Stays [.regs, .seen, .fabric, .queues, .ended, .returned, .boat, .slip, .power] s r := by
  intro r hr
  unfold handOver at hr
  extract_lets -underBinder -merge -useContext +onlyGivenNames ws at hr
  split at hr
  · rename_i x1 v1 e
    cases hr
    refine .app ?_ (failTask_stays ..) (by decide)
    refine .app ?_ (qPush_stays _ _ _ _ _ e) (by decide)
    exact .refl ..
  · rename_i x1 v1 snd1 e e1
    cases hr
    refine .app ?_ (modTask_stays ..) (by decide)
    refine .app ?_ (firmwarePushed_stays ..) (by decide)
    refine .app ?_ (qPush_stays _ _ _ _ _ e1) (by decide)
    exact .refl ..
  · rename_i x1 e
    cases hr

theorem serveCommand_stays (t : HostTask) (u : Lu) (c : FastCdb) (s : State) :
    Stays [.regs, .seen, .fabric, .queues, .ended, .stopped, .free, .returned, .mem, .checks, .boat, .slip, .power, .cryptos] s (serveCommand t u c s) := by
  unfold serveCommand
  extract_lets -underBinder -merge -useContext +onlyGivenNames s0x
  have h_s0x : Stays [.regs, .seen, .fabric, .queues, .ended, .stopped, .free, .returned, .mem, .checks, .boat, .slip, .power, .cryptos] s s0x := by
    dsimp -zeta only [s0x]
    refine .app ?_ (modTask_stays ..) (by decide)
    exact .refl ..
  clear_value s0x
  split
  · rename_i x1 a1 e
    refine .app ?_ (giveAnswer_stays ..) (by decide)
    exact h_s0x
  · rename_i x1 e
    extract_lets -underBinder -merge -useContext +onlyGivenNames w
    have h_w : Stays [.regs, .seen, .fabric, .queues, .ended, .stopped, .free, .returned, .mem, .checks, .boat, .slip, .power, .cryptos] s w.2 := by
      dsimp -zeta only [w]
      refine .app ?_ (woCheck_stays ..) (by decide)
      exact h_s0x
    clear_value w
    refine .ite ?_ ?_
    · refine .app ?_ (failTask_stays ..) (by decide)
      exact h_s0x
    · refine .ite ?_ ?_
      · exact h_w
      · refine .app ?_ (hostDrain_stays ..) (by decide)
        refine .app ?_ (enterTask_stays ..) (by decide)
        refine .app ?_ (exitTrigger_stays ..) (by decide)
        refine .app ?_ (modTask_stays ..) (by decide)
        exact h_w

theorem passCommand_stays (t : HostTask) (reason : Nat) (s : State) :
    ∀ r, (passCommand t reason s) = some r → Stays [.regs, .seen, .fabric, .queues, .ended, .stopped, .returned, .mem, .checks, .boat, .slip, .power] s r := by
  intro r hr
  unfold passCommand at hr
  extract_lets -underBinder -merge -useContext +onlyGivenNames w at hr
  have h_w : Stays [.regs, .seen, .fabric, .queues, .ended, .stopped, .returned, .mem, .checks, .boat, .slip, .power] s w.2 := by
    dsimp -zeta only [w]
    refine .app ?_ (woCheck_stays ..) (by decide)
    exact .refl ..
  clear_value w
  split at hr
  · rename_i e
    cases hr
    refine .app ?_ (failTask_stays ..) (by decide)
    refine .app ?_ (modTask_stays ..) (by decide)
    exact .refl ..
  · rename_i e
    split at hr
    · rename_i e1
      cases hr
    · rename_i e1
      split at hr
      · rename_i e2
        refine .app ?_ (handOver_stays _ _ _ _ hr) (by decide)
        exact h_w
      · rename_i e2
        cases hr
        refine .app ?_ (modTask_stays ..) (by decide)
        exact h_w

theorem lutParity_stays (n : Nat) (s : State) :
    Stays [.regs, .seen, .fabric, .stopped, .checks, .boat, .slip] s (lutParity n s) := by
  unfold lutParity
  split
  · rename_i x1 e
    exact .refl ..
  · rename_i x1 u1 e
    extract_lets -underBinder -merge -useContext +onlyGivenNames pl r
    have h_r : Stays [.regs, .seen, .fabric, .stopped, .checks, .boat, .slip] s r.2.2 := by
      dsimp -zeta only [r]
      refine .app ?_ (fetchWords_stays ..) (by decide)
      exact .refl ..
    clear_value r
    refine .ite ?_ ?_
    · refine .app ?_ (transient_stays ..) (by decide)
      refine .app ?_ (setLu_stays ..) (by decide)
      exact h_r
    · refine .app ?_ (lasting_stays ..) (by decide)
      refine .app ?_ (setLu_stays ..) (by decide)
      exact h_r

theorem hazParity_stays (e : Nat) (lost : Bool) (s : State) :
    Stays [.regs, .seen, .fabric, .stopped, .safePending] s (hazParity e lost s) := by
  unfold hazParity
  refine .ite ?_ ?_
  · exact .refl ..
  · refine .ite ?_ ?_
    · refine .app ?_ (safeCause_stays ..) (by decide)
      refine .app ?_ (lasting_stays ..) (by decide)
      exact .refl ..
    · refine .app ?_ (transient_stays ..) (by decide)
      exact .refl ..

theorem decodeTask_stays (t : HostTask) (lutBad : Bool) (s : State) :
    ∀ r, (decodeTask t lutBad s) = some r → Stays [.regs, .seen, .fabric, .queues, .ended, .stopped, .free, .returned, .mem, .checks, .boat, .slip, .power, .cryptos] s r := by
  intro r hr
  unfold decodeTask at hr
  extract_lets -underBinder -merge -useContext +onlyGivenNames s1 at hr
  have h_s1 : Stays [.regs, .seen, .fabric, .queues, .ended, .stopped, .free, .returned, .mem, .checks, .boat, .slip, .power, .cryptos] s s1 := by
    dsimp -zeta only [s1]
    refine .ite ?_ ?_
    · refine .app ?_ (lutParity_stays ..) (by decide)
      exact .refl ..
    · exact .refl ..
  clear_value s1
  split at hr
  · rename_i x1 x2 x3 c1 u1 e e1 e2
    cases hr
    refine .app ?_ (serveCommand_stays ..) (by decide)
    exact h_s1
  · rename_i x1 x2 x3 r1 e
    refine .app ?_ (passCommand_stays _ _ _ _ hr) (by decide)
    exact h_s1
  · rename_i x1 x2 x3 e e1
    refine .app ?_ (passCommand_stays _ _ _ _ hr) (by decide)
    exact h_s1

theorem execFastPathDecode_stays (lutBad : Bool) (haz : Option (Nat × Bool)) (s : State) :
    Answers [.regs, .seen, .fabric, .queues, .ended, .stopped, .free, .safePending, .returned, .mem, .checks, .boat, .slip, .power, .cryptos] s (execFastPathDecode lutBad haz s) := by
  unfold execFastPathDecode
  refine .next ?_
  refine .when _ _ (fun u hu => ?_) ?_
  · extract_lets -underBinder -merge -useContext +onlyGivenNames s1
    have h_s1 : Stays [.regs, .seen, .fabric, .queues, .ended, .stopped, .free, .safePending, .returned, .mem, .checks, .boat, .slip, .power, .cryptos] s s1 := by
      dsimp -zeta only [s1]
      refine .app ?_ (hostDrain_stays ..) (by decide)
      split
      · rename_i haz1 e1 lost1
        refine .app ?_ (hazParity_stays ..) (by decide)
        exact hu
      · rename_i haz1
        exact hu
    clear_value s1
    refine .ite ?_ ?_
    · refine .app ?_ (sayFull_stays ..) (by decide)
      exact h_s1
    · split
      · rename_i x1 x2 it1 fst1 after1 e e1
        split
        · rename_i x3 e2
          refine .app ?_ (qNext_stays _ _ _ e1) (by decide)
          exact h_s1
        · rename_i x3 t1 e2
          refine .ite ?_ ?_
          · refine .app ?_ (qNext_stays _ _ _ e1) (by decide)
            exact h_s1
          · refine .ite ?_ ?_
            · refine .ite ?_ ?_
              · exact h_s1
              · refine .app ?_ (State.count_stays ..) (by decide)
                refine .app ?_ (modTask_stays ..) (by decide)
                exact h_s1
            · refine .getD ?_ ?_
              · intro u1 x
                refine .app ?_ (decodeTask_stays _ _ _ _ x) (by decide)
                refine .app ?_ (qNext_stays _ _ _ e1) (by decide)
                exact h_s1
              · exact h_s1
      · rename_i x1 x2 e
        exact h_s1
  · exact .refl ..

theorem execHostBufferAlloc_stays (s : State) :
    Answers [.regs, .seen, .fabric, .queues, .ended, .stopped, .free, .returned, .mem, .checks, .boat, .slip, .cryptos] s (execHostBufferAlloc s) := by
  unfold execHostBufferAlloc
  refine .next ?_
  refine .when _ _ (fun u hu => ?_) ?_
  · extract_lets -underBinder -merge -useContext +onlyGivenNames s1
    have h_s1 : Stays [.regs, .seen, .fabric, .queues, .ended, .stopped, .free, .returned, .mem, .checks, .boat, .slip, .cryptos] s s1 := by
      dsimp -zeta only [s1]
      refine .app ?_ (hostDrain_stays ..) (by decide)
      exact hu
    clear_value s1
    split
    · rename_i x1 t1 tail1 e
      refine .app ?_ (hostDrain_stays ..) (by decide)
      refine .app ?_ (enterTask_stays ..) (by decide)
      exact h_s1
    · rename_i x1 e
      exact h_s1
  · exact .refl ..

end Sys2Proof.Machine
end

