-- ==== Sys2Proof/Tests/Slice0.lean ====
section
/-! SUPPORT. The model's own tests: what `Instr.wf` refuses and admits, and, for every obligation that has hypotheses, a theorem
`test_witness_<name>` that shows, clause by clause in the order of the statement, a state and operands that meet them together. -/

namespace Sys2Proof.Machine

set_option Elab.async false

theorem test_no_word_spells_a_command : decodeTableWord 32 0 = none := rfl

/-! ### What is well formed -/

/-- Each term has one operand just outside its range. -/
theorem test_wf_refuses_1
    (q : Requester) (v : Word) (fb : BitVec 8) (mc : MicroFetch) (wm : WedgeMark) (nb : NullBursts) (f : Bool) (h : BitVec 16) (os : Outside)
    (qi : QueueId)
    (ws : List Word) (wi : WedgeIn) (si : SubIn) :
    ([
      .fenceDrain q 0xfff v, .softReset q 0xfff v, .softResetDone 0xfff, .blockDisable q 0xfff v, .evForce q 0xfff v, .pageLock q 0xfff v,
      .railStartFail 0 101, .islandClockStop 26, .clockRelock 26 os, .clockRelockTimeout 26, .softIrq q 4 v, .timerCompare 4,
      .wdtConfig q 4 v, .wdtKick q 4 v, .watchdog 4, .microcodeFault 53 0 mc, .microcodeFault 15 0 mc, .pollTimeout 53 0, .pollTimeout 15 0,
      .bucketLeak 0x480, .targetPop q 6 v, .queuePush qi 64 ws, .preFwRead q 4 v, .preFwWrite q 4 v, .serialFrameDone 4 h fb,
      .pfaultAssert 4 h, .pfaultSettle 4 f h, .faultStatusPoll 4 h, .envelopeCheck 16, .wedgeDemod 4 0 wm 0 0 nb,
      .wedgeDemod 0 4 wm 0 0 nb, .wedgeDemod 0 0 wm 640 0 nb, .wedgeSample 4 wi, .subsample 4 si, .ssFault 4 0, .ssFault 0 4,
      .timingFail 4, .positionLost 4, .reacquireDone 4, .reacquireTimeout 4] :
      List Instr).any Instr.wf = false :=
  rfl

/-- Each term has one operand just outside its range. -/
theorem test_wf_refuses_2
    (q : Requester) (v : Word) (f : Bool) (cs : CoilSense) (de : DecodeEnd) (sn : BitVec 14) (rp : ReadPass) :
    ([
      .rudderGroup 4, .onTrack 4 0, .onTrack 0 4, .seekFail 4, .wfClear 4 0, .wfClear 0 4, .pesWindow 4, .coupleWord 4 0 f f f,
      .coupleWord 0 4 f f f, .snsSample 4 sn, .sensorFault 4, .rudderLoad q 4 v, .loadTimeout 4, .rudderUnload q 4 v, .rudderRetract q 4 v,
      .rudderClear q 4 v, .rudderCmdUnlisted q 4 v, .parkDetect 4 cs 0, .retractTimeout 4, .retractCurrentEnd 4, .coefLoad q 4 v,
      .coefLoadDone 4 f, .coefSwitch q 4 v, .coefSwitched 4 f, .tuneMode q 0xfff v, .tuneGo q 0xfff v, .tuneStop q 0xfff v,
      .tuneForce q 0xfff v, .traceDone 0xfff, .sinePointEnd 0xfff 0, .injectionEnd 0xfff, .sectorRead 16 0 rp, .sectorRead 0 0x800 rp,
      .sectorWrite 16 0, .sectorWrite 0 0x800, .zoneTableLoad q 16 v, .zoneTableDone 16 f, .laneDispatch 12 f, .decodeEnd 12 de,
      .sliceEnd 12 de] :
      List Instr).any Instr.wf = false :=
  rfl

/-- Each term has one operand just outside its range. -/
theorem test_wf_refuses_3
    (q : Requester) (v : Word) (f : Bool) (mp : MasterParity) (tr : TrainResult) :
    ([
      .reequalise 512 0, .reequalise 0 4, .ladderTimeout 512, .runAdmit 4, .gatePick 4 0, .gatePick 0 4, .runAge 4, .trackJobStart 16, .landingAck 16 0,
      .landingAck 0 0x800, .trackJobEnd 16, .runEnd 4, .relocTableLoad q 16 v, .relocTableDone 16 f, .rtAdd q 16 v, .swArmWrite q 16 v,
      .ucodeRestoreDone 53 mp, .ucodeRestoreDone 15 mp, .dramInit q 2 v tr, .initDone 2, .srEnter q 2 v, .selfRefresh 2, .srExit q 2 v,
      .mr4Poll 2 0 f, .mr4Poll 0 32 f, .xactDone 256 0, .dirtyReserve 0x2000 1, .dirtyReserve 0 0x4001, .dirtyReserve 0 0,
      .bandDisableDone 0x1000, .stripeWrite 8, .stripeRead 8, .stripeRepair 8, .stripeDone 0x800, .journalSectorWrite 8, .rebuildStep 8 0 0,
      .rebuildStep 0 0x1000 0, .rebuildStep 0 0 2, .resyncStep 8 0, .resyncStep 0 0x1000, .patrolStep 8] :
      List Instr).any Instr.wf = false :=
  rfl

/-- Each term has one operand just outside its range. -/
theorem test_wf_refuses_4
    (q : Requester) (v : Word) (f : Bool) (tm : TaskMgmtFrame) (ad : BitVec 64) (cf : CommandFrame) (bs : List (BitVec 8)) :
    ([
      .reshapeStep 8, .lossOfSync 4, .linkResetRequest q 4 v, .linkUp 4 0 ad, .linkUp 0 3 ad, .linkResetTimeout 4,
      .codewordUncorrectable 4 0 0 f, .frameAck 4, .frameNak 4, .ackNakTimeout 4, .openConnection 4 ad, .hardReset 4, .nexusLoss 64,
      .powerStateRequest 4 0, .powerStateRequest 0 3, .commandFrame 4 0 cf, .commandFrame 0 64 cf, .xferRdy 0x2000, .dataFrame 4 0 0 0 bs,
      .dataFrame 0 64 0 0 bs, .sendData 0x2000, .sendResponse 0x2000, .abortTask 4 0 tm, .abortTask 0 64 tm, .abortTaskSet 4 0 tm,
      .abortTaskSet 0 64 tm, .clearTaskSet 4 0 tm, .clearTaskSet 0 64 tm, .logicalUnitReset 4 0 tm, .logicalUnitReset 0 64 tm,
      .iTNexusReset 4 0 tm, .iTNexusReset 0 64 tm, .queryTask 4 0 tm, .queryTask 0 64 tm, .queryTaskSet 4 0 tm, .queryTaskSet 0 64 tm,
      .queryAsynchronousEvent 4 0 tm, .queryAsynchronousEvent 0 64 tm, .tmFunctionNotSupported 4 0 0 tm, .tmFunctionNotSupported 0 64 0 tm] :
      List Instr).any Instr.wf = false :=
  rfl

/-- Each term has one operand just outside its range. -/
theorem test_wf_refuses_5
    (q : Requester) (v : Word) (f : Bool) (tm : TaskMgmtFrame) :
    ([
      .tmFunctionNotSupported 0 0 256 tm, .svcDataIn q 4 v, .svcDataOut q 4 v, .svcRespond q 4 v, .svcDone 4, .luDeleteDone 64,
      .reserveWrite q 6 v, .domainFault 20, .umpireWindowRead q 8 f f, .halted 53 0, .halted 0 0, .breakpoint 53 0, .breakpoint 0 0] :
      List Instr).any Instr.wf = false :=
  rfl

/-- Each term has every operand at the top of its range. -/
theorem test_wf_admits_1
    (q : Requester) (v : Word) (fb : BitVec 8) (mc : MicroFetch) (wm : WedgeMark) (nb : NullBursts) (f : Bool) (h : BitVec 16) (os : Outside)
    (qi : QueueId)
    (ws : List Word) (wi : WedgeIn) (si : SubIn) :
    ([
      .fenceDrain q 32 v, .softReset q 32 v, .softResetDone 32, .blockDisable q 32 v, .evForce q 32 v, .pageLock q 32 v,
      .railStartFail 0 100, .islandClockStop 25, .clockRelock 25 os, .clockRelockTimeout 25, .softIrq q 3 v, .timerCompare 3,
      .wdtConfig q 3 v, .wdtKick q 3 v, .watchdog 3, .microcodeFault 52 0 mc, .pollTimeout 52 0, .bucketLeak 0x47f, .targetPop q 5 v,
      .queuePush qi 63 ws, .preFwRead q 3 v, .preFwWrite q 3 v, .serialFrameDone 3 h fb, .pfaultAssert 3 h, .pfaultSettle 3 f h,
      .faultStatusPoll 3 h, .envelopeCheck 15, .wedgeDemod 3 3 wm 639 0 nb, .wedgeSample 3 wi, .subsample 3 si, .ssFault 3 3,
      .timingFail 3, .positionLost 3, .reacquireDone 3, .reacquireTimeout 3, .rudderGroup 3, .onTrack 3 3, .seekFail 3, .wfClear 3 3,
      .pesWindow 3] :
      List Instr).all Instr.wf = true :=
  rfl

/-- Each term has every operand at the top of its range. -/
theorem test_wf_admits_2
    (q : Requester) (v : Word) (f : Bool) (cs : CoilSense) (de : DecodeEnd) (sn : BitVec 14) (rp : ReadPass) :
    ([
      .coupleWord 3 3 f f f, .snsSample 3 sn, .sensorFault 3, .rudderLoad q 3 v, .loadTimeout 3, .rudderUnload q 3 v, .rudderRetract q 3 v,
      .rudderClear q 3 v, .rudderCmdUnlisted q 3 v, .parkDetect 3 cs 0, .retractTimeout 3, .retractCurrentEnd 3, .coefLoad q 3 v,
      .coefLoadDone 3 f, .coefSwitch q 3 v, .coefSwitched 3 f, .tuneMode q 32 v, .tuneGo q 32 v, .tuneStop q 32 v, .tuneForce q 32 v,
      .traceDone 32, .sinePointEnd 32 0, .injectionEnd 32, .sectorRead 15 0x7ff rp, .sectorWrite 15 0x7ff, .zoneTableLoad q 15 v,
      .zoneTableDone 15 f, .laneDispatch 11 f, .decodeEnd 11 de, .sliceEnd 11 de, .reequalise 511 3, .ladderTimeout 511, .runAdmit 3,
      .gatePick 3 3, .runAge 3, .trackJobStart 15, .landingAck 15 0x7ff, .trackJobEnd 15, .runEnd 3, .relocTableLoad q 15 v] :
      List Instr).all Instr.wf = true :=
  rfl

/-- Each term has every operand at the top of its range. -/
theorem test_wf_admits_3
    (q : Requester) (v : Word) (f : Bool) (tm : TaskMgmtFrame) (ad : BitVec 64) (mp : MasterParity) (tr : TrainResult) (cf : CommandFrame)
    (bs : List (BitVec 8)) :
    ([
      .relocTableDone 15 f, .rtAdd q 15 v, .swArmWrite q 15 v, .ucodeRestoreDone 52 mp, .dramInit q 1 v tr, .initDone 1, .srEnter q 1 v,
      .selfRefresh 1, .srExit q 1 v, .mr4Poll 1 31 f, .xactDone 255 0, .dirtyReserve 0x1fff 0x4000, .bandDisableDone 0xfff, .stripeWrite 7,
      .stripeRead 7, .stripeRepair 7, .stripeDone 0x7ff, .journalSectorWrite 7, .rebuildStep 7 0xfff 1, .resyncStep 7 0xfff, .patrolStep 7,
      .reshapeStep 7, .lossOfSync 3, .linkResetRequest q 3 v, .linkUp 3 2 ad, .linkResetTimeout 3, .codewordUncorrectable 3 0 0 f,
      .frameAck 3, .frameNak 3, .ackNakTimeout 3, .openConnection 3 ad, .hardReset 3, .nexusLoss 63, .powerStateRequest 3 2,
      .commandFrame 3 63 cf, .xferRdy 0x1fff, .dataFrame 3 63 0 0 bs, .sendData 0x1fff, .sendResponse 0x1fff, .abortTask 3 63 tm] :
      List Instr).all Instr.wf = true :=
  rfl

/-- Each term has every operand at the top of its range. -/
theorem test_wf_admits_4
    (q : Requester) (v : Word) (f : Bool) (tm : TaskMgmtFrame) :
    ([
      .abortTaskSet 3 63 tm, .clearTaskSet 3 63 tm, .logicalUnitReset 3 63 tm, .iTNexusReset 3 63 tm, .queryTask 3 63 tm,
      .queryTaskSet 3 63 tm, .queryAsynchronousEvent 3 63 tm, .tmFunctionNotSupported 3 63 255 tm, .svcDataIn q 3 v, .svcDataOut q 3 v,
      .svcRespond q 3 v, .svcDone 3, .luDeleteDone 63, .reserveWrite q 5 v, .domainFault 19, .umpireWindowRead q 7 f f, .halted 52 0,
      .breakpoint 52 0] :
      List Instr).all Instr.wf = true :=
  rfl

/-! ### Witnesses of the hypotheses: helpers -/

/-- A running SH-4840 with every domain on, and these registers. -/
def live (rs : List (Nat × Word)) : State :=
  rs.foldl (fun s e => s.setReg e.1 e.2) (State.reset.setReg Reg.PWR.DOMAINS 0xFFFFF#32)

theorem reaches_of {req : Requester} {k : Nat} {s : State}
    (h : (s.chip.held.isNone && (pagePlace (k / 0x1000)).isSome && pagePresent s (k / 0x1000) && !mustHold req k s
      && pageOn s (k / 0x1000)) = true) : Reaches req k s := by
  unfold Reaches
  cases hp : pagePlace (k / 0x1000) <;> simp_all

theorem writes_of {req : Requester} {k : Nat} {s : State}
    (h : ((s.chip.held.isNone && (pagePlace (k / 0x1000)).isSome && pagePresent s (k / 0x1000) && !mustHold req k s
      && pageOn s (k / 0x1000)) && mayWrite req (k / 0x1000) (k % 0x1000) s && !(isRwl k && pageLocked (k / 0x1000) s)) = true) :
    Writes req k s := by
  rw [Bool.and_eq_true, Bool.and_eq_true] at h
  exact ⟨reaches_of h.1.1, h.1.2, by simpa only [Bool.not_eq_true'] using h.2⟩

theorem reads_of {req : Requester} {k : Nat} {s : State}
    (h : ((s.chip.held.isNone && (pagePlace (k / 0x1000)).isSome && pagePresent s (k / 0x1000) && !mustHold req k s
      && pageOn s (k / 0x1000)) && mayRead req (k / 0x1000) (k % 0x1000) s && !(k / 0x1000 == Page.KEYS && req != .cox)) = true) :
    ReadsOf req k s := by
  rw [Bool.and_eq_true, Bool.and_eq_true] at h
  exact ⟨reaches_of h.1.1, h.1.2, fun e => by simp [e.1, e.2] at h⟩

theorem some_of {α : Type} {o : Option α} (h : o.isSome = true) : o = some (o.get h) := (Option.some_get h).symm

theorem pair_of {α β : Type} {o : Option (α × β)} (h : o.isSome = true) : o = some ((o.get h).1, (o.get h).2) := (Option.some_get h).symm

theorem three_of {α β γ : Type} {o : Option (α × β × γ)} (h : o.isSome = true) : o = some ((o.get h).1, (o.get h).2.1, (o.get h).2.2) :=
  (Option.some_get h).symm

theorem triple_of {α β : Type} {p : α × Bool × β} (h : p.2.1 = true) : p = (p.1, true, p.2.2) := by rw [← h]

theorem cons_of {α : Type} {l : List α} (h : l ≠ []) : l = l.head h :: l.tail := (List.cons_head_tail h).symm

theorem part_of {α β : Type} {o : Option (α × β)} {b : β} (h : o.isSome = true) (hb : (o.get h).2 = b) : o = some ((o.get h).1, b) := by
  rw [← hb]
  exact (Option.some_get h).symm
/-- A message of source 0 with this severity. -/
def note0 (sev : Nat) : Msg := ⟨0, sev, 0, 0#32, 0#32, 0#32, 0, 7, false⟩

/-- A queue item of these words. -/
def item (ws : List Word) (level port : Nat) : QItem := ⟨ws, level, 0, port, false, false, false⟩

/-- `s` with this queue. -/
def withQ (q : QueueId) (x : HwQueue) (s : State) : State := { s with queues := SMap.set (fun _ => HwQueue.reset) s.queues (qIndex q) x }

/-- `s` at a later time. -/
def later (t : Nat) (s : State) : State := { s with time := t }

def ms20 : Nat := 20000000

/-- Both DRAM ports trained, with 1 GiB usable, every kind of engine committed, and these registers. -/
def ram (rs : List (Nat × Word)) : State :=
  { live ((Reg.DRAM.DRAM_STATUS 0, 1#32) :: (Reg.DRAM.DRAM_STATUS 1, 1#32) :: (Reg.BOAT.USABLE_LO, 0x40000000#32) :: rs) with
    ucode := { State.reset.ucode with done := [0, 1, 2, 3, 4] } }

/-- `ram` with a buffer transaction of this type in engine 0's queue. -/
def xactIn (ty : Nat) (w6 : Word) : State :=
  withQ (.xact 0) { HwQueue.reset with items := [item [word (ty * 256 + 7), 1#32, 0#32, 0#32, 64#32, 0#32, w6, w6] 0 1] }
    (ram [(Reg.CTRL Page.BOAT, 1#32), (Reg.UCODE.UC_STATE, 0xFF#32)])

/-- The debug level FULL, and these registers. -/
def full (rs : List (Nat × Word)) : State := live ((Reg.COX.SEC_STATUS, 2#32) :: rs)

/-- Oars, Gates, Crew, Slipway and Boathouse have their microcode; head 0 of actuator 0 is present; and these registers. -/
def drive (rs : List (Nat × Word)) : State :=
  { (ram ((Reg.UCODE.UC_STATE, 0xFF#32) :: (Reg.GATE.SLOT_AVAIL 0, 0xF#32) :: rs)).critPut 3 0xF#32 with
    pres := [(0, { PrePort.reset with mask := 0x3F })] }

/-- The words of a good run packet: READ, one sector, one block of 512 bytes, of member 0. -/
def runWords : List Word :=
  [0x10F#32, 0x100#32, 0#32, 0#32, 0#32, 0#32, 0#32, 0#32, 0x4000#32, 0#32, 0#32, 0#32, 0x0101#32, 0#32, 0#32, 0#32]

def aRun (words : List Word) (todo : List (Nat × Nat)) (aged ended : Nat) : Run :=
  ⟨0, words, 0x2C, 0, 0, aged, todo, ended, 0, none, false, false, false⟩

/-- An entry of a job table in this state, whose sector is no track job's. -/
def anEntry (state : Nat) : JobEntry :=
  { state := state, ty := 1, cause := 0, marked := false, wfCut := false, tag := 0, inJob := false, head := 0, zone := 0, track := 0, sector := 0
    body := runWords.drop 5, index := 0, mask := 1, home := (0, 0), spareTrack := 0, spareSector := 0, reading := 0, verify := false, crc := 0#32
    verifyFails := 0, taken := false, payload := [], stored := [], slot := none, credit := false, ready := 0, landing := none, inflight := none }

/-- A decoder slot in this state. -/
def aSlot (state kind rung : Nat) : DecSlot :=
  ⟨state, 0, 0, 0, 0, kind, false, false, rung, 0, 1, 0, 0, 0, 0, false, 0, none, 0, [], [], Decoder.fresh⟩

def withSlots (x : DecSlot) (s : State) : State := { s with sweep := { Sweep.reset with slots := [(0, some x)] } }

/-- Lane 0 up on port A, nexus 0 on it, and these parts of Slipway. -/
def host (x : Slip) (rs : List (Nat × Word)) : State :=
  { drive ((Reg.SLIP.LINK_STATUS 0, 4#32) :: (Reg.SLIPC.PORT_CFG, 3#32) :: rs) with
    slip := { x with nexuses := [(0, some ⟨1, 0, 0⟩)] } }

/-- A command frame with this CDB for logical unit 0. -/
def aFrame (cdb : List Byte) : CommandFrame := ⟨List.replicate 8 0#8, 0, 7, 0, 0, cdb⟩

/-- A host task with index 0 and tag 7 of nexus 0. -/
def aTask : HostTask := newTask State.reset 0 0 0 0 (aFrame [])

/-- An enabled logical unit 0 of 512-byte blocks on band 0, with 100 blocks. -/
def aLu : Lu := ⟨[0x101#32, 100#32, 0#32, 1#32, 0#32, 0#32], 1, [(0, 0)]⟩

/-- Slipway with logical unit 0 and this task. -/
def aSlip (ts : List HostTask) : Slip := { Slip.reset with lus := [(0, some aLu)], tasks := ts }

/-- The entry of logical unit 0 with its CRC, for one extent whose list stands at offset 128 of the usable DRAM. -/
def luWords : List Word :=
  [0x101#32, 100#32, 0#32, 1#32, 0x80#32, 0#32, 0#32, 0#32, 0#32, 0#32, 0#32, 0#32, 0#32, 0#32, 0#32, 0x11E4AE9C#32]

/-- The LU table's root is set at 4,096, its entry 0 is `luWords`, and band 0 holds 256 stripes. -/
def luReady : State :=
  { (drive []).critPut 10 0x1000#32 with
    mem := [(0x800001000, 1#8), (0x800001001, 1#8), (0x800001004, 100#8), (0x80000100C, 1#8), (0x800001010, 0x80#8), (0x80000103C, 0x9C#8),
      (0x80000103D, 0xAE#8), (0x80000103E, 0xE4#8), (0x80000103F, 0x11#8)]
    checks := [(64, 0x6400000031607e6f#64)]
    crew := { Crew.reset with bands := [(0, some ⟨[0x400#32, 0x100#32] ++ List.replicate 30 0#32, false, false, false⟩)] } }

/-- A zone table at 4,096 of the usable DRAM, with its CRC, and its load asked for. -/
def ztReady : State :=
  { drive [(Reg.OAR.ZT_CTRL 0, 1#32), (Reg.OAR.ZT_ADDR_LO 0, 0x1000#32)] with
    mem := [(0x800001000, 0xE1#8), (0x800001001, 0x70#8), (0x800001002, 0x2A#8), (0x800001003, 0x5E#8), (0x800001004, 0x1#8), (0x800001005, 0x1#8),
      (0x800001008, 0x40#8), (0x800001009, 0x30#8), (0x80000100C, 0xFF#8), (0x80000100D, 0xFF#8), (0x80000100E, 0xFF#8), (0x80000100F, 0xFF#8),
      (0x800001014, 0xB0#8), (0x800001015, 0x4#8), (0x800001018, 0xBC#8), (0x800001019, 0x2#8), (0x80000103C, 0x4C#8), (0x80000103D, 0xE3#8),
      (0x80000103E, 0x15#8), (0x80000103F, 0xFD#8)]
    checks := [(64, 6989586622753525251#64)] }

/-- A relocation table of no entries there, with its CRC, and its load asked for. -/
def rtReady : State :=
  { drive [(Reg.OAR.RT_CTRL 0, 1#32), (Reg.OAR.RT_ADDR_LO 0, 0x1000#32)] with
    mem := [(0x800001000, 0xE5#8), (0x800001001, 0xB1#8), (0x800001002, 0x7A#8), (0x800001003, 0x5E#8), (0x800001004, 0x1#8),
      (0x80000100C, 0x4C#8), (0x80000100D, 0x74#8), (0x80000100E, 0x83#8), (0x80000100F, 0x74#8)]
    checks := [(64, 5908722713789671061#64)] }

/-- An open band of these words. -/
def aBand (ws : List Word) : Band := ⟨ws, false, false, false⟩

/-- `drive` with Crew's command bit, these registers, and band 0 open. -/
def crewOf (rs : List (Nat × Word)) (c : Crew) : State := { drive ((Reg.CTRL (Page.CREW 0), 1#32) :: rs) with crew := c }

/-- A descriptor of one data position on head 0, one stripe from base 4, at 4,096 of the usable DRAM. -/
def descReady (c : Crew) : State :=
  { crewOf [(Reg.CREWG.RESHAPE_DESC_LO, 0x1000#32), (Reg.CREWG.BAND_TABLE_LO, 0x1000#32)] c with
    mem := [(0x800001000, 0x1#8), (0x800001001, 0x4#8), (0x800001004, 0x1#8), (0x800001019, 0x4#8), (0x80000107C, 0x75#8),
      (0x80000107D, 0x95#8), (0x80000107E, 0x55#8), (0x80000107F, 0xC2#8)]
    checks := [(64, 1152921506489561329#64), (65, 8142508127605788696#64)] }

/-- A stripe job of this kind, over. -/
def aJob (kind : Nat) : StripeJob :=
  { id := 7, kind := kind, words := [], band := 0, stripe := 0, port := 0xFE, cls := 0, engine := 0, holds := true, record := none
    journalled := false, rows := [], batch := [], phase := 0, ctxs := [], runs := [], got := [], made := [], failed := [], scratch := none
    status := 0, meansFailed := false, again := [] }

/-! #### Long tables in memory: one granule of header, and zeros after it -/

theorem crc_stays_zero (n : Nat) : (List.replicate n 0#8).foldl crc32cByte 0#32 = 0#32 := by
  induction n with
  | zero => rfl
  | succ n ih => rw [List.replicate_succ, List.foldl_cons, show crc32cByte 0#32 0#8 = 0#32 by decide, ih]

theorem check_no_flag (g : Nat) (d : List Byte) : (checkOf g d false).getLsbD 48 = false := by
  have h : ∀ (a b : Nat) (x : Byte), (BitVec.ofNat 64 (ofBytes (toBytes 4 a ++ toBytes 2 b ++ [0#8] ++ [x]))).getLsbD 48 = false := by
    intro a b x
    have e1 : ∀ n, (BitVec.ofNat 8 n).toNat = n % 256 := fun n => by simp
    simp only [toBytes, List.cons_append, List.nil_append, ofBytes, e1]
    rw [BitVec.getLsbD_ofNat]
    simp only [Nat.testBit, Nat.shiftRight_eq_div_pow, Nat.and_comm 1, Nat.and_one_is_mod]
    have := x.isLt
    simp
    omega
  exact h _ _ _

theorem bytes_back : ∀ l : List Byte, toBytes l.length (ofBytes l) = l
  | [] => rfl
  | b :: l => by
    have hb := b.isLt
    have e1 : BitVec.ofNat 8 (b.toNat + 256 * ofBytes l) = b := BitVec.eq_of_toNat_eq (by simp; omega)
    have e2 : (b.toNat + 256 * ofBytes l) / 256 = ofBytes l := by omega
    rw [List.length_cons, ofBytes, toBytes, e1, e2, bytes_back l]

theorem of_bytes_lt : ∀ l : List Byte, ofBytes l < 256 ^ l.length
  | [] => by decide
  | b :: l => by
    have hb := b.isLt
    have := of_bytes_lt l
    rw [List.length_cons, ofBytes, Nat.pow_succ]
    omega

/-- A granule whose check bytes were formed from its data passes the three checks (R82). -/
theorem gran_good {s : State} {g : Nat} {f : Bool} (h : granCheck s g = checkOf g (granData s g) f) : granValid s g = true := by
  have key : ∀ (a b : List Byte) (x : Byte), a.length = 4 → b.length = 2 →
      toBytes 8 (BitVec.ofNat 64 (ofBytes (a ++ b ++ [x] ++ [crc8 (a ++ b ++ [x])]))).toNat = a ++ b ++ [x] ++ [crc8 (a ++ b ++ [x])] := by
    intro a b x ha hb
    have hl : (a ++ b ++ [x] ++ [crc8 (a ++ b ++ [x])]).length = 8 := by simp [ha, hb]
    have h64 := of_bytes_lt (a ++ b ++ [x] ++ [crc8 (a ++ b ++ [x])])
    rw [hl] at h64
    rw [BitVec.toNat_ofNat, Nat.mod_eq_of_lt (by simpa using h64)]
    have h8 := bytes_back (a ++ b ++ [x] ++ [crc8 (a ++ b ++ [x])])
    rwa [hl] at h8
  have four : ∀ n, ∃ a b c d, toBytes 4 n = [a, b, c, d] := fun n => ⟨_, _, _, _, rfl⟩
  have two : ∀ n, ∃ a b, toBytes 2 n = [a, b] := fun n => ⟨_, _, rfl⟩
  simp only [granValid, h, checkOf]
  rw [key _ _ _ rfl rfl]
  obtain ⟨a, b, c, d, e4⟩ := four (crc32c (granData s g ++ toBytes 8 g)).toNat
  obtain ⟨x, y, e2⟩ := two (g / 8192 % 65536)
  simp [e4, e2]

theorem data_zero {s : State} {m : SMap Byte} (hm : s.mem = m) (k : Nat) (hk : m.all (fun e => decide (e.1 < dramBase + 64 * k)) = true)
    {g : Nat} (hg : k ≤ g) : granData s g = List.replicate 64 0#8 := by
  have key : ∀ (l : SMap Byte) a, l.all (fun e => decide (e.1 < a)) = true → SMap.get blankByte l a = 0#8 := by
    intro l
    induction l with
    | nil => intro a _; rfl
    | cons e l ih =>
      intro a h
      simp only [List.all_cons, Bool.and_eq_true, decide_eq_true_eq] at h
      simp only [SMap.get]
      rw [if_neg (by omega)]
      exact ih a (by simpa using h.2)
  rw [List.eq_replicate_iff]
  refine ⟨by simp [granData, State.bytesAt], fun b hbm => ?_⟩
  simp only [granData, State.bytesAt, List.mem_map, List.mem_range, State.byteAt] at hbm
  obtain ⟨i, _, rfl⟩ := hbm
  rw [hm]
  refine key m _ ?_
  simp only [List.all_eq_true, decide_eq_true_eq] at hk ⊢
  intro e he
  have := hk e he
  omega

theorem zero_gran (sole : Bool) (who : Nat) {m : SMap Byte} {k g : Nat} {s : State} {c : BitVec 64} (hm : s.mem = m) (hc : s.checks = [(64, c)])
    (hk : m.all (fun e => decide (e.1 < dramBase + 64 * k)) = true) (hu : s.boat.upsets = []) (hg : k ≤ g) (h64 : 64 < k) :
    readGranule sole who quiet g s = (⟨List.replicate 64 0#8, false⟩, 0, s.count (Reg.DRAM.RD_BEATS (granPort g)) 1) := by
  have hd : granData s g = List.replicate 64 0#8 := data_zero hm k hk hg
  have hx : granCheck s g = checkOf g (List.replicate 64 0#8) false := by
    rw [granCheck, hc, SMap.get, if_neg (by omega)]
    rfl
  have hf : granFlag s g = false := by rw [granFlag, hx]; exact check_no_flag ..
  have hv : granValid s g = true := gran_good (f := false) (by rw [hd]; exact hx)
  simp [readGranule, hd, hf, hv, quiet, hu]

theorem zero_grans (sole : Bool) (who : Nat) {m : SMap Byte} {k : Nat} {c : BitVec 64}
    (hk : m.all (fun e => decide (e.1 < dramBase + 64 * k)) = true) (h64 : 64 < k) : ∀ (n g : Nat) (s : State), s.mem = m → s.checks = [(64, c)] →
    s.boat.upsets = [] → k ≤ g → (readGranules sole who quiet g n s).1.flatMap Beat.data = List.replicate (64 * n) 0#8 ∧ (readGranules sole who quiet g n s).2.1 = 0
  | 0, _, _, _, _, _, _ => ⟨rfl, rfl⟩
  | n + 1, g, s, hm, hc, hu, hg => by
    have ih := zero_grans sole who hk h64 n (g + 1) (s.count (Reg.DRAM.RD_BEATS (granPort g)) 1) hm hc hu (by omega)
    have e : 64 * (n + 1) = 64 + 64 * n := by omega
    simp [readGranules, zero_gran sole who hm hc hk hu hg h64, ih, e, List.flatMap_cons, List.replicate_append_replicate, -List.reduceReplicate]

theorem words_zero (n : Nat) : bytesToWords (List.replicate (4 * n) 0#8) = List.replicate n 0#32 := by
  induction n with
  | zero => rfl
  | succ n ih =>
    show 0#32 :: bytesToWords (List.replicate (4 * n) 0#8) = _
    rw [ih]
    rfl

theorem bytes_zero (n : Nat) : (List.replicate n 0#32).flatMap (fun w => toBytes 4 w.toNat) = List.replicate (4 * n) 0#8 := by
  induction n with
  | zero => rfl
  | succ n ih =>
    rw [List.replicate_succ, List.flatMap_cons, ih]
    rfl

/-- The words fetched: the sixteen of the first granule, and zeros. -/
theorem fetch_zero (sole : Bool) (who : Nat) {m : SMap Byte} {c : BitVec 64} {s : State} {ws : List Word} (n : Nat) (hm : s.mem = m)
    (hc : s.checks = [(64, c)]) (hk : m.all (fun e => decide (e.1 < dramBase + 64 * 65)) = true)
    (h0 : (decide (c = checkOf 64 (granData s 64) false) && decide (granData s 64 = ws.flatMap fun w => toBytes 4 w.toNat)
      && decide (bytesToWords (granData s 64) = ws)) = true) (hl : (granData s 64).length = 64)
    (hu : s.boat.upsets = [] := by rfl) :
    (fetchWords sole who 4096 (16 * (n + 1)) s).1 = ws ++ List.replicate (16 * n) 0#32 ∧ (fetchWords sole who 4096 (16 * (n + 1)) s).2.1 = true := by
  simp only [Bool.and_eq_true, decide_eq_true_eq] at h0
  have hx : granCheck s 64 = checkOf 64 (granData s 64) false := by rw [granCheck, hc]; exact h0.1.1
  have hf : granFlag s 64 = false := by rw [granFlag, hx]; exact check_no_flag ..
  have hv : granValid s 64 = true := gran_good (f := false) hx
  have hr : readGranule sole who quiet 64 s = (⟨granData s 64, false⟩, 0, s.count (Reg.DRAM.RD_BEATS (granPort 64)) 1) := by
    simp [readGranule, hf, hv, quiet, hu]
  have hz := zero_grans sole who hk (by omega) n 65 (s.count (Reg.DRAM.RD_BEATS (granPort 64)) 1) hm hc hu (by omega)
  have hn : (4096 + 4 * (16 * (n + 1)) + 63) / 64 - 4096 / 64 = n + 1 := by omega
  have hg : (readGranules sole who quiet 64 (n + 1) s).1.flatMap Beat.data = granData s 64 ++ List.replicate (64 * n) 0#8
      ∧ (readGranules sole who quiet 64 (n + 1) s).2.1 = 0 := by
    simp [readGranules, hr, hz]
  have happ : ∀ (a : List Word) (b : List Byte), bytesToWords (a.flatMap (fun w => toBytes 4 w.toNat) ++ b) = a ++ bytesToWords b := by
    intro a b
    induction a with
    | nil => rfl
    | cons w a ih =>
      show word (ofBytes (toBytes 4 w.toNat)) :: bytesToWords (a.flatMap (fun w => toBytes 4 w.toNat) ++ b) = _
      rw [ih]
      congr 1
      have e1 : ∀ n, (BitVec.ofNat 8 n).toNat = n % 256 := fun n => by simp
      apply BitVec.eq_of_toNat_eq
      simp only [toBytes, ofBytes, e1, word]
      have := w.isLt
      simp
      omega
  have hfb : fetchBytes sole who 4096 (4 * (16 * (n + 1))) s =
      (granData s 64 ++ List.replicate (64 * n) 0#8, true, (fetchBytes sole who 4096 (4 * (16 * (n + 1))) s).2.2) := by
    simp only [fetchBytes, hn]
    rw [hg.1, hg.2]
    refine Prod.ext ?_ (Prod.ext rfl rfl)
    show (List.drop 0 _).take _ = _
    rw [List.drop_zero, List.take_of_length_le]
    simp [hl]
    omega
  rw [fetchWords, hfb]
  refine ⟨?_, rfl⟩
  show bytesToWords (granData s 64 ++ List.replicate (64 * n) 0#8) = _
  rw [h0.1.2, happ, show 64 * n = 4 * (16 * n) by omega, words_zero]

/-- Where the CRC register is 0 after the first granule, zeros leave it 0. -/
theorem crc_zeros (ws : List Word) (n : Nat) (h : (ws.flatMap fun w => toBytes 4 w.toNat).foldl crc32cByte 0xFFFFFFFF#32 = 0#32) :
    crcWords (ws ++ List.replicate (16 * n) 0#32) = 0xFFFFFFFF#32 := by
  rw [crcWords, crc32c, List.flatMap_append, bytes_zero, List.foldl_append, h, crc_stays_zero]
  rfl

def zoneHead : List Word :=
  [0x5E2A70E1#32, 0x101#32, 0x3040#32, 0xFFFFFFFF#32, 0#32, 1200#32, 700#32, 0#32, 0#32, 0#32, 0#32, 0#32, 0#32, 0#32, 0#32, 0xFD15E34C#32]

def coefHead : List Word :=
  [0x5E75C0EF#32, 1#32, 0#32, 0xFFFFFFFF#32, 0#32, 0#32, 0#32, 0#32, 0#32, 0#32, 0#32, 0#32, 0#32, 0#32, 0#32, 0x6576FF54#32]

/-- A coefficient set at 4,096 of the usable DRAM, with its CRC, and its load into Rudder 0 asked for. -/
def coefReady : State :=
  { drive [(Reg.RUDDER.COEF_CTRL 0, 1#32)] with
    mem := [(0x800001000, 0xEF#8), (0x800001001, 0xC0#8), (0x800001002, 0x75#8), (0x800001003, 0x5E#8), (0x800001004, 0x1#8), (0x80000100C, 0xFF#8),
      (0x80000100D, 0xFF#8), (0x80000100E, 0xFF#8), (0x80000100F, 0xFF#8), (0x80000103C, 0x54#8), (0x80000103D, 0xFF#8), (0x80000103E, 0x76#8),
      (0x80000103F, 0x65#8)]
    checks := [(64, 6989586622753525251#64)]
    rudders := [(0, { Rudder.reset with loadFrom := 0x1000 })] }

/-- `ztReady` with the buffer credit of the load taken. -/
def ztTaken : State := takeCredit (.load (Page.OAR 0)) ztReady

def coefTaken : State := takeCredit (.load (Page.RUDDER 0)) coefReady

theorem zone_good : zoneFault (fetchWords false 0x10 4096 0xC10 ztTaken).1 (fetchWords false 0x10 4096 0xC10 ztTaken).2.1 = none := by
  have h := fetch_zero (ws := zoneHead) false 0x10 192 (s := ztTaken) rfl rfl (by decide +kernel) (by decide +kernel) (by decide +kernel)
  rw [show 0xC10 = 16 * (192 + 1) from rfl, h.1, h.2]
  have e := crc_zeros (zoneHead.set 3 0#32) 192 (by decide +kernel)
  have hs : (zoneHead ++ List.replicate (16 * 192) 0#32).set 3 0#32 = zoneHead.set 3 0#32 ++ List.replicate (16 * 192) 0#32 := rfl
  simp only [zoneFault, hs, e]
  rfl

theorem coef_good : coefFault 0 (fetchWords true 0x08 4096 0x750 coefTaken).1 (fetchWords true 0x08 4096 0x750 coefTaken).2.1 coefTaken = none := by
  have h := fetch_zero (ws := coefHead) true 0x08 116 (s := coefTaken) rfl rfl (by decide +kernel) (by decide +kernel) (by decide +kernel)
  rw [show 0x750 = 16 * (116 + 1) from rfl, h.1, h.2]
  have e := crc_zeros (coefHead.set 3 0#32) 116 (by decide +kernel)
  have hs : (coefHead ++ List.replicate (16 * 116) 0#32).set 3 0#32 = coefHead.set 3 0#32 ++ List.replicate (16 * 116) 0#32 := rfl
  simp only [coefFault, hs, e]
  rfl

theorem zone_witness : ∃ r, fetchWords false (0x10 + 0) (ztReady.reg64 (Reg.OAR.ZT_ADDR_LO 0) % 0x10000000000 / 64 * 64) 0xC10
    (takeCredit (.load (Page.OAR 0)) ztReady) = r ∧ zoneFault r.1 r.2.1 = none := by
  rw [show ztReady.reg64 (Reg.OAR.ZT_ADDR_LO 0) % 0x10000000000 / 64 * 64 = 4096 by decide +kernel]
  exact ⟨fetchWords false 0x10 4096 0xC10 ztTaken, by rw [ztTaken], zone_good⟩

theorem coef_witness : ∃ u, u = takeCredit (.load (Page.RUDDER 0)) coefReady ∧ ∃ x, x = fetchWords true (Requester.code (.rudder (BitVec.ofNat
    2 0).toFin)) (rud u 0).loadFrom 0x750 u ∧ coefFault 0 x.1 x.2.1 u = none := by
  refine ⟨coefTaken, rfl, _, rfl, ?_⟩
  rw [show Requester.code (.rudder (BitVec.ofNat 2 0).toFin) = 0x08 by decide +kernel, show (rud coefTaken 0).loadFrom = 4096 by decide +kernel]
  exact coef_good

/-! #### A journal area in DRAM that nothing has written -/

theorem no_records {s : State} (h : s.mem = []) : dramRecords s = [] := by
  have w : ∀ a, s.wordAt a = 0#32 := by
    intro a
    have b : ∀ a, s.byteAt a = 0#8 := fun a => by rw [State.byteAt, h]; rfl
    simp [State.wordAt, State.bytesAt, b, List.range_succ, ofBytes, word]
  rw [dramRecords, List.filter_eq_nil_iff]
  intro r hr
  obtain ⟨i, _, rfl⟩ := List.mem_map.mp hr
  simp [w]

/-! #### A full hazard list -/

theorem get_const {α : Type} (d : Nat → α) (x : α) (l : List Nat) {k : Nat} (h : k ∈ l) : SMap.get d (l.map fun e => (e, x)) k = x := by
  induction l with
  | nil => cases h
  | cons e l ih =>
    rw [List.map_cons, SMap.get]
    by_cases c : k = e
    · rw [if_pos c]
    · rw [if_neg c]
      exact ih ((List.mem_cons.mp h).resolve_left c)

/-- Every entry of the hazard list is taken. -/
def hazMap : SMap (Option HazEntry) := (List.range 4096).map fun e => (e, some ⟨0, true, false, true, 0, 0, 1, 0, true⟩)

def hazReady (m : SMap (Option HazEntry)) : State := { drive [] with slip := { Slip.reset with haz := m } }

theorem haz_taken : hazFree (hostDrain (hazReady hazMap)) = none := by
  have e : ∀ m, slipAlive (hazReady m) = true → (hostDrain (hazReady m)).slip.haz = m := by
    intro m h
    rw [hostDrain, if_neg (by rw [h]; decide)]
    rfl
  rw [hazFree, List.find?_eq_none]
  intro k hk
  have g : hazEntry (hostDrain (hazReady hazMap)) k = some ⟨0, true, false, true, 0, 0, 1, 0, true⟩ := by
    rw [hazEntry, e _ (by decide +kernel), hazMap]
    exact get_const _ _ _ hk
  rw [g]
  decide

/-- The header up to the hash of a container of type 4 (the recovery image), whose payload is the byte 7. -/
def conFront : List Byte :=
  [0xA1#8, 0xC0#8, 0xEB#8, 0x5E#8, 1#8, 0#8, 4#8, 0#8, 0#8, 2#8, 0#8, 0#8, 0#8, 0#8, 0#8, 0#8, 1#8, 0#8, 0#8, 0#8] ++ List.replicate 4 0#8
    ++ [0#8, 0#8, 0#8, 0x11#8] ++ List.replicate 20 0#8

/-- The header after the hash, and the payload. -/
def conBack : List Byte := List.replicate 416 0#8 ++ [7#8]

/-- That container with this hash of its payload. -/
def aContainer (d : List Byte) : List Byte := conFront ++ ((List.range 48).map (fun i => d.getD i 0#8) ++ conBack)

/-- In recovery, with the hash of a key of zeros as the first owner's. -/
def inRecovery : State :=
  { State.reset with
    chip := { State.reset.chip with held := none, recovery := true }
    otp := { State.reset.otp with ownerHash := [(0, some (Config.sha384 (List.replicate 96 0#8)))], serial := 0 } }

/-- The command a step takes has a next state. -/
def gives (o : Host.Outcome State Fault Refusal) : Option State := match o with
  | .next t => some t
  | _ => none

theorem next_of {o : Host.Outcome State Fault Refusal} (h : (gives o).isSome = true) : o = .next ((gives o).get h) := by
  cases o with
  | next t => rfl
  | fault f => cases h
  | refused r => cases h

theorem front_bytes (d : List Byte) (o n : Nat) (h : o + n ≤ 48) : conBytes (aContainer d) o n = conBytes conFront o n := by
  have e : conFront.length = 48 := rfl
  rw [conBytes, aContainer, List.drop_append_of_le_length (by omega), List.take_append_of_le_length (by simp [e]; omega)]
  rfl

theorem back_bytes (d : List Byte) (o n : Nat) (h : 96 ≤ o) : conBytes (aContainer d) o n = conBytes conBack (o - 96) n := by
  have e : conFront.length = 48 := rfl
  rw [conBytes, aContainer, List.drop_append, List.drop_eq_nil_of_le (by omega), List.nil_append, List.drop_append,
    List.drop_eq_nil_of_le (by simp [e]; omega), List.nil_append, List.length_map, List.length_range, e, conBytes,
    show o - 48 - 48 = o - 96 by omega]

theorem hash_bytes (d : List Byte) : conBytes (aContainer d) 0x30 48 = (List.range 48).map fun i => d.getD i 0#8 := by
  show List.take 48 (List.drop conFront.length (conFront ++ _)) = _
  rw [List.drop_left, List.take_left' (by simp)]

theorem front_field (d : List Byte) (o n : Nat) (h : o + n ≤ 48) : conField (aContainer d) o n = conField conFront o n :=
  congrArg ofBytes (front_bytes d o n h)

/-- The spec states no value of the hash or of the signature scheme, so that the container is good is shown under what they must answer: a hash
of 48 bytes, and a signature that holds. -/
theorem container_good (h : Config.sha384 [7#8] = (List.range 48).map fun i => (Config.sha384 [7#8]).getD i 0#8)
    (hs : ∀ k m, Config.ecdsaHolds k m (conBytes (aContainer (Config.sha384 [7#8])) 0x1A0 96) = true) :
    conCheck [4] inRecovery (aContainer (Config.sha384 [7#8])) = 0 := by
  have hl : (aContainer (Config.sha384 [7#8])).length = 513 := by
    rw [aContainer, List.length_append, List.length_append, List.length_map, List.length_range, conBack, List.length_append, List.length_replicate,
      show conFront.length = 48 from rfl, List.length_singleton]
  have t : conType (aContainer (Config.sha384 [7#8])) = 4 := front_field _ 6 2 (by decide)
  have n : conLen (aContainer (Config.sha384 [7#8])) = 1 := front_field _ 0x10 4 (by decide)
  have ld : conLoad (aContainer (Config.sha384 [7#8])) = 0x11000000 := front_field _ 0x18 8 (by decide)
  have pl : conPayload (aContainer (Config.sha384 [7#8])) = [7#8] := by rw [conPayload, n, back_bytes _ _ _ (by decide)]; rfl
  have h1 : conLimits [4] (aContainer (Config.sha384 [7#8])) = true := by simp [conLimits, t, n, ld, hl]
  have h2 : conShape (aContainer (Config.sha384 [7#8])) = true := by
    rw [conShape, front_field _ 0 4 (by decide), front_field _ 4 2 (by decide), front_field _ 8 4 (by decide), front_field _ 0xC 4 (by decide), conZero,
      conZero, conZero, front_bytes _ 0x2D 3 (by decide), back_bytes _ 0x6C 4 (by decide), back_bytes _ 0xE8 184 (by decide)]
    decide +kernel
  have h3 : conSigner inRecovery (aContainer (Config.sha384 [7#8])) = true := by
    have o : liveOwners inRecovery = [Config.sha384 (List.replicate 96 0#8)] := rfl
    have k : conBytes (aContainer (Config.sha384 [7#8])) 0x80 96 = List.replicate 96 0#8 := by rw [back_bytes _ _ _ (by decide)]; rfl
    simp [conSigner, t, o, k]
  have h4 : conField (aContainer (Config.sha384 [7#8])) 0xE0 8 = 0 := by
    rw [conField, show List.take 8 (List.drop 0xE0 (aContainer (Config.sha384 [7#8]))) = _ from back_bytes _ _ _ (by decide)]; decide +kernel
  have h5 : otpRollback inRecovery = 0 := rfl
  have en : conEncrypted (aContainer (Config.sha384 [7#8])) = false := by rw [conEncrypted, front_field _ 0xC 4 (by decide)]; decide
  have hh : Config.sha384 [7#8] = conBytes (aContainer (Config.sha384 [7#8])) 0x30 48 := (hash_bytes _).symm ▸ h
  simp [conCheck, h1, h2, h3, h4, h5, hs, pl, ← hh, conOpen, en]

/-! ### Witnesses of the hypotheses -/

theorem test_witness_EmptyQueueTicks :
    (∃ (s : State), s.pending = [] ∧ s.bus.held = [] ∧ s.clocks.transit = [])
    ∧ (∃ (s : State), ∃ (d : Nat), ∃ (e : Nat), s.pending = [] ∧ s.bus.held = [] ∧ s.clocks.transit = [(d, some e)] ∧ d ≠ 6 ∧ e ≤ s.time + 1)
    ∧ (∃ (s : State), ∃ (h : HeldAccess), ∃ k, ∃ v, s.pending = [] ∧ s.clocks.transit = [] ∧ s.bus.held = [h] ∧ addrKey h.addr = some k ∧ h.op =
        .write v ∧ h.after = false ∧ pageWaits k s = false ∧ s.chip.held = none) :=
  ⟨⟨live [], by decide +kernel⟩,
    ⟨{ live [] with clocks := ⟨[], [], none, [(9, some 1)]⟩ }, 9, 1, by decide +kernel⟩,
    ⟨{ live [] with
      bus := ⟨0#32, false, [], [], [⟨.cox, keyAddr 0x10008, .write 1#32, false, 0, {}⟩], []⟩, time := 0 }, ⟨.cox, keyAddr 0x10008, .write 1#32,
        false, 0, {}⟩, 0x10008, 1#32, by decide +kernel⟩⟩

theorem test_witness_CommandsTakenInOrder :
    ∃ (s : State), ∃ (t : State), ∃ (c : Instr), ∃ (rest : List Instr), s.pending = c :: rest ∧ step s = .next t :=
  ⟨{ live [] with pending := [.supplyWarn 0 0] }, _, .supplyWarn 0 0, [], by decide +kernel, next_of (by decide +kernel)⟩

theorem test_witness_FrameOfEveryCommand : ∃ (c : Instr) (s t : State), exec c s = .next t :=
  ⟨.supplyWarn 0 0, live [], _, next_of (by decide +kernel)⟩

theorem test_witness_RegistersOfOwnPage :
    ∃ (c : Instr), ∃ (p : Nat), regsPage c = some p :=
  ⟨.refGlitch, Page.CLK, by decide +kernel⟩

theorem test_witness_StepKeepsCanonical :
    ∃ (s : State), ∃ (t : State), Canonical s ∧ step s = .next t :=
  ⟨{ live [] with pending := [.supplyWarn 0 0] }, _, ⟨by decide +kernel, by decide +kernel⟩, next_of (by decide +kernel)⟩

theorem test_witness_MisalignedAccess :
    (∃ (s : State), ∃ a, ∃ k, ∃ (width : AccessWidth), addrKey a = some k ∧ pagePlace (k / 0x1000) ≠ none ∧ (¬ (width = .word ∧ a.toNat % 4 = 0))
        ∧ pageOn s Page.SYS = true)
    ∧ (∃ (s : State), ∃ a, ∃ k, ∃ (width : AccessWidth), addrKey a = some k ∧ pagePlace (k / 0x1000) ≠ none ∧ (¬ (width = .word ∧ a.toNat % 4 =
        0)) ∧ pageOn s Page.SYS = true) :=
  ⟨⟨live [], keyAddr 0x1002, 0x1002, .word, by decide +kernel⟩,
    ⟨live [], keyAddr 0x1002, 0x1002, .word, by decide +kernel⟩⟩

theorem test_witness_RefusedAccesses :
    (∃ (s : State), ∃ k, k < 0x20000000 ∧ k % 4 = 0 ∧ s.chip.held = none ∧ pagePlace (k / 0x1000) = none)
    ∧ (∃ (s : State), ∃ req, ∃ k, k < 0x20000000 ∧ k % 4 = 0 ∧ s.chip.held = none ∧ pagePlace (k / 0x1000) ≠ none ∧ pagePresent s (k / 0x1000) =
        true ∧ mustHold req k s = false ∧ pageOn s (k / 0x1000) = false)
    ∧ (∃ (s : State), ∃ req, ∃ k, k < 0x20000000 ∧ k % 4 = 0 ∧ s.chip.held = none ∧ pagePlace (k / 0x1000) ≠ none ∧ pagePresent s (k / 0x1000) =
        true ∧ mustHold req k s = false ∧ pageOn s (k / 0x1000) = true ∧ mayRead req (k / 0x1000) (k % 0x1000) s = true ∧ mayWrite req (k /
        0x1000) (k % 0x1000) s = false)
    ∧ (∃ (s : State), ∃ req, ∃ k, k < 0x20000000 ∧ k % 4 = 0 ∧ s.chip.held = none ∧ pagePlace (k / 0x1000) ≠ none ∧ pagePresent s (k / 0x1000) =
        true ∧ mustHold req k s = false ∧ pageOn s (k / 0x1000) = true ∧ mayRead req (k / 0x1000) (k % 0x1000) s = false)
    ∧ (∃ (s : State), ∃ req, ∃ k, k < 0x20000000 ∧ k % 4 = 0 ∧ s.chip.held = none ∧ pagePlace (k / 0x1000) ≠ none ∧ pagePresent s (k / 0x1000) =
        true ∧ mustHold req k s = false ∧ pageOn s (k / 0x1000) = true ∧ mayRead req (k / 0x1000) (k % 0x1000) s = true ∧ mayWrite req (k /
        0x1000) (k % 0x1000) s = true ∧ isRwl k = true ∧ pageLocked (k / 0x1000) s = true)
    ∧ (∃ a, ∃ k, addrKey a = some k ∧ pagePlace (k / 0x1000) ≠ none ∧ a.toNat % 4 ≠ 0)
    ∧ (∃ (s : State), ∃ req, ∃ a, ∃ wr, ∃ h, overdue req a wr s = some h ∧ ((s.bus.held.erase h).any fun x => x.req == req) = false)
    ∧ (∃ (s : State), ∃ req, ∃ a, ∃ wr, overdue req a wr s = none) :=
  ⟨⟨live [], 0x6000, by decide +kernel⟩,
    ⟨(live []).setReg Reg.PWR.DOMAINS 1#32, .cox, 0x10008, by decide +kernel⟩,
    ⟨live [], .keel, 0x10008, by decide +kernel⟩,
    ⟨live [], .debugPort, 0x10008, by decide +kernel⟩,
    ⟨live [(Reg.LOCK Page.SYS, 1#32)], .cox, Reg.SYS.RESET_CFG, by decide +kernel⟩,
    ⟨keyAddr 0x1002, 0x1002, by decide +kernel⟩,
    ⟨{ live [] with
      bus := ⟨0#32, false, [], [], [⟨.cox, keyAddr 0x10008, .write 1#32, false, 0, {}⟩], []⟩, time := 50000 }, .cox, keyAddr 0x10008, true, _,
        some_of (by decide +kernel), by decide +kernel⟩,
    ⟨live [], .cox, keyAddr 0x10008, true, by decide +kernel⟩⟩

theorem test_witness_AccessRecord :
    (∃ (s : State), ∃ req, ∃ (a : Addr), ∃ wr, ∃ kind, (1 ≤ kind ∧ kind ≤ 6 ∧ pageOn s Page.SYS = true) ∧ ∃ t, t = refuseAccess req a wr kind s)
    ∧ (∃ (s : State), ∃ req, ∃ (a : Addr), ∃ wr, ∃ kind, (1 ≤ kind ∧ kind ≤ 6 ∧ pageOn s Page.SYS = true) ∧ ∃ t, t = refuseAccess req a wr kind s
        ∧ s.bit (Reg.EV_ENABLE Page.SYS) kind = true)
    ∧ (∃ (s : State), ∃ req, ∃ (a : Addr), ∃ wr, ∃ kind, (1 ≤ kind ∧ kind ≤ 6 ∧ pageOn s Page.SYS = true) ∧ ∃ t, t = refuseAccess req a wr kind s
        ∧ s.bit (Reg.EV_ENABLE Page.SYS) kind = true ∧ 0x20000000 ≤ a.toNat ∧ a.toNat < 0x30000000)
    ∧ (∃ (s : State), ∃ req, ∃ (a : Addr), ∃ wr, ∃ kind, (1 ≤ kind ∧ kind ≤ 6 ∧ pageOn s Page.SYS = true) ∧ ∃ t, t = refuseAccess req a wr kind s
        ∧ s.bit (Reg.EV_ENABLE Page.SYS) kind = true ∧ (a.toNat < 0x20000000 ∨ 0x40000000 ≤ a.toNat))
    ∧ (∃ (s : State), ∃ req, ∃ (a : Addr), ∃ wr, ∃ kind, (1 ≤ kind ∧ kind ≤ 6 ∧ pageOn s Page.SYS = true) ∧ ∃ t, t = refuseAccess req a wr kind s
        ∧ s.bit (Reg.EV_ENABLE Page.SYS) kind = false) :=
  ⟨⟨live [], .cox, keyAddr 0x1002, true, 6, by decide +kernel, _, rfl⟩,
    ⟨live [], .cox, keyAddr 0x1002, true, 1, by decide +kernel, _, rfl, by decide +kernel⟩,
    ⟨live [], .cox, keyAddr 0xFFFFFFF, true, 6, by decide +kernel, _, rfl, by decide +kernel⟩,
    ⟨live [], .cox, 0x40000000#40, true, 1, by decide +kernel, _, rfl, by decide +kernel⟩,
    ⟨live [(Reg.EV_ENABLE Page.SYS, 0#32)], .cox, keyAddr 0x1002, true, 6, by decide +kernel, _, rfl, by decide +kernel⟩⟩

theorem test_witness_EventOccurrence :
    (∃ (s : State), ∃ p, ∃ k, ∃ sev, ∃ code, ∃ pl, k < 32 ∧ ∃ t, t = raise p k sev code pl s ∧ pageOn s p = true ∧ k < (pageEvents p).2)
    ∧ (∃ (s : State), ∃ p, ∃ k, ∃ sev, ∃ code, ∃ pl, k < 32 ∧ ∃ t, t = raise p k sev code pl s ∧ (pageOn s p = true ∧ k < (pageEvents p).2) ∧ ∃
        j, j < 32 ∧ j ≠ k)
    ∧ (∃ (s : State), ∃ p, ∃ k, ∃ sev, ∃ code, ∃ pl, k < 32 ∧ ∃ t, t = raise p k sev code pl s ∧ pageOn s p = true ∧ k < (pageEvents p).2 ∧
        (s.bit (Reg.EV_ENABLE p) k = true ∨ sev = 4))
    ∧ (∃ (s : State), ∃ p, ∃ k, ∃ sev, ∃ code, ∃ pl, k < 32 ∧ ∃ t, t = raise p k sev code pl s ∧ pageOn s p = true ∧ k < (pageEvents p).2 ∧ s.bit
        (Reg.EV_ENABLE p) k = false ∧ sev ≠ 4)
    ∧ (∃ (s : State), ∃ p, ∃ k, ∃ sev, ∃ code, ∃ pl, k < 32 ∧ ∃ t, t = raise p k sev code pl s ∧ (pageOn s p = false ∨ (pageEvents p).2 ≤ k)) :=
  ⟨⟨live [], Page.SYS, 15, 3, 65536, {}, by decide +kernel, _, rfl, by decide +kernel⟩,
    ⟨live [], Page.SYS, 15, 3, 65536, {}, by decide +kernel, _, rfl, by decide +kernel, 0, by decide +kernel⟩,
    ⟨live [], Page.SYS, 0, 3, 65536, {}, by decide +kernel, _, rfl, by decide +kernel⟩,
    ⟨live [(Reg.EV_ENABLE Page.SYS, 0#32)], Page.SYS, 1, 3, 65536, {}, by decide +kernel, _, rfl, by decide +kernel⟩,
    ⟨live [], Page.SYS, 16, 3, 65536, {}, by decide +kernel, _, rfl, by decide +kernel⟩⟩

theorem test_witness_FaultCodeLayout :
    (∃ (s : State), ∃ p, ∃ k, ∃ code, ∃ pl, (k < 32 ∧ p < 0x99 ∧ s.bit (Reg.FAULT_CODE p) 31 = false) ∧ ∃ t, t = lasting p k code pl s)
    ∧ (∃ (s : State), ∃ p, ∃ k, ∃ code, (k < 32 ∧ p < 0x99 ∧ s.bit (Reg.FAULT_CODE p) 31 = false) ∧ ∃ rs, ∃ t, t = enterCheck p (sourceOf p k)
        code rs s) :=
  ⟨⟨live [], 0x98, 31, 65536, {}, by decide +kernel, _, rfl⟩,
    ⟨live [], 0x98, 31, 65536, by decide +kernel, [], _, rfl⟩⟩

theorem test_witness_LastingError :
    (∃ (s : State), ∃ p, ∃ k, ∃ code, ∃ pl, k < 32 ∧ ∃ t, t = lasting p k code pl s ∧ s.bit (Reg.FAULT_CODE p) 31 = false)
    ∧ (∃ (s : State), ∃ p, ∃ k, ∃ code, ∃ pl, k < 32 ∧ ∃ t, t = lasting p k code pl s ∧ s.bit (Reg.FAULT_CODE p) 31 = true)
    ∧ (∃ (s : State), ∃ p, ∃ k, ∃ code, ∃ pl, k < 32 ∧ ∃ t, t = lasting p k code pl s ∧ s.bit (Reg.CTRL p) 2 = true)
    ∧ (∃ (s : State), ∃ p, ∃ k, ∃ code, ∃ pl, k < 32 ∧ ∃ t, t = lasting p k code pl s ∧ s.bit (Reg.CTRL p) 2 = false)
    ∧ (∃ (s : State), ∃ p, ∃ k, ∃ code, ∃ pl, k < 32 ∧ ∃ t, t = lasting p k code pl s ∧ pageOn s p = true ∧ k < (pageEvents p).2 ∧ s.bit
        (Reg.EV_ENABLE p) k = true) :=
  ⟨⟨live [], Page.KEEL, 31, 1, {}, by decide +kernel, _, rfl, by decide +kernel⟩,
    ⟨live [(Reg.FAULT_CODE Page.KEEL, 0x80000000#32)], Page.KEEL, 31, 1, {}, by decide +kernel, _, rfl, by decide +kernel⟩,
    ⟨live [(Reg.CTRL Page.KEEL, 4#32)], Page.KEEL, 31, 1, {}, by decide +kernel, _, rfl, by decide +kernel⟩,
    ⟨live [], Page.KEEL, 31, 1, {}, by decide +kernel, _, rfl, by decide +kernel⟩,
    ⟨live [], Page.KEEL, 31, 1, {}, by decide +kernel, _, rfl, by decide +kernel⟩⟩

theorem test_witness_BootSelectWords :
    (∃ (s : State), ∃ req, ∃ k, ∃ n, (k < 0x20000000 ∧ k % 4 = 0 ∧ critWordOf k = some n ∧ (n = 23 ∨ n = 24)) ∧ Reaches req k s ∧ isRwl k = false
        ∧ req ≠ .cox)
    ∧ (∃ (s : State), ∃ req, ∃ k, ∃ n, (k < 0x20000000 ∧ k % 4 = 0 ∧ critWordOf k = some n ∧ (n = 23 ∨ n = 24)) ∧ Reaches req k s ∧ isRwl k =
        false ∧ req = .cox) :=
  ⟨⟨live [], .keel, Reg.CRIT.WORD 23, 23, by decide +kernel, reaches_of (by decide +kernel), by decide +kernel⟩,
    ⟨live [], .cox, Reg.KEYS.SEL_HI, 24, by decide +kernel, reaches_of (by decide +kernel), by decide +kernel⟩⟩

theorem test_witness_CriticalVote :
    ∃ (s : State), ∃ req, ∃ (a : Addr), ∃ k, ∃ n, ∃ w, ∃ i, ∃ j, (addrKey a = some k ∧ critWordOf k = some n ∧ n ∉ s.crit.bad) ∧ ReadsOf req k s
        ∧ pageOn s Page.CRIT = true ∧ i < 3 ∧ j < 3 ∧ i ≠ j ∧ (s.crit.copy i).get n = w ∧ (s.crit.copy j).get n = w :=
  ⟨{ live [] with crit := { (live []).crit with b := (live []).crit.b.put 5 7#32 } }, .cox, keyAddr (Reg.CRIT.WORD 5), Reg.CRIT.WORD 5, 5, 0#32,
      0, 2, by decide +kernel, reads_of (by decide +kernel), by decide +kernel⟩

theorem test_witness_QueueOrder :
    (∃ (x : HwQueue), x.flush = none ∧ x.resetting = none)
    ∧ (∃ (s : State), ∃ q, ∃ l, ∃ it, ∃ r, queueAlive s q = true ∧ (hq s q).taken = none ∧ (hq s q).flush = none ∧ (hq s q).resetting = none ∧
        (hq s q).items = l ++ it :: r ∧ ((∀ y ∈ l, y.level < it.level)) ∧ ((∀ y ∈ r, y.level ≤ it.level))) :=
  ⟨⟨HwQueue.reset, by decide +kernel⟩,
    ⟨withQ .intake { HwQueue.reset with items := [item [0#32] 1 1, item [0#32] 2 1, item [0#32] 2 2] } (live []), .intake, [item [0#32] 1 1],
        item [0#32] 2 1, [item [0#32] 2 2], by decide +kernel⟩⟩

theorem test_witness_SmallPart :
    (∃ (s : State), ∃ d, s.part4820 = true ∧ (d = 11 ∨ d = 12))
    ∧ (∃ (s : State), ∃ p, ∃ off, s.part4820 = true ∧ pageOn4840Only p = true ∧ off < 0x1000 ∧ off % 4 = 0 ∧ s.chip.held = none)
    ∧ (∃ (s : State), ∃ p, s.part4820 = true ∧ pageOn4840Only p = true)
    ∧ (∃ (s : State), ∃ req, ReadsOf req Reg.SYS.CEIL_SECTOR s) :=
  ⟨⟨{ live [] with part4820 := true }, 12, by decide +kernel⟩,
    ⟨{ live [] with part4820 := true }, 0x08B, 0xFFC, by decide +kernel⟩,
    ⟨{ live [] with part4820 := true }, 0x022, by decide +kernel⟩,
    ⟨{ live [] with part4820 := true }, .cox, reads_of (by decide +kernel)⟩⟩

theorem test_witness_MemoryReadsBack :
    (∃ (bs : List Byte), ∃ (i : Nat), ∃ (b : Byte), bs[i]? = some b)
    ∧ (∃ (a : Nat), ∃ (bs : List Byte), ∃ j, (j < a ∨ a + bs.length ≤ j))
    ∧ (∃ (s : State), Memory.wf s.mem = true) :=
  ⟨⟨[1#8], 0, 1#8, by decide +kernel⟩,
    ⟨5, [1#8], 6, by decide +kernel⟩,
    ⟨live [], by decide +kernel⟩⟩

theorem test_witness_MachineCheckOnce :
    (∃ (s : State), ∃ p, inMachineCheck s p = true)
    ∧ (∃ (s : State), ∃ p, ∃ source, ∃ code, ∃ rs, (p < 0x99 ∧ p ≠ Page.SYS ∧ pageOn s Page.SYS = true) ∧ ∃ t, t = enterCheck p source code rs s) :=
  ⟨⟨live [(Reg.STATUS Page.KEEL, 8#32)], Page.KEEL, by decide +kernel⟩,
    ⟨live [], 0x98, 0, 0, [], by decide +kernel, _, rfl⟩⟩

theorem test_witness_ClaimsAndReleases :
    (∃ (s : State), ∃ req, ∃ v, Writes req Reg.CLAIM.CLAIM_REQ s ∧ bit v 16 = false ∧ pageLocked Page.CLAIM s = false ∧ s.bit
        (Reg.CLAIM.CLAIM_STATE (fld v 2 0)) 31 = false ∧ mayClaim (fld v 2 0) (fld v 9 8) (Requester.code req) s = true)
    ∧ (∃ (s : State), ∃ r1, ∃ v1, ∃ r2, ∃ v2, Writes r1 Reg.CLAIM.CLAIM_REQ s ∧ Writes r2 Reg.CLAIM.CLAIM_REQ s ∧ (bit v1 16 = false ∧ bit v2 16
        = false ∧ pageLocked Page.CLAIM s = false ∧ fld v1 2 0 = fld v2 2 0 ∧ s.bit (Reg.CLAIM.CLAIM_STATE (fld v1 2 0)) 31 = false ∧ mayClaim
        (fld v1 2 0) (fld v1 9 8) (Requester.code r1) s = true ∧ mayClaim (fld v2 2 0) (fld v2 9 8) (Requester.code r2) s = true ∧ claimRank (r1,
        v1) < claimRank (r2, v2)) ∧ ∃ l, (l = [(r1, v1), (r2, v2)] ∨ l = [(r2, v2), (r1, v1)]))
    ∧ (∃ (s : State), ∃ req, ∃ v, Writes req Reg.CLAIM.CLAIM_REQ s ∧ bit v 16 = true ∧ pageLocked Page.CLAIM s = false ∧ s.bit
        (Reg.CLAIM.CLAIM_STATE (fld v 2 0)) 31 = true ∧ s.fld (Reg.CLAIM.CLAIM_STATE (fld v 2 0)) 5 0 = Requester.code req) :=
  ⟨⟨live [], .stroke 0, 0x102#32, writes_of (by decide +kernel), by decide +kernel⟩,
    ⟨live [], .stroke 3, 0x100#32, .stroke 0, 0x200#32, writes_of (by decide +kernel), writes_of (by decide +kernel), by decide +kernel,
        [(.stroke 0, 0x200#32), (.stroke 3, 0x100#32)], by decide +kernel⟩,
    ⟨live [(Reg.CLAIM.CLAIM_STATE 1, 0x80000001#32)], .cox, 0x10001#32, writes_of (by decide +kernel), by decide +kernel⟩⟩

theorem test_witness_LocksAndEnables :
    (∃ (s : State), ∃ req, ∃ page, ∃ v, Writes req (Reg.LOCK page) s ∧ bit v 0 = true ∧ pageLocked page s = false)
    ∧ (∃ (s : State), ∃ req, ∃ page, ∃ v, Writes req (Reg.LOCK page) s ∧ (bit v 0 = false ∨ pageLocked page s = true))
    ∧ (∃ (s : State), ∃ req, ∃ page, ∃ v, Writes req (Reg.CTRL page) s ∧ bit v 0 = false ∧ bit v 1 = false ∧ s.bit (Reg.CTRL page) 1 = false)
    ∧ (∃ (s : State), ∃ req, ∃ page, ∃ v, Writes req (Reg.CTRL page) s ∧ bit v 0 = false ∧ bit v 1 = false ∧ s.bit (Reg.CTRL page) 1 = true) :=
  ⟨⟨live [], .cox, Page.CLAIM, 1#32, writes_of (by decide +kernel), by decide +kernel⟩,
    ⟨live [], .cox, Page.SYS, 0#32, writes_of (by decide +kernel), by decide +kernel⟩,
    ⟨live [], .cox, Page.CLAIM, 4#32, writes_of (by decide +kernel), by decide +kernel⟩,
    ⟨live [(Reg.CTRL Page.KEEL, 2#32)], .cox, Page.KEEL, 0#32, writes_of (by decide +kernel), by decide +kernel⟩⟩

theorem test_witness_ClocksAndWatchdogs :
    (∃ (s : State), ∃ i, 1 ≤ i ∧ i ≤ 25 ∧ domainOn s (islandDomain i) = true ∧ islandStopped s i = false)
    ∧ (∃ (s : State), ∃ i, ∃ u, (SMap.get (fun _ => none) s.clocks.stopped i = some u) ∧ u + 50000 ≤ s.time ∧ (SMap.get (fun _ => false)
        s.clocks.failed i = false))
    ∧ (∃ (s : State), ((∀ t, s.clocks.lastGlitch = some t → t + 1000000000 ≤ s.time)))
    ∧ (∃ (s : State), ∃ u, s.clocks.lastGlitch = some u ∧ s.time < u + 1000000000)
    ∧ (∃ (s : State), ∃ req, ∃ core, core < 4 ∧ Writes req (Reg.STROKE.SOFT_IRQ core) s)
    ∧ (∃ (s : State), ∃ core, core < 4 ∧ pageOn s (Page.STROKE core) = true)
    ∧ (∃ (s : State), ∃ req, ∃ core, core < 4 ∧ Writes req (Reg.STROKE.WDT_CFG core) s)
    ∧ (∃ (s : State), ∃ req, ∃ core, core < 4 ∧ Writes req (Reg.STROKE.WDT_KICK core) s)
    ∧ (∃ (s : State), ∃ core, core < 4 ∧ blockAlive s (Page.STROKE core) = true ∧ s.fld (Reg.STROKE.WDT_CFG core) 15 0 ≠ 0 ∧ engineHalted s (2 + core) = false ∧ (stroke s core).wdtStart + s.fld (Reg.STROKE.WDT_CFG core) 15 0 * 1000000 ≤ s.time) :=
  ⟨⟨live [], 25, by decide +kernel⟩,
    ⟨{ live [] with time := 50000, clocks := ⟨[(2, some 0)], [], none, []⟩ }, 2, _, some_of (by decide +kernel), by decide +kernel⟩,
    ⟨live [], fun _ h => by cases h⟩,
    ⟨{ live [] with clocks := ⟨[], [], some 0, []⟩ }, _, some_of (by decide +kernel), by decide +kernel⟩,
    ⟨live [], .cox, 3, by decide +kernel, writes_of (by decide +kernel)⟩,
    ⟨live [], 3, by decide +kernel⟩,
    ⟨live [], .cox, 3, by decide +kernel, writes_of (by decide +kernel)⟩,
    ⟨live [], .cox, 3, by decide +kernel, writes_of (by decide +kernel)⟩,
    ⟨later 1000000 (live [(Reg.STROKE.WDT_CFG 3, 1#32)]), 3, by decide +kernel⟩⟩

theorem test_witness_BusCommands :
    (∃ (s : State), ∃ req, ∃ p, Writes req (Reg.EV_ENABLE p) s ∧ p < 0x1000)
    ∧ (∃ (s : State), ∃ req, ∃ p, Writes req (Reg.EV_PEND p) s ∧ p < 0x1000)
    ∧ (∃ (s : State), ∃ req, ∃ k, (k < 0x20000000 ∧ k % 4 = 0) ∧ ReadsOf req k s ∧ critWordOf k = none ∧ readsFree (k / 0x1000) (k % 0x1000) s =
        none ∧ oscillatorAt (k / 0x1000) (k % 0x1000) s = false ∧ isLowWord k = true)
    ∧ (∃ (s : State), ∃ req, ∃ k, (k < 0x20000000 ∧ k % 4 = 0) ∧ ReadsOf req k s ∧ (critWordOf k = none ∧ readsFree (k / 0x1000) (k % 0x1000) s =
        none ∧ oscillatorAt (k / 0x1000) (k % 0x1000) s = false ∧ isLowWord k = false ∧ isHighWord k = true) ∧ ∃ w, latched req k s = some w)
    ∧ (∃ (s : State), ∃ req, ∃ addr, ∃ write, ∃ h, overdue req addr write s = some h ∧ ((s.bus.held.erase h).any fun x => x.req
        == req) = false)
    ∧ (∃ (s : State), ∃ req, ∃ page, ∃ core, ∃ v, fenceCore page = some core ∧ Writes req (regKey page 0x040) s ∧ bit v 0 = true ∧
        s.bus.stalled.contains core = false ∧ s.bus.held.any (unacked core) = true)
    ∧ (∃ (s : State), ∃ core, s.bus.stalled.contains core = true ∧ s.bus.held.any (unacked core) = false)
    ∧ (∃ (s : State), ∃ i, ∃ u, (SMap.get (fun _ => none) s.clocks.stopped i = some u) ∧ (SMap.get (fun _ => false) s.clocks.failed i = false) ∧
        s.time ≤ u + 50000 ∧ s.bus.held = [])
    ∧ (∃ (s : State), ∃ i, ∃ u, (SMap.get (fun _ => none) s.clocks.stopped i = some u) ∧ (SMap.get (fun _ => false) s.clocks.failed i = false) ∧
        u + 50000 < s.time) :=
  ⟨⟨live [], .cox, Page.UCODE, writes_of (by decide +kernel), by decide +kernel⟩,
    ⟨live [], .cox, 0, writes_of (by decide +kernel), by decide +kernel⟩,
    ⟨live [], .cox, Reg.SYS.ERR_ADDR_LO, by decide +kernel, reads_of (by decide +kernel), by decide +kernel⟩,
    ⟨{ live [] with bus := ⟨0#32, false, [(latchKey .cox Reg.SYS.ERR_ADDR_HI, some 1#32)], [], [], []⟩ }, .cox, Reg.SYS.ERR_ADDR_HI, by
        decide +kernel, reads_of (by decide +kernel), by decide +kernel, _, some_of (by decide +kernel)⟩,
    ⟨{ live [] with
      bus := ⟨0#32, false, [], [], [⟨.cox, keyAddr 0x10008, .write 1#32, false, 0, {}⟩], []⟩, time := 50000 }, .cox, keyAddr 0x10008, true, _,
        some_of (by decide +kernel), by decide +kernel⟩,
    ⟨{ live [] with
      bus := ⟨0#32, false, [], [], [⟨.cox, keyAddr 0x11008, .write 1#32, false, 0, {}⟩], []⟩, time := 0 }, .cox, Page.COX, .cox, 1#32, by
        decide +kernel, writes_of (by decide +kernel), by decide +kernel⟩,
    ⟨{ live [] with bus := ⟨0#32, false, [], [], [], [.cox]⟩, time := 0 }, .cox, by decide +kernel⟩,
    ⟨{ live [] with clocks := ⟨[(2, some 0)], [], none, []⟩, time := 50000 }, 2, _, some_of (by decide +kernel), by decide +kernel⟩,
    ⟨{ live [] with clocks := ⟨[(2, some 0)], [], none, []⟩, time := 50001 }, 2, _, some_of (by decide +kernel), by decide +kernel⟩⟩

theorem test_witness_EventsAndCriticalWords :
    (∃ (s : State), ∃ m, nextMsg s.fabric = some m ∧ (m.aon = true ∨ domainOn s 6 = false) ∧ s.ump.fifo.length < 64)
    ∧ (∃ (s : State), ∃ i, ∃ m, nextMsg s.fabric = some m ∧ ByFabric m s ∧ m.severity ≠ 1 ∧ m.severity ≠ 4 ∧ m.notTo ≠ i ∧ routeTarget (s.fld
        (evsrcKey m.source) 2 0) = some i ∧ (target s i).normal.length < 128 ∧ s.ump.fifo.length < 64)
    ∧ (∃ (s : State), ∃ i, ∃ m, nextMsg s.fabric = some m ∧ ByFabric m s ∧ m.severity = 4 ∧ m.notTo ≠ i ∧ ((i = 4 ∨ i = 5)) ∧ routeTarget (s.fld
        (evsrcKey m.source) 2 0) = none ∧ (target s i).machine.length < 8)
    ∧ (∃ (s : State), ∃ m, nextMsg s.fabric = some m ∧ ByFabric m s ∧ m.severity = 1 ∧ leakedNow m.source s = none ∧ s.fld (evsrcKey m.source) 31
        24 < s.fld (evsrcKey m.source) 15 8 ∧ s.ump.fifo.length < 64)
    ∧ (∃ (s : State), ∃ m, nextMsg s.fabric = some m ∧ ByFabric m s ∧ m.severity = 1 ∧ leakedNow m.source s = none ∧ s.fld (evsrcKey m.source) 15
        8 ≤ s.fld (evsrcKey m.source) 31 24 ∧ recorded 1 (s.fld (evsrcKey m.source) 5 4) = false)
    ∧ (∃ (s : State), ∃ i, i < 1152 ∧ domainOn s 6 = true ∧ s.time % (2 ^ s.fld (evsrcKey i) 19 16 * 1000000) = 0 ∧ leakedNow i s = none)
    ∧ (∃ (s : State), ∃ req, ∃ i, ∃ v, i < 6 ∧ Writes req (popKey i) s ∧ bit v 0 = true)
    ∧ (∃ (s : State), ∃ req, ∃ p, Writes req (Reg.EV_FORCE p) s)
    ∧ (∃ (s : State), ∃ req, ∃ addr, ∃ k, ∃ n, ∃ us, (addrKey addr = some k ∧ critWordOf k = some n) ∧ ReadsOf req k (strikeAll us s) ∧ n ∉
        s.crit.bad ∧ ∃ w, critVote (strikeAll us s).crit n = some w)
    ∧ (∃ (s : State), ∃ req, ∃ addr, ∃ k, ∃ n, (addrKey addr = some k ∧ critWordOf k = some n) ∧ Writes req k s ∧ n ∉ [0, 1, 2, 3, 4, 5, 6, 7, 8,
        9, 17, 18, 19, 20, 21, 22, 27])
    ∧ (∃ (s : State), ∃ us, (strikeAll us s).bit Reg.CRIT.SWEEP_CTRL 0 = true ∧ s.time % 1000000 = 0) :=
  ⟨⟨{ (live []).setReg Reg.PWR.DOMAINS 1#32 with fabric := [note0 2] }, _, some_of (by decide +kernel), by decide +kernel⟩,
    ⟨{ live [] with fabric := [note0 2] }, 0, _, some_of (by decide +kernel), ⟨by decide +kernel, by decide +kernel, by decide +kernel⟩, by
        decide +kernel⟩,
    ⟨{ live [(evsrcKey 0, 0#32)] with fabric := [note0 4] }, 5, _, some_of (by decide +kernel), ⟨by decide +kernel, by decide +kernel, by
        decide +kernel⟩, by decide +kernel⟩,
    ⟨{ live [(evsrcKey 0, 0xFFFF00#32)] with fabric := [note0 1] }, _, some_of (by decide +kernel), ⟨by decide +kernel, by decide +kernel, by
        decide +kernel⟩, by decide +kernel⟩,
    ⟨{ live [(evsrcKey 0, 0xFF000000#32)] with fabric := [note0 1] }, _, some_of (by decide +kernel), ⟨by decide +kernel, by decide +kernel, by
        decide +kernel⟩, by decide +kernel⟩,
    ⟨live [], 1151, by decide +kernel⟩,
    ⟨live [], .cox, 5, 1#32, by decide +kernel, writes_of (by decide +kernel), by decide +kernel⟩,
    ⟨live [], .cox, Page.KEEL, writes_of (by decide +kernel)⟩,
    ⟨live [], .cox, keyAddr (Reg.CRIT.WORD 5), Reg.CRIT.WORD 5, 5, [⟨0, 5, 1#32, 0#32, 0#32⟩], by decide +kernel, reads_of (by decide +kernel),
        by decide +kernel, _, some_of (by decide +kernel)⟩,
    ⟨live [], .cox, keyAddr (Reg.CRIT.WORD 10), Reg.CRIT.WORD 10, 10, by decide +kernel, writes_of (by decide +kernel), by decide +kernel⟩,
    ⟨live [(Reg.CRIT.SWEEP_CTRL, 1#32)], [], by decide +kernel⟩⟩

theorem test_witness_ResetsAndBoot_1 :
    (∃ (s : State), ∃ ms, 10 ≤ ms ∧ awaitsPower s = true ∧ s.chip.railTries ≠ 2)
    ∧ (∃ (s : State), ∃ pc, pc < 90 ∧ awaitsPower s = true ∧ s.chip.railTries ≠ 2)
    ∧ (∃ (s : State), ∃ ns, 5000 ≤ ns ∧ s.chip.held = none)
    ∧ (∃ (s : State), ∃ ns, 10000 ≤ ns ∧ s.chip.held = none)
    ∧ (∃ (s : State), s.chip.held = some 5)
    ∧ (∃ (s : State), s.chip.held = some 6)
    ∧ (∃ (s : State), ∃ mv, mv < 8500 ∧ s.chip.held = none ∧ pwrFailing s = true)
    ∧ (∃ (s : State), ∃ v12, ∃ v5, ∃ ms, ((s.chip.held = some 2 ∨ (s.chip.held = none ∧ pwrFailing s = true ∧ s.chip.dumped = true ∧ s.safe.dump
        = none))) ∧ s.fld Reg.PWR.SUPPLY_CFG 15 0 + 600 ≤ v12 ∧ s.fld Reg.PWR.SUPPLY_CFG2 15 0 + 100 ≤ v5 ∧ 10 ≤ ms)
    ∧ (∃ (s : State), ∃ req, ∃ v, Writes req Reg.SYS.DEV_RESET s ∧ bit v 0 = true ∧ mayReset req s = true ∧ fld v 31 16 = 0x5E7D ∧ ((bit v 1 =
        true ∨ noDirty s = true)))
    ∧ (∃ (s : State), ∃ ns, 1000 ≤ ns ∧ s.chip.held = none)
    ∧ (∃ (s : State), ∃ ns, 100 ≤ ns ∧ ns < 1000 ∧ s.chip.held = none)
    ∧ (∃ (s : State), ∃ bytes, s.chip.held = none ∧ s.chip.recovery = true ∧ conCheck [4] s bytes ≠ 0)
    ∧ (∃ (s : State), ∃ req, ∃ p, ∃ v, Writes req (Reg.CTRL p) s ∧ bit v 1 = true ∧ s.bit (Reg.CTRL p) 1 = false ∧ p ≠ Page.SAFE)
    ∧ (∃ (s : State), ∃ req, ∃ v, Writes req (Reg.CTRL Page.SAFE) s ∧ bit v 1 = true ∧ s.bit (Reg.CTRL Page.SAFE) 1 = false)
    ∧ (∃ (s : State), ∃ p, p ≠ Page.CACHE ∧ s.bit (Reg.CTRL p) 1 = true)
    ∧ (∃ (s : State), s.bit (Reg.CTRL Page.CACHE) 1 = true) :=
  ⟨⟨{ live [] with chip := { (live []).chip with held := some 1 } }, 10, by decide +kernel⟩,
    ⟨{ live [] with chip := { (live []).chip with held := some 1 } }, 89, by decide +kernel⟩,
    ⟨live [], 5000, by decide +kernel⟩,
    ⟨live [], 10000, by decide +kernel⟩,
    ⟨{ live [] with chip := { (live []).chip with held := some 5 } }, by decide +kernel⟩,
    ⟨{ live [] with chip := { (live []).chip with held := some 6 } }, by decide +kernel⟩,
    ⟨live [(Reg.PWR.PWR_STATUS, 1#32)], 8499, by decide +kernel⟩,
    ⟨{ live [] with chip := { (live []).chip with held := some 2 } }, 11400, 4900, 10, by decide +kernel⟩,
    ⟨live [], .cox, 0x5E7D0003#32, writes_of (by decide +kernel), by decide +kernel⟩,
    ⟨live [], 1000, by decide +kernel⟩,
    ⟨live [], 100, by decide +kernel⟩,
    ⟨{ live [] with chip := { (live []).chip with recovery := true } }, [], by decide +kernel⟩,
    ⟨live [], .cox, Page.KEEL, 2#32, writes_of (by decide +kernel), by decide +kernel⟩,
    ⟨live [], .cox, 2#32, writes_of (by decide +kernel), by decide +kernel⟩,
    ⟨live [(Reg.CTRL Page.KEEL, 2#32)], Page.KEEL, by decide +kernel⟩,
    ⟨live [(Reg.CTRL Page.CACHE, 2#32)], by decide +kernel⟩⟩

theorem test_witness_ResetsAndBoot_2 :
    (∃ (s : State), ∃ e, ∃ a, ∃ (x : MicroFetch), engineUp s e = true ∧ ∃ code, microCode s e a x = some code)
    ∧ (∃ (s : State), ∃ e, ∃ a, ∃ (x : MicroFetch), engineUp s e = true ∧ microCode s e a x = none)
    ∧ (∃ (s : State), ∃ e, engineUp s e = true ∧ engineHalted s e = false) :=
  ⟨⟨live [], 0x10, 0x4200, ⟨0#130, false, 0⟩, by decide +kernel, _, some_of (by decide +kernel)⟩,
    ⟨live [], 0x10, 0x4000, ⟨0#130, false, 0⟩, by decide +kernel⟩,
    ⟨live [], 0x10, by decide +kernel⟩⟩

/-- The clause of a container that passes its checks: under what the hash and the signature scheme must answer. -/
theorem test_witness_container : ∃ (s : State), ∃ bytes, s.chip.held = none ∧ s.chip.recovery = true
    ∧ (Config.sha384 [7#8] = (List.range 48).map (fun i => (Config.sha384 [7#8]).getD i 0#8) →
      (∀ k m, Config.ecdsaHolds k m (conBytes (aContainer (Config.sha384 [7#8])) 0x1A0 96) = true) → conCheck [4] s bytes = 0) :=
  ⟨inRecovery, aContainer (Config.sha384 [7#8]), rfl, rfl, container_good⟩

theorem test_witness_MicrocodeStore :
    (∃ (s : State), ∃ req, Writes req (Reg.UCODE.UC_DATA 3) s ∧ ucCommitted s (ucKind s) = false)
    ∧ (∃ (s : State), ∃ req, ∃ v, Writes req Reg.UCODE.UC_CTRL s ∧ bit v 0 = true ∧ ucCommitted s (ucKind s) = false)
    ∧ (∃ (s : State), ∃ c, ∃ (p : MasterParity), s.ucode.restoring.contains c = true ∧ p ≠ .lasting)
    ∧ (∃ (s : State), ∃ c, s.ucode.restoring.contains c = true) :=
  ⟨⟨live [], .cox, writes_of (by decide +kernel), by decide +kernel⟩,
    ⟨live [], .cox, 1#32, writes_of (by decide +kernel), by decide +kernel⟩,
    ⟨{ live [] with ucode := { (live []).ucode with restoring := [0x10] } }, 0x10, .good, by decide +kernel⟩,
    ⟨{ live [] with ucode := { (live []).ucode with restoring := [0x10] } }, 0x10, by decide +kernel⟩⟩

theorem test_witness_QueueCommands :
    (∃ (s : State), ∃ q, ∃ port, ∃ ws, (queueAlive s q = true ∧ (qPort s q port).words = [] ∧ (qPort s q port).full = false ∧ ws.length = pktLen
        ws ∧ pushStatus s q = .taken) ∧ ((∀ e, q = .xact e → xactCode e.val ws s = none)))
    ∧ (∃ (s : State), ∃ q, ∃ port, ∃ ws, queueAlive s q = true ∧ (qPort s q port).words = [] ∧ (qPort s q port).full = false ∧ ws.length = pktLen
        ws ∧ (pushStatus s q = .full ∨ pushStatus s q = .busy))
    ∧ (∃ (s : State), ∃ q, ∃ port, ∃ ws, queueAlive s q = true ∧ (qPort s q port).words = [] ∧ (qPort s q port).full = false ∧ ws.length = pktLen
        ws ∧ pushStatus s q = .fault)
    ∧ (∃ (s : State), ∃ q, (queueAlive s q = true ∧ (hq s q).taken = none) ∧ ∃ it, qHead (hq s q) = some it)
    ∧ (∃ (s : State), ∃ q, (queueAlive s q = true ∧ (hq s q).taken = none) ∧ ∃ it, ∃ u, qTake q s = some (it, u))
    ∧ (∃ (s : State), ∃ q, queueAlive s q = true)
    ∧ (∃ (s : State), ∃ req, ∃ q, ∃ v, Writes req (qReg q 0x0C) s ∧ bit v 0 = true ∧ (hq s q).flush = none)
    ∧ (∃ (s : State), ∃ q, queueAlive s q = true ∧ ∃ ports, (hq s q).flush = some ports ∧ ((hq s q).again = [] ∧ ∀ o, q ≠ .oarJob o) ∧ ((∀ it ∈ (hq s q).items, it.marked = false)) ∧ ((∀ e ∈
        (hq s q).ports, e.2.marked = false ∧ e.2.full = false)))
    ∧ (∃ (s : State), ∃ q, queueAlive s q = true ∧ ∃ ports, (hq s q).flush = some ports ∧ (((hq s q).ports.any fun e => e.2.marked && portPartial
        e.2) = false))
    ∧ (∃ (s : State), ∃ q, queueAlive s q = true ∧ (hq s q).resetting = none ∧ (hq s q).fault = false ∧ (hq s q).mismatchOpen = false)
    ∧ (∃ (s : State), ∃ q, (hq s q).resetting.isSome = true ∧ (hq s q).fault = false)
    ∧ (∃ (s : State), ∃ req, ∃ q, ∃ v, Writes req (qReg q 0x24) s ∧ (bit v 0 = true ∧ bit v 1 = false ∧ pushStatus s q = .taken) ∧ ∃ ws, ws =
        (List.range (fld (winWord s q (Requester.code req) 0) 3 0 + 1)).map (winWord s q (Requester.code req)) ∧ ((∀ e, q = .xact e → xactCode
        e.val ws s = none)))
    ∧ (∃ (s : State), ∃ req, ∃ q, ∃ v, Writes req (qReg q 0x24) s ∧ (bit v 0 = false ∧ bit v 1 = true) ∧ ∃ it, ∃ u, qTake q (busOk 0#32 s) = some
        (it, u))
    ∧ (∃ (s : State), ∃ req, ∃ q, ∃ v, Writes req (qReg q 0x24) s ∧ bit v 0 = false ∧ bit v 1 = true ∧ qTake q (busOk 0#32 s) = none) :=
  ⟨⟨drive [], .gate 0, 0x2C, runWords, by decide +kernel, fun _ h => by cases h⟩,
    ⟨withQ (.gate 0) { HwQueue.reset with resetting := some 0 } (drive []), .gate 0, 0x2C, runWords, by decide +kernel⟩,
    ⟨withQ (.gate 0) { HwQueue.reset with fault := true } (drive []), .gate 0, 0x2C, runWords, by decide +kernel⟩,
    ⟨withQ .intake { HwQueue.reset with items := [item [0#32] 1 1, item [0#32] 2 1, item [0#32] 2 2] } (live []), .intake, by decide +kernel, _,
        some_of (by decide +kernel)⟩,
    ⟨withQ .intake { HwQueue.reset with items := [item [0#32] 1 1, item [0#32] 2 1, item [0#32] 2 2] } (live []), .intake, by decide +kernel, _,
        _, pair_of (by decide +kernel)⟩,
    ⟨withQ .intake { HwQueue.reset with items := [item [0#32] 1 1, item [0#32] 2 1, item [0#32] 2 2] } (live []), .intake, by decide +kernel⟩,
    ⟨withQ .intake { HwQueue.reset with items := [item [0#32] 1 1, item [0#32] 2 1, item [0#32] 2 2] } (live []), .cox, .intake, 1#32, writes_of
        (by decide +kernel), by decide +kernel⟩,
    ⟨withQ .intake { HwQueue.reset with flush := some [1] } (live []), .intake, by decide +kernel, _, some_of (by decide +kernel), ⟨by
        decide +kernel, fun _ h => by cases h⟩, by decide +kernel⟩,
    ⟨withQ .intake { HwQueue.reset with flush := some [1], items := [{ item [0#32] 0 1 with marked := true }] } (live []), .intake, by
        decide +kernel, _, some_of (by decide +kernel), by decide +kernel⟩,
    ⟨withQ .intake { HwQueue.reset with items := [item [0#32] 1 1, item [0#32] 2 1, item [0#32] 2 2] } (live []), .intake, by decide +kernel⟩,
    ⟨withQ .intake { HwQueue.reset with resetting := some 0 } (live []), .intake, by decide +kernel⟩,
    ⟨live [], .cox, .gate 0, 1#32, writes_of (by decide +kernel), by decide +kernel, _, rfl, by decide +kernel⟩,
    ⟨withQ .intake { HwQueue.reset with items := [item [0#32] 1 1, item [0#32] 2 1, item [0#32] 2 2] } (live []), .cox, .intake, 2#32, writes_of
        (by decide +kernel), by decide +kernel, _, _, pair_of (by decide +kernel)⟩,
    ⟨live [], .cox, .intake, 2#32, writes_of (by decide +kernel), by decide +kernel⟩⟩

theorem test_witness_TuningCommands :
    (∃ (s : State), ∃ req, ∃ p, ∃ v, Writes req (Reg.TUNE.TR_CTRL p) s ∧ isTunePage p = true ∧ bit v 8 = false ∧ bit v 9 = false ∧ bit v 10 =
        false ∧ trBusy s p = false ∧ ((fld v 1 0 = 1 ∨ fld v 1 0 = 2)) ∧ holds req (tuneResource p) (fld v 1 0) s = true)
    ∧ (∃ (s : State), ∃ req, ∃ p, ∃ v, Writes req (Reg.TUNE.TR_CTRL p) s ∧ isTunePage p = true ∧ bit v 8 = false ∧ bit v 9 = false ∧ bit v 10 =
        false ∧ trBusy s p = false ∧ ((fld v 1 0 = 0 ∨ fld v 1 0 = 3)))
    ∧ (∃ (s : State), ∃ req, ∃ p, ∃ v, Writes req (Reg.TUNE.TR_CTRL p) s ∧ isTunePage p = true ∧ bit v 8 = true ∧ bit v 9 = false ∧ bit v 10 =
        false ∧ trBusy s p = false ∧ fld v 1 0 = 1 ∧ holds req (tuneResource p) 1 s = true)
    ∧ (∃ (s : State), ∃ req, ∃ p, ∃ v, Writes req (Reg.TUNE.TR_CTRL p) s ∧ isTunePage p = true ∧ bit v 8 = true ∧ bit v 9 = false ∧ bit v 10 =
        false ∧ trBusy s p = false ∧ fld v 1 0 = 2 ∧ holds req (tuneResource p) 2 s = true)
    ∧ (∃ (s : State), ∃ req, ∃ p, ∃ v, Writes req (Reg.TUNE.TR_CTRL p) s ∧ isTunePage p = true ∧ bit v 8 = false ∧ bit v 9 = true ∧ bit v 10 =
        false ∧ trBusy s p = true)
    ∧ (∃ (s : State), ∃ req, ∃ p, ∃ v, Writes req (Reg.TUNE.TR_CTRL p) s ∧ isTunePage p = true ∧ bit v 8 = false ∧ bit v 9 = false ∧ bit v 10 =
        true ∧ trMode s p = 1 ∧ trState s p = 1 ∧ trPre s p ≤ (tune s p).records ∧ (tune s p).trigger = none)
    ∧ (∃ (s : State), ∃ p, isTunePage p = true ∧ blockAlive s p = true ∧ trMode s p = 1 ∧ trState s p = 2 ∧ (tune s p).left = 0)
    ∧ (∃ (s : State), ∃ p, ∃ n, injecting s p = true ∧ sineOver s p = true ∧ n = sinePoint s p)
    ∧ (∃ (s : State), ∃ p, injecting s p = true ∧ injWave s p ≠ 0 ∧ (((tune s p).start + s.fld (Reg.TUNE.INJ_TIME p) 15 0 * 1000000 ≤ s.time ∨
        trDepth s p ≤ (tune s p).records))) :=
  ⟨⟨live [(Reg.CLAIM.CLAIM_STATE 6, 0x80000102#32)], .stroke 0, Page.KEEL, 1#32, writes_of (by decide +kernel), by decide +kernel⟩,
    ⟨live [], .cox, Page.KEEL, 3#32, writes_of (by decide +kernel), by decide +kernel⟩,
    ⟨live [(Reg.CLAIM.CLAIM_STATE 6, 0x80000102#32)], .stroke 0, Page.KEEL, 0x101#32, writes_of (by decide +kernel), by decide +kernel⟩,
    ⟨live [(Reg.CLAIM.CLAIM_STATE 6, 0x80000202#32)], .stroke 0, Page.KEEL, 0x102#32, writes_of (by decide +kernel), by decide +kernel⟩,
    ⟨live [(Reg.TUNE.TR_STATUS Page.KEEL, 2#32)], .cox, Page.KEEL, 0x200#32, writes_of (by decide +kernel), by decide +kernel⟩,
    ⟨live [(Reg.TUNE.TR_CTRL Page.KEEL, 1#32), (Reg.TUNE.TR_STATUS Page.KEEL, 1#32)], .cox, Page.KEEL, 0x400#32, writes_of (by decide +kernel),
        by decide +kernel⟩,
    ⟨live [(Reg.TUNE.TR_CTRL Page.KEEL, 1#32), (Reg.TUNE.TR_STATUS Page.KEEL, 2#32)], Page.KEEL, by decide +kernel⟩,
    ⟨{ live [(Reg.TUNE.TR_CTRL Page.KEEL, 2#32), (Reg.TUNE.TR_STATUS Page.KEEL, 1#32)] with time := 0 }, Page.KEEL, 0, by decide +kernel⟩,
    ⟨later 70000000000 (live [(Reg.TUNE.TR_CTRL Page.KEEL, 2#32), (Reg.TUNE.TR_STATUS Page.KEEL, 1#32), (Reg.TUNE.INJ_CFG Page.KEEL, 0x100#32)]),
        Page.KEEL, by decide +kernel⟩⟩

theorem test_witness_DramAndScrub :
    (∃ (s : State), ∃ req, ∃ n, ∃ v, ∃ (r : TrainResult), n < 2 ∧ Writes req (Reg.DRAM.DRAM_CMD n) s ∧ bit v 0 = true ∧ bit v 1 = false ∧ bit v 2
        = false ∧ dramTrained s n = false ∧ s.bit (Reg.DRAM.DRAM_STATUS n) 2 = false ∧ r.first = true ∧ r.capacity ∈ [4, 6, 8, 12, 16])
    ∧ (∃ (s : State), ∃ req, ∃ n, ∃ v, ∃ (r : TrainResult), n < 2 ∧ Writes req (Reg.DRAM.DRAM_CMD n) s ∧ bit v 0 = true ∧ bit v 1 = false ∧ bit v
        2 = false ∧ dramTrained s n = false ∧ s.bit (Reg.DRAM.DRAM_STATUS n) 2 = false ∧ r.first = false ∧ r.second = false ∧ r.capacity ∈ [4, 6, 8,
        12, 16])
    ∧ (∃ (s : State), ∃ req, ∃ n, ∃ v, ∃ (r : TrainResult), n < 2 ∧ Writes req (Reg.DRAM.DRAM_CMD n) s ∧ bit v 0 = true ∧ bit v 1 = false ∧ bit v
        2 = false ∧ dramTrained s n = false ∧ s.bit (Reg.DRAM.DRAM_STATUS n) 2 = false ∧ r.capacity ∉ [4, 6, 8, 12, 16])
    ∧ (∃ (s : State), ∃ n, n < 2 ∧ blockAlive s (Page.DRAM n) = true ∧ s.bit (Reg.DRAM.DRAM_STATUS n) 2 = true)
    ∧ (∃ (s : State), ∃ req, ∃ n, ∃ v, n < 2 ∧ Writes req (Reg.DRAM.DRAM_CMD n) s ∧ bit v 0 = false ∧ bit v 1 = true ∧ bit v 2 = false)
    ∧ (∃ (s : State), ∃ req, ∃ n, ∃ v, n < 2 ∧ Writes req (Reg.DRAM.DRAM_CMD n) s ∧ bit v 0 = false ∧ bit v 1 = false ∧ bit v 2 = true)
    ∧ (∃ (s : State), ∃ n, ∃ enter, n < 2 ∧ blockAlive s (Page.DRAM n) = true ∧ dramTrained s n = true ∧ (dram s n).srWant = some enter ∧ enter ≠
        dramAsleep s n ∧ ((enter = true → (s.boat.inFlight.any fun x => xactOnPort x.words n) = false)))
    ∧ (∃ (s : State), ∃ n, n < 2 ∧ dramServes s n = true)
    ∧ (∃ (s : State), ∃ quiet, blockAlive s Page.SCRUB = true ∧ s.bit Reg.SCRUB.SCRUB_CFG 0 = true ∧ dramReady s = true ∧ s.bit
        Reg.BOAT.ENGINE_STATE 3 = false ∧ engineRuns s 0x31 = true ∧ s.scrub.lastStep + s.fld Reg.SCRUB.SCRUB_CFG 15 8 * 100 ≤ s.time ∧ s.fld
        Reg.SCRUB.SCRUB_CFG 23 16 ≤ quiet)
    ∧ (∃ (s : State), ∃ req, ∃ v, Writes req Reg.SCRUB.LOG_CTRL s ∧ bit v 0 = true) :=
  ⟨⟨live [], .cox, 1, 1#32, ⟨true, false, 16, 0⟩, by decide +kernel, writes_of (by decide +kernel), by decide +kernel⟩,
    ⟨live [], .cox, 0, 1#32, ⟨false, false, 4, 0⟩, by decide +kernel, writes_of (by decide +kernel), by decide +kernel⟩,
    ⟨live [], .cox, 0, 1#32, ⟨false, false, 5, 0⟩, by decide +kernel, writes_of (by decide +kernel), by decide +kernel⟩,
    ⟨live [(Reg.DRAM.DRAM_STATUS 1, 4#32)], 1, by decide +kernel⟩,
    ⟨live [], .cox, 1, 2#32, by decide +kernel, writes_of (by decide +kernel), by decide +kernel⟩,
    ⟨live [], .cox, 1, 4#32, by decide +kernel, writes_of (by decide +kernel), by decide +kernel⟩,
    ⟨{ ram [] with drams := [(1, { DramPort.reset with srWant := some true })] }, 1, true, by decide +kernel⟩,
    ⟨ram [], 1, by decide +kernel⟩,
    ⟨later 25500 (ram [(Reg.SCRUB.SCRUB_CFG, 0xA1401#32)]), 255, by decide +kernel⟩,
    ⟨live [], .cox, 1#32, writes_of (by decide +kernel), by decide +kernel⟩⟩

theorem test_witness_BufferTransactions :
    (∃ (s : State), ∃ q, ∃ it, ∃ u, xactTake q 1 (xactGrantNext s) = some (it, u))
    ∧ (∃ (s : State), ∃ q, ∃ it, ∃ u, xactTake q 2 (xactGrantNext s) = some (it, u))
    ∧ (∃ (s : State), ∃ q, ∃ it, ∃ u, xactTake q 3 (xactGrantNext s) = some (it, u))
    ∧ (∃ (s : State), ∃ q, ∃ it, ∃ u, xactTake q 4 (xactGrantNext s) = some (it, u))
    ∧ (∃ (s : State), ∃ q, ∃ it, ∃ u, xactTake q 5 (xactGrantNext s) = some (it, u) ∧ xactPattern it.words = 0xFFFFFFFFFFFFFFFF)
    ∧ (∃ (s : State), ∃ q, ∃ it, ∃ u, xactTake q 5 (xactGrantNext s) = some (it, u) ∧ xactPattern it.words ≠ 0xFFFFFFFFFFFFFFFF)
    ∧ (∃ (s : State), ∃ port, ∃ tag, pageOn s Page.BOAT = true ∧ ∃ x, (s.boat.inFlight.find? (fun x => x.port == port && xactTag x.words == tag)
        = some x))
    ∧ (∃ (s : State), ∃ n, boatOn s = true ∧ 1 ≤ n ∧ n ≤ 16384 ∧ wbActive s = false)
    ∧ (∃ (s : State), ∃ n, boatOn s = true ∧ 1 ≤ n ∧ n ≤ 16384 ∧ wbActive s = true ∧ s.boat.waiting = [] ∧ dirtyCount s + n ≤ dirtyLimit s ∧
        dirtyLimit s < 0x4000000)
    ∧ (∃ (s : State), ∃ n, boatOn s = true ∧ 1 ≤ n ∧ n ≤ 16384 ∧ wbActive s = true ∧ ((s.boat.waiting ≠ [] ∨ dirtyLimit s < dirtyCount s + n)))
    ∧ (∃ (s : State), (boatOn s = true ∧ wbActive s = true) ∧ ∃ r, ∃ rest, s.boat.waiting = r :: rest ∧ dirtyCount s + r.granules ≤ dirtyLimit s
        ∧ dirtyLimit s < 0x4000000)
    ∧ (∃ (s : State), ∃ req, ∃ v, Writes req Reg.BOAT.DIRTY_ADJ s ∧ bit v 31 = false ∧ fld v 14 0 ≠ 0 ∧ fld v 14 0 ≤ 16384 ∧ wbActive s = true ∧
        dirtyCount s + fld v 14 0 ≤ dirtyLimit s ∧ dirtyLimit s < 0x4000000)
    ∧ (∃ (s : State), ∃ req, ∃ v, Writes req Reg.BOAT.DIRTY_ADJ s ∧ bit v 31 = true ∧ fld v 14 0 ≠ 0 ∧ fld v 14 0 ≤ 16384 ∧ fld v 14 0 ≤
        dirtyCount s)
    ∧ (∃ (s : State), ∃ req, ∃ v, Writes req Reg.BOAT.DIRTY_ADJ s ∧ bit v 31 = true ∧ fld v 14 0 ≤ 16384 ∧ dirtyCount s < fld v 14 0) :=
  ⟨⟨xactIn 1 0#32, 0, _, _, pair_of (by decide +kernel)⟩,
    ⟨xactIn 2 0#32, 0, _, _, pair_of (by decide +kernel)⟩,
    ⟨xactIn 3 0#32, 0, _, _, pair_of (by decide +kernel)⟩,
    ⟨xactIn 4 0#32, 0, _, _, pair_of (by decide +kernel)⟩,
    ⟨xactIn 5 0xFFFFFFFF#32, 0, _, _, pair_of (by decide +kernel), by decide +kernel⟩,
    ⟨xactIn 5 1#32, 0, _, _, pair_of (by decide +kernel), by decide +kernel⟩,
    ⟨{ ram [] with boat := { Boat.reset with inFlight := [⟨1, [0x107#32, 1#32], 0, 0⟩] } }, 1, 0, by decide +kernel, _, some_of (by
        decide +kernel)⟩,
    ⟨ram [], 16384, by decide +kernel⟩,
    ⟨(ram []).critPut 22 3#32, 16384, by decide +kernel⟩,
    ⟨(ram [(Reg.BOAT.DIRTY_COUNT, 0x1000000#32)]).critPut 22 3#32, 1, by decide +kernel⟩,
    ⟨{ (ram []).critPut 22 3#32 with boat := { Boat.reset with waiting := [⟨1, 16384⟩] } }, by decide +kernel, _, _, cons_of (by decide +kernel),
        by decide +kernel⟩,
    ⟨(ram []).critPut 22 3#32, .cox, 16384#32, writes_of (by decide +kernel), by decide +kernel⟩,
    ⟨ram [(Reg.BOAT.DIRTY_COUNT, 16384#32)], .cox, 0x80004000#32, writes_of (by decide +kernel), by decide +kernel⟩,
    ⟨ram [], .cox, 0x80000001#32, writes_of (by decide +kernel), by decide +kernel⟩⟩

theorem test_witness_CacheCommands :
    (∃ (s : State), ∃ req, ∃ (a : Addr), ∃ (w : AccessWidth), ∃ (parity : CacheParity), ∃ r, (s.chip.held = none ∧ s.bus.stalled.contains req =
        false ∧ memRange a.toNat (accessBytes w) = r ∧ (r = 2 ∨ r = 3 ∨ r = 4) ∧ mayTouch r req false s = true ∧ parity ≠ .l1) ∧ ((∀ again,
        parity ≠ .sram again)))
    ∧ (∃ (s : State), ∃ n, ∃ (a : Addr), ∃ (w : AccessWidth), s.chip.held = none ∧ s.bus.stalled.contains (.stroke n) = false ∧ memRange a.toNat
        (accessBytes w) = 4 ∧ mayTouch 4 (.stroke n) false s = true)
    ∧ (∃ (s : State), ∃ req, ∃ (a : Addr), ∃ (w : AccessWidth), ∃ r, s.chip.held = none ∧ s.bus.stalled.contains req = false ∧ memRange a.toNat
        (accessBytes w) = r ∧ (r = 3 ∨ r = 4) ∧ mayTouch r req true s = true)
    ∧ (∃ (s : State), ∃ req, ∃ (a : Addr), ∃ (w : AccessWidth), ∃ r, s.chip.held = none ∧ s.bus.stalled.contains req = false ∧ memRange a.toNat
        (accessBytes w) = r ∧ (r = 1 ∨ r = 6) ∧ mayTouch r req false s = true)
    ∧ (∃ (s : State), ∃ req, ∃ write, ∃ (a : Addr), ∃ (w : AccessWidth), ∃ (parity : CacheParity), (s.chip.held = none ∧ s.bus.stalled.contains
        req = false ∧ memRange a.toNat (accessBytes w) = 7 ∧ mayTouch 7 req write s = true ∧ a.toNat - dramBase + accessBytes w ≤ usableSize s ∧
        windowWaits write parity a (accessBytes w) s = false ∧ linesWait req a (accessBytes w) s.bus.held = false) ∧ ((parity = .l1 → write = true)) ∧ s.bit (Reg.CTRL Page.CACHE) 0 = true ∧ (a.toNat - dramBase) % 64 + accessBytes w
        ≤ 64)
    ∧ (∃ (s : State), ∃ req, ∃ v, Writes req Reg.CACHE.LOCK_MASK s ∧ (((List.range 16).filter (fun w => bit v w)).length ≤ 8) ∧ s.cache.range =
        none)
    ∧ (∃ (s : State), ∃ req, ∃ v, Writes req Reg.CACHE.LOCK_MASK s ∧ ((8 < ((List.range 16).filter (fun w => bit v w)).length ∨
        s.cache.range.isSome = true)))
    ∧ (∃ (s : State), ∃ req, ∃ v, ∃ (op : Nat), ∃ (c : Instr), Writes req Reg.CACHE.RANGE_CTRL s ∧ bit v 8 = true ∧ bit v 9 = false ∧ fld v 2 0 =
        op ∧ ((op = 1 ∧ c = .rangeClean req v ∨ op = 2 ∧ c = .rangeInvalidate req v ∨ op = 3 ∧ c = .rangeCleanInvalidate req v ∨ op = 4 ∧ c =
        .rangeZero req v ∨ op = 5 ∧ c = .rangeLockFill req v)) ∧ s.cache.range = none ∧ s.fld Reg.CACHE.RANGE_LINES 29 0 ≠ 0 ∧ ((4 ≤ op → s.fld
        Reg.CACHE.RANGE_LINES 29 0 ≤ 524288)) ∧ 64 * (s.reg64 Reg.CACHE.RANGE_BASE_LO / 64 + s.fld Reg.CACHE.RANGE_LINES 29 0) ≤ usableSize s)
    ∧ (∃ (s : State), ∃ req, ∃ v, Writes req Reg.CACHE.RANGE_CTRL s ∧ bit v 8 = false ∧ bit v 9 = true)
    ∧ (∃ (s : State), blockAlive s Page.CACHE = true ∧ ∃ r, s.cache.range = some r ∧ r.done = rangeTotal r)
    ∧ (∃ (s : State), blockAlive s Page.CACHE = true ∧ s.cache.range.isSome = true) :=
  ⟨⟨live [], .cox, 0x123FFFF8#40, .double, .none, 4, by decide +kernel, fun _ h => by cases h⟩,
    ⟨live [], 3, 0x123FFFF8#40, .double, by decide +kernel⟩,
    ⟨live [], .cox, 0x123FFFF8#40, .double, 4, by decide +kernel⟩,
    ⟨live [], .cox, 0x40000000#40, .word, 6, by decide +kernel⟩,
    ⟨ram [(Reg.CTRL Page.CACHE, 1#32)], .cox, true, 0x83FFFFFF8#40, .double, .l1, by decide +kernel, fun _ => rfl, by decide +kernel⟩,
    ⟨live [], .cox, 0xFF#32, writes_of (by decide +kernel), by decide +kernel⟩,
    ⟨live [], .cox, 0x1FF#32, writes_of (by decide +kernel), by decide +kernel⟩,
    ⟨ram [(Reg.CACHE.RANGE_LINES, 0x80000#32)], .cox, 0x105#32, 5, .rangeLockFill .cox 0x105#32, writes_of (by decide +kernel), by
        decide +kernel⟩,
    ⟨live [], .cox, 0x200#32, writes_of (by decide +kernel), by decide +kernel⟩,
    ⟨{ ram [] with cache := { Cache.reset with range := some ⟨1, false, 0, 1, 0, 1, 0, none, 0, 0⟩ } }, by decide +kernel, _, some_of (by
        decide +kernel), by decide +kernel⟩,
    ⟨{ ram [] with cache := { Cache.reset with range := some ⟨1, false, 0, 1, 0, 0, 0, none, 0, 0⟩ } }, by decide +kernel⟩⟩

theorem test_witness_DebugCommands_1 :
    (∃ (s : State), ∃ req, ∃ v, Writes req Reg.DBG.CERT_CTRL s ∧ bit v 0 = true ∧ bit v 1 = false ∧ blockAlive s Page.KEYS = true)
    ∧ (∃ (s : State), ∃ req, ∃ v, Writes req Reg.DBG.CERT_CTRL s ∧ bit v 0 = false ∧ bit v 1 = true ∧ blockAlive s Page.KEYS = true)
    ∧ (∃ (s : State), ∃ req, ∃ v, ∃ (o : Outside), Writes req Reg.DBG.MEM_CTRL s ∧ (bit v 0 = true ∧ bit v 1 = false ∧ portRefused false
        (BitVec.ofNat 40 (s.reg64 Reg.DBG.MEM_ADDR_LO)) (s.setBit Reg.DBG.MEM_CTRL 5 false) = false) ∧ ∃ (a : Addr), a = BitVec.ofNat 40 (s.reg64
        Reg.DBG.MEM_ADDR_LO) ∧ ∃ t, t = tapReadWord a o ((busOk 0#32 s).setBit Reg.DBG.MEM_CTRL 5 false) ∧ t.bus.held = s.bus.held)
    ∧ (∃ (s : State), ∃ req, ∃ v, Writes req Reg.DBG.MEM_CTRL s ∧ bit v 0 = false ∧ bit v 1 = true ∧ portRefused true (BitVec.ofNat 40 (s.reg64
        Reg.DBG.MEM_ADDR_LO)) (s.setBit Reg.DBG.MEM_CTRL 5 false) = false)
    ∧ (∃ (s : State), ∃ req, ∃ v, Writes req Reg.DBG.MEM_CTRL s ∧ bit v 0 = true ∧ bit v 1 = false ∧ portRefused false (BitVec.ofNat 40 (s.reg64
        Reg.DBG.MEM_ADDR_LO)) ((busOk 0#32 s).setBit Reg.DBG.MEM_CTRL 5 false) = true)
    ∧ (∃ (s : State), ∃ req, ∃ v, Writes req Reg.DBG.ENG_CTRL s ∧ bit v 0 = true ∧ debugLevel s = 2 ∧ engineThere s (engSel s) = true ∧
        engineHalted s (engSel s) = false ∧ (s.dbg.haltsBarred && barredEngine (engSel s)) = false ∧ needsForce s (engSel s) = false)
    ∧ (∃ (s : State), ∃ req, ∃ v, Writes req Reg.DBG.ENG_CTRL s ∧ bit v 0 = true ∧ debugLevel s = 2 ∧ engineThere s (engSel s) = true ∧
        engineHalted s (engSel s) = false ∧ (s.dbg.haltsBarred && barredEngine (engSel s)) = true)
    ∧ (∃ (s : State), ∃ e, s.dbg.haltWanted.contains e = true ∧ engineThere s e = true)
    ∧ (∃ (s : State), ∃ req, ∃ v, Writes req Reg.DBG.ENG_CTRL s ∧ bit v 0 = false ∧ bit v 1 = true ∧ debugLevel s = 2 ∧ engineHalted s (engSel s)
        = true)
    ∧ (∃ (s : State), ∃ req, ∃ v, Writes req Reg.DBG.ENG_CTRL s ∧ bit v 0 = false ∧ bit v 1 = false ∧ bit v 2 = true ∧ debugLevel s = 2 ∧
        engineHalted s (engSel s) = true)
    ∧ (∃ (s : State), ∃ e, ∃ pc, ∃ n, debugLevel s = 2 ∧ engineThere s e = true ∧ engineHalted s e = false ∧ n < 4 ∧ breakpointAt s e pc n =
        true)
    ∧ (∃ (s : State), ∃ req, ReadsOf req Reg.DBG.REG_DATA_LO s ∧ engineHalted s (engSel s) = true ∧ ∃ x, (SMap.get (fun _ => none) s.dbg.regs
        (regPlace s) = some x))
    ∧ (∃ (s : State), ∃ req, Writes req Reg.DBG.REG_DATA_HI s ∧ engineHalted s (engSel s) = true ∧ ∃ lo, (SMap.get (fun _ => none)
        s.bus.lowWrites (latchKey req Reg.DBG.REG_DATA_HI) = some lo))
    ∧ (∃ (s : State), ∃ (p : TapPort), ∃ write, ∃ a, tapReached s p = true ∧ ∃ k, wordKey a .word = some k ∧ write = true)
    ∧ (∃ (s : State), ∃ (p : TapPort), ∃ write, ∃ a, tapReached s p = true ∧ ∃ k, wordKey a .word = some k ∧ write = false) :=
  ⟨⟨live [], .cox, 1#32, writes_of (by decide +kernel), by decide +kernel⟩,
    ⟨live [], .cox, 2#32, writes_of (by decide +kernel), by decide +kernel⟩,
    ⟨full [(Reg.DBG.MEM_ADDR_LO, 0x20010008#32)], .cox, 1#32, {}, writes_of (by decide +kernel), by decide +kernel, _, rfl, _, rfl, by
        decide +kernel⟩,
    ⟨full [(Reg.DBG.MEM_ADDR_LO, 0x20028008#32)], .cox, 2#32, writes_of (by decide +kernel), by decide +kernel⟩,
    ⟨full [(Reg.DBG.MEM_ADDR_LO, 0x13000000#32)], .cox, 1#32, writes_of (by decide +kernel), by decide +kernel⟩,
    ⟨full [(Reg.DBG.ENG_SEL, 0x34#32)], .cox, 1#32, writes_of (by decide +kernel), by decide +kernel⟩,
    ⟨{ full [(Reg.DBG.ENG_SEL, 0x34#32)] with dbg := { State.reset.dbg with haltsBarred := true } }, .cox, 1#32, writes_of (by decide +kernel),
        by decide +kernel⟩,
    ⟨{ full [] with dbg := { State.reset.dbg with haltWanted := [5] } }, 5, by decide +kernel⟩,
    ⟨{ full [(Reg.DBG.ENG_SEL, 0x34#32)] with
      dbg := { State.reset.dbg with halts := [(0x34, 1)], regs := [(0xD00, some 7#64)] } }, .cox, 2#32, writes_of (by decide +kernel), by
        decide +kernel⟩,
    ⟨{ full [(Reg.DBG.ENG_SEL, 0x34#32)] with
      dbg := { State.reset.dbg with halts := [(0x34, 1)], regs := [(0xD00, some 7#64)] } }, .cox, 4#32, writes_of (by decide +kernel), by
        decide +kernel⟩,
    ⟨{ full [] with dbg := { State.reset.dbg with bps := [(22, 0x101#32)] } }, 2, 0x100, 3, by decide +kernel⟩,
    ⟨{ full [(Reg.DBG.ENG_SEL, 0x34#32)] with
      dbg := { State.reset.dbg with halts := [(0x34, 1)], regs := [(0xD00, some 7#64)] } }, .cox, reads_of (by decide +kernel), by
        decide +kernel, _, some_of (by decide +kernel)⟩,
    ⟨{ { full [(Reg.DBG.ENG_SEL, 0x34#32)] with dbg := { State.reset.dbg with halts := [(0x34, 1)], regs := [(0xD00, some 7#64)] } } with
      bus := ⟨0#32, false, [], [(latchKey .cox Reg.DBG.REG_DATA_HI, some 1#32)], [], []⟩ }, .cox, writes_of (by decide +kernel), by
        decide +kernel, _, some_of (by decide +kernel)⟩,
    ⟨live [], .ieee1149_1, true, keyAddr Reg.DBG.ENG_SEL, by decide +kernel, _, some_of (by decide +kernel), by decide +kernel⟩,
    ⟨live [], .ieee1149_1, false, keyAddr Reg.DBG.ENG_SEL, by decide +kernel, _, some_of (by decide +kernel), by decide +kernel⟩⟩

theorem test_witness_DebugCommands_2 :
    (∃ (s : State), ∃ (p : TapPort), tapReached s p = true)
    ∧ (∃ (s : State), ∃ (p : TapPort), tapReached s p = true)
    ∧ (∃ (s : State), ∃ (p : TapPort), tapReached s p = true ∧ debugLevel s ≠ 0)
    ∧ (∃ (s : State), ∃ (p : TapPort), tapReached s p = true ∧ debugLevel s ≠ 0 ∧ extestOk s = true)
    ∧ (∃ (s : State), ∃ (p : TapPort), tapReached s p = true ∧ debugLevel s ≠ 0 ∧ extestOk s = false)
    ∧ (∃ (s : State), pageOn s Page.DBG = true)
    ∧ (∃ (s : State), ∃ req, Writes req Reg.ATB.ATB0_SEL s ∧ debugLevel s ≠ 0)
    ∧ (∃ (s : State), ∃ req, ∃ v, Writes req Reg.ATB.ATB1_SEL s ∧ (fld v 5 0 = 0 ∨ holds req 7 1 s = true))
    ∧ (∃ (s : State), domainOn s 0 = true) :=
  ⟨⟨live [], .ieee1149_1, by decide +kernel⟩,
    ⟨{ live [] with dbg := { State.reset.dbg with adapter := true } }, .ieee1149_7, by decide +kernel⟩,
    ⟨full [], .ieee1149_1, by decide +kernel⟩,
    ⟨(full []).critPut 0 8#32, .ieee1149_1, by decide +kernel⟩,
    ⟨full [], .ieee1149_1, by decide +kernel⟩,
    ⟨live [], by decide +kernel⟩,
    ⟨full [], .cox, writes_of (by decide +kernel), by decide +kernel⟩,
    ⟨live [(Reg.CLAIM.CLAIM_STATE 7, 0x80000101#32)], .cox, 1#32, writes_of (by decide +kernel), by decide +kernel⟩,
    ⟨live [], by decide +kernel⟩⟩

theorem test_witness_RunAndLaneCommands_1 :
    (∃ (s : State), ∃ a, (a < 4 ∧ engineTakes s (0x20 + a) = true) ∧ ∃ it, qFront (gateQ a) s = some it ∧ creditGrants 8192 (sectorHeld s a)
        (resField s Reg.SYS.RES_SECTOR_LO) (runClass it.port it.words) (runCount it.words) = true ∧ ∃ x, ∃ t, qNext (gateQ a) s = some (x, t) ∧ ∃
        code, runFault s a it.words = some code)
    ∧ (∃ (s : State), ∃ a, (a < 4 ∧ engineTakes s (0x20 + a) = true) ∧ ∃ it, qFront (gateQ a) s = some it ∧ creditGrants 8192 (sectorHeld s a)
        (resField s Reg.SYS.RES_SECTOR_LO) (runClass it.port it.words) (runCount it.words) = true ∧ ∃ x, ∃ t, qNext (gateQ a) s = some (x, t) ∧
        runFault s a it.words = none)
    ∧ (∃ (s : State), ∃ a, ∃ k, (k < 4 ∧ a < 4 ∧ engineTakes s (0x20 + a) = true ∧ gateQuiet s = false) ∧ ∃ s1, s1 = gateSettle a s ∧ (slotAvail
        s1 a k = true ∧ actuatorUp s1 a = true ∧ (((gate s1 a).issued.filter fun j => j.slot == k && jobWaits s1 a k j).length < s1.fld
        (Reg.GATE.SCHED_CFG a) 10 8) ∧ pickOwn a k s1 = none) ∧ ∃ r, pickRun s1 a k = some r)
    ∧ (∃ (s : State), ∃ a, ∃ k, (k < 4 ∧ a < 4 ∧ engineTakes s (0x20 + a) = true ∧ gateQuiet s = false) ∧ ∃ s1, s1 = gateSettle a s ∧ (slotAvail
        s1 a k = true ∧ actuatorUp s1 a = true ∧ (((gate s1 a).issued.filter fun j => j.slot == k && jobWaits s1 a k j).length < s1.fld
        (Reg.GATE.SCHED_CFG a) 10 8)) ∧ ∃ t, pickOwn a k s1 = some t)
    ∧ (∃ (s : State), ∃ a, gateRuns s a = true ∧ ∃ r, (((gate s a).runs.find? fun r => runWaits s a r && decide (runLevel r < 7) && decide
        (r.since + (r.aged + 1) * (s.fld (Reg.GATE.SCHED_CFG a) 31 16 * 1000000) ≤ s.time)) = some r) ∧ runLevel { r with aged := r.aged + 1 } <
        7)
    ∧ (∃ (s : State), ∃ a, gateRuns s a = true ∧ ∃ r, (((gate s a).runs.find? fun r => runWaits s a r && decide (runLevel r < 7) && decide
        (r.since + (r.aged + 1) * (s.fld (Reg.GATE.SCHED_CFG a) 31 16 * 1000000) ≤ s.time)) = some r) ∧ 7 ≤ runLevel
        { r with aged := r.aged + 1 })
    ∧ (∃ (s : State), ∃ a, gateRuns s a = true ∧ ∃ s1, s1 = gateSettle a s ∧ ∃ r, (((gate s1 a).runs.find? fun r => decide (runCount r.words ≤
        r.ended)) = some r))
    ∧ (∃ (s : State), ∃ a, (rudAlive s a = true ∧ gateRuns s a = true ∧ (gate s a).unready = false) ∧ ∃ g, (gate s a).offer = some g) :=
  ⟨⟨withQ (.gate 0) { HwQueue.reset with items := [item [0xF#32] 0 0x2C] } (drive [(Reg.CTRL (Page.GATE 0), 1#32)]), 0, by decide +kernel, _,
      some_of (by decide +kernel), by decide +kernel, _, _, pair_of (by decide +kernel), _, some_of (by decide +kernel)⟩,
    ⟨withQ (.gate 0) { HwQueue.reset with items := [item runWords 0 0x2C] } (drive [(Reg.CTRL (Page.GATE 0), 1#32)]), 0, by decide +kernel, _,
        some_of (by decide +kernel), by decide +kernel, _, _, pair_of (by decide +kernel), by decide +kernel⟩,
    ⟨{ drive [(Reg.CTRL (Page.GATE 0), 1#32)] with
      gates := [(0, { Gate.reset with runs := [aRun runWords [(0, 1)] 0 0] })], time := 0 }, 0, 3, by decide +kernel, _, rfl, by decide +kernel,
        _, some_of (by decide +kernel)⟩,
    ⟨{ drive [(Reg.CTRL (Page.GATE 0), 1#32)] with
      gates := [(0, { Gate.reset with map := [(0, some (0, 0, true))] })], oars := [(0,
        { Oar.reset with entries := [(0, some { anEntry 8 with taken := false })] })] }, 0, 0, by decide +kernel, _, rfl, by decide +kernel, _,
        some_of (by decide +kernel)⟩,
    ⟨{ drive [(Reg.CTRL (Page.GATE 0), 1#32)] with
      gates := [(0, { Gate.reset with runs := [aRun runWords [(0, 1)] 5 0] })], time := 1000000000000 }, 0, by decide +kernel, _, some_of (by
        decide +kernel), by decide +kernel⟩,
    ⟨{ drive [(Reg.CTRL (Page.GATE 0), 1#32)] with
      gates := [(0, { Gate.reset with runs := [aRun runWords [(0, 1)] 6 0] })], time := 1000000000000 }, 0, by decide +kernel, _, some_of (by
        decide +kernel), by decide +kernel⟩,
    ⟨{ drive [(Reg.CTRL (Page.GATE 0), 1#32)] with
      gates := [(0, { Gate.reset with runs := [aRun runWords [] 0 1] })], time := 0 }, 0, by decide +kernel, _, rfl, _, some_of (by
        decide +kernel)⟩,
    ⟨{ drive [] with gates := [(0, { Gate.reset with offer := some [] })] }, 0, by decide +kernel, _, some_of (by decide +kernel)⟩⟩

theorem test_witness_RunAndLaneCommands_2 :
    (∃ (s : State), ∃ l, ∃ n, ∃ x, sweepAlive s = true ∧ laneFree s l = true ∧ nextWork s l = some (n, x) ∧ decSlot s n = some x ∧
        (((List.range l).any fun j => laneFree s j && (nextWork s j).isSome) = false) ∧ sliceSpent s x = false)
    ∧ (∃ (s : State), ∃ l, ∃ n, ∃ x, sweepAlive s = true ∧ laneFree s l = true ∧ nextWork s l = some (n, x) ∧ decSlot s n = some x ∧
        (((List.range l).any fun j => laneFree s j && (nextWork s j).isSome) = false) ∧ sliceSpent s x = true) :=
  ⟨⟨withSlots (aSlot 2 0 0) (live [(Reg.SWEEP.LANE_EN, 0x800#32)]), 11, 0, aSlot 2 0 0, by decide +kernel⟩,
    ⟨withSlots { aSlot 4 3 1 with iters := 255 } (live [(Reg.SWEEP.LANE_EN, 0x800#32)]), 11, 0, { aSlot 4 3 1 with iters := 255 }, by
        decide +kernel⟩⟩

/-- One iteration on soft values of 0: the codeword of zeros. -/
theorem lane_zero : ((laneRun 0 1 [[]] Decoder.fresh).any fun o => o.converged && o.bits.length == 4864 && o.bits.all (· == 0#8)) = true := by
  decide +kernel

theorem lane_gives : ∃ out, laneRun 0 1 [[]] Decoder.fresh = some out ∧ out.converged = true ∧ out.bits = List.replicate 4864 0#8 := by
  have h := lane_zero
  cases e : laneRun 0 1 [[]] Decoder.fresh with
  | none => rw [e] at h; cases h
  | some out =>
    simp only [e, Option.any_some, Bool.and_eq_true, beq_iff_eq, List.all_eq_true] at h
    exact ⟨out, rfl, h.1.1, List.eq_replicate_iff.2 ⟨h.1.2, h.2⟩⟩

theorem zeros_good : syndromeZero (invertBits (List.replicate 4864 0#8) []) = true := by decide +kernel

/-- A lane at work on slot 0. -/
def aLane (slice : Bool) : State :=
  { live [] with
    sweep := { Sweep.reset with slots := [(0, some (aSlot 3 0 0))], lanes := [(0, some ⟨0, slice, 1, [], [], (0, 0)⟩)] } }

theorem test_witness_RunAndLaneCommands_fresh :
    ∃ (s : State), ∃ l, ∃ (r : DecodeEnd), sweepAlive s = true ∧ ∃ x, decLane s l = some x ∧ ∃ d, decSlot s x.slot = some d ∧ (d.badLane = none ∧
        x.slice = false) ∧ ∃ out, laneRun x.offsets.1 x.budget r.soft Decoder.fresh = some out ∧ (out.converged && !syndromeZero (invertBits
        out.bits r.flips)) = false := by
  obtain ⟨out, h, _, hb⟩ := lane_gives
  exact ⟨aLane false, 0, ⟨[[]], []⟩, by decide +kernel, ⟨0, false, 1, [], [], (0, 0)⟩, rfl, aSlot 3 0 0, rfl, ⟨rfl, rfl⟩, out, h, by
    rw [hb, zeros_good, Bool.not_true, Bool.and_false]⟩

theorem test_witness_RunAndLaneCommands_slice :
    ∃ (s : State), ∃ l, ∃ (r : DecodeEnd), sweepAlive s = true ∧ ∃ x, decLane s l = some x ∧ ∃ d, decSlot s x.slot = some d ∧ (d.badLane = none ∧
        x.slice = true) ∧ ∃ out, laneRun x.offsets.2 x.budget r.soft d.decoder = some out ∧ (out.converged && !syndromeZero (invertBits
        out.bits r.flips)) = false := by
  obtain ⟨out, h, _, hb⟩ := lane_gives
  exact ⟨aLane true, 0, ⟨[[]], []⟩, by decide +kernel, ⟨0, true, 1, [], [], (0, 0)⟩, rfl, aSlot 3 0 0, rfl, ⟨rfl, rfl⟩, out, h, by
    rw [hb, zeros_good, Bool.not_true, Bool.and_false]⟩

theorem test_witness_RunAndLaneCommands_rejected :
    ∃ (s : State), ∃ l, ∃ (r : DecodeEnd), sweepAlive s = true ∧ ∃ x, decLane s l = some x ∧ ∃ d, decSlot s x.slot = some d ∧ x.slice = false ∧
        ∃ out, laneRun x.offsets.1 x.budget r.soft Decoder.fresh = some out ∧ out.converged = true ∧ syndromeZero (invertBits out.bits r.flips) =
        false := by
  obtain ⟨out, h, hc, hb⟩ := lane_gives
  exact ⟨aLane false, 0, ⟨[[]], [1#8]⟩, by decide +kernel, ⟨0, false, 1, [], [], (0, 0)⟩, rfl, aSlot 3 0 0, rfl, rfl, out, h, hc, by
    rw [hb]; decide +kernel⟩

theorem test_witness_RunAndLaneCommands_3 :
    (∃ (s : State), ∃ n, sweepAlive s = true ∧ ∃ x, decSlot s n = some x ∧ (∃ e, entry s x.oar x.entry = some e) ∧ x.kind = 3 ∧ x.rung = 4 ∧
        x.state = 1 ∧ x.requal < 4 ∧ (oar s x.oar).rawHeld = some x.entry ∧ (oar s x.oar).passage ≠ some (x.entry, false))
    ∧ (∃ (s : State), ∃ n, sweepAlive s = true ∧ ∃ x, decSlot s n = some x ∧ x.kind = 3 ∧ x.expired = false ∧ x.start + s.fld
        Reg.SWEEP.RECOV_LIMIT 15 0 * 1000000 ≤ s.time ∧ (x.state = 2 ∨ x.state = 3))
    ∧ (∃ (s : State), ∃ n, sweepAlive s = true ∧ ∃ x, decSlot s n = some x ∧ x.kind = 3 ∧ x.expired = false ∧ x.start + s.fld
        Reg.SWEEP.RECOV_LIMIT 15 0 * 1000000 ≤ s.time ∧ x.state ≠ 2 ∧ x.state ≠ 3 ∧ (oar s x.oar).passage ≠ some (x.entry, false))
    ∧ (∃ (s : State), ∃ req, ∃ v, Writes req Reg.SWEEP.LANE_EN s ∧ fld v 11 0 ≠ 0) :=
  ⟨⟨{ withSlots (aSlot 1 3 4) (live []) with oars := [(0, { Oar.reset with rawHeld := some 0, entries := [(0, some (anEntry 7))] })] }, 0, by
        decide +kernel, _, some_of (by decide +kernel), ⟨_, some_of (by decide +kernel)⟩, by decide +kernel⟩,
    ⟨later 70000000000 (withSlots (aSlot 3 3 4) (live [])), 0, by decide +kernel, _, some_of (by decide +kernel), by decide +kernel⟩,
    ⟨later 70000000000 (withSlots (aSlot 1 3 4) (live [])), 0, by decide +kernel, _, some_of (by decide +kernel), by decide +kernel⟩,
    ⟨live [], .cox, 0x800#32, writes_of (by decide +kernel), by decide +kernel⟩⟩

theorem test_witness_RunAndLaneCommands_4 :
    ∃ (s : State), ∃ req, ∃ v, Writes req Reg.SWEEP.LANE_EN s ∧ fld v 11 0 = 0 :=
  ⟨live [], .cox, 0xF000#32, writes_of (by decide +kernel), by decide +kernel⟩

set_option maxRecDepth 100000 in
theorem test_witness_UnitAndIntakeCommands_1 :
    (∃ (s : State), ∃ req, ∃ v, Writes req Reg.HAZ.FW_CMD s ∧ fld v 29 28 = 1 ∧ ∃ e, hazFree s = some e ∧ (s.reg Reg.HAZ.FW_COUNT).toNat ≠ 0 ∧
        s.reg64 Reg.HAZ.FW_LBA_LO + (s.reg Reg.HAZ.FW_COUNT).toNat ≤ 0x10000000000000000 ∧ fld v 20 8 < 8192)
    ∧ (∃ (s : State), ∃ req, ∃ v, Writes req Reg.HAZ.FW_CMD s ∧ fld v 29 28 = 2 ∧ (hazEntry s (fld v 11 0)).any (·.fw) = true)
    ∧ (∃ (s : State), ∃ req, ∃ v, Writes req Reg.HAZ.FW_CMD s ∧ fld v 29 28 = 2 ∧ (hazEntry s (fld v 11 0)).any (·.fw) = false)
    ∧ (∃ (s : State), pageOn s Page.HAZ = true ∧ ∃ y, (((hazList (hostDrain s)).find? fun y => y.2.fw && y.2.waiting && !earlierOverlap
        (hostDrain s) y.2) = some y))
    ∧ (∃ (s : State), ∃ req, ∃ v, Writes req Reg.HAZ.FW_CMD s ∧ (fld v 29 28 = 0 ∨ fld v 29 28 = 3))
    ∧ (∃ (s : State), ∃ req, ∃ v, Writes req Reg.LUT.CMD s ∧ (fld v 10 8 = 1 ∧ lutRoot s ≠ 0 ∧ lu s (fld v 5 0) = none) ∧ ∃ ws, ∃ s1, fetchEntry
        (fld v 5 0) (busOk 0#32 s) = (ws, true, s1) ∧ ∃ es, ∃ s2, fetchExtents ws s1 = (es, s2) ∧ formatOk ⟨ws, 1, es⟩ = true ∧ ((luWo ⟨ws, 1,
        es⟩ = 0 ∨ req = .cox)) ∧ keyOk s1 ⟨ws, 1, es⟩ = true ∧ extentsOk s2 (fld v 5 0) ⟨ws, 1, es⟩ = true)
    ∧ (∃ (s : State), ∃ req, ∃ v, Writes req Reg.LUT.CMD s ∧ fld v 10 8 = 1 ∧ lutRoot s ≠ 0 ∧ (lu s (fld v 5 0)).isSome = true)
    ∧ (∃ (s : State), ∃ req, ∃ v, Writes req Reg.LUT.CMD s ∧ fld v 10 8 = 2 ∧ ∃ u, lu s (fld v 5 0) = some u ∧ u.state ≠ 2 ∧ ((luWo u = 0 ∨ req =
        .cox)))
    ∧ (∃ (s : State), ∃ n, ∃ u, lu s n = some u ∧ u.state = 2 ∧ luBusy (hostDrain s) n = false)
    ∧ (∃ (s : State), ∃ req, ∃ v, Writes req Reg.LUT.CMD s ∧ fld v 10 8 = 3 ∧ ∃ u, lu s (fld v 5 0) = some u ∧ (u.state = 1 ∧ lutRoot s ≠ 0) ∧ ∃
        ws, ∃ s1, fetchEntry (fld v 5 0) (busOk 0#32 s) = (ws, true, s1) ∧ ∃ es, ∃ s2, fetchExtents ws s1 = (es, s2) ∧ updateOk u ⟨ws, 1, es⟩ =
        true ∧ extentsOk s2 (fld v 5 0) ⟨ws, 1, es⟩ = true)
    ∧ (∃ (s : State), ∃ req, ∃ v, Writes req Reg.LUT.CMD s ∧ (fld v 10 8 = 0 ∨ 4 ≤ fld v 10 8))
    ∧ (∃ (s : State), ∃ lane, ∃ n, ∃ (f : CommandFrame), laneServes s lane n = true ∧ ∃ lun, frameLun f = some lun ∧ taskOf s n f.tag = none)
    ∧ (∃ (s : State), ∃ lane, ∃ n, ∃ (f : CommandFrame), laneServes s lane n = true ∧ ∃ lun, frameLun f = some lun ∧ (taskOf s n f.tag).isSome =
        true)
    ∧ (∃ (s : State), ∃ lane, ∃ n, ∃ lun, ∃ (f : CommandFrame), ∃ i, ∃ (v : State), (laneServes s lane n = true ∧ frameLun f = some lun ∧ taskOf
        s n f.tag = none ∧ freeTaskIndex s = some i ∧ (heldTasks s).length < 8192) ∧ qPush .intake (0x2C +
        lane) (intakePacket s (newTask s i n lane lun f)) s = some (v, .taken))
    ∧ (∃ (s : State), (slipAlive s = true ∧ pageOn s Page.HAZ = true) ∧ ∃ s1, s1 = hostDrain s ∧ (hazFree s1).isSome = true ∧ ∃ it, qFront
        .intake s1 = some it ∧ ∃ x, ∃ after, qNext .intake s1 = some (x, after) ∧ ∃ (t : HostTask), taskAt s1 (it.words.getD 1 0#32).toNat = some
        t ∧ (t.aborted = false ∧ t.answer = none ∧ t.stage = 0 ∧ orderHeld s1 t = false) ∧ ∃ u, decodeTask t false after = some u) :=
  ⟨⟨live [(Reg.HAZ.FW_COUNT, 1#32), (Reg.HAZ.FW_LBA_LO, 0xFFFFFFFF#32), (Reg.HAZ.FW_LBA_LO + 4, 0xFFFFFFFF#32)], .cox, 0x101FFF00#32, writes_of
      (by decide +kernel), by decide +kernel, _, some_of (by decide +kernel), by decide +kernel⟩,
    ⟨{ live [] with
      slip := { Slip.reset with haz := [(5, some ⟨0, true, false, true, 0, 0, 1, 0, true⟩)] } }, .cox, 0x20000005#32, writes_of (by
        decide +kernel), by decide +kernel⟩,
    ⟨live [], .cox, 0x20000005#32, writes_of (by decide +kernel), by decide +kernel⟩,
    ⟨{ live [] with
      slip := { Slip.reset with haz := [(5, some ⟨0, true, false, true, 0, 0, 1, 0, true⟩)] } }, by decide +kernel, _, some_of (by
        decide +kernel)⟩,
    ⟨live [], .cox, 0x30000000#32, writes_of (by decide +kernel), by decide +kernel⟩,
    ⟨luReady, .cox, 0x100#32, writes_of (by decide +kernel), by decide +kernel, _, _, triple_of (by decide +kernel), _, _, rfl, by
        decide +kernel⟩,
    ⟨{ luReady with slip := aSlip [] }, .cox, 0x100#32, writes_of (by decide +kernel), by decide +kernel⟩,
    ⟨{ live [] with slip := aSlip [] }, .cox, 0x200#32, writes_of (by decide +kernel), by decide +kernel, _, some_of (by decide +kernel), by
        decide +kernel⟩,
    ⟨{ live [] with slip := { Slip.reset with lus := [(0, some { aLu with state := 2 })] } }, 0, _, some_of (by decide +kernel), by
        decide +kernel⟩,
    ⟨{ luReady with slip := { Slip.reset with lus := [(0, some { aLu with words := luWords })] } }, .cox, 0x300#32, writes_of (by
        decide +kernel), by decide +kernel, _, some_of (by decide +kernel), by decide +kernel, _, _, triple_of (by decide +kernel), _, _, rfl, by
        decide +kernel⟩,
    ⟨live [], .cox, 0x700#32, writes_of (by decide +kernel), by decide +kernel⟩,
    ⟨host Slip.reset [], 0, 0, aFrame (List.replicate 16 0#8), by decide +kernel, _, some_of (by decide +kernel), by decide +kernel⟩,
    ⟨host (aSlip [aTask]) [], 0, 0, aFrame (List.replicate 16 0#8), by decide +kernel, _, some_of (by decide +kernel), by decide +kernel⟩,
    ⟨host (aSlip []) [], 0, 0, 0, aFrame (List.replicate 16 0#8), 0, _, by decide +kernel, part_of (by decide +kernel) (by decide +kernel)⟩,
    ⟨withQ .intake { HwQueue.reset with items := [item [0x101#32, 0#32] 0 0x2C] } (host (aSlip [aTask]) []), by decide +kernel, _, rfl, by
        decide +kernel, _, some_of (by decide +kernel), _, _, pair_of (by decide +kernel), _, some_of (by decide +kernel), by decide +kernel, _,
        some_of (by decide +kernel)⟩⟩

set_option maxRecDepth 100000 in
theorem test_witness_UnitAndIntakeCommands_2 :
    (∃ (s : State), (slipAlive s = true ∧ pageOn s Page.HAZ = true) ∧ hazFree (hostDrain s) = none)
    ∧ (∃ (s : State), slipAlive s = true ∧ ∃ t, ∃ ts, bufferWaiters (hostDrain s) = t :: ts) :=
  ⟨⟨hazReady hazMap, by decide +kernel, haz_taken⟩,
    ⟨host (aSlip [{ aTask with stage := 1, op := 1 }]) [], by decide +kernel, _, _, cons_of (by decide +kernel)⟩⟩

theorem test_witness_LinkCommands :
    (∃ (s : State), ∃ l, slipRuns s l = true ∧ laneUp s l = true)
    ∧ (∃ (s : State), ∃ req, ∃ l, ∃ v, (l < 4 ∧ bit v 7 = true) ∧ Writes req (Reg.SLIP.LINK_CFG l) s)
    ∧ (∃ (s : State), ∃ l, ∃ rate, slipRuns s l = true ∧ portEnabled s (lanePort l) = true ∧ laneTries s l = true ∧ rate ≤ s.fld
        (Reg.SLIP.LINK_CFG l) 1 0 ∧ (sasLane s l).lost = false)
    ∧ (∃ (s : State), ∃ l, (slipRuns s l = true ∧ laneUp s l = false) ∧ ∃ u, (sasLane s l).resetting = some u ∧ u + 500000000 ≤ s.time ∧ (sasLane
        s l).frames = [])
    ∧ (∃ (s : State), ∃ l, ∃ u, slipRuns s l = true ∧ laneUp s l = true ∧ s.bit (Reg.SLIP.LINK_STATUS l) 3 = true ∧ (sasLane s l).fecSecond =
        s.time / 1000000000 ∧ (sasLane s l).fecCount + u ≤ s.fld (Reg.SLIP.FEC_CFG l) 15 0)
    ∧ (∃ (s : State), ∃ l, laneSends s l = true)
    ∧ (∃ (s : State), ∃ l, slipRuns s l = true ∧ pwrFailing s = false)
    ∧ (∃ (s : State), ∃ l, ∃ (addr : BitVec 64), laneSends s l = true ∧ ∃ n, (((List.range 64).find? fun n => (nexus s n).any fun x => x.addr ==
        addr.toNat && x.port == lanePort l) = some n) ∧ ∃ x, nexus s n = some x)
    ∧ (∃ (s : State), ∃ l, ∃ (addr : BitVec 64), ∃ n, laneSends s l = true ∧ (((List.range 64).find? fun n => (nexus s n).any fun x => x.addr ==
        addr.toNat && x.port == lanePort l) = none) ∧ (((List.range 64).find? fun n => (nexus s n).isNone) = some n))
    ∧ (∃ (s : State), ∃ n, slipAlive s = true ∧ (nexus s n).isSome = true ∧ s.fld Reg.SLIPC.NEXUS_CFG 15 0 ≠ 0)
    ∧ (∃ (s : State), ∃ l, ∃ st, laneSends s l = true ∧ s.fld (Reg.SLIP.LINK_STATUS l) 5 4 ≠ st ∧ ((st = 0 ∨ st = 1 ∧ s.bit (Reg.SLIP.LINK_CFG l)
        4 = true ∨ st = 2 ∧ s.bit (Reg.SLIP.LINK_CFG l) 5 = true)))
    ∧ (∃ (s : State), ∃ req, ∃ v, Writes req Reg.SLIPC.UA_CTRL s ∧ bit v 14 = false)
    ∧ (∃ (s : State), ∃ req, ∃ v, Writes req Reg.SLIPC.UA_CTRL s ∧ bit v 14 = true)
    ∧ (∃ (s : State), (heldTasks s).isEmpty = true ∧ ∃ u, s.slip.activity = some u ∧ u + 1000000 * s.fld Reg.SLIPC.SIDEBAND 15 8 ≤ s.time) :=
  ⟨⟨host Slip.reset [], 0, by decide +kernel⟩,
    ⟨live [], .cox, 0, 0x80#32, by decide +kernel, writes_of (by decide +kernel)⟩,
    ⟨{ host { Slip.reset with lanes := [(0, ⟨some 0, false, [], 0, 0⟩)] } [(Reg.SLIP.LINK_STATUS 0, 0#32)] with
      time := 0 }, 0, 0, by decide +kernel⟩,
    ⟨{ host { Slip.reset with lanes := [(0, ⟨some 0, false, [], 0, 0⟩)] } [(Reg.SLIP.LINK_STATUS 0, 0#32)] with
      time := 500000000 }, 0, by decide +kernel, _, some_of (by decide +kernel), by decide +kernel⟩,
    ⟨{ host { Slip.reset with lanes := [(0, ⟨none, false, [], 0, 0⟩)] } [(Reg.SLIP.LINK_STATUS 0, 0xC#32), (Reg.SLIP.FEC_CFG 0, 1#32)] with
      time := 0 }, 0, 1, by decide +kernel⟩,
    ⟨host Slip.reset [], 0, by decide +kernel⟩,
    ⟨host Slip.reset [], 0, by decide +kernel⟩,
    ⟨host Slip.reset [], 0, 1#64, by decide +kernel, _, some_of (by decide +kernel), _, some_of (by decide +kernel)⟩,
    ⟨host Slip.reset [], 0, 2#64, 1, by decide +kernel⟩,
    ⟨host Slip.reset [(Reg.SLIPC.NEXUS_CFG, 1#32)], 0, by decide +kernel⟩,
    ⟨host Slip.reset [(Reg.SLIP.LINK_CFG 0, 0x20#32)], 0, 2, by decide +kernel⟩,
    ⟨live [], .cox, 0x13F3F#32, writes_of (by decide +kernel), by decide +kernel⟩,
    ⟨live [], .cox, 0x1403F#32, writes_of (by decide +kernel), by decide +kernel⟩,
    ⟨{ live [(Reg.SLIPC.SIDEBAND, 0x100#32)] with
      time := 1000000, slip := { Slip.reset with activity := some 0 } }, by decide +kernel, _, some_of (by decide +kernel), by decide +kernel⟩⟩

theorem test_witness_TaskCommands :
    (∃ (s : State), ∃ l, ∃ n, ∃ (f : TaskMgmtFrame), laneServes s l n = true ∧ taskOf s n f.tag = none)
    ∧ (∃ (s : State), ∃ l, ∃ n, ∃ (f : TaskMgmtFrame), (laneServes s l n = true ∧ taskOf s n f.tag = none) ∧ ∃ code, [0x01, 0x02, 0x04, 0x08,
        0x10, 0x80, 0x81, 0x82].contains code = false)
    ∧ (∃ (s : State), ∃ l, ∃ n, ∃ (f : TaskMgmtFrame), laneServes s l n = true ∧ taskOf s n f.tag = none ∧ luEnabled s f.lun = false)
    ∧ (∃ (s : State), ∃ l, ∃ n, ∃ (f : TaskMgmtFrame), laneServes s l n = true ∧ (taskOf s n f.tag).isSome = true)
    ∧ (∃ (s : State), slipAlive s = true)
    ∧ (∃ (s : State), ∃ req, ∃ i, ∃ v, i < 6 ∧ Writes req (Reg.SYS.RES_STRIPE_LO + 4 * i) s ∧ ∃ other, other = s.reg (Reg.SYS.RES_STRIPE_LO + 4 *
        (i / 2 * 2 + (1 - i % 2))) ∧ ∃ sum, sum = fld v 15 0 + fld v 31 16 + fld other 15 0 + fld other 31 16 ∧ sum ≤ resHalf i)
    ∧ (∃ (s : State), ∃ req, ∃ i, ∃ v, i < 6 ∧ Writes req (Reg.SYS.RES_STRIPE_LO + 4 * i) s ∧ ∃ other, other = s.reg (Reg.SYS.RES_STRIPE_LO + 4 *
        (i / 2 * 2 + (1 - i % 2))) ∧ ∃ sum, sum = fld v 15 0 + fld v 31 16 + fld other 15 0 + fld other 31 16 ∧ resHalf i < sum) :=
  ⟨⟨host Slip.reset [], 0, 0, ⟨0, 7, 7⟩, by decide +kernel⟩,
    ⟨host Slip.reset [], 0, 0, ⟨0, 7, 7⟩, by decide +kernel, 0x20, by decide +kernel⟩,
    ⟨host Slip.reset [], 0, 0, ⟨0, 7, 7⟩, by decide +kernel⟩,
    ⟨host (aSlip [aTask]) [], 0, 0, ⟨0, 7, 7⟩, by decide +kernel⟩,
    ⟨host (aSlip [aTask]) [], by decide +kernel⟩,
    ⟨live [], .cox, 0, 1#32, by decide +kernel, writes_of (by decide +kernel), _, rfl, _, rfl, by decide +kernel⟩,
    ⟨live [], .cox, 0, 0xFFFF#32, by decide +kernel, writes_of (by decide +kernel), _, rfl, _, rfl, by decide +kernel⟩⟩

theorem test_witness_HostDataCommands :
    (∃ (s : State), ∃ i, slipAlive s = true ∧ ∃ t, taskAt (hostDrain s) i = some t ∧ ∃ s1, s1 = hostDrain s ∧ ∃ l, pickLane s1 t.lane t.nexus =
        some l ∧ ∃ c, ∃ x, svcRunning s1 t.id 2 = some (c, x) ∧ t.aborted = false ∧ x.xrdy = none ∧ x.asked < x.bytes ∧ xrdyOut s1 (nexusPort s1
        t.nexus) < s1.fld Reg.SLIPC.INTAKE_CFG 15 8)
    ∧ (∃ (s : State), ∃ i, slipAlive s = true ∧ ∃ t, taskAt (hostDrain s) i = some t ∧ ∃ s1, s1 = hostDrain s ∧ ∃ l, pickLane s1 t.lane t.nexus =
        some l ∧ ∃ u, taskLu s1 t = some u ∧ svcRunning s1 t.id 2 = none ∧ t.op = 2 ∧ t.haz.isSome = true ∧ t.aborted = false ∧ t.answer = none ∧
        t.xrdy = none ∧ t.asked < linkBytes s1 t ∧ xrdyOut s1 (nexusPort s1 t.nexus) < s1.fld Reg.SLIPC.INTAKE_CFG 15 8)
    ∧ (∃ (s : State), ∃ l, ∃ n, ∃ tag, ∃ (data : List Byte), laneServes s l n = true ∧ ∃ t, taskOf (hostGo s) n tag = some t ∧ ∃ s1, s1 = hostGo
        s ∧ (t.aborted = false ∧ t.committed = false ∧ svcRunning s1 t.id 2 = none) ∧ ∃ u, taskLu s1 t = some u ∧ (t.answer = none ∧ t.op = 2) ∧
        ∃ e, t.xrdy = some e ∧ t.received + data.length ≤ e)
    ∧ (∃ (s : State), ∃ l, ∃ n, ∃ tag, ∃ offset, ∃ (data : List Byte), laneServes s l n = true ∧ ∃ t, taskOf (hostGo s) n tag = some t ∧ ∃ s1, s1
        = hostGo s ∧ (t.aborted = false ∧ t.committed = false ∧ svcRunning s1 t.id 2 = none) ∧ ∃ u, taskLu s1 t = some u ∧ t.answer = none ∧
        ((t.op = 2 ∧ t.xrdy.any (fun e => decide (t.received + data.length ≤ e)) = true ∧ offset = t.received → False)))
    ∧ (∃ (s : State), ∃ i, slipAlive s = true ∧ ∃ t, taskAt (hostGo s) i = some t ∧ ∃ s1, s1 = hostGo s ∧ ∃ l, pickLane s1 t.lane t.nexus = some
        l ∧ svcRunning s1 t.id 1 = none ∧ ∃ u, taskLu s1 t = some u ∧ t.op = 1 ∧ t.stage = 1 ∧ t.aborted = false ∧ t.answer = none ∧ t.committed
        = false ∧ t.buffer.isSome = true)
    ∧ (∃ (s : State), ∃ i, slipAlive s = true ∧ ∃ t, taskAt (hostGo s) i = some t ∧ ∃ s1, s1 = hostGo s ∧ ∃ l, pickLane s1 t.lane t.nexus = some
        l ∧ ∃ c, ∃ x, svcRunning s1 t.id 1 = some (c, x) ∧ t.aborted = false)
    ∧ (∃ (s : State), ∃ i, slipAlive s = true ∧ ∃ t, taskAt (hostGo s) i = some t ∧ ∃ s1, s1 = hostGo s ∧ ∃ l, pickLane s1 t.lane t.nexus = some
        l ∧ ∃ a, readyAnswer s1 t = some a ∧ svcRunning s1 t.id 3 = none ∧ t.failed = false)
    ∧ (∃ (s : State), ∃ req, ∃ c, ∃ v, ∃ op, ∃ (i : Instr), (c < 4 ∧ bit v 31 = true ∧ fld v 1 0 = op ∧ ((op = 1 ∧ i = .svcDataIn req c v ∨ op =
        2 ∧ i = .svcDataOut req c v ∨ op = 3 ∧ i = .svcRespond req c v))) ∧ Writes req (Reg.SLIPC.SVC_CTRL c) s ∧ ∃ s1, hostDrain ((storeWrite
        (Reg.SLIPC.SVC_CTRL c) v (busOk 0#32 s)).setBit (Reg.SLIPC.SVC_CTRL c) 31 false) = s1 ∧ svc s1 c = none ∧ ∃ t, ((taskAt s1 (s1.fld
        (Reg.SLIPC.SVC_TASK c) 12 0)).filter (fun t => t.stage == 2 && !t.aborted && !t.committed && (svcOf s1 t.id).isNone) = some t))
    ∧ (∃ (s : State), ∃ c, (c < 4 ∧ slipAlive s = true) ∧ ∃ x, svc (hostGo s) c = some x ∧ ∃ o, svcOutcome (hostGo s) x = some o) :=
  ⟨⟨host { aSlip [{ aTask with stage := 2 }] with
    svcs := [(0, some ⟨2, aTask.id, 0, 64, 0, 0, 0, 0, none, 0, [], 0⟩)] } [(Reg.SLIPC.INTAKE_CFG, 0x400#32)], 0, by decide +kernel, _, some_of
      (by decide +kernel), _, rfl, _, some_of (by decide +kernel), _, _, pair_of (by decide +kernel), by decide +kernel⟩,
    ⟨host { aSlip [{ aTask with stage := 1, op := 2, blocks := 1, haz := some 0 }] with
      svcs := [], haz := [(0, some ⟨0, true, false, false, 0, 0, 1, 0, false⟩)] } [(Reg.SLIPC.INTAKE_CFG, 0x400#32)], 0, by decide +kernel, _,
        some_of (by decide +kernel), _, rfl, _, some_of (by decide +kernel), _, some_of (by decide +kernel), by decide +kernel⟩,
    ⟨host { aSlip [{ aTask with stage := 1, op := 2, blocks := 1, haz := some 0, asked := 512, xrdy := some 512 }] with
      svcs := [], haz := [(0, some ⟨0, true, false, false, 0, 0, 1, 0, false⟩)] } [(Reg.SLIPC.INTAKE_CFG, 0x400#32)], 0, 0, 7, List.replicate 512
        0#8, by decide +kernel, _, some_of (by decide +kernel), _, rfl, by decide +kernel, _, some_of (by decide +kernel), by decide +kernel, _,
        some_of (by decide +kernel), by decide +kernel⟩,
    ⟨host { aSlip [{ aTask with stage := 1, op := 2, blocks := 1, haz := some 0, asked := 512, xrdy := some 512 }] with
      svcs := [], haz := [(0, some ⟨0, true, false, false, 0, 0, 1, 0, false⟩)] } [(Reg.SLIPC.INTAKE_CFG, 0x400#32)], 0, 0, 7, 8, List.replicate
        512 0#8, by decide +kernel, _, some_of (by decide +kernel), _, rfl, by decide +kernel, _, some_of (by decide +kernel), by
        decide +kernel⟩,
    ⟨host { aSlip [{ aTask with stage := 1, op := 1, blocks := 1, buffer := some (0, 512) }] with svcs := [] } [(Reg.SLIPC.INTAKE_CFG,
        0x400#32)], 0, by decide +kernel, _, some_of (by decide +kernel), _, rfl, _, some_of (by decide +kernel), by decide +kernel, _, some_of
        (by decide +kernel), by decide +kernel⟩,
    ⟨host { aSlip [{ aTask with stage := 2 }] with
      svcs := [(0, some ⟨1, aTask.id, 0, 64, 0, 0, 0, 0, none, 0, [], 0⟩)] } [(Reg.SLIPC.INTAKE_CFG, 0x400#32)], 0, by decide +kernel, _, some_of
        (by decide +kernel), _, rfl, _, some_of (by decide +kernel), _, _, pair_of (by decide +kernel), by decide +kernel⟩,
    ⟨host { aSlip [{ aTask with stage := 2, drainFirst := true, answer := some ⟨0, []⟩ }] with svcs := [] } [(Reg.SLIPC.INTAKE_CFG, 0x400#32)],
        0, by decide +kernel, _, some_of (by decide +kernel), _, rfl, _, some_of (by decide +kernel), _, some_of (by decide +kernel), by
        decide +kernel⟩,
    ⟨host { aSlip [{ aTask with stage := 2 }] with svcs := [] } [(Reg.SLIPC.INTAKE_CFG, 0x400#32)], .cox, 0, 0x80000001#32, 1, .svcDataIn .cox 0
        0x80000001#32, by decide +kernel, writes_of (by decide +kernel), _, rfl, by decide +kernel, _, some_of (by decide +kernel)⟩,
    ⟨host { aSlip [{ aTask with stage := 2 }] with
      svcs := [(0, some ⟨1, aTask.id, 0, 0, 0, 0, 0, 0, none, 0, [], 0⟩)] } [(Reg.SLIPC.INTAKE_CFG, 0x400#32)], 0, by decide +kernel, _, some_of
        (by decide +kernel), _, some_of (by decide +kernel)⟩⟩

theorem test_witness_KeyCommands :
    (∃ (s : State), ∃ req, ∃ v, ∃ (op : Nat), ∃ (c : Instr), Writes req Reg.KEYS.CMD s ∧ blockAlive s Page.KEYS = true ∧ fld v 4 0 = op ∧ ((op =
        1 ∧ c = .keyLoad req v ∨ op = 2 ∧ c = .keyClear req v ∨ op = 3 ∧ c = .keyWrap req v ∨ op = 4 ∧ c = .keyErase req v ∨ op = 5 ∧ c =
        .imageVerify req v ∨ op = 6 ∧ c = .patchLoad req v ∨ op = 7 ∧ c = .measure req v ∨ op = 8 ∧ c = .attest req v ∨ op = 9 ∧ c = .debugUnlock
        req v ∨ op = 10 ∧ c = .rollbackSet req v ∨ op = 11 ∧ c = .otpWrite req v ∨ op = 12 ∧ c = .genId req v ∨ op = 13 ∧ c = .challenge req v))
        ∧ s.keys.op = none)
    ∧ (∃ (s : State), ∃ req, ∃ v, ∃ (op : Nat), ∃ (c : Instr), Writes req Reg.KEYS.CMD s ∧ blockAlive s Page.KEYS = true ∧ fld v 4 0 = op ∧ ((op
        = 1 ∧ c = .keyLoad req v ∨ op = 2 ∧ c = .keyClear req v ∨ op = 3 ∧ c = .keyWrap req v ∨ op = 4 ∧ c = .keyErase req v ∨ op = 5 ∧ c =
        .imageVerify req v ∨ op = 6 ∧ c = .patchLoad req v ∨ op = 7 ∧ c = .measure req v ∨ op = 8 ∧ c = .attest req v ∨ op = 9 ∧ c = .debugUnlock
        req v ∨ op = 10 ∧ c = .rollbackSet req v ∨ op = 11 ∧ c = .otpWrite req v ∨ op = 12 ∧ c = .genId req v ∨ op = 13 ∧ c = .challenge req v))
        ∧ s.keys.op.isSome = true)
    ∧ (∃ (s : State), ∃ req, ∃ v, Writes req Reg.KEYS.CMD s ∧ blockAlive s Page.KEYS = true ∧ (fld v 4 0 = 0 ∨ 14 ≤ fld v 4 0))
    ∧ (∃ (s : State), blockAlive s Page.KEYS = true ∧ ∃ cmd, ∃ src, ∃ dst, s.keys.op = some (cmd, src, dst))
    ∧ (∃ (s : State), blockAlive s Page.KEYS = true ∧ ∃ cmd, ∃ src, ∃ dst, s.keys.op = some (cmd, src, dst) ∧ fld cmd 4 0 = 2)
    ∧ (∃ (s : State), blockAlive s Page.KEYS = true ∧ ∃ cmd, ∃ src, ∃ dst, s.keys.op = some (cmd, src, dst) ∧ fld cmd 4 0 = 13)
    ∧ (∃ (s : State), blockAlive s Page.KEYS = true ∧ ∃ cmd, ∃ src, ∃ dst, s.keys.op = some (cmd, src, dst) ∧ (fld cmd 4 0 = 3 ∨ fld cmd 4 0 = 8)
        ∧ debugLevel s = 2)
    ∧ (∃ (s : State), ∃ req, ∃ v, ∃ c, Writes req Reg.COX.STROKE_CTRL s ∧ c < 4 ∧ ((∀ j, j < 4 → bit v j = decide (j = c)))) :=
  ⟨⟨live [], .cox, 9#32, 9, .debugUnlock .cox 9#32, writes_of (by decide +kernel), by decide +kernel⟩,
    ⟨{ live [] with keys := { Keys.reset with op := some (2#32, 0, 0) } }, .cox, 9#32, 9, .debugUnlock .cox 9#32, writes_of (by decide +kernel),
        by decide +kernel⟩,
    ⟨live [], .cox, 14#32, writes_of (by decide +kernel), by decide +kernel⟩,
    ⟨{ live [] with keys := { Keys.reset with op := some (2#32, 0, 0) } }, by decide +kernel, _, _, _, three_of (by decide +kernel)⟩,
    ⟨{ live [] with keys := { Keys.reset with op := some (2#32, 0, 0) } }, by decide +kernel, _, _, _, three_of (by decide +kernel), by
        decide +kernel⟩,
    ⟨{ live [] with keys := { Keys.reset with op := some (13#32, 0, 0) } }, by decide +kernel, _, _, _, three_of (by decide +kernel), by
        decide +kernel⟩,
    ⟨{ full [] with keys := { Keys.reset with op := some (3#32, 0, 0) } }, by decide +kernel, _, _, _, three_of (by decide +kernel), by
        decide +kernel⟩,
    ⟨live [], .cox, 8#32, 3, writes_of (by decide +kernel), by decide +kernel⟩⟩

theorem test_witness_RecorderCommands :
    (∃ (s : State), umpRuns s = true ∧ ∃ x, ∃ rest, s.ump.fifo = x :: rest ∧ umpFrozen s = false)
    ∧ (∃ (s : State), umpRuns s = true ∧ ∃ x, ∃ rest, s.ump.fifo = x :: rest ∧ umpFrozen s = true ∧ ((x.msg.severity = 3 ∨ x.msg.severity = 4)) ∧
        s.ump.heldMsgs.length < 16)
    ∧ (∃ (s : State), umpRuns s = true ∧ ∃ x, ∃ rest, s.ump.fifo = x :: rest ∧ umpFrozen s = true ∧ x.msg.severity ≠ 3 ∧ x.msg.severity ≠ 4)
    ∧ (∃ (s : State), ∃ req, ∃ v, Writes req Reg.UMP.UMP_CTRL s ∧ bit v 1 = false ∧ bit v 2 = false ∧ bit v 0 = true)
    ∧ (∃ (s : State), ∃ req, ∃ v, Writes req Reg.UMP.UMP_CTRL s ∧ bit v 1 = false ∧ bit v 2 = false ∧ bit v 0 = false)
    ∧ (∃ (s : State), ∃ req, ∃ v, Writes req Reg.UMP.UMP_CTRL s ∧ (bit v 0 = false ∧ bit v 1 = true ∧ bit v 2 = false) ∧ umpUnfreeze (busOk 0#32
        s) = busOk 0#32 s ∧ req = .cox ∧ umpFrozen s = false ∧ umpCopying s = false)
    ∧ (∃ (s : State), ∃ req, ∃ v, Writes req Reg.UMP.UMP_CTRL s ∧ (bit v 0 = false ∧ bit v 1 = true ∧ bit v 2 = false) ∧ umpUnfreeze (busOk 0#32
        s) = busOk 0#32 s ∧ req ≠ .cox)
    ∧ (∃ (s : State), ∃ req, ∃ v, Writes req Reg.UMP.UMP_CTRL s ∧ bit v 1 = false ∧ bit v 2 = true)
    ∧ (∃ (s : State), umpRuns s = true ∧ umpFrozen s = true ∧ s.ump.frozenAt + s.fld Reg.UMP.FREEZE_MAX 15 0 * 1000000 ≤ s.time)
    ∧ (∃ (s : State), umpRuns s = true ∧ ∃ c, s.ump.copy = some c ∧ dramAwake s = true ∧ creditTurn s (.load Page.UMP) = true)
    ∧ (∃ (s : State), ∃ req, ∃ n, n < 8 ∧ ReadsOf req (Reg.UMP.WIN n) s) :=
  ⟨⟨{ live [] with ump := { State.reset.ump with fifo := [⟨note0 1, false⟩] }, time := 0 }, by decide +kernel, _, _, cons_of (by decide +kernel),
      by decide +kernel⟩,
    ⟨{ live [(Reg.UMP.UMP_CTRL, 1#32)] with
      ump := { State.reset.ump with fifo := [⟨note0 4, false⟩] }, time := 0 }, by decide +kernel, _, _, cons_of (by decide +kernel), by
        decide +kernel⟩,
    ⟨{ live [(Reg.UMP.UMP_CTRL, 1#32)] with
      ump := { State.reset.ump with fifo := [⟨note0 1, false⟩] }, time := 0 }, by decide +kernel, _, _, cons_of (by decide +kernel), by
        decide +kernel⟩,
    ⟨live [], .cox, 1#32, writes_of (by decide +kernel), by decide +kernel⟩,
    ⟨live [], .cox, 0#32, writes_of (by decide +kernel), by decide +kernel⟩,
    ⟨live [], .cox, 2#32, writes_of (by decide +kernel), by decide +kernel, if_pos (by decide +kernel), by decide +kernel⟩,
    ⟨live [], .keel, 2#32, writes_of (by decide +kernel), by decide +kernel, if_pos (by decide +kernel), by decide +kernel⟩,
    ⟨live [], .cox, 4#32, writes_of (by decide +kernel), by decide +kernel⟩,
    ⟨{ live [(Reg.UMP.UMP_CTRL, 1#32), (Reg.UMP.FREEZE_MAX, 1#32)] with time := 1000000 }, by decide +kernel⟩,
    ⟨{ live [] with ump := { (live []).ump with copy := some ⟨0, 1, 0, []⟩ } }, by decide +kernel, _, some_of (by decide +kernel), by
        decide +kernel⟩,
    ⟨live [], .cox, 7, by decide +kernel, reads_of (by decide +kernel)⟩⟩

theorem test_witness_JournalCommands :
    (∃ (s : State), ∃ e, crewRuns s e = true ∧ jrnlState s = 1 ∧ s.crew.writing = none ∧ sectorDue s = true ∧ (ringBlocked s s.crew.nextSector &&
        !(journalMembers s).isEmpty) = false ∧ dramAwake s = true ∧ creditTurn s (.load Page.JRNL) = true)
    ∧ (∃ (s : State), ∃ e, crewRuns s e = true ∧ jrnlState s = 1 ∧ s.crew.writing = none ∧ sectorDue s = true ∧ (ringBlocked s s.crew.nextSector
        && !(journalMembers s).isEmpty) = true ∧ s.crew.fullSaid = false)
    ∧ (∃ (s : State), ∃ e, (e < 8 ∧ crewRuns s e = true) ∧ ∃ w, (crewDrain s).crew.writing = some w ∧ w.tagA = none ∧ w.tagB = none)
    ∧ (∃ (s : State), ∃ req, ∃ v, Writes req Reg.JRNL.CMD s ∧ bit v 0 = true ∧ locOk s = true)
    ∧ (∃ (s : State), ∃ req, ∃ v, Writes req Reg.JRNL.CMD s ∧ bit v 0 = true ∧ locOk s = false)
    ∧ (∃ (s : State), ∃ req, ∃ v, Writes req Reg.JRNL.CMD s ∧ bit v 1 = true ∧ jrnlState s = 1)
    ∧ (∃ (s : State), pageOn s Page.JRNL = true ∧ s.crew.closing = true ∧ s.crew.open_ = [] ∧ s.crew.writing = none)
    ∧ (∃ (s : State), ∃ req, ∃ v, Writes req Reg.JRNL.CMD s ∧ bit v 2 = true ∧ ∃ e, crewEngine s = some e ∧ (s.crew.replay = none ∧ fld v 5 4 =
        0) ∧ (((dramRecords s).any fun r => !recordSound r) = false))
    ∧ (∃ (s : State), ∃ e, crewEngine s = some e) :=
  ⟨⟨{ (drive [(Reg.JRNL.JRNL_CFG, 0x10001#32)]).critPut 16 1#32 with
    crew := { Crew.reset with open_ := [⟨0, 0, [], none, 0⟩] } }, 0, by decide +kernel⟩,
    ⟨{ ((drive [(Reg.JRNL.JRNL_CFG, 0x10001#32)]).critPut 16 1#32).critPut 15 0x80#32 with
      crew := { Crew.reset with open_ := [⟨0, 0, [], (some 0), 0⟩, ⟨0, 0, [], none, 0⟩] } }, 0, by decide +kernel⟩,
    ⟨{ (drive [(Reg.JRNL.JRNL_CFG, 0x10001#32)]).critPut 16 1#32 with
      crew := { Crew.reset with writing := some ⟨0, none, none, (0, 0)⟩ } }, 7, by decide +kernel, _, some_of (by decide +kernel), by
        decide +kernel⟩,
    ⟨(drive []).critPut 15 0x8180#32, .cox, 1#32, writes_of (by decide +kernel), by decide +kernel⟩,
    ⟨live [], .cox, 1#32, writes_of (by decide +kernel), by decide +kernel⟩,
    ⟨(drive [(Reg.JRNL.JRNL_CFG, 0x10001#32)]).critPut 16 1#32, .cox, 2#32, writes_of (by decide +kernel), by decide +kernel⟩,
    ⟨{ (drive [(Reg.JRNL.JRNL_CFG, 0x10001#32)]).critPut 16 1#32 with
      crew := { Crew.reset with closing := true } }, by decide +kernel⟩,
    ⟨drive [(Reg.CTRL (Page.CREW 0), 1#32)], .cox, 4#32, writes_of (by decide +kernel), by decide +kernel, _, some_of (by decide +kernel), by
        decide +kernel, by rw [no_records rfl]; rfl⟩,
    ⟨drive [(Reg.CTRL (Page.CREW 0), 1#32)], _, some_of (by decide +kernel)⟩⟩

theorem test_witness_OarCommands :
    (∃ (s : State), ∃ o, ∃ e, (oarRuns s o = true ∧ pwrFailing s = false) ∧ ∃ j, (oar (passageEnd o s) o).job = some j ∧ ∃ y, entry (passageEnd o
        s) o e = some y ∧ ∃ p, readPurpose (passageEnd o s) (jobType j) y = some p ∧ y.inJob = true ∧ setUp (passageEnd o s) o j = true
        ∧ comesUnder (passageEnd o s) (entryStart (passageEnd o s) o y) = true)
    ∧ (∃ (s : State), ∃ o, ∃ e, (oarRuns s o = true ∧ pwrFailing s = false) ∧ ∃ j, (oar (askWrite o (passageEnd o s)) o).job = some j ∧ jobType j
        = 2 ∧ ∃ y, entry (askWrite o (passageEnd o s)) o e = some y ∧ setUp (askWrite o (passageEnd o s)) o j = true ∧ inSafe (askWrite o
        (passageEnd o s)) = false ∧ j.wantWrite = true ∧ y.inJob = true ∧ writesAhead 2 y = true ∧ comesUnder (askWrite o
        (passageEnd o s)) (entryStart (askWrite o (passageEnd o s)) o y) = true)
    ∧ (∃ (s : State), ∃ o, ∃ e, oarRuns s o = true ∧ ∃ x, entry s o e = some x ∧ ∃ host, x.landing = some host ∧ ((((maskRanges (landMask x)
        8).flatMap (partGranules x)).find? fun g => !granValid s g) = none) ∧ x.reading ≠ 1)
    ∧ (∃ (s : State), ∃ o, (o < 16 ∧ engineTakes s (0x10 + o) = true ∧ (oar s o).job = none ∧ pwrFailing s = false ∧ portSettling s (oarAct o)
        (oarSlot o) = false) ∧ ∃ it, qFront (oarJobQ o) s = some it ∧ ∃ x, ∃ t, qNext (oarJobQ o) s = some (x, t) ∧ ∃ c, ∃ fe, jobFault s o
        (asJob it.words) = some (c, fe))
    ∧ (∃ (s : State), ∃ o, (o < 16 ∧ engineTakes s (0x10 + o) = true ∧ (oar s o).job = none ∧ pwrFailing s = false ∧ portSettling s (oarAct o)
        (oarSlot o) = false) ∧ ∃ it, qFront (oarJobQ o) s = some it ∧ ∃ x, ∃ t, qNext (oarJobQ o) s = some (x, t) ∧ jobFault s o (asJob it.words)
        = none ∧ readyFor s o (asJob it.words) = true)
    ∧ (∃ (s : State), ∃ o, oarRuns s o = true ∧ ∃ j, (oar (passageEnd o s) o).job = some j ∧ jobType j ≠ 8 ∧ jobRemaining (passageEnd o s) o = 0)
    ∧ (∃ (s : State), ∃ req, ∃ o, ∃ v, (o < 16 ∧ bit v 0 = true) ∧ Writes req (Reg.OAR.ZT_CTRL o) s ∧ o % 4 = 0 ∧ s.bit (Reg.OAR.ZT_CTRL o) 0 =
        false ∧ gateEnabled s o = false)
    ∧ (∃ (s : State), ∃ req, ∃ o, ∃ v, (o < 16 ∧ bit v 0 = true) ∧ Writes req (Reg.OAR.ZT_CTRL o) s ∧ o % 4 = 0 ∧ s.bit (Reg.OAR.ZT_CTRL o) 0 =
        false ∧ gateEnabled s o = true)
    ∧ (∃ (s : State), ∃ o, (firstOar o = true ∧ oarRuns s o = true ∧ s.bit (Reg.OAR.ZT_CTRL o) 0 = true ∧ dramAwake s = true ∧ creditTurn
        s (.load (Page.OAR o)) = true) ∧ ∃ r, fetchWords false (0x10 + o) (s.reg64 (Reg.OAR.ZT_ADDR_LO o) % 0x10000000000 / 64 * 64) 0xC10
        (takeCredit (.load (Page.OAR o)) s) = r ∧ zoneFault r.1 r.2.1 = none)
    ∧ (∃ (s : State), ∃ req, ∃ o, ∃ v, (o < 16 ∧ bit v 0 = true) ∧ Writes req (Reg.OAR.RT_CTRL o) s ∧ o % 4 = 0 ∧ s.bit (Reg.OAR.RT_CTRL o) 0 =
        false ∧ gateEnabled s o = false)
    ∧ (∃ (s : State), ∃ o, (firstOar o = true ∧ oarRuns s o = true ∧ s.bit (Reg.OAR.RT_CTRL o) 0 = true ∧ dramAwake s = true ∧ creditTurn
        s (.load (Page.OAR o)) = true) ∧ ∃ r, fetchRelocs o (takeCredit (.load (Page.OAR o)) s) = r ∧ relocFault
        r.1 r.2.1 = none)
    ∧ (∃ (s : State), ∃ req, ∃ o, ∃ v, o < 16 ∧ Writes req (Reg.OAR.RT_ADD o 3) s ∧ o % 4 = 0 ∧ ∃ r, r = [s.reg (Reg.OAR.RT_ADD o 0), s.reg
        (Reg.OAR.RT_ADD o 1), s.reg (Reg.OAR.RT_ADD o 2), v] ∧ relocResult (oar s o).relocs r = 0 ∧ (((oar s o).relocs.any fun x => relocKey x ==
        relocKey r) = false))
    ∧ (∃ (s : State), ∃ req, ∃ o, ∃ v, o < 16 ∧ Writes req (Reg.OAR.RT_ADD o 3) s ∧ o % 4 = 0 ∧ ∃ r, r = [s.reg (Reg.OAR.RT_ADD o 0), s.reg
        (Reg.OAR.RT_ADD o 1), s.reg (Reg.OAR.RT_ADD o 2), v] ∧ (relocResult (oar s o).relocs r = 2 ∨ relocResult (oar s o).relocs r = 3))
    ∧ (∃ (s : State), ∃ req, ∃ o, o < 16 ∧ Writes req (Reg.OAR.SW_CTRL o) s) :=
  ⟨⟨{ drive [(Reg.KEEL.PHASE, 0x400001#32), (Reg.KEEL.SPEED, 0x1C200000#32)] with
    oars := [(0,
      { Oar.reset with job := some ⟨[word (1 * 256 + 15)], true, [], 0, false⟩, entries := [(0, some { anEntry 1 with inJob := true })] })], time
      := 1000000000 }, 0, 0, by decide +kernel, _, some_of (by decide +kernel), _, some_of (by decide +kernel), _, some_of (by decide +kernel),
      by decide +kernel⟩,
    ⟨{ drive [(Reg.KEEL.PHASE, 0x400001#32), (Reg.KEEL.SPEED, 0x1C200000#32)] with
      oars := [(0,
        { Oar.reset with job := some ⟨[word (2 * 256 + 15)], true, [], 0, false⟩, entries := [(0, some { anEntry 1 with inJob := true })] })],
        time := 1000000000 }, 0, 0, by decide +kernel, _, some_of (by decide +kernel), by decide +kernel, _, some_of (by decide +kernel), by
        decide +kernel⟩,
    ⟨{ drive [] with
      oars := [(0, { Oar.reset with entries := [(0, some { anEntry 1 with landing := some [] })] })] }, 0, 0, by decide +kernel, _, some_of (by
        decide +kernel), _, some_of (by decide +kernel), by decide +kernel⟩,
    ⟨withQ (.oarJob 0) { HwQueue.reset with items := [item [0x60F#32] 0 0x24] }
        ({ drive [(Reg.CTRL (Page.OAR 0), 1#32)] with oars := [(0, { Oar.reset with })] }), 0, by decide +kernel, _, some_of (by decide +kernel),
        _, _, pair_of (by decide +kernel), _, _, pair_of (by decide +kernel)⟩,
    ⟨{ withQ (.oarJob 0)
        { HwQueue.reset with items := [item [0x50F#32, 0#32, 0#32, 0x10000#32, 0#32, 0#32, 0#32, 0#32, 0#32, 0#32, 0#32, 0#32, 0#32, 0#32, 0#32, 0#32] 0 0x24] }
        ({ drive [(Reg.CTRL (Page.OAR 0), 1#32), (Reg.PRE.SLOT_MAP 0, 0x10000#32), (Reg.OAR.ZT_RPM 0, 1#32), (Reg.KEEL.SPEED, 0x10000#32)] with oars := [(0, { Oar.reset with zones := [(0, [0x80010000#32, 0#32])], entries := [(0, some (anEntry 8))] })] })
        with
      rudders := [(0, { Rudder.reset with slots := [(0, { RudSlot.empty with used := true, onTrack := true })] })] }, 0, by decide +kernel, _,
        some_of (by decide +kernel), _, _, pair_of (by decide +kernel), by decide +kernel⟩,
    ⟨{ drive [] with
      oars := [(0,
        { Oar.reset with job := some ⟨[word (1 * 256 + 15)], true, [], 0, false⟩, entries := [(0, some { anEntry 10 with inJob := true })] })],
        time := 1000000000 }, 0, by decide +kernel, _, some_of (by decide +kernel), by decide +kernel⟩,
    ⟨drive [], .cox, 0, 1#32, by decide +kernel, writes_of (by decide +kernel), by decide +kernel⟩,
    ⟨drive [(Reg.CTRL (Page.GATE 0), 1#32)], .cox, 0, 1#32, by decide +kernel, writes_of (by decide +kernel), by decide +kernel⟩,
    ⟨ztReady, 0, by decide +kernel, zone_witness⟩,
    ⟨drive [], .cox, 12, 1#32, by decide +kernel, writes_of (by decide +kernel), by decide +kernel⟩,
    ⟨rtReady, 0, by decide +kernel, _, rfl, by decide +kernel⟩,
    ⟨drive [(Reg.OAR.RT_ADD 0 0, 0x80000000#32)], .cox, 0, 1#32, by decide +kernel, writes_of (by decide +kernel), by decide +kernel, _, rfl, by
        decide +kernel⟩,
    ⟨drive [(Reg.OAR.RT_ADD 0 0, 0x80000000#32)], .cox, 0, 0#32, by decide +kernel, writes_of (by decide +kernel), by decide +kernel, _, rfl, by
        decide +kernel⟩,
    ⟨drive [], .cox, 0, by decide +kernel, writes_of (by decide +kernel)⟩⟩

theorem test_witness_SafeStoreCommands_1 :
    (∃ (s : State), ∃ d, s.safe.dump = some d ∧ pageOn s Page.SAFE = true ∧ d.ended = false ∧ d.again = false ∧ d.todo = [])
    ∧ (∃ (s : State), ∃ d, s.safe.dump = some d ∧ (pageOn s Page.SAFE = true ∧ d.ended = false ∧ d.again = false) ∧ ∃ k, blockPlace s d.area
        d.place = some k)
    ∧ (∃ (s : State), ∃ d, s.safe.dump = some d ∧ pageOn s Page.SAFE = true ∧ d.ended = false ∧ d.again = true)
    ∧ (∃ (s : State), ∃ d, s.safe.dump = some d ∧ d.ended = true)
    ∧ (∃ (s : State), ∃ req, ∃ v, Writes req Reg.SAFE.CMD s ∧ blockAlive s Page.SAFE = true ∧ (s.safe.dump.isSome || s.safe.running.isSome) =
        true ∧ fld v 2 0 = 1)
    ∧ (∃ (s : State), ∃ req, ∃ v, Writes req Reg.SAFE.CMD s ∧ blockAlive s Page.SAFE = true ∧ (s.safe.dump.isSome || s.safe.running.isSome) =
        true ∧ fld v 2 0 = 2)
    ∧ (∃ (s : State), ∃ req, ∃ v, Writes req Reg.SAFE.CMD s ∧ blockAlive s Page.SAFE = true ∧ (s.safe.dump.isSome || s.safe.running.isSome) =
        true ∧ fld v 2 0 = 3)
    ∧ (∃ (s : State), ∃ req, ∃ v, Writes req Reg.SAFE.CMD s ∧ blockAlive s Page.SAFE = true ∧ (s.safe.dump.isSome || s.safe.running.isSome) =
        true ∧ fld v 2 0 = 5)
    ∧ (∃ (s : State), ∃ req, ∃ v, Writes req Reg.SAFE.CMD s ∧ blockAlive s Page.SAFE = true ∧ s.safe.dump = none ∧ s.safe.running = none ∧ fld v
        2 0 = 1)
    ∧ (∃ (s : State), ∃ req, ∃ v, Writes req Reg.SAFE.CMD s ∧ blockAlive s Page.SAFE = true ∧ s.safe.dump = none ∧ s.safe.running = none ∧ fld v
        2 0 = 2)
    ∧ (∃ (s : State), ∃ req, ∃ v, Writes req Reg.SAFE.CMD s ∧ (blockAlive s Page.SAFE = true ∧ s.safe.dump = none ∧ s.safe.running = none ∧ fld v
        2 0 = 3) ∧ ∃ a, ∃ h, s.safe.newest = some (a, h) ∧ s.critFld 20 2 0 = 2 ∧ sectionsFit (busOk 0#32 s) (dirSections h) (dumpTable (busOk
        0#32 s) a h) = true)
    ∧ (∃ (s : State), ∃ req, ∃ v, Writes req Reg.SAFE.CMD s ∧ blockAlive s Page.SAFE = true ∧ s.safe.dump = none ∧ s.safe.running = none ∧ fld v
        2 0 = 3 ∧ s.safe.newest = none)
    ∧ (∃ (s : State), ∃ req, ∃ v, Writes req Reg.SAFE.CMD s ∧ blockAlive s Page.SAFE = true ∧ s.safe.dump = none ∧ s.safe.running = none ∧ fld v
        2 0 = 4)
    ∧ (∃ (s : State), ∃ req, ∃ v, Writes req Reg.SAFE.CMD s ∧ blockAlive s Page.SAFE = true ∧ s.safe.dump = none ∧ s.safe.running = none ∧ fld v
        2 0 = 5)
    ∧ (∃ (s : State), ∃ req, ∃ v, Writes req Reg.SAFE.CMD s ∧ blockAlive s Page.SAFE = true ∧ s.safe.dump = none ∧ s.safe.running = none ∧ fld v
        2 0 = 6) :=
  ⟨⟨{ live [] with
    safe := { SafeStore.reset with dump := some ⟨1, 0, 0, 0, [], 0, 0, false, [], false, 0#32, 0⟩ }, time := 0 }, _, some_of (by decide +kernel),
      by decide +kernel⟩,
    ⟨{ live [(Reg.SAFE.AREA_SIZE, 2#32)] with
      safe :=
        { SafeStore.reset with dump := some ⟨1, 0, 0, 0, [], 0, 0, false, [], false, 0#32, 0⟩, nand := { Nand.blank with blocks := 64, perBlock := 64 } },
        time := 0 }, _, some_of (by decide +kernel), by decide +kernel, _, some_of (by decide +kernel)⟩,
    ⟨{ live [] with
      safe := { SafeStore.reset with dump := some ⟨1, 0, 0, 0, [], 0, 0, true, [], false, 0#32, 0⟩ }, time := 0 }, _, some_of (by
        decide +kernel), by decide +kernel⟩,
    ⟨{ live [] with
      safe := { SafeStore.reset with dump := some ⟨1, 0, 0, 0, [], 0, 0, false, [], true, 0#32, 0⟩ }, time := 0 }, _, some_of (by
        decide +kernel), by decide +kernel⟩,
    ⟨{ live [] with safe := { SafeStore.reset with running := some 2 }, time := 0 }, .cox, 1#32, writes_of (by decide +kernel), by
        decide +kernel⟩,
    ⟨{ live [] with safe := { SafeStore.reset with running := some 2 }, time := 0 }, .cox, 2#32, writes_of (by decide +kernel), by
        decide +kernel⟩,
    ⟨{ live [] with safe := { SafeStore.reset with running := some 2 }, time := 0 }, .cox, 3#32, writes_of (by decide +kernel), by
        decide +kernel⟩,
    ⟨{ live [] with safe := { SafeStore.reset with running := some 2 }, time := 0 }, .cox, 5#32, writes_of (by decide +kernel), by
        decide +kernel⟩,
    ⟨live [], .cox, 1#32, writes_of (by decide +kernel), by decide +kernel⟩,
    ⟨live [], .cox, 2#32, writes_of (by decide +kernel), by decide +kernel⟩,
    ⟨({ live [] with safe := { SafeStore.reset with newest := some (0, []) }, time := 0 }).critPut 20 2#32, .cox, 3#32, writes_of (by
        decide +kernel), by decide +kernel, _, _, pair_of (by decide +kernel), by decide +kernel⟩,
    ⟨live [], .cox, 3#32, writes_of (by decide +kernel), by decide +kernel⟩,
    ⟨live [], .cox, 4#32, writes_of (by decide +kernel), by decide +kernel⟩,
    ⟨live [], .cox, 5#32, writes_of (by decide +kernel), by decide +kernel⟩,
    ⟨live [], .cox, 6#32, writes_of (by decide +kernel), by decide +kernel⟩⟩

theorem test_witness_SafeStoreCommands_2 :
    (∃ (s : State), ∃ req, ∃ v, Writes req Reg.SAFE.CMD s ∧ blockAlive s Page.SAFE = true ∧ s.safe.dump = none ∧ s.safe.running = none ∧ (fld v 2
        0 = 0 ∨ fld v 2 0 = 7))
    ∧ (∃ (s : State), blockAlive s Page.SAFE = true ∧ s.safe.running = some 2)
    ∧ (∃ (s : State), blockAlive s Page.SAFE = true ∧ s.safe.found = true ∧ s.safe.testTime + s.fld Reg.SAFE.HEALTH_CFG 15 0 * 60000000000 ≤
        s.time ∧ s.safe.dump = none)
    ∧ (∃ (s : State), blockAlive s Page.SAFE = true ∧ s.safe.found = true ∧ s.safe.testTime + s.fld Reg.SAFE.HEALTH_CFG 15 0 * 60000000000 ≤
        s.time ∧ s.safe.dump.isSome = true)
    ∧ (∃ (s : State), s.safe.running = some 3 ∧ ∃ a, ∃ h, s.safe.newest = some (a, h) ∧ blockAlive s Page.SAFE = true ∧ dramReady s = true)
    ∧ (∃ (s : State), blockAlive s Page.SAFE = true ∧ s.safe.running = some 4 ∧ s.safe.waiting = [] ∧ s.safe.cutting.any (stillCut s) = false) :=
  ⟨⟨live [], .cox, 7#32, writes_of (by decide +kernel), by decide +kernel⟩,
    ⟨{ live [] with safe := { SafeStore.reset with running := some 2 }, time := 0 }, by decide +kernel⟩,
    ⟨{ live [] with safe := { SafeStore.reset with found := true }, time := 1000000000000000000 }, by decide +kernel⟩,
    ⟨{ live [] with
      safe := { SafeStore.reset with found := true, dump := some ⟨1, 0, 0, 0, [], 0, 0, false, [], false, 0#32, 0⟩ }, time := 1000000000000000000
        }, by decide +kernel⟩,
    ⟨{ ram [] with safe := { SafeStore.reset with running := some 3, newest := some (0, []) }, time := 0 }, by decide +kernel, _, _, pair_of (by
        decide +kernel), by decide +kernel⟩,
    ⟨{ live [] with safe := { SafeStore.reset with running := some 4 }, time := 0 }, by decide +kernel⟩⟩

theorem test_witness_PowerCommands_1 :
    (∃ (s : State), ∃ v12, ∃ ns, s.chip.held = none ∧ pwrFailing s = false ∧ 1000 ≤ ns ∧ v12 < s.fld Reg.PWR.SUPPLY_CFG 15 0)
    ∧ (∃ (s : State), ∃ v12, ∃ v5, ∃ ns, s.chip.held = none ∧ pwrFailing s = false ∧ 1000 ≤ ns ∧ s.fld Reg.PWR.SUPPLY_CFG 15 0 ≤ v12 ∧ v5 < s.fld
        Reg.PWR.SUPPLY_CFG2 15 0)
    ∧ (∃ (s : State), ∃ us, s.chip.held = none ∧ pwrFailing s = false ∧ 100 ≤ us)
    ∧ (∃ (s : State), s.chip.held = none)
    ∧ (∃ (s : State), ∃ r, (keelAlive s = true ∧ ((r = true ∨ s.keel.reserveTime + 100000000 ≤ s.time))) ∧ ∃ n, n = reserveMj (s.reg
        Reg.KEEL.INERTIA).toNat (keelSpeed s) (rpmUnits (s.fld Reg.KEEL.GEN_CFG 27 16)) (s.fld Reg.KEEL.RESERVE_CFG 6 0) (s.fld Reg.KEEL.DRAG_MW
        15 0) (s.fld Reg.KEEL.RESERVE_CFG 31 16) (s.fld Reg.KEEL.RESERVE_GUARD 15 0) ∧ s.reg Reg.KEEL.RESERVE_MJ ≠ word n)
    ∧ (∃ (s : State), ∃ r, (keelAlive s = true ∧ ((r = true ∨ s.keel.reserveTime + 100000000 ≤ s.time))) ∧ ∃ n, n = reserveMj (s.reg
        Reg.KEEL.INERTIA).toNat (keelSpeed s) (rpmUnits (s.fld Reg.KEEL.GEN_CFG 27 16)) (s.fld Reg.KEEL.RESERVE_CFG 6 0) (s.fld Reg.KEEL.DRAG_MW
        15 0) (s.fld Reg.KEEL.RESERVE_CFG 31 16) (s.fld Reg.KEEL.RESERVE_GUARD 15 0) ∧ s.reg Reg.KEEL.RESERVE_MJ = word n)
    ∧ (∃ (s : State), ∃ req, ∃ (addr : Addr), ∃ k, addrKey addr = some k ∧ critWordOf k = some 21 ∧ Writes req k s)
    ∧ (∃ (s : State), ∃ req, ∃ (addr : Addr), ∃ k, addrKey addr = some k ∧ critWordOf k = some 22 ∧ Writes req k s)
    ∧ (∃ (s : State), (powerRuns s = true ∧ wbFault s = none ∧ ((mode s = 1 ∨ isLevel (mode s) = true)) ∧ wbActive s = false) ∧ ∃ u,
        s.power.wbSince = some u ∧ u + s.fld Reg.PWR.WB_CFG 15 0 * 1000000 ≤ s.time)
    ∧ (∃ (s : State), ∃ req, ∃ (addr : Addr), ∃ k, addrKey addr = some k ∧ critWordOf k = some 1 ∧ Writes req k s ∧ powerRuns s = true)
    ∧ (∃ (s : State), levelsRun s = true)
    ∧ (∃ (s : State), levelsRun s = true ∧ s.power.trigger.isSome = true ∧ s.power.entering = none ∧ s.power.exiting = none ∧ isLevel (mode s) =
        true)
    ∧ (∃ (s : State), ∃ req, ∃ v, Writes req Reg.PWR.DOMAIN_REQ s ∧ (mode s = 0 ∨ mode s = 8) ∧ bit v 31 = false)
    ∧ (∃ (s : State), ∃ req, ∃ v, Writes req Reg.PWR.DOMAIN_REQ s ∧ (mode s = 0 ∨ mode s = 8) ∧ bit v 31 = true)
    ∧ (∃ (s : State), ∃ req, ∃ v, Writes req Reg.PWR.DOMAIN_REQ s ∧ mode s ≠ 0 ∧ mode s ≠ 8 ∧ bit v 31 = false) :=
  ⟨⟨live [(Reg.PWR.SUPPLY_CFG, 100#32)], 10, 1000, by decide +kernel⟩,
    ⟨live [(Reg.PWR.SUPPLY_CFG, 100#32), (Reg.PWR.SUPPLY_CFG2, 100#32)], 100, 10, 1000, by decide +kernel⟩,
    ⟨live [], 100, by decide +kernel⟩,
    ⟨live [], by decide +kernel⟩,
    ⟨live [(Reg.KEEL.RESERVE_MJ, 5#32)], true, by decide +kernel, _, rfl, by decide +kernel⟩,
    ⟨live [], true, by decide +kernel, _, rfl, by decide +kernel⟩,
    ⟨live [], .cox, BitVec.ofNat _ (0x20000000 + Reg.BOAT.DIRTY_LIMIT), _, some_of (by decide +kernel), by decide +kernel, writes_of (by
        decide +kernel)⟩,
    ⟨live [], .cox, BitVec.ofNat _ (0x20000000 + Reg.BOAT.WB_STATE), _, some_of (by decide +kernel), by decide +kernel, writes_of (by
        decide +kernel)⟩,
    ⟨{ ((ram [(Reg.SAFE.HEALTH_STATUS, 1#32), (Reg.PWR.COVER, 0xFFF#32)]).critPut 22 1#32).critPut 0 1#32 with
      power := { Power.reset with wbSince := some 0 }, time := 1000000000000 }, by decide +kernel, _, some_of (by decide +kernel), by
        decide +kernel⟩,
    ⟨live [], .cox, BitVec.ofNat _ (0x20000000 + Reg.PWR.MODE_TARGET), _, some_of (by decide +kernel), by decide +kernel, writes_of (by
        decide +kernel), by decide +kernel⟩,
    ⟨(live []).critPut 0 1#32, by decide +kernel⟩,
    ⟨{ (live []).critPut 0 2#32 with power := { Power.reset with trigger := some 0 } }, by decide +kernel⟩,
    ⟨live [], .cox, 4#32, writes_of (by decide +kernel), by decide +kernel⟩,
    ⟨live [], .cox, 0x80000004#32, writes_of (by decide +kernel), by decide +kernel⟩,
    ⟨(live []).critPut 0 1#32, .cox, 4#32, writes_of (by decide +kernel), by decide +kernel⟩⟩

theorem test_witness_PowerCommands_2 :
    (∃ (s : State), ∃ d, powerRuns s = true ∧ d < 20 ∧ domainOn s d = true)
    ∧ (∃ (s : State), ∃ c, ∃ rest, s.safePending = c :: rest) :=
  ⟨⟨live [], 19, by decide +kernel⟩,
    ⟨{ live [] with safePending := [1] }, _, _, cons_of (by decide +kernel)⟩⟩

theorem test_witness_BridgeFrames :
    (∃ (s : State), s.rigger.badToRigger = false ∧ s.rigger.asked = RigAsk.none ∧ s.rigger.autonomous = false)
    ∧ (∃ (s : State), s.rigger.badToRigger = false ∧ s.rigger.asked = RigAsk.none ∧ s.rigger.autonomous = true)
    ∧ (∃ (s : State), s.rigger.badToRigger = false ∧ s.rigger.asked = { RigAsk.none with resume := true } ∧ s.rigger.autonomous = true)
    ∧ (∃ (s : State), s.rigger.badToRigger = false ∧ s.rigger.asked = { RigAsk.none with chopClear := true })
    ∧ (∃ (s : State) (m : RiggerMirror) (ma : Nat), s.rigger.badToRigger = false ∧ s.rigger.asked = { RigAsk.none with test := some ma } ∧ rigIMin s ≤ ma
        ∧ m.busMv < rigChopOn s)
    ∧ (∃ (s : State) (m : RiggerMirror) (ma : Nat), s.rigger.badToRigger = false ∧ s.rigger.asked = { RigAsk.none with test := some ma } ∧ (ma < rigIMin s
        ∨ rigChopOn s ≤ m.busMv))
    ∧ (∃ (s : State), s.rigger.badToRigger = false)
    ∧ (∃ (s : State), s.rigger.badToCore = false)
    ∧ (∃ (s : State), s.rigger.badToCore = false ∧ s.rigger.autonomous = false ∧ s.rigger.chopNew = false ∧ s.rigger.faultNew = false ∧
        s.rigger.tripNew = false ∧ s.bit Reg.DRV.BRIDGE_STAT 1 = false ∧ (s.rigger.vcrit && drivesBridge (keelState s)) = false)
    ∧ (∃ (s : State), s.rigger.badToRigger = false)
    ∧ (∃ (s : State), s.rigger.badToRigger = true)
    ∧ (∃ (s : State), s.rigger.badToCore = false)
    ∧ (∃ (s : State), s.rigger.badToCore = true)
    ∧ (∃ ns, 2000 ≤ ns)
    ∧ (∃ ns, ns < 2000)
    ∧ (∃ (s : State), ∃ req, ∃ v, Writes req Reg.DRV.BRIDGE_CTRL s ∧ bit v 0 = true ∧ bit v 1 = false ∧ (linkUp s && s.rigger.hears &&
        s.rigger.autonomous) = true)
    ∧ (∃ (s : State), ∃ req, ∃ v, Writes req Reg.DRV.BRIDGE_CTRL s ∧ bit v 0 = true ∧ bit v 1 = false ∧ (linkUp s && s.rigger.hears &&
        s.rigger.autonomous) = false) :=
  ⟨⟨live [], by decide +kernel⟩,
    ⟨{ live [] with rigger := { Rigger.reset with autonomous := true } }, by decide +kernel⟩,
    ⟨{ live [] with rigger := { Rigger.reset with autonomous := true, asked := { RigAsk.none with resume := true } } }, by decide +kernel⟩,
    ⟨{ live [] with rigger := { Rigger.reset with asked := { RigAsk.none with chopClear := true } } }, by decide +kernel⟩,
    ⟨{ live [] with rigger := { Rigger.reset with asked := { RigAsk.none with test := some 1000 } } }, ⟨0, 0, 0⟩, 1000, by decide +kernel⟩,
    ⟨{ live [(Reg.DRV.CHOP_CFG, 100#32)] with
      rigger := { Rigger.reset with asked := { RigAsk.none with test := some 1000 } } }, ⟨0xFFFF, 0, 0⟩, 1000, by decide +kernel⟩,
    ⟨live [], by decide +kernel⟩,
    ⟨live [], by decide +kernel⟩,
    ⟨{ live [(Reg.STATUS Page.KEEL, 0x300#32)] with rigger := { Rigger.reset with vcrit := false } }, by decide +kernel⟩,
    ⟨live [], by decide +kernel⟩,
    ⟨{ live [] with rigger := { Rigger.reset with badToRigger := true } }, by decide +kernel⟩,
    ⟨live [], by decide +kernel⟩,
    ⟨{ live [] with rigger := { Rigger.reset with badToCore := true } }, by decide +kernel⟩,
    ⟨2000, by decide +kernel⟩,
    ⟨1999, by decide +kernel⟩,
    ⟨{ live [(Reg.DRV.BRIDGE_STAT, 1#32)] with
      rigger := { Rigger.reset with autonomous := true, hears := true } }, .cox, 1#32, writes_of (by decide +kernel), by decide +kernel⟩,
    ⟨live [], .cox, 1#32, writes_of (by decide +kernel), by decide +kernel⟩⟩

theorem test_witness_ChopperAndTrips :
    (∃ (s : State), ∃ req, ∃ v, Writes req Reg.DRV.BRIDGE_CTRL s ∧ bit v 0 = false ∧ bit v 1 = true ∧ busMv s < vChopOn s)
    ∧ (∃ (s : State), ∃ req, ∃ v, Writes req Reg.DRV.BRIDGE_CTRL s ∧ bit v 0 = false ∧ bit v 1 = true ∧ vChopOn s ≤ busMv s)
    ∧ (∃ (s : State), ∃ code, (code = 1 ∨ code = 3 ∨ code = 2 ∧ keelState s = 6) ∧ ∃ u, (u = modRigger (fun r => { r with
        spindleOn := false, coilsOn := r.coilsOn && code != 3, rigCode := code, coil := if code = 3 then [] else r.coil }) s) ∧ (keelState s = 0
        ∨ keelAlive s = false))
    ∧ (∃ (s : State), ∃ code, (code = 1 ∨ code = 3 ∨ code = 2 ∧ keelState s = 6) ∧ ∃ u, (u = modRigger (fun r => { r with
        spindleOn := false, coilsOn := r.coilsOn && code != 3, rigCode := code, coil := if code = 3 then [] else r.coil }) s) ∧ keelState s ≠ 0 ∧
        keelAlive s = true)
    ∧ (∃ (s : State), ∃ req, ∃ (addr : Addr), ∃ k, addrKey addr = some k ∧ (addr.toNat % 4 = 0 ∧ (critWordOf k = some 7 ∨ critWordOf k = some 8 ∨
        critWordOf k = some 9)) ∧ Writes req k s)
    ∧ (∃ (s : State), ∃ mv, rigChopOn s < mv ∧ s.rigger.chopFault = false ∧ s.rigger.chopOn = false)
    ∧ (∃ (s : State), s.rigger.chopNew = true ∧ (s.rigger.chopSaid && episodeState (keelState s)) = false)
    ∧ (∃ (s : State), ∃ mv, s.rigger.chopOn = true ∧ mv + rigHyst s < rigChopOn s)
    ∧ (∃ (s : State), ∃ ma, ∃ code, s.rigger.chopOn = true ∧ 5000 ≤ s.time - s.rigger.chopTime ∧ ma < rigIMin s ∧ code = 1)
    ∧ (∃ (s : State), ∃ ma, ∃ mv, ∃ code, s.rigger.chopOn = true ∧ (s.time - s.rigger.chopTime < 5000 ∨ rigIMin s ≤ ma) ∧ 50000 ≤ s.time -
        s.rigger.chopTime ∧ s.rigger.chopMv + 50 < mv ∧ code = 2)
    ∧ (∃ (s : State), ∃ u, s.rigger.faultNew = true ∧ u = lasting Page.DRV 3 s.rigger.chopKind {} (modRigger (fun r => { r with faultNew := false })
        s) ∧ keelState s = 5 ∧ keelAlive u = true)
    ∧ (∃ (s : State), ∃ u, s.rigger.faultNew = true ∧ u = lasting Page.DRV 3 s.rigger.chopKind {} (modRigger (fun r => { r with faultNew := false })
        s) ∧ (keelState s ≠ 5 ∨ keelAlive u = false))
    ∧ (∃ (s : State), ∃ mv, rigCrit s < mv)
    ∧ (∃ (s : State), ∃ u, s.rigger.tripNew = true ∧ u = lasting Page.DRV 4 0 {} (modRigger (fun r => { r with tripNew := false }) s) ∧ keelAlive u =
        true)
    ∧ (∃ (s : State), ∃ u, s.rigger.tripNew = true ∧ u = lasting Page.DRV 4 0 {} (modRigger (fun r => { r with tripNew := false }) s) ∧ keelAlive u =
        false) :=
  ⟨⟨live [(Reg.DRV.BRIDGE_STAT, 1#32)], .cox, 2#32, writes_of (by decide +kernel), by decide +kernel⟩,
    ⟨live [(Reg.DRV.BUS_V, 0xFFFF#32)], .cox, 2#32, writes_of (by decide +kernel), by decide +kernel⟩,
    ⟨live [], 3, by decide +kernel, _, rfl, by decide +kernel⟩,
    ⟨live [(Reg.STATUS Page.KEEL, 0x600#32)], 2, by decide +kernel, _, rfl, by decide +kernel⟩,
    ⟨live [], .cox, BitVec.ofNat _ (0x20000000 + Reg.DRV.V_CRIT), _, some_of (by decide +kernel), by decide +kernel, writes_of (by
        decide +kernel)⟩,
    ⟨live [(Reg.DRV.BRIDGE_STAT, 1#32)], 20000, by decide +kernel⟩,
    ⟨{ live [(Reg.STATUS Page.KEEL, 0x600#32)] with rigger := { Rigger.reset with chopNew := true } }, by decide +kernel⟩,
    ⟨{ live [(Reg.DRV.BRIDGE_STAT, 1#32)] with rigger := { Rigger.reset with chopOn := true }, time := 0 }, 0, by decide +kernel⟩,
    ⟨{ live [(Reg.DRV.BRIDGE_STAT, 1#32), (Reg.DRV.CHOP_CFG, 100#32)] with
      rigger := { Rigger.reset with chopOn := true }, time := 5000 }, 0, 1, by decide +kernel⟩,
    ⟨{ live [(Reg.DRV.BRIDGE_STAT, 1#32), (Reg.DRV.CHOP_CFG, 100#32)] with
      rigger := { Rigger.reset with chopOn := true }, time := 50000 }, 100, 51, 2, by decide +kernel⟩,
    ⟨{ live [(Reg.STATUS Page.KEEL, 0x500#32)] with rigger := { Rigger.reset with faultNew := true } }, _, by decide +kernel, rfl, by
        decide +kernel⟩,
    ⟨{ live [] with rigger := { Rigger.reset with faultNew := true } }, _, by decide +kernel, rfl, by decide +kernel⟩,
    ⟨live [(Reg.DRV.BRIDGE_STAT, 1#32)], 20000, by decide +kernel⟩,
    ⟨{ live [] with rigger := { Rigger.reset with tripNew := true } }, _, by decide +kernel, rfl, by decide +kernel⟩,
    ⟨{ State.reset with rigger := { Rigger.reset with tripNew := true } }, _, by decide +kernel, rfl, by decide +kernel⟩⟩

theorem test_witness_KeelCommands_1 :
    (∃ (s : State), ∃ req, ∃ v, Writes req Reg.KEEL.CMD s ∧ keelAlive s = true ∧ fld v 3 0 = 1 ∧ (¬ (keelState s = 0 ∨ keelState s = 8)))
    ∧ (∃ (s : State), ∃ req, ∃ v, Writes req Reg.KEEL.CMD s ∧ keelAlive s = true ∧ fld v 3 0 = 1 ∧ ((keelState s = 0 ∨ keelState s = 8)) ∧
        vcritLatched s = false ∧ s.critVal 5 = 0#32)
    ∧ (∃ (s : State), ∃ req, ∃ v, Writes req Reg.KEEL.CMD s ∧ keelAlive s = true ∧ fld v 3 0 = 1 ∧ ((keelState s = 0 ∨ keelState s = 8)) ∧
        vcritLatched s = false ∧ s.critVal 5 ≠ 0#32 ∧ motorReady s = false)
    ∧ (∃ (s : State), ∃ req, ∃ v, Writes req Reg.KEEL.CMD s ∧ keelAlive s = true ∧ ∃ rpm, (fld v 3 0 = 1 ∧ keelState s = 0 ∧ vcritLatched s =
        false ∧ s.critVal 5 ≠ 0#32 ∧ motorReady s = true ∧ 10800 ≤ busMv s) ∧ ∃ u, (u = modKeel (fun k => { k with
      runStart := some s.time, returns := 0, restartPending := false, exhausted := false, stopKept := false, failRun := 0, target := (s.critVal
        5).toNat, wedgeOffset := none, raw := none }) (busOk 0#32 s)) ∧ rpm < 300)
    ∧ (∃ (s : State), ∃ req, ∃ v, Writes req Reg.KEEL.CMD s ∧ keelAlive s = true ∧ ∃ rpm, (fld v 3 0 = 1 ∧ keelState s = 0 ∧ vcritLatched s =
        false ∧ s.critVal 5 ≠ 0#32 ∧ motorReady s = true ∧ 10800 ≤ busMv s) ∧ ∃ u, (u = modKeel (fun k => { k with
      runStart := some s.time, returns := 0, restartPending := false, exhausted := false, stopKept := false, failRun := 0, target := (s.critVal
        5).toNat, wedgeOffset := none, raw := none }) (busOk 0#32 s)) ∧ 300 ≤ rpm)
    ∧ (∃ (s : State), ∃ req, ∃ v, Writes req Reg.KEEL.CMD s ∧ keelAlive s = true ∧ fld v 3 0 = 2 ∧ (keelState s = 1 ∨ keelState s = 2 ∨ keelState
        s = 3 ∨ keelState s = 4 ∨ keelState s = 7))
    ∧ (∃ (s : State), ∃ req, ∃ v, Writes req Reg.KEEL.CMD s ∧ keelAlive s = true ∧ fld v 3 0 = 2 ∧ (keelState s = 0 ∨ keelState s = 5 ∨ keelState
        s = 6 ∨ keelState s = 8))
    ∧ (∃ (s : State), ∃ req, ∃ v, Writes req Reg.KEEL.CMD s ∧ keelAlive s = true ∧ fld v 3 0 = 3 ∧ keelState s = 0)
    ∧ (∃ (s : State), ∃ req, ∃ v, Writes req Reg.KEEL.CMD s ∧ keelAlive s = true ∧ fld v 3 0 = 3 ∧ keelState s ≠ 0)
    ∧ (∃ (s : State), ∃ req, ∃ v, Writes req Reg.KEEL.CMD s ∧ keelAlive s = true ∧ fld v 3 0 = 4 ∧ ((keelState s = 0 ∨ keelState s = 3)) ∧
        vcritLatched s = false)
    ∧ (∃ (s : State), ∃ req, ∃ v, Writes req Reg.KEEL.CMD s ∧ keelAlive s = true ∧ fld v 3 0 = 4 ∧ (¬ (keelState s = 0 ∨ keelState s = 3)))
    ∧ (∃ (s : State), ∃ req, ∃ v, Writes req Reg.KEEL.CMD s ∧ keelAlive s = true ∧ fld v 3 0 = 5 ∧ keelState s = 7 ∧ vcritLatched s = false ∧
        s.critVal 5 ≠ 0#32)
    ∧ (∃ (s : State), ∃ req, ∃ v, Writes req Reg.KEEL.CMD s ∧ keelAlive s = true ∧ fld v 3 0 = 5 ∧ keelState s = 8 ∧ vcritLatched s = false ∧
        s.critVal 5 ≠ 0#32)
    ∧ (∃ (s : State), ∃ req, ∃ v, Writes req Reg.KEEL.CMD s ∧ keelAlive s = true ∧ fld v 3 0 = 5 ∧ keelState s ≠ 7 ∧ keelState s ≠ 8)
    ∧ (∃ (s : State), ∃ req, ∃ v, Writes req Reg.KEEL.CMD s ∧ keelAlive s = true ∧ (fld v 3 0 = 0 ∨ 5 < fld v 3 0)) :=
  ⟨⟨live [(Reg.STATUS Page.KEEL, 0x200#32)], .cox, 1#32, writes_of (by decide +kernel), by decide +kernel⟩,
    ⟨live [], .cox, 1#32, writes_of (by decide +kernel), by decide +kernel⟩,
    ⟨(live []).critPut 5 0x4B00000#32, .cox, 1#32, writes_of (by decide +kernel), by decide +kernel⟩,
    ⟨({ live [(Reg.KEEL.MOTOR_R, 1#32), (Reg.KEEL.MOTOR_L, 1#32), (Reg.KEEL.MOTOR_FLUX, 0x80001#32), (Reg.DRV.BUS_V, 10800#32)] with
      keel := { Keel.reset with inertiaSet := true } } : State).critPut 5 0x4B00000#32, .cox, 1#32, writes_of (by decide +kernel), by
        decide +kernel, 299, by decide +kernel, _, rfl, by decide +kernel⟩,
    ⟨({ live [(Reg.KEEL.MOTOR_R, 1#32), (Reg.KEEL.MOTOR_L, 1#32), (Reg.KEEL.MOTOR_FLUX, 0x80001#32), (Reg.DRV.BUS_V, 10800#32)] with
      keel := { Keel.reset with inertiaSet := true } } : State).critPut 5 0x4B00000#32, .cox, 1#32, writes_of (by decide +kernel), by
        decide +kernel, 300, by decide +kernel, _, rfl, by decide +kernel⟩,
    ⟨live [(Reg.STATUS Page.KEEL, 0x700#32)], .cox, 2#32, writes_of (by decide +kernel), by decide +kernel⟩,
    ⟨live [(Reg.STATUS Page.KEEL, 0x800#32)], .cox, 2#32, writes_of (by decide +kernel), by decide +kernel⟩,
    ⟨live [], .cox, 3#32, writes_of (by decide +kernel), by decide +kernel⟩,
    ⟨live [(Reg.STATUS Page.KEEL, 0x300#32)], .cox, 3#32, writes_of (by decide +kernel), by decide +kernel⟩,
    ⟨live [(Reg.STATUS Page.KEEL, 0x300#32)], .cox, 4#32, writes_of (by decide +kernel), by decide +kernel⟩,
    ⟨live [(Reg.STATUS Page.KEEL, 0x400#32)], .cox, 4#32, writes_of (by decide +kernel), by decide +kernel⟩,
    ⟨(live [(Reg.STATUS Page.KEEL, 0x700#32)]).critPut 5 0x4B00000#32, .cox, 5#32, writes_of (by decide +kernel), by decide +kernel⟩,
    ⟨(live [(Reg.STATUS Page.KEEL, 0x800#32)]).critPut 5 0x4B00000#32, .cox, 5#32, writes_of (by decide +kernel), by decide +kernel⟩,
    ⟨live [], .cox, 5#32, writes_of (by decide +kernel), by decide +kernel⟩,
    ⟨live [], .cox, 6#32, writes_of (by decide +kernel), by decide +kernel⟩⟩

theorem test_witness_KeelCommands_2 :
    (∃ (s : State), ∃ req, ∃ (addr : Addr), ∃ v, ∃ k, addrKey addr = some k ∧ (addr.toNat % 4 = 0 ∧ critWordOf k = some 5) ∧ Writes req k s ∧ v =
        0#32 ∧ ∃ u, u = tuneTrip Page.KEEL 4 0 ((busOk 0#32 s).critPut 5 0#32) ∧ (¬ (keelState u = 3 ∧ keelAlive u = true)))
    ∧ (∃ (s : State), ∃ req, ∃ (addr : Addr), ∃ v, ∃ k, addrKey addr = some k ∧ (addr.toNat % 4 = 0 ∧ critWordOf k = some 5) ∧ Writes req k s ∧ v
        = 0#32 ∧ ∃ u, u = tuneTrip Page.KEEL 4 0 ((busOk 0#32 s).critPut 5 0#32) ∧ keelState u = 3 ∧ keelAlive u = true)
    ∧ (∃ (s : State), ∃ req, ∃ (addr : Addr), ∃ v, ∃ k, addrKey addr = some k ∧ (addr.toNat % 4 = 0 ∧ critWordOf k = some 5) ∧ Writes req k s ∧ v
        ≠ 0#32 ∧ ((v.toNat < 1200 * 65536 ∨ 7800 * 65536 < v.toNat)))
    ∧ (∃ (s : State), ∃ req, ∃ (addr : Addr), ∃ (v : Word), ∃ k, addrKey addr = some k ∧ (addr.toNat % 4 = 0 ∧ critWordOf k = some 5) ∧ Writes
        req k s ∧ 1200 * 65536 ≤ v.toNat ∧ v.toNat ≤ 7800 * 65536)
    ∧ (∃ (s : State), ∃ req, ∃ v, Writes req Reg.KEEL.REF_CFG s ∧ bit v 0 = true) :=
  ⟨⟨live [], .cox, BitVec.ofNat _ (0x20000000 + Reg.KEEL.SPD_TARGET), 0#32, _, some_of (by decide +kernel), by decide +kernel, writes_of (by
      decide +kernel), by decide +kernel, _, rfl, by decide +kernel⟩,
    ⟨live [(Reg.STATUS Page.KEEL, 0x300#32)], .cox, BitVec.ofNat _ (0x20000000 + Reg.KEEL.SPD_TARGET), 0#32, _, some_of (by decide +kernel), by
        decide +kernel, writes_of (by decide +kernel), by decide +kernel, _, rfl, by decide +kernel⟩,
    ⟨live [], .cox, BitVec.ofNat _ (0x20000000 + Reg.KEEL.SPD_TARGET), 0x1E780001#32, _, some_of (by decide +kernel), by decide +kernel,
        writes_of (by decide +kernel), by decide +kernel⟩,
    ⟨live [], .cox, BitVec.ofNat _ (0x20000000 + Reg.KEEL.SPD_TARGET), 0x4B00000#32, _, some_of (by decide +kernel), by decide +kernel, writes_of
        (by decide +kernel), by decide +kernel⟩,
    ⟨live [], .cox, 1#32, writes_of (by decide +kernel), by decide +kernel⟩⟩

/-- A motor and a bus that RUN takes, the least target, and these registers. -/
def motorSet (rs : List (Nat × Word)) : State :=
  ({ live ([(Reg.KEEL.MOTOR_R, 1#32), (Reg.KEEL.MOTOR_L, 1#32), (Reg.KEEL.MOTOR_FLUX, 0x80001#32), (Reg.DRV.BUS_V, 10800#32)] ++ rs) with
    keel := { Keel.reset with inertiaSet := true } } : State).critPut 5 0x4B00000#32

theorem test_witness_KeelCommandsComplete :
    (∃ (s : State) (req : Requester) (v : Word) (rpm : Nat) (u : State), Writes req Reg.KEEL.CMD s ∧ fld v 3 0 = 1 ∧ (keelAlive s = true ∧ keelState
        s = 0 ∧ vcritLatched s = false ∧ s.critVal 5 ≠ 0#32 ∧ motorReady s = true ∧ 10800 ≤ busMv s) ∧ u = modKeel (fun k => { k with
        runStart := some s.time, returns := 0, restartPending := false, exhausted := false, stopKept := false, failRun := 0, target := (s.critVal
        5).toNat, wedgeOffset := none, raw := none }) (busOk 0#32 s) ∧ rpm < 300)
    ∧ (∃ (s : State) (req : Requester) (v : Word) (rpm : Nat) (u : State), Writes req Reg.KEEL.CMD s ∧ fld v 3 0 = 1 ∧ (keelAlive s = true ∧ keelState
        s = 0 ∧ vcritLatched s = false ∧ s.critVal 5 ≠ 0#32 ∧ motorReady s = true ∧ 10800 ≤ busMv s) ∧ u = modKeel (fun k => { k with
        runStart := some s.time, returns := 0, restartPending := false, exhausted := false, stopKept := false, failRun := 0, target := (s.critVal
        5).toNat, wedgeOffset := none, raw := none }) (busOk 0#32 s) ∧ 300 ≤ rpm)
    ∧ (∃ (s : State) (req : Requester) (v : Word) (u : State), Writes req Reg.KEEL.CMD s ∧ fld v 3 0 = 1 ∧ (keelAlive s = true ∧ keelState s = 8 ∧
        vcritLatched s = false ∧ s.critVal 5 ≠ 0#32 ∧ motorReady s = true) ∧ u = modKeel (fun k => { k with runStart := some s.time
                                                                                                            returns := 0
                                                                                                            restartPending := false
                                                                                                            exhausted := false
                                                                                                            stopKept := false
                                                                                                            failRun := 0
                                                                                                            target := (s.critVal 5).toNat })
        (busOk 0#32 s))
    ∧ (∃ (s : State), ∃ req, ∃ v, Writes req Reg.KEEL.CMD s ∧ fld v 3 0 = 2 ∧ keelAlive s = true ∧ keelState s ∈ [1, 2, 3, 4, 7])
    ∧ (∃ (s : State), ∃ req, ∃ v, Writes req Reg.KEEL.CMD s ∧ fld v 3 0 = 3 ∧ keelAlive s = true ∧ keelState s ≠ 0)
    ∧ (∃ (s : State), ∃ req, ∃ v, Writes req Reg.KEEL.CMD s ∧ fld v 3 0 = 4 ∧ keelAlive s = true ∧ (keelState s = 0 ∨ keelState s = 3) ∧
        vcritLatched s = false)
    ∧ (∃ (s : State), ∃ req, ∃ v, Writes req Reg.KEEL.CMD s ∧ fld v 3 0 = 5 ∧ keelAlive s = true ∧ keelState s = 7 ∧ vcritLatched s = false ∧
        s.critVal 5 ≠ 0#32)
    ∧ (∃ (s : State), ∃ req, ∃ v, Writes req Reg.KEEL.CMD s ∧ fld v 3 0 = 5 ∧ keelAlive s = true ∧ keelState s = 8 ∧ vcritLatched s = false ∧
        s.critVal 5 ≠ 0#32)
    ∧ (∃ (s : State), ∃ req, ∃ v, Writes req Reg.KEEL.CMD s ∧ (fld v 3 0 = 0 ∨ 5 < fld v 3 0) ∧ keelAlive s = true)
    ∧ (∃ (s : State), ∃ req, ∃ (addr : Addr), ∃ (v : Word), ∃ k, addrKey addr = some k ∧ (addr.toNat % 4 = 0 ∧ critWordOf k = some 5) ∧ Writes req k s
        ∧ keelAlive s = true ∧ keelState s ≠ 4 ∧ keelState s ≠ 7 ∧ 1200 * 65536 ≤ v.toNat ∧ v.toNat ≤ 7800 * 65536)
    ∧ (∃ (s : State), ∃ req, ∃ (addr : Addr), ∃ (v : Word), ∃ k, addrKey addr = some k ∧ (addr.toNat % 4 = 0 ∧ critWordOf k = some 5) ∧ Writes req k s
        ∧ v = 0#32 ∧ keelState s ≠ 3)
    ∧ (∃ (s : State), ∃ req, ∃ v, Writes req Reg.KEEL.REF_CFG s ∧ bit v 0 = true ∧ holds req 0 1 s = true ∧ (usesCt3 (s.critFld 6 1 0) = true →
        holds req 1 1 s = true)) :=
  ⟨⟨motorSet [], .cox, 1#32, 299, _, writes_of (by decide +kernel), by decide +kernel, by decide +kernel, rfl, by decide +kernel⟩,
    ⟨motorSet [], .cox, 1#32, 300, _, writes_of (by decide +kernel), by decide +kernel, by decide +kernel, rfl, by decide +kernel⟩,
    ⟨motorSet [(Reg.STATUS Page.KEEL, 0x800#32)], .cox, 1#32, _, writes_of (by decide +kernel), by decide +kernel, by decide +kernel, rfl⟩,
    ⟨live [(Reg.STATUS Page.KEEL, 0x700#32)], .cox, 2#32, writes_of (by decide +kernel), by decide +kernel⟩,
    ⟨live [(Reg.STATUS Page.KEEL, 0x800#32)], .cox, 3#32, writes_of (by decide +kernel), by decide +kernel⟩,
    ⟨live [(Reg.STATUS Page.KEEL, 0x300#32)], .cox, 4#32, writes_of (by decide +kernel), by decide +kernel⟩,
    ⟨(live [(Reg.STATUS Page.KEEL, 0x700#32)]).critPut 5 1#32, .cox, 5#32, writes_of (by decide +kernel), by decide +kernel⟩,
    ⟨(live [(Reg.STATUS Page.KEEL, 0x800#32)]).critPut 5 1#32, .cox, 5#32, writes_of (by decide +kernel), by decide +kernel⟩,
    ⟨live [], .cox, 6#32, writes_of (by decide +kernel), by decide +kernel⟩,
    ⟨live [(Reg.STATUS Page.KEEL, 0x300#32)], .cox, BitVec.ofNat _ (0x20000000 + Reg.KEEL.SPD_TARGET), 0x4B00000#32, _, some_of (by
        decide +kernel), by decide +kernel, writes_of (by decide +kernel), by decide +kernel⟩,
    ⟨live [], .cox, BitVec.ofNat _ (0x20000000 + Reg.KEEL.SPD_TARGET), 0#32, _, some_of (by decide +kernel), by decide +kernel, writes_of (by
        decide +kernel), by decide +kernel⟩,
    ⟨live [(Reg.CLAIM.CLAIM_STATE 0, 0x80000102#32)], .stroke 0, 1#32, writes_of (by decide +kernel), by decide +kernel⟩⟩

theorem test_witness_KeelPeriods_1 :
    (∃ (s : State), keelAlive s = true)
    ∧ (∃ (s : State), keelAlive s = true ∧ keelLocked s = false ∧ s.fld Reg.KEEL.LOCK_CFG 23 16 ≤ s.keel.lockRun)
    ∧ (∃ (s : State), ∃ (x : Fin 6), ∃ (e : BitVec 16), keelAlive s = true
        ∧ ∃ pos, pos = (resolvePole (x.val * 65536 + e.toNat) s + s.keel.wedgeOffset.getD 0) % revUnits ∧ s.fld (Reg.TUNE.TR_LEVEL Page.KEEL) 9 0
        ≠ pos / 4096)
    ∧ (∃ (s : State), keelAlive s = true ∧ s.fld (Reg.STATUS Page.KEEL) 17 16 = 0 ∧ s.keel.csPhase = 0 ∧ 8 ≤ s.keel.csBad)
    ∧ (∃ (s : State), (keelAlive s = true ∧ s.keel.csPhase = 2 ∧ 8 ≤ s.keel.csCount) ∧ ∃ u, (u = modKeel (fun k =>
        { k with csPhase := 0, csCount := 0, csBad := 0 }) s) ∧ s.keel.csU = false ∧ s.keel.csV = false)
    ∧ (∃ (s : State), (keelAlive s = true ∧ s.keel.csPhase = 2 ∧ 8 ≤ s.keel.csCount) ∧ ∃ u, (u = modKeel (fun k =>
        { k with csPhase := 0, csCount := 0, csBad := 0 }) s) ∧ s.keel.csU = true ∧ s.keel.csV = false)
    ∧ (∃ (s : State), (keelAlive s = true ∧ s.keel.csPhase = 2 ∧ 8 ≤ s.keel.csCount) ∧ ∃ u, (u = modKeel (fun k =>
        { k with csPhase := 0, csCount := 0, csBad := 0 }) s) ∧ s.keel.csU = false ∧ s.keel.csV = true)
    ∧ (∃ (s : State), (keelAlive s = true ∧ s.keel.csPhase = 2 ∧ 8 ≤ s.keel.csCount) ∧ ∃ u, (u = modKeel (fun k =>
        { k with csPhase := 0, csCount := 0, csBad := 0 }) s) ∧ s.keel.csU = true ∧ s.keel.csV = true)
    ∧ (∃ (s : State), keelAlive s = true ∧ keelState s = 2 ∧ 16 ≤ s.keel.handoverRun)
    ∧ (∃ (s : State), keelAlive s = true ∧ keelState s = 2 ∧ s.keel.openStart + 2000000000 ≤ s.time ∧ s.keel.returns < 3)
    ∧ (∃ (s : State), keelAlive s = true ∧ keelState s = 2 ∧ s.keel.openStart + 2000000000 ≤ s.time ∧ 3 ≤ s.keel.returns)
    ∧ (∃ (s : State), (keelAlive s = true ∧ keelLocked s = false) ∧ ∃ u, s.keel.runStart = some u ∧ u + s.fld Reg.KEEL.SPINUP_CFG2 23 16 *
        1000000000 ≤ s.time ∧ keelState s ≠ 8)
    ∧ (∃ (s : State), (keelAlive s = true ∧ keelLocked s = false) ∧ ∃ u, s.keel.runStart = some u ∧ u + s.fld Reg.KEEL.SPINUP_CFG2 23 16 *
        1000000000 ≤ s.time ∧ keelState s = 8)
    ∧ (∃ (s : State), (keelAlive s = true ∧ 3 ≤ s.keel.overRun) ∧ ∃ u, u = estimateLostEvent (keelUnlock (s.setBit (Reg.STATUS Page.KEEL) 14
        false)) ∧ keelState s = 2)
    ∧ (∃ (s : State), (keelAlive s = true ∧ 3 ≤ s.keel.overRun) ∧ ∃ u, u = estimateLostEvent (keelUnlock (s.setBit (Reg.STATUS Page.KEEL) 14
        false)) ∧ (keelState s = 3 ∨ keelState s = 5 ∨ keelState s = 7) ∧ rpmUnits (s.fld Reg.KEEL.OBS_CFG 27 16) ≤ keelSpeed s) :=
  ⟨⟨live [], by decide +kernel⟩,
    ⟨{ live [(Reg.KEEL.LOCK_CFG, 0x10000#32)] with keel := { Keel.reset with lockRun := 1 } }, by decide +kernel⟩,
    ⟨live [], 3, 0#16, by decide +kernel, _, rfl, by decide +kernel⟩,
    ⟨{ live [(Reg.STATUS Page.KEEL, 0x000#32)] with keel := { Keel.reset with csBad := 8 }, time := 0 }, by decide +kernel⟩,
    ⟨{ live [(Reg.STATUS Page.KEEL, 0x000#32)] with
      keel := { Keel.reset with csPhase := 2, csCount := 8, csU := false, csV := false }, time := 0 }, by decide +kernel, _, rfl, by
        decide +kernel⟩,
    ⟨{ live [(Reg.STATUS Page.KEEL, 0x000#32)] with
      keel := { Keel.reset with csPhase := 2, csCount := 8, csU := true, csV := false }, time := 0 }, by decide +kernel, _, rfl, by
        decide +kernel⟩,
    ⟨{ live [(Reg.STATUS Page.KEEL, 0x000#32)] with
      keel := { Keel.reset with csPhase := 2, csCount := 8, csU := false, csV := true }, time := 0 }, by decide +kernel, _, rfl, by
        decide +kernel⟩,
    ⟨{ live [(Reg.STATUS Page.KEEL, 0x000#32)] with
      keel := { Keel.reset with csPhase := 2, csCount := 8, csU := true, csV := true }, time := 0 }, by decide +kernel, _, rfl, by
        decide +kernel⟩,
    ⟨{ live [(Reg.STATUS Page.KEEL, 0x200#32)] with
      keel := { Keel.reset with handoverRun := 16 }, time := 0 }, by decide +kernel⟩,
    ⟨{ live [(Reg.STATUS Page.KEEL, 0x200#32)] with
      keel := { Keel.reset with returns := 2 }, time := 2000000000 }, by decide +kernel⟩,
    ⟨{ live [(Reg.STATUS Page.KEEL, 0x200#32)] with
      keel := { Keel.reset with returns := 3 }, time := 2000000000 }, by decide +kernel⟩,
    ⟨{ live [(Reg.STATUS Page.KEEL, 0x300#32)] with
      keel := { Keel.reset with runStart := some 0 }, time := 1000000000000 }, by decide +kernel, _, some_of (by decide +kernel), by
        decide +kernel⟩,
    ⟨{ live [(Reg.STATUS Page.KEEL, 0x800#32)] with
      keel := { Keel.reset with runStart := some 0 }, time := 1000000000000 }, by decide +kernel, _, some_of (by decide +kernel), by
        decide +kernel⟩,
    ⟨{ live [(Reg.STATUS Page.KEEL, 0x200#32)] with keel := { Keel.reset with overRun := 3 }, time := 0 }, by decide +kernel, _, rfl, by
        decide +kernel⟩,
    ⟨{ live [(Reg.STATUS Page.KEEL, 0x500#32), (Reg.KEEL.SPEED, 0xFFFFFFFF#32)] with
      keel := { Keel.reset with overRun := 3 }, time := 0 }, by decide +kernel, _, rfl, by decide +kernel⟩⟩

theorem test_witness_KeelPeriods_2 :
    (∃ (s : State), (keelAlive s = true ∧ 3 ≤ s.keel.overRun) ∧ ∃ u, u = estimateLostEvent (keelUnlock (s.setBit (Reg.STATUS Page.KEEL) 14
        false)) ∧ keelState s = 3 ∧ keelSpeed s < rpmUnits (s.fld Reg.KEEL.OBS_CFG 27 16))
    ∧ (∃ (s : State), (keelAlive s = true ∧ 3 ≤ s.keel.overRun) ∧ ∃ u, u = estimateLostEvent (keelUnlock (s.setBit (Reg.STATUS Page.KEEL) 14
        false)) ∧ (keelState s = 5 ∨ keelState s = 7) ∧ keelSpeed s < rpmUnits (s.fld Reg.KEEL.OBS_CFG 27 16))
    ∧ (∃ (s : State), (keelAlive s = true ∧ s.keel.reacqStep = 5 ∧ 360 ≤ s.keel.goodDeg ∧ s.time ≤ s.keel.reacqStart + 4 * electricalNs s) ∧ ∃ u,
        (u = modKeel (fun k => { k with reacqStep := 0, failRun := 0, overRun := 0 }) (transient Page.KEEL 3 0
        { p0 := word (s.time - s.keel.reacqStart) } (s.count Reg.KEEL.REACQ_COUNT 1))) ∧ keelState s = 7)
    ∧ (∃ (s : State), (keelAlive s = true ∧ s.keel.reacqStep = 5 ∧ 360 ≤ s.keel.goodDeg ∧ s.time ≤ s.keel.reacqStart + 4 * electricalNs s) ∧ ∃ u,
        (u = modKeel (fun k => { k with reacqStep := 0, failRun := 0, overRun := 0 }) (transient Page.KEEL 3 0
        { p0 := word (s.time - s.keel.reacqStart) } (s.count Reg.KEEL.REACQ_COUNT 1))) ∧ keelState s = 4 ∧ s.keel.returnState = 3)
    ∧ (∃ (s : State), (keelAlive s = true ∧ s.keel.reacqStep = 5 ∧ 360 ≤ s.keel.goodDeg ∧ s.time ≤ s.keel.reacqStart + 4 * electricalNs s) ∧ ∃ u,
        (u = modKeel (fun k => { k with reacqStep := 0, failRun := 0, overRun := 0 }) (transient Page.KEEL 3 0
        { p0 := word (s.time - s.keel.reacqStart) } (s.count Reg.KEEL.REACQ_COUNT 1))) ∧ keelState s = 4 ∧ s.keel.returnState ≠ 3)
    ∧ (∃ (s : State), (keelAlive s = true ∧ s.keel.reacqStep ≠ 0 ∧ (keelState s = 4 ∨ keelState s = 7) ∧ s.keel.reacqStart + 4 * electricalNs s <
        s.time) ∧ ∃ u, (u = modKeel (fun k => { k with failTimes := (s.time :: k.failTimes).take 3, failRun := k.failRun + 1 }) (raise Page.KEEL
        4 0 s.keel.reacqAttempt {} s)) ∧ reacqFails u < 3)
    ∧ (∃ (s : State), (keelAlive s = true ∧ s.keel.reacqStep ≠ 0 ∧ (keelState s = 4 ∨ keelState s = 7) ∧ s.keel.reacqStart + 4 * electricalNs s <
        s.time) ∧ ∃ u, (u = modKeel (fun k => { k with failTimes := (s.time :: k.failTimes).take 3, failRun := k.failRun + 1 }) (raise Page.KEEL
        4 0 s.keel.reacqAttempt {} s)) ∧ 3 ≤ reacqFails u)
    ∧ (∃ (s : State), keelAlive s = true ∧ keelState s = 5 ∧ chopFaulty s = true)
    ∧ (∃ (s : State), keelAlive s = true ∧ keelState s = 5 ∧ chopFaulty s = false ∧ keelSpeed s ≤ rpmUnits (s.fld Reg.KEEL.DECEL_CFG 27 16))
    ∧ (∃ (s : State), keelAlive s = true ∧ keelState s = 8 ∧ s.keel.exhausted = true ∧ allParked s = true ∧ vcritLatched s = false)
    ∧ (∃ (s : State), ∃ ms, keelAlive s = true ∧ keelState s = 6 ∧ 500 ≤ ms)
    ∧ (∃ (s : State), keelAlive s = true ∧ keelState s = 7 ∧ keelSpeed s ≤ rpmUnits (s.fld Reg.KEEL.GEN_CFG 27 16))
    ∧ (∃ (s : State), ∃ p, keelAlive s = true ∧ 0 < p ∧ refSource s = 2)
    ∧ (∃ (s : State), (keelAlive s = true ∧ refSource s = 2) ∧ ∃ u, s.keel.lastEdge = some u ∧ u + 10000000 ≤ s.time)
    ∧ (∃ (s : State), (keelAlive s = true ∧ refSource s = 2) ∧ ∃ u, s.keel.lastEdge = some u ∧ s.time < u + 10000000) :=
  ⟨⟨{ live [(Reg.STATUS Page.KEEL, 0x300#32), (Reg.KEEL.OBS_CFG, 0x12C0000#32)] with
    keel := { Keel.reset with overRun := 3 }, time := 0 }, by decide +kernel, _, rfl, by decide +kernel⟩,
    ⟨{ live [(Reg.STATUS Page.KEEL, 0x700#32), (Reg.KEEL.OBS_CFG, 0x12C0000#32)] with
      keel := { Keel.reset with overRun := 3 }, time := 0 }, by decide +kernel, _, rfl, by decide +kernel⟩,
    ⟨{ live [(Reg.STATUS Page.KEEL, 0x700#32)] with
      keel := { Keel.reset with reacqStep := 5, goodDeg := 360, reacqStart := 0, returnState := 3 }, time := 0 }, by decide +kernel, _, rfl, by
        decide +kernel⟩,
    ⟨{ live [(Reg.STATUS Page.KEEL, 0x400#32)] with
      keel := { Keel.reset with reacqStep := 5, goodDeg := 360, reacqStart := 0, returnState := 3 }, time := 0 }, by decide +kernel, _, rfl, by
        decide +kernel⟩,
    ⟨{ live [(Reg.STATUS Page.KEEL, 0x400#32)] with
      keel := { Keel.reset with reacqStep := 5, goodDeg := 360, reacqStart := 0, returnState := 5 }, time := 0 }, by decide +kernel, _, rfl, by
        decide +kernel⟩,
    ⟨{ live [(Reg.STATUS Page.KEEL, 0x700#32), (Reg.KEEL.SPEED, 0xE10000#32), (Reg.KEEL.MOTOR_FLUX, 0x10001#32)] with
      keel := { Keel.reset with reacqStep := 1 }, time := 1000000000000 }, by decide +kernel, _, rfl, by decide +kernel⟩,
    ⟨{ live [(Reg.STATUS Page.KEEL, 0x400#32), (Reg.KEEL.SPEED, 0xE10000#32), (Reg.KEEL.MOTOR_FLUX, 0x10001#32)] with
      keel := { Keel.reset with reacqStep := 1, failRun := 2 }, time := 1000000000000 }, by decide +kernel, _, rfl, by decide +kernel⟩,
    ⟨live [(Reg.STATUS Page.KEEL, 0x500#32), (Reg.DRV.CHOP_STATUS, 2#32)], by decide +kernel⟩,
    ⟨live [(Reg.STATUS Page.KEEL, 0x500#32)], by decide +kernel⟩,
    ⟨{ live [(Reg.STATUS Page.KEEL, 0x800#32)] with
      keel := { Keel.reset with exhausted := true }, time := 0 }, by decide +kernel⟩,
    ⟨live [(Reg.STATUS Page.KEEL, 0x600#32)], 500, by decide +kernel⟩,
    ⟨live [(Reg.STATUS Page.KEEL, 0x700#32)], by decide +kernel⟩,
    ⟨(live [(Reg.KEEL.REF_CFG, 1#32)]).critPut 6 2#32, 1, by decide +kernel⟩,
    ⟨{ (live [(Reg.KEEL.REF_CFG, 1#32)]).critPut 6 2#32 with
      keel := { Keel.reset with lastEdge := some 0 }, time := 10000000 }, by decide +kernel, _, some_of (by decide +kernel), by decide +kernel⟩,
    ⟨{ (live [(Reg.KEEL.REF_CFG, 1#32)]).critPut 6 2#32 with
      keel := { Keel.reset with lastEdge := some 0 }, time := 9999999 }, by decide +kernel, _, some_of (by decide +kernel), by decide +kernel⟩⟩

theorem test_witness_KeelPeriods_3 :
    ∃ (s : State), keelAlive s = true ∧ refSource s = 3 :=
  ⟨(live [(Reg.KEEL.REF_CFG, 1#32)]).critPut 6 3#32, by decide +kernel⟩

theorem test_witness_RudderSamples_1 :
    (∃ (s : State), ∃ a, ∃ (w : WedgeIn), rudAlive s a = true ∧ ∃ n, n = nextWedge s a ∧ w.bankParity = false ∧ ∃ u0, (u0 = tuneGenerate
        (Page.RUDDER a) true (joinSlots a (modRud a (fun r => { r with wedge := n, sub := 0, windowRun := r.windowRun + 1, coilIma := w.coilMa })
        s))) ∧ ∃ u, (u = (if w.bankReread = true then transient (Page.RUDDER a) 12 3 {} u0 else u0)) ∧ w.bankReread = false ∧ (sendCouple a
        (wedgeByState a n w u)).fld (Reg.TUNE.TR_LEVEL (Page.RUDDER a)) 9 0 ≠ n)
    ∧ (∃ (s : State), ∃ a, ∃ (w : WedgeIn), rudAlive s a = true ∧ ∃ n, n = nextWedge s a ∧ w.bankParity = false ∧ ∃ u0, (u0 = tuneGenerate
        (Page.RUDDER a) true (joinSlots a (modRud a (fun r => { r with wedge := n, sub := 0, windowRun := r.windowRun + 1, coilIma := w.coilMa })
        s))) ∧ ∃ u, (u = (if w.bankReread = true then transient (Page.RUDDER a) 12 3 {} u0 else u0)) ∧ w.bankReread = true ∧ (sendCouple a
        (wedgeByState a n w u)).fld (Reg.TUNE.TR_LEVEL (Page.RUDDER a)) 9 0 ≠ n)
    ∧ (∃ (s : State), ∃ a, (rudState s a = 2 ∨ rudState s a = 3))
    ∧ (∃ (s : State), ∃ a, rudState s a = 4)
    ∧ (∃ (s : State), ∃ a, (rudState s a = 0 ∨ rudState s a = 7))
    ∧ (∃ (s : State), ∃ a, ∃ (w : SubIn), rudAlive s a = true ∧ ∃ u, (u = (List.range 4).foldl (fun t k => subSlot a w k t) (reactTerms a
        (tuneGenerate (Page.RUDDER a) false (joinSlots a (modRud a (fun r => { r with sub := (r.sub + 1) % 16 }) s))))) ∧ (rudState s a = 2 ∨ rudState s a = 3 ∨ (rudState s a = 1 ∧ (rud s a).acquired = true)))
    ∧ (∃ (s : State), ∃ a, ∃ (w : SubIn), rudAlive s a = true ∧ ∃ u, (u = (List.range 4).foldl (fun t k => subSlot a w k t) (reactTerms a
        (tuneGenerate (Page.RUDDER a) false (joinSlots a (modRud a (fun r => { r with sub := (r.sub + 1) % 16 }) s))))) ∧ (¬ (rudState s a = 2 ∨ rudState s a = 3 ∨ (rudState s a = 1 ∧ (rud s a).acquired = true))))
    ∧ (∃ (s : State), ∃ a, ∃ k, rudAlive s a = true ∧ k < 4 ∧ (rudSlot s a k).used = true ∧ 16 ≤ (rudSlot s a k).ssRun ∧ (rud s a).ssOff.contains
        (rudSlot s a k).head = false)
    ∧ (∃ (s : State), ∃ a, rudAlive s a = true ∧ 8 ≤ (rud s a).missedRun ∧ rudParked s a = false)
    ∧ (∃ (s : State), ∃ a, rudAlive s a = true ∧ (rudState s a = 2 ∨ rudState s a = 3) ∧ usedSlots s a ≠ [] ∧ s.fld (Reg.RUDDER.POS_CFG a) 3 0 ≤
        (rud s a).lostRun)
    ∧ (∃ (s : State), ∃ a, rudAlive s a = true ∧ rudState s a = 4 ∧ 4 ≤ (rud s a).huntGood ∧ (rud s a).huntRun ≤ 64)
    ∧ (∃ (s : State), ∃ a, rudAlive s a = true ∧ rudState s a = 4 ∧ 64 ≤ (rud s a).huntRun ∧ (¬ (4 ≤ (rud s a).huntGood ∧
        (rud s a).huntRun ≤ 64)))
    ∧ (∃ (s : State), ∃ a, ∃ k, (rudAlive s a = true ∧ k < 4 ∧ (rudSlot s a k).used = true ∧ (rudSlot s a k).onTrack = false ∧ rudShock s a =
        false ∧ s.fld (Reg.RUDDER.SETTLE_CFG a) 19 16 ≤ (rudSlot s a k).onRun) ∧ ∃ u, (u = modSlot a k (fun y => { y with onTrack := true }) s) ∧
        rudState s a = 3)
    ∧ (∃ (s : State), ∃ a, ∃ k, (rudAlive s a = true ∧ k < 4 ∧ (rudSlot s a k).used = true ∧ (rudSlot s a k).onTrack = false ∧ rudShock s a =
        false ∧ s.fld (Reg.RUDDER.SETTLE_CFG a) 19 16 ≤ (rudSlot s a k).onRun) ∧ ∃ u, (u = modSlot a k (fun y => { y with onTrack := true }) s) ∧
        rudState s a = 2 ∧ (((usedSlots u a).all fun j => (rudSlot u a j).onTrack) = false))
    ∧ (∃ (s : State), ∃ a, ∃ k, (rudAlive s a = true ∧ k < 4 ∧ (rudSlot s a k).used = true ∧ (rudSlot s a k).onTrack = false ∧ rudShock s a =
        false ∧ s.fld (Reg.RUDDER.SETTLE_CFG a) 19 16 ≤ (rudSlot s a k).onRun) ∧ ∃ u, (u = modSlot a k (fun y => { y with onTrack := true }) s) ∧
        rudState s a = 2 ∧ (((usedSlots u a).all fun j => (rudSlot u a j).onTrack) = true))
    ∧ (∃ (s : State), ∃ a, ∃ k, (rudAlive s a = true ∧ k < 4 ∧ (rudSlot s a k).used = true ∧ (rudSlot s a k).onTrack = false ∧ rudShock s a =
        false ∧ s.fld (Reg.RUDDER.SETTLE_CFG a) 19 16 ≤ (rudSlot s a k).onRun) ∧ ∃ u, (u = modSlot a k (fun y => { y with onTrack := true }) s) ∧
        rudState s a = 1 ∧ (rud s a).acquired = true ∧ (((usedSlots u a).all fun j => (rudSlot u a j).onTrack) = true)) :=
  ⟨⟨{ live [(Reg.STATUS (Page.RUDDER 0), 0x000#32)] with
    rudders := [(0, { Rudder.reset with arm := 0 })], time := 0 }, 0, ⟨[], false, 0, 0, false, false⟩, by decide +kernel, _, rfl, by
      decide +kernel, _, rfl, _, rfl, by decide +kernel⟩,
    ⟨{ live [(Reg.STATUS (Page.RUDDER 0), 0x000#32)] with
      rudders := [(0, { Rudder.reset with arm := 0 })], time := 0 }, 0, ⟨[], false, 0, 0, false, true⟩, by decide +kernel, _, rfl, by
        decide +kernel, _, rfl, _, rfl, by decide +kernel⟩,
    ⟨{ live [(Reg.STATUS (Page.RUDDER 0), 0x300#32)] with
      rudders := [(0, { Rudder.reset with arm := 0 })], time := 0 }, 0, by decide +kernel⟩,
    ⟨{ live [(Reg.STATUS (Page.RUDDER 0), 0x400#32)] with
      rudders := [(0, { Rudder.reset with arm := 0 })], time := 0 }, 0, by decide +kernel⟩,
    ⟨{ live [(Reg.STATUS (Page.RUDDER 0), 0x700#32)] with
      rudders := [(0, { Rudder.reset with arm := 0 })], time := 0 }, 0, by decide +kernel⟩,
    ⟨{ live [(Reg.STATUS (Page.RUDDER 0), 0x100#32)] with
      rudders := [(0, { Rudder.reset with acquired := true })], time := 0 }, 0, ⟨[]⟩, by decide +kernel, _, rfl, by decide +kernel⟩,
    ⟨{ live [(Reg.STATUS (Page.RUDDER 0), 0x400#32)] with
      rudders := [(0, { Rudder.reset with arm := 0 })], time := 0 }, 0, ⟨[]⟩, by decide +kernel, _, rfl, by decide +kernel⟩,
    ⟨{ live [(Reg.STATUS (Page.RUDDER 0), 0x300#32)] with
      rudders := [(0, { Rudder.reset with slots := [(3, { RudSlot.empty with used := true, ssRun := 16 })] })], time := 0 }, 0, 3, by
        decide +kernel⟩,
    ⟨{ live [(Reg.STATUS (Page.RUDDER 0), 0x300#32)] with
      rudders := [(0, { Rudder.reset with missedRun := 8 })], time := 0 }, 0, by decide +kernel⟩,
    ⟨{ live [(Reg.STATUS (Page.RUDDER 0), 0x300#32)] with
      rudders := [(0, { Rudder.reset with lostRun := 16, slots := [(3, { RudSlot.empty with used := true })] })], time := 0 }, 0, by
        decide +kernel⟩,
    ⟨{ live [(Reg.STATUS (Page.RUDDER 0), 0x400#32)] with
      rudders := [(0, { Rudder.reset with huntGood := 4, huntRun := 64 })], time := 0 }, 0, by decide +kernel⟩,
    ⟨{ live [(Reg.STATUS (Page.RUDDER 0), 0x400#32)] with
      rudders := [(0, { Rudder.reset with huntGood := 3, huntRun := 64 })], time := 0 }, 0, by decide +kernel⟩,
    ⟨{ live [(Reg.STATUS (Page.RUDDER 0), 0x300#32)] with
      rudders := [(0, { Rudder.reset with slots := [(3, { RudSlot.empty with used := true, onRun := 16 })] })], time := 0 }, 0, 3, by
        decide +kernel, _, rfl, by decide +kernel⟩,
    ⟨{ live [(Reg.STATUS (Page.RUDDER 0), 0x200#32)] with
      rudders := [(0,
        { Rudder.reset with slots := [(1, { RudSlot.empty with used := true }), (3, { RudSlot.empty with used := true, onRun := 16 })] })], time
        := 0 }, 0, 3, by decide +kernel, _, rfl, by decide +kernel⟩,
    ⟨{ live [(Reg.STATUS (Page.RUDDER 0), 0x200#32)] with
      rudders := [(0, { Rudder.reset with slots := [(3, { RudSlot.empty with used := true, onRun := 16 })] })], time := 0 }, 0, 3, by
        decide +kernel, _, rfl, by decide +kernel⟩,
    ⟨{ live [(Reg.STATUS (Page.RUDDER 0), 0x100#32)] with
      rudders := [(0, { Rudder.reset with acquired := true, slots := [(3, { RudSlot.empty with used := true, onRun := 16 })] })], time := 0 }, 0,
        3, by decide +kernel, _, rfl, by decide +kernel⟩⟩

theorem test_witness_RudderSamples_2 :
    (∃ (s : State), ∃ a, rudAlive s a = true ∧ rudState s a = 2 ∧ (rud s a).seekStart + s.fld (Reg.RUDDER.SETTLE_CFG a) 31 24 * 1000000 ≤ s.time
        ∧ (rud s a).seekAgain = false)
    ∧ (∃ (s : State), ∃ a, rudAlive s a = true ∧ rudState s a = 2 ∧ (rud s a).seekStart + s.fld (Reg.RUDDER.SETTLE_CFG a) 31 24 * 1000000 ≤
        s.time ∧ (rud s a).seekAgain = true)
    ∧ (∃ (s : State), ∃ a, ∃ k, rudAlive s a = true ∧ k < 4 ∧ (rudSlot s a k).wf = true ∧ wfCause s a k = false ∧ s.fld (Reg.RUDDER.WF_CFG a) 31
        24 ≤ (rudSlot s a k).clean)
    ∧ (∃ (s : State), ∃ a, rudAlive s a = true ∧ 2 ^ s.fld (Reg.RUDDER.PES_CFG a) 19 16 ≤ (rud s a).windowRun) :=
  ⟨⟨{ live [(Reg.STATUS (Page.RUDDER 0), 0x200#32)] with
    rudders := [(0, { Rudder.reset with arm := 0 })], time := 10000000000 }, 0, by decide +kernel⟩,
    ⟨{ live [(Reg.STATUS (Page.RUDDER 0), 0x200#32)] with
      rudders := [(0, { Rudder.reset with seekAgain := true })], time := 10000000000 }, 0, by decide +kernel⟩,
    ⟨{ live [(Reg.STATUS (Page.RUDDER 0), 0x300#32)] with
      rudders := [(0, { Rudder.reset with slots := [(3, { RudSlot.empty with wf := true, onTrack := true, clean := 255 })] })], time := 0 }, 0,
        3, by decide +kernel⟩,
    ⟨{ live [(Reg.STATUS (Page.RUDDER 0), 0x000#32)] with
      rudders := [(0, { Rudder.reset with windowRun := 40000 })], time := 0 }, 0, by decide +kernel⟩⟩

theorem test_witness_RudderCommands_1 :
    (∃ (s : State), ∃ req, ∃ a, ∃ v, a < 4 ∧ Writes req (Reg.RUDDER.CMD a) s ∧ fld v 3 0 = 1 ∧ rudState s a = 0 ∧ loadAllowed s a (fld v 10 8) =
        true)
    ∧ (∃ (s : State), ∃ req, ∃ a, ∃ v, a < 4 ∧ Writes req (Reg.RUDDER.CMD a) s ∧ fld v 3 0 = 1 ∧ rudState s a = 0 ∧ loadAllowed s a (fld v 10 8)
        = false)
    ∧ (∃ (s : State), ∃ req, ∃ a, ∃ v, a < 4 ∧ Writes req (Reg.RUDDER.CMD a) s ∧ fld v 3 0 = 1 ∧ rudState s a ≠ 0)
    ∧ (∃ (s : State), ∃ req, ∃ a, ∃ v, a < 4 ∧ Writes req (Reg.RUDDER.CMD a) s ∧ fld v 3 0 = 2 ∧ (rudState s a = 2 ∨ rudState s a = 3 ∨ rudState
        s a = 4))
    ∧ (∃ (s : State), ∃ req, ∃ a, ∃ v, a < 4 ∧ Writes req (Reg.RUDDER.CMD a) s ∧ fld v 3 0 = 2 ∧ (¬ (rudState s a = 2 ∨ rudState s a = 3 ∨
        rudState s a = 4)))
    ∧ (∃ (s : State), ∃ req, ∃ a, ∃ v, a < 4 ∧ Writes req (Reg.RUDDER.CMD a) s ∧ fld v 3 0 = 3 ∧ rudState s a ≠ 0 ∧ rudState s a ≠ 7)
    ∧ (∃ (s : State), ∃ req, ∃ a, ∃ v, a < 4 ∧ Writes req (Reg.RUDDER.CMD a) s ∧ fld v 3 0 = 3 ∧ (rudState s a = 0 ∨ rudState s a = 7))
    ∧ (∃ (s : State), ∃ req, ∃ a, ∃ v, a < 4 ∧ Writes req (Reg.RUDDER.CMD a) s ∧ fld v 3 0 = 4 ∧ rudState s a = 7)
    ∧ (∃ (s : State), ∃ req, ∃ a, ∃ v, a < 4 ∧ Writes req (Reg.RUDDER.CMD a) s ∧ fld v 3 0 = 4 ∧ rudState s a ≠ 7)
    ∧ (∃ (s : State), ∃ req, ∃ a, ∃ v, a < 4 ∧ Writes req (Reg.RUDDER.CMD a) s ∧ (fld v 3 0 = 0 ∨ 4 < fld v 3 0))
    ∧ (∃ (s : State), ∃ a, rudAlive s a = true ∧ rudState s a = 1 ∧ (rud s a).loadStart + s.fld (Reg.RUDDER.LOAD_CFG a) 15 0 * 1000000 ≤ s.time ∧
        (rud s a).loadAgain = false)
    ∧ (∃ (s : State), ∃ a, rudAlive s a = true ∧ rudState s a = 1 ∧ (rud s a).loadStart + s.fld (Reg.RUDDER.LOAD_CFG a) 15 0 * 1000000 ≤ s.time ∧
        (rud s a).loadAgain = true)
    ∧ (∃ (s : State), ∃ req, ∃ a, ∃ v, a < 4 ∧ Writes req (Reg.RUDDER.COEF_CTRL a) s ∧ bit v 0 = true ∧ bit v 1 = false ∧ s.bit
        (Reg.RUDDER.COEF_CTRL a) 0 = false)
    ∧ (∃ (s : State), ∃ req, ∃ a, ∃ v, a < 4 ∧ Writes req (Reg.RUDDER.COEF_CTRL a) s ∧ bit v 0 = false ∧ bit v 1 = true ∧ s.bit
        (Reg.RUDDER.COEF_CTRL a) (8 + idleBank s a) = true)
    ∧ (∃ (s : State), ∃ req, ∃ a, ∃ v, a < 4 ∧ Writes req (Reg.RUDDER.COEF_CTRL a) s ∧ bit v 0 = false ∧ bit v 1 = true ∧ s.bit
        (Reg.RUDDER.COEF_CTRL a) (8 + idleBank s a) = false) :=
  ⟨⟨drive [(Reg.STATUS Page.KEEL, 0x1000#32), (Reg.RUDDER.COEF_CTRL 0, 0x300#32), (Reg.RUDDER.COIL_PARAM 0, 0x10001#32), (Reg.DRV.RETRACT 0,
      1#32)], .cox, 0, 1#32, by decide +kernel, writes_of (by decide +kernel), by decide +kernel⟩,
    ⟨live [], .cox, 0, 1#32, by decide +kernel, writes_of (by decide +kernel), by decide +kernel⟩,
    ⟨live [(Reg.STATUS (Page.RUDDER 0), 0x300#32)], .cox, 0, 1#32, by decide +kernel, writes_of (by decide +kernel), by decide +kernel⟩,
    ⟨live [(Reg.STATUS (Page.RUDDER 0), 0x400#32)], .cox, 0, 2#32, by decide +kernel, writes_of (by decide +kernel), by decide +kernel⟩,
    ⟨live [(Reg.STATUS (Page.RUDDER 0), 0x500#32)], .cox, 0, 2#32, by decide +kernel, writes_of (by decide +kernel), by decide +kernel⟩,
    ⟨live [(Reg.STATUS (Page.RUDDER 0), 0x500#32)], .cox, 0, 3#32, by decide +kernel, writes_of (by decide +kernel), by decide +kernel⟩,
    ⟨live [(Reg.STATUS (Page.RUDDER 0), 0x700#32)], .cox, 0, 3#32, by decide +kernel, writes_of (by decide +kernel), by decide +kernel⟩,
    ⟨live [(Reg.STATUS (Page.RUDDER 0), 0x700#32)], .cox, 0, 4#32, by decide +kernel, writes_of (by decide +kernel), by decide +kernel⟩,
    ⟨live [(Reg.STATUS (Page.RUDDER 0), 0x600#32)], .cox, 0, 4#32, by decide +kernel, writes_of (by decide +kernel), by decide +kernel⟩,
    ⟨live [], .cox, 3, 5#32, by decide +kernel, writes_of (by decide +kernel), by decide +kernel⟩,
    ⟨{ live [(Reg.STATUS (Page.RUDDER 0), 0x100#32)] with
      rudders := [(0, { Rudder.reset with arm := 0 })], time := 1000000000000 }, 0, by decide +kernel⟩,
    ⟨{ live [(Reg.STATUS (Page.RUDDER 0), 0x100#32)] with
      rudders := [(0, { Rudder.reset with loadAgain := true })], time := 1000000000000 }, 0, by decide +kernel⟩,
    ⟨live [], .cox, 0, 1#32, by decide +kernel, writes_of (by decide +kernel), by decide +kernel⟩,
    ⟨live [(Reg.RUDDER.COEF_CTRL 0, 0x200#32)], .cox, 0, 2#32, by decide +kernel, writes_of (by decide +kernel), by decide +kernel⟩,
    ⟨live [(Reg.RUDDER.COEF_CTRL 0, 0x100#32)], .cox, 0, 2#32, by decide +kernel, writes_of (by decide +kernel), by decide +kernel⟩⟩

theorem test_witness_RudderCommands_2 :
    (∃ (s : State), ∃ a, (rudAlive s a = true ∧ s.bit (Reg.RUDDER.COEF_CTRL a) 0 = true ∧ dramAwake s = true ∧ creditTurn s (.load
        (Page.RUDDER a)) = true) ∧ ∃ u, u = takeCredit (.load (Page.RUDDER a)) s ∧ ∃ x, x = fetchWords true (Requester.code (.rudder
        (BitVec.ofNat 2 a).toFin)) (rud u a).loadFrom 0x750 u ∧ coefFault a x.1 x.2.1 u = none)
    ∧ (∃ (s : State), ∃ a, (rudAlive s a = true ∧ s.bit (Reg.RUDDER.COEF_CTRL a) 1 = true ∧ s.bit (Reg.RUDDER.COEF_CTRL a) (8 + idleBank s a) =
        true ∧ (rudState s a = 0 ∨ rudState s a = 3)) ∧ ∃ id, (id = SMap.get (fun _ => 0#32) (rud s a).banks (2048 * idleBank s a + 4)))
    ∧ (∃ (s : State), ∃ a, ∃ b, (rudAlive s a = true ∧ rudAlive s b = true ∧ b ≠ a) ∧ ∃ c, (c = SMap.get (fun _ => Coupled.reset) (rud s
        a).coupled b) ∧ ∃ w, w = (rud s b).sent ∧ (c.taken ≠ (rud s b).sentNo ∧ c.dropped = false) ∧ ∃ u, (u = modCoupled a b (fun y =>
        { y with taken := (rud s b).sentNo }) s) ∧ ∃ x y z, (x && y && z) = true)
    ∧ (∃ (s : State), ∃ a, ∃ b, (rudAlive s a = true ∧ rudAlive s b = true ∧ b ≠ a) ∧ ∃ c, (c = SMap.get (fun _ => Coupled.reset) (rud s
        a).coupled b) ∧ ∃ w, w = (rud s b).sent ∧ (c.taken ≠ (rud s b).sentNo ∧ c.dropped = false) ∧ ∃ u, (u = modCoupled a b (fun y =>
        { y with taken := (rud s b).sentNo }) s) ∧ ∃ x y z, (x && y && z) = false ∧ c.bad = 0)
    ∧ (∃ (s : State), ∃ a, ∃ b, (rudAlive s a = true ∧ rudAlive s b = true ∧ b ≠ a) ∧ ∃ c, (c = SMap.get (fun _ => Coupled.reset) (rud s
        a).coupled b) ∧ ∃ w, w = (rud s b).sent ∧ (c.taken ≠ (rud s b).sentNo ∧ c.dropped = false) ∧ ∃ u, (u = modCoupled a b (fun y =>
        { y with taken := (rud s b).sentNo }) s) ∧ ∃ x y z, (x && y && z) = false ∧ 1 ≤ c.bad)
    ∧ (∃ (s : State), ∃ n, couplesOn s = true ∧ sensorUsed s n = true ∧ 2 ≤ n)
    ∧ (∃ (s : State), (couplesOn s = true ∧ s.bit Reg.COUPLE.SNS_STATUS 4 = true ∧ s.couple.lastAbove + s.fld Reg.COUPLE.SNS_CFG 27 16 * 1000 ≤
        s.time) ∧ ∃ u, u = s.couple.crossing.getD s.time)
    ∧ (∃ (s : State), couplesOn s = true ∧ s.bit Reg.COUPLE.SNS_STATUS 4 = false ∧ shockHeld s = true ∧ s.couple.lastAbove + s.fld
        Reg.COUPLE.SNS_CFG 27 16 * 1000 ≤ s.time)
    ∧ (∃ (s : State), ∃ n, couplesOn s = true ∧ sensorUsed s n = true ∧ (sensor s n).sampled = true ∧ (sensor s n).since + 10000000 ≤ s.time)
    ∧ (∃ (s : State), ∃ n, couplesOn s = true ∧ sensorUsed s n = true ∧ (sensor s n).sampled = true ∧ s.time < (sensor s n).since + 10000000 ∧
        fullScale (sensor s n).last = true ∧ (sensor s n).railed + 10000000 ≤ s.time) :=
  ⟨⟨coefReady, 0, by decide +kernel, coef_witness⟩,
    ⟨live [(Reg.RUDDER.COEF_CTRL 0, 0x202#32)], 0, by decide +kernel, _, rfl⟩,
    ⟨{ live [] with
      rudders := [(0, { Rudder.reset with arm := 0 }), (1, { Rudder.reset with sentNo := 1 })] }, 0, 1, by decide +kernel, _, rfl, _, rfl, by
        decide +kernel, _, rfl, true, true, true, by decide +kernel⟩,
    ⟨{ live [] with
      rudders := [(0, { Rudder.reset with arm := 0 }), (1, { Rudder.reset with sentNo := 1 })] }, 0, 1, by decide +kernel, _, rfl, _, rfl, by
        decide +kernel, _, rfl, false, true, true, by decide +kernel⟩,
    ⟨{ live [] with
      rudders := [(0, { Rudder.reset with coupled := [(1, { Coupled.reset with bad := 1 })] }), (1, { Rudder.reset with sentNo := 1 })] }, 0, 1,
        by decide +kernel, _, rfl, _, rfl, by decide +kernel, _, rfl, true, false, true, by decide +kernel⟩,
    ⟨{ live [(Reg.COUPLE.SNS_EN, 0xF#32)] with couple := ⟨[], 0, 0, none⟩, time := 0 }, 3, by decide +kernel⟩,
    ⟨{ live [(Reg.COUPLE.SNS_EN, 0xF#32), (Reg.COUPLE.SNS_STATUS, 0x10#32)] with
      couple := ⟨[], 0, 0, none⟩, time := 10000000000 }, by decide +kernel, _, rfl⟩,
    ⟨{ live [(Reg.STATUS (Page.RUDDER 0), 0x400000#32)] with
      couple := ⟨[], 0, 0, none⟩, time := 10000000000 }, by decide +kernel⟩,
    ⟨{ live [(Reg.COUPLE.SNS_EN, 0xF#32)] with
      couple := ⟨[(3, ⟨0, 0, 0, true⟩)], 0, 0, none⟩, time := 10000000 }, 3, by decide +kernel⟩,
    ⟨{ live [(Reg.COUPLE.SNS_EN, 0xF#32)] with
      couple := ⟨[(3, ⟨8191, 1, 0, true⟩)], 0, 0, none⟩, time := 10000000 }, 3, by decide +kernel⟩⟩

theorem test_witness_HeadsCommands_1 :
    (∃ (s : State), ∃ req, ∃ a, ∃ v, a < 4 ∧ Writes req (Reg.PRE.FW_CMD a) s ∧ bit v 31 = true ∧ bit v 16 = true)
    ∧ (∃ (s : State), ∃ req, ∃ a, ∃ v, a < 4 ∧ Writes req (Reg.PRE.FW_CMD a) s ∧ bit v 31 = true ∧ bit v 16 = false)
    ∧ (∃ (s : State), ∃ req, ∃ a, ∃ v, a < 4 ∧ Writes req (Reg.PRE.FW_CMD a) s ∧ bit v 31 = true ∧ bit v 16 = true ∧ s.bit (Reg.PRE.FW_RESULT a)
        16 = true)
    ∧ (∃ (s : State), ∃ a, ∃ (f : PreFrame), ∃ fw, ∃ (d : BitVec 16), ∃ (c : BitVec 8), ∃ (x : BitVec 24), x = d ++ c ∧ portUp s a = true ∧ ∃ b, ((pre s a).sending = some (f, fw, b) ∧ tailGood
        f.read x = true) ∧ ∃ u, u = (if b = true then transient (Page.PRE a) 1 0 {} s else s))
    ∧ (∃ (s : State), ∃ a, ∃ (f : PreFrame), ∃ fw, ∃ (d : BitVec 16), ∃ (c : BitVec 8), ∃ (x : BitVec 24), x = d ++ c ∧ portUp s a = true ∧ (pre s a).sending = some (f, fw, false) ∧ tailGood
        f.read x = false)
    ∧ (∃ (s : State), ∃ a, ∃ (f : PreFrame), ∃ (d : BitVec 16), ∃ (c : BitVec 8), ∃ (x : BitVec 24), x = d ++ c ∧ portUp s a = true ∧ (pre s a).sending = some (f, false, true) ∧ tailGood f.read x
        = false)
    ∧ (∃ (s : State), ∃ a, ∃ (f : PreFrame), ∃ (d : BitVec 16), ∃ (c : BitVec 8), ∃ (x : BitVec 24), x = d ++ c ∧ portUp s a = true ∧ (pre s a).sending = some (f, true, true) ∧ tailGood f.read x
        = false)
    ∧ (∃ (s : State), ∃ a, portUp s a = true ∧ s.bit (Reg.PRE.FAULT a) 16 = false)
    ∧ (∃ (s : State), ∃ a, portUp s a = true ∧ (pre s a).watch = true)
    ∧ (∃ (s : State), ∃ a, ∃ (w : BitVec 16), portUp s a = true ∧ (pre s a).watch = true ∧ w.toNat % 64 ≠ 0 ∧ w.toNat / 256 % 16 = 0)
    ∧ (∃ (s : State), ∃ a, ∃ (w : BitVec 16), portUp s a = true ∧ (pre s a).watch = true ∧ w.toNat / 256 % 16 ≠ 0)
    ∧ (∃ (s : State), ∃ a, ∃ (w : BitVec 16), portUp s a = true ∧ s.bit (Reg.PRE.FAULT a) 16 = true ∧ (pre s a).hold = false ∧ w.toNat &&&
        (0xFFFF ^^^ (s.reg (Reg.PRE.HEAD_FAIL a)).toNat) ≠ 0)
    ∧ (∃ (s : State), ∃ a, ∃ (w : BitVec 16), portUp s a = true ∧ s.bit (Reg.PRE.FAULT a) 16 = true ∧ (pre s a).hold = false ∧ w = 0#16)
    ∧ (∃ (s : State), ∃ req, ∃ v, Writes req Reg.HDA.CMD s ∧ bit v 0 = true ∧ s.hda.discovering = none ∧ s.bit Reg.HDA.DISC_STATUS 0 = false)
    ∧ (∃ (s : State), ∃ req, ∃ v, Writes req Reg.HDA.CMD s ∧ bit v 0 = true ∧ s.hda.discovering = none ∧ s.bit Reg.HDA.DISC_STATUS 0 = true) :=
  ⟨⟨live [], .cox, 3, 0x80010000#32, by decide +kernel, writes_of (by decide +kernel), by decide +kernel⟩,
    ⟨live [], .cox, 0, 0x80000000#32, by decide +kernel, writes_of (by decide +kernel), by decide +kernel⟩,
    ⟨live [(Reg.PRE.FW_RESULT 0, 0x10000#32)], .cox, 0, 0x80010000#32, by decide +kernel, writes_of (by decide +kernel), by decide +kernel⟩,
    ⟨{ live [] with pres := [(0, { PrePort.reset with sending := some (⟨0, false, 0⟩, true, false) })] }, 0, ⟨0, false, 0⟩, true, 0#16, 0xA5#8, _, rfl, by
        decide +kernel, false, by decide +kernel, _, rfl⟩,
    ⟨{ live [] with pres := [(0, { PrePort.reset with sending := some (⟨0, false, 0⟩, true, false) })] }, 0, ⟨0, false, 0⟩, true, 0#16, 0#8, _, rfl, by
        decide +kernel⟩,
    ⟨{ live [] with pres := [(0, { PrePort.reset with sending := some (⟨0, false, 0⟩, false, true) })] }, 0, ⟨0, false, 0⟩, 0#16, 0#8, _, rfl, by
        decide +kernel⟩,
    ⟨{ live [] with pres := [(0, { PrePort.reset with sending := some (⟨0, false, 0⟩, true, true) })] }, 0, ⟨0, false, 0⟩, 0#16, 0#8, _, rfl, by
        decide +kernel⟩,
    ⟨live [], 3, by decide +kernel⟩,
    ⟨{ live [] with pres := [(0, { PrePort.reset with watch := true })] }, 0, by decide +kernel⟩,
    ⟨{ live [] with pres := [(0, { PrePort.reset with watch := true })] }, 0, 0xF001#16, by decide +kernel⟩,
    ⟨{ live [] with pres := [(0, { PrePort.reset with watch := true })] }, 0, 0xF00#16, by decide +kernel⟩,
    ⟨live [(Reg.PRE.FAULT 0, 0x10000#32)], 0, 1#16, by decide +kernel⟩,
    ⟨live [(Reg.PRE.FAULT 0, 0x10000#32)], 0, 0#16, by decide +kernel⟩,
    ⟨live [], .cox, 1#32, writes_of (by decide +kernel), by decide +kernel⟩,
    ⟨live [(Reg.HDA.DISC_STATUS, 1#32)], .cox, 1#32, writes_of (by decide +kernel), by decide +kernel⟩⟩

theorem test_witness_HeadsCommands_2 :
    (∃ (s : State), ∃ t0, s.hda.discovering = some t0 ∧ ∃ ports, (ports = ((List.range 4).filter fun a => pageOn s (Page.PRE a))))
    ∧ (∃ (s : State), ∃ req, ∃ (addr : Addr), ∃ k, addrKey addr = some k ∧ critWordOf k = some 3 ∧ Writes req k s)
    ∧ (∃ (s : State), ∃ (x : Int), ∃ (y : Int), ∃ (x' : Int), ∃ (y' : Int), blockRuns s Page.HDA = true ∧ s.hda.d0 = ⟨some x', false, false⟩ ∧
        s.hda.d1 = ⟨some y', false, false⟩ ∧ -400 ≤ x ∧ x ≤ 1250 ∧ -400 ≤ y ∧ y ≤ 1250 ∧ (x - x').natAbs ≤ 50 ∧ (y - y').natAbs ≤ 50)
    ∧ (∃ (s : State), ∃ low, blockRuns s Page.HDA = true ∧ ∃ ns, (ns = gateHigh s.time s.hda.pulses - low) ∧ ∃ n, (n = ((List.range 4).filter fun a => pageOn s (Page.RUDDER a) && rudState s a ==
        3).length) ∧ ∃ l, (l = max 2 (2 * ((List.range 4).filter fun a => s.critFld 3 a a == 1).length)) ∧ ∃ d, d = min 127 (127 * ns / (l *
        100000000)))
    ∧ (∃ (s : State), ∃ req, ∃ v, Writes req Reg.CAL.CMD s ∧ bit v 0 = true ∧ s.cal.load = none ∧ blockRuns s Page.CAL = true)
    ∧ (∃ (s : State), ∃ b, ∃ n, s.cal.load = some (b, n) ∧ blockAlive s Page.CAL = true ∧ dramAwake s = true ∧ creditTurn s (.load Page.CAL) =
        true)
    ∧ (∃ (s : State), ∃ o, (o < 16 ∧ blockRuns s Page.CAL = true ∧ portUp s (oarAct o) = true) ∧ ∃ h, ∃ z, calUse s o = some (h, z) ∧ ∃ m, m =
        memberOf o h ∧ ∃ r, r = calRecordOf s o m z ∧ ∃ u, u = calCompare m z r s ∧ (!calStale s m z && calStale u m z) = false)
    ∧ (∃ (s : State), ∃ o, (o < 16 ∧ blockRuns s Page.CAL = true ∧ portUp s (oarAct o) = true) ∧ ∃ h, ∃ z, calUse s o = some (h, z) ∧ ∃ m, m =
        memberOf o h ∧ ∃ r, r = calRecordOf s o m z ∧ ∃ u, u = calCompare m z r s ∧ (!calStale s m z && calStale u m z) = true ∧ ∃ x, x =
        verifyJob o u)
    ∧ (∃ (s : State), ∃ a, ∃ k, ∃ g, ∃ (n1 : Int), ∃ (n2 : Int), (a < 4 ∧ k < 4 ∧ blockAlive s (Page.OAR (4 * a + k)) = true ∧ rudAlive s a =
        true ∧ (rudSlot s a k).used = true ∧ slotOn s a k = true ∧ slotHead s a k = (rudSlot s a k).head ∧ s.bit (Reg.OAR.FE_CTRL (4 * a + k)) 0
        = true) ∧ ∃ p, p = max 0 (wedgePlace (grayDecode g) (burstFraction n1 n2)))
    ∧ (∃ (s : State), ∃ a, ∃ (v : Int), ∃ (i : Int), ∃ n, rudAlive s a = true ∧ (rudState s a = 5 ∨ rudState s a = 6) ∧ (rud s a).latched = false
        ∧ (rud s a).currentStart = none ∧ 2000 ≤ n ∧ 20 * (armVelocity s a v i).natAbs < 1000 * s.fld (Reg.RUDDER.LOAD_CFG a) 31 16 ∧ s.fld (Reg.RUDDER.COIL_CFG a) 11 0 < 2 *
        i.natAbs ∧ (rud s a).reload = true)
    ∧ (∃ (s : State), ∃ a, ∃ (v : Int), ∃ (i : Int), ∃ n, rudAlive s a = true ∧ (rudState s a = 5 ∨ rudState s a = 6) ∧ (rud s a).latched = false
        ∧ (rud s a).currentStart = none ∧ 2000 ≤ n ∧ 20 * (armVelocity s a v i).natAbs < 1000 * s.fld (Reg.RUDDER.LOAD_CFG a) 31 16 ∧ s.fld (Reg.RUDDER.COIL_CFG a) 11 0 < 2 *
        i.natAbs ∧ (rud s a).reload = false)
    ∧ (∃ (s : State), ∃ a, rudAlive s a = true ∧ (rudState s a = 5 ∨ rudState s a = 6) ∧ (rud s a).latched = false ∧ (rud s a).currentStart =
        none ∧ (rud s a).driveStart + 300000000 ≤ s.time)
    ∧ (∃ (s : State), ∃ a, rudAlive s a = true ∧ ∃ u, (rud s a).currentStart = some u ∧ u + 100000000 ≤ s.time) :=
  ⟨⟨{ live [] with hda := { Hda.reset with discovering := some 0 } }, _, some_of (by decide +kernel), _, rfl⟩,
    ⟨live [], .cox, BitVec.ofNat _ (0x20000000 + Reg.HDA.ACT_POP), _, some_of (by decide +kernel), by decide +kernel, writes_of (by
        decide +kernel)⟩,
    ⟨{ live [(Reg.CTRL Page.HDA, 1#32)] with
      hda := ⟨none, ⟨some (-350), false, false⟩, ⟨some 1200, false, false⟩, []⟩ }, -400, 1250, -350, 1200, by decide +kernel⟩,
    ⟨live [(Reg.CTRL Page.HDA, 1#32)], 0, by decide +kernel, _, rfl, _, rfl, _, rfl, _, rfl⟩,
    ⟨live [(Reg.CTRL Page.CAL, 1#32)], .cox, 1#32, writes_of (by decide +kernel), by decide +kernel⟩,
    ⟨{ live [] with cal := ⟨[], [], [], [], [], some (0, 1)⟩ }, _, _, pair_of (by decide +kernel), by decide +kernel⟩,
    ⟨{ live [(Reg.CTRL Page.CAL, 1#32)] with
      oars := [(0, { Oar.reset with job := some ⟨[word (1 * 256 + 15)], true, [], 0, false⟩ })] }, 0, by decide +kernel, _, _, pair_of (by
        decide +kernel), _, rfl, _, rfl, _, rfl, by decide +kernel⟩,
    ⟨{ live [(Reg.CTRL Page.CAL, 1#32)] with
      oars := [(0, { Oar.reset with job := some ⟨[word (1 * 256 + 15)], true, [], 0, false⟩ })], cal := ⟨[(0, some (List.replicate 16
        0xFFFFFFFF#32))], [], [], [], [], none⟩ }, 0, by decide +kernel, _, _, pair_of (by decide +kernel), _, rfl, _, rfl, _, rfl, by
        decide +kernel, _, rfl⟩,
    ⟨{ live [(Reg.OAR.FE_CTRL 15, 1#32), (Reg.PRE.SLOT_MAP 3, 0x80000#32)] with
      rudders := [(3, { Rudder.reset with slots := [(3, { RudSlot.empty with used := true })] })] }, 3, 3, 5, 0, 0, by decide +kernel, _, rfl⟩,
    ⟨{ live [(Reg.STATUS (Page.RUDDER 0), 0x500#32), (Reg.RUDDER.LOAD_CFG 0, 0x10000#32), (Reg.RUDDER.COIL_PARAM 0, 0x10001#32)] with
      rudders := [(0, { Rudder.reset with reload := true })], time := 0 }, 0, 100, 100000, 2000, by decide +kernel⟩,
    ⟨{ live [(Reg.STATUS (Page.RUDDER 0), 0x600#32), (Reg.RUDDER.LOAD_CFG 0, 0x10000#32), (Reg.RUDDER.COIL_PARAM 0, 0x10001#32)] with
      rudders := [(0, { Rudder.reset with arm := 0 })], time := 0 }, 0, 100, 100000, 2000, by decide +kernel⟩,
    ⟨{ live [(Reg.STATUS (Page.RUDDER 0), 0x500#32)] with
      rudders := [(0, { Rudder.reset with arm := 0 })], time := 300000000 }, 0, by decide +kernel⟩,
    ⟨{ live [(Reg.STATUS (Page.RUDDER 0), 0x500#32)] with
      rudders := [(0, { Rudder.reset with currentStart := some 0 })], time := 100000000 }, 0, by decide +kernel, _, some_of (by decide +kernel),
        by decide +kernel⟩⟩

set_option maxRecDepth 100000 in
theorem test_witness_BandCommands_1 :
    (∃ (s : State), ∃ req, ∃ v, Writes req Reg.CREWG.BAND_CMD s ∧ ∃ b, b = fld v 11 0 ∧ fld v 19 16 = 1 ∧ band s b = none)
    ∧ (∃ (s : State), ∃ req, ∃ v, Writes req Reg.CREWG.BAND_CMD s ∧ ∃ b, b = fld v 11 0 ∧ fld v 19 16 = 1 ∧ ∃ x, band s b = some x)
    ∧ (∃ (s : State), ∃ req, ∃ v, Writes req Reg.CREWG.BAND_CMD s ∧ ∃ b, b = fld v 11 0 ∧ fld v 19 16 = 2 ∧ ∃ x, band s b = some x)
    ∧ (∃ (s : State), ∃ req, ∃ v, Writes req Reg.CREWG.BAND_CMD s ∧ ∃ b, b = fld v 11 0 ∧ fld v 19 16 = 2 ∧ band s b = none)
    ∧ (∃ (s : State), ∃ req, ∃ v, Writes req Reg.CREWG.BAND_CMD s ∧ ∃ b, b = fld v 11 0 ∧ fld v 19 16 = 3 ∧ ∃ x, band s b = some x ∧ switched s b
        = true)
    ∧ (∃ (s : State), ∃ req, ∃ v, Writes req Reg.CREWG.BAND_CMD s ∧ ∃ b, b = fld v 11 0 ∧ fld v 19 16 = 3 ∧ ∃ x, band s b = some x ∧ switched s b
        = false)
    ∧ (∃ (s : State), ∃ req, ∃ v, Writes req Reg.CREWG.BAND_CMD s ∧ ∃ b, b = fld v 11 0 ∧ fld v 19 16 = 3 ∧ band s b = none)
    ∧ (∃ (s : State), ∃ req, ∃ v, Writes req Reg.CREWG.BAND_CMD s ∧ ∃ b, b = fld v 11 0 ∧ fld v 19 16 = 4 ∧ ∃ x, band s b = some x)
    ∧ (∃ (s : State), ∃ req, ∃ v, Writes req Reg.CREWG.BAND_CMD s ∧ ∃ b, b = fld v 11 0 ∧ fld v 19 16 = 4 ∧ band s b = none)
    ∧ (∃ (s : State), ∃ req, ∃ v, Writes req Reg.CREWG.BAND_CMD s ∧ ∃ b, b = fld v 11 0 ∧ fld v 19 16 = 5 ∧ ∃ x, band s b = some x)
    ∧ (∃ (s : State), ∃ req, ∃ v, Writes req Reg.CREWG.BAND_CMD s ∧ ∃ b, b = fld v 11 0 ∧ fld v 19 16 = 5 ∧ band s b = none)
    ∧ (∃ (s : State), ∃ req, ∃ v, Writes req Reg.CREWG.BAND_CMD s ∧ ∃ b, b = fld v 11 0 ∧ fld v 19 16 = 6 ∧ ∃ x, band s b = some x ∧ ∃ r, r =
        fetchDesc (targetOff s) (busOk 0#32 s) ∧ ∃ c, reshapeFault r.2.2 r.2.1 x.words r.1 = some c)
    ∧ (∃ (s : State), ∃ req, ∃ v, Writes req Reg.CREWG.BAND_CMD s ∧ ∃ b, b = fld v 11 0 ∧ fld v 19 16 = 6 ∧ ∃ x, band s b = some x ∧ ∃ r, r =
        fetchDesc (targetOff s) (busOk 0#32 s) ∧ reshapeFault r.2.2 r.2.1 x.words r.1 = none)
    ∧ (∃ (s : State), ∃ req, ∃ v, Writes req Reg.CREWG.BAND_CMD s ∧ ∃ b, b = fld v 11 0 ∧ fld v 19 16 = 6 ∧ band s b = none)
    ∧ (∃ (s : State), ∃ req, ∃ v, Writes req Reg.CREWG.BAND_CMD s ∧ ∃ b, b = fld v 11 0 ∧ fld v 19 16 = 7 ∧ ∃ x, band s b = some x ∧ switched s b
        = false) :=
  ⟨⟨live [], .cox, 0x10FFF#32, writes_of (by decide +kernel), _, rfl, by decide +kernel⟩,
    ⟨crewOf [] { Crew.reset with bands := [(0, some (aBand [0x401#32, 1#32]))] }, .cox, 0x10000#32, writes_of (by decide +kernel), _, rfl, by
        decide +kernel, _, some_of (by decide +kernel)⟩,
    ⟨crewOf [] { Crew.reset with bands := [(0, some (aBand [0x401#32, 1#32]))] }, .cox, 0x20000#32, writes_of (by decide +kernel), _, rfl, by
        decide +kernel, _, some_of (by decide +kernel)⟩,
    ⟨live [], .cox, 0x20000#32, writes_of (by decide +kernel), _, rfl, by decide +kernel⟩,
    ⟨(crewOf [] { Crew.reset with bands := [(0, some (aBand [0x401#32, 1#32]))] }).critPut 13 0x30000#32, .cox, 0x30000#32, writes_of (by
        decide +kernel), _, rfl, by decide +kernel, _, some_of (by decide +kernel), by decide +kernel⟩,
    ⟨crewOf [] { Crew.reset with bands := [(0, some (aBand [0x401#32, 1#32]))] }, .cox, 0x30000#32, writes_of (by decide +kernel), _, rfl, by
        decide +kernel, _, some_of (by decide +kernel), by decide +kernel⟩,
    ⟨live [], .cox, 0x30000#32, writes_of (by decide +kernel), _, rfl, by decide +kernel⟩,
    ⟨crewOf [] { Crew.reset with bands := [(0, some (aBand [0x401#32, 1#32]))] }, .cox, 0x40000#32, writes_of (by decide +kernel), _, rfl, by
        decide +kernel, _, some_of (by decide +kernel)⟩,
    ⟨live [], .cox, 0x40000#32, writes_of (by decide +kernel), _, rfl, by decide +kernel⟩,
    ⟨crewOf [] { Crew.reset with bands := [(0, some (aBand [0x401#32, 1#32]))] }, .cox, 0x50000#32, writes_of (by decide +kernel), _, rfl, by
        decide +kernel, _, some_of (by decide +kernel)⟩,
    ⟨live [], .cox, 0x50000#32, writes_of (by decide +kernel), _, rfl, by decide +kernel⟩,
    ⟨crewOf [] { Crew.reset with bands := [(0, some (aBand [0x401#32, 1#32]))] }, .cox, 0x60000#32, writes_of (by decide +kernel), _, rfl, by
        decide +kernel, _, some_of (by decide +kernel), _, rfl, _, some_of (by decide +kernel)⟩,
    ⟨descReady { Crew.reset with bands := [(0, some (aBand [0x401#32, 1#32]))] }, .cox, 0x60000#32, writes_of (by decide +kernel), _, rfl, by
        decide +kernel, _, some_of (by decide +kernel), _, rfl, by decide +kernel⟩,
    ⟨live [], .cox, 0x60000#32, writes_of (by decide +kernel), _, rfl, by decide +kernel⟩,
    ⟨crewOf [] { Crew.reset with bands := [(0, some (aBand [0x401#32, 1#32]))] }, .cox, 0x70000#32, writes_of (by decide +kernel), _, rfl, by
        decide +kernel, _, some_of (by decide +kernel), by decide +kernel⟩⟩

set_option maxRecDepth 100000 in
theorem test_witness_BandCommands_2 :
    (∃ (s : State), ∃ req, ∃ v, Writes req Reg.CREWG.BAND_CMD s ∧ ∃ b, b = fld v 11 0 ∧ fld v 19 16 = 7 ∧ ∃ x, band s b = some x ∧ switched s b =
        true ∧ ∃ r, r = fetchDesc (bandEntryOff s b) (busOk 0#32 s) ∧ r.2.1 = true ∧ r.1.getD 31 0#32 = x.words.getD 31 0#32)
    ∧ (∃ (s : State), ∃ req, ∃ v, Writes req Reg.CREWG.BAND_CMD s ∧ ∃ b, b = fld v 11 0 ∧ fld v 19 16 = 7 ∧ band s b = none)
    ∧ (∃ (s : State), ∃ req, ∃ v, Writes req Reg.CREWG.BAND_CMD s ∧ ∃ b, b = fld v 11 0 ∧ (fld v 19 16 = 0 ∨ 8 ≤ fld v 19 16))
    ∧ (∃ (s : State), ∃ b, ∃ x, band s b = some x ∧ x.closing = true ∧ bandBusy s b = false)
    ∧ (∃ (s : State), ∃ req, ∃ (addr : Addr), ∃ k, addrKey addr = some k ∧ critWordOf k = some 4 ∧ Writes req k s) :=
  ⟨⟨(descReady { Crew.reset with
    bands := [(0, some (aBand ([0x401#32, 1#32] ++ List.replicate 29 0#32 ++ [0xC2559575#32])))] }).critPut 13 0x30000#32, .cox, 0x70000#32,
      writes_of (by decide +kernel), _, rfl, by decide +kernel, _, some_of (by decide +kernel), by decide +kernel, _, rfl, by decide +kernel⟩,
    ⟨live [], .cox, 0x70000#32, writes_of (by decide +kernel), _, rfl, by decide +kernel⟩,
    ⟨live [], .cox, 0x80000#32, writes_of (by decide +kernel), _, rfl, by decide +kernel⟩,
    ⟨crewOf [] { Crew.reset with bands := [(0, some { aBand [0x401#32, 1#32] with closing := true })] }, 0, _, some_of (by decide +kernel), by
        decide +kernel⟩,
    ⟨live [], .cox, BitVec.ofNat _ (0x20000000 + Reg.CREWG.MEMBER_FAIL), _, some_of (by decide +kernel), by decide +kernel, writes_of (by
        decide +kernel)⟩⟩

theorem test_witness_CrewWork_1 :
    (∃ (s : State), ∃ e, ∃ ty, crewRuns s e = true ∧ ∃ x, x = (if ty = 3 then ownRepair e s else s) ∧ crewRuns x e = true ∧ ∃ u, u = crewDrain x
        ∧ ∃ w, (w = (u.crew.jobs.filter fun j => j.engine == e && (j.kind == ty || (ty == 1 && j.port == 0xFF && j.kind != 8))).foldl (fun t j =>
        stepJob j.id t) u) ∧ ty = 1 ∧ crewTakes w e = true)
    ∧ (∃ (s : State), ∃ e, ∃ ty, crewRuns s e = true ∧ ∃ x, x = (if ty = 3 then ownRepair e s else s) ∧ crewRuns x e = true ∧ ∃ u, u = crewDrain
        x ∧ ∃ w, (w = (u.crew.jobs.filter fun j => j.engine == e && (j.kind == ty || (ty == 1 && j.port == 0xFF && j.kind != 8))).foldl (fun t j
        => stepJob j.id t) u) ∧ ty = 1 ∧ crewTakes w e = false)
    ∧ (∃ (s : State), ∃ e, ∃ ty, crewRuns s e = true ∧ ∃ x, x = (if ty = 3 then ownRepair e s else s) ∧ crewRuns x e = true ∧ ∃ u, u = crewDrain
        x ∧ ∃ w, (w = (u.crew.jobs.filter fun j => j.engine == e && (j.kind == ty || (ty == 1 && j.port == 0xFF && j.kind != 8))).foldl (fun t j
        => stepJob j.id t) u) ∧ ty = 2 ∧ crewTakes w e = true)
    ∧ (∃ (s : State), ∃ e, ∃ ty, crewRuns s e = true ∧ ∃ x, x = (if ty = 3 then ownRepair e s else s) ∧ crewRuns x e = true ∧ ∃ u, u = crewDrain
        x ∧ ∃ w, (w = (u.crew.jobs.filter fun j => j.engine == e && (j.kind == ty || (ty == 1 && j.port == 0xFF && j.kind != 8))).foldl (fun t j
        => stepJob j.id t) u) ∧ ty = 2 ∧ crewTakes w e = false)
    ∧ (∃ (s : State), ∃ e, ∃ ty, crewRuns s e = true ∧ ∃ x, x = (if ty = 3 then ownRepair e s else s) ∧ crewRuns x e = true ∧ ∃ u, u = crewDrain
        x ∧ ∃ w, (w = (u.crew.jobs.filter fun j => j.engine == e && (j.kind == ty || (ty == 1 && j.port == 0xFF && j.kind != 8))).foldl (fun t j
        => stepJob j.id t) u) ∧ ty = 3 ∧ crewTakes w e = true)
    ∧ (∃ (s : State), ∃ e, ∃ ty, crewRuns s e = true ∧ ∃ x, x = (if ty = 3 then ownRepair e s else s) ∧ crewRuns x e = true ∧ ∃ u, u = crewDrain
        x ∧ ∃ w, (w = (u.crew.jobs.filter fun j => j.engine == e && (j.kind == ty || (ty == 1 && j.port == 0xFF && j.kind != 8))).foldl (fun t j
        => stepJob j.id t) u) ∧ ty = 3 ∧ crewTakes w e = false)
    ∧ (∃ (s : State), ∃ id, ∃ j, findJob s id = some j ∧ crewRuns s j.engine = true ∧ ∃ u, u = crewDrain s ∧ ∃ k, findJob u id = some k ∧ jobOver
        k = true ∧ k.kind ≤ 3)
    ∧ (∃ (s : State), ∃ e, ∃ b, ∃ slot, (crewRuns s e = true ∧ slot < 2) ∧ ∃ u, u = crewDrain s ∧ ∃ j, ((u.crew.jobs.find? fun j => j.kind == 4
        && j.band == b && spFirst j.words == slot) = some j))
    ∧ (∃ (s : State), ∃ e, ∃ b, ∃ slot, (crewRuns s e = true ∧ slot < 2) ∧ ∃ u, u = crewDrain s ∧ ∃ d, d = bandWords u b ∧ ((u.crew.jobs.find?
        fun j => j.kind == 4 && j.band == b && spFirst j.words == slot) = none) ∧ rebuildWanted u b slot = true ∧ rebuildHere u b slot = true ∧
        (u.crew.jobs.filter (·.kind == 4)).length < u.fld Reg.CREWG.REBUILD_CFG 12 8)
    ∧ (∃ (s : State), ∃ e, ∃ b, ∃ slot, (crewRuns s e = true ∧ slot < 2) ∧ ∃ u, u = crewDrain s ∧ ∃ d, d = bandWords u b ∧ ((u.crew.jobs.find?
        fun j => j.kind == 4 && j.band == b && spFirst j.words == slot) = none) ∧ rebuildWanted u b slot = true ∧ rebuildHere u b slot = true ∧
        u.fld Reg.CREWG.REBUILD_CFG 12 8 ≤ (u.crew.jobs.filter (·.kind == 4)).length)
    ∧ (∃ (s : State), ∃ e, ∃ b, ∃ slot, (crewRuns s e = true ∧ slot < 2) ∧ ∃ u, u = crewDrain s ∧ ∃ d, d = bandWords u b ∧ ((u.crew.jobs.find?
        fun j => j.kind == 4 && j.band == b && spFirst j.words == slot) = none) ∧ rebuildWanted u b slot = true ∧ rebuildHere u b slot = false)
    ∧ (∃ (s : State), ∃ e, ∃ b, ∃ slot, (crewRuns s e = true ∧ slot < 2) ∧ ∃ u, u = crewDrain s ∧ ∃ d, d = bandWords u b ∧ ((u.crew.jobs.find?
        fun j => j.kind == 4 && j.band == b && spFirst j.words == slot) = none) ∧ rebuildWanted u b slot = false)
    ∧ (∃ (s : State), ∃ e, ∃ b, crewRuns s e = true ∧ ∃ u, u = crewDrain s ∧ ∃ j, ownJob u 5 b = some j)
    ∧ (∃ (s : State), ∃ e, ∃ b, crewRuns s e = true ∧ ∃ u, u = crewDrain s ∧ ownJob u 5 b = none ∧ mayBackground u b = true ∧ bResync (bandWords
        u b) = true ∧ switchReady u b = false ∧ bResyncWm (bandWords u b) < bStripes (bandWords u b))
    ∧ (∃ (s : State), ∃ e, ∃ b, crewRuns s e = true ∧ ∃ u, u = crewDrain s ∧ ownJob u 5 b = none ∧ mayBackground u b = true ∧ bResync (bandWords
        u b) = true ∧ switchReady u b = false ∧ bStripes (bandWords u b) ≤ bResyncWm (bandWords u b))
    ∧ (∃ (s : State), ∃ e, ∃ b, crewRuns s e = true ∧ ∃ u, u = crewDrain s ∧ ownJob u 5 b = none ∧ (bResync (bandWords u b) = false ∨
        switchReady u b = true)) :=
  ⟨⟨crewOf [] Crew.reset, 0, 1, by decide +kernel, _, rfl, by decide +kernel, _, rfl, _, rfl, by decide +kernel⟩,
    ⟨drive [], 7, 1, by decide +kernel, _, rfl, by decide +kernel, _, rfl, _, rfl, by decide +kernel⟩,
    ⟨crewOf [] Crew.reset, 0, 2, by decide +kernel, _, rfl, by decide +kernel, _, rfl, _, rfl, by decide +kernel⟩,
    ⟨drive [], 7, 2, by decide +kernel, _, rfl, by decide +kernel, _, rfl, _, rfl, by decide +kernel⟩,
    ⟨crewOf [] Crew.reset, 0, 3, by decide +kernel, _, rfl, by decide +kernel, _, rfl, _, rfl, by decide +kernel⟩,
    ⟨drive [], 7, 3, by decide +kernel, _, rfl, by decide +kernel, _, rfl, _, rfl, by decide +kernel⟩,
    ⟨crewOf [] { Crew.reset with jobs := [{ aJob 3 with words := [] }] }, 7, _, some_of (by decide +kernel), by decide +kernel, _, rfl, _,
        some_of (by decide +kernel), by decide +kernel⟩,
    ⟨crewOf [] { Crew.reset with jobs := [{ aJob 4 with words := [] }] }, 0, 0, 0, by decide +kernel, _, rfl, _, some_of (by decide +kernel)⟩,
    ⟨crewOf [(Reg.CREWG.REBUILD_CFG, 0x101#32)] { Crew.reset with
      bands := [(0, some (aBand [0x10501#32, 2#32, 0#32, 0x80#32, 1#32, 0#32, 0x0#32, 0x1#32, 0x2#32]))] }, 0, 0, 0, by decide +kernel, _, rfl,
        _, rfl, by decide +kernel⟩,
    ⟨crewOf [(Reg.CREWG.REBUILD_CFG, 0x001#32)] { Crew.reset with
      bands := [(0, some (aBand [0x10501#32, 2#32, 0#32, 0x80#32, 1#32, 0#32, 0x0#32, 0x1#32, 0x2#32]))] }, 0, 0, 0, by decide +kernel, _, rfl,
        _, rfl, by decide +kernel⟩,
    ⟨(crewOf [(Reg.CREWG.REBUILD_CFG, 0x101#32)] { Crew.reset with
      bands := [(0, some (aBand [0x10501#32, 2#32, 0#32, 0x80#32, 1#32, 0#32, 0x0#32, 0x1#32, 0x2#32]))] }).critPut 4 0xFFFFFF#32, 0, 0, 0, by
        decide +kernel, _, rfl, _, rfl, by decide +kernel⟩,
    ⟨crewOf [] Crew.reset, 0, 0, 0, by decide +kernel, _, rfl, _, rfl, by decide +kernel⟩,
    ⟨crewOf [] { Crew.reset with jobs := [{ aJob 5 with words := [] }] }, 0, 0, by decide +kernel, _, rfl, _, some_of (by decide +kernel)⟩,
    ⟨crewOf [] { Crew.reset with bands := [(0, some (aBand [0x1000501#32, 2#32, 1#32]))] }, 0, 0, by decide +kernel, _, rfl, by decide +kernel⟩,
    ⟨crewOf [] { Crew.reset with bands := [(0, some (aBand [0x1000501#32, 2#32, 2#32]))] }, 0, 0, by decide +kernel, _, rfl, by decide +kernel⟩,
    ⟨crewOf [] { Crew.reset with bands := [(0, some (aBand [0x401#32, 1#32]))] }, 0, 0, by decide +kernel, _, rfl, by decide +kernel⟩⟩

theorem test_witness_CrewWork_2 :
    (∃ (s : State), ∃ e, crewRuns s e = true ∧ ∃ u, u = crewDrain s ∧ ∃ j, u.crew.jobs.find? (·.kind == 6) = some j)
    ∧ (∃ (s : State), ∃ e, crewRuns s e = true ∧ ∃ u, u = crewDrain s ∧ u.crew.jobs.find? (·.kind == 6) = none ∧ mode u ≠ 1)
    ∧ (∃ (s : State), ∃ e, crewRuns s e = true ∧ ∃ u, u = crewDrain s ∧ (u.crew.jobs.find? (·.kind == 6) = none ∧ mode u = 1 ∧ levelHolds u =
        false ∧ u.bit Reg.CREWG.PATROL_CFG 0 = true ∧ patrolIdle u = true) ∧ ∃ b, ∃ st, ∃ lap, patrolNext u (u.crew.lost.length + 2 *
        u.crew.bands.length + 3) false (u.fld Reg.CREWG.PATROL_POS 11 0) (u.fld Reg.CREWG.PATROL_STRIPE 23 0) = some (b, st, lap))
    ∧ (∃ (s : State), ∃ e, crewRuns s e = true ∧ ∃ u, u = crewDrain s ∧ u.crew.jobs.find? (·.kind == 7) = none ∧ ∃ tgt, u.crew.target = some tgt
        ∧ (mayBackground u (u.critFld 13 11 0) = true ∧ reshaping u (u.critFld 13 11 0) = true) ∧ ∃ wm, wm = u.fld Reg.CREWG.RESHAPE_WM 23 0 ∧ ∃
        x, ∃ rest, u.crew.recopy = x :: rest)
    ∧ (∃ (s : State), ∃ e, crewRuns s e = true ∧ ∃ u, u = crewDrain s ∧ u.crew.jobs.find? (·.kind == 7) = none ∧ ∃ tgt, u.crew.target = some tgt
        ∧ (mayBackground u (u.critFld 13 11 0) = true ∧ reshaping u (u.critFld 13 11 0) = true) ∧ ∃ wm, wm = u.fld Reg.CREWG.RESHAPE_WM 23 0 ∧
        u.crew.recopy = [] ∧ wm < bStripes tgt)
    ∧ (∃ (s : State), ∃ e, crewRuns s e = true ∧ ∃ u, u = crewDrain s ∧ u.crew.jobs.find? (·.kind == 7) = none ∧ ∃ tgt, u.crew.target = some tgt
        ∧ (mayBackground u (u.critFld 13 11 0) = true ∧ reshaping u (u.critFld 13 11 0) = true) ∧ ∃ wm, wm = u.fld Reg.CREWG.RESHAPE_WM 23 0 ∧
        u.crew.recopy = [] ∧ bStripes tgt ≤ wm)
    ∧ (∃ (s : State), ∃ b, b = s.critFld 13 11 0 ∧ crewRuns s 0 = true ∧ ∃ x, band s b = some x ∧ ∃ tgt, s.crew.target = some tgt ∧ (switchReady
        s b = true ∧ bandInFlight s b = false) ∧ ∃ u, u = setBand b (some { x with words := tgt }) (s.setCritFld 13 17 17 1) ∧ ∃ v, (v = modCrew
        (fun c => { c with lostFull := c.lostFull && decide (lostMax u ≤ (u.crew.lost.filter (·.1 != b)).length) }) (setLost (u.crew.lost.filter
        (·.1 != b)) u))) :=
  ⟨⟨crewOf [] { Crew.reset with jobs := [{ aJob 6 with words := [] }] }, 0, by decide +kernel, _, rfl, _, some_of (by decide +kernel)⟩,
    ⟨crewOf [] { Crew.reset with bands := [(0, some (aBand [0x401#32, 1#32]))] }, 0, by decide +kernel, _, rfl, by decide +kernel⟩,
    ⟨(crewOf [(Reg.CREWG.PATROL_CFG, 1#32)] { Crew.reset with bands := [(0, some (aBand [0x501#32, 2#32]))] }).critPut 0 1#32, 0, by
        decide +kernel, _, rfl, by decide +kernel, _, _, _, three_of (by decide +kernel)⟩,
    ⟨(crewOf [(Reg.CREWG.RESHAPE_WM, 0#32)] { Crew.reset with
      bands := [(0, some (aBand [0x401#32, 1#32]))], target := some [0x401#32, 2#32], recopy := [0] }).critPut 13 0x10000#32, 0, by
        decide +kernel, _, rfl, by decide +kernel, _, some_of (by decide +kernel), by decide +kernel, _, rfl, _, _, cons_of (by decide +kernel)⟩,
    ⟨(crewOf [(Reg.CREWG.RESHAPE_WM, 1#32)]
        { Crew.reset with bands := [(0, some (aBand [0x401#32, 1#32]))], target := some [0x401#32, 2#32] }).critPut 13 0x10000#32, 0, by
        decide +kernel, _, rfl, by decide +kernel, _, some_of (by decide +kernel), by decide +kernel, _, rfl, by decide +kernel⟩,
    ⟨(crewOf [(Reg.CREWG.RESHAPE_WM, 2#32)]
        { Crew.reset with bands := [(0, some (aBand [0x401#32, 1#32]))], target := some [0x401#32, 2#32] }).critPut 13 0x10000#32, 0, by
        decide +kernel, _, rfl, by decide +kernel, _, some_of (by decide +kernel), by decide +kernel, _, rfl, by decide +kernel⟩,
    ⟨(crewOf [(Reg.CREWG.RESHAPE_WM, 2#32)]
        { Crew.reset with bands := [(0, some (aBand [0x401#32, 1#32]))], target := some [0x401#32, 2#32] }).critPut 13 0x10000#32, _, rfl, by
        decide +kernel, _, some_of (by decide +kernel), _, some_of (by decide +kernel), by decide +kernel, _, rfl, _, rfl⟩⟩

end Sys2Proof.Machine
end

section
/-! Registers (R36 to R48): the record of an access that the bus refuses, and what an access of the wrong form does. -/

namespace Sys2Proof.Machine

/-! ### The record of a refused access (R553) -/

/-- Whether a page is on depends on PWR.DOMAINS and the part alone. -/
theorem pageOn_congr {s t : State} (hd : t.reg Reg.PWR.DOMAINS = s.reg Reg.PWR.DOMAINS) (hp : t.part4820 = s.part4820) (p : Nat) :
    pageOn t p = pageOn s p := by
  simp only [pageOn, domainOn, State.bit, pagePresent, hd, hp]

/-- ERR_INFO of a refused access: requester, kind and direction. -/
def errInfo (req : Requester) (wr : Bool) (kind : Nat) : Nat := Requester.code req + kind * 256 + if wr then 4096 else 0

/-- SYS with a refused access recorded and counted, before its event is raised. -/
def errRecorded (req : Requester) (a : Addr) (wr : Bool) (kind : Nat) (s : State) : State :=
  (((s.setReg Reg.SYS.ERR_INFO (word (errInfo req wr kind))).setReg Reg.SYS.ERR_ADDR_LO (loWord a.toNat)).setReg
    Reg.SYS.ERR_ADDR_HI (hiWord a.toNat)).count Reg.SYS.ERR_COUNT 1

section
variable (req : Requester) (a : Addr) (wr : Bool) {kind : Nat} (s : State)

/-- But for BUS_TIMEOUT, a refusal is the record followed by one event of SYS. -/
theorem refuseAccess_eq_raise (hk : kind ≠ 6) :
    ∃ pl, refuseAccess req a wr kind s = raise Page.SYS kind 5 (errInfo req wr kind) pl (errRecorded req a wr kind s) :=
  ⟨_, if_neg hk⟩

theorem errRecorded_errInfo : (errRecorded req a wr kind s).reg Reg.SYS.ERR_INFO = word (errInfo req wr kind) := by
  simp [errRecorded, reg_count]

theorem errRecorded_stays : Stays [.regs] s (errRecorded req a wr kind s) :=
  (((State.setReg_stays ..).app (State.setReg_stays ..) (by decide)).app (State.setReg_stays ..) (by decide)).app
    (State.count_stays ..) (by decide)

theorem errRecorded_pageOn (p : Nat) : pageOn (errRecorded req a wr kind s) p = pageOn s p :=
  pageOn_congr (by simp [errRecorded, reg_count]) (by simp [errRecorded]) p

theorem refuseAccess_errInfo (hk : kind ≠ 6) :
    (refuseAccess req a wr kind s).reg Reg.SYS.ERR_INFO = word (errInfo req wr kind) := by
  obtain ⟨pl, e⟩ := refuseAccess_eq_raise req a wr s hk
  rw [e, raise_reg _ (by decide), errRecorded_errInfo]

/-- SYS has an event for each kind, and a refusal raises it (R60). -/
theorem refuseAccess_pend (on : pageOn s Page.SYS = true) (hk : kind < 6) :
    (refuseAccess req a wr kind s).bit (Reg.EV_PEND Page.SYS) kind = true := by
  obtain ⟨pl, e⟩ := refuseAccess_eq_raise req a wr s (Nat.ne_of_lt hk)
  rw [e]
  exact raise_pend ((errRecorded_pageOn req a wr s _).trans on) (hk.trans (by decide)) (hk.trans (by decide)) _ _

/-- But for BUS_TIMEOUT, a refusal stops no block. -/
theorem refuseAccess_stays_running (hk : kind ≠ 6) : Stays [.regs, .seen, .fabric] s (refuseAccess req a wr kind s) := by
  obtain ⟨pl, e⟩ := refuseAccess_eq_raise req a wr s hk
  rw [e]
  exact ((Stays.refl _ s).app (errRecorded_stays req a wr s) (by decide)).app (raise_stays ..) (by decide)

end

/-! ### Accesses of the wrong form (R38) -/

theorem exec_registerWrite (req : Requester) (a : Addr) (width : AccessWidth) (v : Word) (o : Outside) (s : State) :
    exec (.registerWrite req a width v o) s = execRegisterWrite req a width v o s := rfl

theorem exec_latchedRead (req : Requester) (a : Addr) (width : AccessWidth) (s : State) :
    exec (.latchedRead req a width) s = execLatchedRead req a width s := rfl

/-- The access reaches a register page in a form that is not the aligned word. -/
structure BadForm (a : Addr) (k : Nat) (width : AccessWidth) : Prop where
  key : addrKey a = some k
  assigned : pagePlace (k / 0x1000) ≠ none
  form : ¬ (width = .word ∧ a.toNat % 4 = 0)

section
variable {a : Addr} {k : Nat} {width : AccessWidth} (bad : BadForm a k width) (req : Requester) (s : State)
include bad

theorem wordKey_of_badForm : wordKey a width = none := if_neg bad.form

theorem wrongForm_of_badForm (wr : Bool) : wrongForm req a wr s = busError (refuseAccess req a wr 3 s) := by
  simp only [wrongForm, bad.key, if_neg bad.assigned]

theorem registerWrite_of_badForm (v : Word) (o : Outside) :
    exec (.registerWrite req a width v o) s = .next (busError (refuseAccess req a true 3 s)) := by
  simp only [exec_registerWrite, execRegisterWrite, wordKey_of_badForm bad, wrongForm_of_badForm bad]

theorem latchedRead_of_badForm : exec (.latchedRead req a width) s = .next (busError (refuseAccess req a false 3 s)) := by
  simp only [exec_latchedRead, execLatchedRead, wordKey_of_badForm bad, wrongForm_of_badForm bad]

end

/-- What BAD_ACCESS leaves: the bus error, the event, its record, and no other change. -/
theorem badAccess_recorded {s : State} (on : pageOn s Page.SYS = true) (req : Requester) (a : Addr) (wr : Bool) :
    let t := busError (refuseAccess req a wr 3 s)
    t.bus.error = true ∧ t.bit (Reg.EV_PEND Page.SYS) 3 = true ∧ t.reg Reg.SYS.ERR_INFO = word (errInfo req wr 3)
      ∧ Within [.regs, .bus, .fabric, .seen] s t ∧ SameRegs recordsAccess s t := by
  have stays : Stays [.regs, .bus, .fabric, .seen] s (busError (refuseAccess req a wr 3 s)) :=
    ((Stays.refl _ s).app (refuseAccess_stays_running req a wr s (by decide)) (by decide)).app (busError_stays _) (by decide)
  have same : SameRegs recordsAccess s (busError (refuseAccess req a wr 3 s)) :=
    sameRegs_busError (sameRegs_refuseAccess (sameRegs_refl _ s) req a wr 3 (by decide) fun _ h => h)
  exact ⟨rfl, refuseAccess_pend req a wr s on (by decide), refuseAccess_errInfo req a wr s (by decide), stays.1, same⟩

/-- Settles O10: the form of an access is checked before its page is reached, so a bad one leaves its record in SYS alone. That this check
comes before those of presence, clock, domain and permission is log entry 5. -/
theorem misalignedAccess : Obligations.MisalignedAccess := by
  intro s req a k width key assigned form on
  have bad : BadForm a k width := ⟨key, assigned, form⟩
  exact ⟨fun v o => ⟨_, registerWrite_of_badForm bad req s v o, badAccess_recorded on req a true⟩,
    _, latchedRead_of_badForm bad req s, badAccess_recorded on req a false⟩

end Sys2Proof.Machine
end

section
/-! FAULT_CODE (R75): its layout, and that what follows a machine check leaves a fault that stands (R44, R70). -/

namespace Sys2Proof.Machine

/-! ### The layout -/

/-- A page's FAULT_CODE shows a fault of this severity, source and code. -/
def FaultShown (p sev source code : Nat) (s : State) : Prop :=
  s.bit (Reg.FAULT_CODE p) 31 = true ∧ s.fld (Reg.FAULT_CODE p) 30 28 = sev ∧ s.fld (Reg.FAULT_CODE p) 27 16 = source
    ∧ s.fld (Reg.FAULT_CODE p) 15 0 = code % 65536

theorem faultWord_toNat (sev source code : Nat) : (faultWord sev source code).toNat =
    0x80000000 + sev % 8 * 2 ^ 28 + source % 4096 * 65536 + code % 65536 := by
  simp only [faultWord, word, BitVec.toNat_ofNat]; omega

theorem bit_faultWord (sev source code : Nat) : bit (faultWord sev source code) 31 = true := by
  simp only [bit, BitVec.getLsbD, Nat.testBit_eq_decide_div_mod_eq, faultWord_toNat, decide_eq_true_eq]; omega

theorem fld_faultWord (sev source code : Nat) : fld (faultWord sev source code) 30 28 = sev % 8
    ∧ fld (faultWord sev source code) 27 16 = source % 4096 ∧ fld (faultWord sev source code) 15 0 = code % 65536 := by
  simp only [fld, faultWord_toNat]; omega

/-- Every source identifier fits the field of FAULT_CODE (R59, R75). -/
theorem sourceOf_lt {p k : Nat} (hp : p < 0x99) (hk : k < 32) : sourceOf p k < 4096 := by
  have first : ∀ p < 0x99, (pageEvents p).1 < 2048 := by decide +kernel
  have := first p hp
  unfold sourceOf; omega

theorem faultShown_of_reg {p k sev code : Nat} {s : State} (hp : p < 0x99) (hk : k < 32) (hs : sev < 8)
    (h : s.reg (Reg.FAULT_CODE p) = faultWord sev (sourceOf p k) code) : FaultShown p sev (sourceOf p k) code s := by
  obtain ⟨severity, source, low⟩ := fld_faultWord sev (sourceOf p k) code
  unfold FaultShown State.bit State.fld
  rw [h, severity, source, low, Nat.mod_eq_of_lt hs, Nat.mod_eq_of_lt (sourceOf_lt hp hk)]
  exact ⟨bit_faultWord .., rfl, rfl, rfl⟩

/-! ### A fault that stands -/

/-- FAULT_CODE of page `p` holds the fault `w`. -/
structure FaultHeld (p : Nat) (w : Word) (s : State) : Prop where
  valid : bit w 31 = true
  held : s.reg (Reg.FAULT_CODE p) = w

/-- A register of a page stands at its own offset, not at that of FAULT_CODE. -/
theorem offset_ne (p : Nat) {off : Nat} (h : off < 0x1000 := by decide) (apart : off ≠ 0x20 := by decide) :
    (p * 0x1000 + off) % 0x1000 ≠ 0x20 := by omega

namespace FaultHeld

variable {p : Nat} {w : Word} {s : State}

theorem of_regs {t : State} (h : FaultHeld p w s) (e : t.regs = s.regs) : FaultHeld p w t := ⟨h.valid, (reg_of_regs e _).trans h.held⟩

/-- An operation that writes no register leaves the fault. -/
theorem stays {ps : List Piece} {t : State} (h : FaultHeld p w s) (g : Stays ps s t) (hr : Piece.regs ∉ ps := by decide) :
    FaultHeld p w t := h.of_regs (g.1.2.2 .regs hr)

theorem setReg {k : Nat} (h : FaultHeld p w s) (hk : k % 0x1000 ≠ 0x20) (v : Word) : FaultHeld p w (s.setReg k v) :=
  ⟨h.valid, (setReg_other _ _ _ (by rintro rfl; exact hk (Nat.mul_add_mod' ..))).trans h.held⟩

theorem setFld {k : Nat} (h : FaultHeld p w s) (hk : k % 0x1000 ≠ 0x20) (hi lo v : Nat) : FaultHeld p w (s.setFld k hi lo v) :=
  h.setReg hk _

theorem setBit {k : Nat} (h : FaultHeld p w s) (hk : k % 0x1000 ≠ 0x20) (i : Nat) (b : Bool) : FaultHeld p w (s.setBit k i b) :=
  h.setReg hk _

theorem count {k : Nat} (h : FaultHeld p w s) (hk : k % 0x1000 ≠ 0x20) (n : Nat) : FaultHeld p w (s.count k n) := h.setReg hk _

theorem ite {t u : State} {c : Prop} [Decidable c] (h : FaultHeld p w t) (g : FaultHeld p w u) : FaultHeld p w (if c then t else u) := by
  split <;> assumption

theorem foldl {α : Type} {l : List α} {f : State → α → State} (h : FaultHeld p w s)
    (hf : ∀ u x, FaultHeld p w u → FaultHeld p w (f u x)) : FaultHeld p w (l.foldl f s) :=
  List.foldlRecOn (motive := FaultHeld p w) l f h fun u hu x _ => hf u x hu

/-! Events and errors. -/

theorem raise (h : FaultHeld p w s) (q k sev code : Nat) (pl : Payload) : FaultHeld p w (raise q k sev code pl s) :=
  ⟨h.valid, (raise_reg s (by show p * 0x1000 + 0x20 ≠ q * 0x1000 + 0x18; omega)).trans h.held⟩

/-- A later fault does not overwrite the one that stands (R70). -/
theorem recordFault (h : FaultHeld p w s) (q sev source code : Nat) : FaultHeld p w (recordFault q sev source code s) := by
  unfold Machine.recordFault
  split
  case isTrue => exact h
  case isFalse free =>
    have other : p ≠ q := by rintro rfl; exact free ((congrArg (bit · 31) h.held).trans h.valid)
    have set : FaultHeld p w (s.setReg (Reg.FAULT_CODE q) (faultWord sev source code)) :=
      ⟨h.valid, (setReg_other _ _ _ (by show p * 0x1000 + 0x20 ≠ q * 0x1000 + 0x20; omega)).trans h.held⟩
    exact set.setBit (offset_ne q) _ _

theorem lasting (h : FaultHeld p w s) (q k code : Nat) (pl : Payload) : FaultHeld p w (lasting q k code pl s) := by
  have recorded := (h.raise q k 3 code pl).recordFault q 3 (sourceOf q k) code
  unfold Machine.lasting haltFault
  exact .ite (recorded.of_regs rfl) recorded

/-! A granule of memory that an engine writes (R320, R324). -/

theorem putGranule (h : FaultHeld p w s) (g : Nat) (b : Beat) : FaultHeld p w (putGranule g b s) :=
  ((h.stays (State.putBytes_stays ..)).stays (putCheck_stays ..)).count (offset_ne _) 1

theorem readGranule (h : FaultHeld p w s) (sole : Bool) (who : Nat) (noise : DramNoise) (g : Nat) :
    FaultHeld p w (readGranule sole who noise g s).2.2 := by
  have beat : ∀ u, FaultHeld p w u → FaultHeld p w (u.count (Reg.DRAM.RD_BEATS (granPort g)) 1) := fun u hu =>
    hu.count (offset_ne _) 1
  have first := beat s h
  have calmed := first.stays (calmGranule_stays g _)
  unfold Machine.readGranule
  extract_lets s1 off pl b s2 s2' s3 s4
  have read : FaultHeld p w s2 := .ite ((beat _ (calmed.count (k := Reg.BOAT.GRAN_TRANSIENT) (by decide) 1)).raise ..) first
  have lost : FaultHeld p w s3 :=
    ((((beat _ calmed).count (k := Reg.BOAT.GRAN_LASTING) (by decide) 1).setReg (k := Reg.BOAT.LAST_BAD_LO) (by decide) _).setReg
      (k := Reg.BOAT.LAST_BAD_LO + 4) (by decide) _).lasting ..
  have poisoned : FaultHeld p w s4 := (lost.stays (putCheck_stays ..)).count (offset_ne _) 1
  split
  · exact read
  · split
    · exact (poisoned.count (k := Reg.BOAT.POISON_SET_COUNT) (by decide) 1).raise ..
    · exact lost

theorem storeBytes (h : FaultHeld p w s) (off : Nat) (bs : List Byte) : FaultHeld p w (storeBytes off bs s) :=
  h.foldl fun u g hu => by
    unfold storeGran
    exact .ite (hu.putGranule ..) ((hu.readGranule ..).putGranule ..)

/-! What a spindle out of lock cuts and marks (R30, R32). -/

theorem dropGate (h : FaultHeld p w s) (o : Nat) : FaultHeld p w (dropGate o s) := by
  have closed : FaultHeld p w (s.setFld (Reg.OAR.FE_STATUS o) 20 17 0) := h.setFld (offset_ne _) ..
  exact closed.stays (Stays.set_hda _ _)

/-- A cut of cause 2 or above, which ends no entry as lasting. -/
theorem cutOar {cause : Nat} (h : FaultHeld p w s) (o : Nat) (hc : cause ≠ 1) : FaultHeld p w (cutOar o cause s) := by
  have counted : ∀ u, FaultHeld p w u → FaultHeld p w (u.count (Reg.OAR.CUT_COUNT o) 1) := fun u hu =>
    hu.count (offset_ne _) 1
  unfold Machine.cutOar
  split
  · have dropped : FaultHeld p w (Machine.dropGate o (modOar o (fun r => { r with passage := none }) s)) :=
      (h.stays (modOar_stays ..)).dropGate o
    dsimp only
    split
    · rw [if_neg hc]
      exact (counted _ dropped).raise ..
    · rw [if_neg hc]
      refine FaultHeld.raise (FaultHeld.stays (counted _ ?_) (modEntry_stays ..)) ..
      split
      · exact dropped.storeBytes ..
      · exact dropped
  · exact h

theorem keelUnlock (h : FaultHeld p w s) : FaultHeld p w (keelUnlock s) := by
  have idle := h.stays (modKeel_stays (fun k => { k with lockRun := 0 }) s)
  unfold Machine.keelUnlock
  refine .ite ?_ idle
  have marked := (((idle.setBit (k := Reg.STATUS Page.KEEL) (by decide) 12 false).raise Page.KEEL 0 0 0
    { p0 := s.reg Reg.KEEL.SPEED }).stays (trTrigger_stays Page.KEEL 3 false _)).stays (markAllReads_stays _)
  exact marked.foldl fun u o hu => hu.cutOar o (by decide)

/-! What a released resource falls back to (R49, R51, R210). -/

theorem setPhaseLock (h : FaultHeld p w s) (b : Bool) : FaultHeld p w (setPhaseLock b s) := by
  unfold Machine.setPhaseLock
  exact .ite h ((h.setBit (by decide) _ _).raise ..)

theorem freshReference (h : FaultHeld p w s) : FaultHeld p w (freshReference s) := by
  unfold Machine.freshReference
  exact (FaultHeld.setBit (h.stays (modKeel_stays ..)) (by decide) _ _).setPhaseLock _

theorem dropReference (h : FaultHeld p w s) : FaultHeld p w (dropReference s) := by
  have fresh := (h.setBit (k := Reg.KEEL.REF_CFG) (by decide) 0 false).freshReference
  unfold Machine.dropReference requalify
  exact .ite fresh.keelUnlock fresh

theorem setTrState (h : FaultHeld p w s) (q st code : Nat) : FaultHeld p w (setTrState q st code s) :=
  (h.setFld (offset_ne q) ..).setFld (offset_ne q) ..

theorem storePoint (h : FaultHeld p w s) (q : Nat) : FaultHeld p w (storePoint q s) := by
  unfold Machine.storePoint
  refine FaultHeld.stays (FaultHeld.setReg ?_ (offset_ne q) _) (modTune_stays ..)
  exact (h.stays (putSums_stays ..)).stays (trPut_stays ..)

theorem tuneTrip (h : FaultHeld p w s) (q cause : Nat) (info : Int) : FaultHeld p w (tuneTrip q cause info s) := by
  unfold Machine.tuneTrip
  refine .ite (FaultHeld.stays (FaultHeld.setReg ?_ (offset_ne q) _) (modTune_stays ..)) h
  exact FaultHeld.setTrState (.ite (h.storePoint q) h) q 4 cause

theorem tuneRelease (h : FaultHeld p w s) (q : Nat) : FaultHeld p w (tuneRelease q s) := by
  unfold Machine.tuneRelease
  refine FaultHeld.setFld ?_ (offset_ne q) ..
  exact .ite h (.ite (h.tuneTrip ..) ((h.setTrState q 6 0).stays (modTune_stays ..)))

theorem freeResource (h : FaultHeld p w s) (r f : Nat) : FaultHeld p w (freeResource r f s) := by
  unfold Machine.freeResource
  exact .ite (.ite h.dropReference h)
    (.ite (.ite (h.setReg (by decide) _) (h.setFld (by decide) ..)) (h.tuneRelease _))

theorem releaseHolders (h : FaultHeld p w s) (cs : List Nat) : FaultHeld p w (releaseHolders cs s) := by
  unfold Machine.releaseHolders
  refine .ite h (List.foldlRecOn (motive := FaultHeld p w) _ _ h fun u hu r hr => ?_)
  have claim : Reg.CLAIM.CLAIM_STATE r % 0x1000 ≠ 0x20 := by
    have := List.mem_range.1 hr
    show (0x3080 + 4 * r) % 0x1000 ≠ 0x20
    omega
  exact .ite ((hu.setReg claim _).freeResource ..) hu

end FaultHeld

/-! ### A lasting error and a machine check -/

/-- The first fault of a page is recorded (R44, R70). -/
theorem recordFault_reg {p sev source code : Nat} {s : State} (clear : s.bit (Reg.FAULT_CODE p) 31 = false) :
    (recordFault p sev source code s).reg (Reg.FAULT_CODE p) = faultWord sev source code := by
  unfold recordFault
  rw [if_neg (not_of clear), setBit_other _ _ _ _ (by show p * 0x1000 + 0x20 ≠ p * 0x1000 + 0xC; omega), setReg_same]

theorem lasting_faultCode {p k code : Nat} {pl : Payload} {s : State} (clear : s.bit (Reg.FAULT_CODE p) 31 = false) :
    (lasting p k code pl s).reg (Reg.FAULT_CODE p) = faultWord 3 (sourceOf p k) code := by
  have raised : (raise p k 3 code pl s).reg (Reg.FAULT_CODE p) = s.reg (Reg.FAULT_CODE p) :=
    raise_reg s (by show p * 0x1000 + 0x20 ≠ p * 0x1000 + 0x18; omega)
  have recorded : (recordFault p 3 (sourceOf p k) code (raise p k 3 code pl s)).reg (Reg.FAULT_CODE p) = _ :=
    recordFault_reg ((congrArg (bit · 31) raised).trans clear)
  unfold lasting haltFault
  dsimp only
  split
  · exact recorded
  · exact recorded

/-- A machine check records itself as the page's fault where none stands (R74). -/
theorem markCheck_faultHeld {p source code : Nat} {s : State} (clear : s.bit (Reg.FAULT_CODE p) 31 = false) :
    FaultHeld p (faultWord 4 source code) (markCheck p source code s) := by
  have stopped : (s.setBit (Reg.STATUS p) 3 true).reg (Reg.FAULT_CODE p) = s.reg (Reg.FAULT_CODE p) :=
    setBit_other _ _ _ _ (by show p * 0x1000 + 0x20 ≠ p * 0x1000 + 0xC; omega)
  have free : ¬ (s.setBit (Reg.STATUS p) 3 true).bit (Reg.FAULT_CODE p) 31 = true :=
    not_of ((congrArg (bit · 31) stopped).trans clear)
  unfold markCheck
  simp only [if_neg free]
  exact FaultHeld.raise (FaultHeld.setReg ⟨bit_faultWord .., setReg_same ..⟩ (by decide) _) ..

/-- Releasing claims and dropping partial packets leave the fault of a machine check (R51, R95). -/
theorem enterCheck_faultCode {p source code : Nat} {s : State} (clear : s.bit (Reg.FAULT_CODE p) 31 = false) (rs : List Nat) :
    (enterCheck p source code rs s).reg (Reg.FAULT_CODE p) = faultWord 4 source code :=
  (((markCheck_faultHeld clear).releaseHolders rs).stays (dropPartials_stays ..)).held

/-- Settles O15: the first fault is written in R75's layout, with a source that fits its field, and what follows a machine check leaves it. -/
theorem faultCodeLayout : Obligations.FaultCodeLayout := by
  intro s p k code pl hk hp clear
  refine ⟨fun t e => ?_, fun rs t e => ?_⟩
  · exact faultShown_of_reg hp hk (by decide) (e ▸ lasting_faultCode clear)
  · exact faultShown_of_reg hp hk (by decide) (e ▸ enterCheck_faultCode clear rs)

end Sys2Proof.Machine
end

section
/-! Critical words (R84 to R87): who may write words 23 and 24, and the vote and repair of a read. -/

namespace Sys2Proof.Machine

/-! ### A write by a requester that no rule names (R37, R85) -/

/-- The bus ends a write by a requester that may not even read the register with a bus error (R37), not as a refused write of R42. -/
theorem withWrite_of_mayNotRead {req : Requester} {k : Nat} {s : State} (reach : Reaches req k s)
    (barred : mayRead req (k / 0x1000) (k % 0x1000) s = false) (v : Word) (eff : State → State) :
    withWrite req k v eff s = busError (refuseAccess req (keyAddr k) true 2 s) := by
  obtain ⟨free, assigned, present, ready, on⟩ := reach
  simp [withWrite, withWriteOut, writeArrived, free, assigned, present, ready, on, barred]

theorem exec_critWrite {a : Addr} {k n : Nat} (key : addrKey a = some k) (word : critWordOf k = some n) (req : Requester) (v : Word)
    (s : State) : exec (.critWrite req a v) s = .next (withWrite req k v (critEffect req n k v) s) := by
  have run : exec (.critWrite req a v) s = execCritWrite req a v s := rfl
  simp [run, execCritWrite, key, word]

/-- A bus error is never an access that ended well. -/
theorem busError_ne_busOk (v : Word) (s t : State) : busError s ≠ busOk v t := fun e =>
  Bool.noConfusion (congrArg (fun u : State => u.bus.error) e)

/-- Refutes O17: after reset, engine 0 writes word 23 at its place in the CRIT page. No rule names an engine as a requester of register
pages, so the write ends with the bus error of R37; the statement has every requester but Cox end without one, as R42 and log entry 128
have it for those that may access the page. -/
theorem not_bootSelectWords : ¬ Obligations.BootSelectWords := by
  intro h
  have reach : Reaches (.engine 0) (Reg.CRIT.WORD 23) State.reset := by unfold Reaches; decide +kernel
  obtain ⟨refused, -⟩ := h State.reset (.engine 0) (Reg.CRIT.WORD 23) 23 0#32 {} (by decide) (by decide) (by decide) (.inl rfl) reach
    (by decide +kernel)
  obtain ⟨ended, -⟩ := refused (by decide)
  rw [exec_critWrite (k := Reg.CRIT.WORD 23) (n := 23) (by decide) (by decide), withWrite_of_mayNotRead reach rfl] at ended
  exact busError_ne_busOk _ _ _ (Host.Outcome.next.inj ended)

/-! ### The vote (R86) -/

/-- Two different copies that agree on a word decide its vote. -/
theorem critVote_of_agree {c : CritStore} {n i j : Nat} {w : Word} (hi : i < 3) (hj : j < 3) (hij : i ≠ j)
    (wi : (c.copy i).get n = w) (wj : (c.copy j).get n = w) : critVote c n = some w := by
  wlog h : i < j generalizing i j
  · exact this hj hi hij.symm wj wi (by omega)
  have pairs : (i = 0 ∧ j = 1) ∨ (i = 0 ∧ j = 2) ∨ (i = 1 ∧ j = 2) := by omega
  unfold critVote
  rcases pairs with ⟨rfl, rfl⟩ | ⟨rfl, rfl⟩ | ⟨rfl, rfl⟩
  · change c.a.get n = w at wi; change c.b.get n = w at wj
    simp [wi, wj]
  · change c.a.get n = w at wi; change c.c.get n = w at wj
    simp [wi, wj]
  · change c.b.get n = w at wi; change c.c.get n = w at wj
    by_cases wa : c.a.get n = w <;> simp [wa, wi, wj]

theorem critVal_of_vote {s : State} {n : Nat} {w : Word} (whole : n ∉ s.crit.bad) (vote : critVote s.crit n = some w) :
    s.critVal n = w := by
  unfold State.critVal
  rw [if_neg whole, vote]

theorem voteWord_of_vote {s : State} {n : Nat} {w : Word} (whole : n ∉ s.crit.bad) (vote : critVote s.crit n = some w) :
    voteWord n s = repairWord n s := by
  unfold voteWord
  rw [if_neg whole, if_pos (by rw [vote]; rfl)]

/-! ### The repair of a copy (R86) -/

/-- What a repair does to copy `i` of word `n`, whose vote is `w`. -/
def repairCopy (n : Nat) (w : Word) (s : State) (i : Nat) : State := if (s.crit.copy i).get n = w then s else voteRepair n i w s

theorem repairWord_of_vote {s : State} {n : Nat} {w : Word} (vote : critVote s.crit n = some w) :
    repairWord n s = (List.range 3).foldl (repairCopy n w) s := by
  unfold repairWord
  rw [vote]; rfl

theorem copy_setCopy (c : CritStore) (x : CritCopy) {i m : Nat} (hi : i < 3) (hm : m < 3) :
    (c.setCopy i x).copy m = if m = i then x else c.copy m := by
  interval_cases i <;> interval_cases m <;> rfl

section
variable (n i : Nat) (w : Word) (s : State)

/-- A repair rewrites the word of its copy and leaves the parities (R86). -/
theorem voteRepair_crit : (voteRepair n i w s).crit =
    s.crit.setCopy i { s.crit.copy i with words := SMap.set critPowerOn (s.crit.copy i).words n w } := by
  simp [voteRepair, transient, critNote, modCrit]

/-- Copy `i` rewritten, noted in CRIT_STATUS and counted, before the repair's event is raised (R86, R90). -/
def copyRewritten : State :=
  (critNote n (lowBit ((s.crit.copy i).get n ^^^ w)) i
    (modCrit (fun c => c.setCopy i { c.copy i with words := SMap.set critPowerOn (c.copy i).words n w }) s)).count Reg.CRIT.VOTE_REPAIRS 1

theorem voteRepair_eq_raise : voteRepair n i w s = raise Page.CRIT 0 1 0 {} (copyRewritten n i w s) := rfl

theorem copyRewritten_pageOn (p : Nat) : pageOn (copyRewritten n i w s) p = pageOn s p :=
  pageOn_congr (by simp [copyRewritten, critNote, reg_count, reg_setFld]; rfl) (by simp [copyRewritten, critNote]) p

/-- A repair raises VOTE_REPAIR (R86). -/
theorem voteRepair_pend (on : pageOn s Page.CRIT = true) : (voteRepair n i w s).bit (Reg.EV_PEND Page.CRIT) 0 = true :=
  raise_pend ((copyRewritten_pageOn ..).trans on) (by decide) (by decide) _ _

theorem voteRepair_pageOn (p : Nat) : pageOn (voteRepair n i w s) p = pageOn s p := by
  rw [voteRepair_eq_raise, ← copyRewritten_pageOn n i w s]
  exact pageOn_congr (raise_reg _ (by decide)) (raise_frame ..).1 p

theorem repairCopy_bad : (repairCopy n w s i).crit.bad = s.crit.bad := by
  unfold repairCopy
  split
  · rfl
  · rw [voteRepair_crit]; unfold CritStore.setCopy; split_ifs <;> rfl

theorem repairCopy_pageOn (p : Nat) : pageOn (repairCopy n w s i) p = pageOn s p := by
  unfold repairCopy
  split
  · rfl
  · exact voteRepair_pageOn ..

theorem repairCopy_get {m : Nat} (hi : i < 3) (hm : m < 3) :
    ((repairCopy n w s i).crit.copy m).get n = if m = i then w else (s.crit.copy m).get n := by
  unfold repairCopy
  split
  case isTrue same => split <;> simp_all
  case isFalse =>
    rw [voteRepair_crit, copy_setCopy _ _ hi hm]
    split
    · exact (SMap.get_set ..).trans (if_pos rfl)
    · rfl

end

/-- After the repair of some copies those hold the vote, and the others what they held. -/
theorem repairs_get (n : Nat) (w : Word) {m : Nat} (hm : m < 3) (l : List Nat) (s : State) (hl : ∀ i ∈ l, i < 3) :
    ((l.foldl (repairCopy n w) s).crit.copy m).get n = if m ∈ l then w else (s.crit.copy m).get n := by
  induction l generalizing s with
  | nil => rfl
  | cons i l ih =>
    obtain ⟨hi, hl⟩ := List.forall_mem_cons.1 hl
    rw [List.foldl_cons, ih _ hl, repairCopy_get n i w s hi hm]
    by_cases m = i <;> simp [*]

theorem repairs_bad (n : Nat) (w : Word) (l : List Nat) (s : State) : (l.foldl (repairCopy n w) s).crit.bad = s.crit.bad :=
  List.foldlRecOn (motive := fun t => t.crit.bad = s.crit.bad) l _ rfl fun t h i _ => (repairCopy_bad n i w t).trans h

/-- VOTE_REPAIR is pending after the repair of copies one of which differed, and stays pending. -/
theorem repairs_pend (n : Nat) (w : Word) (l : List Nat) (s : State) (on : pageOn s Page.CRIT = true)
    (h : s.bit (Reg.EV_PEND Page.CRIT) 0 = true ∨ ∃ i ∈ l, (s.crit.copy i).get n ≠ w) :
    (l.foldl (repairCopy n w) s).bit (Reg.EV_PEND Page.CRIT) 0 = true := by
  induction l generalizing s with
  | nil => simpa using h
  | cons i l ih =>
    by_cases same : (s.crit.copy i).get n = w
    · have kept : repairCopy n w s i = s := if_pos same
      rw [List.foldl_cons, kept]
      exact ih s on (by simpa [same] using h)
    · have fixed : repairCopy n w s i = voteRepair n i w s := if_neg same
      rw [List.foldl_cons]
      exact ih _ ((repairCopy_pageOn ..).trans on) (.inl (fixed ▸ voteRepair_pend n i w s on))

/-- No copy differs: no repair. -/
theorem repairs_of_agree {n : Nat} {w : Word} {l : List Nat} {s : State} (h : ∀ i ∈ l, (s.crit.copy i).get n = w) :
    l.foldl (repairCopy n w) s = s :=
  List.foldlRecOn (motive := (· = s)) l _ rfl fun _ e i hi => e ▸ if_pos (e ▸ h i hi)

theorem exec_critRead {a : Addr} {k n : Nat} {req : Requester} {s : State} (key : addrKey a = some k) (word : critWordOf k = some n)
    (reads : ReadsOf req k s) : exec (.critRead req a []) s = .next (busOk ((voteWord n s).critVal n) (voteWord n s)) := by
  have run : exec (.critRead req a []) s = execCritRead req a [] s := rfl
  simp [run, execCritRead, key, word, strikeAll, withRead_pass reads]

/-- Settles O18: the vote of the two copies stands, each copy that differs is repaired in turn, and the repaired store votes the same. -/
theorem criticalVote : Obligations.CriticalVote := by
  intro s req a k n w i j key word whole reads on hi hj hij wi wj
  have vote : critVote s.crit n = some w := critVote_of_agree hi hj hij wi wj
  have voted : voteWord n s = (List.range 3).foldl (repairCopy n w) s :=
    (voteWord_of_vote whole vote).trans (repairWord_of_vote vote)
  have copies : ∀ m, m < 3 → ((voteWord n s).crit.copy m).get n = w := fun m hm => by
    rw [voted, repairs_get n w hm _ _ fun _ => List.mem_range.1, if_pos (List.mem_range.2 hm)]
  have value : (voteWord n s).critVal n = w := critVal_of_vote (by rwa [voted, repairs_bad])
    (critVote_of_agree (by decide : 0 < 3) (by decide : 1 < 3) (by decide) (copies 0 (by decide)) (copies 1 (by decide)))
  refine ⟨_, exec_critRead key word reads, value, copies, fun ⟨m, hm, differs⟩ => ?_, fun agree => ?_⟩
  · show (voteWord n s).bit _ _ = true
    rw [voted]
    exact repairs_pend n w _ s on (.inr ⟨m, List.mem_range.2 hm, differs⟩)
  · rw [value, voted, repairs_of_agree fun m hm => agree m (List.mem_range.1 hm)]

end Sys2Proof.Machine
end

section
/-! The read side of a hardware queue (R96): the item it presents, and what a pop takes. -/

namespace Sys2Proof.Machine

/-! ### The presented item -/

/-- `xs` is `l`, then `it`, then `r`, with every item of `l` at a lower level than `it` and none of `r` at a higher: `it` is the oldest item
of the highest level. -/
structure OldestOfHighest (xs l : List QItem) (it : QItem) (r : List QItem) : Prop where
  split : xs = l ++ it :: r
  earlier : ∀ y ∈ l, y.level < it.level
  later : ∀ y ∈ r, y.level ≤ it.level

theorem OldestOfHighest.level_le {xs l r : List QItem} {it : QItem} (h : OldestOfHighest xs l it r) : ∀ y ∈ xs, y.level ≤ it.level := by
  obtain ⟨rfl, earlier, later⟩ := h
  exact List.forall_mem_append.2 ⟨fun y hy => (earlier y hy).le, List.forall_mem_cons.2 ⟨le_rfl, later⟩⟩

theorem OldestOfHighest.cons {xs l r : List QItem} {it x : QItem} (h : OldestOfHighest xs l it r) (lower : x.level < it.level) :
    OldestOfHighest (x :: xs) (x :: l) it r :=
  ⟨congrArg (x :: ·) h.split, List.forall_mem_cons.2 ⟨lower, h.earlier⟩, h.later⟩

theorem qBest_cons_ne_none (x : QItem) (xs : List QItem) : qBest (x :: xs) ≠ none := by
  rw [qBest]
  split
  · exact Option.some_ne_none x
  · split <;> exact Option.some_ne_none _

/-- Only an empty list has no best item. -/
theorem eq_nil_of_qBest_eq_none {xs : List QItem} (h : qBest xs = none) : xs = [] := by
  cases xs with
  | nil => rfl
  | cons x xs => exact absurd h (qBest_cons_ne_none x xs)

theorem oldestOfHighest_of_qBest {xs : List QItem} {it : QItem} (h : qBest xs = some it) : ∃ l r, OldestOfHighest xs l it r := by
  induction xs generalizing it with
  | nil => cases h
  | cons x xs ih =>
    rw [qBest] at h
    split at h
    case h_1 empty =>
      cases h
      exact ⟨[], xs, rfl, by simp, by simp [eq_nil_of_qBest_eq_none empty]⟩
    case h_2 y best =>
      obtain ⟨l, r, top⟩ := ih best
      split at h
      case isTrue le =>
        cases h
        exact ⟨[], xs, rfl, by simp, fun z hz => (top.level_le z hz).trans le⟩
      case isFalse gt =>
        cases h
        exact ⟨x :: l, r, top.cons (not_le.1 gt)⟩

theorem qBest_cons_of_later_le {x : QItem} {xs : List QItem} (h : ∀ y ∈ xs, y.level ≤ x.level) : qBest (x :: xs) = some x := by
  rw [qBest]
  split
  case h_1 => rfl
  case h_2 y best =>
    obtain ⟨l, r, top⟩ := oldestOfHighest_of_qBest best
    exact if_pos (h y (by simp [top.split]))

theorem qBest_cons_of_lower {x it : QItem} {xs : List QItem} (best : qBest xs = some it) (lower : x.level < it.level) :
    qBest (x :: xs) = some it := by
  simp [qBest, best, lower]

theorem OldestOfHighest.qBest_eq {xs l r : List QItem} {it : QItem} (h : OldestOfHighest xs l it r) : qBest xs = some it := by
  obtain ⟨rfl, earlier, later⟩ := h
  induction l with
  | nil => exact qBest_cons_of_later_le later
  | cons x l ih =>
    obtain ⟨lower, earlier⟩ := List.forall_mem_cons.1 earlier
    exact qBest_cons_of_lower (ih earlier) lower

/-- The best item of a list is the oldest of its highest level (R96). -/
theorem qBest_eq_some_iff {xs : List QItem} {it : QItem} : qBest xs = some it ↔ ∃ l r, OldestOfHighest xs l it r :=
  ⟨oldestOfHighest_of_qBest, fun ⟨_, _, h⟩ => h.qBest_eq⟩

/-- A queue that is neither flushing nor resetting presents its best item (R96, R98). -/
theorem qHead_eq_qBest {x : HwQueue} (unflushed : x.flush = none) (settled : x.resetting = none) : qHead x = qBest x.items := by
  simp [qHead, unflushed, settled]

/-- Taking out the oldest item of the highest level leaves the others in their order, though an equal one may stand after it. -/
theorem OldestOfHighest.erase_eq {xs l r : List QItem} {it : QItem} (h : OldestOfHighest xs l it r) : xs.erase it = l ++ r := by
  obtain ⟨rfl, earlier, -⟩ := h
  have absent : it ∉ l := fun hit => lt_irrefl _ (earlier it hit)
  rw [List.erase_append_right _ absent, List.erase_cons_head]

/-! ### Reading and writing one queue's state -/

@[simp] theorem hq_setHq (q : QueueId) (x : HwQueue) (s : State) : hq (setHq q x s) q = x :=
  (SMap.get_set ..).trans (if_pos rfl)

@[simp] theorem hq_modHq (q : QueueId) (f : HwQueue → HwQueue) (s : State) : hq (modHq q f s) q = f (hq s q) :=
  hq_setHq ..

/-- What leaves the piece of the queues leaves every queue. -/
theorem Stays.hq_eq {ps : List Piece} {s t : State} (h : Stays ps s t) (free : Piece.queues ∉ ps) (q : QueueId) : hq t q = hq s q := by
  obtain ⟨⟨-, -, same⟩, -⟩ := h
  have queues : t.queues = s.queues := same .queues free
  rw [hq, queues, hq]

/-- The end of a mismatch's reset touches no item (R101). -/
theorem qNowEmpty_items (q : QueueId) (ev : Nat) (s : State) : (hq (qNowEmpty q ev s) q).items = (hq s q).items := by
  simp only [qNowEmpty]
  split
  · rw [(transient_stays ..).hq_eq (by decide), hq_setHq]
  · rfl

/-! ### The pop -/

/-- The read side gives up the item it presents, and that item alone. -/
theorem qTake_of_qHead {q : QueueId} {s : State} {it : QItem} (head : qHead (hq s q) = some it) :
    ∃ u, qTake q s = some (it, u) ∧ (hq u q).items = (hq s q).items.erase it := by
  refine ⟨_, by simp only [qTake, head]; rfl, ?_⟩
  rw [qNowEmpty_items, hq_setHq]

/-- What the consumer holds after a good pop of `it`, which left the queue at `u` (R96, R102). -/
def poppedGood (q : QueueId) (it : QItem) (u : State) : State := modHq q (fun x => { x with taken := some it }) (qGood q it u)

theorem poppedGood_taken (q : QueueId) (it : QItem) (u : State) : (hq (poppedGood q it u) q).taken = some it := by
  simp [poppedGood]

theorem poppedGood_items (q : QueueId) (it : QItem) (u : State) : (hq (poppedGood q it u) q).items = (hq u q).items := by
  simp [poppedGood, qGood]

theorem exec_queuePop_good {q : QueueId} {s u : State} {it : QItem} (alive : queueAlive s q = true) (free : (hq s q).taken = none)
    (take : qTake q s = some (it, u)) : exec (.queuePop q false) s = .next (poppedGood q it u) := by
  have run : exec (.queuePop q false) s = execQueuePop q false s := rfl
  simp [run, execQueuePop, State.when, alive, free, take, poppedGood]

/-- Settles O19: the best item of a list is the oldest of its highest level, and erasing it cuts the list at its place, since every earlier
item has a lower level. -/
theorem queueOrder : Obligations.QueueOrder := by
  refine ⟨fun x unflushed settled it => ?_, fun s q l it r alive free unflushed settled split earlier later => ?_⟩
  · rw [qHead_eq_qBest unflushed settled, qBest_eq_some_iff]
    exact ⟨fun ⟨l, r, split, earlier, later⟩ => ⟨l, r, split, earlier, later⟩,
      fun ⟨l, r, split, earlier, later⟩ => ⟨l, r, split, earlier, later⟩⟩
  · have top : OldestOfHighest (hq s q).items l it r := ⟨split, earlier, later⟩
    have head : qHead (hq s q) = some it := (qHead_eq_qBest unflushed settled).trans top.qBest_eq
    obtain ⟨u, take, left⟩ := qTake_of_qHead head
    exact ⟨_, exec_queuePop_good alive free take, poppedGood_taken .., by rw [poppedGood_items, left, top.erase_eq]⟩

end Sys2Proof.Machine
end

section
set_option Elab.async false
/-! The step: every command answers a next state (O4), within the pieces of the state that `touches` names for it (O5), in canonical form
(O8), and takes nothing but the front of the queue (O3). -/


namespace Sys2Proof.Machine

/-! ### What a command does at most -/

theorem Answers.widen {ps qs : List Piece} {s : State} {o : Host.Outcome State Fault Refusal} (h : Answers qs s o)
    (hq : sub qs ps = true) : Answers ps s o := .app (.refl ..) h hq

/-- Every command stays within the pieces that `touches` names, and keeps the canonical form: its own law, command by command. -/
theorem exec_answers (c : Instr) (s : State) : Answers (touches c) s (exec c s) := by
  match c with
  | .registerWrite .. => exact execRegisterWrite_stays ..
  | .busTimeout .. => exact execBusTimeout_stays ..
  | .latchedRead .. => exact execLatchedRead_stays ..
  | .fenceDrain .. => exact execFenceDrain_stays ..
  | .fenceDrainDone .. => exact execFenceDrainDone_stays ..
  | .softReset .. => exact execSoftReset_stays ..
  | .softResetDone .. => exact execSoftResetDone_stays ..
  | .blockDisable .. => exact execBlockDisable_stays ..
  | .evForce .. => exact execEvForce_stays ..
  | .pageLock .. => exact execPageLock_stays ..
  | .claim .. => exact execClaim_stays ..
  | .release .. => exact execRelease_stays ..
  | .devReset .. => exact execDevReset_stays ..
  | .resetN .. => exact execResetN_stays ..
  | .powerOn .. => exact execPowerOn_stays ..
  | .railStartFail .. => exact execRailStartFail_stays (vrail := 0) ..
  | .railLow .. => exact execRailLow_stays (vrail := 0) ..
  | .refclkLoss .. => exact execRefclkLoss_stays ..
  | .uartContainer .. => exact execUartContainer_stays ..
  | .islandClockStop .. => exact execIslandClockStop_stays ..
  | .clockRelock .. => exact execClockRelock_stays ..
  | .clockRelockTimeout .. => exact execClockRelockTimeout_stays ..
  | .refGlitch => exact .widen (execRefGlitch_stays ..) rfl
  | .softIrq .. => exact execSoftIrq_stays ..
  | .timerCompare .. => exact execTimerCompare_stays ..
  | .wdtConfig .. => exact .widen (execWdtConfig_stays ..) rfl
  | .wdtKick .. => exact .widen (execWdtKick_stays ..) rfl
  | .watchdog .. => exact execWatchdog_stays ..
  | .microcodeFault .. => exact execMicrocodeFault_stays ..
  | .pollTimeout .. => exact execPollTimeout_stays (vaddr := 0) ..
  | .eventMessage => exact execEventMessage_stays ..
  | .bucketLeak .. => exact execBucketLeak_stays ..
  | .targetPop .. => exact execTargetPop_stays ..
  | .critRead .. => exact execCritRead_stays ..
  | .critWrite .. => exact execCritWrite_stays ..
  | .critSweep .. => exact execCritSweep_stays ..
  | .queuePush .. => exact execQueuePush_stays ..
  | .queuePop .. => exact execQueuePop_stays ..
  | .queueAgePromote .. => exact execQueueAgePromote_stays ..
  | .flush .. => exact execFlush_stays ..
  | .flushTakesEffect .. => exact execFlushTakesEffect_stays ..
  | .pointerMismatch .. => exact execPointerMismatch_stays ..
  | .queueResetDone .. => exact execQueueResetDone_stays ..
  | .fwQueuePush .. => exact execFwQueuePush_stays ..
  | .fwQueuePop .. => exact execFwQueuePop_stays ..
  | .bridgeFrame .. => exact execBridgeFrame_stays ..
  | .riggerFrameTimeout .. => exact execRiggerFrameTimeout_stays ..
  | .bridgeResume .. => exact execBridgeResume_stays ..
  | .rigFault .. => exact execRigFault_stays ..
  | .pwrFail .. => exact execPwrFail_stays ..
  | .nandProgramDone .. => exact execNandProgramDone_stays ..
  | .dumpDone => exact execDumpDone_stays ..
  | .busCollapse .. => exact execBusCollapse_stays ..
  | .powerReturn .. => exact execPowerReturn_stays ..
  | .supplyWarn .. => exact execSupplyWarn_stays ..
  | .keelRun .. => exact execKeelRun_stays ..
  | .keelStop .. => exact execKeelStop_stays ..
  | .keelCoast .. => exact execKeelCoast_stays ..
  | .chopTest .. => exact execChopTest_stays ..
  | .keelResume .. => exact execKeelResume_stays ..
  | .keelCmdUnlisted .. => exact execKeelCmdUnlisted_stays ..
  | .spdTargetWrite .. => exact execSpdTargetWrite_stays ..
  | .refEnable .. => exact execRefEnable_stays ..
  | .pwmPeriod .. => exact execPwmPeriod_stays ..
  | .spindleLocked => exact execSpindleLocked_stays ..
  | .phaseWord .. => exact execPhaseWord_stays ..
  | .csMismatch => exact execCsMismatch_stays ..
  | .csCheck => exact execCsCheck_stays ..
  | .observerHandover => exact execObserverHandover_stays ..
  | .openLoopTimeout => exact execOpenLoopTimeout_stays ..
  | .spinupFail => exact execSpinupFail_stays ..
  | .estimateLost => exact execEstimateLost_stays ..
  | .reacqOk => exact execReacqOk_stays ..
  | .reacqFail => exact execReacqFail_stays ..
  | .shortBrake => exact execShortBrake_stays ..
  | .stopped .. => exact execStopped_stays ..
  | .genFloor => exact execGenFloor_stays ..
  | .reserveUpdate .. => exact execReserveUpdate_stays ..
  | .refEdge .. => exact execRefEdge_stays ..
  | .refLost => exact execRefLost_stays ..
  | .chopEngage .. => exact execChopEngage_stays ..
  | .chopRelease .. => exact execChopRelease_stays ..
  | .chopFault .. => exact execChopFault_stays ..
  | .vCritTrip .. => exact execVCritTrip_stays ..
  | .clearTrip .. => exact execClearTrip_stays ..
  | .threshWrite .. => exact execThreshWrite_stays ..
  | .preFwRead .. => exact execPreFwRead_stays ..
  | .preFwWrite .. => exact execPreFwWrite_stays ..
  | .serialFrameDone .. => exact execSerialFrameDone_stays ..
  | .pfaultAssert .. => exact execPfaultAssert_stays ..
  | .pfaultSettle .. => exact execPfaultSettle_stays ..
  | .faultStatusPoll .. => exact execFaultStatusPoll_stays ..
  | .discover .. => exact .widen (execDiscover_stays ..) rfl
  | .discoveryDone .. => exact execDiscoveryDone_stays ..
  | .actuatorRetire .. => exact execActuatorRetire_stays ..
  | .tempUpdate .. => exact execTempUpdate_stays ..
  | .tliUpdate .. => exact execTliUpdate_stays ..
  | .calLoad .. => exact execCalLoad_stays ..
  | .calLoadDone .. => exact execCalLoadDone_stays ..
  | .envelopeCheck .. => exact execEnvelopeCheck_stays ..
  | .wedgeDemod .. => exact execWedgeDemod_stays ..
  | .wedgeSample .. => exact execWedgeSample_stays ..
  | .subsample .. => exact execSubsample_stays ..
  | .ssFault .. => exact execSsFault_stays ..
  | .timingFail .. => exact execTimingFail_stays ..
  | .positionLost .. => exact execPositionLost_stays ..
  | .reacquireDone .. => exact execReacquireDone_stays ..
  | .reacquireTimeout .. => exact execReacquireTimeout_stays ..
  | .rudderGroup .. => exact execRudderGroup_stays ..
  | .onTrack .. => exact execOnTrack_stays ..
  | .seekFail .. => exact execSeekFail_stays ..
  | .wfClear .. => exact execWfClear_stays ..
  | .pesWindow .. => exact execPesWindow_stays ..
  | .coupleWord .. => exact execCoupleWord_stays ..
  | .snsSample .. => exact execSnsSample_stays ..
  | .shockHoldEnd => exact execShockHoldEnd_stays ..
  | .sensorFault .. => exact execSensorFault_stays ..
  | .rudderLoad .. => exact execRudderLoad_stays ..
  | .loadTimeout .. => exact execLoadTimeout_stays ..
  | .rudderUnload .. => exact execRudderUnload_stays ..
  | .rudderRetract .. => exact execRudderRetract_stays ..
  | .rudderClear .. => exact execRudderClear_stays ..
  | .rudderCmdUnlisted .. => exact execRudderCmdUnlisted_stays ..
  | .parkDetect .. => exact execParkDetect_stays ..
  | .retractTimeout .. => exact execRetractTimeout_stays ..
  | .retractCurrentEnd .. => exact execRetractCurrentEnd_stays ..
  | .coefLoad .. => exact execCoefLoad_stays ..
  | .coefLoadDone .. => exact execCoefLoadDone_stays ..
  | .coefSwitch .. => exact execCoefSwitch_stays ..
  | .coefSwitched .. => exact execCoefSwitched_stays ..
  | .tuneMode .. => exact execTuneMode_stays ..
  | .tuneGo .. => exact execTuneGo_stays ..
  | .tuneStop .. => exact execTuneStop_stays ..
  | .tuneForce .. => exact execTuneForce_stays ..
  | .traceDone .. => exact execTraceDone_stays ..
  | .sinePointEnd .. => exact execSinePointEnd_stays ..
  | .injectionEnd .. => exact execInjectionEnd_stays ..
  | .sectorRead .. => exact execSectorRead_stays ..
  | .sectorWrite .. => exact execSectorWrite_stays ..
  | .zoneTableLoad .. => exact execZoneTableLoad_stays ..
  | .zoneTableDone .. => exact execZoneTableDone_stays ..
  | .laneDispatch .. => exact execLaneDispatch_stays ..
  | .decodeEnd .. => exact execDecodeEnd_stays ..
  | .sliceEnd .. => exact execSliceEnd_stays ..
  | .reequalise .. => exact execReequalise_stays ..
  | .ladderTimeout .. => exact execLadderTimeout_stays ..
  | .laneEnWrite .. => exact execLaneEnWrite_stays ..
  | .runAdmit .. => exact execRunAdmit_stays ..
  | .gatePick .. => exact execGatePick_stays ..
  | .runAge .. => exact execRunAge_stays ..
  | .trackJobStart .. => exact execTrackJobStart_stays ..
  | .landingAck .. => exact execLandingAck_stays ..
  | .trackJobEnd .. => exact execTrackJobEnd_stays ..
  | .runEnd .. => exact execRunEnd_stays ..
  | .relocTableLoad .. => exact execRelocTableLoad_stays ..
  | .relocTableDone .. => exact execRelocTableDone_stays ..
  | .rtAdd .. => exact execRtAdd_stays ..
  | .swArmWrite .. => exact execSwArmWrite_stays ..
  | .ucodeWordWrite .. => exact execUcodeWordWrite_stays ..
  | .ucodeCommit .. => exact execUcodeCommit_stays ..
  | .ucodeRestoreDone .. => exact execUcodeRestoreDone_stays ..
  | .dramInit .. => exact execDramInit_stays ..
  | .initDone .. => exact execInitDone_stays ..
  | .srEnter .. => exact execSrEnter_stays ..
  | .selfRefresh .. => exact execSelfRefresh_stays ..
  | .srExit .. => exact execSrExit_stays ..
  | .mr4Poll .. => exact execMr4Poll_stays ..
  | .xactRead .. => exact execXactRead_stays ..
  | .xactWrite .. => exact execXactWrite_stays ..
  | .xactCopy .. => exact execXactCopy_stays ..
  | .xactFill .. => exact execXactFill_stays ..
  | .xactMerge .. => exact execXactMerge_stays ..
  | .xactDone .. => exact execXactDone_stays ..
  | .dirtyReserve .. => exact execDirtyReserve_stays ..
  | .dirtyGrant => exact execDirtyGrant_stays ..
  | .dirtyAdjReserve .. => exact execDirtyAdjReserve_stays ..
  | .dirtyAdjRelease .. => exact execDirtyAdjRelease_stays ..
  | .dirtyLimitWrite .. => exact execDirtyLimitWrite_stays ..
  | .wbRequestWrite .. => exact execWbRequestWrite_stays ..
  | .wbActivate => exact execWbActivate_stays ..
  | .cacheAccess .. => exact execCacheAccess_stays ..
  | .lockMaskWrite .. => exact execLockMaskWrite_stays ..
  | .rangeClean .. => exact execRangeClean_stays ..
  | .rangeInvalidate .. => exact execRangeInvalidate_stays ..
  | .rangeCleanInvalidate .. => exact execRangeCleanInvalidate_stays ..
  | .rangeZero .. => exact execRangeZero_stays ..
  | .rangeLockFill .. => exact execRangeLockFill_stays ..
  | .rangeStop .. => exact execRangeStop_stays ..
  | .rangeDone .. => exact execRangeDone_stays ..
  | .scrubStep .. => exact execScrubStep_stays ..
  | .scrubLogClear .. => exact execScrubLogClear_stays ..
  | .bandEnable .. => exact execBandEnable_stays ..
  | .bandDisable .. => exact execBandDisable_stays ..
  | .bandDisableDone .. => exact execBandDisableDone_stays ..
  | .bandStart .. => exact execBandStart_stays ..
  | .bandPause .. => exact execBandPause_stays ..
  | .bandResync .. => exact execBandResync_stays ..
  | .bandReshape .. => exact execBandReshape_stays ..
  | .bandCommit .. => exact execBandCommit_stays ..
  | .stripeWrite .. => exact execStripeWrite_stays ..
  | .stripeRead .. => exact execStripeRead_stays ..
  | .stripeRepair .. => exact execStripeRepair_stays ..
  | .stripeDone .. => exact execStripeDone_stays ..
  | .journalSectorWrite .. => exact execJournalSectorWrite_stays ..
  | .journalWritten => exact execJournalWritten_stays ..
  | .jrnlStart .. => exact execJrnlStart_stays ..
  | .jrnlClose .. => exact execJrnlClose_stays ..
  | .jrnlClosed => exact execJrnlClosed_stays ..
  | .jrnlReplay .. => exact execJrnlReplay_stays ..
  | .replayDone => exact execReplayDone_stays ..
  | .memberFailWrite .. => exact execMemberFailWrite_stays ..
  | .rebuildStep .. => exact execRebuildStep_stays ..
  | .resyncStep .. => exact execResyncStep_stays ..
  | .patrolStep .. => exact execPatrolStep_stays ..
  | .reshapeStep .. => exact execReshapeStep_stays ..
  | .reshapeSwitch => exact execReshapeSwitch_stays ..
  | .lossOfSync .. => exact execLossOfSync_stays ..
  | .linkResetRequest .. => exact execLinkResetRequest_stays ..
  | .linkUp .. => exact execLinkUp_stays ..
  | .linkResetTimeout .. => exact execLinkResetTimeout_stays ..
  | .codewordUncorrectable .. => exact execCodewordUncorrectable_stays ..
  | .frameAck .. => exact execFrameAck_stays ..
  | .frameNak .. => exact execFrameNak_stays ..
  | .ackNakTimeout .. => exact execAckNakTimeout_stays ..
  | .openConnection .. => exact execOpenConnection_stays ..
  | .hardReset .. => exact execHardReset_stays ..
  | .nexusLoss .. => exact execNexusLoss_stays ..
  | .powerStateRequest .. => exact execPowerStateRequest_stays ..
  | .powerDisable .. => exact execPowerDisable_stays ..
  | .commandFrame .. => exact execCommandFrame_stays ..
  | .fastPathDecode .. => exact execFastPathDecode_stays ..
  | .hostBufferAlloc => exact execHostBufferAlloc_stays ..
  | .xferRdy .. => exact execXferRdy_stays ..
  | .dataFrame .. => exact execDataFrame_stays ..
  | .sendData .. => exact execSendData_stays ..
  | .sendResponse .. => exact execSendResponse_stays ..
  | .abortTask .. => exact execAbortTask_stays ..
  | .abortTaskSet .. => exact execAbortTaskSet_stays ..
  | .clearTaskSet .. => exact execClearTaskSet_stays ..
  | .logicalUnitReset .. => exact execLogicalUnitReset_stays ..
  | .iTNexusReset .. => exact execITNexusReset_stays ..
  | .queryTask .. => exact execQueryTask_stays ..
  | .queryTaskSet .. => exact execQueryTaskSet_stays ..
  | .queryAsynchronousEvent .. => exact execQueryAsynchronousEvent_stays ..
  | .tmFunctionNotSupported .. => exact execTmFunctionNotSupported_stays ..
  | .svcDataIn .. => exact execSvcDataIn_stays ..
  | .svcDataOut .. => exact execSvcDataOut_stays ..
  | .svcRespond .. => exact execSvcRespond_stays ..
  | .svcDone .. => exact execSvcDone_stays ..
  | .uaCtrl .. => exact execUaCtrl_stays ..
  | .luCreate .. => exact execLuCreate_stays ..
  | .luDelete .. => exact execLuDelete_stays ..
  | .luDeleteDone .. => exact execLuDeleteDone_stays ..
  | .luUpdate .. => exact execLuUpdate_stays ..
  | .progressCheck => exact execProgressCheck_stays ..
  | .hazEnter req v =>
    show Answers _ s (execHazEnter req v s)
    exact execHazEnter_stays ..
  | .hazRelease .. => exact execHazRelease_stays ..
  | .fwReady => exact execFwReady_stays ..
  | .reserveWrite .. => exact execReserveWrite_stays ..
  | .modeTargetWrite .. => exact .widen (execModeTargetWrite_stays ..) rfl
  | .idleTimer => exact execIdleTimer_stays ..
  | .levelEntered => exact execLevelEntered_stays ..
  | .levelExit => exact .widen (execLevelExit_stays ..) rfl
  | .levelExitDone .. => exact execLevelExitDone_stays ..
  | .domainSwitchOn .. => exact execDomainSwitchOn_stays ..
  | .domainSwitchOff .. => exact execDomainSwitchOff_stays ..
  | .domainFault .. => exact execDomainFault_stays ..
  | .safeEnter => exact execSafeEnter_stays ..
  | .safeScan .. => exact execSafeScan_stays ..
  | .safePrepare .. => exact execSafePrepare_stays ..
  | .safeRestore .. => exact execSafeRestore_stays ..
  | .restoreDone .. => exact execRestoreDone_stays ..
  | .safeRewriteCut .. => exact execSafeRewriteCut_stays ..
  | .cutRewritten => exact execCutRewritten_stays ..
  | .safeRelease .. => exact execSafeRelease_stays ..
  | .healthTest .. => exact execHealthTest_stays ..
  | .healthPeriod .. => exact execHealthPeriod_stays ..
  | .safeCmdUnlisted .. => exact execSafeCmdUnlisted_stays ..
  | .keyLoad .. => exact execKeyLoad_stays ..
  | .keyClear .. => exact execKeyClear_stays ..
  | .keyWrap .. => exact execKeyWrap_stays ..
  | .keyErase .. => exact execKeyErase_stays ..
  | .imageVerify .. => exact execImageVerify_stays ..
  | .patchLoad .. => exact execPatchLoad_stays ..
  | .measure .. => exact execMeasure_stays ..
  | .attest .. => exact execAttest_stays ..
  | .debugUnlock .. => exact execDebugUnlock_stays ..
  | .rollbackSet .. => exact execRollbackSet_stays ..
  | .otpWrite .. => exact execOtpWrite_stays ..
  | .genId .. => exact execGenId_stays ..
  | .challenge .. => exact execChallenge_stays ..
  | .keysCmdUnlisted .. => exact execKeysCmdUnlisted_stays ..
  | .keysOpDone => exact execKeysOpDone_stays ..
  | .strokeRelease .. => exact .widen (execStrokeRelease_stays ..) rfl
  | .umpireRecord => exact execUmpireRecord_stays ..
  | .freeze .. => exact execFreeze_stays ..
  | .unfreeze .. => exact execUnfreeze_stays ..
  | .freezeTimeout => exact execFreezeTimeout_stays ..
  | .umpireClear .. => exact execUmpireClear_stays ..
  | .umpireCopy .. => exact execUmpireCopy_stays ..
  | .copyDone => exact execCopyDone_stays ..
  | .umpireWindowRead .. => exact execUmpireWindowRead_stays ..
  | .chalReq .. => exact execChalReq_stays ..
  | .certSubmit .. => exact execCertSubmit_stays ..
  | .engineHalt .. => exact execEngineHalt_stays ..
  | .halted .. => exact .widen (execHalted_stays ..) rfl
  | .engineResume .. => exact .widen (execEngineResume_stays ..) rfl
  | .engineStep .. => exact execEngineStep_stays ..
  | .breakpoint .. => exact .widen (execBreakpoint_stays ..) rfl
  | .regDataAccess .. => exact execRegDataAccess_stays ..
  | .memRead .. => exact execMemRead_stays ..
  | .memWrite .. => exact execMemWrite_stays ..
  | .idcode .. => exact execIdcode_stays ..
  | .bypass .. => exact execBypass_stays ..
  | .samplePreload .. => exact execSamplePreload_stays ..
  | .extest .. => exact execExtest_stays ..
  | .dbgAccess .. => exact execDbgAccess_stays ..
  | .atbSelect .. => exact execAtbSelect_stays ..
  | .smbusPart => exact execSmbusPart_stays ..
  | .smbusMode => exact execSmbusMode_stays ..
  | .smbusDriveTemp => exact execSmbusDriveTemp_stays ..
  | .smbusCoreTemp .. => exact execSmbusCoreTemp_stays ..
  | .smbusRigTemp => exact execSmbusRigTemp_stays ..
  | .smbusStatus => exact execSmbusStatus_stays ..
  | .smbusSerial => exact execSmbusSerial_stays ..
  | .smbusNack .. => exact execSmbusNack_stays ..
  | .smbusTimeout .. => exact execSmbusTimeout_stays ..
  | .actStretchEnd => exact execActStretchEnd_stays ..
  | .refAnalogSample .. => exact execRefAnalogSample_stays ..
  | .lutCmdUnlisted .. => exact execLutCmdUnlisted_stays ..
  | .bandCmdUnlisted .. => exact execBandCmdUnlisted_stays ..
  | .hazFwCmdUnlisted .. => exact execHazFwCmdUnlisted_stays ..
  | .refclkReturn .. => exact execRefclkReturn_stays ..
  | .railReturn .. => exact execRailReturn_stays ..
  | .safePrepareDone .. => exact execSafePrepareDone_stays ..
  | .adapterActivation .. => exact execAdapterActivation_stays ..
  | .adapterReset => exact execAdapterReset_stays ..

/-- Settles O5: the frame is half of what `exec_answers` says. -/
theorem frameOfEveryCommand : Obligations.FrameOfEveryCommand := by
  intro c s t run
  obtain ⟨within, -⟩ := (exec_answers c s).stays t run
  exact within

/-! ### The queue of commands -/

theorem step_nil {s : State} (h : s.pending = []) : step s = .next (tick s) := by
  unfold step; rw [h]

theorem step_cons {s : State} {c : Instr} {rest : List Instr} (h : s.pending = c :: rest) :
    step s = exec c { s with pending := rest } := by
  unfold step; rw [h]

/-- Settles O1. -/
theorem stepRunsFront : Obligations.StepRunsFront := fun _ _ => rfl

/-- Settles O3: the command runs on the state without it, and no command changes the queue or the part. -/
theorem commandsTakenInOrder : Obligations.CommandsTakenInOrder := by
  intro s t c rest queue run
  rw [step_cons queue] at run
  obtain ⟨⟨pending, part, -⟩, -⟩ := (exec_answers c _).stays t run
  exact ⟨pending, part⟩

/-- Settles O8: a tick keeps the canonical form, and so does every command. -/
theorem stepKeepsCanonical : Obligations.StepKeepsCanonical := by
  intro s t canonical run
  cases queue : s.pending with
  | nil =>
    rw [step_nil queue] at run
    cases run
    exact (tick_stays s).2 canonical
  | cons c rest =>
    rw [step_cons queue] at run
    exact ((exec_answers c _).stays t run).2 canonical

/-- Settles O7: nothing is stored at reset. -/
theorem resetCanonical : Obligations.ResetCanonical := ⟨rfl, rfl⟩

/-- Settles O9: each value is the reset value of its register's row. -/
theorem resetValues : Obligations.ResetValues := by
  unfold Obligations.ResetValues
  decide +kernel

/-! ### No command stops -/

/-- The command has a next state. -/
def Goes (o : Host.Outcome State Fault Refusal) : Prop := ∃ t, o = .next t

theorem goes_next (s : State) : Goes (.next s) := ⟨s, rfl⟩

theorem execEventMessage_goes (s : State) : Goes (execEventMessage s) := by
  unfold execEventMessage
  split <;> exact goes_next _

theorem execFlushTakesEffect_goes (q : QueueId) (s : State) : Goes (execFlushTakesEffect q s) := by
  unfold execFlushTakesEffect
  dsimp only
  split
  · exact goes_next _
  · split <;> exact goes_next _

theorem execBridgeFrame_goes (toRigger crcOk : Bool) (m : RiggerMirror) (s : State) : Goes (execBridgeFrame toRigger crcOk m s) := by
  unfold execBridgeFrame
  extract_lets wasBad mark
  split
  · exact goes_next _
  · split <;> exact goes_next _

theorem execNandProgramDone_goes (good : Bool) (s : State) : Goes (execNandProgramDone good s) := by
  unfold execNandProgramDone
  split <;> exact goes_next _

theorem execDumpDone_goes (s : State) : Goes (execDumpDone s) := by
  unfold execDumpDone
  split <;> exact goes_next _

theorem execDiscoveryDone_goes (replies : List ProbeReply) (s : State) : Goes (execDiscoveryDone replies s) := by
  unfold execDiscoveryDone
  split <;> exact goes_next _

theorem execCalLoadDone_goes (firstBad : List Nat) (s : State) : Goes (execCalLoadDone firstBad s) := by
  unfold execCalLoadDone
  split <;> exact goes_next _

theorem execSafeEnter_goes (s : State) : Goes (execSafeEnter s) := by
  unfold execSafeEnter
  split <;> exact goes_next _

theorem execRestoreDone_goes (badPages : List Nat) (s : State) : Goes (execRestoreDone badPages s) := by
  unfold execRestoreDone
  split <;> exact goes_next _

/-- Nine commands look at the state before they answer; the others answer a next state as they stand. -/
theorem exec_goes (c : Instr) (s : State) : Goes (exec c s) := by
  cases c
  case eventMessage => exact execEventMessage_goes s
  case flushTakesEffect q => exact execFlushTakesEffect_goes q s
  case bridgeFrame toRigger crcOk m => exact execBridgeFrame_goes toRigger crcOk m s
  case nandProgramDone good => exact execNandProgramDone_goes good s
  case dumpDone => exact execDumpDone_goes s
  case discoveryDone replies => exact execDiscoveryDone_goes replies s
  case calLoadDone firstBad => exact execCalLoadDone_goes firstBad s
  case safeEnter => exact execSafeEnter_goes s
  case restoreDone badPages => exact execRestoreDone_goes badPages s
  all_goals exact ⟨_, rfl⟩

/-- Settles O4: a tick answers a next state, and so does every command. A happening whose conditions do not hold answers the state as it is
(log entry 2). -/
theorem nothingStops : Obligations.NothingStops := by
  refine ⟨exec_goes, fun s => ?_⟩
  cases queue : s.pending with
  | nil => exact ⟨_, step_nil queue⟩
  | cons c rest => rw [step_cons queue]; exact exec_goes c _

end Sys2Proof.Machine
end

section
set_option Elab.async false
/-! The tick (R19, R57): beside the time base and the power manager, it moves the cores' timer lines. -/

namespace Sys2Proof.Machine

/-- Reset, with the domain of core 0 on and its timer set to one nanosecond (R57). -/
def timerDue : State := ((State.reset.setBit Reg.PWR.DOMAINS 2 true).setReg (Reg.STROKE.TIMECMP_LO 0) 1#32).setReg (Reg.STROKE.TIMECMP_HI 0) 0#32

theorem timerDue_quiet : timerDue.pending = [] ∧ timerDue.bus.held = [] ∧ timerDue.clocks.transit = [] := ⟨rfl, rfl, rfl⟩

theorem timerDue_line : (stroke timerDue 0).timerIrq = false ∧ (stroke (tick timerDue) 0).timerIrq = true := by decide +kernel

/-- Refutes O2: where no access waits and no domain is in transition, the tick at which the time base reaches TIMECMP of a core raises that
core's timer interrupt (R57), so more changes than the time base and the power manager's view of idleness. -/
theorem not_emptyQueueTicks : ¬ Obligations.EmptyQueueTicks := by
  rintro ⟨quiet, -, -⟩
  obtain ⟨pending, held, transit⟩ := timerDue_quiet
  obtain ⟨t, run, -, ⟨-, -, same⟩, -⟩ := quiet timerDue pending held transit
  obtain rfl : tick timerDue = t := Host.Outcome.next.inj ((step_nil pending).symm.trans run)
  have strokes : (tick timerDue).strokes = timerDue.strokes := same .strokes (by decide)
  obtain ⟨before, after⟩ := timerDue_line
  have line : stroke (tick timerDue) 0 = stroke timerDue 0 := congrArg (SMap.get _ · 0) strokes
  rw [line, before] at after
  cases after

end Sys2Proof.Machine
end

section
set_option Elab.async false
/-! Registers of one page (O6): a command whose effect stands on one page writes the registers of that page, and those in which SYS records a
refused access. -/

namespace Sys2Proof.Machine

/-- Between `s` and `t` the registers differ at most on page `p` and in the record of a refused access. -/
structure OwnRegs (p : Nat) (s t : State) : Prop where
  same : SameRegs (fun k => k / 0x1000 == p || recordsAccess k) s t

theorem OwnRegs.refl (p : Nat) (s : State) : OwnRegs p s s := ⟨sameRegs_refl _ s⟩

theorem key_own {p : Nat} (off : Nat) (h : off < 0x1000) : (p * 0x1000 + off) / 0x1000 = p := by omega

namespace OwnRegs

variable {p : Nat} {s u t : State}

theorem own {k : Nat} (hk : k / 0x1000 = p) : (k / 0x1000 == p || recordsAccess k) = true := by simp [hk]

theorem regs (h : OwnRegs p s u) (e : t.regs = u.regs) : OwnRegs p s t := ⟨sameRegs_of_regs h.same e⟩

theorem setReg (h : OwnRegs p s u) {k : Nat} (hk : k / 0x1000 = p) (v : Word) : OwnRegs p s (u.setReg k v) :=
  ⟨sameRegs_setReg h.same k v (own hk)⟩

theorem setFld (h : OwnRegs p s u) {k : Nat} (hk : k / 0x1000 = p) (hi lo v : Nat) : OwnRegs p s (u.setFld k hi lo v) :=
  h.setReg hk _

theorem setBit (h : OwnRegs p s u) {k : Nat} (hk : k / 0x1000 = p) (i : Nat) (b : Bool) : OwnRegs p s (u.setBit k i b) :=
  h.setReg hk _

theorem count (h : OwnRegs p s u) {k : Nat} (hk : k / 0x1000 = p) (n : Nat) : OwnRegs p s (u.count k n) := h.setReg hk _

theorem storeWrite (h : OwnRegs p s u) {k : Nat} (hk : k / 0x1000 = p) (v : Word) : OwnRegs p s (storeWrite k v u) := by
  unfold Machine.storeWrite
  split
  · exact h.setReg hk _
  · exact h

theorem raise (h : OwnRegs p s u) (k sev code : Nat) (pl : Payload) : OwnRegs p s (raise p k sev code pl u) :=
  ⟨sameRegs_raise h.same p k sev code pl (own (key_own _ (by decide)))⟩

theorem lasting (h : OwnRegs p s u) (k code : Nat) (pl : Payload) : OwnRegs p s (lasting p k code pl u) :=
  ⟨sameRegs_lasting h.same p k code pl (own (key_own _ (by decide))) (own (key_own _ (by decide))) (own (key_own _ (by decide)))⟩

/-- An operation that leaves the registers. -/
theorem after {ps : List Piece} (g : Stays ps u t) (h : OwnRegs p s u) (free : Piece.regs ∉ ps := by decide) : OwnRegs p s t :=
  by
  obtain ⟨⟨-, -, same⟩, -⟩ := g
  exact h.regs (same .regs free)

theorem ite {c : Prop} [Decidable c] (h : OwnRegs p s u) (g : OwnRegs p s t) : OwnRegs p s (if c then u else t) := by
  split <;> assumption

theorem whenMet (h : OwnRegs p s u) (c : Bool) (f : State → State) (hf : c = true → OwnRegs p s (f u)) : OwnRegs p s (u.when c f) :=
  ⟨sameRegs_when h.same c f fun hc => (hf hc).same⟩

theorem when (c : Bool) (f : State → State) (h : OwnRegs p s (f s)) : OwnRegs p s (s.when c f) :=
  (OwnRegs.refl p s).whenMet c f fun _ => h

theorem foldl {α : Type} (l : List α) (f : State → α → State) (hf : ∀ u x, x ∈ l → OwnRegs p s u → OwnRegs p s (f u x))
    (h : OwnRegs p s u) : OwnRegs p s (l.foldl f u) :=
  ⟨sameRegs_foldl f l (fun u x hx h => (hf u x hx ⟨h⟩).same) u h.same⟩

theorem withWrite (req : Requester) (k : Nat) (v : Word) (eff : State → State) (h : ∀ u, OwnRegs p s u → OwnRegs p s (eff u)) :
    OwnRegs p s (withWrite req k v eff s) :=
  ⟨sameRegs_withWrite req k v eff (fun k hk => by simp [hk]) fun u hu => (h u ⟨hu⟩).same⟩

/-- What stands in a held access changes no register. -/
theorem withWriteOut (o : Outside) (req : Requester) (k : Nat) (v : Word) (eff : State → State)
    (h : ∀ u, OwnRegs p s u → OwnRegs p s (eff u)) : OwnRegs p s (withWriteOut o req k v eff s) := by
  refine (withWrite req k v eff h).regs ?_
  unfold Machine.withWrite Machine.withWriteOut
  dsimp only
  split_ifs <;> rfl

end OwnRegs

/-- Every outcome of a meaning differs from `s` in the registers of page `p` and the record of a refused access at most. -/
structure Owns (p : Nat) (s : State) (o : Host.Outcome State Fault Refusal) : Prop where
  own : ∀ t, o = .next t → OwnRegs p s t

theorem owns_next {p : Nat} {s t : State} (h : OwnRegs p s t) : Owns p s (.next t) := ⟨fun _ e => Host.Outcome.next.inj e ▸ h⟩

/-- A command that is one write, under a guard. -/
theorem owns_write {p : Nat} (c : Bool) (req : Requester) (k : Nat) (v : Word) (eff : State → State) (s : State)
    (h : ∀ u, OwnRegs p s u → OwnRegs p s (eff u)) : Owns p s (.next (s.when c (withWrite req k v eff))) :=
  owns_next (.when _ _ (.withWrite req k v eff h))

/-! ### Resets, enables, locks and fences -/

theorem execSoftResetDone_owns {page : Nat} (h : page ≠ Page.CACHE) (s : State) : Owns page s (execSoftResetDone page s) := by
  refine owns_next (.when _ _ ?_)
  simp only [h, if_false, false_and]
  exact .setReg (.refl ..) (key_own _ (by decide)) _

theorem execBlockDisable_owns (req : Requester) (page : Nat) (v : Word) (s : State) : Owns page s (execBlockDisable req page v s) :=
  owns_write _ _ _ _ _ _ fun _ h => .ite h (h.storeWrite (key_own _ (by decide)) v)

theorem evForceEffect_own {p : Nat} {s u : State} (v : Word) (h : OwnRegs p s u) : OwnRegs p s (evForceEffect p v u) := by
  refine .foldl _ _ (fun t k _ h => .ite ?_ h) h
  split
  · exact h.raise ..
  · exact h

theorem execEvForce_owns (req : Requester) (page : Nat) (v : Word) (s : State) : Owns page s (execEvForce req page v s) :=
  owns_next (.withWrite _ _ _ _ fun _ => evForceEffect_own v)

theorem lockEffect_own {p : Nat} {s u : State} (v : Word) (h : OwnRegs p s u) : OwnRegs p s (lockEffect p v u) := by
  unfold lockEffect
  split
  · exact .foldl _ _ (fun _ _ _ h => .after (.set_rwlShadow ..) h) (h.setBit (key_own _ (by decide)) ..)
  · exact h

theorem execPageLock_owns (req : Requester) (page : Nat) (v : Word) (s : State) : Owns page s (execPageLock req page v s) :=
  owns_next (.withWrite _ _ _ _ fun _ => lockEffect_own v)

theorem execFenceDrain_owns (req : Requester) (page : Nat) (v : Word) (s : State) : Owns page s (execFenceDrain req page v s) := by
  refine owns_next ?_
  split
  · exact .when _ _ (.withWrite _ _ _ _ fun _ => .after (fenceEffect_stays ..))
  · exact .refl ..

/-! ### Clocks, the firmware processors, SYS and PWR -/

theorem execSoftIrq_owns (req : Requester) (core : Nat) (v : Word) (s : State) : Owns (Page.STROKE core) s (execSoftIrq req core v s) :=
  owns_write _ _ _ _ _ _ fun _ h => h.storeWrite (key_own _ (by decide)) v

theorem execWdtConfig_owns (req : Requester) (core : Nat) (v : Word) (s : State) : Owns (Page.STROKE core) s (execWdtConfig req core v s) :=
  owns_write _ _ _ _ _ _ fun _ h => .after (modStroke_stays ..) (h.storeWrite (key_own _ (by decide)) v)

theorem execWdtKick_owns (req : Requester) (core : Nat) (v : Word) (s : State) : Owns (Page.STROKE core) s (execWdtKick req core v s) :=
  owns_write _ _ _ _ _ _ fun _ h => .ite (.after (modStroke_stays ..) h) h

theorem execIslandClockStop_owns (n : Nat) (s : State) : Owns Page.CLK s (execIslandClockStop n s) := by
  refine owns_next (.when _ _ ?_)
  exact .count (.after (modClocks_stays ..) (.refl ..)) (by rfl) _

theorem execRefGlitch_owns (s : State) : Owns Page.CLK s (execRefGlitch s) := by
  unfold execRefGlitch
  extract_lets s1
  have counted : OwnRegs Page.CLK s s1 := .after (modClocks_stays ..) ((OwnRegs.refl ..).setReg (by rfl) _)
  exact owns_next (.ite (.raise counted ..) counted)

theorem execSupplyWarn_owns (v12 v5 : Nat) (s : State) : Owns Page.PWR s (execSupplyWarn v12 v5 s) := by
  refine owns_next (.when _ _ ?_)
  extract_lets low12 low5 s1 s2
  have h1 : OwnRegs Page.PWR s s1 := .ite ((OwnRegs.refl ..).raise ..) (.refl ..)
  have h2 : OwnRegs Page.PWR s s2 := .ite (h1.raise ..) h1
  exact .after (modPower_stays ..) (h2.setReg (by rfl) _)

theorem execReserveWrite_owns (req : Requester) (i : Nat) (v : Word) (s : State) : Owns Page.SYS s (execReserveWrite req i v s) := by
  refine owns_next ((OwnRegs.refl ..).whenMet _ _ fun low => .withWrite _ _ _ _ fun u h => ?_)
  have low : i < 6 := of_decide_eq_true low
  refine .ite (h.raise ..) (h.setReg ?_ _)
  simp only [Reg.SYS.RES_STRIPE_LO, Page.SYS]
  omega

/-! ### Keel and the rigger die -/

theorem execSpindleLocked_owns (s : State) : Owns Page.KEEL s (execSpindleLocked s) := by
  refine owns_next (.when _ _ ?_)
  exact .raise (.after (modKeel_stays ..) ((OwnRegs.refl ..).setBit (by rfl) ..)) ..

theorem execPhaseWord_owns (sextant : Fin 6) (frac : BitVec 16) (s : State) : Owns Page.KEEL s (execPhaseWord sextant frac s) := by
  refine owns_next (.when _ _ ?_)
  extract_lets raw pos valid s1
  have h : OwnRegs Page.KEEL s s1 := .after (modKeel_stays ..) ((OwnRegs.refl ..).setReg (by rfl) _)
  exact .ite (.after (trTrigger_stays ..) h) h

theorem execCsCheck_owns (s : State) : Owns Page.KEEL s (execCsCheck s) := by
  refine owns_next (.when _ _ ?_)
  extract_lets u v s1
  have h : OwnRegs Page.KEEL s s1 := .after (modKeel_stays ..) (.refl ..)
  have failed (n code : Nat) : OwnRegs Page.KEEL s (lasting Page.KEEL 6 code {} (s1.setFld (Reg.STATUS Page.KEEL) 17 16 n)) :=
    (h.setFld (by rfl) ..).lasting ..
  exact .ite (failed ..) (.ite (failed ..) (.ite (failed ..) (h.raise ..)))

theorem setPhaseLock_own {s u : State} (b : Bool) (h : OwnRegs Page.KEEL s u) : OwnRegs Page.KEEL s (setPhaseLock b u) :=
  .ite h (.raise (h.setBit (by rfl) ..) ..)

theorem freqEdge_own {s u : State} (speed ago : Nat) (h : OwnRegs Page.KEEL s u) : OwnRegs Page.KEEL s (freqEdge speed ago u) := by
  unfold freqEdge
  extract_lets known err win s1 s2 s3
  have h1 : OwnRegs Page.KEEL s s1 := .setBit (.ite (h.setReg (by rfl) _) h) (by rfl) ..
  have h2 : OwnRegs Page.KEEL s s2 := .after (modKeel_stays ..) h1
  have h3 : OwnRegs Page.KEEL s s3 := .ite (setPhaseLock_own _ h2) (.ite (setPhaseLock_own _ h2) h2)
  exact .after (modKeel_stays ..) h3

theorem dutyEdge_own {s u : State} (periodNs highNs ago : Nat) (h : OwnRegs Page.KEEL s u) :
    OwnRegs Page.KEEL s (dutyEdge periodNs highNs ago u) :=
  .after (stepTrim_stays ..) (.after (modKeel_stays ..) (h.setBit (by rfl) ..))

theorem execRefEdge_owns (periodNs highNs agoNs : Nat) (s : State) : Owns Page.KEEL s (execRefEdge periodNs highNs agoNs s) := by
  refine owns_next (.when _ _ (.ite (dutyEdge_own _ _ _ (.refl ..)) (.ite (freqEdge_own _ _ (.refl ..)) ?_)))
  exact .raise (.after (modKeel_stays ..) (setPhaseLock_own _ ((OwnRegs.refl ..).setBit (by rfl) ..))) ..

theorem execRefLost_owns (s : State) : Owns Page.KEEL s (execRefLost s) := by
  refine owns_next (.when _ _ ?_)
  have lost : OwnRegs Page.KEEL s (s.setBit (Reg.STATUS Page.KEEL) 22 false) := (OwnRegs.refl ..).setBit (by rfl) ..
  split
  · exact .refl ..
  · refine .ite (.ite ?_ (.refl ..)) (.ite ?_ (.refl ..))
    · exact .raise (setPhaseLock_own _ (.after (modKeel_stays ..) lost)) ..
    · exact .raise (.after (modKeel_stays ..) lost) ..

theorem execRefAnalogSample_owns (x : BitVec 12) (s : State) : Owns Page.KEEL s (execRefAnalogSample x s) := by
  refine owns_next (.when _ _ ?_)
  exact .after (stepTrim_stays ..) (.after (modKeel_stays ..) ((OwnRegs.refl ..).setBit (by rfl) ..))

theorem execChopRelease_owns (busMv : Nat) (s : State) : Owns Page.DRV s (execChopRelease busMv s) :=
  owns_next (.when _ _ (.after (modRigger_stays ..) (.refl ..)))

/-! ### The head stack, Rudder and COUPLE -/

theorem readDiode_own {s u : State} (i : Nat) (d : Diode) (x : Int) (h : OwnRegs Page.HDA s u) :
    OwnRegs Page.HDA s (readDiode i d x u).2 := by
  unfold readDiode
  split
  · exact h
  split
  · split
    · exact h.lasting ..
    · exact h
  · exact .ite (h.raise ..) h

theorem execTempUpdate_owns (d0 d1 : Int) (s : State) : Owns Page.HDA s (execTempUpdate d0 d1 s) := by
  refine owns_next (.when _ _ ?_)
  have h1 := readDiode_own 0 s.hda.d0 d0 (OwnRegs.refl Page.HDA s)
  generalize readDiode 0 s.hda.d0 d0 s = r1 at h1
  obtain ⟨x0, s1⟩ := r1
  dsimp -zeta only
  have h2 := readDiode_own 1 s.hda.d1 d1 h1
  generalize readDiode 1 s.hda.d1 d1 s1 = r2 at h2
  obtain ⟨x1, s2⟩ := r2
  dsimp -zeta only
  extract_lets old s3 good
  generalize good = ts
  have h3 : OwnRegs Page.HDA s s3 := .setReg (.setReg (.after (.set_hda ..) h2) (by rfl) _) (by rfl) _
  cases ts with
  | nil => exact h3.setBit (by rfl) ..
  | cons => exact h3.setReg (by rfl) _

theorem execTliUpdate_owns (lowNs : Nat) (s : State) : Owns Page.HDA s (execTliUpdate lowNs s) := by
  refine owns_next (.when _ _ ?_)
  exact .setReg (.after (.set_hda ..) (.refl ..)) (by rfl) _

theorem execCalLoad_owns (req : Requester) (v : Word) (s : State) : Owns Page.CAL s (execCalLoad req v s) :=
  owns_write _ _ _ _ _ _ fun _ h => h.whenMet _ _ fun _ => .after (modCal_stays ..) h

theorem execSsFault_owns (a k : Nat) (s : State) : Owns (Page.RUDDER a) s (execSsFault a k s) := by
  unfold execSsFault
  refine owns_next (.when _ _ ?_)
  exact .lasting (.after (modRud_stays ..) (.refl ..)) ..

theorem execWfClear_owns (a k : Nat) (s : State) : Owns (Page.RUDDER a) s (execWfClear a k s) := by
  refine owns_next (.when _ _ ?_)
  exact .setFld (.after (modSlot_stays ..) (.refl ..)) (key_own _ (by decide)) ..

theorem pesSlot_own {a k : Nat} (hk : k < 4) {s u : State} (h : OwnRegs (Page.RUDDER a) s u) :
    OwnRegs (Page.RUDDER a) s (pesSlot a u k) := by
  unfold pesSlot
  extract_lets x w now t1 v t2
  have h1 : OwnRegs (Page.RUDDER a) s t1 := .after (modRud_stays ..) h
  have key : Reg.RUDDER.PES3S a k / 0x1000 = Page.RUDDER a := by simp only [Reg.RUDDER.PES3S, Page.RUDDER]; omega
  have h2 : OwnRegs (Page.RUDDER a) s t2 := h1.setReg key _
  exact .ite h1 (.ite (h2.raise ..) h2)

theorem execPesWindow_owns (a : Nat) (s : State) : Owns (Page.RUDDER a) s (execPesWindow a s) := by
  refine owns_next (.when _ _ ?_)
  exact .foldl _ _ (fun _ _ hk h => pesSlot_own (List.mem_range.1 hk) h) (.after (modRud_stays ..) (.refl ..))

theorem coefCtrlEffect_own {a : Nat} {s u : State} (v : Word) (h : OwnRegs (Page.RUDDER a) s u) :
    OwnRegs (Page.RUDDER a) s (coefCtrlEffect a v u) := by
  have key : Reg.RUDDER.COEF_CTRL a / 0x1000 = Page.RUDDER a := key_own _ (by decide)
  unfold coefCtrlEffect
  extract_lets k s1
  have h1 : OwnRegs (Page.RUDDER a) s s1 := .ite (.after (modRud_stays ..) ((h.setBit key ..).setBit key ..)) h
  exact .ite (.ite (h1.setBit key ..) (h1.raise ..)) h1

theorem execCoefLoad_owns (req : Requester) (a : Nat) (v : Word) (s : State) : Owns (Page.RUDDER a) s (execCoefLoad req a v s) :=
  owns_write _ _ _ _ _ _ fun _ => coefCtrlEffect_own v

theorem execCoefSwitch_owns (req : Requester) (a : Nat) (v : Word) (s : State) : Owns (Page.RUDDER a) s (execCoefSwitch req a v s) :=
  owns_write _ _ _ _ _ _ fun _ => coefCtrlEffect_own v

theorem execCoupleWord_owns (a sender : Nat) (headOk coilOk milliOk : Bool) (s : State) :
    Owns Page.COUPLE s (execCoupleWord a sender headOk coilOk milliOk s) := by
  unfold execCoupleWord
  extract_lets c w others
  refine owns_next (.when _ _ ?_)
  extract_lets s0 good1 good2 bad1
  have h0 : OwnRegs Page.COUPLE s s0 := .after (modCoupled_stays ..) (.refl ..)
  have h2 : OwnRegs Page.COUPLE s good2 := .setBit (.after (modCoupled_stays ..) h0) (by rfl) ..
  have h1 : OwnRegs Page.COUPLE s bad1 := .raise (.count (.after (modCoupled_stays ..) h0) (by rfl) _) ..
  exact .ite (.ite (h2.setBit (by rfl) ..) h2) (.ite h1 (.lasting ((h1.setBit (by rfl) ..).setBit (by rfl) ..) ..))

theorem execSensorFault_owns (n : Nat) (s : State) : Owns Page.COUPLE s (execSensorFault n s) := by
  refine owns_next (.when _ _ ?_)
  exact .lasting ((OwnRegs.refl ..).setBit (by rfl) ..) ..

/-! ### The tuning blocks -/

theorem setTrState_own {p : Nat} {s u : State} (st code : Nat) (h : OwnRegs p s u) : OwnRegs p s (setTrState p st code u) :=
  .setFld (.setFld h (key_own _ (by decide)) ..) (key_own _ (by decide)) ..

theorem storePoint_own {p : Nat} {s u : State} (h : OwnRegs p s u) : OwnRegs p s (storePoint p u) := by
  unfold storePoint
  extract_lets n sums s1
  have h1 : OwnRegs p s s1 := .after (trPut_stays ..) (.after (putSums_stays ..) h)
  exact .after (modTune_stays ..) (.setReg h1 (key_own _ (by decide)) _)

theorem execTraceDone_owns (page : Nat) (s : State) : Owns page s (execTraceDone page s) :=
  owns_next (.when _ _ (setTrState_own 3 0 (.refl ..)))

theorem execSinePointEnd_owns (page point : Nat) (s : State) : Owns page s (execSinePointEnd page point s) := by
  refine owns_next (.when _ _ ?_)
  have stored : OwnRegs page s (storePoint page s) := storePoint_own (.refl ..)
  exact .ite (.after (modTune_stays ..) (setTrState_own 3 0 stored)) (.setFld stored (key_own _ (by decide)) ..)

theorem execInjectionEnd_owns (page : Nat) (s : State) : Owns page s (execInjectionEnd page s) := by
  unfold execInjectionEnd
  refine owns_next (.when _ _ ?_)
  exact .after (modTune_stays ..) (setTrState_own 3 0 (.refl ..))

/-! ### Oars, Sweep, Gate and the microcode store -/

theorem execZoneTableLoad_owns (req : Requester) (oar : Nat) (v : Word) (s : State) :
    Owns (Page.OAR oar) s (execZoneTableLoad req oar v s) := by
  refine owns_write _ _ _ _ _ _ fun u h => .ite h (.ite (h.raise ..) ?_)
  exact .after (modOar_stays ..) (.setBit (.setBit h (key_own _ (by decide)) ..) (key_own _ (by decide)) ..)

theorem execRelocTableLoad_owns (req : Requester) (oar : Nat) (v : Word) (s : State) :
    Owns (Page.OAR oar) s (execRelocTableLoad req oar v s) := by
  refine owns_write _ _ _ _ _ _ fun u h => .ite h (.ite (h.raise ..) ?_)
  exact .after (modOar_stays ..) (.setReg (.setBit h (key_own _ (by decide)) ..) (key_own _ (by decide)) _)

theorem execRtAdd_owns (req : Requester) (oar : Nat) (v : Word) (s : State) : Owns (Page.OAR oar) s (execRtAdd req oar v s) := by
  refine owns_write _ _ _ _ _ _ fun u h => .ite h ?_
  extract_lets r old c s1 new
  have h1 : OwnRegs (Page.OAR oar) s s1 := h.setFld (key_own _ (by decide)) ..
  exact .ite (h1.lasting ..) (.ite h1 (.setFld (.after (modOar_stays ..) h1) (key_own _ (by decide)) ..))

theorem execSwArmWrite_owns (req : Requester) (oar : Nat) (v : Word) (s : State) : Owns (Page.OAR oar) s (execSwArmWrite req oar v s) :=
  owns_write _ _ _ _ _ _ fun _ h => h.setReg (key_own _ (by decide)) _

theorem execLaneEnWrite_owns (req : Requester) (v : Word) (s : State) : Owns Page.SWEEP s (execLaneEnWrite req v s) :=
  owns_next (.withWrite _ _ _ _ fun _ h => .ite h (h.setFld (by rfl) ..))

theorem execRunAge_owns (a : Nat) (s : State) : Owns (Page.GATE a) s (execRunAge a s) := by
  refine owns_next (.when _ _ ?_)
  extract_lets ms
  split
  · exact .refl ..
  · extract_lets s1 s2
    have h1 : OwnRegs (Page.GATE a) s s1 := .after (modRun_stays ..) (.refl ..)
    have h2 : OwnRegs (Page.GATE a) s s2 := .ite (h1.raise ..) h1
    exact .ite h1 (.count (.after (modGate_stays ..) h2) (key_own _ (by decide)) _)

theorem execUcodeWordWrite_owns (req : Requester) (v : Word) (s : State) : Owns Page.UCODE s (execUcodeWordWrite req v s) :=
  owns_next (.withWrite _ _ _ _ fun _ h => .ite (h.raise ..) (.after (modUcode_stays ..) (h.setReg (by rfl) v)))

theorem commitEffect_own {s u : State} (h : OwnRegs Page.UCODE s u) : OwnRegs Page.UCODE s (commitEffect u) := by
  unfold commitEffect
  refine .ite (h.raise ..) ?_
  extract_lets s1
  have h1 : OwnRegs Page.UCODE s s1 := .foldl _ _ (fun _ _ _ h => .after (restoreCopy_stays ..) h) h
  exact .raise (.setBit (.after (modUcode_stays ..) h1) (by rfl) ..) ..

theorem execUcodeCommit_owns (req : Requester) (v : Word) (s : State) : Owns Page.UCODE s (execUcodeCommit req v s) :=
  owns_write _ _ _ _ _ _ fun _ => commitEffect_own

/-! ### The DRAM ports, Boathouse, the cache and the scrub -/

theorem dramInitEffect_own {n : Nat} {s u : State} (r : TrainResult) (h : OwnRegs (Page.DRAM n) s u) :
    OwnRegs (Page.DRAM n) s (dramInitEffect n r u) := by
  have status : Reg.DRAM.DRAM_STATUS n / 0x1000 = Page.DRAM n := key_own _ (by decide)
  unfold dramInitEffect
  refine .ite h ?_
  extract_lets s0 s1 s2 s3
  have h0 : OwnRegs (Page.DRAM n) s s0 := .after (modDram_stays ..) h
  have h1 : OwnRegs (Page.DRAM n) s s1 := .ite h0 (h0.count (key_own _ (by decide)) _)
  have h2 : OwnRegs (Page.DRAM n) s s2 := .ite h1 (h1.raise ..)
  have h3 : OwnRegs (Page.DRAM n) s s3 := ((h2.setBit status ..).setFld status ..).setFld status ..
  exact .ite (h0.lasting ..) (.ite (h1.lasting ..) (.after (modDram_stays ..) h3))

theorem dramCmdEffect_own {n : Nat} {s u : State} (v : Word) (r : TrainResult) (h : OwnRegs (Page.DRAM n) s u) :
    OwnRegs (Page.DRAM n) s (dramCmdEffect n v r u) := by
  unfold dramCmdEffect
  extract_lets s1 s2
  have h1 : OwnRegs (Page.DRAM n) s s1 := .ite (dramInitEffect_own r h) h
  have h2 : OwnRegs (Page.DRAM n) s s2 := .ite (.after (srWanted_stays ..) h1) h1
  exact .ite (.after (srWanted_stays ..) h2) h2

theorem execDramInit_owns (req : Requester) (port : Nat) (v : Word) (r : TrainResult) (s : State) :
    Owns (Page.DRAM port) s (execDramInit req port v r s) :=
  owns_next (.when _ _ (.withWriteOut _ _ _ _ _ fun _ => dramCmdEffect_own v r))

theorem execSrEnter_owns (req : Requester) (port : Nat) (v : Word) (s : State) : Owns (Page.DRAM port) s (execSrEnter req port v s) :=
  owns_write _ _ _ _ _ _ fun _ => dramCmdEffect_own v _

theorem execSrExit_owns (req : Requester) (port : Nat) (v : Word) (s : State) : Owns (Page.DRAM port) s (execSrExit req port v s) :=
  owns_write _ _ _ _ _ _ fun _ => dramCmdEffect_own v _

theorem execSelfRefresh_owns (port : Nat) (s : State) : Owns (Page.DRAM port) s (execSelfRefresh port s) := by
  refine owns_next (.when _ _ ?_)
  split
  · exact .refl ..
  · refine .ite (.after (modDram_stays ..) (.refl ..)) (.ite (.refl ..) ?_)
    exact .raise (.after (modDram_stays ..) ((OwnRegs.refl ..).setBit (key_own _ (by decide)) ..)) ..

theorem execMr4Poll_owns (port rate : Nat) (hot : Bool) (s : State) : Owns (Page.DRAM port) s (execMr4Poll port rate hot s) := by
  refine owns_next (.when _ _ ?_)
  extract_lets r s1 s2
  have h1 : OwnRegs (Page.DRAM port) s s1 := .ite (.refl ..) (.raise ((OwnRegs.refl ..).setFld (key_own _ (by decide)) ..) ..)
  have h2 : OwnRegs (Page.DRAM port) s s2 := .ite (h1.lasting ..) h1
  exact .after (modDram_stays ..) h2

theorem addDirty_own {s u : State} (n : Nat) (h : OwnRegs Page.BOAT s u) : OwnRegs Page.BOAT s (addDirty n u) := h.setFld (by rfl) ..

theorem releaseDirty_own {s u : State} (n : Nat) (h : OwnRegs Page.BOAT s u) : OwnRegs Page.BOAT s (releaseDirty n u) :=
  .ite (.raise (h.setFld (by rfl) ..) ..) (h.setFld (by rfl) ..)

theorem execDirtyReserve_owns (task granules : Nat) (s : State) : Owns Page.BOAT s (execDirtyReserve task granules s) := by
  refine owns_next (.when _ _ (.ite (.after (modBoat_stays ..) (.refl ..)) (.ite ?_ ?_)))
  · exact .after (modBoat_stays ..) (addDirty_own _ (.refl ..))
  · extract_lets said s1
    have h1 : OwnRegs Page.BOAT s s1 := .after (modBoat_stays ..) (.refl ..)
    exact .ite h1 (h1.raise ..)

theorem execDirtyGrant_owns (s : State) : Owns Page.BOAT s (execDirtyGrant s) := by
  refine owns_next (.when _ _ ?_)
  split
  · exact .refl ..
  · extract_lets s1
    have h1 : OwnRegs Page.BOAT s s1 := .after (modBoat_stays ..) (.refl ..)
    exact .ite (.after (modBoat_stays ..) (addDirty_own _ h1)) h1

theorem dirtyAdjEffect_own {s u : State} (v : Word) (h : OwnRegs Page.BOAT s u) : OwnRegs Page.BOAT s (dirtyAdjEffect v u) := by
  unfold dirtyAdjEffect
  extract_lets n res
  have result (k : Nat) {t : State} (h : OwnRegs Page.BOAT s t) : OwnRegs Page.BOAT s (res k t) := h.setReg (by rfl) _
  have released := releaseDirty_own n h
  exact .ite (result _ h) (.ite (.ite (result _ released) (result _ released)) (.ite (result _ (addDirty_own n h)) (result _ h)))

theorem execDirtyAdjReserve_owns (req : Requester) (v : Word) (s : State) : Owns Page.BOAT s (execDirtyAdjReserve req v s) :=
  owns_write _ _ _ _ _ _ fun _ => dirtyAdjEffect_own v

theorem execDirtyAdjRelease_owns (req : Requester) (v : Word) (s : State) : Owns Page.BOAT s (execDirtyAdjRelease req v s) :=
  owns_write _ _ _ _ _ _ fun _ => dirtyAdjEffect_own v

theorem execLockMaskWrite_owns (req : Requester) (v : Word) (s : State) : Owns Page.CACHE s (execLockMaskWrite req v s) :=
  owns_next (.withWrite _ _ _ _ fun _ h => .ite (h.raise ..) (.ite (h.raise ..) (h.setReg (by rfl) _)))

theorem scrubLogEffect_own {s u : State} (v : Word) (h : OwnRegs Page.SCRUB s u) : OwnRegs Page.SCRUB s (scrubLogEffect v u) := by
  refine .ite (.foldl _ _ (fun t i hi h => h.setReg ?_ _) (.after (.set_scrub ..) h)) h
  have := List.mem_range.1 hi
  simp only [Reg.SCRUB.LOG, Page.SCRUB]
  omega

theorem execScrubLogClear_owns (req : Requester) (v : Word) (s : State) : Owns Page.SCRUB s (execScrubLogClear req v s) :=
  owns_next (.withWrite _ _ _ _ fun _ => scrubLogEffect_own v)

/-! ### Crew and the journal -/

theorem bandResult_own {s u : State} (outcome code : Nat) (h : OwnRegs Page.CREWG s u) : OwnRegs Page.CREWG s (bandResult outcome code u) :=
  h.setReg (by rfl) _

theorem enabledCommand_own (op : Nat) (req : Requester) (v : Word) (f : Nat → Band → State → State) (s : State)
    (hf : ∀ b x u, OwnRegs Page.CREWG s u → OwnRegs Page.CREWG s (f b x u)) : OwnRegs Page.CREWG s (enabledCommand op req v f s) := by
  refine .when _ _ (.withWrite _ _ _ _ fun u h => ?_)
  dsimp only
  split
  · exact hf _ _ _ h
  · exact bandResult_own _ _ h

theorem execBandDisable_owns (req : Requester) (v : Word) (s : State) : Owns Page.CREWG s (execBandDisable req v s) :=
  owns_next (enabledCommand_own _ _ _ _ _ fun _ _ _ h => bandResult_own _ _ (.after (setBand_stays ..) h))

theorem execBandPause_owns (req : Requester) (v : Word) (s : State) : Owns Page.CREWG s (execBandPause req v s) :=
  owns_next (enabledCommand_own _ _ _ _ _ fun _ _ _ h => bandResult_own _ _ (.after (setBand_stays ..) h))

theorem execBandDisableDone_owns (b : Nat) (s : State) : Owns Page.CREWG s (execBandDisableDone b s) :=
  owns_next (.when _ _ (bandResult_own _ _ (.after (setBand_stays ..) (.refl ..))))

theorem execBandCmdUnlisted_owns (req : Requester) (v : Word) (s : State) : Owns Page.CREWG s (execBandCmdUnlisted req v s) :=
  owns_write _ _ _ _ _ _ fun _ => bandResult_own _ _

theorem execJrnlClose_owns (req : Requester) (v : Word) (s : State) : Owns Page.JRNL s (execJrnlClose req v s) :=
  owns_write _ _ _ _ _ _ fun _ h => .ite (.after (modCrew_stays ..) h) h

/-! ### Slipway, the LU table and the hazard table -/

theorem execPowerStateRequest_owns (lane state : Nat) (s : State) : Owns (Page.SLIP lane) s (execPowerStateRequest lane state s) := by
  unfold execPowerStateRequest
  refine owns_next (.when _ _ ?_)
  exact .raise ((OwnRegs.refl ..).setFld (key_own _ (by decide)) ..) ..

theorem execCodewordUncorrectable_owns (lane corrected uncorrectable : Nat) (frame : Bool) (s : State) :
    Owns (Page.SLIP lane) s (execCodewordUncorrectable lane corrected uncorrectable frame s) := by
  refine owns_next (.when _ _ ?_)
  extract_lets fec c u s1 sec old s2 limit
  have h1 : OwnRegs (Page.SLIP lane) s s1 :=
    .count (.count ((OwnRegs.refl ..).count (key_own _ (by decide)) _) (key_own _ (by decide)) _) (key_own _ (by decide)) _
  have h2 : OwnRegs (Page.SLIP lane) s s2 := .after (modLane_stays ..) h1
  exact .ite (h2.raise ..) h2

theorem execUaCtrl_owns (req : Requester) (v : Word) (s : State) : Owns Page.SLIPC s (execUaCtrl req v s) :=
  owns_next (.withWrite _ _ _ _ fun _ h => .foldl _ _ (fun _ _ _ h => .after (setUa_stays ..) h) h)

theorem lutRefused_own {s u : State} (req : Requester) (n code : Nat) (h : OwnRegs Page.LUT s u) :
    OwnRegs Page.LUT s (lutRefused req n code u) := .raise (h.setReg (by rfl) _) ..

theorem execLuDelete_owns (req : Requester) (v : Word) (s : State) : Owns Page.LUT s (execLuDelete req v s) := by
  refine owns_write _ _ _ _ _ _ fun u h => ?_
  dsimp only
  split
  · exact lutRefused_own _ _ _ h
  · exact .ite (lutRefused_own _ _ _ h) (.ite (lutRefused_own _ _ _ h) (.setReg (.after (setLu_stays ..) h) (by rfl) _))

theorem execLutCmdUnlisted_owns (req : Requester) (v : Word) (s : State) : Owns Page.LUT s (execLutCmdUnlisted req v s) :=
  owns_write _ _ _ _ _ _ fun _ => lutRefused_own _ _ _

theorem hazRefused_own {s u : State} (code : Nat) (h : OwnRegs Page.HAZ s u) : OwnRegs Page.HAZ s (hazRefused code u) :=
  .raise (h.setReg (by rfl) _) ..

theorem sayFull_own {s u : State} (h : OwnRegs Page.HAZ s u) : OwnRegs Page.HAZ s (sayFull u) :=
  .ite h (.raise (.after (modSlip_stays ..) h) ..)

theorem enterHaz_own {s u : State} (e : Nat) (x : HazEntry) (h : OwnRegs Page.HAZ s u) : OwnRegs Page.HAZ s (enterHaz e x u) := by
  unfold enterHaz
  extract_lets s1
  have h1 : OwnRegs Page.HAZ s s1 := .after (setHaz_stays ..) (.after (modSlip_stays ..) h)
  exact .ite (h1.setFld (by rfl) ..) h1

theorem execHazEnter_owns (req : Requester) (v : Word) (s : State) : Owns Page.HAZ s (execHazEnter req v s) := by
  refine owns_write _ _ _ _ _ _ fun u h => ?_
  extract_lets lba n task
  split
  · exact hazRefused_own _ (sayFull_own h)
  · exact .ite (hazRefused_own _ h) (.setReg (enterHaz_own _ _ h) (by rfl) _)

theorem execHazFwCmdUnlisted_owns (req : Requester) (v : Word) (s : State) : Owns Page.HAZ s (execHazFwCmdUnlisted req v s) :=
  owns_write _ _ _ _ _ _ fun _ => hazRefused_own _

/-! ### The key store and the hardware queues -/

theorem keyRefuse_own {s u : State} (code : Nat) (h : OwnRegs Page.KEYS s u) : OwnRegs Page.KEYS s (keyRefuse code u) :=
  .raise (h.setReg (by rfl) _) ..

theorem keyCommand_owns (op : Nat) (req : Requester) (v : Word) (s : State) : Owns Page.KEYS s (keyCommand op req v s) :=
  owns_write _ _ _ _ _ _ fun _ h => .ite h (.ite (keyRefuse_own _ h) (.setReg (.after (modKeys_stays ..) h) (by rfl) _))

theorem execKeysCmdUnlisted_owns (req : Requester) (v : Word) (s : State) : Owns Page.KEYS s (execKeysCmdUnlisted req v s) :=
  owns_write _ _ _ _ _ _ fun _ h => .ite h (keyRefuse_own _ h)

/-- The registers of a queue stand on its page (R91). -/
theorem qReg_own (q : QueueId) {off : Nat} (h : off < 0x80) : qReg q off / 0x1000 = qPage q := by
  have place : (qPlace q).2.1 < 0x400 := by cases q <;> simp only [qPlace] <;> omega
  exact key_own _ (by omega)

theorem execQueueAgePromote_owns (q : QueueId) (s : State) : Owns (qPage q) s (execQueueAgePromote q s) := by
  refine owns_next (.when _ _ ?_)
  exact .count (.after (modHq_stays ..) (.refl ..)) (qReg_own q (by decide)) _

theorem execFlush_owns (req : Requester) (q : QueueId) (v : Word) (s : State) : Owns (qPage q) s (execFlush req q v s) :=
  owns_next (.withWrite _ _ _ _ fun _ h => .ite h (.setBit (.after (setHq_stays ..) h) (qReg_own q (by decide)) ..))

/-! ### Every command of one page -/

theorem exec_owns (c : Instr) {p : Nat} (s : State) (own : regsPage c = some p) : Owns p s (exec c s) := by
  cases c
  case softResetDone page =>
    by_cases h : page = Page.CACHE
    · exact nomatch (if_pos h).symm.trans own
    · cases (if_neg h).symm.trans own
      exact execSoftResetDone_owns h s
  case blockDisable => cases own; exact execBlockDisable_owns ..
  case evForce => cases own; exact execEvForce_owns ..
  case pageLock => cases own; exact execPageLock_owns ..
  case fenceDrain => cases own; exact execFenceDrain_owns ..
  case softIrq => cases own; exact execSoftIrq_owns ..
  case wdtConfig => cases own; exact execWdtConfig_owns ..
  case wdtKick => cases own; exact execWdtKick_owns ..
  case islandClockStop => cases own; exact execIslandClockStop_owns ..
  case refGlitch => cases own; exact execRefGlitch_owns ..
  case supplyWarn => cases own; exact execSupplyWarn_owns ..
  case reserveWrite => cases own; exact execReserveWrite_owns ..
  case spindleLocked => cases own; exact execSpindleLocked_owns ..
  case phaseWord => cases own; exact execPhaseWord_owns ..
  case csCheck => cases own; exact execCsCheck_owns ..
  case refEdge => cases own; exact execRefEdge_owns ..
  case refLost => cases own; exact execRefLost_owns ..
  case refAnalogSample => cases own; exact execRefAnalogSample_owns ..
  case chopRelease => cases own; exact execChopRelease_owns ..
  case tempUpdate => cases own; exact execTempUpdate_owns ..
  case tliUpdate => cases own; exact execTliUpdate_owns ..
  case calLoad => cases own; exact execCalLoad_owns ..
  case ssFault => cases own; exact execSsFault_owns ..
  case wfClear => cases own; exact execWfClear_owns ..
  case pesWindow => cases own; exact execPesWindow_owns ..
  case coefLoad => cases own; exact execCoefLoad_owns ..
  case coefSwitch => cases own; exact execCoefSwitch_owns ..
  case coupleWord => cases own; exact execCoupleWord_owns ..
  case sensorFault => cases own; exact execSensorFault_owns ..
  case traceDone => cases own; exact execTraceDone_owns ..
  case sinePointEnd => cases own; exact execSinePointEnd_owns ..
  case injectionEnd => cases own; exact execInjectionEnd_owns ..
  case zoneTableLoad => cases own; exact execZoneTableLoad_owns ..
  case relocTableLoad => cases own; exact execRelocTableLoad_owns ..
  case rtAdd => cases own; exact execRtAdd_owns ..
  case swArmWrite => cases own; exact execSwArmWrite_owns ..
  case laneEnWrite => cases own; exact execLaneEnWrite_owns ..
  case runAge => cases own; exact execRunAge_owns ..
  case ucodeWordWrite => cases own; exact execUcodeWordWrite_owns ..
  case ucodeCommit => cases own; exact execUcodeCommit_owns ..
  case dramInit => cases own; exact execDramInit_owns ..
  case srEnter => cases own; exact execSrEnter_owns ..
  case srExit => cases own; exact execSrExit_owns ..
  case selfRefresh => cases own; exact execSelfRefresh_owns ..
  case mr4Poll => cases own; exact execMr4Poll_owns ..
  case dirtyReserve => cases own; exact execDirtyReserve_owns ..
  case dirtyGrant => cases own; exact execDirtyGrant_owns ..
  case dirtyAdjReserve => cases own; exact execDirtyAdjReserve_owns ..
  case dirtyAdjRelease => cases own; exact execDirtyAdjRelease_owns ..
  case lockMaskWrite => cases own; exact execLockMaskWrite_owns ..
  case scrubLogClear => cases own; exact execScrubLogClear_owns ..
  case bandDisable => cases own; exact execBandDisable_owns ..
  case bandDisableDone => cases own; exact execBandDisableDone_owns ..
  case bandPause => cases own; exact execBandPause_owns ..
  case bandCmdUnlisted => cases own; exact execBandCmdUnlisted_owns ..
  case jrnlClose => cases own; exact execJrnlClose_owns ..
  case powerStateRequest => cases own; exact execPowerStateRequest_owns ..
  case codewordUncorrectable => cases own; exact execCodewordUncorrectable_owns ..
  case uaCtrl => cases own; exact execUaCtrl_owns ..
  case luDelete => cases own; exact execLuDelete_owns ..
  case lutCmdUnlisted => cases own; exact execLutCmdUnlisted_owns ..
  case hazEnter req v => cases own; exact execHazEnter_owns req v s
  case hazFwCmdUnlisted => cases own; exact execHazFwCmdUnlisted_owns ..
  case keyLoad => cases own; exact keyCommand_owns ..
  case keyClear => cases own; exact keyCommand_owns ..
  case keyWrap => cases own; exact keyCommand_owns ..
  case keyErase => cases own; exact keyCommand_owns ..
  case imageVerify => cases own; exact keyCommand_owns ..
  case patchLoad => cases own; exact keyCommand_owns ..
  case measure => cases own; exact keyCommand_owns ..
  case attest => cases own; exact keyCommand_owns ..
  case debugUnlock => cases own; exact keyCommand_owns ..
  case rollbackSet => cases own; exact keyCommand_owns ..
  case otpWrite => cases own; exact keyCommand_owns ..
  case genId => cases own; exact keyCommand_owns ..
  case challenge => cases own; exact keyCommand_owns ..
  case keysCmdUnlisted => cases own; exact execKeysCmdUnlisted_owns ..
  case queueAgePromote => cases own; exact execQueueAgePromote_owns ..
  case flush => cases own; exact execFlush_owns ..
  all_goals cases own

/-- Settles O6: `exec_owns`, for the state that the command answers. -/
theorem registersOfOwnPage : Obligations.RegistersOfOwnPage := by
  intro c p s t own run
  exact ((exec_owns c s own).own t run).same

end Sys2Proof.Machine
end

section
set_option Elab.async false
/-! The bus and its record (O11, O12), events (O14), lasting errors (O16), the SH-4820 (O20) and stored bytes (O21). -/

namespace Sys2Proof.Machine

/-! ### Refused accesses (R24, R25, R37 to R47) -/

section
variable (req : Requester) {k : Nat} (s : State)

theorem registerWrite_of_key (low : k < 0x20000000) (aligned : k % 4 = 0) (v : Word) (o : Outside) :
    exec (.registerWrite req (keyAddr k) .word v o) s = .next (withWriteOut o req k v (busEffect req k v o) s) := by
  simp only [exec_registerWrite, execRegisterWrite, wordKey_key k low aligned]

theorem latchedRead_of_key (low : k < 0x20000000) (aligned : k % 4 = 0) :
    exec (.latchedRead req (keyAddr k) .word) s = .next (withRead req k (regRead req k false false) s) := by
  simp only [exec_latchedRead, execLatchedRead, wordKey_key k low aligned]

end

/-- An access of `req` to the register at `k` arrives at its page: the core die is not held, the page is assigned and present, and nothing
holds the access back. -/
structure Arrives (req : Requester) (k : Nat) (s : State) : Prop where
  free : s.chip.held = none
  assigned : pagePlace (k / 0x1000) ≠ none
  present : pagePresent s (k / 0x1000) = true
  ready : mustHold req k s = false

namespace Arrives

variable {req : Requester} {k : Nat} {s : State}

theorem write (h : Arrives req k s) (o : Outside) (v : Word) (eff : State → State) :
    withWriteOut o req k v eff s = writeArrived req k eff s := by
  obtain ⟨free, assigned, present, ready⟩ := h
  simp [withWriteOut, free, assigned, present, ready]

theorem read (h : Arrives req k s) (get : State → Word × State) : withRead req k get s = readArrived req k get s := by
  obtain ⟨free, assigned, present, ready⟩ := h
  simp [withRead, withReadOut, free, assigned, present, ready]

end Arrives

theorem settle_nil {out : HeldAccess → Outside} {p : HeldAccess → Bool} {s : State} (h : s.bus.held.any p = false) : settle out p s = s := by
  have none : s.bus.held.filter p = [] := List.filter_eq_nil_iff.2 fun x hx hp => not_of h (List.any_eq_true.2 ⟨x, hx, hp⟩)
  simp only [settle, none, List.foldl_nil]

/-- Settles O11: each refusal is the branch of the access that its conditions select, in the order of log entry 5. -/
theorem refusedAccesses : Obligations.RefusedAccesses := by
  refine ⟨fun s req k v o low aligned free => ⟨fun unassigned => ?_, fun assigned present ready => ?_⟩,
    fun s req a k v o key assigned form => ?_, fun s req a wr h due alone => ?_, fun s req a wr due => ?_⟩
  · rw [registerWrite_of_key req s low aligned, latchedRead_of_key req s low aligned]
    constructor <;> simp [withWriteOut, withRead, withReadOut, free, unassigned]
  · have arrives : Arrives req k s := ⟨free, assigned, present, ready⟩
    rw [registerWrite_of_key req s low aligned, latchedRead_of_key req s low aligned, arrives.write, arrives.read]
    refine ⟨fun off => ?_, fun on may barred => ?_, fun on barred => ?_, fun on may mayWrite rwl locked => ?_⟩
    · simp [writeArrived, readArrived, off]
    · simp [writeArrived, on, may, barred]
    · simp [writeArrived, readArrived, on, barred]
    · simp [writeArrived, on, may, mayWrite, rwl, locked]
  · exact registerWrite_of_badForm ⟨key, assigned, fun h => form h.2⟩ req s v o
  · have run : exec (.busTimeout req a wr) s = execBusTimeout req a wr s := rfl
    rw [run, execBusTimeout, due]
    refine congrArg (fun t => Host.Outcome.next (busError (refuseAccess req a wr 6 t))) (settle_nil ?_)
    exact alone
  · have run : exec (.busTimeout req a wr) s = execBusTimeout req a wr s := rfl
    rw [run, execBusTimeout, due]

/-! ### An occurrence of an event (R60, R61) -/

/-- The message of an event, as its page sends it. -/
def eventMsg (p k sev code : Nat) (pl : Payload) (s : State) : Msg :=
  ⟨sourceOf p k, sev, code % 65536, pl.p0, pl.p1, pl.p2, s.time, 7, aonPath s⟩

theorem raise_out {p k sev : Nat} {s : State} (h : pageOn s p = false ∨ (pageEvents p).2 ≤ k) (code : Nat) (pl : Payload) :
    raise p k sev code pl s = s := by
  unfold raise
  refine if_neg ?_
  rcases h with h | h <;> simp [h]

theorem raise_fabric_sent {p k sev : Nat} {s : State} (on : pageOn s p = true) (hk : k < (pageEvents p).2)
    (he : s.bit (Reg.EV_ENABLE p) k = true ∨ sev = 4) (code : Nat) (pl : Payload) :
    (raise p k sev code pl s).fabric = s.fabric ++ [eventMsg p k sev code pl s] := by
  rw [raise_sent on hk he]; rfl

theorem raise_fabric_kept {p k sev : Nat} {s : State} (he : s.bit (Reg.EV_ENABLE p) k = false) (h4 : sev ≠ 4) (code : Nat)
    (pl : Payload) : (raise p k sev code pl s).fabric = s.fabric := by
  unfold raise
  split
  · rw [if_neg (by simp [he, h4])]; rfl
  · rfl

/-- An event leaves the other bits of EV_PEND. -/
theorem raise_pend_other {p k sev code j : Nat} {pl : Payload} (s : State) (hk : k < 32) (hj : j ≠ k) :
    (raise p k sev code pl s).bit (Reg.EV_PEND p) j = s.bit (Reg.EV_PEND p) j := by
  have marked : (markEvent p k s).bit (Reg.EV_PEND p) j = s.bit (Reg.EV_PEND p) j := by
    unfold State.bit
    rw [markEvent_reg, reg_setBit, if_pos rfl, bit_setBit _ _ _ _ hk, if_neg hj]
  unfold raise
  split
  · exact (apply_ite (fun t : State => t.bit (Reg.EV_PEND p) j) ..).trans (by rw [← marked]; exact ite_self _)
  · rfl

/-- Settles O14. -/
theorem eventOccurrence : Obligations.EventOccurrence := by
  rintro s t p k sev code pl h32 rfl
  refine ⟨fun on hk => ⟨raise_pend on hk h32 code pl, ?_, fun j _ other => raise_pend_other s h32 other, fun out => ?_, fun kept h4 => ?_⟩,
    fun out => raise_out out code pl⟩
  · exact sameRegs_raise (sameRegs_refl _ s) p k sev code pl (beq_self_eq_true _)
  · exact raise_fabric_sent on hk out code pl
  · exact raise_fabric_kept kept h4 code pl

/-! ### A lasting error (R44, R70, R75) -/

theorem header_ne {p i j : Nat} (h : i ≠ j) : p * 0x1000 + i ≠ p * 0x1000 + j := by omega

/-- What an event leaves of the registers that a lasting error then looks at. -/
theorem raise_header {p k sev code off : Nat} {pl : Payload} (s : State) (h : off ≠ 0x18) :
    (raise p k sev code pl s).reg (p * 0x1000 + off) = s.reg (p * 0x1000 + off) := raise_reg s (header_ne h)

theorem recordFault_ctrl (p sev source code : Nat) (s : State) : (recordFault p sev source code s).reg (Reg.CTRL p) = s.reg (Reg.CTRL p) := by
  unfold recordFault
  split
  · rfl
  · rw [setBit_other _ _ _ _ (header_ne (by decide)), setReg_other _ _ _ (header_ne (by decide))]

/-- The registers after a lasting error are those after its record. -/
theorem lasting_regs (p k code : Nat) (pl : Payload) (s : State) :
    (lasting p k code pl s).regs = (recordFault p 3 (sourceOf p k) code (raise p k 3 code pl s)).regs := by
  unfold lasting haltFault
  dsimp only
  split <;> rfl

theorem lasting_fabric (p k code : Nat) (pl : Payload) (s : State) : (lasting p k code pl s).fabric = (raise p k 3 code pl s).fabric := by
  have recorded : (recordFault p 3 (sourceOf p k) code (raise p k 3 code pl s)).fabric = (raise p k 3 code pl s).fabric := by
    unfold recordFault
    split <;> rfl
  unfold lasting haltFault
  dsimp only
  split <;> exact recorded

/-- HALT_ON_FAULT decides whether the block stops (R44). -/
theorem lasting_stopped (p k code : Nat) (pl : Payload) (s : State) : (lasting p k code pl s).stopped =
    if s.bit (Reg.CTRL p) 2 then SMap.set (fun _ => false) s.stopped p true else s.stopped := by
  have ctrl : (recordFault p 3 (sourceOf p k) code (raise p k 3 code pl s)).bit (Reg.CTRL p) 2 = s.bit (Reg.CTRL p) 2 :=
    congrArg (Sys2Proof.bit · 2) ((recordFault_ctrl ..).trans (raise_header s (by decide)))
  have stopped : (recordFault p 3 (sourceOf p k) code (raise p k 3 code pl s)).stopped = s.stopped := by simp
  unfold lasting haltFault
  simp only [ctrl]
  split
  · simp only [stopped]
  · exact stopped

/-- Settles O16. -/
theorem lastingError : Obligations.LastingError := by
  rintro s t p k code pl h32 rfl
  have raised : (raise p k 3 code pl s).bit (Reg.FAULT_CODE p) 31 = s.bit (Reg.FAULT_CODE p) 31 :=
    congrArg (Sys2Proof.bit · 31) (raise_header s (by decide))
  refine ⟨fun clear => ⟨lasting_faultCode clear, ?_⟩, fun held => ⟨?_, ?_⟩, fun halt => ?_, fun run => ?_, fun on hk out => ?_⟩
  · unfold State.bit
    rw [reg_of_regs (lasting_regs ..), recordFault, if_neg (not_of (raised.trans clear))]
    exact bit_of_setBit _ _ _ _ (by decide)
  · rw [reg_of_regs (lasting_regs ..), recordFault, if_pos (raised.trans held), raise_header s (by decide)]
  · rw [reg_of_regs (lasting_regs ..), recordFault, if_pos (raised.trans held), raise_header s (by decide)]
  · rw [isStopped, lasting_stopped, if_pos halt, SMap.get_set, if_pos rfl]
  · rw [lasting_stopped, if_neg (not_of run)]
  · rw [lasting_fabric]
    exact raise_fabric_sent on hk (.inl out) code pl

/-! ### Stored bytes -/

/-- Settles O21. -/
theorem memoryReadsBack : Obligations.MemoryReadsBack := by
  intro s a bs
  refine ⟨?_, fun j => byteAt_putBytes_apart bs s a j, putBytes_wf bs s a⟩
  induction bs generalizing s a with
  | nil => intro i b at_i; cases at_i
  | cons x bs ih =>
    rintro (_ | i) b at_i
    · obtain rfl : x = b := Option.some.inj at_i
      rw [State.putBytes, byteAt_putBytes_apart bs _ _ _ (.inl (by omega)), byteAt_putByte, if_pos (by omega)]
    · rw [State.putBytes, show a + (i + 1) = a + 1 + i by omega]
      exact ih _ _ i b at_i

end Sys2Proof.Machine
end

section
set_option Elab.async false
/-! The record of a refused access (O12) and the SH-4820 (O20). -/

namespace Sys2Proof.Machine

/-! ### What a refused access leaves (R553) -/

theorem recordFault_pend (p sev source code : Nat) (s : State) :
    (recordFault p sev source code s).reg (Reg.EV_PEND p) = s.reg (Reg.EV_PEND p) := by
  unfold recordFault
  split
  · rfl
  · rw [setBit_other _ _ _ _ (header_ne (by decide)), setReg_other _ _ _ (header_ne (by decide))]

/-- A lasting error sets its bit of EV_PEND, like any event. -/
theorem lasting_pend {p k : Nat} {s : State} (on : pageOn s p = true) (hk : k < (pageEvents p).2) (h32 : k < 32) (code : Nat) (pl : Payload) :
    (lasting p k code pl s).bit (Reg.EV_PEND p) k = true := by
  have same : (lasting p k code pl s).reg (Reg.EV_PEND p) = (raise p k 3 code pl s).reg (Reg.EV_PEND p) :=
    (reg_of_regs (lasting_regs ..) _).trans (recordFault_pend ..)
  exact (congrArg (Sys2Proof.bit · k) same).trans (raise_pend on hk h32 code pl)

/-- The third payload word of a refused access: page and offset of an address of the register pages. -/
def errPlace (a : Addr) : Word :=
  if 0x20000000 ≤ a.toNat ∧ a.toNat < 0x40000000 then
    word ((a.toNat - 0x20000000) / 0x1000 % 2 ^ 17 ||| (a.toNat % 0x1000) * 65536)
  else 0#32

/-- The payload of a refused access. -/
def errPayload (a : Addr) : Payload := ⟨loWord a.toNat, hiWord a.toNat, errPlace a⟩

section
variable (req : Requester) (a : Addr) (wr : Bool) (kind : Nat) (s : State)

/-- A refused access is its record, then its event, which BUS_TIMEOUT makes a lasting error. -/
theorem refuseAccess_eq : refuseAccess req a wr kind s =
    if kind = 6 then lasting Page.SYS 6 (errInfo req wr kind) (errPayload a) (errRecorded req a wr kind s)
    else raise Page.SYS kind 5 (errInfo req wr kind) (errPayload a) (errRecorded req a wr kind s) := rfl

theorem refuseAccess_reg {off : Nat} (h1 : off ≠ 0x18) (h2 : off ≠ 0x20) (h3 : off ≠ 0xC) :
    (refuseAccess req a wr kind s).reg (Page.SYS * 0x1000 + off) = (errRecorded req a wr kind s).reg (Page.SYS * 0x1000 + off) := by
  rw [refuseAccess_eq]
  split
  · exact lasting_reg _ (header_ne h1) (header_ne h2) (header_ne h3)
  · exact raise_reg _ (header_ne h1)

theorem refuseAccess_fabric : (refuseAccess req a wr kind s).fabric =
    (raise Page.SYS kind (if kind = 6 then 3 else 5) (errInfo req wr kind) (errPayload a) (errRecorded req a wr kind s)).fabric := by
  rw [refuseAccess_eq]
  split
  case isTrue six => subst six; exact lasting_fabric ..
  case isFalse => rfl

theorem refuseAccess_pendAny {kind : Nat} (on : pageOn s Page.SYS = true) (hk : kind ≤ 6) :
    (refuseAccess req a wr kind s).bit (Reg.EV_PEND Page.SYS) kind = true := by
  have on : pageOn (errRecorded req a wr kind s) Page.SYS = true := (errRecorded_pageOn ..).trans on
  have events : (pageEvents Page.SYS).2 = 16 := by decide
  rw [refuseAccess_eq]
  split
  case isTrue six => subst six; exact lasting_pend on (by omega) (by omega) ..
  case isFalse => exact raise_pend on (by omega) (by omega) ..

/-- The record leaves what a message of SYS says besides its code and payload. -/
theorem errRecorded_enabled : (errRecorded req a wr kind s).reg (Reg.EV_ENABLE Page.SYS) = s.reg (Reg.EV_ENABLE Page.SYS) := by
  rw [errRecorded, reg_count, if_neg (by decide), setReg_other _ _ _ (by decide), setReg_other _ _ _ (by decide),
    setReg_other _ _ _ (by decide)]

theorem errRecorded_aonPath : aonPath (errRecorded req a wr kind s) = aonPath s := by
  have domains : (errRecorded req a wr kind s).reg Reg.PWR.DOMAINS = s.reg Reg.PWR.DOMAINS := by simp [errRecorded, reg_count]
  have clocks : (errRecorded req a wr kind s).clocks = s.clocks := by simp [errRecorded]
  simp only [aonPath, domainOn, inTransit, State.bit, domains, clocks]

end

theorem code_lt (req : Requester) : Requester.code req < 64 := by
  cases req <;> simp only [Requester.code] <;> omega

/-- Requester, kind and direction stand in their fields of ERR_INFO. -/
theorem errInfo_fields (req : Requester) (wr : Bool) {kind : Nat} (hk : kind ≤ 6) :
    fld (word (errInfo req wr kind)) 5 0 = Requester.code req ∧ fld (word (errInfo req wr kind)) 10 8 = kind
      ∧ Sys2Proof.bit (word (errInfo req wr kind)) 12 = wr ∧ (word (errInfo req wr kind)).toNat = errInfo req wr kind := by
  have hc := code_lt req
  cases wr <;> simp only [fld, Sys2Proof.bit, BitVec.getLsbD, Nat.testBit_eq_decide_div_mod_eq, word, errInfo, BitVec.toNat_ofNat,
    decide_eq_true_eq, decide_eq_false_iff_not, if_true, Bool.false_eq_true, if_false] <;> omega

/-- The place of a refused access below 0x3000_0000. -/
theorem errPlace_fields {a : Addr} (lo : 0x20000000 ≤ a.toNat) (hi : a.toNat < 0x30000000) :
    fld (errPlace a) 15 0 = (a.toNat - 0x20000000) / 0x1000 ∧ fld (errPlace a) 27 16 = a.toNat % 0x1000 ∧ fld (errPlace a) 31 28 = 0 := by
  have page : (a.toNat - 0x20000000) / 0x1000 < 2 ^ 16 := by omega
  rw [errPlace, if_pos ⟨lo, by omega⟩, Nat.mod_eq_of_lt (by omega : (a.toNat - 0x20000000) / 0x1000 < 2 ^ 17), Nat.or_comm,
    Nat.mul_comm, ← Nat.two_pow_add_eq_or_of_lt page]
  simp only [fld, word, BitVec.toNat_ofNat]
  omega

/-- Settles O12: the record is `errRecorded`, and the event that follows it leaves those registers. -/
theorem accessRecord : Obligations.AccessRecord := by
  rintro s t req a wr kind lo hi on rfl
  have info : (refuseAccess req a wr kind s).reg Reg.SYS.ERR_INFO = word (errInfo req wr kind) :=
    (refuseAccess_reg (off := 0x58) req a wr kind s (by decide) (by decide) (by decide)).trans (errRecorded_errInfo ..)
  have onAfter : pageOn (errRecorded req a wr kind s) Page.SYS = true := (errRecorded_pageOn ..).trans on
  have enabled : (errRecorded req a wr kind s).bit (Reg.EV_ENABLE Page.SYS) kind = s.bit (Reg.EV_ENABLE Page.SYS) kind :=
    congrArg (Sys2Proof.bit · kind) (errRecorded_enabled ..)
  have fabric : (errRecorded req a wr kind s).fabric = s.fabric := by simp [errRecorded]
  obtain ⟨who, which, dir, whole⟩ := errInfo_fields req wr hi
  refine ⟨?_, ?_, ?_, ?_, ?_, ?_, refuseAccess_pendAny req a wr s on hi, fun out => ⟨errPlace a, ?_, ?_, ?_⟩, fun kept => ?_⟩
  · rw [State.fld, info, who]
  · rw [State.fld, info, which]
  · rw [State.bit, info, dir]
  · refine (refuseAccess_reg (off := 0x5C) req a wr kind s (by decide) (by decide) (by decide)).trans ?_
    simp [errRecorded, reg_count, loWord]
  · refine (refuseAccess_reg (off := 0x60) req a wr kind s (by decide) (by decide) (by decide)).trans ?_
    simp [errRecorded, reg_count, hiWord]
  · refine (refuseAccess_reg (off := 0x64) req a wr kind s (by decide) (by decide) (by decide)).trans ?_
    simp [errRecorded, reg_count]
  · have events : (pageEvents Page.SYS) = (0, 16) := by decide
    rw [refuseAccess_fabric, raise_fabric_sent onAfter (by rw [events]; omega) (.inl (enabled.trans out)), info, whole, fabric, eventMsg,
      errRecorded_aonPath, sourceOf, events]
    simp [errRecorded, errPayload, loWord, hiWord]
  · exact errPlace_fields
  · intro out
    rw [errPlace, if_neg (by omega)]
  · rw [refuseAccess_fabric, raise_fabric_kept (enabled.trans kept) (by split <;> decide), fabric]

/-! ### The SH-4820 (R5, R11, R548) -/

/-- The pages of the blocks that the SH-4820 lacks are assigned register pages. -/
theorem pagePlace_of_4840Only {p : Nat} (h : pageOn4840Only p = true) : p < 0x8C ∧ pagePlace p ≠ none := by
  have low : p < 0x8C := by simp [pageOn4840Only] at h; omega
  exact ⟨low, (by decide +kernel : ∀ p < 0x8C, pageOn4840Only p = true → pagePlace p ≠ none) p low h⟩

theorem regRead_ceilSector (req : Requester) (s : State) :
    (regRead req Reg.SYS.CEIL_SECTOR false false s).1 = if s.part4820 = true then 16384#32 else 32768#32 := rfl

/-- Settles O20. -/
theorem smallPart : Obligations.SmallPart := by
  refine ⟨fun s d small high => ?_, fun s req p off v o small absent low aligned free => ?_, fun s p k sev code pl small absent => ?_,
    fun s req reads => ?_⟩
  · rw [switchOn, if_pos (by rcases high with rfl | rfl <;> simp [small])]
  · obtain ⟨hp, assigned⟩ := pagePlace_of_4840Only absent
    have page : (p * 0x1000 + off) / 0x1000 = p := by omega
    have lacking : pagePresent s p = false := by simp [pagePresent, small, absent]
    rw [registerWrite_of_key _ _ (by omega) (by omega), latchedRead_of_key _ _ (by omega) (by omega)]
    constructor <;> simp [withWriteOut, withRead, withReadOut, free, page, assigned, lacking]
  · have off : pageOn s p = false := by unfold pageOn; split <;> simp [pagePresent, small, absent]
    exact raise_out (.inl off) code pl
  · refine ⟨_, latchedRead_of_key _ _ (by decide) (by decide), ?_⟩
    rw [withRead_pass reads]
    exact regRead_ceilSector req s

end Sys2Proof.Machine
end

section
set_option Elab.async false
/-! A machine check (O22): what follows its mark leaves the mark, the count of SYS, its pending event and its message. -/

namespace Sys2Proof.Machine

/-! ### What the release of a resource keeps (R51) -/

/-- A register of a block, but for its STATUS and its EV_PEND. -/
structure BlockReg (k : Nat) : Prop where
  above : 0x4000 ≤ k
  status : k % 0x1000 ≠ 0xC
  pend : k % 0x1000 ≠ 0x18

theorem blockReg_of_off {p off : Nat} (hp : 4 ≤ p) (h : off < 0x1000 := by decide) (apart : off ≠ 0xC ∧ off ≠ 0x18 := by decide) :
    BlockReg (p * 0x1000 + off) := by
  obtain ⟨status, pend⟩ := apart
  exact ⟨by omega, by omega, by omega⟩

/-- A property that holds on through the operations of which a release, and what follows from it, is made: operations that write no register
and send no message, writes of a block's registers, of a bit of its STATUS other than MCHK, and its events. -/
structure KeptByRelease (I : State → Prop) : Prop where
  stays {ps : List Piece} {s t : State} : I s → Stays ps s t → Piece.regs ∉ ps → Piece.fabric ∉ ps → I t
  setReg {s : State} {k : Nat} : I s → BlockReg k → ∀ v, I (s.setReg k v)
  setStatus {s : State} {p i : Nat} : I s → 4 ≤ p → i < 32 → i ≠ 3 → ∀ b, I (s.setBit (Reg.STATUS p) i b)
  raise {s : State} {p k : Nat} : I s → 4 ≤ p → k < 32 → ∀ sev code pl, I (raise p k sev code pl s)

theorem kept_ite {I : State → Prop} {t u : State} {c : Prop} [Decidable c] (h : I t) (g : I u) : I (if c then t else u) := by
  split <;> assumption

namespace KeptByRelease

variable {I : State → Prop} {s : State} (K : KeptByRelease I)
include K

theorem free {ps : List Piece} {t : State} (h : I s) (g : Stays ps s t) (hr : Piece.regs ∉ ps := by decide)
    (hf : Piece.fabric ∉ ps := by decide) : I t := K.stays h g hr hf

theorem setFld {k : Nat} (h : I s) (hk : BlockReg k) (hi lo v : Nat) : I (s.setFld k hi lo v) := K.setReg h hk _

theorem setBit {k : Nat} (h : I s) (hk : BlockReg k) (i : Nat) (b : Bool) : I (s.setBit k i b) := K.setReg h hk _

theorem count {k : Nat} (h : I s) (hk : BlockReg k) (n : Nat) : I (s.count k n) := K.setReg h hk _

theorem lasting {p k : Nat} (h : I s) (hp : 4 ≤ p) (hk : k < 32) (code : Nat) (pl : Payload) : I (lasting p k code pl s) := by
  have raised := K.raise h hp hk 3 code pl
  have recorded : I (recordFault p 3 (sourceOf p k) code (Machine.raise p k 3 code pl s)) :=
    kept_ite raised (K.setStatus (K.setReg raised (blockReg_of_off hp) _) hp (by decide) (by decide) _)
  exact kept_ite (K.free recorded (.set_stopped ..)) recorded

/-! A granule of memory that an engine writes (R320, R324). -/

theorem countBeat (h : I s) (g : Nat) : I (s.count (Reg.DRAM.RD_BEATS (granPort g)) 1) := K.count h (blockReg_of_off (by omega)) 1

theorem putGranule (h : I s) (g : Nat) (b : Beat) : I (putGranule g b s) :=
  K.count (K.free (K.free h (State.putBytes_stays ..)) (putCheck_stays ..)) (blockReg_of_off (by omega)) 1

theorem readGranule (h : I s) (sole : Bool) (who : Nat) (noise : DramNoise) (g : Nat) : I (readGranule sole who noise g s).2.2 := by
  have first := K.countBeat h g
  have calmed := K.free first (calmGranule_stays g _)
  unfold Machine.readGranule
  extract_lets s1 off pl b s2 s2' s3 s4
  have read : I s2 := kept_ite
    (K.raise (K.countBeat (K.count (k := Reg.BOAT.GRAN_TRANSIENT) calmed ⟨by decide, by decide, by decide⟩ 1) g) (by decide) (by decide) ..)
    first
  have lost : I s3 := K.lasting (K.setReg (k := Reg.BOAT.LAST_BAD_LO + 4) (K.setReg (k := Reg.BOAT.LAST_BAD_LO)
    (K.count (k := Reg.BOAT.GRAN_LASTING) (K.countBeat calmed g) ⟨by decide, by decide, by decide⟩ 1) ⟨by decide, by decide, by decide⟩ _)
    ⟨by decide, by decide, by decide⟩ _) (by decide) (by decide) ..
  have poisoned : I s4 := K.count (K.free lost (putCheck_stays ..)) (blockReg_of_off (by omega)) 1
  split
  · exact read
  · split
    · exact K.raise (K.count (k := Reg.BOAT.POISON_SET_COUNT) poisoned ⟨by decide, by decide, by decide⟩ 1) (by decide) (by decide) ..
    · exact lost

theorem storeBytes (h : I s) (off : Nat) (bs : List Byte) : I (storeBytes off bs s) :=
  List.foldlRecOn (motive := I) _ _ h fun u hu g _ => by
    unfold storeGran
    exact kept_ite (K.putGranule hu ..) (K.putGranule (K.readGranule hu ..) ..)

/-! What a spindle out of lock cuts and marks (R30, R32). -/

theorem dropGate (h : I s) (n : Nat) : I (dropGate n s) :=
  K.free (K.setFld (k := Reg.OAR.FE_STATUS n) h (blockReg_of_off (by omega)) 20 17 0) (Stays.set_hda _ _)

/-- A cut of cause 2 or above, which ends no entry as lasting. -/
theorem cutOar {cause : Nat} (h : I s) (n : Nat) (hc : cause ≠ 1) : I (cutOar n cause s) := by
  have page : 4 ≤ Page.OAR n := by unfold Page.OAR; omega
  have counted (u) (hu : I u) : I (u.count (Reg.OAR.CUT_COUNT n) 1) := K.count hu (blockReg_of_off (by omega)) 1
  unfold Machine.cutOar
  split
  · have dropped : I (Machine.dropGate n (modOar n (fun r => { r with passage := none }) s)) := K.dropGate (K.free h (modOar_stays ..)) n
    dsimp only
    split
    · rw [if_neg hc]
      exact K.raise (counted _ dropped) page (by decide) ..
    · rw [if_neg hc]
      refine K.raise (K.free (counted _ ?_) (modEntry_stays ..)) page (by decide) ..
      split
      · exact K.storeBytes dropped ..
      · exact dropped
  · exact h

theorem keelUnlock (h : I s) : I (keelUnlock s) := by
  have idle := K.free h (modKeel_stays (fun k => { k with lockRun := 0 }) s)
  refine kept_ite ?_ idle
  have marked := K.free (K.free (K.raise (p := Page.KEEL) (k := 0) (K.setStatus (p := Page.KEEL) (i := 12) idle (by decide) (by decide)
    (by decide) false) (by decide) (by decide) 0 0 { p0 := s.reg Reg.KEEL.SPEED }) (trTrigger_stays Page.KEEL 3 false _))
    (markAllReads_stays _)
  exact List.foldlRecOn (motive := I) _ _ marked fun u hu n _ => K.cutOar hu n (by decide)

/-! What a released resource falls back to (R49, R51, R210). -/

theorem setPhaseLock (h : I s) (b : Bool) : I (setPhaseLock b s) :=
  kept_ite h (K.raise (K.setStatus h (by decide) (by decide) (by decide) _) (by decide) (by decide) ..)

theorem freshReference (h : I s) : I (freshReference s) :=
  K.setPhaseLock (K.setStatus (K.free h (modKeel_stays ..)) (by decide) (by decide) (by decide) _) _

theorem dropReference (h : I s) : I (dropReference s) := by
  have fresh := K.freshReference (K.setBit (k := Reg.KEEL.REF_CFG) h ⟨by decide, by decide, by decide⟩ 0 false)
  exact kept_ite (K.keelUnlock fresh) fresh

section
variable {p : Nat} (hp : 4 ≤ p)
include hp

theorem setTrState (h : I s) (st code : Nat) : I (setTrState p st code s) :=
  K.setFld (K.setFld h (blockReg_of_off hp) ..) (blockReg_of_off hp) ..

theorem storePoint (h : I s) : I (storePoint p s) :=
  K.free (K.setReg (K.free (K.free h (putSums_stays ..)) (trPut_stays ..)) (blockReg_of_off hp) _) (modTune_stays ..)

theorem tuneTrip (h : I s) (cause : Nat) (info : Int) : I (tuneTrip p cause info s) :=
  kept_ite (K.free (K.setReg (K.setTrState hp (kept_ite (K.storePoint hp h) h) 4 cause) (blockReg_of_off hp) _) (modTune_stays ..)) h

theorem tuneRelease (h : I s) : I (tuneRelease p s) :=
  K.setFld (kept_ite h (kept_ite (K.tuneTrip hp h ..) (K.free (K.setTrState hp h 6 0) (modTune_stays ..)))) (blockReg_of_off hp) ..

end

theorem freeResource (h : I s) (r f : Nat) : I (freeResource r f s) := by
  have page : 4 ≤ if r = 6 then Page.KEEL else Page.RUDDER (r - 2) := by split <;> simp only [Page.KEEL, Page.RUDDER] <;> omega
  refine kept_ite (kept_ite (K.dropReference h) h) (kept_ite (kept_ite (K.setReg h ?_ _) (K.setFld h ?_ ..)) (K.tuneRelease page h))
  · exact ⟨by decide, by decide, by decide⟩
  · exact ⟨by decide, by decide, by decide⟩

end KeptByRelease

/-! ### What follows a machine check's mark -/

/-- From `s` to `t` no block loses its mark of a machine check, SYS keeps their count and the pending event, and no message is lost. -/
structure ChecksKept (s t : State) : Prop where
  count : t.reg Reg.SYS.MCHK_STATE = s.reg Reg.SYS.MCHK_STATE
  marks : ∀ p, s.bit (Reg.STATUS p) 3 = true → t.bit (Reg.STATUS p) 3 = true
  pend : s.bit (Reg.EV_PEND Page.SYS) 0 = true → t.bit (Reg.EV_PEND Page.SYS) 0 = true
  sent : s.fabric <+: t.fabric

theorem raise_prefix (p k sev code : Nat) (pl : Payload) (s : State) : s.fabric <+: (raise p k sev code pl s).fabric := by
  unfold raise
  split
  · dsimp only
    split
    · exact List.prefix_append ..
    · exact List.prefix_rfl
  · exact List.prefix_rfl

namespace ChecksKept

variable {o s t : State}

theorem refl (s : State) : ChecksKept s s := ⟨rfl, fun _ => id, id, List.prefix_rfl⟩

/-- An operation that writes neither the count, nor a STATUS, nor the pending events of SYS. -/
theorem of_reg (h : ChecksKept o s) (count : t.reg Reg.SYS.MCHK_STATE = s.reg Reg.SYS.MCHK_STATE)
    (status : ∀ p, s.bit (Reg.STATUS p) 3 = true → t.bit (Reg.STATUS p) 3 = true)
    (pend : t.reg (Reg.EV_PEND Page.SYS) = s.reg (Reg.EV_PEND Page.SYS)) (sent : s.fabric <+: t.fabric) : ChecksKept o t :=
  ⟨count.trans h.count, fun p m => status p (h.marks p m), fun e => (congrArg (bit · 0) pend).trans (h.pend e), h.sent.trans sent⟩

theorem stays {ps : List Piece} (h : ChecksKept o s) (g : Stays ps s t) (hr : Piece.regs ∉ ps) (hf : Piece.fabric ∉ ps) :
    ChecksKept o t := by
  obtain ⟨⟨-, -, same⟩, -⟩ := g
  have reg (k : Nat) : t.reg k = s.reg k := reg_of_regs (same .regs hr) k
  have fabric : t.fabric = s.fabric := same .fabric hf
  exact h.of_reg (reg _) (fun p m => (congrArg (bit · 3) (reg _)).trans m) (reg _) (fabric ▸ List.prefix_rfl)

theorem setReg {k : Nat} (h : ChecksKept o s) (count : k ≠ Reg.SYS.MCHK_STATE) (status : k % 0x1000 ≠ 0xC)
    (pend : k ≠ Reg.EV_PEND Page.SYS) (v : Word) : ChecksKept o (s.setReg k v) := by
  refine h.of_reg (setReg_other _ _ _ (Ne.symm count)) (fun p m => ?_) (setReg_other _ _ _ (Ne.symm pend)) List.prefix_rfl
  exact (congrArg (bit · 3) (setReg_other _ _ _ (by rintro rfl; exact status (Nat.mul_add_mod' ..)))).trans m

theorem setStatus {p i : Nat} (h : ChecksKept o s) (hi : i < 32) (other : i ≠ 3) (b : Bool) :
    ChecksKept o (s.setBit (Reg.STATUS p) i b) := by
  refine h.of_reg (setBit_other _ _ _ _ ?_) (fun q m => ?_) (setBit_other _ _ _ _ ?_) List.prefix_rfl
  · show 0x68 ≠ p * 0x1000 + 0xC
    omega
  · unfold State.bit at m ⊢
    rw [reg_setBit]
    split
    case isTrue e => rw [bit_setBit _ _ _ _ hi, if_neg (Ne.symm other), ← e]; exact m
    case isFalse => exact m
  · show 0 * 0x1000 + 0x18 ≠ p * 0x1000 + 0xC
    omega

theorem raise {p : Nat} (h : ChecksKept o s) (hp : p ≠ 0) (k sev code : Nat) (pl : Payload) : ChecksKept o (raise p k sev code pl s) := by
  refine h.of_reg (raise_reg s ?_) (fun q m => ?_) (raise_reg s ?_) (raise_prefix ..)
  · show 0x68 ≠ p * 0x1000 + 0x18
    omega
  · exact (congrArg (bit · 3) (raise_reg s (by show q * 0x1000 + 0xC ≠ p * 0x1000 + 0x18; omega))).trans m
  · show 0 * 0x1000 + 0x18 ≠ p * 0x1000 + 0x18
    omega

end ChecksKept

theorem checksKept_keptByRelease (o : State) : KeptByRelease (ChecksKept o) where
  stays := .stays
  setReg := fun h ⟨above, status, _⟩ v => h.setReg (by unfold Reg.SYS.MCHK_STATE; omega) status
    (by simp only [Reg.EV_PEND, Page.SYS]; omega) v
  setStatus := fun h _ hi other b => h.setStatus hi other b
  raise := fun h hp _ sev code pl => h.raise (by omega) _ sev code pl

theorem ChecksKept.releaseHolders {o s : State} (h : ChecksKept o s) (cs : List Nat) : ChecksKept o (releaseHolders cs s) := by
  refine kept_ite h (List.foldlRecOn (motive := ChecksKept o) _ _ h fun u hu r hr => kept_ite ?_ hu)
  have low := List.mem_range.1 hr
  refine (checksKept_keptByRelease o).freeResource (hu.setReg ?_ ?_ ?_ _) ..
  · simp only [Reg.CLAIM.CLAIM_STATE, Reg.SYS.MCHK_STATE]; omega
  · simp only [Reg.CLAIM.CLAIM_STATE]; omega
  · simp only [Reg.CLAIM.CLAIM_STATE, Reg.EV_PEND, Page.SYS]; omega

/-! ### The mark (R71 to R74) -/

/-- What a machine check writes before its event. -/
def checkWritten (p source code : Nat) (s : State) : State :=
  let s1 := s.setBit (Reg.STATUS p) 3 true
  let s2 := if s1.bit (Reg.FAULT_CODE p) 31 then s1 else s1.setReg (Reg.FAULT_CODE p) (faultWord 4 source code)
  let st := s2.reg Reg.SYS.MCHK_STATE
  let st1 := if fld st 27 16 = 0 ∧ !inMachineCheck s Page.SYS then Sys2Proof.setFld st 27 16 (sourceOf p 0) else st
  s2.setReg Reg.SYS.MCHK_STATE (Sys2Proof.setFld (Sys2Proof.setBit st1 31 true) 5 0 (satAdd 63 (fld st1 5 0) 1))

theorem markCheck_eq (p source code : Nat) (s : State) :
    markCheck p source code s = raise Page.SYS 0 4 code { p0 := word (sourceOf p 0) } (checkWritten p source code s) := rfl

section
variable (p source code : Nat) (s : State)

/-- The registers before the mark's own: the block's mark and its fault, if none stands. -/
theorem checkWritten_reg {k : Nat} (hs : k ≠ Reg.STATUS p) (hf : k ≠ Reg.FAULT_CODE p) (hm : k ≠ Reg.SYS.MCHK_STATE) :
    (checkWritten p source code s).reg k = s.reg k := by
  unfold checkWritten
  rw [setReg_other _ _ _ hm]
  split
  · exact setBit_other _ _ _ _ hs
  · rw [setReg_other _ _ _ hf, setBit_other _ _ _ _ hs]

theorem checkWritten_marked : (checkWritten p source code s).bit (Reg.STATUS p) 3 = true := by
  have marked := bit_of_setBit s (Reg.STATUS p) 3 true (by decide)
  unfold State.bit at marked ⊢
  unfold checkWritten
  rw [setReg_other _ _ _ (by simp only [Reg.STATUS, Reg.SYS.MCHK_STATE]; omega)]
  split
  · exact marked
  · rw [setReg_other _ _ _ (header_ne (by decide))]; exact marked

/-- SYS says that there was a machine check, and counts it. -/
theorem checkWritten_counted : (checkWritten p source code s).bit Reg.SYS.MCHK_STATE 31 = true
    ∧ (checkWritten p source code s).fld Reg.SYS.MCHK_STATE 5 0 = satAdd 63 (s.fld Reg.SYS.MCHK_STATE 5 0) 1 := by
  unfold checkWritten
  extract_lets s1 s2 st st1
  have before : st = s.reg Reg.SYS.MCHK_STATE := by
    have apart (off : Nat) (h : off = 0xC ∨ off = 0x20) : Reg.SYS.MCHK_STATE ≠ p * 0x1000 + off := by
      simp only [Reg.SYS.MCHK_STATE]; omega
    refine (apply_ite (State.reg · _) ..).trans ?_
    rw [setReg_other _ _ _ (apart 0x20 (.inr rfl)), ite_self]
    exact setBit_other _ _ _ _ (apart 0xC (.inl rfl))
  have low : fld st1 5 0 = fld st 5 0 := by
    refine (apply_ite (fld · 5 0) ..).trans ?_
    rw [fld_setFld_apart _ _ _ _ _ _ (.inl (by decide)), ite_self]
  have small : satAdd 63 (fld st1 5 0) 1 < 64 := by unfold satAdd; omega
  constructor
  · rw [State.bit, setReg_same, bit_setFld_apart _ _ _ _ _ (.inr (by decide)), bit_setBit _ _ _ _ (by decide), if_pos rfl]
  · rw [State.fld, setReg_same, fld_setFld _ _ _ _ (by decide), Nat.mod_eq_of_lt (by exact small), low, before]; rfl

theorem checkWritten_frame : (checkWritten p source code s).fabric = s.fabric ∧ (checkWritten p source code s).time = s.time
    ∧ (checkWritten p source code s).clocks = s.clocks ∧ (checkWritten p source code s).part4820 = s.part4820 := by
  unfold checkWritten
  dsimp only
  split <;> simp

theorem checkWritten_domains : (checkWritten p source code s).reg Reg.PWR.DOMAINS = s.reg Reg.PWR.DOMAINS :=
  checkWritten_reg p source code s (by simp only [Reg.PWR.DOMAINS, Reg.STATUS]; omega)
    (by simp only [Reg.PWR.DOMAINS, Reg.FAULT_CODE]; omega) (by decide)

/-- All that a machine check does after its mark leaves it. -/
theorem enterCheck_kept (rs : List Nat) : ChecksKept (markCheck p source code s) (enterCheck p source code rs s) :=
  ((ChecksKept.refl _).releaseHolders rs).stays (dropPartials_stays ..) (by decide) (by decide)

end

/-- Settles O22: the mark is `checkWritten` and its event, and `ChecksKept` says that what follows leaves it. -/
theorem machineCheckOnce : Obligations.MachineCheckOnce := by
  refine ⟨fun s p source code held => if_pos held, ?_⟩
  rintro s t p source code rs hp other on rfl
  obtain ⟨count, marks, pend, sent⟩ := enterCheck_kept p source code s rs
  obtain ⟨fabric, time, clocks, part⟩ := checkWritten_frame p source code s
  have domains := checkWritten_domains p source code s
  have onAfter : pageOn (checkWritten p source code s) Page.SYS = true := (pageOn_congr domains part _).trans on
  have path : aonPath (checkWritten p source code s) = aonPath s := by simp only [aonPath, domainOn, inTransit, State.bit, domains, clocks]
  have event : 0 < (pageEvents Page.SYS).2 := by decide
  obtain ⟨shown, counted⟩ := checkWritten_counted p source code s
  rw [markCheck_eq] at count marks pend sent
  have state := count.trans (raise_reg _ (by decide))
  refine ⟨marks p ?_, ?_, ?_, pend (raise_pend onAfter event (by decide) _ _), ?_⟩
  · have apart : Reg.STATUS p ≠ Reg.EV_PEND Page.SYS := by simp only [Reg.STATUS, Reg.EV_PEND, Page.SYS]; omega
    exact (congrArg (bit · 3) (raise_reg _ apart)).trans (checkWritten_marked p source code s)
  · exact (congrArg (bit · 31) state).trans shown
  · exact (congrArg (fld · 5 0) state).trans counted
  · obtain ⟨more, e⟩ := sent
    refine ⟨more, e.symm.trans ?_⟩
    rw [raise_fabric_sent onAfter event (.inr rfl), fabric, eventMsg, time, path, List.append_assoc]
    rfl

end Sys2Proof.Machine
end

section
set_option Elab.async false
/-! Claims and releases of the shared resources (O23), locks and enables (O24). -/

namespace Sys2Proof.Machine

/-! ### Guards and writes of one command -/

/-- A command that is one write: its effect, on the state whose bus carries no error. -/
theorem runs_write {c : Instr} {req : Requester} {k : Nat} {v : Word} {eff : State → State} {s : State} {P : State → Prop}
    (run : exec c s = .next (withWrite req k v eff s)) (may : Writes req k s) (h : P (eff (busOk 0#32 s))) : Runs c s P :=
  ⟨_, run, withWrite_pass may v eff ▸ h⟩

/-- The same, under a guard. -/
theorem runs_guardedWrite {c : Instr} {g : Bool} {req : Requester} {k : Nat} {v : Word} {eff : State → State} {s : State} {P : State → Prop}
    (run : exec c s = .next (s.when g (withWrite req k v eff))) (met : g = true) (may : Writes req k s) (h : P (eff (busOk 0#32 s))) :
    Runs c s P :=
  ⟨_, run, by rw [when_met met, withWrite_pass may]; exact h⟩

/-- A command with a guard that is met. -/
theorem runs_guarded {c : Instr} {g : Bool} {f : State → State} {s : State} {P : State → Prop} (run : exec c s = .next (s.when g f))
    (met : g = true) (h : P (f s)) : Runs c s P :=
  ⟨_, run, by rw [when_met met]; exact h⟩

/-! ### Claims (R49, R50) -/

section
variable {req : Requester} {v : Word} {before s : State}

/-- A claim of a free resource that R49 allows. -/
theorem claimOne_granted (open_ : pageLocked Page.CLAIM s = false) (was : before.bit (Reg.CLAIM.CLAIM_STATE (fld v 2 0)) 31 = false)
    (may : mayClaim (fld v 2 0) (fld v 9 8) (Requester.code req) s = true) (now : s.bit (Reg.CLAIM.CLAIM_STATE (fld v 2 0)) 31 = false) :
    claimOne before req v s =
      s.setReg (Reg.CLAIM.CLAIM_STATE (fld v 2 0)) (word (Requester.code req + fld v 9 8 * 256 + 2 ^ 31)) := by
  simp [claimOne, open_, was, may, now]

/-- A claim of a resource that another claim of the same cycle was granted. -/
theorem claimOne_late (open_ : pageLocked Page.CLAIM s = false) (was : before.bit (Reg.CLAIM.CLAIM_STATE (fld v 2 0)) 31 = false)
    (may : mayClaim (fld v 2 0) (fld v 9 8) (Requester.code req) s = true) (now : s.bit (Reg.CLAIM.CLAIM_STATE (fld v 2 0)) 31 = true) :
    claimOne before req v s = claimConflict (fld v 2 0) (fld v 9 8) (Requester.code req) 2 v s := by
  simp [claimOne, open_, was, may, now]

end

/-- Of the state, only the debug level bears on who may claim. -/
theorem mayClaim_congr {s t : State} (h : t.reg Reg.COX.SEC_STATUS = s.reg Reg.COX.SEC_STATUS) {r f c : Nat} :
    mayClaim r f c t = mayClaim r f c s := by
  simp only [mayClaim, debugLevel, State.fld, h]

theorem claimState_ne {i k : Nat} (hi : i < 8) (hk : k < 0x3080 ∨ 0x30A0 ≤ k) : Reg.CLAIM.CLAIM_STATE i ≠ k := by
  simp only [Reg.CLAIM.CLAIM_STATE]; omega

theorem resource_lt (v : Word) : fld v 2 0 < 8 := fld_lt v 2 0

/-- Only PWR.DOMAINS, the page's LOCK and the debug level bear on whether a write passes the bus. -/
theorem writes_setReg {req : Requester} {k j : Nat} {v : Word} {s : State} (hd : j ≠ Reg.PWR.DOMAINS) (hl : j ≠ Reg.LOCK (k / 0x1000))
    (hs : j ≠ Reg.COX.SEC_STATUS) : Writes req k (s.setReg j v) ↔ Writes req k s := by
  simp only [Writes, Reaches, pagePresent, mustHold, atCore, readOut, pageWaits, pageOn, domainOn, pageClocked, islandStopped, inTransit,
    mayWrite, debugLevel, pageLocked, State.bit, State.fld, setReg_other _ _ _ hd.symm, setReg_other _ _ _ hl.symm,
    setReg_other _ _ _ hs.symm, setReg_frame]

/-- The holder that a granted claim records. -/
def claimHeld (req : Requester) (f : Nat) : Word := word (Requester.code req + f * 256 + 2 ^ 31)

theorem claimHeld_valid (req : Requester) (v : Word) : Sys2Proof.bit (claimHeld req (fld v 9 8)) 31 = true := by
  have code := code_lt req
  have function : fld v 9 8 < 4 := fld_lt v 9 8
  simp only [Sys2Proof.bit, BitVec.getLsbD, Nat.testBit_eq_decide_div_mod_eq, claimHeld, word, BitVec.toNat_ofNat, decide_eq_true_eq]
  omega

section
variable (r f req reason : Nat) (v : Word) (s : State)

/-- A refused claim or release leaves the holders. -/
theorem claimConflict_claimState {i : Nat} (hi : i < 8) :
    (claimConflict r f req reason v s).reg (Reg.CLAIM.CLAIM_STATE i) = s.reg (Reg.CLAIM.CLAIM_STATE i) := by
  unfold claimConflict
  rw [raise_reg _ (claimState_ne hi (.inl (by decide))), State.countFld, setFld_other _ _ _ _ _ (claimState_ne hi (.inl (by decide))),
    setReg_other _ _ _ (claimState_ne hi (.inl (by decide)))]

/-- LAST_CONFLICT names the requester and the reason (R552). -/
theorem claimConflict_last (hreq : req < 64) (hreason : reason < 8) :
    (claimConflict r f req reason v s).fld Reg.CLAIM.LAST_CONFLICT 21 16 = req
      ∧ (claimConflict r f req reason v s).fld Reg.CLAIM.LAST_CONFLICT 26 24 = reason := by
  have last : (claimConflict r f req reason v s).reg Reg.CLAIM.LAST_CONFLICT =
      word (r % 8 + f % 4 * 256 + req % 64 * 65536 + reason % 8 * 2 ^ 24) := by
    unfold claimConflict
    rw [raise_reg _ (by decide), State.countFld, setFld_other _ _ _ _ _ (by decide), setReg_same]
  simp only [State.fld, last, fld, word, BitVec.toNat_ofNat]
  omega

end

/-- Of two claims of one cycle, in either order of arrival, that of lower rank comes first (R50). -/
theorem claimCycle_two {r1 r2 : Requester} {v1 v2 : Word} (h1 : bit v1 16 = false) (h2 : bit v2 16 = false)
    (rank : claimRank (r1, v1) < claimRank (r2, v2)) {l : List (Requester × Word)}
    (hl : l = [(r1, v1), (r2, v2)] ∨ l = [(r2, v2), (r1, v1)]) (s : State) :
    claimCycle l s = withWrite r2 Reg.CLAIM.CLAIM_REQ v2 (claimOne s r2 v2) (withWrite r1 Reg.CLAIM.CLAIM_REQ v1 (claimOne s r1 v1) s) := by
  have late : ¬ claimRank (r2, v2) < claimRank (r1, v1) := Nat.not_lt.2 (Nat.le_of_lt rank)
  rcases hl with rfl | rfl <;> simp [claimCycle, h1, h2, insertClaim, rank, late]

/-- The holders of the other resources stand through a release (R51). -/
theorem claimState_keptByRelease (i : Nat) (hi : i < 8) (w : Word) :
    KeptByRelease fun s => s.reg (Reg.CLAIM.CLAIM_STATE i) = w where
  stays := fun {_ _ _} h g hr _ => (reg_of_regs (g.1.2.2 .regs hr) _).trans h
  setReg := fun h hk v => (setReg_other _ _ _ (claimState_ne hi (.inr (by have := hk.above; omega)))).trans h
  setStatus := fun h hp _ _ b => (setBit_other _ _ _ _ (claimState_ne hi (.inr (by simp only [Reg.STATUS]; omega)))).trans h
  raise := fun h hp _ sev code pl => (raise_reg _ (claimState_ne hi (.inr (by simp only [Reg.EV_PEND]; omega)))).trans h

theorem releaseResource_claimState (r : Nat) {i : Nat} (hi : i < 8) (s : State) :
    (releaseResource r s).reg (Reg.CLAIM.CLAIM_STATE i) = if i = r then 0#32 else s.reg (Reg.CLAIM.CLAIM_STATE i) := by
  refine (claimState_keptByRelease i hi _).freeResource ?_ ..
  have same : Reg.CLAIM.CLAIM_STATE i = Reg.CLAIM.CLAIM_STATE r ↔ i = r := by simp only [Reg.CLAIM.CLAIM_STATE]; omega
  simp only [reg_setReg, same]

theorem releaseWritten_granted {req : Requester} {v : Word} {s : State} (open_ : pageLocked Page.CLAIM s = false)
    (held : s.bit (Reg.CLAIM.CLAIM_STATE (fld v 2 0)) 31 = true)
    (holder : s.fld (Reg.CLAIM.CLAIM_STATE (fld v 2 0)) 5 0 = Requester.code req) :
    releaseWritten req v s = releaseResource (fld v 2 0) s := by
  simp [releaseWritten, open_, held, holder]

/-- Settles O23: one granted claim; the second of two, which finds the resource taken; a release, whose consequences reach no holder. -/
theorem claimsAndReleases : Obligations.ClaimsAndReleases := by
  refine ⟨fun s req v may claim open_ idle allowed => ?_,
    fun s r1 v1 r2 v2 may1 may2 claim1 claim2 open_ same idle allowed1 allowed2 rank l hl => ?_,
    fun s req v may release open_ held holder => ?_⟩
  · have cycle : claimCycle [(req, v)] s = withWrite req Reg.CLAIM.CLAIM_REQ v (claimOne s req v) s := by
      simp [claimCycle, claim, insertClaim]
    refine runs_write (c := .claim [(req, v)]) (congrArg Host.Outcome.next cycle) may ?_
    rw [claimOne_granted (s := busOk 0#32 s) open_ idle allowed idle]
    exact ⟨setReg_same .., sameRegs_setReg (sameRegs_busOk (sameRegs_refl _ s) _) _ _ (beq_self_eq_true _)⟩
  · refine ⟨_, congrArg Host.Outcome.next (claimCycle_two claim1 claim2 rank hl s), ?_⟩
    have low := resource_lt v1
    have away (k : Nat) (hk : k < 0x3080 ∨ 0x30A0 ≤ k) : Reg.CLAIM.CLAIM_STATE (fld v1 2 0) ≠ k := claimState_ne low hk
    have first : withWrite r1 Reg.CLAIM.CLAIM_REQ v1 (claimOne s r1 v1) s =
        (busOk 0#32 s).setReg (Reg.CLAIM.CLAIM_STATE (fld v1 2 0)) (claimHeld r1 (fld v1 9 8)) := by
      rw [withWrite_pass may1, claimOne_granted (s := busOk 0#32 s) open_ idle allowed1 idle, claimHeld]
    have may : Writes r2 Reg.CLAIM.CLAIM_REQ ((busOk 0#32 s).setReg (Reg.CLAIM.CLAIM_STATE (fld v1 2 0)) (claimHeld r1 (fld v1 9 8))) :=
      (writes_setReg (s := busOk 0#32 s) (away _ (.inl (by decide))) (away _ (.inl (by decide))) (away _ (.inr (by decide)))).2 may2
    rw [first, withWrite_pass may]
    generalize hu : busOk 0#32 ((busOk 0#32 s).setReg (Reg.CLAIM.CLAIM_STATE (fld v1 2 0)) (claimHeld r1 (fld v1 9 8))) = u
    have taken : u.reg (Reg.CLAIM.CLAIM_STATE (fld v1 2 0)) = claimHeld r1 (fld v1 9 8) := by rw [← hu, busOk_reg, setReg_same]
    have kept (k : Nat) (hk : k < 0x3080 ∨ 0x30A0 ≤ k) : u.reg k = s.reg k := by
      rw [← hu, busOk_reg, setReg_other _ _ _ (away k hk).symm, busOk_reg]
    have late : claimOne s r2 v2 u = claimConflict (fld v1 2 0) (fld v2 9 8) (Requester.code r2) 2 v2 u := by
      rw [claimOne_late, same]
      · rw [pageLocked, State.bit, kept _ (.inl (by decide))]; exact open_
      · exact same ▸ idle
      · rw [mayClaim_congr (kept _ (.inr (by decide)))]; exact allowed2
      · rw [← same, State.bit, taken]; exact claimHeld_valid r1 v1
    obtain ⟨who, why⟩ := claimConflict_last (fld v1 2 0) (fld v2 9 8) (Requester.code r2) 2 v2 u (code_lt r2) (by decide)
    rw [late]
    exact ⟨(claimConflict_claimState _ _ _ _ _ _ low).trans taken, who, why⟩
  · refine runs_guardedWrite (c := .release req v) rfl release may ?_
    rw [releaseWritten_granted (s := busOk 0#32 s) open_ held holder]
    refine ⟨?_, fun r other hr => ?_⟩
    · rw [releaseResource_claimState _ (resource_lt v), if_pos rfl]
    · rw [releaseResource_claimState _ hr, if_neg other]; rfl

/-! ### Locks and enables (R44, R47, R48) -/

/-- The copy of the RWL registers that a lock takes, register by register. -/
def shadowKeys (s : State) (l : List Nat) (t : State) : State :=
  l.foldl (fun (t : State) (k : Nat) => { t with rwlShadow := SMap.set (fun _ => none) t.rwlShadow k (some (s.reg k)) }) t

theorem lockEffect_lock {p : Nat} {v : Word} {s : State} (hv : bit v 0 = true) (open_ : pageLocked p s = false) :
    lockEffect p v s = shadowKeys s (rwlKeys p) (s.setBit (Reg.LOCK p) 0 true) := if_pos (by simp [hv, open_])

theorem lockEffect_none {p : Nat} {v : Word} {s : State} (h : bit v 0 = false ∨ pageLocked p s = true) : lockEffect p v s = s :=
  if_neg (by rcases h with h | h <;> simp [h])

theorem shadowKeys_regs (s : State) (l : List Nat) (t : State) : (shadowKeys s l t).regs = t.regs :=
  List.foldlRecOn (motive := fun u : State => u.regs = t.regs) l _ rfl fun _ h _ _ => h

theorem shadowKeys_get (s : State) (k : Nat) (l : List Nat) (t : State)
    (h : k ∈ l ∨ SMap.get (fun _ => none) t.rwlShadow k = some (s.reg k)) :
    SMap.get (fun _ => none) (shadowKeys s l t).rwlShadow k = some (s.reg k) := by
  induction l generalizing t with
  | nil => exact h.resolve_left (List.not_mem_nil)
  | cons j l ih =>
    refine ih _ ?_
    simp only [SMap.get_set]
    by_cases same : k = j
    · exact .inr (by rw [if_pos same, same])
    · rcases h with h | h
      · exact .inl ((List.mem_cons.1 h).resolve_left same)
      · exact .inr (by rw [if_neg same]; exact h)

/-- What a write stores in CTRL: EN and HALT_ON_FAULT (R44). -/
theorem storeWrite_ctrl (p : Nat) (v : Word) (s : State) :
    storeWrite (Reg.CTRL p) v s = s.setReg (Reg.CTRL p) ((s.reg (Reg.CTRL p) &&& ~~~ 5#32) ||| (v &&& 5#32)) :=
  storeWrite_rw ((regRow_header p 8 (by decide)).trans rfl) v s

/-- Settles O24. -/
theorem locksAndEnables : Obligations.LocksAndEnables := by
  refine ⟨fun s req page v may => ⟨fun hv open_ => ?_, fun none => ?_⟩, fun s req page v may en rst => ⟨fun quiet => ?_, fun busy => ?_⟩⟩
  · refine runs_write (c := .pageLock req page v) rfl may ?_
    rw [lockEffect_lock hv (s := busOk 0#32 s) open_]
    have regs := shadowKeys_regs (busOk 0#32 s) (rwlKeys page) ((busOk 0#32 s).setBit (Reg.LOCK page) 0 true)
    refine ⟨?_, fun k hk => shadowKeys_get _ _ _ _ (.inl hk), sameRegs_of_regs ?_ regs⟩
    · exact (congrArg (bit · 0) (reg_of_regs regs _)).trans (bit_of_setBit _ _ _ _ (by decide))
    · exact sameRegs_setBit (sameRegs_busOk (sameRegs_refl _ s) _) _ _ _ (beq_self_eq_true _)
  · have run : exec (.pageLock req page v) s = .next (withWrite req (Reg.LOCK page) v (lockEffect page v) s) := rfl
    rw [run, withWrite_pass may, lockEffect_none (s := busOk 0#32 s) none]
  · refine runs_guardedWrite (c := .blockDisable req page v) rfl (by simp [en, rst]) may ?_
    have stores : ctrlEffect page v (busOk 0#32 s) = storeWrite (Reg.CTRL page) v (busOk 0#32 s) := if_neg (not_of quiet)
    rw [stores, storeWrite_ctrl]
    refine ⟨?_, ?_, sameRegs_setReg (sameRegs_busOk (sameRegs_refl _ s) _) _ _ (beq_self_eq_true _)⟩
    · rw [State.bit, setReg_same, bit_masked]; exact en
    · rw [State.bit, setReg_same, bit_masked]; rfl
  · have run : exec (.blockDisable req page v) s = .next (s.when (!bit v 0 && !bit v 1) (withWrite req (Reg.CTRL page) v (ctrlEffect page v))) :=
      rfl
    have rests : ctrlEffect page v (busOk 0#32 s) = busOk 0#32 s := if_pos busy
    rw [run, when_met (by simp [en, rst]), withWrite_pass may, rests]

end Sys2Proof.Machine
end

section
set_option Elab.async false
/-! Clocks, the timer and the watchdog (O25). -/

namespace Sys2Proof.Machine

/-- A counter of some bits of a register stops at all ones. -/
theorem fld_countFld (s : State) (k : Nat) {hi lo : Nat} (n : Nat) (h : hi < 32) :
    (s.countFld k hi lo n).fld k hi lo = satAdd (2 ^ (hi + 1 - lo) - 1) (s.fld k hi lo) n := by
  have pos := Nat.two_pow_pos (hi + 1 - lo)
  have small : satAdd (2 ^ (hi + 1 - lo) - 1) (s.fld k hi lo) n < 2 ^ (hi + 1 - lo) := by unfold satAdd; omega
  rw [State.countFld, fld_of_setFld _ _ _ _ _ h, Nat.mod_eq_of_lt small]

@[simp] theorem stroke_modStroke (n : Nat) (f : Stroke → Stroke) (s : State) (m : Nat) :
    stroke (modStroke n f s) m = if m = n then f (stroke s n) else stroke s m := SMap.get_set ..

/-- SOFT_IRQ and WDT_CFG of the four Stroke cores are RW registers (R57). -/
theorem regRow_softIrq {core : Nat} (h : core < 4) :
    regRow (Reg.STROKE.SOFT_IRQ core / 0x1000) (Reg.STROKE.SOFT_IRQ core % 0x1000) = some ⟨0x48, 1, .rw, 0, 1#32, []⟩ :=
  (by decide +kernel : ∀ n < 4, regRow (Reg.STROKE.SOFT_IRQ n / 0x1000) (Reg.STROKE.SOFT_IRQ n % 0x1000) =
    some ⟨0x48, 1, .rw, 0, 1#32, []⟩) core h

theorem regRow_wdtCfg {core : Nat} (h : core < 4) :
    regRow (Reg.STROKE.WDT_CFG core / 0x1000) (Reg.STROKE.WDT_CFG core % 0x1000) = some ⟨0x54, 1, .rw, 0, 0xFFFF#32, []⟩ :=
  (by decide +kernel : ∀ n < 4, regRow (Reg.STROKE.WDT_CFG n / 0x1000) (Reg.STROKE.WDT_CFG n % 0x1000) =
    some ⟨0x54, 1, .rw, 0, 0xFFFF#32, []⟩) core h

/-! A glitch of the reference (R56). -/

/-- The state that has counted a glitch. -/
def glitched (s : State) : State := modClocks (fun c => { c with lastGlitch := some s.time }) (s.countFld Reg.CLK.REF_STATUS 31 16 1)

theorem glitched_count (s : State) :
    (glitched s).fld Reg.CLK.REF_STATUS 31 16 = min 0xFFFF (s.fld Reg.CLK.REF_STATUS 31 16 + 1) := fld_countFld s _ 1 (by decide)

theorem exec_refGlitch (s : State) : exec .refGlitch s = execRefGlitch s := rfl

theorem refGlitch_said {s : State} (h : ∀ t, s.clocks.lastGlitch = some t → t + 1000000000 ≤ s.time) :
    exec .refGlitch s = .next (raise Page.CLK 1 0 0 { p0 := word ((glitched s).fld Reg.CLK.REF_STATUS 31 16) } (glitched s)) := by
  have quiet : s.clocks.lastGlitch.all (fun t => decide (t + 1000000000 ≤ s.time)) = true := by
    cases last : s.clocks.lastGlitch with
    | none => rw [Option.all_none]
    | some t => rw [Option.all_some]; exact decide_eq_true (h t last)
  simp only [exec_refGlitch, execRefGlitch, quiet, if_true, glitched]

theorem refGlitch_unsaid {s : State} {u : Nat} (last : s.clocks.lastGlitch = some u) (h : s.time < u + 1000000000) :
    exec .refGlitch s = .next (glitched s) := by
  have soon : s.clocks.lastGlitch.all (fun t => decide (t + 1000000000 ≤ s.time)) = false := by
    rw [last, Option.all_some]
    exact decide_eq_false (Nat.not_le.2 h)
  simp only [exec_refGlitch, execRefGlitch, soon, Bool.false_eq_true, if_false, glitched]

/-- Settles O25. -/
theorem clocksAndWatchdogs : Obligations.ClocksAndWatchdogs := by
  refine ⟨fun s i lo hi on runs => ?_, fun s i u stopped due fresh => ?_, fun s quiet => ⟨_, refGlitch_said quiet, ?_⟩,
    fun s u last soon => ⟨_, refGlitch_unsaid last soon, rfl, glitched_count s, ?_⟩, fun s req core v low may => ?_, fun s core low on => ?_,
    fun s req core v low may => ?_, fun s req core v low may => ?_, fun s core low alive armed free due => ?_⟩
  · refine runs_guarded (c := .islandClockStop i) rfl (by simp [lo, hi, on, runs]) ⟨?_, ?_, ?_⟩
    · simp [modClocks, SMap.get_set]
    · exact setReg_same ..
    · exact sameRegs_count (sameRegs_of_regs (sameRegs_refl _ s) rfl) _ _ (beq_self_eq_true _)
  · exact congrArg Host.Outcome.next (when_met (by simp [stopped, due, fresh]) _)
  · refine ⟨by simp [glitched, modClocks], ?_, fun on => ?_⟩
    · rw [State.fld, raise_reg _ (by decide)]; exact glitched_count s
    · have on : pageOn (glitched s) Page.CLK = true := (pageOn_congr (setFld_other _ _ _ _ _ (by decide)) rfl _).trans on
      exact raise_pend on (by decide) (by decide) _ _
  · simp [glitched, modClocks]
  · refine runs_guardedWrite (c := .softIrq req core v) rfl (decide_eq_true low) may ?_
    rw [storeWrite_rw (regRow_softIrq low)]
    refine ⟨?_, sameRegs_setReg (sameRegs_busOk (sameRegs_refl _ s) _) _ _ (beq_self_eq_true _)⟩
    rw [State.bit, setReg_same, bit_masked]; rfl
  · refine runs_guarded (c := .timerCompare core) rfl (by simp [low, on]) ⟨?_, fun n other => ?_⟩
    · simp [timerLine]
    · simp [timerLine, other]
  · refine runs_guardedWrite (c := .wdtConfig req core v) rfl (decide_eq_true low) may ?_
    unfold wdtConfigEffect
    rw [storeWrite_rw (regRow_wdtCfg low)]
    refine ⟨?_, by simp, sameRegs_of_regs (sameRegs_setReg (sameRegs_busOk (sameRegs_refl _ s) _) _ _ (beq_self_eq_true _)) rfl⟩
    refine (congrArg (fld · 15 0) (setReg_same ..)).trans (fld_masked ?_)
    decide
  · refine runs_guardedWrite (c := .wdtKick req core v) rfl (decide_eq_true low) may ?_
    unfold wdtKickEffect
    by_cases kick : v = 0x5E5E#32
    · rw [if_pos kick, if_pos kick, stroke_modStroke, if_pos rfl]; rfl
    · rw [if_neg kick, if_neg kick]; rfl
  · exact congrArg Host.Outcome.next (when_met (by simp [low, alive, armed, free, due]) _)

end Sys2Proof.Machine
end

section
set_option Elab.async false
/-! The commands of the bus (O26). -/

namespace Sys2Proof.Machine

/-! ### Reads of a pair (R39, R40) -/

/-- The pairs hold none of the registers whose read has an effect of its own. -/
theorem pair_plain {k : Nat} (h : isLowWord k = true ∨ isHighWord k = true) :
    ¬ (k / 0x1000 = Page.UMP ∧ 0x080 ≤ k % 0x1000 ∧ k % 0x1000 < 0x0A0) ∧ k ≠ Reg.DBG.REG_DATA_LO ∧ k ≠ Reg.DBG.REG_DATA_HI := by
  refine ⟨fun ⟨page, lo, hi⟩ => ?_, ?_, ?_⟩
  · have low : lowWords Page.UMP = [0x060, 0x06C] := by decide
    simp only [isLowWord, isHighWord, page, low, List.contains_cons, List.contains_nil, Bool.or_false, Bool.or_eq_true, Bool.and_eq_true,
      beq_iff_eq, decide_eq_true_eq] at h
    omega
  · rintro rfl; revert h; decide
  · rintro rfl; revert h; decide

section
variable {req : Requester} {k : Nat} {s : State} (crit : critWordOf k = none) (shown : readsFree (k / 0x1000) (k % 0x1000) s = none)
  (osc : oscillatorAt (k / 0x1000) (k % 0x1000) s = false)
include crit shown osc

/-- The read of a low word latches the high word. -/
theorem regRead_low (low : isLowWord k = true) :
    regRead req k false false s = (regShown req k s, latch req (k + 4) (some (regShown req (k + 4) s)) s) := by
  obtain ⟨window, lo, hi⟩ := pair_plain (.inl low)
  unfold regRead
  simp only [crit, shown, osc, low, if_neg window, if_neg lo, if_neg hi, Bool.false_eq_true, if_false, if_true]

/-- The read of a high word answers the latched one. -/
theorem regRead_high (low : isLowWord k = false) (high : isHighWord k = true) {w : Word} (held : latched req k s = some w) :
    regRead req k false false s = (w, s) := by
  obtain ⟨window, lo, hi⟩ := pair_plain (.inr high)
  unfold regRead
  simp only [crit, shown, osc, low, high, held, if_neg window, if_neg lo, if_neg hi, Bool.false_eq_true, if_false, if_true, Option.getD_some]

end

/-! ### Enables and pending events (R43, R61) -/

theorem storeWrite_evEnable (p : Nat) (v : Word) (s : State) : storeWrite (Reg.EV_ENABLE p) v s =
    s.setReg (Reg.EV_ENABLE p) ((s.reg (Reg.EV_ENABLE p) &&& ~~~ word (2 ^ (pageEvents p).2 - 1)) ||| (v &&& word (2 ^ (pageEvents p).2 - 1))) :=
  storeWrite_rw ((regRow_header p 0x14 (by decide)).trans rfl) v s

theorem storeWrite_evPend (p : Nat) (v : Word) (s : State) : storeWrite (Reg.EV_PEND p) v s =
    s.setReg (Reg.EV_PEND p) (s.reg (Reg.EV_PEND p) &&& ~~~ (v &&& word (2 ^ (pageEvents p).2 - 1))) := by
  have row : regRow (Reg.EV_PEND p / 0x1000) (Reg.EV_PEND p % 0x1000) = some ⟨0x18, 1, .w1c, 0, word (2 ^ (pageEvents p).2 - 1), []⟩ :=
    (regRow_header p 0x18 (by decide)).trans rfl
  unfold storeWrite
  rw [row]
  rfl

/-- A write that passes the checks of the bus, whatever would stand in a held access. -/
theorem withWriteOut_pass {req : Requester} {k : Nat} {s : State} (h : Writes req k s) (o : Outside) (v : Word) (eff : State → State) :
    withWriteOut o req k v eff s = eff (busOk 0#32 s) := by
  obtain ⟨free, assigned, present, ready, -⟩ := h.1
  have arrives : Arrives req k s := ⟨free, assigned, present, ready⟩
  rw [arrives.write, ← arrives.write {}]
  exact withWrite_pass h v eff

/-- A write of a header register of a page, through the bus. -/
theorem runs_headerWrite {req : Requester} {p off : Nat} {v : Word} {o : Outside} {s : State} {P : State → Prop} (hp : p < 0x1000)
    (low : off < 0x40) (aligned : off % 4 = 0) (may : Writes req (p * 0x1000 + off) s) (h : P (headerWrite p off v (busOk 0#32 s))) :
    Runs (.registerWrite req (keyAddr (p * 0x1000 + off)) .word v o) s P := by
  refine ⟨_, registerWrite_of_key req s (by omega) (by omega) v o, ?_⟩
  rw [withWriteOut_pass may, header_effect _ _ _ _ _ _ low]
  exact h

/-! ### FENCE, and clocks that return (R35, R56) -/

theorem settle_none {out : HeldAccess → Outside} {p : HeldAccess → Bool} {s : State} (h : s.bus.held = []) : settle out p s = s :=
  settle_nil (by rw [h]; rfl)

theorem accessesResume_none (o : Outside) {s : State} (h : s.bus.held = []) : accessesResume o s = s := by
  unfold accessesResume
  rw [settle_none h, settle_none h]

theorem modClocks_pageOn (f : Clocks → Clocks) (s : State) (p : Nat) : pageOn (modClocks f s) p = pageOn s p := rfl

section
variable {s : State} {i u : Nat} (o : Outside) (stopped : SMap.get (fun _ => none) s.clocks.stopped i = some u)
  (fresh : SMap.get (fun _ => false) s.clocks.failed i = false)
include stopped fresh

theorem clockRelock_inTime (soon : s.time ≤ u + 50000) : exec (.clockRelock i o) s =
    .next (accessesResume o (transient Page.CLK 0 i {}
      (modClocks (fun c => { c with stopped := SMap.set (fun _ => none) c.stopped i none }) s))) := by
  have run : exec (.clockRelock i o) s = execClockRelock i o s := rfl
  simp only [run, execClockRelock, stopped]
  rw [when_met (by simp [fresh]), if_pos soon]

theorem clockRelock_late (late : u + 50000 < s.time) : exec (.clockRelock i o) s = .next (clockFails i s) := by
  have run : exec (.clockRelock i o) s = execClockRelock i o s := rfl
  simp only [run, execClockRelock, stopped]
  rw [when_met (by simp [fresh]), if_neg (Nat.not_le.2 late)]

end

/-- Settles O26. -/
theorem busCommands : Obligations.BusCommands := by
  refine ⟨fun s req p v o may hp => ?_, fun s req p v o may hp => ?_, fun s req k low aligned reads crit shown osc isLow => ?_,
    fun s req k w low aligned reads crit shown osc isLow isHigh held => ?_, fun s req a wr h due alone => ?_,
    fun s req page core v fence may hv free waits => ?_, fun s core o stalls acked => ?_,
    fun s i u o stopped fresh => ⟨fun soon => ?_, fun soon none => ?_, fun late => ?_⟩⟩
  · refine runs_headerWrite hp (by decide) (by decide) may ?_
    have stores : headerWrite p 0x14 v (busOk 0#32 s) = storeWrite (Reg.EV_ENABLE p) v (busOk 0#32 s) := rfl
    rw [stores, storeWrite_evEnable]
    exact ⟨setReg_same .., sameRegs_setReg (sameRegs_busOk (sameRegs_refl _ s) _) _ _ (beq_self_eq_true _)⟩
  · refine runs_headerWrite hp (by decide) (by decide) may ?_
    have stores : headerWrite p 0x18 v (busOk 0#32 s) = storeWrite (Reg.EV_PEND p) v (busOk 0#32 s) := rfl
    rw [stores, storeWrite_evPend]
    exact ⟨setReg_same .., sameRegs_setReg (sameRegs_busOk (sameRegs_refl _ s) _) _ _ (beq_self_eq_true _)⟩
  · refine ⟨_, latchedRead_of_key req s low aligned, ?_⟩
    rw [withRead_pass reads, regRead_low crit shown osc isLow]
    exact ⟨rfl, by simp [latched, latch, busOk, SMap.get_set], rfl⟩
  · refine ⟨_, latchedRead_of_key req s low aligned, ?_⟩
    rw [withRead_pass reads, regRead_high crit shown osc isLow isHigh held]
    exact ⟨rfl, rfl⟩
  · obtain ⟨-, -, timedOut, -⟩ := refusedAccesses
    refine ⟨_, timedOut s req a wr h due alone, rfl, ?_, ?_, ?_⟩
    · exact (refuseAccess_reg (off := 0x58) _ _ _ _ _ (by decide) (by decide) (by decide)).trans (errRecorded_errInfo ..)
    · refine (refuseAccess_reg (off := 0x5C) _ _ _ _ _ (by decide) (by decide) (by decide)).trans ?_
      simp [errRecorded, reg_count]
    · refine (refuseAccess_reg (off := 0x60) _ _ _ _ _ (by decide) (by decide) (by decide)).trans ?_
      simp [errRecorded, reg_count]
  · have run : exec (.fenceDrain req page v) s = .next (s.when (bit v 0) (withWrite req (regKey page 0x040) v (fenceEffect core v))) := by
      have run : exec (.fenceDrain req page v) s = execFenceDrain req page v s := rfl
      simp only [run, execFenceDrain, fence]
    refine runs_guardedWrite run hv may ?_
    have stalls : fenceEffect core v (busOk 0#32 s) =
        { busOk 0#32 s with bus := { (busOk 0#32 s).bus with stalled := s.bus.stalled ++ [core] } } := if_pos (by
      have free : (busOk 0#32 s).bus.stalled.contains core = false := free
      have waits : (busOk 0#32 s).bus.held.any (unacked core) = true := waits
      rw [hv, free, waits]; rfl)
    rw [stalls]
    exact ⟨rfl, rfl, rfl⟩
  · exact congrArg Host.Outcome.next (when_met (by rw [stalls, acked]; rfl) _)
  · exact clockRelock_inTime o stopped fresh soon
  · refine ⟨_, clockRelock_inTime o stopped fresh soon, ?_⟩
    rw [accessesResume_none o (by simpa [transient, modClocks] using none)]
    refine ⟨?_, fun on => ?_, by simp [transient, modClocks]⟩
    · simp [islandStopped, transient, modClocks, SMap.get_set]
    · exact raise_pend ((modClocks_pageOn ..).trans on) (by decide) (by decide) _ _
  · exact clockRelock_late o stopped fresh late

end Sys2Proof.Machine
end

section
set_option Elab.async false
/-! The event fabric and the critical words (O27). -/

namespace Sys2Proof.Machine

/-! ### Where a message goes (R63 to R66, R80) -/

/-- `s` with its next message taken off the fabric. -/
def taken (m : Msg) (s : State) : State := { s with fabric := s.fabric.erase m }

theorem eventMessage_aon {m : Msg} {s : State} (h : nextMsg s.fabric = some m) (aon : m.aon = true ∨ domainOn s 6 = false) :
    exec .eventMessage s = .next (umpArrive m true (taken m s)) := by
  have run : exec .eventMessage s = execEventMessage s := rfl
  simp only [run, execEventMessage, h, taken]
  rw [if_pos (by rcases aon with e | e <;> simp [e])]

theorem eventMessage_byFabric {m : Msg} {s : State} (h : nextMsg s.fabric = some m) (by_ : ByFabric m s) :
    exec .eventMessage s = .next (deliver m (taken m s)) := by
  obtain ⟨aon, on, runs⟩ := by_
  have run : exec .eventMessage s = execEventMessage s := rfl
  simp [run, execEventMessage, h, taken, aon, on, runs]

theorem umpArrive_room {m : Msg} {aon : Bool} {s : State} (room : s.ump.fifo.length < 64) :
    umpArrive m aon s = modUmp (fun u => { u with fifo := u.fifo ++ [⟨m, aon⟩] }) s := if_pos room

theorem umpArrive_targets (m : Msg) (aon : Bool) (s : State) : (umpArrive m aon s).targets = s.targets := by
  unfold umpArrive
  split
  · rfl
  · dsimp only
    split <;> simp [modUmp]

/-- The message that Umpire records, and what else of the state that leaves. -/
theorem recordedArrive {m : Msg} {r : Nat} {s : State} (room : s.ump.fifo.length < 64) :
    let t := if recorded m.severity r then umpArrive m false s else s
    t.fabric = s.fabric ∧ t.targets = s.targets ∧ t.regs = s.regs
      ∧ (recorded m.severity r = true → t.ump.fifo = s.ump.fifo ++ [⟨m, false⟩]) ∧ (recorded m.severity r = false → t.ump = s.ump) := by
  rw [umpArrive_room room]
  cases recorded m.severity r <;> simp [modUmp]

section
variable (i : Nat) (m : Msg) (s : State)

@[simp] theorem target_setTarget (x : Target) (j : Nat) : target (setTarget i x s) j = if j = i then x else target s j := SMap.get_set ..

/-- A message reaches one target. -/
theorem toTarget_other {j : Nat} (h : j ≠ i) : target (toTarget i m s) j = target s j := by
  have dropped (x : Target) : target (setTarget i x s) j = target s j := by rw [target_setTarget, if_neg h]
  have halted (u : State) : target (haltFault Page.EVF (sourceOf Page.EVF 0) i (markEvent Page.EVF 0 u)) j = target u j := by
    have lasts : (haltFault Page.EVF (sourceOf Page.EVF 0) i (markEvent Page.EVF 0 u)).targets = u.targets := by
      unfold haltFault
      dsimp only
      split <;> simp [markEvent]
    exact congrArg (SMap.get (fun _ => Target.empty) · j) lasts
  unfold toTarget
  extract_lets x s1 s2
  have marked : target s2 j = target s j := (halted s1).trans (dropped _)
  refine (apply_ite (target · j) ..).trans (ite_eq_left_iff.2 fun _ => ?_)
  split
  · exact dropped _
  split
  · exact dropped _
  split
  · exact dropped _
  split
  · exact marked
  · exact marked

variable {i m s}

theorem toTarget_normal (open_ : m.notTo ≠ i) (sev : m.severity ≠ 4) (room : (target s i).normal.length < 128) :
    toTarget i m s = setTarget i { target s i with normal := (target s i).normal ++ [m] } s := by
  unfold toTarget
  dsimp only
  rw [if_neg open_, if_neg (fun h => sev h.1), if_pos ⟨sev, room⟩]

theorem toTarget_machine (open_ : m.notTo ≠ i) (sev : m.severity = 4) (room : (target s i).machine.length < 8) :
    toTarget i m s = setTarget i { target s i with machine := (target s i).machine ++ [m] } s := by
  unfold toTarget
  dsimp only
  rw [if_neg open_, if_pos ⟨sev, room⟩]

end

/-! ### Leaky buckets (R66) -/

theorem bucketFill_room {m : Msg} {s : State} (leak : leakedNow m.source s = none)
    (room : s.fld (evsrcKey m.source) 31 24 < s.fld (evsrcKey m.source) 15 8) :
    bucketFill m s = s.setFld (evsrcKey m.source) 31 24 (s.fld (evsrcKey m.source) 31 24 + 1) := by
  unfold bucketFill
  simp only [leak, Option.getD_none, Option.isSome_none, Bool.false_eq_true, if_false, Nat.sub_zero]
  rw [if_pos room]
  rfl

theorem bucketFill_over {m : Msg} {s : State} (leak : leakedNow m.source s = none)
    (full : s.fld (evsrcKey m.source) 15 8 ≤ s.fld (evsrcKey m.source) 31 24) :
    bucketFill m s = (s.setFld (evsrcKey m.source) 31 24 0).send { m with severity := 2 } := by
  unfold bucketFill
  simp only [leak, Option.getD_none, Option.isSome_none, Bool.false_eq_true, if_false]
  rw [if_neg (Nat.not_lt.2 full)]
  rfl

/-! ### Critical words (R84 to R89) -/

theorem strikeAll_kept (us : List CritUpset) (s : State) :
    (strikeAll us s).crit.bad = s.crit.bad ∧ (strikeAll us s).crit.wroteAt = s.crit.wroteAt ∧ (strikeAll us s).crit.wrote = s.crit.wrote
      ∧ (strikeAll us s).time = s.time := by
  refine List.foldlRecOn (motive := fun t : State => t.crit.bad = s.crit.bad ∧ t.crit.wroteAt = s.crit.wroteAt
    ∧ t.crit.wrote = s.crit.wrote ∧ t.time = s.time) us _ ⟨rfl, rfl, rfl, rfl⟩ fun t h u _ => ?_
  unfold strike modCrit CritStore.setCopy
  dsimp only
  split_ifs <;> exact h

/-- A read of a word with a vote: the vote, which all copies then hold (R86). -/
theorem voteWord_all {s : State} {n : Nat} {w : Word} (whole : n ∉ s.crit.bad) (vote : critVote s.crit n = some w) :
    (voteWord n s).critVal n = w ∧ ∀ m, m < 3 → ((voteWord n s).crit.copy m).get n = w := by
  have voted : voteWord n s = (List.range 3).foldl (repairCopy n w) s :=
    (voteWord_of_vote whole vote).trans (repairWord_of_vote vote)
  have copies : ∀ m, m < 3 → ((voteWord n s).crit.copy m).get n = w := fun m hm => by
    rw [voted, repairs_get n w hm _ _ fun _ => List.mem_range.1, if_pos (List.mem_range.2 hm)]
  exact ⟨critVal_of_vote (by rwa [voted, repairs_bad])
    (critVote_of_agree (by decide : 0 < 3) (by decide : 1 < 3) (by decide) (copies 0 (by decide)) (copies 1 (by decide))), copies⟩

/-- A critical word whose write has no effect besides its store. -/
theorem critEffect_plain {n : Nat} (plain : n ∉ [0, 1, 2, 3, 4, 5, 6, 7, 8, 9, 17, 18, 19, 20, 21, 22, 27]) (req : Requester) (k : Nat)
    (v : Word) (s : State) : critEffect req n k v s = s.critPut n v := by
  simp only [List.mem_cons, List.not_mem_nil, or_false, not_or] at plain
  simp [critEffect, hardwareWord, plain]

/-! ### The settlement -/

theorem raise_pageOn (p k sev code : Nat) (pl : Payload) (s : State) (q : Nat) : pageOn (raise p k sev code pl s) q = pageOn s q := by
  have apart : Reg.PWR.DOMAINS ≠ Reg.EV_PEND p := by simp only [Reg.PWR.DOMAINS, Reg.EV_PEND]; omega
  exact pageOn_congr (raise_reg s apart) (raise_frame ..).1 q

/-- What a bit of EV_FORCE does. -/
def forceOne (p : Nat) (v : Word) (t : State) (k : Nat) : State :=
  if bit v k then
    match eventSeverity p k with
    | some sev => raise p k sev 0xFFFF {} t
    | none => t
  else t

theorem evForceEffect_eq (p : Nat) (v : Word) (s : State) : evForceEffect p v s = (List.range 32).foldl (forceOne p v) s := rfl

theorem forceOne_cases (p : Nat) (v : Word) (t : State) (k : Nat) :
    forceOne p v t k = t ∧ (bit v k = false ∨ eventSeverity p k = none)
      ∨ ∃ sev, forceOne p v t k = raise p k sev 0xFFFF {} t := by
  unfold forceOne
  cases bit v k with
  | false => exact .inl ⟨rfl, .inl rfl⟩
  | true =>
    cases eventSeverity p k with
    | none => exact .inl ⟨rfl, .inr rfl⟩
    | some sev => exact .inr ⟨sev, rfl⟩

/-- The events that a write of EV_FORCE raises become pending, and stay so (R62). -/
theorem forced_pend {p k : Nat} {v : Word} (hk : k < (pageEvents p).2) (hv : bit v k = true) (sev : (eventSeverity p k).isSome = true)
    (l : List Nat) (low : ∀ j ∈ l, j < 32) (s : State) (on : pageOn s p = true)
    (h : k ∈ l ∨ s.bit (Reg.EV_PEND p) k = true) : (l.foldl (forceOne p v) s).bit (Reg.EV_PEND p) k = true := by
  induction l generalizing s with
  | nil => exact h.resolve_left List.not_mem_nil
  | cons j l ih =>
    obtain ⟨hj, low⟩ := List.forall_mem_cons.1 low
    have goOn (t : State) (on : pageOn t p = true) (h : k ∈ l ∨ t.bit (Reg.EV_PEND p) k = true) := ih low t on h
    rw [List.foldl_cons]
    rcases forceOne_cases p v s j with ⟨e, none⟩ | ⟨sv, e⟩
    · rw [e]
      have other : k ≠ j := by rintro rfl; rcases none with none | none <;> simp_all
      exact goOn s on (h.imp_left fun m => (List.mem_cons.1 m).resolve_left other)
    · rw [e]
      refine goOn _ ((raise_pageOn ..).trans on) ?_
      by_cases own : k = j
      · subst own; exact .inr (raise_pend on hk hj _ _)
      · exact h.imp (fun m => (List.mem_cons.1 m).resolve_left own) fun b => (raise_pend_other s hj own).trans b

theorem sameRegs_evForce (p : Nat) (v : Word) (s : State) : SameRegs (fun k => k == Reg.EV_PEND p) s (evForceEffect p v s) := by
  rw [evForceEffect_eq]
  refine sameRegs_foldl _ _ (fun u k _ h => ?_) s (sameRegs_refl _ s)
  rcases forceOne_cases p v u k with ⟨e, -⟩ | ⟨sev, e⟩
  · rw [e]; exact h
  · rw [e]; exact sameRegs_raise h _ _ _ _ _ (beq_self_eq_true _)

theorem popEffect_regs (i : Nat) (v : Word) (s : State) : (popEffect i v s).regs = s.regs := rfl

/-- What a pop takes: the oldest message of severity 4, or else the oldest (R64, R65). -/
theorem popEffect_target (i : Nat) (v : Word) (s : State) (hv : bit v 0 = true) :
    (∀ m ms, (target s i).machine = m :: ms →
        (target (popEffect i v s) i).machine = ms ∧ (target (popEffect i v s) i).normal = (target s i).normal)
      ∧ ((target s i).machine = [] →
        (target (popEffect i v s) i).machine = [] ∧ (target (popEffect i v s) i).normal = (target s i).normal.drop 1)
      ∧ (target (popEffect i v s) i).dropped = if bit v 1 then 0 else (target s i).dropped := by
  unfold popEffect
  simp only [hv, if_true, target_setTarget]
  refine ⟨fun m ms e => ?_, fun e => ?_, ?_⟩
  · simp only [e]
    split_ifs <;> simp
  · simp only [e]
    split_ifs <;> simp
  · cases (target s i).machine <;> dsimp only <;> split_ifs <;> rfl

/-- Settles O27. -/
theorem eventsAndCriticalWords : Obligations.EventsAndCriticalWords := by
  refine ⟨fun s m next aon room => ?_, fun s m i next by_ not1 not4 open_ route room fifo => ?_,
    fun s m i next by_ four open_ core route room => ?_, fun s m next by_ one leak below fifo => ?_,
    fun s m next by_ one leak full unrecorded => ?_, fun s i low on due leak => ?_, fun s req i v low may hv => ?_,
    fun s req p v may => ?_, fun s req a k n w us key word reads whole vote => ?_, fun s req a k n v key word may plain => ?_,
    fun s us sweeps due => ?_⟩
  · refine ⟨_, eventMessage_aon next aon, ?_⟩
    rw [umpArrive_room (s := taken m s) room]
    exact ⟨rfl, rfl, rfl, rfl⟩
  · refine ⟨_, eventMessage_byFabric next by_, ?_⟩
    have sent : deliver m (taken m s) =
        if recorded m.severity (s.fld (evsrcKey m.source) 5 4) then umpArrive m false (toTarget i m (taken m s))
        else toTarget i m (taken m s) := by
      have route : routeTarget (fld ((taken m s).reg (evsrcKey m.source)) 2 0) = some i := route
      simp only [deliver, route, not1, not4, if_false, Option.toList_some, List.foldl_cons, List.foldl_nil]
      rfl
    have put : toTarget i m (taken m s) = setTarget i { target s i with normal := (target s i).normal ++ [m] } (taken m s) :=
      toTarget_normal (s := taken m s) open_ not4 room
    rw [sent, put]
    obtain ⟨fabric, targets, -, yes, no⟩ := recordedArrive (m := m) (r := s.fld (evsrcKey m.source) 5 4)
      (s := setTarget i { target s i with normal := (target s i).normal ++ [m] } (taken m s)) fifo
    refine ⟨fabric, ?_, fun j other => ?_, yes, no⟩
    · exact (congrArg (SMap.get (fun _ => Target.empty) · i) targets).trans ((target_setTarget ..).trans (if_pos rfl))
    · exact (congrArg (SMap.get (fun _ => Target.empty) · j) targets).trans ((target_setTarget ..).trans (if_neg other))
  · refine ⟨_, eventMessage_byFabric next by_, ?_⟩
    have sent : deliver m (taken m s) = umpArrive m false (toTarget 5 m (toTarget 4 m (taken m s))) := by
      have route : routeTarget (fld ((taken m s).reg (evsrcKey m.source)) 2 0) = none := route
      simp [deliver, route, four, recorded]
    have arrived : target (deliver m (taken m s)) i = target (toTarget 5 m (toTarget 4 m (taken m s))) i := by
      rw [sent]
      exact congrArg (SMap.get (fun _ => Target.empty) · i) (umpArrive_targets ..)
    refine arrived.trans ?_
    rcases core with rfl | rfl
    · rw [toTarget_other _ _ _ (by decide), toTarget_machine (s := taken m s) open_ four room, target_setTarget, if_pos rfl]
      rfl
    · have before : target (toTarget 4 m (taken m s)) 5 = target s 5 := toTarget_other _ _ _ (by decide)
      rw [toTarget_machine open_ four (by rw [before]; exact room), target_setTarget, if_pos rfl, before]
  · refine ⟨_, eventMessage_byFabric next by_, ?_⟩
    have small : s.fld (evsrcKey m.source) 15 8 < 256 := fld_lt _ 15 8
    have filled : bucketFill m (taken m s) = (taken m s).setFld (evsrcKey m.source) 31 24 (s.fld (evsrcKey m.source) 31 24 + 1) :=
      bucketFill_room (s := taken m s) leak below
    have sent : deliver m (taken m s) = if recorded m.severity (s.fld (evsrcKey m.source) 5 4) then
        umpArrive m false (bucketFill m (taken m s)) else bucketFill m (taken m s) := by
      simp only [deliver, one, if_true]
      rfl
    rw [sent, filled]
    obtain ⟨fabric, targets, regs, -⟩ := recordedArrive (m := m) (r := s.fld (evsrcKey m.source) 5 4)
      (s := (taken m s).setFld (evsrcKey m.source) 31 24 (s.fld (evsrcKey m.source) 31 24 + 1)) fifo
    refine ⟨fabric, targets, ?_⟩
    rw [State.fld, reg_of_regs regs]
    refine (fld_of_setFld (taken m s) _ 31 24 _ (by decide)).trans (Nat.mod_eq_of_lt ?_)
    show s.fld (evsrcKey m.source) 31 24 + 1 < 256
    omega
  · refine ⟨_, eventMessage_byFabric next by_, ?_⟩
    have filled : bucketFill m (taken m s) = ((taken m s).setFld (evsrcKey m.source) 31 24 0).send { m with severity := 2 } :=
      bucketFill_over (s := taken m s) leak full
    have sent : deliver m (taken m s) = bucketFill m (taken m s) := by
      have unrecorded : recorded 1 (fld ((taken m s).reg (evsrcKey m.source)) 5 4) = false := unrecorded
      simp [deliver, one, unrecorded]
    rw [sent, filled]
    exact ⟨rfl, rfl, fld_of_setFld (taken m s) _ 31 24 0 (by decide)⟩
  · refine runs_guarded (c := .bucketLeak i) rfl (by simp [low, on, due, leak]) ⟨?_, ?_⟩
    · have small : s.fld (evsrcKey i) 31 24 < 256 := fld_lt _ 31 24
      refine (fld_of_setFld s (evsrcKey i) 31 24 _ (by decide)).trans (Nat.mod_eq_of_lt ?_)
      show s.fld (evsrcKey i) 31 24 - 1 < 256
      omega
    · exact sameRegs_of_regs (sameRegs_setFld (sameRegs_refl _ s) _ _ _ _ (beq_self_eq_true _)) rfl
  · refine runs_guardedWrite (c := .targetPop req i v) rfl (decide_eq_true low) may ?_
    obtain ⟨machine, normal, dropped⟩ := popEffect_target i v (busOk 0#32 s) hv
    exact ⟨machine, normal, dropped, rfl⟩
  · refine runs_write (c := .evForce req p v) rfl may ⟨fun k h32 hk hv sev => ?_, ?_⟩
    · have on : pageOn (busOk 0#32 s) p = true := by
        obtain ⟨⟨-, -, -, -, on⟩, -⟩ := may
        rwa [show Reg.EV_FORCE p / 0x1000 = p by simp only [Reg.EV_FORCE]; omega] at on
      rw [evForceEffect_eq]
      exact forced_pend hk hv sev _ (fun _ => List.mem_range.1) _ on (.inl (List.mem_range.2 h32))
    · exact sameRegs_evForce p v (busOk 0#32 s)
  · obtain ⟨bad, -⟩ := strikeAll_kept us s
    obtain ⟨value, copies⟩ := voteWord_all (s := strikeAll us s) (by rwa [bad]) vote
    have run : exec (.critRead req a us) s = execCritRead req a us s := rfl
    refine ⟨_, run.trans (congrArg Host.Outcome.next (?_ : _ = busOk ((voteWord n (strikeAll us s)).critVal n) (voteWord n (strikeAll us s)))),
      value, copies 0 (by decide), copies 1 (by decide), copies 2 (by decide)⟩
    simp only [key, word, Option.bind_some, Option.map_some, withRead_pass reads]
  · have run : exec (.critWrite req a v) s = .next (withWrite req k v (critEffect req n k v) s) := by
      have run : exec (.critWrite req a v) s = execCritWrite req a v s := rfl
      simp [run, execCritWrite, key, word]
    refine runs_write run may ?_
    rw [critEffect_plain plain, critPut_crit]
    refine ⟨?_, ?_, ?_, by simp, fun j other => ⟨?_, ?_, ?_⟩⟩
    all_goals rw [critCopy_put]
    · exact if_pos rfl
    · exact if_pos rfl
    · exact if_pos rfl
    · exact if_neg other
    · exact if_neg other
    · exact if_neg other
  · obtain ⟨-, wroteAt, wrote, time⟩ := strikeAll_kept us s
    have run : exec (.critSweep us) s = execCritSweep us s := rfl
    unfold execCritSweep at run
    dsimp only at run
    rw [run, when_met (by rw [sweeps, time, due]; rfl), wroteAt, wrote, time]

end Sys2Proof.Machine
end

section
set_option Elab.async false
/-! Resets and the boot (O28). -/

namespace Sys2Proof.Machine

/-! ### The core die without power (R13, R536 to R540) -/

/-- The outputs of the rigger die that a reset with the supply on keeps. -/
def riggerKept (s : State) (l : List Nat) (u : State) : State := l.foldl (fun (u : State) k => u.setReg k (s.reg k)) u

theorem riggerKept_frame (s : State) (l : List Nat) (u : State) :
    (riggerKept s l u).mem = u.mem ∧ (riggerKept s l u).time = u.time ∧ (riggerKept s l u).rigger = u.rigger :=
  List.foldlRecOn (motive := fun t : State => t.mem = u.mem ∧ t.time = u.time ∧ t.rigger = u.rigger) l _ ⟨rfl, rfl, rfl⟩ fun _ h _ _ => h

theorem powerOff_off (code tries : Nat) (s : State) : powerOff code tries false s =
    { clearedDevice s with chip := { (clearedDevice s).chip with held := some code, railTries := tries } }.setReg Reg.PWR.DOMAINS 0x80000#32 :=
  rfl

theorem powerOff_on (code tries : Nat) (s : State) : powerOff code tries true s =
    (let u := riggerKept (riggerAutonomous s) riggerKeys
      { clearedDevice (riggerAutonomous s) with rigger := riggerLeft (riggerAutonomous s) }
    { u with chip := { u.chip with held := some code, railTries := tries } }.setReg Reg.PWR.DOMAINS 0x80000#32) := rfl

/-- With the core die off only the rigger die's domain is on. -/
theorem domainOn_held {s : State} (h : s.reg Reg.PWR.DOMAINS = 0x80000#32) (d : Nat) (hd : d < 32) : domainOn s d = decide (d = 19) := by
  unfold domainOn State.bit
  rw [h]
  exact (by decide : ∀ d < 32, bit 0x80000#32 d = decide (d = 19)) d hd

/-- The core die held after a loss of power: nothing of its memory and time is left. -/
structure HeldBlank (code tries : Nat) (t : State) : Prop where
  held : t.chip.held = some code
  tries : t.chip.railTries = tries
  mem : t.mem = []
  time : t.time = 0
  domains : ∀ d, d < 32 → domainOn t d = decide (d = 19)

theorem powerOff_blank (code tries : Nat) (powered : Bool) (s : State) : HeldBlank code tries (powerOff code tries powered s) := by
  cases powered with
  | false =>
    rw [powerOff_off]
    exact ⟨rfl, rfl, rfl, rfl, domainOn_held (setReg_same ..)⟩
  | true =>
    rw [powerOff_on]
    obtain ⟨mem, time, -⟩ := riggerKept_frame (riggerAutonomous s) riggerKeys
      { clearedDevice (riggerAutonomous s) with rigger := riggerLeft (riggerAutonomous s) }
    exact ⟨rfl, rfl, mem, time, domainOn_held (setReg_same ..)⟩

theorem powerOff_rigger (code tries : Nat) (s : State) : (powerOff code tries true s).rigger = riggerLeft (riggerAutonomous s) := by
  rw [powerOff_on]
  exact (riggerKept_frame (riggerAutonomous s) riggerKeys _).2.2

/-! ### A soft reset (R52) -/

/-- The block after a soft reset has begun, before what the block's kind adds. -/
def resetBegun (p : Nat) (s : State) : State :=
  (startRestore p (blockReset p (heldKeys p) (clearCheck p (blockEnd p s)))).setReg (Reg.CTRL p) (setBit (s.reg (Reg.CTRL p)) 1 true)

section
variable {p : Nat} {v : Word} {s : State} (hv : bit v 1 = true) (idle : s.bit (Reg.CTRL p) 1 = false)
include hv idle

theorem softResetEffect_safe (safe : p = Page.SAFE) : softResetEffect p v s = wbReview (showHealth (resetBegun p s)) := by
  unfold softResetEffect
  rw [if_neg (by simp [hv, idle])]
  dsimp only
  rw [if_pos safe]
  rfl

theorem softResetEffect_cases (other : p ≠ Page.SAFE) :
    softResetEffect p v s = modCache (fun c => { c with lines := (blockEnd p s).cache.lines }) (resetBegun p s)
      ∨ softResetEffect p v s = (resetBegun p s).setFld (Reg.STATUS p) 17 16 (s.fld (Reg.STATUS p) 17 16)
      ∨ softResetEffect p v s = resetBegun p s := by
  unfold softResetEffect
  rw [if_neg (by simp [hv, idle])]
  dsimp only
  rw [if_neg other]
  split
  · exact .inl rfl
  split
  · exact .inr (.inl rfl)
  · exact .inr (.inr rfl)

/-- A soft reset is begun, and the block's microcode comes back. -/
theorem softResetEffect_begun (other : p ≠ Page.SAFE) :
    (softResetEffect p v s).reg (Reg.CTRL p) = setBit (s.reg (Reg.CTRL p)) 1 true
      ∧ ∀ c, 0x10 ≤ c → c ∈ pageRequesters p → c ∈ (softResetEffect p v s).ucode.restoring := by
  have ctrl : (resetBegun p s).reg (Reg.CTRL p) = setBit (s.reg (Reg.CTRL p)) 1 true := setReg_same ..
  have restores (c : Nat) (hc : 0x10 ≤ c) (own : c ∈ pageRequesters p) : c ∈ (resetBegun p s).ucode.restoring := by
    have mine : c ∈ (pageRequesters p).filter fun c => decide (0x10 ≤ c) := List.mem_filter.2 ⟨own, decide_eq_true hc⟩
    exact List.mem_append_right _ mine
  rcases softResetEffect_cases hv idle other with e | e | e
  · rw [e]; exact ⟨ctrl, restores⟩
  · rw [e]; exact ⟨(setFld_other _ _ _ _ _ (header_ne (by decide))).trans ctrl, restores⟩
  · rw [e]; exact ⟨ctrl, restores⟩

end

/-- A write of DEV_RESET that R53 allows. -/
theorem devResetEffect_allowed {req : Requester} {v : Word} {b : BootInputs} {s : State} (hv : bit v 0 = true) (may : mayReset req s = true)
    (key : fld v 31 16 = 0x5E7D) (safe : bit v 1 = true ∨ noDirty s = true) :
    devResetEffect req v b s = bootChain 4 b (deviceReset 4 (Requester.code req) (bit v 1) s) := by
  unfold devResetEffect
  rw [if_neg (by simp [hv]), if_neg (by simp [may]), if_neg (by simp [key]), if_neg (by rcases safe with h | h <;> simp [h])]
  rfl

/-- Settles O28. -/
theorem resetsAndBoot : Obligations.ResetsAndBoot := by
  refine ⟨fun s ms b good off tries => ?_, fun s rail pc low off tries => ?_, fun s rail ns low on => ?_, fun s ns low on => ?_,
    fun s b held => ?_, fun s b held => ?_, fun s mv low on failing => ?_, fun s v12 v5 ms b dead h12 h5 good => ?_,
    fun s req v b may hv allowed key safe => ?_, fun s ns b long on => ?_, fun s ns b long short on => ?_, fun s bytes on rec refused => ?_,
    fun s bytes on rec good => ?_, fun s req p v may hv idle other => ?_, fun s req v may hv idle => ?_, fun s p other busy => ?_,
    fun s busy => ?_, fun s e a x up => ⟨fun code found => ?_, fun none => ?_⟩, fun s e a up free => ?_⟩
  · exact congrArg Host.Outcome.next (when_met (by simp [good, off, tries]) _)
  · refine runs_guarded (c := .railStartFail rail pc) rfl (by simp [low, off, tries]) ?_
    obtain ⟨held, tries, mem, time, domains⟩ := powerOff_blank 1 (s.chip.railTries + 1) false s
    exact ⟨held, tries, mem, time, domains⟩
  · refine runs_guarded (c := .railLow rail ns) rfl (by simp [low, on]) ?_
    obtain ⟨held, -, mem, time, domains⟩ := powerOff_blank 5 0 true s
    exact ⟨held, mem, time, powerOff_rigger 5 0 s, domains⟩
  · refine runs_guarded (c := .refclkLoss ns) rfl (by simp [low, on]) ?_
    obtain ⟨held, -, mem, time, domains⟩ := powerOff_blank 6 0 true s
    exact ⟨held, mem, time, powerOff_rigger 6 0 s, domains⟩
  · exact congrArg Host.Outcome.next (when_met (by simp [held]) _)
  · exact congrArg Host.Outcome.next (when_met (by simp [held]) _)
  · refine runs_guarded (c := .busCollapse mv) rfl (by simp [low, on, failing]) ?_
    obtain ⟨held, -, mem, time, domains⟩ := powerOff_blank 2 0 false s
    exact ⟨held, mem, time, domains⟩
  · refine congrArg Host.Outcome.next (when_met ?_ _)
    rcases dead with held | ⟨on, failing, dumped, none⟩
    · simp [held, h12, h5, good]
    · simp [on, failing, dumped, none, h12, h5, good]
  · have run : exec (.devReset req v b) s = .next (withWriteOut { boot := b } req Reg.SYS.DEV_RESET v (devResetEffect req v b) s) := rfl
    rw [run, withWriteOut_pass may, devResetEffect_allowed (s := busOk 0#32 s) hv allowed key safe]
  · have run : exec (.resetN ns b) s = execResetN ns b s := rfl
    rw [run, execResetN, when_met (by simp [on]; omega), if_pos long]
    rfl
  · have run : exec (.resetN ns b) s = execResetN ns b s := rfl
    rw [run, execResetN, when_met (by simp [on, long]), if_neg (Nat.not_le.2 short)]
    rfl
  · have run : exec (.uartContainer bytes) s = execUartContainer bytes s := rfl
    rw [run, execUartContainer, when_met (by simp [on, rec])]
    dsimp only
    rw [if_neg refused]
  · have run : exec (.uartContainer bytes) s = execUartContainer bytes s := rfl
    rw [run, execUartContainer, when_met (by simp [on, rec])]
    dsimp only
    rw [if_pos good]
  · refine runs_guardedWrite (c := .softReset req p v) rfl hv may ?_
    exact softResetEffect_begun (s := busOk 0#32 s) hv idle other
  · have run : exec (.softReset req Page.SAFE v) s =
        .next (s.when (bit v 1) (withWrite req (Reg.CTRL Page.SAFE) v (softResetEffect Page.SAFE v))) := rfl
    rw [run, when_met hv, withWrite_pass may, softResetEffect_safe (s := busOk 0#32 s) hv idle rfl]
    rfl
  · refine runs_guarded (c := .softResetDone p) rfl busy ?_
    dsimp only
    rw [if_neg (fun h => other h.1), if_neg other]
    exact ⟨setReg_same .., sameRegs_setReg (sameRegs_refl _ s) _ _ (beq_self_eq_true _)⟩
  · have run : exec (.softResetDone Page.CACHE) s = execSoftResetDone Page.CACHE s := rfl
    rw [run, execSoftResetDone, when_met busy]
    dsimp only
    rw [if_pos rfl]
    by_cases none : (cacheReset s).cache.lines = []
    · rw [if_neg (fun h => h.2 none), if_pos none]
    · rw [if_pos ⟨rfl, none⟩, if_neg none]
  · have run : exec (.microcodeFault e a x) s = execMicrocodeFault e a x s := rfl
    rw [run, execMicrocodeFault, when_met up, found]
  · have run : exec (.microcodeFault e a x) s = execMicrocodeFault e a x s := rfl
    rw [run, execMicrocodeFault, when_met up, none]
  · exact congrArg Host.Outcome.next (when_met (by simp [up, free]) _)

end Sys2Proof.Machine
end

section
set_option Elab.async false
/-! The microcode store (O29). -/

namespace Sys2Proof.Machine

/-- A map filled key by key. -/
theorem get_foldl_set {α : Type} [DecidableEq α] (d f : Nat → α) (l : List Nat) (m : SMap α) (k : Nat) :
    SMap.get d (l.foldl (fun m n => SMap.set d m n (f n)) m) k = if k ∈ l then f k else SMap.get d m k := by
  induction l generalizing m with
  | nil => simp
  | cons n l ih =>
    rw [List.foldl_cons, ih, SMap.get_set]
    by_cases same : k = n
    · subst same; simp
    · simp [same]

/-- A restored copy holds the words and the match registers of its kind's patch (R255). -/
theorem restoreCopy_copy (c : Nat) (s : State) :
    (∀ n, n < 512 → SMap.get (fun _ => 0#128) (microCopy (restoreCopy c s) c).1 n =
        SMap.get (fun _ => 0#128) s.ucode.words (512 * engineKind c + n))
      ∧ ∀ n, n < 16 → SMap.get (fun _ => 0#32) (microCopy (restoreCopy c s) c).2 n =
        SMap.get (fun _ => 0#32) s.ucode.matchRegs (16 * engineKind c + n) := by
  have copy : microCopy (restoreCopy c s) c =
      ((List.range 512).foldl (fun m n => SMap.set (fun _ => 0#128) m n
          (SMap.get (fun _ => 0#128) s.ucode.words (512 * engineKind c + n))) [],
        (List.range 16).foldl (fun m n => SMap.set (fun _ => 0#32) m n
          (SMap.get (fun _ => 0#32) s.ucode.matchRegs (16 * engineKind c + n))) []) := by
    simp only [microCopy, restoreCopy, setMicro, SMap.get_set, if_true]
  rw [copy]
  constructor
  · intro n hn
    rw [get_foldl_set _ fun n => SMap.get (fun _ => 0#128) s.ucode.words (512 * engineKind c + n), if_pos (List.mem_range.2 hn)]
  · intro n hn
    rw [get_foldl_set _ fun n => SMap.get (fun _ => 0#32) s.ucode.matchRegs (16 * engineKind c + n), if_pos (List.mem_range.2 hn)]

/-- A restored copy changes neither the patches nor who is still to be restored, nor a register. -/
theorem restoreCopy_kept (c : Nat) (s : State) :
    (restoreCopy c s).ucode.done = s.ucode.done ∧ (restoreCopy c s).ucode.matchRegs = s.ucode.matchRegs
      ∧ (restoreCopy c s).ucode.restoring = s.ucode.restoring ∧ (restoreCopy c s).regs = s.regs := ⟨rfl, rfl, rfl, rfl⟩

/-- The copies of a kind, restored one after the other. -/
theorem restoreCopies_kept (l : List Nat) (s : State) :
    let t := l.foldl (fun t c => restoreCopy c t) s
    t.ucode.done = s.ucode.done ∧ t.ucode.matchRegs = s.ucode.matchRegs ∧ t.regs = s.regs := by
  refine List.foldlRecOn (motive := fun t : State => t.ucode.done = s.ucode.done ∧ t.ucode.matchRegs = s.ucode.matchRegs ∧ t.regs = s.regs)
    l _ ⟨rfl, rfl, rfl⟩ fun t h c _ => ?_
  obtain ⟨done, matches_, regs⟩ := h
  obtain ⟨done', matches', -, regs'⟩ := restoreCopy_kept c t
  exact ⟨done'.trans done, matches'.trans matches_, regs'.trans regs⟩

/-- The state that COMMIT has written, before its event. -/
def committed (s : State) : State :=
  (modUcode (fun u => { u with done := u.done ++ [ucKind s] })
    (((List.range 0x35).filter fun c => decide (0x10 ≤ c) && engineKind c == ucKind s).foldl (fun t c => restoreCopy c t) s)).setBit
      Reg.UCODE.UC_STATE (ucKind s) true

theorem commitEffect_open {s : State} (fresh : ucCommitted s (ucKind s) = false) :
    commitEffect s = raise Page.UCODE 0 0 (ucKind s) {} (committed s) := if_neg (not_of fresh)

theorem committed_done (s : State) : ucCommitted (committed s) (ucKind s) = true ∧ ∀ k, ucPatched (committed s) k = ucPatched s k := by
  obtain ⟨done, matches_, -⟩ := restoreCopies_kept ((List.range 0x35).filter fun c => decide (0x10 ≤ c) && engineKind c == ucKind s) s
  constructor
  · simp [ucCommitted, committed, modUcode]
  · intro k
    have kept : (committed s).ucode.matchRegs = s.ucode.matchRegs := matches_
    simp only [ucPatched, kept]

theorem sameRegs_committed (s : State) : SameRegs (fun k => k == Reg.UCODE.UC_STATE || k == Reg.EV_PEND Page.UCODE) s (committed s) := by
  obtain ⟨-, -, regs⟩ := restoreCopies_kept ((List.range 0x35).filter fun c => decide (0x10 ≤ c) && engineKind c == ucKind s) s
  exact sameRegs_setBit (sameRegs_of_regs (sameRegs_refl _ s) regs) _ _ _ (by simp)

/-- Settles O29. -/
theorem microcodeStore : Obligations.MicrocodeStore := by
  refine ⟨fun s req v may fresh => ?_, fun s req v may hv fresh => ?_, fun s c p waits ends => ?_, fun s c waits => ?_⟩
  · refine runs_write (c := .ucodeWordWrite req v) rfl may ?_
    have stores : ¬ ucCommitted (busOk 0#32 s) (ucKind (busOk 0#32 s)) = true := not_of fresh
    dsimp only
    rw [if_neg stores]
    exact ⟨(SMap.get_set ..).trans (if_pos rfl), (SMap.get_set ..).trans (if_pos rfl)⟩
  · refine runs_guardedWrite (c := .ucodeCommit req v) rfl hv may ?_
    have kind : ucKind s < 8 := fld_lt _ 2 0
    obtain ⟨done, patched⟩ := committed_done (busOk 0#32 s)
    have state : (committed (busOk 0#32 s)).bit Reg.UCODE.UC_STATE (ucKind s) = true := 
      bit_of_setBit _ _ _ _ (show ucKind s < 32 by omega)
    rw [commitEffect_open (s := busOk 0#32 s) fresh]
    have ucode : (raise Page.UCODE 0 0 (ucKind (busOk 0#32 s)) {} (committed (busOk 0#32 s))).ucode = (committed (busOk 0#32 s)).ucode := by
      simp
    refine ⟨?_, ?_, fun k => ?_, sameRegs_raise (sameRegs_committed (busOk 0#32 s)) _ _ _ _ _ (by simp)⟩
    · exact (congrArg (bit · (ucKind s)) (raise_reg _ (by decide))).trans state
    · unfold ucCommitted at done ⊢; rw [ucode]; exact done
    · refine Eq.trans ?_ (patched k)
      unfold ucPatched; rw [ucode]
  · have restored (t : State) (hu : t.ucode.restoring = s.ucode.restoring.filter (· ≠ c)) : t.ucode.restoring.contains c = false := by
      rw [hu]; simp
    refine runs_guarded (c := .ucodeRestoreDone c p) rfl waits ?_
    obtain ⟨words, matches_⟩ := restoreCopy_copy c
      ((modUcode (fun u => { u with restoring := u.restoring.filter (· ≠ c) }) s).count Reg.UCODE.RESTORE_COUNT 1)
    have counted : (restoreCopy c ((modUcode (fun u => { u with restoring := u.restoring.filter (· ≠ c) }) s).count
        Reg.UCODE.RESTORE_COUNT 1)).reg Reg.UCODE.RESTORE_COUNT =
        word (satAdd 0xFFFFFFFF (s.reg Reg.UCODE.RESTORE_COUNT).toNat 1) := setReg_same ..
    cases p with
    | good => exact ⟨restored _ rfl, counted, words, matches_⟩
    | transient =>
      dsimp only
      refine ⟨restored _ (by simp [transient]; rfl), (raise_reg _ (by decide)).trans counted, ?_, ?_⟩
      · intro n hn
        refine Eq.trans ?_ (words n hn)
        simp [transient, microCopy]
      · intro n hn
        refine Eq.trans ?_ (matches_ n hn)
        simp [transient, microCopy]
    | lasting => exact absurd rfl ends
  · exact congrArg Host.Outcome.next (when_met waits _)

end Sys2Proof.Machine
end

section
set_option Elab.async false
/-! The commands of the hardware queues (O30). -/

namespace Sys2Proof.Machine

/-! ### A whole packet at a write port (R94, R95) -/

section
variable (q : QueueId) (port : Nat) (ws : List Word) (marked late : Bool) (s : State)

/-- The item that a packet becomes. -/
def packetItem (dup : Bool) : QItem := ⟨ws, pktPrio ws, s.time, port, marked, late, dup⟩

theorem qPut_items (dup : Bool) :
    (hq (qPut q port ws marked late dup s) q).items = (hq s q).items ++ [packetItem port ws marked late s dup] := by
  rw [qPut, (State.mark_stays ..).hq_eq (by decide), hq_modHq]
  rfl

/-- A packet that the queue admits: a buffer transaction is checked first. -/
theorem qAdmit_items (good : ∀ e, q = .xact e → xactCode e.val ws s = none) :
    (hq (qAdmit q port ws marked late s) q).items = (hq s q).items ++ [packetItem port ws marked late s false] := by
  cases q with
  | xact e =>
    simp only [qAdmit, good e rfl]
    rw [(xactTakeCredit_stays ..).hq_eq (by decide), qPut_items]
  | _ => exact qPut_items ..

theorem qPort_setPort (y : QPort) : qPort (setPort q port y s) q port = y := by
  rw [qPort, setPort, hq_modHq]
  exact (SMap.get_set ..).trans (if_pos rfl)

theorem setPort_items (y : QPort) : (hq (setPort q port y s) q).items = (hq s q).items := by rw [setPort, hq_modHq]

variable {q port ws s} (empty : (qPort s q port).words = []) (room : (qPort s q port).full = false) (whole : ws.length = pktLen ws)
include empty room whole

/-- The words of an empty port are a whole packet. -/
theorem portWrite_whole : portWrite q port ws s = portPush q port ws (qPort s q port).marked (qPort s q port).late s := by
  have some_ : ws.isEmpty = false := by
    cases ws with
    | nil => simp [pktLen] at whole
    | cons => rfl
  unfold portWrite
  simp [empty, room, whole, some_]

theorem pushWords_taken (taken : pushStatus s q = .taken) (good : ∀ e, q = .xact e → xactCode e.val ws s = none) :
    (hq (pushWords q port ws s) q).items = (hq s q).items ++ [packetItem port ws (qPort s q port).marked (qPort s q port).late s false] := by
  have admitted := qAdmit_items q port ws (qPort s q port).marked (qPort s q port).late (setPort q port QPort.empty s) good
  rw [setPort_items] at admitted
  unfold pushWords
  simp only [portWrite_whole empty room whole, portPush, taken]
  split
  · rw [(firmwarePushed_stays _).hq_eq (by decide), hq_modHq]
    exact admitted
  · rw [hq_modHq]
    exact admitted

/-- A full queue, or one that resets, leaves the packet in its port. -/
theorem pushWords_kept (kept : pushStatus s q = .full ∨ pushStatus s q = .busy) : pushWords q port ws s =
    setPort q port ⟨ws, true, (qPort s q port).marked, (qPort s q port).late⟩ s := by
  unfold pushWords
  rcases kept with h | h <;> simp [portWrite_whole empty room whole, portPush, h, setPort_items]

theorem pushWords_fault (fault : pushStatus s q = .fault) :
    pushWords q port ws s = endItem q port ws (setPort q port QPort.empty s) := by
  unfold pushWords
  simp only [portWrite_whole empty room whole, portPush, fault, room, empty]
  rfl

end

/-! ### Flushes (R97 to R99) -/

/-- What a flush that takes effect leaves in the queue. -/
def flushLeft (q : QueueId) (s : State) : HwQueue :=
  { hq s q with flush := none, items := (hq s q).items.filter (fun it => !it.marked), flushDone := qPorts q
                ports := (hq s q).ports.filter (fun e => !(e.2.marked && e.2.full)) }

/-- The counts of a flush: what it discards, and how much of that was a partial at the flush point. -/
def flushCounts (q : QueueId) (s : State) : Word :=
  word (((hq s q).items.filter (·.marked)).length + ((hq s q).ports.filter fun e => e.2.marked && e.2.full).length
    + min 15 (((hq s q).items.filter (·.marked)).filter (·.late)).length * 65536)

/-- The queue and its registers after a flush took effect, before the operations of what it discards end. -/
def flushBegun (q : QueueId) (s : State) : State := ((setHq q (flushLeft q s) s).setBit (qReg q 0x0C) 0 false).setReg (qReg q 0x10) (flushCounts q s)

theorem exec_flushTakesEffect {q : QueueId} {s : State} {ports : List Nat} (alive : queueAlive s q = true)
    (flush : (hq s q).flush = some ports) (whole : ((hq s q).ports.any fun e => e.2.marked && portPartial e.2) = false) :
    exec (.flushTakesEffect q) s = .next (portsRetry q (qNowEmpty q (qEvent q + 1)
      (raise (qPage q) (qEvent q) 0 (qInstance q)
        ⟨flushCounts q s, loWord (ports.foldl (fun m c => m ||| 2 ^ c) 0), hiWord (ports.foldl (fun m c => m ||| 2 ^ c) 0)⟩
        (flushedOar q (((hq s q).ports.filter fun e => e.2.marked && e.2.full).foldl (fun t e => endItem q e.1 e.2.words t)
          (((hq s q).items.filter (·.marked)).foldl (fun t it => endDropped q it (qDropItem q it t)) (flushBegun q s))))))) := by
  have run : exec (.flushTakesEffect q) s = execFlushTakesEffect q s := rfl
  rw [run]
  unfold execFlushTakesEffect
  simp only [flush, alive, whole]
  rfl

/-- Ports that hold no whole packet push none again. -/
theorem portsRetry_idle {q : QueueId} {s : State} (none : ∀ e ∈ (hq s q).ports, e.2.full = false) (again : (hq s q).again = []) :
    portsRetry q s = s ∨ portsRetry q s = modHq q (fun x => { x with again := [] }) s := by
  have empty (c : Nat) : (qPort s q c).full = false := by
    unfold qPort
    generalize (hq s q).ports = ps at none
    induction ps with
    | nil => rfl
    | cons e ps ih =>
      obtain ⟨first, rest⟩ := List.forall_mem_cons.1 none
      rw [SMap.get]
      split
      · exact first
      · exact ih rest
  have retried : ((hq s q).ports.map Prod.fst).foldl (fun t c => portRetry q c t) s = s :=
    List.foldlRecOn (motive := (· = s)) _ _ rfl fun t e c _ => by subst e; simp [portRetry, empty]
  unfold portsRetry
  simp only [retried, again, List.foldl_nil]
  split
  · exact .inl rfl
  · exact .inr rfl

/-- The end of a mismatch's reset changes no more of the queue than that mark, and only the pending events of the registers. -/
theorem qNowEmpty_kept (q : QueueId) (ev : Nat) (s : State) :
    (hq (qNowEmpty q ev s) q).ports = (hq s q).ports ∧ (hq (qNowEmpty q ev s) q).flush = (hq s q).flush
      ∧ (hq (qNowEmpty q ev s) q).again = (hq s q).again ∧ (qNowEmpty q ev s).ended = s.ended := by
  unfold qNowEmpty
  dsimp only
  split
  · rw [(transient_stays ..).hq_eq (by decide), hq_setHq]
    exact ⟨rfl, rfl, rfl, by simp [transient, setHq]⟩
  · exact ⟨rfl, rfl, rfl, rfl⟩

theorem qNowEmpty_reg (q : QueueId) (ev : Nat) (s : State) {k : Nat} (h : k ≠ Reg.EV_PEND (qPage q)) :
    (qNowEmpty q ev s).reg k = s.reg k := by
  unfold qNowEmpty
  dsimp only
  split
  · exact raise_reg _ h
  · rfl

/-- The registers of a queue stand above the header of its page (R91). -/
theorem qReg_ne {q : QueueId} {off : Nat} (header : Nat) (h : header < 0x40) : qReg q off ≠ qPage q * 0x1000 + header := by
  have place : 0x100 ≤ (qPlace q).2.1 := by cases q <;> simp only [qPlace] <;> omega
  unfold qReg regKey
  omega

/-- A flush that finds nothing to discard. -/
theorem flushTakesEffect_none {q : QueueId} {s : State} {ports : List Nat} (alive : queueAlive s q = true)
    (flush : (hq s q).flush = some ports) (again : (hq s q).again = []) (notJob : ∀ o, q ≠ .oarJob o)
    (items : ∀ it ∈ (hq s q).items, it.marked = false) (open_ : ∀ e ∈ (hq s q).ports, e.2.marked = false ∧ e.2.full = false) :
    Runs (.flushTakesEffect q) s fun t =>
      (hq t q).flush = none ∧ (hq t q).items = (hq s q).items ∧ t.ended = s.ended ∧ t.reg (qReg q 0x10) = 0#32 := by
  have gone : (hq s q).items.filter (·.marked) = [] := List.filter_eq_nil_iff.2 fun it hit => not_of (items it hit)
  have stay : (hq s q).items.filter (fun it => !it.marked) = (hq s q).items :=
    List.filter_eq_self.2 fun it hit => by rw [items it hit]; rfl
  have kept : ((hq s q).ports.filter fun e => e.2.marked && e.2.full) = [] :=
    List.filter_eq_nil_iff.2 fun e he => by simp [(open_ e he).1]
  have whole : ((hq s q).ports.any fun e => e.2.marked && portPartial e.2) = false :=
    List.any_eq_false.2 fun e he => by simp [(open_ e he).1]
  have other (u : State) : flushedOar q u = u := by
    cases q with
    | oarJob o => exact absurd rfl (notJob o)
    | _ => rfl
  have zero : flushCounts q s = 0#32 := by rw [flushCounts, gone, kept]; rfl
  have run := exec_flushTakesEffect alive flush whole
  simp only [gone, kept, List.foldl_nil, other] at run
  generalize hu : raise (qPage q) (qEvent q) 0 (qInstance q) _ (flushBegun q s) = u at run
  have left : hq u q = flushLeft q s := by
    rw [← hu, (raise_stays ..).hq_eq (by decide), flushBegun, (State.setReg_stays ..).hq_eq (by decide),
      (State.setBit_stays ..).hq_eq (by decide), hq_setHq]
  have counts : u.reg (qReg q 0x10) = 0#32 := by
    rw [← hu, raise_reg _ (qReg_ne 0x18 (by decide)), flushBegun, setReg_same, zero]
  have ended : u.ended = s.ended := by rw [← hu]; simp [flushBegun, setHq]
  obtain ⟨ports', flush', again', ended'⟩ := qNowEmpty_kept q (qEvent q + 1) u
  have items' := qNowEmpty_items q (qEvent q + 1) u
  have counts' := (qNowEmpty_reg q (qEvent q + 1) u (qReg_ne 0x18 (by decide))).trans counts
  rw [left] at ports' flush' again' items'
  have idle := portsRetry_idle (q := q) (s := qNowEmpty q (qEvent q + 1) u)
    (fun e he => (open_ e (List.mem_filter.1 (ports' ▸ he)).1).2) (again'.trans again)
  refine ⟨_, run, ?_⟩
  rcases idle with e | e
  · rw [e]
    exact ⟨flush', items'.trans stay, ended'.trans ended, counts'⟩
  · rw [e, hq_modHq]
    exact ⟨flush', items'.trans stay, ended'.trans ended, counts'⟩

/-- A write that marks the flush point (R97, R98). -/
theorem flushEffect_marks {q : QueueId} {v : Word} {s : State} (hv : bit v 0 = true) (none : (hq s q).flush = none) :
    flushEffect q v s = (setHq q { hq s q with
      flush := some (qPartials (hq s q)), items := (hq s q).items.map (fun it => { it with marked := true })
      ports := (hq s q).ports.map (fun e => (e.1, { e.2 with marked := true, late := portPartial e.2 })) } s).setBit (qReg q 0x0C) 0 true := by
  unfold flushEffect
  simp only [hv, none]
  rfl

/-! ### The firmware's window (R104) -/

theorem fwPop_none {q : QueueId} {c : Nat} {bad : Bool} {s : State} (none : qTake q s = none) : fwPop q c bad s = setWin q c [0#32] s := by
  unfold fwPop
  cases bad <;> simp [none]

/-- A pointer mismatch whose outcome is open empties the queue and begins its reset (R100). -/
theorem pointerMismatch_first {q : QueueId} {s : State} (alive : queueAlive s q = true) (settled : (hq s q).resetting = none)
    (sound : (hq s q).fault = false) (first : (hq s q).mismatchOpen = false) :
    Runs (.pointerMismatch q) s fun t =>
      (hq t q).items = [] ∧ (hq t q).ports = [] ∧ (hq t q).flush = none ∧ (hq t q).resetting = some s.time
        ∧ (hq t q).mismatchOpen = true ∧ (hq t q).fault = false ∧ (hq t q).reissue = qPorts q := by
  refine runs_guarded (c := .pointerMismatch q) rfl (by simp [alive, settled, sound]) ?_
  simp only [first, Bool.false_eq_true, if_false, (State.setBit_stays ..).hq_eq (q := q) (free := by decide),
    (State.count_stays ..).hq_eq (q := q) (free := by decide), hq_setHq, sound, and_self]

/-- Settles O30. -/
theorem queueCommands : Obligations.QueueCommands := by
  refine ⟨fun s q port ws alive empty room whole => ⟨fun taken good => ?_, fun kept => ?_, fun fault => ?_⟩,
    fun s q it alive free head => ?_, fun s q it u alive free take => ?_, fun s q alive => ?_, fun s req q v may hv none => ?_,
    fun s q ports alive flush again notJob items open_ => flushTakesEffect_none alive flush again notJob items open_,
    fun s q ports alive flush whole => exec_flushTakesEffect alive flush whole,
    fun s q alive settled sound first => pointerMismatch_first alive settled sound first, fun s q resets sound => ?_,
    fun s req q v may push pop taken => ?_, fun s req q v it u may push pop take => ⟨?_, ?_⟩,
    fun s req q v b may push pop none => ?_⟩
  · exact runs_guarded (c := .queuePush q port ws) rfl alive (pushWords_taken empty room whole taken good)
  · refine runs_guarded (c := .queuePush q port ws) rfl alive ?_
    rw [pushWords_kept empty room whole kept, qPort_setPort]
    exact ⟨setPort_items .., rfl, rfl, rfl⟩
  · have run : exec (.queuePush q port ws) s = .next (s.when (queueAlive s q) (pushWords q port ws)) := rfl
    rw [run, when_met alive, pushWords_fault empty room whole fault]
  · obtain ⟨u, take, left⟩ := qTake_of_qHead head
    exact ⟨_, exec_queuePop_good alive free take, poppedGood_taken .., (poppedGood_items ..).trans left⟩
  · have run : exec (.queuePop q true) s = execQueuePop q true s := rfl
    simp [run, execQueuePop, State.when, alive, free, take]
  · refine runs_guarded (c := .queueAgePromote q) rfl alive ⟨?_, ?_, ?_⟩
    · rw [(State.count_stays ..).hq_eq (by decide), hq_modHq]
    · exact setReg_same ..
    · exact sameRegs_count (sameRegs_of_regs (sameRegs_refl _ s) rfl) _ _ (beq_self_eq_true _)
  · refine runs_write (c := .flush req q v) rfl may ?_
    rw [flushEffect_marks (s := busOk 0#32 s) hv none]
    rw [(State.setBit_stays ..).hq_eq (by decide), hq_setHq]
    refine ⟨rfl, ?_, ?_, bit_of_setBit _ _ _ _ (by decide), ?_⟩
    · exact fun it hit => by obtain ⟨y, -, rfl⟩ := List.mem_map.1 hit; rfl
    · simp only [List.map_map]; rfl
    · exact sameRegs_setBit (sameRegs_of_regs (sameRegs_refl _ s) rfl) _ _ _ (beq_self_eq_true _)
  · exact congrArg Host.Outcome.next (when_met (by simp [resets, sound]) _)
  · intro ws good
    refine runs_guardedWrite (c := .fwQueuePush req q v) rfl push may ?_
    have pushed : qPortEffect req q v false (busOk 0#32 s) =
        modHq q (fun x => { x with reissue := x.reissue.erase (Requester.code req), flushDone := x.flushDone.erase (Requester.code req) })
          (qAdmit q (Requester.code req) ws false false (busOk 0#32 s)) := by
      have taken : pushStatus (busOk 0#32 s) q = .taken := taken
      simp only [qPortEffect, push, pop, fwPush, taken, if_true, Bool.false_eq_true, if_false]
      rfl
    rw [pushed, hq_modHq]
    exact qAdmit_items q (Requester.code req) ws false false (busOk 0#32 s) good
  · have run : exec (.fwQueuePop req q ⟨v, false⟩) s = .next (s.when (bit v 1 && !bit v 0)
      (withWriteOut { parityBad := false } req (qReg q 0x24) v (qPortEffect req q v false))) := rfl
    rw [run, when_met (by simp [push, pop]), withWriteOut_pass may]
    simp [qPortEffect, push, pop, fwPop, take]
  · have run : exec (.fwQueuePop req q ⟨v, true⟩) s = .next (s.when (bit v 1 && !bit v 0)
      (withWriteOut { parityBad := true } req (qReg q 0x24) v (qPortEffect req q v true))) := rfl
    rw [run, when_met (by simp [push, pop]), withWriteOut_pass may]
    simp [qPortEffect, push, pop, fwPop, take]
  · have run : exec (.fwQueuePop req q ⟨v, b⟩) s = .next (s.when (bit v 1 && !bit v 0)
      (withWriteOut { parityBad := b } req (qReg q 0x24) v (qPortEffect req q v b))) := rfl
    refine ⟨_, run, ?_⟩
    have popped : qPortEffect req q v b (busOk 0#32 s) = setWin q (Requester.code req) [0#32] (busOk 0#32 s) := by
      simp only [qPortEffect, push, pop, if_true, Bool.false_eq_true, if_false]
      exact fwPop_none none
    rw [when_met (by simp [push, pop]), withWriteOut_pass may, popped]
    constructor
    · simp [winWord, setWin, SMap.get_set]
    · simp [setWin]; rfl

end Sys2Proof.Machine
end

section
set_option Elab.async false
/-! The tuning blocks (O31). -/

namespace Sys2Proof.Machine

/-! ### Registers of a block, by field -/

theorem Stays.reg_eq {ps : List Piece} {s t : State} (h : Stays ps s t) (free : Piece.regs ∉ ps) (k : Nat) : t.reg k = s.reg k := by
  obtain ⟨⟨-, -, same⟩, -⟩ := h
  exact reg_of_regs (same .regs free) k

theorem fld_of_setFld_apart (s : State) (k hi lo v : Nat) {hi' lo' : Nat} (h : hi' < lo ∨ hi < lo') :
    (s.setFld k hi lo v).fld k hi' lo' = s.fld k hi' lo' := by
  unfold State.fld
  rw [reg_setFld, if_pos rfl, fld_setFld_apart _ _ _ _ _ _ h]

theorem fld_of_reg {s t : State} {k : Nat} (h : t.reg k = s.reg k) (hi lo : Nat) : t.fld k hi lo = s.fld k hi lo := congrArg (fld · hi lo) h

theorem bit_of_reg {s t : State} {k : Nat} (h : t.reg k = s.reg k) (i : Nat) : t.bit k i = s.bit k i := congrArg (bit · i) h

section
variable (p : Nat) (s : State)

@[simp] theorem tune_modTune (f : Tune → Tune) : tune (modTune p f s) p = f (tune s p) := (SMap.get_set ..).trans (if_pos rfl)

@[simp] theorem modTune_reg (f : Tune → Tune) (k : Nat) : (modTune p f s).reg k = s.reg k := rfl

theorem modTune_regs (f : Tune → Tune) : (modTune p f s).regs = s.regs := rfl

theorem trState_modTune (f : Tune → Tune) : trState (modTune p f s) p = trState s p := rfl

@[simp] theorem trState_setTrState (st code : Nat) : trState (setTrState p st code s) p = st % 8 := by
  rw [trState, setTrState, fld_of_setFld_apart _ _ _ _ _ (.inl (by decide)), fld_of_setFld _ _ _ _ _ (by decide)]
  rfl

theorem trCode_setTrState (st code : Nat) : (setTrState p st code s).fld (Reg.TUNE.TR_STATUS p) 6 4 = code % 8 :=
  fld_of_setFld _ _ _ _ _ (by decide)

theorem setTrState_reg (st code : Nat) {k : Nat} (h : k ≠ Reg.TUNE.TR_STATUS p) : (setTrState p st code s).reg k = s.reg k := by
  rw [setTrState, setFld_other _ _ _ _ _ h, setFld_other _ _ _ _ _ h]

theorem sameRegs_setTrState (st code : Nat) : SameRegs (fun k => k == Reg.TUNE.TR_STATUS p) s (setTrState p st code s) := fun _ h =>
  setTrState_reg p s st code (by simpa using h)

theorem setTrState_tunes (st code : Nat) : (setTrState p st code s).tunes = s.tunes := rfl

/-! ### MODE, GO, STOP and FORCE (R209 to R216) -/

variable {p s}

theorem tuneMode_busy (busy : trBusy s p = true) (req : Requester) (m : Nat) : tuneMode req p m s = s := if_pos busy

theorem tuneMode_taken {req : Requester} {m : Nat} (idle : trBusy s p = false) (mode : m = 1 ∨ m = 2)
    (holder : holds req (tuneResource p) m s = true) : tuneMode req p m s = s.setFld (Reg.TUNE.TR_CTRL p) 1 0 m := by
  unfold tuneMode
  dsimp only
  rw [if_neg (not_of idle), if_neg (by omega), if_pos holder]

theorem tuneMode_none {req : Requester} {m : Nat} (idle : trBusy s p = false) (mode : m = 0 ∨ m = 3) :
    tuneMode req p m s = s.setFld (Reg.TUNE.TR_CTRL p) 1 0 0 := by
  unfold tuneMode
  dsimp only
  rw [if_neg (not_of idle), if_pos mode]

theorem trMode_setFld (m : Nat) : trMode (s.setFld (Reg.TUNE.TR_CTRL p) 1 0 m) p = m % 4 := fld_of_setFld _ _ _ _ _ (by decide)

/-- TR_CTRL does not tell whether a run is on. -/
theorem trBusy_setCtrl (m : Nat) : trBusy (s.setFld (Reg.TUNE.TR_CTRL p) 1 0 m) p = trBusy s p := by
  simp only [trBusy, trState, fld_of_reg (setFld_other s (Reg.TUNE.TR_CTRL p) 1 0 m (header_ne (p := p) (i := 0x104) (j := 0x100) (by decide)))]

/-- The block as a run starts it. -/
theorem tuneStart_run (p : Nat) (s : State) : trState (tuneStart p s) p = 1 ∧ trMode (tuneStart p s) p = trMode s p
    ∧ (tune (tuneStart p s) p).records = 0 ∧ (tune (tuneStart p s) p).start = s.time ∧ (tune (tuneStart p s) p).buf = (tune s p).buf
    ∧ ∀ k, k ≠ Reg.TUNE.TR_STATUS p → k ≠ Reg.TUNE.INJ_PROGRESS p → (tuneStart p s).reg k = s.reg k := by
  have other (k : Nat) (h1 : k ≠ Reg.TUNE.TR_STATUS p) (h2 : k ≠ Reg.TUNE.INJ_PROGRESS p) : (tuneStart p s).reg k = s.reg k := by
    rw [tuneStart, modTune_reg, setReg_other _ _ _ h2, setFld_other _ _ _ _ _ h1, setTrState_reg _ _ _ _ h1]
  have begun : tune (tuneStart p s) p = { Tune.reset with buf := (tune s p).buf, start := s.time } := by
    unfold tuneStart
    rw [tune_modTune]
    rfl
  rw [begun]
  refine ⟨?_, fld_of_reg (other (Reg.TUNE.TR_CTRL p) (header_ne (by decide)) (header_ne (by decide))) 1 0, rfl, rfl, rfl, other⟩
  have status : (tuneStart p s).reg (Reg.TUNE.TR_STATUS p) =
      ((setTrState p 1 0 s).setFld (Reg.TUNE.TR_STATUS p) 16 8 0).reg (Reg.TUNE.TR_STATUS p) := by
    rw [tuneStart, modTune_reg, setReg_other _ _ _ (header_ne (by decide))]
  refine (fld_of_reg status 2 0).trans ((fld_of_setFld_apart _ _ _ _ _ (.inl (by decide))).trans ?_)
  exact trState_setTrState p s 1 0

end

theorem injRefusal_le (s : State) (p : Nat) : injRefusal s p ≤ 6 := by
  unfold injRefusal
  dsimp only
  split_ifs <;> omega

theorem tuneGo_trace {p : Nat} {s : State} (idle : trBusy s p = false) (mode : trMode s p = 1) : tuneGo p s = tuneStart p s := by
  unfold tuneGo
  rw [if_neg (by simp [idle, mode]), if_pos mode]

theorem tuneGo_inject {p : Nat} {s : State} (idle : trBusy s p = false) (mode : trMode s p = 2) :
    (injRefusal s p = 0 → tuneGo p s = tuneStart p (s.setReg (Reg.TUNE.TRIP_INFO p) 0#32))
      ∧ (injRefusal s p ≠ 0 → tuneGo p s = setTrState p 5 (injRefusal s p) s) := by
  unfold tuneGo
  rw [if_neg (by simp [idle, mode]), if_neg (by omega)]
  constructor
  · intro none
    simp only [none]
  · intro some_
    split
    · contradiction
    · rfl

theorem trTrigger_forced {p : Nat} {s : State} (mode : trMode s p = 1) (state : trState s p = 1) (pre : trPre s p ≤ (tune s p).records)
    (none : (tune s p).trigger = none) : trTrigger p 0 true s = modTune p (fun t => { t with trigger := some s.time }) s :=
  if_pos ⟨mode, state, .inl rfl, pre, none⟩

/-- What a write of TR_CTRL does, for each of GO, STOP and FORCE alone. -/
theorem trCtrlEffect_mode {req : Requester} {p : Nat} {v : Word} {s : State} (go : bit v 8 = false) (stop : bit v 9 = false)
    (force : bit v 10 = false) : trCtrlEffect req p v s = tuneMode req p (fld v 1 0) s := by simp [trCtrlEffect, go, stop, force]

theorem trCtrlEffect_go {req : Requester} {p : Nat} {v : Word} {s : State} (go : bit v 8 = true) (stop : bit v 9 = false)
    (force : bit v 10 = false) : trCtrlEffect req p v s = tuneGo p (tuneMode req p (fld v 1 0) s) := by
  simp [trCtrlEffect, go, stop, force]

theorem trCtrlEffect_stop {req : Requester} {p : Nat} {v : Word} {s : State} (go : bit v 8 = false) (stop : bit v 9 = true)
    (force : bit v 10 = false) : trCtrlEffect req p v s = tuneStop p (tuneMode req p (fld v 1 0) s) := by
  simp [trCtrlEffect, go, stop, force]

theorem trCtrlEffect_force {req : Requester} {p : Nat} {v : Word} {s : State} (go : bit v 8 = false) (stop : bit v 9 = false)
    (force : bit v 10 = true) : trCtrlEffect req p v s = trTrigger p 0 true (tuneMode req p (fld v 1 0) s) := by
  simp [trCtrlEffect, go, stop, force]

/-- A write of TR_CTRL of a tuning block. -/
theorem runs_trCtrl {c : Instr} {g : Bool} {req : Requester} {p : Nat} {v : Word} {s : State} {P : State → Prop}
    (run : exec c s = .next (trCtrlWrite g req p v s)) (met : g = true) (page : isTunePage p = true) (may : Writes req (Reg.TUNE.TR_CTRL p) s)
    (h : P (trCtrlEffect req p v (busOk 0#32 s))) : Runs c s P :=
  runs_guardedWrite run (by simp [page, met]) may h

/-! ### The end of a point (R219, R221) -/

theorem storePoint_reg (p : Nat) (s : State) (k : Nat) :
    (storePoint p s).reg k = if k = Reg.TUNE.INJ_PROGRESS p then word (sinePoint s p + 1) else s.reg k := by
  unfold storePoint
  rw [(modTune_stays ..).reg_eq (by decide), reg_setReg, (trPut_stays ..).reg_eq (by decide), (putSums_stays ..).reg_eq (by decide)]

/-- Settles O31. -/
theorem tuningCommands : Obligations.TuningCommands := by
  refine ⟨fun s req p v may page go stop force idle mode holder => ?_, fun s req p v may page go stop force idle mode => ?_,
    fun s req p v may page go stop force idle mode holder => ?_, fun s req p v may page go stop force idle mode holder => ?_,
    fun s req p v may page go stop force busy => ?_, fun s req p v may page go stop force mode state pre none => ?_,
    fun s p page alive mode state left => ?_, fun s p n runs past point => ?_, fun s p runs wave past => ?_⟩
  · refine runs_trCtrl (c := .tuneMode req p v) rfl (by simp [go, stop, force]) page may ?_
    rw [trCtrlEffect_mode go stop force, tuneMode_taken (s := busOk 0#32 s) idle mode holder, trMode_setFld]
    exact ⟨Nat.mod_eq_of_lt (by omega), sameRegs_setFld (sameRegs_of_regs (sameRegs_refl _ s) rfl) _ _ _ _ (beq_self_eq_true _)⟩
  · refine runs_trCtrl (c := .tuneMode req p v) rfl (by simp [go, stop, force]) page may ?_
    rw [trCtrlEffect_mode go stop force, tuneMode_none (s := busOk 0#32 s) idle mode, trMode_setFld]
    exact ⟨rfl, sameRegs_setFld (sameRegs_of_regs (sameRegs_refl _ s) rfl) _ _ _ _ (beq_self_eq_true _)⟩
  · refine runs_trCtrl (c := .tuneGo req p v) rfl go page may ?_
    rw [trCtrlEffect_go go stop force, mode, tuneMode_taken (s := busOk 0#32 s) idle (.inl rfl) holder,
      tuneGo_trace (s := (busOk 0#32 s).setFld (Reg.TUNE.TR_CTRL p) 1 0 1) ((trBusy_setCtrl 1).trans idle) (trMode_setFld 1)]
    obtain ⟨state, same, records, start, buf, -⟩ := tuneStart_run p ((busOk 0#32 s).setFld (Reg.TUNE.TR_CTRL p) 1 0 1)
    exact ⟨same.trans (trMode_setFld 1), state, records, start, buf⟩
  · refine runs_trCtrl (c := .tuneGo req p v) rfl go page may ?_
    rw [trCtrlEffect_go go stop force, mode, tuneMode_taken (s := busOk 0#32 s) idle (.inr rfl) holder]
    obtain ⟨started, refused⟩ := tuneGo_inject (p := p) (s := (busOk 0#32 s).setFld (Reg.TUNE.TR_CTRL p) 1 0 2)
      ((trBusy_setCtrl 2).trans idle) (trMode_setFld 2)
    intro c
    by_cases none : c = 0
    · rw [started none]
      obtain ⟨state, same, -, start, -, other⟩ := tuneStart_run p
        (((busOk 0#32 s).setFld (Reg.TUNE.TR_CTRL p) 1 0 2).setReg (Reg.TUNE.TRIP_INFO p) 0#32)
      refine ⟨same.trans ?_, fun _ => ⟨state, start, ?_⟩, fun h => absurd none h⟩
      · exact (fld_of_reg (setReg_other _ _ _ (header_ne (by decide))) _ _).trans (trMode_setFld 2)
      · exact (other _ (header_ne (by decide)) (header_ne (by decide))).trans (setReg_same ..)
    · rw [refused none]
      refine ⟨?_, fun h => absurd h none, fun _ => ⟨trState_setTrState .., ?_, setTrState_tunes ..⟩⟩
      · exact (fld_of_reg (setTrState_reg _ _ _ _ (header_ne (by decide))) _ _).trans (trMode_setFld 2)
      · exact (trCode_setTrState ..).trans (Nat.mod_eq_of_lt (Nat.lt_of_le_of_lt (injRefusal_le ..) (by decide)))
  · refine runs_trCtrl (c := .tuneStop req p v) rfl stop page may ?_
    have stops : tuneStop p (busOk 0#32 s) =
        modTune p (fun t => { t with injected := 0, trigger := none, stopped := trMode (busOk 0#32 s) p == 2 })
          (setTrState p 6 0 (busOk 0#32 s)) := if_pos busy
    rw [trCtrlEffect_stop go stop force, tuneMode_busy (s := busOk 0#32 s) busy, stops]
    rw [trState_modTune, trState_setTrState, tune_modTune]
    exact ⟨rfl, rfl, sameRegs_of_regs (sameRegs_setTrState p (busOk 0#32 s) 6 0) (modTune_regs ..)⟩
  · refine runs_trCtrl (c := .tuneForce req p v) rfl force page may ?_
    have busy : trBusy s p = true := by simp [trBusy, state]
    rw [trCtrlEffect_force go stop force, tuneMode_busy (s := busOk 0#32 s) busy, trTrigger_forced (s := busOk 0#32 s) mode state pre none]
    exact ⟨by rw [tune_modTune]; rfl, modTune_regs ..⟩
  · refine runs_guarded (c := .traceDone p) rfl (by simp [page, alive, mode, state, left]) ?_
    exact ⟨trState_setTrState .., setTrState_tunes .., sameRegs_setTrState p s 3 0⟩
  · subst point
    refine runs_guarded (c := .sinePointEnd p (sinePoint s p)) rfl (by simp [runs, past]) ?_
    have progress : (storePoint p s).reg (Reg.TUNE.INJ_PROGRESS p) = word (sinePoint s p + 1) := (storePoint_reg ..).trans (if_pos rfl)
    have status : (storePoint p s).reg (Reg.TUNE.TR_STATUS p) = s.reg (Reg.TUNE.TR_STATUS p) :=
      (storePoint_reg ..).trans (if_neg (header_ne (by decide)))
    have running : trState s p = 1 := by
      simp only [injecting, Bool.and_eq_true, beq_iff_eq] at runs
      exact runs.2
    have points : injPoints s p < 512 := fld_lt _ 8 0
    dsimp only
    by_cases last : injPoints s p ≤ sinePoint s p + 1
    · rw [if_pos last]
      refine ⟨?_, fun _ => ⟨?_, by rw [tune_modTune]⟩, fun h => ?_⟩
      · rw [modTune_reg, setTrState_reg _ _ _ _ (header_ne (by decide)), progress]
      · rw [trState_modTune, trState_setTrState]
      · omega
    · rw [if_neg last]
      refine ⟨(setFld_other _ _ _ _ _ (header_ne (by decide))).trans progress, fun h => absurd h last, fun more => ⟨?_, ?_⟩⟩
      · exact (fld_of_setFld_apart _ _ _ _ _ (.inl (by decide))).trans ((fld_of_reg status 2 0).trans running)
      · refine (fld_of_setFld _ _ _ _ _ (by decide)).trans (Nat.mod_eq_of_lt ?_)
        show sinePoint s p + 1 < 512
        omega
  · refine runs_guarded (c := .injectionEnd p) rfl ?_ ⟨by rw [trState_modTune, trState_setTrState], by rw [tune_modTune], ?_⟩
    · rcases past with past | past <;> simp [runs, wave, past]
    · exact sameRegs_of_regs (sameRegs_setTrState p s 3 0) (modTune_regs ..)

end Sys2Proof.Machine
end

section
set_option Elab.async false
/-! The DRAM ports and the scrub (O32). -/

namespace Sys2Proof.Machine

/-- A guarded command whose guard is met, with its state named: the goal speaks of `t`, not of an application of `f`. -/
theorem runs_to {c : Instr} {g : Bool} {f : State → State} {s : State} (t : State) {P : State → Prop} (run : exec c s = .next (s.when g f))
    (met : g = true) (becomes : f s = t) (h : P t) : Runs c s P :=
  ⟨t, by rw [run, when_met met, becomes], h⟩

/-! ### The DRAM ports (R314 to R319) -/

section
variable (n : Nat) (s : State)

@[simp] theorem dram_modDram (f : DramPort → DramPort) : dram (modDram n f s) n = f (dram s n) := (SMap.get_set ..).trans (if_pos rfl)

theorem modDram_reg (f : DramPort → DramPort) (k : Nat) : (modDram n f s).reg k = s.reg k := rfl

theorem modDram_regs (f : DramPort → DramPort) : (modDram n f s).regs = s.regs := rfl

theorem dram_raise (p k sev code : Nat) (pl : Payload) : dram (raise p k sev code pl s) n = dram s n := by simp [dram]

theorem dram_lasting (p k code : Nat) (pl : Payload) : dram (lasting p k code pl s) n = dram s n := by simp [dram]

/-- The port's status stands above the header of its page. -/
theorem dramStatus_ne {off : Nat} (h : off ≠ 0x48) : Reg.DRAM.DRAM_STATUS n ≠ Page.DRAM n * 0x1000 + off := header_ne (Ne.symm h)

end

/-- The port as INIT takes its rate (R348). -/
def initRated (n : Nat) (s : State) : State := modDram n (fun d => { d with rate := s.fld (Reg.DRAM.DRAM_CFG n) 1 0 }) s

/-- The port that INIT has trained at once, filling (R316). -/
def initFilling (n : Nat) (r : TrainResult) (s : State) : State :=
  modDram n (fun d => { d with capacity := r.capacity })
    ((((initRated n s).setBit (Reg.DRAM.DRAM_STATUS n) 2 true).setFld (Reg.DRAM.DRAM_STATUS n) 20 16 r.capacity).setFld
      (Reg.DRAM.DRAM_STATUS n) 31 24 (min 255 r.trainMs))

section
variable {n : Nat} {r : TrainResult} {s : State} (untrained : dramTrained s n = false)
  (idle : s.bit (Reg.DRAM.DRAM_STATUS n) 2 = false)
include untrained idle

theorem dramInitEffect_first (first : r.first = true) (known : r.capacity ∈ [4, 6, 8, 12, 16]) :
    dramInitEffect n r s = initFilling n r s := by
  unfold dramInitEffect
  rw [if_neg (by simp [untrained, idle])]
  simp only [List.contains_iff_mem.2 known, first, Bool.not_true, Bool.false_and, Bool.false_eq_true, if_false, if_true]
  rfl

theorem dramInitEffect_fails (first : r.first = false) (second : r.second = false) (known : r.capacity ∈ [4, 6, 8, 12, 16]) :
    dramInitEffect n r s = lasting (Page.DRAM n) 1 1 {} ((initRated n s).count (Reg.DRAM.TRAIN_RETRIES n) 1) := by
  unfold dramInitEffect
  rw [if_neg (by simp [untrained, idle])]
  simp only [List.contains_iff_mem.2 known, first, second, Bool.not_true, Bool.not_false, Bool.and_self, Bool.false_eq_true, if_false, if_true]
  rfl

theorem dramInitEffect_unknown (unknown : r.capacity ∉ [4, 6, 8, 12, 16]) :
    dramInitEffect n r s = lasting (Page.DRAM n) 1 2 {} (initRated n s) := by
  have none : [4, 6, 8, 12, 16].contains r.capacity = false := Bool.eq_false_iff.2 fun h => unknown (List.contains_iff_mem.1 h)
  unfold dramInitEffect
  rw [if_neg (by simp [untrained, idle])]
  simp only [none, Bool.not_false, if_true]
  rfl

end

/-- A write of DRAM_CMD with one command. -/
theorem dramCmdEffect_init {n : Nat} {v : Word} {r : TrainResult} {s : State} (init : bit v 0 = true) (enter : bit v 1 = false)
    (leave : bit v 2 = false) : dramCmdEffect n v r s = dramInitEffect n r s := by simp [dramCmdEffect, init, enter, leave]

theorem initFilling_status (n : Nat) (r : TrainResult) (s : State) (known : r.capacity ∈ [4, 6, 8, 12, 16]) :
    (initFilling n r s).bit (Reg.DRAM.DRAM_STATUS n) 2 = true ∧ (initFilling n r s).fld (Reg.DRAM.DRAM_STATUS n) 20 16 = r.capacity := by
  have small : r.capacity < 32 := by
    simp only [List.mem_cons, List.not_mem_nil, or_false] at known
    omega
  unfold initFilling
  constructor
  · rw [State.bit, modDram_reg, reg_setFld, if_pos rfl, bit_setFld_apart _ _ _ _ _ (.inl (by decide)), reg_setFld, if_pos rfl,
      bit_setFld_apart _ _ _ _ _ (.inl (by decide))]
    exact bit_of_setBit _ _ _ _ (by decide)
  · rw [State.fld, modDram_reg, reg_setFld, if_pos rfl, fld_setFld_apart _ _ _ _ _ _ (.inl (by decide))]
    exact (fld_of_setFld _ _ _ _ _ (by decide)).trans (Nat.mod_eq_of_lt small)

theorem sameRegs_initFilling (n : Nat) (r : TrainResult) (s : State) :
    SameRegs (fun k => k == Reg.DRAM.DRAM_STATUS n) s (initFilling n r s) := by
  have own : (Reg.DRAM.DRAM_STATUS n == Reg.DRAM.DRAM_STATUS n) = true := beq_self_eq_true _
  have rated : SameRegs (fun k => k == Reg.DRAM.DRAM_STATUS n) s (initRated n s) := sameRegs_of_regs (sameRegs_refl _ s) (modDram_regs ..)
  exact sameRegs_of_regs (sameRegs_setFld (sameRegs_setFld (sameRegs_setBit rated _ _ _ own) _ _ _ _ own) _ _ _ _ own) (modDram_regs ..)

theorem reg64_of_reg {s t : State} {k : Nat} (lo : t.reg k = s.reg k) (hi : t.reg (k + 4) = s.reg (k + 4)) : t.reg64 k = s.reg64 k := by
  simp only [State.reg64, lo, hi]

/-! ### The end of INIT (R316, R323) -/

/-- The port after its fill, before its event. -/
def initFilled (n : Nat) (s : State) : State :=
  ((zeroFill n s).setBit (Reg.DRAM.DRAM_STATUS n) 2 false).setBit (Reg.DRAM.DRAM_STATUS n) 0 true

/-- The port that says that it is ready. -/
def initReady (n : Nat) (s : State) : State := raise (Page.DRAM n) 0 0 0 {} (initFilled n s)

/-- Both ports ready: the usable size `n`, and the scrub's lap begins. -/
def usableSet (n : Nat) (s : State) : State :=
  { s.setReg64 Reg.BOAT.USABLE_LO n with scrub := { s.scrub with lapStart := s.time } }

/-- Ports of unequal capacity (R315). -/
def capacitiesCompared (c0 c1 : Nat) (s : State) : State :=
  let pl : Payload := ⟨word c0, word c1, 0#32⟩
  if c1 < c0 then lasting (Page.DRAM 0) 2 0 pl s else if c0 < c1 then lasting (Page.DRAM 1) 2 0 pl s else s

/-- The end of INIT. -/
def initEnd (n : Nat) (s : State) : State :=
  if dramTrained (initReady n s) 0 && dramTrained (initReady n s) 1 then
    capacitiesCompared (dram (initReady n s) 0).capacity (dram (initReady n s) 1).capacity (usableSet
      (usableOf (min (dram (initReady n s) 0).capacity (dram (initReady n s) 1).capacity)) (initReady n s))
  else initReady n s

theorem initDone_eq (n : Nat) (s : State) : exec (.initDone n) s =
    .next (s.when (decide (n < 2) && blockAlive s (Page.DRAM n) && s.bit (Reg.DRAM.DRAM_STATUS n) 2) (initEnd n)) := by
  have run : exec (.initDone n) s = execInitDone n s := rfl
  rw [run]
  unfold execInitDone
  congr 1

theorem capacitiesCompared_kept (c0 c1 : Nat) (s : State) : (capacitiesCompared c0 c1 s).mem = s.mem ∧ (capacitiesCompared c0 c1 s).checks = s.checks
    ∧ (capacitiesCompared c0 c1 s).scrub = s.scrub
    ∧ ∀ k, k / 0x1000 ≠ 0x72 ∧ k / 0x1000 ≠ 0x73 ∨ k % 0x1000 = 0x48 → (capacitiesCompared c0 c1 s).reg k = s.reg k := by
  have kept (n : Nat) (pl : Payload) (hn : n < 2) : ∀ k, k / 0x1000 ≠ 0x72 ∧ k / 0x1000 ≠ 0x73 ∨ k % 0x1000 = 0x48 →
      (lasting (Page.DRAM n) 2 0 pl s).reg k = s.reg k := fun k hk => by
    refine lasting_reg s ?_ ?_ ?_ <;>
    · simp only [Reg.EV_PEND, Reg.FAULT_CODE, Reg.STATUS, Page.DRAM]
      omega
  unfold capacitiesCompared
  dsimp only
  split_ifs
  · exact ⟨by simp, by simp, by simp, kept 0 _ (by decide)⟩
  · exact ⟨by simp, by simp, by simp, kept 1 _ (by decide)⟩
  · exact ⟨rfl, rfl, rfl, fun _ _ => rfl⟩

theorem usableSet_regs (n : Nat) (s : State) : (usableSet n s).regs = (s.setReg64 Reg.BOAT.USABLE_LO n).regs := rfl

theorem usableSet_shows (n : Nat) (s : State) : (usableSet n s).mem = s.mem ∧ (usableSet n s).checks = s.checks
    ∧ (usableSet n s).scrub.lapStart = s.time ∧ (usableSet n s).reg64 Reg.BOAT.USABLE_LO = n % 2 ^ 64
    ∧ ∀ k, k ≠ Reg.BOAT.USABLE_LO → k ≠ Reg.BOAT.USABLE_LO + 4 → (usableSet n s).reg k = s.reg k :=
  ⟨rfl, rfl, rfl, (reg64_of_reg (reg_of_regs (usableSet_regs n s) _) (reg_of_regs (usableSet_regs n s) _)).trans (reg64_set ..),
    fun k lo hi => (reg_of_regs (usableSet_regs n s) k).trans (reg64_other _ _ _ _ lo hi)⟩

section
variable (n : Nat) (s : State)

theorem initReady_reg {k : Nat} (h : k ≠ Reg.DRAM.DRAM_STATUS n) (hw : k ≠ Reg.DRAM.WR_BEATS n) (he : k ≠ Reg.EV_PEND (Page.DRAM n)) :
    (initReady n s).reg k = s.reg k := by
  rw [initReady, raise_reg _ he, initFilled, setBit_other _ _ _ _ h, setBit_other _ _ _ _ h, zeroFill, reg_count, if_neg hw]
  rfl

theorem initReady_status : (initReady n s).bit (Reg.DRAM.DRAM_STATUS n) 0 = true ∧ (initReady n s).bit (Reg.DRAM.DRAM_STATUS n) 2 = false := by
  have same : (initReady n s).reg (Reg.DRAM.DRAM_STATUS n) = (initFilled n s).reg (Reg.DRAM.DRAM_STATUS n) :=
    raise_reg _ (dramStatus_ne n (by decide))
  constructor
  · exact (bit_of_reg same 0).trans (bit_of_setBit _ _ _ _ (by decide))
  · refine (bit_of_reg same 2).trans ?_
    rw [initFilled, State.bit, reg_setBit, if_pos rfl, bit_setBit _ _ _ _ (by decide), if_neg (by decide)]
    exact bit_of_setBit _ _ _ _ (by decide)

theorem initReady_frame : (initReady n s).mem = (zeroFill n s).mem ∧ (initReady n s).checks = (zeroFill n s).checks
    ∧ (initReady n s).drams = s.drams ∧ (initReady n s).time = s.time := by
  simp [initReady, initFilled, zeroFill]

end

/-- The other port's training shows through the fill of this one. -/
theorem initReady_trained {n : Nat} (hn : n < 2) {s : State} (other : dramTrained s (1 - n) = true) :
    (dramTrained (initReady n s) 0 && dramTrained (initReady n s) 1) = true := by
  obtain ⟨mine, -⟩ := initReady_status n s
  have yours : dramTrained (initReady n s) (1 - n) = true := by
    refine (bit_of_reg (initReady_reg n s ?_ ?_ ?_) 0).trans other <;>
    · simp only [Reg.DRAM.DRAM_STATUS, Reg.DRAM.WR_BEATS, Reg.EV_PEND, Page.DRAM]
      omega
  have which : n = 0 ∨ n = 1 := by omega
  rcases which with rfl | rfl
  · exact Bool.and_eq_true_iff.2 ⟨mine, yours⟩
  · exact Bool.and_eq_true_iff.2 ⟨yours, mine⟩

theorem initDone_runs {n : Nat} {s : State} (hn : n < 2) (alive : blockAlive s (Page.DRAM n) = true)
    (fills : s.bit (Reg.DRAM.DRAM_STATUS n) 2 = true) :
    Runs (.initDone n) s fun t =>
      dramTrained t n = true ∧ t.bit (Reg.DRAM.DRAM_STATUS n) 2 = false ∧ t.mem = (zeroFill n s).mem ∧ t.checks = (zeroFill n s).checks
        ∧ (dramTrained s (1 - n) = true →
            t.reg64 Reg.BOAT.USABLE_LO = usableOf (min (dram s 0).capacity (dram s 1).capacity) % 2 ^ 64
              ∧ t.scrub.lapStart = s.time) := by
  obtain ⟨trained, filled⟩ := initReady_status n s
  obtain ⟨mem, checks, drams, time⟩ := initReady_frame n s
  have same (m : Nat) : dram (initReady n s) m = dram s m := congrArg (SMap.get (fun _ => DramPort.reset) · m) drams
  refine runs_guarded (initDone_eq n s) (by simp [hn, alive, fills]) ?_
  unfold initEnd
  by_cases both : (dramTrained (initReady n s) 0 && dramTrained (initReady n s) 1) = true
  · rw [if_pos both]
    obtain ⟨mem2, checks2, lap, usable, other⟩ :=
      usableSet_shows (usableOf (min (dram (initReady n s) 0).capacity (dram (initReady n s) 1).capacity)) (initReady n s)
    rw [same, same] at mem2 checks2 lap usable other ⊢
    obtain ⟨mem', checks', scrub', kept⟩ := capacitiesCompared_kept (dram s 0).capacity (dram s 1).capacity
      (usableSet (usableOf (min (dram s 0).capacity (dram s 1).capacity)) (initReady n s))
    have shown := (kept (Reg.DRAM.DRAM_STATUS n) (.inr (by simp only [Reg.DRAM.DRAM_STATUS]; omega))).trans
      (other _ (by simp only [Reg.DRAM.DRAM_STATUS, Reg.BOAT.USABLE_LO]; omega)
        (by simp only [Reg.DRAM.DRAM_STATUS, Reg.BOAT.USABLE_LO]; omega))
    refine ⟨(bit_of_reg shown 0).trans trained, (bit_of_reg shown 2).trans filled, (mem'.trans mem2).trans mem,
      (checks'.trans checks2).trans checks, fun _ => ⟨?_, ?_⟩⟩
    · exact (reg64_of_reg (kept _ (.inl (by decide))) (kept _ (.inl (by decide)))).trans usable
    · exact ((congrArg Scrub.lapStart scrub').trans lap).trans time
  · rw [if_neg both]
    exact ⟨trained, filled, mem, checks, fun other => absurd (initReady_trained hn other) both⟩

/-! ### The temperature poll, the scrub and its log (R319, R321 to R323) -/

/-- The poll before it notes the temperature's flag. -/
def mr4Shown (n rate : Nat) (hot : Bool) (s : State) : State :=
  let shown := if s.fld (Reg.DRAM.DRAM_STATUS n) 12 8 = rate % 32 then s
    else raise (Page.DRAM n) 3 0 (rate % 32) {} (s.setFld (Reg.DRAM.DRAM_STATUS n) 12 8 (rate % 32))
  if hot && !(dram s n).hot then lasting (Page.DRAM n) 4 0 {} shown else shown

theorem mr4Poll_eq (n rate : Nat) (hot : Bool) (s : State) : exec (.mr4Poll n rate hot) s =
    .next (s.when (decide (n < 2) && dramServes s n) fun s => modDram n (fun d => { d with hot := hot }) (mr4Shown n rate hot s)) := by
  have run : exec (.mr4Poll n rate hot) s = execMr4Poll n rate hot s := rfl
  rw [run]
  unfold execMr4Poll mr4Shown
  congr 1

theorem mr4Shown_rate (n rate : Nat) (hot : Bool) (s : State) : (mr4Shown n rate hot s).fld (Reg.DRAM.DRAM_STATUS n) 12 8 = rate % 32 := by
  unfold mr4Shown
  dsimp only
  have shown : (if s.fld (Reg.DRAM.DRAM_STATUS n) 12 8 = rate % 32 then s
      else raise (Page.DRAM n) 3 0 (rate % 32) {} (s.setFld (Reg.DRAM.DRAM_STATUS n) 12 8 (rate % 32))).fld (Reg.DRAM.DRAM_STATUS n) 12 8
        = rate % 32 := by
    split
    · assumption
    · rw [fld_of_reg (raise_reg _ (dramStatus_ne n (by decide))), fld_of_setFld _ _ _ _ _ (by decide)]
      exact Nat.mod_mod ..
  split
  · rw [fld_of_reg (lasting_reg _ (dramStatus_ne n (by decide)) (dramStatus_ne n (by decide)) (dramStatus_ne n (by decide)))]
    exact shown
  · exact shown

/-- The end of a lap, before its limit is looked at. -/
def scrubLapNoted (ms : Nat) (s : State) : State :=
  raise Page.SCRUB 0 0 0 ⟨word ms, 0#32, 0#32⟩
    ((({ s with scrub := { s.scrub with lapStart := s.time } }).setReg Reg.SCRUB.LAST_LAP (word (min 0xFFFFFFFF ms))).count
      Reg.SCRUB.LAP_COUNT 1)

theorem scrubLap_eq (s : State) : scrubLap s =
    if s.fld Reg.SCRUB.LAP_LIMIT 15 0 * 1000000000 < s.time - s.scrub.lapStart then
      raise Page.SCRUB 2 0 0 {} (scrubLapNoted ((s.time - s.scrub.lapStart) / 1000000) s)
    else scrubLapNoted ((s.time - s.scrub.lapStart) / 1000000) s := rfl

theorem scrubLapNoted_kept (ms : Nat) (s : State) : (scrubLapNoted ms s).scrub.lastStep = s.scrub.lastStep
    ∧ (scrubLapNoted ms s).reg Reg.SCRUB.POSITION = s.reg Reg.SCRUB.POSITION := by
  constructor
  · simp [scrubLapNoted]
  · rw [scrubLapNoted, raise_reg _ (by decide), reg_count, if_neg (by decide), setReg_other _ _ _ (by decide)]
    rfl

theorem scrubLap_kept (s : State) : (scrubLap s).scrub.lastStep = s.scrub.lastStep
    ∧ (scrubLap s).reg Reg.SCRUB.POSITION = s.reg Reg.SCRUB.POSITION := by
  obtain ⟨step, place⟩ := scrubLapNoted_kept ((s.time - s.scrub.lapStart) / 1000000) s
  rw [scrubLap_eq]
  split
  · exact ⟨by simp [step], (raise_reg _ (by decide)).trans place⟩
  · exact ⟨step, place⟩

/-- The scrub moved on to a stripe. -/
def scrubMoved (now next : Nat) (s : State) : State :=
  ({ s with scrub := { s.scrub with lastStep := now } }).setFld Reg.SCRUB.POSITION 25 0 next

/-- The stripe after the one at POSITION. -/
def scrubNext (s : State) : Nat :=
  if usableSize s ≤ (s.fld Reg.SCRUB.POSITION 25 0 + 1) * 512 then 0 else s.fld Reg.SCRUB.POSITION 25 0 + 1

/-- The granules of the stripe at POSITION, read. -/
def scrubRead (noise : DramNoise) (s : State) : State :=
  (List.range 8).foldl (fun t i => scrubGranule noise (8 * s.fld Reg.SCRUB.POSITION 25 0 + i) t) (strikeAllDram noise s)

/-- The scrub on its next stripe, a lap over at stripe 0. -/
def scrubOn (now next : Nat) (s : State) : State :=
  if next = 0 then scrubLap (scrubMoved now next s) else scrubMoved now next s

theorem scrubStep_eq (quiet : Nat) (noise : DramNoise) (s : State) : exec (.scrubStep quiet noise) s =
    .next (s.when (blockAlive s Page.SCRUB && s.bit Reg.SCRUB.SCRUB_CFG 0 && dramReady s && !s.bit Reg.BOAT.ENGINE_STATE 3 && engineRuns s 0x31
      && decide (s.scrub.lastStep + s.fld Reg.SCRUB.SCRUB_CFG 15 8 * 100 ≤ s.time) && decide (s.fld Reg.SCRUB.SCRUB_CFG 23 16 ≤ quiet))
      fun s => scrubOn s.time (scrubNext s) (scrubRead noise s)) := by
  have run : exec (.scrubStep quiet noise) s = execScrubStep quiet noise s := rfl
  rw [run]
  unfold execScrubStep scrubOn scrubMoved scrubNext scrubRead
  congr 1

theorem scrubOn_ends (now next : Nat) (s : State) :
    (scrubOn now next s).scrub.lastStep = now ∧ (scrubOn now next s).fld Reg.SCRUB.POSITION 25 0 = next % 2 ^ 26 := by
  have moved : (scrubMoved now next s).fld Reg.SCRUB.POSITION 25 0 = next % 2 ^ 26 := fld_of_setFld _ _ _ _ _ (by decide)
  unfold scrubOn
  split
  · obtain ⟨time, place⟩ := scrubLap_kept (scrubMoved now next s)
    exact ⟨time, (fld_of_reg place 25 0).trans moved⟩
  · exact ⟨rfl, moved⟩

/-- Registers cleared one by one. -/
theorem reg_clearAll (r : Nat → Nat) (l : List Nat) (s : State) (k : Nat) :
    (l.foldl (fun t i => t.setReg (r i) 0#32) s).reg k = if k ∈ l.map r then 0#32 else s.reg k := by
  induction l generalizing s with
  | nil => simp
  | cons i l ih =>
    rw [List.foldl_cons, ih, reg_setReg]
    by_cases h : k = r i <;> simp [h]

theorem scrub_clearAll (r : Nat → Nat) (l : List Nat) (s : State) : (l.foldl (fun t i => t.setReg (r i) 0#32) s).scrub = s.scrub := by
  induction l generalizing s with
  | nil => rfl
  | cons i l ih => exact ih _

/-! ### The settlement -/

/-- Settles O32. -/
theorem dramAndScrub : Obligations.DramAndScrub := by
  refine ⟨fun s req n v r hn may init enter leave untrained idle first known => ?_,
    fun s req n v r hn may init enter leave untrained idle first second known => ?_,
    fun s req n v r hn may init enter leave untrained idle unknown => ?_, fun s n hn alive fills => initDone_runs hn alive fills,
    fun s req n v hn may init enter leave => ?_, fun s req n v hn may init enter leave => ?_,
    fun s n enter hn alive trained want change drained => ?_, fun s n rate hot hn serves => ?_,
    fun s quiet noise alive on ready free runs due idle => ?_, fun s req v may hv => ?_⟩
  · have run : exec (.dramInit req n v r) s =
        .next (s.when (decide (n < 2) && bit v 0) (withWriteOut { train := r } req (Reg.DRAM.DRAM_CMD n) v (dramCmdEffect n v r))) := rfl
    refine ⟨_, run, ?_⟩
    rw [when_met (by simp [hn, init]), withWriteOut_pass may, dramCmdEffect_init init enter leave,
      dramInitEffect_first (s := busOk 0#32 s) untrained idle first known]
    obtain ⟨fills, capacity⟩ := initFilling_status n r (busOk 0#32 s) known
    refine ⟨fills, capacity, ?_, sameRegs_initFilling n r (busOk 0#32 s)⟩
    rw [initFilling, dram_modDram]
  · have run : exec (.dramInit req n v r) s =
        .next (s.when (decide (n < 2) && bit v 0) (withWriteOut { train := r } req (Reg.DRAM.DRAM_CMD n) v (dramCmdEffect n v r))) := rfl
    rw [run, when_met (by simp [hn, init]), withWriteOut_pass may, dramCmdEffect_init init enter leave,
      dramInitEffect_fails (s := busOk 0#32 s) untrained idle first second known]
    rfl
  · have run : exec (.dramInit req n v r) s =
        .next (s.when (decide (n < 2) && bit v 0) (withWriteOut { train := r } req (Reg.DRAM.DRAM_CMD n) v (dramCmdEffect n v r))) := rfl
    rw [run, when_met (by simp [hn, init]), withWriteOut_pass may, dramCmdEffect_init init enter leave,
      dramInitEffect_unknown (s := busOk 0#32 s) untrained idle unknown]
    rfl
  · refine runs_guardedWrite (c := .srEnter req n v) rfl (by simp [hn, init, enter]) may ?_
    have wants : dramCmdEffect n v ⟨false, false, 0, 0⟩ (busOk 0#32 s) = srWanted n true (busOk 0#32 s) := by
      simp [dramCmdEffect, init, enter, leave]
    rw [wants, srWanted, dram_modDram]
    exact ⟨rfl, modDram_regs ..⟩
  · refine runs_guardedWrite (c := .srExit req n v) rfl (by simp [hn, init, enter, leave]) may ?_
    have wants : dramCmdEffect n v ⟨false, false, 0, 0⟩ (busOk 0#32 s) = srWanted n false (busOk 0#32 s) := by
      simp [dramCmdEffect, init, enter, leave]
    rw [wants, srWanted, dram_modDram]
    exact ⟨rfl, modDram_regs ..⟩
  · refine runs_guarded (c := .selfRefresh n) rfl (by simp [hn, alive, trained]) ?_
    have other : ¬ (enter && s.boat.inFlight.any fun x => xactOnPort x.words n) = true := by
      cases enter with
      | false => simp
      | true => simpa using drained rfl
    simp only [want, if_neg change, if_neg other]
    have own : ∀ k, k = Reg.DRAM.DRAM_STATUS n ∨ k = Reg.EV_PEND (Page.DRAM n) →
        (k == Reg.DRAM.DRAM_STATUS n || k == Reg.EV_PEND (Page.DRAM n)) = true := by simp
    refine ⟨?_, ?_, ?_⟩
    · rw [dramAsleep, State.bit, raise_reg _ (dramStatus_ne n (by decide)), modDram_reg]
      exact bit_of_setBit _ _ _ _ (by decide)
    · rw [dram_raise, dram_modDram]
    · refine sameRegs_raise (sameRegs_of_regs (sameRegs_setBit (sameRegs_refl _ s) _ _ _ (own _ (.inl rfl))) (modDram_regs ..)) _ _ _ _ _
        (own _ (.inr rfl))
  · refine runs_guarded (mr4Poll_eq n rate hot s) (by simp [hn, serves]) ?_
    rw [dram_modDram]
    refine ⟨?_, rfl⟩
    rw [fld_of_reg (modDram_reg n (mr4Shown n rate hot s) _ _) 12 8]
    exact mr4Shown_rate n rate hot s
  · refine runs_to (scrubOn s.time (scrubNext s) (scrubRead noise s)) (scrubStep_eq quiet noise s)
      (by simp [alive, on, ready, free, runs, due, idle]) rfl ?_
    obtain ⟨time, place⟩ := scrubOn_ends s.time (scrubNext s) (scrubRead noise s)
    exact ⟨time, place.trans ((apply_ite (· % 2 ^ 26) ..).trans (by rw [Nat.zero_mod]))⟩
  · refine runs_write (c := .scrubLogClear req v) rfl may ?_
    have clears (u : State) : scrubLogEffect v u =
        (List.range 16).foldl (fun t i => t.setReg (Reg.SCRUB.LOG i) 0#32) { u with scrub := { u.scrub with fullSaid := false } } := if_pos hv
    rw [clears]
    refine ⟨fun i hi => ?_, ?_⟩
    · rw [reg_clearAll, if_pos (List.mem_map.2 ⟨i, List.mem_range.2 hi, rfl⟩)]
    · rw [scrub_clearAll]

end Sys2Proof.Machine
end

section
set_option Elab.async false
/-! Boathouse's transactions and dirty reservations (O33). -/

namespace Sys2Proof.Machine

/-- A register that may be written stands on a page with power. -/
theorem Writes.pageOn {req : Requester} {k : Nat} {s : State} (may : Writes req k s) : pageOn s (k / 0x1000) = true := by
  obtain ⟨⟨-, -, -, -, on⟩, -, -⟩ := may
  exact on

/-! ### Transactions (R303 to R307) -/

/-- A transaction that is taken. -/
theorem withXact_taken {q : Fin 2} {ty : Nat} {s u : State} {it : QItem} (taken : xactTake q ty (xactGrantNext s) = some (it, u))
    (f : QItem → State → State) : withXact q ty f s = f it u := by
  unfold withXact
  dsimp only
  rw [taken]

theorem modBoat_reg (f : Boat → Boat) (s : State) (k : Nat) : (modBoat f s).reg k = s.reg k := rfl

theorem modBoat_regs (f : Boat → Boat) (s : State) : (modBoat f s).regs = s.regs := rfl

theorem takeCredit_inFlight (a : CreditAsk) (s : State) : (takeCredit a s).boat.inFlight = s.boat.inFlight := rfl

/-- Granting credits moves no transaction. -/
theorem xactGrantNext_inFlight (s : State) : (xactGrantNext s).boat.inFlight = s.boat.inFlight := by
  unfold xactGrantNext
  generalize s.boat.creditWait = l
  induction l generalizing s with
  | nil => rfl
  | cons a l ih =>
    rw [List.foldl_cons, ih]
    split
    · split
      · exact takeCredit_inFlight ..
      · rfl
    · rfl

theorem xactGrantNext_none {s : State} (none : s.boat.creditWait = []) : xactGrantNext s = s := by
  unfold xactGrantNext
  rw [none, List.foldl_nil]

theorem xactReturn_inFlight (port : Nat) (ws : List Word) (s : State) : (xactReturn port ws s).boat.inFlight = s.boat.inFlight := by
  unfold xactReturn
  split
  · exact xactGrantNext_inFlight _
  · exact xactGrantNext_inFlight _

/-- With no one waiting a returned credit is free (R305). -/
theorem xactReturn_held (port : Nat) (ws : List Word) {s : State} (none : s.boat.creditWait = []) :
    SMap.get (fun _ => 0) (xactReturn port ws s).boat.held (xactClass ws) = xactHeld s (xactClass ws) - 1 := by
  unfold xactReturn
  rw [if_neg (by simp [none]), xactGrantNext_none (s := setXactHeld _ _ s) none]
  exact (SMap.get_set ..).trans (if_pos rfl)

theorem xactComplete_boat (port : Nat) (ws : List Word) (status offset : Nat) (s : State) :
    (xactComplete port ws status offset s).boat = s.boat := by
  unfold xactComplete
  split
  · rfl
  · split
    · simp
    · rfl

/-! ### Dirty reservations (R308, R309) -/

/-- The limit fits DIRTY_COUNT's field. -/
theorem dirtyCount_set (s : State) {n : Nat} (h : n < 0x4000000) : dirtyCount (s.setFld Reg.BOAT.DIRTY_COUNT 25 0 n) = n :=
  (fld_of_setFld _ _ _ _ _ (by decide)).trans (Nat.mod_eq_of_lt h)

theorem dirtyCount_lt (s : State) : dirtyCount s < 0x4000000 := fld_lt ..

theorem dirtyCount_of_reg {s t : State} (h : t.reg Reg.BOAT.DIRTY_COUNT = s.reg Reg.BOAT.DIRTY_COUNT) : dirtyCount t = dirtyCount s :=
  fld_of_reg h 25 0

theorem dirtyCount_modBoat (f : Boat → Boat) (s : State) : dirtyCount (modBoat f s) = dirtyCount s := rfl

theorem sameRegs_addDirty (n : Nat) (s : State) : SameRegs (fun k => k == Reg.BOAT.DIRTY_COUNT) s (addDirty n s) :=
  sameRegs_setFld (sameRegs_refl _ s) _ _ _ _ (beq_self_eq_true _)

section
variable {v : Word} {s : State}

theorem dirtyAdj_reserved (reserve : bit v 31 = false) (some_ : fld v 14 0 ≠ 0) (fits : fld v 14 0 ≤ 16384) (active : wbActive s = true)
    (room : dirtyCount s + fld v 14 0 ≤ dirtyLimit s) :
    dirtyAdjEffect v s = (addDirty (fld v 14 0) s).setReg Reg.BOAT.DIRTY_ADJ_RESULT (word 1) := by
  unfold dirtyAdjEffect
  dsimp only
  rw [if_neg (by omega), if_neg (not_of reserve), if_pos ⟨active, room⟩]

theorem dirtyAdj_released (release : bit v 31 = true) (some_ : fld v 14 0 ≠ 0) (fits : fld v 14 0 ≤ 16384) (held : fld v 14 0 ≤ dirtyCount s) :
    dirtyAdjEffect v s = (s.setFld Reg.BOAT.DIRTY_COUNT 25 0 (dirtyCount s - fld v 14 0)).setReg Reg.BOAT.DIRTY_ADJ_RESULT (word 1) := by
  unfold dirtyAdjEffect releaseDirty
  dsimp only
  rw [if_neg (by omega), if_pos release, if_neg (by omega), if_neg (by omega)]

theorem dirtyAdj_excess (release : bit v 31 = true) (fits : fld v 14 0 ≤ 16384) (excess : dirtyCount s < fld v 14 0) :
    dirtyAdjEffect v s =
      (raise Page.BOAT 6 5 0 {} (s.setFld Reg.BOAT.DIRTY_COUNT 25 0 0)).setReg Reg.BOAT.DIRTY_ADJ_RESULT (word 3) := by
  unfold dirtyAdjEffect releaseDirty
  dsimp only
  rw [if_neg (by omega), if_pos release, if_pos excess, if_pos excess]

end

theorem dirtyReserve_eq (task n : Nat) (s : State) : exec (.dirtyReserve task n) s = execDirtyReserve task n s := rfl

section
variable {task n : Nat} {s : State} (met : (boatOn s && decide (1 ≤ n) && decide (n ≤ 16384)) = true)
include met

theorem dirtyReserve_through (inactive : wbActive s = false) :
    exec (.dirtyReserve task n) s = .next (modBoat (fun b => { b with through := b.through ++ [task] }) s) := by
  rw [dirtyReserve_eq, execDirtyReserve, when_met met, if_pos (by simp [inactive])]

theorem dirtyReserve_granted (active : wbActive s = true) (none : s.boat.waiting = []) (room : dirtyCount s + n ≤ dirtyLimit s) :
    exec (.dirtyReserve task n) s = .next (modBoat (fun b => { b with granted := b.granted ++ [⟨task, n⟩] }) (addDirty n s)) := by
  rw [dirtyReserve_eq, execDirtyReserve, when_met met, if_neg (by simp [active]), if_pos ⟨by simp [none], room⟩]

/-- A reservation that waits, with BUFFER_FULL or without. -/
theorem dirtyReserve_waits (active : wbActive s = true) (full : s.boat.waiting ≠ [] ∨ dirtyLimit s < dirtyCount s + n) :
    ∃ said : Bool, exec (.dirtyReserve task n) s = .next (
      if said then modBoat (fun b => { b with waiting := b.waiting ++ [⟨task, n⟩], lastWait := some s.time }) s
      else raise Page.BOAT 4 0 0 {} (modBoat (fun b => { b with waiting := b.waiting ++ [⟨task, n⟩], lastWait := some s.time }) s)) := by
  refine ⟨!s.boat.waiting.isEmpty || s.boat.lastWait.any (fun t => decide (s.time < t + 1000000)), ?_⟩
  rw [dirtyReserve_eq, execDirtyReserve, when_met met, if_neg (by simp [active]), if_neg]
  rintro ⟨none, room⟩
  rcases full with waits | over_
  · exact waits (List.isEmpty_iff.1 none)
  · omega

end

/-! ### The settlement -/

/-- Settles O33. -/
theorem bufferTransactions : Obligations.BufferTransactions := by
  refine ⟨fun s q noise it u taken => ?_, fun s q beats it u taken => ?_, fun s q noise it u taken => ?_, fun s q it u taken => ?_,
    fun s q beat noise it u taken whole => ?_, fun s q beat noise it u taken part => ?_, fun s port tag x on found => ?_,
    fun s task n on low high inactive => ?_, fun s task n on low high active none room small => ?_,
    fun s task n on low high active full => ?_, fun s r rest on active waits room small => ?_,
    fun s req v may reserve some_ fits active room small => ?_, fun s req v may release some_ fits held => ?_,
    fun s req v may release fits excess => ?_⟩
  · have run : exec (.xactRead q noise) s = execXactRead q noise s := rfl
    rw [run, execXactRead, withXact_taken taken]
    simp only [modBoat]
  · have run : exec (.xactWrite q beats) s = execXactWrite q beats s := rfl
    rw [run, execXactWrite, withXact_taken taken]
  · have run : exec (.xactCopy q noise) s = execXactCopy q noise s := rfl
    rw [run, execXactCopy, withXact_taken taken]
  · have run : exec (.xactFill q) s = execXactFill q s := rfl
    rw [run, execXactFill, withXact_taken taken]
  · have run : exec (.xactMerge q beat noise) s = execXactMerge q beat noise s := rfl
    rw [run, execXactMerge, withXact_taken taken]
    dsimp only
    rw [if_pos (show xactPattern it.words = 2 ^ 64 - 1 from whole)]
  · have run : exec (.xactMerge q beat noise) s = execXactMerge q beat noise s := rfl
    rw [run, execXactMerge, withXact_taken taken]
    dsimp only
    rw [if_neg (show xactPattern it.words ≠ 2 ^ 64 - 1 from part)]
  · have run : exec (.xactDone port tag) s = execXactDone port tag s := rfl
    refine ⟨_, run.trans (by rw [execXactDone, when_met on, found]), ?_, fun none => ?_⟩
    · rw [xactComplete_boat, xactReturn_inFlight]
      rfl
    · rw [xactComplete_boat]
      exact xactReturn_held _ _ none
  · refine ⟨_, dirtyReserve_through (by simp [on, low, high]) inactive, rfl, rfl, modBoat_regs ..⟩
  · refine ⟨_, dirtyReserve_granted (by simp [on, low, high]) active none room, rfl, ?_, ?_⟩
    · rw [dirtyCount_modBoat]
      exact dirtyCount_set s (by omega)
    · exact sameRegs_of_regs (sameRegs_addDirty n s) (modBoat_regs ..)
  · obtain ⟨said, run⟩ := dirtyReserve_waits (task := task) (by simp [on, low, high]) active full
    refine ⟨_, run, ?_⟩
    cases said with
    | true => exact ⟨rfl, rfl, rfl⟩
    | false =>
      rw [if_neg (by decide), dirtyCount_of_reg (raise_reg _ (by decide))]
      exact ⟨by simp [modBoat], by simp [modBoat], rfl⟩
  · have run : exec .dirtyGrant s = execDirtyGrant s := rfl
    refine ⟨modBoat (fun b => { b with waiting := rest, granted := b.granted ++ [r] })
      (addDirty r.granules (modBoat (fun b => { b with lastWait := some s.time }) s)), ?_, rfl, rfl, ?_, ?_⟩
    · rw [run, execDirtyGrant, when_met (by simp [on, active]), waits]
      dsimp only
      rw [if_pos room]
    · rw [dirtyCount_modBoat, addDirty, dirtyCount_modBoat]
      exact dirtyCount_set _ (by omega)
    · exact sameRegs_of_regs (sameRegs_addDirty r.granules (modBoat (fun b => { b with lastWait := some s.time }) s)) (modBoat_regs ..)
  · have run : exec (.dirtyAdjReserve req v) s = execDirtyAdjReserve req v s := rfl
    refine ⟨(addDirty (fld v 14 0) (busOk 0#32 s)).setReg Reg.BOAT.DIRTY_ADJ_RESULT (word 1), ?_, ?_, ?_, ?_⟩
    · rw [run, execDirtyAdjReserve, when_met (by simp [reserve]), withWrite_pass may,
        dirtyAdj_reserved (s := busOk 0#32 s) reserve some_ fits active room]
    · rw [dirtyCount_of_reg (setReg_other _ _ _ (by decide)), addDirty]
      exact dirtyCount_set _ (Nat.lt_of_le_of_lt room small)
    · rw [reg_setReg, if_pos rfl]
      rfl
    · exact sameRegs_setReg (sameRegs_setFld (sameRegs_of_regs (sameRegs_refl _ s) rfl) _ _ _ _ (by simp)) _ _ (by simp)
  · have run : exec (.dirtyAdjRelease req v) s = execDirtyAdjRelease req v s := rfl
    refine ⟨((busOk 0#32 s).setFld Reg.BOAT.DIRTY_COUNT 25 0 (dirtyCount s - fld v 14 0)).setReg Reg.BOAT.DIRTY_ADJ_RESULT (word 1), ?_, ?_, ?_, ?_⟩
    · rw [run, execDirtyAdjRelease, when_met release, withWrite_pass may,
        dirtyAdj_released (s := busOk 0#32 s) release some_ fits held]
      rfl
    · rw [dirtyCount_of_reg (setReg_other _ _ _ (by decide))]
      exact dirtyCount_set _ (Nat.lt_of_le_of_lt (Nat.sub_le ..) (dirtyCount_lt s))
    · rw [reg_setReg, if_pos rfl]
      rfl
    · exact sameRegs_setReg (sameRegs_setFld (sameRegs_of_regs (sameRegs_refl _ s) rfl) _ _ _ _ (by simp)) _ _ (by simp)
  · have run : exec (.dirtyAdjRelease req v) s = execDirtyAdjRelease req v s := rfl
    have on : pageOn s Page.BOAT = true := may.pageOn
    refine ⟨(raise Page.BOAT 6 5 0 {} ((busOk 0#32 s).setFld Reg.BOAT.DIRTY_COUNT 25 0 0)).setReg Reg.BOAT.DIRTY_ADJ_RESULT (word 3), ?_, ?_, ?_, ?_⟩
    · rw [run, execDirtyAdjRelease, when_met release, withWrite_pass may,
        dirtyAdj_excess (s := busOk 0#32 s) release fits excess]
    · rw [dirtyCount_of_reg (setReg_other _ _ _ (by decide)), dirtyCount_of_reg (raise_reg _ (by decide))]
      exact dirtyCount_set _ (by decide)
    · rw [reg_setReg, if_pos rfl]
      rfl
    · rw [bit_of_reg (setReg_other _ _ _ (by decide))]
      refine raise_pend ?_ (by decide) (by decide) _ _
      exact (pageOn_congr (setFld_other _ _ _ _ _ (by decide)) rfl _).trans on

end Sys2Proof.Machine
end

section
set_option Elab.async false
/-! The buffer cache (O34). -/

namespace Sys2Proof.Machine

/-- A piece that an operation does not name is as it was. -/
theorem Stays.same {ps : List Piece} {s t : State} (h : Stays ps s t) (p : Piece) (free : p ∉ ps) : p.same s t := by
  obtain ⟨⟨-, -, same⟩, -⟩ := h
  exact same p free

theorem raise_cache (p k sev code : Nat) (pl : Payload) (s : State) : (raise p k sev code pl s).cache = s.cache :=
  (raise_stays p k sev code pl s).same .cache (by decide)

/-! ### Accesses of memory (R36, R37, R330) -/

/-- An access of memory that leaves its core at once. -/
theorem memAccess_arrives {req : Requester} {s : State} (free : s.chip.held = none) (ready : s.bus.stalled.contains req = false) (write : Bool)
    (a : Addr) (n : Nat) (v : BitVec 64) (rom : Nat) (parity : CacheParity) (noise : DramNoise) :
    memAccess req write a n v rom parity noise s = memArrived true req write a n v rom parity noise s := by
  unfold memAccess
  rw [if_neg (by simp [free]), if_neg (not_of ready)]

/-- An access of memory but the read-only ones. -/
theorem cacheAccess_arrives {req : Requester} {a : Addr} {w : AccessWidth} {s : State} (free : s.chip.held = none)
    (ready : s.bus.stalled.contains req = false) (page : memRange a.toNat (accessBytes w) ≠ 5)
    (rom : ¬ (memRange a.toNat (accessBytes w) = 1 ∨ memRange a.toNat (accessBytes w) = 6)) (write : Bool) (v : BitVec 64)
    (parity : CacheParity) (noise : DramNoise) :
    exec (.cacheAccess req write a w v parity noise) s = .next (memArrived true req write a (accessBytes w) v 0 parity noise s) := by
  have run : exec (.cacheAccess req write a w v parity noise) s = execCacheAccess req write a w v parity noise s := rfl
  rw [run, execCacheAccess, when_met (by simpa using page), if_neg rom, memAccess_arrives free ready]

section
variable {req : Requester} {a : Addr} {n : Nat} {s : State} {r : Nat} (range : memRange a.toNat n = r)
include range

theorem memArrived_load (sram : r = 2 ∨ r = 3 ∨ r = 4) (may : mayTouch r req false s = true) (fresh : Bool) (v : BitVec 64) (rom : Nat)
    (parity : CacheParity) (noise : DramNoise) : memArrived fresh req false a n v rom parity noise s = sramLoad req a n parity s := by
  unfold memArrived
  dsimp only
  rw [range, if_neg (by omega), if_neg (by omega), if_neg (by simp [may]), if_neg (by omega), if_neg (by decide), if_neg (by omega)]

theorem memArrived_rom (readOnly : r = 1 ∨ r = 6) (may : mayTouch r req false s = true) (fresh : Bool) (v : BitVec 64) (rom : Nat)
    (parity : CacheParity) (noise : DramNoise) : memArrived fresh req false a n v rom parity noise s = loadGives (rom % 2 ^ (8 * n)) s := by
  unfold memArrived
  dsimp only
  rw [range, if_neg (by omega), if_neg (by omega), if_neg (by simp [may]), if_neg (by omega), if_neg (by decide), if_pos readOnly]

theorem memArrived_store (sram : r = 3 ∨ r = 4) (may : mayTouch r req true s = true) (fresh : Bool) (v : BitVec 64) (rom : Nat)
    (parity : CacheParity) (noise : DramNoise) :
    memArrived fresh req true a n v rom parity noise s = busOk 0#32 (putSram a.toNat (toBytes n v.toNat) s) := by
  unfold memArrived
  dsimp only
  rw [range, if_neg (by omega), if_neg (by omega), if_neg (by simp [may]), if_neg (by omega), if_pos rfl]

theorem memArrived_window (window : r = 7) {write : Bool} (may : mayTouch 7 req write s = true) (fresh : Bool) (v : BitVec 64) (rom : Nat)
    (parity : CacheParity) (noise : DramNoise) :
    memArrived fresh req write a n v rom parity noise s = cacheWindow fresh req write a n v parity noise s := by
  unfold memArrived
  dsimp only
  rw [range, window, if_neg (by omega), if_neg (by omega), if_neg (by simp [may]), if_pos rfl]

end

/-- A load's answer. -/
theorem loadGives_shows (d : Nat) (s : State) : (loadGives d s).bus.error = false ∧ (loadGives d s).bus.data = word d
    ∧ (loadGives d s).cache.loaded = BitVec.ofNat 64 d ∧ (loadGives d s).mem = s.mem ∧ (loadGives d s).regs = s.regs
    ∧ (loadGives d s).free = s.free := ⟨rfl, rfl, rfl, rfl, rfl, rfl⟩

/-- A load from an SRAM that meets no parity error (R36). -/
theorem sramLoad_good {parity : CacheParity} (l1 : parity ≠ .l1) (sram : ∀ again, parity ≠ .sram again) (req : Requester) (a : Addr) (n : Nat)
    (s : State) : sramLoad req a n parity s = loadGives (ofBytes (sramBytes s a.toNat n)) s := by
  unfold sramLoad
  cases parity with
  | l1 => exact absurd rfl l1
  | sram again => exact absurd rfl (sram again)
  | _ => rfl

/-- The precise fault of a Stroke core at a second parity error (R57, R69). -/
theorem loadFault_parity (n : Fin 4) (a : Addr) (s : State) : (loadFault 1 (.stroke n) a s).bus.error = true
    ∧ (loadFault 1 (.stroke n) a s).reg (Reg.STROKE.FAULT_ADDR_LO n.val) = loWord a.toNat
    ∧ (loadFault 1 (.stroke n) a s).fld (Reg.STROKE.FAULT_ADDR_HI n.val) 15 8 = 1 := by
  obtain ⟨u, hu⟩ : ∃ u, u = (s.setReg (Reg.STROKE.FAULT_ADDR_LO n.val) (loWord a.toNat)).setReg (Reg.STROKE.FAULT_ADDR_HI n.val)
    (word (a.toNat / 2 ^ 32 % 256 + 1 * 256)) := ⟨_, rfl⟩
  have fault : loadFault 1 (.stroke n) a s = busError (lasting (Page.STROKE n.val) 1 0 ⟨loWord a.toNat, hiWord a.toNat, 0#32⟩ u) := by
    rw [hu]
    rfl
  have kept {k off : Nat} (at_ : k = Page.STROKE n.val * 0x1000 + off) (place : 0x48 < off) (top : off < 0x1000) :
      (loadFault 1 (.stroke n) a s).reg k = u.reg k := by
    rw [fault]
    refine (lasting_reg (p := Page.STROKE n.val) u ?_ ?_ ?_ : _) <;>
    · simp only [at_, Reg.EV_PEND, Reg.FAULT_CODE, Reg.STATUS]
      omega
  refine ⟨by rw [fault]; rfl, ?_, ?_⟩
  · rw [kept (off := 0x64) rfl (by decide) (by decide), hu, setReg_other _ _ _ (header_ne (p := 0x011 + n.val) (i := 0x64) (j := 0x68) (by decide)), setReg_same]
  · rw [fld_of_reg (kept (off := 0x68) rfl (by decide) (by decide)), hu, State.fld, setReg_same, fld, word, BitVec.toNat_ofNat]
    omega

/-- A store to an SRAM but the retained one. -/
theorem putSram_eq (bs : List Byte) (a : Nat) (s : State) (apart : ∀ i, i < bs.length → memRange (a + i) 1 ≠ 2) :
    putSram a bs s = s.putBytes a bs := by
  induction bs generalizing a s with
  | nil => rfl
  | cons b bs ih =>
    rw [putSram, State.putBytes, if_neg (show memRange a 1 ≠ 2 from apart 0 (by simp))]
    refine ih _ _ fun i hi => ?_
    have := apart (i + 1) (by simpa using hi)
    rwa [show a + (i + 1) = a + 1 + i by omega] at this

theorem toBytes_length (n v : Nat) : (toBytes n v).length = n := by
  induction n generalizing v with
  | zero => rfl
  | succ n ih => rw [toBytes, List.length_cons, ih]

theorem byteAt_putBytes (bs : List Byte) (s : State) (a x : Nat) :
    (s.putBytes a bs).byteAt x = if a ≤ x ∧ x < a + bs.length then bs.getD (x - a) 0#8 else s.byteAt x := by
  obtain ⟨inside, outside, -⟩ := memoryReadsBack s a bs
  split
  case isTrue within =>
    have place : bs[x - a]? = some (bs.getD (x - a) 0#8) := by
      rw [List.getD_eq_getElem?_getD, List.getElem?_eq_getElem (by omega)]
      rfl
    have := inside (x - a) _ place
    rwa [show a + (x - a) = x by omega] at this
  case isFalse apart => exact outside x (by omega)

/-- The retained SRAM lies below the shared ones. -/
theorem memRange_retained {a n : Nat} (range : memRange a n = 2) : a + n ≤ 0x10010000 := by
  unfold memRange at range
  dsimp only at range
  split at range
  · contradiction
  · split at range
    case isTrue within =>
      simp only [Bool.and_eq_true, decide_eq_true_eq] at within
      exact within.2
    case isFalse => split_ifs at range <;> omega

theorem memRange_shared {a n r : Nat} (range : memRange a n = r) (shared : r = 3 ∨ r = 4) : 0x11000000 ≤ a := by
  unfold memRange at range
  dsimp only at range
  split at range
  · omega
  · split at range
    · omega
    · split at range
      case isTrue within =>
        simp only [Bool.and_eq_true, decide_eq_true_eq] at within
        exact within.1
      case isFalse =>
        split at range
        case isTrue within =>
          simp only [Bool.and_eq_true, decide_eq_true_eq] at within
          omega
        case isFalse => split_ifs at range <;> omega

theorem memRange_byte {a n r : Nat} (range : memRange a n = r) (shared : r = 3 ∨ r = 4) (i : Nat) : memRange (a + i) 1 ≠ 2 := fun h => by
  have := memRange_retained h
  have := memRange_shared range shared
  omega

/-- An access of the window within a line that is served at once (R330 to R334). -/
theorem cacheWindow_line {req : Requester} {write : Bool} {a : Addr} {n : Nat} {parity : CacheParity} {s : State}
    (inside : a.toNat - dramBase + n ≤ usableSize s) (serves : windowWaits write parity a n s = false)
    (alone : linesWait req a n s.bus.held = false) (l1 : parity = .l1 → write = true) (on : s.bit (Reg.CTRL Page.CACHE) 0 = true)
    (line : (a.toNat - dramBase) % 64 + n ≤ 64) (v : BitVec 64) (noise : DramNoise) :
    cacheWindow true req write a n v parity noise s = accessLine req write a ((a.toNat - dramBase) % 64) n v (firstParity parity) noise
      ((a.toNat - dramBase) / 64) (strikeAllDram noise (rangeAdvance s)) := by
  have first : min n (64 - (a.toNat - dramBase) % 64) = n := by omega
  unfold cacheWindow accessLines
  dsimp only
  have unmended (b : Bool) : ¬ (decide (parity = .l1) && !write && b) = true := by
    cases write with
    | true => simp
    | false => simp [show parity ≠ .l1 from fun h => Bool.false_ne_true (l1 h)]
  rw [if_neg (by omega), if_neg (by simp [serves, alone]), if_neg (by simp [on]), first]
  exact (if_neg (unmended _)).trans (if_pos (by simp))

/-! ### Range operations (R335 to R338) -/

theorem rangeAdvance_none {s : State} (none : s.cache.range = none) : rangeAdvance s = s := by
  unfold rangeAdvance
  rw [none]

theorem rangeAdvance_over {s : State} {r : RangeOp} (some_ : s.cache.range = some r) (over_ : r.done = rangeTotal r) : rangeAdvance s = s := by
  unfold rangeAdvance
  rw [some_]
  dsimp only
  rw [show min (rangeTotal r) ((s.time - r.start) * 6 / 5) - r.done = 0 by omega]
  rfl

/-- A range operation that may start. -/
theorem rangeCtrl_starts {v : Word} {s : State} {op : Nat} (go : bit v 8 = true) (stop : bit v 9 = false) (code : fld v 2 0 = op)
    (listed : 1 ≤ op ∧ op ≤ 5) (none : s.cache.range = none) (some_ : s.fld Reg.CACHE.RANGE_LINES 29 0 ≠ 0)
    (most : 4 ≤ op → s.fld Reg.CACHE.RANGE_LINES 29 0 ≤ 524288)
    (inside : 64 * (s.reg64 Reg.CACHE.RANGE_BASE_LO / 64 + s.fld Reg.CACHE.RANGE_LINES 29 0) ≤ usableSize s) :
    rangeCtrlEffect v s = modCache (fun c => { c with range := some ⟨op, bit v 4, s.reg64 Reg.CACHE.RANGE_BASE_LO / 64,
      s.fld Reg.CACHE.RANGE_LINES 29 0, s.time, 0, 0, .none, 0, 0⟩ }) (s.setReg Reg.CACHE.RANGE_CTRL (v &&& 0x17#32)) := by
  have lines : (s.setReg Reg.CACHE.RANGE_CTRL (v &&& 0x17#32)).fld Reg.CACHE.RANGE_LINES 29 0 = s.fld Reg.CACHE.RANGE_LINES 29 0 :=
    fld_of_reg (setReg_other _ _ _ (by decide)) 29 0
  have base : (s.setReg Reg.CACHE.RANGE_CTRL (v &&& 0x17#32)).reg64 Reg.CACHE.RANGE_BASE_LO = s.reg64 Reg.CACHE.RANGE_BASE_LO :=
    reg64_of_reg (setReg_other _ _ _ (by decide)) (setReg_other _ _ _ (by decide))
  have usable : usableSize (s.setReg Reg.CACHE.RANGE_CTRL (v &&& 0x17#32)) = usableSize s :=
    reg64_of_reg (setReg_other _ _ _ (by decide)) (setReg_other _ _ _ (by decide))
  have free : (s.setReg Reg.CACHE.RANGE_CTRL (v &&& 0x17#32)).cache.range.isSome = false := congrArg Option.isSome none
  unfold rangeCtrlEffect rangeGo
  dsimp only
  rw [rangeAdvance_none none, if_neg (not_of stop), if_pos go, lines, base, usable, code, free,
    if_pos (by rw [if_neg Bool.false_ne_true, if_neg (by omega), if_neg (by omega), if_neg (by omega)])]
  rfl

theorem rangeCtrl_stops {v : Word} (go : bit v 8 = false) (stop : bit v 9 = true) (s : State) :
    rangeCtrlEffect v s = rangeEnd 2 ((rangeAdvance s).setReg Reg.CACHE.RANGE_CTRL (v &&& 0x17#32)) := by
  unfold rangeCtrlEffect
  dsimp only
  rw [if_pos stop, if_neg (not_of go)]

/-- The result registers at the end of a range operation (R338). -/
theorem rangeEnd_shows {s : State} {r : RangeOp} (some_ : s.cache.range = some r) (outcome : Nat) :
    (rangeEnd outcome s).cache = { s.cache with range := none } ∧ (rangeEnd outcome s).reg Reg.CACHE.RANGE_RESULT = word outcome
    ∧ (rangeEnd outcome s).reg Reg.CACHE.RANGE_DONE_LINES = word r.done ∧ (rangeEnd outcome s).reg Reg.CACHE.SKIPPED = word r.skipped
    ∧ (rangeEnd outcome s).reg Reg.CACHE.WRITEBACKS = word r.writebacks ∧ (rangeEnd outcome s).reg Reg.CACHE.DISCARDED = word r.discarded
    ∧ (rangeEnd outcome s).reg64 Reg.CACHE.FIRST_SKIP_LO = r.firstSkip.getD 0 % 2 ^ 64 := by
  obtain ⟨u, hu⟩ : ∃ u, u = ((((s.setReg Reg.CACHE.RANGE_RESULT (word outcome)).setReg Reg.CACHE.RANGE_DONE_LINES (word r.done)).setReg
      Reg.CACHE.SKIPPED (word r.skipped)).setReg64 Reg.CACHE.FIRST_SKIP_LO (r.firstSkip.getD 0)) := ⟨_, rfl⟩
  obtain ⟨t, ht⟩ : ∃ t, t = (u.setReg Reg.CACHE.WRITEBACKS (word r.writebacks)).setReg Reg.CACHE.DISCARDED (word r.discarded) := ⟨_, rfl⟩
  have ends : rangeEnd outcome s = raise Page.CACHE 3 0 outcome ⟨word r.done, word r.skipped, loWord (r.firstSkip.getD 0)⟩
      (modCache (fun c => { c with range := none }) t) := by
    unfold rangeEnd
    rw [some_, ht, hu]
  have shown {k : Nat} (h : k ≠ Reg.EV_PEND Page.CACHE) : (rangeEnd outcome s).reg k = t.reg k := by
    rw [ends]
    exact raise_reg _ h
  have cache : t.cache = s.cache := by
    rw [ht, hu]
    rfl
  have early {k : Nat} (h : k ≠ Reg.CACHE.WRITEBACKS) (h' : k ≠ Reg.CACHE.DISCARDED) : t.reg k = u.reg k := by
    rw [ht, setReg_other _ _ _ h', setReg_other _ _ _ h]
  refine ⟨?_, ?_, ?_, ?_, ?_, ?_, ?_⟩
  · rw [ends, raise_cache]
    exact congrArg (fun c : Cache => { c with range := none }) cache
  · rw [shown (by decide), early (by decide) (by decide), hu, reg64_other _ _ _ _ (by decide) (by decide), setReg_other _ _ _ (by decide),
      setReg_other _ _ _ (by decide), setReg_same]
  · rw [shown (by decide), early (by decide) (by decide), hu, reg64_other _ _ _ _ (by decide) (by decide), setReg_other _ _ _ (by decide),
      setReg_same]
  · rw [shown (by decide), early (by decide) (by decide), hu, reg64_other _ _ _ _ (by decide) (by decide), setReg_same]
  · rw [shown (by decide), ht, setReg_other _ _ _ (by decide), setReg_same]
  · rw [shown (by decide), ht, setReg_same]
  · rw [reg64_of_reg (shown (by decide)) (shown (by decide)), reg64_of_reg (early (by decide) (by decide)) (early (by decide) (by decide)), hu]
    exact reg64_set ..

/-! ### The settlement -/

/-- Settles O34. -/
theorem cacheCommands : Obligations.CacheCommands := by
  refine ⟨fun s req a w v parity noise r free ready range sram may l1 good => ?_, fun s n a w v noise free ready range may => ?_,
    fun s req a w v parity noise r free ready range sram may => ?_, fun s req a w v parity noise r free ready range rom may => ?_,
    fun s req write a w v parity noise free ready range may inside serves alone l1 on line => ?_, fun s req v may few none => ?_,
    fun s req v may refused => ?_, fun s req v op c may go stop code which none some_ most inside => ?_, fun s req v may go stop => ?_,
    fun s r alive some_ over_ => ?_, fun s alive some_ => ?_⟩
  · refine ⟨_, cacheAccess_arrives free ready (by omega) (by omega) false v parity noise, ?_⟩
    rw [memArrived_load range sram may, sramLoad_good l1 good]
    obtain ⟨error, data, loaded, mem, regs, -⟩ := loadGives_shows (ofBytes (sramBytes s a.toNat (accessBytes w))) s
    exact ⟨error, data, loaded, mem, regs⟩
  · have arrives (again : Bool) := cacheAccess_arrives (a := a) (w := w) free ready (by omega) (by omega) false v (.sram again) noise
    refine ⟨⟨_, arrives false, ?_⟩, ⟨_, arrives true, ?_⟩⟩
    · rw [memArrived_load range (by decide) may, sramLoad, sramParity, if_neg (by decide)]
      obtain ⟨error, data, -⟩ := loadGives_shows (ofBytes (sramBytes s a.toNat (accessBytes w))) (transient (Page.STROKE n.val) 1 0
        ⟨loWord a.toNat, hiWord a.toNat, 0#32⟩ (if memRange a.toNat 1 = 4 then s.count (Reg.STROKE.SRAM_PARITY_COUNT n.val) 1 else s))
      exact ⟨error, data⟩
    · rw [memArrived_load range (by decide) may, sramLoad, sramParity, if_pos rfl]
      exact loadFault_parity ..
  · refine ⟨_, cacheAccess_arrives free ready (by omega) (by omega) true v parity noise, ?_⟩
    rw [memArrived_store range sram may, putSram_eq]
    · refine ⟨rfl, ?_, ?_, fun x => ?_⟩
      · exact (State.putBytes_stays s _ _).same .regs (by decide)
      · exact (State.putBytes_stays s _ _).same .cache (by decide)
      · have bytes := byteAt_putBytes (toBytes (accessBytes w) v.toNat) s a.toNat x
        rw [toBytes_length] at bytes
        exact bytes
    · rw [toBytes_length]
      exact fun i _ => memRange_byte range sram i
  · have run : exec (.cacheAccess req false a w v parity noise) s = execCacheAccess req false a w v parity noise s := rfl
    refine ⟨loadGives ((s.freeWord.toNat + s.useFree.freeWord.toNat * 2 ^ 32) % 2 ^ (8 * accessBytes w)) s.useFree.useFree, ?_, ?_⟩
    · rw [run, execCacheAccess, when_met (by simp; omega), if_pos (by omega), memAccess_arrives (s := s.useFree.useFree) free ready,
        memArrived_rom (s := s.useFree.useFree) range rom may]
    · obtain ⟨error, data, -, mem, regs, free'⟩ :=
        loadGives_shows ((s.freeWord.toNat + s.useFree.freeWord.toNat * 2 ^ 32) % 2 ^ (8 * accessBytes w)) s.useFree.useFree
      exact ⟨error, free', mem, regs, data⟩
  · rw [cacheAccess_arrives free ready (by omega) (by omega), memArrived_window range rfl may,
      cacheWindow_line inside serves alone l1 on line]
  · have run : exec (.lockMaskWrite req v) s = execLockMaskWrite req v s := rfl
    have locks : lockMaskEffect v (busOk 0#32 s) = (busOk 0#32 s).setReg Reg.CACHE.LOCK_MASK (v &&& 0xFFFF#32) := by
      unfold lockMaskEffect
      dsimp only
      rw [if_neg (by omega), if_neg (by simp [busOk, none])]
    refine ⟨(busOk 0#32 s).setReg Reg.CACHE.LOCK_MASK (v &&& 0xFFFF#32), run.trans (by rw [execLockMaskWrite, withWrite_pass may, locks]),
      setReg_same .., rfl, ?_⟩
    exact sameRegs_setReg (sameRegs_of_regs (sameRegs_refl _ s) rfl) _ _ (beq_self_eq_true _)
  · have run : exec (.lockMaskWrite req v) s = execLockMaskWrite req v s := rfl
    have refuses : ∃ code, lockMaskEffect v (busOk 0#32 s) = raise Page.CACHE 5 5 code {} (busOk 0#32 s) := by
      unfold lockMaskEffect
      dsimp only
      split
      · exact ⟨_, rfl⟩
      · exact ⟨2, if_pos (refused.resolve_left (by assumption))⟩
    obtain ⟨code, refuses⟩ := refuses
    refine ⟨_, run.trans (by rw [execLockMaskWrite, withWrite_pass may, refuses]), ?_, ?_⟩
    · rw [raise_reg _ (by decide)]
      rfl
    · rw [raise_cache]
      rfl
  · have run : exec c s = .next (rangeStart op req v s) ∧ 1 ≤ op ∧ op ≤ 5 := by
      rcases which with ⟨rfl, rfl⟩ | ⟨rfl, rfl⟩ | ⟨rfl, rfl⟩ | ⟨rfl, rfl⟩ | ⟨rfl, rfl⟩ <;> exact ⟨rfl, by decide, by decide⟩
    obtain ⟨run, listed⟩ := run
    refine ⟨_, run.trans (by rw [rangeStart, when_met (by simp [go, code]), withWrite_pass may,
      rangeCtrl_starts (s := busOk 0#32 s) go stop code listed none some_ most inside]), rfl, ?_, ?_⟩
    · exact setReg_same ..
    · exact sameRegs_of_regs (sameRegs_setReg (sameRegs_of_regs (sameRegs_refl _ s) rfl) _ _ (beq_self_eq_true _)) rfl
  · have run : exec (.rangeStop req v) s = execRangeStop req v s := rfl
    rw [run, execRangeStop, when_met stop, withWrite_pass may, rangeCtrl_stops go stop]
  · have run : exec (.rangeDone .none) s = execRangeDone .none s := rfl
    refine ⟨rangeEnd 1 s, ?_, rangeEnd_shows some_ 1⟩
    rw [run, execRangeDone, when_met (by simp [alive, some_]), rangeAdvance_over some_ over_]
    dsimp only
    rw [if_pos (by simp [some_, over_])]
  · constructor
    · have run : exec (.rangeDone .dirty) s = execRangeDone .dirty s := rfl
      rw [run, execRangeDone, when_met (by simp [alive, some_])]
    · have run : exec (.rangeDone .tag) s = execRangeDone .tag s := rfl
      rw [run, execRangeDone, when_met (by simp [alive, some_])]

end Sys2Proof.Machine
end

section
set_option Elab.async false
/-! The debug port, the TAP, the analogue test buses and SMBus (O35). -/

namespace Sys2Proof.Machine

/-- A guarded write that passes the bus, with its state named. -/
theorem runs_write_to {c : Instr} {g : Bool} {o : Outside} {req : Requester} {k : Nat} {v : Word} {eff : State → State} {s : State} (t : State)
    {P : State → Prop} (run : exec c s = .next (s.when g (withWriteOut o req k v eff))) (met : g = true) (may : Writes req k s)
    (becomes : eff (busOk 0#32 s) = t) (h : P t) : Runs c s P :=
  ⟨t, by rw [run, when_met met, withWriteOut_pass may, becomes], h⟩

/-- An unguarded write that passes the bus, with its state named. -/
theorem runs_plain_to {c : Instr} {o : Outside} {req : Requester} {k : Nat} {v : Word} {eff : State → State} {s : State} (t : State)
    {P : State → Prop} (run : exec c s = .next (withWriteOut o req k v eff s)) (may : Writes req k s)
    (becomes : eff (busOk 0#32 s) = t) (h : P t) : Runs c s P :=
  ⟨t, by rw [run, withWriteOut_pass may, becomes], h⟩

theorem not_not_of {b : Bool} (h : b = true) : ¬ (!b) = true := by simp [h]

/-! ### The debug port's accesses (R529) -/

theorem portRefused_busOk (write : Bool) (a : Addr) (v : Word) (s : State) : portRefused write a (busOk v s) = portRefused write a s := rfl

/-- The error of the access before is ended: MEM_CTRL[5]. -/
def portCleared (s : State) : State := s.setBit Reg.DBG.MEM_CTRL 5 false

theorem portCleared_busOk (v : Word) (s : State) : portCleared (busOk v s) = busOk v (portCleared s) := rfl

theorem portRefused_cleared (write : Bool) (a : Addr) (s : State) :
    portRefused write a (portCleared (busOk 0#32 s)) = portRefused write a (portCleared s) := by
  rw [portCleared_busOk, portRefused_busOk]

/-- The word that the debug port addresses. -/
def portAddr (s : State) : Addr := BitVec.ofNat 40 (s.reg64 Reg.DBG.MEM_ADDR_LO)

section
variable {v : Word} {o : Outside} {s : State}

theorem memCtrl_read {t : State} (read : bit v 0 = true) (write : bit v 1 = false)
    (passes : portRefused false (portAddr s) (portCleared s) = false) (word_ : tapReadWord (portAddr s) o (portCleared s) = t)
    (made : t.bus.held = s.bus.held) : memCtrlEffect v o s = busOk 0#32 (t.setReg Reg.DBG.MEM_DATA t.bus.data) := by
  have same : ((portCleared s).bus.held.length < t.bus.held.length) = False := by
    rw [made]
    exact eq_false (Nat.lt_irrefl _)
  unfold memCtrlEffect portOutcome
  simp only [read, write, Bool.true_or, Bool.false_eq_true, if_true, if_false]
  unfold portAddr portCleared at passes word_
  unfold portCleared at same
  simp only [passes, word_, same, decide_false, Bool.or_self, Bool.false_eq_true, if_false]

theorem memCtrl_write (read : bit v 0 = false) (write : bit v 1 = true) (passes : portRefused true (portAddr s) (portCleared s) = false) :
    memCtrlEffect v o s = busOk 0#32 (tapWriteWord (portAddr s) (s.reg Reg.DBG.MEM_DATA) o (portCleared s)) := by
  have data : (portCleared s).reg Reg.DBG.MEM_DATA = s.reg Reg.DBG.MEM_DATA := setBit_other _ _ _ _ (by decide)
  unfold memCtrlEffect portOutcome
  simp only [read, write, Bool.or_true, Bool.false_eq_true, if_true, if_false]
  unfold portAddr portCleared at passes
  unfold portCleared at data
  simp only [passes, data, Bool.false_eq_true, if_false]
  rfl

theorem memCtrl_refused (read : bit v 0 = true) (write : bit v 1 = false) (refused : portRefused false (portAddr s) (portCleared s) = true) :
    ∃ u : State, memCtrlEffect v o s = busOk 0#32 (raise Page.DBG 3 5 2 {} (u.setBit Reg.DBG.MEM_CTRL 5 true)) := by
  unfold memCtrlEffect portOutcome
  simp only [read, write, Bool.true_or, Bool.false_eq_true, if_true, if_false]
  unfold portAddr portCleared at refused
  simp only [refused, if_true]
  exact ⟨_, rfl⟩

end

/-! ### Engines (R526 to R529) -/

section
variable (f : Debug → Debug) (s : State)

theorem modDbg_dbg : (modDbg f s).dbg = f s.dbg := rfl

theorem modDbg_regs : (modDbg f s).regs = s.regs := rfl

end

theorem raise_dbg (p k sev code : Nat) (pl : Payload) (s : State) : (raise p k sev code pl s).dbg = s.dbg :=
  (raise_stays p k sev code pl s).same .dbg (by decide)

theorem raise_strokes (p k sev code : Nat) (pl : Payload) (s : State) : (raise p k sev code pl s).strokes = s.strokes :=
  (raise_stays p k sev code pl s).same .strokes (by decide)

theorem setHalt_dbg (c cause pc : Nat) (s : State) : (setHalt c cause pc s).dbg =
    { s.dbg with halts := SMap.set (fun _ => 0) s.dbg.halts c cause, haltWanted := s.dbg.haltWanted.filter (· != c)
                 pcs := SMap.set (fun _ => 0) s.dbg.pcs c pc } := rfl

theorem strokeStops_dbg (c : Nat) (s : State) : (strokeStops c s).dbg = s.dbg := by
  unfold strokeStops
  split
  · rw [raise_dbg]
    rfl
  · rfl

theorem strokeGoes_dbg (c : Nat) (s : State) : (strokeGoes c s).dbg = s.dbg := by
  unfold strokeGoes
  split
  · rw [raise_dbg]
    rfl
  · rfl

/-- A Stroke core that halts notes when. -/
theorem strokeStops_halted (n : Fin 4) (s : State) :
    (SMap.get (fun _ => Stroke.reset) (strokeStops (2 + n.val) s).strokes n.val).haltAt = some s.time := by
  have place : 2 + n.val - 2 = n.val := by omega
  unfold strokeStops
  rw [if_pos (by omega), raise_strokes, place]
  exact congrArg Stroke.haltAt ((stroke_modStroke n.val _ s n.val).trans (if_pos rfl))

section
variable {v : Word} {s : State} (level : debugLevel s = 2)
include level

theorem haltEffect_taken (there : engineThere s (engSel s) = true) (runs : engineHalted s (engSel s) = false)
    (allowed : (s.dbg.haltsBarred && barredEngine (engSel s)) = false) (safe : needsForce s (engSel s) = false) :
    haltEffect v s = modDbg (fun d => { d with haltWanted := d.haltWanted.filter (· != engSel s) ++ [engSel s] }) s := by
  unfold haltEffect
  dsimp only
  rw [if_neg (by simp [level, there, runs]), if_neg (by simp [allowed, safe]), if_neg (not_of safe)]

theorem haltEffect_barred (there : engineThere s (engSel s) = true) (runs : engineHalted s (engSel s) = false)
    (barred : (s.dbg.haltsBarred && barredEngine (engSel s)) = true) : haltEffect v s = raise Page.DBG 2 5 0 {} s := by
  unfold haltEffect
  dsimp only
  rw [if_neg (by simp [level, there, runs]), if_pos (by rw [barred]; rfl)]

theorem resumeEffect_taken (halted : engineHalted s (engSel s) = true) :
    resumeEffect s = strokeGoes (engSel s) (modDbg (fun d => { d with halts := SMap.set (fun _ => 0) d.halts (engSel s) 0 }) s) := by
  unfold resumeEffect
  dsimp only
  rw [if_neg (by simp [level, halted])]

end

theorem regDataRead_low {s : State} {x : BitVec 64} (halted : engineHalted s (engSel s) = true)
    (known : SMap.get (fun _ => none) s.dbg.regs (regPlace s) = some x) (req : Requester) :
    regDataRead req false s = (loWord x.toNat, latch req Reg.DBG.REG_DATA_HI (some (hiWord x.toNat)) s) := by
  unfold regDataRead engineReg
  rw [if_neg (by simp [halted]), known]
  rfl

theorem regDataWrite_high {s : State} {req : Requester} {lo : Word} (halted : engineHalted s (engSel s) = true)
    (kept : SMap.get (fun _ => none) s.bus.lowWrites (latchKey req Reg.DBG.REG_DATA_HI) = some lo) (v : Word) :
    regDataWrite req true v s =
      modDbg (fun d => { d with regs := SMap.set (fun _ => none) d.regs (regPlace s) (some (BitVec.ofNat 64 (ofWords lo v))) }) s := by
  unfold regDataWrite lowWritten
  rw [if_neg (by simp [halted]), if_neg (by decide), kept]

theorem latched_latch (req : Requester) (k : Nat) (w : Option Word) (s : State) : latched req k (latch req k w s) = w :=
  (SMap.get_set ..).trans (if_pos rfl)

/-! ### The analogue test buses (R533 to R535) -/

/-- A selection is stored, whatever its node. -/
theorem atbStore_shows {k o c : Nat} (row : regRow (k / 0x1000) (k % 0x1000) = some ⟨o, c, .rw, 0#32, 0x1F3F#32, []⟩)
    (k_ne : k ≠ Reg.EV_PEND Page.ATB) (b : Nat) (v : Word) (s : State) :
    (atbStore b k v s).reg k = ((s.reg k &&& ~~~ 0x1F3F#32) ||| (v &&& 0x1F3F#32))
      ∧ SameRegs (fun j => j == k || j == Reg.EV_PEND Page.ATB) s (atbStore b k v s) := by
  have stored := storeWrite_rw row v s
  have same := sameRegs_setReg (s := s) (q := fun j => j == k || j == Reg.EV_PEND Page.ATB) (sameRegs_refl _ s) k
    ((s.reg k &&& ~~~ 0x1F3F#32) ||| (v &&& 0x1F3F#32)) (by simp)
  unfold atbStore
  dsimp only
  rw [stored]
  split
  · exact ⟨(raise_reg _ k_ne).trans (setReg_same ..), sameRegs_raise same _ _ _ _ _ (by simp)⟩
  · exact ⟨(raise_reg _ k_ne).trans (setReg_same ..), sameRegs_raise same _ _ _ _ _ (by simp)⟩

theorem atbEffect_first {s : State} (level : debugLevel s ≠ 0) (req : Requester) (v : Word) :
    atbEffect req false v s = atbStore 0 Reg.ATB.ATB0_SEL v s := by
  unfold atbEffect
  rw [if_pos (by decide), if_neg level]

theorem atbEffect_second {s : State} {req : Requester} {v : Word} (holder : fld v 5 0 = 0 ∨ holds req 7 1 s = true) :
    atbEffect req true v s = atbStore 1 Reg.ATB.ATB1_SEL v s := by
  unfold atbEffect
  rw [if_neg (by decide), if_pos holder]

/-! ### The settlement -/

/-- Settles O35. -/
theorem debugCommands : Obligations.DebugCommands := by
  refine ⟨fun s req v may chal submit alive => ?_, fun s req v may chal submit alive => ?_, fun s req v o may read write passes => ?_,
    fun s req v o may read write passes => ?_, fun s req v o may read write refused => ?_,
    fun s req v may halt level there runs allowed safe => ?_, fun s req v may halt level there runs barred => ?_,
    fun s e pc wanted there => ?_, fun s req v may halt resume level halted => ?_, fun s req v pc may halt resume step level halted => ?_,
    fun s e pc n level there runs hn at_ => ?_, fun s req x may halted known => ?_, fun s req v lo may halted kept => ?_,
    fun s p write a v o k tap word_ => ?_, fun s p tap => ?_, fun s p bits tap => ?_, fun s p capture load tap level => ?_,
    fun s p tap level ok => ?_, fun s p tap level ok => ?_, fun s on => ?_, fun s => ?_, fun s req v may level => ?_,
    fun s req v may holder => ?_, fun s on => ?_⟩
  · have run : exec (.chalReq req v) s = execChalReq req v s := rfl
    rw [run, execChalReq, when_met chal, withWrite_pass may, certCtrlEffect,
      if_neg (not_not_of (show blockAlive (busOk 0#32 s) Page.KEYS = true from alive))]
    simp only [chal, submit, if_true, Bool.false_eq_true, if_false]
  · have run : exec (.certSubmit req v) s = execCertSubmit req v s := rfl
    rw [run, execCertSubmit, when_met (by simp [chal, submit]), withWrite_pass may, certCtrlEffect,
      if_neg (not_not_of (show blockAlive (busOk 0#32 s) Page.KEYS = true from alive))]
    simp only [chal, submit, if_true, Bool.false_eq_true, if_false]
  · intro a t made
    have run : exec (.memRead req v o) s = execMemRead req v o s := rfl
    rw [run, execMemRead, when_met read, withWriteOut_pass may, memCtrl_read (s := busOk 0#32 s) read write
      ((portRefused_cleared ..).trans passes) (t := t) rfl made]
  · have run : exec (.memWrite req v o) s = execMemWrite req v o s := rfl
    rw [run, execMemWrite, when_met write, withWriteOut_pass may, memCtrl_write (s := busOk 0#32 s) read write
      ((portRefused_cleared ..).trans passes)]
    rfl
  · obtain ⟨u, made⟩ := memCtrl_refused (o := o) (s := busOk 0#32 s) read write refused
    refine runs_write_to _ (c := .memRead req v o) rfl read may made ?_
    refine (bit_of_reg (raise_reg _ (by decide)) 5).trans ?_
    exact bit_of_setBit _ _ _ _ (by decide)
  · refine runs_write_to _ (c := .engineHalt req v) rfl halt may (haltEffect_taken (s := busOk 0#32 s) level there runs allowed safe) ?_
    exact ⟨rfl, rfl⟩
  · refine runs_write_to _ (c := .engineHalt req v) rfl halt may (haltEffect_barred (s := busOk 0#32 s) level there runs barred) ?_
    exact ⟨raise_dbg .., sameRegs_raise (u := busOk 0#32 s) (sameRegs_of_regs (sameRegs_refl _ s) rfl) Page.DBG 2 5 0 {} (by decide)⟩
  · refine runs_to (raise Page.DBG 0 0 e {} (strokeStops e (setHalt e 1 pc s))) (c := .halted e pc) rfl (by simp only [wanted, there]; rfl) rfl ?_
    refine ⟨by rw [raise_dbg, strokeStops_dbg, setHalt_dbg], fun n at_ => ?_⟩
    rw [raise_strokes, at_]
    exact strokeStops_halted n (setHalt (2 + n.val) 1 pc s)
  · refine runs_write_to _ (c := .engineResume req v) rfl (by simp [halt, resume]) may (resumeEffect_taken (s := busOk 0#32 s) level halted) ?_
    rw [strokeGoes_dbg]
    rfl
  · refine runs_write_to (raise Page.DBG 0 0 (engSel s) {} (setHalt (engSel s) 3 pc (busOk 0#32 s))) (c := .engineStep req v pc) rfl
      (by simp [halt, resume, step]) may ?_ ?_
    · exact if_neg (show ¬ (debugLevel s ≠ 2 ∨ (!engineHalted s (engSel s)) = true) by simp [level, halted])
    · rw [raise_dbg, setHalt_dbg]
      rfl
  · refine runs_to (raise Page.DBG 1 0 0 ⟨loWord pc, hiWord pc, 0#32⟩ (strokeStops e (setHalt e 2 pc s))) (c := .breakpoint e pc) rfl ?_ rfl ?_
    · have some_ : (List.range 4).any (breakpointAt s e pc) = true := List.any_eq_true.2 ⟨n, List.mem_range.2 hn, at_⟩
      simp [level, there, runs, some_]
    · rw [raise_dbg, strokeStops_dbg, setHalt_dbg]
  · have run : exec (.regDataAccess req false false 0#32) s = .next (withRead req Reg.DBG.REG_DATA_LO (regDataRead req false) s) := rfl
    refine ⟨busOk (loWord x.toNat) (latch req Reg.DBG.REG_DATA_HI (some (hiWord x.toNat)) s),
      run.trans (by rw [withRead_pass may, regDataRead_low halted known]), rfl, rfl, rfl, ?_⟩
    exact latched_latch req Reg.DBG.REG_DATA_HI (some (hiWord x.toNat)) s
  · refine runs_plain_to _ (c := .regDataAccess req true true v) rfl may (regDataWrite_high (s := busOk 0#32 s) halted kept v) ?_
    rfl
  · have run : exec (.dbgAccess p write a v o) s = execDbgAccess p write a v o s := rfl
    constructor
    · intro hw
      rw [run, execDbgAccess, when_met tap, word_]
      dsimp only
      rw [if_pos hw]
    · intro hw
      refine ⟨_, run.trans (by rw [execDbgAccess, when_met tap, word_]), ?_⟩
      dsimp only
      rw [if_neg (not_of hw)]
      exact ⟨rfl, rfl, rfl⟩
  · refine runs_to (tapShift (bitList 32 (idCode s)) s) (c := .idcode p) rfl tap rfl ⟨rfl, rfl⟩
  · refine runs_to (passBypass bits s) (c := .bypass p bits) rfl tap rfl ⟨rfl, rfl⟩
  · refine runs_to (modDbg (fun d => { d with chain := load }) (tapShift capture s)) (c := .samplePreload p capture load) rfl
      (by simp [tap, level]) rfl ⟨rfl, rfl⟩
  · refine runs_to (modDbg (fun d => { d with extest := true }) s) (c := .extest p) rfl (by simp [tap, level]) (if_pos ok) ⟨rfl, rfl⟩
  · refine runs_to (raise Page.DBG 3 5 3 {} (passBypass [] s)) (c := .extest p) rfl (by simp [tap, level]) (if_neg (not_of ok)) ?_
    rw [raise_dbg]
    exact ⟨rfl, rfl⟩
  · refine runs_to (modDbg (fun d => { d with adapter := true }) s) (c := .adapterActivation true true) rfl (by simp [on]) rfl ⟨rfl, rfl⟩
  · exact ⟨modDbg (fun d => { d with adapter := false }) s, rfl, rfl, rfl⟩
  · refine runs_plain_to (atbStore 0 Reg.ATB.ATB0_SEL v (busOk 0#32 s)) (c := .atbSelect req false v) rfl may ?_ ?_
    · exact atbEffect_first (s := busOk 0#32 s) level req v
    · obtain ⟨stored, same⟩ := atbStore_shows (k := Reg.ATB.ATB0_SEL) (o := 0x40) (c := 1) (by decide) (by decide) 0 v (busOk 0#32 s)
      exact ⟨stored, same⟩
  · refine runs_plain_to (atbStore 1 Reg.ATB.ATB1_SEL v (busOk 0#32 s)) (c := .atbSelect req true v) rfl may ?_ ?_
    · exact atbEffect_second (s := busOk 0#32 s) holder
    · obtain ⟨stored, same⟩ := atbStore_shows (k := Reg.ATB.ATB1_SEL) (o := 0x44) (c := 1) (by decide) (by decide) 1 v (busOk 0#32 s)
      exact ⟨stored, same⟩
  · have answers (c : Instr) (bytes : State → List Byte) (run : exec c s = smbusRead bytes s) :
        exec c s = .next { s with smbus := ⟨bytes s, false⟩ } := by rw [run, smbusRead, when_met on]
    have nack (c : BitVec 8) (w : Bool) (bad : w = true ∨ 6 < c.toNat) : exec (.smbusNack c w) s = .next { s with smbus := ⟨[], true⟩ } := by
      have run : exec (.smbusNack c w) s = execSmbusNack c w s := rfl
      rw [run, execSmbusNack, when_met (by simpa [on] using bad)]
    refine ⟨answers .smbusPart (fun s => toBytes 2 (if otpPart s then 0x4820 else 0x4840)) rfl,
      answers .smbusMode (fun s => toBytes 1 (mode s)) rfl,
      answers .smbusDriveTemp (fun s => toBytes 2 (if s.bit Reg.HDA.TEMP 31 then s.fld Reg.HDA.TEMP 15 0 else 0x8000)) rfl,
      fun x => answers (.smbusCoreTemp x) (fun _ => toBytes 2 (toField 16 x)) rfl,
      answers .smbusRigTemp (fun s => toBytes 2 (s.fld Reg.DRV.RIG_TEMP 15 0)) rfl,
      answers .smbusStatus (fun s => toBytes 1 ((if readyOut s then 1 else 0) + (if pwrFailing s then 2 else 0)
        + (if wbActive s then 4 else 0) + (if s.bit Reg.SAFE.HEALTH_STATUS 0 then 8 else 0))) rfl,
      answers .smbusSerial (fun s => (toBytes 8 (deviceSerial s)).reverse) rfl, fun c => nack c true (.inl rfl), fun c w high => nack c w (.inr high), fun ms long => ?_⟩
    have run : exec (.smbusTimeout ms) s = execSmbusTimeout ms s := rfl
    rw [run, execSmbusTimeout, when_met (by simp [on, long])]

end Sys2Proof.Machine
end

section
set_option Elab.async false
/-! Gate and Sweep (O36). -/

namespace Sys2Proof.Machine

/-! ### Gate's runs (R253 to R262) -/

section
variable (a : Nat) (s : State)

@[simp] theorem gate_modGate (f : Gate → Gate) : gate (modGate a f s) a = f (gate s a) := (SMap.get_set ..).trans (if_pos rfl)

theorem modGate_regs (f : Gate → Gate) : (modGate a f s).regs = s.regs := rfl

theorem modGate_reg (f : Gate → Gate) (k : Nat) : (modGate a f s).reg k = s.reg k := rfl

theorem gate_count (k n b : Nat) : gate (s.count k n) b = gate s b := rfl

theorem setSectorHeld_runs (c n : Nat) : (gate (setSectorHeld a c n s) a).runs = (gate s a).runs := by rw [setSectorHeld, gate_modGate]

theorem sectorHeld_set (c n : Nat) : sectorHeld (setSectorHeld a c n s) a c = n := by
  rw [sectorHeld, setSectorHeld, gate_modGate]
  exact (SMap.get_set ..).trans (if_pos rfl)

end

/-- A run as Gate admits it (R253). -/
def admittedRun (a : Nat) (it : QItem) (t : State) : Run :=
  { id := (gate t a).nextId, words := it.words, port := it.port, cls := runClass it.port it.words, since := t.time, aged := 0
    todo := [(0, runCount it.words)], ended := 0, lastings := 0, first := none, poisoned := false, started := false, quiet := false }

/-- Gate with the run in its pool. -/
def runPooled (a : Nat) (it : QItem) (t : State) : State :=
  setSectorHeld a (runClass it.port it.words) (sectorHeld t a (runClass it.port it.words) + runCount it.words)
    (modGate a (fun g => { g with runs := g.runs ++ [admittedRun a it t], nextId := (gate t a).nextId + 1 }) t)

theorem runPooled_shows (a : Nat) (it : QItem) (t : State) : (gate (runPooled a it t) a).runs = (gate t a).runs ++ [admittedRun a it t]
    ∧ sectorHeld (runPooled a it t) a (runClass it.port it.words) = sectorHeld t a (runClass it.port it.words) + runCount it.words
    ∧ (runPooled a it t).regs = t.regs := by
  refine ⟨?_, sectorHeld_set .., rfl⟩
  rw [runPooled, setSectorHeld_runs, gate_modGate]

/-- A run that has aged to level 7 (R260). -/
def runAgedOut (a : Nat) (r : Run) (s : State) : State :=
  let aged := modRun a r.id (fun x => { x with aged := x.aged + 1 }) s
  (modGate a (fun g => { g with agedTime := some s.time })
    (if quietFor1ms (gate s a).agedTime s then raise (Page.GATE a) 2 0 0 {} aged else aged)).count (Reg.GATE.AGED_COUNT a) 1

theorem runAgedOut_shows (a : Nat) (r : Run) (s : State) : (gate (runAgedOut a r s) a).agedTime = some s.time
    ∧ (runAgedOut a r s).reg (Reg.GATE.AGED_COUNT a) = word (satAdd 0xFFFFFFFF (s.reg (Reg.GATE.AGED_COUNT a)).toNat 1) := by
  unfold runAgedOut
  constructor
  · rw [gate_count, gate_modGate]
  · rw [reg_count, if_pos rfl, modGate_reg]
    split
    · rw [raise_reg _ (header_ne (by decide))]
      rfl
    · rfl

/-! ### Sweep's slots and lanes (R266 to R281) -/

section
variable (s : State)

theorem modSweep_regs (f : Sweep → Sweep) : (modSweep f s).regs = s.regs := rfl

theorem decSlot_setDec (n : Nat) (x : Option DecSlot) : decSlot (setDec n x s) n = x := (SMap.get_set ..).trans (if_pos rfl)

theorem decLane_setLane (l : Nat) (x : Option Lane) : decLane (setLane l x s) l = x := (SMap.get_set ..).trans (if_pos rfl)

theorem decSlot_setLane (l n : Nat) (x : Option Lane) : decSlot (setLane l x s) n = decSlot s n := rfl

theorem decSlot_laneBusy (l ns n : Nat) : decSlot (laneBusy l ns s) n = decSlot s n := rfl

variable {s}

theorem modDec_some {n : Nat} {x : DecSlot} (h : decSlot s n = some x) (f : DecSlot → DecSlot) : modDec n f s = setDec n (some (f x)) s := by
  unfold modDec
  rw [h]

/-- Work that a lane takes (R270, R271). -/
def laneTakes (l n : Nat) (x : DecSlot) (s : State) : State :=
  setLane l (some ⟨n, x.state == 4, passBudget s x, slotInput x, targetTaps x.target, minSum s⟩)
    (modDec n (fun y => { y with state := 3 }) (modSweep (fun w =>
      { w with saved := SMap.set (fun _ => none) w.saved n (some x), lastStream := if x.state == 4 then x.oar else w.lastStream }) s))

theorem laneTakes_shows {l n : Nat} {x : DecSlot} (slot : decSlot s n = some x) :
    decLane (laneTakes l n x s) l = some ⟨n, x.state == 4, passBudget s x, slotInput x, targetTaps x.target, minSum s⟩
      ∧ decSlot (laneTakes l n x s) n = some { x with state := 3 } ∧ (laneTakes l n x s).regs = s.regs := by
  have kept : decSlot (modSweep (fun w =>
      { w with saved := SMap.set (fun _ => none) w.saved n (some x), lastStream := if x.state == 4 then x.oar else w.lastStream }) s) n
        = some x := slot
  unfold laneTakes
  rw [modDec_some kept]
  exact ⟨decLane_setLane .., (decSlot_setLane ..).trans (decSlot_setDec ..), rfl⟩

/-- What a free lane with work does. -/
theorem laneDispatch_eq {l n : Nat} {x : DecSlot} (alive : sweepAlive s = true) (free : laneFree s l = true)
    (work : nextWork s l = some (n, x)) (first : ((List.range l).any fun j => laneFree s j && (nextWork s j).isSome) = false) (bad : Bool) :
    exec (.laneDispatch l bad) s = .next (if sliceSpent s x then readFailed n (decide (x.rung ≤ 2)) s
      else if bad then slotParity n x s else laneTakes l n x s) := by
  have run : exec (.laneDispatch l bad) s = execLaneDispatch l bad s := rfl
  rw [run, execLaneDispatch, when_met (by simp [alive, free])]
  simp only [first, work, Option.isNone_some, Bool.false_eq_true, if_false]
  rfl

/-- The end of a pass or slice whose result stands (R266). -/
theorem endPass_stands {l : Nat} {slice : Bool} {r : DecodeEnd} {x : Lane} {d : DecSlot} {from_ : Decoder} {out}
    (lane : decLane s l = some x) (slot : decSlot s x.slot = some d) (unrejected : d.badLane = none) (kind : x.slice = slice)
    (state : (if slice then d.decoder else Decoder.fresh) = from_)
    (run : laneRun (if slice then x.offsets.2 else x.offsets.1) x.budget r.soft from_ = some out)
    (stands : (out.converged && !syndromeZero (invertBits out.bits r.flips)) = false) :
    endPass l slice r s =
      let busy := laneBusy l ((if slice then 128 else 256) + 768 * r.soft.length) (setLane l none s)
      let done := modDec x.slot (fun y => { y with badLane := none, iters := if slice then y.iters + r.soft.length else 0
                                                   decoder := out.decoder }) busy
      askWrite d.oar (actOnPass x.slot (passEnd out.converged (invertBits out.bits r.flips))
        (if slice then done else countFirst r.soft.length (passEnd out.converged (invertBits out.bits r.flips)) done)) := by
  have kept (n : Nat) : decSlot (laneBusy l n (setLane l none s)) x.slot = some d := slot
  subst state
  unfold endPass
  rw [lane]
  simp only [slot, kind, Option.map_some, Option.getD_some, if_true, run, stands, kept, unrejected, Bool.false_eq_true, if_false]

theorem endPass_rejected {l : Nat} {r : DecodeEnd} {x : Lane} {out} (lane : decLane s l = some x) (kind : x.slice = false)
    (run : laneRun x.offsets.1 x.budget r.soft Decoder.fresh = some out)
    (rejected : (out.converged && !syndromeZero (invertBits out.bits r.flips)) = true) :
    endPass l false r s = laneRejected l x.slot (laneBusy l (256 + 768 * r.soft.length) (setLane l none s)) := by
  unfold endPass
  rw [lane]
  simp only [kind, if_true, run, rejected, Bool.false_eq_true, if_false]

end

/-! ### The settlement -/

/-- Settles O36. -/
theorem runAndLaneCommands : Obligations.RunAndLaneCommands := by
  refine ⟨fun s a it x t ha takes front credit next => ?_, fun s a k r hk ha takes loud => ?_, fun s a k t hk ha takes loud => ?_,
    fun s a r runs found => ?_, fun s a r runs => ?_, fun s a g alive runs ready offer => ?_,
    fun s l n x alive free work slot first => ?_, fun s l x d r out alive lane slot unrejected kind run stands => ?_,
    fun s l x d r out alive lane slot unrejected kind run stands => ?_, fun s l x d r out alive lane slot kind run conv bad => ?_,
    fun s n x e alive slot at_ kind rung state few held passage => ?_, fun s n x alive slot kind fresh due => ?_,
    fun s req v may => ?_⟩
  · have run : exec (.runAdmit a) s = execRunAdmit a s := rfl
    constructor
    · intro code fault
      rw [run, execRunAdmit, when_met (by simp [ha, takes]), front]
      dsimp only
      rw [if_neg (by simp [credit]), next]
      dsimp only
      rw [fault]
    · intro fault
      refine ⟨runPooled a it t, ?_, runPooled_shows a it t⟩
      rw [run, execRunAdmit, when_met (by simp [ha, takes]), front]
      dsimp only
      rw [if_neg (by simp [credit]), next]
      dsimp only
      rw [fault]
      rfl
  · intro s1 avail up room own picked
    have run : exec (.gatePick a k) s = execGatePick a k s := rfl
    rw [run, execGatePick, when_met (by simp [hk, ha, takes, loud])]
    dsimp only
    have settled : gateSettle a s = s1 := rfl
    rw [settled, when_met (Bool.and_eq_true_iff.2 ⟨Bool.and_eq_true_iff.2 ⟨avail, up⟩, decide_eq_true room⟩), own]
    dsimp only
    rw [picked]
  · intro s1 avail up room own
    have run : exec (.gatePick a k) s = execGatePick a k s := rfl
    rw [run, execGatePick, when_met (by simp [hk, ha, takes, loud])]
    dsimp only
    have settled : gateSettle a s = s1 := rfl
    rw [settled, when_met (Bool.and_eq_true_iff.2 ⟨Bool.and_eq_true_iff.2 ⟨avail, up⟩, decide_eq_true room⟩), own]
  · have run : exec (.runAge a) s = execRunAge a s := rfl
    constructor
    · intro low
      rw [run, execRunAge, when_met runs]
      dsimp only
      rw [found]
      dsimp only
      rw [if_pos low]
    · intro top
      refine ⟨runAgedOut a r s, ?_, runAgedOut_shows a r s⟩
      rw [run, execRunAge, when_met runs]
      dsimp only
      rw [found]
      dsimp only
      rw [if_neg (by omega)]
      rfl
  · intro s1 found s2
    have run : exec (.runEnd a) s = execRunEnd a s := rfl
    rw [run, execRunEnd, when_met runs]
    dsimp only
    rw [found]
  · have run : exec (.rudderGroup a) s = execRudderGroup a s := rfl
    rw [run, execRudderGroup, when_met (by simp [alive, runs]), if_neg (not_of ready), offer]
  · have run := laneDispatch_eq alive free work first
    refine ⟨fun fits => ?_, fun fits => ?_, fun spent b => ?_⟩
    · refine ⟨laneTakes l n x s, (run false).trans ?_, laneTakes_shows slot⟩
      rw [if_neg (not_of fits), if_neg (by decide)]
    · rw [run, if_neg (not_of fits), if_pos rfl]
    · rw [run, if_pos spent]
  · have step : exec (.decodeEnd l r) s = execDecodeEnd l r s := rfl
    intro e
    rw [step, execDecodeEnd, when_met alive, endPass_stands lane slot unrejected kind rfl run stands]
    simp only [Bool.false_eq_true, if_false]
    rfl
  · have step : exec (.sliceEnd l r) s = execSliceEnd l r s := rfl
    rw [step, execSliceEnd, when_met alive, endPass_stands lane slot unrejected kind rfl run stands]
    simp only [if_true]
  · have step : exec (.decodeEnd l r) s = execDecodeEnd l r s := rfl
    rw [step, execDecodeEnd, when_met alive, endPass_rejected lane kind run (by simp [conv, bad])]
  · have run : exec (.reequalise n x.requal) s = execReequalise n x.requal s := rfl
    refine ⟨setDec n (some { x with state := 2, since := s.time, requal := x.requal + 1
                                    cur := reequalised s x.oar e (rungWeights x.requal).1 (rungWeights x.requal).2 (heldRaw s x.oar x.entry) }) s,
      ?_, decSlot_setDec .., rfl⟩
    rw [run, execReequalise, when_met alive, slot]
    dsimp only
    rw [at_]
    dsimp only
    rw [when_met (by simp [kind, rung, state, few, held, passage]), modDec_some slot]
  · have run : exec (.ladderTimeout n) s = execLadderTimeout n s := rfl
    have expires : exec (.ladderTimeout n) s = .next
        (if x.state == 2 || x.state == 3 || (oar s x.oar).passage == some (x.entry, false) then modDec n (fun y => { y with expired := true }) s
          else unreadable n 6 (withdrawRecover x (modDec n (fun y => { y with expired := true }) s))) := by
      rw [run, execLadderTimeout, when_met alive, slot]
      dsimp only
      rw [when_met (by simp [kind, fresh, due])]
    constructor
    · intro working
      refine ⟨setDec n (some { x with expired := true }) s, ?_, decSlot_setDec .., rfl⟩
      rw [expires, if_pos (by rcases working with h | h <;> simp [h]), modDec_some slot]
    · intro s2 s3 passage
      rw [expires, if_neg (by simp [s2, s3, passage])]
  · have run : exec (.laneEnWrite req v) s = execLaneEnWrite req v s := rfl
    constructor
    · intro some_
      refine ⟨(busOk 0#32 s).setFld Reg.SWEEP.LANE_EN 11 0 (fld v 11 0), ?_, ?_, rfl, ?_⟩
      · rw [run, execLaneEnWrite, withWrite_pass may, if_neg some_]
      · rw [fld_of_setFld _ _ _ _ _ (by decide)]
        exact Nat.mod_eq_of_lt (fld_lt ..)
      · exact sameRegs_setFld (u := busOk 0#32 s) (sameRegs_of_regs (sameRegs_refl _ s) rfl) _ _ _ _ (beq_self_eq_true _)
    · intro none
      refine ⟨busOk 0#32 s, ?_, rfl, rfl⟩
      rw [run, execLaneEnWrite, withWrite_pass may, if_pos none]

end Sys2Proof.Machine
end

section
set_option Elab.async false
/-! Units, hazards and intake (O37). -/

namespace Sys2Proof.Machine

/-! ### Hazard entries (R429 to R436) -/

section
variable (s : State)

theorem hazEntry_setHaz (e : Nat) (x : Option HazEntry) : hazEntry (setHaz e x s) e = x := (SMap.get_set ..).trans (if_pos rfl)

theorem hazEntry_of_slip {s t : State} (h : t.slip = s.slip) (e : Nat) : hazEntry t e = hazEntry s e :=
  congrArg (fun r : Slip => SMap.get (fun _ => none) r.haz e) h

theorem raise_slip (p k sev code : Nat) (pl : Payload) : (raise p k sev code pl s).slip = s.slip :=
  (raise_stays p k sev code pl s).same .slip (by decide)

theorem enterHaz_entry (e : Nat) (x : HazEntry) : hazEntry (enterHaz e x s) e = some { x with order := s.slip.nextOrder } := by
  unfold enterHaz
  dsimp only
  rw [hazEntry_of_slip ((State.mark_stays ..).same .slip (by decide)), hazEntry_setHaz]

theorem sameRegs_mark {q : Nat → Bool} {s t : State} (h : SameRegs q s t) (k hi lo n : Nat) (hk : q k = true) :
    SameRegs q s (t.mark k hi lo n) := by
  unfold State.mark
  split
  · exact sameRegs_setFld h _ _ _ _ hk
  · exact h

theorem sameRegs_enterHaz {q : Nat → Bool} (hwm : q Reg.HAZ.HAZ_HWM = true) (e : Nat) (x : HazEntry) : SameRegs q s (enterHaz e x s) := by
  have placed : SameRegs q s (setHaz e (some { x with order := s.slip.nextOrder }) (modSlip (fun r => { r with nextOrder := r.nextOrder + 1 }) s)) :=
    fun _ _ => rfl
  exact sameRegs_mark placed Reg.HAZ.HAZ_HWM 12 0 _ hwm

theorem hazResult_slip (outcome code e : Nat) : (hazResult outcome code e s).slip = s.slip := rfl

theorem hazRefused_shows (code : Nat) : (hazRefused code s).slip = s.slip
    ∧ (hazRefused code s).reg Reg.HAZ.FW_RESULT = word (3 + code * 4 + 0 % 4096 * 65536)
    ∧ SameRegs (fun k => k == Reg.HAZ.FW_RESULT || k == Reg.EV_PEND Page.HAZ) s (hazRefused code s) := by
  unfold hazRefused
  refine ⟨raise_slip .., ?_, ?_⟩
  · rw [raise_reg _ (by decide)]
    exact setReg_same ..
  · exact sameRegs_raise (sameRegs_setReg (sameRegs_refl _ s) _ _ (by simp)) _ _ _ _ _ (by simp)

end

/-- The firmware entry that FW_CMD asks for (R434). -/
def fwHaz (v : Word) (s : State) : HazEntry :=
  { lu := fld v 5 0, write := bit v 7, ordered := (taskAt s (fld v 20 8)).any (·.attr == 2), fw := true, task := fld v 20 8
    lba := s.reg64 Reg.HAZ.FW_LBA_LO, blocks := (s.reg Reg.HAZ.FW_COUNT).toNat, order := s.slip.nextOrder, waiting := false }

/-- Whether it must wait. -/
def fwWaits (v : Word) (s : State) : Bool := (hazList s).any fun y => overlaps s (fwHaz v s) y.2

theorem hazEnter_eq {req : Requester} {v : Word} {e : Nat} {s : State} (may : Writes req Reg.HAZ.FW_CMD s) (op : fld v 29 28 = 1)
    (free : hazFree s = some e) (some_ : (s.reg Reg.HAZ.FW_COUNT).toNat ≠ 0)
    (top : s.reg64 Reg.HAZ.FW_LBA_LO + (s.reg Reg.HAZ.FW_COUNT).toNat ≤ 0x10000000000000000) (task : fld v 20 8 < 8192) :
    exec (.hazEnter req v) s = .next (hazResult (if fwWaits v (busOk 0#32 s) then 2 else 1) 0 e
      (enterHaz e { fwHaz v (busOk 0#32 s) with waiting := fwWaits v (busOk 0#32 s) } (busOk 0#32 s))) := by
  have run : exec (.hazEnter req v) s = execHazEnter req v s := rfl
  have free' : hazFree (busOk 0#32 s) = some e := free
  have ok : ¬ ((((busOk 0#32 s).reg Reg.HAZ.FW_COUNT).toNat = 0 ∨
      2 ^ 64 < (busOk 0#32 s).reg64 Reg.HAZ.FW_LBA_LO + ((busOk 0#32 s).reg Reg.HAZ.FW_COUNT).toNat) ∨ 8192 ≤ fld v 20 8) := by
    have fits : ¬ 2 ^ 64 < s.reg64 Reg.HAZ.FW_LBA_LO + (s.reg Reg.HAZ.FW_COUNT).toNat := by omega
    rintro ((none | over_) | big)
    · exact some_ none
    · exact fits over_
    · omega
  rw [run, execHazEnter, hazCommand, when_met (by simp [op]), withWrite_pass may, free']
  dsimp only
  rw [if_neg (by rwa [← or_assoc])]
  rfl

/-! ### The commands of the LU table (R417) -/

section
variable (s : State)

theorem lu_setLu (n : Nat) (x : Option Lu) : lu (setLu n x s) n = x := (SMap.get_set ..).trans (if_pos rfl)

theorem lutRefused_shows (req : Requester) (n code : Nat) : (lutRefused req n code s).slip = s.slip
    ∧ (lutRefused req n code s).reg Reg.LUT.CMD_RESULT = word (2 + code % 16 * 16)
    ∧ SameRegs (fun k => k == Reg.LUT.CMD_RESULT || k == Reg.EV_PEND Page.LUT) s (lutRefused req n code s) := by
  unfold lutRefused
  refine ⟨raise_slip .., ?_, ?_⟩
  · rw [raise_reg _ (by decide)]
    exact setReg_same ..
  · exact sameRegs_raise (sameRegs_setReg (sameRegs_refl _ s) _ _ (by simp)) _ _ _ _ _ (by simp)

end

/-- A write of LUT.CMD with a listed operation. -/
theorem lutCommand_pass {op : Nat} {req : Requester} {v : Word} {s : State} (may : Writes req Reg.LUT.CMD s) (code : fld v 10 8 = op)
    (f : Nat → State → State) : lutCommand op req v f s = f (fld v 5 0) (busOk 0#32 s) := by
  rw [lutCommand, when_met (by simp [code]), withWrite_pass may]

theorem allowed_of {p : Nat} {req : Requester} (h : p = 0 ∨ req = .cox) : ¬ (p ≠ 0 ∧ req ≠ .cox) := by
  rintro ⟨h1, h2⟩
  exact h.elim h1 h2

/-! ### Intake (R400, R401) -/

/-- What a command frame of a known unit does. -/
theorem commandFrame_eq {lane n lun : Nat} {f : CommandFrame} {s : State} (serves : laneServes s lane n = true) (known : frameLun f = some lun) :
    exec (.commandFrame lane n f) s = .next (if (taskOf s n f.tag).isSome then
      hostDrain (replyFrame lane n f.tag false 2 (checkCondition s lun 0xB 0x4E 0 none).sense (endNexusTasks n s))
      else acceptCommand lane n lun f s) := by
  have run : exec (.commandFrame lane n f) s = execCommandFrame lane n f s := rfl
  rw [run, execCommandFrame, when_met serves, known]

theorem acceptCommand_taken {lane n lun i : Nat} {f : CommandFrame} {s v : State} (free : freeTaskIndex s = some i)
    (room : (heldTasks s).length < 8192)
    (taken : qPush .intake (0x2C + lane) (intakePacket s (newTask s i n lane lun f)) s = some (v, .taken)) :
    (acceptCommand lane n lun f s).slip.tasks = v.slip.tasks ++ [newTask s i n lane lun f]
      ∧ (acceptCommand lane n lun f s).slip.nextId = v.slip.nextId + 1 ∧ (acceptCommand lane n lun f s).regs = v.regs := by
  unfold acceptCommand
  rw [free]
  dsimp only
  rw [if_neg (by omega), taken]
  exact ⟨rfl, rfl, rfl⟩

/-! ### The settlement -/

/-- Settles O37. -/
theorem unitAndIntakeCommands : Obligations.UnitAndIntakeCommands := by
  refine ⟨fun s req v e may op free some_ top task => ?_, fun s req v may op mine => ?_, fun s req v may op mine => ?_,
    fun s y on found => ?_, fun s req v may op => ?_, fun s req v ws es s1 s2 may op root fresh fetched extents format mode key fits => ?_,
    fun s req v may op root known => ?_, fun s req v u may op known live mode => ?_, fun s n u known gone idle => ?_,
    fun s req v u ws es s1 s2 may op known live root fetched extents update fits => ?_, fun s req v may op => ?_,
    fun s lane n f lun serves known => ?_, fun s lane n lun f i v serves known fresh free room taken => ?_,
    fun s it x after t u alive on => ?_, fun s alive on full => ?_, fun s t ts alive waiters => ?_⟩
  · refine ⟨_, hazEnter_eq may op free some_ top task, { fwHaz v (busOk 0#32 s) with waiting := fwWaits v (busOk 0#32 s) },
      fwWaits v (busOk 0#32 s), ?_, rfl, rfl, rfl, rfl, rfl, rfl, rfl, rfl, setReg_same .., ?_⟩
    · rw [hazEntry_of_slip (hazResult_slip ..), enterHaz_entry]
      rfl
    · refine sameRegs_setReg ?_ _ _ (by simp)
      exact sameRegs_enterHaz (busOk 0#32 s) (by simp) e _
  · have run : exec (.hazRelease req v) s = execHazRelease req v s := rfl
    rw [run, execHazRelease, hazCommand, when_met (by simp [op]), withWrite_pass may]
    dsimp only
    rw [if_pos (show (hazEntry (busOk 0#32 s) (fld v 11 0)).any (·.fw) = true from mine)]
  · have run : exec (.hazRelease req v) s = execHazRelease req v s := rfl
    obtain ⟨slip, result, -⟩ := hazRefused_shows (busOk 0#32 s) 2
    refine ⟨hazRefused 2 (busOk 0#32 s), ?_, slip, result⟩
    rw [run, execHazRelease, hazCommand, when_met (by simp [op]), withWrite_pass may]
    dsimp only
    rw [if_neg (not_of (show (hazEntry (busOk 0#32 s) (fld v 11 0)).any (·.fw) = false from mine))]
  · have run : exec .fwReady s = execFwReady s := rfl
    refine ⟨raise Page.HAZ 1 0 y.1 {} (setHaz y.1 (some { y.2 with waiting := false }) (hostDrain s)), ?_, ?_⟩
    · rw [run, execFwReady, when_met on]
      dsimp only
      rw [found]
    · exact (hazEntry_of_slip (raise_slip ..) _).trans (hazEntry_setHaz ..)
  · refine runs_write_to _ (c := .hazFwCmdUnlisted req v) rfl (by simpa using op) may rfl ?_
    exact hazRefused_shows (busOk 0#32 s) 2
  · have run : exec (.luCreate req v) s = execLuCreate req v s := rfl
    rw [run, execLuCreate, lutCommand_pass may op, if_neg (show ¬ lutRoot (busOk 0#32 s) = 0 from root),
      if_neg (show ¬ (lu (busOk 0#32 s) (fld v 5 0)).isSome = true by rw [show lu (busOk 0#32 s) (fld v 5 0) = none from fresh]; simp)]
    simp only [fetched, extents, format, allowed_of mode, key, fits, Bool.not_true, Bool.false_eq_true, if_false]
  · have run : exec (.luCreate req v) s = execLuCreate req v s := rfl
    refine ⟨lutRefused req (fld v 5 0) 4 (busOk 0#32 s), ?_, lutRefused_shows ..⟩
    rw [run, execLuCreate, lutCommand_pass may op, if_neg (show ¬ lutRoot (busOk 0#32 s) = 0 from root),
      if_pos (show (lu (busOk 0#32 s) (fld v 5 0)).isSome = true from known)]
  · have run : exec (.luDelete req v) s = execLuDelete req v s := rfl
    refine ⟨lutResult 3 0 (setLu (fld v 5 0) (some { u with state := 2 }) (busOk 0#32 s)), ?_, lu_setLu .., setReg_same .., ?_⟩
    · rw [run, execLuDelete, lutCommand_pass may op, show lu (busOk 0#32 s) (fld v 5 0) = some u from known]
      dsimp only
      rw [if_neg live, if_neg (allowed_of mode)]
    · exact sameRegs_setReg (sameRegs_of_regs (sameRegs_refl _ s) rfl) _ _ (beq_self_eq_true _)
  · have run : exec (.luDeleteDone n) s = execLuDeleteDone n s := rfl
    rw [run, execLuDeleteDone, when_met (by simp [known, gone])]
    dsimp only
    rw [if_neg (not_of idle)]
  · have run : exec (.luUpdate req v) s = execLuUpdate req v s := rfl
    rw [run, execLuUpdate, lutCommand_pass may op, show lu (busOk 0#32 s) (fld v 5 0) = some u from known]
    dsimp only
    rw [if_neg (show ¬ u.state ≠ 1 from not_not_intro live), if_neg (show ¬ lutRoot (busOk 0#32 s) = 0 from root)]
    simp only [fetched, extents, update, fits, Bool.not_true, Bool.false_eq_true, if_false]
  · refine runs_write_to _ (c := .lutCmdUnlisted req v) rfl (by simpa using op) may rfl ?_
    exact lutRefused_shows (busOk 0#32 s) req (fld v 5 0) 4
  · constructor
    · intro fresh
      rw [commandFrame_eq serves known, if_neg (by simp [fresh])]
    · intro held
      rw [commandFrame_eq serves known, if_pos held]
  · refine ⟨acceptCommand lane n lun f s, ?_, acceptCommand_taken free room taken⟩
    rw [commandFrame_eq serves known, if_neg (by simp [fresh])]
  · intro s1 free front next at_ live unanswered stage order decodes
    have run : exec (.fastPathDecode false none) s = execFastPathDecode false none s := rfl
    rw [run, execFastPathDecode, when_met (by simp [alive, on])]
    have drained : hostDrain s = s1 := rfl
    obtain ⟨e, he⟩ := Option.isSome_iff_exists.1 free
    dsimp only
    rw [drained, if_neg (by rw [he]; simp), front, next]
    dsimp only
    rw [at_]
    dsimp only
    rw [if_neg (by simp [live, unanswered, stage]), if_neg (not_of order), decodes]
    rfl
  · have run : exec (.fastPathDecode false none) s = execFastPathDecode false none s := rfl
    rw [run, execFastPathDecode, when_met (by simp [alive, on])]
    dsimp only
    rw [if_pos (by simp [full])]
  · have run : exec .hostBufferAlloc s = execHostBufferAlloc s := rfl
    rw [run, execHostBufferAlloc, when_met alive]
    dsimp only
    rw [waiters]

end Sys2Proof.Machine
end

section
set_option Elab.async false
/-! Task management and the progress check (O39). -/

namespace Sys2Proof.Machine

/-- The answer to a task management frame, and its event (R411). -/
def tmSaid (l n : Nat) (f : TaskMgmtFrame) (code r : Nat) (s : State) : State :=
  hostDrain (raise Page.SLIPC 2 0 code ⟨word n, word f.tag, word r⟩ (replyFrame l n f.tag true r [] s))

section
variable {l n : Nat} {f : TaskMgmtFrame} {s : State} (serves : laneServes s l n = true)
include serves

/-- A function of a tag that no held task has. -/
theorem tmFrame_done (fresh : taskOf s n f.tag = none) (code : Nat) {needsLu : Bool} (act : State → Nat × State)
    (unit : (needsLu && !luEnabled s f.lun) = false) : tmFrame l n code f needsLu act s = tmSaid l n f code (act s).1 (act s).2 := by
  unfold tmFrame
  rw [when_met serves, if_neg (by simp [fresh]), if_neg (not_of unit)]
  rfl

theorem tmFrame_noUnit (fresh : taskOf s n f.tag = none) (code : Nat) (act : State → Nat × State) (off : luEnabled s f.lun = false) :
    tmFrame l n code f true act s = tmSaid l n f code 9 s := by
  unfold tmFrame
  rw [when_met serves, if_neg (by simp [fresh]), if_pos (by simp [off])]
  rfl

theorem tmFrame_overlapped (held : (taskOf s n f.tag).isSome = true) (code : Nat) (needsLu : Bool) (act : State → Nat × State) :
    tmFrame l n code f needsLu act s = tmSaid l n f code 10 s := by
  unfold tmFrame
  rw [when_met serves, if_pos held]
  rfl

end

section
variable {l n : Nat} {f : TaskMgmtFrame} {s : State} (serves : laneServes s l n = true) (fresh : taskOf s n f.tag = none)
include serves fresh

theorem abortTask_done (unit : luEnabled s f.lun = true) : exec (.abortTask l n f) s = .next (tmSaid l n f 0x01 0 (endTasks (fun t => t.nexus == n && t.lun == f.lun && t.tag == f.managed) s)) := by
  have step : exec (.abortTask l n f) s = execAbortTask l n f s := rfl
  rw [step, execAbortTask, tmFrame_done serves fresh _ _ (by simp [unit])]

theorem abortTaskSet_done (unit : luEnabled s f.lun = true) : exec (.abortTaskSet l n f) s = .next (tmSaid l n f 0x02 0 (endTasks (fun t => t.nexus == n && t.lun == f.lun) s)) := by
  have step : exec (.abortTaskSet l n f) s = execAbortTaskSet l n f s := rfl
  rw [step, execAbortTaskSet, tmFrame_done serves fresh _ _ (by simp [unit])]

theorem clearTaskSet_done (unit : luEnabled s f.lun = true) : exec (.clearTaskSet l n f) s = .next (tmSaid l n f 0x04 0
    ((((liveTasks s).filter fun t => t.lun == f.lun && t.nexus != n).map HostTask.nexus).eraseDups.foldl
      (fun u k => setUa k f.lun true u) (endTasks (fun t => t.lun == f.lun) s))) := by
  have step : exec (.clearTaskSet l n f) s = execClearTaskSet l n f s := rfl
  rw [step, execClearTaskSet, tmFrame_done serves fresh _ _ (by simp [unit])]

theorem logicalUnitReset_done (unit : luEnabled s f.lun = true) : exec (.logicalUnitReset l n f) s = .next (tmSaid l n f 0x08 0
    (((List.range 64).filter fun k => (nexus s k).isSome).foldl (fun u k => setUa k f.lun true u) (endTasks (fun t => t.lun == f.lun) s))) := by
  have step : exec (.logicalUnitReset l n f) s = execLogicalUnitReset l n f s := rfl
  rw [step, execLogicalUnitReset, tmFrame_done serves fresh _ _ (by simp [unit])]

theorem queryTask_done (unit : luEnabled s f.lun = true) : exec (.queryTask l n f) s = .next (tmSaid l n f 0x80 (if (liveTasks s).any fun t => t.nexus == n && t.lun == f.lun && t.tag == f.managed then 8 else 0) s) := by
  have step : exec (.queryTask l n f) s = execQueryTask l n f s := rfl
  rw [step, execQueryTask, tmFrame_done serves fresh _ _ (by simp [unit])]

theorem queryTaskSet_done (unit : luEnabled s f.lun = true) : exec (.queryTaskSet l n f) s = .next (tmSaid l n f 0x81 (if (liveTasks s).any fun t => t.nexus == n && t.lun == f.lun then 8 else 0) s) := by
  have step : exec (.queryTaskSet l n f) s = execQueryTaskSet l n f s := rfl
  rw [step, execQueryTaskSet, tmFrame_done serves fresh _ _ (by simp [unit])]

theorem queryAsynchronousEvent_done (unit : luEnabled s f.lun = true) : exec (.queryAsynchronousEvent l n f) s = .next (tmSaid l n f 0x82 (if uaBit s n f.lun then 8 else 0) s) := by
  have step : exec (.queryAsynchronousEvent l n f) s = execQueryAsynchronousEvent l n f s := rfl
  rw [step, execQueryAsynchronousEvent, tmFrame_done serves fresh _ _ (by simp [unit])]

theorem iTNexusReset_done : exec (.iTNexusReset l n f) s =
    .next (tmSaid l n f 0x10 0 ((List.range 64).foldl (fun u k => setUa n k true u) (endTasks (fun t => t.nexus == n) s))) := by
  have step : exec (.iTNexusReset l n f) s = execITNexusReset l n f s := rfl
  rw [step, execITNexusReset, tmFrame_done serves fresh _ _ rfl]

theorem tmFunctionNotSupported_done {code : Nat} (unlisted : [0x01, 0x02, 0x04, 0x08, 0x10, 0x80, 0x81, 0x82].contains code = false) :
    exec (.tmFunctionNotSupported l n code f) s = .next (tmSaid l n f code 4 s) := by
  have step : exec (.tmFunctionNotSupported l n code f) s = execTmFunctionNotSupported l n code f s := rfl
  rw [step, execTmFunctionNotSupported, when_met (by rw [unlisted]; rfl), tmFrame_done serves fresh _ _ rfl]

theorem noUnit_done (off : luEnabled s f.lun = false) :
    exec (.abortTask l n f) s = .next (tmSaid l n f 1 9 s) ∧ exec (.queryTask l n f) s = .next (tmSaid l n f 0x80 9 s) := by
  have abort : exec (.abortTask l n f) s = execAbortTask l n f s := rfl
  have query : exec (.queryTask l n f) s = execQueryTask l n f s := rfl
  rw [abort, query, execAbortTask, execQueryTask, tmFrame_noUnit serves fresh _ _ off, tmFrame_noUnit serves fresh _ _ off]
  exact ⟨rfl, rfl⟩

end

/-- Settles O39. -/
theorem taskCommands : Obligations.TaskCommands := by
  refine ⟨fun s l n f serves fresh => ?_, fun s l n f serves held => ?_, fun s alive => ?_, fun s req i v hi may => ?_⟩
  · intro said
    have same : said = tmSaid l n f := rfl
    rw [same]
    exact ⟨fun unit => ⟨abortTask_done serves fresh unit, abortTaskSet_done serves fresh unit, clearTaskSet_done serves fresh unit,
      logicalUnitReset_done serves fresh unit, queryTask_done serves fresh unit, queryTaskSet_done serves fresh unit,
      queryAsynchronousEvent_done serves fresh unit⟩, iTNexusReset_done serves fresh, fun _ unlisted =>
      tmFunctionNotSupported_done serves fresh unlisted, noUnit_done serves fresh⟩
  · have step : exec (.abortTask l n f) s = execAbortTask l n f s := rfl
    rw [step, execAbortTask, tmFrame_overlapped serves held, tmSaid]
    rfl
  · have step : exec .progressCheck s = execProgressCheck s := rfl
    rw [step, execProgressCheck, when_met alive]
  · intro other sum
    constructor
    · intro fits
      refine runs_write_to ((busOk 0#32 s).setReg (Reg.SYS.RES_STRIPE_LO + 4 * i) v) (c := .reserveWrite req i v) rfl (decide_eq_true hi) may
        (if_neg (Nat.not_lt.2 fits)) ⟨setReg_same .., ?_⟩
      exact sameRegs_setReg (u := busOk 0#32 s) (sameRegs_of_regs (sameRegs_refl _ s) rfl) _ _ (beq_self_eq_true _)
    · intro over_
      refine runs_write_to (raise Page.SYS 8 5 0 ⟨word ((Reg.SYS.RES_STRIPE_LO + 4 * i) % 0x1000), v, 0#32⟩ (busOk 0#32 s))
        (c := .reserveWrite req i v) rfl (decide_eq_true hi) may (if_pos over_) ?_
      exact sameRegs_raise (u := busOk 0#32 s) (sameRegs_of_regs (sameRegs_refl _ s) rfl) _ _ _ _ _ (beq_self_eq_true _)

end Sys2Proof.Machine
end

section
set_option Elab.async false
/-! The data of host tasks (O40). -/

namespace Sys2Proof.Machine

theorem svc_setSvc (c : Nat) (x : Option SvcOp) (s : State) : svc (setSvc c x s) c = x := (SMap.get_set ..).trans (if_pos rfl)

/-- The service operation that a write of SVC_CTRL asks for (R421). -/
def svcAsked (op c : Nat) (v : Word) (t : HostTask) (s : State) : SvcOp :=
  { op := op, task := t.id, addr := s.reg64 (Reg.SLIPC.SVC_ADDR_LO c) / 64 * 64 % 0x10000000000, bytes := s.fld (Reg.SLIPC.SVC_BYTES c) 24 0
    offset := (s.reg (Reg.SLIPC.SVC_OFFSET c)).toNat, status := fld v 15 8, senseLen := min 252 (fld v 23 16), moved := 0, xrdy := none
    asked := 0, hold := [], outcome := 0 }

theorem svcStart_taken {op c : Nat} {req : Requester} {v : Word} {s s1 : State} {t : HostTask} (core : c < 4) (go : bit v 31 = true)
    (code : fld v 1 0 = op) (may : Writes req (Reg.SLIPC.SVC_CTRL c) s)
    (stored : hostDrain ((storeWrite (Reg.SLIPC.SVC_CTRL c) v (busOk 0#32 s)).setBit (Reg.SLIPC.SVC_CTRL c) 31 false) = s1)
    (free : svc s1 c = none) (task : (taskAt s1 (s1.fld (Reg.SLIPC.SVC_TASK c) 12 0)).filter
      (fun t => t.stage == 2 && !t.aborted && !t.committed && (svcOf s1 t.id).isNone) = some t) :
    svcStart op req c v s = setSvc c (some (svcAsked op c v t s1)) (s1.setReg (Reg.SLIPC.SVC_RESULT c) 1#32) := by
  unfold svcStart
  rw [when_met (by simp [core, go, code]), withWrite_pass may]
  dsimp only
  rw [stored, free, task]
  rfl

/-- Settles O40. -/
theorem hostDataCommands : Obligations.HostDataCommands := by
  refine ⟨fun s i t l c x alive task => ?_, fun s i t l u alive task => ?_, fun s l n tag data t u e serves task => ?_,
    fun s l n tag offset data t u serves task => ?_, fun s i t l u alive task => ?_, fun s i t l c x alive task => ?_,
    fun s i t l a alive task => ?_, fun s req c v op i t s1 core go code which may stored free task => ?_,
    fun s c x o core alive runs outcome => ?_⟩
  · intro s1 lane running live ready more room
    have run : exec (.xferRdy i) s = execXferRdy i s := rfl
    have drained : hostDrain s = s1 := rfl
    rw [run, execXferRdy, when_met alive]
    dsimp only
    rw [drained] at task ⊢
    simp only [task, lane, running]
    rw [if_neg]
    simp only [live, ready, Option.isSome_none, Bool.or_self, Bool.false_or, Bool.or_eq_true, decide_eq_true_eq]
    omega
  · intro s1 lane unit running op haz live unanswered ready more room
    have run : exec (.xferRdy i) s = execXferRdy i s := rfl
    have drained : hostDrain s = s1 := rfl
    obtain ⟨e, he⟩ := Option.isSome_iff_exists.1 haz
    rw [run, execXferRdy, when_met alive]
    dsimp only
    rw [drained] at task ⊢
    simp only [task, lane, unit, running]
    rw [if_neg]
    simp only [op, he, live, unanswered, ready, Option.isSome_none, Option.isNone_some, bne_self_eq_false, Bool.or_self, Bool.false_or,
      Bool.or_eq_true, decide_eq_true_eq]
    omega
  · intro s1 live open_ running unit unanswered op ready fits
    have run : exec (.dataFrame l n tag t.received data) s = execDataFrame l n tag t.received data s := rfl
    have gone : hostGo s = s1 := rfl
    rw [run, execDataFrame, when_met serves]
    dsimp only
    rw [gone] at task ⊢
    simp only [task]
    rw [if_neg (by simp [live, open_])]
    simp only [running, unit]
    rw [if_neg (by simp [unanswered]), if_pos (by simp [op, ready, fits])]
  · intro s1 live open_ running unit unanswered bad
    have run : exec (.dataFrame l n tag offset data) s = execDataFrame l n tag offset data s := rfl
    have gone : hostGo s = s1 := rfl
    rw [run, execDataFrame, when_met serves]
    dsimp only
    rw [gone] at task ⊢
    simp only [task]
    rw [if_neg (by simp [live, open_])]
    simp only [running, unit]
    rw [if_neg (by simp [unanswered]), if_neg]
    rintro good
    simp only [Bool.and_eq_true, beq_iff_eq] at good
    exact bad ⟨good.1.1, good.1.2, good.2⟩
  · intro s1 lane running unit op stage live unanswered open_ buffer
    have run : exec (.sendData i) s = execSendData i s := rfl
    have gone : hostGo s = s1 := rfl
    obtain ⟨b, hb⟩ := Option.isSome_iff_exists.1 buffer
    rw [run, execSendData, when_met alive]
    dsimp only
    rw [gone] at task ⊢
    simp only [task, lane, running, unit]
    rw [if_neg (by simp [op, stage, live, unanswered, open_, hb])]
  · intro s1 lane running live
    have run : exec (.sendData i) s = execSendData i s := rfl
    have gone : hostGo s = s1 := rfl
    rw [run, execSendData, when_met alive]
    dsimp only
    rw [gone] at task ⊢
    simp only [task, lane, running]
    rw [if_neg (not_of live)]
  · intro s1 lane ready running good
    have run : exec (.sendResponse i) s = execSendResponse i s := rfl
    have gone : hostGo s = s1 := rfl
    rw [run, execSendResponse, when_met alive]
    dsimp only
    rw [gone] at task ⊢
    simp only [task, lane, ready, running, good, Bool.false_eq_true, if_false]
  · have run : exec i s = .next (svcStart op req c v s) := by
      rcases which with ⟨rfl, rfl⟩ | ⟨rfl, rfl⟩ | ⟨rfl, rfl⟩ <;> rfl
    refine ⟨setSvc c (some (svcAsked op c v t s1)) (s1.setReg (Reg.SLIPC.SVC_RESULT c) 1#32), run.trans (by rw [svcStart_taken core go code may stored free task]), setReg_same s1 _ _, ?_⟩
    exact svc_setSvc c (some (svcAsked op c v t s1)) (s1.setReg (Reg.SLIPC.SVC_RESULT c) 1#32)
  · have run : exec (.svcDone c) s = execSvcDone c s := rfl
    rw [run, execSvcDone, when_met (by simp [core, alive])]
    dsimp only
    rw [runs]
    dsimp only
    rw [outcome]

end Sys2Proof.Machine
end

section
set_option Elab.async false
/-! The key store and the release of Stroke cores (O41). -/

namespace Sys2Proof.Machine

section
variable (s : State)

theorem raise_keys (p k sev code : Nat) (pl : Payload) : (raise p k sev code pl s).keys = s.keys :=
  (raise_stays p k sev code pl s).same .keys (by decide)

theorem raise_mem (p k sev code : Nat) (pl : Payload) : (raise p k sev code pl s).mem = s.mem :=
  (raise_stays p k sev code pl s).same .mem (by decide)

/-- A refusal of the key store (R503). -/
theorem keyRefuse_shows (code : Nat) : (keyRefuse code s).keys = s.keys ∧ (keyRefuse code s).mem = s.mem
    ∧ (keyRefuse code s).reg Reg.KEYS.CMD_RESULT = word (2 + code * 16)
    ∧ SameRegs (fun k => k == Reg.KEYS.CMD_RESULT || k == Reg.EV_PEND Page.KEYS) s (keyRefuse code s) := by
  unfold keyRefuse
  refine ⟨raise_keys .., raise_mem .., ?_, ?_⟩
  · rw [raise_reg _ (by decide)]
    exact setReg_same ..
  · exact sameRegs_raise (sameRegs_setReg (sameRegs_refl _ s) _ _ (by simp)) _ _ _ _ _ (by simp)

/-- CLEAR of a slot (R500). -/
theorem opClear_shows (slot : Nat) : slotState (opClear slot s) slot = none ∧ (opClear slot s).keys.op = s.keys.op
    ∧ (opClear slot s).reg Reg.KEYS.CMD_RESULT = word (1 + 0 * 16)
    ∧ ∀ n, n ≠ slot → slotState (opClear slot s) n = slotState s n := by
  have keys : (opClear slot s).keys = { s.keys with slots := SMap.set (fun _ => none) s.keys.slots slot none } :=
    raise_keys (modKeys (fun x => { x with slots := SMap.set (fun _ => none) x.slots slot none }) s) Page.KEYS 0 0 slot {}
  unfold slotState
  rw [keys]
  exact ⟨(SMap.get_set (fun _ => none) s.keys.slots slot none slot).trans (if_pos rfl), rfl, setReg_same .., fun n h =>
    (SMap.get_set (fun _ => none) s.keys.slots slot none n).trans (if_neg h)⟩

end

/-- An operation that starts (R503). -/
def keyBegun (v : Word) (s : State) : State :=
  keyResult 3 0 (modKeys (fun k => { k with op := some (v, s.reg64 Reg.KEYS.SRC_LO, s.reg64 Reg.KEYS.DST_LO) }) s)

theorem keyBegun_shows (v : Word) (s : State) :
    (keyBegun v s).keys = { s.keys with op := some (v, s.reg64 Reg.KEYS.SRC_LO, s.reg64 Reg.KEYS.DST_LO) }
      ∧ (keyBegun v s).reg Reg.KEYS.CMD_RESULT = 3#32 ∧ SameRegs (fun k => k == Reg.KEYS.CMD_RESULT) s (keyBegun v s) :=
  ⟨rfl, setReg_same .., sameRegs_setReg (sameRegs_of_regs (sameRegs_refl _ s) rfl) _ _ (beq_self_eq_true _)⟩

section
variable {req : Requester} {v : Word} {s : State} {op : Nat} (may : Writes req Reg.KEYS.CMD s) (alive : blockAlive s Page.KEYS = true)
  (code : fld v 4 0 = op)
include may alive code

theorem keyCommand_begins (free : s.keys.op = none) : keyCommand op req v s = .next (keyBegun v (busOk 0#32 s)) := by
  rw [keyCommand, when_met (by simp [code]), withWrite_pass may, if_neg (not_not_of (show blockAlive (busOk 0#32 s) Page.KEYS = true from alive)),
    if_neg (show ¬ (busOk 0#32 s).keys.op.isSome = true from (by simp [free] : ¬ s.keys.op.isSome = true))]
  rfl

theorem keyCommand_busy (busy : s.keys.op.isSome = true) : keyCommand op req v s = .next (keyRefuse 13 (busOk 0#32 s)) := by
  rw [keyCommand, when_met (by simp [code]), withWrite_pass may, if_neg (not_not_of (show blockAlive (busOk 0#32 s) Page.KEYS = true from alive)),
    if_pos (show (busOk 0#32 s).keys.op.isSome = true from busy)]

end

theorem keysOpDone_performs {s : State} {cmd : Word} {src dst : Nat} (alive : blockAlive s Page.KEYS = true)
    (runs : s.keys.op = some (cmd, src, dst)) :
    exec .keysOpDone s = .next (keyPerform cmd src dst (modKeys (fun k => { k with op := none }) s)) := by
  have run : exec .keysOpDone s = execKeysOpDone s := rfl
  rw [run, execKeysOpDone, when_met alive, runs]

/-- A fold that acts at one place alone. -/
theorem foldl_only {f : State → Nat → State} {c : Nat} (l : List Nat) (once : l.Nodup) (mem : c ∈ l) (other : ∀ t j, j ∈ l → j ≠ c → f t j = t)
    (s : State) : l.foldl f s = f s c := by
  have idle (l' : List Nat) (h : ∀ j ∈ l', ∀ t, f t j = t) (t : State) : l'.foldl f t = t := by
    induction l' generalizing t with
    | nil => rfl
    | cons j l' ih =>
      rw [List.foldl_cons, h j (by simp)]
      exact ih (fun i hi => h i (by simp [hi])) t
  induction l generalizing s with
  | nil => cases mem
  | cons j l ih =>
    obtain ⟨fresh, once⟩ := List.nodup_cons.1 once
    rw [List.foldl_cons]
    by_cases h : j = c
    · subst h
      exact idle l (fun i hi t => other t i (by simp [hi]) (by rintro rfl; exact fresh hi)) _
    · rw [other s j (by simp) h]
      exact ih once (by simpa [Ne.symm h] using mem) (fun t i hi => other t i (by simp [hi])) s

/-- Settles O41. -/
theorem keyCommands : Obligations.KeyCommands := by
  refine ⟨fun s req v op c may alive code which => ?_, fun s req v may alive unlisted => ?_, fun s cmd src dst alive runs => ?_,
    fun s cmd src dst alive runs op => ?_, fun s cmd src dst alive runs op => ?_, fun s cmd src dst alive runs op level => ?_,
    fun s req v c may hc only => ?_⟩
  · have run : exec c s = keyCommand op req v s := by
      rcases which with ⟨rfl, rfl⟩ | ⟨rfl, rfl⟩ | ⟨rfl, rfl⟩ | ⟨rfl, rfl⟩ | ⟨rfl, rfl⟩ | ⟨rfl, rfl⟩ | ⟨rfl, rfl⟩ | ⟨rfl, rfl⟩ | ⟨rfl, rfl⟩
        | ⟨rfl, rfl⟩ | ⟨rfl, rfl⟩ | ⟨rfl, rfl⟩ | ⟨rfl, rfl⟩ <;> rfl
    refine ⟨fun free => ⟨_, run.trans (keyCommand_begins may alive code free), keyBegun_shows v (busOk 0#32 s)⟩, fun busy => ?_⟩
    obtain ⟨keys, -, result, same⟩ := keyRefuse_shows (busOk 0#32 s) 13
    exact ⟨_, run.trans (keyCommand_busy may alive code busy), keys, result, same⟩
  · obtain ⟨keys, -, result, same⟩ := keyRefuse_shows (busOk 0#32 s) (if s.keys.op.isSome then 13 else 14)
    refine runs_write_to (keyRefuse (if s.keys.op.isSome then 13 else 14) (busOk 0#32 s)) (c := .keysCmdUnlisted req v) rfl
      (by simpa using unlisted) may ?_ ⟨keys, result, same⟩
    exact if_neg (not_not_of (show blockAlive (busOk 0#32 s) Page.KEYS = true from alive))
  · exact keysOpDone_performs alive runs
  · obtain ⟨cleared, idle, result, others⟩ := opClear_shows (modKeys (fun k => { k with op := none }) s) (fld cmd 14 8)
    refine ⟨opClear (fld cmd 14 8) (modKeys (fun k => { k with op := none }) s), ?_, cleared, idle, result, others⟩
    simp only [keysOpDone_performs alive runs, keyPerform, op]
  · refine ⟨keyDone (newChallenge (modKeys (fun k => { k with op := none }) s)), ?_, rfl, setReg_same ..⟩
    simp only [keysOpDone_performs alive runs, keyPerform, op]
  · obtain ⟨keys, mem, result, -⟩ := keyRefuse_shows (modKeys (fun k => { k with op := none }) s) 10
    have level' : debugLevel (modKeys (fun k => { k with op := none }) s) = 2 := level
    refine ⟨keyRefuse 10 (modKeys (fun k => { k with op := none }) s), ?_, keys, mem, result⟩
    rw [keysOpDone_performs alive runs, keyPerform]
    rcases op with op | op
    · simp only [op]
      rw [opWrap, if_pos level']
    · simp only [op]
      rw [opAttest, if_pos level']
  · have run : exec (.strokeRelease req v) s = execStrokeRelease req v s := rfl
    rw [run, execStrokeRelease, withWrite_pass may, foldl_only (c := c) _ List.nodup_range (List.mem_range.2 hc), if_pos (by simp [only c hc])]
    intro t j hj h
    rw [if_neg (by simp [only j (List.mem_range.1 hj), h])]

end Sys2Proof.Machine
end

section
set_option Elab.async false
/-! Umpire (O42). -/

namespace Sys2Proof.Machine

/-- A transfer that receives its credit at once (R26, R28). -/
theorem underCredit_taken {a : CreditAsk} {f : State → State} {s t : State} (awake : dramAwake s = true) (turn : creditTurn s a = true)
    (moved : f (takeCredit a s) = t) : underCredit a f s = xactGrantNext (setXactHeld a.cls (xactHeld t a.cls - 1) t) := by
  unfold underCredit
  rw [if_pos (by simp [awake, turn])]
  dsimp only
  rw [moved]

section
variable (m : Msg) (s : State)

theorem umpHold_held (severe : m.severity = 3 ∨ m.severity = 4) (room : s.ump.heldMsgs.length < 16) :
    umpHold m s = modUmp (fun u => { u with heldMsgs := u.heldMsgs ++ [m] }) s := by
  unfold umpHold
  rw [if_pos ⟨severe, room⟩]

theorem umpHold_counted (mild : m.severity ≠ 3) (mild' : m.severity ≠ 4) : umpHold m s = s.count Reg.UMP.FROZEN_COUNT 1 := by
  unfold umpHold
  rw [if_neg (fun h => h.1.elim mild mild')]

end

theorem raise_ump (p k sev code : Nat) (pl : Payload) (s : State) : (raise p k sev code pl s).ump = s.ump :=
  (raise_stays p k sev code pl s).same .ump (by decide)

section
variable {s : State} (runs : umpRuns s = true) {x : UmpIn} {rest : List UmpIn} (front : s.ump.fifo = x :: rest)
include runs front

theorem umpireRecord_eq : exec .umpireRecord s = .next (if umpFrozen s then umpHold x.msg (modUmp (fun u => { u with fifo := rest }) s)
    else recordMsg x.msg (modUmp (fun u => { u with fifo := rest }) (umpGap s))) := by
  have run : exec .umpireRecord s = execUmpireRecord s := rfl
  rw [run, execUmpireRecord, when_met runs, front]

end

/-- A write of UMP_CTRL. -/
theorem umpCtrl_pass {guard : Bool} {req : Requester} {v : Word} {s : State} (met : guard = true) (may : Writes req Reg.UMP.UMP_CTRL s) :
    umpCtrl guard req v s = .next (umpCtrlEffect req v (busOk 0#32 s)) := by
  rw [umpCtrl, when_met met, withWrite_pass may]

section
variable {req : Requester} {v : Word} {s : State}

theorem umpCtrlEffect_freeze (clear : bit v 1 = false) (copy : bit v 2 = false) :
    umpCtrlEffect req v s = if bit v 0 then umpFreeze s else umpUnfreeze s := by
  simp only [umpCtrlEffect, clear, copy, Bool.false_eq_true, if_false]

theorem umpCtrlEffect_clear (freeze : bit v 0 = false) (clear : bit v 1 = true) (copy : bit v 2 = false) :
    umpCtrlEffect req v s = umpClear req (umpUnfreeze s) := by
  simp only [umpCtrlEffect, freeze, clear, copy, Bool.false_eq_true, if_true, if_false]

theorem umpCtrlEffect_copy (clear : bit v 1 = false) (copy : bit v 2 = true) :
    umpCtrlEffect req v s = umpCopy (if bit v 0 then umpFreeze s else umpUnfreeze s) := by
  simp only [umpCtrlEffect, clear, copy, Bool.false_eq_true, if_true, if_false]

end

/-- Settles O42. -/
theorem recorderCommands : Obligations.RecorderCommands := by
  refine ⟨fun s x rest runs front => ⟨fun free => ?_, fun frozen severe room => ?_, fun frozen mild mild' => ?_⟩,
    fun s req v may clear copy => ⟨fun freeze => ?_, fun freeze => ?_⟩, fun s req v may freeze clear copy same => ⟨fun cox free idle => ?_, fun other => ?_⟩,
    fun s req v may clear copy => ?_, fun s runs frozen due => ?_, fun s c runs copy => ?_, fun s c t runs copy awake turn moved => ?_,
    fun s req n hn may => ⟨?_, ?_⟩⟩
  · rw [umpireRecord_eq runs front, if_neg (not_of free)]
  · refine ⟨modUmp (fun u => { u with heldMsgs := u.heldMsgs ++ [x.msg] }) (modUmp (fun u => { u with fifo := rest }) s), ?_, rfl, rfl⟩
    rw [umpireRecord_eq runs front, if_pos frozen, umpHold_held x.msg (modUmp (fun u => { u with fifo := rest }) s) severe room]
  · refine ⟨State.count (modUmp (fun u => { u with fifo := rest }) s) Reg.UMP.FROZEN_COUNT 1, ?_, rfl, (reg_count ..).trans (if_pos rfl)⟩
    rw [umpireRecord_eq runs front, if_pos frozen, umpHold_counted _ _ mild mild']
  · have run : exec (.freeze req v) s = execFreeze req v s := rfl
    rw [run, execFreeze, umpCtrl_pass freeze may, umpCtrlEffect_freeze clear copy, if_pos freeze]
  · have run : exec (.unfreeze req v) s = execUnfreeze req v s := rfl
    rw [run, execUnfreeze, umpCtrl_pass (by simp [freeze]) may, umpCtrlEffect_freeze clear copy, if_neg (not_of freeze)]
  · have run : exec (.umpireClear req v) s = execUmpireClear req v s := rfl
    have idle' : ¬ (umpFrozen (busOk 0#32 s) = true ∨ umpCopying (busOk 0#32 s) = true) := fun h => h.elim (not_of free) (not_of idle)
    rw [run, execUmpireClear, umpCtrl_pass clear may, umpCtrlEffect_clear freeze clear copy, same, umpClear,
      if_neg (not_not_intro cox), if_neg idle']
  · have run : exec (.umpireClear req v) s = execUmpireClear req v s := rfl
    refine ⟨raise Page.UMP 4 5 0 { p0 := word (Requester.code req) } (busOk 0#32 s), ?_, raise_ump .., ?_⟩
    · rw [run, execUmpireClear, umpCtrl_pass clear may, umpCtrlEffect_clear freeze clear copy, same, umpClear, if_pos other]
    · exact sameRegs_raise (u := busOk 0#32 s) (sameRegs_of_regs (sameRegs_refl _ s) rfl) _ _ _ _ _ (beq_self_eq_true _)
  · have run : exec (.umpireCopy req v) s = execUmpireCopy req v s := rfl
    rw [run, execUmpireCopy, umpCtrl_pass copy may, umpCtrlEffect_copy clear copy]
  · have run : exec .freezeTimeout s = execFreezeTimeout s := rfl
    rw [run, execFreezeTimeout, when_met (by simp [runs, frozen, due])]
  · have run : exec .copyDone s = execCopyDone s := rfl
    rw [run, execCopyDone, when_met runs, copy]
  · have run : exec .copyDone s = execCopyDone s := rfl
    rw [run, execCopyDone, when_met runs, copy]
    exact congrArg Host.Outcome.next (underCredit_taken awake turn moved.symm)
  · have run : exec (.umpireWindowRead req n false false) s = execUmpireWindowRead req n false false s := rfl
    refine ⟨busOk (ringWord s (s.fld Reg.UMP.CURSOR 10 0) n) s, ?_, rfl, rfl, rfl, rfl⟩
    rw [run, execUmpireWindowRead, when_met (decide_eq_true hn), withRead_pass may, windowWord, if_pos (by decide)]
  · have run : exec (.umpireWindowRead req n true true) s = execUmpireWindowRead req n true true s := rfl
    refine ⟨busOk s.freeWord (lasting Page.UMP 6 0 { p0 := word (s.fld Reg.UMP.CURSOR 10 0) }
      ((s.setBit Reg.UMP.UMP_STATUS 30 true).useFree)), ?_, rfl, ?_⟩
    · rw [run, execUmpireWindowRead, when_met (decide_eq_true hn), withRead_pass may, windowWord, if_neg (by decide), if_neg (by decide)]
    · refine (bit_of_reg (lasting_reg _ (by decide) (by decide) (by decide)) 30).trans ?_
      exact bit_of_setBit _ _ _ _ (by decide)

end Sys2Proof.Machine
end

section
set_option Elab.async false
/-! The journal (O43). -/

namespace Sys2Proof.Machine

theorem raise_crew (p k sev code : Nat) (pl : Payload) (s : State) : (raise p k sev code pl s).crew = s.crew :=
  (raise_stays p k sev code pl s).same .crew (by decide)

section
variable {e : Nat} {s : State} (runs : crewRuns s e = true) (active : jrnlState s = 1) (idle : s.crew.writing = none) (due : sectorDue s = true)
include runs active idle due

/-- A due sector is written, or waits at a full ring (R368). -/
theorem journalSectorWrite_eq : exec (.journalSectorWrite e) s = .next (
    if ringBlocked s s.crew.nextSector && !(journalMembers s).isEmpty then
      (if s.crew.fullSaid then s else raise Page.JRNL 3 0 0 {} (modCrew (fun c => { c with fullSaid := true }) s))
    else underCredit (.load Page.JRNL) (writeSector e) s) := by
  have run : exec (.journalSectorWrite e) s = execJournalSectorWrite e s := rfl
  rw [run, execJournalSectorWrite, when_met (by simp [runs, active, idle, due])]

end

/-- The journal's state is set; CLOSE no longer waits (R371). -/
def jrnlSet (st : Nat) (s : State) : State := modCrew (fun c => { c with closing := false }) (s.setCritFld 16 1 0 st)

theorem jrnlSet_shows (st : Nat) (s : State) : jrnlState (jrnlSet st s) = st % 4 ∧ (jrnlSet st s).crew = { s.crew with closing := false } :=
  ⟨critFld_setCritFld _ _ _ _ _ (by decide),
    congrArg (fun c : Crew => { c with closing := false }) ((State.setCritFld_stays s 16 1 0 st).same .crew (by decide))⟩

/-- Settles O43. -/
theorem journalCommands : Obligations.JournalCommands := by
  refine ⟨fun s e runs active idle due => ⟨fun free => ?_, fun t free awake turn moved => ?_, fun full quiet => ?_⟩,
    fun s e w he runs writing tagA tagB => ?_, fun s req v may start ok => ?_, fun s req v may start bad => ?_, fun s req v may close active => ?_,
    fun s on closing none idle => ?_, fun s req v e may go engine free src sound => ?_, fun s e engine => ?_⟩
  · rw [journalSectorWrite_eq runs active idle due, if_neg (not_of free)]
  · rw [journalSectorWrite_eq runs active idle due, if_neg (not_of free)]
    exact congrArg Host.Outcome.next (underCredit_taken awake turn moved.symm)
  · refine ⟨raise Page.JRNL 3 0 0 {} (modCrew (fun c => { c with fullSaid := true }) s), ?_, raise_crew .., ?_⟩
    · rw [journalSectorWrite_eq runs active idle due, if_pos full, if_neg (not_of quiet)]
    · exact sameRegs_raise (u := modCrew (fun c => { c with fullSaid := true }) s) (sameRegs_of_regs (sameRegs_refl _ s) rfl) _ _ _ _ _
        (beq_self_eq_true _)
  · have run : exec .journalWritten s = execJournalWritten s := rfl
    rw [run, execJournalWritten, when_met (List.any_eq_true.2 ⟨e, List.mem_range.2 he, runs⟩)]
    dsimp only
    rw [writing]
    dsimp only
    rw [if_neg (by simp [tagA, tagB])]
  · refine runs_write_to (jrnlSet 1 (busOk 0#32 s)) (c := .jrnlStart req v) rfl start may ?_ (jrnlSet_shows 1 (busOk 0#32 s))
    exact if_pos (show locOk (busOk 0#32 s) = true from ok)
  · refine runs_write_to (busOk 0#32 s) (c := .jrnlStart req v) rfl start may ?_ ⟨rfl, rfl, rfl⟩
    exact if_neg (not_of (show locOk (busOk 0#32 s) = false from bad))
  · refine runs_write_to (modCrew (fun c => { c with closing := true }) (busOk 0#32 s)) (c := .jrnlClose req v) rfl close may ?_ ⟨rfl, rfl⟩
    exact if_pos (show jrnlState (busOk 0#32 s) = 1 from active)
  · exact runs_to (jrnlSet 2 s) (c := .jrnlClosed) rfl (by simp [on, closing, none, idle]) rfl (jrnlSet_shows 2 s)
  · have run : exec (.jrnlReplay req v) s = execJrnlReplay req v s := rfl
    refine ⟨modCrew (fun c => { c with replay := some (dramRecords s, 0), replayed := 0, resynced := [] }) (busOk 0#32 s), ?_, rfl, rfl⟩
    have records : dramRecords (busOk 0#32 s) = dramRecords s := rfl
    rw [run, execJrnlReplay, when_met go, withWrite_pass may]
    simp only [show crewEngine (busOk 0#32 s) = some e from engine, show (busOk 0#32 s).crew.replay = none from free, src, records, sound,
      Option.isSome_none, Bool.false_eq_true, if_false, if_true, ne_eq, not_true_eq_false, false_and, decide_false, Bool.or_self, Bool.false_and]
  · have run : exec .replayDone s = execReplayDone s := rfl
    rw [run, execReplayDone, engine]

end Sys2Proof.Machine
end

section
set_option Elab.async false
/-! Oars (O44). -/

namespace Sys2Proof.Machine

/-! ### The passage and the track job (R283 to R299) -/

section
variable {o : Nat} {s : State}

theorem oar_modOar (f : Oar → Oar) : oar (modOar o f s) o = f (oar s o) := (SMap.get_set ..).trans (if_pos rfl)

theorem oar_of_oars {t : State} (h : t.oars = s.oars) (k : Nat) : oar t k = oar s k := congrArg (SMap.get (fun _ => Oar.reset) · k) h

theorem oar_setReg (k : Nat) (v : Word) (p : Nat) : oar (s.setReg k v) p = oar s p := rfl

theorem oar_busOk (v : Word) (p : Nat) : oar (busOk v s) p = oar s p := rfl

theorem oar_setFld (k hi lo v p : Nat) : oar (s.setFld k hi lo v) p = oar s p := rfl

theorem oar_setBit (k i : Nat) (b : Bool) (p : Nat) : oar (s.setBit k i b) p = oar s p := rfl

theorem modOar_reg (f : Oar → Oar) (k : Nat) : (modOar o f s).reg k = s.reg k := rfl

theorem modOar_regs (f : Oar → Oar) : (modOar o f s).regs = s.regs := rfl

end

/-- The credit of a transfer that is over returns (R26). -/
def creditReturned (a : CreditAsk) (t : State) : State := xactGrantNext (setXactHeld a.cls (xactHeld t a.cls - 1) t)

/-- A transfer under a credit leaves the registers and the Oars as its work left them. -/
theorem creditReturned_shows (a : CreditAsk) (t : State) :
    (creditReturned a t).oars = t.oars ∧ ∀ k, (creditReturned a t).reg k = t.reg k := by
  have stays := xactGrantNext_stays (setXactHeld a.cls (xactHeld t a.cls - 1) t)
  exact ⟨stays.same .oars (by decide), fun k => stays.reg_eq (by decide) k⟩

/-! ### The zone and relocation tables (R285 to R291) -/

/-- Zone tables as ZT_DONE leaves them (R286). -/
def zonesStored (o : Nat) (ws : List Word) (s : State) : State :=
  let st := storeZones (fld (ws.getD 5 0#32) 12 0) (fld (ws.getD 6 0#32) 11 0) (fld (ws.getD 1 0#32) 10 8) ws 384 0 none
  let s2 := modOar o (fun r => { r with zones := st.1.zipIdx.foldl (fun m e => SMap.set (fun _ => []) m e.2 e.1) [] }) s
  ((s2.setReg (Reg.OAR.ZT_RPM o) (word (fld (ws.getD 5 0#32) 12 0 + fld (ws.getD 6 0#32) 11 0 * 65536))).setReg (Reg.OAR.ZT_ID o)
    (ws.getD 4 0#32)).setReg (Reg.OAR.ZT_STATUS o)
    (word (1 + s2.fld (Reg.OAR.ZT_STATUS o) 3 1 * 2 + fld (ws.getD 1 0#32) 10 8 * 16 + st.2 * 65536))

theorem zonesStored_shows (o : Nat) (ws : List Word) (s : State) :
    (oar (zonesStored o ws s) o).zones =
        (storeZones (fld (ws.getD 5 0#32) 12 0) (fld (ws.getD 6 0#32) 11 0) (fld (ws.getD 1 0#32) 10 8) ws 384 0 none).1.zipIdx.foldl
          (fun m e => SMap.set (fun _ => []) m e.2 e.1) []
      ∧ (zonesStored o ws s).reg (Reg.OAR.ZT_ID o) = ws.getD 4 0#32 := by
  unfold zonesStored
  generalize storeZones (fld (ws.getD 5 0#32) 12 0) (fld (ws.getD 6 0#32) 11 0) (fld (ws.getD 1 0#32) 10 8) ws 384 0 none = st
  dsimp only
  constructor
  · rw [oar_setReg, oar_setReg, oar_setReg, oar_modOar]
  · rw [setReg_other _ _ _ (header_ne (p := 0x030 + o) (by decide))]
    exact setReg_same ..

/-- Relocations as RT_DONE leaves them (R290). -/
def relocsStored (o : Nat) (ws : List Word) (s : State) : State :=
  ((modOar o (fun r => { r with relocs := quads (fld (ws.getD 2 0#32) 12 0) (ws.drop 16) }) s).setBit (Reg.OAR.RT_STATUS o) 0 true).setFld
    (Reg.OAR.RT_STATUS o) 28 16 (fld (ws.getD 2 0#32) 12 0)

theorem relocsStored_shows (o : Nat) (ws : List Word) (s : State) :
    (oar (relocsStored o ws s) o).relocs = quads (fld (ws.getD 2 0#32) 12 0) (ws.drop 16)
      ∧ (relocsStored o ws s).bit (Reg.OAR.RT_STATUS o) 0 = true := by
  constructor
  · rw [relocsStored, oar_setFld, oar_setBit, oar_modOar]
  · unfold relocsStored State.bit
    rw [reg_setFld, if_pos rfl, bit_setFld_apart _ _ _ _ _ (.inl (by decide))]
    exact bit_of_setBit _ _ _ _ (by decide)

section
variable {o : Nat} {s : State} (first : firstOar o = true) (runs : oarRuns s o = true)
include first runs

theorem zoneTableDone_stored (loads : s.bit (Reg.OAR.ZT_CTRL o) 0 = true) (awake : dramAwake s = true)
    (turn : creditTurn s (.load (Page.OAR o)) = true) {r : List Word × Bool × State}
    (fetched : fetchWords false (0x10 + o) (s.reg64 (Reg.OAR.ZT_ADDR_LO o) % 0x10000000000 / 64 * 64) 0xC10
      (takeCredit (.load (Page.OAR o)) s) = r) (sound : zoneFault r.1 r.2.1 = none) :
    exec (.zoneTableDone o false) s = .next (creditReturned (.load (Page.OAR o))
      (zonesStored o r.1 (r.2.2.setBit (Reg.OAR.ZT_CTRL o) 0 false))) := by
  have run : exec (.zoneTableDone o false) s = execZoneTableDone o false s := rfl
  have fetched' : fetchWords false (0x10 + o) ((takeCredit (.load (Page.OAR o)) s).reg64 (Reg.OAR.ZT_ADDR_LO o) % 2 ^ 40 / 64 * 64) 0xC10
      (takeCredit (.load (Page.OAR o)) s) = r := fetched
  rw [run, execZoneTableDone, when_met (by simp [first, runs, loads])]
  refine congrArg Host.Outcome.next (underCredit_taken awake turn ?_)
  simp only [fetched', sound, Bool.false_eq_true, if_false, Option.isSome_none]
  rfl

theorem relocTableDone_stored (loads : s.bit (Reg.OAR.RT_CTRL o) 0 = true) (awake : dramAwake s = true)
    (turn : creditTurn s (.load (Page.OAR o)) = true) {r : List Word × Bool × State}
    (fetched : fetchRelocs o (takeCredit (.load (Page.OAR o)) s) = r) (sound : relocFault r.1 r.2.1 = none) :
    exec (.relocTableDone o false) s = .next (creditReturned (.load (Page.OAR o))
      (relocsStored o r.1 (r.2.2.setBit (Reg.OAR.RT_CTRL o) 0 false))) := by
  have run : exec (.relocTableDone o false) s = execRelocTableDone o false s := rfl
  rw [run, execRelocTableDone, when_met (by simp [first, runs, loads])]
  refine congrArg Host.Outcome.next (underCredit_taken awake turn ?_)
  simp only [fetched, sound, Bool.false_eq_true, if_false, Option.isSome_none]
  rfl

end

/-! ### Relocations added one by one (R291) -/

/-- The relocation that the last write of RT_ADD completes. -/
def addedReloc (o : Nat) (v : Word) (s : State) : List Word :=
  [s.reg (Reg.OAR.RT_ADD o 0), s.reg (Reg.OAR.RT_ADD o 1), s.reg (Reg.OAR.RT_ADD o 2), v]

/-- What that write does to the first Oar of an actuator. -/
def relocAdded (o : Nat) (v : Word) (s : State) : State :=
  let r := addedReloc o v s
  let old := (oar s o).relocs
  let c := relocResult old r
  let s1 := s.setFld (Reg.OAR.RT_RESULT o) 2 0 c
  if c = 1 then lasting (Page.OAR o) 6 0 {} s1
  else if c ≠ 0 then s1
  else
    let new := if old.any fun x => relocKey x == relocKey r then old.map fun x => if relocKey x = relocKey r then r else x else old ++ [r]
    (modOar o (fun x => { x with relocs := new }) s1).setFld (Reg.OAR.RT_STATUS o) 28 16 new.length

theorem rtAdd_runs {req : Requester} {o : Nat} {v : Word} {s : State} (ho : o < 16) (may : Writes req (Reg.OAR.RT_ADD o 3) s) (first : o % 4 = 0) :
    exec (.rtAdd req o v) s = .next (relocAdded o v (busOk 0#32 s)) := by
  have run : exec (.rtAdd req o v) s = execRtAdd req o v s := rfl
  rw [run, execRtAdd, when_met (decide_eq_true ho), withWrite_pass may]
  exact congrArg Host.Outcome.next (if_neg (not_not_intro first))

theorem relocAdded_new {o : Nat} {v : Word} {s : State} (good : relocResult (oar s o).relocs (addedReloc o v s) = 0)
    (new : ((oar s o).relocs.any fun x => relocKey x == relocKey (addedReloc o v s)) = false) :
    (oar (relocAdded o v s) o).relocs = (oar s o).relocs ++ [addedReloc o v s] ∧ (relocAdded o v s).fld (Reg.OAR.RT_RESULT o) 2 0 = 0 := by
  unfold relocAdded
  simp only [good, new, Bool.false_eq_true, if_false, ne_eq, not_true_eq_false, zero_ne_one]
  constructor
  · rw [oar_setFld, oar_modOar, oar_setFld]
  · rw [fld_of_reg (setFld_other _ _ _ _ _ (header_ne (p := 0x030 + o) (by decide))), fld_of_reg (modOar_reg ..)]
    exact fld_of_setFld _ _ _ _ _ (by decide)

theorem relocAdded_refused {o : Nat} {v : Word} {s : State} {c : Nat} (code : relocResult (oar s o).relocs (addedReloc o v s) = c) (bad : c = 2 ∨ c = 3) :
    relocAdded o v s = s.setFld (Reg.OAR.RT_RESULT o) 2 0 c := by
  unfold relocAdded
  simp only [code]
  rw [if_neg (by omega), if_pos (by omega)]

/-! ### The settlement -/

/-- Settles O44. -/
theorem oarCommands : Obligations.OarCommands := by
  refine ⟨fun s o e x j y p runs powered job at_ purpose inJob up under_ => ?_,
    fun s o e j y runs powered job kind at_ up safe want inJob ahead under_ => ?_, fun s o e x host runs at_ landing valid reading => ?_,
    fun s o it t x ho takes free powered settled front next => ⟨fun c fe fault => ?_, fun fault ready => ?_⟩,
    fun s o j runs job kind done => ?_, fun s req o v ho load may first idle => ⟨fun gate_ => ?_, fun gate_ => ?_⟩,
    fun s o r first runs loads awake turn fetched sound => ?_, fun s req o v ho load may first idle gate_ => ?_,
    fun s o r first runs loads awake turn fetched sound => ?_, fun s req o v ho may first => ?_, fun s req o v ho may => ?_⟩
  · have run : exec (.sectorRead o e x) s = execSectorRead o e x s := rfl
    rw [run, execSectorRead, when_met (by simp [runs, powered])]
    simp only [job, at_, purpose, inJob, up, under_, Bool.and_self, if_true]
  · have run : exec (.sectorWrite o e) s = execSectorWrite o e s := rfl
    rw [run, execSectorWrite, when_met (by simp [runs, powered])]
    simp only [job]
    rw [if_neg (by omega)]
    simp only [at_]
    rw [if_pos ⟨kind, up, by simp [safe], want, inJob, ahead, under_⟩]
  · have run : exec (.landingAck o e) s = execLandingAck o e s := rfl
    rw [run, execLandingAck, when_met runs]
    simp only [at_, landing, valid]
    rw [if_neg reading]
  · have run : exec (.trackJobStart o) s = execTrackJobStart o s := rfl
    rw [run, execTrackJobStart, when_met (by simp [ho, takes, free, powered, settled])]
    simp only [front, fault, next]
  · have run : exec (.trackJobStart o) s = execTrackJobStart o s := rfl
    rw [run, execTrackJobStart, when_met (by simp [ho, takes, free, powered, settled])]
    simp only [front, fault, next, ready, if_true]
  · intro es
    have run : exec (.trackJobEnd o) s = execTrackJobEnd o s := rfl
    rw [run, execTrackJobEnd, when_met runs]
    simp only [job]
    rw [if_neg kind, if_pos done]
  · refine runs_write_to (modOar o (fun r => { r with zones := [] })
      (((busOk 0#32 s).setBit (Reg.OAR.ZT_CTRL o) 0 true).setBit (Reg.OAR.ZT_STATUS o) 0 false)) (c := .zoneTableLoad req o v) rfl
      (by simp [ho, load]) may ?_ ⟨?_, ?_, ?_, ?_⟩
    · rw [if_neg (by simp [first, show (busOk 0#32 s).bit (Reg.OAR.ZT_CTRL o) 0 = false from idle]),
        if_neg (not_of (show gateEnabled (busOk 0#32 s) o = false from gate_))]
    · rw [bit_of_reg (modOar_reg ..), bit_of_reg (setBit_other _ _ _ _ (header_ne (p := 0x030 + o) (by decide)))]
      exact bit_of_setBit _ _ _ _ (by decide)
    · rw [bit_of_reg (modOar_reg ..)]
      exact bit_of_setBit _ _ _ _ (by decide)
    · rw [oar_modOar, oar_setBit, oar_setBit, oar_busOk]
    · exact sameRegs_of_regs (sameRegs_setBit (sameRegs_setBit (u := busOk 0#32 s) (sameRegs_of_regs (sameRegs_refl _ s) rfl) _ _ _ (by simp)) _ _ _
        (by simp)) (modOar_regs ..)
  · refine runs_write_to (raise (Page.OAR o) 28 5 5 {} (busOk 0#32 s)) (c := .zoneTableLoad req o v) rfl
      (by simp [ho, load]) may ?_ ⟨?_, ?_⟩
    · rw [if_neg (by simp [first, show (busOk 0#32 s).bit (Reg.OAR.ZT_CTRL o) 0 = false from idle]),
        if_pos (show gateEnabled (busOk 0#32 s) o = true from gate_)]
    · exact oar_of_oars (s := busOk 0#32 s) ((raise_stays ..).same .oars (by decide)) o
    · exact sameRegs_raise (u := busOk 0#32 s) (sameRegs_of_regs (sameRegs_refl _ s) rfl) _ _ _ _ _ (beq_self_eq_true _)
  · have run := zoneTableDone_stored first runs loads awake turn fetched sound
    obtain ⟨oars, regs⟩ := creditReturned_shows (.load (Page.OAR o)) (zonesStored o r.1 (r.2.2.setBit (Reg.OAR.ZT_CTRL o) 0 false))
    obtain ⟨zones, id⟩ := zonesStored_shows o r.1 (r.2.2.setBit (Reg.OAR.ZT_CTRL o) 0 false)
    exact ⟨_, run, (congrArg Oar.zones (oar_of_oars oars o)).trans zones, (regs _).trans id⟩
  · refine runs_write_to (modOar o (fun r => { r with relocs := [] })
      (((busOk 0#32 s).setBit (Reg.OAR.RT_CTRL o) 0 true).setReg (Reg.OAR.RT_STATUS o) 0#32)) (c := .relocTableLoad req o v) rfl
      (by simp [ho, load]) may ?_ ⟨?_, ?_, ?_⟩
    · rw [if_neg (by simp [first, show (busOk 0#32 s).bit (Reg.OAR.RT_CTRL o) 0 = false from idle]),
        if_neg (not_of (show gateEnabled (busOk 0#32 s) o = false from gate_))]
    · rw [bit_of_reg (modOar_reg ..), bit_of_reg (setReg_other _ _ _ (header_ne (p := 0x030 + o) (by decide)))]
      exact bit_of_setBit _ _ _ _ (by decide)
    · rw [modOar_reg]
      exact setReg_same ..
    · rw [oar_modOar, oar_setReg, oar_setBit, oar_busOk]
  · have run := relocTableDone_stored first runs loads awake turn fetched sound
    obtain ⟨oars, regs⟩ := creditReturned_shows (.load (Page.OAR o)) (relocsStored o r.1 (r.2.2.setBit (Reg.OAR.RT_CTRL o) 0 false))
    obtain ⟨relocs, valid⟩ := relocsStored_shows o r.1 (r.2.2.setBit (Reg.OAR.RT_CTRL o) 0 false)
    exact ⟨_, run, (congrArg Oar.relocs (oar_of_oars oars o)).trans relocs, (bit_of_reg (regs _) 0).trans valid⟩
  · intro r
    have run := rtAdd_runs (v := v) ho may first
    constructor
    · intro good new
      exact ⟨_, run, relocAdded_new (s := busOk 0#32 s) good new⟩
    · intro bad
      refine ⟨_, run.trans (congrArg Host.Outcome.next (relocAdded_refused (s := busOk 0#32 s) rfl bad)),
        (oar_setFld ..).trans (oar_busOk ..), ?_, ?_⟩
      · have bad' : relocResult (oar (busOk 0#32 s) o).relocs (addedReloc o v (busOk 0#32 s)) = 2 ∨
            relocResult (oar (busOk 0#32 s) o).relocs (addedReloc o v (busOk 0#32 s)) = 3 := bad
        rw [fld_of_setFld _ _ _ _ _ (by decide)]
        exact Nat.mod_eq_of_lt (by omega)
      · exact sameRegs_setFld (u := busOk 0#32 s) (sameRegs_of_regs (sameRegs_refl _ s) rfl) _ _ _ _ (beq_self_eq_true _)
  · refine runs_write_to ((busOk 0#32 s).setReg (Reg.OAR.SW_CTRL o) (if mode s = 8 then v &&& 1#32 else 0#32)) (c := .swArmWrite req o v) rfl
      (decide_eq_true ho) may rfl ⟨setReg_same .., ?_⟩
    exact sameRegs_setReg (u := busOk 0#32 s) (sameRegs_of_regs (sameRegs_refl _ s) rfl) _ _ (beq_self_eq_true _)

end Sys2Proof.Machine
end

section
set_option Elab.async false
/-! The safe store (O45). -/

namespace Sys2Proof.Machine

section
variable {s : State}

theorem safeCommand_busy {req : Requester} {v : Word} {op : Nat} {eff : State → State} (may : Writes req Reg.SAFE.CMD s)
    (alive : blockAlive s Page.SAFE = true) (busy : (s.safe.dump.isSome || s.safe.running.isSome) = true) (named : fld v 2 0 = op) :
    safeCommand op req v eff s = safeResult 2 5 (busOk 0#32 s) := by
  rw [safeCommand, when_met (beq_iff_eq.2 named), withWrite_pass may,
    if_neg (not_not_of (show blockAlive (busOk 0#32 s) Page.SAFE = true from alive)),
    if_pos (show ((busOk 0#32 s).safe.dump.isSome || (busOk 0#32 s).safe.running.isSome) = true from busy)]

/-- A command of the safe store that nothing keeps from its effect (R455). -/
theorem safeCommand_acts {req : Requester} {v : Word} {op : Nat} {eff : State → State} (may : Writes req Reg.SAFE.CMD s)
    (alive : blockAlive s Page.SAFE = true) (still : s.safe.dump = none) (idle : s.safe.running = none) (named : fld v 2 0 = op) :
    safeCommand op req v eff s = eff (busOk 0#32 s) := by
  rw [safeCommand, when_met (beq_iff_eq.2 named), withWrite_pass may,
    if_neg (not_not_of (show blockAlive (busOk 0#32 s) Page.SAFE = true from alive)),
    if_neg (by simp [still, idle])]

/-- What a command's result leaves: the safe store, and every register but CMD_RESULT. -/
theorem safeResult_shows (u : State) (outcome code : Nat) : (safeResult outcome code u).safe = u.safe
    ∧ (safeResult outcome code u).reg Reg.SAFE.CMD_RESULT = word (outcome + code * 16)
    ∧ SameRegs (fun k => k == Reg.SAFE.CMD_RESULT) u (safeResult outcome code u) :=
  ⟨rfl, setReg_same .., sameRegs_setReg (sameRegs_refl _ u) _ _ (beq_self_eq_true _)⟩

/-- A command that ends with a result alone, with nothing else changed. -/
theorem safeResult_runs {c : Instr} {outcome code : Nat} (run : exec c s = .next (safeResult outcome code (busOk 0#32 s))) :
    Runs c s fun t => t.safe = s.safe ∧ t.reg Reg.SAFE.CMD_RESULT = word (outcome + code * 16)
      ∧ SameRegs (fun k => k == Reg.SAFE.CMD_RESULT) s t :=
  ⟨_, run, safeResult_shows (busOk 0#32 s) outcome code⟩

/-- A command that goes on running. -/
theorem safeBegin_runs {c : Instr} {op : Nat} (run : exec c s = .next (safeBegin op (busOk 0#32 s))) :
    Runs c s fun t => t.safe = { s.safe with running := some op } ∧ t.reg Reg.SAFE.CMD_RESULT = word (3 + 0 * 16)
      ∧ SameRegs (fun k => k == Reg.SAFE.CMD_RESULT) s t :=
  ⟨_, run, safeResult_shows (modSafe (fun x => { x with running := some op }) (busOk 0#32 s)) 3 0⟩

theorem raise_safe (p k sev code : Nat) (pl : Payload) : (raise p k sev code pl s).safe = s.safe :=
  (raise_stays p k sev code pl s).same .safe (by decide)

theorem critFld_of_crit {t : State} (h : t.crit = s.crit) (n hi lo : Nat) : t.critFld n hi lo = s.critFld n hi lo := by
  unfold State.critFld State.critVal
  rw [h]

end

theorem setCritFld_safe (s : State) (n hi lo v : Nat) : (s.setCritFld n hi lo v).safe = s.safe :=
  (State.setCritFld_stays s n hi lo v).same .safe (by decide)

/-- The end of RESTORE: its event by the count of poisoned granules (R461, R462). -/
def restoreOver (n : Nat) (pl : Payload) (u : State) : State :=
  if n = 0 then raise Page.SAFE 4 0 0 pl (safeEnd (u.setCritFld 20 2 0 4)) else lasting Page.SAFE 4 0 pl (safeEnd (u.setCritFld 20 2 0 4))

theorem restoreOver_shows (n : Nat) (pl : Payload) (u : State) : (restoreOver n pl u).safe = { u.safe with running := none }
    ∧ (restoreOver n pl u).reg Reg.SAFE.CMD_RESULT = 1#32 ∧ (restoreOver n pl u).critFld 20 2 0 = 4 := by
  have safe : (safeEnd (u.setCritFld 20 2 0 4)).safe = { u.safe with running := none } :=
    congrArg (fun x : SafeStore => { x with running := none }) (setCritFld_safe u 20 2 0 4)
  have result : (safeEnd (u.setCritFld 20 2 0 4)).reg Reg.SAFE.CMD_RESULT = 1#32 := setReg_same ..
  have state : (safeEnd (u.setCritFld 20 2 0 4)).critFld 20 2 0 = 4 := critFld_setCritFld u 20 2 0 4 (by decide)
  unfold restoreOver
  split
  · exact ⟨(raise_safe ..).trans safe, (raise_reg _ (by decide)).trans result,
      (critFld_of_crit ((raise_stays ..).same .crit (by decide)) ..).trans state⟩
  · exact ⟨((lasting_stays ..).same .safe (by decide)).trans safe, (lasting_reg _ (by decide) (by decide) (by decide)).trans result,
      (critFld_of_crit ((lasting_stays ..).same .crit (by decide)) ..).trans state⟩

/-- Settles O45. -/
theorem safeStoreCommands : Obligations.SafeStoreCommands := by
  refine ⟨fun s d dump on going first done => ?_, fun s d k dump on going first next => ?_, fun s d dump on going again => ?_,
    fun s d dump ended => ?_, fun s req v may alive busy => ⟨fun chip health op => ?_, fun op => ?_, fun op => ?_, fun op => ?_⟩,
    fun s req v may alive still idle => ⟨fun chip health op => ?_, fun op => ?_, fun a h op newest here fit => ?_, fun op newest => ?_,
      fun op => ?_, fun op => ?_, fun health op => ?_, fun op => ?_⟩,
    fun s worn health alive running => ?_, fun s health alive found due => ⟨fun still => ?_, fun dumping => ?_⟩,
    fun s bad a h running newest alive ready => ?_, fun s alive running waiting done => ?_⟩
  · have run : exec (.nandProgramDone true) s = execNandProgramDone true s := rfl
    refine ⟨modSafe (fun x => { x with dump := some { d with ended := true } })
      (setNandPage d.place (some ⟨d.seq % 65536, d.index, d.now, true⟩) s), ?_, rfl, rfl⟩
    rw [run, execNandProgramDone]
    simp only [dump]
    rw [when_met (by simp [on, going])]
    simp [first, done]
  · have run : exec (.nandProgramDone false) s = execNandProgramDone false s := rfl
    refine ⟨modSafe (fun x => { x with dump := some { d with place := k, again := true } })
      (setNandPage d.place (some ⟨d.seq % 65536, d.index, d.now, false⟩) s), ?_, rfl, rfl⟩
    rw [run, execNandProgramDone]
    simp only [dump]
    rw [when_met (by simp [on, going])]
    simp [first, next]
  · have run : exec (.nandProgramDone false) s = execNandProgramDone false s := rfl
    rw [run, execNandProgramDone]
    simp only [dump]
    rw [when_met (by simp [on, going])]
    simp [again]
  · have run : exec .dumpDone s = execDumpDone s := rfl
    rw [run, execDumpDone]
    simp only [dump, ended, if_true]
  · exact safeResult_runs (c := .safeScan req v chip health) (congrArg Host.Outcome.next (safeCommand_busy may alive busy op))
  · obtain ⟨t, run, safe, result, -⟩ := safeResult_runs (s := s) (c := .safePrepare req v)
      (congrArg Host.Outcome.next (safeCommand_busy may alive busy op))
    exact ⟨t, run, safe, result⟩
  · obtain ⟨t, run, safe, result, -⟩ := safeResult_runs (s := s) (c := .safeRestore req v)
      (congrArg Host.Outcome.next (safeCommand_busy may alive busy op))
    exact ⟨t, run, safe, result⟩
  · obtain ⟨t, run, safe, result, -⟩ := safeResult_runs (s := s) (c := .safeRelease req v)
      (congrArg Host.Outcome.next (safeCommand_busy may alive busy op))
    exact ⟨t, run, safe, result⟩
  · exact congrArg Host.Outcome.next (safeCommand_acts may alive still idle op)
  · exact safeBegin_runs (c := .safePrepare req v) (congrArg Host.Outcome.next (safeCommand_acts may alive still idle op))
  · have run : exec (.safeRestore req v) s = execSafeRestore req v s := rfl
    have acts : exec (.safeRestore req v) s = .next (safeBegin 3 (busOk 0#32 s)) := by
      rw [run, execSafeRestore, safeCommand_acts may alive still idle op]
      simp only [show (busOk 0#32 s).safe.newest = some (a, h) from newest]
      rw [if_neg (not_not.2 (show (busOk 0#32 s).critFld 20 2 0 = 2 from here)), if_neg (not_not_of fit)]
    obtain ⟨t, run, safe, result, -⟩ := safeBegin_runs acts
    exact ⟨t, run, safe, result⟩
  · have run : exec (.safeRestore req v) s = execSafeRestore req v s := rfl
    have refused : exec (.safeRestore req v) s = .next (safeResult 2 2 (busOk 0#32 s)) := by
      rw [run, execSafeRestore, safeCommand_acts may alive still idle op]
      simp only [show (busOk 0#32 s).safe.newest = none from newest]
    obtain ⟨t, run, safe, result, -⟩ := safeResult_runs refused
    exact ⟨t, run, safe, result⟩
  · exact congrArg Host.Outcome.next (safeCommand_acts may alive still idle op)
  · exact congrArg Host.Outcome.next (safeCommand_acts may alive still idle op)
  · exact congrArg Host.Outcome.next (safeCommand_acts may alive still idle op)
  · have run : exec (.safeCmdUnlisted req v) s = execSafeCmdUnlisted req v s := rfl
    refine safeResult_runs (outcome := 2) (code := 4) ?_
    rw [run, execSafeCmdUnlisted, when_met (by simpa using op), safeCommand_acts may alive still idle rfl]
  · have run : exec (.safePrepareDone worn health) s = execSafePrepareDone worn health s := rfl
    rw [run, execSafePrepareDone, when_met (by simp [alive, running])]
  · have run : exec (.healthPeriod health) s = execHealthPeriod health s := rfl
    rw [run, execHealthPeriod, when_met (by simp [alive, found, due]), if_neg (by simp [still])]
  · refine runs_to (modSafe (fun x => { x with testDue := true }) s) (c := .healthPeriod health) rfl (by simp [alive, found, due])
      (if_pos dumping) ⟨rfl, rfl⟩
  · have run : exec (.restoreDone bad) s = execRestoreDone bad s := rfl
    let u := (placeSections s 1 (dirSections h)).1.foldl (restoreSection bad (streamOf s a (headerSeq h)) (dumpTable s a h)) s
    let n := (u.reg Reg.SAFE.RESTORE_POISONED).toNat - (s.reg Reg.SAFE.RESTORE_POISONED).toNat
    refine ⟨restoreOver n ⟨word (dirSections h).length, word n, 0#32⟩ u, ?_, restoreOver_shows ..⟩
    rw [run, execRestoreDone]
    simp only [running, newest]
    rw [when_met (by simp [alive, ready])]
    rfl
  · refine runs_to (raise Page.SAFE 5 0 0 ⟨word (s.safe.cutting.filter fun i => !bit (inflightWord s i) 31).length, 0#32, 0#32⟩
      (safeEnd (modSafe (fun x => { x with cutting := [] }) (modSafe (fun x => { x with waiting := [] }) s)))) (c := .cutRewritten) rfl
      (by simp [alive, running]) ?_ ⟨?_, ?_, ?_⟩
    · have retried : retryCut s = modSafe (fun x => { x with waiting := [] }) s := by
        rw [retryCut, waiting]
        rfl
      rw [retried]
      exact if_neg (not_of (show (!([] : List Nat).isEmpty || s.safe.cutting.any (stillCut s)) = false by rw [done]; rfl))
    · rw [raise_safe]
      have kept : ({ s.safe with waiting := [] } : SafeStore) = s.safe := by rw [← waiting]
      exact congrArg (fun x : SafeStore => { x with running := none, cutting := [] }) kept
    · exact (raise_reg _ (by decide)).trans (setReg_same ..)
    · exact raise_mem ..

end Sys2Proof.Machine
end

section
set_option Elab.async false
/-! The power manager (O46). -/

namespace Sys2Proof.Machine

section
variable {s : State}

/-- A write of a critical word that passes the bus, by the word's address (R84, R85). -/
theorem critWriteAt_pass {n : Nat} {req : Requester} {addr : Addr} {v : Word} {eff : State → State} {k : Nat} (at_ : addrKey addr = some k)
    (of : critWordOf k = some n) (may : Writes req k s) : critWriteAt n req addr v eff s = eff (busOk 0#32 s) := by
  unfold critWriteAt
  simp only [at_]
  rw [if_pos of, withWrite_pass may]

/-- What a refused request of the power manager leaves: its result, and every register but its event's. -/
theorem modeRefuse_shows (code : Nat) : (modeRefuse code s).reg Reg.PWR.MODE_RESULT = word (2 + code * 16)
    ∧ SameRegs (fun k => k == Reg.PWR.MODE_RESULT || k == Reg.EV_PEND Page.PWR) s (modeRefuse code s) := by
  exact ⟨(raise_reg _ (by decide)).trans (setReg_same ..),
    sameRegs_raise (sameRegs_setReg (sameRegs_refl _ s) _ _ (by decide)) _ _ _ _ _ (by decide)⟩

/-- A supply's warning: raised when the input has just fallen below its threshold (R441). -/
def warnedIf (b : Bool) (code : Nat) (t : State) : State := if b then raise Page.PWR 3 0 code {} t else t

theorem warnedIf_shows (b : Bool) (code : Nat) (t : State) : (warnedIf b code t).power = t.power
    ∧ ∀ {u : State}, SameRegs (fun k => k == Reg.PWR.SUPPLY_V || k == Reg.EV_PEND Page.PWR) u t →
        SameRegs (fun k => k == Reg.PWR.SUPPLY_V || k == Reg.EV_PEND Page.PWR) u (warnedIf b code t) := by
  unfold warnedIf
  split
  · exact ⟨(raise_stays ..).same .power (by decide), fun same => sameRegs_raise same _ _ _ _ _ (by decide)⟩
  · exact ⟨rfl, id⟩

theorem modPower_reg (f : Power → Power) (t : State) (k : Nat) : (modPower f t).reg k = t.reg k := rfl

theorem modPower_power (f : Power → Power) (t : State) : (modPower f t).power = f t.power := rfl

theorem setReg_power (t : State) (k : Nat) (v : Word) : (t.setReg k v).power = t.power := rfl

theorem showInputs_volts (v12 v5 : Nat) (t : State) :
    (showInputs v12 v5 t).reg Reg.PWR.SUPPLY_V = word (v12 % 65536 + v5 % 65536 * 65536) := by
  rw [showInputs, setReg_same]

/-- Both inputs' warnings, and the inputs shown. -/
def supplyShown (v12 v5 : Nat) (low12 low5 : Bool) (t : State) : State :=
  modPower (fun p => { p with warned12 := low12, warned5 := low5 }) (showInputs v12 v5 t)

theorem supplyShown_shows (v12 v5 : Nat) (low12 low5 : Bool) (t : State) :
    (supplyShown v12 v5 low12 low5 t).power = { t.power with warned12 := low12, warned5 := low5 }
      ∧ (supplyShown v12 v5 low12 low5 t).reg Reg.PWR.SUPPLY_V = word (v12 % 65536 + v5 % 65536 * 65536)
      ∧ (supplyShown v12 v5 low12 low5 t).regs = (showInputs v12 v5 t).regs :=
  ⟨by rw [supplyShown, modPower_power, showInputs, setReg_power], (modPower_reg ..).trans (showInputs_volts ..), rfl⟩

theorem wbActive_of {t : State} (h : t.critFld 22 1 1 = 1) : wbActive t = true := by
  rw [wbActive, h]
  rfl

theorem raise_crit (p k sev code : Nat) (pl : Payload) (t : State) : (raise p k sev code pl t).crit = t.crit :=
  (raise_stays p k sev code pl t).same .crit (by decide)

/-- A request of domains that the mode allows (R436). -/
theorem domainReqEffect_allowed {v : Word} (here : mode s = 0 ∨ mode s = 8) : domainReqEffect v s
    = if bit v 31 then ((List.range 20).filter fun d => bit v d && requestable d).foldl (fun t d => switchOff d t) s
      else switchOnAll ((List.range 20).filter fun d => bit v d && requestable d) s :=
  if_neg (by omega)

end

/-- Settles O46. -/
theorem powerCommands : Obligations.PowerCommands := by
  refine ⟨fun s v12 v5 ns released up long => ⟨fun low => ?_, fun high low => ?_⟩, fun s us released up long => ?_, fun s v12 v5 released => ?_,
    fun s r n alive due amount => ⟨fun moved => ?_, fun same => ?_⟩, fun s req addr v k at_ of may => ?_, fun s req addr v k at_ of may => ?_,
    fun s u runs clear level inactive since due => ?_, fun s req addr v k at_ of may runs => ?_, fun s runs => ⟨?_, ?_, fun ma => ?_⟩,
    fun s runs trigger entering exiting level => ?_, fun s req v may here => ⟨fun on => ?_, fun off => ?_⟩,
    fun s req v may here there on => ?_, fun s d runs small on => ?_, fun s c rest front => ?_⟩
  · have run : exec (.pwrFail v12 v5 ns) s = execPwrFail v12 v5 ns s := rfl
    rw [run, execPwrFail, if_neg (by simp [released]), when_met (by simp [monitors, released, up, long]), if_pos low]
  · have run : exec (.pwrFail v12 v5 ns) s = execPwrFail v12 v5 ns s := rfl
    rw [run, execPwrFail, if_neg (by simp [released]), when_met (by simp [monitors, released, up, long]), if_neg (by omega), if_pos low]
  · have run : exec (.powerDisable us) s = execPowerDisable us s := rfl
    rw [run, execPowerDisable, when_met (by simp [monitors, released, up, long])]
  · let low12 := decide (v12 < s.fld Reg.PWR.SUPPLY_CFG 31 16)
    let low5 := decide (v5 < s.fld Reg.PWR.SUPPLY_CFG2 31 16)
    obtain ⟨power1, same1⟩ := warnedIf_shows (low12 && !s.power.warned12) 1 s
    obtain ⟨power2, same2⟩ := warnedIf_shows (low5 && !s.power.warned5) 2 (warnedIf (low12 && !s.power.warned12) 1 s)
    obtain ⟨power, volts, regs⟩ := supplyShown_shows v12 v5 low12 low5
      (warnedIf (low5 && !s.power.warned5) 2 (warnedIf (low12 && !s.power.warned12) 1 s))
    refine runs_to _ (c := .supplyWarn v12 v5) rfl (by simp [released]) rfl ⟨?_, volts, ?_⟩
    · rw [power2, power1] at power
      exact power
    · exact sameRegs_of_regs (sameRegs_setReg (same2 (same1 (sameRegs_refl _ s))) _ _ (by decide)) regs
  · have run : exec (.reserveUpdate r) s = execReserveUpdate r s := rfl
    rw [run, execReserveUpdate, when_met (by simp [alive, due])]
    dsimp only
    rw [← amount, if_neg moved]
  · have run : exec (.reserveUpdate r) s = execReserveUpdate r s := rfl
    rw [run, execReserveUpdate, when_met (by simp [alive, due])]
    dsimp only
    rw [← amount, if_pos same]
  · exact congrArg Host.Outcome.next (critWriteAt_pass at_ of may)
  · exact congrArg Host.Outcome.next (critWriteAt_pass at_ of may)
  · have waited : s.power.wbSince.any (fun t => decide (t + s.fld Reg.PWR.WB_CFG 15 0 * 1000000 ≤ s.time)) = true := by
      rw [since, Option.any_some]
      exact decide_eq_true due
    refine runs_to (raise Page.BOAT 5 0 1 ⟨word (s.critFld 22 11 8), 0#32, 0#32⟩ (s.setCritFld 22 1 1 1)) (c := .wbActivate) rfl
      (by rw [waited]; simp [runs, clear, level, inactive]) rfl ?_
    have stored : (s.setCritFld 22 1 1 1).critFld 22 1 1 = 1 := by rw [critFld_setCritFld _ _ _ _ _ (by decide)]; decide
    exact wbActive_of ((critFld_of_crit (raise_crit ..) 22 1 1).trans stored)
  · exact congrArg Host.Outcome.next ((critWriteAt_pass at_ of may).trans (if_pos runs))
  · have run : exec .idleTimer s = execIdleTimer s := rfl
    rw [run, execIdleTimer, when_met runs]
  · have run : exec .levelEntered s = execLevelEntered s := rfl
    rw [run, execLevelEntered, when_met runs]
  · have run : exec (.levelExitDone ma) s = execLevelExitDone ma s := rfl
    rw [run, execLevelExitDone, when_met runs]
  · have run : exec .levelExit s = execLevelExit s := rfl
    rw [run, execLevelExit, when_met (by simp [runs, trigger, entering, exiting, level])]
  · have run : exec (.domainSwitchOn req v) s = execDomainSwitchOn req v s := rfl
    rw [run, execDomainSwitchOn, when_met (by simp [on]), withWrite_pass may,
      domainReqEffect_allowed (s := busOk 0#32 s) here, if_neg (not_of on)]
  · have run : exec (.domainSwitchOff req v) s = execDomainSwitchOff req v s := rfl
    rw [run, execDomainSwitchOff, when_met off, withWrite_pass may,
      domainReqEffect_allowed (s := busOk 0#32 s) here, if_pos off]
  · refine runs_to (modeRefuse 5 (busOk 0#32 s)) (c := .domainSwitchOn req v) rfl (by simp [on]) ?_ ?_
    · rw [withWrite_pass may]
      exact if_pos ⟨here, there⟩
    · exact modeRefuse_shows (s := busOk 0#32 s) 5
  · have run : exec (.domainFault d) s = execDomainFault d s := rfl
    rw [run, execDomainFault, when_met (by simp [runs, small, on])]
  · have run : exec .safeEnter s = execSafeEnter s := rfl
    rw [run, execSafeEnter]
    simp only [front]

end Sys2Proof.Machine
end

section
set_option Elab.async false
/-! The frames of the bridge link (O47). -/

namespace Sys2Proof.Machine

section
variable {s : State}

theorem unmarked_toRigger (h : s.rigger.badToRigger = false) : modRigger (fun r => { r with badToRigger := false }) s = s := by
  have kept : ({ s.rigger with badToRigger := false } : Rigger) = s.rigger := by rw [← h]
  exact congrArg (fun x : Rigger => ({ s with rigger := x } : State)) kept

theorem unmarked_toCore (h : s.rigger.badToCore = false) : modRigger (fun r => { r with badToCore := false }) s = s := by
  have kept : ({ s.rigger with badToCore := false } : Rigger) = s.rigger := by rw [← h]
  exact congrArg (fun x : Rigger => ({ s with rigger := x } : State)) kept

/-- A good frame to the rigger die, of what it asks for and no repeat: the slots are taken and the link stands (R14, R15). -/
def frameDelivered (now : Nat) (u : State) : State :=
  modRigger (fun r => { r with lastGood := now }) ((takeHeld (deliverSlots u)).setBit Reg.DRV.BRIDGE_STAT 0 true)

theorem toRigger_good {m : RiggerMirror} (good : s.rigger.badToRigger = false) :
    exec (.bridgeFrame true true m) s = .next (frameDelivered s.time (takeAsked m.busMv s)) := by
  have run : exec (.bridgeFrame true true m) s = execBridgeFrame true true m s := rfl
  rw [run, execBridgeFrame]
  dsimp only
  rw [if_pos rfl, if_neg (not_of (b := if true = true then s.rigger.badToRigger else s.rigger.badToCore) good)]
  simp only [if_true]
  rw [unmarked_toRigger good]
  rfl

theorem takeHeld_shows (u : State) : (takeHeld u).rigger = { u.rigger with held := (takeHeld u).rigger.held } ∧ (takeHeld u).regs = u.regs := by
  unfold takeHeld
  split <;> exact ⟨rfl, rfl⟩

/-- What a delivered frame leaves: what the outputs took, with the time of the frame and the registers that the rigger die holds. -/
theorem frameDelivered_rigger (now : Nat) (u : State) :
    ∃ held, (frameDelivered now u).rigger = { (deliverSlots u).rigger with held := held, lastGood := now } := by
  obtain ⟨rigger, -⟩ := takeHeld_shows (deliverSlots u)
  exact ⟨_, congrArg (fun r : Rigger => { r with lastGood := now }) rigger⟩

theorem deliverSlots_regs (u : State) : (deliverSlots u).regs = u.regs := by
  unfold deliverSlots
  dsimp only
  split <;> rfl

theorem frameDelivered_regs {now : Nat} {u : State} (h : SameRegs (fun k => k == Reg.DRV.BRIDGE_STAT) s u) :
    SameRegs (fun k => k == Reg.DRV.BRIDGE_STAT) s (frameDelivered now u) := by
  have regs : (takeHeld (deliverSlots u)).regs = u.regs := (takeHeld_shows _).2.trans (deliverSlots_regs u)
  exact sameRegs_of_regs (sameRegs_setBit (sameRegs_of_regs h regs) _ _ _ (by decide)) rfl

theorem frameDelivered_link (now : Nat) (u : State) : (frameDelivered now u).bit Reg.DRV.BRIDGE_STAT 0 = true :=
  bit_of_setBit (takeHeld (deliverSlots u)) Reg.DRV.BRIDGE_STAT 0 true (by decide)

/-- The outputs of the rigger die outside the state of R16 (R13, R14). -/
theorem deliverSlots_driven {u : State} (on : u.rigger.autonomous = false) :
    (deliverSlots u).rigger.hears = true ∧ (deliverSlots u).rigger.duty = u.rigger.keelSlot.duty
      ∧ (deliverSlots u).rigger.limitMa = u.rigger.keelSlot.limitMa
      ∧ (deliverSlots u).rigger.spindleOn = (u.rigger.keelSlot.on && !u.rigger.vcrit)
      ∧ (u.rigger.coilsOn = true → ∀ a, a < 4 → SMap.get (fun _ => 0) (deliverSlots u).rigger.coil a = (rudDrive u a).coilMa)
      ∧ (deliverSlots u).rigger.autonomous = false ∧ (deliverSlots u).rigger.asked = u.rigger.asked
      ∧ (deliverSlots u).rigger.microOn = u.rigger.microOn := by
  unfold deliverSlots
  dsimp only
  rw [if_neg (not_of on)]
  refine ⟨rfl, rfl, rfl, rfl, fun coils a small => ?_, on, rfl, rfl⟩
  show SMap.get (fun _ => 0) (if u.rigger.coilsOn then _ else _) a = _
  rw [if_pos coils]
  refine (get_foldl_set _ (fun i => (rudDrive u (i * 4 / 4)).coilMa) (List.range 4) u.rigger.coil a).trans ?_
  rw [if_pos (List.mem_range.2 small), Nat.mul_div_cancel _ (by decide)]

/-- In the state of R16 the slots are not taken. -/
theorem deliverSlots_autonomous {u : State} (on : u.rigger.autonomous = true) :
    (deliverSlots u).rigger = { u.rigger with hears := true } := by
  unfold deliverSlots
  dsimp only
  rw [if_pos on]
  rfl

/-- The frame leaves the chopper and what is asked of the die. -/
theorem deliverSlots_chopper (u : State) : (deliverSlots u).rigger.asked = u.rigger.asked
    ∧ (deliverSlots u).rigger.chopFault = u.rigger.chopFault ∧ (deliverSlots u).rigger.chopKind = u.rigger.chopKind
    ∧ (deliverSlots u).rigger.chopTested = u.rigger.chopTested ∧ (deliverSlots u).rigger.chopOn = u.rigger.chopOn := by
  unfold deliverSlots
  dsimp only
  split <;> exact ⟨rfl, rfl, rfl, rfl, rfl⟩

/-- What a frame that asks a test, a clear of the chopper's fault or nothing leaves of the requests. -/
def askedTaken (c : Bool) (u : State) : State :=
  modRigger (fun r => { r with asked := RigAsk.none, chopFault := r.chopFault && !c, chopKind := if c then 0 else r.chopKind }) u

theorem takeAsked_nothing {bus : Nat} (asked : s.rigger.asked = RigAsk.none) : takeAsked bus s = s := by
  have kept : ({ s.rigger with asked := RigAsk.none, chopFault := s.rigger.chopFault && !false, chopKind := s.rigger.chopKind } : Rigger)
      = s.rigger := by rw [← asked, Bool.not_false, Bool.and_true]
  unfold takeAsked
  rw [asked]
  exact congrArg (fun x : Rigger => ({ s with rigger := x } : State)) kept

theorem takeAsked_clear {bus : Nat} (asked : s.rigger.asked = { RigAsk.none with chopClear := true }) :
    takeAsked bus s = askedTaken true s := by
  unfold takeAsked
  rw [asked]
  rfl

theorem takeAsked_test {bus ma : Nat} (asked : s.rigger.asked = { RigAsk.none with test := some ma }) :
    takeAsked bus s = chopSelfTest ma bus (askedTaken false s) := by
  unfold takeAsked
  rw [asked]
  rfl

theorem takeAsked_resume {bus : Nat} (asked : s.rigger.asked = { RigAsk.none with resume := true }) (off : s.rigger.autonomous = true) :
    takeAsked bus s = modRigger (fun r => { r with autonomous := false, microOn := true, coil := [] }) (askedTaken false s) := by
  unfold takeAsked
  rw [asked]
  dsimp only
  rw [if_neg (by decide)]
  exact if_pos (c := (true && s.rigger.autonomous) = true) (by rw [off]; rfl)

/-- What the mirror shows of the rigger die in the core die's registers (R15, R104). -/
theorem mirrorRigger_shows (m : RiggerMirror) : (mirrorRigger m s).rigger = s.rigger
    ∧ (mirrorRigger m s).fld Reg.DRV.BUS_V 15 0 = m.busMv / 6 * 6 % 65536
    ∧ (mirrorRigger m s).fld Reg.DRV.RIG_TEMP 15 0 = toField 16 m.tempDeciC % 65536
    ∧ (mirrorRigger m s).reg Reg.DRV.CHOP_STATUS = word (ofBool s.rigger.chopOn + 2 * ofBool s.rigger.chopFault + 4 * s.rigger.chopKind
          + 16 * ofBool s.rigger.chopTested + 65536 * (m.chopMa % 65536))
    ∧ (mirrorRigger m s).fld Reg.DRV.BRIDGE_STAT 15 1 = (ofBool s.rigger.autonomous + 2 * ofBool s.rigger.isoOpen + 4 * ofBool s.rigger.vcrit
          + 128 * s.rigger.rigCode) % 32768
    ∧ SameRegs (fun k => k == Reg.DRV.BRIDGE_STAT || k == Reg.DRV.BUS_V || k == Reg.DRV.RIG_TEMP || k == Reg.DRV.CHOP_STATUS) s
        (mirrorRigger m s) := by
  refine ⟨rfl, ?_, ?_, ?_, fld_of_setFld _ _ _ _ _ (by decide), ?_⟩
  · unfold mirrorRigger
    rw [fld_of_reg (setFld_other _ _ _ _ _ (by decide)), fld_of_reg (setReg_other _ _ _ (by decide)),
      fld_of_reg (setFld_other _ _ _ _ _ (by decide))]
    exact fld_of_setFld _ _ _ _ _ (by decide)
  · unfold mirrorRigger
    rw [fld_of_reg (setFld_other _ _ _ _ _ (by decide)), fld_of_reg (setReg_other _ _ _ (by decide))]
    exact fld_of_setFld _ _ _ _ _ (by decide)
  · unfold mirrorRigger
    rw [setFld_other _ _ _ _ _ (by decide)]
    exact setReg_same ..
  · exact sameRegs_setFld (sameRegs_setReg (sameRegs_setFld (sameRegs_setFld (sameRegs_refl _ s) _ _ _ _ (by decide)) _ _ _ _ (by decide))
      _ _ (by decide)) _ _ _ _ (by decide)

theorem toCore_good {m : RiggerMirror} (good : s.rigger.badToCore = false) :
    exec (.bridgeFrame false true m) s = .next (modRigger (fun r => { r with lastGood := s.time })
      ((offNews (s.bit Reg.DRV.BRIDGE_STAT 1) (tripNews (faultNews (chopNews (mirrorRigger m s))))).setBit Reg.DRV.BRIDGE_STAT 0 true)) := by
  have run : exec (.bridgeFrame false true m) s = execBridgeFrame false true m s := rfl
  rw [run, execBridgeFrame]
  dsimp only
  rw [if_pos rfl, if_neg (not_of (b := if false = true then s.rigger.badToRigger else s.rigger.badToCore) good)]
  simp only [Bool.false_eq_true, if_false]
  rw [unmarked_toCore good]
  rfl

/-- The mirror alone: a frame to the core die that tells of nothing. -/
theorem quiet_news {m : RiggerMirror} (on : s.rigger.autonomous = false) (chop : s.rigger.chopNew = false) (fault : s.rigger.faultNew = false)
    (trip : s.rigger.tripNew = false) (was : s.bit Reg.DRV.BRIDGE_STAT 1 = false)
    (driven : (s.rigger.vcrit && drivesBridge (keelState s)) = false) :
    offNews (s.bit Reg.DRV.BRIDGE_STAT 1) (tripNews (faultNews (chopNews (mirrorRigger m s)))) = mirrorRigger m s := by
  obtain ⟨rigger, -, -, -, -, regs⟩ := mirrorRigger_shows (s := s) m
  have keel : keelState (mirrorRigger m s) = keelState s := congrArg (fld · 11 8) (regs _ (by decide))
  have a : chopNews (mirrorRigger m s) = mirrorRigger m s := by rw [chopNews, rigger, chop]; rfl
  have b : faultNews (mirrorRigger m s) = mirrorRigger m s := by rw [faultNews, rigger, fault]; rfl
  have c : tripNews (mirrorRigger m s) = mirrorRigger m s := by rw [tripNews, rigger, trip]; rfl
  rw [a, b, c, was, offNews, rigger, keel, on, Bool.false_or, driven]
  rfl

/-- A write of BRIDGE_CTRL that asks for RESUME alone (R17). -/
theorem bridgeCtrlEffect_resume {v : Word} (go : bit v 0 = true) (noClear : bit v 1 = false) {b : Bool}
    (answers : (linkUp s && s.rigger.hears && s.rigger.autonomous) = b) :
    bridgeCtrlEffect v s = askRigger (fun x => { x with resume := x.resume || b }) s := by
  unfold bridgeCtrlEffect
  simp only [go, noClear, Bool.true_and, Bool.false_and, Bool.or_false, answers]

/-- What a good frame marks: the link stands, and the time of the frame. -/
theorem linkMarked_shows (now : Nat) (u : State) :
    let t := modRigger (fun r => { r with lastGood := now }) (u.setBit Reg.DRV.BRIDGE_STAT 0 true)
    t.rigger = { u.rigger with lastGood := now } ∧ t.bit Reg.DRV.BRIDGE_STAT 0 = true
      ∧ (∀ i, i ≠ 0 → t.bit Reg.DRV.BRIDGE_STAT i = u.bit Reg.DRV.BRIDGE_STAT i) ∧ ∀ k, k ≠ Reg.DRV.BRIDGE_STAT → t.reg k = u.reg k := by
  refine ⟨rfl, bit_of_setBit u _ _ _ (by decide), fun i other => ?_, fun k other => setBit_other u _ _ _ other⟩
  refine (bit_of_reg (s := u.setBit Reg.DRV.BRIDGE_STAT 0 true) rfl i).trans ?_
  rw [State.bit, reg_setBit, if_pos rfl, bit_setBit _ _ _ _ (by decide), if_neg other]
  rfl

/-- A bit of a field. -/
theorem bit_of_fld {w : Word} {n : Nat} (h : fld w 15 1 = n) {j : Nat} (small : j < 15) : bit w (1 + j) = n.testBit j := by
  rw [← h, testBit_fld, decide_eq_true (by omega), Bool.true_and]
  rfl

theorem ofBool_le (b : Bool) : ofBool b ≤ 1 := by cases b <;> decide

theorem ofBool_eq_one {b : Bool} : ofBool b = 1 ↔ b = true := by cases b <;> decide

/-- The link's status word that the mirror brings: the state of R16 in bit 1, the trip at V_CRIT in bit 3. -/
theorem statusField_bits (a i v : Bool) (code : Nat) :
    ((ofBool a + 2 * ofBool i + 4 * ofBool v + 128 * code) % 32768).testBit 0 = a
      ∧ ((ofBool a + 2 * ofBool i + 4 * ofBool v + 128 * code) % 32768).testBit 2 = v := by
  have ha := ofBool_le a
  have hi := ofBool_le i
  have hv := ofBool_le v
  rw [Nat.testBit_eq_decide_div_mod_eq, Nat.testBit_eq_decide_div_mod_eq]
  exact ⟨Bool.eq_iff_iff.2 (by rw [decide_eq_true_iff, ← ofBool_eq_one]; omega),
    Bool.eq_iff_iff.2 (by rw [decide_eq_true_iff, ← ofBool_eq_one]; omega)⟩

/-- A frame that is discarded on its CRC: counted, and its repeat awaited (R15). -/
theorem badFrame_counted (f : Rigger → Rigger) :
    (modRigger f (s.countFld Reg.DRV.BRIDGE_STAT 31 16 1)).rigger = f s.rigger
      ∧ (modRigger f (s.countFld Reg.DRV.BRIDGE_STAT 31 16 1)).fld Reg.DRV.BRIDGE_STAT 31 16
          = satAdd 65535 (s.fld Reg.DRV.BRIDGE_STAT 31 16) 1
      ∧ SameRegs (fun k => k == Reg.DRV.BRIDGE_STAT) s (modRigger f (s.countFld Reg.DRV.BRIDGE_STAT 31 16 1)) :=
  ⟨rfl, fld_countFld s Reg.DRV.BRIDGE_STAT 1 (by decide),
    sameRegs_of_regs (sameRegs_setFld (sameRegs_refl _ s) _ _ _ _ (by decide)) rfl⟩

end

/-- Settles O47. -/
theorem bridgeFrames : Obligations.BridgeFrames := by
  refine ⟨fun s m good nothing on => ?_, fun s m good nothing off => ?_, fun s m good resume off => ?_, fun s m good clear => ?_,
    fun s m ma good test => ?_, fun s m good => toRigger_good good, fun s m good => toCore_good good,
    fun s m good on chop fault trip was driven => ?_, fun s m => ⟨fun first => ?_, fun again => ?_, fun first => ?_, fun again => ?_⟩,
    fun s ns => ⟨fun long => ?_, fun short => ?_⟩, fun s req v may go noClear => ⟨fun answers => ?_, fun deaf => ?_⟩⟩
  · have run := toRigger_good (m := m) good
    rw [takeAsked_nothing nothing] at run
    obtain ⟨held, rigger⟩ := frameDelivered_rigger s.time s
    obtain ⟨hears, duty, limit, spindle, coil, -, -, -⟩ := deliverSlots_driven on
    refine ⟨_, run, frameDelivered_link .., ?_, ?_, ?_, ?_, ?_, ?_, frameDelivered_regs (sameRegs_refl _ s)⟩ <;> rw [rigger]
    · exact hears
    · exact duty
    · exact limit
    · exact spindle
    · exact coil
  · have run := toRigger_good (m := m) good
    rw [takeAsked_nothing nothing] at run
    obtain ⟨held, rigger⟩ := frameDelivered_rigger s.time s
    rw [deliverSlots_autonomous off] at rigger
    refine ⟨_, run, ?_, ?_, ?_, ?_, ?_, frameDelivered_regs (sameRegs_refl _ s)⟩ <;> rw [rigger]
    exact off
  · have run := toRigger_good (m := m) good
    rw [takeAsked_resume resume off] at run
    obtain ⟨held, rigger⟩ := frameDelivered_rigger s.time
      (modRigger (fun r => { r with autonomous := false, microOn := true, coil := [] }) (askedTaken false s))
    obtain ⟨-, duty, -, -, -, on, asked, micro⟩ := deliverSlots_driven
      (u := modRigger (fun r => { r with autonomous := false, microOn := true, coil := [] }) (askedTaken false s)) rfl
    refine ⟨_, run, ?_, ?_, ?_, ?_, frameDelivered_regs (sameRegs_of_regs (sameRegs_refl _ s) rfl)⟩ <;> rw [rigger]
    · exact on
    · exact asked
    · exact micro
    · exact duty
  · have run := toRigger_good (m := m) good
    rw [takeAsked_clear clear] at run
    obtain ⟨held, rigger⟩ := frameDelivered_rigger s.time (askedTaken true s)
    obtain ⟨asked, fault, kind, -, -⟩ := deliverSlots_chopper (askedTaken true s)
    refine ⟨_, run, ?_, ?_, ?_⟩ <;> rw [rigger]
    · exact fault.trans (Bool.and_false _)
    · exact kind
    · exact asked
  · have run := toRigger_good (m := m) good
    rw [takeAsked_test test] at run
    obtain ⟨held, rigger⟩ := frameDelivered_rigger s.time (chopSelfTest ma m.busMv (askedTaken false s))
    obtain ⟨asked, fault, kind, tested, off⟩ := deliverSlots_chopper (chopSelfTest ma m.busMv (askedTaken false s))
    refine ⟨_, run, ?_, fun current bus => ?_, fun fails => ?_⟩ <;> rw [rigger]
    · refine asked.trans ?_
      unfold chopSelfTest
      split <;> rfl
    · have passes : chopSelfTest ma m.busMv (askedTaken false s) = modRigger (fun r => { r with chopTested := true }) (askedTaken false s) :=
        if_pos ⟨current, bus⟩
      rw [passes] at tested fault ⊢
      exact ⟨tested, fault.trans (Bool.and_true _)⟩
    · have failed : chopSelfTest ma m.busMv (askedTaken false s) = chopFails 3 (askedTaken false s) :=
        if_neg (show ¬ (rigIMin s ≤ ma ∧ m.busMv < rigChopOn s) by omega)
      rw [failed] at fault kind off ⊢
      exact ⟨fault, kind, off⟩
  · have run := toCore_good (m := m) good
    rw [quiet_news on chop fault trip was driven] at run
    obtain ⟨rigger, bus, temp, status, link, same⟩ := mirrorRigger_shows (s := s) m
    obtain ⟨auto, crit⟩ := statusField_bits s.rigger.autonomous s.rigger.isoOpen s.rigger.vcrit s.rigger.rigCode
    obtain ⟨marked, up, bits, others⟩ := linkMarked_shows s.time (mirrorRigger m s)
    refine ⟨_, run, ?_, up, ?_, ?_, (fld_of_reg (others _ (by decide)) 15 0).trans bus, (fld_of_reg (others _ (by decide)) 15 0).trans temp,
      (others _ (by decide)).trans status, sameRegs_of_regs (sameRegs_setBit same _ _ _ (by decide)) rfl⟩
    · rw [marked, rigger, ← congrArg State.rigger (unmarked_toCore good)]
      rfl
    · exact (bits 1 (by decide)).trans ((bit_of_fld link (j := 0) (by decide)).trans (auto.trans on))
    · exact (bits 3 (by decide)).trans ((bit_of_fld link (j := 2) (by decide)).trans crit)
  · have run : exec (.bridgeFrame true false m) s = execBridgeFrame true false m s := rfl
    refine ⟨modRigger (fun r => { r with badToRigger := true }) (s.countFld Reg.DRV.BRIDGE_STAT 31 16 1), ?_, badFrame_counted _⟩
    rw [run, execBridgeFrame]
    simp only [Bool.false_eq_true, if_false, if_true, first]
  · have run : exec (.bridgeFrame true false m) s = execBridgeFrame true false m s := rfl
    rw [run, execBridgeFrame]
    simp only [Bool.false_eq_true, if_false, if_true, again]
  · have run : exec (.bridgeFrame false false m) s = execBridgeFrame false false m s := rfl
    refine ⟨modRigger (fun r => { r with badToCore := true }) (s.countFld Reg.DRV.BRIDGE_STAT 31 16 1), ?_, badFrame_counted _⟩
    rw [run, execBridgeFrame]
    simp only [Bool.false_eq_true, if_false, first]
  · have run : exec (.bridgeFrame false false m) s = execBridgeFrame false false m s := rfl
    rw [run, execBridgeFrame]
    simp only [Bool.false_eq_true, if_false, if_true, again]
  · exact ⟨riggerAutonomous s, congrArg Host.Outcome.next (when_met (decide_eq_true long) _), rfl, rfl, rfl, rfl, rfl, rfl, rfl⟩
  · exact congrArg Host.Outcome.next (when_unmet (decide_eq_false (Nat.not_le.2 short)) _)
  · have run : exec (.bridgeResume req v) s = execBridgeResume req v s := rfl
    rw [run, execBridgeResume, when_met go, withWrite_pass may, bridgeCtrlEffect_resume (s := busOk 0#32 s) go noClear answers]
    simp only [Bool.or_true]
  · have run : exec (.bridgeResume req v) s = execBridgeResume req v s := rfl
    rw [run, execBridgeResume, when_met go, withWrite_pass may, bridgeCtrlEffect_resume (s := busOk 0#32 s) go noClear deaf]
    simp only [Bool.or_false]
    rfl

end Sys2Proof.Machine
end

section
set_option Elab.async false
/-! The chopper and the rigger die's trips (O48). -/

namespace Sys2Proof.Machine

section
variable {s : State}

/-- An aligned write of a register by its address that passes the bus (R38). -/
theorem withWriteAt_pass {req : Requester} {addr : Addr} {v : Word} {eff : Nat → State → State} {k : Nat} (at_ : addrKey addr = some k)
    (aligned : addr.toNat % 4 = 0) (may : Writes req k s) : withWriteAt req addr v eff s = eff k (busOk 0#32 s) := by
  unfold withWriteAt
  simp only [at_]
  rw [if_neg (not_not.2 aligned), withWrite_pass may]

/-- A write of BRIDGE_CTRL that asks to clear a trip alone (R105). -/
theorem bridgeCtrlEffect_clear {v : Word} (noResume : bit v 0 = false) (clear : bit v 1 = true) :
    bridgeCtrlEffect v s = askRigger (fun x => { x with clear := x.clear || decide (busMv s < vChopOn s) }) s := by
  unfold bridgeCtrlEffect
  simp only [noResume, clear, Bool.true_and, Bool.false_and, Bool.or_false]

/-- What a fault of the rigger die cuts (R103). -/
def rigCut (code : Nat) (s : State) : State :=
  modRigger (fun r => { r with spindleOn := false, coilsOn := r.coilsOn && code != 3, rigCode := code,
                               coil := if code = 3 then [] else r.coil }) s

theorem rigFault_runs {code : Nat} (met : code = 1 ∨ code = 3 ∨ code = 2 ∧ keelState s = 6) :
    exec (.rigFault code) s = .next (lasting Page.DRV 5 code {} (if keelState s = 0 then rigCut code s
      else (rigCut code s).when (keelAlive s) enterCoast)) := by
  have run : exec (.rigFault code) s = execRigFault code s := rfl
  rw [run, execRigFault, when_met (by rcases met with h | h | ⟨h, h'⟩ <;> simp [*])]
  rfl

theorem chopFault_runs {ma mv code : Nat} (on : s.rigger.chopOn = true)
    (cause : (5000 ≤ s.time - s.rigger.chopTime ∧ ma < rigIMin s ∧ code = 1)
        ∨ ((s.time - s.rigger.chopTime < 5000 ∨ rigIMin s ≤ ma) ∧ 50000 ≤ s.time - s.rigger.chopTime ∧ s.rigger.chopMv + 50 < mv ∧ code = 2)) :
    exec (.chopFault ma mv) s = .next (chopFails code s) := by
  have run : exec (.chopFault ma mv) s = execChopFault ma mv s := rfl
  rw [run, execChopFault]
  rcases cause with ⟨since, low, rfl⟩ | ⟨notLow, since, rose, rfl⟩
  · have isLow : (decide (5000 ≤ s.time - s.rigger.chopTime) && decide (ma < rigIMin s)) = true := by simp [since, low]
    rw [isLow, when_met (by simp [on]), if_pos rfl]
  · have notLow' : (decide (5000 ≤ s.time - s.rigger.chopTime) && decide (ma < rigIMin s)) = false := by
      rw [Bool.and_eq_false_iff, decide_eq_false_iff_not, decide_eq_false_iff_not]
      omega
    rw [notLow', when_met (by simp [on, since, rose]), if_neg Bool.false_ne_true]

/-- News of a lasting error of the rigger die's leaves Keel's state (R135). -/
theorem lastingDrv_keelState (k code : Nat) (pl : Payload) : keelState (lasting Page.DRV k code pl s) = keelState s :=
  congrArg (fld · 11 8) (lasting_reg s (by decide) (by decide) (by decide))

end

/-- Settles O48. -/
theorem chopperAndTrips : Obligations.ChopperAndTrips := by
  refine ⟨fun s req v may noResume clear => ⟨fun below => ?_, fun above => ?_⟩, fun s u code met cut => ⟨fun still => ?_, fun drives alive => ?_⟩,
    fun s req addr v k at_ aligned which may => ?_, fun s mv above sound off => ?_, fun s news silent => ?_, fun s mv on below => ?_,
    fun s ma mv code on cause => chopFault_runs on cause, fun s u news told => ⟨fun braking alive => ?_, fun other => ?_⟩,
    fun s mv above => ?_, fun s u news told => ⟨fun alive => ?_, fun dead => ?_⟩⟩
  · have run : exec (.clearTrip req v) s = execClearTrip req v s := rfl
    rw [run, execClearTrip, when_met clear, withWrite_pass may, bridgeCtrlEffect_clear noResume clear,
      decide_eq_true (show busMv (busOk 0#32 s) < vChopOn (busOk 0#32 s) from below)]
    simp only [Bool.or_true]
  · have run : exec (.clearTrip req v) s = execClearTrip req v s := rfl
    rw [run, execClearTrip, when_met clear, withWrite_pass may, bridgeCtrlEffect_clear noResume clear,
      decide_eq_false (Nat.not_lt.2 (show vChopOn (busOk 0#32 s) ≤ busMv (busOk 0#32 s) from above))]
    simp only [Bool.or_false]
    rfl
  · rw [rigFault_runs met, cut]
    split
    · rfl
    · next drives => rw [when_unmet (still.resolve_left drives)]; rfl
  · rw [rigFault_runs met, cut, if_neg drives, when_met alive]
    rfl
  · have run : exec (.threshWrite req addr v) s = execThreshWrite req addr v s := rfl
    rw [run, execThreshWrite, when_met (by rw [at_]; rcases which with h | h | h <;> simp [h]), withWriteAt_pass at_ aligned may]
  · have run : exec (.chopEngage mv) s = execChopEngage mv s := rfl
    rw [run, execChopEngage, when_met (by simp [above, sound, off])]
  · rw [chopNews, if_neg (not_not_of news), if_neg (not_of silent)]
  · have run : exec (.chopRelease mv) s = execChopRelease mv s := rfl
    rw [run, execChopRelease, when_met (by simp [on, below])]
  · have keel : keelState u = 5 := by rw [told, lastingDrv_keelState]; exact braking
    rw [faultNews, if_neg (not_not_of news), ← told]
    dsimp only
    rw [if_pos keel, keelDoes, when_met alive]
  · have keel : keelState u = keelState s := by rw [told, lastingDrv_keelState]; rfl
    rw [faultNews, if_neg (not_not_of news), ← told]
    dsimp only
    rw [keel]
    split
    · next braking => rw [keelDoes, when_unmet (other.resolve_left (not_not.2 braking))]
    · rfl
  · have run : exec (.vCritTrip mv) s = execVCritTrip mv s := rfl
    rw [run, execVCritTrip, when_met (decide_eq_true above)]
  · rw [tripNews, if_neg (not_not_of news), ← told, keelDoes, when_met alive]
  · rw [tripNews, if_neg (not_not_of news), ← told, keelDoes, when_unmet dead]

end Sys2Proof.Machine
end

section
set_option Elab.async false
/-! Keel's commands (O49, O56). -/

namespace Sys2Proof.Machine

section
variable {s : State}

/-! ### What a command of Keel does in each state (R112 to R120) -/

theorem keelCmdEffect_listed {v : Word} {rpm ma : Nat} (alive : keelAlive s = true) :
    (fld v 3 0 = 1 → keelCmdEffect v rpm ma s = keelRunEffect rpm ma s)
      ∧ (fld v 3 0 = 2 → keelCmdEffect v rpm ma s = keelStopEffect s)
      ∧ (fld v 3 0 = 3 → keelCmdEffect v rpm ma s = keelCoastEffect s)
      ∧ (fld v 3 0 = 4 → keelCmdEffect v rpm ma s = chopTestEffect ma s)
      ∧ (fld v 3 0 = 5 → keelCmdEffect v rpm ma s = keelResumeEffect s) := by
  refine ⟨?_, ?_, ?_, ?_, ?_⟩ <;> intro named <;>
    simp only [keelCmdEffect, alive, named, Bool.not_true, Bool.false_eq_true, if_false]

theorem keelCmdEffect_unlisted {v : Word} {rpm ma : Nat} (alive : keelAlive s = true) (unlisted : fld v 3 0 = 0 ∨ 5 < fld v 3 0) :
    keelCmdEffect v rpm ma s = keelRefuse 1 s := by
  rw [keelCmdEffect, if_neg (not_not_of alive)]
  split
  case h_6 => rfl
  all_goals omega

section
variable {req : Requester} {v : Word} (may : Writes req Reg.KEEL.CMD s) (alive : keelAlive s = true)
include may alive

theorem keelRun_runs {rpm ma : Nat} (named : fld v 3 0 = 1) : exec (.keelRun req v rpm ma) s = .next (keelRunEffect rpm ma (busOk 0#32 s)) := by
  have run : exec (.keelRun req v rpm ma) s = execKeelRun req v rpm ma s := rfl
  obtain ⟨acts, -, -, -, -⟩ := keelCmdEffect_listed (v := v) (rpm := rpm) (ma := ma) (s := busOk 0#32 s) alive
  rw [run, execKeelRun, when_met (by simp [named]), withWriteOut_pass may, acts named]

theorem keelStop_runs (named : fld v 3 0 = 2) : exec (.keelStop req v) s = .next (keelStopEffect (busOk 0#32 s)) := by
  have run : exec (.keelStop req v) s = execKeelStop req v s := rfl
  obtain ⟨-, acts, -, -, -⟩ := keelCmdEffect_listed (v := v) (rpm := 0) (ma := 0) (s := busOk 0#32 s) alive
  rw [run, execKeelStop, when_met (by simp [named]), withWrite_pass may, acts named]

theorem keelCoast_runs (named : fld v 3 0 = 3) : exec (.keelCoast req v) s = .next (keelCoastEffect (busOk 0#32 s)) := by
  have run : exec (.keelCoast req v) s = execKeelCoast req v s := rfl
  obtain ⟨-, -, acts, -, -⟩ := keelCmdEffect_listed (v := v) (rpm := 0) (ma := 0) (s := busOk 0#32 s) alive
  rw [run, execKeelCoast, when_met (by simp [named]), withWrite_pass may, acts named]

theorem chopTest_runs {ma : Nat} (named : fld v 3 0 = 4) : exec (.chopTest req v ma) s = .next (chopTestEffect ma (busOk 0#32 s)) := by
  have run : exec (.chopTest req v ma) s = execChopTest req v ma s := rfl
  obtain ⟨-, -, -, acts, -⟩ := keelCmdEffect_listed (v := v) (rpm := 0) (ma := ma) (s := busOk 0#32 s) alive
  rw [run, execChopTest, when_met (by simp [named]), withWriteOut_pass may, acts named]

theorem keelResume_runs (named : fld v 3 0 = 5) : exec (.keelResume req v) s = .next (keelResumeEffect (busOk 0#32 s)) := by
  have run : exec (.keelResume req v) s = execKeelResume req v s := rfl
  obtain ⟨-, -, -, -, acts⟩ := keelCmdEffect_listed (v := v) (rpm := 0) (ma := 0) (s := busOk 0#32 s) alive
  rw [run, execKeelResume, when_met (by simp [named]), withWrite_pass may, acts named]

theorem keelCmdUnlisted_runs (unlisted : fld v 3 0 = 0 ∨ 5 < fld v 3 0) :
    exec (.keelCmdUnlisted req v) s = .next (keelRefuse 1 (busOk 0#32 s)) := by
  have run : exec (.keelCmdUnlisted req v) s = execKeelCmdUnlisted req v s := rfl
  rw [run, execKeelCmdUnlisted, when_met (by simpa using unlisted), withWrite_pass may, 
    keelCmdEffect_unlisted (s := busOk 0#32 s) alive unlisted]

end

section
variable {rpm ma : Nat}

theorem keelRunEffect_state (other : ¬ (keelState s = 0 ∨ keelState s = 8)) : keelRunEffect rpm ma s = keelRefuse 4 s :=
  if_pos (.inl (by omega))

variable (rests : keelState s = 0 ∨ keelState s = 8) (clear : vcritLatched s = false)
include rests clear

theorem keelRunEffect_untargeted (none : s.critVal 5 = 0#32) : keelRunEffect rpm ma s = keelRefuse 3 s := by
  rw [keelRunEffect, if_neg (by simp [clear]; omega), if_pos none]

theorem keelRunEffect_unready (target : s.critVal 5 ≠ 0#32) (unready : motorReady s = false) : keelRunEffect rpm ma s = keelRefuse 2 s := by
  rw [keelRunEffect, if_neg (by simp [clear]; omega), if_neg target, if_pos (by simp [unready])]

omit rests in
/-- RUN from rest, with the bus high enough (R119). -/
theorem keelRunEffect_rest (rest : keelState s = 0) (target : s.critVal 5 ≠ 0#32) (ready : motorReady s = true) (bus : 10800 ≤ busMv s) :
    keelRunEffect rpm ma s = (fun u => if 300 ≤ rpm then startCatch u
        else enterKeelState 1 (modKeel (fun k => { k with pulses := 0 }) (askChopTest ma u)))
      (modKeel (fun k =>
        { k with runStart := some s.time, returns := 0, restartPending := false, exhausted := false, stopKept := false,
                 failRun := 0, target := (s.critVal 5).toNat, wedgeOffset := none, raw := none }) s) := by
  rw [keelRunEffect, if_neg (by simp [clear, rest]), if_neg target, if_neg (by simp [ready])]
  dsimp only
  rw [if_neg (by omega), if_neg (by omega)]
  rfl

omit rests in
/-- RUN catches a rotor that coasts (R119). -/
theorem keelRunEffect_coasting (coasts : keelState s = 8) (target : s.critVal 5 ≠ 0#32) (ready : motorReady s = true) :
    keelRunEffect rpm ma s = startCatch (modKeel (fun k =>
        { k with runStart := some s.time, returns := 0, restartPending := false, exhausted := false, stopKept := false,
                 failRun := 0, target := (s.critVal 5).toNat }) s) := by
  rw [keelRunEffect, if_neg (by simp [clear, coasts]), if_neg target, if_neg (by simp [ready])]
  dsimp only
  rw [if_pos coasts]
  rfl

end

section
variable (clear : vcritLatched s = false)
include clear

theorem keelResumeEffect_generates (generates : keelState s = 7) (target : s.critVal 5 ≠ 0#32) : keelResumeEffect s = resumeRun s := by
  rw [keelResumeEffect, if_neg (by simp [clear, generates]), if_neg target, if_neg (by omega)]

theorem keelResumeEffect_coasts (coasts : keelState s = 8) (target : s.critVal 5 ≠ 0#32) : keelResumeEffect s
    = startCatch (applyTarget (modKeel (fun k => { k with restartPending := false, exhausted := false }) s)) := by
  rw [keelResumeEffect, if_neg (by simp [clear, coasts]), if_neg target, if_pos coasts]

end

theorem keelResumeEffect_state (a : keelState s ≠ 7) (b : keelState s ≠ 8) : keelResumeEffect s = keelRefuse 4 s := if_pos (.inl ⟨a, b⟩)

/-! ### The speed target (R125) -/

/-- A trip of a tuning block changes its own registers alone (R209). -/
theorem tuneTrip_reg (p cause : Nat) (info : Int) {k : Nat} (status : k ≠ Reg.TUNE.TR_STATUS p) (progress : k ≠ Reg.TUNE.INJ_PROGRESS p)
    (place : k ≠ Reg.TUNE.TRIP_INFO p) : (tuneTrip p cause info s).reg k = s.reg k := by
  unfold tuneTrip
  split
  · rw [(modTune_stays ..).reg_eq (by decide), setReg_other _ _ _ place, setTrState_reg _ _ _ _ status]
    split
    · rw [storePoint_reg, if_neg progress]
    · rfl
  · rfl

/-- Keel's life stands on its power, its clock, its stop and its machine check (R44, R47, R56). -/
theorem keelAlive_congr {t : State} (domains : t.reg Reg.PWR.DOMAINS = s.reg Reg.PWR.DOMAINS) (part : t.part4820 = s.part4820)
    (clocks : t.clocks = s.clocks) (stopped : t.stopped = s.stopped) (status : t.reg (Reg.STATUS Page.KEEL) = s.reg (Reg.STATUS Page.KEEL)) :
    keelAlive t = keelAlive s := by
  have clocked : pageClocked t Page.KEEL = pageClocked s Page.KEEL := by unfold pageClocked islandStopped; rw [clocks]
  have check : inMachineCheck t Page.KEEL = inMachineCheck s Page.KEEL := bit_of_reg status 3
  unfold keelAlive blockAlive isStopped
  rw [pageOn_congr domains part, clocked, stopped, check]
  rfl

/-- What storing the speed target leaves of Keel: its state and its life. -/
theorem targetStored_keel (n : Nat) (v : Word) : keelState (tuneTrip Page.KEEL 4 0 (s.critPut n v)) = keelState s
    ∧ keelAlive (tuneTrip Page.KEEL 4 0 (s.critPut n v)) = keelAlive s := by
  have kept : ∀ k, k ≠ Reg.CRIT.CRIT_STATUS → k ≠ Reg.TUNE.TR_STATUS Page.KEEL → k ≠ Reg.TUNE.INJ_PROGRESS Page.KEEL →
      k ≠ Reg.TUNE.TRIP_INFO Page.KEEL → (tuneTrip Page.KEEL 4 0 (s.critPut n v)).reg k = s.reg k := fun k a b c d =>
    (tuneTrip_reg _ _ _ b c d).trans (critPut_reg s n v k a)
  have status := kept (Reg.STATUS Page.KEEL) (by decide) (by decide) (by decide) (by decide)
  have trip := tuneTrip_stays Page.KEEL 4 0 (s.critPut n v)
  have put := State.critPut_stays s n v
  obtain ⟨⟨-, tripPart, -⟩, -⟩ := id trip
  obtain ⟨⟨-, putPart, -⟩, -⟩ := id put
  exact ⟨fld_of_reg status 11 8, keelAlive_congr (kept _ (by decide) (by decide) (by decide) (by decide))
    (tripPart.trans putPart) ((trip.same .clocks (by decide)).trans (put.same .clocks (by decide)))
    ((trip.same .stopped (by decide)).trans (put.same .stopped (by decide))) status⟩

theorem spdTarget_runs {req : Requester} {addr : Addr} {v : Word} {k : Nat} (at_ : addrKey addr = some k) (aligned : addr.toNat % 4 = 0)
    (word5 : critWordOf k = some 5) (may : Writes req k s) :
    exec (.spdTargetWrite req addr v) s = .next (spdTargetEffect v (busOk 0#32 s)) := by
  have run : exec (.spdTargetWrite req addr v) s = execSpdTargetWrite req addr v s := rfl
  rw [run, execSpdTargetWrite, when_met (by rw [at_]; simp [word5]), withWriteAt_pass at_ aligned may]

/-- A target of 0 stops a spindle that runs (R125). -/
theorem spdTargetEffect_zero : spdTargetEffect 0#32 s
    = if keelState s = 3 ∧ keelAlive s = true then doStop (tuneTrip Page.KEEL 4 0 (s.critPut 5 0#32))
      else tuneTrip Page.KEEL 4 0 (s.critPut 5 0#32) := by
  rw [spdTargetEffect]
  exact if_pos rfl

theorem spdTargetEffect_outside {v : Word} (some_ : v ≠ 0#32) (outside : v.toNat < 1200 * 65536 ∨ 7800 * 65536 < v.toNat) :
    spdTargetEffect v s = keelRefuse 3 s :=
  (if_neg (fun zero => some_ (BitVec.eq_of_toNat_eq zero))).trans (if_pos outside)

theorem spdTargetEffect_followed {v : Word} (low : 1200 * 65536 ≤ v.toNat) (high : v.toNat ≤ 7800 * 65536) (alive : keelAlive s = true)
    (a : keelState s ≠ 4) (b : keelState s ≠ 7) :
    spdTargetEffect v s = keelUnlock (applyTarget (tuneTrip Page.KEEL 4 0 (s.critPut 5 v))) := by
  rw [spdTargetEffect]
  dsimp only
  rw [if_neg (by omega), if_neg (by unfold rpmUnits; omega), if_neg (by simp [a, b, alive])]

/-- A holder enables the reference (R127). -/
theorem refCfgEffect_held {req : Requester} {v : Word} (on : bit v 0 = true) (held : holds req 0 1 s = true)
    (copy : usesCt3 (s.critFld 6 1 0) = true → holds req 1 1 s = true) :
    refCfgEffect req v s = if s.bit Reg.KEEL.REF_CFG 0 then storeWrite Reg.KEEL.REF_CFG v s
      else requalify (freshReference (storeWrite Reg.KEEL.REF_CFG v s)) := by
  rw [refCfgEffect, if_neg (not_not_of on), if_neg (not_not_of held), if_neg fun ⟨uses, apart⟩ => not_not_of (copy uses) apart]

end

/-- Settles O49. -/
theorem keelCommands : Obligations.KeelCommands := by
  refine ⟨fun s req v may alive => ⟨fun rpm ma named => ⟨fun other => ?_, fun rests clear none => ?_, fun rests clear target unready => ?_,
      fun rest clear target ready bus u put => ⟨fun slow => ?_, fun turns => ?_⟩⟩,
    fun named => ⟨fun runs => ?_, fun other => ?_⟩, fun named => ⟨fun rest => ?_, fun turns => ?_⟩,
    fun ma named => ⟨fun state clear => ?_, fun other => ?_⟩,
    fun named => ⟨fun generates clear target => ?_, fun coasts clear target => ?_, fun a b => ?_⟩, fun unlisted => ?_⟩,
    fun s req addr v k at_ aligned word5 may => ⟨fun u zero put => ⟨fun stays => ?_, fun runs alive => ?_⟩, fun some_ outside => ?_,
      fun low high => spdTarget_runs at_ aligned word5 may⟩, fun s req v may on => ?_⟩
  · rw [keelRun_runs may alive named, keelRunEffect_state (s := busOk 0#32 s) other]
    rfl
  · rw [keelRun_runs may alive named, keelRunEffect_untargeted (s := busOk 0#32 s) rests clear none]
    rfl
  · rw [keelRun_runs may alive named, keelRunEffect_unready (s := busOk 0#32 s) rests clear target unready]
    rfl
  · rw [keelRun_runs may alive named, keelRunEffect_rest (s := busOk 0#32 s) clear rest target ready bus, put]
    exact congrArg Host.Outcome.next (if_neg (by omega))
  · rw [keelRun_runs may alive named, keelRunEffect_rest (s := busOk 0#32 s) clear rest target ready bus, put]
    exact congrArg Host.Outcome.next (if_pos turns)
  · rw [keelStop_runs may alive named]
    exact congrArg Host.Outcome.next (if_pos (show keelState s ∈ [1, 2, 3, 4, 7] by simpa using runs))
  · rw [keelStop_runs may alive named]
    refine congrArg Host.Outcome.next (if_neg (show ¬ keelState s ∈ [1, 2, 3, 4, 7] from ?_))
    rcases other with h | h | h | h <;> rw [h] <;> decide
  · rw [keelCoast_runs may alive named]
    exact congrArg Host.Outcome.next (if_pos rest)
  · rw [keelCoast_runs may alive named]
    exact congrArg Host.Outcome.next (if_neg turns)
  · rw [chopTest_runs may alive named]
    exact congrArg Host.Outcome.next (if_pos ⟨state, by rw [show vcritLatched (busOk 0#32 s) = false from clear]; rfl⟩)
  · rw [chopTest_runs may alive named]
    exact congrArg Host.Outcome.next (if_neg fun h => other h.1)
  · rw [keelResume_runs may alive named, keelResumeEffect_generates (s := busOk 0#32 s) clear generates target]
  · rw [keelResume_runs may alive named, keelResumeEffect_coasts (s := busOk 0#32 s) clear coasts target]
  · rw [keelResume_runs may alive named, keelResumeEffect_state (s := busOk 0#32 s) a b]
    rfl
  · exact keelCmdUnlisted_runs may alive unlisted
  · obtain ⟨state, life⟩ := targetStored_keel (s := busOk 0#32 s) 5 0#32
    rw [put, state, life] at stays
    rw [spdTarget_runs at_ aligned word5 may, zero, spdTargetEffect_zero, if_neg stays, put]
  · obtain ⟨state, life⟩ := targetStored_keel (s := busOk 0#32 s) 5 0#32
    rw [put, state] at runs
    rw [put, life] at alive
    rw [spdTarget_runs at_ aligned word5 may, zero, spdTargetEffect_zero, if_pos ⟨runs, alive⟩, put]
  · rw [spdTarget_runs at_ aligned word5 may, spdTargetEffect_outside some_ outside]
    rfl
  · have run : exec (.refEnable req v) s = execRefEnable req v s := rfl
    rw [run, execRefEnable, when_met on, withWrite_pass may]

/-- Settles O56. -/
theorem keelCommandsComplete : Obligations.KeelCommandsComplete := by
  refine ⟨fun s req v rpm ma u may named alive rest clear target ready bus put => ?_,
    fun s req v rpm ma u may named alive coasts clear target ready put => ?_, fun s req v may named alive runs => ?_,
    fun s req v may named alive turns => ?_, fun s req v ma may named alive state clear => ?_,
    fun s req v may named alive generates clear target => ?_, fun s req v may named alive coasts clear target => ?_,
    fun s req v may unlisted alive => keelCmdUnlisted_runs may alive unlisted,
    fun s req addr v k at_ aligned word5 may alive a b low high => ?_, fun s req addr v k at_ aligned word5 may zero stays => ?_,
    fun s req v may on held copy => ?_⟩
  · rw [keelRun_runs may alive named, keelRunEffect_rest (s := busOk 0#32 s) clear rest target ready bus, put]
    dsimp only
    split
    · rw [if_neg (by omega)]
      rfl
    · rw [if_pos (by omega)]
      rfl
  · rw [keelRun_runs may alive named, keelRunEffect_coasting (s := busOk 0#32 s) clear coasts target ready, put]
    rfl
  · rw [keelStop_runs may alive named]
    exact congrArg Host.Outcome.next (if_pos runs)
  · rw [keelCoast_runs may alive named]
    exact congrArg Host.Outcome.next (if_neg turns)
  · rw [chopTest_runs may alive named]
    exact congrArg Host.Outcome.next (if_pos ⟨state, by rw [show vcritLatched (busOk 0#32 s) = false from clear]; rfl⟩)
  · rw [keelResume_runs may alive named, keelResumeEffect_generates (s := busOk 0#32 s) clear generates target]
  · rw [keelResume_runs may alive named, keelResumeEffect_coasts (s := busOk 0#32 s) clear coasts target]
  · rw [spdTarget_runs at_ aligned word5 may, spdTargetEffect_followed (s := busOk 0#32 s) low high alive a b]
  · rw [spdTarget_runs at_ aligned word5 may, zero, spdTargetEffect_zero, if_neg fun h => stays h.1]
  · have run : exec (.refEnable req v) s = execRefEnable req v s := rfl
    rw [run, execRefEnable, when_met on, withWrite_pass may, refCfgEffect_held (s := busOk 0#32 s) on held copy]
    rfl

end Sys2Proof.Machine
end

section
set_option Elab.async false
/-! Keel's periods (O50). -/

namespace Sys2Proof.Machine

section
variable {s : State}

theorem raise_keel (p k sev code : Nat) (pl : Payload) : (raise p k sev code pl s).keel = s.keel :=
  (raise_stays p k sev code pl s).same .keel (by decide)

theorem modKeel_regs (f : Keel → Keel) : (modKeel f s).regs = s.regs := rfl

theorem modKeel_reg (f : Keel → Keel) (k : Nat) : (modKeel f s).reg k = s.reg k := rfl

/-- The phase word and the resolved position (R110, R122). -/
def phaseShown (raw pos : Nat) (valid : Bool) (s : State) : State :=
  modKeel (fun k => { k with raw := if estValid s then some (raw, s.time) else k.raw })
    (s.setReg Reg.KEEL.PHASE (word (pos / 4096 * 2 ^ 22 + pos % 4096 * 2 ^ 10 + (if valid then 1 else 0))))

theorem phaseShown_shows (raw pos : Nat) (valid : Bool) :
    (phaseShown raw pos valid s).reg Reg.KEEL.PHASE = word (pos / 4096 * 2 ^ 22 + pos % 4096 * 2 ^ 10 + (if valid then 1 else 0))
      ∧ SameRegs (fun k => k == Reg.KEEL.PHASE) s (phaseShown raw pos valid s) :=
  ⟨(modKeel_reg ..).trans (setReg_same ..), sameRegs_of_regs (sameRegs_setReg (sameRegs_refl _ s) _ _ (by decide)) (modKeel_regs ..)⟩

/-- The marked reference, with Keel's record of it (R129, R130). -/
def refMarked (f : Keel → Keel) (ok : Bool) (s : State) : State := stepTrim (modKeel f (s.setBit (Reg.STATUS Page.KEEL) 22 ok))

theorem refMarked_shows (f : Keel → Keel) (ok : Bool) :
    (refMarked f ok s).keel.lastEdge = (f s.keel).lastEdge ∧ (refMarked f ok s).keel.wantPpb = (f s.keel).wantPpb
      ∧ (refMarked f ok s).bit (Reg.STATUS Page.KEEL) 22 = ok
      ∧ SameRegs (fun k => k == Reg.STATUS Page.KEEL) s (refMarked f ok s) :=
  ⟨rfl, rfl, bit_of_setBit s _ _ _ (by decide), sameRegs_of_regs (sameRegs_setBit (sameRegs_refl _ s) _ _ _ (by decide)) rfl⟩

/-- An edge of the duty-cycle reference, and an analogue sample, are taken with their marks (R128, R129). -/
theorem refEdge_runs {p h n : Nat} (alive : keelAlive s = true) (some_ : 0 < p) (source : refSource s = 2) :
    exec (.refEdge p h n) s = .next (refMarked (fun k =>
      { k with lastEdge := some (s.time - n)
               wantPpb := if (decide (10000 ≤ p) && decide (p ≤ 10000000)) = true then (2 * (h : Int) - p) * 5000000 / p else k.trimPpb })
      (decide (10000 ≤ p) && decide (p ≤ 10000000)) s) := by
  have run : exec (.refEdge p h n) s = execRefEdge p h n s := rfl
  rw [run, execRefEdge, when_met (by simp [alive, some_, source, usesCt3]), if_pos source]
  rfl

theorem refAnalogSample_runs {x : BitVec 12} (alive : keelAlive s = true) (source : refSource s = 3) :
    exec (.refAnalogSample x) s = .next (refMarked (fun k => { k with wantPpb := (2 * (x.toNat : Int) - 4095) * 5000000 / 4095 }) true s) := by
  have run : exec (.refAnalogSample x) s = execRefAnalogSample x s := rfl
  rw [run, execRefAnalogSample, when_met (by simp [alive, source])]
  rfl

/-- A spin-up that takes too long (R119). -/
theorem spinupFail_runs {u : Nat} (alive : keelAlive s = true) (unlocked : keelLocked s = false) (since : s.keel.runStart = some u)
    (late : u + s.fld Reg.KEEL.SPINUP_CFG2 23 16 * 1000000000 ≤ s.time) :
    exec .spinupFail s = .next (if keelState s = 8 then enterCoast (lasting Page.KEEL 12 1 {} s) else doStop (lasting Page.KEEL 12 1 {} s)) := by
  have run : exec .spinupFail s = execSpinupFail s := rfl
  have waited : s.keel.runStart.any (fun t => decide (t + s.fld Reg.KEEL.SPINUP_CFG2 23 16 * 1000000000 ≤ s.time)) = true := by
    rw [since, Option.any_some]
    exact decide_eq_true late
  rw [run, execSpinupFail, when_met (by rw [waited]; simp [alive, unlocked])]

/-- The check of a current sensor that is due (R117). -/
theorem csCheck_runs (alive : keelAlive s = true) (phase : s.keel.csPhase = 2) (full : 8 ≤ s.keel.csCount) :
    exec .csCheck s = .next ((fun u =>
      if s.keel.csU && s.keel.csV then lasting Page.KEEL 6 3 {} (u.setFld (Reg.STATUS Page.KEEL) 17 16 2)
      else if s.keel.csU then lasting Page.KEEL 6 1 {} (u.setFld (Reg.STATUS Page.KEEL) 17 16 1)
      else if s.keel.csV then lasting Page.KEEL 6 2 {} (u.setFld (Reg.STATUS Page.KEEL) 17 16 1)
      else transient Page.KEEL 6 0 {} u) (modKeel (fun k => { k with csPhase := 0, csCount := 0, csBad := 0 }) s)) := by
  have run : exec .csCheck s = execCsCheck s := rfl
  rw [run, execCsCheck, when_met (by simp [alive, phase, full])]

/-- A lost estimate that its state takes (R123). -/
theorem estimateLost_runs (alive : keelAlive s = true) (lost : 3 ≤ s.keel.overRun)
    (state : keelState s = 2 ∨ keelState s = 3 ∨ keelState s = 5 ∨ keelState s = 7) :
    exec .estimateLost s = .next ((fun u =>
      if keelState s = 2 then restartSpinup u
      else if rpmUnits (s.fld Reg.KEEL.OBS_CFG 27 16) ≤ keelSpeed s then startReacq (keelState s) 1 u
      else if keelState s = 3 then restartSpinup u
      else enterKeelState 8 u) (estimateLostEvent (keelUnlock (s.setBit (Reg.STATUS Page.KEEL) 14 false)))) := by
  have run : exec .estimateLost s = execEstimateLost s := rfl
  rw [run, execEstimateLost, when_met (by simp [alive, lost, state])]

/-- A reacquisition that holds (R123). -/
theorem reacqOk_runs (alive : keelAlive s = true) (step : s.keel.reacqStep = 5) (good : 360 ≤ s.keel.goodDeg)
    (inTime : s.time ≤ s.keel.reacqStart + 4 * electricalNs s) (state : keelState s = 4 ∨ keelState s = 7) :
    exec .reacqOk s = .next ((fun u =>
      if keelState s = 7 then u else if s.keel.returnState = 3 then resumeRun u else enterKeelState s.keel.returnState u)
      (modKeel (fun k => { k with reacqStep := 0, failRun := 0, overRun := 0 })
        (transient Page.KEEL 3 0 { p0 := word (s.time - s.keel.reacqStart) } (s.count Reg.KEEL.REACQ_COUNT 1)))) := by
  have run : exec .reacqOk s = execReacqOk s := rfl
  rw [run, execReacqOk, when_met (by simp [alive, step, good, inTime, state])]

end

/-- Settles O50. -/
theorem keelPeriods : Obligations.KeelPeriods := by
  refine ⟨fun s p alive => ?_, fun s alive unlocked held => ?_, fun s x e pos alive at_ apart => ?_, fun s alive normal idle bad => ?_,
    fun s u alive phase full put => ⟨fun hu hv => ?_, fun hu hv => ?_, fun hu hv => ?_, fun hu hv => ?_⟩, fun s alive state run16 => ?_,
    fun s alive state late => ⟨fun more => ?_, fun last => ?_⟩, fun s u alive unlocked since late => ⟨fun other => ?_, fun coasts => ?_⟩,
    fun s u alive lost told => ⟨fun spins => ?_, fun state fast => ?_, fun runs slow => ?_, fun state slow => ?_⟩,
    fun s u alive step good inTime put => ⟨fun state => ?_, fun state back => ?_, fun state back => ?_⟩,
    fun s u alive step state late put => ⟨fun again => ?_, fun over_ => ?_⟩,
    fun s alive => ⟨fun state fault => ?_, fun state sound slow => ?_, fun state spent parked clear => ?_⟩,
    fun s ms alive state quiet => ?_, fun s alive state low => ?_, fun s p h n alive some_ source => ?_,
    fun s u alive source edge => ⟨fun late => ?_, fun early => ?_⟩, fun s x alive source => ?_⟩
  · have run : exec (.pwmPeriod p) s = execPwmPeriod p s := rfl
    rw [run, execPwmPeriod, when_met alive]
  · refine runs_to (raise Page.KEEL 0 0 1 { p0 := s.reg Reg.KEEL.SPEED }
      (modKeel (fun k => { k with runStart := none }) (s.setBit (Reg.STATUS Page.KEEL) 12 true))) (c := .spindleLocked) rfl
      (by simp [alive, unlocked, held]) rfl ⟨?_, ?_, ?_⟩
    · exact (bit_of_reg (raise_reg _ (by decide)) 12).trans (bit_of_setBit s _ _ _ (by decide))
    · exact raise_keel ..
    · exact sameRegs_raise (sameRegs_of_regs (sameRegs_setBit (sameRegs_refl _ s) _ _ _ (by simp)) (modKeel_regs ..)) _ _ _ _ _ (by simp)
  · refine runs_to (phaseShown (resolvePole (x.val * 65536 + e.toNat) s) pos (estValid s && s.keel.wedgeOffset.isSome) s)
      (c := .phaseWord x e) rfl alive ?_ (phaseShown_shows ..)
    rw [at_] at apart ⊢
    exact if_neg apart
  · exact runs_to (modKeel (fun k => { k with csPhase := 1, csCount := 0, csBad := 0 }) s) (c := .csMismatch) rfl
      (by simp [alive, normal, idle, bad]) rfl ⟨rfl, rfl⟩
  · rw [csCheck_runs alive phase full, put]
    simp only [hu, hv, Bool.and_self, Bool.false_eq_true, if_false]
  · rw [csCheck_runs alive phase full, put]
    simp only [hu, hv, Bool.and_false, Bool.false_eq_true, if_false, if_true]
  · rw [csCheck_runs alive phase full, put]
    simp only [hu, hv, Bool.and_true, Bool.false_eq_true, if_false, if_true]
  · rw [csCheck_runs alive phase full, put]
    simp only [hu, hv, Bool.and_self, if_true]
  · have run : exec .observerHandover s = execObserverHandover s := rfl
    rw [run, execObserverHandover, when_met (by simp [alive, state, run16])]
  · have run : exec .openLoopTimeout s = execOpenLoopTimeout s := rfl
    rw [run, execOpenLoopTimeout, when_met (by simp [alive, state, late]), spinupReturn, if_neg (by omega)]
  · have run : exec .openLoopTimeout s = execOpenLoopTimeout s := rfl
    rw [run, execOpenLoopTimeout, when_met (by simp [alive, state, late]), spinupReturn, if_pos last]
  · rw [spinupFail_runs alive unlocked since late, if_neg other]
  · rw [spinupFail_runs alive unlocked since late, if_pos coasts]
  · rw [estimateLost_runs alive lost (.inl spins), told]
    exact congrArg Host.Outcome.next (if_pos spins)
  · rw [estimateLost_runs alive lost (.inr state), told]
    exact congrArg Host.Outcome.next ((if_neg (by omega)).trans (if_pos fast))
  · rw [estimateLost_runs alive lost (.inr (.inl runs)), told]
    exact congrArg Host.Outcome.next ((if_neg (by omega)).trans ((if_neg (by omega)).trans (if_pos runs)))
  · rw [estimateLost_runs alive lost (.inr (.inr state)), told]
    exact congrArg Host.Outcome.next ((if_neg (by omega)).trans ((if_neg (by omega)).trans (if_neg (by omega))))
  · rw [reacqOk_runs alive step good inTime (.inr state), put]
    exact congrArg Host.Outcome.next (if_pos state)
  · rw [reacqOk_runs alive step good inTime (.inl state), put]
    exact congrArg Host.Outcome.next ((if_neg (by omega)).trans (if_pos back))
  · rw [reacqOk_runs alive step good inTime (.inl state), put]
    exact congrArg Host.Outcome.next ((if_neg (by omega)).trans (if_neg back))
  · have run : exec .reacqFail s = execReacqFail s := rfl
    rw [run, execReacqFail, when_met (by simp [alive, step, state, late])]
    dsimp only
    rw [← put, if_neg (by omega)]
  · have run : exec .reacqFail s = execReacqFail s := rfl
    rw [run, execReacqFail, when_met (by simp [alive, step, state, late])]
    dsimp only
    rw [← put, if_pos over_]
  · have run : exec .shortBrake s = execShortBrake s := rfl
    rw [run, execShortBrake, when_met alive, if_pos ⟨state, fault⟩]
  · have run : exec .shortBrake s = execShortBrake s := rfl
    rw [run, execShortBrake, when_met alive, if_neg (by simp [sound]), if_pos ⟨state, slow⟩]
  · have run : exec .shortBrake s = execShortBrake s := rfl
    rw [run, execShortBrake, when_met alive, if_neg (by omega), if_neg (by omega), if_pos ⟨state, spent, parked, by simp [clear]⟩]
  · have run : exec (.stopped ms) s = execStopped ms s := rfl
    rw [run, execStopped, when_met (by simp [alive, state, quiet])]
  · have run : exec .genFloor s = execGenFloor s := rfl
    rw [run, execGenFloor, when_met (by simp [alive, state, low])]
  · obtain ⟨edge, want, marked, same⟩ := refMarked_shows (s := s) (fun k =>
      { k with lastEdge := some (s.time - n)
               wantPpb := if (decide (10000 ≤ p) && decide (p ≤ 10000000)) = true then (2 * (h : Int) - p) * 5000000 / p else k.trimPpb })
      (decide (10000 ≤ p) && decide (p ≤ 10000000))
    refine ⟨_, refEdge_runs alive some_ source, edge, fun low high => want.trans (if_pos (by simp [low, high])), marked, same⟩
  · have run : exec .refLost s = execRefLost s := rfl
    rw [run, execRefLost, when_met (by simp [alive, source, usesCt3])]
    simp only [edge]
    rw [if_neg (by omega), if_pos late]
  · have run : exec .refLost s = execRefLost s := rfl
    rw [run, execRefLost, when_met (by simp [alive, source, usesCt3])]
    simp only [edge]
    rw [if_neg (by omega), if_neg (by omega)]
  · obtain ⟨-, want, marked, same⟩ := refMarked_shows (s := s)
      (fun k => { k with wantPpb := (2 * (x.toNat : Int) - 4095) * 5000000 / 4095 }) true
    exact ⟨_, refAnalogSample_runs alive source, want, marked, same⟩

end Sys2Proof.Machine
end

section
set_option Elab.async false
/-! Rudder's samples and group work (O51). -/

namespace Sys2Proof.Machine

section
variable {s : State} {a : Nat}

theorem subsample_runs {w : SubIn} (alive : rudAlive s a = true) :
    exec (.subsample a w) s = .next ((fun u => rudTune a false (sendCouple a (stepFlags a
      (if rudState s a == 2 || rudState s a == 3 || (rudState s a == 1 && (rud s a).acquired)
        then stepThirds a (fun k => (w.slots.getD k ⟨0, 0, true, 0, false⟩).late) u else u))))
      ((List.range 4).foldl (fun t k => subSlot a w k t)
        (reactTerms a (tuneGenerate (Page.RUDDER a) false (joinSlots a (modRud a (fun r => { r with sub := (r.sub + 1) % 16 }) s)))))) := by
  have run : exec (.subsample a w) s = execSubsample a w s := rfl
  rw [run, execSubsample, when_met alive]

/-- A slot that settles (R236). -/
theorem onTrack_runs {k : Nat} (alive : rudAlive s a = true) (slot : k < 4) (used : (rudSlot s a k).used = true)
    (off : (rudSlot s a k).onTrack = false) (calm : rudShock s a = false)
    (settled : s.fld (Reg.RUDDER.SETTLE_CFG a) 19 16 ≤ (rudSlot s a k).onRun)
    (state : rudState s a = 2 ∨ rudState s a = 3 ∨ rudState s a = 1 ∧ (rud s a).acquired = true) :
    exec (.onTrack a k) s = .next ((fun u =>
      if rudState s a = 3 || !((usedSlots u a).all fun j => (rudSlot u a j).onTrack) then u
      else if rudState s a = 1 then followed a (if (rud u a).loadAgain then transient (Page.RUDDER a) 4 0 {} u else u)
      else followed a (if (rud u a).seekAgain then transient (Page.RUDDER a) 3 0 {} u else u))
      (modSlot a k (fun y => { y with onTrack := true }) s)) := by
  have run : exec (.onTrack a k) s = execOnTrack a k s := rfl
  rw [run, execOnTrack]
  dsimp only
  rw [when_met]
  rcases state with h | h | ⟨h, h'⟩ <;> simp [*]

/-- A seek that does not settle in its time (R238). -/
theorem seekFail_runs (alive : rudAlive s a = true) (state : rudState s a = 2)
    (late : (rud s a).seekStart + s.fld (Reg.RUDDER.SETTLE_CFG a) 31 24 * 1000000 ≤ s.time) :
    exec (.seekFail a) s = .next (if (rud s a).seekAgain then
        followed a (modRud a (fun r => { r with pending := (rud s a).pending, arm := r.arm + r.armPes, armPes := 0 })
          (note a .lasting (clearSlots a (lasting (Page.RUDDER a) 3 0 {} s))))
      else startSeek a ((rud s a).arm + (rud s a).armPes) true s) := by
  have run : exec (.seekFail a) s = execSeekFail a s := rfl
  have due := decide_eq_true late
  rw [run, execSeekFail, when_met (by rw [due]; simp [alive, state])]

end

/-- Settles O51. -/
theorem rudderSamples : Obligations.RudderSamples := by
  refine ⟨fun s a w n u0 u alive next sound put0 put apart => ?_,
    fun s a n w => ⟨fun follows => ?_, fun hunts => ?_, fun parked => ?_⟩, fun s a w u alive put => ⟨fun tracks => ?_, fun other => ?_⟩,
    fun s a k alive slot used run16 off => ?_, fun s a alive missed out => ?_, fun s a alive state used lost => ?_,
    fun s a alive state => ⟨fun good inTime => ?_, fun late unfound => ?_⟩,
    fun s a k u alive slot used off calm settled put => ⟨fun state => ?_, fun state waits => ?_, fun state all_ => ?_, fun state acquired all_ => ?_⟩,
    fun s a alive state late => ⟨fun first => ?_, fun again => ?_⟩, fun s a k alive slot faulted clear clean => ?_, fun s a alive full => ?_⟩
  · have run : exec (.wedgeSample a w) s = execWedgeSample a w s := rfl
    rw [run, execWedgeSample, when_met alive]
    dsimp only
    rw [← next, if_neg (not_of sound), ← put0, ← put, if_neg apart]
  · rw [wedgeByState]
    exact if_pos (by omega)
  · rw [wedgeByState]
    exact (if_neg (by omega)).trans ((if_neg (by omega)).trans (if_pos hunts))
  · rw [wedgeByState]
    exact (if_neg (by omega)).trans ((if_neg (by omega)).trans ((if_neg (by omega)).trans (if_neg (by omega))))
  · rw [subsample_runs alive, put]
    exact congrArg (fun u => Host.Outcome.next (rudTune a false (sendCouple a (stepFlags a u)))) (if_pos (by simpa [or_assoc] using tracks))
  · rw [subsample_runs alive, put]
    exact congrArg (fun u => Host.Outcome.next (rudTune a false (sendCouple a (stepFlags a u)))) (if_neg (by simpa [or_assoc] using other))
  · have run : exec (.ssFault a k) s = execSsFault a k s := rfl
    rw [run, execSsFault]
    rw [when_met (by simp only [alive, slot, used, run16, off, decide_true, Bool.not_false, Bool.and_self])]
  · have run : exec (.timingFail a) s = execTimingFail a s := rfl
    rw [run, execTimingFail, when_met (by simp [alive, missed, out])]
  · have run : exec (.positionLost a) s = execPositionLost a s := rfl
    rw [run, execPositionLost, when_met (by simp [alive, state, used, lost])]
  · have run : exec (.reacquireDone a) s = execReacquireDone a s := rfl
    rw [run, execReacquireDone, when_met (by simp [alive, state, huntFound, good, inTime])]
  · have run : exec (.reacquireTimeout a) s = execReacquireTimeout a s := rfl
    have none : huntFound (rud s a) = false := by simpa [huntFound] using unfound
    rw [run, execReacquireTimeout, when_met (by simp [alive, state, late, none])]
  · rw [onTrack_runs alive slot used off calm settled (.inr (.inl state)), put]
    exact congrArg Host.Outcome.next (if_pos (by simp [state]))
  · rw [onTrack_runs alive slot used off calm settled (.inl state), put]
    rw [put] at waits
    exact congrArg Host.Outcome.next (if_pos (by rw [waits]; simp))
  · rw [onTrack_runs alive slot used off calm settled (.inl state), put]
    rw [put] at all_
    exact congrArg Host.Outcome.next ((if_neg (by rw [all_]; simp [state])).trans (if_neg (by omega)))
  · rw [onTrack_runs alive slot used off calm settled (.inr (.inr ⟨state, acquired⟩)), put]
    rw [put] at all_
    exact congrArg Host.Outcome.next ((if_neg (by rw [all_]; simp [state])).trans (if_pos state))
  · rw [seekFail_runs alive state late, if_neg (not_of first)]
  · rw [seekFail_runs alive state late, if_pos again]
  · have run : exec (.wfClear a k) s = execWfClear a k s := rfl
    rw [run, execWfClear, when_met (by simp [alive, slot, faulted, clear, clean])]
  · have run : exec (.pesWindow a) s = execPesWindow a s := rfl
    rw [run, execPesWindow, when_met (by simp [alive, full])]

end Sys2Proof.Machine
end

section
set_option Elab.async false
/-! Rudder's commands, its coefficient sets and COUPLE (O52). -/

namespace Sys2Proof.Machine

section
variable {s : State} {a : Nat}

/-! ### The commands (R228 to R232) -/

/-- A command of Rudder that its form names and the bus passes. -/
theorem rudCmd_runs {i : Instr} {p : Nat → Bool} {req : Requester} {v : Word} {t : State} (run : exec i s = .next (rudCmd p req a v s))
    (small : a < 4) (may : Writes req (Reg.RUDDER.CMD a) s) (named : p (fld v 3 0) = true) (acts : rudCmdEffect a v (busOk 0#32 s) = t) :
    exec i s = .next t := by
  rw [run, rudCmd, when_met (by rw [named, decide_eq_true small]; rfl), withWrite_pass may, acts]

theorem rudCmdEffect_load {v : Word} (named : fld v 3 0 = 1) : rudCmdEffect a v s = if rudState s a ≠ 0 then raise (Page.RUDDER a) 10 5 4 {} s
    else if loadAllowed s a (fld v 10 8) then startLoad a (fld v 10 8) false s else raise (Page.RUDDER a) 10 5 2 {} s := by
  rw [rudCmdEffect]
  exact (if_neg (by omega)).trans (if_pos named)

theorem rudCmdEffect_unload {v : Word} (named : fld v 3 0 = 2) : rudCmdEffect a v s
    = if rudState s a = 2 ∨ rudState s a = 3 ∨ rudState s a = 4 then beginPark a 0 false s else raise (Page.RUDDER a) 10 5 4 {} s := by
  rw [rudCmdEffect]
  exact (if_neg (by omega)).trans ((if_neg (by omega)).trans (if_pos named))

theorem rudCmdEffect_retract {v : Word} (named : fld v 3 0 = 3) : rudCmdEffect a v s
    = if rudState s a = 0 ∨ rudState s a = 7 then raise (Page.RUDDER a) 10 5 4 {} s else retract a 1 s := by
  rw [rudCmdEffect]
  exact (if_neg (by omega)).trans ((if_neg (by omega)).trans ((if_neg (by omega)).trans (if_pos named)))

theorem rudCmdEffect_clear {v : Word} (named : fld v 3 0 = 4) : rudCmdEffect a v s
    = if rudState s a = 7 then enterRud a 0 s else raise (Page.RUDDER a) 10 5 4 {} s := by
  rw [rudCmdEffect]
  exact (if_neg (by omega)).trans ((if_neg (by omega)).trans ((if_neg (by omega)).trans (if_neg (by omega))))

theorem rudCmdEffect_unlisted {v : Word} (unlisted : fld v 3 0 = 0 ∨ 4 < fld v 3 0) :
    rudCmdEffect a v s = raise (Page.RUDDER a) 10 5 1 {} s := by
  rw [rudCmdEffect]
  exact if_pos unlisted

/-- A load that does not come to its track in time (R230). -/
theorem loadTimeout_runs (alive : rudAlive s a = true) (loading : rudState s a = 1)
    (late : (rud s a).loadStart + s.fld (Reg.RUDDER.LOAD_CFG a) 15 0 * 1000000 ≤ s.time) :
    exec (.loadTimeout a) s = .next (if (rud s a).loadAgain then
        modRud a (fun r => { r with parkFault := true }) (beginPark a 0 false (lasting (Page.RUDDER a) 4 0 {} s))
      else beginPark a 0 true s) := by
  have run : exec (.loadTimeout a) s = execLoadTimeout a s := rfl
  have due := decide_eq_true late
  rw [run, execLoadTimeout, when_met (by rw [due]; simp [alive, loading])]

/-! ### The coefficient sets (R224 to R227) -/

theorem rud_modRud (f : Rudder → Rudder) : rud (modRud a f s) a = f (rud s a) := (SMap.get_set ..).trans (if_pos rfl)

theorem modRud_regs (f : Rudder → Rudder) : (modRud a f s).regs = s.regs := rfl

theorem modRud_reg (f : Rudder → Rudder) (k : Nat) : (modRud a f s).reg k = s.reg k := rfl

/-- What a started load of coefficients leaves (R224). -/
theorem coefLoading_shows {b : Nat} (apart : b ≠ 0) (from_ : Nat) :
    let t := modRud a (fun r => { r with loadFrom := from_ })
      ((s.setBit (Reg.RUDDER.COEF_CTRL a) 0 true).setBit (Reg.RUDDER.COEF_CTRL a) b false)
    (rud t a).loadFrom = from_ ∧ (b < 32 → t.bit (Reg.RUDDER.COEF_CTRL a) 0 = true)
      ∧ SameRegs (fun k => k == Reg.RUDDER.COEF_CTRL a) s t := by
  refine ⟨congrArg Rudder.loadFrom (rud_modRud _), fun small => ?_, ?_⟩
  · refine (bit_of_reg (modRud_reg ..) 0).trans ?_
    rw [State.bit, reg_setBit, if_pos rfl, bit_setBit _ _ _ _ small, if_neg apart.symm, reg_setBit, if_pos rfl, bit_setBit _ _ _ _ (by decide),
      if_pos rfl]
  · exact sameRegs_of_regs (sameRegs_setBit (sameRegs_setBit (sameRegs_refl _ s) _ _ _ (by simp)) _ _ _ (by simp)) (modRud_regs _)

theorem coefCtrlEffect_load {v : Word} (go : bit v 0 = true) (noSwitch : bit v 1 = false) (idle : s.bit (Reg.RUDDER.COEF_CTRL a) 0 = false) :
    coefCtrlEffect a v s = modRud a (fun r => { r with loadFrom := s.reg64 (Reg.RUDDER.COEF_ADDR_LO a) % 0x10000000000 })
      ((s.setBit (Reg.RUDDER.COEF_CTRL a) 0 true).setBit (Reg.RUDDER.COEF_CTRL a) (8 + idleBank s a) false) := by
  have size : (2 : Nat) ^ 40 = 0x10000000000 := by norm_num
  rw [coefCtrlEffect, size, if_neg (not_of noSwitch), if_pos (by rw [go, idle]; rfl)]

theorem coefCtrlEffect_switch {v : Word} (noLoad : bit v 0 = false) (go : bit v 1 = true) :
    coefCtrlEffect a v s = if s.bit (Reg.RUDDER.COEF_CTRL a) (8 + idleBank s a) then s.setBit (Reg.RUDDER.COEF_CTRL a) 1 true
      else raise (Page.RUDDER a) 10 5 2 {} s := by
  rw [coefCtrlEffect]
  simp only [noLoad, go, Bool.false_and, Bool.false_eq_true, if_false, if_true]

theorem idleBank_le : idleBank s a ≤ 1 := Nat.sub_le 1 _

/-- The words of a coefficient set in the bank that idles (R225). -/
def coefStored (a b : Nat) (ws : List Word) (s : State) : State :=
  modRud a (fun r => { r with banks := ws.zipIdx.foldl (fun m e => SMap.set (fun _ => 0#32) m (2048 * b + e.2) e.1) r.banks })
    ((s.setBit (Reg.RUDDER.COEF_CTRL a) 0 false).setBit (Reg.RUDDER.COEF_CTRL a) (8 + b) true)

theorem coefLoadDone_stored {x : List Word × Bool × State} (alive : rudAlive s a = true) (loads : s.bit (Reg.RUDDER.COEF_CTRL a) 0 = true)
    (awake : dramAwake s = true) (turn : creditTurn s (.load (Page.RUDDER a)) = true)
    (fetched : fetchWords true (Requester.code (.rudder (BitVec.ofNat 2 a).toFin)) (rud (takeCredit (.load (Page.RUDDER a)) s) a).loadFrom 0x750
      (takeCredit (.load (Page.RUDDER a)) s) = x) (sound : coefFault a x.1 x.2.1 (takeCredit (.load (Page.RUDDER a)) s) = none) :
    exec (.coefLoadDone a false) s = .next (creditReturned (.load (Page.RUDDER a))
      (coefStored a (idleBank (takeCredit (.load (Page.RUDDER a)) s) a) x.1 x.2.2)) := by
  have run : exec (.coefLoadDone a false) s = execCoefLoadDone a false s := rfl
  rw [run, execCoefLoadDone, when_met (by simp [alive, loads])]
  refine congrArg Host.Outcome.next (underCredit_taken awake turn ?_)
  simp only [fetched, sound, Bool.false_eq_true, if_false, Option.isSome_none]
  rfl

/-! ### The words and sensors of COUPLE (R250 to R258) -/

section
variable {b : Nat} {c : Coupled} (alive : rudAlive s a = true) (sends : rudAlive s b = true) (other : b ≠ a)
  (entry : c = SMap.get (fun _ => Coupled.reset) (rud s a).coupled b) (fresh : c.taken ≠ (rud s b).sentNo) (kept : c.dropped = false)
include alive sends other entry fresh kept

/-- A good word of a partner that is not dropped. -/
theorem coupleWord_good {x y z : Bool} (good : (x && y && z) = true) :
    exec (.coupleWord a b x y z) s = .next ((modCoupled a b (fun e =>
        { e with coilMa := (rud s b).sent.coilMa, milliMv := (rud s b).sent.milliMv
                 wedgeMa := if (rud s b).sent.index = 0 then (rud s b).sent.coilMa else e.wedgeMa, bad := 0, good := e.good + 1 })
      (modCoupled a b (fun e => { e with taken := (rud s b).sentNo }) s)).setBit Reg.COUPLE.CPL_STATUS b true) := by
  have run : exec (.coupleWord a b x y z) s = execCoupleWord a b x y z s := rfl
  rw [run, execCoupleWord]
  dsimp only
  rw [← entry, when_met (by simp [alive, sends, other, fresh]), if_pos good]
  simp only [kept, Bool.false_and, Bool.not_false, Bool.true_or, Bool.and_true, Bool.false_eq_true, if_false]

/-- A bad word: counted, and the second in a row drops the partner. -/
theorem coupleWord_bad {x y z : Bool} (bad : (x && y && z) = false) :
    exec (.coupleWord a b x y z) s = .next ((fun t => if c.bad = 0 then t
        else lasting Page.COUPLE 2 b {} ((t.setBit Reg.COUPLE.CPL_STATUS b false).setBit Reg.COUPLE.CPL_STATUS (4 + b) true))
      (transient Page.COUPLE 1 b {} ((modCoupled a b (fun e => { e with bad := e.bad + 1, good := 0, dropped := e.dropped || decide (1 ≤ e.bad) })
        (modCoupled a b (fun e => { e with taken := (rud s b).sentNo }) s)).count Reg.COUPLE.CPL_ERRORS 1))) := by
  have run : exec (.coupleWord a b x y z) s = execCoupleWord a b x y z s := rfl
  rw [run, execCoupleWord]
  dsimp only
  rw [← entry, when_met (by simp [alive, sends, other, fresh]), if_neg (not_of bad)]
  simp only [kept, Bool.false_eq_true, false_or]

end

/-- A sample of a sensor, shown in its register (R254). -/
def sampleShown (n : Nat) (v : BitVec 14) (y : Sensor) (s : State) : State :=
  modCouple (fun c => { c with sensors := SMap.set (fun _ => Sensor.reset) c.sensors n y }) (s.setReg (Reg.COUPLE.SNS n) (word v.toNat))

theorem sampleShown_shows (n : Nat) (v : BitVec 14) (y : Sensor) : (sampleShown n v y s).reg (Reg.COUPLE.SNS n) = word v.toNat
    ∧ sensor (sampleShown n v y s) n = y ∧ SameRegs (fun k => k == Reg.COUPLE.SNS n) s (sampleShown n v y s) := by
  refine ⟨?_, ?_, ?_⟩
  · exact (setReg_same s (Reg.COUPLE.SNS n) (word v.toNat) :)
  · exact (SMap.get_set ..).trans (if_pos rfl)
  · exact sameRegs_of_regs (sameRegs_setReg (sameRegs_refl _ s) _ _ (by simp)) rfl

theorem shockHoldEnd_runs (held : shockHeld s = true) (over_ : s.couple.lastAbove + s.fld Reg.COUPLE.SNS_CFG 27 16 * 1000 ≤ s.time) :
    exec .shockHoldEnd s = .next ((List.range 4).foldl (fun t a => t.setBit (Reg.STATUS (Page.RUDDER a)) 22 false) (endShock s)) := by
  have run : exec .shockHoldEnd s = execShockHoldEnd s := rfl
  rw [run, execShockHoldEnd, when_met (by rw [held, decide_eq_true over_]; rfl)]

end

/-- Settles O52. -/
theorem rudderCommands : Obligations.RudderCommands := by
  refine ⟨fun s req a v small may => ⟨fun named => ⟨fun parked allowed => ?_, fun parked denied => ?_, fun out => ?_⟩,
      fun named => ⟨fun state => ?_, fun other => ?_⟩, fun named => ⟨fun h0 h7 => ?_, fun parked => ?_⟩,
      fun named => ⟨fun failed => ?_, fun other => ?_⟩, fun unlisted => ?_⟩,
    fun s a alive loading late => ⟨fun first => ?_, fun again => ?_⟩,
    fun s req a v small may => ⟨fun go noSwitch idle => ?_, fun noLoad go full => ?_, fun noLoad go empty => ?_⟩,
    fun s a u x alive loads awake turn taken fetched sound => ?_, fun s a id alive asked full state name => ?_,
    fun s a b c w u x y z alive sends other entry word_ fresh kept put => ⟨fun good => ?_, fun bad first => ?_, fun bad second => ?_⟩,
    fun s n x on used plain => ?_, fun s u on shock over_ time => ?_, fun s on calm held over_ => ?_, fun s n on used sampled stuck => ?_⟩
  · refine rudCmd_runs rfl small may (by simp [named]) ((rudCmdEffect_load named).trans ?_)
    exact (if_neg (not_not.2 parked)).trans (if_pos allowed)
  · refine rudCmd_runs rfl small may (by simp [named]) ((rudCmdEffect_load named).trans ?_)
    exact (if_neg (not_not.2 parked)).trans (if_neg (not_of denied))
  · refine rudCmd_runs rfl small may (by simp [named]) ((rudCmdEffect_load named).trans ?_)
    exact if_pos out
  · refine rudCmd_runs rfl small may (by simp [named]) ((rudCmdEffect_unload named).trans ?_)
    exact if_pos state
  · refine rudCmd_runs rfl small may (by simp [named]) ((rudCmdEffect_unload named).trans ?_)
    exact if_neg other
  · refine rudCmd_runs rfl small may (by simp [named]) ((rudCmdEffect_retract named).trans ?_)
    exact if_neg (show ¬ (rudState s a = 0 ∨ rudState s a = 7) by omega)
  · refine rudCmd_runs rfl small may (by simp [named]) ((rudCmdEffect_retract named).trans ?_)
    exact if_pos parked
  · refine rudCmd_runs rfl small may (by simp [named]) ((rudCmdEffect_clear named).trans ?_)
    exact if_pos failed
  · refine rudCmd_runs rfl small may (by simp [named]) ((rudCmdEffect_clear named).trans ?_)
    exact if_neg other
  · exact rudCmd_runs rfl small may (by simpa using unlisted) (rudCmdEffect_unlisted unlisted)
  · rw [loadTimeout_runs alive loading late, if_neg (not_of first)]
  · rw [loadTimeout_runs alive loading late, if_pos again]
  · have le := idleBank_le (s := busOk 0#32 s) (a := a)
    obtain ⟨address, busy, same⟩ := coefLoading_shows (s := busOk 0#32 s) (a := a) (b := 8 + idleBank (busOk 0#32 s) a) (by omega)
      ((busOk 0#32 s).reg64 (Reg.RUDDER.COEF_ADDR_LO a) % 0x10000000000)
    refine ⟨_, ?_, address, busy (by omega), same⟩
    have run : exec (.coefLoad req a v) s = execCoefLoad req a v s := rfl
    rw [run, execCoefLoad, when_met (by simp [small, go]), withWrite_pass may, coefCtrlEffect_load (s := busOk 0#32 s) go noSwitch idle]
  · have run : exec (.coefSwitch req a v) s = execCoefSwitch req a v s := rfl
    rw [run, execCoefSwitch, when_met (by simp [small, go, noLoad]), withWrite_pass may, coefCtrlEffect_switch (s := busOk 0#32 s) noLoad go]
    exact congrArg Host.Outcome.next (if_pos full)
  · have run : exec (.coefSwitch req a v) s = execCoefSwitch req a v s := rfl
    rw [run, execCoefSwitch, when_met (by simp [small, go, noLoad]), withWrite_pass may, coefCtrlEffect_switch (s := busOk 0#32 s) noLoad go]
    exact congrArg Host.Outcome.next (if_neg (not_of empty))
  · subst taken
    exact coefLoadDone_stored alive loads awake turn fetched.symm sound
  · have run : exec (.coefSwitched a false) s = execCoefSwitched a false s := rfl
    rw [run, execCoefSwitched]
    dsimp only
    rw [when_met (by simp [alive, asked, full, state]), ← name, if_neg Bool.false_ne_true]
  · subst word_ put
    exact coupleWord_good alive sends other entry fresh kept good
  · subst word_ put
    rw [coupleWord_bad alive sends other entry fresh kept bad]
    exact congrArg Host.Outcome.next (if_pos first)
  · subst word_ put
    rw [coupleWord_bad alive sends other entry fresh kept bad]
    exact congrArg Host.Outcome.next (if_neg (by omega))
  · let y : Sensor := ⟨x.toInt, if (sensor s n).sampled && (x.toInt == (sensor s n).last) then (sensor s n).since else s.time,
      if (sensor s n).sampled && fullScale (sensor s n).last && fullScale x.toInt then (sensor s n).railed else s.time, true⟩
    obtain ⟨shown, entry, same⟩ := sampleShown_shows (s := s) n x y
    refine runs_to (sampleShown n x y s) (c := .snsSample n x) rfl (by simp [on, used]) ?_
      ⟨shown, by rw [entry], by rw [entry], same⟩
    exact if_neg (by omega)
  · rw [shockHoldEnd_runs (by rw [shockHeld, shock]; rfl) over_, endShock, if_neg (not_not_of shock), time]
  · rw [shockHoldEnd_runs held over_, endShock, if_pos (by rw [calm]; rfl)]
  · have run : exec (.sensorFault n) s = execSensorFault n s := rfl
    rw [run, execSensorFault, when_met (by simp [on, used, sampled, stuck])]

end Sys2Proof.Machine
end

section
set_option Elab.async false
/-! The head stack (O53). -/

namespace Sys2Proof.Machine

section
variable {s : State} {a : Nat}

/-! ### The preamplifier's ports (R142 to R156) -/

theorem pre_modPre (f : PrePort → PrePort) : pre (modPre a f s) a = f (pre s a) := (SMap.get_set ..).trans (if_pos rfl)

theorem modPre_regs (f : PrePort → PrePort) : (modPre a f s).regs = s.regs := rfl

theorem fwFrame_busy {v : Word} (busy : s.bit (Reg.PRE.FW_RESULT a) 16 = true) : fwFrame a v s = s :=
  if_pos (by rw [busy, Bool.true_or])

/-- The tail of a frame under way that is bad (R148). -/
theorem serialFrame_bad {f : PreFrame} {fw again : Bool} {d : BitVec 16} {c : BitVec 8} (up : portUp s a = true)
    (sends : (pre s a).sending = some (f, fw, again)) (bad : tailGood f.read (d ++ c) = false) :
    exec (.serialFrameDone a d c) s = .next (if !again then
        modPre a (fun p => { p with sending := some (f, fw, true) }) (s.countFld (Reg.PRE.CRC_COUNT a) 15 0 1)
      else loseActuator a (if fw then (lasting (Page.PRE a) 2 0 {} s).setBit (Reg.PRE.FW_RESULT a) 17 true else lasting (Page.PRE a) 2 0 {} s)) := by
  have run : exec (.serialFrameDone a d c) s = execSerialFrameDone a d c s := rfl
  rw [run, execSerialFrameDone, when_met up]
  simp only [sends, bad, Bool.not_false, if_true]

theorem serialFrame_good {f : PreFrame} {fw again : Bool} {d : BitVec 16} {c : BitVec 8} (up : portUp s a = true)
    (sends : (pre s a).sending = some (f, fw, again)) (good : tailGood f.read (d ++ c) = true) :
    exec (.serialFrameDone a d c) s = .next ((fun u => preNext a (modPre a (fun p => { p with sending := none, wire := [] })
        (if fw then fwDone a f d.toNat (if f.read then u else preWritten a f u) else (if f.read then u else preWritten a f u))))
      (if again then transient (Page.PRE a) 1 0 {} s else s)) := by
  have run : exec (.serialFrameDone a d c) s = execSerialFrameDone a d c s := rfl
  rw [run, execSerialFrameDone, when_met up]
  simp only [sends, good, Bool.not_true, Bool.false_eq_true, if_false]

/-! ### The temperatures and the load (R157 to R164) -/

theorem readDiode_sound {i : Nat} {x x' : Int} (low : -400 ≤ x) (high : x ≤ 1250) (near : (x - x').natAbs ≤ 50) :
    readDiode i ⟨some x', false, false⟩ x s = (⟨some x, false, false⟩, s) := by
  have sound : diodeBad ⟨some x', false, false⟩ x = false := by
    simp [diodeBad]
    omega
  rw [readDiode, if_neg Bool.false_ne_true, if_neg (not_of sound)]
  rfl

theorem diodeWord_sound (x : Int) : diodeWord ⟨some x, false, false⟩ x = word (fld (sword x) 15 0) := by
  rw [diodeWord, if_neg Bool.false_ne_true, Nat.add_zero]

/-- Both diodes and their mean in the registers (R157, R158). -/
def tempsShown (x y : Int) (u v w : Word) (s : State) : State :=
  ((({ s with hda := { s.hda with d0 := ⟨some x, false, false⟩, d1 := ⟨some y, false, false⟩ } }).setReg Reg.HDA.DIODE0 u).setReg
    Reg.HDA.DIODE1 v).setReg Reg.HDA.TEMP w

theorem tempsShown_shows (x y : Int) (u v w : Word) : (tempsShown x y u v w s).reg Reg.HDA.TEMP = w
    ∧ (tempsShown x y u v w s).hda = { s.hda with d0 := ⟨some x, false, false⟩, d1 := ⟨some y, false, false⟩ }
    ∧ (tempsShown x y u v w s).reg Reg.HDA.DIODE0 = u ∧ (tempsShown x y u v w s).reg Reg.HDA.DIODE1 = v
    ∧ SameRegs (fun k => k == Reg.HDA.TEMP || k == Reg.HDA.DIODE0 || k == Reg.HDA.DIODE1) s (tempsShown x y u v w s) := by
  refine ⟨setReg_same .., rfl, ?_, ?_, ?_⟩
  · exact (setReg_other _ _ _ (by decide)).trans ((setReg_other _ _ _ (by decide)).trans (setReg_same ..))
  · exact (setReg_other _ _ _ (by decide)).trans (setReg_same ..)
  · exact sameRegs_setReg (sameRegs_setReg (sameRegs_setReg (sameRegs_of_regs (sameRegs_refl _ s) rfl) _ _ (by decide)) _ _ (by decide))
      _ _ (by decide)

/-- Two sound readings (R157). -/
theorem tempUpdate_runs {x y x' y' : Int} (on : blockRuns s Page.HDA = true) (d0 : s.hda.d0 = ⟨some x', false, false⟩)
    (d1 : s.hda.d1 = ⟨some y', false, false⟩) (xl : -400 ≤ x) (xh : x ≤ 1250) (yl : -400 ≤ y) (yh : y ≤ 1250)
    (xn : (x - x').natAbs ≤ 50) (yn : (y - y').natAbs ≤ 50) :
    exec (.tempUpdate x y) s = .next (tempsShown x y (word (fld (sword x) 15 0)) (word (fld (sword y) 15 0))
      (word (fld (sword ((x + y).tdiv 2)) 15 0 + 0x80000000)) s) := by
  have run : exec (.tempUpdate x y) s = execTempUpdate x y s := rfl
  have top : (2 : Nat) ^ 31 = 0x80000000 := by norm_num
  rw [run, execTempUpdate, when_met on, d0, d1, readDiode_sound xl xh xn]
  dsimp only
  rw [readDiode_sound yl yh yn, diodeWord_sound, diodeWord_sound, top]
  simp only [List.filterMap_cons, List.filterMap_nil, Bool.false_eq_true, if_false, List.foldl_cons, List.foldl_nil, zero_add, List.length_cons,
    List.length_nil, show ((0 + 1 + 1 : Nat) : Int) = 2 from rfl]
  rfl

/-- The load of the head stack, shown (R163, R164). -/
theorem tliShown_shows (ps : List LanePulse) (v : Word) :
    let t := ({ s with hda := { s.hda with pulses := ps } }).setReg Reg.HDA.TLI v
    t.hda = { s.hda with pulses := ps } ∧ t.reg Reg.HDA.TLI = v ∧ SameRegs (fun k => k == Reg.HDA.TLI) s t :=
  ⟨rfl, setReg_same .., sameRegs_setReg (u := { s with hda := { s.hda with pulses := ps } }) (sameRegs_of_regs (sameRegs_refl _ s) rfl) _ _
    (by decide)⟩

/-! ### Calibration and wedges (R165 to R180) -/

theorem calLoadDone_runs {bad : List Nat} {b n : Nat} (load : s.cal.load = some (b, n)) (alive : blockAlive s Page.CAL = true) :
    exec (.calLoadDone bad) s = .next
      (underCredit (.load Page.CAL) (fun t => (List.range n).foldl (loadRecord b bad) (modCal (fun c => { c with load := none }) t)) s) := by
  have run : exec (.calLoadDone bad) s = execCalLoadDone bad s := rfl
  rw [run, execCalLoadDone]
  simp only [load]
  rw [when_met alive]

theorem envelopeCheck_runs {o h z m : Nat} {r : Option (List Word)} {u : State} (small : o < 16) (on : blockRuns s Page.CAL = true)
    (up : portUp s (oarAct o) = true) (use : calUse s o = some (h, z)) (member : m = memberOf o h) (record : r = calRecordOf s o m z)
    (compared : u = calCompare m z r s) :
    exec (.envelopeCheck o) s = .next ((fun x => preLevels (oarAct o) h (calLevels x m z r) x)
      (if !calStale s m z && calStale u m z then verifyJob o u else u)) := by
  have run : exec (.envelopeCheck o) s = execEnvelopeCheck o s := rfl
  rw [run, execEnvelopeCheck, when_met (by simp [small, on, up])]
  simp only [use]
  rw [← member, ← record, ← compared]

theorem modSlot_regs (k : Nat) (f : RudSlot → RudSlot) : (modSlot a k f s).regs = s.regs := rfl

/-- A slot's entry after a change of it. -/
theorem rudSlot_modSlot (k : Nat) (f : RudSlot → RudSlot) : rudSlot (modSlot a k f s) a k = f (rudSlot s a k) := by
  rw [rudSlot, modSlot, rud_modRud]
  exact (SMap.get_set ..).trans (if_pos rfl)

/-- The result of a wedge: its mark, its number and its place (R178). -/
def demodulated (s : State) (a : Nat) (mark : WedgeMark) (w : Nat) (pos : Int) : WedgeResult :=
  ⟨decide (mark.symErrors ≤ 2) && inWindow s (if rudState s a = 4 then 4 else 64) mark.skewNs, w, (pos / 4096).toNat, (pos % 4096).toNat⟩

/-- The demodulated wedge of a slot whose front end corrects the offsets itself (R176 to R178). -/
theorem wedgeDemod_runs {k n d w g : Nat} {n1 n2 : Int} (small : a < 4) (slot : k < 4)
    (oar_ : blockAlive s (Page.OAR (4 * a + k)) = true) (alive : rudAlive s a = true) (used : (rudSlot s a k).used = true)
    (on : slotOn s a k = true) (same : slotHead s a k = (rudSlot s a k).head) (sep : s.bit (Reg.OAR.FE_CTRL (4 * a + k)) 0 = true) :
    exec (.wedgeDemod a k ⟨n, d⟩ w g ⟨n1, n2⟩) s = .next (modSlot a k
      (fun y => { y with demod := some (demodulated s a ⟨n, d⟩ w (max 0 (wedgePlace (grayDecode g) (burstFraction n1 n2)))) }) s) := by
  have run : exec (.wedgeDemod a k ⟨n, d⟩ w g ⟨n1, n2⟩) s = execWedgeDemod a k ⟨n, d⟩ w g ⟨n1, n2⟩ s := rfl
  rw [run, execWedgeDemod, when_met (by simp [small, slot, oar_, alive, used, on, same])]
  dsimp only
  rw [if_pos sep]
  dsimp only
  rw [sub_zero]
  rfl

/-! ### The end of a retract (R244 to R247) -/

theorem parkDetect_runs {v i : Int} {n : Nat} (alive : rudAlive s a = true) (state : rudState s a = 5 ∨ rudState s a = 6)
    (free : (rud s a).latched = false) (driven : (rud s a).currentStart = none) (held : 2000 ≤ n)
    (still : 20 * (armVelocity s a v i).natAbs < 1000 * s.fld (Reg.RUDDER.LOAD_CFG a) 31 16)
    (pressed : s.fld (Reg.RUDDER.COIL_CFG a) 11 0 < 2 * i.natAbs) :
    exec (.parkDetect a ⟨v, i⟩ n) s = .next (if (rud s a).reload then startLoad a (rud s a).loadHead true (driveCoil a 0 s)
      else parkedOff (parkNow a (rud s a).parkFault false s)) := by
  have run : exec (.parkDetect a ⟨v, i⟩ n) s = execParkDetect a ⟨v, i⟩ n s := rfl
  have slow := decide_eq_true still
  rw [run, execParkDetect, when_met]
  simp only [slow]
  rcases state with h | h <;> simp [alive, h, free, driven, held, pressed]

end

/-- Settles O53. -/
theorem headsCommands : Obligations.HeadsCommands := by
  refine ⟨fun s req a v small may go => ⟨fun reads => ?_, fun writes => ?_, fun reads busy => ?_⟩,
    fun s a f fw d c x up tail => ⟨fun b u sends good put => ?_, fun sends bad => ?_, fun sends bad => ?_, fun sends bad => ?_⟩,
    fun s a w up clear => ?_, fun s a w up watched => ⟨?_, fun heads chip => ?_, fun chip => ?_⟩,
    fun s a w up faulted calm => ⟨fun new => ?_, fun zero => ?_⟩, fun s req v may go idle => ⟨fun first => ?_, fun again => ?_⟩,
    fun s rs t0 ports starts at_ => ?_, fun s req addr v k at_ of may => ?_,
    fun s x y x' y' on d0 d1 xl xh yl yh xn yn => ?_, fun s low ns n l d on gate active lanes duty => ?_,
    fun s req v may go idle on => ?_, fun s bad b n load alive => calLoadDone_runs load alive, fun s bad b n t load alive awake turn read => ?_,
    fun s o h z m r u small on up use member record compared => ⟨fun sound => ?_, fun x went verify => ?_⟩,
    fun s a k n d w g n1 n2 p asm_ slot oar_ alive used on same sep place => ?_,
    fun s a v i n alive state free driven held still pressed => ⟨fun again => ?_, fun parks => ?_⟩,
    fun s a alive state free driven late => ?_, fun s a u alive starts late => ?_⟩
  · have run : exec (.preFwRead req a v) s = execPreFwRead req a v s := rfl
    rw [run, execPreFwRead, when_met (by simp [small, go, reads]), withWrite_pass may]
  · have run : exec (.preFwWrite req a v) s = execPreFwWrite req a v s := rfl
    rw [run, execPreFwWrite, when_met (by simp [small, go, writes]), withWrite_pass may]
  · have run : exec (.preFwRead req a v) s = execPreFwRead req a v s := rfl
    rw [run, execPreFwRead, when_met (by simp [small, go, reads]), withWrite_pass may, fwFrame_busy (s := busOk 0#32 s) busy]
  · subst tail
    rw [serialFrame_good up sends good, put]
  · subst tail
    refine ⟨modPre a (fun p => { p with sending := some (f, fw, true) }) (s.countFld (Reg.PRE.CRC_COUNT a) 15 0 1), ?_,
      congrArg PrePort.sending (pre_modPre _), fld_countFld s (Reg.PRE.CRC_COUNT a) 1 (by decide),
      sameRegs_of_regs (sameRegs_setFld (sameRegs_refl _ s) _ _ _ _ (by simp)) (modPre_regs _)⟩
    rw [serialFrame_bad up sends bad]
    rfl
  · subst tail
    rw [serialFrame_bad up sends bad]
    rfl
  · subst tail
    rw [serialFrame_bad up sends bad]
    rfl
  · have run : exec (.pfaultAssert a w) s = execPfaultAssert a w s := rfl
    rw [run, execPfaultAssert, when_met (by simp [up, clear])]
  · have run : exec (.pfaultSettle a true w) s = execPfaultSettle a true w s := rfl
    rw [run, execPfaultSettle, when_met (by simp [up, watched])]
    rfl
  · have run : exec (.pfaultSettle a false w) s = execPfaultSettle a false w s := rfl
    rw [run, execPfaultSettle, when_met (by simp [up, watched])]
    dsimp only
    rw [if_neg Bool.false_ne_true, preampFails, if_pos ⟨heads, chip⟩]
  · have run : exec (.pfaultSettle a false w) s = execPfaultSettle a false w s := rfl
    rw [run, execPfaultSettle, when_met (by simp [up, watched])]
    dsimp only
    rw [if_neg Bool.false_ne_true, preampFails, if_neg fun h => chip h.2]
  · have run : exec (.faultStatusPoll a w) s = execFaultStatusPoll a w s := rfl
    rw [run, execFaultStatusPoll, when_met (by simp [up, faulted, calm])]
    exact congrArg Host.Outcome.next (if_pos new)
  · have run : exec (.faultStatusPoll a w) s = execFaultStatusPoll a w s := rfl
    rw [run, execFaultStatusPoll, when_met (by simp [up, faulted, calm]), zero]
    exact congrArg Host.Outcome.next ((if_neg (by simp)).trans (if_pos rfl))
  · have run : exec (.discover req v) s = execDiscover req v s := rfl
    rw [run, execDiscover, when_met go, withWrite_pass may, if_neg (by simp [idle]), if_neg (not_of (show (busOk 0#32 s).bit Reg.HDA.DISC_STATUS 0 = false from first))]
  · have run : exec (.discover req v) s = execDiscover req v s := rfl
    rw [run, execDiscover, when_met go, withWrite_pass may, if_neg (by simp [idle]), if_pos (show (busOk 0#32 s).bit Reg.HDA.DISC_STATUS 0 = true from again)]
  · have run : exec (.discoveryDone rs) s = execDiscoveryDone rs s := rfl
    rw [run, execDiscoveryDone]
    simp only [starts]
    rw [← at_]
  · exact congrArg Host.Outcome.next (critWriteAt_pass at_ of may)
  · exact ⟨_, tempUpdate_runs on d0 d1 xl xh yl yh xn yn, tempsShown_shows ..⟩
  · refine runs_to _ (c := .tliUpdate low) rfl on ?_ (tliShown_shows (s := s) (recentPulses s.time s.hda.pulses)
      (word (min 255 (32 * n + d) + n * 256 + d * 65536)))
    rw [duty, lanes, active, gate]
  · refine runs_write_to (modCal (fun c => { c with load := some (s.reg64 Reg.CAL.LOAD_ADDR_LO / 64 * 64,
      min 1536 (max 1 (s.fld Reg.CAL.LOAD_COUNT 10 0))) }) (busOk 0#32 s)) (c := .calLoad req v) rfl go may ?_ ⟨rfl, rfl⟩
    exact when_met (show ((busOk 0#32 s).cal.load.isNone && blockRuns (busOk 0#32 s) Page.CAL) = true by
      rw [show (busOk 0#32 s).cal.load = none from idle, show blockRuns (busOk 0#32 s) Page.CAL = true from on]; rfl) _
  · rw [calLoadDone_runs load alive]
    exact congrArg Host.Outcome.next (underCredit_taken awake turn read.symm)
  · rw [envelopeCheck_runs small on up use member record compared, if_neg (not_of sound)]
  · rw [envelopeCheck_runs small on up use member record compared, if_pos went, verify]
  · subst place
    exact ⟨_, wedgeDemod_runs asm_ slot oar_ alive used on same sep, modSlot_regs k _, rudSlot_modSlot k _⟩
  · rw [parkDetect_runs alive state free driven held still pressed, if_pos again]
  · rw [parkDetect_runs alive state free driven held still pressed, if_neg (not_of parks)]
  · have run : exec (.retractTimeout a) s = execRetractTimeout a s := rfl
    have due := decide_eq_true late
    rw [run, execRetractTimeout, when_met]
    rw [due]
    rcases state with h | h <;> simp [alive, h, free, driven]
  · have run : exec (.retractCurrentEnd a) s = execRetractCurrentEnd a s := rfl
    have waited : (rud s a).currentStart.any (fun t => decide (t + 100000000 ≤ s.time)) = true := by
      rw [starts, Option.any_some]
      exact decide_eq_true late
    rw [run, execRetractCurrentEnd, when_met (by rw [waited, alive]; rfl)]

end Sys2Proof.Machine
end

section
set_option Elab.async false
/-! Crew's band commands (O54). -/

namespace Sys2Proof.Machine

section
variable {s : State}

theorem band_setBand (b : Nat) (x : Option Band) (t : State) : band (setBand b x t) b = x := (SMap.get_set ..).trans (if_pos rfl)

theorem bandResult_shows (outcome code : Nat) (t : State) :
    (bandResult outcome code t).reg Reg.CREWG.BAND_CMD_RESULT = word (outcome % 4 + code % 16 * 16) ∧ (bandResult outcome code t).crew = t.crew
      ∧ SameRegs (fun k => k == Reg.CREWG.BAND_CMD_RESULT) t (bandResult outcome code t) :=
  ⟨setReg_same .., rfl, sameRegs_setReg (sameRegs_refl _ t) _ _ (by decide)⟩

/-- A change of a band that ends with a result. -/
theorem bandChanged_shows (outcome code b : Nat) (x : Option Band) (t : State) : band (bandResult outcome code (setBand b x t)) b = x
    ∧ (bandResult outcome code (setBand b x t)).reg Reg.CREWG.BAND_CMD_RESULT = word (outcome % 4 + code % 16 * 16)
    ∧ SameRegs (fun k => k == Reg.CREWG.BAND_CMD_RESULT) t (bandResult outcome code (setBand b x t)) := by
  obtain ⟨result, -, same⟩ := bandResult_shows outcome code (setBand b x t)
  exact ⟨band_setBand b x t, result, same⟩

section
variable {i : Instr} {op b : Nat} {req : Requester} {v : Word} (may : Writes req Reg.CREWG.BAND_CMD s) (place : b = fld v 11 0)
  (named : fld v 19 16 = op)
include may place named

/-- A command of an enabled band that the bus passes (R345). -/
theorem enabledCommand_runs {eff : Nat → Band → State → State} {x : Band} (run : exec i s = .next (enabledCommand op req v eff s))
    (enabled : band s b = some x) : exec i s = .next (eff b x (busOk 0#32 s)) := by
  subst place
  rw [run, enabledCommand, bandCommand, when_met (beq_iff_eq.2 named), withWrite_pass may]
  simp only [show band (busOk 0#32 s) (fld v 11 0) = some x from enabled]

/-- On a band that is not enabled it is refused with code 8. -/
theorem enabledCommand_refused {eff : Nat → Band → State → State} (run : exec i s = .next (enabledCommand op req v eff s))
    (disabled : band s b = none) : exec i s = .next (bandRefused 8 (busOk 0#32 s)) := by
  subst place
  rw [run, enabledCommand, bandCommand, when_met (beq_iff_eq.2 named), withWrite_pass may]
  simp only [show band (busOk 0#32 s) (fld v 11 0) = none from disabled]

/-- BAND_ENABLE, which takes a band that is not enabled (R342). -/
theorem bandEnable_runs (first : op = 1) : exec (.bandEnable req v) s = .next (if (band s b).isSome then bandRefused 8 (busOk 0#32 s)
    else enableBand b (busOk 0#32 s)) := by
  subst place first
  have run : exec (.bandEnable req v) s = execBandEnable req v s := rfl
  rw [run, execBandEnable, bandCommand, when_met (beq_iff_eq.2 named), withWrite_pass may]
  rfl

end

theorem targetOff_busOk (v : Word) : targetOff (busOk v s) = targetOff s := rfl

theorem bandEntryOff_busOk (v : Word) (b : Nat) : bandEntryOff (busOk v s) b = bandEntryOff s b := rfl

end

/-- Settles O54. -/
theorem bandCommands : Obligations.BandCommands := by
  refine ⟨fun s req v b may place => ⟨fun op => ⟨fun off => ?_, fun x on => ?_⟩, fun op => ⟨fun x on => ?_, fun off => ?_⟩,
      fun op => ⟨fun x on switched_ => ?_, fun x on old => ?_, fun off => ?_⟩, fun op => ⟨fun x on => ?_, fun off => ?_⟩,
      fun op => ⟨fun x on => ?_, fun off => ?_⟩, fun op => ⟨fun x r on read => ⟨fun c fault => ?_, fun sound => ?_⟩, fun off => ?_⟩,
      fun op => ⟨fun x on old => ?_, fun x r on switched_ read good same => ?_, fun off => ?_⟩, fun unlisted => ?_⟩,
    fun s b x on closing idle => ?_, fun s req addr v k at_ of may => ?_⟩
  · rw [bandEnable_runs may place op rfl, if_neg (by simp [off])]
  · obtain ⟨result, crew, same⟩ := bandResult_shows 2 8 (busOk 0#32 s)
    refine ⟨bandRefused 8 (busOk 0#32 s), ?_, result, crew, same⟩
    rw [bandEnable_runs may place op rfl, if_pos (by simp [on])]
  · exact ⟨_, enabledCommand_runs may place op rfl on, bandChanged_shows ..⟩
  · exact enabledCommand_refused may place op rfl off
  · refine ⟨bandDone (setBand b (some { x with started := true, paused := false }) (busOk 0#32 s)),
      (enabledCommand_runs may place op rfl on).trans ?_, bandChanged_shows ..⟩
    exact congrArg (fun t => Host.Outcome.next (bandDone t)) (if_pos switched_)
  · refine (enabledCommand_runs may place op rfl on).trans ?_
    exact congrArg (fun t => Host.Outcome.next (bandDone t)) (if_neg (not_of old))
  · exact enabledCommand_refused may place op rfl off
  · exact ⟨_, enabledCommand_runs may place op rfl on, bandChanged_shows ..⟩
  · exact enabledCommand_refused may place op rfl off
  · exact enabledCommand_runs (i := .bandResync req v) (eff := fun b _ t => bandDone (startResync b t)) may place op rfl on
  · exact enabledCommand_refused may place op rfl off
  · refine (enabledCommand_runs (i := .bandReshape req v) may place op rfl on).trans ?_
    rw [targetOff_busOk, ← read]
    simp only [fault]
  · refine (enabledCommand_runs (i := .bandReshape req v) may place op rfl on).trans ?_
    rw [targetOff_busOk, ← read]
    simp only [sound]
  · exact enabledCommand_refused may place op rfl off
  · refine (enabledCommand_runs may place op rfl on).trans ?_
    exact congrArg Host.Outcome.next (if_pos (by rw [show switched (busOk 0#32 s) b = false from old]; rfl))
  · refine (enabledCommand_runs (i := .bandCommit req v) may place op rfl on).trans ?_
    rw [if_neg (by rw [show switched (busOk 0#32 s) b = true from switched_]; decide), bandEntryOff_busOk, ← read]
    exact congrArg Host.Outcome.next (if_neg (by rw [good, same]; simp))
  · exact enabledCommand_refused may place op rfl off
  · have run : exec (.bandCmdUnlisted req v) s = execBandCmdUnlisted req v s := rfl
    rw [run, execBandCmdUnlisted, when_met (by simpa using unlisted), withWrite_pass may]
  · refine runs_to (bandDone (setBand b none s)) (c := .bandDisableDone b) rfl (by simp [on, closing, idle]) rfl (bandChanged_shows ..)
  · exact congrArg Host.Outcome.next (critWriteAt_pass at_ of may)

end Sys2Proof.Machine
end

section
set_option Elab.async false
/-! Crew's engines (O55). -/

namespace Sys2Proof.Machine

section
variable {s : State} {e : Nat}

/-- The jobs of an engine that its command steps (R350). -/
def jobsStepped (ty e : Nat) (u : State) : State :=
  (u.crew.jobs.filter fun j => j.engine == e && (j.kind == ty || (ty == 1 && j.port == 0xFF && j.kind != 8))).foldl (fun t j => stepJob j.id t) u

theorem stripeCommand_runs {ty : Nat} (runs : crewRuns s e = true) : stripeCommand ty e s
    = if crewTakes (jobsStepped ty e (crewDrain s)) e then takeStripe ty e (jobsStepped ty e (crewDrain s))
      else jobsStepped ty e (crewDrain s) := when_met runs _

/-- A stripe command takes a new operation when its engine takes one, and else only steps its jobs. -/
theorem stripeCommand_cases {ty : Nat} {w : State} (runs : crewRuns s e = true) (stepped : w = jobsStepped ty e (crewDrain s)) :
    (crewTakes w e = true → stripeCommand ty e s = takeStripe ty e w) ∧ (crewTakes w e = false → stripeCommand ty e s = w) := by
  subst stepped
  rw [stripeCommand_runs runs]
  exact ⟨fun takes => if_pos takes, fun full => if_neg (not_of full)⟩

/-- The stripe that a reshape takes next: one to copy again, else the one at its watermark (R371, R373). -/
def reshapeBegun (e : Nat) (tgt : List Word) (u : State) : State :=
  match u.crew.recopy with
  | t :: rest => beginOwn 7 e (u.critFld 13 11 0) t 0 0 (256 * bData tgt) (modCrew fun c => { c with recopy := rest }) u
  | [] => beginOwn 7 e (u.critFld 13 11 0) (u.fld Reg.CREWG.RESHAPE_WM 23 0) 0 0 (256 * bData tgt) id u

section
variable {b slot : Nat} {u : State} (runs : crewRuns s e = true) (drained : u = crewDrain s)
include runs drained

theorem rebuildStep_begins (second : slot < 2)
    (none : (u.crew.jobs.find? fun j => j.kind == 4 && j.band == b && spFirst j.words == slot) = none) :
    exec (.rebuildStep e b slot) s = .next (if !rebuildWanted u b slot then u else if !rebuildHere u b slot then advanceWm b slot u
      else if !rebuildRoom u then u else beginOwn 4 e b (bWm (bandWords u b) slot) slot slot 1 id u) := by
  subst drained
  have run : exec (.rebuildStep e b slot) s = execRebuildStep e b slot s := rfl
  rw [run, execRebuildStep, when_met (by simp [runs, second])]
  simp only [none]

theorem resyncStep_begins (none : ownJob u 5 b = none) :
    exec (.resyncStep e b) s = .next (if !resyncWanted u b then u
      else if bStripes (bandWords u b) ≤ bResyncWm (bandWords u b) then resyncOver b u
      else beginOwn 5 e b (bResyncWm (bandWords u b)) 0 0 1 id u) := by
  subst drained
  have run : exec (.resyncStep e b) s = execResyncStep e b s := rfl
  rw [run, execResyncStep, when_met runs]
  simp only [none]

/-- A reshape with a target and no job. -/
theorem reshapeStep_begins {tgt : List Word} (none : u.crew.jobs.find? (·.kind == 7) = none) (target : u.crew.target = some tgt)
    (free : mayBackground u (u.critFld 13 11 0) = true) (runs_ : reshaping u (u.critFld 13 11 0) = true) :
    exec (.reshapeStep e) s = .next (if !(!u.crew.recopy.isEmpty || decide (u.fld Reg.CREWG.RESHAPE_WM 23 0 < bStripes tgt)) then u
      else reshapeBegun e tgt u) := by
  subst drained
  have run : exec (.reshapeStep e) s = execReshapeStep e s := rfl
  have due : reshapeDue (crewDrain s) ((crewDrain s).critFld 13 11 0)
      = (!(crewDrain s).crew.recopy.isEmpty || decide ((crewDrain s).fld Reg.CREWG.RESHAPE_WM 23 0 < bStripes tgt)) := by
    rw [reshapeDue, free, runs_, target, Option.any_some]
    rfl
  rw [run, execReshapeStep, when_met runs]
  simp only [none, target]
  rw [due]
  rfl

end

end

theorem setCritFld_crew (s : State) (n hi lo v : Nat) : (s.setCritFld n hi lo v).crew = s.crew :=
  (State.setCritFld_stays s n hi lo v).same .crew (by decide)

theorem band_of_crew {s t : State} (h : t.crew = s.crew) (b : Nat) : band t b = band s b :=
  congrArg (fun c : Crew => SMap.get (fun _ => none) c.bands b) h

/-- Settles O55. -/
theorem crewWork : Obligations.CrewWork := by
  refine ⟨fun s x e ty u w runs owned runs_ drained stepped => ⟨fun kind => ?_, fun kind => ?_, fun kind => ?_⟩,
    fun s id j k u found runs drained again over_ small => ?_, fun s e b slot j u runs second drained job => ?_,
    fun s e b slot u d runs second drained words none => ⟨fun wanted here => ⟨fun room => ?_, fun full => ?_⟩, fun wanted apart => ?_,
      fun idle => ?_⟩,
    fun s e b u runs drained => ⟨fun j job => ?_, fun none may wants unready => ⟨fun more => ?_, fun done => ?_⟩, fun none idle => ?_⟩,
    fun s e u runs drained => ⟨fun j job => ?_, fun none off => ?_, fun b st lap none on level enabled idle next => ?_⟩,
    fun s e u tgt wm runs drained none target free runs_ mark => ⟨fun x rest again => ?_, fun empty more => ?_, fun empty done => ?_⟩,
    fun s b x tgt u v at_ runs enabled target ready still put lost => ?_⟩
  · subst kind owned drained
    obtain ⟨takes, full⟩ := stripeCommand_cases runs stepped
    exact ⟨fun h => congrArg Host.Outcome.next (takes h), fun h => congrArg Host.Outcome.next (full h)⟩
  · subst kind owned drained
    obtain ⟨takes, full⟩ := stripeCommand_cases runs stepped
    exact ⟨fun h => congrArg Host.Outcome.next (takes h), fun h => congrArg Host.Outcome.next (full h)⟩
  · subst kind owned drained
    have own : exec (.stripeRepair e) s = .next (stripeCommand 3 e (ownRepair e s)) := by
      have run : exec (.stripeRepair e) s = execStripeRepair e s := rfl
      rw [run, execStripeRepair, when_met runs]
    obtain ⟨takes, full⟩ := stripeCommand_cases runs_ stepped
    exact ⟨fun h => own.trans (congrArg Host.Outcome.next (takes h)), fun h => own.trans (congrArg Host.Outcome.next (full h))⟩
  · subst drained
    have run : exec (.stripeDone id) s = execStripeDone id s := rfl
    rw [run, execStripeDone, when_met (by rw [found]; exact runs)]
    simp only [again]
    rw [if_pos (by simp [over_, small])]
  · subst drained
    have run : exec (.rebuildStep e b slot) s = execRebuildStep e b slot s := rfl
    rw [run, execRebuildStep, when_met (by simp [runs, second])]
    simp only [job]
  · rw [rebuildStep_begins runs drained second none, if_neg (not_not_of wanted), if_neg (not_not_of here),
      if_neg (not_not_of (show rebuildRoom u = true from decide_eq_true room)), ← words]
  · rw [rebuildStep_begins runs drained second none, if_neg (not_not_of wanted), if_neg (not_not_of here),
      if_pos (by rw [show rebuildRoom u = false from decide_eq_false (Nat.not_lt.2 full)]; rfl)]
  · rw [rebuildStep_begins runs drained second none, if_neg (not_not_of wanted), if_pos (by rw [apart]; rfl)]
  · rw [rebuildStep_begins runs drained second none, if_pos (by rw [idle]; rfl)]
  · subst drained
    have run : exec (.resyncStep e b) s = execResyncStep e b s := rfl
    rw [run, execResyncStep, when_met runs]
    simp only [job]
  · have wanted : resyncWanted u b = true := by rw [resyncWanted, may, wants, unready]; rfl
    rw [resyncStep_begins runs drained none, if_neg (not_not_of wanted), if_neg (Nat.not_le.2 more)]
  · have wanted : resyncWanted u b = true := by rw [resyncWanted, may, wants, unready]; rfl
    rw [resyncStep_begins runs drained none, if_neg (not_not_of wanted), if_pos done]
  · have unwanted : resyncWanted u b = false := by
      rcases idle with h | h <;> simp [resyncWanted, h]
    rw [resyncStep_begins runs drained none, if_pos (by rw [unwanted]; rfl)]
  · subst drained
    have run : exec (.patrolStep e) s = execPatrolStep e s := rfl
    rw [run, execPatrolStep, when_met runs]
    simp only [job]
  · subst drained
    have run : exec (.patrolStep e) s = execPatrolStep e s := rfl
    have idle : patrolDue (crewDrain s) = false := by simp [patrolDue, off]
    rw [run, execPatrolStep, when_met runs]
    simp only [none]
    rw [if_pos (by rw [idle]; rfl)]
  · subst drained
    have run : exec (.patrolStep e) s = execPatrolStep e s := rfl
    have due : patrolDue (crewDrain s) = true := by simp [patrolDue, on, level, enabled, idle]
    rw [run, execPatrolStep, when_met runs]
    simp only [none, next]
    rw [if_neg (not_not_of due)]
  · rw [reshapeStep_begins runs drained none target free runs_, reshapeBegun, again, if_neg (by simp)]
  · rw [reshapeStep_begins runs drained none target free runs_, reshapeBegun, empty, ← mark, if_neg (by simp [more])]
  · rw [reshapeStep_begins runs drained none target free runs_, empty, ← mark, if_pos (by simp [done])]
  · have run : exec .reshapeSwitch s = execReshapeSwitch s := rfl
    have any : (List.range 8).any (crewRuns s) = true := List.any_eq_true.2 ⟨0, by decide, runs⟩
    have crew := setCritFld_crew s 13 17 17 1
    have kept : band (s.setCritFld 13 17 17 1) b = some x := (band_of_crew crew b).trans enabled
    have aim : (s.setCritFld 13 17 17 1).crew.target = some tgt := (congrArg Crew.target crew).trans target
    rw [run, execReshapeSwitch]
    dsimp only
    rw [← at_, when_met (by simp [any, enabled, ready, still])]
    simp only [kept, aim]
    rw [← put, ← lost]

end Sys2Proof.Machine
end
